-- ==== Sys2Proof/Word.lean ====
section
/-! DEFINITION. Machine words, bytes, sets of lanes, and finite maps held as plain data.

`KV α` is the one representation of sparse state (registers, memory, queues of
messages): a list of (key, value) pairs that `put` keeps in rising order of key.
Its read-after-write laws hold for every list (Sys2Proof.Laws.KV). -/
namespace Sys2Proof

/-- A 32-bit register or instruction word (00 R9, 02 R27). -/
abbrev Word := BitVec 32
/-- A byte of memory or of a bin. -/
abbrev Byte := BitVec 8
/-- A 64-bit value: a pair, a program counter, a control-page field. -/
abbrev DWord := BitVec 64
/-- A set of lanes, bit i standing for lane i: the layout of a mask register (04 R65). -/
abbrev LaneSet := BitVec 64

/-- A finite map from natural numbers: (key, value) pairs, keys rising. -/
abbrev KV (α : Type) := List (Nat × α)

/-- The value at a key, if one is listed. -/
def KV.find? {α : Type} : KV α → Nat → Option α
  | [], _ => none
  | (a, v) :: r, k => if a = k then some v else KV.find? r k

/-- The value at a key, or a default. -/
def KV.getD {α : Type} (m : KV α) (k : Nat) (d : α) : α := (KV.find? m k).getD d

/-- Sets the value at a key, at the key's place in rising order. -/
def KV.put {α : Type} : KV α → Nat → α → KV α
  | [], k, v => [(k, v)]
  | (a, w) :: r, k, v =>
    if a = k then (k, v) :: r
    else if k < a then (k, v) :: (a, w) :: r
    else (a, w) :: KV.put r k v

/-- Removes a key. -/
def KV.erase {α : Type} : KV α → Nat → KV α
  | [], _ => []
  | (a, w) :: r, k => if a = k then KV.erase r k else (a, w) :: KV.erase r k

/-- Keys in strictly rising order, all above the bound given (if any). -/
def KV.sortedFrom {α : Type} : Option Nat → KV α → Bool
  | _, [] => true
  | lo, (a, _) :: r => (match lo with | none => true | some l => decide (l < a)) && KV.sortedFrom (some a) r

/-- Keys in strictly rising order. -/
def KV.sorted {α : Type} (m : KV α) : Bool := KV.sortedFrom none m

/-- The lanes of a set in ascending order. -/
def lanesOf (m : LaneSet) : List Nat := (List.range 64).filter (fun i => m.getLsbD i)

/-- The set of one lane. -/
def laneBit (i : Nat) : LaneSet := BitVec.ofNat 64 (2 ^ i)

/-- The lanes among the first `n` for which `f` holds. -/
def laneSetOf (n : Nat) (f : Nat → Bool) : LaneSet :=
  (List.range n).foldl (fun m i => if f i then m ||| laneBit i else m) 0

/-- The set of the first `w` lanes. -/
def fullSet (w : Nat) : LaneSet := BitVec.ofNat 64 (2 ^ w - 1)

/-- The number of lanes in a set. -/
def laneCount (m : LaneSet) : Nat := (lanesOf m).length

/-- A pair of words as one 64-bit value, the first word in the low half (01 R9). -/
def pairOf (lo hi : Word) : DWord := hi ++ lo
/-- The low word of a 64-bit value. -/
def loWord (x : DWord) : Word := x.extractLsb' 0 32
/-- The high word of a 64-bit value. -/
def hiWord (x : DWord) : Word := x.extractLsb' 32 32

/-- The `n` low bytes of a number, least significant first (00 R5: little-endian). -/
def bytesOf : Nat → Nat → List Byte
  | 0, _ => []
  | n + 1, x => BitVec.ofNat 8 x :: bytesOf n (x / 256)

/-- The number that a list of bytes spells, least significant byte first. -/
def natOfBytes : List Byte → Nat
  | [] => 0
  | b :: r => b.toNat + 256 * natOfBytes r

/-- The 32-bit words of a list of bytes, little-endian; a tail shorter than a word is zero-extended. -/
def wordsOfBytes : List Byte → List Word
  | [] => []
  | [a] => [BitVec.ofNat 32 a.toNat]
  | [a, b] => [BitVec.ofNat 32 (a.toNat + 256 * b.toNat)]
  | [a, b, c] => [BitVec.ofNat 32 (a.toNat + 256 * b.toNat + 65536 * c.toNat)]
  | a :: b :: c :: d :: r => (d ++ c ++ b ++ a) :: wordsOfBytes r

/-- The bytes of a list of words, little-endian. -/
def bytesOfWords : List Word → List Byte
  | [] => []
  | w :: r => w.extractLsb' 0 8 :: w.extractLsb' 8 8 :: w.extractLsb' 16 8 :: w.extractLsb' 24 8 :: bytesOfWords r

end Sys2Proof
end

