-- ==== Sys2Proof/Syntax.lean ====
section
/-! DEFINITION. The instructions: one constructor per row of the opcode table, with typed operands
(02 R31 to R46, and the encoding table of each chapter). -/
namespace Sys2Proof

/-- A register field (Table 2.3): lane register, uniform register, zero, lane index, latch. -/
inductive Reg where
  | v (n : Fin 96)
  | s (n : Fin 24)
  | z
  | li
  | b (n : Fin 4)
  deriving DecidableEq, Repr

/-- A register field of a uniform-set instruction (Table 2.3). -/
inductive SReg where
  | s (n : Fin 24)
  | z
  deriving DecidableEq, Repr

/-- The destination of a lane-set instruction with a one-register result: a lane register, z (discarded), or the
latch alone (WS = 1, 02 R36). -/
inductive Dst where
  | v (n : Fin 96)
  | z
  | latch
  deriving DecidableEq, Repr

/-- A predicate as a source or a guard: p or q 0 to 6, or always true (02 R34, R35). -/
inductive Pred where
  | p (n : Fin 7)
  | t
  deriving DecidableEq, Repr

/-- TYPE codes (Table 2.8). -/
inductive Ty where
  | s8 | z8 | s16 | z16 | s32 | z32 | s64 | z64 | f32 | f16 | bf16 | e4m3 | e5m2 | mxf8 | mxf4 | s4 | spt8 | e2m1
  deriving DecidableEq, Repr

/-- A rounding mode (Table 1.2). -/
inductive RM where
  | rn | rz | ru | rd
  deriving DecidableEq, Repr

/-- Access sizes (Table 2.8). -/
inductive Size where
  | b8 | b16 | b32 | b64 | b128
  deriving DecidableEq, Repr

/-- Scopes, each within the next (Table 2.8, 12 R214). -/
inductive Scope where
  | sh | st | bn | di | pk | sy
  deriving DecidableEq, Repr

/-- Ordering codes (Table 2.8). -/
inductive Order where
  | plain | acq | rel | ar
  deriving DecidableEq, Repr

/-- Conditions of ICMP and SCMP (Table 5.2). -/
inductive Cond where
  | eq | ne | lt | le | gt | ge
  deriving DecidableEq, Repr

/-- Conditions of FCMP (Table 7.2). -/
inductive FCond where
  | eq | ne | lt | le | gt | ge | num | nan
  deriving DecidableEq, Repr

/-- How a compare combines with a predicate (05 R97). -/
inductive Combine where
  | none
  | and (p : Pred)
  | or (p : Pred)
  | xor (p : Pred)
  deriving DecidableEq, Repr

/-- Modes of XCH (05 R102). -/
inductive XMode where
  | idx | xor | up | dn
  deriving DecidableEq, Repr

/-- Operations of REDUX (05 R105). -/
inductive RedOp where
  | add | min | max | and | or | xor
  deriving DecidableEq, Repr

/-- The operations of PLOG with the operands each takes (Table 5.3). -/
inductive PlogArgs where
  | and (d : Fin 7) (a b : Pred)
  | or (d : Fin 7) (a b : Pred)
  | xor (d : Fin 7) (a b : Pred)
  | andn (d : Fin 7) (a b : Pred)
  | mov (d : Fin 7) (a : Pred)
  | not (d : Fin 7) (a : Pred)
  | pack (d : Dst)
  | unpack (a : Reg)
  deriving DecidableEq, Repr

/-- The modes of VOTE with the destination each takes (05 R103). -/
inductive VoteDst where
  | any (d : Fin 7)
  | all (d : Fin 7)
  | bal (d : Reg)
  deriving DecidableEq, Repr

/-- The operations of MKLOG with the masks each reads (Table 4.2). -/
inductive MkLog where
  | and (a b : Fin 12)
  | or (a b : Fin 12)
  | andn (a b : Fin 12)
  | xor (a b : Fin 12)
  | mov (a : Fin 12)
  | clr
  | not (a : Fin 12)
  deriving DecidableEq, Repr

/-- Atomic operations in the order of their MOP codes (Table 9.5). -/
inductive AtomOp where
  | add | sub | minS | maxS | minZ | maxZ | and | or | xor | exch | incw | decw | addF32
  deriving DecidableEq, Repr

/-- The OFFSET field of ATOM, CAS, RED, WAITA and WAKE: a byte offset for SPACE 0, a region handle's register for
SPACE 4 (02 R39, R42). -/
inductive GOff where
  | off (o : BitVec 15)
  | fit (h : Fin 24)
  deriving DecidableEq, Repr

/-- A space of a copy (Table 10.3). -/
inductive CpySpace where
  | glob | abin | wbin | cbin
  deriving DecidableEq, Repr

/-- Transposition of CPY2 (Table 10.3). -/
inductive CpyTr where
  | none | t2 | t4
  deriving DecidableEq, Repr

/-- How PFL2 completes: on a tag, or on a counter (.CC) (10 R179). -/
inductive Pfl2Args where
  | tag (t : Fin 64)
  | cc (b : SReg)
  deriving DecidableEq, Repr

/-- Operations of COLL (Table 20.6). -/
inductive CollOp where
  | add | min | max | or
  deriving DecidableEq, Repr

/-- Kinds of COLL (Table 20.6). -/
inductive CollKind where
  | red | bc | ar
  deriving DecidableEq, Repr

/-- Special registers (Table 2.14). -/
inductive Spr where
  | sheaf | stookX | stookY | stookZ | crop | width | role | core | barn | die | ncore | cycles | pennants | chdepth
  | binw | bina | binc | ctx | prio
  deriving DecidableEq, Repr

/-- The control pages (00 R387): translation, launch, trap, fabric, reliability. -/
inductive Page where
  | translation | launch | trap | fabric | reliability
  deriving DecidableEq, Repr

/-- An access that the host or a peer device makes to this device's memory, at a local physical address. -/
inductive Access where
  | read (addr n : Nat)
  | write (addr : Nat) (bytes : List Byte)
  | atomic (op : AtomOp) (addr : Nat) (size : Size) (operand : DWord)
  | cas (addr n : Nat) (cmp swp : List Byte)
  /-- the host takes a 64-byte half of a line, to read it or to modify it (12 R224) -/
  | hold (addr : Nat) (modified : Bool)
  /-- the host gives a held half back -/
  | release (addr : Nat) (bytes : List Byte)
  /-- a WAITA of a peer for a word of this device, and a WAKE of one (13 R241, R243) -/
  | wait (addr n : Nat) (expect : List Byte)
  | wake (addr n : Nat)
  deriving DecidableEq, Repr

/-- What firmware finds as it recomputes the routes: the devices reached, and the groups of which a failed link carried an
edge (20 R345, R351). -/
structure Reach where
  devices : List Nat
  broken : List Nat
  deriving DecidableEq, Repr

/-- One constructor per row of spec/opcode_table.json. A row of instruction words carries its guard and
operands (02 R31 to R41); a row that is a step of an agent of the device carries what names the step. -/
inductive Instr where
  /-- R54: A ready sheaf unserved for R consecutive cycles becomes starved and gains precedence. -/
  | starved (sid : Nat) (uni : Bool)
  /-- R59: A lane's ageing counter saturates at 15 and its PC enters the sheaf's forced queue. -/
  | forcedQueueEntry (sid : Nat) (lane : Nat)
  /-- R185: Zeroing after a grant to another crop ends and the first queued operation may start. -/
  | thresherZeroingDone (core : Nat)
  /-- R202: The head thresher operation starts, no sooner than 4 cycles after issue. -/
  | thresherOpStart (core : Nat)
  /-- R188: A running thresher operation ends, freeing a queue entry and releasing waiters. -/
  | thresherOpComplete (core : Nat)
  /-- R173: A queued wain operation starts in queue order when fewer than four run. -/
  | wainStart (core : Nat)
  /-- R172: A wain operation finishes, and its tag becomes READY with its count and status. -/
  | wainComplete (core : Nat) (tag : Nat)
  /-- R178: The host returns no flow-control credit for 1 ms, and the CPYH stops with CAUSE 3. -/
  | cpyhCreditTimeout (core : Nat) (tag : Nat)
  /-- R179: A PFL2 completes on its tag, or decrements its counter with a release. -/
  | pfl2Complete (die : Nat) (id : Nat)
  /-- R349: A collective step's combination ends, and each member's destination is written and its tag made READY. -/
  | collStepComplete (id : Nat) (peers : List Byte) (cause : Nat)
  /-- R210: The home records a word's registration to a barn, recalling or transferring as needed. -/
  | registration (msg : Nat)
  /-- R210: The home's acknowledgement of a registration reaches the L1, which may complete waiting releases. -/
  | registrationAck (msg : Nat)
  /-- R211: A recall from the home makes a barn write back its owned words of a line. -/
  | ownerRecall (barn : Nat) (line : Nat) (words : Word)
  /-- R213: A read forwarded from the home is answered by the owner with its written bytes. -/
  | forwardedRead (msg : Nat)
  /-- R220: A forwarded read reaches a barn that no longer owns the word and is refused. -/
  | readRefusal (msg : Nat)
  /-- R219: The home records a write-back of owned or phase words and acknowledges it. -/
  | writeBack (msg : Nat)
  /-- R219: An L1 evicts a line, writing owned and phase words back and publishing gather copies. -/
  | l1Eviction (barn : Nat) (line : Nat)
  /-- R239: A gather copy reaches the home and is combined into the word. -/
  | redPublication (barn : Nat) (addr : Nat)
  /-- R242: The home evicts a line after recalling owners, releasing its waiters with status 2. -/
  | l2LineEviction (line : Nat)
  /-- R302: Without a free wait entry, CCWAIT reads its counter again every 1,024 cycles. -/
  | ccwaitPollTimer (sid : Nat)
  /-- R222: A peer device's access over the Bruvas links is performed and acknowledged at this device's home. -/
  | peerAccess (dev : Nat) (acc : Access)
  /-- R286: A host atomic swap, such as an exchange of a dirty bitmap word, is performed at the word's home. -/
  | hostAtomicSwap (addr : Nat) (value : DWord)
  /-- R283: A slot frees in the full fault queue and a waiting record is written. -/
  | faultRecordDeferred
  /-- R284: The host's ANSWER write retries or declines every accessor parked on a record. -/
  | answer (value : DWord)
  /-- R282: A write of a context number drops that context's cached translations. -/
  | invctx (ctx : Nat)
  /-- R388: A changing write of FQBASE or FQSIZE resets FQTAIL and FQHEAD. -/
  | faultQueueReconfig (offset : Nat) (size : Nat) (value : DWord)
  /-- R387: A write to a control-page register without behaviour of its own stores the value under the field rules. -/
  | registerWrite (page : Page) (offset : Nat) (size : Nat) (value : DWord)
  /-- R287: A write of QTAIL records a doorbell, or is ignored with QERR 12 when beyond QSIZE. -/
  | qtailDoorbell (queue : Nat) (value : Word)
  /-- R291: The dispatcher copies the record at QHEAD, advances QHEAD and checks the DEP words. -/
  | recordTake (queue : Nat)
  /-- R292: Every dependence counter has been read at zero or below; the record is checked or rejected. -/
  | dependencesMet (queue : Nat)
  /-- R295: The dispatcher visits seats in order and places the next ricks or stooks that fit. -/
  | dealRound (part : Nat)
  /-- R297: A finished stook retires, freeing its footprint and counting up the completion tree. -/
  | stookRetire (uid : Nat)
  /-- R297: Every core that ran the crop has passed its next scan; SUSPECT is updated and CONFCNT decremented. -/
  | cropConfirm (seq : Nat)
  /-- R293: Writing 1 to byte 24 of a partition entry commits it and requests a reconfiguration. -/
  | partitionCommit (part : Nat)
  /-- R293: With no stook resident, the partition page is rewritten under an odd GEN. -/
  | reconfiguration (part : Nat)
  /-- R331: The dispatcher writes blocked stooks to the park area and frees their footprint. -/
  | parkEviction (uid : Nat)
  /-- R332: A parked stook whose wake condition is met is placed again. -/
  | parkRestore (uid : Nat)
  /-- R322: Once a record slot and room exist, the record is written and the trap stook placed at the handler. -/
  | trapStookStart (sid : Nat)
  /-- R334: PRCTL OP 1 pre-empts a partition into PAREA in bounded steps. -/
  | preempt (part : Nat)
  /-- R335: PRCTL OP 2 restores a partition from the context area at PAREA. -/
  | restoreParea (part : Nat)
  /-- R335: PRCTL OP 3 restores a partition from its own slice area. -/
  | restoreSarea (part : Nat)
  /-- R333: A PRCTL write with OP 0 has no effect. -/
  | prctlNone (part : Nat)
  /-- R333: TSLICE expires and the partition is pre-empted automatically into its SAREA. -/
  | sliceExpiry (part : Nat)
  /-- R333: A pre-emption or restore ends; PSTATE, PSTAT and PDONE are set and the interrupt raised. -/
  | preemptOperationEnd
  /-- R272: The winnower compares one key of the reference against the network, inserting an exception. -/
  | buildStep (region : Nat)
  /-- R274: The winnower starts a queued refit, writing the proposal and clearing the new list. -/
  | refitStart (die : Nat)
  /-- R274: One key of the refit sweep is decided indivisibly at the home. -/
  | refitStep (region : Nat)
  /-- R274: After the sweep, the generation swaps in one step at the home when the new list is smaller. -/
  | refitCommit (region : Nat)
  /-- R270: An FST that finds no room starts an urgent refit ahead of queued requests. -/
  | urgentRefitStart (region : Nat)
  /-- R345: A link whose replays fail for 16 us is declared down. -/
  | bruvasLinkDown (link : Nat)
  /-- R345: A link is trained and carries traffic, and UP is set. -/
  | bruvasLinkUp (link : Nat) (peer : Nat) (peerLink : Nat)
  /-- R345: Firmware recomputes peer routes after a link goes down or up. -/
  | routeRecompute (reach : Reach)
  /-- R341: A host link goes down: its CPYHs fail, its fault records wait and its half-held lines are lost. -/
  | hostLinkDown (link : Nat)
  /-- R352: A write of a group table entry; clearing VALID completes pending steps with CAUSE 5. -/
  | groupEntryWrite (entry : Nat) (offset : Nat) (size : Nat) (value : DWord)
  /-- R342: Unmasking a vector with its pending bit set sends the message once. -/
  | msixUnmask (fn : Nat) (vector : Nat)
  /-- R357: A barn's scan rotation begins a 2.5 ms visit, and placement on the core stops. -/
  | scanVisitStart (barnId : Nat)
  /-- R357: At 1 ms into a visit, stooks still resident are written out and moved elsewhere. -/
  | scanMove (barnId : Nat)
  /-- R357: At 1.45 ms the scan patterns are compared: the core returns to placement or fails. -/
  | scanResult (barnId : Nat) (pass : Bool)
  /-- R356: A consumed uncorrectable error kills the rick, which may be relaunched. -/
  | rickKill (uid : Nat)
  /-- R354: The patrol scrub reads and corrects each HBM line once in 24 hours. -/
  | patrolScrub (line : Nat)
  /-- R361: A reset starts bring-up, with every function not ready. -/
  | reset
  /-- R361: A function passes bring-up and sets its READY bit, or its FAIL bit. -/
  | functionReady (bit : Nat) (ok : Bool)
  /-- R362: The boot ROM checks the Immet image's signature and security version before loading it. -/
  | firmwareBoot (image : List Byte) (version : Nat) (modulus : Nat) (exponent : Nat) (signature : List Byte) (devnum : Nat) (clash : Bool)
  /-- R363: A junction above 105 C stops the device, clears READY and takes the links down. -/
  | overtemp
  /-- R364: A write of 1 to ATTCTL starts building a signed attestation report. -/
  | attestationStart
  /-- R364: The report is written to ATTADDR and ATTCTL reads 2. -/
  | attestationDone
  /-- R47: A path issues an unassigned, reserved or otherwise illegal encoding and raises ILL with no effect. -/
  | illegalEncoding
  /-- R28: A path whose instruction words cannot be fetched issues and parks, or raises XLAT with the fetch flag. -/
  | instructionFetchFault
  /-- R217: A home's reply to a load reaches the L1, installing unowned words with their class and widening on the widen bit. -/
  | homeReply (msg : Nat)
  /-- R232: An ATOM, CAS, WAITA or WAKE request is performed at the word's home: it updates, parks or wakes, and replies. -/
  | atomicAtHome (msg : Nat)
  /-- R222: A peer device's home acknowledges a write or answers a load or atomic of this device over the Bruvas links. -/
  | peerHomeReply (msg : Nat) (reply : List Byte) (ok : Bool)
  /-- R224: The host reads or writes device memory through a BAR window or CXL.mem, taking or returning a half of a device line. -/
  | hostMemoryAccess (acc : Access)
  /-- R224: The host answers a back-invalidation snoop, releasing the recalled half so the parked registration or read proceeds. -/
  | hostSnoopResponse (half : Nat) (bytes : Option (List Byte))
  /-- R341: A host link that went down is trained again, and the function's waiting fault records are written. -/
  | hostLinkUp (link : Nat)
  /-- R92: Adds two 32-bit registers per lane, wrapping or saturating; this is the B32 form. -/
  | iaddB32 (g : Pred) (d : Dst) (a : Reg) (b : Reg)
  /-- R92: Subtracts two 32-bit registers per lane; this is the B32 form. -/
  | isubB32 (g : Pred) (d : Dst) (a : Reg) (b : Reg)
  /-- R92: Writes the low 32 bits of a per-lane product; this is the B32 form. -/
  | imulB32 (g : Pred) (d : Dst) (a : Reg) (b : Reg)
  /-- R92: Writes the high 32 bits of a signed per-lane product. -/
  | imulhS32B32 (g : Pred) (d : Dst) (a : Reg) (b : Reg)
  /-- R92: Writes the high 32 bits of an unsigned per-lane product. -/
  | imulhZ32B32 (g : Pred) (d : Dst) (a : Reg) (b : Reg)
  /-- R92: Writes the signed minimum of two registers per lane. -/
  | iminS32B32 (g : Pred) (d : Dst) (a : Reg) (b : Reg)
  /-- R92: Writes the signed maximum of two registers per lane. -/
  | imaxS32B32 (g : Pred) (d : Dst) (a : Reg) (b : Reg)
  /-- R92: Writes the unsigned minimum of two registers per lane. -/
  | iminZ32B32 (g : Pred) (d : Dst) (a : Reg) (b : Reg)
  /-- R92: Writes the unsigned maximum of two registers per lane. -/
  | imaxZ32B32 (g : Pred) (d : Dst) (a : Reg) (b : Reg)
  /-- R94: Shifts a register left by a register count per lane; this is the B32 form. -/
  | shlB32 (g : Pred) (d : Dst) (a : Reg) (b : Reg)
  /-- R94: Shifts a register right logically per lane. -/
  | shrZ32B32 (g : Pred) (d : Dst) (a : Reg) (b : Reg)
  /-- R94: Shifts a register right arithmetically per lane. -/
  | shrS32B32 (g : Pred) (d : Dst) (a : Reg) (b : Reg)
  /-- R95: Bitwise AND per lane; this is the B32 form. -/
  | andB32 (g : Pred) (d : Dst) (a : Reg) (b : Reg)
  /-- R95: Bitwise OR per lane; this is the B32 form. -/
  | orB32 (g : Pred) (d : Dst) (a : Reg) (b : Reg)
  /-- R95: Bitwise XOR per lane; this is the B32 form. -/
  | xorB32 (g : Pred) (d : Dst) (a : Reg) (b : Reg)
  /-- R95: Computes A and not B per lane; this is the B32 form. -/
  | andnB32 (g : Pred) (d : Dst) (a : Reg) (b : Reg)
  /-- R98: Copies a source into a lane register; this is the B32 form. -/
  | movB32 (g : Pred) (d : Dst) (a : Reg)
  /-- R95: Counts the one bits of a register per lane; this is the B32 form. -/
  | popcB32 (g : Pred) (d : Dst) (a : Reg)
  /-- R95: Counts the leading zeros of a register per lane; this is the B32 form. -/
  | clzB32 (g : Pred) (d : Dst) (a : Reg)
  /-- R95: Reverses the bits of a register per lane; this is the B32 form. -/
  | brevB32 (g : Pred) (d : Dst) (a : Reg)
  /-- R93: Adds two 64-bit register pairs per lane; this is the B32 form, with even fields. -/
  | iadd64B32 (g : Pred) (d : Reg) (a : Reg) (b : Reg)
  /-- R92: Writes the absolute value of a signed register per lane; this is the B32 form. -/
  | iabsB32 (g : Pred) (d : Dst) (a : Reg)
  /-- R92: Negates a signed register per lane; this is the B32 form. -/
  | inegB32 (g : Pred) (d : Dst) (a : Reg)
  /-- R121: Adds two F32 values with one rounding per lane. -/
  | faddF32B32 (g : Pred) (d : Dst) (a : Reg) (b : Reg)
  /-- R121: Subtracts two F32 values with one rounding per lane. -/
  | fsubF32B32 (g : Pred) (d : Dst) (a : Reg) (b : Reg)
  /-- R121: Multiplies two F32 values with one rounding per lane. -/
  | fmulF32B32 (g : Pred) (d : Dst) (a : Reg) (b : Reg)
  /-- R123: Writes the F32 minimumNumber of two values per lane. -/
  | fminF32B32 (g : Pred) (d : Dst) (a : Reg) (b : Reg)
  /-- R123: Writes the F32 maximumNumber of two values per lane. -/
  | fmaxF32B32 (g : Pred) (d : Dst) (a : Reg) (b : Reg)
  /-- R126: Writes the correctly rounded F32 reciprocal per lane. -/
  | frcpF32B32 (g : Pred) (d : Dst) (a : Reg)
  /-- R126: Writes the correctly rounded F32 reciprocal square root per lane. -/
  | frsqF32B32 (g : Pred) (d : Dst) (a : Reg)
  /-- R126: Writes the correctly rounded F32 square root per lane. -/
  | fsqrtF32B32 (g : Pred) (d : Dst) (a : Reg)
  /-- R126: Writes the correctly rounded F32 base-2 exponential per lane. -/
  | fexp2F32B32 (g : Pred) (d : Dst) (a : Reg)
  /-- R126: Writes the correctly rounded F32 base-2 logarithm per lane. -/
  | flog2F32B32 (g : Pred) (d : Dst) (a : Reg)
  /-- R121: Adds packed BF16 pairs per lane. -/
  | faddBf16B32 (g : Pred) (d : Dst) (a : Reg) (b : Reg)
  /-- R121: Multiplies packed BF16 pairs per lane. -/
  | fmulBf16B32 (g : Pred) (d : Dst) (a : Reg) (b : Reg)
  /-- R121: Adds packed F16 pairs per lane. -/
  | faddF16B32 (g : Pred) (d : Dst) (a : Reg) (b : Reg)
  /-- R121: Multiplies packed F16 pairs per lane. -/
  | fmulF16B32 (g : Pred) (d : Dst) (a : Reg) (b : Reg)
  /-- R125: Writes the F32 class mask per lane. -/
  | fclassF32B32 (g : Pred) (d : Dst) (a : Reg)
  /-- R75: Branches the lanes of E by a 22-bit PC-relative offset. -/
  | braB32 (g : Pred) (off : BitVec 22)
  /-- R78: Returns each lane of E to the address in its pair; this is the B32 form. -/
  | retB32 (g : Pred) (a : Reg)
  /-- R79: Ends the lanes of E, and ends the sheaf with its last lane. -/
  | exitB32 (g : Pred)
  /-- R80: Moves on, and has the sheaf passed over at priority selection next cycle. -/
  | yieldB32 (g : Pred)
  /-- R81: Moves the lanes of E to the next instruction. -/
  | nopB32 (g : Pred)
  /-- R68: Writes the set of lanes of E into a mask. -/
  | mkcurB32 (g : Pred) (m : Fin 12)
  /-- R71: Holds the lanes of m at this address until all of m has arrived, then releases them. -/
  | joinB32 (g : Pred) (m : Fin 12)
  /-- R72: Removes the lanes of E from a mask and rechecks its release conditions. -/
  | leaveB32 (g : Pred) (m : Fin 12)
  /-- R142: Adds F32 values and pushes the residual or a SAVE entry. -/
  | raddF32B32 (g : Pred) (d : Dst) (a : Reg) (b : Reg)
  /-- R142: Pops an RADD entry and rebuilds the original operand. -/
  | unaddF32B32 (g : Pred) (d : Dst) (a : Reg) (b : Reg)
  /-- R143: Multiplies F32 values and pushes the residual or a SAVE entry. -/
  | rmulF32B32 (g : Pred) (d : Dst) (a : Reg) (b : Reg)
  /-- R143: Pops an RMUL.F32 entry and rebuilds the original operand. -/
  | unmulF32B32 (g : Pred) (d : Dst) (a : Reg) (b : Reg)
  /-- R145: Rectifies an F32 value and pushes KEEP or the operand. -/
  | rreluF32B32 (g : Pred) (d : Dst) (a : Reg)
  /-- R145: Pops an RRELU entry and rebuilds the operand. -/
  | unreluF32B32 (g : Pred) (d : Dst) (a : Reg)
  /-- R143: Multiplies S32 values and pushes the high word or the operand. -/
  | rmulS32B32 (g : Pred) (d : Dst) (a : Reg) (b : Reg)
  /-- R143: Pops an RMUL.S32 entry and rebuilds the operand. -/
  | unmulS32B32 (g : Pred) (d : Dst) (a : Reg) (b : Reg)
  /-- R92: Adds two 32-bit registers per lane, with type and .SAT; this is the X64 form. -/
  | iaddX64 (g : Pred) (d : Dst) (a : Reg) (b : Reg) (ty : Ty) (sat : Bool)
  /-- R92: Subtracts two 32-bit registers per lane, with type and .SAT. -/
  | isubX64 (g : Pred) (d : Dst) (a : Reg) (b : Reg) (ty : Ty) (sat : Bool)
  /-- R92: Writes the low 32 bits of a per-lane product; this is the X64 form. -/
  | imulX64 (g : Pred) (d : Dst) (a : Reg) (b : Reg) (ty : Ty)
  /-- R92: Writes the high 32 bits of a per-lane product, with the type selected in MOD. -/
  | imulhX64 (g : Pred) (d : Dst) (a : Reg) (b : Reg) (ty : Ty)
  /-- R92: Writes the low 32 bits of A times B plus C per lane. -/
  | imad (g : Pred) (d : Dst) (a : Reg) (b : Reg) (c : Reg) (ty : Ty)
  /-- R93: Computes a widening multiply-add into a 64-bit pair per lane. -/
  | imadw (g : Pred) (d : Reg) (a : Reg) (b : Reg) (c : Reg) (ty : Ty)
  /-- R93: Adds two 64-bit register pairs per lane; this is the X64 form. -/
  | iadd64X64 (g : Pred) (d : Reg) (a : Reg) (b : Reg) (ty : Ty)
  /-- R93: Adds a shifted, extended 32-bit register to a 64-bit pair per lane. -/
  | leaX64 (g : Pred) (d : Reg) (a : Reg) (b : Reg) (ty : Ty) (sh : Fin 8)
  /-- R92: Writes the absolute value per lane, with .SAT; this is the X64 form. -/
  | iabsX64 (g : Pred) (d : Dst) (a : Reg) (sat : Bool)
  /-- R92: Negates a signed register per lane, with .SAT; this is the X64 form. -/
  | inegX64 (g : Pred) (d : Dst) (a : Reg) (sat : Bool)
  /-- R92: Writes the minimum of two registers per lane under the type; this is the X64 form. -/
  | iminX64 (g : Pred) (d : Dst) (a : Reg) (b : Reg) (ty : Ty)
  /-- R92: Writes the maximum of two registers per lane under the type; this is the X64 form. -/
  | imaxX64 (g : Pred) (d : Dst) (a : Reg) (b : Reg) (ty : Ty)
  /-- R94: Shifts a register left per lane, with .WRAP; this is the X64 form. -/
  | shlX64 (g : Pred) (d : Dst) (a : Reg) (b : Reg) (ty : Ty) (wrap : Bool)
  /-- R94: Shifts a register right per lane under the type, with .WRAP; this is the X64 form. -/
  | shrX64 (g : Pred) (d : Dst) (a : Reg) (b : Reg) (ty : Ty) (wrap : Bool)
  /-- R94: Funnel-shifts a 64-bit register pair value left or right per lane. -/
  | shf (g : Pred) (d : Dst) (a : Reg) (b : Reg) (c : Reg) (ty : Ty) (lft : Bool) (wrap : Bool)
  /-- R94: Rotates a register left, or right with .R, per lane. -/
  | rot (g : Pred) (d : Dst) (a : Reg) (b : Reg) (ty : Ty) (rgt : Bool)
  /-- R95: Bitwise AND per lane; this is the X64 form. -/
  | andX64 (g : Pred) (d : Dst) (a : Reg) (b : Reg) (ty : Ty)
  /-- R95: Bitwise OR per lane; this is the X64 form. -/
  | orX64 (g : Pred) (d : Dst) (a : Reg) (b : Reg) (ty : Ty)
  /-- R95: Bitwise XOR per lane; this is the X64 form. -/
  | xorX64 (g : Pred) (d : Dst) (a : Reg) (b : Reg) (ty : Ty)
  /-- R95: Computes A and not B per lane; this is the X64 form. -/
  | andnX64 (g : Pred) (d : Dst) (a : Reg) (b : Reg) (ty : Ty)
  /-- R95: Applies a three-input bitwise truth table from the third word per lane. -/
  | tern (g : Pred) (d : Dst) (a : Reg) (b : Reg) (c : Reg) (ty : Ty) (lut : BitVec 8)
  /-- R95: Counts the one bits of a register per lane; this is the X64 form. -/
  | popcX64 (g : Pred) (d : Dst) (a : Reg) (ty : Ty)
  /-- R95: Counts the leading zeros of a register per lane; this is the X64 form. -/
  | clzX64 (g : Pred) (d : Dst) (a : Reg) (ty : Ty)
  /-- R95: Reverses the bits of a register per lane; this is the X64 form. -/
  | brevX64 (g : Pred) (d : Dst) (a : Reg) (ty : Ty)
  /-- R96: Extracts a bit field, zero- or sign-extended, per lane. -/
  | bfx (g : Pred) (d : Dst) (a : Reg) (ty : Ty) (pos : Fin 32) (ln : Fin 64)
  /-- R96: Inserts a bit field of A into B per lane. -/
  | bfi (g : Pred) (d : Dst) (a : Reg) (b : Reg) (ty : Ty) (pos : Fin 32) (ln : Fin 64)
  /-- R97: Compares integers and writes a predicate, optionally combined with another predicate. -/
  | icmp (g : Pred) (d : Fin 7) (a : Reg) (b : Reg) (ty : Ty) (cond : Cond) (comb : Combine)
  /-- R98: Selects A or B per lane by a predicate. -/
  | sel (g : Pred) (d : Dst) (a : Reg) (b : Reg) (c : Pred) (ty : Ty) (neg : Bool)
  /-- R99: Combines predicates, or packs them into or unpacks them from a register. -/
  | plog (g : Pred) (x : PlogArgs)
  /-- R98: Copies a source into a lane register; this is the X64 form. -/
  | movX64 (g : Pred) (d : Dst) (a : Reg) (ty : Ty)
  /-- R100: Adds a four-term 8-bit dot product to C per lane. -/
  | idp4 (g : Pred) (d : Dst) (a : Reg) (b : Reg) (c : Reg) (ty : Ty) (bz : Bool)
  /-- R102: Reads a value from another lane of E by index, XOR or distance. -/
  | xch (g : Pred) (d : Dst) (a : Reg) (b : Reg) (ty : Ty) (mode : XMode) (ok : Option (Fin 7))
  /-- R103: Forms ANY, ALL or a ballot of a predicate over E. -/
  | vote (g : Pred) (x : VoteDst) (a : Pred) (neg : Bool)
  /-- R104: Writes the set of lanes of E that hold equal values. -/
  | match (g : Pred) (d : Reg) (a : Reg) (ty : Ty) (all : Bool)
  /-- R105: Reduces a register over E and writes the result to every lane of E. -/
  | redux (g : Pred) (d : Dst) (a : Reg) (ty : Ty) (op : RedOp)
  /-- R98: Writes a 32-bit immediate into a lane register. -/
  | movi (g : Pred) (d : Dst) (imm : Word)
  /-- R92: Adds a signed 32-bit immediate to a register per lane. -/
  | iaddI64 (g : Pred) (d : Dst) (a : Reg) (imm : Word)
  /-- R92: Multiplies a register by a signed immediate per lane. -/
  | imulI64 (g : Pred) (d : Dst) (a : Reg) (imm : Word)
  /-- R95: ANDs a register with a raw 32-bit immediate. -/
  | andI64 (g : Pred) (d : Dst) (a : Reg) (imm : Word)
  /-- R95: ORs a register with a raw 32-bit immediate. -/
  | orI64 (g : Pred) (d : Dst) (a : Reg) (imm : Word)
  /-- R95: XORs a register with a raw 32-bit immediate. -/
  | xorI64 (g : Pred) (d : Dst) (a : Reg) (imm : Word)
  /-- R94: Shifts a register left by an immediate from 0 to 31. -/
  | shlI64 (g : Pred) (d : Dst) (a : Reg) (n : Fin 32)
  /-- R94: Shifts a register right, logically or arithmetically, by an immediate. -/
  | shrI64 (g : Pred) (d : Dst) (a : Reg) (ty : Ty) (n : Fin 32)
  /-- R92: Writes the signed minimum of a register and an immediate per lane. -/
  | iminI64 (g : Pred) (d : Dst) (a : Reg) (imm : Word)
  /-- R92: Writes the signed maximum of a register and an immediate per lane. -/
  | imaxI64 (g : Pred) (d : Dst) (a : Reg) (imm : Word)
  /-- R93: Adds a sign-extended immediate to a 64-bit pair per lane. -/
  | leaI64 (g : Pred) (d : Reg) (a : Reg) (imm : Word)
  /-- R75: Branches the lanes of E by a 32-bit PC-relative offset. -/
  | braI64 (g : Pred) (imm : Word)
  /-- R77: Writes a link pair and branches by an immediate offset. -/
  | call (g : Pred) (d : Reg) (imm : Word)
  /-- R121: Adds floats under type and rounding mode; this is the X64 form. -/
  | faddX64 (g : Pred) (d : Dst) (a : Reg) (b : Reg) (ty : Ty) (rm : RM)
  /-- R121: Subtracts floats under type and rounding mode; this is the X64 form. -/
  | fsubX64 (g : Pred) (d : Dst) (a : Reg) (b : Reg) (ty : Ty) (rm : RM)
  /-- R121: Multiplies floats under type and rounding mode; this is the X64 form. -/
  | fmulX64 (g : Pred) (d : Dst) (a : Reg) (b : Reg) (ty : Ty) (rm : RM)
  /-- R121: Computes a fused multiply-add with one rounding per lane. -/
  | ffma (g : Pred) (d : Dst) (a : Reg) (b : Reg) (c : Reg) (ty : Ty) (rm : RM)
  /-- R123: Writes the float minimum, with .NAN; this is the X64 form. -/
  | fminX64 (g : Pred) (d : Dst) (a : Reg) (b : Reg) (ty : Ty) (nan : Bool)
  /-- R123: Writes the float maximum, with .NAN; this is the X64 form. -/
  | fmaxX64 (g : Pred) (d : Dst) (a : Reg) (b : Reg) (ty : Ty) (nan : Bool)
  /-- R124: Compares floats and writes a combined predicate. -/
  | fcmp (g : Pred) (d : Fin 7) (a : Reg) (b : Reg) (ty : Ty) (cond : FCond) (comb : Combine) (hi : Bool)
  /-- R126: Writes the reciprocal under the type; this is the X64 form. -/
  | frcpX64 (g : Pred) (d : Dst) (a : Reg) (ty : Ty)
  /-- R126: Writes the reciprocal square root under the type; this is the X64 form. -/
  | frsqX64 (g : Pred) (d : Dst) (a : Reg) (ty : Ty)
  /-- R126: Writes the square root under the type; this is the X64 form. -/
  | fsqrtX64 (g : Pred) (d : Dst) (a : Reg) (ty : Ty)
  /-- R126: Writes the base-2 exponential under the type; this is the X64 form. -/
  | fexp2X64 (g : Pred) (d : Dst) (a : Reg) (ty : Ty)
  /-- R126: Writes the base-2 logarithm under the type; this is the X64 form. -/
  | flog2X64 (g : Pred) (d : Dst) (a : Reg) (ty : Ty)
  /-- R122: Adds a two-term 16-bit dot product to F32 C with one rounding. -/
  | fdp2 (g : Pred) (d : Dst) (a : Reg) (b : Reg) (c : Reg) (ty : Ty) (rm : RM)
  /-- R128: Converts elements between scalar formats with rounding and saturation. -/
  | cvt (g : Pred) (d : Dst) (a : Reg) (b : Reg) (dt : Ty) (st : Ty) (rm : RM)
  /-- R129: Narrows floats with stochastic rounding by per-element random bits. -/
  | cvtsr (g : Pred) (d : Dst) (a : Reg) (b : Reg) (c : Reg) (dt : Ty) (st : Ty)
  /-- R125: Writes the class mask under the type; this is the X64 form. -/
  | fclassX64 (g : Pred) (d : Dst) (a : Reg) (ty : Ty)
  /-- R131: Quantises a 32x32 BF16 tile into row-blocked and column-blocked MXF8 copies in bins. -/
  | dquant (g : Pred) (a : Fin 96) (b : SReg) (c : SReg) (hi : Bool) (rowA : Bool) (colA : Bool)
  /-- R76: Branches each lane of E to the address in its register pair. -/
  | brx (g : Pred) (a : Reg)
  /-- R77: Writes a link pair and branches each lane to a register target. -/
  | callx (g : Pred) (d : Reg) (a : Reg)
  /-- R78: Returns each lane of E to the address in its pair; this is the X64 form. -/
  | retX64 (g : Pred) (a : Reg)
  /-- R79: Ends the lanes of E; this is the X64 form. -/
  | exitX64 (g : Pred)
  /-- R80: Yields the lane pipe for a cycle; this is the X64 form. -/
  | yieldX64 (g : Pred)
  /-- R81: Does nothing but advance; this is the X64 form. -/
  | nopX64 (g : Pred)
  /-- R68: Writes the set of lanes of E into a mask; this is the X64 form. -/
  | mkcurX64 (g : Pred) (m : Fin 12)
  /-- R70: Copies a mask into a register pair in each lane of E. -/
  | mktos (g : Pred) (d : Reg) (m : Fin 12)
  /-- R70: Sets a mask from the register pair of the lowest lane of E. -/
  | stomk (g : Pred) (m : Fin 12) (a : Reg)
  /-- R71: Reconverges the lanes of a mask; this is the X64 form. -/
  | joinX64 (g : Pred) (m : Fin 12)
  /-- R72: Removes the lanes of E from a mask; this is the X64 form. -/
  | leaveX64 (g : Pred) (m : Fin 12)
  /-- R73: Acts as a barrier: lanes of a mask wait at any address until all have arrived. -/
  | waitm (g : Pred) (m : Fin 12)
  /-- R69: Combines masks by a logic operation. -/
  | mklog (g : Pred) (d : Fin 12) (x : MkLog)
  /-- R142: Reversible F32 add with a rounding mode; this is the X64 form. -/
  | raddX64 (g : Pred) (d : Dst) (a : Reg) (b : Reg) (rm : RM)
  /-- R143: Reversible multiply; this is the X64 form. -/
  | rmulX64 (g : Pred) (d : Dst) (a : Reg) (b : Reg) (ty : Ty) (rm : RM)
  /-- R144: Narrows a value and pushes its residual or a SAVE entry. -/
  | rcvt (g : Pred) (d : Dst) (a : Reg) (b : Reg) (dt : Ty) (st : Ty) (rm : RM)
  /-- R145: Reversible rectification; this is the X64 form. -/
  | rreluX64 (g : Pred) (d : Dst) (a : Reg)
  /-- R146: Shifts right and pushes the discarded bits or the operand. -/
  | rshr (g : Pred) (d : Dst) (a : Reg) (b : Reg) (ty : Ty)
  /-- R142: Undoes RADD; this is the X64 form. -/
  | unaddX64 (g : Pred) (d : Dst) (a : Reg) (b : Reg)
  /-- R143: Undoes RMUL; this is the X64 form. -/
  | unmulX64 (g : Pred) (d : Dst) (a : Reg) (b : Reg) (ty : Ty)
  /-- R144: Pops an RCVT entry and rebuilds the wide value. -/
  | uncvt (g : Pred) (d : Dst) (a : Reg) (b : Reg) (dt : Ty) (st : Ty)
  /-- R145: Undoes RRELU; this is the X64 form. -/
  | unreluX64 (g : Pred) (d : Dst) (a : Reg)
  /-- R146: Pops an RSHR entry and rebuilds the operand. -/
  | unshr (g : Pred) (d : Dst) (a : Reg) (b : Reg) (ty : Ty)
  /-- R148: Pushes a user entry with tag 0xC0 onto each lane's chaff stack. -/
  | chpush (g : Pred) (a : Reg)
  /-- R148: Pops a user entry into a register in each lane. -/
  | chpop (g : Pred) (d : Dst)
  /-- R148: Discards a per-lane count of top entries without a tag check or refill. -/
  | chdrop (g : Pred) (a : Reg)
  /-- R148: Writes each lane's chaff depth. -/
  | chdepth (g : Pred) (d : Dst)
  /-- R166: Initialises a flag barrier word with an expected count. -/
  | fbinit (g : Pred) (a : Reg) (b : Reg)
  /-- R166: Counts arrivals at a flag barrier, flipping the phase when a round completes. -/
  | fbarr (g : Pred) (d : Reg) (a : Reg) (b : Reg)
  /-- R166: Holds each lane until the barrier phase matches its own phase. -/
  | fbwait (g : Pred) (a : Reg) (b : Reg)
  /-- R166: Writes a predicate telling whether the barrier phase matches. -/
  | fbtest (g : Pred) (d : Fin 7) (a : Reg) (b : Reg)
  /-- R191: Streams lane operands through the stationary tile for one pass into one bank. -/
  | mma (g : Pred) (a : Fin 96) (b : Reg) (ty : Ty) (east : Bool) (keep : Bool) (af : Bool)
  /-- R192: Runs one pass into both banks, giving the weight gradient and the data gradient. -/
  | dmma (g : Pred) (a : Fin 96) (b : SReg) (c : SReg) (ty : Ty) (keep : Bool)
  /-- R226: Loads global memory per lane, zero-extending, optionally as an acquire. -/
  | ldg (g : Pred) (d : Reg) (a : Reg) (size : Size) (scope : Scope) (acq : Bool) (off : BitVec 15)
  /-- R226: Loads 8- or 16-bit global data per lane, sign-extending. -/
  | ldgSigned (g : Pred) (d : Reg) (a : Reg) (size : Size) (scope : Scope) (acq : Bool) (off : BitVec 15)
  /-- R226: Loads global memory once for the sheaf into s registers. -/
  | ldgU (g : Pred) (sx : Bool) (d : SReg) (a : SReg) (size : Size) (scope : Scope) (acq : Bool) (off : BitVec 15)
  /-- R226: Stores to global memory per lane, optionally as a release. -/
  | stg (g : Pred) (a : Reg) (b : Reg) (size : Size) (scope : Scope) (rel : Bool) (off : BitVec 15)
  /-- R226: Stores s-register data to global memory once for the sheaf. -/
  | stgU (g : Pred) (a : SReg) (b : SReg) (size : Size) (scope : Scope) (rel : Bool) (off : BitVec 15)
  /-- R159: Loads from the A-bin per lane, zero-extending. -/
  | lda (g : Pred) (d : Reg) (a : Reg) (size : Size) (off : BitVec 15)
  /-- R159: Loads from the A-bin per lane, sign-extending. -/
  | ldaSigned (g : Pred) (d : Reg) (a : Reg) (size : Size) (off : BitVec 15)
  /-- R159: Stores to the A-bin per lane. -/
  | sta (g : Pred) (a : Reg) (b : Reg) (size : Size) (off : BitVec 15)
  /-- R159: Loads from the W-bin per lane, zero-extending. -/
  | ldw (g : Pred) (d : Reg) (a : Reg) (size : Size) (off : BitVec 15)
  /-- R159: Loads from the W-bin per lane, sign-extending. -/
  | ldwSigned (g : Pred) (d : Reg) (a : Reg) (size : Size) (off : BitVec 15)
  /-- R159: Stores to the W-bin per lane. -/
  | stw (g : Pred) (a : Reg) (b : Reg) (size : Size) (off : BitVec 15)
  /-- R159: Loads from the C-bin per lane, zero-extending. -/
  | ldc (g : Pred) (d : Reg) (a : Reg) (size : Size) (off : BitVec 15)
  /-- R159: Loads from the C-bin per lane, sign-extending. -/
  | ldcSigned (g : Pred) (d : Reg) (a : Reg) (size : Size) (off : BitVec 15)
  /-- R159: Stores to the C-bin per lane. -/
  | stc (g : Pred) (a : Reg) (b : Reg) (size : Size) (off : BitVec 15)
  /-- R161: Applies an atomic read-modify-write to an A-bin word per lane. -/
  | aatom (g : Pred) (op : AtomOp) (d : Reg) (a : Reg) (b : Reg) (size : Size) (scope : Scope) (order : Order) (off : BitVec 15)
  /-- R228: Drops the unowned L1 words of an address range at a scope. -/
  | invr (g : Pred) (a : Reg) (b : Reg) (scope : Scope) (off : BitVec 15)
  /-- R228: Drops all unowned L1 words at a scope. -/
  | inva (g : Pred) (scope : Scope)
  /-- R229: Opens a write phase over a range for the sheaf. -/
  | phbeg (g : Pred) (a : Reg) (b : Reg) (off : BitVec 15)
  /-- R230: Registers a phase's words in one batch and completes as a release. -/
  | phend (g : Pred) (a : Reg) (b : Reg) (off : BitVec 15)
  /-- R231: Prefetches the lines of each lane's range into the barn's L1. -/
  | pfl1 (g : Pred) (a : Reg) (b : Reg) (off : BitVec 15)
  /-- R235: Applies an atomic operation to a global word and returns the old value. -/
  | atom (g : Pred) (op : AtomOp) (d : Reg) (a : Reg) (b : Reg) (size : Size) (scope : Scope) (order : Order) (off : GOff)
  /-- R236: Compares and swaps a global word of 4, 8 or 16 bytes. -/
  | cas (g : Pred) (d : Reg) (a : Reg) (b : Reg) (size : Size) (scope : Scope) (order : Order) (off : GOff)
  /-- R239: Contributes to a global word without a return, gathering in the L1. -/
  | red (g : Pred) (op : AtomOp) (a : Reg) (b : Reg) (size : Size) (scope : Scope) (rel : Bool) (off : GOff)
  /-- R241: Parks each lane at the word's home until the word changes or a wake arrives. -/
  | waita (g : Pred) (d : Reg) (a : Reg) (b : Reg) (size : Size) (scope : Scope) (acq : Bool) (off : GOff)
  /-- R243: Releases up to n waiters of a word with status 3. -/
  | wake (g : Pred) (d : Reg) (a : Reg) (b : Reg) (off : GOff)
  /-- R251: Orders a lane's accesses as an acquire, a release or both at a scope. -/
  | fence (g : Pred) (order : Order) (scope : Scope)
  /-- R269: Reads fitted-region points at the home, from the exception list or the network. -/
  | fld (g : Pred) (d : Reg) (a : Reg) (hnd : Fin 24) (trap : Bool)
  /-- R270: Stores fitted-region points as exceptions in one indivisible step at the home. -/
  | fst (g : Pred) (a : Reg) (b : Reg) (hnd : Fin 24)
  /-- R112: Adds two uniform registers; this is the B32 form. -/
  | saddB32 (g : Pred) (d : SReg) (a : SReg) (b : SReg)
  /-- R112: Subtracts two uniform registers; this is the B32 form. -/
  | ssubB32 (g : Pred) (d : SReg) (a : SReg) (b : SReg)
  /-- R112: Multiplies two uniform registers; this is the B32 form. -/
  | smulB32 (g : Pred) (d : SReg) (a : SReg) (b : SReg)
  /-- R112: Adds two uniform pairs; this is the B32 form, with even fields. -/
  | sadd64B32 (g : Pred) (d : SReg) (a : SReg) (b : SReg)
  /-- R112: Shifts a uniform register left; this is the B32 form. -/
  | sshlB32 (g : Pred) (d : SReg) (a : SReg) (b : SReg)
  /-- R112: Shifts a uniform register right logically. -/
  | sshrZ32B32 (g : Pred) (d : SReg) (a : SReg) (b : SReg)
  /-- R112: Shifts a uniform register right arithmetically. -/
  | sshrS32B32 (g : Pred) (d : SReg) (a : SReg) (b : SReg)
  /-- R112: ANDs uniform registers; this is the B32 form. -/
  | sandB32 (g : Pred) (d : SReg) (a : SReg) (b : SReg)
  /-- R112: ORs uniform registers; this is the B32 form. -/
  | sorB32 (g : Pred) (d : SReg) (a : SReg) (b : SReg)
  /-- R112: XORs uniform registers; this is the B32 form. -/
  | sxorB32 (g : Pred) (d : SReg) (a : SReg) (b : SReg)
  /-- R112: Writes the signed minimum of uniform registers. -/
  | sminS32B32 (g : Pred) (d : SReg) (a : SReg) (b : SReg)
  /-- R112: Writes the signed maximum of uniform registers. -/
  | smaxS32B32 (g : Pred) (d : SReg) (a : SReg) (b : SReg)
  /-- R112: Writes the unsigned minimum of uniform registers. -/
  | sminZ32B32 (g : Pred) (d : SReg) (a : SReg) (b : SReg)
  /-- R112: Writes the unsigned maximum of uniform registers. -/
  | smaxZ32B32 (g : Pred) (d : SReg) (a : SReg) (b : SReg)
  /-- R112: Copies into a uniform register; this is the B32 form. -/
  | smovB32 (g : Pred) (d : SReg) (a : SReg)
  /-- R112: Counts the one bits of a uniform register; this is the B32 form. -/
  | spopcB32 (g : Pred) (d : SReg) (a : SReg)
  /-- R114: Reads one lane's register into an s register; this is the B32 form. -/
  | lanerdB32 (g : Pred) (d : SReg) (a : Reg) (b : SReg)
  /-- R114: Writes an s register into one lane's register; this is the B32 form. -/
  | lanewrB32 (g : Pred) (d : Reg) (a : SReg) (b : SReg)
  /-- R180: Waits until a tag of the mask is READY or none is BUSY. -/
  | pwaitAnyB32 (g : Pred) (d : SReg) (a : SReg)
  /-- R180: Waits until no tag of the mask is BUSY. -/
  | pwaitAllB32 (g : Pred) (d : SReg) (a : SReg)
  /-- R180: Writes the lowest READY tag of a mask, or 64. -/
  | pfindB32 (g : Pred) (d : SReg) (a : SReg)
  /-- R180: Returns the READY tags of a mask to IDLE. -/
  | pclrB32 (g : Pred) (a : SReg)
  /-- R183: Acquires thresher ownership, queueing and waiting if needed. -/
  | mxacqB32 (g : Pred)
  /-- R183: Tries to acquire the thresher without waiting, and writes a q predicate. -/
  | mxtryB32 (g : Pred) (d : Fin 7)
  /-- R183: Waits for the sheaf's thresher operations, releases ownership and grants the queue head. -/
  | mxrelB32 (g : Pred)
  /-- R200: Waits until the sheaf has no thresher operation queued, as a join. -/
  | mxwaitB32 (g : Pred)
  /-- R199: Queues clearing of the south bank. -/
  | zaccSB32 (g : Pred)
  /-- R199: Queues clearing of the east bank. -/
  | zaccEB32 (g : Pred)
  /-- R115: Copies a special register into an s register or pair. -/
  | srdB32 (g : Pred) (d : SReg) (a : Spr)
  /-- R118: Writes sr.prio (clamped) or sr.ctx (privileged) from an s register. -/
  | swrB32 (g : Pred) (d : Spr) (a : SReg)
  /-- R329: Completes and raises cause TRAP with INFO from A. -/
  | trapB32 (g : Pred) (a : SReg)
  /-- R329: Completes and raises cause BRK with INFO from A. -/
  | brkB32 (g : Pred) (a : SReg)
  /-- R301: Holds paths until every sheaf of the stook arrives, as a release and an acquire. -/
  | barB32 (g : Pred)
  /-- R311: Waits until the stook holds the commit token, then acquires at .SY. -/
  | tkwaitB32 (g : Pred)
  /-- R311: Waits for token-gated writes, releases and passes the commit token on. -/
  | tkpassB32 (g : Pred)
  /-- R302: Holds the path until a 64-bit counter is zero or below, then acquires. -/
  | ccwaitB32 (g : Pred) (d : SReg) (a : SReg)
  /-- R112: Adds uniform registers, with type and .SAT; this is the X64 form. -/
  | saddX64 (g : Pred) (d : SReg) (a : SReg) (b : SReg) (ty : Ty) (sat : Bool)
  /-- R112: Subtracts uniform registers; this is the X64 form. -/
  | ssubX64 (g : Pred) (d : SReg) (a : SReg) (b : SReg) (ty : Ty) (sat : Bool)
  /-- R112: Multiplies uniform registers; this is the X64 form. -/
  | smulX64 (g : Pred) (d : SReg) (a : SReg) (b : SReg) (ty : Ty)
  /-- R112: Computes a uniform multiply-add. -/
  | smad (g : Pred) (d : SReg) (a : SReg) (b : SReg) (c : SReg) (ty : Ty)
  /-- R112: Adds uniform pairs; this is the X64 form. -/
  | sadd64X64 (g : Pred) (d : SReg) (a : SReg) (b : SReg) (ty : Ty)
  /-- R112: Adds a shifted uniform register to a uniform pair. -/
  | sleaX64 (g : Pred) (d : SReg) (a : SReg) (b : SReg) (ty : Ty) (sh : Fin 8)
  /-- R112: Shifts a uniform register left; this is the X64 form. -/
  | sshlX64 (g : Pred) (d : SReg) (a : SReg) (b : SReg) (ty : Ty) (wrap : Bool)
  /-- R112: Shifts a uniform register right; this is the X64 form. -/
  | sshrX64 (g : Pred) (d : SReg) (a : SReg) (b : SReg) (ty : Ty) (wrap : Bool)
  /-- R112: ANDs uniform registers; this is the X64 form. -/
  | sandX64 (g : Pred) (d : SReg) (a : SReg) (b : SReg) (ty : Ty)
  /-- R112: ORs uniform registers; this is the X64 form. -/
  | sorX64 (g : Pred) (d : SReg) (a : SReg) (b : SReg) (ty : Ty)
  /-- R112: XORs uniform registers; this is the X64 form. -/
  | sxorX64 (g : Pred) (d : SReg) (a : SReg) (b : SReg) (ty : Ty)
  /-- R112: Writes the uniform minimum under the type; this is the X64 form. -/
  | sminX64 (g : Pred) (d : SReg) (a : SReg) (b : SReg) (ty : Ty)
  /-- R112: Writes the uniform maximum under the type; this is the X64 form. -/
  | smaxX64 (g : Pred) (d : SReg) (a : SReg) (b : SReg) (ty : Ty)
  /-- R113: Compares uniform registers and writes a q predicate. -/
  | scmp (g : Pred) (d : Fin 7) (a : SReg) (b : SReg) (ty : Ty) (cond : Cond) (comb : Combine)
  /-- R113: Selects between uniform registers by a q predicate. -/
  | ssel (g : Pred) (d : SReg) (a : SReg) (b : SReg) (c : Pred) (ty : Ty) (neg : Bool)
  /-- R112: Copies into a uniform register; this is the X64 form. -/
  | smovX64 (g : Pred) (d : SReg) (a : SReg) (ty : Ty)
  /-- R112: Counts the one bits of a uniform register; this is the X64 form. -/
  | spopcX64 (g : Pred) (d : SReg) (a : SReg) (ty : Ty)
  /-- R114: Reads one lane's register into an s register; this is the X64 form. -/
  | lanerdX64 (g : Pred) (d : SReg) (a : Reg) (b : SReg) (ty : Ty)
  /-- R114: Writes one lane's register from an s register; this is the X64 form. -/
  | lanewrX64 (g : Pred) (d : Reg) (a : SReg) (b : SReg) (ty : Ty)
  /-- R112: Writes a 32-bit immediate into a uniform register. -/
  | smovi (g : Pred) (d : SReg) (imm : Word)
  /-- R112: Adds a signed immediate to a uniform register. -/
  | saddI64 (g : Pred) (d : SReg) (a : SReg) (imm : Word)
  /-- R112: Multiplies a uniform register by a signed immediate. -/
  | smulI64 (g : Pred) (d : SReg) (a : SReg) (imm : Word)
  /-- R112: ANDs a uniform register with a raw immediate. -/
  | sandI64 (g : Pred) (d : SReg) (a : SReg) (imm : Word)
  /-- R112: ORs a uniform register with a raw immediate. -/
  | sorI64 (g : Pred) (d : SReg) (a : SReg) (imm : Word)
  /-- R112: XORs a uniform register with a raw immediate. -/
  | sxorI64 (g : Pred) (d : SReg) (a : SReg) (imm : Word)
  /-- R112: Shifts a uniform register left by an immediate. -/
  | sshlI64 (g : Pred) (d : SReg) (a : SReg) (n : Fin 32)
  /-- R112: Shifts a uniform register right by an immediate. -/
  | sshrI64 (g : Pred) (d : SReg) (a : SReg) (ty : Ty) (n : Fin 32)
  /-- R112: Writes the signed minimum of a uniform register and an immediate. -/
  | sminI64 (g : Pred) (d : SReg) (a : SReg) (imm : Word)
  /-- R112: Writes the signed maximum of a uniform register and an immediate. -/
  | smaxI64 (g : Pred) (d : SReg) (a : SReg) (imm : Word)
  /-- R112: Adds a sign-extended immediate to a uniform pair. -/
  | sleaI64 (g : Pred) (d : SReg) (a : SReg) (imm : Word)
  /-- R177: Queues a linear wain copy between memory and bins on a pennant tag. -/
  | cpy (g : Pred) (t : Fin 64) (a : SReg) (b : SReg) (c : SReg) (ds : CpySpace) (ss : CpySpace)
  /-- R177: Queues a strided or transposed two-dimensional wain copy on a tag. -/
  | cpy2 (g : Pred) (t : Fin 64) (a : SReg) (b : SReg) (c : Fin 24) (ds : CpySpace) (ss : CpySpace) (tr : CpyTr)
  /-- R178: Queues a copy between the device and host memory over the host link. -/
  | cpyh (g : Pred) (t : Fin 64) (a : SReg) (b : SReg) (c : SReg) (inn : Bool) (abin : Bool)
  /-- R179: Starts a bulk prefetch of a global range into the home L2 slices. -/
  | pfl2 (g : Pred) (x : Pfl2Args) (a : SReg) (c : SReg)
  /-- R180: Waits on the tags of a mask, ANY or ALL; this is the X64 form. -/
  | pwaitX64 (g : Pred) (d : SReg) (a : SReg) (all : Bool)
  /-- R180: Finds the lowest READY tag; this is the X64 form. -/
  | pfindX64 (g : Pred) (d : SReg) (a : SReg)
  /-- R180: Clears READY tags; this is the X64 form. -/
  | pclrX64 (g : Pred) (a : SReg)
  /-- R180: Reads a tag's byte count and status word. -/
  | pstat (g : Pred) (d : SReg) (t : Fin 64)
  /-- R183: Acquires thresher ownership; this is the X64 form. -/
  | mxacqX64 (g : Pred)
  /-- R183: Tries to acquire the thresher; this is the X64 form. -/
  | mxtryX64 (g : Pred) (d : Fin 7)
  /-- R183: Releases the thresher; this is the X64 form. -/
  | mxrelX64 (g : Pred)
  /-- R189: Queues the loading of the stationary tile and format latch from a bin. -/
  | stld (g : Pred) (a : SReg) (b : SReg) (c : Option SReg) (ty : Ty) (w : Bool) (ab : Bool) (kc : Bool) (af : Bool)
  /-- R198: Queues rounding a bank out into the C-bin, optionally clearing it. -/
  | drain (g : Pred) (a : SReg) (b : SReg) (ty : Ty) (east : Bool) (z : Bool)
  /-- R199: Queues clearing of a bank; this is the X64 form. -/
  | zaccX64 (g : Pred) (east : Bool)
  /-- R200: Joins the sheaf's thresher operations; this is the X64 form. -/
  | mxwaitX64 (g : Pred)
  /-- R272: Starts a fitted-region build from a reference image, as a release. -/
  | rgnb (g : Pred) (a : SReg) (b : SReg) (c : SReg) (pitch : Word)
  /-- R273: Requests a refit of a region from the winnower. -/
  | rfit (g : Pred) (a : SReg) (b : SReg) (c : SReg)
  /-- R276: Reads a region's status and count, optionally clearing OOD or retiring it. -/
  | rgnq (g : Pred) (d : SReg) (a : SReg) (b : SReg)
  /-- R348: Issues one collective step of a group on a pennant tag. -/
  | coll (g : Pred) (t : Fin 64) (a : SReg) (b : SReg) (c : SReg) (ty : Ty) (op : CollOp) (kind : CollKind) (grp : Fin 256)
  /-- R115: Reads a special register; this is the X64 form. -/
  | srdX64 (g : Pred) (d : SReg) (a : Spr)
  /-- R118: Writes a special register; this is the X64 form. -/
  | swrX64 (g : Pred) (d : Spr) (a : SReg)
  /-- R329: Raises cause TRAP; this is the X64 form. -/
  | trapX64 (g : Pred) (a : SReg)
  /-- R329: Raises cause BRK; this is the X64 form. -/
  | brkX64 (g : Pred) (a : SReg)
  /-- R326: Reads a word of the served sheaf's state through the register window. -/
  | twrd (g : Pred) (d : SReg) (a : SReg) (b : SReg)
  /-- R326: Writes a word of the served sheaf's state through the register window. -/
  | twwr (g : Pred) (a : SReg) (b : SReg) (c : SReg)
  /-- R327: Resumes the trapped sheaf, replaying its replay queue, and exits the trap sheaf. -/
  | tres (g : Pred)
  /-- R328: Kills every stook of the served stook's rick and exits the trap sheaf. -/
  | tkill (g : Pred)
  /-- R300: Releases at .SY and copies a launch record into a device-produced queue. -/
  | launch (g : Pred) (d : SReg) (a : SReg) (b : SReg)
  /-- R301: Acts as the stook barrier; this is the X64 form. -/
  | barX64 (g : Pred)
  /-- R302: Waits on a completion counter; this is the X64 form. -/
  | ccwaitX64 (g : Pred) (d : SReg) (a : SReg)
  /-- R311: Waits for the commit token; this is the X64 form. -/
  | tkwaitX64 (g : Pred)
  /-- R311: Passes the commit token; this is the X64 form. -/
  | tkpassX64 (g : Pred)
  deriving DecidableEq, Repr

end Sys2Proof
end

