-- ==== Sys2Proof/WellFormed.lean ====
section
/-! DEFINITION. Well-formed instructions: register kinds and groups, admitted types, and the combinations that the
encoding tables admit (02 R32 to R42, 05 R91, 07 R127 to R130, 08 Table 8.4, 09 R158, 11 R187, 13 R234, 20 R347). -/
namespace Sys2Proof

/-- A register that names an aligned group of k registers wholly inside its file, or z (02 R33). -/
def Reg.isGroup (r : Reg) (k : Nat) : Bool :=
  match r with
  | .v n => k ≤ 1 || decide (n.val % k = 0 ∧ n.val + k ≤ 96)
  | .s n => k ≤ 1 || decide (n.val % k = 0 ∧ n.val + k ≤ 24)
  | .z => true
  | .li => decide (k ≤ 1)
  | .b _ => decide (k ≤ 1)

/-- A uniform register that names an aligned group, or z. -/
def SReg.isGroup (r : SReg) (k : Nat) : Bool :=
  match r with
  | .s n => k ≤ 1 || decide (n.val % k = 0 ∧ n.val + k ≤ 24)
  | .z => true

/-- A uniform register, not z. -/
def SReg.isS : SReg → Bool
  | .s _ => true
  | .z => false

/-- A lane-set destination group: v registers, or z (Table 2.3). -/
def Reg.isLaneDst : Reg → Bool
  | .v _ => true
  | .z => true
  | _ => false

/-- Not a latch (06 R114). -/
def Reg.notLatch : Reg → Bool
  | .b _ => false
  | _ => true

def Ty.isOneOf (t : Ty) (l : List Ty) : Bool := l.any (fun x => decide (x = t))
def Size.isOneOf (t : Size) (l : List Size) : Bool := l.any (fun x => decide (x = t))

/-- Bytes of an access size. -/
def Size.bytes : Size → Nat
  | .b8 => 1 | .b16 => 2 | .b32 => 4 | .b64 => 8 | .b128 => 16
/-- Registers that hold one access's data. -/
def Size.regs : Size → Nat
  | .b8 => 1 | .b16 => 1 | .b32 => 1 | .b64 => 2 | .b128 => 4

/-- Bits of an element of a type. -/
def Ty.bits : Ty → Nat
  | .s8 => 8 | .z8 => 8 | .s16 => 16 | .z16 => 16 | .s32 => 32 | .z32 => 32 | .s64 => 64 | .z64 => 64
  | .f32 => 32 | .f16 => 16 | .bf16 => 16 | .e4m3 => 8 | .e5m2 => 8 | .mxf8 => 8 | .mxf4 => 4 | .s4 => 4
  | .spt8 => 8 | .e2m1 => 4
/-- Registers of one element: two for the 64-bit types. -/
def Ty.regs (t : Ty) : Nat := if t.bits = 64 then 2 else 1

/-- Elements of one CVT (07 R127). -/
def cvtN (dt st : Ty) : Nat :=
  if 32 ≤ dt.bits ∧ 32 ≤ st.bits then 1 else 32 / min dt.bits st.bits
/-- Registers of the destination group of CVT. -/
def cvtDstRegs (dt st : Ty) : Nat :=
  if dt.bits < st.bits then 1 else (cvtN dt st * dt.bits + 31) / 32
/-- Registers of the A group of CVT: half of the elements when it narrows more than one. -/
def cvtSrcRegs (dt st : Ty) : Nat :=
  if dt.bits < st.bits then
    (if cvtN dt st = 1 then (st.bits + 31) / 32 else cvtN dt st / 2 * st.bits / 32)
  else (cvtN dt st * st.bits + 31) / 32
/-- Registers of the B group of CVT, 0 when it is unused. -/
def cvtBRegs (dt st : Ty) : Nat :=
  if dt.bits < st.bits ∧ 2 ≤ cvtN dt st then cvtN dt st / 2 * st.bits / 32 else 0
/-- A group of CVT; a 256-bit one must lie in the v registers (07 R127). -/
def cvtGroup (r : Reg) (k : Nat) : Bool :=
  r.isGroup k && (decide (k < 8) || match r with
    | .v _ => true
    | _ => false)

/-- A destination that names an aligned group; the latch only as a single register (02 R33, 05 R89). -/
def Dst.isGroup (d : Dst) (k : Nat) : Bool :=
  match d with
  | .v n => (Reg.v n).isGroup k
  | .z => true
  | .latch => decide (k ≤ 1)

/-- The types CVT admits (07 R127). -/
def cvtTypes : List Ty := [.s4, .s8, .z8, .s16, .z16, .s32, .z32, .s64, .z64, .f32, .f16, .bf16, .e4m3, .e5m2, .e2m1]

def cvtWf (d : Dst) (a b : Reg) (dt st : Ty) : Bool :=
  dt.isOneOf cvtTypes && st.isOneOf cvtTypes && !decide (dt = st)
    && !(decide (dt.bits = 4 ∧ st.bits = 64) || decide (dt.bits = 64 ∧ st.bits = 4))
    && d.isGroup (cvtDstRegs dt st)
    && (match d with
        | .z => decide (cvtDstRegs dt st < 8)
        | _ => true)
    && cvtGroup a (cvtSrcRegs dt st)
    && (if cvtBRegs dt st = 0 then decide (b = .v 0) else cvtGroup b (cvtBRegs dt st))

/-- Registers of the random operand of CVTSR: 16 bits an element (07 R129). -/
def cvtsrCRegs (dt st : Ty) : Nat := (cvtN dt st * 16 + 31) / 32

def cvtsrWf (_d : Dst) (a b c : Reg) (dt st : Ty) : Bool :=
  st.isOneOf [.f32, .f16, .bf16] && dt.isOneOf [.f16, .bf16, .e4m3, .e5m2, .e2m1] && decide (dt.bits < st.bits)
    && cvtGroup a (cvtSrcRegs dt st) && cvtGroup b (cvtBRegs dt st) && c.isGroup (cvtsrCRegs dt st)

/-- The pairs of Table 8.4, by number. -/
def rcvtPair (dt st : Ty) : Option Nat :=
  match dt, st with
  | .f16, .f32 => some 0 | .bf16, .f32 => some 1 | .e4m3, .f32 => some 2 | .e5m2, .f32 => some 3 | .s8, .f32 => some 4
  | .e4m3, .f16 => some 5 | .e5m2, .f16 => some 6 | .s8, .f16 => some 7
  | .e4m3, .bf16 => some 8 | .e5m2, .bf16 => some 9 | .s8, .bf16 => some 10
  | _, _ => none

def rcvtWf (b : Reg) (dt st : Ty) : Bool :=
  (rcvtPair dt st).isSome && (decide (dt = .s8) || decide (b = .v 0))

/-- Registers of the A group of MMA and DMMA: 64 elements (11 R187). -/
def mmaGroup (ty : Ty) : Nat := 2 * ty.bits
/-- Whether MMA reads block scales from B (11 R190). -/
def mmaScaled (ty : Ty) (af : Bool) : Bool := decide (ty = .mxf8) || decide (ty = .mxf4) || af
def mmaWf (a : Fin 96) (b : Reg) (ty : Ty) (af : Bool) : Bool :=
  decide (a.val % mmaGroup ty = 0) && decide (a.val + mmaGroup ty ≤ 96) && (!af || decide (ty = .s8))
    && (mmaScaled ty af || decide (b = .v 0))

/-- Whether a weight format is block-scaled (11 R187). -/
def blockScaled (ty : Ty) (af : Bool) : Bool :=
  ty.isOneOf [.mxf8, .mxf4, .spt8] || (ty.isOneOf [.s8, .s4] && af)
def stldWf (c : Option SReg) (ty : Ty) (kc af : Bool) : Bool :=
  (!af || ty.isOneOf [.s8, .s4]) && (!kc || blockScaled ty af) && decide (c.isSome = blockScaled ty af)

/-- Special registers of 64 bits (Table 2.14). -/
def Spr.is64 : Spr → Bool
  | .cycles => true
  | .pennants => true
  | _ => false
/-- Special registers that SWR may name (Table 2.14). -/
def Spr.writable : Spr → Bool
  | .ctx => true
  | .prio => true
  | _ => false

def Pfl2Args.wf : Pfl2Args → Bool
  | .tag _ => true
  | .cc b => b.isGroup 2

def collWf (ty : Ty) (op : CollOp) (kind : CollKind) : Bool :=
  ty.isOneOf [.s32, .z32, .s64, .z64, .f32, .bf16] && (!decide (kind = .bc) || decide (op = .add))

/-- Well-formed: the operands are ones that the encoding tables admit (02 R32 to R42, and the encoding table of
each chapter). A step of another agent has no words and no operand fields, so it is well-formed. -/
def Instr.wf : Instr → Bool
  | .iaddB32 _ _ _ _ => true
  | .isubB32 _ _ _ _ => true
  | .imulB32 _ _ _ _ => true
  | .imulhS32B32 _ _ _ _ => true
  | .imulhZ32B32 _ _ _ _ => true
  | .iminS32B32 _ _ _ _ => true
  | .imaxS32B32 _ _ _ _ => true
  | .iminZ32B32 _ _ _ _ => true
  | .imaxZ32B32 _ _ _ _ => true
  | .shlB32 _ _ _ _ => true
  | .shrZ32B32 _ _ _ _ => true
  | .shrS32B32 _ _ _ _ => true
  | .andB32 _ _ _ _ => true
  | .orB32 _ _ _ _ => true
  | .xorB32 _ _ _ _ => true
  | .andnB32 _ _ _ _ => true
  | .movB32 _ _ _ => true
  | .popcB32 _ _ _ => true
  | .clzB32 _ _ _ => true
  | .brevB32 _ _ _ => true
  | .iadd64B32 _ d a b => d.isLaneDst && d.isGroup 2 && a.isGroup 2 && b.isGroup 2
  | .iabsB32 _ _ _ => true
  | .inegB32 _ _ _ => true
  | .faddF32B32 _ _ _ _ => true
  | .fsubF32B32 _ _ _ _ => true
  | .fmulF32B32 _ _ _ _ => true
  | .fminF32B32 _ _ _ _ => true
  | .fmaxF32B32 _ _ _ _ => true
  | .frcpF32B32 _ _ _ => true
  | .frsqF32B32 _ _ _ => true
  | .fsqrtF32B32 _ _ _ => true
  | .fexp2F32B32 _ _ _ => true
  | .flog2F32B32 _ _ _ => true
  | .faddBf16B32 _ _ _ _ => true
  | .fmulBf16B32 _ _ _ _ => true
  | .faddF16B32 _ _ _ _ => true
  | .fmulF16B32 _ _ _ _ => true
  | .fclassF32B32 _ _ _ => true
  | .braB32 _ _ => true
  | .retB32 _ a => a.isGroup 2
  | .exitB32 _ => true
  | .yieldB32 _ => true
  | .nopB32 _ => true
  | .mkcurB32 _ _ => true
  | .joinB32 _ _ => true
  | .leaveB32 _ _ => true
  | .raddF32B32 _ _ _ _ => true
  | .unaddF32B32 _ _ _ _ => true
  | .rmulF32B32 _ _ _ _ => true
  | .unmulF32B32 _ _ _ _ => true
  | .rreluF32B32 _ _ _ => true
  | .unreluF32B32 _ _ _ => true
  | .rmulS32B32 _ _ _ _ => true
  | .unmulS32B32 _ _ _ _ => true
  | .iaddX64 _ _ _ _ ty _ => ty.isOneOf [.s32, .z32]
  | .isubX64 _ _ _ _ ty _ => ty.isOneOf [.s32, .z32]
  | .imulX64 _ _ _ _ ty => ty.isOneOf [.s32, .z32]
  | .imulhX64 _ _ _ _ ty => ty.isOneOf [.s32, .z32]
  | .imad _ _ _ _ _ ty => ty.isOneOf [.s32, .z32]
  | .imadw _ d _ _ c ty => d.isLaneDst && ty.isOneOf [.s32, .z32] && d.isGroup 2 && c.isGroup 2
  | .iadd64X64 _ d a b ty => d.isLaneDst && ty.isOneOf [.s32, .z32] && d.isGroup 2 && a.isGroup 2 && b.isGroup 2
  | .leaX64 _ d a _ ty _ => d.isLaneDst && ty.isOneOf [.s32, .z32] && d.isGroup 2 && a.isGroup 2
  | .iabsX64 _ _ _ _ => true
  | .inegX64 _ _ _ _ => true
  | .iminX64 _ _ _ _ ty => ty.isOneOf [.s32, .z32]
  | .imaxX64 _ _ _ _ ty => ty.isOneOf [.s32, .z32]
  | .shlX64 _ _ _ _ ty _ => ty.isOneOf [.s32, .z32]
  | .shrX64 _ _ _ _ ty _ => ty.isOneOf [.s32, .z32]
  | .shf _ _ _ _ _ ty _ _ => ty.isOneOf [.s32, .z32]
  | .rot _ _ _ _ ty _ => ty.isOneOf [.s32, .z32]
  | .andX64 _ _ _ _ ty => ty.isOneOf [.s32, .z32]
  | .orX64 _ _ _ _ ty => ty.isOneOf [.s32, .z32]
  | .xorX64 _ _ _ _ ty => ty.isOneOf [.s32, .z32]
  | .andnX64 _ _ _ _ ty => ty.isOneOf [.s32, .z32]
  | .tern _ _ _ _ _ ty _ => ty.isOneOf [.s32, .z32]
  | .popcX64 _ _ _ ty => ty.isOneOf [.s32, .z32]
  | .clzX64 _ _ _ ty => ty.isOneOf [.s32, .z32]
  | .brevX64 _ _ _ ty => ty.isOneOf [.s32, .z32]
  | .bfx _ _ _ ty pos ln => ty.isOneOf [.s32, .z32] && decide (pos.val + ln.val ≤ 32)
  | .bfi _ _ _ _ ty pos ln => ty.isOneOf [.s32, .z32] && decide (pos.val + ln.val ≤ 32)
  | .icmp _ _ _ _ ty _ _ => ty.isOneOf [.s32, .z32]
  | .sel _ _ _ _ _ ty _ => ty.isOneOf [.s32, .z32]
  | .plog _ _ => true
  | .movX64 _ _ _ ty => ty.isOneOf [.s32, .z32]
  | .idp4 _ _ _ _ _ ty _ => ty.isOneOf [.s8, .z8]
  | .xch _ d a _ ty _ _ => ty.isOneOf [.s32, .z32, .s64, .z64] && d.isGroup ty.regs && a.isGroup ty.regs
  | .vote _ x _ _ => (match x with | .bal r => r.isLaneDst && r.isGroup 2 | _ => true)
  | .match _ d a ty _ => d.isLaneDst && ty.isOneOf [.s32, .z32, .s64, .z64] && d.isGroup 2 && a.isGroup ty.regs
  | .redux _ _ _ ty _ => ty.isOneOf [.s32, .z32]
  | .movi _ _ _ => true
  | .iaddI64 _ _ _ _ => true
  | .imulI64 _ _ _ _ => true
  | .andI64 _ _ _ _ => true
  | .orI64 _ _ _ _ => true
  | .xorI64 _ _ _ _ => true
  | .shlI64 _ _ _ _ => true
  | .shrI64 _ _ _ ty _ => ty.isOneOf [.s32, .z32]
  | .iminI64 _ _ _ _ => true
  | .imaxI64 _ _ _ _ => true
  | .leaI64 _ d a _ => d.isLaneDst && d.isGroup 2 && a.isGroup 2
  | .braI64 _ _ => true
  | .call _ d _ => d.isLaneDst && d.isGroup 2
  | .faddX64 _ _ _ _ ty _ => ty.isOneOf [.f32, .f16, .bf16]
  | .fsubX64 _ _ _ _ ty _ => ty.isOneOf [.f32, .f16, .bf16]
  | .fmulX64 _ _ _ _ ty _ => ty.isOneOf [.f32, .f16, .bf16]
  | .ffma _ _ _ _ _ ty _ => ty.isOneOf [.f32, .f16, .bf16]
  | .fminX64 _ _ _ _ ty _ => ty.isOneOf [.f32, .f16, .bf16]
  | .fmaxX64 _ _ _ _ ty _ => ty.isOneOf [.f32, .f16, .bf16]
  | .fcmp _ _ _ _ ty _ _ hi => ty.isOneOf [.f32, .f16, .bf16] && !(ty = .f32 && hi)
  | .frcpX64 _ _ _ ty => ty.isOneOf [.f32, .f16, .bf16]
  | .frsqX64 _ _ _ ty => ty.isOneOf [.f32, .f16, .bf16]
  | .fsqrtX64 _ _ _ ty => ty.isOneOf [.f32, .f16, .bf16]
  | .fexp2X64 _ _ _ ty => ty.isOneOf [.f32, .f16, .bf16]
  | .flog2X64 _ _ _ ty => ty.isOneOf [.f32, .f16, .bf16]
  | .fdp2 _ _ _ _ _ ty _ => ty.isOneOf [.f16, .bf16]
  | .cvt _ d a b dt st _ => cvtWf d a b dt st
  | .cvtsr _ d a b c dt st => cvtsrWf d a b c dt st
  | .fclassX64 _ _ _ ty => ty.isOneOf [.f32, .f16, .bf16]
  | .dquant _ a b c _ _ _ => decide (a.val % 16 = 0) && b.isS && c.isS
  | .brx _ a => a.isGroup 2
  | .callx _ d a => d.isLaneDst && d.isGroup 2 && a.isGroup 2
  | .retX64 _ a => a.isGroup 2
  | .exitX64 _ => true
  | .yieldX64 _ => true
  | .nopX64 _ => true
  | .mkcurX64 _ _ => true
  | .mktos _ d _ => d.isLaneDst && d.isGroup 2
  | .stomk _ _ a => a.isGroup 2
  | .joinX64 _ _ => true
  | .leaveX64 _ _ => true
  | .waitm _ _ => true
  | .mklog _ _ _ => true
  | .raddX64 _ _ _ _ _ => true
  | .rmulX64 _ _ _ _ ty rm => ty.isOneOf [.f32, .s32] && (ty = .f32 || rm = .rn)
  | .rcvt _ _ _ b dt st _ => rcvtWf b dt st
  | .rreluX64 _ _ _ => true
  | .rshr _ _ _ _ ty => ty.isOneOf [.s32, .z32]
  | .unaddX64 _ _ _ _ => true
  | .unmulX64 _ _ _ _ ty => ty.isOneOf [.f32, .s32]
  | .uncvt _ _ _ b dt st => rcvtWf b dt st
  | .unreluX64 _ _ _ => true
  | .unshr _ _ _ _ ty => ty.isOneOf [.s32, .z32]
  | .chpush _ _ => true
  | .chpop _ _ => true
  | .chdrop _ _ => true
  | .chdepth _ _ => true
  | .fbinit _ _ _ => true
  | .fbarr _ d _ _ => d.isLaneDst
  | .fbwait _ _ _ => true
  | .fbtest _ _ _ _ => true
  | .mma _ a b ty _ _ af => ty.isOneOf [.bf16, .f16, .e4m3, .e5m2, .mxf8, .mxf4, .s8] && mmaWf a b ty af
  | .dmma _ a _ _ ty _ => ty.isOneOf [.bf16, .f16, .e4m3, .e5m2] && decide (a.val % mmaGroup ty = 0)
  | .ldg _ d a size scope acq _ => d.isLaneDst && a.isGroup 2 && d.isGroup size.regs && (acq || scope = .sh)
  | .ldgSigned _ d a size scope acq _ => d.isLaneDst && a.isGroup 2 && size.isOneOf [.b8, .b16] && (acq || scope = .sh)
  | .ldgU _ sx d a size scope acq _ => a.isGroup 2 && (if sx then size.isOneOf [.b8, .b16] else true) && d.isGroup size.regs && (acq || scope = .sh)
  | .stg _ a b size scope rel _ => a.isGroup 2 && b.isGroup size.regs && (rel || scope = .sh)
  | .stgU _ a b size scope rel _ => a.isGroup 2 && b.isGroup size.regs && (rel || scope = .sh)
  | .lda _ d _ size _ => d.isLaneDst && d.isGroup size.regs
  | .ldaSigned _ d _ size _ => d.isLaneDst && size.isOneOf [.b8, .b16]
  | .sta _ _ b size _ => b.isGroup size.regs
  | .ldw _ d _ size _ => d.isLaneDst && d.isGroup size.regs
  | .ldwSigned _ d _ size _ => d.isLaneDst && size.isOneOf [.b8, .b16]
  | .stw _ _ b size _ => b.isGroup size.regs
  | .ldc _ d _ size _ => d.isLaneDst && d.isGroup size.regs
  | .ldcSigned _ d _ size _ => d.isLaneDst && size.isOneOf [.b8, .b16]
  | .stc _ _ b size _ => b.isGroup size.regs
  | .aatom _ op d _ b size _ _ _ => d.isLaneDst && (size = .b32 || size = .b64 && !(op = .addF32)) && d.isGroup size.regs && b.isGroup size.regs
  | .invr _ a _ _ _ => a.isGroup 2
  | .inva _ _ => true
  | .phbeg _ a _ _ => a.isGroup 2
  | .phend _ a _ _ => a.isGroup 2
  | .pfl1 _ a _ _ => a.isGroup 2
  | .atom _ op d a b size _ _ _ => d.isLaneDst && a.isGroup 2 && (size = .b32 || size = .b64 && !(op = .addF32)) && d.isGroup size.regs && b.isGroup size.regs
  | .cas _ d a b size _ _ _ => d.isLaneDst && a.isGroup 2 && size.isOneOf [.b32, .b64, .b128] && d.isGroup size.regs && b.isGroup (2 * size.regs)
  | .red _ op a b size _ _ _ => a.isGroup 2 && (size = .b32 || size = .b64 && !(op = .addF32)) && !(op = .exch) && b.isGroup size.regs
  | .waita _ d a b size _ _ _ => d.isLaneDst && a.isGroup 2 && size.isOneOf [.b32, .b64] && b.isGroup size.regs
  | .wake _ d a _ _ => d.isLaneDst && a.isGroup 2
  | .fence _ order _ => !(order = .plain)
  -- R39 calls A of FLD and FST a lane pair, 15 Table 15.5 a coordinate pair: any pair that Table 2.3 names (DESIGN CHOICE, log 120)
  | .fld _ d a _ _ => d.isLaneDst && a.isGroup 2
  | .fst _ a _ _ => a.isGroup 2
  | .saddB32 _ _ _ _ => true
  | .ssubB32 _ _ _ _ => true
  | .smulB32 _ _ _ _ => true
  | .sadd64B32 _ d a b => d.isGroup 2 && a.isGroup 2 && b.isGroup 2
  | .sshlB32 _ _ _ _ => true
  | .sshrZ32B32 _ _ _ _ => true
  | .sshrS32B32 _ _ _ _ => true
  | .sandB32 _ _ _ _ => true
  | .sorB32 _ _ _ _ => true
  | .sxorB32 _ _ _ _ => true
  | .sminS32B32 _ _ _ _ => true
  | .smaxS32B32 _ _ _ _ => true
  | .sminZ32B32 _ _ _ _ => true
  | .smaxZ32B32 _ _ _ _ => true
  | .smovB32 _ _ _ => true
  | .spopcB32 _ _ _ => true
  | .lanerdB32 _ _ a _ => a.notLatch
  | .lanewrB32 _ d _ _ => d.isLaneDst
  | .pwaitAnyB32 _ d a => d.isGroup 2 && a.isGroup 2
  | .pwaitAllB32 _ d a => d.isGroup 2 && a.isGroup 2
  | .pfindB32 _ _ a => a.isGroup 2
  | .pclrB32 _ a => a.isGroup 2
  | .mxacqB32 _ => true
  | .mxtryB32 _ _ => true
  | .mxrelB32 _ => true
  | .mxwaitB32 _ => true
  | .zaccSB32 _ => true
  | .zaccEB32 _ => true
  | .srdB32 _ d a => (!a.is64 || d.isGroup 2)
  | .swrB32 _ d _ => d.writable
  | .trapB32 _ _ => true
  | .brkB32 _ _ => true
  | .barB32 _ => true
  | .tkwaitB32 _ => true
  | .tkpassB32 _ => true
  | .ccwaitB32 _ d a => d.isGroup 2 && a.isGroup 2
  | .saddX64 _ _ _ _ ty _ => ty.isOneOf [.s32, .z32]
  | .ssubX64 _ _ _ _ ty _ => ty.isOneOf [.s32, .z32]
  | .smulX64 _ _ _ _ ty => ty.isOneOf [.s32, .z32]
  | .smad _ _ _ _ _ ty => ty.isOneOf [.s32, .z32]
  | .sadd64X64 _ d a b ty => ty.isOneOf [.s32, .z32] && d.isGroup 2 && a.isGroup 2 && b.isGroup 2
  | .sleaX64 _ d a _ ty _ => ty.isOneOf [.s32, .z32] && d.isGroup 2 && a.isGroup 2
  | .sshlX64 _ _ _ _ ty _ => ty.isOneOf [.s32, .z32]
  | .sshrX64 _ _ _ _ ty _ => ty.isOneOf [.s32, .z32]
  | .sandX64 _ _ _ _ ty => ty.isOneOf [.s32, .z32]
  | .sorX64 _ _ _ _ ty => ty.isOneOf [.s32, .z32]
  | .sxorX64 _ _ _ _ ty => ty.isOneOf [.s32, .z32]
  | .sminX64 _ _ _ _ ty => ty.isOneOf [.s32, .z32]
  | .smaxX64 _ _ _ _ ty => ty.isOneOf [.s32, .z32]
  | .scmp _ _ _ _ ty _ _ => ty.isOneOf [.s32, .z32]
  | .ssel _ _ _ _ _ ty _ => ty.isOneOf [.s32, .z32]
  | .smovX64 _ _ _ ty => ty.isOneOf [.s32, .z32]
  | .spopcX64 _ _ _ ty => ty.isOneOf [.s32, .z32]
  | .lanerdX64 _ _ a _ ty => ty.isOneOf [.s32, .z32] && a.notLatch
  | .lanewrX64 _ d _ _ ty => d.isLaneDst && ty.isOneOf [.s32, .z32]
  | .smovi _ _ _ => true
  | .saddI64 _ _ _ _ => true
  | .smulI64 _ _ _ _ => true
  | .sandI64 _ _ _ _ => true
  | .sorI64 _ _ _ _ => true
  | .sxorI64 _ _ _ _ => true
  | .sshlI64 _ _ _ _ => true
  | .sshrI64 _ _ _ ty _ => ty.isOneOf [.s32, .z32]
  | .sminI64 _ _ _ _ => true
  | .smaxI64 _ _ _ _ => true
  | .sleaI64 _ d a _ => d.isGroup 2 && a.isGroup 2
  | .cpy _ _ a b _ _ _ => a.isGroup 2 && b.isGroup 2
  | .cpy2 _ _ a b c _ _ _ => a.isGroup 2 && b.isGroup 2 && decide (c.val % 4 = 0)
  | .cpyh _ _ a b _ _ _ => a.isGroup 2 && b.isGroup 2
  | .pfl2 _ x a _ => a.isGroup 2 && x.wf
  | .pwaitX64 _ d a _ => d.isGroup 2 && a.isGroup 2
  | .pfindX64 _ _ a => a.isGroup 2
  | .pclrX64 _ a => a.isGroup 2
  | .pstat _ d _ => d.isGroup 2
  | .mxacqX64 _ => true
  | .mxtryX64 _ _ => true
  | .mxrelX64 _ => true
  | .stld _ _ _ c ty _ _ kc af => ty.isOneOf [.bf16, .f16, .e4m3, .e5m2, .mxf8, .mxf4, .s8, .s4, .spt8] && stldWf c ty kc af
  | .drain _ _ _ ty _ _ => ty.isOneOf [.f32, .bf16]
  | .zaccX64 _ _ => true
  | .mxwaitX64 _ => true
  | .rgnb _ _ b c _ => b.isGroup 2 && c.isGroup 2
  | .rfit _ _ b c => b.isGroup 2 && c.isGroup 2
  | .rgnq _ d _ _ => d.isGroup 2
  | .coll _ _ a b _ ty op kind _ => a.isGroup 2 && b.isGroup 2 && collWf ty op kind
  | .srdX64 _ d a => (!a.is64 || d.isGroup 2)
  | .swrX64 _ d _ => d.writable
  | .trapX64 _ _ => true
  | .brkX64 _ _ => true
  | .twrd _ _ _ _ => true
  | .twwr _ _ _ _ => true
  | .tres _ => true
  | .tkill _ => true
  | .launch _ _ a _ => a.isGroup 2
  | .barX64 _ => true
  | .ccwaitX64 _ d a => d.isGroup 2 && a.isGroup 2
  | .tkwaitX64 _ => true
  | .tkpassX64 _ => true
  | .starved _ _ => true
  | .forcedQueueEntry _ _ => true
  | .thresherZeroingDone _ => true
  | .thresherOpStart _ => true
  | .thresherOpComplete _ => true
  | .wainStart _ => true
  | .wainComplete _ _ => true
  | .cpyhCreditTimeout _ _ => true
  | .pfl2Complete _ _ => true
  | .collStepComplete _ _ _ => true
  | .registration _ => true
  | .registrationAck _ => true
  | .ownerRecall _ _ _ => true
  | .forwardedRead _ => true
  | .readRefusal _ => true
  | .writeBack _ => true
  | .l1Eviction _ _ => true
  | .redPublication _ _ => true
  | .l2LineEviction _ => true
  | .ccwaitPollTimer _ => true
  | .peerAccess _ _ => true
  | .hostAtomicSwap _ _ => true
  | .faultRecordDeferred => true
  | .answer _ => true
  | .invctx _ => true
  | .faultQueueReconfig _ _ _ => true
  | .registerWrite _ _ _ _ => true
  | .qtailDoorbell _ _ => true
  | .recordTake _ => true
  | .dependencesMet _ => true
  | .dealRound _ => true
  | .stookRetire _ => true
  | .cropConfirm _ => true
  | .partitionCommit _ => true
  | .reconfiguration _ => true
  | .parkEviction _ => true
  | .parkRestore _ => true
  | .trapStookStart _ => true
  | .preempt _ => true
  | .restoreParea _ => true
  | .restoreSarea _ => true
  | .prctlNone _ => true
  | .sliceExpiry _ => true
  | .preemptOperationEnd => true
  | .buildStep _ => true
  | .refitStart _ => true
  | .refitStep _ => true
  | .refitCommit _ => true
  | .urgentRefitStart _ => true
  | .bruvasLinkDown _ => true
  | .bruvasLinkUp _ _ _ => true
  | .routeRecompute _ => true
  | .hostLinkDown _ => true
  | .groupEntryWrite _ _ _ _ => true
  | .msixUnmask _ _ => true
  | .scanVisitStart _ => true
  | .scanMove _ => true
  | .scanResult _ _ => true
  | .rickKill _ => true
  | .patrolScrub _ => true
  | .reset => true
  | .functionReady _ _ => true
  | .firmwareBoot _ _ _ _ _ _ _ => true
  | .overtemp => true
  | .attestationStart => true
  | .attestationDone => true
  | .illegalEncoding => true
  | .instructionFetchFault => true
  | .homeReply _ => true
  | .atomicAtHome _ => true
  | .peerHomeReply _ _ _ => true
  | .hostMemoryAccess _ => true
  | .hostSnoopResponse _ _ => true
  | .hostLinkUp _ => true

end Sys2Proof
end

