-- ==== Sys2Proof/Decode.lean ====
section
/-! DEFINITION. Decoding instruction words, and after it the encoder (02 R27 to R49).

`Raw` holds the fields of Tables 2.2, 2.5 and 2.6; a decoder per form turns them into an instruction, rejecting
every value the maps do not list, every nonzero unused or reserved field, and every operand that is not
well-formed (R47). -/
namespace Sys2Proof

/-- Why words are no instruction. -/
inductive Illegal where
  /-- the first word holds OP 0x3C to 0x3F (Table 2.1) -/
  | reservedOp
  /-- fewer words than the first word's OP asks for -/
  | truncated
  /-- any other illegal encoding (R47) -/
  | encoding
  deriving DecidableEq, Repr

/-- What words decode to: an instruction, or the reason there is none. -/
inductive Decoded where
  | ok (i : Instr)
  | illegal (why : Illegal)
  deriving DecidableEq, Repr

/-- The fields of the first word (Table 2.2), and the second and third words. -/
structure Raw where
  set : Nat
  op : Nat
  g : Nat
  ws : Nat
  d : Nat
  a : Nat
  b : Nat
  w2 : Nat
  w3 : Nat
  deriving DecidableEq, Repr

/-- Bits 21:0 of the first word, the offset of B32 BRA (R43). -/
def Raw.low22 (r : Raw) : Nat := r.ws * 2097152 + r.d * 16384 + r.a * 128 + r.b
def Raw.xop (r : Raw) : Nat := r.w2 / 1048576
def Raw.c (r : Raw) : Nat := r.w2 / 8192 % 128
def Raw.modv (r : Raw) : Nat := r.w2 % 8192
def Raw.ty (r : Raw) : Nat := r.modv / 256
def Raw.rm (r : Raw) : Nat := r.modv / 64 % 4
def Raw.fl (r : Raw) : Nat := r.modv % 64
def Raw.mop (r : Raw) : Nat := r.w2 / 67108864
def Raw.space (r : Raw) : Nat := r.w2 / 8388608 % 8
def Raw.size (r : Raw) : Nat := r.w2 / 1048576 % 8
def Raw.scope (r : Raw) : Nat := r.w2 / 131072 % 8
def Raw.order (r : Raw) : Nat := r.w2 / 32768 % 4
def Raw.off (r : Raw) : Nat := r.w2 % 32768

/-- The fields of three words (a word the form lacks is 0). -/
def Raw.ofWords (w1 w2 w3 : Nat) : Raw :=
  ⟨w1 / 2147483648 % 2, w1 / 33554432 % 64, w1 / 4194304 % 8, w1 / 2097152 % 2, w1 / 16384 % 128, w1 / 128 % 128,
    w1 % 128, w2, w3⟩

def chk {α : Type} (b : Bool) (x : Option α) : Option α := if b then x else none
def decFin (n k : Nat) : Option (Fin n) := if h : k < n then some ⟨k, h⟩ else none
def decBool (k : Nat) : Option Bool := if k = 0 then some false else if k = 1 then some true else none
/-- A field that is 0, or the one code given. -/
def decFlagAt (code k : Nat) : Option Bool := if k = 0 then some false else if k = code then some true else none

/-- Table 2.3, a lane-set source. -/
def Reg.dec (n : Nat) : Option Reg :=
  if h : n < 96 then some (.v ⟨n, h⟩)
  else if h : n - 96 < 24 then some (.s ⟨n - 96, h⟩)
  else if n = 120 then some .z
  else if n = 121 then some .li
  else if h : n - 124 < 4 ∧ 124 ≤ n then some (.b ⟨n - 124, h.1⟩)
  else none
/-- Table 2.3, a lane-set destination. -/
def LReg.dec (n : Nat) : Option Reg :=
  if h : n < 96 then some (.v ⟨n, h⟩) else if n = 120 then some .z else none
/-- Table 2.3, the uniform-set columns. -/
def SReg.dec (n : Nat) : Option SReg :=
  if h : 96 ≤ n ∧ n - 96 < 24 then some (.s ⟨n - 96, h.2⟩) else if n = 120 then some .z else none
def SReg.decOpt (n : Nat) : Option (Option SReg) :=
  if n = 0 then some none else (SReg.dec n).bind fun r => some (some r)
/-- The base of a group of uniform registers, z excluded. -/
def decSBase (n : Nat) : Option (Fin 24) := if h : 96 ≤ n ∧ n - 96 < 24 then some ⟨n - 96, h.2⟩ else none
/-- A destination with write suppress (R36). -/
def Dst.dec (ws n : Nat) : Option Dst :=
  if ws = 1 then (if n = 0 then some .latch else none)
  else if h : n < 96 then some (.v ⟨n, h⟩) else if n = 120 then some .z else none
def Pred.dec (n : Nat) : Option Pred := if h : n < 7 then some (.p ⟨n, h⟩) else if n = 7 then some .t else none
/-- The guard field: every 3-bit value is a guard (R35). -/
def Pred.decG (n : Nat) : Pred := if h : n < 7 then .p ⟨n, h⟩ else .t
def decOptP (on : Bool) (n : Nat) : Option (Option (Fin 7)) :=
  if on then (decFin 7 n).bind fun p => some (some p) else if n = 0 then some none else none
/-- Bits 14:8 of the offset name the handle's register; bits 7:1 are reserved (R39). -/
def decHandle (off : Nat) : Option (Fin 24) := if off / 2 % 128 = 0 then decSBase (off / 256) else none
def GOff.dec (space off : Nat) : Option GOff :=
  if space = 0 then some (.off (BitVec.ofNat 15 off))
  else if off % 256 = 0 then (decSBase (off / 256)).bind fun h => some (.fit h) else none

def Ty.dec : Nat → Option Ty
  | 0 => some .s8 | 1 => some .z8 | 2 => some .s16 | 3 => some .z16 | 4 => some .s32 | 5 => some .z32
  | 6 => some .s64 | 7 => some .z64 | 8 => some .f32 | 9 => some .f16 | 10 => some .bf16 | 11 => some .e4m3
  | 12 => some .e5m2 | 13 => some .mxf8 | 14 => some .mxf4 | 15 => some .s4 | 16 => some .spt8 | 17 => some .e2m1
  | _ => none
def RM.dec : Nat → Option RM
  | 0 => some .rn | 1 => some .rz | 2 => some .ru | 3 => some .rd | _ => none
def Size.dec : Nat → Option Size
  | 0 => some .b8 | 1 => some .b16 | 2 => some .b32 | 3 => some .b64 | 4 => some .b128 | _ => none
def Scope.dec : Nat → Option Scope
  | 0 => some .sh | 1 => some .st | 2 => some .bn | 3 => some .di | 4 => some .pk | 5 => some .sy | _ => none
def Order.dec : Nat → Option Order
  | 0 => some .plain | 1 => some .acq | 2 => some .rel | 3 => some .ar | _ => none
def Cond.dec : Nat → Option Cond
  | 0 => some .eq | 1 => some .ne | 2 => some .lt | 3 => some .le | 4 => some .gt | 5 => some .ge | _ => none
def FCond.dec : Nat → Option FCond
  | 0 => some .eq | 1 => some .ne | 2 => some .lt | 3 => some .le | 4 => some .gt | 5 => some .ge | 6 => some .num
  | 7 => some .nan | _ => none
/-- With combine 0, C must be 0 (05 R97). -/
def Combine.dec (k c : Nat) : Option Combine :=
  match k with
  | 0 => if c = 0 then some .none else Option.none
  | 1 => (Pred.dec c).bind fun p => some (.and p)
  | 2 => (Pred.dec c).bind fun p => some (.or p)
  | 3 => (Pred.dec c).bind fun p => some (.xor p)
  | _ => Option.none
def XMode.dec : Nat → Option XMode
  | 0 => some .idx | 1 => some .xor | 2 => some .up | 3 => some .dn | _ => none
def RedOp.dec : Nat → Option RedOp
  | 0 => some .add | 1 => some .min | 2 => some .max | 3 => some .and | 4 => some .or | 5 => some .xor | _ => none
def PlogArgs.dec (k ws d a b : Nat) : Option PlogArgs :=
  match k with
  | 0 => chk (ws = 0) <| (decFin 7 d).bind fun d => (Pred.dec a).bind fun a => (Pred.dec b).bind fun b => some (.and d a b)
  | 1 => chk (ws = 0) <| (decFin 7 d).bind fun d => (Pred.dec a).bind fun a => (Pred.dec b).bind fun b => some (.or d a b)
  | 2 => chk (ws = 0) <| (decFin 7 d).bind fun d => (Pred.dec a).bind fun a => (Pred.dec b).bind fun b => some (.xor d a b)
  | 3 => chk (ws = 0) <| (decFin 7 d).bind fun d => (Pred.dec a).bind fun a => (Pred.dec b).bind fun b => some (.andn d a b)
  | 4 => chk (decide (ws = 0) && decide (b = 0)) <| (decFin 7 d).bind fun d => (Pred.dec a).bind fun a => some (.mov d a)
  | 5 => chk (decide (ws = 0) && decide (b = 0)) <| (decFin 7 d).bind fun d => (Pred.dec a).bind fun a => some (.not d a)
  | 6 => chk (decide (a = 0) && decide (b = 0)) <| (Dst.dec ws d).bind fun d => some (.pack d)
  | 7 => chk (decide (ws = 0) && decide (d = 0) && decide (b = 0)) <| (Reg.dec a).bind fun a => some (.unpack a)
  | _ => none
def VoteDst.dec (k d : Nat) : Option VoteDst :=
  match k with
  | 0 => (decFin 7 d).bind fun d => some (.any d)
  | 1 => (decFin 7 d).bind fun d => some (.all d)
  | 2 => (LReg.dec d).bind fun r => if r.isGroup 2 then some (.bal r) else none
  | _ => none
def MkLog.dec (k a b : Nat) : Option MkLog :=
  match k with
  | 0 => (decFin 12 a).bind fun a => (decFin 12 b).bind fun b => some (.and a b)
  | 1 => (decFin 12 a).bind fun a => (decFin 12 b).bind fun b => some (.or a b)
  | 2 => (decFin 12 a).bind fun a => (decFin 12 b).bind fun b => some (.andn a b)
  | 3 => (decFin 12 a).bind fun a => (decFin 12 b).bind fun b => some (.xor a b)
  | 4 => chk (b = 0) <| (decFin 12 a).bind fun a => some (.mov a)
  | 5 => chk (decide (a = 0) && decide (b = 0)) <| some .clr
  | 6 => chk (b = 0) <| (decFin 12 a).bind fun a => some (.not a)
  | _ => none
def AtomOp.dec : Nat → Option AtomOp
  | 0 => some .add | 1 => some .sub | 2 => some .minS | 3 => some .maxS | 4 => some .minZ | 5 => some .maxZ
  | 6 => some .and | 7 => some .or | 8 => some .xor | 9 => some .exch | 10 => some .incw | 11 => some .decw
  | 12 => some .addF32 | _ => none
def CpySpace.dec : Nat → Option CpySpace
  | 0 => some .glob | 1 => some .abin | 2 => some .wbin | 3 => some .cbin | _ => none
def CpyTr.dec : Nat → Option CpyTr
  | 0 => some .none | 1 => some .t2 | 2 => some .t4 | _ => Option.none
def Pfl2Args.dec (w3 d b : Nat) : Option Pfl2Args :=
  if w3 % 2 = 1 then (if d = 0 then (SReg.dec b).bind fun b => some (.cc b) else none)
  else if b = 0 then (decFin 64 d).bind fun t => some (.tag t) else none
def CollOp.dec : Nat → Option CollOp
  | 0 => some .add | 1 => some .min | 2 => some .max | 3 => some .or | _ => none
def CollKind.dec : Nat → Option CollKind
  | 0 => some .red | 1 => some .bc | 2 => some .ar | _ => none
/-- Table 2.14. -/
def Spr.dec : Nat → Option Spr
  | 0x00 => some .sheaf | 0x01 => some .stookX | 0x02 => some .stookY | 0x03 => some .stookZ | 0x04 => some .crop
  | 0x05 => some .width | 0x06 => some .role | 0x08 => some .core | 0x09 => some .barn | 0x0a => some .die
  | 0x0b => some .ncore | 0x10 => some .cycles | 0x12 => some .pennants | 0x14 => some .chdepth
  | 0x18 => some .binw | 0x19 => some .bina | 0x1a => some .binc | 0x20 => some .ctx | 0x21 => some .prio
  | _ => none

/-- Bytes of the instruction whose first word holds this OP (Table 2.1); none for a reserved OP. -/
def opLength (op : Nat) : Option Nat :=
  if op < 0x38 then some 4 else if op < 0x3b then some 8 else if op = 0x3b then some 12 else none
/-- The OP field of a first word. -/
def opOf (w : Word) : Nat := (w.extractLsb' 25 6).toNat

/-- The lane set's B32 map, by OP (Table 2.10). -/
def decB32L (g : Pred) (r : Raw) : Option Instr :=
  match r.op with
  | 1 => (Dst.dec r.ws r.d).bind fun d => (Reg.dec r.a).bind fun a => (Reg.dec r.b).bind fun b => some (.iaddB32 g d a b)
  | 2 => (Dst.dec r.ws r.d).bind fun d => (Reg.dec r.a).bind fun a => (Reg.dec r.b).bind fun b => some (.isubB32 g d a b)
  | 3 => (Dst.dec r.ws r.d).bind fun d => (Reg.dec r.a).bind fun a => (Reg.dec r.b).bind fun b => some (.imulB32 g d a b)
  | 4 => (Dst.dec r.ws r.d).bind fun d => (Reg.dec r.a).bind fun a => (Reg.dec r.b).bind fun b => some (.imulhS32B32 g d a b)
  | 5 => (Dst.dec r.ws r.d).bind fun d => (Reg.dec r.a).bind fun a => (Reg.dec r.b).bind fun b => some (.imulhZ32B32 g d a b)
  | 6 => (Dst.dec r.ws r.d).bind fun d => (Reg.dec r.a).bind fun a => (Reg.dec r.b).bind fun b => some (.iminS32B32 g d a b)
  | 7 => (Dst.dec r.ws r.d).bind fun d => (Reg.dec r.a).bind fun a => (Reg.dec r.b).bind fun b => some (.imaxS32B32 g d a b)
  | 8 => (Dst.dec r.ws r.d).bind fun d => (Reg.dec r.a).bind fun a => (Reg.dec r.b).bind fun b => some (.iminZ32B32 g d a b)
  | 9 => (Dst.dec r.ws r.d).bind fun d => (Reg.dec r.a).bind fun a => (Reg.dec r.b).bind fun b => some (.imaxZ32B32 g d a b)
  | 10 => (Dst.dec r.ws r.d).bind fun d => (Reg.dec r.a).bind fun a => (Reg.dec r.b).bind fun b => some (.shlB32 g d a b)
  | 11 => (Dst.dec r.ws r.d).bind fun d => (Reg.dec r.a).bind fun a => (Reg.dec r.b).bind fun b => some (.shrZ32B32 g d a b)
  | 12 => (Dst.dec r.ws r.d).bind fun d => (Reg.dec r.a).bind fun a => (Reg.dec r.b).bind fun b => some (.shrS32B32 g d a b)
  | 13 => (Dst.dec r.ws r.d).bind fun d => (Reg.dec r.a).bind fun a => (Reg.dec r.b).bind fun b => some (.andB32 g d a b)
  | 14 => (Dst.dec r.ws r.d).bind fun d => (Reg.dec r.a).bind fun a => (Reg.dec r.b).bind fun b => some (.orB32 g d a b)
  | 15 => (Dst.dec r.ws r.d).bind fun d => (Reg.dec r.a).bind fun a => (Reg.dec r.b).bind fun b => some (.xorB32 g d a b)
  | 16 => (Dst.dec r.ws r.d).bind fun d => (Reg.dec r.a).bind fun a => (Reg.dec r.b).bind fun b => some (.andnB32 g d a b)
  | 17 => chk (decide (r.b = 0)) <| (Dst.dec r.ws r.d).bind fun d => (Reg.dec r.a).bind fun a => some (.movB32 g d a)
  | 18 => chk (decide (r.b = 0)) <| (Dst.dec r.ws r.d).bind fun d => (Reg.dec r.a).bind fun a => some (.popcB32 g d a)
  | 19 => chk (decide (r.b = 0)) <| (Dst.dec r.ws r.d).bind fun d => (Reg.dec r.a).bind fun a => some (.clzB32 g d a)
  | 20 => chk (decide (r.b = 0)) <| (Dst.dec r.ws r.d).bind fun d => (Reg.dec r.a).bind fun a => some (.brevB32 g d a)
  | 21 => chk (decide (r.ws = 0)) <| (LReg.dec r.d).bind fun d => (Reg.dec r.a).bind fun a => (Reg.dec r.b).bind fun b => some (.iadd64B32 g d a b)
  | 22 => chk (decide (r.b = 0)) <| (Dst.dec r.ws r.d).bind fun d => (Reg.dec r.a).bind fun a => some (.iabsB32 g d a)
  | 23 => chk (decide (r.b = 0)) <| (Dst.dec r.ws r.d).bind fun d => (Reg.dec r.a).bind fun a => some (.inegB32 g d a)
  | 24 => (Dst.dec r.ws r.d).bind fun d => (Reg.dec r.a).bind fun a => (Reg.dec r.b).bind fun b => some (.faddF32B32 g d a b)
  | 25 => (Dst.dec r.ws r.d).bind fun d => (Reg.dec r.a).bind fun a => (Reg.dec r.b).bind fun b => some (.fsubF32B32 g d a b)
  | 26 => (Dst.dec r.ws r.d).bind fun d => (Reg.dec r.a).bind fun a => (Reg.dec r.b).bind fun b => some (.fmulF32B32 g d a b)
  | 27 => (Dst.dec r.ws r.d).bind fun d => (Reg.dec r.a).bind fun a => (Reg.dec r.b).bind fun b => some (.fminF32B32 g d a b)
  | 28 => (Dst.dec r.ws r.d).bind fun d => (Reg.dec r.a).bind fun a => (Reg.dec r.b).bind fun b => some (.fmaxF32B32 g d a b)
  | 29 => chk (decide (r.b = 0)) <| (Dst.dec r.ws r.d).bind fun d => (Reg.dec r.a).bind fun a => some (.frcpF32B32 g d a)
  | 30 => chk (decide (r.b = 0)) <| (Dst.dec r.ws r.d).bind fun d => (Reg.dec r.a).bind fun a => some (.frsqF32B32 g d a)
  | 31 => chk (decide (r.b = 0)) <| (Dst.dec r.ws r.d).bind fun d => (Reg.dec r.a).bind fun a => some (.fsqrtF32B32 g d a)
  | 32 => chk (decide (r.b = 0)) <| (Dst.dec r.ws r.d).bind fun d => (Reg.dec r.a).bind fun a => some (.fexp2F32B32 g d a)
  | 33 => chk (decide (r.b = 0)) <| (Dst.dec r.ws r.d).bind fun d => (Reg.dec r.a).bind fun a => some (.flog2F32B32 g d a)
  | 34 => (Dst.dec r.ws r.d).bind fun d => (Reg.dec r.a).bind fun a => (Reg.dec r.b).bind fun b => some (.faddBf16B32 g d a b)
  | 35 => (Dst.dec r.ws r.d).bind fun d => (Reg.dec r.a).bind fun a => (Reg.dec r.b).bind fun b => some (.fmulBf16B32 g d a b)
  | 36 => (Dst.dec r.ws r.d).bind fun d => (Reg.dec r.a).bind fun a => (Reg.dec r.b).bind fun b => some (.faddF16B32 g d a b)
  | 37 => (Dst.dec r.ws r.d).bind fun d => (Reg.dec r.a).bind fun a => (Reg.dec r.b).bind fun b => some (.fmulF16B32 g d a b)
  | 38 => chk (decide (r.b = 0)) <| (Dst.dec r.ws r.d).bind fun d => (Reg.dec r.a).bind fun a => some (.fclassF32B32 g d a)
  | 40 => (some (BitVec.ofNat 22 r.low22)).bind fun off => some (.braB32 g off)
  | 41 => chk (decide (r.d = 0) && decide (r.b = 0) && decide (r.ws = 0)) <| (Reg.dec r.a).bind fun a => some (.retB32 g a)
  | 42 => chk (decide (r.d = 0) && decide (r.a = 0) && decide (r.b = 0) && decide (r.ws = 0)) <| some (.exitB32 g)
  | 43 => chk (decide (r.d = 0) && decide (r.a = 0) && decide (r.b = 0) && decide (r.ws = 0)) <| some (.yieldB32 g)
  | 44 => chk (decide (r.d = 0) && decide (r.a = 0) && decide (r.b = 0) && decide (r.ws = 0)) <| some (.nopB32 g)
  | 45 => chk (decide (r.a = 0) && decide (r.b = 0) && decide (r.ws = 0)) <| (decFin 12 r.d).bind fun m => some (.mkcurB32 g m)
  | 46 => chk (decide (r.d = 0) && decide (r.b = 0) && decide (r.ws = 0)) <| (decFin 12 r.a).bind fun m => some (.joinB32 g m)
  | 47 => chk (decide (r.a = 0) && decide (r.b = 0) && decide (r.ws = 0)) <| (decFin 12 r.d).bind fun m => some (.leaveB32 g m)
  | 48 => (Dst.dec r.ws r.d).bind fun d => (Reg.dec r.a).bind fun a => (Reg.dec r.b).bind fun b => some (.raddF32B32 g d a b)
  | 49 => (Dst.dec r.ws r.d).bind fun d => (Reg.dec r.a).bind fun a => (Reg.dec r.b).bind fun b => some (.unaddF32B32 g d a b)
  | 50 => (Dst.dec r.ws r.d).bind fun d => (Reg.dec r.a).bind fun a => (Reg.dec r.b).bind fun b => some (.rmulF32B32 g d a b)
  | 51 => (Dst.dec r.ws r.d).bind fun d => (Reg.dec r.a).bind fun a => (Reg.dec r.b).bind fun b => some (.unmulF32B32 g d a b)
  | 52 => chk (decide (r.b = 0)) <| (Dst.dec r.ws r.d).bind fun d => (Reg.dec r.a).bind fun a => some (.rreluF32B32 g d a)
  | 53 => chk (decide (r.b = 0)) <| (Dst.dec r.ws r.d).bind fun d => (Reg.dec r.a).bind fun a => some (.unreluF32B32 g d a)
  | 54 => (Dst.dec r.ws r.d).bind fun d => (Reg.dec r.a).bind fun a => (Reg.dec r.b).bind fun b => some (.rmulS32B32 g d a b)
  | 55 => (Dst.dec r.ws r.d).bind fun d => (Reg.dec r.a).bind fun a => (Reg.dec r.b).bind fun b => some (.unmulS32B32 g d a b)
  | _ => none

/-- The lane set's XOP map, X64 form (Table 2.11). -/
def decX64L (g : Pred) (r : Raw) : Option Instr :=
  match r.xop with
  | 0 => chk (decide (r.c = 0) && decide (r.rm = 0) && decide (r.fl &&& 62 = 0)) <| (Dst.dec r.ws r.d).bind fun d => (Reg.dec r.a).bind fun a => (Reg.dec r.b).bind fun b => (Ty.dec r.ty).bind fun ty => (some (r.fl.testBit 0)).bind fun sat => some (.iaddX64 g d a b ty sat)
  | 1 => chk (decide (r.c = 0) && decide (r.rm = 0) && decide (r.fl &&& 62 = 0)) <| (Dst.dec r.ws r.d).bind fun d => (Reg.dec r.a).bind fun a => (Reg.dec r.b).bind fun b => (Ty.dec r.ty).bind fun ty => (some (r.fl.testBit 0)).bind fun sat => some (.isubX64 g d a b ty sat)
  | 2 => chk (decide (r.c = 0) && decide (r.rm = 0) && decide (r.fl &&& 63 = 0)) <| (Dst.dec r.ws r.d).bind fun d => (Reg.dec r.a).bind fun a => (Reg.dec r.b).bind fun b => (Ty.dec r.ty).bind fun ty => some (.imulX64 g d a b ty)
  | 3 => chk (decide (r.c = 0) && decide (r.rm = 0) && decide (r.fl &&& 63 = 0)) <| (Dst.dec r.ws r.d).bind fun d => (Reg.dec r.a).bind fun a => (Reg.dec r.b).bind fun b => (Ty.dec r.ty).bind fun ty => some (.imulhX64 g d a b ty)
  | 4 => chk (decide (r.rm = 0) && decide (r.fl &&& 63 = 0)) <| (Dst.dec r.ws r.d).bind fun d => (Reg.dec r.a).bind fun a => (Reg.dec r.b).bind fun b => (Reg.dec r.c).bind fun c => (Ty.dec r.ty).bind fun ty => some (.imad g d a b c ty)
  | 5 => chk (decide (r.ws = 0) && decide (r.rm = 0) && decide (r.fl &&& 63 = 0)) <| (LReg.dec r.d).bind fun d => (Reg.dec r.a).bind fun a => (Reg.dec r.b).bind fun b => (Reg.dec r.c).bind fun c => (Ty.dec r.ty).bind fun ty => some (.imadw g d a b c ty)
  | 6 => chk (decide (r.ws = 0) && decide (r.c = 0) && decide (r.rm = 0) && decide (r.fl &&& 63 = 0)) <| (LReg.dec r.d).bind fun d => (Reg.dec r.a).bind fun a => (Reg.dec r.b).bind fun b => (Ty.dec r.ty).bind fun ty => some (.iadd64X64 g d a b ty)
  | 7 => chk (decide (r.ws = 0) && decide (r.c = 0) && decide (r.rm = 0) && decide (r.fl &&& 56 = 0)) <| (LReg.dec r.d).bind fun d => (Reg.dec r.a).bind fun a => (Reg.dec r.b).bind fun b => (Ty.dec r.ty).bind fun ty => (decFin 8 (r.fl % 8)).bind fun sh => some (.leaX64 g d a b ty sh)
  | 8 => chk (decide (r.b = 0) && decide (r.c = 0) && decide (r.ty = 4) && decide (r.rm = 0) && decide (r.fl &&& 62 = 0)) <| (Dst.dec r.ws r.d).bind fun d => (Reg.dec r.a).bind fun a => (some (r.fl.testBit 0)).bind fun sat => some (.iabsX64 g d a sat)
  | 9 => chk (decide (r.b = 0) && decide (r.c = 0) && decide (r.ty = 4) && decide (r.rm = 0) && decide (r.fl &&& 62 = 0)) <| (Dst.dec r.ws r.d).bind fun d => (Reg.dec r.a).bind fun a => (some (r.fl.testBit 0)).bind fun sat => some (.inegX64 g d a sat)
  | 10 => chk (decide (r.c = 0) && decide (r.rm = 0) && decide (r.fl &&& 63 = 0)) <| (Dst.dec r.ws r.d).bind fun d => (Reg.dec r.a).bind fun a => (Reg.dec r.b).bind fun b => (Ty.dec r.ty).bind fun ty => some (.iminX64 g d a b ty)
  | 11 => chk (decide (r.c = 0) && decide (r.rm = 0) && decide (r.fl &&& 63 = 0)) <| (Dst.dec r.ws r.d).bind fun d => (Reg.dec r.a).bind fun a => (Reg.dec r.b).bind fun b => (Ty.dec r.ty).bind fun ty => some (.imaxX64 g d a b ty)
  | 12 => chk (decide (r.c = 0) && decide (r.rm = 0) && decide (r.fl &&& 62 = 0)) <| (Dst.dec r.ws r.d).bind fun d => (Reg.dec r.a).bind fun a => (Reg.dec r.b).bind fun b => (Ty.dec r.ty).bind fun ty => (some (r.fl.testBit 0)).bind fun wrap => some (.shlX64 g d a b ty wrap)
  | 13 => chk (decide (r.c = 0) && decide (r.rm = 0) && decide (r.fl &&& 62 = 0)) <| (Dst.dec r.ws r.d).bind fun d => (Reg.dec r.a).bind fun a => (Reg.dec r.b).bind fun b => (Ty.dec r.ty).bind fun ty => (some (r.fl.testBit 0)).bind fun wrap => some (.shrX64 g d a b ty wrap)
  | 14 => chk (decide (r.rm = 0) && decide (r.fl &&& 60 = 0)) <| (Dst.dec r.ws r.d).bind fun d => (Reg.dec r.a).bind fun a => (Reg.dec r.b).bind fun b => (Reg.dec r.c).bind fun c => (Ty.dec r.ty).bind fun ty => (some (r.fl.testBit 0)).bind fun lft => (some (r.fl.testBit 1)).bind fun wrap => some (.shf g d a b c ty lft wrap)
  | 15 => chk (decide (r.c = 0) && decide (r.rm = 0) && decide (r.fl &&& 62 = 0)) <| (Dst.dec r.ws r.d).bind fun d => (Reg.dec r.a).bind fun a => (Reg.dec r.b).bind fun b => (Ty.dec r.ty).bind fun ty => (some (r.fl.testBit 0)).bind fun rgt => some (.rot g d a b ty rgt)
  | 16 => chk (decide (r.c = 0) && decide (r.rm = 0) && decide (r.fl &&& 63 = 0)) <| (Dst.dec r.ws r.d).bind fun d => (Reg.dec r.a).bind fun a => (Reg.dec r.b).bind fun b => (Ty.dec r.ty).bind fun ty => some (.andX64 g d a b ty)
  | 17 => chk (decide (r.c = 0) && decide (r.rm = 0) && decide (r.fl &&& 63 = 0)) <| (Dst.dec r.ws r.d).bind fun d => (Reg.dec r.a).bind fun a => (Reg.dec r.b).bind fun b => (Ty.dec r.ty).bind fun ty => some (.orX64 g d a b ty)
  | 18 => chk (decide (r.c = 0) && decide (r.rm = 0) && decide (r.fl &&& 63 = 0)) <| (Dst.dec r.ws r.d).bind fun d => (Reg.dec r.a).bind fun a => (Reg.dec r.b).bind fun b => (Ty.dec r.ty).bind fun ty => some (.xorX64 g d a b ty)
  | 19 => chk (decide (r.c = 0) && decide (r.rm = 0) && decide (r.fl &&& 63 = 0)) <| (Dst.dec r.ws r.d).bind fun d => (Reg.dec r.a).bind fun a => (Reg.dec r.b).bind fun b => (Ty.dec r.ty).bind fun ty => some (.andnX64 g d a b ty)
  | 21 => chk (decide (r.b = 0) && decide (r.c = 0) && decide (r.rm = 0) && decide (r.fl &&& 63 = 0)) <| (Dst.dec r.ws r.d).bind fun d => (Reg.dec r.a).bind fun a => (Ty.dec r.ty).bind fun ty => some (.popcX64 g d a ty)
  | 22 => chk (decide (r.b = 0) && decide (r.c = 0) && decide (r.rm = 0) && decide (r.fl &&& 63 = 0)) <| (Dst.dec r.ws r.d).bind fun d => (Reg.dec r.a).bind fun a => (Ty.dec r.ty).bind fun ty => some (.clzX64 g d a ty)
  | 23 => chk (decide (r.b = 0) && decide (r.c = 0) && decide (r.rm = 0) && decide (r.fl &&& 63 = 0)) <| (Dst.dec r.ws r.d).bind fun d => (Reg.dec r.a).bind fun a => (Ty.dec r.ty).bind fun ty => some (.brevX64 g d a ty)
  | 26 => chk (decide (r.ws = 0) && decide (r.rm = 0) && decide (r.fl &&& 32 = 0)) <| (decFin 7 r.d).bind fun d => (Reg.dec r.a).bind fun a => (Reg.dec r.b).bind fun b => (Ty.dec r.ty).bind fun ty => (Cond.dec (r.fl % 8)).bind fun cond => (Combine.dec (r.fl / 8 % 4) r.c).bind fun comb => some (.icmp g d a b ty cond comb)
  | 27 => chk (decide (r.rm = 0) && decide (r.fl &&& 62 = 0)) <| (Dst.dec r.ws r.d).bind fun d => (Reg.dec r.a).bind fun a => (Reg.dec r.b).bind fun b => (Pred.dec r.c).bind fun c => (Ty.dec r.ty).bind fun ty => (some (r.fl.testBit 0)).bind fun neg => some (.sel g d a b c ty neg)
  | 28 => chk (decide (r.c = 0) && decide (r.ty = 0) && decide (r.rm = 0) && decide (r.fl &&& 56 = 0)) <| (PlogArgs.dec (r.fl % 8) r.ws r.d r.a r.b).bind fun x => some (.plog g x)
  | 29 => chk (decide (r.b = 0) && decide (r.c = 0) && decide (r.rm = 0) && decide (r.fl &&& 63 = 0)) <| (Dst.dec r.ws r.d).bind fun d => (Reg.dec r.a).bind fun a => (Ty.dec r.ty).bind fun ty => some (.movX64 g d a ty)
  | 30 => chk (decide (r.rm = 0) && decide (r.fl &&& 62 = 0)) <| (Dst.dec r.ws r.d).bind fun d => (Reg.dec r.a).bind fun a => (Reg.dec r.b).bind fun b => (Reg.dec r.c).bind fun c => (Ty.dec r.ty).bind fun ty => (some (r.fl.testBit 0)).bind fun bz => some (.idp4 g d a b c ty bz)
  | 31 => chk (decide (r.rm = 0) && decide (r.fl &&& 48 = 0)) <| (Dst.dec r.ws r.d).bind fun d => (Reg.dec r.a).bind fun a => (Reg.dec r.b).bind fun b => (Ty.dec r.ty).bind fun ty => (XMode.dec (r.fl % 8)).bind fun mode => (decOptP (r.fl.testBit 3) r.c).bind fun ok => some (.xch g d a b ty mode ok)
  | 32 => chk (decide (r.b = 0) && decide (r.ws = 0) && decide (r.c = 0) && decide (r.ty = 0) && decide (r.rm = 0) && decide (r.fl &&& 48 = 0)) <| (VoteDst.dec (r.fl % 8) r.d).bind fun x => (Pred.dec r.a).bind fun a => (some (r.fl.testBit 3)).bind fun neg => some (.vote g x a neg)
  | 33 => chk (decide (r.b = 0) && decide (r.ws = 0) && decide (r.c = 0) && decide (r.rm = 0) && decide (r.fl &&& 56 = 0)) <| (LReg.dec r.d).bind fun d => (Reg.dec r.a).bind fun a => (Ty.dec r.ty).bind fun ty => (decBool (r.fl % 8)).bind fun all => some (.match g d a ty all)
  | 34 => chk (decide (r.b = 0) && decide (r.c = 0) && decide (r.rm = 0) && decide (r.fl &&& 56 = 0)) <| (Dst.dec r.ws r.d).bind fun d => (Reg.dec r.a).bind fun a => (Ty.dec r.ty).bind fun ty => (RedOp.dec (r.fl % 8)).bind fun op => some (.redux g d a ty op)
  | 256 => chk (decide (r.c = 0) && decide (r.fl &&& 63 = 0)) <| (Dst.dec r.ws r.d).bind fun d => (Reg.dec r.a).bind fun a => (Reg.dec r.b).bind fun b => (Ty.dec r.ty).bind fun ty => (RM.dec r.rm).bind fun rm => some (.faddX64 g d a b ty rm)
  | 257 => chk (decide (r.c = 0) && decide (r.fl &&& 63 = 0)) <| (Dst.dec r.ws r.d).bind fun d => (Reg.dec r.a).bind fun a => (Reg.dec r.b).bind fun b => (Ty.dec r.ty).bind fun ty => (RM.dec r.rm).bind fun rm => some (.fsubX64 g d a b ty rm)
  | 258 => chk (decide (r.c = 0) && decide (r.fl &&& 63 = 0)) <| (Dst.dec r.ws r.d).bind fun d => (Reg.dec r.a).bind fun a => (Reg.dec r.b).bind fun b => (Ty.dec r.ty).bind fun ty => (RM.dec r.rm).bind fun rm => some (.fmulX64 g d a b ty rm)
  | 259 => chk (decide (r.fl &&& 63 = 0)) <| (Dst.dec r.ws r.d).bind fun d => (Reg.dec r.a).bind fun a => (Reg.dec r.b).bind fun b => (Reg.dec r.c).bind fun c => (Ty.dec r.ty).bind fun ty => (RM.dec r.rm).bind fun rm => some (.ffma g d a b c ty rm)
  | 260 => chk (decide (r.c = 0) && decide (r.rm = 0) && decide (r.fl &&& 62 = 0)) <| (Dst.dec r.ws r.d).bind fun d => (Reg.dec r.a).bind fun a => (Reg.dec r.b).bind fun b => (Ty.dec r.ty).bind fun ty => (some (r.fl.testBit 0)).bind fun nan => some (.fminX64 g d a b ty nan)
  | 261 => chk (decide (r.c = 0) && decide (r.rm = 0) && decide (r.fl &&& 62 = 0)) <| (Dst.dec r.ws r.d).bind fun d => (Reg.dec r.a).bind fun a => (Reg.dec r.b).bind fun b => (Ty.dec r.ty).bind fun ty => (some (r.fl.testBit 0)).bind fun nan => some (.fmaxX64 g d a b ty nan)
  | 262 => chk (decide (r.ws = 0) && decide (r.rm = 0)) <| (decFin 7 r.d).bind fun d => (Reg.dec r.a).bind fun a => (Reg.dec r.b).bind fun b => (Ty.dec r.ty).bind fun ty => (FCond.dec (r.fl % 8)).bind fun cond => (Combine.dec (r.fl / 8 % 4) r.c).bind fun comb => (some (r.fl.testBit 5)).bind fun hi => some (.fcmp g d a b ty cond comb hi)
  | 263 => chk (decide (r.b = 0) && decide (r.c = 0) && decide (r.rm = 0) && decide (r.fl &&& 63 = 0)) <| (Dst.dec r.ws r.d).bind fun d => (Reg.dec r.a).bind fun a => (Ty.dec r.ty).bind fun ty => some (.frcpX64 g d a ty)
  | 264 => chk (decide (r.b = 0) && decide (r.c = 0) && decide (r.rm = 0) && decide (r.fl &&& 63 = 0)) <| (Dst.dec r.ws r.d).bind fun d => (Reg.dec r.a).bind fun a => (Ty.dec r.ty).bind fun ty => some (.frsqX64 g d a ty)
  | 265 => chk (decide (r.b = 0) && decide (r.c = 0) && decide (r.rm = 0) && decide (r.fl &&& 63 = 0)) <| (Dst.dec r.ws r.d).bind fun d => (Reg.dec r.a).bind fun a => (Ty.dec r.ty).bind fun ty => some (.fsqrtX64 g d a ty)
  | 266 => chk (decide (r.b = 0) && decide (r.c = 0) && decide (r.rm = 0) && decide (r.fl &&& 63 = 0)) <| (Dst.dec r.ws r.d).bind fun d => (Reg.dec r.a).bind fun a => (Ty.dec r.ty).bind fun ty => some (.fexp2X64 g d a ty)
  | 267 => chk (decide (r.b = 0) && decide (r.c = 0) && decide (r.rm = 0) && decide (r.fl &&& 63 = 0)) <| (Dst.dec r.ws r.d).bind fun d => (Reg.dec r.a).bind fun a => (Ty.dec r.ty).bind fun ty => some (.flog2X64 g d a ty)
  | 268 => chk (decide (r.fl &&& 63 = 0)) <| (Dst.dec r.ws r.d).bind fun d => (Reg.dec r.a).bind fun a => (Reg.dec r.b).bind fun b => (Reg.dec r.c).bind fun c => (Ty.dec r.ty).bind fun ty => (RM.dec r.rm).bind fun rm => some (.fdp2 g d a b c ty rm)
  | 269 => chk (decide (r.c = 0) && decide (r.modv % 2 = 0)) <| (Dst.dec r.ws r.d).bind fun d => (Reg.dec r.a).bind fun a => (Reg.dec r.b).bind fun b => (Ty.dec r.ty).bind fun dt => (Ty.dec (r.modv / 8 % 32)).bind fun st => (RM.dec (r.modv / 2 % 4)).bind fun rm => some (.cvt g d a b dt st rm)
  | 270 => chk (decide (r.modv % 2 = 0) && decide (r.modv / 2 % 4 = 0)) <| (Dst.dec r.ws r.d).bind fun d => (Reg.dec r.a).bind fun a => (Reg.dec r.b).bind fun b => (Reg.dec r.c).bind fun c => (Ty.dec r.ty).bind fun dt => (Ty.dec (r.modv / 8 % 32)).bind fun st => some (.cvtsr g d a b c dt st)
  | 271 => chk (decide (r.b = 0) && decide (r.c = 0) && decide (r.rm = 0) && decide (r.fl &&& 63 = 0)) <| (Dst.dec r.ws r.d).bind fun d => (Reg.dec r.a).bind fun a => (Ty.dec r.ty).bind fun ty => some (.fclassX64 g d a ty)
  | 512 => chk (decide (r.d = 0) && decide (r.b = 0) && decide (r.ws = 0) && decide (r.c = 0) && decide (r.modv = 0)) <| (Reg.dec r.a).bind fun a => some (.brx g a)
  | 513 => chk (decide (r.b = 0) && decide (r.ws = 0) && decide (r.c = 0) && decide (r.modv = 0)) <| (LReg.dec r.d).bind fun d => (Reg.dec r.a).bind fun a => some (.callx g d a)
  | 514 => chk (decide (r.d = 0) && decide (r.b = 0) && decide (r.ws = 0) && decide (r.c = 0) && decide (r.modv = 0)) <| (Reg.dec r.a).bind fun a => some (.retX64 g a)
  | 515 => chk (decide (r.d = 0) && decide (r.a = 0) && decide (r.b = 0) && decide (r.ws = 0) && decide (r.c = 0) && decide (r.modv = 0)) <| some (.exitX64 g)
  | 516 => chk (decide (r.d = 0) && decide (r.a = 0) && decide (r.b = 0) && decide (r.ws = 0) && decide (r.c = 0) && decide (r.modv = 0)) <| some (.yieldX64 g)
  | 517 => chk (decide (r.d = 0) && decide (r.a = 0) && decide (r.b = 0) && decide (r.ws = 0) && decide (r.c = 0) && decide (r.modv = 0)) <| some (.nopX64 g)
  | 518 => chk (decide (r.a = 0) && decide (r.b = 0) && decide (r.ws = 0) && decide (r.c = 0) && decide (r.modv = 0)) <| (decFin 12 r.d).bind fun m => some (.mkcurX64 g m)
  | 519 => chk (decide (r.b = 0) && decide (r.ws = 0) && decide (r.c = 0) && decide (r.modv = 0)) <| (LReg.dec r.d).bind fun d => (decFin 12 r.a).bind fun m => some (.mktos g d m)
  | 520 => chk (decide (r.b = 0) && decide (r.ws = 0) && decide (r.c = 0) && decide (r.modv = 0)) <| (decFin 12 r.d).bind fun m => (Reg.dec r.a).bind fun a => some (.stomk g m a)
  | 521 => chk (decide (r.d = 0) && decide (r.b = 0) && decide (r.ws = 0) && decide (r.c = 0) && decide (r.modv = 0)) <| (decFin 12 r.a).bind fun m => some (.joinX64 g m)
  | 522 => chk (decide (r.a = 0) && decide (r.b = 0) && decide (r.ws = 0) && decide (r.c = 0) && decide (r.modv = 0)) <| (decFin 12 r.d).bind fun m => some (.leaveX64 g m)
  | 523 => chk (decide (r.d = 0) && decide (r.b = 0) && decide (r.ws = 0) && decide (r.c = 0) && decide (r.modv = 0)) <| (decFin 12 r.a).bind fun m => some (.waitm g m)
  | 524 => chk (decide (r.ws = 0) && decide (r.c = 0) && decide (r.ty = 0) && decide (r.rm = 0) && decide (r.fl &&& 56 = 0)) <| (decFin 12 r.d).bind fun d => (MkLog.dec (r.fl % 8) r.a r.b).bind fun x => some (.mklog g d x)
  | 768 => chk (decide (r.c = 0) && decide (r.ty = 8) && decide (r.fl &&& 63 = 0)) <| (Dst.dec r.ws r.d).bind fun d => (Reg.dec r.a).bind fun a => (Reg.dec r.b).bind fun b => (RM.dec r.rm).bind fun rm => some (.raddX64 g d a b rm)
  | 769 => chk (decide (r.c = 0) && decide (r.fl &&& 63 = 0)) <| (Dst.dec r.ws r.d).bind fun d => (Reg.dec r.a).bind fun a => (Reg.dec r.b).bind fun b => (Ty.dec r.ty).bind fun ty => (RM.dec r.rm).bind fun rm => some (.rmulX64 g d a b ty rm)
  | 770 => chk (decide (r.c = 0) && decide (r.modv % 2 = 0)) <| (Dst.dec r.ws r.d).bind fun d => (Reg.dec r.a).bind fun a => (Reg.dec r.b).bind fun b => (Ty.dec r.ty).bind fun dt => (Ty.dec (r.modv / 8 % 32)).bind fun st => (RM.dec (r.modv / 2 % 4)).bind fun rm => some (.rcvt g d a b dt st rm)
  | 771 => chk (decide (r.b = 0) && decide (r.c = 0) && decide (r.ty = 8) && decide (r.rm = 0) && decide (r.fl &&& 63 = 0)) <| (Dst.dec r.ws r.d).bind fun d => (Reg.dec r.a).bind fun a => some (.rreluX64 g d a)
  | 772 => chk (decide (r.c = 0) && decide (r.rm = 0) && decide (r.fl &&& 63 = 0)) <| (Dst.dec r.ws r.d).bind fun d => (Reg.dec r.a).bind fun a => (Reg.dec r.b).bind fun b => (Ty.dec r.ty).bind fun ty => some (.rshr g d a b ty)
  | 773 => chk (decide (r.c = 0) && decide (r.ty = 8) && decide (r.rm = 0) && decide (r.fl &&& 63 = 0)) <| (Dst.dec r.ws r.d).bind fun d => (Reg.dec r.a).bind fun a => (Reg.dec r.b).bind fun b => some (.unaddX64 g d a b)
  | 774 => chk (decide (r.c = 0) && decide (r.rm = 0) && decide (r.fl &&& 63 = 0)) <| (Dst.dec r.ws r.d).bind fun d => (Reg.dec r.a).bind fun a => (Reg.dec r.b).bind fun b => (Ty.dec r.ty).bind fun ty => some (.unmulX64 g d a b ty)
  | 775 => chk (decide (r.c = 0) && decide (r.modv % 2 = 0) && decide (r.modv / 2 % 4 = 0)) <| (Dst.dec r.ws r.d).bind fun d => (Reg.dec r.a).bind fun a => (Reg.dec r.b).bind fun b => (Ty.dec r.ty).bind fun dt => (Ty.dec (r.modv / 8 % 32)).bind fun st => some (.uncvt g d a b dt st)
  | 776 => chk (decide (r.b = 0) && decide (r.c = 0) && decide (r.ty = 8) && decide (r.rm = 0) && decide (r.fl &&& 63 = 0)) <| (Dst.dec r.ws r.d).bind fun d => (Reg.dec r.a).bind fun a => some (.unreluX64 g d a)
  | 777 => chk (decide (r.c = 0) && decide (r.rm = 0) && decide (r.fl &&& 63 = 0)) <| (Dst.dec r.ws r.d).bind fun d => (Reg.dec r.a).bind fun a => (Reg.dec r.b).bind fun b => (Ty.dec r.ty).bind fun ty => some (.unshr g d a b ty)
  | 778 => chk (decide (r.d = 0) && decide (r.b = 0) && decide (r.ws = 0) && decide (r.c = 0) && decide (r.modv = 0)) <| (Reg.dec r.a).bind fun a => some (.chpush g a)
  | 779 => chk (decide (r.a = 0) && decide (r.b = 0) && decide (r.c = 0) && decide (r.modv = 0)) <| (Dst.dec r.ws r.d).bind fun d => some (.chpop g d)
  | 780 => chk (decide (r.d = 0) && decide (r.b = 0) && decide (r.ws = 0) && decide (r.c = 0) && decide (r.modv = 0)) <| (Reg.dec r.a).bind fun a => some (.chdrop g a)
  | 781 => chk (decide (r.a = 0) && decide (r.b = 0) && decide (r.c = 0) && decide (r.modv = 0)) <| (Dst.dec r.ws r.d).bind fun d => some (.chdepth g d)
  | 1024 => chk (decide (r.d = 0) && decide (r.ws = 0) && decide (r.c = 0) && decide (r.modv = 0)) <| (Reg.dec r.a).bind fun a => (Reg.dec r.b).bind fun b => some (.fbinit g a b)
  | 1025 => chk (decide (r.ws = 0) && decide (r.c = 0) && decide (r.modv = 0)) <| (LReg.dec r.d).bind fun d => (Reg.dec r.a).bind fun a => (Reg.dec r.b).bind fun b => some (.fbarr g d a b)
  | 1026 => chk (decide (r.d = 0) && decide (r.ws = 0) && decide (r.c = 0) && decide (r.modv = 0)) <| (Reg.dec r.a).bind fun a => (Reg.dec r.b).bind fun b => some (.fbwait g a b)
  | 1027 => chk (decide (r.ws = 0) && decide (r.c = 0) && decide (r.modv = 0)) <| (decFin 7 r.d).bind fun d => (Reg.dec r.a).bind fun a => (Reg.dec r.b).bind fun b => some (.fbtest g d a b)
  | 1280 => chk (decide (r.d = 0) && decide (r.ws = 0) && decide (r.c = 0) && decide (r.rm = 0) && decide (r.fl &&& 56 = 0)) <| (decFin 96 r.a).bind fun a => (Reg.dec r.b).bind fun b => (Ty.dec r.ty).bind fun ty => (some (r.fl.testBit 0)).bind fun east => (some (r.fl.testBit 1)).bind fun keep => (some (r.fl.testBit 2)).bind fun af => some (.mma g a b ty east keep af)
  | 1281 => chk (decide (r.d = 0) && decide (r.ws = 0) && decide (r.rm = 0) && decide (r.fl &&& 61 = 0)) <| (decFin 96 r.a).bind fun a => (SReg.dec r.b).bind fun b => (SReg.dec r.c).bind fun c => (Ty.dec r.ty).bind fun ty => (some (r.fl.testBit 1)).bind fun keep => some (.dmma g a b c ty keep)
  | _ => none

/-- The lane set's XOP map, X96 form (Table 2.11). -/
def decX96L (g : Pred) (r : Raw) : Option Instr :=
  match r.xop with
  | 20 => chk (decide (r.rm = 0) && decide (r.fl &&& 63 = 0) && decide (r.w3 &&& 4294967040 = 0)) <| (Dst.dec r.ws r.d).bind fun d => (Reg.dec r.a).bind fun a => (Reg.dec r.b).bind fun b => (Reg.dec r.c).bind fun c => (Ty.dec r.ty).bind fun ty => (some (BitVec.ofNat 8 r.w3)).bind fun lut => some (.tern g d a b c ty lut)
  | 24 => chk (decide (r.b = 0) && decide (r.c = 0) && decide (r.rm = 0) && decide (r.fl &&& 63 = 0) && decide (r.w3 &&& 4294951136 = 0)) <| (Dst.dec r.ws r.d).bind fun d => (Reg.dec r.a).bind fun a => (Ty.dec r.ty).bind fun ty => (decFin 32 (r.w3 % 32)).bind fun pos => (decFin 64 (r.w3 / 256 % 64)).bind fun ln => some (.bfx g d a ty pos ln)
  | 25 => chk (decide (r.c = 0) && decide (r.rm = 0) && decide (r.fl &&& 63 = 0) && decide (r.w3 &&& 4294951136 = 0)) <| (Dst.dec r.ws r.d).bind fun d => (Reg.dec r.a).bind fun a => (Reg.dec r.b).bind fun b => (Ty.dec r.ty).bind fun ty => (decFin 32 (r.w3 % 32)).bind fun pos => (decFin 64 (r.w3 / 256 % 64)).bind fun ln => some (.bfi g d a b ty pos ln)
  | 272 => chk (decide (r.d = 0) && decide (r.ws = 0) && decide (r.ty = 13) && decide (r.rm = 0) && decide (r.fl &&& 62 = 0) && decide (r.w3 &&& 4294967292 = 0)) <| (decFin 96 r.a).bind fun a => (SReg.dec r.b).bind fun b => (SReg.dec r.c).bind fun c => (some (r.fl.testBit 0)).bind fun hi => (some (r.w3.testBit 0)).bind fun rowA => (some (r.w3.testBit 1)).bind fun colA => some (.dquant g a b c hi rowA colA)
  | _ => none

/-- The lane set's IOP map (Table 2.12). -/
def decI64L (g : Pred) (r : Raw) : Option Instr :=
  match r.b with
  | 0 => chk (decide (r.a = 0)) <| (Dst.dec r.ws r.d).bind fun d => (some (BitVec.ofNat 32 r.w2)).bind fun imm => some (.movi g d imm)
  | 1 => (Dst.dec r.ws r.d).bind fun d => (Reg.dec r.a).bind fun a => (some (BitVec.ofNat 32 r.w2)).bind fun imm => some (.iaddI64 g d a imm)
  | 2 => (Dst.dec r.ws r.d).bind fun d => (Reg.dec r.a).bind fun a => (some (BitVec.ofNat 32 r.w2)).bind fun imm => some (.imulI64 g d a imm)
  | 3 => (Dst.dec r.ws r.d).bind fun d => (Reg.dec r.a).bind fun a => (some (BitVec.ofNat 32 r.w2)).bind fun imm => some (.andI64 g d a imm)
  | 4 => (Dst.dec r.ws r.d).bind fun d => (Reg.dec r.a).bind fun a => (some (BitVec.ofNat 32 r.w2)).bind fun imm => some (.orI64 g d a imm)
  | 5 => (Dst.dec r.ws r.d).bind fun d => (Reg.dec r.a).bind fun a => (some (BitVec.ofNat 32 r.w2)).bind fun imm => some (.xorI64 g d a imm)
  | 6 => (Dst.dec r.ws r.d).bind fun d => (Reg.dec r.a).bind fun a => (decFin 32 r.w2).bind fun n => some (.shlI64 g d a n)
  | 7 => (Dst.dec r.ws r.d).bind fun d => (Reg.dec r.a).bind fun a => (some (if r.b = 7 then .z32 else .s32)).bind fun ty => (decFin 32 r.w2).bind fun n => some (.shrI64 g d a ty n)
  | 8 => (Dst.dec r.ws r.d).bind fun d => (Reg.dec r.a).bind fun a => (some (if r.b = 7 then .z32 else .s32)).bind fun ty => (decFin 32 r.w2).bind fun n => some (.shrI64 g d a ty n)
  | 9 => (Dst.dec r.ws r.d).bind fun d => (Reg.dec r.a).bind fun a => (some (BitVec.ofNat 32 r.w2)).bind fun imm => some (.iminI64 g d a imm)
  | 10 => (Dst.dec r.ws r.d).bind fun d => (Reg.dec r.a).bind fun a => (some (BitVec.ofNat 32 r.w2)).bind fun imm => some (.imaxI64 g d a imm)
  | 11 => chk (decide (r.ws = 0)) <| (LReg.dec r.d).bind fun d => (Reg.dec r.a).bind fun a => (some (BitVec.ofNat 32 r.w2)).bind fun imm => some (.leaI64 g d a imm)
  | 12 => chk (decide (r.d = 0) && decide (r.a = 0) && decide (r.ws = 0)) <| (some (BitVec.ofNat 32 r.w2)).bind fun imm => some (.braI64 g imm)
  | 13 => chk (decide (r.a = 0) && decide (r.ws = 0)) <| (LReg.dec r.d).bind fun d => (some (BitVec.ofNat 32 r.w2)).bind fun imm => some (.call g d imm)
  | _ => none

/-- The uniform set's B32 map, by OP (Table 2.13). -/
noncomputable def decB32U (g : Pred) (r : Raw) : Option Instr :=
  match r.op with
  | 1 => chk (decide (r.ws = 0)) <| (SReg.dec r.d).bind fun d => (SReg.dec r.a).bind fun a => (SReg.dec r.b).bind fun b => some (.saddB32 g d a b)
  | 2 => chk (decide (r.ws = 0)) <| (SReg.dec r.d).bind fun d => (SReg.dec r.a).bind fun a => (SReg.dec r.b).bind fun b => some (.ssubB32 g d a b)
  | 3 => chk (decide (r.ws = 0)) <| (SReg.dec r.d).bind fun d => (SReg.dec r.a).bind fun a => (SReg.dec r.b).bind fun b => some (.smulB32 g d a b)
  | 4 => chk (decide (r.ws = 0)) <| (SReg.dec r.d).bind fun d => (SReg.dec r.a).bind fun a => (SReg.dec r.b).bind fun b => some (.sadd64B32 g d a b)
  | 5 => chk (decide (r.ws = 0)) <| (SReg.dec r.d).bind fun d => (SReg.dec r.a).bind fun a => (SReg.dec r.b).bind fun b => some (.sshlB32 g d a b)
  | 6 => chk (decide (r.ws = 0)) <| (SReg.dec r.d).bind fun d => (SReg.dec r.a).bind fun a => (SReg.dec r.b).bind fun b => some (.sshrZ32B32 g d a b)
  | 7 => chk (decide (r.ws = 0)) <| (SReg.dec r.d).bind fun d => (SReg.dec r.a).bind fun a => (SReg.dec r.b).bind fun b => some (.sshrS32B32 g d a b)
  | 8 => chk (decide (r.ws = 0)) <| (SReg.dec r.d).bind fun d => (SReg.dec r.a).bind fun a => (SReg.dec r.b).bind fun b => some (.sandB32 g d a b)
  | 9 => chk (decide (r.ws = 0)) <| (SReg.dec r.d).bind fun d => (SReg.dec r.a).bind fun a => (SReg.dec r.b).bind fun b => some (.sorB32 g d a b)
  | 10 => chk (decide (r.ws = 0)) <| (SReg.dec r.d).bind fun d => (SReg.dec r.a).bind fun a => (SReg.dec r.b).bind fun b => some (.sxorB32 g d a b)
  | 11 => chk (decide (r.ws = 0)) <| (SReg.dec r.d).bind fun d => (SReg.dec r.a).bind fun a => (SReg.dec r.b).bind fun b => some (.sminS32B32 g d a b)
  | 12 => chk (decide (r.ws = 0)) <| (SReg.dec r.d).bind fun d => (SReg.dec r.a).bind fun a => (SReg.dec r.b).bind fun b => some (.smaxS32B32 g d a b)
  | 13 => chk (decide (r.ws = 0)) <| (SReg.dec r.d).bind fun d => (SReg.dec r.a).bind fun a => (SReg.dec r.b).bind fun b => some (.sminZ32B32 g d a b)
  | 14 => chk (decide (r.ws = 0)) <| (SReg.dec r.d).bind fun d => (SReg.dec r.a).bind fun a => (SReg.dec r.b).bind fun b => some (.smaxZ32B32 g d a b)
  | 15 => chk (decide (r.b = 0) && decide (r.ws = 0)) <| (SReg.dec r.d).bind fun d => (SReg.dec r.a).bind fun a => some (.smovB32 g d a)
  | 16 => chk (decide (r.b = 0) && decide (r.ws = 0)) <| (SReg.dec r.d).bind fun d => (SReg.dec r.a).bind fun a => some (.spopcB32 g d a)
  | 17 => chk (decide (r.ws = 0)) <| (SReg.dec r.d).bind fun d => (Reg.dec r.a).bind fun a => (SReg.dec r.b).bind fun b => some (.lanerdB32 g d a b)
  | 18 => chk (decide (r.ws = 0)) <| (LReg.dec r.d).bind fun d => (SReg.dec r.a).bind fun a => (SReg.dec r.b).bind fun b => some (.lanewrB32 g d a b)
  | 32 => chk (decide (r.b = 0) && decide (r.ws = 0)) <| (SReg.dec r.d).bind fun d => (SReg.dec r.a).bind fun a => some (.pwaitAnyB32 g d a)
  | 33 => chk (decide (r.b = 0) && decide (r.ws = 0)) <| (SReg.dec r.d).bind fun d => (SReg.dec r.a).bind fun a => some (.pwaitAllB32 g d a)
  | 34 => chk (decide (r.b = 0) && decide (r.ws = 0)) <| (SReg.dec r.d).bind fun d => (SReg.dec r.a).bind fun a => some (.pfindB32 g d a)
  | 35 => chk (decide (r.d = 0) && decide (r.b = 0) && decide (r.ws = 0)) <| (SReg.dec r.a).bind fun a => some (.pclrB32 g a)
  | 36 => chk (decide (r.d = 0) && decide (r.a = 0) && decide (r.b = 0) && decide (r.ws = 0)) <| some (.mxacqB32 g)
  | 37 => chk (decide (r.a = 0) && decide (r.b = 0) && decide (r.ws = 0)) <| (decFin 7 r.d).bind fun d => some (.mxtryB32 g d)
  | 38 => chk (decide (r.d = 0) && decide (r.a = 0) && decide (r.b = 0) && decide (r.ws = 0)) <| some (.mxrelB32 g)
  | 39 => chk (decide (r.d = 0) && decide (r.a = 0) && decide (r.b = 0) && decide (r.ws = 0)) <| some (.mxwaitB32 g)
  | 40 => chk (decide (r.d = 0) && decide (r.a = 0) && decide (r.b = 0) && decide (r.ws = 0)) <| some (.zaccSB32 g)
  | 41 => chk (decide (r.d = 0) && decide (r.a = 0) && decide (r.b = 0) && decide (r.ws = 0)) <| some (.zaccEB32 g)
  | 48 => chk (decide (r.b = 0) && decide (r.ws = 0)) <| (SReg.dec r.d).bind fun d => (Spr.dec r.a).bind fun a => some (.srdB32 g d a)
  | 49 => chk (decide (r.b = 0) && decide (r.ws = 0)) <| (Spr.dec r.d).bind fun d => (SReg.dec r.a).bind fun a => some (.swrB32 g d a)
  | 50 => chk (decide (r.d = 0) && decide (r.b = 0) && decide (r.ws = 0)) <| (SReg.dec r.a).bind fun a => some (.trapB32 g a)
  | 51 => chk (decide (r.d = 0) && decide (r.b = 0) && decide (r.ws = 0)) <| (SReg.dec r.a).bind fun a => some (.brkB32 g a)
  | 52 => chk (decide (r.d = 0) && decide (r.a = 0) && decide (r.b = 0) && decide (r.ws = 0)) <| some (.barB32 g)
  | 53 => chk (decide (r.d = 0) && decide (r.a = 0) && decide (r.b = 0) && decide (r.ws = 0)) <| some (.tkwaitB32 g)
  | 54 => chk (decide (r.d = 0) && decide (r.a = 0) && decide (r.b = 0) && decide (r.ws = 0)) <| some (.tkpassB32 g)
  | 55 => chk (decide (r.b = 0) && decide (r.ws = 0)) <| (SReg.dec r.d).bind fun d => (SReg.dec r.a).bind fun a => some (.ccwaitB32 g d a)
  | _ => none

/-- The uniform set's XOP map, X64 form (Table 2.13). -/
noncomputable def decX64U (g : Pred) (r : Raw) : Option Instr :=
  match r.xop with
  | 0 => chk (decide (r.ws = 0) && decide (r.c = 0) && decide (r.rm = 0) && decide (r.fl &&& 62 = 0)) <| (SReg.dec r.d).bind fun d => (SReg.dec r.a).bind fun a => (SReg.dec r.b).bind fun b => (Ty.dec r.ty).bind fun ty => (some (r.fl.testBit 0)).bind fun sat => some (.saddX64 g d a b ty sat)
  | 1 => chk (decide (r.ws = 0) && decide (r.c = 0) && decide (r.rm = 0) && decide (r.fl &&& 62 = 0)) <| (SReg.dec r.d).bind fun d => (SReg.dec r.a).bind fun a => (SReg.dec r.b).bind fun b => (Ty.dec r.ty).bind fun ty => (some (r.fl.testBit 0)).bind fun sat => some (.ssubX64 g d a b ty sat)
  | 2 => chk (decide (r.ws = 0) && decide (r.c = 0) && decide (r.rm = 0) && decide (r.fl &&& 63 = 0)) <| (SReg.dec r.d).bind fun d => (SReg.dec r.a).bind fun a => (SReg.dec r.b).bind fun b => (Ty.dec r.ty).bind fun ty => some (.smulX64 g d a b ty)
  | 3 => chk (decide (r.ws = 0) && decide (r.rm = 0) && decide (r.fl &&& 63 = 0)) <| (SReg.dec r.d).bind fun d => (SReg.dec r.a).bind fun a => (SReg.dec r.b).bind fun b => (SReg.dec r.c).bind fun c => (Ty.dec r.ty).bind fun ty => some (.smad g d a b c ty)
  | 4 => chk (decide (r.ws = 0) && decide (r.c = 0) && decide (r.rm = 0) && decide (r.fl &&& 63 = 0)) <| (SReg.dec r.d).bind fun d => (SReg.dec r.a).bind fun a => (SReg.dec r.b).bind fun b => (Ty.dec r.ty).bind fun ty => some (.sadd64X64 g d a b ty)
  | 5 => chk (decide (r.ws = 0) && decide (r.c = 0) && decide (r.rm = 0) && decide (r.fl &&& 56 = 0)) <| (SReg.dec r.d).bind fun d => (SReg.dec r.a).bind fun a => (SReg.dec r.b).bind fun b => (Ty.dec r.ty).bind fun ty => (decFin 8 (r.fl % 8)).bind fun sh => some (.sleaX64 g d a b ty sh)
  | 6 => chk (decide (r.ws = 0) && decide (r.c = 0) && decide (r.rm = 0) && decide (r.fl &&& 62 = 0)) <| (SReg.dec r.d).bind fun d => (SReg.dec r.a).bind fun a => (SReg.dec r.b).bind fun b => (Ty.dec r.ty).bind fun ty => (some (r.fl.testBit 0)).bind fun wrap => some (.sshlX64 g d a b ty wrap)
  | 7 => chk (decide (r.ws = 0) && decide (r.c = 0) && decide (r.rm = 0) && decide (r.fl &&& 62 = 0)) <| (SReg.dec r.d).bind fun d => (SReg.dec r.a).bind fun a => (SReg.dec r.b).bind fun b => (Ty.dec r.ty).bind fun ty => (some (r.fl.testBit 0)).bind fun wrap => some (.sshrX64 g d a b ty wrap)
  | 8 => chk (decide (r.ws = 0) && decide (r.c = 0) && decide (r.rm = 0) && decide (r.fl &&& 63 = 0)) <| (SReg.dec r.d).bind fun d => (SReg.dec r.a).bind fun a => (SReg.dec r.b).bind fun b => (Ty.dec r.ty).bind fun ty => some (.sandX64 g d a b ty)
  | 9 => chk (decide (r.ws = 0) && decide (r.c = 0) && decide (r.rm = 0) && decide (r.fl &&& 63 = 0)) <| (SReg.dec r.d).bind fun d => (SReg.dec r.a).bind fun a => (SReg.dec r.b).bind fun b => (Ty.dec r.ty).bind fun ty => some (.sorX64 g d a b ty)
  | 10 => chk (decide (r.ws = 0) && decide (r.c = 0) && decide (r.rm = 0) && decide (r.fl &&& 63 = 0)) <| (SReg.dec r.d).bind fun d => (SReg.dec r.a).bind fun a => (SReg.dec r.b).bind fun b => (Ty.dec r.ty).bind fun ty => some (.sxorX64 g d a b ty)
  | 11 => chk (decide (r.ws = 0) && decide (r.c = 0) && decide (r.rm = 0) && decide (r.fl &&& 63 = 0)) <| (SReg.dec r.d).bind fun d => (SReg.dec r.a).bind fun a => (SReg.dec r.b).bind fun b => (Ty.dec r.ty).bind fun ty => some (.sminX64 g d a b ty)
  | 12 => chk (decide (r.ws = 0) && decide (r.c = 0) && decide (r.rm = 0) && decide (r.fl &&& 63 = 0)) <| (SReg.dec r.d).bind fun d => (SReg.dec r.a).bind fun a => (SReg.dec r.b).bind fun b => (Ty.dec r.ty).bind fun ty => some (.smaxX64 g d a b ty)
  | 13 => chk (decide (r.ws = 0) && decide (r.rm = 0) && decide (r.fl &&& 32 = 0)) <| (decFin 7 r.d).bind fun d => (SReg.dec r.a).bind fun a => (SReg.dec r.b).bind fun b => (Ty.dec r.ty).bind fun ty => (Cond.dec (r.fl % 8)).bind fun cond => (Combine.dec (r.fl / 8 % 4) r.c).bind fun comb => some (.scmp g d a b ty cond comb)
  | 14 => chk (decide (r.ws = 0) && decide (r.rm = 0) && decide (r.fl &&& 62 = 0)) <| (SReg.dec r.d).bind fun d => (SReg.dec r.a).bind fun a => (SReg.dec r.b).bind fun b => (Pred.dec r.c).bind fun c => (Ty.dec r.ty).bind fun ty => (some (r.fl.testBit 0)).bind fun neg => some (.ssel g d a b c ty neg)
  | 15 => chk (decide (r.b = 0) && decide (r.ws = 0) && decide (r.c = 0) && decide (r.rm = 0) && decide (r.fl &&& 63 = 0)) <| (SReg.dec r.d).bind fun d => (SReg.dec r.a).bind fun a => (Ty.dec r.ty).bind fun ty => some (.smovX64 g d a ty)
  | 16 => chk (decide (r.b = 0) && decide (r.ws = 0) && decide (r.c = 0) && decide (r.rm = 0) && decide (r.fl &&& 63 = 0)) <| (SReg.dec r.d).bind fun d => (SReg.dec r.a).bind fun a => (Ty.dec r.ty).bind fun ty => some (.spopcX64 g d a ty)
  | 17 => chk (decide (r.ws = 0) && decide (r.c = 0) && decide (r.rm = 0) && decide (r.fl &&& 63 = 0)) <| (SReg.dec r.d).bind fun d => (Reg.dec r.a).bind fun a => (SReg.dec r.b).bind fun b => (Ty.dec r.ty).bind fun ty => some (.lanerdX64 g d a b ty)
  | 18 => chk (decide (r.ws = 0) && decide (r.c = 0) && decide (r.rm = 0) && decide (r.fl &&& 63 = 0)) <| (LReg.dec r.d).bind fun d => (SReg.dec r.a).bind fun a => (SReg.dec r.b).bind fun b => (Ty.dec r.ty).bind fun ty => some (.lanewrX64 g d a b ty)
  | 260 => chk (decide (r.b = 0) && decide (r.ws = 0) && decide (r.c = 0) && decide (r.ty = 0) && decide (r.rm = 0) && decide (r.fl &&& 62 = 0)) <| (SReg.dec r.d).bind fun d => (SReg.dec r.a).bind fun a => (some (r.fl.testBit 0)).bind fun all => some (.pwaitX64 g d a all)
  | 261 => chk (decide (r.b = 0) && decide (r.ws = 0) && decide (r.c = 0) && decide (r.ty = 0) && decide (r.rm = 0) && decide (r.fl &&& 63 = 0)) <| (SReg.dec r.d).bind fun d => (SReg.dec r.a).bind fun a => some (.pfindX64 g d a)
  | 262 => chk (decide (r.d = 0) && decide (r.b = 0) && decide (r.ws = 0) && decide (r.c = 0) && decide (r.ty = 0) && decide (r.rm = 0) && decide (r.fl &&& 63 = 0)) <| (SReg.dec r.a).bind fun a => some (.pclrX64 g a)
  | 263 => chk (decide (r.b = 0) && decide (r.ws = 0) && decide (r.c = 0) && decide (r.ty = 0) && decide (r.rm = 0) && decide (r.fl &&& 63 = 0)) <| (SReg.dec r.d).bind fun d => (decFin 64 r.a).bind fun t => some (.pstat g d t)
  | 272 => chk (decide (r.d = 0) && decide (r.a = 0) && decide (r.b = 0) && decide (r.ws = 0) && decide (r.c = 0) && decide (r.modv = 0)) <| some (.mxacqX64 g)
  | 273 => chk (decide (r.a = 0) && decide (r.b = 0) && decide (r.ws = 0) && decide (r.c = 0) && decide (r.modv = 0)) <| (decFin 7 r.d).bind fun d => some (.mxtryX64 g d)
  | 274 => chk (decide (r.d = 0) && decide (r.a = 0) && decide (r.b = 0) && decide (r.ws = 0) && decide (r.c = 0) && decide (r.modv = 0)) <| some (.mxrelX64 g)
  | 275 => chk (decide (r.d = 0) && decide (r.ws = 0) && decide (r.rm = 0) && decide (r.fl &&& 48 = 0)) <| (SReg.dec r.a).bind fun a => (SReg.dec r.b).bind fun b => (SReg.decOpt r.c).bind fun c => (Ty.dec r.ty).bind fun ty => (some (r.fl.testBit 0)).bind fun w => (some (r.fl.testBit 1)).bind fun ab => (some (r.fl.testBit 2)).bind fun kc => (some (r.fl.testBit 3)).bind fun af => some (.stld g a b c ty w ab kc af)
  | 276 => chk (decide (r.d = 0) && decide (r.ws = 0) && decide (r.c = 0) && decide (r.rm = 0) && decide (r.fl &&& 60 = 0)) <| (SReg.dec r.a).bind fun a => (SReg.dec r.b).bind fun b => (Ty.dec r.ty).bind fun ty => (some (r.fl.testBit 0)).bind fun east => (some (r.fl.testBit 1)).bind fun z => some (.drain g a b ty east z)
  | 277 => chk (decide (r.d = 0) && decide (r.a = 0) && decide (r.b = 0) && decide (r.ws = 0) && decide (r.c = 0) && decide (r.ty = 0) && decide (r.rm = 0) && decide (r.fl &&& 62 = 0)) <| (some (r.fl.testBit 0)).bind fun east => some (.zaccX64 g east)
  | 278 => chk (decide (r.d = 0) && decide (r.a = 0) && decide (r.b = 0) && decide (r.ws = 0) && decide (r.c = 0) && decide (r.modv = 0)) <| some (.mxwaitX64 g)
  | 289 => chk (decide (r.d = 0) && decide (r.ws = 0) && decide (r.modv = 0)) <| (SReg.dec r.a).bind fun a => (SReg.dec r.b).bind fun b => (SReg.dec r.c).bind fun c => some (.rfit g a b c)
  | 290 => chk (decide (r.ws = 0) && decide (r.c = 0) && decide (r.modv = 0)) <| (SReg.dec r.d).bind fun d => (SReg.dec r.a).bind fun a => (SReg.dec r.b).bind fun b => some (.rgnq g d a b)
  | 512 => chk (decide (r.b = 0) && decide (r.ws = 0) && decide (r.c = 0) && decide (r.modv = 0)) <| (SReg.dec r.d).bind fun d => (Spr.dec r.a).bind fun a => some (.srdX64 g d a)
  | 513 => chk (decide (r.b = 0) && decide (r.ws = 0) && decide (r.c = 0) && decide (r.modv = 0)) <| (Spr.dec r.d).bind fun d => (SReg.dec r.a).bind fun a => some (.swrX64 g d a)
  | 514 => chk (decide (r.d = 0) && decide (r.b = 0) && decide (r.ws = 0) && decide (r.c = 0) && decide (r.modv = 0)) <| (SReg.dec r.a).bind fun a => some (.trapX64 g a)
  | 515 => chk (decide (r.d = 0) && decide (r.b = 0) && decide (r.ws = 0) && decide (r.c = 0) && decide (r.modv = 0)) <| (SReg.dec r.a).bind fun a => some (.brkX64 g a)
  | 516 => chk (decide (r.ws = 0) && decide (r.c = 0) && decide (r.modv = 0)) <| (SReg.dec r.d).bind fun d => (SReg.dec r.a).bind fun a => (SReg.dec r.b).bind fun b => some (.twrd g d a b)
  | 517 => chk (decide (r.d = 0) && decide (r.ws = 0) && decide (r.modv = 0)) <| (SReg.dec r.a).bind fun a => (SReg.dec r.b).bind fun b => (SReg.dec r.c).bind fun c => some (.twwr g a b c)
  | 518 => chk (decide (r.d = 0) && decide (r.a = 0) && decide (r.b = 0) && decide (r.ws = 0) && decide (r.c = 0) && decide (r.modv = 0)) <| some (.tres g)
  | 519 => chk (decide (r.d = 0) && decide (r.a = 0) && decide (r.b = 0) && decide (r.ws = 0) && decide (r.c = 0) && decide (r.modv = 0)) <| some (.tkill g)
  | 520 => chk (decide (r.ws = 0) && decide (r.c = 0) && decide (r.modv = 0)) <| (SReg.dec r.d).bind fun d => (SReg.dec r.a).bind fun a => (SReg.dec r.b).bind fun b => some (.launch g d a b)
  | 521 => chk (decide (r.d = 0) && decide (r.a = 0) && decide (r.b = 0) && decide (r.ws = 0) && decide (r.c = 0) && decide (r.modv = 0)) <| some (.barX64 g)
  | 522 => chk (decide (r.b = 0) && decide (r.ws = 0) && decide (r.c = 0) && decide (r.modv = 0)) <| (SReg.dec r.d).bind fun d => (SReg.dec r.a).bind fun a => some (.ccwaitX64 g d a)
  | 523 => chk (decide (r.d = 0) && decide (r.a = 0) && decide (r.b = 0) && decide (r.ws = 0) && decide (r.c = 0) && decide (r.modv = 0)) <| some (.tkwaitX64 g)
  | 524 => chk (decide (r.d = 0) && decide (r.a = 0) && decide (r.b = 0) && decide (r.ws = 0) && decide (r.c = 0) && decide (r.modv = 0)) <| some (.tkpassX64 g)
  | _ => none

/-- The uniform set's XOP map, X96 form (Table 2.13). -/
noncomputable def decX96U (g : Pred) (r : Raw) : Option Instr :=
  match r.xop with
  | 256 => chk (decide (r.ws = 0) && decide (r.modv = 0) && decide (r.w3 &&& 4294967280 = 0)) <| (decFin 64 r.d).bind fun t => (SReg.dec r.a).bind fun a => (SReg.dec r.b).bind fun b => (SReg.dec r.c).bind fun c => (CpySpace.dec (r.w3 / 1 % 4)).bind fun ds => (CpySpace.dec (r.w3 / 4 % 4)).bind fun ss => some (.cpy g t a b c ds ss)
  | 257 => chk (decide (r.ws = 0) && decide (r.modv = 0) && decide (r.w3 &&& 4294967232 = 0)) <| (decFin 64 r.d).bind fun t => (SReg.dec r.a).bind fun a => (SReg.dec r.b).bind fun b => (decSBase r.c).bind fun c => (CpySpace.dec (r.w3 / 1 % 4)).bind fun ds => (CpySpace.dec (r.w3 / 4 % 4)).bind fun ss => (CpyTr.dec (r.w3 / 16 % 4)).bind fun tr => some (.cpy2 g t a b c ds ss tr)
  | 258 => chk (decide (r.ws = 0) && decide (r.modv = 0) && decide (r.w3 &&& 4294967292 = 0)) <| (decFin 64 r.d).bind fun t => (SReg.dec r.a).bind fun a => (SReg.dec r.b).bind fun b => (SReg.dec r.c).bind fun c => (some (r.w3.testBit 0)).bind fun inn => (some (r.w3.testBit 1)).bind fun abin => some (.cpyh g t a b c inn abin)
  | 259 => chk (decide (r.ws = 0) && decide (r.modv = 0) && decide (r.w3 &&& 4294967294 = 0)) <| (Pfl2Args.dec r.w3 r.d r.b).bind fun x => (SReg.dec r.a).bind fun a => (SReg.dec r.c).bind fun c => some (.pfl2 g x a c)
  | 288 => chk (decide (r.d = 0) && decide (r.ws = 0) && decide (r.modv = 0)) <| (SReg.dec r.a).bind fun a => (SReg.dec r.b).bind fun b => (SReg.dec r.c).bind fun c => (some (BitVec.ofNat 32 r.w3)).bind fun pitch => some (.rgnb g a b c pitch)
  | 304 => chk (decide (r.ws = 0) && decide (r.modv = 0) && decide (r.w3 &&& 4294443008 = 0)) <| (decFin 64 r.d).bind fun t => (SReg.dec r.a).bind fun a => (SReg.dec r.b).bind fun b => (SReg.dec r.c).bind fun c => (Ty.dec (r.w3 / 16384 % 32)).bind fun ty => (CollOp.dec (r.w3 / 1024 % 16)).bind fun op => (CollKind.dec (r.w3 / 256 % 4)).bind fun kind => (decFin 256 (r.w3 % 256)).bind fun grp => some (.coll g t a b c ty op kind grp)
  | _ => none

/-- The uniform set's IOP map (Table 2.15). -/
noncomputable def decI64U (g : Pred) (r : Raw) : Option Instr :=
  match r.b with
  | 0 => chk (decide (r.a = 0) && decide (r.ws = 0)) <| (SReg.dec r.d).bind fun d => (some (BitVec.ofNat 32 r.w2)).bind fun imm => some (.smovi g d imm)
  | 1 => chk (decide (r.ws = 0)) <| (SReg.dec r.d).bind fun d => (SReg.dec r.a).bind fun a => (some (BitVec.ofNat 32 r.w2)).bind fun imm => some (.saddI64 g d a imm)
  | 2 => chk (decide (r.ws = 0)) <| (SReg.dec r.d).bind fun d => (SReg.dec r.a).bind fun a => (some (BitVec.ofNat 32 r.w2)).bind fun imm => some (.smulI64 g d a imm)
  | 3 => chk (decide (r.ws = 0)) <| (SReg.dec r.d).bind fun d => (SReg.dec r.a).bind fun a => (some (BitVec.ofNat 32 r.w2)).bind fun imm => some (.sandI64 g d a imm)
  | 4 => chk (decide (r.ws = 0)) <| (SReg.dec r.d).bind fun d => (SReg.dec r.a).bind fun a => (some (BitVec.ofNat 32 r.w2)).bind fun imm => some (.sorI64 g d a imm)
  | 5 => chk (decide (r.ws = 0)) <| (SReg.dec r.d).bind fun d => (SReg.dec r.a).bind fun a => (some (BitVec.ofNat 32 r.w2)).bind fun imm => some (.sxorI64 g d a imm)
  | 6 => chk (decide (r.ws = 0)) <| (SReg.dec r.d).bind fun d => (SReg.dec r.a).bind fun a => (decFin 32 r.w2).bind fun n => some (.sshlI64 g d a n)
  | 7 => chk (decide (r.ws = 0)) <| (SReg.dec r.d).bind fun d => (SReg.dec r.a).bind fun a => (some (if r.b = 7 then .z32 else .s32)).bind fun ty => (decFin 32 r.w2).bind fun n => some (.sshrI64 g d a ty n)
  | 8 => chk (decide (r.ws = 0)) <| (SReg.dec r.d).bind fun d => (SReg.dec r.a).bind fun a => (some (if r.b = 7 then .z32 else .s32)).bind fun ty => (decFin 32 r.w2).bind fun n => some (.sshrI64 g d a ty n)
  | 9 => chk (decide (r.ws = 0)) <| (SReg.dec r.d).bind fun d => (SReg.dec r.a).bind fun a => (some (BitVec.ofNat 32 r.w2)).bind fun imm => some (.sminI64 g d a imm)
  | 10 => chk (decide (r.ws = 0)) <| (SReg.dec r.d).bind fun d => (SReg.dec r.a).bind fun a => (some (BitVec.ofNat 32 r.w2)).bind fun imm => some (.smaxI64 g d a imm)
  | 11 => chk (decide (r.ws = 0)) <| (SReg.dec r.d).bind fun d => (SReg.dec r.a).bind fun a => (some (BitVec.ofNat 32 r.w2)).bind fun imm => some (.sleaI64 g d a imm)
  | _ => none

/-- The atomic operations, MOP 8 to 36 (Table 2.9). -/
noncomputable def decM64A (g : Pred) (r : Raw) : Option Instr :=
  if 8 ≤ r.mop ∧ r.mop ≤ 20 ∧ r.space = 1 then chk (decide (r.ws = 0)) <| (AtomOp.dec (r.mop - 8)).bind fun op => (LReg.dec r.d).bind fun d => (Reg.dec r.a).bind fun a => (Reg.dec r.b).bind fun b => (Size.dec r.size).bind fun size => (Scope.dec r.scope).bind fun scope => (Order.dec r.order).bind fun order => (some (BitVec.ofNat 15 r.off)).bind fun off => some (.aatom g op d a b size scope order off) else
  if 8 ≤ r.mop ∧ r.mop ≤ 20 ∧ (r.space = 0 ∨ r.space = 4) then chk (decide (r.ws = 0)) <| (AtomOp.dec (r.mop - 8)).bind fun op => (LReg.dec r.d).bind fun d => (Reg.dec r.a).bind fun a => (Reg.dec r.b).bind fun b => (Size.dec r.size).bind fun size => (Scope.dec r.scope).bind fun scope => (Order.dec r.order).bind fun order => (GOff.dec r.space r.off).bind fun off => some (.atom g op d a b size scope order off) else
  if r.mop = 21 ∧ (r.space = 0 ∨ r.space = 4) then chk (decide (r.ws = 0)) <| (LReg.dec r.d).bind fun d => (Reg.dec r.a).bind fun a => (Reg.dec r.b).bind fun b => (Size.dec r.size).bind fun size => (Scope.dec r.scope).bind fun scope => (Order.dec r.order).bind fun order => (GOff.dec r.space r.off).bind fun off => some (.cas g d a b size scope order off) else
  if 24 ≤ r.mop ∧ r.mop ≤ 36 ∧ r.mop ≠ 33 ∧ (r.space = 0 ∨ r.space = 4) then chk (decide (r.d = 0) && decide (r.ws = 0)) <| (AtomOp.dec (r.mop - 24)).bind fun op => (Reg.dec r.a).bind fun a => (Reg.dec r.b).bind fun b => (Size.dec r.size).bind fun size => (Scope.dec r.scope).bind fun scope => (decFlagAt 2 r.order).bind fun rel => (GOff.dec r.space r.off).bind fun off => some (.red g op a b size scope rel off) else
  if r.mop = 22 ∧ (r.space = 0 ∨ r.space = 4) then chk (decide (r.ws = 0)) <| (LReg.dec r.d).bind fun d => (Reg.dec r.a).bind fun a => (Reg.dec r.b).bind fun b => (Size.dec r.size).bind fun size => (Scope.dec r.scope).bind fun scope => (decFlagAt 1 r.order).bind fun acq => (GOff.dec r.space r.off).bind fun off => some (.waita g d a b size scope acq off) else
  if r.mop = 23 ∧ (r.space = 0 ∨ r.space = 4) then chk (decide (r.ws = 0) && decide (r.size = 2) && decide (r.scope = 0) && decide (r.order = 0)) <| (LReg.dec r.d).bind fun d => (Reg.dec r.a).bind fun a => (Reg.dec r.b).bind fun b => (GOff.dec r.space r.off).bind fun off => some (.wake g d a b off) else
  none

/-- The lane set's memory operations (Table 2.9). -/
noncomputable def decM64L (g : Pred) (r : Raw) : Option Instr :=
  if 8 ≤ r.mop ∧ r.mop ≤ 36 then decM64A g r else match r.mop, r.space with
  | 0, 0 => chk (decide (r.b = 0) && decide (r.ws = 0)) <| (LReg.dec r.d).bind fun d => (Reg.dec r.a).bind fun a => (Size.dec r.size).bind fun size => (Scope.dec r.scope).bind fun scope => (decFlagAt 1 r.order).bind fun acq => (some (BitVec.ofNat 15 r.off)).bind fun off => some (.ldg g d a size scope acq off)
  | 1, 0 => chk (decide (r.b = 0) && decide (r.ws = 0)) <| (LReg.dec r.d).bind fun d => (Reg.dec r.a).bind fun a => (Size.dec r.size).bind fun size => (Scope.dec r.scope).bind fun scope => (decFlagAt 1 r.order).bind fun acq => (some (BitVec.ofNat 15 r.off)).bind fun off => some (.ldgSigned g d a size scope acq off)
  | 2, 0 => chk (decide (r.d = 0) && decide (r.ws = 0)) <| (Reg.dec r.a).bind fun a => (Reg.dec r.b).bind fun b => (Size.dec r.size).bind fun size => (Scope.dec r.scope).bind fun scope => (decFlagAt 2 r.order).bind fun rel => (some (BitVec.ofNat 15 r.off)).bind fun off => some (.stg g a b size scope rel off)
  | 0, 1 => chk (decide (r.b = 0) && decide (r.ws = 0) && decide (r.scope = 0) && decide (r.order = 0)) <| (LReg.dec r.d).bind fun d => (Reg.dec r.a).bind fun a => (Size.dec r.size).bind fun size => (some (BitVec.ofNat 15 r.off)).bind fun off => some (.lda g d a size off)
  | 1, 1 => chk (decide (r.b = 0) && decide (r.ws = 0) && decide (r.scope = 0) && decide (r.order = 0)) <| (LReg.dec r.d).bind fun d => (Reg.dec r.a).bind fun a => (Size.dec r.size).bind fun size => (some (BitVec.ofNat 15 r.off)).bind fun off => some (.ldaSigned g d a size off)
  | 2, 1 => chk (decide (r.d = 0) && decide (r.ws = 0) && decide (r.scope = 0) && decide (r.order = 0)) <| (Reg.dec r.a).bind fun a => (Reg.dec r.b).bind fun b => (Size.dec r.size).bind fun size => (some (BitVec.ofNat 15 r.off)).bind fun off => some (.sta g a b size off)
  | 0, 2 => chk (decide (r.b = 0) && decide (r.ws = 0) && decide (r.scope = 0) && decide (r.order = 0)) <| (LReg.dec r.d).bind fun d => (Reg.dec r.a).bind fun a => (Size.dec r.size).bind fun size => (some (BitVec.ofNat 15 r.off)).bind fun off => some (.ldw g d a size off)
  | 1, 2 => chk (decide (r.b = 0) && decide (r.ws = 0) && decide (r.scope = 0) && decide (r.order = 0)) <| (LReg.dec r.d).bind fun d => (Reg.dec r.a).bind fun a => (Size.dec r.size).bind fun size => (some (BitVec.ofNat 15 r.off)).bind fun off => some (.ldwSigned g d a size off)
  | 2, 2 => chk (decide (r.d = 0) && decide (r.ws = 0) && decide (r.scope = 0) && decide (r.order = 0)) <| (Reg.dec r.a).bind fun a => (Reg.dec r.b).bind fun b => (Size.dec r.size).bind fun size => (some (BitVec.ofNat 15 r.off)).bind fun off => some (.stw g a b size off)
  | 0, 3 => chk (decide (r.b = 0) && decide (r.ws = 0) && decide (r.scope = 0) && decide (r.order = 0)) <| (LReg.dec r.d).bind fun d => (Reg.dec r.a).bind fun a => (Size.dec r.size).bind fun size => (some (BitVec.ofNat 15 r.off)).bind fun off => some (.ldc g d a size off)
  | 1, 3 => chk (decide (r.b = 0) && decide (r.ws = 0) && decide (r.scope = 0) && decide (r.order = 0)) <| (LReg.dec r.d).bind fun d => (Reg.dec r.a).bind fun a => (Size.dec r.size).bind fun size => (some (BitVec.ofNat 15 r.off)).bind fun off => some (.ldcSigned g d a size off)
  | 2, 3 => chk (decide (r.d = 0) && decide (r.ws = 0) && decide (r.scope = 0) && decide (r.order = 0)) <| (Reg.dec r.a).bind fun a => (Reg.dec r.b).bind fun b => (Size.dec r.size).bind fun size => (some (BitVec.ofNat 15 r.off)).bind fun off => some (.stc g a b size off)
  | 3, 0 => chk (decide (r.d = 0) && decide (r.ws = 0) && decide (r.size = 0) && decide (r.order = 0)) <| (Reg.dec r.a).bind fun a => (Reg.dec r.b).bind fun b => (Scope.dec r.scope).bind fun scope => (some (BitVec.ofNat 15 r.off)).bind fun off => some (.invr g a b scope off)
  | 4, 0 => chk (decide (r.d = 0) && decide (r.a = 0) && decide (r.b = 0) && decide (r.ws = 0) && decide (r.size = 0) && decide (r.order = 0) && decide (r.off = 0)) <| (Scope.dec r.scope).bind fun scope => some (.inva g scope)
  | 5, 0 => chk (decide (r.d = 0) && decide (r.ws = 0) && decide (r.size = 0) && decide (r.scope = 0) && decide (r.order = 0)) <| (Reg.dec r.a).bind fun a => (Reg.dec r.b).bind fun b => (some (BitVec.ofNat 15 r.off)).bind fun off => some (.phbeg g a b off)
  | 6, 0 => chk (decide (r.d = 0) && decide (r.ws = 0) && decide (r.size = 0) && decide (r.scope = 0) && decide (r.order = 0)) <| (Reg.dec r.a).bind fun a => (Reg.dec r.b).bind fun b => (some (BitVec.ofNat 15 r.off)).bind fun off => some (.phend g a b off)
  | 7, 0 => chk (decide (r.d = 0) && decide (r.ws = 0) && decide (r.size = 0) && decide (r.scope = 0) && decide (r.order = 0)) <| (Reg.dec r.a).bind fun a => (Reg.dec r.b).bind fun b => (some (BitVec.ofNat 15 r.off)).bind fun off => some (.pfl1 g a b off)
  | 37, 0 => chk (decide (r.d = 0) && decide (r.a = 0) && decide (r.b = 0) && decide (r.ws = 0) && decide (r.size = 0) && decide (r.off = 0)) <| (Order.dec r.order).bind fun order => (Scope.dec r.scope).bind fun scope => some (.fence g order scope)
  | 0, 4 => chk (decide (r.b = 0) && decide (r.ws = 0) && decide (r.size = 2) && decide (r.scope = 0) && decide (r.order = 0)) <| (LReg.dec r.d).bind fun d => (Reg.dec r.a).bind fun a => (decHandle r.off).bind fun hnd => (some (r.off.testBit 0)).bind fun trap => some (.fld g d a hnd trap)
  | 2, 4 => chk (decide (r.d = 0) && decide (r.ws = 0) && decide (r.size = 2) && decide (r.scope = 0) && decide (r.order = 0) && decide (r.off % 2 = 0)) <| (Reg.dec r.a).bind fun a => (Reg.dec r.b).bind fun b => (decHandle r.off).bind fun hnd => some (.fst g a b hnd)
  | _, _ => none

/-- The uniform set's memory operations (Table 2.9). -/
def decM64U (g : Pred) (r : Raw) : Option Instr :=
  if r.mop ≤ 1 ∧ r.space = 0 then chk (decide (r.b = 0) && decide (r.ws = 0)) <| (decBool r.mop).bind fun sx => (SReg.dec r.d).bind fun d => (SReg.dec r.a).bind fun a => (Size.dec r.size).bind fun size => (Scope.dec r.scope).bind fun scope => (decFlagAt 1 r.order).bind fun acq => (some (BitVec.ofNat 15 r.off)).bind fun off => some (.ldgU g sx d a size scope acq off)
  else match r.mop, r.space with
  | 2, 0 => chk (decide (r.d = 0) && decide (r.ws = 0)) <| (SReg.dec r.a).bind fun a => (SReg.dec r.b).bind fun b => (Size.dec r.size).bind fun size => (Scope.dec r.scope).bind fun scope => (decFlagAt 2 r.order).bind fun rel => (some (BitVec.ofNat 15 r.off)).bind fun off => some (.stgU g a b size scope rel off)
  | _, _ => none

/-- The instruction that the fields spell (R37 to R46). -/
noncomputable def Raw.toInstr (r : Raw) : Option Instr :=
  let g := Pred.decG r.g
  let i : Option Instr :=
    if r.set = 0 then
      (if r.op < 0x38 then decB32L g r else if r.op = 0x38 then decX64L g r else if r.op = 0x39 then decI64L g r
        else if r.op = 0x3a then decM64L g r else if r.op = 0x3b then decX96L g r else none)
    else
      (if r.op < 0x38 then decB32U g r else if r.op = 0x38 then decX64U g r else if r.op = 0x39 then decI64U g r
        else if r.op = 0x3a then (if r.ws = 0 then decM64U g r else none) else if r.op = 0x3b then decX96U g r else none)
  i.bind fun i => if i.wf then some i else none

/-- Decodes words, the first at the lowest address; words past the instruction's length are not looked at. -/
noncomputable def decode (ws : List Word) : Decoded :=
  match ws with
  | [] => .illegal .truncated
  | w1 :: rest =>
    match opLength (opOf w1), rest with
    | none, _ => .illegal .reservedOp
    | some 4, _ => fin (Raw.ofWords w1.toNat 0 0)
    | some 8, w2 :: _ => fin (Raw.ofWords w1.toNat w2.toNat 0)
    | some 12, w2 :: w3 :: _ => fin (Raw.ofWords w1.toNat w2.toNat w3.toNat)
    | _, _ => .illegal .truncated
where
  fin (r : Raw) : Decoded :=
    match r.toInstr with
    | some i => .ok i
    | none => .illegal .encoding

/-- Decodes bytes in address order (R27: words are little-endian). -/
noncomputable def decodeBytes (bs : List Byte) : Decoded := decode (wordsOfBytes bs)

/-- The bytes of a number, at most `n` of them. -/
def tableBytes (w : Nat) : List Byte := bytesOf 12 w

/-- The instruction read from `nbits` bits `w`, numbered from the least significant bit of the first word; every
bit above `nbits` is 0. -/
noncomputable def decodeTableWord (nbits w : Nat) : Option Instr :=
  match decodeBytes (tableBytes (w % 2 ^ nbits)) with
  | .ok i => some i
  | .illegal _ => none

/- The encoder: field codes, then the words. -/

def Reg.code : Reg → Nat
  | .v n => n.val | .s n => 96 + n.val | .z => 120 | .li => 121 | .b n => 124 + n.val
def SReg.code : SReg → Nat
  | .s n => 96 + n.val | .z => 120
def SReg.codeOpt : Option SReg → Nat
  | none => 0 | some r => r.code
def Dst.code : Dst → Nat
  | .v n => n.val | .z => 120 | .latch => 0
def Dst.wsBit : Dst → Nat
  | .latch => 1 | _ => 0
def Pred.code : Pred → Nat
  | .p n => n.val | .t => 7
def Ty.code : Ty → Nat
  | .s8 => 0 | .z8 => 1 | .s16 => 2 | .z16 => 3 | .s32 => 4 | .z32 => 5 | .s64 => 6 | .z64 => 7 | .f32 => 8 | .f16 => 9
  | .bf16 => 10 | .e4m3 => 11 | .e5m2 => 12 | .mxf8 => 13 | .mxf4 => 14 | .s4 => 15 | .spt8 => 16 | .e2m1 => 17
def RM.code : RM → Nat
  | .rn => 0 | .rz => 1 | .ru => 2 | .rd => 3
def Size.code : Size → Nat
  | .b8 => 0 | .b16 => 1 | .b32 => 2 | .b64 => 3 | .b128 => 4
def Scope.code : Scope → Nat
  | .sh => 0 | .st => 1 | .bn => 2 | .di => 3 | .pk => 4 | .sy => 5
def Order.code : Order → Nat
  | .plain => 0 | .acq => 1 | .rel => 2 | .ar => 3
def Cond.code : Cond → Nat
  | .eq => 0 | .ne => 1 | .lt => 2 | .le => 3 | .gt => 4 | .ge => 5
def FCond.code : FCond → Nat
  | .eq => 0 | .ne => 1 | .lt => 2 | .le => 3 | .gt => 4 | .ge => 5 | .num => 6 | .nan => 7
def Combine.code : Combine → Nat
  | .none => 0 | .and _ => 1 | .or _ => 2 | .xor _ => 3
def Combine.predNum : Combine → Nat
  | .none => 0 | .and p => p.code | .or p => p.code | .xor p => p.code
def XMode.code : XMode → Nat
  | .idx => 0 | .xor => 1 | .up => 2 | .dn => 3
def RedOp.code : RedOp → Nat
  | .add => 0 | .min => 1 | .max => 2 | .and => 3 | .or => 4 | .xor => 5
def PlogArgs.code : PlogArgs → Nat
  | .and .. => 0 | .or .. => 1 | .xor .. => 2 | .andn .. => 3 | .mov .. => 4 | .not .. => 5 | .pack _ => 6 | .unpack _ => 7
def PlogArgs.dNum : PlogArgs → Nat
  | .and d _ _ => d.val | .or d _ _ => d.val | .xor d _ _ => d.val | .andn d _ _ => d.val | .mov d _ => d.val
  | .not d _ => d.val | .pack d => d.code | .unpack _ => 0
def PlogArgs.wsBit : PlogArgs → Nat
  | .pack d => d.wsBit | _ => 0
def PlogArgs.aNum : PlogArgs → Nat
  | .and _ a _ => a.code | .or _ a _ => a.code | .xor _ a _ => a.code | .andn _ a _ => a.code | .mov _ a => a.code
  | .not _ a => a.code | .pack _ => 0 | .unpack a => a.code
def PlogArgs.bNum : PlogArgs → Nat
  | .and _ _ b => b.code | .or _ _ b => b.code | .xor _ _ b => b.code | .andn _ _ b => b.code | _ => 0
def VoteDst.code : VoteDst → Nat
  | .any _ => 0 | .all _ => 1 | .bal _ => 2
def VoteDst.dNum : VoteDst → Nat
  | .any d => d.val | .all d => d.val | .bal r => r.code
def MkLog.code : MkLog → Nat
  | .and .. => 0 | .or .. => 1 | .andn .. => 2 | .xor .. => 3 | .mov _ => 4 | .clr => 5 | .not _ => 6
def MkLog.aNum : MkLog → Nat
  | .and a _ => a.val | .or a _ => a.val | .andn a _ => a.val | .xor a _ => a.val | .mov a => a.val | .clr => 0 | .not a => a.val
def MkLog.bNum : MkLog → Nat
  | .and _ b => b.val | .or _ b => b.val | .andn _ b => b.val | .xor _ b => b.val | _ => 0
def AtomOp.code : AtomOp → Nat
  | .add => 0 | .sub => 1 | .minS => 2 | .maxS => 3 | .minZ => 4 | .maxZ => 5 | .and => 6 | .or => 7 | .xor => 8
  | .exch => 9 | .incw => 10 | .decw => 11 | .addF32 => 12
def GOff.space : GOff → Nat
  | .off _ => 0 | .fit _ => 4
def GOff.code : GOff → Nat
  | .off o => o.toNat | .fit h => (96 + h.val) * 256
def CpySpace.code : CpySpace → Nat
  | .glob => 0 | .abin => 1 | .wbin => 2 | .cbin => 3
def CpyTr.code : CpyTr → Nat
  | .none => 0 | .t2 => 1 | .t4 => 2
def Pfl2Args.code : Pfl2Args → Nat
  | .tag _ => 0 | .cc _ => 1
def Pfl2Args.dNum : Pfl2Args → Nat
  | .tag t => t.val | .cc _ => 0
def Pfl2Args.bNum : Pfl2Args → Nat
  | .tag _ => 0 | .cc b => b.code
def CollOp.code : CollOp → Nat
  | .add => 0 | .min => 1 | .max => 2 | .or => 3
def CollKind.code : CollKind → Nat
  | .red => 0 | .bc => 1 | .ar => 2
def Spr.code : Spr → Nat
  | .sheaf => 0x00 | .stookX => 0x01 | .stookY => 0x02 | .stookZ => 0x03 | .crop => 0x04 | .width => 0x05 | .role => 0x06
  | .core => 0x08 | .barn => 0x09 | .die => 0x0a | .ncore => 0x0b | .cycles => 0x10 | .pennants => 0x12
  | .chdepth => 0x14 | .binw => 0x18 | .bina => 0x19 | .binc => 0x1a | .ctx => 0x20 | .prio => 0x21
def optPNum : Option (Fin 7) → Nat
  | none => 0 | some p => p.val
/-- A flag at a bit. -/
def b2n (b : Bool) (k : Nat) : Nat := if b then 2 ^ k else 0

/-- A B32 word's fields. -/
def Raw.b32 (set op g ws d a b : Nat) : Raw := ⟨set, op, g, ws, d, a, b, 0, 0⟩
/-- A B32 word whose bits 21:0 are one field (BRA). -/
def Raw.b32Low (set op g low : Nat) : Raw :=
  ⟨set, op, g, low / 2097152 % 2, low / 16384 % 128, low / 128 % 128, low % 128, 0, 0⟩
/-- X64 and X96 (Table 2.5). -/
def Raw.x (set op g ws d a b xop c modv w3 : Nat) : Raw := ⟨set, op, g, ws, d, a, b, xop * 1048576 + c * 8192 + modv, w3⟩
/-- I64 (R38): the IOP is the B field. -/
def Raw.i64 (set g ws d a iop imm : Nat) : Raw := ⟨set, 0x39, g, ws, d, a, iop, imm, 0⟩
/-- M64 (Table 2.6). -/
def Raw.m64 (set g d a b mop space size scope order off : Nat) : Raw :=
  ⟨set, 0x3a, g, 0, d, a, b,
    mop * 67108864 + space * 8388608 + size * 1048576 + scope * 131072 + order * 32768 + off, 0⟩
/-- The first word. -/
def Raw.w1 (r : Raw) : Nat :=
  r.set * 2147483648 + r.op * 33554432 + r.g * 4194304 + r.ws * 2097152 + r.d * 16384 + r.a * 128 + r.b
/-- The words of the form that OP names (Table 2.1). -/
def Raw.words (r : Raw) : List Word :=
  if r.op < 0x38 then [BitVec.ofNat 32 r.w1]
  else if r.op < 0x3b then [BitVec.ofNat 32 r.w1, BitVec.ofNat 32 r.w2]
  else [BitVec.ofNat 32 r.w1, BitVec.ofNat 32 r.w2, BitVec.ofNat 32 r.w3]

/-- The fields of an instruction's words, from the same tables (02 R31 to R46). A step of another agent has no
words. -/
def Instr.raw : Instr → Option Raw
  | .iaddB32 g d a b => some (Raw.b32 0 1 g.code (d.wsBit) (d.code) (a.code) (b.code))
  | .isubB32 g d a b => some (Raw.b32 0 2 g.code (d.wsBit) (d.code) (a.code) (b.code))
  | .imulB32 g d a b => some (Raw.b32 0 3 g.code (d.wsBit) (d.code) (a.code) (b.code))
  | .imulhS32B32 g d a b => some (Raw.b32 0 4 g.code (d.wsBit) (d.code) (a.code) (b.code))
  | .imulhZ32B32 g d a b => some (Raw.b32 0 5 g.code (d.wsBit) (d.code) (a.code) (b.code))
  | .iminS32B32 g d a b => some (Raw.b32 0 6 g.code (d.wsBit) (d.code) (a.code) (b.code))
  | .imaxS32B32 g d a b => some (Raw.b32 0 7 g.code (d.wsBit) (d.code) (a.code) (b.code))
  | .iminZ32B32 g d a b => some (Raw.b32 0 8 g.code (d.wsBit) (d.code) (a.code) (b.code))
  | .imaxZ32B32 g d a b => some (Raw.b32 0 9 g.code (d.wsBit) (d.code) (a.code) (b.code))
  | .shlB32 g d a b => some (Raw.b32 0 10 g.code (d.wsBit) (d.code) (a.code) (b.code))
  | .shrZ32B32 g d a b => some (Raw.b32 0 11 g.code (d.wsBit) (d.code) (a.code) (b.code))
  | .shrS32B32 g d a b => some (Raw.b32 0 12 g.code (d.wsBit) (d.code) (a.code) (b.code))
  | .andB32 g d a b => some (Raw.b32 0 13 g.code (d.wsBit) (d.code) (a.code) (b.code))
  | .orB32 g d a b => some (Raw.b32 0 14 g.code (d.wsBit) (d.code) (a.code) (b.code))
  | .xorB32 g d a b => some (Raw.b32 0 15 g.code (d.wsBit) (d.code) (a.code) (b.code))
  | .andnB32 g d a b => some (Raw.b32 0 16 g.code (d.wsBit) (d.code) (a.code) (b.code))
  | .movB32 g d a => some (Raw.b32 0 17 g.code (d.wsBit) (d.code) (a.code) (0))
  | .popcB32 g d a => some (Raw.b32 0 18 g.code (d.wsBit) (d.code) (a.code) (0))
  | .clzB32 g d a => some (Raw.b32 0 19 g.code (d.wsBit) (d.code) (a.code) (0))
  | .brevB32 g d a => some (Raw.b32 0 20 g.code (d.wsBit) (d.code) (a.code) (0))
  | .iadd64B32 g d a b => some (Raw.b32 0 21 g.code (0) (d.code) (a.code) (b.code))
  | .iabsB32 g d a => some (Raw.b32 0 22 g.code (d.wsBit) (d.code) (a.code) (0))
  | .inegB32 g d a => some (Raw.b32 0 23 g.code (d.wsBit) (d.code) (a.code) (0))
  | .faddF32B32 g d a b => some (Raw.b32 0 24 g.code (d.wsBit) (d.code) (a.code) (b.code))
  | .fsubF32B32 g d a b => some (Raw.b32 0 25 g.code (d.wsBit) (d.code) (a.code) (b.code))
  | .fmulF32B32 g d a b => some (Raw.b32 0 26 g.code (d.wsBit) (d.code) (a.code) (b.code))
  | .fminF32B32 g d a b => some (Raw.b32 0 27 g.code (d.wsBit) (d.code) (a.code) (b.code))
  | .fmaxF32B32 g d a b => some (Raw.b32 0 28 g.code (d.wsBit) (d.code) (a.code) (b.code))
  | .frcpF32B32 g d a => some (Raw.b32 0 29 g.code (d.wsBit) (d.code) (a.code) (0))
  | .frsqF32B32 g d a => some (Raw.b32 0 30 g.code (d.wsBit) (d.code) (a.code) (0))
  | .fsqrtF32B32 g d a => some (Raw.b32 0 31 g.code (d.wsBit) (d.code) (a.code) (0))
  | .fexp2F32B32 g d a => some (Raw.b32 0 32 g.code (d.wsBit) (d.code) (a.code) (0))
  | .flog2F32B32 g d a => some (Raw.b32 0 33 g.code (d.wsBit) (d.code) (a.code) (0))
  | .faddBf16B32 g d a b => some (Raw.b32 0 34 g.code (d.wsBit) (d.code) (a.code) (b.code))
  | .fmulBf16B32 g d a b => some (Raw.b32 0 35 g.code (d.wsBit) (d.code) (a.code) (b.code))
  | .faddF16B32 g d a b => some (Raw.b32 0 36 g.code (d.wsBit) (d.code) (a.code) (b.code))
  | .fmulF16B32 g d a b => some (Raw.b32 0 37 g.code (d.wsBit) (d.code) (a.code) (b.code))
  | .fclassF32B32 g d a => some (Raw.b32 0 38 g.code (d.wsBit) (d.code) (a.code) (0))
  | .braB32 g off => some (Raw.b32Low 0 40 g.code (off.toNat))
  | .retB32 g a => some (Raw.b32 0 41 g.code (0) (0) (a.code) (0))
  | .exitB32 g => some (Raw.b32 0 42 g.code (0) (0) (0) (0))
  | .yieldB32 g => some (Raw.b32 0 43 g.code (0) (0) (0) (0))
  | .nopB32 g => some (Raw.b32 0 44 g.code (0) (0) (0) (0))
  | .mkcurB32 g m => some (Raw.b32 0 45 g.code (0) (m.val) (0) (0))
  | .joinB32 g m => some (Raw.b32 0 46 g.code (0) (0) (m.val) (0))
  | .leaveB32 g m => some (Raw.b32 0 47 g.code (0) (m.val) (0) (0))
  | .raddF32B32 g d a b => some (Raw.b32 0 48 g.code (d.wsBit) (d.code) (a.code) (b.code))
  | .unaddF32B32 g d a b => some (Raw.b32 0 49 g.code (d.wsBit) (d.code) (a.code) (b.code))
  | .rmulF32B32 g d a b => some (Raw.b32 0 50 g.code (d.wsBit) (d.code) (a.code) (b.code))
  | .unmulF32B32 g d a b => some (Raw.b32 0 51 g.code (d.wsBit) (d.code) (a.code) (b.code))
  | .rreluF32B32 g d a => some (Raw.b32 0 52 g.code (d.wsBit) (d.code) (a.code) (0))
  | .unreluF32B32 g d a => some (Raw.b32 0 53 g.code (d.wsBit) (d.code) (a.code) (0))
  | .rmulS32B32 g d a b => some (Raw.b32 0 54 g.code (d.wsBit) (d.code) (a.code) (b.code))
  | .unmulS32B32 g d a b => some (Raw.b32 0 55 g.code (d.wsBit) (d.code) (a.code) (b.code))
  | .iaddX64 g d a b ty sat => some (Raw.x 0 56 g.code (d.wsBit) (d.code) (a.code) (b.code) 0 (0) (256 * (ty.code) + 64 * (0) + (b2n sat 0)) (0))
  | .isubX64 g d a b ty sat => some (Raw.x 0 56 g.code (d.wsBit) (d.code) (a.code) (b.code) 1 (0) (256 * (ty.code) + 64 * (0) + (b2n sat 0)) (0))
  | .imulX64 g d a b ty => some (Raw.x 0 56 g.code (d.wsBit) (d.code) (a.code) (b.code) 2 (0) (256 * (ty.code) + 64 * (0) + (0)) (0))
  | .imulhX64 g d a b ty => some (Raw.x 0 56 g.code (d.wsBit) (d.code) (a.code) (b.code) 3 (0) (256 * (ty.code) + 64 * (0) + (0)) (0))
  | .imad g d a b c ty => some (Raw.x 0 56 g.code (d.wsBit) (d.code) (a.code) (b.code) 4 (c.code) (256 * (ty.code) + 64 * (0) + (0)) (0))
  | .imadw g d a b c ty => some (Raw.x 0 56 g.code (0) (d.code) (a.code) (b.code) 5 (c.code) (256 * (ty.code) + 64 * (0) + (0)) (0))
  | .iadd64X64 g d a b ty => some (Raw.x 0 56 g.code (0) (d.code) (a.code) (b.code) 6 (0) (256 * (ty.code) + 64 * (0) + (0)) (0))
  | .leaX64 g d a b ty sh => some (Raw.x 0 56 g.code (0) (d.code) (a.code) (b.code) 7 (0) (256 * (ty.code) + 64 * (0) + (sh.val)) (0))
  | .iabsX64 g d a sat => some (Raw.x 0 56 g.code (d.wsBit) (d.code) (a.code) (0) 8 (0) (256 * (4) + 64 * (0) + (b2n sat 0)) (0))
  | .inegX64 g d a sat => some (Raw.x 0 56 g.code (d.wsBit) (d.code) (a.code) (0) 9 (0) (256 * (4) + 64 * (0) + (b2n sat 0)) (0))
  | .iminX64 g d a b ty => some (Raw.x 0 56 g.code (d.wsBit) (d.code) (a.code) (b.code) 10 (0) (256 * (ty.code) + 64 * (0) + (0)) (0))
  | .imaxX64 g d a b ty => some (Raw.x 0 56 g.code (d.wsBit) (d.code) (a.code) (b.code) 11 (0) (256 * (ty.code) + 64 * (0) + (0)) (0))
  | .shlX64 g d a b ty wrap => some (Raw.x 0 56 g.code (d.wsBit) (d.code) (a.code) (b.code) 12 (0) (256 * (ty.code) + 64 * (0) + (b2n wrap 0)) (0))
  | .shrX64 g d a b ty wrap => some (Raw.x 0 56 g.code (d.wsBit) (d.code) (a.code) (b.code) 13 (0) (256 * (ty.code) + 64 * (0) + (b2n wrap 0)) (0))
  | .shf g d a b c ty lft wrap => some (Raw.x 0 56 g.code (d.wsBit) (d.code) (a.code) (b.code) 14 (c.code) (256 * (ty.code) + 64 * (0) + (b2n lft 0 + b2n wrap 1)) (0))
  | .rot g d a b ty rgt => some (Raw.x 0 56 g.code (d.wsBit) (d.code) (a.code) (b.code) 15 (0) (256 * (ty.code) + 64 * (0) + (b2n rgt 0)) (0))
  | .andX64 g d a b ty => some (Raw.x 0 56 g.code (d.wsBit) (d.code) (a.code) (b.code) 16 (0) (256 * (ty.code) + 64 * (0) + (0)) (0))
  | .orX64 g d a b ty => some (Raw.x 0 56 g.code (d.wsBit) (d.code) (a.code) (b.code) 17 (0) (256 * (ty.code) + 64 * (0) + (0)) (0))
  | .xorX64 g d a b ty => some (Raw.x 0 56 g.code (d.wsBit) (d.code) (a.code) (b.code) 18 (0) (256 * (ty.code) + 64 * (0) + (0)) (0))
  | .andnX64 g d a b ty => some (Raw.x 0 56 g.code (d.wsBit) (d.code) (a.code) (b.code) 19 (0) (256 * (ty.code) + 64 * (0) + (0)) (0))
  | .tern g d a b c ty lut => some (Raw.x 0 59 g.code (d.wsBit) (d.code) (a.code) (b.code) 20 (c.code) (256 * (ty.code) + 64 * (0) + (0)) (lut.toNat))
  | .popcX64 g d a ty => some (Raw.x 0 56 g.code (d.wsBit) (d.code) (a.code) (0) 21 (0) (256 * (ty.code) + 64 * (0) + (0)) (0))
  | .clzX64 g d a ty => some (Raw.x 0 56 g.code (d.wsBit) (d.code) (a.code) (0) 22 (0) (256 * (ty.code) + 64 * (0) + (0)) (0))
  | .brevX64 g d a ty => some (Raw.x 0 56 g.code (d.wsBit) (d.code) (a.code) (0) 23 (0) (256 * (ty.code) + 64 * (0) + (0)) (0))
  | .bfx g d a ty pos ln => some (Raw.x 0 59 g.code (d.wsBit) (d.code) (a.code) (0) 24 (0) (256 * (ty.code) + 64 * (0) + (0)) (pos.val + (256 * ln.val)))
  | .bfi g d a b ty pos ln => some (Raw.x 0 59 g.code (d.wsBit) (d.code) (a.code) (b.code) 25 (0) (256 * (ty.code) + 64 * (0) + (0)) (pos.val + (256 * ln.val)))
  | .icmp g d a b ty cond comb => some (Raw.x 0 56 g.code (0) (d.val) (a.code) (b.code) 26 (comb.predNum) (256 * (ty.code) + 64 * (0) + (cond.code + (8 * comb.code))) (0))
  | .sel g d a b c ty neg => some (Raw.x 0 56 g.code (d.wsBit) (d.code) (a.code) (b.code) 27 (c.code) (256 * (ty.code) + 64 * (0) + (b2n neg 0)) (0))
  | .plog g x => some (Raw.x 0 56 g.code (x.wsBit) (x.dNum) (x.aNum) (x.bNum) 28 (0) (256 * (0) + 64 * (0) + (x.code)) (0))
  | .movX64 g d a ty => some (Raw.x 0 56 g.code (d.wsBit) (d.code) (a.code) (0) 29 (0) (256 * (ty.code) + 64 * (0) + (0)) (0))
  | .idp4 g d a b c ty bz => some (Raw.x 0 56 g.code (d.wsBit) (d.code) (a.code) (b.code) 30 (c.code) (256 * (ty.code) + 64 * (0) + (b2n bz 0)) (0))
  | .xch g d a b ty mode ok => some (Raw.x 0 56 g.code (d.wsBit) (d.code) (a.code) (b.code) 31 (optPNum ok) (256 * (ty.code) + 64 * (0) + (mode.code + b2n ok.isSome 3)) (0))
  | .vote g x a neg => some (Raw.x 0 56 g.code (0) (x.dNum) (a.code) (0) 32 (0) (256 * (0) + 64 * (0) + (x.code + b2n neg 3)) (0))
  | .match g d a ty all => some (Raw.x 0 56 g.code (0) (d.code) (a.code) (0) 33 (0) (256 * (ty.code) + 64 * (0) + (b2n all 0)) (0))
  | .redux g d a ty op => some (Raw.x 0 56 g.code (d.wsBit) (d.code) (a.code) (0) 34 (0) (256 * (ty.code) + 64 * (0) + (op.code)) (0))
  | .movi g d imm => some (Raw.i64 0 g.code (d.wsBit) (d.code) (0) (0) (imm.toNat))
  | .iaddI64 g d a imm => some (Raw.i64 0 g.code (d.wsBit) (d.code) (a.code) (1) (imm.toNat))
  | .imulI64 g d a imm => some (Raw.i64 0 g.code (d.wsBit) (d.code) (a.code) (2) (imm.toNat))
  | .andI64 g d a imm => some (Raw.i64 0 g.code (d.wsBit) (d.code) (a.code) (3) (imm.toNat))
  | .orI64 g d a imm => some (Raw.i64 0 g.code (d.wsBit) (d.code) (a.code) (4) (imm.toNat))
  | .xorI64 g d a imm => some (Raw.i64 0 g.code (d.wsBit) (d.code) (a.code) (5) (imm.toNat))
  | .shlI64 g d a n => some (Raw.i64 0 g.code (d.wsBit) (d.code) (a.code) (6) (n.val))
  | .shrI64 g d a ty n => some (Raw.i64 0 g.code (d.wsBit) (d.code) (a.code) ((if ty = .z32 then 7 else 8)) (n.val))
  | .iminI64 g d a imm => some (Raw.i64 0 g.code (d.wsBit) (d.code) (a.code) (9) (imm.toNat))
  | .imaxI64 g d a imm => some (Raw.i64 0 g.code (d.wsBit) (d.code) (a.code) (10) (imm.toNat))
  | .leaI64 g d a imm => some (Raw.i64 0 g.code (0) (d.code) (a.code) (11) (imm.toNat))
  | .braI64 g imm => some (Raw.i64 0 g.code (0) (0) (0) (12) (imm.toNat))
  | .call g d imm => some (Raw.i64 0 g.code (0) (d.code) (0) (13) (imm.toNat))
  | .faddX64 g d a b ty rm => some (Raw.x 0 56 g.code (d.wsBit) (d.code) (a.code) (b.code) 256 (0) (256 * (ty.code) + 64 * (rm.code) + (0)) (0))
  | .fsubX64 g d a b ty rm => some (Raw.x 0 56 g.code (d.wsBit) (d.code) (a.code) (b.code) 257 (0) (256 * (ty.code) + 64 * (rm.code) + (0)) (0))
  | .fmulX64 g d a b ty rm => some (Raw.x 0 56 g.code (d.wsBit) (d.code) (a.code) (b.code) 258 (0) (256 * (ty.code) + 64 * (rm.code) + (0)) (0))
  | .ffma g d a b c ty rm => some (Raw.x 0 56 g.code (d.wsBit) (d.code) (a.code) (b.code) 259 (c.code) (256 * (ty.code) + 64 * (rm.code) + (0)) (0))
  | .fminX64 g d a b ty nan => some (Raw.x 0 56 g.code (d.wsBit) (d.code) (a.code) (b.code) 260 (0) (256 * (ty.code) + 64 * (0) + (b2n nan 0)) (0))
  | .fmaxX64 g d a b ty nan => some (Raw.x 0 56 g.code (d.wsBit) (d.code) (a.code) (b.code) 261 (0) (256 * (ty.code) + 64 * (0) + (b2n nan 0)) (0))
  | .fcmp g d a b ty cond comb hi => some (Raw.x 0 56 g.code (0) (d.val) (a.code) (b.code) 262 (comb.predNum) (256 * (ty.code) + 64 * (0) + (cond.code + (8 * comb.code) + b2n hi 5)) (0))
  | .frcpX64 g d a ty => some (Raw.x 0 56 g.code (d.wsBit) (d.code) (a.code) (0) 263 (0) (256 * (ty.code) + 64 * (0) + (0)) (0))
  | .frsqX64 g d a ty => some (Raw.x 0 56 g.code (d.wsBit) (d.code) (a.code) (0) 264 (0) (256 * (ty.code) + 64 * (0) + (0)) (0))
  | .fsqrtX64 g d a ty => some (Raw.x 0 56 g.code (d.wsBit) (d.code) (a.code) (0) 265 (0) (256 * (ty.code) + 64 * (0) + (0)) (0))
  | .fexp2X64 g d a ty => some (Raw.x 0 56 g.code (d.wsBit) (d.code) (a.code) (0) 266 (0) (256 * (ty.code) + 64 * (0) + (0)) (0))
  | .flog2X64 g d a ty => some (Raw.x 0 56 g.code (d.wsBit) (d.code) (a.code) (0) 267 (0) (256 * (ty.code) + 64 * (0) + (0)) (0))
  | .fdp2 g d a b c ty rm => some (Raw.x 0 56 g.code (d.wsBit) (d.code) (a.code) (b.code) 268 (c.code) (256 * (ty.code) + 64 * (rm.code) + (0)) (0))
  | .cvt g d a b dt st rm => some (Raw.x 0 56 g.code (d.wsBit) (d.code) (a.code) (b.code) 269 (0) (256 * (dt.code) + ((8 * st.code) + (2 * rm.code))) (0))
  | .cvtsr g d a b c dt st => some (Raw.x 0 56 g.code (d.wsBit) (d.code) (a.code) (b.code) 270 (c.code) (256 * (dt.code) + ((8 * st.code))) (0))
  | .fclassX64 g d a ty => some (Raw.x 0 56 g.code (d.wsBit) (d.code) (a.code) (0) 271 (0) (256 * (ty.code) + 64 * (0) + (0)) (0))
  | .dquant g a b c hi rowA colA => some (Raw.x 0 59 g.code (0) (0) (a.val) (b.code) 272 (c.code) (256 * (13) + 64 * (0) + (b2n hi 0)) (b2n rowA 0 + b2n colA 1))
  | .brx g a => some (Raw.x 0 56 g.code (0) (0) (a.code) (0) 512 (0) (256 * (0) + 64 * (0) + (0)) (0))
  | .callx g d a => some (Raw.x 0 56 g.code (0) (d.code) (a.code) (0) 513 (0) (256 * (0) + 64 * (0) + (0)) (0))
  | .retX64 g a => some (Raw.x 0 56 g.code (0) (0) (a.code) (0) 514 (0) (256 * (0) + 64 * (0) + (0)) (0))
  | .exitX64 g => some (Raw.x 0 56 g.code (0) (0) (0) (0) 515 (0) (256 * (0) + 64 * (0) + (0)) (0))
  | .yieldX64 g => some (Raw.x 0 56 g.code (0) (0) (0) (0) 516 (0) (256 * (0) + 64 * (0) + (0)) (0))
  | .nopX64 g => some (Raw.x 0 56 g.code (0) (0) (0) (0) 517 (0) (256 * (0) + 64 * (0) + (0)) (0))
  | .mkcurX64 g m => some (Raw.x 0 56 g.code (0) (m.val) (0) (0) 518 (0) (256 * (0) + 64 * (0) + (0)) (0))
  | .mktos g d m => some (Raw.x 0 56 g.code (0) (d.code) (m.val) (0) 519 (0) (256 * (0) + 64 * (0) + (0)) (0))
  | .stomk g m a => some (Raw.x 0 56 g.code (0) (m.val) (a.code) (0) 520 (0) (256 * (0) + 64 * (0) + (0)) (0))
  | .joinX64 g m => some (Raw.x 0 56 g.code (0) (0) (m.val) (0) 521 (0) (256 * (0) + 64 * (0) + (0)) (0))
  | .leaveX64 g m => some (Raw.x 0 56 g.code (0) (m.val) (0) (0) 522 (0) (256 * (0) + 64 * (0) + (0)) (0))
  | .waitm g m => some (Raw.x 0 56 g.code (0) (0) (m.val) (0) 523 (0) (256 * (0) + 64 * (0) + (0)) (0))
  | .mklog g d x => some (Raw.x 0 56 g.code (0) (d.val) (x.aNum) (x.bNum) 524 (0) (256 * (0) + 64 * (0) + (x.code)) (0))
  | .raddX64 g d a b rm => some (Raw.x 0 56 g.code (d.wsBit) (d.code) (a.code) (b.code) 768 (0) (256 * (8) + 64 * (rm.code) + (0)) (0))
  | .rmulX64 g d a b ty rm => some (Raw.x 0 56 g.code (d.wsBit) (d.code) (a.code) (b.code) 769 (0) (256 * (ty.code) + 64 * (rm.code) + (0)) (0))
  | .rcvt g d a b dt st rm => some (Raw.x 0 56 g.code (d.wsBit) (d.code) (a.code) (b.code) 770 (0) (256 * (dt.code) + ((8 * st.code) + (2 * rm.code))) (0))
  | .rreluX64 g d a => some (Raw.x 0 56 g.code (d.wsBit) (d.code) (a.code) (0) 771 (0) (256 * (8) + 64 * (0) + (0)) (0))
  | .rshr g d a b ty => some (Raw.x 0 56 g.code (d.wsBit) (d.code) (a.code) (b.code) 772 (0) (256 * (ty.code) + 64 * (0) + (0)) (0))
  | .unaddX64 g d a b => some (Raw.x 0 56 g.code (d.wsBit) (d.code) (a.code) (b.code) 773 (0) (256 * (8) + 64 * (0) + (0)) (0))
  | .unmulX64 g d a b ty => some (Raw.x 0 56 g.code (d.wsBit) (d.code) (a.code) (b.code) 774 (0) (256 * (ty.code) + 64 * (0) + (0)) (0))
  | .uncvt g d a b dt st => some (Raw.x 0 56 g.code (d.wsBit) (d.code) (a.code) (b.code) 775 (0) (256 * (dt.code) + ((8 * st.code))) (0))
  | .unreluX64 g d a => some (Raw.x 0 56 g.code (d.wsBit) (d.code) (a.code) (0) 776 (0) (256 * (8) + 64 * (0) + (0)) (0))
  | .unshr g d a b ty => some (Raw.x 0 56 g.code (d.wsBit) (d.code) (a.code) (b.code) 777 (0) (256 * (ty.code) + 64 * (0) + (0)) (0))
  | .chpush g a => some (Raw.x 0 56 g.code (0) (0) (a.code) (0) 778 (0) (256 * (0) + 64 * (0) + (0)) (0))
  | .chpop g d => some (Raw.x 0 56 g.code (d.wsBit) (d.code) (0) (0) 779 (0) (256 * (0) + 64 * (0) + (0)) (0))
  | .chdrop g a => some (Raw.x 0 56 g.code (0) (0) (a.code) (0) 780 (0) (256 * (0) + 64 * (0) + (0)) (0))
  | .chdepth g d => some (Raw.x 0 56 g.code (d.wsBit) (d.code) (0) (0) 781 (0) (256 * (0) + 64 * (0) + (0)) (0))
  | .fbinit g a b => some (Raw.x 0 56 g.code (0) (0) (a.code) (b.code) 1024 (0) (256 * (0) + 64 * (0) + (0)) (0))
  | .fbarr g d a b => some (Raw.x 0 56 g.code (0) (d.code) (a.code) (b.code) 1025 (0) (256 * (0) + 64 * (0) + (0)) (0))
  | .fbwait g a b => some (Raw.x 0 56 g.code (0) (0) (a.code) (b.code) 1026 (0) (256 * (0) + 64 * (0) + (0)) (0))
  | .fbtest g d a b => some (Raw.x 0 56 g.code (0) (d.val) (a.code) (b.code) 1027 (0) (256 * (0) + 64 * (0) + (0)) (0))
  | .mma g a b ty east keep af => some (Raw.x 0 56 g.code (0) (0) (a.val) (b.code) 1280 (0) (256 * (ty.code) + 64 * (0) + (b2n east 0 + b2n keep 1 + b2n af 2)) (0))
  | .dmma g a b c ty keep => some (Raw.x 0 56 g.code (0) (0) (a.val) (b.code) 1281 (c.code) (256 * (ty.code) + 64 * (0) + (b2n keep 1)) (0))
  | .ldg g d a size scope acq off => some (Raw.m64 0 g.code (d.code) (a.code) (0) (0) (0) (size.code) (scope.code) ((if acq then 1 else 0)) (off.toNat))
  | .ldgSigned g d a size scope acq off => some (Raw.m64 0 g.code (d.code) (a.code) (0) (1) (0) (size.code) (scope.code) ((if acq then 1 else 0)) (off.toNat))
  | .ldgU g sx d a size scope acq off => some (Raw.m64 1 g.code (d.code) (a.code) (0) (b2n sx 0) (0) (size.code) (scope.code) ((if acq then 1 else 0)) (off.toNat))
  | .stg g a b size scope rel off => some (Raw.m64 0 g.code (0) (a.code) (b.code) (2) (0) (size.code) (scope.code) ((if rel then 2 else 0)) (off.toNat))
  | .stgU g a b size scope rel off => some (Raw.m64 1 g.code (0) (a.code) (b.code) (2) (0) (size.code) (scope.code) ((if rel then 2 else 0)) (off.toNat))
  | .lda g d a size off => some (Raw.m64 0 g.code (d.code) (a.code) (0) (0) (1) (size.code) (0) (0) (off.toNat))
  | .ldaSigned g d a size off => some (Raw.m64 0 g.code (d.code) (a.code) (0) (1) (1) (size.code) (0) (0) (off.toNat))
  | .sta g a b size off => some (Raw.m64 0 g.code (0) (a.code) (b.code) (2) (1) (size.code) (0) (0) (off.toNat))
  | .ldw g d a size off => some (Raw.m64 0 g.code (d.code) (a.code) (0) (0) (2) (size.code) (0) (0) (off.toNat))
  | .ldwSigned g d a size off => some (Raw.m64 0 g.code (d.code) (a.code) (0) (1) (2) (size.code) (0) (0) (off.toNat))
  | .stw g a b size off => some (Raw.m64 0 g.code (0) (a.code) (b.code) (2) (2) (size.code) (0) (0) (off.toNat))
  | .ldc g d a size off => some (Raw.m64 0 g.code (d.code) (a.code) (0) (0) (3) (size.code) (0) (0) (off.toNat))
  | .ldcSigned g d a size off => some (Raw.m64 0 g.code (d.code) (a.code) (0) (1) (3) (size.code) (0) (0) (off.toNat))
  | .stc g a b size off => some (Raw.m64 0 g.code (0) (a.code) (b.code) (2) (3) (size.code) (0) (0) (off.toNat))
  | .aatom g op d a b size scope order off => some (Raw.m64 0 g.code (d.code) (a.code) (b.code) ((8 + op.code)) (1) (size.code) (scope.code) (order.code) (off.toNat))
  | .invr g a b scope off => some (Raw.m64 0 g.code (0) (a.code) (b.code) (3) (0) (0) (scope.code) (0) (off.toNat))
  | .inva g scope => some (Raw.m64 0 g.code (0) (0) (0) (4) (0) (0) (scope.code) (0) (0))
  | .phbeg g a b off => some (Raw.m64 0 g.code (0) (a.code) (b.code) (5) (0) (0) (0) (0) (off.toNat))
  | .phend g a b off => some (Raw.m64 0 g.code (0) (a.code) (b.code) (6) (0) (0) (0) (0) (off.toNat))
  | .pfl1 g a b off => some (Raw.m64 0 g.code (0) (a.code) (b.code) (7) (0) (0) (0) (0) (off.toNat))
  | .atom g op d a b size scope order off => some (Raw.m64 0 g.code (d.code) (a.code) (b.code) ((8 + op.code)) (off.space) (size.code) (scope.code) (order.code) (off.code))
  | .cas g d a b size scope order off => some (Raw.m64 0 g.code (d.code) (a.code) (b.code) (21) (off.space) (size.code) (scope.code) (order.code) (off.code))
  | .red g op a b size scope rel off => some (Raw.m64 0 g.code (0) (a.code) (b.code) ((24 + op.code)) (off.space) (size.code) (scope.code) ((if rel then 2 else 0)) (off.code))
  | .waita g d a b size scope acq off => some (Raw.m64 0 g.code (d.code) (a.code) (b.code) (22) (off.space) (size.code) (scope.code) ((if acq then 1 else 0)) (off.code))
  | .wake g d a b off => some (Raw.m64 0 g.code (d.code) (a.code) (b.code) (23) (off.space) (2) (0) (0) (off.code))
  | .fence g order scope => some (Raw.m64 0 g.code (0) (0) (0) (37) (0) (0) (scope.code) (order.code) (0))
  | .fld g d a hnd trap => some (Raw.m64 0 g.code (d.code) (a.code) (0) (0) (4) (2) (0) (0) (((96 + hnd.val) * 256) + b2n trap 0))
  | .fst g a b hnd => some (Raw.m64 0 g.code (0) (a.code) (b.code) (2) (4) (2) (0) (0) (((96 + hnd.val) * 256)))
  | .saddB32 g d a b => some (Raw.b32 1 1 g.code (0) (d.code) (a.code) (b.code))
  | .ssubB32 g d a b => some (Raw.b32 1 2 g.code (0) (d.code) (a.code) (b.code))
  | .smulB32 g d a b => some (Raw.b32 1 3 g.code (0) (d.code) (a.code) (b.code))
  | .sadd64B32 g d a b => some (Raw.b32 1 4 g.code (0) (d.code) (a.code) (b.code))
  | .sshlB32 g d a b => some (Raw.b32 1 5 g.code (0) (d.code) (a.code) (b.code))
  | .sshrZ32B32 g d a b => some (Raw.b32 1 6 g.code (0) (d.code) (a.code) (b.code))
  | .sshrS32B32 g d a b => some (Raw.b32 1 7 g.code (0) (d.code) (a.code) (b.code))
  | .sandB32 g d a b => some (Raw.b32 1 8 g.code (0) (d.code) (a.code) (b.code))
  | .sorB32 g d a b => some (Raw.b32 1 9 g.code (0) (d.code) (a.code) (b.code))
  | .sxorB32 g d a b => some (Raw.b32 1 10 g.code (0) (d.code) (a.code) (b.code))
  | .sminS32B32 g d a b => some (Raw.b32 1 11 g.code (0) (d.code) (a.code) (b.code))
  | .smaxS32B32 g d a b => some (Raw.b32 1 12 g.code (0) (d.code) (a.code) (b.code))
  | .sminZ32B32 g d a b => some (Raw.b32 1 13 g.code (0) (d.code) (a.code) (b.code))
  | .smaxZ32B32 g d a b => some (Raw.b32 1 14 g.code (0) (d.code) (a.code) (b.code))
  | .smovB32 g d a => some (Raw.b32 1 15 g.code (0) (d.code) (a.code) (0))
  | .spopcB32 g d a => some (Raw.b32 1 16 g.code (0) (d.code) (a.code) (0))
  | .lanerdB32 g d a b => some (Raw.b32 1 17 g.code (0) (d.code) (a.code) (b.code))
  | .lanewrB32 g d a b => some (Raw.b32 1 18 g.code (0) (d.code) (a.code) (b.code))
  | .pwaitAnyB32 g d a => some (Raw.b32 1 32 g.code (0) (d.code) (a.code) (0))
  | .pwaitAllB32 g d a => some (Raw.b32 1 33 g.code (0) (d.code) (a.code) (0))
  | .pfindB32 g d a => some (Raw.b32 1 34 g.code (0) (d.code) (a.code) (0))
  | .pclrB32 g a => some (Raw.b32 1 35 g.code (0) (0) (a.code) (0))
  | .mxacqB32 g => some (Raw.b32 1 36 g.code (0) (0) (0) (0))
  | .mxtryB32 g d => some (Raw.b32 1 37 g.code (0) (d.val) (0) (0))
  | .mxrelB32 g => some (Raw.b32 1 38 g.code (0) (0) (0) (0))
  | .mxwaitB32 g => some (Raw.b32 1 39 g.code (0) (0) (0) (0))
  | .zaccSB32 g => some (Raw.b32 1 40 g.code (0) (0) (0) (0))
  | .zaccEB32 g => some (Raw.b32 1 41 g.code (0) (0) (0) (0))
  | .srdB32 g d a => some (Raw.b32 1 48 g.code (0) (d.code) (a.code) (0))
  | .swrB32 g d a => some (Raw.b32 1 49 g.code (0) (d.code) (a.code) (0))
  | .trapB32 g a => some (Raw.b32 1 50 g.code (0) (0) (a.code) (0))
  | .brkB32 g a => some (Raw.b32 1 51 g.code (0) (0) (a.code) (0))
  | .barB32 g => some (Raw.b32 1 52 g.code (0) (0) (0) (0))
  | .tkwaitB32 g => some (Raw.b32 1 53 g.code (0) (0) (0) (0))
  | .tkpassB32 g => some (Raw.b32 1 54 g.code (0) (0) (0) (0))
  | .ccwaitB32 g d a => some (Raw.b32 1 55 g.code (0) (d.code) (a.code) (0))
  | .saddX64 g d a b ty sat => some (Raw.x 1 56 g.code (0) (d.code) (a.code) (b.code) 0 (0) (256 * (ty.code) + 64 * (0) + (b2n sat 0)) (0))
  | .ssubX64 g d a b ty sat => some (Raw.x 1 56 g.code (0) (d.code) (a.code) (b.code) 1 (0) (256 * (ty.code) + 64 * (0) + (b2n sat 0)) (0))
  | .smulX64 g d a b ty => some (Raw.x 1 56 g.code (0) (d.code) (a.code) (b.code) 2 (0) (256 * (ty.code) + 64 * (0) + (0)) (0))
  | .smad g d a b c ty => some (Raw.x 1 56 g.code (0) (d.code) (a.code) (b.code) 3 (c.code) (256 * (ty.code) + 64 * (0) + (0)) (0))
  | .sadd64X64 g d a b ty => some (Raw.x 1 56 g.code (0) (d.code) (a.code) (b.code) 4 (0) (256 * (ty.code) + 64 * (0) + (0)) (0))
  | .sleaX64 g d a b ty sh => some (Raw.x 1 56 g.code (0) (d.code) (a.code) (b.code) 5 (0) (256 * (ty.code) + 64 * (0) + (sh.val)) (0))
  | .sshlX64 g d a b ty wrap => some (Raw.x 1 56 g.code (0) (d.code) (a.code) (b.code) 6 (0) (256 * (ty.code) + 64 * (0) + (b2n wrap 0)) (0))
  | .sshrX64 g d a b ty wrap => some (Raw.x 1 56 g.code (0) (d.code) (a.code) (b.code) 7 (0) (256 * (ty.code) + 64 * (0) + (b2n wrap 0)) (0))
  | .sandX64 g d a b ty => some (Raw.x 1 56 g.code (0) (d.code) (a.code) (b.code) 8 (0) (256 * (ty.code) + 64 * (0) + (0)) (0))
  | .sorX64 g d a b ty => some (Raw.x 1 56 g.code (0) (d.code) (a.code) (b.code) 9 (0) (256 * (ty.code) + 64 * (0) + (0)) (0))
  | .sxorX64 g d a b ty => some (Raw.x 1 56 g.code (0) (d.code) (a.code) (b.code) 10 (0) (256 * (ty.code) + 64 * (0) + (0)) (0))
  | .sminX64 g d a b ty => some (Raw.x 1 56 g.code (0) (d.code) (a.code) (b.code) 11 (0) (256 * (ty.code) + 64 * (0) + (0)) (0))
  | .smaxX64 g d a b ty => some (Raw.x 1 56 g.code (0) (d.code) (a.code) (b.code) 12 (0) (256 * (ty.code) + 64 * (0) + (0)) (0))
  | .scmp g d a b ty cond comb => some (Raw.x 1 56 g.code (0) (d.val) (a.code) (b.code) 13 (comb.predNum) (256 * (ty.code) + 64 * (0) + (cond.code + (8 * comb.code))) (0))
  | .ssel g d a b c ty neg => some (Raw.x 1 56 g.code (0) (d.code) (a.code) (b.code) 14 (c.code) (256 * (ty.code) + 64 * (0) + (b2n neg 0)) (0))
  | .smovX64 g d a ty => some (Raw.x 1 56 g.code (0) (d.code) (a.code) (0) 15 (0) (256 * (ty.code) + 64 * (0) + (0)) (0))
  | .spopcX64 g d a ty => some (Raw.x 1 56 g.code (0) (d.code) (a.code) (0) 16 (0) (256 * (ty.code) + 64 * (0) + (0)) (0))
  | .lanerdX64 g d a b ty => some (Raw.x 1 56 g.code (0) (d.code) (a.code) (b.code) 17 (0) (256 * (ty.code) + 64 * (0) + (0)) (0))
  | .lanewrX64 g d a b ty => some (Raw.x 1 56 g.code (0) (d.code) (a.code) (b.code) 18 (0) (256 * (ty.code) + 64 * (0) + (0)) (0))
  | .smovi g d imm => some (Raw.i64 1 g.code (0) (d.code) (0) (0) (imm.toNat))
  | .saddI64 g d a imm => some (Raw.i64 1 g.code (0) (d.code) (a.code) (1) (imm.toNat))
  | .smulI64 g d a imm => some (Raw.i64 1 g.code (0) (d.code) (a.code) (2) (imm.toNat))
  | .sandI64 g d a imm => some (Raw.i64 1 g.code (0) (d.code) (a.code) (3) (imm.toNat))
  | .sorI64 g d a imm => some (Raw.i64 1 g.code (0) (d.code) (a.code) (4) (imm.toNat))
  | .sxorI64 g d a imm => some (Raw.i64 1 g.code (0) (d.code) (a.code) (5) (imm.toNat))
  | .sshlI64 g d a n => some (Raw.i64 1 g.code (0) (d.code) (a.code) (6) (n.val))
  | .sshrI64 g d a ty n => some (Raw.i64 1 g.code (0) (d.code) (a.code) ((if ty = .z32 then 7 else 8)) (n.val))
  | .sminI64 g d a imm => some (Raw.i64 1 g.code (0) (d.code) (a.code) (9) (imm.toNat))
  | .smaxI64 g d a imm => some (Raw.i64 1 g.code (0) (d.code) (a.code) (10) (imm.toNat))
  | .sleaI64 g d a imm => some (Raw.i64 1 g.code (0) (d.code) (a.code) (11) (imm.toNat))
  | .cpy g t a b c ds ss => some (Raw.x 1 59 g.code (0) (t.val) (a.code) (b.code) 256 (c.code) (256 * (0) + 64 * (0) + (0)) ((1 * ds.code) + (4 * ss.code)))
  | .cpy2 g t a b c ds ss tr => some (Raw.x 1 59 g.code (0) (t.val) (a.code) (b.code) 257 ((96 + c.val)) (256 * (0) + 64 * (0) + (0)) ((1 * ds.code) + (4 * ss.code) + (16 * tr.code)))
  | .cpyh g t a b c inn abin => some (Raw.x 1 59 g.code (0) (t.val) (a.code) (b.code) 258 (c.code) (256 * (0) + 64 * (0) + (0)) (b2n inn 0 + b2n abin 1))
  | .pfl2 g x a c => some (Raw.x 1 59 g.code (0) (x.dNum) (a.code) (x.bNum) 259 (c.code) (256 * (0) + 64 * (0) + (0)) (x.code))
  | .pwaitX64 g d a all => some (Raw.x 1 56 g.code (0) (d.code) (a.code) (0) 260 (0) (256 * (0) + 64 * (0) + (b2n all 0)) (0))
  | .pfindX64 g d a => some (Raw.x 1 56 g.code (0) (d.code) (a.code) (0) 261 (0) (256 * (0) + 64 * (0) + (0)) (0))
  | .pclrX64 g a => some (Raw.x 1 56 g.code (0) (0) (a.code) (0) 262 (0) (256 * (0) + 64 * (0) + (0)) (0))
  | .pstat g d t => some (Raw.x 1 56 g.code (0) (d.code) (t.val) (0) 263 (0) (256 * (0) + 64 * (0) + (0)) (0))
  | .mxacqX64 g => some (Raw.x 1 56 g.code (0) (0) (0) (0) 272 (0) (256 * (0) + 64 * (0) + (0)) (0))
  | .mxtryX64 g d => some (Raw.x 1 56 g.code (0) (d.val) (0) (0) 273 (0) (256 * (0) + 64 * (0) + (0)) (0))
  | .mxrelX64 g => some (Raw.x 1 56 g.code (0) (0) (0) (0) 274 (0) (256 * (0) + 64 * (0) + (0)) (0))
  | .stld g a b c ty w ab kc af => some (Raw.x 1 56 g.code (0) (0) (a.code) (b.code) 275 (SReg.codeOpt c) (256 * (ty.code) + 64 * (0) + (b2n w 0 + b2n ab 1 + b2n kc 2 + b2n af 3)) (0))
  | .drain g a b ty east z => some (Raw.x 1 56 g.code (0) (0) (a.code) (b.code) 276 (0) (256 * (ty.code) + 64 * (0) + (b2n east 0 + b2n z 1)) (0))
  | .zaccX64 g east => some (Raw.x 1 56 g.code (0) (0) (0) (0) 277 (0) (256 * (0) + 64 * (0) + (b2n east 0)) (0))
  | .mxwaitX64 g => some (Raw.x 1 56 g.code (0) (0) (0) (0) 278 (0) (256 * (0) + 64 * (0) + (0)) (0))
  | .rgnb g a b c pitch => some (Raw.x 1 59 g.code (0) (0) (a.code) (b.code) 288 (c.code) (256 * (0) + 64 * (0) + (0)) (pitch.toNat))
  | .rfit g a b c => some (Raw.x 1 56 g.code (0) (0) (a.code) (b.code) 289 (c.code) (256 * (0) + 64 * (0) + (0)) (0))
  | .rgnq g d a b => some (Raw.x 1 56 g.code (0) (d.code) (a.code) (b.code) 290 (0) (256 * (0) + 64 * (0) + (0)) (0))
  | .coll g t a b c ty op kind grp => some (Raw.x 1 59 g.code (0) (t.val) (a.code) (b.code) 304 (c.code) (256 * (0) + 64 * (0) + (0)) ((16384 * ty.code) + (1024 * op.code) + (256 * kind.code) + grp.val))
  | .srdX64 g d a => some (Raw.x 1 56 g.code (0) (d.code) (a.code) (0) 512 (0) (256 * (0) + 64 * (0) + (0)) (0))
  | .swrX64 g d a => some (Raw.x 1 56 g.code (0) (d.code) (a.code) (0) 513 (0) (256 * (0) + 64 * (0) + (0)) (0))
  | .trapX64 g a => some (Raw.x 1 56 g.code (0) (0) (a.code) (0) 514 (0) (256 * (0) + 64 * (0) + (0)) (0))
  | .brkX64 g a => some (Raw.x 1 56 g.code (0) (0) (a.code) (0) 515 (0) (256 * (0) + 64 * (0) + (0)) (0))
  | .twrd g d a b => some (Raw.x 1 56 g.code (0) (d.code) (a.code) (b.code) 516 (0) (256 * (0) + 64 * (0) + (0)) (0))
  | .twwr g a b c => some (Raw.x 1 56 g.code (0) (0) (a.code) (b.code) 517 (c.code) (256 * (0) + 64 * (0) + (0)) (0))
  | .tres g => some (Raw.x 1 56 g.code (0) (0) (0) (0) 518 (0) (256 * (0) + 64 * (0) + (0)) (0))
  | .tkill g => some (Raw.x 1 56 g.code (0) (0) (0) (0) 519 (0) (256 * (0) + 64 * (0) + (0)) (0))
  | .launch g d a b => some (Raw.x 1 56 g.code (0) (d.code) (a.code) (b.code) 520 (0) (256 * (0) + 64 * (0) + (0)) (0))
  | .barX64 g => some (Raw.x 1 56 g.code (0) (0) (0) (0) 521 (0) (256 * (0) + 64 * (0) + (0)) (0))
  | .ccwaitX64 g d a => some (Raw.x 1 56 g.code (0) (d.code) (a.code) (0) 522 (0) (256 * (0) + 64 * (0) + (0)) (0))
  | .tkwaitX64 g => some (Raw.x 1 56 g.code (0) (0) (0) (0) 523 (0) (256 * (0) + 64 * (0) + (0)) (0))
  | .tkpassX64 g => some (Raw.x 1 56 g.code (0) (0) (0) (0) 524 (0) (256 * (0) + 64 * (0) + (0)) (0))
  | .starved _ _ => none
  | .forcedQueueEntry _ _ => none
  | .thresherZeroingDone _ => none
  | .thresherOpStart _ => none
  | .thresherOpComplete _ => none
  | .wainStart _ => none
  | .wainComplete _ _ => none
  | .cpyhCreditTimeout _ _ => none
  | .pfl2Complete _ _ => none
  | .collStepComplete _ _ _ => none
  | .registration _ => none
  | .registrationAck _ => none
  | .ownerRecall _ _ _ => none
  | .forwardedRead _ => none
  | .readRefusal _ => none
  | .writeBack _ => none
  | .l1Eviction _ _ => none
  | .redPublication _ _ => none
  | .l2LineEviction _ => none
  | .ccwaitPollTimer _ => none
  | .peerAccess _ _ => none
  | .hostAtomicSwap _ _ => none
  | .faultRecordDeferred => none
  | .answer _ => none
  | .invctx _ => none
  | .faultQueueReconfig _ _ _ => none
  | .registerWrite _ _ _ _ => none
  | .qtailDoorbell _ _ => none
  | .recordTake _ => none
  | .dependencesMet _ => none
  | .dealRound _ => none
  | .stookRetire _ => none
  | .cropConfirm _ => none
  | .partitionCommit _ => none
  | .reconfiguration _ => none
  | .parkEviction _ => none
  | .parkRestore _ => none
  | .trapStookStart _ => none
  | .preempt _ => none
  | .restoreParea _ => none
  | .restoreSarea _ => none
  | .prctlNone _ => none
  | .sliceExpiry _ => none
  | .preemptOperationEnd => none
  | .buildStep _ => none
  | .refitStart _ => none
  | .refitStep _ => none
  | .refitCommit _ => none
  | .urgentRefitStart _ => none
  | .bruvasLinkDown _ => none
  | .bruvasLinkUp _ _ _ => none
  | .routeRecompute _ => none
  | .hostLinkDown _ => none
  | .groupEntryWrite _ _ _ _ => none
  | .msixUnmask _ _ => none
  | .scanVisitStart _ => none
  | .scanMove _ => none
  | .scanResult _ _ => none
  | .rickKill _ => none
  | .patrolScrub _ => none
  | .reset => none
  | .functionReady _ _ => none
  | .firmwareBoot _ _ _ _ _ _ _ => none
  | .overtemp => none
  | .attestationStart => none
  | .attestationDone => none
  | .illegalEncoding => none
  | .instructionFetchFault => none
  | .homeReply _ => none
  | .atomicAtHome _ => none
  | .peerHomeReply _ _ _ => none
  | .hostMemoryAccess _ => none
  | .hostSnoopResponse _ _ => none
  | .hostLinkUp _ => none

/-- The words of a well-formed instruction, the first at the lowest address; none for a step of another agent. -/
def encode (i : Instr) : List Word :=
  match i.raw with
  | some r => r.words
  | none => []

end Sys2Proof
end

