-- ==== Sys2Proof/Config.lean ====
section
/-! DEFINITION. What an implementation fixes, and the free values: constants without a body, of which nothing can be
proved, so that a statement that holds of the model holds whatever they are. -/
namespace Sys2Proof.Config

/-- The moment and the agent of each step, where the spec leaves the order open (03 R61, R394): a number the step
reduces to one of the steps that can happen. -/
opaque choice : Nat → Nat
/-- How many free choices at most pass before the step that has waited longest is made: a bound that no rule gives (R394;
DESIGN CHOICE, log 7). -/
opaque patience : Nat
/-- A byte the spec leaves unspecified (10 R171, R174; 11 R185; 12 R221; 15 R274; 20 R350). -/
opaque freeByte : Nat → Byte
/-- A yes or no the spec leaves unspecified: old or new translation (16 R280, R282), old or new code word (02 R30),
a failed peer write performed or not (12 R223). -/
opaque freeBit : Nat → Bool
/-- The parameter words of a proposal the winnower forms itself (15 R273). -/
opaque proposal : Nat → List Byte
/-- The signature of an attestation report by the identity key (21 R364): a value of 384 bytes of its digest, of which nothing
is said but that. The private key is no value of the spec, and the model ties the signature to no certificate (DESIGN CHOICE,
log 136). -/
opaque signature : List Byte → List Byte
/-- The cycle of the device's clock in which each core leaves reset, before which nothing issues on it: counters of different
cores are not synchronised (06 R116; log 107). -/
opaque skew : Nat → Nat
/-- The home die of a line that an access from outside names by its physical address: the field stands in the page tables of the
software, which such an access does not walk (12 R208, 21 R361; log 135). -/
opaque lineDie : Nat → Nat
/-- The identity certificate chain (21 Table 21.2). -/
opaque certificate : Nat → Byte
opaque certLen : BitVec 12
/-- The SHA-256 hash of the key that signs firmware, fused in the device (21 R362). -/
opaque fusedKeyHash : List Byte
/-- The encoding of a key, modulus and exponent, that is hashed: the spec gives none (21 R362). -/
opaque keyBytes : Nat → Nat → List Byte
/-- The fused minimum security version (21 R362). -/
opaque fusedMinVersion : Nat

/-- The harvest map as fused: whether a core is held back as a spare. DESIGN CHOICE (log 2): every core is good, and
the two highest barns of each die are spare, which leaves the 80 usable cores a die that Table 0.1 asks for. -/
def fusedSpare (core : Nat) : Bool := decide (20 ≤ core % 88 / 4)
/-- Cores dead at test. DESIGN CHOICE (log 2): none. -/
def fusedDead (_core : Nat) : Bool := false

end Sys2Proof.Config
end

