-- ==== Sys2Proof/Machine/Num.lean ====
section
/-! DEFINITION. Number formats and exact arithmetic (01 R9 to R26, 07 R126).

A finite value is held exactly as m * 2^e. Every rounding goes through `roundPos`,
which takes an exact magnitude, or a magnitude known to lie strictly above
m * 2^e and below (m + 1) * 2^e (`sticky`). -/
namespace Sys2Proof.Num

/-- What a format does with a result beyond its range, and how it writes NaN (Tables 1.1, 1.3). -/
inductive Edge where
  /-- infinity and NaN as Table 1.1; overflow by the mode (Table 1.2) -/
  | ieee
  /-- E5M2: infinity and NaN exist; a finite overflow saturates in every mode -/
  | e5m2
  /-- E4M3: one NaN code, no infinity; overflow and infinity saturate -/
  | e4m3
  /-- E2M1: no NaN, no infinity; overflow and infinity saturate, NaN reads as +0 -/
  | e2m1
  deriving DecidableEq, Repr

/-- A floating-point format of Table 1.1. -/
structure Fmt where
  ebits : Nat
  fbits : Nat
  bias : Nat
  edge : Edge
  deriving DecidableEq, Repr

def f32 : Fmt := ⟨8, 23, 127, .ieee⟩
def f16 : Fmt := ⟨5, 10, 15, .ieee⟩
def bf16 : Fmt := ⟨8, 7, 127, .ieee⟩
def e5m2 : Fmt := ⟨5, 2, 15, .e5m2⟩
def e4m3 : Fmt := ⟨4, 3, 7, .e4m3⟩
def e2m1 : Fmt := ⟨2, 1, 1, .e2m1⟩
def acc40 : Fmt := ⟨8, 31, 127, .ieee⟩

/-- The bits of a code. -/
def Fmt.width (f : Fmt) : Nat := 1 + f.ebits + f.fbits
/-- The sign bit's weight. -/
def Fmt.signBit (f : Fmt) : Nat := 2 ^ (f.ebits + f.fbits)
/-- The code of +infinity, where there is one. -/
def Fmt.infCode (f : Fmt) : Nat := (2 ^ f.ebits - 1) * 2 ^ f.fbits
/-- The code of the largest finite value (Table 1.1). -/
def Fmt.maxCode (f : Fmt) : Nat :=
  match f.edge with
  | .ieee | .e5m2 => f.infCode - 1
  | .e4m3 => 2 ^ (f.ebits + f.fbits) - 2
  | .e2m1 => 2 ^ (f.ebits + f.fbits) - 1
/-- The canonical NaN (Table 1.1); for E2M1, which has none, +0 (Table 1.3). -/
def Fmt.nanCode (f : Fmt) : Nat :=
  match f.edge with
  | .ieee | .e5m2 => f.infCode + 2 ^ (f.fbits - 1)
  | .e4m3 => 2 ^ (f.ebits + f.fbits) - 1
  | .e2m1 => 0

/-- A value of a floating-point format: a finite one is (-1)^neg * m * 2^e. -/
inductive Val where
  | nan
  | inf (neg : Bool)
  | fin (neg : Bool) (m : Nat) (e : Int)
  deriving DecidableEq, Repr

/-- The value of a code (R10). -/
def Fmt.val (f : Fmt) (code : Nat) : Val :=
  let neg := decide (code / f.signBit % 2 = 1)
  let ex := code / 2 ^ f.fbits % 2 ^ f.ebits
  let fr := code % 2 ^ f.fbits
  let special := ex = 2 ^ f.ebits - 1
  let finite : Val :=
    if ex = 0 then .fin neg fr (1 - (f.bias : Int) - f.fbits)
    else .fin neg (2 ^ f.fbits + fr) ((ex : Int) - f.bias - f.fbits)
  match f.edge with
  | .ieee | .e5m2 => if special then (if fr = 0 then .inf neg else .nan) else finite
  | .e4m3 => if special ∧ fr = 2 ^ f.fbits - 1 then .nan else finite
  | .e2m1 => finite

def Val.isNan : Val → Bool
  | .nan => true
  | _ => false
def Val.isInf : Val → Bool
  | .inf _ => true
  | _ => false
def Val.isFin : Val → Bool
  | .fin .. => true
  | _ => false
def Val.isZero : Val → Bool
  | .fin _ 0 _ => true
  | _ => false
/-- The sign of a value; NaN counts as positive. -/
def Val.neg : Val → Bool
  | .nan => false
  | .inf n => n
  | .fin n _ _ => n
def Val.negate : Val → Val
  | .nan => .nan
  | .inf n => .inf (!n)
  | .fin n m e => .fin (!n) m e

/-- A signed exact dyadic number m * 2^e. -/
structure Dy where
  m : Int
  e : Int
  deriving DecidableEq, Repr

/-- Two to a power that is not negative. -/
def pow2 (k : Int) : Nat := 2 ^ k.toNat

/-- An exact sum. -/
def Dy.add (a b : Dy) : Dy :=
  let e := min a.e b.e
  ⟨a.m * pow2 (a.e - e) + b.m * pow2 (b.e - e), e⟩
/-- An exact product. -/
def Dy.mul (a b : Dy) : Dy := ⟨a.m * b.m, a.e + b.e⟩
def Dy.neg (a : Dy) : Dy := ⟨-a.m, a.e⟩
def Dy.zero : Dy := ⟨0, 0⟩
/-- Exact comparison: whether a < b. -/
def Dy.lt (a b : Dy) : Bool :=
  let e := min a.e b.e
  decide (a.m * pow2 (a.e - e) < b.m * pow2 (b.e - e))
/-- The finite value of a Val as a dyadic number (0 where it is not finite). -/
def Val.dy : Val → Dy
  | .fin n m e => ⟨if n then -(m : Int) else m, e⟩
  | _ => Dy.zero

/-- The number of bits of a magnitude. -/
def bitLen (m : Nat) : Nat := if m = 0 then 0 else Nat.log2 m + 1

/-- Whether a discarded part rounds the magnitude up: `odd` the last bit kept, `cmp` how the part
compares with one half, `inexact` whether anything is discarded (Table 1.2). -/
def roundsUp (rm : RM) (neg odd inexact : Bool) (cmp : Ordering) : Bool :=
  match rm with
  | .rn => match cmp with
    | .gt => true
    | .eq => odd
    | .lt => false
  | .rz => false
  | .ru => inexact && !neg
  | .rd => inexact && neg

/-- m * 2^e (or just above it, when sticky) rounded to a multiple of 2^q: the multiple. -/
def roundQuantum (rm : RM) (neg : Bool) (m : Nat) (e : Int) (sticky : Bool) (q : Int) : Nat :=
  if q ≤ e then m * pow2 (e - q) + (if sticky && roundsUp rm neg false true .lt then 1 else 0)
  else
    let d := pow2 (q - e)
    let n := m / d
    let r := m % d
    let c : Ordering := if 2 * r < d then .lt else if 2 * r = d then (if sticky then .gt else .eq) else .gt
    if roundsUp rm neg (n % 2 == 1) (r != 0 || sticky) c then n + 1 else n

/-- The code (without sign) of a magnitude rounded to the format's precision with no upper bound on the
exponent; codes above `maxCode` stand for magnitudes beyond the range. -/
def Fmt.roundMag (f : Fmt) (rm : RM) (neg : Bool) (m : Nat) (e : Int) (sticky : Bool) : Nat :=
  if m = 0 then 0 else
    let ex : Int := (bitLen m : Int) - 1 + e
    let emin : Int := 1 - (f.bias : Int)
    let q : Int := max ex emin - f.fbits
    let n := roundQuantum rm neg m e sticky q
    (q - (emin - f.fbits)).toNat * 2 ^ f.fbits + n

/-- A magnitude code with its sign. -/
def Fmt.withSign (f : Fmt) (neg : Bool) (mag : Nat) : Nat := if neg then f.signBit + mag else mag

/-- The code of an infinity in the format (Table 1.3). -/
def Fmt.infOf (f : Fmt) (neg : Bool) : Nat :=
  match f.edge with
  | .ieee | .e5m2 => f.withSign neg f.infCode
  | .e4m3 | .e2m1 => f.withSign neg f.maxCode

/-- The code of a finite result beyond the range (Tables 1.2, 1.3). -/
def Fmt.overflow (f : Fmt) (rm : RM) (neg : Bool) : Nat :=
  match f.edge with
  | .ieee =>
    let toInf := match rm with
      | .rn => true
      | .rz => false
      | .ru => !neg
      | .rd => neg
    f.withSign neg (if toInf then f.infCode else f.maxCode)
  | _ => f.withSign neg f.maxCode

/-- Rounds an exact magnitude with its sign to the format (R13, R14). A zero magnitude keeps the sign. -/
def Fmt.roundPos (f : Fmt) (rm : RM) (neg : Bool) (m : Nat) (e : Int) (sticky : Bool) : Nat :=
  let c := f.roundMag rm neg m e sticky
  if f.maxCode < c then f.overflow rm neg else f.withSign neg c

/-- Rounds an exact number; an exact zero takes the sign given. -/
def Fmt.roundDy (f : Fmt) (rm : RM) (zeroNeg : Bool) (x : Dy) : Nat :=
  if x.m = 0 then f.withSign zeroNeg 0
  else f.roundPos rm (x.m < 0) x.m.natAbs x.e false

/-- Rounds a value to the format, with Table 1.3's special cases. -/
def Fmt.roundVal (f : Fmt) (rm : RM) : Val → Nat
  | .nan => f.nanCode
  | .inf n => f.infOf n
  | .fin n m e => f.roundPos rm n m e false

/-- Whether rounding with no bound on the exponent leaves the format's finite range (08 R144). -/
def Fmt.beyond (f : Fmt) (rm : RM) : Val → Bool
  | .fin n m e => decide (f.maxCode < f.roundMag rm n m e false)
  | _ => false

/-- The sign of an exact zero sum of two terms (R11): the common sign of two zeros, else - in RD only. -/
def zeroSumSign (rm : RM) (a b : Bool) : Bool :=
  if a = b then a else rm = .rd

/-- A sum of exact values (R11, R12, 07 R121). -/
def Fmt.addVal (f : Fmt) (rm : RM) (a b : Val) : Nat :=
  match a, b with
  | .nan, _ => f.nanCode
  | _, .nan => f.nanCode
  | .inf x, .inf y => if x = y then f.infOf x else f.nanCode
  | .inf x, .fin .. => f.infOf x
  | .fin .., .inf y => f.infOf y
  | .fin na ma ea, .fin nb mb eb =>
    let t := (Val.fin na ma ea).dy.add (Val.fin nb mb eb).dy
    f.roundDy rm (if ma = 0 ∧ mb = 0 then zeroSumSign rm na nb else rm = .rd) t

/-- An exact product as a value (R12, 07 R121). -/
def mulVal (a b : Val) : Val :=
  match a, b with
  | .nan, _ => .nan
  | _, .nan => .nan
  | .inf x, .inf y => .inf (x != y)
  | .inf x, .fin n m _ => if m = 0 then .nan else .inf (x != n)
  | .fin n m _, .inf y => if m = 0 then .nan else .inf (n != y)
  | .fin na ma ea, .fin nb mb eb => .fin (na != nb) (ma * mb) (ea + eb)

/-- A * B rounded once. -/
def Fmt.mul (f : Fmt) (rm : RM) (a b : Val) : Nat := f.roundVal rm (mulVal a b)
/-- A * B + C rounded once (07 R121). -/
def Fmt.fma (f : Fmt) (rm : RM) (a b c : Val) : Nat := f.addVal rm (mulVal a b) c

/-- An exact sum of several values rounded once (R25; 07 R122): NaN, then infinities, then the exact sum.
A zero sum of terms that are all zeros of one sign keeps that sign; any other zero sum has R11's sign. -/
def Fmt.sumVals (f : Fmt) (rm : RM) (ts : List Val) : Nat :=
  let pos := ts.any (fun t => t = .inf false)
  let negI := ts.any (fun t => t = .inf true)
  if ts.any Val.isNan then f.nanCode
  else if pos && negI then f.nanCode
  else if pos then f.infOf false
  else if negI then f.infOf true
  else
    let t := ts.foldl (fun acc v => acc.add v.dy) Dy.zero
    let allNegZero := ts.all (fun v => v.isZero && v.neg)
    let allPosZero := ts.all (fun v => v.isZero && !v.neg)
    f.roundDy rm (if allNegZero then true else if allPosZero then false else rm = .rd) t

/-- Floor of a square root, one result bit a step from bit n - 1 down. -/
def isqrtFrom : Nat → Nat → Nat → Nat
  | 0, _, r => r
  | n + 1, x, r =>
    let c := r + 2 ^ n
    isqrtFrom n x (if c * c ≤ x then c else r)
/-- Floor of a square root. -/
def isqrt (x : Nat) : Nat := isqrtFrom (bitLen x / 2 + 1) x 0

/-- The reciprocal, correctly rounded (07 R126, Table 7.4). -/
def Fmt.rcp (f : Fmt) : Val → Nat
  | .nan => f.nanCode
  | .inf n => f.withSign n 0
  | .fin n m e =>
    if m = 0 then f.infOf n
    else
      let k := bitLen m + 2 * f.fbits + 16
      let q := 2 ^ k / m
      f.roundPos .rn n q (-(k : Int) - e) (2 ^ k % m != 0)

/-- The square root, correctly rounded (07 R126, Table 7.4). -/
def Fmt.sqrt (f : Fmt) : Val → Nat
  | .nan => f.nanCode
  | .inf n => if n then f.nanCode else f.infOf false
  | .fin n m e =>
    if m = 0 then f.withSign n 0
    else if n then f.nanCode
    else
      let k := 2 * f.fbits + 16
      let odd := e % 2 ≠ 0
      let x := (if odd then 2 * m else m) * 4 ^ k
      let r := isqrt x
      f.roundPos .rn false r ((if odd then e - 1 else e) / 2 - k) (r * r != x)

/-- The reciprocal square root, correctly rounded (07 R126, Table 7.4). -/
def Fmt.rsq (f : Fmt) : Val → Nat
  | .nan => f.nanCode
  | .inf n => if n then f.nanCode else f.withSign false 0
  | .fin n m e =>
    if m = 0 then f.infOf n
    else if n then f.nanCode
    else
      let odd := e % 2 ≠ 0
      let m2 := if odd then 2 * m else m
      let e2 := if odd then e - 1 else e
      let k := bitLen m2 + 2 * f.fbits + 16
      let y := 4 ^ k / m2
      let r := isqrt y
      f.roundPos .rn false r (-(k : Int) - e2 / 2) (r * r * m2 != 4 ^ k)

/-- floor(ln 2 * 2^256). -/
def ln2Fix : Nat := 80260960185991308862233904206310070533990667611589946606122867505419956976171

/-- One term after another of sum y^k / k!, in fixed point with w fraction bits. -/
def expSeries : Nat → Nat → Nat → Nat → Nat → Nat → Nat
  | 0, _, _, _, _, acc => acc
  | n + 1, k, w, y, term, acc =>
    let t := term * y / 2 ^ w / k
    expSeries n (k + 1) w y t (acc + t)

/-- 2^x for a fraction x given with w fraction bits, in fixed point: within 2^10 units of the exact value. -/
def exp2Frac (w x : Nat) : Nat :=
  let y := x * (ln2Fix / 2 ^ (256 - w)) / 2 ^ w
  expSeries 80 1 w y (2 ^ w) (2 ^ w)

/-- 2^x, correctly rounded (07 R126, Table 7.4). Integers are exact; any other power is irrational, and
240 fraction bits separate it from every midpoint of the 16- and 32-bit formats. -/
def Fmt.exp2 (f : Fmt) : Val → Nat
  | .nan => f.nanCode
  | .inf n => if n then f.withSign false 0 else f.infOf false
  | .fin n m e =>
    if m = 0 then f.roundPos .rn false 1 0 false
    else if (bitLen m : Int) + e > 9 then
      (if n then f.roundPos .rn false 1 (-1000) false else f.overflow .rn false)
    else
      let w : Nat := 240
      let scaled : Int := (if n then -(m : Int) else m) * pow2 (e + (w : Int))
      let k := scaled / (2 ^ w : Nat)
      let fr := (scaled % (2 ^ w : Nat)).toNat
      if fr = 0 then f.roundPos .rn false 1 k false
      else f.roundPos .rn false (exp2Frac w fr) (k - (w : Int)) true

/-- The fraction bits of log2 y for 1 <= y < 2 (y in fixed point, w fraction bits), by repeated squaring. -/
def log2Bits : Nat → Nat → Nat → Nat → Nat
  | 0, _, _, acc => acc
  | n + 1, w, y, acc =>
    let y2 := y * y / 2 ^ w
    if 2 ^ (w + 1) ≤ y2 then log2Bits n w (y2 / 2) (2 * acc + 1)
    else log2Bits n w y2 (2 * acc)

/-- log2 x, correctly rounded (07 R126, Table 7.4). Powers of two are exact; any other logarithm is
irrational, and 160 fraction bits separate it from every midpoint of the 16- and 32-bit formats. -/
def Fmt.log2 (f : Fmt) : Val → Nat
  | .nan => f.nanCode
  | .inf n => if n then f.nanCode else f.infOf false
  | .fin n m e =>
    if m = 0 then f.infOf true
    else if n then f.nanCode
    else
      let l := bitLen m
      let k : Int := (l : Int) - 1 + e
      let w := 200
      let y := m * 2 ^ w / 2 ^ (l - 1)
      if m = 2 ^ (l - 1) then f.roundDy .rn false ⟨k, 0⟩
      else
        let fb := log2Bits 160 w y 0
        let t : Int := k * (2 ^ 160 : Nat) + fb
        if t < 0 then f.roundPos .rn true (t.natAbs - 1) (-160) true
        else f.roundPos .rn false t.toNat (-160) true

/-- An exact number rounded to an integer by the mode (R14). -/
def roundInt (rm : RM) (x : Dy) : Int :=
  let n := roundQuantum rm (x.m < 0) x.m.natAbs x.e false 0
  if x.m < 0 then -(n : Int) else n

/-- An integer clamped to a range. -/
def clamp (lo hi x : Int) : Int := if x < lo then lo else if hi < x then hi else x

/-- Stochastic rounding of a value by a 16-bit operand (R15); an exact value is returned unchanged. -/
def Fmt.roundStoch (f : Fmt) (g : Nat) : Val → Nat
  | .nan => f.nanCode
  | .inf n => f.infOf n
  | .fin n m e =>
    let lo := f.roundMag .rz n m e false
    if m = 0 then f.withSign n 0
    else if f.maxCode < lo ∨ (lo = f.maxCode ∧ Dy.lt (f.val lo).dy ⟨m, e⟩) then f.roundPos .rn n m e false
    else if !Dy.lt (f.val lo).dy ⟨m, e⟩ then f.withSign n lo
    else
      match f.val lo, f.val (lo + 1) with
      | .fin _ ml el, .fin _ mh eh =>
        let lw : Dy := ⟨ml, el⟩
        let d := (⟨m, e⟩ : Dy).add lw.neg          -- |x| - |lo|
        let u := (⟨mh, eh⟩ : Dy).add lw.neg        -- |hi| - |lo|
        -- g / 65536 < d / u
        if Dy.lt ((⟨g, 0⟩ : Dy).mul u) ((⟨65536, 0⟩ : Dy).mul d) then f.withSign n (lo + 1) else f.withSign n lo
      | _, _ => f.withSign n lo

/-- A total order on numbers for FMIN and FMAX: -0 below +0 (07 R123). -/
def Val.below (a b : Val) : Bool :=
  match a, b with
  | .inf true, .inf true => false
  | .inf true, _ => true
  | _, .inf true => false
  | .inf false, _ => false
  | _, .inf false => true
  | .fin na ma ea, .fin nb mb eb =>
    if ma = 0 ∧ mb = 0 then na && !nb
    else Dy.lt (Val.fin na ma ea).dy (Val.fin nb mb eb).dy
  | _, _ => false

/-- Ordered comparison of two numbers, +0 equal to -0; none when unordered (07 R124). -/
def Val.compare (a b : Val) : Option Ordering :=
  if a.isNan || b.isNan then none
  else
    let z (v : Val) : Val := if v.isZero then .fin false 0 0 else v
    if Val.below (z a) (z b) then some .lt
    else if Val.below (z b) (z a) then some .gt
    else some .eq

/-- The value of an E8M0 code's exponent, none for the NaN code (R17). -/
def e8m0 (code : Nat) : Option Int := if code % 256 = 255 then none else some ((code % 256 : Nat) - 127)

/-- The value of an SPT8 code as a dyadic number (R20). -/
def spt8 (code : Nat) : Dy :=
  let a := code / 128 % 2
  let ka := code / 16 % 8
  let b := code / 8 % 2
  let kb := code % 8
  ⟨(if a = 1 then -1 else 1) * (2 ^ (7 - ka) : Nat) + (if b = 1 then -1 else 1) * (2 ^ (7 - kb) : Nat), -7⟩

/-- The value of an SCL8 code (R21). -/
def scl8 (code : Nat) : Dy := ⟨(16 + code % 16 : Nat), (code / 16 % 16 : Nat) - 7 - 4⟩

/-- floor(log2) of a positive dyadic magnitude. -/
def floorLog2 (m : Nat) (e : Int) : Int := (bitLen m : Int) - 1 + e

/-- Quantisation of 32 values into an MX block: the scale code and the element codes (R19). -/
def mxQuantise (f : Fmt) (emax : Int) (xs : List Val) : Nat × List Nat :=
  if xs.any (fun x => x.isNan || x.isInf) then (255, xs.map (fun _ => f.nanCode))
  else
    let amax := xs.foldl (fun (a : Dy) v =>
      match v with
      | .fin _ m e => if Dy.lt a ⟨m, e⟩ then ⟨m, e⟩ else a
      | _ => a) Dy.zero
    if amax.m = 0 then (0, xs.map (fun _ => 0))
    else
      let k := clamp (-127) 127 (floorLog2 amax.m.natAbs amax.e - emax)
      ((k + 127).toNat, xs.map (fun v =>
        match v with
        | .fin n m e => f.roundPos .rn n m (e - k) false
        | _ => 0))

end Sys2Proof.Num
end

