-- ==== Sys2Proof/Machine/Operands.lean ====
section
/-! DEFINITION. What an instruction's fields name: its guard, form, issue class, the registers and predicates it
reads and writes, and whether it is privileged (02 R31 to R46, Table 3.1). -/
namespace Sys2Proof

/-- The form of an instruction's words (Table 2.1). -/
inductive Form where
  | b32 | x64 | i64 | m64 | x96 | event
  deriving DecidableEq, Repr

/-- Bytes of a form. -/
def Form.bytes : Form → Nat
  | .b32 => 4 | .x64 => 8 | .i64 => 8 | .m64 => 8 | .x96 => 12 | .event => 0

/-- Issue classes (Table 3.1); `event` for a step of another agent. -/
inductive Cls where
  | alu | trans | mem | thresher | uniform | event
  deriving DecidableEq, Repr

/-- A group of registers that an instruction names. -/
structure RegUse where
  base : Reg
  count : Nat
  deriving DecidableEq, Repr

def Dst.reg : Dst → Reg
  | .v n => .v n
  | _ => .z
def SReg.reg : SReg → Reg
  | .s n => .s n
  | .z => .z
def SReg.optReg : Option SReg → Reg
  | some r => r.reg
  | none => .z
def PlogArgs.dstReg : PlogArgs → Reg
  | .pack d => d.reg
  | _ => .z
def PlogArgs.srcReg : PlogArgs → Reg
  | .unpack a => a
  | _ => .z
def PlogArgs.preds : PlogArgs → List Pred
  | .and _ a b => [a, b] | .or _ a b => [a, b] | .xor _ a b => [a, b] | .andn _ a b => [a, b]
  | .mov _ a => [a] | .not _ a => [a]
  | .pack _ => [.p 0, .p 1, .p 2, .p 3, .p 4, .p 5, .p 6]
  | .unpack _ => []
def PlogArgs.pdsts : PlogArgs → List Nat
  | .and d _ _ => [d.val] | .or d _ _ => [d.val] | .xor d _ _ => [d.val] | .andn d _ _ => [d.val]
  | .mov d _ => [d.val] | .not d _ => [d.val] | .pack _ => [] | .unpack _ => [0, 1, 2, 3, 4, 5, 6]
def VoteDst.dstReg : VoteDst → Reg
  | .bal r => r
  | _ => .z
def VoteDst.pdsts : VoteDst → List Nat
  | .any d => [d.val] | .all d => [d.val] | .bal _ => []
def Pfl2Args.ctrReg : Pfl2Args → Reg
  | .cc b => b.reg
  | .tag _ => .z
def GOff.handleReg : GOff → Reg
  | .fit h => .s h
  | .off _ => .z
def Combine.pred : Combine → Pred
  | .none => .t | .and p => p | .or p => p | .xor p => p
def optPDst : Option (Fin 7) → List Nat
  | none => [] | some p => [p.val]

/-- The guard (02 R35). -/
def Instr.guard : Instr → Pred
  | .iaddB32 g _ _ _ => g
  | .isubB32 g _ _ _ => g
  | .imulB32 g _ _ _ => g
  | .imulhS32B32 g _ _ _ => g
  | .imulhZ32B32 g _ _ _ => g
  | .iminS32B32 g _ _ _ => g
  | .imaxS32B32 g _ _ _ => g
  | .iminZ32B32 g _ _ _ => g
  | .imaxZ32B32 g _ _ _ => g
  | .shlB32 g _ _ _ => g
  | .shrZ32B32 g _ _ _ => g
  | .shrS32B32 g _ _ _ => g
  | .andB32 g _ _ _ => g
  | .orB32 g _ _ _ => g
  | .xorB32 g _ _ _ => g
  | .andnB32 g _ _ _ => g
  | .movB32 g _ _ => g
  | .popcB32 g _ _ => g
  | .clzB32 g _ _ => g
  | .brevB32 g _ _ => g
  | .iadd64B32 g _ _ _ => g
  | .iabsB32 g _ _ => g
  | .inegB32 g _ _ => g
  | .faddF32B32 g _ _ _ => g
  | .fsubF32B32 g _ _ _ => g
  | .fmulF32B32 g _ _ _ => g
  | .fminF32B32 g _ _ _ => g
  | .fmaxF32B32 g _ _ _ => g
  | .frcpF32B32 g _ _ => g
  | .frsqF32B32 g _ _ => g
  | .fsqrtF32B32 g _ _ => g
  | .fexp2F32B32 g _ _ => g
  | .flog2F32B32 g _ _ => g
  | .faddBf16B32 g _ _ _ => g
  | .fmulBf16B32 g _ _ _ => g
  | .faddF16B32 g _ _ _ => g
  | .fmulF16B32 g _ _ _ => g
  | .fclassF32B32 g _ _ => g
  | .braB32 g _ => g
  | .retB32 g _ => g
  | .exitB32 g => g
  | .yieldB32 g => g
  | .nopB32 g => g
  | .mkcurB32 g _ => g
  | .joinB32 g _ => g
  | .leaveB32 g _ => g
  | .raddF32B32 g _ _ _ => g
  | .unaddF32B32 g _ _ _ => g
  | .rmulF32B32 g _ _ _ => g
  | .unmulF32B32 g _ _ _ => g
  | .rreluF32B32 g _ _ => g
  | .unreluF32B32 g _ _ => g
  | .rmulS32B32 g _ _ _ => g
  | .unmulS32B32 g _ _ _ => g
  | .iaddX64 g _ _ _ _ _ => g
  | .isubX64 g _ _ _ _ _ => g
  | .imulX64 g _ _ _ _ => g
  | .imulhX64 g _ _ _ _ => g
  | .imad g _ _ _ _ _ => g
  | .imadw g _ _ _ _ _ => g
  | .iadd64X64 g _ _ _ _ => g
  | .leaX64 g _ _ _ _ _ => g
  | .iabsX64 g _ _ _ => g
  | .inegX64 g _ _ _ => g
  | .iminX64 g _ _ _ _ => g
  | .imaxX64 g _ _ _ _ => g
  | .shlX64 g _ _ _ _ _ => g
  | .shrX64 g _ _ _ _ _ => g
  | .shf g _ _ _ _ _ _ _ => g
  | .rot g _ _ _ _ _ => g
  | .andX64 g _ _ _ _ => g
  | .orX64 g _ _ _ _ => g
  | .xorX64 g _ _ _ _ => g
  | .andnX64 g _ _ _ _ => g
  | .tern g _ _ _ _ _ _ => g
  | .popcX64 g _ _ _ => g
  | .clzX64 g _ _ _ => g
  | .brevX64 g _ _ _ => g
  | .bfx g _ _ _ _ _ => g
  | .bfi g _ _ _ _ _ _ => g
  | .icmp g _ _ _ _ _ _ => g
  | .sel g _ _ _ _ _ _ => g
  | .plog g _ => g
  | .movX64 g _ _ _ => g
  | .idp4 g _ _ _ _ _ _ => g
  | .xch g _ _ _ _ _ _ => g
  | .vote g _ _ _ => g
  | .match g _ _ _ _ => g
  | .redux g _ _ _ _ => g
  | .movi g _ _ => g
  | .iaddI64 g _ _ _ => g
  | .imulI64 g _ _ _ => g
  | .andI64 g _ _ _ => g
  | .orI64 g _ _ _ => g
  | .xorI64 g _ _ _ => g
  | .shlI64 g _ _ _ => g
  | .shrI64 g _ _ _ _ => g
  | .iminI64 g _ _ _ => g
  | .imaxI64 g _ _ _ => g
  | .leaI64 g _ _ _ => g
  | .braI64 g _ => g
  | .call g _ _ => g
  | .faddX64 g _ _ _ _ _ => g
  | .fsubX64 g _ _ _ _ _ => g
  | .fmulX64 g _ _ _ _ _ => g
  | .ffma g _ _ _ _ _ _ => g
  | .fminX64 g _ _ _ _ _ => g
  | .fmaxX64 g _ _ _ _ _ => g
  | .fcmp g _ _ _ _ _ _ _ => g
  | .frcpX64 g _ _ _ => g
  | .frsqX64 g _ _ _ => g
  | .fsqrtX64 g _ _ _ => g
  | .fexp2X64 g _ _ _ => g
  | .flog2X64 g _ _ _ => g
  | .fdp2 g _ _ _ _ _ _ => g
  | .cvt g _ _ _ _ _ _ => g
  | .cvtsr g _ _ _ _ _ _ => g
  | .fclassX64 g _ _ _ => g
  | .dquant g _ _ _ _ _ _ => g
  | .brx g _ => g
  | .callx g _ _ => g
  | .retX64 g _ => g
  | .exitX64 g => g
  | .yieldX64 g => g
  | .nopX64 g => g
  | .mkcurX64 g _ => g
  | .mktos g _ _ => g
  | .stomk g _ _ => g
  | .joinX64 g _ => g
  | .leaveX64 g _ => g
  | .waitm g _ => g
  | .mklog g _ _ => g
  | .raddX64 g _ _ _ _ => g
  | .rmulX64 g _ _ _ _ _ => g
  | .rcvt g _ _ _ _ _ _ => g
  | .rreluX64 g _ _ => g
  | .rshr g _ _ _ _ => g
  | .unaddX64 g _ _ _ => g
  | .unmulX64 g _ _ _ _ => g
  | .uncvt g _ _ _ _ _ => g
  | .unreluX64 g _ _ => g
  | .unshr g _ _ _ _ => g
  | .chpush g _ => g
  | .chpop g _ => g
  | .chdrop g _ => g
  | .chdepth g _ => g
  | .fbinit g _ _ => g
  | .fbarr g _ _ _ => g
  | .fbwait g _ _ => g
  | .fbtest g _ _ _ => g
  | .mma g _ _ _ _ _ _ => g
  | .dmma g _ _ _ _ _ => g
  | .ldg g _ _ _ _ _ _ => g
  | .ldgSigned g _ _ _ _ _ _ => g
  | .ldgU g _ _ _ _ _ _ _ => g
  | .stg g _ _ _ _ _ _ => g
  | .stgU g _ _ _ _ _ _ => g
  | .lda g _ _ _ _ => g
  | .ldaSigned g _ _ _ _ => g
  | .sta g _ _ _ _ => g
  | .ldw g _ _ _ _ => g
  | .ldwSigned g _ _ _ _ => g
  | .stw g _ _ _ _ => g
  | .ldc g _ _ _ _ => g
  | .ldcSigned g _ _ _ _ => g
  | .stc g _ _ _ _ => g
  | .aatom g _ _ _ _ _ _ _ _ => g
  | .invr g _ _ _ _ => g
  | .inva g _ => g
  | .phbeg g _ _ _ => g
  | .phend g _ _ _ => g
  | .pfl1 g _ _ _ => g
  | .atom g _ _ _ _ _ _ _ _ => g
  | .cas g _ _ _ _ _ _ _ => g
  | .red g _ _ _ _ _ _ _ => g
  | .waita g _ _ _ _ _ _ _ => g
  | .wake g _ _ _ _ => g
  | .fence g _ _ => g
  | .fld g _ _ _ _ => g
  | .fst g _ _ _ => g
  | .saddB32 g _ _ _ => g
  | .ssubB32 g _ _ _ => g
  | .smulB32 g _ _ _ => g
  | .sadd64B32 g _ _ _ => g
  | .sshlB32 g _ _ _ => g
  | .sshrZ32B32 g _ _ _ => g
  | .sshrS32B32 g _ _ _ => g
  | .sandB32 g _ _ _ => g
  | .sorB32 g _ _ _ => g
  | .sxorB32 g _ _ _ => g
  | .sminS32B32 g _ _ _ => g
  | .smaxS32B32 g _ _ _ => g
  | .sminZ32B32 g _ _ _ => g
  | .smaxZ32B32 g _ _ _ => g
  | .smovB32 g _ _ => g
  | .spopcB32 g _ _ => g
  | .lanerdB32 g _ _ _ => g
  | .lanewrB32 g _ _ _ => g
  | .pwaitAnyB32 g _ _ => g
  | .pwaitAllB32 g _ _ => g
  | .pfindB32 g _ _ => g
  | .pclrB32 g _ => g
  | .mxacqB32 g => g
  | .mxtryB32 g _ => g
  | .mxrelB32 g => g
  | .mxwaitB32 g => g
  | .zaccSB32 g => g
  | .zaccEB32 g => g
  | .srdB32 g _ _ => g
  | .swrB32 g _ _ => g
  | .trapB32 g _ => g
  | .brkB32 g _ => g
  | .barB32 g => g
  | .tkwaitB32 g => g
  | .tkpassB32 g => g
  | .ccwaitB32 g _ _ => g
  | .saddX64 g _ _ _ _ _ => g
  | .ssubX64 g _ _ _ _ _ => g
  | .smulX64 g _ _ _ _ => g
  | .smad g _ _ _ _ _ => g
  | .sadd64X64 g _ _ _ _ => g
  | .sleaX64 g _ _ _ _ _ => g
  | .sshlX64 g _ _ _ _ _ => g
  | .sshrX64 g _ _ _ _ _ => g
  | .sandX64 g _ _ _ _ => g
  | .sorX64 g _ _ _ _ => g
  | .sxorX64 g _ _ _ _ => g
  | .sminX64 g _ _ _ _ => g
  | .smaxX64 g _ _ _ _ => g
  | .scmp g _ _ _ _ _ _ => g
  | .ssel g _ _ _ _ _ _ => g
  | .smovX64 g _ _ _ => g
  | .spopcX64 g _ _ _ => g
  | .lanerdX64 g _ _ _ _ => g
  | .lanewrX64 g _ _ _ _ => g
  | .smovi g _ _ => g
  | .saddI64 g _ _ _ => g
  | .smulI64 g _ _ _ => g
  | .sandI64 g _ _ _ => g
  | .sorI64 g _ _ _ => g
  | .sxorI64 g _ _ _ => g
  | .sshlI64 g _ _ _ => g
  | .sshrI64 g _ _ _ _ => g
  | .sminI64 g _ _ _ => g
  | .smaxI64 g _ _ _ => g
  | .sleaI64 g _ _ _ => g
  | .cpy g _ _ _ _ _ _ => g
  | .cpy2 g _ _ _ _ _ _ _ => g
  | .cpyh g _ _ _ _ _ _ => g
  | .pfl2 g _ _ _ => g
  | .pwaitX64 g _ _ _ => g
  | .pfindX64 g _ _ => g
  | .pclrX64 g _ => g
  | .pstat g _ _ => g
  | .mxacqX64 g => g
  | .mxtryX64 g _ => g
  | .mxrelX64 g => g
  | .stld g _ _ _ _ _ _ _ _ => g
  | .drain g _ _ _ _ _ => g
  | .zaccX64 g _ => g
  | .mxwaitX64 g => g
  | .rgnb g _ _ _ _ => g
  | .rfit g _ _ _ => g
  | .rgnq g _ _ _ => g
  | .coll g _ _ _ _ _ _ _ _ => g
  | .srdX64 g _ _ => g
  | .swrX64 g _ _ => g
  | .trapX64 g _ => g
  | .brkX64 g _ => g
  | .twrd g _ _ _ => g
  | .twwr g _ _ _ => g
  | .tres g => g
  | .tkill g => g
  | .launch g _ _ _ => g
  | .barX64 g => g
  | .ccwaitX64 g _ _ => g
  | .tkwaitX64 g => g
  | .tkpassX64 g => g
  | .starved _ _ => .t
  | .forcedQueueEntry _ _ => .t
  | .thresherZeroingDone _ => .t
  | .thresherOpStart _ => .t
  | .thresherOpComplete _ => .t
  | .wainStart _ => .t
  | .wainComplete _ _ => .t
  | .cpyhCreditTimeout _ _ => .t
  | .pfl2Complete _ _ => .t
  | .collStepComplete _ _ _ => .t
  | .registration _ => .t
  | .registrationAck _ => .t
  | .ownerRecall _ _ _ => .t
  | .forwardedRead _ => .t
  | .readRefusal _ => .t
  | .writeBack _ => .t
  | .l1Eviction _ _ => .t
  | .redPublication _ _ => .t
  | .l2LineEviction _ => .t
  | .ccwaitPollTimer _ => .t
  | .peerAccess _ _ => .t
  | .hostAtomicSwap _ _ => .t
  | .faultRecordDeferred => .t
  | .answer _ => .t
  | .invctx _ => .t
  | .faultQueueReconfig _ _ _ => .t
  | .registerWrite _ _ _ _ => .t
  | .qtailDoorbell _ _ => .t
  | .recordTake _ => .t
  | .dependencesMet _ => .t
  | .dealRound _ => .t
  | .stookRetire _ => .t
  | .cropConfirm _ => .t
  | .partitionCommit _ => .t
  | .reconfiguration _ => .t
  | .parkEviction _ => .t
  | .parkRestore _ => .t
  | .trapStookStart _ => .t
  | .preempt _ => .t
  | .restoreParea _ => .t
  | .restoreSarea _ => .t
  | .prctlNone _ => .t
  | .sliceExpiry _ => .t
  | .preemptOperationEnd => .t
  | .buildStep _ => .t
  | .refitStart _ => .t
  | .refitStep _ => .t
  | .refitCommit _ => .t
  | .urgentRefitStart _ => .t
  | .bruvasLinkDown _ => .t
  | .bruvasLinkUp _ _ _ => .t
  | .routeRecompute _ => .t
  | .hostLinkDown _ => .t
  | .groupEntryWrite _ _ _ _ => .t
  | .msixUnmask _ _ => .t
  | .scanVisitStart _ => .t
  | .scanMove _ => .t
  | .scanResult _ _ => .t
  | .rickKill _ => .t
  | .patrolScrub _ => .t
  | .reset => .t
  | .functionReady _ _ => .t
  | .firmwareBoot _ _ _ _ _ _ _ => .t
  | .overtemp => .t
  | .attestationStart => .t
  | .attestationDone => .t
  | .illegalEncoding => .t
  | .instructionFetchFault => .t
  | .homeReply _ => .t
  | .atomicAtHome _ => .t
  | .peerHomeReply _ _ _ => .t
  | .hostMemoryAccess _ => .t
  | .hostSnoopResponse _ _ => .t
  | .hostLinkUp _ => .t

/-- The form of the words (Table 2.1), or that there are none. -/
def Instr.form : Instr → Form
  | .iaddB32 _ _ _ _ => .b32
  | .isubB32 _ _ _ _ => .b32
  | .imulB32 _ _ _ _ => .b32
  | .imulhS32B32 _ _ _ _ => .b32
  | .imulhZ32B32 _ _ _ _ => .b32
  | .iminS32B32 _ _ _ _ => .b32
  | .imaxS32B32 _ _ _ _ => .b32
  | .iminZ32B32 _ _ _ _ => .b32
  | .imaxZ32B32 _ _ _ _ => .b32
  | .shlB32 _ _ _ _ => .b32
  | .shrZ32B32 _ _ _ _ => .b32
  | .shrS32B32 _ _ _ _ => .b32
  | .andB32 _ _ _ _ => .b32
  | .orB32 _ _ _ _ => .b32
  | .xorB32 _ _ _ _ => .b32
  | .andnB32 _ _ _ _ => .b32
  | .movB32 _ _ _ => .b32
  | .popcB32 _ _ _ => .b32
  | .clzB32 _ _ _ => .b32
  | .brevB32 _ _ _ => .b32
  | .iadd64B32 _ _ _ _ => .b32
  | .iabsB32 _ _ _ => .b32
  | .inegB32 _ _ _ => .b32
  | .faddF32B32 _ _ _ _ => .b32
  | .fsubF32B32 _ _ _ _ => .b32
  | .fmulF32B32 _ _ _ _ => .b32
  | .fminF32B32 _ _ _ _ => .b32
  | .fmaxF32B32 _ _ _ _ => .b32
  | .frcpF32B32 _ _ _ => .b32
  | .frsqF32B32 _ _ _ => .b32
  | .fsqrtF32B32 _ _ _ => .b32
  | .fexp2F32B32 _ _ _ => .b32
  | .flog2F32B32 _ _ _ => .b32
  | .faddBf16B32 _ _ _ _ => .b32
  | .fmulBf16B32 _ _ _ _ => .b32
  | .faddF16B32 _ _ _ _ => .b32
  | .fmulF16B32 _ _ _ _ => .b32
  | .fclassF32B32 _ _ _ => .b32
  | .braB32 _ _ => .b32
  | .retB32 _ _ => .b32
  | .exitB32 _ => .b32
  | .yieldB32 _ => .b32
  | .nopB32 _ => .b32
  | .mkcurB32 _ _ => .b32
  | .joinB32 _ _ => .b32
  | .leaveB32 _ _ => .b32
  | .raddF32B32 _ _ _ _ => .b32
  | .unaddF32B32 _ _ _ _ => .b32
  | .rmulF32B32 _ _ _ _ => .b32
  | .unmulF32B32 _ _ _ _ => .b32
  | .rreluF32B32 _ _ _ => .b32
  | .unreluF32B32 _ _ _ => .b32
  | .rmulS32B32 _ _ _ _ => .b32
  | .unmulS32B32 _ _ _ _ => .b32
  | .iaddX64 _ _ _ _ _ _ => .x64
  | .isubX64 _ _ _ _ _ _ => .x64
  | .imulX64 _ _ _ _ _ => .x64
  | .imulhX64 _ _ _ _ _ => .x64
  | .imad _ _ _ _ _ _ => .x64
  | .imadw _ _ _ _ _ _ => .x64
  | .iadd64X64 _ _ _ _ _ => .x64
  | .leaX64 _ _ _ _ _ _ => .x64
  | .iabsX64 _ _ _ _ => .x64
  | .inegX64 _ _ _ _ => .x64
  | .iminX64 _ _ _ _ _ => .x64
  | .imaxX64 _ _ _ _ _ => .x64
  | .shlX64 _ _ _ _ _ _ => .x64
  | .shrX64 _ _ _ _ _ _ => .x64
  | .shf _ _ _ _ _ _ _ _ => .x64
  | .rot _ _ _ _ _ _ => .x64
  | .andX64 _ _ _ _ _ => .x64
  | .orX64 _ _ _ _ _ => .x64
  | .xorX64 _ _ _ _ _ => .x64
  | .andnX64 _ _ _ _ _ => .x64
  | .tern _ _ _ _ _ _ _ => .x96
  | .popcX64 _ _ _ _ => .x64
  | .clzX64 _ _ _ _ => .x64
  | .brevX64 _ _ _ _ => .x64
  | .bfx _ _ _ _ _ _ => .x96
  | .bfi _ _ _ _ _ _ _ => .x96
  | .icmp _ _ _ _ _ _ _ => .x64
  | .sel _ _ _ _ _ _ _ => .x64
  | .plog _ _ => .x64
  | .movX64 _ _ _ _ => .x64
  | .idp4 _ _ _ _ _ _ _ => .x64
  | .xch _ _ _ _ _ _ _ => .x64
  | .vote _ _ _ _ => .x64
  | .match _ _ _ _ _ => .x64
  | .redux _ _ _ _ _ => .x64
  | .movi _ _ _ => .i64
  | .iaddI64 _ _ _ _ => .i64
  | .imulI64 _ _ _ _ => .i64
  | .andI64 _ _ _ _ => .i64
  | .orI64 _ _ _ _ => .i64
  | .xorI64 _ _ _ _ => .i64
  | .shlI64 _ _ _ _ => .i64
  | .shrI64 _ _ _ _ _ => .i64
  | .iminI64 _ _ _ _ => .i64
  | .imaxI64 _ _ _ _ => .i64
  | .leaI64 _ _ _ _ => .i64
  | .braI64 _ _ => .i64
  | .call _ _ _ => .i64
  | .faddX64 _ _ _ _ _ _ => .x64
  | .fsubX64 _ _ _ _ _ _ => .x64
  | .fmulX64 _ _ _ _ _ _ => .x64
  | .ffma _ _ _ _ _ _ _ => .x64
  | .fminX64 _ _ _ _ _ _ => .x64
  | .fmaxX64 _ _ _ _ _ _ => .x64
  | .fcmp _ _ _ _ _ _ _ _ => .x64
  | .frcpX64 _ _ _ _ => .x64
  | .frsqX64 _ _ _ _ => .x64
  | .fsqrtX64 _ _ _ _ => .x64
  | .fexp2X64 _ _ _ _ => .x64
  | .flog2X64 _ _ _ _ => .x64
  | .fdp2 _ _ _ _ _ _ _ => .x64
  | .cvt _ _ _ _ _ _ _ => .x64
  | .cvtsr _ _ _ _ _ _ _ => .x64
  | .fclassX64 _ _ _ _ => .x64
  | .dquant _ _ _ _ _ _ _ => .x96
  | .brx _ _ => .x64
  | .callx _ _ _ => .x64
  | .retX64 _ _ => .x64
  | .exitX64 _ => .x64
  | .yieldX64 _ => .x64
  | .nopX64 _ => .x64
  | .mkcurX64 _ _ => .x64
  | .mktos _ _ _ => .x64
  | .stomk _ _ _ => .x64
  | .joinX64 _ _ => .x64
  | .leaveX64 _ _ => .x64
  | .waitm _ _ => .x64
  | .mklog _ _ _ => .x64
  | .raddX64 _ _ _ _ _ => .x64
  | .rmulX64 _ _ _ _ _ _ => .x64
  | .rcvt _ _ _ _ _ _ _ => .x64
  | .rreluX64 _ _ _ => .x64
  | .rshr _ _ _ _ _ => .x64
  | .unaddX64 _ _ _ _ => .x64
  | .unmulX64 _ _ _ _ _ => .x64
  | .uncvt _ _ _ _ _ _ => .x64
  | .unreluX64 _ _ _ => .x64
  | .unshr _ _ _ _ _ => .x64
  | .chpush _ _ => .x64
  | .chpop _ _ => .x64
  | .chdrop _ _ => .x64
  | .chdepth _ _ => .x64
  | .fbinit _ _ _ => .x64
  | .fbarr _ _ _ _ => .x64
  | .fbwait _ _ _ => .x64
  | .fbtest _ _ _ _ => .x64
  | .mma _ _ _ _ _ _ _ => .x64
  | .dmma _ _ _ _ _ _ => .x64
  | .ldg _ _ _ _ _ _ _ => .m64
  | .ldgSigned _ _ _ _ _ _ _ => .m64
  | .ldgU _ _ _ _ _ _ _ _ => .m64
  | .stg _ _ _ _ _ _ _ => .m64
  | .stgU _ _ _ _ _ _ _ => .m64
  | .lda _ _ _ _ _ => .m64
  | .ldaSigned _ _ _ _ _ => .m64
  | .sta _ _ _ _ _ => .m64
  | .ldw _ _ _ _ _ => .m64
  | .ldwSigned _ _ _ _ _ => .m64
  | .stw _ _ _ _ _ => .m64
  | .ldc _ _ _ _ _ => .m64
  | .ldcSigned _ _ _ _ _ => .m64
  | .stc _ _ _ _ _ => .m64
  | .aatom _ _ _ _ _ _ _ _ _ => .m64
  | .invr _ _ _ _ _ => .m64
  | .inva _ _ => .m64
  | .phbeg _ _ _ _ => .m64
  | .phend _ _ _ _ => .m64
  | .pfl1 _ _ _ _ => .m64
  | .atom _ _ _ _ _ _ _ _ _ => .m64
  | .cas _ _ _ _ _ _ _ _ => .m64
  | .red _ _ _ _ _ _ _ _ => .m64
  | .waita _ _ _ _ _ _ _ _ => .m64
  | .wake _ _ _ _ _ => .m64
  | .fence _ _ _ => .m64
  | .fld _ _ _ _ _ => .m64
  | .fst _ _ _ _ => .m64
  | .saddB32 _ _ _ _ => .b32
  | .ssubB32 _ _ _ _ => .b32
  | .smulB32 _ _ _ _ => .b32
  | .sadd64B32 _ _ _ _ => .b32
  | .sshlB32 _ _ _ _ => .b32
  | .sshrZ32B32 _ _ _ _ => .b32
  | .sshrS32B32 _ _ _ _ => .b32
  | .sandB32 _ _ _ _ => .b32
  | .sorB32 _ _ _ _ => .b32
  | .sxorB32 _ _ _ _ => .b32
  | .sminS32B32 _ _ _ _ => .b32
  | .smaxS32B32 _ _ _ _ => .b32
  | .sminZ32B32 _ _ _ _ => .b32
  | .smaxZ32B32 _ _ _ _ => .b32
  | .smovB32 _ _ _ => .b32
  | .spopcB32 _ _ _ => .b32
  | .lanerdB32 _ _ _ _ => .b32
  | .lanewrB32 _ _ _ _ => .b32
  | .pwaitAnyB32 _ _ _ => .b32
  | .pwaitAllB32 _ _ _ => .b32
  | .pfindB32 _ _ _ => .b32
  | .pclrB32 _ _ => .b32
  | .mxacqB32 _ => .b32
  | .mxtryB32 _ _ => .b32
  | .mxrelB32 _ => .b32
  | .mxwaitB32 _ => .b32
  | .zaccSB32 _ => .b32
  | .zaccEB32 _ => .b32
  | .srdB32 _ _ _ => .b32
  | .swrB32 _ _ _ => .b32
  | .trapB32 _ _ => .b32
  | .brkB32 _ _ => .b32
  | .barB32 _ => .b32
  | .tkwaitB32 _ => .b32
  | .tkpassB32 _ => .b32
  | .ccwaitB32 _ _ _ => .b32
  | .saddX64 _ _ _ _ _ _ => .x64
  | .ssubX64 _ _ _ _ _ _ => .x64
  | .smulX64 _ _ _ _ _ => .x64
  | .smad _ _ _ _ _ _ => .x64
  | .sadd64X64 _ _ _ _ _ => .x64
  | .sleaX64 _ _ _ _ _ _ => .x64
  | .sshlX64 _ _ _ _ _ _ => .x64
  | .sshrX64 _ _ _ _ _ _ => .x64
  | .sandX64 _ _ _ _ _ => .x64
  | .sorX64 _ _ _ _ _ => .x64
  | .sxorX64 _ _ _ _ _ => .x64
  | .sminX64 _ _ _ _ _ => .x64
  | .smaxX64 _ _ _ _ _ => .x64
  | .scmp _ _ _ _ _ _ _ => .x64
  | .ssel _ _ _ _ _ _ _ => .x64
  | .smovX64 _ _ _ _ => .x64
  | .spopcX64 _ _ _ _ => .x64
  | .lanerdX64 _ _ _ _ _ => .x64
  | .lanewrX64 _ _ _ _ _ => .x64
  | .smovi _ _ _ => .i64
  | .saddI64 _ _ _ _ => .i64
  | .smulI64 _ _ _ _ => .i64
  | .sandI64 _ _ _ _ => .i64
  | .sorI64 _ _ _ _ => .i64
  | .sxorI64 _ _ _ _ => .i64
  | .sshlI64 _ _ _ _ => .i64
  | .sshrI64 _ _ _ _ _ => .i64
  | .sminI64 _ _ _ _ => .i64
  | .smaxI64 _ _ _ _ => .i64
  | .sleaI64 _ _ _ _ => .i64
  | .cpy _ _ _ _ _ _ _ => .x96
  | .cpy2 _ _ _ _ _ _ _ _ => .x96
  | .cpyh _ _ _ _ _ _ _ => .x96
  | .pfl2 _ _ _ _ => .x96
  | .pwaitX64 _ _ _ _ => .x64
  | .pfindX64 _ _ _ => .x64
  | .pclrX64 _ _ => .x64
  | .pstat _ _ _ => .x64
  | .mxacqX64 _ => .x64
  | .mxtryX64 _ _ => .x64
  | .mxrelX64 _ => .x64
  | .stld _ _ _ _ _ _ _ _ _ => .x64
  | .drain _ _ _ _ _ _ => .x64
  | .zaccX64 _ _ => .x64
  | .mxwaitX64 _ => .x64
  | .rgnb _ _ _ _ _ => .x96
  | .rfit _ _ _ _ => .x64
  | .rgnq _ _ _ _ => .x64
  | .coll _ _ _ _ _ _ _ _ _ => .x96
  | .srdX64 _ _ _ => .x64
  | .swrX64 _ _ _ => .x64
  | .trapX64 _ _ => .x64
  | .brkX64 _ _ => .x64
  | .twrd _ _ _ _ => .x64
  | .twwr _ _ _ _ => .x64
  | .tres _ => .x64
  | .tkill _ => .x64
  | .launch _ _ _ _ => .x64
  | .barX64 _ => .x64
  | .ccwaitX64 _ _ _ => .x64
  | .tkwaitX64 _ => .x64
  | .tkpassX64 _ => .x64
  | .starved _ _ => .event
  | .forcedQueueEntry _ _ => .event
  | .thresherZeroingDone _ => .event
  | .thresherOpStart _ => .event
  | .thresherOpComplete _ => .event
  | .wainStart _ => .event
  | .wainComplete _ _ => .event
  | .cpyhCreditTimeout _ _ => .event
  | .pfl2Complete _ _ => .event
  | .collStepComplete _ _ _ => .event
  | .registration _ => .event
  | .registrationAck _ => .event
  | .ownerRecall _ _ _ => .event
  | .forwardedRead _ => .event
  | .readRefusal _ => .event
  | .writeBack _ => .event
  | .l1Eviction _ _ => .event
  | .redPublication _ _ => .event
  | .l2LineEviction _ => .event
  | .ccwaitPollTimer _ => .event
  | .peerAccess _ _ => .event
  | .hostAtomicSwap _ _ => .event
  | .faultRecordDeferred => .event
  | .answer _ => .event
  | .invctx _ => .event
  | .faultQueueReconfig _ _ _ => .event
  | .registerWrite _ _ _ _ => .event
  | .qtailDoorbell _ _ => .event
  | .recordTake _ => .event
  | .dependencesMet _ => .event
  | .dealRound _ => .event
  | .stookRetire _ => .event
  | .cropConfirm _ => .event
  | .partitionCommit _ => .event
  | .reconfiguration _ => .event
  | .parkEviction _ => .event
  | .parkRestore _ => .event
  | .trapStookStart _ => .event
  | .preempt _ => .event
  | .restoreParea _ => .event
  | .restoreSarea _ => .event
  | .prctlNone _ => .event
  | .sliceExpiry _ => .event
  | .preemptOperationEnd => .event
  | .buildStep _ => .event
  | .refitStart _ => .event
  | .refitStep _ => .event
  | .refitCommit _ => .event
  | .urgentRefitStart _ => .event
  | .bruvasLinkDown _ => .event
  | .bruvasLinkUp _ _ _ => .event
  | .routeRecompute _ => .event
  | .hostLinkDown _ => .event
  | .groupEntryWrite _ _ _ _ => .event
  | .msixUnmask _ _ => .event
  | .scanVisitStart _ => .event
  | .scanMove _ => .event
  | .scanResult _ _ => .event
  | .rickKill _ => .event
  | .patrolScrub _ => .event
  | .reset => .event
  | .functionReady _ _ => .event
  | .firmwareBoot _ _ _ _ _ _ _ => .event
  | .overtemp => .event
  | .attestationStart => .event
  | .attestationDone => .event
  | .illegalEncoding => .event
  | .instructionFetchFault => .event
  | .homeReply _ => .event
  | .atomicAtHome _ => .event
  | .peerHomeReply _ _ _ => .event
  | .hostMemoryAccess _ => .event
  | .hostSnoopResponse _ _ => .event
  | .hostLinkUp _ => .event

/-- The issue class (Table 3.1). -/
def Instr.cls : Instr → Cls
  | .iaddB32 _ _ _ _ => .alu
  | .isubB32 _ _ _ _ => .alu
  | .imulB32 _ _ _ _ => .alu
  | .imulhS32B32 _ _ _ _ => .alu
  | .imulhZ32B32 _ _ _ _ => .alu
  | .iminS32B32 _ _ _ _ => .alu
  | .imaxS32B32 _ _ _ _ => .alu
  | .iminZ32B32 _ _ _ _ => .alu
  | .imaxZ32B32 _ _ _ _ => .alu
  | .shlB32 _ _ _ _ => .alu
  | .shrZ32B32 _ _ _ _ => .alu
  | .shrS32B32 _ _ _ _ => .alu
  | .andB32 _ _ _ _ => .alu
  | .orB32 _ _ _ _ => .alu
  | .xorB32 _ _ _ _ => .alu
  | .andnB32 _ _ _ _ => .alu
  | .movB32 _ _ _ => .alu
  | .popcB32 _ _ _ => .alu
  | .clzB32 _ _ _ => .alu
  | .brevB32 _ _ _ => .alu
  | .iadd64B32 _ _ _ _ => .alu
  | .iabsB32 _ _ _ => .alu
  | .inegB32 _ _ _ => .alu
  | .faddF32B32 _ _ _ _ => .alu
  | .fsubF32B32 _ _ _ _ => .alu
  | .fmulF32B32 _ _ _ _ => .alu
  | .fminF32B32 _ _ _ _ => .alu
  | .fmaxF32B32 _ _ _ _ => .alu
  | .frcpF32B32 _ _ _ => .trans
  | .frsqF32B32 _ _ _ => .trans
  | .fsqrtF32B32 _ _ _ => .trans
  | .fexp2F32B32 _ _ _ => .trans
  | .flog2F32B32 _ _ _ => .trans
  | .faddBf16B32 _ _ _ _ => .alu
  | .fmulBf16B32 _ _ _ _ => .alu
  | .faddF16B32 _ _ _ _ => .alu
  | .fmulF16B32 _ _ _ _ => .alu
  | .fclassF32B32 _ _ _ => .alu
  | .braB32 _ _ => .alu
  | .retB32 _ _ => .alu
  | .exitB32 _ => .alu
  | .yieldB32 _ => .alu
  | .nopB32 _ => .alu
  | .mkcurB32 _ _ => .alu
  | .joinB32 _ _ => .alu
  | .leaveB32 _ _ => .alu
  | .raddF32B32 _ _ _ _ => .alu
  | .unaddF32B32 _ _ _ _ => .alu
  | .rmulF32B32 _ _ _ _ => .alu
  | .unmulF32B32 _ _ _ _ => .trans
  | .rreluF32B32 _ _ _ => .alu
  | .unreluF32B32 _ _ _ => .alu
  | .rmulS32B32 _ _ _ _ => .alu
  | .unmulS32B32 _ _ _ _ => .trans
  | .iaddX64 _ _ _ _ _ _ => .alu
  | .isubX64 _ _ _ _ _ _ => .alu
  | .imulX64 _ _ _ _ _ => .alu
  | .imulhX64 _ _ _ _ _ => .alu
  | .imad _ _ _ _ _ _ => .alu
  | .imadw _ _ _ _ _ _ => .alu
  | .iadd64X64 _ _ _ _ _ => .alu
  | .leaX64 _ _ _ _ _ _ => .alu
  | .iabsX64 _ _ _ _ => .alu
  | .inegX64 _ _ _ _ => .alu
  | .iminX64 _ _ _ _ _ => .alu
  | .imaxX64 _ _ _ _ _ => .alu
  | .shlX64 _ _ _ _ _ _ => .alu
  | .shrX64 _ _ _ _ _ _ => .alu
  | .shf _ _ _ _ _ _ _ _ => .alu
  | .rot _ _ _ _ _ _ => .alu
  | .andX64 _ _ _ _ _ => .alu
  | .orX64 _ _ _ _ _ => .alu
  | .xorX64 _ _ _ _ _ => .alu
  | .andnX64 _ _ _ _ _ => .alu
  | .tern _ _ _ _ _ _ _ => .alu
  | .popcX64 _ _ _ _ => .alu
  | .clzX64 _ _ _ _ => .alu
  | .brevX64 _ _ _ _ => .alu
  | .bfx _ _ _ _ _ _ => .alu
  | .bfi _ _ _ _ _ _ _ => .alu
  | .icmp _ _ _ _ _ _ _ => .alu
  | .sel _ _ _ _ _ _ _ => .alu
  | .plog _ _ => .alu
  | .movX64 _ _ _ _ => .alu
  | .idp4 _ _ _ _ _ _ _ => .alu
  | .xch _ _ _ _ _ _ _ => .alu
  | .vote _ _ _ _ => .alu
  | .match _ _ _ _ _ => .alu
  | .redux _ _ _ _ _ => .alu
  | .movi _ _ _ => .alu
  | .iaddI64 _ _ _ _ => .alu
  | .imulI64 _ _ _ _ => .alu
  | .andI64 _ _ _ _ => .alu
  | .orI64 _ _ _ _ => .alu
  | .xorI64 _ _ _ _ => .alu
  | .shlI64 _ _ _ _ => .alu
  | .shrI64 _ _ _ _ _ => .alu
  | .iminI64 _ _ _ _ => .alu
  | .imaxI64 _ _ _ _ => .alu
  | .leaI64 _ _ _ _ => .alu
  | .braI64 _ _ => .alu
  | .call _ _ _ => .alu
  | .faddX64 _ _ _ _ _ _ => .alu
  | .fsubX64 _ _ _ _ _ _ => .alu
  | .fmulX64 _ _ _ _ _ _ => .alu
  | .ffma _ _ _ _ _ _ _ => .alu
  | .fminX64 _ _ _ _ _ _ => .alu
  | .fmaxX64 _ _ _ _ _ _ => .alu
  | .fcmp _ _ _ _ _ _ _ _ => .alu
  | .frcpX64 _ _ _ _ => .trans
  | .frsqX64 _ _ _ _ => .trans
  | .fsqrtX64 _ _ _ _ => .trans
  | .fexp2X64 _ _ _ _ => .trans
  | .flog2X64 _ _ _ _ => .trans
  | .fdp2 _ _ _ _ _ _ _ => .alu
  | .cvt _ _ _ _ _ _ _ => .alu
  | .cvtsr _ _ _ _ _ _ _ => .alu
  | .fclassX64 _ _ _ _ => .alu
  | .dquant _ _ _ _ _ _ _ => .mem
  | .brx _ _ => .alu
  | .callx _ _ _ => .alu
  | .retX64 _ _ => .alu
  | .exitX64 _ => .alu
  | .yieldX64 _ => .alu
  | .nopX64 _ => .alu
  | .mkcurX64 _ _ => .alu
  | .mktos _ _ _ => .alu
  | .stomk _ _ _ => .alu
  | .joinX64 _ _ => .alu
  | .leaveX64 _ _ => .alu
  | .waitm _ _ => .alu
  | .mklog _ _ _ => .alu
  | .raddX64 _ _ _ _ _ => .alu
  | .rmulX64 _ _ _ _ _ _ => .alu
  | .rcvt _ _ _ _ _ _ _ => .alu
  | .rreluX64 _ _ _ => .alu
  | .rshr _ _ _ _ _ => .alu
  | .unaddX64 _ _ _ _ => .alu
  | .unmulX64 _ _ _ _ _ => .trans
  | .uncvt _ _ _ _ _ _ => .alu
  | .unreluX64 _ _ _ => .alu
  | .unshr _ _ _ _ _ => .alu
  | .chpush _ _ => .alu
  | .chpop _ _ => .alu
  | .chdrop _ _ => .alu
  | .chdepth _ _ => .alu
  | .fbinit _ _ _ => .mem
  | .fbarr _ _ _ _ => .mem
  | .fbwait _ _ _ => .mem
  | .fbtest _ _ _ _ => .mem
  | .mma _ _ _ _ _ _ _ => .thresher
  | .dmma _ _ _ _ _ _ => .thresher
  | .ldg _ _ _ _ _ _ _ => .mem
  | .ldgSigned _ _ _ _ _ _ _ => .mem
  | .ldgU _ _ _ _ _ _ _ _ => .uniform
  | .stg _ _ _ _ _ _ _ => .mem
  | .stgU _ _ _ _ _ _ _ => .uniform
  | .lda _ _ _ _ _ => .mem
  | .ldaSigned _ _ _ _ _ => .mem
  | .sta _ _ _ _ _ => .mem
  | .ldw _ _ _ _ _ => .mem
  | .ldwSigned _ _ _ _ _ => .mem
  | .stw _ _ _ _ _ => .mem
  | .ldc _ _ _ _ _ => .mem
  | .ldcSigned _ _ _ _ _ => .mem
  | .stc _ _ _ _ _ => .mem
  | .aatom _ _ _ _ _ _ _ _ _ => .mem
  | .invr _ _ _ _ _ => .mem
  | .inva _ _ => .mem
  | .phbeg _ _ _ _ => .mem
  | .phend _ _ _ _ => .mem
  | .pfl1 _ _ _ _ => .mem
  | .atom _ _ _ _ _ _ _ _ _ => .mem
  | .cas _ _ _ _ _ _ _ _ => .mem
  | .red _ _ _ _ _ _ _ _ => .mem
  | .waita _ _ _ _ _ _ _ _ => .mem
  | .wake _ _ _ _ _ => .mem
  | .fence _ _ _ => .mem
  | .fld _ _ _ _ _ => .mem
  | .fst _ _ _ _ => .mem
  | .saddB32 _ _ _ _ => .uniform
  | .ssubB32 _ _ _ _ => .uniform
  | .smulB32 _ _ _ _ => .uniform
  | .sadd64B32 _ _ _ _ => .uniform
  | .sshlB32 _ _ _ _ => .uniform
  | .sshrZ32B32 _ _ _ _ => .uniform
  | .sshrS32B32 _ _ _ _ => .uniform
  | .sandB32 _ _ _ _ => .uniform
  | .sorB32 _ _ _ _ => .uniform
  | .sxorB32 _ _ _ _ => .uniform
  | .sminS32B32 _ _ _ _ => .uniform
  | .smaxS32B32 _ _ _ _ => .uniform
  | .sminZ32B32 _ _ _ _ => .uniform
  | .smaxZ32B32 _ _ _ _ => .uniform
  | .smovB32 _ _ _ => .uniform
  | .spopcB32 _ _ _ => .uniform
  | .lanerdB32 _ _ _ _ => .uniform
  | .lanewrB32 _ _ _ _ => .uniform
  | .pwaitAnyB32 _ _ _ => .uniform
  | .pwaitAllB32 _ _ _ => .uniform
  | .pfindB32 _ _ _ => .uniform
  | .pclrB32 _ _ => .uniform
  | .mxacqB32 _ => .uniform
  | .mxtryB32 _ _ => .uniform
  | .mxrelB32 _ => .uniform
  | .mxwaitB32 _ => .uniform
  | .zaccSB32 _ => .uniform
  | .zaccEB32 _ => .uniform
  | .srdB32 _ _ _ => .uniform
  | .swrB32 _ _ _ => .uniform
  | .trapB32 _ _ => .uniform
  | .brkB32 _ _ => .uniform
  | .barB32 _ => .uniform
  | .tkwaitB32 _ => .uniform
  | .tkpassB32 _ => .uniform
  | .ccwaitB32 _ _ _ => .uniform
  | .saddX64 _ _ _ _ _ _ => .uniform
  | .ssubX64 _ _ _ _ _ _ => .uniform
  | .smulX64 _ _ _ _ _ => .uniform
  | .smad _ _ _ _ _ _ => .uniform
  | .sadd64X64 _ _ _ _ _ => .uniform
  | .sleaX64 _ _ _ _ _ _ => .uniform
  | .sshlX64 _ _ _ _ _ _ => .uniform
  | .sshrX64 _ _ _ _ _ _ => .uniform
  | .sandX64 _ _ _ _ _ => .uniform
  | .sorX64 _ _ _ _ _ => .uniform
  | .sxorX64 _ _ _ _ _ => .uniform
  | .sminX64 _ _ _ _ _ => .uniform
  | .smaxX64 _ _ _ _ _ => .uniform
  | .scmp _ _ _ _ _ _ _ => .uniform
  | .ssel _ _ _ _ _ _ _ => .uniform
  | .smovX64 _ _ _ _ => .uniform
  | .spopcX64 _ _ _ _ => .uniform
  | .lanerdX64 _ _ _ _ _ => .uniform
  | .lanewrX64 _ _ _ _ _ => .uniform
  | .smovi _ _ _ => .uniform
  | .saddI64 _ _ _ _ => .uniform
  | .smulI64 _ _ _ _ => .uniform
  | .sandI64 _ _ _ _ => .uniform
  | .sorI64 _ _ _ _ => .uniform
  | .sxorI64 _ _ _ _ => .uniform
  | .sshlI64 _ _ _ _ => .uniform
  | .sshrI64 _ _ _ _ _ => .uniform
  | .sminI64 _ _ _ _ => .uniform
  | .smaxI64 _ _ _ _ => .uniform
  | .sleaI64 _ _ _ _ => .uniform
  | .cpy _ _ _ _ _ _ _ => .uniform
  | .cpy2 _ _ _ _ _ _ _ _ => .uniform
  | .cpyh _ _ _ _ _ _ _ => .uniform
  | .pfl2 _ _ _ _ => .uniform
  | .pwaitX64 _ _ _ _ => .uniform
  | .pfindX64 _ _ _ => .uniform
  | .pclrX64 _ _ => .uniform
  | .pstat _ _ _ => .uniform
  | .mxacqX64 _ => .uniform
  | .mxtryX64 _ _ => .uniform
  | .mxrelX64 _ => .uniform
  | .stld _ _ _ _ _ _ _ _ _ => .uniform
  | .drain _ _ _ _ _ _ => .uniform
  | .zaccX64 _ _ => .uniform
  | .mxwaitX64 _ => .uniform
  | .rgnb _ _ _ _ _ => .uniform
  | .rfit _ _ _ _ => .uniform
  | .rgnq _ _ _ _ => .uniform
  | .coll _ _ _ _ _ _ _ _ _ => .uniform
  | .srdX64 _ _ _ => .uniform
  | .swrX64 _ _ _ => .uniform
  | .trapX64 _ _ => .uniform
  | .brkX64 _ _ => .uniform
  | .twrd _ _ _ _ => .uniform
  | .twwr _ _ _ _ => .uniform
  | .tres _ => .uniform
  | .tkill _ => .uniform
  | .launch _ _ _ _ => .uniform
  | .barX64 _ => .uniform
  | .ccwaitX64 _ _ _ => .uniform
  | .tkwaitX64 _ => .uniform
  | .tkpassX64 _ => .uniform
  | .starved _ _ => .event
  | .forcedQueueEntry _ _ => .event
  | .thresherZeroingDone _ => .event
  | .thresherOpStart _ => .event
  | .thresherOpComplete _ => .event
  | .wainStart _ => .event
  | .wainComplete _ _ => .event
  | .cpyhCreditTimeout _ _ => .event
  | .pfl2Complete _ _ => .event
  | .collStepComplete _ _ _ => .event
  | .registration _ => .event
  | .registrationAck _ => .event
  | .ownerRecall _ _ _ => .event
  | .forwardedRead _ => .event
  | .readRefusal _ => .event
  | .writeBack _ => .event
  | .l1Eviction _ _ => .event
  | .redPublication _ _ => .event
  | .l2LineEviction _ => .event
  | .ccwaitPollTimer _ => .event
  | .peerAccess _ _ => .event
  | .hostAtomicSwap _ _ => .event
  | .faultRecordDeferred => .event
  | .answer _ => .event
  | .invctx _ => .event
  | .faultQueueReconfig _ _ _ => .event
  | .registerWrite _ _ _ _ => .event
  | .qtailDoorbell _ _ => .event
  | .recordTake _ => .event
  | .dependencesMet _ => .event
  | .dealRound _ => .event
  | .stookRetire _ => .event
  | .cropConfirm _ => .event
  | .partitionCommit _ => .event
  | .reconfiguration _ => .event
  | .parkEviction _ => .event
  | .parkRestore _ => .event
  | .trapStookStart _ => .event
  | .preempt _ => .event
  | .restoreParea _ => .event
  | .restoreSarea _ => .event
  | .prctlNone _ => .event
  | .sliceExpiry _ => .event
  | .preemptOperationEnd => .event
  | .buildStep _ => .event
  | .refitStart _ => .event
  | .refitStep _ => .event
  | .refitCommit _ => .event
  | .urgentRefitStart _ => .event
  | .bruvasLinkDown _ => .event
  | .bruvasLinkUp _ _ _ => .event
  | .routeRecompute _ => .event
  | .hostLinkDown _ => .event
  | .groupEntryWrite _ _ _ _ => .event
  | .msixUnmask _ _ => .event
  | .scanVisitStart _ => .event
  | .scanMove _ => .event
  | .scanResult _ _ => .event
  | .rickKill _ => .event
  | .patrolScrub _ => .event
  | .reset => .event
  | .functionReady _ _ => .event
  | .firmwareBoot _ _ _ _ _ _ _ => .event
  | .overtemp => .event
  | .attestationStart => .event
  | .attestationDone => .event
  | .illegalEncoding => .event
  | .instructionFetchFault => .event
  | .homeReply _ => .event
  | .atomicAtHome _ => .event
  | .peerHomeReply _ _ _ => .event
  | .hostMemoryAccess _ => .event
  | .hostSnoopResponse _ _ => .event
  | .hostLinkUp _ => .event

/-- Privileged encodings (02 R46). -/
def Instr.privileged : Instr → Bool
  | .iaddB32 _ _ _ _ => false
  | .isubB32 _ _ _ _ => false
  | .imulB32 _ _ _ _ => false
  | .imulhS32B32 _ _ _ _ => false
  | .imulhZ32B32 _ _ _ _ => false
  | .iminS32B32 _ _ _ _ => false
  | .imaxS32B32 _ _ _ _ => false
  | .iminZ32B32 _ _ _ _ => false
  | .imaxZ32B32 _ _ _ _ => false
  | .shlB32 _ _ _ _ => false
  | .shrZ32B32 _ _ _ _ => false
  | .shrS32B32 _ _ _ _ => false
  | .andB32 _ _ _ _ => false
  | .orB32 _ _ _ _ => false
  | .xorB32 _ _ _ _ => false
  | .andnB32 _ _ _ _ => false
  | .movB32 _ _ _ => false
  | .popcB32 _ _ _ => false
  | .clzB32 _ _ _ => false
  | .brevB32 _ _ _ => false
  | .iadd64B32 _ _ _ _ => false
  | .iabsB32 _ _ _ => false
  | .inegB32 _ _ _ => false
  | .faddF32B32 _ _ _ _ => false
  | .fsubF32B32 _ _ _ _ => false
  | .fmulF32B32 _ _ _ _ => false
  | .fminF32B32 _ _ _ _ => false
  | .fmaxF32B32 _ _ _ _ => false
  | .frcpF32B32 _ _ _ => false
  | .frsqF32B32 _ _ _ => false
  | .fsqrtF32B32 _ _ _ => false
  | .fexp2F32B32 _ _ _ => false
  | .flog2F32B32 _ _ _ => false
  | .faddBf16B32 _ _ _ _ => false
  | .fmulBf16B32 _ _ _ _ => false
  | .faddF16B32 _ _ _ _ => false
  | .fmulF16B32 _ _ _ _ => false
  | .fclassF32B32 _ _ _ => false
  | .braB32 _ _ => false
  | .retB32 _ _ => false
  | .exitB32 _ => false
  | .yieldB32 _ => false
  | .nopB32 _ => false
  | .mkcurB32 _ _ => false
  | .joinB32 _ _ => false
  | .leaveB32 _ _ => false
  | .raddF32B32 _ _ _ _ => false
  | .unaddF32B32 _ _ _ _ => false
  | .rmulF32B32 _ _ _ _ => false
  | .unmulF32B32 _ _ _ _ => false
  | .rreluF32B32 _ _ _ => false
  | .unreluF32B32 _ _ _ => false
  | .rmulS32B32 _ _ _ _ => false
  | .unmulS32B32 _ _ _ _ => false
  | .iaddX64 _ _ _ _ _ _ => false
  | .isubX64 _ _ _ _ _ _ => false
  | .imulX64 _ _ _ _ _ => false
  | .imulhX64 _ _ _ _ _ => false
  | .imad _ _ _ _ _ _ => false
  | .imadw _ _ _ _ _ _ => false
  | .iadd64X64 _ _ _ _ _ => false
  | .leaX64 _ _ _ _ _ _ => false
  | .iabsX64 _ _ _ _ => false
  | .inegX64 _ _ _ _ => false
  | .iminX64 _ _ _ _ _ => false
  | .imaxX64 _ _ _ _ _ => false
  | .shlX64 _ _ _ _ _ _ => false
  | .shrX64 _ _ _ _ _ _ => false
  | .shf _ _ _ _ _ _ _ _ => false
  | .rot _ _ _ _ _ _ => false
  | .andX64 _ _ _ _ _ => false
  | .orX64 _ _ _ _ _ => false
  | .xorX64 _ _ _ _ _ => false
  | .andnX64 _ _ _ _ _ => false
  | .tern _ _ _ _ _ _ _ => false
  | .popcX64 _ _ _ _ => false
  | .clzX64 _ _ _ _ => false
  | .brevX64 _ _ _ _ => false
  | .bfx _ _ _ _ _ _ => false
  | .bfi _ _ _ _ _ _ _ => false
  | .icmp _ _ _ _ _ _ _ => false
  | .sel _ _ _ _ _ _ _ => false
  | .plog _ _ => false
  | .movX64 _ _ _ _ => false
  | .idp4 _ _ _ _ _ _ _ => false
  | .xch _ _ _ _ _ _ _ => false
  | .vote _ _ _ _ => false
  | .match _ _ _ _ _ => false
  | .redux _ _ _ _ _ => false
  | .movi _ _ _ => false
  | .iaddI64 _ _ _ _ => false
  | .imulI64 _ _ _ _ => false
  | .andI64 _ _ _ _ => false
  | .orI64 _ _ _ _ => false
  | .xorI64 _ _ _ _ => false
  | .shlI64 _ _ _ _ => false
  | .shrI64 _ _ _ _ _ => false
  | .iminI64 _ _ _ _ => false
  | .imaxI64 _ _ _ _ => false
  | .leaI64 _ _ _ _ => false
  | .braI64 _ _ => false
  | .call _ _ _ => false
  | .faddX64 _ _ _ _ _ _ => false
  | .fsubX64 _ _ _ _ _ _ => false
  | .fmulX64 _ _ _ _ _ _ => false
  | .ffma _ _ _ _ _ _ _ => false
  | .fminX64 _ _ _ _ _ _ => false
  | .fmaxX64 _ _ _ _ _ _ => false
  | .fcmp _ _ _ _ _ _ _ _ => false
  | .frcpX64 _ _ _ _ => false
  | .frsqX64 _ _ _ _ => false
  | .fsqrtX64 _ _ _ _ => false
  | .fexp2X64 _ _ _ _ => false
  | .flog2X64 _ _ _ _ => false
  | .fdp2 _ _ _ _ _ _ _ => false
  | .cvt _ _ _ _ _ _ _ => false
  | .cvtsr _ _ _ _ _ _ _ => false
  | .fclassX64 _ _ _ _ => false
  | .dquant _ _ _ _ _ _ _ => false
  | .brx _ _ => false
  | .callx _ _ _ => false
  | .retX64 _ _ => false
  | .exitX64 _ => false
  | .yieldX64 _ => false
  | .nopX64 _ => false
  | .mkcurX64 _ _ => false
  | .mktos _ _ _ => false
  | .stomk _ _ _ => false
  | .joinX64 _ _ => false
  | .leaveX64 _ _ => false
  | .waitm _ _ => false
  | .mklog _ _ _ => false
  | .raddX64 _ _ _ _ _ => false
  | .rmulX64 _ _ _ _ _ _ => false
  | .rcvt _ _ _ _ _ _ _ => false
  | .rreluX64 _ _ _ => false
  | .rshr _ _ _ _ _ => false
  | .unaddX64 _ _ _ _ => false
  | .unmulX64 _ _ _ _ _ => false
  | .uncvt _ _ _ _ _ _ => false
  | .unreluX64 _ _ _ => false
  | .unshr _ _ _ _ _ => false
  | .chpush _ _ => false
  | .chpop _ _ => false
  | .chdrop _ _ => false
  | .chdepth _ _ => false
  | .fbinit _ _ _ => false
  | .fbarr _ _ _ _ => false
  | .fbwait _ _ _ => false
  | .fbtest _ _ _ _ => false
  | .mma _ _ _ _ _ _ _ => false
  | .dmma _ _ _ _ _ _ => false
  | .ldg _ _ _ _ _ _ _ => false
  | .ldgSigned _ _ _ _ _ _ _ => false
  | .ldgU _ _ _ _ _ _ _ _ => false
  | .stg _ _ _ _ _ _ _ => false
  | .stgU _ _ _ _ _ _ _ => false
  | .lda _ _ _ _ _ => false
  | .ldaSigned _ _ _ _ _ => false
  | .sta _ _ _ _ _ => false
  | .ldw _ _ _ _ _ => false
  | .ldwSigned _ _ _ _ _ => false
  | .stw _ _ _ _ _ => false
  | .ldc _ _ _ _ _ => false
  | .ldcSigned _ _ _ _ _ => false
  | .stc _ _ _ _ _ => false
  | .aatom _ _ _ _ _ _ _ _ _ => false
  | .invr _ _ _ _ _ => false
  | .inva _ _ => false
  | .phbeg _ _ _ _ => false
  | .phend _ _ _ _ => false
  | .pfl1 _ _ _ _ => false
  | .atom _ _ _ _ _ _ _ _ _ => false
  | .cas _ _ _ _ _ _ _ _ => false
  | .red _ _ _ _ _ _ _ _ => false
  | .waita _ _ _ _ _ _ _ _ => false
  | .wake _ _ _ _ _ => false
  | .fence _ _ _ => false
  | .fld _ _ _ _ _ => false
  | .fst _ _ _ _ => false
  | .saddB32 _ _ _ _ => false
  | .ssubB32 _ _ _ _ => false
  | .smulB32 _ _ _ _ => false
  | .sadd64B32 _ _ _ _ => false
  | .sshlB32 _ _ _ _ => false
  | .sshrZ32B32 _ _ _ _ => false
  | .sshrS32B32 _ _ _ _ => false
  | .sandB32 _ _ _ _ => false
  | .sorB32 _ _ _ _ => false
  | .sxorB32 _ _ _ _ => false
  | .sminS32B32 _ _ _ _ => false
  | .smaxS32B32 _ _ _ _ => false
  | .sminZ32B32 _ _ _ _ => false
  | .smaxZ32B32 _ _ _ _ => false
  | .smovB32 _ _ _ => false
  | .spopcB32 _ _ _ => false
  | .lanerdB32 _ _ _ _ => false
  | .lanewrB32 _ _ _ _ => false
  | .pwaitAnyB32 _ _ _ => false
  | .pwaitAllB32 _ _ _ => false
  | .pfindB32 _ _ _ => false
  | .pclrB32 _ _ => false
  | .mxacqB32 _ => false
  | .mxtryB32 _ _ => false
  | .mxrelB32 _ => false
  | .mxwaitB32 _ => false
  | .zaccSB32 _ => false
  | .zaccEB32 _ => false
  | .srdB32 _ _ _ => false
  | .swrB32 _ d _ => decide (d = .ctx)
  | .trapB32 _ _ => false
  | .brkB32 _ _ => false
  | .barB32 _ => false
  | .tkwaitB32 _ => false
  | .tkpassB32 _ => false
  | .ccwaitB32 _ _ _ => false
  | .saddX64 _ _ _ _ _ _ => false
  | .ssubX64 _ _ _ _ _ _ => false
  | .smulX64 _ _ _ _ _ => false
  | .smad _ _ _ _ _ _ => false
  | .sadd64X64 _ _ _ _ _ => false
  | .sleaX64 _ _ _ _ _ _ => false
  | .sshlX64 _ _ _ _ _ _ => false
  | .sshrX64 _ _ _ _ _ _ => false
  | .sandX64 _ _ _ _ _ => false
  | .sorX64 _ _ _ _ _ => false
  | .sxorX64 _ _ _ _ _ => false
  | .sminX64 _ _ _ _ _ => false
  | .smaxX64 _ _ _ _ _ => false
  | .scmp _ _ _ _ _ _ _ => false
  | .ssel _ _ _ _ _ _ _ => false
  | .smovX64 _ _ _ _ => false
  | .spopcX64 _ _ _ _ => false
  | .lanerdX64 _ _ _ _ _ => false
  | .lanewrX64 _ _ _ _ _ => false
  | .smovi _ _ _ => false
  | .saddI64 _ _ _ _ => false
  | .smulI64 _ _ _ _ => false
  | .sandI64 _ _ _ _ => false
  | .sorI64 _ _ _ _ => false
  | .sxorI64 _ _ _ _ => false
  | .sshlI64 _ _ _ _ => false
  | .sshrI64 _ _ _ _ _ => false
  | .sminI64 _ _ _ _ => false
  | .smaxI64 _ _ _ _ => false
  | .sleaI64 _ _ _ _ => false
  | .cpy _ _ _ _ _ _ _ => false
  | .cpy2 _ _ _ _ _ _ _ _ => false
  | .cpyh _ _ _ _ _ _ _ => false
  | .pfl2 _ _ _ _ => false
  | .pwaitX64 _ _ _ _ => false
  | .pfindX64 _ _ _ => false
  | .pclrX64 _ _ => false
  | .pstat _ _ _ => false
  | .mxacqX64 _ => false
  | .mxtryX64 _ _ => false
  | .mxrelX64 _ => false
  | .stld _ _ _ _ _ _ _ _ _ => false
  | .drain _ _ _ _ _ _ => false
  | .zaccX64 _ _ => false
  | .mxwaitX64 _ => false
  | .rgnb _ _ _ _ _ => false
  | .rfit _ _ _ _ => false
  | .rgnq _ _ _ _ => false
  | .coll _ _ _ _ _ _ _ _ _ => false
  | .srdX64 _ _ _ => false
  | .swrX64 _ d _ => decide (d = .ctx)
  | .trapX64 _ _ => false
  | .brkX64 _ _ => false
  | .twrd _ _ _ _ => true
  | .twwr _ _ _ _ => true
  | .tres _ => true
  | .tkill _ => true
  | .launch _ _ _ _ => false
  | .barX64 _ => false
  | .ccwaitX64 _ _ _ => false
  | .tkwaitX64 _ => false
  | .tkpassX64 _ => false
  | .starved _ _ => false
  | .forcedQueueEntry _ _ => false
  | .thresherZeroingDone _ => false
  | .thresherOpStart _ => false
  | .thresherOpComplete _ => false
  | .wainStart _ => false
  | .wainComplete _ _ => false
  | .cpyhCreditTimeout _ _ => false
  | .pfl2Complete _ _ => false
  | .collStepComplete _ _ _ => false
  | .registration _ => false
  | .registrationAck _ => false
  | .ownerRecall _ _ _ => false
  | .forwardedRead _ => false
  | .readRefusal _ => false
  | .writeBack _ => false
  | .l1Eviction _ _ => false
  | .redPublication _ _ => false
  | .l2LineEviction _ => false
  | .ccwaitPollTimer _ => false
  | .peerAccess _ _ => false
  | .hostAtomicSwap _ _ => false
  | .faultRecordDeferred => false
  | .answer _ => false
  | .invctx _ => false
  | .faultQueueReconfig _ _ _ => false
  | .registerWrite _ _ _ _ => false
  | .qtailDoorbell _ _ => false
  | .recordTake _ => false
  | .dependencesMet _ => false
  | .dealRound _ => false
  | .stookRetire _ => false
  | .cropConfirm _ => false
  | .partitionCommit _ => false
  | .reconfiguration _ => false
  | .parkEviction _ => false
  | .parkRestore _ => false
  | .trapStookStart _ => false
  | .preempt _ => false
  | .restoreParea _ => false
  | .restoreSarea _ => false
  | .prctlNone _ => false
  | .sliceExpiry _ => false
  | .preemptOperationEnd => false
  | .buildStep _ => false
  | .refitStart _ => false
  | .refitStep _ => false
  | .refitCommit _ => false
  | .urgentRefitStart _ => false
  | .bruvasLinkDown _ => false
  | .bruvasLinkUp _ _ _ => false
  | .routeRecompute _ => false
  | .hostLinkDown _ => false
  | .groupEntryWrite _ _ _ _ => false
  | .msixUnmask _ _ => false
  | .scanVisitStart _ => false
  | .scanMove _ => false
  | .scanResult _ _ => false
  | .rickKill _ => false
  | .patrolScrub _ => false
  | .reset => false
  | .functionReady _ _ => false
  | .firmwareBoot _ _ _ _ _ _ _ => false
  | .overtemp => false
  | .attestationStart => false
  | .attestationDone => false
  | .illegalEncoding => false
  | .instructionFetchFault => false
  | .homeReply _ => false
  | .atomicAtHome _ => false
  | .peerHomeReply _ _ _ => false
  | .hostMemoryAccess _ => false
  | .hostSnoopResponse _ _ => false
  | .hostLinkUp _ => false

/-- The registers read: base and count of each group (02 R32, R33). -/
def Instr.srcs : Instr → List RegUse
  | .iaddB32 _ _ a b => [⟨a, 1⟩, ⟨b, 1⟩]
  | .isubB32 _ _ a b => [⟨a, 1⟩, ⟨b, 1⟩]
  | .imulB32 _ _ a b => [⟨a, 1⟩, ⟨b, 1⟩]
  | .imulhS32B32 _ _ a b => [⟨a, 1⟩, ⟨b, 1⟩]
  | .imulhZ32B32 _ _ a b => [⟨a, 1⟩, ⟨b, 1⟩]
  | .iminS32B32 _ _ a b => [⟨a, 1⟩, ⟨b, 1⟩]
  | .imaxS32B32 _ _ a b => [⟨a, 1⟩, ⟨b, 1⟩]
  | .iminZ32B32 _ _ a b => [⟨a, 1⟩, ⟨b, 1⟩]
  | .imaxZ32B32 _ _ a b => [⟨a, 1⟩, ⟨b, 1⟩]
  | .shlB32 _ _ a b => [⟨a, 1⟩, ⟨b, 1⟩]
  | .shrZ32B32 _ _ a b => [⟨a, 1⟩, ⟨b, 1⟩]
  | .shrS32B32 _ _ a b => [⟨a, 1⟩, ⟨b, 1⟩]
  | .andB32 _ _ a b => [⟨a, 1⟩, ⟨b, 1⟩]
  | .orB32 _ _ a b => [⟨a, 1⟩, ⟨b, 1⟩]
  | .xorB32 _ _ a b => [⟨a, 1⟩, ⟨b, 1⟩]
  | .andnB32 _ _ a b => [⟨a, 1⟩, ⟨b, 1⟩]
  | .movB32 _ _ a => [⟨a, 1⟩]
  | .popcB32 _ _ a => [⟨a, 1⟩]
  | .clzB32 _ _ a => [⟨a, 1⟩]
  | .brevB32 _ _ a => [⟨a, 1⟩]
  | .iadd64B32 _ _ a b => [⟨a, 2⟩, ⟨b, 2⟩]
  | .iabsB32 _ _ a => [⟨a, 1⟩]
  | .inegB32 _ _ a => [⟨a, 1⟩]
  | .faddF32B32 _ _ a b => [⟨a, 1⟩, ⟨b, 1⟩]
  | .fsubF32B32 _ _ a b => [⟨a, 1⟩, ⟨b, 1⟩]
  | .fmulF32B32 _ _ a b => [⟨a, 1⟩, ⟨b, 1⟩]
  | .fminF32B32 _ _ a b => [⟨a, 1⟩, ⟨b, 1⟩]
  | .fmaxF32B32 _ _ a b => [⟨a, 1⟩, ⟨b, 1⟩]
  | .frcpF32B32 _ _ a => [⟨a, 1⟩]
  | .frsqF32B32 _ _ a => [⟨a, 1⟩]
  | .fsqrtF32B32 _ _ a => [⟨a, 1⟩]
  | .fexp2F32B32 _ _ a => [⟨a, 1⟩]
  | .flog2F32B32 _ _ a => [⟨a, 1⟩]
  | .faddBf16B32 _ _ a b => [⟨a, 1⟩, ⟨b, 1⟩]
  | .fmulBf16B32 _ _ a b => [⟨a, 1⟩, ⟨b, 1⟩]
  | .faddF16B32 _ _ a b => [⟨a, 1⟩, ⟨b, 1⟩]
  | .fmulF16B32 _ _ a b => [⟨a, 1⟩, ⟨b, 1⟩]
  | .fclassF32B32 _ _ a => [⟨a, 1⟩]
  | .braB32 _ _ => []
  | .retB32 _ a => [⟨a, 2⟩]
  | .exitB32 _ => []
  | .yieldB32 _ => []
  | .nopB32 _ => []
  | .mkcurB32 _ _ => []
  | .joinB32 _ _ => []
  | .leaveB32 _ _ => []
  | .raddF32B32 _ _ a b => [⟨a, 1⟩, ⟨b, 1⟩]
  | .unaddF32B32 _ _ a b => [⟨a, 1⟩, ⟨b, 1⟩]
  | .rmulF32B32 _ _ a b => [⟨a, 1⟩, ⟨b, 1⟩]
  | .unmulF32B32 _ _ a b => [⟨a, 1⟩, ⟨b, 1⟩]
  | .rreluF32B32 _ _ a => [⟨a, 1⟩]
  | .unreluF32B32 _ _ a => [⟨a, 1⟩]
  | .rmulS32B32 _ _ a b => [⟨a, 1⟩, ⟨b, 1⟩]
  | .unmulS32B32 _ _ a b => [⟨a, 1⟩, ⟨b, 1⟩]
  | .iaddX64 _ _ a b _ _ => [⟨a, 1⟩, ⟨b, 1⟩]
  | .isubX64 _ _ a b _ _ => [⟨a, 1⟩, ⟨b, 1⟩]
  | .imulX64 _ _ a b _ => [⟨a, 1⟩, ⟨b, 1⟩]
  | .imulhX64 _ _ a b _ => [⟨a, 1⟩, ⟨b, 1⟩]
  | .imad _ _ a b c _ => [⟨a, 1⟩, ⟨b, 1⟩, ⟨c, 1⟩]
  | .imadw _ _ a b c _ => [⟨a, 1⟩, ⟨b, 1⟩, ⟨c, 2⟩]
  | .iadd64X64 _ _ a b _ => [⟨a, 2⟩, ⟨b, 2⟩]
  | .leaX64 _ _ a b _ _ => [⟨a, 2⟩, ⟨b, 1⟩]
  | .iabsX64 _ _ a _ => [⟨a, 1⟩]
  | .inegX64 _ _ a _ => [⟨a, 1⟩]
  | .iminX64 _ _ a b _ => [⟨a, 1⟩, ⟨b, 1⟩]
  | .imaxX64 _ _ a b _ => [⟨a, 1⟩, ⟨b, 1⟩]
  | .shlX64 _ _ a b _ _ => [⟨a, 1⟩, ⟨b, 1⟩]
  | .shrX64 _ _ a b _ _ => [⟨a, 1⟩, ⟨b, 1⟩]
  | .shf _ _ a b c _ _ _ => [⟨a, 1⟩, ⟨b, 1⟩, ⟨c, 1⟩]
  | .rot _ _ a b _ _ => [⟨a, 1⟩, ⟨b, 1⟩]
  | .andX64 _ _ a b _ => [⟨a, 1⟩, ⟨b, 1⟩]
  | .orX64 _ _ a b _ => [⟨a, 1⟩, ⟨b, 1⟩]
  | .xorX64 _ _ a b _ => [⟨a, 1⟩, ⟨b, 1⟩]
  | .andnX64 _ _ a b _ => [⟨a, 1⟩, ⟨b, 1⟩]
  | .tern _ _ a b c _ _ => [⟨a, 1⟩, ⟨b, 1⟩, ⟨c, 1⟩]
  | .popcX64 _ _ a _ => [⟨a, 1⟩]
  | .clzX64 _ _ a _ => [⟨a, 1⟩]
  | .brevX64 _ _ a _ => [⟨a, 1⟩]
  | .bfx _ _ a _ _ _ => [⟨a, 1⟩]
  | .bfi _ _ a b _ _ _ => [⟨a, 1⟩, ⟨b, 1⟩]
  | .icmp _ _ a b _ _ _ => [⟨a, 1⟩, ⟨b, 1⟩]
  | .sel _ _ a b _ _ _ => [⟨a, 1⟩, ⟨b, 1⟩]
  | .plog _ x => [⟨x.srcReg, 1⟩]
  | .movX64 _ _ a _ => [⟨a, 1⟩]
  | .idp4 _ _ a b c _ _ => [⟨a, 1⟩, ⟨b, 1⟩, ⟨c, 1⟩]
  | .xch _ _ a b ty _ _ => [⟨a, ty.regs⟩, ⟨b, 1⟩]
  | .vote _ _ _ _ => []
  | .match _ _ a ty _ => [⟨a, ty.regs⟩]
  | .redux _ _ a _ _ => [⟨a, 1⟩]
  | .movi _ _ _ => []
  | .iaddI64 _ _ a _ => [⟨a, 1⟩]
  | .imulI64 _ _ a _ => [⟨a, 1⟩]
  | .andI64 _ _ a _ => [⟨a, 1⟩]
  | .orI64 _ _ a _ => [⟨a, 1⟩]
  | .xorI64 _ _ a _ => [⟨a, 1⟩]
  | .shlI64 _ _ a _ => [⟨a, 1⟩]
  | .shrI64 _ _ a _ _ => [⟨a, 1⟩]
  | .iminI64 _ _ a _ => [⟨a, 1⟩]
  | .imaxI64 _ _ a _ => [⟨a, 1⟩]
  | .leaI64 _ _ a _ => [⟨a, 2⟩]
  | .braI64 _ _ => []
  | .call _ _ _ => []
  | .faddX64 _ _ a b _ _ => [⟨a, 1⟩, ⟨b, 1⟩]
  | .fsubX64 _ _ a b _ _ => [⟨a, 1⟩, ⟨b, 1⟩]
  | .fmulX64 _ _ a b _ _ => [⟨a, 1⟩, ⟨b, 1⟩]
  | .ffma _ _ a b c _ _ => [⟨a, 1⟩, ⟨b, 1⟩, ⟨c, 1⟩]
  | .fminX64 _ _ a b _ _ => [⟨a, 1⟩, ⟨b, 1⟩]
  | .fmaxX64 _ _ a b _ _ => [⟨a, 1⟩, ⟨b, 1⟩]
  | .fcmp _ _ a b _ _ _ _ => [⟨a, 1⟩, ⟨b, 1⟩]
  | .frcpX64 _ _ a _ => [⟨a, 1⟩]
  | .frsqX64 _ _ a _ => [⟨a, 1⟩]
  | .fsqrtX64 _ _ a _ => [⟨a, 1⟩]
  | .fexp2X64 _ _ a _ => [⟨a, 1⟩]
  | .flog2X64 _ _ a _ => [⟨a, 1⟩]
  | .fdp2 _ _ a b c _ _ => [⟨a, 1⟩, ⟨b, 1⟩, ⟨c, 1⟩]
  | .cvt _ _ a b dt st _ => [⟨a, (cvtSrcRegs dt st)⟩, ⟨b, (cvtBRegs dt st)⟩]
  | .cvtsr _ _ a b c dt st => [⟨a, (cvtSrcRegs dt st)⟩, ⟨b, (cvtBRegs dt st)⟩, ⟨c, (cvtsrCRegs dt st)⟩]
  | .fclassX64 _ _ a _ => [⟨a, 1⟩]
  | .dquant _ a b c _ _ _ => [⟨.v a, 16⟩, ⟨b.reg, 1⟩, ⟨c.reg, 1⟩]
  | .brx _ a => [⟨a, 2⟩]
  | .callx _ _ a => [⟨a, 2⟩]
  | .retX64 _ a => [⟨a, 2⟩]
  | .exitX64 _ => []
  | .yieldX64 _ => []
  | .nopX64 _ => []
  | .mkcurX64 _ _ => []
  | .mktos _ _ _ => []
  | .stomk _ _ a => [⟨a, 2⟩]
  | .joinX64 _ _ => []
  | .leaveX64 _ _ => []
  | .waitm _ _ => []
  | .mklog _ _ _ => []
  | .raddX64 _ _ a b _ => [⟨a, 1⟩, ⟨b, 1⟩]
  | .rmulX64 _ _ a b _ _ => [⟨a, 1⟩, ⟨b, 1⟩]
  | .rcvt _ _ a b dt _ _ => [⟨a, 1⟩, ⟨b, (if dt = .s8 then 1 else 0)⟩]
  | .rreluX64 _ _ a => [⟨a, 1⟩]
  | .rshr _ _ a b _ => [⟨a, 1⟩, ⟨b, 1⟩]
  | .unaddX64 _ _ a b => [⟨a, 1⟩, ⟨b, 1⟩]
  | .unmulX64 _ _ a b _ => [⟨a, 1⟩, ⟨b, 1⟩]
  | .uncvt _ _ a b dt _ => [⟨a, 1⟩, ⟨b, (if dt = .s8 then 1 else 0)⟩]
  | .unreluX64 _ _ a => [⟨a, 1⟩]
  | .unshr _ _ a b _ => [⟨a, 1⟩, ⟨b, 1⟩]
  | .chpush _ a => [⟨a, 1⟩]
  | .chpop _ _ => []
  | .chdrop _ a => [⟨a, 1⟩]
  | .chdepth _ _ => []
  | .fbinit _ a b => [⟨a, 1⟩, ⟨b, 1⟩]
  | .fbarr _ _ a b => [⟨a, 1⟩, ⟨b, 1⟩]
  | .fbwait _ a b => [⟨a, 1⟩, ⟨b, 1⟩]
  | .fbtest _ _ a b => [⟨a, 1⟩, ⟨b, 1⟩]
  | .mma _ a b ty _ _ af => [⟨.v a, (mmaGroup ty)⟩, ⟨b, (if mmaScaled ty af then 1 else 0)⟩]
  | .dmma _ a b c ty _ => [⟨.v a, (mmaGroup ty)⟩, ⟨b.reg, 1⟩, ⟨c.reg, 1⟩]
  | .ldg _ _ a _ _ _ _ => [⟨a, 2⟩]
  | .ldgSigned _ _ a _ _ _ _ => [⟨a, 2⟩]
  | .ldgU _ _ _ a _ _ _ _ => [⟨a.reg, 2⟩]
  | .stg _ a b size _ _ _ => [⟨a, 2⟩, ⟨b, size.regs⟩]
  | .stgU _ a b size _ _ _ => [⟨a.reg, 2⟩, ⟨b.reg, size.regs⟩]
  | .lda _ _ a _ _ => [⟨a, 1⟩]
  | .ldaSigned _ _ a _ _ => [⟨a, 1⟩]
  | .sta _ a b size _ => [⟨a, 1⟩, ⟨b, size.regs⟩]
  | .ldw _ _ a _ _ => [⟨a, 1⟩]
  | .ldwSigned _ _ a _ _ => [⟨a, 1⟩]
  | .stw _ a b size _ => [⟨a, 1⟩, ⟨b, size.regs⟩]
  | .ldc _ _ a _ _ => [⟨a, 1⟩]
  | .ldcSigned _ _ a _ _ => [⟨a, 1⟩]
  | .stc _ a b size _ => [⟨a, 1⟩, ⟨b, size.regs⟩]
  | .aatom _ _ _ a b size _ _ _ => [⟨a, 1⟩, ⟨b, size.regs⟩]
  | .invr _ a b _ _ => [⟨a, 2⟩, ⟨b, 1⟩]
  | .inva _ _ => []
  | .phbeg _ a b _ => [⟨a, 2⟩, ⟨b, 1⟩]
  | .phend _ a b _ => [⟨a, 2⟩, ⟨b, 1⟩]
  | .pfl1 _ a b _ => [⟨a, 2⟩, ⟨b, 1⟩]
  | .atom _ _ _ a b size _ _ off => [⟨a, 2⟩, ⟨b, size.regs⟩, ⟨off.handleReg, 1⟩]
  | .cas _ _ a b size _ _ off => [⟨a, 2⟩, ⟨b, (2 * size.regs)⟩, ⟨off.handleReg, 1⟩]
  | .red _ _ a b size _ _ off => [⟨a, 2⟩, ⟨b, size.regs⟩, ⟨off.handleReg, 1⟩]
  | .waita _ _ a b size _ _ off => [⟨a, 2⟩, ⟨b, size.regs⟩, ⟨off.handleReg, 1⟩]
  | .wake _ _ a b off => [⟨a, 2⟩, ⟨b, 1⟩, ⟨off.handleReg, 1⟩]
  | .fence _ _ _ => []
  | .fld _ _ a hnd _ => [⟨a, 2⟩, ⟨.s hnd, 1⟩]
  | .fst _ a b hnd => [⟨a, 2⟩, ⟨b, 1⟩, ⟨.s hnd, 1⟩]
  | .saddB32 _ _ a b => [⟨a.reg, 1⟩, ⟨b.reg, 1⟩]
  | .ssubB32 _ _ a b => [⟨a.reg, 1⟩, ⟨b.reg, 1⟩]
  | .smulB32 _ _ a b => [⟨a.reg, 1⟩, ⟨b.reg, 1⟩]
  | .sadd64B32 _ _ a b => [⟨a.reg, 2⟩, ⟨b.reg, 2⟩]
  | .sshlB32 _ _ a b => [⟨a.reg, 1⟩, ⟨b.reg, 1⟩]
  | .sshrZ32B32 _ _ a b => [⟨a.reg, 1⟩, ⟨b.reg, 1⟩]
  | .sshrS32B32 _ _ a b => [⟨a.reg, 1⟩, ⟨b.reg, 1⟩]
  | .sandB32 _ _ a b => [⟨a.reg, 1⟩, ⟨b.reg, 1⟩]
  | .sorB32 _ _ a b => [⟨a.reg, 1⟩, ⟨b.reg, 1⟩]
  | .sxorB32 _ _ a b => [⟨a.reg, 1⟩, ⟨b.reg, 1⟩]
  | .sminS32B32 _ _ a b => [⟨a.reg, 1⟩, ⟨b.reg, 1⟩]
  | .smaxS32B32 _ _ a b => [⟨a.reg, 1⟩, ⟨b.reg, 1⟩]
  | .sminZ32B32 _ _ a b => [⟨a.reg, 1⟩, ⟨b.reg, 1⟩]
  | .smaxZ32B32 _ _ a b => [⟨a.reg, 1⟩, ⟨b.reg, 1⟩]
  | .smovB32 _ _ a => [⟨a.reg, 1⟩]
  | .spopcB32 _ _ a => [⟨a.reg, 1⟩]
  | .lanerdB32 _ _ a b => [⟨a, 1⟩, ⟨b.reg, 1⟩]
  | .lanewrB32 _ _ a b => [⟨a.reg, 1⟩, ⟨b.reg, 1⟩]
  | .pwaitAnyB32 _ _ a => [⟨a.reg, 2⟩]
  | .pwaitAllB32 _ _ a => [⟨a.reg, 2⟩]
  | .pfindB32 _ _ a => [⟨a.reg, 2⟩]
  | .pclrB32 _ a => [⟨a.reg, 2⟩]
  | .mxacqB32 _ => []
  | .mxtryB32 _ _ => []
  | .mxrelB32 _ => []
  | .mxwaitB32 _ => []
  | .zaccSB32 _ => []
  | .zaccEB32 _ => []
  | .srdB32 _ _ _ => []
  | .swrB32 _ _ a => [⟨a.reg, 1⟩]
  | .trapB32 _ a => [⟨a.reg, 1⟩]
  | .brkB32 _ a => [⟨a.reg, 1⟩]
  | .barB32 _ => []
  | .tkwaitB32 _ => []
  | .tkpassB32 _ => []
  | .ccwaitB32 _ _ a => [⟨a.reg, 2⟩]
  | .saddX64 _ _ a b _ _ => [⟨a.reg, 1⟩, ⟨b.reg, 1⟩]
  | .ssubX64 _ _ a b _ _ => [⟨a.reg, 1⟩, ⟨b.reg, 1⟩]
  | .smulX64 _ _ a b _ => [⟨a.reg, 1⟩, ⟨b.reg, 1⟩]
  | .smad _ _ a b c _ => [⟨a.reg, 1⟩, ⟨b.reg, 1⟩, ⟨c.reg, 1⟩]
  | .sadd64X64 _ _ a b _ => [⟨a.reg, 2⟩, ⟨b.reg, 2⟩]
  | .sleaX64 _ _ a b _ _ => [⟨a.reg, 2⟩, ⟨b.reg, 1⟩]
  | .sshlX64 _ _ a b _ _ => [⟨a.reg, 1⟩, ⟨b.reg, 1⟩]
  | .sshrX64 _ _ a b _ _ => [⟨a.reg, 1⟩, ⟨b.reg, 1⟩]
  | .sandX64 _ _ a b _ => [⟨a.reg, 1⟩, ⟨b.reg, 1⟩]
  | .sorX64 _ _ a b _ => [⟨a.reg, 1⟩, ⟨b.reg, 1⟩]
  | .sxorX64 _ _ a b _ => [⟨a.reg, 1⟩, ⟨b.reg, 1⟩]
  | .sminX64 _ _ a b _ => [⟨a.reg, 1⟩, ⟨b.reg, 1⟩]
  | .smaxX64 _ _ a b _ => [⟨a.reg, 1⟩, ⟨b.reg, 1⟩]
  | .scmp _ _ a b _ _ _ => [⟨a.reg, 1⟩, ⟨b.reg, 1⟩]
  | .ssel _ _ a b _ _ _ => [⟨a.reg, 1⟩, ⟨b.reg, 1⟩]
  | .smovX64 _ _ a _ => [⟨a.reg, 1⟩]
  | .spopcX64 _ _ a _ => [⟨a.reg, 1⟩]
  | .lanerdX64 _ _ a b _ => [⟨a, 1⟩, ⟨b.reg, 1⟩]
  | .lanewrX64 _ _ a b _ => [⟨a.reg, 1⟩, ⟨b.reg, 1⟩]
  | .smovi _ _ _ => []
  | .saddI64 _ _ a _ => [⟨a.reg, 1⟩]
  | .smulI64 _ _ a _ => [⟨a.reg, 1⟩]
  | .sandI64 _ _ a _ => [⟨a.reg, 1⟩]
  | .sorI64 _ _ a _ => [⟨a.reg, 1⟩]
  | .sxorI64 _ _ a _ => [⟨a.reg, 1⟩]
  | .sshlI64 _ _ a _ => [⟨a.reg, 1⟩]
  | .sshrI64 _ _ a _ _ => [⟨a.reg, 1⟩]
  | .sminI64 _ _ a _ => [⟨a.reg, 1⟩]
  | .smaxI64 _ _ a _ => [⟨a.reg, 1⟩]
  | .sleaI64 _ _ a _ => [⟨a.reg, 2⟩]
  | .cpy _ _ a b c _ _ => [⟨a.reg, 2⟩, ⟨b.reg, 2⟩, ⟨c.reg, 1⟩]
  | .cpy2 _ _ a b c _ _ _ => [⟨a.reg, 2⟩, ⟨b.reg, 2⟩, ⟨.s c, 4⟩]
  | .cpyh _ _ a b c _ _ => [⟨a.reg, 2⟩, ⟨b.reg, 2⟩, ⟨c.reg, 1⟩]
  | .pfl2 _ x a c => [⟨x.ctrReg, 2⟩, ⟨a.reg, 2⟩, ⟨c.reg, 1⟩]
  | .pwaitX64 _ _ a _ => [⟨a.reg, 2⟩]
  | .pfindX64 _ _ a => [⟨a.reg, 2⟩]
  | .pclrX64 _ a => [⟨a.reg, 2⟩]
  | .pstat _ _ _ => []
  | .mxacqX64 _ => []
  | .mxtryX64 _ _ => []
  | .mxrelX64 _ => []
  | .stld _ a b c _ _ _ _ _ => [⟨a.reg, 1⟩, ⟨b.reg, 1⟩, ⟨SReg.optReg c, 1⟩]
  | .drain _ a b _ _ _ => [⟨a.reg, 1⟩, ⟨b.reg, 1⟩]
  | .zaccX64 _ _ => []
  | .mxwaitX64 _ => []
  | .rgnb _ a b c _ => [⟨a.reg, 1⟩, ⟨b.reg, 2⟩, ⟨c.reg, 2⟩]
  | .rfit _ a b c => [⟨a.reg, 1⟩, ⟨b.reg, 2⟩, ⟨c.reg, 2⟩]
  | .rgnq _ _ a b => [⟨a.reg, 1⟩, ⟨b.reg, 1⟩]
  | .coll _ _ a b c _ _ _ _ => [⟨a.reg, 2⟩, ⟨b.reg, 2⟩, ⟨c.reg, 1⟩]
  | .srdX64 _ _ _ => []
  | .swrX64 _ _ a => [⟨a.reg, 1⟩]
  | .trapX64 _ a => [⟨a.reg, 1⟩]
  | .brkX64 _ a => [⟨a.reg, 1⟩]
  | .twrd _ _ a b => [⟨a.reg, 1⟩, ⟨b.reg, 1⟩]
  | .twwr _ a b c => [⟨a.reg, 1⟩, ⟨b.reg, 1⟩, ⟨c.reg, 1⟩]
  | .tres _ => []
  | .tkill _ => []
  | .launch _ _ a b => [⟨a.reg, 2⟩, ⟨b.reg, 1⟩]
  | .barX64 _ => []
  | .ccwaitX64 _ _ a => [⟨a.reg, 2⟩]
  | .tkwaitX64 _ => []
  | .tkpassX64 _ => []
  | .starved _ _ => []
  | .forcedQueueEntry _ _ => []
  | .thresherZeroingDone _ => []
  | .thresherOpStart _ => []
  | .thresherOpComplete _ => []
  | .wainStart _ => []
  | .wainComplete _ _ => []
  | .cpyhCreditTimeout _ _ => []
  | .pfl2Complete _ _ => []
  | .collStepComplete _ _ _ => []
  | .registration _ => []
  | .registrationAck _ => []
  | .ownerRecall _ _ _ => []
  | .forwardedRead _ => []
  | .readRefusal _ => []
  | .writeBack _ => []
  | .l1Eviction _ _ => []
  | .redPublication _ _ => []
  | .l2LineEviction _ => []
  | .ccwaitPollTimer _ => []
  | .peerAccess _ _ => []
  | .hostAtomicSwap _ _ => []
  | .faultRecordDeferred => []
  | .answer _ => []
  | .invctx _ => []
  | .faultQueueReconfig _ _ _ => []
  | .registerWrite _ _ _ _ => []
  | .qtailDoorbell _ _ => []
  | .recordTake _ => []
  | .dependencesMet _ => []
  | .dealRound _ => []
  | .stookRetire _ => []
  | .cropConfirm _ => []
  | .partitionCommit _ => []
  | .reconfiguration _ => []
  | .parkEviction _ => []
  | .parkRestore _ => []
  | .trapStookStart _ => []
  | .preempt _ => []
  | .restoreParea _ => []
  | .restoreSarea _ => []
  | .prctlNone _ => []
  | .sliceExpiry _ => []
  | .preemptOperationEnd => []
  | .buildStep _ => []
  | .refitStart _ => []
  | .refitStep _ => []
  | .refitCommit _ => []
  | .urgentRefitStart _ => []
  | .bruvasLinkDown _ => []
  | .bruvasLinkUp _ _ _ => []
  | .routeRecompute _ => []
  | .hostLinkDown _ => []
  | .groupEntryWrite _ _ _ _ => []
  | .msixUnmask _ _ => []
  | .scanVisitStart _ => []
  | .scanMove _ => []
  | .scanResult _ _ => []
  | .rickKill _ => []
  | .patrolScrub _ => []
  | .reset => []
  | .functionReady _ _ => []
  | .firmwareBoot _ _ _ _ _ _ _ => []
  | .overtemp => []
  | .attestationStart => []
  | .attestationDone => []
  | .illegalEncoding => []
  | .instructionFetchFault => []
  | .homeReply _ => []
  | .atomicAtHome _ => []
  | .peerHomeReply _ _ _ => []
  | .hostMemoryAccess _ => []
  | .hostSnoopResponse _ _ => []
  | .hostLinkUp _ => []

/-- The registers written. -/
def Instr.dsts : Instr → List RegUse
  | .iaddB32 _ d _ _ => [⟨d.reg, 1⟩]
  | .isubB32 _ d _ _ => [⟨d.reg, 1⟩]
  | .imulB32 _ d _ _ => [⟨d.reg, 1⟩]
  | .imulhS32B32 _ d _ _ => [⟨d.reg, 1⟩]
  | .imulhZ32B32 _ d _ _ => [⟨d.reg, 1⟩]
  | .iminS32B32 _ d _ _ => [⟨d.reg, 1⟩]
  | .imaxS32B32 _ d _ _ => [⟨d.reg, 1⟩]
  | .iminZ32B32 _ d _ _ => [⟨d.reg, 1⟩]
  | .imaxZ32B32 _ d _ _ => [⟨d.reg, 1⟩]
  | .shlB32 _ d _ _ => [⟨d.reg, 1⟩]
  | .shrZ32B32 _ d _ _ => [⟨d.reg, 1⟩]
  | .shrS32B32 _ d _ _ => [⟨d.reg, 1⟩]
  | .andB32 _ d _ _ => [⟨d.reg, 1⟩]
  | .orB32 _ d _ _ => [⟨d.reg, 1⟩]
  | .xorB32 _ d _ _ => [⟨d.reg, 1⟩]
  | .andnB32 _ d _ _ => [⟨d.reg, 1⟩]
  | .movB32 _ d _ => [⟨d.reg, 1⟩]
  | .popcB32 _ d _ => [⟨d.reg, 1⟩]
  | .clzB32 _ d _ => [⟨d.reg, 1⟩]
  | .brevB32 _ d _ => [⟨d.reg, 1⟩]
  | .iadd64B32 _ d _ _ => [⟨d, 2⟩]
  | .iabsB32 _ d _ => [⟨d.reg, 1⟩]
  | .inegB32 _ d _ => [⟨d.reg, 1⟩]
  | .faddF32B32 _ d _ _ => [⟨d.reg, 1⟩]
  | .fsubF32B32 _ d _ _ => [⟨d.reg, 1⟩]
  | .fmulF32B32 _ d _ _ => [⟨d.reg, 1⟩]
  | .fminF32B32 _ d _ _ => [⟨d.reg, 1⟩]
  | .fmaxF32B32 _ d _ _ => [⟨d.reg, 1⟩]
  | .frcpF32B32 _ d _ => [⟨d.reg, 1⟩]
  | .frsqF32B32 _ d _ => [⟨d.reg, 1⟩]
  | .fsqrtF32B32 _ d _ => [⟨d.reg, 1⟩]
  | .fexp2F32B32 _ d _ => [⟨d.reg, 1⟩]
  | .flog2F32B32 _ d _ => [⟨d.reg, 1⟩]
  | .faddBf16B32 _ d _ _ => [⟨d.reg, 1⟩]
  | .fmulBf16B32 _ d _ _ => [⟨d.reg, 1⟩]
  | .faddF16B32 _ d _ _ => [⟨d.reg, 1⟩]
  | .fmulF16B32 _ d _ _ => [⟨d.reg, 1⟩]
  | .fclassF32B32 _ d _ => [⟨d.reg, 1⟩]
  | .braB32 _ _ => []
  | .retB32 _ _ => []
  | .exitB32 _ => []
  | .yieldB32 _ => []
  | .nopB32 _ => []
  | .mkcurB32 _ _ => []
  | .joinB32 _ _ => []
  | .leaveB32 _ _ => []
  | .raddF32B32 _ d _ _ => [⟨d.reg, 1⟩]
  | .unaddF32B32 _ d _ _ => [⟨d.reg, 1⟩]
  | .rmulF32B32 _ d _ _ => [⟨d.reg, 1⟩]
  | .unmulF32B32 _ d _ _ => [⟨d.reg, 1⟩]
  | .rreluF32B32 _ d _ => [⟨d.reg, 1⟩]
  | .unreluF32B32 _ d _ => [⟨d.reg, 1⟩]
  | .rmulS32B32 _ d _ _ => [⟨d.reg, 1⟩]
  | .unmulS32B32 _ d _ _ => [⟨d.reg, 1⟩]
  | .iaddX64 _ d _ _ _ _ => [⟨d.reg, 1⟩]
  | .isubX64 _ d _ _ _ _ => [⟨d.reg, 1⟩]
  | .imulX64 _ d _ _ _ => [⟨d.reg, 1⟩]
  | .imulhX64 _ d _ _ _ => [⟨d.reg, 1⟩]
  | .imad _ d _ _ _ _ => [⟨d.reg, 1⟩]
  | .imadw _ d _ _ _ _ => [⟨d, 2⟩]
  | .iadd64X64 _ d _ _ _ => [⟨d, 2⟩]
  | .leaX64 _ d _ _ _ _ => [⟨d, 2⟩]
  | .iabsX64 _ d _ _ => [⟨d.reg, 1⟩]
  | .inegX64 _ d _ _ => [⟨d.reg, 1⟩]
  | .iminX64 _ d _ _ _ => [⟨d.reg, 1⟩]
  | .imaxX64 _ d _ _ _ => [⟨d.reg, 1⟩]
  | .shlX64 _ d _ _ _ _ => [⟨d.reg, 1⟩]
  | .shrX64 _ d _ _ _ _ => [⟨d.reg, 1⟩]
  | .shf _ d _ _ _ _ _ _ => [⟨d.reg, 1⟩]
  | .rot _ d _ _ _ _ => [⟨d.reg, 1⟩]
  | .andX64 _ d _ _ _ => [⟨d.reg, 1⟩]
  | .orX64 _ d _ _ _ => [⟨d.reg, 1⟩]
  | .xorX64 _ d _ _ _ => [⟨d.reg, 1⟩]
  | .andnX64 _ d _ _ _ => [⟨d.reg, 1⟩]
  | .tern _ d _ _ _ _ _ => [⟨d.reg, 1⟩]
  | .popcX64 _ d _ _ => [⟨d.reg, 1⟩]
  | .clzX64 _ d _ _ => [⟨d.reg, 1⟩]
  | .brevX64 _ d _ _ => [⟨d.reg, 1⟩]
  | .bfx _ d _ _ _ _ => [⟨d.reg, 1⟩]
  | .bfi _ d _ _ _ _ _ => [⟨d.reg, 1⟩]
  | .icmp _ _ _ _ _ _ _ => []
  | .sel _ d _ _ _ _ _ => [⟨d.reg, 1⟩]
  | .plog _ x => [⟨x.dstReg, 1⟩]
  | .movX64 _ d _ _ => [⟨d.reg, 1⟩]
  | .idp4 _ d _ _ _ _ _ => [⟨d.reg, 1⟩]
  | .xch _ d _ _ ty _ _ => [⟨d.reg, ty.regs⟩]
  | .vote _ x _ _ => [⟨x.dstReg, 2⟩]
  | .match _ d _ _ _ => [⟨d, 2⟩]
  | .redux _ d _ _ _ => [⟨d.reg, 1⟩]
  | .movi _ d _ => [⟨d.reg, 1⟩]
  | .iaddI64 _ d _ _ => [⟨d.reg, 1⟩]
  | .imulI64 _ d _ _ => [⟨d.reg, 1⟩]
  | .andI64 _ d _ _ => [⟨d.reg, 1⟩]
  | .orI64 _ d _ _ => [⟨d.reg, 1⟩]
  | .xorI64 _ d _ _ => [⟨d.reg, 1⟩]
  | .shlI64 _ d _ _ => [⟨d.reg, 1⟩]
  | .shrI64 _ d _ _ _ => [⟨d.reg, 1⟩]
  | .iminI64 _ d _ _ => [⟨d.reg, 1⟩]
  | .imaxI64 _ d _ _ => [⟨d.reg, 1⟩]
  | .leaI64 _ d _ _ => [⟨d, 2⟩]
  | .braI64 _ _ => []
  | .call _ d _ => [⟨d, 2⟩]
  | .faddX64 _ d _ _ _ _ => [⟨d.reg, 1⟩]
  | .fsubX64 _ d _ _ _ _ => [⟨d.reg, 1⟩]
  | .fmulX64 _ d _ _ _ _ => [⟨d.reg, 1⟩]
  | .ffma _ d _ _ _ _ _ => [⟨d.reg, 1⟩]
  | .fminX64 _ d _ _ _ _ => [⟨d.reg, 1⟩]
  | .fmaxX64 _ d _ _ _ _ => [⟨d.reg, 1⟩]
  | .fcmp _ _ _ _ _ _ _ _ => []
  | .frcpX64 _ d _ _ => [⟨d.reg, 1⟩]
  | .frsqX64 _ d _ _ => [⟨d.reg, 1⟩]
  | .fsqrtX64 _ d _ _ => [⟨d.reg, 1⟩]
  | .fexp2X64 _ d _ _ => [⟨d.reg, 1⟩]
  | .flog2X64 _ d _ _ => [⟨d.reg, 1⟩]
  | .fdp2 _ d _ _ _ _ _ => [⟨d.reg, 1⟩]
  | .cvt _ d _ _ dt st _ => [⟨d.reg, (cvtDstRegs dt st)⟩]
  | .cvtsr _ d _ _ _ _ _ => [⟨d.reg, 1⟩]
  | .fclassX64 _ d _ _ => [⟨d.reg, 1⟩]
  | .dquant _ _ _ _ _ _ _ => []
  | .brx _ _ => []
  | .callx _ d _ => [⟨d, 2⟩]
  | .retX64 _ _ => []
  | .exitX64 _ => []
  | .yieldX64 _ => []
  | .nopX64 _ => []
  | .mkcurX64 _ _ => []
  | .mktos _ d _ => [⟨d, 2⟩]
  | .stomk _ _ _ => []
  | .joinX64 _ _ => []
  | .leaveX64 _ _ => []
  | .waitm _ _ => []
  | .mklog _ _ _ => []
  | .raddX64 _ d _ _ _ => [⟨d.reg, 1⟩]
  | .rmulX64 _ d _ _ _ _ => [⟨d.reg, 1⟩]
  | .rcvt _ d _ _ _ _ _ => [⟨d.reg, 1⟩]
  | .rreluX64 _ d _ => [⟨d.reg, 1⟩]
  | .rshr _ d _ _ _ => [⟨d.reg, 1⟩]
  | .unaddX64 _ d _ _ => [⟨d.reg, 1⟩]
  | .unmulX64 _ d _ _ _ => [⟨d.reg, 1⟩]
  | .uncvt _ d _ _ _ _ => [⟨d.reg, 1⟩]
  | .unreluX64 _ d _ => [⟨d.reg, 1⟩]
  | .unshr _ d _ _ _ => [⟨d.reg, 1⟩]
  | .chpush _ _ => []
  | .chpop _ d => [⟨d.reg, 1⟩]
  | .chdrop _ _ => []
  | .chdepth _ d => [⟨d.reg, 1⟩]
  | .fbinit _ _ _ => []
  | .fbarr _ d _ _ => [⟨d, 1⟩]
  | .fbwait _ _ _ => []
  | .fbtest _ _ _ _ => []
  | .mma _ _ _ _ _ _ _ => []
  | .dmma _ _ _ _ _ _ => []
  | .ldg _ d _ size _ _ _ => [⟨d, size.regs⟩]
  | .ldgSigned _ d _ _ _ _ _ => [⟨d, 1⟩]
  | .ldgU _ _ d _ size _ _ _ => [⟨d.reg, size.regs⟩]
  | .stg _ _ _ _ _ _ _ => []
  | .stgU _ _ _ _ _ _ _ => []
  | .lda _ d _ size _ => [⟨d, size.regs⟩]
  | .ldaSigned _ d _ _ _ => [⟨d, 1⟩]
  | .sta _ _ _ _ _ => []
  | .ldw _ d _ size _ => [⟨d, size.regs⟩]
  | .ldwSigned _ d _ _ _ => [⟨d, 1⟩]
  | .stw _ _ _ _ _ => []
  | .ldc _ d _ size _ => [⟨d, size.regs⟩]
  | .ldcSigned _ d _ _ _ => [⟨d, 1⟩]
  | .stc _ _ _ _ _ => []
  | .aatom _ _ d _ _ size _ _ _ => [⟨d, size.regs⟩]
  | .invr _ _ _ _ _ => []
  | .inva _ _ => []
  | .phbeg _ _ _ _ => []
  | .phend _ _ _ _ => []
  | .pfl1 _ _ _ _ => []
  | .atom _ _ d _ _ size _ _ _ => [⟨d, size.regs⟩]
  | .cas _ d _ _ size _ _ _ => [⟨d, size.regs⟩]
  | .red _ _ _ _ _ _ _ _ => []
  | .waita _ d _ _ _ _ _ _ => [⟨d, 1⟩]
  | .wake _ d _ _ _ => [⟨d, 1⟩]
  | .fence _ _ _ => []
  | .fld _ d _ _ _ => [⟨d, 1⟩]
  | .fst _ _ _ _ => []
  | .saddB32 _ d _ _ => [⟨d.reg, 1⟩]
  | .ssubB32 _ d _ _ => [⟨d.reg, 1⟩]
  | .smulB32 _ d _ _ => [⟨d.reg, 1⟩]
  | .sadd64B32 _ d _ _ => [⟨d.reg, 2⟩]
  | .sshlB32 _ d _ _ => [⟨d.reg, 1⟩]
  | .sshrZ32B32 _ d _ _ => [⟨d.reg, 1⟩]
  | .sshrS32B32 _ d _ _ => [⟨d.reg, 1⟩]
  | .sandB32 _ d _ _ => [⟨d.reg, 1⟩]
  | .sorB32 _ d _ _ => [⟨d.reg, 1⟩]
  | .sxorB32 _ d _ _ => [⟨d.reg, 1⟩]
  | .sminS32B32 _ d _ _ => [⟨d.reg, 1⟩]
  | .smaxS32B32 _ d _ _ => [⟨d.reg, 1⟩]
  | .sminZ32B32 _ d _ _ => [⟨d.reg, 1⟩]
  | .smaxZ32B32 _ d _ _ => [⟨d.reg, 1⟩]
  | .smovB32 _ d _ => [⟨d.reg, 1⟩]
  | .spopcB32 _ d _ => [⟨d.reg, 1⟩]
  | .lanerdB32 _ d _ _ => [⟨d.reg, 1⟩]
  | .lanewrB32 _ d _ _ => [⟨d, 1⟩]
  | .pwaitAnyB32 _ d _ => [⟨d.reg, 2⟩]
  | .pwaitAllB32 _ d _ => [⟨d.reg, 2⟩]
  | .pfindB32 _ d _ => [⟨d.reg, 1⟩]
  | .pclrB32 _ _ => []
  | .mxacqB32 _ => []
  | .mxtryB32 _ _ => []
  | .mxrelB32 _ => []
  | .mxwaitB32 _ => []
  | .zaccSB32 _ => []
  | .zaccEB32 _ => []
  | .srdB32 _ d a => [⟨d.reg, (if a.is64 then 2 else 1)⟩]
  | .swrB32 _ _ _ => []
  | .trapB32 _ _ => []
  | .brkB32 _ _ => []
  | .barB32 _ => []
  | .tkwaitB32 _ => []
  | .tkpassB32 _ => []
  | .ccwaitB32 _ d _ => [⟨d.reg, 2⟩]
  | .saddX64 _ d _ _ _ _ => [⟨d.reg, 1⟩]
  | .ssubX64 _ d _ _ _ _ => [⟨d.reg, 1⟩]
  | .smulX64 _ d _ _ _ => [⟨d.reg, 1⟩]
  | .smad _ d _ _ _ _ => [⟨d.reg, 1⟩]
  | .sadd64X64 _ d _ _ _ => [⟨d.reg, 2⟩]
  | .sleaX64 _ d _ _ _ _ => [⟨d.reg, 2⟩]
  | .sshlX64 _ d _ _ _ _ => [⟨d.reg, 1⟩]
  | .sshrX64 _ d _ _ _ _ => [⟨d.reg, 1⟩]
  | .sandX64 _ d _ _ _ => [⟨d.reg, 1⟩]
  | .sorX64 _ d _ _ _ => [⟨d.reg, 1⟩]
  | .sxorX64 _ d _ _ _ => [⟨d.reg, 1⟩]
  | .sminX64 _ d _ _ _ => [⟨d.reg, 1⟩]
  | .smaxX64 _ d _ _ _ => [⟨d.reg, 1⟩]
  | .scmp _ _ _ _ _ _ _ => []
  | .ssel _ d _ _ _ _ _ => [⟨d.reg, 1⟩]
  | .smovX64 _ d _ _ => [⟨d.reg, 1⟩]
  | .spopcX64 _ d _ _ => [⟨d.reg, 1⟩]
  | .lanerdX64 _ d _ _ _ => [⟨d.reg, 1⟩]
  | .lanewrX64 _ d _ _ _ => [⟨d, 1⟩]
  | .smovi _ d _ => [⟨d.reg, 1⟩]
  | .saddI64 _ d _ _ => [⟨d.reg, 1⟩]
  | .smulI64 _ d _ _ => [⟨d.reg, 1⟩]
  | .sandI64 _ d _ _ => [⟨d.reg, 1⟩]
  | .sorI64 _ d _ _ => [⟨d.reg, 1⟩]
  | .sxorI64 _ d _ _ => [⟨d.reg, 1⟩]
  | .sshlI64 _ d _ _ => [⟨d.reg, 1⟩]
  | .sshrI64 _ d _ _ _ => [⟨d.reg, 1⟩]
  | .sminI64 _ d _ _ => [⟨d.reg, 1⟩]
  | .smaxI64 _ d _ _ => [⟨d.reg, 1⟩]
  | .sleaI64 _ d _ _ => [⟨d.reg, 2⟩]
  | .cpy _ _ _ _ _ _ _ => []
  | .cpy2 _ _ _ _ _ _ _ _ => []
  | .cpyh _ _ _ _ _ _ _ => []
  | .pfl2 _ _ _ _ => []
  | .pwaitX64 _ d _ _ => [⟨d.reg, 2⟩]
  | .pfindX64 _ d _ => [⟨d.reg, 1⟩]
  | .pclrX64 _ _ => []
  | .pstat _ d _ => [⟨d.reg, 2⟩]
  | .mxacqX64 _ => []
  | .mxtryX64 _ _ => []
  | .mxrelX64 _ => []
  | .stld _ _ _ _ _ _ _ _ _ => []
  | .drain _ _ _ _ _ _ => []
  | .zaccX64 _ _ => []
  | .mxwaitX64 _ => []
  | .rgnb _ _ _ _ _ => []
  | .rfit _ _ _ _ => []
  | .rgnq _ d _ _ => [⟨d.reg, 2⟩]
  | .coll _ _ _ _ _ _ _ _ _ => []
  | .srdX64 _ d a => [⟨d.reg, (if a.is64 then 2 else 1)⟩]
  | .swrX64 _ _ _ => []
  | .trapX64 _ _ => []
  | .brkX64 _ _ => []
  | .twrd _ d _ _ => [⟨d.reg, 1⟩]
  | .twwr _ _ _ _ => []
  | .tres _ => []
  | .tkill _ => []
  | .launch _ d _ _ => [⟨d.reg, 1⟩]
  | .barX64 _ => []
  | .ccwaitX64 _ d _ => [⟨d.reg, 2⟩]
  | .tkwaitX64 _ => []
  | .tkpassX64 _ => []
  | .starved _ _ => []
  | .forcedQueueEntry _ _ => []
  | .thresherZeroingDone _ => []
  | .thresherOpStart _ => []
  | .thresherOpComplete _ => []
  | .wainStart _ => []
  | .wainComplete _ _ => []
  | .cpyhCreditTimeout _ _ => []
  | .pfl2Complete _ _ => []
  | .collStepComplete _ _ _ => []
  | .registration _ => []
  | .registrationAck _ => []
  | .ownerRecall _ _ _ => []
  | .forwardedRead _ => []
  | .readRefusal _ => []
  | .writeBack _ => []
  | .l1Eviction _ _ => []
  | .redPublication _ _ => []
  | .l2LineEviction _ => []
  | .ccwaitPollTimer _ => []
  | .peerAccess _ _ => []
  | .hostAtomicSwap _ _ => []
  | .faultRecordDeferred => []
  | .answer _ => []
  | .invctx _ => []
  | .faultQueueReconfig _ _ _ => []
  | .registerWrite _ _ _ _ => []
  | .qtailDoorbell _ _ => []
  | .recordTake _ => []
  | .dependencesMet _ => []
  | .dealRound _ => []
  | .stookRetire _ => []
  | .cropConfirm _ => []
  | .partitionCommit _ => []
  | .reconfiguration _ => []
  | .parkEviction _ => []
  | .parkRestore _ => []
  | .trapStookStart _ => []
  | .preempt _ => []
  | .restoreParea _ => []
  | .restoreSarea _ => []
  | .prctlNone _ => []
  | .sliceExpiry _ => []
  | .preemptOperationEnd => []
  | .buildStep _ => []
  | .refitStart _ => []
  | .refitStep _ => []
  | .refitCommit _ => []
  | .urgentRefitStart _ => []
  | .bruvasLinkDown _ => []
  | .bruvasLinkUp _ _ _ => []
  | .routeRecompute _ => []
  | .hostLinkDown _ => []
  | .groupEntryWrite _ _ _ _ => []
  | .msixUnmask _ _ => []
  | .scanVisitStart _ => []
  | .scanMove _ => []
  | .scanResult _ _ => []
  | .rickKill _ => []
  | .patrolScrub _ => []
  | .reset => []
  | .functionReady _ _ => []
  | .firmwareBoot _ _ _ _ _ _ _ => []
  | .overtemp => []
  | .attestationStart => []
  | .attestationDone => []
  | .illegalEncoding => []
  | .instructionFetchFault => []
  | .homeReply _ => []
  | .atomicAtHome _ => []
  | .peerHomeReply _ _ _ => []
  | .hostMemoryAccess _ => []
  | .hostSnoopResponse _ _ => []
  | .hostLinkUp _ => []

/-- The group read as operand A (19 Table 19.6). -/
def Instr.opA : Instr → RegUse
  | .iaddB32 _ _ a _ => ⟨a, 1⟩
  | .isubB32 _ _ a _ => ⟨a, 1⟩
  | .imulB32 _ _ a _ => ⟨a, 1⟩
  | .imulhS32B32 _ _ a _ => ⟨a, 1⟩
  | .imulhZ32B32 _ _ a _ => ⟨a, 1⟩
  | .iminS32B32 _ _ a _ => ⟨a, 1⟩
  | .imaxS32B32 _ _ a _ => ⟨a, 1⟩
  | .iminZ32B32 _ _ a _ => ⟨a, 1⟩
  | .imaxZ32B32 _ _ a _ => ⟨a, 1⟩
  | .shlB32 _ _ a _ => ⟨a, 1⟩
  | .shrZ32B32 _ _ a _ => ⟨a, 1⟩
  | .shrS32B32 _ _ a _ => ⟨a, 1⟩
  | .andB32 _ _ a _ => ⟨a, 1⟩
  | .orB32 _ _ a _ => ⟨a, 1⟩
  | .xorB32 _ _ a _ => ⟨a, 1⟩
  | .andnB32 _ _ a _ => ⟨a, 1⟩
  | .movB32 _ _ a => ⟨a, 1⟩
  | .popcB32 _ _ a => ⟨a, 1⟩
  | .clzB32 _ _ a => ⟨a, 1⟩
  | .brevB32 _ _ a => ⟨a, 1⟩
  | .iadd64B32 _ _ a _ => ⟨a, 2⟩
  | .iabsB32 _ _ a => ⟨a, 1⟩
  | .inegB32 _ _ a => ⟨a, 1⟩
  | .faddF32B32 _ _ a _ => ⟨a, 1⟩
  | .fsubF32B32 _ _ a _ => ⟨a, 1⟩
  | .fmulF32B32 _ _ a _ => ⟨a, 1⟩
  | .fminF32B32 _ _ a _ => ⟨a, 1⟩
  | .fmaxF32B32 _ _ a _ => ⟨a, 1⟩
  | .frcpF32B32 _ _ a => ⟨a, 1⟩
  | .frsqF32B32 _ _ a => ⟨a, 1⟩
  | .fsqrtF32B32 _ _ a => ⟨a, 1⟩
  | .fexp2F32B32 _ _ a => ⟨a, 1⟩
  | .flog2F32B32 _ _ a => ⟨a, 1⟩
  | .faddBf16B32 _ _ a _ => ⟨a, 1⟩
  | .fmulBf16B32 _ _ a _ => ⟨a, 1⟩
  | .faddF16B32 _ _ a _ => ⟨a, 1⟩
  | .fmulF16B32 _ _ a _ => ⟨a, 1⟩
  | .fclassF32B32 _ _ a => ⟨a, 1⟩
  | .braB32 _ _ => ⟨.z, 0⟩
  | .retB32 _ a => ⟨a, 2⟩
  | .exitB32 _ => ⟨.z, 0⟩
  | .yieldB32 _ => ⟨.z, 0⟩
  | .nopB32 _ => ⟨.z, 0⟩
  | .mkcurB32 _ _ => ⟨.z, 0⟩
  | .joinB32 _ _ => ⟨.z, 0⟩
  | .leaveB32 _ _ => ⟨.z, 0⟩
  | .raddF32B32 _ _ a _ => ⟨a, 1⟩
  | .unaddF32B32 _ _ a _ => ⟨a, 1⟩
  | .rmulF32B32 _ _ a _ => ⟨a, 1⟩
  | .unmulF32B32 _ _ a _ => ⟨a, 1⟩
  | .rreluF32B32 _ _ a => ⟨a, 1⟩
  | .unreluF32B32 _ _ a => ⟨a, 1⟩
  | .rmulS32B32 _ _ a _ => ⟨a, 1⟩
  | .unmulS32B32 _ _ a _ => ⟨a, 1⟩
  | .iaddX64 _ _ a _ _ _ => ⟨a, 1⟩
  | .isubX64 _ _ a _ _ _ => ⟨a, 1⟩
  | .imulX64 _ _ a _ _ => ⟨a, 1⟩
  | .imulhX64 _ _ a _ _ => ⟨a, 1⟩
  | .imad _ _ a _ _ _ => ⟨a, 1⟩
  | .imadw _ _ a _ _ _ => ⟨a, 1⟩
  | .iadd64X64 _ _ a _ _ => ⟨a, 2⟩
  | .leaX64 _ _ a _ _ _ => ⟨a, 2⟩
  | .iabsX64 _ _ a _ => ⟨a, 1⟩
  | .inegX64 _ _ a _ => ⟨a, 1⟩
  | .iminX64 _ _ a _ _ => ⟨a, 1⟩
  | .imaxX64 _ _ a _ _ => ⟨a, 1⟩
  | .shlX64 _ _ a _ _ _ => ⟨a, 1⟩
  | .shrX64 _ _ a _ _ _ => ⟨a, 1⟩
  | .shf _ _ a _ _ _ _ _ => ⟨a, 1⟩
  | .rot _ _ a _ _ _ => ⟨a, 1⟩
  | .andX64 _ _ a _ _ => ⟨a, 1⟩
  | .orX64 _ _ a _ _ => ⟨a, 1⟩
  | .xorX64 _ _ a _ _ => ⟨a, 1⟩
  | .andnX64 _ _ a _ _ => ⟨a, 1⟩
  | .tern _ _ a _ _ _ _ => ⟨a, 1⟩
  | .popcX64 _ _ a _ => ⟨a, 1⟩
  | .clzX64 _ _ a _ => ⟨a, 1⟩
  | .brevX64 _ _ a _ => ⟨a, 1⟩
  | .bfx _ _ a _ _ _ => ⟨a, 1⟩
  | .bfi _ _ a _ _ _ _ => ⟨a, 1⟩
  | .icmp _ _ a _ _ _ _ => ⟨a, 1⟩
  | .sel _ _ a _ _ _ _ => ⟨a, 1⟩
  | .plog _ x => ⟨x.srcReg, 1⟩
  | .movX64 _ _ a _ => ⟨a, 1⟩
  | .idp4 _ _ a _ _ _ _ => ⟨a, 1⟩
  | .xch _ _ a _ ty _ _ => ⟨a, ty.regs⟩
  | .vote _ _ _ _ => ⟨.z, 0⟩
  | .match _ _ a ty _ => ⟨a, ty.regs⟩
  | .redux _ _ a _ _ => ⟨a, 1⟩
  | .movi _ _ _ => ⟨.z, 0⟩
  | .iaddI64 _ _ a _ => ⟨a, 1⟩
  | .imulI64 _ _ a _ => ⟨a, 1⟩
  | .andI64 _ _ a _ => ⟨a, 1⟩
  | .orI64 _ _ a _ => ⟨a, 1⟩
  | .xorI64 _ _ a _ => ⟨a, 1⟩
  | .shlI64 _ _ a _ => ⟨a, 1⟩
  | .shrI64 _ _ a _ _ => ⟨a, 1⟩
  | .iminI64 _ _ a _ => ⟨a, 1⟩
  | .imaxI64 _ _ a _ => ⟨a, 1⟩
  | .leaI64 _ _ a _ => ⟨a, 2⟩
  | .braI64 _ _ => ⟨.z, 0⟩
  | .call _ _ _ => ⟨.z, 0⟩
  | .faddX64 _ _ a _ _ _ => ⟨a, 1⟩
  | .fsubX64 _ _ a _ _ _ => ⟨a, 1⟩
  | .fmulX64 _ _ a _ _ _ => ⟨a, 1⟩
  | .ffma _ _ a _ _ _ _ => ⟨a, 1⟩
  | .fminX64 _ _ a _ _ _ => ⟨a, 1⟩
  | .fmaxX64 _ _ a _ _ _ => ⟨a, 1⟩
  | .fcmp _ _ a _ _ _ _ _ => ⟨a, 1⟩
  | .frcpX64 _ _ a _ => ⟨a, 1⟩
  | .frsqX64 _ _ a _ => ⟨a, 1⟩
  | .fsqrtX64 _ _ a _ => ⟨a, 1⟩
  | .fexp2X64 _ _ a _ => ⟨a, 1⟩
  | .flog2X64 _ _ a _ => ⟨a, 1⟩
  | .fdp2 _ _ a _ _ _ _ => ⟨a, 1⟩
  | .cvt _ _ a _ dt st _ => ⟨a, (cvtSrcRegs dt st)⟩
  | .cvtsr _ _ a _ _ dt st => ⟨a, (cvtSrcRegs dt st)⟩
  | .fclassX64 _ _ a _ => ⟨a, 1⟩
  | .dquant _ a _ _ _ _ _ => ⟨.v a, 16⟩
  | .brx _ a => ⟨a, 2⟩
  | .callx _ _ a => ⟨a, 2⟩
  | .retX64 _ a => ⟨a, 2⟩
  | .exitX64 _ => ⟨.z, 0⟩
  | .yieldX64 _ => ⟨.z, 0⟩
  | .nopX64 _ => ⟨.z, 0⟩
  | .mkcurX64 _ _ => ⟨.z, 0⟩
  | .mktos _ _ _ => ⟨.z, 0⟩
  | .stomk _ _ a => ⟨a, 2⟩
  | .joinX64 _ _ => ⟨.z, 0⟩
  | .leaveX64 _ _ => ⟨.z, 0⟩
  | .waitm _ _ => ⟨.z, 0⟩
  | .mklog _ _ _ => ⟨.z, 0⟩
  | .raddX64 _ _ a _ _ => ⟨a, 1⟩
  | .rmulX64 _ _ a _ _ _ => ⟨a, 1⟩
  | .rcvt _ _ a _ _ _ _ => ⟨a, 1⟩
  | .rreluX64 _ _ a => ⟨a, 1⟩
  | .rshr _ _ a _ _ => ⟨a, 1⟩
  | .unaddX64 _ _ a _ => ⟨a, 1⟩
  | .unmulX64 _ _ a _ _ => ⟨a, 1⟩
  | .uncvt _ _ a _ _ _ => ⟨a, 1⟩
  | .unreluX64 _ _ a => ⟨a, 1⟩
  | .unshr _ _ a _ _ => ⟨a, 1⟩
  | .chpush _ a => ⟨a, 1⟩
  | .chpop _ _ => ⟨.z, 0⟩
  | .chdrop _ a => ⟨a, 1⟩
  | .chdepth _ _ => ⟨.z, 0⟩
  | .fbinit _ a _ => ⟨a, 1⟩
  | .fbarr _ _ a _ => ⟨a, 1⟩
  | .fbwait _ a _ => ⟨a, 1⟩
  | .fbtest _ _ a _ => ⟨a, 1⟩
  | .mma _ a _ ty _ _ _ => ⟨.v a, (mmaGroup ty)⟩
  | .dmma _ a _ _ ty _ => ⟨.v a, (mmaGroup ty)⟩
  | .ldg _ _ a _ _ _ _ => ⟨a, 2⟩
  | .ldgSigned _ _ a _ _ _ _ => ⟨a, 2⟩
  | .ldgU _ _ _ a _ _ _ _ => ⟨a.reg, 2⟩
  | .stg _ a _ _ _ _ _ => ⟨a, 2⟩
  | .stgU _ a _ _ _ _ _ => ⟨a.reg, 2⟩
  | .lda _ _ a _ _ => ⟨a, 1⟩
  | .ldaSigned _ _ a _ _ => ⟨a, 1⟩
  | .sta _ a _ _ _ => ⟨a, 1⟩
  | .ldw _ _ a _ _ => ⟨a, 1⟩
  | .ldwSigned _ _ a _ _ => ⟨a, 1⟩
  | .stw _ a _ _ _ => ⟨a, 1⟩
  | .ldc _ _ a _ _ => ⟨a, 1⟩
  | .ldcSigned _ _ a _ _ => ⟨a, 1⟩
  | .stc _ a _ _ _ => ⟨a, 1⟩
  | .aatom _ _ _ a _ _ _ _ _ => ⟨a, 1⟩
  | .invr _ a _ _ _ => ⟨a, 2⟩
  | .inva _ _ => ⟨.z, 0⟩
  | .phbeg _ a _ _ => ⟨a, 2⟩
  | .phend _ a _ _ => ⟨a, 2⟩
  | .pfl1 _ a _ _ => ⟨a, 2⟩
  | .atom _ _ _ a _ _ _ _ _ => ⟨a, 2⟩
  | .cas _ _ a _ _ _ _ _ => ⟨a, 2⟩
  | .red _ _ a _ _ _ _ _ => ⟨a, 2⟩
  | .waita _ _ a _ _ _ _ _ => ⟨a, 2⟩
  | .wake _ _ a _ _ => ⟨a, 2⟩
  | .fence _ _ _ => ⟨.z, 0⟩
  | .fld _ _ a _ _ => ⟨a, 2⟩
  | .fst _ a _ _ => ⟨a, 2⟩
  | .saddB32 _ _ a _ => ⟨a.reg, 1⟩
  | .ssubB32 _ _ a _ => ⟨a.reg, 1⟩
  | .smulB32 _ _ a _ => ⟨a.reg, 1⟩
  | .sadd64B32 _ _ a _ => ⟨a.reg, 2⟩
  | .sshlB32 _ _ a _ => ⟨a.reg, 1⟩
  | .sshrZ32B32 _ _ a _ => ⟨a.reg, 1⟩
  | .sshrS32B32 _ _ a _ => ⟨a.reg, 1⟩
  | .sandB32 _ _ a _ => ⟨a.reg, 1⟩
  | .sorB32 _ _ a _ => ⟨a.reg, 1⟩
  | .sxorB32 _ _ a _ => ⟨a.reg, 1⟩
  | .sminS32B32 _ _ a _ => ⟨a.reg, 1⟩
  | .smaxS32B32 _ _ a _ => ⟨a.reg, 1⟩
  | .sminZ32B32 _ _ a _ => ⟨a.reg, 1⟩
  | .smaxZ32B32 _ _ a _ => ⟨a.reg, 1⟩
  | .smovB32 _ _ a => ⟨a.reg, 1⟩
  | .spopcB32 _ _ a => ⟨a.reg, 1⟩
  | .lanerdB32 _ _ a _ => ⟨a, 1⟩
  | .lanewrB32 _ _ a _ => ⟨a.reg, 1⟩
  | .pwaitAnyB32 _ _ a => ⟨a.reg, 2⟩
  | .pwaitAllB32 _ _ a => ⟨a.reg, 2⟩
  | .pfindB32 _ _ a => ⟨a.reg, 2⟩
  | .pclrB32 _ a => ⟨a.reg, 2⟩
  | .mxacqB32 _ => ⟨.z, 0⟩
  | .mxtryB32 _ _ => ⟨.z, 0⟩
  | .mxrelB32 _ => ⟨.z, 0⟩
  | .mxwaitB32 _ => ⟨.z, 0⟩
  | .zaccSB32 _ => ⟨.z, 0⟩
  | .zaccEB32 _ => ⟨.z, 0⟩
  | .srdB32 _ _ _ => ⟨.z, 0⟩
  | .swrB32 _ _ a => ⟨a.reg, 1⟩
  | .trapB32 _ a => ⟨a.reg, 1⟩
  | .brkB32 _ a => ⟨a.reg, 1⟩
  | .barB32 _ => ⟨.z, 0⟩
  | .tkwaitB32 _ => ⟨.z, 0⟩
  | .tkpassB32 _ => ⟨.z, 0⟩
  | .ccwaitB32 _ _ a => ⟨a.reg, 2⟩
  | .saddX64 _ _ a _ _ _ => ⟨a.reg, 1⟩
  | .ssubX64 _ _ a _ _ _ => ⟨a.reg, 1⟩
  | .smulX64 _ _ a _ _ => ⟨a.reg, 1⟩
  | .smad _ _ a _ _ _ => ⟨a.reg, 1⟩
  | .sadd64X64 _ _ a _ _ => ⟨a.reg, 2⟩
  | .sleaX64 _ _ a _ _ _ => ⟨a.reg, 2⟩
  | .sshlX64 _ _ a _ _ _ => ⟨a.reg, 1⟩
  | .sshrX64 _ _ a _ _ _ => ⟨a.reg, 1⟩
  | .sandX64 _ _ a _ _ => ⟨a.reg, 1⟩
  | .sorX64 _ _ a _ _ => ⟨a.reg, 1⟩
  | .sxorX64 _ _ a _ _ => ⟨a.reg, 1⟩
  | .sminX64 _ _ a _ _ => ⟨a.reg, 1⟩
  | .smaxX64 _ _ a _ _ => ⟨a.reg, 1⟩
  | .scmp _ _ a _ _ _ _ => ⟨a.reg, 1⟩
  | .ssel _ _ a _ _ _ _ => ⟨a.reg, 1⟩
  | .smovX64 _ _ a _ => ⟨a.reg, 1⟩
  | .spopcX64 _ _ a _ => ⟨a.reg, 1⟩
  | .lanerdX64 _ _ a _ _ => ⟨a, 1⟩
  | .lanewrX64 _ _ a _ _ => ⟨a.reg, 1⟩
  | .smovi _ _ _ => ⟨.z, 0⟩
  | .saddI64 _ _ a _ => ⟨a.reg, 1⟩
  | .smulI64 _ _ a _ => ⟨a.reg, 1⟩
  | .sandI64 _ _ a _ => ⟨a.reg, 1⟩
  | .sorI64 _ _ a _ => ⟨a.reg, 1⟩
  | .sxorI64 _ _ a _ => ⟨a.reg, 1⟩
  | .sshlI64 _ _ a _ => ⟨a.reg, 1⟩
  | .sshrI64 _ _ a _ _ => ⟨a.reg, 1⟩
  | .sminI64 _ _ a _ => ⟨a.reg, 1⟩
  | .smaxI64 _ _ a _ => ⟨a.reg, 1⟩
  | .sleaI64 _ _ a _ => ⟨a.reg, 2⟩
  | .cpy _ _ a _ _ _ _ => ⟨a.reg, 2⟩
  | .cpy2 _ _ a _ _ _ _ _ => ⟨a.reg, 2⟩
  | .cpyh _ _ a _ _ _ _ => ⟨a.reg, 2⟩
  | .pfl2 _ _ a _ => ⟨a.reg, 2⟩
  | .pwaitX64 _ _ a _ => ⟨a.reg, 2⟩
  | .pfindX64 _ _ a => ⟨a.reg, 2⟩
  | .pclrX64 _ a => ⟨a.reg, 2⟩
  | .pstat _ _ _ => ⟨.z, 0⟩
  | .mxacqX64 _ => ⟨.z, 0⟩
  | .mxtryX64 _ _ => ⟨.z, 0⟩
  | .mxrelX64 _ => ⟨.z, 0⟩
  | .stld _ a _ _ _ _ _ _ _ => ⟨a.reg, 1⟩
  | .drain _ a _ _ _ _ => ⟨a.reg, 1⟩
  | .zaccX64 _ _ => ⟨.z, 0⟩
  | .mxwaitX64 _ => ⟨.z, 0⟩
  | .rgnb _ a _ _ _ => ⟨a.reg, 1⟩
  | .rfit _ a _ _ => ⟨a.reg, 1⟩
  | .rgnq _ _ a _ => ⟨a.reg, 1⟩
  | .coll _ _ a _ _ _ _ _ _ => ⟨a.reg, 2⟩
  | .srdX64 _ _ _ => ⟨.z, 0⟩
  | .swrX64 _ _ a => ⟨a.reg, 1⟩
  | .trapX64 _ a => ⟨a.reg, 1⟩
  | .brkX64 _ a => ⟨a.reg, 1⟩
  | .twrd _ _ a _ => ⟨a.reg, 1⟩
  | .twwr _ a _ _ => ⟨a.reg, 1⟩
  | .tres _ => ⟨.z, 0⟩
  | .tkill _ => ⟨.z, 0⟩
  | .launch _ _ a _ => ⟨a.reg, 2⟩
  | .barX64 _ => ⟨.z, 0⟩
  | .ccwaitX64 _ _ a => ⟨a.reg, 2⟩
  | .tkwaitX64 _ => ⟨.z, 0⟩
  | .tkpassX64 _ => ⟨.z, 0⟩
  | .starved _ _ => ⟨.z, 0⟩
  | .forcedQueueEntry _ _ => ⟨.z, 0⟩
  | .thresherZeroingDone _ => ⟨.z, 0⟩
  | .thresherOpStart _ => ⟨.z, 0⟩
  | .thresherOpComplete _ => ⟨.z, 0⟩
  | .wainStart _ => ⟨.z, 0⟩
  | .wainComplete _ _ => ⟨.z, 0⟩
  | .cpyhCreditTimeout _ _ => ⟨.z, 0⟩
  | .pfl2Complete _ _ => ⟨.z, 0⟩
  | .collStepComplete _ _ _ => ⟨.z, 0⟩
  | .registration _ => ⟨.z, 0⟩
  | .registrationAck _ => ⟨.z, 0⟩
  | .ownerRecall _ _ _ => ⟨.z, 0⟩
  | .forwardedRead _ => ⟨.z, 0⟩
  | .readRefusal _ => ⟨.z, 0⟩
  | .writeBack _ => ⟨.z, 0⟩
  | .l1Eviction _ _ => ⟨.z, 0⟩
  | .redPublication _ _ => ⟨.z, 0⟩
  | .l2LineEviction _ => ⟨.z, 0⟩
  | .ccwaitPollTimer _ => ⟨.z, 0⟩
  | .peerAccess _ _ => ⟨.z, 0⟩
  | .hostAtomicSwap _ _ => ⟨.z, 0⟩
  | .faultRecordDeferred => ⟨.z, 0⟩
  | .answer _ => ⟨.z, 0⟩
  | .invctx _ => ⟨.z, 0⟩
  | .faultQueueReconfig _ _ _ => ⟨.z, 0⟩
  | .registerWrite _ _ _ _ => ⟨.z, 0⟩
  | .qtailDoorbell _ _ => ⟨.z, 0⟩
  | .recordTake _ => ⟨.z, 0⟩
  | .dependencesMet _ => ⟨.z, 0⟩
  | .dealRound _ => ⟨.z, 0⟩
  | .stookRetire _ => ⟨.z, 0⟩
  | .cropConfirm _ => ⟨.z, 0⟩
  | .partitionCommit _ => ⟨.z, 0⟩
  | .reconfiguration _ => ⟨.z, 0⟩
  | .parkEviction _ => ⟨.z, 0⟩
  | .parkRestore _ => ⟨.z, 0⟩
  | .trapStookStart _ => ⟨.z, 0⟩
  | .preempt _ => ⟨.z, 0⟩
  | .restoreParea _ => ⟨.z, 0⟩
  | .restoreSarea _ => ⟨.z, 0⟩
  | .prctlNone _ => ⟨.z, 0⟩
  | .sliceExpiry _ => ⟨.z, 0⟩
  | .preemptOperationEnd => ⟨.z, 0⟩
  | .buildStep _ => ⟨.z, 0⟩
  | .refitStart _ => ⟨.z, 0⟩
  | .refitStep _ => ⟨.z, 0⟩
  | .refitCommit _ => ⟨.z, 0⟩
  | .urgentRefitStart _ => ⟨.z, 0⟩
  | .bruvasLinkDown _ => ⟨.z, 0⟩
  | .bruvasLinkUp _ _ _ => ⟨.z, 0⟩
  | .routeRecompute _ => ⟨.z, 0⟩
  | .hostLinkDown _ => ⟨.z, 0⟩
  | .groupEntryWrite _ _ _ _ => ⟨.z, 0⟩
  | .msixUnmask _ _ => ⟨.z, 0⟩
  | .scanVisitStart _ => ⟨.z, 0⟩
  | .scanMove _ => ⟨.z, 0⟩
  | .scanResult _ _ => ⟨.z, 0⟩
  | .rickKill _ => ⟨.z, 0⟩
  | .patrolScrub _ => ⟨.z, 0⟩
  | .reset => ⟨.z, 0⟩
  | .functionReady _ _ => ⟨.z, 0⟩
  | .firmwareBoot _ _ _ _ _ _ _ => ⟨.z, 0⟩
  | .overtemp => ⟨.z, 0⟩
  | .attestationStart => ⟨.z, 0⟩
  | .attestationDone => ⟨.z, 0⟩
  | .illegalEncoding => ⟨.z, 0⟩
  | .instructionFetchFault => ⟨.z, 0⟩
  | .homeReply _ => ⟨.z, 0⟩
  | .atomicAtHome _ => ⟨.z, 0⟩
  | .peerHomeReply _ _ _ => ⟨.z, 0⟩
  | .hostMemoryAccess _ => ⟨.z, 0⟩
  | .hostSnoopResponse _ _ => ⟨.z, 0⟩
  | .hostLinkUp _ => ⟨.z, 0⟩

/-- The group read as operand B (19 Table 19.6). -/
def Instr.opB : Instr → RegUse
  | .iaddB32 _ _ _ b => ⟨b, 1⟩
  | .isubB32 _ _ _ b => ⟨b, 1⟩
  | .imulB32 _ _ _ b => ⟨b, 1⟩
  | .imulhS32B32 _ _ _ b => ⟨b, 1⟩
  | .imulhZ32B32 _ _ _ b => ⟨b, 1⟩
  | .iminS32B32 _ _ _ b => ⟨b, 1⟩
  | .imaxS32B32 _ _ _ b => ⟨b, 1⟩
  | .iminZ32B32 _ _ _ b => ⟨b, 1⟩
  | .imaxZ32B32 _ _ _ b => ⟨b, 1⟩
  | .shlB32 _ _ _ b => ⟨b, 1⟩
  | .shrZ32B32 _ _ _ b => ⟨b, 1⟩
  | .shrS32B32 _ _ _ b => ⟨b, 1⟩
  | .andB32 _ _ _ b => ⟨b, 1⟩
  | .orB32 _ _ _ b => ⟨b, 1⟩
  | .xorB32 _ _ _ b => ⟨b, 1⟩
  | .andnB32 _ _ _ b => ⟨b, 1⟩
  | .movB32 _ _ _ => ⟨.z, 0⟩
  | .popcB32 _ _ _ => ⟨.z, 0⟩
  | .clzB32 _ _ _ => ⟨.z, 0⟩
  | .brevB32 _ _ _ => ⟨.z, 0⟩
  | .iadd64B32 _ _ _ b => ⟨b, 2⟩
  | .iabsB32 _ _ _ => ⟨.z, 0⟩
  | .inegB32 _ _ _ => ⟨.z, 0⟩
  | .faddF32B32 _ _ _ b => ⟨b, 1⟩
  | .fsubF32B32 _ _ _ b => ⟨b, 1⟩
  | .fmulF32B32 _ _ _ b => ⟨b, 1⟩
  | .fminF32B32 _ _ _ b => ⟨b, 1⟩
  | .fmaxF32B32 _ _ _ b => ⟨b, 1⟩
  | .frcpF32B32 _ _ _ => ⟨.z, 0⟩
  | .frsqF32B32 _ _ _ => ⟨.z, 0⟩
  | .fsqrtF32B32 _ _ _ => ⟨.z, 0⟩
  | .fexp2F32B32 _ _ _ => ⟨.z, 0⟩
  | .flog2F32B32 _ _ _ => ⟨.z, 0⟩
  | .faddBf16B32 _ _ _ b => ⟨b, 1⟩
  | .fmulBf16B32 _ _ _ b => ⟨b, 1⟩
  | .faddF16B32 _ _ _ b => ⟨b, 1⟩
  | .fmulF16B32 _ _ _ b => ⟨b, 1⟩
  | .fclassF32B32 _ _ _ => ⟨.z, 0⟩
  | .braB32 _ _ => ⟨.z, 0⟩
  | .retB32 _ _ => ⟨.z, 0⟩
  | .exitB32 _ => ⟨.z, 0⟩
  | .yieldB32 _ => ⟨.z, 0⟩
  | .nopB32 _ => ⟨.z, 0⟩
  | .mkcurB32 _ _ => ⟨.z, 0⟩
  | .joinB32 _ _ => ⟨.z, 0⟩
  | .leaveB32 _ _ => ⟨.z, 0⟩
  | .raddF32B32 _ _ _ b => ⟨b, 1⟩
  | .unaddF32B32 _ _ _ b => ⟨b, 1⟩
  | .rmulF32B32 _ _ _ b => ⟨b, 1⟩
  | .unmulF32B32 _ _ _ b => ⟨b, 1⟩
  | .rreluF32B32 _ _ _ => ⟨.z, 0⟩
  | .unreluF32B32 _ _ _ => ⟨.z, 0⟩
  | .rmulS32B32 _ _ _ b => ⟨b, 1⟩
  | .unmulS32B32 _ _ _ b => ⟨b, 1⟩
  | .iaddX64 _ _ _ b _ _ => ⟨b, 1⟩
  | .isubX64 _ _ _ b _ _ => ⟨b, 1⟩
  | .imulX64 _ _ _ b _ => ⟨b, 1⟩
  | .imulhX64 _ _ _ b _ => ⟨b, 1⟩
  | .imad _ _ _ b _ _ => ⟨b, 1⟩
  | .imadw _ _ _ b _ _ => ⟨b, 1⟩
  | .iadd64X64 _ _ _ b _ => ⟨b, 2⟩
  | .leaX64 _ _ _ b _ _ => ⟨b, 1⟩
  | .iabsX64 _ _ _ _ => ⟨.z, 0⟩
  | .inegX64 _ _ _ _ => ⟨.z, 0⟩
  | .iminX64 _ _ _ b _ => ⟨b, 1⟩
  | .imaxX64 _ _ _ b _ => ⟨b, 1⟩
  | .shlX64 _ _ _ b _ _ => ⟨b, 1⟩
  | .shrX64 _ _ _ b _ _ => ⟨b, 1⟩
  | .shf _ _ _ b _ _ _ _ => ⟨b, 1⟩
  | .rot _ _ _ b _ _ => ⟨b, 1⟩
  | .andX64 _ _ _ b _ => ⟨b, 1⟩
  | .orX64 _ _ _ b _ => ⟨b, 1⟩
  | .xorX64 _ _ _ b _ => ⟨b, 1⟩
  | .andnX64 _ _ _ b _ => ⟨b, 1⟩
  | .tern _ _ _ b _ _ _ => ⟨b, 1⟩
  | .popcX64 _ _ _ _ => ⟨.z, 0⟩
  | .clzX64 _ _ _ _ => ⟨.z, 0⟩
  | .brevX64 _ _ _ _ => ⟨.z, 0⟩
  | .bfx _ _ _ _ _ _ => ⟨.z, 0⟩
  | .bfi _ _ _ b _ _ _ => ⟨b, 1⟩
  | .icmp _ _ _ b _ _ _ => ⟨b, 1⟩
  | .sel _ _ _ b _ _ _ => ⟨b, 1⟩
  | .plog _ _ => ⟨.z, 0⟩
  | .movX64 _ _ _ _ => ⟨.z, 0⟩
  | .idp4 _ _ _ b _ _ _ => ⟨b, 1⟩
  | .xch _ _ _ b _ _ _ => ⟨b, 1⟩
  | .vote _ _ _ _ => ⟨.z, 0⟩
  | .match _ _ _ _ _ => ⟨.z, 0⟩
  | .redux _ _ _ _ _ => ⟨.z, 0⟩
  | .movi _ _ _ => ⟨.z, 0⟩
  | .iaddI64 _ _ _ _ => ⟨.z, 0⟩
  | .imulI64 _ _ _ _ => ⟨.z, 0⟩
  | .andI64 _ _ _ _ => ⟨.z, 0⟩
  | .orI64 _ _ _ _ => ⟨.z, 0⟩
  | .xorI64 _ _ _ _ => ⟨.z, 0⟩
  | .shlI64 _ _ _ _ => ⟨.z, 0⟩
  | .shrI64 _ _ _ _ _ => ⟨.z, 0⟩
  | .iminI64 _ _ _ _ => ⟨.z, 0⟩
  | .imaxI64 _ _ _ _ => ⟨.z, 0⟩
  | .leaI64 _ _ _ _ => ⟨.z, 0⟩
  | .braI64 _ _ => ⟨.z, 0⟩
  | .call _ _ _ => ⟨.z, 0⟩
  | .faddX64 _ _ _ b _ _ => ⟨b, 1⟩
  | .fsubX64 _ _ _ b _ _ => ⟨b, 1⟩
  | .fmulX64 _ _ _ b _ _ => ⟨b, 1⟩
  | .ffma _ _ _ b _ _ _ => ⟨b, 1⟩
  | .fminX64 _ _ _ b _ _ => ⟨b, 1⟩
  | .fmaxX64 _ _ _ b _ _ => ⟨b, 1⟩
  | .fcmp _ _ _ b _ _ _ _ => ⟨b, 1⟩
  | .frcpX64 _ _ _ _ => ⟨.z, 0⟩
  | .frsqX64 _ _ _ _ => ⟨.z, 0⟩
  | .fsqrtX64 _ _ _ _ => ⟨.z, 0⟩
  | .fexp2X64 _ _ _ _ => ⟨.z, 0⟩
  | .flog2X64 _ _ _ _ => ⟨.z, 0⟩
  | .fdp2 _ _ _ b _ _ _ => ⟨b, 1⟩
  | .cvt _ _ _ b dt st _ => ⟨b, (cvtBRegs dt st)⟩
  | .cvtsr _ _ _ b _ dt st => ⟨b, (cvtBRegs dt st)⟩
  | .fclassX64 _ _ _ _ => ⟨.z, 0⟩
  | .dquant _ _ b _ _ _ _ => ⟨b.reg, 1⟩
  | .brx _ _ => ⟨.z, 0⟩
  | .callx _ _ _ => ⟨.z, 0⟩
  | .retX64 _ _ => ⟨.z, 0⟩
  | .exitX64 _ => ⟨.z, 0⟩
  | .yieldX64 _ => ⟨.z, 0⟩
  | .nopX64 _ => ⟨.z, 0⟩
  | .mkcurX64 _ _ => ⟨.z, 0⟩
  | .mktos _ _ _ => ⟨.z, 0⟩
  | .stomk _ _ _ => ⟨.z, 0⟩
  | .joinX64 _ _ => ⟨.z, 0⟩
  | .leaveX64 _ _ => ⟨.z, 0⟩
  | .waitm _ _ => ⟨.z, 0⟩
  | .mklog _ _ _ => ⟨.z, 0⟩
  | .raddX64 _ _ _ b _ => ⟨b, 1⟩
  | .rmulX64 _ _ _ b _ _ => ⟨b, 1⟩
  | .rcvt _ _ _ b dt _ _ => ⟨b, (if dt = .s8 then 1 else 0)⟩
  | .rreluX64 _ _ _ => ⟨.z, 0⟩
  | .rshr _ _ _ b _ => ⟨b, 1⟩
  | .unaddX64 _ _ _ b => ⟨b, 1⟩
  | .unmulX64 _ _ _ b _ => ⟨b, 1⟩
  | .uncvt _ _ _ b dt _ => ⟨b, (if dt = .s8 then 1 else 0)⟩
  | .unreluX64 _ _ _ => ⟨.z, 0⟩
  | .unshr _ _ _ b _ => ⟨b, 1⟩
  | .chpush _ _ => ⟨.z, 0⟩
  | .chpop _ _ => ⟨.z, 0⟩
  | .chdrop _ _ => ⟨.z, 0⟩
  | .chdepth _ _ => ⟨.z, 0⟩
  | .fbinit _ _ b => ⟨b, 1⟩
  | .fbarr _ _ _ b => ⟨b, 1⟩
  | .fbwait _ _ b => ⟨b, 1⟩
  | .fbtest _ _ _ b => ⟨b, 1⟩
  | .mma _ _ b ty _ _ af => ⟨b, (if mmaScaled ty af then 1 else 0)⟩
  | .dmma _ _ b _ _ _ => ⟨b.reg, 1⟩
  | .ldg _ _ _ _ _ _ _ => ⟨.z, 0⟩
  | .ldgSigned _ _ _ _ _ _ _ => ⟨.z, 0⟩
  | .ldgU _ _ _ _ _ _ _ _ => ⟨.z, 0⟩
  | .stg _ _ b size _ _ _ => ⟨b, size.regs⟩
  | .stgU _ _ b size _ _ _ => ⟨b.reg, size.regs⟩
  | .lda _ _ _ _ _ => ⟨.z, 0⟩
  | .ldaSigned _ _ _ _ _ => ⟨.z, 0⟩
  | .sta _ _ b size _ => ⟨b, size.regs⟩
  | .ldw _ _ _ _ _ => ⟨.z, 0⟩
  | .ldwSigned _ _ _ _ _ => ⟨.z, 0⟩
  | .stw _ _ b size _ => ⟨b, size.regs⟩
  | .ldc _ _ _ _ _ => ⟨.z, 0⟩
  | .ldcSigned _ _ _ _ _ => ⟨.z, 0⟩
  | .stc _ _ b size _ => ⟨b, size.regs⟩
  | .aatom _ _ _ _ b size _ _ _ => ⟨b, size.regs⟩
  | .invr _ _ b _ _ => ⟨b, 1⟩
  | .inva _ _ => ⟨.z, 0⟩
  | .phbeg _ _ b _ => ⟨b, 1⟩
  | .phend _ _ b _ => ⟨b, 1⟩
  | .pfl1 _ _ b _ => ⟨b, 1⟩
  | .atom _ _ _ _ b size _ _ _ => ⟨b, size.regs⟩
  | .cas _ _ _ b size _ _ _ => ⟨b, (2 * size.regs)⟩
  | .red _ _ _ b size _ _ _ => ⟨b, size.regs⟩
  | .waita _ _ _ b size _ _ _ => ⟨b, size.regs⟩
  | .wake _ _ _ b _ => ⟨b, 1⟩
  | .fence _ _ _ => ⟨.z, 0⟩
  | .fld _ _ _ _ _ => ⟨.z, 0⟩
  | .fst _ _ b _ => ⟨b, 1⟩
  | .saddB32 _ _ _ b => ⟨b.reg, 1⟩
  | .ssubB32 _ _ _ b => ⟨b.reg, 1⟩
  | .smulB32 _ _ _ b => ⟨b.reg, 1⟩
  | .sadd64B32 _ _ _ b => ⟨b.reg, 2⟩
  | .sshlB32 _ _ _ b => ⟨b.reg, 1⟩
  | .sshrZ32B32 _ _ _ b => ⟨b.reg, 1⟩
  | .sshrS32B32 _ _ _ b => ⟨b.reg, 1⟩
  | .sandB32 _ _ _ b => ⟨b.reg, 1⟩
  | .sorB32 _ _ _ b => ⟨b.reg, 1⟩
  | .sxorB32 _ _ _ b => ⟨b.reg, 1⟩
  | .sminS32B32 _ _ _ b => ⟨b.reg, 1⟩
  | .smaxS32B32 _ _ _ b => ⟨b.reg, 1⟩
  | .sminZ32B32 _ _ _ b => ⟨b.reg, 1⟩
  | .smaxZ32B32 _ _ _ b => ⟨b.reg, 1⟩
  | .smovB32 _ _ _ => ⟨.z, 0⟩
  | .spopcB32 _ _ _ => ⟨.z, 0⟩
  | .lanerdB32 _ _ _ b => ⟨b.reg, 1⟩
  | .lanewrB32 _ _ _ b => ⟨b.reg, 1⟩
  | .pwaitAnyB32 _ _ _ => ⟨.z, 0⟩
  | .pwaitAllB32 _ _ _ => ⟨.z, 0⟩
  | .pfindB32 _ _ _ => ⟨.z, 0⟩
  | .pclrB32 _ _ => ⟨.z, 0⟩
  | .mxacqB32 _ => ⟨.z, 0⟩
  | .mxtryB32 _ _ => ⟨.z, 0⟩
  | .mxrelB32 _ => ⟨.z, 0⟩
  | .mxwaitB32 _ => ⟨.z, 0⟩
  | .zaccSB32 _ => ⟨.z, 0⟩
  | .zaccEB32 _ => ⟨.z, 0⟩
  | .srdB32 _ _ _ => ⟨.z, 0⟩
  | .swrB32 _ _ _ => ⟨.z, 0⟩
  | .trapB32 _ _ => ⟨.z, 0⟩
  | .brkB32 _ _ => ⟨.z, 0⟩
  | .barB32 _ => ⟨.z, 0⟩
  | .tkwaitB32 _ => ⟨.z, 0⟩
  | .tkpassB32 _ => ⟨.z, 0⟩
  | .ccwaitB32 _ _ _ => ⟨.z, 0⟩
  | .saddX64 _ _ _ b _ _ => ⟨b.reg, 1⟩
  | .ssubX64 _ _ _ b _ _ => ⟨b.reg, 1⟩
  | .smulX64 _ _ _ b _ => ⟨b.reg, 1⟩
  | .smad _ _ _ b _ _ => ⟨b.reg, 1⟩
  | .sadd64X64 _ _ _ b _ => ⟨b.reg, 2⟩
  | .sleaX64 _ _ _ b _ _ => ⟨b.reg, 1⟩
  | .sshlX64 _ _ _ b _ _ => ⟨b.reg, 1⟩
  | .sshrX64 _ _ _ b _ _ => ⟨b.reg, 1⟩
  | .sandX64 _ _ _ b _ => ⟨b.reg, 1⟩
  | .sorX64 _ _ _ b _ => ⟨b.reg, 1⟩
  | .sxorX64 _ _ _ b _ => ⟨b.reg, 1⟩
  | .sminX64 _ _ _ b _ => ⟨b.reg, 1⟩
  | .smaxX64 _ _ _ b _ => ⟨b.reg, 1⟩
  | .scmp _ _ _ b _ _ _ => ⟨b.reg, 1⟩
  | .ssel _ _ _ b _ _ _ => ⟨b.reg, 1⟩
  | .smovX64 _ _ _ _ => ⟨.z, 0⟩
  | .spopcX64 _ _ _ _ => ⟨.z, 0⟩
  | .lanerdX64 _ _ _ b _ => ⟨b.reg, 1⟩
  | .lanewrX64 _ _ _ b _ => ⟨b.reg, 1⟩
  | .smovi _ _ _ => ⟨.z, 0⟩
  | .saddI64 _ _ _ _ => ⟨.z, 0⟩
  | .smulI64 _ _ _ _ => ⟨.z, 0⟩
  | .sandI64 _ _ _ _ => ⟨.z, 0⟩
  | .sorI64 _ _ _ _ => ⟨.z, 0⟩
  | .sxorI64 _ _ _ _ => ⟨.z, 0⟩
  | .sshlI64 _ _ _ _ => ⟨.z, 0⟩
  | .sshrI64 _ _ _ _ _ => ⟨.z, 0⟩
  | .sminI64 _ _ _ _ => ⟨.z, 0⟩
  | .smaxI64 _ _ _ _ => ⟨.z, 0⟩
  | .sleaI64 _ _ _ _ => ⟨.z, 0⟩
  | .cpy _ _ _ b _ _ _ => ⟨b.reg, 2⟩
  | .cpy2 _ _ _ b _ _ _ _ => ⟨b.reg, 2⟩
  | .cpyh _ _ _ b _ _ _ => ⟨b.reg, 2⟩
  | .pfl2 _ x _ _ => ⟨x.ctrReg, 2⟩
  | .pwaitX64 _ _ _ _ => ⟨.z, 0⟩
  | .pfindX64 _ _ _ => ⟨.z, 0⟩
  | .pclrX64 _ _ => ⟨.z, 0⟩
  | .pstat _ _ _ => ⟨.z, 0⟩
  | .mxacqX64 _ => ⟨.z, 0⟩
  | .mxtryX64 _ _ => ⟨.z, 0⟩
  | .mxrelX64 _ => ⟨.z, 0⟩
  | .stld _ _ b _ _ _ _ _ _ => ⟨b.reg, 1⟩
  | .drain _ _ b _ _ _ => ⟨b.reg, 1⟩
  | .zaccX64 _ _ => ⟨.z, 0⟩
  | .mxwaitX64 _ => ⟨.z, 0⟩
  | .rgnb _ _ b _ _ => ⟨b.reg, 2⟩
  | .rfit _ _ b _ => ⟨b.reg, 2⟩
  | .rgnq _ _ _ b => ⟨b.reg, 1⟩
  | .coll _ _ _ b _ _ _ _ _ => ⟨b.reg, 2⟩
  | .srdX64 _ _ _ => ⟨.z, 0⟩
  | .swrX64 _ _ _ => ⟨.z, 0⟩
  | .trapX64 _ _ => ⟨.z, 0⟩
  | .brkX64 _ _ => ⟨.z, 0⟩
  | .twrd _ _ _ b => ⟨b.reg, 1⟩
  | .twwr _ _ b _ => ⟨b.reg, 1⟩
  | .tres _ => ⟨.z, 0⟩
  | .tkill _ => ⟨.z, 0⟩
  | .launch _ _ _ b => ⟨b.reg, 1⟩
  | .barX64 _ => ⟨.z, 0⟩
  | .ccwaitX64 _ _ _ => ⟨.z, 0⟩
  | .tkwaitX64 _ => ⟨.z, 0⟩
  | .tkpassX64 _ => ⟨.z, 0⟩
  | .starved _ _ => ⟨.z, 0⟩
  | .forcedQueueEntry _ _ => ⟨.z, 0⟩
  | .thresherZeroingDone _ => ⟨.z, 0⟩
  | .thresherOpStart _ => ⟨.z, 0⟩
  | .thresherOpComplete _ => ⟨.z, 0⟩
  | .wainStart _ => ⟨.z, 0⟩
  | .wainComplete _ _ => ⟨.z, 0⟩
  | .cpyhCreditTimeout _ _ => ⟨.z, 0⟩
  | .pfl2Complete _ _ => ⟨.z, 0⟩
  | .collStepComplete _ _ _ => ⟨.z, 0⟩
  | .registration _ => ⟨.z, 0⟩
  | .registrationAck _ => ⟨.z, 0⟩
  | .ownerRecall _ _ _ => ⟨.z, 0⟩
  | .forwardedRead _ => ⟨.z, 0⟩
  | .readRefusal _ => ⟨.z, 0⟩
  | .writeBack _ => ⟨.z, 0⟩
  | .l1Eviction _ _ => ⟨.z, 0⟩
  | .redPublication _ _ => ⟨.z, 0⟩
  | .l2LineEviction _ => ⟨.z, 0⟩
  | .ccwaitPollTimer _ => ⟨.z, 0⟩
  | .peerAccess _ _ => ⟨.z, 0⟩
  | .hostAtomicSwap _ _ => ⟨.z, 0⟩
  | .faultRecordDeferred => ⟨.z, 0⟩
  | .answer _ => ⟨.z, 0⟩
  | .invctx _ => ⟨.z, 0⟩
  | .faultQueueReconfig _ _ _ => ⟨.z, 0⟩
  | .registerWrite _ _ _ _ => ⟨.z, 0⟩
  | .qtailDoorbell _ _ => ⟨.z, 0⟩
  | .recordTake _ => ⟨.z, 0⟩
  | .dependencesMet _ => ⟨.z, 0⟩
  | .dealRound _ => ⟨.z, 0⟩
  | .stookRetire _ => ⟨.z, 0⟩
  | .cropConfirm _ => ⟨.z, 0⟩
  | .partitionCommit _ => ⟨.z, 0⟩
  | .reconfiguration _ => ⟨.z, 0⟩
  | .parkEviction _ => ⟨.z, 0⟩
  | .parkRestore _ => ⟨.z, 0⟩
  | .trapStookStart _ => ⟨.z, 0⟩
  | .preempt _ => ⟨.z, 0⟩
  | .restoreParea _ => ⟨.z, 0⟩
  | .restoreSarea _ => ⟨.z, 0⟩
  | .prctlNone _ => ⟨.z, 0⟩
  | .sliceExpiry _ => ⟨.z, 0⟩
  | .preemptOperationEnd => ⟨.z, 0⟩
  | .buildStep _ => ⟨.z, 0⟩
  | .refitStart _ => ⟨.z, 0⟩
  | .refitStep _ => ⟨.z, 0⟩
  | .refitCommit _ => ⟨.z, 0⟩
  | .urgentRefitStart _ => ⟨.z, 0⟩
  | .bruvasLinkDown _ => ⟨.z, 0⟩
  | .bruvasLinkUp _ _ _ => ⟨.z, 0⟩
  | .routeRecompute _ => ⟨.z, 0⟩
  | .hostLinkDown _ => ⟨.z, 0⟩
  | .groupEntryWrite _ _ _ _ => ⟨.z, 0⟩
  | .msixUnmask _ _ => ⟨.z, 0⟩
  | .scanVisitStart _ => ⟨.z, 0⟩
  | .scanMove _ => ⟨.z, 0⟩
  | .scanResult _ _ => ⟨.z, 0⟩
  | .rickKill _ => ⟨.z, 0⟩
  | .patrolScrub _ => ⟨.z, 0⟩
  | .reset => ⟨.z, 0⟩
  | .functionReady _ _ => ⟨.z, 0⟩
  | .firmwareBoot _ _ _ _ _ _ _ => ⟨.z, 0⟩
  | .overtemp => ⟨.z, 0⟩
  | .attestationStart => ⟨.z, 0⟩
  | .attestationDone => ⟨.z, 0⟩
  | .illegalEncoding => ⟨.z, 0⟩
  | .instructionFetchFault => ⟨.z, 0⟩
  | .homeReply _ => ⟨.z, 0⟩
  | .atomicAtHome _ => ⟨.z, 0⟩
  | .peerHomeReply _ _ _ => ⟨.z, 0⟩
  | .hostMemoryAccess _ => ⟨.z, 0⟩
  | .hostSnoopResponse _ _ => ⟨.z, 0⟩
  | .hostLinkUp _ => ⟨.z, 0⟩

/-- The group read as operand C (19 Table 19.6). -/
def Instr.opC : Instr → RegUse
  | .iaddB32 _ _ _ _ => ⟨.z, 0⟩
  | .isubB32 _ _ _ _ => ⟨.z, 0⟩
  | .imulB32 _ _ _ _ => ⟨.z, 0⟩
  | .imulhS32B32 _ _ _ _ => ⟨.z, 0⟩
  | .imulhZ32B32 _ _ _ _ => ⟨.z, 0⟩
  | .iminS32B32 _ _ _ _ => ⟨.z, 0⟩
  | .imaxS32B32 _ _ _ _ => ⟨.z, 0⟩
  | .iminZ32B32 _ _ _ _ => ⟨.z, 0⟩
  | .imaxZ32B32 _ _ _ _ => ⟨.z, 0⟩
  | .shlB32 _ _ _ _ => ⟨.z, 0⟩
  | .shrZ32B32 _ _ _ _ => ⟨.z, 0⟩
  | .shrS32B32 _ _ _ _ => ⟨.z, 0⟩
  | .andB32 _ _ _ _ => ⟨.z, 0⟩
  | .orB32 _ _ _ _ => ⟨.z, 0⟩
  | .xorB32 _ _ _ _ => ⟨.z, 0⟩
  | .andnB32 _ _ _ _ => ⟨.z, 0⟩
  | .movB32 _ _ _ => ⟨.z, 0⟩
  | .popcB32 _ _ _ => ⟨.z, 0⟩
  | .clzB32 _ _ _ => ⟨.z, 0⟩
  | .brevB32 _ _ _ => ⟨.z, 0⟩
  | .iadd64B32 _ _ _ _ => ⟨.z, 0⟩
  | .iabsB32 _ _ _ => ⟨.z, 0⟩
  | .inegB32 _ _ _ => ⟨.z, 0⟩
  | .faddF32B32 _ _ _ _ => ⟨.z, 0⟩
  | .fsubF32B32 _ _ _ _ => ⟨.z, 0⟩
  | .fmulF32B32 _ _ _ _ => ⟨.z, 0⟩
  | .fminF32B32 _ _ _ _ => ⟨.z, 0⟩
  | .fmaxF32B32 _ _ _ _ => ⟨.z, 0⟩
  | .frcpF32B32 _ _ _ => ⟨.z, 0⟩
  | .frsqF32B32 _ _ _ => ⟨.z, 0⟩
  | .fsqrtF32B32 _ _ _ => ⟨.z, 0⟩
  | .fexp2F32B32 _ _ _ => ⟨.z, 0⟩
  | .flog2F32B32 _ _ _ => ⟨.z, 0⟩
  | .faddBf16B32 _ _ _ _ => ⟨.z, 0⟩
  | .fmulBf16B32 _ _ _ _ => ⟨.z, 0⟩
  | .faddF16B32 _ _ _ _ => ⟨.z, 0⟩
  | .fmulF16B32 _ _ _ _ => ⟨.z, 0⟩
  | .fclassF32B32 _ _ _ => ⟨.z, 0⟩
  | .braB32 _ _ => ⟨.z, 0⟩
  | .retB32 _ _ => ⟨.z, 0⟩
  | .exitB32 _ => ⟨.z, 0⟩
  | .yieldB32 _ => ⟨.z, 0⟩
  | .nopB32 _ => ⟨.z, 0⟩
  | .mkcurB32 _ _ => ⟨.z, 0⟩
  | .joinB32 _ _ => ⟨.z, 0⟩
  | .leaveB32 _ _ => ⟨.z, 0⟩
  | .raddF32B32 _ _ _ _ => ⟨.z, 0⟩
  | .unaddF32B32 _ _ _ _ => ⟨.z, 0⟩
  | .rmulF32B32 _ _ _ _ => ⟨.z, 0⟩
  | .unmulF32B32 _ _ _ _ => ⟨.z, 0⟩
  | .rreluF32B32 _ _ _ => ⟨.z, 0⟩
  | .unreluF32B32 _ _ _ => ⟨.z, 0⟩
  | .rmulS32B32 _ _ _ _ => ⟨.z, 0⟩
  | .unmulS32B32 _ _ _ _ => ⟨.z, 0⟩
  | .iaddX64 _ _ _ _ _ _ => ⟨.z, 0⟩
  | .isubX64 _ _ _ _ _ _ => ⟨.z, 0⟩
  | .imulX64 _ _ _ _ _ => ⟨.z, 0⟩
  | .imulhX64 _ _ _ _ _ => ⟨.z, 0⟩
  | .imad _ _ _ _ c _ => ⟨c, 1⟩
  | .imadw _ _ _ _ c _ => ⟨c, 2⟩
  | .iadd64X64 _ _ _ _ _ => ⟨.z, 0⟩
  | .leaX64 _ _ _ _ _ _ => ⟨.z, 0⟩
  | .iabsX64 _ _ _ _ => ⟨.z, 0⟩
  | .inegX64 _ _ _ _ => ⟨.z, 0⟩
  | .iminX64 _ _ _ _ _ => ⟨.z, 0⟩
  | .imaxX64 _ _ _ _ _ => ⟨.z, 0⟩
  | .shlX64 _ _ _ _ _ _ => ⟨.z, 0⟩
  | .shrX64 _ _ _ _ _ _ => ⟨.z, 0⟩
  | .shf _ _ _ _ c _ _ _ => ⟨c, 1⟩
  | .rot _ _ _ _ _ _ => ⟨.z, 0⟩
  | .andX64 _ _ _ _ _ => ⟨.z, 0⟩
  | .orX64 _ _ _ _ _ => ⟨.z, 0⟩
  | .xorX64 _ _ _ _ _ => ⟨.z, 0⟩
  | .andnX64 _ _ _ _ _ => ⟨.z, 0⟩
  | .tern _ _ _ _ c _ _ => ⟨c, 1⟩
  | .popcX64 _ _ _ _ => ⟨.z, 0⟩
  | .clzX64 _ _ _ _ => ⟨.z, 0⟩
  | .brevX64 _ _ _ _ => ⟨.z, 0⟩
  | .bfx _ _ _ _ _ _ => ⟨.z, 0⟩
  | .bfi _ _ _ _ _ _ _ => ⟨.z, 0⟩
  | .icmp _ _ _ _ _ _ _ => ⟨.z, 0⟩
  | .sel _ _ _ _ _ _ _ => ⟨.z, 0⟩
  | .plog _ _ => ⟨.z, 0⟩
  | .movX64 _ _ _ _ => ⟨.z, 0⟩
  | .idp4 _ _ _ _ c _ _ => ⟨c, 1⟩
  | .xch _ _ _ _ _ _ _ => ⟨.z, 0⟩
  | .vote _ _ _ _ => ⟨.z, 0⟩
  | .match _ _ _ _ _ => ⟨.z, 0⟩
  | .redux _ _ _ _ _ => ⟨.z, 0⟩
  | .movi _ _ _ => ⟨.z, 0⟩
  | .iaddI64 _ _ _ _ => ⟨.z, 0⟩
  | .imulI64 _ _ _ _ => ⟨.z, 0⟩
  | .andI64 _ _ _ _ => ⟨.z, 0⟩
  | .orI64 _ _ _ _ => ⟨.z, 0⟩
  | .xorI64 _ _ _ _ => ⟨.z, 0⟩
  | .shlI64 _ _ _ _ => ⟨.z, 0⟩
  | .shrI64 _ _ _ _ _ => ⟨.z, 0⟩
  | .iminI64 _ _ _ _ => ⟨.z, 0⟩
  | .imaxI64 _ _ _ _ => ⟨.z, 0⟩
  | .leaI64 _ _ _ _ => ⟨.z, 0⟩
  | .braI64 _ _ => ⟨.z, 0⟩
  | .call _ _ _ => ⟨.z, 0⟩
  | .faddX64 _ _ _ _ _ _ => ⟨.z, 0⟩
  | .fsubX64 _ _ _ _ _ _ => ⟨.z, 0⟩
  | .fmulX64 _ _ _ _ _ _ => ⟨.z, 0⟩
  | .ffma _ _ _ _ c _ _ => ⟨c, 1⟩
  | .fminX64 _ _ _ _ _ _ => ⟨.z, 0⟩
  | .fmaxX64 _ _ _ _ _ _ => ⟨.z, 0⟩
  | .fcmp _ _ _ _ _ _ _ _ => ⟨.z, 0⟩
  | .frcpX64 _ _ _ _ => ⟨.z, 0⟩
  | .frsqX64 _ _ _ _ => ⟨.z, 0⟩
  | .fsqrtX64 _ _ _ _ => ⟨.z, 0⟩
  | .fexp2X64 _ _ _ _ => ⟨.z, 0⟩
  | .flog2X64 _ _ _ _ => ⟨.z, 0⟩
  | .fdp2 _ _ _ _ c _ _ => ⟨c, 1⟩
  | .cvt _ _ _ _ _ _ _ => ⟨.z, 0⟩
  | .cvtsr _ _ _ _ c dt st => ⟨c, (cvtsrCRegs dt st)⟩
  | .fclassX64 _ _ _ _ => ⟨.z, 0⟩
  | .dquant _ _ _ c _ _ _ => ⟨c.reg, 1⟩
  | .brx _ _ => ⟨.z, 0⟩
  | .callx _ _ _ => ⟨.z, 0⟩
  | .retX64 _ _ => ⟨.z, 0⟩
  | .exitX64 _ => ⟨.z, 0⟩
  | .yieldX64 _ => ⟨.z, 0⟩
  | .nopX64 _ => ⟨.z, 0⟩
  | .mkcurX64 _ _ => ⟨.z, 0⟩
  | .mktos _ _ _ => ⟨.z, 0⟩
  | .stomk _ _ _ => ⟨.z, 0⟩
  | .joinX64 _ _ => ⟨.z, 0⟩
  | .leaveX64 _ _ => ⟨.z, 0⟩
  | .waitm _ _ => ⟨.z, 0⟩
  | .mklog _ _ _ => ⟨.z, 0⟩
  | .raddX64 _ _ _ _ _ => ⟨.z, 0⟩
  | .rmulX64 _ _ _ _ _ _ => ⟨.z, 0⟩
  | .rcvt _ _ _ _ _ _ _ => ⟨.z, 0⟩
  | .rreluX64 _ _ _ => ⟨.z, 0⟩
  | .rshr _ _ _ _ _ => ⟨.z, 0⟩
  | .unaddX64 _ _ _ _ => ⟨.z, 0⟩
  | .unmulX64 _ _ _ _ _ => ⟨.z, 0⟩
  | .uncvt _ _ _ _ _ _ => ⟨.z, 0⟩
  | .unreluX64 _ _ _ => ⟨.z, 0⟩
  | .unshr _ _ _ _ _ => ⟨.z, 0⟩
  | .chpush _ _ => ⟨.z, 0⟩
  | .chpop _ _ => ⟨.z, 0⟩
  | .chdrop _ _ => ⟨.z, 0⟩
  | .chdepth _ _ => ⟨.z, 0⟩
  | .fbinit _ _ _ => ⟨.z, 0⟩
  | .fbarr _ _ _ _ => ⟨.z, 0⟩
  | .fbwait _ _ _ => ⟨.z, 0⟩
  | .fbtest _ _ _ _ => ⟨.z, 0⟩
  | .mma _ _ _ _ _ _ _ => ⟨.z, 0⟩
  | .dmma _ _ _ c _ _ => ⟨c.reg, 1⟩
  | .ldg _ _ _ _ _ _ _ => ⟨.z, 0⟩
  | .ldgSigned _ _ _ _ _ _ _ => ⟨.z, 0⟩
  | .ldgU _ _ _ _ _ _ _ _ => ⟨.z, 0⟩
  | .stg _ _ _ _ _ _ _ => ⟨.z, 0⟩
  | .stgU _ _ _ _ _ _ _ => ⟨.z, 0⟩
  | .lda _ _ _ _ _ => ⟨.z, 0⟩
  | .ldaSigned _ _ _ _ _ => ⟨.z, 0⟩
  | .sta _ _ _ _ _ => ⟨.z, 0⟩
  | .ldw _ _ _ _ _ => ⟨.z, 0⟩
  | .ldwSigned _ _ _ _ _ => ⟨.z, 0⟩
  | .stw _ _ _ _ _ => ⟨.z, 0⟩
  | .ldc _ _ _ _ _ => ⟨.z, 0⟩
  | .ldcSigned _ _ _ _ _ => ⟨.z, 0⟩
  | .stc _ _ _ _ _ => ⟨.z, 0⟩
  | .aatom _ _ _ _ _ _ _ _ _ => ⟨.z, 0⟩
  | .invr _ _ _ _ _ => ⟨.z, 0⟩
  | .inva _ _ => ⟨.z, 0⟩
  | .phbeg _ _ _ _ => ⟨.z, 0⟩
  | .phend _ _ _ _ => ⟨.z, 0⟩
  | .pfl1 _ _ _ _ => ⟨.z, 0⟩
  | .atom _ _ _ _ _ _ _ _ off => ⟨off.handleReg, 1⟩
  | .cas _ _ _ _ _ _ _ off => ⟨off.handleReg, 1⟩
  | .red _ _ _ _ _ _ _ off => ⟨off.handleReg, 1⟩
  | .waita _ _ _ _ _ _ _ off => ⟨off.handleReg, 1⟩
  | .wake _ _ _ _ off => ⟨off.handleReg, 1⟩
  | .fence _ _ _ => ⟨.z, 0⟩
  | .fld _ _ _ hnd _ => ⟨.s hnd, 1⟩
  | .fst _ _ _ hnd => ⟨.s hnd, 1⟩
  | .saddB32 _ _ _ _ => ⟨.z, 0⟩
  | .ssubB32 _ _ _ _ => ⟨.z, 0⟩
  | .smulB32 _ _ _ _ => ⟨.z, 0⟩
  | .sadd64B32 _ _ _ _ => ⟨.z, 0⟩
  | .sshlB32 _ _ _ _ => ⟨.z, 0⟩
  | .sshrZ32B32 _ _ _ _ => ⟨.z, 0⟩
  | .sshrS32B32 _ _ _ _ => ⟨.z, 0⟩
  | .sandB32 _ _ _ _ => ⟨.z, 0⟩
  | .sorB32 _ _ _ _ => ⟨.z, 0⟩
  | .sxorB32 _ _ _ _ => ⟨.z, 0⟩
  | .sminS32B32 _ _ _ _ => ⟨.z, 0⟩
  | .smaxS32B32 _ _ _ _ => ⟨.z, 0⟩
  | .sminZ32B32 _ _ _ _ => ⟨.z, 0⟩
  | .smaxZ32B32 _ _ _ _ => ⟨.z, 0⟩
  | .smovB32 _ _ _ => ⟨.z, 0⟩
  | .spopcB32 _ _ _ => ⟨.z, 0⟩
  | .lanerdB32 _ _ _ _ => ⟨.z, 0⟩
  | .lanewrB32 _ _ _ _ => ⟨.z, 0⟩
  | .pwaitAnyB32 _ _ _ => ⟨.z, 0⟩
  | .pwaitAllB32 _ _ _ => ⟨.z, 0⟩
  | .pfindB32 _ _ _ => ⟨.z, 0⟩
  | .pclrB32 _ _ => ⟨.z, 0⟩
  | .mxacqB32 _ => ⟨.z, 0⟩
  | .mxtryB32 _ _ => ⟨.z, 0⟩
  | .mxrelB32 _ => ⟨.z, 0⟩
  | .mxwaitB32 _ => ⟨.z, 0⟩
  | .zaccSB32 _ => ⟨.z, 0⟩
  | .zaccEB32 _ => ⟨.z, 0⟩
  | .srdB32 _ _ _ => ⟨.z, 0⟩
  | .swrB32 _ _ _ => ⟨.z, 0⟩
  | .trapB32 _ _ => ⟨.z, 0⟩
  | .brkB32 _ _ => ⟨.z, 0⟩
  | .barB32 _ => ⟨.z, 0⟩
  | .tkwaitB32 _ => ⟨.z, 0⟩
  | .tkpassB32 _ => ⟨.z, 0⟩
  | .ccwaitB32 _ _ _ => ⟨.z, 0⟩
  | .saddX64 _ _ _ _ _ _ => ⟨.z, 0⟩
  | .ssubX64 _ _ _ _ _ _ => ⟨.z, 0⟩
  | .smulX64 _ _ _ _ _ => ⟨.z, 0⟩
  | .smad _ _ _ _ c _ => ⟨c.reg, 1⟩
  | .sadd64X64 _ _ _ _ _ => ⟨.z, 0⟩
  | .sleaX64 _ _ _ _ _ _ => ⟨.z, 0⟩
  | .sshlX64 _ _ _ _ _ _ => ⟨.z, 0⟩
  | .sshrX64 _ _ _ _ _ _ => ⟨.z, 0⟩
  | .sandX64 _ _ _ _ _ => ⟨.z, 0⟩
  | .sorX64 _ _ _ _ _ => ⟨.z, 0⟩
  | .sxorX64 _ _ _ _ _ => ⟨.z, 0⟩
  | .sminX64 _ _ _ _ _ => ⟨.z, 0⟩
  | .smaxX64 _ _ _ _ _ => ⟨.z, 0⟩
  | .scmp _ _ _ _ _ _ _ => ⟨.z, 0⟩
  | .ssel _ _ _ _ _ _ _ => ⟨.z, 0⟩
  | .smovX64 _ _ _ _ => ⟨.z, 0⟩
  | .spopcX64 _ _ _ _ => ⟨.z, 0⟩
  | .lanerdX64 _ _ _ _ _ => ⟨.z, 0⟩
  | .lanewrX64 _ _ _ _ _ => ⟨.z, 0⟩
  | .smovi _ _ _ => ⟨.z, 0⟩
  | .saddI64 _ _ _ _ => ⟨.z, 0⟩
  | .smulI64 _ _ _ _ => ⟨.z, 0⟩
  | .sandI64 _ _ _ _ => ⟨.z, 0⟩
  | .sorI64 _ _ _ _ => ⟨.z, 0⟩
  | .sxorI64 _ _ _ _ => ⟨.z, 0⟩
  | .sshlI64 _ _ _ _ => ⟨.z, 0⟩
  | .sshrI64 _ _ _ _ _ => ⟨.z, 0⟩
  | .sminI64 _ _ _ _ => ⟨.z, 0⟩
  | .smaxI64 _ _ _ _ => ⟨.z, 0⟩
  | .sleaI64 _ _ _ _ => ⟨.z, 0⟩
  | .cpy _ _ _ _ c _ _ => ⟨c.reg, 1⟩
  | .cpy2 _ _ _ _ c _ _ _ => ⟨.s c, 4⟩
  | .cpyh _ _ _ _ c _ _ => ⟨c.reg, 1⟩
  | .pfl2 _ _ _ c => ⟨c.reg, 1⟩
  | .pwaitX64 _ _ _ _ => ⟨.z, 0⟩
  | .pfindX64 _ _ _ => ⟨.z, 0⟩
  | .pclrX64 _ _ => ⟨.z, 0⟩
  | .pstat _ _ _ => ⟨.z, 0⟩
  | .mxacqX64 _ => ⟨.z, 0⟩
  | .mxtryX64 _ _ => ⟨.z, 0⟩
  | .mxrelX64 _ => ⟨.z, 0⟩
  | .stld _ _ _ c _ _ _ _ _ => ⟨SReg.optReg c, 1⟩
  | .drain _ _ _ _ _ _ => ⟨.z, 0⟩
  | .zaccX64 _ _ => ⟨.z, 0⟩
  | .mxwaitX64 _ => ⟨.z, 0⟩
  | .rgnb _ _ _ c _ => ⟨c.reg, 2⟩
  | .rfit _ _ _ c => ⟨c.reg, 2⟩
  | .rgnq _ _ _ _ => ⟨.z, 0⟩
  | .coll _ _ _ _ c _ _ _ _ => ⟨c.reg, 1⟩
  | .srdX64 _ _ _ => ⟨.z, 0⟩
  | .swrX64 _ _ _ => ⟨.z, 0⟩
  | .trapX64 _ _ => ⟨.z, 0⟩
  | .brkX64 _ _ => ⟨.z, 0⟩
  | .twrd _ _ _ _ => ⟨.z, 0⟩
  | .twwr _ _ _ c => ⟨c.reg, 1⟩
  | .tres _ => ⟨.z, 0⟩
  | .tkill _ => ⟨.z, 0⟩
  | .launch _ _ _ _ => ⟨.z, 0⟩
  | .barX64 _ => ⟨.z, 0⟩
  | .ccwaitX64 _ _ _ => ⟨.z, 0⟩
  | .tkwaitX64 _ => ⟨.z, 0⟩
  | .tkpassX64 _ => ⟨.z, 0⟩
  | .starved _ _ => ⟨.z, 0⟩
  | .forcedQueueEntry _ _ => ⟨.z, 0⟩
  | .thresherZeroingDone _ => ⟨.z, 0⟩
  | .thresherOpStart _ => ⟨.z, 0⟩
  | .thresherOpComplete _ => ⟨.z, 0⟩
  | .wainStart _ => ⟨.z, 0⟩
  | .wainComplete _ _ => ⟨.z, 0⟩
  | .cpyhCreditTimeout _ _ => ⟨.z, 0⟩
  | .pfl2Complete _ _ => ⟨.z, 0⟩
  | .collStepComplete _ _ _ => ⟨.z, 0⟩
  | .registration _ => ⟨.z, 0⟩
  | .registrationAck _ => ⟨.z, 0⟩
  | .ownerRecall _ _ _ => ⟨.z, 0⟩
  | .forwardedRead _ => ⟨.z, 0⟩
  | .readRefusal _ => ⟨.z, 0⟩
  | .writeBack _ => ⟨.z, 0⟩
  | .l1Eviction _ _ => ⟨.z, 0⟩
  | .redPublication _ _ => ⟨.z, 0⟩
  | .l2LineEviction _ => ⟨.z, 0⟩
  | .ccwaitPollTimer _ => ⟨.z, 0⟩
  | .peerAccess _ _ => ⟨.z, 0⟩
  | .hostAtomicSwap _ _ => ⟨.z, 0⟩
  | .faultRecordDeferred => ⟨.z, 0⟩
  | .answer _ => ⟨.z, 0⟩
  | .invctx _ => ⟨.z, 0⟩
  | .faultQueueReconfig _ _ _ => ⟨.z, 0⟩
  | .registerWrite _ _ _ _ => ⟨.z, 0⟩
  | .qtailDoorbell _ _ => ⟨.z, 0⟩
  | .recordTake _ => ⟨.z, 0⟩
  | .dependencesMet _ => ⟨.z, 0⟩
  | .dealRound _ => ⟨.z, 0⟩
  | .stookRetire _ => ⟨.z, 0⟩
  | .cropConfirm _ => ⟨.z, 0⟩
  | .partitionCommit _ => ⟨.z, 0⟩
  | .reconfiguration _ => ⟨.z, 0⟩
  | .parkEviction _ => ⟨.z, 0⟩
  | .parkRestore _ => ⟨.z, 0⟩
  | .trapStookStart _ => ⟨.z, 0⟩
  | .preempt _ => ⟨.z, 0⟩
  | .restoreParea _ => ⟨.z, 0⟩
  | .restoreSarea _ => ⟨.z, 0⟩
  | .prctlNone _ => ⟨.z, 0⟩
  | .sliceExpiry _ => ⟨.z, 0⟩
  | .preemptOperationEnd => ⟨.z, 0⟩
  | .buildStep _ => ⟨.z, 0⟩
  | .refitStart _ => ⟨.z, 0⟩
  | .refitStep _ => ⟨.z, 0⟩
  | .refitCommit _ => ⟨.z, 0⟩
  | .urgentRefitStart _ => ⟨.z, 0⟩
  | .bruvasLinkDown _ => ⟨.z, 0⟩
  | .bruvasLinkUp _ _ _ => ⟨.z, 0⟩
  | .routeRecompute _ => ⟨.z, 0⟩
  | .hostLinkDown _ => ⟨.z, 0⟩
  | .groupEntryWrite _ _ _ _ => ⟨.z, 0⟩
  | .msixUnmask _ _ => ⟨.z, 0⟩
  | .scanVisitStart _ => ⟨.z, 0⟩
  | .scanMove _ => ⟨.z, 0⟩
  | .scanResult _ _ => ⟨.z, 0⟩
  | .rickKill _ => ⟨.z, 0⟩
  | .patrolScrub _ => ⟨.z, 0⟩
  | .reset => ⟨.z, 0⟩
  | .functionReady _ _ => ⟨.z, 0⟩
  | .firmwareBoot _ _ _ _ _ _ _ => ⟨.z, 0⟩
  | .overtemp => ⟨.z, 0⟩
  | .attestationStart => ⟨.z, 0⟩
  | .attestationDone => ⟨.z, 0⟩
  | .illegalEncoding => ⟨.z, 0⟩
  | .instructionFetchFault => ⟨.z, 0⟩
  | .homeReply _ => ⟨.z, 0⟩
  | .atomicAtHome _ => ⟨.z, 0⟩
  | .peerHomeReply _ _ _ => ⟨.z, 0⟩
  | .hostMemoryAccess _ => ⟨.z, 0⟩
  | .hostSnoopResponse _ _ => ⟨.z, 0⟩
  | .hostLinkUp _ => ⟨.z, 0⟩

/-- The predicates read, the guard first (02 R35). -/
def Instr.predSrcs : Instr → List Pred
  | .iaddB32 g _ _ _ => [g]
  | .isubB32 g _ _ _ => [g]
  | .imulB32 g _ _ _ => [g]
  | .imulhS32B32 g _ _ _ => [g]
  | .imulhZ32B32 g _ _ _ => [g]
  | .iminS32B32 g _ _ _ => [g]
  | .imaxS32B32 g _ _ _ => [g]
  | .iminZ32B32 g _ _ _ => [g]
  | .imaxZ32B32 g _ _ _ => [g]
  | .shlB32 g _ _ _ => [g]
  | .shrZ32B32 g _ _ _ => [g]
  | .shrS32B32 g _ _ _ => [g]
  | .andB32 g _ _ _ => [g]
  | .orB32 g _ _ _ => [g]
  | .xorB32 g _ _ _ => [g]
  | .andnB32 g _ _ _ => [g]
  | .movB32 g _ _ => [g]
  | .popcB32 g _ _ => [g]
  | .clzB32 g _ _ => [g]
  | .brevB32 g _ _ => [g]
  | .iadd64B32 g _ _ _ => [g]
  | .iabsB32 g _ _ => [g]
  | .inegB32 g _ _ => [g]
  | .faddF32B32 g _ _ _ => [g]
  | .fsubF32B32 g _ _ _ => [g]
  | .fmulF32B32 g _ _ _ => [g]
  | .fminF32B32 g _ _ _ => [g]
  | .fmaxF32B32 g _ _ _ => [g]
  | .frcpF32B32 g _ _ => [g]
  | .frsqF32B32 g _ _ => [g]
  | .fsqrtF32B32 g _ _ => [g]
  | .fexp2F32B32 g _ _ => [g]
  | .flog2F32B32 g _ _ => [g]
  | .faddBf16B32 g _ _ _ => [g]
  | .fmulBf16B32 g _ _ _ => [g]
  | .faddF16B32 g _ _ _ => [g]
  | .fmulF16B32 g _ _ _ => [g]
  | .fclassF32B32 g _ _ => [g]
  | .braB32 g _ => [g]
  | .retB32 g _ => [g]
  | .exitB32 g => [g]
  | .yieldB32 g => [g]
  | .nopB32 g => [g]
  | .mkcurB32 g _ => [g]
  | .joinB32 g _ => [g]
  | .leaveB32 g _ => [g]
  | .raddF32B32 g _ _ _ => [g]
  | .unaddF32B32 g _ _ _ => [g]
  | .rmulF32B32 g _ _ _ => [g]
  | .unmulF32B32 g _ _ _ => [g]
  | .rreluF32B32 g _ _ => [g]
  | .unreluF32B32 g _ _ => [g]
  | .rmulS32B32 g _ _ _ => [g]
  | .unmulS32B32 g _ _ _ => [g]
  | .iaddX64 g _ _ _ _ _ => [g]
  | .isubX64 g _ _ _ _ _ => [g]
  | .imulX64 g _ _ _ _ => [g]
  | .imulhX64 g _ _ _ _ => [g]
  | .imad g _ _ _ _ _ => [g]
  | .imadw g _ _ _ _ _ => [g]
  | .iadd64X64 g _ _ _ _ => [g]
  | .leaX64 g _ _ _ _ _ => [g]
  | .iabsX64 g _ _ _ => [g]
  | .inegX64 g _ _ _ => [g]
  | .iminX64 g _ _ _ _ => [g]
  | .imaxX64 g _ _ _ _ => [g]
  | .shlX64 g _ _ _ _ _ => [g]
  | .shrX64 g _ _ _ _ _ => [g]
  | .shf g _ _ _ _ _ _ _ => [g]
  | .rot g _ _ _ _ _ => [g]
  | .andX64 g _ _ _ _ => [g]
  | .orX64 g _ _ _ _ => [g]
  | .xorX64 g _ _ _ _ => [g]
  | .andnX64 g _ _ _ _ => [g]
  | .tern g _ _ _ _ _ _ => [g]
  | .popcX64 g _ _ _ => [g]
  | .clzX64 g _ _ _ => [g]
  | .brevX64 g _ _ _ => [g]
  | .bfx g _ _ _ _ _ => [g]
  | .bfi g _ _ _ _ _ _ => [g]
  | .icmp g _ _ _ _ _ comb => [g, comb.pred]
  | .sel g _ _ _ c _ _ => [g, c]
  | .plog g x => (g :: x.preds)
  | .movX64 g _ _ _ => [g]
  | .idp4 g _ _ _ _ _ _ => [g]
  | .xch g _ _ _ _ _ _ => [g]
  | .vote g _ a _ => [g, a]
  | .match g _ _ _ _ => [g]
  | .redux g _ _ _ _ => [g]
  | .movi g _ _ => [g]
  | .iaddI64 g _ _ _ => [g]
  | .imulI64 g _ _ _ => [g]
  | .andI64 g _ _ _ => [g]
  | .orI64 g _ _ _ => [g]
  | .xorI64 g _ _ _ => [g]
  | .shlI64 g _ _ _ => [g]
  | .shrI64 g _ _ _ _ => [g]
  | .iminI64 g _ _ _ => [g]
  | .imaxI64 g _ _ _ => [g]
  | .leaI64 g _ _ _ => [g]
  | .braI64 g _ => [g]
  | .call g _ _ => [g]
  | .faddX64 g _ _ _ _ _ => [g]
  | .fsubX64 g _ _ _ _ _ => [g]
  | .fmulX64 g _ _ _ _ _ => [g]
  | .ffma g _ _ _ _ _ _ => [g]
  | .fminX64 g _ _ _ _ _ => [g]
  | .fmaxX64 g _ _ _ _ _ => [g]
  | .fcmp g _ _ _ _ _ comb _ => [g, comb.pred]
  | .frcpX64 g _ _ _ => [g]
  | .frsqX64 g _ _ _ => [g]
  | .fsqrtX64 g _ _ _ => [g]
  | .fexp2X64 g _ _ _ => [g]
  | .flog2X64 g _ _ _ => [g]
  | .fdp2 g _ _ _ _ _ _ => [g]
  | .cvt g _ _ _ _ _ _ => [g]
  | .cvtsr g _ _ _ _ _ _ => [g]
  | .fclassX64 g _ _ _ => [g]
  | .dquant g _ _ _ _ _ _ => [g]
  | .brx g _ => [g]
  | .callx g _ _ => [g]
  | .retX64 g _ => [g]
  | .exitX64 g => [g]
  | .yieldX64 g => [g]
  | .nopX64 g => [g]
  | .mkcurX64 g _ => [g]
  | .mktos g _ _ => [g]
  | .stomk g _ _ => [g]
  | .joinX64 g _ => [g]
  | .leaveX64 g _ => [g]
  | .waitm g _ => [g]
  | .mklog g _ _ => [g]
  | .raddX64 g _ _ _ _ => [g]
  | .rmulX64 g _ _ _ _ _ => [g]
  | .rcvt g _ _ _ _ _ _ => [g]
  | .rreluX64 g _ _ => [g]
  | .rshr g _ _ _ _ => [g]
  | .unaddX64 g _ _ _ => [g]
  | .unmulX64 g _ _ _ _ => [g]
  | .uncvt g _ _ _ _ _ => [g]
  | .unreluX64 g _ _ => [g]
  | .unshr g _ _ _ _ => [g]
  | .chpush g _ => [g]
  | .chpop g _ => [g]
  | .chdrop g _ => [g]
  | .chdepth g _ => [g]
  | .fbinit g _ _ => [g]
  | .fbarr g _ _ _ => [g]
  | .fbwait g _ _ => [g]
  | .fbtest g _ _ _ => [g]
  | .mma g _ _ _ _ _ _ => [g]
  | .dmma g _ _ _ _ _ => [g]
  | .ldg g _ _ _ _ _ _ => [g]
  | .ldgSigned g _ _ _ _ _ _ => [g]
  | .ldgU g _ _ _ _ _ _ _ => [g]
  | .stg g _ _ _ _ _ _ => [g]
  | .stgU g _ _ _ _ _ _ => [g]
  | .lda g _ _ _ _ => [g]
  | .ldaSigned g _ _ _ _ => [g]
  | .sta g _ _ _ _ => [g]
  | .ldw g _ _ _ _ => [g]
  | .ldwSigned g _ _ _ _ => [g]
  | .stw g _ _ _ _ => [g]
  | .ldc g _ _ _ _ => [g]
  | .ldcSigned g _ _ _ _ => [g]
  | .stc g _ _ _ _ => [g]
  | .aatom g _ _ _ _ _ _ _ _ => [g]
  | .invr g _ _ _ _ => [g]
  | .inva g _ => [g]
  | .phbeg g _ _ _ => [g]
  | .phend g _ _ _ => [g]
  | .pfl1 g _ _ _ => [g]
  | .atom g _ _ _ _ _ _ _ _ => [g]
  | .cas g _ _ _ _ _ _ _ => [g]
  | .red g _ _ _ _ _ _ _ => [g]
  | .waita g _ _ _ _ _ _ _ => [g]
  | .wake g _ _ _ _ => [g]
  | .fence g _ _ => [g]
  | .fld g _ _ _ _ => [g]
  | .fst g _ _ _ => [g]
  | .saddB32 g _ _ _ => [g]
  | .ssubB32 g _ _ _ => [g]
  | .smulB32 g _ _ _ => [g]
  | .sadd64B32 g _ _ _ => [g]
  | .sshlB32 g _ _ _ => [g]
  | .sshrZ32B32 g _ _ _ => [g]
  | .sshrS32B32 g _ _ _ => [g]
  | .sandB32 g _ _ _ => [g]
  | .sorB32 g _ _ _ => [g]
  | .sxorB32 g _ _ _ => [g]
  | .sminS32B32 g _ _ _ => [g]
  | .smaxS32B32 g _ _ _ => [g]
  | .sminZ32B32 g _ _ _ => [g]
  | .smaxZ32B32 g _ _ _ => [g]
  | .smovB32 g _ _ => [g]
  | .spopcB32 g _ _ => [g]
  | .lanerdB32 g _ _ _ => [g]
  | .lanewrB32 g _ _ _ => [g]
  | .pwaitAnyB32 g _ _ => [g]
  | .pwaitAllB32 g _ _ => [g]
  | .pfindB32 g _ _ => [g]
  | .pclrB32 g _ => [g]
  | .mxacqB32 g => [g]
  | .mxtryB32 g _ => [g]
  | .mxrelB32 g => [g]
  | .mxwaitB32 g => [g]
  | .zaccSB32 g => [g]
  | .zaccEB32 g => [g]
  | .srdB32 g _ _ => [g]
  | .swrB32 g _ _ => [g]
  | .trapB32 g _ => [g]
  | .brkB32 g _ => [g]
  | .barB32 g => [g]
  | .tkwaitB32 g => [g]
  | .tkpassB32 g => [g]
  | .ccwaitB32 g _ _ => [g]
  | .saddX64 g _ _ _ _ _ => [g]
  | .ssubX64 g _ _ _ _ _ => [g]
  | .smulX64 g _ _ _ _ => [g]
  | .smad g _ _ _ _ _ => [g]
  | .sadd64X64 g _ _ _ _ => [g]
  | .sleaX64 g _ _ _ _ _ => [g]
  | .sshlX64 g _ _ _ _ _ => [g]
  | .sshrX64 g _ _ _ _ _ => [g]
  | .sandX64 g _ _ _ _ => [g]
  | .sorX64 g _ _ _ _ => [g]
  | .sxorX64 g _ _ _ _ => [g]
  | .sminX64 g _ _ _ _ => [g]
  | .smaxX64 g _ _ _ _ => [g]
  | .scmp g _ _ _ _ _ comb => [g, comb.pred]
  | .ssel g _ _ _ c _ _ => [g, c]
  | .smovX64 g _ _ _ => [g]
  | .spopcX64 g _ _ _ => [g]
  | .lanerdX64 g _ _ _ _ => [g]
  | .lanewrX64 g _ _ _ _ => [g]
  | .smovi g _ _ => [g]
  | .saddI64 g _ _ _ => [g]
  | .smulI64 g _ _ _ => [g]
  | .sandI64 g _ _ _ => [g]
  | .sorI64 g _ _ _ => [g]
  | .sxorI64 g _ _ _ => [g]
  | .sshlI64 g _ _ _ => [g]
  | .sshrI64 g _ _ _ _ => [g]
  | .sminI64 g _ _ _ => [g]
  | .smaxI64 g _ _ _ => [g]
  | .sleaI64 g _ _ _ => [g]
  | .cpy g _ _ _ _ _ _ => [g]
  | .cpy2 g _ _ _ _ _ _ _ => [g]
  | .cpyh g _ _ _ _ _ _ => [g]
  | .pfl2 g _ _ _ => [g]
  | .pwaitX64 g _ _ _ => [g]
  | .pfindX64 g _ _ => [g]
  | .pclrX64 g _ => [g]
  | .pstat g _ _ => [g]
  | .mxacqX64 g => [g]
  | .mxtryX64 g _ => [g]
  | .mxrelX64 g => [g]
  | .stld g _ _ _ _ _ _ _ _ => [g]
  | .drain g _ _ _ _ _ => [g]
  | .zaccX64 g _ => [g]
  | .mxwaitX64 g => [g]
  | .rgnb g _ _ _ _ => [g]
  | .rfit g _ _ _ => [g]
  | .rgnq g _ _ _ => [g]
  | .coll g _ _ _ _ _ _ _ _ => [g]
  | .srdX64 g _ _ => [g]
  | .swrX64 g _ _ => [g]
  | .trapX64 g _ => [g]
  | .brkX64 g _ => [g]
  | .twrd g _ _ _ => [g]
  | .twwr g _ _ _ => [g]
  | .tres g => [g]
  | .tkill g => [g]
  | .launch g _ _ _ => [g]
  | .barX64 g => [g]
  | .ccwaitX64 g _ _ => [g]
  | .tkwaitX64 g => [g]
  | .tkpassX64 g => [g]
  | .starved _ _ => []
  | .forcedQueueEntry _ _ => []
  | .thresherZeroingDone _ => []
  | .thresherOpStart _ => []
  | .thresherOpComplete _ => []
  | .wainStart _ => []
  | .wainComplete _ _ => []
  | .cpyhCreditTimeout _ _ => []
  | .pfl2Complete _ _ => []
  | .collStepComplete _ _ _ => []
  | .registration _ => []
  | .registrationAck _ => []
  | .ownerRecall _ _ _ => []
  | .forwardedRead _ => []
  | .readRefusal _ => []
  | .writeBack _ => []
  | .l1Eviction _ _ => []
  | .redPublication _ _ => []
  | .l2LineEviction _ => []
  | .ccwaitPollTimer _ => []
  | .peerAccess _ _ => []
  | .hostAtomicSwap _ _ => []
  | .faultRecordDeferred => []
  | .answer _ => []
  | .invctx _ => []
  | .faultQueueReconfig _ _ _ => []
  | .registerWrite _ _ _ _ => []
  | .qtailDoorbell _ _ => []
  | .recordTake _ => []
  | .dependencesMet _ => []
  | .dealRound _ => []
  | .stookRetire _ => []
  | .cropConfirm _ => []
  | .partitionCommit _ => []
  | .reconfiguration _ => []
  | .parkEviction _ => []
  | .parkRestore _ => []
  | .trapStookStart _ => []
  | .preempt _ => []
  | .restoreParea _ => []
  | .restoreSarea _ => []
  | .prctlNone _ => []
  | .sliceExpiry _ => []
  | .preemptOperationEnd => []
  | .buildStep _ => []
  | .refitStart _ => []
  | .refitStep _ => []
  | .refitCommit _ => []
  | .urgentRefitStart _ => []
  | .bruvasLinkDown _ => []
  | .bruvasLinkUp _ _ _ => []
  | .routeRecompute _ => []
  | .hostLinkDown _ => []
  | .groupEntryWrite _ _ _ _ => []
  | .msixUnmask _ _ => []
  | .scanVisitStart _ => []
  | .scanMove _ => []
  | .scanResult _ _ => []
  | .rickKill _ => []
  | .patrolScrub _ => []
  | .reset => []
  | .functionReady _ _ => []
  | .firmwareBoot _ _ _ _ _ _ _ => []
  | .overtemp => []
  | .attestationStart => []
  | .attestationDone => []
  | .illegalEncoding => []
  | .instructionFetchFault => []
  | .homeReply _ => []
  | .atomicAtHome _ => []
  | .peerHomeReply _ _ _ => []
  | .hostMemoryAccess _ => []
  | .hostSnoopResponse _ _ => []
  | .hostLinkUp _ => []

/-- The predicates written. -/
def Instr.predDsts : Instr → List Nat
  | .iaddB32 _ _ _ _ => []
  | .isubB32 _ _ _ _ => []
  | .imulB32 _ _ _ _ => []
  | .imulhS32B32 _ _ _ _ => []
  | .imulhZ32B32 _ _ _ _ => []
  | .iminS32B32 _ _ _ _ => []
  | .imaxS32B32 _ _ _ _ => []
  | .iminZ32B32 _ _ _ _ => []
  | .imaxZ32B32 _ _ _ _ => []
  | .shlB32 _ _ _ _ => []
  | .shrZ32B32 _ _ _ _ => []
  | .shrS32B32 _ _ _ _ => []
  | .andB32 _ _ _ _ => []
  | .orB32 _ _ _ _ => []
  | .xorB32 _ _ _ _ => []
  | .andnB32 _ _ _ _ => []
  | .movB32 _ _ _ => []
  | .popcB32 _ _ _ => []
  | .clzB32 _ _ _ => []
  | .brevB32 _ _ _ => []
  | .iadd64B32 _ _ _ _ => []
  | .iabsB32 _ _ _ => []
  | .inegB32 _ _ _ => []
  | .faddF32B32 _ _ _ _ => []
  | .fsubF32B32 _ _ _ _ => []
  | .fmulF32B32 _ _ _ _ => []
  | .fminF32B32 _ _ _ _ => []
  | .fmaxF32B32 _ _ _ _ => []
  | .frcpF32B32 _ _ _ => []
  | .frsqF32B32 _ _ _ => []
  | .fsqrtF32B32 _ _ _ => []
  | .fexp2F32B32 _ _ _ => []
  | .flog2F32B32 _ _ _ => []
  | .faddBf16B32 _ _ _ _ => []
  | .fmulBf16B32 _ _ _ _ => []
  | .faddF16B32 _ _ _ _ => []
  | .fmulF16B32 _ _ _ _ => []
  | .fclassF32B32 _ _ _ => []
  | .braB32 _ _ => []
  | .retB32 _ _ => []
  | .exitB32 _ => []
  | .yieldB32 _ => []
  | .nopB32 _ => []
  | .mkcurB32 _ _ => []
  | .joinB32 _ _ => []
  | .leaveB32 _ _ => []
  | .raddF32B32 _ _ _ _ => []
  | .unaddF32B32 _ _ _ _ => []
  | .rmulF32B32 _ _ _ _ => []
  | .unmulF32B32 _ _ _ _ => []
  | .rreluF32B32 _ _ _ => []
  | .unreluF32B32 _ _ _ => []
  | .rmulS32B32 _ _ _ _ => []
  | .unmulS32B32 _ _ _ _ => []
  | .iaddX64 _ _ _ _ _ _ => []
  | .isubX64 _ _ _ _ _ _ => []
  | .imulX64 _ _ _ _ _ => []
  | .imulhX64 _ _ _ _ _ => []
  | .imad _ _ _ _ _ _ => []
  | .imadw _ _ _ _ _ _ => []
  | .iadd64X64 _ _ _ _ _ => []
  | .leaX64 _ _ _ _ _ _ => []
  | .iabsX64 _ _ _ _ => []
  | .inegX64 _ _ _ _ => []
  | .iminX64 _ _ _ _ _ => []
  | .imaxX64 _ _ _ _ _ => []
  | .shlX64 _ _ _ _ _ _ => []
  | .shrX64 _ _ _ _ _ _ => []
  | .shf _ _ _ _ _ _ _ _ => []
  | .rot _ _ _ _ _ _ => []
  | .andX64 _ _ _ _ _ => []
  | .orX64 _ _ _ _ _ => []
  | .xorX64 _ _ _ _ _ => []
  | .andnX64 _ _ _ _ _ => []
  | .tern _ _ _ _ _ _ _ => []
  | .popcX64 _ _ _ _ => []
  | .clzX64 _ _ _ _ => []
  | .brevX64 _ _ _ _ => []
  | .bfx _ _ _ _ _ _ => []
  | .bfi _ _ _ _ _ _ _ => []
  | .icmp _ d _ _ _ _ _ => [d.val]
  | .sel _ _ _ _ _ _ _ => []
  | .plog _ x => x.pdsts
  | .movX64 _ _ _ _ => []
  | .idp4 _ _ _ _ _ _ _ => []
  | .xch _ _ _ _ _ _ ok => optPDst ok
  | .vote _ x _ _ => x.pdsts
  | .match _ _ _ _ _ => []
  | .redux _ _ _ _ _ => []
  | .movi _ _ _ => []
  | .iaddI64 _ _ _ _ => []
  | .imulI64 _ _ _ _ => []
  | .andI64 _ _ _ _ => []
  | .orI64 _ _ _ _ => []
  | .xorI64 _ _ _ _ => []
  | .shlI64 _ _ _ _ => []
  | .shrI64 _ _ _ _ _ => []
  | .iminI64 _ _ _ _ => []
  | .imaxI64 _ _ _ _ => []
  | .leaI64 _ _ _ _ => []
  | .braI64 _ _ => []
  | .call _ _ _ => []
  | .faddX64 _ _ _ _ _ _ => []
  | .fsubX64 _ _ _ _ _ _ => []
  | .fmulX64 _ _ _ _ _ _ => []
  | .ffma _ _ _ _ _ _ _ => []
  | .fminX64 _ _ _ _ _ _ => []
  | .fmaxX64 _ _ _ _ _ _ => []
  | .fcmp _ d _ _ _ _ _ _ => [d.val]
  | .frcpX64 _ _ _ _ => []
  | .frsqX64 _ _ _ _ => []
  | .fsqrtX64 _ _ _ _ => []
  | .fexp2X64 _ _ _ _ => []
  | .flog2X64 _ _ _ _ => []
  | .fdp2 _ _ _ _ _ _ _ => []
  | .cvt _ _ _ _ _ _ _ => []
  | .cvtsr _ _ _ _ _ _ _ => []
  | .fclassX64 _ _ _ _ => []
  | .dquant _ _ _ _ _ _ _ => []
  | .brx _ _ => []
  | .callx _ _ _ => []
  | .retX64 _ _ => []
  | .exitX64 _ => []
  | .yieldX64 _ => []
  | .nopX64 _ => []
  | .mkcurX64 _ _ => []
  | .mktos _ _ _ => []
  | .stomk _ _ _ => []
  | .joinX64 _ _ => []
  | .leaveX64 _ _ => []
  | .waitm _ _ => []
  | .mklog _ _ _ => []
  | .raddX64 _ _ _ _ _ => []
  | .rmulX64 _ _ _ _ _ _ => []
  | .rcvt _ _ _ _ _ _ _ => []
  | .rreluX64 _ _ _ => []
  | .rshr _ _ _ _ _ => []
  | .unaddX64 _ _ _ _ => []
  | .unmulX64 _ _ _ _ _ => []
  | .uncvt _ _ _ _ _ _ => []
  | .unreluX64 _ _ _ => []
  | .unshr _ _ _ _ _ => []
  | .chpush _ _ => []
  | .chpop _ _ => []
  | .chdrop _ _ => []
  | .chdepth _ _ => []
  | .fbinit _ _ _ => []
  | .fbarr _ _ _ _ => []
  | .fbwait _ _ _ => []
  | .fbtest _ d _ _ => [d.val]
  | .mma _ _ _ _ _ _ _ => []
  | .dmma _ _ _ _ _ _ => []
  | .ldg _ _ _ _ _ _ _ => []
  | .ldgSigned _ _ _ _ _ _ _ => []
  | .ldgU _ _ _ _ _ _ _ _ => []
  | .stg _ _ _ _ _ _ _ => []
  | .stgU _ _ _ _ _ _ _ => []
  | .lda _ _ _ _ _ => []
  | .ldaSigned _ _ _ _ _ => []
  | .sta _ _ _ _ _ => []
  | .ldw _ _ _ _ _ => []
  | .ldwSigned _ _ _ _ _ => []
  | .stw _ _ _ _ _ => []
  | .ldc _ _ _ _ _ => []
  | .ldcSigned _ _ _ _ _ => []
  | .stc _ _ _ _ _ => []
  | .aatom _ _ _ _ _ _ _ _ _ => []
  | .invr _ _ _ _ _ => []
  | .inva _ _ => []
  | .phbeg _ _ _ _ => []
  | .phend _ _ _ _ => []
  | .pfl1 _ _ _ _ => []
  | .atom _ _ _ _ _ _ _ _ _ => []
  | .cas _ _ _ _ _ _ _ _ => []
  | .red _ _ _ _ _ _ _ _ => []
  | .waita _ _ _ _ _ _ _ _ => []
  | .wake _ _ _ _ _ => []
  | .fence _ _ _ => []
  | .fld _ _ _ _ _ => []
  | .fst _ _ _ _ => []
  | .saddB32 _ _ _ _ => []
  | .ssubB32 _ _ _ _ => []
  | .smulB32 _ _ _ _ => []
  | .sadd64B32 _ _ _ _ => []
  | .sshlB32 _ _ _ _ => []
  | .sshrZ32B32 _ _ _ _ => []
  | .sshrS32B32 _ _ _ _ => []
  | .sandB32 _ _ _ _ => []
  | .sorB32 _ _ _ _ => []
  | .sxorB32 _ _ _ _ => []
  | .sminS32B32 _ _ _ _ => []
  | .smaxS32B32 _ _ _ _ => []
  | .sminZ32B32 _ _ _ _ => []
  | .smaxZ32B32 _ _ _ _ => []
  | .smovB32 _ _ _ => []
  | .spopcB32 _ _ _ => []
  | .lanerdB32 _ _ _ _ => []
  | .lanewrB32 _ _ _ _ => []
  | .pwaitAnyB32 _ _ _ => []
  | .pwaitAllB32 _ _ _ => []
  | .pfindB32 _ _ _ => []
  | .pclrB32 _ _ => []
  | .mxacqB32 _ => []
  | .mxtryB32 _ d => [d.val]
  | .mxrelB32 _ => []
  | .mxwaitB32 _ => []
  | .zaccSB32 _ => []
  | .zaccEB32 _ => []
  | .srdB32 _ _ _ => []
  | .swrB32 _ _ _ => []
  | .trapB32 _ _ => []
  | .brkB32 _ _ => []
  | .barB32 _ => []
  | .tkwaitB32 _ => []
  | .tkpassB32 _ => []
  | .ccwaitB32 _ _ _ => []
  | .saddX64 _ _ _ _ _ _ => []
  | .ssubX64 _ _ _ _ _ _ => []
  | .smulX64 _ _ _ _ _ => []
  | .smad _ _ _ _ _ _ => []
  | .sadd64X64 _ _ _ _ _ => []
  | .sleaX64 _ _ _ _ _ _ => []
  | .sshlX64 _ _ _ _ _ _ => []
  | .sshrX64 _ _ _ _ _ _ => []
  | .sandX64 _ _ _ _ _ => []
  | .sorX64 _ _ _ _ _ => []
  | .sxorX64 _ _ _ _ _ => []
  | .sminX64 _ _ _ _ _ => []
  | .smaxX64 _ _ _ _ _ => []
  | .scmp _ d _ _ _ _ _ => [d.val]
  | .ssel _ _ _ _ _ _ _ => []
  | .smovX64 _ _ _ _ => []
  | .spopcX64 _ _ _ _ => []
  | .lanerdX64 _ _ _ _ _ => []
  | .lanewrX64 _ _ _ _ _ => []
  | .smovi _ _ _ => []
  | .saddI64 _ _ _ _ => []
  | .smulI64 _ _ _ _ => []
  | .sandI64 _ _ _ _ => []
  | .sorI64 _ _ _ _ => []
  | .sxorI64 _ _ _ _ => []
  | .sshlI64 _ _ _ _ => []
  | .sshrI64 _ _ _ _ _ => []
  | .sminI64 _ _ _ _ => []
  | .smaxI64 _ _ _ _ => []
  | .sleaI64 _ _ _ _ => []
  | .cpy _ _ _ _ _ _ _ => []
  | .cpy2 _ _ _ _ _ _ _ _ => []
  | .cpyh _ _ _ _ _ _ _ => []
  | .pfl2 _ _ _ _ => []
  | .pwaitX64 _ _ _ _ => []
  | .pfindX64 _ _ _ => []
  | .pclrX64 _ _ => []
  | .pstat _ _ _ => []
  | .mxacqX64 _ => []
  | .mxtryX64 _ d => [d.val]
  | .mxrelX64 _ => []
  | .stld _ _ _ _ _ _ _ _ _ => []
  | .drain _ _ _ _ _ _ => []
  | .zaccX64 _ _ => []
  | .mxwaitX64 _ => []
  | .rgnb _ _ _ _ _ => []
  | .rfit _ _ _ _ => []
  | .rgnq _ _ _ _ => []
  | .coll _ _ _ _ _ _ _ _ _ => []
  | .srdX64 _ _ _ => []
  | .swrX64 _ _ _ => []
  | .trapX64 _ _ => []
  | .brkX64 _ _ => []
  | .twrd _ _ _ _ => []
  | .twwr _ _ _ _ => []
  | .tres _ => []
  | .tkill _ => []
  | .launch _ _ _ _ => []
  | .barX64 _ => []
  | .ccwaitX64 _ _ _ => []
  | .tkwaitX64 _ => []
  | .tkpassX64 _ => []
  | .starved _ _ => []
  | .forcedQueueEntry _ _ => []
  | .thresherZeroingDone _ => []
  | .thresherOpStart _ => []
  | .thresherOpComplete _ => []
  | .wainStart _ => []
  | .wainComplete _ _ => []
  | .cpyhCreditTimeout _ _ => []
  | .pfl2Complete _ _ => []
  | .collStepComplete _ _ _ => []
  | .registration _ => []
  | .registrationAck _ => []
  | .ownerRecall _ _ _ => []
  | .forwardedRead _ => []
  | .readRefusal _ => []
  | .writeBack _ => []
  | .l1Eviction _ _ => []
  | .redPublication _ _ => []
  | .l2LineEviction _ => []
  | .ccwaitPollTimer _ => []
  | .peerAccess _ _ => []
  | .hostAtomicSwap _ _ => []
  | .faultRecordDeferred => []
  | .answer _ => []
  | .invctx _ => []
  | .faultQueueReconfig _ _ _ => []
  | .registerWrite _ _ _ _ => []
  | .qtailDoorbell _ _ => []
  | .recordTake _ => []
  | .dependencesMet _ => []
  | .dealRound _ => []
  | .stookRetire _ => []
  | .cropConfirm _ => []
  | .partitionCommit _ => []
  | .reconfiguration _ => []
  | .parkEviction _ => []
  | .parkRestore _ => []
  | .trapStookStart _ => []
  | .preempt _ => []
  | .restoreParea _ => []
  | .restoreSarea _ => []
  | .prctlNone _ => []
  | .sliceExpiry _ => []
  | .preemptOperationEnd => []
  | .buildStep _ => []
  | .refitStart _ => []
  | .refitStep _ => []
  | .refitCommit _ => []
  | .urgentRefitStart _ => []
  | .bruvasLinkDown _ => []
  | .bruvasLinkUp _ _ _ => []
  | .routeRecompute _ => []
  | .hostLinkDown _ => []
  | .groupEntryWrite _ _ _ _ => []
  | .msixUnmask _ _ => []
  | .scanVisitStart _ => []
  | .scanMove _ => []
  | .scanResult _ _ => []
  | .rickKill _ => []
  | .patrolScrub _ => []
  | .reset => []
  | .functionReady _ _ => []
  | .firmwareBoot _ _ _ _ _ _ _ => []
  | .overtemp => []
  | .attestationStart => []
  | .attestationDone => []
  | .illegalEncoding => []
  | .instructionFetchFault => []
  | .homeReply _ => []
  | .atomicAtHome _ => []
  | .peerHomeReply _ _ _ => []
  | .hostMemoryAccess _ => []
  | .hostSnoopResponse _ _ => []
  | .hostLinkUp _ => []

end Sys2Proof
end

