-- ==== Sys2Proof/Machine/State.lean ====
section
/-! DEFINITION. The state of the whole device: lanes, sheaves, stooks and crops; cores, barns and homes; memory and
translation; launch, traps and pre-emption; fabric, host and reliability. Every field is plain data.

Conventions: a physical core is 88 * die + 4 * barn + slot, a barn 22 * die + barn. A word address is a physical byte
address divided by 4, a line by 128. Sheaves, stooks, crops, messages and operations are named by numbers from
counters that never repeat, so a stale name names nothing. -/
namespace Sys2Proof.Machine

open Sys2Proof

/-- Why the machine stops. -/
inductive Fault where
  /-- raised by step: the device is stopped by over-temperature and no reset is to come (21 R363: only a reset leaves
  this state). Safe: the spec gives a stopped device no step. -/
  | deviceStopped
  deriving DecidableEq, Repr

/-- Why the model refuses. -/
inductive Refusal where
  /-- raised by exec for a row of the opcode table without a meaning in this model. Safe: nothing is claimed of it. -/
  | notModelled (mnemonic : String)
  deriving DecidableEq, Repr

/-! ### Lanes and sheaves -/

/-- A lane's hold record (04 R71, R73, R82). -/
inductive Hold where
  | none
  | join (m : Fin 12) (at_ : DWord) (len : Nat)   -- the JOIN's address and length
  | waitm (m : Fin 12)
  deriving DecidableEq, Repr

/-- An entry of a chaff stack (08 R133). -/
structure ChEntry where
  tag : Byte
  payload : Word
  deriving DecidableEq, Repr

/-- One lane of a resident sheaf. -/
structure Lane where
  pc : DWord                   -- 04 R63
  exited : Bool                -- 04 R79
  hold : Hold
  joinAt : DWord               -- its JOIN address word (19 Tables 19.6, 19.17)
  preds : BitVec 7             -- p0 to p6, 05 R90
  b0 : Word                    -- latches, 05 R86
  b1 : Word
  b2 : Word
  b3 : Word
  bvalid : BitVec 4            -- validity of b0 to b3
  age : Nat                    -- ageing counter, 03 R59
  depth : Nat                  -- chaff depth, 08 R133
  chip : List ChEntry          -- on-chip entries, top first, 08 R137
  pend : Scope                 -- pending class, 14 R249
  failed : List Nat            -- failed peer lines awaiting the next release, 12 R223
  deriving DecidableEq, Repr

/-- A trap raised by a sheaf, as its record will say (19 Table 19.3). -/
structure TrapInfo where
  code : Nat                   -- Table 19.1
  pc : DWord
  addr : DWord
  lanes : LaneSet
  path : LaneSet
  info : DWord
  fetch : Bool
  engine : Bool
  fail : List Nat              -- failed line addresses
  deriving DecidableEq, Repr

/-- How far one access of an instruction in flight has come. -/
inductive AccSt where
  /-- not yet performed: an earlier access of the lane comes first, or a release waits -/
  | queued
  /-- a request to a home or a peer is under way -/
  | sent (msg : Nat)
  /-- the lane is parked until the host gives the half back (12 R224); the request under way, or 0 -/
  | recall (msg : Nat)
  /-- performed; a read has its value (up to 16 bytes) -/
  | done (bytes : List Byte)
  deriving DecidableEq, Repr

/-- One lane's access to memory, translated. -/
structure Acc where
  lane : Nat                   -- 64 for an access of the whole sheaf (the .U forms)
  va : DWord
  pa : Nat
  n : Nat                      -- bytes
  pte : Nat                    -- physical address of the leaf entry, 0 for none
  hd : Nat                     -- home die
  homeOnly : Bool              -- cache policy 1, 16 Table 16.3
  data : List Byte             -- store data, operand, or compare and swap values
  st : AccSt
  deriving DecidableEq, Repr

/-- What an instruction in flight is waiting for. -/
inductive Stage where
  /-- parked on fault records; applied again when each is answered (16 R283) -/
  | parked (recs : List Nat)
  /-- its accesses are being performed -/
  | access
  /-- waits for the release conditions of R218, then performs -/
  | releasing
  /-- a wait of the issue stage: at a tag mask, a barrier, the token, the thresher, a counter -/
  | waiting
  /-- held by an urgent refit or a build (15 R270, R271) -/
  | region
  deriving DecidableEq, Repr

/-- An issued, unfinished instruction (19 R318). -/
structure Flight where
  id : Nat
  ord : Nat                    -- its place in issue order; a replayed entry keeps it (19 R318)
  born : Nat                   -- one more than the cycle its path issued in; 0 for a replayed entry
  instr : Instr
  words : List Word
  pc : DWord
  path : LaneSet               -- lanes of the issuing path
  e : LaneSet                  -- executing lanes
  ops : KV (List Word)         -- captured operand words of each lane (Table 19.6, class 7)
  ctx : Nat                    -- the context it was issued in (06 R118)
  stay : Bool                  -- its lanes keep their program counters at it
  stage : Stage
  accs : List Acc
  ready : LaneSet              -- lanes that a re-evaluation has released
  performed : Bool             -- some part has been performed (R318)
  deriving DecidableEq, Repr

/-- An entry of the replay queue (19 R318, Table 19.6). -/
structure Replay where
  words : List Word
  len : Nat
  valid : Bool
  e : LaneSet
  pc : DWord
  ops : KV (List Word)
  ctx : Nat                    -- the context it was issued in (06 R118)
  ord : Nat                    -- its place in issue order
  deriving DecidableEq, Repr

/-- What a cycle has done for a sheaf so far, until it is settled (03 R54, R58, R59; 05 R87): the lanes that stood ready on
the lane and the uniform pipe, those that issued, the program counters that issued, and the latch readers that they lock. -/
structure Turn where
  candL : LaneSet
  candU : LaneSet
  outL : LaneSet
  outU : LaneSet
  pcsL : List DWord
  pcsU : List DWord
  locks : List DWord
  deriving DecidableEq, Repr

/-- An open phase (12 R229). -/
structure Phase where
  id : Nat
  va : DWord
  len : Nat
  deriving DecidableEq, Repr

/-- A resident sheaf. -/
structure Sheaf where
  uid : Nat                    -- its stook
  core : Nat
  idx : Nat                    -- sr.sheaf
  role : Nat
  width : Nat
  budget : Nat
  ctx : Nat                    -- sr.ctx
  prio : Nat                   -- sr.prio
  maxPrio : Nat                -- the crop's priority (06 R118)
  age : Nat                    -- order of becoming resident; smaller is older (03 R51)
  lanes : KV Lane
  regs : KV Word               -- register r of lane i at 64 r + i
  s : KV Word                  -- s0 to s23
  q : BitVec 7                 -- q0 to q6
  m : KV DWord                 -- m0 to m11
  flights : List Flight
  replay : List Replay
  phases : List Phase
  forcedL : List DWord         -- forced queues of the lane and uniform pipes (03 R59)
  forcedU : List DWord
  waitL : Nat                  -- waiting counts (03 R54)
  waitU : Nat
  starvedL : Bool
  starvedU : Bool
  yielded : Bool               -- passed over at step 3 in the next cycle (04 R80)
  lock : List DWord            -- latch lock: the addresses of the latch readers (03 R58)
  turn : Option Turn           -- the cycle that is not settled yet
  frozen : Bool                -- 19 R317
  trap : Option TrapInfo       -- the trap that froze it
  slot : Option Nat            -- the trap record slot it holds (19 R320)
  serves : Option Nat          -- in a trap sheaf, the sheaf it serves
  held : List (Nat × Nat × Nat)   -- releases of WAITA held while frozen: flight, lane, status (19 R317)
  watch : List (Nat × Nat × Nat)  -- watch descriptors read at placement: address, LEN, CTL (19 R320, R330)
  watchq : List TrapInfo       -- watch matches found while it was frozen, raised as it resumes (19 R330)
  spurious : LaneSet           -- lanes that complete the WAITA they stand at with status 2 (19 R335)
  resuming : Bool              -- TRES has resumed it and its replay entries execute; held releases and the acquire follow (19 R327)
  deriving DecidableEq, Repr

/-! ### Cores, tags, the wain and the thresher -/

inductive TagState where
  | idle | busy | ready
  deriving DecidableEq, Repr

/-- A pennant tag (10 R169, R170). -/
structure Tag where
  st : TagState
  holder : Option Nat          -- the stook that holds it
  kind : Nat
  cause : Nat
  count : Nat
  deriving DecidableEq, Repr

/-- A wain operation (10 R173 to R178; 19 Table 19.15). -/
structure WainOp where
  id : Nat                     -- the operation's own name
  uid : Nat
  sid : Nat
  tag : Nat
  kind : Nat                   -- 1 CPY, 2 CPY2, 3 CPYH
  ctx : Nat
  dst : DWord
  src : DWord
  count : Nat                  -- bytes, or W
  rows : Nat
  ss : Nat
  ds : Nat
  w3 : Nat                     -- third word: spaces, transposition, direction
  cursor : Nat                 -- destination bytes written
  recs : List Nat              -- fault records it is parked on
  stopped : Nat                -- CAUSE found while it ran, 0 none
  written : List (Nat × Nat)   -- messages of its writes, with the place in the copy's order where their bytes begin
  token : Bool                 -- issued while its stook held the token (18 R311)
  held : KV Byte               -- bytes counted and not written yet, by destination offset (09 R164, 10 R174)
  seen : KV Byte               -- halves of source words read and not copied yet, by source address (09 R164)
  deriving DecidableEq, Repr

/-- Bank mode (11 R197). -/
inductive BankMode where
  | clean | float | int
  deriving DecidableEq, Repr

/-- One accumulator bank: elements not 0 at 64 row + column, and the scale latches (11 R181, R197). -/
structure Bank where
  mode : BankMode
  el : KV (BitVec 40)
  rowScale : KV Byte           -- valid row latches
  colScale : KV Byte
  deriving DecidableEq, Repr

/-- The operand collector (11 R194). -/
structure Collector where
  base : Nat
  ty : Ty
  af : Bool
  breg : Nat
  lanes : LaneSet
  words : KV Word              -- register k of the group, lane i, at 64 k + i
  bwords : KV Word
  deriving DecidableEq, Repr

/-- A thresher operation with the operands read at issue (11 R188). -/
inductive MxOp where
  | stld (bin : Nat) (addr pitch side : Nat) (ty : Ty) (w kc af : Bool)
  | mma (ty : Ty) (east af : Bool) (lanes : LaneSet) (a : KV (List Word)) (b : KV Word)
  | dmma (ty : Ty) (addr pitch : Nat) (lanes : LaneSet) (a : KV (List Word))
  | drain (addr pitch : Nat) (ty : Ty) (east zero : Bool)
  | zacc (east : Bool)
  deriving DecidableEq, Repr

/-- An entry of the operation queue. -/
structure MxEntry where
  sid : Nat
  uid : Nat
  issued : Nat                 -- cycle of issue
  running : Bool
  op : MxOp
  cap : KV Word                -- bin words that it has read already, with their values; of a DRAIN, those it has written (09 R164)
  deriving DecidableEq, Repr

/-- A core's thresher (11 Table 11.1). -/
structure Thresher where
  fmt : Option Ty              -- the format latch; none for EMPTY
  kc : Bool
  af : Bool
  tile : KV Word               -- codes not 0 of T[r][c] at 64 r + c
  side : KV Byte               -- side data, by its offset in Table 11.6
  south : Bank
  east : Bank
  coll : Option Collector
  queue : List MxEntry         -- at most three, the first running or next
  owner : Option Nat           -- sid
  waitq : List Nat             -- sids waiting in MXACQ
  lastUser : Option Nat        -- crop
  zeroing : Bool
  deriving DecidableEq, Repr

/-! ### Stooks and crops -/

/-- A write range of a deterministic stook (18 Table 18.1). -/
structure WRange where
  base : Nat
  len : Nat
  deriving DecidableEq, Repr

/-- One buffered store byte of a merge-mode stook (18 R315). -/
structure MergeByte where
  va : Nat
  pa : Nat
  pte : Nat
  hd : Nat
  sid : Nat
  byte : Byte
  ordinal : Nat
  deriving DecidableEq, Repr

/-- A stook: resident, or parked. -/
structure Stook where
  crop : Nat                   -- its crop's key
  linear : Nat                 -- linear index (17 R295)
  pos : Nat                    -- position (18 R305)
  rank : Nat
  rick : Nat                   -- number of its rick, shared by the rick's stooks
  rickSize : Nat               -- stooks of its rick
  redo : Nat                   -- rounds of the token completed before a relaunch (18 R313)
  cores : List Nat             -- one physical core, or the two of a pair, even slot first
  wUnits : Nat
  aUnits : Nat
  cUnits : Nat
  binW : KV Byte               -- contents of the allotments, by offset; an unlisted byte is 0 (09 R156)
  binA : KV Byte
  binC : KV Byte
  sheaves : List Nat           -- sids in order of sr.sheaf
  round : Nat                  -- TKPASS executed (18 R309)
  ranges : List WRange
  merge : List MergeByte
  parked : Bool
  wakes : List (Nat × Nat × Nat)   -- wake conditions of its sheaves: kind, argument, sid (19 Table 19.10)
  trapStook : Bool
  killed : Bool
  saved : KV Tag               -- tags held while parked, tag t of core i of the stook at 64 i + t (19 R331)
  savedOps : List (Nat × WainOp) -- copies stopped with their cursors while parked, with the core's place
  savedMx : KV Thresher        -- the threshers that moved owners take along, by the core's place (21 R357)
  park : Nat × Nat             -- where its records stand in the park area: offset and bytes
  deriving DecidableEq, Repr

/-- A crop taken from a queue and not yet confirmed (17 R289, 19 Table 19.14). -/
structure Crop where
  record : List Byte           -- the retained launch record
  seq : Nat                    -- sr.crop
  queue : Nat
  part : Nat
  ctx : Nat
  prio : Nat
  order : Nat                  -- order of its doorbell (17 R288)
  next : Nat                   -- next linear index or position to place
  counted : Nat                -- stooks counted up the tree
  diePend : List Nat           -- stooks placed on each die and not yet counted
  retired : List Nat           -- positions of stooks that have retired
  finished : List (Nat × Nat)  -- positions retired but not yet counted, with their die (18 R306)
  tokPos : Nat
  tokRound : Nat
  done : Bool
  killed : Bool
  relaunches : KV Nat          -- relaunches of each rick (21 R356)
  replaced : List Nat          -- ricks to place again
  redo : KV Nat                -- rounds that positions completed before a kill or their retirement (18 R313)
  merged : KV Nat              -- merge mode: the ordinal that last merged a byte, by address (18 R315)
  cores : List (Nat × Bool)    -- cores still to pass a scan; whether they ran part of it since their last (21 R358)
  suspect : Nat                -- such cores that failed
  confirmed : Bool
  statSet : Bool               -- KILLED has gone to STAT
  deriving DecidableEq, Repr

/-! ### Cores -/

/-- The codes of a harvest slot (17 Table 17.9). -/
inductive CoreSt where
  | usable | spare | dead | retired
  deriving DecidableEq, Repr

/-- A cached translation: the leaf entry read by the walk and where it stands (16 R281, R282). -/
structure TlbEnt where
  pte : DWord
  pteAddr : Nat
  level : Nat
  deriving DecidableEq, Repr

/-- A physical core. -/
structure Core where
  st : CoreSt
  tags : KV Tag
  wainQ : List WainOp          -- waiting, in queue order
  wainRun : List WainOp        -- running, at most four
  mx : Thresher
  icache : KV Word             -- instruction words by word address (02 R30)
  tlb : KV TlbEnt              -- at most 256, by 2^40 ctx + the number of the page's first 4 KiB (16 R281)
  scanned : Bool               -- not placed on: a scan visit is under way (21 R357)
  ports : KV Nat               -- the cycle from which the lane port of the W-, A- and C-bin is free (09 R152)
  deriving DecidableEq, Repr

/-! ### Caches and homes -/

/-- A word of a barn's L1 (12 R207, 14 R249). -/
structure L1Word where
  bytes : Word
  valid : Bool
  owned : Bool
  phase : List Nat             -- the open phases it was written in (12 R229)
  written : BitVec 4
  writer : Nat                 -- slot of the core that wrote it last
  cls : Scope
  ctx : Nat                    -- context and leaf entry its write was translated by (16 R285)
  pte : Nat
  hd : Nat
  log : List (Nat × BitVec 4 × Word)   -- its writes that the home has not recorded, oldest first: number, mask, bytes (23 R367)
  deriving DecidableEq, Repr

/-- A gather copy (13 R239). -/
structure Gather where
  op : AtomOp
  size : Size
  value : DWord
  scope : Scope
  ctx : Nat
  pte : Nat
  hd : Nat
  deriving DecidableEq, Repr

/-- A line in an eviction buffer until its write-back is acknowledged (12 R219). -/
structure EvLine where
  line : Nat
  words : KV L1Word
  msg : Nat
  deriving DecidableEq, Repr

/-- The caches of one barn. -/
structure Barn where
  words : KV L1Word            -- by word address
  gather : KV Gather           -- by byte address
  evict : List EvLine
  tlb : KV TlbEnt              -- at most 4,096
  scanSlot : Nat               -- next slot the scan rotation visits (21 R357)
  scanAt : Option Nat          -- the core being visited
  scanMoved : Bool
  deriving DecidableEq, Repr

/-- Who made a line's latest recorded write (12 R217, R391). -/
inductive Writer where
  | barn (b : Nat)
  | die (d : Nat)
  | package
  | peer
  | host
  deriving DecidableEq, Repr

/-- What a home keeps of a line beside its bytes (12 R208 to R224). -/
structure HomeLine where
  owners : List (Nat × Word)   -- at most two, oldest first: barn and word mask
  last : Option Writer
  lost : Word                  -- owner-lost mask
  held : BitVec 2              -- halves the host holds
  heldMod : BitVec 2           -- halves the host may hold modified
  poison : BitVec 4            -- poisoned 32-byte units (21 R355)
  deriving DecidableEq, Repr

/-- A wait entry of a home slice (13 R241, R242; 17 R302). -/
structure WaitEnt where
  sid : Nat
  flight : Nat
  lane : Nat
  pa : Nat
  n : Nat
  hd : Nat
  expect : List Byte
  counter : Bool               -- a CCWAIT, read again on every recorded write
  deriving DecidableEq, Repr

/-- One lane's share of an atomic sent to a home. -/
structure AtLane where
  lane : Nat
  data : List Byte
  deriving DecidableEq, Repr

/-- The work of an atomic at a home (13 R232). -/
inductive AtWork where
  | op (o : AtomOp)
  | cas
  | red (o : AtomOp)
  | waita
  | wake
  deriving DecidableEq, Repr

/-- A message under way between an L1, a home and the fabric. -/
inductive Msg where
  /-- a registration of n words, two for the words of one 8-byte write (12 R226): recorded at the home or not yet
  (12 R210) -/
  | reg (barn wa n hd ctx pte : Nat) (recorded : Bool)
  /-- a read of n bytes: the barn it was forwarded to, refusals so far, and its value once fixed (12 R213, R220) -/
  | read (barn sid flight acc pa n hd : Nat) (acq : Option Scope) (fwd : Option Nat) (refused : Nat)
      (fixed : Option (List Byte))
  /-- an atomic of one word for the lanes of one instruction (13 R232) -/
  | atomic (barn sid flight pa n hd ctx pte : Nat) (work : AtWork) (acq : Option Scope) (lanes : List AtLane)
  /-- a write-back of words, in an eviction buffer or of a recall (12 R219) -/
  | wb (barn line : Nat)
  /-- an access to a peer device's home (12 R222); `fresh` while no write of the barn has overtaken a read -/
  | peer (barn sid flight acc pa n : Nat) (data : Option (List Byte)) (acq : Option Scope) (fresh : Bool)
  /-- a prefetch of a line of a peer device (12 R231) -/
  | pfl (barn line ctx pte hd : Nat) (fresh : Bool)
  deriving DecidableEq, Repr

/-- A message, the accesses that wait for its acknowledgement: sid and lanes. -/
structure MsgEnt where
  msg : Msg
  waiters : List (Nat × LaneSet)
  deriving DecidableEq, Repr

/-! ### Translation, launch, regions, fabric, reliability -/

/-- An outstanding fault record (16 R283). -/
structure FaultRec where
  id : Nat
  ctx : Nat
  page : Nat                   -- virtual page number
  kind : Nat                   -- bits of Table 16.5
  level : Nat
  written : Bool               -- written to the queue, or waiting for a slot
  deriving DecidableEq, Repr

/-- A record taken from a queue, awaiting its dependences (17 R291, R292). -/
structure Taken where
  record : List Byte
  order : Nat
  seq : Nat                    -- its launch sequence number
  met : BitVec 4               -- dependences already read at zero or below
  pas : List (Nat × Nat)       -- dependences whose counter's physical address is known
  recs : List Nat              -- fault records the queue is parked on
  deriving DecidableEq, Repr

/-- What a completion block still has to receive (17 R291, R297). -/
inductive Due where
  | reject (code : Nat)
  | killed
  | done (irq : Option Nat)
  | confirmed (suspect : Nat) (irq : Option Nat)
  deriving DecidableEq, Repr
structure Owed where
  ctx : Nat
  va : Nat
  die : Nat                    -- the dispatcher's die, the last writer (12 R391)
  due : Due
  recs : List Nat
  fn : Nat                     -- the function whose interrupt follows (20 R341)
  deriving DecidableEq, Repr

/-- A launch queue (17 Table 17.1). -/
structure LQueue where
  base : DWord
  size : Word
  ctl : Word
  head : Word
  tail : Word
  err : Word
  taken : Option Taken
  bells : List (Word × Nat)    -- doorbells recorded: the QTAIL value and its order
  recs : List Nat              -- fault records the ring is parked on
  fn : Nat                     -- the function it is assigned to: 0 physical, 1 to 32 virtual (17 R287)
  deriving DecidableEq, Repr

/-- A partition (17 R293, R294; 19 Table 19.11). -/
structure Part where
  maskReg : Nat                -- bytes 0 to 10 of the entry as written
  pageReg : DWord
  mask : Nat                   -- the committed barn mask
  page : DWord
  defined : Bool
  gen : Word
  ltp : List Nat               -- physical core of each logical number
  pending : Bool               -- a reconfiguration is requested
  parkBase : DWord
  parkSize : DWord
  sarea : DWord
  tslice : Word
  slimit : Word
  sareaValid : Bool            -- SAREA holds an area of an automatic pre-emption since the last restore
  sliceDue : Bool              -- its slice has expired while the device was busy
  pstat : Word
  sliceFrom : Nat              -- the clock at its last restore or the last write that made TSLICE nonzero (19 R333)
  armed : Bool                 -- the slice has not ended since then
  heldCtx : List Nat           -- contexts of a pre-empted partition, until a restore
  maskDue : Nat                -- the mask and the page that the latest commit named (17 R293)
  pageDue : DWord
  deriving DecidableEq, Repr

/-- The fields of a descriptor that a build latches (15 R262). -/
structure RgnFields where
  dims : Nat
  ef : Nat
  widths : List Nat
  logcap : Nat
  eps : Word
  fill : Word
  extent : List Nat
  a : List Word
  o : List Word
  param : Nat
  list : Nat
  deriving DecidableEq, Repr

/-- A build: one that has not reached the home yet, or the one in progress (15 R272). -/
structure Build where
  ctx : Nat
  refVa : DWord
  pitch : Nat
  counter : Option DWord
  uid : Nat                    -- the stook that issued it
  key : Nat
  counters : List (Nat × DWord) -- counters of this and of second builds: context, address
  recs : List Nat              -- fault records it is parked on
  uids : List Nat              -- the stooks of second builds (18 R311)
  set : Nat                    -- steps of its start that are done: slot 0 marked, then the records of area 0 cleared
  sid : Nat                    -- the sheaf that issued it
  lanes : LaneSet              -- and the path, which issues nothing until the home has taken it (24 R369)
  deriving DecidableEq, Repr

/-- A request of a refit (15 R273). -/
structure RefitReq where
  region : Nat
  ctx : Nat
  proposal : Option DWord
  counters : List (Nat × DWord)
  urgent : Bool
  uids : List Nat              -- the stooks that issued it while they held the token (18 R311)
  deriving DecidableEq, Repr

/-- A refit running (15 R274). -/
structure Refit where
  req : RefitReq
  n0 : Nat
  key : Nat
  l2 : Nat                     -- records in the new list
  stored : List Nat            -- keys stored during the sweep
  recs : List Nat              -- fault records it is parked on
  prop : Option (List Byte)    -- the proposal, once it has been read
  set : Nat                    -- pieces of 16 bytes of its slot and its area that are set up
  pages : KV (Nat × Nat × Nat) -- the pages that it has written, by number: leaf entry, physical address, home die (16 R285)
  deriving DecidableEq, Repr

/-- What a home keeps of a fitted region, keyed by its descriptor's physical address (15 R262, R263). -/
structure Region where
  ctx : Nat
  va : DWord
  hd : Nat
  f : RgnFields
  gen : Nat
  count : Nat
  valid : Bool
  building : Bool
  urgent : Bool
  ood : Bool
  err : Nat
  rfres : Nat
  build : Option Build
  refit : Option Refit
  arrivals : List Build        -- builds issued and not yet taken by the home
  owed : List (Nat × DWord)    -- counters still to be decremented: context, address
  owedRecs : List Nat          -- the fault record on which the first of them is parked (16 R283)
  deriving DecidableEq, Repr

/-- A bulk prefetch under way (10 R179). -/
structure Pfl2Op where
  id : Nat
  die : Nat
  core : Nat
  uid : Nat
  sid : Nat
  ctx : Nat
  tag : Option Nat
  counter : Option DWord
  skipped : Nat
  start : DWord
  len : Nat
  recs : List Nat              -- the fault record on which its counter is parked (16 R283)
  deriving DecidableEq, Repr

/-- A collective step (20 R348 to R352). -/
structure CollOp_ where
  id : Nat
  core : Nat
  uid : Nat
  sid : Nat
  ctx : Nat
  tag : Nat
  dst : DWord
  src : DWord
  count : Nat
  ty : Ty
  op : CollOp
  kind : CollKind
  group : Nat
  seq : Nat                    -- its step number
  rebuilds : Nat
  recs : List Nat
  token : Bool
  snap : Option (List Byte)    -- the source as it was first read (20 R350)
  given : List Byte            -- every rank's source, once the members have exchanged them
  torn : Bool                  -- the source has changed since, before the tag is READY (20 R350)
  fin : Option (Nat × Nat)     -- its cause and count, once it has ended
  written : List Nat           -- registrations of its writes not yet acknowledged
  out : Option (List Byte)     -- what it writes, once it is combined
  done : Nat                   -- destination bytes written
  deriving DecidableEq, Repr

/-- A group table entry (20 Table 20.5). -/
structure Group where
  members : DWord
  nmemb : Nat
  rank : Nat
  fanout : Nat
  retry : Nat
  flags : Nat                  -- bit 0 VALID, bits 4:1 PART
  ctx : Nat
  seq : Word
  rebuilds : Word
  deriving DecidableEq, Repr

/-- A Bruvas link (20 Table 20.4). -/
structure Link where
  up : Bool
  peer : Nat
  peerLink : Nat
  fails : Nat
  deriving DecidableEq, Repr

/-- A pre-emption or restore in progress (19 R333). -/
structure PreOp where
  op : Nat                     -- 1, 2, 3 as PRCTL
  part : Nat
  auto : Bool
  area : Nat                   -- physical base of the context area
  queues : KV LQueue           -- a pre-emption's queues as step 1 found them
  deriving DecidableEq, Repr

/-- What a context area written by this device has no place for (log 61): the area's bytes, and the crops, stooks and
sheaves of its records, by their indices. It counts only while the area still holds those bytes. -/
structure Aside where
  image : List Byte
  crops : List Crop
  stooks : List Stook
  sheaves : List Sheaf
  colls : List (Nat × CollOp_) -- collective steps by their stook's index, their core and sheaf by their places
  deriving DecidableEq, Repr

/-- The translation control page and the fault queue (16 Table 16.4). -/
structure TransPage where
  ctxbase : DWord
  fqbase : DWord
  fqsize : Word
  fqtail : Word
  fqhead : Word
  recs : List FaultRec         -- outstanding
  nextId : Nat
  ctxCache : KV (List Byte)    -- cached context entries (16 R282)
  invctx : List (Nat × Nat)    -- invalidations not complete: the context, and the name that later accesses do not come before
  deriving DecidableEq, Repr

/-- The trap control page (19 Table 19.11), its partition entries apart. -/
structure TrapPage where
  tvbase : DWord
  prctl : Word
  pstate : Word
  parea : DWord
  plimit : DWord
  pdone : Word
  op : Option PreOp
  deriving DecidableEq, Repr

/-- The fabric control page and the interrupts (20 Tables 20.3, 20.9). -/
structure FabricPage where
  devnum : Nat
  clash : Bool
  unusable : Bool              -- two devices of the domain have one number: every Bruvas link stays down (20 R344)
  links : KV Link
  groups : KV Group
  routes : List Nat            -- peers with a route
  recompute : Bool             -- routes are to be recomputed
  hostUp : List Bool           -- host links 0 and 1
  bind : KV Nat                -- the host link of each virtual function; link 0 for one not listed (20 R341)
  msiOpen : List (Nat × Nat)   -- vectors that are not masked: function, vector
  msiPend : List (Nat × Nat)
  msiSent : List (Nat × Nat)   -- messages sent, latest first
  deriving DecidableEq, Repr

/-- The reliability control page (21 Table 21.2). -/
structure RelPage where
  ready : DWord
  fail : DWord
  fwstat : Word
  overtemp : Bool
  retired : Bool
  corrected : KV Nat
  uncorrected : KV Nat
  retiredCores : KV Nat
  attnonce : List Byte
  attaddr : DWord
  attctl : Nat
  image : List Byte            -- digest of the running image
  deriving DecidableEq, Repr

/-- The path that issues. -/
structure Cursor where
  sid : Nat
  lanes : LaneSet
  pc : DWord
  words : List Word
  replay : Option Replay             -- the entry, when a replay entry is executed
  fault : Option TrapInfo            -- a fetch that failed
  recs : List Nat                    -- fault records a fetch parks on
  deriving DecidableEq, Repr

/-- An issue that this cycle still owes: a path of a sheaf. -/
structure Planned where
  sid : Nat
  lanes : LaneSet
  pc : DWord
  uni : Bool
  rep : Bool                   -- the head of the sheaf's replay queue (19 R327)
  lock : Option DWord          -- the latch reader that stands next (03 R58)
  deriving DecidableEq, Repr

/-- The device. -/
structure State where
  mem : KV Byte                -- memory as the homes hold it, by physical address; unlisted bytes read 0
  homes : KV HomeLine          -- by line
  barns : KV Barn
  cores : KV Core
  sheaves : KV Sheaf
  stooks : KV Stook
  crops : KV Crop
  msgs : KV MsgEnt
  waits : List WaitEnt         -- in arrival order
  regions : KV Region
  refitQ : KV (List RefitReq)  -- each die's winnower queue
  pfl2 : List Pfl2Op
  colls : List CollOp_
  trans : TransPage
  queues : KV LQueue
  owed : List Owed             -- completion blocks still to be written
  parts : KV Part
  trapPage : TrapPage
  fabric : FabricPage
  rel : RelPage
  asides : KV Aside            -- by the area's physical base
  cropSeq : Nat                -- launch sequence counter (06 R115)
  bell : Nat                   -- order of doorbells
  clock : Nat                  -- arithmetic cycles since reset
  nextId : Nat                 -- names for sheaves, stooks, crops, messages, operations, phases
  -- the model's own fields
  cur : Option Cursor          -- the path that issues now
  slot : List Planned          -- issues still owed in this cycle
  tick : Nat                   -- what free values are applied to
  inputs : List Instr          -- what the outside world does next
  due : List Instr             -- steps of the agents that are still to be made in this round (00 R394; log 7)
  passed : Nat                 -- free choices since the last of them
  deriving DecidableEq, Repr

/-! ### The state after reset -/

def Tag.idle : Tag := ⟨.idle, none, 0, 0, 0⟩
def Bank.zero : Bank := ⟨.clean, [], [], []⟩
/-- 11 R181: T and banks zero, latch EMPTY, banks clean, scale latches invalid, collector empty, no last user. -/
def Thresher.reset : Thresher := ⟨none, false, false, [], [], .zero, .zero, none, [], none, [], none, false⟩
def Core.fresh (st : CoreSt) : Core := ⟨st, [], [], [], .reset, [], [], false, []⟩
def Barn.empty : Barn := ⟨[], [], [], [], 0, none, false⟩
def HomeLine.fresh : HomeLine := ⟨[], none, 0, 0, 0, 0⟩
def LQueue.reset : LQueue := ⟨0, 2, 0, 0, 0, 0, none, [], [], 0⟩
def Part.reset : Part := ⟨0, 0, 0, 0, false, 0, [], false, 0, 0, 0, 0, 0, false, false, 0, 0, false, [], 0, 0⟩
def Group.reset : Group := ⟨0, 0, 0, 0, 3, 0, 0, 0, 0⟩
def Link.reset : Link := ⟨false, 0, 0, 0⟩
def TransPage.reset : TransPage := ⟨0, 0, 64, 0, 0, [], 0, [], []⟩
def TrapPage.reset : TrapPage := ⟨0, 0, 0, 0, 0, 0, none⟩
def FabricPage.reset : FabricPage := ⟨0, false, false, [], [], [], false, [false, false], [], [], [], []⟩
def RelPage.reset : RelPage := ⟨0, 0, 0, false, false, [], [], [], [], 0, 0, []⟩

/-- The device right after reset (21 R361): bring-up starts with every function not ready, no stook is resident, no
word is owned, memory lists nothing. A map that lists nothing holds the value its accessor gives for an unlisted key:
a core fresh from reset in its fused harvest state, an empty barn, a queue or partition at its reset value. -/
def State.reset : State :=
  { mem := [], homes := [], barns := [], cores := [], sheaves := [], stooks := [], crops := [], msgs := [], waits := [],
    regions := [], refitQ := [], pfl2 := [], colls := [], trans := .reset, queues := [], owed := [], parts := [],
    trapPage := .reset, fabric := .reset, rel := .reset, asides := [], cropSeq := 0, bell := 0, clock := 0, nextId := 1,
    cur := none, slot := [], tick := 0, inputs := [], due := [], passed := 0 }

end Sys2Proof.Machine
end

