-- ==== Sys2Proof/Machine/Base.lean ====
section
/-! DEFINITION. Reading and updating the parts of the state: cores, barns, homes, sheaves, lanes, registers. Each
register has one home and one accessor (04 R65, 05 R83 to R90, 06 R106, R107). -/
namespace Sys2Proof

/-- The wider of two scopes (12 R214). -/
def Scope.max (a b : Scope) : Scope := if a.code < b.code then b else a

end Sys2Proof

namespace Sys2Proof.Machine

open Sys2Proof

/-! ### Cores, barns, homes, sheaves, stooks, crops -/

/-- Die, barn of its die, slot, and barn of the package of a physical core. -/
def dieOf (core : Nat) : Nat := core / 88
def barnInDie (core : Nat) : Nat := core % 88 / 4
def slotOf (core : Nat) : Nat := core % 4
def barnOf (core : Nat) : Nat := core / 4

/-- The state of a core as fused (00 R3). -/
def fusedSt (core : Nat) : CoreSt :=
  if Config.fusedDead core then .dead else if Config.fusedSpare core then .spare else .usable

def State.core (s : State) (c : Nat) : Core := s.cores.getD c (Core.fresh (fusedSt c))
def State.setCore (s : State) (c : Nat) (v : Core) : State := { s with cores := s.cores.put c v }
def State.barn (s : State) (b : Nat) : Barn := s.barns.getD b .empty
def State.setBarn (s : State) (b : Nat) (v : Barn) : State := { s with barns := s.barns.put b v }
def State.home (s : State) (line : Nat) : HomeLine := s.homes.getD line .fresh
def State.setHome (s : State) (line : Nat) (v : HomeLine) : State := { s with homes := s.homes.put line v }
def State.sheaf? (s : State) (sid : Nat) : Option Sheaf := s.sheaves.find? sid
def State.setSheaf (s : State) (sid : Nat) (v : Sheaf) : State := { s with sheaves := s.sheaves.put sid v }
def State.modSheaf (s : State) (sid : Nat) (f : Sheaf → Sheaf) : State :=
  match s.sheaf? sid with
  | some sh => s.setSheaf sid (f sh)
  | none => s
def State.stook? (s : State) (uid : Nat) : Option Stook := s.stooks.find? uid
def State.setStook (s : State) (uid : Nat) (v : Stook) : State := { s with stooks := s.stooks.put uid v }
def State.modStook (s : State) (uid : Nat) (f : Stook → Stook) : State :=
  match s.stook? uid with
  | some k => s.setStook uid (f k)
  | none => s
def State.crop? (s : State) (key : Nat) : Option Crop := s.crops.find? key
def State.setCrop (s : State) (key : Nat) (v : Crop) : State := { s with crops := s.crops.put key v }
def State.modCrop (s : State) (key : Nat) (f : Crop → Crop) : State :=
  match s.crop? key with
  | some k => s.setCrop key (f k)
  | none => s
def State.queue (s : State) (q : Nat) : LQueue := s.queues.getD q .reset
def State.setQueue (s : State) (q : Nat) (v : LQueue) : State := { s with queues := s.queues.put q v }
def State.part (s : State) (p : Nat) : Part := s.parts.getD p .reset
def State.setPart (s : State) (p : Nat) (v : Part) : State := { s with parts := s.parts.put p v }
/-- A pre-empted context: its regions rest until a restore (15 R277). -/
def State.ctxHeld (s : State) (ctx : Nat) : Bool := s.parts.any (fun e => e.2.heldCtx.contains ctx)
def State.group (s : State) (g : Nat) : Group := s.fabric.groups.getD g .reset
def State.setGroup (s : State) (g : Nat) (v : Group) : State :=
  { s with fabric := { s.fabric with groups := s.fabric.groups.put g v } }
def State.link (s : State) (k : Nat) : Link := s.fabric.links.getD k .reset
def State.setLink (s : State) (k : Nat) (v : Link) : State :=
  { s with fabric := { s.fabric with links := s.fabric.links.put k v } }

/-- A fresh name and the state that has used it. -/
def State.fresh (s : State) : Nat × State := (s.nextId, { s with nextId := s.nextId + 1 })

/-- A fresh free byte, bit or number. -/
def State.freeByte (s : State) : Byte × State := (Config.freeByte s.tick, { s with tick := s.tick + 1 })
def State.freeBit (s : State) : Bool × State := (Config.freeBit s.tick, { s with tick := s.tick + 1 })

/-- `n` fresh free bytes. -/
def State.freeBytes : State → Nat → List Byte × State
  | s, 0 => ([], s)
  | s, n + 1 =>
    let (b, s1) := s.freeByte
    let (r, s2) := State.freeBytes s1 n
    (b :: r, s2)

/-! ### Lanes -/

/-- A lane at placement, apart from its program counter (05 R84, 08 R133). -/
def Lane.fresh (pc : DWord) : Lane :=
  { pc := pc, exited := false, hold := .none, joinAt := 0, preds := 0, b0 := 0, b1 := 0, b2 := 0, b3 := 0, bvalid := 0, age := 0,
    depth := 0, chip := [], pend := .sh, failed := [] }

def Sheaf.lane (sh : Sheaf) (i : Nat) : Lane := sh.lanes.getD i (Lane.fresh 0)
def Sheaf.setLane (sh : Sheaf) (i : Nat) (l : Lane) : Sheaf := { sh with lanes := sh.lanes.put i l }
def Sheaf.modLane (sh : Sheaf) (i : Nat) (f : Lane → Lane) : Sheaf := sh.setLane i (f (sh.lane i))
/-- The same change in every lane of a set. -/
def Sheaf.modLanes (sh : Sheaf) (m : LaneSet) (f : Nat → Lane → Lane) : Sheaf :=
  (lanesOf m).foldl (fun sh i => sh.modLane i (f i)) sh

/-- Register vR of lane i (05 R84: zero at placement). -/
def Sheaf.vreg (sh : Sheaf) (r i : Nat) : Word := sh.regs.getD (64 * r + i) 0
def Sheaf.setVreg (sh : Sheaf) (r i : Nat) (w : Word) : Sheaf := { sh with regs := sh.regs.put (64 * r + i) w }
def Sheaf.sreg (sh : Sheaf) (r : Nat) : Word := sh.s.getD r 0
def Sheaf.setSreg (sh : Sheaf) (r : Nat) (w : Word) : Sheaf := { sh with s := sh.s.put r w }

/-- The lanes of the sheaf (04 R65: bits at and above the width read as zero). -/
def Sheaf.full (sh : Sheaf) : LaneSet := fullSet sh.width
def Sheaf.mask (sh : Sheaf) (m : Fin 12) : LaneSet := sh.m.getD m.val 0 &&& sh.full
def Sheaf.setMask (sh : Sheaf) (m : Fin 12) (v : LaneSet) : Sheaf := { sh with m := sh.m.put m.val (v &&& sh.full) }

/-- The lanes that have exited. -/
def Sheaf.exitedSet (sh : Sheaf) : LaneSet := laneSetOf sh.width (fun i => (sh.lane i).exited)
/-- The lanes that have not exited. -/
def Sheaf.live (sh : Sheaf) : LaneSet := sh.full &&& ~~~sh.exitedSet

/-- A latch's value, and whether it is valid (05 R86). -/
def Lane.latch (l : Lane) (n : Fin 4) : Word :=
  match n with
  | 0 => l.b0
  | 1 => l.b1
  | 2 => l.b2
  | 3 => l.b3
def Lane.latchValid (l : Lane) (n : Fin 4) : Bool := l.bvalid.getLsbD n.val
/-- Issue of a lane-set instruction shifts the latches; b0 receives a value or becomes invalid (05 R86). -/
def Lane.shiftLatch (l : Lane) (v : Option Word) : Lane :=
  { l with
    b3 := l.b2, b2 := l.b1, b1 := l.b0, b0 := v.getD 0,
    bvalid := (l.bvalid <<< 1) ||| (if v.isSome then 1 else 0) }
def Lane.killLatches (l : Lane) : Lane := { l with bvalid := 0 }
def Lane.setPc (l : Lane) (pc : DWord) : Lane := { l with pc := pc }
def Lane.pred (l : Lane) (p : Pred) : Bool :=
  match p with
  | .p n => l.preds.getLsbD n.val
  | .t => true
/-- One bit of a predicate word set or cleared. -/
def setPredBit (w : BitVec 7) (n : Nat) (b : Bool) : BitVec 7 :=
  if b then w ||| BitVec.ofNat 7 (2 ^ n) else w &&& ~~~(BitVec.ofNat 7 (2 ^ n))
def Lane.setPred (l : Lane) (n : Nat) (b : Bool) : Lane := { l with preds := setPredBit l.preds n b }
def Sheaf.qpred (sh : Sheaf) (p : Pred) : Bool :=
  match p with
  | .p n => sh.q.getLsbD n.val
  | .t => true

/-- Word `k` of the group that a register field names, in lane i (05 R85, R86; 02 R33: z as a group reads zeros). -/
def Sheaf.readReg (sh : Sheaf) (r : Reg) (i k : Nat) : Word :=
  match r with
  | .v n => sh.vreg (n.val + k) i
  | .s n => sh.sreg (n.val + k)
  | .z => 0
  | .li => BitVec.ofNat 32 i
  | .b n => (sh.lane i).latch n

/-- Writes word `k` of a group in lane i; z discards (Table 2.3). -/
def Sheaf.writeReg (sh : Sheaf) (r : Reg) (i k : Nat) (w : Word) : Sheaf :=
  match r with
  | .v n => sh.setVreg (n.val + k) i w
  | .s n => sh.setSreg (n.val + k) w
  | _ => sh

/-- Writes consecutive words of a group in lane i. -/
def Sheaf.writeGroup (sh : Sheaf) (r : Reg) (i : Nat) : Nat → List Word → Sheaf
  | _, [] => sh
  | k, w :: ws => Sheaf.writeGroup (sh.writeReg r i k w) r i (k + 1) ws

/-! ### Orders and scopes of instructions -/

/-- Whether an order acquires or releases. -/
def acquires (o : Order) : Bool := o == .acq || o == .ar
def releases (o : Order) : Bool := o == .rel || o == .ar
/-- The scope at which an instruction's accesses acquire. -/
def acqScope (i : Instr) : Option Scope :=
  match i with
  | .ldg _ _ _ _ sc true _ => some sc
  | .ldgSigned _ _ _ _ sc true _ => some sc
  | .ldgU _ _ _ _ _ sc true _ => some sc
  | .atom _ _ _ _ _ _ sc o _ => if acquires o then some sc else none
  | .cas _ _ _ _ _ sc o _ => if acquires o then some sc else none
  | .waita _ _ _ _ _ sc true _ => some sc
  | .fence _ o sc => if acquires o then some sc else none
  | .aatom _ _ _ _ _ _ sc o _ => if acquires o then some sc else none
  | _ => none
/-- The scope at which an instruction releases. -/
def relScope (i : Instr) : Option Scope :=
  match i with
  | .stg _ _ _ _ sc true _ => some sc
  | .stgU _ _ _ _ sc true _ => some sc
  | .atom _ _ _ _ _ _ sc o _ => if releases o then some sc else none
  | .cas _ _ _ _ _ sc o _ => if releases o then some sc else none
  | .red _ _ _ _ _ sc true _ => some sc
  | .fence _ o sc => if releases o then some sc else none
  | .aatom _ _ _ _ _ _ sc o _ => if releases o then some sc else none
  | .phend .. => some .sy
  | .launch .. => some .sy
  | .wake .. => some .sh
  | .fbarr .. => some .st
  | _ => none
/-- A WAKE waits for registrations as a release does and orders nothing else (13 R243): it publishes nothing. -/
def publishes (i : Instr) : Bool :=
  match i with
  | .wake .. => false
  | _ => true

/-- A local physical address (20 Table 20.2: FORM 0 or 1, or FORM 2 naming this device), a peer's, or the host's. -/
inductive Place where
  | loc (off : Nat)
  | peer (dev off : Nat)
  | host (addr : Nat)
  | absent
  deriving DecidableEq, Repr

/-- Bytes of device memory (00 R1). -/
def memBytes : Nat := 480000000000

/-- Where a physical address lies (20 R343). -/
def State.place (s : State) (pa : Nat) : Place :=
  let form := pa / 2 ^ 50 % 4
  if form = 3 then .host (pa % 2 ^ 50)
  else if form = 2 then
    let dev := pa / 2 ^ 41 % 512
    let off := pa % 2 ^ 41
    if memBytes ≤ off then .absent else if dev = s.fabric.devnum then .loc off else .peer dev off
  else
    let off := pa % 2 ^ 51
    if memBytes ≤ off then .absent else .loc off

/-- The physical address that names a place, one for each. -/
def Place.canon : Place → Nat
  | .loc off => off
  | .peer d off => 2 ^ 51 + d * 2 ^ 41 + off
  | .host a => 3 * 2 ^ 50 + a
  | .absent => 2 ^ 52

/-- The function of a stook: that of its crop's queue (17 R287). -/
def State.fnOf (s : State) (uid : Nat) : Nat :=
  match (s.stook? uid).bind (fun k => s.crop? k.crop) with
  | some c => (s.queue c.queue).fn
  | none => 0
/-- The lowest lane of a set. -/
def lowestLane (m : LaneSet) : Nat := (lanesOf m).headD 0
/-- The host link of a function, and whether it carries traffic; the physical function is bound to link 0 (20 R341). -/
def State.linkOfFn (s : State) (fn : Nat) : Nat := if fn = 0 then 0 else s.fabric.bind.getD fn 0
def State.fnUp (s : State) (fn : Nat) : Bool := s.fabric.hostUp.getD (s.linkOfFn fn) false

/-- Whether the home die of an access is not ready (21 R361): some HBM stack of it neither ready nor failed. -/
def State.dieWaits (s : State) (d : Nat) : Bool :=
  [2 * d, 2 * d + 1].any (fun k => !s.rel.ready.getLsbD k && !s.rel.fail.getLsbD k)
def State.dieFailed (s : State) (d : Nat) : Bool :=
  [2 * d, 2 * d + 1].any (fun k => s.rel.fail.getLsbD k)

/-- The home slice of a line on its die (12 R208). -/
def sliceOf (pa : Nat) : Nat := Nat.xor (pa / 128 % 32) (pa / 65536 % 32)

end Sys2Proof.Machine
end

