-- ==== Sys2Proof/Machine/Memory.lean ====
section
/-! DEFINITION. Memory at the homes, the words that barns own, and the steps of the home of a word: registration,
recall, write-back, and the notices to those who watch a word (12 R207 to R224, 13 R241, R242, 16 R285). -/
namespace Sys2Proof.Machine

open Sys2Proof

/-! ### Bytes -/

/-- What a byte of memory that nothing has written reads as (log 3). -/
def unlisted : Byte := 0

def memByte (m : KV Byte) (a : Nat) : Byte := m.getD a unlisted
/-- Writes one byte and keeps the canonical form: no entry equal to what an unlisted address reads as. -/
def memSet (m : KV Byte) (a : Nat) (b : Byte) : KV Byte := if b = unlisted then m.erase a else m.put a b
def memRead (m : KV Byte) : Nat → Nat → List Byte
  | _, 0 => []
  | a, n + 1 => memByte m a :: memRead m (a + 1) n
def memWrite (m : KV Byte) : Nat → List Byte → KV Byte
  | _, [] => m
  | a, b :: bs => memWrite (memSet m a b) (a + 1) bs

/-- The canonical form of memory: addresses strictly rising, no entry that reads as an unlisted address does. -/
def Memory.wf (m : KV Byte) : Bool := m.sorted && m.all (fun c => decide (c.2 ≠ unlisted))

def State.memRead (s : State) (a n : Nat) : List Byte := Machine.memRead s.mem a n
def State.memWrite (s : State) (a : Nat) (bs : List Byte) : State := { s with mem := Machine.memWrite s.mem a bs }

/-- Byte k of a word. -/
def wordByte (w : Word) (k : Nat) : Byte := w.extractLsb' (8 * k) 8
/-- A word with the bytes of a mask taken from another. -/
def mergeWord (old new : Word) (mask : BitVec 4) : Word :=
  let f (k : Nat) : Byte := if mask.getLsbD k then wordByte new k else wordByte old k
  f 3 ++ f 2 ++ f 1 ++ f 0
/-- The word at the home. -/
def State.homeWord (s : State) (wa : Nat) : Word :=
  match s.memRead (4 * wa) 4 with
  | [a, b, c, d] => d ++ c ++ b ++ a
  | _ => 0
def State.setHomeWord (s : State) (wa : Nat) (w : Word) : State :=
  s.memWrite (4 * wa) [wordByte w 0, wordByte w 1, wordByte w 2, wordByte w 3]

/-! ### Owners -/

def lineOf (wa : Nat) : Nat := wa / 32
def wordBit (wa : Nat) : Word := BitVec.ofNat 32 (2 ^ (wa % 32))
/-- The barn that the home records as a word's owner. -/
def State.ownerOf (s : State) (wa : Nat) : Option Nat :=
  ((s.home (lineOf wa)).owners.find? (fun o => o.2 &&& wordBit wa != 0)).map (·.1)
/-- A barn's words in its L1 or in its eviction buffer. -/
def Barn.held (b : Barn) (wa : Nat) : Option L1Word :=
  match b.words.find? wa with
  | some w => if w.owned || w.phase != [] then some w else
      (b.evict.findSome? (fun e => e.words.find? wa)).orElse (fun _ => some w)
  | none => b.evict.findSome? (fun e => e.words.find? wa)
/-- A barn's words that answer a forwarded read or a recall: owned, or in the eviction buffer (12 R219). -/
def Barn.ownedWord (b : Barn) (wa : Nat) : Option L1Word :=
  match b.words.find? wa with
  | some w => if w.owned then some w else b.evict.findSome? (fun e => e.words.find? wa)
  | none => b.evict.findSome? (fun e => e.words.find? wa)
/-- The newest value in coherence order: the owner's written bytes over the home's (12 R213). -/
def State.cohWord (s : State) (wa : Nat) : Word :=
  let h := s.homeWord wa
  match s.ownerOf wa with
  | none => h
  | some b =>
    match (s.barn b).ownedWord wa with
    | some w => mergeWord h w.bytes w.written
    | none => h
/-- Bytes of the coherent value. -/
def State.cohRead (s : State) : Nat → Nat → List Byte
  | _, 0 => []
  | a, n + 1 => wordByte (s.cohWord (a / 4)) (a % 4) :: State.cohRead s (a + 1) n

/-- The words that n bytes at a physical address touch. -/
def wordsOf (pa n : Nat) : List Nat :=
  if n = 0 then [] else (List.range ((pa + n - 1) / 4 - pa / 4 + 1)).map (· + pa / 4)

/-- Whether any wait entry watches bytes of a word (13 R242). -/
def State.watched (s : State) (wa : Nat) : Bool :=
  s.waits.any (fun e => decide (e.pa / 4 ≤ wa ∧ wa ≤ (e.pa + e.n - 1) / 4))

/-- An owner record without some words of one barn; a barn that keeps none leaves the record (12 R211). -/
def dropOwner (o : List (Nat × Word)) (b : Nat) (m : Word) : List (Nat × Word) :=
  (o.map (fun x => if x.1 = b then (x.1, x.2 &&& ~~~m) else x)).filter (fun x => x.2 != 0)

/-! ### Notices to watchers -/

/-- A flight's lanes released with a status for WAITA (13 Table 13.4): the status is the lane's result. While its sheaf is
frozen the release is held; while a resumed sheaf executes its replay entries, that of a lane which stands at its WAITA
(19 R317, R327). -/
def Sheaf.releaseWaita (sh : Sheaf) (fid lane status : Nat) : Sheaf :=
  if sh.frozen || (sh.resuming && sh.flights.any (fun f => f.id == fid && f.stay)) then { sh with held := sh.held ++ [(fid, lane, status)] }
  else { sh with flights := sh.flights.map (fun f =>
      if f.id = fid then
        { f with ready := f.ready ||| laneBit lane
                 accs := f.accs.map (fun a => if a.lane = lane then { a with st := .done (bytesOf 4 status) } else a) }
      else f) }
def State.releaseWaita (s : State) (sid fid lane status : Nat) : State :=
  s.modSheaf sid (fun sh => sh.releaseWaita fid lane status)

/-- The class of a line's last writer for a reading barn (12 R217, R391). -/
def writerClass (w : Option Writer) (b : Nat) : Option Scope :=
  match w with
  | none => none
  | some (.barn x) => some (if x = b then .bn else if x / 22 = b / 22 then .di else .pk)
  | some (.die d) => some (if d = b / 22 then .di else .pk)
  | some .package => some .pk
  | some .peer => some .sy
  | some .host => some .sy
/-- Lanes have read a word of a class. -/
def Sheaf.raisePend (sh : Sheaf) (m : LaneSet) (c : Scope) : Sheaf :=
  sh.modLanes m (fun _ l => { l with pend := l.pend.max c })
/-- A WAITA with ORDER 1 reads its word at its home: the class of the line's last writer widens the acquire that follows
(12 R217, 13 R241). -/
def State.raiseWait (s : State) (sid fid lane pa : Nat) : State :=
  s.modSheaf sid (fun sh => match List.find? (fun f => f.id == fid) sh.flights with
    | some f => match acqScope f.instr, writerClass (s.home (pa / 128)).last (barnOf sh.core) with
      | some _, some c => sh.raisePend (laneBit lane) c
      | _, _ => sh
    | none => sh)

/-- A CCWAIT's counter is read again (17 R302): at zero or below, its flight is ready with the value read. -/
def State.reread (s : State) (sid fid pa : Nat) : State :=
  let v := BitVec.ofNat 64 (natOfBytes (s.cohRead pa 8))
  if v.toInt ≤ 0 then
    s.modSheaf sid (fun sh => { sh with flights := sh.flights.map (fun f =>
      if f.id = fid then { f with ready := f.path
                                  accs := f.accs.map (fun a => { a with st := .done (bytesOf 8 v.toNat) }) }
      else f) })
  else s

/-- A dependence counter read as signed at its home (17 R292). -/
def depRead (s : State) (pa : Nat) (w32 : Bool) : Int :=
  if w32 then (BitVec.ofNat 32 (natOfBytes (s.cohRead pa 4))).toInt
  else (BitVec.ofNat 64 (natOfBytes (s.cohRead pa 8))).toInt
/-- The dependences of a taken record that a write of a word lets the dispatcher read again: dependence 2 k + W32 at
its counter's address. -/
def LQueue.reread (q : LQueue) (s : State) (wa : Nat) : LQueue :=
  { q with taken := q.taken.map (fun t => { t with met := t.pas.foldl (fun (m : BitVec 4) (e : Nat × Nat) =>
      if e.2 / 4 ≤ wa ∧ wa ≤ (e.2 + 7) / 4 ∧ depRead s e.2 (e.1 % 2 == 1) ≤ 0 then m ||| BitVec.ofNat 4 (2 ^ (e.1 / 2)) else m) t.met }) }

/-- Every write the home records to a word re-evaluates its wait entries: a WAITA whose word now differs is released
with status 1, a CCWAIT reads its counter again (13 R241, R242; 17 R302). -/
def State.notify (s : State) (wa : Nat) : State :=
  let hit (e : WaitEnt) : Bool := decide (e.pa / 4 ≤ wa ∧ wa ≤ (e.pa + e.n - 1) / 4)
  let fire (e : WaitEnt) : Bool :=
    hit e && (if e.counter then decide ((BitVec.ofNat 64 (natOfBytes (s.cohRead e.pa 8))).toInt ≤ 0)
      else s.cohRead e.pa e.n != e.expect)
  let out := s.waits.filter fire
  let s := { s with waits := s.waits.filter (fun e => !fire e) }
  let s := { s with queues := s.queues.map (fun e => (e.1, e.2.reread s wa)) }
  out.foldl (fun s e => if e.counter then s.reread e.sid e.flight e.pa
    else (s.raiseWait e.sid e.flight e.lane e.pa).releaseWaita e.sid e.flight e.lane 1) s

/-! ### Taking words back, and dirty marks -/

/-- The home takes a word back from its owner (12 R211, R212): the written bytes are written back, the L1 keeps the
word valid and unowned, the record loses the word, and the page is marked. -/
def State.takeBack (mark : State → L1Word → Nat → State) (s : State) (wa : Nat) : State :=
  match s.ownerOf wa with
  | none => s
  | some ob =>
    let bn := s.barn ob
    let w := s.cohWord wa
    let x := bn.ownedWord wa
    let s := s.setBarn ob { bn with
      words := (match bn.words.find? wa with
        | some y => bn.words.put wa { y with owned := false, valid := true, bytes := w, written := 0, cls := .bn }
        | none => bn.words)
      evict := bn.evict.map (fun e => { e with words := e.words.erase wa }) }
    let h := s.home (lineOf wa)
    let s := s.setHome (lineOf wa) { h with
      last := some (.barn ob)
      owners := dropOwner h.owners ob (wordBit wa) }
    let s := s.setHomeWord wa w
    (match x with
    | some y => mark s y wa
    | none => s).notify wa
/-- One bit or-ed into the byte at a physical address at its home, by an engine or home of die d (16 R285, 12 R391). As a
write it clears the word's owner-lost mark (12 R221). -/
def State.orByteM (mark : State → L1Word → Nat → State) (s : State) (a : Nat) (b : Byte) (d : Nat) : State :=
  let a := (s.place a).canon
  let wa := a / 4
  let s := s.takeBack mark wa
  let m : Word := (b.zeroExtend 32) <<< (8 * (a % 4))
  let s := s.setHomeWord wa (s.homeWord wa ||| m)
  let h := s.home (lineOf wa)
  (s.setHome (lineOf wa) { h with last := some (.die d), lost := h.lost &&& ~~~(wordBit wa) }).notify wa

/-- The context entry of a context as the homes hold it: 64 bytes at CTXBASE + 64 c (16 R278). -/
def State.ctxBytes (s : State) (c : Nat) : List Byte := s.cohRead (s.place (s.trans.ctxbase.toNat + 64 * c)).canon 64
def fieldNat (bs : List Byte) (off n : Nat) : Nat := natOfBytes ((bs.drop off).take n)

/-- A mark of a written page of device memory: the D bit of its leaf entry, and its bit of the context's dirty bitmap
(16 R285). The context entry is the one cached for the context, if any. The mark takes its words back from their owners,
which marks their pages in turn, at most once for each word that some barn owns. -/
def State.dirtyMarkN : Nat → State → Nat → Nat → Nat → Nat → State
  | 0, s, _, _, _, _ => s
  | n + 1, s, ctx, pte, pa, hd =>
    let mark (s : State) (y : L1Word) (wa : Nat) : State := State.dirtyMarkN n s y.ctx y.pte (4 * wa) y.hd
    match s.place pa with
    | .loc off =>
      let s := if pte = 0 then s else s.orByteM mark pte 0x10 hd
      let e := (s.trans.ctxCache.find? ctx).getD (s.ctxBytes ctx)
      let base := fieldNat e 8 8 / 4096 * 4096
      let k := off / 65536
      if base = 0 then s else s.orByteM mark (base + k / 8) (BitVec.ofNat 8 (2 ^ (k % 8))) hd
    | _ => s
/-- Words that barns hold in their L1s and their eviction buffers: no chain of marks is longer. -/
def State.heldWords (s : State) : Nat :=
  s.barns.foldl (fun n b => b.2.evict.foldl (fun n e => n + e.words.length) (n + b.2.words.length)) 0
def State.dirtyMark (s : State) (ctx pte pa hd : Nat) : State := s.dirtyMarkN (s.heldWords + 1) ctx pte pa hd
def State.orByte (s : State) (a : Nat) (b : Byte) (d : Nat) : State :=
  s.orByteM (fun s y wa => s.dirtyMark y.ctx y.pte (4 * wa) y.hd) a b d

/-! ### Steps of a home -/

/-- A recall of one word. -/
def State.recallWord (s : State) (wa : Nat) : State := s.takeBack (fun s y wa => s.dirtyMark y.ctx y.pte (4 * wa) y.hd) wa

/-- The home takes back every word that one barn owns in a line (12 R211). -/
def State.recallBarn (s : State) (line b : Nat) : State :=
  ((List.range 32).map (· + 32 * line)).foldl (fun s wa => if s.ownerOf wa = some b then s.recallWord wa else s) s

/-- Clears the owner-lost mark of a word: a write reached it (12 R221). -/
def State.clearLost (s : State) (wa : Nat) : State :=
  let h := s.home (lineOf wa)
  s.setHome (lineOf wa) { h with lost := h.lost &&& ~~~(wordBit wa) }
def State.isLost (s : State) (wa : Nat) : Bool := (s.home (lineOf wa)).lost &&& wordBit wa != 0

/-- A word's barn becomes its owner; a third barn displaces the older record of the line (12 R211). -/
def State.recordOwner (s : State) (b wa : Nat) : State :=
  let line := lineOf wa
  let s := match (s.home line).owners with
    | [o1, o2] => if o1.1 = b ∨ o2.1 = b then s else s.recallBarn line o1.1
    | _ => s
  let h := s.home line
  s.setHome line { h with
    owners := if h.owners.any (fun o => o.1 = b) then h.owners.map (fun o => if o.1 = b then (b, o.2 ||| wordBit wa) else o)
    else h.owners ++ [(b, wordBit wa)] }
/-- The writes of a barn to a word that its home has not recorded. -/
def State.logOf (s : State) (b wa : Nat) : List (Nat × BitVec 4 × Word) :=
  match (s.barn b).words.find? wa with
  | some x => x.log
  | none => []
/-- One write of a barn, by its number, reaches the home in those of some words that it touched; then the waits of all of
them are evaluated (23 R367). -/
def State.recordWrite (s : State) (b : Nat) (ws : List Nat) (k : Nat) : State :=
  let s := ws.foldl (fun s wa => match (s.logOf b wa).find? (fun e => e.1 == k) with
    | some e => s.setHomeWord wa (mergeWord (s.homeWord wa) e.2.2 e.2.1)
    | none => s) s
  ws.foldl (fun s wa => s.notify wa) s
/-- A watched word is written through: its barn keeps it valid and unowned (13 R242). -/
def State.wroteThrough (s : State) (b wa : Nat) : State :=
  let bn := s.barn b
  match bn.words.find? wa with
  | some x => s.setBarn b { bn with words := bn.words.put wa { x with
      owned := false, valid := true, bytes := s.homeWord wa, written := 0, log := [] } }
  | none => s
/-- The word's writes are recorded. -/
def State.dropLog (s : State) (b wa : Nat) : State :=
  let bn := s.barn b
  match bn.words.find? wa with
  | some x => if x.log = [] then s else s.setBarn b { bn with words := bn.words.put wa { x with log := [] } }
  | none => s
/-- The home records the registration of some words of one aligned pair (12 R210 to R212, 13 R242, 23 R367). Other owners
are recalled. A word that nobody watches gets its barn as owner; a watched word is written through, write by write, the
entries evaluated after each, and stays without an owner. -/
def State.recordWords (s : State) (b : Nat) (ws : List Nat) : State :=
  let through := ws.filter (fun wa => s.watched wa)
  let s := ws.foldl (fun s wa => if s.ownerOf wa = some b then s else s.recallWord wa) s
  let s := ws.foldl (fun s wa =>
    let s := s.clearLost wa
    let s := if through.contains wa then s else s.recordOwner b wa
    s.setHome (lineOf wa) { s.home (lineOf wa) with last := some (.barn b) }) s
  let keys := through.flatMap (fun wa => (s.logOf b wa).map (·.1))
  let s := ((List.range (keys.foldl Nat.max 0 + 1)).filter (fun k => keys.contains k)).foldl (fun s k => s.recordWrite b through k) s
  let s := through.foldl (fun s wa => s.wroteThrough b wa) s
  ws.foldl (fun s wa => (s.dropLog b wa).notify wa) s

/-- Whether bytes of local memory lie in a poisoned unit of 32 (21 R355). -/
def State.poisoned (s : State) (pa n : Nat) : Bool :=
  decide (pa < 2 ^ 51) && (List.range ((pa + n - 1) / 32 - pa / 32 + 1)).any (fun i =>
    let u := pa / 32 + i
    (s.home (u / 4)).poison.getLsbD (u % 4))
/-- A write that covers a whole unit cleans it. -/
def State.cleanUnits (s : State) (pa n : Nat) : State :=
  (List.range (n / 32 + 1)).foldl (fun s i =>
    let u := (pa + 31) / 32 + i
    if 32 * u + 32 ≤ pa + n then
      let h := s.home (u / 4)
      if h.poison = 0 then s else s.setHome (u / 4) { h with poison := h.poison &&& ~~~(BitVec.ofNat 4 (2 ^ (u % 4))) }
    else s) s

/-- A write performed at the home (a write-through, an engine's or a home's write): the owner's bytes are taken back
first, the bytes land, the writer is recorded, marks and watchers follow. -/
def State.homeWrite (s : State) (pa : Nat) (bs : List Byte) (w : Writer) : State :=
  let was := wordsOf pa bs.length
  let s := was.foldl (fun s wa => (s.recallWord wa).clearLost wa) s
  let s := (s.memWrite pa bs).cleanUnits pa bs.length
  let s := was.foldl (fun s wa => s.setHome (lineOf wa) { s.home (lineOf wa) with last := some w }) s
  was.foldl (fun s wa => s.notify wa) s

/-- Words become owner-lost: no owner, the mark set, their bytes unspecified (12 R221); who waits on such a word sees the
change (13 R242). -/
def State.loseWord (s : State) (wa : Nat) : State :=
  let h := s.home (lineOf wa)
  let s := s.setHome (lineOf wa) { h with
    lost := h.lost ||| wordBit wa
    owners := (h.owners.map (fun o => (o.1, o.2 &&& ~~~(wordBit wa)))).filter (fun o => o.2 != 0) }
  let (bs, s) := s.freeBytes 4
  (s.memWrite (4 * wa) bs).notify wa

/-! ### Messages -/

def State.addMsg (s : State) (m : Msg) (w : List (Nat × LaneSet)) : Nat × State :=
  let (id, s) := s.fresh
  (id, { s with msgs := s.msgs.put id ⟨m, w⟩ })
def State.dropMsg (s : State) (id : Nat) : State := { s with msgs := s.msgs.erase id }
/-- Adds a waiter to a message. -/
def addWaiter (w : List (Nat × LaneSet)) (sid : Nat) (m : LaneSet) : List (Nat × LaneSet) :=
  if w.any (fun x => x.1 = sid) then w.map (fun x => if x.1 = sid then (sid, x.2 ||| m) else x) else w ++ [(sid, m)]
/-- The message that registers a word for a barn and is not yet acknowledged. -/
def State.pendingReg (s : State) (b wa : Nat) : Option Nat :=
  s.msgs.findSome? (fun (e : Nat × MsgEnt) => match e.2.msg with
    | .reg b' wa' n .. => if b' = b ∧ wa' ≤ wa ∧ wa < wa' + n then some e.1 else none
    | _ => none)
/-- Whether a barn's write of a word waits for the home to record it. -/
def State.unrecorded (s : State) (b wa : Nat) : Bool :=
  s.msgs.any (fun (e : Nat × MsgEnt) => match e.2.msg with
    | .reg b' wa' n _ _ _ false => decide (b' = b ∧ wa' ≤ wa ∧ wa < wa' + n)
    | _ => false)

/-- The words that a registration of some words takes along: where a write of the barn covers both words of an aligned pair
that have registrations of their own, the two are recorded together, as that write is indivisible (12 R226). -/
def State.withPair (s : State) (b : Nat) (ws : List Nat) : List Nat :=
  let mate (wa : Nat) : Nat := Nat.xor wa 1
  ws ++ (ws.map mate).filter (fun x => !ws.contains x && s.unrecorded b x &&
    (s.logOf b x).any (fun e => (s.logOf b (mate x)).any (fun y => y.1 == e.1)))
/-- The home records a registration of words to a barn; the pages of the words that it names are marked (16 R285). -/
def State.recordRegs (s : State) (b : Nat) (ws : List Nat) (hd ctx pte : Nat) : State :=
  let s := s.recordWords b (s.withPair b ws)
  ws.foldl (fun s wa => s.dirtyMark ctx pte (4 * wa) hd) s

/-- The home records the write-back of an evicted line and acknowledges it (12 R219): each word still owned is taken back
into the home, the entry leaves the buffer. Units that the write-back covers whole are clean (21 R355). -/
def State.recordWb (s : State) (b m : Nat) : State :=
  match (s.barn b).evict.find? (fun e => e.msg == m) with
  | none => s.dropMsg m
  | some e =>
    let s := e.words.foldl (fun s w => if s.ownerOf w.1 = some b then s.recallWord w.1 else s) s
    let bn := s.barn b
    let s := (s.setBarn b { bn with evict := bn.evict.filter (fun x => x.msg != m) }).dropMsg m
    (List.range 4).foldl (fun s u =>
      if (List.range 8).all (fun k => match e.words.find? (32 * e.line + 8 * u + k) with | some w => w.written == 15 | none => false)
      then s.cleanUnits (128 * e.line + 32 * u) 32 else s) s
/-- A line that the barn writes again leaves its eviction buffer first: the moment of a write-back's record is free. -/
def State.wbFirst (s : State) (b wa : Nat) : State :=
  match (s.barn b).evict.find? (fun e => (e.words.find? wa).isSome) with
  | some e => s.recordWb b e.msg
  | none => s

/-- Whether a lane has a write whose registration is not acknowledged. -/
def State.owesReg (s : State) (sid : Nat) (lanes : LaneSet) : Bool :=
  s.msgs.any (fun e => (match e.2.msg with
    | .reg .. => true
    | _ => false) && e.2.waiters.any (fun w => decide (w.1 = sid) && w.2 &&& lanes != 0))
/-- Whether a lane has a write whose registration or acknowledgement is outstanding (12 R218). -/
def State.owes (s : State) (sid : Nat) (lanes : LaneSet) : Bool :=
  s.msgs.any (fun e => (match e.2.msg with
    | .reg .. => true
    | .peer (data := some _) .. => true
    | _ => false) && e.2.waiters.any (fun w => decide (w.1 = sid) && w.2 &&& lanes != 0))

end Sys2Proof.Machine
end

