-- ==== Sys2Proof/Machine/Xlate.lean ====
section
/-! DEFINITION. Translation: context entries, the walk, the TLBs, fault records, interrupts (16 R278 to R284,
20 R341 to R343). -/
namespace Sys2Proof.Machine

open Sys2Proof

/-! ### Interrupts -/

/-- Vectors of a function: 256 for the physical function (0), 64 for a virtual one (20 R342). -/
def vectors (fn : Nat) : Nat := if fn = 0 then 256 else 64
/-- A message of a function: a masked vector sets its pending bit, a number at or above the count sends nothing, and what would
be sent while the function's link is down is lost (20 R341, DESIGN CHOICE, log 114). -/
def State.raise (s : State) (fn v : Nat) : State :=
  if vectors fn ≤ v ∨ (s.fabric.msiOpen.contains (fn, v) = true ∧ s.fnUp fn = false) then s
  else if !s.fabric.msiOpen.contains (fn, v) then
    if s.fabric.msiPend.contains (fn, v) then s
    else { s with fabric := { s.fabric with msiPend := s.fabric.msiPend ++ [(fn, v)] } }
  else { s with fabric := { s.fabric with msiSent := (fn, v) :: s.fabric.msiSent } }

/-! ### Physical reads and writes -/

/-- Bytes at a physical address as its home holds them in coherence order. What a unit of this device (a walker, the
dispatcher, the trap unit) reads at a peer's address is free. -/
def State.physRead (s : State) (pa n : Nat) : List Byte :=
  match s.place pa with
  | .peer _ off => (List.range n).map (fun i => Config.freeByte (s.tick + off + i))
  | p => s.cohRead p.canon n
def State.physNat (s : State) (pa n : Nat) : Nat := natOfBytes (s.physRead pa n)
/-- A host bus address of 64 bits as this model keys it: those that FORM 3 names come first (20 R343). -/
def hostAddr (a : Nat) : Nat := 3 * 2 ^ 50 + a

/-! ### Fault records -/

/-- Bits of KIND (Table 16.5). -/
inductive AKind where
  | read | write | atomic | fetch
  deriving DecidableEq, Repr
def AKind.bit : AKind → Nat
  | .read => 1 | .write => 2 | .atomic => 4 | .fetch => 8
def kindOf (k : AKind) (engine : Bool) : Nat := k.bit + (if engine then 16 else 0)

def State.fqFull (s : State) : Bool :=
  decide ((s.trans.fqtail.toNat + 1) % s.trans.fqsize.toNat = s.trans.fqhead.toNat % s.trans.fqsize.toNat)

/-- The 32 bytes of a fault record (Table 16.5). -/
def FaultRec.bytes (r : FaultRec) : List Byte :=
  bytesOf 8 (r.page * 4096) ++ bytesOf 4 r.ctx ++ bytesOf 4 r.id ++ bytesOf 4 r.kind ++ bytesOf 4 r.level ++ bytesOf 8 0

/-- Whether a fault record can be written now: a slot is free and the physical function's link is up (16 R283,
20 R341). -/
def State.fqOpen (s : State) : Bool := !s.fqFull && s.fabric.hostUp.headD false

/-- Writes a record at FQTAIL, advances it and raises the fault interrupt. -/
def State.writeRec (s : State) (r : FaultRec) : State :=
  let t := s.trans
  let s := s.memWrite (hostAddr (t.fqbase.toNat + 32 * t.fqtail.toNat)) r.bytes
  let s := { s with trans := { t with
    fqtail := BitVec.ofNat 32 ((t.fqtail.toNat + 1) % t.fqsize.toNat)
    recs := t.recs.map (fun (x : FaultRec) => if x.id = r.id then { r with written := true } else x) } }
  s.raise 0 0

/-- Parks an accessor on the record of a context's page, writing one if none is unanswered (16 R283). -/
def State.fault (s : State) (ctx page kind level : Nat) : Nat × State :=
  match s.trans.recs.find? (fun r => r.ctx = ctx ∧ r.page = page) with
  | some r =>
    if r.written then (r.id, s)
    else (r.id, { s with trans := { s.trans with recs := s.trans.recs.map (fun (x : FaultRec) =>
      if x.id = r.id then { x with kind := Nat.lor x.kind kind } else x) } })
  | none =>
    let r : FaultRec := ⟨s.trans.nextId, ctx, page, kind, level, false⟩
    let s' := { s with trans := { s.trans with recs := s.trans.recs ++ [r], nextId := (s.trans.nextId + 1) % 2 ^ 32 } }
    (r.id, if s.fqOpen then s'.writeRec r else s')

/-! ### The walk -/

/-- What a walk finds. -/
inductive Walk where
  | leaf (e : TlbEnt)
  | bad (level : Nat)
  deriving DecidableEq, Repr

def pteBit (e : DWord) (k : Nat) : Bool := e.getLsbD k
/-- The address field of an entry, bits 51:12. -/
def pteBase (e : DWord) : Nat := (e.extractLsb' 12 40).toNat * 4096
/-- Reserved bits of every entry (Table 16.3). -/
def pteReserved (e : DWord) : Bool := e.extractLsb' 52 12 != 0 || pteBit e 7
def pageSize (level : Nat) : Nat := 2 ^ (12 + 9 * level)
/-- Whether an entry is a valid leaf for entry number `k` of its 16-entry group (16 R280). In a 64 KiB page the
entries' addresses ascend, so entry k holds the page's address plus 4,096 k (DEDUCED, log 20). -/
def leafOk (e : DWord) (level k : Nat) : Bool :=
  pteBit e 0 && !pteReserved e && decide ((e.extractLsb' 8 2).toNat < 2) &&
  (if level = 0 then (if pteBit e 6 then decide (pteBase e % 65536 = 4096 * k) else true)
   else decide (pteBase e % pageSize level = 0))
def walkIndex (va level : Nat) : Nat := va / 2 ^ (12 + 9 * level) % (if level = 3 then 8192 else 512)
def State.pte (s : State) (a : Nat) : DWord := BitVec.ofNat 64 (s.physNat a 8)
/-- Two entries of one 64 KiB page agree: equal fields, D and AC apart, and ascending addresses. -/
def pteAgree (a b : DWord) (i j : Nat) : Bool :=
  let fields (x : DWord) : DWord := x &&& 0xFFF0000000000FE7
  fields a == fields b && decide (pteBase a + 4096 * j = pteBase b + 4096 * i)

/-- The level-0 entry that translates an address, among the 16 of its group: its own, unless some entry of the group
has C64 set and the 16 disagree; then any one of them, which is free (16 R280). -/
def State.leaf0 (s : State) (base va : Nat) : Walk :=
  let ix := walkIndex va 0
  let g := ix / 16 * 16
  let own := ix % 16
  let ent (k : Nat) : DWord := s.pte (base + 8 * (g + k))
  let c64 := (List.range 16).filter (fun k => pteBit (ent k) 6 && pteBit (ent k) 0)
  let agree := (List.range 16).all (fun k => pteAgree (ent own) (ent k) own k)
  let k := if c64 = [] ∨ agree then own else Config.choice s.tick % 16
  let e := ent k
  if leafOk e 0 k then .leaf ⟨e, base + 8 * (g + k), 0⟩ else .bad 0

/-- The walk from a table of a level (16 R279, R280). -/
def State.walkAt (s : State) (va : Nat) : Nat → Nat → Walk
  | 0, base => s.leaf0 base va
  | l + 1, base =>
    let a := base + 8 * walkIndex va (l + 1)
    let e := s.pte a
    if pteBit e 5 then
      if l + 1 < 3 ∧ leafOk e (l + 1) 0 then .leaf ⟨e, a, l + 1⟩ else .bad (l + 1)
    else if pteBit e 0 && !pteReserved e then State.walkAt s va l (pteBase e)
    else .bad (l + 1)

/-- A context entry as an access sees it: the cached one or the one in memory, which is free where they differ
(16 R282). -/
def State.ctxEntry (s : State) (ctx : Nat) : List Byte × State :=
  let m := s.ctxBytes ctx
  let install (s : State) : State := { s with trans := { s.trans with ctxCache := s.trans.ctxCache.put ctx m } }
  match s.trans.ctxCache.find? ctx with
  | none => (m, install s)
  | some c =>
    if c = m then (c, s)
    else
      let (old, s) := s.freeBit
      if old then (c, s) else (m, install s)

def vpn (va : DWord) : Nat := va.toNat / 4096
/-- The pages of 4 KiB that an entry covers. -/
def TlbEnt.span (e : TlbEnt) : Nat := if e.level = 0 then (if pteBit e.pte 6 then 16 else 1) else 2 ^ (9 * e.level)
/-- Where an entry of a span that covers an address stands: one place for each page of any size (16 R281). -/
def tlbAt (ctx : Nat) (va : DWord) (span : Nat) : Nat := 2 ^ 40 * ctx + vpn va / span * span
def tlbFind (t : KV TlbEnt) (ctx : Nat) (va : DWord) : Option TlbEnt :=
  [1, 16, 512, 2 ^ 18].findSome? (fun n => (t.find? (tlbAt ctx va n)).filter (fun e => e.span == n))
/-- An entry put into a TLB; in a full one it replaces another, which is free. -/
def tlbPut (cap tick : Nat) (t : KV TlbEnt) (ctx : Nat) (va : DWord) (e : TlbEnt) : KV TlbEnt :=
  let k := tlbAt ctx va e.span
  let room := (t.find? k).isSome || decide (t.length < cap)
  let t := if room then t else match t[Config.choice tick % t.length]? with
    | some v => t.erase v.1
    | none => t
  t.put k e
/-- The mapping of an entry, its D and AC bits apart; the same for the 16 entries of a 64 KiB page. -/
def TlbEnt.maps (e : TlbEnt) : DWord × Nat × Nat :=
  if e.span = 16 then (e.pte &&& ~~~(0xF018 : DWord), e.pteAddr / 128, 0) else (e.pte &&& ~~~(0x18 : DWord), e.pteAddr, e.level)

/-- The physical address that an entry gives. -/
def TlbEnt.pa (e : TlbEnt) (va : DWord) : Nat :=
  if e.level = 0 then
    if pteBit e.pte 6 then pteBase e.pte / 65536 * 65536 + va.toNat % 65536 else pteBase e.pte + va.toNat % 4096
  else pteBase e.pte + va.toNat % pageSize e.level

/-- An entry put into the TLB of a core, of 256 entries. -/
def State.fillTlb (s : State) (core ctx : Nat) (va : DWord) (e : TlbEnt) : State :=
  let c := s.core core
  ({ s with tick := s.tick + 1 } : State).setCore core { c with tlb := tlbPut 256 s.tick c.tlb ctx va e }
/-- Installs an entry in the TLBs of a core and its barn, of 4,096 entries, and sets AC (16 R281). -/
def State.install (s : State) (core ctx : Nat) (va : DWord) (e : TlbEnt) : State :=
  let s := s.fillTlb core ctx va e
  let b := s.barn (barnOf core)
  let s := ({ s with tick := s.tick + 1 } : State).setBarn (barnOf core) { b with tlb := tlbPut 4096 s.tick b.tlb ctx va e }
  s.orByte e.pteAddr 0x08 (dieOf core)
/-- A walk for no core, of a home or a control unit, installs nothing and sets AC where it is clear (16 R281). Which die's
walker makes it is free (DEDUCED, log 122). -/
def State.walked (s : State) (w : Option Walk) : State :=
  let d := Config.choice s.tick % 4
  let s := { s with tick := s.tick + 1 }
  match w with
  | some (.leaf e) => if pteBit e.pte 3 then s else s.orByte e.pteAddr 0x08 d
  | _ => s

/-- What a translation answers. -/
inductive Xl where
  | ok (pa pte hd : Nat) (homeOnly : Bool)
  | perm
  | xlat
  | park (rec : Nat)
  deriving DecidableEq, Repr

/-- The entry an address translates by, through the TLBs of a core if one is named: a cached entry that differs from
memory is used or not, which is free (16 R282). -/
def State.lookup (s : State) (core : Option Nat) (ctx : Nat) (va : DWord) : Option Walk × State :=
  if va.toNat / 2 ^ 52 ≠ 0 then (none, s)
  else
    let (c, s) := s.ctxEntry ctx
    let root := fieldNat c 0 8
    let fresh (s : State) : Option Walk := if root % 2 = 0 then none else some (s.walkAt va.toNat 3 (root / 65536 * 65536))
    match core with
    | none => (fresh s, s.walked (fresh s))
    | some k =>
      let f := fresh s
      let s := { s with tick := s.tick + 1 }
      let take (s : State) : Option Walk × State :=
        match f with
        | some (.leaf e) => (f, s.install k ctx va e)
        | _ => (f, s)
      let reuse (e : TlbEnt) (s : State) : Option Walk × State :=
        let same : Bool := match f with
          | some (.leaf e') => decide (e'.maps = e.maps)
          | _ => false
        if same then (some (.leaf e), s)
        else
          let (old, s) := s.freeBit
          if old then (some (.leaf e), s) else take s
      match tlbFind (s.core k).tlb ctx va, tlbFind (s.barn (barnOf k)).tlb ctx va with
      | some e, _ => reuse e s
      | none, some e => reuse e (s.fillTlb k ctx va e)
      | none, none => take s

/-- Whether an entry's permissions allow an access (16 R280: fetch and read need V only). -/
def permits (e : DWord) : AKind → Bool
  | .read => true
  | .fetch => true
  | .write => pteBit e 1
  | .atomic => pteBit e 1 && pteBit e 2

/-- Whether the home die of a local page has a failed stack (21 R361). -/
def State.stackFailed (s : State) (p : Place) (e : DWord) : Bool :=
  match p with
  | .loc _ => s.dieFailed (e.extractLsb' 10 2).toNat
  | _ => false

/-- Translates one access. -/
def State.translate (s : State) (core : Option Nat) (ctx : Nat) (va : DWord) (k : AKind) (engine : Bool) : Xl × State :=
  match s.lookup core ctx va with
  | (none, s) => (.xlat, s)
  | (some (.bad l), s) =>
    let (r, s) := s.fault ctx (vpn va) (kindOf k engine) l
    (.park r, s)
  | (some (.leaf e), s) =>
    if !permits e.pte k then (.perm, s)
    else
      let p := s.place (e.pa va)
      if p = .absent ∨ s.stackFailed p e.pte then (.xlat, s)
      else (.ok p.canon e.pteAddr (e.pte.extractLsb' 10 2).toNat ((e.pte.extractLsb' 8 2).toNat == 1), s)

/-- Translates without a record: a prefetch skips what does not translate (10 R179, 13 R231). -/
def State.probe (s : State) (core : Option Nat) (ctx : Nat) (va : DWord) : Xl × State :=
  match s.lookup core ctx va with
  | (some (.leaf e), s) =>
    let p := s.place (e.pa va)
    if p = .absent ∨ s.stackFailed p e.pte then (.xlat, s)
    else (.ok p.canon e.pteAddr (e.pte.extractLsb' 10 2).toNat ((e.pte.extractLsb' 8 2).toNat == 1), s)
  | (_, s) => (.xlat, s)

/-- Translates every page of a range of bytes, in ascending order; the first failure stops (a record, or a fault with
its address). -/
def State.translateAll (s : State) (core : Option Nat) (ctx : Nat) (k : AKind) (engine : Bool) :
    List (DWord × Nat) → (Except (Xl × DWord) (List (Nat × Nat × Nat × Nat × Bool))) × State
  | [] => (.ok [], s)
  | (va, n) :: r =>
    match s.translate core ctx va k engine with
    | (.ok pa pte hd ho, s) =>
      match State.translateAll s core ctx k engine r with
      | (.ok l, s) => (.ok ((pa, n, pte, hd, ho) :: l), s)
      | (.error e, s) => (.error e, s)
    | (x, s) => (.error (x, va), s)

/-- A range of virtual addresses cut at page boundaries. -/
def pagesOf (fuel : Nat) (va n : Nat) : List (DWord × Nat) :=
  match fuel with
  | 0 => []
  | f + 1 =>
    if n = 0 then []
    else
      let here := Nat.min n (4096 - va % 4096)
      (BitVec.ofNat 64 va, here) :: pagesOf f (va + here) (n - here)
def pieces (va n : Nat) : List (DWord × Nat) := pagesOf (n / 4096 + 2) va n

end Sys2Proof.Machine
end

