-- ==== Sys2Proof/Machine/Record.lean ====
section
/-! DEFINITION. The launch record of a crop and what it says of its stooks: grid, sheaves, ricks, bins, the curve order
of deterministic crops (17 R289, R290, R295; 18 R305). -/
namespace Sys2Proof.Machine

open Sys2Proof

def Crop.field (c : Crop) (off n : Nat) : Nat := fieldNat c.record off n
/-- Bits `lo` and up, `n` of them, of a number. -/
def bitsOf (x lo n : Nat) : Nat := x / 2 ^ lo % 2 ^ n
/-- The context of a queue (17 Table 17.2). -/
def LQueue.ctx (q : LQueue) : Nat := bitsOf q.ctl.toNat 16 12
/-- The function of a context: that of the queue that names the context (20 R341, DEDUCED, log 114). -/
def State.fnOfCtx (s : State) (ctx : Nat) : Nat := ((List.find? (fun (q : Nat × LQueue) => q.2.ctx == ctx) s.queues).map (·.2.fn)).getD 0

/-! ### Records as bytes -/

def recShape (r : List Byte) : Nat := fieldNat r 0x1C 4
def recGx (r : List Byte) : Nat := fieldNat r 0x10 4
def recGy (r : List Byte) : Nat := fieldNat r 0x14 4
def recGz (r : List Byte) : Nat := fieldNat r 0x18 4
def recStooks (r : List Byte) : Nat := recGx r * recGy r * recGz r
def recPrio (r : List Byte) : Nat := bitsOf (recShape r) 24 3
def recRelaunch (r : List Byte) : Bool := bitsOf (recShape r) 21 1 == 1
def recMerge (r : List Byte) : Bool := bitsOf (recShape r) 20 1 == 1
def recDet (r : List Byte) : Bool := bitsOf (recShape r) 19 1 == 1
def recPair (r : List Byte) : Bool := bitsOf (recShape r) 18 1 == 1
def recRickCode (r : List Byte) : Nat := bitsOf (recShape r) 16 2
/-- Stooks of a full rick. -/
def recRick (r : List Byte) : Nat := if recRickCode r = 0 then 1 else if recRickCode r = 1 then 2 else 4
def recNroles (r : List Byte) : Nat := bitsOf (recShape r) 12 3
def recRole (r : List Byte) (k : Nat) : Nat := fieldNat r (0x20 + 4 * k) 4
def widthOf (code : Nat) : Nat := 8 * 2 ^ code
def recBinW (r : List Byte) : Nat := fieldNat r 0x30 1
def recBinA (r : List Byte) : Nat := fieldNat r 0x31 1
def recBinC (r : List Byte) : Nat := fieldNat r 0x32 1
def recEvent (r : List Byte) : Nat := fieldNat r 0x34 4
def recRanges (r : List Byte) : Nat := fieldNat r 0x38 8
def recChBase (r : List Byte) : Nat := fieldNat r 0x40 8
def recChLimit (r : List Byte) : Nat := fieldNat r 0x48 8
def recDep (r : List Byte) (k : Nat) : Nat := fieldNat r (0x50 + 8 * k) 8
def recDone (r : List Byte) : Nat := fieldNat r 0x70 8

/-- Role, width and budget of each sheaf of a stook in order of sr.sheaf (17 R290). -/
def recSheaves (r : List Byte) : List (Nat × Nat × Nat) :=
  let sh := recShape r
  if recNroles r = 0 then
    List.replicate (bitsOf sh 2 5 + 1) (0, widthOf (bitsOf sh 0 2), 8 * bitsOf sh 7 4)
  else
    (List.range (recNroles r)).flatMap (fun k =>
      let w := recRole r k
      List.replicate (bitsOf w 0 5) (k, widthOf (bitsOf w 8 2), 8 * bitsOf w 12 4))

/-- Lanes of a stook. -/
def recLanes (r : List Byte) : Nat := (recSheaves r).foldl (fun n x => n + x.2.1) 0
/-- Bytes of a lane region (08 R135). -/
def recChRegion (r : List Byte) : Nat :=
  let n := recStooks r * recLanes r
  if n = 0 then 0 else (recChLimit r - recChBase r) / (64 * n) * 64

/-! ### Ricks and the curve (17 R295, 18 R305) -/

/-- Grid coordinates of a linear index. -/
def coordOf (r : List Byte) (l : Nat) : Nat × Nat × Nat :=
  (l % recGx r, l / recGx r % recGy r, l / (recGx r * recGy r))
def linearOf (r : List Byte) (x y z : Nat) : Nat := x + recGx r * (y + recGy r * z)

/-- Extents of a rick in the stook grid of a deterministic crop. -/
def detExt (r : List Byte) : Nat × Nat :=
  if recRickCode r = 0 then (1, 1) else if recRickCode r = 1 then (2, 1)
  else if recGy r = 1 then (4, 1) else (2, 2)
def ceilDiv (a b : Nat) : Nat := (a + b - 1) / b
/-- Extents of the grid of ricks. -/
def detGrid (r : List Byte) : Nat × Nat := (ceilDiv (recGx r) (detExt r).1, ceilDiv (recGy r) (detExt r).2)

/-- The least power of two that is at least `m`. -/
def pow2At : Nat → Nat → Nat → Nat
  | 0, n, _ => n
  | f + 1, n, m => if m ≤ n then n else pow2At f (2 * n) m

/-- h(u, w), the Hilbert index in a square of side n: the loop of 18 R305, s halving. -/
def hilbertGo (n : Nat) : Nat → Nat → Nat → Nat → Nat → Nat
  | 0, _, _, _, d => d
  | f + 1, s, u, w, d =>
    if s = 0 then d
    else
      let a := if Nat.land u s ≠ 0 then 1 else 0
      let b := if Nat.land w s ≠ 0 then 1 else 0
      let d := d + s * s * (Nat.xor (3 * a) b)
      if b = 0 then
        if a = 1 then hilbertGo n f (s / 2) (n - 1 - w) (n - 1 - u) d else hilbertGo n f (s / 2) w u d
      else hilbertGo n f (s / 2) u w d
def hilbert (n u w : Nat) : Nat := hilbertGo n 20 (n / 2) u w 0

/-- Insertion of a cell in a list ordered by its key. -/
def insertKey (k : Nat) (c : Nat × Nat) : List (Nat × Nat × Nat) → List (Nat × Nat × Nat)
  | [] => [(k, c)]
  | (k', c') :: t => if k < k' then (k, c) :: (k', c') :: t else (k', c') :: insertKey k c t

/-- The cells of one plane of the grid of ricks, in curve order. -/
def curveCells (r : List Byte) : List (Nat × Nat) :=
  let (rx, ry) := detGrid r
  let n := pow2At 20 1 (Nat.max rx ry)
  let cells := (List.range ry).flatMap (fun w => (List.range rx).map (fun u => (u, w)))
  (cells.foldl (fun l c => insertKey (hilbert n c.1 c.2) c l) []).map (·.2)

/-- The stooks of a rick as linear indices in rank order, those outside the grid left out. -/
def rickStooks (r : List Byte) (rick : Nat) : List Nat :=
  if recDet r then
    let cells := curveCells r
    let per := cells.length
    if per = 0 then []
    else
      let z := rick / per
      let (u, w) := cells.getD (rick % per) (0, 0)
      let (ex, ey) := detExt r
      if recGz r ≤ z then []
      else (List.range ey).flatMap (fun j => (List.range ex).filterMap (fun i =>
        let x := ex * u + i
        let y := ey * w + j
        if x < recGx r ∧ y < recGy r then some (linearOf r x y z) else none))
  else (List.range (recRick r)).filterMap (fun k =>
    if recRick r * rick + k < recStooks r then some (recRick r * rick + k) else none)

/-- Number of ricks of a crop. -/
def rickCount (r : List Byte) : Nat :=
  if recDet r then (detGrid r).1 * (detGrid r).2 * recGz r else ceilDiv (recStooks r) (recRick r)

/-- Whether a position has a stook. A stook's position is its rick's number times the rick size, plus its rank; outside
deterministic mode that is its linear index (DEDUCED). -/
def posExists (r : List Byte) (p : Nat) : Bool := decide (p % recRick r < (rickStooks r (p / recRick r)).length)

/-! ### A crop's state -/

def Crop.det (c : Crop) : Bool := recDet c.record
def Crop.total (c : Crop) : Nat := recStooks c.record
def Crop.lastPos (c : Crop) : Nat := rickCount c.record * recRick c.record

/-- The token's next place: the next position that has a stook not retired, from the last to the first of the next
round (18 R309); where none is left it stays. -/
def Crop.tokenFrom (c : Crop) : Nat → Nat → Nat → Crop
  | 0, _, _ => c
  | f + 1, p, rd =>
    let p' := if p + 1 < c.lastPos then p + 1 else 0
    let rd' := if p + 1 < c.lastPos then rd else rd + 1
    if posExists c.record p' && !c.retired.contains p' then { c with tokPos := p', tokRound := rd' }
    else Crop.tokenFrom c f p' rd'
def Crop.moveToken (c : Crop) : Crop := c.tokenFrom c.lastPos c.tokPos c.tokRound

/-- A stook holds the token: it stands at the token's position, or redoes a round that it completed before its rick
was killed and placed again (18 R309, R313). -/
def Stook.holdsToken (k : Stook) (c : Crop) : Bool :=
  !k.trapStook && (decide (k.pos = c.tokPos) || decide (k.round < k.redo))

/-- Whether a byte range lies in a stook's write ranges (18 R307). -/
def Stook.inRanges (k : Stook) (va n : Nat) : Bool :=
  (List.range n).all (fun i => k.ranges.any (fun r => decide (r.base ≤ va + i ∧ va + i < r.base + r.len)))

/-- A store of Table 18.2 that a stook may not perform: it raises WRANGE. -/
def Stook.storeRefused (k : Stook) (c : Crop) (va n : Nat) : Bool :=
  c.det && !recMerge c.record && !k.trapStook && !k.holdsToken c && !k.inRanges va n
/-- The same of an atomic, an FST or an RGNB. -/
def Stook.atomicRefused (k : Stook) (c : Crop) : Bool := c.det && !k.trapStook && !k.holdsToken c

end Sys2Proof.Machine
end

