-- ==== Sys2Proof/Machine/Ops.lean ====
section
/-! DEFINITION. The named operations over the state that instructions and steps share: bins, tags, ownership of the
thresher, acquires and releases, writes into an L1, taking a trap and ending one, the kill of a stook. -/
namespace Sys2Proof

/-- The new value of an atomic operation on a word of a size in bits (Table 9.5). -/
def AtomOp.apply (o : AtomOp) (bits : Nat) (old v : Nat) : Nat :=
  let sgn (x : Nat) : Int := if x < 2 ^ (bits - 1) then (x : Int) else (x : Int) - 2 ^ bits
  match o with
  | .add => (old + v) % 2 ^ bits
  | .sub => (old + 2 ^ bits - v) % 2 ^ bits
  | .minS => if sgn v < sgn old then v else old
  | .maxS => if sgn old < sgn v then v else old
  | .minZ => Nat.min old v
  | .maxZ => Nat.max old v
  | .and => Nat.land old v
  | .or => Nat.lor old v
  | .xor => Nat.xor old v
  | .exch => v
  | .incw => if v ≤ old then 0 else old + 1
  | .decw => if old = 0 ∨ v < old then v else old - 1
  | .addF32 => (Num.f32.addVal .rn (Num.f32.val old) (Num.f32.val v))

/-- The operation by which a gather copy takes a contribution, and by which the home takes the copy: SUB adds negated
operands. -/
def AtomOp.gatherOp : AtomOp → AtomOp
  | .sub => .add
  | o => o
def AtomOp.contribution (o : AtomOp) (bits v : Nat) : Nat :=
  match o with
  | .sub => (2 ^ bits - v) % 2 ^ bits
  | _ => v
/-- The identity of an operation (13 R239). -/
def AtomOp.identity (o : AtomOp) (bits : Nat) : Nat :=
  match o with
  | .and | .minZ => 2 ^ bits - 1
  | .minS => 2 ^ (bits - 1) - 1
  | .maxS => 2 ^ (bits - 1)
  | .addF32 => 0x80000000
  | _ => 0
end Sys2Proof

namespace Sys2Proof.Machine

open Sys2Proof

/-! ### A sheaf's surroundings -/

def State.stookOf (s : State) (sh : Sheaf) : Option Stook := s.stook? sh.uid
def State.cropOf (s : State) (k : Stook) : Option Crop := s.crop? k.crop
/-- Sheaves resident on a core, older first. -/
def insertAge (x : Nat × Sheaf) : List (Nat × Sheaf) → List (Nat × Sheaf)
  | [] => [x]
  | y :: t => if x.2.age < y.2.age then x :: y :: t else y :: insertAge x t
def State.residents (s : State) (core : Nat) : List (Nat × Sheaf) :=
  (s.sheaves.filter (fun e => e.2.core = core)).foldl (fun l e => insertAge e l) []
/-- The sheaves of a stook that are resident, in order of sr.sheaf. -/
def State.sheavesOf (s : State) (k : Stook) : List (Nat × Sheaf) :=
  k.sheaves.filterMap (fun sid => (s.sheaf? sid).map (fun sh => (sid, sh)))
/-- The stooks of a stook's rick, itself among them. -/
def State.rickOf (s : State) (k : Stook) : List (Nat × Stook) :=
  s.stooks.filter (fun e => decide (e.2.crop = k.crop ∧ e.2.rick = k.rick) && !e.2.trapStook)
/-- The program counters of a set of lanes as bits of each lane's register. -/
def Sheaf.laneSetWhere (sh : Sheaf) (f : Nat → Lane → Bool) : LaneSet :=
  laneSetOf sh.width (fun i => f i (sh.lane i))
/-- Changes one flight of a sheaf. -/
def Sheaf.modFlight (sh : Sheaf) (id : Nat) (f : Flight → Flight) : Sheaf :=
  { sh with flights := sh.flights.map (fun x => if x.id = id then f x else x) }
def Sheaf.dropFlight (sh : Sheaf) (id : Nat) : Sheaf :=
  { sh with flights := sh.flights.filter (fun x => x.id != id) }
def Sheaf.flight? (sh : Sheaf) (id : Nat) : Option Flight := List.find? (fun x => x.id == id) sh.flights

/-! ### Bins (09 R153 to R157) -/

inductive BinId where
  | w | a | c
  deriving DecidableEq, Repr
def Stook.bin (k : Stook) : BinId → KV Byte
  | .w => k.binW | .a => k.binA | .c => k.binC
def Stook.setBin (k : Stook) (b : BinId) (v : KV Byte) : Stook :=
  match b with
  | .w => { k with binW := v } | .a => { k with binA := v } | .c => { k with binC := v }
def Stook.binLen (k : Stook) : BinId → Nat
  | .w => 4096 * k.wUnits | .a => 4096 * k.aUnits | .c => 4096 * k.cUnits

def binMember (addr : Nat) : Nat := addr / 2 ^ 24 % 4
def binOffset (addr : Nat) : Nat := addr % 2 ^ 24
def binZero (addr : Nat) : Bool := decide (addr / 2 ^ 26 % 64 = 0)
/-- The stook and the offset that a lane's bin address names for n bytes, or none where R155 raises BINB. The rick size
is the number of stooks of the rick; a member that has retired has no allotment (DEDUCED). -/
def State.binPlace (s : State) (k : Stook) (uid : Nat) (b : BinId) (addr n : Nat) : Option (Nat × Nat) :=
  if !binZero addr || decide (k.rickSize ≤ binMember addr) then none
  else
    let rank := (k.rank + binMember addr) % k.rickSize
    let target := if binMember addr = 0 then some (uid, k)
      else List.find? (fun e => e.2.rank == rank) (s.rickOf k)
    match target with
    | some (u, t) => if binOffset addr + n ≤ t.binLen b then some (u, binOffset addr) else none
    | none => none
/-- The core whose bin holds an offset of an allotment: the odd one of a pair for the upper part (09 R154). -/
def Stook.binCore (k : Stook) (b : BinId) (off : Nat) : Nat :=
  if k.cores.length = 2 ∧ (k.binLen b / 4096 + 1) / 2 * 4096 ≤ off then k.cores.getD 1 0 else k.cores.headD 0
def BinId.code : BinId → Nat
  | .w => 0 | .a => 1 | .c => 2
/-- The lane ports that accesses of n bytes take, and for how many cycles: the most distinct words that fall in one bank, of the
64 of any core's bin, for every bin touched (09 R152). Targets are stook and offset. -/
def State.portCycles (s : State) (b : BinId) (ts : List (Nat × Nat)) (n : Nat) : List (Nat × Nat) :=
  let ws := (ts.flatMap (fun t => (wordsOf t.2 n).map (fun w => (((s.stook? t.1).map (fun k => k.binCore b t.2)).getD 0, t.1, w)))).eraseDups
  let cores := (ws.map (·.1)).eraseDups
  let k := cores.foldl (fun m c =>
    (List.range 64).foldl (fun m bank => Nat.max m (ws.filter (fun w => w.1 == c && w.2.2 % 64 == bank)).length) m) 1
  cores.map (fun c => (c, k))
def State.portsBusy (s : State) (b : BinId) (ts : List (Nat × Nat)) (n : Nat) : Bool :=
  (s.portCycles b ts n).any (fun p => decide (s.clock < (s.core p.1).ports.getD b.code 0))
def State.usePorts (s : State) (b : BinId) (ts : List (Nat × Nat)) (n : Nat) : State :=
  (s.portCycles b ts n).foldl (fun s p => s.setCore p.1 { s.core p.1 with ports := (s.core p.1).ports.put b.code (s.clock + p.2) }) s
def Stook.binRead (k : Stook) (b : BinId) (off n : Nat) : List Byte := memRead (k.bin b) off n
def Stook.binWrite (k : Stook) (b : BinId) (off : Nat) (bs : List Byte) : Stook := k.setBin b (memWrite (k.bin b) off bs)

/-- FBWAIT lanes on a barrier word that has just been written: those whose phase matches are released (09 R167). The
wait is an access of the flight whose `pte` names the barrier's stook and whose `data` is the awaited phase. -/
def Flight.fbTest (f : Flight) (uid off : Nat) (phase : Nat) : Flight :=
  match f.instr with
  | .fbwait .. =>
    { f with ready := f.accs.foldl (fun m a =>
        if a.pte = uid ∧ a.pa = off ∧ natOfBytes a.data % 2 = phase then m ||| laneBit a.lane else m) f.ready }
  | _ => f
/-- A write to a bin; a write to an A-bin re-evaluates the waits on its barrier words. -/
def State.binWrite (s : State) (uid : Nat) (b : BinId) (off : Nat) (bs : List Byte) : State :=
  let s := s.modStook uid (fun k => k.binWrite b off bs)
  match b, s.stook? uid with
  | .a, some k =>
    (List.range ((off + bs.length + 7) / 8 - off / 8)).foldl (fun s i =>
      let w := (off / 8 + i) * 8
      let phase := natOfBytes (k.binRead .a (w + 4) 1) % 2
      { s with sheaves := s.sheaves.map (fun e =>
          (e.1, { e.2 with flights := e.2.flights.map (fun f => f.fbTest uid w phase) })) }) s
  | _, _ => s

/-! ### Tags (10 R169 to R171) -/

def Core.tag (c : Core) (t : Nat) : Tag := c.tags.getD t .idle
def Core.setTag (c : Core) (t : Nat) (v : Tag) : Core := { c with tags := c.tags.put t v }
/-- A tag as a stook sees it: one held by another reads as IDLE with an empty record. -/
def Core.tagSeen (c : Core) (uid t : Nat) : Tag := if (c.tag t).holder = some uid then c.tag t else .idle
/-- Whether an operation may name a tag: neither BUSY nor held by another stook. -/
def Core.tagFree (c : Core) (uid t : Nat) : Bool :=
  (c.tag t).st != .busy && (decide ((c.tag t).holder = some uid) || (c.tag t).holder == none)
def State.tagBusy (s : State) (core uid t kind : Nat) : State :=
  s.setCore core ((s.core core).setTag t ⟨.busy, some uid, kind, 0, 0⟩)
/-- Completion: READY, with count and cause. A tag whose stook has no sheaf left returns to IDLE (10 R171). -/
def State.tagReady (s : State) (core uid t kind cause count : Nat) : State :=
  let gone := match s.stook? uid with
    | some k => (s.sheavesOf k).isEmpty
    | none => true
  if ((s.stook? uid).map (·.parked)).getD false then
    s.modStook uid (fun k => { k with saved := k.saved.put (64 * k.cores.findIdx (· == core) + t) ⟨.ready, some uid, kind, cause, count⟩ })
  else s.setCore core ((s.core core).setTag t (if gone then .idle else ⟨.ready, some uid, kind, cause, count⟩))
/-- The status word (Table 10.1). -/
def Tag.word (t : Tag) : Word :=
  let st := match t.st with | .idle => 0 | .busy => 1 | .ready => 2
  BitVec.ofNat 32 (t.kind * 4096 + t.cause * 256 + (if t.cause = 0 then 0 else 4) + st)
/-- The tags of a state that a stook holds, as a set of 64. -/
def Core.tagsIn (c : Core) (uid : Nat) (st : TagState) : BitVec 64 :=
  laneSetOf 64 (fun t => (c.tagSeen uid t).st == st)

/-! ### Acquires (12 R216, 14 R249) -/

/-- Word addresses of peer devices' memory (20 Table 20.2). -/
def isPeerWord (wa : Nat) : Bool := decide (2 ^ 51 ≤ 4 * wa ∧ 4 * wa < 3 * 2 ^ 50)
/-- INVA of a scope in a barn: unowned words outside phases are dropped (12 R228). -/
def Barn.inva (b : Barn) (sc : Scope) : Barn :=
  match sc with
  | .sh | .st | .bn => b
  | .di | .pk => { b with words := b.words.filter (fun e => e.2.owned || e.2.phase != [] || isPeerWord e.1) }
  | .sy => { b with words := b.words.filter (fun e => e.2.owned || e.2.phase != []) }
def State.inva (s : State) (barn : Nat) (sc : Scope) : State := s.setBarn barn ((s.barn barn).inva sc)
/-- An acquire by lanes of a sheaf: the invalidation for the widest of the scope and the lanes' pending classes, which
are cleared. -/
def State.acquire (s : State) (sid : Nat) (m : LaneSet) (sc : Scope) : State :=
  match s.sheaf? sid with
  | none => s
  | some sh =>
    let k := (lanesOf m).foldl (fun k i => k.max (sh.lane i).pend) sc
    (s.inva (barnOf sh.core) k).setSheaf sid (sh.modLanes m (fun _ l => { l with pend := .sh }))
/-! ### Peers and the host (12 R222, R224, 20 R343, R345) -/

def peerOf (pa : Nat) : Nat := (pa - 2 ^ 51) / 2 ^ 41
def State.hasRoute (s : State) (dev : Nat) : Bool := s.fabric.routes.contains dev
def isPeer (pa : Nat) : Bool := decide (2 ^ 51 ≤ pa ∧ pa < 3 * 2 ^ 50)
def isHost (pa : Nat) : Bool := decide (3 * 2 ^ 50 ≤ pa)
/-- A peer that cannot be reached: no route, and no recomputation to wait for. -/
def State.peerGone (s : State) (pa : Nat) : Bool := isPeer pa && !s.hasRoute (peerOf pa) && !s.fabric.recompute
/-- The half of a line that an address lies in. -/
def halfOf (pa : Nat) : Nat := pa / 64 % 2
/-- Addresses of the halves that some bytes lie in. -/
def halvesOf (pa n : Nat) : List Nat := if n = 0 then [] else (List.range ((pa + n - 1) / 64 - pa / 64 + 1)).map (fun i => 64 * (pa / 64 + i))
/-- Whether the host holds the half of an access, at all or possibly modified (12 R224). -/
def State.hostHolds (s : State) (pa : Nat) : Bool := (s.home (pa / 128)).held.getLsbD (halfOf pa)
def State.hostMod (s : State) (pa : Nat) : Bool := (s.home (pa / 128)).heldMod.getLsbD (halfOf pa)

/-- The bytes of a store that fall in one word: mask and bytes in place. -/
def wordPart (pa : Nat) (bs : List Byte) (wa : Nat) : BitVec 4 × Word :=
  (List.range 4).foldl (fun (acc : BitVec 4 × Word) k =>
    let a := 4 * wa + k
    if pa ≤ a ∧ a < pa + bs.length then
      (acc.1 ||| BitVec.ofNat 4 (2 ^ k), acc.2 ||| (((bs.getD (a - pa) 0).zeroExtend 32) <<< (8 * k)))
    else acc) (0, 0)
/-- A valid copy of a word that its barn neither owns nor holds in phase. -/
def L1Word.copy (x : L1Word) : Bool := !x.owned && x.phase == [] && x.valid
/-- A write of the barn to a peer's line passes through the L1: it updates any valid copy (12 R222), and a read under way
for these bytes installs nothing, as its value may be older. -/
def State.peerUpdate (s : State) (b pa : Nat) (bs : List Byte) : State :=
  let bn := s.barn b
  let step (w : KV L1Word) (wa : Nat) : KV L1Word :=
    match w.find? wa with
    | some x => if x.copy then w.put wa { x with bytes := mergeWord x.bytes (wordPart pa bs wa).2 (wordPart pa bs wa).1 } else w
    | none => w
  let s := s.setBarn b { bn with words := (wordsOf pa bs.length).foldl step bn.words }
  let hit (a n : Nat) : Bool := decide (a < pa + bs.length ∧ pa < a + n)
  { s with msgs := s.msgs.map (fun (e : Nat × MsgEnt) => (e.1, { e.2 with msg := match e.2.msg with
    | .peer b' sid f k a n none acq fr => .peer b' sid f k a n none acq (fr && !(b' == b && hit a n))
    | .pfl b' line ctx pte hd fr => .pfl b' line ctx pte hd (fr && !(b' == b && hit (128 * line) 128))
    | m => m })) }

/-! ### Reductions gathered in an L1 (13 R239) -/

/-- The reply of an update at the home brings the issuing barn's valid copy of the word up to date: no copy is dropped
(13 R232), and a later load of the lane returns nothing older (12 R226, 14 R245; log 74). The copy keeps the wider of its
class and that of the line's writer before the update. -/
def State.freshenCopy (s : State) (b wa : Nat) (cls : Scope) : State :=
  let bn := s.barn b
  match bn.words.find? wa with
  | some x => if x.copy then s.setBarn b { bn with words := bn.words.put wa { x with bytes := s.homeWord wa, cls := x.cls.max cls } } else s
  | none => s
/-- A write performed at the home for a barn: the word leaves its owner first, the barn is the last writer, the page is
marked, watchers follow (13 R232). -/
def State.homeStore (s : State) (pa : Nat) (bs : List Byte) (w : Writer) (ctx pte hd : Nat) : State :=
  let prev := (s.home (pa / 128)).last
  let s := s.homeWrite pa bs w
  let s := match w with
    | .barn b => (wordsOf pa bs.length).foldl (fun (s : State) wa => s.freshenCopy b wa ((writerClass prev b).getD .bn)) s
    | _ => s
  s.dirtyMark ctx pte pa hd
/-- An update of an atomic or of a gather copy: it leaves an owner-lost mark that it has not reported (12 R221). -/
def State.homeUpdate (s : State) (pa : Nat) (bs : List Byte) (w : Writer) (ctx pte hd : Nat) : State :=
  let lost := (wordsOf pa bs.length).filter (fun wa => s.isLost wa)
  lost.foldl (fun s wa =>
    let h := s.home (lineOf wa)
    s.setHome (lineOf wa) { h with lost := h.lost ||| wordBit wa }) (s.homeStore pa bs w ctx pte hd)

/-- What a gather copy waits for before it is published: that the host holds the half no more (12 R224), and that the home has
recorded the barn's own earlier writes of its words (14 R245, R246). -/
def State.copyWaits (s : State) (b addr n : Nat) : Bool :=
  s.hostHolds addr || (wordsOf addr n).any (fun wa => s.unrecorded b wa)
/-- The home combines a gather copy into its word (13 R239), unless it has to wait. -/
def State.publish (s : State) (b addr : Nat) : State :=
  let bn := s.barn b
  match bn.gather.find? addr with
  | none => s
  | some g =>
    if s.copyWaits b addr g.size.bytes then s
    else
      let n := g.size.bytes
      let old := natOfBytes (s.cohRead addr n)
      let new := g.op.gatherOp.apply (8 * n) old g.value.toNat
      let s := s.setBarn b { bn with gather := bn.gather.erase addr }
      s.homeUpdate addr (bytesOf n new) (.barn b) g.ctx g.pte g.hd
/-- A release by a lane of the barn publishes every copy whose scope it covers. -/
def State.publishUpTo (s : State) (b : Nat) (sc : Scope) : State :=
  ((s.barn b).gather.filter (fun e => e.2.scope.code ≤ sc.code)).foldl (fun s e => s.publish b e.1) s
/-- Copies whose word overlaps bytes that another access of the barn reaches are published first. -/
def State.publishAt (s : State) (b pa n : Nat) : State :=
  ((s.barn b).gather.filter (fun e => decide (e.1 < pa + n ∧ pa < e.1 + e.2.size.bytes))).foldl
    (fun s e => s.publish b e.1) s
/-- A copy over some bytes that is still held back. -/
def State.gatherStuck (s : State) (b pa n : Nat) : Bool :=
  (s.barn b).gather.any (fun e => decide (e.1 < pa + n ∧ pa < e.1 + e.2.size.bytes) && s.copyWaits b e.1 e.2.size.bytes)
/-- Copies that a release of a scope publishes and that are still held back: the release waits (13 R239). -/
def State.gatherHeld (s : State) (b : Nat) (sc : Scope) : Bool :=
  (s.barn b).gather.any (fun e => decide (e.2.scope.code ≤ sc.code) && s.copyWaits b e.1 e.2.size.bytes)

/-! ### The lines of an L1 (12 R207, R219) -/

/-- The set of a slice that a line falls in: slice a[8:7], then the 128 sets of its 131,072 bytes, 8 ways of 128 bytes.
Which address bits name the set is not given; DESIGN CHOICE (log 112): the seven above the slice. -/
def setOf (line : Nat) : Nat := line % 512
/-- The lines that a barn's L1 holds, those of gather copies among them. -/
def Barn.linesOf (b : Barn) : List Nat :=
  let add (l : List Nat) (x : Nat) : List Nat := if l.contains x then l else l ++ [x]
  b.gather.foldl (fun l g => add l (g.1 / 128)) (b.words.foldl (fun l w => add l (w.1 / 32)) [])
def Barn.holdsLine (b : Barn) (line : Nat) : Bool := b.linesOf.contains line
/-- Lines of an eviction buffer, 16 of each slice. -/
def Barn.bufferFull (b : Barn) (line : Nat) : Bool := decide (16 ≤ (b.evict.filter (fun e => e.line % 4 == line % 4)).length)
/-- A phase word that is evicted is registered and written back: the home records its bytes, and no owner (12 R229). -/
def State.writePhase (s : State) (b wa : Nat) (x : L1Word) : State :=
  let s := (s.recallWord wa).clearLost wa
  let s := s.setHomeWord wa (mergeWord (s.homeWord wa) x.bytes x.written)
  let s := s.setHome (lineOf wa) { s.home (lineOf wa) with last := some (.barn b) }
  (s.dirtyMark x.ctx x.pte (4 * wa) x.hd).notify wa
/-- Phase words of some bytes leave their phase for the home, as at an eviction (12 R229), before an atomic, a reduction or a
wait of the barn reaches the word: the lane's earlier write of the word comes first (12 R226, 14 R245; DESIGN CHOICE,
log 123). -/
def State.phaseBack (s : State) (b pa n : Nat) : State :=
  (wordsOf pa n).foldl (fun s wa => match (s.barn b).words.find? wa with
    | some x =>
      if x.phase = [] ∨ x.owned = true then s
      else
        let s := s.writePhase b wa x
        let bn := s.barn b
        s.setBarn b { bn with words := bn.words.put wa { x with phase := [], valid := true, bytes := s.homeWord wa, written := 0, log := [] } }
    | none => s) s
/-- Whether some bytes have phase words of a barn in a half that the host holds: they wait for it (12 R224). -/
def State.phaseHeld (s : State) (b pa n : Nat) : Bool :=
  s.hostHolds pa && (wordsOf pa n).any (fun wa => match (s.barn b).words.find? wa with
    | some x => x.phase != []
    | none => false)
/-- Whether an L1 can evict a line now: its eviction buffer is not full, and neither the host nor a registration under way
holds a word of it. -/
def State.canEvict (s : State) (b line : Nat) : Bool :=
  let bn := s.barn b
  let words := bn.words.filter (fun e => lineOf e.1 == line)
  let held := (s.home line).held != 0 && (words.any (fun e => e.2.phase != []) || bn.gather.any (fun e => e.1 / 128 == line))
  !held && !bn.bufferFull line && !words.any (fun e => (s.pendingReg b e.1).isSome)
/-- An L1 evicts a line: gather copies are published, phase words written back, owned words go to the eviction buffer;
other words are dropped. -/
def State.evictLine (s : State) (b line : Nat) : State :=
  let bn := s.barn b
  let words := bn.words.filter (fun e => lineOf e.1 == line)
  let owned := words.filter (fun e => e.2.owned)
  let s := (bn.gather.filter (fun e => e.1 / 128 == line)).foldl (fun s e => s.publish b e.1) s
  let s := (words.filter (fun e => e.2.phase != [])).foldl (fun s e => s.writePhase b e.1 e.2) s
  let bn := s.barn b
  let s := s.setBarn b { bn with words := bn.words.filter (fun e => lineOf e.1 != line) }
  if owned.isEmpty then s
  else
    let (m, s) := s.addMsg (.wb b line) []
    let bn := s.barn b
    s.setBarn b { bn with evict := bn.evict ++ [⟨line, owned, m⟩] }
/-- The lines of a set that could make way for a line: none where the set has a way free. -/
def State.victims (s : State) (b line : Nat) : List Nat :=
  (((s.barn b).linesOf.filter (fun l => setOf l == setOf line))).filter (fun l => s.canEvict b l)
def Barn.setFull (b : Barn) (line : Nat) : Bool :=
  !b.holdsLine line && decide (8 ≤ (b.linesOf.filter (fun l => setOf l == setOf line)).length)
/-- Whether a miss has a way, or a line that makes way; otherwise it waits (12 R219). -/
def State.roomFor (s : State) (b line : Nat) : Bool := !(s.barn b).setFull line || !(s.victims b line).isEmpty
/-- A line gets a way: in a full set a victim, which the L1 chooses as it likes, is evicted. -/
def State.makeRoom (s : State) (b line : Nat) : State :=
  if (s.barn b).setFull line then
    let l := s.victims b line
    let k := Config.choice s.tick % l.length
    let s := { s with tick := s.tick + 1 }
    match l[k]? with
    | some v => s.evictLine b v
    | none => s
  else s

/-! ### Writes into an L1 (12 R210, R229) -/

/-- The bytes that a phase word was written with, as one write, number 0. -/
def L1Word.phaseLog (x : L1Word) : List (Nat × BitVec 4 × Word) := if x.phase = [] then [] else [(0, x.written, x.bytes)]
/-- The number of a write of some words: above those of the writes that they and their pairs keep (23 R367). -/
def State.writeNo (s : State) (b : Nat) (ws : List Nat) : Nat :=
  (ws.flatMap (fun wa => s.logOf b wa ++ s.logOf b (Nat.xor wa 1))).foldl (fun n e => Nat.max n (e.1 + 1)) 1
/-- One write of a core into its barn's L1, one word: an owned word takes it; a phase word takes it and registers
nothing; another word becomes owned at once, and its registration is due: the answer says so. A copy that was only valid
does not stay valid: bytes that other barns wrote may reach the home first (DEDUCED, log 21). Waiters are the lanes that
the registration's acknowledgement is for. Until the home has recorded it, the word keeps the writes that go with it, by their
numbers (23 R367). -/
def State.l1StoreWord (s : State) (core wa k : Nat) (mask : BitVec 4) (bytes : Word) (ctx pte hd : Nat)
    (phase : List Nat) (sid : Nat) (lanes : LaneSet) : State × Bool :=
  let b := barnOf core
  let s := s.wbFirst b wa
  let bn := s.barn b
  let x : L1Word := (bn.words.find? wa).getD ⟨0, false, false, [], 0, slotOf core, .bn, ctx, pte, hd, []⟩
  let y : L1Word := { x with
    bytes := mergeWord x.bytes bytes mask, writer := slotOf core, cls := .bn, ctx := ctx, pte := pte, hd := hd }
  if x.owned then
    let y := { y with written := x.written ||| mask, valid := x.valid || (x.written ||| mask == 15)
                      log := if s.unrecorded b wa then x.log ++ [(k, mask, bytes)] else [] }
    let s := s.setBarn b { bn with words := bn.words.put wa y }
    (match s.pendingReg b wa with
    | some m =>
      match s.msgs.find? m with
      | some e => { s with msgs := s.msgs.put m { e with waiters := addWaiter e.waiters sid lanes } }
      | none => s
    | none => s, false)
  else if phase ≠ [] then
    let y := { y with phase := x.phase ++ phase.filter (fun p => !x.phase.contains p), written := x.written ||| mask
                      valid := x.valid || (x.written ||| mask == 15), log := [] }
    (s.setBarn b { bn with words := bn.words.put wa y }, false)
  else
    let w := (if x.phase = [] then 0 else x.written) ||| mask
    (s.setBarn b { bn with words := (bn.words.put wa { y with owned := true, phase := [], written := w, valid := w == 15,
                                                                 log := x.phaseLog ++ [(k, mask, bytes)] }) }, true)
/-- Registrations of words that have become owned: those of one aligned 8-byte pair in one message, so that a write of 8
bytes takes its place at once (12 R226). -/
def State.sendRegs (s : State) (b : Nat) (ws : List Nat) (sid : Nat) (lanes : LaneSet) : State :=
  ws.foldl (fun s wa =>
    if wa % 2 = 1 ∧ ws.contains (wa - 1) then s
    else match (s.barn b).words.find? wa with
      | some x => (s.addMsg (.reg b wa (if wa % 2 = 0 ∧ ws.contains (wa + 1) then 2 else 1) x.hd x.ctx x.pte false) [(sid, lanes)]).2
      | none => s) s
/-- Aligned 8-byte pairs that a write covers and of which the barn owns just one word. -/
def State.halfOwned (s : State) (b pa n : Nat) : List Nat :=
  let own (wa : Nat) : Bool := match (s.barn b).words.find? wa with
    | some x => x.owned
    | none => false
  let full (wa : Nat) : Bool := decide (pa ≤ 4 * wa ∧ 4 * wa + 4 ≤ pa + n)
  (wordsOf pa n).filter (fun wa => full wa && full (Nat.xor wa 1) && own wa && !own (Nat.xor wa 1))
/-- What a write into an L1 waits for: a way for its line, the host's half if it registers (12 R224), a registration of
one word of a pair that it writes whole (12 R226). -/
def State.storeWaits (s : State) (b pa n : Nat) (reg : Bool) : Bool :=
  (reg && s.hostHolds pa) || !s.roomFor b (pa / 128) || (s.halfOwned b pa n).any (fun wa => (s.pendingReg b wa).isSome)
/-- A write of bytes of device memory into an L1. The one owned word of a pair that is written whole goes back to its home
first, so that the pair is registered as one. -/
def State.l1Store (s : State) (core pa : Nat) (bs : List Byte) (ctx pte hd : Nat) (phase : List Nat) (sid : Nat)
    (lanes : LaneSet) : State :=
  let b := barnOf core
  let s := (s.halfOwned b pa bs.length).foldl (fun s wa => s.recallWord wa) (s.makeRoom b (pa / 128))
  let k := s.writeNo b (wordsOf pa bs.length)
  let (s, due) := (wordsOf pa bs.length).foldl (fun (acc : State × List Nat) wa =>
    let (m, w) := wordPart pa bs wa
    let (s, reg) := acc.1.l1StoreWord core wa k m w ctx pte hd phase sid lanes
    (s, if reg then acc.2 ++ [wa] else acc.2)) (s, [])
  s.sendRegs b due sid lanes

/-! ### Releases (12 R218) -/

/-- Whether an access of a flight by some lanes is not performed. -/
def accPending (f : Flight) (m : LaneSet) : Bool :=
  f.accs.any (fun a => (match a.st with | .done _ => false | _ => true) &&
    (if a.lane = 64 then f.path &&& m != 0 else m.getLsbD a.lane))
def Sheaf.before (sh : Sheaf) (fid : Nat) : List Flight := sh.flights.filter (fun f => f.id < fid)
/-- Whether the conditions of a release of a scope are met: no write of the lanes unacknowledged, no access of an earlier
flight of the lanes unperformed, no copy that it publishes held back. -/
def State.releaseOpen (s : State) (sid fid : Nat) (m : LaneSet) (sc : Scope) : Bool :=
  match s.sheaf? sid with
  | none => true
  | some sh => !s.gatherHeld (barnOf sh.core) sc && !s.owes sid m && !(sh.before fid).any (fun f => accPending f m)
/-- Failed peer lines that the lanes still have to report (12 R223), each once. -/
def Sheaf.failedLines (sh : Sheaf) (m : LaneSet) : List Nat :=
  ((lanesOf m).flatMap (fun i => (sh.lane i).failed)).foldl (fun l x => if l.contains x then l else l ++ [x]) []
/-- The lanes have reported their failed lines. -/
def State.clearFailed (s : State) (sid : Nat) (m : LaneSet) : State :=
  s.modSheaf sid (fun sh => sh.modLanes m (fun _ l => { l with failed := [] }))

/-! ### Phases (12 R229, R230) -/

/-- Registers the words of some phases in a batch: each becomes owned and its registration is sent. -/
def State.registerPhases (s : State) (core : Nat) (ids : Nat → Bool) (sid : Nat) (lanes : LaneSet) : State :=
  let b := barnOf core
  let mine := (s.barn b).words.filter (fun e => e.2.phase.any ids)
  let s := mine.foldl (fun s e =>
    let bn := s.barn b
    s.setBarn b { bn with words := (bn.words.put e.1 { e.2 with
      phase := [], owned := true, valid := e.2.written == 15, log := e.2.phaseLog }) }) s
  s.sendRegs b (mine.map (·.1)) sid lanes
/-- Closes a sheaf's phases: at an exit as PHEND would. -/
def State.closePhases (s : State) (sid : Nat) : State :=
  match s.sheaf? sid with
  | none => s
  | some sh =>
    let s := s.registerPhases sh.core (fun id => sh.phases.any (fun p => p.id = id)) sid sh.full
    s.modSheaf sid (fun sh => { sh with phases := [] })
/-- The open phases of a sheaf that a virtual address falls in. -/
def Sheaf.phasesAt (sh : Sheaf) (va : Nat) : List Nat :=
  (sh.phases.filter (fun p => decide (p.va.toNat ≤ va ∧ va < p.va.toNat + p.len))).map (·.id)

/-! ### Ownership of the thresher (11 R183 to R186) -/

def State.modMx (s : State) (core : Nat) (f : Thresher → Thresher) : State :=
  s.setCore core { s.core core with mx := f (s.core core).mx }
def State.cropKeyOf (s : State) (sid : Nat) : Option Nat :=
  (s.sheaf? sid).bind (fun sh => (s.stook? sh.uid).map (·.crop))
/-- A grant: the sheaf owns the thresher, the collector is emptied, and where the last user was another crop the
thresher starts to zero itself. -/
def State.mxGrant (s : State) (core sid : Nat) : State :=
  let key := s.cropKeyOf sid
  s.modMx core (fun t => { t with
    owner := some sid, coll := none, waitq := t.waitq.filter (· != sid)
    zeroing := t.zeroing || decide (t.lastUser ≠ key), lastUser := key })
/-- The order of the ownership queue: higher priority first, then the older sheaf (11 R184). -/
def State.mxHead (s : State) (core : Nat) : Option Nat :=
  ((s.core core).mx.waitq.filterMap (fun q => (s.sheaf? q).map (fun sh => (q, sh)))).foldl
    (fun (best : Option (Nat × Sheaf)) e => match best with
      | none => some e
      | some b => if b.2.prio < e.2.prio ∨ (b.2.prio = e.2.prio ∧ e.2.age < b.2.age) then some e else some b) none
    |>.map (·.1)
/-- Ownership ends, and the head of the queue is granted. -/
def State.mxRelease (s : State) (core : Nat) : State :=
  let s := s.modMx core (fun t => { t with owner := none })
  match s.mxHead core with
  | some q => s.mxGrant core q
  | none => s
/-- Whether a sheaf has an operation in its core's queue. -/
def Thresher.uses (t : Thresher) (sid : Nat) : Bool := t.queue.any (fun e => e.sid == sid)
/-- A cancelled DRAIN leaves unspecified the bytes it had not written (11 R185). -/
def State.mxCancelOp (s : State) (e : MxEntry) : State :=
  match e.op with
  | .drain addr pitch ty _ _ =>
    let n := 64 * (if ty = .f32 then 4 else 2)
    ((List.range 64).flatMap (fun r => wordsOf (addr + r * pitch) n)).eraseDups.foldl (fun s w =>
      if (e.cap.find? w).isSome then s
      else
        let (bs, s) := s.freeBytes 4
        s.binWrite e.uid .c (4 * w) bs) s
  | _ => s
/-- A kill takes a sheaf away from its thresher: its operations are cancelled at once and ownership ends. -/
def State.mxKill (s : State) (core sid : Nat) : State :=
  let t := (s.core core).mx
  let s := (t.queue.filter (fun e => e.sid == sid && e.running)).foldl (fun s e => s.mxCancelOp e) s
  let s := s.modMx core (fun t => { t with queue := t.queue.filter (fun e => e.sid != sid)
                                           waitq := t.waitq.filter (· != sid) })
  if t.owner = some sid then s.mxRelease core else s

/-! ### Kill (19 R328, 21 R356) -/

/-- Bytes of memory become unspecified: words of this device's memory leave their owners, a copy in the barn's own L1
follows. What a peer's memory holds is no state of this device. -/
def State.scramblePa (s : State) (b pa n : Nat) : State :=
  let (bs, s) := s.freeBytes n
  if isPeer pa then s
  else if isHost pa then s.memWrite pa bs
  else
    let ws := wordsOf pa n
    let s := (ws.foldl (fun s wa => s.recallWord wa) s).memWrite pa bs
    ws.foldl (fun s wa => (s.freshenCopy b wa .bn).notify wa) s
/-- Destination bytes that an operation has not written become unspecified, where they translate (10 R171, R178). -/
def State.scrambleRange (s : State) (core ctx va n : Nat) : State :=
  (pieces va n).foldl (fun s p =>
    match s.probe (some core) ctx p.1 with
    | (.ok pa _ _ _, s) => s.scramblePa (barnOf core) pa p.2
    | (_, s) => s) s

/-! The geometry of a copy (10 R177). Spaces: 0 global, 1 A-bin, 2 W-bin, 3 C-bin, 4 host. -/

def WainOp.tr (o : WainOp) : Nat := if o.kind = 2 then o.w3 / 16 % 4 else 0
def WainOp.inbound (o : WainOp) : Bool := o.w3 % 2 == 1
def WainOp.device (o : WainOp) : Nat := if o.w3 / 2 % 2 = 1 then 1 else 0
def WainOp.srcSpace (o : WainOp) : Nat :=
  if o.kind = 3 then (if o.inbound then 4 else o.device) else o.w3 / 4 % 4
def WainOp.dstSpace (o : WainOp) : Nat :=
  if o.kind = 3 then (if o.inbound then o.device else 4) else o.w3 % 4
def WainOp.elem (o : WainOp) : Nat := if o.tr = 1 then 2 else 4
def WainOp.total (o : WainOp) : Nat := if o.kind = 2 then o.rows * o.count else o.count
/-- Where the copy's byte number c lies at its destination and at its source. -/
def WainOp.dstOff (o : WainOp) (c : Nat) : Nat :=
  if o.kind ≠ 2 then c
  else if o.tr = 0 then c / o.count * o.ds + c % o.count
  else
    let per := o.count / o.elem
    let x := c / o.elem
    x % per * o.ds + x / per * o.elem
def WainOp.srcOff (o : WainOp) (c : Nat) : Nat :=
  if o.kind ≠ 2 then c
  else if o.tr = 0 then c / o.count * o.ss + c % o.count
  else
    let per := o.count / o.elem
    let x := c / o.elem
    x / per * o.ss + x % per * o.elem
/-- Elements of the destination that the copy has not written: their offsets. -/
def WainOp.unwritten (o : WainOp) : List Nat :=
  let off (x : Nat) : Nat := o.dstOff (x * o.elem)
  let done := (List.range (o.cursor / o.elem)).map off
  (((List.range (o.total / o.elem)).drop (o.cursor / o.elem)).map off).filter (fun a => !done.contains a)
/-- Bytes that a cancelled copy has not written become unspecified, in memory or at the host (10 R171). -/
def State.scrambleOp (s : State) (core : Nat) (o : WainOp) : State :=
  let at_ (s : State) (off n : Nat) : State :=
    if o.dstSpace = 0 then s.scrambleRange core o.ctx (o.dst.toNat + off) n
    else if o.dstSpace = 4 then s.scramblePa (barnOf core) (hostAddr (o.dst.toNat + off)) n
    else s
  o.held.foldl (fun s e => at_ s e.1 1) (o.unwritten.foldl (fun s off => at_ s off o.elem) s)
/-- Reads of peers under way for an engine's operation are given up. -/
def State.dropReads (s : State) (gone : Nat → Bool) : State :=
  { s with msgs := s.msgs.filter (fun e => match e.2.msg with
      | .peer _ sid id _ _ _ none .. => !(sid == 0 && gone id)
      | _ => true) }

/-- Cancels the engine operations of a stook and returns the tags it holds to IDLE. -/
def State.cancelEngines (s : State) (uid core : Nat) : State :=
  let c := s.core core
  let mine := (c.wainRun ++ c.wainQ).filter (fun o => o.uid == uid)
  let s := mine.foldl (fun s o => s.scrambleOp core o) (s.dropReads (fun id => mine.any (fun o => o.id == id)))
  let s := (s.colls.filter (fun o => o.uid == uid)).foldl (fun s o => s.scrambleRange core o.ctx (o.dst.toNat + o.done) (o.count - o.done)) s
  let c := s.core core
  let s := s.setCore core { c with
    wainQ := c.wainQ.filter (fun o => o.uid != uid)
    wainRun := c.wainRun.filter (fun o => o.uid != uid)
    tags := c.tags.map (fun t => if t.2.holder = some uid then (t.1, .idle) else t) }
  { s with pfl2 := s.pfl2.filter (fun o => o.uid != uid), colls := s.colls.filter (fun o => o.uid != uid) }

/-- The registration of a word that its barn has lost is void. -/
def State.voidReg (s : State) (b wa : Nat) : State :=
  { s with msgs := s.msgs.filterMap (fun (e : Nat × MsgEnt) => match e.2.msg with
    | .reg b' wa' n hd ctx pte r =>
      if b' = b ∧ wa' = wa then (if n = 2 then some (e.1, { e.2 with msg := .reg b (wa + 1) 1 hd ctx pte r }) else none)
      else if b' = b ∧ n = 2 ∧ wa' + 1 = wa then some (e.1, { e.2 with msg := .reg b wa' 1 hd ctx pte r })
      else some e
    | _ => some e) }
/-- The barn of a core loses every owned or phase word whose writer slot is that core (12 R221), those in its eviction buffers
among them, which the home still records as owned (R219); registrations of such words still under way are void. -/
def State.loseCore (s : State) (core : Nat) : State :=
  let b := barnOf core
  let mine (x : L1Word) : Bool := x.writer == slotOf core
  let lost := (s.barn b).words.filter (fun e => (e.2.owned || e.2.phase != []) && mine e.2)
  let gone := ((s.barn b).evict.flatMap (fun e => e.words)).filter (fun e => mine e.2 && s.ownerOf e.1 == some b)
  let s := lost.foldl (fun s e =>
    let bn := s.barn b
    let s := s.setBarn b { bn with words := bn.words.erase e.1 }
    (s.voidReg b e.1).loseWord e.1) s
  let bn := s.barn b
  let s := s.setBarn b { bn with evict := bn.evict.map (fun e => { e with words := e.words.filter (fun w => !mine w.2) }) }
  (gone.map (·.1)).foldl (fun s wa => s.loseWord wa) s

/-- The completion-tree bookkeeping of a stook that has retired or been killed: its position is out of the token's
way, and it counts (17 R297; 18 R306, R309). -/
def Crop.countPos (c : Crop) (pos die : Nat) : Crop :=
  let c := { c with retired := pos :: c.retired, finished := (pos, die) :: c.finished }
  if decide (c.tokPos = pos) && c.det then c.moveToken else c
/-- One stook placed on a die fewer. -/
def Crop.offDie (c : Crop) (die : Nat) : Crop :=
  { c with diePend := (List.range 4).map (fun d => c.diePend.getD d 0 - (if d = die then 1 else 0)) }
/-- In a deterministic crop finished stooks count in order of position; in any other at once. A stook that has counted is
pending on its die no more. -/
def Crop.settle : Nat → Crop → Crop
  | 0, c => c
  | f + 1, c =>
    if c.det then
      let isNext (p : Nat) : Bool := (List.range p).all (fun q => !posExists c.record q || (c.retired.contains q && !c.finished.any (fun x => x.1 == q)))
      match c.finished.find? (fun x => isNext x.1) with
      | some p => Crop.settle f ({ c with finished := c.finished.filter (fun x => x.1 != p.1), counted := c.counted + 1 }.offDie p.2)
      | none => c
    else c.finished.foldl (fun (c : Crop) x => c.offDie x.2) { c with counted := c.counted + c.finished.length, finished := [] }
/-- A stook that leaves: the rounds of the token that it has completed stand for a relaunch of its rick. -/
def Crop.count (c : Crop) (pos die rounds : Nat) : Crop :=
  let c := { c with redo := c.redo.put pos rounds }
  Crop.settle (c.finished.length + 1) (c.countPos pos die)
/-- A rick that is to be placed again: members of it that had retired are to run again, so they count no more. -/
def Crop.recall (c : Crop) (rick : Nat) : Crop :=
  let ps := (List.range (recRick c.record)).map (· + recRick c.record * rick)
  let c := ps.foldl (fun (c : Crop) p =>
    if !c.retired.contains p then c
    else match c.finished.find? (fun x => x.1 == p) with
      | some x => { c with finished := c.finished.filter (fun y => y.1 != p) }.offDie x.2
      | none => { c with counted := c.counted - 1 }) c
  { c with retired := c.retired.filter (fun p => !ps.contains p), replaced := c.replaced ++ [rick] }

/-- Removes a stook and its sheaves from the machine. -/
def State.removeStook (s : State) (uid : Nat) : State :=
  match s.stook? uid with
  | none => s
  | some k =>
    { s with
      sheaves := s.sheaves.filter (fun e => !k.sheaves.contains e.1)
      waits := s.waits.filter (fun e => !k.sheaves.contains e.sid)
      msgs := (s.msgs.filter (fun e => match e.2.msg with
          | .read _ sid .. => !k.sheaves.contains sid
          | .atomic _ sid .. => !k.sheaves.contains sid
          | .peer _ sid .. => !k.sheaves.contains sid
          | _ => true)).map (fun e => (e.1, { e.2 with waiters := e.2.waiters.filter (fun w => !k.sheaves.contains w.1) }))
      stooks := s.stooks.erase uid }

/-- The kill of one stook (19 R328): engines cancelled, thresher released, words lost, wait entries removed, the stook
gone. A kill without relaunch passes the token and counts the stook; one with relaunch keeps its position. -/
def State.killStook (s : State) (uid : Nat) (relaunch : Bool) : State :=
  match s.stook? uid with
  | none => s
  | some k =>
    let s := k.cores.foldl (fun s c => s.cancelEngines uid c) s
    let s := k.savedOps.foldl (fun s o => s.scrambleOp (k.cores.getD o.1 0) o.2) s
    let here := if k.parked then [] else s.sheavesOf k
    let s := here.foldl (fun s e => s.mxKill e.2.core e.1) s
    let s := (k.cores.take k.sheaves.length).foldl (fun s c => s.loseCore c) s
    let s := s.removeStook uid
    if k.trapStook then s
    else s.modCrop k.crop (fun c =>
      if relaunch then { c with redo := c.redo.put k.pos (Nat.max k.round k.redo) }.offDie (dieOf (k.cores.headD 0))
      else { c.count k.pos (dieOf (k.cores.headD 0)) (Nat.max k.round k.redo) with killed := true })

/-- The kill of a rick: every stook of it, and every trap stook that serves one of its sheaves, but for the one whose
TKILL it is (19 R328). -/
def State.killRickBut (s : State) (uid : Nat) (relaunch : Bool) (keep : Option Nat) : State :=
  match s.stook? uid with
  | none => s
  | some k =>
    let victims := s.rickOf k
    let sids := victims.flatMap (fun e => e.2.sheaves)
    let traps := s.stooks.filter (fun e => e.2.trapStook && keep != some e.1 && (s.sheavesOf e.2).any (fun x => match x.2.serves with
      | some t => sids.contains t
      | none => false))
    let s := (traps ++ victims).foldl (fun s e => s.killStook e.1 relaunch) s
    if relaunch then s.modCrop k.crop (fun c => c.recall k.rick) else s
def State.killRick (s : State) (uid : Nat) (relaunch : Bool) : State := s.killRickBut uid relaunch none

/-- A consumed uncorrectable error kills the rick of a stook (21 R355, R356): it is placed again from the retained record,
at most three times, unless a full pre-emption of its partition is under way. A trap stook takes the rick that it serves
along. -/
def State.rickError (s : State) (uid : Nat) : State :=
  match s.stook? uid with
  | none => s
  | some k =>
    if k.trapStook then
      let served := (s.sheavesOf k).filterMap (fun e => e.2.serves.bind (fun t => (s.sheaf? t).map (·.uid)))
      served.foldl (fun s u => s.killRick u false) (s.killStook uid false)
    else
      match s.cropOf k with
      | none => s
      | some c =>
        let n := c.relaunches.getD k.rick 0
        let held : Bool := match s.trapPage.op with
          | some o => o.op == 1 && o.part == c.part
          | none => false
        if recRelaunch c.record && decide (n < 3) && !held then
          (s.killRick uid true).modCrop k.crop (fun c => { c with relaunches := c.relaunches.put k.rick (n + 1) })
        else s.killRick uid false

/-- The length of a JOIN at an address that no JOIN of this device recorded: a handler wrote it, or a foreign area restored
it. It is that of the word that stands there at that moment, else 8 bytes (04 R71, DESIGN CHOICE, log 115). -/
def State.joinLen (s : State) (core ctx : Nat) (a : DWord) : Nat :=
  match (s.translate (some core) ctx a .fetch false).1 with
  | .ok pa _ _ _ => (opLength (opOf (BitVec.ofNat 32 (natOfBytes (s.cohRead pa 4))))).getD 8
  | _ => 8

/-! ### Taking a trap (19 R316 to R323) -/

/-- Withdraws a flight into the replay queue, or keeps it: a part already performed completes, a wait that keeps its
lanes at the instruction stays (19 R318). -/
def Flight.kept (f : Flight) : Bool :=
  f.performed || f.stay || (match f.instr with | .waita .. => f.stage == .waiting | _ => false)
def Flight.replay (f : Flight) : Replay := ⟨f.words, f.words.length, true, f.e, f.pc, f.ops, f.ctx, f.ord⟩
/-- An entry takes its place in issue order. -/
def insertOrd (r : Replay) : List Replay → List Replay
  | [] => [r]
  | x :: t => if r.ord < x.ord then r :: x :: t else x :: insertOrd r t
/-- A flight is withdrawn into the replay queue; a wait that keeps its lanes at the instruction is only dropped: they
issue it again (14 R251, log 40). -/
def Sheaf.withdraw (sh : Sheaf) (f : Flight) : Sheaf :=
  { sh.dropFlight f.id with replay := if f.stay then sh.replay else insertOrd f.replay sh.replay }
/-- The freeze of a sheaf: nothing issues on either pipe, unperformed instructions go to the replay queue in issue
order, the faulting one first if it had already issued (19 R317, R318, R389). A trap of a re-injected entry ends the resume and is
recorded anew (R327). -/
def Sheaf.freeze (sh : Sheaf) (t : TrapInfo) (faulting : Option Nat) : Sheaf :=
  let first := sh.flights.filter (fun f => some f.id = faulting)
  let rest := sh.flights.filter (fun f => some f.id ≠ faulting && !f.kept)
  { sh with
    frozen := true
    trap := some t
    slot := none
    resuming := false
    flights := sh.flights.filter (fun f => some f.id ≠ faulting && f.kept)
    replay := first.map (·.replay) ++ rest.foldl (fun q f => insertOrd f.replay q) sh.replay }
/-- Requests of withdrawn flights are dropped. -/
def State.dropFlightMsgs (s : State) (sid : Nat) (gone : Nat → Bool) : State :=
  { s with msgs := s.msgs.filter (fun e => match e.2.msg with
      | .read _ sid' f .. => !(sid' == sid && gone f)
      | .atomic _ sid' f .. => !(sid' == sid && gone f)
      | .peer _ sid' f _ _ _ none .. => !(sid' == sid && gone f)
      | _ => true) }

/-- The vector table of a context (Table 19.2). -/
def State.vtab (s : State) (ctx : Nat) : Nat := s.trapPage.tvbase.toNat + 256 * ctx
def State.recCount (s : State) (ctx : Nat) : Nat := s.physNat (s.vtab ctx + 8) 4
def State.recBase (s : State) (ctx : Nat) : Nat := s.physNat (s.vtab ctx) 8
def State.handler (s : State) (ctx code : Nat) : Nat := s.physNat (s.vtab ctx + 0x48 + 8 * code) 8
/-- Whether a cause has a handler (19 R323). -/
def State.handled (s : State) (ctx code : Nat) : Bool := decide (s.recCount ctx ≠ 0) && decide (s.handler ctx code ≠ 0)

/-- TAKING A TRAP, the one operation for every cause: the whole sheaf freezes, which releases at .ST what is performed, and
its unperformed instructions are withdrawn; a release that reports failed lines has reported them (12 R223); without a
handler the stook is killed as TKILL does; in a trap sheaf that stook and the one it serves are killed. Otherwise the sheaf
waits, frozen, for its record and its handler (TRAP_STOOK_START). -/
def State.takeTrap (s : State) (sid : Nat) (t : TrapInfo) (faulting : Option Nat) : State :=
  match s.sheaf? sid with
  | none => s
  | some sh =>
    let sh := if faulting = none ∧ t.code = 12 then sh.modLanes t.lanes (fun _ l => { l with failed := [] }) else sh
    let sh' := sh.freeze t faulting
    let s := ((s.setSheaf sid sh').dropFlightMsgs sid (fun f => !sh'.flights.any (fun x => x.id = f))).publishUpTo (barnOf sh.core) .st
    match sh.serves with
    | some served =>
      let s := s.killStook sh.uid false
      match s.sheaf? served with
      | some v => s.killRick v.uid false
      | none => s
    | none => if s.handled sh.ctx t.code then s else s.killRick sh.uid false

/-- Trap codes (Table 19.1). -/
inductive Cause where
  | ill | regb | latch | align | xlat | perm | binb | chord | chempty | chfull | ownlost | remfail | frdom | frfull | frop
  | wrange | mxown | mxfmt | brk | watch | trap | priv
  deriving DecidableEq, Repr
def Cause.code : Cause → Nat
  | .ill => 1 | .regb => 2 | .latch => 3 | .align => 4 | .xlat => 5 | .perm => 6 | .binb => 7 | .chord => 8
  | .chempty => 9 | .chfull => 10 | .ownlost => 11 | .remfail => 12 | .frdom => 13 | .frfull => 14 | .frop => 15
  | .wrange => 16 | .mxown => 17 | .mxfmt => 18 | .brk => 19 | .watch => 20 | .trap => 21 | .priv => 22

/-- The end of a resume (19 R327): held releases of WAITA are delivered, the record slot is free, the lanes acquire at .ST,
and the sheaf issues again from its lanes' program counters. A watch match that was found while it was frozen traps it at
once (R330). -/
def State.resumeEnd (s : State) (sid : Nat) : State :=
  match s.sheaf? sid with
  | none => s
  | some sh =>
    let open_ : Sheaf := { sh with resuming := false, slot := none, held := [], watchq := sh.watchq.tail }
    let s := (s.setSheaf sid (sh.held.foldl (fun sh h => sh.releaseWaita h.1 h.2.1 h.2.2) open_)).acquire sid sh.full .st
    match sh.watchq with
    | [] => s
    | t :: _ => s.takeTrap sid t none
/-- ENDING A TRAP (19 R327): the latches of the resumed sheaf become invalid, entries that a handler dropped leave the replay
queue, and the others execute first. Without any the resume ends at once. -/
def State.resume (s : State) (sid : Nat) : State :=
  match s.sheaf? sid with
  | none => s
  | some sh =>
    let sh := { sh with frozen := false, trap := none, replay := sh.replay.filter (·.valid), resuming := true }
    let s := s.setSheaf sid (sh.modLanes sh.full (fun _ l => l.killLatches))
    if sh.replay.isEmpty then s.resumeEnd sid else s
/-- Whether the replay entries of a resumed sheaf have executed: none is left that has an effect, and none that has issued
again is still to be performed. One that waits for other lanes has executed (DEDUCED, log 128). -/
def Sheaf.resumed (sh : Sheaf) : Bool :=
  sh.resuming && !sh.frozen && sh.replay.all (fun r => !r.valid || r.e &&& sh.live == 0) &&
    sh.flights.all (fun f => f.born != 0 || f.stage == .waiting)

end Sys2Proof.Machine
end

