-- ==== Sys2Proof/Machine/Issue.lean ====
section
/-! DEFINITION. What every instruction's meaning shares: the operands it reads, the checks before its own (PRIV, REGB,
the guard, LATCH), and what the issue of an instruction does to the lanes of its path (02 R35, R46, R47, 04 R63,
05 R86 to R88). -/
namespace Sys2Proof.Machine

open Sys2Proof

/-- What a meaning sees: the sheaf before the instruction, the issuing path, the lanes of E. -/
structure Ctx where
  sid : Nat
  sh : Sheaf
  path : LaneSet
  e : LaneSet
  pc : DWord
  len : Nat
  words : List Word
  replay : Option Replay
  clock : Nat                  -- the cycle of the issue
  ctx : Nat                    -- the context it translates in: a replayed entry's is that of its issue (06 R118)

/-- What a meaning answers where it raises nothing. -/
structure Done where
  st : State
  /-- where lanes of E go, if not to the next instruction -/
  target : Option (Nat → DWord) := none
  /-- lanes of the path that keep their program counters: held, parked, waiting -/
  stay : LaneSet := 0
  /-- the value each lane of E gives its latch b0 -/
  val : List (Nat × Word) := []
  /-- a branch, call or return: the latches of E become invalid (05 R87) -/
  branch : Bool := false
  /-- the instruction cannot be issued yet (03 R52): nothing changes -/
  blocked : Bool := false
  /-- a pop whose refill decides what its latches become (05 R86, 08 R147): the issue leaves them -/
  refills : Bool := false
  /-- a trap that the instruction raises after it has completed (19 R329) -/
  after : Option TrapInfo := none

/-- Word k of the A, B or C group in a lane: captured with the entry when it is replayed (19 R327, Table 19.6). -/
def Ctx.opA (c : Ctx) (r : Reg) (lane k : Nat) : Word :=
  match c.replay with
  | some r => (r.ops.getD lane []).getD k 0
  | none => c.sh.readReg r lane k
def Ctx.opB (c : Ctx) (r : Reg) (lane k : Nat) : Word :=
  match c.replay with
  | some r => (r.ops.getD lane []).getD (4 + k) 0
  | none => c.sh.readReg r lane k
def Ctx.opC (c : Ctx) (r : Reg) (lane k : Nat) : Word :=
  match c.replay with
  | some r => (r.ops.getD lane []).getD (12 + k) 0
  | none => c.sh.readReg r lane k
/-- Pairs as 64-bit values. -/
def Ctx.pairA (c : Ctx) (r : Reg) (lane : Nat) : DWord := pairOf (c.opA r lane 0) (c.opA r lane 1)
def Ctx.pairB (c : Ctx) (r : Reg) (lane : Nat) : DWord := pairOf (c.opB r lane 0) (c.opB r lane 1)
def Ctx.pairC (c : Ctx) (r : Reg) (lane : Nat) : DWord := pairOf (c.opC r lane 0) (c.opC r lane 1)

/-- The handle register of FLD and FST. -/
def handleOf (i : Instr) : Option (Fin 24) :=
  match i with
  | .fld _ _ _ h _ => some h
  | .fst _ _ _ h => some h
  | _ => none
/-- The operand words of an instruction in the lanes of E, as the replay queue keeps them: A, B, C in words 0, 4 and 12;
for an X96 instruction without a C group the third instruction word; for FLD and FST, which have neither, the handle, which
no later write of its register may change (06 R109; DESIGN CHOICE, log 119). A uniform entry keeps them in lane 0. -/
def Ctx.capture (c : Ctx) (i : Instr) : KV (List Word) :=
  let grp (u : RegUse) (n : Nat) (f : Reg → Nat → Nat → Word) (lane : Nat) : List Word :=
    (List.range n).map (fun k => if k < u.count then f u.base lane k else 0)
  let third (lane : Nat) : List Word :=
    match handleOf i with
    | some h => [c.opC (.s h) lane 0, 0, 0, 0]
    | none => if i.form = .x96 ∧ i.opC.count = 0 then [c.words.getD 2 0, 0, 0, 0] else grp i.opC 4 c.opC lane
  let row (lane : Nat) : List Word := grp i.opA 4 c.opA lane ++ grp i.opB 8 c.opB lane ++ third lane
  if i.cls = .uniform then [(0, row 0)] else (lanesOf c.e).map (fun l => (l, row l))

/-- The trap that a condition raises at this instruction. -/
def Ctx.trap (c : Ctx) (k : Cause) (lanes : LaneSet) (addr : DWord) : TrapInfo :=
  { code := k.code, pc := c.pc, addr := addr, lanes := lanes, path := c.path, info := 0, fetch := false,
    engine := false, fail := [] }

/-- Whether a group holds a register at or above the budget (02 R32, R33). -/
def regOver (u : RegUse) (budget : Nat) : Bool :=
  match u.base with
  | .v n => decide (budget < n.val + u.count)
  | _ => false
/-- The lanes of E that name an invalid latch (05 R88). -/
def Ctx.badLatch (c : Ctx) (i : Instr) : LaneSet :=
  laneSetOf c.sh.width (fun l => c.e.getLsbD l && i.srcs.any (fun u => match u.base with
    | .b n => !(c.sh.lane l).latchValid n
    | _ => false))

/-- The lanes that perform an instruction (02 R35, 06 R108); in a replay the lanes of the entry that have not exited. -/
def guardSet (i : Instr) (sh : Sheaf) (path : LaneSet) (replay : Bool) : LaneSet :=
  if replay then path &&& sh.live
  else if i.cls = .uniform then (if sh.qpred i.guard then path else 0)
  else laneSetOf sh.width (fun l => path.getLsbD l && (sh.lane l).pred i.guard)

def ctxOf (i : Instr) (cur : Cursor) (sh : Sheaf) (clock : Nat) : Ctx :=
  { sid := cur.sid, sh := sh, path := cur.lanes, e := guardSet i sh cur.lanes cur.replay.isSome, pc := cur.pc
    len := i.form.bytes, words := cur.words, replay := cur.replay, clock := clock
    ctx := (cur.replay.map (·.ctx)).getD sh.ctx }

/-- The checks of Table 2.16 that follow decoding, then LATCH. -/
def preCheck (i : Instr) (c : Ctx) : Option TrapInfo :=
  if i.privileged && c.sh.serves.isNone then some (c.trap .priv c.path 0)
  else if (i.srcs ++ i.dsts).any (fun u => regOver u c.sh.budget) then some (c.trap .regb c.path 0)
  else if c.replay.isNone && c.badLatch i != 0 then some (c.trap .latch (c.badLatch i) 0)
  else none

/-- A write to a register of the group that the operand collector holds empties it (11 R194). -/
def State.touchRegs (s : State) (sid : Nat) (ds : List RegUse) : State :=
  match s.sheaf? sid with
  | none => s
  | some sh =>
    let t := (s.core sh.core).mx
    match t.coll with
    | none => s
    | some k =>
      let reg (u : RegUse) : Option Nat := match u.base with
        | .v n => some n.val
        | .s n => some (96 + n.val)
        | _ => none
      let hit (u : RegUse) : Bool := match reg u with
        | some n => decide (n < k.base + 2 * k.ty.bits ∧ k.base < n + u.count) ||
            (!k.bwords.isEmpty && decide (n ≤ k.breg ∧ k.breg < n + u.count))
        | none => false
      if t.owner = some sid ∧ ds.any hit then s.modMx sh.core (fun t => { t with coll := none }) else s

/-- What issue leaves of each lane of the path: its next program counter, its latches, its age (03 R59, 04 R63,
05 R86, R87). -/
def Lane.issued (l : Lane) (i : Instr) (c : Ctx) (d : Done) (lane : Nat) : Lane :=
  let inE := c.e.getLsbD lane
  let next := if inE then (match d.target with
    | some f => f lane
    | none => c.pc + BitVec.ofNat 64 c.len) else c.pc + BitVec.ofNat 64 c.len
  let l := if d.stay.getLsbD lane then l else l.setPc next
  let l := if i.cls = .uniform then l
    else if d.refills then l
    else if d.branch && inE then l.killLatches
    else l.shiftLatch (if inE then d.val.lookup lane else none)
  { l with age := 0 }
/-- Whether an instruction is still under way after its body: its issue has left a flight of its sheaf. -/
def Ctx.underWay (c : Ctx) (t : State) : Bool :=
  ((t.sheaf? c.sid).map (fun sh => sh.flights.any (fun f => !c.sh.flights.any (fun g => g.id == f.id)))).getD false
/-- The collector after an instruction has written its registers: one that performs in no lane, or not yet, writes none. -/
def State.retouch (t : State) (i : Instr) (c : Ctx) : State := if c.e = 0 ∨ c.underWay t = true then t else t.touchRegs c.sid i.dsts
def State.retire (_s : State) (i : Instr) (c : Ctx) (d : Done) : State :=
  let s := d.st.retouch i c
  match c.replay with
  | some _ => s.modSheaf c.sid (fun sh => { sh with replay := sh.replay.tail })
  | none => s.modSheaf c.sid (fun sh => sh.modLanes c.path (fun lane l => l.issued i c d lane))

/-- The next state of an instruction's issue by the current path: the shared checks, then the instruction's own body.
With E empty only the path moves on. -/
def issueState (i : Instr) (s : State) (body : Ctx → Except TrapInfo Done) : State :=
  match s.cur with
  | none => s
  | some cur =>
    match s.sheaf? cur.sid with
    | none => s
    | some sh =>
      if sh.frozen then s
      else
        let c := ctxOf i cur sh s.clock
        match preCheck i c with
        | some t => s.takeTrap c.sid t none
        | none =>
          if c.e = 0 then s.retire i c { st := s }
          else
            match body c with
            | .error t => s.takeTrap c.sid t none
            | .ok d =>
              if d.blocked then s
              else match d.after with
                | none => s.retire i c d
                | some t => (s.retire i c d).takeTrap c.sid t none
/-- What exec answers. -/
abbrev Out := Host.Outcome State Fault Refusal
def issue (i : Instr) (s : State) (body : Ctx → Except TrapInfo Done) : Out :=
  .next (issueState i s body)

/-! ### Shapes of results -/

/-- The lanes of E write a group each; the first word goes to the latch. -/
def groupDone (s : State) (c : Ctx) (d : Reg) (f : Nat → List Word) : Done :=
  let vals := (lanesOf c.e).map (fun l => (l, f l))
  { st := s.modSheaf c.sid (fun sh => vals.foldl (fun sh v => sh.writeGroup d v.1 0 v.2) sh)
    val := vals.map (fun v => (v.1, v.2.headD 0)) }
/-- One result register in each lane of E. -/
def lane1 (i : Instr) (s : State) (d : Dst) (f : Ctx → Nat → Word) : Out :=
  issue i s (fun c => .ok (groupDone s c d.reg (fun l => [f c l])))
/-- A pair in each lane of E. -/
def lane2 (i : Instr) (s : State) (d : Reg) (f : Ctx → Nat → DWord) : Out :=
  issue i s (fun c => .ok (groupDone s c d (fun l => [loWord (f c l), hiWord (f c l)])))
/-- One predicate in each lane of E. -/
def predDone (s : State) (c : Ctx) (p : Nat) (f : Nat → Bool) : Done :=
  { st := s.modSheaf c.sid (fun sh => sh.modLanes c.e (fun l x => x.setPred p (f l))) }
def laneP (i : Instr) (s : State) (p : Fin 7) (f : Ctx → Nat → Bool) : Out :=
  issue i s (fun c => .ok (predDone s c p.val (f c)))
/-- A result of the uniform set: words of a group of s registers. -/
def uniDone (s : State) (c : Ctx) (d : SReg) (ws : List Word) : Done :=
  { st := s.modSheaf c.sid (fun sh => sh.writeGroup d.reg 0 0 ws) }
def uni1 (i : Instr) (s : State) (d : SReg) (f : Ctx → Word) : Out :=
  issue i s (fun c => .ok (uniDone s c d [f c]))
def uni2 (i : Instr) (s : State) (d : SReg) (f : Ctx → DWord) : Out :=
  issue i s (fun c => .ok (uniDone s c d [loWord (f c), hiWord (f c)]))

end Sys2Proof.Machine
end

