-- ==== Sys2Proof/Machine/Access.lean ====
section
/-! DEFINITION. Accesses of instructions in flight: their translation for every lane of E (02 R393, 16 R283), the L1,
the requests they send, and what their completion does (12 R213 to R223, R226; 14 R246; 19 R330). -/
namespace Sys2Proof.Machine

open Sys2Proof

/-! ### Translation of the lanes of E -/

/-- What one step of translation over the lanes answers (02 R393). -/
inductive Xres where
  | ok (l : List (Nat × DWord × Nat × Nat × Nat × Bool))
  | trap (c : Cause) (lanes : LaneSet) (addr : DWord)
  | park (l : List (Nat × DWord × Nat))

def State.xlateEach (s : State) (core : Option Nat) (ctx : Nat) (k : AKind) :
    List (Nat × DWord) → List (Nat × DWord × Xl) × State
  | [] => ([], s)
  | (lane, va) :: r =>
    let (x, s) := s.translate core ctx va k false
    let (l, s) := State.xlateEach s core ctx k r
    ((lane, va, x) :: l, s)
def lanesSet (l : List Nat) : LaneSet := l.foldl (fun m i => if i < 64 then m ||| laneBit i else m) 0
/-- The step over all lanes: a trap condition takes precedence over parking and parks nothing; the lowest faulting lane
decides which is raised, and LANES holds every lane that met it. -/
def State.xlateLanes (s : State) (core : Option Nat) (ctx : Nat) (k : AKind) (as : List (Nat × DWord)) : Xres × State :=
  let (l, s') := s.xlateEach core ctx k as
  let bad := l.filter (fun e => e.2.2 == .perm || e.2.2 == .xlat)
  match bad with
  | b :: _ =>
    (.trap (if b.2.2 = .perm then .perm else .xlat) (lanesSet ((l.filter (fun e => e.2.2 == b.2.2)).map (·.1))) b.2.1, s)
  | [] =>
    let parked := l.filterMap (fun e => match e.2.2 with
      | .park r => some (e.1, e.2.1, r)
      | _ => none)
    if parked.isEmpty then
      (.ok (l.filterMap (fun e => match e.2.2 with
        | .ok pa pte hd ho => some (e.1, e.2.1, pa, pte, hd, ho)
        | _ => none)), s')
    else (.park parked, s')

/-! ### Flights -/

/-- Adds a flight for the current instruction. -/
def Ctx.flight (c : Ctx) (i : Instr) (id : Nat) (stage : Stage) (stay : Bool) (accs : List Acc) : Flight :=
  { id := id, ord := (c.replay.map (·.ord)).getD id, born := (if c.replay.isNone then c.clock + 1 else 0), instr := i, words := c.words, pc := c.pc, path := c.path, e := c.e, ops := c.capture i, ctx := c.ctx
    stay := stay && c.replay.isNone, stage := stage, accs := accs, ready := 0, performed := false }
def State.addFlight (s : State) (c : Ctx) (i : Instr) (stage : Stage) (stay : Bool) (accs : List Acc) : Nat × State :=
  let (id, s) := s.fresh
  (id, s.modSheaf c.sid (fun sh => { sh with flights := sh.flights ++ [c.flight i id stage stay accs] }))
/-- The instruction parks on fault records (16 R283): performed in no lane, its lanes blocked. -/
def State.parkAt (s : State) (c : Ctx) (i : Instr) (l : List (Nat × DWord × Nat)) : State :=
  (s.addFlight c i (.parked (l.map (fun e => e.2.2))) false
    (l.map (fun e => ⟨e.1, e.2.1, 0, 0, 0, 0, false, [], .sent e.2.2⟩))).2
/-- A wait of the issue stage that keeps its path at the instruction. -/
def State.waitAt (s : State) (c : Ctx) (i : Instr) (accs : List Acc) : State := (s.addFlight c i .waiting true accs).2
def waitDone (s : State) (c : Ctx) (i : Instr) (accs : List Acc) : Done :=
  { st := s.waitAt c i accs, stay := if c.replay.isNone then c.path else 0 }

/-- A flight looks whether it can go on. A wait that goes on at once moves its lanes itself. -/
def State.tryFlight (s : State) (sid fid : Nat) (adv : State → Nat → Sheaf → Flight → State) : State :=
  match (s.sheaf? sid).bind (fun sh => (sh.flight? fid).map (fun f => (sh, f))) with
  | none => s
  | some (sh, f) => adv s sid sh f

def State.setAcc (s : State) (sid fid k : Nat) (st : AccSt) : State :=
  s.modSheaf sid (fun sh => sh.modFlight fid (fun f =>
    { f with accs := f.accs.zipIdx.map (fun e => if e.2 = k then { e.1 with st := st } else e.1) }))
def State.markPerformed (s : State) (sid fid : Nat) : State :=
  s.modSheaf sid (fun sh => sh.modFlight fid (fun f => { f with performed := true }))
/-- The lane of an access of one lane. -/
def accLanesOf (a : Acc) : LaneSet := laneBit a.lane
/-- The lanes that an access belongs to. -/
def accLanes (f : Flight) (a : Acc) : LaneSet := if a.lane = 64 then f.path else laneBit a.lane

/-- Whether an instruction that keeps its lanes at it meets its condition at execution (13 Table 13.3, step 11; 19 R389): its
lanes then stand after it, and it stands in the replay queue. -/
def atExecution (i : Instr) : Bool :=
  match i with
  | .waita .. => true
  | _ => false
/-- A fault found at execution (19 R389): the flight goes first into the replay queue and the sheaf freezes. In a sheaf
already frozen the flight is withdrawn, and its condition is met again when it is executed anew. -/
def State.faultAt (s : State) (sid : Nat) (f : Flight) (c : Cause) (lanes : LaneSet) (addr : DWord) (fail : List Nat) : State :=
  let t : TrapInfo := { code := c.code, pc := f.pc, addr := addr, lanes := lanes, path := f.path, info := 0, fetch := false,
                        engine := false, fail := fail }
  let s := { s with waits := s.waits.filter (fun e => e.flight != f.id) }
  if ((s.sheaf? sid).map (·.frozen)).getD false then
    (s.modSheaf sid (fun sh => sh.withdraw f)).dropFlightMsgs sid (· == f.id)
  else if f.stay && !atExecution f.instr then (s.modSheaf sid (fun sh => sh.dropFlight f.id)).takeTrap sid t none
  else
    let past (l : Lane) : Lane := if l.pc = f.pc then l.setPc (f.pc + BitVec.ofNat 64 f.instr.form.bytes) else l
    (if f.stay then s.modSheaf sid (fun sh => sh.modLanes f.e (fun _ l => past l)) else s).takeTrap sid t (some f.id)

/-- Lanes that waited at a flight's instruction go on: to the next instruction where they still stand at it. The flight
ends with its last lane. -/
def State.moveOn (s : State) (sid : Nat) (f : Flight) (m : LaneSet) : State :=
  s.modSheaf sid (fun sh =>
    let sh := if f.stay then sh.modLanes (m &&& f.path) (fun _ l =>
      if l.pc = f.pc then l.setPc (f.pc + BitVec.ofNat 64 f.instr.form.bytes) else l) else sh
    if f.path &&& ~~~m = 0 then sh.dropFlight f.id
    else sh.modFlight f.id (fun f => { f with path := f.path &&& ~~~m, e := f.e &&& ~~~m, ready := f.ready &&& ~~~m }))

/-! ### The L1 -/

/-- The bytes of an access that an L1 can serve, and their class (12 R213, R215, 14 R249). -/
def Barn.hit (b : Barn) (pa n : Nat) (acq : Bool) : Option (List Byte × Scope) :=
  let step (acc : Option (List Byte × Scope)) (k : Nat) : Option (List Byte × Scope) :=
    match acc, b.words.find? ((pa + k) / 4) with
    | some (l, c), some w =>
      if (w.valid || w.written.getLsbD ((pa + k) % 4)) && (!acq || w.owned || w.phase != []) then
        some (l ++ [wordByte w.bytes ((pa + k) % 4)], c.max w.cls)
      else none
    | _, _ => none
  (List.range n).foldl step (some ([], .sh))
/-- Own bytes written over bytes from the home: words the barn holds owned or in phase keep what it wrote. -/
def Barn.overlay (b : Barn) (pa : Nat) (bs : List Byte) : List Byte :=
  bs.zipIdx.map (fun e =>
    let a := pa + e.2
    match b.words.find? (a / 4) with
    | some w => if (w.owned || w.phase != []) && w.written.getLsbD (a % 4) then wordByte w.bytes (a % 4) else e.1
    | none => e.1)
/-- Installs the words of a reply as unowned valid words with their class; words held owned or in phase stay, and an
owned word whose registration is recorded becomes whole (12 R213, 14 R249). -/
def State.installWords (s : State) (b pa n : Nat) (cls : Scope) (ctx pte hd : Nat) : State :=
  (wordsOf pa n).foldl (fun s wa =>
    let s := s.makeRoom b (lineOf wa)
    let bn := s.barn b
    let w := s.cohWord wa
    if s.isLost wa || (s.home (lineOf wa)).heldMod.getLsbD (wa / 16 % 2) then s
    else match bn.words.find? wa with
    | some x =>
      if x.owned then
        if s.ownerOf wa = some b then s.setBarn b { bn with words := bn.words.put wa { x with bytes := w, valid := true } } else s
      else if x.phase ≠ [] then s
      else s.setBarn b { bn with words := bn.words.put wa { x with bytes := w, valid := true, cls := cls } }
    | none => s.setBarn b { bn with words := bn.words.put wa ⟨w, true, false, [], 0, 0, cls, ctx, pte, hd, []⟩ }) s
/-- What a reply installs: the words of the line, but for those of which another barn holds newer bytes that the read did
not ask for (12 R213). -/
def State.installLine (s : State) (b pa n : Nat) (cls : Scope) (ctx pte hd : Nat) : State :=
  ((List.range 32).map (· + 32 * (pa / 128))).foldl (fun s wa =>
    if (wordsOf pa n).contains wa || s.ownerOf wa == none || s.ownerOf wa == some b then s.installWords b (4 * wa) 4 cls ctx pte hd
    else s) s
/-- Words of a peer's line that a reply covers whole are installed as unowned words, if the line has a way. -/
def State.installPeer (s : State) (b pa : Nat) (bs : List Byte) (ctx pte hd : Nat) : State :=
  if !s.roomFor b (pa / 128) then s
  else (wordsOf pa bs.length).foldl (fun s wa =>
    let (m, w) := wordPart pa bs wa
    let bn := s.barn b
    if m == 15 then s.setBarn b { bn with words := bn.words.put wa ⟨w, true, false, [], 0, 0, .sy, ctx, pte, hd, []⟩ } else s) (s.makeRoom b (pa / 128))

/-! ### Performing accesses -/

/-- Whether an earlier flight of the sheaf still owes an access of the same lane to one of these words (12 R226). -/
def State.behind (s : State) (sid fid : Nat) (m : LaneSet) (pa n : Nat) : Bool :=
  match s.sheaf? sid with
  | none => false
  | some sh => (sh.before fid).any (fun f => f.accs.any (fun a =>
      (match a.st with | .done _ => false | _ => true) && accLanes f a &&& m != 0 &&
      decide (a.pa / 4 ≤ (pa + n - 1) / 4 ∧ pa / 4 ≤ (a.pa + a.n - 1) / 4) && decide (0 < a.n)))
/-- Whether a lower lane's store of the same flight to one of these words has still to land (12 R226: the highest lane
wins). -/
def Flight.lowerWaits (f : Flight) (k : Nat) (a : Acc) : Bool :=
  (f.accs.take k).any (fun x => (match x.st with | .done _ => false | _ => true) &&
    decide (x.pa / 4 ≤ (a.pa + a.n - 1) / 4 ∧ a.pa / 4 ≤ (x.pa + x.n - 1) / 4))

/-- Whether the home die of an access answers now (21 R361): neither of its stacks still comes up. -/
def State.reachable (s : State) (a : Acc) : Bool := isPeer a.pa || isHost a.pa || !s.dieWaits a.hd

/-- An access that may still be performed: no request of it is under way. -/
def AccSt.open (x : AccSt) : Bool :=
  match x with
  | .queued => true
  | .recall m => m == 0
  | _ => false
/-- Accesses of a flight, not yet performed, that reach a peer which cannot be reached (12 R223). -/
def State.goneIn (s : State) (f : Flight) : List Acc :=
  f.accs.filter (fun a => s.peerGone a.pa && (match a.st with | .done _ => false | _ => true))
/-- REMFAIL of a flight at one of its accesses: LANES and the failed lines are those of every access whose peer cannot be
reached (12 R223, R393). -/
def State.goneFault (s : State) (sid : Nat) (f : Flight) (a : Acc) : State :=
  let all := a :: s.goneIn f
  s.faultAt sid f .remfail (all.foldl (fun m x => m ||| (accLanes f x &&& f.e)) 0) (BitVec.ofNat 64 (a.pa / 128 * 128))
    (all.map (fun x => x.pa / 128 * 128)).eraseDups
/-- Whether no access of a flight waits for a recomputation of the routes (20 R345). -/
def State.pathsOpen (s : State) (f : Flight) : Bool :=
  f.accs.all (fun a => (match a.st with | .done _ => true | _ => false) || !isPeer a.pa || s.hasRoute (peerOf a.pa) || !s.fabric.recompute)
/-- Whether the host link of a sheaf's function carries its FORM 3 accesses now; they wait for it otherwise (20 R341, R343;
log 114). -/
def State.hostLinkOf (s : State) (sid : Nat) : Bool := s.fnUp (s.fnOf (((s.sheaf? sid).map (·.uid)).getD 0))
/-- An acquire-load or a load of one access: performed in the L1, or a request is sent; the lane is parked while the host
may hold the half modified (12 R224); a peer without a route waits for a recomputation, then fails. -/
def State.performLoad (s : State) (sid core : Nat) (f : Flight) (k : Nat) (a : Acc) : State :=
  let b := barnOf core
  let acq := acqScope f.instr
  let s := s.publishAt b a.pa a.n
  let hit := if a.homeOnly then none else (s.barn b).hit a.pa a.n acq.isSome
  if isHost a.pa then
    if s.hostLinkOf sid then (s.setAcc sid f.id k (.done (Machine.memRead s.mem a.pa a.n))).markPerformed sid f.id else s
  else match hit with
  | some (bs, c) =>
    ((s.setAcc sid f.id k (.done bs)).markPerformed sid f.id).modSheaf sid (fun sh => sh.raisePend (accLanes f a) c)
  | none =>
    if isPeer a.pa then
      if s.hasRoute (peerOf a.pa) then
        let (m, s) := s.addMsg (.peer b sid f.id k a.pa a.n none acq true) [(sid, accLanes f a)]
        s.setAcc sid f.id k (.sent m)
      else if s.fabric.recompute then s
      else s.goneFault sid f a
    else if s.hostMod a.pa then s.setAcc sid f.id k (.recall 0)
    else
      let (m, s) := s.addMsg (.read b sid f.id k a.pa a.n a.hd acq (s.ownerOf (a.pa / 4)) 0 none) [(sid, accLanes f a)]
      s.setAcc sid f.id k (.sent m)

/-- A lane's ordinal in its crop (08 R135). -/
def State.ordinal (s : State) (sh : Sheaf) (lane : Nat) : Nat :=
  match s.stookOf sh with
  | none => lane
  | some k =>
    match s.cropOf k with
    | none => lane
    | some c => k.linear * recLanes c.record + ((recSheaves c.record).take sh.idx).foldl (fun n x => n + x.2.1) 0 + lane
/-- Whether a buffered byte cannot be merged now: for its die, the host or its link, a gather copy held back, another write
of the byte on its way to a peer. -/
def State.mergeWaits (s : State) (core : Nat) (m : MergeByte) : Bool :=
  s.gatherStuck (barnOf core) m.pa 1 ||
    (if isHost m.pa then !s.hostLinkOf m.sid
      else if isPeer m.pa then (!s.hasRoute (peerOf m.pa) && s.fabric.recompute) || s.msgs.any (fun e => match e.2.msg with
        | .peer _ _ _ _ pa n (some _) .. => decide (pa ≤ m.pa ∧ m.pa < pa + n)
        | _ => false)
      else s.hostHolds m.pa || s.dieWaits m.hd)
/-- One buffered byte reaches memory unless a later ordinal's byte is there already: at its home at once, so that merges
take their places in the order in which they are made. -/
def State.mergePut (s : State) (key core ctx : Nat) (m : MergeByte) : State :=
  match s.crop? key with
  | none => s
  | some c =>
    if (match c.merged.find? m.va with | some o => decide (m.ordinal < o) | none => false) then s
    else
      let s := s.modCrop key (fun c => { c with merged := c.merged.put m.va m.ordinal })
      if isHost m.pa then s.memWrite m.pa [m.byte]
      else if isPeer m.pa then
        if s.hasRoute (peerOf m.pa) then
          ((s.peerUpdate (barnOf core) m.pa [m.byte]).addMsg (.peer (barnOf core) m.sid 0 0 m.pa 1 (some [m.byte]) none true) [(m.sid, 0xFFFFFFFFFFFFFFFF)]).2
        else s.modSheaf m.sid (fun sh => sh.modLanes sh.full (fun _ l => { l with failed := l.failed ++ [m.pa / 128 * 128] }))
      else (s.publishAt (barnOf core) m.pa 1).homeStore m.pa [m.byte] (.barn (barnOf core)) ctx m.pte m.hd
/-- The crop of a sheaf whose stores the merge rule of R315 orders; none outside merge mode. -/
def State.mergeKey (s : State) (sh : Sheaf) : Option Nat :=
  match s.stookOf sh with
  | some k => (match s.cropOf k with
    | some c => if c.det && recMerge c.record && !k.trapStook then some k.crop else none
    | none => none)
  | none => none
/-- The bytes that an access of a merge-mode sheaf stores. -/
def State.mergeBytes (s : State) (sid : Nat) (sh : Sheaf) (path : LaneSet) (a : Acc) : List MergeByte :=
  a.data.zipIdx.map (fun b => { va := a.va.toNat + b.2, pa := a.pa + b.2, pte := a.pte, hd := a.hd, sid := sid, byte := b.1
                                ordinal := s.ordinal sh (if a.lane = 64 then lowestLane path else a.lane) })
/-- A plain store goes into its stook's buffer. -/
def State.mergeBuffer (s : State) (uid : Nat) (l : List MergeByte) : State := s.modStook uid (fun st => { st with merge := st.merge ++ l })
/-- A release store of merge mode reaches memory at once, as a merge of its lane: it takes the place of the lane's older
bytes in the buffer (DESIGN CHOICE, log 126). -/
def State.mergeThrough (s : State) (key uid core ctx : Nat) (l : List MergeByte) : State :=
  l.foldl (fun s m => s.mergePut key core ctx m) (s.modStook uid (fun st => { st with
    merge := st.merge.filter (fun x => !l.any (fun m => m.va == x.va && m.ordinal == x.ordinal)) }))

/-- Whether a flight's accesses are stores. -/
def isStore (i : Instr) : Bool :=
  match i with
  | .stg .. | .stgU .. => true
  | _ => false
def isLoad (i : Instr) : Bool :=
  match i with
  | .ldg .. | .ldgSigned .. | .ldgU .. => true
  | _ => false

/-- A store of one access: into the L1 with its registration sent, at the home for a home-only page, to a peer's home
with any valid copy updated, or to the host. Its lane is parked while the host holds the half (12 R224). -/
def State.performStore (s : State) (sid core : Nat) (sh : Sheaf) (f : Flight) (k : Nat) (a : Acc) : State :=
  let b := barnOf core
  let s := s.publishAt b a.pa a.n
  let fin (s : State) : State := (s.setAcc sid f.id k (.done [])).markPerformed sid f.id
  let merged := s.mergeBytes sid sh f.path a
  match isStore f.instr, s.mergeKey sh with
  | true, some key =>
    if (relScope f.instr).isNone then fin (s.mergeBuffer sh.uid merged)
    else if merged.any (fun m => s.mergeWaits core m) then s
    else fin (s.mergeThrough key sh.uid core f.ctx merged)
  | _, _ =>
  if isHost a.pa then (if s.hostLinkOf sid then fin (s.memWrite a.pa a.data) else s)
  else if isPeer a.pa then
    if s.hasRoute (peerOf a.pa) then
      let (_, s) := (s.peerUpdate b a.pa a.data).addMsg (.peer b sid f.id k a.pa a.n (some a.data) none true) [(sid, accLanes f a)]
      fin s
    else if s.fabric.recompute then s
    else fin (s.modSheaf sid (fun sh => sh.modLanes (accLanes f a) (fun _ l => { l with failed := l.failed ++ [a.pa / 128 * 128] })))
  else if a.homeOnly then
    if s.hostHolds a.pa then s.setAcc sid f.id k (.recall 0)
    else fin ((s.homeWrite a.pa a.data (.barn b)).dirtyMark f.ctx a.pte a.pa a.hd)
  else
    let phases := sh.phasesAt a.va.toNat
    if s.storeWaits b a.pa a.n phases.isEmpty then (if phases.isEmpty && s.hostHolds a.pa then s.setAcc sid f.id k (.recall 0) else s)
    else fin (s.l1Store core a.pa a.data f.ctx a.pte a.hd phases sid (accLanes f a))

/-- Whether a store that is no flight of its own can be performed at once (08 R139). -/
def State.storeNow (s : State) (sid core : Nat) (sh : Sheaf) (a : Acc) : Bool :=
  let b := barnOf core
  s.reachable a && !s.behind sid s.nextId (accLanesOf a) a.pa a.n && !s.gatherStuck b a.pa a.n &&
    (if isHost a.pa then s.hostLinkOf sid
      else if isPeer a.pa then s.hasRoute (peerOf a.pa) || !s.fabric.recompute
      else if a.homeOnly then !s.hostHolds a.pa
      else !s.storeWaits b a.pa a.n (sh.phasesAt a.va.toNat).isEmpty)

/-! ### Watchpoints (19 R330) -/

/-- Kinds of an access for the watch descriptors: bit 0 read, 1 write, 2 atomic. -/
def watchHit (watch : List (Nat × Nat × Nat)) (kind va n : Nat) : Option Nat :=
  (watch.zipIdx.find? (fun e => decide (e.1.2.1 ≠ 0 ∧ e.1.1 < va + n ∧ va < e.1.1 + e.1.2.1) && e.1.2.2.testBit kind)).map (·.2)
/-- A watch match traps its sheaf; in a sheaf already frozen it is kept until it resumes, and only an exit drops it
(19 R330). -/
def State.watchTrap (s : State) (sid : Nat) (t : TrapInfo) : State :=
  match s.sheaf? sid with
  | none => s
  | some sh => if sh.frozen then s.setSheaf sid { sh with watchq := sh.watchq ++ [t] } else s.takeTrap sid t none
/-- After an instruction has completed in every lane of E: the first watch match of its accesses traps its sheaf. `whole` are
the lanes that an access of the whole sheaf stands for. -/
def State.watchAccs (s : State) (sid : Nat) (pc : DWord) (path whole : LaneSet) (accs : List Acc) (kind : Nat) : State :=
  match s.sheaf? sid with
  | none => s
  | some sh =>
    let hits := accs.filterMap (fun a => (watchHit sh.watch kind a.va.toNat a.n).map (fun w => (a, w)))
    match hits with
    | [] => s
    | (a, w) :: _ =>
      s.watchTrap sid { code := Cause.watch.code, pc := pc, addr := a.va, path := path, info := BitVec.ofNat 64 w
                        lanes := hits.foldl (fun m h => m ||| (if h.1.lane = 64 then whole else laneBit h.1.lane)) 0
                        fetch := false, engine := false, fail := [] }
def State.checkWatch (s : State) (sid : Nat) (f : Flight) (kind : Nat) : State := s.watchAccs sid f.pc f.path f.path f.accs kind

/-! ### Completion -/

/-- Words of a loaded value of n bytes, extended to a register below 32 bits. -/
def loadWords (sign : Bool) (n : Nat) (bs : List Byte) : List Word :=
  let v := natOfBytes bs
  if n < 4 then [if sign ∧ 2 ^ (8 * n - 1) ≤ v then BitVec.ofNat 32 (v + 2 ^ 32 - 2 ^ (8 * n)) else BitVec.ofNat 32 v]
  else wordsOfBytes bs
/-- The lanes' results of a flight whose accesses are all performed: register, sign of extension. -/
def resultOf (i : Instr) : Option (Reg × Bool) :=
  match i with
  | .ldg _ d .. => some (d, false)
  | .ldgSigned _ d .. => some (d, true)
  | .ldgU _ sx d .. => some (d.reg, sx)
  | .atom _ _ d .. => some (d, false)
  | .cas _ d .. => some (d, false)
  | .wake _ d .. => some (d, false)
  | .fld _ d .. => some (d, false)
  | _ => none
/-- In merge mode a lane reads its own buffered bytes (18 R315, 12 R226). -/
def State.mergeOverlay (s : State) (sh : Sheaf) (a : Acc) (bs : List Byte) : List Byte :=
  match s.stookOf sh with
  | none => bs
  | some k =>
    if k.merge.isEmpty then bs
    else bs.zipIdx.map (fun e =>
      match (k.merge.filter (fun m => m.va == a.va.toNat + e.2 && (a.lane == 64 || m.ordinal == s.ordinal sh a.lane))).getLast? with
      | some m => m.byte
      | none => e.1)
def watchKind (i : Instr) : Nat :=
  match i with
  | .ldg .. | .ldgSigned .. | .ldgU .. => 0
  | .stg .. | .stgU .. => 1
  | .fld .. => 0
  | .fst .. => 1
  | _ => 2

/-- The lanes whose accesses an instruction makes: those of E, for a uniform instruction those of its path (12 R218). -/
def Flight.actors (f : Flight) : LaneSet := if f.instr.cls = .uniform then f.path else f.e
/-- Every access performed: results are written, an acquire acts, the flight ends, watchpoints are compared. -/
def State.completeFlight (s : State) (sid : Nat) (f : Flight) : State :=
  let s := match resultOf f.instr with
    | none => s
    | some (d, sx) =>
      let s := s.modSheaf sid (fun sh => f.accs.foldl (fun (sh : Sheaf) (a : Acc) => match a.st with
        | .done bs => sh.writeGroup d (if a.lane = 64 then 0 else a.lane) 0 (loadWords sx bs.length (s.mergeOverlay sh a bs))
        | _ => sh) sh)
      s.touchRegs sid f.instr.dsts
  let s := match acqScope f.instr with
    | some sc => s.acquire sid f.actors sc
    | none => s
  (s.modSheaf sid (fun sh => sh.dropFlight f.id)).checkWatch sid f (watchKind f.instr)

/-- A release's conditions for a flight: open, closed, or failed lines to report. -/
inductive Rel where
  | waits | clear | failed (l : List Nat)
  deriving DecidableEq, Repr
def State.releaseState (s : State) (sid fid : Nat) (m : LaneSet) (sc : Scope) : Rel :=
  match s.sheaf? sid with
  | none => .waits
  | some sh =>
    if sh.failedLines m ≠ [] then .failed (sh.failedLines m)
    else if s.releaseOpen sid fid m sc then .clear else .waits
/-- Whether an instruction updates words of memory. -/
def isUpdate (i : Instr) : Bool :=
  match i with
  | .atom .. | .cas .. | .red .. => true
  | _ => false
/-- What an instruction waits for before its own accesses: the conditions of a release of its scope (12 R218); the loads
of its lanes, where it acquires as a FENCE does (14 R251); for a WAKE the registrations of its lanes, those of writes that
are still to be performed among them, and nothing else (13 R243). -/
def State.orderState (s : State) (sid fid : Nat) (i : Instr) (m : LaneSet) : Rel :=
  match i, relScope i with
  | .wake .., _ =>
    let early := ((s.sheaf? sid).map (fun sh => (sh.before fid).any (fun f => (isStore f.instr || isUpdate f.instr) && accPending f m))).getD false
    if early || s.owesReg sid m then .waits else .clear
  | _, some sc => s.releaseState sid fid m sc
  | _, none =>
    if (((s.sheaf? sid).map (fun sh => (sh.before fid).any (fun f => accPending f m))).getD false) then .waits else .clear
def State.detOf (s : State) (sh : Sheaf) : Bool :=
  match (s.stookOf sh).bind s.cropOf with
  | some c => c.det
  | none => false
/-- Whether an L1 owns every word of an access. -/
def Barn.ownsAll (b : Barn) (pa n : Nat) : Bool :=
  (wordsOf pa n).all (fun wa => match b.words.find? wa with | some w => w.owned | none => false)
/-- Whether a RED of an operation is gathered (13 R239). -/
def AtomOp_gathers (o : AtomOp) : Bool :=
  match o with
  | .incw | .decw => false
  | _ => true
/-- Whether an access is a RED that its barn's L1 gathers (Table 13.1). -/
def State.gathersAt (s : State) (sh : Sheaf) (i : Instr) (a : Acc) : Bool :=
  match i with
  | .red _ op .. => AtomOp_gathers op && !s.detOf sh && !isHost a.pa && !isPeer a.pa && !a.homeOnly && !s.hostHolds a.pa &&
      !(s.barn (barnOf sh.core)).ownsAll a.pa a.n
  | _ => false
/-- Whether a load not performed yet finds its bytes in its barn's L1. -/
def State.hitNow (s : State) (sid : Nat) (f : Flight) (a : Acc) : Bool :=
  isLoad f.instr && decide (a.st = .queued) && !a.homeOnly &&
    ((s.sheaf? sid).map (fun sh => ((s.barn (barnOf sh.core)).hit a.pa a.n (acqScope f.instr).isSome).isSome)).getD false
/-- Accesses of a flight, not yet performed, that reach owner-lost words; a store, a gathered RED and a load that the L1
serves reach none (12 R221). -/
def State.lostIn (s : State) (sid : Nat) (f : Flight) : List Acc :=
  if isStore f.instr then []
  else f.accs.filter (fun a => (match a.st with | .done _ => false | _ => true) && !isPeer a.pa && !isHost a.pa &&
    (wordsOf a.pa a.n).any (fun wa => s.isLost wa) && !s.hitNow sid f a &&
    !((s.sheaf? sid).map (fun sh => s.gathersAt sh f.instr a)).getD false)
/-- The virtual address of the first owner-lost word of an access. -/
def State.lostVa (s : State) (a : Acc) : DWord :=
  match (wordsOf a.pa a.n).find? (fun wa => s.isLost wa) with
  | some wa => BitVec.ofNat 64 ((a.va.toNat + 4 * wa - a.pa) / 4 * 4)
  | none => a.va
def State.clearLostAll (s : State) (pa n : Nat) : State := (wordsOf pa n).foldl (fun s wa => s.clearLost wa) s
/-- The number of a conversion pair (Table 8.4). -/
def rcvtPair (dt st : Sys2Proof.Ty) : Nat :=
  match dt, st with
  | .f16, .f32 => 0 | .bf16, .f32 => 1 | .e4m3, .f32 => 2 | .e5m2, .f32 => 3 | .s8, .f32 => 4
  | .e4m3, .f16 => 5 | .e5m2, .f16 => 6 | .s8, .f16 => 7 | .e4m3, .bf16 => 8 | .e5m2, .bf16 => 9 | _, _ => 10
/-- The tags that a pop accepts (Table 8.2). -/
def popTags (i : Instr) : List Byte :=
  match i with
  | .unaddF32B32 .. | .unaddX64 .. => [0x20, 0x30]
  | .unmulF32B32 .. => [0x40, 0x50]
  | .unmulS32B32 .. => [0x41, 0x51]
  | .unmulX64 (ty := ty) .. => if ty = .s32 then [0x41, 0x51] else [0x40, 0x50]
  | .uncvt (dt := dt) (st := st) .. =>
    [BitVec.ofNat 8 (0x60 + rcvtPair dt st), BitVec.ofNat 8 (0x70 + rcvtPair dt st)]
  | .unreluF32B32 .. | .unreluX64 .. => [0x80, 0x90]
  | .unshr (ty := ty) .. => if ty = .s32 then [0xA1, 0xB1] else [0xA0, 0xB0]
  | .chpop .. => [0xC0]
  | _ => []
/-- An instruction that pops. -/
def isPop (i : Instr) : Bool := !(popTags i).isEmpty
/-- OWNLOST of a flight (12 R221, 19 R389): the marks that it reports are cleared. A refill names its record (08 R147). -/
def State.lostFault (s : State) (sid : Nat) (f : Flight) : State :=
  match s.lostIn sid f with
  | [] => s
  | a :: r => (if ((s.sheaf? sid).map (·.frozen)).getD false then s
      else (a :: r).foldl (fun s x => s.clearLostAll x.pa x.n) s).faultAt sid f .ownlost
      ((a :: r).foldl (fun m x => m ||| (accLanes f x &&& f.e)) 0) (if popTags f.instr = [] then s.lostVa a else a.va) []

/-- The fault of an access that meets a condition of execution, before any access of the flight is performed: of owner-lost
words and peers that cannot be reached, that of the first access, which is the lowest lane's (02 R393; Tables 12.3 and 13.3). -/
def State.execFault (s : State) (sid : Nat) (f : Flight) : Option State :=
  match f.accs.find? (fun a => (s.goneIn f).contains a || (s.lostIn sid f).contains a) with
  | none => none
  | some a => some (if s.peerGone a.pa then s.goneFault sid f a else s.lostFault sid f)
/-- Performs what a flight of loads or stores can perform now. Before any access of it is performed, a peer that cannot be
reached faults it with nothing performed in any lane (12 R227, Table 12.3, step 10), and stores wait until no route of theirs
is being computed. A refill has performed nothing until its pop takes place (08 R147). -/
def State.performFlight (s : State) (sid : Nat) (f : Flight) : State :=
  if (!f.performed || isPop f.instr) && !(s.goneIn f).isEmpty then (s.execFault sid f).getD s
  else if !f.performed && isStore f.instr && !s.pathsOpen f then s
  else f.accs.zipIdx.foldl (fun s e =>
    match (s.sheaf? sid).bind (fun sh => (sh.flight? f.id).map (fun g => (sh, g))) with
    | none => s
    | some (sh, g) =>
      let k := e.2
      match g.accs[k]? with
      | none => s
      | some a =>
        if !a.st.open || s.behind sid f.id (accLanes f a) a.pa a.n || !s.reachable a || s.gatherStuck (barnOf sh.core) a.pa a.n then s
        else if isStore f.instr then (if g.lowerWaits k a then s else s.performStore sid sh.core sh g k a)
        else if isLoad f.instr || isPop f.instr then s.performLoad sid sh.core g k a
        else s) s

/-- Ends a flight if all its accesses are performed. -/
def State.finishFlight (s : State) (sid fid : Nat) : State :=
  match (s.sheaf? sid).bind (·.flight? fid) with
  | none => s
  | some f =>
    if f.stage = .access ∧ f.accs.all (fun a => match a.st with | .done _ => true | _ => false) then s.completeFlight sid f else s

/-- The same at a reply. One that reaches a parked sheaf is held until the sheaf is on a core again (19 Table 19.10). -/
def State.finishReply (s : State) (sid fid : Nat) : State :=
  if ((s.sheaf? sid).map (fun sh => decide (352 ≤ sh.core))).getD false then s else s.finishFlight sid fid

/-- One attempt at a flight of LDG or STG: its release first, then its accesses, then its end. -/
def State.advanceMem (s : State) (sid fid : Nat) : State :=
  match (s.sheaf? sid).bind (fun sh => (sh.flight? fid).map (fun f => (sh, f))) with
  | none => s
  | some (sh, f) =>
    match f.stage with
    | .releasing =>
      let m := f.actors
      match s.orderState sid fid f.instr m with
      | .waits => s
      | .failed l => (s.clearFailed sid m).faultAt sid f .remfail m (BitVec.ofNat 64 (l.headD 0)) l
      | .clear =>
        let s := match relScope f.instr with
          | some sc => if publishes f.instr then s.publishUpTo (barnOf sh.core) sc else s
          | none => s
        let f' := { f with stage := .access }
        let s := s.modSheaf sid (fun sh => sh.modFlight fid (fun _ => f'))
        (s.performFlight sid f').finishFlight sid fid
    | .access => (s.performFlight sid f).finishFlight sid fid
    | _ => s

end Sys2Proof.Machine
end

