-- ==== Sys2Proof/Machine/Flags.lean ====
section
/-! DEFINITION. Every flag the instructions compute: conditions, their combination with a predicate, saturation, and the
32- and 64-bit arithmetic they come with (05 R92 to R97, R100; 07 R125). -/
namespace Sys2Proof.Machine

open Sys2Proof

/-- ext(x): signed under S types, unsigned under Z types (05 R92). -/
def Ty.signed : Sys2Proof.Ty → Bool
  | .s8 | .s16 | .s32 | .s64 | .s4 => true
  | _ => false
def ext (t : Sys2Proof.Ty) (x : Word) : Int := if Ty.signed t then x.toInt else (x.toNat : Int)
def ext64 (t : Sys2Proof.Ty) (x : Word) : DWord := if Ty.signed t then x.signExtend 64 else x.zeroExtend 64
/-- A result of .SAT clamped to its type's range, or taken modulo 2^32. -/
def satOr (t : Sys2Proof.Ty) (sat : Bool) (x : Int) : Word :=
  if sat then
    if Ty.signed t then BitVec.ofInt 32 (Num.clamp (-2147483648) 2147483647 x) else BitVec.ofInt 32 (Num.clamp 0 4294967295 x)
  else BitVec.ofInt 32 x

/-- Conditions of ICMP and SCMP (Table 5.2). -/
def condHolds (k : Cond) (a b : Int) : Bool :=
  match k with
  | .eq => decide (a = b) | .ne => decide (a ≠ b) | .lt => decide (a < b) | .le => decide (a ≤ b)
  | .gt => decide (b < a) | .ge => decide (b ≤ a)
/-- A condition combined with a predicate (05 R97). -/
def combineWith (k : Combine) (c : Bool) (pred : Pred → Bool) : Bool :=
  match k with
  | .none => c | .and p => c && pred p | .or p => c || pred p | .xor p => c != pred p
/-- Conditions of FCMP (Table 7.2). -/
def fcondHolds (k : FCond) (a b : Num.Val) : Bool :=
  let o := Num.Val.compare a b
  match k with
  | .eq => o == some .eq | .ne => o != some .eq | .lt => o == some .lt | .le => o == some .lt || o == some .eq
  | .gt => o == some .gt | .ge => o == some .gt || o == some .eq | .num => o.isSome | .nan => o.isNone

/-! ### Integer results -/

def iadd (t : Sys2Proof.Ty) (sat : Bool) (a b : Word) : Word := satOr t sat (ext t a + ext t b)
def isub (t : Sys2Proof.Ty) (sat : Bool) (a b : Word) : Word := satOr t sat (ext t a - ext t b)
def iabs (sat : Bool) (a : Word) : Word := satOr .s32 sat (a.toInt.natAbs : Int)
def ineg (sat : Bool) (a : Word) : Word := satOr .s32 sat (-a.toInt)
def imulh (t : Sys2Proof.Ty) (a b : Word) : Word := hiWord (BitVec.ofInt 64 (ext t a * ext t b))
def imin (t : Sys2Proof.Ty) (a b : Word) : Word := if ext t b < ext t a then b else a
def imax (t : Sys2Proof.Ty) (a b : Word) : Word := if ext t a < ext t b then b else a
def imadw (t : Sys2Proof.Ty) (a b : Word) (c : DWord) : DWord := ext64 t a * ext64 t b + c
def lea (t : Sys2Proof.Ty) (a : DWord) (b : Word) (sh : Nat) : DWord := a + ext64 t b <<< sh

/-- A shift count: the whole register, or five bits with .WRAP (05 R94). -/
def shCount (wrap : Bool) (b : Word) : Nat := if wrap then b.toNat % 32 else b.toNat
def shl (a : Word) (n : Nat) : Word := if 32 ≤ n then 0 else a <<< n
def shr (t : Sys2Proof.Ty) (a : Word) (n : Nat) : Word :=
  if Ty.signed t then (if 32 ≤ n then (if a.msb then 0xFFFFFFFF else 0) else a.sshiftRight n)
  else (if 32 ≤ n then 0 else a >>> n)
def shf (a b c : Word) (lft wrap : Bool) : Word :=
  let w := pairOf a b
  let n := if wrap then c.toNat % 64 else Nat.min c.toNat 64
  if lft then hiWord (if 64 ≤ n then 0 else w <<< n) else loWord (if 64 ≤ n then 0 else w >>> n)
def rot (a b : Word) (right : Bool) : Word :=
  if right then a.rotateRight (b.toNat % 32) else a.rotateLeft (b.toNat % 32)

/-- A word from its bits. -/
def wordOfBits (f : Nat → Bool) : Word :=
  (List.range 32).foldl (fun w k => if f k then w ||| BitVec.ofNat 32 (2 ^ k) else w) 0
def tern (lut : BitVec 8) (a b c : Word) : Word :=
  wordOfBits (fun k => lut.getLsbD ((if a.getLsbD k then 4 else 0) + (if b.getLsbD k then 2 else 0) + (if c.getLsbD k then 1 else 0)))
def popc (a : Word) : Word := BitVec.ofNat 32 ((List.range 32).filter (fun k => a.getLsbD k)).length
def clz (a : Word) : Word := BitVec.ofNat 32 (32 - Num.bitLen a.toNat)
def brev (a : Word) : Word := wordOfBits (fun k => a.getLsbD (31 - k))
def bfx (t : Sys2Proof.Ty) (a : Word) (pos len : Nat) : Word :=
  let f := a.toNat / 2 ^ pos % 2 ^ len
  if Ty.signed t ∧ 0 < len ∧ 2 ^ (len - 1) ≤ f then BitVec.ofNat 32 (f + 2 ^ 32 - 2 ^ len) else BitVec.ofNat 32 f
def bfi (a b : Word) (pos len : Nat) : Word :=
  wordOfBits (fun k => if pos ≤ k ∧ k < pos + len then a.getLsbD (k - pos) else b.getLsbD k)

/-- Byte k of a word as an element of 8 bits. -/
def elem8 (signed : Bool) (w : Word) (k : Nat) : Int :=
  let b := wordByte w k
  if signed then b.toInt else (b.toNat : Int)
def idp4 (t : Sys2Proof.Ty) (bz : Bool) (a b c : Word) : Word :=
  BitVec.ofInt 32 ((c.toNat : Int) + ((List.range 4).map (fun k =>
    elem8 (Ty.signed t) a k * elem8 (!bz) b k)).foldl (· + ·) 0)

end Sys2Proof.Machine
end

