-- ==== Sys2Proof/Machine/Control.lean ====
section
/-! DEFINITION. Branches, calls, exits, masks and the holds on them (04 R63 to R82). -/
namespace Sys2Proof.Machine

open Sys2Proof

/-- A branch of the lanes of E. -/
def jumpDone (s : State) (f : Nat → DWord) : Done := { st := s, target := some f, branch := true }
/-- R29: the lanes of E whose target is not a multiple of 4. -/
def badTarget (k : Ctx) (a : Reg) : Option TrapInfo :=
  let bad := laneSetOf 64 (fun l => k.e.getLsbD l && (k.pairA a l).toNat % 4 != 0)
  if bad = 0 then none else some (k.trap .align bad (k.pairA a (lowestLane bad)))
/-- BRX and RET (04 R76, R78). -/
def goTo (s : State) (k : Ctx) (a : Reg) : Except TrapInfo Done :=
  match badTarget k a with
  | some t => .error t
  | none => .ok (jumpDone s (fun l => k.pairA a l))
/-- CALL and CALLX: the link is the address of the first byte plus 8. -/
def linkDone (s : State) (k : Ctx) (d : Reg) (f : Nat → DWord) : Done :=
  let link := k.pc + 8
  { groupDone s k d (fun _ => [loWord link, hiWord link]) with target := some f, branch := true, val := [] }
/-- EXIT (04 R79); the lane's chaff entries are discarded (08 R149). -/
def exitDone (s : State) (k : Ctx) : Done :=
  { st := s.modSheaf k.sid (fun sh => sh.modLanes k.e (fun _ l => { l with exited := true, hold := .none, depth := 0, chip := [] })) }
/-- A write to a mask: once for the sheaf (04 R65, R66). -/
def maskDone (s : State) (k : Ctx) (m : Fin 12) (v : LaneSet) : Done :=
  { st := s.modSheaf k.sid (fun sh => sh.setMask m v) }
/-- A hold record; for a JOIN with its address. -/
def Lane.holdAt (l : Lane) (h : Hold) : Lane :=
  match h with
  | .join _ a _ => { l with hold := h, joinAt := a }
  | _ => { l with hold := h }
/-- JOIN and WAITM hold the lanes of E that are in the mask; the others pass (04 R71, R73). -/
def holdDone (s : State) (k : Ctx) (m : Fin 12) (h : Hold) : Done :=
  let held := k.e &&& k.sh.mask m
  { st := s.modSheaf k.sid (fun sh => sh.modLanes held (fun _ l => l.holdAt h)), stay := held }
/-- MKLOG (Table 4.2). -/
def mklogOf (k : Ctx) (x : MkLog) : LaneSet :=
  match x with
  | .and a b => k.sh.mask a &&& k.sh.mask b
  | .or a b => k.sh.mask a ||| k.sh.mask b
  | .andn a b => k.sh.mask a &&& ~~~k.sh.mask b
  | .xor a b => k.sh.mask a ^^^ k.sh.mask b
  | .mov a => k.sh.mask a
  | .clr => 0
  | .not a => k.sh.full &&& ~~~k.sh.mask a


/-- 04 R75. -/
def execBraB32 (g : Pred) (off : BitVec 22) (s : State) : Out :=
  issue (.braB32 g off) s (fun k => .ok (jumpDone s (fun _ => k.pc + (off.signExtend 64 <<< 2))))
/-- 04 R78. -/
def execRetB32 (g : Pred) (a : Reg) (s : State) : Out :=
  issue (.retB32 g a) s (fun k => goTo s k a)
/-- 04 R79. -/
def execExitB32 (g : Pred) (s : State) : Out :=
  issue (.exitB32 g) s (fun k => .ok (exitDone s k))
/-- 04 R80. -/
def execYieldB32 (g : Pred) (s : State) : Out :=
  issue (.yieldB32 g) s (fun k => .ok { st := s.modSheaf k.sid (fun sh => { sh with yielded := true }) })
/-- 04 R81. -/
def execNopB32 (g : Pred) (s : State) : Out :=
  issue (.nopB32 g) s (fun _ => .ok { st := s })
/-- 04 R68. -/
def execMkcurB32 (g : Pred) (m : Fin 12) (s : State) : Out :=
  issue (.mkcurB32 g m) s (fun k => .ok (maskDone s k m k.e))
/-- 04 R71. -/
def execJoinB32 (g : Pred) (m : Fin 12) (s : State) : Out :=
  issue (.joinB32 g m) s (fun k => .ok (holdDone s k m (.join m k.pc k.len)))
/-- 04 R72. -/
def execLeaveB32 (g : Pred) (m : Fin 12) (s : State) : Out :=
  issue (.leaveB32 g m) s (fun k => .ok (maskDone s k m (k.sh.mask m &&& ~~~k.e)))
/-- 04 R75. -/
def execBraI64 (g : Pred) (imm : Word) (s : State) : Out :=
  issue (.braI64 g imm) s (fun k => .ok (jumpDone s (fun _ => k.pc + (imm.signExtend 64 <<< 2))))
/-- 04 R77. -/
def execCall (g : Pred) (d : Reg) (imm : Word) (s : State) : Out :=
  issue (.call g d imm) s (fun k => .ok (linkDone s k d (fun _ => k.pc + (imm.signExtend 64 <<< 2))))
/-- 04 R76. -/
def execBrx (g : Pred) (a : Reg) (s : State) : Out :=
  issue (.brx g a) s (fun k => goTo s k a)
/-- 04 R77. -/
def execCallx (g : Pred) (d : Reg) (a : Reg) (s : State) : Out :=
  issue (.callx g d a) s (fun k => match badTarget k a with
    | some t => .error t
    | none => .ok (linkDone s k d (fun l => k.pairA a l)))
/-- 04 R78. -/
def execRetX64 (g : Pred) (a : Reg) (s : State) : Out :=
  issue (.retX64 g a) s (fun k => goTo s k a)
/-- 04 R79. -/
def execExitX64 (g : Pred) (s : State) : Out :=
  issue (.exitX64 g) s (fun k => .ok (exitDone s k))
/-- 04 R80. -/
def execYieldX64 (g : Pred) (s : State) : Out :=
  issue (.yieldX64 g) s (fun k => .ok { st := s.modSheaf k.sid (fun sh => { sh with yielded := true }) })
/-- 04 R81. -/
def execNopX64 (g : Pred) (s : State) : Out :=
  issue (.nopX64 g) s (fun _ => .ok { st := s })
/-- 04 R68. -/
def execMkcurX64 (g : Pred) (m : Fin 12) (s : State) : Out :=
  issue (.mkcurX64 g m) s (fun k => .ok (maskDone s k m k.e))
/-- 04 R70. -/
def execMktos (g : Pred) (d : Reg) (m : Fin 12) (s : State) : Out :=
  lane2 (.mktos g d m) s d (fun k _ => k.sh.mask m)
/-- 04 R70. -/
def execStomk (g : Pred) (m : Fin 12) (a : Reg) (s : State) : Out :=
  issue (.stomk g m a) s (fun k => .ok (maskDone s k m (k.pairA a (lowestLane k.e))))
/-- 04 R71. -/
def execJoinX64 (g : Pred) (m : Fin 12) (s : State) : Out :=
  issue (.joinX64 g m) s (fun k => .ok (holdDone s k m (.join m k.pc k.len)))
/-- 04 R72. -/
def execLeaveX64 (g : Pred) (m : Fin 12) (s : State) : Out :=
  issue (.leaveX64 g m) s (fun k => .ok (maskDone s k m (k.sh.mask m &&& ~~~k.e)))
/-- 04 R73. -/
def execWaitm (g : Pred) (m : Fin 12) (s : State) : Out :=
  issue (.waitm g m) s (fun k => .ok (holdDone s k m (.waitm m)))
/-- 04 R69. -/
def execMklog (g : Pred) (d : Fin 12) (x : MkLog) (s : State) : Out :=
  issue (.mklog g d x) s (fun k => .ok (maskDone s k d (mklogOf k x)))

/-! ### Release of held lanes (04 R71 to R74) -/

/-- The lanes of a mask that have not exited and are not held on it as `f` says. -/
def notArrived (sh : Sheaf) (m : Fin 12) (f : Hold → Bool) : LaneSet :=
  laneSetOf sh.width (fun l => (sh.mask m).getLsbD l && !(sh.lane l).exited && !f (sh.lane l).hold)
/-- A released lane stands at the instruction after its hold, its latches invalid: a JOIN's record keeps its length, a WAITM
has 8 bytes. -/
def freeLane (l : Lane) : Lane :=
  let next := match l.hold with
    | .join _ x len => x + BitVec.ofNat 64 len
    | .waitm _ => l.pc + 8
    | .none => l.pc
  { l.killLatches with hold := .none, pc := next }
/-- The release checks of JOIN and WAITM on one mask. -/
def releaseMask (sh : Sheaf) (m : Fin 12) : Sheaf :=
  let onJoin (h : Hold) : Bool := match h with | .join m' _ _ => decide (m' = m) | _ => false
  let onWait (h : Hold) : Bool := match h with | .waitm m' => decide (m' = m) | _ => false
  let joined := laneSetOf sh.width (fun l => !(sh.lane l).exited && onJoin (sh.lane l).hold)
  let waiting := laneSetOf sh.width (fun l => !(sh.lane l).exited && onWait (sh.lane l).hold)
  let need := sh.mask m &&& sh.live
  let free (sh : Sheaf) (r : LaneSet) : Sheaf := sh.modLanes r (fun _ l => freeLane l)
  let sh' :=
    if joined = 0 then sh
    else if need = 0 then free sh joined
    else
      let x := match (sh.lane (lowestLane need)).hold with
        | .join _ a _ => a
        | _ => 0
      let atX (h : Hold) : Bool := match h with | .join m' a _ => decide (m' = m) && a == x | _ => false
      if notArrived sh m atX = 0 then free sh (laneSetOf sh.width (fun l => joined.getLsbD l && atX (sh.lane l).hold)) else sh
  if waiting = 0 then sh'
  else if notArrived sh m onWait = 0 then free sh' waiting
  else sh'
/-- Every mask's release checks at the end of a cycle; a frozen sheaf's are not made (04 R82). -/
def releaseHolds (sh : Sheaf) : Sheaf :=
  if sh.frozen then sh else (List.finRange 12).foldl releaseMask sh

end Sys2Proof.Machine
end

