-- ==== Sys2Proof/Machine/Mem.lean ====
section
/-! DEFINITION. Loads, stores, invalidations, phases, prefetch and fences (12 R225 to R231, 14 R250, R251). -/
namespace Sys2Proof.Machine

open Sys2Proof

/-- The address of a lane: the pair and the offset sign-extended (02 R39). -/
def Ctx.addr (k : Ctx) (a : Reg) (off : BitVec 15) (l : Nat) : DWord := k.pairA a l + off.signExtend 64
def laneAddrs (k : Ctx) (a : Reg) (off : BitVec 15) : List (Nat × DWord) := (lanesOf k.e).map (fun l => (l, k.addr a off l))
def uniAddr (k : Ctx) (a : SReg) (off : BitVec 15) : List (Nat × DWord) := [(64, k.addr a.reg off 0)]
/-- The lanes whose address is not a multiple of n; a uniform access stands for the lanes of E. -/
def misaligned (k : Ctx) (as : List (Nat × DWord)) (n : Nat) : Option TrapInfo :=
  match as.filter (fun e => e.2.toNat % n != 0) with
  | [] => none
  | b :: r => some (k.trap .align (if b.1 = 64 then k.e else lanesSet ((b :: r).map (·.1))) b.2)
def Ctx.xTrap (k : Ctx) (c : Cause) (lanes : LaneSet) (addr : DWord) : TrapInfo := k.trap c (if lanes = 0 then k.e else lanes) addr
/-- The accesses of a flight, none performed. -/
def queuedAccs (l : List (Nat × DWord × Nat × Nat × Nat × Bool)) (n : Nat) (data : Nat → List Byte) : List Acc :=
  l.map (fun (lane, va, pa, pte, hd, ho) => ⟨lane, va, pa, n, pte, hd, ho, data lane, .queued⟩)
/-- Starts the accesses of an instruction and performs what can be performed at once. -/
def startMem (i : Instr) (s : State) (k : Ctx) (accs : List Acc) : Done :=
  let (fid, s) := s.addFlight k i (if (relScope i).isSome then .releasing else .access) false accs
  { st := s.advanceMem k.sid fid }

/-- LDG (12 R226, Table 12.3). -/
def loadBody (i : Instr) (s : State) (k : Ctx) (as : List (Nat × DWord)) (size : Size) : Except TrapInfo Done :=
  match misaligned k as size.bytes with
  | some t => .error t
  | none =>
    match s.xlateLanes (some k.sh.core) k.ctx .read as with
    | (.trap c m addr, _) => .error (k.xTrap c m addr)
    | (.park l, s) => .ok { st := s.parkAt k i l }
    | (.ok l, s) => .ok (startMem i s k (queuedAccs l size.bytes (fun _ => [])))

/-- Merge mode: a plain store goes into its stook's buffer (18 R315). -/
def bufferStore (s : State) (k : Ctx) (l : List Acc) : State :=
  (s.mergeBuffer k.sh.uid (l.flatMap (fun a => s.mergeBytes k.sid k.sh k.path a))).watchAccs k.sid k.pc k.path k.path l 1

/-- STG (12 R226, Table 12.3): write ranges are checked after translation. -/
def storeBody (i : Instr) (s : State) (k : Ctx) (as : List (Nat × DWord)) (data : Nat → List Word) (size : Size) (rel : Bool) :
    Except TrapInfo Done :=
  match misaligned k as size.bytes with
  | some t => .error t
  | none =>
    match s.xlateLanes (some k.sh.core) k.ctx .write as with
    | (.trap c m addr, _) => .error (k.xTrap c m addr)
    | (.park l, s) => .ok { st := s.parkAt k i l }
    | (.ok l, s) =>
      let accs := queuedAccs l size.bytes (fun lane => (bytesOfWords (data lane)).take size.bytes)
      match s.stookOf k.sh, (s.stookOf k.sh).bind s.cropOf with
      | some st, some c =>
        match accs.filter (fun a => st.storeRefused c a.va.toNat a.n) with
        | a :: r => .error (k.xTrap .wrange (lanesSet ((a :: r).map (·.lane))) a.va)
        | [] =>
          if (s.mergeKey k.sh).isSome && !rel && !accs.any (fun a => s.behind k.sid s.nextId (if a.lane = 64 then k.path else laneBit a.lane) a.pa a.n) then .ok { st := bufferStore s k accs }
          else .ok (startMem i s k accs)
      | _, _ => .ok (startMem i s k accs)

/-- The ranges of INVR, PHBEG, PHEND and PFL1: address and length of each lane of E. -/
def laneRanges (k : Ctx) (a b : Reg) (off : BitVec 15) : List (Nat × DWord × Nat) :=
  (lanesOf k.e).map (fun l => (l, k.addr a off l, (k.opB b l 0).toNat))

/-- INVR drops unowned words of the lines that its ranges overlap (12 R228). -/
def State.invLines (s : State) (b pa n : Nat) (sc : Scope) : State :=
  let bn := s.barn b
  let inRange (wa : Nat) : Bool := decide (pa / 128 ≤ wa / 32 ∧ wa / 32 ≤ (pa + n - 1) / 128)
  let kept := bn.inva sc
  s.setBarn b { bn with words := bn.words.filter (fun e => !inRange e.1 || (kept.words.find? e.1).isSome) }
def invrBody (i : Instr) (s : State) (k : Ctx) (a b : Reg) (sc : Scope) (off : BitVec 15) : Except TrapInfo Done :=
  let ps := (laneRanges k a b off).flatMap (fun e => (pieces e.2.1.toNat e.2.2).map (fun p => (e.1, p.1, p.2)))
  match s.xlateLanes (some k.sh.core) k.ctx .read (ps.map (fun p => (p.1, p.2.1))) with
  | (.trap c m addr, _) => .error (k.xTrap c m addr)
  | (.park l, s) => .ok { st := s.parkAt k i l }
  | (.ok l, s) =>
    .ok { st := (l.zip (ps.map (fun p => p.2.2))).foldl (fun s e => s.invLines (barnOf k.sh.core) e.1.2.2.1 e.2 sc) s }

/-- PHBEG and PHEND check every lane's address and length (Table 12.3, step 7; 02 R393). -/
def phaseAlign (k : Ctx) (a b : Reg) (off : BitVec 15) : Option TrapInfo :=
  match (laneRanges k a b off).filter (fun e => e.2.1.toNat % 128 != 0 || e.2.2 % 128 != 0) with
  | [] => none
  | x :: r => some (k.trap .align (lanesSet ((x :: r).map (·.1))) x.2.1)
def phbegBody (s : State) (k : Ctx) (a b : Reg) (off : BitVec 15) : Except TrapInfo Done :=
  match phaseAlign k a b off, (laneRanges k a b off).head? with
  | some t, _ => .error t
  | none, none => .ok { st := s }
  | none, some (_, va, len) =>
    if len = 0 ∨ 2 ≤ k.sh.phases.length then .ok { st := s }
    else
      let (id, s) := s.fresh
      .ok { st := s.modSheaf k.sid (fun sh => { sh with phases := sh.phases ++ [⟨id, va, len⟩] }) }
def phendBody (i : Instr) (s : State) (k : Ctx) (a b : Reg) (off : BitVec 15) : Except TrapInfo Done :=
  match phaseAlign k a b off, (laneRanges k a b off).head? with
  | some t, _ => .error t
  | none, none => .ok { st := s }
  | none, some (_, va, len) =>
    let s := match k.sh.phases.find? (fun p => p.va == va && p.len == len) with
      | some p => (s.registerPhases k.sh.core (fun id => id == p.id) k.sid k.path).modSheaf k.sid (fun sh =>
          { sh with phases := sh.phases.filter (fun q => q.id != p.id) })
      | none => s
    .ok (startMem i s k [])

/-- PFL1 installs the lines of a range that translate, unowned: one of this device at once if a way is free or makes way,
one of a peer when its home answers (12 R231). -/
def State.prefetch (s : State) (core ctx va n : Nat) : State :=
  (pieces va n).foldl (fun s p =>
    match s.probe (some core) ctx p.1 with
    | (.ok pa pte hd ho, s) =>
      let lo := pa / 128 * 128
      let hi := (pa + p.2 + 127) / 128 * 128
      if isHost pa || ho || s.dieWaits hd || (isPeer pa && !s.hasRoute (peerOf pa)) then s
      else
        (List.range ((hi - lo) / 128)).foldl (fun s j =>
          let line := lo / 128 + j
          if isPeer pa then (s.addMsg (.pfl (barnOf core) line ctx pte hd true) []).2
          else if !s.roomFor (barnOf core) line then s
          else
          let cls := ((writerClass (s.home line).last (barnOf core)).getD .bn)
          s.installWords (barnOf core) (128 * line) 128 cls ctx pte hd) s
    | (_, s) => s) s
def pfl1All (s : State) (k : Ctx) (a b : Reg) (off : BitVec 15) : State :=
  (laneRanges k a b off).foldl (fun s e => s.prefetch k.sh.core k.ctx e.2.1.toNat (Nat.min e.2.2 524288)) s

/-- FENCE holds its lanes until it completes (14 R251): every earlier load has returned; a release waits for R218 and
publishes gather copies; an acquire performs its invalidation. -/
def State.advanceFence (s : State) (sid fid : Nat) : State :=
  match (s.sheaf? sid).bind (fun sh => (sh.flight? fid).map (fun f => (sh, f))) with
  | none => s
  | some (sh, f) =>
    let rel := (relScope f.instr).isSome
    let loads := (sh.before fid).any (fun x => accPending x f.e)
    if rel then
      match s.releaseState sid fid f.e ((relScope f.instr).getD .sh) with
      | .waits => s
      | .failed l => (s.clearFailed sid f.e).faultAt sid f .remfail f.e (BitVec.ofNat 64 (l.headD 0)) l
      | .clear =>
        let s := s.publishUpTo (barnOf sh.core) ((relScope f.instr).getD .sh)
        let s := match acqScope f.instr with
          | some sc => s.acquire sid f.e sc
          | none => s
        s.moveOn sid f f.path
    else if loads then s
    else
      let s := match acqScope f.instr with
        | some sc => s.acquire sid f.e sc
        | none => s
      s.moveOn sid f f.path
/-- The lanes outside E pass the FENCE; those of E stand at it until it completes. -/
def fenceBody (i : Instr) (s : State) (k : Ctx) : Except TrapInfo Done :=
  let c := { k with path := k.e }
  let (fid, s) := s.addFlight c i .waiting true []
  let s := s.advanceFence k.sid fid
  let open_ := match (s.sheaf? k.sid).bind (fun sh => sh.flight? fid) with
    | some _ => true
    | none => false
  let frozen := match s.sheaf? k.sid with
    | some sh => sh.frozen
    | none => true
  .ok { st := s, stay := if (open_ || frozen) && k.replay.isNone then k.e else 0 }


/-- 12 R226. -/
def execLdg (g : Pred) (d : Reg) (a : Reg) (size : Size) (scope : Scope) (acq : Bool) (off : BitVec 15) (s : State) : Out :=
  issue (.ldg g d a size scope acq off) s (fun k => loadBody (.ldg g d a size scope acq off) s k (laneAddrs k a off) size)
/-- 12 R226. -/
def execLdgSigned (g : Pred) (d : Reg) (a : Reg) (size : Size) (scope : Scope) (acq : Bool) (off : BitVec 15) (s : State) : Out :=
  issue (.ldgSigned g d a size scope acq off) s (fun k => loadBody (.ldgSigned g d a size scope acq off) s k (laneAddrs k a off) size)
/-- 12 R226. -/
def execLdgU (g : Pred) (sx : Bool) (d : SReg) (a : SReg) (size : Size) (scope : Scope) (acq : Bool) (off : BitVec 15) (s : State) : Out :=
  issue (.ldgU g sx d a size scope acq off) s (fun k => loadBody (.ldgU g sx d a size scope acq off) s k (uniAddr k a off) size)
/-- 12 R226. -/
def execStg (g : Pred) (a : Reg) (b : Reg) (size : Size) (scope : Scope) (rel : Bool) (off : BitVec 15) (s : State) : Out :=
  issue (.stg g a b size scope rel off) s (fun k => storeBody (.stg g a b size scope rel off) s k (laneAddrs k a off) (fun l => (List.range size.regs).map (fun j => k.opB b l j)) size rel)
/-- 12 R226. -/
def execStgU (g : Pred) (a : SReg) (b : SReg) (size : Size) (scope : Scope) (rel : Bool) (off : BitVec 15) (s : State) : Out :=
  issue (.stgU g a b size scope rel off) s (fun k => storeBody (.stgU g a b size scope rel off) s k (uniAddr k a off) (fun _ => (List.range size.regs).map (fun j => k.opB b.reg 0 j)) size rel)
/-- 12 R228. -/
def execInvr (g : Pred) (a : Reg) (b : Reg) (scope : Scope) (off : BitVec 15) (s : State) : Out :=
  issue (.invr g a b scope off) s (fun k => invrBody (.invr g a b scope off) s k a b scope off)
/-- 12 R228. -/
def execInva (g : Pred) (scope : Scope) (s : State) : Out :=
  issue (.inva g scope) s (fun k => .ok { st := s.inva (barnOf k.sh.core) scope })
/-- 12 R229. -/
def execPhbeg (g : Pred) (a : Reg) (b : Reg) (off : BitVec 15) (s : State) : Out :=
  issue (.phbeg g a b off) s (fun k => phbegBody s k a b off)
/-- 12 R230. -/
noncomputable def execPhend (g : Pred) (a : Reg) (b : Reg) (off : BitVec 15) (s : State) : Out :=
  issue (.phend g a b off) s (fun k => phendBody (.phend g a b off) s k a b off)
/-- 12 R231. -/
noncomputable def execPfl1 (g : Pred) (a : Reg) (b : Reg) (off : BitVec 15) (s : State) : Out :=
  issue (.pfl1 g a b off) s (fun k => .ok { st := pfl1All s k a b off })
/-- 14 R251. -/
noncomputable def execFence (g : Pred) (order : Order) (scope : Scope) (s : State) : Out :=
  issue (.fence g order scope) s (fun k => fenceBody (.fence g order scope) s k)

end Sys2Proof.Machine
end

