-- ==== Sys2Proof/Machine/Atomics.lean ====
section
/-! DEFINITION. Atomics, reductions and waiting on addresses (13 R232 to R243). -/
namespace Sys2Proof.Machine

open Sys2Proof

/-- The address of an atomic's lane; in SPACE 4 there is none. -/
def gOffset (off : GOff) : Option (BitVec 15) :=
  match off with
  | .off o => some o
  | .fit _ => none

/-! ### The work of an atomic on a word (13 R233, R235, R236) -/

/-- The lanes applied in ascending order: each one's old value, and the value left. -/
def applyLanes (f : Nat → List Byte → Nat) : Nat → List AtLane → List (Nat × Nat) × Nat
  | v, [] => ([], v)
  | v, l :: ls =>
    let (r, w) := applyLanes f (f v l.data) ls
    ((l.lane, v) :: r, w)
/-- The new value of a word under a lane's operand of n bytes. -/
def AtWork.step (w : AtWork) (n v : Nat) (d : List Byte) : Nat :=
  match w with
  | .op o => o.apply (8 * n) v (natOfBytes d)
  | .red o => o.apply (8 * n) v (natOfBytes d)
  | .cas => if v = natOfBytes (d.take n) then natOfBytes (d.drop n) else v
  | _ => v

/-- The work that an instruction asks of a word; RED of a deterministic crop is an ATOM whose result is dropped
(18 R304). -/
def workOf (i : Instr) (det : Bool) : AtWork :=
  match i with
  | .atom _ op .. => .op op
  | .red _ op .. => if det then .op op else .red op
  | .waita .. => .waita
  | .wake .. => .wake
  | _ => .cas

/-- Results of lanes at one word: their accesses are performed with the old values. -/
def State.giveOld (s : State) (sid fid pa n : Nat) (r : List (Nat × Nat)) : State :=
  s.modSheaf sid (fun sh => sh.modFlight fid (fun f => { f with
    performed := true
    accs := f.accs.map (fun a => if a.pa = pa then (match r.lookup a.lane with
      | some v => { a with st := .done (bytesOf n v) }
      | none => a) else a) }))

/-- A contribution to a gather copy of the issuing barn. -/
def State.gatherInto (s : State) (b pa : Nat) (op : AtomOp) (size : Size) (sc : Scope) (ctx pte hd v : Nat) : State :=
  let bits := 8 * size.bytes
  let s := (s.barn b).gather.foldl (fun s e =>
    if e.1 < pa + size.bytes ∧ pa < e.1 + e.2.size.bytes ∧ ¬(e.1 = pa ∧ e.2.op = op ∧ e.2.size = size) then s.publish b e.1 else s) s
  let bn := s.barn b
  let g : Gather := (bn.gather.find? pa).getD ⟨op, size, BitVec.ofNat 64 (op.identity bits), sc, ctx, pte, hd⟩
  let g := { g with value := BitVec.ofNat 64 (op.gatherOp.apply bits g.value.toNat (op.contribution bits v)), scope := g.scope.max sc }
  s.setBarn b { bn with gather := bn.gather.put pa g }

/-- The atomics that the device requests of the host: Swap, FetchAdd and CAS of 32 and 64 bits (20 R340). -/
def AtWork.hostAsks (w : AtWork) (n : Nat) : Bool :=
  (n == 4 || n == 8) && (match w with
    | .op o | .red o => o == .exch || o == .add
    | .cas => true
    | _ => false)
/-- An atomic on a word of host memory. One that the device cannot request has no stated result: the old values and the
word are free (log 114). -/
def State.hostAtomic (s : State) (sid fid pa n : Nat) (w : AtWork) (lanes : List AtLane) : State :=
  if w.hostAsks n then
    let (r, v) := applyLanes (w.step n) (natOfBytes (Machine.memRead s.mem pa n)) lanes
    (s.memWrite pa (bytesOf n v)).giveOld sid fid pa n r
  else
    let (s, r) := lanes.foldl (fun (acc : State × List (Nat × Nat)) l =>
      let (bs, s) := acc.1.freeBytes n
      (s, acc.2 ++ [(l.lane, natOfBytes bs)])) (s, [])
    let (bs, s) := s.freeBytes n
    (s.memWrite pa bs).giveOld sid fid pa n r
/-- A request of some lanes goes to the home or the peer; where the host holds the half its lanes are parked (12 R224). -/
def State.sendAtomic (s : State) (sid : Nat) (sh : Sheaf) (f : Flight) (pa n : Nat) (acc : Acc) (w : AtWork) (ls : List AtLane) : State :=
  let held := s.hostHolds pa
  let (m, s) := s.addMsg (.atomic (barnOf sh.core) sid f.id pa n acc.hd f.ctx acc.pte w (acqScope f.instr) ls)
    [(sid, lanesSet (ls.map (·.lane)))]
  s.modSheaf sid (fun sh => sh.modFlight f.id (fun f => { f with
    performed := f.performed || isPeer pa
    accs := f.accs.map (fun a => if a.pa = pa ∧ ls.any (fun l => l.lane = a.lane) then
      { a with st := if held then .recall m else .sent m } else a) }))
/-- A RED goes to a peer's home, and its value there is not known here: the L1 evicts the line, whose words of a peer are
unowned copies, so that a later load of the lane returns nothing older (12 R226, 14 R245; DESIGN CHOICE, log 124). -/
def State.peerRed (s : State) (b pa n : Nat) (w : AtWork) : State :=
  match w with
  | .red _ =>
    let bn := s.barn b
    (s.setBarn b { bn with words := bn.words.filter (fun e => lineOf e.1 != pa / 128) }).peerUpdate b pa (List.replicate n 0)
  | _ => s
/-- One word of an atomic, at the place that Table 13.1 gives: host memory, a peer's home, the owner L1, a gather copy,
or the home. A gather copy of the barn over the word is published first (13 R239). Table 13.1 has no row for a phase word of the
barn, which goes home first, nor for a 64-bit word of which the barn owns one half, which the home or a gather copy
performs (DESIGN CHOICE, log 123). -/
def State.performWord (s : State) (sid : Nat) (sh : Sheaf) (f : Flight) (pa n : Nat) (acc : Acc) (lanes : List AtLane) : State :=
  let b := barnOf sh.core
  let w := workOf f.instr (s.detOf sh)
  let send (s : State) (ls : List AtLane) : State := s.sendAtomic sid sh f pa n acc w ls
  if s.phaseHeld b pa n then s
  else
  let s := s.phaseBack b pa n
  match w with
  | .waita => lanes.foldl (fun s l => send s [l]) (s.publishAt b pa n)
  | .wake => send (s.publishAt b pa n) lanes
  | _ =>
    if isHost pa then (if s.hostLinkOf sid then s.hostAtomic sid f.id pa n w lanes else s)
    else if isPeer pa then (send s lanes).peerRed b pa n w
    else if !acc.homeOnly && !s.hostHolds pa && (s.barn b).ownsAll pa n then
      let s := s.publishAt b pa n
      match (s.barn b).hit pa n false with
      | none =>
        if (wordsOf pa n).any (fun wa => s.unrecorded b wa) then s
        else
          let (r, v) := applyLanes (w.step n) (natOfBytes ((s.barn b).overlay pa (s.cohRead pa n))) lanes
          (s.l1Store sh.core pa (bytesOf n v) f.ctx acc.pte acc.hd [] sid (lanesSet (lanes.map (·.lane)))).giveOld sid f.id pa n r
      | some (bs, _) =>
        let (r, v) := applyLanes (w.step n) (natOfBytes bs) lanes
        (s.l1Store sh.core pa (bytesOf n v) f.ctx acc.pte acc.hd [] sid (lanesSet (lanes.map (·.lane)))).giveOld sid f.id pa n r
    else match w, f.instr with
      | .red op, .red _ _ _ _ size sc _ _ =>
        if s.gathersAt sh f.instr acc then
          if s.roomFor b (pa / 128) then
            (lanes.foldl (fun s l => s.gatherInto b pa op size sc f.ctx acc.pte acc.hd (natOfBytes l.data)) (s.makeRoom b (pa / 128))).giveOld
              sid f.id pa n (lanes.map (fun l => (l.lane, 0)))
          else s
        else if AtomOp_gathers op then send (s.publishAt b pa n) lanes
        else send (s.publishAt b pa n) (lanes.take 1)
      | _, _ => send (s.publishAt b pa n) lanes

def AccSt.isDone (x : AccSt) : Bool := match x with | .done _ => true | _ => false
/-- What a fault would have to undo: words of peers come first, so that a peer that fails finds nothing of the
instruction performed on this device (13 R238). -/
def Flight.peersFirst (f : Flight) (a : Acc) : Bool :=
  match f.instr with
  | .waita .. => false
  | _ => !isPeer a.pa && f.accs.any (fun x => isPeer x.pa && !x.st.isDone)
/-- Writes that may not have been performed at a peer: the lanes' next release raises REMFAIL (12 R223). -/
def State.peerWriteFailed (s : State) (pa : Nat) (w : List (Nat × LaneSet)) : State :=
  w.foldl (fun s e => s.modSheaf e.1 (fun sh => sh.modLanes (e.2 &&& sh.full) (fun _ l =>
    { l with failed := l.failed ++ [pa / 128 * 128] }))) s
/-- An access of a flight to a peer that cannot be reached, made for some lanes: REMFAIL, with nothing performed in any lane
(13 R238). Where another word of an atomic has been performed already, that cannot be undone: the word counts as a failed
write of the lanes (12 R223), and their old values are free (DESIGN CHOICE, log 125). -/
def State.peerLost (s : State) (sid : Nat) (f : Flight) (a : Acc) (lanes : List Nat) : State :=
  match f.instr, f.accs.any (fun x => x.st.isDone) with
  | .waita .., _ => s.goneFault sid f a
  | i, done =>
    if done && (isUpdate i || relScope i = some .sh) then
      let (s, r) := lanes.foldl (fun (acc : State × List (Nat × Nat)) l =>
        let (bs, s) := acc.1.freeBytes a.n
        (s, acc.2 ++ [(l, natOfBytes bs)])) (s, [])
      ((s.peerWriteFailed a.pa [(sid, lanesSet lanes)]).giveOld sid f.id a.pa a.n r).finishFlight sid f.id
    else s.goneFault sid f a
/-- The accesses of a flight grouped by word, lanes ascending: those still queued and not behind another access. An INCW
or DECW at the home goes lane by lane (13 R239). Nothing is performed while a route of the instruction is being computed. -/
def State.performAtomics (s : State) (sid : Nat) (f : Flight) : State :=
  if !f.performed && !s.pathsOpen f then s
  else (f.accs.filter (fun a => decide (a.st = .queued))).foldl (fun s a =>
    match (s.sheaf? sid).bind (fun sh => (sh.flight? f.id).map (fun g => (sh, g))) with
    | none => s
    | some (sh, g) =>
      let same := g.accs.filter (fun x => decide (x.pa = a.pa ∧ x.st = .queued))
      let underWay := g.accs.any (fun x => decide (x.pa = a.pa) && !x.st.isDone && decide (x.st ≠ .queued))
      if same.isEmpty || underWay || g.peersFirst a then s
      else if same.any (fun x => s.behind sid f.id (laneBit x.lane) x.pa x.n) || !s.reachable a || s.gatherStuck (barnOf sh.core) a.pa a.n then s
      else if isPeer a.pa && !s.hasRoute (peerOf a.pa) then
        if s.fabric.recompute then s else s.peerLost sid g a (same.map (·.lane))
      else s.performWord sid sh g a.pa a.n a (same.map (fun x => ⟨x.lane, x.data⟩))) s

/-- Before any word of an atomic is performed, an owner-lost word or a peer that cannot be reached faults it with nothing
performed in any lane (13 R238, Table 13.3, step 11). -/
def State.atomicFault (s : State) (sid : Nat) (f : Flight) : Option State :=
  if f.performed || f.accs.all (fun a => decide (a.st ≠ .queued)) then none else s.execFault sid f

/-- One attempt at a flight of atomics. -/
def State.advanceAtomic (s : State) (sid fid : Nat) : State :=
  match (s.sheaf? sid).bind (fun sh => (sh.flight? fid).map (fun f => (sh, f))) with
  | none => s
  | some (sh, f) =>
    let go (s : State) (f : Flight) : State :=
      match s.atomicFault sid f with
      | some t => t
      | none => (s.performAtomics sid f).finishFlight sid fid
    match f.stage with
    | .releasing =>
      match s.orderState sid fid f.instr f.e with
      | .waits => s
      | .failed l => (s.clearFailed sid f.e).faultAt sid f .remfail f.e (BitVec.ofNat 64 (l.headD 0)) l
      | .clear =>
        let s := match relScope f.instr with
          | some sc => if publishes f.instr then s.publishUpTo (barnOf sh.core) sc else s
          | none => s
        let f' := { f with stage := .access }
        go (s.modSheaf sid (fun sh => sh.modFlight fid (fun _ => f'))) f'
    | .access => go s f
    | .waiting => go s f
    | _ => s

/-- The checks of Table 13.3 up to step 10, and the start of the accesses. -/
def atomStart (i : Instr) (s : State) (k : Ctx) (a : Reg) (off : GOff) (size : Size) (kind : AKind) (gated : Bool)
    (data : Nat → List Byte) (start : State → List Acc → Done) : Except TrapInfo Done :=
  match gOffset off with
  | none => .error (k.trap .frop k.e 0)
  | some o =>
    let as := (lanesOf k.e).map (fun l => (l, k.pairA a l + o.signExtend 64))
    match as.filter (fun e => e.2.toNat % size.bytes != 0) with
    | b :: r => .error (k.trap .align (lanesSet ((b :: r).map (·.1))) b.2)
    | [] =>
      match s.xlateLanes (some k.sh.core) k.ctx kind as with
      | (.trap c m addr, _) => .error (k.trap c m addr)
      | (.park l, s) => .ok { st := s.parkAt k i l }
      | (.ok l, s) =>
        let refused := match s.stookOf k.sh, (s.stookOf k.sh).bind s.cropOf with
          | some st, some c => gated && st.atomicRefused c
          | _, _ => false
        if refused then .error (k.trap .wrange k.e (match as with | e :: _ => e.2 | [] => 0))
        else .ok (start s (l.map (fun (lane, va, pa, pte, hd, ho) => ⟨lane, va, pa, size.bytes, pte, hd, ho, data lane, .queued⟩)))
def atomBody (i : Instr) (s : State) (k : Ctx) (a : Reg) (off : GOff) (size : Size) (kind : AKind) (gated : Bool)
    (data : Nat → List Byte) : Except TrapInfo Done :=
  atomStart i s k a off size kind gated data (fun s accs =>
    let (fid, s) := s.addFlight k i (if (relScope i).isSome || (acqScope i).isSome then .releasing else .access) false accs
    { st := s.advanceAtomic k.sid fid })
/-- WAITA: the lanes of E keep their program counters until they are released; the others pass. Lanes that a pre-emption
took from it are released at once with status 2 (19 R335). -/
def waitaBody (i : Instr) (s : State) (k : Ctx) (a : Reg) (off : GOff) (size : Size) (data : Nat → List Byte) :
    Except TrapInfo Done :=
  atomStart i s k a off size .read false data (fun s accs =>
    let m := k.e &&& k.sh.spurious
    let accs := accs.map (fun a => if m.getLsbD a.lane then { a with st := .done (bytesOf 4 2) } else a)
    let (fid, s) := s.addFlight { k with path := k.e } i .waiting true accs
    let s := s.modSheaf k.sid (fun sh => { sh.modFlight fid (fun f => { f with ready := m }) with spurious := sh.spurious &&& ~~~m })
    { st := s.advanceAtomic k.sid fid, stay := if k.replay.isNone then k.e else 0 })

/-- Released lanes of a WAITA: the status goes to D, an acquire acts, they go on (13 R241). With its last lane it is compared
with the watchpoints (19 R330). -/
def State.releaseReady (s : State) (sid : Nat) (f : Flight) : State :=
  match f.instr with
  | .waita _ d .. =>
    let m := f.ready &&& f.path
    if m = 0 then s
    else
      let s := s.modSheaf sid (fun sh => f.accs.foldl (fun (sh : Sheaf) (a : Acc) => match a.st with
        | .done bs => if m.getLsbD a.lane then sh.writeGroup d a.lane 0 (loadWords false 4 bs) else sh
        | _ => sh) sh)
      let s := match acqScope f.instr with
        | some sc => s.acquire sid m sc
        | none => s
      let s := (s.touchRegs sid f.instr.dsts).moveOn sid f m
      if f.path &&& ~~~m = 0 then s.checkWatch sid f (watchKind f.instr) else s
  | _ => s


/-- 13 R235. -/
noncomputable def execAtom (g : Pred) (op : AtomOp) (d : Reg) (a : Reg) (b : Reg) (size : Size) (scope : Scope) (order : Order) (off : GOff) (s : State) : Out :=
  issue (.atom g op d a b size scope order off) s (fun k => atomBody (.atom g op d a b size scope order off) s k a off size .atomic true (fun l => bytesOfWords ((List.range size.regs).map (fun j => k.opB b l j))))
/-- 13 R236. -/
noncomputable def execCas (g : Pred) (d : Reg) (a : Reg) (b : Reg) (size : Size) (scope : Scope) (order : Order) (off : GOff) (s : State) : Out :=
  issue (.cas g d a b size scope order off) s (fun k => atomBody (.cas g d a b size scope order off) s k a off size .atomic true (fun l => bytesOfWords ((List.range (2 * size.regs)).map (fun j => k.opB b l j))))
/-- 13 R239. -/
noncomputable def execRed (g : Pred) (op : AtomOp) (a : Reg) (b : Reg) (size : Size) (scope : Scope) (rel : Bool) (off : GOff) (s : State) : Out :=
  issue (.red g op a b size scope rel off) s (fun k => atomBody (.red g op a b size scope rel off) s k a off size .atomic true (fun l => bytesOfWords ((List.range size.regs).map (fun j => k.opB b l j))))
/-- 13 R241. -/
noncomputable def execWaita (g : Pred) (d : Reg) (a : Reg) (b : Reg) (size : Size) (scope : Scope) (acq : Bool) (off : GOff) (s : State) : Out :=
  issue (.waita g d a b size scope acq off) s (fun k => waitaBody (.waita g d a b size scope acq off) s k a off size (fun l => bytesOfWords ((List.range size.regs).map (fun j => k.opB b l j))))
/-- 13 R243. -/
noncomputable def execWake (g : Pred) (d : Reg) (a : Reg) (b : Reg) (off : GOff) (s : State) : Out :=
  issue (.wake g d a b off) s (fun k => atomBody (.wake g d a b off) s k a off .b32 .read false (fun l => bytesOfWords [k.opB b l 0]))

/-! ### At the home (13 R232, R241 to R243) -/

/-- Wait entries of a home slice: at most 128 (13 R242). -/
def State.slots (s : State) (hd pa : Nat) : Nat := (s.waits.filter (fun e => e.hd == hd && sliceOf e.pa == sliceOf pa)).length
def overlaps (e : WaitEnt) (pa n : Nat) : Bool := decide (e.pa < pa + n ∧ pa < e.pa + e.n)
/-- WAKE of one lane: the oldest waiters whose word overlaps, at most the limit. -/
def State.wakeLane (s : State) (pa limit : Nat) : State × Nat :=
  let hit := (s.waits.filter (fun e => !e.counter && overlaps e pa 4)).take limit
  let s := { s with waits := s.waits.filter (fun e => !hit.contains e) }
  (hit.foldl (fun s e => (s.raiseWait e.sid e.flight e.lane e.pa).releaseWaita e.sid e.flight e.lane 3) s, hit.length)
/-- The class of the last writer raises the lanes' pending class before an acquire acts. -/
def State.raiseFor (s : State) (sid b pa : Nat) (m : LaneSet) : State :=
  match writerClass (s.home (pa / 128)).last b with
  | some c => s.modSheaf sid (fun sh => sh.raisePend m c)
  | none => s

/-- An atomic request is performed at its word's home, once the home has recorded the barn's own earlier writes of the
word (14 R245): the owner's word is recalled first; then the operation, the entry of a wait, or the wake. Every atomic is
its line's latest and marks its page, a CAS that does not swap among them (12 R217, 13 R232, 16 R285). A word that has been
lost since another word of the instruction was performed keeps its mark (log 28). -/
def State.atomicAtHome (s : State) (m : Nat) : State :=
  match s.msgs.find? m with
  | some ⟨.atomic b sid fid pa n hd ctx pte w acq lanes, _⟩ =>
    if isPeer pa || s.hostHolds pa || s.dieWaits hd || (wordsOf pa n).any (fun wa => s.unrecorded b wa) then s
    else
      match (s.sheaf? sid).bind (fun sh => sh.flight? fid) with
      | none => s.dropMsg m
      | some f =>
        let set := lanesSet (lanes.map (·.lane))
        let s := (s.dropMsg m)
        let s := (wordsOf pa n).foldl (fun s wa => s.recallWord wa) s
        if (wordsOf pa n).any (fun wa => s.isLost wa) && !f.performed then s.lostFault sid f
        else if s.poisoned pa n then s.rickError (((s.sheaf? sid).map (·.uid)).getD 0)
        else match w with
        | .wake =>
          let (s, r) := lanes.foldl (fun (acc : State × List (Nat × Nat)) l =>
            let (s, c) := acc.1.wakeLane pa (natOfBytes l.data)
            (s, acc.2 ++ [(l.lane, c)])) (s, [])
          (s.giveOld sid fid pa 4 r).finishReply sid fid
        | .waita =>
          lanes.foldl (fun s l =>
            let cur := s.cohRead pa n
            let s := if acq.isSome then s.raiseFor sid b pa (laneBit l.lane) else s
            if cur ≠ l.data then s.releaseWaita sid fid l.lane 0
            else if 128 ≤ s.slots hd pa then s.releaseWaita sid fid l.lane 2
            else { s with waits := s.waits ++ [⟨sid, fid, l.lane, pa, n, hd, l.data, false⟩] }) s
        | _ =>
          let s := if acq.isSome then s.raiseFor sid b pa set else s
          let old := natOfBytes (s.cohRead pa n)
          let (r, v) := applyLanes (w.step n) old lanes
          let s := s.homeUpdate pa (bytesOf n v) (.barn b) ctx pte hd
          (s.giveOld sid fid pa n r).finishReply sid fid
  | _ => s

end Sys2Proof.Machine
end

