-- ==== Sys2Proof/Machine/Bins.lean ====
section
/-! DEFINITION. Bin loads and stores, AATOM and flag barriers (09 R152 to R168). -/
namespace Sys2Proof.Machine

open Sys2Proof

/-! ### Addresses of the lanes of E (09 R155, R159, R160) -/

def binAddrs (k : Ctx) (a : Reg) (off : BitVec 15) : List (Nat × Word) :=
  (lanesOf k.e).map (fun l => (l, k.opA a l 0 + off.signExtend 32))
/-- Each lane's stook and offset: ALIGN over every lane first, then BINB. -/
def binTargets (s : State) (k : Ctx) (b : BinId) (as : List (Nat × Word)) (n : Nat) : Except TrapInfo (List (Nat × Nat × Nat)) :=
  match as.filter (fun e => e.2.toNat % n != 0) with
  | x :: r => .error (k.trap .align (lanesSet ((x :: r).map (·.1))) (x.2.zeroExtend 64))
  | [] =>
    let pl (w : Word) : Option (Nat × Nat) := (s.stookOf k.sh).bind (fun st => s.binPlace st k.sh.uid b w.toNat n)
    match as.filter (fun e => (pl e.2).isNone) with
    | x :: r => .error (k.trap .binb (lanesSet ((x :: r).map (·.1))) (x.2.zeroExtend 64))
    | [] => .ok (as.filterMap (fun e => (pl e.2).map (fun p => (e.1, p.1, p.2))))
/-- Bytes of a stook's bin. -/
def State.binBytes (s : State) (uid : Nat) (b : BinId) (off n : Nat) : List Byte :=
  match s.stook? uid with
  | some st => st.binRead b off n
  | none => List.replicate n 0

def binLoad (s : State) (k : Ctx) (d : Reg) (b : BinId) (a : Reg) (size : Size) (off : BitVec 15) (sx : Bool) :
    Except TrapInfo Done :=
  match binTargets s k b (binAddrs k a off) size.bytes with
  | .error t => .error t
  | .ok ts => .ok { st := (s.usePorts b (ts.map (·.2)) size.bytes).modSheaf k.sid (fun sh => ts.foldl (fun sh (t : Nat × Nat × Nat) =>
      sh.writeGroup d t.1 0 (loadWords sx size.bytes (s.binBytes t.2.1 b t.2.2 size.bytes))) sh) }
/-- Each lane's bytes are a write of their own, in order of the lanes: where two lanes write one barrier word, each write
re-evaluates it, and that of the lane that loses can release FBWAIT lanes (R159, R167; DESIGN CHOICE, log 131). -/
def binStore (s : State) (k : Ctx) (b : BinId) (a dat : Reg) (size : Size) (off : BitVec 15) : Except TrapInfo Done :=
  match binTargets s k b (binAddrs k a off) size.bytes with
  | .error t => .error t
  | .ok ts => .ok { st := ts.foldl (fun s t => s.binWrite t.2.1 b t.2.2
      ((bytesOfWords ((List.range size.regs).map (fun j => k.opB dat t.1 j))).take size.bytes)) (s.usePorts b (ts.map (·.2)) size.bytes) }

/-! ### AATOM (09 R161, R162) -/

/-- The lanes at each word, groups in ascending order of their lowest lane. -/
def groupsOf : List (Nat × Nat × Nat) → List (Nat × Nat × List Nat)
  | [] => []
  | (l, u, o) :: r =>
    let g := groupsOf r
    match List.find? (fun x => decide (x.1 = u ∧ x.2.1 = o)) g with
    | some x => (u, o, l :: x.2.2) :: g.filter (fun y => !decide (y.1 = u ∧ y.2.1 = o))
    | none => (u, o, [l]) :: g
/-- The words updated in one write each; each lane's old value goes to D. -/
def State.aatomPerform (s : State) (sid : Nat) (op : AtomOp) (d : Reg) (n : Nat) (ts : List (Nat × Nat × Nat))
    (data : Nat → Nat) : State :=
  (groupsOf ts).foldl (fun s g =>
    let (u, o, ls) := g
    let (r, v) := ls.foldl (fun (acc : List (Nat × Nat) × Nat) l => (acc.1 ++ [(l, acc.2)], op.apply (8 * n) acc.2 (data l)))
      ([], natOfBytes (s.binBytes u .a o n))
    (s.binWrite u .a o (bytesOf n v)).modSheaf sid (fun sh =>
      r.foldl (fun (sh : Sheaf) (x : Nat × Nat) => sh.writeGroup d x.1 0 (wordsOfBytes (bytesOf n x.2))) sh)) s
/-- The accesses of a flight on bin words: `pte` names the stook, `pa` is the offset. -/
def binAccs (as : List (Nat × Word)) (ts : List (Nat × Nat × Nat)) (n : Nat) (data : Nat → List Byte) : List Acc :=
  (as.zip ts).map (fun (x, t) => ⟨t.1, x.2.zeroExtend 64, t.2.2, n, t.2.1, 0, false, data t.1, .queued⟩)
def binTargetsOf (f : Flight) : List (Nat × Nat × Nat) := f.accs.map (fun a => (a.lane, a.pte, a.pa))

/-- One attempt at an ordered AATOM or an FBARR: what its order waits for first (12 R218, 14 R251), then its update, then its
acquire. Its lanes wait for it (09 R162, R163). -/
def State.advanceBin (s : State) (sid fid : Nat) (act : State → Flight → State) : State :=
  match (s.sheaf? sid).bind (fun sh => (sh.flight? fid).map (fun f => (sh, f))) with
  | none => s
  | some (sh, f) =>
    let fin (s : State) : State :=
      let s := act (s.usePorts .a ((binTargetsOf f).map (·.2)) ((f.accs.head?.map (·.n)).getD 1)) f
      let s := s.touchRegs sid f.instr.dsts
      let s := match acqScope f.instr with
        | some sc => s.acquire sid f.e sc
        | none => s
      s.modSheaf sid (fun sh => sh.dropFlight fid)
    match s.orderState sid fid f.instr f.e with
    | .waits => s
    | .failed l => (s.clearFailed sid f.e).faultAt sid f .remfail f.e (BitVec.ofNat 64 (l.headD 0)) l
    | .clear =>
      if s.portsBusy .a ((binTargetsOf f).map (·.2)) ((f.accs.head?.map (·.n)).getD 1) then s
      else match relScope f.instr with
        | none => fin s
        | some sc => fin (s.publishUpTo (barnOf sh.core) sc)
def aatomAct (op : AtomOp) (d : Reg) (n : Nat) (sid : Nat) (s : State) (f : Flight) : State :=
  s.aatomPerform sid op d n (binTargetsOf f) (fun l => natOfBytes ((f.accs.filter (fun a => a.lane = l)).flatMap (·.data)))
def aatomBody (i : Instr) (s : State) (k : Ctx) (op : AtomOp) (d a b : Reg) (size : Size) (order : Order)
    (off : BitVec 15) : Except TrapInfo Done :=
  let n := size.bytes
  let as := binAddrs k a off
  let data (l : Nat) : List Byte := bytesOfWords ((List.range size.regs).map (fun j => k.opB b l j))
  match binTargets s k .a as n with
  | .error t => .error t
  | .ok ts =>
    if releases order || acquires order then
      let (fid, s) := s.addFlight k i .releasing false (binAccs as ts n data)
      .ok { st := s.advanceBin k.sid fid (aatomAct op d n k.sid) }
    else .ok { st := (s.usePorts .a (ts.map (·.2)) n).aatomPerform k.sid op d n ts (fun l => natOfBytes (data l)) }

/-! ### Flag barriers (09 R165 to R168) -/

def fbWord (phase arrived expect : Nat) : List Byte := bytesOf 2 expect ++ bytesOf 2 arrived ++ bytesOf 4 phase
def fbinitBody (s : State) (k : Ctx) (a b : Reg) : Except TrapInfo Done :=
  match binTargets s k .a (binAddrs k a 0) 8 with
  | .error t => .error t
  | .ok ts => .ok { st := (groupsOf ts).foldl (fun s g =>
      s.binWrite g.1 .a g.2.1 (fbWord 0 0 (Nat.min (k.opB b (g.2.2.headD 0) 0).toNat 65535))) (s.usePorts .a (ts.map (·.2)) 8) }
/-- The arrivals of a flight of FBARR; each lane of a group gets the phase that ends its round. -/
def fbarrAct (d : Reg) (counted : Bool) (sid : Nat) (s : State) (f : Flight) : State :=
  (groupsOf (binTargetsOf f)).foldl (fun s g =>
    let (u, o, ls) := g
    let w := s.binBytes u .a o 8
    let expect := fieldNat w 0 2
    let arrived := fieldNat w 2 2
    let phase := fieldNat w 4 1 % 2
    let c := if counted then natOfBytes ((f.accs.filter (fun a => a.lane = ls.headD 0)).flatMap (·.data)) else ls.length
    let s := s.binWrite u .a o (if expect ≤ arrived + c then fbWord (1 - phase) 0 expect else fbWord phase (arrived + c) expect)
    s.modSheaf sid (fun sh => ls.foldl (fun (sh : Sheaf) l => sh.writeReg d l 0 (BitVec.ofNat 32 (1 - phase))) sh)) s
def fbCounted (b : Reg) : Bool := b != .z
def State.advanceFbarr (s : State) (sid fid : Nat) (f : Flight) : State :=
  match f.instr with
  | .fbarr _ d _ b => s.advanceBin sid fid (fbarrAct d (fbCounted b) sid)
  | .aatom _ op d _ _ size _ _ _ => s.advanceBin sid fid (aatomAct op d size.bytes sid)
  | _ => s
def fbarrBody (i : Instr) (s : State) (k : Ctx) (a b : Reg) : Except TrapInfo Done :=
  let as := binAddrs k a 0
  match binTargets s k .a as 8 with
  | .error t => .error t
  | .ok ts =>
    let f := k.flight i s.nextId .releasing false (binAccs as ts 8 (fun l => bytesOf 4 (k.opB b l 0).toNat))
    let (fid, s) := s.addFlight k i .releasing false f.accs
    .ok { st := s.advanceFbarr k.sid fid f }
def State.fbPhase (s : State) (t : Nat × Nat × Nat) : Nat := fieldNat (s.binBytes t.2.1 .a t.2.2 8) 4 1 % 2
/-- The lanes whose barrier's phase is bit 0 of B. -/
def fbMatch (s : State) (k : Ctx) (b : Reg) (ts : List (Nat × Nat × Nat)) : LaneSet :=
  lanesSet ((ts.filter (fun t => s.fbPhase t == (k.opB b t.1 0).toNat % 2)).map (·.1))
/-- FBWAIT: lanes whose phase matches go on with an acquire at .ST, the others wait at the instruction. -/
def fbwaitBody (i : Instr) (s : State) (k : Ctx) (a b : Reg) : Except TrapInfo Done :=
  let as := binAddrs k a 0
  match binTargets s k .a as 8 with
  | .error t => .error t
  | .ok ts =>
    let s := s.usePorts .a (ts.map (·.2)) 8
    let go := fbMatch s k b ts
    let wait := k.e &&& ~~~go
    let s := if go = 0 then s else s.acquire k.sid go .st
    if wait = 0 then .ok { st := s }
    else
      let accs := (binAccs as ts 8 (fun l => bytesOf 4 (k.opB b l 0).toNat)).filter (fun x => wait.getLsbD x.lane)
      let (_, s) := s.addFlight { k with path := wait, e := wait } i .waiting true accs
      .ok { st := s, stay := if k.replay.isNone then wait else 0 }
/-- FBWAIT lanes that a write has released go on from the next cycle, with an acquire at .ST. -/
def State.fbReady (s : State) (sid : Nat) (f : Flight) : State :=
  match f.instr with
  | .fbwait .. =>
    let m := f.ready &&& f.path
    if m = 0 then s else (s.acquire sid m .st).moveOn sid f m
  | _ => s
def fbtestBody (s : State) (k : Ctx) (d : Fin 7) (a b : Reg) : Except TrapInfo Done :=
  match binTargets s k .a (binAddrs k a 0) 8 with
  | .error t => .error t
  | .ok ts =>
    let s := s.usePorts .a (ts.map (·.2)) 8
    let hit := fbMatch s k b ts
    let r := predDone s k d.val (fun l => hit.getLsbD l)
    .ok { r with st := if hit = 0 then r.st else r.st.acquire k.sid hit .st }


/-- The bin, address and bytes of a lane-set bin instruction. -/
def binUse (i : Instr) : Option (BinId × Reg × BitVec 15 × Nat) :=
  match i with
  | .lda _ _ a size off => some (.a, a, off, size.bytes)
  | .ldaSigned _ _ a size off => some (.a, a, off, size.bytes)
  | .sta _ a _ size off => some (.a, a, off, size.bytes)
  | .ldw _ _ a size off => some (.w, a, off, size.bytes)
  | .ldwSigned _ _ a size off => some (.w, a, off, size.bytes)
  | .stw _ a _ size off => some (.w, a, off, size.bytes)
  | .ldc _ _ a size off => some (.c, a, off, size.bytes)
  | .ldcSigned _ _ a size off => some (.c, a, off, size.bytes)
  | .stc _ a _ size off => some (.c, a, off, size.bytes)
  | .aatom _ _ _ a _ size _ _ off => some (.a, a, off, size.bytes)
  | .fbinit _ a _ => some (.a, a, 0, 8)
  | .fbarr _ _ a _ => some (.a, a, 0, 8)
  | .fbwait _ a _ => some (.a, a, 0, 8)
  | .fbtest _ _ a _ => some (.a, a, 0, 8)
  | _ => none
/-- A bin instruction whose lane ports are occupied is blocked (09 R152, 03 R52). -/
def State.binBlocked (s : State) (k : Ctx) (i : Instr) : Bool :=
  match binUse i with
  | none => false
  | some (b, a, off, n) =>
    match binTargets s k b (binAddrs k a off) n with
    | .error _ => false
    | .ok ts => s.portsBusy b (ts.map (·.2)) n

/-- 09 R159. -/
def execLda (g : Pred) (d : Reg) (a : Reg) (size : Size) (off : BitVec 15) (s : State) : Out :=
  issue (.lda g d a size off) s (fun k => binLoad s k d .a a size off false)
/-- 09 R159. -/
def execLdaSigned (g : Pred) (d : Reg) (a : Reg) (size : Size) (off : BitVec 15) (s : State) : Out :=
  issue (.ldaSigned g d a size off) s (fun k => binLoad s k d .a a size off true)
/-- 09 R159. -/
def execSta (g : Pred) (a : Reg) (b : Reg) (size : Size) (off : BitVec 15) (s : State) : Out :=
  issue (.sta g a b size off) s (fun k => binStore s k .a a b size off)
/-- 09 R159. -/
def execLdw (g : Pred) (d : Reg) (a : Reg) (size : Size) (off : BitVec 15) (s : State) : Out :=
  issue (.ldw g d a size off) s (fun k => binLoad s k d .w a size off false)
/-- 09 R159. -/
def execLdwSigned (g : Pred) (d : Reg) (a : Reg) (size : Size) (off : BitVec 15) (s : State) : Out :=
  issue (.ldwSigned g d a size off) s (fun k => binLoad s k d .w a size off true)
/-- 09 R159. -/
def execStw (g : Pred) (a : Reg) (b : Reg) (size : Size) (off : BitVec 15) (s : State) : Out :=
  issue (.stw g a b size off) s (fun k => binStore s k .w a b size off)
/-- 09 R159. -/
def execLdc (g : Pred) (d : Reg) (a : Reg) (size : Size) (off : BitVec 15) (s : State) : Out :=
  issue (.ldc g d a size off) s (fun k => binLoad s k d .c a size off false)
/-- 09 R159. -/
def execLdcSigned (g : Pred) (d : Reg) (a : Reg) (size : Size) (off : BitVec 15) (s : State) : Out :=
  issue (.ldcSigned g d a size off) s (fun k => binLoad s k d .c a size off true)
/-- 09 R159. -/
def execStc (g : Pred) (a : Reg) (b : Reg) (size : Size) (off : BitVec 15) (s : State) : Out :=
  issue (.stc g a b size off) s (fun k => binStore s k .c a b size off)
/-- 09 R161, R162. -/
def execAatom (g : Pred) (op : AtomOp) (d : Reg) (a : Reg) (b : Reg) (size : Size) (scope : Scope) (order : Order) (off : BitVec 15) (s : State) : Out :=
  issue (.aatom g op d a b size scope order off) s (fun k => aatomBody (.aatom g op d a b size scope order off) s k op d a b size order off)
/-- 09 R166. -/
def execFbinit (g : Pred) (a : Reg) (b : Reg) (s : State) : Out :=
  issue (.fbinit g a b) s (fun k => fbinitBody s k a b)
/-- 09 R166, R168. -/
def execFbarr (g : Pred) (d : Reg) (a : Reg) (b : Reg) (s : State) : Out :=
  issue (.fbarr g d a b) s (fun k => fbarrBody (.fbarr g d a b) s k a b)
/-- 09 R166, R167. -/
def execFbwait (g : Pred) (a : Reg) (b : Reg) (s : State) : Out :=
  issue (.fbwait g a b) s (fun k => fbwaitBody (.fbwait g a b) s k a b)
/-- 09 R166, R168. -/
def execFbtest (g : Pred) (d : Fin 7) (a : Reg) (b : Reg) (s : State) : Out :=
  issue (.fbtest g d a b) s (fun k => fbtestBody s k d a b)

end Sys2Proof.Machine
end

