-- ==== Sys2Proof/Machine/LaneFloat.lean ====
section
/-! DEFINITION. Lane floating point, conversions and quantisation (07 R119 to R132). -/
namespace Sys2Proof.Machine

open Sys2Proof

/-- The format of a floating TYPE. -/
def fmtOf (t : Sys2Proof.Ty) : Num.Fmt :=
  match t with
  | .f16 => Num.f16 | .bf16 => Num.bf16 | .e4m3 | .mxf8 => Num.e4m3 | .e5m2 => Num.e5m2 | .e2m1 | .mxf4 => Num.e2m1
  | _ => Num.f32
/-- Element k of a register (01 R9). -/
def half (w : Word) (k : Nat) : Nat := w.toNat / 2 ^ (16 * k) % 65536
/-- A computation on both elements of a register under a 16-bit type, on the whole register under F32 (07 R120). -/
def perElem1 (t : Sys2Proof.Ty) (f : Nat → Nat) (a : Word) : Word :=
  if t = .f32 then BitVec.ofNat 32 (f a.toNat) else BitVec.ofNat 32 (f (half a 0) + 65536 * f (half a 1))
def perElem2 (t : Sys2Proof.Ty) (f : Nat → Nat → Nat) (a b : Word) : Word :=
  if t = .f32 then BitVec.ofNat 32 (f a.toNat b.toNat)
  else BitVec.ofNat 32 (f (half a 0) (half b 0) + 65536 * f (half a 1) (half b 1))
def perElem3 (t : Sys2Proof.Ty) (f : Nat → Nat → Nat → Nat) (a b c : Word) : Word :=
  if t = .f32 then BitVec.ofNat 32 (f a.toNat b.toNat c.toNat)
  else BitVec.ofNat 32 (f (half a 0) (half b 0) (half c 0) + 65536 * f (half a 1) (half b 1) (half c 1))

def fadd (t : Sys2Proof.Ty) (rm : RM) : Word → Word → Word :=
  perElem2 t (fun x y => (fmtOf t).addVal rm ((fmtOf t).val x) ((fmtOf t).val y))
def fsub (t : Sys2Proof.Ty) (rm : RM) : Word → Word → Word :=
  perElem2 t (fun x y => (fmtOf t).addVal rm ((fmtOf t).val x) ((fmtOf t).val y).negate)
def fmul (t : Sys2Proof.Ty) (rm : RM) : Word → Word → Word :=
  perElem2 t (fun x y => (fmtOf t).mul rm ((fmtOf t).val x) ((fmtOf t).val y))
def ffma (t : Sys2Proof.Ty) (rm : RM) : Word → Word → Word → Word :=
  perElem3 t (fun x y z => (fmtOf t).fma rm ((fmtOf t).val x) ((fmtOf t).val y) ((fmtOf t).val z))
/-- FMIN or FMAX of one element: `pick a b` says that a is selected (07 R123). -/
def minmax (t : Sys2Proof.Ty) (nan : Bool) (pick : Num.Val → Num.Val → Bool) (x y : Nat) : Nat :=
  let f := fmtOf t
  let a := f.val x
  let b := f.val y
  if a.isNan || b.isNan then
    if nan || (a.isNan && b.isNan) then f.nanCode else if a.isNan then y else x
  else if pick a b then x else y
def fmin (t : Sys2Proof.Ty) (nan : Bool) : Word → Word → Word := perElem2 t (minmax t nan (fun a b => !Num.Val.below b a))
def fmax (t : Sys2Proof.Ty) (nan : Bool) : Word → Word → Word := perElem2 t (minmax t nan (fun a b => !Num.Val.below a b))
def frcp (t : Sys2Proof.Ty) : Word → Word := perElem1 t (fun x => (fmtOf t).rcp ((fmtOf t).val x))
def frsq (t : Sys2Proof.Ty) : Word → Word := perElem1 t (fun x => (fmtOf t).rsq ((fmtOf t).val x))
def fsqrt (t : Sys2Proof.Ty) : Word → Word := perElem1 t (fun x => (fmtOf t).sqrt ((fmtOf t).val x))
def fexp2 (t : Sys2Proof.Ty) : Word → Word := perElem1 t (fun x => (fmtOf t).exp2 ((fmtOf t).val x))
def flog2 (t : Sys2Proof.Ty) : Word → Word := perElem1 t (fun x => (fmtOf t).log2 ((fmtOf t).val x))
/-- The operand that FCMP compares (07 R124). -/
def cmpVal (t : Sys2Proof.Ty) (hi : Bool) (w : Word) : Num.Val :=
  if t = .f32 then Num.f32.val w.toNat else (fmtOf t).val (half w (if hi then 1 else 0))
def fdp2 (t : Sys2Proof.Ty) (rm : RM) (a b c : Word) : Word :=
  let f := fmtOf t
  let p (k : Nat) : Num.Val := Num.mulVal (f.val (half a k)) (f.val (half b k))
  BitVec.ofNat 32 (Num.f32.sumVals rm [p 0, p 1, Num.f32.val c.toNat])
/-- The class bit of a code (Table 7.3). -/
def classBit (f : Num.Fmt) (x : Nat) : Nat :=
  let tiny : Bool := x / 2 ^ f.fbits % 2 ^ f.ebits = 0
  match f.val x with
  | .nan => 256
  | .inf n => if n then 1 else 128
  | .fin n m _ => if m = 0 then (if n then 8 else 16) else if tiny then (if n then 4 else 32) else if n then 2 else 64
def fclass (t : Sys2Proof.Ty) (a : Word) : Word :=
  let f := fmtOf t
  if t = .f32 then BitVec.ofNat 32 (classBit f a.toNat)
  else BitVec.ofNat 32 (classBit f (half a 0) + 65536 * classBit f (half a 1))

/-! ### Conversions (07 R127 to R129) -/

def isFloat (t : Sys2Proof.Ty) : Bool :=
  match t with
  | .f32 | .f16 | .bf16 | .e4m3 | .e5m2 | .e2m1 => true
  | _ => false
/-- The range of an integer type. -/
def intLo (t : Sys2Proof.Ty) : Int := if Ty.signed t then -(2 ^ (t.bits - 1) : Nat) else 0
def intHi (t : Sys2Proof.Ty) : Int := if Ty.signed t then (2 ^ (t.bits - 1) - 1 : Nat) else (2 ^ t.bits - 1 : Nat)
/-- The integer that a code of an integer type stands for. -/
def intVal (t : Sys2Proof.Ty) (x : Nat) : Int :=
  if Ty.signed t ∧ 2 ^ (t.bits - 1) ≤ x then (x : Int) - 2 ^ t.bits else x
/-- The code of an integer taken modulo the width. -/
def intCode (t : Sys2Proof.Ty) (x : Int) : Nat := (x % (2 ^ t.bits : Nat)).toNat
/-- One element converted (07 R128, Table 1.3). -/
def cvtElem (dt st : Sys2Proof.Ty) (rm : RM) (x : Nat) : Nat :=
  if isFloat st then
    let v := (fmtOf st).val x
    if isFloat dt then (fmtOf dt).roundVal rm v
    else match v with
      | .nan => 0
      | .inf n => intCode dt (if n then intLo dt else intHi dt)
      | .fin .. => intCode dt (Num.clamp (intLo dt) (intHi dt) (Num.roundInt rm v.dy))
  else
    let n := intVal st x
    if isFloat dt then (fmtOf dt).roundDy rm false ⟨n, 0⟩
    else if st.bits < dt.bits then intCode dt n
    else intCode dt (Num.clamp (intLo dt) (intHi dt) n)
/-- One element rounded stochastically by 16 random bits (07 R129, 01 R15). -/
def stochElem (dt st : Sys2Proof.Ty) (g x : Nat) : Nat := (fmtOf dt).roundStoch g ((fmtOf st).val x)
/-- A group of words as one number, the first word lowest, and element k of it. -/
def groupNat (ws : List Word) : Nat := ws.foldr (fun w n => w.toNat + 2 ^ 32 * n) 0
def elemOf (g bits k : Nat) : Nat := g / 2 ^ (bits * k) % 2 ^ bits
/-- The source elements of CVT and CVTSR in a lane: A, then B where half of them are there. -/
def cvtSource (k : Ctx) (a b : Reg) (dt st : Sys2Proof.Ty) (l : Nat) : List Nat :=
  let ga := groupNat ((List.range (cvtSrcRegs dt st)).map (fun j => k.opA a l j))
  let gb := groupNat ((List.range (cvtBRegs dt st)).map (fun j => k.opB b l j))
  let n := cvtN dt st
  if cvtBRegs dt st = 0 then (List.range n).map (fun j => elemOf ga st.bits j)
  else (List.range (n / 2)).map (fun j => elemOf ga st.bits j) ++ (List.range (n / 2)).map (fun j => elemOf gb st.bits j)
def cvtRandom (k : Ctx) (c : Reg) (dt st : Sys2Proof.Ty) (l n : Nat) : Nat :=
  elemOf (groupNat ((List.range (cvtsrCRegs dt st)).map (fun j => k.opC c l j))) 16 n
/-- The words of the converted elements. -/
def cvtWords (dt st : Sys2Proof.Ty) (f : Nat → Nat → Nat) (xs : List Nat) : List Word :=
  let g := (xs.zipIdx).foldr (fun e acc => f e.2 e.1 + 2 ^ dt.bits * acc) 0
  (List.range (cvtDstRegs dt st)).map (fun j => BitVec.ofNat 32 (g / 2 ^ (32 * j)))

/-! ### DQUANT (07 R130 to R132) -/

/-- Element c of row r of the tile: +0 where the row's lane is not in E. Where DQUANT runs from a replay entry, whose captured words
have no room for the 16 registers of A (19 Table 19.6), A is read from the register file (DESIGN CHOICE, log 138). -/
def tileElem (k : Ctx) (a : Fin 96) (hi : Bool) (r c : Nat) : Num.Val :=
  let j := (if hi then 32 else 0) + r
  if j < 64 ∧ k.e.getLsbD j then Num.bf16.val (half (k.sh.vreg (a.val + c / 2) j) (c % 2)) else .fin false 0 0
/-- The 1,056 bytes of one copy: 32 blocks of 32 elements, then their 32 scales. -/
def mxCopy (x : Nat → Nat → Num.Val) : List Byte :=
  let blocks := (List.range 32).map (fun r => Num.mxQuantise Num.e4m3 8 ((List.range 32).map (fun c => x r c)))
  blocks.flatMap (fun b => b.2.map (fun e => BitVec.ofNat 8 e)) ++ blocks.map (fun b => BitVec.ofNat 8 b.1)
/-- DQUANT (R132). A trap names the lanes of E, and the first address that fails in the order of the checks, B's before C's
(DESIGN CHOICE, log 121). From a replay entry B and C are the words captured for lane 0, in E or not (DESIGN CHOICE, log 138). -/
def dquantBody (s : State) (k : Ctx) (a : Fin 96) (b c : SReg) (hi rowA colA : Bool) : Except TrapInfo Done :=
  let ba := (k.opB b.reg 0 0).toNat
  let ca := (k.opC c.reg 0 0).toNat
  let binOf (x : Bool) : BinId := if x then .a else .w
  match s.stook? k.sh.uid with
  | none => .ok { st := s }
  | some st =>
    if ba % 32 ≠ 0 then .error (k.trap .align k.e (BitVec.ofNat 64 ba))
    else if ca % 32 ≠ 0 then .error (k.trap .align k.e (BitVec.ofNat 64 ca))
    else if binMember ba ≠ 0 then .error (k.trap .perm k.e (BitVec.ofNat 64 ba))
    else if binMember ca ≠ 0 then .error (k.trap .perm k.e (BitVec.ofNat 64 ca))
    else
      match s.binPlace st k.sh.uid (binOf rowA) ba 1056, s.binPlace st k.sh.uid (binOf colA) ca 1056 with
      | none, _ => .error (k.trap .binb k.e (BitVec.ofNat 64 ba))
      | _, none => .error (k.trap .binb k.e (BitVec.ofNat 64 ca))
      | some (_, ro), some (_, co) =>
        let s := s.binWrite k.sh.uid (binOf rowA) ro (mxCopy (fun r c => tileElem k a hi r c))
        .ok { st := s.binWrite k.sh.uid (binOf colA) co (mxCopy (fun r c => tileElem k a hi c r)) }

/-- 07 R121. -/
def execFaddF32B32 (g : Pred) (d : Dst) (a : Reg) (b : Reg) (s : State) : Out :=
  lane1 (.faddF32B32 g d a b) s d (fun k l => fadd .f32 .rn (k.opA a l 0) (k.opB b l 0))
/-- 07 R121. -/
def execFsubF32B32 (g : Pred) (d : Dst) (a : Reg) (b : Reg) (s : State) : Out :=
  lane1 (.fsubF32B32 g d a b) s d (fun k l => fsub .f32 .rn (k.opA a l 0) (k.opB b l 0))
/-- 07 R121. -/
def execFmulF32B32 (g : Pred) (d : Dst) (a : Reg) (b : Reg) (s : State) : Out :=
  lane1 (.fmulF32B32 g d a b) s d (fun k l => fmul .f32 .rn (k.opA a l 0) (k.opB b l 0))
/-- 07 R123. -/
def execFminF32B32 (g : Pred) (d : Dst) (a : Reg) (b : Reg) (s : State) : Out :=
  lane1 (.fminF32B32 g d a b) s d (fun k l => fmin .f32 false (k.opA a l 0) (k.opB b l 0))
/-- 07 R123. -/
def execFmaxF32B32 (g : Pred) (d : Dst) (a : Reg) (b : Reg) (s : State) : Out :=
  lane1 (.fmaxF32B32 g d a b) s d (fun k l => fmax .f32 false (k.opA a l 0) (k.opB b l 0))
/-- 07 R126. -/
def execFrcpF32B32 (g : Pred) (d : Dst) (a : Reg) (s : State) : Out :=
  lane1 (.frcpF32B32 g d a) s d (fun k l => frcp .f32 (k.opA a l 0))
/-- 07 R126. -/
def execFrsqF32B32 (g : Pred) (d : Dst) (a : Reg) (s : State) : Out :=
  lane1 (.frsqF32B32 g d a) s d (fun k l => frsq .f32 (k.opA a l 0))
/-- 07 R126. -/
def execFsqrtF32B32 (g : Pred) (d : Dst) (a : Reg) (s : State) : Out :=
  lane1 (.fsqrtF32B32 g d a) s d (fun k l => fsqrt .f32 (k.opA a l 0))
/-- 07 R126. -/
def execFexp2F32B32 (g : Pred) (d : Dst) (a : Reg) (s : State) : Out :=
  lane1 (.fexp2F32B32 g d a) s d (fun k l => fexp2 .f32 (k.opA a l 0))
/-- 07 R126. -/
def execFlog2F32B32 (g : Pred) (d : Dst) (a : Reg) (s : State) : Out :=
  lane1 (.flog2F32B32 g d a) s d (fun k l => flog2 .f32 (k.opA a l 0))
/-- 07 R120, R121. -/
def execFaddBf16B32 (g : Pred) (d : Dst) (a : Reg) (b : Reg) (s : State) : Out :=
  lane1 (.faddBf16B32 g d a b) s d (fun k l => fadd .bf16 .rn (k.opA a l 0) (k.opB b l 0))
/-- 07 R120, R121. -/
def execFmulBf16B32 (g : Pred) (d : Dst) (a : Reg) (b : Reg) (s : State) : Out :=
  lane1 (.fmulBf16B32 g d a b) s d (fun k l => fmul .bf16 .rn (k.opA a l 0) (k.opB b l 0))
/-- 07 R120, R121. -/
def execFaddF16B32 (g : Pred) (d : Dst) (a : Reg) (b : Reg) (s : State) : Out :=
  lane1 (.faddF16B32 g d a b) s d (fun k l => fadd .f16 .rn (k.opA a l 0) (k.opB b l 0))
/-- 07 R120, R121. -/
def execFmulF16B32 (g : Pred) (d : Dst) (a : Reg) (b : Reg) (s : State) : Out :=
  lane1 (.fmulF16B32 g d a b) s d (fun k l => fmul .f16 .rn (k.opA a l 0) (k.opB b l 0))
/-- 07 R125. -/
def execFclassF32B32 (g : Pred) (d : Dst) (a : Reg) (s : State) : Out :=
  lane1 (.fclassF32B32 g d a) s d (fun k l => fclass .f32 (k.opA a l 0))
/-- 07 R121. -/
def execFaddX64 (g : Pred) (d : Dst) (a : Reg) (b : Reg) (ty : Ty) (rm : RM) (s : State) : Out :=
  lane1 (.faddX64 g d a b ty rm) s d (fun k l => fadd ty rm (k.opA a l 0) (k.opB b l 0))
/-- 07 R121. -/
def execFsubX64 (g : Pred) (d : Dst) (a : Reg) (b : Reg) (ty : Ty) (rm : RM) (s : State) : Out :=
  lane1 (.fsubX64 g d a b ty rm) s d (fun k l => fsub ty rm (k.opA a l 0) (k.opB b l 0))
/-- 07 R121. -/
def execFmulX64 (g : Pred) (d : Dst) (a : Reg) (b : Reg) (ty : Ty) (rm : RM) (s : State) : Out :=
  lane1 (.fmulX64 g d a b ty rm) s d (fun k l => fmul ty rm (k.opA a l 0) (k.opB b l 0))
/-- 07 R121. -/
def execFfma (g : Pred) (d : Dst) (a : Reg) (b : Reg) (c : Reg) (ty : Ty) (rm : RM) (s : State) : Out :=
  lane1 (.ffma g d a b c ty rm) s d (fun k l => ffma ty rm (k.opA a l 0) (k.opB b l 0) (k.opC c l 0))
/-- 07 R123. -/
def execFminX64 (g : Pred) (d : Dst) (a : Reg) (b : Reg) (ty : Ty) (nan : Bool) (s : State) : Out :=
  lane1 (.fminX64 g d a b ty nan) s d (fun k l => fmin ty nan (k.opA a l 0) (k.opB b l 0))
/-- 07 R123. -/
def execFmaxX64 (g : Pred) (d : Dst) (a : Reg) (b : Reg) (ty : Ty) (nan : Bool) (s : State) : Out :=
  lane1 (.fmaxX64 g d a b ty nan) s d (fun k l => fmax ty nan (k.opA a l 0) (k.opB b l 0))
/-- 07 R124. -/
def execFcmp (g : Pred) (d : Fin 7) (a : Reg) (b : Reg) (ty : Ty) (cond : FCond) (comb : Combine) (hi : Bool) (s : State) : Out :=
  laneP (.fcmp g d a b ty cond comb hi) s d (fun k l => combineWith comb (fcondHolds cond (cmpVal ty hi (k.opA a l 0)) (cmpVal ty hi (k.opB b l 0))) (k.sh.lane l).pred)
/-- 07 R126. -/
def execFrcpX64 (g : Pred) (d : Dst) (a : Reg) (ty : Ty) (s : State) : Out :=
  lane1 (.frcpX64 g d a ty) s d (fun k l => frcp ty (k.opA a l 0))
/-- 07 R126. -/
def execFrsqX64 (g : Pred) (d : Dst) (a : Reg) (ty : Ty) (s : State) : Out :=
  lane1 (.frsqX64 g d a ty) s d (fun k l => frsq ty (k.opA a l 0))
/-- 07 R126. -/
def execFsqrtX64 (g : Pred) (d : Dst) (a : Reg) (ty : Ty) (s : State) : Out :=
  lane1 (.fsqrtX64 g d a ty) s d (fun k l => fsqrt ty (k.opA a l 0))
/-- 07 R126. -/
def execFexp2X64 (g : Pred) (d : Dst) (a : Reg) (ty : Ty) (s : State) : Out :=
  lane1 (.fexp2X64 g d a ty) s d (fun k l => fexp2 ty (k.opA a l 0))
/-- 07 R126. -/
def execFlog2X64 (g : Pred) (d : Dst) (a : Reg) (ty : Ty) (s : State) : Out :=
  lane1 (.flog2X64 g d a ty) s d (fun k l => flog2 ty (k.opA a l 0))
/-- 07 R122. -/
def execFdp2 (g : Pred) (d : Dst) (a : Reg) (b : Reg) (c : Reg) (ty : Ty) (rm : RM) (s : State) : Out :=
  lane1 (.fdp2 g d a b c ty rm) s d (fun k l => fdp2 ty rm (k.opA a l 0) (k.opB b l 0) (k.opC c l 0))
/-- 07 R127, R128. -/
def execCvt (g : Pred) (d : Dst) (a : Reg) (b : Reg) (dt : Ty) (st : Ty) (rm : RM) (s : State) : Out :=
  issue (.cvt g d a b dt st rm) s (fun k => .ok (groupDone s k d.reg (fun l => cvtWords dt st (fun _ x => cvtElem dt st rm x) (cvtSource k a b dt st l))))
/-- 07 R129. -/
def execCvtsr (g : Pred) (d : Dst) (a : Reg) (b : Reg) (c : Reg) (dt : Ty) (st : Ty) (s : State) : Out :=
  issue (.cvtsr g d a b c dt st) s (fun k => .ok (groupDone s k d.reg (fun l => cvtWords dt st (fun n x => stochElem dt st (cvtRandom k c dt st l n) x) (cvtSource k a b dt st l))))
/-- 07 R125. -/
def execFclassX64 (g : Pred) (d : Dst) (a : Reg) (ty : Ty) (s : State) : Out :=
  lane1 (.fclassX64 g d a ty) s d (fun k l => fclass ty (k.opA a l 0))
/-- 07 R130 to R132. -/
def execDquant (g : Pred) (a : Fin 96) (b : SReg) (c : SReg) (hi : Bool) (rowA : Bool) (colA : Bool) (s : State) : Out :=
  issue (.dquant g a b c hi rowA colA) s (fun k => dquantBody s k a b c hi rowA colA)

end Sys2Proof.Machine
end

