-- ==== Sys2Proof/Machine/Chaff.lean ====
section
/-! DEFINITION. The chaff stack (08 R133 to R151): pushes, pops, spills and refills. -/
namespace Sys2Proof.Machine

open Sys2Proof

/-! ### Lane regions (08 R135 to R137) -/

/-- Base and size in bytes of a lane's region; none in a trap sheaf. -/
def State.chRegion (s : State) (sh : Sheaf) (lane : Nat) : Nat × Nat :=
  match sh.serves, (s.stookOf sh).bind s.cropOf with
  | none, some c =>
    let n := recChRegion c.record
    (recChBase c.record + s.ordinal sh lane * n, n)
  | _, _ => (0, 0)
/-- A lane's capacity in entries. -/
def State.chCapacity (s : State) (sh : Sheaf) (lane : Nat) : Nat := (s.chRegion sh lane).2 / 8
/-- The address of the record at a position. -/
def State.chAddr (s : State) (sh : Sheaf) (lane pos : Nat) : DWord := BitVec.ofNat 64 ((s.chRegion sh lane).1 + 8 * pos)
/-- The record of an entry at a position (Table 8.3). -/
def ChEntry.bytes (x : ChEntry) (pos : Nat) : List Byte :=
  bytesOf 4 x.payload.toNat ++ [x.tag] ++ bytesOf 3 pos
def ChEntry.ofBytes (bs : List Byte) : ChEntry := ⟨bs.getD 4 0, BitVec.ofNat 32 (natOfBytes (bs.take 4))⟩
def seqOk (bs : List Byte) (pos : Nat) : Bool := decide (natOfBytes (bs.drop 5) % 2 ^ 24 = pos % 2 ^ 24)
/-- Entries of a lane that live only in its region. -/
def Lane.below (x : Lane) : Nat := x.depth - x.chip.length

/-- A plain store of a lane that is no store of the program (08 R139): a flight of no name. -/
def plainFlight (k : Ctx) (i : Instr) : Flight :=
  { id := 0, ord := 0, born := 0, instr := i, words := [], pc := k.pc, path := k.path, e := k.e, ops := [], ctx := k.ctx
    stay := false, stage := .access, accs := [], ready := 0, performed := false }

/-! ### Residuals (08 R141 to R146) -/

def Dy_eq (a b : Num.Dy) : Bool := !a.lt b && !b.lt a
/-- Whether an exact number is a value of a format. -/
def exactIn (f : Num.Fmt) (x : Num.Dy) : Bool :=
  let c := f.roundDy .rz false x
  (f.val c).isFin && Dy_eq (f.val c).dy x
/-- A residual's code; zero takes the sign of the operand to be rebuilt. -/
def residual (f : Num.Fmt) (neg : Bool) (x : Num.Dy) : Word := BitVec.ofNat 32 (f.roundDy .rz neg x)
/-- A reconstruction rounded to the rebuilt format; zero takes the sign of the payload. -/
def rebuilt (f : Num.Fmt) (payload : Nat) (t : Num.Dy) : Word :=
  BitVec.ofNat 32 (f.roundDy .rn (f.val payload).neg t)
/-- A SAVE entry (Table 8.1). -/
def ChEntry.save (x : ChEntry) : Bool := x.tag.getLsbD 4

def radd (rm : RM) (a b : Word) : Word × ChEntry :=
  let f := Num.f32
  let va := f.val a.toNat
  let vb := f.val b.toNat
  let c := f.addVal rm va vb
  let r := (va.dy.add vb.dy).add (f.val c).dy.neg
  (BitVec.ofNat 32 c,
    if va.isFin && vb.isFin && (f.val c).isFin && exactIn f r then ⟨0x20, residual f va.neg r⟩ else ⟨0x30, a⟩)
def unadd (x : ChEntry) (a b : Word) : Word :=
  let f := Num.f32
  let va := f.val a.toNat
  let vb := f.val b.toNat
  let vp := f.val x.payload.toNat
  if x.save then x.payload
  else if va.isFin && vb.isFin && vp.isFin then rebuilt f x.payload.toNat ((va.dy.add vp.dy).add vb.dy.neg)
  else BitVec.ofNat 32 f.nanCode
def rmulF (rm : RM) (a b : Word) : Word × ChEntry :=
  let f := Num.f32
  let va := f.val a.toNat
  let vb := f.val b.toNat
  let c := f.mul rm va vb
  let r := (va.dy.mul vb.dy).add (f.val c).dy.neg
  (BitVec.ofNat 32 c,
    if va.isFin && vb.isFin && (f.val c).isFin && !vb.isZero && exactIn f r then ⟨0x40, residual f va.neg r⟩ else ⟨0x50, a⟩)
/-- An exact quotient rounded to nearest even; the divisor is not zero. -/
def divRound (f : Num.Fmt) (zeroNeg : Bool) (n d : Num.Dy) : Nat :=
  if n.m = 0 then f.withSign zeroNeg 0
  else
    let k := Num.bitLen d.m.natAbs + 2 * f.fbits + 16
    let q := n.m.natAbs * 2 ^ k / d.m.natAbs
    f.roundPos .rn (decide (n.m < 0) != decide (d.m < 0)) q (n.e - d.e - k) (n.m.natAbs * 2 ^ k % d.m.natAbs != 0)
def unmulF (x : ChEntry) (a b : Word) : Word :=
  let f := Num.f32
  let va := f.val a.toNat
  let vb := f.val b.toNat
  let vp := f.val x.payload.toNat
  if x.save then x.payload
  else if va.isFin && vb.isFin && vp.isFin && !vb.isZero then BitVec.ofNat 32 (divRound f vp.neg (va.dy.add vp.dy) vb.dy)
  else BitVec.ofNat 32 f.nanCode
def rmulS (a b : Word) : Word × ChEntry :=
  let w : DWord := BitVec.ofInt 64 (a.toInt * b.toInt)
  (loWord w, if b = 0 then ⟨0x51, a⟩ else ⟨0x41, hiWord w⟩)
def unmulS (x : ChEntry) (a b : Word) : Word :=
  if x.save then x.payload
  else if b = 0 then 0
  else BitVec.ofInt 32 (Int.tdiv (x.payload.toInt * 2 ^ 32 + a.toNat) b.toInt)

/-- RCVT (08 R144): the element y and the entry. -/
def rcvt (dt st : Sys2Proof.Ty) (rm : RM) (a b : Word) : Word × ChEntry :=
  let f := fmtOf st
  let p := rcvtPair dt st
  let code := a.toNat % 2 ^ st.bits
  let x := f.val code
  let saved : ChEntry := ⟨BitVec.ofNat 8 (0x70 + p), BitVec.ofNat 32 code⟩
  let entry (r : Num.Dy) (ok : Bool) : ChEntry :=
    if x.isFin && ok && exactIn f r then ⟨BitVec.ofNat 8 (0x60 + p), residual f x.neg r⟩ else saved
  if dt = .s8 then
    match Num.e8m0 b.toNat with
    | none => (0, saved)
    | some k =>
      match x with
      | .nan => (0, saved)
      | .inf n => (BitVec.ofNat 32 (if n then 0x80 else 0x7F), saved)
      | .fin .. =>
        let n := Num.roundInt rm ⟨x.dy.m, x.dy.e - k⟩
        let y := Num.clamp (-128) 127 n
        (BitVec.ofNat 32 (intCode .s8 y), entry (x.dy.add ⟨-y, k⟩) (decide (n = y)))
  else
    let g := fmtOf dt
    let y := g.roundVal rm x
    (BitVec.ofNat 32 y, entry (x.dy.add (g.val y).dy.neg) (!g.beyond rm x && (g.val y).isFin))
def uncvt (dt st : Sys2Proof.Ty) (x : ChEntry) (a b : Word) : Word :=
  let f := fmtOf st
  let p := x.payload.toNat % 2 ^ st.bits
  let vp := f.val p
  let nan : Word := BitVec.ofNat 32 f.nanCode
  if x.save then BitVec.ofNat 32 p
  else if !vp.isFin then nan
  else if dt = .s8 then
    match Num.e8m0 b.toNat with
    | none => nan
    | some k => rebuilt f p ((⟨intVal .s8 (a.toNat % 256), k⟩ : Num.Dy).add vp.dy)
  else
    let vy := (fmtOf dt).val (a.toNat % 2 ^ dt.bits)
    if vy.isFin then rebuilt f p (vy.dy.add vp.dy) else nan

def rrelu (a : Word) : Word × ChEntry :=
  let x := Num.f32.val a.toNat
  if x.isNan then (0x7FC00000, ⟨0x90, a⟩)
  else if x.neg && !x.isZero then (0, ⟨0x90, a⟩)
  else (a, ⟨0x80, 0⟩)
def unrelu (x : ChEntry) (a : Word) : Word := if x.save then x.payload else a

def rshr (t : Sys2Proof.Ty) (a b : Word) : Word × ChEntry :=
  let n := b.toNat
  (shr t a n,
    if n < 32 then ⟨if t = .s32 then 0xA1 else 0xA0, BitVec.ofNat 32 (a.toNat % 2 ^ n)⟩
    else ⟨if t = .s32 then 0xB1 else 0xB0, a⟩)
def unshr (x : ChEntry) (a b : Word) : Word :=
  let n := b.toNat
  if x.save then x.payload
  else if 32 ≤ n then x.payload
  else (a <<< n) ||| BitVec.ofNat 32 (x.payload.toNat % 2 ^ n)

/-- What an undo partner writes for the entry it pops and its operands A and B (08 R141 to R148). -/
def popValue (i : Instr) (a b : Word) (x : ChEntry) : Word :=
  match i with
  | .unaddF32B32 .. | .unaddX64 .. => unadd x a b
  | .unmulF32B32 .. => unmulF x a b
  | .unmulS32B32 .. => unmulS x a b
  | .unmulX64 (ty := ty) .. => if ty = .s32 then unmulS x a b else unmulF x a b
  | .uncvt (dt := dt) (st := st) .. => uncvt dt st x a b
  | .unreluF32B32 .. | .unreluX64 .. => unrelu x a
  | .unshr .. => unshr x a b
  | _ => x.payload

/-! ### Push (08 R138, R141) -/

/-- The records that a push spills: the eight oldest on-chip entries of each lane of E that has sixteen. -/
def spills (k : Ctx) : List (Nat × Nat × ChEntry) :=
  (lanesOf k.e).flatMap (fun l =>
    let x := k.sh.lane l
    if x.chip.length < 16 then []
    else (x.chip.drop (x.chip.length - 8)).zipIdx.map (fun e => (l, x.below + 7 - e.2, e.1)))
/-- The spill stores, in program order behind what their lanes have not performed yet; none where one has to wait. Each marks its
page (16 R285). -/
def State.spillNow (s : State) (k : Ctx) (i : Instr) (accs : List Acc) : Option State :=
  accs.foldl (fun (r : Option State) a => r.bind (fun s =>
    if s.storeNow k.sid k.sh.core k.sh a then some ((s.performStore k.sid k.sh.core k.sh (plainFlight k i) 0 a).dirtyMark k.ctx a.pte a.pa a.hd) else none)) (some s)
/-- One push in every lane of E, after the spills. -/
def pushDone (s : State) (k : Ctx) (d : Option Reg) (f : Nat → Word × ChEntry) : Done :=
  let s := s.modSheaf k.sid (fun sh => sh.modLanes k.e (fun l x =>
    { x with depth := x.depth + 1
             chip := (f l).2 :: (if x.chip.length < 16 then x.chip else x.chip.take (x.chip.length - 8)) }))
  match d with
  | some r => groupDone s k r (fun l => [(f l).1])
  | none => { st := s }
def pushBody (i : Instr) (s : State) (k : Ctx) (d : Option Reg) (f : Nat → Word × ChEntry) : Except TrapInfo Done :=
  let full := laneSetOf 64 (fun l => k.e.getLsbD l && decide (s.chCapacity k.sh l ≤ (k.sh.lane l).depth))
  if full != 0 then .error (k.trap .chfull full 0)
  else
    let sp := spills k
    match s.xlateLanes (some k.sh.core) k.ctx .write (sp.map (fun x => (x.1, s.chAddr k.sh x.1 x.2.1))) with
    | (.trap c m addr, _) => .error (k.trap c m addr)
    | (.park l, s) => .ok { st := s.parkAt k i l }
    | (.ok l, s) =>
      let accs : List Acc := (l.zip sp).map (fun (x, y) =>
        ⟨x.1, x.2.1, x.2.2.1, 8, x.2.2.2.1, x.2.2.2.2.1, x.2.2.2.2.2, y.2.2.bytes y.2.1, .queued⟩)
      match s.spillNow k i accs with
      | none => .ok { st := s.parkAt k i [] }
      | some s => .ok (pushDone s k d f)

/-! ### Pop (08 R137, R147) -/

/-- The positions that a pop refills in a lane. -/
def refillOf (x : Lane) : List Nat :=
  if x.chip.isEmpty then (List.range (Nat.min 8 x.below)).map (fun j => x.below - 1 - j) else []
def popDone (s : State) (i : Instr) (k : Ctx) (d : Reg) : Done :=
  let ops := k.capture i
  let f (l : Nat) (x : ChEntry) : Word := popValue i ((ops.getD l []).getD 0 0) ((ops.getD l []).getD 4 0) x
  let s := s.modSheaf k.sid (fun sh => sh.modLanes k.e (fun _ x => { x with depth := x.depth - 1, chip := x.chip.tail }))
  groupDone s k d (fun l => [f l ((k.sh.lane l).chip.headD ⟨0, 0⟩)])
/-- The end of a refill whose reads have all come: the SEQ and tag checks of R147 over every lane of E, then the entries come on
chip and the pop takes place. In the cycle of its issue the latches shift and b0 takes the value (05 R86): later, the blocked
lanes have lost them (R87). A fault leaves them. -/
def State.popRefilled (s : State) (sid : Nat) (sh : Sheaf) (f : Flight) : State :=
  let entries (l : Nat) : List (List Byte) := f.accs.filterMap (fun a => match a.st with
    | .done bs => if a.lane = l then some bs else none
    | _ => none)
  let seqs (l : Nat) : Bool := (entries l).zipIdx.all (fun e => seqOk e.1 ((sh.lane l).below - 1 - e.2))
  let chip (l : Nat) : List ChEntry := if (entries l).isEmpty then (sh.lane l).chip else (entries l).map ChEntry.ofBytes
  let bad := laneSetOf 64 (fun l => f.e.getLsbD l && (!seqs l || !(popTags f.instr).contains ((chip l).headD ⟨0, 0⟩).tag))
  if bad != 0 then s.faultAt sid f .chord bad 0 []
  else
    let d : Reg := match f.instr.dsts with
      | u :: _ => u.base
      | [] => .z
    let v (l : Nat) : Word := popValue f.instr ((f.ops.getD l []).getD 0 0) ((f.ops.getD l []).getD 4 0) ((chip l).headD ⟨0, 0⟩)
    let s := s.modSheaf sid (fun sh =>
      let sh := sh.modLanes f.e (fun l x => { x with depth := x.depth - 1, chip := (chip l).tail })
      let sh := (lanesOf f.e).foldl (fun (sh : Sheaf) l => sh.writeReg d l 0 (v l)) sh
      if f.born = s.clock + 1 then sh.modLanes f.path (fun l x => x.shiftLatch (if f.e.getLsbD l then some (v l) else none)) else sh)
    ((s.touchRegs sid f.instr.dsts).modSheaf sid (fun sh => sh.dropFlight f.id)).checkWatch sid f 0
/-- One attempt at a refill: its reads, performed as loads are (R139), then its end. -/
def State.advanceRefill (s : State) (sid fid : Nat) : State :=
  let all (f : Flight) : Bool := f.accs.all (fun a => match a.st with | .done _ => true | _ => false)
  match (s.sheaf? sid).bind (fun sh => sh.flight? fid) with
  | none => s
  | some f =>
    let s := if all f then s else s.performFlight sid f
    match (s.sheaf? sid).bind (fun sh => (sh.flight? fid).map (fun f => (sh, f))) with
    | none => s
    | some (sh, f) => if all f then s.popRefilled sid sh f else s
/-- A pop: empty stacks first, then the refills, then the tags. A refill is a flight of its own: its reads are performed
as loads are, and the pop takes place when they have come (R139). -/
def popBody (i : Instr) (s : State) (k : Ctx) (d : Reg) : Except TrapInfo Done :=
  let empty := laneSetOf 64 (fun l => k.e.getLsbD l && decide ((k.sh.lane l).depth = 0))
  if empty != 0 then .error (k.trap .chempty empty 0)
  else
    let rs := (lanesOf k.e).flatMap (fun l => (refillOf (k.sh.lane l)).map (fun p => (l, s.chAddr k.sh l p)))
    if rs.isEmpty then
      let bad := laneSetOf 64 (fun l => k.e.getLsbD l && !(popTags i).contains ((k.sh.lane l).chip.headD ⟨0, 0⟩).tag)
      if bad != 0 then .error (k.trap .chord bad 0) else .ok (popDone s i k d)
    else
      match s.xlateLanes (some k.sh.core) k.ctx .read rs with
      | (.trap c m addr, _) => .error (k.trap c m addr)
      | (.park l, s) => .ok { st := s.parkAt k i l, refills := true }
      | (.ok l, s) =>
        let (fid, s) := s.addFlight k i .waiting false
          (l.map (fun (lane, va, pa, pte, hd, ho) => ⟨lane, va, pa, 8, pte, hd, ho, [], .queued⟩))
        .ok { st := s.advanceRefill k.sid fid, refills := true }

/-- CHDROP (08 R148). -/
def dropBody (s : State) (k : Ctx) (a : Reg) : Except TrapInfo Done :=
  let bad := laneSetOf 64 (fun l => k.e.getLsbD l && decide ((k.sh.lane l).depth < (k.opA a l 0).toNat))
  if bad != 0 then .error (k.trap .chempty bad 0)
  else .ok { st := s.modSheaf k.sid (fun sh => sh.modLanes k.e (fun l x =>
    let n := (k.opA a l 0).toNat
    { x with depth := x.depth - n, chip := x.chip.drop n })) }


/-- 08 R142. -/
def execRaddF32B32 (g : Pred) (d : Dst) (a : Reg) (b : Reg) (s : State) : Out :=
  issue (.raddF32B32 g d a b) s (fun k => pushBody (.raddF32B32 g d a b) s k (some d.reg) (fun l => radd .rn (k.opA a l 0) (k.opB b l 0)))
/-- 08 R142. -/
def execUnaddF32B32 (g : Pred) (d : Dst) (a : Reg) (b : Reg) (s : State) : Out :=
  issue (.unaddF32B32 g d a b) s (fun k => popBody (.unaddF32B32 g d a b) s k d.reg)
/-- 08 R143. -/
def execRmulF32B32 (g : Pred) (d : Dst) (a : Reg) (b : Reg) (s : State) : Out :=
  issue (.rmulF32B32 g d a b) s (fun k => pushBody (.rmulF32B32 g d a b) s k (some d.reg) (fun l => rmulF .rn (k.opA a l 0) (k.opB b l 0)))
/-- 08 R143. -/
def execUnmulF32B32 (g : Pred) (d : Dst) (a : Reg) (b : Reg) (s : State) : Out :=
  issue (.unmulF32B32 g d a b) s (fun k => popBody (.unmulF32B32 g d a b) s k d.reg)
/-- 08 R145. -/
def execRreluF32B32 (g : Pred) (d : Dst) (a : Reg) (s : State) : Out :=
  issue (.rreluF32B32 g d a) s (fun k => pushBody (.rreluF32B32 g d a) s k (some d.reg) (fun l => rrelu (k.opA a l 0)))
/-- 08 R145. -/
def execUnreluF32B32 (g : Pred) (d : Dst) (a : Reg) (s : State) : Out :=
  issue (.unreluF32B32 g d a) s (fun k => popBody (.unreluF32B32 g d a) s k d.reg)
/-- 08 R143. -/
def execRmulS32B32 (g : Pred) (d : Dst) (a : Reg) (b : Reg) (s : State) : Out :=
  issue (.rmulS32B32 g d a b) s (fun k => pushBody (.rmulS32B32 g d a b) s k (some d.reg) (fun l => rmulS (k.opA a l 0) (k.opB b l 0)))
/-- 08 R143. -/
def execUnmulS32B32 (g : Pred) (d : Dst) (a : Reg) (b : Reg) (s : State) : Out :=
  issue (.unmulS32B32 g d a b) s (fun k => popBody (.unmulS32B32 g d a b) s k d.reg)
/-- 08 R142. -/
def execRaddX64 (g : Pred) (d : Dst) (a : Reg) (b : Reg) (rm : RM) (s : State) : Out :=
  issue (.raddX64 g d a b rm) s (fun k => pushBody (.raddX64 g d a b rm) s k (some d.reg) (fun l => radd rm (k.opA a l 0) (k.opB b l 0)))
/-- 08 R143. -/
def execRmulX64 (g : Pred) (d : Dst) (a : Reg) (b : Reg) (ty : Ty) (rm : RM) (s : State) : Out :=
  issue (.rmulX64 g d a b ty rm) s (fun k => pushBody (.rmulX64 g d a b ty rm) s k (some d.reg) (fun l => if ty = .s32 then rmulS (k.opA a l 0) (k.opB b l 0) else rmulF rm (k.opA a l 0) (k.opB b l 0)))
/-- 08 R144. -/
def execRcvt (g : Pred) (d : Dst) (a : Reg) (b : Reg) (dt : Ty) (st : Ty) (rm : RM) (s : State) : Out :=
  issue (.rcvt g d a b dt st rm) s (fun k => pushBody (.rcvt g d a b dt st rm) s k (some d.reg) (fun l => rcvt dt st rm (k.opA a l 0) (k.opB b l 0)))
/-- 08 R145. -/
def execRreluX64 (g : Pred) (d : Dst) (a : Reg) (s : State) : Out :=
  issue (.rreluX64 g d a) s (fun k => pushBody (.rreluX64 g d a) s k (some d.reg) (fun l => rrelu (k.opA a l 0)))
/-- 08 R146. -/
def execRshr (g : Pred) (d : Dst) (a : Reg) (b : Reg) (ty : Ty) (s : State) : Out :=
  issue (.rshr g d a b ty) s (fun k => pushBody (.rshr g d a b ty) s k (some d.reg) (fun l => rshr ty (k.opA a l 0) (k.opB b l 0)))
/-- 08 R142. -/
def execUnaddX64 (g : Pred) (d : Dst) (a : Reg) (b : Reg) (s : State) : Out :=
  issue (.unaddX64 g d a b) s (fun k => popBody (.unaddX64 g d a b) s k d.reg)
/-- 08 R143. -/
def execUnmulX64 (g : Pred) (d : Dst) (a : Reg) (b : Reg) (ty : Ty) (s : State) : Out :=
  issue (.unmulX64 g d a b ty) s (fun k => popBody (.unmulX64 g d a b ty) s k d.reg)
/-- 08 R144. -/
def execUncvt (g : Pred) (d : Dst) (a : Reg) (b : Reg) (dt : Ty) (st : Ty) (s : State) : Out :=
  issue (.uncvt g d a b dt st) s (fun k => popBody (.uncvt g d a b dt st) s k d.reg)
/-- 08 R145. -/
def execUnreluX64 (g : Pred) (d : Dst) (a : Reg) (s : State) : Out :=
  issue (.unreluX64 g d a) s (fun k => popBody (.unreluX64 g d a) s k d.reg)
/-- 08 R146. -/
def execUnshr (g : Pred) (d : Dst) (a : Reg) (b : Reg) (ty : Ty) (s : State) : Out :=
  issue (.unshr g d a b ty) s (fun k => popBody (.unshr g d a b ty) s k d.reg)
/-- 08 R148. -/
def execChpush (g : Pred) (a : Reg) (s : State) : Out :=
  issue (.chpush g a) s (fun k => pushBody (.chpush g a) s k none (fun l => (0, ⟨0xC0, (k.opA a l 0)⟩)))
/-- 08 R148. -/
def execChpop (g : Pred) (d : Dst) (s : State) : Out :=
  issue (.chpop g d) s (fun k => popBody (.chpop g d) s k d.reg)
/-- 08 R148. -/
def execChdrop (g : Pred) (a : Reg) (s : State) : Out :=
  issue (.chdrop g a) s (fun k => dropBody s k a)
/-- 08 R148. -/
def execChdepth (g : Pred) (d : Dst) (s : State) : Out :=
  lane1 (.chdepth g d) s d (fun k l => BitVec.ofNat 32 (k.sh.lane l).depth)

end Sys2Proof.Machine
end

