-- ==== Sys2Proof/Machine/Engine.lean ====
section
/-! DEFINITION. What engine operations share: the release at their fork, their reads and writes of memory as plain
accesses of the issuing barn, their tags, and an instruction that is not yet issued (10 R172, R173; 12 R218, R221). -/
namespace Sys2Proof.Machine

open Sys2Proof

/-- The fork of an engine operation is a release at .ST (10 R172, 12 R218): the instruction is not issued while the
release is open, and failed peer lines are reported in its place (DEDUCED, log 31). -/
def forkRelease (s : State) (k : Ctx) (go : State → Except TrapInfo Done) : Except TrapInfo Done :=
  match s.releaseState k.sid s.nextId k.path .st with
  | .waits => .ok { st := s, blocked := true }
  | .failed l => .error { (k.trap .remfail k.path (BitVec.ofNat 64 (l.headD 0))) with fail := l }
  | .clear => go (s.publishUpTo (barnOf k.sh.core) .st)

/-- One translated piece of a range: physical address, bytes, leaf entry, home die, home-only. -/
abbrev Piece := Nat × Nat × Nat × Nat × Bool

/-- Whether a piece cannot be reached now. -/
def State.pieceWaits (s : State) (p : Piece) : Bool :=
  !isPeer p.1 && !isHost p.1 && s.dieWaits p.2.2.2.1

/-- Whether a peer's memory is out of reach. -/
def State.noRoute (s : State) (p : Piece) : Bool := isPeer p.1 && !s.hasRoute (peerOf p.1)
/-- A peer that has no route while the routes are computed anew (20 R345). -/
def State.routeWaits (s : State) (p : Piece) : Bool := s.noRoute p && s.fabric.recompute
/-- The same of a read by a unit of the device, which waits for a half that the host may hold modified (12 R224). -/
def State.unitWaits (s : State) (p : Piece) : Bool :=
  s.pieceWaits p || (!isHost p.1 && !isPeer p.1 && (halvesOf p.1 p.2.1).any s.hostMod)
/-- Whether a barn's L1 serves a plain read of one byte: its word is valid there, or the barn wrote the byte (12 R213). -/
def Barn.serves (b : Barn) (a : Nat) : Bool := (b.hit a 1 false).isSome
/-- Lines of a range of which a barn's L1 does not serve every byte. -/
def State.missedLines (s : State) (b pa n : Nat) : List Nat :=
  (((wordsOf pa n).filter (fun wa => !(List.range 4).all (fun j =>
    decide (4 * wa + j < pa ∨ pa + n ≤ 4 * wa + j) || (s.barn b).serves (4 * wa + j)))).map lineOf).eraseDups
/-- Whether an engine of a core has to wait before it reads a piece: for the host link, for a half that the host may hold
modified (12 R224), for a gather copy held back, for a way of the L1. `up` says whether the function's host link carries
traffic. -/
def State.readWaits (s : State) (core : Nat) (up : Bool) (p : Piece) : Bool :=
  s.pieceWaits p || s.routeWaits p || (isHost p.1 && !up) || s.gatherStuck (barnOf core) p.1 p.2.1 ||
    (!isHost p.1 && !isPeer p.1 && ((halvesOf p.1 p.2.1).any s.hostMod ||
      (!p.2.2.2.2 && (s.missedLines (barnOf core) p.1 p.2.1).any (fun l => !s.roomFor (barnOf core) l))))
/-- The same before it writes one: the host gives back a half in which words are to be registered, the line has a way. -/
def State.writeWaits (s : State) (core : Nat) (up : Bool) (p : Piece) : Bool :=
  s.pieceWaits p || s.routeWaits p || (isHost p.1 && !up) || s.gatherStuck (barnOf core) p.1 p.2.1 ||
    (!isHost p.1 && !isPeer p.1 && ((halvesOf p.1 p.2.1).any s.hostHolds || (!p.2.2.2.2 && s.storeWaits (barnOf core) p.1 p.2.1 true)))
/-- Bytes that a barn's plain read takes from its L1 where that serves them, from others elsewhere. -/
def Barn.plain (b : Barn) (pa : Nat) (bs : List Byte) : List Byte :=
  bs.zipIdx.map (fun e => match b.hit (pa + e.2) 1 false with
    | some ([x], _) => x
    | _ => e.1)
/-- Bytes of local or host memory as the issuing barn's engine reads them, a plain access (10 R173, 12 R213): its L1 where that
serves them, else the home, whose line the L1 installs. A lost word reads its unspecified bytes and keeps its mark
(12 R221). -/
def State.engineRead (s : State) (core ctx : Nat) (p : Piece) : List Byte × State :=
  let (pa, n, pte, hd, ho) := p
  if isHost pa then (Machine.memRead s.mem pa n, s)
  else
    let b := barnOf core
    let s := s.publishAt b pa n
    let home := s.cohRead pa n
    if ho then (home, s)
    else ((s.barn b).plain pa home, (s.missedLines b pa n).foldl (fun s line =>
      let lo := Nat.max pa (128 * line)
      s.installLine b lo (Nat.min (pa + n) (128 * (line + 1)) - lo) ((writerClass (s.home line).last b).getD .sh) ctx pte hd) s)
def State.engineReadAll (s : State) (core ctx : Nat) : List Piece → List Byte × State
  | [] => ([], s)
  | p :: r =>
    let (a, s) := s.engineRead core ctx p
    let (b, s) := State.engineReadAll s core ctx r
    (a ++ b, s)

/-- A write of an engine: into the issuing barn's L1, at the home of a home-only page, to the host; to a peer it sends a
message in the operation's name, and a valid copy in the L1 takes it (12 R222). Each write marks its page (16 R285). The
messages that the write must wait for are answered. -/
def State.engineWrite (s : State) (core ctx : Nat) (p : Piece) (bs : List Byte) (op : Nat) : List Nat × State :=
  let (pa, n, pte, hd, ho) := p
  let b := barnOf core
  if isHost pa then ([], s.memWrite pa bs)
  else if isPeer pa then
    let (m, s) := (s.peerUpdate b pa bs).addMsg (.peer b 0 op core pa n (some bs) none true) []
    ([m], s)
  else
    let s := s.publishAt b pa n
    if ho then ([], (s.homeWrite pa bs (.barn b)).dirtyMark ctx pte pa hd)
    else
      let s := (s.l1Store core pa bs ctx pte hd [] 0 0).dirtyMark ctx pte pa hd
      ((wordsOf pa n).filterMap (fun wa => s.pendingReg b wa), s)
/-- A write of pieces that run on: each message with the place of its bytes, the first byte's place given. -/
def State.engineWriteAll (s : State) (core ctx op : Nat) : List Piece → List Byte → Nat → List (Nat × Nat) × State
  | [], _, _ => ([], s)
  | p :: r, bs, place =>
    let (a, s) := s.engineWrite core ctx p (bs.take p.2.1) op
    let (b, s) := State.engineWriteAll s core ctx op r (bs.drop p.2.1) (place + p.2.1)
    (a.map (·, place) ++ b, s)

/-- Whether the stook of a sheaf holds the token now (18 R309). -/
def State.tokenOf (s : State) (sh : Sheaf) : Bool :=
  match s.stookOf sh, (s.stookOf sh).bind s.cropOf with
  | some st, some c => c.det && st.holdsToken c
  | _, _ => false

/-- A 64-bit counter decremented by 1 at its home by an engine of die d (12 R391). At a peer's home the decrement is a request
to it; a peer that cannot be reached takes none (12 R223). -/
def State.decrement (s : State) (d : Nat) (p : Piece) (ctx : Nat) : State :=
  let (pa, _, pte, hd, _) := p
  let v := natOfBytes (if isHost pa then Machine.memRead s.mem pa 8 else s.cohRead pa 8)
  let bs := bytesOf 8 ((v + 2 ^ 64 - 1) % 2 ^ 64)
  if isPeer pa then
    if s.hasRoute (peerOf pa) then (s.addMsg (.atomic (22 * d) 0 0 pa 8 hd ctx pte (.op .sub) none [⟨0, bytesOf 8 1⟩]) []).2 else s
  else if isHost pa then s.memWrite pa bs
  else (s.homeWrite pa bs (.die d)).dirtyMark ctx pte pa hd
/-- Whether a counter has to wait: for its die, for the host link, for a half that the host holds (13 R232, 12 R224), for a
recomputation of the routes. -/
def State.counterWaits (s : State) (up : Bool) (p : Piece) : Bool :=
  s.pieceWaits p || (isHost p.1 && !up) || (!isHost p.1 && !isPeer p.1 && s.hostHolds p.1) ||
    (isPeer p.1 && !s.hasRoute (peerOf p.1) && s.fabric.recompute)
/-- A counter at a virtual address decremented: the state, and none once it has been, else the fault record on which it parks
(16 R283), if that is what it waits for. -/
def State.decrementVa (s : State) (d ctx : Nat) (va : DWord) (up : Bool) : State × Option (List Nat) :=
  match s.translate none ctx va .write true with
  | (.ok pa pte hd ho, s) => if s.counterWaits up (pa, 8, pte, hd, ho) then (s, some []) else (s.decrement d (pa, 8, pte, hd, ho) ctx, none)
  | (.park r, s) => (s, some [r])
  | (_, s) => (s, none)

/-- An engine operation of a sheaf has completed: the first watch match of the ranges it touched traps the sheaf where
its lanes stand; one already frozen takes it as it resumes (19 R330). -/
def State.watchEngine (s : State) (sid tag : Nat) (ranges : List (Nat × Nat)) : State :=
  match s.sheaf? sid with
  | none => s
  | some sh =>
    let hits := ranges.filterMap (fun r => (watchHit sh.watch 3 r.1 r.2).map (fun w => (r, w)))
    match hits with
    | (r, w) :: _ =>
      let m := sh.live
      let first := match lanesOf m with
        | l :: _ => (sh.lane l).pc
        | [] => 0
      s.watchTrap sid { code := Cause.watch.code, pc := first, addr := BitVec.ofNat 64 r.1, lanes := m, path := m
                        info := BitVec.ofNat 64 (w + 256 * tag), fetch := false, engine := true, fail := [] }
    | [] => s

end Sys2Proof.Machine
end

