-- ==== Sys2Proof/Machine/Fitted.lean ====
section
/-! DEFINITION. Fitted regions (15 R261 to R277): loads, stores, builds and refits. -/
namespace Sys2Proof.Machine

open Sys2Proof

/-! ### Accesses of a region's home (15 R263) -/

/-- Why a step of a home stops: a page that it cannot have, or that does not translate yet, the address and kind of the first;
poison that it would consume, a place that it does not reach; or what it has to wait for. -/
inductive HomeStop where
  | page (va : DWord) (kind : AKind)
  | poison
  | away (va : DWord)
  | waits
  deriving DecidableEq, Repr
/-- A step of a home. -/
abbrev Home (α : Type) := State → Except HomeStop (α × State)
def Home.ret {α : Type} (x : α) : Home α := fun s => .ok (x, s)
def Home.bind {α β : Type} (m : Home α) (f : α → Home β) : Home β := fun s =>
  match m s with
  | .ok (x, s) => f x s
  | .error e => .error e
/-- The same step for each element, in order. -/
def Home.each {α : Type} (f : α → Home Unit) : List α → Home Unit
  | [] => Home.ret ()
  | x :: r => (f x).bind (fun _ => Home.each f r)

/-- Pieces that a home reaches: local memory and the host's; anything else counts as declined (log 41). -/
def homeReaches (l : List Piece) : Bool := l.all (fun p => !isPeer p.1)
/-- Pages in host memory answer while the link of the context's function is up (20 R341, log 114). -/
def State.homeLink (s : State) (ctx : Nat) (l : List Piece) : Bool := s.fnUp (s.fnOfCtx ctx) || !l.any (fun p => isHost p.1)
def homeRead (ctx va n : Nat) : Home (List Byte) := fun s =>
  match s.translateAll none ctx .read true (pieces va n) with
  | (.ok l, s) =>
    if !homeReaches l then .error (.away (BitVec.ofNat 64 va))
    else if l.any (fun p => s.poisoned p.1 p.2.1) then .error .poison
    else if l.any s.unitWaits || !s.homeLink ctx l then .error .waits
    else .ok (l.flatMap (fun p => if isHost p.1 then Machine.memRead s.mem p.1 p.2.1 else s.cohRead p.1 p.2.1), s)
  | (.error (_, a), _) => .error (.page a .read)
def State.homePut (s : State) (d ctx : Nat) : List Piece → List Byte → State
  | [], _ => s
  | p :: r, bs =>
    let (pa, n, pte, hd, _) := p
    let s := if isHost pa then s.memWrite pa (bs.take n)
      else (s.homeWrite pa (bs.take n) (.die d)).dirtyMark ctx pte pa hd
    State.homePut s d ctx r (bs.drop n)
def homeWriteVa (d ctx va : Nat) (bs : List Byte) : Home Unit := fun s =>
  match s.translateAll none ctx .write true (pieces va bs.length) with
  | (.ok l, s) =>
    if !homeReaches l then .error (.away (BitVec.ofNat 64 va))
    else if l.any (fun p => s.pieceWaits p || (!isHost p.1 && (halvesOf p.1 p.2.1).any s.hostHolds)) || !s.homeLink ctx l then .error .waits
    else .ok ((), s.homePut d ctx l bs)
  | (.error (_, a), _) => .error (.page a .write)
/-- The pages of some bytes are marked as written (16 R285). -/
def homeMark (ctx va n : Nat) : Home Unit := fun s =>
  match s.translateAll none ctx .read true (pieces va n) with
  | (.ok l, s) => .ok ((), l.foldl (fun s p => s.dirtyMark ctx p.2.2.1 p.1 p.2.2.2.1) s)
  | (.error (_, a), _) => .error (.page a .read)
/-- Steps in order, as far as they go: how many are done, and why the next stops. -/
def Home.upTo : List (Home Unit) → Nat → State → State × Nat × Option HomeStop
  | [], n, s => (s, n, none)
  | f :: t, n, s => match f s with
    | .ok (_, s) => Home.upTo t (n + 1) s
    | .error e => (s, n, some e)

/-! ### The network (15 R264, R265) -/

def RgnFields.elemTy (f : RgnFields) : Sys2Proof.Ty := match f.ef with | 0 => .f32 | 1 => .f16 | 2 => .bf16 | _ => .s8
def RgnFields.bytes (f : RgnFields) : Nat := f.elemTy.bits / 8
def RgnFields.cap (f : RgnFields) : Nat := 2 ^ f.logcap
def RgnFields.mark (f : RgnFields) : Nat := 3 * f.cap / 4
def RgnFields.points (f : RgnFields) : Nat := f.extent.foldl (· * ·) 1
/-- Fan-in and width of each layer, the output last. -/
def layersOf : Nat → List Nat → List (Nat × Nat)
  | f, [] => [(f, 1)]
  | f, w :: ws => (f, w) :: layersOf w ws
def RgnFields.layers (f : RgnFields) : List (Nat × Nat) := layersOf f.dims f.widths
def RgnFields.params (f : RgnFields) : Nat := (f.layers.map (fun l => l.2 * (l.1 + 1))).foldl (· + ·) 0
/-- One neuron: the bias, then each product added with one rounding. -/
def neuron (p : List Nat) (inp : List Nat) : Nat :=
  let b := Num.f32.roundVal .rn (Num.f16.val (p.headD 0))
  (p.tail.zip inp).foldl (fun acc x => Num.f32.fma .rn (Num.f16.val x.1) (Num.f32.val x.2) (Num.f32.val acc)) b
def relu32 (x : Nat) : Nat :=
  let v := Num.f32.val x
  if v.isNan then x else if v.neg && !v.isZero then 0 else x
def netGo : List (Nat × Nat) → List Nat → List Nat → Nat
  | [], _, inp => inp.headD 0
  | (fan, w) :: ls, p, inp =>
    let out := (List.range w).map (fun j => neuron ((p.drop (j * (fan + 1))).take (fan + 1)) inp)
    netGo ls (p.drop (w * (fan + 1))) (if ls.isEmpty then out else out.map relu32)
/-- Eval(P, c): the element code. -/
def evalPoint (f : RgnFields) (p : List Nat) (c : List Nat) : Nat :=
  let x := (List.range f.dims).map (fun k =>
    Num.f32.fma .rn (.fin false (c.getD k 0) 0) (Num.f32.val (f.a.getD k 0).toNat) (Num.f32.val (f.o.getD k 0).toNat))
  let y := netGo f.layers p x
  if f.ef = 0 then y else cvtElem f.elemTy .f32 .rn y

/-! ### Domain and keys (15 R266) -/

def coordsOf (x : DWord) : List Nat := (List.range 4).map (fun k => x.toNat / 2 ^ (16 * k) % 65536)
def RgnFields.inDomain (f : RgnFields) (c : List Nat) : Bool :=
  (List.range f.dims).all (fun k => decide (c.getD k 0 < f.extent.getD k 1))
def keyGo : List Nat → List Nat → Nat
  | e :: es, c :: cs => c + e * keyGo es cs
  | _, _ => 0
def RgnFields.key (f : RgnFields) (c : List Nat) : Nat := keyGo f.extent c
def unkey : List Nat → Nat → List Nat
  | [], _ => []
  | e :: es, k => k % e :: unkey es (k / e)
def RgnFields.coords (f : RgnFields) (key : Nat) : List Nat := unkey f.extent key

/-! ### The exception lists (15 R267) -/

def Region.area (r : Region) (g : Nat) : Nat := r.f.list + g % 2 * 16 * r.f.cap
def Region.slot (r : Region) (g : Nat) : Nat := r.f.param + g % 2 * 1024
/-- The live parameters as FP16 codes. -/
def paramsOf (r : Region) (g : Nat) : Home (List Nat) :=
  (homeRead r.ctx (r.slot g) (2 * r.f.params)).bind (fun bs => Home.ret ((List.range r.f.params).map (fun k => fieldNat bs (2 * k) 2)))
/-- Where a key stands in a list, or the invalid slot that ends its probing. -/
inductive Probe where
  | found (i value : Nat)
  | free (i : Nat)
  | full
def probeGo (r : Region) (g key : Nat) : Nat → Nat → Home Probe
  | 0, _ => Home.ret .full
  | n + 1, i =>
    (homeRead r.ctx (r.area g + 16 * i) 16).bind (fun bs =>
      if fieldNat bs 8 1 % 2 = 0 then Home.ret (.free i)
      else if fieldNat bs 0 4 = key then Home.ret (.found i (fieldNat bs 4 4))
      else probeGo r g key n ((i + 1) % r.f.cap))
def hashSlot (key logcap : Nat) : Nat := key * 0x9E3779B1 % 2 ^ 32 / 2 ^ (32 - logcap)
def probeKey (r : Region) (g key : Nat) : Home Probe := probeGo r g key r.f.cap (hashSlot key r.f.logcap)
/-- A record written into a list, over its key's record or into the free slot; no room answers false, a new record true. -/
inductive Put where
  | held | new | full
  deriving DecidableEq, Repr
def slotBytes (key value : Nat) (comp : Bool) : List Byte := bytesOf 4 key ++ bytesOf 4 value ++ bytesOf 8 (if comp then 3 else 1)
def putKey (r : Region) (g key value : Nat) (comp : Bool) : Home Put :=
  (probeKey r g key).bind (fun p => match p with
    | .found i _ => (homeWriteVa r.hd r.ctx (r.area g + 16 * i) (slotBytes key value comp)).bind (fun _ => Home.ret .held)
    | .free i => (homeWriteVa r.hd r.ctx (r.area g + 16 * i) (slotBytes key value comp)).bind (fun _ => Home.ret .new)
    | .full => Home.ret .full)
/-- The records of an area invalidated, one by one. -/
def clearArea (r : Region) (g : Nat) : List (Home Unit) :=
  (List.range r.f.cap).map (fun i => homeWriteVa r.hd r.ctx (r.area g + 16 * i) (List.replicate 16 0))
/-- The value that a generation gives at a key. Its parameters are read only where no record gives the value (15 R263). -/
def valueAt (r : Region) (g key : Nat) : Home Nat :=
  (probeKey r g key).bind (fun x => match x with
    | .found _ v => Home.ret (v % 2 ^ (8 * r.f.bytes))
    | _ => (paramsOf r g).bind (fun p => Home.ret (evalPoint r.f p (r.f.coords key))))

/-! ### Descriptors (15 R261, R262) -/

def Region.status (r : Region) : Nat :=
  let b (x : Bool) (k : Nat) : Nat := if x then 2 ^ k else 0
  r.gen % 256 * 2 ^ 24 + r.rfres * 2 ^ 20 + r.err * 256 + b r.ood 4 + b r.urgent 3 + b r.refit.isSome 2 + b r.building 1 + b r.valid 0
/-- The home's update of a region: the HW fields that change are written to the descriptor. -/
def State.setRegion (s : State) (key : Nat) (r : Region) : State :=
  let put (s : State) (off n v : Nat) : State := s.homeWrite (key + off) (bytesOf n v) (.die r.hd)
  let old := s.regions.find? key
  let s := { s with regions := s.regions.put key r }
  let s := if old.map (·.status) = some r.status then s else put s 4 4 r.status
  let s := if old.map (·.gen) = some r.gen then s else put s 8 8 r.gen
  if old.map (·.count) = some r.count then s else put s 16 4 r.count
def RgnFields.none : RgnFields := ⟨1, 0, [], 4, 0, 0, [1], [0], [0], 0, 0⟩
def Region.fresh (ctx : Nat) (va : DWord) (hd : Nat) : Region :=
  { ctx := ctx, va := va, hd := hd, f := .none, gen := 0, count := 0, valid := false, building := false, urgent := false
    ood := false, err := 0, rfres := 0, build := none, refit := none, arrivals := [], owed := [], owedRecs := [] }
/-- The SW fields of a descriptor's bytes. -/
def RgnFields.ofBytes (d : List Byte) : RgnFields :=
  let fmt := fieldNat d 0 4
  let dims := fmt % 4 + 1
  let w (off : Nat) : List Word := (List.range dims).map (fun k => BitVec.ofNat 32 (fieldNat d (off + 4 * k) 4))
  { dims := dims, ef := fmt / 4 % 4, widths := (List.range (fmt / 16 % 4)).map (fun l => fmt / 2 ^ (8 + 4 * l) % 16 + 1)
    logcap := fmt / 2 ^ 20 % 32, eps := BitVec.ofNat 32 (fieldNat d 0x18 4), fill := BitVec.ofNat 32 (fieldNat d 0x1C 4)
    extent := (w 0x20).map (·.toNat), a := w 0x30, o := w 0x40, param := fieldNat d 0x50 8, list := fieldNat d 0x58 8 }
/-- The first failing check of Table 15.7, 0 for none. -/
def rgnError (d : List Byte) (f : RgnFields) : Nat :=
  let fmt := fieldNat d 0 4
  let e := Num.f32.val f.eps.toNat
  if fmt / 16 % 4 = 0 ∨ fmt / 2 ^ 25 ≠ 0 ∨ fmt / 64 % 4 ≠ 0 then 1
  else if 512 < f.params then 2
  else if f.extent.any (fun x => decide (x < 1 ∨ 65536 < x)) ∨ 2 ^ 32 < f.points then 3
  else if !e.isFin ∨ (e.neg && !e.isZero) then 4
  else if f.logcap < 4 ∨ 20 < f.logcap then 5
  else if f.param % 256 ≠ 0 ∨ f.list % 256 ≠ 0 then 6
  else 0

/-- What a handle names: step 8 of Table 15.6 up to the descriptor's address. -/
inductive Named where
  | trap (t : TrapInfo)
  | park (va : DWord) (r : Nat)
  | region (key : Nat) (r : Region)
def nameRegion (s : State) (k : Ctx) (h : Word) : Named × State :=
  let (e, s') := s.ctxEntry k.ctx
  let va := BitVec.ofNat 64 (fieldNat e 0x10 8 + 256 * (h.toNat % 4096))
  if 4096 ≤ h.toNat ∨ fieldNat e 0x18 4 ≤ h.toNat then (.trap (k.trap .frop k.e 0), s')
  else match s'.translate (some k.sh.core) k.ctx va .read false with
    | (.ok pa _ hd _, s) => (.region pa ((s.regions.find? pa).getD (Region.fresh k.ctx va hd)), s)
    | (.park r, s) => (.park va r, s)
    | (.perm, s) => (.trap (k.trap .perm k.e va), s)
    | (.xlat, s) => (.trap (k.trap .xlat k.e va), s)
def lanesOrSheaf (i : Instr) (k : Ctx) : List Nat := if i.cls = .uniform then [64] else lanesOf k.e
/-- Held at the home (15 R270, R271). The accesses name the region, and with n = 1 the end of its build, with n = 0 room
in its list as what is awaited; none is an instruction to be applied anew at once. -/
def holdAt (i : Instr) (s : State) (k : Ctx) (key : Option (Nat × Nat)) : Except TrapInfo Done :=
  .ok { st := (s.addFlight k i .region false (match key with
    | some p => (lanesOf k.e).map (fun l => ⟨l, 0, p.1, p.2, 0, 0, false, [], .queued⟩)
    | none => [])).2 }
/-- Why an access of a home stops, as its walk finds it: what it waits for, the record on which it parks, or the cause for
which it is refused; none is poison. A place that the home does not reach counts as declined (log 41). -/
def State.homeFault (s : State) (ctx : Nat) (e : HomeStop) : Option (Except Cause (List Nat)) × State :=
  match e with
  | .waits => (some (.ok []), s)
  | .poison => (none, s)
  | .away _ => (some (.error .xlat), s)
  | .page va kind =>
    match s.translate none ctx va kind true with
    | (.park r, s) => (some (.ok [r]), s)
    | (.perm, s) => (some (.error .perm), s)
    | (.xlat, s) => (some (.error .xlat), s)
    | (.ok .., s) => (some (.ok []), s)
/-- The address of a stop. -/
def HomeStop.va (e : HomeStop) : DWord :=
  match e with
  | .page va _ => va
  | .away va => va
  | _ => 0
/-- A page of an area without translation: parked on its record, or XLAT (step 12). Poison kills the rick (21 R355). -/
def areaFault (i : Instr) (s : State) (k : Ctx) (ctx : Nat) (e : HomeStop) : Except TrapInfo Done :=
  match s.homeFault ctx e with
  | (none, s) => .ok { st := s.rickError k.sh.uid }
  | (some (.ok []), s) => holdAt i s k none
  | (some (.ok (r :: _)), s) => .ok { st := s.parkAt k i ((lanesOrSheaf i k).map (fun l => (l, BitVec.ofNat 64 (e.va.toNat / 4096 * 4096), r))) }
  | (some (.error c), _) => .error (k.trap c k.e e.va)
/-- The same of an instruction that its home has held. -/
def State.heldFault (s : State) (sid : Nat) (sh : Sheaf) (f : Flight) (ctx : Nat) (e : HomeStop) : State :=
  match s.homeFault ctx e with
  | (none, s) => s.rickError sh.uid
  | (some (.ok []), s) => s
  | (some (.ok (r :: _)), s) => s.modSheaf sid (fun sh => sh.modFlight f.id (fun f => { f with
      stage := .parked [r]
      accs := (lanesOf f.e).map (fun l => ⟨l, BitVec.ofNat 64 (e.va.toNat / 4096 * 4096), 0, 0, 0, 0, false, [], .sent r⟩) }))
  | (some (.error c), s) => s.faultAt sid f c f.e e.va []
/-- Whether an instruction that a home has held since before another still waits to be performed there: the home takes them in
the order in which they reached it (24 R369). -/
def State.heldBefore (s : State) (key id : Nat) : Bool :=
  s.sheaves.any (fun e => e.2.flights.any (fun f => f.stage == .region && decide (f.id < id) && f.accs.any (fun a => decide (a.pa = key ∧ a.n = 1))))
/-- The handle that an FLD or FST was issued with. -/
def handleAt (k : Ctx) (h : Fin 24) : Word := k.opC (.s h) ((lanesOf k.e).headD 0) 0

/-! ### FLD (15 R269) -/

def fldLane (r : Region) (d : Reg) (sid : Nat) (lane : Nat) (c : List Nat) : Home Unit :=
  let put (v : Nat) : Home Unit := fun s => .ok ((), s.modSheaf sid (fun sh => sh.writeReg d lane 0 (BitVec.ofNat 32 v)))
  if r.f.inDomain c then (valueAt r r.gen (r.f.key c)).bind put else put r.f.fill.toNat
/-- An FLD of a valid region, performed in one step at its home. -/
def fldRun (key : Nat) (r : Region) (d : Reg) (sid : Nat) (cs : List (Nat × List Nat)) : Home Unit :=
  (Home.each (fun x => fldLane r d sid x.1 x.2) cs).bind (fun _ => fun s =>
    .ok ((), if cs.all (fun x => r.f.inDomain x.2) then s else s.setRegion key { r with ood := true }))
def fldBody (i : Instr) (s : State) (k : Ctx) (d a : Reg) (hnd : Fin 24) (trap : Bool) : Except TrapInfo Done :=
  match nameRegion s k (handleAt k hnd) with
  | (.trap t, _) => .error t
  | (.park va r, s) => .ok { st := s.parkAt k i ((lanesOf k.e).map (fun l => (l, va, r))) }
  | (.region key r, s) =>
    let cs := (lanesOf k.e).map (fun l => (l, coordsOf (k.pairA a l)))
    let out := cs.filter (fun x => !r.f.inDomain x.2)
    if !r.valid && !r.building && r.arrivals.isEmpty then .error (k.trap .frop k.e 0)
    else if trap = true ∧ (r.valid || r.building) = true ∧ out ≠ [] then .error (k.trap .frdom (lanesSet (out.map (·.1))) 0)
    else if !r.valid || s.dieWaits r.hd || s.heldBefore key s.nextId then holdAt i s k (some (key, 1))
    else match fldRun key r d k.sid cs s with
      | .error e => areaFault i s k r.ctx e
      | .ok (_, s) => .ok { st := s }

/-! ### FST (15 R270, R274) -/

/-- Keys and values of the lanes in ascending order; for equal keys the last wins. -/
def fstRecords (r : Region) (k : List (Nat × DWord × Word)) : List (Nat × Nat) :=
  k.map (fun x => (r.f.key (coordsOf x.2.1), x.2.2.toNat % 2 ^ (8 * r.f.bytes)))
def newKeys (r : Region) : List Nat → Home (List Nat)
  | [] => Home.ret []
  | x :: t => (probeKey r r.gen x).bind (fun p => (newKeys r t).bind (fun l => Home.ret (match p with
      | .found _ _ => l
      | _ => x :: l)))
/-- Records into the live list. -/
def putAll (r : Region) (g : Nat) : List (Nat × Nat) → Home (List Put)
  | [] => Home.ret []
  | (x, v) :: t => (putKey r g x v false).bind (fun p => (putAll r g t).bind (fun l => Home.ret (p :: l)))
inductive FstRes where
  | done | noRoom
def addOwed (r : Region) (l : List (Nat × DWord)) : Region := { r with owed := r.owed ++ l }
/-- Whether an access of a flight is an FST's that waits for room in a region. -/
def Acc.forRoom (a : Acc) (key : Nat) : Bool := decide (a.pa = key ∧ a.n = 0)
/-- The flights of every sheaf changed. -/
def State.modFlights (s : State) (f : Flight → Flight) : State :=
  { s with sheaves := s.sheaves.map (fun e => (e.1, { e.2 with flights := e.2.flights.map f })) }
/-- An urgent refit has begun: it serves the FSTs that wait for room now. One that comes while it runs has its own after it
(15 R270). -/
def State.roomBegun (s : State) (key : Nat) : State :=
  s.modFlights (fun f => if f.stage = .region ∧ f.accs.any (fun a => a.forRoom key) then { f with accs := f.accs.map (fun a => { a with homeOnly := true }) } else f)
/-- It has ended: those look for room a last time. -/
def State.roomEnded (s : State) (key : Nat) : State :=
  s.modFlights (fun f => if f.stage = .region ∧ f.accs.any (fun a => a.forRoom key && a.homeOnly) then { f with ready := f.path } else f)
/-- An FST waits that no urgent refit has served. -/
def State.roomWanted (s : State) (key : Nat) : Bool :=
  s.sheaves.any (fun e => e.2.flights.any (fun f => f.stage == .region && f.accs.any (fun a => a.forRoom key && !a.homeOnly)))
/-- A refit abandoned: what it wrote becomes unspecified, its counters are owed. -/
def State.refitAbandon (s : State) (key code : Nat) : State :=
  match s.regions.find? key with
  | none => s
  | some r =>
    match r.refit with
    | none => s
    | some x =>
      let blur (s : State) (va n : Nat) : State :=
        let (bs, s) := s.freeBytes n
        match homeWriteVa r.hd r.ctx va bs s with
        | .ok (_, s) => s
        | .error _ => s
      let s := blur s (r.slot (r.gen + 1)) 1024
      let s := blur s (r.area (r.gen + 1)) (16 * r.f.cap)
      let s := if x.req.urgent then s.roomEnded key else s
      s.setRegion key (addOwed { r with refit := none, rfres := code, urgent := r.urgent && (!x.req.urgent || s.roomWanted key) } x.req.counters)
/-- One FST at its home: no room leaves everything as it was. While a refit is not set up yet, its sweep sees the record
in the live list. -/
def fstRun (key : Nat) (r : Region) (recs : List (Nat × Nat)) : Home FstRes :=
  (newKeys r ((recs.map (·.1)).eraseDups)).bind (fun new =>
    if r.f.mark < r.count + new.length then Home.ret .noRoom
    else (putAll r r.gen recs).bind (fun _ =>
      let r1 := { r with count := r.count + new.length }
      match r.refit with
      | none => fun s => .ok (.done, s.setRegion key r1)
      | some x =>
        if x.set < 64 + r.f.cap then fun s => .ok (.done, s.setRegion key r1)
        else (putAll r (r.gen + 1) recs).bind (fun ps =>
          let n := x.l2 + (ps.filter (· == .new)).length
          if x.n0 ≤ n ∨ r.f.mark < n ∨ ps.contains .full then
            fun s => .ok (.done, (s.setRegion key r1).refitAbandon key 2)
          else fun s => .ok (.done, s.setRegion key { r1 with
            refit := some { x with l2 := n, stored := x.stored ++ recs.map (·.1) } }))))
def fstBody (i : Instr) (s : State) (k : Ctx) (a b : Reg) (hnd : Fin 24) : Except TrapInfo Done :=
  match nameRegion s k (handleAt k hnd) with
  | (.trap t, _) => .error t
  | (.park va r, s) => .ok { st := s.parkAt k i ((lanesOf k.e).map (fun l => (l, va, r))) }
  | (.region key r, s) =>
    let out := (lanesOf k.e).filter (fun l => !r.f.inDomain (coordsOf (k.pairA a l)))
    let refused := match s.stookOf k.sh, (s.stookOf k.sh).bind s.cropOf with
      | some st, some c => st.atomicRefused c
      | _, _ => false
    if !r.valid && !r.building && r.arrivals.isEmpty then .error (k.trap .frop k.e 0)
    else if (r.valid || r.building) = true ∧ out ≠ [] then .error (k.trap .frdom (lanesSet out) 0)
    else if refused then .error (k.trap .wrange k.e 0)
    else if !r.valid || s.dieWaits r.hd || s.heldBefore key s.nextId then holdAt i s k (some (key, 1))
    else
      match fstRun key r (fstRecords r ((lanesOf k.e).map (fun l => (l, k.pairA a l, k.opB b l 0)))) s with
      | .error e => areaFault i s k r.ctx e
      | .ok (.done, s) => .ok { st := s }
      | .ok (.noRoom, _) => holdAt i (s.setRegion key { r with urgent := true }) k (some (key, 0))
/-- An instruction that a build has held at its home, and that is next there: it is performed, raises FRDOM outside the domain
that the build has latched, or FROP where the build has failed (15 R271, 24 R369). -/
def State.advanceHeld (s : State) (sid : Nat) (sh : Sheaf) (f : Flight) (key : Nat) (r : Region) : State :=
  let w (l j : Nat) : Word := (f.ops.getD l []).getD j 0
  let xs := (lanesOf f.e).map (fun l => (l, pairOf (w l 0) (w l 1)))
  let out := lanesSet ((xs.filter (fun x => !r.f.inDomain (coordsOf x.2))).map (·.1))
  let done (s : State) : State := s.modSheaf sid (fun sh => sh.dropFlight f.id)
  if !r.valid then s.faultAt sid f .frop f.e 0 []
  else match f.instr with
    | .fld _ d _ _ trap =>
      if trap = true ∧ out ≠ 0 then s.faultAt sid f .frdom out 0 []
      else match fldRun key r d sid (xs.map (fun x => (x.1, coordsOf x.2))) s with
        | .error e => s.heldFault sid sh f r.ctx e
        | .ok (_, s) => done s
    | _ =>
      if out ≠ 0 then s.faultAt sid f .frdom out 0 []
      else match fstRun key r (fstRecords r (xs.map (fun x => (x.1, x.2, w x.1 4)))) s with
        | .error e => s.heldFault sid sh f r.ctx e
        | .ok (.done, s) => done s
        | .ok (.noRoom, _) => (s.setRegion key { r with urgent := true }).modSheaf sid (fun sh => sh.modFlight f.id (fun f => { f with
            accs := f.accs.map (fun a => { a with n := 0 }) }))
/-- A flight held at a home looks again. An FST that waits for room is performed when there is some, and raises FRFULL
once the urgent refit that served it has brought none; any other is performed when the build has ended (15 R270, R271). -/
def State.advanceRegion (s : State) (sid : Nat) (sh : Sheaf) (f : Flight) : State :=
  let again (s : State) : State := s.modSheaf sid (fun sh => sh.withdraw f)
  match f.accs with
  | [] => again s
  | a :: _ =>
    match s.regions.find? a.pa with
    | none => again s
    | some r =>
      if a.n = 1 then
        if r.building || r.arrivals != [] || s.dieWaits r.hd || s.ctxHeld r.ctx || s.heldBefore a.pa f.id then s
        else s.advanceHeld sid sh f a.pa r
      else if !r.valid then again { s with regions := s.regions.put a.pa { r with urgent := false } }
      else if r.refit.isSome then s
      else
        let recs := fstRecords r ((lanesOf f.e).map (fun l =>
          let w (j : Nat) : Word := (f.ops.getD l []).getD j 0
          (l, pairOf (w 0) (w 1), w 4)))
        match fstRun a.pa { r with urgent := false } recs s with
        | .error _ => again s
        | .ok (.done, s) =>
          let s := s.modSheaf sid (fun sh => sh.dropFlight f.id)
          if s.roomWanted a.pa then s.setRegion a.pa { (s.regions.getD a.pa r) with urgent := true } else s
        | .ok (.noRoom, _) =>
          if f.ready ≠ 0 then s.faultAt sid f .frfull f.e r.va []
          else s.setRegion a.pa { r with urgent := true }

/-! ### RGNB, RFIT, RGNQ (15 R272, R273, R276) -/

def counterOf (k : Ctx) (c : SReg) : Option DWord := match c with
  | .z => none
  | _ => some (k.pairC c.reg 0)
def counterBad (c : Option DWord) : Bool := match c with
  | some a => a.toNat % 8 != 0
  | none => false
def rgnbBody (i : Instr) (s : State) (k : Ctx) (h : Word) (ref : DWord) (c : SReg) (pitch : Word) : Except TrapInfo Done :=
  match nameRegion s k h with
  | (.trap t, _) => .error t
  | (.park va r, s) => .ok { st := s.parkAt k i [(64, va, r)] }
  | (.region key r, s) =>
    let n := (RgnFields.ofBytes (s.physRead key 256)).bytes
    let counter := counterOf k c
    let refused := match s.stookOf k.sh, (s.stookOf k.sh).bind s.cropOf with
      | some st, some c => st.atomicRefused c
      | _, _ => false
    if r.valid || r.building then .error (k.trap .frop k.e 0)
    else if ref.toNat % n ≠ 0 ∨ pitch.toNat % n ≠ 0 then .error (k.trap .align k.e ref)
    else if counterBad counter then .error (k.trap .align k.e (counter.getD 0))
    else if refused then .error (k.trap .wrange k.e 0)
    else match s.releaseState k.sid s.nextId k.path .sy with
      | .waits => .ok { st := s, blocked := true }
      | .failed l => .error { (k.trap .remfail k.path (BitVec.ofNat 64 (l.headD 0))) with fail := l }
      | .clear =>
        let s := s.publishUpTo (barnOf k.sh.core) .sy
        let b : Build := ⟨k.ctx, ref, pitch.toNat, counter, k.sh.uid, 0, [], [], [], 0, k.sid, k.path⟩
        .ok { st := { s with regions := s.regions.put key { r with arrivals := r.arrivals ++ [b] } } }

def State.winnower (s : State) (d : Nat) : List RefitReq := s.refitQ.getD d []
/-- A second request joins a refit: its counter, and its stook where that holds the token. -/
def RefitReq.join (x : RefitReq) (c : List (Nat × DWord)) (u : List Nat) : RefitReq :=
  { x with counters := x.counters ++ c, uids := x.uids ++ u }
/-- A request joins the refit that runs or waits for a region. -/
def joinRefit (s : State) (r : Region) (key : Nat) (c : List (Nat × DWord)) (u : List Nat) : Option State :=
  match r.refit with
  | some x => some { s with regions := s.regions.put key { r with refit := some { x with req := x.req.join c u } } }
  | none =>
    let q := s.winnower r.hd
    if q.any (fun x => x.region = key) then
      some { s with refitQ := s.refitQ.put r.hd (q.map (fun x => if x.region = key then x.join c u else x)) }
    else none
def rfitBody (i : Instr) (s : State) (k : Ctx) (h : Word) (b c : SReg) : Except TrapInfo Done :=
  match nameRegion s k h with
  | (.trap t, _) => .error t
  | (.park va r, s) => .ok { st := s.parkAt k i [(64, va, r)] }
  | (.region key r, s) =>
    let counter := counterOf k c
    let proposal := match b with
      | .z => none
      | _ => some (k.pairB b.reg 0)
    let counters := match counter with
      | some a => [(k.ctx, a)]
      | none => []
    if !r.valid && !r.building && r.arrivals.isEmpty then .error (k.trap .frop k.e 0)
    else if counterBad counter then .error (k.trap .align k.e (counter.getD 0))
    else if counterBad proposal then .error (k.trap .align k.e (proposal.getD 0))
    else forkRelease s k (fun s =>
      let token := if s.tokenOf k.sh then [k.sh.uid] else []
      match joinRefit s r key counters token with
      | some s => .ok { st := s }
      | none =>
        let q := s.winnower r.hd
        if 16 ≤ q.length then .ok { st := s, blocked := true }
        else
          let s := if (s.regions.find? key).isSome then s else { s with regions := s.regions.put key r }
          .ok { st := { s with refitQ := s.refitQ.put r.hd (q ++ [⟨key, k.ctx, proposal, counters, false, token⟩]) } })

/-- The queued requests of a region end with RFRES 2. -/
def State.endQueued (s : State) (key : Nat) (r : Region) : Region × State :=
  let q := s.winnower r.hd
  let mine := q.filter (fun x => x.region = key)
  (addOwed { r with rfres := if mine = [] then r.rfres else 2 } (mine.flatMap (·.counters)),
    { s with refitQ := s.refitQ.put r.hd (q.filter (fun x => x.region ≠ key)) })
/-- A region retired: its refits end with RFRES 2 (15 R276). -/
def State.retireRegion (s : State) (key : Nat) : State :=
  let s := s.refitAbandon key 2
  match s.regions.find? key with
  | none => s
  | some r =>
    let (r, s) := s.endQueued key r
    s.setRegion key { r with valid := false, urgent := false }
def rgnqBody (i : Instr) (s : State) (k : Ctx) (d : SReg) (h ctl : Word) : Except TrapInfo Done :=
  match nameRegion s k h with
  | (.trap t, _) => .error t
  | (.park va r, s) => .ok { st := s.parkAt k i [(64, va, r)] }
  | (.region key r, s) =>
    let res : Done := uniDone s k d [BitVec.ofNat 32 r.status, BitVec.ofNat 32 r.count]
    let s := if ctl.getLsbD 0 ∧ r.ood then res.st.setRegion key { r with ood := false } else res.st
    .ok { res with st := if ctl.getLsbD 1 ∧ (s.regions.find? key).isSome then s.retireRegion key else s }

/-! ### Builds (15 R272) -/

/-- A build ends: VALID where it succeeded, its counters owed. Where it fails, refits queued for the region end at once
(R271). -/
def State.buildEnd (s : State) (key err : Nat) : State :=
  match s.regions.find? key with
  | none => s
  | some r =>
    match r.build with
    | none => s
    | some b =>
      let r := addOwed { r with build := none, building := false, err := err, valid := err == 0 } b.counters
      if err = 0 then s.setRegion key r
      else
        let (r, s) := s.endQueued key r
        s.setRegion key r
/-- A build stops at a page: it parks on its record, or ends with ERR 8. -/
def State.buildStop (s : State) (key : Nat) (r : Region) (b : Build) (e : HomeStop) (ctx : Nat) : State :=
  match s.homeFault ctx e with
  | (some (.ok l), s) => { s with regions := s.regions.put key { r with build := some { b with recs := l } } }
  | (_, s) => s.buildEnd key 8
/-- The start of a build as far as it goes: the pages of slot 0 marked, every record of area 0 invalidated. -/
def State.buildSet (s : State) (key : Nat) (r : Region) (b : Build) : State :=
  let (s, n, e) := Home.upTo ((homeMark r.ctx (r.slot 0) 1024 :: clearArea r 0).drop b.set) b.set s
  let b := { b with set := n }
  let s := { s with regions := s.regions.put key { r with build := some b } }
  match e with
  | none => s
  | some e => s.buildStop key r b e r.ctx
/-- Whether a value is within the bound of a reference (15 R272). -/
def withinEps (f : RgnFields) (net ref : Nat) : Bool :=
  net == ref ||
  (if f.ef = 3 then Num.Dy.lt ⟨(intVal .s8 net - intVal .s8 ref).natAbs, 0⟩ (Num.f32.val f.eps.toNat).dy ||
      Dy_eq ⟨(intVal .s8 net - intVal .s8 ref).natAbs, 0⟩ (Num.f32.val f.eps.toNat).dy
   else
    let g := fmtOf f.elemTy
    let x := g.val net
    let y := g.val ref
    x.isFin && y.isFin &&
      (let d := x.dy.add y.dy.neg
       let d : Num.Dy := ⟨d.m.natAbs, d.e⟩
       !Num.Dy.lt (Num.f32.val f.eps.toNat).dy d))
/-- One key of the sweep of a build. The reference is read as it stands when the sweep reaches the key: what a write of the image
during the build makes of an exception is not given (15 R272), and the model takes the byte of that moment (DESIGN CHOICE,
log 109). -/
def buildKey (key : Nat) (r : Region) (b : Build) : Home Unit :=
  let e0 := r.f.extent.headD 1
  let pitch := if b.pitch = 0 then e0 * r.f.bytes else b.pitch
  (homeRead b.ctx (b.refVa.toNat + b.key / e0 * pitch + b.key % e0 * r.f.bytes) r.f.bytes).bind (fun bs =>
    (paramsOf r 0).bind (fun p =>
      let ref := natOfBytes bs
      if withinEps r.f (evalPoint r.f p (r.f.coords b.key)) ref then
        fun s => .ok ((), s.setRegion key { r with build := some { b with key := b.key + 1 } })
      else (putKey r 0 b.key ref false).bind (fun _ => fun s =>
        let s := s.setRegion key { r with count := r.count + 1, build := some { b with key := b.key + 1 } }
        .ok ((), if r.f.mark < r.count + 1 then s.buildEnd key 7 else s))))
/-- The home takes the next RGNB that has reached it: the first builds, a second one only waits or ends. What the first has
latched stands until the build ends (R262), whatever it parks on. GEN and COUNT are written as the build starts, whatever
software has stored there. -/
def State.takeBuild (s : State) (key : Nat) (r : Region) (b : Build) (rest : List Build) : State :=
  let mine := match b.counter with
    | some a => [(b.ctx, a)]
    | none => []
  let r := { r with arrivals := rest }
  match r.build with
  | some x => { s with regions := s.regions.put key { r with build := some { x with counters := x.counters ++ mine, uids := x.uids ++ [b.uid] } } }
  | none =>
    if r.valid then { s with regions := s.regions.put key (addOwed r mine) }
    else
      let d := s.physRead key 256
      let f := RgnFields.ofBytes d
      let b := { b with key := 0, counters := mine ++ b.counters, set := 0 }
      let r := { r with building := true, ctx := b.ctx, f := f, build := some b }
      let s := s.setRegion key r
      if rgnError d f ≠ 0 then s.buildEnd key (rgnError d f)
      else
        let r := { r with gen := 0, count := 0 }
        let s := (s.setRegion key r).homeWrite (key + 8) (bytesOf 8 0) (.die r.hd)
        (s.homeWrite (key + 16) (bytesOf 4 0) (.die r.hd)).buildSet key r b
def execBuildStep (region : Nat) (s : State) : Out :=
  match s.regions.find? region with
  | none => .next s
  | some r =>
    if s.dieWaits r.hd || s.ctxHeld r.ctx then .next s
    else match r.arrivals, r.build with
    | b :: rest, _ => .next (s.takeBuild region r b rest)
    | [], some b =>
      if b.recs ≠ [] then .next s
      else if b.set < 1 + r.f.cap then .next (s.buildSet region r b)
      else if r.f.points ≤ b.key then .next (s.buildEnd region 0)
      else match buildKey region r b s with
        | .ok (_, s) => .next s
        | .error e => .next (s.buildStop region r b e b.ctx)
    | [], none => .next s

/-! ### Refits (15 R274) -/

/-- A refit stops at a page: it parks on its record, or is abandoned. -/
def State.refitStop (s : State) (key : Nat) (r : Region) (x : Refit) (e : HomeStop) (ctx : Nat) : State :=
  match s.homeFault ctx e with
  | (some (.ok l), s) => { s with regions := s.regions.put key { r with refit := some { x with recs := l } } }
  | (_, s) => s.refitAbandon key 2
/-- The proposal: the block that the request names, or the winnower's own. The block is read as it stands when the refit starts:
what a write of it after the RFIT's issue makes of the words read is not given (15 R273), and the model takes the bytes of
that moment (DESIGN CHOICE, log 109). -/
def refitProposal (q : RefitReq) : Home (List Byte) :=
  match q.proposal with
  | some va => homeRead q.ctx va.toNat 1024
  | none => fun s => .ok ((Config.proposal s.tick ++ List.replicate 1024 0).take 1024, { s with tick := s.tick + 1 })
/-- The steps that set a refit up: its slot takes the proposal, its area is invalidated. -/
def refitSteps (r : Region) (bs : List Byte) : List (Home Unit) :=
  (List.range 64).map (fun i => homeWriteVa r.hd r.ctx (r.slot (r.gen + 1) + 16 * i) ((bs.drop (16 * i)).take 16)) ++ clearArea r (r.gen + 1)
/-- Pages of the slot and the area that a refit writes, as they translate now; one that no longer does stays as it was. -/
def refitPages (r : Region) : List DWord :=
  ((pieces (r.slot (r.gen + 1)) 1024) ++ pieces (r.area (r.gen + 1)) (16 * r.f.cap)).map (·.1)
def State.writtenPages (s : State) (r : Region) (m : KV (Nat × Nat × Nat)) : KV (Nat × Nat × Nat) :=
  (refitPages r).foldl (fun (m : KV (Nat × Nat × Nat)) va => match (s.probe none r.ctx va).1 with
    | .ok pa pte hd _ => m.put (vpn va) (pte, pa, hd)
    | _ => m) m
/-- They are marked; of a page whose entry has become invalid just the bitmap's bit is (16 R285). -/
def State.markPages (s : State) (r : Region) (m : KV (Nat × Nat × Nat)) : State :=
  (refitPages r).foldl (fun s va => match (s.probe none r.ctx va).1, m.find? (vpn va) with
    | .ok pa pte hd _, _ => s.dirtyMark r.ctx pte pa hd
    | _, some (_, pa, hd) => s.dirtyMark r.ctx 0 pa hd
    | _, none => s) s
/-- The set-up of a running refit, as far as it goes. -/
def State.refitSet (s : State) (key : Nat) (r : Region) (x : Refit) : State :=
  let p : Home (List Byte) := match x.prop with
    | some bs => Home.ret bs
    | none => refitProposal x.req
  match p s with
  | .error e => s.refitStop key r x e x.req.ctx
  | .ok (bs, s) =>
    let (s, n, e) := Home.upTo ((refitSteps r bs).drop x.set) x.set s
    let x := { x with prop := some bs, set := n, pages := s.writtenPages r x.pages }
    let s := { s with regions := s.regions.put key { r with refit := some x } }
    match e with
    | none => s
    | some e => s.refitStop key r x e r.ctx
/-- A refit of a region starts: its request leaves the queue, and it is set up as far as its pages are there. -/
def State.refitGo (s : State) (key : Nat) (r : Region) (q : RefitReq) : State :=
  let x : Refit := ⟨q, r.count, 0, 0, [], [], none, 0, []⟩
  let r := { r with refit := some x }
  let s := { s with refitQ := s.refitQ.put r.hd ((s.winnower r.hd).filter (fun y => y.region ≠ key)) }
  (s.setRegion key r).refitSet key r x
/-- An FST that waits for room has its urgent refit start before any queued request of the die (R270). -/
def State.urgentDue (s : State) (d : Nat) : Bool :=
  s.regions.any (fun e => e.2.hd == d && e.2.urgent && e.2.valid && e.2.refit.isNone && !s.ctxHeld e.2.ctx)
/-- Whether a die's winnower runs a refit. -/
def State.refitting (s : State) (d : Nat) : Bool := s.regions.any (fun e => e.2.hd == d && e.2.refit.isSome)
def execRefitStart (die : Nat) (s : State) : Out :=
  let q := s.winnower die
  let ready (x : RefitReq) : Bool := match s.regions.find? x.region with
    | some r => !r.building && r.arrivals.isEmpty && !s.ctxHeld r.ctx
    | none => true
  match List.find? ready q with
  | none => .next s
  | some x =>
    if s.refitting die ∨ s.dieWaits die ∨ s.urgentDue die then .next s
    else
      match s.regions.find? x.region with
      | none => .next { s with refitQ := s.refitQ.put die (q.filter (fun y => y.region ≠ x.region)) }
      | some r =>
        if r.valid then .next (s.refitGo x.region r x)
        else
          let (r, s) := s.endQueued x.region r
          .next (s.setRegion x.region r)
/-- An FST without room starts a refit with the winnower's own proposal ahead of every queued request (15 R270). It takes the
region's own queued requests with it, their proposals dropped and their counters decremented at its end, as R273 joins a
request to a refit (DESIGN CHOICE, log 133). -/
def execUrgentRefitStart (region : Nat) (s : State) : Out :=
  match s.regions.find? region with
  | none => .next s
  | some r =>
    if r.urgent && r.valid && r.refit.isNone && !s.refitting r.hd && !s.dieWaits r.hd && !s.ctxHeld r.ctx then
      let mine := (s.winnower r.hd).filter (fun x => x.region = region)
      let t := (s.refitGo region r ⟨region, r.ctx, none, mine.flatMap (·.counters), true, mine.flatMap (·.uids)⟩).roomBegun region
      .next (if ((t.regions.find? region).map (·.refit.isSome)).getD false then t else t.roomEnded region)
    else .next s
/-- One key of a refit's sweep. -/
def refitKey (key : Nat) (r : Region) (x : Refit) : Home Unit :=
  (paramsOf r (r.gen + 1)).bind (fun q =>
    (probeKey r r.gen x.key).bind (fun l =>
      let c := r.f.coords x.key
      let new := evalPoint r.f q c
      let go (res : Put) : Home Unit := fun s =>
        let n := x.l2 + (if res = .new then 1 else 0)
        let s := s.setRegion key { r with refit := some { x with key := x.key + 1, l2 := n } }
        .ok ((), if x.n0 ≤ n ∨ r.f.mark < n ∨ res = .full then s.refitAbandon key 2 else s)
      match l with
      | .found _ old =>
        if x.stored.contains x.key ∨ new ≠ old then
          (probeKey r (r.gen + 1) x.key).bind (fun y => match y with
            | .found _ _ => go .held
            | _ => (putKey r (r.gen + 1) x.key old false).bind go)
        else go .held
      | _ => (paramsOf r r.gen).bind (fun p =>
        let old := evalPoint r.f p c
        if new ≠ old then (putKey r (r.gen + 1) x.key old true).bind go else go .held)))
def execRefitStep (region : Nat) (s : State) : Out :=
  match s.regions.find? region with
  | none => .next s
  | some r =>
    match r.refit with
    | none => .next s
    | some x =>
      if x.recs ≠ [] ∨ r.f.points ≤ x.key ∨ s.dieWaits r.hd = true then .next s
      else if x.set < 64 + r.f.cap then .next (s.refitSet region r x)
      else match refitKey region r x s with
        | .ok (_, s) => .next s
        | .error e => .next (s.refitStop region r x e r.ctx)
/-- The commit: one step at the home, only where the new list is smaller. It marks the pages of the new slot and area (R277). -/
def execRefitCommit (region : Nat) (s : State) : Out :=
  match s.regions.find? region with
  | none => .next s
  | some r =>
    match r.refit with
    | none => .next s
    | some x =>
      if x.key < r.f.points then .next s
      else if x.n0 ≤ x.l2 then .next (s.refitAbandon region 2)
      else
        let s := if x.req.urgent then s.roomEnded region else s
        let s := s.markPages r x.pages
        .next (s.setRegion region (addOwed { r with
          gen := r.gen + 1, count := x.l2, rfres := 1, refit := none, urgent := r.urgent && (!x.req.urgent || s.roomWanted region) } x.req.counters))
/-- Counters that builds and refits have ended with are decremented in turn, each as soon as its page translates; those in host
memory while the link of their context's function is up (20 R341, log 114). -/
def State.payRegion (s : State) (key : Nat) : State :=
  match s.regions.find? key with
  | none => s
  | some r =>
    match r.owed with
    | [] => s
    | (ctx, va) :: rest =>
      if r.owedRecs ≠ [] then s
      else match s.decrementVa r.hd ctx va (s.fnUp (s.fnOfCtx ctx)) with
        | (s, none) => { s with regions := s.regions.put key { (s.regions.getD key r) with owed := rest } }
        | (s, some l) => { s with regions := s.regions.put key { (s.regions.getD key r) with owedRecs := l } }


/-- 15 R269. -/
noncomputable def execFld (g : Pred) (d : Reg) (a : Reg) (hnd : Fin 24) (trap : Bool) (s : State) : Out :=
  issue (.fld g d a hnd trap) s (fun k => fldBody (.fld g d a hnd trap) s k d a hnd trap)
/-- 15 R270. -/
noncomputable def execFst (g : Pred) (a : Reg) (b : Reg) (hnd : Fin 24) (s : State) : Out :=
  issue (.fst g a b hnd) s (fun k => fstBody (.fst g a b hnd) s k a b hnd)
/-- 15 R272. -/
noncomputable def execRgnb (g : Pred) (a : SReg) (b : SReg) (c : SReg) (pitch : Word) (s : State) : Out :=
  issue (.rgnb g a b c pitch) s (fun k => rgnbBody (.rgnb g a b c pitch) s k (k.opA a.reg 0 0) (k.pairB b.reg 0) c pitch)
/-- 15 R273. -/
noncomputable def execRfit (g : Pred) (a : SReg) (b : SReg) (c : SReg) (s : State) : Out :=
  issue (.rfit g a b c) s (fun k => rfitBody (.rfit g a b c) s k (k.opA a.reg 0 0) b c)
/-- 15 R276. -/
noncomputable def execRgnq (g : Pred) (d : SReg) (a : SReg) (b : SReg) (s : State) : Out :=
  issue (.rgnq g d a b) s (fun k => rgnqBody (.rgnq g d a b) s k d (k.opA a.reg 0 0) (k.opB b.reg 0 0))

end Sys2Proof.Machine
end

