-- ==== Sys2Proof/Machine/Launch.lean ====
section
/-! DEFINITION. Launch queues, partitions, the dispatcher, placement, retirement and the completion tree; LAUNCH, BAR and
CCWAIT (17 R287 to R302, 18 R306, R307, R315). -/
namespace Sys2Proof.Machine

open Sys2Proof

/-! ### Queue registers (Tables 17.1, 17.2) -/

def LQueue.enable (q : LQueue) : Bool := q.ctl.getLsbD 12
def LQueue.devprod (q : LQueue) : Bool := q.ctl.getLsbD 11
def LQueue.maxPrio (q : LQueue) : Nat := bitsOf q.ctl.toNat 8 3
def LQueue.part (q : LQueue) : Nat := bitsOf q.ctl.toNat 0 4
def LQueue.slotVa (q : LQueue) (n : Word) : DWord := q.base + BitVec.ofNat 64 (128 * (n.toNat % q.size.toNat))
/-- A rejection: its code, and the count of rejections. -/
def LQueue.reject (q : LQueue) (code : Nat) : LQueue :=
  { q with err := BitVec.ofNat 32 ((q.err.toNat / 256 + 1) * 256 + code) }
def LQueue.imgBytes (q : LQueue) : List Byte :=
  bytesOf 8 q.base.toNat ++ bytesOf 4 q.size.toNat ++ bytesOf 4 q.ctl.toNat ++ bytesOf 4 q.head.toNat ++
  bytesOf 4 q.tail.toNat ++ bytesOf 4 q.err.toNat ++ bytesOf 36 0
/-- The doorbells recorded, none of them for a record at or beyond a value of QTAIL: a later write may lower it. -/
def LQueue.within (q : LQueue) (tail : Word) : List (Word × Nat) :=
  (q.bells.map (fun b => if tail - q.head < b.1 - q.head then (tail, b.2) else b)).filter (fun b => b.1 != q.head)
/-- A doorbell recorded (17 R287, R288). -/
def State.ring (s : State) (qn : Nat) (tail : Word) : State :=
  let q := s.queue qn
  { s.setQueue qn { q with tail := tail, bells := q.within tail ++ [(tail, s.bell)] } with bell := s.bell + 1 }

/-- The registers of the physical function are visible to the host: link 0 ready and up, firmware running (21 R361,
R362). -/
def State.hostVis (s : State) : Bool := s.rel.ready.getLsbD 30 && s.rel.ready.getLsbD 32 && s.fabric.hostUp.headD false
/-- The registers of a function are visible to the host: its link ready and up, firmware running. -/
def State.fnVis (s : State) (fn : Nat) : Bool := s.rel.ready.getLsbD (30 + s.linkOfFn fn) && s.rel.ready.getLsbD 32 && s.fnUp fn
/-- A queue's registers are visible to the host in the physical function's page, and in that of the virtual function that the
queue is assigned to, while that function's link is up. -/
def State.queueVis (s : State) (q : LQueue) : Bool := s.hostVis || (q.fn != 0 && s.fnVis q.fn)
/-- What a function reads of a queue's registers: a virtual function reads zeros of a queue that is not its own (17 R287). -/
def State.queueView (s : State) (fn qn : Nat) : List Byte :=
  if fn = 0 ∨ (s.queue qn).fn = fn then (s.queue qn).imgBytes else bytesOf 64 0
/-- The die of a partition's dispatcher: its lowest (17 R298). -/
def Part.die (p : Part) : Nat := ((List.range 4).find? (fun d => p.mask / 2 ^ (22 * d) % 2 ^ 22 != 0)).getD 0

/-- A write of QTAIL by the host, through the function that the queue is assigned to or the physical one (17 R287). -/
def execQtailDoorbell (queue : Nat) (value : Word) (s : State) : Out :=
  let q := s.queue queue
  if !s.queueVis q || q.devprod || 64 ≤ queue then .next s
  else if q.size < value - q.head then .next (s.setQueue queue (q.reject 12))
  else .next (s.ring queue value)

/-! ### Completion blocks (17 Table 17.6, R291, R297) -/

/-- A number at a home changed by the dispatcher of a die. At a peer's home the change is the atomic that the peer is asked
for: an operation and its operand. -/
def State.updateAt (s : State) (ctx : Nat) (p : Piece) (off n die : Nat) (f : Nat → Nat) (op : AtomOp) (v : Nat) : State :=
  let pa := p.1 + off
  if isPeer pa then
    if s.hasRoute (peerOf pa) then
      (s.addMsg (.atomic (22 * die) 0 0 pa n p.2.2.2.1 ctx p.2.2.1 (.op op) none [⟨0, bytesOf n v⟩]) []).2 else s
  else if isHost pa then s.memWrite pa (bytesOf n (f (natOfBytes (Machine.memRead s.mem pa n))))
  else (s.homeWrite pa (bytesOf n (f (natOfBytes (s.cohRead pa n)))) (.die die)).dirtyMark ctx p.2.2.1 pa p.2.2.2.1
def minus1 (n x : Nat) : Nat := (x + 2 ^ (8 * n) - 1) % 2 ^ (8 * n)
/-- The interrupt of a crop, a vector of its queue's function (20 R342). -/
def State.irqOf (s : State) (fn : Nat) (v : Option Nat) : State :=
  match v with
  | some v => s.raise fn v
  | none => s
/-- The block's changes: a launch error code in STAT and both decrements; KILLED; DONECNT; SUSPECT and CONFCNT. A peer is asked
to or the error code into STAT, and to add to SUSPECT within STAT. -/
def Owed.apply (o : Owed) (s : State) (p : Piece) : State :=
  match o.due with
  | .reject code =>
    let s := s.updateAt o.ctx p 12 4 o.die (fun x => x % 2 ^ 24 + code * 2 ^ 24) .or (code * 2 ^ 24)
    (s.updateAt o.ctx p 0 8 o.die (minus1 8) .sub 1).updateAt o.ctx p 8 4 o.die (minus1 4) .sub 1
  | .killed => s.updateAt o.ctx p 12 4 o.die (fun x => Nat.lor x 65536) .or 65536
  | .done _ => s.updateAt o.ctx p 0 8 o.die (minus1 8) .sub 1
  | .confirmed n _ =>
    (s.updateAt o.ctx p 12 4 o.die (fun x => x / 65536 * 65536 + (x + n) % 65536) .add n).updateAt o.ctx p 8 4 o.die (minus1 4) .sub 1
def Owed.irq (o : Owed) : Option Nat :=
  match o.due with
  | .done v => v
  | .confirmed _ v => v
  | _ => none
/-- One attempt at an owed write: the state left, and the entry if it still waits. A block that may not be written is
not. -/
def State.payOne (s : State) (o : Owed) : Option Owed × State :=
  if o.recs ≠ [] then (some o, s)
  else if o.va = 0 then (none, s.irqOf o.fn o.irq)
  else match s.translate none o.ctx (BitVec.ofNat 64 o.va) .write true with
    | (.ok pa pte hd ho, s) =>
      if s.counterWaits (s.fnUp o.fn) (pa, 16, pte, hd, ho) then (some o, s)
      else (none, (o.apply s (pa, 16, pte, hd, ho)).irqOf o.fn o.irq)
    | (.park r, s) => (some { o with recs := [r] }, s)
    | (_, s) => (none, s.irqOf o.fn o.irq)
/-- Owed writes in order; a block that waits holds back its own later writes. -/
def State.payOwed (s : State) : State :=
  let r := s.owed.foldl (fun (acc : List Owed × State) o =>
    if acc.1.any (fun x => x.va == o.va && x.ctx == o.ctx) then (acc.1 ++ [o], acc.2)
    else match acc.2.payOne o with
      | (some o, s) => (acc.1 ++ [o], s)
      | (none, s) => (acc.1, s)) ([], { s with owed := [] })
  { r.2 with owed := r.1 ++ r.2.owed }
def State.owe (s : State) (ctx die fn : Nat) (rec : List Byte) (d : Due) : State :=
  { s with owed := s.owed ++ [⟨ctx, recDone rec, die, d, [], fn⟩] }
def doneIrq (rec : List Byte) : Option Nat := if bitsOf (recEvent rec) 0 1 = 1 then some (bitsOf (recEvent rec) 8 8) else none
def confIrq (rec : List Byte) : Option Nat := if bitsOf (recEvent rec) 1 1 = 1 then some (bitsOf (recEvent rec) 8 8) else none

/-! ### Footprints and seats (17 R290, R295; 03 R50; 05 R83; 08 R137; 09 R153, R154) -/

structure Need where
  sheaves : Nat
  regs : Nat
  chaff : Nat
  w : Nat
  a : Nat
  c : Nat
  deriving DecidableEq, Repr
def Need.add (x y : Need) : Need := ⟨x.sheaves + y.sheaves, x.regs + y.regs, x.chaff + y.chaff, x.w + y.w, x.a + y.a, x.c + y.c⟩
def Need.zero : Need := ⟨0, 0, 0, 0, 0, 0⟩
/-- What a core holds. -/
def Need.fits (x : Need) : Bool :=
  decide (x.sheaves ≤ 32 ∧ x.regs ≤ 262144 ∧ x.chaff ≤ 65536 ∧ x.w ≤ 64 ∧ x.a ≤ 64 ∧ x.c ≤ 32)
/-- A trap stook: one sheaf of width 8 and budget 32 (19 R322). -/
def Need.trap : Need := ⟨1, 1024, 0, 0, 0, 0⟩
/-- Units of a bin drawn on the first or the second core of a stook. -/
def halfUnits (pair : Bool) (i n : Nat) : Nat := if pair then (if i = 0 then (n + 1) / 2 else n / 2) else n
/-- The sheaves of a record on the core with index i: even sr.sheaf on the even core of a pair. -/
def sheavesOn (r : List Byte) (i : Nat) : List (Nat × Nat × Nat) :=
  ((recSheaves r).zipIdx.filter (fun e => !recPair r || e.2 % 2 == i)).map (·.1)
def needOn (r : List Byte) (i : Nat) : Need :=
  let l := sheavesOn r i
  let lanes := l.foldl (fun n x => n + x.2.1) 0
  { sheaves := l.length
    regs := l.foldl (fun n x => n + 4 * x.2.1 * x.2.2) 0
    chaff := if 0 < recChRegion r then 128 * lanes else 0
    w := halfUnits (recPair r) i (recBinW r), a := halfUnits (recPair r) i (recBinA r), c := halfUnits (recPair r) i (recBinC r) }

/-- What the residents of a core use. A sheaf holds its slot until it exits; the rest of a stook's footprint stays until
the stook retires (R297). -/
def State.used (s : State) (core : Nat) : Need :=
  let n := s.stooks.foldl (fun (n : Need) e =>
    if e.2.parked then n
    else match e.2.cores.findIdx? (· == core) with
      | none => n
      | some i => if e.2.trapStook then n.add .trap else
        match s.crop? e.2.crop with
        | some c => n.add (needOn c.record i)
        | none => n) Need.zero
  { n with sheaves := (s.sheaves.filter (fun e => e.2.core = core)).length }
def State.room (s : State) (core : Nat) (x : Need) : Bool := ((s.used core).add x).fits

/-- A core that stooks may be placed on: usable, of a die whose barns are ready, not under a scan (21 R357, R361). -/
def State.placeable (s : State) (core : Nat) : Bool :=
  (s.core core).st == .usable && !(s.core core).scanned && s.rel.ready.getLsbD (8 + dieOf core)
/-- Cores of a seat (R295). -/
def seatSize (r : List Byte) : Nat := recRick r * (if recPair r then 2 else 1)
/-- The seats of a partition, in order of their lowest logical number. -/
def Part.seats (p : Part) (n : Nat) : List (List Nat) :=
  let starts := p.ltp.foldl (fun (l : List Nat) c => if l.contains (c / n * n) then l else l ++ [c / n * n]) []
  (starts.map (fun b => (List.range n).map (· + b))).filter (fun l => l.all (fun c => p.ltp.contains c))
def State.eligible (s : State) (p : Part) (r : List Byte) : List (List Nat) :=
  (p.seats (seatSize r)).filter (fun l => l.all (fun c => s.placeable c))
/-- Cores of the stook with a rank within its seat. -/
def seatCores (r : List Byte) (seat : List Nat) (rank : Nat) : List Nat :=
  if recPair r then (seat.drop (2 * rank)).take 2 else (seat.drop rank).take 1
/-- Whether a seat has room for `n` stooks of a record. -/
def State.seatFits (s : State) (r : List Byte) (seat : List Nat) (n : Nat) : Bool :=
  (List.range n).all (fun k => (seatCores r seat k).zipIdx.all (fun e => s.room e.1 (needOn r e.2)))

/-! ### Checks of a record (Table 17.7) -/

/-- Reserved bits, role words and the flags that need others: code 1. -/
def recReserved (r : List Byte) : Bool :=
  let sh := recShape r
  let n := recNroles r
  decide (bitsOf sh 27 5 ≠ 0) || decide (bitsOf sh 22 2 ≠ 0) || decide (bitsOf sh 15 1 ≠ 0) || decide (bitsOf sh 11 1 ≠ 0) ||
  decide (4 < n) || decide (recRickCode r = 3) || (recMerge r && !recDet r) || decide (n ≠ 0 ∧ bitsOf sh 0 11 ≠ 0) ||
  decide (fieldNat r 0x33 1 ≠ 0) || decide (bitsOf (recEvent r) 16 16 ≠ 0) || decide (bitsOf (recEvent r) 2 6 ≠ 0) ||
  decide (fieldNat r 0x78 8 ≠ 0) || (!recDet r && decide (recRanges r ≠ 0)) ||
  (List.range 4).any (fun k =>
    let w := recRole r k
    if k < n then decide (bitsOf w 16 16 ≠ 0) || decide (bitsOf w 10 2 ≠ 0) || decide (bitsOf w 5 3 ≠ 0) else decide (w ≠ 0))
def recDepBad (r : List Byte) : Bool := (List.range 4).any (fun k => bitsOf (recDep r k) 1 2 != 0)
/-- The codes that a record violates, ascending; 9, 12 and 13 arise elsewhere. -/
def State.recErrors (s : State) (p : Part) (r : List Byte) : List Nat :=
  let g := [recGx r, recGy r, recGz r]
  let n := recNroles r
  let counts := (List.range n).map (fun k => bitsOf (recRole r k) 0 5)
  let vregs := if n = 0 then [bitsOf (recShape r) 7 4] else (List.range n).map (fun k => bitsOf (recRole r k) 12 4)
  let m := if recPair r then 2 else 1
  let foot := (needOn r 0).add .zero
  let foot2 := if recPair r then needOn r 1 else .zero
  let tooBig (x : Need) : Bool := decide (32 < x.sheaves ∨ 262144 < x.regs ∨ 65536 < x.chaff)
  (if recReserved r then [1] else []) ++
  (if g.any (fun x => x == 0 || decide (65536 < x)) ∨ 2 ^ 24 < recStooks r then [2] else []) ++
  (if counts.any (· == 0) ∨ 16 < (recSheaves r).length then [3] else []) ++
  (if vregs.any (fun v => v == 0 || decide (12 < v)) ∨ tooBig foot ∨ tooBig foot2 then [4] else []) ++
  (if 64 * m < recBinW r ∨ 64 * m < recBinA r ∨ 32 * m < recBinC r then [5] else []) ++
  (if recChBase r % 64 ≠ 0 ∨ recChLimit r % 64 ≠ 0 ∨ recChLimit r < recChBase r then [6] else []) ++
  (if fieldNat r 0 8 % 4 ≠ 0 ∨ recDone r % 16 ≠ 0 ∨ recDepBad r then [7] else []) ++
  (if recDet r && (recRanges r == 0 || recRanges r % 128 != 0) then [8] else []) ++
  (if recPair r && recRickCode r == 2 then [10] else []) ++
  (if (p.seats (seatSize r)).any (fun l => l.all (fun c => (s.core c).st == .usable)) then [] else [11])

/-! ### Taking records (17 R287, R288, R291, R292) -/

/-- The record is rejected: QERR and its completion block. -/
def State.rejectRec (s : State) (qn code : Nat) (r : List Byte) : State :=
  let q := s.queue qn
  let s := s.setQueue qn ((q.reject code))
  if recDone r = 0 then s else s.owe q.ctx (s.part q.part).die q.fn r (.reject code)
/-- The order of the doorbell that made the record at QHEAD available. -/
def LQueue.order (q : LQueue) : Option Nat :=
  (q.bells.find? (fun b => (b.1 - q.head != 0) && decide (b.1 - q.head ≤ q.size))).map (·.2)
/-- One record leaves the ring. -/
def LQueue.advance (q : LQueue) : LQueue :=
  let h := q.head + 1
  { q with head := h, bells := q.bells.filter (fun b => b.1 != h) }
/-- The dispatcher reads the counters of a taken record that it can reach: as acquires at their homes. -/
def State.readDeps (s : State) (qn : Nat) : State :=
  (List.range 4).foldl (fun s k =>
    let q := s.queue qn
    match q.taken with
    | none => s
    | some t =>
      let d := recDep t.record k
      if d = 0 ∨ t.met.getLsbD k = true ∨ t.recs ≠ [] ∨ t.pas.any (fun e => e.1 / 2 == k) then s
      else match s.translate none q.ctx (BitVec.ofNat 64 (d / 8 * 8)) .read true with
        | (.ok pa pte hd ho, s) =>
          if s.unitWaits (pa, 8, pte, hd, ho) || (isHost pa && !s.fnUp q.fn) then s
          else if isPeer pa then s.setQueue qn { q with taken := some { t with pas := t.pas ++ [(2 * k + d % 2, pa)] } }
          else
            let met := if depRead s pa (d % 2 == 1) ≤ 0 then t.met ||| BitVec.ofNat 4 (2 ^ k) else t.met
            s.setQueue qn { q with taken := some { t with met := met, pas := t.pas ++ [(2 * k + d % 2, pa)] } }
        | (.park r, s) => s.setQueue qn { q with taken := some { t with recs := [r] } }
        | (_, s) => (s.setQueue qn { q with taken := none }).rejectRec qn 13 t.record) s

/-- A counter at a peer or in host memory, where no home of this device records its writes, is read again each time the
dispatcher looks (DESIGN CHOICE, log 127). What a peer answers is free. -/
def State.readPeers (s : State) (qn : Nat) : State :=
  match (s.queue qn).taken with
  | none => s
  | some t => (t.pas.filter (fun e => (isPeer e.2 || isHost e.2) && !t.met.getLsbD (e.1 / 2))).foldl (fun s e =>
      let (go, s) := if isPeer e.2 then s.freeBit else (decide (depRead s e.2 (e.1 % 2 == 1) ≤ 0), s)
      let q := s.queue qn
      if go && (if isPeer e.2 then s.hasRoute (peerOf e.2) else s.fnUp q.fn) then
        s.setQueue qn { q with taken := q.taken.map (fun t => { t with met := t.met ||| BitVec.ofNat 4 (2 ^ (e.1 / 2)) }) }
      else s) s
/-- Whether an operation of pre-emption holds a partition (19 R334). -/
def State.partHeld (s : State) (p : Nat) : Bool :=
  match s.trapPage.op with
  | some o => o.part == p
  | none => false
/-- An operation of the trap control page holds the partition of a sheaf: nothing of it issues (19 R334). -/
def State.sheafHeld (s : State) (sh : Sheaf) : Bool :=
  match (s.stookOf sh).bind s.cropOf with
  | some c => s.partHeld c.part
  | none => false
def execRecordTake (queue : Nat) (s : State) : Out :=
  let q := s.queue queue
  match q.taken, q.order with
  | none, some order =>
    if !q.enable || q.recs ≠ [] || s.partHeld q.part || 64 ≤ queue then .next s
    else match s.translate none q.ctx (q.slotVa q.head) .read true with
      | (.ok pa pte hd ho, s) =>
        if s.unitWaits (pa, 128, pte, hd, ho) || (isHost pa && !s.fnUp q.fn) then .next s
        else
          let r := s.physRead pa 128
          let s := s.setQueue queue q.advance
          if recDepBad r then .next (s.rejectRec queue 7 r)
          else
            let t : Taken := ⟨r, order, s.cropSeq, 0, [], []⟩
            .next ({ s.setQueue queue { s.queue queue with taken := some t } with cropSeq := s.cropSeq + 1 }.readDeps queue)
      | (.park r, s) => .next (s.setQueue queue { q with recs := [r] })
      | (_, s) => .next (s.setQueue queue (q.advance.reject 9))
  | _, _ => .next s

/-- A crop as it starts. -/
def newCrop (q : LQueue) (queue : Nat) (t : Taken) : Crop :=
  { record := t.record, seq := t.seq, queue := queue, part := q.part, ctx := q.ctx, prio := Nat.min (recPrio t.record) q.maxPrio
    order := t.order, next := 0, counted := 0, diePend := [0, 0, 0, 0], retired := [], finished := [], tokPos := 0, tokRound := 0
    done := false, killed := false, relaunches := [], replaced := [], redo := [], merged := [], cores := [], suspect := 0
    confirmed := false, statSet := false }
def execDependencesMet (queue : Nat) (s : State) : Out :=
  let s := (s.readDeps queue).readPeers queue
  let q := s.queue queue
  match q.taken with
  | none => .next s
  | some t =>
    if (List.range 4).all (fun k => recDep t.record k == 0 || t.met.getLsbD k) then
      let s := s.setQueue queue { q with taken := none }
      match s.recErrors (s.part q.part) t.record with
      | code :: _ => .next (s.rejectRec queue code t.record)
      | [] =>
        let (key, s) := s.fresh
        .next (s.setCrop key (newCrop q queue t))
    else .next s

/-! ### Placement (17 R296) -/

/-- The watch descriptors of a context (19 Table 19.2, R330). -/
def State.watches (s : State) (ctx : Nat) : List (Nat × Nat × Nat) :=
  (List.range 4).map (fun i =>
    let a := s.vtab ctx + 0x10 + 16 * i
    (s.physNat a 8, s.physNat (a + 8) 4, s.physNat (a + 12) 4))
/-- A sheaf at placement: registers, predicates and masks zero, lanes at an address (04 R65, 05 R84, 06 R106, R107). -/
def Sheaf.fresh (uid core idx role width budget ctx prio age : Nat) (pc args : DWord) (serves : Option Nat)
    (watch : List (Nat × Nat × Nat)) : Sheaf :=
  { uid := uid, core := core, idx := idx, role := role, width := width, budget := budget, ctx := ctx, prio := prio, maxPrio := prio
    age := age, lanes := (List.range width).map (fun i => (i, Lane.fresh pc)), regs := [], s := [(0, loWord args), (1, hiWord args)]
    q := 0, m := [], flights := [], replay := [], phases := [], forcedL := [], forcedU := [], waitL := 0, waitU := 0
    starvedL := false, starvedU := false, yielded := false, lock := [], turn := none, frozen := false, trap := none, slot := none
    serves := serves, held := [], watch := watch, watchq := [], spurious := 0, resuming := false }
/-- Placement invalidates the instruction cache of a core and acquires at .SY in the barn's L1. -/
def State.placeOn (s : State) (core : Nat) : State :=
  let s := s.setCore core { s.core core with icache := [] }
  s.inva (barnOf core) .sy
/-- The write ranges of a stook as its entry gives them (18 R307); merge mode checks none. -/
def rangesOf (bs : List Byte) : List WRange :=
  ((List.range 8).map (fun i => (⟨fieldNat bs (16 * i) 8, fieldNat bs (16 * i + 8) 8⟩ : WRange))).filter (fun r => r.len != 0)
/-- The range entry of a stook: read, or free bytes where its translation was declined; none while it waits. -/
def State.readRanges (s : State) (c : Crop) (lin : Nat) : Option (List WRange) × State :=
  if !recDet c.record then (some [], s)
  else match s.translate none c.ctx (BitVec.ofNat 64 (recRanges c.record + 128 * lin)) .read true with
    | (.ok pa pte hd ho, s) => if s.unitWaits (pa, 128, pte, hd, ho) || (isHost pa && !s.fnUp (s.queue c.queue).fn) then (none, s) else (some (rangesOf (s.physRead pa 128)), s)
    | (.park _, s) => (none, s)
    | (_, s) =>
      let (bs, s) := s.freeBytes 128
      (some (rangesOf bs), s)

/-- One stook of a crop placed on its cores. -/
def State.placeStook (s : State) (key rick rank lin size : Nat) (cores : List Nat) (ranges : List WRange) : State :=
  match s.crop? key with
  | none => s
  | some c =>
    let r := c.record
    let pos := rick * recRick r + rank
    let (uid, s) := s.fresh
    let s := cores.foldl (fun s core => s.placeOn core) s
    let watch := s.watches c.ctx
    let (sids, s) := (recSheaves r).zipIdx.foldl (fun (acc : List Nat × State) e =>
      let (sid, s) := acc.2.fresh
      let core := cores.getD (if recPair r then e.2 % 2 else 0) 0
      (acc.1 ++ [sid], s.setSheaf sid (Sheaf.fresh uid core e.2 e.1.1 e.1.2.1 e.1.2.2 c.ctx c.prio sid
        (BitVec.ofNat 64 (fieldNat r 0 8)) (BitVec.ofNat 64 (fieldNat r 8 8)) none watch))) ([], s)
    let s := s.setStook uid {
      crop := key, linear := lin, pos := pos, rank := rank, rick := rick, rickSize := size, redo := c.redo.getD pos 0, cores := cores
      wUnits := recBinW r, aUnits := recBinA r, cUnits := recBinC r, binW := [], binA := [], binC := [], sheaves := sids, round := 0
      ranges := ranges, merge := [], parked := false, wakes := [], trapStook := false, killed := false, saved := [], savedOps := []
      savedMx := [], park := (0, 0) }
    s.modCrop key (fun c => { c with
      diePend := (List.range 4).map (fun d => c.diePend.getD d 0 + (if d = dieOf (cores.headD 0) then 1 else 0))
      cores := cores.foldl (fun l k => (l.filter (fun e => e.1 != k)) ++ [(k, true)]) c.cores })

/-- The next rick of a crop to place: a killed one that is relaunched, the first in order of position (18 R306), else the
next. -/
def Crop.nextRick (c : Crop) : Option Nat :=
  match c.replaced with
  | k :: r => some (r.foldl Nat.min k)
  | [] => if c.next < (if c.det then c.lastPos else c.total) then some (c.next / recRick c.record) else none
def Crop.placedRick (c : Crop) (k : Nat) : Crop :=
  if c.replaced.contains k then { c with replaced := c.replaced.filter (· != k) }
  else { c with next := Nat.min (recRick c.record * (k + 1)) (if c.det then c.lastPos else c.total) }
/-- A rick placed at a seat with room; none where a range entry is not there yet. -/
def State.placeRick (s : State) (key : Nat) (c : Crop) (k : Nat) (seat : List Nat) : Option State :=
  let lins := rickStooks c.record k
  let rr := lins.foldl (fun (acc : Option (List (List WRange)) × State) l =>
    match acc.1, acc.2.readRanges c l with
    | some rs, (some r, s) => (some (rs ++ [r]), s)
    | _, (_, s) => (none, s)) (some [], s)
  match rr with
  | (none, _) => none
  | (some rs, s) =>
    some ((lins.zip rs).zipIdx.foldl (fun s e =>
      s.placeStook key k e.2 e.1.1 lins.length (seatCores c.record seat e.2) e.1.2) (s.modCrop key (fun c => c.placedRick k)))
/-- The faults of range entries that a rick still waits for are recorded. -/
def State.rangeFaults (s : State) (c : Crop) (k : Nat) : State := (rickStooks c.record k).foldl (fun s l => (s.readRanges c l).2) s

/-- One round of dealing for a crop: each seat in turn takes the next rick that it has room for; a deterministic crop
places one rick at the first seat with room (R295, 18 R306). -/
def State.dealCrop (s : State) (p : Part) (key : Nat) (c : Crop) : State × Bool :=
  (s.eligible p c.record).foldl (fun (acc : State × Bool) seat =>
    if c.det && acc.2 then acc
    else match (acc.1.crop? key).bind (fun c => c.nextRick.map (fun k => (c, k))) with
      | none => acc
      | some (c, k) =>
        if acc.1.seatFits c.record seat (rickStooks c.record k).length then
          match acc.1.placeRick key c k seat with
          | some s => (s, true)
          | none => (acc.1.rangeFaults c k, acc.2)
        else acc) (s, false)

/-- Crops of a partition that wait to be dealt: higher priority first, then the earlier doorbell (R288). -/
def insertCrop (x : Nat × Crop) : List (Nat × Crop) → List (Nat × Crop)
  | [] => [x]
  | y :: t => if y.2.prio < x.2.prio ∨ (y.2.prio = x.2.prio ∧ x.2.order < y.2.order) then x :: y :: t else y :: insertCrop x t
def State.waiting (s : State) (p : Nat) : List (Nat × Crop) :=
  (s.crops.filter (fun e => e.2.part == p && e.2.nextRick.isSome)).foldl (fun l e => insertCrop e l) []

/-! ### Parked ricks whose wait is over (19 R332) -/

/-- A parked sheaf's core is the one it was evicted from, plus this. -/
def parkedBase : Nat := 1000
/-- The place of a parked sheaf's core among its stook's. -/
def Stook.coreIx (k : Stook) (sh : Sheaf) : Nat := k.cores.findIdx (· == sh.core - parkedBase)
/-- The tags of a state that a parked stook holds on the core with a place. -/
def Stook.savedIn (k : Stook) (i : Nat) (st : TagState) : DWord := laneSetOf 64 (fun t => (k.saved.getD (64 * i + t) .idle).st == st)
/-- Whether a PWAIT of a parked stook is over. -/
def Stook.pwaitOver (k : Stook) (i : Nat) (mask : DWord) (all : Bool) : Bool :=
  k.savedIn i .busy &&& mask == 0 || (!all && k.savedIn i .ready &&& mask != 0)
def Flight.pwaitMask (f : Flight) : DWord := (f.accs.headD ⟨64, 0, 0, 0, 0, 0, false, [], .queued⟩).va
/-- Whether a CCWAIT without a wait entry finds its counter at zero or below (17 R302). -/
def State.ccOver (s : State) (sid : Nat) (f : Flight) : Bool :=
  match f.instr, f.accs with
  | .ccwaitB32 .., a :: _ | .ccwaitX64 .., a :: _ => f.stage == .waiting && !s.waits.any (fun e => e.sid == sid && e.flight == f.id) &&
      decide ((BitVec.ofNat 64 (natOfBytes (s.physRead a.pa 8))).toInt ≤ 0)
  | _, _ => false
/-- Whether a flight of a parked sheaf would let a lane go on: its wake condition (19 Table 19.10). -/
def Flight.wakes (f : Flight) (sh : Sheaf) (k : Stook) (c : Crop) : Bool :=
  match f.stage with
  | .parked recs => recs.isEmpty
  | .access => f.accs.all (fun a => match a.st with | .done _ => true | _ => false)
  | .waiting =>
    match f.instr with
    | .tkwaitB32 .. | .tkwaitX64 .. => k.holdsToken c
    | .pwaitAnyB32 .. => k.pwaitOver (k.coreIx sh) f.pwaitMask false
    | .pwaitAllB32 .. => k.pwaitOver (k.coreIx sh) f.pwaitMask true
    | .pwaitX64 _ _ _ all => k.pwaitOver (k.coreIx sh) f.pwaitMask all
    | _ => f.ready != 0
  | _ => false
/-- A wake condition as a context area saves it. The phase that an FBWAIT awaits, and whether a PWAIT needs all its tags,
are not saved: the wait is evaluated anew from the instruction (R374), so the stook is placed for it. Kind 8 is the model's
own: the write ranges of a restored stook are still to be read (18 R307). -/
def State.savedWake (s : State) (c : Crop) (k : Stook) (kind arg : Nat) : Bool :=
  match kind with
  | 2 => (List.range 2).any (fun i => k.pwaitOver i (BitVec.ofNat 64 arg) false)
  | 4 => match (s.translate none c.ctx (BitVec.ofNat 64 arg) .read true).1 with
    | .ok pa _ _ _ => decide ((BitVec.ofNat 64 (natOfBytes (s.cohRead pa 8))).toInt ≤ 0)
    | _ => true
  | 5 => k.holdsToken c
  | 8 => false
  | _ => true
def State.rickWoken (s : State) (k : Stook) : Bool :=
  match s.cropOf k with
  | none => false
  | some c => (s.rickOf k).any (fun e => e.2.wakes.any (fun w => s.savedWake c e.2 w.1 w.2.1) ||
      (s.sheavesOf e.2).any (fun x => x.2.replay != [] || x.2.flights.any (fun f => f.wakes x.2 e.2 c || s.ccOver x.1 f)))
/-- Every held tag number of the stooks is idle and free on the new cores (10 R171). -/
def State.tagsFit (s : State) (k : Stook) (cores : List Nat) : Bool :=
  k.saved.all (fun t => (s.core (cores.getD (t.1 / 64) 0)).tag (t.1 % 64) == .idle)
/-- The seats that can take a parked rick back. -/
def State.rickSeats (s : State) (k : Stook) : List (List Nat) :=
  match s.cropOf k with
  | none => []
  | some c =>
    let rick := s.rickOf k
    (s.eligible (s.part c.part) c.record).filter (fun seat =>
      rick.all (fun e => s.tagsFit e.2 (seatCores c.record seat e.2.rank) &&
        e.2.savedMx.all (fun m => (s.core ((seatCores c.record seat e.2.rank).getD m.1 0)).mx.owner.isNone &&
          (s.core ((seatCores c.record seat e.2.rank).getD m.1 0)).mx.queue.isEmpty) &&
        (seatCores c.record seat e.2.rank).zipIdx.all (fun x => s.room x.1 (needOn c.record x.2))))
/-- Whether a parked rick of a priority or above is to be placed before a waiting crop. -/
def State.restoreFirst (s : State) (p prio : Nat) : Bool :=
  s.stooks.any (fun e => e.2.parked && s.rickWoken e.2 && (match s.cropOf e.2 with
    | some c => c.part == p && decide (prio ≤ c.prio)
    | none => false) && !(s.rickSeats e.2).isEmpty)

/-- A reconfiguration of a partition is due: a commit, or a retired core that keeps its number (17 R293, R294). -/
def State.partDue (s : State) (p : Part) : Bool := p.pending || (p.defined && p.ltp.any (fun c => (s.core c).st == .retired))
def execDealRound (part : Nat) (s : State) : Out :=
  let p := s.part part
  if s.partDue p || s.partHeld part then .next s
  else .next ((s.waiting part).foldl (fun (acc : State × Bool) e =>
    if acc.2 || s.restoreFirst part e.2.prio then acc else
      let (s', b) := acc.1.dealCrop p e.1 e.2
      (s', b)) (s, false)).1

/-! ### Merge buffers (18 R315) -/

/-- Insertion by ordinal; bytes of one ordinal keep their program order. -/
def insertByte (x : MergeByte) : List MergeByte → List MergeByte
  | [] => [x]
  | y :: t => if x.ordinal < y.ordinal then x :: y :: t else y :: insertByte x t
/-- The merge of a stook's buffer; bytes that cannot be merged now stay in it. -/
def State.mergeFlush (s : State) (uid : Nat) : State :=
  match s.stook? uid with
  | none => s
  | some k =>
    if k.merge.isEmpty then s
    else
      let ctx := ((s.cropOf k).map (·.ctx)).getD 0
      let core := k.cores.headD 0
      let (s, kept) := (k.merge.foldl (fun l m => insertByte m l) []).foldl (fun (acc : State × List MergeByte) m =>
        if acc.1.mergeWaits core m || acc.2.any (fun x => x.pa == m.pa) then (acc.1, acc.2 ++ [m])
        else (acc.1.mergePut k.crop core ctx m, acc.2)) (s, [])
      s.modStook uid (fun k => { k with merge := kept })

/-! ### Retirement and the completion tree (17 R297) -/

/-- Whether builds and refits that a stook issued are still under way. -/
def State.regionsBusy (s : State) (uid : Nat) : Bool :=
  s.regions.any (fun e => (e.2.arrivals ++ e.2.build.toList).any (fun b => b.uid == uid || b.uids.contains uid) ||
    (match e.2.refit with | some x => x.req.uids.contains uid | none => false)) ||
  s.refitQ.any (fun e => e.2.any (fun q => q.uids.contains uid))
/-- Whether a stook with no sheaf left may retire. In deterministic mode, where its retirement moves the token, its builds and
refits end first (18 R312). -/
def State.retirable (s : State) (uid : Nat) (k : Stook) : Bool :=
  !k.parked && (s.sheavesOf k).isEmpty && k.merge.isEmpty && k.sheaves.all (fun sid => !s.owes sid 0xFFFFFFFFFFFFFFFF) &&
  k.cores.all (fun c => !s.gatherHeld (barnOf c) .sy && !(s.core c).tags.any (fun t => t.2.holder == some uid) &&
    !((s.core c).wainQ ++ (s.core c).wainRun).any (fun o => o.uid == uid) &&
    !(s.core c).mx.queue.any (fun e => e.uid == uid) && !(match (s.core c).mx.owner with | some o => k.sheaves.contains o | none => false)) &&
  !s.pfl2.any (fun o => o.uid == uid) && !s.colls.any (fun o => o.uid == uid) &&
  !(((s.cropOf k).map (·.det)).getD false && s.regionsBusy uid)
def execStookRetire (uid : Nat) (s : State) : Out :=
  match s.stook? uid with
  | none => .next s
  | some k =>
    if s.retirable uid k then
      let s := k.cores.foldl (fun s c => s.publishUpTo (barnOf c) .sy) s
      let s := s.removeStook uid
      if k.trapStook then .next s else .next (s.modCrop k.crop (fun c => c.count k.pos (dieOf (k.cores.headD 0)) (Nat.max k.round k.redo)))
    else .next s
/-- Crops whose every stook has counted are done; a kill without relaunch sets KILLED (R297, 19 R328). -/
def State.cropSweep (s : State) : State :=
  s.crops.foldl (fun s e =>
    match s.crop? e.1 with
    | none => s
    | some c =>
      let die := (s.part c.part).die
      let fn := (s.queue c.queue).fn
      let s := if c.killed && !c.statSet then (s.owe c.ctx die fn c.record .killed).setCrop e.1 { c with statSet := true } else s
      match s.crop? e.1 with
      | none => s
      | some c =>
        if !c.done && c.counted == c.total && c.nextRick.isNone then
          (s.owe c.ctx die fn c.record (.done (doneIrq c.record))).setCrop e.1 { c with done := true }
        else s) s
def execCropConfirm (seq : Nat) (s : State) : Out :=
  match List.find? (fun (e : Nat × Crop) => e.2.seq == seq && e.2.done && e.2.cores.isEmpty) s.crops with
  | none => .next s
  | some (key, c) =>
    let s := s.owe c.ctx (s.part c.part).die (s.queue c.queue).fn c.record (.confirmed c.suspect (confIrq c.record))
    .next { s with crops := s.crops.erase key }

/-! ### Partitions (17 R293, R294; 21 R360) -/

/-- A commit, by the host through the physical function's page: the entry as it stands is what the reconfiguration will take. -/
def execPartitionCommit (part : Nat) (s : State) : Out :=
  let p := s.part part
  if 16 ≤ part ∨ s.hostVis = false then .next s else .next (s.setPart part { p with pending := true, maskDue := p.maskReg, pageDue := p.pageReg })
/-- Barns of a mask, ascending; bit 22 × die + barn. -/
def barnsOf (mask : Nat) : List Nat := (List.range 88).filter (fun b => mask.testBit b)
/-- The harvest byte of a barn (Table 17.9). -/
def CoreSt.code : CoreSt → Nat
  | .usable => 0 | .spare => 1 | .dead => 2 | .retired => 3
def State.harvest (s : State) (b : Nat) : Nat := (List.range 4).foldl (fun n k => n + (s.core (4 * b + k)).st.code * 4 ^ k) 0
/-- Barns that other partitions hold. -/
def State.claimed (s : State) (part : Nat) : Nat :=
  s.parts.foldl (fun m e => if e.1 != part && e.2.defined then Nat.lor m e.2.mask else m) 0
/-- The spare that takes a retired core's number: on its die, in a barn of the partition, else in a barn of none. -/
def State.spareFor (s : State) (part mask core : Nat) : Option Nat :=
  let d := dieOf core
  let spares := ((List.range 88).map (· + 88 * d)).filter (fun c => (s.core c).st == .spare)
  match spares.find? (fun c => mask.testBit (barnOf c)) with
  | some c => some c
  | none => spares.find? (fun c => !(Nat.lor mask (s.claimed part)).testBit (barnOf c))
/-- Retired cores leave the numbering: a spare takes each number, or the number goes. -/
def State.replaceRetired (s : State) (part mask : Nat) (ltp : List Nat) : List Nat × State :=
  ltp.foldl (fun (acc : List Nat × State) c =>
    if (acc.2.core c).st == .retired then
      match acc.2.spareFor part mask c with
      | some n => (acc.1 ++ [n], acc.2.setCore n { acc.2.core n with st := .usable })
      | none => acc
    else (acc.1 ++ [c], acc.2)) ([], s)
/-- The partition page (Table 17.8), from offset 8 on. -/
def pageBytes (s : State) (p : Part) : List Byte :=
  let bs := barnsOf p.mask
  bytesOf 4 p.ltp.length ++ bytesOf 4 bs.length ++
  (List.range 88).map (fun k => if k < bs.length then BitVec.ofNat 8 (128 + bs.getD k 0) else 0) ++ bytesOf 8 0 ++
  (List.range 88).map (fun k => if k < bs.length then BitVec.ofNat 8 (s.harvest (bs.getD k 0)) else 0) ++ bytesOf 56 0 ++
  (List.range 352).flatMap (fun n => match p.ltp[n]? with
    | some c => bytesOf 2 (32768 + dieOf c * 128 + barnInDie c * 4 + slotOf c)
    | none => [0, 0]) ++ List.replicate 3136 0
/-- A write of the I/O die at a physical address. -/
def State.packageWrite (s : State) (pa : Nat) (bs : List Byte) : State :=
  let a := (s.place pa).canon
  if isHost a || isPeer a then s.memWrite a bs else s.homeWrite a bs .package
/-- Whether a stook of a partition is resident. -/
def State.partBusy (s : State) (part : Nat) : Bool :=
  s.stooks.any (fun e => !e.2.parked && (match s.cropOf e.2 with | some c => c.part == part | none => false))
def execReconfiguration (part : Nat) (s : State) : Out :=
  let p := s.part part
  let page := if p.pending then p.pageDue else p.page
  if !s.partDue p || s.partBusy part || s.partHeld part || (halvesOf (s.place page.toNat).canon 4096).any s.hostHolds then .next s
  else
    let mask := if p.pending then (barnsOf p.maskDue).foldl (fun m b => if (s.claimed part).testBit b then m else m + 2 ^ b) 0 else p.mask
    let (ltp, s) := s.replaceRetired part mask p.ltp
    let ltp := if p.pending && (!p.defined || mask != p.mask) then
      ((barnsOf mask).flatMap (fun b => (List.range 4).map (· + 4 * b))).filter (fun c => (s.core c).st == .usable) else ltp
    let p := { p with mask := mask, page := page, defined := true, pending := false, ltp := ltp }
    let s := s.packageWrite (page.toNat + 4) (bytesOf 4 (p.gen + 1).toNat)
    let s := s.packageWrite page.toNat (bytesOf 4 part)
    let s := s.packageWrite (page.toNat + 8) (pageBytes s p)
    let s := s.packageWrite (page.toNat + 4) (bytesOf 4 (p.gen + 2).toNat)
    .next (s.setPart part { p with gen := p.gen + 2 })

/-! ### LAUNCH (17 R300) -/

/-- The record and the ring slot of a LAUNCH translated: both accesses, or what stands in the way. -/
def State.launchXlate (s : State) (core ctx qn : Nat) (addr : DWord) : Xres × State :=
  let q := s.queue qn
  match s.xlateLanes (some core) ctx .read [(64, addr)] with
  | (.ok l, s) =>
    match s.xlateLanes (some core) q.ctx .write [(64, q.slotVa q.tail)] with
    | (.ok l', s) => (.ok (l ++ l'), s)
    | (x, s) => (x, s)
  | (x, s) => (x, s)
/-- The record is copied into the slot and the doorbell recorded, or the ring is full. -/
def State.launchGo (s : State) (sid core qn rec slot pte hd : Nat) (d : SReg) : State :=
  let q := s.queue qn
  let put (s : State) (w : Word) : State := s.modSheaf sid (fun sh => sh.writeReg d.reg 0 0 w)
  if q.size ≤ q.tail - q.head then put s 1
  else
    let bs := s.physRead rec 128
    let s := if isHost slot || isPeer slot then s.memWrite slot bs
      else (s.homeWrite slot bs (.barn (barnOf core))).dirtyMark q.ctx pte slot hd
    put (s.ring qn (q.tail + 1)) 0
/-- A LAUNCH in flight: its release, then the translations again, then the one indivisible step. -/
def State.advanceLaunch (s : State) (sid : Nat) (sh : Sheaf) (f : Flight) : State :=
  match f.instr with
  | .launch _ d _ _ =>
    let w := f.ops.getD 0 []
    let addr := pairOf (w.getD 0 0) (w.getD 1 0)
    let qn := (w.getD 4 0).toNat
    match s.releaseState sid f.id f.path .sy with
    | .waits => s
    | .failed l => (s.clearFailed sid f.path).faultAt sid f .remfail f.path (BitVec.ofNat 64 (l.headD 0)) l
    | .clear =>
      let s := s.publishUpTo (barnOf sh.core) .sy
      match s.launchXlate sh.core f.ctx qn addr with
      | (.ok [(_, _, rec, rpte, rhd, rho), (_, _, slot, pte, hd, ho)], s) =>
        if s.unitWaits (rec, 128, rpte, rhd, rho) || s.unitWaits (slot, 128, pte, hd, ho) || (!isHost slot && !isPeer slot && (halvesOf slot 128).any s.hostHolds) ||
            ((isHost rec || isHost slot) && !s.hostLinkOf sid) then s
        else
          let full := decide ((s.queue qn).size ≤ (s.queue qn).tail - (s.queue qn).head)
          let made : List (DWord × Nat) := if full then []
            else (addr, 0) :: (if (s.queue qn).ctx = f.ctx then [((s.queue qn).slotVa (s.queue qn).tail, 1)] else [])
          let s := ((s.launchGo sid sh.core qn rec slot pte hd d).touchRegs sid f.instr.dsts).modSheaf sid (fun sh => sh.dropFlight f.id)
          made.foldl (fun s e => if ((s.sheaf? sid).map (·.frozen)).getD false then s else
            s.watchAccs sid f.pc f.path f.path [⟨64, e.1, 0, 128, 0, 0, false, [], .queued⟩] e.2) s
      | (.ok _, s) => s
      | (.trap c _ addr, s) => s.faultAt sid f c f.path addr []
      | (.park l, s) => s.modSheaf sid (fun sh => sh.modFlight f.id (fun f => { f with
          stage := .parked (l.map (fun e => e.2.2))
          accs := l.map (fun e => ⟨e.1, e.2.1, 0, 0, 0, 0, false, [], .sent e.2.2⟩) }))
  | _ => s
def launchBody (i : Instr) (s : State) (k : Ctx) (a b : SReg) : Except TrapInfo Done :=
  let qn := (k.opB b.reg 0 0).toNat
  let addr := k.pairA a.reg 0
  let q := s.queue qn
  let part := ((s.stookOf k.sh).bind s.cropOf).map (·.part)
  if 63 < qn ∨ part ≠ some q.part ∨ q.devprod = false ∨ q.enable = false then .error (k.trap .perm k.path 0)
  else if addr.toNat % 128 ≠ 0 then .error (k.trap .align k.path addr)
  else match s.launchXlate k.sh.core k.ctx qn addr with
    | (.trap c _ addr, _) => .error (k.trap c k.path addr)
    | (.park l, s) => .ok { st := s.parkAt k i l }
    | (.ok _, s) =>
      let (fid, s) := s.addFlight k i .releasing false []
      .ok { st := s.tryFlight k.sid fid State.advanceLaunch }

/-! ### BAR (17 R301) -/

def isBar (i : Instr) : Bool :=
  match i with
  | .barB32 .. | .barX64 .. => true
  | _ => false
/-- Lanes that a flight of BAR holds where they stand. -/
def Flight.barHolds (f : Flight) (sh : Sheaf) : LaneSet :=
  if !isBar f.instr then 0
  else if f.stay then laneSetOf sh.width (fun i => f.path.getLsbD i && (sh.lane i).pc == f.pc) else f.path
/-- A sheaf has arrived: each lane that has not exited is held at a BAR whose release is complete. -/
def State.barArrived (s : State) (sid : Nat) (sh : Sheaf) : Bool :=
  let held := sh.flights.foldl (fun m f => if f.stage == .waiting && s.releaseState sid f.id f.path .st == .clear then m ||| f.barHolds sh else m) 0
  sh.live &&& ~~~held == 0
/-- Failed peer lines end a BAR in REMFAIL. -/
def State.barFail (s : State) (sid : Nat) (sh : Sheaf) (f : Flight) : State :=
  match s.releaseState sid f.id f.path .st with
  | .failed l => if sh.frozen then s else (s.clearFailed sid f.path).faultAt sid f .remfail f.path (BitVec.ofNat 64 (l.headD 0)) l
  | _ => s
/-- A released BAR: its lanes acquire at .ST and go on; those of a frozen sheaf at the end of its resume. -/
def State.barLeave (s : State) (sid : Nat) (f : Flight) : State := (s.acquire sid f.path .st).moveOn sid f f.path
def State.barRelease (s : State) (sid : Nat) (sh : Sheaf) : State :=
  (sh.flights.filter (fun f => isBar f.instr && f.stage == .waiting)).foldl (fun s f =>
    if sh.frozen || (sh.resuming && f.stay) then s.modSheaf sid (fun sh => sh.modFlight f.id (fun f => { f with ready := f.path }))
    else s.barLeave sid f) s
/-- The barrier of a stook completes when every sheaf of it has arrived: its merge buffer is merged, to the last byte and
acknowledgement, its barn's gather copies are published (13 R239), and the lanes go on. -/
def State.barTry (s : State) (uid : Nat) : State :=
  match s.stook? uid with
  | none => s
  | some k =>
    let l := s.sheavesOf k
    let ready (s : State) : Bool := k.trapStook || (s.sheavesOf k).all (fun e => s.barArrived e.1 e.2)
    if l.any (fun e => e.2.flights.any (fun f => isBar f.instr && f.stage == .waiting && f.ready == 0)) && ready s then
      let s := s.mergeFlush uid
      if ready s && ((s.stook? uid).map (·.merge.isEmpty)).getD true then
        (s.sheavesOf k).foldl (fun s e => s.barRelease e.1 e.2) (k.cores.foldl (fun s c => s.publishUpTo (barnOf c) .st) s)
      else s
    else s
def barBody (i : Instr) (s : State) (k : Ctx) : Except TrapInfo Done :=
  match s.releaseState k.sid s.nextId k.path .st with
  | .failed l => .error { (k.trap .remfail k.path (BitVec.ofNat 64 (l.headD 0))) with fail := l }
  | _ =>
    let (_, s) := s.addFlight k i .waiting true []
    .ok { st := s.barTry k.sh.uid, stay := if k.replay.isNone then k.path else 0 }

/-! ### CCWAIT (17 R302) -/

/-- CCWAIT leaves: the value read goes to D, an acquire at .SY. -/
def State.ccLeave (s : State) (sid : Nat) (f : Flight) (d : SReg) (v : DWord) : State :=
  let s := s.modSheaf sid (fun sh => (sh.writeReg d.reg 0 0 (loWord v)).writeReg d.reg 0 1 (hiWord v))
  (((s.touchRegs sid f.instr.dsts).acquire sid f.path .sy).moveOn sid f f.path).checkWatch sid f 0
def ccDst (i : Instr) : Option SReg :=
  match i with
  | .ccwaitB32 _ d _ => some d
  | .ccwaitX64 _ d _ => some d
  | _ => none
/-- Whether a wait entry stands for a flight. -/
def State.entered (s : State) (sid fid : Nat) : Bool := s.waits.any (fun e => e.sid == sid && e.flight == fid)
/-- A CCWAIT reads its counter at its home; above zero it takes a wait entry if one is free. -/
def State.ccRead (s : State) (sid : Nat) (f : Flight) (d : SReg) (a : Acc) : State :=
  if isHost a.pa && !s.hostLinkOf sid then s
  else if isHost a.pa || isPeer a.pa then
    let v := BitVec.ofNat 64 (natOfBytes (s.physRead a.pa 8))
    if v.toInt ≤ 0 then s.ccLeave sid f d v else s
  else if !s.reachable a || s.hostMod a.pa then s
  else
    let s := (wordsOf a.pa 8).foldl (fun s wa => s.recallWord wa) s
    let v := BitVec.ofNat 64 (natOfBytes (s.cohRead a.pa 8))
    if v.toInt ≤ 0 then s.ccLeave sid f d v
    else if s.entered sid f.id || decide (128 ≤ (s.waits.filter (fun e => e.hd == a.hd && sliceOf e.pa == sliceOf a.pa)).length) then s
    else { s with waits := s.waits ++ [⟨sid, f.id, 64, a.pa, 8, a.hd, [], true⟩] }
/-- A CCWAIT looks: a read that a recorded write made at zero or below lets it go on; without an entry it reads. -/
def State.advanceCc (s : State) (sid : Nat) (_sh : Sheaf) (f : Flight) : State :=
  match ccDst f.instr, f.accs with
  | some d, a :: _ =>
    match a.st with
    | .done bs => if f.ready ≠ 0 then s.ccLeave sid f d (BitVec.ofNat 64 (natOfBytes bs)) else s
    | _ => s.ccRead sid f d a
  | _, _ => s
def ccwaitBody (i : Instr) (s : State) (k : Ctx) (a : SReg) : Except TrapInfo Done :=
  let addr := k.pairA a.reg 0
  if addr.toNat % 8 ≠ 0 then .error (k.trap .align k.path addr)
  else match s.xlateLanes (some k.sh.core) k.ctx .read [(64, addr)] with
    | (.trap c _ addr, _) => .error (k.trap c k.path addr)
    | (.park l, s) => .ok { st := s.parkAt k i l }
    | (.ok l, s) =>
      let (fid, s) := s.addFlight k i .waiting true (l.map (fun (lane, va, pa, pte, hd, ho) => ⟨lane, va, pa, 8, pte, hd, ho, [], .queued⟩))
      .ok { st := s.tryFlight k.sid fid State.advanceCc, stay := if k.replay.isNone then k.path else 0 }
/-- Without a wait entry, the counter is read again (R302). -/
def execCcwaitPollTimer (sid : Nat) (s : State) : Out :=
  match s.sheaf? sid with
  | none => .next s
  | some sh =>
    if sh.frozen || sh.resuming || decide (parkedBase ≤ sh.core) then .next s
    else .next ((sh.flights.filter (fun f => (ccDst f.instr).isSome && f.stage == .waiting && !s.entered sid f.id)).foldl
      (fun s f => s.tryFlight sid f.id State.advanceCc) s)

/-- 17 R300. -/
noncomputable def execLaunch (g : Pred) (d : SReg) (a : SReg) (b : SReg) (s : State) : Out :=
  issue (.launch g d a b) s (fun k => launchBody (.launch g d a b) s k a b)
/-- 17 R301. -/
noncomputable def execBarB32 (g : Pred) (s : State) : Out :=
  issue (.barB32 g) s (fun k => barBody (.barB32 g) s k)
/-- 17 R301. -/
noncomputable def execBarX64 (g : Pred) (s : State) : Out :=
  issue (.barX64 g) s (fun k => barBody (.barX64 g) s k)
/-- 17 R302. -/
noncomputable def execCcwaitB32 (g : Pred) (d : SReg) (a : SReg) (s : State) : Out :=
  issue (.ccwaitB32 g d a) s (fun k => ccwaitBody (.ccwaitB32 g d a) s k a)
/-- 17 R302. -/
noncomputable def execCcwaitX64 (g : Pred) (d : SReg) (a : SReg) (s : State) : Out :=
  issue (.ccwaitX64 g d a) s (fun k => ccwaitBody (.ccwaitX64 g d a) s k a)

end Sys2Proof.Machine
end

