-- ==== Sys2Proof/Machine/Det.lean ====
section
/-! DEFINITION. The commit token: TKWAIT and TKPASS (18 R309 to R313). -/
namespace Sys2Proof.Machine

open Sys2Proof

/-- The instructions that make the writes of Table 18.2: stores, atomics, FST, RGNB, bin writes, PHEND, and pushes, which
spill. -/
def gatedWrite (i : Instr) : Bool :=
  match i with
  | .stg .. | .stgU .. | .atom .. | .cas .. | .red .. | .fst .. | .rgnb .. | .phend .. | .aatom .. | .fbarr .. | .dquant .. => true
  | .raddF32B32 .. | .raddX64 .. | .rmulF32B32 .. | .rmulS32B32 .. | .rmulX64 .. | .rcvt .. | .rreluF32B32 .. | .rreluX64 .. | .rshr .. | .chpush .. => true
  | _ => false
/-- The writes of Table 18.2 that only the holder of the token makes: atomics, FST, RGNB, and a store outside the stook's
ranges. -/
def tokenWrite (i : Instr) : Bool :=
  match i with
  | .stg .. | .stgU .. | .atom .. | .cas .. | .red .. | .fst .. | .rgnb .. => true
  | _ => false
def Flight.tokenWrite (f : Flight) (k : Stook) : Bool :=
  Machine.tokenWrite f.instr && (!isStore f.instr || f.accs.any (fun a => a.n == 0 || !k.inRanges a.va.toNat a.n))
/-- Whether a withdrawn entry is to make such a write. -/
noncomputable def Replay.makes (r : Replay) (p : Instr → Bool) : Bool :=
  r.valid && (match decode (r.words.take r.len) with
    | .ok i => p i
    | .illegal _ => false)
/-- Whether a write or an engine operation of the stook, issued before a TKPASS, is still under way (R311): an instruction
in flight or withdrawn, a write that its home has not acknowledged, an operation of the wain, a collective step, a prefetch,
a thresher operation, a build, a refit asked for with the token. A write that the token admits is awaited whenever it was
issued: it is performed before every such write of a later position (R312). -/
noncomputable def State.tokenBusy (s : State) (uid ord : Nat) (k : Stook) : Bool :=
  k.sheaves.any (fun sid => s.owes sid 0xFFFFFFFFFFFFFFFF) ||
  (s.sheavesOf k).any (fun e => e.2.flights.any (fun f => (decide (f.ord < ord) && gatedWrite f.instr) || f.tokenWrite k) ||
    e.2.replay.any (fun r => (decide (r.ord < ord) && r.makes gatedWrite) || r.makes tokenWrite)) ||
  k.cores.any (fun c => ((s.core c).wainQ ++ (s.core c).wainRun).any (fun o => o.uid == uid) ||
    (s.core c).mx.queue.any (fun e => e.uid == uid)) ||
  s.colls.any (fun o => o.uid == uid) || s.pfl2.any (fun o => o.uid == uid) || s.regionsBusy uid
/-- TKPASS moves the token, unless the stook redoes a round that it had completed before its rick was killed (R313). -/
def State.passToken (s : State) (uid : Nat) (k : Stook) : State :=
  let s := s.modStook uid (fun k => { k with round := k.round + 1 })
  if k.round < k.redo then s else s.modCrop k.crop Crop.moveToken
/-- A TKWAIT or a TKPASS looks whether it can go on. -/
noncomputable def State.advanceTk (s : State) (sid : Nat) (sh : Sheaf) (f : Flight) : State :=
  match s.stookOf sh, (s.stookOf sh).bind s.cropOf with
  | some k, some c =>
    match f.instr with
    | .tkwaitB32 .. | .tkwaitX64 .. =>
      if k.holdsToken c then (s.acquire sid f.path .sy).moveOn sid f f.path else s
    | .tkpassB32 .. | .tkpassX64 .. =>
      if !k.holdsToken c then s.faultAt sid f .wrange f.path 0 []
      else if s.tokenBusy sh.uid f.ord k then s
      else match s.releaseState sid f.id f.path .sy with
        | .waits => s
        | .failed l => (s.clearFailed sid f.path).faultAt sid f .remfail f.path (BitVec.ofNat 64 (l.headD 0)) l
        | .clear => ((s.publishUpTo (barnOf sh.core) .sy).passToken sh.uid k).moveOn sid f f.path
    | _ => s
  | _, _ => s
/-- Neither has an effect outside deterministic mode or in a trap sheaf (R310). -/
noncomputable def tkBody (i : Instr) (s : State) (k : Ctx) (pass : Bool) : Except TrapInfo Done :=
  match s.stookOf k.sh, (s.stookOf k.sh).bind s.cropOf with
  | some st, some c =>
    if !c.det || st.trapStook then .ok { st := s }
    else if pass && !st.holdsToken c then .error (k.trap .wrange k.path 0)
    else
      let (fid, s) := s.addFlight k i .waiting true []
      .ok { st := s.tryFlight k.sid fid State.advanceTk, stay := if k.replay.isNone then k.path else 0 }
  | _, _ => .ok { st := s }

/-- 18 R310, R311. -/
noncomputable def execTkwaitB32 (g : Pred) (s : State) : Out :=
  issue (.tkwaitB32 g) s (fun k => tkBody (.tkwaitB32 g) s k false)
/-- 18 R310, R311. -/
noncomputable def execTkwaitX64 (g : Pred) (s : State) : Out :=
  issue (.tkwaitX64 g) s (fun k => tkBody (.tkwaitX64 g) s k false)
/-- 18 R310, R311. -/
noncomputable def execTkpassB32 (g : Pred) (s : State) : Out :=
  issue (.tkpassB32 g) s (fun k => tkBody (.tkpassB32 g) s k true)
/-- 18 R310, R311. -/
noncomputable def execTkpassX64 (g : Pred) (s : State) : Out :=
  issue (.tkpassX64 g) s (fun k => tkBody (.tkpassX64 g) s k true)

end Sys2Proof.Machine
end

