-- ==== Sys2Proof/Machine/Wain.lean ====
section
/-! DEFINITION. Pennant tags, the wain and PFL2 (10 R169 to R180). -/
namespace Sys2Proof.Machine

open Sys2Proof

/-! ### Issue of copies (10 R176, R177) -/

def spaceBin (sp : Nat) : BinId := if sp = 1 then .a else if sp = 2 then .w else .c
/-- Bytes from the first to the last that the copy touches on its source and its destination. -/
def WainOp.srcExtent (o : WainOp) : Nat := if o.kind = 2 then (o.rows - 1) * o.ss + o.count else o.count
def WainOp.dstExtent (o : WainOp) : Nat :=
  if o.kind ≠ 2 then o.count
  else if o.tr = 0 then (o.rows - 1) * o.ds + o.count
  else (o.count / o.elem - 1) * o.ds + o.rows * o.elem

/-- Table 9.3: the wain writes the W-bin, reads and writes the A-bin, reads the C-bin. -/
def WainOp.spacesOk (o : WainOp) : Bool := o.srcSpace != 2 && o.dstSpace != 3
def isBinSpace (sp : Nat) : Bool := decide (1 ≤ sp ∧ sp ≤ 3)
def binAddrOf (x : DWord) : Nat := (loWord x).toNat
/-- A bin range of an engine inside the stook's allotment (09 R155). -/
def Stook.binFits (k : Stook) (b : BinId) (addr n : Nat) : Bool := binZero addr && decide (binOffset addr + n ≤ k.binLen b)

/-- The checks of R176 in order, WRANGE after the fourth (18 R308). -/
def copyCheck (s : State) (k : Ctx) (o : WainOp) : Option TrapInfo :=
  let st := s.stookOf k.sh
  let bad (sp : Nat) (x : DWord) : Bool := isBinSpace sp && decide (binMember (binAddrOf x) ≠ 0)
  let e := o.elem
  let addr (sp : Nat) (x : DWord) : Nat := if isBinSpace sp then binAddrOf x else x.toNat
  let misal := [addr o.dstSpace o.dst, addr o.srcSpace o.src, o.count, o.ss, o.ds].any (fun x => x % e != 0)
  let outside (sp : Nat) (x : DWord) (n : Nat) : Bool := isBinSpace sp && !(match st with | some st => st.binFits (spaceBin sp) (binAddrOf x) n | none => true)
  if !(s.core k.sh.core).tagFree k.sh.uid o.tag then some (k.trap .perm k.path 0)
  else if !o.spacesOk || bad o.srcSpace o.src || bad o.dstSpace o.dst then some (k.trap .perm k.path 0)
  else if misal then some (k.trap .align k.path (if addr o.dstSpace o.dst % e ≠ 0 then BitVec.ofNat 64 (addr o.dstSpace o.dst) else BitVec.ofNat 64 (addr o.srcSpace o.src)))
  else if o.total = 0 then none
  else if outside o.dstSpace o.dst o.dstExtent then some (k.trap .binb k.path ((loWord o.dst).zeroExtend 64))
  else if outside o.srcSpace o.src o.srcExtent then some (k.trap .binb k.path ((loWord o.src).zeroExtend 64))
  else if o.dstSpace ≠ 0 then none
  else match st, st.bind s.cropOf with
    | some st, some c =>
      let row (r : Nat) : Bool :=
        if o.tr = 0 then st.storeRefused c (o.dst.toNat + r * o.ds) o.count
        else st.storeRefused c (o.dst.toNat + r * o.ds) (o.rows * e)
      let rows := if o.kind ≠ 2 then 1 else if o.tr = 0 then o.rows else o.count / e
      if (List.range rows).any row then some (k.trap .wrange k.path o.dst) else none
    | _, _ => none

/-- CPY2's limits (10 R177). -/
def WainOp.shapeBad (o : WainOp) : Bool :=
  decide (o.kind = 2) && (decide (65536 < o.rows) || (decide (o.tr ≠ 0) && (decide (256 < o.rows) || decide (256 < o.count / o.elem))))

/-- CPY, CPY2 and CPYH: the queue of 16, the checks, the fork; then the tag is BUSY and the operation queued. A CPY2 of no
bytes whose other dimension exceeds a limit ends READY without a CAUSE: R176 and R177 both apply, R176 comes first (DESIGN
CHOICE, log 118). -/
def copyBody (s : State) (k : Ctx) (tag kind : Nat) (dst src : DWord) (c : List Word) (w3 : Nat) : Except TrapInfo Done :=
  let o : WainOp := {
    id := 0, uid := k.sh.uid, sid := k.sid, tag := tag, kind := kind, ctx := k.ctx, dst := dst, src := src
    count := (c.headD 0).toNat, rows := (c.getD 1 0).toNat, ss := (c.getD 2 0).toNat, ds := (c.getD 3 0).toNat
    w3 := w3, cursor := 0, recs := [], stopped := 0, written := [], token := s.tokenOf k.sh, held := [], seen := [] }
  let core := s.core k.sh.core
  if 16 ≤ core.wainQ.length + core.wainRun.length then .ok { st := s, blocked := true }
  else
    match copyCheck s k o with
    | some t => .error t
    | none => forkRelease s k (fun s =>
      let s := s.tagBusy k.sh.core k.sh.uid tag kind
      if o.total = 0 then .ok { st := s.tagReady k.sh.core k.sh.uid tag kind 0 0 }
      else if o.shapeBad then .ok { st := s.tagReady k.sh.core k.sh.uid tag kind 7 0 }
      else
        let (id, s) := s.fresh
        let core := s.core k.sh.core
        .ok { st := s.setCore k.sh.core { core with wainQ := core.wainQ ++ [{ o with id := id }] } })

/-! ### Beats of the wain (10 R173, R174, R177, R178) -/

/-- The next piece of a copy: offsets of source and destination, and the bytes that run on together. -/
def WainOp.next (o : WainOp) : Nat × Nat × Nat :=
  (o.srcOff o.cursor, o.dstOff o.cursor,
    if o.kind ≠ 2 then o.count - o.cursor else if o.tr = 0 then o.count - o.cursor % o.count else o.elem)
def WainOp.dstBase (o : WainOp) : Nat := if isBinSpace o.dstSpace then binAddrOf o.dst else o.dst.toNat
/-- Whether a destination byte lies inside the source: the source rows, in the same space. -/
def WainOp.overlaps (o : WainOp) (a : Nat) : Bool :=
  let src := if isBinSpace o.srcSpace then binAddrOf o.src else o.src.toNat
  if o.srcSpace ≠ o.dstSpace ∨ a < src then false
  else if o.kind ≠ 2 then decide (a < src + o.count)
  else
    let r := if o.ss = 0 then 0 else Nat.min (o.rows - 1) ((a - src) / o.ss)
    decide (a - src - r * o.ss < o.count)
/-- The other half of the word of a .T2's destination element. -/
def WainOp.mate (o : WainOp) (off : Nat) : Option Nat :=
  if o.tr ≠ 1 then none
  else if (o.dstBase + off) % 4 = 0 then some (off + 2)
  else if 2 ≤ off then some (off - 2)
  else none
/-- Whether an element that the copy has still to write, after its present one, lies at a destination offset. -/
def WainOp.comesAt (o : WainOp) (p : Nat) : Bool :=
  let per := o.count / o.elem
  (List.range o.rows).any (fun r =>
    let d := p - r * o.elem
    let k := if o.ds = 0 then per - 1 else d / o.ds
    decide (r * o.elem ≤ p ∧ k * o.ds = d ∧ k < per ∧ o.cursor / o.elem < r * per + k))
/-- Whether a destination byte, or the other half of its word, lies inside the source: it is written at the copy's end, so
that the source is read as it was (10 R174). -/
def WainOp.late (o : WainOp) (off : Nat) : Bool :=
  o.overlaps (o.dstBase + off) || (match o.mate off with
    | some p => o.overlaps (o.dstBase + p)
    | none => false)
/-- Bytes from a destination offset on that lie inside the source, or outside it, as the first of them does. -/
def WainOp.run (o : WainOp) (off n : Nat) : Nat :=
  if o.srcSpace ≠ o.dstSpace then n
  else ((List.range n).takeWhile (fun j => o.overlaps (o.dstBase + off + j) == o.overlaps (o.dstBase + off))).length
/-- The place in the copy's order of the last element counted so far that lies at a destination offset. -/
def WainOp.placeOf (o : WainOp) (off : Nat) : Nat :=
  (((List.range (o.cursor / o.elem)).reverse.find? (fun x => decide (o.dstOff (x * o.elem) ≤ off ∧ off < o.dstOff (x * o.elem) + o.elem))).map (· * o.elem)).getD o.cursor
/-- Held bytes that will not be written: the count ends before the first of them. -/
def WainOp.lose (o : WainOp) (gone : Nat → Bool) : WainOp :=
  { o with
    cursor := (o.held.filter (fun e => gone e.1)).foldl (fun c e => Nat.min c (o.placeOf e.1)) o.cursor
    held := o.held.filter (fun e => !gone e.1) }
/-- The source word of a .T2's element: its base, its offset, and its address. -/
def WainOp.srcWord (o : WainOp) (a : Nat) : DWord × Nat × Nat :=
  let base := o.src.toNat
  if base % 4 = 2 ∧ a % 4 = 0 then (o.src - 2, a, base + a - 2)
  else if (base + a) % 4 = 2 then (o.src, a - 2, base + a - 2)
  else (o.src, a, base + a)

def State.setWain (s : State) (core id : Nat) (f : WainOp → WainOp) : State :=
  let c := s.core core
  s.setCore core { c with wainRun := c.wainRun.map (fun o => if o.id = id then f o else o) }
/-- A side of a copy translated: bins need none. -/
inductive Side where
  | bin (b : BinId) (off : Nat)
  | mem (p : List Piece)
  | stop (cause : Nat)
  | park (r : Nat)
/-- The host link of the operation's function carries traffic (20 R341). -/
def State.wainUp (s : State) (o : WainOp) : Bool := s.fnUp (s.fnOf o.uid)
def State.side (s : State) (core : Nat) (o : WainOp) (sp : Nat) (base : DWord) (off n : Nat) (k : AKind) : Side × State :=
  if isBinSpace sp then (.bin (spaceBin sp) (binOffset (binAddrOf base) + off), s)
  else if sp = 4 then
    if s.wainUp o then (.mem [(hostAddr (base.toNat + off), n, 0, 0, false)], s) else (.stop 2, s)
  else match s.translateAll (some core) o.ctx k true (pieces (base.toNat + off) n) with
    | (.ok l, s) => (.mem l, s)
    | (.error (.park r, _), s) => (.park r, s)
    | (.error _, s) => (.stop 8, s)
def Side.pieces : Side → List Piece
  | .mem l => l
  | _ => []
/-- The bytes of one beat: a segment of 4,096 outbound to the host, else at most 64, within a half of a line at the
destination and a page at the source. -/
def WainOp.beatLen (o : WainOp) : Nat :=
  let (a, b, n) := o.next
  if o.dstSpace = 4 then Nat.min n 4096
  else
    let cut (sp unit : Nat) (base : DWord) (off n : Nat) : Nat := if sp = 0 then Nat.min n (unit - (base.toNat + off) % unit) else n
    cut o.dstSpace 64 o.dst b (cut o.srcSpace 4096 o.src a (Nat.min n 64))
/-- Some destination bytes written, of which the first has a place in the copy's order; none where the write has to wait. -/
def State.wainWrite (s : State) (core : Nat) (o : WainOp) (off : Nat) (bs : List Byte) (place : Nat) : Option State :=
  match s.side core o o.dstSpace o.dst off bs.length .write with
  | (.bin b x, s) => some (s.binWrite o.uid b x bs)
  | (.mem l, s) =>
    if l.any (s.writeWaits core (s.wainUp o)) then none
    else
      let (ms, s) := s.engineWriteAll core o.ctx o.id l bs place
      some (s.setWain core o.id (fun o => { o with written := o.written ++ ms }))
  | (.stop c, s) => some (s.setWain core o.id (fun o => { o with stopped := if o.stopped = 0 then c else o.stopped }))
  | (.park r, s) => some (s.setWain core o.id (fun o => { o with recs := [r] }))
/-- The bytes read go to the destination, and the cursor moves. A byte that lies inside the source receives an unspecified
value (10 R174), and is written once the copy is at its end. The halves of a word that a .T2 brings apart are written together
with the later of them (09 R164), so that the last element of R177's order at each place is the one that stays. -/
def State.wainPut (s : State) (core : Nat) (o : WainOp) (bs : List Byte) : State :=
  let (a, off, _) := o.next
  let bs := bs.take (o.run off bs.length)
  let move (s : State) (f : KV Byte → KV Byte) : State :=
    s.setWain core o.id (fun x => if x.recs ≠ [] ∨ x.stopped ≠ 0 then x else { x with
      cursor := x.cursor + bs.length, held := f x.held
      seen := if o.tr = 1 then (x.seen.erase (o.src.toNat + a)).erase (o.src.toNat + a + 1) else x.seen })
  let hold (l : List Byte) (h : KV Byte) : KV Byte := l.zipIdx.foldl (fun h e => h.put (off + e.2) e.1) h
  if o.overlaps (o.dstBase + off) then
    let (free, s) := s.freeBytes bs.length
    move s (hold free)
  else if o.late off || (o.mate off).any o.comesAt then move s (hold bs)
  else
    let kept : Option (Nat × List Byte) := (o.mate off).bind (fun p => match o.held.find? p, o.held.find? (p + 1) with
      | some x, some y => some (p, [x, y])
      | _, _ => none)
    let (first, all, place) := match kept with
      | some (p, l) => (Nat.min off p, (if p < off then l ++ bs else bs ++ l), o.placeOf p)
      | none => (off, bs, o.cursor)
    match s.wainWrite core o first all place with
    | none => s
    | some s => move s (fun h => h.filter (fun e => decide (e.1 < first ∨ first + all.length ≤ e.1)))
/-- Bytes read from the source: of a .T2 both halves of the word, of which the copy keeps the one that it needs later. -/
def State.wainTake (s : State) (core : Nat) (o : WainOp) (bs : List Byte) : State :=
  if o.tr ≠ 1 then s.wainPut core o bs
  else
    let (a, _, _) := o.next
    let w := (o.srcWord a).2.2
    let seen := bs.zipIdx.foldl (fun (h : KV Byte) e => h.put (w + e.2) e.1) o.seen
    let o' : WainOp := { o with seen := seen }
    (s.setWain core o.id (fun x => { x with seen := seen })).wainPut core o' ((bs.drop (o.src.toNat + a - w)).take 2)
/-- At its end a copy writes the bytes that it held back, word by word. A page without a translation parks it again; a byte
that cannot be written ends the count before it (10 R173). -/
def State.wainFlush (s : State) (core : Nat) (o : WainOp) : State :=
  let word (e : Nat × Byte) : Nat := (o.dstBase + e.1) / 4
  ((o.held.map word).eraseDups).foldl (fun s w =>
    let l := o.held.filter (fun e => word e == w)
    let off := (l.head?.map (·.1)).getD 0
    match List.find? (fun x => x.id == o.id) (s.core core).wainRun with
    | none => s
    | some x =>
      if x.recs ≠ [] then s
      else match s.side core o o.dstSpace o.dst off l.length .write with
        | (.stop c, s) => s.setWain core o.id (fun x => ({ x with stopped := if x.stopped = 0 then c else x.stopped } : WainOp).lose (fun y => (o.dstBase + y) / 4 == w))
        | (.park r, s) => s.setWain core o.id (fun x => { x with recs := [r] })
        | (_, s) => match s.wainWrite core o off (l.map (·.2)) (o.placeOf off) with
          | none => s
          | some s => s.setWain core o.id (fun x => { x with held := x.held.filter (fun e => word e != w) })) s
/-- Whether a copy waits for a peer's answer to a read. -/
def State.wainReading (s : State) (o : WainOp) : Bool :=
  s.msgs.any (fun (e : Nat × MsgEnt) => match e.2.msg with
    | .peer _ 0 id _ _ _ none .. => id == o.id
    | _ => false)
/-- Bytes of a peer's range, from its start, that the barn's L1 serves, or does not, as it does the first. -/
def State.servedRun (s : State) (b pa n : Nat) : Nat :=
  ((List.range n).takeWhile (fun j => (s.barn b).serves (pa + j) == (s.barn b).serves pa)).length
/-- A source of local memory, of the host or of a peer is read: a peer's word that is valid in the L1 is read there, another
is asked for (12 R213, R222). -/
def State.wainRead (s : State) (core : Nat) (o : WainOp) (l : List Piece) : State :=
  let b := barnOf core
  if l.any (fun p => isPeer p.1) then
    match l with
    | [] => s
    | p :: _ =>
      if isPeer p.1 then
        let n := if p.2.2.2.2 then p.2.1 else s.servedRun b p.1 p.2.1
        if !p.2.2.2.2 && (s.barn b).serves p.1 then s.wainTake core o ((s.barn b).plain p.1 (List.replicate n 0))
        else (s.addMsg (.peer b 0 o.id core p.1 n none none (!p.2.2.2.2)) []).2
      else
        let (bs, s) := s.engineRead core o.ctx p
        s.wainTake core o bs
  else if l.any (fun p => s.poisoned p.1 p.2.1) then s.rickError o.uid
  else
    let (bs, s) := s.engineReadAll core o.ctx l
    s.wainTake core o bs
/-- One beat of a running copy. -/
def State.wainBeat (s : State) (core : Nat) (o : WainOp) : State :=
  if o.stopped ≠ 0 ∨ o.total ≤ o.cursor then (if o.held.isEmpty || o.recs != [] then s else s.wainFlush core o)
  else if o.recs ≠ [] ∨ s.wainReading o = true then s
  else
    let n := o.beatLen
    let (a, b, _) := o.next
    let up := s.wainUp o
    let half : List Byte := (o.seen.find? (o.src.toNat + a)).toList ++ (o.seen.find? (o.src.toNat + a + 1)).toList
    let (base, off, m) := if o.tr = 1 then ((o.srcWord a).1, (o.srcWord a).2.1, 4) else (o.src, a, n)
    match s.side core o o.dstSpace o.dst b n .write with
    | (.stop c, s) => s.setWain core o.id (fun o => { o with stopped := c })
    | (.park r, s) => s.setWain core o.id (fun o => { o with recs := [r] })
    | (d, s) =>
      if d.pieces.any (s.writeWaits core up) then s
      else if d.pieces.any s.noRoute then s.setWain core o.id (fun o => { o with stopped := 2 })
      else if o.tr = 1 ∧ half.length = 2 then s.wainPut core o half
      else match s.side core o o.srcSpace base off m .read with
        | (.stop c, s) => s.setWain core o.id (fun o => { o with stopped := c })
        | (.park r, s) => s.setWain core o.id (fun o => { o with recs := [r] })
        | (.bin bin x, s) => match s.stook? o.uid with
          | some st => s.wainTake core o (st.binRead bin x m)
          | none => s
        | (.mem l, s) =>
          if l.any (s.readWaits core up) then s
          else if l.any s.noRoute then s.setWain core o.id (fun o => { o with stopped := 2 })
          else s.wainRead core o l
/-- The reply of a peer to a message of a copy or of a collective step. What a read brings is installed in the L1 as by any
plain access. A write that fails ends the count before its first byte; an access under way that fails with its link ends the
operation with CAUSE 4: Table 10.1 would have 2 as well (10 R170, DESIGN CHOICE, log 118). -/
def State.wainPeerReply (s : State) (b core id msg pa : Nat) (reply : Option (List Byte)) (fresh ok : Bool) : State :=
  let s := if ok then s else { s with colls := s.colls.map (fun o =>
    if o.id = id then { o with fin := match o.fin with
      | some (0, n) => some (4, n)
      | none => some (4, o.done)
      | x => x } else o) }
  match List.find? (fun o => o.id == id) (s.core core).wainRun with
  | none => s
  | some o =>
    if !ok then
      let place := (((List.find? (fun e => e.1 == msg) o.written).map (·.2)).getD o.cursor)
      s.setWain core id (fun o => { o with stopped := if o.stopped = 0 then 4 else o.stopped, cursor := Nat.min o.cursor place })
    else match reply with
      | some bs =>
        let s := if fresh then s.installPeer b pa bs o.ctx 0 0 else s
        if o.stopped ≠ 0 ∨ o.recs ≠ [] then s else s.wainTake core o bs
      | none => s

/-! ### Steps of the wain -/

/-- The head of the queue starts when fewer than four operations run (10 R173). -/
def execWainStart (core : Nat) (s : State) : Out :=
  let c := s.core core
  match c.wainQ with
  | o :: r => if c.wainRun.length < 4 then .next (s.setCore core { c with wainQ := r, wainRun := c.wainRun ++ [o] }) else .next s
  | [] => .next s

/-- A running operation that has come to its end: all bytes written or stopped, and every write acknowledged. -/
def State.wainDone (s : State) (o : WainOp) : Bool :=
  (decide (o.total ≤ o.cursor) || decide (o.stopped ≠ 0)) && o.held.isEmpty && o.written.all (fun m => (s.msgs.find? m.1).isNone)
/-- Destination bytes beyond the count of a CPYH that stopped (10 R178). -/
def State.wainLeftover (s : State) (core : Nat) (o : WainOp) (count : Nat) : State :=
  if o.stopped = 0 ∨ o.kind ≠ 3 then s
  else if o.dstSpace = 4 then s.scramblePa (barnOf core) (hostAddr (o.dst.toNat + count)) (o.count - count)
  else if o.dstSpace = 1 then
    let (bs, s) := s.freeBytes (o.count - count)
    s.binWrite o.uid .a (binOffset (binAddrOf o.dst) + count) bs
  else s.scrambleRange core o.ctx (o.dst.toNat + count) (o.count - count)
/-- Ranges of global memory that an operation has touched. -/
def WainOp.touched (o : WainOp) : List (Nat × Nat) :=
  let rows (base step : Nat) : List (Nat × Nat) :=
    if o.kind ≠ 2 then [(base, o.cursor)]
    else (List.range o.rows).filterMap (fun r =>
      if r * o.count < o.cursor then some (base + r * step, Nat.min o.count (o.cursor - r * o.count)) else none)
  let elems : List (Nat × Nat) := (List.range (o.cursor / o.elem)).map (fun x => (o.dst.toNat + o.dstOff (x * o.elem), o.elem))
  (if o.srcSpace = 0 then rows o.src.toNat o.ss else []) ++
  (if o.dstSpace = 0 then (if o.tr = 0 then rows o.dst.toNat o.ds else elems) else [])
/-- Completion: a read of a peer still under way is given up. -/
def execWainComplete (core tag : Nat) (s : State) : Out :=
  match List.find? (fun o => o.tag == tag) (s.core core).wainRun with
  | none => .next s
  | some o =>
    if s.wainDone o then
      let count := if o.dstSpace = 4 ∧ o.cursor < o.total then o.cursor / 4096 * 4096 else o.cursor
      let s := (s.dropReads (fun id => id == o.id)).wainLeftover core o count
      let c := s.core core
      let s := s.setCore core { c with wainRun := c.wainRun.filter (fun x => x.id != o.id) }
      .next ((s.tagReady core o.uid tag o.kind o.stopped count).watchEngine o.sid tag o.touched)
    else .next s

/-- The host gives no credit for 1 ms: a running CPYH stops with CAUSE 3 (10 R178). -/
def execCpyhCreditTimeout (core tag : Nat) (s : State) : Out :=
  let c := s.core core
  .next (s.setCore core { c with wainRun := c.wainRun.map (fun o =>
    if o.tag = tag ∧ o.kind = 3 ∧ o.cursor < o.total ∧ o.stopped = 0 then { o with stopped := 3 } else o) })

/-! ### PFL2 (10 R179) -/

def pfl2Body (s : State) (k : Ctx) (x : Pfl2Args) (start : DWord) (len : Word) : Except TrapInfo Done :=
  let die := dieOf k.sh.core
  let tag := match x with
    | .tag t => some t.val
    | .cc _ => none
  let counter := match x with
    | .tag _ => none
    | .cc b => some (k.pairB b.reg 0)
  if 64 ≤ (s.pfl2.filter (fun o => o.die == die)).length then .ok { st := s, blocked := true }
  else if (match tag with | some t => !(s.core k.sh.core).tagFree k.sh.uid t | none => false) then .error (k.trap .perm k.path 0)
  else if (match counter with | some a => a.toNat % 8 != 0 | none => false) then .error (k.trap .align k.path (counter.getD 0))
  else forkRelease s k (fun s =>
    let s := match tag with
      | some t => s.tagBusy k.sh.core k.sh.uid t 4
      | none => s
    let (id, s) := s.fresh
    .ok { st := { s with pfl2 := s.pfl2 ++ [⟨id, die, k.sh.core, k.sh.uid, k.sid, k.ctx, tag, counter, 0, start, Nat.min len.toNat 67108864, []⟩] } })

/-- Bytes of a range that a prefetch skips: peers, the host, pages that do not translate. -/
def State.skipped (s : State) (core : Option Nat) (ctx : Nat) : List (DWord × Nat) → Nat × State
  | [] => (0, s)
  | p :: r =>
    let (x, s) := s.probe core ctx p.1
    let here := match x with
      | .ok pa _ _ _ => if isPeer pa || isHost pa then p.2 else 0
      | _ => p.2
    let (n, s) := State.skipped s core ctx r
    (here + n, s)

def execPfl2Complete (die id : Nat) (s : State) : Out :=
  match s.pfl2.find? (fun o => o.die == die && o.id == id) with
  | none => .next s
  | some o =>
    match o.tag, o.counter with
    | some t, _ =>
      let (n, s) := s.skipped (some o.core) o.ctx (pieces o.start.toNat o.len)
      let s := { s with pfl2 := s.pfl2.filter (fun x => x.id != id) }
      .next ((s.tagReady o.core o.uid t 4 0 n).watchEngine o.sid t [(o.start.toNat, o.len)])
    | none, some c =>
      if o.recs ≠ [] then .next s
      else match s.decrementVa die o.ctx c (s.fnUp (s.fnOf o.uid)) with
        | (s, none) => .next (({ s with pfl2 := s.pfl2.filter (fun x => x.id != id) } : State).watchEngine o.sid 0 [(o.start.toNat, o.len)])
        | (s, some l) => .next { s with pfl2 := s.pfl2.map (fun x => if x.id = id then { x with recs := l } else x) }
    | none, none => .next s

/-! ### PWAIT, PFIND, PCLR, PSTAT (10 R180) -/

def readyTags (s : State) (sh : Sheaf) (mask : DWord) : DWord := (s.core sh.core).tagsIn sh.uid .ready &&& mask
def busyTags (s : State) (sh : Sheaf) (mask : DWord) : DWord := (s.core sh.core).tagsIn sh.uid .busy &&& mask
def pwaitOpen (s : State) (sh : Sheaf) (all : Bool) (mask : DWord) : Bool :=
  busyTags s sh mask == 0 || (!all && readyTags s sh mask != 0)
/-- Release of a PWAIT: D receives the READY tags of the mask, and the path acquires at .ST if there is one. -/
def State.pwaitRelease (s : State) (sid : Nat) (sh : Sheaf) (d : SReg) (mask : DWord) (path : LaneSet) : State :=
  let r := readyTags s sh mask
  let s := s.modSheaf sid (fun sh => sh.writeGroup d.reg 0 0 [loWord r, hiWord r])
  if r = 0 then s else s.acquire sid path .st
def pwaitBody (i : Instr) (s : State) (k : Ctx) (d : SReg) (all : Bool) (mask : DWord) : Except TrapInfo Done :=
  if pwaitOpen s k.sh all mask then .ok { st := s.pwaitRelease k.sid k.sh d mask k.path }
  else .ok (waitDone s k i [⟨64, mask, 0, 0, 0, 0, false, [], .queued⟩])
/-- A waiting PWAIT looks again. -/
def State.advancePwait (s : State) (sid : Nat) (sh : Sheaf) (f : Flight) : State :=
  let go (d : SReg) (all : Bool) : State :=
    let mask := (f.accs.headD ⟨64, 0, 0, 0, 0, 0, false, [], .queued⟩).va
    if pwaitOpen s sh all mask then (s.pwaitRelease sid sh d mask f.path).moveOn sid f f.path else s
  match f.instr with
  | .pwaitAnyB32 _ d _ => go d false
  | .pwaitAllB32 _ d _ => go d true
  | .pwaitX64 _ d _ all => go d all
  | _ => s
def pfindDone (s : State) (k : Ctx) (d : SReg) (mask : DWord) : Done :=
  match lanesOf (readyTags s k.sh mask) with
  | t :: _ =>
    let r := uniDone s k d [BitVec.ofNat 32 t]
    { r with st := r.st.acquire k.sid k.path .st }
  | [] => uniDone s k d [64]
def pclrDone (s : State) (k : Ctx) (mask : DWord) : Done :=
  let r := readyTags s k.sh mask
  { st := (lanesOf r).foldl (fun s t => s.setCore k.sh.core ((s.core k.sh.core).setTag t .idle)) s }
/-- PSTAT. A byte count of 2^32 or more, of a large CPY2, is returned modulo 2^32 (10 R170, DESIGN CHOICE, log 118). -/
def pstatDone (s : State) (k : Ctx) (d : SReg) (t : Nat) : Done :=
  let x := (s.core k.sh.core).tagSeen k.sh.uid t
  let r := uniDone s k d [BitVec.ofNat 32 x.count, x.word]
  { r with st := if x.st = .ready then r.st.acquire k.sid k.path .st else r.st }


/-- 10 R176, R177. -/
noncomputable def execCpy (g : Pred) (t : Fin 64) (a : SReg) (b : SReg) (c : SReg) (ds : CpySpace) (ss : CpySpace) (s : State) : Out :=
  issue (.cpy g t a b c ds ss) s (fun k => copyBody s k t.val 1 (k.pairA a.reg 0) (k.pairB b.reg 0) [k.opC c.reg 0 0] (ds.code + 4 * ss.code))
/-- 10 R176, R177. -/
noncomputable def execCpy2 (g : Pred) (t : Fin 64) (a : SReg) (b : SReg) (c : Fin 24) (ds : CpySpace) (ss : CpySpace) (tr : CpyTr) (s : State) : Out :=
  issue (.cpy2 g t a b c ds ss tr) s (fun k => copyBody s k t.val 2 (k.pairA a.reg 0) (k.pairB b.reg 0) ((List.range 4).map (fun j => k.opC (.s c) 0 j)) (ds.code + 4 * ss.code + 16 * tr.code))
/-- 10 R176, R178. -/
noncomputable def execCpyh (g : Pred) (t : Fin 64) (a : SReg) (b : SReg) (c : SReg) (inn : Bool) (abin : Bool) (s : State) : Out :=
  issue (.cpyh g t a b c inn abin) s (fun k => copyBody s k t.val 3 (k.pairA a.reg 0) (k.pairB b.reg 0) [k.opC c.reg 0 0] ((if inn then 1 else 0) + (if abin then 2 else 0)))
/-- 10 R179. -/
noncomputable def execPfl2 (g : Pred) (x : Pfl2Args) (a : SReg) (c : SReg) (s : State) : Out :=
  issue (.pfl2 g x a c) s (fun k => pfl2Body s k x (k.pairA a.reg 0) (k.opC c.reg 0 0))
/-- 10 R180. -/
noncomputable def execPwaitAnyB32 (g : Pred) (d : SReg) (a : SReg) (s : State) : Out :=
  issue (.pwaitAnyB32 g d a) s (fun k => pwaitBody (.pwaitAnyB32 g d a) s k d false (k.pairA a.reg 0))
/-- 10 R180. -/
noncomputable def execPwaitAllB32 (g : Pred) (d : SReg) (a : SReg) (s : State) : Out :=
  issue (.pwaitAllB32 g d a) s (fun k => pwaitBody (.pwaitAllB32 g d a) s k d true (k.pairA a.reg 0))
/-- 10 R180. -/
noncomputable def execPwaitX64 (g : Pred) (d : SReg) (a : SReg) (all : Bool) (s : State) : Out :=
  issue (.pwaitX64 g d a all) s (fun k => pwaitBody (.pwaitX64 g d a all) s k d all (k.pairA a.reg 0))
/-- 10 R180. -/
noncomputable def execPfindB32 (g : Pred) (d : SReg) (a : SReg) (s : State) : Out :=
  issue (.pfindB32 g d a) s (fun k => .ok (pfindDone s k d (k.pairA a.reg 0)))
/-- 10 R180. -/
noncomputable def execPfindX64 (g : Pred) (d : SReg) (a : SReg) (s : State) : Out :=
  issue (.pfindX64 g d a) s (fun k => .ok (pfindDone s k d (k.pairA a.reg 0)))
/-- 10 R180. -/
noncomputable def execPclrB32 (g : Pred) (a : SReg) (s : State) : Out :=
  issue (.pclrB32 g a) s (fun k => .ok (pclrDone s k (k.pairA a.reg 0)))
/-- 10 R180. -/
noncomputable def execPclrX64 (g : Pred) (a : SReg) (s : State) : Out :=
  issue (.pclrX64 g a) s (fun k => .ok (pclrDone s k (k.pairA a.reg 0)))
/-- 10 R180. -/
noncomputable def execPstat (g : Pred) (d : SReg) (t : Fin 64) (s : State) : Out :=
  issue (.pstat g d t) s (fun k => .ok (pstatDone s k d t.val))

end Sys2Proof.Machine
end

