-- ==== Sys2Proof/Machine/Homes.lean ====
section
/-! DEFINITION. Steps of the homes, the L1s and the outside agents that reach memory: registrations, reads, recalls,
write-backs, publications, peers and the host (12 R210 to R224, 13 R232, R239, R242; 16 R286; 20 R341; 21 R354). A step
whose condition does not hold changes nothing. -/
namespace Sys2Proof.Machine

open Sys2Proof

/-! ### Registrations (12 R210 to R212) -/

/-- A read in its third attempt holds back registrations of its words until it has replied (12 R220). -/
def State.thirdRead (s : State) (wa : Nat) : Bool :=
  s.msgs.any (fun e => match e.2.msg with
    | .read _ _ _ _ pa n _ _ _ refused _ => decide (2 ≤ refused) && (wordsOf pa n).contains wa
    | _ => false)
/-- The home records a registration; it waits for a half that the host holds (12 R224) and for a die not ready. The two
words of one 8-byte write take their places together (12 R226). -/
def execRegistration (msg : Nat) (s : State) : Out :=
  match s.msgs.find? msg with
  | some ⟨.reg b wa n hd ctx pte false, w⟩ =>
    let ws := (List.range n).map (· + wa)
    if s.hostHolds (4 * wa) || s.dieWaits hd || (s.withPair b ws).any (fun x => s.thirdRead x) then .next s
    else
      let s := s.recordRegs b ws hd ctx pte
      .next { s with msgs := s.msgs.put msg ⟨.reg b wa n hd ctx pte true, w⟩ }
  | _ => .next s
/-- The acknowledgement of a recorded registration. -/
def execRegistrationAck (msg : Nat) (s : State) : Out :=
  match s.msgs.find? msg with
  | some ⟨.reg _ _ _ _ _ _ true, _⟩ => .next (s.dropMsg msg)
  | _ => .next s
/-- The home takes words of a line back from the barn that owns them. -/
def execOwnerRecall (barn line : Nat) (words : Word) (s : State) : Out :=
  .next (((List.range 32).filter (fun k => words.getLsbD k)).foldl (fun s k =>
    if s.ownerOf (32 * line + k) = some barn then s.recallWord (32 * line + k) else s) s)

/-! ### Reads at the home (12 R213, R217, R220, 14 R249) -/

/-- The owner answers a forwarded read: its value is fixed. -/
def execForwardedRead (msg : Nat) (s : State) : Out :=
  match s.msgs.find? msg with
  | some ⟨.read b sid f acc pa n hd acq (some o) refused none, w⟩ =>
    match (s.barn o).ownedWord (pa / 4) with
    | some _ => .next { s with msgs := s.msgs.put msg ⟨.read b sid f acc pa n hd acq (some o) refused (some (s.cohRead pa n)), w⟩ }
    | none => .next s
  | _ => .next s
/-- A barn that no longer owns the word refuses; after two refusals the home serves the read itself. -/
def execReadRefusal (msg : Nat) (s : State) : Out :=
  match s.msgs.find? msg with
  | some ⟨.read b sid f acc pa n hd acq (some o) refused none, w⟩ =>
    match (s.barn o).ownedWord (pa / 4) with
    | some _ => .next s
    | none =>
      let fwd := if 1 ≤ refused then none else s.ownerOf (pa / 4)
      .next { s with msgs := s.msgs.put msg ⟨.read b sid f acc pa n hd acq fwd (refused + 1) none, w⟩ }
  | _ => .next s
/-- A reply of a home reaches the L1: an owner-lost word raises OWNLOST, poison kills the rick; otherwise the widen bit
acts, the line is installed with its class, and the access has its value, the barn's own bytes over the home's. The lane is
parked while the host may hold the half modified (12 R224); a reply that finds no way free waits (12 R219). -/
def execHomeReply (msg : Nat) (s : State) : Out :=
  match s.msgs.find? msg with
  | some ⟨.read b sid fid k pa n hd acq fwd refused fixed, _⟩ =>
    if !(fixed.isSome || fwd.isNone || decide (2 ≤ refused)) || s.dieWaits hd then .next s
    else if s.hostMod pa then .next (s.setAcc sid fid k (.recall msg))
    else
      let v := fixed.getD (s.cohRead pa n)
      match (s.sheaf? sid).bind (fun sh => (sh.flight? fid).map (fun f => (sh, f))) with
      | none => .next (s.dropMsg msg)
      | some (sh, f) =>
        let a := f.accs.getD k ⟨64, 0, pa, n, 0, hd, true, [], .queued⟩
        if !a.homeOnly && !s.roomFor b (pa / 128) then .next s
        else
          let s := s.dropMsg msg
          if (wordsOf pa n).any (fun wa => s.isLost wa) then .next (s.lostFault sid f)
          else if s.poisoned pa n then .next (s.rickError sh.uid)
          else
            let cls := (writerClass (s.home (pa / 128)).last b).getD .sh
            let s := match acq with
              | some sc => if sc.code < cls.code then s.inva b cls else s
              | none => s
            let bs := (s.barn b).overlay pa v
            let s := if a.homeOnly then s else s.installLine b pa n cls f.ctx a.pte hd
            let s := s.modSheaf sid (fun sh => sh.raisePend (accLanes f a) cls)
            .next (((s.setAcc sid fid k (.done bs)).markPerformed sid fid).finishReply sid fid)
  | _ => .next s
/-- An atomic, a wait or a wake at its word's home (13 R232). -/
def execAtomicAtHome (msg : Nat) (s : State) : Out := .next (s.atomicAtHome msg)

/-! ### Evictions (12 R219, R229; 13 R239, R242) -/

def execWriteBack (msg : Nat) (s : State) : Out :=
  match s.msgs.find? msg with
  | some ⟨.wb b _, _⟩ => .next (s.recordWb b msg)
  | _ => .next s
/-- An L1 evicts a line of its own accord; a full eviction buffer evicts nothing, and a line that waits for a registration
or for the host stays (12 R219). -/
def execL1Eviction (barn line : Nat) (s : State) : Out := .next (if s.canEvict barn line then s.evictLine barn line else s)
/-- A gather copy reaches the home. -/
def execRedPublication (barn addr : Nat) (s : State) : Out := .next (s.publish barn addr)
/-- A home evicts a line: owners are recalled, and the line's waiters are released with status 2; a CCWAIT reads its
counter again. -/
def execL2LineEviction (line : Nat) (s : State) : Out :=
  let s := ((List.range 32).map (· + 32 * line)).foldl (fun s wa => s.recallWord wa) s
  let out := s.waits.filter (fun e => e.pa / 128 == line)
  let s := { s with waits := s.waits.filter (fun e => e.pa / 128 != line) }
  .next (out.foldl (fun s e => if e.counter then s.reread e.sid e.flight e.pa else (s.raiseWait e.sid e.flight e.lane e.pa).releaseWaita e.sid e.flight e.lane 2) s)

/-! ### Peers (12 R222, R223; 13 R232) -/

/-- A peer's home answers a load of this device. An answer that a write of the barn has overtaken installs nothing. -/
def State.peerLoad (s : State) (b sid fid k pa : Nat) (bs : List Byte) (fresh : Bool) : State :=
  match (s.sheaf? sid).bind (fun sh => sh.flight? fid) with
  | none => s
  | some f =>
    let a := f.accs.getD k ⟨64, 0, pa, bs.length, 0, 0, true, [], .queued⟩
    let s := if (acqScope f.instr).isSome then s.inva b .sy else s
    let s := if a.homeOnly || !fresh then s else s.installPeer b pa bs f.ctx a.pte a.hd
    let s := s.modSheaf sid (fun sh => sh.raisePend (accLanes f a) .sy)
    ((s.setAcc sid fid k (.done bs)).markPerformed sid fid).finishReply sid fid
/-- A peer that cannot be reached: loads and atomics raise REMFAIL. -/
def State.peerFault (s : State) (sid fid pa : Nat) (lanes : LaneSet) : State :=
  match (s.sheaf? sid).bind (fun sh => sh.flight? fid) with
  | none => s
  | some f =>
    let mine := f.accs.filter (fun a => a.pa == pa && accLanes f a &&& lanes != 0 && !a.st.isDone)
    match mine with
    | a :: _ => s.peerLost sid f a ((lanesOf lanes).filter (fun l => mine.any (fun x => x.lane == l)))
    | [] => s
/-- The results of an atomic at a peer's home: the old value of the word, the counts of a wake, the status of a wait. A valid
copy in the barn's L1 takes the new value (12 R222, R226). -/
def State.peerAtomic (s : State) (b sid fid pa n : Nat) (w : AtWork) (acq : Option Scope) (lanes : List AtLane) (bs : List Byte) : State :=
  let set := lanesSet (lanes.map (·.lane))
  let s := if acq.isSome then s.modSheaf sid (fun sh => sh.raisePend set .sy) else s
  match w with
  | .waita => lanes.foldl (fun s l => s.releaseWaita sid fid l.lane (natOfBytes bs % 4)) s
  | .wake =>
    (s.giveOld sid fid pa 4 (lanes.zipIdx.map (fun e => (e.1.lane, fieldNat bs (4 * e.2) 4)))).finishReply sid fid
  | .red _ => (s.giveOld sid fid pa n (lanes.map (fun l => (l.lane, 0)))).finishReply sid fid
  | _ =>
    let (r, v) := applyLanes (w.step n) (natOfBytes bs) lanes
    ((s.peerUpdate b pa (bytesOf n v)).giveOld sid fid pa n r).finishReply sid fid
/-- Bytes that a peer's home answers to an atomic. -/
def replyBytes (w : AtWork) (n lanes : Nat) : Nat :=
  match w with
  | .waita => 1
  | .wake => 4 * lanes
  | _ => n
/-- A peer's home acknowledges a write, or answers a load or an atomic, or the link on the way has failed. An answer of a
wrong length is none. -/
def execPeerHomeReply (msg : Nat) (reply : List Byte) (ok : Bool) (s : State) : Out :=
  match s.msgs.find? msg with
  | some ⟨.peer b sid fid k pa n data _ fresh, w⟩ =>
    if ok && data.isNone && reply.length != n then .next s
    else
      let s := s.dropMsg msg
      if sid = 0 then .next (s.wainPeerReply b k fid msg pa (if data.isNone then some reply else none) fresh ok)
      else match data, ok with
        | some _, true => .next s
        | some _, false => .next (s.peerWriteFailed pa w)
        | none, true => .next (s.peerLoad b sid fid k pa reply fresh)
        | none, false => .next (s.peerFault sid fid pa ((w.map (·.2)).headD 0))
  | some ⟨.pfl b line ctx pte hd fresh, _⟩ =>
    let s := if ok && reply.length != 128 then s else s.dropMsg msg
    .next (if ok && reply.length == 128 && fresh then s.installPeer b (128 * line) reply ctx pte hd else s)
  | some ⟨.atomic b sid fid pa n _ _ _ work acq lanes, w⟩ =>
    if !isPeer pa || (ok && reply.length != replyBytes work n lanes.length) then .next s
    else
      let s := s.dropMsg msg
      if sid = 0 then .next s
      else if ok then .next (s.peerAtomic b sid fid pa n work acq lanes reply)
      else match work with
        | .waita => .next (lanes.foldl (fun s l => s.releaseWaita sid fid l.lane 2) s)
        | .red _ => .next (((s.peerWriteFailed pa w).giveOld sid fid pa n (lanes.map (fun l => (l.lane, 0)))).finishReply sid fid)
        | _ => .next (s.peerFault sid fid pa (lanesSet (lanes.map (·.lane))))
  | _ => .next s

/-- Whether bytes lie in device memory. -/
def inMemory (addr n : Nat) : Bool := decide (0 < n ∧ addr + n ≤ memBytes)
/-- The lost marks of words that an outside read reports. -/
def State.reportLost (s : State) (addr n : Nat) : State := s.clearLostAll addr n
/-- An atomic by an outside agent on a word of n bytes: the line's last writer is that agent, whether or not a compare
swaps (12 R217); an owner-lost word is reported and left. -/
def State.outsideAtomic (s : State) (addr n : Nat) (w : Writer) (f : Nat → Nat) : State :=
  if (wordsOf addr n).any (fun wa => s.isLost wa) then s.reportLost addr n
  else s.homeWrite addr (bytesOf n (f (natOfBytes (s.cohRead addr n)))) w
/-- A write of a peer marks the pages in this device's dirty bitmap (16 R285). The context whose bitmap it is, and the die
that makes the mark, are not stated: both are free (log 62). -/
def State.peerMark (s : State) (addr n : Nat) : State :=
  (List.range ((addr + n - 1) / 65536 - addr / 65536 + 1)).foldl (fun s k =>
    let c := Config.choice s.tick % 4096
    let d := Config.choice (s.tick + 1) % 4
    ({ s with tick := s.tick + 2 } : State).dirtyMark c 0 ((addr / 65536 + k) * 65536) d) s
/-- The local address that an access from outside names; none has one, but the word of a held half. -/
def addrOf (a : Access) : Nat :=
  match a with
  | .read a _ => a
  | .write a _ => a
  | .atomic _ a _ _ => a
  | .cas a .. => a
  | .hold a _ => a
  | .release a _ => a
  | .wait a .. => a
  | .wake a _ => a
/-- An access from outside waits for its home die, and one that has failed takes none (21 R361). -/
def State.outsideWaits (s : State) (addr : Nat) : Bool :=
  let down (d : Nat) : Bool := s.dieWaits d || s.dieFailed d
  (List.range 4).any down && down (Config.lineDie (addr / 128) % 4)
/-- An access of another device of the domain, performed at this device's home. A wait of a peer holds an entry that names no
sheaf of this device. -/
def execPeerAccess (dev : Nat) (acc : Access) (s : State) : Out :=
  if dev = s.fabric.devnum ∨ 512 ≤ dev ∨ (List.range 18).all (fun k => !(s.link k).up) ∨ s.outsideWaits (addrOf acc) = true then .next s
  else match acc with
    | .read addr n => if inMemory addr n && !(halvesOf addr n).any s.hostMod then .next (s.reportLost addr n) else .next s
    | .write addr bs => if inMemory addr bs.length && !(halvesOf addr bs.length).any s.hostHolds then
        .next ((s.homeWrite addr bs .peer).peerMark addr bs.length) else .next s
    | .atomic op addr size x =>
      if inMemory addr size.bytes && decide (addr % size.bytes = 0) && !s.hostHolds addr then
        .next ((s.outsideAtomic addr size.bytes .peer (fun v => op.apply (8 * size.bytes) v (x.toNat % 2 ^ (8 * size.bytes)))).peerMark addr size.bytes)
      else .next s
    | .cas addr n cmp swp =>
      if inMemory addr n && decide (addr % n = 0) && !s.hostHolds addr then
        .next ((s.outsideAtomic addr n .peer (fun v => if v = natOfBytes (cmp.take n) then natOfBytes (swp.take n) else v)).peerMark addr n)
      else .next s
    | .wait addr n expect =>
      if (n == 4 || n == 8) && inMemory addr n && decide (addr % n = 0) && !s.hostHolds addr then
        let s := (wordsOf addr n).foldl (fun s wa => s.recallWord wa) s
        let hd := Config.lineDie (addr / 128) % 4
        .next (if s.cohRead addr n ≠ expect ∨ 128 ≤ s.slots hd addr then s
          else { s with waits := s.waits ++ [⟨0, 0, 0, addr, n, hd, expect, false⟩] })
      else .next s
    | .wake addr n =>
      if inMemory addr 4 && decide (addr % 4 = 0) && !s.hostHolds addr then .next ((s.recallWord (addr / 4)).wakeLane addr n).1
      else .next s
    | _ => .next s

/-! ### The host (12 R224, 16 R286, 20 Table 20.1) -/

/-- Device memory is visible to the host: firmware runs, and some host link is ready and carries traffic (21 R361, R362). -/
def State.hostLinked (s : State) : Bool :=
  s.rel.ready.getLsbD 32 && (List.range 2).any (fun k => s.rel.ready.getLsbD (30 + k) && s.fabric.hostUp.getD k false)
/-- The bits of a half in HomeLine.held. -/
def halfBit (addr : Nat) : BitVec 2 := BitVec.ofNat 2 (2 ^ halfOf addr)
/-- The atomics of a PCI Express completer: Swap, FetchAdd and CAS of 32 and 64 bits. -/
def hostOp (op : AtomOp) (size : Size) : Bool := (op == .exch || op == .add) && (size == .b32 || size == .b64)
/-- The host takes a half of a line: its words leave their owners. -/
def State.hostTake (s : State) (addr : Nat) (modified : Bool) : State :=
  let base := addr / 64 * 64
  let line := addr / 128
  let s := (s.barns.map (·.1)).foldl (fun s b => ((List.range 16).map (· + base / 4)).foldl (fun s wa => s.wbFirst b wa) s) s
  let s := ((List.range 16).map (· + base / 4)).foldl (fun s wa => s.recallWord wa) s
  let h := s.home line
  s.setHome line { h with held := h.held ||| halfBit addr
                          heldMod := if modified then h.heldMod ||| halfBit addr else h.heldMod }
/-- The host gives a half back, with its bytes where it had modified them. -/
def State.hostGive (s : State) (addr : Nat) (bs : Option (List Byte)) : State :=
  let base := addr / 64 * 64
  let line := addr / 128
  let s := match bs with
    | some bs => if s.hostMod addr && decide (bs.length = 64) then s.homeWrite base bs .host else s
    | none => s
  let h := s.home line
  s.setHome line { h with held := h.held &&& ~~~(halfBit addr), heldMod := h.heldMod &&& ~~~(halfBit addr) }
/-- An access of the host. What a read returns to it, a poisoned TLP among it (21 R355), is no state of the device (log 137). -/
def execHostMemoryAccess (acc : Access) (s : State) : Out :=
  if !s.hostLinked || s.outsideWaits (addrOf acc) then .next s
  else match acc with
    | .read .. => .next s
    | .write addr bs => if inMemory addr bs.length && !(halvesOf addr bs.length).any s.hostHolds then .next (s.homeWrite addr bs .host) else .next s
    | .atomic op addr size x =>
      if hostOp op size && inMemory addr size.bytes && decide (addr % size.bytes = 0) && !s.hostHolds addr then
        .next (s.outsideAtomic addr size.bytes .host (fun v => op.apply (8 * size.bytes) v (x.toNat % 2 ^ (8 * size.bytes))))
      else .next s
    | .cas addr n cmp swp =>
      if (n == 4 || n == 8) && inMemory addr n && decide (addr % n = 0) && !s.hostHolds addr then
        .next (s.outsideAtomic addr n .host (fun v => if v = natOfBytes (cmp.take n) then natOfBytes (swp.take n) else v))
      else .next s
    | .hold addr modified => if inMemory (addr / 64 * 64) 64 then .next (s.hostTake addr modified) else .next s
    | .release addr bs => if s.hostHolds addr then .next (s.hostGive addr (some bs)) else .next s
    | .wait .. => .next s
    | .wake .. => .next s
/-- A 64-bit swap by the host at the word's home. -/
def execHostAtomicSwap (addr : Nat) (value : DWord) (s : State) : Out :=
  if s.hostLinked && !s.outsideWaits addr && inMemory addr 8 && decide (addr % 8 = 0) && !s.hostHolds addr then
    .next (s.outsideAtomic addr 8 .host (fun _ => value.toNat))
  else .next s
/-- The host answers a back-invalidation snoop of a half, named by its address divided by 64. -/
def execHostSnoopResponse (half : Nat) (bytes : Option (List Byte)) (s : State) : Out :=
  if s.hostHolds (64 * half) then .next (s.hostGive (64 * half) bytes) else .next s

/-! ### The patrol scrub (21 R354, R355) -/

/-- A count of a die, 64 bits of corrected errors or 32 of uncorrectable ones. -/
def bump (m : KV Nat) (d bits : Nat) : KV Nat := m.put d ((m.getD d 0 + 1) % 2 ^ bits)
/-- An uncorrectable error strikes a line of a barn's L1 or eviction buffer, or a gather copy, chosen freely: owned and
phase words of its unit of 32 bytes are lost, a gather copy's word is, other words of the unit are dropped; the die of the
barn counts it (12 R221, 13 R239, 21 R355). -/
def State.strikeL1 (s : State) (b : Nat) : State :=
  let bn := s.barn b
  let held : List Nat := bn.words.map (fun x => x.1) ++ bn.evict.flatMap (fun e => e.words.map (fun x => x.1)) ++ bn.gather.map (fun g => g.1 / 4)
  let units := held.map (· / 8)
  let k := Config.choice s.tick % units.length
  let s := { s with tick := s.tick + 1 }
  match units[k]? with
  | none => s
  | some u =>
    let lost := (List.range 8).map (· + 8 * u)
    let hitWord (wa : Nat) : Bool := (match bn.words.find? wa with | some x => x.owned || x.phase != [] | none => false) ||
      bn.evict.any (fun e => (e.words.find? wa).isSome) || bn.gather.any (fun g => (wordsOf g.1 g.2.size.bytes).contains wa)
    let s := s.setBarn b { bn with
      words := bn.words.filter (fun e => !lost.contains e.1)
      evict := bn.evict.map (fun e => { e with words := e.words.filter (fun w => !lost.contains w.1) })
      gather := bn.gather.filter (fun g => !(wordsOf g.1 g.2.size.bytes).any (fun wa => lost.contains wa)) }
    let s := (lost.filter hitWord).foldl (fun s wa => (s.voidReg b wa).loseWord wa) s
    ({ s with rel := { s.rel with uncorrected := bump s.rel.uncorrected (b / 22) 32 } } : State).raise 0 2
/-- The scrub reads a line. Whether it finds an error, and which, is the hardware's: nothing, an error that it corrects, or
a unit that it cannot correct, which is poisoned from then on and counted for some die. -/
def execPatrolScrub (line : Nat) (s : State) : Out :=
  if memBytes ≤ 128 * line then .next s
  else
    let (bad, s) := s.freeBit
    let (worse, s) := s.freeBit
    let d := Config.choice s.tick % 4
    let u := Config.choice (s.tick + 1) % 4
    let s := { s with tick := s.tick + 2 }
    if !bad then .next s
    else if !worse then .next { s with rel := { s.rel with corrected := bump s.rel.corrected d 64 } }
    else
      let h := s.home line
      let s := s.setHome line { h with poison := h.poison ||| BitVec.ofNat 4 (2 ^ u) }
      .next (({ s with rel := { s.rel with uncorrected := bump s.rel.uncorrected d 32 } } : State).raise 0 2)

end Sys2Proof.Machine
end

