-- ==== Sys2Proof/Machine/Matrix.lean ====
section
/-! DEFINITION. The thresher (11 R181 to R202): ownership, its operations, their execution. -/
namespace Sys2Proof.Machine

open Sys2Proof

/-! ### Formats (11 R190, R195) -/

def elemFmt (t : Sys2Proof.Ty) : Num.Fmt :=
  match t with
  | .bf16 => Num.bf16 | .f16 => Num.f16 | .e5m2 => Num.e5m2 | .mxf4 => Num.e2m1 | _ => Num.e4m3
def scaleVal (code : Nat) : Num.Val :=
  match Num.e8m0 code with
  | none => .nan
  | some k => .fin false 1 k
/-- An exact number as a value; 0 is +0. So an S8 or SPT8 operand of value 0 enters a product as +0, and its product with a
negative number is -0: the spec gives such a zero no sign (01 R20; DESIGN CHOICE, log 117). -/
def dyVal (d : Num.Dy) : Num.Val := .fin (decide (d.m < 0)) d.m.natAbs d.e
def intDy (n : Int) : Num.Dy := ⟨n, 0⟩
/-- Table 11.3: whether the pair is allowed, its mode, whether DMMA has it. -/
def pairMode (lane weight : Sys2Proof.Ty) : Option (BankMode × Bool) :=
  match lane, weight with
  | .bf16, .bf16 | .f16, .f16 | .e4m3, .e4m3 | .e4m3, .e5m2 | .e5m2, .e4m3 | .e5m2, .e5m2 => some (.float, true)
  | .mxf8, .mxf8 | .mxf8, .mxf4 | .mxf4, .mxf4 | .s8, .spt8 | .bf16, .spt8 => some (.float, false)
  | .s8, .s8 | .s8, .s4 => some (.int, false)
  | _, _ => none
/-- A block-scaled weight format (11 R187). -/
def blockScaled (ty : Sys2Proof.Ty) (af : Bool) : Bool :=
  match ty with
  | .mxf8 | .mxf4 | .spt8 => true
  | .s8 | .s4 => af
  | _ => false

/-! ### Elements of the tile and of a lane's operand -/

/-- Index and block of T[r][c] along its blocked axis (11 R189). -/
def Thresher.block (t : Thresher) (r c : Nat) : Nat := if t.kc then 2 * r + c / 32 else 2 * c + r / 32
def Thresher.sideAt (t : Thresher) (k : Nat) : Nat := (t.side.getD k 0).toNat
def Thresher.code (t : Thresher) (r c : Nat) : Nat := (t.tile.getD (64 * r + c) 0).toNat
/-- The exact value of T[r][c] with its block scale, in a float pair. -/
def Thresher.weight (t : Thresher) (r c : Nat) : Num.Val :=
  let q := t.code r c
  let sc := scaleVal (t.sideAt (t.block r c))
  match t.fmt with
  | some .spt8 => Num.mulVal (dyVal (Num.spt8 q)) sc
  | some .mxf8 => Num.mulVal (Num.e4m3.val q) sc
  | some .mxf4 => Num.mulVal (Num.e2m1.val q) sc
  | some f => (elemFmt f).val q
  | none => .nan
/-- The corrected integer of T[r][c] (01 R22). -/
def Thresher.weightInt (t : Thresher) (r c : Nat) : Int :=
  intVal (t.fmt.getD .s8) (t.code r c) - (if t.af then (BitVec.ofNat 8 (t.sideAt (128 + t.block r c))).toInt else 0)

/-- SCL8 and ZP8 of block b in a B register (11 R190). -/
def laneScl (af : Bool) (w : Word) (b : Nat) : Nat := if af then (wordByte w (2 * b)).toNat else 0x70
def laneZp (af : Bool) (w : Word) (b : Nat) : Int := if af then (wordByte w (2 * b + 1)).toInt else 0
/-- Element k of a lane's operand as an exact value, and as a corrected integer. -/
def laneVal (ty : Sys2Proof.Ty) (af : Bool) (g : Nat) (w : Word) (k : Nat) : Num.Val :=
  let q := elemOf g ty.bits k
  match ty with
  | .mxf8 => Num.mulVal (Num.e4m3.val q) (scaleVal (wordByte w (k / 32)).toNat)
  | .mxf4 => Num.mulVal (Num.e2m1.val q) (scaleVal (wordByte w (k / 32)).toNat)
  | .s8 => dyVal ((if af then Num.scl8 (laneScl af w (k / 32)) else intDy 1).mul (intDy (intVal .s8 q - laneZp af w (k / 32))))
  | _ => (elemFmt ty).val q
def laneInt (af : Bool) (g : Nat) (w : Word) (k : Nat) : Int := intVal .s8 (elemOf g 8 k) - laneZp af w (k / 32)

/-! ### Passes (11 R191, R192, R195; 01 R25) -/

def Bank.at_ (b : Bank) (i j : Nat) : BitVec 40 := b.el.getD (64 * i + j) 0
def Bank.set (b : Bank) (i j : Nat) (v : BitVec 40) : Bank :=
  { b with el := if v = 0 then b.el.erase (64 * i + j) else b.el.put (64 * i + j) v }
/-- One row of a bank takes a pass: element j adds the 64 products that `f j k` gives. -/
def Bank.passRow (b : Bank) (i : Nat) (f : Nat → Nat → Num.Val) : Bank :=
  (List.range 64).foldl (fun b j =>
    b.set i j (BitVec.ofNat 40 (Num.acc40.sumVals .rn (Num.acc40.val (b.at_ i j).toNat :: (List.range 64).map (f j))))) b
def Bank.passRowInt (b : Bank) (i : Nat) (f : Nat → Nat → Int) : Bank :=
  (List.range 64).foldl (fun b j =>
    b.set i j (BitVec.ofInt 40 ((b.at_ i j).toInt + ((List.range 64).map (f j)).foldl (· + ·) 0))) b
def Thresher.bank (t : Thresher) (east : Bool) : Bank := if east then t.east else t.south
def Thresher.setBank (t : Thresher) (east : Bool) (b : Bank) : Thresher := if east then { t with east := b } else { t with south := b }
/-- T along a bank's output j and reduction k: South[i][j] runs over r, East[i][j] over c. -/
def tileRC (east : Bool) (j k : Nat) : Nat × Nat := if east then (j, k) else (k, j)

/-- Scales of a pass in integer mode: the weight SCL8 of block b of index j of the tile. -/
def Thresher.weightScl (t : Thresher) (j b : Nat) : Nat := if t.af then t.sideAt (2 * j + b) else 0x70
/-- The scale check of R197. -/
def Thresher.scalesOk (t : Thresher) (east af : Bool) (lanes : LaneSet) (bw : Nat → Word) : Bool :=
  let k := t.bank east
  let same (v : KV Byte) (i c : Nat) : Bool := match v.find? i with
    | some x => x.toNat == c
    | none => true
  (lanesOf lanes).all (fun i => laneScl af (bw i) 0 == laneScl af (bw i) 1 && same k.rowScale i (laneScl af (bw i) 0)) &&
  (List.range 64).all (fun j => t.weightScl j 0 == t.weightScl j 1 && same k.colScale j (t.weightScl j 0))
def putNew (v : KV Byte) (i c : Nat) : KV Byte := match v.find? i with
  | some _ => v
  | none => v.put i (BitVec.ofNat 8 c)
/-- A pass sets a clean bank's mode, and in integer mode the latches it found invalid. -/
def Thresher.passMark (t : Thresher) (east af : Bool) (mode : BankMode) (lanes : LaneSet) (bw : Nat → Word) : Thresher :=
  let k := t.bank east
  let k := { k with mode := mode }
  t.setBank east (if mode = .int then
    { k with rowScale := (lanesOf lanes).foldl (fun v i => putNew v i (laneScl af (bw i) 0)) k.rowScale
             colScale := (List.range 64).foldl (fun v j => putNew v j (t.weightScl j 0)) k.colScale }
    else k)

/-- Bin row ρ of an operand stream: 64 elements of a type. -/
def binRow (bin : KV Byte) (addr pitch row bits : Nat) : Nat := natOfBytes (memRead bin (addr + row * pitch) (8 * bits))
/-- Side data that a STLD brings: its scales and zero points. -/
def sideOf (bin : KV Byte) (addr : Nat) (ty : Sys2Proof.Ty) (af : Bool) : KV Byte :=
  if blockScaled ty af then
    (List.range (if af then 256 else 128)).foldl (fun (v : KV Byte) k => let b := memByte bin (addr + k)
      if b = 0 then v else v.put k b) []
  else []
def tileOf (bin : KV Byte) (addr pitch : Nat) (ty : Sys2Proof.Ty) (w : Bool) : KV Word :=
  (List.range 64).foldl (fun (v : KV Word) row =>
    let g := binRow bin addr pitch row ty.bits
    (List.range 64).foldl (fun (v : KV Word) e =>
      let q := elemOf g ty.bits e
      if q = 0 then v else v.put (if w then 64 * e + row else 64 * row + e) (BitVec.ofNat 32 q)) v) []

/-- What an operation leaves of the latch, the bank modes and the scale latches; checks at issue look at the state that
the queue will leave (11 R188, R196). -/
def mxMark (st : Option Stook) (t : Thresher) : MxOp → Thresher
  | .stld bin _ _ side ty _ kc af =>
    let b := match st with | some k => (if bin = 1 then k.binA else k.binW) | none => []
    { t with fmt := some ty, kc := kc, af := af, side := sideOf b side ty af }
  | .mma ty east af lanes _ bw =>
    match t.fmt.bind (fun w => pairMode ty w) with
    | some (m, _) => t.passMark east af m lanes (fun i => bw.getD i 0)
    | none => t
  | .dmma _ _ _ lanes _ => (t.passMark false false .float lanes (fun _ => 0)).passMark true false .float lanes (fun _ => 0)
  | .drain _ _ _ east zero => if zero then t.setBank east .zero else t
  | .zacc east => t.setBank east .zero
def Thresher.zeroed (t : Thresher) : Thresher :=
  { t with fmt := none, kc := false, af := false, tile := [], side := [], south := .zero, east := .zero, zeroing := false }
/-- The words of a bin that an operation reads, and which bin it is. -/
def MxOp.reads (o : MxOp) : BinId × List Nat :=
  match o with
  | .stld bin addr pitch side ty _ _ af =>
    (if bin = 1 then .a else .w, (List.range 64).flatMap (fun r => wordsOf (addr + r * pitch) (8 * ty.bits)) ++
      (if blockScaled ty af then wordsOf side (if af then 256 else 128) else []))
  | .dmma ty addr pitch lanes _ => (.w, (lanesOf lanes).flatMap (fun i => wordsOf (addr + i * pitch) (8 * ty.bits)))
  | _ => (.w, [])
/-- The stook's bins as an operation sees them: a word that it has read already keeps its value (09 R164). -/
def MxEntry.sees (e : MxEntry) (k : Stook) : Stook :=
  match e.op.reads.2 with
  | [] => k
  | _ => k.setBin e.op.reads.1 (e.cap.foldl (fun (m : KV Byte) w => memWrite m (4 * w.1) (bytesOf 4 w.2.toNat)) (k.bin e.op.reads.1))
/-- The thresher as the queued operations will leave it, elements apart: a STLD's side data are the words that it has read. -/
def State.mxAhead (s : State) (core : Nat) : Thresher :=
  let t := (s.core core).mx
  t.queue.foldl (fun t e => mxMark ((s.stook? e.uid).map e.sees) t e.op) (if t.zeroing then t.zeroed else t)

/-! ### Issue -/

def Ctx.owner (s : State) (k : Ctx) : Bool := k.sh.serves.isNone && decide ((s.core k.sh.core).mx.owner = some k.sid)
/-- Lanes at the instruction: those of E, or the path of a uniform instruction. -/
def mxTrap (k : Ctx) (c : Cause) (addr : Nat) : TrapInfo := k.trap c k.e (BitVec.ofNat 64 addr)
def mxPush (s : State) (k : Ctx) (op : MxOp) : State :=
  s.modMx k.sh.core (fun t => { t with queue := t.queue ++ [⟨k.sid, k.sh.uid, s.clock, false, op, []⟩] })
def mxFull (s : State) (k : Ctx) : Bool := decide (3 ≤ (s.core k.sh.core).mx.queue.length)
/-- MXOWN, then what the instruction does as owner; blocked while the queue is full. -/
def asOwner (s : State) (k : Ctx) (body : Except TrapInfo Done) : Except TrapInfo Done :=
  if !k.owner s then .error (mxTrap k .mxown 0)
  else if mxFull s k then .ok { st := s, blocked := true }
  else body

/-- The A group of the lanes of E, from the collector where it holds it (11 R194). -/
def mxGroup (k : Ctx) (a : Fin 96) (ty : Sys2Proof.Ty) : KV (List Word) :=
  (lanesOf k.e).map (fun l => (l, (List.range (2 * ty.bits)).map (fun j => k.sh.vreg (a.val + j) l)))
def collHit (t : Thresher) (k : Ctx) (a : Fin 96) (ty : Sys2Proof.Ty) (af : Bool) (breg : Nat) : Bool :=
  match t.coll with
  | some c => decide (c.base = a.val ∧ c.ty = ty ∧ c.af = af ∧ c.breg = breg) && (k.e &&& ~~~c.lanes == 0)
  | none => false
def keepGroup (s : State) (k : Ctx) (a : Fin 96) (ty : Sys2Proof.Ty) (af keep : Bool) (breg : Nat) (grp : KV (List Word))
    (bw : KV Word) : State :=
  s.modMx k.sh.core (fun t =>
    if keep then { t with coll := some {
      base := a.val, ty := ty, af := af, breg := breg, lanes := k.e, bwords := bw
      words := grp.foldl (fun (v : KV Word) e => (e.2.zipIdx).foldl (fun (v : KV Word) x => v.put (64 * x.2 + e.1) x.1) v) [] } }
    else if collHit t k a ty af breg then { t with coll := none } else t)

/-- Format, orientation, bank-mode and scale conditions of a pass (11 R196). -/
def passBad (t : Thresher) (ty : Sys2Proof.Ty) (dmma east af : Bool) (lanes : LaneSet) (bw : Nat → Word) : Bool :=
  match t.fmt with
  | none => true
  | some w =>
    match pairMode ty w with
    | none => true
    | some (m, d) =>
      let modeBad (e : Bool) : Bool := (t.bank e).mode != .clean && (t.bank e).mode != m
      (dmma && !d) || (blockScaled w t.af && (t.kc != east)) || modeBad east || (dmma && modeBad (!east)) ||
        (decide (m = .int) && !t.scalesOk east af lanes bw)
def mmaBody (s : State) (k : Ctx) (a : Fin 96) (b : Reg) (ty : Sys2Proof.Ty) (east keep af : Bool) : Except TrapInfo Done :=
  let scaled := mmaScaled ty af
  let bw : KV Word := if scaled then (lanesOf k.e).map (fun l => (l, k.sh.readReg b l 0)) else []
  asOwner s k (
    if passBad (s.mxAhead k.sh.core) ty false east af k.e (fun i => bw.getD i 0) then .error (mxTrap k .mxfmt 0)
    else
      let grp := mxGroup k a ty
      .ok { st := keepGroup (mxPush s k (.mma ty east af k.e grp bw)) k a ty af keep b.code grp bw })
/-- Whether an address of a range names a nonzero MEMBER (09 R155). -/
def memberIn (addr n : Nat) : Bool := binMember addr != 0 || binMember (addr + n - 1) != 0
/-- The first of 64 rows that names one (11 R189, R198: any address). -/
def rowMember (a pitch n : Nat) : Option Nat := ((List.range 64).map (fun r => a + r * pitch)).find? (fun x => memberIn x n)
def stookLen (s : State) (k : Ctx) (b : BinId) : Nat := match s.stookOf k.sh with
  | some st => st.binLen b
  | none => 0
/-- Row addresses B + i C are natural numbers: they do not wrap at 2^32, and one beyond the fields of R155 raises BINB
(DESIGN CHOICE, log 117). A W row with a nonzero MEMBER raises PERM (11 R192). -/
def dmmaBody (s : State) (k : Ctx) (a : Fin 96) (b c : SReg) (ty : Sys2Proof.Ty) (keep : Bool) : Except TrapInfo Done :=
  let addr := (k.opB b.reg 0 0).toNat
  let pitch := (k.opC c.reg 0 0).toNat
  asOwner s k (
    if passBad (s.mxAhead k.sh.core) ty true false false k.e (fun _ => 0) then .error (mxTrap k .mxfmt 0)
    else if binMember addr ≠ 0 then .error (mxTrap k .perm addr)
    else match (lanesOf k.e).filter (fun i => memberIn (addr + i * pitch) (8 * ty.bits)) with
    | i :: r => .error (k.trap .perm (lanesSet (i :: r)) (BitVec.ofNat 64 (addr + i * pitch)))
    | [] =>
    if addr % 4 ≠ 0 ∨ pitch % 4 ≠ 0 then .error (mxTrap k .align addr)
    else
      let bad := (lanesOf k.e).filter (fun i => !binZero (addr + i * pitch) || decide (stookLen s k .w < binOffset addr + i * pitch + 8 * ty.bits))
      match bad with
      | i :: _ => .error (k.trap .binb (lanesSet bad) (BitVec.ofNat 64 (addr + i * pitch)))
      | [] =>
        let grp := mxGroup k a ty
        .ok { st := keepGroup (mxPush s k (.dmma ty (binOffset addr) pitch k.e grp)) k a ty false keep b.reg.code grp [] })
/-- Row addresses A + r P do not wrap at 2^32 (DESIGN CHOICE, log 117). -/
def stldBody (s : State) (k : Ctx) (a p : Word) (c : Nat) (ty : Sys2Proof.Ty) (w ab kc af : Bool) : Except TrapInfo Done :=
  let bin : BinId := if ab then .a else .w
  let scaled := blockScaled ty af
  let bytes := 8 * ty.bits
  let side := if af then 256 else 128
  asOwner s k (
    match rowMember a.toNat p.toNat bytes with
    | some x => .error (mxTrap k .perm x)
    | none =>
    if scaled ∧ memberIn c side = true then .error (mxTrap k .perm c)
    else if a.toNat % 4 ≠ 0 ∨ p.toNat % 4 ≠ 0 then .error (mxTrap k .align a.toNat)
    else if scaled ∧ c % 4 ≠ 0 then .error (mxTrap k .align c)
    else if binZero a.toNat = false ∨ stookLen s k bin < binOffset a.toNat + 63 * p.toNat + bytes then .error (mxTrap k .binb a.toNat)
    else if scaled ∧ (binZero c = false ∨ stookLen s k bin < binOffset c + side) then .error (mxTrap k .binb c)
    else .ok { st := mxPush s k (.stld (if ab then 1 else 0) (binOffset a.toNat) p.toNat (binOffset c) ty w kc af) })
/-- Row addresses A + j B do not wrap at 2^32 (DESIGN CHOICE, log 117). -/
def drainBody (s : State) (k : Ctx) (a p : Word) (ty : Sys2Proof.Ty) (east z : Bool) : Except TrapInfo Done :=
  let bytes := 64 * (if ty = .f32 then 4 else 2)
  asOwner s k (
    match rowMember a.toNat p.toNat bytes with
    | some x => .error (mxTrap k .perm x)
    | none =>
    if a.toNat % 4 ≠ 0 ∨ p.toNat % 4 ≠ 0 then .error (mxTrap k .align a.toNat)
    else if binZero a.toNat = false ∨ stookLen s k .c < binOffset a.toNat + 63 * p.toNat + bytes then .error (mxTrap k .binb a.toNat)
    else .ok { st := mxPush s k (.drain (binOffset a.toNat) p.toNat ty east z) })
def zaccBody (s : State) (k : Ctx) (east : Bool) : Except TrapInfo Done := asOwner s k (.ok { st := mxPush s k (.zacc east) })

/-- MXACQ: a grant at once, a place in the ownership queue, or nothing for the owner (11 R183). -/
def mxacqBody (i : Instr) (s : State) (k : Ctx) : Except TrapInfo Done :=
  let t := (s.core k.sh.core).mx
  if k.sh.serves.isSome then .error (mxTrap k .mxown 0)
  else if t.owner = some k.sid then .ok { st := s }
  else if t.owner = none ∧ t.waitq = [] then .ok { st := (s.mxGrant k.sh.core k.sid).acquire k.sid k.path .st }
  else
    let s := s.modMx k.sh.core (fun t => { t with waitq := if t.waitq.contains k.sid then t.waitq else t.waitq ++ [k.sid] })
    .ok (waitDone s k i [])
def mxtryBody (s : State) (k : Ctx) (d : Fin 7) : Except TrapInfo Done :=
  let t := (s.core k.sh.core).mx
  let q (s : State) (b : Bool) : Done := { st := s.modSheaf k.sid (fun sh => { sh with q := setPredBit sh.q d.val b }) }
  if k.sh.serves.isSome then .error (mxTrap k .mxown 0)
  else if t.owner = some k.sid then .ok (q s true)
  else if t.owner = none ∧ t.waitq = [] then .ok (q ((s.mxGrant k.sh.core k.sid).acquire k.sid k.path .st) true)
  else .ok (q s false)
/-- MXREL and MXWAIT wait for the operations of their sheaf. -/
def mxwaitBody (i : Instr) (s : State) (k : Ctx) : Except TrapInfo Done :=
  if !k.owner s then .error (mxTrap k .mxown 0)
  else if (s.core k.sh.core).mx.uses k.sid then .ok (waitDone s k i [])
  else .ok { st := s.acquire k.sid k.path .st }
/-- Waits on the thresher look again: a grant, the release of ownership, which releases for the whole sheaf (11 R186), the
join. -/
def State.advanceMx (s : State) (sid : Nat) (sh : Sheaf) (f : Flight) : State :=
  let t := (s.core sh.core).mx
  match f.instr with
  | .mxacqB32 .. | .mxacqX64 .. =>
    if t.owner = some sid then (s.acquire sid f.path .st).moveOn sid f f.path else s
  | .mxrelB32 .. | .mxrelX64 .. =>
    if t.uses sid then s
    else match s.releaseState sid f.id sh.full .st with
      | .waits => s
      | .failed l => (s.clearFailed sid sh.full).faultAt sid f .remfail f.path (BitVec.ofNat 64 (l.headD 0)) l
      | .clear =>
        let s := s.publishUpTo (barnOf sh.core) .st
        let s := if t.owner = some sid then (s.modMx sh.core (fun t => { t with coll := none })).mxRelease sh.core else s
        s.moveOn sid f f.path
  | .mxwaitB32 .. | .mxwaitX64 .. =>
    if t.uses sid then s else (s.acquire sid f.path .st).moveOn sid f f.path
  | _ => s

/-- A sheaf's paths that wait at MXACQ look whether a release of this cycle has granted it the thresher. -/
def State.grantTurn (s : State) (sid : Nat) : State :=
  match s.sheaf? sid with
  | none => s
  | some sh =>
    if sh.frozen then s
    else sh.flights.foldl (fun s f => match f.instr with
      | .mxacqB32 .. => s.tryFlight sid f.id State.advanceMx
      | .mxacqX64 .. => s.tryFlight sid f.id State.advanceMx
      | _ => s) s
/-- MXREL looks at once whether it can go on. -/
def mxrelBody (i : Instr) (s : State) (k : Ctx) : Except TrapInfo Done :=
  if !k.owner s then .error (mxTrap k .mxown 0)
  else
    let (fid, s) := s.addFlight k i .waiting true []
    .ok { st := s.tryFlight k.sid fid State.advanceMx, stay := if k.replay.isNone then k.path else 0 }

/-! ### Steps of the thresher (11 R185, R188, R202) -/

def drainElem (k : Bank) (ty : Sys2Proof.Ty) (i j : Nat) : List Byte :=
  let f := if ty = .f32 then Num.f32 else Num.bf16
  let n := if ty = .f32 then 4 else 2
  match k.mode with
  | .clean => bytesOf n 0
  | .float => bytesOf n (f.roundVal .rn (Num.acc40.val (k.at_ i j).toNat))
  | .int =>
    match k.rowScale.find? i, k.colScale.find? j with
    | some r, some c => bytesOf n (f.roundDy .rn false ((Num.scl8 r.toNat).mul ((Num.scl8 c.toNat).mul (intDy (k.at_ i j).toInt))))
    | _, _ => bytesOf n 0
/-- What a DRAIN leaves in the C-bin, by offset, and the words it writes. -/
def drainImage (k : Bank) (ty : Sys2Proof.Ty) (addr pitch : Nat) : KV Byte :=
  (List.range 64).foldl (fun (m : KV Byte) r => memWrite m (addr + r * pitch) ((List.range 64).flatMap (fun j => drainElem k ty r j))) []
def drainWords (ty : Sys2Proof.Ty) (addr pitch : Nat) : List Nat :=
  ((List.range 64).flatMap (fun r => wordsOf (addr + r * pitch) (64 * (if ty = .f32 then 4 else 2)))).eraseDups
/-- The words of a STLD's side data. They are read by the end of the cycle in which it joins the queue, as the check of a pass
behind it needs them (09 R164 leaves the moment open; DESIGN CHOICE, log 132). -/
def MxOp.sideWords (o : MxOp) : List Nat :=
  match o with
  | .stld _ _ _ side ty _ _ af => if blockScaled ty af then wordsOf side (if af then 256 else 128) else []
  | _ => []
/-- One word of an operation at a free moment: a word to be read is read, a word of a running DRAIN is written. -/
def State.mxWord (s : State) (core n : Nat) (w : Nat) : State :=
  match (s.core core).mx.queue[n]? with
  | none => s
  | some e =>
    if (e.cap.find? w).isSome then s
    else
      let (go, s) := s.freeBit
      let mark (s : State) (v : Word) : State := s.modMx core (fun t => { t with
        queue := t.queue.zipIdx.map (fun x => if x.2 = n then { x.1 with cap := x.1.cap.put w v } else x.1) })
      if !go && !e.op.sideWords.contains w then s
      else match e.op with
      | .drain addr pitch ty east _ =>
        mark (s.binWrite e.uid .c (4 * w) (Machine.memRead (drainImage ((s.core core).mx.bank east) ty addr pitch) (4 * w) 4)) 0
      | _ => mark s (match s.stook? e.uid with
        | some k => BitVec.ofNat 32 (natOfBytes (k.binRead e.op.reads.1 (4 * w) 4))
        | none => 0)
/-- The queued operations of a thresher read and write words of the bins at free moments before they complete (09 R164,
03 R394). -/
def State.mxTurn (s : State) (core : Nat) : State :=
  (s.core core).mx.queue.zipIdx.foldl (fun s x =>
    let ws := match x.1.op with
      | .drain addr pitch ty _ _ => if x.1.running then drainWords ty addr pitch else []
      | o => o.reads.2
    ws.foldl (fun s w => s.mxWord core x.2 w) s) s
/-- An operation executed on the state that its predecessors left: it reads and writes the words that are left. -/
def State.mxExec (s : State) (core : Nat) (e : MxEntry) : State :=
  let st := (s.stook? e.uid).map e.sees
  let bin (a : Bool) : KV Byte := match st with | some k => (if a then k.binA else k.binW) | none => []
  let marked (s : State) : State := s.modMx core (fun t => mxMark st t e.op)
  match e.op with
  | .stld b addr pitch _ ty w _ _ => (marked s).modMx core (fun t => { t with tile := tileOf (bin (b == 1)) addr pitch ty w })
  | .mma ty east af lanes a bw =>
    let t := (s.core core).mx
    let isInt := match t.fmt.bind (fun w => pairMode ty w) with | some (.int, _) => true | _ => false
    let k := (lanesOf lanes).foldl (fun (k : Bank) i =>
      let g := groupNat (a.getD i [])
      let w := bw.getD i 0
      if isInt then k.passRowInt i (fun j x => laneInt af g w x * t.weightInt (tileRC east j x).1 (tileRC east j x).2)
      else k.passRow i (fun j x => Num.mulVal (laneVal ty af g w x) (t.weight (tileRC east j x).1 (tileRC east j x).2))) (t.bank east)
    (marked s).modMx core (fun t => t.setBank east { t.bank east with el := k.el })
  | .dmma ty addr pitch lanes a =>
    let t := (s.core core).mx
    let south := (lanesOf lanes).foldl (fun (k : Bank) i =>
      let g := groupNat (a.getD i [])
      k.passRow i (fun j x => Num.mulVal (laneVal ty false g 0 x) (t.weight x j))) t.south
    let east := (lanesOf lanes).foldl (fun (k : Bank) i =>
      let g := binRow (bin false) addr pitch i ty.bits
      k.passRow i (fun j x => Num.mulVal (laneVal ty false g 0 x) (t.weight j x))) t.east
    (marked s).modMx core (fun t => { t with south := { t.south with el := south.el }, east := { t.east with el := east.el } })
  | .drain addr pitch ty east _ =>
    let k := (s.core core).mx.bank east
    let img := drainImage k ty addr pitch
    marked ((drainWords ty addr pitch).foldl (fun s w =>
      if (e.cap.find? w).isSome then s else s.binWrite e.uid .c (4 * w) (Machine.memRead img (4 * w) 4)) s)
  | .zacc _ => marked s

def execThresherZeroingDone (core : Nat) (s : State) : Out :=
  .next (if (s.core core).mx.zeroing then s.modMx core Thresher.zeroed else s)
def execThresherOpStart (core : Nat) (s : State) : Out :=
  let t := (s.core core).mx
  match t.queue with
  | e :: r =>
    if e.running = false ∧ t.zeroing = false ∧ e.issued + 4 ≤ s.clock then
      .next (s.modMx core (fun t => { t with queue := { e with running := true } :: r }))
    else .next s
  | [] => .next s
def execThresherOpComplete (core : Nat) (s : State) : Out :=
  match (s.core core).mx.queue with
  | e :: _ => if e.running then .next ((s.mxExec core e).modMx core (fun t => { t with queue := t.queue.tail })) else .next s
  | [] => .next s


/-- 11 R191. -/
def execMma (g : Pred) (a : Fin 96) (b : Reg) (ty : Ty) (east : Bool) (keep : Bool) (af : Bool) (s : State) : Out :=
  issue (.mma g a b ty east keep af) s (fun k => mmaBody s k a b ty east keep af)
/-- 11 R192. -/
def execDmma (g : Pred) (a : Fin 96) (b : SReg) (c : SReg) (ty : Ty) (keep : Bool) (s : State) : Out :=
  issue (.dmma g a b c ty keep) s (fun k => dmmaBody s k a b c ty keep)
/-- 11 R183. -/
noncomputable def execMxacqB32 (g : Pred) (s : State) : Out :=
  issue (.mxacqB32 g) s (fun k => mxacqBody (.mxacqB32 g) s k)
/-- 11 R183. -/
noncomputable def execMxacqX64 (g : Pred) (s : State) : Out :=
  issue (.mxacqX64 g) s (fun k => mxacqBody (.mxacqX64 g) s k)
/-- 11 R183. -/
noncomputable def execMxtryB32 (g : Pred) (d : Fin 7) (s : State) : Out :=
  issue (.mxtryB32 g d) s (fun k => mxtryBody s k d)
/-- 11 R183. -/
noncomputable def execMxtryX64 (g : Pred) (d : Fin 7) (s : State) : Out :=
  issue (.mxtryX64 g d) s (fun k => mxtryBody s k d)
/-- 11 R183, R186. -/
noncomputable def execMxrelB32 (g : Pred) (s : State) : Out :=
  issue (.mxrelB32 g) s (fun k => mxrelBody (.mxrelB32 g) s k)
/-- 11 R183, R186. -/
noncomputable def execMxrelX64 (g : Pred) (s : State) : Out :=
  issue (.mxrelX64 g) s (fun k => mxrelBody (.mxrelX64 g) s k)
/-- 11 R200. -/
noncomputable def execMxwaitB32 (g : Pred) (s : State) : Out :=
  issue (.mxwaitB32 g) s (fun k => mxwaitBody (.mxwaitB32 g) s k)
/-- 11 R200. -/
noncomputable def execMxwaitX64 (g : Pred) (s : State) : Out :=
  issue (.mxwaitX64 g) s (fun k => mxwaitBody (.mxwaitX64 g) s k)
/-- 11 R199. -/
noncomputable def execZaccSB32 (g : Pred) (s : State) : Out :=
  issue (.zaccSB32 g) s (fun k => zaccBody s k false)
/-- 11 R199. -/
noncomputable def execZaccEB32 (g : Pred) (s : State) : Out :=
  issue (.zaccEB32 g) s (fun k => zaccBody s k true)
/-- 11 R199. -/
noncomputable def execZaccX64 (g : Pred) (east : Bool) (s : State) : Out :=
  issue (.zaccX64 g east) s (fun k => zaccBody s k east)
/-- 11 R189. -/
noncomputable def execStld (g : Pred) (a : SReg) (b : SReg) (c : Option SReg) (ty : Ty) (w : Bool) (ab : Bool) (kc : Bool) (af : Bool) (s : State) : Out :=
  issue (.stld g a b c ty w ab kc af) s (fun k => stldBody s k (k.opA a.reg 0 0) (k.opB b.reg 0 0) (match c with | some r => (k.opC r.reg 0 0).toNat | none => 0) ty w ab kc af)
/-- 11 R198. -/
noncomputable def execDrain (g : Pred) (a : SReg) (b : SReg) (ty : Ty) (east : Bool) (z : Bool) (s : State) : Out :=
  issue (.drain g a b ty east z) s (fun k => drainBody s k (k.opA a.reg 0 0) (k.opB b.reg 0 0) ty east z)

end Sys2Proof.Machine
end

