-- ==== Sys2Proof/Machine/System.lean ====
section
/-! DEFINITION. Special registers, traps raised by instructions, the register window, the end of a trap, and the start of
a trap stook (06 R115 to R118; 19 R316 to R329; 02 R28, R47). -/
namespace Sys2Proof.Machine

open Sys2Proof

/-! ### SRD and SWR (06 Table 6.2) -/

/-- The 64-bit special registers. -/
def sprWide (r : Spr) : Bool :=
  match r with
  | .cycles | .pennants => true
  | _ => false
/-- A program counter is a multiple of 4 (02 R27). -/
def aligned4 (a : DWord) : DWord := a &&& ~~~(3 : DWord)
/-- The value of a special register in a sheaf. A trap stook has coordinates 0, and the number of the crop that it serves
(DEDUCED, log 54). sr.cycles counts from the cycle in which the core left reset (R116). -/
def sprValue (s : State) (sh : Sheaf) (r : Spr) : Nat :=
  let k := s.stookOf sh
  let c := k.bind s.cropOf
  let main : Bool := sh.serves.isNone
  let co : Nat × Nat × Nat := match main, k, c with
    | true, some k, some c => coordOf c.record k.linear
    | _, _, _ => (0, 0, 0)
  let p := s.part ((c.map (·.part)).getD 0)
  match r with
  | .sheaf => sh.idx
  | .stookX => co.1
  | .stookY => co.2.1
  | .stookZ => co.2.2
  | .crop => ((c.map (·.seq)).getD 0) % 2 ^ 32
  | .width => sh.width
  | .role => sh.role
  | .core => p.ltp.findIdx (· == sh.core)
  | .barn => barnInDie sh.core
  | .die => dieOf sh.core
  | .ncore => p.ltp.length
  | .cycles => (s.clock - Config.skew sh.core) % 2 ^ 64
  | .pennants => ((s.core sh.core).tagsIn sh.uid .ready).toNat
  | .chdepth => (lanesOf sh.live).foldl (fun m l => Nat.max m (sh.lane l).depth) 0
  | .binw => ((k.map (fun k => k.binLen .w)).getD 0)
  | .bina => ((k.map (fun k => k.binLen .a)).getD 0)
  | .binc => ((k.map (fun k => k.binLen .c)).getD 0)
  | .ctx => sh.ctx
  | .prio => sh.prio
/-- SRD; what sr.pennants shows as ready is observed, as a join does (06 R117). -/
def srdBody (s : State) (k : Ctx) (d : SReg) (r : Spr) : Except TrapInfo Done :=
  let v : DWord := BitVec.ofNat 64 (sprValue s k.sh r)
  let x := uniDone s k d (if sprWide r then [loWord v, hiWord v] else [loWord v])
  .ok (match r with
    | .pennants => { x with st := if v = 0 then x.st else x.st.acquire k.sid k.path .st }
    | _ => x)
/-- SWR writes sr.ctx or sr.prio; any other is an illegal encoding (06 R115, R118). -/
def swrBody (s : State) (k : Ctx) (r : Spr) (v : Word) : Except TrapInfo Done :=
  match r with
  | .ctx => .ok { st := s.modSheaf k.sid (fun sh => { sh with ctx := v.toNat % 4096 }) }
  | .prio => .ok { st := s.modSheaf k.sid (fun sh =>
      if v.getLsbD 3 || sh.serves.isSome then sh else { sh with prio := Nat.min (v.toNat % 8) sh.maxPrio }) }
  | _ => .error (k.trap .ill k.path 0)

/-! ### TRAP and BRK (19 R329) -/

/-- They complete, and the trap follows: INFO is the value of A. -/
def afterTrap (s : State) (k : Ctx) (c : Cause) (a : SReg) : Except TrapInfo Done :=
  .ok { st := s, after := some { k.trap c k.e 0 with info := (k.opA a.reg 0 0).zeroExtend 64 } }

/-! ### The register window (19 R324 to R326, Tables 19.5, 19.6) -/

def wordLo (x : DWord) (v : Word) : DWord := hiWord x ++ v
def wordHi (x : DWord) (v : Word) : DWord := v ++ loWord x
/-- One half of a 64-bit word. -/
def halfOf64 (x : DWord) (i : Nat) : Word := if i = 0 then loWord x else hiWord x
def setHalf (x : DWord) (i : Nat) (v : Word) : DWord := if i = 0 then wordLo x v else wordHi x v
def Hold.word (h : Hold) : Word :=
  match h with
  | .none => 0
  | .join m _ _ => BitVec.ofNat 32 (16 * m.val + 1)
  | .waitm m => BitVec.ofNat 32 (16 * m.val + 2)
/-- The hold that a word names, at a JOIN address of a length; none where the word names none. Bits 1:0 of the address are
dropped for the hold, which no rule says of a JOIN address (02 R27, 04 R82; DESIGN CHOICE, log 115). -/
def Hold.ofWord (v : Word) (a : DWord) (len : Nat) : Option Hold :=
  let m := bitsOf v.toNat 4 4
  if h : m < 12 then
    match v.toNat % 4 with
    | 0 => some .none
    | 1 => some (.join ⟨m, h⟩ (aligned4 a) len)
    | 2 => some (.waitm ⟨m, h⟩)
    | _ => Option.none
  else if v.toNat % 4 = 0 then some .none else Option.none
/-- A replay entry that stands in an unused slot. -/
def Replay.empty : Replay := ⟨[0, 0, 0], 0, false, 0, 0, [], 0, 0⟩
def Replay.word (r : Replay) (lane f : Nat) : Word :=
  if f < 3 then r.words.getD f 0
  else if f = 3 then BitVec.ofNat 32 (r.len % 4 + (if r.valid then 2 ^ 31 else 0))
  else if f < 6 then halfOf64 r.e (f - 4)
  else if f < 8 then halfOf64 r.pc (f - 6)
  else if 16 ≤ f then (r.ops.getD lane []).getD (f - 16) 0
  else 0
def setAt (l : List Word) (n k : Nat) (v : Word) : List Word := (List.range n).map (fun i => if i = k then v else l.getD i 0)
def Replay.setWord (r : Replay) (lane f : Nat) (v : Word) : Replay :=
  if f < 3 then { r with words := setAt r.words 3 f v }
  else if f = 3 then { r with len := v.toNat % 4, valid := v.getLsbD 31 }
  else if f < 6 then { r with e := setHalf r.e (f - 4) v }
  else if f < 8 then { r with pc := aligned4 (setHalf r.pc (f - 6) v) }
  else if 16 ≤ f then { r with ops := r.ops.put lane (setAt (r.ops.getD lane []) 16 (f - 16) v) }
  else r
/-- The position of a chaff entry that lies only in memory: k below the top. -/
def Lane.posBelow (l : Lane) (k : Nat) : Option Nat :=
  if k < l.depth ∧ l.chip.length ≤ k then some (l.depth - 1 - k) else none
/-- Whether a selector and a lane name a word of the window. -/
def windowOk (t : Sheaf) (sel lane : Nat) : Bool :=
  let cls := bitsOf sel 12 4
  let f := sel % 4096 % 32
  decide (sel < 65536) && (decide (lane < t.width) || cls == 5 || cls == 6 || (cls == 7 && decide (f < 3)))
/-- A word of the served sheaf, apart from chaff entries in memory. -/
def windowRead (t : Sheaf) (sel lane : Nat) : Word :=
  let ix := sel % 4096
  let l := t.lane lane
  match bitsOf sel 12 4 with
  | 0 => if ix < 2 then halfOf64 l.pc ix else 0
  | 1 => if ix < t.budget then t.vreg ix lane else 0
  | 2 =>
    if ix = 0 then l.preds.zeroExtend 32
    else if ix = 1 then l.hold.word
    else if ix < 4 then halfOf64 l.joinAt (ix - 2)
    else if ix = 4 then BitVec.ofNat 32 l.depth
    else if ix = 5 then (if l.exited then 1 else 0)
    else 0
  | 3 => if ix < 4 then l.latch (BitVec.ofNat 2 ix).toFin else if ix = 4 then l.bvalid.zeroExtend 32 else 0
  | 4 =>
    if 32 ≤ ix then 0
    else match l.chip[ix / 2]? with
      | some e => if ix / 2 < l.depth then (if ix % 2 = 0 then e.payload else e.tag.zeroExtend 32) else 0
      | none => 0
  | 5 => if h : ix / 2 < 12 then halfOf64 (t.mask ⟨ix / 2, h⟩) (ix % 2) else 0
  | 6 => if ix < 24 then t.sreg ix else if ix = 24 then t.q.zeroExtend 32 else 0
  | 7 => if ix < 256 then (t.replay.getD (ix / 32) Replay.empty).word lane (ix % 32) else 0
  | _ => 0
/-- A write through the window, apart from chaff entries in memory; `len` gives the length of a JOIN at an address. A JOIN
address reads back as written, and its hold uses it with bits 1:0 dropped (DESIGN CHOICE, log 115). -/
def windowWrite (len : DWord → Nat) (t : Sheaf) (sel lane : Nat) (v : Word) : Sheaf :=
  let ix := sel % 4096
  match bitsOf sel 12 4 with
  | 0 => if ix < 2 then t.modLane lane (fun l => l.setPc (aligned4 (setHalf l.pc ix v))) else t
  | 1 => if ix < t.budget then t.setVreg ix lane v else t
  | 2 =>
    if ix = 0 then t.modLane lane (fun l => { l with preds := v.setWidth 7 })
    else if ix = 1 then t.modLane lane (fun l => match Hold.ofWord v l.joinAt (len (aligned4 l.joinAt)) with
      | some h => { l with hold := h }
      | none => l)
    else if ix < 4 then t.modLane lane (fun l =>
      let a := setHalf l.joinAt (ix - 2) v
      { l with joinAt := a, hold := match l.hold with | .join m _ _ => .join m (aligned4 a) (len (aligned4 a)) | h => h })
    else if ix = 4 then t.modLane lane (fun l =>
      if v.toNat < l.depth then { l with depth := v.toNat, chip := l.chip.drop (l.depth - v.toNat) } else l)
    else t
  | 4 =>
    if 32 ≤ ix then t
    else t.modLane lane (fun l => { l with chip := l.chip.zipIdx.map (fun (e : ChEntry × Nat) =>
      if e.2 = ix / 2 then (if ix % 2 = 0 then { e.1 with payload := v } else { e.1 with tag := v.setWidth 8 }) else e.1) })
  | 5 => if h : ix / 2 < 12 then t.setMask ⟨ix / 2, h⟩ (setHalf (t.mask ⟨ix / 2, h⟩) (ix % 2) v) else t
  | 6 => if ix < 24 then t.setSreg ix v else if ix = 24 then { t with q := v.setWidth 7 } else t
  | 7 =>
    if 256 ≤ ix then t
    else
      let last := t.replay.foldl (fun n r => Nat.max n r.ord) 0
      let r := t.replay ++ List.replicate (ix / 32 + 1 - t.replay.length) { Replay.empty with ctx := t.ctx, ord := last }
      { t with replay := r.zipIdx.map (fun (e : Replay × Nat) => if e.2 = ix / 32 then e.1.setWord lane (ix % 32) v else e.1) }
  | _ => t
/-- The sheaf that a trap sheaf serves. -/
def State.servedOf (s : State) (sh : Sheaf) : Option (Nat × Sheaf) := sh.serves.bind (fun t => (s.sheaf? t).map (fun x => (t, x)))
/-- A chaff entry that lies only in memory: its lane, and its position. -/
def memEntry (t : Sheaf) (sel lane : Nat) : Option Nat :=
  if bitsOf sel 12 4 = 4 ∧ sel % 4096 < 32 then (t.lane lane).posBelow (sel % 4096 / 2) else none
/-- TWRD; an entry in memory is read at its record, as an access of the served sheaf's context. -/
def twrdBody (i : Instr) (s : State) (k : Ctx) (d : SReg) (sel lane : Nat) : Except TrapInfo Done :=
  match s.servedOf k.sh with
  | none => .ok (uniDone s k d [0])
  | some (_, t) =>
    if !windowOk t sel lane then .ok (uniDone s k d [0])
    else match memEntry t sel lane with
      | none => .ok (uniDone s k d [windowRead t sel lane])
      | some p =>
        match s.xlateLanes (some k.sh.core) t.ctx .read [(64, s.chAddr t lane p)] with
        | (.trap c _ addr, _) => .error (k.trap c k.path addr)
        | (.park l, s) => .ok { st := s.parkAt k i l }
        | (.ok l, s) =>
          match l with
          | (_, _, pa, pte, hd, ho) :: _ =>
            if s.readWaits k.sh.core (s.hostLinkOf k.sid) (pa, 8, pte, hd, ho) then .ok { st := s.parkAt k i [] }
            else if s.peerGone pa then .error { (k.trap .remfail k.path (BitVec.ofNat 64 (pa / 128 * 128))) with fail := [pa / 128 * 128] }
            else
              let (bs, s) := if isPeer pa then s.freeBytes 8 else s.engineRead k.sh.core t.ctx (pa, 8, pte, hd, ho)
              let e := ChEntry.ofBytes bs
              .ok (uniDone s k d [if sel % 2 = 0 then e.payload else e.tag.zeroExtend 32])
          | [] => .ok (uniDone s k d [0])
/-- A write of a register that the operand collector holds empties it (11 R194). -/
def windowTouch (s : State) (tsid sel : Nat) : State :=
  if h : bitsOf sel 12 4 = 1 ∧ sel % 4096 < 96 then s.touchRegs tsid [⟨.v ⟨sel % 4096, h.2⟩, 1⟩] else s
def twwrBody (i : Instr) (s : State) (k : Ctx) (sel lane : Nat) (v : Word) : Except TrapInfo Done :=
  match s.servedOf k.sh with
  | none => .ok { st := s }
  | some (tsid, t) =>
    if !windowOk t sel lane then .ok { st := s }
    else match memEntry t sel lane with
      | none => .ok { st := windowTouch (s.modSheaf tsid (fun t => windowWrite (s.joinLen t.core t.ctx) t sel lane v)) tsid sel }
      | some p =>
        match s.xlateLanes (some k.sh.core) t.ctx .write [(64, s.chAddr t lane p)] with
        | (.trap c _ addr, _) => .error (k.trap c k.path addr)
        | (.park l, s) => .ok { st := s.parkAt k i l }
        | (.ok l, s) =>
          match l with
          | (_, _, pa, pte, hd, ho) :: _ =>
            if s.writeWaits k.sh.core (s.hostLinkOf k.sid) (pa, 8, pte, hd, ho) then .ok { st := s.parkAt k i [] }
            else if s.peerGone pa then .error { (k.trap .remfail k.path (BitVec.ofNat 64 (pa / 128 * 128))) with fail := [pa / 128 * 128] }
            else
              let bs := if sel % 2 = 0 then bytesOf 4 v.toNat else bytesOf 1 v.toNat
              let at_ := if sel % 2 = 0 then pa else pa + 4
              .ok { st := (s.engineWrite k.sh.core t.ctx (at_, bs.length, pte, hd, ho) bs 0).2 }
          | [] => .ok { st := s }

/-! ### The end of a trap (19 R327, R328) -/

/-- The trap sheaf exits. -/
def State.exitTrapSheaf (s : State) (sid : Nat) : State :=
  s.modSheaf sid (fun sh => (sh.modLanes sh.full (fun _ l => { l with exited := true, hold := .none })))
/-- TRES: its release, then the served sheaf resumes, and the trap sheaf exits. -/
def State.advanceTres (s : State) (sid : Nat) (sh : Sheaf) (f : Flight) : State :=
  match s.releaseState sid f.id f.path .st with
  | .waits => s
  | .failed l => (s.clearFailed sid f.path).faultAt sid f .remfail f.path (BitVec.ofNat 64 (l.headD 0)) l
  | .clear =>
    let s := s.publishUpTo (barnOf sh.core) .st
    let s := match sh.serves with
      | some t => s.resume t
      | none => s
    (s.modSheaf sid (fun sh => sh.dropFlight f.id)).exitTrapSheaf sid
def tresBody (i : Instr) (s : State) (k : Ctx) : Except TrapInfo Done :=
  let (fid, s) := s.addFlight k i .waiting true []
  .ok { st := s.tryFlight k.sid fid State.advanceTres, stay := if k.replay.isNone then k.path else 0 }
/-- TKILL: the rick of the served stook is killed, and the trap sheaf exits. -/
def tkillBody (s : State) (k : Ctx) : Except TrapInfo Done :=
  let s := match s.servedOf k.sh with
    | some (_, t) => s.killRickBut t.uid false (some k.sh.uid)
    | none => s
  .ok { st := s.exitTrapSheaf k.sid }

/-! ### Steps of the issue stage that are no instructions (02 R28, R47) -/

def execIllegalEncoding (s : State) : Out :=
  match s.cur with
  | none => .next s
  | some c =>
    .next (s.takeTrap c.sid { code := Cause.ill.code, pc := c.pc, addr := 0, lanes := c.lanes, path := c.lanes, info := 0
                              fetch := false, engine := false, fail := [] } none)
/-- A fetch that failed traps at the path; one that met a fault record parks it at the first word not fetched (R28). -/
noncomputable def execInstructionFetchFault (s : State) : Out :=
  match s.cur with
  | none => .next s
  | some c =>
    if c.recs = [] then (match c.fault with
      | some t => .next (s.takeTrap c.sid t none)
      | none => .next s)
    else
      let at_ := (c.fault.map (·.addr)).getD c.pc
      let (id, s) := s.fresh
      let f : Flight := {
        id := id, ord := id, born := s.clock + 1, instr := .instructionFetchFault, words := [], pc := c.pc, path := c.lanes, e := 0
        ops := [], ctx := ((s.sheaf? c.sid).map (·.ctx)).getD 0, stay := true, stage := .parked c.recs, ready := 0, performed := false
        accs := c.recs.map (fun r => ⟨64, at_, 0, 0, 0, 0, false, [], .sent r⟩) }
      .next (s.modSheaf c.sid (fun sh => { sh with flights := sh.flights ++ [f] }))

/-! ### Trap records and trap stooks (19 R320 to R322) -/

/-- The lowest free record slot of a context. -/
def State.freeSlot (s : State) (ctx : Nat) : Option Nat :=
  (List.range (Nat.min (s.recCount ctx) 256)).find? (fun n => !s.sheaves.any (fun e => e.2.ctx == ctx && e.2.slot == some n))
/-- The core for a trap stook: the trapped sheaf's own, else another of its barn; none that a scan visits. -/
def State.trapCore (s : State) (core : Nat) : Option Nat :=
  let b := barnOf core
  (core :: ((List.range 4).map (· + 4 * b)).filter (fun c => c != core && s.placeable c)).find? (fun c => !(s.core c).scanned && s.room c .trap)
def widthCode (w : Nat) : Nat := if w = 8 then 0 else if w = 16 then 1 else if w = 32 then 2 else 3
/-- The trap record (Table 19.3). -/
def trapRecord (s : State) (sh : Sheaf) (t : TrapInfo) : List Byte :=
  let k := s.stookOf sh
  let c := k.bind s.cropOf
  bytesOf 4 1 ++
  bytesOf 4 (t.code + (if t.fetch then 256 else 0) + (if t.engine then 512 else 0) + 65536 * (sh.replay.filter (·.valid)).length) ++
  bytesOf 4 ((c.map (·.seq)).getD 0) ++ bytesOf 4 ((k.map (·.linear)).getD 0) ++ bytesOf 4 (sh.idx + 256 * widthCode sh.width) ++
  bytesOf 4 sh.ctx ++ bytesOf 8 t.pc.toNat ++ bytesOf 8 t.addr.toNat ++ bytesOf 8 t.lanes.toNat ++ bytesOf 8 t.path.toNat ++
  bytesOf 8 t.info.toNat ++ bytesOf 4 t.fail.length ++ bytesOf 4 0 ++ (List.range 16).flatMap (fun i => bytesOf 8 (t.fail.getD i 0)) ++
  bytesOf 56 0
/-- The trap stook placed on a core, its lanes at the handler, s0:s1 at the record. -/
def State.placeTrap (s : State) (sid : Nat) (sh : Sheaf) (t : TrapInfo) (core : Nat) (record : DWord) : State :=
  let key := ((s.stookOf sh).map (·.crop)).getD 0
  let (uid, s) := s.fresh
  let (tsid, s) := s.fresh
  let s := s.placeOn core
  let watch := s.watches sh.ctx
  let s := s.setSheaf tsid (Sheaf.fresh uid core 0 0 8 32 sh.ctx 8 tsid (aligned4 (BitVec.ofNat 64 (s.handler sh.ctx t.code))) record (some sid) watch)
  s.setStook uid { crop := key, linear := 0, pos := 0, rank := 0, rick := 0, rickSize := 1, redo := 0, cores := [core], wUnits := 0
                   aUnits := 0, cUnits := 0, binW := [], binA := [], binC := [], sheaves := [tsid], round := 0, ranges := [], merge := []
                   parked := false, wakes := [], trapStook := true, killed := false, saved := [], savedOps := [], savedMx := [], park := (0, 0) }
/-- The record is written as a plain write in the trapped sheaf's context; the die is the last writer (12 R391). -/
def State.writeRecord (s : State) (sh : Sheaf) (p : Piece) (bs : List Byte) : State :=
  if isHost p.1 then s.memWrite p.1 bs
  else if isPeer p.1 then (s.addMsg (.peer (barnOf sh.core) 0 0 sh.core p.1 p.2.1 (some bs) none true) []).2
  else (s.homeWrite p.1 bs (.die (dieOf sh.core))).dirtyMark sh.ctx p.2.2.1 p.1 p.2.2.2.1
/-- A trap stook starts once the release of the freeze is complete (R317): the writes of the frozen sheaf are acknowledged,
its barn's gather copies published. -/
def execTrapStookStart (sid : Nat) (s : State) : Out :=
  match s.sheaf? sid with
  | none => .next s
  | some sh =>
    match sh.trap, sh.slot, s.freeSlot sh.ctx, s.trapCore sh.core with
    | some t, none, some slot, some core =>
      if ((s.stookOf sh).map (·.parked)).getD false || s.sheafHeld sh || s.owes sid sh.full || s.gatherHeld (barnOf sh.core) .st then .next s
      else
        let va : DWord := BitVec.ofNat 64 (s.recBase sh.ctx / 256 * 256 + 256 * slot)
        match s.translate none sh.ctx va .write true with
        | (.ok pa pte hd ho, s) =>
          if s.writeWaits sh.core (s.hostLinkOf sid) (pa, 256, pte, hd, true) || (isPeer pa && !s.hasRoute (peerOf pa)) then .next s
          else
            let s := (s.publishUpTo (barnOf sh.core) .st).writeRecord sh (pa, 256, pte, hd, ho) (trapRecord s sh t)
            let s := s.modSheaf sid (fun sh => { sh with slot := some slot })
            .next (s.placeTrap sid sh t core va)
        | (.park _, s) => .next s
        | (_, s) => .next (s.killRick sh.uid false)
    | _, _, _, _ => .next s

/-- 06 R115 to R117. -/
noncomputable def execSrdB32 (g : Pred) (d : SReg) (a : Spr) (s : State) : Out :=
  issue (.srdB32 g d a) s (fun k => srdBody s k d a)
/-- 06 R115 to R117. -/
noncomputable def execSrdX64 (g : Pred) (d : SReg) (a : Spr) (s : State) : Out :=
  issue (.srdX64 g d a) s (fun k => srdBody s k d a)
/-- 06 R115, R118. -/
noncomputable def execSwrB32 (g : Pred) (d : Spr) (a : SReg) (s : State) : Out :=
  issue (.swrB32 g d a) s (fun k => swrBody s k d (k.opA a.reg 0 0))
/-- 06 R115, R118. -/
noncomputable def execSwrX64 (g : Pred) (d : Spr) (a : SReg) (s : State) : Out :=
  issue (.swrX64 g d a) s (fun k => swrBody s k d (k.opA a.reg 0 0))
/-- 19 R329. -/
noncomputable def execTrapB32 (g : Pred) (a : SReg) (s : State) : Out :=
  issue (.trapB32 g a) s (fun k => afterTrap s k .trap a)
/-- 19 R329. -/
noncomputable def execTrapX64 (g : Pred) (a : SReg) (s : State) : Out :=
  issue (.trapX64 g a) s (fun k => afterTrap s k .trap a)
/-- 19 R329. -/
noncomputable def execBrkB32 (g : Pred) (a : SReg) (s : State) : Out :=
  issue (.brkB32 g a) s (fun k => afterTrap s k .brk a)
/-- 19 R329. -/
noncomputable def execBrkX64 (g : Pred) (a : SReg) (s : State) : Out :=
  issue (.brkX64 g a) s (fun k => afterTrap s k .brk a)
/-- 19 R324, R326. -/
noncomputable def execTwrd (g : Pred) (d : SReg) (a : SReg) (b : SReg) (s : State) : Out :=
  issue (.twrd g d a b) s (fun k => twrdBody (.twrd g d a b) s k d (k.opA a.reg 0 0).toNat (k.opB b.reg 0 0).toNat)
/-- 19 R324, R326. -/
noncomputable def execTwwr (g : Pred) (a : SReg) (b : SReg) (c : SReg) (s : State) : Out :=
  issue (.twwr g a b c) s (fun k => twwrBody (.twwr g a b c) s k (k.opA a.reg 0 0).toNat (k.opB b.reg 0 0).toNat (k.opC c.reg 0 0))
/-- 19 R327. -/
noncomputable def execTres (g : Pred) (s : State) : Out :=
  issue (.tres g) s (fun k => tresBody (.tres g) s k)
/-- 19 R328. -/
noncomputable def execTkill (g : Pred) (s : State) : Out :=
  issue (.tkill g) s (fun k => tkillBody s k)

end Sys2Proof.Machine
end

