-- ==== Sys2Proof/Machine/Sched.lean ====
section
/-! DEFINITION. Instruction fetch, the choice of what issues in a cycle, and what the end of a cycle does (02 R27 to R30;
03 R50 to R62, R392; 05 R87). -/
namespace Sys2Proof.Machine

open Sys2Proof

/-! ### Fetch (02 R27, R28, R30) -/

/-- What the fetch of an instruction's words answers. -/
inductive Fetched where
  | words (l : List Word)
  /-- a word could not be fetched: its address, and the first word if that one could -/
  | fail (x : Xl) (at_ : DWord) (first : Option Word)
  /-- the memory of a word does not answer yet, or holds an uncorrectable error -/
  | wait
  | poison
  deriving DecidableEq, Repr

/-- One word. A word in the instruction cache that memory no longer holds is used or read anew, which is free. -/
def State.fetchWord (s : State) (core ctx : Nat) (a : DWord) : Except Fetched Word × State :=
  match s.translate (some core) ctx a .fetch false with
  | (.ok pa pte hd ho, s) =>
    if s.unitWaits (pa, 4, pte, hd, ho) then (.error .wait, s)
    else if s.poisoned pa 4 then (.error .poison, s)
    else
      let m : Word := BitVec.ofNat 32 (s.physNat pa 4)
      let c := s.core core
      let fill (s : State) : State := s.setCore core { s.core core with icache := c.icache.put (pa / 4) m }
      match c.icache.find? (pa / 4) with
      | none => (.ok m, fill s)
      | some w =>
        if w = m then (.ok w, s)
        else
          let (old, s) := s.freeBit
          if old then (.ok w, s) else (.ok m, fill s)
  | (x, s) => (.error (.fail x a none), s)
/-- The words from one address on, in ascending order. -/
def State.fetchMore (s : State) (core ctx : Nat) (a : DWord) (first : Word) : Nat → List Word → Fetched × State
  | 0, got => (.words got, s)
  | n + 1, got =>
    match s.fetchWord core ctx a with
    | (.ok w, s) => s.fetchMore core ctx (a + 4) first n (got ++ [w])
    | (.error (.fail x a _), s) => (.fail x a (some first), s)
    | (.error f, s) => (f, s)
def State.fetch (s : State) (core ctx : Nat) (pc : DWord) : Fetched × State :=
  match s.fetchWord core ctx pc with
  | (.ok w, s) => s.fetchMore core ctx (pc + 4) w ((opLength (opOf w)).getD 4 / 4 - 1) [w]
  | (.error f, s) => (f, s)

/-- What stands at a program counter. -/
inductive Seen where
  | instr (i : Instr)
  /-- a decode condition of Table 2.16, and the pipe it issues on (03 R392) -/
  | bad (uni : Bool)
  | waits
noncomputable def State.look (s : State) (core ctx : Nat) (pc : DWord) : Seen × State :=
  match s.fetch core ctx pc with
  | (.words l, s) =>
    match decode l with
    | .ok i => (.instr i, s)
    | .illegal _ => (.bad ((l.headD 0).getLsbD 31), s)
  | (.fail _ _ first, _) => (.bad ((first.getD 0).getLsbD 31), s)
  | (.wait, _) => (.waits, s)
  | (.poison, _) => (.bad false, s)

/-! ### Blocked lanes (03 R52) -/

def usesOverlap (x y : RegUse) : Bool :=
  match x.base, y.base with
  | .v a, .v b => decide (a.val < b.val + y.count ∧ b.val < a.val + x.count)
  | .s a, .s b => decide (a.val < b.val + y.count ∧ b.val < a.val + x.count)
  | _, _ => false
def isUniReg (x : RegUse) : Bool := match x.base with | .s _ => true | _ => false
/-- LANERD reads a register of any lane (06 R114). -/
def readsOtherLanes (i : Instr) : Bool :=
  match i with
  | .lanerdB32 .. => true
  | .lanerdX64 .. => true
  | _ => false
/-- A register of the instruction i that an instruction j, still to be performed in the lanes of `e`, writes in a lane or for
the whole sheaf. -/
def owesTo (j : Instr) (e : LaneSet) (lane : Nat) (i : Instr) : Bool :=
  j.dsts.any (fun d =>
    ((isUniReg d || e.getLsbD lane) && (i.srcs ++ i.dsts).any (fun u => usesOverlap u d)) ||
    (readsOtherLanes i && i.srcs.any (fun u => usesOverlap u d)))
def Flight.owesReg (f : Flight) (lane : Nat) (i : Instr) : Bool := owesTo f.instr f.e lane i
/-- Instructions that wait for their release before they perform and keep their lanes until then: ordered atomics, as a
FENCE at the instruction would (13 R237, 14 R251), and flag barriers (09 R162, R163). -/
def waitsToRelease (i : Instr) : Bool :=
  match i with
  | .atom .. => true
  | .cas .. => true
  | .aatom .. => true
  | .fbarr .. => true
  | i => (acqScope i).isSome
/-- A flight that holds its lanes: a wait, a parked instruction, a home that holds it, an acquire not yet performed, a store
that waits for the host's half (12 R224). -/
def Flight.holdsLane (f : Flight) (l : Lane) (lane : Nat) : Bool :=
  let recalled := f.accs.any (fun a => (a.lane == 64 || a.lane == lane) && (match a.st with | .recall _ => true | _ => false))
  f.path.getLsbD lane && recalled ||
  match f.stage with
  | .access => (acqScope f.instr).isSome && f.actors.getLsbD lane
  | .releasing => waitsToRelease f.instr && f.actors.getLsbD lane
  | .region => f.path.getLsbD lane || f.accs.any (fun a => a.n == 0)
  | _ => f.path.getLsbD lane && (!f.stay || l.pc == f.pc)
/-- A load or a refill of some lanes is outstanding: a release of theirs does not issue (14 R246); one of the uniform set is a
release of every lane of its path (12 R218). -/
def Sheaf.loadsOut (sh : Sheaf) (m : LaneSet) : Bool :=
  sh.flights.any (fun f => (isLoad f.instr || !(popTags f.instr).isEmpty) && accPending f m)
def laneRelease (i : Instr) : Bool := (relScope i).isSome && publishes i
/-- Unfinished instructions that a freeze could withdraw: at most eight (19 R318). -/
def Sheaf.unfinished (sh : Sheaf) : Nat := (sh.flights.filter (fun f => !f.stay)).length

/-! ### Units that cannot accept an instruction (03 R52) -/

/-- What a path would see as it issues. -/
def State.seen (s : State) (sid : Nat) (sh : Sheaf) (i : Instr) (path : LaneSet) (pc : DWord) (ws : List Word)
    (rep : Option Replay) : Ctx := ctxOf i ⟨sid, path, pc, ws, rep, none, []⟩ sh s.clock
def blockedIn (r : Except TrapInfo Done) : Bool :=
  match r with
  | .ok d => d.blocked
  | .error _ => false
/-- A full queue, or a release that the fork of an engine operation waits for, as the instruction itself finds it. -/
noncomputable def State.unitBusy (s : State) (k : Ctx) (i : Instr) : Bool :=
  match i with
  | .mma _ a b ty east keep af => blockedIn (mmaBody s k a b ty east keep af)
  | .dmma _ a b c ty keep => blockedIn (dmmaBody s k a b c ty keep)
  | .stld _ a b c ty w ab kc af => blockedIn (stldBody s k (k.opA a.reg 0 0) (k.opB b.reg 0 0)
      (match c with | some r => (k.opC r.reg 0 0).toNat | none => 0) ty w ab kc af)
  | .drain _ a b ty east z => blockedIn (drainBody s k (k.opA a.reg 0 0) (k.opB b.reg 0 0) ty east z)
  | .zaccSB32 _ => blockedIn (zaccBody s k false)
  | .zaccEB32 _ => blockedIn (zaccBody s k true)
  | .zaccX64 _ east => blockedIn (zaccBody s k east)
  | .cpy _ t a b c ds ss => blockedIn (copyBody s k t.val 1 (k.pairA a.reg 0) (k.pairB b.reg 0) [k.opC c.reg 0 0] (ds.code + 4 * ss.code))
  | .cpy2 _ t a b c ds ss tr => blockedIn (copyBody s k t.val 2 (k.pairA a.reg 0) (k.pairB b.reg 0)
      ((List.range 4).map (fun j => k.opC (.s c) 0 j)) (ds.code + 4 * ss.code + 16 * tr.code))
  | .cpyh _ t a b c inn abin => blockedIn (copyBody s k t.val 3 (k.pairA a.reg 0) (k.pairB b.reg 0) [k.opC c.reg 0 0]
      ((if inn then 1 else 0) + (if abin then 2 else 0)))
  | .pfl2 _ x a c => blockedIn (pfl2Body s k x (k.pairA a.reg 0) (k.opC c.reg 0 0))
  | .coll .. => s.releaseState k.sid s.nextId k.path .st == .waits
  | .rgnb _ a b c pitch => blockedIn (rgnbBody i s k (k.opA a.reg 0 0) (k.pairB b.reg 0) c pitch)
  | .rfit _ a b c => blockedIn (rfitBody i s k (k.opA a.reg 0 0) b c)
  | _ => false
/-- Whether the unit of an instruction cannot accept it: a decode condition or an empty E needs no unit. -/
noncomputable def State.unitFull (s : State) (k : Ctx) (i : Instr) : Bool :=
  (preCheck i k).isNone && k.e != 0 && (s.unitBusy k i || s.binBlocked k i)

/-! ### Candidates (03 R52, R53, R392) -/

/-- A path that could issue. -/
structure Look where
  sid : Nat
  pc : DWord
  lanes : LaneSet
  uni : Bool
  cls : Option Cls             -- none for a decode condition
  latch : Bool                 -- names a latch
  lockNext : Option DWord      -- where its next instruction stands, if that names a latch (R58)
  rep : Bool
  deriving DecidableEq, Repr

def namesLatch (i : Instr) : Bool := i.srcs.any (fun u => match u.base with | .b _ => true | _ => false)
noncomputable def isBranch (i : Instr) : Bool :=
  match i with
  | .braB32 .. => true
  | .braI64 .. => true
  | .brx .. => true
  | .call .. => true
  | .callx .. => true
  | .retB32 .. => true
  | .retX64 .. => true
  | _ => false
/-- The program counters of lanes that neither exited nor are held, each once, by lowest lane. -/
def Sheaf.pcs (sh : Sheaf) : List (DWord × LaneSet) :=
  (lanesOf sh.live).foldl (fun (l : List (DWord × LaneSet)) i =>
    if (sh.lane i).hold ≠ .none then l
    else
      let pc := (sh.lane i).pc
      if l.any (fun e => e.1 == pc) then l.map (fun e => if e.1 = pc then (pc, e.2 ||| laneBit i) else e) else l ++ [(pc, laneBit i)]) []
noncomputable def State.lockAfter (s : State) (sh : Sheaf) (i : Instr) (pc : DWord) (lanes : LaneSet) : Option DWord :=
  let next := pc + BitVec.ofNat 64 i.form.bytes
  if i.cls = .uniform ∨ (isBranch i = true ∧ guardSet i sh lanes false = lanes) then none
  else match (s.look sh.core sh.ctx next).1 with
    | .instr j => if namesLatch j then some next else none
    | _ => none
/-- A path issues nothing until the home of its RGNB's region has taken the build (24 R369). -/
def State.rgnbHolds (s : State) (sid lane : Nat) : Bool :=
  s.regions.any (fun e => e.2.arrivals.any (fun b => b.sid == sid && b.lanes.getLsbD lane))
/-- The candidate at one program counter. -/
noncomputable def State.lookAt (s : State) (sid : Nat) (sh : Sheaf) (pc : DWord) (at_ : LaneSet) : Option Look × State :=
  let free := laneSetOf sh.width (fun l => at_.getLsbD l && !sh.flights.any (fun f => f.holdsLane (sh.lane l) l) && !s.rgnbHolds sid l)
  if free = 0 ∨ 8 ≤ sh.unfinished then (none, s)
  else match s.look sh.core sh.ctx pc with
    | (.waits, s) => (none, s)
    | (.bad uni, s) => (some ⟨sid, pc, free, uni, none, false, none, false⟩, s)
    | (.instr i, s) =>
      let ok := laneSetOf sh.width (fun l => free.getLsbD l && !sh.flights.any (fun f => f.owesReg l i) &&
        !(laneRelease i && sh.loadsOut (laneBit l)))
      if ok = 0 ∨ s.unitFull (s.seen sid sh i ok pc [] none) i = true then (none, s)
      else (some ⟨sid, pc, ok, i.cls == .uniform, some i.cls, namesLatch i, s.lockAfter sh i pc ok, false⟩, s)
/-- An entry of no effect: not valid, or with no lane left (19 R327). -/
def Replay.dead (r : Replay) (sh : Sheaf) : Bool := !r.valid || r.e &&& sh.live == 0
def Sheaf.dropDead (sh : Sheaf) : Sheaf := { sh with replay := sh.replay.dropWhile (fun r => r.dead sh) }
/-- Every candidate of a sheaf. While it has a replay queue, the queue's head is the only one; until its entries have executed
no other issues (19 R327). -/
noncomputable def State.looks (s : State) (sid : Nat) (sh : Sheaf) : List Look × State :=
  match sh.replay with
  | r :: _ =>
    let held := (lanesOf r.e).any (fun l => sh.flights.any (fun f => !f.stay && f.holdsLane (sh.lane l) l) || s.rgnbHolds sid l)
    let ws := r.words.take r.len
    if held then ([], s)
    else match decode ws with
      | .ok i =>
        let waits := (laneRelease i && sh.loadsOut r.e) || s.unitFull (s.seen sid sh i r.e r.pc ws (some r)) i
        (if waits then [] else [⟨sid, r.pc, r.e, i.cls == .uniform, some i.cls, false, none, true⟩], s)
      | .illegal _ => ([⟨sid, r.pc, r.e, (r.words.headD 0).getLsbD 31, none, false, none, true⟩], s)
  | [] =>
    if sh.resuming then ([], s)
    else sh.pcs.foldl (fun (acc : List Look × State) e =>
      match acc.2.lookAt sid sh e.1 e.2 with
      | (some x, s) => (acc.1 ++ [x], s)
      | (none, s) => (acc.1, s)) ([], s)

/-! ### Arbitration (03 R54 to R58) -/

/-- Insertion before the first element that does not come before. -/
def insertBy {α : Type} (before : α → α → Bool) (x : α) : List α → List α
  | [] => [x]
  | y :: t => if before x y then x :: y :: t else y :: insertBy before x t
def sortBy {α : Type} (before : α → α → Bool) (l : List α) : List α := l.foldl (fun r x => insertBy before x r) []
/-- Steps 2 and 3 of R54: starved sheaves by their waits, then by priority; the older first. -/
def Sheaf.first (uni : Bool) (a b : Sheaf) : Bool :=
  let st (x : Sheaf) : Bool := if uni then x.starvedU else x.starvedL
  let w (x : Sheaf) : Nat := if uni then x.waitU else x.waitL
  if st a && st b then decide (w b < w a ∨ (w a = w b ∧ a.age < b.age))
  else if st a then true
  else if st b then false
  else decide (b.prio < a.prio ∨ (a.prio = b.prio ∧ a.age < b.age))
/-- The path shared by most lanes, ties to the lower address. -/
def bestLook : List Look → Option Look
  | [] => none
  | x :: t => match bestLook t with
    | none => some x
    | some y => if laneCount y.lanes < laneCount x.lanes ∨ (laneCount y.lanes = laneCount x.lanes ∧ x.pc < y.pc) then some x else some y
/-- The candidate that comes next: in a locked cycle a protected latch reader, then a forced program counter, then the
largest. Of several protected readers the one with most lanes comes first, ties to the lower address; a forced program
counter none of whose lanes can issue is passed over: DESIGN CHOICE for both (log 113). -/
def nextLook (lock : List DWord) (forced : List DWord) (l : List Look) : Option Look :=
  let latch := bestLook (l.filter (fun x => x.latch && lock.contains x.pc))
  latch.orElse (fun _ => (forced.findSome? (fun p => l.find? (fun x => x.pc == p))).orElse (fun _ => bestLook l))
/-- A resident sheaf and its candidates. -/
abbrev Ready := Nat × Sheaf × List Look
def Ready.on (r : Ready) (uni : Bool) : List Look := r.2.2.filter (fun x => x.uni == uni)
def Ready.forced (r : Ready) (uni : Bool) : List DWord := if uni then r.2.1.forcedU else r.2.1.forcedL
/-- Whether a sheaf's lock of the previous cycle still holds: a reader that it protects can issue (of several, one is enough:
DESIGN CHOICE, log 113). -/
def Ready.locked (r : Ready) : Bool := (r.on false).any (fun x => x.latch && r.2.1.lock.contains x.pc)
/-- The lead sheaf of a pipe (R54, 04 R80). Where every ready sheaf has yielded in the previous cycle, each is to be passed over for
another, and the first in the usual order leads (DESIGN CHOICE, log 113). -/
def leadOf (uni : Bool) (rs : List Ready) : Option Ready :=
  let ready := rs.filter (fun r => !(r.on uni).isEmpty)
  let order := sortBy (fun a b => Sheaf.first uni a.2.1 b.2.1) ready
  if uni then order.head?
  else match ready.find? (·.locked) with
    | some r => some r
    | none =>
      match order with
      | [] => none
      | r :: t =>
        if r.2.1.starvedL then some r
        else ((r :: t).find? (fun x => !x.2.1.yielded)).orElse (fun _ => some r)
/-- The paths of an unpacked slot (R56). -/
def pathsOf (r : Ready) : List Look :=
  let c := r.on false
  match nextLook r.2.1.lock (r.forced false) c with
  | none => []
  | some x =>
    if x.cls = none then [x]
    else match nextLook r.2.1.lock (r.forced false) (c.filter (fun y => y != x)) with
      | some y => if y.cls = x.cls then [x, y] else [x]
      | none => [x]
/-- Members that join a narrow lead (R57). A sheaf that has yielded keeps its place here: DESIGN CHOICE (log 113). -/
def packOf (lead : Ready) (x : Look) (rs : List Ready) : List Look :=
  let others := sortBy (fun a b => Sheaf.first false a.2.1 b.2.1) (rs.filter (fun r => r.1 != lead.1 && decide (r.2.1.width ≤ 32)))
  (others.foldl (fun (acc : List Look × Nat) r =>
    match nextLook [] (r.forced false) (r.on false) with
    | none => acc
    | some y =>
      if acc.1.length < 8 ∧ acc.2 + r.2.1.width ≤ 64 ∧ y.cls = x.cls ∧ y.lockNext = none ∧ r.locked = false
      then (acc.1 ++ [y], acc.2 + r.2.1.width) else acc) ([x], lead.2.1.width)).1
/-- What fills the lane slot. -/
def laneSlot (rs : List Ready) : List Look :=
  match leadOf false rs with
  | none => []
  | some lead =>
    match nextLook lead.2.1.lock (lead.forced false) (lead.on false) with
    | none => []
    | some x =>
      if lead.2.1.width ≤ 32 ∧ x.cls ≠ none ∧ lead.locked = false ∧ x.lockNext = none then
        match packOf lead x rs with
        | [_] => pathsOf lead
        | l => l
      else pathsOf lead
def uniSlot (rs : List Ready) : List Look :=
  match leadOf true rs with
  | none => []
  | some r => (nextLook [] (r.forced true) (r.on true)).toList

/-! ### Waiting, ageing, forced queues, latches (03 R54, R58, R59; 05 R87) -/

/-- R: the resident sheaves of a core. -/
def State.residentCount (s : State) (core : Nat) : Nat := (s.residents core).length
/-- A sheaf that has waited R cycles is starved. -/
def Sheaf.starve (sh : Sheaf) (r : Nat) (uni : Bool) : Sheaf :=
  if uni then (if r ≤ sh.waitU then { sh with starvedU := true } else sh)
  else if r ≤ sh.waitL then { sh with starvedL := true } else sh
/-- A saturated lane's program counter enters a forced queue unless it stands there. -/
def Sheaf.force (sh : Sheaf) (lane : Nat) (uni : Bool) : Sheaf :=
  let pc := (sh.lane lane).pc
  let q := if uni then sh.forcedU else sh.forcedL
  if (sh.lane lane).age < 15 ∨ q.contains pc then sh
  else if uni then { sh with forcedU := q ++ [pc] } else { sh with forcedL := q ++ [pc] }
/-- One lane ages. -/
def Lane.older (l : Lane) : Lane := { l with age := Nat.min 15 (l.age + 1) }
/-- What a settled cycle leaves of one sheaf on one pipe: its wait, its lanes' ages, its forced queue. -/
def Sheaf.served (sh : Sheaf) (uni : Bool) (t : Turn) : Sheaf :=
  let cand := if uni then t.candU else t.candL
  let out := if uni then t.outU else t.outL
  let pcs := if uni then t.pcsU else t.pcsL
  let ready := cand != 0
  let hit := out != 0
  let sh := if uni then { sh with waitU := if hit then 0 else if ready then sh.waitU + 1 else 0
                                  starvedU := sh.starvedU && ready && !hit }
    else { sh with waitL := if hit then 0 else if ready then sh.waitL + 1 else 0
                   starvedL := sh.starvedL && ready && !hit }
  let left := cand &&& ~~~out
  let sh := sh.modLanes out (fun _ l => { l with age := 0 })
  let sh := if hit then sh.modLanes left (fun _ l => l.older) else sh
  let sh := (lanesOf left).foldl (fun (sh : Sheaf) l => sh.force l uni) sh
  let keep (p : DWord) : Bool := !pcs.contains p && (lanesOf sh.live).any (fun l => (sh.lane l).pc == p)
  if uni then { sh with forcedU := sh.forcedU.filter keep } else { sh with forcedL := sh.forcedL.filter keep }
/-- The end of a slot for a sheaf that took part in the cycle: lanes that did not issue on the lane pipe lose their latches,
the latch readers that stand next are locked for the next cycle alone. -/
def Sheaf.settle (sh : Sheaf) : Sheaf :=
  match sh.turn with
  | none => sh
  | some t =>
    let sh := (sh.served false t).served true t
    let sh := sh.modLanes (sh.full &&& ~~~t.outL) (fun _ l => l.killLatches)
    { sh with lock := if sh.frozen then [] else t.locks, turn := none }
/-- Once nothing more issues in a cycle, its effects on waits, ages, queues, latches and locks are settled. -/
def State.settleTurns (s : State) : State := { s with sheaves := s.sheaves.map (fun (e : Nat × Sheaf) => (e.1, e.2.settle)) }
/-- A sheaf out of arbitration in a cycle (R62, 19 R317): it is not ready, so its waits end, and none of its lanes issues, so
its latches are invalid (05 R87). -/
def Sheaf.outOfTurn (sh : Sheaf) : Sheaf :=
  let sh := sh.modLanes sh.full (fun _ l => l.killLatches)
  { sh with waitL := 0, waitU := 0, starvedL := false, starvedU := false, yielded := false, lock := [] }
/-- A sheaf's turn as a cycle begins. -/
def Sheaf.beginTurn (sh : Sheaf) (lane uni : List Look) : Sheaf :=
  let all (l : List Look) : LaneSet := l.foldl (fun m x => m ||| x.lanes) 0
  { sh with yielded := false, lock := [], turn := some ⟨all lane, all uni, 0, 0, [], [], []⟩ }
/-- A path of a sheaf issues. -/
def Turn.mark (t : Turn) (p : Planned) (lanes : LaneSet) : Turn :=
  let pcs (l : List DWord) : List DWord := if p.rep then l else l ++ [p.pc]
  if p.uni then { t with outU := t.outU ||| lanes, pcsU := pcs t.pcsU }
  else { t with outL := t.outL ||| lanes, pcsL := pcs t.pcsL, locks := t.locks ++ p.lock.toList }
def State.markTurn (s : State) (p : Planned) (lanes : LaneSet) : State :=
  s.modSheaf p.sid (fun sh => { sh with turn := sh.turn.map (fun t => t.mark p lanes) })

/-- The plan of one core for a cycle. A core that has not left reset plans nothing (06 R116; log 107). -/
noncomputable def State.planCore (s : State) (core : Nat) : List Planned × State :=
  let rs := s.residents core
  let idle (e : Nat × Sheaf) : Bool := e.2.frozen || s.sheafHeld e.2 || decide (s.clock < Config.skew core)
  let s := (rs.filter idle).foldl (fun s e => s.setSheaf e.1 e.2.outOfTurn) s
  let (ls, s) := (rs.filter (fun e => !idle e)).foldl (fun (acc : List Ready × State) e =>
    let sh := ((e.2.starve rs.length false).starve rs.length true).dropDead
    let (l, s) := acc.2.looks e.1 sh
    (acc.1 ++ [(e.1, sh, l)], s)) ([], s)
  let s := ls.foldl (fun (s : State) (r : Ready) => s.setSheaf r.1 (r.2.1.beginTurn (r.on false) (r.on true))) s
  ((laneSlot ls ++ uniSlot ls).map (fun x => ⟨x.sid, x.lanes, x.pc, x.uni, x.rep, x.lockNext⟩), s)
/-- Cores with resident sheaves, in a free order. -/
def shuffle : Nat → Nat → List Nat → List Nat
  | 0, _, l => l
  | f + 1, t, l =>
    match l[Config.choice t % l.length]? with
    | none => l
    | some c => c :: shuffle f (t + 1) (l.filter (· != c))
def State.busyCores (s : State) : List Nat :=
  s.sheaves.foldl (fun (l : List Nat) e => if e.2.core < 352 ∧ ¬ l.contains e.2.core then l ++ [e.2.core] else l) []
/-- The plan of a cycle. -/
noncomputable def State.planCycle (s : State) : State :=
  let l := s.busyCores
  let order := shuffle l.length s.tick l
  let (slot, s) := order.foldl (fun (acc : List Planned × State) c =>
    let (p, s) := acc.2.planCore c
    (acc.1 ++ p, s)) ([], { s with tick := s.tick + l.length })
  { s with slot := slot }

/-- STARVED as a step of its own. -/
def execStarved (sid : Nat) (uni : Bool) (s : State) : Out :=
  match s.sheaf? sid with
  | none => .next s
  | some sh => if sh.frozen then .next s else .next (s.setSheaf sid (sh.starve (s.residentCount sh.core) uni))
/-- FORCED_QUEUE_ENTRY as a step of its own: the pipe is that of the lane's next instruction. -/
noncomputable def execForcedQueueEntry (sid lane : Nat) (s : State) : Out :=
  match s.sheaf? sid with
  | none => .next s
  | some sh =>
    if sh.frozen || !sh.live.getLsbD lane then .next s
    else match (s.look sh.core sh.ctx (sh.lane lane).pc).1 with
      | .instr i => .next (s.setSheaf sid (sh.force lane (i.cls == .uniform)))
      | .bad uni => .next (s.setSheaf sid (sh.force lane uni))
      | .waits => .next s

/-! ### The end of a cycle -/

/-- A parked instruction whose records are answered: it takes its place in the replay queue, or its lanes issue it again
(16 R283, 19 R318). -/
def State.unpark (s : State) (sid : Nat) (f : Flight) : State :=
  s.modSheaf sid (fun sh => sh.withdraw f)
/-- One attempt at a flight. -/
noncomputable def State.advanceFlight (s : State) (sid : Nat) (sh : Sheaf) (f : Flight) : State :=
  match f.stage with
  | .parked recs => if recs.isEmpty then s.unpark sid f else s
  | .region => s.advanceRegion sid sh f
  | _ =>
    match f.instr with
    | .ldg .. => s.advanceMem sid f.id
    | .ldgSigned .. => s.advanceMem sid f.id
    | .ldgU .. => s.advanceMem sid f.id
    | .stg .. => s.advanceMem sid f.id
    | .stgU .. => s.advanceMem sid f.id
    | .phend .. => s.advanceMem sid f.id
    | .fence .. => s.advanceFence sid f.id
    | .atom .. => s.advanceAtomic sid f.id
    | .cas .. => s.advanceAtomic sid f.id
    | .red .. => s.advanceAtomic sid f.id
    | .wake .. => s.advanceAtomic sid f.id
    | .waita .. => (s.advanceAtomic sid f.id).tryFlight sid f.id (fun s sid _ f => s.releaseReady sid f)
    | .aatom .. => s.advanceFbarr sid f.id f
    | .fbarr .. => s.advanceFbarr sid f.id f
    | .fbwait .. => s.fbReady sid f
    | .pwaitAnyB32 .. => s.advancePwait sid sh f
    | .pwaitAllB32 .. => s.advancePwait sid sh f
    | .pwaitX64 .. => s.advancePwait sid sh f
    | .mxacqB32 .. => s.advanceMx sid sh f
    | .mxacqX64 .. => s.advanceMx sid sh f
    | .mxrelB32 .. => s.advanceMx sid sh f
    | .mxrelX64 .. => s.advanceMx sid sh f
    | .mxwaitB32 .. => s.advanceMx sid sh f
    | .mxwaitX64 .. => s.advanceMx sid sh f
    | .tkwaitB32 .. => s.advanceTk sid sh f
    | .tkwaitX64 .. => s.advanceTk sid sh f
    | .tkpassB32 .. => s.advanceTk sid sh f
    | .tkpassX64 .. => s.advanceTk sid sh f
    | .tres .. => s.advanceTres sid sh f
    | .launch .. => s.advanceLaunch sid sh f
    | .ccwaitB32 .. => s.advanceCc sid sh f
    | .ccwaitX64 .. => s.advanceCc sid sh f
    | .barB32 .. => if f.ready = 0 then s.barFail sid sh f else s.barLeave sid f
    | .barX64 .. => if f.ready = 0 then s.barFail sid sh f else s.barLeave sid f
    | _ => s.advanceRefill sid f.id
/-- Every flight of a resident sheaf in order; the waits of a frozen sheaf stand still, and those of one that resumes
(19 R327; of a release other than WAITA's R317 says nothing: DESIGN CHOICE, log 129). -/
noncomputable def State.advanceSheaf (s : State) (sid : Nat) : State :=
  match s.sheaf? sid with
  | none => s
  | some sh =>
    if 352 ≤ sh.core then s
    else (sh.flights.map (·.id)).foldl (fun s id =>
      s.tryFlight sid id (fun s sid sh f => if (sh.frozen || sh.resuming || s.sheafHeld sh) && f.stay then s else s.advanceFlight sid sh f)) s
/-- A resumed sheaf whose replay entries have executed ends its resume. -/
def State.resumeTurn (s : State) (sid : Nat) : State :=
  match s.sheaf? sid with
  | some sh => if sh.resumed && decide (sh.core < 352) && !s.sheafHeld sh then s.resumeEnd sid else s
  | none => s
/-- The release checks of JOIN and WAITM. -/
def State.releaseSheaf (s : State) (sid : Nat) : State :=
  match s.sheaf? sid with
  | none => s
  | some sh => if 352 ≤ sh.core then s else s.setSheaf sid (releaseHolds sh)

/-- A sheaf whose lanes have exited and whose instructions have ended, none of them in a trap (19 R389): its phases close, its thresher is released once its
operations have ended, with the release at .ST that MXREL makes (11 R186), and it leaves its slot (11 R184, 12 R229,
17 R297). -/
def State.reap (s : State) (sid : Nat) : State :=
  match s.sheaf? sid with
  | none => s
  | some sh =>
    if sh.live ≠ 0 ∨ sh.flights ≠ [] ∨ sh.frozen = true ∨ 352 ≤ sh.core then s
    else
      let t := (s.core sh.core).mx
      if t.uses sid then s
      else
        let s := s.closePhases sid
        if t.owner = some sid then
          let s := s.publishUpTo (barnOf sh.core) .st
          if s.owes sid sh.full || s.gatherHeld (barnOf sh.core) .st then s
          else
            let s := (s.modMx sh.core (fun t => { t with coll := none })).mxRelease sh.core
            { s with sheaves := s.sheaves.erase sid }
        else { s with sheaves := s.sheaves.erase sid }
/-- Tags of a stook with no sheaf left return to IDLE when they are READY (10 R171). -/
def State.idleTags (s : State) (uid : Nat) (k : Stook) : State :=
  if (s.sheavesOf k).isEmpty then
    k.cores.foldl (fun s c => s.setCore c { s.core c with tags := (s.core c).tags.map (fun t =>
      if t.2.holder = some uid ∧ t.2.st = .ready then (t.1, Tag.idle) else t) }) s
  else s
/-- A stook's share of the end of a cycle: its barrier, its merge buffer, which fills at free moments, its tags. -/
def State.stookTurn (s : State) (uid : Nat) : State :=
  let s := s.barTry uid
  match s.stook? uid with
  | none => s
  | some k =>
    let (full, s) := if k.merge.isEmpty then (false, s) else s.freeBit
    let s := if full || (s.sheavesOf k).isEmpty then s.mergeFlush uid else s
    s.idleTags uid k
/-- Running copies of a core move on at free moments (03 R394). -/
def State.wainTurn (s : State) (core : Nat) : State :=
  ((s.core core).wainRun.map (·.id)).foldl (fun s n =>
    let (go, s) := s.freeBit
    if go then (match List.find? (fun o => o.id == n) (s.core core).wainRun with
      | some o => s.wainBeat core o
      | none => s) else s) s
/-- An access translated in a context, of a name below one, that has not been performed yet (16 R282). -/
def State.accessing (s : State) (ctx before : Nat) : Bool :=
  let open_ (l : List Nat) : Bool := l.any (fun m => (s.msgs.find? m).isSome)
  let mine (sid : Nat) : Bool := ((s.sheaf? sid).map (fun sh => sh.ctx == ctx)).getD false
  s.sheaves.any (fun e => e.2.flights.any (fun f => f.ctx == ctx && decide (f.id < before) &&
    (f.stage == .access || f.stage == .releasing) && f.accs.any (fun a => match a.st with | .done _ => false | _ => true))) ||
  s.msgs.any (fun m => match m.2.msg with
    | .reg _ _ _ _ c _ false => c == ctx
    | .atomic _ _ _ _ _ _ c .. => c == ctx
    | .pfl _ _ c .. => c == ctx
    | .peer _ sid _ _ _ _ (some _) .. => mine sid || m.2.waiters.any (fun w => mine w.1)
    | _ => false) ||
  s.barns.any (fun b => b.2.gather.any (fun g => g.2.ctx == ctx)) ||
  s.cores.any (fun c => (c.2.wainRun ++ c.2.wainQ).any (fun o => o.ctx == ctx && (s.wainReading o || open_ (o.written.map (·.1))))) ||
  s.colls.any (fun o => o.ctx == ctx && open_ o.written)
/-- An invalidation is complete once the accesses translated before it are performed. -/
def State.invTurn (s : State) : State :=
  { s with trans := { s.trans with invctx := s.trans.invctx.filter (fun e => s.accessing e.1 e.2) } }
/-- The end of a cycle. -/
noncomputable def State.endCycle (s : State) : State :=
  let sids := s.sheaves.map (·.1)
  let s := sids.foldl (fun s sid => s.releaseSheaf sid) s
  let s := sids.foldl (fun s sid => s.advanceSheaf sid) s
  let s := sids.foldl (fun s sid => s.resumeTurn sid) s
  let s := sids.foldl (fun s sid => s.reap sid) s
  let s := sids.foldl (fun s sid => s.grantTurn sid) s
  let s := (s.stooks.map (·.1)).foldl (fun s uid => s.stookTurn uid) s
  let s := (s.cores.map (·.1)).foldl (fun s c => (s.wainTurn c).mxTurn c) s
  let s := (s.regions.map (·.1)).foldl (fun s key => s.payRegion key) s
  let s := (s.queues.map (·.1)).foldl (fun s q => s.readDeps q) s
  let s := s.cropSweep.payOwed.invTurn
  { s with clock := s.clock + 1 }

/-! ### What issues -/

/-- The instruction that a planned path issues, with the state in which it does: the fetched one, an illegal encoding, or
a fetch that failed; none where nothing issues any more: the sheaf has frozen (19 R319), another path of the slot has taken
the last place of a queue. -/
noncomputable def State.issueOf (s : State) (p : Planned) : Option Instr × State :=
  match s.sheaf? p.sid with
  | none => (none, s)
  | some sh =>
    if sh.frozen then (none, s)
    else if p.rep then
      match sh.replay with
      | [] => (none, s)
      | r :: _ =>
        let ws := r.words.take r.len
        let go (s : State) : State :=
          { (s.markTurn p r.e).modSheaf p.sid (fun sh => sh.modLanes r.e (fun _ l => l.killLatches)) with
            cur := some ⟨p.sid, r.e, r.pc, ws, some r, none, []⟩ }
        if r.dead sh then (none, s)
        else match decode ws with
          | .ok i => if s.unitFull (s.seen p.sid sh i r.e r.pc ws (some r)) i then (none, s) else (some i, go s)
          | .illegal _ => (some .illegalEncoding, go s)
    else
      let lanes := laneSetOf sh.width (fun l => p.lanes.getLsbD l && !(sh.lane l).exited && (sh.lane l).pc == p.pc)
      if lanes = 0 ∨ 8 ≤ sh.unfinished then (none, s)
      else
        let fault (c : Cause) (a : DWord) : Option TrapInfo :=
          some { code := c.code, pc := p.pc, addr := a, lanes := lanes, path := lanes, info := 0, fetch := true, engine := false, fail := [] }
        let go (s : State) (ws : List Word) (f : Option TrapInfo) (recs : List Nat) : State :=
          { s.markTurn p lanes with cur := some ⟨p.sid, lanes, p.pc, ws, none, f, recs⟩ }
        match s.fetch sh.core sh.ctx p.pc with
        | (.words ws, s) =>
          (match decode ws with
          | .ok i => if s.unitFull (s.seen p.sid sh i lanes p.pc ws none) i then (none, s) else (some i, go s ws none [])
          | .illegal _ => (some .illegalEncoding, go s ws none []))
        | (.fail (.park r) a _, s) => (some .instructionFetchFault, go s [] (fault .xlat a) [r])
        | (.fail .perm a _, s) => (some .instructionFetchFault, go s [] (fault .perm a) [])
        | (.fail _ a _, s) => (some .instructionFetchFault, go s [] (fault .xlat a) [])
        | (.poison, s) => (none, s.rickError sh.uid)
        | (.wait, s) => (none, s)


end Sys2Proof.Machine
end

