-- ==== Sys2Proof/Machine/Pages.lean ====
section
/-! DEFINITION. What the host writes into the control pages: fields that store a value, the fault queue, the answers to
fault records, the masks of interrupts (00 R387; 16 R282 to R284, R388; 17 R287; 19 R333; 20 R342). -/
namespace Sys2Proof.Machine

open Sys2Proof

/-! ### Fields (00 R387) -/

/-- A write of `n` bytes at an offset of a page. -/
structure PageWrite where
  off : Nat
  n : Nat
  value : Nat
  deriving DecidableEq, Repr

/-- A write that a page can take: of 1, 2, 4 or 8 bytes, aligned. -/
def PageWrite.ok (w : PageWrite) : Bool := (w.n == 1 || w.n == 2 || w.n == 4 || w.n == 8) && decide (w.off % w.n = 0)
/-- The value of a field of `n` bytes at an offset after the write; none where the write does not touch it. -/
def PageWrite.field (w : PageWrite) (off n old : Nat) : Option Nat :=
  if w.off < off + n ∧ off < w.off + w.n then
    let old := bytesOf n old
    let new := bytesOf w.n w.value
    some (natOfBytes ((List.range n).map (fun i =>
      if w.off ≤ off + i ∧ off + i < w.off + w.n then new.getD (off + i - w.off) 0 else old.getD i 0)))
  else none
/-- The bits written as 1 to a field. -/
def PageWrite.ones (w : PageWrite) (off n : Nat) : Nat := (w.field off n 0).getD 0
/-- The field's value: as it was, or as a setter takes the new one. -/
def PageWrite.upd (w : PageWrite) (off n old : Nat) (f : Nat → Nat) : Nat :=
  match w.field off n old with
  | some v => f v
  | none => old
/-- An address stated as a multiple of n. -/
def aligned (n v : Nat) : Nat := v / n * n
/-- A size stated as a power of two within a range; another value leaves the field as it is. -/
def sizeField (lo hi old v : Nat) : Nat := if lo ≤ v ∧ v ≤ hi ∧ (List.range 17).any (fun k => v == 2 ^ k) then v else old
def dword (v : Nat) : DWord := BitVec.ofNat 64 v
def word (v : Nat) : Word := BitVec.ofNat 32 v

/-- The reliability control page is visible to the host without running firmware (21 R361, R362). -/
def State.relVis (s : State) : Bool := s.rel.ready.getLsbD 30 && s.fabric.hostUp.headD false

/-- The translation control page: CTXBASE and FQHEAD; the other fields have steps of their own. -/
def TransPage.write (t : TransPage) (w : PageWrite) : TransPage :=
  { t with
    ctxbase := dword (w.upd 0x00 8 t.ctxbase.toNat (aligned 262144))
    fqhead := word (w.upd 0x18 4 t.fqhead.toNat id) }
/-- The registers of a queue: QBASE, QSIZE and QCTL, ignored while ENABLE is set (17 Table 17.2). -/
def LQueue.write (q : LQueue) (base : Nat) (w : PageWrite) : LQueue :=
  if q.enable then q
  else { q with
    base := dword (w.upd base 8 q.base.toNat (aligned 128))
    size := word (w.upd (base + 8) 4 q.size.toNat (sizeField 2 4096 q.size.toNat))
    ctl := word (w.upd (base + 12) 4 q.ctl.toNat id) &&& 0x0FFF1F0F }
/-- A partition's entry of the launch control page: its mask and its page's address (17 R293). -/
def Part.writeEntry (p : Part) (base : Nat) (w : PageWrite) : Part :=
  { p with
    maskReg := w.upd base 11 p.maskReg id
    pageReg := dword (w.upd (base + 16) 8 p.pageReg.toNat (aligned 4096)) }
def State.writeLaunch (s : State) (w : PageWrite) : State :=
  if w.off < 4096 then s.setQueue (w.off / 64) ((s.queue (w.off / 64)).write (w.off / 64 * 64) w)
  else if w.off < 4096 + 512 then
    let p := (w.off - 4096) / 32
    s.setPart p ((s.part p).writeEntry (4096 + 32 * p) w)
  else s
/-- A partition's entry of the trap control page. A write that makes TSLICE nonzero starts the slice (19 R333). -/
def Part.writeTrap (p : Part) (base clock : Nat) (w : PageWrite) : Part :=
  let ts := w.upd (base + 24) 4 p.tslice.toNat id
  let starts := decide (p.tslice = 0 ∧ ts ≠ 0)
  { p with
    parkBase := dword (w.upd base 8 p.parkBase.toNat (aligned 4096))
    parkSize := dword (w.upd (base + 8) 8 p.parkSize.toNat id)
    sarea := dword (w.upd (base + 16) 8 p.sarea.toNat (aligned 4096))
    tslice := word ts
    slimit := word (w.upd (base + 28) 4 p.slimit.toNat id)
    sliceFrom := if starts then clock else p.sliceFrom
    armed := starts || (p.armed && decide (ts ≠ 0))
    sliceDue := p.sliceDue && decide (ts ≠ 0) }
/-- The trap control page: TVBASE, PAREA and PLIMIT; bits of PDONE cleared by writing 1. -/
def TrapPage.write (t : TrapPage) (w : PageWrite) : TrapPage :=
  { t with
    tvbase := dword (w.upd 0x000 8 t.tvbase.toNat (aligned 1048576))
    parea := dword (w.upd 0x010 8 t.parea.toNat (aligned 4096))
    plimit := dword (w.upd 0x018 8 t.plimit.toNat id)
    pdone := t.pdone &&& ~~~(word (w.ones 0x020 4)) }
def State.writeTrap (s : State) (w : PageWrite) : State :=
  if 0x100 ≤ w.off ∧ w.off < 0x300 then
    let p := (w.off - 0x100) / 32
    s.setPart p ((s.part p).writeTrap (0x100 + 32 * p) s.clock w)
  else { s with trapPage := s.trapPage.write w }
/-- The fabric control page: the clash bit of LINKCTL, cleared by writing 1. -/
def FabricPage.write (f : FabricPage) (w : PageWrite) : FabricPage :=
  { f with clash := f.clash && w.ones 0x004 4 % 2 == 0 }
/-- The reliability control page: OVERTEMP and RETIRED, cleared by writing 1; ATTNONCE, ignored while a report is being
made; ATTADDR (21 R364). -/
def RelPage.write (r : RelPage) (w : PageWrite) : RelPage :=
  { r with
    overtemp := r.overtemp && w.ones 0x014 4 % 2 == 0
    retired := r.retired && w.ones 0x014 4 / 2 % 2 == 0
    attnonce := if r.attctl = 1 then r.attnonce else
      (List.range 4).flatMap (fun k => bytesOf 8 (w.upd (0x200 + 8 * k) 8 (fieldNat r.attnonce (8 * k) 8) id))
    attaddr := dword (w.upd 0x220 8 r.attaddr.toNat (aligned 4096)) }
/-- A write by the host to a field of a control page that has no step of its own. -/
def execRegisterWrite (page : Page) (offset size : Nat) (value : DWord) (s : State) : Out :=
  let w : PageWrite := ⟨offset, size, value.toNat % 2 ^ (8 * size)⟩
  if !w.ok then .next s
  else match page with
    | .translation => if s.hostVis then .next { s with trans := s.trans.write w } else .next s
    | .launch => if s.hostVis then .next (s.writeLaunch w) else .next s
    | .trap => if s.hostVis then .next (s.writeTrap w) else .next s
    | .fabric => if s.hostVis then .next { s with fabric := s.fabric.write w } else .next s
    | .reliability => if s.relVis && !s.rel.overtemp then .next { s with rel := s.rel.write w } else .next s

/-! ### The fault queue (16 R283, R388) -/

/-- A write of FQBASE or FQSIZE that changes its value restarts the queue; what has been written is not written again. -/
def execFaultQueueReconfig (offset size : Nat) (value : DWord) (s : State) : Out :=
  let w : PageWrite := ⟨offset, size, value.toNat % 2 ^ (8 * size)⟩
  let t := s.trans
  let base := dword (w.upd 0x08 8 t.fqbase.toNat (aligned 4096))
  let sz := word (w.upd 0x10 4 t.fqsize.toNat (sizeField 64 65536 t.fqsize.toNat))
  if !w.ok || !s.hostVis || (base == t.fqbase && sz == t.fqsize) then .next s
  else .next { s with trans := { t with fqbase := base, fqsize := sz, fqtail := 0, fqhead := 0 } }
/-- The oldest record that waits for a slot is written. -/
def State.writeWaiting (s : State) : State :=
  match s.trans.recs.find? (fun r => !r.written) with
  | some r => if s.fqOpen then s.writeRec r else s
  | none => s
def execFaultRecordDeferred (s : State) : Out := .next s.writeWaiting

/-! ### ANSWER (16 R284) -/

/-- A record gone from a list of those that something is parked on. -/
def without (id : Nat) (l : List Nat) : List Nat := l.filter (· != id)
/-- A retried record leaves the parked instructions of a sheaf. -/
def Flight.retry (id : Nat) (f : Flight) : Flight :=
  match f.stage with
  | .parked recs => { f with stage := .parked (without id recs) }
  | _ => f
/-- The lanes of a parked instruction that wait on a record. -/
def Flight.waitsOn (f : Flight) (id : Nat) : LaneSet :=
  f.accs.foldl (fun m a => if a.st == .sent id then m ||| accLanes f a else m) 0
/-- The address that a declined record gives the trap of an instruction parked on it: the page's (16 R284); at a fetch
that of the first word not fetched (02 R28), at a descriptor the descriptor's (15 R271). -/
noncomputable def Flight.declinedAt (f : Flight) (id page : Nat) : DWord :=
  let own : DWord := ((f.accs.find? (fun a => a.st == .sent id)).map (·.va)).getD (BitVec.ofNat 64 (4096 * page))
  match f.instr with
  | .instructionFetchFault => own
  | .fld .. => own
  | .fst .. => own
  | .rgnb .. => own
  | .rfit .. => own
  | .rgnq .. => own
  | _ => BitVec.ofNat 64 (4096 * page)
/-- A declined record raises XLAT at an instruction parked on it, at a fetch with its flag. A sheaf that is already frozen
takes no second trap: it meets the fault again once it has resumed. -/
noncomputable def State.declineFlight (s : State) (sid id page : Nat) (sh : Sheaf) (f : Flight) : State :=
  match f.instr with
  | .instructionFetchFault =>
    let s := s.modSheaf sid (fun sh => sh.dropFlight f.id)
    if sh.frozen then s
    else s.takeTrap sid { code := Cause.xlat.code, pc := f.pc, addr := f.declinedAt id page, lanes := f.path, path := f.path
                          info := 0, fetch := true, engine := false, fail := [] } none
  | _ => s.faultAt sid f .xlat (f.waitsOn id) (f.declinedAt id page) []
noncomputable def State.declineFlights (s : State) (sid id page : Nat) : State :=
  let fs := (((s.sheaf? sid).map (·.flights)).getD []).filter (fun f => match f.stage with | .parked recs => recs.contains id | _ => false)
  (fs.map (·.id)).foldl (fun s fid => s.tryFlight sid fid (fun s sid sh f => s.declineFlight sid id page sh f)) s
/-- A copy parked on a record of a page: it goes on, or ends with CAUSE 1 (10 R173). Bytes that it holds back for the page are
not written then, and do not count. -/
def WainOp.answer (o : WainOp) (id page : Nat) (decline : Bool) : WainOp :=
  if o.recs.contains id then
    let o := { o with recs := without id o.recs }
    if decline then
      ({ o with stopped := if o.stopped = 0 then 1 else o.stopped } : WainOp).lose (fun off => decide (o.dstSpace = 0) && vpn (o.dst + BitVec.ofNat 64 off) == page)
    else o
  else o
/-- A step of a collective parked on a record: it goes on, or ends with the bytes that it has written (20 R351; DEDUCED,
log 45: with CAUSE 1 as a copy). -/
def CollOp_.answer (o : CollOp_) (id : Nat) (decline : Bool) : CollOp_ :=
  if o.recs.contains id then { o with recs := without id o.recs, fin := if decline then some (1, o.done) else o.fin } else o
/-- A queue parked on a record: its ring's slot or a counter of its taken record. -/
def State.answerQueue (s : State) (qn id : Nat) (decline : Bool) : State :=
  let q := s.queue qn
  if q.recs.contains id then
    if decline then s.setQueue qn ({ q with recs := [] }.advance.reject 9) else s.setQueue qn { q with recs := [] }
  else match q.taken with
    | none => s
    | some t =>
      if t.recs.contains id then
        if decline then (s.setQueue qn { q with taken := none }).rejectRec qn 13 t.record
        else (s.setQueue qn { q with taken := some { t with recs := [] } }).readDeps qn
      else s
/-- A completion block parked on a record: written later, or never. -/
def State.answerOwed (s : State) (id : Nat) (decline : Bool) : State :=
  let gone := s.owed.filter (fun o => decline && o.recs.contains id)
  let s := { s with owed := (s.owed.filter (fun o => !(decline && o.recs.contains id))).map (fun (o : Owed) => { o with recs := without id o.recs }) }
  gone.foldl (fun s o => s.irqOf o.fn o.irq) s
/-- A build, a refit or a counter that these owe, parked on a record: a declined decrement is not performed (15 R263). -/
def State.answerRegion (s : State) (key id : Nat) (decline : Bool) : State :=
  match s.regions.find? key with
  | none => s
  | some r =>
    let onBuild : Bool := (r.build.map (fun b => b.recs.contains id)).getD false
    let onRefit : Bool := (r.refit.map (fun x => x.recs.contains id)).getD false
    let onOwed : Bool := r.owedRecs.contains id
    let r' : Region := { r with owedRecs := without id r.owedRecs, owed := if decline && onOwed then r.owed.tail else r.owed }
    let s := if onOwed then { s with regions := s.regions.put key r' } else s
    if decline && onBuild then s.buildEnd key 8
    else if decline && onRefit then s.refitAbandon key 2
    else { s with regions := s.regions.put key { r' with
      build := r.build.map (fun b => { b with recs := without id b.recs })
      refit := r.refit.map (fun x => { x with recs := without id x.recs }) } }
/-- A declined record of chaff that a pre-emption or a scan writes for a sheaf: the entries on its page are lost (DESIGN CHOICE,
log 61). -/
def State.declineSpills (s : State) (r : FaultRec) : State :=
  let moving (sh : Sheaf) : Bool := s.sheafHeld sh || ((s.stookOf sh).map (fun k => (s.rickOf k).any (fun e => e.2.cores.any (fun c => (s.core c).scanned)))).getD false
  (s.sheaves.filter (fun e => e.2.ctx == r.ctx && moving e.2)).foldl (fun s e =>
    s.modSheaf e.1 (fun sh => sh.modLanes sh.full (fun i l =>
      if l.chip.zipIdx.any (fun x => vpn (s.chAddr sh i (l.depth - 1 - x.2)) == r.page) then { l with chip := [] } else l))) s
/-- The host's answer to a record: retry or decline; an ID that names no outstanding record is ignored. -/
noncomputable def execAnswer (value : DWord) (s : State) : Out :=
  let id := value.toNat % 2 ^ 32
  let decline := value.getLsbD 32
  match s.trans.recs.find? (fun r => r.id == id) with
  | none => .next s
  | some r =>
    if !s.hostVis then .next s
    else
      let s := { s with trans := { s.trans with recs := s.trans.recs.filter (fun x => x.id != id) } }
      let sids := s.sheaves.map (·.1)
      let s := if decline then (sids.foldl (fun s sid => s.declineFlights sid id r.page) s).declineSpills r else s
      let s := sids.foldl (fun s sid => s.modSheaf sid (fun sh => { sh with flights := sh.flights.map (·.retry id) })) s
      let ops (l : List WainOp) : List WainOp := l.map (fun o => o.answer id r.page decline)
      let run (c : Core) : Core := { c with wainRun := ops c.wainRun, wainQ := ops c.wainQ }
      let kept (k : Stook) : Stook := { k with savedOps := k.savedOps.map (fun o => (o.1, o.2.answer id r.page decline)) }
      let s := { s with
        cores := s.cores.map (fun (e : Nat × Core) => (e.1, run e.2))
        stooks := s.stooks.map (fun (e : Nat × Stook) => (e.1, kept e.2))
        colls := s.colls.map (fun (o : CollOp_) => o.answer id decline)
        pfl2 := (s.pfl2.filter (fun (o : Pfl2Op) => !(decline && o.recs.contains id))).map (fun (o : Pfl2Op) => { o with recs := without id o.recs }) }
      let s := (s.queues.map (·.1)).foldl (fun s q => s.answerQueue q id decline) s
      let s := (s.regions.map (·.1)).foldl (fun s k => s.answerRegion k id decline) s
      .next (s.answerOwed id decline)

/-! ### INVCTX (16 R282) -/

/-- Every cached translation of a context is dropped, and its cached context entry. -/
def dropTlb (ctx : Nat) (t : KV TlbEnt) : KV TlbEnt := t.filter (fun e => e.1 / 2 ^ 40 != ctx)
/-- A write of INVCTX drops the context's entries at once, so that a later access walks again; it is complete when the
accesses translated before are performed, and a further write meanwhile is done as well. -/
def execInvctx (ctx : Nat) (s : State) : Out :=
  if !s.hostVis || 4096 ≤ ctx then .next s
  else .next { s with
    cores := s.cores.map (fun e => (e.1, { e.2 with tlb := dropTlb ctx e.2.tlb }))
    barns := s.barns.map (fun e => (e.1, { e.2 with tlb := dropTlb ctx e.2.tlb }))
    trans := { s.trans with
      ctxCache := s.trans.ctxCache.erase ctx
      invctx := s.trans.invctx ++ (if s.accessing ctx s.nextId then [(ctx, s.nextId)] else []) } }
/-- INVCTX as the host reads it: all ones when it is idle (Table 16.4). -/
def TransPage.invReg (t : TransPage) : Word :=
  match t.invctx with
  | [] => 0xFFFFFFFF
  | e :: _ => BitVec.ofNat 32 e.1

/-! ### MSI-X (20 R342) -/

/-- Unmasking sends a pending message once. The function's table is visible while its host link is (21 R361, R362). -/
def execMsixUnmask (fn vector : Nat) (s : State) : Out :=
  let f := s.fabric
  if vectors fn ≤ vector ∨ 32 < fn ∨ f.msiOpen.contains (fn, vector) = true ∨ s.fnVis fn = false then .next s
  else
    let sent := if f.msiPend.contains (fn, vector) then (fn, vector) :: f.msiSent else f.msiSent
    .next { s with fabric := { f with
      msiOpen := f.msiOpen ++ [(fn, vector)], msiPend := f.msiPend.filter (· != (fn, vector)), msiSent := sent } }
/-- The host masks some vector again, whichever it likes: no row of the opcode table is this step, so that it is taken
freely (log 77). -/
def State.maskVector (s : State) : State :=
  let f := s.fabric
  match f.msiOpen[Config.choice s.tick % f.msiOpen.length]? with
  | some v => { s with tick := s.tick + 1, fabric := { f with msiOpen := f.msiOpen.filter (· != v) } }
  | none => s

end Sys2Proof.Machine
end

