-- ==== Sys2Proof/Machine/Fabric.lean ====
section
/-! DEFINITION. Links, routes, collective groups and COLL (20 R340 to R353). -/
namespace Sys2Proof.Machine

open Sys2Proof

/-! ### Bruvas links and routes (20 R344, R345) -/

def execBruvasLinkDown (link : Nat) (s : State) : Out :=
  let l := s.link link
  if 18 ≤ link ∨ ¬ l.up then .next s
  else
    let s := s.setLink link { l with up := false, fails := Nat.min 1023 (l.fails + 1) }
    .next (({ s with fabric := { s.fabric with recompute := true } } : State).raise 0 3)
/-- A link comes up at a port that has passed bring-up, unless the device numbers clash: clearing the clash bit of
LINKCTL does not end that (R344). -/
def execBruvasLinkUp (link peer peerLink : Nat) (s : State) : Out :=
  let l := s.link link
  if 18 ≤ link ∨ l.up ∨ s.fabric.unusable ∨ s.rel.ready.getLsbD (12 + link) = false ∨ 512 ≤ peer ∨ 32 ≤ peerLink then .next s
  else
    let s := s.setLink link { l with up := true, peer := peer, peerLink := peerLink }
    .next (({ s with fabric := { s.fabric with recompute := true } } : State).raise 0 3)

/-! ### Steps of a collective (20 R346 to R352) -/

/-- Two elements combined (R349): floating point rounds to nearest in the type, integers wrap, a NaN operand of a
minimum or maximum gives the canonical NaN. -/
def combine (op : CollOp) (ty : Ty) (a b : Nat) : Nat :=
  let bits := ty.bits
  let sgn (x : Nat) : Int := if x < 2 ^ (bits - 1) then (x : Int) else (x : Int) - 2 ^ bits
  let below : Bool := match ty with
    | .s32 => decide (sgn b < sgn a)
    | .s64 => decide (sgn b < sgn a)
    | _ => decide (b < a)
  let float : Bool := ty == .f32 || ty == .bf16
  match op with
  | .add => if float then (fmtOf ty).addVal .rn ((fmtOf ty).val a) ((fmtOf ty).val b) else (a + b) % 2 ^ bits
  | .min => if float then minmax ty true (fun x y => !Num.Val.below y x) a b else if below then b else a
  | .max => if float then minmax ty true (fun x y => !Num.Val.below x y) a b else if below then a else b
  | .or => Nat.lor a b
/-- The children of a rank in the tree (R346). -/
def childrenOf (n fanout r : Nat) : List Nat := ((List.range fanout).map (fun k => fanout * r + 1 + k)).filter (fun c => decide (c < n))
/-- The value of the subtree of a rank; `src r` is the rank's own element. -/
def treeValue (op : CollOp) (ty : Ty) (n fanout : Nat) (src : Nat → Nat) : Nat → Nat → Nat
  | 0, r => src r
  | f + 1, r => (childrenOf n fanout r).foldl (fun v c => combine op ty v (treeValue op ty n fanout src f c)) (src r)
/-- What a member writes: nothing, or the elements of rank 0's source, or those of the tree's value. -/
def CollOp_.result (o : CollOp_) (g : Group) (sources : List Byte) : Option (List Byte) :=
  let e := o.ty.bits / 8
  let elem (k r : Nat) : Nat := fieldNat sources (r * o.count + k * e) e
  let all (f : Nat → Nat) : List Byte := (List.range (o.count / e)).flatMap (fun k => bytesOf e (f k))
  match o.kind with
  | .bc => some (all (fun k => elem k 0))
  | .ar => some (all (fun k => treeValue o.op o.ty g.nmemb g.fanout (elem k) g.nmemb 0))
  | .red => if g.rank = 0 then some (all (fun k => treeValue o.op o.ty g.nmemb g.fanout (elem k) g.nmemb 0)) else none

/-- The bytes of a range as they stand now in local memory and the host's, read without a record; none where some page cannot be
had. -/
def State.peek (s : State) (core ctx va n : Nat) : Option (List Byte) :=
  (pieces va n).foldl (fun (acc : Option (List Byte)) p =>
    match acc, (s.probe (some core) ctx p.1).1 with
    | some l, .ok pa _ _ _ => if isPeer pa then some l
        else some (l ++ (if isHost pa then Machine.memRead s.mem pa p.2 else (s.barn (barnOf core)).overlay pa (s.cohRead pa p.2)))
    | _, _ => none) (some [])

/-- COLL at issue (R348): the checks in order, then the step has its number. -/
def collBody (s : State) (k : Ctx) (tag : Nat) (dst src : DWord) (count : Nat) (ty : Ty) (op : CollOp) (kind : CollKind)
    (grp : Nat) : Except TrapInfo Done :=
  let g := s.group grp
  let st := s.stookOf k.sh
  let c := st.bind s.cropOf
  let e := ty.bits / 8
  let part := c.map (·.part)
  if !(s.core k.sh.core).tagFree k.sh.uid tag then .error (k.trap .perm k.path 0)
  else if g.flags % 2 = 0 ∨ part ≠ some (bitsOf g.flags 1 4) ∨ g.ctx ≠ k.ctx then .error (k.trap .perm k.path 0)
  else if 1048576 < count then .error (k.trap .perm k.path 0)
  else if dst.toNat % e ≠ 0 then .error (k.trap .align k.path dst)
  else if src.toNat % e ≠ 0 ∨ count % e ≠ 0 then .error (k.trap .align k.path src)
  else
    let refused : Bool := match st, c with
      | some st, some c => decide (0 < count) && st.storeRefused c dst.toNat count
      | _, _ => false
    if refused then .error (k.trap .wrange k.path dst)
    else forkRelease s k (fun s =>
      let (id, s) := s.fresh
      let o : CollOp_ := {
        id := id, core := k.sh.core, uid := k.sh.uid, sid := k.sid, ctx := k.ctx, tag := tag, dst := dst, src := src
        count := count, ty := ty, op := op, kind := kind, group := grp, seq := g.seq.toNat, rebuilds := 0, recs := []
        token := s.tokenOf k.sh, snap := s.peek k.sh.core k.ctx src.toNat count, given := [], torn := false, fin := none, written := [], out := none, done := 0 }
      let s := s.setGroup grp { g with seq := g.seq + 1 }
      let s := s.tagBusy k.sh.core k.sh.uid tag 5
      if count = 0 then .ok { st := s.tagReady k.sh.core k.sh.uid tag 5 0 0 }
      else .ok { st := { s with colls := s.colls ++ [o] } })

def State.modColl (s : State) (id : Nat) (f : CollOp_ → CollOp_) : State :=
  { s with colls := s.colls.map (fun o => if o.id = id then f o else o) }
/-- A step that ends with the bytes that it has written. With CAUSE 5 its destination bytes beyond the count are unspecified
(R351); with CAUSE 6 it has written none. -/
def State.collStop (s : State) (o : CollOp_) (cause : Nat) : State :=
  let s := if cause = 5 then s.scrambleRange o.core o.ctx (o.dst.toNat + o.done) (o.count - o.done) else s
  s.modColl o.id (fun o => { o with fin := some (cause, o.done), recs := [] })
/-- A step that has ended makes its tag READY once its writes are acknowledged (R349, 10 R172). -/
def State.collEnd (s : State) (id : Nat) : State :=
  match s.colls.find? (fun o => o.id == id) with
  | none => s
  | some o =>
    match o.fin with
    | none => s
    | some (cause, count) =>
      if o.written.all (fun m => (s.msgs.find? m).isNone) then
        let s := if o.torn then s.scrambleRange o.core o.ctx o.dst.toNat count else s
        let s := { s with colls := s.colls.filter (fun x => x.id != id) }
        (s.tagReady o.core o.uid o.tag 5 cause count).watchEngine o.sid o.tag [(o.src.toNat, o.count), (o.dst.toNat, count)]
      else s
/-- Between any two steps of the device a member sees whether its source still is as it first read it: a change from issue until
the tag is READY leaves its result free (R350). A write that leaves the bytes as they were at the end of its step, or of the
cycle, is none (DESIGN CHOICE, log 134). -/
def State.collWatch (s : State) : State :=
  if s.colls.isEmpty then s
  else { s with colls := s.colls.map (fun o => match o.snap, s.peek o.core o.ctx o.src.toNat o.count with
    | some a, some b => if a = b then o else { o with torn := true }
    | none, some b => { o with snap := some b }
    | _, none => o) }
/-- A member's own source: read here, or at the peer in whose memory it stands, whose answer is among the sources. -/
def State.collSource (s : State) (o : CollOp_) : List Piece → List Byte → List Byte × State
  | [], _ => ([], s)
  | p :: r, own =>
    let (a, s) := if isPeer p.1 then (own.take p.2.1, s) else s.engineRead o.core o.ctx p
    let (b, s) := State.collSource s o r (own.drop p.2.1)
    (a ++ b, s)
/-- Whether a step's destination overlaps its source, by their addresses or through two addresses of one page (R350). -/
def State.collOverlaps (s : State) (o : CollOp_) (src : List Piece) : Bool :=
  decide (o.dst.toNat < o.src.toNat + o.count ∧ o.src.toNat < o.dst.toNat + o.count) ||
  match (s.translateAll (some o.core) o.ctx .write true (pieces o.dst.toNat o.count)).1 with
  | .ok dst => dst.any (fun d => src.any (fun p => decide (d.1 < p.1 + p.2.1 ∧ p.1 < d.1 + d.2.1)))
  | _ => false
/-- The combination of a step: `peers` holds every rank's source in rank order, of which this member's own part is the
source as it stands here. What a source that has changed since the issue or one that the destination overlaps gives is free
(R350). -/
def State.collCombine (s : State) (o : CollOp_) (peers : List Byte) : State :=
  let g := s.group o.group
  if peers.length ≠ g.nmemb * o.count then s
  else match s.translateAll (some o.core) o.ctx .read true (pieces o.src.toNat o.count) with
    | (.error (.park r, _), s) => s.modColl o.id (fun o => { o with recs := [r] })
    | (.error _, s) => s.collStop o 8
    | (.ok src, s) =>
      if src.any (s.readWaits o.core (s.fnUp (s.fnOf o.uid))) then s
      else if src.any s.noRoute then s.collStop o 2
      else if src.any (fun p => s.poisoned p.1 p.2.1) then s.rickError o.uid
      else
        let now := s.peek o.core o.ctx o.src.toNat o.count
        let (own, s) := s.collSource o src ((peers.drop (g.rank * o.count)).take o.count)
        let all := peers.take (g.rank * o.count) ++ own ++ peers.drop ((g.rank + 1) * o.count)
        match o.result g all with
        | none => s.modColl o.id (fun o => { o with fin := some (0, 0) })
        | some bs =>
          let changed : Bool := o.torn || (o.snap.isSome && o.snap != now) || s.collOverlaps o src
          let (bs, s) := if changed then s.freeBytes bs.length else (bs, s)
          s.modColl o.id (fun o => { o with out := some bs, done := 0 })
/-- A range of virtual addresses cut at 64-byte halves of lines. -/
def halvesAt (fuel va n : Nat) : List (DWord × Nat) :=
  match fuel with
  | 0 => []
  | f + 1 =>
    if n = 0 then []
    else
      let here := Nat.min n (64 - va % 64)
      (BitVec.ofNat 64 va, here) :: halvesAt f (va + here) (n - here)
/-- The result is written from its first byte not yet written, half line by half line, until it waits, parks on a page's
record (16 R283) or meets a page that it cannot have, which ends the step with CAUSE 8. -/
def State.collWrite (s : State) (id : Nat) (bs : List Byte) : List (DWord × Nat) → State
  | [] => s.modColl id (fun o => { o with fin := some (0, bs.length) })
  | (va, n) :: r =>
    match s.colls.find? (fun o => o.id == id) with
    | none => s
    | some o =>
      match s.translate (some o.core) o.ctx va .write true with
      | (.park rec, s) => s.modColl id (fun o => { o with recs := [rec] })
      | (.ok pa pte hd ho, s) =>
        if s.writeWaits o.core (s.fnUp (s.fnOf o.uid)) (pa, n, pte, hd, ho) then s
        else if s.noRoute (pa, n, pte, hd, ho) then s.collStop o 2
        else
          let (ms, s) := s.engineWrite o.core o.ctx (pa, n, pte, hd, ho) ((bs.drop o.done).take n) id
          (s.modColl id (fun o => { o with done := o.done + n, written := o.written ++ ms })).collWrite id bs r
      | (_, s) => s.collStop o 8
/-- What is left to do of a step whose result stands. -/
def State.collGo (s : State) (id : Nat) : State :=
  match s.colls.find? (fun o => o.id == id) with
  | none => s
  | some o =>
    match o.out, o.fin with
    | some bs, none =>
      if o.recs ≠ [] then s
      else s.collWrite id bs (halvesAt (bs.length / 64 + 2) (o.dst.toNat + o.done) (bs.length - o.done))
    | _, _ => s
/-- A step goes on towards its end: combined and written, ended with CAUSE 5 or 6 by its members, or its writes are
acknowledged. The sources that the members exchanged stay with it, so that a step that waits or has parked goes on by itself. -/
def execCollStepComplete (id : Nat) (peers : List Byte) (cause : Nat) (s : State) : Out :=
  match s.colls.find? (fun o => o.id == id) with
  | none => .next s
  | some o =>
    let given := if cause = 0 ∧ o.given = [] ∧ peers.length = (s.group o.group).nmemb * o.count then peers else o.given
    let s := s.modColl id (fun o => { o with given := given })
    if o.recs ≠ [] ∨ s.ctxHeld o.ctx = true then .next s
    else if o.fin.isSome then .next (s.collEnd id)
    else if cause = 0 then .next (((if o.out.isSome then s else s.collCombine o given).collGo id).collEnd id)
    else if cause = 5 ∨ cause = 6 ∧ o.out = none then .next ((s.collStop o cause).collEnd id)
    else .next s

/-- A step of a group an edge of whose tree a failed link carried is replayed whole by every member, until its rebuilds are
used up (R351). -/
def State.collRebuild (s : State) (o : CollOp_) : State :=
  if o.fin.isSome then s
  else
    let g := s.group o.group
    if g.retry ≤ o.rebuilds then (s.collStop o 5).collEnd o.id
    else (s.setGroup o.group { g with rebuilds := g.rebuilds + 1 }).modColl o.id (fun o =>
      { o with rebuilds := o.rebuilds + 1, given := [], out := none, done := 0, recs := [] })
/-- Firmware recomputes the routes after some link of the domain, of this device or of another, has gone down or up (R345). It
says which devices are reached now, and of which groups a failed link carried an edge. -/
def execRouteRecompute (reach : Reach) (s : State) : Out :=
  let up := (List.range 18).any (fun k => (s.link k).up)
  let routes := if up then reach.devices.filter (fun d => decide (d < 512) && d != s.fabric.devnum) else []
  let s := { s with fabric := { s.fabric with routes := routes, recompute := false } }
  .next ((s.colls.filter (fun o => reach.broken.contains o.group)).foldl (fun s o => s.collRebuild o) s)

/-- A write of a group table entry (Table 20.5). Setting VALID starts its counts; clearing it completes every pending step
of the entry with CAUSE 5 (R352). -/
def Group.write (g : Group) (w : PageWrite) : Group :=
  let flags := w.upd 0x0E 2 g.flags (fun v => v % 32)
  let starts := decide (g.flags % 2 = 0 ∧ flags % 2 = 1)
  { g with
    members := dword (w.upd 0x00 8 g.members.toNat id)
    nmemb := w.upd 0x08 2 g.nmemb id
    rank := w.upd 0x0A 2 g.rank id
    fanout := w.upd 0x0C 1 g.fanout id
    retry := w.upd 0x0D 1 g.retry (fun v => v % 16)
    flags := flags
    ctx := w.upd 0x10 4 g.ctx (fun v => v % 4096)
    seq := if starts then 0 else g.seq
    rebuilds := if starts then 0 else g.rebuilds }
def execGroupEntryWrite (entry offset size : Nat) (value : DWord) (s : State) : Out :=
  let w : PageWrite := ⟨offset, size, value.toNat % 2 ^ (8 * size)⟩
  if !w.ok || !s.hostVis || 256 ≤ entry || 32 ≤ offset then .next s
  else
    let g := s.group entry
    let g' := g.write w
    let s := s.setGroup entry g'
    if g.flags % 2 = 1 ∧ g'.flags % 2 = 0 then
      .next ((s.colls.filter (fun o => o.group == entry && o.fin.isNone)).foldl (fun s o => (s.collStop o 5).collEnd o.id) s)
    else .next s

/-! ### Host links (20 R341; 12 R224) -/

def State.setHostLink (s : State) (link : Nat) (up : Bool) : State :=
  { s with fabric := { s.fabric with hostUp := (List.range 2).map (fun k => if k = link then up else s.fabric.hostUp.getD k false) } }
/-- A CPYH that has not ended stops with CAUSE 2. -/
def WainOp.hostGone (o : WainOp) : WainOp := if o.kind = 3 ∧ o.cursor < o.total ∧ o.stopped = 0 then { o with stopped := 2 } else o
/-- The host's half of a line is lost: its words are owner-lost (12 R224). -/
def State.loseHalf (s : State) (line half : Nat) : State :=
  let h := s.home line
  if h.held.getLsbD half then
    let s := ((List.range 16).map (· + 32 * line + 16 * half)).foldl (fun s wa => s.loseWord wa) s
    let h := s.home line
    let m : BitVec 2 := BitVec.ofNat 2 (2 ^ half)
    s.setHome line { h with held := h.held &&& ~~~m, heldMod := h.heldMod &&& ~~~m }
  else s
/-- Half-held lines lose their host half: all of them with link 0, to which the physical function is bound. Which of them the
host holds by link 1 is not said: with that link each is lost or not, freely (DESIGN CHOICE, log 114). -/
def State.loseHost (s : State) (all : Bool) : State :=
  let half (s : State) (line n : Nat) : State :=
    let (go, s) := s.freeBit
    if all || go then s.loseHalf line n else s
  (s.homes.filter (fun e => e.2.held != 0)).foldl (fun s e => half (half s e.1 0) e.1 1) s
/-- A host link goes down: the CPYH operations of the functions bound to it stop, running, queued or parked. -/
def execHostLinkDown (link : Nat) (s : State) : Out :=
  if 2 ≤ link ∨ s.fabric.hostUp.getD link false = false then .next s
  else
    let stop (o : WainOp) : WainOp := if s.linkOfFn (s.fnOf o.uid) = link then o.hostGone else o
    let core (c : Core) : Core := { c with wainRun := c.wainRun.map stop, wainQ := c.wainQ.map stop }
    let kept (k : Stook) : Stook := { k with savedOps := k.savedOps.map (fun o => (o.1, stop o.2)) }
    let t := s.setHostLink link false
    let t : State := { t with
      cores := t.cores.map (fun (e : Nat × Core) => (e.1, core e.2))
      stooks := t.stooks.map (fun (e : Nat × Stook) => (e.1, kept e.2)) }
    .next (t.loseHost (link == 0))
/-- A host link is trained again: fault records that waited for it are written. -/
def execHostLinkUp (link : Nat) (s : State) : Out :=
  if 2 ≤ link ∨ s.fabric.hostUp.getD link false = true ∨ s.rel.ready.getLsbD (30 + link) = false then .next s
  else
    let s := s.setHostLink link true
    .next (s.trans.recs.foldl (fun s _ => s.writeWaiting) s)

/-- 20 R347 to R349. -/
noncomputable def execColl (g : Pred) (t : Fin 64) (a : SReg) (b : SReg) (c : SReg) (ty : Ty) (op : CollOp) (kind : CollKind) (grp : Fin 256)
    (s : State) : Out :=
  issue (.coll g t a b c ty op kind grp) s (fun k =>
    collBody s k t.val (k.pairA a.reg 0) (k.pairB b.reg 0) (k.opC c.reg 0 0).toNat ty op kind grp.val)

end Sys2Proof.Machine
end

