-- ==== Sys2Proof/Machine/Area.lean ====
section
/-! DEFINITION. The records of a context area and of a park area as bytes: crop, thresher, stook and sheaf records, what
is read back from them, and the wake condition of a sheaf (11 R204, R205; 19 R331, R336 to R339). -/
namespace Sys2Proof.Machine

open Sys2Proof

/-! ### Images -/

/-- A block of `n` bytes made of pieces at offsets, zero elsewhere. -/
def image (n : Nat) (ps : List (Nat × List Byte)) : List Byte :=
  ps.foldl (fun (l : List Byte) p => (l.take p.1 ++ p.2 ++ l.drop (p.1 + p.2.length)).take n) (List.replicate n 0)
def roundUp (n m : Nat) : Nat := (n + m - 1) / m * m

/-! ### Engine operations (19 Table 19.15) -/

/-- The place of an operation's sheaf in its stook: an exited sheaf keeps its number. -/
def Stook.ixOf (k : Stook) (sid : Nat) : Nat := k.sheaves.findIdx (· == sid)
/-- Flags of a saved operation: the spec names the word and not its bits (log 46). -/
def opFlags (ctx ix core stopped : Nat) (token : Bool) : Nat :=
  ctx % 4096 + ix % 16 * 65536 + (if token then 2 ^ 20 else 0) + core % 2 * 2 ^ 21 + stopped % 16 * 2 ^ 24
def WainOp.bytes (o : WainOp) (k : Stook) (core : Nat) : List Byte :=
  bytesOf 4 (255 + o.kind) ++ bytesOf 4 o.tag ++ bytesOf 8 o.dst.toNat ++ bytesOf 8 o.src.toNat ++ bytesOf 4 o.count ++ bytesOf 4 o.rows ++
  bytesOf 4 o.ss ++ bytesOf 4 o.ds ++ bytesOf 4 o.w3 ++ bytesOf 4 (opFlags o.ctx (k.ixOf o.sid) core o.stopped o.token) ++
  bytesOf 8 o.cursor ++ bytesOf 8 0
/-- A step of a collective: its step number stands in N, its rebuilds in SS. -/
def CollOp_.bytes (o : CollOp_) (k : Stook) (core : Nat) : List Byte :=
  bytesOf 4 304 ++ bytesOf 4 o.tag ++ bytesOf 8 o.dst.toNat ++ bytesOf 8 o.src.toNat ++ bytesOf 4 o.count ++ bytesOf 4 o.seq ++
  bytesOf 4 o.rebuilds ++ bytesOf 4 0 ++ bytesOf 4 (o.group + 256 * o.kind.code + 1024 * o.op.code + 16384 * o.ty.code) ++
  bytesOf 4 (opFlags o.ctx (k.ixOf o.sid) core 0 o.token) ++ bytesOf 8 0 ++ bytesOf 8 0
/-- What a saved operation is. -/
inductive SavedOp where
  | wain (core : Nat) (o : WainOp)
  | coll (core : Nat) (o : CollOp_)
/-- An operation read back for a stook; none where the entry holds none. -/
def SavedOp.ofBytes (bs : List Byte) (uid : Nat) (sids : List Nat) : Option SavedOp :=
  let f (off n : Nat) : Nat := fieldNat bs off n
  let xop := f 0 4
  let flags := f 0x2C 4
  let sid := sids.getD (bitsOf flags 16 4) 0
  let core := bitsOf flags 21 1
  let dst : DWord := BitVec.ofNat 64 (f 8 8)
  let src : DWord := BitVec.ofNat 64 (f 16 8)
  if 256 ≤ xop ∧ xop ≤ 258 then
    some (.wain core {
      id := 0, uid := uid, sid := sid, tag := f 4 4 % 64, kind := xop - 255, ctx := flags % 4096, dst := dst, src := src, count := f 0x18 4
      rows := f 0x1C 4, ss := f 0x20 4, ds := f 0x24 4, w3 := f 0x28 4, cursor := f 0x30 8, recs := [], stopped := bitsOf flags 24 4
      written := [], token := flags.testBit 20, held := [], seen := [] })
  else if xop = 304 then
    let w := f 0x28 4
    match Ty.dec (bitsOf w 14 5), CollOp.dec (bitsOf w 10 4), CollKind.dec (bitsOf w 8 2) with
    | some ty, some op, some kind =>
      some (.coll core {
        id := 0, core := 0, uid := uid, sid := sid, ctx := flags % 4096, tag := f 4 4 % 64, dst := dst, src := src, count := f 0x18 4
        ty := ty, op := op, kind := kind, group := w % 256, seq := f 0x1C 4, rebuilds := f 0x20 4, recs := [], token := flags.testBit 20
        snap := none, given := [], torn := false, fin := none, written := [], out := none, done := 0 })
    | _, _, _ => none
  else none

/-! ### Stook records (19 Table 19.15) -/

/-- The tag of a stook with a number on the core with a place. -/
def State.tagAt (s : State) (uid : Nat) (k : Stook) (i t : Nat) : Tag :=
  if k.parked then k.saved.getD (64 * i + t) .idle else
    match k.cores[i]? with
    | some c => (s.core c).tagSeen uid t
    | none => .idle
/-- The tag that the record shows: of a stook on a pair, the even core's where it holds the number (log 47). -/
def State.tagSaved (s : State) (uid : Nat) (k : Stook) (t : Nat) : Tag :=
  if (s.tagAt uid k 0 t).st = .idle then s.tagAt uid k 1 t else s.tagAt uid k 0 t
def State.tagMask (s : State) (uid : Nat) (k : Stook) (f : TagState → Bool) : Nat := (laneSetOf 64 (fun t => f (s.tagSaved uid k t).st)).toNat
/-- Copies that a stook has queued, running or stopped, with their core's place. -/
def State.opsOf (s : State) (uid : Nat) (k : Stook) : List (Nat × WainOp) :=
  k.savedOps ++ (if k.parked then [] else k.cores.zipIdx.flatMap (fun e =>
    ((s.core e.1).wainRun ++ (s.core e.1).wainQ).filterMap (fun o => if o.uid = uid then some (e.2, o) else none)))
/-- Its collective steps. -/
def State.collsOf (s : State) (uid : Nat) : List CollOp_ := s.colls.filter (fun o => o.uid == uid)
def allotBytes (m : KV Byte) (units : Nat) : List Byte := memRead m 0 (4096 * units)
def Stook.binsWord (k : Stook) : Nat := k.wUnits + 256 * k.aUnits + 65536 * k.cUnits
/-- The sheaves of a stook that have arrived at its barrier. -/
def State.arrivedMask (s : State) (k : Stook) : Nat :=
  k.sheaves.zipIdx.foldl (fun n e => match s.sheaf? e.1 with
    | some sh => if sh.live ≠ 0 ∧ sh.flights.any (fun f => isBar f.instr) ∧ s.barArrived e.1 sh = true then n + 2 ^ e.2 else n
    | none => n) 0
def State.stookRecord (s : State) (cropIx uid : Nat) (k : Stook) : List Byte :=
  let ops := (s.opsOf uid k).map (fun e => e.2.bytes k e.1) ++
    ((s.collsOf uid).map (fun o => o.bytes k (k.cores.findIdx (· == o.core))))
  image 2048 ([(0, bytesOf 4 cropIx ++ bytesOf 4 k.linear ++ bytesOf 4 (k.rank % 4 + (if k.parked then 256 else 0)) ++ bytesOf 4 k.binsWord ++
      bytesOf 4 (s.sheavesOf k).length ++ bytesOf 4 (s.arrivedMask k) ++ bytesOf 8 (s.tagMask uid k (· != .idle)) ++ bytesOf 8 (s.tagMask uid k (· == .ready))),
    (0x40, (List.range 64).flatMap (fun t => bytesOf 4 (s.tagSaved uid k t).count ++ bytesOf 4 (s.tagSaved uid k t).word.toNat)),
    (0x240, (ops.take 16).flatten)]) ++
  allotBytes k.binW k.wUnits ++ allotBytes k.binA k.aUnits ++ allotBytes k.binC k.cUnits
def Stook.recordLen (k : Stook) : Nat := 2048 + 4096 * (k.wUnits + k.aUnits + k.cUnits)
/-- A tag read back. -/
def tagOf (bs : List Byte) (uid t : Nat) : Tag :=
  let w := fieldNat bs (0x44 + 8 * t) 4
  let st : TagState := if w % 4 = 1 then .busy else if w % 4 = 2 then .ready else .idle
  if st = .idle then .idle else ⟨st, some uid, bitsOf w 12 20, bitsOf w 8 4, fieldNat bs (0x40 + 8 * t) 4⟩
/-- Bytes of a bin as a sparse map. -/
def binOfBytes (bs : List Byte) : KV Byte := memWrite [] 0 bs

/-! ### Wake conditions (19 Table 19.10) -/

/-- A PWAIT's mask. -/
def isPwait (i : Instr) : Bool :=
  match i with
  | .pwaitAnyB32 .. => true
  | .pwaitAllB32 .. => true
  | .pwaitX64 .. => true
  | _ => false
/-- The row of Table 19.10 that a flight waits in, with its argument. -/
def Flight.wake (f : Flight) : Option (Nat × Nat) :=
  let va := (f.accs.headD ⟨64, 0, 0, 0, 0, 0, false, [], .queued⟩).va.toNat
  match f.stage with
  | .parked recs => some (7, recs.headD 0)
  | .access => if isLoad f.instr && f.accs.any (fun a => isPeer a.pa) then some (6, va) else none
  | .waiting =>
    if isPwait f.instr then some (2, f.pwaitMask.toNat)
    else match f.instr with
      | .fbwait .. => some (1, va)
      | .waita .. => some (3, va)
      | .ccwaitB32 .. => some (4, va)
      | .ccwaitX64 .. => some (4, va)
      | .tkwaitB32 .. => some (5, 0)
      | .tkwaitX64 .. => some (5, 0)
      | _ => none
  | _ => none
def Sheaf.wake (sh : Sheaf) : Nat × Nat := (sh.flights.findSome? (·.wake)).getD (0, 0)
/-- Lanes parked at a WAITA. -/
def Sheaf.atWaita (sh : Sheaf) : LaneSet :=
  sh.flights.foldl (fun m f => match f.instr with
    | .waita .. => m ||| f.path
    | _ => m) sh.spurious

/-! ### Sheaf records (19 Tables 19.16, 19.17) -/

def isMxacq (i : Instr) : Bool :=
  match i with
  | .mxacqB32 .. => true
  | .mxacqX64 .. => true
  | _ => false
/-- A sheaf waits in an ownership queue: it stands at an MXACQ. -/
def Sheaf.waitsMx (sh : Sheaf) : Bool := sh.flights.any (fun f => isMxacq f.instr && f.stage == .waiting)

/-- Forced queues as the lowest lane of each entry. -/
def Sheaf.forcedBytes (sh : Sheaf) (q : List DWord) : List Byte :=
  let l := (q.filterMap (fun p => (lanesOf sh.live).find? (fun i => (sh.lane i).pc == p))).take 64
  l.map (fun i => BitVec.ofNat 8 i) ++ List.replicate (64 - l.length) 0xFF
def Sheaf.laneBytes (sh : Sheaf) (i : Nat) : List Byte :=
  let l := sh.lane i
  bytesOf 8 l.pc.toNat ++ bytesOf 8 l.joinAt.toNat ++ bytesOf 4 l.hold.word.toNat ++
  bytesOf 4 (l.preds.toNat + 256 * l.age + (if l.exited then 65536 else 0) + (if sh.atWaita.getLsbD i then 131072 else 0)) ++
  bytesOf 4 l.depth ++ bytesOf 4 0
def Sheaf.recordLen (sh : Sheaf) : Nat := roundUp (1024 + 32 * sh.width + 4 * sh.width * sh.budget + 64 * sh.width * sh.replay.length) 256
def State.sheafRecord (s : State) (stookIx sid : Nat) (sh : Sheaf) : List Byte :=
  let mx := (s.core (if parkedBase ≤ sh.core then sh.core - parkedBase else sh.core)).mx
  let mine : Bool := ((s.stookOf sh).map (fun k => k.savedMx.any (fun m => m.2.owner == some sid))).getD false
  let flags := (if sh.frozen then 1 else 0) + (if sh.serves.isSome then 2 else 0) + (if mx.owner = some sid ∨ mine = true then 4 else 0) +
    (if mx.waitq.contains sid || sh.waitsMx then 8 else 0)
  let slot := match sh.serves with
    | some t => ((s.sheaf? t).bind (·.slot)).getD 0xFFFFFFFF
    | none => sh.slot.getD 0xFFFFFFFF
  let w := sh.width
  let n := sh.budget
  let code := if w = 8 then 0 else if w = 16 then 1 else if w = 32 then 2 else 3
  image sh.recordLen [
    (0, bytesOf 4 stookIx ++ bytesOf 4 (sh.idx + 256 * sh.role + 65536 * code + 2 ^ 24 * (n / 8)) ++ bytesOf 4 flags ++
      bytesOf 4 sh.wake.1 ++ bytesOf 8 sh.wake.2 ++ bytesOf 4 sh.prio ++ bytesOf 4 sh.ctx ++ bytesOf 4 slot ++ bytesOf 4 sh.replay.length),
    (0x40, (List.range 24).flatMap (fun k => bytesOf 4 (sh.sreg k).toNat)),
    (0xA0, bytesOf 8 sh.q.toNat),
    (0xA8, (List.range 12).flatMap (fun k => bytesOf 8 (sh.m.getD k 0).toNat)),
    (0x110, sh.forcedBytes sh.forcedL ++ sh.forcedBytes sh.forcedU),
    (0x200, sh.replay.flatMap (fun r => (List.range 3).flatMap (fun f => bytesOf 4 (r.word 0 f).toNat) ++ bytesOf 4 (r.word 0 3).toNat ++
      bytesOf 8 r.e.toNat ++ bytesOf 8 r.pc.toNat)),
    (0x400, (List.range w).flatMap sh.laneBytes),
    (0x400 + 32 * w, (List.range n).flatMap (fun k => (List.range w).flatMap (fun i => bytesOf 4 (sh.vreg k i).toNat))),
    (0x400 + 32 * w + 4 * w * n, sh.replay.flatMap (fun r => (List.range 16).flatMap (fun f => (List.range w).flatMap (fun i =>
      bytesOf 4 (r.word i (16 + f)).toNat))))]
/-- One lane read back; `len` says how long the JOIN at an address is, which the record does not (log 115). A program counter
is a multiple of 4 (02 R27), and bits 1:0 of a JOIN address are dropped as well (04 R82; DESIGN CHOICE, log 115). -/
def laneOf (bs : List Byte) (len : DWord → Nat) : Lane :=
  let w := fieldNat bs 0x14 4
  let at_ : DWord := aligned4 (BitVec.ofNat 64 (fieldNat bs 8 8))
  { Lane.fresh (aligned4 (BitVec.ofNat 64 (fieldNat bs 0 8))) with
    exited := w.testBit 16
    hold := (Hold.ofWord (BitVec.ofNat 32 (fieldNat bs 0x10 4)) at_ (len at_)).getD .none
    joinAt := at_
    preds := BitVec.ofNat 7 w
    age := bitsOf w 8 4
    depth := fieldNat bs 0x18 4 }
/-- A sheaf read back from its record, not yet on a core. -/
def sheafOf (bs : List Byte) (uid : Nat) (maxPrio age : Nat) (watch : List (Nat × Nat × Nat)) (len : DWord → Nat) : Sheaf :=
  let f (off n : Nat) : Nat := fieldNat bs off n
  let hd := f 4 4
  let w := widthOf (bitsOf hd 16 2)
  let n := 8 * bitsOf hd 24 4
  let flags := f 8 4
  let r := Nat.min (f 0x24 4) 8
  let ctx := f 0x1C 4 % 4096
  let lanes := (List.range w).map (fun i => (i, laneOf ((bs.drop (0x400 + 32 * i)).take 32) len))
  let reg0 := 0x400 + 32 * w
  let regs := (List.range n).foldl (fun (m : KV Word) k => (List.range w).foldl (fun (m : KV Word) i =>
    m.put (64 * k + i) (BitVec.ofNat 32 (f (reg0 + 4 * (w * k + i)) 4))) m) []
  let rep (e : Nat) : Replay :=
    let o := 0x200 + 32 * e
    let lv := f (o + 12) 4
    { words := (List.range 3).map (fun k => BitVec.ofNat 32 (f (o + 4 * k) 4)), len := lv % 4, valid := lv.testBit 31
      e := BitVec.ofNat 64 (f (o + 16) 8), pc := aligned4 (BitVec.ofNat 64 (f (o + 24) 8)), ctx := ctx, ord := e
      ops := (List.range w).map (fun i => (i, (List.range 16).map (fun k => BitVec.ofNat 32 (f (reg0 + 4 * w * n + 4 * (w * (16 * e + k) + i)) 4)))) }
  let pcOf (b : Byte) : Option DWord := if b.toNat < w then some ((laneOf ((bs.drop (0x400 + 32 * b.toNat)).take 32) len).pc) else none
  let forced (off : Nat) : List DWord := ((bs.drop off).take 64).filterMap pcOf
  let base := Sheaf.fresh uid 0 (hd % 256) (bitsOf hd 8 8) w n ctx maxPrio age 0 0 none watch
  { base with
    prio := f 0x18 4 % 16
    lanes := lanes
    regs := regs
    s := (List.range 24).map (fun k => (k, BitVec.ofNat 32 (f (0x40 + 4 * k) 4)))
    q := BitVec.ofNat 7 (f 0xA0 8)
    m := (List.range 12).map (fun k => (k, BitVec.ofNat 64 (f (0xA8 + 8 * k) 8)))
    replay := ((List.range r).map rep).filter (·.valid)
    forcedL := forced 0x110
    forcedU := forced 0x150
    frozen := flags.testBit 0
    slot := if flags.testBit 0 && !flags.testBit 1 && f 0x20 4 != 0xFFFFFFFF then some (f 0x20 4) else none
    spurious := laneSetOf w (fun i => (f (0x400 + 32 * i + 0x14) 4).testBit 17) }

/-! ### The thresher save block (11 R204, R205) -/

/-- Bits of an element of the tile (11 Table 11.6). -/
def tileBits (fmt : Option Ty) : Nat := (fmt.map Ty.bits).getD 16
def rowBytes (bits : Nat) (code : Nat → Nat) : List Byte := bytesOf 128 ((List.range 64).foldl (fun n c => n + code c % 2 ^ bits * 2 ^ (bits * c)) 0)
def BankMode.code (m : BankMode) : Nat := match m with | .clean => 0 | .float => 1 | .int => 2
def BankMode.dec (n : Nat) : BankMode := if n = 1 then .float else if n = 2 then .int else .clean
def validMask (m : KV Byte) : List Byte := bytesOf 8 ((laneSetOf 64 (fun i => (m.find? i).isSome)).toNat)
def latchBytes (m : KV Byte) : List Byte := (List.range 64).map (fun i => m.getD i 0)
def latchesOf (valid : Nat) (bs : List Byte) : KV Byte :=
  (List.range 64).filterMap (fun i => if valid.testBit i then some (i, bs.getD i 0) else none)
def Bank.bytes (b : Bank) : List Byte := (List.range 4096).flatMap (fun k => bytesOf 8 (b.el.getD k 0).toNat)
def elemsOf (bs : List Byte) : KV (BitVec 40) :=
  (List.range 4096).filterMap (fun k => let v : BitVec 40 := BitVec.ofNat 40 (fieldNat bs (8 * k) 8); if v = 0 then none else some (k, v))
def Thresher.block0 (t : Thresher) (owner : Nat) (queue : List Nat) : List Byte :=
  let coll := match t.coll with
    | some c => c.base + 256 * c.ty.code + 8192 * c.breg + (if c.af then 2 ^ 20 else 0) + 2 ^ 31
    | none => 0
  let c := t.coll.getD ⟨0, .s8, false, 0, 0, [], []⟩
  image 82944 [
    (0, bytesOf 4 1 ++ bytesOf 4 owner ++
      bytesOf 4 ((t.fmt.map Ty.code).getD 31 + (if t.kc then 256 else 0) + (if t.af then 512 else 0)) ++
      bytesOf 4 (t.south.mode.code + 4 * t.east.mode.code) ++ bytesOf 4 coll ++ bytesOf 4 queue.length ++ bytesOf 8 c.lanes.toNat ++
      validMask t.south.rowScale ++ validMask t.south.colScale ++ validMask t.east.rowScale ++ validMask t.east.colScale ++
      (queue.take 32).flatMap (bytesOf 4)),
    (0x100, (List.range 64).flatMap (fun r => rowBytes (tileBits t.fmt) (fun c => (t.tile.getD (64 * r + c) 0).toNat))),
    (0x2100, (List.range 256).map (fun k => t.side.getD k 0)),
    (0x2200, t.south.bytes), (0xA200, t.east.bytes),
    (0x12200, latchBytes t.south.rowScale ++ latchBytes t.south.colScale ++ latchBytes t.east.rowScale ++ latchBytes t.east.colScale),
    (0x12300, (List.range 32).flatMap (fun k => (List.range 64).flatMap (fun i => bytesOf 4 (c.words.getD (64 * k + i) 0).toNat))),
    (0x14300, (List.range 64).flatMap (fun i => bytesOf 4 (c.bwords.getD i 0).toNat))]
/-- A weight format of Table 11.3. -/
def weightFmt (n : Nat) : Option Ty :=
  (Ty.dec n).bind (fun t => if [Ty.bf16, .f16, .e4m3, .e5m2, .mxf8, .mxf4, .s8, .s4, .spt8].contains t then some t else none)
/-- A thresher read back, without owner, queue and last user. A bank that is clean, by code 0 or 3, holds zeros. The T bytes of a
block whose latch is EMPTY, or whose FMT code names no weight format, have no stated element width (11 R205): T is zero then
(DESIGN CHOICE, log 139). -/
def thresherOf (bs : List Byte) : Thresher :=
  let f (off n : Nat) : Nat := fieldNat bs off n
  let fmt := weightFmt (f 8 4 % 32)
  let bits := tileBits fmt
  let coll := f 0x10 4
  let bank (mode valid el sc : Nat) : Bank :=
    if BankMode.dec mode = .clean then .zero else
    { mode := BankMode.dec mode, el := elemsOf ((bs.drop el).take 32768)
      rowScale := latchesOf (f valid 8) ((bs.drop sc).take 64), colScale := latchesOf (f (valid + 8) 8) ((bs.drop (sc + 64)).take 64) }
  { fmt := fmt
    kc := (f 8 4).testBit 8
    af := (f 8 4).testBit 9
    tile := if fmt.isNone then [] else (List.range 4096).filterMap (fun k =>
      let v := f (0x100 + 128 * (k / 64)) 128 / 2 ^ (bits * (k % 64)) % 2 ^ bits
      if v = 0 then none else some (k, BitVec.ofNat 32 v))
    side := (List.range 256).filterMap (fun k => let v := bs.getD (0x2100 + k) 0; if v = 0 then none else some (k, v))
    south := bank (f 0xC 4 % 4) 0x20 0x2200 0x12200
    east := bank (f 0xC 4 / 4 % 4) 0x30 0xA200 0x12280
    coll := if coll.testBit 31 then (Ty.dec (bitsOf coll 8 5)).map (fun ty => {
        base := coll % 128, ty := ty, af := coll.testBit 20, breg := bitsOf coll 13 7, lanes := BitVec.ofNat 64 (f 0x18 8)
        words := (List.range 2048).map (fun k => (k, BitVec.ofNat 32 (f (0x12300 + 4 * k) 4)))
        bwords := (List.range 64).map (fun i => (i, BitVec.ofNat 32 (f (0x14300 + 4 * i) 4))) })
      else none
    queue := [], owner := none, waitq := [], lastUser := none, zeroing := false }

/-! ### Crop records (19 Table 19.14) -/

/-- A rick that waits to be placed again has no place in a record: KILLED stands for it (21 R356; DESIGN CHOICE, log 61). -/
def Crop.bytes (c : Crop) : List Byte :=
  image 256 [(0, c.record.take 128),
    (0x80, bytesOf 4 c.seq ++ bytesOf 4 c.queue ++ bytesOf 4 c.next ++ bytesOf 4 c.counted ++
      (List.range 4).flatMap (fun d => bytesOf 4 (c.diePend.getD d 0)) ++ bytesOf 4 c.tokPos ++ bytesOf 4 c.tokRound ++
      bytesOf 4 ((if c.done then 1 else 0) + (if c.killed ∨ c.replaced ≠ [] then 2 else 0)))]

end Sys2Proof.Machine
end

