-- ==== Sys2Proof/Machine/Context.lean ====
section
/-! DEFINITION. Park eviction and restore, full pre-emption into a context area and restore from one, slices (19 R331 to
R339; 27 R374). -/
namespace Sys2Proof.Machine

open Sys2Proof

/-! ### A stook leaves its cores -/

/-- A lane's on-chip entries are written to their records (08 R151); false where some record cannot be written. -/
def State.spillLane (s : State) (sh : Sheaf) (lane : Nat) : Bool × State :=
  let l := sh.lane lane
  let up := s.fnUp (s.fnOf sh.uid)
  l.chip.zipIdx.foldl (fun (acc : Bool × State) e =>
    let pos := l.depth - 1 - e.2
    match acc.2.translate none sh.ctx (acc.2.chAddr sh lane pos) .write true with
    | (.ok pa pte hd ho, s) =>
      if s.writeWaits sh.core up (pa, 8, pte, hd, ho) then (false, s)
      else (acc.1, (s.engineWrite sh.core sh.ctx (pa, 8, pte, hd, ho) (e.1.bytes pos) 0).2)
    | (_, s) => (false, s)) (true, s)
/-- The entries of every lane; those that cannot be written stay with the lane. -/
def State.spillSheaf (s : State) (sid : Nat) : Bool × State :=
  match s.sheaf? sid with
  | none => (true, s)
  | some sh =>
    (List.range sh.width).foldl (fun (acc : Bool × State) i =>
      let (ok, s) := acc.2.spillLane sh i
      (acc.1 && ok, if ok then s.modSheaf sid (fun sh => sh.modLane i (fun l => { l with chip := [] })) else s)) (true, s)
def State.spillAll (s : State) (sids : List Nat) : Bool × State :=
  sids.foldl (fun (acc : Bool × State) sid =>
    let (ok, s) := acc.2.spillSheaf sid
    (acc.1 && ok, s)) (true, s)
/-- Where the records of a sheaf's on-chip entries stand. -/
def State.spillAddrs (s : State) (sh : Sheaf) : List DWord :=
  (List.range sh.width).flatMap (fun i => (sh.lane i).chip.zipIdx.map (fun e => s.chAddr sh i ((sh.lane i).depth - 1 - e.2)))
/-- A record of the sheaf has to wait before it is written: for its translation (16 R283) or for its memory. -/
def State.spillWaits (s : State) (sh : Sheaf) : Bool :=
  (s.spillAddrs sh).any (fun a => match (s.translate none sh.ctx a .write true).1 with
    | .ok pa pte hd ho => s.writeWaits sh.core (s.fnUp (s.fnOf sh.uid)) (pa, 8, pte, hd, ho)
    | .park _ => true
    | _ => false)
/-- The faults of the chaff records of some sheaves are recorded: the writes park on them (16 R283). -/
def State.spillFaults (s : State) (sids : List Nat) : State :=
  sids.foldl (fun s sid => match s.sheaf? sid with
    | some sh => (s.spillAddrs sh).foldl (fun s a => (s.translate none sh.ctx a .write true).2) s
    | none => s) s
/-- Every on-chip entry is written to its record, and no lane keeps one (08 R151). One whose page does not permit the write is
lost: DESIGN CHOICE (log 61). -/
def State.spillOut (s : State) (sids : List Nat) : State :=
  sids.foldl (fun s sid => s.modSheaf sid (fun sh => sh.modLanes sh.full (fun _ l => { l with chip := [] }))) (s.spillAll sids).2
/-- The sheaves of a rick that have not exited. -/
def State.rickSheaves (s : State) (rick : List (Nat × Stook)) : List Nat := rick.flatMap (fun e => (s.sheavesOf e.2).map (·.1))

/-- A core without a stook: its tags idle, its copies gone, its thresher released if a sheaf of it owned it. -/
def State.clearCore (s : State) (uid core : Nat) (sids : List Nat) : State :=
  let c := s.core core
  let free (t : Tag) : Tag := if t.holder = some uid then .idle else t
  let s := s.setCore core { c with
    tags := c.tags.map (fun (t : Nat × Tag) => (t.1, free t.2))
    wainQ := c.wainQ.filter (fun o => o.uid != uid)
    wainRun := c.wainRun.filter (fun o => o.uid != uid)
    mx := { c.mx with waitq := c.mx.waitq.filter (fun q => !sids.contains q) } }
  match c.mx.owner with
  | some o => if sids.contains o then (s.modMx core (fun t => { Thresher.reset with waitq := t.waitq })).mxRelease core else s
  | none => s
/-- A stook is out: its phases closed, its tags, copies and threshers with it (10 R171, 12 R229, 21 R357). -/
def State.leaveCores (s : State) (uid : Nat) : State :=
  match s.stook? uid with
  | none => s
  | some k =>
    let sids := (s.sheavesOf k).map (·.1)
    let s := sids.foldl (fun s sid => s.closePhases sid) s
    let tags := k.cores.zipIdx.foldl (fun (m : KV Tag) e => (s.core e.1).tags.foldl (fun (m : KV Tag) (t : Nat × Tag) =>
      if t.2.holder = some uid ∧ t.2.st ≠ .idle then m.put (64 * e.2 + t.1) t.2 else m) m) []
    let ops := s.opsOf uid k
    let mxs : KV Thresher := k.cores.zipIdx.filterMap (fun e => match (s.core e.1).mx.owner with
      | some o => if sids.contains o then some (e.2, { (s.core e.1).mx with waitq := [] }) else none
      | none => none)
    let s := k.cores.foldl (fun s c => s.clearCore uid c sids) s
    let s := sids.foldl (fun s sid => s.modSheaf sid (fun sh => { sh with core := parkedBase + sh.core })) s
    s.setStook uid { k with parked := true, saved := tags, savedOps := ops, savedMx := mxs }

/-! ### A stook enters cores -/

/-- A restored sheaf: the youngest, its latches invalid, its waiting counts at zero (03 R51, R62; 05 R87). -/
def Sheaf.enter (sh : Sheaf) (core age : Nat) (watch : List (Nat × Nat × Nat)) : Sheaf :=
  let sh := { sh with core := core, age := age, watch := watch, waitL := 0, waitU := 0, starvedL := false, starvedU := false
                      yielded := false, lock := [], turn := none }
  sh.modLanes sh.full (fun _ l => l.killLatches)
def State.enterSheaf (s : State) (k : Stook) (cores : List Nat) (sid : Nat) : State :=
  match s.sheaf? sid with
  | none => s
  | some sh =>
    let core := cores.getD (k.coreIx sh) 0
    let (age, s) := s.fresh
    let s := s.setSheaf sid (sh.enter core age (s.watches sh.ctx))
    if sh.waitsMx then
      let s := s.modMx core (fun t => { t with waitq := t.waitq ++ [sid] })
      if (s.core core).mx.owner.isNone then (match s.mxHead core with
        | some q => s.mxGrant core q
        | none => s) else s
    else s
/-- The waits that a restored sheaf evaluates in its first cycle (27 R374). -/
noncomputable def waitBody (i : Instr) (s : State) (k : Ctx) : Option (Except TrapInfo Done) :=
  match i with
  | .fbwait _ a b => some (fbwaitBody i s k a b)
  | .pwaitAnyB32 _ d a => some (pwaitBody i s k d false (k.pairA a.reg 0))
  | .pwaitAllB32 _ d a => some (pwaitBody i s k d true (k.pairA a.reg 0))
  | .pwaitX64 _ d a all => some (pwaitBody i s k d all (k.pairA a.reg 0))
  | .ccwaitB32 _ _ a => some (ccwaitBody i s k a)
  | .ccwaitX64 _ _ a => some (ccwaitBody i s k a)
  | .tkwaitB32 _ => some (tkBody i s k false)
  | .tkwaitX64 _ => some (tkBody i s k false)
  | _ => none
/-- The wait at a program counter, for the lanes that stand at it and owe it nothing: those whose condition holds move on, the
others wait (27 R374). -/
noncomputable def State.waitNow (s : State) (sid : Nat) (pc : DWord) (at_ : LaneSet) : State :=
  match s.sheaf? sid with
  | none => s
  | some sh =>
    match s.fetch sh.core sh.ctx pc with
    | (.words ws, s) =>
      (match decode ws with
      | .illegal _ => s
      | .ok i =>
        let owed (l : Nat) : Bool := sh.flights.any (fun f => f.holdsLane (sh.lane l) l || f.owesReg l i) ||
          sh.replay.any (fun r => r.valid && (match decode (r.words.take r.len) with
            | .ok j => owesTo j r.e l i
            | .illegal _ => false))
        let lanes := laneSetOf sh.width (fun l => at_.getLsbD l && !owed l)
        let k := s.seen sid sh i (guardSet i sh lanes false) pc ws none
        if k.e = 0 || (preCheck i k).isSome || s.unitFull k i then s
        else match waitBody i s k with
          | some (.ok d) => if d.blocked then s else s.retire i k d
          | _ => s)
    | _ => s
noncomputable def State.waitsNow (s : State) (sid : Nat) : State :=
  match s.sheaf? sid with
  | none => s
  | some sh => sh.pcs.foldl (fun s e => s.waitNow sid e.1 e.2) s
/-- A stook takes its place on cores: caches invalidated, tags, copies, threshers and sheaves back (R332; 17 R296); the waits
at which its lanes stand are evaluated at once (27 R374). The thresher that it owned takes the place of a block without owner
that a restore has left on the core (11 R205; DESIGN CHOICE, log 91). -/
noncomputable def State.enterCores (s : State) (uid : Nat) (cores : List Nat) : State :=
  match s.stook? uid with
  | none => s
  | some k =>
    let s := cores.foldl (fun s c => s.placeOn c) s
    let s := k.saved.foldl (fun s t => let c := cores.getD (t.1 / 64) 0
      s.setCore c ((s.core c).setTag (t.1 % 64) t.2)) s
    let s := k.savedOps.foldl (fun s o => let c := cores.getD o.1 0
      s.setCore c { s.core c with wainQ := (s.core c).wainQ ++ [o.2] }) s
    let s := k.savedMx.foldl (fun s m => s.modMx (cores.getD m.1 0) (fun t =>
      { m.2 with waitq := m.2.waitq ++ t.waitq.filter (fun q => !m.2.waitq.contains q) })) s
    let s := ((s.sheavesOf k).map (·.1)).foldl (fun s sid => s.enterSheaf k cores sid) s
    let moved (c : Nat) : Nat := cores.getD (k.cores.findIdx (· == c)) (cores.headD 0)
    let coll (o : CollOp_) : CollOp_ := if o.uid = uid then { o with core := moved o.core } else o
    let pfl (o : Pfl2Op) : Pfl2Op := if o.uid = uid then { o with core := moved o.core } else o
    let s := { s with colls := s.colls.map coll, pfl2 := s.pfl2.map pfl }
    let s := s.setStook uid { k with
      cores := cores, parked := false, saved := [], savedOps := [], savedMx := [], wakes := [], park := (0, 0) }
    let s := ((s.sheavesOf k).map (·.1)).foldl (fun s sid => s.waitsNow sid) s
    if k.trapStook then s
    else s.modCrop k.crop (fun c => { c with
      diePend := (List.range 4).map (fun d => (c.offDie (dieOf (k.cores.headD 0))).diePend.getD d 0 +
        (if d = dieOf (cores.headD 0) then 1 else 0))
      cores := cores.foldl (fun l x => (l.filter (fun e => e.1 != x)) ++ [(x, true)]) c.cores })
/-- A rick enters a seat. -/
noncomputable def State.enterSeat (s : State) (record : List Byte) (rick : List (Nat × Stook)) (seat : List Nat) : State :=
  rick.foldl (fun s e => s.enterCores e.1 (seatCores record seat e.2.rank)) s

/-! ### Park eviction (R331, R332) -/

/-- Copies that still run or wait, of a stook, whose tags a PWAIT of a sheaf waits for: a stopped copy would end no wait. -/
def State.waitsCopy (s : State) (sh : Sheaf) (k : Stook) (f : Flight) : Bool :=
  isPwait f.instr && (s.opsOf sh.uid k).any (fun o => f.pwaitMask.getLsbD o.2.tag)
/-- A wait of Table 19.10. -/
def State.parkWait (s : State) (sid : Nat) (f : Flight) : Bool :=
  match f.stage with
  | .parked _ => true
  | .access => isLoad f.instr && f.accs.any (fun a => match a.st with | .done _ => false | _ => true) &&
      f.accs.all (fun a => match a.st with | .done _ => true | .sent _ => isPeer a.pa | _ => false)
  | .waiting => f.ready == 0 && f.wake.isSome && (match f.instr with
      | .waita .. => f.accs.all (fun a => isPeer a.pa || s.waits.any (fun e => e.sid == sid && e.flight == f.id && e.lane == a.lane))
      | _ => true)
  | _ => false
/-- A lane that cannot go on: exited, held, in a wait, or in need of a register that a flight owes. -/
noncomputable def State.laneStuck (s : State) (sh : Sheaf) (i : Nat) : Bool :=
  let l := sh.lane i
  l.exited || l.hold != .none || sh.flights.any (fun f => f.holdsLane l i) || (match (s.look sh.core sh.ctx l.pc).1 with
    | .instr j => sh.flights.any (fun f => f.owesReg i j)
    | _ => false)
/-- Every lane of a sheaf waits, and nothing else keeps the sheaf. -/
noncomputable def State.sheafParks (s : State) (k : Stook) (sid : Nat) (sh : Sheaf) : Bool :=
  let t := (s.core sh.core).mx
  !sh.frozen && !sh.resuming && !sh.flights.isEmpty && sh.flights.all (fun f => s.parkWait sid f && !s.waitsCopy sh k f) && sh.replay.isEmpty &&
  (List.range sh.width).all (fun i => s.laneStuck sh i) && decide (t.owner ≠ some sid) && !t.waitq.contains sid && !t.uses sid
/-- A copy of a stook has no message to a peer under way. -/
def State.copiesQuiet (s : State) (uid : Nat) (k : Stook) : Bool :=
  !s.msgs.any (fun (e : Nat × MsgEnt) => match e.2.msg with
    | .peer _ 0 id .. => (s.opsOf uid k).any (fun o => o.2.id == id)
    | _ => false)
noncomputable def State.rickParks (s : State) (rick : List (Nat × Stook)) : Bool :=
  !rick.isEmpty && rick.all (fun e => !e.2.parked && !(s.sheavesOf e.2).isEmpty && s.copiesQuiet e.1 e.2 &&
    (s.sheavesOf e.2).all (fun x => s.sheafParks e.2 x.1 x.2))
/-- Blocks of a partition's park area in use, and the first place for a new one. -/
def State.parkBlocks (s : State) (part : Nat) : List (Nat × Nat) :=
  s.stooks.filterMap (fun e => if e.2.parked && decide (0 < e.2.park.2) && ((s.cropOf e.2).map (·.part)) == some part then some e.2.park else none)
def parkFit (blocks : List (Nat × Nat)) (size n : Nat) : Option Nat :=
  (0 :: blocks.map (fun b => b.1 + b.2)).find? (fun o => decide (o + n ≤ size) && blocks.all (fun b => decide (b.1 + b.2 ≤ o ∨ o + n ≤ b.1)))
/-- A sheaf reference (11 Table 11.7). -/
def State.sheafRef (s : State) (stooks : List (Nat × Nat × Stook)) (sid : Nat) : Nat :=
  match s.sheaf? sid with
  | none => 0
  | some sh => 2 ^ 31 + 256 * stooks.findIdx (fun e => e.2.1 == sh.uid) + sh.idx % 256
/-- The save block of a thresher (11 R204), with its owner and the sheaves that wait for it, in the order of grants (R184). -/
def State.mxBlock (s : State) (stooks : List (Nat × Nat × Stook)) (t : Thresher) : List Byte :=
  let waiting := t.waitq.filterMap (fun q => (s.sheaf? q).map (fun sh => (q, sh)))
  let order := sortBy (fun (a b : Nat × Sheaf) => decide (b.2.prio < a.2.prio ∨ (a.2.prio = b.2.prio ∧ a.2.age < b.2.age))) waiting
  t.block0 ((t.owner.map (s.sheafRef stooks)).getD 0) (order.map (fun e => s.sheafRef stooks e.1))
/-- The records of a rick that has left its cores: each stook's, its sheaves', and the save blocks of the threshers that it takes
along (21 R357). -/
def State.rickRecords (s : State) (rick : List (Nat × Stook)) : List (Nat × List Byte) :=
  rick.zipIdx.map (fun e => (e.1.1, s.stookRecord 0 e.1.1 e.1.2 ++ (s.sheavesOf e.1.2).flatMap (fun x => s.sheafRecord e.2 x.1 x.2) ++
    e.1.2.savedMx.flatMap (fun m => s.mxBlock (rick.map (fun x => (0, x.1, x.2))) m.2)))
/-- Threshers that a resident stook's sheaves own. -/
def State.mxOwned (s : State) (k : Stook) : Nat :=
  (k.cores.filter (fun c => ((s.core c).mx.owner.map k.sheaves.contains).getD false)).length
def State.rickLen (s : State) (rick : List (Nat × Stook)) : Nat :=
  rick.foldl (fun n e => n + e.2.recordLen + ((s.sheavesOf e.2).map (fun x => x.2.recordLen)).foldl (· + ·) 0 + 82944 * s.mxOwned e.2) 0
/-- A rick moves out and its records are written, at an offset of the park area if it has one. -/
def State.parkRick (s : State) (part : Nat) (rick : List (Nat × Stook)) (at_ : Option Nat) : State :=
  let s := rick.foldl (fun s e => s.leaveCores e.1) s
  match at_ with
  | none => s
  | some off =>
    let now := rick.filterMap (fun e => (s.stook? e.1).map (fun k => (e.1, k)))
    ((s.rickRecords now).foldl (fun (acc : Nat × State) r =>
      (acc.1 + r.2.length,
        (acc.2.packageWrite ((s.part part).parkBase.toNat + acc.1) r.2).modStook r.1 (fun k => { k with park := (acc.1, r.2.length) }))) (off, s)).2
/-- Some stook or rick of the partition of a priority at or above cannot be placed for want of room. -/
def State.wantsRoom (s : State) (part prio : Nat) : Bool :=
  let p := s.part part
  (s.waiting part).any (fun e => decide (prio ≤ e.2.prio) && (match e.2.nextRick with
    | some k => !(s.eligible p e.2.record).any (fun seat => s.seatFits e.2.record seat (rickStooks e.2.record k).length)
    | none => false)) ||
  s.stooks.any (fun e => e.2.parked && s.rickWoken e.2 && (match s.cropOf e.2 with
    | some c => c.part == part && decide (prio ≤ c.prio)
    | none => false) && (s.rickSeats e.2).isEmpty)
/-- The age of the youngest sheaf of a rick. -/
def State.rickAge (s : State) (rick : List (Nat × Stook)) : Nat :=
  rick.foldl (fun n e => (s.sheavesOf e.2).foldl (fun n x => Nat.max n x.2.age) n) 0
/-- Another rick that could be evicted, and that the park area can hold, comes first: of lower priority, or of the same and
younger. -/
noncomputable def State.betterVictim (s : State) (part prio age : Nat) : Bool :=
  s.stooks.any (fun e => !e.2.trapStook && (match s.cropOf e.2 with
    | some c =>
      let rick := s.rickOf e.2
      c.part == part && (decide (c.prio < prio) || (decide (c.prio = prio) && decide (age < s.rickAge rick))) && s.rickParks rick &&
        s.wantsRoom part c.prio && (parkFit (s.parkBlocks part) (s.part part).parkSize.toNat (s.rickLen rick)).isSome
    | none => false))
noncomputable def execParkEviction (uid : Nat) (s : State) : Out :=
  match s.stook? uid with
  | none => .next s
  | some k =>
    match s.cropOf k with
    | none => .next s
    | some c =>
      let rick := s.rickOf k
      if k.trapStook || s.partHeld c.part || !s.rickParks rick || !s.wantsRoom c.part c.prio || s.betterVictim c.part c.prio (s.rickAge rick) then .next s
      else match parkFit (s.parkBlocks c.part) (s.part c.part).parkSize.toNat (s.rickLen rick) with
        | none => .next s
        | some off =>
          match s.spillAll (s.rickSheaves rick) with
          | (false, s) => .next s
          | (true, s) => .next (s.parkRick c.part (s.rickOf k) (some off))
/-- The core for a trap stook that has been moved: by the sheaf it serves, where that one is resident. -/
def State.trapSeat (s : State) (k : Stook) : Option Nat :=
  match ((s.sheavesOf k).findSome? (fun e => e.2.serves)).bind s.sheaf? with
  | some t => if t.core < parkedBase then s.trapCore t.core else none
  | none => none
/-- The write ranges that restored stooks of a rick still have to read (18 R307): whether all are there now. -/
def State.fillRanges (s : State) (rick : List (Nat × Stook)) : Bool × State :=
  rick.foldl (fun (acc : Bool × State) e =>
    match acc.2.stook? e.1, acc.2.cropOf e.2 with
    | some k, some c =>
      if !k.wakes.any (fun w => w.1 == 8) then acc
      else match acc.2.readRanges c k.linear with
        | (some r, s) => (acc.1, s.modStook e.1 (fun k => { k with ranges := r, wakes := k.wakes.filter (fun w => w.1 != 8) }))
        | (none, s) => (false, s)
    | _, _ => acc) (true, s)
/-- A stook of a deterministic crop that was resident before a restore waits for a place: none of a later position is placed
before it (R335, 18 R306). -/
def State.earlierWaits (s : State) (k : Stook) (c : Crop) : Bool :=
  c.det && s.stooks.any (fun e => e.2.crop == k.crop && e.2.parked && !e.2.trapStook && e.2.rick != k.rick && decide (e.2.pos < k.pos) &&
    e.2.wakes.any (fun w => w.1 == 0))
/-- A parked rick whose wake condition is met is placed at the first eligible seat with room; a trap stook that a scan has
moved, by its sheaf. A reconfiguration that is due takes the first moment without a resident stook (21 R360). -/
noncomputable def execParkRestore (uid : Nat) (s : State) : Out :=
  match s.stook? uid with
  | none => .next s
  | some k =>
    match s.cropOf k with
    | none => .next s
    | some c =>
      if !k.parked || s.partHeld c.part || (s.partDue (s.part c.part) && !s.partBusy c.part) then .next s
      else if k.trapStook then (match s.trapSeat k with
        | some core => .next (s.enterCores uid [core])
        | none => .next s)
      else if !s.rickWoken k || s.earlierWaits k c then .next s
      else match s.rickSeats k with
        | seat :: _ => (match s.fillRanges (s.rickOf k) with
          | (true, s) => .next (s.enterSeat c.record (s.rickOf k) seat)
          | (false, s) => .next s)
        | [] => .next s

/-! ### Operations of the trap control page (R333) -/

/-- The PSTATE word (Table 19.11). -/
def opWord (state reason part : Nat) (auto : Bool) : Word := word (state + 256 * reason + 65536 * part + (if auto then 2 ^ 20 else 0))
/-- An operation has ended: PSTAT, a bit of PDONE, the interrupt; PSTATE unless another operation runs. -/
def State.opEnds (s : State) (part : Nat) (w : Word) : State :=
  let s := s.setPart part { s.part part with pstat := w }
  let t := s.trapPage
  (({ s with trapPage := { t with pstate := if t.op.isSome then t.pstate else w, pdone := t.pdone ||| word (2 ^ part) } } : State)).raise 0 1
/-- Sheaves and stooks of a partition. -/
def State.partOf (s : State) (sh : Sheaf) : Option Nat := ((s.stookOf sh).bind s.cropOf).map (·.part)
def State.partStooks (s : State) (part : Nat) : List (Nat × Stook) :=
  s.stooks.filter (fun e => ((s.cropOf e.2).map (·.part)) == some part)
def State.partSheaves (s : State) (part : Nat) : List (Nat × Sheaf) := s.sheaves.filter (fun e => s.partOf e.2 == some part)
/-- A sheaf withdraws what it has issued and not performed; the waits where its lanes stand end later (R334 step 1). -/
def Sheaf.withdrawAll (sh : Sheaf) : Sheaf :=
  let stays (f : Flight) : Bool := f.kept && (match f.stage with
    | .parked _ => false
    | .region => f.performed
    | _ => true)
  { sh with
    flights := sh.flights.filter stays
    replay := (sh.flights.filter (fun f => !stays f && !f.stay)).foldl (fun q f => insertOrd f.replay q) sh.replay }
/-- Step 1: ENABLE cleared, issue stops, every sheaf withdraws. -/
def State.holdPart (s : State) (part : Nat) : State :=
  let s := (List.range 64).foldl (fun s q =>
    if (s.queue q).part = part ∧ (s.queue q).enable = true then s.setQueue q { s.queue q with ctl := (s.queue q).ctl &&& 0xFFFFEFFF } else s) s
  (s.partSheaves part).foldl (fun s e =>
    let sh := e.2.withdrawAll
    (s.setSheaf e.1 sh).dropFlightMsgs e.1 (fun f => !sh.flights.any (fun x => x.id = f))) s
/-- An operation starts, or is refused: busy (2), an area too small (1), no slice area (5). -/
def State.startOp (s : State) (op part area limit : Nat) (auto : Bool) : State :=
  let p := s.part part
  let refuse (reason : Nat) : State := s.opEnds part (opWord 3 reason part auto)
  if s.trapPage.op.isSome then refuse 2
  else if op = 1 ∧ auto = true ∧ area = 0 then refuse 5
  else if op = 1 ∧ limit < 0x4600 + 2359296 * p.ltp.length then refuse 1
  else if op = 3 ∧ (p.sarea = 0 ∨ p.sareaValid = false) then refuse 5
  else
    let o : PreOp := ⟨op, part, auto, area, (List.range 64).map (fun q => (q, s.queue q))⟩
    let s := { s with trapPage := { s.trapPage with op := some o, pstate := opWord 1 0 part auto } }
    if op = 1 then s.holdPart part else s
/-- A write of PRCTL. -/
def State.prctl (s : State) (op part area limit : Nat) : State :=
  if !s.hostVis || 16 ≤ part then s
  else ({ s with trapPage := { s.trapPage with prctl := word (part + 16 * op) } } : State).startOp op part area limit false
def execPreempt (part : Nat) (s : State) : Out := .next (s.prctl 1 part s.trapPage.parea.toNat s.trapPage.plimit.toNat)
def execRestoreParea (part : Nat) (s : State) : Out := .next (s.prctl 2 part s.trapPage.parea.toNat 0)
def execRestoreSarea (part : Nat) (s : State) : Out := .next (s.prctl 3 part (s.part part).sarea.toNat 0)
/-- OP 0 has no effect. -/
def execPrctlNone (_part : Nat) (s : State) : Out := .next s
/-- An automatic pre-emption: a refused one starts the slice again. -/
def State.slicePreempt (s : State) (part : Nat) : State :=
  let p := s.part part
  let s := (s.setPart part { p with sliceDue := false, armed := false }).startOp 1 part p.sarea.toNat (p.slimit.toNat * 4096) true
  if s.partHeld part then s else s.setPart part { s.part part with armed := true, sliceFrom := s.clock }
/-- TSLICE microseconds of 2,000 cycles have passed. -/
def execSliceExpiry (part : Nat) (s : State) : Out :=
  let p := s.part part
  if 16 ≤ part ∨ p.armed = false ∨ p.tslice = 0 ∨ s.clock < p.sliceFrom + 2000 * p.tslice.toNat then .next s
  else if s.trapPage.op.isSome then .next (s.setPart part { p with sliceDue := true, armed := false })
  else .next (s.slicePreempt part)

/-! ### Steps 2 and 3 of a pre-emption (R334) -/

/-- The contexts of a partition, at most 16: those of its queues, crops and sheaves. -/
def State.partCtxs (s : State) (part : Nat) : List Nat :=
  let add (l : List Nat) (c : Nat) : List Nat := if l.contains c ∨ 16 ≤ l.length then l else l ++ [c]
  let qs : KV LQueue := (s.trapPage.op.map (·.queues)).getD []
  let l := (qs.filter (fun (e : Nat × LQueue) => e.2.part == part && e.2.enable)).foldl (fun l (e : Nat × LQueue) => add l e.2.ctx) []
  let l := (s.crops.filter (fun e => e.2.part == part)).foldl (fun l e => add l e.2.ctx) l
  (s.partSheaves part).foldl (fun l e => add l e.2.ctx) l
/-- Whether what step 1 left under way has come to an end, and nothing keeps the write-backs: instructions performed in
part, thresher operations, a half that the host holds, memory that does not answer, chaff records and merges that wait. -/
def State.quiet (s : State) (part : Nat) (ctxs : List Nat) : Bool :=
  let uids := (s.partStooks part).map (·.1)
  let keys := (s.crops.filter (fun e => e.2.part == part)).map (·.1)
  (s.partSheaves part).all (fun e => e.2.flights.all (fun f => f.stage == .waiting) && (decide (parkedBase ≤ e.2.core) || !s.spillWaits e.2)) &&
  (s.partStooks part).all (fun e => e.2.merge.all (fun m => !s.mergeWaits (e.2.cores.headD 0) m)) &&
  s.cores.all (fun e => !e.2.mx.queue.any (fun q => uids.contains q.uid) &&
    !(e.2.mx.zeroing && (match e.2.mx.lastUser with | some k => keys.contains k | none => false))) &&
  s.msgs.all (fun (e : Nat × MsgEnt) => match e.2.msg with
    | .reg _ wa _ hd ctx _ _ => !ctxs.contains ctx || !(s.hostHolds (4 * wa) || s.dieWaits hd)
    | _ => true) &&
  s.barns.all (fun e => e.2.words.all (fun w => !(ctxs.contains w.2.ctx && w.2.phase != [] && s.hostHolds (4 * w.1))) &&
    e.2.gather.all (fun g => !(ctxs.contains g.2.ctx && s.hostHolds g.1)))
/-- Writes to peers that are not acknowledged are marked failed; reads are dropped and made again. -/
def State.failPeers (s : State) (part : Nat) : State :=
  let sids := (s.partSheaves part).map (·.1)
  let stooks := s.partStooks part
  s.msgs.foldl (fun s (e : Nat × MsgEnt) => match e.2.msg with
    | .peer _ 0 id c _ _ data _ _ =>
      if stooks.any (fun k => (s.opsOf k.1 k.2).any (fun o => o.2.id == id)) then
        let s := s.dropMsg e.1
        if data.isSome then s.setWain c id (fun o => { o with stopped := if o.stopped = 0 then 4 else o.stopped }) else s
      else s
    | .peer _ _ _ _ pa _ (some _) _ _ =>
      if e.2.waiters.any (fun w => sids.contains w.1) then (s.dropMsg e.1).peerWriteFailed pa e.2.waiters else s
    | _ => s) s
/-- Registrations of the contexts are recorded at their homes. -/
def State.settleRegs (s : State) (ctxs : List Nat) : State :=
  s.msgs.foldl (fun s (e : Nat × MsgEnt) => match e.2.msg with
    | .reg b wa n hd ctx pte rec =>
      if ctxs.contains ctx then (if rec then s else s.recordRegs b ((List.range n).map (· + wa)) hd ctx pte).dropMsg e.1 else s
    | _ => s) s
/-- Owned and phase words of the contexts are written back, gather copies published, eviction buffers emptied. -/
def State.settleBarn (s : State) (b : Nat) (ctxs : List Nat) : State :=
  let s := ((s.barn b).evict.filter (fun e => e.words.any (fun w => ctxs.contains w.2.ctx))).foldl (fun s e => s.recordWb b e.msg) s
  let s := ((s.barn b).words.filter (fun w => ctxs.contains w.2.ctx)).foldl (fun s w =>
    if w.2.phase != [] then
      let s := s.writePhase b w.1 w.2
      s.setBarn b { s.barn b with words := (s.barn b).words.erase w.1 }
    else if s.ownerOf w.1 = some b then s.recallWord w.1 else s) s
  ((s.barn b).gather.filter (fun g => ctxs.contains g.2.ctx)).foldl (fun s g => s.publish b g.1) s
/-- The home takes every RGNB that has reached it. -/
def State.takeBuilds (s : State) (key : Nat) : State :=
  (((s.regions.find? key).map (·.arrivals)).getD []).foldl (fun s _ => match s.regions.find? key with
    | some r => (match r.arrivals with
      | b :: rest => s.takeBuild key r b rest
      | [] => s)
    | none => s) s
/-- Builds start again later, with the counters of second ones, refits are abandoned (15 R277). -/
def State.settleRegion (s : State) (key : Nat) : State :=
  let s := (s.takeBuilds key).refitAbandon key 3
  match s.regions.find? key with
  | none => s
  | some r =>
    match r.build with
    | some b =>
      let again : Build := { b with recs := [], set := 0, lanes := 0, counters := b.counters.drop (if b.counter.isSome then 1 else 0) }
      { s with regions := s.regions.put key { r with build := none, building := false, arrivals := again :: r.arrivals } }
    | none => s
/-- WAITA lanes whose instruction was replayed end it with status 2 at once; the others complete it after the restore. -/
def State.settleWaits (s : State) (sid : Nat) : State :=
  match s.sheaf? sid with
  | none => s
  | some sh =>
    (sh.flights.filter (fun f => !f.stay)).foldl (fun s f =>
      match f.instr with
      | .waita .. =>
        let done (a : Acc) : Acc := { a with st := .done (bytesOf 4 2) }
        let f' := { f with ready := f.path, accs := f.accs.map done }
        (s.modSheaf sid (fun sh => sh.modFlight f.id (fun _ => f'))).releaseReady sid f'
      | _ => s) s
/-- A copy that stops at a beat boundary writes the halves of words that it holds back (09 R164). -/
def State.flushHalves (s : State) (core : Nat) : State :=
  (s.core core).wainRun.foldl (fun s o => s.wainFlush core { o with held := o.held.filter (fun e => !o.late e.1) }) s
/-- Lanes that a completed wait has released, and that a freeze or the operation has kept at their instruction, leave it: the
release is not lost (09 R167, 17 R301). A parked sheaf acquires nothing, as its place on a core will be new. -/
noncomputable def State.deliverReady (s : State) (sid : Nat) : State :=
  match s.sheaf? sid with
  | none => s
  | some sh => (sh.flights.filter (fun f => f.stay && f.ready != 0)).foldl (fun s f =>
      s.tryFlight sid f.id (fun s sid sh f =>
        if parkedBase ≤ sh.core then s.moveOn sid f (f.ready &&& f.path) else s.advanceFlight sid sh f)) s
/-- What is settled before the records are written. -/
noncomputable def State.settle (s : State) (part : Nat) (ctxs : List Nat) : State :=
  let sids := (s.partSheaves part).map (·.1)
  let uids := (s.partStooks part).map (·.1)
  let s := sids.foldl (fun s sid => s.deliverReady sid) s
  let s := uids.foldl (fun s u => s.mergeFlush u) s
  let s := sids.foldl (fun s sid => s.closePhases sid) s
  let s := s.spillOut sids
  let s := (((s.partStooks part).filter (fun k => !k.2.parked)).flatMap (fun k => k.2.cores)).eraseDups.foldl (fun s c => s.flushHalves c) s
  let s := (s.pfl2.filter (fun o => uids.contains o.uid)).foldl (fun s o => match execPfl2Complete o.die o.id s with
    | .next s => s
    | _ => s) s
  let s := s.failPeers part
  let s := s.settleRegs ctxs
  let s := (s.barns.map (·.1)).foldl (fun s b => s.settleBarn b ctxs) s
  let s := sids.foldl (fun s sid => s.settleWaits sid) s
  let s := (s.colls.filter (fun o => uids.contains o.uid)).foldl (fun s o => (s.modColl o.id (fun o => { o with written := [] })).collEnd o.id) s
  (s.regions.filter (fun e => ctxs.contains e.2.ctx)).foldl (fun s e => s.settleRegion e.1) s

/-! ### Steps 4 and 5: the area is written (R336 to R339) -/

/-- The crop records: crops in the order of their doorbells, then records taken and not yet dealt. -/
def State.areaCrops (s : State) (part : Nat) : List (Nat × Crop) :=
  sortBy (fun (a b : Nat × Crop) => decide (a.2.order < b.2.order)) (s.crops.filter (fun e => e.2.part == part)) ++
  (List.range 64).filterMap (fun q => if (s.queue q).part = part then (s.queue q).taken.map (fun t => (0, newCrop (s.queue q) q t)) else none)
/-- The stook records: each crop's stooks by position, its trap stooks after them. -/
def State.areaStooks (s : State) (crops : List (Nat × Crop)) : List (Nat × Nat × Stook) :=
  crops.zipIdx.flatMap (fun c =>
    let mine := s.stooks.filter (fun e => e.2.crop == c.1.1)
    (sortBy (fun (a b : Nat × Stook) => if a.2.trapStook = b.2.trapStook then decide (a.2.pos < b.2.pos) else b.2.trapStook) mine).map
      (fun e => (c.2, e.1, e.2)))
/-- The core records of the threshers whose last user is a crop of the partition, those of moved owners among them. -/
def State.areaThreshers (s : State) (p : Part) (keys : List Nat) (stooks : List (Nat × Nat × Stook)) : List (List Byte) :=
  let rec1 (core : Nat) (t : Thresher) : List Byte := image 256 [(0, bytesOf 4 (p.ltp.findIdx (· == core)))] ++ s.mxBlock stooks t
  (s.cores.filter (fun e => match e.2.mx.lastUser with | some k => keys.contains k | none => false)).map (fun e => rec1 e.1 e.2.mx) ++
  stooks.flatMap (fun k => k.2.2.savedMx.map (fun m => rec1 (k.2.2.cores.getD m.1 0) m.2))
def Group.bytes (g : Group) : List Byte :=
  bytesOf 8 g.members.toNat ++ bytesOf 2 g.nmemb ++ bytesOf 2 g.rank ++ bytesOf 1 g.fanout ++ bytesOf 1 g.retry ++ bytesOf 2 g.flags ++
  bytesOf 4 g.ctx ++ bytesOf 4 g.seq.toNat ++ bytesOf 4 g.rebuilds.toNat ++ bytesOf 4 0
def Group.ofBytes (bs : List Byte) : Group :=
  { members := dword (fieldNat bs 0 8), nmemb := fieldNat bs 8 2, rank := fieldNat bs 10 2, fanout := fieldNat bs 12 1
    retry := fieldNat bs 13 1 % 16, flags := fieldNat bs 14 2 % 32, ctx := fieldNat bs 16 4 % 4096, seq := word (fieldNat bs 20 4)
    rebuilds := word (fieldNat bs 24 4) }
/-- The header's length: crop records follow it. -/
def areaHead : Nat := 0x4600
/-- A stook as the area keeps it: its tags and its engine operations with it. -/
def State.savedStook (s : State) (uid : Nat) (k : Stook) : Stook :=
  let tags := (List.range 128).filterMap (fun t =>
    if (s.tagAt uid k (t / 64) (t % 64)).st = .idle then none else some (t, s.tagAt uid k (t / 64) (t % 64)))
  { k with
    saved := if k.parked then k.saved else tags
    savedOps := s.opsOf uid k }
/-- The area of a partition: its bytes, and the records they were made from. -/
def State.areaImage (s : State) (part : Nat) (ctxs : List Nat) : Aside :=
  let p := s.part part
  let crops := s.areaCrops part
  let stooks := s.areaStooks crops
  let sheaves := stooks.zipIdx.flatMap (fun k => (s.sheavesOf k.1.2.2).map (fun e => (k.2, e.1, e.2)))
  let mx := s.areaThreshers p (crops.map (·.1)) stooks
  let kb := stooks.map (fun k => s.stookRecord k.1 k.2.1 k.2.2)
  let sb := sheaves.map (fun e => s.sheafRecord e.1 e.2.1 e.2.2)
  let oCore := areaHead + 256 * crops.length
  let oStook := oCore + 83200 * mx.length
  let oSheaf := oStook + kb.flatten.length
  let size := oSheaf + sb.flatten.length
  let qs : KV LQueue := (s.trapPage.op.map (·.queues)).getD []
  let ctxTab (n : Nat) (f : Nat → List Byte) : List Byte := ((List.range 16).flatMap (fun k => match ctxs[k]? with
    | some c => (f c).take n
    | none => List.replicate n 0))
  { image :=
      image areaHead [
        (0, bytesOf 4 1 ++ bytesOf 4 part ++ bytesOf 8 size ++ bytesOf 4 crops.length ++ bytesOf 4 mx.length ++ bytesOf 4 kb.length ++
          bytesOf 4 sb.length ++ bytesOf 8 areaHead ++ bytesOf 8 oCore ++ bytesOf 8 oStook ++ bytesOf 8 oSheaf ++ bytesOf 4 ctxs.length),
        (0x100, (List.range 64).flatMap (fun q =>
          let x := qs.getD q .reset
          if x.part = part then x.imgBytes else List.replicate 64 0)),
        (0x1100, (List.range 256).flatMap (fun g =>
          if (s.group g).flags % 2 = 1 ∧ bitsOf (s.group g).flags 1 4 = part then (s.group g).bytes else List.replicate 32 0)),
        (0x3100, ctxTab 4 (fun c => bytesOf 4 c)), (0x3140, ctxTab 64 (fun c => s.ctxBytes c)),
        (0x3540, ctxTab 256 (fun c => s.physRead (s.vtab c) 256))] ++
      (crops.flatMap (fun c => c.2.bytes)) ++ mx.flatten ++ kb.flatten ++ sb.flatten
    crops := crops.map (·.2)
    stooks := stooks.map (fun k => s.savedStook k.2.1 k.2.2)
    sheaves := sheaves.map (·.2.2)
    colls := stooks.zipIdx.flatMap (fun k => (s.collsOf k.1.2.1).map (fun o =>
      (k.2, { o with core := k.1.2.2.cores.findIdx (· == o.core), sid := k.1.2.2.ixOf o.sid, recs := [], written := [], given := [], out := none, done := 0 }))) }
/-- The partition is empty: its stooks, crops, copies and steps gone, its tags idle, its threshers released (11 R203). -/
def State.emptyPart (s : State) (part : Nat) : State :=
  let keys := (s.crops.filter (fun e => e.2.part == part)).map (·.1)
  let stooks := s.partStooks part
  let uids := stooks.map (·.1)
  let sids := (s.partSheaves part).map (·.1)
  let free (t : Tag) : Tag := if (match t.holder with | some u => uids.contains u | none => false) then .idle else t
  let core (c : Core) : Core := { c with
    tags := c.tags.map (fun (t : Nat × Tag) => (t.1, free t.2))
    wainQ := c.wainQ.filter (fun o => !uids.contains o.uid)
    wainRun := c.wainRun.filter (fun o => !uids.contains o.uid)
    mx := if (match c.mx.lastUser with | some k => keys.contains k | none => false) then .reset
      else { c.mx with waitq := c.mx.waitq.filter (fun q => !sids.contains q) } }
  let s := { s with cores := s.cores.map (fun (e : Nat × Core) => (e.1, core e.2)) }
  let s := stooks.foldl (fun s e => s.removeStook e.1) s
  let idle (q : LQueue) : LQueue := if q.part = part then { q with taken := none, bells := [], recs := [] } else q
  { s with
    crops := s.crops.filter (fun e => e.2.part != part)
    colls := s.colls.filter (fun o => !uids.contains o.uid)
    queues := s.queues.map (fun (e : Nat × LQueue) => (e.1, idle e.2)) }
/-- A pre-emption from step 2 on. -/
noncomputable def State.savePart (s : State) (o : PreOp) : State :=
  let ctxs := s.partCtxs o.part
  let s := s.settle o.part ctxs
  let a := s.areaImage o.part ctxs
  let s := (s.packageWrite o.area a.image).emptyPart o.part
  let s := { s with asides := s.asides.put o.area a }
  s.setPart o.part { s.part o.part with heldCtx := ctxs, sareaValid := (s.part o.part).sareaValid || o.auto, armed := false, sliceDue := false }

/-! ### Restore (R335, R374; 11 R205) -/

/-- A context area as it is read. -/
structure Area where
  bs : List Byte
  aside : Option Aside
def Area.f (a : Area) (off n : Nat) : Nat := fieldNat a.bs off n
def Area.nCrop (a : Area) : Nat := a.f 0x10 4
def Area.nCore (a : Area) : Nat := a.f 0x14 4
def Area.nStook (a : Area) : Nat := a.f 0x18 4
def Area.nSheaf (a : Area) : Nat := a.f 0x1C 4
def Area.crop (a : Area) (i : Nat) : List Byte := (a.bs.drop (a.f 0x20 8 + 256 * i)).take 256
def Area.core (a : Area) (i : Nat) : List Byte := (a.bs.drop (a.f 0x28 8 + 83200 * i)).take 83200
/-- The lengths of a stook and of a sheaf record that stand at an offset. -/
def Area.stookLen (a : Area) (off : Nat) : Nat :=
  let w := a.f (off + 12) 4
  2048 + 4096 * (w % 256 + bitsOf w 8 8 + bitsOf w 16 8)
def Area.sheafLen (a : Area) (off : Nat) : Nat :=
  let hd := a.f (off + 4) 4
  let w := widthOf (bitsOf hd 16 2)
  roundUp (1024 + 32 * w + 4 * w * (8 * bitsOf hd 24 4) + 64 * w * Nat.min (a.f (off + 0x24) 4) 8) 256
/-- The offsets of `n` records of lengths that they state themselves. -/
def offsetsOf (len : Nat → Nat) : Nat → Nat → List Nat
  | 0, _ => []
  | n + 1, off => off :: offsetsOf len n (off + len off)
def Area.stooks (a : Area) : List (List Byte) := (offsetsOf a.stookLen a.nStook (a.f 0x30 8)).map (fun o => (a.bs.drop o).take (a.stookLen o))
def Area.sheaves (a : Area) : List (List Byte) := (offsetsOf a.sheafLen a.nSheaf (a.f 0x38 8)).map (fun o => (a.bs.drop o).take (a.sheafLen o))
/-- VERSION is not 1, or an offset passes SIZE. -/
def Area.malformed (a : Area) : Bool :=
  let size := a.f 8 8
  decide (a.f 0 4 ≠ 1) || [0x20, 0x28, 0x30, 0x38].any (fun o => decide (size < a.f o 8)) ||
  decide (size < a.f 0x20 8 + 256 * a.nCrop) || decide (size < a.f 0x28 8 + 83200 * a.nCore) ||
  (offsetsOf a.stookLen a.nStook (a.f 0x30 8)).any (fun o => decide (size < o + a.stookLen o)) ||
  (offsetsOf a.sheafLen a.nSheaf (a.f 0x38 8)).any (fun o => decide (size < o + a.sheafLen o))
def State.readArea (s : State) (area : Nat) : Area :=
  let bs := s.physRead area (s.physNat (area + 8) 8)
  ⟨bs, match s.asides.find? area with
    | some x => if x.image = bs then some x else none
    | none => none⟩
/-- A saved footprint that fits no seat of the partition. -/
def Area.noSeat (a : Area) (s : State) (part : Nat) : Bool :=
  a.stooks.any (fun k => (s.recErrors (s.part part) ((a.crop (fieldNat k 0 4)).take 128)).any (fun c => c == 4 || c == 5 || c == 11))

/-- Queues, groups and context entries, with their vector tables (R335 step 1). The partition is the one restored into. Reserved
bits of QCTL read zero (00 R7). A QBASE that is no multiple of 128 and a QSIZE that is no power of two from 2 to 4,096, which a
write of the field would not leave so (R387), are stored as the image has them: DESIGN CHOICE (log 61). -/
def State.restoreTables (s : State) (part : Nat) (a : Area) : State :=
  let s := (List.range 64).foldl (fun s q =>
    let o := 0x100 + 64 * q
    if a.f (o + 8) 4 = 0 then s
    else
      let x : LQueue := {
        base := dword (a.f o 8), size := word (a.f (o + 8) 4), ctl := word (a.f (o + 12) 4 / 16 * 16 + part) &&& 0x0FFF1F0F, head := word (a.f (o + 16) 4)
        tail := word (a.f (o + 20) 4), err := word (a.f (o + 24) 4), taken := none
        bells := if a.f (o + 20) 4 = a.f (o + 16) 4 then [] else [(word (a.f (o + 20) 4), s.bell)], recs := [], fn := (s.queue q).fn }
      { s.setQueue q x with bell := s.bell + 1 }) s
  let s := (List.range 256).foldl (fun s g =>
    let e := Group.ofBytes ((a.bs.drop (0x1100 + 32 * g)).take 32)
    if e.flags % 2 = 1 then s.setGroup g { e with flags := 1 + 2 * part } else s) s
  (List.range (Nat.min (a.f 0x40 4) 16)).foldl (fun s k =>
    let c := a.f (0x3100 + 4 * k) 4 % 4096
    let s := s.packageWrite (s.trans.ctxbase.toNat + 64 * c) ((a.bs.drop (0x3140 + 64 * k)).take 64)
    let s := s.packageWrite (s.vtab c) ((a.bs.drop (0x3540 + 256 * k)).take 256)
    { s with trans := { s.trans with ctxCache := s.trans.ctxCache.erase c } }) s

/-- The position of a stook by its linear index. -/
def posOf (r : List Byte) (lin rank : Nat) : Nat :=
  if recDet r then ((List.range (rickCount r)).find? (fun k => (rickStooks r k).contains lin)).getD 0 * recRick r + rank else lin
/-- A crop read back: positions below NEXT without a record have retired, and the token does not stay at one of them: its
stook was killed. What this device itself wrote it takes back as it was, ricks that wait to be placed again among it. -/
def Area.cropAt (a : Area) (s : State) (part i : Nat) (placed : List Nat) : Crop :=
  let bs := a.crop i
  let r := bs.take 128
  let f (off : Nat) : Nat := fieldNat bs off 4
  let q := s.queue (f 0x84 % 64)
  let last := rickCount r * recRick r
  let exist := (List.range (Nat.min (f 0x88) last)).filter (fun p => posExists r p)
  let retired := exist.filter (fun p => !placed.contains p)
  let counted := ((List.range last).filter (fun p => posExists r p)).take (f 0x8C)
  let finished := (if recDet r then retired.filter (fun p => !counted.contains p) else []).map (fun p => (p, 0))
  let c : Crop := {
    record := r, seq := f 0x80, queue := f 0x84 % 64, part := part, ctx := q.ctx, prio := Nat.min (recPrio r) q.maxPrio, order := s.bell
    next := f 0x88, counted := f 0x8C, diePend := [placed.length + finished.length, 0, 0, 0], retired := retired, finished := finished
    tokPos := f 0xA0, tokRound := f 0xA4, done := (f 0xA8).testBit 0, killed := (f 0xA8).testBit 1, relaunches := [], replaced := []
    redo := [], merged := [], cores := [], suspect := 0, confirmed := false, statSet := (f 0xA8).testBit 1 }
  let c := if c.done then { c with cores := (s.part part).ltp.map (fun k => (k, true)) } else c
  match a.aside.bind (fun x => x.crops[i]?) with
  | some x => { c with relaunches := x.relaunches, redo := x.redo, merged := x.merged, suspect := x.suspect, order := x.order
                       killed := x.killed, statSet := x.statSet, replaced := x.replaced, retired := x.retired, finished := x.finished.map (fun p => (p.1, 0))
                       diePend := [placed.length + (if recDet r then x.finished.length else 0), 0, 0, 0]
                       cores := if c.done then c.cores else x.cores }
  | none => if c.det && c.retired.contains c.tokPos then c.moveToken else c
/-- A crop record that was taken and not yet dealt: its dependences are read again. -/
def Area.undealt (a : Area) (i : Nat) : Bool :=
  let bs := a.crop i
  let f (off : Nat) : Nat := fieldNat bs off 4
  (List.range 4).any (fun k => recDep bs k != 0) && f 0x88 == 0 && f 0x8C == 0 && f 0xA8 == 0 && !a.stooks.any (fun k => fieldNat k 0 4 == i) &&
  (List.range a.nCrop).all (fun j => decide (j ≤ i) || fieldNat (a.crop j) 0x84 4 != f 0x84)
/-- Keys of the crop records; 0 for one that is not dealt yet. -/
def State.restoreCrops (s : State) (part : Nat) (a : Area) : List Nat × State :=
  (List.range a.nCrop).foldl (fun (acc : List Nat × State) i =>
    let s := acc.2
    let bs := a.crop i
    let qn := fieldNat bs 0x84 4 % 64
    if a.undealt i then
      let t : Taken := ⟨bs.take 128, s.bell, fieldNat bs 0x80 4, 0, [], []⟩
      (acc.1 ++ [0], { s.setQueue qn { s.queue qn with taken := some t } with bell := s.bell + 1 })
    else
      let placed := (a.stooks.filter (fun k => fieldNat k 0 4 == i)).map (fun k => posOf (bs.take 128) (fieldNat k 4 4) (fieldNat k 8 4 % 4))
      let (key, s) := s.fresh
      (acc.1 ++ [key], { s.setCrop key (a.cropAt s part i placed) with bell := s.bell + 1 })) ([], s)

/-- `n` fresh names. -/
def State.freshes : Nat → State → List Nat × State
  | 0, s => ([], s)
  | n + 1, s =>
    let (x, s) := s.fresh
    let (l, s) := State.freshes n s
    (x :: l, s)
/-- The records of the sheaves of a stook record. -/
def Area.sheavesOf (a : Area) (i : Nat) : List (Nat × List Byte) := (a.sheaves.zipIdx.filter (fun e => fieldNat e.1 0 4 == i)).map (fun e => (e.2, e.1))
def isTrapRec (bs : List Byte) : Bool := (fieldNat bs 8 4).testBit 1
/-- A collective step reissued with its saved number, its core given by its place (20 R352). -/
def State.collBack (s : State) (place : Nat) (o : CollOp_) : State :=
  let (id, s) := s.fresh
  { s with colls := s.colls ++ [{ o with id := id, core := place }] }
/-- One stook as a parked one: its names, its tags, copies and bins. It waits for its write ranges where their page faults
(18 R307, 16 R283). -/
def State.restoreStook (s : State) (a : Area) (keys : List Nat) (i : Nat) (bs : List Byte) : (Nat × List Nat) × State :=
  let f (off n : Nat) : Nat := fieldNat bs off n
  let key := keys.getD (f 0 4) 0
  match s.crop? key with
  | none => ((0, []), s)
  | some c =>
    let r := c.record
    let recs := a.sheavesOf i
    let trap := recs.any (fun e => isTrapRec e.2)
    let (uid, s) := s.fresh
    let (sids, s) := s.freshes (if trap then 1 else (recSheaves r).length)
    let w := f 0xC 4
    let (nw, na, nc) := (w % 256, bitsOf w 8 8, bitsOf w 16 8)
    let bin (units before : Nat) : KV Byte := binOfBytes ((bs.drop (2048 + 4096 * before)).take (4096 * units))
    let rank := f 8 4 % 4
    let pos := posOf r (f 4 4) rank
    let aside := a.aside.bind (fun x => x.stooks[i]?)
    let ops := (List.range 16).filterMap (fun k => SavedOp.ofBytes ((bs.drop (0x240 + 64 * k)).take 64) uid sids)
    let wain : List (Nat × WainOp) := ops.filterMap (fun o => match o with
      | .wain c o => some (c, o)
      | _ => none)
    let more : List (Nat × WainOp) := match aside with
      | some x => (x.savedOps.drop wain.length).map (fun o => (o.1, { o.2 with uid := uid, written := [], recs := [] }))
      | none => []
    let halves (n : Nat) (o : WainOp) : WainOp := match aside.bind (fun x => x.savedOps[n]?) with
      | some x => { o with held := x.2.held, seen := x.2.seen }
      | none => o
    let (ids, s) := s.freshes (wain.length + more.length)
    let ops' : List (Nat × WainOp) := ((wain ++ more).zip ids).zipIdx.map (fun e => (e.1.1.1, halves e.2 { e.1.1.2 with id := e.1.2 }))
    let tags : KV Tag := match aside with
      | some x => x.saved.map (fun (t : Nat × Tag) => (t.1, { t.2 with holder := some uid }))
      | none => (List.range 64).filterMap (fun t => if (tagOf bs uid t).st = .idle then none else some (t, tagOf bs uid t))
    let parked := (f 8 4).testBit 8
    let k : Stook := {
      crop := key, linear := f 4 4, pos := pos, rank := rank, rick := pos / recRick r
      rickSize := if trap then 1 else (rickStooks r (pos / recRick r)).length, redo := (aside.map (·.redo)).getD (c.redo.getD pos 0)
      cores := if recPair r ∧ ¬trap then [0, 1] else [0], wUnits := nw, aUnits := na, cUnits := nc, binW := bin nw 0, binA := bin na nw
      binC := bin nc (nw + na), sheaves := sids, round := (aside.map (·.round)).getD (if pos < c.tokPos then c.tokRound + 1 else c.tokRound), ranges := [], merge := []
      parked := true
      wakes := if parked then recs.map (fun e => (fieldNat e.2 0xC 4, fieldNat e.2 0x10 8, 0)) else [(0, 0, 0)]
      trapStook := trap, killed := false, saved := tags, savedOps := ops', savedMx := [], park := (0, 0) }
    let (rg, s) := if trap then (some [], s) else s.readRanges c k.linear
    let s := s.setStook uid { k with ranges := rg.getD [], wakes := if rg.isNone then k.wakes ++ [(8, 0, 0)] else k.wakes }
    let colls : List (Nat × CollOp_) := ops.filterMap (fun o => match o with
      | .coll pl o => some (pl, o)
      | _ => none)
    let kept : List CollOp_ := (((a.aside.map (·.colls)).getD []).filter (fun e => e.1 == i)).map (fun e => { e.2 with uid := uid, sid := sids.getD e.2.sid 0 })
    let s := colls.zipIdx.foldl (fun s e => s.collBack e.1.1 (match kept[e.2]? with
      | some x => { e.1.2 with snap := x.snap, torn := x.torn }
      | none => e.1.2)) s
    let s := (kept.drop colls.length).foldl (fun s o => s.collBack o.core o) s
    ((uid, sids), s)
/-- One sheaf of a restored stook, on no core yet. A trap not yet recorded, held releases and failed peer lines come from
what this device kept, if the area is its own; otherwise the instruction meets its condition again. -/
def State.restoreSheaf (s : State) (a : Area) (names : List (Nat × List Nat)) (j : Nat) (bs : List Byte) : State :=
  let (uid, sids) := names.getD (fieldNat bs 0 4) (0, [])
  match s.stook? uid with
  | none => s
  | some k =>
    let c := (s.cropOf k).map (·.prio)
    let sh := sheafOf bs uid (if k.trapStook then 8 else c.getD 0) 0 (s.watches (fieldNat bs 0x1C 4 % 4096)) (s.joinLen 0 (fieldNat bs 0x1C 4 % 4096))
    let place := if 1 < k.cores.length then sh.idx % 2 else 0
    let aside := a.aside.bind (fun x => x.sheaves[j]?)
    let keep (i : Nat) (l : Lane) : Lane := match aside with
      | some x => { l with failed := (x.lane i).failed, hold := (x.lane i).hold }
      | none => l
    let sh : Sheaf := { (sh.modLanes sh.full keep) with
      core := parkedBase + k.cores.getD place 0
      trap := aside.bind (·.trap)
      watchq := ((aside.map (·.watchq)).getD [])
      frozen := sh.frozen && (sh.slot.isSome || (aside.bind (·.trap)).isSome) }
    let sh := { sh with resuming := !sh.frozen && !(sh.replay.isEmpty && sh.watchq.isEmpty) }
    s.setSheaf (sids.getD (if k.trapStook then 0 else sh.idx) 0) sh
/-- A trap sheaf serves the sheaf that holds its slot, of its own context first. -/
def State.restoreServes (s : State) (names : List (Nat × List Nat)) (bs : List Byte) : State :=
  if !isTrapRec bs then s
  else
    let (_, sids) := names.getD (fieldNat bs 0 4) (0, [])
    let slot := fieldNat bs 0x20 4
    let all := (names.flatMap (·.2)).filterMap (fun sid => (s.sheaf? sid).map (fun sh => (sid, sh)))
    let hit := all.filter (fun e => e.2.frozen && e.2.slot == some slot)
    let same := hit.filter (fun e => e.2.ctx == fieldNat bs 0x1C 4 % 4096)
    match (same ++ hit).head? with
    | some e => s.modSheaf (sids.getD 0 0) (fun sh => { sh with serves := some e.1 })
    | none => s
/-- A thresher goes with its owner's stook; one without an owner to the core with its logical number. The sheaves that waited
for it are in its queue again (11 R205). -/
def State.restoreMx (s : State) (part : Nat) (names : List (Nat × List Nat)) (keys : List Nat) (bs : List Byte) : State :=
  let blk := bs.drop 256
  let ref := fieldNat blk 4 4
  let sidOf (ref : Nat) : Option Nat := if ref.testBit 31 then (names.getD (bitsOf ref 8 16) (0, [])).2[ref % 256]? else none
  let t := { thresherOf blk with waitq := (List.range (Nat.min (fieldNat blk 0x14 4) 32)).filterMap (fun i => sidOf (fieldNat blk (0x40 + 4 * i) 4)) }
  if ref.testBit 31 then
    let (uid, sids) := names.getD (bitsOf ref 8 16) (0, [])
    s.modStook uid (fun k =>
      let place := if 1 < k.cores.length then ref % 256 % 2 else 0
      { k with savedMx := k.savedMx.put place { t with owner := sids[ref % 256]?, lastUser := some k.crop } })
  else
    match (s.part part).ltp[fieldNat bs 0 4]?, keys.filter (· != 0) with
    | some core, k :: ks =>
      let m := (s.core core).mx
      if m.owner.isNone ∧ m.queue = [] then
        let s' := s.modMx core (fun m => { t with waitq := t.waitq ++ m.waitq, lastUser := (k :: ks)[Config.choice s.tick % (ks.length + 1)]? })
        { s' with tick := s.tick + 1 }
      else s
    | _, _ => s
/-- A restored stook that was resident is placed, its rick with it, where a seat has room; a trap stook by its sheaf. -/
noncomputable def State.restorePlace (s : State) (uid : Nat) (resident : Bool) : State :=
  match s.stook? uid with
  | none => s
  | some k =>
    if !k.parked || !resident then s
    else if k.trapStook then
      match s.trapSeat k with
      | some c => s.enterCores uid [c]
      | none => s
    else match s.cropOf k, s.rickSeats k with
      | some c, seat :: _ =>
        if s.earlierWaits k c then s
        else (match s.fillRanges (s.rickOf k) with
          | (true, s) => s.enterSeat c.record (s.rickOf k) seat
          | (false, s) => s)
      | _, _ => s
/-- Ownership queues after a restore: a sheaf waits at the thresher of the core on which it now is (11 R184), one that is on
none asks again. -/
def State.restoreQueues (s : State) : State :=
  let here (core q : Nat) : Bool := ((s.sheaf? q).map (fun sh => decide (sh.core = core))).getD false
  let s := { s with
    cores := s.cores.map (fun (e : Nat × Core) => (e.1, { e.2 with mx := { e.2.mx with waitq := e.2.mx.waitq.filter (here e.1) } }))
    stooks := s.stooks.map (fun (e : Nat × Stook) => (e.1, { e.2 with savedMx := e.2.savedMx.map (fun (m : Nat × Thresher) => (m.1, { m.2 with waitq := [] })) })) }
  (s.cores.map (·.1)).foldl (fun s c => if (s.core c).mx.owner.isNone then (match s.mxHead c with
    | some q => s.mxGrant c q
    | none => s) else s) s
/-- A restore: its reason of refusal, or 0. -/
noncomputable def State.restorePart (s : State) (o : PreOp) : Nat × State :=
  let a := s.readArea o.area
  if a.malformed then (3, s)
  else if a.noSeat s o.part then (4, s)
  else
    let s := s.restoreTables o.part a
    let (keys, s) := s.restoreCrops o.part a
    let (names, s) := a.stooks.zipIdx.foldl (fun (acc : List (Nat × List Nat) × State) e =>
      let (n, s) := acc.2.restoreStook a keys e.2 e.1
      (acc.1 ++ [n], s)) ([], s)
    let s := a.sheaves.zipIdx.foldl (fun s e => s.restoreSheaf a names e.2 e.1) s
    let s := a.sheaves.foldl (fun s bs => s.restoreServes names bs) s
    let s := (List.range a.nCore).foldl (fun s i => s.restoreMx o.part names keys (a.core i)) s
    let s := (names.zip a.stooks).foldl (fun s e => s.restorePlace e.1.1 (!(fieldNat e.2 8 4).testBit 8)) s
    let s := s.restoreQueues
    let p := s.part o.part
    (0, s.setPart o.part { p with
      heldCtx := [], sareaValid := false, sliceFrom := s.clock, armed := decide (p.tslice ≠ 0), sliceDue := false })

/-- The operation ends. The slices that are due are taken in ascending partition number; a refused one leaves the device to the
next. -/
def State.finishOp (s : State) (o : PreOp) (reason : Nat) : State :=
  let s := { s with trapPage := { s.trapPage with op := none } }
  let s := s.opEnds o.part (opWord (if reason = 0 then 2 else 3) reason o.part o.auto)
  (List.range 16).foldl (fun s p => if (s.part p).sliceDue && s.trapPage.op.isNone then s.slicePreempt p else s) s
/-- An operation comes to its end: a pre-emption once what step 1 left under way is over; the faults of chaff records that it
has to write are recorded meanwhile. -/
noncomputable def execPreemptOperationEnd (s : State) : Out :=
  match s.trapPage.op with
  | none => .next s
  | some o =>
    if o.op = 1 then (if s.quiet o.part (s.partCtxs o.part) then .next ((s.savePart o).finishOp o 0)
      else .next (s.spillFaults ((s.partSheaves o.part).map (·.1))))
    else
      let (reason, s) := s.restorePart o
      .next (s.finishOp o reason)

end Sys2Proof.Machine
end

