-- ==== Sys2Proof/Machine/LaneInt.lean ====
section
/-! DEFINITION. The integer, logic, bit-field, compare, select, move and cross-lane instructions of the lane set (05 R92 to R105). -/
namespace Sys2Proof.Machine

open Sys2Proof

/-- PLOG (05 R99). -/
def plogDone (s : State) (k : Ctx) (x : PlogArgs) : Done :=
  let p (q : Pred) (l : Nat) : Bool := (k.sh.lane l).pred q
  match x with
  | .and d a b => predDone s k d.val (fun l => p a l && p b l)
  | .or d a b => predDone s k d.val (fun l => p a l || p b l)
  | .xor d a b => predDone s k d.val (fun l => p a l != p b l)
  | .andn d a b => predDone s k d.val (fun l => p a l && !p b l)
  | .mov d a => predDone s k d.val (fun l => p a l)
  | .not d a => predDone s k d.val (fun l => !p a l)
  | .pack d => groupDone s k d.reg (fun l => [(k.sh.lane l).preds.zeroExtend 32])
  | .unpack a => { st := s.modSheaf k.sid (fun sh => sh.modLanes k.e (fun l x =>
      { x with preds := (k.opA a l 0).extractLsb' 0 7 })) }

/-- The lane that XCH reads, exact (05 R102). -/
def xchFrom (mode : XMode) (i : Nat) (b : Word) : Int :=
  match mode with
  | .idx => b.toNat
  | .xor => Nat.xor i b.toNat
  | .up => (i : Int) - b.toNat
  | .dn => (i : Int) + b.toNat
def xchOk (k : Ctx) (mode : XMode) (b : Reg) (l : Nat) : Bool :=
  let j := xchFrom mode l (k.opB b l 0)
  decide (0 ≤ j ∧ j < 64) && k.e.getLsbD j.toNat
def xchDone (s : State) (k : Ctx) (d : Dst) (a b : Reg) (ty : Sys2Proof.Ty) (mode : XMode) (ok : Option (Fin 7)) : Done :=
  let from_ (l : Nat) : Nat := if xchOk k mode b l then (xchFrom mode l (k.opB b l 0)).toNat else l
  let wide := ty == .s64 || ty == .z64
  let r := groupDone s k d.reg (fun l =>
    if wide then [k.opA a (from_ l) 0, k.opA a (from_ l) 1] else [k.opA a (from_ l) 0])
  match ok with
  | none => r
  | some p => { r with st := (predDone r.st k p.val (fun l => xchOk k mode b l)).st }

/-- The lanes of E whose predicate holds (05 R103). -/
def voteSet (k : Ctx) (a : Pred) (neg : Bool) : LaneSet :=
  laneSetOf 64 (fun l => k.e.getLsbD l && ((k.sh.lane l).pred a != neg))
def voteDone (s : State) (k : Ctx) (x : VoteDst) (a : Pred) (neg : Bool) : Done :=
  let v := voteSet k a neg
  match x with
  | .any d => predDone s k d.val (fun _ => v != 0)
  | .all d => predDone s k d.val (fun _ => v == k.e)
  | .bal d => groupDone s k d (fun _ => [loWord v, hiWord v])

/-- The value that MATCH compares (05 R104). -/
def matchKey (k : Ctx) (a : Reg) (ty : Sys2Proof.Ty) (l : Nat) : DWord :=
  if ty = .s64 ∨ ty = .z64 then k.pairA a l else (k.opA a l 0).zeroExtend 64
def matchSet (k : Ctx) (a : Reg) (ty : Sys2Proof.Ty) (all : Bool) (l : Nat) : DWord :=
  let same := laneSetOf 64 (fun j => k.e.getLsbD j && matchKey k a ty j == matchKey k a ty l)
  if all then (if same = k.e then k.e else 0) else same

/-- REDUX over E (05 R105): ADD modulo 2^32, MIN and MAX under the type. -/
def reduxOf (k : Ctx) (a : Reg) (ty : Sys2Proof.Ty) (op : RedOp) : Word :=
  let f (x y : Word) : Word := match op with
    | .add => x + y | .min => imin ty x y | .max => imax ty x y
    | .and => x &&& y | .or => x ||| y | .xor => x ^^^ y
  match (lanesOf k.e).map (fun l => k.opA a l 0) with
  | [] => 0
  | x :: xs => xs.foldl f x


/-- 05 R92. -/
def execIaddB32 (g : Pred) (d : Dst) (a : Reg) (b : Reg) (s : State) : Out :=
  lane1 (.iaddB32 g d a b) s d (fun k l => iadd .s32 false (k.opA a l 0) (k.opB b l 0))
/-- 05 R92. -/
def execIsubB32 (g : Pred) (d : Dst) (a : Reg) (b : Reg) (s : State) : Out :=
  lane1 (.isubB32 g d a b) s d (fun k l => isub .s32 false (k.opA a l 0) (k.opB b l 0))
/-- 05 R92. -/
def execImulB32 (g : Pred) (d : Dst) (a : Reg) (b : Reg) (s : State) : Out :=
  lane1 (.imulB32 g d a b) s d (fun k l => (k.opA a l 0) * (k.opB b l 0))
/-- 05 R92. -/
def execImulhS32B32 (g : Pred) (d : Dst) (a : Reg) (b : Reg) (s : State) : Out :=
  lane1 (.imulhS32B32 g d a b) s d (fun k l => imulh .s32 (k.opA a l 0) (k.opB b l 0))
/-- 05 R92. -/
def execImulhZ32B32 (g : Pred) (d : Dst) (a : Reg) (b : Reg) (s : State) : Out :=
  lane1 (.imulhZ32B32 g d a b) s d (fun k l => imulh .z32 (k.opA a l 0) (k.opB b l 0))
/-- 05 R92. -/
def execIminS32B32 (g : Pred) (d : Dst) (a : Reg) (b : Reg) (s : State) : Out :=
  lane1 (.iminS32B32 g d a b) s d (fun k l => imin .s32 (k.opA a l 0) (k.opB b l 0))
/-- 05 R92. -/
def execImaxS32B32 (g : Pred) (d : Dst) (a : Reg) (b : Reg) (s : State) : Out :=
  lane1 (.imaxS32B32 g d a b) s d (fun k l => imax .s32 (k.opA a l 0) (k.opB b l 0))
/-- 05 R92. -/
def execIminZ32B32 (g : Pred) (d : Dst) (a : Reg) (b : Reg) (s : State) : Out :=
  lane1 (.iminZ32B32 g d a b) s d (fun k l => imin .z32 (k.opA a l 0) (k.opB b l 0))
/-- 05 R92. -/
def execImaxZ32B32 (g : Pred) (d : Dst) (a : Reg) (b : Reg) (s : State) : Out :=
  lane1 (.imaxZ32B32 g d a b) s d (fun k l => imax .z32 (k.opA a l 0) (k.opB b l 0))
/-- 05 R94. -/
def execShlB32 (g : Pred) (d : Dst) (a : Reg) (b : Reg) (s : State) : Out :=
  lane1 (.shlB32 g d a b) s d (fun k l => shl (k.opA a l 0) (k.opB b l 0).toNat)
/-- 05 R94. -/
def execShrZ32B32 (g : Pred) (d : Dst) (a : Reg) (b : Reg) (s : State) : Out :=
  lane1 (.shrZ32B32 g d a b) s d (fun k l => shr .z32 (k.opA a l 0) (k.opB b l 0).toNat)
/-- 05 R94. -/
def execShrS32B32 (g : Pred) (d : Dst) (a : Reg) (b : Reg) (s : State) : Out :=
  lane1 (.shrS32B32 g d a b) s d (fun k l => shr .s32 (k.opA a l 0) (k.opB b l 0).toNat)
/-- 05 R95. -/
def execAndB32 (g : Pred) (d : Dst) (a : Reg) (b : Reg) (s : State) : Out :=
  lane1 (.andB32 g d a b) s d (fun k l => (k.opA a l 0) &&& (k.opB b l 0))
/-- 05 R95. -/
def execOrB32 (g : Pred) (d : Dst) (a : Reg) (b : Reg) (s : State) : Out :=
  lane1 (.orB32 g d a b) s d (fun k l => (k.opA a l 0) ||| (k.opB b l 0))
/-- 05 R95. -/
def execXorB32 (g : Pred) (d : Dst) (a : Reg) (b : Reg) (s : State) : Out :=
  lane1 (.xorB32 g d a b) s d (fun k l => (k.opA a l 0) ^^^ (k.opB b l 0))
/-- 05 R95. -/
def execAndnB32 (g : Pred) (d : Dst) (a : Reg) (b : Reg) (s : State) : Out :=
  lane1 (.andnB32 g d a b) s d (fun k l => (k.opA a l 0) &&& ~~~(k.opB b l 0))
/-- 05 R98. -/
def execMovB32 (g : Pred) (d : Dst) (a : Reg) (s : State) : Out :=
  lane1 (.movB32 g d a) s d (fun k l => (k.opA a l 0))
/-- 05 R95. -/
def execPopcB32 (g : Pred) (d : Dst) (a : Reg) (s : State) : Out :=
  lane1 (.popcB32 g d a) s d (fun k l => popc (k.opA a l 0))
/-- 05 R95. -/
def execClzB32 (g : Pred) (d : Dst) (a : Reg) (s : State) : Out :=
  lane1 (.clzB32 g d a) s d (fun k l => clz (k.opA a l 0))
/-- 05 R95. -/
def execBrevB32 (g : Pred) (d : Dst) (a : Reg) (s : State) : Out :=
  lane1 (.brevB32 g d a) s d (fun k l => brev (k.opA a l 0))
/-- 05 R93. -/
def execIadd64B32 (g : Pred) (d : Reg) (a : Reg) (b : Reg) (s : State) : Out :=
  lane2 (.iadd64B32 g d a b) s d (fun k l => (k.pairA a l) + (k.pairB b l))
/-- 05 R92. -/
def execIabsB32 (g : Pred) (d : Dst) (a : Reg) (s : State) : Out :=
  lane1 (.iabsB32 g d a) s d (fun k l => iabs false (k.opA a l 0))
/-- 05 R92. -/
def execInegB32 (g : Pred) (d : Dst) (a : Reg) (s : State) : Out :=
  lane1 (.inegB32 g d a) s d (fun k l => ineg false (k.opA a l 0))
/-- 05 R92. -/
def execIaddX64 (g : Pred) (d : Dst) (a : Reg) (b : Reg) (ty : Ty) (sat : Bool) (s : State) : Out :=
  lane1 (.iaddX64 g d a b ty sat) s d (fun k l => iadd ty sat (k.opA a l 0) (k.opB b l 0))
/-- 05 R92. -/
def execIsubX64 (g : Pred) (d : Dst) (a : Reg) (b : Reg) (ty : Ty) (sat : Bool) (s : State) : Out :=
  lane1 (.isubX64 g d a b ty sat) s d (fun k l => isub ty sat (k.opA a l 0) (k.opB b l 0))
/-- 05 R92. -/
def execImulX64 (g : Pred) (d : Dst) (a : Reg) (b : Reg) (ty : Ty) (s : State) : Out :=
  lane1 (.imulX64 g d a b ty) s d (fun k l => (k.opA a l 0) * (k.opB b l 0))
/-- 05 R92. -/
def execImulhX64 (g : Pred) (d : Dst) (a : Reg) (b : Reg) (ty : Ty) (s : State) : Out :=
  lane1 (.imulhX64 g d a b ty) s d (fun k l => imulh ty (k.opA a l 0) (k.opB b l 0))
/-- 05 R92. -/
def execImad (g : Pred) (d : Dst) (a : Reg) (b : Reg) (c : Reg) (ty : Ty) (s : State) : Out :=
  lane1 (.imad g d a b c ty) s d (fun k l => (k.opA a l 0) * (k.opB b l 0) + (k.opC c l 0))
/-- 05 R93. -/
def execImadw (g : Pred) (d : Reg) (a : Reg) (b : Reg) (c : Reg) (ty : Ty) (s : State) : Out :=
  lane2 (.imadw g d a b c ty) s d (fun k l => imadw ty (k.opA a l 0) (k.opB b l 0) (k.pairC c l))
/-- 05 R93. -/
def execIadd64X64 (g : Pred) (d : Reg) (a : Reg) (b : Reg) (ty : Ty) (s : State) : Out :=
  lane2 (.iadd64X64 g d a b ty) s d (fun k l => (k.pairA a l) + (k.pairB b l))
/-- 05 R93. -/
def execLeaX64 (g : Pred) (d : Reg) (a : Reg) (b : Reg) (ty : Ty) (sh : Fin 8) (s : State) : Out :=
  lane2 (.leaX64 g d a b ty sh) s d (fun k l => lea ty (k.pairA a l) (k.opB b l 0) sh.val)
/-- 05 R92. -/
def execIabsX64 (g : Pred) (d : Dst) (a : Reg) (sat : Bool) (s : State) : Out :=
  lane1 (.iabsX64 g d a sat) s d (fun k l => iabs sat (k.opA a l 0))
/-- 05 R92. -/
def execInegX64 (g : Pred) (d : Dst) (a : Reg) (sat : Bool) (s : State) : Out :=
  lane1 (.inegX64 g d a sat) s d (fun k l => ineg sat (k.opA a l 0))
/-- 05 R92. -/
def execIminX64 (g : Pred) (d : Dst) (a : Reg) (b : Reg) (ty : Ty) (s : State) : Out :=
  lane1 (.iminX64 g d a b ty) s d (fun k l => imin ty (k.opA a l 0) (k.opB b l 0))
/-- 05 R92. -/
def execImaxX64 (g : Pred) (d : Dst) (a : Reg) (b : Reg) (ty : Ty) (s : State) : Out :=
  lane1 (.imaxX64 g d a b ty) s d (fun k l => imax ty (k.opA a l 0) (k.opB b l 0))
/-- 05 R94. -/
def execShlX64 (g : Pred) (d : Dst) (a : Reg) (b : Reg) (ty : Ty) (wrap : Bool) (s : State) : Out :=
  lane1 (.shlX64 g d a b ty wrap) s d (fun k l => shl (k.opA a l 0) (shCount wrap (k.opB b l 0)))
/-- 05 R94. -/
def execShrX64 (g : Pred) (d : Dst) (a : Reg) (b : Reg) (ty : Ty) (wrap : Bool) (s : State) : Out :=
  lane1 (.shrX64 g d a b ty wrap) s d (fun k l => shr ty (k.opA a l 0) (shCount wrap (k.opB b l 0)))
/-- 05 R94. -/
def execShf (g : Pred) (d : Dst) (a : Reg) (b : Reg) (c : Reg) (ty : Ty) (lft : Bool) (wrap : Bool) (s : State) : Out :=
  lane1 (.shf g d a b c ty lft wrap) s d (fun k l => shf (k.opA a l 0) (k.opB b l 0) (k.opC c l 0) lft wrap)
/-- 05 R94. -/
def execRot (g : Pred) (d : Dst) (a : Reg) (b : Reg) (ty : Ty) (rgt : Bool) (s : State) : Out :=
  lane1 (.rot g d a b ty rgt) s d (fun k l => rot (k.opA a l 0) (k.opB b l 0) rgt)
/-- 05 R95. -/
def execAndX64 (g : Pred) (d : Dst) (a : Reg) (b : Reg) (ty : Ty) (s : State) : Out :=
  lane1 (.andX64 g d a b ty) s d (fun k l => (k.opA a l 0) &&& (k.opB b l 0))
/-- 05 R95. -/
def execOrX64 (g : Pred) (d : Dst) (a : Reg) (b : Reg) (ty : Ty) (s : State) : Out :=
  lane1 (.orX64 g d a b ty) s d (fun k l => (k.opA a l 0) ||| (k.opB b l 0))
/-- 05 R95. -/
def execXorX64 (g : Pred) (d : Dst) (a : Reg) (b : Reg) (ty : Ty) (s : State) : Out :=
  lane1 (.xorX64 g d a b ty) s d (fun k l => (k.opA a l 0) ^^^ (k.opB b l 0))
/-- 05 R95. -/
def execAndnX64 (g : Pred) (d : Dst) (a : Reg) (b : Reg) (ty : Ty) (s : State) : Out :=
  lane1 (.andnX64 g d a b ty) s d (fun k l => (k.opA a l 0) &&& ~~~(k.opB b l 0))
/-- 05 R95. -/
def execTern (g : Pred) (d : Dst) (a : Reg) (b : Reg) (c : Reg) (ty : Ty) (lut : BitVec 8) (s : State) : Out :=
  lane1 (.tern g d a b c ty lut) s d (fun k l => tern lut (k.opA a l 0) (k.opB b l 0) (k.opC c l 0))
/-- 05 R95. -/
def execPopcX64 (g : Pred) (d : Dst) (a : Reg) (ty : Ty) (s : State) : Out :=
  lane1 (.popcX64 g d a ty) s d (fun k l => popc (k.opA a l 0))
/-- 05 R95. -/
def execClzX64 (g : Pred) (d : Dst) (a : Reg) (ty : Ty) (s : State) : Out :=
  lane1 (.clzX64 g d a ty) s d (fun k l => clz (k.opA a l 0))
/-- 05 R95. -/
def execBrevX64 (g : Pred) (d : Dst) (a : Reg) (ty : Ty) (s : State) : Out :=
  lane1 (.brevX64 g d a ty) s d (fun k l => brev (k.opA a l 0))
/-- 05 R96. -/
def execBfx (g : Pred) (d : Dst) (a : Reg) (ty : Ty) (pos : Fin 32) (ln : Fin 64) (s : State) : Out :=
  lane1 (.bfx g d a ty pos ln) s d (fun k l => bfx ty (k.opA a l 0) pos.val ln.val)
/-- 05 R96. -/
def execBfi (g : Pred) (d : Dst) (a : Reg) (b : Reg) (ty : Ty) (pos : Fin 32) (ln : Fin 64) (s : State) : Out :=
  lane1 (.bfi g d a b ty pos ln) s d (fun k l => bfi (k.opA a l 0) (k.opB b l 0) pos.val ln.val)
/-- 05 R97. -/
def execIcmp (g : Pred) (d : Fin 7) (a : Reg) (b : Reg) (ty : Ty) (cond : Cond) (comb : Combine) (s : State) : Out :=
  laneP (.icmp g d a b ty cond comb) s d (fun k l => combineWith comb (condHolds cond (ext ty (k.opA a l 0)) (ext ty (k.opB b l 0))) (k.sh.lane l).pred)
/-- 05 R98. -/
def execSel (g : Pred) (d : Dst) (a : Reg) (b : Reg) (c : Pred) (ty : Ty) (neg : Bool) (s : State) : Out :=
  lane1 (.sel g d a b c ty neg) s d (fun k l => if (k.sh.lane l).pred c != neg then (k.opA a l 0) else (k.opB b l 0))
/-- 05 R99. -/
def execPlog (g : Pred) (x : PlogArgs) (s : State) : Out :=
  issue (.plog g x) s (fun k => .ok (plogDone s k x))
/-- 05 R98. -/
def execMovX64 (g : Pred) (d : Dst) (a : Reg) (ty : Ty) (s : State) : Out :=
  lane1 (.movX64 g d a ty) s d (fun k l => (k.opA a l 0))
/-- 05 R100. -/
def execIdp4 (g : Pred) (d : Dst) (a : Reg) (b : Reg) (c : Reg) (ty : Ty) (bz : Bool) (s : State) : Out :=
  lane1 (.idp4 g d a b c ty bz) s d (fun k l => idp4 ty bz (k.opA a l 0) (k.opB b l 0) (k.opC c l 0))
/-- 05 R102. -/
def execXch (g : Pred) (d : Dst) (a : Reg) (b : Reg) (ty : Ty) (mode : XMode) (ok : Option (Fin 7)) (s : State) : Out :=
  issue (.xch g d a b ty mode ok) s (fun k => .ok (xchDone s k d a b ty mode ok))
/-- 05 R103. -/
def execVote (g : Pred) (x : VoteDst) (a : Pred) (neg : Bool) (s : State) : Out :=
  issue (.vote g x a neg) s (fun k => .ok (voteDone s k x a neg))
/-- 05 R104. -/
def execMatch (g : Pred) (d : Reg) (a : Reg) (ty : Ty) (all : Bool) (s : State) : Out :=
  lane2 (.match g d a ty all) s d (fun k l => matchSet k a ty all l)
/-- 05 R105. -/
def execRedux (g : Pred) (d : Dst) (a : Reg) (ty : Ty) (op : RedOp) (s : State) : Out :=
  lane1 (.redux g d a ty op) s d (fun k _ => reduxOf k a ty op)
/-- 05 R98. -/
def execMovi (g : Pred) (d : Dst) (imm : Word) (s : State) : Out :=
  lane1 (.movi g d imm) s d (fun _ _ => imm)
/-- 05 R92, Table 2.12. -/
def execIaddI64 (g : Pred) (d : Dst) (a : Reg) (imm : Word) (s : State) : Out :=
  lane1 (.iaddI64 g d a imm) s d (fun k l => iadd .s32 false (k.opA a l 0) imm)
/-- 05 R92, Table 2.12. -/
def execImulI64 (g : Pred) (d : Dst) (a : Reg) (imm : Word) (s : State) : Out :=
  lane1 (.imulI64 g d a imm) s d (fun k l => (k.opA a l 0) * imm)
/-- 05 R95, Table 2.12. -/
def execAndI64 (g : Pred) (d : Dst) (a : Reg) (imm : Word) (s : State) : Out :=
  lane1 (.andI64 g d a imm) s d (fun k l => (k.opA a l 0) &&& imm)
/-- 05 R95, Table 2.12. -/
def execOrI64 (g : Pred) (d : Dst) (a : Reg) (imm : Word) (s : State) : Out :=
  lane1 (.orI64 g d a imm) s d (fun k l => (k.opA a l 0) ||| imm)
/-- 05 R95, Table 2.12. -/
def execXorI64 (g : Pred) (d : Dst) (a : Reg) (imm : Word) (s : State) : Out :=
  lane1 (.xorI64 g d a imm) s d (fun k l => (k.opA a l 0) ^^^ imm)
/-- 05 R94, Table 2.12. -/
def execShlI64 (g : Pred) (d : Dst) (a : Reg) (n : Fin 32) (s : State) : Out :=
  lane1 (.shlI64 g d a n) s d (fun k l => shl (k.opA a l 0) n.val)
/-- 05 R94, Table 2.12. -/
def execShrI64 (g : Pred) (d : Dst) (a : Reg) (ty : Ty) (n : Fin 32) (s : State) : Out :=
  lane1 (.shrI64 g d a ty n) s d (fun k l => shr ty (k.opA a l 0) n.val)
/-- 05 R92, Table 2.12. -/
def execIminI64 (g : Pred) (d : Dst) (a : Reg) (imm : Word) (s : State) : Out :=
  lane1 (.iminI64 g d a imm) s d (fun k l => imin .s32 (k.opA a l 0) imm)
/-- 05 R92, Table 2.12. -/
def execImaxI64 (g : Pred) (d : Dst) (a : Reg) (imm : Word) (s : State) : Out :=
  lane1 (.imaxI64 g d a imm) s d (fun k l => imax .s32 (k.opA a l 0) imm)
/-- 05 R93. -/
def execLeaI64 (g : Pred) (d : Reg) (a : Reg) (imm : Word) (s : State) : Out :=
  lane2 (.leaI64 g d a imm) s d (fun k l => (k.pairA a l) + imm.signExtend 64)

end Sys2Proof.Machine
end

