-- ==== Sys2Proof/Machine/Reliab.lean ====
section
/-! DEFINITION. The scan rotation, retirement of a core, rick kills by hardware errors, reset and bring-up, over-temperature,
firmware boot and attestation (21 R354 to R364). -/
namespace Sys2Proof.Machine

open Sys2Proof

/-! ### SHA-256 and RSA signatures (21 R362, R364) -/

def shaK : List Nat :=
  [0x428a2f98, 0x71374491, 0xb5c0fbcf, 0xe9b5dba5, 0x3956c25b, 0x59f111f1, 0x923f82a4, 0xab1c5ed5] ++
  [0xd807aa98, 0x12835b01, 0x243185be, 0x550c7dc3, 0x72be5d74, 0x80deb1fe, 0x9bdc06a7, 0xc19bf174] ++
  [0xe49b69c1, 0xefbe4786, 0x0fc19dc6, 0x240ca1cc, 0x2de92c6f, 0x4a7484aa, 0x5cb0a9dc, 0x76f988da] ++
  [0x983e5152, 0xa831c66d, 0xb00327c8, 0xbf597fc7, 0xc6e00bf3, 0xd5a79147, 0x06ca6351, 0x14292967] ++
  [0x27b70a85, 0x2e1b2138, 0x4d2c6dfc, 0x53380d13, 0x650a7354, 0x766a0abb, 0x81c2c92e, 0x92722c85] ++
  [0xa2bfe8a1, 0xa81a664b, 0xc24b8b70, 0xc76c51a3, 0xd192e819, 0xd6990624, 0xf40e3585, 0x106aa070] ++
  [0x19a4c116, 0x1e376c08, 0x2748774c, 0x34b0bcb5, 0x391c0cb3, 0x4ed8aa4a, 0x5b9cca4f, 0x682e6ff3] ++
  [0x748f82ee, 0x78a5636f, 0x84c87814, 0x8cc70208, 0x90befffa, 0xa4506ceb, 0xbef9a3f7, 0xc67178f2]
def shaInit : List Nat :=
  [0x6a09e667, 0xbb67ae85, 0x3c6ef372, 0xa54ff53a, 0x510e527f, 0x9b05688c, 0x1f83d9ab, 0x5be0cd19]
def rotr (x n : Nat) : Nat := (x / 2 ^ n + x * 2 ^ (32 - n)) % 2 ^ 32
/-- Big-endian bytes. -/
def beBytes (n x : Nat) : List Byte := (bytesOf n x).reverse
def beNat (bs : List Byte) : Nat := natOfBytes bs.reverse
/-- The message schedule, extended word by word, latest first. -/
def shaExtend : Nat → List Nat → List Nat
  | 0, w => w
  | n + 1, w =>
    let a := w.getD 14 0
    let b := w.getD 1 0
    let s0 := Nat.xor (Nat.xor (rotr a 7) (rotr a 18)) (a / 8)
    let s1 := Nat.xor (Nat.xor (rotr b 17) (rotr b 19)) (b / 1024)
    shaExtend n ((w.getD 15 0 + s0 + w.getD 6 0 + s1) % 2 ^ 32 :: w)
/-- One round. -/
def shaRound (h : List Nat) (kw : Nat × Nat) : List Nat :=
  let a := h.getD 0 0
  let e := h.getD 4 0
  let s1 := Nat.xor (Nat.xor (rotr e 6) (rotr e 11)) (rotr e 25)
  let ch := Nat.xor (Nat.land e (h.getD 5 0)) (Nat.land (2 ^ 32 - 1 - e) (h.getD 6 0))
  let t1 := h.getD 7 0 + s1 + ch + kw.1 + kw.2
  let s0 := Nat.xor (Nat.xor (rotr a 2) (rotr a 13)) (rotr a 22)
  let maj := Nat.xor (Nat.xor (Nat.land a (h.getD 1 0)) (Nat.land a (h.getD 2 0))) (Nat.land (h.getD 1 0) (h.getD 2 0))
  [(t1 + s0 + maj) % 2 ^ 32, a, h.getD 1 0, h.getD 2 0, (h.getD 3 0 + t1) % 2 ^ 32, e, h.getD 5 0, h.getD 6 0]
def shaBlock (h : List Nat) (block : List Byte) : List Nat :=
  let w := (List.range 16).map (fun i => beNat ((block.drop (4 * i)).take 4))
  let w := (shaExtend 48 w.reverse).reverse
  List.zipWith (fun x y => (x + y) % 2 ^ 32) h ((shaK.zip w).foldl shaRound h)
/-- The message padded to whole blocks. -/
def shaPad (m : List Byte) : List Byte :=
  m ++ [0x80] ++ List.replicate ((119 - m.length % 64) % 64) 0 ++ beBytes 8 (8 * m.length)
def sha256 (m : List Byte) : List Byte :=
  let p := shaPad m
  ((List.range (p.length / 64)).foldl (fun h i => shaBlock h ((p.drop (64 * i)).take 64)) shaInit).flatMap (beBytes 4)

/-- A power modulo n, the exponent's bits from the least significant one. -/
def powMod : Nat → Nat → Nat → Nat → Nat → Nat
  | 0, _, _, _, r => r
  | f + 1, b, e, n, r => if e = 0 then r else powMod f (b * b % n) (e / 2) n (if e % 2 = 1 then r * b % n else r)
/-- The head of an encoded message of PKCS#1 v1.5: 384 bytes end with the digest. -/
def pkcsHead : List Byte :=
  [0x00, 0x01] ++ List.replicate 330 0xFF ++ [0x00, 0x30, 0x31, 0x30, 0x0D, 0x06, 0x09, 0x60, 0x86, 0x48, 0x01, 0x65, 0x03, 0x04, 0x02,
    0x01, 0x05, 0x00, 0x04, 0x20]
/-- The code of FWSTAT for an image: a key that is not the fused one or a signature that opens to no encoded digest (1),
to another digest (2), a security version below the fused minimum (3); 0 for an image that passes. -/
def bootCode (img : List Byte) (version modulus exponent : Nat) (signature : List Byte) : Nat :=
  let opened := beBytes 384 (powMod 3072 (beNat signature % modulus) exponent modulus 1)
  if sha256 (Config.keyBytes modulus exponent) ≠ Config.fusedKeyHash ∨ modulus < 2 ^ 3071 ∨ 2 ^ 3072 ≤ modulus ∨
      signature.length ≠ 384 ∨ modulus ≤ beNat signature ∨ opened.take 352 ≠ pkcsHead then 1
  else if opened.drop 352 ≠ sha256 img then 2
  else if version < Config.fusedMinVersion then 3
  else 0

/-! ### The scan rotation (21 R357 to R359) -/

/-- Slots of a barn from one on, in slot order. -/
def slotsFrom (slot : Nat) : List Nat := (List.range 4).map (fun k => (slot + k) % 4)
/-- A visit starts at the next usable or spare core of the barn. -/
def execScanVisitStart (barnId : Nat) (s : State) : Out :=
  let b := s.barn barnId
  let live (slot : Nat) : Bool := (s.core (4 * barnId + slot)).st == .usable || (s.core (4 * barnId + slot)).st == .spare
  match b.scanAt, (slotsFrom b.scanSlot).find? live with
  | none, some slot =>
    if 88 ≤ barnId ∨ s.rel.ready.getLsbD (8 + barnId / 22) = false then .next s
    else
      let c := 4 * barnId + slot
      .next ((s.setCore c { s.core c with scanned := true }).setBarn barnId
        { b with scanSlot := (slot + 1) % 4, scanAt := some c, scanMoved := false })
  | _, _ => .next s

/-- Every instruction of a stook's sheaves that has not performed is withdrawn into the replay queues (19 R318). -/
def State.withdrawStook (s : State) (k : Stook) : State :=
  (s.sheavesOf k).foldl (fun s e =>
    let sh := e.2.withdrawAll
    (s.setSheaf e.1 sh).dropFlightMsgs e.1 (fun f => !sh.flights.any (fun x => x.id = f))) s
/-- A stook can leave its cores: what it has performed in part has ended, its copies have no message under way, and its
thresher has no operation left. -/
def State.canLeave (s : State) (e : Nat × Stook) : Bool :=
  (s.sheavesOf e.2).all (fun x => x.2.withdrawAll.flights.all (fun f => f.stage == .waiting)) && s.copiesQuiet e.1 e.2 &&
  e.2.cores.all (fun c => !(s.core c).mx.queue.any (fun q => q.uid == e.1) && !((s.core c).mx.zeroing && (match (s.core c).mx.owner with
    | some o => e.2.sheaves.contains o
    | none => false)))
/-- A rick, or a trap stook, moves away from its cores; it is restored as soon as a seat takes it (R357). Its records go to the
park area; one that has no room for them is moved all the same (DESIGN CHOICE, log 130). -/
def State.moveAway (s : State) (uid : Nat) : State :=
  match s.stook? uid with
  | none => s
  | some k =>
    if k.parked then s
    else
      let rick := if k.trapStook then [(uid, k)] else s.rickOf k
      let s := rick.foldl (fun s e => s.withdrawStook e.2) s
      let s := s.spillOut (s.rickSheaves rick)
      let rick := rick.filterMap (fun e => (s.stook? e.1).map (fun k => (e.1, k)))
      let part := ((s.cropOf k).map (·.part)).getD 0
      let s := s.parkRick part rick (parkFit (s.parkBlocks part) (s.part part).parkSize.toNat (s.rickLen rick))
      rick.foldl (fun s e => s.modStook e.1 (fun k => { k with wakes := [(0, 0, 0)] })) s
/-- The stooks that a core's visit moves. -/
def State.residentStooks (s : State) (core : Nat) : List (Nat × Stook) := s.stooks.filter (fun e => !e.2.parked && e.2.cores.contains core)
/-- At 1 ms the stooks still resident on the visited core are moved, with their ricks; chaff whose record's page faults is waited
for (16 R283). -/
def execScanMove (barnId : Nat) (s : State) : Out :=
  let b := s.barn barnId
  match b.scanAt with
  | none => .next s
  | some c =>
    let here := s.residentStooks c
    let all := here.flatMap (fun e => if e.2.trapStook then [e] else s.rickOf e.2)
    if b.scanMoved || !all.all s.canLeave || all.any (fun e => ((s.cropOf e.2).map (fun k => s.partHeld k.part)).getD false) then .next s
    else if all.any (fun e => (s.sheavesOf e.2).any (fun x => s.spillWaits x.2)) then .next (s.spillFaults (s.rickSheaves all))
    else
      let s := here.foldl (fun s e => s.moveAway e.1) s
      .next (s.setBarn barnId { s.barn barnId with scanMoved := true })

/-- A core fails its scan: never placed on again, its words lost, its crops suspect, the interrupt raised (R359). -/
def State.retireCore (s : State) (c : Nat) : State :=
  let s := s.setCore c { s.core c with st := .retired, scanned := false }
  let s := s.loseCore c
  let crop (k : Crop) : Crop := { k with
    suspect := k.suspect + (if k.cores.contains (c, true) then 1 else 0)
    cores := k.cores.filter (fun e => e.1 != c) }
  let s := { s with crops := s.crops.map (fun (e : Nat × Crop) => (e.1, crop e.2)) }
  ({ s with rel := { s.rel with retired := true, retiredCores := bump s.rel.retiredCores (dieOf c) 32 } } : State).raise 0 2
/-- A core passes: it is placed on again; crops that are done need no further visit of it (R358). -/
def State.passCore (s : State) (c : Nat) : State :=
  let s := s.setCore c { s.core c with scanned := false }
  let crop (k : Crop) : Crop := { k with
    cores := if k.done then k.cores.filter (fun e => e.1 != c) else k.cores.map (fun e => if e.1 = c then (c, false) else e) }
  { s with crops := s.crops.map (fun (e : Nat × Crop) => (e.1, crop e.2)) }
/-- At 1.45 ms the patterns are compared. -/
def execScanResult (barnId : Nat) (pass : Bool) (s : State) : Out :=
  let b := s.barn barnId
  match b.scanAt with
  | none => .next s
  | some c =>
    if b.scanMoved then
      let s := s.setBarn barnId { b with scanAt := none, scanMoved := false }
      .next (if pass then s.passCore c else s.retireCore c)
    else .next s

/-- The threshers that the sheaves of a stook's rick own: their next grant zeroes them, whatever crop receives it (11 R206). -/
def State.strikeMx (s : State) (uid : Nat) : State :=
  match s.stook? uid with
  | none => s
  | some k =>
    let sids := (s.rickOf k).flatMap (fun e => e.2.sheaves)
    s.cores.foldl (fun s (e : Nat × Core) =>
      if (e.2.mx.owner.map sids.contains).getD false then s.modMx e.1 (fun t => { t with lastUser := none }) else s) s
/-- An uncorrectable error in an array that the model gives no poison, a register file, a bin, a chaff store or a thresher's
storage (R354), found as it is consumed: it kills the consuming stook's rick (R355, R356) and counts for the stook's die
(DESIGN CHOICE, log 137). Whether it stood in a thresher's storage (11 R206) is the hardware's. -/
def execRickKill (uid : Nat) (s : State) : Out :=
  let t := { s with tick := s.tick + 1 }
  let d := ((s.stook? uid).map (fun k => dieOf (k.cores.headD 0))).getD 0
  let t := ({ t with rel := { t.rel with uncorrected := bump t.rel.uncorrected d 32 } } : State).raise 0 2
  .next (if (s.stook? uid).isNone then s else if Config.choice s.tick % 2 = 1 then (t.strikeMx uid).rickError uid else t.rickError uid)

/-! ### Reset and bring-up (21 R361 to R363) -/

/-- A reset: everything at its value after reset. Retired cores stay retired, host memory is the host's, device memory
holds free bytes, and what the outside world does next still comes. -/
def State.afterReset (s : State) : State :=
  let isHostCell (e : Nat × Byte) : Bool := decide (3 * 2 ^ 50 ≤ e.1)
  let dev := s.mem.filter (fun (e : Nat × Byte) => !isHostCell e)
  let mem := dev.zipIdx.foldl (fun (m : KV Byte) e => memSet m e.1.1 (Config.freeByte (s.tick + e.2))) (s.mem.filter isHostCell)
  let gone := s.cores.filter (fun (e : Nat × Core) => e.2.st == .retired)
  { State.reset with
    mem := mem
    cores := gone.map (fun (e : Nat × Core) => (e.1, Core.fresh .retired))
    tick := s.tick + dev.length
    inputs := s.inputs }
def execReset (s : State) : Out := .next s.afterReset
/-- A function passes bring-up, or fails. A host link that is ready carries traffic. -/
def execFunctionReady (bit : Nat) (ok : Bool) (s : State) : Out :=
  if 32 ≤ bit ∨ s.rel.overtemp = true ∨ s.rel.ready.getLsbD bit = true ∨ s.rel.fail.getLsbD bit = true then .next s
  else if ok then
    let s := { s with rel := { s.rel with ready := s.rel.ready ||| dword (2 ^ bit) } }
    if 30 ≤ bit then .next (s.setHostLink (bit - 30) true) else .next s
  else .next { s with rel := { s.rel with fail := s.rel.fail ||| dword (2 ^ bit) } }
/-- The firmware assigns the launch queues to functions and binds each virtual function to a host link, as it likes; the
physical function keeps link 0 (17 R287, 20 R341; log 33). -/
def State.assignFunctions (s : State) : State :=
  let queue (q : Nat) : Nat × LQueue := (q, { s.queue q with fn := Config.choice (s.tick + q) % 33 })
  { s with
    tick := s.tick + 96
    queues := (List.range 64).map queue
    fabric := { s.fabric with bind := (List.range 32).map (fun v => (v + 1, Config.choice (s.tick + 64 + v) % 2)) } }
/-- At a clash of device numbers firmware leaves every Bruvas link down, those that came up before it too (20 R344). -/
def FabricPage.cutLinks (f : FabricPage) : FabricPage :=
  { f with
    links := f.links.map (fun (e : Nat × Link) => (e.1, { e.2 with up := false }))
    recompute := f.recompute || f.links.any (fun e => e.2.up) }
/-- The boot ROM loads the image if it passes; its firmware assigns the device number and reports a clash (20 R344), the
launch queues and the host links. -/
def execFirmwareBoot (image : List Byte) (version modulus exponent : Nat) (signature : List Byte) (devnum : Nat) (clash : Bool) (s : State) : Out :=
  if s.rel.overtemp = true ∨ s.rel.ready.getLsbD 32 = true ∨ s.rel.fwstat ≠ 0 ∨ 512 ≤ devnum then .next s
  else
    let code := bootCode image version modulus exponent signature
    if code = 0 then
      let fell := (List.range 18).filter (fun k => (s.link k).up)
      let s := { s with
        rel := { s.rel with ready := s.rel.ready ||| dword (2 ^ 32), fwstat := word (version % 2 ^ 16 * 2 ^ 16), image := sha256 image }
        fabric := { (if clash then s.fabric.cutLinks else s.fabric) with devnum := devnum, clash := clash, unusable := clash } }
      .next (if clash then fell.foldl (fun s _ => s.raise 0 3) (s.assignFunctions.raise 0 3) else s.assignFunctions)
    else .next { s with rel := { s.rel with fwstat := word code } }
/-- A junction above 105 C: READY cleared, every link down, OVERTEMP set; only a reset leaves this state. -/
def execOvertemp (s : State) : Out :=
  let down (l : Link) : Link := { l with up := false }
  .next { s with
    rel := { s.rel with ready := 0, overtemp := true }
    fabric := { s.fabric with links := s.fabric.links.map (fun (e : Nat × Link) => (e.1, down e.2)), hostUp := [false, false] } }

/-! ### Attestation (21 R364) -/

/-- HARVEST and the partition entries of the launch control page. Reserved bytes read 0 (00 R7); what the commit byte 24
of an entry reads is the hardware's. -/
def State.attested (s : State) : List Byte :=
  (List.range 88).flatMap (fun b => bytesOf 1 (s.harvest b)) ++
  (List.range 16).flatMap (fun p =>
    bytesOf 11 (s.part p).maskReg ++ List.replicate 5 0 ++ bytesOf 8 (s.part p).pageReg.toNat ++
      [Config.freeByte (s.tick + p)] ++ List.replicate 7 0)
/-- The report (Table 21.4). -/
def State.report (s : State) : List Byte :=
  let body := bytesOf 4 1 ++ bytesOf 4 s.fabric.devnum ++ (List.range 32).map (fun i => s.rel.attnonce.getD i 0) ++ s.rel.image ++
    sha256 s.attested ++ bytesOf 4 (s.rel.fwstat.toNat / 2 ^ 16) ++ List.replicate 404 0
  body ++ (List.range 384).map (fun i => (Config.signature (sha256 body)).getD i 0)
def execAttestationStart (s : State) : Out :=
  if s.relVis && !s.rel.overtemp && s.rel.attctl != 1 then .next { s with rel := { s.rel with attctl := 1 } } else .next s
/-- The report is written over the function's host link, and ATTCTL reads 2. -/
def execAttestationDone (s : State) : Out :=
  if s.rel.attctl = 1 ∧ s.rel.ready.getLsbD 32 = true ∧ s.fabric.hostUp.headD false = true then
    let t := { s with tick := s.tick + 16 }
    .next { t.memWrite (hostAddr s.rel.attaddr.toNat) s.report with rel := { s.rel with attctl := 2 } }
  else .next s

end Sys2Proof.Machine
end

