-- ==== Sys2Proof/Machine/Uniform.lean ====
section
/-! DEFINITION. The uniform set (06 R106 to R114). -/
namespace Sys2Proof.Machine

open Sys2Proof

/-- LANERD (06 R114): the register of the lane that B numbers, 0 where there is no such lane. -/
def laneRead (s : State) (k : Ctx) (d : SReg) (a : Reg) (b : SReg) : Done :=
  let j := (k.opB b.reg 0 0).toNat
  uniDone s k d [if k.sh.width ≤ j then 0 else k.sh.readReg a j 0]
/-- LANEWR (06 R114): only a lane of the issuing path is written. -/
def laneWrite (s : State) (k : Ctx) (d : Reg) (a b : SReg) : Done :=
  let j := (k.opB b.reg 0 0).toNat
  { st := if j < k.sh.width ∧ k.path.getLsbD j = true then s.modSheaf k.sid (fun sh => sh.writeReg d j 0 (k.opA a.reg 0 0)) else s }
/-- A uniform predicate written (06 R113). -/
def qDone (s : State) (k : Ctx) (d : Fin 7) (b : Bool) : Done :=
  { st := s.modSheaf k.sid (fun sh => { sh with q := setPredBit sh.q d.val b }) }


/-- 06 R112. -/
noncomputable def execSaddB32 (g : Pred) (d : SReg) (a : SReg) (b : SReg) (s : State) : Out :=
  uni1 (.saddB32 g d a b) s d (fun k => iadd .s32 false (k.opA a.reg 0 0) (k.opB b.reg 0 0))
/-- 06 R112. -/
noncomputable def execSsubB32 (g : Pred) (d : SReg) (a : SReg) (b : SReg) (s : State) : Out :=
  uni1 (.ssubB32 g d a b) s d (fun k => isub .s32 false (k.opA a.reg 0 0) (k.opB b.reg 0 0))
/-- 06 R112. -/
noncomputable def execSmulB32 (g : Pred) (d : SReg) (a : SReg) (b : SReg) (s : State) : Out :=
  uni1 (.smulB32 g d a b) s d (fun k => (k.opA a.reg 0 0) * (k.opB b.reg 0 0))
/-- 06 R112. -/
noncomputable def execSadd64B32 (g : Pred) (d : SReg) (a : SReg) (b : SReg) (s : State) : Out :=
  uni2 (.sadd64B32 g d a b) s d (fun k => (k.pairA a.reg 0) + (k.pairB b.reg 0))
/-- 06 R112. -/
noncomputable def execSshlB32 (g : Pred) (d : SReg) (a : SReg) (b : SReg) (s : State) : Out :=
  uni1 (.sshlB32 g d a b) s d (fun k => shl (k.opA a.reg 0 0) (k.opB b.reg 0 0).toNat)
/-- 06 R112. -/
noncomputable def execSshrZ32B32 (g : Pred) (d : SReg) (a : SReg) (b : SReg) (s : State) : Out :=
  uni1 (.sshrZ32B32 g d a b) s d (fun k => shr .z32 (k.opA a.reg 0 0) (k.opB b.reg 0 0).toNat)
/-- 06 R112. -/
noncomputable def execSshrS32B32 (g : Pred) (d : SReg) (a : SReg) (b : SReg) (s : State) : Out :=
  uni1 (.sshrS32B32 g d a b) s d (fun k => shr .s32 (k.opA a.reg 0 0) (k.opB b.reg 0 0).toNat)
/-- 06 R112. -/
noncomputable def execSandB32 (g : Pred) (d : SReg) (a : SReg) (b : SReg) (s : State) : Out :=
  uni1 (.sandB32 g d a b) s d (fun k => (k.opA a.reg 0 0) &&& (k.opB b.reg 0 0))
/-- 06 R112. -/
noncomputable def execSorB32 (g : Pred) (d : SReg) (a : SReg) (b : SReg) (s : State) : Out :=
  uni1 (.sorB32 g d a b) s d (fun k => (k.opA a.reg 0 0) ||| (k.opB b.reg 0 0))
/-- 06 R112. -/
noncomputable def execSxorB32 (g : Pred) (d : SReg) (a : SReg) (b : SReg) (s : State) : Out :=
  uni1 (.sxorB32 g d a b) s d (fun k => (k.opA a.reg 0 0) ^^^ (k.opB b.reg 0 0))
/-- 06 R112. -/
noncomputable def execSminS32B32 (g : Pred) (d : SReg) (a : SReg) (b : SReg) (s : State) : Out :=
  uni1 (.sminS32B32 g d a b) s d (fun k => imin .s32 (k.opA a.reg 0 0) (k.opB b.reg 0 0))
/-- 06 R112. -/
noncomputable def execSmaxS32B32 (g : Pred) (d : SReg) (a : SReg) (b : SReg) (s : State) : Out :=
  uni1 (.smaxS32B32 g d a b) s d (fun k => imax .s32 (k.opA a.reg 0 0) (k.opB b.reg 0 0))
/-- 06 R112. -/
noncomputable def execSminZ32B32 (g : Pred) (d : SReg) (a : SReg) (b : SReg) (s : State) : Out :=
  uni1 (.sminZ32B32 g d a b) s d (fun k => imin .z32 (k.opA a.reg 0 0) (k.opB b.reg 0 0))
/-- 06 R112. -/
noncomputable def execSmaxZ32B32 (g : Pred) (d : SReg) (a : SReg) (b : SReg) (s : State) : Out :=
  uni1 (.smaxZ32B32 g d a b) s d (fun k => imax .z32 (k.opA a.reg 0 0) (k.opB b.reg 0 0))
/-- 06 R112. -/
noncomputable def execSmovB32 (g : Pred) (d : SReg) (a : SReg) (s : State) : Out :=
  uni1 (.smovB32 g d a) s d (fun k => (k.opA a.reg 0 0))
/-- 06 R112. -/
noncomputable def execSpopcB32 (g : Pred) (d : SReg) (a : SReg) (s : State) : Out :=
  uni1 (.spopcB32 g d a) s d (fun k => popc (k.opA a.reg 0 0))
/-- 06 R114. -/
noncomputable def execLanerdB32 (g : Pred) (d : SReg) (a : Reg) (b : SReg) (s : State) : Out :=
  issue (.lanerdB32 g d a b) s (fun k => .ok (laneRead s k d a b))
/-- 06 R114. -/
noncomputable def execLanewrB32 (g : Pred) (d : Reg) (a : SReg) (b : SReg) (s : State) : Out :=
  issue (.lanewrB32 g d a b) s (fun k => .ok (laneWrite s k d a b))
/-- 06 R112. -/
noncomputable def execSaddX64 (g : Pred) (d : SReg) (a : SReg) (b : SReg) (ty : Ty) (sat : Bool) (s : State) : Out :=
  uni1 (.saddX64 g d a b ty sat) s d (fun k => iadd ty sat (k.opA a.reg 0 0) (k.opB b.reg 0 0))
/-- 06 R112. -/
noncomputable def execSsubX64 (g : Pred) (d : SReg) (a : SReg) (b : SReg) (ty : Ty) (sat : Bool) (s : State) : Out :=
  uni1 (.ssubX64 g d a b ty sat) s d (fun k => isub ty sat (k.opA a.reg 0 0) (k.opB b.reg 0 0))
/-- 06 R112. -/
noncomputable def execSmulX64 (g : Pred) (d : SReg) (a : SReg) (b : SReg) (ty : Ty) (s : State) : Out :=
  uni1 (.smulX64 g d a b ty) s d (fun k => (k.opA a.reg 0 0) * (k.opB b.reg 0 0))
/-- 06 R112. -/
noncomputable def execSmad (g : Pred) (d : SReg) (a : SReg) (b : SReg) (c : SReg) (ty : Ty) (s : State) : Out :=
  uni1 (.smad g d a b c ty) s d (fun k => (k.opA a.reg 0 0) * (k.opB b.reg 0 0) + (k.opC c.reg 0 0))
/-- 06 R112. -/
noncomputable def execSadd64X64 (g : Pred) (d : SReg) (a : SReg) (b : SReg) (ty : Ty) (s : State) : Out :=
  uni2 (.sadd64X64 g d a b ty) s d (fun k => (k.pairA a.reg 0) + (k.pairB b.reg 0))
/-- 06 R112. -/
noncomputable def execSleaX64 (g : Pred) (d : SReg) (a : SReg) (b : SReg) (ty : Ty) (sh : Fin 8) (s : State) : Out :=
  uni2 (.sleaX64 g d a b ty sh) s d (fun k => lea ty (k.pairA a.reg 0) (k.opB b.reg 0 0) sh.val)
/-- 06 R112. -/
noncomputable def execSshlX64 (g : Pred) (d : SReg) (a : SReg) (b : SReg) (ty : Ty) (wrap : Bool) (s : State) : Out :=
  uni1 (.sshlX64 g d a b ty wrap) s d (fun k => shl (k.opA a.reg 0 0) (shCount wrap (k.opB b.reg 0 0)))
/-- 06 R112. -/
noncomputable def execSshrX64 (g : Pred) (d : SReg) (a : SReg) (b : SReg) (ty : Ty) (wrap : Bool) (s : State) : Out :=
  uni1 (.sshrX64 g d a b ty wrap) s d (fun k => shr ty (k.opA a.reg 0 0) (shCount wrap (k.opB b.reg 0 0)))
/-- 06 R112. -/
noncomputable def execSandX64 (g : Pred) (d : SReg) (a : SReg) (b : SReg) (ty : Ty) (s : State) : Out :=
  uni1 (.sandX64 g d a b ty) s d (fun k => (k.opA a.reg 0 0) &&& (k.opB b.reg 0 0))
/-- 06 R112. -/
noncomputable def execSorX64 (g : Pred) (d : SReg) (a : SReg) (b : SReg) (ty : Ty) (s : State) : Out :=
  uni1 (.sorX64 g d a b ty) s d (fun k => (k.opA a.reg 0 0) ||| (k.opB b.reg 0 0))
/-- 06 R112. -/
noncomputable def execSxorX64 (g : Pred) (d : SReg) (a : SReg) (b : SReg) (ty : Ty) (s : State) : Out :=
  uni1 (.sxorX64 g d a b ty) s d (fun k => (k.opA a.reg 0 0) ^^^ (k.opB b.reg 0 0))
/-- 06 R112. -/
noncomputable def execSminX64 (g : Pred) (d : SReg) (a : SReg) (b : SReg) (ty : Ty) (s : State) : Out :=
  uni1 (.sminX64 g d a b ty) s d (fun k => imin ty (k.opA a.reg 0 0) (k.opB b.reg 0 0))
/-- 06 R112. -/
noncomputable def execSmaxX64 (g : Pred) (d : SReg) (a : SReg) (b : SReg) (ty : Ty) (s : State) : Out :=
  uni1 (.smaxX64 g d a b ty) s d (fun k => imax ty (k.opA a.reg 0 0) (k.opB b.reg 0 0))
/-- 06 R113. -/
noncomputable def execScmp (g : Pred) (d : Fin 7) (a : SReg) (b : SReg) (ty : Ty) (cond : Cond) (comb : Combine) (s : State) : Out :=
  issue (.scmp g d a b ty cond comb) s (fun k => .ok (qDone s k d (combineWith comb (condHolds cond (ext ty (k.opA a.reg 0 0)) (ext ty (k.opB b.reg 0 0))) k.sh.qpred)))
/-- 06 R113. -/
noncomputable def execSsel (g : Pred) (d : SReg) (a : SReg) (b : SReg) (c : Pred) (ty : Ty) (neg : Bool) (s : State) : Out :=
  uni1 (.ssel g d a b c ty neg) s d (fun k => if k.sh.qpred c != neg then (k.opA a.reg 0 0) else (k.opB b.reg 0 0))
/-- 06 R112. -/
noncomputable def execSmovX64 (g : Pred) (d : SReg) (a : SReg) (ty : Ty) (s : State) : Out :=
  uni1 (.smovX64 g d a ty) s d (fun k => (k.opA a.reg 0 0))
/-- 06 R112. -/
noncomputable def execSpopcX64 (g : Pred) (d : SReg) (a : SReg) (ty : Ty) (s : State) : Out :=
  uni1 (.spopcX64 g d a ty) s d (fun k => popc (k.opA a.reg 0 0))
/-- 06 R114. -/
noncomputable def execLanerdX64 (g : Pred) (d : SReg) (a : Reg) (b : SReg) (ty : Ty) (s : State) : Out :=
  issue (.lanerdX64 g d a b ty) s (fun k => .ok (laneRead s k d a b))
/-- 06 R114. -/
noncomputable def execLanewrX64 (g : Pred) (d : Reg) (a : SReg) (b : SReg) (ty : Ty) (s : State) : Out :=
  issue (.lanewrX64 g d a b ty) s (fun k => .ok (laneWrite s k d a b))
/-- 06 R112. -/
noncomputable def execSmovi (g : Pred) (d : SReg) (imm : Word) (s : State) : Out :=
  uni1 (.smovi g d imm) s d (fun _ => imm)
/-- 06 R112. -/
noncomputable def execSaddI64 (g : Pred) (d : SReg) (a : SReg) (imm : Word) (s : State) : Out :=
  uni1 (.saddI64 g d a imm) s d (fun k => iadd .s32 false (k.opA a.reg 0 0) imm)
/-- 06 R112. -/
noncomputable def execSmulI64 (g : Pred) (d : SReg) (a : SReg) (imm : Word) (s : State) : Out :=
  uni1 (.smulI64 g d a imm) s d (fun k => (k.opA a.reg 0 0) * imm)
/-- 06 R112. -/
noncomputable def execSandI64 (g : Pred) (d : SReg) (a : SReg) (imm : Word) (s : State) : Out :=
  uni1 (.sandI64 g d a imm) s d (fun k => (k.opA a.reg 0 0) &&& imm)
/-- 06 R112. -/
noncomputable def execSorI64 (g : Pred) (d : SReg) (a : SReg) (imm : Word) (s : State) : Out :=
  uni1 (.sorI64 g d a imm) s d (fun k => (k.opA a.reg 0 0) ||| imm)
/-- 06 R112. -/
noncomputable def execSxorI64 (g : Pred) (d : SReg) (a : SReg) (imm : Word) (s : State) : Out :=
  uni1 (.sxorI64 g d a imm) s d (fun k => (k.opA a.reg 0 0) ^^^ imm)
/-- 06 R112. -/
noncomputable def execSshlI64 (g : Pred) (d : SReg) (a : SReg) (n : Fin 32) (s : State) : Out :=
  uni1 (.sshlI64 g d a n) s d (fun k => shl (k.opA a.reg 0 0) n.val)
/-- 06 R112. -/
noncomputable def execSshrI64 (g : Pred) (d : SReg) (a : SReg) (ty : Ty) (n : Fin 32) (s : State) : Out :=
  uni1 (.sshrI64 g d a ty n) s d (fun k => shr ty (k.opA a.reg 0 0) n.val)
/-- 06 R112. -/
noncomputable def execSminI64 (g : Pred) (d : SReg) (a : SReg) (imm : Word) (s : State) : Out :=
  uni1 (.sminI64 g d a imm) s d (fun k => imin .s32 (k.opA a.reg 0 0) imm)
/-- 06 R112. -/
noncomputable def execSmaxI64 (g : Pred) (d : SReg) (a : SReg) (imm : Word) (s : State) : Out :=
  uni1 (.smaxI64 g d a imm) s d (fun k => imax .s32 (k.opA a.reg 0 0) imm)
/-- 06 R112. -/
noncomputable def execSleaI64 (g : Pred) (d : SReg) (a : SReg) (imm : Word) (s : State) : Out :=
  uni2 (.sleaI64 g d a imm) s d (fun k => (k.pairA a.reg 0) + imm.signExtend 64)

end Sys2Proof.Machine
end

