-- ==== Sys2Proof/Machine/Dispatch.lean ====
section
/-! DEFINITION. One arm per instruction or step: the meaning it has. -/
namespace Sys2Proof.Machine

-- Lean's compiler makes no object of a constructor beyond the 244th: exec is evaluated by the kernel only.
open Sys2Proof in noncomputable
def exec (i : Instr) (s : State) : Host.Outcome State Fault Refusal :=
  match i with
  | .iaddB32 g d a b => Sys2Proof.Machine.execIaddB32 g d a b s
  | .iaddX64 g d a b ty sat => Sys2Proof.Machine.execIaddX64 g d a b ty sat s
  | .iaddI64 g d a imm => Sys2Proof.Machine.execIaddI64 g d a imm s
  | .isubB32 g d a b => Sys2Proof.Machine.execIsubB32 g d a b s
  | .isubX64 g d a b ty sat => Sys2Proof.Machine.execIsubX64 g d a b ty sat s
  | .imulB32 g d a b => Sys2Proof.Machine.execImulB32 g d a b s
  | .imulX64 g d a b ty => Sys2Proof.Machine.execImulX64 g d a b ty s
  | .imulI64 g d a imm => Sys2Proof.Machine.execImulI64 g d a imm s
  | .imulhS32B32 g d a b => Sys2Proof.Machine.execImulhS32B32 g d a b s
  | .imulhZ32B32 g d a b => Sys2Proof.Machine.execImulhZ32B32 g d a b s
  | .imulhX64 g d a b ty => Sys2Proof.Machine.execImulhX64 g d a b ty s
  | .iminS32B32 g d a b => Sys2Proof.Machine.execIminS32B32 g d a b s
  | .imaxS32B32 g d a b => Sys2Proof.Machine.execImaxS32B32 g d a b s
  | .iminZ32B32 g d a b => Sys2Proof.Machine.execIminZ32B32 g d a b s
  | .imaxZ32B32 g d a b => Sys2Proof.Machine.execImaxZ32B32 g d a b s
  | .iminX64 g d a b ty => Sys2Proof.Machine.execIminX64 g d a b ty s
  | .imaxX64 g d a b ty => Sys2Proof.Machine.execImaxX64 g d a b ty s
  | .iminI64 g d a imm => Sys2Proof.Machine.execIminI64 g d a imm s
  | .imaxI64 g d a imm => Sys2Proof.Machine.execImaxI64 g d a imm s
  | .shlB32 g d a b => Sys2Proof.Machine.execShlB32 g d a b s
  | .shrZ32B32 g d a b => Sys2Proof.Machine.execShrZ32B32 g d a b s
  | .shrS32B32 g d a b => Sys2Proof.Machine.execShrS32B32 g d a b s
  | .shlX64 g d a b ty wrap => Sys2Proof.Machine.execShlX64 g d a b ty wrap s
  | .shrX64 g d a b ty wrap => Sys2Proof.Machine.execShrX64 g d a b ty wrap s
  | .shlI64 g d a n => Sys2Proof.Machine.execShlI64 g d a n s
  | .shrI64 g d a ty n => Sys2Proof.Machine.execShrI64 g d a ty n s
  | .shf g d a b c ty lft wrap => Sys2Proof.Machine.execShf g d a b c ty lft wrap s
  | .rot g d a b ty rgt => Sys2Proof.Machine.execRot g d a b ty rgt s
  | .andB32 g d a b => Sys2Proof.Machine.execAndB32 g d a b s
  | .orB32 g d a b => Sys2Proof.Machine.execOrB32 g d a b s
  | .xorB32 g d a b => Sys2Proof.Machine.execXorB32 g d a b s
  | .andnB32 g d a b => Sys2Proof.Machine.execAndnB32 g d a b s
  | .andX64 g d a b ty => Sys2Proof.Machine.execAndX64 g d a b ty s
  | .orX64 g d a b ty => Sys2Proof.Machine.execOrX64 g d a b ty s
  | .xorX64 g d a b ty => Sys2Proof.Machine.execXorX64 g d a b ty s
  | .andnX64 g d a b ty => Sys2Proof.Machine.execAndnX64 g d a b ty s
  | .andI64 g d a imm => Sys2Proof.Machine.execAndI64 g d a imm s
  | .orI64 g d a imm => Sys2Proof.Machine.execOrI64 g d a imm s
  | .xorI64 g d a imm => Sys2Proof.Machine.execXorI64 g d a imm s
  | .tern g d a b c ty lut => Sys2Proof.Machine.execTern g d a b c ty lut s
  | .movB32 g d a => Sys2Proof.Machine.execMovB32 g d a s
  | .movX64 g d a ty => Sys2Proof.Machine.execMovX64 g d a ty s
  | .movi g d imm => Sys2Proof.Machine.execMovi g d imm s
  | .popcB32 g d a => Sys2Proof.Machine.execPopcB32 g d a s
  | .clzB32 g d a => Sys2Proof.Machine.execClzB32 g d a s
  | .brevB32 g d a => Sys2Proof.Machine.execBrevB32 g d a s
  | .popcX64 g d a ty => Sys2Proof.Machine.execPopcX64 g d a ty s
  | .clzX64 g d a ty => Sys2Proof.Machine.execClzX64 g d a ty s
  | .brevX64 g d a ty => Sys2Proof.Machine.execBrevX64 g d a ty s
  | .iadd64B32 g d a b => Sys2Proof.Machine.execIadd64B32 g d a b s
  | .iadd64X64 g d a b ty => Sys2Proof.Machine.execIadd64X64 g d a b ty s
  | .iabsB32 g d a => Sys2Proof.Machine.execIabsB32 g d a s
  | .iabsX64 g d a sat => Sys2Proof.Machine.execIabsX64 g d a sat s
  | .inegB32 g d a => Sys2Proof.Machine.execInegB32 g d a s
  | .inegX64 g d a sat => Sys2Proof.Machine.execInegX64 g d a sat s
  | .imad g d a b c ty => Sys2Proof.Machine.execImad g d a b c ty s
  | .imadw g d a b c ty => Sys2Proof.Machine.execImadw g d a b c ty s
  | .leaX64 g d a b ty sh => Sys2Proof.Machine.execLeaX64 g d a b ty sh s
  | .leaI64 g d a imm => Sys2Proof.Machine.execLeaI64 g d a imm s
  | .bfx g d a ty pos ln => Sys2Proof.Machine.execBfx g d a ty pos ln s
  | .bfi g d a b ty pos ln => Sys2Proof.Machine.execBfi g d a b ty pos ln s
  | .icmp g d a b ty cond comb => Sys2Proof.Machine.execIcmp g d a b ty cond comb s
  | .sel g d a b c ty neg => Sys2Proof.Machine.execSel g d a b c ty neg s
  | .plog g x => Sys2Proof.Machine.execPlog g x s
  | .idp4 g d a b c ty bz => Sys2Proof.Machine.execIdp4 g d a b c ty bz s
  | .xch g d a b ty mode ok => Sys2Proof.Machine.execXch g d a b ty mode ok s
  | .vote g x a neg => Sys2Proof.Machine.execVote g x a neg s
  | .match g d a ty all => Sys2Proof.Machine.execMatch g d a ty all s
  | .redux g d a ty op => Sys2Proof.Machine.execRedux g d a ty op s
  | .faddF32B32 g d a b => Sys2Proof.Machine.execFaddF32B32 g d a b s
  | .fsubF32B32 g d a b => Sys2Proof.Machine.execFsubF32B32 g d a b s
  | .fmulF32B32 g d a b => Sys2Proof.Machine.execFmulF32B32 g d a b s
  | .fminF32B32 g d a b => Sys2Proof.Machine.execFminF32B32 g d a b s
  | .fmaxF32B32 g d a b => Sys2Proof.Machine.execFmaxF32B32 g d a b s
  | .frcpF32B32 g d a => Sys2Proof.Machine.execFrcpF32B32 g d a s
  | .frsqF32B32 g d a => Sys2Proof.Machine.execFrsqF32B32 g d a s
  | .fsqrtF32B32 g d a => Sys2Proof.Machine.execFsqrtF32B32 g d a s
  | .fexp2F32B32 g d a => Sys2Proof.Machine.execFexp2F32B32 g d a s
  | .flog2F32B32 g d a => Sys2Proof.Machine.execFlog2F32B32 g d a s
  | .faddBf16B32 g d a b => Sys2Proof.Machine.execFaddBf16B32 g d a b s
  | .fmulBf16B32 g d a b => Sys2Proof.Machine.execFmulBf16B32 g d a b s
  | .faddF16B32 g d a b => Sys2Proof.Machine.execFaddF16B32 g d a b s
  | .fmulF16B32 g d a b => Sys2Proof.Machine.execFmulF16B32 g d a b s
  | .fclassF32B32 g d a => Sys2Proof.Machine.execFclassF32B32 g d a s
  | .faddX64 g d a b ty rm => Sys2Proof.Machine.execFaddX64 g d a b ty rm s
  | .fsubX64 g d a b ty rm => Sys2Proof.Machine.execFsubX64 g d a b ty rm s
  | .fmulX64 g d a b ty rm => Sys2Proof.Machine.execFmulX64 g d a b ty rm s
  | .ffma g d a b c ty rm => Sys2Proof.Machine.execFfma g d a b c ty rm s
  | .fminX64 g d a b ty nan => Sys2Proof.Machine.execFminX64 g d a b ty nan s
  | .fmaxX64 g d a b ty nan => Sys2Proof.Machine.execFmaxX64 g d a b ty nan s
  | .fcmp g d a b ty cond comb hi => Sys2Proof.Machine.execFcmp g d a b ty cond comb hi s
  | .frcpX64 g d a ty => Sys2Proof.Machine.execFrcpX64 g d a ty s
  | .frsqX64 g d a ty => Sys2Proof.Machine.execFrsqX64 g d a ty s
  | .fsqrtX64 g d a ty => Sys2Proof.Machine.execFsqrtX64 g d a ty s
  | .fexp2X64 g d a ty => Sys2Proof.Machine.execFexp2X64 g d a ty s
  | .flog2X64 g d a ty => Sys2Proof.Machine.execFlog2X64 g d a ty s
  | .fdp2 g d a b c ty rm => Sys2Proof.Machine.execFdp2 g d a b c ty rm s
  | .cvt g d a b dt st rm => Sys2Proof.Machine.execCvt g d a b dt st rm s
  | .cvtsr g d a b c dt st => Sys2Proof.Machine.execCvtsr g d a b c dt st s
  | .fclassX64 g d a ty => Sys2Proof.Machine.execFclassX64 g d a ty s
  | .dquant g a b c hi rowA colA => Sys2Proof.Machine.execDquant g a b c hi rowA colA s
  | .braB32 g off => Sys2Proof.Machine.execBraB32 g off s
  | .braI64 g imm => Sys2Proof.Machine.execBraI64 g imm s
  | .call g d imm => Sys2Proof.Machine.execCall g d imm s
  | .brx g a => Sys2Proof.Machine.execBrx g a s
  | .callx g d a => Sys2Proof.Machine.execCallx g d a s
  | .retB32 g a => Sys2Proof.Machine.execRetB32 g a s
  | .retX64 g a => Sys2Proof.Machine.execRetX64 g a s
  | .exitB32 g => Sys2Proof.Machine.execExitB32 g s
  | .exitX64 g => Sys2Proof.Machine.execExitX64 g s
  | .yieldB32 g => Sys2Proof.Machine.execYieldB32 g s
  | .yieldX64 g => Sys2Proof.Machine.execYieldX64 g s
  | .nopB32 g => Sys2Proof.Machine.execNopB32 g s
  | .nopX64 g => Sys2Proof.Machine.execNopX64 g s
  | .mkcurB32 g m => Sys2Proof.Machine.execMkcurB32 g m s
  | .mkcurX64 g m => Sys2Proof.Machine.execMkcurX64 g m s
  | .mktos g d m => Sys2Proof.Machine.execMktos g d m s
  | .stomk g m a => Sys2Proof.Machine.execStomk g m a s
  | .joinB32 g m => Sys2Proof.Machine.execJoinB32 g m s
  | .joinX64 g m => Sys2Proof.Machine.execJoinX64 g m s
  | .leaveB32 g m => Sys2Proof.Machine.execLeaveB32 g m s
  | .leaveX64 g m => Sys2Proof.Machine.execLeaveX64 g m s
  | .waitm g m => Sys2Proof.Machine.execWaitm g m s
  | .mklog g d x => Sys2Proof.Machine.execMklog g d x s
  | .raddF32B32 g d a b => Sys2Proof.Machine.execRaddF32B32 g d a b s
  | .unaddF32B32 g d a b => Sys2Proof.Machine.execUnaddF32B32 g d a b s
  | .rmulF32B32 g d a b => Sys2Proof.Machine.execRmulF32B32 g d a b s
  | .unmulF32B32 g d a b => Sys2Proof.Machine.execUnmulF32B32 g d a b s
  | .rreluF32B32 g d a => Sys2Proof.Machine.execRreluF32B32 g d a s
  | .unreluF32B32 g d a => Sys2Proof.Machine.execUnreluF32B32 g d a s
  | .rmulS32B32 g d a b => Sys2Proof.Machine.execRmulS32B32 g d a b s
  | .unmulS32B32 g d a b => Sys2Proof.Machine.execUnmulS32B32 g d a b s
  | .raddX64 g d a b rm => Sys2Proof.Machine.execRaddX64 g d a b rm s
  | .unaddX64 g d a b => Sys2Proof.Machine.execUnaddX64 g d a b s
  | .rmulX64 g d a b ty rm => Sys2Proof.Machine.execRmulX64 g d a b ty rm s
  | .unmulX64 g d a b ty => Sys2Proof.Machine.execUnmulX64 g d a b ty s
  | .rreluX64 g d a => Sys2Proof.Machine.execRreluX64 g d a s
  | .unreluX64 g d a => Sys2Proof.Machine.execUnreluX64 g d a s
  | .rcvt g d a b dt st rm => Sys2Proof.Machine.execRcvt g d a b dt st rm s
  | .uncvt g d a b dt st => Sys2Proof.Machine.execUncvt g d a b dt st s
  | .rshr g d a b ty => Sys2Proof.Machine.execRshr g d a b ty s
  | .unshr g d a b ty => Sys2Proof.Machine.execUnshr g d a b ty s
  | .chpush g a => Sys2Proof.Machine.execChpush g a s
  | .chpop g d => Sys2Proof.Machine.execChpop g d s
  | .chdrop g a => Sys2Proof.Machine.execChdrop g a s
  | .chdepth g d => Sys2Proof.Machine.execChdepth g d s
  | .fbinit g a b => Sys2Proof.Machine.execFbinit g a b s
  | .fbarr g d a b => Sys2Proof.Machine.execFbarr g d a b s
  | .fbwait g a b => Sys2Proof.Machine.execFbwait g a b s
  | .fbtest g d a b => Sys2Proof.Machine.execFbtest g d a b s
  | .mma g a b ty east keep af => Sys2Proof.Machine.execMma g a b ty east keep af s
  | .dmma g a b c ty keep => Sys2Proof.Machine.execDmma g a b c ty keep s
  | .ldg g d a size scope acq off => Sys2Proof.Machine.execLdg g d a size scope acq off s
  | .ldgSigned g d a size scope acq off => Sys2Proof.Machine.execLdgSigned g d a size scope acq off s
  | .ldgU g sx d a size scope acq off => Sys2Proof.Machine.execLdgU g sx d a size scope acq off s
  | .stg g a b size scope rel off => Sys2Proof.Machine.execStg g a b size scope rel off s
  | .stgU g a b size scope rel off => Sys2Proof.Machine.execStgU g a b size scope rel off s
  | .lda g d a size off => Sys2Proof.Machine.execLda g d a size off s
  | .ldaSigned g d a size off => Sys2Proof.Machine.execLdaSigned g d a size off s
  | .ldw g d a size off => Sys2Proof.Machine.execLdw g d a size off s
  | .ldwSigned g d a size off => Sys2Proof.Machine.execLdwSigned g d a size off s
  | .ldc g d a size off => Sys2Proof.Machine.execLdc g d a size off s
  | .ldcSigned g d a size off => Sys2Proof.Machine.execLdcSigned g d a size off s
  | .sta g a b size off => Sys2Proof.Machine.execSta g a b size off s
  | .stw g a b size off => Sys2Proof.Machine.execStw g a b size off s
  | .stc g a b size off => Sys2Proof.Machine.execStc g a b size off s
  | .aatom g op d a b size scope order off => Sys2Proof.Machine.execAatom g op d a b size scope order off s
  | .invr g a b scope off => Sys2Proof.Machine.execInvr g a b scope off s
  | .inva g scope => Sys2Proof.Machine.execInva g scope s
  | .phbeg g a b off => Sys2Proof.Machine.execPhbeg g a b off s
  | .phend g a b off => Sys2Proof.Machine.execPhend g a b off s
  | .pfl1 g a b off => Sys2Proof.Machine.execPfl1 g a b off s
  | .atom g op d a b size scope order off => Sys2Proof.Machine.execAtom g op d a b size scope order off s
  | .cas g d a b size scope order off => Sys2Proof.Machine.execCas g d a b size scope order off s
  | .red g op a b size scope rel off => Sys2Proof.Machine.execRed g op a b size scope rel off s
  | .waita g d a b size scope acq off => Sys2Proof.Machine.execWaita g d a b size scope acq off s
  | .wake g d a b off => Sys2Proof.Machine.execWake g d a b off s
  | .fence g order scope => Sys2Proof.Machine.execFence g order scope s
  | .fld g d a hnd trap => Sys2Proof.Machine.execFld g d a hnd trap s
  | .fst g a b hnd => Sys2Proof.Machine.execFst g a b hnd s
  | .saddB32 g d a b => Sys2Proof.Machine.execSaddB32 g d a b s
  | .ssubB32 g d a b => Sys2Proof.Machine.execSsubB32 g d a b s
  | .smulB32 g d a b => Sys2Proof.Machine.execSmulB32 g d a b s
  | .sadd64B32 g d a b => Sys2Proof.Machine.execSadd64B32 g d a b s
  | .sshlB32 g d a b => Sys2Proof.Machine.execSshlB32 g d a b s
  | .sshrZ32B32 g d a b => Sys2Proof.Machine.execSshrZ32B32 g d a b s
  | .sshrS32B32 g d a b => Sys2Proof.Machine.execSshrS32B32 g d a b s
  | .sandB32 g d a b => Sys2Proof.Machine.execSandB32 g d a b s
  | .sorB32 g d a b => Sys2Proof.Machine.execSorB32 g d a b s
  | .sxorB32 g d a b => Sys2Proof.Machine.execSxorB32 g d a b s
  | .sminS32B32 g d a b => Sys2Proof.Machine.execSminS32B32 g d a b s
  | .smaxS32B32 g d a b => Sys2Proof.Machine.execSmaxS32B32 g d a b s
  | .sminZ32B32 g d a b => Sys2Proof.Machine.execSminZ32B32 g d a b s
  | .smaxZ32B32 g d a b => Sys2Proof.Machine.execSmaxZ32B32 g d a b s
  | .smovB32 g d a => Sys2Proof.Machine.execSmovB32 g d a s
  | .spopcB32 g d a => Sys2Proof.Machine.execSpopcB32 g d a s
  | .lanerdB32 g d a b => Sys2Proof.Machine.execLanerdB32 g d a b s
  | .lanewrB32 g d a b => Sys2Proof.Machine.execLanewrB32 g d a b s
  | .saddX64 g d a b ty sat => Sys2Proof.Machine.execSaddX64 g d a b ty sat s
  | .ssubX64 g d a b ty sat => Sys2Proof.Machine.execSsubX64 g d a b ty sat s
  | .smulX64 g d a b ty => Sys2Proof.Machine.execSmulX64 g d a b ty s
  | .smad g d a b c ty => Sys2Proof.Machine.execSmad g d a b c ty s
  | .sadd64X64 g d a b ty => Sys2Proof.Machine.execSadd64X64 g d a b ty s
  | .sleaX64 g d a b ty sh => Sys2Proof.Machine.execSleaX64 g d a b ty sh s
  | .sshlX64 g d a b ty wrap => Sys2Proof.Machine.execSshlX64 g d a b ty wrap s
  | .sshrX64 g d a b ty wrap => Sys2Proof.Machine.execSshrX64 g d a b ty wrap s
  | .sandX64 g d a b ty => Sys2Proof.Machine.execSandX64 g d a b ty s
  | .sorX64 g d a b ty => Sys2Proof.Machine.execSorX64 g d a b ty s
  | .sxorX64 g d a b ty => Sys2Proof.Machine.execSxorX64 g d a b ty s
  | .sminX64 g d a b ty => Sys2Proof.Machine.execSminX64 g d a b ty s
  | .smaxX64 g d a b ty => Sys2Proof.Machine.execSmaxX64 g d a b ty s
  | .scmp g d a b ty cond comb => Sys2Proof.Machine.execScmp g d a b ty cond comb s
  | .ssel g d a b c ty neg => Sys2Proof.Machine.execSsel g d a b c ty neg s
  | .smovX64 g d a ty => Sys2Proof.Machine.execSmovX64 g d a ty s
  | .spopcX64 g d a ty => Sys2Proof.Machine.execSpopcX64 g d a ty s
  | .lanerdX64 g d a b ty => Sys2Proof.Machine.execLanerdX64 g d a b ty s
  | .lanewrX64 g d a b ty => Sys2Proof.Machine.execLanewrX64 g d a b ty s
  | .smovi g d imm => Sys2Proof.Machine.execSmovi g d imm s
  | .saddI64 g d a imm => Sys2Proof.Machine.execSaddI64 g d a imm s
  | .smulI64 g d a imm => Sys2Proof.Machine.execSmulI64 g d a imm s
  | .sandI64 g d a imm => Sys2Proof.Machine.execSandI64 g d a imm s
  | .sorI64 g d a imm => Sys2Proof.Machine.execSorI64 g d a imm s
  | .sxorI64 g d a imm => Sys2Proof.Machine.execSxorI64 g d a imm s
  | .sshlI64 g d a n => Sys2Proof.Machine.execSshlI64 g d a n s
  | .sshrI64 g d a ty n => Sys2Proof.Machine.execSshrI64 g d a ty n s
  | .sminI64 g d a imm => Sys2Proof.Machine.execSminI64 g d a imm s
  | .smaxI64 g d a imm => Sys2Proof.Machine.execSmaxI64 g d a imm s
  | .sleaI64 g d a imm => Sys2Proof.Machine.execSleaI64 g d a imm s
  | .cpy g t a b c ds ss => Sys2Proof.Machine.execCpy g t a b c ds ss s
  | .cpy2 g t a b c ds ss tr => Sys2Proof.Machine.execCpy2 g t a b c ds ss tr s
  | .cpyh g t a b c inn abin => Sys2Proof.Machine.execCpyh g t a b c inn abin s
  | .pfl2 g x a c => Sys2Proof.Machine.execPfl2 g x a c s
  | .pwaitAnyB32 g d a => Sys2Proof.Machine.execPwaitAnyB32 g d a s
  | .pwaitAllB32 g d a => Sys2Proof.Machine.execPwaitAllB32 g d a s
  | .pwaitX64 g d a all => Sys2Proof.Machine.execPwaitX64 g d a all s
  | .pfindB32 g d a => Sys2Proof.Machine.execPfindB32 g d a s
  | .pfindX64 g d a => Sys2Proof.Machine.execPfindX64 g d a s
  | .pclrB32 g a => Sys2Proof.Machine.execPclrB32 g a s
  | .pclrX64 g a => Sys2Proof.Machine.execPclrX64 g a s
  | .pstat g d t => Sys2Proof.Machine.execPstat g d t s
  | .mxacqB32 g => Sys2Proof.Machine.execMxacqB32 g s
  | .mxacqX64 g => Sys2Proof.Machine.execMxacqX64 g s
  | .mxtryB32 g d => Sys2Proof.Machine.execMxtryB32 g d s
  | .mxtryX64 g d => Sys2Proof.Machine.execMxtryX64 g d s
  | .mxrelB32 g => Sys2Proof.Machine.execMxrelB32 g s
  | .mxrelX64 g => Sys2Proof.Machine.execMxrelX64 g s
  | .mxwaitB32 g => Sys2Proof.Machine.execMxwaitB32 g s
  | .mxwaitX64 g => Sys2Proof.Machine.execMxwaitX64 g s
  | .zaccSB32 g => Sys2Proof.Machine.execZaccSB32 g s
  | .zaccEB32 g => Sys2Proof.Machine.execZaccEB32 g s
  | .zaccX64 g east => Sys2Proof.Machine.execZaccX64 g east s
  | .stld g a b c ty w ab kc af => Sys2Proof.Machine.execStld g a b c ty w ab kc af s
  | .drain g a b ty east z => Sys2Proof.Machine.execDrain g a b ty east z s
  | .rgnb g a b c pitch => Sys2Proof.Machine.execRgnb g a b c pitch s
  | .rfit g a b c => Sys2Proof.Machine.execRfit g a b c s
  | .rgnq g d a b => Sys2Proof.Machine.execRgnq g d a b s
  | .coll g t a b c ty op kind grp => Sys2Proof.Machine.execColl g t a b c ty op kind grp s
  | .srdB32 g d a => Sys2Proof.Machine.execSrdB32 g d a s
  | .srdX64 g d a => Sys2Proof.Machine.execSrdX64 g d a s
  | .swrB32 g d a => Sys2Proof.Machine.execSwrB32 g d a s
  | .swrX64 g d a => Sys2Proof.Machine.execSwrX64 g d a s
  | .trapB32 g a => Sys2Proof.Machine.execTrapB32 g a s
  | .trapX64 g a => Sys2Proof.Machine.execTrapX64 g a s
  | .brkB32 g a => Sys2Proof.Machine.execBrkB32 g a s
  | .brkX64 g a => Sys2Proof.Machine.execBrkX64 g a s
  | .twrd g d a b => Sys2Proof.Machine.execTwrd g d a b s
  | .twwr g a b c => Sys2Proof.Machine.execTwwr g a b c s
  | .tres g => Sys2Proof.Machine.execTres g s
  | .tkill g => Sys2Proof.Machine.execTkill g s
  | .launch g d a b => Sys2Proof.Machine.execLaunch g d a b s
  | .barB32 g => Sys2Proof.Machine.execBarB32 g s
  | .barX64 g => Sys2Proof.Machine.execBarX64 g s
  | .tkwaitB32 g => Sys2Proof.Machine.execTkwaitB32 g s
  | .tkwaitX64 g => Sys2Proof.Machine.execTkwaitX64 g s
  | .tkpassB32 g => Sys2Proof.Machine.execTkpassB32 g s
  | .tkpassX64 g => Sys2Proof.Machine.execTkpassX64 g s
  | .ccwaitB32 g d a => Sys2Proof.Machine.execCcwaitB32 g d a s
  | .ccwaitX64 g d a => Sys2Proof.Machine.execCcwaitX64 g d a s
  | .starved sid uni => Sys2Proof.Machine.execStarved sid uni s
  | .forcedQueueEntry sid lane => Sys2Proof.Machine.execForcedQueueEntry sid lane s
  | .thresherZeroingDone core => Sys2Proof.Machine.execThresherZeroingDone core s
  | .thresherOpStart core => Sys2Proof.Machine.execThresherOpStart core s
  | .thresherOpComplete core => Sys2Proof.Machine.execThresherOpComplete core s
  | .wainStart core => Sys2Proof.Machine.execWainStart core s
  | .wainComplete core tag => Sys2Proof.Machine.execWainComplete core tag s
  | .cpyhCreditTimeout core tag => Sys2Proof.Machine.execCpyhCreditTimeout core tag s
  | .pfl2Complete die id => Sys2Proof.Machine.execPfl2Complete die id s
  | .collStepComplete id peers cause => Sys2Proof.Machine.execCollStepComplete id peers cause s
  | .registration msg => Sys2Proof.Machine.execRegistration msg s
  | .registrationAck msg => Sys2Proof.Machine.execRegistrationAck msg s
  | .ownerRecall barn line words => Sys2Proof.Machine.execOwnerRecall barn line words s
  | .forwardedRead msg => Sys2Proof.Machine.execForwardedRead msg s
  | .readRefusal msg => Sys2Proof.Machine.execReadRefusal msg s
  | .writeBack msg => Sys2Proof.Machine.execWriteBack msg s
  | .l1Eviction barn line => Sys2Proof.Machine.execL1Eviction barn line s
  | .redPublication barn addr => Sys2Proof.Machine.execRedPublication barn addr s
  | .l2LineEviction line => Sys2Proof.Machine.execL2LineEviction line s
  | .ccwaitPollTimer sid => Sys2Proof.Machine.execCcwaitPollTimer sid s
  | .peerAccess dev acc => Sys2Proof.Machine.execPeerAccess dev acc s
  | .hostAtomicSwap addr value => Sys2Proof.Machine.execHostAtomicSwap addr value s
  | .faultRecordDeferred => Sys2Proof.Machine.execFaultRecordDeferred s
  | .answer value => Sys2Proof.Machine.execAnswer value s
  | .invctx ctx => Sys2Proof.Machine.execInvctx ctx s
  | .faultQueueReconfig offset size value => Sys2Proof.Machine.execFaultQueueReconfig offset size value s
  | .registerWrite page offset size value => Sys2Proof.Machine.execRegisterWrite page offset size value s
  | .qtailDoorbell queue value => Sys2Proof.Machine.execQtailDoorbell queue value s
  | .recordTake queue => Sys2Proof.Machine.execRecordTake queue s
  | .dependencesMet queue => Sys2Proof.Machine.execDependencesMet queue s
  | .dealRound part => Sys2Proof.Machine.execDealRound part s
  | .stookRetire uid => Sys2Proof.Machine.execStookRetire uid s
  | .cropConfirm seq => Sys2Proof.Machine.execCropConfirm seq s
  | .partitionCommit part => Sys2Proof.Machine.execPartitionCommit part s
  | .reconfiguration part => Sys2Proof.Machine.execReconfiguration part s
  | .parkEviction uid => Sys2Proof.Machine.execParkEviction uid s
  | .parkRestore uid => Sys2Proof.Machine.execParkRestore uid s
  | .trapStookStart sid => Sys2Proof.Machine.execTrapStookStart sid s
  | .preempt part => Sys2Proof.Machine.execPreempt part s
  | .restoreParea part => Sys2Proof.Machine.execRestoreParea part s
  | .restoreSarea part => Sys2Proof.Machine.execRestoreSarea part s
  | .prctlNone part => Sys2Proof.Machine.execPrctlNone part s
  | .sliceExpiry part => Sys2Proof.Machine.execSliceExpiry part s
  | .preemptOperationEnd => Sys2Proof.Machine.execPreemptOperationEnd s
  | .buildStep region => Sys2Proof.Machine.execBuildStep region s
  | .refitStart die => Sys2Proof.Machine.execRefitStart die s
  | .refitStep region => Sys2Proof.Machine.execRefitStep region s
  | .refitCommit region => Sys2Proof.Machine.execRefitCommit region s
  | .urgentRefitStart region => Sys2Proof.Machine.execUrgentRefitStart region s
  | .bruvasLinkDown link => Sys2Proof.Machine.execBruvasLinkDown link s
  | .bruvasLinkUp link peer peerLink => Sys2Proof.Machine.execBruvasLinkUp link peer peerLink s
  | .routeRecompute reach => Sys2Proof.Machine.execRouteRecompute reach s
  | .hostLinkDown link => Sys2Proof.Machine.execHostLinkDown link s
  | .groupEntryWrite entry offset size value => Sys2Proof.Machine.execGroupEntryWrite entry offset size value s
  | .msixUnmask fn vector => Sys2Proof.Machine.execMsixUnmask fn vector s
  | .scanVisitStart barnId => Sys2Proof.Machine.execScanVisitStart barnId s
  | .scanMove barnId => Sys2Proof.Machine.execScanMove barnId s
  | .scanResult barnId pass => Sys2Proof.Machine.execScanResult barnId pass s
  | .rickKill uid => Sys2Proof.Machine.execRickKill uid s
  | .patrolScrub line => Sys2Proof.Machine.execPatrolScrub line s
  | .reset => Sys2Proof.Machine.execReset s
  | .functionReady bit ok => Sys2Proof.Machine.execFunctionReady bit ok s
  | .firmwareBoot image version modulus exponent signature devnum clash => Sys2Proof.Machine.execFirmwareBoot image version modulus exponent signature devnum clash s
  | .overtemp => Sys2Proof.Machine.execOvertemp s
  | .attestationStart => Sys2Proof.Machine.execAttestationStart s
  | .attestationDone => Sys2Proof.Machine.execAttestationDone s
  | .illegalEncoding => Sys2Proof.Machine.execIllegalEncoding s
  | .instructionFetchFault => Sys2Proof.Machine.execInstructionFetchFault s
  | .homeReply msg => Sys2Proof.Machine.execHomeReply msg s
  | .atomicAtHome msg => Sys2Proof.Machine.execAtomicAtHome msg s
  | .peerHomeReply msg reply ok => Sys2Proof.Machine.execPeerHomeReply msg reply ok s
  | .hostMemoryAccess acc => Sys2Proof.Machine.execHostMemoryAccess acc s
  | .hostSnoopResponse half bytes => Sys2Proof.Machine.execHostSnoopResponse half bytes s
  | .hostLinkUp link => Sys2Proof.Machine.execHostLinkUp link s

end Sys2Proof.Machine
end

