-- ==== Sys2Proof/Machine/Moves.lean ====
section
/-! DEFINITION. What the device does next: the issues that a cycle still owes, or a move chosen among the steps of its
agents, the next input from outside and a new cycle (00 R8, 03 R61, R394); how an instruction comes to stand where the next
step fetches it. -/
namespace Sys2Proof.Machine

open Sys2Proof

/-- A move: an instruction or an event in the state in which it runs, a state reached, or a stop. -/
inductive Move where
  | run (i : Instr) (s : State)
  | go (s : State)
  | stop (f : Fault)

/-- Rows of the opcode table that the outside world does: the host and its driver, peer devices, links, hardware errors,
over-temperature, reset and bring-up. -/
noncomputable def isInput (i : Instr) : Bool :=
  match i with
  | .cpyhCreditTimeout .. => true
  | .collStepComplete .. => true
  | .peerAccess .. => true
  | .peerHomeReply .. => true
  | .hostMemoryAccess .. => true
  | .hostAtomicSwap .. => true
  | .hostSnoopResponse .. => true
  | .hostLinkDown .. => true
  | .hostLinkUp .. => true
  | .answer .. => true
  | .invctx .. => true
  | .faultQueueReconfig .. => true
  | .registerWrite .. => true
  | .qtailDoorbell .. => true
  | .partitionCommit .. => true
  | .preempt .. => true
  | .restoreParea .. => true
  | .restoreSarea .. => true
  | .prctlNone .. => true
  | .bruvasLinkDown .. => true
  | .bruvasLinkUp .. => true
  | .routeRecompute .. => true
  | .groupEntryWrite .. => true
  | .msixUnmask .. => true
  | .scanVisitStart .. => true
  | .scanMove .. => true
  | .scanResult .. => true
  | .rickKill .. => true
  | .patrolScrub .. => true
  | .reset => true
  | .functionReady .. => true
  | .firmwareBoot .. => true
  | .overtemp => true
  | .attestationStart => true
  | .starved .. => true
  | .forcedQueueEntry .. => true
  | _ => false

/-! ### Steps of the device's own agents -/

/-- What may happen to a message. -/
def Msg.moves (m : Nat) : Msg → List Instr
  | .reg _ _ _ _ _ _ false => [.registration m]
  | .reg _ _ _ _ _ _ true => [.registrationAck m]
  | .read .. => [.forwardedRead m, .readRefusal m, .homeReply m]
  | .atomic .. => [.atomicAtHome m]
  | .wb .. => [.writeBack m]
  | .peer .. => []
  | .pfl .. => []
/-- Evictions, recalls and publications of one barn (12 R211, R219; 13 R239). -/
def Barn.moves (n : Nat) (b : Barn) : List Instr :=
  b.linesOf.flatMap (fun l => [.l1Eviction n l, .ownerRecall n l 0xFFFFFFFF]) ++ b.gather.map (fun (g : Nat × Gather) => .redPublication n g.1)
/-- Steps of a core's thresher and wain. -/
def Core.moves (n : Nat) (c : Core) : List Instr :=
  [.thresherZeroingDone n, .thresherOpStart n, .thresherOpComplete n, .wainStart n] ++ c.wainRun.map (fun o => .wainComplete n o.tag)
/-- Steps of the dispatcher, the trap unit and the pre-emption logic. -/
def State.launchMoves (s : State) : List Instr :=
  s.queues.flatMap (fun (q : Nat × LQueue) => [.recordTake q.1, .dependencesMet q.1]) ++
  s.parts.flatMap (fun (p : Nat × Part) => [.dealRound p.1, .reconfiguration p.1, .sliceExpiry p.1]) ++
  s.stooks.flatMap (fun (k : Nat × Stook) => [.stookRetire k.1, .parkEviction k.1, .parkRestore k.1]) ++
  s.crops.map (fun (c : Nat × Crop) => .cropConfirm c.2.seq) ++
  s.sheaves.flatMap (fun (e : Nat × Sheaf) => (if e.2.trap.isSome then [.trapStookStart e.1] else []) ++ [.ccwaitPollTimer e.1])
/-- Every step that some agent of the device may take; one that is not ready leaves the state as it is. -/
def State.moves (s : State) : List Instr :=
  s.msgs.flatMap (fun (m : Nat × MsgEnt) => m.2.msg.moves m.1) ++
  s.barns.flatMap (fun (b : Nat × Barn) => b.2.moves b.1) ++
  s.homes.map (fun (h : Nat × HomeLine) => .l2LineEviction h.1) ++
  s.cores.flatMap (fun (c : Nat × Core) => c.2.moves c.1) ++
  s.pfl2.map (fun o => .pfl2Complete o.die o.id) ++
  (s.colls.filter (fun o => o.fin.isSome || o.out.isSome || o.given != [])).map (fun o => .collStepComplete o.id [] 0) ++
  s.regions.flatMap (fun (r : Nat × Region) => [.buildStep r.1, .refitStep r.1, .refitCommit r.1, .urgentRefitStart r.1]) ++
  (List.range 4).map (fun d => .refitStart d) ++ s.launchMoves ++ [.faultRecordDeferred, .preemptOperationEnd, .attestationDone]

/-- Steps that need never come: evictions, recalls and publications, and a rick that is parked for another. -/
noncomputable def mayWait (i : Instr) : Bool :=
  match i with
  | .l1Eviction .. => true
  | .ownerRecall .. => true
  | .redPublication .. => true
  | .l2LineEviction .. => true
  | .parkEviction .. => true
  | _ => false
/-- The step that has waited longest. After the last of a round a new cycle comes, and what can be made then is the next
round, so that every other step is made at some time and a cycle follows (22 R365; DESIGN CHOICE, log 7). -/
noncomputable def State.chooseDue (s : State) : Move :=
  match s.due with
  | i :: r => .run i { s with due := r, passed := 0 }
  | [] =>
    let t := s.endCycle.planCycle
    .go { t with due := t.moves.filter (fun i => !mayWait i), passed := 0 }
/-- A free choice among the moves of the agents, the next input, an uncorrectable error in a freely chosen barn's L1 (12
R221), the masking of a vector (log 77), and a new cycle: the end of the last one and the plan of the next. -/
noncomputable def State.chooseFree (s : State) : Move :=
  let l := s.moves
  let k := Config.choice s.tick % (l.length + 4)
  let s := { s with tick := s.tick + 1 }
  match l[k]? with
  | some i => .run i s
  | none =>
    if k = l.length then
      match s.inputs with
      | i :: r => if isInput i then .run i { s with inputs := r } else .go { s with inputs := r }
      | [] => .go s.endCycle.planCycle
    else if k = l.length + 1 then .go ({ s with tick := s.tick + 1 }.strikeL1 (Config.choice s.tick % 88))
    else if k = l.length + 2 then .go s.maskVector
    else .go s.endCycle.planCycle
/-- A free choice, or what is due when enough of them have passed. -/
noncomputable def State.choose (s : State) : Move :=
  if Config.patience < s.passed then s.chooseDue else State.chooseFree { s with passed := s.passed + 1 }
/-- The next move. A device stopped by over-temperature does nothing until a reset (21 R363). -/
noncomputable def State.nextMove (s : State) : Move :=
  if s.rel.overtemp then
    match s.inputs with
    | .reset :: r => .run .reset { s with inputs := r }
    | _ :: r => .go { s with inputs := r }
    | [] => .stop .deviceStopped
  else match s.slot with
    | p :: r =>
      match State.issueOf { s with slot := r } p with
      | (some i, s) => .run i s
      | (none, s) => .go s
    | [] => s.settleTurns.collWatch.choose

/-! ### An instruction placed for the next step -/

/-- The words of the instruction that the head of the slot issues. -/
noncomputable def State.headWords (s : State) : Option (List Word) :=
  match s.slot with
  | [] => none
  | p :: _ =>
    match s.sheaf? p.sid with
    | none => none
    | some _ =>
      if p.rep || s.rel.overtemp then none
      else match State.issueOf { s with slot := s.slot.tail } p with
        | (some _, t) => t.cur.map (·.words)
        | (none, _) => none
/-- Bytes stored where the head of the slot fetches. -/
def State.pokeHead (s : State) (bs : List Byte) : State :=
  match s.slot with
  | [] => s
  | p :: _ =>
    match s.sheaf? p.sid with
    | none => s
    | some sh => bs.zipIdx.foldl (fun s b =>
        match (s.translate (some sh.core) sh.ctx (p.pc + BitVec.ofNat 64 b.2) .fetch false).1 with
        | .ok pa _ _ _ => (s.memWrite pa [b.1]).setCore sh.core { s.core sh.core with icache := (s.core sh.core).icache.erase (pa / 4) }
        | _ => s) s
/-- The page tables of the context that an instruction is placed in: context 0, 1 GiB from 0x40000000 mapped to itself. -/
def bootTables : List (Nat × Nat) := [(0x40000, 0x80001), (0x80000, 0x90001), (0x90008, 0x4000003F)]
/-- A launch record for one stook of one sheaf of 8 lanes with 96 registers. -/
def bootRecord : List Byte :=
  bytesOf 8 0x40001000 ++ bytesOf 8 0 ++ bytesOf 4 1 ++ bytesOf 4 1 ++ bytesOf 4 1 ++ bytesOf 4 (12 * 128) ++ List.replicate 96 0
/-- A device that is ready, with one stook on core 0 of partition 0 whose one sheaf issues at 0x40001000 next. -/
def State.boot (s : State) (bs : List Byte) : State :=
  let uid := s.nextId
  let pc : DWord := 0x40001000
  let mem := bootTables.foldl (fun m e => Machine.memWrite m e.1 (bytesOf 8 e.2)) s.mem
  let crop : Crop := { newCrop .reset 0 ⟨bootRecord, 0, 0, 0, [], []⟩ with next := 1, diePend := [1, 0, 0, 0], cores := [(0, true)] }
  let stook : Stook := {
    crop := uid + 1, linear := 0, pos := 0, rank := 0, rick := 0, rickSize := 1, redo := 0, cores := [0], wUnits := 0, aUnits := 0, cUnits := 0
    binW := [], binA := [], binC := [], sheaves := [uid + 2], round := 0, ranges := [], merge := [], parked := false, wakes := []
    trapStook := false, killed := false, saved := [], savedOps := [], savedMx := [], park := (0, 0) }
  { s with
    mem := Machine.memWrite mem 0x40001000 bs
    rel := { s.rel with ready := 0x1FFFFFFFF, overtemp := false }
    trans := { s.trans with ctxbase := 0x40000, ctxCache := [] }
    barns := [], homes := [], msgs := []
    cores := s.cores.put 0 (Core.fresh .usable)
    sheaves := s.sheaves.put (uid + 2) (Sheaf.fresh uid 0 0 0 8 96 0 0 s.nextId pc 0 none [])
    stooks := s.stooks.put uid stook
    crops := s.crops.put (uid + 1) crop
    nextId := s.nextId + 3
    slot := [⟨uid + 2, 0xFF, pc, false, false, none⟩] }
/-- The instruction of the given bits where the next step fetches: at the head of the slot where its fetch succeeds, else
on a device made ready for it. -/
noncomputable def State.placeNext (s : State) (bs : List Byte) : State :=
  let t := s.pokeHead bs
  match t.headWords with
  | some l => if l = (wordsOfBytes bs).take l.length then t else s.boot bs
  | none => s.boot bs

end Sys2Proof.Machine
end

