-- ==== Sys2Proof/Machine/Step.lean ====
section
/-! DEFINITION. One step of the device. -/
namespace Sys2Proof.Machine

open Sys2Proof

/-- One step: the next move; an instruction or an event runs by its meaning. -/
noncomputable def step (s : State) : Host.Outcome State Fault Refusal :=
  match s.nextMove with
  | .run i t => exec i t
  | .go t => .next t
  | .stop f => .fault f

/-- The state with the instruction of `nbits` bits `w`, every higher bit 0, where the next step fetches and runs it. -/
noncomputable def State.withFetchWord (s : State) (nbits w : Nat) : State := s.placeNext (tableBytes (w % 2 ^ nbits))

end Sys2Proof.Machine
end

