-- ==== Sys2Proof/Safety.lean ====
section
/-! DEFINITION. The terms in which claims are made: a step that completes, an instruction that issues with its own
effect, and what the issue leaves of lanes, registers and the rest of the device. -/
namespace Sys2Proof.Safety

open Sys2Proof Sys2Proof.Machine

/-- A safe step: it ends in a next state, neither in a fault nor in a refusal. -/
def Completes (s : State) : Prop := ∃ t, step s = .next t

/-- An instruction that an issue performs, with what its meaning sees: the current path is one of an unfrozen sheaf, PRIV,
REGB and LATCH raise nothing, and some lane is in E (02 R35, R47, 05 R88, 19 R317). -/
structure Issues (i : Instr) (s : State) (k : Ctx) : Prop where
  here : ∃ cur, s.cur = some cur ∧ s.sheaf? cur.sid = some k.sh ∧ k = ctxOf i cur k.sh s.clock
  runs : k.sh.frozen = false
  checks : preCheck i k = none
  some_ : k.e ≠ 0

/-- The address of the next instruction (04 R63). -/
def after (k : Ctx) : DWord := k.pc + BitVec.ofNat 64 k.len
/-- A lane in which a lane-set instruction issues: the latches shift, b0 takes the lane's result or becomes invalid
(05 R86); `pc` is where the lane goes. -/
def shiftedAt (pc : DWord) (v : Option Word) (l : Lane) : Lane :=
  { l with pc := pc, b3 := l.b2, b2 := l.b1, b1 := l.b0, b0 := v.getD 0
           bvalid := l.bvalid <<< 1 ||| (if v.isSome then 1 else 0), age := 0 }
/-- The same, and the program counter goes on (04 R63). -/
def shifted (k : Ctx) (v : Option Word) (l : Lane) : Lane := shiftedAt (after k) v l
/-- A lane of the path of a uniform instruction: only its program counter goes on (06 R108). -/
def passed (k : Ctx) (l : Lane) : Lane := { l with pc := after k, age := 0 }
/-- A lane that branches: the latches become invalid (05 R87). -/
def jumped (pc : DWord) (l : Lane) : Lane := { l with pc := pc, bvalid := 0, age := 0 }
/-- A lane of a uniform instruction that stays at it. -/
def stayed (l : Lane) : Lane := { l with age := 0 }

/-- The state with another sheaf, the operand collector emptied where the instruction writes a register that it holds
(11 R194): nothing else differs. -/
def withSheaf (i : Instr) (s : State) (k : Ctx) (sh : Sheaf) : State :=
  { s with sheaves := s.sheaves.put k.sid sh, cores := (s.retouch i k).cores }

/-- Each lane after an instruction: `own` is the instruction's effect on it, `g` what the issue does to a lane of the path;
a replayed entry leaves the program counters, and its place in the replay queue (19 R327). -/
structure LanesAfter (k : Ctx) (sh : Sheaf) (own g : Nat → Lane → Lane) : Prop where
  issued : k.replay = none → sh.replay = k.sh.replay ∧
    ∀ l < 64, sh.lane l = if k.path.getLsbD l then g l (own l (k.sh.lane l)) else own l (k.sh.lane l)
  replayed : k.replay ≠ none → sh.replay = k.sh.replay.tail ∧ ∀ l < 64, sh.lane l = own l (k.sh.lane l)

/-- A register of a lane after a result of some words: the group named in the lanes of E, every other register as
before; z and the latch name none (02 R33, R35, R36). -/
def RegsAfter (k : Ctx) (sh : Sheaf) (d : Reg) (f : Nat → List Word) : Prop :=
  ∀ r l, l < 64 → sh.vreg r l =
    match d with
    | .v n => if k.e.getLsbD l = true ∧ n.val ≤ r ∧ r < n.val + (f l).length then (f l).getD (r - n.val) 0 else k.sh.vreg r l
    | _ => k.sh.vreg r l

/-- A lane-set instruction whose result is a group of registers in each lane of E: exactly those registers, the latches
and program counters of the path change. -/
def LaneResult (i : Instr) (s t : State) (k : Ctx) (d : Reg) (f : Nat → List Word) : Prop :=
  ∃ sh, t = withSheaf i s k sh ∧
    { sh with lanes := k.sh.lanes, regs := k.sh.regs, replay := k.sh.replay } = k.sh ∧
    RegsAfter k sh d f ∧
    LanesAfter k sh (fun _ x => x) (fun l x => shifted k (if k.e.getLsbD l then some ((f l).headD 0) else none) x)

/-- A lane-set instruction whose result is one predicate in each lane of E. -/
def PredResult (i : Instr) (s t : State) (k : Ctx) (p : Nat) (f : Nat → Bool) : Prop :=
  ∃ sh, t = withSheaf i s k sh ∧
    { sh with lanes := k.sh.lanes, replay := k.sh.replay } = k.sh ∧
    LanesAfter k sh (fun l x => if k.e.getLsbD l then { x with preds := setPredBit x.preds p (f l) } else x)
      (fun _ x => shifted k none x)

/-- A uniform instruction whose result is a group of uniform registers. -/
def UniResult (i : Instr) (s t : State) (k : Ctx) (d : SReg) (ws : List Word) : Prop :=
  ∃ sh, t = withSheaf i s k sh ∧
    { sh with lanes := k.sh.lanes, s := k.sh.s, replay := k.sh.replay } = k.sh ∧
    (∀ r, sh.sreg r = match d with
      | .s n => if n.val ≤ r ∧ r < n.val + ws.length then ws.getD (r - n.val) 0 else k.sh.sreg r
      | .z => k.sh.sreg r) ∧
    LanesAfter k sh (fun _ x => x) (fun _ x => passed k x)

/-- An instruction that writes one mask, once for the sheaf; `g` is what the issue does to the lanes of its path (04 R65,
R66). -/
def MaskResult (i : Instr) (s t : State) (k : Ctx) (m : Fin 12) (v : LaneSet) (g : Nat → Lane → Lane) : Prop :=
  ∃ sh, t = withSheaf i s k sh ∧
    { sh with lanes := k.sh.lanes, m := k.sh.m, replay := k.sh.replay } = k.sh ∧
    (∀ j : Fin 12, sh.mask j = if j = m then v &&& k.sh.full else k.sh.mask j) ∧
    LanesAfter k sh (fun _ x => x) g

/-- An instruction whose whole effect is on the lanes: `own` is that effect, `g` what the issue does to a lane of the
path. -/
def LanesOnly (i : Instr) (s t : State) (k : Ctx) (own g : Nat → Lane → Lane) : Prop :=
  ∃ sh, t = withSheaf i s k sh ∧
    { sh with lanes := k.sh.lanes, replay := k.sh.replay } = k.sh ∧
    LanesAfter k sh own g

/-- What an issue leaves once the instruction's own effect has given the state `u`: the lanes of the path (`g` says what
becomes of each) and the place in the replay queue of its sheaf, and nothing else; where the effect has removed the sheaf,
nothing (04 R63, 19 R327). -/
structure Retired (i : Instr) (k : Ctx) (u t : State) (g : Nat → Lane → Lane) : Prop where
  here : ∀ shu, u.sheaf? k.sid = some shu → ∃ sh, t = withSheaf i u k sh ∧
    { sh with lanes := shu.lanes, replay := shu.replay } = shu ∧
    (k.replay = none → sh.replay = shu.replay ∧
      ∀ l < 64, sh.lane l = if k.path.getLsbD l then g l (shu.lane l) else shu.lane l) ∧
    (k.replay ≠ none → sh.replay = shu.replay.tail ∧ ∀ l < 64, sh.lane l = shu.lane l)
  gone : u.sheaf? k.sid = none → t = u
/-- A lane that goes on, as a lane-set or a uniform instruction leaves it. -/
def goesOn (i : Instr) (k : Ctx) (x : Lane) : Lane := if i.cls = .uniform then passed k x else shifted k none x
/-- A lane that stays at the instruction. -/
def stands (i : Instr) (x : Lane) : Lane := if i.cls = .uniform then stayed x else shiftedAt x.pc none x
/-- An instruction whose issue leaves the state `u` with every lane of the path gone on. -/
def Leaves (i : Instr) (k : Ctx) (s u : State) : Prop :=
  ∃ t, exec i s = .next t ∧ Retired i k u t (fun _ x => goesOn i k x)
/-- The same, where the lanes of a set stay at the instruction. -/
def LeavesBut (i : Instr) (k : Ctx) (s u : State) (m : LaneSet) : Prop :=
  ∃ t, exec i s = .next t ∧ Retired i k u t (fun l x => if m.getLsbD l then stands i x else goesOn i k x)
/-- The trap that an instruction raises instead of its effect (19 R317): the state is the one its entry leaves. -/
def Traps (i : Instr) (k : Ctx) (s : State) (c : Cause) (lanes : LaneSet) (addr : DWord) : Prop :=
  exec i s = .next (s.takeTrap k.sid { code := c.code, pc := k.pc, addr := addr, lanes := lanes, path := k.path, info := 0,
                                       fetch := false, engine := false, fail := [] } none)

end Sys2Proof.Safety
end

