-- ==== Sys2Proof/Certificates/Slice0/Obligations.lean ====
section
/-! DEFINITION. The statements about this machine. Each says which rules of spec/ it formalises; the tables before a
statement give, for each instruction that it is about, the value that the rules give. -/
namespace Sys2Proof.Spec

open Sys2Proof Sys2Proof.Machine Sys2Proof.Safety

/-! ### 32- and 64-bit integer values (05 R92 to R94, R100) -/

/-- ext(x) of R92: signed under .S32, unsigned under .Z32. -/
def ext (t : Ty) (x : Word) : Int := if t = .s32 then x.toInt else x.toNat
/-- The range of a type, for .SAT. -/
def clampTo (t : Ty) (x : Int) : Int :=
  if t = .s32 then max (-2147483648) (min 2147483647 x) else max 0 (min 4294967295 x)
/-- An exact result: clamped to the type's range with .SAT, then modulo 2^32. -/
def fit (t : Ty) (sat : Bool) (x : Int) : Word := BitVec.ofInt 32 (if sat then clampTo t x else x)
/-- Word 0 of the operand fields A, B and C in a lane. -/
abbrev A (k : Ctx) (a : Reg) (l : Nat) : Word := k.opA a l 0
abbrev B (k : Ctx) (b : Reg) (l : Nat) : Word := k.opB b l 0
abbrev C (k : Ctx) (c : Reg) (l : Nat) : Word := k.opC c l 0
/-- A 64-bit result as the words of a pair, the even register first. -/
def pair (x : DWord) : List Word := [loWord x, hiWord x]

/-- The values of R92, with the 32-bit register that holds them. -/
def arith : Instr → Option (Dst × (Ctx → Nat → Word))
  | .iaddB32 _ d a b => some (d, fun k l => fit .s32 false (ext .s32 (A k a l) + ext .s32 (B k b l)))
  | .iaddX64 _ d a b ty sat => some (d, fun k l => fit ty sat (ext ty (A k a l) + ext ty (B k b l)))
  | .iaddI64 _ d a imm => some (d, fun k l => fit .s32 false (ext .s32 (A k a l) + imm.toInt))
  | .isubB32 _ d a b => some (d, fun k l => fit .s32 false (ext .s32 (A k a l) - ext .s32 (B k b l)))
  | .isubX64 _ d a b ty sat => some (d, fun k l => fit ty sat (ext ty (A k a l) - ext ty (B k b l)))
  | .iabsB32 _ d a => some (d, fun k l => fit .s32 false ((A k a l).toInt.natAbs : Int))
  | .iabsX64 _ d a sat => some (d, fun k l => fit .s32 sat ((A k a l).toInt.natAbs : Int))
  | .inegB32 _ d a => some (d, fun k l => fit .s32 false (-(A k a l).toInt))
  | .inegX64 _ d a sat => some (d, fun k l => fit .s32 sat (-(A k a l).toInt))
  | .imulB32 _ d a b => some (d, fun k l => BitVec.ofNat 32 ((A k a l).toNat * (B k b l).toNat))
  | .imulX64 _ d a b _ => some (d, fun k l => BitVec.ofNat 32 ((A k a l).toNat * (B k b l).toNat))
  | .imulI64 _ d a imm => some (d, fun k l => BitVec.ofNat 32 ((A k a l).toNat * imm.toNat))
  | .imulhS32B32 _ d a b => some (d, fun k l => BitVec.ofInt 32 (ext .s32 (A k a l) * ext .s32 (B k b l) / 2 ^ 32))
  | .imulhZ32B32 _ d a b => some (d, fun k l => BitVec.ofInt 32 (ext .z32 (A k a l) * ext .z32 (B k b l) / 2 ^ 32))
  | .imulhX64 _ d a b ty => some (d, fun k l => BitVec.ofInt 32 (ext ty (A k a l) * ext ty (B k b l) / 2 ^ 32))
  | .imad _ d a b c _ => some (d, fun k l => BitVec.ofNat 32 ((A k a l).toNat * (B k b l).toNat + (C k c l).toNat))
  | .iminS32B32 _ d a b => some (d, fun k l => BitVec.ofInt 32 (min (ext .s32 (A k a l)) (ext .s32 (B k b l))))
  | .iminZ32B32 _ d a b => some (d, fun k l => BitVec.ofInt 32 (min (ext .z32 (A k a l)) (ext .z32 (B k b l))))
  | .iminX64 _ d a b ty => some (d, fun k l => BitVec.ofInt 32 (min (ext ty (A k a l)) (ext ty (B k b l))))
  | .iminI64 _ d a imm => some (d, fun k l => BitVec.ofInt 32 (min (ext .s32 (A k a l)) (ext .s32 imm)))
  | .imaxS32B32 _ d a b => some (d, fun k l => BitVec.ofInt 32 (max (ext .s32 (A k a l)) (ext .s32 (B k b l))))
  | .imaxZ32B32 _ d a b => some (d, fun k l => BitVec.ofInt 32 (max (ext .z32 (A k a l)) (ext .z32 (B k b l))))
  | .imaxX64 _ d a b ty => some (d, fun k l => BitVec.ofInt 32 (max (ext ty (A k a l)) (ext ty (B k b l))))
  | .imaxI64 _ d a imm => some (d, fun k l => BitVec.ofInt 32 (max (ext .s32 (A k a l)) (ext .s32 imm)))
  | _ => none

/-- The values of R93: pairs. -/
def arith64 : Instr → Option (Reg × (Ctx → Nat → DWord))
  | .iadd64B32 _ d a b => some (d, fun k l => k.pairA a l + k.pairB b l)
  | .iadd64X64 _ d a b _ => some (d, fun k l => k.pairA a l + k.pairB b l)
  | .imadw _ d a b c ty => some (d, fun k l => BitVec.ofInt 64 (ext ty (A k a l) * ext ty (B k b l) + (k.pairC c l).toNat))
  | .leaX64 _ d a b ty sh => some (d, fun k l => BitVec.ofInt 64 ((k.pairA a l).toNat + ext ty (B k b l) * 2 ^ sh.val))
  | .leaI64 _ d a imm => some (d, fun k l => BitVec.ofInt 64 ((k.pairA a l).toNat + imm.toInt))
  | _ => none

/-- A word shifted left, right as unsigned or as signed, by an exact count (R94). -/
def left (a : Word) (n : Nat) : Word := BitVec.ofNat 32 (a.toNat * 2 ^ n)
def right (t : Ty) (a : Word) (n : Nat) : Word := BitVec.ofInt 32 (ext t a / 2 ^ n)
/-- The count of SHL and SHR: B, or its low five bits with .WRAP. -/
def count (wrap : Bool) (b : Word) : Nat := if wrap then b.toNat % 32 else b.toNat
/-- SHF: 64 bits, C above A at the low end, shifted. -/
def funnel (a b c : Word) (lft wrap : Bool) : Word :=
  let w := b.toNat * 2 ^ 32 + a.toNat
  let n := if wrap then c.toNat % 64 else min c.toNat 64
  BitVec.ofNat 32 (if lft then w * 2 ^ n % 2 ^ 64 / 2 ^ 32 else w / 2 ^ n)
/-- ROT by n bits to the left. -/
def rotated (a : Word) (n : Nat) : Word := BitVec.ofNat 32 (a.toNat * 2 ^ n + a.toNat / 2 ^ (32 - n))
/-- The values of R94 and R100. -/
def shifts : Instr → Option (Dst × (Ctx → Nat → Word))
  | .shlB32 _ d a b => some (d, fun k l => left (A k a l) (count false (B k b l)))
  | .shlX64 _ d a b _ wrap => some (d, fun k l => left (A k a l) (count wrap (B k b l)))
  | .shlI64 _ d a n => some (d, fun k l => left (A k a l) n.val)
  | .shrZ32B32 _ d a b => some (d, fun k l => right .z32 (A k a l) (count false (B k b l)))
  | .shrS32B32 _ d a b => some (d, fun k l => right .s32 (A k a l) (count false (B k b l)))
  | .shrX64 _ d a b ty wrap => some (d, fun k l => right ty (A k a l) (count wrap (B k b l)))
  | .shrI64 _ d a ty n => some (d, fun k l => right ty (A k a l) n.val)
  | .shf _ d a b c _ lft wrap => some (d, fun k l => funnel (A k a l) (B k b l) (C k c l) lft wrap)
  | .rot _ d a b _ rgt => some (d, fun k l =>
      if rgt then rotated (A k a l) ((32 - (B k b l).toNat % 32) % 32) else rotated (A k a l) ((B k b l).toNat % 32))
  | .idp4 _ d a b c ty bz => some (d, fun k l =>
      let x (j : Nat) : Int := if ty = .s8 then (wordByte (A k a l) j).toInt else (wordByte (A k a l) j).toNat
      let y (j : Nat) : Int := if bz then (wordByte (B k b l) j).toNat else (wordByte (B k b l) j).toInt
      BitVec.ofInt 32 ((C k c l).toNat + x 0 * y 0 + x 1 * y 1 + x 2 * y 2 + x 3 * y 3))
  | _ => none

/-- The logic and bit-field instructions of R95 and R96: what bit j of the result is. -/
def bitsOf95 : Instr → Option (Dst × (Ctx → Nat → Nat → Bool))
  | .andB32 _ d a b => some (d, fun k l j => (A k a l).getLsbD j && (B k b l).getLsbD j)
  | .andX64 _ d a b _ => some (d, fun k l j => (A k a l).getLsbD j && (B k b l).getLsbD j)
  | .andI64 _ d a imm => some (d, fun k l j => (A k a l).getLsbD j && imm.getLsbD j)
  | .orB32 _ d a b => some (d, fun k l j => (A k a l).getLsbD j || (B k b l).getLsbD j)
  | .orX64 _ d a b _ => some (d, fun k l j => (A k a l).getLsbD j || (B k b l).getLsbD j)
  | .orI64 _ d a imm => some (d, fun k l j => (A k a l).getLsbD j || imm.getLsbD j)
  | .xorB32 _ d a b => some (d, fun k l j => (A k a l).getLsbD j != (B k b l).getLsbD j)
  | .xorX64 _ d a b _ => some (d, fun k l j => (A k a l).getLsbD j != (B k b l).getLsbD j)
  | .xorI64 _ d a imm => some (d, fun k l j => (A k a l).getLsbD j != imm.getLsbD j)
  | .andnB32 _ d a b => some (d, fun k l j => (A k a l).getLsbD j && !(B k b l).getLsbD j)
  | .andnX64 _ d a b _ => some (d, fun k l j => (A k a l).getLsbD j && !(B k b l).getLsbD j)
  | .tern _ d a b c _ lut => some (d, fun k l j =>
      lut.getLsbD (4 * ((A k a l).getLsbD j).toNat + 2 * ((B k b l).getLsbD j).toNat + ((C k c l).getLsbD j).toNat))
  | .brevB32 _ d a => some (d, fun k l j => (A k a l).getLsbD (31 - j))
  | .brevX64 _ d a _ => some (d, fun k l j => (A k a l).getLsbD (31 - j))
  | .bfx _ d a ty pos ln => some (d, fun k l j =>
      if j < ln.val then (A k a l).getLsbD (pos.val + j)
      else decide (ty = .s32) && decide (0 < ln.val) && (A k a l).getLsbD (pos.val + ln.val - 1))
  | .bfi _ d a b _ pos ln => some (d, fun k l j =>
      if pos.val ≤ j ∧ j < pos.val + ln.val then (A k a l).getLsbD (j - pos.val) else (B k b l).getLsbD j)
  | _ => none
/-- The counts of R95. -/
def countsOf95 : Instr → Option (Dst × (Ctx → Nat → Nat))
  | .popcB32 _ d a => some (d, fun k l => ((List.range 32).filter (fun j => (A k a l).getLsbD j)).length)
  | .popcX64 _ d a _ => some (d, fun k l => ((List.range 32).filter (fun j => (A k a l).getLsbD j)).length)
  | .clzB32 _ d a => some (d, fun k l => if A k a l = 0 then 32 else 31 - Nat.log2 (A k a l).toNat)
  | .clzX64 _ d a _ => some (d, fun k l => if A k a l = 0 then 32 else 31 - Nat.log2 (A k a l).toNat)
  | _ => none

/-! ### Compare, select, move (05 R97 to R99) -/

/-- Table 5.2. -/
def cond (c : Cond) (a b : Int) : Prop :=
  match c with
  | .eq => a = b | .ne => a ≠ b | .lt => a < b | .le => a ≤ b | .gt => a > b | .ge => a ≥ b
/-- The combination of R97. -/
def combined (x : Combine) (c : Bool) (p : Pred → Bool) : Bool :=
  match x with
  | .none => c | .and q => c && p q | .or q => c || p q | .xor q => xor c (p q)
/-- A source predicate of a lane: pt is true. -/
def pred (k : Ctx) (l : Nat) (p : Pred) : Bool :=
  match p with
  | .p n => (k.sh.lane l).preds.getLsbD n.val
  | .t => true
/-- The predicate that an instruction of R97 or R99 writes, and its value. -/
noncomputable def preds : Instr → Option (Fin 7 × (Ctx → Nat → Bool))
  | .icmp _ d a b ty c x => some (d, fun k l =>
      open Classical in combined x (decide (cond c (ext ty (A k a l)) (ext ty (B k b l)))) (pred k l))
  | .plog _ (.and d a b) => some (d, fun k l => pred k l a && pred k l b)
  | .plog _ (.or d a b) => some (d, fun k l => pred k l a || pred k l b)
  | .plog _ (.xor d a b) => some (d, fun k l => xor (pred k l a) (pred k l b))
  | .plog _ (.andn d a b) => some (d, fun k l => pred k l a && !pred k l b)
  | .plog _ (.mov d a) => some (d, fun k l => pred k l a)
  | .plog _ (.not d a) => some (d, fun k l => !pred k l a)
  | _ => none
/-- The values of R98, PLOG.PACK and CHDEPTH. -/
def moves : Instr → Option (Dst × (Ctx → Nat → Word))
  | .sel _ d a b c _ neg => some (d, fun k l => if xor (pred k l c) neg then A k a l else B k b l)
  | .movB32 _ d a => some (d, fun k l => A k a l)
  | .movX64 _ d a _ => some (d, fun k l => A k a l)
  | .movi _ d imm => some (d, fun _ _ => imm)
  | .plog _ (.pack d) => some (d, fun k l => BitVec.ofNat 32 (k.sh.lane l).preds.toNat)
  | .chdepth _ d => some (d, fun k l => BitVec.ofNat 32 (k.sh.lane l).depth)
  | _ => none

/-! ### Across lanes (05 R101 to R105) -/

/-- The source lane of XCH, exact. -/
def xchLane (m : XMode) (l : Nat) (b : Word) : Int :=
  match m with
  | .idx => b.toNat
  | .xor => (l ^^^ b.toNat : Nat)
  | .up => (l : Int) - b.toNat
  | .dn => (l : Int) + b.toNat
/-- Whether it is a lane of E. -/
def xchOk (k : Ctx) (m : XMode) (l : Nat) (b : Word) : Bool :=
  decide (0 ≤ xchLane m l b) && k.e.getLsbD (xchLane m l b).toNat
/-- The value that a lane receives: one word, or a pair under .S64 and .Z64. -/
def xchWords (k : Ctx) (a b : Reg) (ty : Ty) (m : XMode) (l : Nat) : List Word :=
  let j := if xchOk k m l (B k b l) then (xchLane m l (B k b l)).toNat else l
  if ty = .s64 ∨ ty = .z64 then [k.opA a j 0, k.opA a j 1] else [k.opA a j 0]
/-- The value that MATCH compares. -/
def matchVal (k : Ctx) (a : Reg) (ty : Ty) (l : Nat) : DWord :=
  if ty = .s64 ∨ ty = .z64 then k.pairA a l else (A k a l).zeroExtend 64
/-- What REDUX answers for the values of the lanes of E (R105): a sum modulo 2^32, the least or greatest value under the
type, or a bitwise combination. -/
def reduxIs (op : RedOp) (ty : Ty) (vs : List Word) (v : Word) : Prop :=
  match op with
  | .add => v = vs.sum
  | .min => v ∈ vs ∧ ∀ x ∈ vs, ext ty v ≤ ext ty x
  | .max => v ∈ vs ∧ ∀ x ∈ vs, ext ty x ≤ ext ty v
  | .and => ∀ j < 32, v.getLsbD j = true ↔ ∀ x ∈ vs, x.getLsbD j = true
  | .or => ∀ j < 32, v.getLsbD j = true ↔ ∃ x ∈ vs, x.getLsbD j = true
  | .xor => ∀ j < 32, v.getLsbD j = decide ((vs.filter (fun x => x.getLsbD j)).length % 2 = 1)

/-! ### Floating point (07 R120 to R129) -/

/-- A computation on one element under .F32, on each of the two elements under a 16-bit type (R120). -/
def each1 (t : Ty) (f : Num.Fmt → Nat → Nat) (a : Word) : Word :=
  if t = .f32 then BitVec.ofNat 32 (f Num.f32 a.toNat)
  else BitVec.ofNat 32 (f (fmtOf t) (a.toNat % 65536) + 65536 * f (fmtOf t) (a.toNat / 65536))
def each2 (t : Ty) (f : Num.Fmt → Nat → Nat → Nat) (a b : Word) : Word :=
  if t = .f32 then BitVec.ofNat 32 (f Num.f32 a.toNat b.toNat)
  else BitVec.ofNat 32 (f (fmtOf t) (a.toNat % 65536) (b.toNat % 65536) + 65536 * f (fmtOf t) (a.toNat / 65536) (b.toNat / 65536))
def each3 (t : Ty) (f : Num.Fmt → Nat → Nat → Nat → Nat) (a b c : Word) : Word :=
  if t = .f32 then BitVec.ofNat 32 (f Num.f32 a.toNat b.toNat c.toNat)
  else BitVec.ofNat 32 (f (fmtOf t) (a.toNat % 65536) (b.toNat % 65536) (c.toNat % 65536) +
    65536 * f (fmtOf t) (a.toNat / 65536) (b.toNat / 65536) (c.toNat / 65536))
/-- The computations of R121 and R126 on one element: the exact result, rounded once. -/
def addE (rm : RM) (f : Num.Fmt) (x y : Nat) : Nat := f.addVal rm (f.val x) (f.val y)
def subE (rm : RM) (f : Num.Fmt) (x y : Nat) : Nat := f.addVal rm (f.val x) (f.val y).negate
def mulE (rm : RM) (f : Num.Fmt) (x y : Nat) : Nat := f.roundVal rm (Num.mulVal (f.val x) (f.val y))
def fmaE (rm : RM) (f : Num.Fmt) (x y z : Nat) : Nat := f.addVal rm (Num.mulVal (f.val x) (f.val y)) (f.val z)
/-- FMIN and FMAX of one element (R123): a NaN operand gives the other, two NaN or .NAN the canonical NaN; the smaller or
greater value, -0 below +0. -/
def minE (nan : Bool) (f : Num.Fmt) (x y : Nat) : Nat :=
  match (f.val x).isNan, (f.val y).isNan with
  | false, false => if Num.Val.below (f.val y) (f.val x) then y else x
  | a, b => if nan || (a && b) then f.nanCode else if a then y else x
def maxE (nan : Bool) (f : Num.Fmt) (x y : Nat) : Nat :=
  match (f.val x).isNan, (f.val y).isNan with
  | false, false => if Num.Val.below (f.val x) (f.val y) then y else x
  | a, b => if nan || (a && b) then f.nanCode else if a then y else x
def floats : Instr → Option (Dst × (Ctx → Nat → Word))
  | .faddF32B32 _ d a b => some (d, fun k l => each2 .f32 (addE .rn) (A k a l) (B k b l))
  | .faddBf16B32 _ d a b => some (d, fun k l => each2 .bf16 (addE .rn) (A k a l) (B k b l))
  | .faddF16B32 _ d a b => some (d, fun k l => each2 .f16 (addE .rn) (A k a l) (B k b l))
  | .faddX64 _ d a b ty rm => some (d, fun k l => each2 ty (addE rm) (A k a l) (B k b l))
  | .fsubF32B32 _ d a b => some (d, fun k l => each2 .f32 (subE .rn) (A k a l) (B k b l))
  | .fsubX64 _ d a b ty rm => some (d, fun k l => each2 ty (subE rm) (A k a l) (B k b l))
  | .fmulF32B32 _ d a b => some (d, fun k l => each2 .f32 (mulE .rn) (A k a l) (B k b l))
  | .fmulBf16B32 _ d a b => some (d, fun k l => each2 .bf16 (mulE .rn) (A k a l) (B k b l))
  | .fmulF16B32 _ d a b => some (d, fun k l => each2 .f16 (mulE .rn) (A k a l) (B k b l))
  | .fmulX64 _ d a b ty rm => some (d, fun k l => each2 ty (mulE rm) (A k a l) (B k b l))
  | .ffma _ d a b c ty rm => some (d, fun k l => each3 ty (fmaE rm) (A k a l) (B k b l) (C k c l))
  | .fminF32B32 _ d a b => some (d, fun k l => each2 .f32 (minE false) (A k a l) (B k b l))
  | .fminX64 _ d a b ty nan => some (d, fun k l => each2 ty (minE nan) (A k a l) (B k b l))
  | .fmaxF32B32 _ d a b => some (d, fun k l => each2 .f32 (maxE false) (A k a l) (B k b l))
  | .fmaxX64 _ d a b ty nan => some (d, fun k l => each2 ty (maxE nan) (A k a l) (B k b l))
  | .frcpF32B32 _ d a => some (d, fun k l => each1 .f32 (fun f x => f.rcp (f.val x)) (A k a l))
  | .frcpX64 _ d a ty => some (d, fun k l => each1 ty (fun f x => f.rcp (f.val x)) (A k a l))
  | .frsqF32B32 _ d a => some (d, fun k l => each1 .f32 (fun f x => f.rsq (f.val x)) (A k a l))
  | .frsqX64 _ d a ty => some (d, fun k l => each1 ty (fun f x => f.rsq (f.val x)) (A k a l))
  | .fsqrtF32B32 _ d a => some (d, fun k l => each1 .f32 (fun f x => f.sqrt (f.val x)) (A k a l))
  | .fsqrtX64 _ d a ty => some (d, fun k l => each1 ty (fun f x => f.sqrt (f.val x)) (A k a l))
  | .fexp2F32B32 _ d a => some (d, fun k l => each1 .f32 (fun f x => f.exp2 (f.val x)) (A k a l))
  | .fexp2X64 _ d a ty => some (d, fun k l => each1 ty (fun f x => f.exp2 (f.val x)) (A k a l))
  | .flog2F32B32 _ d a => some (d, fun k l => each1 .f32 (fun f x => f.log2 (f.val x)) (A k a l))
  | .flog2X64 _ d a ty => some (d, fun k l => each1 ty (fun f x => f.log2 (f.val x)) (A k a l))
  | .fclassF32B32 _ d a => some (d, fun k l => each1 .f32 classBit (A k a l))
  | .fclassX64 _ d a ty => some (d, fun k l => each1 ty classBit (A k a l))
  | .fdp2 _ d a b c ty rm => some (d, fun k l =>
      let f := fmtOf ty
      let p (x y : Nat) : Num.Val := Num.mulVal (f.val x) (f.val y)
      BitVec.ofNat 32 (Num.f32.sumVals rm [p ((A k a l).toNat % 65536) ((B k b l).toNat % 65536),
        p ((A k a l).toNat / 65536) ((B k b l).toNat / 65536), Num.f32.val (C k c l).toNat]))
  | _ => none
/-- Table 7.2, by the order of the operands: unordered when either is NaN. -/
def fcond (c : FCond) (o : Option Ordering) : Bool :=
  match c, o with
  | .eq, some .eq => true | .lt, some .lt => true | .gt, some .gt => true
  | .le, some .lt => true | .le, some .eq => true | .ge, some .gt => true | .ge, some .eq => true
  | .ne, some .lt => true | .ne, some .gt => true | .ne, none => true
  | .num, some _ => true | .nan, none => true
  | _, _ => false
/-- The elements of the A group, then of the B group, of a conversion. -/
def element (ws : List Word) (bits j : Nat) : Nat := natOfBytes (bytesOfWords ws) / 2 ^ (bits * j) % 2 ^ bits
/-- Element j of what CVT and CVTSR convert: the first half stands in A and the second in B where B is used. -/
def source (k : Ctx) (a b : Reg) (dt st : Ty) (l j : Nat) : Nat :=
  let n := cvtN dt st
  if cvtBRegs dt st = 0 ∨ j < n / 2 then element ((List.range (cvtSrcRegs dt st)).map (fun x => k.opA a l x)) st.bits j
  else element ((List.range (cvtBRegs dt st)).map (fun x => k.opB b l x)) st.bits (j - n / 2)

/-- An instruction at a path of a sheaf that runs, whatever lanes E has. -/
def Stands (i : Instr) (s : State) (cur : Cursor) (sh : Sheaf) (k : Ctx) : Prop :=
  s.cur = some cur ∧ s.sheaf? cur.sid = some sh ∧ k = ctxOf i cur sh s.clock ∧ sh.frozen = false

end Sys2Proof.Spec
open Sys2Proof Sys2Proof.Machine Sys2Proof.Safety

/-! ## The lane set -/

/-- 05 R92: IADD, ISUB, IABS, INEG, IMUL, IMULH, IMAD, IMIN and IMAX in every form write the value of R92 to D in the
lanes of E, and nothing else changes but the latches and program counters of the path. 05 R93: IADD64, IMADW and LEA write
the 64-bit value of R93 to the pair D. -/
def Obligations.ArithmeticResults : Prop :=
  (∀ i d f s k, Spec.arith i = some (d, f) → i.wf = true → Issues i s k →
     ∃ t, exec i s = .next t ∧ LaneResult i s t k d.reg (fun l => [f k l])) ∧
  (∀ i d f s k, Spec.arith64 i = some (d, f) → i.wf = true → Issues i s k →
     ∃ t, exec i s = .next t ∧ LaneResult i s t k d (fun l => Spec.pair (f k l)))

/-- 05 R94, R100: SHL, SHR, SHF, ROT and IDP4. 05 R95, R96: AND, OR, XOR, ANDN, TERN, BREV, BFX and BFI, bit by bit, and
the counts of POPC and CLZ. -/
def Obligations.ShiftAndBitResults : Prop :=
  (∀ i d f s k, Spec.shifts i = some (d, f) → i.wf = true → Issues i s k →
     ∃ t, exec i s = .next t ∧ LaneResult i s t k d.reg (fun l => [f k l])) ∧
  ((∀ i d f s k, Spec.bitsOf95 i = some (d, f) → i.wf = true → Issues i s k →
     ∃ t, ∃ v : Nat → Word, exec i s = .next t ∧ LaneResult i s t k d.reg (fun l => [v l]) ∧ ∀ l, ∀ j < 32, (v l).getLsbD j = f k l j) ∧
   (∀ i d f s k, Spec.countsOf95 i = some (d, f) → i.wf = true → Issues i s k →
     ∃ t, exec i s = .next t ∧ LaneResult i s t k d.reg (fun l => [BitVec.ofNat 32 (f k l)])))

/-- 05 R97 to R99: ICMP and the predicate operations of PLOG write one predicate in the lanes of E; SEL, MOV, MOVI and
PLOG.PACK write a register (CHDEPTH too, 08 R148); PLOG.UNPACK writes all seven predicates. -/
def Obligations.PredicateAndMoveResults : Prop :=
  (∀ i p f s k, Spec.preds i = some (p, f) → i.wf = true → Issues i s k →
    ∃ t, exec i s = .next t ∧ PredResult i s t k p.val (f k)) ∧
  (∀ i d f s k, Spec.moves i = some (d, f) → i.wf = true → Issues i s k →
    ∃ t, exec i s = .next t ∧ LaneResult i s t k d.reg (fun l => [f k l])) ∧
  (∀ g a s k, Issues (.plog g (.unpack a)) s k →
    ∃ t, exec (.plog g (.unpack a)) s = .next t ∧
      LanesOnly (.plog g (.unpack a)) s t k
        (fun l x => if k.e.getLsbD l then { x with preds := (Spec.A k a l).setWidth 7 } else x) (fun _ x => shifted k none x))

/-- 05 R101, R102: XCH reads lane j of E, exact; a lane whose source is outside E keeps its own A, and .P says which. 05
R103 to R105: VOTE, MATCH and REDUX act among the lanes of E. -/
def Obligations.CrossLaneResults : Prop :=
  (∀ g d a b ty m ok s k, (Instr.xch g d a b ty m ok).wf = true → Issues (.xch g d a b ty m ok) s k →
     ∃ t sh, exec (.xch g d a b ty m ok) s = .next t ∧ t = withSheaf (.xch g d a b ty m ok) s k sh ∧
       { sh with lanes := k.sh.lanes, regs := k.sh.regs, replay := k.sh.replay } = k.sh ∧
       RegsAfter k sh d.reg (Spec.xchWords k a b ty m) ∧
       LanesAfter k sh
         (fun l x => match ok with
           | some p => if k.e.getLsbD l then { x with preds := setPredBit x.preds p.val (Spec.xchOk k m l (Spec.B k b l)) } else x
           | none => x)
         (fun l x => shifted k (if k.e.getLsbD l then some ((Spec.xchWords k a b ty m l).headD 0) else none) x)) ∧
  ((∀ g p a neg s k, Issues (.vote g (.any p) a neg) s k →
     ∃ t, exec (.vote g (.any p) a neg) s = .next t ∧
       PredResult (.vote g (.any p) a neg) s t k p.val (fun _ => (lanesOf k.e).any (fun l => xor (Spec.pred k l a) neg))) ∧
   (∀ g p a neg s k, Issues (.vote g (.all p) a neg) s k →
     ∃ t, exec (.vote g (.all p) a neg) s = .next t ∧
       PredResult (.vote g (.all p) a neg) s t k p.val (fun _ => (lanesOf k.e).all (fun l => xor (Spec.pred k l a) neg))) ∧
   (∀ g d a neg s k, (Instr.vote g (.bal d) a neg).wf = true → Issues (.vote g (.bal d) a neg) s k →
     ∃ t v, exec (.vote g (.bal d) a neg) s = .next t ∧ LaneResult (.vote g (.bal d) a neg) s t k d (fun _ => Spec.pair v) ∧
       ∀ l < 64, v.getLsbD l = (k.e.getLsbD l && xor (Spec.pred k l a) neg)) ∧
   (∀ g d a ty all s k, (Instr.match g d a ty all).wf = true → Issues (.match g d a ty all) s k →
     ∃ t, ∃ v : Nat → DWord, exec (.match g d a ty all) s = .next t ∧ LaneResult (.match g d a ty all) s t k d (fun l => Spec.pair (v l)) ∧
       ∀ l, k.e.getLsbD l = true → ∀ j < 64, (v l).getLsbD j =
         if all then k.e.getLsbD j && (lanesOf k.e).all (fun x => Spec.matchVal k a ty x == Spec.matchVal k a ty l)
         else k.e.getLsbD j && (Spec.matchVal k a ty j == Spec.matchVal k a ty l)) ∧
   (∀ g d a ty op s k, (Instr.redux g d a ty op).wf = true → Issues (.redux g d a ty op) s k →
     ∃ t v, exec (.redux g d a ty op) s = .next t ∧ LaneResult (.redux g d a ty op) s t k d.reg (fun _ => [v]) ∧
       Spec.reduxIs op ty ((lanesOf k.e).map (fun l => Spec.A k a l)) v))

/-- 07 R120 to R126: the lane floating-point instructions, on one element or on each of two: sums, products and FMA are the
exact results rounded once; the others are the functions of the model's number formats, named as they are. 07 R124:
FCMP compares one element of each operand and combines as ICMP does. -/
def Obligations.FloatResults : Prop :=
  (∀ i d f s k, Spec.floats i = some (d, f) → i.wf = true → Issues i s k →
     ∃ t, exec i s = .next t ∧ LaneResult i s t k d.reg (fun l => [f k l])) ∧
  (∀ g d a b ty c x hi s k, (Instr.fcmp g d a b ty c x hi).wf = true → Issues (.fcmp g d a b ty c x hi) s k →
     ∃ t, exec (.fcmp g d a b ty c x hi) s = .next t ∧
       PredResult (.fcmp g d a b ty c x hi) s t k d.val (fun l =>
         let v (w : Word) : Num.Val := if ty = .f32 then Num.f32.val w.toNat
           else (fmtOf ty).val (if hi then w.toNat / 65536 else w.toNat % 65536)
         Spec.combined x (Spec.fcond c (Num.Val.compare (v (Spec.A k a l)) (v (Spec.B k b l)))) (Spec.pred k l)))

/-- 07 R127 to R129: CVT and CVTSR write every converted element, the first at the low end of the group D. -/
def Obligations.ConversionResults : Prop :=
  (∀ g d a b dt st rm s k, (Instr.cvt g d a b dt st rm).wf = true → Issues (.cvt g d a b dt st rm) s k →
    ∃ t ws, exec (.cvt g d a b dt st rm) s = .next t ∧ LaneResult (.cvt g d a b dt st rm) s t k d.reg ws ∧
      ∀ l, (ws l).length = cvtDstRegs dt st ∧
        ∀ j < cvtN dt st, Spec.element (ws l) dt.bits j = cvtElem dt st rm (Spec.source k a b dt st l j)) ∧
  (∀ g d a b c dt st s k, (Instr.cvtsr g d a b c dt st).wf = true → Issues (.cvtsr g d a b c dt st) s k →
    ∃ t ws, exec (.cvtsr g d a b c dt st) s = .next t ∧ LaneResult (.cvtsr g d a b c dt st) s t k d.reg ws ∧
      ∀ l, (ws l).length = cvtDstRegs dt st ∧
        ∀ j < cvtN dt st, Spec.element (ws l) dt.bits j = stochElem dt st
          (Spec.element ((List.range (cvtsrCRegs dt st)).map (fun x => k.opC c l x)) 16 j) (Spec.source k a b dt st l j))

/-! ## Control and masks -/

/-- 04 R75: BRA sends the lanes of E to the address of its first byte plus 4 times the offset; the others fall through,
all of them where E is empty. -/
def Obligations.BranchTargets : Prop :=
  (∀ g off s k, Issues (.braB32 g off) s k → ∃ t, exec (.braB32 g off) s = .next t ∧
    LanesOnly (.braB32 g off) s t k (fun _ x => x) (fun l x =>
      if k.e.getLsbD l then jumped (k.pc + BitVec.ofInt 64 (4 * off.toInt)) x else shifted k none x)) ∧
  (∀ g imm s k, Issues (.braI64 g imm) s k → ∃ t, exec (.braI64 g imm) s = .next t ∧
    LanesOnly (.braI64 g imm) s t k (fun _ x => x) (fun l x =>
      if k.e.getLsbD l then jumped (k.pc + BitVec.ofInt 64 (4 * imm.toInt)) x else shifted k none x)) ∧
  (∀ i g off imm s cur sh k, (i = .braB32 g off ∨ i = .braI64 g imm) → Spec.Stands i s cur sh k → k.e = 0 →
    ∃ t, exec i s = .next t ∧ LanesOnly i s t k (fun _ x => x) (fun _ x => goesOn i k x))

/-- 04 R76 to R78, 02 R29: BRX, RET, CALL and CALLX where every target is aligned: each lane of E goes to its own target,
and the link is the address of the first byte plus 8. 02 R29: a target of BRX, RET or CALLX that is not a multiple of 4 in
some lane of E raises ALIGN in those lanes, and the instruction has no effect. -/
def Obligations.CallsAndReturns : Prop :=
  ((∀ i g a s k, (i = .brx g a ∨ i = .retB32 g a ∨ i = .retX64 g a) → Issues i s k →
     (∀ l, k.e.getLsbD l = true → (k.pairA a l).toNat % 4 = 0) → ∃ t, exec i s = .next t ∧
     LanesOnly i s t k (fun _ x => x) (fun l x => if k.e.getLsbD l then jumped (k.pairA a l) x else shifted k none x)) ∧
   (∀ g d a s k, (Instr.callx g d a).wf = true → Issues (.callx g d a) s k →
     (∀ l, k.e.getLsbD l = true → (k.pairA a l).toNat % 4 = 0) → ∃ t sh, exec (.callx g d a) s = .next t ∧
     t = withSheaf (.callx g d a) s k sh ∧
     { sh with lanes := k.sh.lanes, regs := k.sh.regs, replay := k.sh.replay } = k.sh ∧
     RegsAfter k sh d (fun _ => Spec.pair (k.pc + 8)) ∧
     LanesAfter k sh (fun _ x => x) (fun l x => if k.e.getLsbD l then jumped (k.pairA a l) x else shifted k none x)) ∧
   (∀ g d imm s k, (Instr.call g d imm).wf = true → Issues (.call g d imm) s k → ∃ t sh, exec (.call g d imm) s = .next t ∧
     t = withSheaf (.call g d imm) s k sh ∧
     { sh with lanes := k.sh.lanes, regs := k.sh.regs, replay := k.sh.replay } = k.sh ∧
     RegsAfter k sh d (fun _ => Spec.pair (k.pc + 8)) ∧
     LanesAfter k sh (fun _ x => x) (fun l x =>
       if k.e.getLsbD l then jumped (k.pc + BitVec.ofInt 64 (4 * imm.toInt)) x else shifted k none x))) ∧
  (∀ i g d a s k, (i = .brx g a ∨ i = .retB32 g a ∨ i = .retX64 g a ∨ i = .callx g d a) → Issues i s k →
     (∃ l, k.e.getLsbD l = true ∧ (k.pairA a l).toNat % 4 ≠ 0) →
     ∃ tr, exec i s = .next (s.takeTrap k.sid tr none) ∧ tr.code = 4 ∧ tr.pc = k.pc ∧ tr.path = k.path ∧
       ∀ l < 64, tr.lanes.getLsbD l = (k.e.getLsbD l && decide ((k.pairA a l).toNat % 4 ≠ 0)))

/-- 04 R81: NOP moves the lanes of E to the next instruction and has no other effect. -/
def Obligations.NopEffect : Prop :=
  ∀ i g s k, (i = .nopB32 g ∨ i = .nopX64 g) → Issues i s k →
    ∃ t, exec i s = .next t ∧ LanesOnly i s t k (fun _ x => x) (fun _ x => shifted k none x)

/-- 04 R79, 08 R149: EXIT completes in every state where it issues: it ends the lanes of E, discards their chaff
entries, and ends no other lane. 04 R80: YIELD completes in every state where it issues: the path goes on and the
sheaf is marked to be passed over in the next cycle. -/
def Obligations.ExitAndYield : Prop :=
  (∀ i g s k, (i = .exitB32 g ∨ i = .exitX64 g) → Issues i s k →
    ∃ t, exec i s = .next t ∧ LanesOnly i s t k
      (fun l x => if k.e.getLsbD l then { x with exited := true, hold := .none, depth := 0, chip := [] } else x)
      (fun _ x => shifted k none x)) ∧
  (∀ i g s k, (i = .yieldB32 g ∨ i = .yieldX64 g) → Issues i s k →
    ∃ t sh, exec i s = .next t ∧ t = withSheaf i s k sh ∧ sh.yielded = true ∧
      { sh with lanes := k.sh.lanes, replay := k.sh.replay, yielded := k.sh.yielded } = k.sh ∧
      LanesAfter k sh (fun _ x => x) (fun _ x => shifted k none x))

/-- 04 R68: MKCUR writes the lanes of E into a mask, every other bit cleared; where E is empty it writes nothing. -/
def Obligations.MaskOfCurrent : Prop :=
  (∀ i g m s k, (i = .mkcurB32 g m ∨ i = .mkcurX64 g m) → Issues i s k →
    ∃ t, exec i s = .next t ∧ MaskResult i s t k m k.e (fun _ x => shifted k none x)) ∧
  (∀ i g m s cur sh k, (i = .mkcurB32 g m ∨ i = .mkcurX64 g m) → Spec.Stands i s cur sh k → k.e = 0 →
    ∃ t, exec i s = .next t ∧ LanesOnly i s t k (fun _ x => x) (fun _ x => goesOn i k x))

/-- 04 R69, R70, R72: LEAVE removes the lanes of E from a mask; MKLOG combines masks as Table 4.2 says; STOMK writes a
mask from the lowest lane of E, MKTOS a pair from a mask. -/
def Obligations.MaskOperations : Prop :=
  (∀ i g m s k, (i = .leaveB32 g m ∨ i = .leaveX64 g m) → Issues i s k →
    ∃ t, exec i s = .next t ∧ MaskResult i s t k m (k.sh.mask m &&& ~~~k.e) (fun _ x => shifted k none x)) ∧
  (∀ g d x s k, Issues (.mklog g d x) s k →
    ∃ t v, exec (.mklog g d x) s = .next t ∧ MaskResult (.mklog g d x) s t k d v (fun _ x => shifted k none x) ∧
      ∀ l < k.sh.width, l < 64 → v.getLsbD l =
        match x with
        | .and a b => (k.sh.mask a).getLsbD l && (k.sh.mask b).getLsbD l
        | .or a b => (k.sh.mask a).getLsbD l || (k.sh.mask b).getLsbD l
        | .andn a b => (k.sh.mask a).getLsbD l && !(k.sh.mask b).getLsbD l
        | .xor a b => xor ((k.sh.mask a).getLsbD l) ((k.sh.mask b).getLsbD l)
        | .mov a => (k.sh.mask a).getLsbD l
        | .clr => false
        | .not a => !(k.sh.mask a).getLsbD l) ∧
  (∀ g m a s k, Issues (.stomk g m a) s k →
    ∃ t j, exec (.stomk g m a) s = .next t ∧ k.e.getLsbD j = true ∧ (∀ l < j, k.e.getLsbD l = false) ∧
      MaskResult (.stomk g m a) s t k m (k.pairA a j) (fun _ x => shifted k none x)) ∧
  (∀ g d m s k, (Instr.mktos g d m).wf = true → Issues (.mktos g d m) s k →
    ∃ t, exec (.mktos g d m) s = .next t ∧ LaneResult (.mktos g d m) s t k d (fun _ => Spec.pair (k.sh.mask m)))

/-- 04 R71, R73: JOIN and WAITM hold the lanes of E that are in the mask at the instruction; the others pass. -/
def Obligations.HeldLanes : Prop :=
  (∀ i g m s k, (i = .joinB32 g m ∨ i = .joinX64 g m) → Issues i s k →
    ∃ t, exec i s = .next t ∧ LanesOnly i s t k
      (fun l x => if (k.e &&& k.sh.mask m).getLsbD l then { x with hold := .join m k.pc k.len, joinAt := k.pc } else x)
      (fun l x => if (k.e &&& k.sh.mask m).getLsbD l then shiftedAt x.pc none x else shifted k none x)) ∧
  (∀ g m s k, Issues (.waitm g m) s k →
    ∃ t, exec (.waitm g m) s = .next t ∧ LanesOnly (.waitm g m) s t k
      (fun l x => if (k.e &&& k.sh.mask m).getLsbD l then { x with hold := .waitm m } else x)
      (fun l x => if (k.e &&& k.sh.mask m).getLsbD l then shiftedAt x.pc none x else shifted k none x))

namespace Sys2Proof.Spec

open Sys2Proof Sys2Proof.Machine Sys2Proof.Safety

/-! ### The uniform set (06 R106 to R118) -/

/-- Words of the uniform operands. -/
abbrev SA (k : Ctx) (a : SReg) : Word := k.opA a.reg 0 0
abbrev SB (k : Ctx) (b : SReg) : Word := k.opB b.reg 0 0
abbrev SC (k : Ctx) (c : SReg) : Word := k.opC c.reg 0 0
/-- A uniform source predicate. -/
def qpred (k : Ctx) (p : Pred) : Bool :=
  match p with
  | .p n => k.sh.q.getLsbD n.val
  | .t => true
/-- The 32-bit results of R112 and R113: as the lane-set instruction of the same name without its leading S. -/
def uniform : Instr → Option (SReg × (Ctx → Word))
  | .saddB32 _ d a b => some (d, fun k => fit .s32 false (ext .s32 (SA k a) + ext .s32 (SB k b)))
  | .saddX64 _ d a b ty sat => some (d, fun k => fit ty sat (ext ty (SA k a) + ext ty (SB k b)))
  | .saddI64 _ d a imm => some (d, fun k => fit .s32 false (ext .s32 (SA k a) + imm.toInt))
  | .ssubB32 _ d a b => some (d, fun k => fit .s32 false (ext .s32 (SA k a) - ext .s32 (SB k b)))
  | .ssubX64 _ d a b ty sat => some (d, fun k => fit ty sat (ext ty (SA k a) - ext ty (SB k b)))
  | .smulB32 _ d a b => some (d, fun k => BitVec.ofNat 32 ((SA k a).toNat * (SB k b).toNat))
  | .smulX64 _ d a b _ => some (d, fun k => BitVec.ofNat 32 ((SA k a).toNat * (SB k b).toNat))
  | .smulI64 _ d a imm => some (d, fun k => BitVec.ofNat 32 ((SA k a).toNat * imm.toNat))
  | .smad _ d a b c _ => some (d, fun k => BitVec.ofNat 32 ((SA k a).toNat * (SB k b).toNat + (SC k c).toNat))
  | .sshlB32 _ d a b => some (d, fun k => left (SA k a) (count false (SB k b)))
  | .sshlX64 _ d a b _ wrap => some (d, fun k => left (SA k a) (count wrap (SB k b)))
  | .sshlI64 _ d a n => some (d, fun k => left (SA k a) n.val)
  | .sshrZ32B32 _ d a b => some (d, fun k => right .z32 (SA k a) (count false (SB k b)))
  | .sshrS32B32 _ d a b => some (d, fun k => right .s32 (SA k a) (count false (SB k b)))
  | .sshrX64 _ d a b ty wrap => some (d, fun k => right ty (SA k a) (count wrap (SB k b)))
  | .sshrI64 _ d a ty n => some (d, fun k => right ty (SA k a) n.val)
  | .sandB32 _ d a b => some (d, fun k => SA k a &&& SB k b)
  | .sandX64 _ d a b _ => some (d, fun k => SA k a &&& SB k b)
  | .sandI64 _ d a imm => some (d, fun k => SA k a &&& imm)
  | .sorB32 _ d a b => some (d, fun k => SA k a ||| SB k b)
  | .sorX64 _ d a b _ => some (d, fun k => SA k a ||| SB k b)
  | .sorI64 _ d a imm => some (d, fun k => SA k a ||| imm)
  | .sxorB32 _ d a b => some (d, fun k => SA k a ^^^ SB k b)
  | .sxorX64 _ d a b _ => some (d, fun k => SA k a ^^^ SB k b)
  | .sxorI64 _ d a imm => some (d, fun k => SA k a ^^^ imm)
  | .sminS32B32 _ d a b => some (d, fun k => BitVec.ofInt 32 (min (ext .s32 (SA k a)) (ext .s32 (SB k b))))
  | .sminZ32B32 _ d a b => some (d, fun k => BitVec.ofInt 32 (min (ext .z32 (SA k a)) (ext .z32 (SB k b))))
  | .sminX64 _ d a b ty => some (d, fun k => BitVec.ofInt 32 (min (ext ty (SA k a)) (ext ty (SB k b))))
  | .sminI64 _ d a imm => some (d, fun k => BitVec.ofInt 32 (min (ext .s32 (SA k a)) (ext .s32 imm)))
  | .smaxS32B32 _ d a b => some (d, fun k => BitVec.ofInt 32 (max (ext .s32 (SA k a)) (ext .s32 (SB k b))))
  | .smaxZ32B32 _ d a b => some (d, fun k => BitVec.ofInt 32 (max (ext .z32 (SA k a)) (ext .z32 (SB k b))))
  | .smaxX64 _ d a b ty => some (d, fun k => BitVec.ofInt 32 (max (ext ty (SA k a)) (ext ty (SB k b))))
  | .smaxI64 _ d a imm => some (d, fun k => BitVec.ofInt 32 (max (ext .s32 (SA k a)) (ext .s32 imm)))
  | .smovB32 _ d a => some (d, fun k => SA k a)
  | .smovX64 _ d a _ => some (d, fun k => SA k a)
  | .smovi _ d imm => some (d, fun _ => imm)
  | .spopcB32 _ d a => some (d, fun k => BitVec.ofNat 32 ((List.range 32).filter (fun j => (SA k a).getLsbD j)).length)
  | .spopcX64 _ d a _ => some (d, fun k => BitVec.ofNat 32 ((List.range 32).filter (fun j => (SA k a).getLsbD j)).length)
  | .ssel _ d a b c _ neg => some (d, fun k => if xor (qpred k c) neg then SA k a else SB k b)
  | .lanerdB32 _ d a b => some (d, fun k => if (SB k b).toNat < k.sh.width then k.sh.readReg a (SB k b).toNat 0 else 0)
  | .lanerdX64 _ d a b _ => some (d, fun k => if (SB k b).toNat < k.sh.width then k.sh.readReg a (SB k b).toNat 0 else 0)
  | _ => none
/-- The pairs of R112. -/
def uniform64 : Instr → Option (SReg × (Ctx → DWord))
  | .sadd64B32 _ d a b => some (d, fun k => k.pairA a.reg 0 + k.pairB b.reg 0)
  | .sadd64X64 _ d a b _ => some (d, fun k => k.pairA a.reg 0 + k.pairB b.reg 0)
  | .sleaX64 _ d a b ty sh => some (d, fun k => BitVec.ofInt 64 ((k.pairA a.reg 0).toNat + ext ty (SB k b) * 2 ^ sh.val))
  | .sleaI64 _ d a imm => some (d, fun k => BitVec.ofInt 64 ((k.pairA a.reg 0).toNat + imm.toInt))
  | _ => none

end Sys2Proof.Spec

/-! ## The uniform set -/

/-- 06 R112 to R114: the arithmetic, logic, select and move instructions of the uniform set, and LANERD, write the value
of their rule to the uniform register or pair D once for the path; nothing else changes but the path's program counters.
06 R113, R114: SCMP writes one uniform predicate; LANEWR writes D in the lane that B numbers, where that lane is one of
the path. -/
def Obligations.UniformResults : Prop :=
  ((∀ i d f s k, Spec.uniform i = some (d, f) → i.wf = true → Issues i s k →
     ∃ t, exec i s = .next t ∧ UniResult i s t k d [f k]) ∧
   (∀ i d f s k, Spec.uniform64 i = some (d, f) → i.wf = true → Issues i s k →
     ∃ t, exec i s = .next t ∧ UniResult i s t k d (Spec.pair (f k)))) ∧
  ((∀ g d a b ty c x s k, (Instr.scmp g d a b ty c x).wf = true → Issues (.scmp g d a b ty c x) s k →
     ∃ t sh, exec (.scmp g d a b ty c x) s = .next t ∧ t = withSheaf (.scmp g d a b ty c x) s k sh ∧
       { sh with lanes := k.sh.lanes, replay := k.sh.replay, q := k.sh.q } = k.sh ∧
       (open Classical in sh.q = setPredBit k.sh.q d.val
         (Spec.combined x (decide (Spec.cond c (Spec.ext ty (Spec.SA k a)) (Spec.ext ty (Spec.SB k b)))) (Spec.qpred k))) ∧
       LanesAfter k sh (fun _ y => y) (fun _ y => passed k y)) ∧
   (∀ i g d a b ty s k, (i = .lanewrB32 g d a b ∨ i = .lanewrX64 g d a b ty) → i.wf = true → Issues i s k →
     ∃ t sh, exec i s = .next t ∧ t = withSheaf i s k sh ∧
       { sh with lanes := k.sh.lanes, replay := k.sh.replay, regs := k.sh.regs } = k.sh ∧
       (∀ r l, l < 64 → sh.vreg r l =
         match d with
         | .v n => if r = n.val ∧ l = (Spec.SB k b).toNat ∧ l < k.sh.width ∧ k.path.getLsbD l = true then Spec.SA k a
             else k.sh.vreg r l
         | _ => k.sh.vreg r l) ∧
       LanesAfter k sh (fun _ y => y) (fun _ y => passed k y)))

namespace Sys2Proof.Spec

open Sys2Proof Sys2Proof.Machine Sys2Proof.Safety

/-! ### Translated accesses (12 R213 to R230, 16 R285) -/

/-- The translated access of a lane: the lane (64 for the whole sheaf), its virtual and its physical address, the address
of its leaf entry, its home die, and whether its page is cached at the home only. -/
abbrev Xa := Nat × DWord × Nat × Nat × Nat × Bool
/-- Every access reaches device memory whose home die answers, in a page that L1s cache (12 R213). -/
def Local (s : State) (xs : List Xa) : Prop :=
  ∀ x ∈ xs, x.2.2.1 < 2 ^ 51 ∧ x.2.2.2.2.2 = false ∧ s.dieWaits x.2.2.2.2.1 = false
/-- The sheaf has nothing in flight and no open phase, its barn gathers nothing and evicts nothing, no watch descriptor and
no merge buffer is in use; and where the instruction releases, nothing is owed. -/
structure Idle (s : State) (k : Ctx) (rel : Bool) : Prop where
  flights : k.sh.flights = []
  phases : k.sh.phases = []
  watch : k.sh.watch = []
  spurious : k.sh.spurious = 0
  gather : (s.barn (barnOf k.sh.core)).gather = []
  evict : (s.barn (barnOf k.sh.core)).evict = []
  merge : ∀ st, s.stookOf k.sh = some st → st.merge = []
  owes : rel = true → s.owes k.sid (k.e ||| k.path) = false
  failed : rel = true → ∀ l < 64, (k.sh.lane l).failed = []
/-- Every address is a multiple of n. -/
def Aligned (as : List (Nat × DWord)) (n : Nat) : Prop := ∀ x ∈ as, x.2.toNat % n = 0
/-- What a store's translation is followed by: no write range refuses it, and no buffer takes it (18 R308, R315). -/
def Admitted (s : State) (k : Ctx) (xs : List Xa) (n : Nat) : Prop :=
  ∀ st c, s.stookOf k.sh = some st → s.cropOf st = some c →
    (∀ x ∈ xs, st.storeRefused c x.2.1.toNat n = false) ∧ (c.det && recMerge c.record && !st.trapStook) = false
/-- The barn's L1 can take the stores at once (12 R219, R224, R226): the host holds no half of them, the lines of every set
fit its 8 ways, and where whole 8-byte pairs are written the barn owns both words of each or neither. -/
structure Roomy (s : State) (b : Nat) (xs : List Xa) (n : Nat) : Prop where
  host : ∀ x ∈ xs, s.hostHolds x.2.2.1 = false
  ways : ∀ x ∈ xs, ((((s.barn b).linesOf ++ xs.map (fun (y : Xa) => y.2.2.1 / 128)).eraseDups).filter (fun l =>
    Machine.setOf l == Machine.setOf (x.2.2.1 / 128))).length ≤ 8
  pairs : 8 ≤ n → ∀ x ∈ xs, ∀ wa, x.2.2.1 / 4 ≤ wa → wa < (x.2.2.1 + n) / 4 → wa % 2 = 0 →
    (((s.barn b).words.find? wa).map (·.owned)).getD false = (((s.barn b).words.find? (wa + 1)).map (·.owned)).getD false
/-- No word of the accesses stands in a phase at the barn (12 R230). -/
def NoPhase (s : State) (b : Nat) (xs : List Xa) (n : Nat) : Prop :=
  ∀ x ∈ xs, ∀ wa ∈ wordsOf x.2.2.1 n, ∀ w, (s.barn b).words.find? wa = some w → w.phase = []
/-- Byte a of a barn's L1 where it holds the word, with the bits that say it was written by the barn. -/
def l1Byte (b : Barn) (a : Nat) (v : Byte) : Prop :=
  ∃ w, b.words.find? (a / 4) = some w ∧ w.owned = true ∧ w.written.getLsbD (a % 4) = true ∧ wordByte w.bytes (a % 4) = v
/-- No barn's record names a word of the bytes. -/
def Unowned (s : State) (pa n : Nat) : Prop := ∀ wa ∈ wordsOf pa n, s.ownerOf wa = none
/-- The marks of a write by a context, in its leaf entry and its dirty bitmap (16 R285), lie in other lines, in words that
nobody owns; the context's entry is the cached one. -/
def MarksElsewhere (s : State) (ctx pte pa line : Nat) : Prop :=
  (pte ≠ 0 → (s.place pte).canon / 128 ≠ line ∧ s.ownerOf ((s.place pte).canon / 4) = none) ∧
  ∃ e, s.trans.ctxCache.find? ctx = some e ∧ ∀ off, s.place pa = .loc off → fieldNat e 8 8 / 4096 ≠ 0 →
    (let m := (s.place (fieldNat e 8 8 / 4096 * 4096 + off / 65536 / 8)).canon
     m / 128 ≠ line ∧ s.ownerOf (m / 4) = none)

/-! ### The chaff stack (08 R133 to R148) -/

/-- A value of binary32. -/
abbrev V (x : Word) : Num.Val := Num.f32.val x.toNat
/-- The exact sum of two finite values less a third, and the exact product less a third. -/
def sumLess (a b c : Num.Val) : Num.Dy := (a.dy.add b.dy).add c.dy.neg
def productLess (a b c : Num.Val) : Num.Dy := (a.dy.mul b.dy).add c.dy.neg
/-- An entry: the residual where every condition holds, else the operand itself. -/
def entry (ok : Bool) (res save : Byte) (r a : Word) : ChEntry := if ok then ⟨res, r⟩ else ⟨save, a⟩
/-- What RADD pushes for a, b and its result s (R142). -/
def sumEntry (a b s : Word) : ChEntry :=
  let r := sumLess (V a) (V b) (V s)
  entry ((V a).isFin && (V b).isFin && (V s).isFin && exactIn Num.f32 r) 0x20 0x30 (residual Num.f32 (V a).neg r) a
/-- What RMUL.F32 pushes (R143). -/
def productEntry (a b p : Word) : ChEntry :=
  let r := productLess (V a) (V b) (V p)
  entry ((V a).isFin && (V b).isFin && (V p).isFin && !(V b).isZero && exactIn Num.f32 r) 0x40 0x50 (residual Num.f32 (V a).neg r) a
/-- The exact signed product of RMUL.S32. -/
def wide (a b : Word) : Int := a.toInt * b.toInt
/-- What each reversible instruction writes to D, and pushes, in a lane. -/
def pushes : Instr → Option (Option Dst × (Ctx → Nat → Word × ChEntry))
  | .raddF32B32 _ d a b => some (some d, fun k l =>
      let c := each2 .f32 (addE .rn) (A k a l) (B k b l); (c, sumEntry (A k a l) (B k b l) c))
  | .raddX64 _ d a b rm => some (some d, fun k l =>
      let c := each2 .f32 (addE rm) (A k a l) (B k b l); (c, sumEntry (A k a l) (B k b l) c))
  | .rmulF32B32 _ d a b => some (some d, fun k l =>
      let c := each2 .f32 (mulE .rn) (A k a l) (B k b l); (c, productEntry (A k a l) (B k b l) c))
  | .rmulS32B32 _ d a b => some (some d, fun k l =>
      (BitVec.ofInt 32 (wide (A k a l) (B k b l)),
       entry (B k b l != 0) 0x41 0x51 (BitVec.ofInt 32 (wide (A k a l) (B k b l) / 2 ^ 32)) (A k a l)))
  | .rmulX64 _ d a b ty rm => some (some d, fun k l =>
      if ty = .s32 then
        (BitVec.ofInt 32 (wide (A k a l) (B k b l)),
         entry (B k b l != 0) 0x41 0x51 (BitVec.ofInt 32 (wide (A k a l) (B k b l) / 2 ^ 32)) (A k a l))
      else let c := each2 .f32 (mulE rm) (A k a l) (B k b l); (c, productEntry (A k a l) (B k b l) c))
  | .rcvt _ d a b dt st rm => some (some d, fun k l => rcvt dt st rm (A k a l) (B k b l))
  | .rreluF32B32 _ d a => some (some d, fun k l =>
      if (V (A k a l)).isNan then (0x7FC00000, ⟨0x90, A k a l⟩)
      else if Num.Val.below (V (A k a l)) (V 0) && !(V (A k a l)).isZero then (0, ⟨0x90, A k a l⟩)
      else (A k a l, ⟨0x80, 0⟩))
  | .rreluX64 _ d a => some (some d, fun k l =>
      if (V (A k a l)).isNan then (0x7FC00000, ⟨0x90, A k a l⟩)
      else if Num.Val.below (V (A k a l)) (V 0) && !(V (A k a l)).isZero then (0, ⟨0x90, A k a l⟩)
      else (A k a l, ⟨0x80, 0⟩))
  | .rshr _ d a b ty => some (some d, fun k l =>
      (right ty (A k a l) (B k b l).toNat,
       if (B k b l).toNat < 32 then ⟨if ty = .s32 then 0xA1 else 0xA0, BitVec.ofNat 32 ((A k a l).toNat % 2 ^ (B k b l).toNat)⟩
       else ⟨if ty = .s32 then 0xB1 else 0xB0, A k a l⟩))
  | .chpush _ a => some (none, fun k l => (0, ⟨0xC0, A k a l⟩))
  | _ => none
/-- The tags that a popping instruction accepts: residual or KEEP, and SAVE (Table 8.2). -/
def pairOfTags : Instr → Byte × Byte
  | .unaddF32B32 .. => (0x20, 0x30)
  | .unaddX64 .. => (0x20, 0x30)
  | .unmulF32B32 .. => (0x40, 0x50)
  | .unmulS32B32 .. => (0x41, 0x51)
  | .unmulX64 _ _ _ _ ty => if ty = .s32 then (0x41, 0x51) else (0x40, 0x50)
  | .uncvt _ _ _ _ dt st => (BitVec.ofNat 8 (0x60 + Machine.rcvtPair dt st), BitVec.ofNat 8 (0x70 + Machine.rcvtPair dt st))
  | .unreluF32B32 .. => (0x80, 0x90)
  | .unreluX64 .. => (0x80, 0x90)
  | .unshr _ _ _ _ ty => if ty = .s32 then (0xA1, 0xB1) else (0xA0, 0xB0)
  | _ => (0xC0, 0xC0)
/-- What an undo partner rebuilds from a residual with payload p and its operands (R142 to R146). -/
def undo : Instr → Option (Dst × (Ctx → Nat → Word → Word))
  | .unaddF32B32 _ d a b => some (d, fun k l p => unsum (A k a l) (B k b l) p)
  | .unaddX64 _ d a b => some (d, fun k l p => unsum (A k a l) (B k b l) p)
  | .unmulF32B32 _ d a b => some (d, fun k l p => unmulF ⟨0x40, p⟩ (A k a l) (B k b l))
  | .unmulS32B32 _ d a b => some (d, fun k l p => unproduct (A k a l) (B k b l) p)
  | .unmulX64 _ d a b ty => some (d, fun k l p =>
      if ty = .s32 then unproduct (A k a l) (B k b l) p else unmulF ⟨0x40, p⟩ (A k a l) (B k b l))
  | .uncvt _ d a b dt st => some (d, fun k l p => uncvt dt st ⟨0x60, p⟩ (A k a l) (B k b l))
  | .unreluF32B32 _ d a => some (d, fun k l _ => A k a l)
  | .unreluX64 _ d a => some (d, fun k l _ => A k a l)
  | .unshr _ d a b _ => some (d, fun k l p =>
      if 32 ≤ (B k b l).toNat then p
      else BitVec.ofNat 32 ((A k a l).toNat * 2 ^ (B k b l).toNat % 2 ^ 32 ||| p.toNat % 2 ^ (B k b l).toNat))
  | .chpop _ d => some (d, fun _ _ p => p)
  | _ => none
where
  unsum (a b p : Word) : Word :=
    if (V a).isFin && (V b).isFin && (V p).isFin then
      BitVec.ofNat 32 (Num.f32.roundDy .rn (V p).neg (sumLess (V a) (V p) (V b)))
    else 0x7FC00000
  unproduct (a b p : Word) : Word :=
    if b = 0 then 0 else BitVec.ofInt 32 ((p.toInt * 2 ^ 32 + a.toNat).tdiv b.toInt)
/-- The low bits that a SAVE entry of UNCVT gives; another's payload is a whole register. -/
def saved (i : Instr) (p : Word) : Word :=
  match i with
  | .uncvt _ _ _ _ _ st => BitVec.ofNat 32 (p.toNat % 2 ^ st.bits)
  | _ => p

/-- The record of an entry at a position: payload, tag, SEQ (Table 8.3). -/
def record (x : ChEntry) (pos : Nat) : List Byte := bytesOf 4 x.payload.toNat ++ [x.tag] ++ bytesOf 3 pos
/-- The positions that a pop reads in a lane with no entry on chip: the topmost eight, downwards (R139). -/
def refilled (x : Lane) : List Nat := if x.chip = [] then (List.range (min 8 x.depth)).map (fun j => x.depth - 1 - j) else []
/-- The entries on chip when the pop takes place, where `rec` gives the records read. -/
def onChip (rec : Nat → List Byte) (x : Lane) : List ChEntry :=
  if x.chip = [] then (refilled x).map (fun p => ⟨(rec p).getD 4 0, BitVec.ofNat 32 (natOfBytes ((rec p).take 4))⟩) else x.chip

/-! ### Bins (09 R155 to R168) -/

/-- A loaded value of n bytes, as the registers of the group D hold it. -/
def loaded (sx : Bool) (n v : Nat) : List Word :=
  if n < 4 then [BitVec.ofInt 32 (if sx ∧ 2 ^ (8 * n - 1) ≤ v then (v : Int) - 2 ^ (8 * n) else v)]
  else (List.range (n / 4)).map (fun j => BitVec.ofNat 32 (v / 2 ^ (32 * j)))
/-- The address of a lane of a bin instruction (R159). -/
def binAddr (k : Ctx) (a : Reg) (off : BitVec 15) (l : Nat) : Nat := (A k a l + BitVec.ofInt 32 off.toInt).toNat
/-- Every lane of E has an aligned address, whose bytes the stook `(p l).1` holds from offset `(p l).2` on (R155, R160). -/
def BinsAt (s : State) (k : Ctx) (b : BinId) (a : Reg) (off : BitVec 15) (n : Nat) (p : Nat → Nat × Nat) : Prop :=
  ∃ st, s.stookOf k.sh = some st ∧ ∀ l, k.e.getLsbD l = true →
    binAddr k a off l % n = 0 ∧ (s.stook? (p l).1).isSome ∧ s.binPlace st k.sh.uid b (binAddr k a off l) n = some (p l)
/-- The number that n bytes of a bin hold. -/
def binNat (s : State) (b : BinId) (x : Nat × Nat) (n : Nat) : Nat :=
  match s.stook? x.1 with
  | some st => natOfBytes (memRead (st.bin b) x.2 n)
  | none => 0
def binLoads : Instr → Option (BinId × Reg × Reg × Size × BitVec 15 × Bool)
  | .lda _ d a size off => some (.a, d, a, size, off, false)
  | .ldaSigned _ d a size off => some (.a, d, a, size, off, true)
  | .ldw _ d a size off => some (.w, d, a, size, off, false)
  | .ldwSigned _ d a size off => some (.w, d, a, size, off, true)
  | .ldc _ d a size off => some (.c, d, a, size, off, false)
  | .ldcSigned _ d a size off => some (.c, d, a, size, off, true)
  | _ => none
def binStores : Instr → Option (BinId × Reg × Reg × Size × BitVec 15)
  | .sta _ a b size off => some (.a, a, b, size, off)
  | .stw _ a b size off => some (.w, a, b, size, off)
  | .stc _ a b size off => some (.c, a, b, size, off)
  | _ => none
/-- The bytes of a group of lane l, least significant first. -/
def groupByte (k : Ctx) (b : Reg) (l j : Nat) : Byte := (k.opB b l (j / 4)).extractLsb' (8 * (j % 4)) 8
/-- Nothing differs but how long the lane ports of bins are occupied (R152). -/
def PortsOnly (s v : State) : Prop :=
  { v with cores := s.cores } = s ∧ ∀ c, { v.core c with ports := (s.core c).ports } = s.core c
/-- No lane port of an A-bin is occupied. -/
def PortsFree (s : State) : Prop := ∀ c, (s.core c).ports.getD (BinId.code .a) 0 ≤ s.clock
/-- Nothing differs but the bins of stooks, their lane ports and the readiness of waits on barriers. -/
structure BinsOnly (s u : State) : Prop where
  rest : { u with stooks := s.stooks, sheaves := s.sheaves, cores := s.cores } = s
  cores : ∀ c, { u.core c with ports := (s.core c).ports } = s.core c
  none_ : ∀ x, s.stook? x = none → u.stook? x = none
  stooks : ∀ x st, s.stook? x = some st → ∃ st', u.stook? x = some st' ∧
    { st' with binW := st.binW, binA := st.binA, binC := st.binC } = st
  sheaves : ∀ x sh, s.sheaf? x = some sh → ∃ sh', u.sheaf? x = some sh' ∧ { sh' with flights := sh.flights } = sh ∧
    sh'.flights.map (fun f => { f with ready := 0 }) = sh.flights.map (fun f => { f with ready := 0 })
/-- A byte of a stook's bin; 0 where there is no such stook. -/
def binByte (s : State) (b : BinId) (x o : Nat) : Byte :=
  match s.stook? x with
  | some st => memByte (st.bin b) o
  | none => 0
/-- The lanes of E at one place, ascending. -/
def lanesAt (k : Ctx) (p : Nat → Nat × Nat) (x : Nat × Nat) : List Nat := (lanesOf k.e).filter (fun l => p l == x)
/-- Nothing that a release of the issuing lanes would wait for or report (12 R218, R223). -/
structure Quiet (s : State) (k : Ctx) : Prop where
  flights : k.sh.flights = []
  owes : s.owes k.sid (k.e ||| k.path) = false
  gather : (s.barn (barnOf k.sh.core)).gather = []
  failed : ∀ l < 64, (k.sh.lane l).failed = []
/-- A barrier word: its phase, the arrivals of its round, the arrivals expected (R165). -/
structure Barrier where
  phase : Nat
  arrived : Nat
  expect : Nat
def barrierAt (s : State) (x : Nat × Nat) : Barrier :=
  ⟨binNat s .a (x.1, x.2 + 4) 1 % 2, binNat s .a (x.1, x.2 + 2) 2, binNat s .a (x.1, x.2) 2⟩
/-- The eight bytes of a barrier word. -/
def Barrier.nat (w : Barrier) : Nat := w.expect + 2 ^ 16 * w.arrived + 2 ^ 32 * w.phase
/-- The lanes after an acquire at a scope of the lanes of a set: their pending classes are cleared (14 R249). -/
def Acquired (sh : Sheaf) (m : LaneSet) (x : Nat) (y : Lane) : Prop :=
  y = if m.getLsbD x then { sh.lane x with pend := .sh } else sh.lane x

end Sys2Proof.Spec
open Sys2Proof Sys2Proof.Machine Sys2Proof.Safety

/-! ## Quantisation and the chaff stack -/

/-- 07 R130 to R132: DQUANT writes a row copy and then a column copy of the tile into bins: block r of each holds the 32
quantised elements of its row or column at offset 32 r, and its scale at offset 1024 + r; where the ranges overlap the
column copy's bytes remain; nothing else differs. -/
def Obligations.BlockQuantisation : Prop :=
  ∀ g a b c hi rowA colA s k st ro co, (Instr.dquant g a b c hi rowA colA).wf = true →
    Issues (.dquant g a b c hi rowA colA) s k → s.stookOf k.sh = some st →
    (Spec.SB k b).toNat % 32 = 0 → (Spec.SC k c).toNat % 32 = 0 →
    (Spec.SB k b).toNat < 2 ^ 24 → (Spec.SC k c).toNat < 2 ^ 24 →
    s.binPlace st k.sh.uid (if rowA then .a else .w) (Spec.SB k b).toNat 1056 = some (k.sh.uid, ro) →
    s.binPlace st k.sh.uid (if colA then .a else .w) (Spec.SC k c).toNat 1056 = some (k.sh.uid, co) →
    ∃ u, Leaves (.dquant g a b c hi rowA colA) k s u ∧ Spec.BinsOnly s u ∧
      (let x (r c : Nat) : Num.Val :=
        let j := (if hi then 32 else 0) + r
        if j < 64 ∧ k.e.getLsbD j = true then
          Num.bf16.val ((k.sh.vreg (a.val + c / 2) j).toNat / 2 ^ (16 * (c % 2)) % 65536)
        else .fin false 0 0
      let copy (f : Nat → Nat → Num.Val) (o : Nat) : Nat :=
        if o < 1024 then (Num.mxQuantise Num.e4m3 8 ((List.range 32).map (f (o / 32)))).2.getD (o % 32) 0
        else (Num.mxQuantise Num.e4m3 8 ((List.range 32).map (f (o - 1024)))).1
      ∀ bin y o, Spec.binByte u bin y o =
        if y = k.sh.uid ∧ bin = (if colA then .a else .w) ∧ co ≤ o ∧ o < co + 1056 then
          BitVec.ofNat 8 (copy (fun r c => x c r) (o - co))
        else if y = k.sh.uid ∧ bin = (if rowA then .a else .w) ∧ ro ≤ o ∧ o < ro + 1056 then BitVec.ofNat 8 (copy x (o - ro))
        else Spec.binByte s bin y o)

/-- 08 R141 to R146, R148: a reversible instruction and CHPUSH, in lanes whose stacks have room and hold fewer than
sixteen entries on chip: D receives the result and exactly one entry goes on top of each lane of E; nothing else differs
but the latches and program counters of the path. 08 R141 to R148: an undo partner and CHPOP, in lanes whose top entries
are on chip and carry an accepted tag: exactly one entry leaves each lane of E, and D receives what a SAVE entry holds or
what the residual rebuilds. CHDROP discards the counted entries of each lane, on chip or not. 08 R137 to R139, R147: a push in a
lane of sixteen entries first writes the eight oldest, as records at their positions, into the barn's L1; a pop in a lane with
none on chip first reads its topmost eight records, here from the L1, and takes the top one. -/
def Obligations.ChaffPushesAndPops : Prop :=
  (∀ i d f s k, Spec.pushes i = some (d, f) → i.wf = true → Issues i s k →
     (∀ l, k.e.getLsbD l = true → (k.sh.lane l).depth < s.chCapacity k.sh l ∧ (k.sh.lane l).chip.length < 16) →
     ∃ t sh, exec i s = .next t ∧ t = withSheaf i s k sh ∧
       { sh with lanes := k.sh.lanes, regs := k.sh.regs, replay := k.sh.replay } = k.sh ∧
       RegsAfter k sh ((d.map Dst.reg).getD .z) (fun l => [(f k l).1]) ∧
       LanesAfter k sh
         (fun l x => if k.e.getLsbD l then { x with depth := x.depth + 1, chip := (f k l).2 :: x.chip } else x)
         (fun l x => shifted k (if k.e.getLsbD l && d.isSome then some (f k l).1 else none) x)) ∧
  ((∀ i d f s k, Spec.undo i = some (d, f) → i.wf = true → Issues i s k →
     (∀ l, k.e.getLsbD l = true → ∃ x r, (k.sh.lane l).chip = x :: r ∧ 0 < (k.sh.lane l).depth ∧
       (x.tag = (Spec.pairOfTags i).1 ∨ x.tag = (Spec.pairOfTags i).2)) →
     ∃ t sh, ∃ v : Nat → Word, exec i s = .next t ∧ t = withSheaf i s k sh ∧
       { sh with lanes := k.sh.lanes, regs := k.sh.regs, replay := k.sh.replay } = k.sh ∧
       RegsAfter k sh d.reg (fun l => [v l]) ∧
       (∀ l x r, k.e.getLsbD l = true → (k.sh.lane l).chip = x :: r →
         v l = if x.tag = (Spec.pairOfTags i).1 then f k l x.payload else Spec.saved i x.payload) ∧
       LanesAfter k sh (fun l x => if k.e.getLsbD l then { x with depth := x.depth - 1, chip := x.chip.tail } else x)
         (fun l x => shifted k (if k.e.getLsbD l then some (v l) else none) x)) ∧
   (∀ g a s k, Issues (.chdrop g a) s k →
     (∀ l, k.e.getLsbD l = true → (Spec.A k a l).toNat ≤ (k.sh.lane l).depth) →
     ∃ t, exec (.chdrop g a) s = .next t ∧ LanesOnly (.chdrop g a) s t k
       (fun l x => if k.e.getLsbD l then
         { x with depth := x.depth - (Spec.A k a l).toNat, chip := x.chip.drop (Spec.A k a l).toNat } else x)
       (fun _ x => shifted k none x))) ∧
  (∀ i d f s k xs s1, Spec.pushes i = some (d, f) → i.wf = true → Issues i s k →
     (∀ l, k.e.getLsbD l = true → (k.sh.lane l).depth < s.chCapacity k.sh l) →
     s.xlateLanes (some k.sh.core) k.ctx .write ((spills k).map (fun x => (x.1, s.chAddr k.sh x.1 x.2.1))) = (.ok xs, s1) →
     s1.waits = [] → Spec.Idle s1 k false → Spec.Local s1 xs → Spec.Roomy s1 (barnOf k.sh.core) xs 8 →
     xs.Pairwise (fun x y => x.2.2.1 ≠ y.2.2.1) →
     (∀ x ∈ xs, x.2.2.1 % 8 = 0 ∧ ∀ y ∈ xs, Spec.MarksElsewhere s1 k.ctx x.2.2.2.1 x.2.2.1 (y.2.2.1 / 128)) →
     ∃ t sh, exec i s = .next t ∧ t.sheaf? k.sid = some sh ∧ (∀ x, x ≠ k.sid → t.sheaf? x = s1.sheaf? x) ∧
       { sh with lanes := k.sh.lanes, regs := k.sh.regs, replay := k.sh.replay } = k.sh ∧
       RegsAfter k sh ((d.map Dst.reg).getD .z) (fun l => [(f k l).1]) ∧
       LanesAfter k sh
         (fun l x => if k.e.getLsbD l then
           { x with depth := x.depth + 1
                    chip := (f k l).2 :: (if x.chip.length < 16 then x.chip else x.chip.take (x.chip.length - 8)) } else x)
         (fun l x => shifted k (if k.e.getLsbD l && d.isSome then some (f k l).1 else none) x) ∧
       ∀ l, k.e.getLsbD l = true → 16 ≤ (k.sh.lane l).chip.length → ∀ j < 8,
         (let pos := (k.sh.lane l).depth - (k.sh.lane l).chip.length + j
          ∃ x ∈ xs, x.1 = l ∧ x.2.1 = s.chAddr k.sh l pos ∧ ∀ n < 8, Spec.l1Byte (t.barn (barnOf k.sh.core)) (x.2.2.1 + n)
            ((Spec.record ((k.sh.lane l).chip.getD ((k.sh.lane l).chip.length - 1 - j) ⟨0, 0⟩) pos).getD n 0))) ∧
  (∀ i d f s k xs s1 ps, ∀ rec : Nat → Nat → List Byte, Spec.undo i = some (d, f) → i.wf = true → Issues i s k → k.replay = none →
     (∀ l, k.e.getLsbD l = true → 0 < (k.sh.lane l).depth) →
     ps = (lanesOf k.e).flatMap (fun l => (Spec.refilled (k.sh.lane l)).map (fun p => (l, p))) → ps ≠ [] →
     s.xlateLanes (some k.sh.core) k.ctx .read (ps.map (fun x => (x.1, s.chAddr k.sh x.1 x.2))) = (.ok xs, s1) →
     Spec.Local s1 xs → Spec.Idle s1 k false →
     (∀ x ∈ xs.zip ps, ((s1.barn (barnOf k.sh.core)).hit x.1.2.2.1 8 false).map (·.1) = some (rec x.2.1 x.2.2)) →
     (∀ x ∈ ps, (rec x.1 x.2).length = 8 ∧ natOfBytes ((rec x.1 x.2).drop 5) = x.2 % 2 ^ 24) →
     (∀ l, k.e.getLsbD l = true → ∃ x r, Spec.onChip (rec l) (k.sh.lane l) = x :: r ∧
       (x.tag = (Spec.pairOfTags i).1 ∨ x.tag = (Spec.pairOfTags i).2)) →
     ∃ t sh, ∃ v : Nat → Word, exec i s = .next t ∧ t.sheaf? k.sid = some sh ∧ t.mem = s1.mem ∧
       { sh with lanes := k.sh.lanes, regs := k.sh.regs } = k.sh ∧ RegsAfter k sh d.reg (fun l => [v l]) ∧
       (∀ l x r, k.e.getLsbD l = true → Spec.onChip (rec l) (k.sh.lane l) = x :: r →
         v l = if x.tag = (Spec.pairOfTags i).1 then f k l x.payload else Spec.saved i x.payload) ∧
       ∀ l < 64, { sh.lane l with pend := (k.sh.lane l).pend } =
         (let x := k.sh.lane l
          let y : Lane := if k.e.getLsbD l then { x with depth := x.depth - 1, chip := (Spec.onChip (rec l) x).tail } else x
          if k.path.getLsbD l then shifted k (if k.e.getLsbD l then some (v l) else none) y else y))

/-- 08 R141: where a partner's A is the reversible instruction's result, its B the same second operand and its entry the
one pushed, it gives the operand back bit for bit, for every operand, signed zeros, subnormals and NaNs included, in every
rounding mode; for RCVT of each pair of Table 8.4 the operand is the low bits of the register. -/
def Obligations.ExactRecovery : Prop :=
  (∀ rm a b, unadd (radd rm a b).2 (radd rm a b).1 b = a) ∧
  (∀ rm a b, unmulF (rmulF rm a b).2 (rmulF rm a b).1 b = a) ∧
  (∀ a b, unmulS (rmulS a b).2 (rmulS a b).1 b = a) ∧
  (∀ dt st rm a b, (Sys2Proof.rcvtPair dt st).isSome →
    uncvt dt st (rcvt dt st rm a b).2 (rcvt dt st rm a b).1 b = BitVec.ofNat 32 (a.toNat % 2 ^ st.bits)) ∧
  (∀ a, unrelu (rrelu a).2 (rrelu a).1 = a) ∧
  (∀ t a b, unshr (rshr t a b).2 (rshr t a b).1 b = a)

/-- 08 R138, R147, R148: a push without room raises CHFULL in the lanes that lack it; a pop from an empty lane raises
CHEMPTY in those lanes, before any tag is looked at; a pop of on-chip entries of which one has a tag it does not accept
raises CHORD in the lanes that hold such; CHDROP of more than a lane holds raises CHEMPTY in those lanes. No lane pushes
or pops: the trap's entry is the whole effect. -/
def Obligations.ChaffTraps : Prop :=
  (∀ i d f s k m, Spec.pushes i = some (d, f) → Issues i s k →
    (∀ l < 64, m.getLsbD l = (k.e.getLsbD l && decide (s.chCapacity k.sh l ≤ (k.sh.lane l).depth))) → m ≠ 0 →
    Traps i k s .chfull m 0) ∧
  (∀ i d f s k m, Spec.undo i = some (d, f) → Issues i s k →
    (∀ l < 64, m.getLsbD l = (k.e.getLsbD l && decide ((k.sh.lane l).depth = 0))) → m ≠ 0 → Traps i k s .chempty m 0) ∧
  (∀ i d f s k m, Spec.undo i = some (d, f) → Issues i s k →
    (∀ l, k.e.getLsbD l = true → (k.sh.lane l).chip ≠ [] ∧ (k.sh.lane l).depth ≠ 0) →
    (∀ l < 64, m.getLsbD l = (k.e.getLsbD l &&
      decide (((k.sh.lane l).chip.map (·.tag)).head? ≠ some (Spec.pairOfTags i).1) &&
      decide (((k.sh.lane l).chip.map (·.tag)).head? ≠ some (Spec.pairOfTags i).2))) → m ≠ 0 → Traps i k s .chord m 0) ∧
  (∀ g a s k m, Issues (.chdrop g a) s k →
    (∀ l < 64, m.getLsbD l = (k.e.getLsbD l && decide ((k.sh.lane l).depth < (Spec.A k a l).toNat))) → m ≠ 0 →
    Traps (.chdrop g a) k s .chempty m 0)

/-! ## Bins -/

/-- 09 R159: a bin load gives each lane of E the bytes of its range, little-endian, extended by zero or by sign below 32
bits, in the registers of the group D; nothing else differs but the latches and program counters of the path and the bin's
lane ports. 09 R159: a bin store writes the low bytes of the group B of each lane of E to the lane's range of the bin; where
lanes write one byte the highest lane's remains; no other byte of any bin changes. -/
def Obligations.BinLoadsAndStores : Prop :=
  (∀ i b d a size off sx s k p, Spec.binLoads i = some (b, d, a, size, off, sx) → i.wf = true → Issues i s k →
     Spec.BinsAt s k b a off size.bytes p →
     ∃ t v sh, exec i s = .next t ∧ t = withSheaf i v k sh ∧ Spec.PortsOnly s v ∧
       { sh with lanes := k.sh.lanes, regs := k.sh.regs, replay := k.sh.replay } = k.sh ∧
       RegsAfter k sh d (fun l => Spec.loaded sx size.bytes (Spec.binNat s b (p l) size.bytes)) ∧
       LanesAfter k sh (fun _ x => x) (fun _ x => shifted k none x)) ∧
  (∀ i b a dat size off s k p, Spec.binStores i = some (b, a, dat, size, off) → i.wf = true → Issues i s k →
     Spec.BinsAt s k b a off size.bytes p →
     ∃ u, Leaves i k s u ∧ Spec.BinsOnly s u ∧ (b ≠ .a → u.sheaves = s.sheaves) ∧
       (∀ l o, k.e.getLsbD l = true → (p l).2 ≤ o → o < (p l).2 + size.bytes →
         (∀ j, l < j → k.e.getLsbD j = true → (p j).1 = (p l).1 → ¬((p j).2 ≤ o ∧ o < (p j).2 + size.bytes)) →
         Spec.binByte u b (p l).1 o = Spec.groupByte k dat l (o - (p l).2)) ∧
       (∀ bin x o, (bin = b → ∀ l, k.e.getLsbD l = true → (p l).1 = x → ¬((p l).2 ≤ o ∧ o < (p l).2 + size.bytes)) →
         Spec.binByte u bin x o = Spec.binByte s bin x o))

/-- 09 R161, R162: AATOM, its order met at once and its lane ports free where it is ordered: each lane of E receives the
value that its word would have held had the lanes applied their operations one at a time in ascending order, each word is
left with the value after the last, and no other byte of a bin changes; an acquire clears the pending classes of the lanes
of E. -/
def Obligations.BinAtomics : Prop :=
  ∀ g op d a b size scope order off s k p, (Instr.aatom g op d a b size scope order off).wf = true →
    Issues (.aatom g op d a b size scope order off) s k → Spec.BinsAt s k .a a off size.bytes p →
    (releases order = true → Spec.Quiet s k) → (acquires order = true → k.sh.flights = []) →
    (releases order = true ∨ acquires order = true → Spec.PortsFree s) →
    ∃ u shu, Leaves (.aatom g op d a b size scope order off) k s u ∧ u.sheaf? k.sid = some shu ∧ u.mem = s.mem ∧
      (let v (l : Nat) : Nat := (Spec.B k b l).toNat + (if size = .b64 then (k.opB b l 1).toNat * 2 ^ 32 else 0)
       let chain (x : Nat × Nat) (ls : List Nat) : Nat :=
         ls.foldl (fun w j => op.apply (8 * size.bytes) w (v j)) (Spec.binNat s .a x size.bytes)
       RegsAfter k shu d (fun l => Spec.loaded false size.bytes (chain (p l) ((Spec.lanesAt k p (p l)).filter (· < l)))) ∧
       (∀ l, k.e.getLsbD l = true → Spec.binNat u .a (p l) size.bytes = chain (p l) (Spec.lanesAt k p (p l)))) ∧
      (∀ bin x o, (bin = .a → ∀ l, k.e.getLsbD l = true → (p l).1 = x → ¬((p l).2 ≤ o ∧ o < (p l).2 + size.bytes)) →
        Spec.binByte u bin x o = Spec.binByte s bin x o) ∧
      (∀ l < 64, Spec.Acquired k.sh (if acquires order then k.e else 0) l (shu.lane l))

/-- 09 R165, R166: FBINIT sets each word's phase and arrivals to 0 and its expected count to the lowest lane's B, at most
65535; FBTEST writes whether the word's phase is bit 0 of B, and acquires at .ST in the lanes that match. 09 R166 to R168:
FBARR, released at once with its lane ports free, adds its arrivals to each word (the number of its lanes there, or the
lowest lane's B where B is not z), ends the round where the expected count is reached, and gives each lane the phase that
ends its round; FBWAIT lets the lanes whose word is in the awaited phase go on with an acquire at .ST, and holds the
others. -/
def Obligations.BinBarriers : Prop :=
  ((∀ g a b s k p, Issues (.fbinit g a b) s k → Spec.BinsAt s k .a a 0 8 p →
     ∃ u, Leaves (.fbinit g a b) k s u ∧ Spec.BinsOnly s u ∧
       (∀ l, k.e.getLsbD l = true → ∀ j, (Spec.lanesAt k p (p l)).head? = some j →
         Spec.binNat u .a (p l) 8 = (Spec.Barrier.mk 0 0 (min (Spec.B k b j).toNat 65535)).nat) ∧
       (∀ bin x o, (bin = .a → ∀ l, k.e.getLsbD l = true → (p l).1 = x → ¬((p l).2 ≤ o ∧ o < (p l).2 + 8)) →
         Spec.binByte u bin x o = Spec.binByte s bin x o)) ∧
   (∀ g d a b s k p, Issues (.fbtest g d a b) s k → Spec.BinsAt s k .a a 0 8 p →
     ∃ u shu, Leaves (.fbtest g d a b) k s u ∧ u.sheaf? k.sid = some shu ∧ u.mem = s.mem ∧ u.stooks = s.stooks ∧
       { shu with lanes := k.sh.lanes } = k.sh ∧
       ∀ l < 64,
         let hit := decide ((Spec.barrierAt s (p l)).phase = (Spec.B k b l).toNat % 2)
         shu.lane l = if k.e.getLsbD l then
             { k.sh.lane l with preds := setPredBit (k.sh.lane l).preds d.val hit
                                pend := if hit then .sh else (k.sh.lane l).pend }
           else k.sh.lane l)) ∧
  ((∀ g d a b s k p, (Instr.fbarr g d a b).wf = true → Issues (.fbarr g d a b) s k → Spec.BinsAt s k .a a 0 8 p →
     Spec.Quiet s k → Spec.PortsFree s →
     ∃ u shu, Leaves (.fbarr g d a b) k s u ∧ u.sheaf? k.sid = some shu ∧ u.mem = s.mem ∧
       RegsAfter k shu d (fun l => [BitVec.ofNat 32 (1 - (Spec.barrierAt s (p l)).phase)]) ∧
       (∀ l, k.e.getLsbD l = true → ∀ j, (Spec.lanesAt k p (p l)).head? = some j →
         let w := Spec.barrierAt s (p l)
         let n := w.arrived + (if b = .z then (Spec.lanesAt k p (p l)).length else (Spec.B k b j).toNat)
         Spec.binNat u .a (p l) 8 =
           (if w.expect ≤ n then Spec.Barrier.mk (1 - w.phase) 0 w.expect else Spec.Barrier.mk w.phase n w.expect).nat) ∧
       (∀ bin x o, (bin = .a → ∀ l, k.e.getLsbD l = true → (p l).1 = x → ¬((p l).2 ≤ o ∧ o < (p l).2 + 8)) →
         Spec.binByte u bin x o = Spec.binByte s bin x o)) ∧
   (∀ g a b s k p m, Issues (.fbwait g a b) s k → Spec.BinsAt s k .a a 0 8 p →
     (∀ l < 64, m.getLsbD l = (k.e.getLsbD l && decide ((Spec.barrierAt s (p l)).phase ≠ (Spec.B k b l).toNat % 2))) →
     ∃ u shu, LeavesBut (.fbwait g a b) k s u (if k.replay.isNone then m else 0) ∧ u.sheaf? k.sid = some shu ∧
       u.mem = s.mem ∧ u.stooks = s.stooks ∧ shu.regs = k.sh.regs ∧
       (if m = 0 then shu.flights = k.sh.flights
        else ∃ f, shu.flights = k.sh.flights ++ [f] ∧ f.path = m ∧ f.e = m ∧ f.stage = .waiting) ∧
       ∀ l < 64, Spec.Acquired k.sh (k.e &&& ~~~m) l (shu.lane l)))

namespace Sys2Proof.Spec

open Sys2Proof Sys2Proof.Machine Sys2Proof.Safety

/-! ### Global memory (12 R226 to R231, 13 R232 to R243, 14 R251) -/

/-- The data of an atomic's lane: its operand, and for CAS the value to store. -/
def atomStep : Instr → Option (Reg × Reg × Size × GOff × (Ctx → Nat → Nat → Nat))
  | .atom _ op _ a b size _ _ off => some (a, b, size, off, fun k l w =>
      op.apply (8 * size.bytes) w (operand k b size l 0))
  | .red _ op a b size _ _ off => some (a, b, size, off, fun k l w =>
      op.apply (8 * size.bytes) w (operand k b size l 0))
  | .cas _ _ a b size _ _ off => some (a, b, size, off, fun k l w =>
      if w = operand k b size l 0 then operand k b size l size.regs else w)
  | _ => none
where
  operand (k : Ctx) (b : Reg) (size : Size) (l j : Nat) : Nat :=
    (List.range size.regs).foldl (fun v x => v + (k.opB b l (j + x)).toNat * 2 ^ (32 * x)) 0
/-- The register that an atomic writes. -/
def atomDst : Instr → Reg
  | .atom _ _ d .. => d
  | .cas _ d .. => d
  | _ => .z
/-- The address of a lane of an atomic. -/
def atomAddrs (k : Ctx) (a : Reg) (o : BitVec 15) : List (Nat × DWord) :=
  (lanesOf k.e).map (fun l => (l, k.pairA a l + BitVec.ofInt 64 o.toInt))
/-- The lanes of E whose access is at a physical address, ascending. -/
def lanesOn (xs : List Xa) (pa : Nat) : List Nat := (xs.filter (fun x => x.2.2.1 == pa)).map (·.1)
/-- Words that INVR and INVA never drop at a scope (R228). -/
def kept (sc : Scope) (e : Nat × L1Word) : Bool :=
  e.2.owned || e.2.phase != [] ||
  match sc with
  | .sh | .st | .bn => true
  | .di | .pk => decide (2 ^ 51 ≤ 4 * e.1 ∧ 4 * e.1 < 3 * 2 ^ 50)
  | .sy => false
/-- Nothing differs but the words that one barn's L1 holds. -/
def WordsOnly (b : Nat) (s u : State) : Prop :=
  { u with barns := s.barns } = s ∧ (∀ x, x ≠ b → u.barn x = s.barn x) ∧ { u.barn b with words := (s.barn b).words } = s.barn b

end Sys2Proof.Spec
open Sys2Proof Sys2Proof.Machine Sys2Proof.Safety

/-! ## Global memory -/

/-- 12 R213, R226: a load of which the barn's L1 holds every byte completes at once: D receives the bytes, little-endian,
extended below 32 bits; the uniform form writes its uniform group once. The bytes are those of the L1 after translation;
no byte of memory at the homes changes. -/
def Obligations.LoadsThatHit : Prop :=
  (∀ i g d a size scope acq off sx s k xs s1, (i = .ldg g d a size scope acq off ∧ sx = false ∨
      i = .ldgSigned g d a size scope acq off ∧ sx = true) → i.wf = true → Issues i s k →
    Spec.Aligned (laneAddrs k a off) size.bytes →
    s.xlateLanes (some k.sh.core) k.ctx .read (laneAddrs k a off) = (.ok xs, s1) →
    Spec.Local s1 xs → Spec.Idle s1 k false →
    (∀ x ∈ xs, ((s1.barn (barnOf k.sh.core)).hit x.2.2.1 size.bytes acq).isSome) →
    ∃ u shu, ∃ v : Nat → List Byte, Leaves i k s u ∧ u.sheaf? k.sid = some shu ∧ u.mem = s1.mem ∧
      { shu with lanes := k.sh.lanes, regs := k.sh.regs } = k.sh ∧
      RegsAfter k shu d (fun l => Spec.loaded sx size.bytes (natOfBytes (v l))) ∧
      ∀ x ∈ xs, ((s1.barn (barnOf k.sh.core)).hit x.2.2.1 size.bytes acq).map (·.1) = some (v x.1)) ∧
  (∀ g d a size scope acq off sx s k xs s1, (Instr.ldgU g sx d a size scope acq off).wf = true →
    Issues (.ldgU g sx d a size scope acq off) s k → Spec.Aligned (uniAddr k a off) size.bytes →
    s.xlateLanes (some k.sh.core) k.ctx .read (uniAddr k a off) = (.ok xs, s1) →
    Spec.Local s1 xs → Spec.Idle s1 k false →
    (∀ x ∈ xs, ((s1.barn (barnOf k.sh.core)).hit x.2.2.1 size.bytes acq).isSome) →
    ∃ u shu v, Leaves (.ldgU g sx d a size scope acq off) k s u ∧ u.sheaf? k.sid = some shu ∧ u.mem = s1.mem ∧
      { shu with lanes := k.sh.lanes, s := k.sh.s } = k.sh ∧
      (∀ r, shu.sreg r = match d with
        | .s n => if n.val ≤ r ∧ r < n.val + size.regs then
            (Spec.loaded sx size.bytes (natOfBytes v)).getD (r - n.val) 0 else k.sh.sreg r
        | .z => k.sh.sreg r) ∧
      ∀ x ∈ xs, ((s1.barn (barnOf k.sh.core)).hit x.2.2.1 size.bytes acq).map (·.1) = some v)

/-- 12 R210, R226: a store of device memory, released at once where it releases and with room in the L1, goes into the
barn's L1: each stored byte is there, written, in a word that the barn owns, the highest lane's where lanes write one byte;
no other word of the L1 and no byte of memory at the homes changes; the first word of each access that the barn did not own
has its registration under way, with the second word of its 8-byte pair where the access writes both, in one message
(log 43). -/
def Obligations.StoresIntoL1 : Prop :=
  ∀ i as dat size rel s k xs s1,
    ((∃ g a b scope off, i = .stg g a b size scope rel off ∧ as = laneAddrs k a off ∧
        dat = fun l j => Spec.groupByte k b l j) ∨
     (∃ g a b scope off, i = .stgU g a b size scope rel off ∧ as = uniAddr k a off ∧
        dat = fun _ j => Spec.groupByte k b.reg 0 j)) → i.wf = true → Issues i s k →
    Spec.Aligned as size.bytes →
    s.xlateLanes (some k.sh.core) k.ctx .write as = (.ok xs, s1) →
    Spec.Local s1 xs → Spec.Idle s1 k rel → Spec.Admitted s1 k xs size.bytes →
    Spec.Roomy s1 (barnOf k.sh.core) xs size.bytes →
    ∃ u, Leaves i k s u ∧ u.mem = s1.mem ∧
      (∀ x ∈ xs, ∀ j < size.bytes,
        (∀ y ∈ xs, x.1 < y.1 → ¬(y.2.2.1 ≤ x.2.2.1 + j ∧ x.2.2.1 + j < y.2.2.1 + size.bytes)) →
        Spec.l1Byte (u.barn (barnOf k.sh.core)) (x.2.2.1 + j) (dat x.1 j)) ∧
      (∀ wa, (∀ x ∈ xs, ¬(x.2.2.1 / 4 ≤ wa ∧ wa ≤ (x.2.2.1 + size.bytes - 1) / 4)) →
        (u.barn (barnOf k.sh.core)).words.find? wa = (s1.barn (barnOf k.sh.core)).words.find? wa) ∧
      (∀ x ∈ xs, (∀ w, (s1.barn (barnOf k.sh.core)).words.find? (x.2.2.1 / 4) = some w → w.owned = false) →
        ∃ m e, ∃ hd ctx pte : Nat, u.msgs.find? m = some e ∧
          e.msg = .reg (barnOf k.sh.core) (x.2.2.1 / 4) (if 8 ≤ size.bytes then 2 else 1) hd ctx pte false)

/-- 13 R232 to R236, R239: ATOM, CAS and RED, released at once where they release, on words that the barn's L1 owns and
holds whole are performed there: each lane of E receives the value that its word would have held had the lanes applied
their operations one at a time in ascending order, each word is left with the value after the last, and no byte of memory
at the homes changes. -/
def Obligations.AtomicsInTheOwner : Prop :=
  ∀ i a b size off o f s k xs s1, Spec.atomStep i = some (a, b, size, off, f) → off = .off o → i.wf = true → Issues i s k →
    Spec.Aligned (Spec.atomAddrs k a o) size.bytes →
    s.xlateLanes (some k.sh.core) k.ctx .atomic (Spec.atomAddrs k a o) = (.ok xs, s1) →
    Spec.Local s1 xs → Spec.Idle s1 k (relScope i).isSome →
    (∀ st c, s1.stookOf k.sh = some st → s1.cropOf st = some c → st.atomicRefused c = false) →
    (∀ x ∈ xs, s1.hostHolds x.2.2.1 = false ∧ (s1.barn (barnOf k.sh.core)).ownsAll x.2.2.1 size.bytes = true ∧
      ((s1.barn (barnOf k.sh.core)).hit x.2.2.1 size.bytes false).isSome ∧
      ∀ wa ∈ wordsOf x.2.2.1 size.bytes, s1.isLost wa = false) →
    ∃ u shu, ∃ v : Nat → Nat, Leaves i k s u ∧ u.sheaf? k.sid = some shu ∧ u.mem = s1.mem ∧
      { shu with lanes := k.sh.lanes, regs := k.sh.regs } = k.sh ∧
      RegsAfter k shu (Spec.atomDst i) (fun l => Spec.loaded false size.bytes (v l)) ∧
      (∀ x ∈ xs, ∃ bs c, (s1.barn (barnOf k.sh.core)).hit x.2.2.1 size.bytes false = some (bs, c) ∧
        v x.1 = ((Spec.lanesOn xs x.2.2.1).filter (· < x.1)).foldl (fun w l => f k l w) (natOfBytes bs) ∧
        ((u.barn (barnOf k.sh.core)).hit x.2.2.1 size.bytes false).map (fun h => natOfBytes h.1) =
          some ((Spec.lanesOn xs x.2.2.1).foldl (fun w l => f k l w) (natOfBytes bs)))

/-- 13 R232, R241, R243: WAITA keeps the lanes of E at it and sends each lane's comparison to its word's home; WAKE,
released at once, sends one request for each word and goes on. No register and no byte of memory changes. -/
def Obligations.WaitsAndWakes : Prop :=
  (∀ g d a b size scope acq o s k xs s1, (Instr.waita g d a b size scope acq (.off o)).wf = true →
    Issues (.waita g d a b size scope acq (.off o)) s k → Spec.Aligned (Spec.atomAddrs k a o) size.bytes →
    s.xlateLanes (some k.sh.core) k.ctx .read (Spec.atomAddrs k a o) = (.ok xs, s1) →
    Spec.Local s1 xs → Spec.Idle s1 k false → (∀ x ∈ xs, ∀ wa ∈ wordsOf x.2.2.1 size.bytes, s1.isLost wa = false) →
    Spec.NoPhase s1 (barnOf k.sh.core) xs size.bytes →
    ∃ u shu f, LeavesBut (.waita g d a b size scope acq (.off o)) k s u (if k.replay.isNone then k.e else 0) ∧
      u.sheaf? k.sid = some shu ∧ u.mem = s1.mem ∧
      { shu with flights := k.sh.flights } = k.sh ∧ shu.flights = k.sh.flights ++ [f] ∧
      f.instr = .waita g d a b size scope acq (.off o) ∧ f.path = k.e ∧ f.e = k.e ∧
      ∀ x ∈ xs, ∃ m w, ∃ hd pte : Nat, u.msgs.find? m = some ⟨.atomic (barnOf k.sh.core) k.sid f.id x.2.2.1 size.bytes hd k.ctx pte .waita
        (if acq then some scope else none)
        [⟨x.1, (List.range size.bytes).map (fun j => Spec.groupByte k b x.1 j)⟩], w⟩) ∧
  (∀ g d a b o s k xs s1, (Instr.wake g d a b (.off o)).wf = true → Issues (.wake g d a b (.off o)) s k →
    Spec.Aligned (Spec.atomAddrs k a o) 4 →
    s.xlateLanes (some k.sh.core) k.ctx .read (Spec.atomAddrs k a o) = (.ok xs, s1) →
    Spec.Local s1 xs → Spec.Idle s1 k true → (∀ x ∈ xs, ∀ wa ∈ wordsOf x.2.2.1 4, s1.isLost wa = false) →
    Spec.NoPhase s1 (barnOf k.sh.core) xs 4 →
    ∃ u shu f, Leaves (.wake g d a b (.off o)) k s u ∧ u.sheaf? k.sid = some shu ∧ u.mem = s1.mem ∧
      { shu with flights := k.sh.flights } = k.sh ∧ shu.flights = k.sh.flights ++ [f] ∧
      f.instr = .wake g d a b (.off o) ∧ f.e = k.e ∧
      ∀ x ∈ xs, ∃ m w, ∃ hd pte : Nat, u.msgs.find? m = some ⟨.atomic (barnOf k.sh.core) k.sid f.id x.2.2.1 4 hd k.ctx pte .wake none
        ((Spec.lanesOn xs x.2.2.1).map (fun l => ⟨l, (List.range 4).map (fun j => Spec.groupByte k b l j)⟩)), w⟩)

/-- 12 R228, R231: INVA drops the unowned words of the scope's reach from the issuing barn's L1, INVR those of the lines
that its ranges overlap, and nothing else differs but what translation leaves; PFL1 goes on at once and changes no register,
bin, crop or region, and no flight where nobody waits on a word. -/
def Obligations.Invalidations : Prop :=
  (∀ g sc s k, Issues (.inva g sc) s k →
    ∃ u, Leaves (.inva g sc) k s u ∧ Spec.WordsOnly (barnOf k.sh.core) s u ∧
      ∀ e, e ∈ (u.barn (barnOf k.sh.core)).words ↔ e ∈ (s.barn (barnOf k.sh.core)).words ∧ Spec.kept sc e = true) ∧
  (∀ g a b sc off s k xs s1, Issues (.invr g a b sc off) s k →
    s.xlateLanes (some k.sh.core) k.ctx .read ((laneRanges k a b off).flatMap (fun e =>
      (pieces e.2.1.toNat e.2.2).map (fun p => (e.1, p.1)))) = (.ok xs, s1) →
    (s1.barn (barnOf k.sh.core)).words.sorted = true →
    ∃ u, Leaves (.invr g a b sc off) k s u ∧ Spec.WordsOnly (barnOf k.sh.core) s1 u ∧
      ∀ e, e ∈ (u.barn (barnOf k.sh.core)).words ↔ e ∈ (s1.barn (barnOf k.sh.core)).words ∧
        (Spec.kept sc e = true ∨
         ∀ x ∈ xs.zip ((laneRanges k a b off).flatMap (fun r => (pieces r.2.1.toNat r.2.2).map (·.2))),
          ¬(x.1.2.2.1 / 128 ≤ e.1 / 32 ∧ e.1 / 32 ≤ (x.1.2.2.1 + x.2 - 1) / 128))) ∧
  (∀ g a b off s k, Issues (.pfl1 g a b off) s k →
    ∃ u, Leaves (.pfl1 g a b off) k s u ∧ u.stooks = s.stooks ∧ u.crops = s.crops ∧ u.regions = s.regions ∧
      (s.waits = [] → u.waits = [] ∧ u.sheaves = s.sheaves))

/-- 12 R229, R230: PHBEG opens a phase over the range of the lowest lane of E, unless the length is 0 or two are open, and
translates nothing (log 76); PHEND closes the open phase of that range, and each word of that phase is owned by the barn, a
registration of it under way for the lanes of the path; a word that the phase wrote in part does not stay valid (log 21). 14
R251: a FENCE with nothing open completes at once, with every lane of its path gone on: an acquire clears the pending
classes of the lanes of E, and at scope .SY the L1 keeps owned and phase words only. -/
def Obligations.PhasesAndFences : Prop :=
  ((∀ g a b off s k l, Issues (.phbeg g a b off) s k → (lanesOf k.e).head? = some l →
     (∀ j, k.e.getLsbD j = true → (k.addr a off j).toNat % 128 = 0 ∧ (Spec.B k b j).toNat % 128 = 0) →
     ∃ u shu, Leaves (.phbeg g a b off) k s u ∧ u.sheaf? k.sid = some shu ∧ { shu with phases := k.sh.phases } = k.sh ∧
       { u with sheaves := s.sheaves, nextId := s.nextId } = s ∧
       shu.phases = if Spec.B k b l = 0 ∨ 2 ≤ k.sh.phases.length then k.sh.phases
         else k.sh.phases ++ [⟨s.nextId, k.addr a off l, (Spec.B k b l).toNat⟩]) ∧
   (∀ g a b off s k l p, Issues (.phend g a b off) s k → (lanesOf k.e).head? = some l →
     (∀ j, k.e.getLsbD j = true → (k.addr a off j).toNat % 128 = 0 ∧ (Spec.B k b j).toNat % 128 = 0) →
     k.sh.phases.find? (fun q => q.va == k.addr a off l && q.len == (Spec.B k b l).toNat) = some p →
     Spec.Quiet s k → (s.barn (barnOf k.sh.core)).words.sorted = true →
     ∃ u shu, Leaves (.phend g a b off) k s u ∧ u.sheaf? k.sid = some shu ∧ u.mem = s.mem ∧
       shu.phases = k.sh.phases.filter (fun q => q.id != p.id) ∧
       (∀ wa, (u.barn (barnOf k.sh.core)).words.find? wa = ((s.barn (barnOf k.sh.core)).words.find? wa).map (fun w =>
         if p.id ∈ w.phase then { w with phase := [], owned := true, valid := w.written == 15, log := [(0, w.written, w.bytes)] }
         else w)) ∧
       (∀ wa w, (s.barn (barnOf k.sh.core)).words.find? wa = some w → p.id ∈ w.phase → ∃ m base n, ∃ hd ctx pte : Nat,
         u.msgs.find? m = some ⟨.reg (barnOf k.sh.core) base n hd ctx pte false, [(k.sid, k.path)]⟩ ∧ base ≤ wa ∧ wa < base + n))) ∧
  (∀ g order scope s k, Issues (.fence g order scope) s k → Spec.Quiet s k →
     ∃ u shu, Leaves (.fence g order scope) k s u ∧ u.sheaf? k.sid = some shu ∧ u.mem = s.mem ∧ u.msgs = s.msgs ∧
       { shu with lanes := k.sh.lanes } = k.sh ∧
       (∀ l < 64, { shu.lane l with pc := (k.sh.lane l).pc } =
         if acquires order = true ∧ k.e.getLsbD l = true then { k.sh.lane l with pend := .sh } else k.sh.lane l) ∧
       (acquires order = true → scope = .sy → ∀ e ∈ (u.barn (barnOf k.sh.core)).words, e.2.owned = true ∨ e.2.phase ≠ []))

namespace Sys2Proof.Spec

open Sys2Proof Sys2Proof.Machine Sys2Proof.Safety

/-! ### Tags and engines (10 R169 to R180, 11 R181 to R202, 20 R347) -/

/-- Nothing differs but one core; there nothing but what `f` gives. -/
def CoreOnly (s u : State) (core : Nat) (c : Core) : Prop :=
  { u with cores := s.cores } = s ∧ (∀ x, x ≠ core → u.core x = s.core x) ∧ u.core core = c
/-- The stook of the sheaf is resident and not parked, the sheaf one of its. -/
def Housed (s : State) (k : Ctx) : Prop :=
  ∃ st, s.stookOf k.sh = some st ∧ st.parked = false ∧ k.sid ∈ st.sheaves
/-- A tag as the stook sees it is in a state. -/
def tagIs (s : State) (k : Ctx) (st : TagState) (t : Nat) : Prop :=
  ((s.core k.sh.core).tag t).holder = some k.sh.uid ∧ ((s.core k.sh.core).tag t).st = st
/-- What each copy instruction names: tag, kind, destination, source, the words of C, spaces. -/
def copies : Instr → Option (Fin 64 × Nat × SReg × SReg × (Ctx → List Word) × Nat)
  | .cpy _ t a b c ds ss => some (t, 1, a, b, fun k => [SC k c], ds.code + 4 * ss.code)
  | .cpy2 _ t a b c ds ss tr => some (t, 2, a, b, fun k => (List.range 4).map (fun j => k.opC (.s c) 0 j),
      ds.code + 4 * ss.code + 16 * tr.code)
  | .cpyh _ t a b c inn abin => some (t, 3, a, b, fun k => [SC k c], (if inn then 1 else 0) + (if abin then 2 else 0))
  | _ => none
/-- The operation that a copy instruction asks for (10 R176 to R178). -/
def copyOp (s : State) (k : Ctx) (t : Fin 64) (kind : Nat) (a b : SReg) (c : List Word) (w3 : Nat) : WainOp :=
  { uid := k.sh.uid, sid := k.sid, tag := t.val, kind := kind, ctx := k.ctx, dst := k.pairA a.reg 0, src := k.pairB b.reg 0
    count := (c.headD 0).toNat, rows := (c.getD 1 0).toNat, ss := (c.getD 2 0).toNat, ds := (c.getD 3 0).toNat
    w3 := w3, cursor := 0, recs := [], stopped := 0, written := [], token := s.tokenOf k.sh, held := [], seen := [], id := 0 }
/-- A tag that an operation of the stook may name: not BUSY, and held by no other stook (10 R169, R176). -/
def TagFree (s : State) (k : Ctx) (t : Nat) : Prop :=
  ((s.core k.sh.core).tag t).st ≠ .busy ∧
    (((s.core k.sh.core).tag t).holder = none ∨ ((s.core k.sh.core).tag t).holder = some k.sh.uid)
/-- What R176 asks of a copy, and 18 R308 of its destination: its tag is free, Table 9.3 allows its spaces, bin addresses
name no other member and lie in the allotment, addresses, strides and counts are multiples of the element, no write range
refuses it. A copy of no bytes reaches no byte. -/
structure CopyAllowed (s : State) (k : Ctx) (o : WainOp) : Prop where
  tag : TagFree s k o.tag
  spaces : o.srcSpace ≠ 2 ∧ o.dstSpace ≠ 3
  aligned : ∀ x ∈ [o.dst.toNat, o.src.toNat, o.count, o.ss, o.ds], x % o.elem = 0
  member : ∀ p ∈ [(o.dstSpace, o.dst), (o.srcSpace, o.src)], 1 ≤ p.1 → p.1 ≤ 3 → (loWord p.2).toNat / 2 ^ 24 % 4 = 0
  bins : o.total ≠ 0 → ∀ p ∈ [(o.dstSpace, o.dst, o.dstExtent), (o.srcSpace, o.src, o.srcExtent)], 1 ≤ p.1 → p.1 ≤ 3 →
    (loWord p.2.1).toNat < 2 ^ 24 ∧ ∃ st, s.stookOf k.sh = some st ∧ (loWord p.2.1).toNat + p.2.2 ≤ st.binLen (spaceBin p.1)
  admitted : o.total ≠ 0 → o.dstSpace = 0 → ∀ st c, s.stookOf k.sh = some st → s.cropOf st = some c →
    ∀ r < (if o.kind ≠ 2 then 1 else if o.tr = 0 then o.rows else o.count / o.elem),
      st.storeRefused c (o.dst.toNat + r * o.ds) (if o.tr = 0 then o.count else o.rows * o.elem) = false
/-- What a core's queue of the thresher holds after one operation more; its collector is `coll`. -/
def mxAfter (s : State) (k : Ctx) (op : MxOp) (coll : Option Collector) : Core :=
  let c := s.core k.sh.core
  { c with mx := { c.mx with queue := c.mx.queue ++ [⟨k.sid, k.sh.uid, s.clock, false, op, []⟩], coll := coll } }
/-- The owner of the core's thresher, with room in its queue (11 R183, R185). -/
def Owns (s : State) (k : Ctx) : Prop :=
  k.sh.serves = none ∧ (s.core k.sh.core).mx.owner = some k.sid ∧ (s.core k.sh.core).mx.queue.length < 3
/-- A range of a bin of the stook: no MEMBER, no bits above, within the allotment (09 R155). -/
def InBin (s : State) (k : Ctx) (b : BinId) (addr n : Nat) : Prop :=
  addr < 2 ^ 24 ∧ addr + n ≤ 2 ^ 24 ∧ ∃ st, s.stookOf k.sh = some st ∧ addr + n ≤ st.binLen b
/-- Where the A group stands in the collector already. -/
def fromCollector (s : State) (k : Ctx) (a : Fin 96) (ty : Ty) (af : Bool) (breg : Nat) : Bool :=
  match (s.core k.sh.core).mx.coll with
  | some c => decide (c.base = a.val ∧ c.ty = ty ∧ c.af = af ∧ c.breg = breg) && (k.e &&& ~~~c.lanes == 0)
  | none => false
/-- The lanes of an issuing path stand at its instruction (04 R64). -/
def AtPc (k : Ctx) : Prop := k.replay = none → ∀ l, k.path.getLsbD l = true → (k.sh.lane l).pc = k.pc
/-- The uniform predicate of a path. -/
def uniPred (sh : Sheaf) (d : Fin 7) (b : Bool) : Sheaf := { sh with q := setPredBit sh.q d.val b }
/-- Where byte x of a copy's order lies at its destination and at its source, from their starts (R177). -/
def copyTo (o : WainOp) (x : Nat) : Nat :=
  if o.kind ≠ 2 then x
  else if o.tr = 0 then x / o.count * o.ds + x % o.count
  else x / 4 % (o.count / 4) * o.ds + x / 4 / (o.count / 4) * 4 + x % 4
def copyFrom (o : WainOp) (x : Nat) : Nat :=
  if o.kind ≠ 2 then x
  else if o.tr = 0 then x / o.count * o.ss + x % o.count
  else x / 4 / (o.count / 4) * o.ss + x / 4 % (o.count / 4) * 4 + x % 4
/-- n bytes of one side of a copy, at an offset: of the stook's bin, of the host, or one piece of a page of device memory. -/
def SideAt (s : State) (core : Nat) (o : WainOp) (sp : Nat) (base : DWord) (off n : Nat) (k : AKind) (p : Piece) (t : State) : Prop :=
  if isBinSpace sp then t = s ∧ p = (binOffset (binAddrOf base) + off, n, 0, 0, false) ∧ (s.stook? o.uid).isSome = true
  else if sp = 4 then t = s ∧ p = (hostAddr (base.toNat + off), n, 0, 0, false) ∧ s.wainUp o = true
  else s.translateAll (some core) o.ctx k true (pieces (base.toNat + off) n) = (.ok [p], t) ∧ p.2.1 = n ∧ p.1 < 2 ^ 51
/-- The byte that a plain access of the core's engine reads there: what its barn's L1 serves, else the coherent value. -/
def sideByte (s : State) (core : Nat) (o : WainOp) (sp : Nat) (p : Piece) (j : Nat) : Byte :=
  if isBinSpace sp then binByte s (spaceBin sp) o.uid (p.1 + j)
  else if sp = 4 then memByte s.mem (p.1 + j)
  else match p.2.2.2.2, (s.barn (barnOf core)).hit (p.1 + j) 1 false with
    | false, some ([x], _) => x
    | _, _ => (s.cohRead p.1 p.2.1).getD j 0

end Sys2Proof.Spec
open Sys2Proof Sys2Proof.Machine Sys2Proof.Safety

/-! ## Pennant tags and the wain -/

/-- 10 R176, R177: CPY, CPY2 and CPYH complete where R176 allows the copy, the queue has room and the fork has nothing
to wait for: a copy makes its tag BUSY and joins the wain's queue; one of no bytes, or a CPY2 beyond its limits, makes
the tag READY at once, with CAUSE 0 or 7, CAUSE 0 where both hold (log 118). Nothing else of the device differs. 10 R179: PFL2 completes where its tag is
free or its counter's address a multiple of 8 and its die has room: it starts a prefetch, its length clamped to
67,108,864 bytes, with its tag BUSY where it names one. 20 R347, R348: COLL completes where its tag is free, its group
is valid for the partition and the context, its count, addresses and write ranges are allowed: it takes the next step
number of its group, its tag BUSY, and starts the step unless its count is 0. -/
def Obligations.CopiesAndCollectives : Prop :=
  (∀ i t kind a b c w3 s k, Spec.copies i = some (t, kind, a, b, c, w3) → i.wf = true → Issues i s k →
     (s.core k.sh.core).wainQ.length + (s.core k.sh.core).wainRun.length < 16 → Spec.Housed s k → Spec.Quiet s k →
     Spec.CopyAllowed s k (Spec.copyOp s k t kind a b (c k) w3) →
     let o := Spec.copyOp s k t kind a b (c k) w3
     let x := s.core k.sh.core
     ∃ u, Leaves i k s u ∧ ∃ y, Spec.CoreOnly s { u with nextId := s.nextId } k.sh.core y ∧
       (∀ j, j ≠ t.val → y.tag j = x.tag j) ∧ { y with tags := x.tags, wainQ := x.wainQ } = x ∧
       (if o.total = 0 then y.tag t.val = ⟨.ready, some k.sh.uid, kind, 0, 0⟩ ∧ y.wainQ = x.wainQ
        else if o.shapeBad then y.tag t.val = ⟨.ready, some k.sh.uid, kind, 7, 0⟩ ∧ y.wainQ = x.wainQ
        else y.tag t.val = ⟨.busy, some k.sh.uid, kind, 0, 0⟩ ∧ y.wainQ = x.wainQ ++ [{ o with id := s.nextId }])) ∧
  ((∀ g x a c s k, Issues (.pfl2 g x a c) s k → Spec.Quiet s k →
     (s.pfl2.filter (fun o => o.die == dieOf k.sh.core)).length < 64 →
     (match x with
       | .tag t => Spec.TagFree s k t.val
       | .cc b => (k.pairB b.reg 0).toNat % 8 = 0) →
     ∃ u, Leaves (.pfl2 g x a c) k s u ∧
       { u with cores := s.cores, pfl2 := s.pfl2, nextId := s.nextId } = s ∧
       (∀ y, y ≠ k.sh.core → u.core y = s.core y) ∧
       (match x with
         | .tag t => u.core k.sh.core = (s.core k.sh.core).setTag t.val ⟨.busy, some k.sh.uid, 4, 0, 0⟩
         | .cc _ => u.core k.sh.core = s.core k.sh.core) ∧
       ∃ o, u.pfl2 = s.pfl2 ++ [o] ∧ o.start = k.pairA a.reg 0 ∧ o.len = min (Spec.SC k c).toNat 67108864 ∧
         o.uid = k.sh.uid ∧ o.ctx = k.ctx ∧
         (match x with
           | .tag t => o.tag = some t.val ∧ o.counter = none
           | .cc b => o.tag = none ∧ o.counter = some (k.pairB b.reg 0))) ∧
   (∀ g t a b c ty op kind grp s k st cr, (Instr.coll g t a b c ty op kind grp).wf = true →
     Issues (.coll g t a b c ty op kind grp) s k → Spec.Quiet s k → Spec.Housed s k →
     Spec.TagFree s k t.val →
     s.stookOf k.sh = some st → s.cropOf st = some cr →
     (s.group grp.val).flags % 2 = 1 → cr.part = (s.group grp.val).flags / 2 % 16 → (s.group grp.val).ctx = k.ctx →
     (Spec.SC k c).toNat ≤ 1048576 → (k.pairA a.reg 0).toNat % (ty.bits / 8) = 0 → (k.pairB b.reg 0).toNat % (ty.bits / 8) = 0 →
     (Spec.SC k c).toNat % (ty.bits / 8) = 0 →
     (0 < (Spec.SC k c).toNat → st.storeRefused cr (k.pairA a.reg 0).toNat (Spec.SC k c).toNat = false) →
     ∃ u, Leaves (.coll g t a b c ty op kind grp) k s u ∧
       u.group grp.val = { s.group grp.val with seq := (s.group grp.val).seq + 1 } ∧
       (∀ x, x ≠ grp.val → u.group x = s.group x) ∧
       { u with cores := s.cores, colls := s.colls, nextId := s.nextId, fabric := s.fabric } = s ∧
       (if (Spec.SC k c).toNat = 0 then (u.core k.sh.core).tag t.val = ⟨.ready, some k.sh.uid, 5, 0, 0⟩ ∧ u.colls = s.colls
        else (u.core k.sh.core).tag t.val = ⟨.busy, some k.sh.uid, 5, 0, 0⟩ ∧
          ∃ o, u.colls = s.colls ++ [o] ∧ o.tag = t.val ∧ o.dst = k.pairA a.reg 0 ∧ o.src = k.pairB b.reg 0 ∧
            o.count = (Spec.SC k c).toNat ∧ o.ty = ty ∧ o.op = op ∧ o.kind = kind ∧ o.group = grp.val ∧
            o.seq = (s.group grp.val).seq.toNat)))

/-- 10 R180: PWAIT goes on when no tag of its mask that the stook holds is BUSY, or in its any form when one is READY; D
then holds the READY tags of the mask, and where there is one the path acquires at .ST. Otherwise the path stands at it.
10 R180: PFIND gives the number of the lowest READY tag of its mask, with an acquire at .ST, or 64; PCLR returns the READY
tags of its mask to IDLE; PSTAT gives a tag's count, modulo 2^32 (log 118), and status word, with an acquire at .ST where it is READY. -/
def Obligations.TagInstructions : Prop :=
  (∀ i g d a all s k m, (i = .pwaitAnyB32 g d a ∧ all = false ∨ i = .pwaitAllB32 g d a ∧ all = true ∨ i = .pwaitX64 g d a all) →
     i.wf = true → Issues i s k → m = k.pairA a.reg 0 →
     ((¬∃ t, t < 64 ∧ m.getLsbD t = true ∧ Spec.tagIs s k .busy t) ∨
         all = false ∧ ∃ t, t < 64 ∧ m.getLsbD t = true ∧ Spec.tagIs s k .ready t →
       ∃ u shu r, Leaves i k s u ∧ u.sheaf? k.sid = some shu ∧ u.mem = s.mem ∧ u.cores = s.cores ∧
         { shu with lanes := k.sh.lanes, s := k.sh.s } = k.sh ∧
         (∀ t < 64, (BitVec.getLsbD r t = true ↔ m.getLsbD t = true ∧ Spec.tagIs s k .ready t)) ∧
         (∀ j, shu.sreg j = match d with
           | .s n => if j = n.val then BitVec.ofNat 32 (BitVec.toNat (r : DWord)) else
               if j = n.val + 1 then BitVec.ofNat 32 (r.toNat / 2 ^ 32) else k.sh.sreg j
           | .z => k.sh.sreg j) ∧
         ∀ l < 64, Spec.Acquired k.sh (if r = 0 then 0 else k.path) l (shu.lane l)) ∧
     ((∃ t, t < 64 ∧ m.getLsbD t = true ∧ Spec.tagIs s k .busy t) →
         (all = true ∨ ¬∃ t, t < 64 ∧ m.getLsbD t = true ∧ Spec.tagIs s k .ready t) →
       ∃ u shu f, LeavesBut i k s u (if k.replay.isNone then k.path else 0) ∧ u.sheaf? k.sid = some shu ∧
         { u with sheaves := s.sheaves, nextId := s.nextId } = s ∧
         { shu with flights := k.sh.flights } = k.sh ∧ shu.flights = k.sh.flights ++ [f] ∧
         f.instr = i ∧ f.path = k.path ∧ f.stage = .waiting)) ∧
  ((∀ i g d a s k, (i = .pfindB32 g d a ∨ i = .pfindX64 g d a) → i.wf = true → Issues i s k →
     ∃ u shu, Leaves i k s u ∧ u.sheaf? k.sid = some shu ∧ u.mem = s.mem ∧ u.cores = s.cores ∧
       { shu with lanes := k.sh.lanes, s := k.sh.s } = k.sh ∧
       ∃ n : Nat, (∀ j, shu.sreg j = if d.reg = .s ⟨j % 24, by omega⟩ ∧ j < 24 then BitVec.ofNat 32 n else k.sh.sreg j) ∧
         n ≤ 64 ∧ (∀ t < n, ¬((k.pairA a.reg 0).getLsbD t = true ∧ Spec.tagIs s k .ready t)) ∧
         (n < 64 → (k.pairA a.reg 0).getLsbD n = true ∧ Spec.tagIs s k .ready n) ∧
         ∀ l < 64, Spec.Acquired k.sh (if n < 64 then k.path else 0) l (shu.lane l)) ∧
   (∀ i g a s k, (i = .pclrB32 g a ∨ i = .pclrX64 g a) → Issues i s k →
     ∃ u y, Leaves i k s u ∧ Spec.CoreOnly s u k.sh.core y ∧ { y with tags := (s.core k.sh.core).tags } = s.core k.sh.core ∧
       (∀ t < 64, (k.pairA a.reg 0).getLsbD t = true → Spec.tagIs s k .ready t → y.tag t = .idle) ∧
       (∀ t, ¬(t < 64 ∧ (k.pairA a.reg 0).getLsbD t = true ∧ Spec.tagIs s k .ready t) → y.tag t = (s.core k.sh.core).tag t)) ∧
   (∀ g d t s k, (Instr.pstat g d t).wf = true → Issues (.pstat g d t) s k →
     ∃ u shu, Leaves (.pstat g d t) k s u ∧ u.sheaf? k.sid = some shu ∧ u.mem = s.mem ∧ u.cores = s.cores ∧
       { shu with lanes := k.sh.lanes, s := k.sh.s } = k.sh ∧
       (let x := if ((s.core k.sh.core).tag t.val).holder = some k.sh.uid then (s.core k.sh.core).tag t.val else .idle
        (∀ j, shu.sreg j = match d with
           | .s n => if j = n.val then BitVec.ofNat 32 x.count else if j = n.val + 1 then
               BitVec.ofNat 32 ((match x.st with | .idle => 0 | .busy => 1 | .ready => 2) + (if x.cause = 0 then 0 else 4) +
                 2 ^ 8 * x.cause + 2 ^ 12 * x.kind) else k.sh.sreg j
           | .z => k.sh.sreg j) ∧
        ∀ l < 64, Spec.Acquired k.sh (if x.st = .ready then k.path else 0) l (shu.lane l))))

/-! ## The thresher -/

/-- 11 R183, R184, R186, R200: MXACQ and MXTRY take a free thresher whose queue of waiting sheaves is empty, with an
acquire at .ST, and change nothing for its owner; otherwise MXACQ stands in that queue and MXTRY writes 0; MXWAIT and
MXREL of an owner without operations go on at once, MXREL having given ownership up and emptied the collector. 11 R185,
R188 to R194, R198, R199: an operation of the owner whose checks raise nothing joins the core's queue; ZACC names a bank,
STLD its bin range, DRAIN its C-bin range, MMA and DMMA the A group as its registers hold it in the lanes of E. MMA and
DMMA fill the collector where they keep, and empty it where they take their group from it, which lanes beyond those held do
not (log 36). -/
def Obligations.ThresherInstructions : Prop :=
  ((∀ i g s k, (i = .mxacqB32 g ∨ i = .mxacqX64 g) → Issues i s k → k.sh.serves = none →
     ((s.core k.sh.core).mx.owner = some k.sid → Leaves i k s s) ∧
     ((s.core k.sh.core).mx.owner = none → (s.core k.sh.core).mx.waitq = [] →
       ∃ u shu, Leaves i k s u ∧ u.sheaf? k.sid = some shu ∧ u.mem = s.mem ∧
         (u.core k.sh.core).mx.owner = some k.sid ∧ (u.core k.sh.core).mx.coll = none ∧
         { shu with lanes := k.sh.lanes } = k.sh ∧ ∀ l < 64, Spec.Acquired k.sh k.path l (shu.lane l)) ∧
     ((s.core k.sh.core).mx.owner ≠ some k.sid → ((s.core k.sh.core).mx.owner ≠ none ∨ (s.core k.sh.core).mx.waitq ≠ []) →
       ∃ u shu f, LeavesBut i k s u (if k.replay.isNone then k.path else 0) ∧ k.sid ∈ (u.core k.sh.core).mx.waitq ∧
         (u.core k.sh.core).mx.owner = (s.core k.sh.core).mx.owner ∧ u.sheaf? k.sid = some shu ∧
         { shu with flights := k.sh.flights } = k.sh ∧ shu.flights = k.sh.flights ++ [f] ∧ f.instr = i ∧ f.path = k.path)) ∧
   (∀ i g d s k, (i = .mxtryB32 g d ∨ i = .mxtryX64 g d) → Issues i s k → k.sh.serves = none →
     ∃ u shu, Leaves i k s u ∧ u.sheaf? k.sid = some shu ∧ u.mem = s.mem ∧
       (let t := (s.core k.sh.core).mx
        { shu with lanes := k.sh.lanes } =
           Spec.uniPred k.sh d (decide (t.owner = some k.sid ∨ t.owner = none ∧ t.waitq = [])) ∧
        (t.owner = none ∧ t.waitq = [] → (u.core k.sh.core).mx.owner = some k.sid) ∧
        (¬(t.owner = none ∧ t.waitq = []) → u.cores = s.cores))) ∧
   (∀ i g s k, (i = .mxwaitB32 g ∨ i = .mxwaitX64 g) → Issues i s k → k.sh.serves = none →
     (s.core k.sh.core).mx.owner = some k.sid → (∀ e ∈ (s.core k.sh.core).mx.queue, e.sid ≠ k.sid) →
     ∃ u shu, Leaves i k s u ∧ u.sheaf? k.sid = some shu ∧ u.mem = s.mem ∧ u.cores = s.cores ∧
       { shu with lanes := k.sh.lanes } = k.sh ∧ ∀ l < 64, Spec.Acquired k.sh k.path l (shu.lane l)) ∧
   (∀ i g s k, (i = .mxrelB32 g ∨ i = .mxrelX64 g) → Issues i s k → k.sh.serves = none →
     (s.core k.sh.core).mx.owner = some k.sid → (∀ e ∈ (s.core k.sh.core).mx.queue, e.sid ≠ k.sid) →
     (s.core k.sh.core).mx.waitq = [] → Spec.Quiet s k → s.owes k.sid k.sh.full = false → Spec.AtPc k →
     ∃ u shu, Leaves i k s u ∧ u.sheaf? k.sid = some shu ∧ u.mem = s.mem ∧ { shu with lanes := k.sh.lanes } = k.sh ∧
       u.core k.sh.core = { s.core k.sh.core with mx := { (s.core k.sh.core).mx with owner := none, coll := none } })) ∧
  ((∀ i g east s k, (i = .zaccSB32 g ∧ east = false ∨ i = .zaccEB32 g ∧ east = true ∨ i = .zaccX64 g east) → Issues i s k →
     Spec.Owns s k → ∃ u, Leaves i k s u ∧
       Spec.CoreOnly s u k.sh.core (Spec.mxAfter s k (.zacc east) (s.core k.sh.core).mx.coll)) ∧
   (∀ g a b c ty w ab kc af s k, (Instr.stld g a b c ty w ab kc af).wf = true → Issues (.stld g a b c ty w ab kc af) s k →
     Spec.Owns s k →
     (let bin : BinId := if ab then .a else .w
      let cw : Nat := match c with | some r => (Spec.SC k r).toNat | none => 0
      (Spec.SA k a).toNat % 4 = 0 → (Spec.SB k b).toNat % 4 = 0 →
      Spec.InBin s k bin (Spec.SA k a).toNat (63 * (Spec.SB k b).toNat + 8 * ty.bits) →
      (Machine.blockScaled ty af = true → cw % 4 = 0 ∧ Spec.InBin s k bin cw (if af then 256 else 128)) →
      ∃ u, Leaves (.stld g a b c ty w ab kc af) k s u ∧ Spec.CoreOnly s u k.sh.core (Spec.mxAfter s k
        (.stld (if ab then 1 else 0) (Spec.SA k a).toNat (Spec.SB k b).toNat (cw % 2 ^ 24) ty w kc af) (s.core k.sh.core).mx.coll))) ∧
   (∀ g a b ty east z s k, (Instr.drain g a b ty east z).wf = true → Issues (.drain g a b ty east z) s k → Spec.Owns s k →
     (Spec.SA k a).toNat % 4 = 0 → (Spec.SB k b).toNat % 4 = 0 →
     Spec.InBin s k .c (Spec.SA k a).toNat (63 * (Spec.SB k b).toNat + 64 * (if ty = .f32 then 4 else 2)) →
     ∃ u, Leaves (.drain g a b ty east z) k s u ∧ Spec.CoreOnly s u k.sh.core (Spec.mxAfter s k
       (.drain (Spec.SA k a).toNat (Spec.SB k b).toNat ty east z) (s.core k.sh.core).mx.coll)) ∧
   (∀ g a b ty east keep af s k, (Instr.mma g a b ty east keep af).wf = true → Issues (.mma g a b ty east keep af) s k →
     Spec.Owns s k →
     (let bw : KV Word := if mmaScaled ty af then (lanesOf k.e).map (fun l => (l, k.sh.readReg b l 0)) else []
      passBad (s.mxAhead k.sh.core) ty false east af k.e (fun i => bw.getD i 0) = false →
      ∃ u op coll, Leaves (.mma g a b ty east keep af) k s u ∧ Spec.CoreOnly s u k.sh.core (Spec.mxAfter s k op coll) ∧
        op = .mma ty east af k.e ((lanesOf k.e).map (fun l => (l, (List.range (2 * ty.bits)).map (fun j => k.sh.vreg (a.val + j) l)))) bw ∧
        (if keep then ∃ c, coll = some c ∧ c.base = a.val ∧ c.ty = ty ∧ c.lanes = k.e
         else coll = if Spec.fromCollector s k a ty af b.code then none else (s.core k.sh.core).mx.coll))) ∧
   (∀ g a b c ty keep s k, (Instr.dmma g a b c ty keep).wf = true → Issues (.dmma g a b c ty keep) s k → Spec.Owns s k →
     passBad (s.mxAhead k.sh.core) ty true false false k.e (fun _ => 0) = false →
     (Spec.SB k b).toNat % 4 = 0 → (Spec.SC k c).toNat % 4 = 0 →
     (∀ l, k.e.getLsbD l = true → Spec.InBin s k .w (Spec.SB k b).toNat (l * (Spec.SC k c).toNat + 8 * ty.bits)) →
     ∃ u op coll, Leaves (.dmma g a b c ty keep) k s u ∧ Spec.CoreOnly s u k.sh.core (Spec.mxAfter s k op coll) ∧
       op = .dmma ty (Spec.SB k b).toNat (Spec.SC k c).toNat k.e
         ((lanesOf k.e).map (fun l => (l, (List.range (2 * ty.bits)).map (fun j => k.sh.vreg (a.val + j) l)))) ∧
       (if keep then ∃ c', coll = some c' ∧ c'.base = a.val ∧ c'.ty = ty ∧ c'.lanes = k.e
        else coll = if Spec.fromCollector s k a ty false b.reg.code then none else (s.core k.sh.core).mx.coll)))

/-! ## Steps of the wain -/

/-- 11 R182, R185, R189, R191, R192, R195, R197 to R199, R202: the first operation starts once it is four cycles old and the thresher is
not zeroing, and completes with its effect, leaving the queue: ZACC zeroes its bank; STLD fills the tile with 64 rows of a
bin, as they stand or transposed, with the side data of a block-scaled format, and sets the latch; a float MMA adds, in each
row of a lane of E and each column, the 64 exact products of the lane's operand and the tile to the element, rounded once; one
in integer mode adds the 64 corrected products modulo 2^40 and keeps the scales of the rows and columns that had none; DMMA
adds the rows of lanes to South and the rows of the W-bin to East; DRAIN writes 64 rows of 64 elements to the C-bin, in order;
the end of zeroing leaves every part of the thresher as reset does. 10 R173, R177: a beat of a copy, whose bytes do not lie in
its source and whose order is none of .T2, leaves the next bytes of the source, as a plain access of the barn reads them, at
the places that they have at the destination.
10 R172, R173, R178, R179: the head of the wain's queue starts where fewer than four run; a running copy all of whose
bytes are written and whose writes are acknowledged leaves the wain, its tag READY with CAUSE 0 and the bytes written; a
CPYH that the host gives no credit stops with CAUSE 3; a prefetch ends by making its tag READY with the bytes skipped. -/
def Obligations.EngineSteps : Prop :=
  ((∀ core s e r, (s.core core).mx.queue = e :: r → e.running = false → (s.core core).mx.zeroing = false →
     e.issued + 4 ≤ s.clock → ∃ t, exec (.thresherOpStart core) s = .next t ∧
       Spec.CoreOnly s t core { s.core core with mx := { (s.core core).mx with queue := { e with running := true } :: r } }) ∧
   (∀ core s e r east, (s.core core).mx.queue = e :: r → e.running = true → e.op = .zacc east →
     ∃ t, exec (.thresherOpComplete core) s = .next t ∧ Spec.CoreOnly s t core { s.core core with mx :=
       { ((s.core core).mx.setBank east .zero) with queue := r } }) ∧
   (∀ core s e r ty east af lanes a bw w m, (s.core core).mx.queue = e :: r → e.running = true →
     e.op = .mma ty east af lanes a bw → (s.core core).mx.fmt = some w → pairMode ty w = some (.float, m) →
     ∃ t, exec (.thresherOpComplete core) s = .next t ∧ { t with cores := s.cores } = s ∧ (t.core core).mx.queue = r ∧
       ∀ i j, i < 64 → j < 64 → ((t.core core).mx.bank east).at_ i j =
         if lanes.getLsbD i then
           BitVec.ofNat 40 (Num.acc40.sumVals .rn (Num.acc40.val (((s.core core).mx.bank east).at_ i j).toNat ::
             (List.range 64).map (fun x => Num.mulVal (laneVal ty af (groupNat (a.getD i [])) (bw.getD i 0) x)
               ((s.core core).mx.weight (if east then j else x) (if east then x else j)))))
         else ((s.core core).mx.bank east).at_ i j) ∧
   (∀ core s e r b addr pitch side ty w kc af st, (s.core core).mx.queue = e :: r → e.running = true →
     e.op = .stld b addr pitch side ty w kc af → e.cap = [] → s.stook? e.uid = some st →
     (let bin := if b = 1 then st.binA else st.binW
      ∃ t, exec (.thresherOpComplete core) s = .next t ∧ { t with cores := s.cores } = s ∧ (t.core core).mx.queue = r ∧
        (t.core core).mx.south = (s.core core).mx.south ∧ (t.core core).mx.east = (s.core core).mx.east ∧
        (t.core core).mx.fmt = some ty ∧ (t.core core).mx.kc = kc ∧ (t.core core).mx.af = af ∧
        (∀ row col, row < 64 → col < 64 → (t.core core).mx.code row col =
          natOfBytes (memRead bin (addr + (if w then col else row) * pitch) (8 * ty.bits)) /
            2 ^ (ty.bits * (if w then row else col)) % 2 ^ ty.bits) ∧
        (Machine.blockScaled ty af = true → ∀ j < (if af then 256 else 128), (t.core core).mx.sideAt j = (memByte bin (side + j)).toNat))) ∧
   (∀ core s e r ty east af lanes a bw w m, (s.core core).mx.queue = e :: r → e.running = true →
     e.op = .mma ty east af lanes a bw → (s.core core).mx.fmt = some w → pairMode ty w = some (.int, m) →
     (let x := (s.core core).mx
      let old := x.bank east
      ∃ t, exec (.thresherOpComplete core) s = .next t ∧ { t with cores := s.cores } = s ∧ (t.core core).mx.queue = r ∧
        (let new := (t.core core).mx.bank east
         new.mode = .int ∧
         (∀ i j, i < 64 → j < 64 → new.at_ i j =
           if lanes.getLsbD i then
             BitVec.ofInt 40 ((old.at_ i j).toInt + ((List.range 64).map (fun n =>
               laneInt af (groupNat (a.getD i [])) (bw.getD i 0) n * x.weightInt (if east then j else n) (if east then n else j))).sum)
           else old.at_ i j) ∧
         (∀ i < 64, new.rowScale.find? i = if lanes.getLsbD i then
             some ((old.rowScale.find? i).getD (BitVec.ofNat 8 (laneScl af (bw.getD i 0) 0))) else old.rowScale.find? i) ∧
         ∀ j < 64, new.colScale.find? j = some ((old.colScale.find? j).getD (BitVec.ofNat 8 (x.weightScl j 0)))))) ∧
   (∀ core s e r ty addr pitch lanes a st, (s.core core).mx.queue = e :: r → e.running = true →
     e.op = .dmma ty addr pitch lanes a → e.cap = [] → s.stook? e.uid = some st →
     (let x := (s.core core).mx
      let pass (old : Bank) (f : Nat → Nat → Nat → Num.Val) (i j : Nat) : BitVec 40 :=
        if lanes.getLsbD i then
          BitVec.ofNat 40 (Num.acc40.sumVals .rn (Num.acc40.val (old.at_ i j).toNat :: (List.range 64).map (f i j)))
        else old.at_ i j
      ∃ t, exec (.thresherOpComplete core) s = .next t ∧ { t with cores := s.cores } = s ∧ (t.core core).mx.queue = r ∧
        ∀ i j, i < 64 → j < 64 →
          (t.core core).mx.south.at_ i j = pass x.south (fun i j n =>
            Num.mulVal (laneVal ty false (groupNat (a.getD i [])) 0 n) (x.weight n j)) i j ∧
          (t.core core).mx.east.at_ i j = pass x.east (fun i j n =>
            Num.mulVal (laneVal ty false (natOfBytes (memRead st.binW (addr + i * pitch) (8 * ty.bits))) 0 n) (x.weight j n)) i j)) ∧
   (∀ core s e r addr pitch ty east zero, (s.core core).mx.queue = e :: r → e.running = true →
     e.op = .drain addr pitch ty east zero → e.cap = [] → 64 * (if ty = .f32 then 4 else 2) ≤ pitch →
     ∃ t, exec (.thresherOpComplete core) s = .next t ∧ t.mem = s.mem ∧ (t.core core).mx.queue = r ∧
       (∀ i j, i < 64 → j < 64 → ∀ x < (if ty = .f32 then 4 else 2), (s.stook? e.uid).isSome →
         Spec.binByte t .c e.uid (addr + i * pitch + (if ty = .f32 then 4 else 2) * j + x) =
           (drainElem ((s.core core).mx.bank east) ty i j).getD x 0) ∧
       (zero = true → (t.core core).mx.bank east = .zero)) ∧
   (∀ core s, (s.core core).mx.zeroing = true → ∃ t, exec (.thresherZeroingDone core) s = .next t ∧
     Spec.CoreOnly s t core { s.core core with mx := { Thresher.reset with
       coll := (s.core core).mx.coll, queue := (s.core core).mx.queue, owner := (s.core core).mx.owner
       waitq := (s.core core).mx.waitq, lastUser := (s.core core).mx.lastUser } })) ∧
  ((∀ core s o r, (s.core core).wainQ = o :: r → (s.core core).wainRun.length < 4 →
     ∃ t, exec (.wainStart core) s = .next t ∧
       Spec.CoreOnly s t core { s.core core with wainQ := r, wainRun := (s.core core).wainRun ++ [o] }) ∧
   (∀ core s o p q p' s1 s2 s3 s4 n, List.find? (fun (x : WainOp) => x.id == o.id) (s.core core).wainRun = some o →
     o.stopped = 0 → o.recs = [] → o.cursor < o.total → (o.tr = 0 ∨ o.tr = 2 ∧ o.cursor % 4 = 0) → s.wainReading o = false →
     n = o.beatLen → (∀ j < n, o.overlaps (o.dstBase + Spec.copyTo o o.cursor + j) = false) →
     Spec.SideAt s core o o.dstSpace o.dst (Spec.copyTo o o.cursor) n .write p s1 →
     (isBinSpace o.dstSpace = false → s1.writeWaits core (s.wainUp o) p = false) →
     Spec.SideAt s1 core o o.srcSpace o.src (Spec.copyFrom o o.cursor) n .read q s2 →
     (isBinSpace o.srcSpace = false → s2.readWaits core (s.wainUp o) q = false ∧ s2.poisoned q.1 n = false) →
     (s2.barn (barnOf core)).gather = [] → s3 = (if isBinSpace o.srcSpace then s2 else (s2.engineRead core o.ctx q).2) →
     Spec.SideAt s3 core o o.dstSpace o.dst (Spec.copyTo o o.cursor) n .write p' s4 → (s4.barn (barnOf core)).gather = [] →
     (isBinSpace o.dstSpace = false → s4.writeWaits core (s4.wainUp o) p' = false ∧ (o.dstSpace ≠ 4 →
       p'.2.2.2.2 = false ∧ Spec.MarksElsewhere s4 o.ctx p'.2.2.1 p'.1 (p'.1 / 128))) →
     (let t := s.wainBeat core o
      let v := Spec.sideByte s2 core o o.srcSpace q
      0 < n ∧ (∀ j < n, Spec.copyTo o (o.cursor + j) = Spec.copyTo o o.cursor + j ∧
        Spec.copyFrom o (o.cursor + j) = Spec.copyFrom o o.cursor + j ∧
        (if isBinSpace o.dstSpace then Spec.binByte t (spaceBin o.dstSpace) o.uid (p'.1 + j) = v j
         else if o.dstSpace = 4 then memByte t.mem (p'.1 + j) = v j else Spec.l1Byte (t.barn (barnOf core)) (p'.1 + j) (v j))) ∧
      (List.find? (fun (x : WainOp) => x.id == o.id) (t.core core).wainRun).map (·.cursor) = some (o.cursor + n))) ∧
   (∀ core tag s o st sid, (s.core core).wainRun.find? (fun o => o.tag == tag) = some o → o.stopped = 0 → o.total ≤ o.cursor →
     o.cursor = o.total → o.held = [] → s.wainReading o = false → (∀ m ∈ o.written, s.msgs.find? m.1 = none) →
     s.stook? o.uid = some st → st.parked = false → sid ∈ st.sheaves → (s.sheaf? sid).isSome → (∀ sh, s.sheaf? o.sid = some sh → sh.watch = []) →
     ∃ t, exec (.wainComplete core tag) s = .next t ∧ Spec.CoreOnly s t core { s.core core with
       wainRun := (s.core core).wainRun.filter (fun x => x.id != o.id)
       tags := (s.core core).tags.put tag ⟨.ready, some o.uid, o.kind, 0, o.total⟩ }) ∧
   (∀ core tag s, ∃ t, exec (.cpyhCreditTimeout core tag) s = .next t ∧ Spec.CoreOnly s t core { s.core core with
       wainRun := (s.core core).wainRun.map (fun o =>
         if o.tag = tag ∧ o.kind = 3 ∧ o.cursor < o.total ∧ o.stopped = 0 then { o with stopped := 3 } else o) }) ∧
   (∀ die id s o tag st sid, s.pfl2.find? (fun o => o.die == die && o.id == id) = some o → o.tag = some tag →
     s.stook? o.uid = some st → st.parked = false → sid ∈ st.sheaves → (s.sheaf? sid).isSome →
     (∀ sh, s.sheaf? o.sid = some sh → sh.watch = []) → s.waits = [] →
     ∃ t n, exec (.pfl2Complete die id) s = .next t ∧ t.pfl2 = s.pfl2.filter (fun x => x.id != id) ∧
       (t.core o.core).tag tag = ⟨.ready, some o.uid, 4, 0, n⟩ ∧ n ≤ o.len ∧ t.sheaves = s.sheaves ∧ t.stooks = s.stooks))

namespace Sys2Proof.Spec

open Sys2Proof Sys2Proof.Machine Sys2Proof.Safety

/-! ### Special registers and traps (06 R115 to R118, 19 R316 to R329) -/

/-- The value that a special register reads (Table 6.2). -/
def sprReads (s : State) (k : Ctx) (st : Stook) (c : Crop) (r : Spr) (v : Nat) : Prop :=
  match r with
  | .sheaf => v = k.sh.idx
  | .stookX => v = if k.sh.serves.isSome then 0 else st.linear % recGx c.record
  | .stookY => v = if k.sh.serves.isSome then 0 else st.linear / recGx c.record % recGy c.record
  | .stookZ => v = if k.sh.serves.isSome then 0 else st.linear / (recGx c.record * recGy c.record)
  | .crop => k.sh.serves = none → v = c.seq % 2 ^ 32
  | .width => v = k.sh.width
  | .role => v = k.sh.role
  | .core => (∀ n, n < v → (s.part c.part).ltp[n]? ≠ some k.sh.core) ∧
      (k.sh.core ∈ (s.part c.part).ltp → (s.part c.part).ltp[v]? = some k.sh.core)
  | .barn => v = k.sh.core % 88 / 4
  | .die => v = k.sh.core / 88
  | .ncore => v = (s.part c.part).ltp.length
  | .cycles => v = (s.clock - Config.skew k.sh.core) % 2 ^ 64
  | .pennants => ∀ t < 64, v.testBit t = true ↔
      ((s.core k.sh.core).tag t).holder = some k.sh.uid ∧ ((s.core k.sh.core).tag t).st = .ready
  | .chdepth => (∀ l < 64, l < k.sh.width → (k.sh.lane l).exited = false → (k.sh.lane l).depth ≤ v) ∧
      (v = 0 ∨ ∃ l, l < k.sh.width ∧ l < 64 ∧ (k.sh.lane l).exited = false ∧ (k.sh.lane l).depth = v)
  | .binw => v = 4096 * st.wUnits
  | .bina => v = 4096 * st.aUnits
  | .binc => v = 4096 * st.cUnits
  | .ctx => v = k.sh.ctx
  | .prio => v = k.sh.prio
/-- A value as a register, or as a pair for sr.cycles and sr.pennants. -/
def sprWords (r : Spr) (v : Nat) : List Word :=
  match r with
  | .cycles => [BitVec.ofNat 32 v, BitVec.ofNat 32 (v / 2 ^ 32)]
  | .pennants => [BitVec.ofNat 32 v, BitVec.ofNat 32 (v / 2 ^ 32)]
  | _ => [BitVec.ofNat 32 v]
/-- A group of uniform registers written, every other one as before. -/
def SregsAfter (sh shu : Sheaf) (d : SReg) (ws : List Word) : Prop :=
  ∀ j, shu.sreg j = match d with
    | .s n => if n.val ≤ j ∧ j < n.val + ws.length then ws.getD (j - n.val) 0 else sh.sreg j
    | .z => sh.sreg j
/-- The limits of a launch record, by their codes (17 Tables 17.3 to 17.5 and 17.7). -/
def violates (s : State) (p : Part) (r : List Byte) (code : Nat) : Prop :=
  let f := fieldNat r
  let shape := f 0x1C 4
  let bits (w lo n : Nat) : Nat := w / 2 ^ lo % 2 ^ n
  let n := bits shape 12 3
  let pair := bits shape 18 1
  let det := bits shape 19 1
  let role (k : Nat) : Nat := f (0x20 + 4 * k) 4
  let big (x : Need) : Prop := 32 < x.sheaves ∨ 262144 < x.regs ∨ 65536 < x.chaff
  match code with
  | 1 => bits shape 27 5 ≠ 0 ∨ bits shape 22 2 ≠ 0 ∨ bits shape 15 1 ≠ 0 ∨ bits shape 11 1 ≠ 0 ∨ (n ≠ 0 ∧ bits shape 0 11 ≠ 0) ∨
      (∃ k < 4, k < n ∧ (bits (role k) 16 16 ≠ 0 ∨ bits (role k) 10 2 ≠ 0 ∨ bits (role k) 5 3 ≠ 0) ∨ n ≤ k ∧ k < 4 ∧ role k ≠ 0) ∨
      f 0x33 1 ≠ 0 ∨ bits (f 0x34 4) 16 16 ≠ 0 ∨ bits (f 0x34 4) 2 6 ≠ 0 ∨ f 0x78 8 ≠ 0 ∨ (det = 0 ∧ f 0x38 8 ≠ 0) ∨
      4 < n ∨ bits shape 16 2 = 3 ∨ (bits shape 20 1 = 1 ∧ det = 0)
  | 2 => (∃ k < 3, f (0x10 + 4 * k) 4 = 0 ∨ 65536 < f (0x10 + 4 * k) 4) ∨ 2 ^ 24 < f 0x10 4 * f 0x14 4 * f 0x18 4
  | 3 => (∃ k < n, bits (role k) 0 5 = 0) ∨ 16 < (recSheaves r).length
  | 4 => (n = 0 ∧ (bits shape 7 4 = 0 ∨ 12 < bits shape 7 4)) ∨ (∃ k < n, bits (role k) 12 4 = 0 ∨ 12 < bits (role k) 12 4) ∨
      big (needOn r 0) ∨ (pair = 1 ∧ big (needOn r 1))
  | 5 => 64 * (pair + 1) < f 0x30 1 ∨ 64 * (pair + 1) < f 0x31 1 ∨ 32 * (pair + 1) < f 0x32 1
  | 6 => f 0x40 8 % 64 ≠ 0 ∨ f 0x48 8 % 64 ≠ 0 ∨ f 0x48 8 < f 0x40 8
  | 7 => f 0x00 8 % 4 ≠ 0 ∨ f 0x70 8 % 16 ≠ 0 ∨ ∃ k < 4, f (0x50 + 8 * k) 8 / 2 % 4 ≠ 0
  | 8 => det = 1 ∧ (f 0x38 8 = 0 ∨ f 0x38 8 % 128 ≠ 0)
  | 10 => pair = 1 ∧ bits shape 16 2 = 2
  | 11 => ∀ seat ∈ p.seats (seatSize r), ∃ c ∈ seat, (s.core c).st ≠ .usable
  | _ => False
/-- A selector of the register window: class, and index within it (Table 19.5). -/
def selector (cls ix : Nat) : Nat := 4096 * cls + ix

end Sys2Proof.Spec
open Sys2Proof Sys2Proof.Machine Sys2Proof.Safety

/-! ## What every instruction shares -/

/-- 02 R35, R47, 05 R88, 06 R108: with no path issuing, or its sheaf frozen, nothing happens; a privileged instruction
outside a trap sheaf raises PRIV, else a group beyond the budget REGB, else an invalid latch named in a lane of E LATCH in
those lanes; and where no lane is in E, only the path moves on. -/
def Obligations.SharedChecks : Prop :=
  ∀ i s, i.raw.isSome = true →
    (s.cur = none → exec i s = .next s) ∧
    ∀ cur sh k, s.cur = some cur → s.sheaf? cur.sid = some sh → k = ctxOf i cur sh s.clock →
      (sh.frozen = true → exec i s = .next s) ∧
      (sh.frozen = false →
        (i.privileged = true → sh.serves = none → Traps i k s .priv k.path 0) ∧
        ((i.privileged = true → sh.serves ≠ none) →
          ((∃ u ∈ i.srcs ++ i.dsts, ∃ n, u.base = .v n ∧ sh.budget < n.val + u.count) → Traps i k s .regb k.path 0) ∧
          ((∀ u ∈ i.srcs ++ i.dsts, ∀ n, u.base = .v n → n.val + u.count ≤ sh.budget) →
            (∀ m, k.replay = none → m ≠ 0 → (∀ l < 64, m.getLsbD l = true ↔ l < sh.width ∧ k.e.getLsbD l = true ∧
                ∃ u ∈ i.srcs, ∃ n, u.base = .b n ∧ (sh.lane l).latchValid n = false) → Traps i k s .latch m 0) ∧
            ((k.replay = none → ∀ l < 64, l < sh.width → k.e.getLsbD l = true → ∀ u ∈ i.srcs, ∀ n, u.base = .b n →
                (sh.lane l).latchValid n = true) → k.e = 0 →
              ∃ t, exec i s = .next t ∧ LanesOnly i s t k (fun _ x => x) (fun _ x => goesOn i k x)))))

/-! ## Traps -/

/-- 19 R317, R318, R323, R389: a trap that has a handler freezes its sheaf, keeps what it raised, and withdraws the
unperformed instructions into the replay queue, in issue order, the faulting one first; no register, mask or predicate
of the sheaf and no other sheaf changes, requests are dropped at most, and a release that reports failed lines (12
R223) has reported them. Its barn gathers nothing that the release of the freeze would publish. Without a handler the
sheaf's stook is killed; in a trap sheaf that stook and the sheaf it serves are. -/
def Obligations.TrapEntry : Prop :=
  (∀ (s : State) sid sh (tr : TrapInfo) f, s.sheaf? sid = some sh → sh.serves = none → s.handled sh.ctx tr.code = true →
    (s.barn (barnOf sh.core)).gather = [] →
    ∃ sh', (s.takeTrap sid tr f).sheaf? sid = some sh' ∧ sh'.frozen = true ∧ sh'.trap = some tr ∧
      sh'.slot = none ∧ sh'.resuming = false ∧
      { sh' with frozen := sh.frozen, trap := sh.trap, slot := sh.slot, resuming := sh.resuming, flights := sh.flights
                 replay := sh.replay, lanes := sh.lanes } = sh ∧
      (∀ l < 64, sh'.lane l = if f = none ∧ tr.code = 12 ∧ tr.lanes.getLsbD l = true then { sh.lane l with failed := [] }
        else sh.lane l) ∧
      (∀ x, x ∈ sh'.replay ↔ x ∈ sh.replay ∨ ∃ y ∈ sh.flights, y ∉ sh'.flights ∧
        x = ⟨y.words, y.words.length, true, y.e, y.pc, y.ops, y.ctx, y.ord⟩) ∧
      (f = none → sh.replay.Pairwise (fun a b => a.ord ≤ b.ord) → sh'.replay.Pairwise (fun a b => a.ord ≤ b.ord)) ∧
      (∀ i y, f = some i → sh.flights.filter (fun x => some x.id = f) = [y] →
        sh'.replay.head? = some ⟨y.words, y.words.length, true, y.e, y.pc, y.ops, y.ctx, y.ord⟩) ∧
      (∀ y ∈ sh'.flights, y ∈ sh.flights) ∧
      (∀ x, x ≠ sid → (s.takeTrap sid tr f).sheaf? x = s.sheaf? x) ∧
      { s.takeTrap sid tr f with sheaves := s.sheaves, msgs := s.msgs } = s ∧
      ∀ m ∈ (s.takeTrap sid tr f).msgs, m ∈ s.msgs) ∧
  (∀ (s : State) sid sh st (tr : TrapInfo) f, s.sheaf? sid = some sh → sh.serves = none → s.handled sh.ctx tr.code = false →
    s.stook? sh.uid = some st → sid ∈ st.sheaves → st.trapStook = false → s.stooks.sorted = true →
    (s.takeTrap sid tr f).sheaf? sid = none ∧ (s.takeTrap sid tr f).stook? sh.uid = none) ∧
  (∀ (s : State) sid sh st t v vt (tr : TrapInfo) f, s.sheaf? sid = some sh → sh.serves = some t → s.sheaf? t = some v → s.stooks.sorted = true →
    s.stook? sh.uid = some st → sid ∈ st.sheaves → st.trapStook = true → t ∉ st.sheaves →
    s.stook? v.uid = some vt → t ∈ vt.sheaves → vt.trapStook = false → v.uid ≠ sh.uid →
    (s.takeTrap sid tr f).sheaf? sid = none ∧ (s.takeTrap sid tr f).sheaf? t = none)

/-- 19 R329: TRAP and BRK complete, and then raise their cause with the value of A in INFO, at their own address, in
the lanes of E. 02 R28, 19 R316, Table 19.1: an encoding without meaning raises ILL for the path; a failed fetch
raises its trap, and a fetch that met fault records parks the path on them at the first word not fetched; a device
without an issuing path does nothing. -/
def Obligations.TrapsRaised : Prop :=
  (∀ i g a c s k, (i = .trapB32 g a ∧ c = 0x15 ∨ i = .trapX64 g a ∧ c = 0x15 ∨ i = .brkB32 g a ∧ c = 0x13 ∨
       i = .brkX64 g a ∧ c = 0x13) → Issues i s k →
     ∃ v tr, exec i s = .next (v.takeTrap k.sid tr none) ∧ LanesOnly i s v k (fun _ x => x) (fun _ x => passed k x) ∧
       tr = { code := c, pc := k.pc, addr := 0, lanes := k.e, path := k.path, info := (Spec.SA k a).zeroExtend 64
              fetch := false, engine := false, fail := [] }) ∧
  ((∀ (s : State) c, s.cur = some c → exec .illegalEncoding s = .next (s.takeTrap c.sid
     { code := 1, pc := c.pc, addr := 0, lanes := c.lanes, path := c.lanes, info := 0, fetch := false, engine := false, fail := [] } none)) ∧
   (∀ (s : State) c t, s.cur = some c → c.fault = some t → c.recs = [] → exec .instructionFetchFault s = .next (s.takeTrap c.sid t none)) ∧
   (∀ (s : State) c sh, s.cur = some c → c.recs ≠ [] → s.sheaf? c.sid = some sh →
     ∃ t sh' f, exec .instructionFetchFault s = .next t ∧ { t with sheaves := s.sheaves, nextId := s.nextId } = s ∧
       t.sheaf? c.sid = some sh' ∧ { sh' with flights := sh.flights } = sh ∧ sh'.flights = sh.flights ++ [f] ∧
       f.stage = .parked c.recs ∧ f.path = c.lanes ∧ f.pc = c.pc ∧ f.e = 0 ∧
       ∀ a ∈ f.accs, a.va = (c.fault.map (·.addr)).getD c.pc) ∧
   (∀ s : State, s.cur = none → exec .illegalEncoding s = .next s ∧ exec .instructionFetchFault s = .next s))

/-- 19 R317, R320 to R322: a trapped sheaf whose release has nothing to wait for, whose context has a free record slot and
whose barn has a core with room gets its
trap stook: the lowest free slot holds its record, and one sheaf of width 8 and budget 32 stands at the handler of the
cause, its address with bits 1:0 cleared (02 R27), s0:s1 at the record, serving it. 19 Tables 19.3 and 19.4: the 256 bytes of the
record. -/
def Obligations.TrapStookStarts : Prop :=
  (∀ sid (s : State) sh tr slot core pa pte hd ho s1, s.sheaf? sid = some sh → sh.trap = some tr → sh.slot = none →
    s.freeSlot sh.ctx = some slot → s.trapCore sh.core = some core →
    ((s.stookOf sh).map (·.parked)).getD false = false → s.sheafHeld sh = false → s.owes sid sh.full = false →
    (s.barn (barnOf sh.core)).gather = [] → (s1.barn (barnOf sh.core)).gather = [] →
    (let va : DWord := BitVec.ofNat 64 (s.recBase sh.ctx / 256 * 256 + 256 * slot)
     s.translate none sh.ctx va .write true = (.ok pa pte hd ho, s1) → s1.writeWaits sh.core (s1.hostLinkOf sid) (pa, 256, pte, hd, true) = false →
     (isPeer pa = true → s1.hasRoute (peerOf pa) = true) → sid < s1.nextId →
     (let s2 := (s1.writeRecord sh (pa, 256, pte, hd, ho) (trapRecord s1 sh tr)).modSheaf sid (fun x => { x with slot := some slot })
      ∃ t tsid h, exec (.trapStookStart sid) s = .next t ∧ t.sheaf? tsid = some h ∧ h.serves = some sid ∧ h.core = core ∧
        h.width = 8 ∧ h.budget = 32 ∧ h.prio = 8 ∧ h.ctx = sh.ctx ∧ h.frozen = false ∧
        (∀ l < 8, (h.lane l).pc = BitVec.ofNat 64 ((s2.placeOn core).handler sh.ctx tr.code) &&& ~~~3 ∧ (h.lane l).exited = false) ∧
        h.sreg 0 = BitVec.ofNat 32 va.toNat ∧ h.sreg 1 = BitVec.ofNat 32 (va.toNat / 2 ^ 32) ∧
        (t.sheaf? sid).bind (·.slot) = some slot ∧
        (isPeer pa = false →
          (isHost pa = true ∨ ∀ line, pa / 128 ≤ line → line ≤ (pa + 255) / 128 → Spec.MarksElsewhere s1 sh.ctx pte pa line) →
          ∀ j < 256, memByte t.mem (pa + j) = (trapRecord s1 sh tr).getD j 0) ∧
        (isHost pa = false → isPeer pa = true → ∃ m, t.msgs.find? m =
          some ⟨.peer (barnOf sh.core) 0 0 sh.core pa 256 (some (trapRecord s1 sh tr)) none true, []⟩)))) ∧
  (∀ (s : State) (sh : Sheaf) (tr : TrapInfo) st c, s.stookOf sh = some st → s.cropOf st = some c → sh.width ∈ [8, 16, 32, 64] →
    (let b := trapRecord s sh tr
     let cause := tr.code + (if tr.fetch then 2 ^ 8 else 0) + (if tr.engine then 2 ^ 9 else 0) +
       2 ^ 16 * (sh.replay.filter (fun e => e.valid)).length
     b.length = 256 ∧
     (∀ x ∈ [(0x00, 4, 1), (0x04, 4, cause), (0x08, 4, c.seq), (0x0C, 4, st.linear),
         (0x10, 4, sh.idx + 2 ^ 8 * (Nat.log2 sh.width - 3)), (0x14, 4, sh.ctx), (0x18, 8, tr.pc.toNat), (0x20, 8, tr.addr.toNat),
         (0x28, 8, tr.lanes.toNat), (0x30, 8, tr.path.toNat), (0x38, 8, tr.info.toNat), (0x40, 4, tr.fail.length), (0x44, 4, 0)],
       fieldNat b x.1 x.2.1 = x.2.2 % 2 ^ (8 * x.2.1)) ∧
     (∀ i < 16, fieldNat b (0x48 + 8 * i) 8 = tr.fail.getD i 0 % 2 ^ 64) ∧ ∀ i < 56, b.getD (0xC8 + i) 0 = 0))

/-! ## Special registers and the register window -/

/-- 06 R115 to R118: SRD gives the value of each special register of Table 6.2, the coordinates as 0 in a
trap sheaf (log 54) and the cycles as this core's counter has them (log 107); SWR writes sr.ctx of a trap sheaf, and
sr.prio clamped to the crop's priority, where a write with bit 3 set, or of a trap sheaf, is ignored. -/
def Obligations.SpecialRegisters : Prop :=
  (∀ i g d r s k st c, (i = .srdB32 g d r ∨ i = .srdX64 g d r) → i.wf = true → Issues i s k →
    s.stookOf k.sh = some st → s.cropOf st = some c →
    ∃ u shu v, Leaves i k s u ∧ u.sheaf? k.sid = some shu ∧ u.mem = s.mem ∧ u.cores = s.cores ∧
      Spec.sprReads s k st c r v ∧ { shu with lanes := k.sh.lanes, s := k.sh.s } = k.sh ∧
      Spec.SregsAfter k.sh shu d (Spec.sprWords r v) ∧
      ∀ l < 64, Spec.Acquired k.sh (if r = .pennants ∧ v ≠ 0 then k.path else 0) l (shu.lane l)) ∧
  (∀ i g a s k, (i = .swrB32 g .ctx a ∨ i = .swrX64 g .ctx a) → Issues i s k →
    ∃ u shu, Leaves i k s u ∧ { u with sheaves := s.sheaves } = s ∧ u.sheaf? k.sid = some shu ∧
      shu = { k.sh with ctx := (Spec.SA k a).toNat % 2 ^ 12 }) ∧
  (∀ i g a s k, (i = .swrB32 g .prio a ∨ i = .swrX64 g .prio a) → Issues i s k →
    ∃ u shu, Leaves i k s u ∧ { u with sheaves := s.sheaves } = s ∧ u.sheaf? k.sid = some shu ∧
      shu = { k.sh with prio := if (Spec.SA k a).getLsbD 3 = true ∨ k.sh.serves.isSome then k.sh.prio
                                else min ((Spec.SA k a).toNat % 8) k.sh.maxPrio })

/-- 19 R324, R326: TWRD gives the named word of the served sheaf, and TWWR writes it, where the selector names one that
the sheaf holds; a selector that names none reads 0 and writes nothing. 19 Table 19.6: what a word of the window is, for a
lane of the sheaf, and that a write of a writable word is read back: program counters (bits 1:0 cleared), lane registers
below the budget, predicates, hold words that name a hold, JOIN addresses, the depth lowered, chaff entries on chip, masks (bits
at and above the width cleared), uniform registers and predicates, replay entries. A write of a latch, of the exit bit or of a
larger depth is ignored. -/
def Obligations.WindowAccess : Prop :=
  ((∀ g d a b s k sid t, (Instr.twrd g d a b).wf = true → Issues (.twrd g d a b) s k → k.sh.serves = some sid →
     s.sheaf? sid = some t →
     (windowOk t (Spec.SA k a).toNat (Spec.SB k b).toNat = true → memEntry t (Spec.SA k a).toNat (Spec.SB k b).toNat = none) →
     ∃ x, exec (.twrd g d a b) s = .next x ∧ UniResult (.twrd g d a b) s x k d
       [if windowOk t (Spec.SA k a).toNat (Spec.SB k b).toNat then windowRead t (Spec.SA k a).toNat (Spec.SB k b).toNat else 0]) ∧
   (∀ g a b c s k sid t, Issues (.twwr g a b c) s k → k.sh.serves = some sid → s.sheaf? sid = some t →
     (windowOk t (Spec.SA k a).toNat (Spec.SB k b).toNat = false → Leaves (.twwr g a b c) k s s) ∧
     (windowOk t (Spec.SA k a).toNat (Spec.SB k b).toNat = true → memEntry t (Spec.SA k a).toNat (Spec.SB k b).toNat = none →
       ∃ u, Leaves (.twwr g a b c) k s u ∧
         { u with sheaves := s.sheaves, cores := s.cores } = s ∧ (∀ x, x ≠ sid → u.sheaf? x = s.sheaf? x) ∧
         u.sheaf? sid = some (windowWrite (s.joinLen t.core t.ctx) t (Spec.SA k a).toNat (Spec.SB k b).toNat (Spec.SC k c))))) ∧
  (∀ (t : Sheaf) len lane (v : Word), lane < t.width → lane < 64 →
     windowRead t (Spec.selector 0 0) lane = BitVec.ofNat 32 (t.lane lane).pc.toNat ∧
     windowRead t (Spec.selector 0 1) lane = BitVec.ofNat 32 ((t.lane lane).pc.toNat / 2 ^ 32) ∧
     (∀ r < 96, r < t.budget → windowRead t (Spec.selector 1 r) lane = t.vreg r lane ∧
       windowRead (windowWrite len t (Spec.selector 1 r) lane v) (Spec.selector 1 r) lane = v ∧
       ∀ r' l', l' < 64 → (r' ≠ r ∨ l' ≠ lane) → (windowWrite len t (Spec.selector 1 r) lane v).vreg r' l' = t.vreg r' l') ∧
     windowRead t (Spec.selector 2 0) lane = BitVec.ofNat 32 (t.lane lane).preds.toNat ∧
     windowRead t (Spec.selector 2 4) lane = BitVec.ofNat 32 (t.lane lane).depth ∧
     windowRead t (Spec.selector 3 0) lane = (t.lane lane).b0 ∧
     windowRead t (Spec.selector 3 3) lane = (t.lane lane).b3 ∧
     windowRead (windowWrite len t (Spec.selector 0 0) lane v) (Spec.selector 0 0) lane = v &&& ~~~3 ∧
     windowRead (windowWrite len t (Spec.selector 0 1) lane v) (Spec.selector 0 1) lane = v ∧
     windowRead (windowWrite len t (Spec.selector 2 0) lane v) (Spec.selector 2 0) lane = v &&& 0x7F ∧
     (v.toNat < (t.lane lane).depth → windowRead (windowWrite len t (Spec.selector 2 4) lane v) (Spec.selector 2 4) lane = v) ∧
     (∀ n < 24, windowRead t (Spec.selector 6 n) lane = t.sreg n ∧
       windowRead (windowWrite len t (Spec.selector 6 n) lane v) (Spec.selector 6 n) lane = v) ∧
     windowRead (windowWrite len t (Spec.selector 6 24) lane v) (Spec.selector 6 24) lane = v &&& 0x7F ∧
     (∀ m : Fin 12, windowRead t (Spec.selector 5 (2 * m.val)) lane = BitVec.ofNat 32 (t.mask m).toNat ∧
       windowRead t (Spec.selector 5 (2 * m.val + 1)) lane = BitVec.ofNat 32 ((t.mask m).toNat / 2 ^ 32) ∧
       (∀ half < 2, let w := windowWrite len t (Spec.selector 5 (2 * m.val + half)) lane v
         (∀ j < 32, (windowRead w (Spec.selector 5 (2 * m.val + half)) lane).getLsbD j =
           (v.getLsbD j && decide (32 * half + j < t.width))) ∧ ∀ n : Fin 12, n ≠ m → w.mask n = t.mask n))) ∧
  (∀ (t : Sheaf) len lane (v : Word), lane < t.width → lane < 64 →
     (let back (cls ix : Nat) : Word := windowRead (windowWrite len t (Spec.selector cls ix) lane v) (Spec.selector cls ix) lane
      windowRead t (Spec.selector 2 1) lane = (match (t.lane lane).hold with
        | .none => 0
        | .join m _ _ => BitVec.ofNat 32 (16 * m.val + 1)
        | .waitm m => BitVec.ofNat 32 (16 * m.val + 2)) ∧
      ((v.toNat % 4 = 1 ∨ v.toNat % 4 = 2) → v.toNat / 16 % 16 < 12 → back 2 1 = v &&& 0xF3) ∧
      (v.toNat % 4 = 0 → ((windowWrite len t (Spec.selector 2 1) lane v).lane lane).hold = .none ∧ back 2 1 = 0) ∧
      windowRead t (Spec.selector 2 2) lane = BitVec.ofNat 32 (t.lane lane).joinAt.toNat ∧
      windowRead t (Spec.selector 2 3) lane = BitVec.ofNat 32 ((t.lane lane).joinAt.toNat / 2 ^ 32) ∧
      back 2 2 = v ∧ back 2 3 = v ∧
      ((t.lane lane).depth ≤ v.toNat → back 2 4 = BitVec.ofNat 32 (t.lane lane).depth) ∧
      windowRead t (Spec.selector 2 5) lane = (if (t.lane lane).exited then 1 else 0) ∧
      windowWrite len t (Spec.selector 2 5) lane v = t ∧
      windowRead t (Spec.selector 3 1) lane = (t.lane lane).b1 ∧ windowRead t (Spec.selector 3 2) lane = (t.lane lane).b2 ∧
      windowRead t (Spec.selector 3 4) lane = BitVec.ofNat 32 (t.lane lane).bvalid.toNat ∧
      (∀ n < 5, windowWrite len t (Spec.selector 3 n) lane v = t) ∧
      (∀ e < 16, ∀ x, (t.lane lane).chip[e]? = some x → e < (t.lane lane).depth →
        windowRead t (Spec.selector 4 (2 * e)) lane = x.payload ∧
        windowRead t (Spec.selector 4 (2 * e + 1)) lane = BitVec.ofNat 32 x.tag.toNat ∧
        back 4 (2 * e) = v ∧ back 4 (2 * e + 1) = v &&& 0xFF) ∧
      (∀ e < 16, (t.lane lane).depth ≤ e →
        windowRead t (Spec.selector 4 (2 * e)) lane = 0 ∧ windowRead t (Spec.selector 4 (2 * e + 1)) lane = 0) ∧
      ∀ e < 8,
        (∀ r, t.replay[e]? = some r →
          (∀ f < 3, windowRead t (Spec.selector 7 (32 * e + f)) lane = r.words.getD f 0) ∧
          windowRead t (Spec.selector 7 (32 * e + 3)) lane = BitVec.ofNat 32 (r.len % 4 + (if r.valid then 2 ^ 31 else 0)) ∧
          windowRead t (Spec.selector 7 (32 * e + 4)) lane = BitVec.ofNat 32 r.e.toNat ∧
          windowRead t (Spec.selector 7 (32 * e + 5)) lane = BitVec.ofNat 32 (r.e.toNat / 2 ^ 32) ∧
          windowRead t (Spec.selector 7 (32 * e + 6)) lane = BitVec.ofNat 32 r.pc.toNat ∧
          windowRead t (Spec.selector 7 (32 * e + 7)) lane = BitVec.ofNat 32 (r.pc.toNat / 2 ^ 32) ∧
          ∀ f < 16, windowRead t (Spec.selector 7 (32 * e + 16 + f)) lane = (r.ops.getD lane []).getD f 0) ∧
        (t.replay.length ≤ e → ∀ f < 32, windowRead t (Spec.selector 7 (32 * e + f)) lane = 0) ∧
        (∀ f, f < 3 ∨ f = 4 ∨ f = 5 ∨ f = 7 ∨ 16 ≤ f ∧ f < 32 → back 7 (32 * e + f) = v) ∧
        back 7 (32 * e + 3) = v &&& 0x80000003 ∧ back 7 (32 * e + 6) = v &&& ~~~3 ∧
        ∀ f, 8 ≤ f → f < 16 → back 7 (32 * e + f) = 0))

/-- 19 R327, R328: TRES with nothing for its release to wait for resumes the served sheaf, its latches invalid, its replay
queue without the entries that the handler dropped, and the trap sheaf exits; where no entry is left the record slot is free
and the pending classes are cleared at once, else both wait until the entries have executed. TKILL removes every stook of the
rick of the served sheaf, and with them the trap stooks that serve its other sheaves; its own sheaf exits. -/
def Obligations.TrapEnds : Prop :=
  (∀ g s k sid t, Issues (.tres g) s k → k.sh.serves = some sid → s.sheaf? sid = some t → sid ≠ k.sid → t.held = [] → t.watchq = [] →
    Spec.Quiet s k →
    ∃ u shu t', LeavesBut (.tres g) k s u (if k.replay.isNone then k.path else 0) ∧ u.sheaf? k.sid = some shu ∧
      u.sheaf? sid = some t' ∧ u.mem = s.mem ∧ u.cores = s.cores ∧ u.stooks = s.stooks ∧
      (∀ l < 64, l < k.sh.width → (shu.lane l).exited = true ∧ (shu.lane l).hold = .none) ∧
      { shu with lanes := k.sh.lanes } = k.sh ∧
      { t' with lanes := t.lanes, replay := t.replay, frozen := t.frozen, trap := t.trap, slot := t.slot, resuming := t.resuming } = t ∧
      (let rp := t.replay.filter (fun e => e.valid)
       t'.frozen = false ∧ t'.trap = none ∧ t'.replay = rp ∧ t'.slot = (if rp = [] then none else t.slot) ∧
       t'.resuming = decide (rp ≠ []) ∧
       ∀ l < 64, t'.lane l = if l < t.width then
           { t.lane l with bvalid := 0, pend := if rp = [] then .sh else (t.lane l).pend }
         else t.lane l)) ∧
  (∀ g s k sid t st vt, Issues (.tkill g) s k → k.sh.serves = some sid → s.sheaf? sid = some t → sid ≠ k.sid →
    s.stooks.sorted = true → s.stookOf k.sh = some st → st.trapStook = true → s.stook? t.uid = some vt → sid ∈ vt.sheaves →
    vt.trapStook = false → (∀ x ∈ s.stooks, k.sid ∈ x.2.sheaves → x.1 = k.sh.uid) → t.uid ≠ k.sh.uid → k.sh.flights = [] →
    ∃ u shu, Leaves (.tkill g) k s u ∧ u.sheaf? sid = none ∧ u.stook? t.uid = none ∧
      (∀ x ∈ s.stooks, x.2.crop = vt.crop → x.2.rick = vt.rick → x.2.trapStook = false → u.stook? x.1 = none) ∧
      (∀ x ∈ s.stooks, x.2.trapStook = true → x.1 ≠ k.sh.uid →
        (∃ y ∈ x.2.sheaves, ∃ h z, s.sheaf? y = some h ∧ h.serves = some z ∧ ∃ v ∈ s.rickOf vt, z ∈ v.2.sheaves) →
        u.stook? x.1 = none) ∧
      u.sheaf? k.sid = some shu ∧ ∀ l < 64, l < k.sh.width → (shu.lane l).exited = true ∧ (shu.lane l).hold = .none)

/-! ## Launch, the barrier, the token -/

/-- 17 R301: a BAR whose sheaf is the stook's only one, with every unfinished lane on its path and nothing for its release
to wait for, completes at once, its lanes acquiring at .ST; where some unfinished lane of the sheaf is elsewhere, the path
stands at it. 18 R309 to R313: TKWAIT and TKPASS have no effect outside deterministic mode and in a trap sheaf; in a
deterministic crop TKWAIT of the stook that holds the token goes on with an acquire at .SY and that of another stands;
TKPASS of another raises WRANGE, and that of the holder, with nothing under way, completes a round and moves the token. -/
def Obligations.BarriersAndTokens : Prop :=
  ((∀ i g s k st, (i = .barB32 g ∨ i = .barX64 g) → Issues i s k → Spec.Quiet s k → Spec.AtPc k →
     s.stookOf k.sh = some st → s.sheavesOf st = [(k.sid, k.sh)] → st.merge = [] →
     (∀ c ∈ st.cores, (s.barn (barnOf c)).gather = []) → k.sh.live &&& ~~~k.path = 0 →
     k.path &&& ~~~k.sh.full = 0 →
     ∃ u shu, Leaves i k s u ∧ u.sheaf? k.sid = some shu ∧ u.mem = s.mem ∧ u.cores = s.cores ∧
       { shu with lanes := k.sh.lanes } = k.sh ∧
       ∀ l < 64, { shu.lane l with pc := (k.sh.lane l).pc } =
         if k.path.getLsbD l then { k.sh.lane l with pend := .sh } else k.sh.lane l) ∧
   (∀ i g s k st, (i = .barB32 g ∨ i = .barX64 g) → Issues i s k → Spec.Quiet s k →
     s.stookOf k.sh = some st → st.trapStook = false → k.sid ∈ st.sheaves → k.sh.live &&& ~~~k.path ≠ 0 →
     ∃ u shu f, LeavesBut i k s u (if k.replay.isNone then k.path else 0) ∧
       { u with sheaves := s.sheaves, nextId := s.nextId } = s ∧ u.sheaf? k.sid = some shu ∧
       { shu with flights := k.sh.flights } = k.sh ∧ shu.flights = k.sh.flights ++ [f] ∧ f.instr = i ∧ f.path = k.path)) ∧
  (∀ i g s k st c pass, (i = .tkwaitB32 g ∧ pass = false ∨ i = .tkwaitX64 g ∧ pass = false ∨ i = .tkpassB32 g ∧ pass = true ∨
       i = .tkpassX64 g ∧ pass = true) → Issues i s k → s.stookOf k.sh = some st → s.cropOf st = some c →
     ((c.det = false ∨ st.trapStook = true) → Leaves i k s s) ∧
     (c.det = true → st.trapStook = false → st.holdsToken c = false →
       (pass = true → Traps i k s .wrange k.path 0) ∧
       (pass = false → ∃ u shu f, LeavesBut i k s u (if k.replay.isNone then k.path else 0) ∧
         { u with sheaves := s.sheaves, nextId := s.nextId } = s ∧ u.sheaf? k.sid = some shu ∧
         { shu with flights := k.sh.flights } = k.sh ∧ shu.flights = k.sh.flights ++ [f] ∧ f.instr = i ∧ f.path = k.path)) ∧
     (c.det = true → st.trapStook = false → st.holdsToken c = true → Spec.Quiet s k → Spec.AtPc k →
       k.path &&& ~~~k.sh.full = 0 →
       (pass = false → ∃ u shu, Leaves i k s u ∧ u.sheaf? k.sid = some shu ∧ u.mem = s.mem ∧ u.crops = s.crops ∧
         u.stooks = s.stooks ∧ { shu with lanes := k.sh.lanes } = k.sh ∧
         ∀ l < 64, { shu.lane l with pc := (k.sh.lane l).pc } =
           if k.path.getLsbD l then { k.sh.lane l with pend := .sh } else k.sh.lane l) ∧
       (pass = true → (∀ n, (s.addFlight k i .waiting true []).2.tokenBusy k.sh.uid n st = false) →
         ∃ u shu, Leaves i k s u ∧ u.sheaf? k.sid = some shu ∧ u.mem = s.mem ∧ { shu with lanes := k.sh.lanes } = k.sh ∧
           u.stook? k.sh.uid = some { st with round := st.round + 1 } ∧
           u.crop? st.crop = some (if st.round < st.redo then c else c.moveToken))))

/-- 17 R300: a LAUNCH with nothing for its release to wait for copies the 128 bytes of the record into the ring's slot and
records the doorbell, giving 0; where the ring is full it gives 1 and changes no queue and no byte of memory. 17 R302: a CCWAIT on a
counter of device memory that no L1 owns goes on where the counter, read as signed, is at or below 0, with its value in D
and an acquire at .SY; above 0 it takes a wait entry at the home, if one is free, and stands. -/
def Obligations.LaunchAndCounterWaits : Prop :=
  (∀ g d a b s k st c xs s1 x y s2, (Instr.launch g d a b).wf = true → Issues (.launch g d a b) s k → Spec.Quiet s k →
     s.stookOf k.sh = some st → s.cropOf st = some c →
     (let qn := (Spec.SB k b).toNat
      let i : Instr := .launch g d a b
      qn ≤ 63 → k.sh.watch = [] → c.part = (s.queue qn).part → (s.queue qn).devprod = true → (s.queue qn).enable = true →
      (k.pairA a.reg 0).toNat % 128 = 0 → s.launchXlate k.sh.core k.ctx qn (k.pairA a.reg 0) = (.ok xs, s1) →
      (s1.addFlight k i .releasing false []).2.launchXlate k.sh.core k.ctx qn (k.pairA a.reg 0) = (.ok [x, y], s2) →
      s2.unitWaits (x.2.2.1, 128, x.2.2.2.1, x.2.2.2.2.1, x.2.2.2.2.2) = false →
      s2.unitWaits (y.2.2.1, 128, y.2.2.2.1, y.2.2.2.2.1, y.2.2.2.2.2) = false →
      (isHost y.2.2.1 = false → isPeer y.2.2.1 = false → ∀ h ∈ halvesOf y.2.2.1 128, s2.hostHolds h = false) →
      (isHost x.2.2.1 = true ∨ isHost y.2.2.1 = true → s2.hostLinkOf k.sid = true) →
      ∃ u shu, Leaves i k s u ∧ u.sheaf? k.sid = some shu ∧ shu.flights = [] ∧ shu.regs = k.sh.regs ∧
       (let q := s2.queue qn
        let full := decide (q.size ≤ q.tail - q.head)
        Spec.SregsAfter k.sh shu d [if full then 1 else 0] ∧
        (full = true → u.mem = s2.mem ∧ u.queues = s2.queues) ∧
        (full = false → (u.queue qn).tail = q.tail + 1 ∧ (u.queue qn).head = q.head ∧
           (u.queue qn).bells = q.within (q.tail + 1) ++ [(q.tail + 1, s2.bell)] ∧ u.bell = s2.bell + 1 ∧
           (isHost y.2.2.1 = true ∨ isPeer y.2.2.1 = true ∨ (∀ line, y.2.2.1 / 128 ≤ line → line ≤ (y.2.2.1 + 127) / 128 →
               Spec.MarksElsewhere s2 q.ctx y.2.2.2.1 y.2.2.1 line) →
             ∀ j < 128, memByte u.mem (y.2.2.1 + j) = (s2.physRead x.2.2.1 128).getD j 0))))) ∧
  (∀ i g d a s k x s1, (i = .ccwaitB32 g d a ∨ i = .ccwaitX64 g d a) → i.wf = true → Issues i s k →
     (k.pairA a.reg 0).toNat % 8 = 0 → k.sh.watch = [] →
     s.xlateLanes (some k.sh.core) k.ctx .read [(64, k.pairA a.reg 0)] = (.ok [x], s1) → Spec.Local s1 [x] →
     (∀ wa ∈ wordsOf x.2.2.1 8, s1.ownerOf wa = none) → s1.hostMod x.2.2.1 = false → k.sh.flights = [] →
     (let v : DWord := BitVec.ofNat 64 (natOfBytes (s1.cohRead x.2.2.1 8))
      (v.toInt ≤ 0 → Spec.AtPc k →
        ∃ u shu, Leaves i k s u ∧ u.sheaf? k.sid = some shu ∧ u.mem = s1.mem ∧ u.waits = s1.waits ∧
         { shu with lanes := k.sh.lanes, s := k.sh.s } = k.sh ∧ Spec.SregsAfter k.sh shu d (Spec.pair v) ∧
         ∀ l < 64, { shu.lane l with pc := (k.sh.lane l).pc } =
           if k.path.getLsbD l then { k.sh.lane l with pend := .sh } else k.sh.lane l) ∧
      (0 < v.toInt → (∀ e ∈ s1.waits, e.sid ≠ k.sid) →
        (s1.waits.filter (fun e => e.hd == x.2.2.2.2.1 && sliceOf e.pa == sliceOf x.2.2.1)).length < 128 →
        ∃ u shu f w, LeavesBut i k s u (if k.replay.isNone then k.path else 0) ∧ u.sheaf? k.sid = some shu ∧ u.mem = s1.mem ∧
         { shu with flights := k.sh.flights } = k.sh ∧ shu.flights = [f] ∧ f.instr = i ∧ f.path = k.path ∧
         u.waits = s1.waits ++ [w] ∧ w.sid = k.sid ∧ w.flight = f.id ∧ w.pa = x.2.2.1 ∧ w.n = 8 ∧ w.counter = true)))

/-! ## Steps of the dispatcher -/

/-- 17 R287, R288, R291, R292: a doorbell beyond the ring is rejected with code 12, any other is recorded in its order; a
record made available is taken with the next launch number, drawn at the take (log 15), and the ring advances; one whose DEP
words have bit 1 or 2 set is rejected there with code 7; once every dependence is at or below zero, a record that violates no
limit of Table 17.7 becomes a crop with the lesser of its priority and its queue's, and one that violates some is rejected with
the least code among them. -/
def Obligations.LaunchQueueSteps : Prop :=
  (∀ (s : State) n value, s.hostVis = true → (s.queue n).devprod = false → n < 64 →
    (let q := s.queue n
     (q.size < value - q.head → ∃ t, exec (.qtailDoorbell n value) s = .next t ∧ { t with queues := s.queues } = s ∧
        t.queue n = { q with err := BitVec.ofNat 32 (256 * (q.err.toNat / 256 + 1) + 12) }) ∧
     (¬q.size < value - q.head → ∃ t, exec (.qtailDoorbell n value) s = .next t ∧
        { t with queues := s.queues, bell := s.bell } = s ∧ t.bell = s.bell + 1 ∧
        t.queue n = { q with tail := value, bells := q.within value ++ [(value, s.bell)] }))) ∧
  (∀ (s : State) n order pa pte hd ho s1, (s.queue n).taken = none → (s.queue n).order = some order → (s.queue n).enable = true →
    (s.queue n).recs = [] → s.partHeld (s.queue n).part = false → n < 64 →
    s.translate none (s.queue n).ctx ((s.queue n).slotVa (s.queue n).head) .read true = (.ok pa pte hd ho, s1) →
    s1.unitWaits (pa, 128, pte, hd, ho) = false → (isHost pa = true → s1.fnUp (s.queue n).fn = true) →
    ((∀ k < 4, recDep (s1.physRead pa 128) k = 0) →
      ∃ t, exec (.recordTake n) s = .next t ∧ t.cropSeq = s1.cropSeq + 1 ∧
        (t.queue n).head = (s1.queue n).head + 1 ∧ (t.queue n).taken = some ⟨s1.physRead pa 128, order, s1.cropSeq, 0, [], []⟩) ∧
    ((∃ k < 4, recDep (s1.physRead pa 128) k / 2 % 4 ≠ 0) →
      ∃ t, exec (.recordTake n) s = .next t ∧ t.cropSeq = s1.cropSeq ∧ (t.queue n).taken = none ∧
        (t.queue n).head = (s.queue n).head + 1 ∧
        (t.queue n).err = BitVec.ofNat 32 (256 * ((s.queue n).err.toNat / 256 + 1) + 7))) ∧
  (∀ (s : State) n tk, (s.queue n).taken = some tk →
    (∀ k < 4, recDep tk.record k = 0 ∨ tk.met.getLsbD k = true) →
    (∀ code, Spec.violates s (s.part (s.queue n).part) tk.record code →
        (∀ c, Spec.violates s (s.part (s.queue n).part) tk.record c → code ≤ c) →
      ∃ t, exec (.dependencesMet n) s = .next t ∧ t.crops = s.crops ∧ (t.queue n).taken = none ∧
        (t.queue n).err = BitVec.ofNat 32 (256 * ((s.queue n).err.toNat / 256 + 1) + code)) ∧
    ((∀ c, ¬Spec.violates s (s.part (s.queue n).part) tk.record c) →
      ∃ t c, exec (.dependencesMet n) s = .next t ∧ t.crop? s.nextId = some c ∧ (t.queue n).taken = none ∧
        c.record = tk.record ∧ c.seq = tk.seq ∧ c.prio = min (recPrio tk.record) (s.queue n).maxPrio ∧ c.next = 0 ∧
        c.ctx = (s.queue n).ctx ∧ c.part = (s.queue n).part))

/-- 17 R295, R296: a round of dealing places the next rick of the one waiting crop at the one seat with room for it; a
stook as it is placed holds its sheaves with every lane at the record's start address, s0:s1 at its arguments, registers,
masks and predicates zero, and its bins empty. -/
def Obligations.Placement : Prop :=
  (∀ (s : State) part key c seat n t, s.partDue (s.part part) = false → s.partHeld part = false → s.waiting part = [(key, c)] →
    s.restoreFirst part c.prio = false → s.eligible (s.part part) c.record = [seat] → s.crop? key = some c →
    c.nextRick = some n → s.seatFits c.record seat (rickStooks c.record n).length = true →
    s.placeRick key c n seat = some t → exec (.dealRound part) s = .next t) ∧
  (∀ (s : State) part, s.waiting part = [] → exec (.dealRound part) s = .next s) ∧
  (∀ (s : State) key rick rank lin size cores ranges c, s.crop? key = some c →
    ∃ st, (s.placeStook key rick rank lin size cores ranges).stook? s.nextId = some st ∧ st.crop = key ∧ st.linear = lin ∧
      st.rank = rank ∧ st.cores = cores ∧ st.binW = [] ∧ st.binA = [] ∧ st.binC = [] ∧ st.parked = false ∧
      st.wUnits = recBinW c.record ∧ st.aUnits = recBinA c.record ∧ st.cUnits = recBinC c.record ∧
      st.sheaves.length = (recSheaves c.record).length ∧
      ∀ sid ∈ st.sheaves, ∃ sh, (s.placeStook key rick rank lin size cores ranges).sheaf? sid = some sh ∧
        sh.uid = s.nextId ∧ sh.ctx = c.ctx ∧ sh.prio = c.prio ∧ sh.frozen = false ∧ sh.flights = [] ∧ sh.q = 0 ∧
        (∀ l < 64, l < sh.width → (sh.lane l).pc = BitVec.ofNat 64 (fieldNat c.record 0 8) ∧ (sh.lane l).preds = 0 ∧
          (sh.lane l).bvalid = 0 ∧ (sh.lane l).depth = 0) ∧
        (∀ r l, sh.vreg r l = 0) ∧ (∀ m, sh.mask m = 0) ∧
        sh.sreg 0 = BitVec.ofNat 32 (fieldNat c.record 8 8) ∧ sh.sreg 1 = BitVec.ofNat 32 (fieldNat c.record 8 8 / 2 ^ 32) ∧
        ∀ n, 2 ≤ n → sh.sreg n = 0)

/-- 17 R293, R297: a stook with no sheaf, operation, tag or write left retires, leaving the machine and counting in
its crop; a crop that is done and whose cores have all passed their scans is confirmed and leaves; a write of PCOMMIT
latches the entry as it stands and asks for a reconfiguration, which takes place once the partition is empty: its
page's generation rises by 2. -/
def Obligations.RetirementAndPartitions : Prop :=
  (∀ (s : State) uid k, s.stook? uid = some k → s.retirable uid k = true → s.stooks.sorted = true →
    (∀ core ∈ k.cores, (s.barn (barnOf core)).gather = []) →
    ∃ t, exec (.stookRetire uid) s = .next t ∧ t.stook? uid = none ∧ t.mem = s.mem ∧ t.cores = s.cores ∧
      (k.trapStook = true → t.crops = s.crops) ∧
      (k.trapStook = false → t.crop? k.crop = (s.crop? k.crop).map (fun c =>
        c.count k.pos (dieOf (k.cores.headD 0)) (Nat.max k.round k.redo)))) ∧
  (∀ (s : State) seq key c, s.crops.find? key = some c → s.crops.sorted = true → c.seq = seq → c.done = true → c.cores = [] →
    (∀ e ∈ s.crops, e.2.seq = seq → e.1 = key) →
    ∃ t, exec (.cropConfirm seq) s = .next t ∧ t.crop? key = none ∧ (∀ x, x ≠ key → t.crop? x = s.crop? x) ∧
      { t with crops := s.crops, owed := s.owed } = s ∧
      ∃ o, t.owed = s.owed ++ [o] ∧ o.due = .confirmed c.suspect (confIrq c.record)) ∧
  (∀ (s : State) part, part < 16 → s.hostVis = true → ∃ t, exec (.partitionCommit part) s = .next t ∧ { t with parts := s.parts } = s ∧
    t.part part = { s.part part with pending := true, maskDue := (s.part part).maskReg, pageDue := (s.part part).pageReg } ∧ ∀ x, x ≠ part → t.part x = s.part x) ∧
  (∀ (s : State) part, (s.part part).pending = true → s.partBusy part = false → s.partHeld part = false →
    (∀ h ∈ halvesOf (s.place (s.part part).pageDue.toNat).canon 4096, s.hostHolds h = false) →
    ∃ t, exec (.reconfiguration part) s = .next t ∧ (t.part part).pending = false ∧ (t.part part).defined = true ∧
      (t.part part).gen = (s.part part).gen + 2 ∧ (t.part part).page = (s.part part).pageDue ∧
      (∀ b < 88, (t.part part).mask.testBit b =
        ((s.part part).maskDue.testBit b && !(s.claimed part).testBit b)) ∧
      ∀ x, x ≠ part → t.part x = s.part x)

namespace Sys2Proof.Spec

open Sys2Proof Sys2Proof.Machine Sys2Proof.Safety

/-! ### Fitted regions (15 R261 to R276) -/

/-- Coordinate j of a lane's pair (R266). -/
def coord (x : DWord) (j : Nat) : Nat := (x.extractLsb' (16 * j) 16).toNat
/-- Every coordinate is below its extent. -/
def InDomain (f : RgnFields) (x : DWord) : Prop := ∀ j < f.dims, coord x j < f.extent.getD j 1
/-- The key of R266: each coordinate weighted by the product of the extents before it. -/
def keyOf (f : RgnFields) (x : DWord) : Nat :=
  ((List.range f.dims).map (fun j => coord x j * (f.extent.take j).prod)).sum
/-- The fields that a home latches are those of some descriptor: one extent per dimension, one to four dimensions. -/
def Latched (f : RgnFields) : Prop := 1 ≤ f.dims ∧ f.dims ≤ 4 ∧ f.extent.length = f.dims ∧ ∀ e ∈ f.extent, 1 ≤ e
/-- The home reads the region's areas, in whatever state the sheaves are, and the bytes are those of `rd`: the
parameters and the slots of a generation's list. Nothing differs after a read but what free values are applied to: the
areas' leaf entries have AC set. -/
def Readable (s : State) (r : Region) (g : Nat) (rd : Nat → Nat → List Byte) : Prop :=
  ∀ u : State, { u with sheaves := s.sheaves, tick := s.tick } = s →
    (∃ u', homeRead r.ctx (r.slot g) (2 * r.f.params) u = .ok (rd (r.slot g) (2 * r.f.params), u') ∧ { u' with tick := u.tick } = u) ∧
    ∀ i < r.f.cap, ∃ u', homeRead r.ctx (r.area g + 16 * i) 16 u = .ok (rd (r.area g + 16 * i) 16, u') ∧ { u' with tick := u.tick } = u
/-- The parameters of a generation as codes. -/
def params (rd : Nat → Nat → List Byte) (r : Region) (g : Nat) : List Nat :=
  (List.range r.f.params).map (fun j => fieldNat (rd (r.slot g) (2 * r.f.params)) (2 * j) 2)
/-- What a list holds for a key (R267): slots from the key's hash on, round the list, up to the first invalid one. -/
def listed (rd : Nat → Nat → List Byte) (r : Region) (g key : Nat) : Option Nat :=
  let slots := (List.range r.f.cap).map (fun j =>
    rd (r.area g + 16 * ((key * 0x9E3779B1 % 2 ^ 32 / 2 ^ (32 - r.f.logcap) + j) % r.f.cap)) 16)
  ((slots.takeWhile (fun b => fieldNat b 8 1 % 2 = 1)).find? (fun b => fieldNat b 0 4 = key)).map (fun b => fieldNat b 4 4)
/-- The value of a point of the domain (R269): its record's, else the network's at its coordinates. -/
def pointValue (rd : Nat → Nat → List Byte) (r : Region) (x : DWord) : Nat :=
  match listed rd r r.gen (keyOf r.f x) with
  | some v => v % 2 ^ (8 * r.f.bytes)
  | none => evalPoint r.f (params rd r r.gen) (r.f.coords (keyOf r.f x))
/-- The slot of a generation's list in which a key stands, or the free one that it goes to (R267). -/
def SlotOf (rd : Nat → Nat → List Byte) (r : Region) (g key i : Nat) : Prop :=
  ∃ j < r.f.cap,
    let at_ (n : Nat) : Nat := (key * 0x9E3779B1 % 2 ^ 32 / 2 ^ (32 - r.f.logcap) + n) % r.f.cap
    let slot (n : Nat) : List Byte := rd (r.area g + 16 * at_ n) 16
    i = at_ j ∧ (fieldNat (slot j) 8 1 % 2 = 0 ∨ fieldNat (slot j) 0 4 = key) ∧
      ∀ n < j, fieldNat (slot n) 8 1 % 2 = 1 ∧ fieldNat (slot n) 0 4 ≠ key
/-- The home writes 16 bytes of the region at a virtual address as one piece, whatever free values have been drawn. -/
def WritesAt (s : State) (r : Region) (va pa pte hd : Nat) (ho : Bool) : Prop :=
  ∀ u : State, { u with tick := s.tick } = s →
    ∃ u', u.translateAll none r.ctx .write true (pieces va 16) = (.ok [(pa, 16, pte, hd, ho)], u') ∧ { u' with tick := s.tick } = s
/-- The keys and values that the lanes of an FST store. -/
def stored (k : Ctx) (r : Region) (a b : Reg) : List (Nat × Nat) :=
  (lanesOf k.e).map (fun l => (keyOf r.f (k.pairA a l), (B k b l).toNat % 2 ^ (8 * r.f.bytes)))
/-- The state in which a refit sets itself up: its request has left the queue, and it runs. -/
def refitBegun (s : State) (key : Nat) (r : Region) (q : RefitReq) : State :=
  ({ s with refitQ := s.refitQ.put r.hd ((s.refitQ.getD r.hd []).filter (fun y => y.region ≠ key)) } : State).setRegion key
    { r with refit := some ⟨q, r.count, 0, 0, [], [], none, 0, []⟩ }
/-- A build as the home takes its RGNB: the fields that it latches of the descriptor's bytes `d` (R262, R272). -/
def buildTaken (r : Region) (b : Build) (rest : List Build) (d : List Byte) : Region :=
  { r with
    arrivals := rest, building := true, ctx := b.ctx, f := RgnFields.ofBytes d
    build := some { b with key := 0, set := 0, counters :=
      (match b.counter with | some a => [(b.ctx, a)] | none => []) ++ b.counters } }
/-- The state in which it invalidates the records of its list: GEN and COUNT are 0, in the descriptor too. -/
def buildBegun (s : State) (key : Nat) (r : Region) : State :=
  (((s.setRegion key r).setRegion key { r with gen := 0, count := 0 }).homeWrite (key + 8) (bytesOf 8 0) (.die r.hd)).homeWrite
    (key + 16) (bytesOf 4 0) (.die r.hd)
/-- What a refit or a build of the region says of a field of it, for `x` the region after. -/
def Ended (r x : Region) (code : Nat) (counters : List (Nat × DWord)) : Prop :=
  x.refit = none ∧ x.rfres = code ∧ x.gen = r.gen ∧ x.count = r.count ∧ x.owed = r.owed ++ counters

end Sys2Proof.Spec
open Sys2Proof Sys2Proof.Machine Sys2Proof.Safety

/-! ## Fitted regions -/

/-- 15 R266, R269, R271: FLD of a valid region whose areas its home reads gives each lane of E the record's value, the
network's, or, outside the domain, the fill value; outside the domain OOD is set, and the form .T raises FRDOM in the
lanes outside. FST of a valid region with no refit running raises FRDOM there; inside it counts the new keys, writes nothing
beside the descriptor and the records, of which one alone, where its page is, stands in the slot of its key: key, value, VALID;
with no room it sets URGENT and is held. A region neither valid nor building raises FROP;
one that builds holds the instruction at its home, where every lane is in the domain, and traps as a valid one does
where one is not. -/
def Obligations.RegionLoadsAndStores : Prop :=
  (∀ g d a hnd trap s k key r s1 rd, (Instr.fld g d a hnd trap).wf = true → Issues (.fld g d a hnd trap) s k →
    nameRegion s k (handleAt k hnd) = (.region key r, s1) → r.valid = true → s1.dieWaits r.hd = false →
    s1.heldBefore key s1.nextId = false →
    (let i : Instr := .fld g d a hnd trap
     let out := laneSetOf 64 (fun l => k.e.getLsbD l && !(r.f.inDomain (coordsOf (k.pairA a l))))
     (∀ l, out.getLsbD l = true ↔ l < 64 ∧ k.e.getLsbD l = true ∧ ¬Spec.InDomain r.f (k.pairA a l)) ∧
     (trap = true → out ≠ 0 → Traps i k s .frdom out 0) ∧
     (trap = false ∨ out = 0 → (out ≠ 0 → s1.waits = []) → Spec.Latched r.f → Spec.Readable s1 r r.gen rd →
       ∃ u shu, Leaves i k s u ∧ u.sheaf? k.sid = some shu ∧
         { shu with lanes := k.sh.lanes, regs := k.sh.regs } = k.sh ∧
         RegsAfter k shu d (fun l => [if out.getLsbD l then r.f.fill else BitVec.ofNat 32 (Spec.pointValue rd r (k.pairA a l))]) ∧
         (out = 0 → u.regions = s1.regions ∧ u.mem = s1.mem) ∧
         (out ≠ 0 → u.regions.find? key = some { r with ood := true })))) ∧
  (∀ g a b hnd s k key r s1 new s2, (Instr.fst g a b hnd).wf = true → Issues (.fst g a b hnd) s k →
    nameRegion s k (handleAt k hnd) = (.region key r, s1) → r.valid = true → s1.dieWaits r.hd = false → Spec.Latched r.f →
    s1.waits = [] → (∀ st c, s1.stookOf k.sh = some st → s1.cropOf st = some c → st.atomicRefused c = false) →
    s1.heldBefore key s1.nextId = false →
    (let i : Instr := .fst g a b hnd
     let out := laneSetOf 64 (fun l => k.e.getLsbD l && !(r.f.inDomain (coordsOf (k.pairA a l))))
     (out ≠ 0 → Traps i k s .frdom out 0) ∧
     (out = 0 → r.refit = none → newKeys r (((Spec.stored k r a b).map (·.1)).eraseDups) s1 = .ok (new, s2) →
       (r.f.mark < r.count + new.length →
         ∃ u shu f, Leaves i k s u ∧ u.sheaf? k.sid = some shu ∧ { shu with flights := k.sh.flights } = k.sh ∧
           shu.flights = k.sh.flights ++ [f] ∧ f.instr = i ∧ f.stage = .region ∧ f.e = k.e ∧
           u.regions.find? key = some { r with urgent := true }) ∧
       (r.count + new.length ≤ r.f.mark → ∀ ps s3, putAll r r.gen (Spec.stored k r a b) s2 = .ok (ps, s3) →
         ∃ u, Leaves i k s u ∧ u.regions.find? key = some { r with count := r.count + new.length } ∧ u.sheaves = s3.sheaves ∧
          (Spec.Unowned s3 key 256 → (∀ a, ¬(key ≤ a ∧ a < key + 256) → memByte u.mem a = memByte s3.mem a) ∧
           ∀ rd x v n pa pte hd ho, Spec.Readable s2 r r.gen rd → Spec.stored k r a b = [(x, v)] → Spec.SlotOf rd r r.gen x n →
             Spec.WritesAt s2 r (r.area r.gen + 16 * n) pa pte hd ho → (pa + 16 ≤ key ∨ key + 256 ≤ pa) → pa % 16 = 0 →
             (isHost pa = true ∨ Spec.MarksElsewhere s2 r.ctx pte pa (pa / 128)) →
             ∀ j < 16, memByte u.mem (pa + j) = (bytesOf 4 x ++ bytesOf 4 v ++ bytesOf 8 1).getD j 0))))) ∧
  (∀ i h a raises s k key r s1, (∃ g d hnd trap, i = .fld g d a hnd trap ∧ h = handleAt k hnd ∧ raises = trap) ∨
      (∃ g b hnd, i = .fst g a b hnd ∧ h = handleAt k hnd ∧ raises = true) → Issues i s k →
    nameRegion s k h = (.region key r, s1) → r.valid = false →
    (r.building = false → r.arrivals = [] → Traps i k s .frop k.e 0) ∧
    (r.building = true → raises = true → ∀ m, m ≠ 0 →
      (∀ l, m.getLsbD l = true ↔ l < 64 ∧ k.e.getLsbD l = true ∧ ¬Spec.InDomain r.f (k.pairA a l)) → Traps i k s .frdom m 0) ∧
    (r.building = true ∨ r.arrivals ≠ [] →
      (r.building = true → raises = true → ∀ l < 64, k.e.getLsbD l = true → Spec.InDomain r.f (k.pairA a l)) →
      (∀ st c, s1.stookOf k.sh = some st → s1.cropOf st = some c → st.atomicRefused c = false) →
      ∃ u shu f, Leaves i k s u ∧ u.regions = s1.regions ∧ u.mem = s1.mem ∧ u.sheaf? k.sid = some shu ∧
        { shu with flights := k.sh.flights } = k.sh ∧ shu.flights = k.sh.flights ++ [f] ∧ f.instr = i ∧ f.stage = .region ∧ f.e = k.e))

/-- 15 R271 to R273, R276: RGNB of a region neither valid nor building, with nothing for its release to wait for, sends
its build to the home, and raises FROP of one that is; RFIT, released at once, joins the refit that runs or waits for the
region, or is queued; RGNQ writes STATUS and COUNT, clears OOD and retires the region as its control word says. -/
def Obligations.RegionRequests : Prop :=
  (∀ g a b c pitch s k key r s1, (Instr.rgnb g a b c pitch).wf = true → Issues (.rgnb g a b c pitch) s k →
    nameRegion s k (Spec.SA k a) = (.region key r, s1) →
    (let i : Instr := .rgnb g a b c pitch
     let n := (RgnFields.ofBytes (s1.physRead key 256)).bytes
     let ctr := if c = .z then none else some (k.pairC c.reg 0)
     (r.valid = true ∨ r.building = true → Traps i k s .frop k.e 0) ∧
     (r.valid = false → r.building = false → (k.pairB b.reg 0).toNat % n = 0 → pitch.toNat % n = 0 →
       (∀ x, ctr = some x → x.toNat % 8 = 0) →
       (∀ st cr, s1.stookOf k.sh = some st → s1.cropOf st = some cr → st.atomicRefused cr = false) → Spec.Quiet s1 k →
       ∃ u, Leaves i k s u ∧ u.mem = s1.mem ∧ u.sheaves = s1.sheaves ∧
         u.regions.find? key = some { r with
           arrivals := r.arrivals ++ [⟨k.ctx, k.pairB b.reg 0, pitch.toNat, ctr, k.sh.uid, 0, [], [], [], 0, k.sid, k.path⟩] }))) ∧
  (∀ g a b c s k key r s1, (Instr.rfit g a b c).wf = true → Issues (.rfit g a b c) s k →
    nameRegion s k (Spec.SA k a) = (.region key r, s1) → s1.regions.find? key = some r →
    (let i : Instr := .rfit g a b c
     let ctr := if c = .z then none else some (k.pairC c.reg 0)
     let prop := if b = .z then none else some (k.pairB b.reg 0)
     let mine := match ctr with | some x => [(k.ctx, x)] | none => []
     let tok := if s1.tokenOf k.sh then [k.sh.uid] else []
     let q := s1.refitQ.getD r.hd []
     (r.valid = false → r.building = false → r.arrivals = [] → Traps i k s .frop k.e 0) ∧
     (r.valid = true ∨ r.building = true → (∀ x, ctr = some x → x.toNat % 8 = 0) → (∀ x, prop = some x → x.toNat % 8 = 0) →
       Spec.Quiet s1 k →
       (∀ x, r.refit = some x → ∃ u, Leaves i k s u ∧ u.refitQ = s1.refitQ ∧ u.sheaves = s1.sheaves ∧
         u.regions.find? key = some { r with refit := some { x with
           req := { x.req with counters := x.req.counters ++ mine, uids := x.req.uids ++ tok } } }) ∧
       (r.refit = none → q.any (fun x => x.region = key) = true → ∃ u, Leaves i k s u ∧ u.regions = s1.regions ∧
         u.refitQ.getD r.hd [] = q.map (fun x => if x.region = key then
           { x with counters := x.counters ++ mine, uids := x.uids ++ tok } else x)) ∧
       (r.refit = none → q.any (fun x => x.region = key) = false → q.length < 16 → ∃ u, Leaves i k s u ∧ u.regions = s1.regions ∧
         u.refitQ.getD r.hd [] = q ++ [⟨key, k.ctx, prop, mine, false, tok⟩]) ∧
       (r.refit = none → q.any (fun x => x.region = key) = false → 16 ≤ q.length → exec i s = .next s)))) ∧
  (∀ g d a b s k key r s1, (Instr.rgnq g d a b).wf = true → Issues (.rgnq g d a b) s k →
    nameRegion s k (Spec.SA k a) = (.region key r, s1) → s1.regions.find? key = some r → r.err < 256 → r.rfres < 16 →
    s1.waits = [] →
    ∃ u shu status, Leaves (.rgnq g d a b) k s u ∧ u.sheaf? k.sid = some shu ∧
      { shu with s := k.sh.s, flights := k.sh.flights } = k.sh ∧
      ((Spec.SB k b).getLsbD 1 = false ∨ (∀ x, r.refit = some x → x.req.urgent = false) → shu.flights = k.sh.flights) ∧
      Spec.SregsAfter k.sh shu d [status, BitVec.ofNat 32 r.count] ∧
      status.getLsbD 0 = r.valid ∧ status.getLsbD 1 = r.building ∧ status.getLsbD 2 = r.refit.isSome ∧ status.getLsbD 3 = r.urgent ∧
      status.getLsbD 4 = r.ood ∧ status.extractLsb' 5 3 = 0 ∧ status.extractLsb' 8 8 = BitVec.ofNat 8 r.err ∧
      status.extractLsb' 16 4 = 0 ∧ status.extractLsb' 20 4 = BitVec.ofNat 4 r.rfres ∧ status.extractLsb' 24 8 = BitVec.ofNat 8 r.gen ∧
      ((Spec.SB k b).getLsbD 0 = false → (Spec.SB k b).getLsbD 1 = false → u.regions = s1.regions ∧ u.mem = s1.mem) ∧
      ((Spec.SB k b).getLsbD 0 = true → (Spec.SB k b).getLsbD 1 = false → u.regions.find? key = some { r with ood := false }) ∧
      ((Spec.SB k b).getLsbD 1 = true → ∃ x, u.regions.find? key = some x ∧ x.valid = false ∧ x.refit = none ∧
        (r.refit.isSome → x.rfres = 2)))

/-- 15 R262, R271, R272, R274: a home builds from the first RGNB that reaches it, latching the fields, with GEN and COUNT 0 and
every record of its list invalidated; one with an error ends with its code and its counter owed, and the refits queued for the region end with it; a second only adds its
counter. A key within the bound leaves the list as it is, and after the last key the region is valid. 15 R270, R273,
R274: a die's winnower starts its first request whose region is ready, and a region without room its urgent refit
ahead of every request, whose counters join it; the sweep ends where the new list is no smaller than the old; the
commit, where it is, makes the new generation live in one step, and otherwise the refit is abandoned. -/
def Obligations.RegionSteps : Prop :=
  ((∀ (s : State) key r, s.regions.find? key = some r → s.dieWaits r.hd = false → s.ctxHeld r.ctx = false →
     (let queued := (s.refitQ.getD r.hd []).filter (fun y => y.region = key)
     (∀ b rest x, r.arrivals = b :: rest → r.build = some x →
       ∃ t, exec (.buildStep key) s = .next t ∧ { t with regions := s.regions } = s ∧ t.regions.find? key = some { r with
         arrivals := rest
         build := some { x with counters := x.counters ++ (match b.counter with | some a => [(b.ctx, a)] | none => []),
                                uids := x.uids ++ [b.uid] } }) ∧
     (∀ b rest, r.arrivals = b :: rest → r.build = none → r.valid = true →
       ∃ t, exec (.buildStep key) s = .next t ∧ { t with regions := s.regions } = s ∧ t.regions.find? key = some { r with
         arrivals := rest, owed := r.owed ++ (match b.counter with | some a => [(b.ctx, a)] | none => []) }) ∧
     (∀ b rest, r.arrivals = b :: rest → r.build = none → r.valid = false →
       rgnError (s.physRead key 256) (RgnFields.ofBytes (s.physRead key 256)) ≠ 0 →
       ∃ t, exec (.buildStep key) s = .next t ∧ t.regions.find? key = some { r with
         arrivals := rest, ctx := b.ctx, f := RgnFields.ofBytes (s.physRead key 256), building := false, valid := false, build := none
         err := rgnError (s.physRead key 256) (RgnFields.ofBytes (s.physRead key 256))
         rfres := if queued = [] then r.rfres else 2
         owed := r.owed ++ ((match b.counter with | some a => [(b.ctx, a)] | none => []) ++ b.counters) ++ queued.flatMap (·.counters) }) ∧
     (∀ b rest s2, r.arrivals = b :: rest → r.build = none → r.valid = false →
       rgnError (s.physRead key 256) (RgnFields.ofBytes (s.physRead key 256)) = 0 →
       (let r0 := Spec.buildTaken r b rest (s.physRead key 256)
        let r1 : Region := { r0 with gen := 0, count := 0 }
        Home.upTo (homeMark r1.ctx (r1.slot 0) 1024 :: clearArea r1 0) 0 (Spec.buildBegun s key r0) = (s2, 1 + r1.f.cap, none) →
        ∃ t, exec (.buildStep key) s = .next t ∧ t.mem = s2.mem ∧ t.sheaves = s2.sheaves ∧ t.regions.find? key = some
          { r1 with build := r0.build.map (fun x => { x with set := 1 + r1.f.cap }) })) ∧
     (∀ b, r.arrivals = [] → r.build = some b → b.recs = [] → 1 + r.f.cap ≤ b.set → r.f.points ≤ b.key →
       ∃ t, exec (.buildStep key) s = .next t ∧ t.regions.find? key = some { r with
         build := none, building := false, valid := true, err := 0, owed := r.owed ++ b.counters }) ∧
     (∀ b ref p s1 s2, r.arrivals = [] → r.build = some b → b.recs = [] → 1 + r.f.cap ≤ b.set → b.key < r.f.points →
       homeRead b.ctx (b.refVa.toNat + b.key / r.f.extent.headD 1 * (if b.pitch = 0 then r.f.extent.headD 1 * r.f.bytes else b.pitch) +
         b.key % r.f.extent.headD 1 * r.f.bytes) r.f.bytes s = .ok (ref, s1) → paramsOf r 0 s1 = .ok (p, s2) →
       (let net := evalPoint r.f p (r.f.coords b.key)
        (withinEps r.f net (natOfBytes ref) = true →
          ∃ t, exec (.buildStep key) s = .next t ∧ t.regions.find? key = some { r with build := some { b with key := b.key + 1 } }) ∧
        (∀ s3, withinEps r.f net (natOfBytes ref) = false → putKey r 0 b.key (natOfBytes ref) false s2 = .ok (.new, s3) →
          ∃ t, exec (.buildStep key) s = .next t ∧
           (r.count + 1 ≤ r.f.mark → t.regions.find? key = some { r with
             count := r.count + 1, build := some { b with key := b.key + 1 } }) ∧
           (r.f.mark < r.count + 1 → t.regions.find? key = some { r with
             count := r.count + 1, build := none, building := false, valid := false, err := 7
             rfres := if queued = [] then r.rfres else 2
             owed := r.owed ++ b.counters ++ queued.flatMap (·.counters) }))))))) ∧
  ((∀ (s : State) die q rest key r, s.refitQ.getD die [] = q :: rest → q.region = key → s.regions.find? key = some r → r.hd = die →
     r.building = false → r.arrivals = [] → s.ctxHeld r.ctx = false → s.refitting die = false → s.dieWaits die = false →
     s.urgentDue die = false →
     (r.valid = false → ∃ t, exec (.refitStart die) s = .next t ∧ t.regions.find? key = some { r with
         rfres := 2, owed := r.owed ++ ((q :: rest).filter (fun y => y.region = key)).flatMap (·.counters) } ∧ ∀ x ∈ t.refitQ.getD die [], x.region ≠ key) ∧
     (∀ s1 s2 bs, r.valid = true → refitProposal q (Spec.refitBegun s key r q) = .ok (bs, s1) →
         Home.upTo (refitSteps r bs) 0 s1 = (s2, 64 + r.f.cap, none) → ∃ t pages, exec (.refitStart die) s = .next t ∧
         t.regions.find? key = some { r with refit := some ⟨q, r.count, 0, 0, [], [], some bs, 64 + r.f.cap, pages⟩ } ∧
         ∀ x ∈ t.refitQ.getD die [], x.region ≠ key)) ∧
   (∀ (s : State) key r s1 s2 bs, s.regions.find? key = some r → r.urgent = true → r.valid = true → r.refit = none →
     s.refitting r.hd = false → s.dieWaits r.hd = false → s.ctxHeld r.ctx = false →
     (let mine := (s.refitQ.getD r.hd []).filter (fun x => x.region = key)
      let q : RefitReq := ⟨key, r.ctx, none, mine.flatMap (·.counters), true, mine.flatMap (·.uids)⟩
      refitProposal q (Spec.refitBegun s key r q) = .ok (bs, s1) → Home.upTo (refitSteps r bs) 0 s1 = (s2, 64 + r.f.cap, none) →
      ∃ t pages, exec (.urgentRefitStart key) s = .next t ∧
       t.regions.find? key = some { r with refit := some ⟨q, r.count, 0, 0, [], [], some bs, 64 + r.f.cap, pages⟩ } ∧
       t.refitQ.getD r.hd [] = (s.refitQ.getD r.hd []).filter (fun x => x.region ≠ key))) ∧
   (∀ (s : State) key r x rd, s.regions.find? key = some r → r.refit = some x → x.recs = [] → 64 + r.f.cap ≤ x.set → x.key < r.f.points →
     s.dieWaits r.hd = false → Spec.Readable s r r.gen rd → Spec.Readable s r (r.gen + 1) rd →
     Spec.listed rd r r.gen x.key = none →
     evalPoint r.f (Spec.params rd r (r.gen + 1)) (r.f.coords x.key) = evalPoint r.f (Spec.params rd r r.gen) (r.f.coords x.key) →
     ∃ t, exec (.refitStep key) s = .next t ∧
       (x.l2 < x.n0 → x.l2 ≤ r.f.mark → t.regions.find? key = some { r with refit := some { x with key := x.key + 1 } }) ∧
       (x.n0 ≤ x.l2 ∨ r.f.mark < x.l2 → ∃ y, t.regions.find? key = some y ∧ Spec.Ended r y 2 x.req.counters)) ∧
   (∀ (s : State) key r x, s.regions.find? key = some r → r.refit = some x → r.f.points ≤ x.key →
     (x.l2 < x.n0 → ∃ t u, exec (.refitCommit key) s = .next t ∧ t.regions.find? key = some { r with
       gen := r.gen + 1, count := x.l2, rfres := 1, refit := none, urgent := u, owed := r.owed ++ x.req.counters } ∧
       (x.req.urgent = false → u = r.urgent) ∧ (x.req.urgent = true → s.waits = [] → u = (r.urgent && s.roomWanted key))) ∧
     (x.n0 ≤ x.l2 → ∃ t y, exec (.refitCommit key) s = .next t ∧ t.regions.find? key = some y ∧ Spec.Ended r y 2 x.req.counters)))

namespace Sys2Proof.Spec

open Sys2Proof Sys2Proof.Machine Sys2Proof.Safety

/-! ### Homes and outside agents (12 R208 to R224, 13 R232 to R242, 20 R341) -/

/-- At most one barn's record names the word (R208). -/
def OneOwner (s : State) (wa : Nat) : Prop := ((s.home (wa / 32)).owners.filter (fun o => o.2 &&& wordBit wa != 0)).length ≤ 1
/-- Two elements combined (R349): addition in a format rounded once, of integers modulo their width; the smaller or greater
under the type's signedness; or. -/
def joined (op : CollOp) (ty : Ty) (a b : Nat) : Nat :=
  let signed (x : Nat) : Int := if (ty = .s32 ∨ ty = .s64) ∧ 2 ^ (ty.bits - 1) ≤ x then (x : Int) - 2 ^ ty.bits else x
  match op, ty == .f32 || ty == .bf16 with
  | .add, true => addE .rn (fmtOf ty) a b
  | .min, true => minE true (fmtOf ty) a b
  | .max, true => maxE true (fmtOf ty) a b
  | .add, false => (a + b) % 2 ^ ty.bits
  | .min, false => if signed b < signed a then b else a
  | .max, false => if signed b < signed a then a else b
  | .or, _ => a ||| b
/-- `value` gives each rank the value of its subtree of the group, its own element `own` combined with those of its children,
in ascending rank (R346, R349). -/
def TreeValues (op : CollOp) (ty : Ty) (g : Group) (own value : Nat → Nat) : Prop :=
  ∀ r < g.nmemb, value r =
    (((List.range g.fanout).map (fun j => g.fanout * r + 1 + j)).filter (fun c => decide (c < g.nmemb))).foldl
      (fun v c => joined op ty v (value c)) (own r)
/-- Every die's memory has come up (21 R361). -/
def StacksReady (s : State) : Prop := ∀ d < 4, s.dieWaits d = false ∧ s.dieFailed d = false
/-- Exactly these bytes of memory change, to these values; no barn owns them after. -/
def Stored (s t : State) (pa : Nat) (bs : List Byte) : Prop :=
  (∀ j < bs.length, memByte t.mem (pa + j) = bs.getD j 0) ∧
  (∀ a, ¬(pa ≤ a ∧ a < pa + bs.length) → memByte t.mem a = memByte s.mem a) ∧ Unowned t pa bs.length
/-- Only a message goes. -/
def MsgGone (s t : State) (m : Nat) : Prop := { t with msgs := s.msgs } = s ∧ t.msgs = s.msgs.erase m
/-- The registers of one lane after a load. -/
def LaneLoaded (sh shu : Sheaf) (d : Reg) (lane : Nat) (ws : List Word) : Prop :=
  ∀ r l, l < 64 → shu.vreg r l =
    match d with
    | .v m => if l = lane ∧ m.val ≤ r ∧ r < m.val + ws.length then ws.getD (r - m.val) 0 else sh.vreg r l
    | _ => sh.vreg r l

end Sys2Proof.Spec
open Sys2Proof Sys2Proof.Machine Sys2Proof.Safety

/-! ## Ownership of words -/

/-- 12 R210 to R213, R219, R220; 13 R232, R239, R242: a registration that nothing holds back makes its barn the owner, or,
of a watched word without an owner, nobody; its acknowledgement ends it; a recall takes the words from the barn; an owner
answers a forwarded read with the coherent value, a barn that owns the word no longer refuses; a reply completes a load
with the home's bytes under the barn's own; an atomic at the home leaves what its lanes applied one after the other leave;
a write-back leaves the eviction buffer; an L1 gives up unowned words, and owned words to its buffer, and nothing while the
buffer is full; a gather copy is
combined into its word; a line evicted at the home loses its owners and its waiters. -/
def Obligations.OwnershipSteps : Prop :=
  (∀ (s : State) m b wa n hd ctx pte w, s.msgs.find? m = some ⟨.reg b wa n hd ctx pte false, w⟩ → s.hostHolds (4 * wa) = false →
    s.dieWaits hd = false → 1 ≤ n → (wa + n - 1) / 32 = wa / 32 →
    (n = 1 ∨ ∀ j < n, s.ownerOf (wa + j) = none ∨ s.ownerOf (wa + j) = some b) →
    (∀ j < n, s.thirdRead (wa + j) = false ∧ Spec.OneOwner s (wa + j) ∧
      s.thirdRead (Nat.xor (wa + j) 1) = false ∧ Spec.MarksElsewhere s ctx pte (4 * (wa + j)) (wa / 32)) →
    ∃ t, exec (.registration m) s = .next t ∧ t.msgs.find? m = some ⟨.reg b wa n hd ctx pte true, w⟩ ∧
      (t.home (wa / 32)).last = some (.barn b) ∧ (∀ j < n, s.watched (wa + j) = false → t.ownerOf (wa + j) = some b) ∧
      (s.watched wa = true → s.ownerOf wa = none → t.ownerOf wa = none)) ∧
  (∀ (s : State) m b wa n, ∀ hd ctx pte : Nat, ∀ w, s.msgs.find? m = some ⟨.reg b wa n hd ctx pte true, w⟩ →
    ∃ t, exec (.registrationAck m) s = .next t ∧ Spec.MsgGone s t m) ∧
  (∀ (s : State) b line words, (∀ j < 32, Spec.OneOwner s (32 * line + j)) →
    ∃ t, exec (.ownerRecall b line words) s = .next t ∧ (s.waits = [] → t.sheaves = s.sheaves) ∧
      ∀ j < 32, words.getLsbD j = true → t.ownerOf (32 * line + j) ≠ some b) ∧
  (∀ (s : State) m b sid f acc pa n hd acq o refused w,
    s.msgs.find? m = some ⟨.read b sid f acc pa n hd acq (some o) refused none, w⟩ →
    (((s.barn o).ownedWord (pa / 4)).isSome → ∃ t, exec (.forwardedRead m) s = .next t ∧ { t with msgs := s.msgs } = s ∧
      t.msgs.find? m = some ⟨.read b sid f acc pa n hd acq (some o) refused (some (s.cohRead pa n)), w⟩) ∧
    ((s.barn o).ownedWord (pa / 4) = none → ∃ t, exec (.readRefusal m) s = .next t ∧ { t with msgs := s.msgs } = s ∧
      t.msgs.find? m = some ⟨.read b sid f acc pa n hd acq (if 1 ≤ refused then none else s.ownerOf (pa / 4)) (refused + 1) none, w⟩)) ∧
  (∀ (s : State) m b sid fid pa hd fwd refused fixed w sh f a sx g d ra size scope off,
    s.msgs.find? m = some ⟨.read b sid fid 0 pa (Size.bytes size) hd none fwd refused fixed, w⟩ →
    (fixed.isSome ∨ fwd = none ∨ 2 ≤ refused) → s.dieWaits hd = false → s.hostMod pa = false →
    (∀ wa ∈ wordsOf pa size.bytes, s.isLost wa = false) → s.poisoned pa size.bytes = false →
    s.sheaf? sid = some sh → sh.core < 352 → sh.flight? fid = some f → f.accs = [a] → a.lane < 64 → f.stage = .access → f.instr.wf = true →
    (f.instr = .ldg g d ra size scope false off ∧ sx = false ∨ f.instr = .ldgSigned g d ra size scope false off ∧ sx = true) →
    (a.homeOnly = true ∨ (s.barn b).setFull (pa / 128) = false) →
    sh.watch = [] → (∀ st, s.stookOf sh = some st → st.merge = []) → (fixed.getD (s.cohRead pa size.bytes)).length = size.bytes →
    ∃ t shu, exec (.homeReply m) s = .next t ∧ t.msgs.find? m = none ∧ t.mem = s.mem ∧ t.sheaf? sid = some shu ∧
      { shu with lanes := sh.lanes, regs := sh.regs, flights := sh.flights } = sh ∧
      shu.flights = sh.flights.filter (fun x => x.id != fid) ∧
      Spec.LaneLoaded sh shu d a.lane (Spec.loaded sx size.bytes
        (natOfBytes ((s.barn b).overlay pa (fixed.getD (s.cohRead pa size.bytes)))))) ∧
  (∀ (s : State) m b sid fid pa n hd ctx pte o lanes w sh f,
    s.msgs.find? m = some ⟨.atomic b sid fid pa n hd ctx pte (.op o) none lanes, w⟩ → isPeer pa = false → s.hostHolds pa = false →
    s.dieWaits hd = false → s.sheaf? sid = some sh → sh.flight? fid = some f → sh.watch = [] → s.poisoned pa n = false →
    (∀ wa ∈ wordsOf pa n, s.isLost wa = false ∧ s.unrecorded b wa = false ∧ Spec.MarksElsewhere s ctx pte pa (wa / 32)) →
    Spec.Unowned s pa n →
    ∃ t, exec (.atomicAtHome m) s = .next t ∧ t.msgs.find? m = none ∧ natOfBytes (t.cohRead pa n) =
      lanes.foldl (fun v l => o.apply (8 * n) v (natOfBytes l.data)) (natOfBytes (s.cohRead pa n)) % 2 ^ (8 * n)) ∧
  (∀ (s : State) m b line w e, s.msgs.find? m = some ⟨.wb b line, w⟩ → (s.barn b).evict.find? (fun e => e.msg == m) = some e →
    ∃ t, exec (.writeBack m) s = .next t ∧ t.msgs.find? m = none ∧ (∀ x ∈ (t.barn b).evict, x.msg ≠ m) ∧
      (s.waits = [] → t.sheaves = s.sheaves)) ∧
  (∀ (s : State) b line, (s.barn b).gather = [] → (∀ e ∈ (s.barn b).words, e.1 / 32 = line → e.2.phase = [] ∧ s.pendingReg b e.1 = none) →
    (let mine := (s.barn b).words.filter (fun e => e.1 / 32 == line)
     let owned := mine.filter (fun e => e.2.owned)
     let left := (s.barn b).words.filter (fun e => e.1 / 32 != line)
     let full : Bool := decide (16 ≤ ((s.barn b).evict.filter (fun e => e.line % 4 == line % 4)).length)
     (full = true → exec (.l1Eviction b line) s = .next s) ∧
     (owned = [] → full = false → ∃ t, exec (.l1Eviction b line) s = .next t ∧ Spec.WordsOnly b s t ∧ (t.barn b).words = left) ∧
     (owned ≠ [] → full = false →
       ∃ t, exec (.l1Eviction b line) s = .next t ∧ t.mem = s.mem ∧ t.homes = s.homes ∧ (t.barn b).words = left ∧
         (t.barn b).evict = (s.barn b).evict ++ [⟨line, owned, s.nextId⟩] ∧ t.msgs.find? s.nextId = some ⟨.wb b line, []⟩))) ∧
  (∀ (s : State) b addr g, (s.barn b).gather.find? addr = some g → s.hostHolds addr = false → Spec.Unowned s addr g.size.bytes →
    (∀ wa ∈ wordsOf addr g.size.bytes, s.unrecorded b wa = false ∧ Spec.MarksElsewhere s g.ctx g.pte addr (wa / 32)) →
    ∃ t, exec (.redPublication b addr) s = .next t ∧ (t.barn b).gather.find? addr = none ∧ natOfBytes (t.cohRead addr g.size.bytes) =
      g.op.gatherOp.apply (8 * g.size.bytes) (natOfBytes (s.cohRead addr g.size.bytes)) g.value.toNat % 2 ^ (8 * g.size.bytes)) ∧
  (∀ (s : State) line, (∀ j < 32, Spec.OneOwner s (32 * line + j)) →
    ∃ t, exec (.l2LineEviction line) s = .next t ∧
      ((∀ j < 32, s.ownerOf (32 * line + j) = none) → t.waits = s.waits.filter (fun e => e.pa / 128 != line)) ∧
      ∀ j < 32, t.ownerOf (32 * line + j) = none)

/-- 12 R222 to R224; 13 R232; 20 R341: a peer's acknowledgement of a write ends it, and a failure is kept for the lanes'
next release; a write of a peer or of the host into words without an owner changes exactly its bytes, a peer's before its
pages are marked (16 R285; which context's bitmap is marked is the model's free choice, log 62), and a swap by the host its
eight; the host takes a half of a line from its owners, and gives it back with the bytes that it has modified. -/
def Obligations.OutsideAccesses : Prop :=
  (∀ (s : State) m b sid f acc pa n d acq fresh w reply, s.msgs.find? m = some ⟨.peer b sid f acc pa n (some d) acq fresh, w⟩ → sid ≠ 0 →
    (∃ t, exec (.peerHomeReply m reply true) s = .next t ∧ Spec.MsgGone s t m) ∧
    (∀ x set sh, w = [(x, set)] → s.sheaf? x = some sh →
      ∃ t shu, exec (.peerHomeReply m reply false) s = .next t ∧ t.msgs.find? m = none ∧ t.mem = s.mem ∧ t.sheaf? x = some shu ∧
        { shu with lanes := sh.lanes } = sh ∧ ∀ l < 64, shu.lane l =
          if (set &&& sh.full).getLsbD l then { sh.lane l with failed := (sh.lane l).failed ++ [pa / 128 * 128] } else sh.lane l)) ∧
  (∀ (s : State) dev addr bs, dev ≠ s.fabric.devnum → dev < 512 → (∃ j < 18, (s.link j).up = true) → Spec.StacksReady s →
    inMemory addr bs.length = true →
    (∀ h ∈ halvesOf addr bs.length, s.hostHolds h = false) → Spec.Unowned s addr bs.length →
    ∃ t u, exec (.peerAccess dev (.write addr bs)) s = .next t ∧ Spec.Stored s u addr bs ∧ t = u.peerMark addr bs.length) ∧
  (∀ (s : State) addr bs, s.hostLinked = true → Spec.StacksReady s → inMemory addr bs.length = true →
    (∀ h ∈ halvesOf addr bs.length, s.hostHolds h = false) → Spec.Unowned s addr bs.length →
    ∃ t, exec (.hostMemoryAccess (.write addr bs)) s = .next t ∧ Spec.Stored s t addr bs) ∧
  (∀ (s : State) addr value, s.hostLinked = true → Spec.StacksReady s → inMemory addr 8 = true → addr % 8 = 0 → s.hostHolds addr = false →
    Spec.Unowned s addr 8 → (∀ wa ∈ wordsOf addr 8, s.isLost wa = false) →
    ∃ t, exec (.hostAtomicSwap addr value) s = .next t ∧ Spec.Stored s t addr (bytesOf 8 value.toNat)) ∧
  (∀ (s : State) addr modified, s.hostLinked = true → Spec.StacksReady s → inMemory (addr / 64 * 64) 64 = true →
    (∀ wa, wa / 16 = addr / 64 → Spec.OneOwner s wa) →
    ∃ t, exec (.hostMemoryAccess (.hold addr modified)) s = .next t ∧ t.hostHolds addr = true ∧ (modified = true → t.hostMod addr = true) ∧
      ∀ wa, wa / 16 = addr / 64 → t.ownerOf wa = none) ∧
  (∀ (s : State) half, s.hostHolds (64 * half) = true →
    (∃ t, exec (.hostSnoopResponse half none) s = .next t ∧ t.hostHolds (64 * half) = false ∧ t.mem = s.mem) ∧
    (∀ bs : List Byte, bs.length = 64 → s.hostMod (64 * half) = true → Spec.Unowned s (64 * half) 64 →
      ∃ t, exec (.hostSnoopResponse half (some bs)) s = .next t ∧ t.hostHolds (64 * half) = false ∧ Spec.Stored s t (64 * half) bs))

/-! ## Collectives, links, interrupts -/

/-- 20 R341, R342, R344, R345, R349, R351, R352: a collective step that has ended makes its tag READY once its writes are
acknowledged; one that its members end has CAUSE 5 or 6 and the count of bytes written; a RED step of a rank above 0 writes
nothing. What a step writes that its source has not changed under (R350): rank 0's elements under .BC, else the value of the
whole tree of every element, which a step that goes on leaves at its destination, one half line in the barn's L1. A Bruvas link goes down, counting a failure, or comes up, and the routes are computed anew; a host link that goes
down takes the host's halves with it (link 1 those that the model leaves free, log 114) and stops the CPYH operations of
the functions bound to it. A group entry takes its fields, VALID starts its counts, and without it no step of the group
goes on; a vector is unmasked and its pending message sent. -/
def Obligations.FabricSteps : Prop :=
  (∀ (s : State) id peers cause o cc st sid, s.colls.find? (fun o => o.id == id) = some o → o.recs = [] → s.ctxHeld o.ctx = false →
    o.fin = some cc → o.torn = false → (∀ m ∈ o.written, s.msgs.find? m = none) → s.stook? o.uid = some st → st.parked = false →
    sid ∈ st.sheaves → (s.sheaf? sid).isSome → (∀ sh, s.sheaf? o.sid = some sh → sh.watch = []) →
    ∃ t, exec (.collStepComplete id peers cause) s = .next t ∧ t.colls = s.colls.filter (fun x => x.id != id) ∧ t.mem = s.mem ∧
      (t.core o.core).tag o.tag = ⟨.ready, some o.uid, 5, cc.1, cc.2⟩) ∧
  (∀ (s : State) id peers cause o st sid, s.colls.find? (fun o => o.id == id) = some o → o.recs = [] → s.ctxHeld o.ctx = false →
    o.fin = none → o.written = [] → (cause = 5 ∨ cause = 6 ∧ o.out = none) → s.stook? o.uid = some st → st.parked = false →
    sid ∈ st.sheaves → (s.sheaf? sid).isSome → (∀ sh, s.sheaf? o.sid = some sh → sh.watch = []) →
    ∃ t, exec (.collStepComplete id peers cause) s = .next t ∧ t.colls = s.colls.filter (fun x => x.id != id) ∧
      (cause = 6 → t.mem = s.mem) ∧ (t.core o.core).tag o.tag = ⟨.ready, some o.uid, 5, cause, o.done⟩) ∧
  (∀ (s : State) id o src s1 st sid, s.colls.find? (fun o => o.id == id) = some o → o.recs = [] → s.ctxHeld o.ctx = false →
    o.fin = none → o.out = none → o.written = [] → o.kind = .red → (s.group o.group).rank ≠ 0 →
    o.given = [] → s.translateAll (some o.core) o.ctx .read true (pieces o.src.toNat o.count) = (.ok src, s1) →
    src.any (s1.readWaits o.core (s1.fnUp (s1.fnOf o.uid))) = false → src.any (fun p => s1.poisoned p.1 p.2.1) = false →
    src.any s1.noRoute = false →
    s.stook? o.uid = some st → st.parked = false → sid ∈ st.sheaves → (s.sheaf? sid).isSome →
    (∀ sh, s.sheaf? o.sid = some sh → sh.watch = []) → ∀ peers : List Byte, peers.length = (s.group o.group).nmemb * o.count →
    ∃ t, exec (.collStepComplete id peers 0) s = .next t ∧ (∀ x ∈ t.colls, x.id ≠ id) ∧
      (t.core o.core).tag o.tag = ⟨.ready, some o.uid, 5, 0, 0⟩) ∧
  (∀ (s : State) o src s1 s2 own, ∀ peers : List Byte, s.colls.find? (fun x => x.id == o.id) = some o →
    (o.kind = .red → (s.group o.group).rank = 0) → o.count % (o.ty.bits / 8) = 0 →
    peers.length = (s.group o.group).nmemb * o.count →
    s.translateAll (some o.core) o.ctx .read true (pieces o.src.toNat o.count) = (.ok src, s1) →
    src.any (s1.readWaits o.core (s1.fnUp (s1.fnOf o.uid))) = false → src.any (fun p => s1.poisoned p.1 p.2.1) = false →
    src.any s1.noRoute = false → o.torn = false → (o.snap = none ∨ o.snap = s1.peek o.core o.ctx o.src.toNat o.count) →
    (o.dst.toNat + o.count ≤ o.src.toNat ∨ o.src.toNat + o.count ≤ o.dst.toNat) →
    s1.collSource o src ((peers.drop ((s.group o.group).rank * o.count)).take o.count) = (own, s2) →
    (∀ dst, (s2.translateAll (some o.core) o.ctx .write true (pieces o.dst.toNat o.count)).1 = .ok dst →
      ∀ d ∈ dst, ∀ p ∈ src, d.1 + d.2.1 ≤ p.1 ∨ p.1 + p.2.1 ≤ d.1) →
    (let g := s.group o.group
     let e := o.ty.bits / 8
     let all := peers.take (g.rank * o.count) ++ own ++ peers.drop ((g.rank + 1) * o.count)
     let of (k r : Nat) : Nat := fieldNat all (r * o.count + k * e) e
     ∃ bs : List Byte, (s.collCombine o peers).colls.find? (fun x => x.id == o.id) = some { o with out := some bs, done := 0 } ∧
       bs.length = o.count ∧ ∀ k < o.count / e,
         (o.kind = .bc → fieldNat bs (k * e) e = of k 0) ∧
         (o.kind ≠ .bc → ∃ value, Spec.TreeValues o.op o.ty g (of k) value ∧
           (0 < g.nmemb → fieldNat bs (k * e) e = value 0 % 2 ^ (8 * e))))) ∧
  (∀ (s : State) id o bs pa pte hd s1, s.colls.find? (fun x => x.id == id) = some o → (∀ x ∈ s.colls, x.id = id → x.given = o.given) →
    o.recs = [] → s.ctxHeld o.ctx = false → o.out = some bs → o.fin = none → o.torn = false → o.done < bs.length →
    (o.dst.toNat + o.done) % 64 + (bs.length - o.done) ≤ 64 →
    s.translate (some o.core) o.ctx (BitVec.ofNat 64 (o.dst.toNat + o.done)) .write true = (.ok pa pte hd false, s1) → pa < 2 ^ 51 →
    s1.writeWaits o.core (s1.fnUp (s1.fnOf o.uid)) (pa, bs.length - o.done, pte, hd, false) = false →
    (s1.barn (barnOf o.core)).gather = [] → Spec.MarksElsewhere s1 o.ctx pte pa (pa / 128) → pa % 64 = (o.dst.toNat + o.done) % 64 →
    (∀ sh, s.sheaf? o.sid = some sh → sh.watch = []) →
    ∃ t, exec (.collStepComplete id o.given 0) s = .next t ∧
      ∀ j < bs.length - o.done, Spec.l1Byte (t.barn (barnOf o.core)) (pa + j) (bs.getD (o.done + j) 0)) ∧
  (∀ (s : State) link, link < 18 → (s.link link).up = true →
    ∃ t, exec (.bruvasLinkDown link) s = .next t ∧ { t with fabric := s.fabric } = s ∧ t.fabric.recompute = true ∧
      t.link link = { s.link link with up := false, fails := Nat.min 1023 ((s.link link).fails + 1) } ∧
      ∀ x, x ≠ link → t.link x = s.link x) ∧
  (∀ (s : State) link peer peerLink, link < 18 → (s.link link).up = false → s.fabric.unusable = false →
    s.rel.ready.getLsbD (12 + link) = true → peer < 512 → peerLink < 32 →
    ∃ t, exec (.bruvasLinkUp link peer peerLink) s = .next t ∧ { t with fabric := s.fabric } = s ∧ t.fabric.recompute = true ∧
      t.link link = { s.link link with up := true, peer := peer, peerLink := peerLink } ∧ ∀ x, x ≠ link → t.link x = s.link x) ∧
  (∀ (s : State) reach, s.fabric.recompute = true → s.colls = [] →
    ∃ t, exec (.routeRecompute reach) s = .next t ∧ { t with fabric := s.fabric } = s ∧ t.fabric.recompute = false ∧
      ∀ d, d ∈ t.fabric.routes ↔ (∃ j < 18, (s.link j).up = true) ∧ d ∈ reach.devices ∧ d < 512 ∧ d ≠ s.fabric.devnum) ∧
  (∀ (s : State) link, link < 2 → s.fabric.hostUp.getD link false = true →
    ∃ t, exec (.hostLinkDown link) s = .next t ∧ t.fabric.hostUp.getD link false = false ∧
      t.fabric.hostUp.getD (1 - link) false = s.fabric.hostUp.getD (1 - link) false ∧
      (link = 0 → (∀ l, (t.home l).held = 0) ∧ ∀ wa, s.hostHolds (4 * wa) = true → t.isLost wa = true) ∧
      (∀ wa, t.isLost wa = true → s.isLost wa = true ∨ s.hostHolds (4 * wa) = true) ∧
      (∀ core, ∀ o ∈ (t.core core).wainRun ++ (t.core core).wainQ,
        s.linkOfFn (s.fnOf o.uid) = link → o.kind = 3 → o.cursor < o.total → o.stopped ≠ 0) ∧
      ∀ uid k, t.stook? uid = some k → ∀ x ∈ k.savedOps,
        s.linkOfFn (s.fnOf x.2.uid) = link → x.2.kind = 3 → x.2.cursor < x.2.total → x.2.stopped ≠ 0) ∧
  (∀ (s : State) link, link < 2 → s.fabric.hostUp.getD link false = false → s.rel.ready.getLsbD (30 + link) = true →
    ∃ t, exec (.hostLinkUp link) s = .next t ∧ t.fabric.hostUp.getD link false = true ∧
      (s.trans.recs = [] → { t with fabric := s.fabric } = s)) ∧
  (∀ (s : State) entry value, s.hostVis = true → entry < 256 →
    (∃ t, exec (.groupEntryWrite entry 0x10 4 value) s = .next t ∧ { t with fabric := s.fabric } = s ∧
      t.group entry = { s.group entry with ctx := value.toNat % 4096 } ∧ ∀ x, x ≠ entry → t.group x = s.group x) ∧
    ((s.group entry).flags % 2 = 0 → value.getLsbD 0 = true →
      ∃ t, exec (.groupEntryWrite entry 0x0E 2 value) s = .next t ∧ { t with fabric := s.fabric } = s ∧
        t.group entry = { s.group entry with flags := value.toNat % 32, seq := 0, rebuilds := 0 }) ∧
    ((s.group entry).flags % 2 = 1 → value.getLsbD 0 = false →
      ∃ t, exec (.groupEntryWrite entry 0x0E 2 value) s = .next t ∧ (t.group entry).flags = value.toNat % 32 ∧
        ∀ o ∈ t.colls, o.group = entry → o.fin.isSome)) ∧
  (∀ (s : State) fn vector, fn ≤ 32 → s.fnVis fn = true → vector < vectors fn → (fn, vector) ∉ s.fabric.msiOpen →
    ∃ t, exec (.msixUnmask fn vector) s = .next t ∧ { t with fabric := s.fabric } = s ∧ (fn, vector) ∈ t.fabric.msiOpen ∧
      (fn, vector) ∉ t.fabric.msiPend ∧
      t.fabric.msiSent = (if (fn, vector) ∈ s.fabric.msiPend then [(fn, vector)] else []) ++ s.fabric.msiSent)

/-! ## Parking and pre-emption -/

/-- 19 R331 to R335: a rick whose stooks all wait is parked where the rules let it, and a parked rick that is woken is
placed where a seat has room, on the cores of its ranks; a moved trap stook by its sheaf. -/
def Obligations.ParkingSteps : Prop :=
  (∀ (s : State) uid k c off s1, s.stook? uid = some k → s.cropOf k = some c → k.trapStook = false → s.partHeld c.part = false →
    s.rickParks (s.rickOf k) = true → s.wantsRoom c.part c.prio = true → s.betterVictim c.part c.prio (s.rickAge (s.rickOf k)) = false →
    parkFit (s.parkBlocks c.part) (s.part c.part).parkSize.toNat (s.rickLen (s.rickOf k)) = some off →
    s.spillAll (s.rickSheaves (s.rickOf k)) = (true, s1) →
    ∃ t, exec (.parkEviction uid) s = .next t ∧ (t.stook? uid).map (·.parked) = some true ∧ t.crops = s.crops) ∧
  (∀ (s : State) uid k c seat r s1, s.stook? uid = some k → s.cropOf k = some c → k.parked = true → s.partHeld c.part = false →
    k.trapStook = false → s.partDue (s.part c.part) = false → s.rickWoken k = true → s.earlierWaits k c = false → s.rickSeats k = seat :: r →
    s.fillRanges (s.rickOf k) = (true, s1) → s.stooks.sorted = true →
    ∃ t k', exec (.parkRestore uid) s = .next t ∧ t.stook? uid = some k' ∧ k'.parked = false ∧
      k'.cores = seatCores c.record seat k.rank ∧ k'.saved = [] ∧ k'.savedOps = [] ∧ k'.wakes = []) ∧
  (∀ (s : State) uid k c core, s.stook? uid = some k → s.cropOf k = some c → k.parked = true → s.partHeld c.part = false →
    k.trapStook = true → s.partDue (s.part c.part) = false → s.trapSeat k = some core →
    ∃ t k', exec (.parkRestore uid) s = .next t ∧ t.stook? uid = some k' ∧ k'.parked = false ∧ k'.cores = [core])

/-- 19 R333 to R336: a pre-emption or a restore starts where none runs, the pre-emption clearing the ENABLE of the
partition's queues; it is refused with its reason otherwise. A slice that ends starts an automatic pre-emption, or is due
while an operation runs. An operation that ends reports so: a pre-emption leaves no crop, a restore no held context, and a
restore of an area that is no area is refused with reason 3. One refused because another runs leaves the status word to it
(log 73). -/
def Obligations.PreemptionSteps : Prop :=
  (∀ (s : State) part, s.hostVis = true → part < 16 → s.trapPage.op.isSome →
    ∀ i, (i = .preempt part ∨ i = .restoreParea part ∨ i = .restoreSarea part) →
      ∃ t, exec i s = .next t ∧ t.trapPage.op = s.trapPage.op ∧ t.trapPage.pstate = s.trapPage.pstate ∧
        (t.part part).pstat = opWord 3 2 part false ∧ t.trapPage.pdone.getLsbD part = true) ∧
  (∀ (s : State) part, s.hostVis = true → part < 16 → s.trapPage.op = none →
    (s.trapPage.plimit.toNat < 0x4600 + 2359296 * (s.part part).ltp.length →
      ∃ t, exec (.preempt part) s = .next t ∧ t.trapPage.op = none ∧ (t.part part).pstat = opWord 3 1 part false ∧ t.queues = s.queues) ∧
    (0x4600 + 2359296 * (s.part part).ltp.length ≤ s.trapPage.plimit.toNat →
      ∃ t o, exec (.preempt part) s = .next t ∧ t.trapPage.op = some o ∧ o.op = 1 ∧ o.part = part ∧ o.auto = false ∧
        o.area = s.trapPage.parea.toNat ∧ t.trapPage.pstate = opWord 1 0 part false ∧
        ∀ q < 64, (s.queue q).part = part → (t.queue q).enable = false) ∧
    (∃ t o, exec (.restoreParea part) s = .next t ∧ t.trapPage.op = some o ∧ o.op = 2 ∧ o.part = part ∧
      o.area = s.trapPage.parea.toNat ∧ t.queues = s.queues ∧ t.sheaves = s.sheaves) ∧
    ((s.part part).sarea ≠ 0 → (s.part part).sareaValid = true →
      ∃ t o, exec (.restoreSarea part) s = .next t ∧ t.trapPage.op = some o ∧ o.op = 3 ∧ o.part = part ∧
        o.area = (s.part part).sarea.toNat ∧ t.queues = s.queues ∧ t.sheaves = s.sheaves) ∧
    ((s.part part).sarea = 0 ∨ (s.part part).sareaValid = false →
      ∃ t, exec (.restoreSarea part) s = .next t ∧ t.trapPage.op = none ∧ (t.part part).pstat = opWord 3 5 part false)) ∧
  (∀ (s : State) part, exec (.prctlNone part) s = .next s) ∧
  (∀ (s : State) part, part < 16 → (s.part part).armed = true → (s.part part).tslice ≠ 0 →
    (s.part part).sliceFrom + 2000 * (s.part part).tslice.toNat ≤ s.clock →
    (s.trapPage.op.isSome → ∃ t, exec (.sliceExpiry part) s = .next t ∧ { t with parts := s.parts } = s ∧
      t.part part = { s.part part with sliceDue := true, armed := false }) ∧
    (s.trapPage.op = none → (s.part part).sarea ≠ 0 → 0x4600 + 2359296 * (s.part part).ltp.length ≤ 4096 * (s.part part).slimit.toNat →
      ∃ t o, exec (.sliceExpiry part) s = .next t ∧ t.trapPage.op = some o ∧ o.op = 1 ∧ o.part = part ∧ o.auto = true ∧
        o.area = (s.part part).sarea.toNat)) ∧
  (∀ (s : State) o, s.trapPage.op = some o → (∀ p < 16, (s.part p).sliceDue = false) →
    (o.op = 1 → s.quiet o.part (s.partCtxs o.part) = true →
      ∃ t, exec .preemptOperationEnd s = .next t ∧ t.trapPage.op = none ∧ (t.part o.part).pstat = opWord 2 0 o.part o.auto ∧
        ∀ c ∈ t.crops, c.2.part ≠ o.part) ∧
    (o.op ≠ 1 → (s.readArea o.area).malformed = true →
      ∃ t, exec .preemptOperationEnd s = .next t ∧ t.trapPage.op = none ∧ (t.part o.part).pstat = opWord 3 3 o.part o.auto ∧
        t.crops = s.crops ∧ t.stooks = s.stooks) ∧
    (o.op ≠ 1 → (s.readArea o.area).malformed = false → (s.readArea o.area).noSeat s o.part = false →
      ∃ t, exec .preemptOperationEnd s = .next t ∧ t.trapPage.op = none ∧ (t.part o.part).pstat = opWord 2 0 o.part o.auto ∧
        (t.part o.part).heldCtx = [] ∧ (t.part o.part).sareaValid = false))

/-! ## Reliability, reset and bring-up -/

/-- 21 R354 to R359: a scan visits the next usable or spare core of a ready barn; with no stook on it, its move changes
nothing else; a core that passes goes on, one that fails is retired, its count and the interrupt raised; an uncorrectable
error kills the stook's rick, which is to be placed again at most three times if its record says so; the patrol scrub
finds nothing, corrects, or poisons a unit of the line. -/
def Obligations.ReliabilitySteps : Prop :=
  (∀ (s : State) barn slot, barn < 88 → (s.barn barn).scanAt = none → s.rel.ready.getLsbD (8 + barn / 22) = true →
    (slotsFrom (s.barn barn).scanSlot).find? (fun k => (s.core (4 * barn + k)).st == .usable || (s.core (4 * barn + k)).st == .spare) = some slot →
    ∃ t, exec (.scanVisitStart barn) s = .next t ∧ (t.barn barn).scanAt = some (4 * barn + slot) ∧
      t.core (4 * barn + slot) = { s.core (4 * barn + slot) with scanned := true } ∧ { t with cores := s.cores, barns := s.barns } = s) ∧
  (∀ (s : State) barn c, (s.barn barn).scanAt = some c → (s.barn barn).scanMoved = false → s.residentStooks c = [] →
    ∃ t, exec (.scanMove barn) s = .next t ∧ t.barn barn = { s.barn barn with scanMoved := true } ∧ { t with barns := s.barns } = s) ∧
  (∀ (s : State) barn c, (s.barn barn).scanAt = some c → (s.barn barn).scanMoved = true →
    (∃ t, exec (.scanResult barn true) s = .next t ∧ (t.barn barn).scanAt = none ∧ t.core c = { s.core c with scanned := false } ∧
      t.mem = s.mem ∧ t.rel = s.rel) ∧
    (∃ t, exec (.scanResult barn false) s = .next t ∧ (t.barn barn).scanAt = none ∧ (t.core c).st = .retired ∧ t.rel.retired = true ∧
      t.rel.retiredCores.getD (dieOf c) 0 = (s.rel.retiredCores.getD (dieOf c) 0 + 1) % 2 ^ 32 ∧
      (s.fnUp 0 = true → (0, 2) ∈ t.fabric.msiPend ∨ (0, 2) ∈ t.fabric.msiSent))) ∧
  (∀ (s : State) uid k c, s.stook? uid = some k → k.trapStook = false → s.cropOf k = some c →
    ∃ t c', exec (.rickKill uid) s = .next t ∧ t.stook? uid = none ∧ t.crop? k.crop = some c' ∧
      (recRelaunch c.record = true → c.relaunches.getD k.rick 0 < 3 → s.trapPage.op = none →
        c'.relaunches.getD k.rick 0 = c.relaunches.getD k.rick 0 + 1 ∧ k.rick ∈ c'.replaced) ∧
      (recRelaunch c.record = false ∨ 3 ≤ c.relaunches.getD k.rick 0 → c'.killed = true)) ∧
  (∀ (s : State) line, 128 * line < memBytes →
    ∃ t, exec (.patrolScrub line) s = .next t ∧ t.mem = s.mem ∧ t.sheaves = s.sheaves ∧
      ((t.rel = s.rel ∧ t.homes = s.homes) ∨
       (t.homes = s.homes ∧ ∃ d < 4, t.rel = { s.rel with corrected := s.rel.corrected.put d ((s.rel.corrected.getD d 0 + 1) % 2 ^ 64) }) ∨
       ∃ d < 4, ∃ u < 4, t.rel = { s.rel with uncorrected := s.rel.uncorrected.put d ((s.rel.uncorrected.getD d 0 + 1) % 2 ^ 32) } ∧
         (t.home line).poison.getLsbD u = true ∧ ∀ l, l ≠ line → t.home l = s.home l))

/-- 21 R361 to R364: a reset leaves everything at its reset value but the retired cores, the host's memory and what the
outside world does next (log 96); a function that passes bring-up is ready, one that does not has failed; an image that fails a
check of the boot ROM leaves its code, one that passes brings up the firmware, which assigns the queues to functions as it
likes (log 33) and, where two device numbers clash, leaves every Bruvas link down (20 R344); over-temperature clears READY
and takes every link down, and without a reset to come the device stops there, where a step is a fault (log 9); an attestation report is begun and written
where the host asked. -/
def Obligations.ResetAndBringUp : Prop :=
  (∀ (s : State), ∃ t, exec .reset s = .next t ∧
    { t with mem := [], cores := [], tick := 0, inputs := [] } = State.reset ∧ t.inputs = s.inputs ∧
    (∀ c, (s.core c).st = .retired → s.cores.sorted = true → (t.core c).st = .retired) ∧
    (s.mem.sorted = true → ∀ a, 3 * 2 ^ 50 ≤ a → memByte t.mem a = memByte s.mem a)) ∧
  (∀ (s : State) bit, bit < 32 → s.rel.overtemp = false → s.rel.ready.getLsbD bit = false → s.rel.fail.getLsbD bit = false →
    (∃ t, exec (.functionReady bit true) s = .next t ∧ t.rel.ready.getLsbD bit = true ∧ { t.rel with ready := s.rel.ready } = s.rel ∧
      (∀ j, j ≠ bit → t.rel.ready.getLsbD j = s.rel.ready.getLsbD j) ∧ (30 ≤ bit → t.fabric.hostUp.getD (bit - 30) false = true) ∧
      (bit < 30 → t.fabric = s.fabric)) ∧
    (∃ t, exec (.functionReady bit false) s = .next t ∧ { t with rel := s.rel } = s ∧ t.rel.fail.getLsbD bit = true ∧
      { t.rel with fail := s.rel.fail } = s.rel)) ∧
  (∀ (s : State) image version modulus exponent signature devnum clash, s.rel.overtemp = false → s.rel.ready.getLsbD 32 = false →
    s.rel.fwstat = 0 → devnum < 512 →
    (let code := bootCode image version modulus exponent signature
     ∃ t, exec (.firmwareBoot image version modulus exponent signature devnum clash) s = .next t ∧
       if code ≠ 0 then { t with rel := s.rel } = s ∧ t.rel = { s.rel with fwstat := BitVec.ofNat 32 code }
       else t.rel.ready.getLsbD 32 = true ∧ t.rel.fwstat = BitVec.ofNat 32 (version % 65536 * 65536) ∧ t.fabric.devnum = devnum ∧
         t.fabric.clash = clash ∧ (clash = true → ∀ x, (t.link x).up = false) ∧ t.rel.image = sha256 image ∧
         ∀ q < 64, (t.queue q).fn ≤ 32 ∧ { t.queue q with fn := (s.queue q).fn } = s.queue q)) ∧
  (∀ (s : State), ∃ t, exec .overtemp s = .next t ∧ { t with rel := s.rel, fabric := s.fabric } = s ∧
    t.rel = { s.rel with ready := 0, overtemp := true } ∧ t.fabric.hostUp = [false, false] ∧ ∀ x, (t.link x).up = false) ∧
  (∀ (s : State), s.rel.overtemp = true → s.inputs = [] → step s = .fault .deviceStopped) ∧
  (∀ (s : State) r, s.rel.overtemp = true → s.inputs = .reset :: r → step s = exec .reset { s with inputs := r }) ∧
  (∀ (s : State), s.relVis = true → s.rel.overtemp = false → s.rel.attctl ≠ 1 →
    ∃ t, exec .attestationStart s = .next t ∧ { t with rel := s.rel } = s ∧ t.rel = { s.rel with attctl := 1 }) ∧
  (∀ (s : State), s.rel.attctl = 1 → s.rel.ready.getLsbD 32 = true → s.fabric.hostUp.headD false = true →
    s.rel.image.length = 32 →
    ∃ t b, exec .attestationDone s = .next t ∧ t.rel = { s.rel with attctl := 2 } ∧ List.length b = 896 ∧
      t.memRead (hostAddr s.rel.attaddr.toNat) 896 = b ∧ fieldNat b 0 4 = 1 ∧ fieldNat b 4 4 = s.fabric.devnum % 2 ^ 32 ∧
      { t with mem := s.mem, rel := s.rel, tick := s.tick } = s)

/-! ## The host's writes, translation, issue order -/

/-- 16 R282 to R284, R388; 00 R387; 17 R287; 03 R54, R59; 17 R302: an answer takes its record away, and one of an unknown
record changes nothing; INVCTX drops a context's translations at once and reads the context until the accesses before it
have been performed (log 79); a new fault queue starts at its beginning; a register field
takes what the host writes; a record that waited for a slot is written; a sheaf that has waited is starved, a saturated
lane's program counter is forced; and a CCWAIT without an entry looks again, and goes on at zero or below. -/
def Obligations.HostAndIssueSteps : Prop :=
  (∀ (s : State) value, (s.trans.recs.find? (fun r => r.id == value.toNat % 2 ^ 32) = none → exec (.answer value) s = .next s) ∧
    (∀ r, s.trans.recs.find? (fun r => r.id == value.toNat % 2 ^ 32) = some r → s.hostVis = true →
      ∃ t, exec (.answer value) s = .next t ∧ (∀ x ∈ t.trans.recs, x.id ≠ value.toNat % 2 ^ 32 ∨ s.trans.nextId ≤ x.id) ∧
        (value.getLsbD 32 = false → (∀ e ∈ s.queues, e.2.taken = none) →
          t.trans = { s.trans with recs := s.trans.recs.filter (fun x => x.id != value.toNat % 2 ^ 32) } ∧ t.mem = s.mem ∧
          ∀ sid sh, t.sheaf? sid = some sh → ∀ f ∈ sh.flights, ∀ l, f.stage = .parked l → value.toNat % 2 ^ 32 ∉ l))) ∧
  (∀ (s : State) ctx, s.hostVis = true → ctx < 4096 →
    ∃ t, exec (.invctx ctx) s = .next t ∧ t.trans.ctxCache.find? ctx = none ∧
      (∀ c va, BitVec.toNat va < 2 ^ 52 → tlbFind (t.core c).tlb ctx va = none) ∧
      (∀ b va, BitVec.toNat va < 2 ^ 52 → tlbFind (t.barn b).tlb ctx va = none) ∧
      (s.trans.invctx = [] → t.trans.invReg = if s.accessing ctx s.nextId then BitVec.ofNat 32 ctx else 0xFFFFFFFF) ∧
      { t with cores := s.cores, barns := s.barns, trans := s.trans } = s) ∧
  (∀ (s : State) value, s.hostVis = true → BitVec.ofNat 64 (value.toNat / 4096 * 4096) ≠ s.trans.fqbase →
    ∃ t, exec (.faultQueueReconfig 0x08 8 value) s = .next t ∧ { t with trans := s.trans } = s ∧
      t.trans = { s.trans with fqbase := BitVec.ofNat 64 (value.toNat / 4096 * 4096), fqtail := 0, fqhead := 0 }) ∧
  (∀ (s : State) value, s.hostVis = true →
    (∃ t, exec (.registerWrite .translation 0x18 4 value) s = .next t ∧
      t = { s with trans := { s.trans with fqhead := BitVec.ofNat 32 value.toNat } }) ∧
    (∃ t, exec (.registerWrite .trap 0x010 8 value) s = .next t ∧ t.trapPage.parea = BitVec.ofNat 64 (value.toNat / 4096 * 4096) ∧
      { t with trapPage := s.trapPage } = s) ∧
    (∀ q < 64, (s.queue q).enable = true → ∃ t, exec (.registerWrite .launch (64 * q) 8 value) s = .next t ∧ t.queue q = s.queue q) ∧
    (∀ q < 64, (s.queue q).enable = false → ∃ t, exec (.registerWrite .launch (64 * q) 8 value) s = .next t ∧
      t.queue q = { s.queue q with base := BitVec.ofNat 64 (value.toNat / 128 * 128), ctl := (s.queue q).ctl &&& 0x0FFF1F0F })) ∧
  (∀ (s : State) r, s.trans.recs.find? (fun r => !r.written) = some r → s.fqOpen = true →
    ∃ t, exec .faultRecordDeferred s = .next t ∧
      t.memRead (hostAddr (s.trans.fqbase.toNat + 32 * s.trans.fqtail.toNat)) 32 = r.bytes ∧
      t.trans.fqtail.toNat = (s.trans.fqtail.toNat + 1) % s.trans.fqsize.toNat % 2 ^ 32 ∧ t.trans.fqhead = s.trans.fqhead ∧
      ∀ x ∈ t.trans.recs, x.id = r.id → x.written = true) ∧
  (∀ (s : State) sid uni sh, s.sheaf? sid = some sh → sh.frozen = false →
    ∃ t, exec (.starved sid uni) s = .next t ∧ { t with sheaves := s.sheaves } = s ∧ t.sheaf? sid = some
      (if uni then (if s.residentCount sh.core ≤ sh.waitU then { sh with starvedU := true } else sh)
       else if s.residentCount sh.core ≤ sh.waitL then { sh with starvedL := true } else sh)) ∧
  (∀ (s : State) sid lane sh i s1, s.sheaf? sid = some sh → sh.frozen = false → sh.live.getLsbD lane = true →
    s.look sh.core sh.ctx (sh.lane lane).pc = (.instr i, s1) → (sh.lane lane).age = 15 →
    ∃ t shu, exec (.forcedQueueEntry sid lane) s = .next t ∧ { t with sheaves := s.sheaves } = s ∧ t.sheaf? sid = some shu ∧
      { shu with forcedL := sh.forcedL, forcedU := sh.forcedU } = sh ∧
      (i.cls = .uniform → (sh.lane lane).pc ∈ shu.forcedU ∧ shu.forcedL = sh.forcedL) ∧
      (i.cls ≠ .uniform → (sh.lane lane).pc ∈ shu.forcedL ∧ shu.forcedU = sh.forcedU)) ∧
  (∀ (s : State) sid sh f d a, s.sheaf? sid = some sh → sh.frozen = false → sh.resuming = false → sh.watch = [] → sh.core < parkedBase → sh.flights = [f] →
    ccDst f.instr = some d → f.stage = .waiting → s.entered sid f.id = false → f.accs = [a] → a.st = .queued → a.pa < 2 ^ 51 →
    s.dieWaits a.hd = false → s.hostMod a.pa = false →
    Spec.Unowned s a.pa 8 →
    (let v : DWord := BitVec.ofNat 64 (natOfBytes (s.cohRead a.pa 8))
     (v.toInt ≤ 0 → ∃ t shu, exec (.ccwaitPollTimer sid) s = .next t ∧ t.sheaf? sid = some shu ∧ shu.flights = [] ∧ t.mem = s.mem ∧
       Spec.SregsAfter sh shu d (Spec.pair v)) ∧
     (0 < v.toInt → (s.waits.filter (fun e => e.hd == a.hd && sliceOf e.pa == sliceOf a.pa)).length < 128 →
       ∃ t w, exec (.ccwaitPollTimer sid) s = .next t ∧ t.waits = s.waits ++ [w] ∧ w.sid = sid ∧ w.flight = f.id ∧ w.counter = true ∧
         t.sheaves = s.sheaves)))

/-! ## The machine as a whole -/

/-- What reset leaves. 21 R361, 11 R181: no function is ready, no stook is resident, nothing is owned or in flight, no link
is up, and a thresher has no owner, zero in T and its banks, and no latch. The model's choice, of which the spec gives no
reset value: no failed function, FQSIZE 64 and the other fields of the fault queue 0, queues disabled and empty, no group
VALID (log 4); tags IDLE before a first placement (log 1). -/
def Obligations.ResetValues : Prop :=
  State.reset.rel.ready = 0 ∧ State.reset.rel.fail = 0 ∧ State.reset.rel.overtemp = false ∧ State.reset.rel.retired = false ∧
  State.reset.stooks = [] ∧ State.reset.sheaves = [] ∧ State.reset.crops = [] ∧ State.reset.msgs = [] ∧ State.reset.waits = [] ∧
  (∀ pa, State.reset.ownerOf pa = none) ∧ State.reset.trans.fqsize = 64 ∧ State.reset.trans.fqbase = 0 ∧ State.reset.trans.fqtail = 0 ∧
  State.reset.trans.fqhead = 0 ∧ State.reset.trans.ctxbase = 0 ∧ State.reset.trapPage.op = none ∧ State.reset.trapPage.pdone = 0 ∧
  (∀ q, (State.reset.queue q).enable = false ∧ (State.reset.queue q).head = 0 ∧ (State.reset.queue q).tail = 0) ∧
  (∀ c t, (State.reset.core c).tag t = .idle) ∧ (∀ c, (State.reset.core c).mx = .reset) ∧
  (∀ g, (State.reset.group g).flags = 0) ∧ (∀ l, (State.reset.link l).up = false) ∧ State.reset.fabric.hostUp = [false, false]

/-- Reset memory is in the canonical form: it lists nothing (log 3). -/
def Obligations.ResetMemory : Prop := Memory.wf State.reset.mem = true ∧ ∀ a, memByte State.reset.mem a = unlisted

/-- Every step keeps memory in its canonical form: addresses strictly rising, no entry that reads as an unlisted address
does. -/
def Obligations.MemoryStaysCanonical : Prop :=
  ∀ s t : State, Memory.wf s.mem = true → step s = .next t → Memory.wf t.mem = true

/-- 02 R27, R28, R47, R392 and 19 R327: where a cycle still owes an issue, the step fetches at the path's address; words
that decode to an instruction run it for the lanes that stand there, words that do not raise ILL, and the head of a replay
queue runs from its captured words. Its sheaf has fewer than eight instructions unfinished (19 R318), no unit is full (03
R52), and the path is marked as one that issued. A word fetched that the instruction cache does not hold is the word in
memory. -/
def Obligations.StepRunsTheDecoded : Prop :=
  (∀ (s : State) p r sh ws s1, s.rel.overtemp = false → s.slot = p :: r → s.sheaf? p.sid = some sh → sh.frozen = false →
    sh.unfinished < 8 → p.rep = false → ({ s with slot := r } : State).fetch sh.core sh.ctx p.pc = (.words ws, s1) →
    (let lanes := laneSetOf sh.width (fun l => p.lanes.getLsbD l && !(sh.lane l).exited && (sh.lane l).pc == p.pc)
     let u : State := { s1.markTurn p lanes with cur := some ⟨p.sid, lanes, p.pc, ws, none, none, []⟩ }
     lanes ≠ 0 →
      (∀ i, decode ws = .ok i → s1.unitFull (s1.seen p.sid sh i lanes p.pc ws none) i = false → step s = exec i u) ∧ (∀ why, decode ws = .illegal why → step s = exec .illegalEncoding u))) ∧
  (∀ (s : State) p r sh e rest i, s.rel.overtemp = false → s.slot = p :: r → s.sheaf? p.sid = some sh → sh.frozen = false →
    p.rep = true → sh.replay = e :: rest → e.dead sh = false → decode (e.words.take e.len) = .ok i →
    (let v : State := { s with slot := r }
     v.unitFull (v.seen p.sid sh i e.e e.pc (e.words.take e.len) (some e)) i = false →
      step s = exec i { (v.markTurn p e.e).modSheaf p.sid (fun sh => sh.modLanes e.e (fun _ l => l.killLatches)) with
        cur := some ⟨p.sid, e.e, e.pc, e.words.take e.len, some e, none, []⟩ })) ∧
  (∀ (s : State) core ctx a pa pte hd ho s1, s.translate (some core) ctx a .fetch false = (.ok pa pte hd ho, s1) →
    s1.unitWaits (pa, 4, pte, hd, ho) = false → s1.poisoned pa 4 = false →
    (s1.core core).icache.find? (pa / 4) = none →
    (s.fetchWord core ctx a).1 = .ok (BitVec.ofNat 32 (natOfBytes (s1.physRead pa 4))))

/-- 02 R31 to R47, Table 2.17: its worked words, and some of other forms, are the instructions that it names; the IADD
word with D at 121 is none, nor is a word of zeros or of a reserved OP. -/
def Obligations.WordsDecodeRight : Prop :=
  decode [0x0280C205#32] = .ok (.iaddB32 (.p 2) (.v 3) (.v 4) (.v 5)) ∧
  decode [0x03E00082#32] = .ok (.iaddB32 .t .latch (.v 1) (.v 2)) ∧
  decode [0x71C2048A#32, 0x10316840#32] = .ok (.ffma .t (.v 8) (.v 9) (.v 10) (.v 11) .f32 .rz) ∧
  decode [0x75C18200#32, 0x00268040#32] = .ok (.ldg .t (.v 6) (.v 4) .b32 .di true 0x40) ∧
  decode [0x51FFFFFC#32] = .ok (.braB32 .t 0x3FFFFC) ∧
  (∃ why, decode [0x029E4205#32] = .illegal why) ∧ (∃ why, decode [0#32] = .illegal why) ∧ ∃ why, decode [0x79C00000#32] = .illegal why

/-- Encoding and decoding agree for every instruction: each well-formed one that has words is what its words decode to,
with every operand; and nothing decodes to an instruction that is not well-formed. -/
def Obligations.DecodeOfEncode : Prop :=
  (∀ i : Instr, i.wf = true → encode i ≠ [] → decode (encode i) = .ok i) ∧ ∀ ws i, decode ws = .ok i → i.wf = true
end

