-- ==== Sys2Proof/Laws/KV.lean ====
section
/-! SUPPORT. The laws of the finite maps: reading after a write and after a removal, and that a write and a removal keep
the keys rising. -/
namespace Sys2Proof.Laws

open Sys2Proof

variable {α : Type}

theorem kv_find_put_self (m : KV α) (k : Nat) (v : α) : (m.put k v).find? k = some v := by
  induction m with
  | nil => simp [KV.put, KV.find?]
  | cons e r ih =>
    obtain ⟨a, w⟩ := e
    by_cases h : a = k
    · simp [KV.put, KV.find?, h]
    · by_cases h2 : k < a <;> simp [KV.put, KV.find?, h, h2, ih]

theorem kv_find_put_other (m : KV α) (k j : Nat) (v : α) (h : k ≠ j) : (m.put k v).find? j = m.find? j := by
  induction m with
  | nil => simp [KV.put, KV.find?, h]
  | cons e r ih =>
    obtain ⟨a, w⟩ := e
    by_cases ha : a = k
    · subst ha; simp [KV.put, KV.find?, h]
    · by_cases h2 : k < a
      · simp [KV.put, KV.find?, h, h2, ha]
      · simp [KV.put, KV.find?, h2, ha, ih]

theorem kv_find_put (m : KV α) (k j : Nat) (v : α) : (m.put k v).find? j = if k = j then some v else m.find? j := by
  by_cases h : k = j
  · subst h; simp [kv_find_put_self]
  · simp [h, kv_find_put_other]

theorem kv_find_erase (m : KV α) (k j : Nat) : (m.erase k).find? j = if k = j then none else m.find? j := by
  induction m with
  | nil => simp [KV.erase, KV.find?]
  | cons e r ih =>
    obtain ⟨a, w⟩ := e
    by_cases ha : a = k
    · subst ha
      by_cases h : a = j
      · subst h; simpa [KV.erase, KV.find?] using ih
      · simp [KV.erase, KV.find?, h, ih]
    · by_cases hj : a = j
      · subst hj; simp [KV.erase, KV.find?, ha, Ne.symm ha]
      · simp [KV.erase, KV.find?, ha, hj, ih]

@[simp] theorem kv_getD_put (m : KV α) (k j : Nat) (v d : α) : (m.put k v).getD j d = if k = j then v else m.getD j d := by
  unfold KV.getD; rw [kv_find_put]; split <;> rfl

@[simp] theorem kv_getD_erase (m : KV α) (k j : Nat) (d : α) : (m.erase k).getD j d = if k = j then d else m.getD j d := by
  unfold KV.getD; rw [kv_find_erase]; split <;> rfl

/-- Whether a bound lies below a key. -/
def below (lo : Option Nat) (a : Nat) : Prop := ∀ l, lo = some l → l < a

theorem kv_sortedFrom_cons (lo : Option Nat) (a : Nat) (v : α) (r : KV α) :
    KV.sortedFrom lo ((a, v) :: r) = true ↔ below lo a ∧ KV.sortedFrom (some a) r = true := by
  cases lo <;> simp [KV.sortedFrom, below]

theorem kv_sortedFrom_weaken (r : KV α) : ∀ lo hi : Option Nat, (∀ a, below hi a → below lo a) →
    KV.sortedFrom hi r = true → KV.sortedFrom lo r = true := by
  cases r with
  | nil => intros; simp [KV.sortedFrom]
  | cons e r =>
    obtain ⟨a, w⟩ := e
    intro lo hi h hs
    rw [kv_sortedFrom_cons] at hs ⊢
    exact ⟨h a hs.1, hs.2⟩

theorem kv_sortedFrom_put (k : Nat) (v : α) (m : KV α) : ∀ lo, below lo k → KV.sortedFrom lo m = true →
    KV.sortedFrom lo (m.put k v) = true := by
  induction m with
  | nil => intro lo h _; simp only [KV.put]; rw [kv_sortedFrom_cons]; exact ⟨h, rfl⟩
  | cons e r ih =>
    obtain ⟨a, w⟩ := e
    intro lo h hs
    rw [kv_sortedFrom_cons] at hs
    by_cases ha : a = k
    · subst ha
      rw [KV.put, if_pos rfl, kv_sortedFrom_cons]; exact ⟨h, hs.2⟩
    · by_cases h2 : k < a
      · rw [KV.put, if_neg ha, if_pos h2, kv_sortedFrom_cons, kv_sortedFrom_cons]
        exact ⟨h, fun l hl => by cases hl; exact h2, hs.2⟩
      · rw [KV.put, if_neg ha, if_neg h2, kv_sortedFrom_cons]
        exact ⟨hs.1, ih _ (fun l hl => by cases hl; omega) hs.2⟩

theorem kv_sorted_put (m : KV α) (k : Nat) (v : α) (h : m.sorted = true) : (m.put k v).sorted = true :=
  kv_sortedFrom_put k v m none (fun _ hl => by cases hl) h

theorem kv_sortedFrom_erase (k : Nat) (m : KV α) : ∀ lo, KV.sortedFrom lo m = true → KV.sortedFrom lo (m.erase k) = true := by
  induction m with
  | nil => intro lo _; simp [KV.erase, KV.sortedFrom]
  | cons e r ih =>
    obtain ⟨a, w⟩ := e
    intro lo hs
    rw [kv_sortedFrom_cons] at hs
    by_cases ha : a = k
    · rw [KV.erase, if_pos ha]
      exact ih lo (kv_sortedFrom_weaken r lo (some a) (fun x hx l hl => Nat.lt_trans (hs.1 l hl) (hx a rfl)) hs.2)
    · rw [KV.erase, if_neg ha, kv_sortedFrom_cons]
      exact ⟨hs.1, ih _ hs.2⟩

theorem kv_sorted_erase (m : KV α) (k : Nat) (h : m.sorted = true) : (m.erase k).sorted = true :=
  kv_sortedFrom_erase k m none h

theorem kv_all_put (p : Nat × α → Bool) (k : Nat) (v : α) (m : KV α) (hv : p (k, v) = true) (h : m.all p = true) :
    (m.put k v).all p = true := by
  induction m with
  | nil => simp [KV.put, hv]
  | cons e r ih =>
    obtain ⟨a, w⟩ := e
    simp only [List.all_cons, Bool.and_eq_true] at h
    by_cases ha : a = k
    · simp [KV.put, ha, hv, h.2]
    · by_cases h2 : k < a
      · simp [KV.put, ha, h2, hv, h.1, h.2]
      · simp only [KV.put, if_neg ha, if_neg h2, List.all_cons, h.1, ih h.2, Bool.true_and]

theorem kv_all_erase (p : Nat × α → Bool) (k : Nat) (m : KV α) (h : m.all p = true) : (m.erase k).all p = true := by
  induction m with
  | nil => simp [KV.erase]
  | cons e r ih =>
    obtain ⟨a, w⟩ := e
    simp only [List.all_cons, Bool.and_eq_true] at h
    by_cases ha : a = k
    · simp only [KV.erase, if_pos ha, ih h.2]
    · simp only [KV.erase, if_neg ha, List.all_cons, h.1, ih h.2, Bool.true_and]

end Sys2Proof.Laws
end

