-- ==== Sys2Proof/Laws/Memory.lean ====
section
/-! SUPPORT. Memory: what a byte reads as after a write, and that every write keeps the canonical form. -/
namespace Sys2Proof.Laws

open Sys2Proof Sys2Proof.Machine

theorem memByte_memSet (m : KV Byte) (a : Nat) (b : Byte) (x : Nat) :
    memByte (memSet m a b) x = if a = x then b else memByte m x := by
  unfold memByte memSet
  split
  · next h => simp [h]
  · simp

theorem memSet_wf (m : KV Byte) (a : Nat) (b : Byte) (h : Memory.wf m = true) : Memory.wf (memSet m a b) = true := by
  simp only [Memory.wf, Bool.and_eq_true] at h ⊢
  unfold memSet
  split
  · exact ⟨kv_sorted_erase m a h.1, kv_all_erase _ a m h.2⟩
  · next hb => exact ⟨kv_sorted_put m a b h.1, kv_all_put _ a b m (by simpa using hb) h.2⟩

theorem memWrite_wf (bs : List Byte) : ∀ (m : KV Byte) (a : Nat), Memory.wf m = true → Memory.wf (memWrite m a bs) = true := by
  induction bs with
  | nil => intro m a h; exact h
  | cons b bs ih => intro m a h; exact ih _ _ (memSet_wf m a b h)

/-- A byte after a write of consecutive bytes: the byte written there, or the byte as before. -/
theorem memByte_memWrite (bs : List Byte) : ∀ (m : KV Byte) (a x : Nat),
    memByte (memWrite m a bs) x = if a ≤ x ∧ x < a + bs.length then bs.getD (x - a) 0 else memByte m x := by
  induction bs with
  | nil => intro m a x; simp [memWrite]
  | cons b bs ih =>
    intro m a x
    simp only [memWrite, ih, memByte_memSet, List.length_cons]
    by_cases h : x = a
    · subst h; simp
    · by_cases h2 : a + 1 ≤ x ∧ x < a + 1 + bs.length
      · have h3 : a ≤ x ∧ x < a + (bs.length + 1) := by omega
        rw [if_pos h2, if_pos h3]
        have : x - a = (x - (a + 1)) + 1 := by omega
        rw [this, List.getD_cons_succ]
      · have h3 : ¬ (a ≤ x ∧ x < a + (bs.length + 1)) := by omega
        rw [if_neg h2, if_neg h3, if_neg (Ne.symm h)]

/-- A read after a write of the same bytes at the same place gives them back. -/
theorem memRead_memWrite_self (bs : List Byte) (m : KV Byte) (a : Nat) :
    Machine.memRead (memWrite m a bs) a bs.length = bs := by
  have h : ∀ (n k : Nat), n + k = bs.length → Machine.memRead (memWrite m a bs) (a + k) n = bs.drop k := by
    intro n
    induction n with
    | zero => intro k hk; simp only [Machine.memRead]; rw [List.drop_eq_nil_of_le (by omega)]
    | succ n ih =>
      intro k hk
      have hk' : k < bs.length := by omega
      simp only [Machine.memRead]
      rw [memByte_memWrite, if_pos (by omega), Nat.add_assoc, ih (k + 1) (by omega), List.drop_eq_getElem_cons hk']
      congr 1
      rw [show a + k - a = k by omega]
      simp [List.getD, hk']
  simpa using h bs.length 0 (by omega)

@[simp] theorem state_memWrite_mem (s : State) (a : Nat) (bs : List Byte) : (s.memWrite a bs).mem = memWrite s.mem a bs := rfl

/-- Memory right after reset has the canonical form. -/
theorem reset_mem_wf : Memory.wf State.reset.mem = true := rfl

end Sys2Proof.Laws
end

