-- ==== Sys2Proof/Laws/State.lean ====
section
/-! SUPPORT. What each update of the state leaves of each field: one lemma for each field and update. -/
namespace Sys2Proof.Laws

open Sys2Proof Sys2Proof.Machine

/-! `setCore` -/
@[simp] theorem setCore_mem (s : State) (c : Nat) (v : Core) : (s.setCore c v).mem = s.mem := rfl
@[simp] theorem setCore_homes (s : State) (c : Nat) (v : Core) : (s.setCore c v).homes = s.homes := rfl
@[simp] theorem setCore_barns (s : State) (c : Nat) (v : Core) : (s.setCore c v).barns = s.barns := rfl
@[simp] theorem setCore_cores (s : State) (c : Nat) (v : Core) : (s.setCore c v).cores = s.cores.put c v := rfl
@[simp] theorem setCore_sheaves (s : State) (c : Nat) (v : Core) : (s.setCore c v).sheaves = s.sheaves := rfl
@[simp] theorem setCore_stooks (s : State) (c : Nat) (v : Core) : (s.setCore c v).stooks = s.stooks := rfl
@[simp] theorem setCore_crops (s : State) (c : Nat) (v : Core) : (s.setCore c v).crops = s.crops := rfl
@[simp] theorem setCore_msgs (s : State) (c : Nat) (v : Core) : (s.setCore c v).msgs = s.msgs := rfl
@[simp] theorem setCore_waits (s : State) (c : Nat) (v : Core) : (s.setCore c v).waits = s.waits := rfl
@[simp] theorem setCore_regions (s : State) (c : Nat) (v : Core) : (s.setCore c v).regions = s.regions := rfl
@[simp] theorem setCore_refitQ (s : State) (c : Nat) (v : Core) : (s.setCore c v).refitQ = s.refitQ := rfl
@[simp] theorem setCore_pfl2 (s : State) (c : Nat) (v : Core) : (s.setCore c v).pfl2 = s.pfl2 := rfl
@[simp] theorem setCore_colls (s : State) (c : Nat) (v : Core) : (s.setCore c v).colls = s.colls := rfl
@[simp] theorem setCore_trans (s : State) (c : Nat) (v : Core) : (s.setCore c v).trans = s.trans := rfl
@[simp] theorem setCore_queues (s : State) (c : Nat) (v : Core) : (s.setCore c v).queues = s.queues := rfl
@[simp] theorem setCore_owed (s : State) (c : Nat) (v : Core) : (s.setCore c v).owed = s.owed := rfl
@[simp] theorem setCore_parts (s : State) (c : Nat) (v : Core) : (s.setCore c v).parts = s.parts := rfl
@[simp] theorem setCore_trapPage (s : State) (c : Nat) (v : Core) : (s.setCore c v).trapPage = s.trapPage := rfl
@[simp] theorem setCore_fabric (s : State) (c : Nat) (v : Core) : (s.setCore c v).fabric = s.fabric := rfl
@[simp] theorem setCore_rel (s : State) (c : Nat) (v : Core) : (s.setCore c v).rel = s.rel := rfl
@[simp] theorem setCore_asides (s : State) (c : Nat) (v : Core) : (s.setCore c v).asides = s.asides := rfl
@[simp] theorem setCore_cropSeq (s : State) (c : Nat) (v : Core) : (s.setCore c v).cropSeq = s.cropSeq := rfl
@[simp] theorem setCore_bell (s : State) (c : Nat) (v : Core) : (s.setCore c v).bell = s.bell := rfl
@[simp] theorem setCore_clock (s : State) (c : Nat) (v : Core) : (s.setCore c v).clock = s.clock := rfl
@[simp] theorem setCore_nextId (s : State) (c : Nat) (v : Core) : (s.setCore c v).nextId = s.nextId := rfl
@[simp] theorem setCore_cur (s : State) (c : Nat) (v : Core) : (s.setCore c v).cur = s.cur := rfl
@[simp] theorem setCore_slot (s : State) (c : Nat) (v : Core) : (s.setCore c v).slot = s.slot := rfl
@[simp] theorem setCore_tick (s : State) (c : Nat) (v : Core) : (s.setCore c v).tick = s.tick := rfl
@[simp] theorem setCore_inputs (s : State) (c : Nat) (v : Core) : (s.setCore c v).inputs = s.inputs := rfl
@[simp] theorem setCore_due (s : State) (c : Nat) (v : Core) : (s.setCore c v).due = s.due := rfl
@[simp] theorem setCore_passed (s : State) (c : Nat) (v : Core) : (s.setCore c v).passed = s.passed := rfl

/-! `setBarn` -/
@[simp] theorem setBarn_mem (s : State) (b : Nat) (v : Barn) : (s.setBarn b v).mem = s.mem := rfl
@[simp] theorem setBarn_homes (s : State) (b : Nat) (v : Barn) : (s.setBarn b v).homes = s.homes := rfl
@[simp] theorem setBarn_barns (s : State) (b : Nat) (v : Barn) : (s.setBarn b v).barns = s.barns.put b v := rfl
@[simp] theorem setBarn_cores (s : State) (b : Nat) (v : Barn) : (s.setBarn b v).cores = s.cores := rfl
@[simp] theorem setBarn_sheaves (s : State) (b : Nat) (v : Barn) : (s.setBarn b v).sheaves = s.sheaves := rfl
@[simp] theorem setBarn_stooks (s : State) (b : Nat) (v : Barn) : (s.setBarn b v).stooks = s.stooks := rfl
@[simp] theorem setBarn_crops (s : State) (b : Nat) (v : Barn) : (s.setBarn b v).crops = s.crops := rfl
@[simp] theorem setBarn_msgs (s : State) (b : Nat) (v : Barn) : (s.setBarn b v).msgs = s.msgs := rfl
@[simp] theorem setBarn_waits (s : State) (b : Nat) (v : Barn) : (s.setBarn b v).waits = s.waits := rfl
@[simp] theorem setBarn_regions (s : State) (b : Nat) (v : Barn) : (s.setBarn b v).regions = s.regions := rfl
@[simp] theorem setBarn_refitQ (s : State) (b : Nat) (v : Barn) : (s.setBarn b v).refitQ = s.refitQ := rfl
@[simp] theorem setBarn_pfl2 (s : State) (b : Nat) (v : Barn) : (s.setBarn b v).pfl2 = s.pfl2 := rfl
@[simp] theorem setBarn_colls (s : State) (b : Nat) (v : Barn) : (s.setBarn b v).colls = s.colls := rfl
@[simp] theorem setBarn_trans (s : State) (b : Nat) (v : Barn) : (s.setBarn b v).trans = s.trans := rfl
@[simp] theorem setBarn_queues (s : State) (b : Nat) (v : Barn) : (s.setBarn b v).queues = s.queues := rfl
@[simp] theorem setBarn_owed (s : State) (b : Nat) (v : Barn) : (s.setBarn b v).owed = s.owed := rfl
@[simp] theorem setBarn_parts (s : State) (b : Nat) (v : Barn) : (s.setBarn b v).parts = s.parts := rfl
@[simp] theorem setBarn_trapPage (s : State) (b : Nat) (v : Barn) : (s.setBarn b v).trapPage = s.trapPage := rfl
@[simp] theorem setBarn_fabric (s : State) (b : Nat) (v : Barn) : (s.setBarn b v).fabric = s.fabric := rfl
@[simp] theorem setBarn_rel (s : State) (b : Nat) (v : Barn) : (s.setBarn b v).rel = s.rel := rfl
@[simp] theorem setBarn_asides (s : State) (b : Nat) (v : Barn) : (s.setBarn b v).asides = s.asides := rfl
@[simp] theorem setBarn_cropSeq (s : State) (b : Nat) (v : Barn) : (s.setBarn b v).cropSeq = s.cropSeq := rfl
@[simp] theorem setBarn_bell (s : State) (b : Nat) (v : Barn) : (s.setBarn b v).bell = s.bell := rfl
@[simp] theorem setBarn_clock (s : State) (b : Nat) (v : Barn) : (s.setBarn b v).clock = s.clock := rfl
@[simp] theorem setBarn_nextId (s : State) (b : Nat) (v : Barn) : (s.setBarn b v).nextId = s.nextId := rfl
@[simp] theorem setBarn_cur (s : State) (b : Nat) (v : Barn) : (s.setBarn b v).cur = s.cur := rfl
@[simp] theorem setBarn_slot (s : State) (b : Nat) (v : Barn) : (s.setBarn b v).slot = s.slot := rfl
@[simp] theorem setBarn_tick (s : State) (b : Nat) (v : Barn) : (s.setBarn b v).tick = s.tick := rfl
@[simp] theorem setBarn_inputs (s : State) (b : Nat) (v : Barn) : (s.setBarn b v).inputs = s.inputs := rfl
@[simp] theorem setBarn_due (s : State) (b : Nat) (v : Barn) : (s.setBarn b v).due = s.due := rfl
@[simp] theorem setBarn_passed (s : State) (b : Nat) (v : Barn) : (s.setBarn b v).passed = s.passed := rfl

/-! `setHome` -/
@[simp] theorem setHome_mem (s : State) (n : Nat) (v : HomeLine) : (s.setHome n v).mem = s.mem := rfl
@[simp] theorem setHome_homes (s : State) (n : Nat) (v : HomeLine) : (s.setHome n v).homes = s.homes.put n v := rfl
@[simp] theorem setHome_barns (s : State) (n : Nat) (v : HomeLine) : (s.setHome n v).barns = s.barns := rfl
@[simp] theorem setHome_cores (s : State) (n : Nat) (v : HomeLine) : (s.setHome n v).cores = s.cores := rfl
@[simp] theorem setHome_sheaves (s : State) (n : Nat) (v : HomeLine) : (s.setHome n v).sheaves = s.sheaves := rfl
@[simp] theorem setHome_stooks (s : State) (n : Nat) (v : HomeLine) : (s.setHome n v).stooks = s.stooks := rfl
@[simp] theorem setHome_crops (s : State) (n : Nat) (v : HomeLine) : (s.setHome n v).crops = s.crops := rfl
@[simp] theorem setHome_msgs (s : State) (n : Nat) (v : HomeLine) : (s.setHome n v).msgs = s.msgs := rfl
@[simp] theorem setHome_waits (s : State) (n : Nat) (v : HomeLine) : (s.setHome n v).waits = s.waits := rfl
@[simp] theorem setHome_regions (s : State) (n : Nat) (v : HomeLine) : (s.setHome n v).regions = s.regions := rfl
@[simp] theorem setHome_refitQ (s : State) (n : Nat) (v : HomeLine) : (s.setHome n v).refitQ = s.refitQ := rfl
@[simp] theorem setHome_pfl2 (s : State) (n : Nat) (v : HomeLine) : (s.setHome n v).pfl2 = s.pfl2 := rfl
@[simp] theorem setHome_colls (s : State) (n : Nat) (v : HomeLine) : (s.setHome n v).colls = s.colls := rfl
@[simp] theorem setHome_trans (s : State) (n : Nat) (v : HomeLine) : (s.setHome n v).trans = s.trans := rfl
@[simp] theorem setHome_queues (s : State) (n : Nat) (v : HomeLine) : (s.setHome n v).queues = s.queues := rfl
@[simp] theorem setHome_owed (s : State) (n : Nat) (v : HomeLine) : (s.setHome n v).owed = s.owed := rfl
@[simp] theorem setHome_parts (s : State) (n : Nat) (v : HomeLine) : (s.setHome n v).parts = s.parts := rfl
@[simp] theorem setHome_trapPage (s : State) (n : Nat) (v : HomeLine) : (s.setHome n v).trapPage = s.trapPage := rfl
@[simp] theorem setHome_fabric (s : State) (n : Nat) (v : HomeLine) : (s.setHome n v).fabric = s.fabric := rfl
@[simp] theorem setHome_rel (s : State) (n : Nat) (v : HomeLine) : (s.setHome n v).rel = s.rel := rfl
@[simp] theorem setHome_asides (s : State) (n : Nat) (v : HomeLine) : (s.setHome n v).asides = s.asides := rfl
@[simp] theorem setHome_cropSeq (s : State) (n : Nat) (v : HomeLine) : (s.setHome n v).cropSeq = s.cropSeq := rfl
@[simp] theorem setHome_bell (s : State) (n : Nat) (v : HomeLine) : (s.setHome n v).bell = s.bell := rfl
@[simp] theorem setHome_clock (s : State) (n : Nat) (v : HomeLine) : (s.setHome n v).clock = s.clock := rfl
@[simp] theorem setHome_nextId (s : State) (n : Nat) (v : HomeLine) : (s.setHome n v).nextId = s.nextId := rfl
@[simp] theorem setHome_cur (s : State) (n : Nat) (v : HomeLine) : (s.setHome n v).cur = s.cur := rfl
@[simp] theorem setHome_slot (s : State) (n : Nat) (v : HomeLine) : (s.setHome n v).slot = s.slot := rfl
@[simp] theorem setHome_tick (s : State) (n : Nat) (v : HomeLine) : (s.setHome n v).tick = s.tick := rfl
@[simp] theorem setHome_inputs (s : State) (n : Nat) (v : HomeLine) : (s.setHome n v).inputs = s.inputs := rfl
@[simp] theorem setHome_due (s : State) (n : Nat) (v : HomeLine) : (s.setHome n v).due = s.due := rfl
@[simp] theorem setHome_passed (s : State) (n : Nat) (v : HomeLine) : (s.setHome n v).passed = s.passed := rfl

/-! `setSheaf` -/
@[simp] theorem setSheaf_mem (s : State) (i : Nat) (v : Sheaf) : (s.setSheaf i v).mem = s.mem := rfl
@[simp] theorem setSheaf_homes (s : State) (i : Nat) (v : Sheaf) : (s.setSheaf i v).homes = s.homes := rfl
@[simp] theorem setSheaf_barns (s : State) (i : Nat) (v : Sheaf) : (s.setSheaf i v).barns = s.barns := rfl
@[simp] theorem setSheaf_cores (s : State) (i : Nat) (v : Sheaf) : (s.setSheaf i v).cores = s.cores := rfl
@[simp] theorem setSheaf_sheaves (s : State) (i : Nat) (v : Sheaf) : (s.setSheaf i v).sheaves = s.sheaves.put i v := rfl
@[simp] theorem setSheaf_stooks (s : State) (i : Nat) (v : Sheaf) : (s.setSheaf i v).stooks = s.stooks := rfl
@[simp] theorem setSheaf_crops (s : State) (i : Nat) (v : Sheaf) : (s.setSheaf i v).crops = s.crops := rfl
@[simp] theorem setSheaf_msgs (s : State) (i : Nat) (v : Sheaf) : (s.setSheaf i v).msgs = s.msgs := rfl
@[simp] theorem setSheaf_waits (s : State) (i : Nat) (v : Sheaf) : (s.setSheaf i v).waits = s.waits := rfl
@[simp] theorem setSheaf_regions (s : State) (i : Nat) (v : Sheaf) : (s.setSheaf i v).regions = s.regions := rfl
@[simp] theorem setSheaf_refitQ (s : State) (i : Nat) (v : Sheaf) : (s.setSheaf i v).refitQ = s.refitQ := rfl
@[simp] theorem setSheaf_pfl2 (s : State) (i : Nat) (v : Sheaf) : (s.setSheaf i v).pfl2 = s.pfl2 := rfl
@[simp] theorem setSheaf_colls (s : State) (i : Nat) (v : Sheaf) : (s.setSheaf i v).colls = s.colls := rfl
@[simp] theorem setSheaf_trans (s : State) (i : Nat) (v : Sheaf) : (s.setSheaf i v).trans = s.trans := rfl
@[simp] theorem setSheaf_queues (s : State) (i : Nat) (v : Sheaf) : (s.setSheaf i v).queues = s.queues := rfl
@[simp] theorem setSheaf_owed (s : State) (i : Nat) (v : Sheaf) : (s.setSheaf i v).owed = s.owed := rfl
@[simp] theorem setSheaf_parts (s : State) (i : Nat) (v : Sheaf) : (s.setSheaf i v).parts = s.parts := rfl
@[simp] theorem setSheaf_trapPage (s : State) (i : Nat) (v : Sheaf) : (s.setSheaf i v).trapPage = s.trapPage := rfl
@[simp] theorem setSheaf_fabric (s : State) (i : Nat) (v : Sheaf) : (s.setSheaf i v).fabric = s.fabric := rfl
@[simp] theorem setSheaf_rel (s : State) (i : Nat) (v : Sheaf) : (s.setSheaf i v).rel = s.rel := rfl
@[simp] theorem setSheaf_asides (s : State) (i : Nat) (v : Sheaf) : (s.setSheaf i v).asides = s.asides := rfl
@[simp] theorem setSheaf_cropSeq (s : State) (i : Nat) (v : Sheaf) : (s.setSheaf i v).cropSeq = s.cropSeq := rfl
@[simp] theorem setSheaf_bell (s : State) (i : Nat) (v : Sheaf) : (s.setSheaf i v).bell = s.bell := rfl
@[simp] theorem setSheaf_clock (s : State) (i : Nat) (v : Sheaf) : (s.setSheaf i v).clock = s.clock := rfl
@[simp] theorem setSheaf_nextId (s : State) (i : Nat) (v : Sheaf) : (s.setSheaf i v).nextId = s.nextId := rfl
@[simp] theorem setSheaf_cur (s : State) (i : Nat) (v : Sheaf) : (s.setSheaf i v).cur = s.cur := rfl
@[simp] theorem setSheaf_slot (s : State) (i : Nat) (v : Sheaf) : (s.setSheaf i v).slot = s.slot := rfl
@[simp] theorem setSheaf_tick (s : State) (i : Nat) (v : Sheaf) : (s.setSheaf i v).tick = s.tick := rfl
@[simp] theorem setSheaf_inputs (s : State) (i : Nat) (v : Sheaf) : (s.setSheaf i v).inputs = s.inputs := rfl
@[simp] theorem setSheaf_due (s : State) (i : Nat) (v : Sheaf) : (s.setSheaf i v).due = s.due := rfl
@[simp] theorem setSheaf_passed (s : State) (i : Nat) (v : Sheaf) : (s.setSheaf i v).passed = s.passed := rfl

/-! `setStook` -/
@[simp] theorem setStook_mem (s : State) (u : Nat) (v : Stook) : (s.setStook u v).mem = s.mem := rfl
@[simp] theorem setStook_homes (s : State) (u : Nat) (v : Stook) : (s.setStook u v).homes = s.homes := rfl
@[simp] theorem setStook_barns (s : State) (u : Nat) (v : Stook) : (s.setStook u v).barns = s.barns := rfl
@[simp] theorem setStook_cores (s : State) (u : Nat) (v : Stook) : (s.setStook u v).cores = s.cores := rfl
@[simp] theorem setStook_sheaves (s : State) (u : Nat) (v : Stook) : (s.setStook u v).sheaves = s.sheaves := rfl
@[simp] theorem setStook_stooks (s : State) (u : Nat) (v : Stook) : (s.setStook u v).stooks = s.stooks.put u v := rfl
@[simp] theorem setStook_crops (s : State) (u : Nat) (v : Stook) : (s.setStook u v).crops = s.crops := rfl
@[simp] theorem setStook_msgs (s : State) (u : Nat) (v : Stook) : (s.setStook u v).msgs = s.msgs := rfl
@[simp] theorem setStook_waits (s : State) (u : Nat) (v : Stook) : (s.setStook u v).waits = s.waits := rfl
@[simp] theorem setStook_regions (s : State) (u : Nat) (v : Stook) : (s.setStook u v).regions = s.regions := rfl
@[simp] theorem setStook_refitQ (s : State) (u : Nat) (v : Stook) : (s.setStook u v).refitQ = s.refitQ := rfl
@[simp] theorem setStook_pfl2 (s : State) (u : Nat) (v : Stook) : (s.setStook u v).pfl2 = s.pfl2 := rfl
@[simp] theorem setStook_colls (s : State) (u : Nat) (v : Stook) : (s.setStook u v).colls = s.colls := rfl
@[simp] theorem setStook_trans (s : State) (u : Nat) (v : Stook) : (s.setStook u v).trans = s.trans := rfl
@[simp] theorem setStook_queues (s : State) (u : Nat) (v : Stook) : (s.setStook u v).queues = s.queues := rfl
@[simp] theorem setStook_owed (s : State) (u : Nat) (v : Stook) : (s.setStook u v).owed = s.owed := rfl
@[simp] theorem setStook_parts (s : State) (u : Nat) (v : Stook) : (s.setStook u v).parts = s.parts := rfl
@[simp] theorem setStook_trapPage (s : State) (u : Nat) (v : Stook) : (s.setStook u v).trapPage = s.trapPage := rfl
@[simp] theorem setStook_fabric (s : State) (u : Nat) (v : Stook) : (s.setStook u v).fabric = s.fabric := rfl
@[simp] theorem setStook_rel (s : State) (u : Nat) (v : Stook) : (s.setStook u v).rel = s.rel := rfl
@[simp] theorem setStook_asides (s : State) (u : Nat) (v : Stook) : (s.setStook u v).asides = s.asides := rfl
@[simp] theorem setStook_cropSeq (s : State) (u : Nat) (v : Stook) : (s.setStook u v).cropSeq = s.cropSeq := rfl
@[simp] theorem setStook_bell (s : State) (u : Nat) (v : Stook) : (s.setStook u v).bell = s.bell := rfl
@[simp] theorem setStook_clock (s : State) (u : Nat) (v : Stook) : (s.setStook u v).clock = s.clock := rfl
@[simp] theorem setStook_nextId (s : State) (u : Nat) (v : Stook) : (s.setStook u v).nextId = s.nextId := rfl
@[simp] theorem setStook_cur (s : State) (u : Nat) (v : Stook) : (s.setStook u v).cur = s.cur := rfl
@[simp] theorem setStook_slot (s : State) (u : Nat) (v : Stook) : (s.setStook u v).slot = s.slot := rfl
@[simp] theorem setStook_tick (s : State) (u : Nat) (v : Stook) : (s.setStook u v).tick = s.tick := rfl
@[simp] theorem setStook_inputs (s : State) (u : Nat) (v : Stook) : (s.setStook u v).inputs = s.inputs := rfl
@[simp] theorem setStook_due (s : State) (u : Nat) (v : Stook) : (s.setStook u v).due = s.due := rfl
@[simp] theorem setStook_passed (s : State) (u : Nat) (v : Stook) : (s.setStook u v).passed = s.passed := rfl

/-! `setCrop` -/
@[simp] theorem setCrop_mem (s : State) (k : Nat) (v : Crop) : (s.setCrop k v).mem = s.mem := rfl
@[simp] theorem setCrop_homes (s : State) (k : Nat) (v : Crop) : (s.setCrop k v).homes = s.homes := rfl
@[simp] theorem setCrop_barns (s : State) (k : Nat) (v : Crop) : (s.setCrop k v).barns = s.barns := rfl
@[simp] theorem setCrop_cores (s : State) (k : Nat) (v : Crop) : (s.setCrop k v).cores = s.cores := rfl
@[simp] theorem setCrop_sheaves (s : State) (k : Nat) (v : Crop) : (s.setCrop k v).sheaves = s.sheaves := rfl
@[simp] theorem setCrop_stooks (s : State) (k : Nat) (v : Crop) : (s.setCrop k v).stooks = s.stooks := rfl
@[simp] theorem setCrop_crops (s : State) (k : Nat) (v : Crop) : (s.setCrop k v).crops = s.crops.put k v := rfl
@[simp] theorem setCrop_msgs (s : State) (k : Nat) (v : Crop) : (s.setCrop k v).msgs = s.msgs := rfl
@[simp] theorem setCrop_waits (s : State) (k : Nat) (v : Crop) : (s.setCrop k v).waits = s.waits := rfl
@[simp] theorem setCrop_regions (s : State) (k : Nat) (v : Crop) : (s.setCrop k v).regions = s.regions := rfl
@[simp] theorem setCrop_refitQ (s : State) (k : Nat) (v : Crop) : (s.setCrop k v).refitQ = s.refitQ := rfl
@[simp] theorem setCrop_pfl2 (s : State) (k : Nat) (v : Crop) : (s.setCrop k v).pfl2 = s.pfl2 := rfl
@[simp] theorem setCrop_colls (s : State) (k : Nat) (v : Crop) : (s.setCrop k v).colls = s.colls := rfl
@[simp] theorem setCrop_trans (s : State) (k : Nat) (v : Crop) : (s.setCrop k v).trans = s.trans := rfl
@[simp] theorem setCrop_queues (s : State) (k : Nat) (v : Crop) : (s.setCrop k v).queues = s.queues := rfl
@[simp] theorem setCrop_owed (s : State) (k : Nat) (v : Crop) : (s.setCrop k v).owed = s.owed := rfl
@[simp] theorem setCrop_parts (s : State) (k : Nat) (v : Crop) : (s.setCrop k v).parts = s.parts := rfl
@[simp] theorem setCrop_trapPage (s : State) (k : Nat) (v : Crop) : (s.setCrop k v).trapPage = s.trapPage := rfl
@[simp] theorem setCrop_fabric (s : State) (k : Nat) (v : Crop) : (s.setCrop k v).fabric = s.fabric := rfl
@[simp] theorem setCrop_rel (s : State) (k : Nat) (v : Crop) : (s.setCrop k v).rel = s.rel := rfl
@[simp] theorem setCrop_asides (s : State) (k : Nat) (v : Crop) : (s.setCrop k v).asides = s.asides := rfl
@[simp] theorem setCrop_cropSeq (s : State) (k : Nat) (v : Crop) : (s.setCrop k v).cropSeq = s.cropSeq := rfl
@[simp] theorem setCrop_bell (s : State) (k : Nat) (v : Crop) : (s.setCrop k v).bell = s.bell := rfl
@[simp] theorem setCrop_clock (s : State) (k : Nat) (v : Crop) : (s.setCrop k v).clock = s.clock := rfl
@[simp] theorem setCrop_nextId (s : State) (k : Nat) (v : Crop) : (s.setCrop k v).nextId = s.nextId := rfl
@[simp] theorem setCrop_cur (s : State) (k : Nat) (v : Crop) : (s.setCrop k v).cur = s.cur := rfl
@[simp] theorem setCrop_slot (s : State) (k : Nat) (v : Crop) : (s.setCrop k v).slot = s.slot := rfl
@[simp] theorem setCrop_tick (s : State) (k : Nat) (v : Crop) : (s.setCrop k v).tick = s.tick := rfl
@[simp] theorem setCrop_inputs (s : State) (k : Nat) (v : Crop) : (s.setCrop k v).inputs = s.inputs := rfl
@[simp] theorem setCrop_due (s : State) (k : Nat) (v : Crop) : (s.setCrop k v).due = s.due := rfl
@[simp] theorem setCrop_passed (s : State) (k : Nat) (v : Crop) : (s.setCrop k v).passed = s.passed := rfl

/-! `setQueue` -/
@[simp] theorem setQueue_mem (s : State) (q : Nat) (v : LQueue) : (s.setQueue q v).mem = s.mem := rfl
@[simp] theorem setQueue_homes (s : State) (q : Nat) (v : LQueue) : (s.setQueue q v).homes = s.homes := rfl
@[simp] theorem setQueue_barns (s : State) (q : Nat) (v : LQueue) : (s.setQueue q v).barns = s.barns := rfl
@[simp] theorem setQueue_cores (s : State) (q : Nat) (v : LQueue) : (s.setQueue q v).cores = s.cores := rfl
@[simp] theorem setQueue_sheaves (s : State) (q : Nat) (v : LQueue) : (s.setQueue q v).sheaves = s.sheaves := rfl
@[simp] theorem setQueue_stooks (s : State) (q : Nat) (v : LQueue) : (s.setQueue q v).stooks = s.stooks := rfl
@[simp] theorem setQueue_crops (s : State) (q : Nat) (v : LQueue) : (s.setQueue q v).crops = s.crops := rfl
@[simp] theorem setQueue_msgs (s : State) (q : Nat) (v : LQueue) : (s.setQueue q v).msgs = s.msgs := rfl
@[simp] theorem setQueue_waits (s : State) (q : Nat) (v : LQueue) : (s.setQueue q v).waits = s.waits := rfl
@[simp] theorem setQueue_regions (s : State) (q : Nat) (v : LQueue) : (s.setQueue q v).regions = s.regions := rfl
@[simp] theorem setQueue_refitQ (s : State) (q : Nat) (v : LQueue) : (s.setQueue q v).refitQ = s.refitQ := rfl
@[simp] theorem setQueue_pfl2 (s : State) (q : Nat) (v : LQueue) : (s.setQueue q v).pfl2 = s.pfl2 := rfl
@[simp] theorem setQueue_colls (s : State) (q : Nat) (v : LQueue) : (s.setQueue q v).colls = s.colls := rfl
@[simp] theorem setQueue_trans (s : State) (q : Nat) (v : LQueue) : (s.setQueue q v).trans = s.trans := rfl
@[simp] theorem setQueue_queues (s : State) (q : Nat) (v : LQueue) : (s.setQueue q v).queues = s.queues.put q v := rfl
@[simp] theorem setQueue_owed (s : State) (q : Nat) (v : LQueue) : (s.setQueue q v).owed = s.owed := rfl
@[simp] theorem setQueue_parts (s : State) (q : Nat) (v : LQueue) : (s.setQueue q v).parts = s.parts := rfl
@[simp] theorem setQueue_trapPage (s : State) (q : Nat) (v : LQueue) : (s.setQueue q v).trapPage = s.trapPage := rfl
@[simp] theorem setQueue_fabric (s : State) (q : Nat) (v : LQueue) : (s.setQueue q v).fabric = s.fabric := rfl
@[simp] theorem setQueue_rel (s : State) (q : Nat) (v : LQueue) : (s.setQueue q v).rel = s.rel := rfl
@[simp] theorem setQueue_asides (s : State) (q : Nat) (v : LQueue) : (s.setQueue q v).asides = s.asides := rfl
@[simp] theorem setQueue_cropSeq (s : State) (q : Nat) (v : LQueue) : (s.setQueue q v).cropSeq = s.cropSeq := rfl
@[simp] theorem setQueue_bell (s : State) (q : Nat) (v : LQueue) : (s.setQueue q v).bell = s.bell := rfl
@[simp] theorem setQueue_clock (s : State) (q : Nat) (v : LQueue) : (s.setQueue q v).clock = s.clock := rfl
@[simp] theorem setQueue_nextId (s : State) (q : Nat) (v : LQueue) : (s.setQueue q v).nextId = s.nextId := rfl
@[simp] theorem setQueue_cur (s : State) (q : Nat) (v : LQueue) : (s.setQueue q v).cur = s.cur := rfl
@[simp] theorem setQueue_slot (s : State) (q : Nat) (v : LQueue) : (s.setQueue q v).slot = s.slot := rfl
@[simp] theorem setQueue_tick (s : State) (q : Nat) (v : LQueue) : (s.setQueue q v).tick = s.tick := rfl
@[simp] theorem setQueue_inputs (s : State) (q : Nat) (v : LQueue) : (s.setQueue q v).inputs = s.inputs := rfl
@[simp] theorem setQueue_due (s : State) (q : Nat) (v : LQueue) : (s.setQueue q v).due = s.due := rfl
@[simp] theorem setQueue_passed (s : State) (q : Nat) (v : LQueue) : (s.setQueue q v).passed = s.passed := rfl

/-! `setPart` -/
@[simp] theorem setPart_mem (s : State) (p : Nat) (v : Part) : (s.setPart p v).mem = s.mem := rfl
@[simp] theorem setPart_homes (s : State) (p : Nat) (v : Part) : (s.setPart p v).homes = s.homes := rfl
@[simp] theorem setPart_barns (s : State) (p : Nat) (v : Part) : (s.setPart p v).barns = s.barns := rfl
@[simp] theorem setPart_cores (s : State) (p : Nat) (v : Part) : (s.setPart p v).cores = s.cores := rfl
@[simp] theorem setPart_sheaves (s : State) (p : Nat) (v : Part) : (s.setPart p v).sheaves = s.sheaves := rfl
@[simp] theorem setPart_stooks (s : State) (p : Nat) (v : Part) : (s.setPart p v).stooks = s.stooks := rfl
@[simp] theorem setPart_crops (s : State) (p : Nat) (v : Part) : (s.setPart p v).crops = s.crops := rfl
@[simp] theorem setPart_msgs (s : State) (p : Nat) (v : Part) : (s.setPart p v).msgs = s.msgs := rfl
@[simp] theorem setPart_waits (s : State) (p : Nat) (v : Part) : (s.setPart p v).waits = s.waits := rfl
@[simp] theorem setPart_regions (s : State) (p : Nat) (v : Part) : (s.setPart p v).regions = s.regions := rfl
@[simp] theorem setPart_refitQ (s : State) (p : Nat) (v : Part) : (s.setPart p v).refitQ = s.refitQ := rfl
@[simp] theorem setPart_pfl2 (s : State) (p : Nat) (v : Part) : (s.setPart p v).pfl2 = s.pfl2 := rfl
@[simp] theorem setPart_colls (s : State) (p : Nat) (v : Part) : (s.setPart p v).colls = s.colls := rfl
@[simp] theorem setPart_trans (s : State) (p : Nat) (v : Part) : (s.setPart p v).trans = s.trans := rfl
@[simp] theorem setPart_queues (s : State) (p : Nat) (v : Part) : (s.setPart p v).queues = s.queues := rfl
@[simp] theorem setPart_owed (s : State) (p : Nat) (v : Part) : (s.setPart p v).owed = s.owed := rfl
@[simp] theorem setPart_parts (s : State) (p : Nat) (v : Part) : (s.setPart p v).parts = s.parts.put p v := rfl
@[simp] theorem setPart_trapPage (s : State) (p : Nat) (v : Part) : (s.setPart p v).trapPage = s.trapPage := rfl
@[simp] theorem setPart_fabric (s : State) (p : Nat) (v : Part) : (s.setPart p v).fabric = s.fabric := rfl
@[simp] theorem setPart_rel (s : State) (p : Nat) (v : Part) : (s.setPart p v).rel = s.rel := rfl
@[simp] theorem setPart_asides (s : State) (p : Nat) (v : Part) : (s.setPart p v).asides = s.asides := rfl
@[simp] theorem setPart_cropSeq (s : State) (p : Nat) (v : Part) : (s.setPart p v).cropSeq = s.cropSeq := rfl
@[simp] theorem setPart_bell (s : State) (p : Nat) (v : Part) : (s.setPart p v).bell = s.bell := rfl
@[simp] theorem setPart_clock (s : State) (p : Nat) (v : Part) : (s.setPart p v).clock = s.clock := rfl
@[simp] theorem setPart_nextId (s : State) (p : Nat) (v : Part) : (s.setPart p v).nextId = s.nextId := rfl
@[simp] theorem setPart_cur (s : State) (p : Nat) (v : Part) : (s.setPart p v).cur = s.cur := rfl
@[simp] theorem setPart_slot (s : State) (p : Nat) (v : Part) : (s.setPart p v).slot = s.slot := rfl
@[simp] theorem setPart_tick (s : State) (p : Nat) (v : Part) : (s.setPart p v).tick = s.tick := rfl
@[simp] theorem setPart_inputs (s : State) (p : Nat) (v : Part) : (s.setPart p v).inputs = s.inputs := rfl
@[simp] theorem setPart_due (s : State) (p : Nat) (v : Part) : (s.setPart p v).due = s.due := rfl
@[simp] theorem setPart_passed (s : State) (p : Nat) (v : Part) : (s.setPart p v).passed = s.passed := rfl

/-! `setGroup` -/
@[simp] theorem setGroup_mem (s : State) (g : Nat) (v : Group) : (s.setGroup g v).mem = s.mem := rfl
@[simp] theorem setGroup_homes (s : State) (g : Nat) (v : Group) : (s.setGroup g v).homes = s.homes := rfl
@[simp] theorem setGroup_barns (s : State) (g : Nat) (v : Group) : (s.setGroup g v).barns = s.barns := rfl
@[simp] theorem setGroup_cores (s : State) (g : Nat) (v : Group) : (s.setGroup g v).cores = s.cores := rfl
@[simp] theorem setGroup_sheaves (s : State) (g : Nat) (v : Group) : (s.setGroup g v).sheaves = s.sheaves := rfl
@[simp] theorem setGroup_stooks (s : State) (g : Nat) (v : Group) : (s.setGroup g v).stooks = s.stooks := rfl
@[simp] theorem setGroup_crops (s : State) (g : Nat) (v : Group) : (s.setGroup g v).crops = s.crops := rfl
@[simp] theorem setGroup_msgs (s : State) (g : Nat) (v : Group) : (s.setGroup g v).msgs = s.msgs := rfl
@[simp] theorem setGroup_waits (s : State) (g : Nat) (v : Group) : (s.setGroup g v).waits = s.waits := rfl
@[simp] theorem setGroup_regions (s : State) (g : Nat) (v : Group) : (s.setGroup g v).regions = s.regions := rfl
@[simp] theorem setGroup_refitQ (s : State) (g : Nat) (v : Group) : (s.setGroup g v).refitQ = s.refitQ := rfl
@[simp] theorem setGroup_pfl2 (s : State) (g : Nat) (v : Group) : (s.setGroup g v).pfl2 = s.pfl2 := rfl
@[simp] theorem setGroup_colls (s : State) (g : Nat) (v : Group) : (s.setGroup g v).colls = s.colls := rfl
@[simp] theorem setGroup_trans (s : State) (g : Nat) (v : Group) : (s.setGroup g v).trans = s.trans := rfl
@[simp] theorem setGroup_queues (s : State) (g : Nat) (v : Group) : (s.setGroup g v).queues = s.queues := rfl
@[simp] theorem setGroup_owed (s : State) (g : Nat) (v : Group) : (s.setGroup g v).owed = s.owed := rfl
@[simp] theorem setGroup_parts (s : State) (g : Nat) (v : Group) : (s.setGroup g v).parts = s.parts := rfl
@[simp] theorem setGroup_trapPage (s : State) (g : Nat) (v : Group) : (s.setGroup g v).trapPage = s.trapPage := rfl
@[simp] theorem setGroup_rel (s : State) (g : Nat) (v : Group) : (s.setGroup g v).rel = s.rel := rfl
@[simp] theorem setGroup_asides (s : State) (g : Nat) (v : Group) : (s.setGroup g v).asides = s.asides := rfl
@[simp] theorem setGroup_cropSeq (s : State) (g : Nat) (v : Group) : (s.setGroup g v).cropSeq = s.cropSeq := rfl
@[simp] theorem setGroup_bell (s : State) (g : Nat) (v : Group) : (s.setGroup g v).bell = s.bell := rfl
@[simp] theorem setGroup_clock (s : State) (g : Nat) (v : Group) : (s.setGroup g v).clock = s.clock := rfl
@[simp] theorem setGroup_nextId (s : State) (g : Nat) (v : Group) : (s.setGroup g v).nextId = s.nextId := rfl
@[simp] theorem setGroup_cur (s : State) (g : Nat) (v : Group) : (s.setGroup g v).cur = s.cur := rfl
@[simp] theorem setGroup_slot (s : State) (g : Nat) (v : Group) : (s.setGroup g v).slot = s.slot := rfl
@[simp] theorem setGroup_tick (s : State) (g : Nat) (v : Group) : (s.setGroup g v).tick = s.tick := rfl
@[simp] theorem setGroup_inputs (s : State) (g : Nat) (v : Group) : (s.setGroup g v).inputs = s.inputs := rfl
@[simp] theorem setGroup_due (s : State) (g : Nat) (v : Group) : (s.setGroup g v).due = s.due := rfl
@[simp] theorem setGroup_passed (s : State) (g : Nat) (v : Group) : (s.setGroup g v).passed = s.passed := rfl

/-! `setLink` -/
@[simp] theorem setLink_mem (s : State) (k : Nat) (v : Link) : (s.setLink k v).mem = s.mem := rfl
@[simp] theorem setLink_homes (s : State) (k : Nat) (v : Link) : (s.setLink k v).homes = s.homes := rfl
@[simp] theorem setLink_barns (s : State) (k : Nat) (v : Link) : (s.setLink k v).barns = s.barns := rfl
@[simp] theorem setLink_cores (s : State) (k : Nat) (v : Link) : (s.setLink k v).cores = s.cores := rfl
@[simp] theorem setLink_sheaves (s : State) (k : Nat) (v : Link) : (s.setLink k v).sheaves = s.sheaves := rfl
@[simp] theorem setLink_stooks (s : State) (k : Nat) (v : Link) : (s.setLink k v).stooks = s.stooks := rfl
@[simp] theorem setLink_crops (s : State) (k : Nat) (v : Link) : (s.setLink k v).crops = s.crops := rfl
@[simp] theorem setLink_msgs (s : State) (k : Nat) (v : Link) : (s.setLink k v).msgs = s.msgs := rfl
@[simp] theorem setLink_waits (s : State) (k : Nat) (v : Link) : (s.setLink k v).waits = s.waits := rfl
@[simp] theorem setLink_regions (s : State) (k : Nat) (v : Link) : (s.setLink k v).regions = s.regions := rfl
@[simp] theorem setLink_refitQ (s : State) (k : Nat) (v : Link) : (s.setLink k v).refitQ = s.refitQ := rfl
@[simp] theorem setLink_pfl2 (s : State) (k : Nat) (v : Link) : (s.setLink k v).pfl2 = s.pfl2 := rfl
@[simp] theorem setLink_colls (s : State) (k : Nat) (v : Link) : (s.setLink k v).colls = s.colls := rfl
@[simp] theorem setLink_trans (s : State) (k : Nat) (v : Link) : (s.setLink k v).trans = s.trans := rfl
@[simp] theorem setLink_queues (s : State) (k : Nat) (v : Link) : (s.setLink k v).queues = s.queues := rfl
@[simp] theorem setLink_owed (s : State) (k : Nat) (v : Link) : (s.setLink k v).owed = s.owed := rfl
@[simp] theorem setLink_parts (s : State) (k : Nat) (v : Link) : (s.setLink k v).parts = s.parts := rfl
@[simp] theorem setLink_trapPage (s : State) (k : Nat) (v : Link) : (s.setLink k v).trapPage = s.trapPage := rfl
@[simp] theorem setLink_rel (s : State) (k : Nat) (v : Link) : (s.setLink k v).rel = s.rel := rfl
@[simp] theorem setLink_asides (s : State) (k : Nat) (v : Link) : (s.setLink k v).asides = s.asides := rfl
@[simp] theorem setLink_cropSeq (s : State) (k : Nat) (v : Link) : (s.setLink k v).cropSeq = s.cropSeq := rfl
@[simp] theorem setLink_bell (s : State) (k : Nat) (v : Link) : (s.setLink k v).bell = s.bell := rfl
@[simp] theorem setLink_clock (s : State) (k : Nat) (v : Link) : (s.setLink k v).clock = s.clock := rfl
@[simp] theorem setLink_nextId (s : State) (k : Nat) (v : Link) : (s.setLink k v).nextId = s.nextId := rfl
@[simp] theorem setLink_cur (s : State) (k : Nat) (v : Link) : (s.setLink k v).cur = s.cur := rfl
@[simp] theorem setLink_slot (s : State) (k : Nat) (v : Link) : (s.setLink k v).slot = s.slot := rfl
@[simp] theorem setLink_tick (s : State) (k : Nat) (v : Link) : (s.setLink k v).tick = s.tick := rfl
@[simp] theorem setLink_inputs (s : State) (k : Nat) (v : Link) : (s.setLink k v).inputs = s.inputs := rfl
@[simp] theorem setLink_due (s : State) (k : Nat) (v : Link) : (s.setLink k v).due = s.due := rfl
@[simp] theorem setLink_passed (s : State) (k : Nat) (v : Link) : (s.setLink k v).passed = s.passed := rfl

/-! `memWrite` -/
@[simp] theorem memWrite_homes (s : State) (a : Nat) (l : List Byte) : (s.memWrite a l).homes = s.homes := rfl
@[simp] theorem memWrite_barns (s : State) (a : Nat) (l : List Byte) : (s.memWrite a l).barns = s.barns := rfl
@[simp] theorem memWrite_cores (s : State) (a : Nat) (l : List Byte) : (s.memWrite a l).cores = s.cores := rfl
@[simp] theorem memWrite_sheaves (s : State) (a : Nat) (l : List Byte) : (s.memWrite a l).sheaves = s.sheaves := rfl
@[simp] theorem memWrite_stooks (s : State) (a : Nat) (l : List Byte) : (s.memWrite a l).stooks = s.stooks := rfl
@[simp] theorem memWrite_crops (s : State) (a : Nat) (l : List Byte) : (s.memWrite a l).crops = s.crops := rfl
@[simp] theorem memWrite_msgs (s : State) (a : Nat) (l : List Byte) : (s.memWrite a l).msgs = s.msgs := rfl
@[simp] theorem memWrite_waits (s : State) (a : Nat) (l : List Byte) : (s.memWrite a l).waits = s.waits := rfl
@[simp] theorem memWrite_regions (s : State) (a : Nat) (l : List Byte) : (s.memWrite a l).regions = s.regions := rfl
@[simp] theorem memWrite_refitQ (s : State) (a : Nat) (l : List Byte) : (s.memWrite a l).refitQ = s.refitQ := rfl
@[simp] theorem memWrite_pfl2 (s : State) (a : Nat) (l : List Byte) : (s.memWrite a l).pfl2 = s.pfl2 := rfl
@[simp] theorem memWrite_colls (s : State) (a : Nat) (l : List Byte) : (s.memWrite a l).colls = s.colls := rfl
@[simp] theorem memWrite_trans (s : State) (a : Nat) (l : List Byte) : (s.memWrite a l).trans = s.trans := rfl
@[simp] theorem memWrite_queues (s : State) (a : Nat) (l : List Byte) : (s.memWrite a l).queues = s.queues := rfl
@[simp] theorem memWrite_owed (s : State) (a : Nat) (l : List Byte) : (s.memWrite a l).owed = s.owed := rfl
@[simp] theorem memWrite_parts (s : State) (a : Nat) (l : List Byte) : (s.memWrite a l).parts = s.parts := rfl
@[simp] theorem memWrite_trapPage (s : State) (a : Nat) (l : List Byte) : (s.memWrite a l).trapPage = s.trapPage := rfl
@[simp] theorem memWrite_fabric (s : State) (a : Nat) (l : List Byte) : (s.memWrite a l).fabric = s.fabric := rfl
@[simp] theorem memWrite_rel (s : State) (a : Nat) (l : List Byte) : (s.memWrite a l).rel = s.rel := rfl
@[simp] theorem memWrite_asides (s : State) (a : Nat) (l : List Byte) : (s.memWrite a l).asides = s.asides := rfl
@[simp] theorem memWrite_cropSeq (s : State) (a : Nat) (l : List Byte) : (s.memWrite a l).cropSeq = s.cropSeq := rfl
@[simp] theorem memWrite_bell (s : State) (a : Nat) (l : List Byte) : (s.memWrite a l).bell = s.bell := rfl
@[simp] theorem memWrite_clock (s : State) (a : Nat) (l : List Byte) : (s.memWrite a l).clock = s.clock := rfl
@[simp] theorem memWrite_nextId (s : State) (a : Nat) (l : List Byte) : (s.memWrite a l).nextId = s.nextId := rfl
@[simp] theorem memWrite_cur (s : State) (a : Nat) (l : List Byte) : (s.memWrite a l).cur = s.cur := rfl
@[simp] theorem memWrite_slot (s : State) (a : Nat) (l : List Byte) : (s.memWrite a l).slot = s.slot := rfl
@[simp] theorem memWrite_tick (s : State) (a : Nat) (l : List Byte) : (s.memWrite a l).tick = s.tick := rfl
@[simp] theorem memWrite_inputs (s : State) (a : Nat) (l : List Byte) : (s.memWrite a l).inputs = s.inputs := rfl
@[simp] theorem memWrite_due (s : State) (a : Nat) (l : List Byte) : (s.memWrite a l).due = s.due := rfl
@[simp] theorem memWrite_passed (s : State) (a : Nat) (l : List Byte) : (s.memWrite a l).passed = s.passed := rfl

/-! `modSheaf` -/
@[simp] theorem modSheaf_mem (s : State) (i : Nat) (f : Sheaf → Sheaf) : (s.modSheaf i f).mem = s.mem := by
  unfold State.modSheaf; split <;> rfl
@[simp] theorem modSheaf_homes (s : State) (i : Nat) (f : Sheaf → Sheaf) : (s.modSheaf i f).homes = s.homes := by
  unfold State.modSheaf; split <;> rfl
@[simp] theorem modSheaf_barns (s : State) (i : Nat) (f : Sheaf → Sheaf) : (s.modSheaf i f).barns = s.barns := by
  unfold State.modSheaf; split <;> rfl
@[simp] theorem modSheaf_cores (s : State) (i : Nat) (f : Sheaf → Sheaf) : (s.modSheaf i f).cores = s.cores := by
  unfold State.modSheaf; split <;> rfl
@[simp] theorem modSheaf_stooks (s : State) (i : Nat) (f : Sheaf → Sheaf) : (s.modSheaf i f).stooks = s.stooks := by
  unfold State.modSheaf; split <;> rfl
@[simp] theorem modSheaf_crops (s : State) (i : Nat) (f : Sheaf → Sheaf) : (s.modSheaf i f).crops = s.crops := by
  unfold State.modSheaf; split <;> rfl
@[simp] theorem modSheaf_msgs (s : State) (i : Nat) (f : Sheaf → Sheaf) : (s.modSheaf i f).msgs = s.msgs := by
  unfold State.modSheaf; split <;> rfl
@[simp] theorem modSheaf_waits (s : State) (i : Nat) (f : Sheaf → Sheaf) : (s.modSheaf i f).waits = s.waits := by
  unfold State.modSheaf; split <;> rfl
@[simp] theorem modSheaf_regions (s : State) (i : Nat) (f : Sheaf → Sheaf) : (s.modSheaf i f).regions = s.regions := by
  unfold State.modSheaf; split <;> rfl
@[simp] theorem modSheaf_refitQ (s : State) (i : Nat) (f : Sheaf → Sheaf) : (s.modSheaf i f).refitQ = s.refitQ := by
  unfold State.modSheaf; split <;> rfl
@[simp] theorem modSheaf_pfl2 (s : State) (i : Nat) (f : Sheaf → Sheaf) : (s.modSheaf i f).pfl2 = s.pfl2 := by
  unfold State.modSheaf; split <;> rfl
@[simp] theorem modSheaf_colls (s : State) (i : Nat) (f : Sheaf → Sheaf) : (s.modSheaf i f).colls = s.colls := by
  unfold State.modSheaf; split <;> rfl
@[simp] theorem modSheaf_trans (s : State) (i : Nat) (f : Sheaf → Sheaf) : (s.modSheaf i f).trans = s.trans := by
  unfold State.modSheaf; split <;> rfl
@[simp] theorem modSheaf_queues (s : State) (i : Nat) (f : Sheaf → Sheaf) : (s.modSheaf i f).queues = s.queues := by
  unfold State.modSheaf; split <;> rfl
@[simp] theorem modSheaf_owed (s : State) (i : Nat) (f : Sheaf → Sheaf) : (s.modSheaf i f).owed = s.owed := by
  unfold State.modSheaf; split <;> rfl
@[simp] theorem modSheaf_parts (s : State) (i : Nat) (f : Sheaf → Sheaf) : (s.modSheaf i f).parts = s.parts := by
  unfold State.modSheaf; split <;> rfl
@[simp] theorem modSheaf_trapPage (s : State) (i : Nat) (f : Sheaf → Sheaf) : (s.modSheaf i f).trapPage = s.trapPage := by
  unfold State.modSheaf; split <;> rfl
@[simp] theorem modSheaf_fabric (s : State) (i : Nat) (f : Sheaf → Sheaf) : (s.modSheaf i f).fabric = s.fabric := by
  unfold State.modSheaf; split <;> rfl
@[simp] theorem modSheaf_rel (s : State) (i : Nat) (f : Sheaf → Sheaf) : (s.modSheaf i f).rel = s.rel := by
  unfold State.modSheaf; split <;> rfl
@[simp] theorem modSheaf_asides (s : State) (i : Nat) (f : Sheaf → Sheaf) : (s.modSheaf i f).asides = s.asides := by
  unfold State.modSheaf; split <;> rfl
@[simp] theorem modSheaf_cropSeq (s : State) (i : Nat) (f : Sheaf → Sheaf) : (s.modSheaf i f).cropSeq = s.cropSeq := by
  unfold State.modSheaf; split <;> rfl
@[simp] theorem modSheaf_bell (s : State) (i : Nat) (f : Sheaf → Sheaf) : (s.modSheaf i f).bell = s.bell := by
  unfold State.modSheaf; split <;> rfl
@[simp] theorem modSheaf_clock (s : State) (i : Nat) (f : Sheaf → Sheaf) : (s.modSheaf i f).clock = s.clock := by
  unfold State.modSheaf; split <;> rfl
@[simp] theorem modSheaf_nextId (s : State) (i : Nat) (f : Sheaf → Sheaf) : (s.modSheaf i f).nextId = s.nextId := by
  unfold State.modSheaf; split <;> rfl
@[simp] theorem modSheaf_cur (s : State) (i : Nat) (f : Sheaf → Sheaf) : (s.modSheaf i f).cur = s.cur := by
  unfold State.modSheaf; split <;> rfl
@[simp] theorem modSheaf_slot (s : State) (i : Nat) (f : Sheaf → Sheaf) : (s.modSheaf i f).slot = s.slot := by
  unfold State.modSheaf; split <;> rfl
@[simp] theorem modSheaf_tick (s : State) (i : Nat) (f : Sheaf → Sheaf) : (s.modSheaf i f).tick = s.tick := by
  unfold State.modSheaf; split <;> rfl
@[simp] theorem modSheaf_inputs (s : State) (i : Nat) (f : Sheaf → Sheaf) : (s.modSheaf i f).inputs = s.inputs := by
  unfold State.modSheaf; split <;> rfl
@[simp] theorem modSheaf_due (s : State) (i : Nat) (f : Sheaf → Sheaf) : (s.modSheaf i f).due = s.due := by
  unfold State.modSheaf; split <;> rfl
@[simp] theorem modSheaf_passed (s : State) (i : Nat) (f : Sheaf → Sheaf) : (s.modSheaf i f).passed = s.passed := by
  unfold State.modSheaf; split <;> rfl

/-! `modStook` -/
@[simp] theorem modStook_mem (s : State) (i : Nat) (f : Stook → Stook) : (s.modStook i f).mem = s.mem := by
  unfold State.modStook; split <;> rfl
@[simp] theorem modStook_homes (s : State) (i : Nat) (f : Stook → Stook) : (s.modStook i f).homes = s.homes := by
  unfold State.modStook; split <;> rfl
@[simp] theorem modStook_barns (s : State) (i : Nat) (f : Stook → Stook) : (s.modStook i f).barns = s.barns := by
  unfold State.modStook; split <;> rfl
@[simp] theorem modStook_cores (s : State) (i : Nat) (f : Stook → Stook) : (s.modStook i f).cores = s.cores := by
  unfold State.modStook; split <;> rfl
@[simp] theorem modStook_sheaves (s : State) (i : Nat) (f : Stook → Stook) : (s.modStook i f).sheaves = s.sheaves := by
  unfold State.modStook; split <;> rfl
@[simp] theorem modStook_crops (s : State) (i : Nat) (f : Stook → Stook) : (s.modStook i f).crops = s.crops := by
  unfold State.modStook; split <;> rfl
@[simp] theorem modStook_msgs (s : State) (i : Nat) (f : Stook → Stook) : (s.modStook i f).msgs = s.msgs := by
  unfold State.modStook; split <;> rfl
@[simp] theorem modStook_waits (s : State) (i : Nat) (f : Stook → Stook) : (s.modStook i f).waits = s.waits := by
  unfold State.modStook; split <;> rfl
@[simp] theorem modStook_regions (s : State) (i : Nat) (f : Stook → Stook) : (s.modStook i f).regions = s.regions := by
  unfold State.modStook; split <;> rfl
@[simp] theorem modStook_refitQ (s : State) (i : Nat) (f : Stook → Stook) : (s.modStook i f).refitQ = s.refitQ := by
  unfold State.modStook; split <;> rfl
@[simp] theorem modStook_pfl2 (s : State) (i : Nat) (f : Stook → Stook) : (s.modStook i f).pfl2 = s.pfl2 := by
  unfold State.modStook; split <;> rfl
@[simp] theorem modStook_colls (s : State) (i : Nat) (f : Stook → Stook) : (s.modStook i f).colls = s.colls := by
  unfold State.modStook; split <;> rfl
@[simp] theorem modStook_trans (s : State) (i : Nat) (f : Stook → Stook) : (s.modStook i f).trans = s.trans := by
  unfold State.modStook; split <;> rfl
@[simp] theorem modStook_queues (s : State) (i : Nat) (f : Stook → Stook) : (s.modStook i f).queues = s.queues := by
  unfold State.modStook; split <;> rfl
@[simp] theorem modStook_owed (s : State) (i : Nat) (f : Stook → Stook) : (s.modStook i f).owed = s.owed := by
  unfold State.modStook; split <;> rfl
@[simp] theorem modStook_parts (s : State) (i : Nat) (f : Stook → Stook) : (s.modStook i f).parts = s.parts := by
  unfold State.modStook; split <;> rfl
@[simp] theorem modStook_trapPage (s : State) (i : Nat) (f : Stook → Stook) : (s.modStook i f).trapPage = s.trapPage := by
  unfold State.modStook; split <;> rfl
@[simp] theorem modStook_fabric (s : State) (i : Nat) (f : Stook → Stook) : (s.modStook i f).fabric = s.fabric := by
  unfold State.modStook; split <;> rfl
@[simp] theorem modStook_rel (s : State) (i : Nat) (f : Stook → Stook) : (s.modStook i f).rel = s.rel := by
  unfold State.modStook; split <;> rfl
@[simp] theorem modStook_asides (s : State) (i : Nat) (f : Stook → Stook) : (s.modStook i f).asides = s.asides := by
  unfold State.modStook; split <;> rfl
@[simp] theorem modStook_cropSeq (s : State) (i : Nat) (f : Stook → Stook) : (s.modStook i f).cropSeq = s.cropSeq := by
  unfold State.modStook; split <;> rfl
@[simp] theorem modStook_bell (s : State) (i : Nat) (f : Stook → Stook) : (s.modStook i f).bell = s.bell := by
  unfold State.modStook; split <;> rfl
@[simp] theorem modStook_clock (s : State) (i : Nat) (f : Stook → Stook) : (s.modStook i f).clock = s.clock := by
  unfold State.modStook; split <;> rfl
@[simp] theorem modStook_nextId (s : State) (i : Nat) (f : Stook → Stook) : (s.modStook i f).nextId = s.nextId := by
  unfold State.modStook; split <;> rfl
@[simp] theorem modStook_cur (s : State) (i : Nat) (f : Stook → Stook) : (s.modStook i f).cur = s.cur := by
  unfold State.modStook; split <;> rfl
@[simp] theorem modStook_slot (s : State) (i : Nat) (f : Stook → Stook) : (s.modStook i f).slot = s.slot := by
  unfold State.modStook; split <;> rfl
@[simp] theorem modStook_tick (s : State) (i : Nat) (f : Stook → Stook) : (s.modStook i f).tick = s.tick := by
  unfold State.modStook; split <;> rfl
@[simp] theorem modStook_inputs (s : State) (i : Nat) (f : Stook → Stook) : (s.modStook i f).inputs = s.inputs := by
  unfold State.modStook; split <;> rfl
@[simp] theorem modStook_due (s : State) (i : Nat) (f : Stook → Stook) : (s.modStook i f).due = s.due := by
  unfold State.modStook; split <;> rfl
@[simp] theorem modStook_passed (s : State) (i : Nat) (f : Stook → Stook) : (s.modStook i f).passed = s.passed := by
  unfold State.modStook; split <;> rfl

/-! `modCrop` -/
@[simp] theorem modCrop_mem (s : State) (i : Nat) (f : Crop → Crop) : (s.modCrop i f).mem = s.mem := by
  unfold State.modCrop; split <;> rfl
@[simp] theorem modCrop_homes (s : State) (i : Nat) (f : Crop → Crop) : (s.modCrop i f).homes = s.homes := by
  unfold State.modCrop; split <;> rfl
@[simp] theorem modCrop_barns (s : State) (i : Nat) (f : Crop → Crop) : (s.modCrop i f).barns = s.barns := by
  unfold State.modCrop; split <;> rfl
@[simp] theorem modCrop_cores (s : State) (i : Nat) (f : Crop → Crop) : (s.modCrop i f).cores = s.cores := by
  unfold State.modCrop; split <;> rfl
@[simp] theorem modCrop_sheaves (s : State) (i : Nat) (f : Crop → Crop) : (s.modCrop i f).sheaves = s.sheaves := by
  unfold State.modCrop; split <;> rfl
@[simp] theorem modCrop_stooks (s : State) (i : Nat) (f : Crop → Crop) : (s.modCrop i f).stooks = s.stooks := by
  unfold State.modCrop; split <;> rfl
@[simp] theorem modCrop_msgs (s : State) (i : Nat) (f : Crop → Crop) : (s.modCrop i f).msgs = s.msgs := by
  unfold State.modCrop; split <;> rfl
@[simp] theorem modCrop_waits (s : State) (i : Nat) (f : Crop → Crop) : (s.modCrop i f).waits = s.waits := by
  unfold State.modCrop; split <;> rfl
@[simp] theorem modCrop_regions (s : State) (i : Nat) (f : Crop → Crop) : (s.modCrop i f).regions = s.regions := by
  unfold State.modCrop; split <;> rfl
@[simp] theorem modCrop_refitQ (s : State) (i : Nat) (f : Crop → Crop) : (s.modCrop i f).refitQ = s.refitQ := by
  unfold State.modCrop; split <;> rfl
@[simp] theorem modCrop_pfl2 (s : State) (i : Nat) (f : Crop → Crop) : (s.modCrop i f).pfl2 = s.pfl2 := by
  unfold State.modCrop; split <;> rfl
@[simp] theorem modCrop_colls (s : State) (i : Nat) (f : Crop → Crop) : (s.modCrop i f).colls = s.colls := by
  unfold State.modCrop; split <;> rfl
@[simp] theorem modCrop_trans (s : State) (i : Nat) (f : Crop → Crop) : (s.modCrop i f).trans = s.trans := by
  unfold State.modCrop; split <;> rfl
@[simp] theorem modCrop_queues (s : State) (i : Nat) (f : Crop → Crop) : (s.modCrop i f).queues = s.queues := by
  unfold State.modCrop; split <;> rfl
@[simp] theorem modCrop_owed (s : State) (i : Nat) (f : Crop → Crop) : (s.modCrop i f).owed = s.owed := by
  unfold State.modCrop; split <;> rfl
@[simp] theorem modCrop_parts (s : State) (i : Nat) (f : Crop → Crop) : (s.modCrop i f).parts = s.parts := by
  unfold State.modCrop; split <;> rfl
@[simp] theorem modCrop_trapPage (s : State) (i : Nat) (f : Crop → Crop) : (s.modCrop i f).trapPage = s.trapPage := by
  unfold State.modCrop; split <;> rfl
@[simp] theorem modCrop_fabric (s : State) (i : Nat) (f : Crop → Crop) : (s.modCrop i f).fabric = s.fabric := by
  unfold State.modCrop; split <;> rfl
@[simp] theorem modCrop_rel (s : State) (i : Nat) (f : Crop → Crop) : (s.modCrop i f).rel = s.rel := by
  unfold State.modCrop; split <;> rfl
@[simp] theorem modCrop_asides (s : State) (i : Nat) (f : Crop → Crop) : (s.modCrop i f).asides = s.asides := by
  unfold State.modCrop; split <;> rfl
@[simp] theorem modCrop_cropSeq (s : State) (i : Nat) (f : Crop → Crop) : (s.modCrop i f).cropSeq = s.cropSeq := by
  unfold State.modCrop; split <;> rfl
@[simp] theorem modCrop_bell (s : State) (i : Nat) (f : Crop → Crop) : (s.modCrop i f).bell = s.bell := by
  unfold State.modCrop; split <;> rfl
@[simp] theorem modCrop_clock (s : State) (i : Nat) (f : Crop → Crop) : (s.modCrop i f).clock = s.clock := by
  unfold State.modCrop; split <;> rfl
@[simp] theorem modCrop_nextId (s : State) (i : Nat) (f : Crop → Crop) : (s.modCrop i f).nextId = s.nextId := by
  unfold State.modCrop; split <;> rfl
@[simp] theorem modCrop_cur (s : State) (i : Nat) (f : Crop → Crop) : (s.modCrop i f).cur = s.cur := by
  unfold State.modCrop; split <;> rfl
@[simp] theorem modCrop_slot (s : State) (i : Nat) (f : Crop → Crop) : (s.modCrop i f).slot = s.slot := by
  unfold State.modCrop; split <;> rfl
@[simp] theorem modCrop_tick (s : State) (i : Nat) (f : Crop → Crop) : (s.modCrop i f).tick = s.tick := by
  unfold State.modCrop; split <;> rfl
@[simp] theorem modCrop_inputs (s : State) (i : Nat) (f : Crop → Crop) : (s.modCrop i f).inputs = s.inputs := by
  unfold State.modCrop; split <;> rfl
@[simp] theorem modCrop_due (s : State) (i : Nat) (f : Crop → Crop) : (s.modCrop i f).due = s.due := by
  unfold State.modCrop; split <;> rfl
@[simp] theorem modCrop_passed (s : State) (i : Nat) (f : Crop → Crop) : (s.modCrop i f).passed = s.passed := by
  unfold State.modCrop; split <;> rfl

/-! Reading back -/
@[simp] theorem core_setCore (s : State) (c d : Nat) (v : Core) : (s.setCore c v).core d = if c = d then v else s.core d := by
  simp [State.core]
@[simp] theorem barn_setBarn (s : State) (c d : Nat) (v : Barn) : (s.setBarn c v).barn d = if c = d then v else s.barn d := by
  simp [State.barn]
@[simp] theorem home_setHome (s : State) (c d : Nat) (v : HomeLine) : (s.setHome c v).home d = if c = d then v else s.home d := by
  simp [State.home]
@[simp] theorem queue_setQueue (s : State) (c d : Nat) (v : LQueue) : (s.setQueue c v).queue d = if c = d then v else s.queue d := by
  simp [State.queue]
@[simp] theorem part_setPart (s : State) (c d : Nat) (v : Part) : (s.setPart c v).part d = if c = d then v else s.part d := by
  simp [State.part]
@[simp] theorem group_setGroup (s : State) (c d : Nat) (v : Group) : (s.setGroup c v).group d = if c = d then v else s.group d := by
  simp [State.group, State.setGroup]
@[simp] theorem link_setLink (s : State) (c d : Nat) (v : Link) : (s.setLink c v).link d = if c = d then v else s.link d := by
  simp [State.link, State.setLink]
@[simp] theorem sheaf_setSheaf (s : State) (c d : Nat) (v : Sheaf) :
    (s.setSheaf c v).sheaf? d = if c = d then some v else s.sheaf? d := kv_find_put ..
@[simp] theorem stook_setStook (s : State) (c d : Nat) (v : Stook) :
    (s.setStook c v).stook? d = if c = d then some v else s.stook? d := kv_find_put ..
@[simp] theorem crop_setCrop (s : State) (c d : Nat) (v : Crop) :
    (s.setCrop c v).crop? d = if c = d then some v else s.crop? d := kv_find_put ..
theorem sheaf_modSheaf (s : State) (c d : Nat) (f : Sheaf → Sheaf) :
    (s.modSheaf c f).sheaf? d = if c = d then (s.sheaf? d).map f else s.sheaf? d := by
  unfold State.modSheaf; split
  · next h => simp; split
              · next e => subst e; simp [h]
              · rfl
  · next h => split
              · next e => subst e; simp [h]
              · rfl
theorem stook_modStook (s : State) (c d : Nat) (f : Stook → Stook) :
    (s.modStook c f).stook? d = if c = d then (s.stook? d).map f else s.stook? d := by
  unfold State.modStook; split
  · next h => simp; split
              · next e => subst e; simp [h]
              · rfl
  · next h => split
              · next e => subst e; simp [h]
              · rfl
theorem crop_modCrop (s : State) (c d : Nat) (f : Crop → Crop) :
    (s.modCrop c f).crop? d = if c = d then (s.crop? d).map f else s.crop? d := by
  unfold State.modCrop; split
  · next h => simp; split
              · next e => subst e; simp [h]
              · rfl
  · next h => split
              · next e => subst e; simp [h]
              · rfl
/-- A change of a sheaf that is resident, as a write. -/
theorem modSheaf_some (s : State) (c : Nat) (f : Sheaf → Sheaf) (sh : Sheaf) (h : s.sheaf? c = some sh) :
    s.modSheaf c f = s.setSheaf c (f sh) := by simp [State.modSheaf, h]
theorem modStook_some (s : State) (c : Nat) (f : Stook → Stook) (k : Stook) (h : s.stook? c = some k) :
    s.modStook c f = s.setStook c (f k) := by simp [State.modStook, h]
theorem modCrop_some (s : State) (c : Nat) (f : Crop → Crop) (k : Crop) (h : s.crop? c = some k) :
    s.modCrop c f = s.setCrop c (f k) := by simp [State.modCrop, h]

end Sys2Proof.Laws
end

