-- ==== Sys2Proof/Laws/Sheaf.lean ====
section
/-! SUPPORT. Lanes and registers of a sheaf: what the updates of some lanes, and the writes of groups, leave. -/
namespace Sys2Proof.Laws

open Sys2Proof Sys2Proof.Machine

theorem mem_lanesOf (m : LaneSet) (i : Nat) : i ∈ lanesOf m ↔ m.getLsbD i = true := by
  simp only [lanesOf, List.mem_filter, List.mem_range]
  exact ⟨fun h => h.2, fun h => ⟨by by_contra hi; rw [BitVec.getLsbD_of_ge _ _ (by omega)] at h; simp at h, h⟩⟩

theorem nodup_lanesOf (m : LaneSet) : (lanesOf m).Nodup := List.Nodup.filter _ List.nodup_range

theorem lt_of_mem_lanesOf (m : LaneSet) (i : Nat) (h : i ∈ lanesOf m) : i < 64 := by
  have := (List.mem_filter.mp h).1
  simpa using this

@[simp] theorem lane_setLane (sh : Sheaf) (i j : Nat) (l : Lane) : (sh.setLane i l).lane j = if i = j then l else sh.lane j := by
  simp [Sheaf.lane, Sheaf.setLane]
@[simp] theorem vreg_setVreg (sh : Sheaf) (r i q j : Nat) (w : Word) :
    (sh.setVreg r i w).vreg q j = if 64 * r + i = 64 * q + j then w else sh.vreg q j := by
  simp [Sheaf.vreg, Sheaf.setVreg]
@[simp] theorem sreg_setSreg (sh : Sheaf) (r q : Nat) (w : Word) : (sh.setSreg r w).sreg q = if r = q then w else sh.sreg q := by
  simp [Sheaf.sreg, Sheaf.setSreg]
@[simp] theorem sreg_setVreg (sh : Sheaf) (r i q : Nat) (w : Word) : (sh.setVreg r i w).sreg q = sh.sreg q := rfl
@[simp] theorem vreg_setSreg (sh : Sheaf) (r q j : Nat) (w : Word) : (sh.setSreg r w).vreg q j = sh.vreg q j := rfl

/-! ### Changes of lanes -/

theorem foldl_modLane_lane (f : Nat → Lane → Lane) (l : List Nat) (hl : l.Nodup) : ∀ (sh : Sheaf) (i : Nat),
    (l.foldl (fun sh i => sh.modLane i (f i)) sh).lane i = if i ∈ l then f i (sh.lane i) else sh.lane i := by
  induction l with
  | nil => intro sh i; simp
  | cons a r ih =>
    intro sh i
    obtain ⟨h1, h2⟩ := List.nodup_cons.mp hl
    rw [List.foldl_cons, ih h2, Sheaf.modLane, lane_setLane]
    by_cases h : a = i
    · subst h; simp [h1]
    · simp [h, Ne.symm h]

theorem foldl_modLane_frame (f : Nat → Lane → Lane) (l : List Nat) : ∀ (sh : Sheaf),
    { l.foldl (fun sh i => sh.modLane i (f i)) sh with lanes := sh.lanes } = sh := by
  induction l with
  | nil => intro sh; rfl
  | cons a r ih =>
    intro sh
    rw [List.foldl_cons]
    have h := ih (sh.modLane a (f a))
    generalize List.foldl (fun sh i => sh.modLane i (f i)) (sh.modLane a (f a)) r = x at h ⊢
    have h2 := congrArg (fun y : Sheaf => { y with lanes := sh.lanes }) h
    exact h2

/-- A lane after a change of the lanes of a set. -/
theorem lane_modLanes (sh : Sheaf) (m : LaneSet) (f : Nat → Lane → Lane) (i : Nat) :
    (sh.modLanes m f).lane i = if m.getLsbD i then f i (sh.lane i) else sh.lane i := by
  rw [Sheaf.modLanes, foldl_modLane_lane f _ (nodup_lanesOf m)]
  by_cases h : i ∈ lanesOf m
  · rw [if_pos h, if_pos ((mem_lanesOf m i).mp h)]
  · rw [if_neg h, if_neg (fun h2 => h ((mem_lanesOf m i).mpr h2))]

/-- Nothing but lanes changes. -/
theorem modLanes_frame (sh : Sheaf) (m : LaneSet) (f : Nat → Lane → Lane) :
    { sh.modLanes m f with lanes := sh.lanes } = sh := foldl_modLane_frame f _ sh

/-- A change of lanes, as the change of the field. -/
theorem modLanes_eq (sh : Sheaf) (m : LaneSet) (f : Nat → Lane → Lane) :
    sh.modLanes m f = { sh with lanes := (sh.modLanes m f).lanes } := by
  have h := congrArg (fun y : Sheaf => { y with lanes := (sh.modLanes m f).lanes }) (modLanes_frame sh m f)
  exact h

@[simp] theorem vreg_modLanes (sh : Sheaf) (m : LaneSet) (f : Nat → Lane → Lane) (r i : Nat) :
    (sh.modLanes m f).vreg r i = sh.vreg r i := by rw [modLanes_eq]; rfl
@[simp] theorem sreg_modLanes (sh : Sheaf) (m : LaneSet) (f : Nat → Lane → Lane) (r : Nat) :
    (sh.modLanes m f).sreg r = sh.sreg r := by rw [modLanes_eq]; rfl

/-! ### Writes of groups -/

theorem writeGroup_z (sh : Sheaf) (i : Nat) (ws : List Word) : ∀ k, sh.writeGroup .z i k ws = sh := by
  induction ws with
  | nil => intro k; rfl
  | cons w ws ih => intro k; exact ih (k + 1)

/-- A register of a lane after a write of a group of v registers in one lane. -/
theorem vreg_writeGroup (n : Fin 96) (i : Nat) (hi : i < 64) (ws : List Word) : ∀ (sh : Sheaf) (k r j : Nat), j < 64 →
    (sh.writeGroup (.v n) i k ws).vreg r j =
      if j = i ∧ n.val + k ≤ r ∧ r < n.val + k + ws.length then ws.getD (r - (n.val + k)) 0 else sh.vreg r j := by
  induction ws with
  | nil =>
    intro sh k r j hj
    have h : ¬ (j = i ∧ n.val + k ≤ r ∧ r < n.val + k + ([] : List Word).length) := by simp
    rw [if_neg h]; rfl
  | cons w ws ih =>
    intro sh k r j hj
    rw [Sheaf.writeGroup, ih _ _ _ _ hj]
    simp only [Sheaf.writeReg, vreg_setVreg, List.length_cons]
    by_cases h1 : j = i ∧ n.val + (k + 1) ≤ r ∧ r < n.val + (k + 1) + ws.length
    · have h2 : j = i ∧ n.val + k ≤ r ∧ r < n.val + k + (ws.length + 1) := by omega
      rw [if_pos h1, if_pos h2]
      have : r - (n.val + k) = (r - (n.val + (k + 1))) + 1 := by omega
      rw [this, List.getD_cons_succ]
    · rw [if_neg h1]
      by_cases h3 : j = i ∧ r = n.val + k
      · obtain ⟨rfl, rfl⟩ := h3
        simp
      · have h2 : ¬ (j = i ∧ n.val + k ≤ r ∧ r < n.val + k + (ws.length + 1)) := by omega
        have h4 : ¬ (64 * (n.val + k) + i = 64 * r + j) := by omega
        rw [if_neg h2, if_neg h4]

/-- A register after the lanes of a list have each written a group. -/
theorem vreg_writeGroups (n : Fin 96) (vals : List (Nat × List Word)) (hb : ∀ v ∈ vals, v.1 < 64)
    (hn : (vals.map (·.1)).Nodup) :
    ∀ (sh : Sheaf) (r j : Nat), j < 64 →
    (vals.foldl (fun (sh : Sheaf) v => sh.writeGroup (.v n) v.1 0 v.2) sh).vreg r j =
      match vals.lookup j with
      | some ws => if n.val ≤ r ∧ r < n.val + ws.length then ws.getD (r - n.val) 0 else sh.vreg r j
      | none => sh.vreg r j := by
  induction vals with
  | nil => intro sh r j _; rfl
  | cons v vals ih =>
    intro sh r j hj
    obtain ⟨a, ws⟩ := v
    simp only [List.map_cons, List.nodup_cons] at hn
    rw [List.foldl_cons, ih (fun v hv => hb v (List.mem_cons_of_mem _ hv)) hn.2 _ _ _ hj]
    have ha := hb (a, ws) (List.mem_cons_self ..)
    rw [vreg_writeGroup n a ha ws sh 0 r j hj, List.lookup_cons]
    by_cases h : j = a
    · subst h
      have hnone : List.lookup j vals = none := by
        rw [List.lookup_eq_none_iff]
        intro p hp
        refine bne_iff_ne.mpr ?_
        intro hc
        exact hn.1 (List.mem_map.mpr ⟨p, hp, hc.symm⟩)
      simp [hnone]
    · simp only [Nat.add_zero, h, false_and, if_false, beq_eq_false_iff_ne.mpr h]

theorem lookup_map_lanes (l : List Nat) (f : Nat → List Word) (j : Nat) :
    (l.map (fun i => (i, f i))).lookup j = if j ∈ l then some (f j) else none := by
  induction l with
  | nil => simp
  | cons a r ih =>
    rw [List.map_cons, List.lookup_cons]
    by_cases h : j = a
    · subst h; simp
    · simp [beq_eq_false_iff_ne.mpr h, ih, h]

theorem lookup_map_lanes' {β : Type} (l : List Nat) (f : Nat → β) (j : Nat) :
    (l.map (fun i => (i, f i))).lookup j = if j ∈ l then some (f j) else none := by
  induction l with
  | nil => simp
  | cons a r ih =>
    rw [List.map_cons, List.lookup_cons]
    by_cases h : j = a
    · subst h; simp
    · simp [beq_eq_false_iff_ne.mpr h, ih, h]

theorem writeGroup_v_frame (n : Fin 96) (i : Nat) (ws : List Word) : ∀ (sh : Sheaf) (k : Nat),
    { sh.writeGroup (.v n) i k ws with regs := sh.regs } = sh := by
  induction ws with
  | nil => intro sh k; rfl
  | cons w ws ih =>
    intro sh k
    have h := congrArg (fun y : Sheaf => { y with regs := sh.regs }) (ih (sh.writeReg (.v n) i k w) (k + 1))
    exact h

end Sys2Proof.Laws
end

