-- ==== Sys2Proof/Laws/Issue.lean ====
section
/-! SUPPORT. What the issue of an instruction leaves: one lemma for each shape of result. -/
namespace Sys2Proof.Laws

open Sys2Proof Sys2Proof.Machine Sys2Proof.Safety

theorem kv_put_put {α : Type} (m : KV α) (k : Nat) (v w : α) : (m.put k v).put k w = m.put k w := by
  induction m with
  | nil => simp [KV.put]
  | cons e r ih =>
    obtain ⟨a, x⟩ := e
    by_cases h : a = k
    · simp [KV.put, h]
    · by_cases h2 : k < a
      · simp [KV.put, h, h2]
      · simp [KV.put, h, h2, ih]

/-- The collector's part of an issue changes cores only. -/
theorem touchRegs_frame (s : State) (sid : Nat) (ds : List RegUse) :
    s.touchRegs sid ds = { s with cores := (s.touchRegs sid ds).cores } := by
  unfold State.touchRegs
  split
  · rfl
  · dsimp only
    split
    · rfl
    · split <;> rfl

theorem touchRegs_setSheaf (s : State) (sid : Nat) (ds : List RegUse) (sh sh' : Sheaf) (h : s.sheaf? sid = some sh)
    (hc : sh'.core = sh.core) : ((s.setSheaf sid sh').touchRegs sid ds).cores = (s.touchRegs sid ds).cores := by
  unfold State.touchRegs
  rw [sheaf_setSheaf, if_pos rfl, h]
  simp only [hc]
  have hcore : (s.setSheaf sid sh').core sh.core = s.core sh.core := rfl
  rw [hcore]
  split
  · rfl
  · split <;> rfl

theorem retouch_frame (t : State) (i : Instr) (k : Ctx) : t.retouch i k = { t with cores := (t.retouch i k).cores } := by
  unfold State.retouch
  split
  · rfl
  · exact touchRegs_frame _ _ _
/-- An instruction that has left no new flight is not under way. -/
theorem underWay_flights (k : Ctx) (t : State) (sh : Sheaf) (h : t.sheaf? k.sid = some sh) (hf : sh.flights = k.sh.flights) :
    k.underWay t = false := by
  simp only [Ctx.underWay, h, Option.map_some, Option.getD_some, hf, List.any_eq_false]
  intro f hm
  simp only [Bool.not_eq_true', Bool.not_eq_false, List.any_eq_true]
  exact ⟨f, hm, beq_self_eq_true _⟩

/-- The retirement of an instruction whose own effect changes only its sheaf. -/
theorem retire_sheaf (s : State) (i : Instr) (k : Ctx) (d : Done) (sh' : Sheaf) (h : s.sheaf? k.sid = some k.sh)
    (hd : d.st = s ∧ sh' = k.sh ∨ d.st = s.setSheaf k.sid sh') (hc : sh'.core = k.sh.core)
    (hfl : sh'.flights = k.sh.flights) :
    s.retire i k d = withSheaf i s k (match k.replay with
      | some _ => { sh' with replay := sh'.replay.tail }
      | none => sh'.modLanes k.path (fun l x => x.issued i k d l)) := by
  have h1 : d.st.sheaf? k.sid = some sh' := by
    rcases hd with ⟨h1, h2⟩ | h1
    · rw [h1, h2]; exact h
    · rw [h1, sheaf_setSheaf, if_pos rfl]
  have hcores : (d.st.retouch i k).cores = (s.retouch i k).cores := by
    rcases hd with ⟨h3, _⟩ | h3
    · rw [h3]
    · unfold State.retouch
      rw [underWay_flights k d.st sh' h1 hfl, underWay_flights k s k.sh h rfl]
      split
      · rw [h3]; rfl
      · rw [h3]; exact touchRegs_setSheaf s k.sid i.dsts k.sh sh' h hc
  have hput : ∀ x, d.st.sheaves.put k.sid x = s.sheaves.put k.sid x := by
    intro x
    rcases hd with ⟨h1, _⟩ | h1
    · rw [h1]
    · rw [h1, setSheaf_sheaves, kv_put_put]
  have hfr : ∀ x c, ({ d.st with sheaves := x, cores := c } : State) = { s with sheaves := x, cores := c } := by
    intro x c
    rcases hd with ⟨h1, _⟩ | h1
    · rw [h1]
    · rw [h1]; rfl
  have h2 : (d.st.retouch i k).sheaf? k.sid = some sh' := by rw [retouch_frame]; exact h1
  unfold State.retire withSheaf
  cases hk : k.replay <;>
  · dsimp only
    rw [modSheaf_some _ _ _ _ h2, retouch_frame, hcores]
    unfold State.setSheaf
    dsimp only
    rw [hput]
    exact hfr _ _

/-- The state after an instruction that issues. -/
theorem issueState_of (i : Instr) (s : State) (k : Ctx) (body : Ctx → Except TrapInfo Done) (h : Issues i s k) (d : Done)
    (hb : body k = .ok d) (hd : d.blocked = false) (ha : d.after = none) : issueState i s body = s.retire i k d := by
  obtain ⟨⟨cur, h1, h2, h3⟩, h4, h5, h6⟩ := h
  unfold issueState
  simp only [h1, h2, h4, ← h3, h5, h6, hb, hd, ha, if_false, Bool.false_eq_true]

theorem issues_sheaf {i : Instr} {s : State} {k : Ctx} (h : Issues i s k) : s.sheaf? k.sid = some k.sh := by
  obtain ⟨⟨cur, h1, h2, h3⟩, -⟩ := h
  have : k.sid = cur.sid := by rw [h3]; rfl
  rw [this]; exact h2

/-! ### Lanes of the path -/

/-- The lanes after a retirement. -/
theorem lanesAfter_of (i : Instr) (k : Ctx) (d : Done) (sh' : Sheaf) (own g : Nat → Lane → Lane)
    (hown : ∀ l < 64, sh'.lane l = own l (k.sh.lane l)) (hr : sh'.replay = k.sh.replay)
    (hg : k.replay = none → ∀ l < 64, ∀ x, x = own l (k.sh.lane l) → x.issued i k d l = g l x) :
    LanesAfter k (match k.replay with
      | some _ => { sh' with replay := sh'.replay.tail }
      | none => sh'.modLanes k.path (fun l x => x.issued i k d l)) own g := by
  constructor
  · intro hn
    rw [hn]
    refine ⟨?_, ?_⟩
    · rw [modLanes_eq]; exact hr
    · intro l hl
      rw [lane_modLanes, hown l hl]
      split
      · exact hg hn l hl _ rfl
      · rfl
  · intro hn
    cases hk : k.replay with
    | none => exact absurd hk hn
    | some o => exact ⟨by dsimp only; rw [hr], hown⟩

theorem issued_shifted (i : Instr) (k : Ctx) (d : Done) (l : Nat) (x : Lane) (hu : i.cls ≠ .uniform) (ht : d.target = none)
    (hs : d.stay.getLsbD l = false) (hb : d.branch = false) (hr : d.refills = false := by rfl) :
    x.issued i k d l = shifted k (if k.e.getLsbD l then d.val.lookup l else none) x := by
  simp only [Lane.issued, hu, ht, hs, hb, hr, if_false, Bool.false_and, Bool.false_eq_true, ite_self]
  rfl

theorem issued_passed (i : Instr) (k : Ctx) (d : Done) (l : Nat) (x : Lane) (hu : i.cls = .uniform) (ht : d.target = none)
    (hs : d.stay.getLsbD l = false) : x.issued i k d l = passed k x := by
  simp only [Lane.issued, hu, ht, hs, if_true, if_false, Bool.false_eq_true, ite_self]
  rfl

/-! ### Results in lane registers -/

theorem lanes_writeGroups (d : Reg) (hd : d.isLaneDst = true) (vals : List (Nat × List Word)) : ∀ sh : Sheaf,
    { vals.foldl (fun (sh : Sheaf) v => sh.writeGroup d v.1 0 v.2) sh with regs := sh.regs } = sh := by
  induction vals with
  | nil => intro sh; rfl
  | cons v vals ih =>
    intro sh
    rw [List.foldl_cons]
    have h := congrArg (fun y : Sheaf => { y with regs := sh.regs }) (ih (sh.writeGroup d v.1 0 v.2))
    have h2 : { sh.writeGroup d v.1 0 v.2 with regs := sh.regs } = sh := by
      cases d with
      | v n => exact writeGroup_v_frame n v.1 v.2 sh 0
      | z => rw [writeGroup_z]
      | s n => simp [Reg.isLaneDst] at hd
      | li => simp [Reg.isLaneDst] at hd
      | b n => simp [Reg.isLaneDst] at hd
    exact h.trans h2

theorem foldl_writeGroup_z (vals : List (Nat × List Word)) (sh : Sheaf) :
    vals.foldl (fun (sh : Sheaf) v => sh.writeGroup .z v.1 0 v.2) sh = sh := by
  induction vals generalizing sh with
  | nil => rfl
  | cons v vals ih => rw [List.foldl_cons, writeGroup_z]; exact ih sh

/-- The sheaf after the lanes of E have written a group each. -/
def groupSheaf (k : Ctx) (d : Reg) (f : Nat → List Word) : Sheaf :=
  ((lanesOf k.e).map (fun l => (l, f l))).foldl (fun (sh : Sheaf) v => sh.writeGroup d v.1 0 v.2) k.sh

theorem groupSheaf_regs (k : Ctx) (d : Reg) (hd : d.isLaneDst = true) (f : Nat → List Word) :
    RegsAfter k (groupSheaf k d f) d f := by
  intro r l hl
  cases d with
  | v n =>
    rw [groupSheaf, vreg_writeGroups n _ _ _ _ _ _ hl, lookup_map_lanes]
    · dsimp only
      by_cases he : k.e.getLsbD l = true
      · rw [if_pos ((mem_lanesOf _ _).mpr he)]; simp [he]
      · rw [if_neg (fun h => he ((mem_lanesOf _ _).mp h))]; simp [he]
    · intro v hv
      obtain ⟨x, hx, rfl⟩ := List.mem_map.mp hv
      exact lt_of_mem_lanesOf _ _ hx
    · simp only [List.map_map]
      have : (Prod.fst ∘ fun l => (l, f l)) = id := rfl
      rw [show ((fun x : Nat × List Word => x.1) ∘ fun l => (l, f l)) = id from rfl, List.map_id]
      exact nodup_lanesOf _
  | z => rw [groupSheaf, foldl_writeGroup_z]
  | s n => simp [Reg.isLaneDst] at hd
  | li => simp [Reg.isLaneDst] at hd
  | b n => simp [Reg.isLaneDst] at hd

theorem groupDone_st (s : State) (k : Ctx) (d : Reg) (f : Nat → List Word) (h : s.sheaf? k.sid = some k.sh) :
    (groupDone s k d f).st = s.setSheaf k.sid (groupSheaf k d f) := by
  simp only [groupDone]; rw [modSheaf_some _ _ _ _ h]; rfl

/-- A lane-set instruction whose lanes of E write a group each. -/
theorem issue_group (i : Instr) (s : State) (k : Ctx) (d : Reg) (f : Ctx → Nat → List Word) (h : Issues i s k)
    (hu : i.cls ≠ .uniform) (hd : d.isLaneDst = true) :
    LaneResult i s (issueState i s (fun k => .ok (groupDone s k d (f k)))) k d (f k) := by
  have hs := issues_sheaf h
  rw [issueState_of i s k _ h (groupDone s k d (f k)) rfl rfl rfl]
  have hfr : { groupSheaf k d (f k) with regs := k.sh.regs } = k.sh := lanes_writeGroups d hd _ k.sh
  have hc : (groupSheaf k d (f k)).core = k.sh.core := by have h := congrArg Sheaf.core hfr; exact h
  rw [retire_sheaf s i k _ (groupSheaf k d (f k)) hs (.inr (groupDone_st s k d (f k) hs)) hc (by have h := congrArg Sheaf.flights hfr; exact h)]
  refine ⟨_, rfl, ?_, ?_, ?_⟩
  · split
    · have h := congrArg (fun y : Sheaf => { y with lanes := k.sh.lanes, replay := k.sh.replay }) hfr; exact h
    · rw [modLanes_eq]
      have h := congrArg (fun y : Sheaf => { y with lanes := k.sh.lanes, replay := k.sh.replay }) hfr; exact h
  · have hr := groupSheaf_regs k d hd (f k)
    split
    · exact hr
    · intro r l hl
      rw [vreg_modLanes]; exact hr r l hl
  · refine lanesAfter_of i k _ _ _ _ ?_ ?_ ?_
    · intro l _
      have h := congrArg (fun y : Sheaf => y.lane l) hfr; exact h
    · have h := congrArg Sheaf.replay hfr; exact h
    · intro _ l hl x _
      rw [issued_shifted i k _ l x hu rfl (by simp [groupDone]) rfl]
      congr 1
      split
      · next he =>
        simp only [groupDone, List.map_map]
        rw [show ((fun v : Nat × List Word => (v.1, v.2.headD 0)) ∘ fun l => (l, f k l)) = (fun l => (l, (f k l).headD 0)) from rfl,
          lookup_map_lanes', if_pos ((mem_lanesOf _ _).mpr he)]
      · rfl

/-! ### Predicates -/

theorem issue_pred (i : Instr) (s : State) (k : Ctx) (p : Nat) (f : Ctx → Nat → Bool) (h : Issues i s k)
    (hu : i.cls ≠ .uniform) : PredResult i s (issueState i s (fun k => .ok (predDone s k p (f k)))) k p (f k) := by
  have hs := issues_sheaf h
  rw [issueState_of i s k _ h (predDone s k p (f k)) rfl rfl rfl]
  have hst : (predDone s k p (f k)).st = s.setSheaf k.sid (k.sh.modLanes k.e (fun l x => x.setPred p (f k l))) := by
    simp only [predDone]; rw [modSheaf_some _ _ _ _ hs]
  have hfr := modLanes_frame k.sh k.e (fun l x => x.setPred p (f k l))
  rw [retire_sheaf s i k _ _ hs (.inr hst) (by have h := congrArg Sheaf.core hfr; exact h) (by have h := congrArg Sheaf.flights hfr; exact h)]
  refine ⟨_, rfl, ?_, ?_⟩
  · split
    · have h := congrArg (fun y : Sheaf => { y with replay := k.sh.replay }) hfr; exact h
    · rw [modLanes_eq]
      have h := congrArg (fun y : Sheaf => { y with replay := k.sh.replay }) hfr; exact h
  · refine lanesAfter_of i k _ _ _ _ ?_ ?_ ?_
    · intro l _; rw [lane_modLanes]; rfl
    · have h := congrArg Sheaf.replay hfr; exact h
    · intro _ l _ x _
      rw [issued_shifted i k _ l x hu rfl (by simp [predDone]) rfl]
      simp [predDone]

/-! ### Uniform registers -/

theorem sreg_writeGroup (n : Fin 24) (ws : List Word) : ∀ (sh : Sheaf) (k r : Nat),
    (sh.writeGroup (.s n) 0 k ws).sreg r =
      if n.val + k ≤ r ∧ r < n.val + k + ws.length then ws.getD (r - (n.val + k)) 0 else sh.sreg r := by
  induction ws with
  | nil =>
    intro sh k r
    have h : ¬ (n.val + k ≤ r ∧ r < n.val + k + ([] : List Word).length) := by simp
    rw [if_neg h]; rfl
  | cons w ws ih =>
    intro sh k r
    rw [Sheaf.writeGroup, ih]
    simp only [Sheaf.writeReg, sreg_setSreg, List.length_cons]
    by_cases h1 : n.val + (k + 1) ≤ r ∧ r < n.val + (k + 1) + ws.length
    · have h2 : n.val + k ≤ r ∧ r < n.val + k + (ws.length + 1) := by omega
      rw [if_pos h1, if_pos h2]
      have : r - (n.val + k) = (r - (n.val + (k + 1))) + 1 := by omega
      rw [this, List.getD_cons_succ]
    · rw [if_neg h1]
      by_cases h3 : r = n.val + k
      · subst h3; simp
      · have h2 : ¬ (n.val + k ≤ r ∧ r < n.val + k + (ws.length + 1)) := by omega
        rw [if_neg h2, if_neg (Ne.symm h3)]

theorem writeGroup_s_frame (n : Fin 24) (ws : List Word) : ∀ (sh : Sheaf) (k : Nat),
    { sh.writeGroup (.s n) 0 k ws with s := sh.s } = sh := by
  induction ws with
  | nil => intro sh k; rfl
  | cons w ws ih =>
    intro sh k
    have h := congrArg (fun y : Sheaf => { y with s := sh.s }) (ih (sh.writeReg (.s n) 0 k w) (k + 1))
    exact h

theorem issue_uni (i : Instr) (s : State) (k : Ctx) (d : SReg) (f : Ctx → List Word) (h : Issues i s k)
    (hu : i.cls = .uniform) : UniResult i s (issueState i s (fun k => .ok (uniDone s k d (f k)))) k d (f k) := by
  have hs := issues_sheaf h
  rw [issueState_of i s k _ h (uniDone s k d (f k)) rfl rfl rfl]
  have hst : (uniDone s k d (f k)).st = s.setSheaf k.sid (k.sh.writeGroup d.reg 0 0 (f k)) := by
    simp only [uniDone]; rw [modSheaf_some _ _ _ _ hs]
  have hfr : { k.sh.writeGroup d.reg 0 0 (f k) with s := k.sh.s } = k.sh := by
    cases d with
    | s n => exact writeGroup_s_frame n (f k) k.sh 0
    | z => rw [show SReg.z.reg = .z from rfl, writeGroup_z]
  rw [retire_sheaf s i k _ _ hs (.inr hst) (by have h := congrArg Sheaf.core hfr; exact h) (by have h := congrArg Sheaf.flights hfr; exact h)]
  refine ⟨_, rfl, ?_, ?_, ?_⟩
  · split
    · have h := congrArg (fun y : Sheaf => { y with lanes := k.sh.lanes, replay := k.sh.replay }) hfr; exact h
    · rw [modLanes_eq]
      have h := congrArg (fun y : Sheaf => { y with lanes := k.sh.lanes, replay := k.sh.replay }) hfr; exact h
  · have hr : ∀ r, (k.sh.writeGroup d.reg 0 0 (f k)).sreg r = match d with
        | .s n => if n.val ≤ r ∧ r < n.val + (f k).length then (f k).getD (r - n.val) 0 else k.sh.sreg r
        | .z => k.sh.sreg r := by
      intro r
      cases d with
      | s n => exact sreg_writeGroup n (f k) k.sh 0 r
      | z => rw [show SReg.z.reg = .z from rfl, writeGroup_z]
    split
    · exact hr
    · intro r; rw [sreg_modLanes]; exact hr r
  · refine lanesAfter_of i k _ _ _ _ ?_ ?_ ?_
    · intro l _; have h := congrArg (fun y : Sheaf => y.lane l) hfr; exact h
    · have h := congrArg Sheaf.replay hfr; exact h
    · intro _ l _ x _
      exact issued_passed i k _ l x hu rfl (by simp [uniDone])

/-! ### Masks and lanes -/

theorem mask_setMask (sh : Sheaf) (m j : Fin 12) (v : LaneSet) :
    (sh.setMask m v).mask j = if j = m then v &&& sh.full else sh.mask j := by
  simp only [Sheaf.mask, Sheaf.setMask, kv_getD_put]
  have hf : ∀ x, Sheaf.full { sh with m := x } = sh.full := fun _ => rfl
  by_cases h : j = m
  · subst h; simp [hf, BitVec.and_assoc]
  · rw [if_neg h, if_neg (fun e => h (Fin.ext e.symm)), hf]

/-- An instruction that writes one mask. -/
theorem issue_mask (i : Instr) (s : State) (k : Ctx) (m : Fin 12) (v : Ctx → LaneSet) (g : Nat → Lane → Lane) (h : Issues i s k)
    (hg : ∀ l < 64, ∀ x, Lane.issued x i k (maskDone s k m (v k)) l = g l x) :
    MaskResult i s (issueState i s (fun k => .ok (maskDone s k m (v k)))) k m (v k) g := by
  have hs := issues_sheaf h
  rw [issueState_of i s k _ h (maskDone s k m (v k)) rfl rfl rfl]
  have hst : (maskDone s k m (v k)).st = s.setSheaf k.sid (k.sh.setMask m (v k)) := by
    simp only [maskDone]; rw [modSheaf_some _ _ _ _ hs]
  rw [retire_sheaf s i k _ _ hs (.inr hst) rfl rfl]
  refine ⟨_, rfl, ?_, ?_, ?_⟩
  · split
    · rfl
    · rw [modLanes_eq]; rfl
  · split
    · exact fun j => mask_setMask _ _ _ _
    · intro j; rw [modLanes_eq]; exact mask_setMask _ _ _ _
  · refine lanesAfter_of i k _ _ _ _ ?_ rfl ?_
    · intro l _; rfl
    · intro _ l hl x _; exact hg l hl x

/-- An instruction whose effect on the state is on the lanes of a set alone. -/
theorem issue_lanes (i : Instr) (s : State) (k : Ctx) (body : Ctx → Except TrapInfo Done) (d : Done) (m : LaneSet)
    (f g : Nat → Lane → Lane) (h : Issues i s k) (hb : body k = .ok d) (hd : d.blocked = false) (ha : d.after = none)
    (hst : d.st = s.modSheaf k.sid (fun sh => sh.modLanes m f))
    (hg : ∀ l < 64, ∀ x, x = (if m.getLsbD l then f l (k.sh.lane l) else k.sh.lane l) → Lane.issued x i k d l = g l x) :
    LanesOnly i s (issueState i s body) k (fun l x => if m.getLsbD l then f l x else x) g := by
  have hs := issues_sheaf h
  rw [issueState_of i s k _ h d hb hd ha]
  rw [modSheaf_some _ _ _ _ hs] at hst
  have hfr := modLanes_frame k.sh m f
  rw [retire_sheaf s i k _ _ hs (.inr hst) (by have h := congrArg Sheaf.core hfr; exact h) (by have h := congrArg Sheaf.flights hfr; exact h)]
  refine ⟨_, rfl, ?_, ?_⟩
  · split
    · have h := congrArg (fun y : Sheaf => { y with replay := k.sh.replay }) hfr; exact h
    · rw [modLanes_eq]
      have h := congrArg (fun y : Sheaf => { y with replay := k.sh.replay }) hfr; exact h
  · refine lanesAfter_of i k _ _ _ _ ?_ (by have h := congrArg Sheaf.replay hfr; exact h) ?_
    · intro l _; rw [lane_modLanes]
    · intro _ l hl x hx; exact hg l hl x hx

/-- An instruction without an effect of its own. -/
theorem issue_none (i : Instr) (s : State) (k : Ctx) (body : Ctx → Except TrapInfo Done) (d : Done) (g : Nat → Lane → Lane)
    (h : Issues i s k) (hb : body k = .ok d) (hd : d.blocked = false) (ha : d.after = none) (hst : d.st = s)
    (hg : ∀ l < 64, ∀ x, x = k.sh.lane l → Lane.issued x i k d l = g l x) :
    LanesOnly i s (issueState i s body) k (fun _ x => x) g := by
  have hs := issues_sheaf h
  rw [issueState_of i s k _ h d hb hd ha]
  rw [retire_sheaf s i k _ k.sh hs (.inl ⟨hst, rfl⟩) rfl rfl]
  refine ⟨_, rfl, ?_, ?_⟩
  · split
    · rfl
    · rw [modLanes_eq]
  · refine lanesAfter_of i k _ _ _ _ (fun _ _ => rfl) rfl ?_
    intro _ l hl x hx; exact hg l hl x hx

/-! ### What an issue leaves -/

theorem retire_retired (s : State) (i : Instr) (k : Ctx) (d : Done) :
    Retired i k d.st (s.retire i k d) (fun l x => x.issued i k d l) := by
  constructor
  · intro shu hu
    have hs : (d.st.retouch i k).sheaf? k.sid = some shu := by
      rw [retouch_frame]; exact hu
    have hst : ∀ sh, (d.st.retouch i k).setSheaf k.sid sh = withSheaf i d.st k sh := by
      intro sh; rw [retouch_frame]; rfl
    unfold State.retire
    dsimp only
    cases hr : k.replay with
    | some x =>
      dsimp only
      rw [modSheaf_some _ _ _ _ hs, hst]
      exact ⟨_, rfl, rfl, fun h => absurd h (by simp), fun _ => ⟨rfl, fun l _ => rfl⟩⟩
    | none =>
      dsimp only
      rw [modSheaf_some _ _ _ _ hs, hst]
      refine ⟨_, rfl, ?_, fun _ => ⟨?_, fun l hl => ?_⟩, fun h => absurd rfl h⟩
      · have h := congrArg (fun y : Sheaf => { y with replay := shu.replay }) (modLanes_frame shu k.path (fun l x => x.issued i k d l))
        exact h
      · have h := congrArg Sheaf.replay (modLanes_frame shu k.path (fun l x => x.issued i k d l)); exact h
      · rw [lane_modLanes]
  · intro hu
    have hs : (d.st.retouch i k).sheaf? k.sid = none := by
      rw [retouch_frame]; exact hu
    have ht : d.st.retouch i k = d.st := by unfold State.retouch State.touchRegs; rw [hu]; simp
    unfold State.retire
    dsimp only
    cases k.replay <;> simp only [State.modSheaf, hs] <;> exact ht

/-- Any description of the lanes of the path that agrees with the issue's. -/
theorem retired_of {i : Instr} {k : Ctx} {u t : State} {f g : Nat → Lane → Lane} (h : Retired i k u t f)
    (hg : ∀ l < 64, ∀ x, f l x = g l x) : Retired i k u t g := by
  refine ⟨fun shu hu => ?_, h.gone⟩
  obtain ⟨sh, h1, h2, h3, h4⟩ := h.here shu hu
  refine ⟨sh, h1, h2, fun hr => ⟨(h3 hr).1, fun l hl => ?_⟩, h4⟩
  rw [(h3 hr).2 l hl, hg l hl]

/-- The issue of an instruction whose body answers a state and no more. -/
theorem issue_leaves (i : Instr) (s u : State) (k : Ctx) (body : Ctx → Except TrapInfo Done) (h : Issues i s k)
    (hb : body k = .ok { st := u }) : Retired i k u (issueState i s body) (fun _ x => goesOn i k x) := by
  rw [issueState_of i s k body h _ hb rfl rfl]
  refine retired_of (retire_retired s i k { st := u }) (fun l _ x => ?_)
  unfold goesOn
  split
  · rename_i hc; exact issued_passed i k _ l x hc rfl (by simp)
  · rename_i hc
    rw [issued_shifted i k _ l x hc rfl (by simp) rfl]
    simp
/-- The same where lanes of the path stay at it. -/
theorem issue_leavesBut (i : Instr) (s u : State) (k : Ctx) (m : LaneSet) (body : Ctx → Except TrapInfo Done) (h : Issues i s k)
    (hb : body k = .ok { st := u, stay := m }) :
    Retired i k u (issueState i s body) (fun l x => if m.getLsbD l then stands i x else goesOn i k x) := by
  rw [issueState_of i s k body h _ hb rfl rfl]
  refine retired_of (retire_retired s i k { st := u, stay := m }) (fun l _ x => ?_)
  by_cases hm : m.getLsbD l = true
  · simp only [Lane.issued, hm, if_true, stands]
    by_cases hc : i.cls = .uniform
    · simp [hc, stayed]
    · simp [hc, shiftedAt, Lane.shiftLatch]
  · rw [if_neg hm]
    unfold goesOn
    split
    · rename_i hc; exact issued_passed i k _ l x hc rfl (by simpa using hm)
    · rename_i hc
      rw [issued_shifted i k _ l x hc rfl (by simpa using hm) rfl]
      simp
/-- The issue of an instruction whose body raises a trap. -/
theorem issue_trap (i : Instr) (s : State) (k : Ctx) (tr : TrapInfo) (body : Ctx → Except TrapInfo Done) (h : Issues i s k)
    (hb : body k = .error tr) : issueState i s body = s.takeTrap k.sid tr none := by
  obtain ⟨⟨cur, h1, h2, h3⟩, h4, h5, h6⟩ := h
  unfold issueState
  simp only [h1, h2, h4, ← h3, h5, h6, hb, if_false, Bool.false_eq_true]

end Sys2Proof.Laws
end

