-- ==== Sys2Proof/Laws/PerInstr.lean ====
section
/-! SUPPORT. The family Encoding: for each instruction, the fields that its encoding table gives it are read back as
the instruction. First the facts about one field: a code is within its width, and decoding it gives the value back. -/
set_option linter.unusedSimpArgs false
set_option linter.unusedVariables false
set_option Elab.async false
namespace Sys2Proof
theorem Reg.code_lt (r : Reg) : r.code < 128 := by cases r <;> simp only [Reg.code] <;> omega
theorem SReg.code_lt (r : SReg) : r.code < 128 := by cases r <;> simp only [SReg.code] <;> omega
theorem Dst.code_lt (r : Dst) : r.code < 128 := by cases r <;> simp only [Dst.code] <;> omega
theorem Dst.wsBit_lt (r : Dst) : r.wsBit < 2 := by cases r <;> simp [Dst.wsBit]
theorem Pred.code_lt (r : Pred) : r.code < 8 := by cases r <;> simp only [Pred.code] <;> omega
theorem Ty.code_lt (r : Ty) : r.code < 32 := by cases r <;> decide
theorem RM.code_lt (r : RM) : r.code < 4 := by cases r <;> decide
theorem Size.code_lt (r : Size) : r.code < 8 := by cases r <;> decide
theorem Scope.code_lt (r : Scope) : r.code < 8 := by cases r <;> decide
theorem Order.code_lt (r : Order) : r.code < 4 := by cases r <;> decide
theorem Cond.code_lt (r : Cond) : r.code < 8 := by cases r <;> decide
theorem FCond.code_lt (r : FCond) : r.code < 8 := by cases r <;> decide
theorem XMode.code_lt (r : XMode) : r.code < 4 := by cases r <;> decide
theorem RedOp.code_lt (r : RedOp) : r.code < 8 := by cases r <;> decide
theorem AtomOp.code_lt (r : AtomOp) : r.code < 13 := by cases r <;> decide
theorem Spr.code_lt (r : Spr) : r.code < 128 := by cases r <;> decide
theorem CpySpace.code_lt (r : CpySpace) : r.code < 4 := by cases r <;> decide
theorem CpyTr.code_lt (r : CpyTr) : r.code < 3 := by cases r <;> decide
theorem CollOp.code_lt (r : CollOp) : r.code < 4 := by cases r <;> decide
theorem CollKind.code_lt (r : CollKind) : r.code < 3 := by cases r <;> decide
theorem Combine.code_lt (r : Combine) : r.code < 4 := by cases r <;> simp [Combine.code]
theorem PlogArgs.code_lt (r : PlogArgs) : r.code < 8 := by cases r <;> simp [PlogArgs.code]
theorem MkLog.code_lt (r : MkLog) : r.code < 7 := by cases r <;> simp [MkLog.code]
theorem VoteDst.code_lt (r : VoteDst) : r.code < 3 := by cases r <;> simp [VoteDst.code]
theorem Pfl2Args.code_lt (r : Pfl2Args) : r.code < 2 := by cases r <;> simp [Pfl2Args.code]
theorem Combine.predNum_lt (r : Combine) : r.predNum < 128 := by
  cases r <;> simp only [Combine.predNum, Pred.code] <;> (try split) <;> omega
theorem optPNum_lt (r : Option (Fin 7)) : optPNum r < 128 := by cases r <;> simp only [optPNum] <;> omega
theorem SReg.codeOpt_lt (r : Option SReg) : SReg.codeOpt r < 128 := by
  cases r with
  | none => decide
  | some r => exact r.code_lt
theorem GOff.code_lt (r : GOff) : r.code < 32768 := by cases r <;> simp only [GOff.code] <;> omega
theorem GOff.space_lt (r : GOff) : r.space < 8 := by cases r <;> simp [GOff.space]
theorem decFin_val {n : Nat} (x : Fin n) : decFin n x.val = some x := by simp [decFin]
theorem Reg.dec_code (r : Reg) : Reg.dec r.code = some r := by
  cases r with
  | v n => revert n; decide +kernel
  | s n => revert n; decide +kernel
  | z => rfl
  | li => rfl
  | b n => revert n; decide +kernel
theorem LReg.dec_code (r : Reg) (h : r.isLaneDst = true) : LReg.dec r.code = some r := by
  cases r with
  | v n => revert n; decide +kernel
  | z => rfl
  | s n => simp [Reg.isLaneDst] at h
  | li => simp [Reg.isLaneDst] at h
  | b n => simp [Reg.isLaneDst] at h
theorem SReg.dec_code (r : SReg) : SReg.dec r.code = some r := by
  cases r with
  | s n => revert n; decide +kernel
  | z => rfl
theorem decSBase_add (n : Fin 24) : decSBase (96 + n.val) = some n := by revert n; decide +kernel
theorem SReg.decOpt_code (r : Option SReg) : SReg.decOpt (SReg.codeOpt r) = some r := by
  cases r with
  | none => rfl
  | some r =>
    cases r with
    | s n => revert n; decide +kernel
    | z => rfl
theorem Dst.dec_code (r : Dst) : Dst.dec r.wsBit r.code = some r := by
  cases r with
  | v n => revert n; decide +kernel
  | z => rfl
  | latch => rfl
theorem Pred.dec_code (r : Pred) : Pred.dec r.code = some r := by
  cases r with
  | p n => revert n; decide +kernel
  | t => rfl
theorem Pred.decG_code (r : Pred) : Pred.decG r.code = r := by
  cases r with
  | p n => revert n; decide +kernel
  | t => rfl
theorem Ty.dec_code (r : Ty) : Ty.dec r.code = some r := by cases r <;> rfl
theorem RM.dec_code (r : RM) : RM.dec r.code = some r := by cases r <;> rfl
theorem Size.dec_code (r : Size) : Size.dec r.code = some r := by cases r <;> rfl
theorem Scope.dec_code (r : Scope) : Scope.dec r.code = some r := by cases r <;> rfl
theorem Order.dec_code (r : Order) : Order.dec r.code = some r := by cases r <;> rfl
theorem Cond.dec_code (r : Cond) : Cond.dec r.code = some r := by cases r <;> rfl
theorem FCond.dec_code (r : FCond) : FCond.dec r.code = some r := by cases r <;> rfl
theorem XMode.dec_code (r : XMode) : XMode.dec r.code = some r := by cases r <;> rfl
theorem RedOp.dec_code (r : RedOp) : RedOp.dec r.code = some r := by cases r <;> rfl
theorem AtomOp.dec_code (r : AtomOp) : AtomOp.dec r.code = some r := by cases r <;> rfl
theorem Spr.dec_code (r : Spr) : Spr.dec r.code = some r := by cases r <;> rfl
theorem CpySpace.dec_code (r : CpySpace) : CpySpace.dec r.code = some r := by cases r <;> rfl
theorem CpyTr.dec_code (r : CpyTr) : CpyTr.dec r.code = some r := by cases r <;> rfl
theorem CollOp.dec_code (r : CollOp) : CollOp.dec r.code = some r := by cases r <;> rfl
theorem CollKind.dec_code (r : CollKind) : CollKind.dec r.code = some r := by cases r <;> rfl
theorem Combine.dec_code (r : Combine) : Combine.dec r.code r.predNum = some r := by
  cases r with
  | none => rfl
  | and p => simp only [Combine.code, Combine.predNum, Combine.dec, Pred.dec_code]; rfl
  | or p => simp only [Combine.code, Combine.predNum, Combine.dec, Pred.dec_code]; rfl
  | xor p => simp only [Combine.code, Combine.predNum, Combine.dec, Pred.dec_code]; rfl
theorem PlogArgs.dec_code (r : PlogArgs) : PlogArgs.dec r.code r.wsBit r.dNum r.aNum r.bNum = some r := by
  cases r <;> simp [PlogArgs.dec, PlogArgs.code, PlogArgs.wsBit, PlogArgs.dNum, PlogArgs.aNum, PlogArgs.bNum, chk, decFin_val,
    Pred.dec_code, Dst.dec_code, Reg.dec_code]
theorem MkLog.dec_code (r : MkLog) : MkLog.dec r.code r.aNum r.bNum = some r := by
  cases r <;> simp [MkLog.dec, MkLog.code, MkLog.aNum, MkLog.bNum, chk, decFin_val]
theorem BitVec_toNat_ofNat {w : Nat} (x : BitVec w) : BitVec.ofNat w x.toNat = x := by simp

/-! A form's fields, read back. -/
theorem decOptP_code (r : Option (Fin 7)) : decOptP r.isSome (optPNum r) = some r := by
  cases r with
  | none => rfl
  | some n => revert n; decide +kernel

theorem GOff.dec_code (r : GOff) : GOff.dec r.space r.code = some r := by
  cases r with
  | off o => simp [GOff.dec, GOff.space, GOff.code]
  | fit n => revert n; decide +kernel

theorem Raw.x_fields (set op g ws d a b xop w3 : Nat) {c ty rm fl : Nat} (hc : c < 128) (ht : ty < 32) (hr : rm < 4) (hf : fl < 64) :
    (Raw.x set op g ws d a b xop c (256 * ty + 64 * rm + fl) w3).xop = xop ∧
    (Raw.x set op g ws d a b xop c (256 * ty + 64 * rm + fl) w3).c = c ∧
    (Raw.x set op g ws d a b xop c (256 * ty + 64 * rm + fl) w3).modv = 256 * ty + 64 * rm + fl ∧
    (Raw.x set op g ws d a b xop c (256 * ty + 64 * rm + fl) w3).ty = ty ∧
    (Raw.x set op g ws d a b xop c (256 * ty + 64 * rm + fl) w3).rm = rm ∧
    (Raw.x set op g ws d a b xop c (256 * ty + 64 * rm + fl) w3).fl = fl := by
  simp only [Raw.x, Raw.xop, Raw.c, Raw.modv, Raw.ty, Raw.rm, Raw.fl]; omega
theorem Raw.m64_fields (set g d a b : Nat) {mop space size scope order off : Nat} (hm : mop < 64) (h1 : space < 8) (h2 : size < 8)
    (h3 : scope < 8) (h4 : order < 4) (h5 : off < 32768) :
    (Raw.m64 set g d a b mop space size scope order off).mop = mop ∧ (Raw.m64 set g d a b mop space size scope order off).space = space ∧
    (Raw.m64 set g d a b mop space size scope order off).size = size ∧ (Raw.m64 set g d a b mop space size scope order off).scope = scope ∧
    (Raw.m64 set g d a b mop space size scope order off).order = order ∧ (Raw.m64 set g d a b mop space size scope order off).off = off := by
  simp only [Raw.m64, Raw.mop, Raw.space, Raw.size, Raw.scope, Raw.order, Raw.off]; omega
theorem Raw.x_set (set op g ws d a b xop c m w3 : Nat) : (Raw.x set op g ws d a b xop c m w3).set = set := rfl
theorem Raw.x_op (set op g ws d a b xop c m w3 : Nat) : (Raw.x set op g ws d a b xop c m w3).op = op := rfl
theorem Raw.x_g (set op g ws d a b xop c m w3 : Nat) : (Raw.x set op g ws d a b xop c m w3).g = g := rfl
theorem Raw.x_ws (set op g ws d a b xop c m w3 : Nat) : (Raw.x set op g ws d a b xop c m w3).ws = ws := rfl
theorem Raw.x_d (set op g ws d a b xop c m w3 : Nat) : (Raw.x set op g ws d a b xop c m w3).d = d := rfl
theorem Raw.x_a (set op g ws d a b xop c m w3 : Nat) : (Raw.x set op g ws d a b xop c m w3).a = a := rfl
theorem Raw.x_b (set op g ws d a b xop c m w3 : Nat) : (Raw.x set op g ws d a b xop c m w3).b = b := rfl
theorem Raw.x_w3 (set op g ws d a b xop c m w3 : Nat) : (Raw.x set op g ws d a b xop c m w3).w3 = w3 := rfl
theorem Raw.m64_ws (set g d a b mop sp sz sc o off : Nat) : (Raw.m64 set g d a b mop sp sz sc o off).ws = 0 := rfl
theorem Raw.m64_d (set g d a b mop sp sz sc o off : Nat) : (Raw.m64 set g d a b mop sp sz sc o off).d = d := rfl
theorem Raw.m64_a (set g d a b mop sp sz sc o off : Nat) : (Raw.m64 set g d a b mop sp sz sc o off).a = a := rfl
theorem Raw.m64_b (set g d a b mop sp sz sc o off : Nat) : (Raw.m64 set g d a b mop sp sz sc o off).b = b := rfl

theorem Raw.toInstr_b32L {r : Raw} {g : Pred} {i : Instr} (hs : r.set = 0) (ho : r.op < 0x38) (hg : r.g = g.code)
    (h : decB32L g r = some i) (hw : i.wf = true) : r.toInstr = some i := by
  unfold Raw.toInstr; simp [hs, ho, hg, Pred.decG_code, h, hw]
theorem Raw.toInstr_x64L {r : Raw} {g : Pred} {i : Instr} (hs : r.set = 0) (ho : r.op = 0x38) (hg : r.g = g.code)
    (h : decX64L g r = some i) (hw : i.wf = true) : r.toInstr = some i := by
  unfold Raw.toInstr; simp [hs, ho, hg, Pred.decG_code, h, hw]
theorem Raw.toInstr_i64L {r : Raw} {g : Pred} {i : Instr} (hs : r.set = 0) (ho : r.op = 0x39) (hg : r.g = g.code)
    (h : decI64L g r = some i) (hw : i.wf = true) : r.toInstr = some i := by
  unfold Raw.toInstr; simp [hs, ho, hg, Pred.decG_code, h, hw]
theorem Raw.toInstr_m64L {r : Raw} {g : Pred} {i : Instr} (hs : r.set = 0) (ho : r.op = 0x3a) (hg : r.g = g.code)
    (h : decM64L g r = some i) (hw : i.wf = true) : r.toInstr = some i := by
  unfold Raw.toInstr; simp [hs, ho, hg, Pred.decG_code, h, hw]
theorem Raw.toInstr_x96L {r : Raw} {g : Pred} {i : Instr} (hs : r.set = 0) (ho : r.op = 0x3b) (hg : r.g = g.code)
    (h : decX96L g r = some i) (hw : i.wf = true) : r.toInstr = some i := by
  unfold Raw.toInstr; simp [hs, ho, hg, Pred.decG_code, h, hw]
theorem Raw.toInstr_b32U {r : Raw} {g : Pred} {i : Instr} (hs : r.set = 1) (ho : r.op < 0x38) (hg : r.g = g.code)
    (h : decB32U g r = some i) (hw : i.wf = true) : r.toInstr = some i := by
  unfold Raw.toInstr; simp [hs, ho, hg, Pred.decG_code, h, hw]
theorem Raw.toInstr_x64U {r : Raw} {g : Pred} {i : Instr} (hs : r.set = 1) (ho : r.op = 0x38) (hg : r.g = g.code)
    (h : decX64U g r = some i) (hw : i.wf = true) : r.toInstr = some i := by
  unfold Raw.toInstr; simp [hs, ho, hg, Pred.decG_code, h, hw]
theorem Raw.toInstr_i64U {r : Raw} {g : Pred} {i : Instr} (hs : r.set = 1) (ho : r.op = 0x39) (hg : r.g = g.code)
    (h : decI64U g r = some i) (hw : i.wf = true) : r.toInstr = some i := by
  unfold Raw.toInstr; simp [hs, ho, hg, Pred.decG_code, h, hw]
theorem Raw.toInstr_m64U {r : Raw} {g : Pred} {i : Instr} (hs : r.set = 1) (ho : r.op = 0x3a) (hws : r.ws = 0) (hg : r.g = g.code)
    (h : decM64U g r = some i) (hw : i.wf = true) : r.toInstr = some i := by
  unfold Raw.toInstr; simp [hs, ho, hws, hg, Pred.decG_code, h, hw]
theorem Raw.toInstr_x96U {r : Raw} {g : Pred} {i : Instr} (hs : r.set = 1) (ho : r.op = 0x3b) (hg : r.g = g.code)
    (h : decX96U g r = some i) (hw : i.wf = true) : r.toInstr = some i := by
  unfold Raw.toInstr; simp [hs, ho, hg, Pred.decG_code, h, hw]

theorem Raw.x_cvt (set op g ws d a b xop w3 : Nat) {c ty st rm : Nat} (hc : c < 128) (ht : ty < 32) (hs : st < 32) (hr : rm < 4) :
    (Raw.x set op g ws d a b xop c (256 * ty + (8 * st + 2 * rm)) w3).xop = xop ∧
    (Raw.x set op g ws d a b xop c (256 * ty + (8 * st + 2 * rm)) w3).c = c ∧
    (Raw.x set op g ws d a b xop c (256 * ty + (8 * st + 2 * rm)) w3).ty = ty ∧
    (Raw.x set op g ws d a b xop c (256 * ty + (8 * st + 2 * rm)) w3).modv / 8 % 32 = st ∧
    (Raw.x set op g ws d a b xop c (256 * ty + (8 * st + 2 * rm)) w3).modv / 2 % 4 = rm ∧
    (Raw.x set op g ws d a b xop c (256 * ty + (8 * st + 2 * rm)) w3).modv % 2 = 0 := by
  simp only [Raw.x, Raw.xop, Raw.c, Raw.modv, Raw.ty]; omega
theorem Raw.x_cvt0 (set op g ws d a b xop w3 : Nat) {c ty st : Nat} (hc : c < 128) (ht : ty < 32) (hs : st < 32) :
    (Raw.x set op g ws d a b xop c (256 * ty + 8 * st) w3).xop = xop ∧
    (Raw.x set op g ws d a b xop c (256 * ty + 8 * st) w3).c = c ∧
    (Raw.x set op g ws d a b xop c (256 * ty + 8 * st) w3).ty = ty ∧
    (Raw.x set op g ws d a b xop c (256 * ty + 8 * st) w3).modv / 8 % 32 = st ∧
    (Raw.x set op g ws d a b xop c (256 * ty + 8 * st) w3).modv / 2 % 4 = 0 ∧
    (Raw.x set op g ws d a b xop c (256 * ty + 8 * st) w3).modv % 2 = 0 := by
  simp only [Raw.x, Raw.xop, Raw.c, Raw.modv, Raw.ty]; omega
theorem and_high (k m : Nat) {x : Nat} (h : x < 2 ^ k) : x &&& 2 ^ k * m = 0 := by
  apply Nat.eq_of_testBit_eq; intro j
  simp only [Nat.testBit_and, Nat.zero_testBit, Nat.testBit_two_pow_mul]
  by_cases hj : k ≤ j
  · rw [Nat.testBit_lt_two_pow (Nat.lt_of_lt_of_le h (Nat.pow_le_pow_right (by decide) hj))]; rfl
  · simp [hj]

namespace Laws

/-- The fields that the encoding tables give a well-formed instruction are read back as that instruction. -/
def Encoding.Statement (i : Instr) : Prop := ∀ r, i.raw = some r → i.wf = true → r.toInstr = some i

theorem Encoding.starved (sid : Nat) (uni : Bool) : Encoding.Statement (.starved sid uni) := fun _ h => nomatch h

theorem Encoding.forcedQueueEntry (sid : Nat) (lane : Nat) : Encoding.Statement (.forcedQueueEntry sid lane) := fun _ h => nomatch h

theorem Encoding.thresherZeroingDone (core : Nat) : Encoding.Statement (.thresherZeroingDone core) := fun _ h => nomatch h

theorem Encoding.thresherOpStart (core : Nat) : Encoding.Statement (.thresherOpStart core) := fun _ h => nomatch h

theorem Encoding.thresherOpComplete (core : Nat) : Encoding.Statement (.thresherOpComplete core) := fun _ h => nomatch h

theorem Encoding.wainStart (core : Nat) : Encoding.Statement (.wainStart core) := fun _ h => nomatch h

theorem Encoding.wainComplete (core : Nat) (tag : Nat) : Encoding.Statement (.wainComplete core tag) := fun _ h => nomatch h

theorem Encoding.cpyhCreditTimeout (core : Nat) (tag : Nat) : Encoding.Statement (.cpyhCreditTimeout core tag) := fun _ h => nomatch h

theorem Encoding.pfl2Complete (die : Nat) (id : Nat) : Encoding.Statement (.pfl2Complete die id) := fun _ h => nomatch h

theorem Encoding.collStepComplete (id : Nat) (peers : List Byte) (cause : Nat) : Encoding.Statement (.collStepComplete id peers cause) := fun _ h => nomatch h

theorem Encoding.registration (msg : Nat) : Encoding.Statement (.registration msg) := fun _ h => nomatch h

theorem Encoding.registrationAck (msg : Nat) : Encoding.Statement (.registrationAck msg) := fun _ h => nomatch h

theorem Encoding.ownerRecall (barn : Nat) (line : Nat) (words : Word) : Encoding.Statement (.ownerRecall barn line words) := fun _ h => nomatch h

theorem Encoding.forwardedRead (msg : Nat) : Encoding.Statement (.forwardedRead msg) := fun _ h => nomatch h

theorem Encoding.readRefusal (msg : Nat) : Encoding.Statement (.readRefusal msg) := fun _ h => nomatch h

theorem Encoding.writeBack (msg : Nat) : Encoding.Statement (.writeBack msg) := fun _ h => nomatch h

theorem Encoding.l1Eviction (barn : Nat) (line : Nat) : Encoding.Statement (.l1Eviction barn line) := fun _ h => nomatch h

theorem Encoding.redPublication (barn : Nat) (addr : Nat) : Encoding.Statement (.redPublication barn addr) := fun _ h => nomatch h

theorem Encoding.l2LineEviction (line : Nat) : Encoding.Statement (.l2LineEviction line) := fun _ h => nomatch h

theorem Encoding.ccwaitPollTimer (sid : Nat) : Encoding.Statement (.ccwaitPollTimer sid) := fun _ h => nomatch h

theorem Encoding.peerAccess (dev : Nat) (acc : Access) : Encoding.Statement (.peerAccess dev acc) := fun _ h => nomatch h

theorem Encoding.hostAtomicSwap (addr : Nat) (value : DWord) : Encoding.Statement (.hostAtomicSwap addr value) := fun _ h => nomatch h

theorem Encoding.faultRecordDeferred : Encoding.Statement .faultRecordDeferred := fun _ h => nomatch h

theorem Encoding.answer (value : DWord) : Encoding.Statement (.answer value) := fun _ h => nomatch h

theorem Encoding.invctx (ctx : Nat) : Encoding.Statement (.invctx ctx) := fun _ h => nomatch h

theorem Encoding.faultQueueReconfig (offset : Nat) (size : Nat) (value : DWord) : Encoding.Statement (.faultQueueReconfig offset size value) := fun _ h => nomatch h

theorem Encoding.registerWrite (page : Page) (offset : Nat) (size : Nat) (value : DWord) : Encoding.Statement (.registerWrite page offset size value) := fun _ h => nomatch h

theorem Encoding.qtailDoorbell (queue : Nat) (value : Word) : Encoding.Statement (.qtailDoorbell queue value) := fun _ h => nomatch h

theorem Encoding.recordTake (queue : Nat) : Encoding.Statement (.recordTake queue) := fun _ h => nomatch h

theorem Encoding.dependencesMet (queue : Nat) : Encoding.Statement (.dependencesMet queue) := fun _ h => nomatch h

theorem Encoding.dealRound (part : Nat) : Encoding.Statement (.dealRound part) := fun _ h => nomatch h

theorem Encoding.stookRetire (uid : Nat) : Encoding.Statement (.stookRetire uid) := fun _ h => nomatch h

theorem Encoding.cropConfirm (seq : Nat) : Encoding.Statement (.cropConfirm seq) := fun _ h => nomatch h

theorem Encoding.partitionCommit (part : Nat) : Encoding.Statement (.partitionCommit part) := fun _ h => nomatch h

theorem Encoding.reconfiguration (part : Nat) : Encoding.Statement (.reconfiguration part) := fun _ h => nomatch h

theorem Encoding.parkEviction (uid : Nat) : Encoding.Statement (.parkEviction uid) := fun _ h => nomatch h

theorem Encoding.parkRestore (uid : Nat) : Encoding.Statement (.parkRestore uid) := fun _ h => nomatch h

theorem Encoding.trapStookStart (sid : Nat) : Encoding.Statement (.trapStookStart sid) := fun _ h => nomatch h

theorem Encoding.preempt (part : Nat) : Encoding.Statement (.preempt part) := fun _ h => nomatch h

theorem Encoding.restoreParea (part : Nat) : Encoding.Statement (.restoreParea part) := fun _ h => nomatch h

theorem Encoding.restoreSarea (part : Nat) : Encoding.Statement (.restoreSarea part) := fun _ h => nomatch h

theorem Encoding.prctlNone (part : Nat) : Encoding.Statement (.prctlNone part) := fun _ h => nomatch h

theorem Encoding.sliceExpiry (part : Nat) : Encoding.Statement (.sliceExpiry part) := fun _ h => nomatch h

theorem Encoding.preemptOperationEnd : Encoding.Statement .preemptOperationEnd := fun _ h => nomatch h

theorem Encoding.buildStep (region : Nat) : Encoding.Statement (.buildStep region) := fun _ h => nomatch h

theorem Encoding.refitStart (die : Nat) : Encoding.Statement (.refitStart die) := fun _ h => nomatch h

theorem Encoding.refitStep (region : Nat) : Encoding.Statement (.refitStep region) := fun _ h => nomatch h

theorem Encoding.refitCommit (region : Nat) : Encoding.Statement (.refitCommit region) := fun _ h => nomatch h

theorem Encoding.urgentRefitStart (region : Nat) : Encoding.Statement (.urgentRefitStart region) := fun _ h => nomatch h

theorem Encoding.bruvasLinkDown (link : Nat) : Encoding.Statement (.bruvasLinkDown link) := fun _ h => nomatch h

theorem Encoding.bruvasLinkUp (link : Nat) (peer : Nat) (peerLink : Nat) : Encoding.Statement (.bruvasLinkUp link peer peerLink) := fun _ h => nomatch h

theorem Encoding.routeRecompute (reach : Reach) : Encoding.Statement (.routeRecompute reach) := fun _ h => nomatch h

theorem Encoding.hostLinkDown (link : Nat) : Encoding.Statement (.hostLinkDown link) := fun _ h => nomatch h

theorem Encoding.groupEntryWrite (entry : Nat) (offset : Nat) (size : Nat) (value : DWord) : Encoding.Statement (.groupEntryWrite entry offset size value) := fun _ h => nomatch h

theorem Encoding.msixUnmask (fn : Nat) (vector : Nat) : Encoding.Statement (.msixUnmask fn vector) := fun _ h => nomatch h

theorem Encoding.scanVisitStart (barnId : Nat) : Encoding.Statement (.scanVisitStart barnId) := fun _ h => nomatch h

theorem Encoding.scanMove (barnId : Nat) : Encoding.Statement (.scanMove barnId) := fun _ h => nomatch h

theorem Encoding.scanResult (barnId : Nat) (pass : Bool) : Encoding.Statement (.scanResult barnId pass) := fun _ h => nomatch h

theorem Encoding.rickKill (uid : Nat) : Encoding.Statement (.rickKill uid) := fun _ h => nomatch h

theorem Encoding.patrolScrub (line : Nat) : Encoding.Statement (.patrolScrub line) := fun _ h => nomatch h

theorem Encoding.reset : Encoding.Statement .reset := fun _ h => nomatch h

theorem Encoding.functionReady (bit : Nat) (ok : Bool) : Encoding.Statement (.functionReady bit ok) := fun _ h => nomatch h

theorem Encoding.firmwareBoot (image : List Byte) (version : Nat) (modulus : Nat) (exponent : Nat) (signature : List Byte) (devnum : Nat) (clash : Bool) : Encoding.Statement (.firmwareBoot image version modulus exponent signature devnum clash) := fun _ h => nomatch h

theorem Encoding.overtemp : Encoding.Statement .overtemp := fun _ h => nomatch h

theorem Encoding.attestationStart : Encoding.Statement .attestationStart := fun _ h => nomatch h

theorem Encoding.attestationDone : Encoding.Statement .attestationDone := fun _ h => nomatch h

theorem Encoding.illegalEncoding : Encoding.Statement .illegalEncoding := fun _ h => nomatch h

theorem Encoding.instructionFetchFault : Encoding.Statement .instructionFetchFault := fun _ h => nomatch h

theorem Encoding.homeReply (msg : Nat) : Encoding.Statement (.homeReply msg) := fun _ h => nomatch h

theorem Encoding.atomicAtHome (msg : Nat) : Encoding.Statement (.atomicAtHome msg) := fun _ h => nomatch h

theorem Encoding.peerHomeReply (msg : Nat) (reply : List Byte) (ok : Bool) : Encoding.Statement (.peerHomeReply msg reply ok) := fun _ h => nomatch h

theorem Encoding.hostMemoryAccess (acc : Access) : Encoding.Statement (.hostMemoryAccess acc) := fun _ h => nomatch h

theorem Encoding.hostSnoopResponse (half : Nat) (bytes : Option (List Byte)) : Encoding.Statement (.hostSnoopResponse half bytes) := fun _ h => nomatch h

theorem Encoding.hostLinkUp (link : Nat) : Encoding.Statement (.hostLinkUp link) := fun _ h => nomatch h

theorem Encoding.iaddB32 (g : Pred) (d : Dst) (a : Reg) (b : Reg) : Encoding.Statement (.iaddB32 g d a b) := by
  intro r hr hw
  obtain rfl := Option.some.inj hr
  refine Raw.toInstr_b32L rfl (show 1 < 0x38 by decide) rfl ?_ hw
  unfold decB32L
  simp only [Option.bind_some, Dst.dec_code, Pred.dec_code, Reg.dec_code, Raw.b32]

theorem Encoding.isubB32 (g : Pred) (d : Dst) (a : Reg) (b : Reg) : Encoding.Statement (.isubB32 g d a b) := by
  intro r hr hw
  obtain rfl := Option.some.inj hr
  refine Raw.toInstr_b32L rfl (show 2 < 0x38 by decide) rfl ?_ hw
  unfold decB32L
  simp only [Option.bind_some, Dst.dec_code, Pred.dec_code, Reg.dec_code, Raw.b32]

theorem Encoding.imulB32 (g : Pred) (d : Dst) (a : Reg) (b : Reg) : Encoding.Statement (.imulB32 g d a b) := by
  intro r hr hw
  obtain rfl := Option.some.inj hr
  refine Raw.toInstr_b32L rfl (show 3 < 0x38 by decide) rfl ?_ hw
  unfold decB32L
  simp only [Option.bind_some, Dst.dec_code, Pred.dec_code, Reg.dec_code, Raw.b32]

theorem Encoding.imulhS32B32 (g : Pred) (d : Dst) (a : Reg) (b : Reg) : Encoding.Statement (.imulhS32B32 g d a b) := by
  intro r hr hw
  obtain rfl := Option.some.inj hr
  refine Raw.toInstr_b32L rfl (show 4 < 0x38 by decide) rfl ?_ hw
  unfold decB32L
  simp only [Option.bind_some, Dst.dec_code, Pred.dec_code, Reg.dec_code, Raw.b32]

theorem Encoding.imulhZ32B32 (g : Pred) (d : Dst) (a : Reg) (b : Reg) : Encoding.Statement (.imulhZ32B32 g d a b) := by
  intro r hr hw
  obtain rfl := Option.some.inj hr
  refine Raw.toInstr_b32L rfl (show 5 < 0x38 by decide) rfl ?_ hw
  unfold decB32L
  simp only [Option.bind_some, Dst.dec_code, Pred.dec_code, Reg.dec_code, Raw.b32]

theorem Encoding.iminS32B32 (g : Pred) (d : Dst) (a : Reg) (b : Reg) : Encoding.Statement (.iminS32B32 g d a b) := by
  intro r hr hw
  obtain rfl := Option.some.inj hr
  refine Raw.toInstr_b32L rfl (show 6 < 0x38 by decide) rfl ?_ hw
  unfold decB32L
  simp only [Option.bind_some, Dst.dec_code, Pred.dec_code, Reg.dec_code, Raw.b32]

theorem Encoding.imaxS32B32 (g : Pred) (d : Dst) (a : Reg) (b : Reg) : Encoding.Statement (.imaxS32B32 g d a b) := by
  intro r hr hw
  obtain rfl := Option.some.inj hr
  refine Raw.toInstr_b32L rfl (show 7 < 0x38 by decide) rfl ?_ hw
  unfold decB32L
  simp only [Option.bind_some, Dst.dec_code, Pred.dec_code, Reg.dec_code, Raw.b32]

theorem Encoding.iminZ32B32 (g : Pred) (d : Dst) (a : Reg) (b : Reg) : Encoding.Statement (.iminZ32B32 g d a b) := by
  intro r hr hw
  obtain rfl := Option.some.inj hr
  refine Raw.toInstr_b32L rfl (show 8 < 0x38 by decide) rfl ?_ hw
  unfold decB32L
  simp only [Option.bind_some, Dst.dec_code, Pred.dec_code, Reg.dec_code, Raw.b32]

theorem Encoding.imaxZ32B32 (g : Pred) (d : Dst) (a : Reg) (b : Reg) : Encoding.Statement (.imaxZ32B32 g d a b) := by
  intro r hr hw
  obtain rfl := Option.some.inj hr
  refine Raw.toInstr_b32L rfl (show 9 < 0x38 by decide) rfl ?_ hw
  unfold decB32L
  simp only [Option.bind_some, Dst.dec_code, Pred.dec_code, Reg.dec_code, Raw.b32]

theorem Encoding.shlB32 (g : Pred) (d : Dst) (a : Reg) (b : Reg) : Encoding.Statement (.shlB32 g d a b) := by
  intro r hr hw
  obtain rfl := Option.some.inj hr
  refine Raw.toInstr_b32L rfl (show 10 < 0x38 by decide) rfl ?_ hw
  unfold decB32L
  simp only [Option.bind_some, Dst.dec_code, Pred.dec_code, Reg.dec_code, Raw.b32]

theorem Encoding.shrZ32B32 (g : Pred) (d : Dst) (a : Reg) (b : Reg) : Encoding.Statement (.shrZ32B32 g d a b) := by
  intro r hr hw
  obtain rfl := Option.some.inj hr
  refine Raw.toInstr_b32L rfl (show 11 < 0x38 by decide) rfl ?_ hw
  unfold decB32L
  simp only [Option.bind_some, Dst.dec_code, Pred.dec_code, Reg.dec_code, Raw.b32]

theorem Encoding.shrS32B32 (g : Pred) (d : Dst) (a : Reg) (b : Reg) : Encoding.Statement (.shrS32B32 g d a b) := by
  intro r hr hw
  obtain rfl := Option.some.inj hr
  refine Raw.toInstr_b32L rfl (show 12 < 0x38 by decide) rfl ?_ hw
  unfold decB32L
  simp only [Option.bind_some, Dst.dec_code, Pred.dec_code, Reg.dec_code, Raw.b32]

theorem Encoding.andB32 (g : Pred) (d : Dst) (a : Reg) (b : Reg) : Encoding.Statement (.andB32 g d a b) := by
  intro r hr hw
  obtain rfl := Option.some.inj hr
  refine Raw.toInstr_b32L rfl (show 13 < 0x38 by decide) rfl ?_ hw
  unfold decB32L
  simp only [Option.bind_some, Dst.dec_code, Pred.dec_code, Reg.dec_code, Raw.b32]

theorem Encoding.orB32 (g : Pred) (d : Dst) (a : Reg) (b : Reg) : Encoding.Statement (.orB32 g d a b) := by
  intro r hr hw
  obtain rfl := Option.some.inj hr
  refine Raw.toInstr_b32L rfl (show 14 < 0x38 by decide) rfl ?_ hw
  unfold decB32L
  simp only [Option.bind_some, Dst.dec_code, Pred.dec_code, Reg.dec_code, Raw.b32]

theorem Encoding.xorB32 (g : Pred) (d : Dst) (a : Reg) (b : Reg) : Encoding.Statement (.xorB32 g d a b) := by
  intro r hr hw
  obtain rfl := Option.some.inj hr
  refine Raw.toInstr_b32L rfl (show 15 < 0x38 by decide) rfl ?_ hw
  unfold decB32L
  simp only [Option.bind_some, Dst.dec_code, Pred.dec_code, Reg.dec_code, Raw.b32]

theorem Encoding.andnB32 (g : Pred) (d : Dst) (a : Reg) (b : Reg) : Encoding.Statement (.andnB32 g d a b) := by
  intro r hr hw
  obtain rfl := Option.some.inj hr
  refine Raw.toInstr_b32L rfl (show 16 < 0x38 by decide) rfl ?_ hw
  unfold decB32L
  simp only [Option.bind_some, Dst.dec_code, Pred.dec_code, Reg.dec_code, Raw.b32]

theorem Encoding.movB32 (g : Pred) (d : Dst) (a : Reg) : Encoding.Statement (.movB32 g d a) := by
  intro r hr hw
  obtain rfl := Option.some.inj hr
  refine Raw.toInstr_b32L rfl (show 17 < 0x38 by decide) rfl ?_ hw
  unfold decB32L
  simp only [Option.bind_some, Dst.dec_code, Pred.dec_code, Reg.dec_code, Raw.b32]
  all_goals rfl

theorem Encoding.popcB32 (g : Pred) (d : Dst) (a : Reg) : Encoding.Statement (.popcB32 g d a) := by
  intro r hr hw
  obtain rfl := Option.some.inj hr
  refine Raw.toInstr_b32L rfl (show 18 < 0x38 by decide) rfl ?_ hw
  unfold decB32L
  simp only [Option.bind_some, Dst.dec_code, Pred.dec_code, Reg.dec_code, Raw.b32]
  all_goals rfl

theorem Encoding.clzB32 (g : Pred) (d : Dst) (a : Reg) : Encoding.Statement (.clzB32 g d a) := by
  intro r hr hw
  obtain rfl := Option.some.inj hr
  refine Raw.toInstr_b32L rfl (show 19 < 0x38 by decide) rfl ?_ hw
  unfold decB32L
  simp only [Option.bind_some, Dst.dec_code, Pred.dec_code, Reg.dec_code, Raw.b32]
  all_goals rfl

theorem Encoding.brevB32 (g : Pred) (d : Dst) (a : Reg) : Encoding.Statement (.brevB32 g d a) := by
  intro r hr hw
  obtain rfl := Option.some.inj hr
  refine Raw.toInstr_b32L rfl (show 20 < 0x38 by decide) rfl ?_ hw
  unfold decB32L
  simp only [Option.bind_some, Dst.dec_code, Pred.dec_code, Reg.dec_code, Raw.b32]
  all_goals rfl

theorem Encoding.iadd64B32 (g : Pred) (d : Reg) (a : Reg) (b : Reg) : Encoding.Statement (.iadd64B32 g d a b) := by
  intro r hr hw
  obtain rfl := Option.some.inj hr
  refine Raw.toInstr_b32L rfl (show 21 < 0x38 by decide) rfl ?_ hw
  have hd : Reg.isLaneDst d = true := by
    simp only [Instr.wf, Bool.and_eq_true] at hw
    simp only [hw]
  unfold decB32L
  simp only [Option.bind_some, Pred.dec_code, Reg.dec_code, LReg.dec_code _ hd, Raw.b32]
  all_goals rfl

theorem Encoding.iabsB32 (g : Pred) (d : Dst) (a : Reg) : Encoding.Statement (.iabsB32 g d a) := by
  intro r hr hw
  obtain rfl := Option.some.inj hr
  refine Raw.toInstr_b32L rfl (show 22 < 0x38 by decide) rfl ?_ hw
  unfold decB32L
  simp only [Option.bind_some, Dst.dec_code, Pred.dec_code, Reg.dec_code, Raw.b32]
  all_goals rfl

theorem Encoding.inegB32 (g : Pred) (d : Dst) (a : Reg) : Encoding.Statement (.inegB32 g d a) := by
  intro r hr hw
  obtain rfl := Option.some.inj hr
  refine Raw.toInstr_b32L rfl (show 23 < 0x38 by decide) rfl ?_ hw
  unfold decB32L
  simp only [Option.bind_some, Dst.dec_code, Pred.dec_code, Reg.dec_code, Raw.b32]
  all_goals rfl

theorem Encoding.faddF32B32 (g : Pred) (d : Dst) (a : Reg) (b : Reg) : Encoding.Statement (.faddF32B32 g d a b) := by
  intro r hr hw
  obtain rfl := Option.some.inj hr
  refine Raw.toInstr_b32L rfl (show 24 < 0x38 by decide) rfl ?_ hw
  unfold decB32L
  simp only [Option.bind_some, Dst.dec_code, Pred.dec_code, Reg.dec_code, Raw.b32]

theorem Encoding.fsubF32B32 (g : Pred) (d : Dst) (a : Reg) (b : Reg) : Encoding.Statement (.fsubF32B32 g d a b) := by
  intro r hr hw
  obtain rfl := Option.some.inj hr
  refine Raw.toInstr_b32L rfl (show 25 < 0x38 by decide) rfl ?_ hw
  unfold decB32L
  simp only [Option.bind_some, Dst.dec_code, Pred.dec_code, Reg.dec_code, Raw.b32]

theorem Encoding.fmulF32B32 (g : Pred) (d : Dst) (a : Reg) (b : Reg) : Encoding.Statement (.fmulF32B32 g d a b) := by
  intro r hr hw
  obtain rfl := Option.some.inj hr
  refine Raw.toInstr_b32L rfl (show 26 < 0x38 by decide) rfl ?_ hw
  unfold decB32L
  simp only [Option.bind_some, Dst.dec_code, Pred.dec_code, Reg.dec_code, Raw.b32]

theorem Encoding.fminF32B32 (g : Pred) (d : Dst) (a : Reg) (b : Reg) : Encoding.Statement (.fminF32B32 g d a b) := by
  intro r hr hw
  obtain rfl := Option.some.inj hr
  refine Raw.toInstr_b32L rfl (show 27 < 0x38 by decide) rfl ?_ hw
  unfold decB32L
  simp only [Option.bind_some, Dst.dec_code, Pred.dec_code, Reg.dec_code, Raw.b32]

theorem Encoding.fmaxF32B32 (g : Pred) (d : Dst) (a : Reg) (b : Reg) : Encoding.Statement (.fmaxF32B32 g d a b) := by
  intro r hr hw
  obtain rfl := Option.some.inj hr
  refine Raw.toInstr_b32L rfl (show 28 < 0x38 by decide) rfl ?_ hw
  unfold decB32L
  simp only [Option.bind_some, Dst.dec_code, Pred.dec_code, Reg.dec_code, Raw.b32]

theorem Encoding.frcpF32B32 (g : Pred) (d : Dst) (a : Reg) : Encoding.Statement (.frcpF32B32 g d a) := by
  intro r hr hw
  obtain rfl := Option.some.inj hr
  refine Raw.toInstr_b32L rfl (show 29 < 0x38 by decide) rfl ?_ hw
  unfold decB32L
  simp only [Option.bind_some, Dst.dec_code, Pred.dec_code, Reg.dec_code, Raw.b32]
  all_goals rfl

theorem Encoding.frsqF32B32 (g : Pred) (d : Dst) (a : Reg) : Encoding.Statement (.frsqF32B32 g d a) := by
  intro r hr hw
  obtain rfl := Option.some.inj hr
  refine Raw.toInstr_b32L rfl (show 30 < 0x38 by decide) rfl ?_ hw
  unfold decB32L
  simp only [Option.bind_some, Dst.dec_code, Pred.dec_code, Reg.dec_code, Raw.b32]
  all_goals rfl

theorem Encoding.fsqrtF32B32 (g : Pred) (d : Dst) (a : Reg) : Encoding.Statement (.fsqrtF32B32 g d a) := by
  intro r hr hw
  obtain rfl := Option.some.inj hr
  refine Raw.toInstr_b32L rfl (show 31 < 0x38 by decide) rfl ?_ hw
  unfold decB32L
  simp only [Option.bind_some, Dst.dec_code, Pred.dec_code, Reg.dec_code, Raw.b32]
  all_goals rfl

theorem Encoding.fexp2F32B32 (g : Pred) (d : Dst) (a : Reg) : Encoding.Statement (.fexp2F32B32 g d a) := by
  intro r hr hw
  obtain rfl := Option.some.inj hr
  refine Raw.toInstr_b32L rfl (show 32 < 0x38 by decide) rfl ?_ hw
  unfold decB32L
  simp only [Option.bind_some, Dst.dec_code, Pred.dec_code, Reg.dec_code, Raw.b32]
  all_goals rfl

theorem Encoding.flog2F32B32 (g : Pred) (d : Dst) (a : Reg) : Encoding.Statement (.flog2F32B32 g d a) := by
  intro r hr hw
  obtain rfl := Option.some.inj hr
  refine Raw.toInstr_b32L rfl (show 33 < 0x38 by decide) rfl ?_ hw
  unfold decB32L
  simp only [Option.bind_some, Dst.dec_code, Pred.dec_code, Reg.dec_code, Raw.b32]
  all_goals rfl

theorem Encoding.faddBf16B32 (g : Pred) (d : Dst) (a : Reg) (b : Reg) : Encoding.Statement (.faddBf16B32 g d a b) := by
  intro r hr hw
  obtain rfl := Option.some.inj hr
  refine Raw.toInstr_b32L rfl (show 34 < 0x38 by decide) rfl ?_ hw
  unfold decB32L
  simp only [Option.bind_some, Dst.dec_code, Pred.dec_code, Reg.dec_code, Raw.b32]

theorem Encoding.fmulBf16B32 (g : Pred) (d : Dst) (a : Reg) (b : Reg) : Encoding.Statement (.fmulBf16B32 g d a b) := by
  intro r hr hw
  obtain rfl := Option.some.inj hr
  refine Raw.toInstr_b32L rfl (show 35 < 0x38 by decide) rfl ?_ hw
  unfold decB32L
  simp only [Option.bind_some, Dst.dec_code, Pred.dec_code, Reg.dec_code, Raw.b32]

theorem Encoding.faddF16B32 (g : Pred) (d : Dst) (a : Reg) (b : Reg) : Encoding.Statement (.faddF16B32 g d a b) := by
  intro r hr hw
  obtain rfl := Option.some.inj hr
  refine Raw.toInstr_b32L rfl (show 36 < 0x38 by decide) rfl ?_ hw
  unfold decB32L
  simp only [Option.bind_some, Dst.dec_code, Pred.dec_code, Reg.dec_code, Raw.b32]

theorem Encoding.fmulF16B32 (g : Pred) (d : Dst) (a : Reg) (b : Reg) : Encoding.Statement (.fmulF16B32 g d a b) := by
  intro r hr hw
  obtain rfl := Option.some.inj hr
  refine Raw.toInstr_b32L rfl (show 37 < 0x38 by decide) rfl ?_ hw
  unfold decB32L
  simp only [Option.bind_some, Dst.dec_code, Pred.dec_code, Reg.dec_code, Raw.b32]

theorem Encoding.fclassF32B32 (g : Pred) (d : Dst) (a : Reg) : Encoding.Statement (.fclassF32B32 g d a) := by
  intro r hr hw
  obtain rfl := Option.some.inj hr
  refine Raw.toInstr_b32L rfl (show 38 < 0x38 by decide) rfl ?_ hw
  unfold decB32L
  simp only [Option.bind_some, Dst.dec_code, Pred.dec_code, Reg.dec_code, Raw.b32]
  all_goals rfl

theorem Encoding.braB32 (g : Pred) (off : BitVec 22) : Encoding.Statement (.braB32 g off) := by
  intro r hr hw
  obtain rfl := Option.some.inj hr
  refine Raw.toInstr_b32L rfl (show 40 < 0x38 by decide) rfl ?_ hw
  have hl : (Raw.b32Low 0 40 g.code off.toNat).low22 = off.toNat := by
    have := off.isLt
    simp only [Raw.b32Low, Raw.low22]; omega
  unfold decB32L
  rw [hl]
  simp only [Raw.b32Low, BitVec_toNat_ofNat, Option.bind_some]

theorem Encoding.retB32 (g : Pred) (a : Reg) : Encoding.Statement (.retB32 g a) := by
  intro r hr hw
  obtain rfl := Option.some.inj hr
  refine Raw.toInstr_b32L rfl (show 41 < 0x38 by decide) rfl ?_ hw
  unfold decB32L
  simp only [Option.bind_some, Pred.dec_code, Reg.dec_code, Raw.b32]
  all_goals rfl

theorem Encoding.exitB32 (g : Pred) : Encoding.Statement (.exitB32 g) := by
  intro r hr hw
  obtain rfl := Option.some.inj hr
  refine Raw.toInstr_b32L rfl (show 42 < 0x38 by decide) rfl ?_ hw
  unfold decB32L
  simp only [Option.bind_some, Pred.dec_code, Raw.b32]
  all_goals rfl

theorem Encoding.yieldB32 (g : Pred) : Encoding.Statement (.yieldB32 g) := by
  intro r hr hw
  obtain rfl := Option.some.inj hr
  refine Raw.toInstr_b32L rfl (show 43 < 0x38 by decide) rfl ?_ hw
  unfold decB32L
  simp only [Option.bind_some, Pred.dec_code, Raw.b32]
  all_goals rfl

theorem Encoding.nopB32 (g : Pred) : Encoding.Statement (.nopB32 g) := by
  intro r hr hw
  obtain rfl := Option.some.inj hr
  refine Raw.toInstr_b32L rfl (show 44 < 0x38 by decide) rfl ?_ hw
  unfold decB32L
  simp only [Option.bind_some, Pred.dec_code, Raw.b32]
  all_goals rfl

theorem Encoding.mkcurB32 (g : Pred) (m : Fin 12) : Encoding.Statement (.mkcurB32 g m) := by
  intro r hr hw
  obtain rfl := Option.some.inj hr
  refine Raw.toInstr_b32L rfl (show 45 < 0x38 by decide) rfl ?_ hw
  unfold decB32L
  simp only [Option.bind_some, decFin_val, Pred.dec_code, Raw.b32]
  all_goals rfl

theorem Encoding.joinB32 (g : Pred) (m : Fin 12) : Encoding.Statement (.joinB32 g m) := by
  intro r hr hw
  obtain rfl := Option.some.inj hr
  refine Raw.toInstr_b32L rfl (show 46 < 0x38 by decide) rfl ?_ hw
  unfold decB32L
  simp only [Option.bind_some, decFin_val, Pred.dec_code, Raw.b32]
  all_goals rfl

theorem Encoding.leaveB32 (g : Pred) (m : Fin 12) : Encoding.Statement (.leaveB32 g m) := by
  intro r hr hw
  obtain rfl := Option.some.inj hr
  refine Raw.toInstr_b32L rfl (show 47 < 0x38 by decide) rfl ?_ hw
  unfold decB32L
  simp only [Option.bind_some, decFin_val, Pred.dec_code, Raw.b32]
  all_goals rfl

theorem Encoding.raddF32B32 (g : Pred) (d : Dst) (a : Reg) (b : Reg) : Encoding.Statement (.raddF32B32 g d a b) := by
  intro r hr hw
  obtain rfl := Option.some.inj hr
  refine Raw.toInstr_b32L rfl (show 48 < 0x38 by decide) rfl ?_ hw
  unfold decB32L
  simp only [Option.bind_some, Dst.dec_code, Pred.dec_code, Reg.dec_code, Raw.b32]

theorem Encoding.unaddF32B32 (g : Pred) (d : Dst) (a : Reg) (b : Reg) : Encoding.Statement (.unaddF32B32 g d a b) := by
  intro r hr hw
  obtain rfl := Option.some.inj hr
  refine Raw.toInstr_b32L rfl (show 49 < 0x38 by decide) rfl ?_ hw
  unfold decB32L
  simp only [Option.bind_some, Dst.dec_code, Pred.dec_code, Reg.dec_code, Raw.b32]

theorem Encoding.rmulF32B32 (g : Pred) (d : Dst) (a : Reg) (b : Reg) : Encoding.Statement (.rmulF32B32 g d a b) := by
  intro r hr hw
  obtain rfl := Option.some.inj hr
  refine Raw.toInstr_b32L rfl (show 50 < 0x38 by decide) rfl ?_ hw
  unfold decB32L
  simp only [Option.bind_some, Dst.dec_code, Pred.dec_code, Reg.dec_code, Raw.b32]

theorem Encoding.unmulF32B32 (g : Pred) (d : Dst) (a : Reg) (b : Reg) : Encoding.Statement (.unmulF32B32 g d a b) := by
  intro r hr hw
  obtain rfl := Option.some.inj hr
  refine Raw.toInstr_b32L rfl (show 51 < 0x38 by decide) rfl ?_ hw
  unfold decB32L
  simp only [Option.bind_some, Dst.dec_code, Pred.dec_code, Reg.dec_code, Raw.b32]

theorem Encoding.rreluF32B32 (g : Pred) (d : Dst) (a : Reg) : Encoding.Statement (.rreluF32B32 g d a) := by
  intro r hr hw
  obtain rfl := Option.some.inj hr
  refine Raw.toInstr_b32L rfl (show 52 < 0x38 by decide) rfl ?_ hw
  unfold decB32L
  simp only [Option.bind_some, Dst.dec_code, Pred.dec_code, Reg.dec_code, Raw.b32]
  all_goals rfl

theorem Encoding.unreluF32B32 (g : Pred) (d : Dst) (a : Reg) : Encoding.Statement (.unreluF32B32 g d a) := by
  intro r hr hw
  obtain rfl := Option.some.inj hr
  refine Raw.toInstr_b32L rfl (show 53 < 0x38 by decide) rfl ?_ hw
  unfold decB32L
  simp only [Option.bind_some, Dst.dec_code, Pred.dec_code, Reg.dec_code, Raw.b32]
  all_goals rfl

theorem Encoding.rmulS32B32 (g : Pred) (d : Dst) (a : Reg) (b : Reg) : Encoding.Statement (.rmulS32B32 g d a b) := by
  intro r hr hw
  obtain rfl := Option.some.inj hr
  refine Raw.toInstr_b32L rfl (show 54 < 0x38 by decide) rfl ?_ hw
  unfold decB32L
  simp only [Option.bind_some, Dst.dec_code, Pred.dec_code, Reg.dec_code, Raw.b32]

theorem Encoding.unmulS32B32 (g : Pred) (d : Dst) (a : Reg) (b : Reg) : Encoding.Statement (.unmulS32B32 g d a b) := by
  intro r hr hw
  obtain rfl := Option.some.inj hr
  refine Raw.toInstr_b32L rfl (show 55 < 0x38 by decide) rfl ?_ hw
  unfold decB32L
  simp only [Option.bind_some, Dst.dec_code, Pred.dec_code, Reg.dec_code, Raw.b32]

theorem Encoding.iaddX64 (g : Pred) (d : Dst) (a : Reg) (b : Reg) (ty : Ty) (sat : Bool) : Encoding.Statement (.iaddX64 g d a b ty sat) := by
  intro r hr hw
  obtain rfl := Option.some.inj hr
  refine Raw.toInstr_x64L rfl rfl rfl ?_ hw
  have hf : b2n sat 0 < 64 := (by decide +kernel : ∀ (sat : Bool), b2n sat 0 < 64) sat
  obtain ⟨h1, h2, h3, h4, h5, h6⟩ := Raw.x_fields 0 56 g.code (d.wsBit) (d.code) (a.code) (b.code) 0 (0) (c := (0)) (ty := ty.code) (rm := 0) (fl := b2n sat 0) (by decide) ty.code_lt (by decide) hf
  have e0 : b2n sat 0 &&& 62 = 0 := (by decide +kernel : ∀ (sat : Bool), b2n sat 0 &&& 62 = 0) sat
  have e1 : (b2n sat 0).testBit 0 = sat := (by decide +kernel : ∀ (sat : Bool), (b2n sat 0).testBit 0 = sat) sat
  unfold decX64L
  rw [h1]
  simp only [Option.bind_some, Dst.dec_code, Pred.dec_code, Reg.dec_code, Ty.dec_code, h2, h3, h4, h5, h6, Raw.x_ws, Raw.x_d, Raw.x_a, Raw.x_b, Raw.x_w3, e0, e1]
  all_goals (cases sat <;> rfl)

theorem Encoding.isubX64 (g : Pred) (d : Dst) (a : Reg) (b : Reg) (ty : Ty) (sat : Bool) : Encoding.Statement (.isubX64 g d a b ty sat) := by
  intro r hr hw
  obtain rfl := Option.some.inj hr
  refine Raw.toInstr_x64L rfl rfl rfl ?_ hw
  have hf : b2n sat 0 < 64 := (by decide +kernel : ∀ (sat : Bool), b2n sat 0 < 64) sat
  obtain ⟨h1, h2, h3, h4, h5, h6⟩ := Raw.x_fields 0 56 g.code (d.wsBit) (d.code) (a.code) (b.code) 1 (0) (c := (0)) (ty := ty.code) (rm := 0) (fl := b2n sat 0) (by decide) ty.code_lt (by decide) hf
  have e0 : b2n sat 0 &&& 62 = 0 := (by decide +kernel : ∀ (sat : Bool), b2n sat 0 &&& 62 = 0) sat
  have e1 : (b2n sat 0).testBit 0 = sat := (by decide +kernel : ∀ (sat : Bool), (b2n sat 0).testBit 0 = sat) sat
  unfold decX64L
  rw [h1]
  simp only [Option.bind_some, Dst.dec_code, Pred.dec_code, Reg.dec_code, Ty.dec_code, h2, h3, h4, h5, h6, Raw.x_ws, Raw.x_d, Raw.x_a, Raw.x_b, Raw.x_w3, e0, e1]
  all_goals (cases sat <;> rfl)

theorem Encoding.imulX64 (g : Pred) (d : Dst) (a : Reg) (b : Reg) (ty : Ty) : Encoding.Statement (.imulX64 g d a b ty) := by
  intro r hr hw
  obtain rfl := Option.some.inj hr
  refine Raw.toInstr_x64L rfl rfl rfl ?_ hw
  obtain ⟨h1, h2, h3, h4, h5, h6⟩ := Raw.x_fields 0 56 g.code (d.wsBit) (d.code) (a.code) (b.code) 2 (0) (c := (0)) (ty := ty.code) (rm := 0) (fl := 0) (by decide) ty.code_lt (by decide) (by decide)
  unfold decX64L
  rw [h1]
  simp only [Option.bind_some, Dst.dec_code, Pred.dec_code, Reg.dec_code, Ty.dec_code, h2, h3, h4, h5, h6, Raw.x_ws, Raw.x_d, Raw.x_a, Raw.x_b, Raw.x_w3]
  all_goals rfl

theorem Encoding.imulhX64 (g : Pred) (d : Dst) (a : Reg) (b : Reg) (ty : Ty) : Encoding.Statement (.imulhX64 g d a b ty) := by
  intro r hr hw
  obtain rfl := Option.some.inj hr
  refine Raw.toInstr_x64L rfl rfl rfl ?_ hw
  obtain ⟨h1, h2, h3, h4, h5, h6⟩ := Raw.x_fields 0 56 g.code (d.wsBit) (d.code) (a.code) (b.code) 3 (0) (c := (0)) (ty := ty.code) (rm := 0) (fl := 0) (by decide) ty.code_lt (by decide) (by decide)
  unfold decX64L
  rw [h1]
  simp only [Option.bind_some, Dst.dec_code, Pred.dec_code, Reg.dec_code, Ty.dec_code, h2, h3, h4, h5, h6, Raw.x_ws, Raw.x_d, Raw.x_a, Raw.x_b, Raw.x_w3]
  all_goals rfl

theorem Encoding.imad (g : Pred) (d : Dst) (a : Reg) (b : Reg) (c : Reg) (ty : Ty) : Encoding.Statement (.imad g d a b c ty) := by
  intro r hr hw
  obtain rfl := Option.some.inj hr
  refine Raw.toInstr_x64L rfl rfl rfl ?_ hw
  obtain ⟨h1, h2, h3, h4, h5, h6⟩ := Raw.x_fields 0 56 g.code (d.wsBit) (d.code) (a.code) (b.code) 4 (0) (c := (c.code)) (ty := ty.code) (rm := 0) (fl := 0) c.code_lt ty.code_lt (by decide) (by decide)
  unfold decX64L
  rw [h1]
  simp only [Option.bind_some, Dst.dec_code, Pred.dec_code, Reg.dec_code, Ty.dec_code, h2, h3, h4, h5, h6, Raw.x_ws, Raw.x_d, Raw.x_a, Raw.x_b, Raw.x_w3]
  all_goals rfl

theorem Encoding.imadw (g : Pred) (d : Reg) (a : Reg) (b : Reg) (c : Reg) (ty : Ty) : Encoding.Statement (.imadw g d a b c ty) := by
  intro r hr hw
  obtain rfl := Option.some.inj hr
  refine Raw.toInstr_x64L rfl rfl rfl ?_ hw
  have hd : Reg.isLaneDst d = true := by
    simp only [Instr.wf, Bool.and_eq_true] at hw
    simp only [hw]
  obtain ⟨h1, h2, h3, h4, h5, h6⟩ := Raw.x_fields 0 56 g.code (0) (d.code) (a.code) (b.code) 5 (0) (c := (c.code)) (ty := ty.code) (rm := 0) (fl := 0) c.code_lt ty.code_lt (by decide) (by decide)
  unfold decX64L
  rw [h1]
  simp only [Option.bind_some, Pred.dec_code, Reg.dec_code, Ty.dec_code, LReg.dec_code _ hd, h2, h3, h4, h5, h6, Raw.x_ws, Raw.x_d, Raw.x_a, Raw.x_b, Raw.x_w3]
  all_goals rfl

theorem Encoding.iadd64X64 (g : Pred) (d : Reg) (a : Reg) (b : Reg) (ty : Ty) : Encoding.Statement (.iadd64X64 g d a b ty) := by
  intro r hr hw
  obtain rfl := Option.some.inj hr
  refine Raw.toInstr_x64L rfl rfl rfl ?_ hw
  have hd : Reg.isLaneDst d = true := by
    simp only [Instr.wf, Bool.and_eq_true] at hw
    simp only [hw]
  obtain ⟨h1, h2, h3, h4, h5, h6⟩ := Raw.x_fields 0 56 g.code (0) (d.code) (a.code) (b.code) 6 (0) (c := (0)) (ty := ty.code) (rm := 0) (fl := 0) (by decide) ty.code_lt (by decide) (by decide)
  unfold decX64L
  rw [h1]
  simp only [Option.bind_some, Pred.dec_code, Reg.dec_code, Ty.dec_code, LReg.dec_code _ hd, h2, h3, h4, h5, h6, Raw.x_ws, Raw.x_d, Raw.x_a, Raw.x_b, Raw.x_w3]
  all_goals rfl

theorem Encoding.leaX64 (g : Pred) (d : Reg) (a : Reg) (b : Reg) (ty : Ty) (sh : Fin 8) : Encoding.Statement (.leaX64 g d a b ty sh) := by
  intro r hr hw
  obtain rfl := Option.some.inj hr
  refine Raw.toInstr_x64L rfl rfl rfl ?_ hw
  have hd : Reg.isLaneDst d = true := by
    simp only [Instr.wf, Bool.and_eq_true] at hw
    simp only [hw]
  have hf : sh.val < 64 := (by decide +kernel : ∀ (sh : Fin 8), sh.val < 64) sh
  obtain ⟨h1, h2, h3, h4, h5, h6⟩ := Raw.x_fields 0 56 g.code (0) (d.code) (a.code) (b.code) 7 (0) (c := (0)) (ty := ty.code) (rm := 0) (fl := sh.val) (by decide) ty.code_lt (by decide) hf
  have e0 : sh.val &&& 56 = 0 := (by decide +kernel : ∀ (sh : Fin 8), sh.val &&& 56 = 0) sh
  have e1 : (sh.val) % 8 = sh.val := (by decide +kernel : ∀ (sh : Fin 8), (sh.val) % 8 = sh.val) sh
  unfold decX64L
  rw [h1]
  simp only [Option.bind_some, decFin_val, Pred.dec_code, Reg.dec_code, Ty.dec_code, LReg.dec_code _ hd, h2, h3, h4, h5, h6, Raw.x_ws, Raw.x_d, Raw.x_a, Raw.x_b, Raw.x_w3, e0, e1]
  all_goals rfl

theorem Encoding.iabsX64 (g : Pred) (d : Dst) (a : Reg) (sat : Bool) : Encoding.Statement (.iabsX64 g d a sat) := by
  intro r hr hw
  obtain rfl := Option.some.inj hr
  refine Raw.toInstr_x64L rfl rfl rfl ?_ hw
  have hf : b2n sat 0 < 64 := (by decide +kernel : ∀ (sat : Bool), b2n sat 0 < 64) sat
  obtain ⟨h1, h2, h3, h4, h5, h6⟩ := Raw.x_fields 0 56 g.code (d.wsBit) (d.code) (a.code) (0) 8 (0) (c := (0)) (ty := 4) (rm := 0) (fl := b2n sat 0) (by decide) (by decide) (by decide) hf
  have e0 : b2n sat 0 &&& 62 = 0 := (by decide +kernel : ∀ (sat : Bool), b2n sat 0 &&& 62 = 0) sat
  have e1 : (b2n sat 0).testBit 0 = sat := (by decide +kernel : ∀ (sat : Bool), (b2n sat 0).testBit 0 = sat) sat
  unfold decX64L
  rw [h1]
  simp only [Option.bind_some, Dst.dec_code, Pred.dec_code, Reg.dec_code, h2, h3, h4, h5, h6, Raw.x_ws, Raw.x_d, Raw.x_a, Raw.x_b, Raw.x_w3, e0, e1]
  all_goals (cases sat <;> rfl)

theorem Encoding.inegX64 (g : Pred) (d : Dst) (a : Reg) (sat : Bool) : Encoding.Statement (.inegX64 g d a sat) := by
  intro r hr hw
  obtain rfl := Option.some.inj hr
  refine Raw.toInstr_x64L rfl rfl rfl ?_ hw
  have hf : b2n sat 0 < 64 := (by decide +kernel : ∀ (sat : Bool), b2n sat 0 < 64) sat
  obtain ⟨h1, h2, h3, h4, h5, h6⟩ := Raw.x_fields 0 56 g.code (d.wsBit) (d.code) (a.code) (0) 9 (0) (c := (0)) (ty := 4) (rm := 0) (fl := b2n sat 0) (by decide) (by decide) (by decide) hf
  have e0 : b2n sat 0 &&& 62 = 0 := (by decide +kernel : ∀ (sat : Bool), b2n sat 0 &&& 62 = 0) sat
  have e1 : (b2n sat 0).testBit 0 = sat := (by decide +kernel : ∀ (sat : Bool), (b2n sat 0).testBit 0 = sat) sat
  unfold decX64L
  rw [h1]
  simp only [Option.bind_some, Dst.dec_code, Pred.dec_code, Reg.dec_code, h2, h3, h4, h5, h6, Raw.x_ws, Raw.x_d, Raw.x_a, Raw.x_b, Raw.x_w3, e0, e1]
  all_goals (cases sat <;> rfl)

theorem Encoding.iminX64 (g : Pred) (d : Dst) (a : Reg) (b : Reg) (ty : Ty) : Encoding.Statement (.iminX64 g d a b ty) := by
  intro r hr hw
  obtain rfl := Option.some.inj hr
  refine Raw.toInstr_x64L rfl rfl rfl ?_ hw
  obtain ⟨h1, h2, h3, h4, h5, h6⟩ := Raw.x_fields 0 56 g.code (d.wsBit) (d.code) (a.code) (b.code) 10 (0) (c := (0)) (ty := ty.code) (rm := 0) (fl := 0) (by decide) ty.code_lt (by decide) (by decide)
  unfold decX64L
  rw [h1]
  simp only [Option.bind_some, Dst.dec_code, Pred.dec_code, Reg.dec_code, Ty.dec_code, h2, h3, h4, h5, h6, Raw.x_ws, Raw.x_d, Raw.x_a, Raw.x_b, Raw.x_w3]
  all_goals rfl

theorem Encoding.imaxX64 (g : Pred) (d : Dst) (a : Reg) (b : Reg) (ty : Ty) : Encoding.Statement (.imaxX64 g d a b ty) := by
  intro r hr hw
  obtain rfl := Option.some.inj hr
  refine Raw.toInstr_x64L rfl rfl rfl ?_ hw
  obtain ⟨h1, h2, h3, h4, h5, h6⟩ := Raw.x_fields 0 56 g.code (d.wsBit) (d.code) (a.code) (b.code) 11 (0) (c := (0)) (ty := ty.code) (rm := 0) (fl := 0) (by decide) ty.code_lt (by decide) (by decide)
  unfold decX64L
  rw [h1]
  simp only [Option.bind_some, Dst.dec_code, Pred.dec_code, Reg.dec_code, Ty.dec_code, h2, h3, h4, h5, h6, Raw.x_ws, Raw.x_d, Raw.x_a, Raw.x_b, Raw.x_w3]
  all_goals rfl

theorem Encoding.shlX64 (g : Pred) (d : Dst) (a : Reg) (b : Reg) (ty : Ty) (wrap : Bool) : Encoding.Statement (.shlX64 g d a b ty wrap) := by
  intro r hr hw
  obtain rfl := Option.some.inj hr
  refine Raw.toInstr_x64L rfl rfl rfl ?_ hw
  have hf : b2n wrap 0 < 64 := (by decide +kernel : ∀ (wrap : Bool), b2n wrap 0 < 64) wrap
  obtain ⟨h1, h2, h3, h4, h5, h6⟩ := Raw.x_fields 0 56 g.code (d.wsBit) (d.code) (a.code) (b.code) 12 (0) (c := (0)) (ty := ty.code) (rm := 0) (fl := b2n wrap 0) (by decide) ty.code_lt (by decide) hf
  have e0 : b2n wrap 0 &&& 62 = 0 := (by decide +kernel : ∀ (wrap : Bool), b2n wrap 0 &&& 62 = 0) wrap
  have e1 : (b2n wrap 0).testBit 0 = wrap := (by decide +kernel : ∀ (wrap : Bool), (b2n wrap 0).testBit 0 = wrap) wrap
  unfold decX64L
  rw [h1]
  simp only [Option.bind_some, Dst.dec_code, Pred.dec_code, Reg.dec_code, Ty.dec_code, h2, h3, h4, h5, h6, Raw.x_ws, Raw.x_d, Raw.x_a, Raw.x_b, Raw.x_w3, e0, e1]
  all_goals (cases wrap <;> rfl)

theorem Encoding.shrX64 (g : Pred) (d : Dst) (a : Reg) (b : Reg) (ty : Ty) (wrap : Bool) : Encoding.Statement (.shrX64 g d a b ty wrap) := by
  intro r hr hw
  obtain rfl := Option.some.inj hr
  refine Raw.toInstr_x64L rfl rfl rfl ?_ hw
  have hf : b2n wrap 0 < 64 := (by decide +kernel : ∀ (wrap : Bool), b2n wrap 0 < 64) wrap
  obtain ⟨h1, h2, h3, h4, h5, h6⟩ := Raw.x_fields 0 56 g.code (d.wsBit) (d.code) (a.code) (b.code) 13 (0) (c := (0)) (ty := ty.code) (rm := 0) (fl := b2n wrap 0) (by decide) ty.code_lt (by decide) hf
  have e0 : b2n wrap 0 &&& 62 = 0 := (by decide +kernel : ∀ (wrap : Bool), b2n wrap 0 &&& 62 = 0) wrap
  have e1 : (b2n wrap 0).testBit 0 = wrap := (by decide +kernel : ∀ (wrap : Bool), (b2n wrap 0).testBit 0 = wrap) wrap
  unfold decX64L
  rw [h1]
  simp only [Option.bind_some, Dst.dec_code, Pred.dec_code, Reg.dec_code, Ty.dec_code, h2, h3, h4, h5, h6, Raw.x_ws, Raw.x_d, Raw.x_a, Raw.x_b, Raw.x_w3, e0, e1]
  all_goals (cases wrap <;> rfl)

theorem Encoding.shf (g : Pred) (d : Dst) (a : Reg) (b : Reg) (c : Reg) (ty : Ty) (lft : Bool) (wrap : Bool) : Encoding.Statement (.shf g d a b c ty lft wrap) := by
  intro r hr hw
  obtain rfl := Option.some.inj hr
  refine Raw.toInstr_x64L rfl rfl rfl ?_ hw
  have hf : b2n lft 0 + b2n wrap 1 < 64 := (by decide +kernel : ∀ (lft : Bool) (wrap : Bool), b2n lft 0 + b2n wrap 1 < 64) lft wrap
  obtain ⟨h1, h2, h3, h4, h5, h6⟩ := Raw.x_fields 0 56 g.code (d.wsBit) (d.code) (a.code) (b.code) 14 (0) (c := (c.code)) (ty := ty.code) (rm := 0) (fl := b2n lft 0 + b2n wrap 1) c.code_lt ty.code_lt (by decide) hf
  have e0 : b2n lft 0 + b2n wrap 1 &&& 60 = 0 := (by decide +kernel : ∀ (lft : Bool) (wrap : Bool), b2n lft 0 + b2n wrap 1 &&& 60 = 0) lft wrap
  have e1 : (b2n lft 0 + b2n wrap 1).testBit 0 = lft := (by decide +kernel : ∀ (lft : Bool) (wrap : Bool), (b2n lft 0 + b2n wrap 1).testBit 0 = lft) lft wrap
  have e2 : (b2n lft 0 + b2n wrap 1).testBit 1 = wrap := (by decide +kernel : ∀ (lft : Bool) (wrap : Bool), (b2n lft 0 + b2n wrap 1).testBit 1 = wrap) lft wrap
  unfold decX64L
  rw [h1]
  simp only [Option.bind_some, Dst.dec_code, Pred.dec_code, Reg.dec_code, Ty.dec_code, h2, h3, h4, h5, h6, Raw.x_ws, Raw.x_d, Raw.x_a, Raw.x_b, Raw.x_w3, e0, e1, e2]
  all_goals (cases lft <;> cases wrap <;> rfl)

theorem Encoding.rot (g : Pred) (d : Dst) (a : Reg) (b : Reg) (ty : Ty) (rgt : Bool) : Encoding.Statement (.rot g d a b ty rgt) := by
  intro r hr hw
  obtain rfl := Option.some.inj hr
  refine Raw.toInstr_x64L rfl rfl rfl ?_ hw
  have hf : b2n rgt 0 < 64 := (by decide +kernel : ∀ (rgt : Bool), b2n rgt 0 < 64) rgt
  obtain ⟨h1, h2, h3, h4, h5, h6⟩ := Raw.x_fields 0 56 g.code (d.wsBit) (d.code) (a.code) (b.code) 15 (0) (c := (0)) (ty := ty.code) (rm := 0) (fl := b2n rgt 0) (by decide) ty.code_lt (by decide) hf
  have e0 : b2n rgt 0 &&& 62 = 0 := (by decide +kernel : ∀ (rgt : Bool), b2n rgt 0 &&& 62 = 0) rgt
  have e1 : (b2n rgt 0).testBit 0 = rgt := (by decide +kernel : ∀ (rgt : Bool), (b2n rgt 0).testBit 0 = rgt) rgt
  unfold decX64L
  rw [h1]
  simp only [Option.bind_some, Dst.dec_code, Pred.dec_code, Reg.dec_code, Ty.dec_code, h2, h3, h4, h5, h6, Raw.x_ws, Raw.x_d, Raw.x_a, Raw.x_b, Raw.x_w3, e0, e1]
  all_goals (cases rgt <;> rfl)

theorem Encoding.andX64 (g : Pred) (d : Dst) (a : Reg) (b : Reg) (ty : Ty) : Encoding.Statement (.andX64 g d a b ty) := by
  intro r hr hw
  obtain rfl := Option.some.inj hr
  refine Raw.toInstr_x64L rfl rfl rfl ?_ hw
  obtain ⟨h1, h2, h3, h4, h5, h6⟩ := Raw.x_fields 0 56 g.code (d.wsBit) (d.code) (a.code) (b.code) 16 (0) (c := (0)) (ty := ty.code) (rm := 0) (fl := 0) (by decide) ty.code_lt (by decide) (by decide)
  unfold decX64L
  rw [h1]
  simp only [Option.bind_some, Dst.dec_code, Pred.dec_code, Reg.dec_code, Ty.dec_code, h2, h3, h4, h5, h6, Raw.x_ws, Raw.x_d, Raw.x_a, Raw.x_b, Raw.x_w3]
  all_goals rfl

theorem Encoding.orX64 (g : Pred) (d : Dst) (a : Reg) (b : Reg) (ty : Ty) : Encoding.Statement (.orX64 g d a b ty) := by
  intro r hr hw
  obtain rfl := Option.some.inj hr
  refine Raw.toInstr_x64L rfl rfl rfl ?_ hw
  obtain ⟨h1, h2, h3, h4, h5, h6⟩ := Raw.x_fields 0 56 g.code (d.wsBit) (d.code) (a.code) (b.code) 17 (0) (c := (0)) (ty := ty.code) (rm := 0) (fl := 0) (by decide) ty.code_lt (by decide) (by decide)
  unfold decX64L
  rw [h1]
  simp only [Option.bind_some, Dst.dec_code, Pred.dec_code, Reg.dec_code, Ty.dec_code, h2, h3, h4, h5, h6, Raw.x_ws, Raw.x_d, Raw.x_a, Raw.x_b, Raw.x_w3]
  all_goals rfl

theorem Encoding.xorX64 (g : Pred) (d : Dst) (a : Reg) (b : Reg) (ty : Ty) : Encoding.Statement (.xorX64 g d a b ty) := by
  intro r hr hw
  obtain rfl := Option.some.inj hr
  refine Raw.toInstr_x64L rfl rfl rfl ?_ hw
  obtain ⟨h1, h2, h3, h4, h5, h6⟩ := Raw.x_fields 0 56 g.code (d.wsBit) (d.code) (a.code) (b.code) 18 (0) (c := (0)) (ty := ty.code) (rm := 0) (fl := 0) (by decide) ty.code_lt (by decide) (by decide)
  unfold decX64L
  rw [h1]
  simp only [Option.bind_some, Dst.dec_code, Pred.dec_code, Reg.dec_code, Ty.dec_code, h2, h3, h4, h5, h6, Raw.x_ws, Raw.x_d, Raw.x_a, Raw.x_b, Raw.x_w3]
  all_goals rfl

theorem Encoding.andnX64 (g : Pred) (d : Dst) (a : Reg) (b : Reg) (ty : Ty) : Encoding.Statement (.andnX64 g d a b ty) := by
  intro r hr hw
  obtain rfl := Option.some.inj hr
  refine Raw.toInstr_x64L rfl rfl rfl ?_ hw
  obtain ⟨h1, h2, h3, h4, h5, h6⟩ := Raw.x_fields 0 56 g.code (d.wsBit) (d.code) (a.code) (b.code) 19 (0) (c := (0)) (ty := ty.code) (rm := 0) (fl := 0) (by decide) ty.code_lt (by decide) (by decide)
  unfold decX64L
  rw [h1]
  simp only [Option.bind_some, Dst.dec_code, Pred.dec_code, Reg.dec_code, Ty.dec_code, h2, h3, h4, h5, h6, Raw.x_ws, Raw.x_d, Raw.x_a, Raw.x_b, Raw.x_w3]
  all_goals rfl

theorem Encoding.tern (g : Pred) (d : Dst) (a : Reg) (b : Reg) (c : Reg) (ty : Ty) (lut : BitVec 8) : Encoding.Statement (.tern g d a b c ty lut) := by
  intro r hr hw
  obtain rfl := Option.some.inj hr
  refine Raw.toInstr_x96L rfl rfl rfl ?_ hw
  obtain ⟨h1, h2, h3, h4, h5, h6⟩ := Raw.x_fields 0 59 g.code (d.wsBit) (d.code) (a.code) (b.code) 20 (lut.toNat) (c := (c.code)) (ty := ty.code) (rm := 0) (fl := 0) c.code_lt ty.code_lt (by decide) (by decide)
  have e0 : (lut.toNat) &&& 4294967040 = 0 := and_high 8 (2 ^ 24 - 1) lut.isLt
  unfold decX96L
  rw [h1]
  simp only [Option.bind_some, BitVec_toNat_ofNat, Dst.dec_code, Pred.dec_code, Reg.dec_code, Ty.dec_code, h2, h3, h4, h5, h6, Raw.x_ws, Raw.x_d, Raw.x_a, Raw.x_b, Raw.x_w3, e0]
  all_goals rfl

theorem Encoding.popcX64 (g : Pred) (d : Dst) (a : Reg) (ty : Ty) : Encoding.Statement (.popcX64 g d a ty) := by
  intro r hr hw
  obtain rfl := Option.some.inj hr
  refine Raw.toInstr_x64L rfl rfl rfl ?_ hw
  obtain ⟨h1, h2, h3, h4, h5, h6⟩ := Raw.x_fields 0 56 g.code (d.wsBit) (d.code) (a.code) (0) 21 (0) (c := (0)) (ty := ty.code) (rm := 0) (fl := 0) (by decide) ty.code_lt (by decide) (by decide)
  unfold decX64L
  rw [h1]
  simp only [Option.bind_some, Dst.dec_code, Pred.dec_code, Reg.dec_code, Ty.dec_code, h2, h3, h4, h5, h6, Raw.x_ws, Raw.x_d, Raw.x_a, Raw.x_b, Raw.x_w3]
  all_goals rfl

theorem Encoding.clzX64 (g : Pred) (d : Dst) (a : Reg) (ty : Ty) : Encoding.Statement (.clzX64 g d a ty) := by
  intro r hr hw
  obtain rfl := Option.some.inj hr
  refine Raw.toInstr_x64L rfl rfl rfl ?_ hw
  obtain ⟨h1, h2, h3, h4, h5, h6⟩ := Raw.x_fields 0 56 g.code (d.wsBit) (d.code) (a.code) (0) 22 (0) (c := (0)) (ty := ty.code) (rm := 0) (fl := 0) (by decide) ty.code_lt (by decide) (by decide)
  unfold decX64L
  rw [h1]
  simp only [Option.bind_some, Dst.dec_code, Pred.dec_code, Reg.dec_code, Ty.dec_code, h2, h3, h4, h5, h6, Raw.x_ws, Raw.x_d, Raw.x_a, Raw.x_b, Raw.x_w3]
  all_goals rfl

theorem Encoding.brevX64 (g : Pred) (d : Dst) (a : Reg) (ty : Ty) : Encoding.Statement (.brevX64 g d a ty) := by
  intro r hr hw
  obtain rfl := Option.some.inj hr
  refine Raw.toInstr_x64L rfl rfl rfl ?_ hw
  obtain ⟨h1, h2, h3, h4, h5, h6⟩ := Raw.x_fields 0 56 g.code (d.wsBit) (d.code) (a.code) (0) 23 (0) (c := (0)) (ty := ty.code) (rm := 0) (fl := 0) (by decide) ty.code_lt (by decide) (by decide)
  unfold decX64L
  rw [h1]
  simp only [Option.bind_some, Dst.dec_code, Pred.dec_code, Reg.dec_code, Ty.dec_code, h2, h3, h4, h5, h6, Raw.x_ws, Raw.x_d, Raw.x_a, Raw.x_b, Raw.x_w3]
  all_goals rfl

theorem Encoding.bfx (g : Pred) (d : Dst) (a : Reg) (ty : Ty) (pos : Fin 32) (ln : Fin 64) : Encoding.Statement (.bfx g d a ty pos ln) := by
  intro r hr hw
  obtain rfl := Option.some.inj hr
  refine Raw.toInstr_x96L rfl rfl rfl ?_ hw
  obtain ⟨h1, h2, h3, h4, h5, h6⟩ := Raw.x_fields 0 59 g.code (d.wsBit) (d.code) (a.code) (0) 24 (pos.val + (256 * ln.val)) (c := (0)) (ty := ty.code) (rm := 0) (fl := 0) (by decide) ty.code_lt (by decide) (by decide)
  have e0 : (pos.val + (256 * ln.val)) &&& 4294951136 = 0 := (by decide +kernel : ∀ (pos : Fin 32) (ln : Fin 64), (pos.val + (256 * ln.val)) &&& 4294951136 = 0) pos ln
  have e1 : ((pos.val + (256 * ln.val))) % 32 = pos.val := (by decide +kernel : ∀ (pos : Fin 32) (ln : Fin 64), ((pos.val + (256 * ln.val))) % 32 = pos.val) pos ln
  have e2 : ((pos.val + (256 * ln.val))) / 256 % 64 = ln.val := (by decide +kernel : ∀ (pos : Fin 32) (ln : Fin 64), ((pos.val + (256 * ln.val))) / 256 % 64 = ln.val) pos ln
  unfold decX96L
  rw [h1]
  simp only [Option.bind_some, Dst.dec_code, decFin_val, Pred.dec_code, Reg.dec_code, Ty.dec_code, h2, h3, h4, h5, h6, Raw.x_ws, Raw.x_d, Raw.x_a, Raw.x_b, Raw.x_w3, e0, e1, e2]
  all_goals rfl

theorem Encoding.bfi (g : Pred) (d : Dst) (a : Reg) (b : Reg) (ty : Ty) (pos : Fin 32) (ln : Fin 64) : Encoding.Statement (.bfi g d a b ty pos ln) := by
  intro r hr hw
  obtain rfl := Option.some.inj hr
  refine Raw.toInstr_x96L rfl rfl rfl ?_ hw
  obtain ⟨h1, h2, h3, h4, h5, h6⟩ := Raw.x_fields 0 59 g.code (d.wsBit) (d.code) (a.code) (b.code) 25 (pos.val + (256 * ln.val)) (c := (0)) (ty := ty.code) (rm := 0) (fl := 0) (by decide) ty.code_lt (by decide) (by decide)
  have e0 : (pos.val + (256 * ln.val)) &&& 4294951136 = 0 := (by decide +kernel : ∀ (pos : Fin 32) (ln : Fin 64), (pos.val + (256 * ln.val)) &&& 4294951136 = 0) pos ln
  have e1 : ((pos.val + (256 * ln.val))) % 32 = pos.val := (by decide +kernel : ∀ (pos : Fin 32) (ln : Fin 64), ((pos.val + (256 * ln.val))) % 32 = pos.val) pos ln
  have e2 : ((pos.val + (256 * ln.val))) / 256 % 64 = ln.val := (by decide +kernel : ∀ (pos : Fin 32) (ln : Fin 64), ((pos.val + (256 * ln.val))) / 256 % 64 = ln.val) pos ln
  unfold decX96L
  rw [h1]
  simp only [Option.bind_some, Dst.dec_code, decFin_val, Pred.dec_code, Reg.dec_code, Ty.dec_code, h2, h3, h4, h5, h6, Raw.x_ws, Raw.x_d, Raw.x_a, Raw.x_b, Raw.x_w3, e0, e1, e2]
  all_goals rfl

theorem Encoding.icmp (g : Pred) (d : Fin 7) (a : Reg) (b : Reg) (ty : Ty) (cond : Cond) (comb : Combine) : Encoding.Statement (.icmp g d a b ty cond comb) := by
  intro r hr hw
  obtain rfl := Option.some.inj hr
  refine Raw.toInstr_x64L rfl rfl rfl ?_ hw
  have hf : cond.code + (8 * comb.code) < 64 := (by decide +kernel : ∀ (cond : Fin 8) (comb : Fin 4), cond.val + (8 * comb.val) < 64) ⟨cond.code, cond.code_lt⟩ ⟨comb.code, comb.code_lt⟩
  obtain ⟨h1, h2, h3, h4, h5, h6⟩ := Raw.x_fields 0 56 g.code (0) (d.val) (a.code) (b.code) 26 (0) (c := (comb.predNum)) (ty := ty.code) (rm := 0) (fl := cond.code + (8 * comb.code)) comb.predNum_lt ty.code_lt (by decide) hf
  have e0 : cond.code + (8 * comb.code) &&& 32 = 0 := (by decide +kernel : ∀ (cond : Fin 8) (comb : Fin 4), cond.val + (8 * comb.val) &&& 32 = 0) ⟨cond.code, cond.code_lt⟩ ⟨comb.code, comb.code_lt⟩
  have e1 : (cond.code + (8 * comb.code)) % 8 = cond.code := (by decide +kernel : ∀ (cond : Fin 8) (comb : Fin 4), (cond.val + (8 * comb.val)) % 8 = cond.val) ⟨cond.code, cond.code_lt⟩ ⟨comb.code, comb.code_lt⟩
  have e2 : (cond.code + (8 * comb.code)) / 8 % 4 = comb.code := (by decide +kernel : ∀ (cond : Fin 8) (comb : Fin 4), (cond.val + (8 * comb.val)) / 8 % 4 = comb.val) ⟨cond.code, cond.code_lt⟩ ⟨comb.code, comb.code_lt⟩
  unfold decX64L
  rw [h1]
  simp only [Option.bind_some, Combine.dec_code, Cond.dec_code, decFin_val, Pred.dec_code, Reg.dec_code, Ty.dec_code, h2, h3, h4, h5, h6, Raw.x_ws, Raw.x_d, Raw.x_a, Raw.x_b, Raw.x_w3, e0, e1, e2]
  all_goals rfl

theorem Encoding.sel (g : Pred) (d : Dst) (a : Reg) (b : Reg) (c : Pred) (ty : Ty) (neg : Bool) : Encoding.Statement (.sel g d a b c ty neg) := by
  intro r hr hw
  obtain rfl := Option.some.inj hr
  refine Raw.toInstr_x64L rfl rfl rfl ?_ hw
  have hf : b2n neg 0 < 64 := (by decide +kernel : ∀ (neg : Bool), b2n neg 0 < 64) neg
  obtain ⟨h1, h2, h3, h4, h5, h6⟩ := Raw.x_fields 0 56 g.code (d.wsBit) (d.code) (a.code) (b.code) 27 (0) (c := (c.code)) (ty := ty.code) (rm := 0) (fl := b2n neg 0) (Nat.lt_of_lt_of_le c.code_lt (by decide)) ty.code_lt (by decide) hf
  have e0 : b2n neg 0 &&& 62 = 0 := (by decide +kernel : ∀ (neg : Bool), b2n neg 0 &&& 62 = 0) neg
  have e1 : (b2n neg 0).testBit 0 = neg := (by decide +kernel : ∀ (neg : Bool), (b2n neg 0).testBit 0 = neg) neg
  unfold decX64L
  rw [h1]
  simp only [Option.bind_some, Dst.dec_code, Pred.dec_code, Reg.dec_code, Ty.dec_code, h2, h3, h4, h5, h6, Raw.x_ws, Raw.x_d, Raw.x_a, Raw.x_b, Raw.x_w3, e0, e1]
  all_goals (cases neg <;> rfl)

theorem Encoding.plog (g : Pred) (x : PlogArgs) : Encoding.Statement (.plog g x) := by
  intro r hr hw
  obtain rfl := Option.some.inj hr
  refine Raw.toInstr_x64L rfl rfl rfl ?_ hw
  have hf : x.code < 64 := (by decide +kernel : ∀ (x : Fin 8), x.val < 64) ⟨x.code, x.code_lt⟩
  obtain ⟨h1, h2, h3, h4, h5, h6⟩ := Raw.x_fields 0 56 g.code (x.wsBit) (x.dNum) (x.aNum) (x.bNum) 28 (0) (c := (0)) (ty := 0) (rm := 0) (fl := x.code) (by decide) (by decide) (by decide) hf
  have e0 : x.code &&& 56 = 0 := (by decide +kernel : ∀ (x : Fin 8), x.val &&& 56 = 0) ⟨x.code, x.code_lt⟩
  have e1 : (x.code) % 8 = x.code := (by decide +kernel : ∀ (x : Fin 8), (x.val) % 8 = x.val) ⟨x.code, x.code_lt⟩
  unfold decX64L
  rw [h1]
  simp only [Option.bind_some, PlogArgs.dec_code, Pred.dec_code, h2, h3, h4, h5, h6, Raw.x_ws, Raw.x_d, Raw.x_a, Raw.x_b, Raw.x_w3, e0, e1]
  all_goals rfl

theorem Encoding.movX64 (g : Pred) (d : Dst) (a : Reg) (ty : Ty) : Encoding.Statement (.movX64 g d a ty) := by
  intro r hr hw
  obtain rfl := Option.some.inj hr
  refine Raw.toInstr_x64L rfl rfl rfl ?_ hw
  obtain ⟨h1, h2, h3, h4, h5, h6⟩ := Raw.x_fields 0 56 g.code (d.wsBit) (d.code) (a.code) (0) 29 (0) (c := (0)) (ty := ty.code) (rm := 0) (fl := 0) (by decide) ty.code_lt (by decide) (by decide)
  unfold decX64L
  rw [h1]
  simp only [Option.bind_some, Dst.dec_code, Pred.dec_code, Reg.dec_code, Ty.dec_code, h2, h3, h4, h5, h6, Raw.x_ws, Raw.x_d, Raw.x_a, Raw.x_b, Raw.x_w3]
  all_goals rfl

theorem Encoding.idp4 (g : Pred) (d : Dst) (a : Reg) (b : Reg) (c : Reg) (ty : Ty) (bz : Bool) : Encoding.Statement (.idp4 g d a b c ty bz) := by
  intro r hr hw
  obtain rfl := Option.some.inj hr
  refine Raw.toInstr_x64L rfl rfl rfl ?_ hw
  have hf : b2n bz 0 < 64 := (by decide +kernel : ∀ (bz : Bool), b2n bz 0 < 64) bz
  obtain ⟨h1, h2, h3, h4, h5, h6⟩ := Raw.x_fields 0 56 g.code (d.wsBit) (d.code) (a.code) (b.code) 30 (0) (c := (c.code)) (ty := ty.code) (rm := 0) (fl := b2n bz 0) c.code_lt ty.code_lt (by decide) hf
  have e0 : b2n bz 0 &&& 62 = 0 := (by decide +kernel : ∀ (bz : Bool), b2n bz 0 &&& 62 = 0) bz
  have e1 : (b2n bz 0).testBit 0 = bz := (by decide +kernel : ∀ (bz : Bool), (b2n bz 0).testBit 0 = bz) bz
  unfold decX64L
  rw [h1]
  simp only [Option.bind_some, Dst.dec_code, Pred.dec_code, Reg.dec_code, Ty.dec_code, h2, h3, h4, h5, h6, Raw.x_ws, Raw.x_d, Raw.x_a, Raw.x_b, Raw.x_w3, e0, e1]
  all_goals (cases bz <;> rfl)

theorem Encoding.xch (g : Pred) (d : Dst) (a : Reg) (b : Reg) (ty : Ty) (mode : XMode) (ok : Option (Fin 7)) : Encoding.Statement (.xch g d a b ty mode ok) := by
  intro r hr hw
  obtain rfl := Option.some.inj hr
  refine Raw.toInstr_x64L rfl rfl rfl ?_ hw
  have hf : mode.code + b2n ok.isSome 3 < 64 := (by decide +kernel : ∀ (mode : Fin 4) (ok : Bool), mode.val + b2n ok 3 < 64) ⟨mode.code, mode.code_lt⟩ ok.isSome
  obtain ⟨h1, h2, h3, h4, h5, h6⟩ := Raw.x_fields 0 56 g.code (d.wsBit) (d.code) (a.code) (b.code) 31 (0) (c := (optPNum ok)) (ty := ty.code) (rm := 0) (fl := mode.code + b2n ok.isSome 3) (optPNum_lt ok) ty.code_lt (by decide) hf
  have e0 : mode.code + b2n ok.isSome 3 &&& 48 = 0 := (by decide +kernel : ∀ (mode : Fin 4) (ok : Bool), mode.val + b2n ok 3 &&& 48 = 0) ⟨mode.code, mode.code_lt⟩ ok.isSome
  have e1 : (mode.code + b2n ok.isSome 3) % 8 = mode.code := (by decide +kernel : ∀ (mode : Fin 4) (ok : Bool), (mode.val + b2n ok 3) % 8 = mode.val) ⟨mode.code, mode.code_lt⟩ ok.isSome
  have e2 : (mode.code + b2n ok.isSome 3).testBit 3 = ok.isSome := (by decide +kernel : ∀ (mode : Fin 4) (ok : Bool), (mode.val + b2n ok 3).testBit 3 = ok) ⟨mode.code, mode.code_lt⟩ ok.isSome
  unfold decX64L
  rw [h1]
  simp only [Option.bind_some, Dst.dec_code, decOptP_code, Pred.dec_code, Reg.dec_code, Ty.dec_code, XMode.dec_code, h2, h3, h4, h5, h6, Raw.x_ws, Raw.x_d, Raw.x_a, Raw.x_b, Raw.x_w3, e0, e1, e2]
  all_goals rfl

theorem Encoding.vote (g : Pred) (x : VoteDst) (a : Pred) (neg : Bool) : Encoding.Statement (.vote g x a neg) := by
  intro r hr hw
  obtain rfl := Option.some.inj hr
  refine Raw.toInstr_x64L rfl rfl rfl ?_ hw
  have hf := (by decide +kernel : ∀ (x : Fin 3) (neg : Bool), x.val + b2n neg 3 < 64) ⟨x.code, x.code_lt⟩ neg
  obtain ⟨h1, h2, h3, h4, h5, h6⟩ := Raw.x_fields 0 56 g.code 0 x.dNum a.code 0 32 0 (c := 0) (ty := 0) (rm := 0) (fl := x.code + b2n neg 3)
    (by decide) (by decide) (by decide) hf
  have hx : VoteDst.dec x.code x.dNum = some x := by
    cases x with
    | any d => simp [VoteDst.dec, VoteDst.code, VoteDst.dNum, decFin_val]
    | all d => simp [VoteDst.dec, VoteDst.code, VoteDst.dNum, decFin_val]
    | bal r =>
      simp only [Instr.wf, Bool.and_eq_true] at hw
      simp [VoteDst.dec, VoteDst.code, VoteDst.dNum, LReg.dec_code _ hw.1, hw.2]
  have e0 : x.code + b2n neg 3 &&& 48 = 0 :=
    (by decide +kernel : ∀ (x : Fin 3) (neg : Bool), x.val + b2n neg 3 &&& 48 = 0) ⟨x.code, x.code_lt⟩ neg
  have e1 : (x.code + b2n neg 3).testBit 3 = neg :=
    (by decide +kernel : ∀ (x : Fin 3) (neg : Bool), (x.val + b2n neg 3).testBit 3 = neg) ⟨x.code, x.code_lt⟩ neg
  have e2 : (x.code + b2n neg 3) % 8 = x.code :=
    (by decide +kernel : ∀ (x : Fin 3) (neg : Bool), (x.val + b2n neg 3) % 8 = x.val) ⟨x.code, x.code_lt⟩ neg
  unfold decX64L
  rw [h1]
  simp only [h2, h4, h5, h6, Raw.x_ws, Raw.x_d, Raw.x_a, Raw.x_b, e0, e1, e2, hx, Pred.dec_code, Option.bind_some]
  rfl

theorem Encoding.match (g : Pred) (d : Reg) (a : Reg) (ty : Ty) (all : Bool) : Encoding.Statement (.match g d a ty all) := by
  intro r hr hw
  obtain rfl := Option.some.inj hr
  refine Raw.toInstr_x64L rfl rfl rfl ?_ hw
  have hd : Reg.isLaneDst d = true := by
    simp only [Instr.wf, Bool.and_eq_true] at hw
    simp only [hw]
  have hf : b2n all 0 < 64 := (by decide +kernel : ∀ (all : Bool), b2n all 0 < 64) all
  obtain ⟨h1, h2, h3, h4, h5, h6⟩ := Raw.x_fields 0 56 g.code (0) (d.code) (a.code) (0) 33 (0) (c := (0)) (ty := ty.code) (rm := 0) (fl := b2n all 0) (by decide) ty.code_lt (by decide) hf
  have e0 : b2n all 0 &&& 56 = 0 := (by decide +kernel : ∀ (all : Bool), b2n all 0 &&& 56 = 0) all
  unfold decX64L
  rw [h1]
  simp only [Option.bind_some, Pred.dec_code, Reg.dec_code, Ty.dec_code, LReg.dec_code _ hd, h2, h3, h4, h5, h6, Raw.x_ws, Raw.x_d, Raw.x_a, Raw.x_b, Raw.x_w3, e0]
  all_goals (cases all <;> rfl)

theorem Encoding.redux (g : Pred) (d : Dst) (a : Reg) (ty : Ty) (op : RedOp) : Encoding.Statement (.redux g d a ty op) := by
  intro r hr hw
  obtain rfl := Option.some.inj hr
  refine Raw.toInstr_x64L rfl rfl rfl ?_ hw
  have hf : op.code < 64 := (by decide +kernel : ∀ (op : Fin 8), op.val < 64) ⟨op.code, op.code_lt⟩
  obtain ⟨h1, h2, h3, h4, h5, h6⟩ := Raw.x_fields 0 56 g.code (d.wsBit) (d.code) (a.code) (0) 34 (0) (c := (0)) (ty := ty.code) (rm := 0) (fl := op.code) (by decide) ty.code_lt (by decide) hf
  have e0 : op.code &&& 56 = 0 := (by decide +kernel : ∀ (op : Fin 8), op.val &&& 56 = 0) ⟨op.code, op.code_lt⟩
  have e1 : (op.code) % 8 = op.code := (by decide +kernel : ∀ (op : Fin 8), (op.val) % 8 = op.val) ⟨op.code, op.code_lt⟩
  unfold decX64L
  rw [h1]
  simp only [Option.bind_some, Dst.dec_code, Pred.dec_code, RedOp.dec_code, Reg.dec_code, Ty.dec_code, h2, h3, h4, h5, h6, Raw.x_ws, Raw.x_d, Raw.x_a, Raw.x_b, Raw.x_w3, e0, e1]
  all_goals rfl

theorem Encoding.movi (g : Pred) (d : Dst) (imm : Word) : Encoding.Statement (.movi g d imm) := by
  intro r hr hw
  obtain rfl := Option.some.inj hr
  refine Raw.toInstr_i64L rfl rfl rfl ?_ hw
  unfold decI64L
  simp only [Option.bind_some, Dst.dec_code, Pred.dec_code, BitVec_toNat_ofNat, Raw.i64]
  all_goals rfl

theorem Encoding.iaddI64 (g : Pred) (d : Dst) (a : Reg) (imm : Word) : Encoding.Statement (.iaddI64 g d a imm) := by
  intro r hr hw
  obtain rfl := Option.some.inj hr
  refine Raw.toInstr_i64L rfl rfl rfl ?_ hw
  unfold decI64L
  simp only [Option.bind_some, Dst.dec_code, Pred.dec_code, Reg.dec_code, BitVec_toNat_ofNat, Raw.i64]

theorem Encoding.imulI64 (g : Pred) (d : Dst) (a : Reg) (imm : Word) : Encoding.Statement (.imulI64 g d a imm) := by
  intro r hr hw
  obtain rfl := Option.some.inj hr
  refine Raw.toInstr_i64L rfl rfl rfl ?_ hw
  unfold decI64L
  simp only [Option.bind_some, Dst.dec_code, Pred.dec_code, Reg.dec_code, BitVec_toNat_ofNat, Raw.i64]

theorem Encoding.andI64 (g : Pred) (d : Dst) (a : Reg) (imm : Word) : Encoding.Statement (.andI64 g d a imm) := by
  intro r hr hw
  obtain rfl := Option.some.inj hr
  refine Raw.toInstr_i64L rfl rfl rfl ?_ hw
  unfold decI64L
  simp only [Option.bind_some, Dst.dec_code, Pred.dec_code, Reg.dec_code, BitVec_toNat_ofNat, Raw.i64]

theorem Encoding.orI64 (g : Pred) (d : Dst) (a : Reg) (imm : Word) : Encoding.Statement (.orI64 g d a imm) := by
  intro r hr hw
  obtain rfl := Option.some.inj hr
  refine Raw.toInstr_i64L rfl rfl rfl ?_ hw
  unfold decI64L
  simp only [Option.bind_some, Dst.dec_code, Pred.dec_code, Reg.dec_code, BitVec_toNat_ofNat, Raw.i64]

theorem Encoding.xorI64 (g : Pred) (d : Dst) (a : Reg) (imm : Word) : Encoding.Statement (.xorI64 g d a imm) := by
  intro r hr hw
  obtain rfl := Option.some.inj hr
  refine Raw.toInstr_i64L rfl rfl rfl ?_ hw
  unfold decI64L
  simp only [Option.bind_some, Dst.dec_code, Pred.dec_code, Reg.dec_code, BitVec_toNat_ofNat, Raw.i64]

theorem Encoding.shlI64 (g : Pred) (d : Dst) (a : Reg) (n : Fin 32) : Encoding.Statement (.shlI64 g d a n) := by
  intro r hr hw
  obtain rfl := Option.some.inj hr
  refine Raw.toInstr_i64L rfl rfl rfl ?_ hw
  unfold decI64L
  simp only [Option.bind_some, Dst.dec_code, decFin_val, Pred.dec_code, Reg.dec_code, Raw.i64]

theorem Encoding.shrI64 (g : Pred) (d : Dst) (a : Reg) (ty : Ty) (n : Fin 32) : Encoding.Statement (.shrI64 g d a ty n) := by
  intro r hr hw
  obtain rfl := Option.some.inj hr
  have ht : ty = .s32 ∨ ty = .z32 := by
    have h : Ty.isOneOf ty [.s32, .z32] = true := hw
    cases ty <;> first | exact .inl rfl | exact .inr rfl | exact absurd h (by decide)
  obtain rfl | rfl := ht
  · refine Raw.toInstr_i64L (r := Raw.i64 0 g.code d.wsBit d.code a.code 8 n.val) rfl rfl rfl ?_ hw
    simp only [decI64L, Raw.i64, Dst.dec_code, Reg.dec_code, decFin_val, Option.bind_some]
    rfl
  · refine Raw.toInstr_i64L (r := Raw.i64 0 g.code d.wsBit d.code a.code 7 n.val) rfl rfl rfl ?_ hw
    simp only [decI64L, Raw.i64, Dst.dec_code, Reg.dec_code, decFin_val, Option.bind_some]
    rfl

theorem Encoding.iminI64 (g : Pred) (d : Dst) (a : Reg) (imm : Word) : Encoding.Statement (.iminI64 g d a imm) := by
  intro r hr hw
  obtain rfl := Option.some.inj hr
  refine Raw.toInstr_i64L rfl rfl rfl ?_ hw
  unfold decI64L
  simp only [Option.bind_some, Dst.dec_code, Pred.dec_code, Reg.dec_code, BitVec_toNat_ofNat, Raw.i64]

theorem Encoding.imaxI64 (g : Pred) (d : Dst) (a : Reg) (imm : Word) : Encoding.Statement (.imaxI64 g d a imm) := by
  intro r hr hw
  obtain rfl := Option.some.inj hr
  refine Raw.toInstr_i64L rfl rfl rfl ?_ hw
  unfold decI64L
  simp only [Option.bind_some, Dst.dec_code, Pred.dec_code, Reg.dec_code, BitVec_toNat_ofNat, Raw.i64]

theorem Encoding.leaI64 (g : Pred) (d : Reg) (a : Reg) (imm : Word) : Encoding.Statement (.leaI64 g d a imm) := by
  intro r hr hw
  obtain rfl := Option.some.inj hr
  refine Raw.toInstr_i64L rfl rfl rfl ?_ hw
  have hd : Reg.isLaneDst d = true := by
    simp only [Instr.wf, Bool.and_eq_true] at hw
    simp only [hw]
  unfold decI64L
  simp only [Option.bind_some, Pred.dec_code, Reg.dec_code, BitVec_toNat_ofNat, LReg.dec_code _ hd, Raw.i64]
  all_goals rfl

theorem Encoding.braI64 (g : Pred) (imm : Word) : Encoding.Statement (.braI64 g imm) := by
  intro r hr hw
  obtain rfl := Option.some.inj hr
  refine Raw.toInstr_i64L rfl rfl rfl ?_ hw
  unfold decI64L
  simp only [Option.bind_some, Pred.dec_code, BitVec_toNat_ofNat, Raw.i64]
  all_goals rfl

theorem Encoding.call (g : Pred) (d : Reg) (imm : Word) : Encoding.Statement (.call g d imm) := by
  intro r hr hw
  obtain rfl := Option.some.inj hr
  refine Raw.toInstr_i64L rfl rfl rfl ?_ hw
  have hd : Reg.isLaneDst d = true := by
    simp only [Instr.wf, Bool.and_eq_true] at hw
    simp only [hw]
  unfold decI64L
  simp only [Option.bind_some, Pred.dec_code, Reg.dec_code, BitVec_toNat_ofNat, LReg.dec_code _ hd, Raw.i64]
  all_goals rfl

theorem Encoding.faddX64 (g : Pred) (d : Dst) (a : Reg) (b : Reg) (ty : Ty) (rm : RM) : Encoding.Statement (.faddX64 g d a b ty rm) := by
  intro r hr hw
  obtain rfl := Option.some.inj hr
  refine Raw.toInstr_x64L rfl rfl rfl ?_ hw
  obtain ⟨h1, h2, h3, h4, h5, h6⟩ := Raw.x_fields 0 56 g.code (d.wsBit) (d.code) (a.code) (b.code) 256 (0) (c := (0)) (ty := ty.code) (rm := rm.code) (fl := 0) (by decide) ty.code_lt rm.code_lt (by decide)
  unfold decX64L
  rw [h1]
  simp only [Option.bind_some, Dst.dec_code, Pred.dec_code, RM.dec_code, Reg.dec_code, Ty.dec_code, h2, h3, h4, h5, h6, Raw.x_ws, Raw.x_d, Raw.x_a, Raw.x_b, Raw.x_w3]
  all_goals rfl

theorem Encoding.fsubX64 (g : Pred) (d : Dst) (a : Reg) (b : Reg) (ty : Ty) (rm : RM) : Encoding.Statement (.fsubX64 g d a b ty rm) := by
  intro r hr hw
  obtain rfl := Option.some.inj hr
  refine Raw.toInstr_x64L rfl rfl rfl ?_ hw
  obtain ⟨h1, h2, h3, h4, h5, h6⟩ := Raw.x_fields 0 56 g.code (d.wsBit) (d.code) (a.code) (b.code) 257 (0) (c := (0)) (ty := ty.code) (rm := rm.code) (fl := 0) (by decide) ty.code_lt rm.code_lt (by decide)
  unfold decX64L
  rw [h1]
  simp only [Option.bind_some, Dst.dec_code, Pred.dec_code, RM.dec_code, Reg.dec_code, Ty.dec_code, h2, h3, h4, h5, h6, Raw.x_ws, Raw.x_d, Raw.x_a, Raw.x_b, Raw.x_w3]
  all_goals rfl

theorem Encoding.fmulX64 (g : Pred) (d : Dst) (a : Reg) (b : Reg) (ty : Ty) (rm : RM) : Encoding.Statement (.fmulX64 g d a b ty rm) := by
  intro r hr hw
  obtain rfl := Option.some.inj hr
  refine Raw.toInstr_x64L rfl rfl rfl ?_ hw
  obtain ⟨h1, h2, h3, h4, h5, h6⟩ := Raw.x_fields 0 56 g.code (d.wsBit) (d.code) (a.code) (b.code) 258 (0) (c := (0)) (ty := ty.code) (rm := rm.code) (fl := 0) (by decide) ty.code_lt rm.code_lt (by decide)
  unfold decX64L
  rw [h1]
  simp only [Option.bind_some, Dst.dec_code, Pred.dec_code, RM.dec_code, Reg.dec_code, Ty.dec_code, h2, h3, h4, h5, h6, Raw.x_ws, Raw.x_d, Raw.x_a, Raw.x_b, Raw.x_w3]
  all_goals rfl

theorem Encoding.ffma (g : Pred) (d : Dst) (a : Reg) (b : Reg) (c : Reg) (ty : Ty) (rm : RM) : Encoding.Statement (.ffma g d a b c ty rm) := by
  intro r hr hw
  obtain rfl := Option.some.inj hr
  refine Raw.toInstr_x64L rfl rfl rfl ?_ hw
  obtain ⟨h1, h2, h3, h4, h5, h6⟩ := Raw.x_fields 0 56 g.code (d.wsBit) (d.code) (a.code) (b.code) 259 (0) (c := (c.code)) (ty := ty.code) (rm := rm.code) (fl := 0) c.code_lt ty.code_lt rm.code_lt (by decide)
  unfold decX64L
  rw [h1]
  simp only [Option.bind_some, Dst.dec_code, Pred.dec_code, RM.dec_code, Reg.dec_code, Ty.dec_code, h2, h3, h4, h5, h6, Raw.x_ws, Raw.x_d, Raw.x_a, Raw.x_b, Raw.x_w3]
  all_goals rfl

theorem Encoding.fminX64 (g : Pred) (d : Dst) (a : Reg) (b : Reg) (ty : Ty) (nan : Bool) : Encoding.Statement (.fminX64 g d a b ty nan) := by
  intro r hr hw
  obtain rfl := Option.some.inj hr
  refine Raw.toInstr_x64L rfl rfl rfl ?_ hw
  have hf : b2n nan 0 < 64 := (by decide +kernel : ∀ (nan : Bool), b2n nan 0 < 64) nan
  obtain ⟨h1, h2, h3, h4, h5, h6⟩ := Raw.x_fields 0 56 g.code (d.wsBit) (d.code) (a.code) (b.code) 260 (0) (c := (0)) (ty := ty.code) (rm := 0) (fl := b2n nan 0) (by decide) ty.code_lt (by decide) hf
  have e0 : b2n nan 0 &&& 62 = 0 := (by decide +kernel : ∀ (nan : Bool), b2n nan 0 &&& 62 = 0) nan
  have e1 : (b2n nan 0).testBit 0 = nan := (by decide +kernel : ∀ (nan : Bool), (b2n nan 0).testBit 0 = nan) nan
  unfold decX64L
  rw [h1]
  simp only [Option.bind_some, Dst.dec_code, Pred.dec_code, Reg.dec_code, Ty.dec_code, h2, h3, h4, h5, h6, Raw.x_ws, Raw.x_d, Raw.x_a, Raw.x_b, Raw.x_w3, e0, e1]
  all_goals (cases nan <;> rfl)

theorem Encoding.fmaxX64 (g : Pred) (d : Dst) (a : Reg) (b : Reg) (ty : Ty) (nan : Bool) : Encoding.Statement (.fmaxX64 g d a b ty nan) := by
  intro r hr hw
  obtain rfl := Option.some.inj hr
  refine Raw.toInstr_x64L rfl rfl rfl ?_ hw
  have hf : b2n nan 0 < 64 := (by decide +kernel : ∀ (nan : Bool), b2n nan 0 < 64) nan
  obtain ⟨h1, h2, h3, h4, h5, h6⟩ := Raw.x_fields 0 56 g.code (d.wsBit) (d.code) (a.code) (b.code) 261 (0) (c := (0)) (ty := ty.code) (rm := 0) (fl := b2n nan 0) (by decide) ty.code_lt (by decide) hf
  have e0 : b2n nan 0 &&& 62 = 0 := (by decide +kernel : ∀ (nan : Bool), b2n nan 0 &&& 62 = 0) nan
  have e1 : (b2n nan 0).testBit 0 = nan := (by decide +kernel : ∀ (nan : Bool), (b2n nan 0).testBit 0 = nan) nan
  unfold decX64L
  rw [h1]
  simp only [Option.bind_some, Dst.dec_code, Pred.dec_code, Reg.dec_code, Ty.dec_code, h2, h3, h4, h5, h6, Raw.x_ws, Raw.x_d, Raw.x_a, Raw.x_b, Raw.x_w3, e0, e1]
  all_goals (cases nan <;> rfl)

theorem Encoding.fcmp (g : Pred) (d : Fin 7) (a : Reg) (b : Reg) (ty : Ty) (cond : FCond) (comb : Combine) (hi : Bool) : Encoding.Statement (.fcmp g d a b ty cond comb hi) := by
  intro r hr hw
  obtain rfl := Option.some.inj hr
  refine Raw.toInstr_x64L rfl rfl rfl ?_ hw
  have hf : cond.code + (8 * comb.code) + b2n hi 5 < 64 := (by decide +kernel : ∀ (cond : Fin 8) (comb : Fin 4) (hi : Bool), cond.val + (8 * comb.val) + b2n hi 5 < 64) ⟨cond.code, cond.code_lt⟩ ⟨comb.code, comb.code_lt⟩ hi
  obtain ⟨h1, h2, h3, h4, h5, h6⟩ := Raw.x_fields 0 56 g.code (0) (d.val) (a.code) (b.code) 262 (0) (c := (comb.predNum)) (ty := ty.code) (rm := 0) (fl := cond.code + (8 * comb.code) + b2n hi 5) comb.predNum_lt ty.code_lt (by decide) hf
  have e0 : (cond.code + (8 * comb.code) + b2n hi 5) % 8 = cond.code := (by decide +kernel : ∀ (cond : Fin 8) (comb : Fin 4) (hi : Bool), (cond.val + (8 * comb.val) + b2n hi 5) % 8 = cond.val) ⟨cond.code, cond.code_lt⟩ ⟨comb.code, comb.code_lt⟩ hi
  have e1 : (cond.code + (8 * comb.code) + b2n hi 5).testBit 5 = hi := (by decide +kernel : ∀ (cond : Fin 8) (comb : Fin 4) (hi : Bool), (cond.val + (8 * comb.val) + b2n hi 5).testBit 5 = hi) ⟨cond.code, cond.code_lt⟩ ⟨comb.code, comb.code_lt⟩ hi
  have e2 : (cond.code + (8 * comb.code) + b2n hi 5) / 8 % 4 = comb.code := (by decide +kernel : ∀ (cond : Fin 8) (comb : Fin 4) (hi : Bool), (cond.val + (8 * comb.val) + b2n hi 5) / 8 % 4 = comb.val) ⟨cond.code, cond.code_lt⟩ ⟨comb.code, comb.code_lt⟩ hi
  unfold decX64L
  rw [h1]
  simp only [Option.bind_some, Combine.dec_code, FCond.dec_code, decFin_val, Pred.dec_code, Reg.dec_code, Ty.dec_code, h2, h3, h4, h5, h6, Raw.x_ws, Raw.x_d, Raw.x_a, Raw.x_b, Raw.x_w3, e0, e1, e2]
  all_goals (cases hi <;> rfl)

theorem Encoding.frcpX64 (g : Pred) (d : Dst) (a : Reg) (ty : Ty) : Encoding.Statement (.frcpX64 g d a ty) := by
  intro r hr hw
  obtain rfl := Option.some.inj hr
  refine Raw.toInstr_x64L rfl rfl rfl ?_ hw
  obtain ⟨h1, h2, h3, h4, h5, h6⟩ := Raw.x_fields 0 56 g.code (d.wsBit) (d.code) (a.code) (0) 263 (0) (c := (0)) (ty := ty.code) (rm := 0) (fl := 0) (by decide) ty.code_lt (by decide) (by decide)
  unfold decX64L
  rw [h1]
  simp only [Option.bind_some, Dst.dec_code, Pred.dec_code, Reg.dec_code, Ty.dec_code, h2, h3, h4, h5, h6, Raw.x_ws, Raw.x_d, Raw.x_a, Raw.x_b, Raw.x_w3]
  all_goals rfl

theorem Encoding.frsqX64 (g : Pred) (d : Dst) (a : Reg) (ty : Ty) : Encoding.Statement (.frsqX64 g d a ty) := by
  intro r hr hw
  obtain rfl := Option.some.inj hr
  refine Raw.toInstr_x64L rfl rfl rfl ?_ hw
  obtain ⟨h1, h2, h3, h4, h5, h6⟩ := Raw.x_fields 0 56 g.code (d.wsBit) (d.code) (a.code) (0) 264 (0) (c := (0)) (ty := ty.code) (rm := 0) (fl := 0) (by decide) ty.code_lt (by decide) (by decide)
  unfold decX64L
  rw [h1]
  simp only [Option.bind_some, Dst.dec_code, Pred.dec_code, Reg.dec_code, Ty.dec_code, h2, h3, h4, h5, h6, Raw.x_ws, Raw.x_d, Raw.x_a, Raw.x_b, Raw.x_w3]
  all_goals rfl

theorem Encoding.fsqrtX64 (g : Pred) (d : Dst) (a : Reg) (ty : Ty) : Encoding.Statement (.fsqrtX64 g d a ty) := by
  intro r hr hw
  obtain rfl := Option.some.inj hr
  refine Raw.toInstr_x64L rfl rfl rfl ?_ hw
  obtain ⟨h1, h2, h3, h4, h5, h6⟩ := Raw.x_fields 0 56 g.code (d.wsBit) (d.code) (a.code) (0) 265 (0) (c := (0)) (ty := ty.code) (rm := 0) (fl := 0) (by decide) ty.code_lt (by decide) (by decide)
  unfold decX64L
  rw [h1]
  simp only [Option.bind_some, Dst.dec_code, Pred.dec_code, Reg.dec_code, Ty.dec_code, h2, h3, h4, h5, h6, Raw.x_ws, Raw.x_d, Raw.x_a, Raw.x_b, Raw.x_w3]
  all_goals rfl

theorem Encoding.fexp2X64 (g : Pred) (d : Dst) (a : Reg) (ty : Ty) : Encoding.Statement (.fexp2X64 g d a ty) := by
  intro r hr hw
  obtain rfl := Option.some.inj hr
  refine Raw.toInstr_x64L rfl rfl rfl ?_ hw
  obtain ⟨h1, h2, h3, h4, h5, h6⟩ := Raw.x_fields 0 56 g.code (d.wsBit) (d.code) (a.code) (0) 266 (0) (c := (0)) (ty := ty.code) (rm := 0) (fl := 0) (by decide) ty.code_lt (by decide) (by decide)
  unfold decX64L
  rw [h1]
  simp only [Option.bind_some, Dst.dec_code, Pred.dec_code, Reg.dec_code, Ty.dec_code, h2, h3, h4, h5, h6, Raw.x_ws, Raw.x_d, Raw.x_a, Raw.x_b, Raw.x_w3]
  all_goals rfl

theorem Encoding.flog2X64 (g : Pred) (d : Dst) (a : Reg) (ty : Ty) : Encoding.Statement (.flog2X64 g d a ty) := by
  intro r hr hw
  obtain rfl := Option.some.inj hr
  refine Raw.toInstr_x64L rfl rfl rfl ?_ hw
  obtain ⟨h1, h2, h3, h4, h5, h6⟩ := Raw.x_fields 0 56 g.code (d.wsBit) (d.code) (a.code) (0) 267 (0) (c := (0)) (ty := ty.code) (rm := 0) (fl := 0) (by decide) ty.code_lt (by decide) (by decide)
  unfold decX64L
  rw [h1]
  simp only [Option.bind_some, Dst.dec_code, Pred.dec_code, Reg.dec_code, Ty.dec_code, h2, h3, h4, h5, h6, Raw.x_ws, Raw.x_d, Raw.x_a, Raw.x_b, Raw.x_w3]
  all_goals rfl

theorem Encoding.fdp2 (g : Pred) (d : Dst) (a : Reg) (b : Reg) (c : Reg) (ty : Ty) (rm : RM) : Encoding.Statement (.fdp2 g d a b c ty rm) := by
  intro r hr hw
  obtain rfl := Option.some.inj hr
  refine Raw.toInstr_x64L rfl rfl rfl ?_ hw
  obtain ⟨h1, h2, h3, h4, h5, h6⟩ := Raw.x_fields 0 56 g.code (d.wsBit) (d.code) (a.code) (b.code) 268 (0) (c := (c.code)) (ty := ty.code) (rm := rm.code) (fl := 0) c.code_lt ty.code_lt rm.code_lt (by decide)
  unfold decX64L
  rw [h1]
  simp only [Option.bind_some, Dst.dec_code, Pred.dec_code, RM.dec_code, Reg.dec_code, Ty.dec_code, h2, h3, h4, h5, h6, Raw.x_ws, Raw.x_d, Raw.x_a, Raw.x_b, Raw.x_w3]
  all_goals rfl

theorem Encoding.cvt (g : Pred) (d : Dst) (a : Reg) (b : Reg) (dt : Ty) (st : Ty) (rm : RM) : Encoding.Statement (.cvt g d a b dt st rm) := by
  intro r hr hw
  obtain rfl := Option.some.inj hr
  refine Raw.toInstr_x64L rfl rfl rfl ?_ hw
  obtain ⟨h1, h2, h3, h4, h5, h6⟩ := Raw.x_cvt 0 56 g.code (d.wsBit) (d.code) (a.code) (b.code) 269 (0) (c := (0)) (by decide) dt.code_lt st.code_lt rm.code_lt
  unfold decX64L
  rw [h1]
  simp only [Option.bind_some, Dst.dec_code, Pred.dec_code, RM.dec_code, Reg.dec_code, Ty.dec_code, h2, h3, h4, h5, h6, Raw.x_ws, Raw.x_d, Raw.x_a, Raw.x_b, Raw.x_w3]
  all_goals rfl

theorem Encoding.cvtsr (g : Pred) (d : Dst) (a : Reg) (b : Reg) (c : Reg) (dt : Ty) (st : Ty) : Encoding.Statement (.cvtsr g d a b c dt st) := by
  intro r hr hw
  obtain rfl := Option.some.inj hr
  refine Raw.toInstr_x64L rfl rfl rfl ?_ hw
  obtain ⟨h1, h2, h3, h4, h5, h6⟩ := Raw.x_cvt0 0 56 g.code (d.wsBit) (d.code) (a.code) (b.code) 270 (0) (c := (c.code)) c.code_lt dt.code_lt st.code_lt
  unfold decX64L
  rw [h1]
  simp only [Option.bind_some, Dst.dec_code, Pred.dec_code, Reg.dec_code, Ty.dec_code, h2, h3, h4, h5, h6, Raw.x_ws, Raw.x_d, Raw.x_a, Raw.x_b, Raw.x_w3]
  all_goals rfl

theorem Encoding.fclassX64 (g : Pred) (d : Dst) (a : Reg) (ty : Ty) : Encoding.Statement (.fclassX64 g d a ty) := by
  intro r hr hw
  obtain rfl := Option.some.inj hr
  refine Raw.toInstr_x64L rfl rfl rfl ?_ hw
  obtain ⟨h1, h2, h3, h4, h5, h6⟩ := Raw.x_fields 0 56 g.code (d.wsBit) (d.code) (a.code) (0) 271 (0) (c := (0)) (ty := ty.code) (rm := 0) (fl := 0) (by decide) ty.code_lt (by decide) (by decide)
  unfold decX64L
  rw [h1]
  simp only [Option.bind_some, Dst.dec_code, Pred.dec_code, Reg.dec_code, Ty.dec_code, h2, h3, h4, h5, h6, Raw.x_ws, Raw.x_d, Raw.x_a, Raw.x_b, Raw.x_w3]
  all_goals rfl

theorem Encoding.dquant (g : Pred) (a : Fin 96) (b : SReg) (c : SReg) (hi : Bool) (rowA : Bool) (colA : Bool) : Encoding.Statement (.dquant g a b c hi rowA colA) := by
  intro r hr hw
  obtain rfl := Option.some.inj hr
  refine Raw.toInstr_x96L rfl rfl rfl ?_ hw
  have hf : b2n hi 0 < 64 := (by decide +kernel : ∀ (hi : Bool), b2n hi 0 < 64) hi
  obtain ⟨h1, h2, h3, h4, h5, h6⟩ := Raw.x_fields 0 59 g.code (0) (0) (a.val) (b.code) 272 (b2n rowA 0 + b2n colA 1) (c := (c.code)) (ty := 13) (rm := 0) (fl := b2n hi 0) c.code_lt (by decide) (by decide) hf
  have e0 : b2n hi 0 &&& 62 = 0 := (by decide +kernel : ∀ (hi : Bool), b2n hi 0 &&& 62 = 0) hi
  have e1 : (b2n rowA 0 + b2n colA 1) &&& 4294967292 = 0 := (by decide +kernel : ∀ (rowA : Bool) (colA : Bool), (b2n rowA 0 + b2n colA 1) &&& 4294967292 = 0) rowA colA
  have e2 : (b2n hi 0).testBit 0 = hi := (by decide +kernel : ∀ (hi : Bool), (b2n hi 0).testBit 0 = hi) hi
  have e3 : ((b2n rowA 0 + b2n colA 1)).testBit 0 = rowA := (by decide +kernel : ∀ (rowA : Bool) (colA : Bool), ((b2n rowA 0 + b2n colA 1)).testBit 0 = rowA) rowA colA
  have e4 : ((b2n rowA 0 + b2n colA 1)).testBit 1 = colA := (by decide +kernel : ∀ (rowA : Bool) (colA : Bool), ((b2n rowA 0 + b2n colA 1)).testBit 1 = colA) rowA colA
  unfold decX96L
  rw [h1]
  simp only [Option.bind_some, decFin_val, Pred.dec_code, SReg.dec_code, h2, h3, h4, h5, h6, Raw.x_ws, Raw.x_d, Raw.x_a, Raw.x_b, Raw.x_w3, e0, e1, e2, e3, e4]
  all_goals (cases hi <;> cases rowA <;> cases colA <;> rfl)

theorem Encoding.brx (g : Pred) (a : Reg) : Encoding.Statement (.brx g a) := by
  intro r hr hw
  obtain rfl := Option.some.inj hr
  refine Raw.toInstr_x64L rfl rfl rfl ?_ hw
  obtain ⟨h1, h2, h3, h4, h5, h6⟩ := Raw.x_fields 0 56 g.code (0) (0) (a.code) (0) 512 (0) (c := (0)) (ty := 0) (rm := 0) (fl := 0) (by decide) (by decide) (by decide) (by decide)
  unfold decX64L
  rw [h1]
  simp only [Option.bind_some, Pred.dec_code, Reg.dec_code, h2, h3, h4, h5, h6, Raw.x_ws, Raw.x_d, Raw.x_a, Raw.x_b, Raw.x_w3]
  all_goals rfl

theorem Encoding.callx (g : Pred) (d : Reg) (a : Reg) : Encoding.Statement (.callx g d a) := by
  intro r hr hw
  obtain rfl := Option.some.inj hr
  refine Raw.toInstr_x64L rfl rfl rfl ?_ hw
  have hd : Reg.isLaneDst d = true := by
    simp only [Instr.wf, Bool.and_eq_true] at hw
    simp only [hw]
  obtain ⟨h1, h2, h3, h4, h5, h6⟩ := Raw.x_fields 0 56 g.code (0) (d.code) (a.code) (0) 513 (0) (c := (0)) (ty := 0) (rm := 0) (fl := 0) (by decide) (by decide) (by decide) (by decide)
  unfold decX64L
  rw [h1]
  simp only [Option.bind_some, Pred.dec_code, Reg.dec_code, LReg.dec_code _ hd, h2, h3, h4, h5, h6, Raw.x_ws, Raw.x_d, Raw.x_a, Raw.x_b, Raw.x_w3]
  all_goals rfl

theorem Encoding.retX64 (g : Pred) (a : Reg) : Encoding.Statement (.retX64 g a) := by
  intro r hr hw
  obtain rfl := Option.some.inj hr
  refine Raw.toInstr_x64L rfl rfl rfl ?_ hw
  obtain ⟨h1, h2, h3, h4, h5, h6⟩ := Raw.x_fields 0 56 g.code (0) (0) (a.code) (0) 514 (0) (c := (0)) (ty := 0) (rm := 0) (fl := 0) (by decide) (by decide) (by decide) (by decide)
  unfold decX64L
  rw [h1]
  simp only [Option.bind_some, Pred.dec_code, Reg.dec_code, h2, h3, h4, h5, h6, Raw.x_ws, Raw.x_d, Raw.x_a, Raw.x_b, Raw.x_w3]
  all_goals rfl

theorem Encoding.exitX64 (g : Pred) : Encoding.Statement (.exitX64 g) := by
  intro r hr hw
  obtain rfl := Option.some.inj hr
  refine Raw.toInstr_x64L rfl rfl rfl ?_ hw
  obtain ⟨h1, h2, h3, h4, h5, h6⟩ := Raw.x_fields 0 56 g.code (0) (0) (0) (0) 515 (0) (c := (0)) (ty := 0) (rm := 0) (fl := 0) (by decide) (by decide) (by decide) (by decide)
  unfold decX64L
  rw [h1]
  simp only [Option.bind_some, Pred.dec_code, h2, h3, h4, h5, h6, Raw.x_ws, Raw.x_d, Raw.x_a, Raw.x_b, Raw.x_w3]
  all_goals rfl

theorem Encoding.yieldX64 (g : Pred) : Encoding.Statement (.yieldX64 g) := by
  intro r hr hw
  obtain rfl := Option.some.inj hr
  refine Raw.toInstr_x64L rfl rfl rfl ?_ hw
  obtain ⟨h1, h2, h3, h4, h5, h6⟩ := Raw.x_fields 0 56 g.code (0) (0) (0) (0) 516 (0) (c := (0)) (ty := 0) (rm := 0) (fl := 0) (by decide) (by decide) (by decide) (by decide)
  unfold decX64L
  rw [h1]
  simp only [Option.bind_some, Pred.dec_code, h2, h3, h4, h5, h6, Raw.x_ws, Raw.x_d, Raw.x_a, Raw.x_b, Raw.x_w3]
  all_goals rfl

theorem Encoding.nopX64 (g : Pred) : Encoding.Statement (.nopX64 g) := by
  intro r hr hw
  obtain rfl := Option.some.inj hr
  refine Raw.toInstr_x64L rfl rfl rfl ?_ hw
  obtain ⟨h1, h2, h3, h4, h5, h6⟩ := Raw.x_fields 0 56 g.code (0) (0) (0) (0) 517 (0) (c := (0)) (ty := 0) (rm := 0) (fl := 0) (by decide) (by decide) (by decide) (by decide)
  unfold decX64L
  rw [h1]
  simp only [Option.bind_some, Pred.dec_code, h2, h3, h4, h5, h6, Raw.x_ws, Raw.x_d, Raw.x_a, Raw.x_b, Raw.x_w3]
  all_goals rfl

theorem Encoding.mkcurX64 (g : Pred) (m : Fin 12) : Encoding.Statement (.mkcurX64 g m) := by
  intro r hr hw
  obtain rfl := Option.some.inj hr
  refine Raw.toInstr_x64L rfl rfl rfl ?_ hw
  obtain ⟨h1, h2, h3, h4, h5, h6⟩ := Raw.x_fields 0 56 g.code (0) (m.val) (0) (0) 518 (0) (c := (0)) (ty := 0) (rm := 0) (fl := 0) (by decide) (by decide) (by decide) (by decide)
  unfold decX64L
  rw [h1]
  simp only [Option.bind_some, decFin_val, Pred.dec_code, h2, h3, h4, h5, h6, Raw.x_ws, Raw.x_d, Raw.x_a, Raw.x_b, Raw.x_w3]
  all_goals rfl

theorem Encoding.mktos (g : Pred) (d : Reg) (m : Fin 12) : Encoding.Statement (.mktos g d m) := by
  intro r hr hw
  obtain rfl := Option.some.inj hr
  refine Raw.toInstr_x64L rfl rfl rfl ?_ hw
  have hd : Reg.isLaneDst d = true := by
    simp only [Instr.wf, Bool.and_eq_true] at hw
    simp only [hw]
  obtain ⟨h1, h2, h3, h4, h5, h6⟩ := Raw.x_fields 0 56 g.code (0) (d.code) (m.val) (0) 519 (0) (c := (0)) (ty := 0) (rm := 0) (fl := 0) (by decide) (by decide) (by decide) (by decide)
  unfold decX64L
  rw [h1]
  simp only [Option.bind_some, decFin_val, Pred.dec_code, Reg.dec_code, LReg.dec_code _ hd, h2, h3, h4, h5, h6, Raw.x_ws, Raw.x_d, Raw.x_a, Raw.x_b, Raw.x_w3]
  all_goals rfl

theorem Encoding.stomk (g : Pred) (m : Fin 12) (a : Reg) : Encoding.Statement (.stomk g m a) := by
  intro r hr hw
  obtain rfl := Option.some.inj hr
  refine Raw.toInstr_x64L rfl rfl rfl ?_ hw
  obtain ⟨h1, h2, h3, h4, h5, h6⟩ := Raw.x_fields 0 56 g.code (0) (m.val) (a.code) (0) 520 (0) (c := (0)) (ty := 0) (rm := 0) (fl := 0) (by decide) (by decide) (by decide) (by decide)
  unfold decX64L
  rw [h1]
  simp only [Option.bind_some, decFin_val, Pred.dec_code, Reg.dec_code, h2, h3, h4, h5, h6, Raw.x_ws, Raw.x_d, Raw.x_a, Raw.x_b, Raw.x_w3]
  all_goals rfl

theorem Encoding.joinX64 (g : Pred) (m : Fin 12) : Encoding.Statement (.joinX64 g m) := by
  intro r hr hw
  obtain rfl := Option.some.inj hr
  refine Raw.toInstr_x64L rfl rfl rfl ?_ hw
  obtain ⟨h1, h2, h3, h4, h5, h6⟩ := Raw.x_fields 0 56 g.code (0) (0) (m.val) (0) 521 (0) (c := (0)) (ty := 0) (rm := 0) (fl := 0) (by decide) (by decide) (by decide) (by decide)
  unfold decX64L
  rw [h1]
  simp only [Option.bind_some, decFin_val, Pred.dec_code, h2, h3, h4, h5, h6, Raw.x_ws, Raw.x_d, Raw.x_a, Raw.x_b, Raw.x_w3]
  all_goals rfl

theorem Encoding.leaveX64 (g : Pred) (m : Fin 12) : Encoding.Statement (.leaveX64 g m) := by
  intro r hr hw
  obtain rfl := Option.some.inj hr
  refine Raw.toInstr_x64L rfl rfl rfl ?_ hw
  obtain ⟨h1, h2, h3, h4, h5, h6⟩ := Raw.x_fields 0 56 g.code (0) (m.val) (0) (0) 522 (0) (c := (0)) (ty := 0) (rm := 0) (fl := 0) (by decide) (by decide) (by decide) (by decide)
  unfold decX64L
  rw [h1]
  simp only [Option.bind_some, decFin_val, Pred.dec_code, h2, h3, h4, h5, h6, Raw.x_ws, Raw.x_d, Raw.x_a, Raw.x_b, Raw.x_w3]
  all_goals rfl

theorem Encoding.waitm (g : Pred) (m : Fin 12) : Encoding.Statement (.waitm g m) := by
  intro r hr hw
  obtain rfl := Option.some.inj hr
  refine Raw.toInstr_x64L rfl rfl rfl ?_ hw
  obtain ⟨h1, h2, h3, h4, h5, h6⟩ := Raw.x_fields 0 56 g.code (0) (0) (m.val) (0) 523 (0) (c := (0)) (ty := 0) (rm := 0) (fl := 0) (by decide) (by decide) (by decide) (by decide)
  unfold decX64L
  rw [h1]
  simp only [Option.bind_some, decFin_val, Pred.dec_code, h2, h3, h4, h5, h6, Raw.x_ws, Raw.x_d, Raw.x_a, Raw.x_b, Raw.x_w3]
  all_goals rfl

theorem Encoding.mklog (g : Pred) (d : Fin 12) (x : MkLog) : Encoding.Statement (.mklog g d x) := by
  intro r hr hw
  obtain rfl := Option.some.inj hr
  refine Raw.toInstr_x64L rfl rfl rfl ?_ hw
  have hf : x.code < 64 := (by decide +kernel : ∀ (x : Fin 7), x.val < 64) ⟨x.code, x.code_lt⟩
  obtain ⟨h1, h2, h3, h4, h5, h6⟩ := Raw.x_fields 0 56 g.code (0) (d.val) (x.aNum) (x.bNum) 524 (0) (c := (0)) (ty := 0) (rm := 0) (fl := x.code) (by decide) (by decide) (by decide) hf
  have e0 : x.code &&& 56 = 0 := (by decide +kernel : ∀ (x : Fin 7), x.val &&& 56 = 0) ⟨x.code, x.code_lt⟩
  have e1 : (x.code) % 8 = x.code := (by decide +kernel : ∀ (x : Fin 7), (x.val) % 8 = x.val) ⟨x.code, x.code_lt⟩
  unfold decX64L
  rw [h1]
  simp only [Option.bind_some, decFin_val, MkLog.dec_code, Pred.dec_code, h2, h3, h4, h5, h6, Raw.x_ws, Raw.x_d, Raw.x_a, Raw.x_b, Raw.x_w3, e0, e1]
  all_goals rfl

theorem Encoding.raddX64 (g : Pred) (d : Dst) (a : Reg) (b : Reg) (rm : RM) : Encoding.Statement (.raddX64 g d a b rm) := by
  intro r hr hw
  obtain rfl := Option.some.inj hr
  refine Raw.toInstr_x64L rfl rfl rfl ?_ hw
  obtain ⟨h1, h2, h3, h4, h5, h6⟩ := Raw.x_fields 0 56 g.code (d.wsBit) (d.code) (a.code) (b.code) 768 (0) (c := (0)) (ty := 8) (rm := rm.code) (fl := 0) (by decide) (by decide) rm.code_lt (by decide)
  unfold decX64L
  rw [h1]
  simp only [Option.bind_some, Dst.dec_code, Pred.dec_code, RM.dec_code, Reg.dec_code, h2, h3, h4, h5, h6, Raw.x_ws, Raw.x_d, Raw.x_a, Raw.x_b, Raw.x_w3]
  all_goals rfl

theorem Encoding.rmulX64 (g : Pred) (d : Dst) (a : Reg) (b : Reg) (ty : Ty) (rm : RM) : Encoding.Statement (.rmulX64 g d a b ty rm) := by
  intro r hr hw
  obtain rfl := Option.some.inj hr
  refine Raw.toInstr_x64L rfl rfl rfl ?_ hw
  obtain ⟨h1, h2, h3, h4, h5, h6⟩ := Raw.x_fields 0 56 g.code (d.wsBit) (d.code) (a.code) (b.code) 769 (0) (c := (0)) (ty := ty.code) (rm := rm.code) (fl := 0) (by decide) ty.code_lt rm.code_lt (by decide)
  unfold decX64L
  rw [h1]
  simp only [Option.bind_some, Dst.dec_code, Pred.dec_code, RM.dec_code, Reg.dec_code, Ty.dec_code, h2, h3, h4, h5, h6, Raw.x_ws, Raw.x_d, Raw.x_a, Raw.x_b, Raw.x_w3]
  all_goals rfl

theorem Encoding.rcvt (g : Pred) (d : Dst) (a : Reg) (b : Reg) (dt : Ty) (st : Ty) (rm : RM) : Encoding.Statement (.rcvt g d a b dt st rm) := by
  intro r hr hw
  obtain rfl := Option.some.inj hr
  refine Raw.toInstr_x64L rfl rfl rfl ?_ hw
  obtain ⟨h1, h2, h3, h4, h5, h6⟩ := Raw.x_cvt 0 56 g.code (d.wsBit) (d.code) (a.code) (b.code) 770 (0) (c := (0)) (by decide) dt.code_lt st.code_lt rm.code_lt
  unfold decX64L
  rw [h1]
  simp only [Option.bind_some, Dst.dec_code, Pred.dec_code, RM.dec_code, Reg.dec_code, Ty.dec_code, h2, h3, h4, h5, h6, Raw.x_ws, Raw.x_d, Raw.x_a, Raw.x_b, Raw.x_w3]
  all_goals rfl

theorem Encoding.rreluX64 (g : Pred) (d : Dst) (a : Reg) : Encoding.Statement (.rreluX64 g d a) := by
  intro r hr hw
  obtain rfl := Option.some.inj hr
  refine Raw.toInstr_x64L rfl rfl rfl ?_ hw
  obtain ⟨h1, h2, h3, h4, h5, h6⟩ := Raw.x_fields 0 56 g.code (d.wsBit) (d.code) (a.code) (0) 771 (0) (c := (0)) (ty := 8) (rm := 0) (fl := 0) (by decide) (by decide) (by decide) (by decide)
  unfold decX64L
  rw [h1]
  simp only [Option.bind_some, Dst.dec_code, Pred.dec_code, Reg.dec_code, h2, h3, h4, h5, h6, Raw.x_ws, Raw.x_d, Raw.x_a, Raw.x_b, Raw.x_w3]
  all_goals rfl

theorem Encoding.rshr (g : Pred) (d : Dst) (a : Reg) (b : Reg) (ty : Ty) : Encoding.Statement (.rshr g d a b ty) := by
  intro r hr hw
  obtain rfl := Option.some.inj hr
  refine Raw.toInstr_x64L rfl rfl rfl ?_ hw
  obtain ⟨h1, h2, h3, h4, h5, h6⟩ := Raw.x_fields 0 56 g.code (d.wsBit) (d.code) (a.code) (b.code) 772 (0) (c := (0)) (ty := ty.code) (rm := 0) (fl := 0) (by decide) ty.code_lt (by decide) (by decide)
  unfold decX64L
  rw [h1]
  simp only [Option.bind_some, Dst.dec_code, Pred.dec_code, Reg.dec_code, Ty.dec_code, h2, h3, h4, h5, h6, Raw.x_ws, Raw.x_d, Raw.x_a, Raw.x_b, Raw.x_w3]
  all_goals rfl

theorem Encoding.unaddX64 (g : Pred) (d : Dst) (a : Reg) (b : Reg) : Encoding.Statement (.unaddX64 g d a b) := by
  intro r hr hw
  obtain rfl := Option.some.inj hr
  refine Raw.toInstr_x64L rfl rfl rfl ?_ hw
  obtain ⟨h1, h2, h3, h4, h5, h6⟩ := Raw.x_fields 0 56 g.code (d.wsBit) (d.code) (a.code) (b.code) 773 (0) (c := (0)) (ty := 8) (rm := 0) (fl := 0) (by decide) (by decide) (by decide) (by decide)
  unfold decX64L
  rw [h1]
  simp only [Option.bind_some, Dst.dec_code, Pred.dec_code, Reg.dec_code, h2, h3, h4, h5, h6, Raw.x_ws, Raw.x_d, Raw.x_a, Raw.x_b, Raw.x_w3]
  all_goals rfl

theorem Encoding.unmulX64 (g : Pred) (d : Dst) (a : Reg) (b : Reg) (ty : Ty) : Encoding.Statement (.unmulX64 g d a b ty) := by
  intro r hr hw
  obtain rfl := Option.some.inj hr
  refine Raw.toInstr_x64L rfl rfl rfl ?_ hw
  obtain ⟨h1, h2, h3, h4, h5, h6⟩ := Raw.x_fields 0 56 g.code (d.wsBit) (d.code) (a.code) (b.code) 774 (0) (c := (0)) (ty := ty.code) (rm := 0) (fl := 0) (by decide) ty.code_lt (by decide) (by decide)
  unfold decX64L
  rw [h1]
  simp only [Option.bind_some, Dst.dec_code, Pred.dec_code, Reg.dec_code, Ty.dec_code, h2, h3, h4, h5, h6, Raw.x_ws, Raw.x_d, Raw.x_a, Raw.x_b, Raw.x_w3]
  all_goals rfl

theorem Encoding.uncvt (g : Pred) (d : Dst) (a : Reg) (b : Reg) (dt : Ty) (st : Ty) : Encoding.Statement (.uncvt g d a b dt st) := by
  intro r hr hw
  obtain rfl := Option.some.inj hr
  refine Raw.toInstr_x64L rfl rfl rfl ?_ hw
  obtain ⟨h1, h2, h3, h4, h5, h6⟩ := Raw.x_cvt0 0 56 g.code (d.wsBit) (d.code) (a.code) (b.code) 775 (0) (c := (0)) (by decide) dt.code_lt st.code_lt
  unfold decX64L
  rw [h1]
  simp only [Option.bind_some, Dst.dec_code, Pred.dec_code, Reg.dec_code, Ty.dec_code, h2, h3, h4, h5, h6, Raw.x_ws, Raw.x_d, Raw.x_a, Raw.x_b, Raw.x_w3]
  all_goals rfl

theorem Encoding.unreluX64 (g : Pred) (d : Dst) (a : Reg) : Encoding.Statement (.unreluX64 g d a) := by
  intro r hr hw
  obtain rfl := Option.some.inj hr
  refine Raw.toInstr_x64L rfl rfl rfl ?_ hw
  obtain ⟨h1, h2, h3, h4, h5, h6⟩ := Raw.x_fields 0 56 g.code (d.wsBit) (d.code) (a.code) (0) 776 (0) (c := (0)) (ty := 8) (rm := 0) (fl := 0) (by decide) (by decide) (by decide) (by decide)
  unfold decX64L
  rw [h1]
  simp only [Option.bind_some, Dst.dec_code, Pred.dec_code, Reg.dec_code, h2, h3, h4, h5, h6, Raw.x_ws, Raw.x_d, Raw.x_a, Raw.x_b, Raw.x_w3]
  all_goals rfl

theorem Encoding.unshr (g : Pred) (d : Dst) (a : Reg) (b : Reg) (ty : Ty) : Encoding.Statement (.unshr g d a b ty) := by
  intro r hr hw
  obtain rfl := Option.some.inj hr
  refine Raw.toInstr_x64L rfl rfl rfl ?_ hw
  obtain ⟨h1, h2, h3, h4, h5, h6⟩ := Raw.x_fields 0 56 g.code (d.wsBit) (d.code) (a.code) (b.code) 777 (0) (c := (0)) (ty := ty.code) (rm := 0) (fl := 0) (by decide) ty.code_lt (by decide) (by decide)
  unfold decX64L
  rw [h1]
  simp only [Option.bind_some, Dst.dec_code, Pred.dec_code, Reg.dec_code, Ty.dec_code, h2, h3, h4, h5, h6, Raw.x_ws, Raw.x_d, Raw.x_a, Raw.x_b, Raw.x_w3]
  all_goals rfl

theorem Encoding.chpush (g : Pred) (a : Reg) : Encoding.Statement (.chpush g a) := by
  intro r hr hw
  obtain rfl := Option.some.inj hr
  refine Raw.toInstr_x64L rfl rfl rfl ?_ hw
  obtain ⟨h1, h2, h3, h4, h5, h6⟩ := Raw.x_fields 0 56 g.code (0) (0) (a.code) (0) 778 (0) (c := (0)) (ty := 0) (rm := 0) (fl := 0) (by decide) (by decide) (by decide) (by decide)
  unfold decX64L
  rw [h1]
  simp only [Option.bind_some, Pred.dec_code, Reg.dec_code, h2, h3, h4, h5, h6, Raw.x_ws, Raw.x_d, Raw.x_a, Raw.x_b, Raw.x_w3]
  all_goals rfl

theorem Encoding.chpop (g : Pred) (d : Dst) : Encoding.Statement (.chpop g d) := by
  intro r hr hw
  obtain rfl := Option.some.inj hr
  refine Raw.toInstr_x64L rfl rfl rfl ?_ hw
  obtain ⟨h1, h2, h3, h4, h5, h6⟩ := Raw.x_fields 0 56 g.code (d.wsBit) (d.code) (0) (0) 779 (0) (c := (0)) (ty := 0) (rm := 0) (fl := 0) (by decide) (by decide) (by decide) (by decide)
  unfold decX64L
  rw [h1]
  simp only [Option.bind_some, Dst.dec_code, Pred.dec_code, h2, h3, h4, h5, h6, Raw.x_ws, Raw.x_d, Raw.x_a, Raw.x_b, Raw.x_w3]
  all_goals rfl

theorem Encoding.chdrop (g : Pred) (a : Reg) : Encoding.Statement (.chdrop g a) := by
  intro r hr hw
  obtain rfl := Option.some.inj hr
  refine Raw.toInstr_x64L rfl rfl rfl ?_ hw
  obtain ⟨h1, h2, h3, h4, h5, h6⟩ := Raw.x_fields 0 56 g.code (0) (0) (a.code) (0) 780 (0) (c := (0)) (ty := 0) (rm := 0) (fl := 0) (by decide) (by decide) (by decide) (by decide)
  unfold decX64L
  rw [h1]
  simp only [Option.bind_some, Pred.dec_code, Reg.dec_code, h2, h3, h4, h5, h6, Raw.x_ws, Raw.x_d, Raw.x_a, Raw.x_b, Raw.x_w3]
  all_goals rfl

theorem Encoding.chdepth (g : Pred) (d : Dst) : Encoding.Statement (.chdepth g d) := by
  intro r hr hw
  obtain rfl := Option.some.inj hr
  refine Raw.toInstr_x64L rfl rfl rfl ?_ hw
  obtain ⟨h1, h2, h3, h4, h5, h6⟩ := Raw.x_fields 0 56 g.code (d.wsBit) (d.code) (0) (0) 781 (0) (c := (0)) (ty := 0) (rm := 0) (fl := 0) (by decide) (by decide) (by decide) (by decide)
  unfold decX64L
  rw [h1]
  simp only [Option.bind_some, Dst.dec_code, Pred.dec_code, h2, h3, h4, h5, h6, Raw.x_ws, Raw.x_d, Raw.x_a, Raw.x_b, Raw.x_w3]
  all_goals rfl

theorem Encoding.fbinit (g : Pred) (a : Reg) (b : Reg) : Encoding.Statement (.fbinit g a b) := by
  intro r hr hw
  obtain rfl := Option.some.inj hr
  refine Raw.toInstr_x64L rfl rfl rfl ?_ hw
  obtain ⟨h1, h2, h3, h4, h5, h6⟩ := Raw.x_fields 0 56 g.code (0) (0) (a.code) (b.code) 1024 (0) (c := (0)) (ty := 0) (rm := 0) (fl := 0) (by decide) (by decide) (by decide) (by decide)
  unfold decX64L
  rw [h1]
  simp only [Option.bind_some, Pred.dec_code, Reg.dec_code, h2, h3, h4, h5, h6, Raw.x_ws, Raw.x_d, Raw.x_a, Raw.x_b, Raw.x_w3]
  all_goals rfl

theorem Encoding.fbarr (g : Pred) (d : Reg) (a : Reg) (b : Reg) : Encoding.Statement (.fbarr g d a b) := by
  intro r hr hw
  obtain rfl := Option.some.inj hr
  refine Raw.toInstr_x64L rfl rfl rfl ?_ hw
  have hd : Reg.isLaneDst d = true := by
    simp only [Instr.wf, Bool.and_eq_true] at hw
    simp only [hw]
  obtain ⟨h1, h2, h3, h4, h5, h6⟩ := Raw.x_fields 0 56 g.code (0) (d.code) (a.code) (b.code) 1025 (0) (c := (0)) (ty := 0) (rm := 0) (fl := 0) (by decide) (by decide) (by decide) (by decide)
  unfold decX64L
  rw [h1]
  simp only [Option.bind_some, Pred.dec_code, Reg.dec_code, LReg.dec_code _ hd, h2, h3, h4, h5, h6, Raw.x_ws, Raw.x_d, Raw.x_a, Raw.x_b, Raw.x_w3]
  all_goals rfl

theorem Encoding.fbwait (g : Pred) (a : Reg) (b : Reg) : Encoding.Statement (.fbwait g a b) := by
  intro r hr hw
  obtain rfl := Option.some.inj hr
  refine Raw.toInstr_x64L rfl rfl rfl ?_ hw
  obtain ⟨h1, h2, h3, h4, h5, h6⟩ := Raw.x_fields 0 56 g.code (0) (0) (a.code) (b.code) 1026 (0) (c := (0)) (ty := 0) (rm := 0) (fl := 0) (by decide) (by decide) (by decide) (by decide)
  unfold decX64L
  rw [h1]
  simp only [Option.bind_some, Pred.dec_code, Reg.dec_code, h2, h3, h4, h5, h6, Raw.x_ws, Raw.x_d, Raw.x_a, Raw.x_b, Raw.x_w3]
  all_goals rfl

theorem Encoding.fbtest (g : Pred) (d : Fin 7) (a : Reg) (b : Reg) : Encoding.Statement (.fbtest g d a b) := by
  intro r hr hw
  obtain rfl := Option.some.inj hr
  refine Raw.toInstr_x64L rfl rfl rfl ?_ hw
  obtain ⟨h1, h2, h3, h4, h5, h6⟩ := Raw.x_fields 0 56 g.code (0) (d.val) (a.code) (b.code) 1027 (0) (c := (0)) (ty := 0) (rm := 0) (fl := 0) (by decide) (by decide) (by decide) (by decide)
  unfold decX64L
  rw [h1]
  simp only [Option.bind_some, decFin_val, Pred.dec_code, Reg.dec_code, h2, h3, h4, h5, h6, Raw.x_ws, Raw.x_d, Raw.x_a, Raw.x_b, Raw.x_w3]
  all_goals rfl

theorem Encoding.mma (g : Pred) (a : Fin 96) (b : Reg) (ty : Ty) (east : Bool) (keep : Bool) (af : Bool) : Encoding.Statement (.mma g a b ty east keep af) := by
  intro r hr hw
  obtain rfl := Option.some.inj hr
  refine Raw.toInstr_x64L rfl rfl rfl ?_ hw
  have hf : b2n east 0 + b2n keep 1 + b2n af 2 < 64 := (by decide +kernel : ∀ (east : Bool) (keep : Bool) (af : Bool), b2n east 0 + b2n keep 1 + b2n af 2 < 64) east keep af
  obtain ⟨h1, h2, h3, h4, h5, h6⟩ := Raw.x_fields 0 56 g.code (0) (0) (a.val) (b.code) 1280 (0) (c := (0)) (ty := ty.code) (rm := 0) (fl := b2n east 0 + b2n keep 1 + b2n af 2) (by decide) ty.code_lt (by decide) hf
  have e0 : b2n east 0 + b2n keep 1 + b2n af 2 &&& 56 = 0 := (by decide +kernel : ∀ (east : Bool) (keep : Bool) (af : Bool), b2n east 0 + b2n keep 1 + b2n af 2 &&& 56 = 0) east keep af
  have e1 : (b2n east 0 + b2n keep 1 + b2n af 2).testBit 0 = east := (by decide +kernel : ∀ (east : Bool) (keep : Bool) (af : Bool), (b2n east 0 + b2n keep 1 + b2n af 2).testBit 0 = east) east keep af
  have e2 : (b2n east 0 + b2n keep 1 + b2n af 2).testBit 1 = keep := (by decide +kernel : ∀ (east : Bool) (keep : Bool) (af : Bool), (b2n east 0 + b2n keep 1 + b2n af 2).testBit 1 = keep) east keep af
  have e3 : (b2n east 0 + b2n keep 1 + b2n af 2).testBit 2 = af := (by decide +kernel : ∀ (east : Bool) (keep : Bool) (af : Bool), (b2n east 0 + b2n keep 1 + b2n af 2).testBit 2 = af) east keep af
  unfold decX64L
  rw [h1]
  simp only [Option.bind_some, decFin_val, Pred.dec_code, Reg.dec_code, Ty.dec_code, h2, h3, h4, h5, h6, Raw.x_ws, Raw.x_d, Raw.x_a, Raw.x_b, Raw.x_w3, e0, e1, e2, e3]
  all_goals (cases east <;> cases keep <;> cases af <;> rfl)

theorem Encoding.dmma (g : Pred) (a : Fin 96) (b : SReg) (c : SReg) (ty : Ty) (keep : Bool) : Encoding.Statement (.dmma g a b c ty keep) := by
  intro r hr hw
  obtain rfl := Option.some.inj hr
  refine Raw.toInstr_x64L rfl rfl rfl ?_ hw
  have hf : b2n keep 1 < 64 := (by decide +kernel : ∀ (keep : Bool), b2n keep 1 < 64) keep
  obtain ⟨h1, h2, h3, h4, h5, h6⟩ := Raw.x_fields 0 56 g.code (0) (0) (a.val) (b.code) 1281 (0) (c := (c.code)) (ty := ty.code) (rm := 0) (fl := b2n keep 1) c.code_lt ty.code_lt (by decide) hf
  have e0 : b2n keep 1 &&& 61 = 0 := (by decide +kernel : ∀ (keep : Bool), b2n keep 1 &&& 61 = 0) keep
  have e1 : (b2n keep 1).testBit 1 = keep := (by decide +kernel : ∀ (keep : Bool), (b2n keep 1).testBit 1 = keep) keep
  unfold decX64L
  rw [h1]
  simp only [Option.bind_some, decFin_val, Pred.dec_code, SReg.dec_code, Ty.dec_code, h2, h3, h4, h5, h6, Raw.x_ws, Raw.x_d, Raw.x_a, Raw.x_b, Raw.x_w3, e0, e1]
  all_goals (cases keep <;> rfl)

theorem Encoding.ldg (g : Pred) (d : Reg) (a : Reg) (size : Size) (scope : Scope) (acq : Bool) (off : BitVec 15) : Encoding.Statement (.ldg g d a size scope acq off) := by
  intro r hr hw
  obtain rfl := Option.some.inj hr
  refine Raw.toInstr_m64L rfl rfl rfl ?_ hw
  have hd : Reg.isLaneDst d = true := by
    simp only [Instr.wf, Bool.and_eq_true] at hw
    simp only [hw]
  obtain ⟨h1, h2, h3, h4, h5, h6⟩ := Raw.m64_fields 0 g.code (d.code) (a.code) (0) (mop := (0)) (space := (0)) (size := (size.code)) (scope := (scope.code)) (order := ((if acq then 1 else 0))) (off := (off.toNat)) (by decide) (by decide) size.code_lt scope.code_lt (by cases acq <;> decide) off.isLt
  unfold decM64L
  rw [if_neg (by omega), h1, h2]
  simp only [Option.bind_some, BitVec_toNat_ofNat, Pred.dec_code, Reg.dec_code, Scope.dec_code, Size.dec_code, LReg.dec_code _ hd, h2, h3, h4, h5, h6, h1, Raw.m64_ws, Raw.m64_d, Raw.m64_a, Raw.m64_b]
  all_goals (cases acq <;> rfl)

theorem Encoding.ldgSigned (g : Pred) (d : Reg) (a : Reg) (size : Size) (scope : Scope) (acq : Bool) (off : BitVec 15) : Encoding.Statement (.ldgSigned g d a size scope acq off) := by
  intro r hr hw
  obtain rfl := Option.some.inj hr
  refine Raw.toInstr_m64L rfl rfl rfl ?_ hw
  have hd : Reg.isLaneDst d = true := by
    simp only [Instr.wf, Bool.and_eq_true] at hw
    simp only [hw]
  obtain ⟨h1, h2, h3, h4, h5, h6⟩ := Raw.m64_fields 0 g.code (d.code) (a.code) (0) (mop := (1)) (space := (0)) (size := (size.code)) (scope := (scope.code)) (order := ((if acq then 1 else 0))) (off := (off.toNat)) (by decide) (by decide) size.code_lt scope.code_lt (by cases acq <;> decide) off.isLt
  unfold decM64L
  rw [if_neg (by omega), h1, h2]
  simp only [Option.bind_some, BitVec_toNat_ofNat, Pred.dec_code, Reg.dec_code, Scope.dec_code, Size.dec_code, LReg.dec_code _ hd, h2, h3, h4, h5, h6, h1, Raw.m64_ws, Raw.m64_d, Raw.m64_a, Raw.m64_b]
  all_goals (cases acq <;> rfl)

theorem Encoding.ldgU (g : Pred) (sx : Bool) (d a : SReg) (size : Size) (scope : Scope) (acq : Bool) (off : BitVec 15) : Encoding.Statement (.ldgU g sx d a size scope acq off) := by
  intro r hr hw
  obtain rfl := Option.some.inj hr
  refine Raw.toInstr_m64U rfl rfl rfl rfl ?_ hw
  have hb : b2n sx 0 ≤ 1 := by cases sx <;> decide
  have hb2 : decBool (b2n sx 0) = some sx := by cases sx <;> rfl
  have hr2 : (if acq then 1 else 0) < 4 := by cases acq <;> decide
  have hr3 : decFlagAt 1 (if acq then 1 else 0) = some acq := by cases acq <;> rfl
  obtain ⟨h1, h2, h3, h4, h5, h6⟩ := Raw.m64_fields 1 g.code d.code a.code 0 (mop := b2n sx 0) (space := 0) (size := size.code)
    (scope := scope.code) (order := if acq then 1 else 0) (off := off.toNat) (by omega) (by decide) size.code_lt scope.code_lt hr2 off.isLt
  unfold decM64U
  rw [if_pos (by omega)]
  simp only [h1, h2, h3, h4, h5, h6, Raw.m64_ws, Raw.m64_d, Raw.m64_a, Raw.m64_b, hb2, hr3, SReg.dec_code, Size.dec_code, Scope.dec_code, BitVec_toNat_ofNat, Option.bind_some]
  rfl

theorem Encoding.stg (g : Pred) (a : Reg) (b : Reg) (size : Size) (scope : Scope) (rel : Bool) (off : BitVec 15) : Encoding.Statement (.stg g a b size scope rel off) := by
  intro r hr hw
  obtain rfl := Option.some.inj hr
  refine Raw.toInstr_m64L rfl rfl rfl ?_ hw
  obtain ⟨h1, h2, h3, h4, h5, h6⟩ := Raw.m64_fields 0 g.code (0) (a.code) (b.code) (mop := (2)) (space := (0)) (size := (size.code)) (scope := (scope.code)) (order := ((if rel then 2 else 0))) (off := (off.toNat)) (by decide) (by decide) size.code_lt scope.code_lt (by cases rel <;> decide) off.isLt
  unfold decM64L
  rw [if_neg (by omega), h1, h2]
  simp only [Option.bind_some, BitVec_toNat_ofNat, Pred.dec_code, Reg.dec_code, Scope.dec_code, Size.dec_code, h2, h3, h4, h5, h6, h1, Raw.m64_ws, Raw.m64_d, Raw.m64_a, Raw.m64_b]
  all_goals (cases rel <;> rfl)

theorem Encoding.stgU (g : Pred) (a : SReg) (b : SReg) (size : Size) (scope : Scope) (rel : Bool) (off : BitVec 15) : Encoding.Statement (.stgU g a b size scope rel off) := by
  intro r hr hw
  obtain rfl := Option.some.inj hr
  refine Raw.toInstr_m64U rfl rfl rfl rfl ?_ hw
  obtain ⟨h1, h2, h3, h4, h5, h6⟩ := Raw.m64_fields 1 g.code (0) (a.code) (b.code) (mop := (2)) (space := (0)) (size := (size.code)) (scope := (scope.code)) (order := ((if rel then 2 else 0))) (off := (off.toNat)) (by decide) (by decide) size.code_lt scope.code_lt (by cases rel <;> decide) off.isLt
  unfold decM64U
  rw [if_neg (by omega), h1, h2]
  simp only [Option.bind_some, BitVec_toNat_ofNat, Pred.dec_code, SReg.dec_code, Scope.dec_code, Size.dec_code, h2, h3, h4, h5, h6, h1, Raw.m64_ws, Raw.m64_d, Raw.m64_a, Raw.m64_b]
  all_goals (cases rel <;> rfl)

theorem Encoding.lda (g : Pred) (d : Reg) (a : Reg) (size : Size) (off : BitVec 15) : Encoding.Statement (.lda g d a size off) := by
  intro r hr hw
  obtain rfl := Option.some.inj hr
  refine Raw.toInstr_m64L rfl rfl rfl ?_ hw
  have hd : Reg.isLaneDst d = true := by
    simp only [Instr.wf, Bool.and_eq_true] at hw
    simp only [hw]
  obtain ⟨h1, h2, h3, h4, h5, h6⟩ := Raw.m64_fields 0 g.code (d.code) (a.code) (0) (mop := (0)) (space := (1)) (size := (size.code)) (scope := (0)) (order := (0)) (off := (off.toNat)) (by decide) (by decide) size.code_lt (by decide) (by decide) off.isLt
  unfold decM64L
  rw [if_neg (by omega), h1, h2]
  simp only [Option.bind_some, BitVec_toNat_ofNat, Pred.dec_code, Reg.dec_code, Size.dec_code, LReg.dec_code _ hd, h2, h3, h4, h5, h6, h1, Raw.m64_ws, Raw.m64_d, Raw.m64_a, Raw.m64_b]
  all_goals rfl

theorem Encoding.ldaSigned (g : Pred) (d : Reg) (a : Reg) (size : Size) (off : BitVec 15) : Encoding.Statement (.ldaSigned g d a size off) := by
  intro r hr hw
  obtain rfl := Option.some.inj hr
  refine Raw.toInstr_m64L rfl rfl rfl ?_ hw
  have hd : Reg.isLaneDst d = true := by
    simp only [Instr.wf, Bool.and_eq_true] at hw
    simp only [hw]
  obtain ⟨h1, h2, h3, h4, h5, h6⟩ := Raw.m64_fields 0 g.code (d.code) (a.code) (0) (mop := (1)) (space := (1)) (size := (size.code)) (scope := (0)) (order := (0)) (off := (off.toNat)) (by decide) (by decide) size.code_lt (by decide) (by decide) off.isLt
  unfold decM64L
  rw [if_neg (by omega), h1, h2]
  simp only [Option.bind_some, BitVec_toNat_ofNat, Pred.dec_code, Reg.dec_code, Size.dec_code, LReg.dec_code _ hd, h2, h3, h4, h5, h6, h1, Raw.m64_ws, Raw.m64_d, Raw.m64_a, Raw.m64_b]
  all_goals rfl

theorem Encoding.sta (g : Pred) (a : Reg) (b : Reg) (size : Size) (off : BitVec 15) : Encoding.Statement (.sta g a b size off) := by
  intro r hr hw
  obtain rfl := Option.some.inj hr
  refine Raw.toInstr_m64L rfl rfl rfl ?_ hw
  obtain ⟨h1, h2, h3, h4, h5, h6⟩ := Raw.m64_fields 0 g.code (0) (a.code) (b.code) (mop := (2)) (space := (1)) (size := (size.code)) (scope := (0)) (order := (0)) (off := (off.toNat)) (by decide) (by decide) size.code_lt (by decide) (by decide) off.isLt
  unfold decM64L
  rw [if_neg (by omega), h1, h2]
  simp only [Option.bind_some, BitVec_toNat_ofNat, Pred.dec_code, Reg.dec_code, Size.dec_code, h2, h3, h4, h5, h6, h1, Raw.m64_ws, Raw.m64_d, Raw.m64_a, Raw.m64_b]
  all_goals rfl

theorem Encoding.ldw (g : Pred) (d : Reg) (a : Reg) (size : Size) (off : BitVec 15) : Encoding.Statement (.ldw g d a size off) := by
  intro r hr hw
  obtain rfl := Option.some.inj hr
  refine Raw.toInstr_m64L rfl rfl rfl ?_ hw
  have hd : Reg.isLaneDst d = true := by
    simp only [Instr.wf, Bool.and_eq_true] at hw
    simp only [hw]
  obtain ⟨h1, h2, h3, h4, h5, h6⟩ := Raw.m64_fields 0 g.code (d.code) (a.code) (0) (mop := (0)) (space := (2)) (size := (size.code)) (scope := (0)) (order := (0)) (off := (off.toNat)) (by decide) (by decide) size.code_lt (by decide) (by decide) off.isLt
  unfold decM64L
  rw [if_neg (by omega), h1, h2]
  simp only [Option.bind_some, BitVec_toNat_ofNat, Pred.dec_code, Reg.dec_code, Size.dec_code, LReg.dec_code _ hd, h2, h3, h4, h5, h6, h1, Raw.m64_ws, Raw.m64_d, Raw.m64_a, Raw.m64_b]
  all_goals rfl

theorem Encoding.ldwSigned (g : Pred) (d : Reg) (a : Reg) (size : Size) (off : BitVec 15) : Encoding.Statement (.ldwSigned g d a size off) := by
  intro r hr hw
  obtain rfl := Option.some.inj hr
  refine Raw.toInstr_m64L rfl rfl rfl ?_ hw
  have hd : Reg.isLaneDst d = true := by
    simp only [Instr.wf, Bool.and_eq_true] at hw
    simp only [hw]
  obtain ⟨h1, h2, h3, h4, h5, h6⟩ := Raw.m64_fields 0 g.code (d.code) (a.code) (0) (mop := (1)) (space := (2)) (size := (size.code)) (scope := (0)) (order := (0)) (off := (off.toNat)) (by decide) (by decide) size.code_lt (by decide) (by decide) off.isLt
  unfold decM64L
  rw [if_neg (by omega), h1, h2]
  simp only [Option.bind_some, BitVec_toNat_ofNat, Pred.dec_code, Reg.dec_code, Size.dec_code, LReg.dec_code _ hd, h2, h3, h4, h5, h6, h1, Raw.m64_ws, Raw.m64_d, Raw.m64_a, Raw.m64_b]
  all_goals rfl

theorem Encoding.stw (g : Pred) (a : Reg) (b : Reg) (size : Size) (off : BitVec 15) : Encoding.Statement (.stw g a b size off) := by
  intro r hr hw
  obtain rfl := Option.some.inj hr
  refine Raw.toInstr_m64L rfl rfl rfl ?_ hw
  obtain ⟨h1, h2, h3, h4, h5, h6⟩ := Raw.m64_fields 0 g.code (0) (a.code) (b.code) (mop := (2)) (space := (2)) (size := (size.code)) (scope := (0)) (order := (0)) (off := (off.toNat)) (by decide) (by decide) size.code_lt (by decide) (by decide) off.isLt
  unfold decM64L
  rw [if_neg (by omega), h1, h2]
  simp only [Option.bind_some, BitVec_toNat_ofNat, Pred.dec_code, Reg.dec_code, Size.dec_code, h2, h3, h4, h5, h6, h1, Raw.m64_ws, Raw.m64_d, Raw.m64_a, Raw.m64_b]
  all_goals rfl

theorem Encoding.ldc (g : Pred) (d : Reg) (a : Reg) (size : Size) (off : BitVec 15) : Encoding.Statement (.ldc g d a size off) := by
  intro r hr hw
  obtain rfl := Option.some.inj hr
  refine Raw.toInstr_m64L rfl rfl rfl ?_ hw
  have hd : Reg.isLaneDst d = true := by
    simp only [Instr.wf, Bool.and_eq_true] at hw
    simp only [hw]
  obtain ⟨h1, h2, h3, h4, h5, h6⟩ := Raw.m64_fields 0 g.code (d.code) (a.code) (0) (mop := (0)) (space := (3)) (size := (size.code)) (scope := (0)) (order := (0)) (off := (off.toNat)) (by decide) (by decide) size.code_lt (by decide) (by decide) off.isLt
  unfold decM64L
  rw [if_neg (by omega), h1, h2]
  simp only [Option.bind_some, BitVec_toNat_ofNat, Pred.dec_code, Reg.dec_code, Size.dec_code, LReg.dec_code _ hd, h2, h3, h4, h5, h6, h1, Raw.m64_ws, Raw.m64_d, Raw.m64_a, Raw.m64_b]
  all_goals rfl

theorem Encoding.ldcSigned (g : Pred) (d : Reg) (a : Reg) (size : Size) (off : BitVec 15) : Encoding.Statement (.ldcSigned g d a size off) := by
  intro r hr hw
  obtain rfl := Option.some.inj hr
  refine Raw.toInstr_m64L rfl rfl rfl ?_ hw
  have hd : Reg.isLaneDst d = true := by
    simp only [Instr.wf, Bool.and_eq_true] at hw
    simp only [hw]
  obtain ⟨h1, h2, h3, h4, h5, h6⟩ := Raw.m64_fields 0 g.code (d.code) (a.code) (0) (mop := (1)) (space := (3)) (size := (size.code)) (scope := (0)) (order := (0)) (off := (off.toNat)) (by decide) (by decide) size.code_lt (by decide) (by decide) off.isLt
  unfold decM64L
  rw [if_neg (by omega), h1, h2]
  simp only [Option.bind_some, BitVec_toNat_ofNat, Pred.dec_code, Reg.dec_code, Size.dec_code, LReg.dec_code _ hd, h2, h3, h4, h5, h6, h1, Raw.m64_ws, Raw.m64_d, Raw.m64_a, Raw.m64_b]
  all_goals rfl

theorem Encoding.stc (g : Pred) (a : Reg) (b : Reg) (size : Size) (off : BitVec 15) : Encoding.Statement (.stc g a b size off) := by
  intro r hr hw
  obtain rfl := Option.some.inj hr
  refine Raw.toInstr_m64L rfl rfl rfl ?_ hw
  obtain ⟨h1, h2, h3, h4, h5, h6⟩ := Raw.m64_fields 0 g.code (0) (a.code) (b.code) (mop := (2)) (space := (3)) (size := (size.code)) (scope := (0)) (order := (0)) (off := (off.toNat)) (by decide) (by decide) size.code_lt (by decide) (by decide) off.isLt
  unfold decM64L
  rw [if_neg (by omega), h1, h2]
  simp only [Option.bind_some, BitVec_toNat_ofNat, Pred.dec_code, Reg.dec_code, Size.dec_code, h2, h3, h4, h5, h6, h1, Raw.m64_ws, Raw.m64_d, Raw.m64_a, Raw.m64_b]
  all_goals rfl

theorem Encoding.aatom (g : Pred) (op : AtomOp) (d a b : Reg) (size : Size) (scope : Scope) (order : Order) (off : BitVec 15) : Encoding.Statement (.aatom g op d a b size scope order off) := by
  intro r hr hw
  obtain rfl := Option.some.inj hr
  refine Raw.toInstr_m64L rfl rfl rfl ?_ hw
  have hd : Reg.isLaneDst d = true := by
    simp only [Instr.wf, Bool.and_eq_true] at hw
    simp only [hw]
  have ho := op.code_lt
  have e0 : 8 + op.code - 8 = op.code := Nat.add_sub_cancel_left _ _
  obtain ⟨h1, h2, h3, h4, h5, h6⟩ := Raw.m64_fields 0 g.code d.code a.code b.code (mop := 8 + op.code) (space := 1) (size := size.code)
    (scope := scope.code) (order := order.code) (off := off.toNat) (by omega) (by decide) size.code_lt scope.code_lt order.code_lt off.isLt
  unfold decM64L; rw [if_pos (by omega)]; unfold decM64A
  rw [if_pos (by omega)]
  simp only [h1, h2, h3, h4, h5, h6, Raw.m64_ws, Raw.m64_d, Raw.m64_a, Raw.m64_b, LReg.dec_code _ hd, e0, AtomOp.dec_code, Order.dec_code, BitVec_toNat_ofNat, Reg.dec_code, Size.dec_code, Scope.dec_code, Option.bind_some]
  rfl

theorem Encoding.invr (g : Pred) (a : Reg) (b : Reg) (scope : Scope) (off : BitVec 15) : Encoding.Statement (.invr g a b scope off) := by
  intro r hr hw
  obtain rfl := Option.some.inj hr
  refine Raw.toInstr_m64L rfl rfl rfl ?_ hw
  obtain ⟨h1, h2, h3, h4, h5, h6⟩ := Raw.m64_fields 0 g.code (0) (a.code) (b.code) (mop := (3)) (space := (0)) (size := (0)) (scope := (scope.code)) (order := (0)) (off := (off.toNat)) (by decide) (by decide) (by decide) scope.code_lt (by decide) off.isLt
  unfold decM64L
  rw [if_neg (by omega), h1, h2]
  simp only [Option.bind_some, BitVec_toNat_ofNat, Pred.dec_code, Reg.dec_code, Scope.dec_code, h2, h3, h4, h5, h6, h1, Raw.m64_ws, Raw.m64_d, Raw.m64_a, Raw.m64_b]
  all_goals rfl

theorem Encoding.inva (g : Pred) (scope : Scope) : Encoding.Statement (.inva g scope) := by
  intro r hr hw
  obtain rfl := Option.some.inj hr
  refine Raw.toInstr_m64L rfl rfl rfl ?_ hw
  obtain ⟨h1, h2, h3, h4, h5, h6⟩ := Raw.m64_fields 0 g.code (0) (0) (0) (mop := (4)) (space := (0)) (size := (0)) (scope := (scope.code)) (order := (0)) (off := (0)) (by decide) (by decide) (by decide) scope.code_lt (by decide) (by decide)
  unfold decM64L
  rw [if_neg (by omega), h1, h2]
  simp only [Option.bind_some, Pred.dec_code, Scope.dec_code, h2, h3, h4, h5, h6, h1, Raw.m64_ws, Raw.m64_d, Raw.m64_a, Raw.m64_b]
  all_goals rfl

theorem Encoding.phbeg (g : Pred) (a : Reg) (b : Reg) (off : BitVec 15) : Encoding.Statement (.phbeg g a b off) := by
  intro r hr hw
  obtain rfl := Option.some.inj hr
  refine Raw.toInstr_m64L rfl rfl rfl ?_ hw
  obtain ⟨h1, h2, h3, h4, h5, h6⟩ := Raw.m64_fields 0 g.code (0) (a.code) (b.code) (mop := (5)) (space := (0)) (size := (0)) (scope := (0)) (order := (0)) (off := (off.toNat)) (by decide) (by decide) (by decide) (by decide) (by decide) off.isLt
  unfold decM64L
  rw [if_neg (by omega), h1, h2]
  simp only [Option.bind_some, BitVec_toNat_ofNat, Pred.dec_code, Reg.dec_code, h2, h3, h4, h5, h6, h1, Raw.m64_ws, Raw.m64_d, Raw.m64_a, Raw.m64_b]
  all_goals rfl

theorem Encoding.phend (g : Pred) (a : Reg) (b : Reg) (off : BitVec 15) : Encoding.Statement (.phend g a b off) := by
  intro r hr hw
  obtain rfl := Option.some.inj hr
  refine Raw.toInstr_m64L rfl rfl rfl ?_ hw
  obtain ⟨h1, h2, h3, h4, h5, h6⟩ := Raw.m64_fields 0 g.code (0) (a.code) (b.code) (mop := (6)) (space := (0)) (size := (0)) (scope := (0)) (order := (0)) (off := (off.toNat)) (by decide) (by decide) (by decide) (by decide) (by decide) off.isLt
  unfold decM64L
  rw [if_neg (by omega), h1, h2]
  simp only [Option.bind_some, BitVec_toNat_ofNat, Pred.dec_code, Reg.dec_code, h2, h3, h4, h5, h6, h1, Raw.m64_ws, Raw.m64_d, Raw.m64_a, Raw.m64_b]
  all_goals rfl

theorem Encoding.pfl1 (g : Pred) (a : Reg) (b : Reg) (off : BitVec 15) : Encoding.Statement (.pfl1 g a b off) := by
  intro r hr hw
  obtain rfl := Option.some.inj hr
  refine Raw.toInstr_m64L rfl rfl rfl ?_ hw
  obtain ⟨h1, h2, h3, h4, h5, h6⟩ := Raw.m64_fields 0 g.code (0) (a.code) (b.code) (mop := (7)) (space := (0)) (size := (0)) (scope := (0)) (order := (0)) (off := (off.toNat)) (by decide) (by decide) (by decide) (by decide) (by decide) off.isLt
  unfold decM64L
  rw [if_neg (by omega), h1, h2]
  simp only [Option.bind_some, BitVec_toNat_ofNat, Pred.dec_code, Reg.dec_code, h2, h3, h4, h5, h6, h1, Raw.m64_ws, Raw.m64_d, Raw.m64_a, Raw.m64_b]
  all_goals rfl

theorem Encoding.atom (g : Pred) (op : AtomOp) (d a b : Reg) (size : Size) (scope : Scope) (order : Order) (off : GOff) : Encoding.Statement (.atom g op d a b size scope order off) := by
  intro r hr hw
  obtain rfl := Option.some.inj hr
  refine Raw.toInstr_m64L rfl rfl rfl ?_ hw
  have hd : Reg.isLaneDst d = true := by
    simp only [Instr.wf, Bool.and_eq_true] at hw
    simp only [hw]
  have hs : off.space = 0 ∨ off.space = 4 := by cases off <;> simp [GOff.space]
  have ho := op.code_lt
  have e0 : 8 + op.code - 8 = op.code := Nat.add_sub_cancel_left _ _
  obtain ⟨h1, h2, h3, h4, h5, h6⟩ := Raw.m64_fields 0 g.code d.code a.code b.code (mop := 8 + op.code) (space := off.space) (size := size.code)
    (scope := scope.code) (order := order.code) (off := off.code) (by omega) off.space_lt size.code_lt scope.code_lt order.code_lt off.code_lt
  unfold decM64L; rw [if_pos (by omega)]; unfold decM64A
  rw [if_neg (by omega), if_pos (by omega)]
  simp only [h1, h2, h3, h4, h5, h6, Raw.m64_ws, Raw.m64_d, Raw.m64_a, Raw.m64_b, LReg.dec_code _ hd, e0, AtomOp.dec_code, Order.dec_code, GOff.dec_code, Reg.dec_code, Size.dec_code, Scope.dec_code, Option.bind_some]
  rfl

theorem Encoding.cas (g : Pred) (d a b : Reg) (size : Size) (scope : Scope) (order : Order) (off : GOff) : Encoding.Statement (.cas g d a b size scope order off) := by
  intro r hr hw
  obtain rfl := Option.some.inj hr
  refine Raw.toInstr_m64L rfl rfl rfl ?_ hw
  have hd : Reg.isLaneDst d = true := by
    simp only [Instr.wf, Bool.and_eq_true] at hw
    simp only [hw]
  have hs : off.space = 0 ∨ off.space = 4 := by cases off <;> simp [GOff.space]
  obtain ⟨h1, h2, h3, h4, h5, h6⟩ := Raw.m64_fields 0 g.code d.code a.code b.code (mop := 21) (space := off.space) (size := size.code)
    (scope := scope.code) (order := order.code) (off := off.code) (by decide) off.space_lt size.code_lt scope.code_lt order.code_lt off.code_lt
  unfold decM64L; rw [if_pos (by omega)]; unfold decM64A
  rw [if_neg (by omega), if_neg (by omega), if_pos (by omega)]
  simp only [h1, h2, h3, h4, h5, h6, Raw.m64_ws, Raw.m64_d, Raw.m64_a, Raw.m64_b, LReg.dec_code _ hd, Order.dec_code, GOff.dec_code, Reg.dec_code, Size.dec_code, Scope.dec_code, Option.bind_some]
  rfl

theorem Encoding.red (g : Pred) (op : AtomOp) (a b : Reg) (size : Size) (scope : Scope) (rel : Bool) (off : GOff) : Encoding.Statement (.red g op a b size scope rel off) := by
  intro r hr hw
  obtain rfl := Option.some.inj hr
  refine Raw.toInstr_m64L rfl rfl rfl ?_ hw
  have hs : off.space = 0 ∨ off.space = 4 := by cases off <;> simp [GOff.space]
  have ho := op.code_lt
  have hr2 : (if rel then 2 else 0) < 4 := by cases rel <;> decide
  have hr3 : decFlagAt 2 (if rel then 2 else 0) = some rel := by cases rel <;> rfl
  have he : op.code ≠ 9 := by
    simp only [Instr.wf, Bool.and_eq_true] at hw
    cases op <;> simp_all [AtomOp.code]
  have e0 : 24 + op.code - 24 = op.code := Nat.add_sub_cancel_left _ _
  obtain ⟨h1, h2, h3, h4, h5, h6⟩ := Raw.m64_fields 0 g.code 0 a.code b.code (mop := 24 + op.code) (space := off.space) (size := size.code)
    (scope := scope.code) (order := if rel then 2 else 0) (off := off.code) (by omega) off.space_lt size.code_lt scope.code_lt hr2 off.code_lt
  unfold decM64L; rw [if_pos (by omega)]; unfold decM64A
  rw [if_neg (by omega), if_neg (by omega), if_neg (by omega), if_pos (by omega)]
  simp only [h1, h2, h3, h4, h5, h6, Raw.m64_ws, Raw.m64_d, Raw.m64_a, Raw.m64_b, e0, AtomOp.dec_code, hr3, GOff.dec_code, Reg.dec_code, Size.dec_code, Scope.dec_code, Option.bind_some]
  rfl

theorem Encoding.waita (g : Pred) (d a b : Reg) (size : Size) (scope : Scope) (acq : Bool) (off : GOff) : Encoding.Statement (.waita g d a b size scope acq off) := by
  intro r hr hw
  obtain rfl := Option.some.inj hr
  refine Raw.toInstr_m64L rfl rfl rfl ?_ hw
  have hd : Reg.isLaneDst d = true := by
    simp only [Instr.wf, Bool.and_eq_true] at hw
    simp only [hw]
  have hs : off.space = 0 ∨ off.space = 4 := by cases off <;> simp [GOff.space]
  have hr2 : (if acq then 1 else 0) < 4 := by cases acq <;> decide
  have hr3 : decFlagAt 1 (if acq then 1 else 0) = some acq := by cases acq <;> rfl
  obtain ⟨h1, h2, h3, h4, h5, h6⟩ := Raw.m64_fields 0 g.code d.code a.code b.code (mop := 22) (space := off.space) (size := size.code)
    (scope := scope.code) (order := if acq then 1 else 0) (off := off.code) (by decide) off.space_lt size.code_lt scope.code_lt hr2 off.code_lt
  unfold decM64L; rw [if_pos (by omega)]; unfold decM64A
  rw [if_neg (by omega), if_neg (by omega), if_neg (by omega), if_neg (by omega), if_pos (by omega)]
  simp only [h1, h2, h3, h4, h5, h6, Raw.m64_ws, Raw.m64_d, Raw.m64_a, Raw.m64_b, LReg.dec_code _ hd, hr3, GOff.dec_code, Reg.dec_code, Size.dec_code, Scope.dec_code, Option.bind_some]
  rfl

theorem Encoding.wake (g : Pred) (d a b : Reg) (off : GOff) : Encoding.Statement (.wake g d a b off) := by
  intro r hr hw
  obtain rfl := Option.some.inj hr
  refine Raw.toInstr_m64L rfl rfl rfl ?_ hw
  have hd : Reg.isLaneDst d = true := by
    simp only [Instr.wf, Bool.and_eq_true] at hw
    simp only [hw]
  have hs : off.space = 0 ∨ off.space = 4 := by cases off <;> simp [GOff.space]
  obtain ⟨h1, h2, h3, h4, h5, h6⟩ := Raw.m64_fields 0 g.code d.code a.code b.code (mop := 23) (space := off.space) (size := 2)
    (scope := 0) (order := 0) (off := off.code) (by decide) off.space_lt (by decide) (by decide) (by decide) off.code_lt
  unfold decM64L; rw [if_pos (by omega)]; unfold decM64A
  rw [if_neg (by omega), if_neg (by omega), if_neg (by omega), if_neg (by omega), if_neg (by omega), if_pos (by omega)]
  simp only [h1, h2, h3, h4, h5, h6, Raw.m64_ws, Raw.m64_d, Raw.m64_a, Raw.m64_b, LReg.dec_code _ hd, GOff.dec_code, Reg.dec_code, Option.bind_some]
  rfl

theorem Encoding.fence (g : Pred) (order : Order) (scope : Scope) : Encoding.Statement (.fence g order scope) := by
  intro r hr hw
  obtain rfl := Option.some.inj hr
  refine Raw.toInstr_m64L rfl rfl rfl ?_ hw
  obtain ⟨h1, h2, h3, h4, h5, h6⟩ := Raw.m64_fields 0 g.code (0) (0) (0) (mop := (37)) (space := (0)) (size := (0)) (scope := (scope.code)) (order := (order.code)) (off := (0)) (by decide) (by decide) (by decide) scope.code_lt order.code_lt (by decide)
  unfold decM64L
  rw [if_neg (by omega), h1, h2]
  simp only [Option.bind_some, Order.dec_code, Pred.dec_code, Scope.dec_code, h2, h3, h4, h5, h6, h1, Raw.m64_ws, Raw.m64_d, Raw.m64_a, Raw.m64_b]
  all_goals rfl

theorem Encoding.fld (g : Pred) (d a : Reg) (hnd : Fin 24) (trap : Bool) : Encoding.Statement (.fld g d a hnd trap) := by
  intro r hr hw
  obtain rfl := Option.some.inj hr
  refine Raw.toInstr_m64L rfl rfl rfl ?_ hw
  have hd : Reg.isLaneDst d = true := by
    simp only [Instr.wf, Bool.and_eq_true] at hw
    simp only [hw]
  have ho := (by decide +kernel : ∀ (h : Fin 24) (t : Bool), (96 + h.val) * 256 + b2n t 0 < 32768) hnd trap
  have e0 := (by decide +kernel : ∀ (h : Fin 24) (t : Bool), decHandle ((96 + h.val) * 256 + b2n t 0) = some h) hnd trap
  have e1 := (by decide +kernel : ∀ (h : Fin 24) (t : Bool), ((96 + h.val) * 256 + b2n t 0).testBit 0 = t) hnd trap
  obtain ⟨h1, h2, h3, h4, h5, h6⟩ := Raw.m64_fields 0 g.code d.code a.code 0 (mop := 0) (space := 4) (size := 2)
    (scope := 0) (order := 0) (off := (96 + hnd.val) * 256 + b2n trap 0) (by decide) (by decide) (by decide) (by decide) (by decide) ho
  unfold decM64L
  rw [if_neg (by omega), h1, h2]
  simp only [h3, h4, h5, h6, Raw.m64_ws, Raw.m64_d, Raw.m64_a, Raw.m64_b, LReg.dec_code _ hd, e0, e1, Reg.dec_code, Option.bind_some]
  rfl

theorem Encoding.fst (g : Pred) (a b : Reg) (hnd : Fin 24) : Encoding.Statement (.fst g a b hnd) := by
  intro r hr hw
  obtain rfl := Option.some.inj hr
  refine Raw.toInstr_m64L rfl rfl rfl ?_ hw
  have ho := (by decide +kernel : ∀ h : Fin 24, (96 + h.val) * 256 < 32768) hnd
  have e0 := (by decide +kernel : ∀ h : Fin 24, decHandle ((96 + h.val) * 256) = some h) hnd
  have e1 := (by decide +kernel : ∀ h : Fin 24, (96 + h.val) * 256 % 2 = 0) hnd
  obtain ⟨h1, h2, h3, h4, h5, h6⟩ := Raw.m64_fields 0 g.code 0 a.code b.code (mop := 2) (space := 4) (size := 2)
    (scope := 0) (order := 0) (off := (96 + hnd.val) * 256) (by decide) (by decide) (by decide) (by decide) (by decide) ho
  unfold decM64L
  rw [if_neg (by omega), h1, h2]
  simp only [h3, h4, h5, h6, Raw.m64_ws, Raw.m64_d, Raw.m64_a, Raw.m64_b, e0, e1, Reg.dec_code, Option.bind_some]
  rfl

theorem Encoding.saddB32 (g : Pred) (d : SReg) (a : SReg) (b : SReg) : Encoding.Statement (.saddB32 g d a b) := by
  intro r hr hw
  obtain rfl := Option.some.inj hr
  refine Raw.toInstr_b32U rfl (show 1 < 0x38 by decide) rfl ?_ hw
  unfold decB32U
  simp only [Option.bind_some, Pred.dec_code, SReg.dec_code, Raw.b32]
  all_goals rfl

theorem Encoding.ssubB32 (g : Pred) (d : SReg) (a : SReg) (b : SReg) : Encoding.Statement (.ssubB32 g d a b) := by
  intro r hr hw
  obtain rfl := Option.some.inj hr
  refine Raw.toInstr_b32U rfl (show 2 < 0x38 by decide) rfl ?_ hw
  unfold decB32U
  simp only [Option.bind_some, Pred.dec_code, SReg.dec_code, Raw.b32]
  all_goals rfl

theorem Encoding.smulB32 (g : Pred) (d : SReg) (a : SReg) (b : SReg) : Encoding.Statement (.smulB32 g d a b) := by
  intro r hr hw
  obtain rfl := Option.some.inj hr
  refine Raw.toInstr_b32U rfl (show 3 < 0x38 by decide) rfl ?_ hw
  unfold decB32U
  simp only [Option.bind_some, Pred.dec_code, SReg.dec_code, Raw.b32]
  all_goals rfl

theorem Encoding.sadd64B32 (g : Pred) (d : SReg) (a : SReg) (b : SReg) : Encoding.Statement (.sadd64B32 g d a b) := by
  intro r hr hw
  obtain rfl := Option.some.inj hr
  refine Raw.toInstr_b32U rfl (show 4 < 0x38 by decide) rfl ?_ hw
  unfold decB32U
  simp only [Option.bind_some, Pred.dec_code, SReg.dec_code, Raw.b32]
  all_goals rfl

theorem Encoding.sshlB32 (g : Pred) (d : SReg) (a : SReg) (b : SReg) : Encoding.Statement (.sshlB32 g d a b) := by
  intro r hr hw
  obtain rfl := Option.some.inj hr
  refine Raw.toInstr_b32U rfl (show 5 < 0x38 by decide) rfl ?_ hw
  unfold decB32U
  simp only [Option.bind_some, Pred.dec_code, SReg.dec_code, Raw.b32]
  all_goals rfl

theorem Encoding.sshrZ32B32 (g : Pred) (d : SReg) (a : SReg) (b : SReg) : Encoding.Statement (.sshrZ32B32 g d a b) := by
  intro r hr hw
  obtain rfl := Option.some.inj hr
  refine Raw.toInstr_b32U rfl (show 6 < 0x38 by decide) rfl ?_ hw
  unfold decB32U
  simp only [Option.bind_some, Pred.dec_code, SReg.dec_code, Raw.b32]
  all_goals rfl

theorem Encoding.sshrS32B32 (g : Pred) (d : SReg) (a : SReg) (b : SReg) : Encoding.Statement (.sshrS32B32 g d a b) := by
  intro r hr hw
  obtain rfl := Option.some.inj hr
  refine Raw.toInstr_b32U rfl (show 7 < 0x38 by decide) rfl ?_ hw
  unfold decB32U
  simp only [Option.bind_some, Pred.dec_code, SReg.dec_code, Raw.b32]
  all_goals rfl

theorem Encoding.sandB32 (g : Pred) (d : SReg) (a : SReg) (b : SReg) : Encoding.Statement (.sandB32 g d a b) := by
  intro r hr hw
  obtain rfl := Option.some.inj hr
  refine Raw.toInstr_b32U rfl (show 8 < 0x38 by decide) rfl ?_ hw
  unfold decB32U
  simp only [Option.bind_some, Pred.dec_code, SReg.dec_code, Raw.b32]
  all_goals rfl

theorem Encoding.sorB32 (g : Pred) (d : SReg) (a : SReg) (b : SReg) : Encoding.Statement (.sorB32 g d a b) := by
  intro r hr hw
  obtain rfl := Option.some.inj hr
  refine Raw.toInstr_b32U rfl (show 9 < 0x38 by decide) rfl ?_ hw
  unfold decB32U
  simp only [Option.bind_some, Pred.dec_code, SReg.dec_code, Raw.b32]
  all_goals rfl

theorem Encoding.sxorB32 (g : Pred) (d : SReg) (a : SReg) (b : SReg) : Encoding.Statement (.sxorB32 g d a b) := by
  intro r hr hw
  obtain rfl := Option.some.inj hr
  refine Raw.toInstr_b32U rfl (show 10 < 0x38 by decide) rfl ?_ hw
  unfold decB32U
  simp only [Option.bind_some, Pred.dec_code, SReg.dec_code, Raw.b32]
  all_goals rfl

theorem Encoding.sminS32B32 (g : Pred) (d : SReg) (a : SReg) (b : SReg) : Encoding.Statement (.sminS32B32 g d a b) := by
  intro r hr hw
  obtain rfl := Option.some.inj hr
  refine Raw.toInstr_b32U rfl (show 11 < 0x38 by decide) rfl ?_ hw
  unfold decB32U
  simp only [Option.bind_some, Pred.dec_code, SReg.dec_code, Raw.b32]
  all_goals rfl

theorem Encoding.smaxS32B32 (g : Pred) (d : SReg) (a : SReg) (b : SReg) : Encoding.Statement (.smaxS32B32 g d a b) := by
  intro r hr hw
  obtain rfl := Option.some.inj hr
  refine Raw.toInstr_b32U rfl (show 12 < 0x38 by decide) rfl ?_ hw
  unfold decB32U
  simp only [Option.bind_some, Pred.dec_code, SReg.dec_code, Raw.b32]
  all_goals rfl

theorem Encoding.sminZ32B32 (g : Pred) (d : SReg) (a : SReg) (b : SReg) : Encoding.Statement (.sminZ32B32 g d a b) := by
  intro r hr hw
  obtain rfl := Option.some.inj hr
  refine Raw.toInstr_b32U rfl (show 13 < 0x38 by decide) rfl ?_ hw
  unfold decB32U
  simp only [Option.bind_some, Pred.dec_code, SReg.dec_code, Raw.b32]
  all_goals rfl

theorem Encoding.smaxZ32B32 (g : Pred) (d : SReg) (a : SReg) (b : SReg) : Encoding.Statement (.smaxZ32B32 g d a b) := by
  intro r hr hw
  obtain rfl := Option.some.inj hr
  refine Raw.toInstr_b32U rfl (show 14 < 0x38 by decide) rfl ?_ hw
  unfold decB32U
  simp only [Option.bind_some, Pred.dec_code, SReg.dec_code, Raw.b32]
  all_goals rfl

theorem Encoding.smovB32 (g : Pred) (d : SReg) (a : SReg) : Encoding.Statement (.smovB32 g d a) := by
  intro r hr hw
  obtain rfl := Option.some.inj hr
  refine Raw.toInstr_b32U rfl (show 15 < 0x38 by decide) rfl ?_ hw
  unfold decB32U
  simp only [Option.bind_some, Pred.dec_code, SReg.dec_code, Raw.b32]
  all_goals rfl

theorem Encoding.spopcB32 (g : Pred) (d : SReg) (a : SReg) : Encoding.Statement (.spopcB32 g d a) := by
  intro r hr hw
  obtain rfl := Option.some.inj hr
  refine Raw.toInstr_b32U rfl (show 16 < 0x38 by decide) rfl ?_ hw
  unfold decB32U
  simp only [Option.bind_some, Pred.dec_code, SReg.dec_code, Raw.b32]
  all_goals rfl

theorem Encoding.lanerdB32 (g : Pred) (d : SReg) (a : Reg) (b : SReg) : Encoding.Statement (.lanerdB32 g d a b) := by
  intro r hr hw
  obtain rfl := Option.some.inj hr
  refine Raw.toInstr_b32U rfl (show 17 < 0x38 by decide) rfl ?_ hw
  unfold decB32U
  simp only [Option.bind_some, Pred.dec_code, Reg.dec_code, SReg.dec_code, Raw.b32]
  all_goals rfl

theorem Encoding.lanewrB32 (g : Pred) (d : Reg) (a : SReg) (b : SReg) : Encoding.Statement (.lanewrB32 g d a b) := by
  intro r hr hw
  obtain rfl := Option.some.inj hr
  refine Raw.toInstr_b32U rfl (show 18 < 0x38 by decide) rfl ?_ hw
  have hd : Reg.isLaneDst d = true := by
    simp only [Instr.wf, Bool.and_eq_true] at hw
    simp only [hw]
  unfold decB32U
  simp only [Option.bind_some, Pred.dec_code, Reg.dec_code, SReg.dec_code, LReg.dec_code _ hd, Raw.b32]
  all_goals rfl

theorem Encoding.pwaitAnyB32 (g : Pred) (d : SReg) (a : SReg) : Encoding.Statement (.pwaitAnyB32 g d a) := by
  intro r hr hw
  obtain rfl := Option.some.inj hr
  refine Raw.toInstr_b32U rfl (show 32 < 0x38 by decide) rfl ?_ hw
  unfold decB32U
  simp only [Option.bind_some, Pred.dec_code, SReg.dec_code, Raw.b32]
  all_goals rfl

theorem Encoding.pwaitAllB32 (g : Pred) (d : SReg) (a : SReg) : Encoding.Statement (.pwaitAllB32 g d a) := by
  intro r hr hw
  obtain rfl := Option.some.inj hr
  refine Raw.toInstr_b32U rfl (show 33 < 0x38 by decide) rfl ?_ hw
  unfold decB32U
  simp only [Option.bind_some, Pred.dec_code, SReg.dec_code, Raw.b32]
  all_goals rfl

theorem Encoding.pfindB32 (g : Pred) (d : SReg) (a : SReg) : Encoding.Statement (.pfindB32 g d a) := by
  intro r hr hw
  obtain rfl := Option.some.inj hr
  refine Raw.toInstr_b32U rfl (show 34 < 0x38 by decide) rfl ?_ hw
  unfold decB32U
  simp only [Option.bind_some, Pred.dec_code, SReg.dec_code, Raw.b32]
  all_goals rfl

theorem Encoding.pclrB32 (g : Pred) (a : SReg) : Encoding.Statement (.pclrB32 g a) := by
  intro r hr hw
  obtain rfl := Option.some.inj hr
  refine Raw.toInstr_b32U rfl (show 35 < 0x38 by decide) rfl ?_ hw
  unfold decB32U
  simp only [Option.bind_some, Pred.dec_code, SReg.dec_code, Raw.b32]
  all_goals rfl

theorem Encoding.mxacqB32 (g : Pred) : Encoding.Statement (.mxacqB32 g) := by
  intro r hr hw
  obtain rfl := Option.some.inj hr
  refine Raw.toInstr_b32U rfl (show 36 < 0x38 by decide) rfl ?_ hw
  unfold decB32U
  simp only [Option.bind_some, Pred.dec_code, Raw.b32]
  all_goals rfl

theorem Encoding.mxtryB32 (g : Pred) (d : Fin 7) : Encoding.Statement (.mxtryB32 g d) := by
  intro r hr hw
  obtain rfl := Option.some.inj hr
  refine Raw.toInstr_b32U rfl (show 37 < 0x38 by decide) rfl ?_ hw
  unfold decB32U
  simp only [Option.bind_some, decFin_val, Pred.dec_code, Raw.b32]
  all_goals rfl

theorem Encoding.mxrelB32 (g : Pred) : Encoding.Statement (.mxrelB32 g) := by
  intro r hr hw
  obtain rfl := Option.some.inj hr
  refine Raw.toInstr_b32U rfl (show 38 < 0x38 by decide) rfl ?_ hw
  unfold decB32U
  simp only [Option.bind_some, Pred.dec_code, Raw.b32]
  all_goals rfl

theorem Encoding.mxwaitB32 (g : Pred) : Encoding.Statement (.mxwaitB32 g) := by
  intro r hr hw
  obtain rfl := Option.some.inj hr
  refine Raw.toInstr_b32U rfl (show 39 < 0x38 by decide) rfl ?_ hw
  unfold decB32U
  simp only [Option.bind_some, Pred.dec_code, Raw.b32]
  all_goals rfl

theorem Encoding.zaccSB32 (g : Pred) : Encoding.Statement (.zaccSB32 g) := by
  intro r hr hw
  obtain rfl := Option.some.inj hr
  refine Raw.toInstr_b32U rfl (show 40 < 0x38 by decide) rfl ?_ hw
  unfold decB32U
  simp only [Option.bind_some, Pred.dec_code, Raw.b32]
  all_goals rfl

theorem Encoding.zaccEB32 (g : Pred) : Encoding.Statement (.zaccEB32 g) := by
  intro r hr hw
  obtain rfl := Option.some.inj hr
  refine Raw.toInstr_b32U rfl (show 41 < 0x38 by decide) rfl ?_ hw
  unfold decB32U
  simp only [Option.bind_some, Pred.dec_code, Raw.b32]
  all_goals rfl

theorem Encoding.srdB32 (g : Pred) (d : SReg) (a : Spr) : Encoding.Statement (.srdB32 g d a) := by
  intro r hr hw
  obtain rfl := Option.some.inj hr
  refine Raw.toInstr_b32U rfl (show 48 < 0x38 by decide) rfl ?_ hw
  unfold decB32U
  simp only [Option.bind_some, Pred.dec_code, SReg.dec_code, Spr.dec_code, Raw.b32]
  all_goals rfl

theorem Encoding.swrB32 (g : Pred) (d : Spr) (a : SReg) : Encoding.Statement (.swrB32 g d a) := by
  intro r hr hw
  obtain rfl := Option.some.inj hr
  refine Raw.toInstr_b32U rfl (show 49 < 0x38 by decide) rfl ?_ hw
  unfold decB32U
  simp only [Option.bind_some, Pred.dec_code, SReg.dec_code, Spr.dec_code, Raw.b32]
  all_goals rfl

theorem Encoding.trapB32 (g : Pred) (a : SReg) : Encoding.Statement (.trapB32 g a) := by
  intro r hr hw
  obtain rfl := Option.some.inj hr
  refine Raw.toInstr_b32U rfl (show 50 < 0x38 by decide) rfl ?_ hw
  unfold decB32U
  simp only [Option.bind_some, Pred.dec_code, SReg.dec_code, Raw.b32]
  all_goals rfl

theorem Encoding.brkB32 (g : Pred) (a : SReg) : Encoding.Statement (.brkB32 g a) := by
  intro r hr hw
  obtain rfl := Option.some.inj hr
  refine Raw.toInstr_b32U rfl (show 51 < 0x38 by decide) rfl ?_ hw
  unfold decB32U
  simp only [Option.bind_some, Pred.dec_code, SReg.dec_code, Raw.b32]
  all_goals rfl

theorem Encoding.barB32 (g : Pred) : Encoding.Statement (.barB32 g) := by
  intro r hr hw
  obtain rfl := Option.some.inj hr
  refine Raw.toInstr_b32U rfl (show 52 < 0x38 by decide) rfl ?_ hw
  unfold decB32U
  simp only [Option.bind_some, Pred.dec_code, Raw.b32]
  all_goals rfl

theorem Encoding.tkwaitB32 (g : Pred) : Encoding.Statement (.tkwaitB32 g) := by
  intro r hr hw
  obtain rfl := Option.some.inj hr
  refine Raw.toInstr_b32U rfl (show 53 < 0x38 by decide) rfl ?_ hw
  unfold decB32U
  simp only [Option.bind_some, Pred.dec_code, Raw.b32]
  all_goals rfl

theorem Encoding.tkpassB32 (g : Pred) : Encoding.Statement (.tkpassB32 g) := by
  intro r hr hw
  obtain rfl := Option.some.inj hr
  refine Raw.toInstr_b32U rfl (show 54 < 0x38 by decide) rfl ?_ hw
  unfold decB32U
  simp only [Option.bind_some, Pred.dec_code, Raw.b32]
  all_goals rfl

theorem Encoding.ccwaitB32 (g : Pred) (d : SReg) (a : SReg) : Encoding.Statement (.ccwaitB32 g d a) := by
  intro r hr hw
  obtain rfl := Option.some.inj hr
  refine Raw.toInstr_b32U rfl (show 55 < 0x38 by decide) rfl ?_ hw
  unfold decB32U
  simp only [Option.bind_some, Pred.dec_code, SReg.dec_code, Raw.b32]
  all_goals rfl

theorem Encoding.saddX64 (g : Pred) (d : SReg) (a : SReg) (b : SReg) (ty : Ty) (sat : Bool) : Encoding.Statement (.saddX64 g d a b ty sat) := by
  intro r hr hw
  obtain rfl := Option.some.inj hr
  refine Raw.toInstr_x64U rfl rfl rfl ?_ hw
  have hf : b2n sat 0 < 64 := (by decide +kernel : ∀ (sat : Bool), b2n sat 0 < 64) sat
  obtain ⟨h1, h2, h3, h4, h5, h6⟩ := Raw.x_fields 1 56 g.code (0) (d.code) (a.code) (b.code) 0 (0) (c := (0)) (ty := ty.code) (rm := 0) (fl := b2n sat 0) (by decide) ty.code_lt (by decide) hf
  have e0 : b2n sat 0 &&& 62 = 0 := (by decide +kernel : ∀ (sat : Bool), b2n sat 0 &&& 62 = 0) sat
  have e1 : (b2n sat 0).testBit 0 = sat := (by decide +kernel : ∀ (sat : Bool), (b2n sat 0).testBit 0 = sat) sat
  unfold decX64U
  rw [h1]
  simp only [Option.bind_some, Pred.dec_code, SReg.dec_code, Ty.dec_code, h2, h3, h4, h5, h6, Raw.x_ws, Raw.x_d, Raw.x_a, Raw.x_b, Raw.x_w3, e0, e1]
  all_goals (cases sat <;> rfl)

theorem Encoding.ssubX64 (g : Pred) (d : SReg) (a : SReg) (b : SReg) (ty : Ty) (sat : Bool) : Encoding.Statement (.ssubX64 g d a b ty sat) := by
  intro r hr hw
  obtain rfl := Option.some.inj hr
  refine Raw.toInstr_x64U rfl rfl rfl ?_ hw
  have hf : b2n sat 0 < 64 := (by decide +kernel : ∀ (sat : Bool), b2n sat 0 < 64) sat
  obtain ⟨h1, h2, h3, h4, h5, h6⟩ := Raw.x_fields 1 56 g.code (0) (d.code) (a.code) (b.code) 1 (0) (c := (0)) (ty := ty.code) (rm := 0) (fl := b2n sat 0) (by decide) ty.code_lt (by decide) hf
  have e0 : b2n sat 0 &&& 62 = 0 := (by decide +kernel : ∀ (sat : Bool), b2n sat 0 &&& 62 = 0) sat
  have e1 : (b2n sat 0).testBit 0 = sat := (by decide +kernel : ∀ (sat : Bool), (b2n sat 0).testBit 0 = sat) sat
  unfold decX64U
  rw [h1]
  simp only [Option.bind_some, Pred.dec_code, SReg.dec_code, Ty.dec_code, h2, h3, h4, h5, h6, Raw.x_ws, Raw.x_d, Raw.x_a, Raw.x_b, Raw.x_w3, e0, e1]
  all_goals (cases sat <;> rfl)

theorem Encoding.smulX64 (g : Pred) (d : SReg) (a : SReg) (b : SReg) (ty : Ty) : Encoding.Statement (.smulX64 g d a b ty) := by
  intro r hr hw
  obtain rfl := Option.some.inj hr
  refine Raw.toInstr_x64U rfl rfl rfl ?_ hw
  obtain ⟨h1, h2, h3, h4, h5, h6⟩ := Raw.x_fields 1 56 g.code (0) (d.code) (a.code) (b.code) 2 (0) (c := (0)) (ty := ty.code) (rm := 0) (fl := 0) (by decide) ty.code_lt (by decide) (by decide)
  unfold decX64U
  rw [h1]
  simp only [Option.bind_some, Pred.dec_code, SReg.dec_code, Ty.dec_code, h2, h3, h4, h5, h6, Raw.x_ws, Raw.x_d, Raw.x_a, Raw.x_b, Raw.x_w3]
  all_goals rfl

theorem Encoding.smad (g : Pred) (d : SReg) (a : SReg) (b : SReg) (c : SReg) (ty : Ty) : Encoding.Statement (.smad g d a b c ty) := by
  intro r hr hw
  obtain rfl := Option.some.inj hr
  refine Raw.toInstr_x64U rfl rfl rfl ?_ hw
  obtain ⟨h1, h2, h3, h4, h5, h6⟩ := Raw.x_fields 1 56 g.code (0) (d.code) (a.code) (b.code) 3 (0) (c := (c.code)) (ty := ty.code) (rm := 0) (fl := 0) c.code_lt ty.code_lt (by decide) (by decide)
  unfold decX64U
  rw [h1]
  simp only [Option.bind_some, Pred.dec_code, SReg.dec_code, Ty.dec_code, h2, h3, h4, h5, h6, Raw.x_ws, Raw.x_d, Raw.x_a, Raw.x_b, Raw.x_w3]
  all_goals rfl

theorem Encoding.sadd64X64 (g : Pred) (d : SReg) (a : SReg) (b : SReg) (ty : Ty) : Encoding.Statement (.sadd64X64 g d a b ty) := by
  intro r hr hw
  obtain rfl := Option.some.inj hr
  refine Raw.toInstr_x64U rfl rfl rfl ?_ hw
  obtain ⟨h1, h2, h3, h4, h5, h6⟩ := Raw.x_fields 1 56 g.code (0) (d.code) (a.code) (b.code) 4 (0) (c := (0)) (ty := ty.code) (rm := 0) (fl := 0) (by decide) ty.code_lt (by decide) (by decide)
  unfold decX64U
  rw [h1]
  simp only [Option.bind_some, Pred.dec_code, SReg.dec_code, Ty.dec_code, h2, h3, h4, h5, h6, Raw.x_ws, Raw.x_d, Raw.x_a, Raw.x_b, Raw.x_w3]
  all_goals rfl

theorem Encoding.sleaX64 (g : Pred) (d : SReg) (a : SReg) (b : SReg) (ty : Ty) (sh : Fin 8) : Encoding.Statement (.sleaX64 g d a b ty sh) := by
  intro r hr hw
  obtain rfl := Option.some.inj hr
  refine Raw.toInstr_x64U rfl rfl rfl ?_ hw
  have hf : sh.val < 64 := (by decide +kernel : ∀ (sh : Fin 8), sh.val < 64) sh
  obtain ⟨h1, h2, h3, h4, h5, h6⟩ := Raw.x_fields 1 56 g.code (0) (d.code) (a.code) (b.code) 5 (0) (c := (0)) (ty := ty.code) (rm := 0) (fl := sh.val) (by decide) ty.code_lt (by decide) hf
  have e0 : sh.val &&& 56 = 0 := (by decide +kernel : ∀ (sh : Fin 8), sh.val &&& 56 = 0) sh
  have e1 : (sh.val) % 8 = sh.val := (by decide +kernel : ∀ (sh : Fin 8), (sh.val) % 8 = sh.val) sh
  unfold decX64U
  rw [h1]
  simp only [Option.bind_some, decFin_val, Pred.dec_code, SReg.dec_code, Ty.dec_code, h2, h3, h4, h5, h6, Raw.x_ws, Raw.x_d, Raw.x_a, Raw.x_b, Raw.x_w3, e0, e1]
  all_goals rfl

theorem Encoding.sshlX64 (g : Pred) (d : SReg) (a : SReg) (b : SReg) (ty : Ty) (wrap : Bool) : Encoding.Statement (.sshlX64 g d a b ty wrap) := by
  intro r hr hw
  obtain rfl := Option.some.inj hr
  refine Raw.toInstr_x64U rfl rfl rfl ?_ hw
  have hf : b2n wrap 0 < 64 := (by decide +kernel : ∀ (wrap : Bool), b2n wrap 0 < 64) wrap
  obtain ⟨h1, h2, h3, h4, h5, h6⟩ := Raw.x_fields 1 56 g.code (0) (d.code) (a.code) (b.code) 6 (0) (c := (0)) (ty := ty.code) (rm := 0) (fl := b2n wrap 0) (by decide) ty.code_lt (by decide) hf
  have e0 : b2n wrap 0 &&& 62 = 0 := (by decide +kernel : ∀ (wrap : Bool), b2n wrap 0 &&& 62 = 0) wrap
  have e1 : (b2n wrap 0).testBit 0 = wrap := (by decide +kernel : ∀ (wrap : Bool), (b2n wrap 0).testBit 0 = wrap) wrap
  unfold decX64U
  rw [h1]
  simp only [Option.bind_some, Pred.dec_code, SReg.dec_code, Ty.dec_code, h2, h3, h4, h5, h6, Raw.x_ws, Raw.x_d, Raw.x_a, Raw.x_b, Raw.x_w3, e0, e1]
  all_goals (cases wrap <;> rfl)

theorem Encoding.sshrX64 (g : Pred) (d : SReg) (a : SReg) (b : SReg) (ty : Ty) (wrap : Bool) : Encoding.Statement (.sshrX64 g d a b ty wrap) := by
  intro r hr hw
  obtain rfl := Option.some.inj hr
  refine Raw.toInstr_x64U rfl rfl rfl ?_ hw
  have hf : b2n wrap 0 < 64 := (by decide +kernel : ∀ (wrap : Bool), b2n wrap 0 < 64) wrap
  obtain ⟨h1, h2, h3, h4, h5, h6⟩ := Raw.x_fields 1 56 g.code (0) (d.code) (a.code) (b.code) 7 (0) (c := (0)) (ty := ty.code) (rm := 0) (fl := b2n wrap 0) (by decide) ty.code_lt (by decide) hf
  have e0 : b2n wrap 0 &&& 62 = 0 := (by decide +kernel : ∀ (wrap : Bool), b2n wrap 0 &&& 62 = 0) wrap
  have e1 : (b2n wrap 0).testBit 0 = wrap := (by decide +kernel : ∀ (wrap : Bool), (b2n wrap 0).testBit 0 = wrap) wrap
  unfold decX64U
  rw [h1]
  simp only [Option.bind_some, Pred.dec_code, SReg.dec_code, Ty.dec_code, h2, h3, h4, h5, h6, Raw.x_ws, Raw.x_d, Raw.x_a, Raw.x_b, Raw.x_w3, e0, e1]
  all_goals (cases wrap <;> rfl)

theorem Encoding.sandX64 (g : Pred) (d : SReg) (a : SReg) (b : SReg) (ty : Ty) : Encoding.Statement (.sandX64 g d a b ty) := by
  intro r hr hw
  obtain rfl := Option.some.inj hr
  refine Raw.toInstr_x64U rfl rfl rfl ?_ hw
  obtain ⟨h1, h2, h3, h4, h5, h6⟩ := Raw.x_fields 1 56 g.code (0) (d.code) (a.code) (b.code) 8 (0) (c := (0)) (ty := ty.code) (rm := 0) (fl := 0) (by decide) ty.code_lt (by decide) (by decide)
  unfold decX64U
  rw [h1]
  simp only [Option.bind_some, Pred.dec_code, SReg.dec_code, Ty.dec_code, h2, h3, h4, h5, h6, Raw.x_ws, Raw.x_d, Raw.x_a, Raw.x_b, Raw.x_w3]
  all_goals rfl

theorem Encoding.sorX64 (g : Pred) (d : SReg) (a : SReg) (b : SReg) (ty : Ty) : Encoding.Statement (.sorX64 g d a b ty) := by
  intro r hr hw
  obtain rfl := Option.some.inj hr
  refine Raw.toInstr_x64U rfl rfl rfl ?_ hw
  obtain ⟨h1, h2, h3, h4, h5, h6⟩ := Raw.x_fields 1 56 g.code (0) (d.code) (a.code) (b.code) 9 (0) (c := (0)) (ty := ty.code) (rm := 0) (fl := 0) (by decide) ty.code_lt (by decide) (by decide)
  unfold decX64U
  rw [h1]
  simp only [Option.bind_some, Pred.dec_code, SReg.dec_code, Ty.dec_code, h2, h3, h4, h5, h6, Raw.x_ws, Raw.x_d, Raw.x_a, Raw.x_b, Raw.x_w3]
  all_goals rfl

theorem Encoding.sxorX64 (g : Pred) (d : SReg) (a : SReg) (b : SReg) (ty : Ty) : Encoding.Statement (.sxorX64 g d a b ty) := by
  intro r hr hw
  obtain rfl := Option.some.inj hr
  refine Raw.toInstr_x64U rfl rfl rfl ?_ hw
  obtain ⟨h1, h2, h3, h4, h5, h6⟩ := Raw.x_fields 1 56 g.code (0) (d.code) (a.code) (b.code) 10 (0) (c := (0)) (ty := ty.code) (rm := 0) (fl := 0) (by decide) ty.code_lt (by decide) (by decide)
  unfold decX64U
  rw [h1]
  simp only [Option.bind_some, Pred.dec_code, SReg.dec_code, Ty.dec_code, h2, h3, h4, h5, h6, Raw.x_ws, Raw.x_d, Raw.x_a, Raw.x_b, Raw.x_w3]
  all_goals rfl

theorem Encoding.sminX64 (g : Pred) (d : SReg) (a : SReg) (b : SReg) (ty : Ty) : Encoding.Statement (.sminX64 g d a b ty) := by
  intro r hr hw
  obtain rfl := Option.some.inj hr
  refine Raw.toInstr_x64U rfl rfl rfl ?_ hw
  obtain ⟨h1, h2, h3, h4, h5, h6⟩ := Raw.x_fields 1 56 g.code (0) (d.code) (a.code) (b.code) 11 (0) (c := (0)) (ty := ty.code) (rm := 0) (fl := 0) (by decide) ty.code_lt (by decide) (by decide)
  unfold decX64U
  rw [h1]
  simp only [Option.bind_some, Pred.dec_code, SReg.dec_code, Ty.dec_code, h2, h3, h4, h5, h6, Raw.x_ws, Raw.x_d, Raw.x_a, Raw.x_b, Raw.x_w3]
  all_goals rfl

theorem Encoding.smaxX64 (g : Pred) (d : SReg) (a : SReg) (b : SReg) (ty : Ty) : Encoding.Statement (.smaxX64 g d a b ty) := by
  intro r hr hw
  obtain rfl := Option.some.inj hr
  refine Raw.toInstr_x64U rfl rfl rfl ?_ hw
  obtain ⟨h1, h2, h3, h4, h5, h6⟩ := Raw.x_fields 1 56 g.code (0) (d.code) (a.code) (b.code) 12 (0) (c := (0)) (ty := ty.code) (rm := 0) (fl := 0) (by decide) ty.code_lt (by decide) (by decide)
  unfold decX64U
  rw [h1]
  simp only [Option.bind_some, Pred.dec_code, SReg.dec_code, Ty.dec_code, h2, h3, h4, h5, h6, Raw.x_ws, Raw.x_d, Raw.x_a, Raw.x_b, Raw.x_w3]
  all_goals rfl

theorem Encoding.scmp (g : Pred) (d : Fin 7) (a : SReg) (b : SReg) (ty : Ty) (cond : Cond) (comb : Combine) : Encoding.Statement (.scmp g d a b ty cond comb) := by
  intro r hr hw
  obtain rfl := Option.some.inj hr
  refine Raw.toInstr_x64U rfl rfl rfl ?_ hw
  have hf : cond.code + (8 * comb.code) < 64 := (by decide +kernel : ∀ (cond : Fin 8) (comb : Fin 4), cond.val + (8 * comb.val) < 64) ⟨cond.code, cond.code_lt⟩ ⟨comb.code, comb.code_lt⟩
  obtain ⟨h1, h2, h3, h4, h5, h6⟩ := Raw.x_fields 1 56 g.code (0) (d.val) (a.code) (b.code) 13 (0) (c := (comb.predNum)) (ty := ty.code) (rm := 0) (fl := cond.code + (8 * comb.code)) comb.predNum_lt ty.code_lt (by decide) hf
  have e0 : cond.code + (8 * comb.code) &&& 32 = 0 := (by decide +kernel : ∀ (cond : Fin 8) (comb : Fin 4), cond.val + (8 * comb.val) &&& 32 = 0) ⟨cond.code, cond.code_lt⟩ ⟨comb.code, comb.code_lt⟩
  have e1 : (cond.code + (8 * comb.code)) % 8 = cond.code := (by decide +kernel : ∀ (cond : Fin 8) (comb : Fin 4), (cond.val + (8 * comb.val)) % 8 = cond.val) ⟨cond.code, cond.code_lt⟩ ⟨comb.code, comb.code_lt⟩
  have e2 : (cond.code + (8 * comb.code)) / 8 % 4 = comb.code := (by decide +kernel : ∀ (cond : Fin 8) (comb : Fin 4), (cond.val + (8 * comb.val)) / 8 % 4 = comb.val) ⟨cond.code, cond.code_lt⟩ ⟨comb.code, comb.code_lt⟩
  unfold decX64U
  rw [h1]
  simp only [Option.bind_some, Combine.dec_code, Cond.dec_code, decFin_val, Pred.dec_code, SReg.dec_code, Ty.dec_code, h2, h3, h4, h5, h6, Raw.x_ws, Raw.x_d, Raw.x_a, Raw.x_b, Raw.x_w3, e0, e1, e2]
  all_goals rfl

theorem Encoding.ssel (g : Pred) (d : SReg) (a : SReg) (b : SReg) (c : Pred) (ty : Ty) (neg : Bool) : Encoding.Statement (.ssel g d a b c ty neg) := by
  intro r hr hw
  obtain rfl := Option.some.inj hr
  refine Raw.toInstr_x64U rfl rfl rfl ?_ hw
  have hf : b2n neg 0 < 64 := (by decide +kernel : ∀ (neg : Bool), b2n neg 0 < 64) neg
  obtain ⟨h1, h2, h3, h4, h5, h6⟩ := Raw.x_fields 1 56 g.code (0) (d.code) (a.code) (b.code) 14 (0) (c := (c.code)) (ty := ty.code) (rm := 0) (fl := b2n neg 0) (Nat.lt_of_lt_of_le c.code_lt (by decide)) ty.code_lt (by decide) hf
  have e0 : b2n neg 0 &&& 62 = 0 := (by decide +kernel : ∀ (neg : Bool), b2n neg 0 &&& 62 = 0) neg
  have e1 : (b2n neg 0).testBit 0 = neg := (by decide +kernel : ∀ (neg : Bool), (b2n neg 0).testBit 0 = neg) neg
  unfold decX64U
  rw [h1]
  simp only [Option.bind_some, Pred.dec_code, SReg.dec_code, Ty.dec_code, h2, h3, h4, h5, h6, Raw.x_ws, Raw.x_d, Raw.x_a, Raw.x_b, Raw.x_w3, e0, e1]
  all_goals (cases neg <;> rfl)

theorem Encoding.smovX64 (g : Pred) (d : SReg) (a : SReg) (ty : Ty) : Encoding.Statement (.smovX64 g d a ty) := by
  intro r hr hw
  obtain rfl := Option.some.inj hr
  refine Raw.toInstr_x64U rfl rfl rfl ?_ hw
  obtain ⟨h1, h2, h3, h4, h5, h6⟩ := Raw.x_fields 1 56 g.code (0) (d.code) (a.code) (0) 15 (0) (c := (0)) (ty := ty.code) (rm := 0) (fl := 0) (by decide) ty.code_lt (by decide) (by decide)
  unfold decX64U
  rw [h1]
  simp only [Option.bind_some, Pred.dec_code, SReg.dec_code, Ty.dec_code, h2, h3, h4, h5, h6, Raw.x_ws, Raw.x_d, Raw.x_a, Raw.x_b, Raw.x_w3]
  all_goals rfl

theorem Encoding.spopcX64 (g : Pred) (d : SReg) (a : SReg) (ty : Ty) : Encoding.Statement (.spopcX64 g d a ty) := by
  intro r hr hw
  obtain rfl := Option.some.inj hr
  refine Raw.toInstr_x64U rfl rfl rfl ?_ hw
  obtain ⟨h1, h2, h3, h4, h5, h6⟩ := Raw.x_fields 1 56 g.code (0) (d.code) (a.code) (0) 16 (0) (c := (0)) (ty := ty.code) (rm := 0) (fl := 0) (by decide) ty.code_lt (by decide) (by decide)
  unfold decX64U
  rw [h1]
  simp only [Option.bind_some, Pred.dec_code, SReg.dec_code, Ty.dec_code, h2, h3, h4, h5, h6, Raw.x_ws, Raw.x_d, Raw.x_a, Raw.x_b, Raw.x_w3]
  all_goals rfl

theorem Encoding.lanerdX64 (g : Pred) (d : SReg) (a : Reg) (b : SReg) (ty : Ty) : Encoding.Statement (.lanerdX64 g d a b ty) := by
  intro r hr hw
  obtain rfl := Option.some.inj hr
  refine Raw.toInstr_x64U rfl rfl rfl ?_ hw
  obtain ⟨h1, h2, h3, h4, h5, h6⟩ := Raw.x_fields 1 56 g.code (0) (d.code) (a.code) (b.code) 17 (0) (c := (0)) (ty := ty.code) (rm := 0) (fl := 0) (by decide) ty.code_lt (by decide) (by decide)
  unfold decX64U
  rw [h1]
  simp only [Option.bind_some, Pred.dec_code, Reg.dec_code, SReg.dec_code, Ty.dec_code, h2, h3, h4, h5, h6, Raw.x_ws, Raw.x_d, Raw.x_a, Raw.x_b, Raw.x_w3]
  all_goals rfl

theorem Encoding.lanewrX64 (g : Pred) (d : Reg) (a : SReg) (b : SReg) (ty : Ty) : Encoding.Statement (.lanewrX64 g d a b ty) := by
  intro r hr hw
  obtain rfl := Option.some.inj hr
  refine Raw.toInstr_x64U rfl rfl rfl ?_ hw
  have hd : Reg.isLaneDst d = true := by
    simp only [Instr.wf, Bool.and_eq_true] at hw
    simp only [hw]
  obtain ⟨h1, h2, h3, h4, h5, h6⟩ := Raw.x_fields 1 56 g.code (0) (d.code) (a.code) (b.code) 18 (0) (c := (0)) (ty := ty.code) (rm := 0) (fl := 0) (by decide) ty.code_lt (by decide) (by decide)
  unfold decX64U
  rw [h1]
  simp only [Option.bind_some, Pred.dec_code, Reg.dec_code, SReg.dec_code, Ty.dec_code, LReg.dec_code _ hd, h2, h3, h4, h5, h6, Raw.x_ws, Raw.x_d, Raw.x_a, Raw.x_b, Raw.x_w3]
  all_goals rfl

theorem Encoding.smovi (g : Pred) (d : SReg) (imm : Word) : Encoding.Statement (.smovi g d imm) := by
  intro r hr hw
  obtain rfl := Option.some.inj hr
  refine Raw.toInstr_i64U rfl rfl rfl ?_ hw
  unfold decI64U
  simp only [Option.bind_some, Pred.dec_code, SReg.dec_code, BitVec_toNat_ofNat, Raw.i64]
  all_goals rfl

theorem Encoding.saddI64 (g : Pred) (d : SReg) (a : SReg) (imm : Word) : Encoding.Statement (.saddI64 g d a imm) := by
  intro r hr hw
  obtain rfl := Option.some.inj hr
  refine Raw.toInstr_i64U rfl rfl rfl ?_ hw
  unfold decI64U
  simp only [Option.bind_some, Pred.dec_code, SReg.dec_code, BitVec_toNat_ofNat, Raw.i64]
  all_goals rfl

theorem Encoding.smulI64 (g : Pred) (d : SReg) (a : SReg) (imm : Word) : Encoding.Statement (.smulI64 g d a imm) := by
  intro r hr hw
  obtain rfl := Option.some.inj hr
  refine Raw.toInstr_i64U rfl rfl rfl ?_ hw
  unfold decI64U
  simp only [Option.bind_some, Pred.dec_code, SReg.dec_code, BitVec_toNat_ofNat, Raw.i64]
  all_goals rfl

theorem Encoding.sandI64 (g : Pred) (d : SReg) (a : SReg) (imm : Word) : Encoding.Statement (.sandI64 g d a imm) := by
  intro r hr hw
  obtain rfl := Option.some.inj hr
  refine Raw.toInstr_i64U rfl rfl rfl ?_ hw
  unfold decI64U
  simp only [Option.bind_some, Pred.dec_code, SReg.dec_code, BitVec_toNat_ofNat, Raw.i64]
  all_goals rfl

theorem Encoding.sorI64 (g : Pred) (d : SReg) (a : SReg) (imm : Word) : Encoding.Statement (.sorI64 g d a imm) := by
  intro r hr hw
  obtain rfl := Option.some.inj hr
  refine Raw.toInstr_i64U rfl rfl rfl ?_ hw
  unfold decI64U
  simp only [Option.bind_some, Pred.dec_code, SReg.dec_code, BitVec_toNat_ofNat, Raw.i64]
  all_goals rfl

theorem Encoding.sxorI64 (g : Pred) (d : SReg) (a : SReg) (imm : Word) : Encoding.Statement (.sxorI64 g d a imm) := by
  intro r hr hw
  obtain rfl := Option.some.inj hr
  refine Raw.toInstr_i64U rfl rfl rfl ?_ hw
  unfold decI64U
  simp only [Option.bind_some, Pred.dec_code, SReg.dec_code, BitVec_toNat_ofNat, Raw.i64]
  all_goals rfl

theorem Encoding.sshlI64 (g : Pred) (d : SReg) (a : SReg) (n : Fin 32) : Encoding.Statement (.sshlI64 g d a n) := by
  intro r hr hw
  obtain rfl := Option.some.inj hr
  refine Raw.toInstr_i64U rfl rfl rfl ?_ hw
  unfold decI64U
  simp only [Option.bind_some, decFin_val, Pred.dec_code, SReg.dec_code, Raw.i64]
  all_goals rfl

theorem Encoding.sshrI64 (g : Pred) (d : SReg) (a : SReg) (ty : Ty) (n : Fin 32) : Encoding.Statement (.sshrI64 g d a ty n) := by
  intro r hr hw
  obtain rfl := Option.some.inj hr
  have ht : ty = .s32 ∨ ty = .z32 := by
    have h : Ty.isOneOf ty [.s32, .z32] = true := hw
    cases ty <;> first | exact .inl rfl | exact .inr rfl | exact absurd h (by decide)
  obtain rfl | rfl := ht
  · refine Raw.toInstr_i64U (r := Raw.i64 1 g.code 0 d.code a.code 8 n.val) rfl rfl rfl ?_ hw
    simp only [decI64U, Raw.i64, SReg.dec_code, SReg.dec_code, decFin_val, Option.bind_some]
    rfl
  · refine Raw.toInstr_i64U (r := Raw.i64 1 g.code 0 d.code a.code 7 n.val) rfl rfl rfl ?_ hw
    simp only [decI64U, Raw.i64, SReg.dec_code, SReg.dec_code, decFin_val, Option.bind_some]
    rfl

theorem Encoding.sminI64 (g : Pred) (d : SReg) (a : SReg) (imm : Word) : Encoding.Statement (.sminI64 g d a imm) := by
  intro r hr hw
  obtain rfl := Option.some.inj hr
  refine Raw.toInstr_i64U rfl rfl rfl ?_ hw
  unfold decI64U
  simp only [Option.bind_some, Pred.dec_code, SReg.dec_code, BitVec_toNat_ofNat, Raw.i64]
  all_goals rfl

theorem Encoding.smaxI64 (g : Pred) (d : SReg) (a : SReg) (imm : Word) : Encoding.Statement (.smaxI64 g d a imm) := by
  intro r hr hw
  obtain rfl := Option.some.inj hr
  refine Raw.toInstr_i64U rfl rfl rfl ?_ hw
  unfold decI64U
  simp only [Option.bind_some, Pred.dec_code, SReg.dec_code, BitVec_toNat_ofNat, Raw.i64]
  all_goals rfl

theorem Encoding.sleaI64 (g : Pred) (d : SReg) (a : SReg) (imm : Word) : Encoding.Statement (.sleaI64 g d a imm) := by
  intro r hr hw
  obtain rfl := Option.some.inj hr
  refine Raw.toInstr_i64U rfl rfl rfl ?_ hw
  unfold decI64U
  simp only [Option.bind_some, Pred.dec_code, SReg.dec_code, BitVec_toNat_ofNat, Raw.i64]
  all_goals rfl

theorem Encoding.cpy (g : Pred) (t : Fin 64) (a : SReg) (b : SReg) (c : SReg) (ds : CpySpace) (ss : CpySpace) : Encoding.Statement (.cpy g t a b c ds ss) := by
  intro r hr hw
  obtain rfl := Option.some.inj hr
  refine Raw.toInstr_x96U rfl rfl rfl ?_ hw
  obtain ⟨h1, h2, h3, h4, h5, h6⟩ := Raw.x_fields 1 59 g.code (0) (t.val) (a.code) (b.code) 256 ((1 * ds.code) + (4 * ss.code)) (c := (c.code)) (ty := 0) (rm := 0) (fl := 0) c.code_lt (by decide) (by decide) (by decide)
  have e0 : ((1 * ds.code) + (4 * ss.code)) &&& 4294967280 = 0 := (by decide +kernel : ∀ (ds : Fin 4) (ss : Fin 4), ((1 * ds.val) + (4 * ss.val)) &&& 4294967280 = 0) ⟨ds.code, ds.code_lt⟩ ⟨ss.code, ss.code_lt⟩
  have e1 : (((1 * ds.code) + (4 * ss.code))) / 1 % 4 = ds.code := (by decide +kernel : ∀ (ds : Fin 4) (ss : Fin 4), (((1 * ds.val) + (4 * ss.val))) / 1 % 4 = ds.val) ⟨ds.code, ds.code_lt⟩ ⟨ss.code, ss.code_lt⟩
  have e2 : (((1 * ds.code) + (4 * ss.code))) / 4 % 4 = ss.code := (by decide +kernel : ∀ (ds : Fin 4) (ss : Fin 4), (((1 * ds.val) + (4 * ss.val))) / 4 % 4 = ss.val) ⟨ds.code, ds.code_lt⟩ ⟨ss.code, ss.code_lt⟩
  unfold decX96U
  rw [h1]
  simp only [Option.bind_some, CpySpace.dec_code, decFin_val, Pred.dec_code, SReg.dec_code, h2, h3, h4, h5, h6, Raw.x_ws, Raw.x_d, Raw.x_a, Raw.x_b, Raw.x_w3, e0, e1, e2]
  all_goals rfl

theorem Encoding.cpy2 (g : Pred) (t : Fin 64) (a : SReg) (b : SReg) (c : Fin 24) (ds : CpySpace) (ss : CpySpace) (tr : CpyTr) : Encoding.Statement (.cpy2 g t a b c ds ss tr) := by
  intro r hr hw
  obtain rfl := Option.some.inj hr
  refine Raw.toInstr_x96U rfl rfl rfl ?_ hw
  obtain ⟨h1, h2, h3, h4, h5, h6⟩ := Raw.x_fields 1 59 g.code (0) (t.val) (a.code) (b.code) 257 ((1 * ds.code) + (4 * ss.code) + (16 * tr.code)) (c := ((96 + c.val))) (ty := 0) (rm := 0) (fl := 0) (by omega) (by decide) (by decide) (by decide)
  have e0 : ((1 * ds.code) + (4 * ss.code) + (16 * tr.code)) &&& 4294967232 = 0 := (by decide +kernel : ∀ (ds : Fin 4) (ss : Fin 4) (tr : Fin 3), ((1 * ds.val) + (4 * ss.val) + (16 * tr.val)) &&& 4294967232 = 0) ⟨ds.code, ds.code_lt⟩ ⟨ss.code, ss.code_lt⟩ ⟨tr.code, tr.code_lt⟩
  have e1 : (((1 * ds.code) + (4 * ss.code) + (16 * tr.code))) / 1 % 4 = ds.code := (by decide +kernel : ∀ (ds : Fin 4) (ss : Fin 4) (tr : Fin 3), (((1 * ds.val) + (4 * ss.val) + (16 * tr.val))) / 1 % 4 = ds.val) ⟨ds.code, ds.code_lt⟩ ⟨ss.code, ss.code_lt⟩ ⟨tr.code, tr.code_lt⟩
  have e2 : (((1 * ds.code) + (4 * ss.code) + (16 * tr.code))) / 4 % 4 = ss.code := (by decide +kernel : ∀ (ds : Fin 4) (ss : Fin 4) (tr : Fin 3), (((1 * ds.val) + (4 * ss.val) + (16 * tr.val))) / 4 % 4 = ss.val) ⟨ds.code, ds.code_lt⟩ ⟨ss.code, ss.code_lt⟩ ⟨tr.code, tr.code_lt⟩
  have e3 : (((1 * ds.code) + (4 * ss.code) + (16 * tr.code))) / 16 % 4 = tr.code := (by decide +kernel : ∀ (ds : Fin 4) (ss : Fin 4) (tr : Fin 3), (((1 * ds.val) + (4 * ss.val) + (16 * tr.val))) / 16 % 4 = tr.val) ⟨ds.code, ds.code_lt⟩ ⟨ss.code, ss.code_lt⟩ ⟨tr.code, tr.code_lt⟩
  unfold decX96U
  rw [h1]
  simp only [Option.bind_some, CpySpace.dec_code, CpyTr.dec_code, decFin_val, decSBase_add, Pred.dec_code, SReg.dec_code, h2, h3, h4, h5, h6, Raw.x_ws, Raw.x_d, Raw.x_a, Raw.x_b, Raw.x_w3, e0, e1, e2, e3]
  all_goals rfl

theorem Encoding.cpyh (g : Pred) (t : Fin 64) (a : SReg) (b : SReg) (c : SReg) (inn : Bool) (abin : Bool) : Encoding.Statement (.cpyh g t a b c inn abin) := by
  intro r hr hw
  obtain rfl := Option.some.inj hr
  refine Raw.toInstr_x96U rfl rfl rfl ?_ hw
  obtain ⟨h1, h2, h3, h4, h5, h6⟩ := Raw.x_fields 1 59 g.code (0) (t.val) (a.code) (b.code) 258 (b2n inn 0 + b2n abin 1) (c := (c.code)) (ty := 0) (rm := 0) (fl := 0) c.code_lt (by decide) (by decide) (by decide)
  have e0 : (b2n inn 0 + b2n abin 1) &&& 4294967292 = 0 := (by decide +kernel : ∀ (inn : Bool) (abin : Bool), (b2n inn 0 + b2n abin 1) &&& 4294967292 = 0) inn abin
  have e1 : ((b2n inn 0 + b2n abin 1)).testBit 0 = inn := (by decide +kernel : ∀ (inn : Bool) (abin : Bool), ((b2n inn 0 + b2n abin 1)).testBit 0 = inn) inn abin
  have e2 : ((b2n inn 0 + b2n abin 1)).testBit 1 = abin := (by decide +kernel : ∀ (inn : Bool) (abin : Bool), ((b2n inn 0 + b2n abin 1)).testBit 1 = abin) inn abin
  unfold decX96U
  rw [h1]
  simp only [Option.bind_some, decFin_val, Pred.dec_code, SReg.dec_code, h2, h3, h4, h5, h6, Raw.x_ws, Raw.x_d, Raw.x_a, Raw.x_b, Raw.x_w3, e0, e1, e2]
  all_goals (cases inn <;> cases abin <;> rfl)

theorem Encoding.pfl2 (g : Pred) (x : Pfl2Args) (a c : SReg) : Encoding.Statement (.pfl2 g x a c) := by
  intro r hr hw
  obtain rfl := Option.some.inj hr
  refine Raw.toInstr_x96U rfl rfl rfl ?_ hw
  obtain ⟨h1, h2, h3, h4, h5, h6⟩ := Raw.x_fields 1 59 g.code 0 x.dNum a.code x.bNum 259 x.code (c := c.code) (ty := 0) (rm := 0) (fl := 0)
    c.code_lt (by decide) (by decide) (by decide)
  unfold decX96U
  rw [h1]
  simp only [Raw.x_ws, Raw.x_d, Raw.x_a, Raw.x_b, Raw.x_w3, h2, h3]
  cases x <;> simp [chk, Pfl2Args.dec, Pfl2Args.code, Pfl2Args.dNum, Pfl2Args.bNum,
    SReg.dec_code, decFin_val]

theorem Encoding.pwaitX64 (g : Pred) (d : SReg) (a : SReg) (all : Bool) : Encoding.Statement (.pwaitX64 g d a all) := by
  intro r hr hw
  obtain rfl := Option.some.inj hr
  refine Raw.toInstr_x64U rfl rfl rfl ?_ hw
  have hf : b2n all 0 < 64 := (by decide +kernel : ∀ (all : Bool), b2n all 0 < 64) all
  obtain ⟨h1, h2, h3, h4, h5, h6⟩ := Raw.x_fields 1 56 g.code (0) (d.code) (a.code) (0) 260 (0) (c := (0)) (ty := 0) (rm := 0) (fl := b2n all 0) (by decide) (by decide) (by decide) hf
  have e0 : b2n all 0 &&& 62 = 0 := (by decide +kernel : ∀ (all : Bool), b2n all 0 &&& 62 = 0) all
  have e1 : (b2n all 0).testBit 0 = all := (by decide +kernel : ∀ (all : Bool), (b2n all 0).testBit 0 = all) all
  unfold decX64U
  rw [h1]
  simp only [Option.bind_some, Pred.dec_code, SReg.dec_code, h2, h3, h4, h5, h6, Raw.x_ws, Raw.x_d, Raw.x_a, Raw.x_b, Raw.x_w3, e0, e1]
  all_goals (cases all <;> rfl)

theorem Encoding.pfindX64 (g : Pred) (d : SReg) (a : SReg) : Encoding.Statement (.pfindX64 g d a) := by
  intro r hr hw
  obtain rfl := Option.some.inj hr
  refine Raw.toInstr_x64U rfl rfl rfl ?_ hw
  obtain ⟨h1, h2, h3, h4, h5, h6⟩ := Raw.x_fields 1 56 g.code (0) (d.code) (a.code) (0) 261 (0) (c := (0)) (ty := 0) (rm := 0) (fl := 0) (by decide) (by decide) (by decide) (by decide)
  unfold decX64U
  rw [h1]
  simp only [Option.bind_some, Pred.dec_code, SReg.dec_code, h2, h3, h4, h5, h6, Raw.x_ws, Raw.x_d, Raw.x_a, Raw.x_b, Raw.x_w3]
  all_goals rfl

theorem Encoding.pclrX64 (g : Pred) (a : SReg) : Encoding.Statement (.pclrX64 g a) := by
  intro r hr hw
  obtain rfl := Option.some.inj hr
  refine Raw.toInstr_x64U rfl rfl rfl ?_ hw
  obtain ⟨h1, h2, h3, h4, h5, h6⟩ := Raw.x_fields 1 56 g.code (0) (0) (a.code) (0) 262 (0) (c := (0)) (ty := 0) (rm := 0) (fl := 0) (by decide) (by decide) (by decide) (by decide)
  unfold decX64U
  rw [h1]
  simp only [Option.bind_some, Pred.dec_code, SReg.dec_code, h2, h3, h4, h5, h6, Raw.x_ws, Raw.x_d, Raw.x_a, Raw.x_b, Raw.x_w3]
  all_goals rfl

theorem Encoding.pstat (g : Pred) (d : SReg) (t : Fin 64) : Encoding.Statement (.pstat g d t) := by
  intro r hr hw
  obtain rfl := Option.some.inj hr
  refine Raw.toInstr_x64U rfl rfl rfl ?_ hw
  obtain ⟨h1, h2, h3, h4, h5, h6⟩ := Raw.x_fields 1 56 g.code (0) (d.code) (t.val) (0) 263 (0) (c := (0)) (ty := 0) (rm := 0) (fl := 0) (by decide) (by decide) (by decide) (by decide)
  unfold decX64U
  rw [h1]
  simp only [Option.bind_some, decFin_val, Pred.dec_code, SReg.dec_code, h2, h3, h4, h5, h6, Raw.x_ws, Raw.x_d, Raw.x_a, Raw.x_b, Raw.x_w3]
  all_goals rfl

theorem Encoding.mxacqX64 (g : Pred) : Encoding.Statement (.mxacqX64 g) := by
  intro r hr hw
  obtain rfl := Option.some.inj hr
  refine Raw.toInstr_x64U rfl rfl rfl ?_ hw
  obtain ⟨h1, h2, h3, h4, h5, h6⟩ := Raw.x_fields 1 56 g.code (0) (0) (0) (0) 272 (0) (c := (0)) (ty := 0) (rm := 0) (fl := 0) (by decide) (by decide) (by decide) (by decide)
  unfold decX64U
  rw [h1]
  simp only [Option.bind_some, Pred.dec_code, h2, h3, h4, h5, h6, Raw.x_ws, Raw.x_d, Raw.x_a, Raw.x_b, Raw.x_w3]
  all_goals rfl

theorem Encoding.mxtryX64 (g : Pred) (d : Fin 7) : Encoding.Statement (.mxtryX64 g d) := by
  intro r hr hw
  obtain rfl := Option.some.inj hr
  refine Raw.toInstr_x64U rfl rfl rfl ?_ hw
  obtain ⟨h1, h2, h3, h4, h5, h6⟩ := Raw.x_fields 1 56 g.code (0) (d.val) (0) (0) 273 (0) (c := (0)) (ty := 0) (rm := 0) (fl := 0) (by decide) (by decide) (by decide) (by decide)
  unfold decX64U
  rw [h1]
  simp only [Option.bind_some, decFin_val, Pred.dec_code, h2, h3, h4, h5, h6, Raw.x_ws, Raw.x_d, Raw.x_a, Raw.x_b, Raw.x_w3]
  all_goals rfl

theorem Encoding.mxrelX64 (g : Pred) : Encoding.Statement (.mxrelX64 g) := by
  intro r hr hw
  obtain rfl := Option.some.inj hr
  refine Raw.toInstr_x64U rfl rfl rfl ?_ hw
  obtain ⟨h1, h2, h3, h4, h5, h6⟩ := Raw.x_fields 1 56 g.code (0) (0) (0) (0) 274 (0) (c := (0)) (ty := 0) (rm := 0) (fl := 0) (by decide) (by decide) (by decide) (by decide)
  unfold decX64U
  rw [h1]
  simp only [Option.bind_some, Pred.dec_code, h2, h3, h4, h5, h6, Raw.x_ws, Raw.x_d, Raw.x_a, Raw.x_b, Raw.x_w3]
  all_goals rfl

theorem Encoding.stld (g : Pred) (a : SReg) (b : SReg) (c : Option SReg) (ty : Ty) (w : Bool) (ab : Bool) (kc : Bool) (af : Bool) : Encoding.Statement (.stld g a b c ty w ab kc af) := by
  intro r hr hw
  obtain rfl := Option.some.inj hr
  refine Raw.toInstr_x64U rfl rfl rfl ?_ hw
  have hf : b2n w 0 + b2n ab 1 + b2n kc 2 + b2n af 3 < 64 := (by decide +kernel : ∀ (w : Bool) (ab : Bool) (kc : Bool) (af : Bool), b2n w 0 + b2n ab 1 + b2n kc 2 + b2n af 3 < 64) w ab kc af
  obtain ⟨h1, h2, h3, h4, h5, h6⟩ := Raw.x_fields 1 56 g.code (0) (0) (a.code) (b.code) 275 (0) (c := (SReg.codeOpt c)) (ty := ty.code) (rm := 0) (fl := b2n w 0 + b2n ab 1 + b2n kc 2 + b2n af 3) (SReg.codeOpt_lt c) ty.code_lt (by decide) hf
  have e0 : b2n w 0 + b2n ab 1 + b2n kc 2 + b2n af 3 &&& 48 = 0 := (by decide +kernel : ∀ (w : Bool) (ab : Bool) (kc : Bool) (af : Bool), b2n w 0 + b2n ab 1 + b2n kc 2 + b2n af 3 &&& 48 = 0) w ab kc af
  have e1 : (b2n w 0 + b2n ab 1 + b2n kc 2 + b2n af 3).testBit 0 = w := (by decide +kernel : ∀ (w : Bool) (ab : Bool) (kc : Bool) (af : Bool), (b2n w 0 + b2n ab 1 + b2n kc 2 + b2n af 3).testBit 0 = w) w ab kc af
  have e2 : (b2n w 0 + b2n ab 1 + b2n kc 2 + b2n af 3).testBit 1 = ab := (by decide +kernel : ∀ (w : Bool) (ab : Bool) (kc : Bool) (af : Bool), (b2n w 0 + b2n ab 1 + b2n kc 2 + b2n af 3).testBit 1 = ab) w ab kc af
  have e3 : (b2n w 0 + b2n ab 1 + b2n kc 2 + b2n af 3).testBit 2 = kc := (by decide +kernel : ∀ (w : Bool) (ab : Bool) (kc : Bool) (af : Bool), (b2n w 0 + b2n ab 1 + b2n kc 2 + b2n af 3).testBit 2 = kc) w ab kc af
  have e4 : (b2n w 0 + b2n ab 1 + b2n kc 2 + b2n af 3).testBit 3 = af := (by decide +kernel : ∀ (w : Bool) (ab : Bool) (kc : Bool) (af : Bool), (b2n w 0 + b2n ab 1 + b2n kc 2 + b2n af 3).testBit 3 = af) w ab kc af
  unfold decX64U
  rw [h1]
  simp only [Option.bind_some, SReg.decOpt_code, Pred.dec_code, SReg.dec_code, Ty.dec_code, h2, h3, h4, h5, h6, Raw.x_ws, Raw.x_d, Raw.x_a, Raw.x_b, Raw.x_w3, e0, e1, e2, e3, e4]
  all_goals (cases w <;> cases ab <;> cases kc <;> cases af <;> rfl)

theorem Encoding.drain (g : Pred) (a : SReg) (b : SReg) (ty : Ty) (east : Bool) (z : Bool) : Encoding.Statement (.drain g a b ty east z) := by
  intro r hr hw
  obtain rfl := Option.some.inj hr
  refine Raw.toInstr_x64U rfl rfl rfl ?_ hw
  have hf : b2n east 0 + b2n z 1 < 64 := (by decide +kernel : ∀ (east : Bool) (z : Bool), b2n east 0 + b2n z 1 < 64) east z
  obtain ⟨h1, h2, h3, h4, h5, h6⟩ := Raw.x_fields 1 56 g.code (0) (0) (a.code) (b.code) 276 (0) (c := (0)) (ty := ty.code) (rm := 0) (fl := b2n east 0 + b2n z 1) (by decide) ty.code_lt (by decide) hf
  have e0 : b2n east 0 + b2n z 1 &&& 60 = 0 := (by decide +kernel : ∀ (east : Bool) (z : Bool), b2n east 0 + b2n z 1 &&& 60 = 0) east z
  have e1 : (b2n east 0 + b2n z 1).testBit 0 = east := (by decide +kernel : ∀ (east : Bool) (z : Bool), (b2n east 0 + b2n z 1).testBit 0 = east) east z
  have e2 : (b2n east 0 + b2n z 1).testBit 1 = z := (by decide +kernel : ∀ (east : Bool) (z : Bool), (b2n east 0 + b2n z 1).testBit 1 = z) east z
  unfold decX64U
  rw [h1]
  simp only [Option.bind_some, Pred.dec_code, SReg.dec_code, Ty.dec_code, h2, h3, h4, h5, h6, Raw.x_ws, Raw.x_d, Raw.x_a, Raw.x_b, Raw.x_w3, e0, e1, e2]
  all_goals (cases east <;> cases z <;> rfl)

theorem Encoding.zaccX64 (g : Pred) (east : Bool) : Encoding.Statement (.zaccX64 g east) := by
  intro r hr hw
  obtain rfl := Option.some.inj hr
  refine Raw.toInstr_x64U rfl rfl rfl ?_ hw
  have hf : b2n east 0 < 64 := (by decide +kernel : ∀ (east : Bool), b2n east 0 < 64) east
  obtain ⟨h1, h2, h3, h4, h5, h6⟩ := Raw.x_fields 1 56 g.code (0) (0) (0) (0) 277 (0) (c := (0)) (ty := 0) (rm := 0) (fl := b2n east 0) (by decide) (by decide) (by decide) hf
  have e0 : b2n east 0 &&& 62 = 0 := (by decide +kernel : ∀ (east : Bool), b2n east 0 &&& 62 = 0) east
  have e1 : (b2n east 0).testBit 0 = east := (by decide +kernel : ∀ (east : Bool), (b2n east 0).testBit 0 = east) east
  unfold decX64U
  rw [h1]
  simp only [Option.bind_some, Pred.dec_code, h2, h3, h4, h5, h6, Raw.x_ws, Raw.x_d, Raw.x_a, Raw.x_b, Raw.x_w3, e0, e1]
  all_goals (cases east <;> rfl)

theorem Encoding.mxwaitX64 (g : Pred) : Encoding.Statement (.mxwaitX64 g) := by
  intro r hr hw
  obtain rfl := Option.some.inj hr
  refine Raw.toInstr_x64U rfl rfl rfl ?_ hw
  obtain ⟨h1, h2, h3, h4, h5, h6⟩ := Raw.x_fields 1 56 g.code (0) (0) (0) (0) 278 (0) (c := (0)) (ty := 0) (rm := 0) (fl := 0) (by decide) (by decide) (by decide) (by decide)
  unfold decX64U
  rw [h1]
  simp only [Option.bind_some, Pred.dec_code, h2, h3, h4, h5, h6, Raw.x_ws, Raw.x_d, Raw.x_a, Raw.x_b, Raw.x_w3]
  all_goals rfl

theorem Encoding.rgnb (g : Pred) (a : SReg) (b : SReg) (c : SReg) (pitch : Word) : Encoding.Statement (.rgnb g a b c pitch) := by
  intro r hr hw
  obtain rfl := Option.some.inj hr
  refine Raw.toInstr_x96U rfl rfl rfl ?_ hw
  obtain ⟨h1, h2, h3, h4, h5, h6⟩ := Raw.x_fields 1 59 g.code (0) (0) (a.code) (b.code) 288 (pitch.toNat) (c := (c.code)) (ty := 0) (rm := 0) (fl := 0) c.code_lt (by decide) (by decide) (by decide)
  unfold decX96U
  rw [h1]
  simp only [Option.bind_some, Pred.dec_code, SReg.dec_code, BitVec_toNat_ofNat, h2, h3, h4, h5, h6, Raw.x_ws, Raw.x_d, Raw.x_a, Raw.x_b, Raw.x_w3]
  all_goals rfl

theorem Encoding.rfit (g : Pred) (a : SReg) (b : SReg) (c : SReg) : Encoding.Statement (.rfit g a b c) := by
  intro r hr hw
  obtain rfl := Option.some.inj hr
  refine Raw.toInstr_x64U rfl rfl rfl ?_ hw
  obtain ⟨h1, h2, h3, h4, h5, h6⟩ := Raw.x_fields 1 56 g.code (0) (0) (a.code) (b.code) 289 (0) (c := (c.code)) (ty := 0) (rm := 0) (fl := 0) c.code_lt (by decide) (by decide) (by decide)
  unfold decX64U
  rw [h1]
  simp only [Option.bind_some, Pred.dec_code, SReg.dec_code, h2, h3, h4, h5, h6, Raw.x_ws, Raw.x_d, Raw.x_a, Raw.x_b, Raw.x_w3]
  all_goals rfl

theorem Encoding.rgnq (g : Pred) (d : SReg) (a : SReg) (b : SReg) : Encoding.Statement (.rgnq g d a b) := by
  intro r hr hw
  obtain rfl := Option.some.inj hr
  refine Raw.toInstr_x64U rfl rfl rfl ?_ hw
  obtain ⟨h1, h2, h3, h4, h5, h6⟩ := Raw.x_fields 1 56 g.code (0) (d.code) (a.code) (b.code) 290 (0) (c := (0)) (ty := 0) (rm := 0) (fl := 0) (by decide) (by decide) (by decide) (by decide)
  unfold decX64U
  rw [h1]
  simp only [Option.bind_some, Pred.dec_code, SReg.dec_code, h2, h3, h4, h5, h6, Raw.x_ws, Raw.x_d, Raw.x_a, Raw.x_b, Raw.x_w3]
  all_goals rfl

theorem Encoding.coll (g : Pred) (t : Fin 64) (a : SReg) (b : SReg) (c : SReg) (ty : Ty) (op : CollOp) (kind : CollKind) (grp : Fin 256) : Encoding.Statement (.coll g t a b c ty op kind grp) := by
  intro r hr hw
  obtain rfl := Option.some.inj hr
  refine Raw.toInstr_x96U rfl rfl rfl ?_ hw
  obtain ⟨h1, h2, h3, h4, h5, h6⟩ := Raw.x_fields 1 59 g.code (0) (t.val) (a.code) (b.code) 304 ((16384 * ty.code) + (1024 * op.code) + (256 * kind.code) + grp.val) (c := (c.code)) (ty := 0) (rm := 0) (fl := 0) c.code_lt (by decide) (by decide) (by decide)
  have e0 : ((16384 * ty.code) + (1024 * op.code) + (256 * kind.code) + grp.val) &&& 4294443008 = 0 := and_high 19 (2 ^ 13 - 1) (by have := ty.code_lt; have := op.code_lt; have := kind.code_lt; omega)
  have e1 : (((16384 * ty.code) + (1024 * op.code) + (256 * kind.code) + grp.val)) / 16384 % 32 = ty.code := by have := ty.code_lt; have := op.code_lt; have := kind.code_lt; omega
  have e2 : (((16384 * ty.code) + (1024 * op.code) + (256 * kind.code) + grp.val)) / 1024 % 16 = op.code := by have := ty.code_lt; have := op.code_lt; have := kind.code_lt; omega
  have e3 : (((16384 * ty.code) + (1024 * op.code) + (256 * kind.code) + grp.val)) / 256 % 4 = kind.code := by have := ty.code_lt; have := op.code_lt; have := kind.code_lt; omega
  have e4 : (((16384 * ty.code) + (1024 * op.code) + (256 * kind.code) + grp.val)) % 256 = grp.val := by have := ty.code_lt; have := op.code_lt; have := kind.code_lt; omega
  unfold decX96U
  rw [h1]
  simp only [Option.bind_some, CollKind.dec_code, CollOp.dec_code, decFin_val, Pred.dec_code, SReg.dec_code, Ty.dec_code, h2, h3, h4, h5, h6, Raw.x_ws, Raw.x_d, Raw.x_a, Raw.x_b, Raw.x_w3, e0, e1, e2, e3, e4]
  all_goals rfl

theorem Encoding.srdX64 (g : Pred) (d : SReg) (a : Spr) : Encoding.Statement (.srdX64 g d a) := by
  intro r hr hw
  obtain rfl := Option.some.inj hr
  refine Raw.toInstr_x64U rfl rfl rfl ?_ hw
  obtain ⟨h1, h2, h3, h4, h5, h6⟩ := Raw.x_fields 1 56 g.code (0) (d.code) (a.code) (0) 512 (0) (c := (0)) (ty := 0) (rm := 0) (fl := 0) (by decide) (by decide) (by decide) (by decide)
  unfold decX64U
  rw [h1]
  simp only [Option.bind_some, Pred.dec_code, SReg.dec_code, Spr.dec_code, h2, h3, h4, h5, h6, Raw.x_ws, Raw.x_d, Raw.x_a, Raw.x_b, Raw.x_w3]
  all_goals rfl

theorem Encoding.swrX64 (g : Pred) (d : Spr) (a : SReg) : Encoding.Statement (.swrX64 g d a) := by
  intro r hr hw
  obtain rfl := Option.some.inj hr
  refine Raw.toInstr_x64U rfl rfl rfl ?_ hw
  obtain ⟨h1, h2, h3, h4, h5, h6⟩ := Raw.x_fields 1 56 g.code (0) (d.code) (a.code) (0) 513 (0) (c := (0)) (ty := 0) (rm := 0) (fl := 0) (by decide) (by decide) (by decide) (by decide)
  unfold decX64U
  rw [h1]
  simp only [Option.bind_some, Pred.dec_code, SReg.dec_code, Spr.dec_code, h2, h3, h4, h5, h6, Raw.x_ws, Raw.x_d, Raw.x_a, Raw.x_b, Raw.x_w3]
  all_goals rfl

theorem Encoding.trapX64 (g : Pred) (a : SReg) : Encoding.Statement (.trapX64 g a) := by
  intro r hr hw
  obtain rfl := Option.some.inj hr
  refine Raw.toInstr_x64U rfl rfl rfl ?_ hw
  obtain ⟨h1, h2, h3, h4, h5, h6⟩ := Raw.x_fields 1 56 g.code (0) (0) (a.code) (0) 514 (0) (c := (0)) (ty := 0) (rm := 0) (fl := 0) (by decide) (by decide) (by decide) (by decide)
  unfold decX64U
  rw [h1]
  simp only [Option.bind_some, Pred.dec_code, SReg.dec_code, h2, h3, h4, h5, h6, Raw.x_ws, Raw.x_d, Raw.x_a, Raw.x_b, Raw.x_w3]
  all_goals rfl

theorem Encoding.brkX64 (g : Pred) (a : SReg) : Encoding.Statement (.brkX64 g a) := by
  intro r hr hw
  obtain rfl := Option.some.inj hr
  refine Raw.toInstr_x64U rfl rfl rfl ?_ hw
  obtain ⟨h1, h2, h3, h4, h5, h6⟩ := Raw.x_fields 1 56 g.code (0) (0) (a.code) (0) 515 (0) (c := (0)) (ty := 0) (rm := 0) (fl := 0) (by decide) (by decide) (by decide) (by decide)
  unfold decX64U
  rw [h1]
  simp only [Option.bind_some, Pred.dec_code, SReg.dec_code, h2, h3, h4, h5, h6, Raw.x_ws, Raw.x_d, Raw.x_a, Raw.x_b, Raw.x_w3]
  all_goals rfl

theorem Encoding.twrd (g : Pred) (d : SReg) (a : SReg) (b : SReg) : Encoding.Statement (.twrd g d a b) := by
  intro r hr hw
  obtain rfl := Option.some.inj hr
  refine Raw.toInstr_x64U rfl rfl rfl ?_ hw
  obtain ⟨h1, h2, h3, h4, h5, h6⟩ := Raw.x_fields 1 56 g.code (0) (d.code) (a.code) (b.code) 516 (0) (c := (0)) (ty := 0) (rm := 0) (fl := 0) (by decide) (by decide) (by decide) (by decide)
  unfold decX64U
  rw [h1]
  simp only [Option.bind_some, Pred.dec_code, SReg.dec_code, h2, h3, h4, h5, h6, Raw.x_ws, Raw.x_d, Raw.x_a, Raw.x_b, Raw.x_w3]
  all_goals rfl

theorem Encoding.twwr (g : Pred) (a : SReg) (b : SReg) (c : SReg) : Encoding.Statement (.twwr g a b c) := by
  intro r hr hw
  obtain rfl := Option.some.inj hr
  refine Raw.toInstr_x64U rfl rfl rfl ?_ hw
  obtain ⟨h1, h2, h3, h4, h5, h6⟩ := Raw.x_fields 1 56 g.code (0) (0) (a.code) (b.code) 517 (0) (c := (c.code)) (ty := 0) (rm := 0) (fl := 0) c.code_lt (by decide) (by decide) (by decide)
  unfold decX64U
  rw [h1]
  simp only [Option.bind_some, Pred.dec_code, SReg.dec_code, h2, h3, h4, h5, h6, Raw.x_ws, Raw.x_d, Raw.x_a, Raw.x_b, Raw.x_w3]
  all_goals rfl

theorem Encoding.tres (g : Pred) : Encoding.Statement (.tres g) := by
  intro r hr hw
  obtain rfl := Option.some.inj hr
  refine Raw.toInstr_x64U rfl rfl rfl ?_ hw
  obtain ⟨h1, h2, h3, h4, h5, h6⟩ := Raw.x_fields 1 56 g.code (0) (0) (0) (0) 518 (0) (c := (0)) (ty := 0) (rm := 0) (fl := 0) (by decide) (by decide) (by decide) (by decide)
  unfold decX64U
  rw [h1]
  simp only [Option.bind_some, Pred.dec_code, h2, h3, h4, h5, h6, Raw.x_ws, Raw.x_d, Raw.x_a, Raw.x_b, Raw.x_w3]
  all_goals rfl

theorem Encoding.tkill (g : Pred) : Encoding.Statement (.tkill g) := by
  intro r hr hw
  obtain rfl := Option.some.inj hr
  refine Raw.toInstr_x64U rfl rfl rfl ?_ hw
  obtain ⟨h1, h2, h3, h4, h5, h6⟩ := Raw.x_fields 1 56 g.code (0) (0) (0) (0) 519 (0) (c := (0)) (ty := 0) (rm := 0) (fl := 0) (by decide) (by decide) (by decide) (by decide)
  unfold decX64U
  rw [h1]
  simp only [Option.bind_some, Pred.dec_code, h2, h3, h4, h5, h6, Raw.x_ws, Raw.x_d, Raw.x_a, Raw.x_b, Raw.x_w3]
  all_goals rfl

theorem Encoding.launch (g : Pred) (d : SReg) (a : SReg) (b : SReg) : Encoding.Statement (.launch g d a b) := by
  intro r hr hw
  obtain rfl := Option.some.inj hr
  refine Raw.toInstr_x64U rfl rfl rfl ?_ hw
  obtain ⟨h1, h2, h3, h4, h5, h6⟩ := Raw.x_fields 1 56 g.code (0) (d.code) (a.code) (b.code) 520 (0) (c := (0)) (ty := 0) (rm := 0) (fl := 0) (by decide) (by decide) (by decide) (by decide)
  unfold decX64U
  rw [h1]
  simp only [Option.bind_some, Pred.dec_code, SReg.dec_code, h2, h3, h4, h5, h6, Raw.x_ws, Raw.x_d, Raw.x_a, Raw.x_b, Raw.x_w3]
  all_goals rfl

theorem Encoding.barX64 (g : Pred) : Encoding.Statement (.barX64 g) := by
  intro r hr hw
  obtain rfl := Option.some.inj hr
  refine Raw.toInstr_x64U rfl rfl rfl ?_ hw
  obtain ⟨h1, h2, h3, h4, h5, h6⟩ := Raw.x_fields 1 56 g.code (0) (0) (0) (0) 521 (0) (c := (0)) (ty := 0) (rm := 0) (fl := 0) (by decide) (by decide) (by decide) (by decide)
  unfold decX64U
  rw [h1]
  simp only [Option.bind_some, Pred.dec_code, h2, h3, h4, h5, h6, Raw.x_ws, Raw.x_d, Raw.x_a, Raw.x_b, Raw.x_w3]
  all_goals rfl

theorem Encoding.ccwaitX64 (g : Pred) (d : SReg) (a : SReg) : Encoding.Statement (.ccwaitX64 g d a) := by
  intro r hr hw
  obtain rfl := Option.some.inj hr
  refine Raw.toInstr_x64U rfl rfl rfl ?_ hw
  obtain ⟨h1, h2, h3, h4, h5, h6⟩ := Raw.x_fields 1 56 g.code (0) (d.code) (a.code) (0) 522 (0) (c := (0)) (ty := 0) (rm := 0) (fl := 0) (by decide) (by decide) (by decide) (by decide)
  unfold decX64U
  rw [h1]
  simp only [Option.bind_some, Pred.dec_code, SReg.dec_code, h2, h3, h4, h5, h6, Raw.x_ws, Raw.x_d, Raw.x_a, Raw.x_b, Raw.x_w3]
  all_goals rfl

theorem Encoding.tkwaitX64 (g : Pred) : Encoding.Statement (.tkwaitX64 g) := by
  intro r hr hw
  obtain rfl := Option.some.inj hr
  refine Raw.toInstr_x64U rfl rfl rfl ?_ hw
  obtain ⟨h1, h2, h3, h4, h5, h6⟩ := Raw.x_fields 1 56 g.code (0) (0) (0) (0) 523 (0) (c := (0)) (ty := 0) (rm := 0) (fl := 0) (by decide) (by decide) (by decide) (by decide)
  unfold decX64U
  rw [h1]
  simp only [Option.bind_some, Pred.dec_code, h2, h3, h4, h5, h6, Raw.x_ws, Raw.x_d, Raw.x_a, Raw.x_b, Raw.x_w3]
  all_goals rfl

theorem Encoding.tkpassX64 (g : Pred) : Encoding.Statement (.tkpassX64 g) := by
  intro r hr hw
  obtain rfl := Option.some.inj hr
  refine Raw.toInstr_x64U rfl rfl rfl ?_ hw
  obtain ⟨h1, h2, h3, h4, h5, h6⟩ := Raw.x_fields 1 56 g.code (0) (0) (0) (0) 524 (0) (c := (0)) (ty := 0) (rm := 0) (fl := 0) (by decide) (by decide) (by decide) (by decide)
  unfold decX64U
  rw [h1]
  simp only [Option.bind_some, Pred.dec_code, h2, h3, h4, h5, h6, Raw.x_ws, Raw.x_d, Raw.x_a, Raw.x_b, Raw.x_w3]
  all_goals rfl

end Laws
end Sys2Proof
end

