-- ==== Sys2Proof/Tests/Slice0.lean ====
section
/-! SUPPORT. Tests: encodings written out from the spec's tables, ill-formed terms that WellFormed refuses, the spec's
worked values, and for each statement that has hypotheses a state and operands that meet them. -/
set_option linter.unusedVariables false
set_option Elab.async false
namespace Sys2Proof.Tests

open Sys2Proof Sys2Proof.Machine Sys2Proof.Safety

/-! ### A small device: one stook (1) of one crop (2), one sheaf (3) of 8 lanes on core 0; lanes 0 and 1 issue -/

/-- A launch record: one stook of one sheaf, bins of 12 KiB, a chaff region; `shape` adds bits of its shape word. -/
def rec0 (shape : Nat) : List Byte :=
  bytesOf 8 0x40001000 ++ bytesOf 8 0 ++ bytesOf 4 1 ++ bytesOf 4 1 ++ bytesOf 4 1 ++ bytesOf 4 (12 * 128 + shape) ++
  List.replicate 16 0 ++ [3, 3, 3, 0] ++ List.replicate 12 0 ++ bytesOf 8 0x50000000 ++ bytesOf 8 0x50010000 ++ List.replicate 48 0
def crop0 (shape : Nat) : Crop :=
  { newCrop .reset 0 ⟨rec0 shape, 0, 0, 0, [], []⟩ with next := 1, diePend := [1, 0, 0, 0], cores := [(0, true)] }
def stook0 : Stook :=
  { crop := 2, linear := 0, pos := 0, rank := 0, rick := 0, rickSize := 1, redo := 0, cores := [0], wUnits := 3, aUnits := 3, cUnits := 3
    binW := [], binA := [], binC := [], sheaves := [3], round := 0, ranges := [], merge := [], parked := false, wakes := []
    trapStook := false, killed := false, saved := [], savedOps := [], savedMx := [], park := (0, 0) }
def sh0 : Sheaf := Sheaf.fresh 1 0 0 0 8 96 0 0 1 0x40001000 0 none []
def cur0 : Cursor := ⟨3, 3, 0x40001000, [], none, none, []⟩
/-- Page tables that map 0x40000000 to 0x7FFFFFFF of context 0 to itself, and a core that is usable. -/
def mem0 : KV Byte := [(0x40000, 1), (0x40002, 8), (0x80000, 1), (0x80002, 9), (0x90008, 0x3F), (0x9000B, 0x40)]
def dev : State :=
  { State.reset with
    mem := mem0, rel := { RelPage.reset with ready := 0x1FFFFFFFF }, trans := { TransPage.reset with ctxbase := 0x40000 }
    cores := [(0, Core.fresh .usable)], stooks := [(1, stook0)], crops := [(2, crop0 0)], nextId := 4 }
/-- The device with the sheaf given, its path issuing. -/
def at_ (sh : Sheaf) : State := { dev with sheaves := [(3, sh)], cur := some cur0, slot := [] }
def kOf (i : Instr) (sh : Sheaf) : Ctx := ctxOf i cur0 sh 0
/-- What `Issues` asks of an instruction at that path. -/
def okAt (i : Instr) (sh : Sheaf) : Bool := !sh.frozen && (preCheck i (kOf i sh)).isNone && (kOf i sh).e != 0
theorem issues {i : Instr} {s : State} {sh : Sheaf} (h1 : s.cur = some cur0) (h2 : s.sheaf? 3 = some sh)
    (h : okAt i sh = true) (h3 : s.clock = 0 := by rfl) : Issues i s (kOf i sh) := by
  simp only [okAt, Bool.and_eq_true, Bool.not_eq_true', Option.isNone_iff_eq_none, bne_iff_ne] at h
  exact ⟨⟨cur0, h1, h2, by rw [h3]; rfl⟩, h.1.1, h.1.2, h.2⟩
theorem lanes64 {e : LaneSet} {P : Nat → Prop} (h : ∀ l < 64, e.getLsbD l = true → P l) (l : Nat) (hl : e.getLsbD l = true) : P l :=
  h l (Nat.lt_of_not_le fun h64 => by rw [BitVec.getLsbD_of_ge e l h64] at hl; exact Bool.noConfusion hl) hl

/-! ### Witnesses: the lane set, control, masks, the uniform set -/

theorem hyps_ArithmeticResults :
    (∃ i d f s k, Spec.arith i = some (d, f) ∧ i.wf = true ∧ Issues i s k) ∧
    ∃ i d f s k, Spec.arith64 i = some (d, f) ∧ i.wf = true ∧ Issues i s k :=
  ⟨⟨.iaddX64 .t (.v 95) (.v 2) .li .z32 true, _, _, at_ sh0, _, rfl, rfl, issues rfl rfl (by decide +kernel)⟩,
   ⟨.imadw .t (.v 94) (.v 2) .li .z .s32, _, _, at_ sh0, _, rfl, rfl, issues rfl rfl (by decide +kernel)⟩⟩

theorem hyps_ShiftAndBitResults :
    (∃ i d f s k, Spec.shifts i = some (d, f) ∧ i.wf = true ∧ Issues i s k) ∧
    (∃ i d f s k, Spec.bitsOf95 i = some (d, f) ∧ i.wf = true ∧ Issues i s k) ∧
    ∃ i d f s k, Spec.countsOf95 i = some (d, f) ∧ i.wf = true ∧ Issues i s k :=
  ⟨⟨.shrI64 .t .latch (.v 2) .s32 31, _, _, at_ sh0, _, rfl, rfl, issues rfl rfl (by decide +kernel)⟩,
   ⟨.bfx .t (.v 1) (.v 2) .s32 0 32, _, _, at_ sh0, _, rfl, rfl, issues rfl rfl (by decide +kernel)⟩,
   ⟨.clzB32 .t .z .z, _, _, at_ sh0, _, rfl, rfl, issues rfl rfl (by decide +kernel)⟩⟩

theorem hyps_PredicateAndMoveResults :
    (∃ i p f s k, Spec.preds i = some (p, f) ∧ i.wf = true ∧ Issues i s k) ∧
    (∃ i d f s k, Spec.moves i = some (d, f) ∧ i.wf = true ∧ Issues i s k) ∧ ∃ g a s k, Issues (.plog g (.unpack a)) s k :=
  ⟨⟨.icmp .t 6 (.v 1) .z .z32 .ge (.xor (.p 6)), _, _, at_ sh0, _, rfl, rfl, issues rfl rfl (by decide +kernel)⟩,
   ⟨.plog .t (.pack .latch), _, _, at_ sh0, _, rfl, rfl, issues rfl rfl (by decide +kernel)⟩,
   ⟨.t, .s 23, at_ sh0, _, issues rfl rfl (by decide +kernel)⟩⟩

theorem hyps_CrossLaneResults :
    (∃ g d a b ty m ok s k, (Instr.xch g d a b ty m ok).wf = true ∧ Issues (.xch g d a b ty m ok) s k) ∧
    (∃ g p a neg s k, Issues (.vote g (.any p) a neg) s k) ∧ (∃ g p a neg s k, Issues (.vote g (.all p) a neg) s k) ∧
    (∃ g d a neg s k, (Instr.vote g (.bal d) a neg).wf = true ∧ Issues (.vote g (.bal d) a neg) s k) ∧
    (∃ g d a ty all s k, (Instr.match g d a ty all).wf = true ∧ Issues (.match g d a ty all) s k) ∧
    ∃ g d a ty op s k, (Instr.redux g d a ty op).wf = true ∧ Issues (.redux g d a ty op) s k :=
  ⟨⟨.t, .v 94, .v 2, .li, .s64, .up, some 6, at_ sh0, _, rfl, issues rfl rfl (by decide +kernel)⟩,
   ⟨.t, 6, .t, true, at_ sh0, _, issues rfl rfl (by decide +kernel)⟩, ⟨.t, 0, .p 6, false, at_ sh0, _, issues rfl rfl (by decide +kernel)⟩,
   ⟨.t, .v 94, .t, false, at_ sh0, _, rfl, issues rfl rfl (by decide +kernel)⟩,
   ⟨.t, .z, .v 94, .z64, true, at_ sh0, _, rfl, issues rfl rfl (by decide +kernel)⟩,
   ⟨.t, .latch, .v 95, .z32, .xor, at_ sh0, _, rfl, issues rfl rfl (by decide +kernel)⟩⟩

theorem hyps_FloatResults :
    (∃ i d f s k, Spec.floats i = some (d, f) ∧ i.wf = true ∧ Issues i s k) ∧
    ∃ g d a b ty c x hi s k, (Instr.fcmp g d a b ty c x hi).wf = true ∧ Issues (.fcmp g d a b ty c x hi) s k :=
  ⟨⟨.ffma .t (.v 1) (.v 2) (.v 3) .z .bf16 .rd, _, _, at_ sh0, _, rfl, rfl, issues rfl rfl (by decide +kernel)⟩,
   ⟨.t, 6, .v 95, .z, .bf16, .nan, .and .t, true, at_ sh0, _, rfl, issues rfl rfl (by decide +kernel)⟩⟩

theorem hyps_ConversionResults :
    (∃ g d a b dt st rm s k, (Instr.cvt g d a b dt st rm).wf = true ∧ Issues (.cvt g d a b dt st rm) s k) ∧
    ∃ g d a b c dt st s k, (Instr.cvtsr g d a b c dt st).wf = true ∧ Issues (.cvtsr g d a b c dt st) s k :=
  ⟨⟨.t, .v 88, .v 1, .v 0, .f32, .s4, .rn, at_ sh0, _, rfl, issues rfl rfl (by decide +kernel)⟩,
   ⟨.t, .latch, .v 94, .v 92, .v 92, .e2m1, .f16, at_ sh0, _, rfl, issues rfl rfl (by decide +kernel)⟩⟩

theorem hyps_BranchTargets : (∃ g off s k, Issues (.braB32 g off) s k) ∧ (∃ g imm s k, Issues (.braI64 g imm) s k) ∧
    ∃ i g off imm s cur sh k, (i = .braB32 g off ∨ i = .braI64 g imm) ∧ Spec.Stands i s cur sh k ∧ k.e = 0 :=
  ⟨⟨.t, 0x200000, at_ sh0, _, issues rfl rfl (by decide +kernel)⟩, ⟨.t, 0x7FFFFFFF, at_ sh0, _, issues rfl rfl (by decide +kernel)⟩,
   ⟨.braB32 (.p 6) 1, .p 6, 1, 1, at_ sh0, cur0, sh0, _, .inl rfl, ⟨rfl, rfl, rfl, rfl⟩, by decide +kernel⟩⟩

/-- Lane 1 holds a target that is not a multiple of 4. -/
def shOdd : Sheaf := { sh0 with regs := [(64 * 2, 4), (64 * 2 + 1, 0xFFFFFFFE)] }
theorem hyps_CallsAndReturns :
    ((∃ i g a s k, (i = .brx g a ∨ i = .retB32 g a ∨ i = .retX64 g a) ∧ Issues i s k ∧
      ∀ l, k.e.getLsbD l = true → (k.pairA a l).toNat % 4 = 0) ∧
     (∃ g d a s k, (Instr.callx g d a).wf = true ∧ Issues (.callx g d a) s k ∧
      ∀ l, k.e.getLsbD l = true → (k.pairA a l).toNat % 4 = 0) ∧
     ∃ g d imm s k, (Instr.call g d imm).wf = true ∧ Issues (.call g d imm) s k) ∧
    ∃ i g d a s k, (i = .brx g a ∨ i = .retB32 g a ∨ i = .retX64 g a ∨ i = .callx g d a) ∧ Issues i s k ∧
      ∃ l, k.e.getLsbD l = true ∧ (k.pairA a l).toNat % 4 ≠ 0 :=
  ⟨⟨⟨.retX64 .t (.v 2), .t, .v 2, at_ sh0, kOf (.retX64 .t (.v 2)) sh0, .inr (.inr rfl), issues rfl rfl (by decide +kernel), lanes64 (by decide +kernel)⟩,
    ⟨.t, .v 94, .v 94, at_ sh0, kOf (.callx .t (.v 94) (.v 94)) sh0, rfl, issues rfl rfl (by decide +kernel), lanes64 (by decide +kernel)⟩,
    ⟨.t, .z, 0x80000000, at_ sh0, _, rfl, issues rfl rfl (by decide +kernel)⟩⟩,
   ⟨.callx .t (.v 94) (.v 2), .t, .v 94, .v 2, at_ shOdd, kOf (.callx .t (.v 94) (.v 2)) shOdd, .inr (.inr (.inr rfl)),
    issues rfl rfl (by decide +kernel), 1, by decide +kernel⟩⟩

theorem hyps_NopEffect : ∃ i g s k, (i = .nopB32 g ∨ i = .nopX64 g) ∧ Issues i s k :=
  ⟨.nopX64 .t, .t, at_ sh0, _, .inr rfl, issues rfl rfl (by decide +kernel)⟩
theorem hyps_ExitAndYield :
    (∃ i g s k, (i = .exitB32 g ∨ i = .exitX64 g) ∧ Issues i s k) ∧ ∃ i g s k, (i = .yieldB32 g ∨ i = .yieldX64 g) ∧ Issues i s k :=
  ⟨⟨.exitB32 .t, .t, at_ sh0, _, .inl rfl, issues rfl rfl (by decide +kernel)⟩,
   ⟨.yieldX64 .t, .t, at_ sh0, _, .inr rfl, issues rfl rfl (by decide +kernel)⟩⟩
theorem hyps_MaskOfCurrent : (∃ i g m s k, (i = .mkcurB32 g m ∨ i = .mkcurX64 g m) ∧ Issues i s k) ∧
    ∃ i g m s cur sh k, (i = .mkcurB32 g m ∨ i = .mkcurX64 g m) ∧ Spec.Stands i s cur sh k ∧ k.e = 0 :=
  ⟨⟨.mkcurX64 .t 11, .t, 11, at_ sh0, _, .inr rfl, issues rfl rfl (by decide +kernel)⟩,
   ⟨.mkcurB32 (.p 6) 11, .p 6, 11, at_ sh0, cur0, sh0, _, .inl rfl, ⟨rfl, rfl, rfl, rfl⟩, by decide +kernel⟩⟩
theorem hyps_MaskOperations :
    (∃ i g m s k, (i = .leaveB32 g m ∨ i = .leaveX64 g m) ∧ Issues i s k) ∧ (∃ g d x s k, Issues (.mklog g d x) s k) ∧
    (∃ g m a s k, Issues (.stomk g m a) s k) ∧ ∃ g d m s k, (Instr.mktos g d m).wf = true ∧ Issues (.mktos g d m) s k :=
  ⟨⟨.leaveB32 .t 0, .t, 0, at_ sh0, _, .inl rfl, issues rfl rfl (by decide +kernel)⟩,
   ⟨.t, 11, .not 0, at_ sh0, _, issues rfl rfl (by decide +kernel)⟩, ⟨.t, 11, .v 94, at_ sh0, _, issues rfl rfl (by decide +kernel)⟩,
   ⟨.t, .v 94, 11, at_ sh0, _, rfl, issues rfl rfl (by decide +kernel)⟩⟩
theorem hyps_HeldLanes :
    (∃ i g m s k, (i = .joinB32 g m ∨ i = .joinX64 g m) ∧ Issues i s k) ∧ ∃ g m s k, Issues (.waitm g m) s k :=
  ⟨⟨.joinX64 .t 11, .t, 11, at_ { sh0 with m := [(11, 1)] }, _, .inr rfl, issues rfl rfl (by decide +kernel)⟩,
   ⟨.t, 0, at_ { sh0 with m := [(0, 2)] }, _, issues rfl rfl (by decide +kernel)⟩⟩

theorem hyps_UniformResults :
    ((∃ i d f s k, Spec.uniform i = some (d, f) ∧ i.wf = true ∧ Issues i s k) ∧
     ∃ i d f s k, Spec.uniform64 i = some (d, f) ∧ i.wf = true ∧ Issues i s k) ∧
    (∃ g d a b ty c x s k, (Instr.scmp g d a b ty c x).wf = true ∧ Issues (.scmp g d a b ty c x) s k) ∧
    ∃ i g d a b ty s k, (i = .lanewrB32 g d a b ∨ i = .lanewrX64 g d a b ty) ∧ i.wf = true ∧ Issues i s k :=
  ⟨⟨⟨.lanerdX64 .t (.s 23) (.v 95) (.s 0) .s32, _, _, at_ sh0, _, rfl, rfl, issues rfl rfl (by decide +kernel)⟩,
    ⟨.sleaX64 .t (.s 22) (.s 0) (.s 1) .z32 7, _, _, at_ sh0, _, rfl, rfl, issues rfl rfl (by decide +kernel)⟩⟩,
   ⟨.t, 6, .s 0, .z, .s32, .lt, .or (.p 0), at_ sh0, _, rfl, issues rfl rfl (by decide +kernel)⟩,
   ⟨.lanewrB32 .t (.v 95) (.s 0) (.s 1), .t, .v 95, .s 0, .s 1, .s32, at_ sh0, _, .inl rfl, rfl, issues rfl rfl (by decide +kernel)⟩⟩
/-! ### Witnesses: quantisation, chaff, bins -/

def shDq : Sheaf := { sh0 with s := [(0, 0x20), (1, 0x40)] }
theorem hyps_BlockQuantisation : ∃ g a b c hi rowA colA s k st ro co, (Instr.dquant g a b c hi rowA colA).wf = true ∧
    Issues (.dquant g a b c hi rowA colA) s k ∧ s.stookOf k.sh = some st ∧
    (Spec.SB k b).toNat % 32 = 0 ∧ (Spec.SC k c).toNat % 32 = 0 ∧ (Spec.SB k b).toNat < 2 ^ 24 ∧ (Spec.SC k c).toNat < 2 ^ 24 ∧
    s.binPlace st k.sh.uid (if rowA then .a else .w) (Spec.SB k b).toNat 1056 = some (k.sh.uid, ro) ∧
    s.binPlace st k.sh.uid (if colA then .a else .w) (Spec.SC k c).toNat 1056 = some (k.sh.uid, co) :=
  ⟨.t, 80, .s 0, .s 1, true, true, true, at_ shDq, kOf (.dquant .t 80 (.s 0) (.s 1) true true true) shDq, stook0, 0x20, 0x40, rfl,
   issues rfl rfl (by decide +kernel), rfl, by decide +kernel⟩

/-- One lane more than a push leaves on chip: full stacks of fifteen, and top entries of a kind. -/
def shCh (tag : Byte) (n : Nat) : Sheaf :=
  { sh0 with lanes := (List.range 8).map (fun l => (l, { Lane.fresh 0x40001000 with depth := n, chip := List.replicate n ⟨tag, 7⟩ })) }
theorem hyps_ChaffPushesAndPops :
    (∃ i d f s k, Spec.pushes i = some (d, f) ∧ i.wf = true ∧ Issues i s k ∧
      ∀ l, k.e.getLsbD l = true → (k.sh.lane l).depth < s.chCapacity k.sh l ∧ (k.sh.lane l).chip.length < 16) ∧
    (∃ i d f s k, Spec.undo i = some (d, f) ∧ i.wf = true ∧ Issues i s k ∧
      ∀ l, k.e.getLsbD l = true → ∃ x r, (k.sh.lane l).chip = x :: r ∧ 0 < (k.sh.lane l).depth ∧
        (x.tag = (Spec.pairOfTags i).1 ∨ x.tag = (Spec.pairOfTags i).2)) ∧
    ∃ g a s k, Issues (.chdrop g a) s k ∧ ∀ l, k.e.getLsbD l = true → (Spec.A k a l).toNat ≤ (k.sh.lane l).depth :=
  ⟨⟨.raddX64 .t .latch (.v 1) (.v 2) .ru, _, _, at_ (shCh 0x20 15), kOf (.raddX64 .t .latch (.v 1) (.v 2) .ru) (shCh 0x20 15), rfl, rfl,
    issues rfl rfl (by decide +kernel), lanes64 (by decide +kernel)⟩,
   ⟨.unmulX64 .t (.v 95) (.v 1) (.v 2) .s32, _, _, at_ (shCh 0x51 1), kOf (.unmulX64 .t (.v 95) (.v 1) (.v 2) .s32) (shCh 0x51 1), rfl, rfl,
    issues rfl rfl (by decide +kernel), lanes64 (fun l hl he => ⟨⟨0x51, 7⟩, [], by revert l; decide +kernel⟩)⟩,
   ⟨.t, .li, at_ (shCh 0x20 1), kOf (.chdrop .t .li) (shCh 0x20 1), issues rfl rfl (by decide +kernel), lanes64 (by decide +kernel)⟩⟩

theorem hyps_ExactRecovery : ∃ dt st, (Sys2Proof.rcvtPair dt st).isSome := ⟨.s8, .bf16, rfl⟩

theorem hyps_ChaffTraps :
    (∃ i d f s k m, Spec.pushes i = some (d, f) ∧ Issues i s k ∧
      (∀ l < 64, BitVec.getLsbD (m : LaneSet) l = (k.e.getLsbD l && decide (s.chCapacity k.sh l ≤ (k.sh.lane l).depth))) ∧ m ≠ 0) ∧
    (∃ i d f s k m, Spec.undo i = some (d, f) ∧ Issues i s k ∧
      (∀ l < 64, BitVec.getLsbD (m : LaneSet) l = (k.e.getLsbD l && decide ((k.sh.lane l).depth = 0))) ∧ m ≠ 0) ∧
    (∃ i d f s k m, Spec.undo i = some (d, f) ∧ Issues i s k ∧
      (∀ l, k.e.getLsbD l = true → (k.sh.lane l).chip ≠ [] ∧ (k.sh.lane l).depth ≠ 0) ∧
      (∀ l < 64, BitVec.getLsbD (m : LaneSet) l = (k.e.getLsbD l &&
        decide (((k.sh.lane l).chip.map (·.tag)).head? ≠ some (Spec.pairOfTags i).1) &&
        decide (((k.sh.lane l).chip.map (·.tag)).head? ≠ some (Spec.pairOfTags i).2))) ∧ m ≠ 0) ∧
    ∃ g a s k m, Issues (.chdrop g a) s k ∧
      (∀ l < 64, BitVec.getLsbD (m : LaneSet) l = (k.e.getLsbD l && decide ((k.sh.lane l).depth < (Spec.A k a l).toNat))) ∧ m ≠ 0 :=
  ⟨⟨.chpush .t .z, _, _, at_ (shCh 0xC0 1024), kOf (.chpush .t .z) (shCh 0xC0 1024), 3, rfl, issues rfl rfl (by decide +kernel), by decide +kernel⟩,
   ⟨.chpop .t (.v 0), _, _, at_ sh0, kOf (.chpop .t (.v 0)) sh0, 3, rfl, issues rfl rfl (by decide +kernel), by decide +kernel⟩,
   ⟨.chpop .t (.v 0), _, _, at_ (shCh 0x20 1), kOf (.chpop .t (.v 0)) (shCh 0x20 1), 3, rfl, issues rfl rfl (by decide +kernel),
    lanes64 (by decide +kernel), by decide +kernel⟩,
   ⟨.t, .li, at_ sh0, kOf (.chdrop .t .li) sh0, 2, issues rfl rfl (by decide +kernel), by decide +kernel⟩⟩

/-- Lane l holds an address of the last 8 bytes of a bin of 12 KiB, less 8 l. -/
def shBin : Sheaf := { sh0 with regs := [(64, 12288 - 8), (65, 12288 - 16)] }
theorem binsAt (i : Instr) (b : BinId) (he : (kOf i shBin).e = 3) (n : Nat)
    (hn : n = 4 ∨ n = 8) : Spec.BinsAt (at_ shBin) (kOf i shBin) b (.v 1) 0 n (fun l => (1, 12288 - 8 - 8 * l)) := by
  refine ⟨stook0, rfl, fun l hl => ?_⟩
  rw [he] at hl
  have hp : ∀ l < 2, (at_ shBin).binPlace stook0 1 b (shBin.readReg (.v 1) l 0).toNat n = some (1, 12288 - 8 - 8 * l) := by
    obtain rfl | rfl := hn <;> cases b <;> decide +kernel
  have h2 : l < 2 := lanes64 (e := 3) (P := fun l => l < 2) (by decide +kernel) l hl
  have ha : Spec.binAddr (kOf i shBin) (.v 1) 0 l = (shBin.readReg (.v 1) l 0).toNat := by
    simp [Spec.binAddr, Spec.A, Ctx.opA, kOf, ctxOf, cur0]
  rw [ha]
  have h8 : ∀ l < 2, (shBin.readReg (.v 1) l 0).toNat % 8 = 0 := by decide +kernel
  have := h8 l h2
  refine ⟨?_, rfl, hp l h2⟩
  obtain rfl | rfl := hn <;> omega
theorem hyps_BinLoadsAndStores :
    (∃ i b d a size off sx s k p, Spec.binLoads i = some (b, d, a, size, off, sx) ∧ i.wf = true ∧ Issues i s k ∧
      Spec.BinsAt s k b a off size.bytes p) ∧
    ∃ i b a dat size off s k p, Spec.binStores i = some (b, a, dat, size, off) ∧ i.wf = true ∧ Issues i s k ∧
      Spec.BinsAt s k b a off size.bytes p :=
  ⟨⟨.ldw .t (.v 2) (.v 1) .b64 0, _, _, _, _, _, _, at_ shBin, _, _, rfl, rfl, issues rfl rfl (by decide +kernel),
    binsAt (.ldw .t (.v 2) (.v 1) .b64 0) .w (by decide +kernel) 8 (.inr rfl)⟩,
   ⟨.stc .t (.v 1) (.v 94) .b64 0, _, _, _, _, _, at_ shBin, _, _, rfl, rfl, issues rfl rfl (by decide +kernel),
    binsAt (.stc .t (.v 1) (.v 94) .b64 0) .c (by decide +kernel) 8 (.inr rfl)⟩⟩
theorem quiet (i : Instr) (sh : Sheaf) (h : sh.flights = []) (hc : sh.core = 0) (hf : ∀ l < 64, (sh.lane l).failed = []) : Spec.Quiet (at_ sh) (kOf i sh) :=
  ⟨h, rfl, by show (State.barn (at_ sh) (barnOf sh.core)).gather = []; rw [hc]; rfl, hf⟩
theorem portsFree (sh : Sheaf) : Spec.PortsFree (at_ sh) := by
  intro c
  show ((KV.getD [(0, Core.fresh .usable)] c (Core.fresh (fusedSt c))).ports.getD (BinId.code .a) 0) ≤ 0
  by_cases h : 0 = c <;> simp [KV.getD, KV.find?, h, Core.fresh]
theorem hyps_BinAtomics : ∃ g op d a b size scope order off s k p, (Instr.aatom g op d a b size scope order off).wf = true ∧
    Issues (.aatom g op d a b size scope order off) s k ∧ Spec.BinsAt s k .a a off size.bytes p ∧
    (releases order = true → Spec.Quiet s k) ∧ (acquires order = true → k.sh.flights = []) ∧
    (releases order = true ∨ acquires order = true → Spec.PortsFree s) :=
  ⟨.t, .incw, .v 94, .v 1, .v 2, .b64, .bn, .ar, 0, at_ shBin, _, _, rfl, issues rfl rfl (by decide +kernel),
   binsAt (.aatom .t .incw (.v 94) (.v 1) (.v 2) .b64 .bn .ar 0) .a (by decide +kernel) 8 (.inr rfl),
   fun _ => quiet _ _ rfl rfl (by decide +kernel), fun _ => rfl, fun _ => portsFree _⟩
theorem hyps_BinBarriers :
    ((∃ g a b s k p, Issues (.fbinit g a b) s k ∧ Spec.BinsAt s k .a a 0 8 p) ∧
     ∃ g d a b s k p, Issues (.fbtest g d a b) s k ∧ Spec.BinsAt s k .a a 0 8 p) ∧
    (∃ g d a b s k p, (Instr.fbarr g d a b).wf = true ∧ Issues (.fbarr g d a b) s k ∧ Spec.BinsAt s k .a a 0 8 p ∧ Spec.Quiet s k ∧ Spec.PortsFree s) ∧
    ∃ g a b s k p m, Issues (.fbwait g a b) s k ∧ Spec.BinsAt s k .a a 0 8 p ∧
      ∀ l < 64, BitVec.getLsbD (m : LaneSet) l = (k.e.getLsbD l && decide ((Spec.barrierAt s (p l)).phase ≠ (Spec.B k b l).toNat % 2)) :=
  ⟨⟨⟨.t, .v 1, .z, at_ shBin, _, _, issues rfl rfl (by decide +kernel),
     binsAt (.fbinit .t (.v 1) .z) .a (by decide +kernel) 8 (.inr rfl)⟩,
    ⟨.t, 6, .v 1, .li, at_ shBin, _, _, issues rfl rfl (by decide +kernel),
     binsAt (.fbtest .t 6 (.v 1) .li) .a (by decide +kernel) 8 (.inr rfl)⟩⟩,
   ⟨.t, .v 95, .v 1, .z, at_ shBin, _, _, rfl, issues rfl rfl (by decide +kernel),
    binsAt (.fbarr .t (.v 95) (.v 1) .z) .a (by decide +kernel) 8 (.inr rfl), quiet _ _ rfl rfl (by decide +kernel), portsFree _⟩,
   ⟨.t, .v 1, .li, at_ shBin, kOf (.fbwait .t (.v 1) .li) shBin, _, 2, issues rfl rfl (by decide +kernel),
    binsAt (.fbwait .t (.v 1) .li) .a (by decide +kernel) 8 (.inr rfl), by decide +kernel⟩⟩
/-! ### Witnesses: global memory -/

theorem xok {P : List Spec.Xa → State → Prop} [∀ xs s, Decidable (P xs s)] {r : Xres × State}
    (h : (match r.1 with | .ok xs => decide (P xs r.2) | _ => false) = true) : ∃ xs s1, r = (.ok xs, s1) ∧ P xs s1 := by
  obtain ⟨x, s1⟩ := r
  cases x with
  | ok xs => exact ⟨xs, s1, rfl, of_decide_eq_true h⟩
  | trap => simp at h
  | park => simp at h
abbrev localB (s : State) (xs : List Spec.Xa) : Prop := ∀ x ∈ xs, x.2.2.1 < 2 ^ 51 ∧ x.2.2.2.2.2 = false ∧ s.dieWaits x.2.2.2.2.1 = false
/-- Four-byte words of an L1, valid; `o` says whether the barn owns them. -/
def l1At (o : Bool) (pa n : Nat) : KV L1Word :=
  (List.range n).map (fun j => (pa / 4 + j, ⟨BitVec.ofNat 32 (j + 1), true, o, [], if o then 0xF else 0, 0, .sh, 0, 0x90008, 0, []⟩))
/-- Lane 0 holds the address of the last 16 bytes of a page, lane 1 that of the next page; v4 holds lengths or data. -/
def shG : Sheaf := { sh0 with regs := [(128, 0x40001FF0), (129, 0x40002000), (256, 16), (257, 0)], s := [(2, 0x40001FF0), (4, 1)] }
def devG (o : Bool) (sh : Sheaf) : State := { at_ sh with barns := [(0, { Barn.empty with words := l1At o 0x40001FF0 8 })] }
/-- What `Idle` asks, as far as it is decided. -/
def idleB (s : State) (k : Ctx) (rel : Bool) : Bool :=
  k.sh.flights.isEmpty && k.sh.phases.isEmpty && k.sh.watch.isEmpty && k.sh.spurious == 0 && (s.barn (barnOf k.sh.core)).gather.isEmpty &&
  (s.barn (barnOf k.sh.core)).evict.isEmpty && (match s.stookOf k.sh with | some st => st.merge.isEmpty | none => true) &&
  (!rel || (!s.owes k.sid (k.e ||| k.path) && (List.range 64).all (fun l => (k.sh.lane l).failed.isEmpty)))
theorem idle {s : State} {k : Ctx} {rel : Bool} (h : idleB s k rel = true) : Spec.Idle s k rel := by
  simp only [idleB, Bool.and_eq_true, List.isEmpty_iff, beq_iff_eq] at h
  obtain ⟨⟨⟨⟨⟨⟨⟨h1, h2⟩, h3⟩, h4⟩, h5⟩, h6⟩, h7⟩, h8⟩ := h
  refine ⟨h1, h2, h3, h4, h5, h6, fun st hst => ?_, fun hr => ?_, fun hr l hl => ?_⟩
  · rw [hst] at h7; simpa using h7
  · rw [hr] at h8; simp at h8; exact h8.1
  · rw [hr] at h8; simp at h8; exact h8.2 l hl
/-- What `Roomy` asks, as far as it is decided. -/
def roomyB (s : State) (b : Nat) (xs : List Spec.Xa) (n : Nat) : Bool :=
  let own (wa : Nat) : Bool := (((s.barn b).words.find? wa).map (·.owned)).getD false
  xs.all (fun x => !s.hostHolds x.2.2.1 &&
    decide (((((s.barn b).linesOf ++ xs.map (fun (y : Spec.Xa) => y.2.2.1 / 128)).eraseDups).filter (fun l =>
      Machine.setOf l == Machine.setOf (x.2.2.1 / 128))).length ≤ 8) &&
    (List.range (n / 4 + 1)).all (fun j => own (x.2.2.1 / 4 + j) == own (x.2.2.1 / 4 + j + 1)))
theorem roomy {s : State} {b n : Nat} {xs : List Spec.Xa} (h : roomyB s b xs n = true) : Spec.Roomy s b xs n := by
  simp only [roomyB, List.all_eq_true, Bool.and_eq_true, Bool.not_eq_true', decide_eq_true_eq, beq_iff_eq, List.mem_range] at h
  refine ⟨fun x hx => (h x hx).1.1, fun x hx => (h x hx).1.2, fun _ x hx wa h1 h2 _ => ?_⟩
  obtain ⟨j, rfl⟩ := Nat.exists_eq_add_of_le h1
  exact (h x hx).2 j (by omega)
theorem quietG (o : Bool) (i : Instr) (sh : Sheaf) (h : sh.flights = []) (hc : sh.core = 0) (hf : ∀ l < 64, (sh.lane l).failed = []) :
    Spec.Quiet (devG o sh) (kOf i sh) :=
  ⟨h, rfl, by show (State.barn (devG o sh) (barnOf sh.core)).gather = []; rw [hc]; rfl, hf⟩
theorem hyps_LoadsThatHit :
    (∃ i g d a size scope acq off sx s k xs s1, (i = .ldg g d a size scope acq off ∧ sx = false ∨
      i = .ldgSigned g d a size scope acq off ∧ sx = true) ∧ i.wf = true ∧ Issues i s k ∧
      Spec.Aligned (laneAddrs k a off) size.bytes ∧
      s.xlateLanes (some k.sh.core) k.ctx .read (laneAddrs k a off) = (.ok xs, s1) ∧
      Spec.Local s1 xs ∧ Spec.Idle s1 k false ∧ (∀ x ∈ xs, ((s1.barn (barnOf k.sh.core)).hit x.2.2.1 size.bytes acq).isSome)) ∧
    ∃ g d a size scope acq off sx s k xs s1, (Instr.ldgU g sx d a size scope acq off).wf = true ∧
      Issues (.ldgU g sx d a size scope acq off) s k ∧ Spec.Aligned (uniAddr k a off) size.bytes ∧
      s.xlateLanes (some k.sh.core) k.ctx .read (uniAddr k a off) = (.ok xs, s1) ∧
      Spec.Local s1 xs ∧ Spec.Idle s1 k false ∧ (∀ x ∈ xs, ((s1.barn (barnOf k.sh.core)).hit x.2.2.1 size.bytes acq).isSome) := by
  constructor
  · let i : Instr := .ldg .t (.v 92) (.v 2) .b128 .st true 0
    have ⟨xs, s1, h, hl, hi, hh⟩ := xok (r := (devG true shG).xlateLanes (some 0) 0 .read (laneAddrs (kOf i shG) (.v 2) 0))
      (P := fun xs s1 => localB s1 xs ∧ idleB s1 (kOf i shG) false = true ∧ ∀ x ∈ xs, ((s1.barn (barnOf (kOf i shG).sh.core)).hit x.2.2.1 Size.b128.bytes true).isSome) (by decide +kernel)
    exact ⟨i, _, _, _, _, _, _, _, false, _, kOf i shG, xs, s1, .inl ⟨rfl, rfl⟩, rfl, issues rfl rfl (by decide +kernel),
      by unfold Spec.Aligned; decide +kernel, h, hl, idle hi, hh⟩
  · let i : Instr := .ldgU .t false (.s 20) (.s 2) .b128 .sh false 16
    have ⟨xs, s1, h, hl, hi, hh⟩ := xok (r := (devG false shG).xlateLanes (some 0) 0 .read (uniAddr (kOf i shG) (.s 2) 16))
      (P := fun xs s1 => localB s1 xs ∧ idleB s1 (kOf i shG) false = true ∧ ∀ x ∈ xs, ((s1.barn (barnOf (kOf i shG).sh.core)).hit x.2.2.1 Size.b128.bytes false).isSome) (by decide +kernel)
    exact ⟨.t, .s 20, .s 2, .b128, .sh, false, 16, false, devG false shG, kOf i shG, xs, s1, rfl, issues rfl rfl (by decide +kernel),
      by unfold Spec.Aligned; decide +kernel, h, hl, idle hi, hh⟩

theorem admitted (s : State) (k : Ctx) (xs : List Spec.Xa) (n : Nat)
    (h : (match s.stookOf k.sh with
      | some st => match s.cropOf st with
        | some c => !c.det
        | none => true
      | none => true) = true) : Spec.Admitted s k xs n := by
  intro st c h1 h2
  rw [h1] at h
  simp only [h2, Bool.not_eq_true'] at h
  exact ⟨fun x _ => by simp [Stook.storeRefused, h], by simp [h]⟩
theorem hyps_StoresIntoL1 : ∃ i as, ∃ dat : Nat → Nat → Byte, ∃ size rel s k xs s1,
    ((∃ g a b scope off, i = .stg g a b size scope rel off ∧ as = laneAddrs k a off ∧ dat = fun l j => Spec.groupByte k b l j) ∨
     (∃ g a b scope off, i = .stgU g a b size scope rel off ∧ as = uniAddr k a off ∧ dat = fun _ j => Spec.groupByte k b.reg 0 j)) ∧
    i.wf = true ∧ Issues i s k ∧ Spec.Aligned as size.bytes ∧
    s.xlateLanes (some k.sh.core) k.ctx .write as = (.ok xs, s1) ∧
    Spec.Local s1 xs ∧ Spec.Idle s1 k rel ∧ Spec.Admitted s1 k xs size.bytes ∧ Spec.Roomy s1 (barnOf k.sh.core) xs size.bytes := by
  let i : Instr := .stg .t (.v 2) (.v 4) .b128 .di true 0
  have ⟨xs, s1, h, hl, hi, hr, hh⟩ := xok (r := (devG false shG).xlateLanes (some 0) 0 .write (laneAddrs (kOf i shG) (.v 2) 0))
    (P := fun xs s1 => localB s1 xs ∧ idleB s1 (kOf i shG) true = true ∧ roomyB s1 (barnOf (kOf i shG).sh.core) xs Size.b128.bytes = true ∧
      (match s1.stookOf shG with
      | some st => match s1.cropOf st with
        | some c => !c.det
        | none => true
      | none => true) = true) (by decide +kernel)
  exact ⟨i, _, _, _, _, _, kOf i shG, xs, s1, .inl ⟨_, _, _, _, _, rfl, rfl, rfl⟩, rfl, issues rfl rfl (by decide +kernel),
    by unfold Spec.Aligned; decide +kernel, h, hl, idle hi, admitted _ _ _ _ hh, roomy hr⟩

theorem notRefused (s : State) (k : Ctx) (h : (match s.stookOf k.sh with
      | some st => match s.cropOf st with
        | some c => !c.det
        | none => true
      | none => true) = true) : ∀ st c, s.stookOf k.sh = some st → s.cropOf st = some c → st.atomicRefused c = false := by
  intro st c h1 h2
  rw [h1] at h
  simp only [h2, Bool.not_eq_true'] at h
  simp [Stook.atomicRefused, h]
theorem hyps_AtomicsInTheOwner : ∃ i a b size off o f s k xs s1, Spec.atomStep i = some (a, b, size, off, f) ∧ off = .off o ∧ i.wf = true ∧
    Issues i s k ∧ Spec.Aligned (Spec.atomAddrs k a o) size.bytes ∧
    s.xlateLanes (some k.sh.core) k.ctx .atomic (Spec.atomAddrs k a o) = (.ok xs, s1) ∧
    Spec.Local s1 xs ∧ Spec.Idle s1 k (relScope i).isSome ∧
    (∀ st c, s1.stookOf k.sh = some st → s1.cropOf st = some c → st.atomicRefused c = false) ∧
    (∀ x ∈ xs, s1.hostHolds x.2.2.1 = false ∧ (s1.barn (barnOf k.sh.core)).ownsAll x.2.2.1 size.bytes = true ∧
      ((s1.barn (barnOf k.sh.core)).hit x.2.2.1 size.bytes false).isSome ∧
      ∀ wa ∈ wordsOf x.2.2.1 size.bytes, s1.isLost wa = false) := by
  let i : Instr := .cas .t (.v 94) (.v 2) (.v 4) .b64 .pk .ar (.off 8)
  have ⟨xs, s1, h, hl, hi, hr, hh⟩ := xok (r := (devG true shG).xlateLanes (some 0) 0 .atomic (Spec.atomAddrs (kOf i shG) (.v 2) 8))
    (P := fun xs s1 => localB s1 xs ∧ idleB s1 (kOf i shG) true = true ∧ (match s1.stookOf shG with
      | some st => match s1.cropOf st with
        | some c => !c.det
        | none => true
      | none => true) = true ∧ ∀ x ∈ xs, s1.hostHolds x.2.2.1 = false ∧ (s1.barn (barnOf (kOf i shG).sh.core)).ownsAll x.2.2.1 Size.b64.bytes = true ∧
      ((s1.barn (barnOf (kOf i shG).sh.core)).hit x.2.2.1 Size.b64.bytes false).isSome ∧ ∀ wa ∈ wordsOf x.2.2.1 Size.b64.bytes, s1.isLost wa = false) (by decide +kernel)
  exact ⟨i, _, _, _, _, 8, _, _, kOf i shG, xs, s1, rfl, rfl, rfl, issues rfl rfl (by decide +kernel),
    by unfold Spec.Aligned; decide +kernel, h, hl, idle hi, notRefused _ _ hr, hh⟩

/-- What `NoPhase` asks, as far as it is decided. -/
def noPhaseB (s : State) (b : Nat) (xs : List Spec.Xa) (n : Nat) : Bool :=
  xs.all (fun x => (wordsOf x.2.2.1 n).all (fun wa => match (s.barn b).words.find? wa with
    | some w => w.phase.isEmpty
    | none => true))
theorem noPhase {s : State} {b n : Nat} {xs : List Spec.Xa} (h : noPhaseB s b xs n = true) : Spec.NoPhase s b xs n := by
  intro x hx wa hwa w hw
  simp only [noPhaseB, List.all_eq_true] at h
  have := h x hx wa hwa
  rw [hw] at this
  simpa using this
theorem hyps_WaitsAndWakes :
    (∃ g d a b size scope acq o s k xs s1, (Instr.waita g d a b size scope acq (.off o)).wf = true ∧
      Issues (.waita g d a b size scope acq (.off o)) s k ∧ Spec.Aligned (Spec.atomAddrs k a o) size.bytes ∧
      s.xlateLanes (some k.sh.core) k.ctx .read (Spec.atomAddrs k a o) = (.ok xs, s1) ∧
      Spec.Local s1 xs ∧ Spec.Idle s1 k false ∧ (∀ x ∈ xs, ∀ wa ∈ wordsOf x.2.2.1 size.bytes, s1.isLost wa = false) ∧
      Spec.NoPhase s1 (barnOf k.sh.core) xs size.bytes) ∧
    ∃ g d a b o s k xs s1, (Instr.wake g d a b (.off o)).wf = true ∧ Issues (.wake g d a b (.off o)) s k ∧
      Spec.Aligned (Spec.atomAddrs k a o) 4 ∧
      s.xlateLanes (some k.sh.core) k.ctx .read (Spec.atomAddrs k a o) = (.ok xs, s1) ∧
      Spec.Local s1 xs ∧ Spec.Idle s1 k true ∧ (∀ x ∈ xs, ∀ wa ∈ wordsOf x.2.2.1 4, s1.isLost wa = false) ∧
      Spec.NoPhase s1 (barnOf k.sh.core) xs 4 := by
  constructor
  · let i : Instr := .waita .t (.v 94) (.v 2) (.v 4) .b64 .st true (.off 8)
    have ⟨xs, s1, h, hl, hi, hh, hp⟩ := xok (r := (devG false shG).xlateLanes (some 0) 0 .read (Spec.atomAddrs (kOf i shG) (.v 2) 8))
      (P := fun xs s1 => localB s1 xs ∧ idleB s1 (kOf i shG) false = true ∧ (∀ x ∈ xs, ∀ wa ∈ wordsOf x.2.2.1 Size.b64.bytes, s1.isLost wa = false) ∧ noPhaseB s1 (barnOf (kOf i shG).sh.core) xs Size.b64.bytes = true) (by decide +kernel)
    exact ⟨_, _, _, _, _, _, _, 8, _, kOf i shG, xs, s1, rfl, issues rfl rfl (by decide +kernel),
      by unfold Spec.Aligned; decide +kernel, h, hl, idle hi, hh, noPhase hp⟩
  · let i : Instr := .wake .t .z (.v 2) (.v 4) (.off 12)
    have ⟨xs, s1, h, hl, hi, hh, hp⟩ := xok (r := (devG false shG).xlateLanes (some 0) 0 .read (Spec.atomAddrs (kOf i shG) (.v 2) 12))
      (P := fun xs s1 => localB s1 xs ∧ idleB s1 (kOf i shG) true = true ∧ (∀ x ∈ xs, ∀ wa ∈ wordsOf x.2.2.1 4, s1.isLost wa = false) ∧ noPhaseB s1 (barnOf (kOf i shG).sh.core) xs 4 = true) (by decide +kernel)
    exact ⟨_, _, _, _, 12, _, kOf i shG, xs, s1, rfl, issues rfl rfl (by decide +kernel),
      by unfold Spec.Aligned; decide +kernel, h, hl, idle hi, hh, noPhase hp⟩

theorem hyps_Invalidations :
    (∃ g sc s k, Issues (.inva g sc) s k) ∧
    (∃ g a b sc off s k xs s1, Issues (.invr g a b sc off) s k ∧
      s.xlateLanes (some k.sh.core) k.ctx .read ((laneRanges k a b off).flatMap (fun e =>
        (pieces e.2.1.toNat e.2.2).map (fun p => (e.1, p.1)))) = (.ok xs, s1) ∧
      (s1.barn (barnOf k.sh.core)).words.sorted = true) ∧
    ∃ g a b off s k, Issues (.pfl1 g a b off) s k := by
  refine ⟨⟨.t, .sy, devG false shG, kOf (.inva .t .sy) shG, issues rfl rfl (by decide +kernel)⟩, ?_,
    ⟨.t, .v 2, .v 4, 0, devG false shG, kOf (.pfl1 .t (.v 2) (.v 4) 0) shG, issues rfl rfl (by decide +kernel)⟩⟩
  let i : Instr := .invr .t (.v 2) (.v 4) .sy 0
  have ⟨xs, s1, h, hl⟩ := xok (r := (devG false shG).xlateLanes (some 0) 0 .read ((laneRanges (kOf i shG) (.v 2) (.v 4) 0).flatMap (fun e =>
        (pieces e.2.1.toNat e.2.2).map (fun p => (e.1, p.1)))))
    (P := fun _ s1 => (s1.barn (barnOf (kOf i shG).sh.core)).words.sorted = true) (by decide +kernel)
  exact ⟨_, _, _, _, _, _, kOf i shG, xs, s1, issues rfl rfl (by decide +kernel), h, hl⟩

/-- A word of the phase 7, written in part. -/
def devPh (sh : Sheaf) : State := { at_ sh with barns := [(0, { Barn.empty with words := [(0x10000800, ⟨5, false, false, [7], 3, 0, .bn, 0, 0x90008, 0, []⟩)] })] }
def shPh : Sheaf := { sh0 with regs := [(128, 0x40002000), (129, 0x40002080), (256, 128), (257, 256)], phases := [⟨7, 0x40002000, 128⟩] }
theorem hyps_PhasesAndFences :
    ((∃ g a b off s k l, Issues (.phbeg g a b off) s k ∧ (lanesOf k.e).head? = some l ∧
      (∀ j, k.e.getLsbD j = true → (k.addr a off j).toNat % 128 = 0 ∧ (Spec.B k b j).toNat % 128 = 0)) ∧
     ∃ g a b off s k l p, Issues (.phend g a b off) s k ∧ (lanesOf k.e).head? = some l ∧
      (∀ j, k.e.getLsbD j = true → (k.addr a off j).toNat % 128 = 0 ∧ (Spec.B k b j).toNat % 128 = 0) ∧
      k.sh.phases.find? (fun q => q.va == k.addr a off l && q.len == (Spec.B k b l).toNat) = some p ∧
      Spec.Quiet s k ∧ (s.barn (barnOf k.sh.core)).words.sorted = true ∧
      ∃ wa w, (s.barn (barnOf k.sh.core)).words.find? wa = some w ∧ p.id ∈ w.phase) ∧
    ∃ g order scope s k, Issues (.fence g order scope) s k ∧ Spec.Quiet s k :=
  ⟨⟨⟨.t, .v 2, .v 4, 0, devG false shPh, kOf (.phbeg .t (.v 2) (.v 4) 0) shPh, 0, issues rfl rfl (by decide +kernel), by decide +kernel,
     lanes64 (by decide +kernel)⟩,
    ⟨.t, .v 2, .v 4, 0, devPh shPh, kOf (.phend .t (.v 2) (.v 4) 0) shPh, 0, ⟨7, 0x40002000, 128⟩, issues rfl rfl (by decide +kernel), by decide +kernel,
     lanes64 (by decide +kernel), by decide +kernel, ⟨rfl, rfl, rfl, by decide +kernel⟩, by decide +kernel, 0x10000800, _, rfl, by decide +kernel⟩⟩,
   ⟨.t, .ar, .sy, devG false shG, kOf (.fence .t .ar .sy) shG, issues rfl rfl (by decide +kernel), quietG _ _ _ rfl rfl (by decide +kernel)⟩⟩

/-- What MarksElsewhere asks, decided. -/
def marksB (s : State) (ctx pte pa line : Nat) : Bool :=
  decide (pte ≠ 0 → (s.place pte).canon / 128 ≠ line ∧ s.ownerOf ((s.place pte).canon / 4) = none) &&
  (match s.trans.ctxCache.find? ctx with
   | some e => match s.place pa with
     | .loc off => decide (fieldNat e 8 8 / 4096 ≠ 0 →
         (s.place (fieldNat e 8 8 / 4096 * 4096 + off / 65536 / 8)).canon / 128 ≠ line ∧
         s.ownerOf ((s.place (fieldNat e 8 8 / 4096 * 4096 + off / 65536 / 8)).canon / 4) = none)
     | _ => true
   | none => false)
theorem marks {s : State} {ctx pte pa line : Nat} (h : marksB s ctx pte pa line = true) : Spec.MarksElsewhere s ctx pte pa line := by
  simp only [marksB, Bool.and_eq_true, decide_eq_true_eq] at h
  refine ⟨h.1, ?_⟩
  have h2 := h.2
  split at h2
  · rename_i e he
    refine ⟨e, he, fun off ho h0 => ?_⟩
    rw [ho] at h2
    exact of_decide_eq_true h2 h0
  · simp at h2


/-! ### Witnesses: the chaff stack in memory -/

def shSp : Sheaf := shCh 0xC0 16
/-- Three records below an empty stack on chip; the L1 holds them. -/
def shRe : Sheaf := { sh0 with lanes := (List.range 8).map (fun l => (l, { Lane.fresh 0x40001000 with depth := 3 })) }
def reRec (_ p : Nat) : List Byte := Spec.record ⟨0xC0, 7⟩ p
def devRe : State :=
  let ws : KV L1Word := ([(0, 0), (0, 1), (0, 2), (1, 0), (1, 1), (1, 2)] : List (Nat × Nat)).foldl (fun m (x : Nat × Nat) =>
    let a := ((at_ shRe).chAddr shRe x.1 x.2).toNat / 4
    (m.put a ⟨7, true, false, [], 0, 0, .sh, 0, 0x90008, 0, []⟩).put (a + 1) ⟨BitVec.ofNat 32 (0xC0 + 256 * x.2), true, false, [], 0, 0, .sh, 0, 0x90008, 0, []⟩) []
  { at_ shRe with barns := [(0, { Barn.empty with words := ws })] }
theorem hyps_ChaffSpillsAndRefills :
    (∃ i d f s k xs s1, Spec.pushes i = some (d, f) ∧ i.wf = true ∧ Issues i s k ∧
      (∀ l, k.e.getLsbD l = true → (k.sh.lane l).depth < s.chCapacity k.sh l) ∧
      s.xlateLanes (some k.sh.core) k.ctx .write ((spills k).map (fun x => (x.1, s.chAddr k.sh x.1 x.2.1))) = (.ok xs, s1) ∧
      s1.waits = [] ∧ Spec.Idle s1 k false ∧ Spec.Local s1 xs ∧ Spec.Roomy s1 (barnOf k.sh.core) xs 8 ∧
      xs.Pairwise (fun x y => x.2.2.1 ≠ y.2.2.1) ∧
      (∀ x ∈ xs, x.2.2.1 % 8 = 0 ∧ ∀ y ∈ xs, Spec.MarksElsewhere s1 k.ctx x.2.2.2.1 x.2.2.1 (y.2.2.1 / 128)) ∧
      ∃ l, k.e.getLsbD l = true ∧ 16 ≤ (k.sh.lane l).chip.length) ∧
    ∃ i d f s k xs s1 ps, ∃ rec : Nat → Nat → List Byte, Spec.undo i = some (d, f) ∧ i.wf = true ∧ Issues i s k ∧ k.replay = none ∧
      (∀ l, k.e.getLsbD l = true → 0 < (k.sh.lane l).depth) ∧
      ps = (lanesOf k.e).flatMap (fun l => (Spec.refilled (k.sh.lane l)).map (fun p => (l, p))) ∧ ps ≠ [] ∧
      s.xlateLanes (some k.sh.core) k.ctx .read (ps.map (fun x => (x.1, s.chAddr k.sh x.1 x.2))) = (.ok xs, s1) ∧
      Spec.Local s1 xs ∧ Spec.Idle s1 k false ∧
      (∀ x ∈ xs.zip ps, ((s1.barn (barnOf k.sh.core)).hit x.1.2.2.1 8 false).map (·.1) = some (rec x.2.1 x.2.2)) ∧
      (∀ x ∈ ps, (rec x.1 x.2).length = 8 ∧ natOfBytes ((rec x.1 x.2).drop 5) = x.2 % 2 ^ 24) ∧
      ∀ l, k.e.getLsbD l = true → ∃ x r, Spec.onChip (rec l) (k.sh.lane l) = x :: r ∧
        (x.tag = (Spec.pairOfTags i).1 ∨ x.tag = (Spec.pairOfTags i).2) := by
  constructor
  · let i : Instr := .chpush .t (.v 0)
    have ⟨xs, s1, h, hw, hi, hl, hr, hp, hm⟩ := xok (r := (at_ shSp).xlateLanes (some 0) 0 .write ((spills (kOf i shSp)).map (fun x => (x.1, (at_ shSp).chAddr shSp x.1 x.2.1))))
      (P := fun xs s1 => s1.waits = [] ∧ idleB s1 (kOf i shSp) false = true ∧ localB s1 xs ∧ roomyB s1 (barnOf (kOf i shSp).sh.core) xs 8 = true ∧
        xs.Pairwise (fun x y => x.2.2.1 ≠ y.2.2.1) ∧ ∀ x ∈ xs, x.2.2.1 % 8 = 0 ∧ ∀ y ∈ xs, marksB s1 0 x.2.2.2.1 x.2.2.1 (y.2.2.1 / 128) = true) (by decide +kernel)
    exact ⟨i, _, _, at_ shSp, kOf i shSp, xs, s1, rfl, rfl, issues rfl rfl (by decide +kernel), lanes64 (by decide +kernel), h, hw, idle hi, hl, roomy hr, hp,
      fun x hx => ⟨(hm x hx).1, fun y hy => marks ((hm x hx).2 y hy)⟩, 0, by decide +kernel, by decide +kernel⟩
  · let i : Instr := .chpop .t (.v 0)
    let ps : List (Nat × Nat) := [(0, 2), (0, 1), (0, 0), (1, 2), (1, 1), (1, 0)]
    have ⟨xs, s1, h, hl, hi, hh⟩ := xok (r := devRe.xlateLanes (some 0) 0 .read (ps.map (fun x => (x.1, devRe.chAddr shRe x.1 x.2))))
      (P := fun xs s1 => localB s1 xs ∧ idleB s1 (kOf i shRe) false = true ∧
        ∀ x ∈ xs.zip ps, ((s1.barn (barnOf (kOf i shRe).sh.core)).hit x.1.2.2.1 8 false).map (·.1) = some (reRec x.2.1 x.2.2)) (by decide +kernel)
    exact ⟨i, _, _, devRe, kOf i shRe, xs, s1, ps, reRec, rfl, rfl, issues rfl rfl (by decide +kernel), rfl, lanes64 (by decide +kernel), by decide +kernel, by decide,
      h, hl, idle hi, hh, by decide +kernel, lanes64 (fun l hl he => ⟨⟨0xC0, 7⟩, [⟨0xC0, 7⟩, ⟨0xC0, 7⟩], by revert l; decide +kernel⟩)⟩
/-! ### Witnesses: tags, engines, the thresher -/

theorem Spec.tagIs_dec (s : State) (k : Ctx) (st : TagState) (t : Nat) (h : (decide (((s.core k.sh.core).tag t).holder = some k.sh.uid) &&
    decide (((s.core k.sh.core).tag t).st = st)) = true) : Spec.tagIs s k st t := by
  simpa [Spec.tagIs, Bool.and_eq_true, decide_eq_true_eq] using h
def devC (c : Core) (sh : Sheaf) : State := { at_ sh with cores := [(0, c)] }
theorem quietC (c : Core) (i : Instr) (sh : Sheaf) (h : sh.flights = []) (hc : sh.core = 0) (hf : ∀ l < 64, (sh.lane l).failed = []) :
    Spec.Quiet (devC c sh) (kOf i sh) :=
  ⟨h, rfl, by show (State.barn (devC c sh) (barnOf sh.core)).gather = []; rw [hc]; rfl, hf⟩
/-- s0:s1 a tag mask with tags 0 and 63, s4 to s7 the shape of a CPY2 and a count of 16, s8:s9 and s10:s11 addresses. -/
def shT : Sheaf := { sh0 with s := [(0, 1), (1, 0x80000000), (4, 16), (5, 2), (6, 16), (7, 16), (8, 0x40003000), (10, 0x40004000)] }
def groups0 : FabricPage := { FabricPage.reset with groups := [(255, { Group.reset with flags := 1 })] }
/-- A copy between two places of global memory is allowed where no crop is deterministic. -/
theorem copyAllowed (s : State) (k : Ctx) (o : WainOp) (ht : Spec.TagFree s k o.tag) (h : o.srcSpace = 0 ∧ o.dstSpace = 0)
    (ha : ∀ x ∈ [o.dst.toNat, o.src.toNat, o.count, o.ss, o.ds], x % o.elem = 0)
    (hd : ∀ st c, s.stookOf k.sh = some st → s.cropOf st = some c → c.det = false) : Spec.CopyAllowed s k o where
  tag := ht
  spaces := by omega
  aligned := ha
  member := by simp [h.1, h.2]
  bins := by simp [h.1, h.2]
  admitted := fun _ _ st c h1 h2 r _ => by simp [Stook.storeRefused, hd st c h1 h2]
theorem noDet {s : State} {k : Ctx} (h : (match s.stookOf k.sh with
      | some st => match s.cropOf st with
        | some c => !c.det
        | none => true
      | none => true) = true) : ∀ st c, s.stookOf k.sh = some st → s.cropOf st = some c → c.det = false := by
  intro st c h1 h2
  rw [h1] at h
  simpa only [h2, Bool.not_eq_true'] using h
theorem hyps_CopiesAndCollectives :
    (∃ i t kind a b c w3 s k, Spec.copies i = some (t, kind, a, b, c, w3) ∧ i.wf = true ∧ Issues i s k ∧
      (s.core k.sh.core).wainQ.length + (s.core k.sh.core).wainRun.length < 16 ∧ Spec.Housed s k ∧ Spec.Quiet s k ∧
      Spec.CopyAllowed s k (Spec.copyOp s k t kind a b (c k) w3)) ∧
    (∃ g a c s k t, Issues (.pfl2 g (.tag t) a c) s k ∧ Spec.Quiet s k ∧
      (s.pfl2.filter (fun o => o.die == dieOf k.sh.core)).length < 64 ∧ Spec.TagFree s k t.val) ∧
    (∃ g a c s k b, Issues (.pfl2 g (.cc b) a c) s k ∧ Spec.Quiet s k ∧
      (s.pfl2.filter (fun o => o.die == dieOf k.sh.core)).length < 64 ∧ (k.pairB (SReg.reg b) 0).toNat % 8 = 0) ∧
    ∃ g t a b c ty op kind grp s k st cr, (Instr.coll g t a b c ty op kind grp).wf = true ∧
      Issues (.coll g t a b c ty op kind grp) s k ∧ Spec.Quiet s k ∧ Spec.Housed s k ∧
      Spec.TagFree s k t.val ∧ s.stookOf k.sh = some st ∧ s.cropOf st = some cr ∧
      (s.group grp.val).flags % 2 = 1 ∧ cr.part = (s.group grp.val).flags / 2 % 16 ∧ (s.group grp.val).ctx = k.ctx ∧
      (Spec.SC k c).toNat ≤ 1048576 ∧ (k.pairA a.reg 0).toNat % (ty.bits / 8) = 0 ∧ (k.pairB b.reg 0).toNat % (ty.bits / 8) = 0 ∧
      (Spec.SC k c).toNat % (ty.bits / 8) = 0 ∧
      (0 < (Spec.SC k c).toNat → st.storeRefused cr (k.pairA a.reg 0).toNat (Spec.SC k c).toNat = false) :=
  ⟨⟨.cpy2 .t 63 (.s 8) (.s 10) 4 .glob .glob .none, _, _, _, _, _, _, at_ shT, kOf (.cpy2 .t 63 (.s 8) (.s 10) 4 .glob .glob .none) shT, rfl, rfl,
    issues rfl rfl (by decide +kernel), by decide +kernel, ⟨stook0, rfl, rfl, by decide⟩, quiet _ _ rfl rfl (by decide +kernel),
    copyAllowed _ _ _ ⟨by decide +kernel, .inl (by decide +kernel)⟩ (by decide +kernel) (by decide +kernel) (noDet (by decide +kernel))⟩,
   ⟨.t, .s 8, .z, at_ shT, kOf (.pfl2 .t (.tag 63) (.s 8) .z) shT, 63, issues rfl rfl (by decide +kernel),
    quiet _ _ rfl rfl (by decide +kernel), by decide +kernel, ⟨by decide +kernel, .inl (by decide +kernel)⟩⟩,
   ⟨.t, .s 8, .s 4, at_ shT, kOf (.pfl2 .t (.cc (.s 10)) (.s 8) (.s 4)) shT, .s 10, issues rfl rfl (by decide +kernel),
    quiet _ _ rfl rfl (by decide +kernel), by decide +kernel, by decide +kernel⟩,
   ⟨.t, 0, .s 8, .s 10, .s 4, .f32, .add, .ar, 255, { at_ shT with fabric := groups0 },
    kOf (.coll .t 0 (.s 8) (.s 10) (.s 4) .f32 .add .ar 255) shT, stook0, crop0 0, rfl, issues rfl rfl (by decide +kernel),
    ⟨rfl, rfl, rfl, by decide +kernel⟩, ⟨stook0, rfl, rfl, by decide⟩, ⟨by decide +kernel, .inl (by decide +kernel)⟩, rfl, rfl, by decide +kernel⟩⟩

/-- Core 0 with two tags of stook 1: 0 and 63, each BUSY or READY. -/
def coreT (a b : TagState) : Core := { Core.fresh .usable with tags := [(0, ⟨a, some 1, 1, 0, 4⟩), (63, ⟨b, some 1, 3, 8, 0⟩)] }
theorem hyps_TagInstructions :
    ((∃ i g d a s k m, (i = .pwaitAnyB32 g d a) ∧ i.wf = true ∧ Issues i s k ∧ m = k.pairA (SReg.reg a) 0 ∧
       ∃ t, t < 64 ∧ m.getLsbD t = true ∧ Spec.tagIs s k .ready t) ∧
     (∃ i g d a s k m, (i = .pwaitAllB32 g d a) ∧ i.wf = true ∧ Issues i s k ∧ m = k.pairA (SReg.reg a) 0 ∧
       ¬∃ t, t < 64 ∧ m.getLsbD t = true ∧ Spec.tagIs s k .busy t) ∧
     ∃ i g d a all s k m, (i = .pwaitX64 g d a all) ∧ i.wf = true ∧ Issues i s k ∧ m = k.pairA (SReg.reg a) 0 ∧
       (∃ t, t < 64 ∧ m.getLsbD t = true ∧ Spec.tagIs s k .busy t) ∧
       ¬∃ t, t < 64 ∧ m.getLsbD t = true ∧ Spec.tagIs s k .ready t) ∧
    (∃ i g d a s k, (i = .pfindX64 g d a) ∧ i.wf = true ∧ Issues i s k) ∧
    (∃ i g a s k, (i = .pclrB32 g a) ∧ i.wf = true ∧ Issues i s k) ∧
    ∃ g d t s k, (Instr.pstat g d t).wf = true ∧ Issues (.pstat g d t) s k :=
  ⟨⟨⟨.pwaitAnyB32 .t (.s 22) (.s 0), _, _, _, devC (coreT .busy .ready) shT, kOf (.pwaitAnyB32 .t (.s 22) (.s 0)) shT, _, rfl, rfl,
      issues rfl rfl (by decide +kernel), rfl, 63, by decide, by decide +kernel, Spec.tagIs_dec _ _ _ _ (by decide +kernel)⟩,
     ⟨.pwaitAllB32 .t (.s 22) (.s 0), _, _, _, devC (coreT .idle .ready) shT, kOf (.pwaitAllB32 .t (.s 22) (.s 0)) shT, _, rfl, rfl,
      issues rfl rfl (by decide +kernel), rfl, fun ⟨t, h, _, h2⟩ => by
        unfold Spec.tagIs at h2
        exact absurd h2.2 ((by decide +kernel : ∀ t < 64, (((devC (coreT .idle .ready) shT).core 0).tag t).st ≠ .busy) t h)⟩,
     ⟨.pwaitX64 .t .z (.s 0) false, _, _, _, _, devC (coreT .busy .busy) shT, kOf (.pwaitX64 .t .z (.s 0) false) shT, _, rfl, rfl,
      issues rfl rfl (by decide +kernel), rfl, ⟨63, by decide, by decide +kernel, Spec.tagIs_dec _ _ _ _ (by decide +kernel)⟩, fun ⟨t, h, _, h2⟩ => by
        unfold Spec.tagIs at h2
        exact absurd h2.2 ((by decide +kernel : ∀ t < 64, (((devC (coreT .busy .busy) shT).core 0).tag t).st ≠ .ready) t h)⟩⟩,
   ⟨.pfindX64 .t (.s 23) (.s 0), _, _, _, devC (coreT .busy .ready) shT, kOf (.pfindX64 .t (.s 23) (.s 0)) shT, rfl, rfl, issues rfl rfl (by decide +kernel)⟩,
   ⟨.pclrB32 .t (.s 0), _, _, devC (coreT .busy .ready) shT, kOf (.pclrB32 .t (.s 0)) shT, rfl, rfl, issues rfl rfl (by decide +kernel)⟩,
   ⟨.t, .s 22, 63, devC (coreT .busy .ready) shT, kOf (.pstat .t (.s 22) 63) shT, rfl, issues rfl rfl (by decide +kernel)⟩⟩

/-- Core 0 whose thresher has this owner, waiters, format and queue. -/
def mx (owner : Option Nat) (waitq : List Nat) (queue : List MxEntry) (fmt : Option Ty) : Core :=
  { Core.fresh .usable with mx := { Thresher.reset with owner := owner, waitq := waitq, queue := queue, fmt := fmt } }
theorem owns (fmt : Option Ty) (q : List MxEntry) (i : Instr) (hq : q.length < 3) : Spec.Owns (devC (mx (some 3) [] q fmt) shT) (kOf i shT) :=
  ⟨rfl, rfl, hq⟩
theorem inBin (s : State) (k : Ctx) (b : BinId) (a n : Nat) (h : a < 2 ^ 24 ∧ a + n ≤ 2 ^ 24)
    (h2 : (match s.stookOf k.sh with | some st => decide (a + n ≤ st.binLen b) | none => false) = true) : Spec.InBin s k b a n := by
  refine ⟨h.1, h.2, ?_⟩
  split at h2
  · exact ⟨_, ‹_›, of_decide_eq_true h2⟩
  · simp at h2
theorem hyps_ThresherInstructions :
    ((∃ i g s k, (i = .mxacqB32 g) ∧ Issues i s k ∧ k.sh.serves = none ∧ (s.core k.sh.core).mx.owner = some k.sid) ∧
     (∃ i g s k, (i = .mxacqX64 g) ∧ Issues i s k ∧ k.sh.serves = none ∧ (s.core k.sh.core).mx.owner = none ∧ (s.core k.sh.core).mx.waitq = []) ∧
     (∃ i g s k, (i = .mxacqB32 g) ∧ Issues i s k ∧ k.sh.serves = none ∧ (s.core k.sh.core).mx.owner ≠ some k.sid ∧
       ((s.core k.sh.core).mx.owner ≠ none ∨ (s.core k.sh.core).mx.waitq ≠ []))) ∧
    (∃ i g d s k, (i = .mxtryB32 g d) ∧ Issues i s k ∧ k.sh.serves = none) ∧
    (∃ i g s k, (i = .mxwaitB32 g) ∧ Issues i s k ∧ k.sh.serves = none ∧ (s.core k.sh.core).mx.owner = some k.sid ∧
      ∀ e ∈ (s.core k.sh.core).mx.queue, e.sid ≠ k.sid) ∧
    (∃ i g s k, (i = .mxrelX64 g) ∧ Issues i s k ∧ k.sh.serves = none ∧ (s.core k.sh.core).mx.owner = some k.sid ∧
      (∀ e ∈ (s.core k.sh.core).mx.queue, e.sid ≠ k.sid) ∧ (s.core k.sh.core).mx.waitq = [] ∧ Spec.Quiet s k ∧ s.owes k.sid k.sh.full = false ∧ Spec.AtPc k) ∧
    (∃ i g s k, (i = .zaccX64 g true) ∧ Issues i s k ∧ Spec.Owns s k) ∧
    (∃ g a b c ty w ab kc af s k, (Instr.stld g a b (some c) ty w ab kc af).wf = true ∧ Issues (.stld g a b (some c) ty w ab kc af) s k ∧
      Spec.Owns s k ∧ (Spec.SA k a).toNat % 4 = 0 ∧ (Spec.SB k b).toNat % 4 = 0 ∧
      Spec.InBin s k (if ab then .a else .w) (Spec.SA k a).toNat (63 * (Spec.SB k b).toNat + 8 * ty.bits) ∧
      (Machine.blockScaled ty af = true ∧ (Spec.SC k c).toNat % 4 = 0 ∧
        Spec.InBin s k (if ab then .a else .w) (Spec.SC k c).toNat (if af then 256 else 128))) ∧
    (∃ g a b ty east z s k, (Instr.drain g a b ty east z).wf = true ∧ Issues (.drain g a b ty east z) s k ∧ Spec.Owns s k ∧
      (Spec.SA k a).toNat % 4 = 0 ∧ (Spec.SB k b).toNat % 4 = 0 ∧
      Spec.InBin s k .c (Spec.SA k a).toNat (63 * (Spec.SB k b).toNat + 64 * (if ty = .f32 then 4 else 2))) ∧
    (∃ g a b ty east keep af s k, (Instr.mma g a b ty east keep af).wf = true ∧ Issues (.mma g a b ty east keep af) s k ∧ Spec.Owns s k ∧
      (let bw : KV Word := if mmaScaled ty af then (lanesOf k.e).map (fun l => (l, k.sh.readReg b l 0)) else []
       passBad (s.mxAhead k.sh.core) ty false east af k.e (fun i => bw.getD i 0) = false)) ∧
    ∃ g a b c ty keep s k, (Instr.dmma g a b c ty keep).wf = true ∧ Issues (.dmma g a b c ty keep) s k ∧ Spec.Owns s k ∧
      passBad (s.mxAhead k.sh.core) ty true false false k.e (fun _ => 0) = false ∧
      (Spec.SB k b).toNat % 4 = 0 ∧ (Spec.SC k c).toNat % 4 = 0 ∧
      ∀ l, k.e.getLsbD l = true → Spec.InBin s k .w (Spec.SB k b).toNat (l * (Spec.SC k c).toNat + 8 * ty.bits) :=
  ⟨⟨⟨.mxacqB32 .t, _, devC (mx (some 3) [] [] none) sh0, kOf (.mxacqB32 .t) sh0, rfl, issues rfl rfl (by decide +kernel), rfl, rfl⟩,
    ⟨.mxacqX64 .t, _, devC (mx none [] [] none) sh0, kOf (.mxacqX64 .t) sh0, rfl, issues rfl rfl (by decide +kernel), rfl, rfl, rfl⟩,
    ⟨.mxacqB32 .t, _, devC (mx none [9] [] none) sh0, kOf (.mxacqB32 .t) sh0, rfl, issues rfl rfl (by decide +kernel), rfl, by decide, .inr (by decide)⟩⟩,
   ⟨.mxtryB32 .t 6, _, _, devC (mx (some 9) [] [] none) sh0, kOf (.mxtryB32 .t 6) sh0, rfl, issues rfl rfl (by decide +kernel), rfl⟩,
   ⟨.mxwaitB32 .t, _, devC (mx (some 3) [] [] none) sh0, kOf (.mxwaitB32 .t) sh0, rfl, issues rfl rfl (by decide +kernel), rfl, rfl, by decide⟩,
   ⟨.mxrelX64 .t, _, devC (mx (some 3) [] [] none) sh0, kOf (.mxrelX64 .t) sh0, rfl, issues rfl rfl (by decide +kernel), rfl, rfl, by decide, rfl,
    quietC _ _ _ rfl rfl (by decide +kernel), rfl, fun _ => lanes64 (by decide +kernel)⟩,
   ⟨.zaccX64 .t true, _, devC (mx (some 3) [] [] none) shT, kOf (.zaccX64 .t true) shT, rfl, issues rfl rfl (by decide +kernel), owns _ _ _ (by decide)⟩,
   ⟨.t, .s 6, .s 7, .s 4, .mxf8, true, true, false, false, devC (mx (some 3) [] [] none) shT,
    kOf (.stld .t (.s 6) (.s 7) (some (.s 4)) .mxf8 true true false false) shT, rfl, issues rfl rfl (by decide +kernel), owns _ _ _ (by decide),
    by decide +kernel, by decide +kernel, inBin _ _ _ _ _ (by decide +kernel) (by decide +kernel), by decide +kernel, by decide +kernel,
    inBin _ _ _ _ _ (by decide +kernel) (by decide +kernel)⟩,
   ⟨.t, .s 6, .s 7, .f32, false, true, devC (mx (some 3) [] [] none) shT, kOf (.drain .t (.s 6) (.s 7) .f32 false true) shT, rfl,
    issues rfl rfl (by decide +kernel), owns _ _ _ (by decide), by decide +kernel, by decide +kernel, inBin _ _ _ _ _ (by decide +kernel) (by decide +kernel)⟩,
   ⟨.t, 64, .v 0, .bf16, true, true, false, devC (mx (some 3) [] [] (some .bf16)) shT, kOf (.mma .t 64 (.v 0) .bf16 true true false) shT, rfl,
    issues rfl rfl (by decide +kernel), owns _ _ _ (by decide), by decide +kernel⟩,
   ⟨.t, 64, .s 6, .s 7, .e5m2, false, devC (mx (some 3) [] [] (some .e4m3)) shT, kOf (.dmma .t 64 (.s 6) (.s 7) .e5m2 false) shT, rfl,
    issues rfl rfl (by decide +kernel), owns _ _ _ (by decide), by decide +kernel, by decide +kernel, by decide +kernel,
    lanes64 (fun l hl he => inBin _ _ _ _ _ (by revert l; decide +kernel) (by revert l; decide +kernel))⟩⟩

def entry (run : Bool) (op : MxOp) : MxEntry := ⟨3, 1, 0, run, op, []⟩
/-- A wain operation of stook 1: a CPY of 16 bytes under tag 63, all written. -/
def op0 : WainOp := ⟨8, 1, 3, 63, 1, 0, 0x40003000, 0x40004000, 16, 0, 0, 0, 0, 16, [], 0, [], false, [], []⟩
def wain (q run : List WainOp) : Core := { Core.fresh .usable with wainQ := q, wainRun := run }
theorem hyps_EngineSteps :
    (∃ core, ∃ s : State, ∃ e r, (s.core core).mx.queue = e :: r ∧ e.running = false ∧ (s.core core).mx.zeroing = false ∧ e.issued + 4 ≤ s.clock) ∧
    (∃ core, ∃ s : State, ∃ e r east, (s.core core).mx.queue = e :: r ∧ e.running = true ∧ e.op = .zacc east) ∧
    (∃ core, ∃ s : State, ∃ e r ty east af lanes a bw w m, (s.core core).mx.queue = e :: r ∧ e.running = true ∧
      e.op = .mma ty east af lanes a bw ∧ (s.core core).mx.fmt = some w ∧ pairMode ty w = some (.float, m)) ∧
    (∃ core, ∃ s : State, ∃ e r b addr pitch side ty w kc af st, (s.core core).mx.queue = e :: r ∧ e.running = true ∧
      e.op = .stld b addr pitch side ty w kc af ∧ e.cap = [] ∧ s.stook? e.uid = some st ∧ Machine.blockScaled ty af = true) ∧
    (∃ core, ∃ s : State, ∃ e r ty east af lanes a bw w m, (s.core core).mx.queue = e :: r ∧ e.running = true ∧
      e.op = .mma ty east af lanes a bw ∧ (s.core core).mx.fmt = some w ∧ pairMode ty w = some (.int, m)) ∧
    (∃ core, ∃ s : State, ∃ e r ty addr pitch lanes a st, (s.core core).mx.queue = e :: r ∧ e.running = true ∧
      e.op = .dmma ty addr pitch lanes a ∧ e.cap = [] ∧ s.stook? e.uid = some st) ∧
    (∃ core, ∃ s : State, ∃ e r addr pitch ty east zero, (s.core core).mx.queue = e :: r ∧ e.running = true ∧
      e.op = .drain addr pitch ty east zero ∧ e.cap = [] ∧ 64 * (if ty = .f32 then 4 else 2) ≤ pitch) ∧
    (∃ core, ∃ s : State, (s.core core).mx.zeroing = true) ∧
    (∃ core, ∃ s : State, ∃ o r, (s.core core).wainQ = o :: r ∧ (s.core core).wainRun.length < 4) ∧
    (∃ core tag, ∃ s : State, ∃ o st sid, (s.core core).wainRun.find? (fun o => o.tag == tag) = some o ∧ o.stopped = 0 ∧ o.total ≤ o.cursor ∧
      o.cursor = o.total ∧ o.held = [] ∧ s.wainReading o = false ∧ (∀ m ∈ o.written, s.msgs.find? m.1 = none) ∧ s.stook? o.uid = some st ∧ st.parked = false ∧
      sid ∈ st.sheaves ∧ (s.sheaf? sid).isSome ∧ (∀ sh, s.sheaf? o.sid = some sh → sh.watch = [])) ∧
    ∃ die id, ∃ s : State, ∃ o tag st sid, s.pfl2.find? (fun o => o.die == die && o.id == id) = some o ∧ o.tag = some tag ∧
      s.stook? o.uid = some st ∧ st.parked = false ∧ sid ∈ st.sheaves ∧ (s.sheaf? sid).isSome ∧
      (∀ sh, s.sheaf? o.sid = some sh → sh.watch = []) ∧ s.waits = [] :=
  ⟨⟨0, { devC (mx (some 3) [] [entry false (.zacc true)] none) sh0 with clock := 4 }, _, _, rfl, rfl, rfl, by decide⟩,
   ⟨0, devC (mx (some 3) [] [entry true (.zacc true)] none) sh0, _, _, _, rfl, rfl, rfl⟩,
   ⟨0, devC (mx (some 3) [] [entry true (.mma .mxf8 false false 3 [] [])] (some .mxf4)) sh0, _, _, _, _, _, _, _, _, _, _, rfl, rfl, rfl, rfl, rfl⟩,
   ⟨0, devC (mx (some 3) [] [entry true (.stld 1 64 48 4096 .mxf8 true false false)] none) sh0, _, _, _, _, _, _, _, _, _, _, stook0, rfl, rfl, rfl, rfl, rfl, rfl⟩,
   ⟨0, devC (mx (some 3) [] [entry true (.mma .s8 true true 3 [] [])] (some .s4)) sh0, _, _, _, _, _, _, _, _, _, _, rfl, rfl, rfl, rfl, rfl⟩,
   ⟨0, devC (mx (some 3) [] [entry true (.dmma .bf16 64 128 3 [])] (some .bf16)) sh0, _, _, _, _, _, _, _, stook0, rfl, rfl, rfl, rfl, rfl⟩,
   ⟨0, devC (mx (some 3) [] [entry true (.drain 0 256 .f32 true true)] none) sh0, _, _, _, _, _, _, _, rfl, rfl, rfl, rfl, by decide⟩,
   ⟨0, devC { Core.fresh .usable with mx := { Thresher.reset with zeroing := true } } sh0, rfl⟩,
   ⟨0, devC (wain [op0] [op0, op0, op0]) sh0, _, _, rfl, by decide⟩,
   ⟨0, 63, devC (wain [] [op0]) sh0, op0, stook0, 3, rfl, rfl, by decide, by decide, rfl, rfl, by decide, rfl, rfl, by decide, rfl,
    fun sh (h : some sh0 = some sh) => by cases h; rfl⟩,
   ⟨0, 5, { at_ sh0 with pfl2 := [⟨5, 0, 0, 1, 3, 0, some 0, none, 0, 0x40003000, 128, []⟩] }, _, 0, stook0, 3, rfl, rfl, rfl, rfl, by decide, rfl,
    fun sh (h : some sh0 = some sh) => by cases h; rfl, rfl⟩⟩

/-- One side of a copy as `SideAt` has it, where there is one. -/
def sideOf? (s : State) (core : Nat) (o : WainOp) (sp : Nat) (base : DWord) (off n : Nat) (k : AKind) : Option (Piece × State) :=
  if isBinSpace sp then (if (s.stook? o.uid).isSome then some ((binOffset (binAddrOf base) + off, n, 0, 0, false), s) else none)
  else if sp = 4 then (if s.wainUp o then some ((hostAddr (base.toNat + off), n, 0, 0, false), s) else none)
  else match s.translateAll (some core) o.ctx k true (pieces (base.toNat + off) n) with
    | (.ok [p], t) => if p.2.1 = n ∧ p.1 < 2 ^ 51 then some (p, t) else none
    | _ => none
theorem sideAt {s : State} {core : Nat} {o : WainOp} {sp : Nat} {base : DWord} {off n : Nat} {k : AKind} {p : Piece} {t : State}
    (h : sideOf? s core o sp base off n k = some (p, t)) : Spec.SideAt s core o sp base off n k p t := by
  simp only [sideOf?, Spec.SideAt] at *
  split at h
  · rename_i hb; rw [if_pos hb]
    split at h
    · simp only [Option.some.injEq, Prod.mk.injEq] at h; exact ⟨h.2.symm, h.1.symm, ‹_›⟩
    · cases h
  · rename_i hb; rw [if_neg hb]
    split at h
    · rename_i h4; rw [if_pos h4]
      split at h
      · simp only [Option.some.injEq, Prod.mk.injEq] at h; exact ⟨h.2.symm, h.1.symm, ‹_›⟩
      · cases h
    · rename_i h4; rw [if_neg h4]
      split at h
      · split at h
        · simp only [Option.some.injEq, Prod.mk.injEq] at h
          obtain ⟨rfl, rfl⟩ := h
          exact ⟨by assumption, ‹_ ∧ _›.1, ‹_ ∧ _›.2⟩
        · cases h
      · cases h
/-- The hypotheses of the clause about one beat of a copy. -/
def BeatHyps (core : Nat) (s : State) (o : WainOp) : Prop := ∃ p q p' s1 s2 s3 s4, ∃ n : Nat,
  List.find? (fun (x : WainOp) => x.id == o.id) (s.core core).wainRun = some o ∧
  o.stopped = 0 ∧ o.recs = [] ∧ o.cursor < o.total ∧ (o.tr = 0 ∨ o.tr = 2 ∧ o.cursor % 4 = 0) ∧ s.wainReading o = false ∧
  n = o.beatLen ∧ (∀ j < n, o.overlaps (o.dstBase + Spec.copyTo o o.cursor + j) = false) ∧
  Spec.SideAt s core o o.dstSpace o.dst (Spec.copyTo o o.cursor) n .write p s1 ∧
  (isBinSpace o.dstSpace = false → s1.writeWaits core (s.wainUp o) p = false) ∧
  Spec.SideAt s1 core o o.srcSpace o.src (Spec.copyFrom o o.cursor) n .read q s2 ∧
  (isBinSpace o.srcSpace = false → s2.readWaits core (s.wainUp o) q = false ∧ s2.poisoned q.1 n = false) ∧
  (s2.barn (barnOf core)).gather = [] ∧ s3 = (if isBinSpace o.srcSpace then s2 else (s2.engineRead core o.ctx q).2) ∧
  Spec.SideAt s3 core o o.dstSpace o.dst (Spec.copyTo o o.cursor) n .write p' s4 ∧ (s4.barn (barnOf core)).gather = [] ∧
  (isBinSpace o.dstSpace = false → s4.writeWaits core (s4.wainUp o) p' = false ∧ (o.dstSpace ≠ 4 →
    p'.2.2.2.2 = false ∧ Spec.MarksElsewhere s4 o.ctx p'.2.2.1 p'.1 (p'.1 / 128)))
/-- The same, decided along the states that the beat runs through. -/
def beatB (core : Nat) (s : State) (o : WainOp) : Bool :=
  let n := o.beatLen
  match sideOf? s core o o.dstSpace o.dst (Spec.copyTo o o.cursor) n .write with
  | none => false
  | some (p, s1) => match sideOf? s1 core o o.srcSpace o.src (Spec.copyFrom o o.cursor) n .read with
    | none => false
    | some (q, s2) =>
      let s3 := if isBinSpace o.srcSpace then s2 else (s2.engineRead core o.ctx q).2
      match sideOf? s3 core o o.dstSpace o.dst (Spec.copyTo o o.cursor) n .write with
      | none => false
      | some (p', s4) =>
        decide (List.find? (fun (x : WainOp) => x.id == o.id) (s.core core).wainRun = some o) &&
        decide (o.stopped = 0 ∧ o.recs = [] ∧ o.cursor < o.total ∧ (o.tr = 0 ∨ o.tr = 2 ∧ o.cursor % 4 = 0) ∧ s.wainReading o = false) &&
        decide (∀ j < n, o.overlaps (o.dstBase + Spec.copyTo o o.cursor + j) = false) &&
        decide (isBinSpace o.dstSpace = false → s1.writeWaits core (s.wainUp o) p = false) &&
        decide (isBinSpace o.srcSpace = false → s2.readWaits core (s.wainUp o) q = false ∧ s2.poisoned q.1 n = false) &&
        decide ((s2.barn (barnOf core)).gather = [] ∧ (s4.barn (barnOf core)).gather = []) &&
        (isBinSpace o.dstSpace || (decide (s4.writeWaits core (s4.wainUp o) p' = false) &&
          (o.dstSpace == 4 || (!p'.2.2.2.2 && marksB s4 o.ctx p'.2.2.1 p'.1 (p'.1 / 128)))))
theorem beat {core : Nat} {s : State} {o : WainOp} (h : beatB core s o = true) : BeatHyps core s o := by
  simp only [beatB] at h
  split at h
  · cases h
  · rename_i p s1 h1
    split at h
    · cases h
    · rename_i q s2 h2
      split at h
      · cases h
      · rename_i p' s4 h3
        simp only [Bool.and_eq_true, decide_eq_true_eq] at h
        obtain ⟨⟨⟨⟨⟨⟨a, b1, b2, b3, b4, b5⟩, c⟩, d⟩, e⟩, f, g⟩, i⟩ := h
        refine ⟨p, q, p', s1, s2, _, s4, _, a, b1, b2, b3, b4, b5, rfl, c, sideAt h1, d, sideAt h2, e, f, rfl, sideAt h3, g, fun hb => ?_⟩
        rw [hb] at i
        simp only [Bool.false_or, Bool.and_eq_true, decide_eq_true_eq, Bool.or_eq_true, beq_iff_eq, Bool.not_eq_true'] at i
        exact ⟨i.1, fun h4 => by
          rcases i.2 with h5 | h5
          · exact absurd h5 h4
          · exact ⟨h5.1, marks h5.2⟩⟩
/-- A CPY of the A-bin to global memory, one of global memory to the W-bin, a CPYH out of the device, a CPY2 transposed. -/
def opB (kind w3 : Nat) (dst src : DWord) (count rows : Nat) : WainOp :=
  ⟨8, 1, 3, 63, kind, 0, dst, src, count, rows, 24, 8, w3, 0, [], 0, [], false, [], []⟩
def stookB : Stook := { stook0 with binA := [(64, 7), (79, 9)] }
def devW (o : WainOp) : State :=
  { devC (wain [] [o]) sh0 with
    stooks := [(1, stookB)], mem := mem0 ++ [(0x40003004, 5)]
    fabric := { FabricPage.reset with hostUp := [true, true] }
    trans := { TransPage.reset with ctxbase := 0x40000, ctxCache := [(0, (State.ctxBytes { dev with mem := mem0 } 0))] } }
theorem hyps_WainBeats : (∃ o, o.dstSpace = 0 ∧ o.srcSpace = 1 ∧ BeatHyps 0 (devW o) o) ∧
    (∃ o, o.dstSpace = 2 ∧ o.srcSpace = 0 ∧ BeatHyps 0 (devW o) o) ∧ (∃ o, o.dstSpace = 4 ∧ BeatHyps 0 (devW o) o) ∧
    ∃ o, o.tr = 2 ∧ BeatHyps 0 (devW o) o :=
  ⟨⟨opB 1 4 0x40003000 64 16 0, by decide, by decide, beat (by decide +kernel)⟩,
   ⟨opB 1 2 128 0x40003000 16 0, by decide, by decide, beat (by decide +kernel)⟩,
   ⟨opB 3 2 0x1000 64 16 0, by decide, beat (by decide +kernel)⟩,
   ⟨opB 2 36 0x40003000 64 8 2, by decide, beat (by decide +kernel)⟩⟩
/-! ### Witnesses: what every instruction shares, traps, launch and the counters -/

theorem fits {l : List RegUse} {b : Nat} (h : l.all (fun u => match u.base with | .v n => decide (n.val + u.count ≤ b) | _ => true) = true) :
    ∀ u ∈ l, ∀ n, u.base = .v n → n.val + u.count ≤ b := by
  intro u hu n hn
  have := List.all_eq_true.mp h u hu
  rw [hn] at this
  exact of_decide_eq_true this
theorem hyps_SharedChecks :
    (∃ i : Instr, ∃ s : State, i.raw.isSome = true ∧ s.cur = none) ∧
    (∃ i : Instr, ∃ s : State, ∃ cur sh k, i.raw.isSome = true ∧ s.cur = some cur ∧ s.sheaf? cur.sid = some sh ∧ k = ctxOf i cur sh s.clock ∧ sh.frozen = true) ∧
    (∃ i : Instr, ∃ s : State, ∃ cur sh k, i.raw.isSome = true ∧ s.cur = some cur ∧ s.sheaf? cur.sid = some sh ∧ k = ctxOf i cur sh s.clock ∧ sh.frozen = false ∧
      i.privileged = true ∧ sh.serves = none) ∧
    (∃ i : Instr, ∃ s : State, ∃ cur sh k, i.raw.isSome = true ∧ s.cur = some cur ∧ s.sheaf? cur.sid = some sh ∧ k = ctxOf i cur sh s.clock ∧ sh.frozen = false ∧
      (i.privileged = true → sh.serves ≠ none) ∧ ∃ u ∈ i.srcs ++ i.dsts, ∃ n, u.base = .v n ∧ sh.budget < n.val + u.count) ∧
    (∃ i : Instr, ∃ s : State, ∃ cur sh k, ∃ m : LaneSet, i.raw.isSome = true ∧ s.cur = some cur ∧ s.sheaf? cur.sid = some sh ∧ k = ctxOf i cur sh s.clock ∧ sh.frozen = false ∧
      (i.privileged = true → sh.serves ≠ none) ∧ (∀ u ∈ i.srcs ++ i.dsts, ∀ n, u.base = .v n → n.val + u.count ≤ sh.budget) ∧
      k.replay = none ∧ m ≠ 0 ∧ (∀ l < 64, m.getLsbD l = true ↔ l < sh.width ∧ k.e.getLsbD l = true ∧
                ∃ u ∈ i.srcs, ∃ n, u.base = .b n ∧ (sh.lane l).latchValid n = false)) ∧
    (∃ i : Instr, ∃ s : State, ∃ cur sh k, i.raw.isSome = true ∧ s.cur = some cur ∧ s.sheaf? cur.sid = some sh ∧ k = ctxOf i cur sh s.clock ∧ sh.frozen = false ∧
      (i.privileged = true → sh.serves ≠ none) ∧ (∀ u ∈ i.srcs ++ i.dsts, ∀ n, u.base = .v n → n.val + u.count ≤ sh.budget) ∧
      (k.replay = none → ∀ l < 64, l < sh.width → k.e.getLsbD l = true → ∀ u ∈ i.srcs, ∀ n, u.base = .b n → (sh.lane l).latchValid n = true) ∧
      k.e = 0) := by
  refine ⟨⟨.nopB32 .t, .reset, rfl, rfl⟩, ⟨.nopB32 .t, at_ { sh0 with frozen := true }, _, _, _, rfl, rfl, rfl, rfl, rfl⟩,
    ⟨.tres .t, at_ sh0, _, _, _, rfl, rfl, rfl, rfl, rfl, rfl, rfl⟩,
    ⟨.iaddB32 .t (.v 31) (.v 32) (.v 0), at_ { sh0 with budget := 32 }, _, _, _, rfl, rfl, rfl, rfl, rfl, fun h => by simp [Instr.privileged] at h,
      ⟨.v 32, 1⟩, by decide, 32, rfl, by decide⟩,
    ⟨.iaddB32 .t (.v 31) (.b 3) (.b 3), at_ { sh0 with budget := 32, lanes := sh0.lanes.put 0 { Lane.fresh 0x40001000 with bvalid := 8 } }, _, _, _, 2,
      rfl, rfl, rfl, rfl, rfl, fun h => by simp [Instr.privileged] at h, ?_, rfl, by decide, ?_⟩,
    ⟨.iaddB32 (.p 6) (.v 31) (.b 0) (.v 30), at_ { sh0 with budget := 32 }, _, _, _, rfl, rfl, rfl, rfl, rfl, fun h => by simp [Instr.privileged] at h,
      ?_, fun _ l hl _ h => ?_, by decide +kernel⟩⟩
  · exact fits (by decide)
  · have h : ∀ l < 64, (2 : LaneSet).getLsbD l = (decide (l < 8) && (kOf (.iaddB32 .t (.v 31) (.b 3) (.b 3)) sh0).e.getLsbD l &&
        !((sh0.lanes.put 0 { Lane.fresh 0x40001000 with bvalid := 8 }).getD l (Lane.fresh 0)).latchValid 3) := by
      decide +kernel
    intro l hl
    have e : Sheaf.lane { sh0 with budget := 32, lanes := sh0.lanes.put 0 { Lane.fresh 0x40001000 with bvalid := 8 } } l =
      (sh0.lanes.put 0 { Lane.fresh 0x40001000 with bvalid := 8 }).getD l (Lane.fresh 0) := rfl
    rw [h l hl, e]
    simp only [Bool.and_eq_true, decide_eq_true_eq, Bool.not_eq_true']
    constructor
    · rintro ⟨⟨h1, h2⟩, h3⟩
      exact ⟨h1, h2, ⟨.b 3, 1⟩, by decide, 3, rfl, h3⟩
    · rintro ⟨h1, h2, u, hu, n, hn, h3⟩
      refine ⟨⟨h1, h2⟩, ?_⟩
      have : n = 3 := by
        rcases hu with _ | ⟨_, _ | ⟨_, hu⟩⟩
        · injection hn with hn; exact hn.symm
        · injection hn with hn; exact hn.symm
        · cases hu
      rw [← this]; exact h3
  · exact fits (by decide)
  · exact absurd h (by revert l; decide +kernel)

/-- A device whose context 0 has two record slots at 0x40010000 and a handler at 0x40020000 for the cause given. -/
def devV (code : Nat) (ss : KV Sheaf) : State :=
  { dev with cur := some cur0, slot := [], sheaves := ss, trapPage := { TrapPage.reset with tvbase := 0x60000 }
             mem := memWrite (memWrite dev.mem 0x60000 (bytesOf 8 0x40010000 ++ bytesOf 4 2)) (0x60048 + 8 * code) (bytesOf 8 0x40020000) }
def tr0 (code : Nat) : TrapInfo :=
  { code := code, pc := 0x40001000, addr := 0, lanes := 1, path := 3, info := 0, fetch := false, engine := false, fail := [] }
/-- A trap stook 4 whose sheaf 6 serves sheaf 3. -/
def trapSheaf : Sheaf := Sheaf.fresh 4 0 0 0 8 32 0 8 0 0x40020000 0x40010000 (some 3) []
def devS : State :=
  { devV 4 [(3, { sh0 with frozen := true, trap := some (tr0 4), slot := some 0 }), (6, trapSheaf)] with
    stooks := [(1, stook0), (4, { stook0 with sheaves := [6], trapStook := true, wUnits := 0, aUnits := 0, cUnits := 0 })]
    cur := some ⟨6, 3, 0x40020000, [], none, none, []⟩, nextId := 7 }
def kS (i : Instr) : Ctx := ctxOf i ⟨6, 3, 0x40020000, [], none, none, []⟩ trapSheaf 0
theorem issuesS {i : Instr} (h : (preCheck i (kS i)).isNone && (kS i).e != 0) : Issues i devS (kS i) := by
  simp only [Bool.and_eq_true, Option.isNone_iff_eq_none, bne_iff_ne] at h
  exact ⟨⟨_, rfl, rfl, rfl⟩, rfl, h.1, h.2⟩
theorem hyps_TrapEntry :
    (∃ (s : State) (sid : Nat) (sh : Sheaf) (tr : TrapInfo), s.sheaf? sid = some sh ∧ sh.serves = none ∧ s.handled sh.ctx tr.code = true ∧
      (s.barn (barnOf sh.core)).gather = []) ∧
    (∃ (s : State) (sid : Nat) (sh : Sheaf) (st : Stook) (tr : TrapInfo), s.sheaf? sid = some sh ∧ sh.serves = none ∧ s.handled sh.ctx tr.code = false ∧
      s.stook? sh.uid = some st ∧ sid ∈ st.sheaves ∧ st.trapStook = false ∧ s.stooks.sorted = true) ∧
    ∃ (s : State) (sid : Nat) (sh : Sheaf) (st : Stook) (t : Nat) (v : Sheaf) (vt : Stook), s.sheaf? sid = some sh ∧ sh.serves = some t ∧ s.sheaf? t = some v ∧
      s.stooks.sorted = true ∧ s.stook? sh.uid = some st ∧ sid ∈ st.sheaves ∧ st.trapStook = true ∧ t ∉ st.sheaves ∧
      s.stook? v.uid = some vt ∧ t ∈ vt.sheaves ∧ vt.trapStook = false ∧ v.uid ≠ sh.uid :=
  ⟨⟨devV 4 [(3, sh0)], 3, sh0, tr0 4, rfl, rfl, by decide +kernel, rfl⟩,
   ⟨devV 4 [(3, sh0)], 3, sh0, stook0, tr0 5, rfl, rfl, by decide +kernel, rfl, by decide, rfl, by decide⟩,
   ⟨devS, 6, _, _, 3, _, stook0, rfl, rfl, rfl, by decide, rfl, by decide, rfl, by decide, rfl, by decide, rfl, by decide⟩⟩
theorem hyps_TrapsRaised :
    (∃ i g a s k, (i = .trapB32 g a) ∧ Issues i s k) ∧ (∃ i g a s k, (i = .brkX64 g a) ∧ Issues i s k) ∧
    (∃ (s : State) (c : Cursor), s.cur = some c) ∧ (∃ (s : State) (c : Cursor) (t : TrapInfo), s.cur = some c ∧ c.fault = some t ∧ c.recs = []) ∧
    (∃ (s : State) (c : Cursor) (sh : Sheaf), s.cur = some c ∧ c.recs ≠ [] ∧ s.sheaf? c.sid = some sh) ∧ ∃ s : State, s.cur = none :=
  ⟨⟨.trapB32 .t .z, _, _, at_ sh0, kOf (.trapB32 .t .z) sh0, rfl, issues rfl rfl (by decide +kernel)⟩,
   ⟨.brkX64 .t (.s 23), _, _, at_ sh0, kOf (.brkX64 .t (.s 23)) sh0, rfl, issues rfl rfl (by decide +kernel)⟩, ⟨at_ sh0, _, rfl⟩,
   ⟨{ at_ sh0 with cur := some { cur0 with fault := some (tr0 2) } }, _, _, rfl, rfl, rfl⟩,
   ⟨{ at_ sh0 with cur := some { cur0 with fault := some (tr0 2), recs := [5] } }, _, sh0, rfl, by decide, rfl⟩, ⟨.reset, rfl⟩⟩
theorem xlOk {P : Nat → Nat → Nat → Bool → State → Prop} [∀ a b c d e, Decidable (P a b c d e)] {r : Xl × State}
    (h : (match r.1 with | .ok a b c d => decide (P a b c d r.2) | _ => false) = true) :
    ∃ pa pte hd ho s1, r = (.ok pa pte hd ho, s1) ∧ P pa pte hd ho s1 := by
  obtain ⟨x, s1⟩ := r
  cases x with
  | ok a b c d => exact ⟨a, b, c, d, s1, rfl, of_decide_eq_true h⟩
  | perm => simp at h
  | xlat => simp at h
  | park => simp at h
def devR : State := devV 4 [(3, { sh0 with frozen := true, trap := some (tr0 4) })]
theorem hyps_TrapStookStarts : ∃ sid, ∃ s : State, ∃ sh tr slot core pa pte hd ho s1, s.sheaf? sid = some sh ∧ sh.trap = some tr ∧ sh.slot = none ∧
    s.freeSlot sh.ctx = some slot ∧ s.trapCore sh.core = some core ∧
    ((s.stookOf sh).map (·.parked)).getD false = false ∧ s.sheafHeld sh = false ∧ s.owes sid sh.full = false ∧
    (s.barn (barnOf sh.core)).gather = [] ∧ (s1.barn (barnOf sh.core)).gather = [] ∧
    s.translate none sh.ctx (BitVec.ofNat 64 (s.recBase sh.ctx / 256 * 256 + 256 * slot)) .write true = (.ok pa pte hd ho, s1) ∧
    s1.writeWaits sh.core (s1.hostLinkOf sid) (pa, 256, pte, hd, true) = false ∧ (isPeer pa = true → s1.hasRoute (peerOf pa) = true) ∧
    sid < s1.nextId ∧ isPeer pa = false ∧
    ∀ line, pa / 128 ≤ line → line ≤ (pa + 255) / 128 → Spec.MarksElsewhere s1 sh.ctx pte pa line := by
  have ⟨pa, pte, hd, ho, s1, h, hg, hw, hr, hn, hp, hm⟩ := xlOk (r := devR.translate none 0 (BitVec.ofNat 64 (devR.recBase 0 / 256 * 256 + 256 * 0)) .write true)
    (P := fun pa pte hd ho s1 => (s1.barn 0).gather = [] ∧ s1.writeWaits 0 (s1.hostLinkOf 3) (pa, 256, pte, hd, true) = false ∧
      (isPeer pa = true → s1.hasRoute (peerOf pa) = true) ∧ 3 < s1.nextId ∧ isPeer pa = false ∧
      (List.range 3).all (fun j => marksB s1 0 pte pa (pa / 128 + j)) = true) (by decide +kernel)
  refine ⟨3, devR, { sh0 with frozen := true, trap := some (tr0 4) }, tr0 4, 0, 0, pa, pte, hd, ho, s1, rfl, rfl, rfl, by decide +kernel, by decide +kernel, by decide +kernel, by decide +kernel,
    by decide +kernel, rfl, hg, h, hw, hr, hn, hp, fun line h1 h2 => ?_⟩
  obtain ⟨j, rfl⟩ := Nat.exists_eq_add_of_le h1
  exact marks (List.all_eq_true.mp hm j (List.mem_range.mpr (by omega)))
/-- Its record slots in the memory of peer 0. -/
def devPeer : State :=
  { devR with mem := [(0x60003, 0x80), (0x90010, 0x3F), (0x90016, 8)].foldl (fun m x => memWrite m x.1 [x.2]) devR.mem
              fabric := { FabricPage.reset with devnum := 511, routes := [0] } }
theorem hyps_TrapStookPeer : ∃ sid, ∃ s : State, ∃ sh tr slot core pa pte hd ho s1, s.sheaf? sid = some sh ∧ sh.trap = some tr ∧ sh.slot = none ∧
    s.freeSlot sh.ctx = some slot ∧ s.trapCore sh.core = some core ∧
    ((s.stookOf sh).map (·.parked)).getD false = false ∧ s.sheafHeld sh = false ∧ s.owes sid sh.full = false ∧
    (s.barn (barnOf sh.core)).gather = [] ∧ (s1.barn (barnOf sh.core)).gather = [] ∧
    s.translate none sh.ctx (BitVec.ofNat 64 (s.recBase sh.ctx / 256 * 256 + 256 * slot)) .write true = (.ok pa pte hd ho, s1) ∧
    s1.writeWaits sh.core (s1.hostLinkOf sid) (pa, 256, pte, hd, true) = false ∧ s1.hasRoute (peerOf pa) = true ∧
    sid < s1.nextId ∧ isPeer pa = true ∧ isHost pa = false := by
  have ⟨pa, pte, hd, ho, s1, h, hg, hw, hr, hn, hp⟩ := xlOk (r := devPeer.translate none 0 (BitVec.ofNat 64 (devPeer.recBase 0 / 256 * 256 + 256 * 0)) .write true)
    (P := fun pa pte hd ho s1 => (s1.barn 0).gather = [] ∧ s1.writeWaits 0 (s1.hostLinkOf 3) (pa, 256, pte, hd, true) = false ∧
      s1.hasRoute (peerOf pa) = true ∧ 3 < s1.nextId ∧ isPeer pa = true ∧ isHost pa = false) (by decide +kernel)
  exact ⟨3, devPeer, { sh0 with frozen := true, trap := some (tr0 4) }, tr0 4, 0, 0, pa, pte, hd, ho, s1, rfl, rfl, rfl, by decide +kernel, by decide +kernel, by decide +kernel,
    by decide +kernel, by decide +kernel, rfl, hg, h, hw, hr, hn, hp⟩
theorem hyps_TrapRecords : ∃ (s : State) (sh : Sheaf) (tr : TrapInfo) (st : Stook) (c : Crop), s.stookOf sh = some st ∧ s.cropOf st = some c ∧
    sh.width ∈ [8, 16, 32, 64] := ⟨devR, sh0, tr0 4, stook0, _, rfl, rfl, by decide⟩

theorem hyps_SpecialRegisters :
    (∃ i g d r s k st c, (i = .srdB32 g d r) ∧ i.wf = true ∧ Issues i s k ∧ s.stookOf k.sh = some st ∧ s.cropOf st = some c) ∧
    (∃ i g d s k st c, (i = .srdX64 g d .pennants) ∧ i.wf = true ∧ Issues i s k ∧ s.stookOf k.sh = some st ∧ s.cropOf st = some c) ∧
    (∃ i g a s k, (i = .swrX64 g .ctx a) ∧ Issues i s k) ∧ ∃ i g a s k, (i = .swrB32 g .prio a) ∧ Issues i s k :=
  ⟨⟨.srdB32 .t (.s 22) .cycles, _, _, _, at_ sh0, kOf (.srdB32 .t (.s 22) .cycles) sh0, stook0, _, rfl, rfl, issues rfl rfl (by decide +kernel), rfl, rfl⟩,
   ⟨.srdX64 .t (.s 22) .pennants, _, _, devC (coreT .busy .ready) sh0, kOf (.srdX64 .t (.s 22) .pennants) sh0, stook0, _, rfl, rfl,
    issues rfl rfl (by decide +kernel), rfl, rfl⟩,
   ⟨.swrX64 .t .ctx .z, _, _, devS, kS (.swrX64 .t .ctx .z), rfl, issuesS (by decide +kernel)⟩,
   ⟨.swrB32 .t .prio (.s 0), _, _, at_ sh0, kOf (.swrB32 .t .prio (.s 0)) sh0, rfl, issues rfl rfl (by decide +kernel)⟩⟩
theorem hyps_WindowAccess :
    (∃ g d a b s k sid t, (Instr.twrd g d a b).wf = true ∧ Issues (.twrd g d a b) s k ∧ k.sh.serves = some sid ∧ s.sheaf? sid = some t ∧
      windowOk t (Spec.SA k a).toNat (Spec.SB k b).toNat = true ∧ memEntry t (Spec.SA k a).toNat (Spec.SB k b).toNat = none) ∧
    (∃ g a b c s k sid t, Issues (.twwr g a b c) s k ∧ k.sh.serves = some sid ∧ s.sheaf? sid = some t ∧
      windowOk t (Spec.SA k a).toNat (Spec.SB k b).toNat = false) ∧
    (∃ g a b c s k sid t, Issues (.twwr g a b c) s k ∧ k.sh.serves = some sid ∧ s.sheaf? sid = some t ∧
      windowOk t (Spec.SA k a).toNat (Spec.SB k b).toNat = true ∧ memEntry t (Spec.SA k a).toNat (Spec.SB k b).toNat = none) ∧
    (∃ (t : Sheaf) (lane : Nat) (v : Word), lane < t.width ∧ lane < 64 ∧ v.toNat < (t.lane lane).depth) ∧
    (∃ (t : Sheaf) (lane : Nat) (v : Word) (e : Nat) (x : ChEntry), lane < t.width ∧ lane < 64 ∧ (v.toNat % 4 = 1 ∨ v.toNat % 4 = 2) ∧
      v.toNat / 16 % 16 < 12 ∧ (t.lane lane).depth ≤ v.toNat ∧ e < 16 ∧ (t.lane lane).chip[e]? = some x ∧ e < (t.lane lane).depth) ∧
    (∃ (t : Sheaf) (lane : Nat) (v : Word) (e : Nat), lane < t.width ∧ lane < 64 ∧ v.toNat % 4 = 0 ∧ e < 16 ∧ (t.lane lane).depth ≤ e) ∧
    (∃ (t : Sheaf) (lane : Nat) (e : Nat) (r : Replay), lane < t.width ∧ lane < 64 ∧ e < 8 ∧ t.replay[e]? = some r) ∧
    ∃ (t : Sheaf) (lane : Nat) (e : Nat), lane < t.width ∧ lane < 64 ∧ e < 8 ∧ t.replay.length ≤ e :=
  ⟨⟨.t, .s 23, .z, .z, devS, kS (.twrd .t (.s 23) .z .z), 3, _, rfl, issuesS (by decide +kernel), rfl, rfl, by decide +kernel, by decide +kernel⟩,
   ⟨.t, .s 0, .z, .z, devS, kS (.twwr .t (.s 0) .z .z), 3, _, issuesS (by decide +kernel), rfl, rfl, by decide +kernel⟩,
   ⟨.t, .z, .z, .s 0, devS, kS (.twwr .t .z .z (.s 0)), 3, _, issuesS (by decide +kernel), rfl, rfl, by decide +kernel, by decide +kernel⟩,
   ⟨{ sh0 with width := 64, lanes := [(63, { Lane.fresh 0 with depth := 1 })] }, 63, 0, by decide⟩,
   ⟨{ sh0 with width := 64, lanes := [(63, { Lane.fresh 0 with depth := 16, chip := List.replicate 16 ⟨0xC0, 7⟩ })] }, 63, 0xB1, 15, _, by decide, by decide,
    by decide, by decide, by decide, by decide, rfl, by decide⟩,
   ⟨sh0, 7, 0, 0, by decide⟩, ⟨{ sh0 with replay := List.replicate 8 ⟨[1, 2], 2, true, 1, 0, [], 0, 0⟩ }, 0, 7, _, by decide, by decide, by decide, rfl⟩,
   ⟨sh0, 0, 7, by decide⟩⟩
/-- The same, the trapped sheaf with a replay entry. -/
def devRp : State := { devS with
  sheaves := [(3, { sh0 with frozen := true, trap := some (tr0 4), slot := some 0, replay := [⟨[1], 1, true, 1, 0, [], 0, 0⟩] }), (6, trapSheaf)] }
/-- The same with a second sheaf 8 of the stook, which the trap stook 5 serves. -/
def stook2 : Stook := { stook0 with sheaves := [3, 8] }
def trapStook7 : Stook := { stook0 with sheaves := [7], trapStook := true, wUnits := 0, aUnits := 0, cUnits := 0 }
def devTk : State := { devS with
  sheaves := devS.sheaves ++ [(7, { trapSheaf with uid := 5, serves := some 8 }), (8, { sh0 with frozen := true, trap := some (tr0 4), slot := some 1 })]
  stooks := [(1, stook2), (4, { stook0 with sheaves := [6], trapStook := true, wUnits := 0, aUnits := 0, cUnits := 0 }), (5, trapStook7)], nextId := 9 }
theorem hyps_TrapEnds :
    (∃ g s k sid t, Issues (.tres g) s k ∧ k.sh.serves = some sid ∧ s.sheaf? sid = some t ∧ sid ≠ k.sid ∧ t.held = [] ∧ t.watchq = [] ∧ Spec.Quiet s k) ∧
    (∃ s sid t, s.sheaf? sid = some t ∧ (∃ k g, Issues (.tres g) s k ∧ k.sh.serves = some sid ∧ sid ≠ k.sid ∧ Spec.Quiet s k) ∧
      t.held = [] ∧ t.watchq = [] ∧ t.replay.filter (fun e => e.valid) ≠ []) ∧
    ∃ g s k sid t st vt, Issues (.tkill g) s k ∧ k.sh.serves = some sid ∧ s.sheaf? sid = some t ∧ sid ≠ k.sid ∧
      s.stooks.sorted = true ∧ s.stookOf k.sh = some st ∧ st.trapStook = true ∧ s.stook? t.uid = some vt ∧ sid ∈ vt.sheaves ∧
      vt.trapStook = false ∧ (∀ x ∈ s.stooks, k.sid ∈ x.2.sheaves → x.1 = k.sh.uid) ∧ t.uid ≠ k.sh.uid ∧ k.sh.flights = [] ∧
      (∃ x ∈ s.stooks, x.2.crop = vt.crop ∧ x.2.rick = vt.rick ∧ x.2.trapStook = false) ∧
      ∃ x ∈ s.stooks, x.2.trapStook = true ∧ x.1 ≠ k.sh.uid ∧
        ∃ y ∈ x.2.sheaves, ∃ h z, s.sheaf? y = some h ∧ h.serves = some z ∧ ∃ v ∈ s.rickOf vt, z ∈ v.2.sheaves :=
  ⟨⟨.t, devS, kS (.tres .t), 3, _, issuesS (by decide +kernel), rfl, rfl, by decide, rfl, rfl, ⟨rfl, rfl, rfl, by decide +kernel⟩⟩,
   ⟨devRp, 3, _, rfl, ⟨kS (.tres .t), .t, ⟨⟨_, rfl, rfl, rfl⟩, rfl, by decide +kernel, by decide +kernel⟩, rfl, by decide, ⟨rfl, rfl, rfl, by decide +kernel⟩⟩,
    rfl, rfl, by decide⟩,
   ⟨.t, devTk, kS (.tkill .t), 3, _, _, stook2, ⟨⟨_, rfl, rfl, rfl⟩, rfl, by decide +kernel, by decide +kernel⟩, rfl, rfl, by decide, by decide, rfl, rfl, rfl, by decide, rfl,
    by decide, by decide, rfl, ⟨(1, stook2), by decide, rfl, rfl, rfl⟩,
    (5, trapStook7), by decide, rfl, by decide, 7, by decide, _, 8, rfl, rfl, (1, stook2), by decide +kernel, by decide⟩⟩

/-- The sheaf with only the lanes of the path unfinished. -/
def shBar : Sheaf :=
  let out (l : Nat) : Nat × Lane := (l + 2, { Lane.fresh 0 with exited := true })
  { sh0 with lanes := [(0, Lane.fresh 0x40001000), (1, Lane.fresh 0x40001000), out 0, out 1, out 2, out 3, out 4, out 5] }
/-- A crop in deterministic mode whose token is elsewhere or here. -/
def devD (here : Bool) (sh : Sheaf) : State :=
  { at_ sh with crops := [(2, { crop0 (2 ^ 19) with tokPos := if here then 0 else 1 })] }
theorem hyps_BarriersAndTokens :
    ((∃ i g s k st, (i = .barB32 g) ∧ Issues i s k ∧ Spec.Quiet s k ∧ Spec.AtPc k ∧ s.stookOf k.sh = some st ∧
       s.sheavesOf st = [(k.sid, k.sh)] ∧ st.merge = [] ∧ (∀ c ∈ st.cores, (s.barn (barnOf c)).gather = []) ∧ k.sh.live &&& ~~~k.path = 0 ∧ k.path &&& ~~~k.sh.full = 0) ∧
     ∃ i g s k st, (i = .barX64 g) ∧ Issues i s k ∧ Spec.Quiet s k ∧ s.stookOf k.sh = some st ∧ st.trapStook = false ∧
       k.sid ∈ st.sheaves ∧ k.sh.live &&& ~~~k.path ≠ 0) ∧
    (∃ i g s k st c, (i = .tkwaitB32 g) ∧ Issues i s k ∧ s.stookOf k.sh = some st ∧ s.cropOf st = some c ∧ (c.det = false ∨ st.trapStook = true)) ∧
    (∃ i g s k st c, (i = .tkpassX64 g) ∧ Issues i s k ∧ s.stookOf k.sh = some st ∧ s.cropOf st = some c ∧ c.det = true ∧
      st.trapStook = false ∧ st.holdsToken c = false) ∧
    (∃ i g s k st c, (i = .tkwaitX64 g) ∧ Issues i s k ∧ s.stookOf k.sh = some st ∧ s.cropOf st = some c ∧ c.det = true ∧
      st.trapStook = false ∧ st.holdsToken c = false) ∧
    ∃ i g s k st c, (i = .tkpassB32 g) ∧ Issues i s k ∧ s.stookOf k.sh = some st ∧ s.cropOf st = some c ∧ c.det = true ∧
      st.trapStook = false ∧ st.holdsToken c = true ∧ Spec.Quiet s k ∧ Spec.AtPc k ∧ k.path &&& ~~~k.sh.full = 0 ∧
      ∀ n, (s.addFlight k i .waiting true []).2.tokenBusy k.sh.uid n st = false := by
  refine ⟨⟨⟨.barB32 .t, .t, at_ shBar, kOf (.barB32 .t) shBar, stook0, rfl, issues rfl rfl (by decide +kernel), quiet _ _ rfl rfl (by decide +kernel),
      fun _ => lanes64 (by decide +kernel), rfl, by decide +kernel, rfl, by decide +kernel, by decide +kernel, by decide +kernel⟩,
     ⟨.barX64 .t, .t, at_ sh0, kOf (.barX64 .t) sh0, stook0, rfl, issues rfl rfl (by decide +kernel), quiet _ _ rfl rfl (by decide +kernel),
      rfl, rfl, by decide, by decide +kernel⟩⟩,
    ⟨.tkwaitB32 .t, .t, at_ sh0, kOf (.tkwaitB32 .t) sh0, stook0, _, rfl, issues rfl rfl (by decide +kernel), rfl, rfl, .inl (by decide +kernel)⟩,
    ⟨.tkpassX64 .t, .t, devD false sh0, kOf (.tkpassX64 .t) sh0, stook0, _, rfl, issues rfl rfl (by decide +kernel), rfl, rfl, by decide +kernel, rfl, by decide +kernel⟩,
    ⟨.tkwaitX64 .t, .t, devD false sh0, kOf (.tkwaitX64 .t) sh0, stook0, _, rfl, issues rfl rfl (by decide +kernel), rfl, rfl, by decide +kernel, rfl, by decide +kernel⟩,
    ⟨.tkpassB32 .t, .t, devD true sh0, kOf (.tkpassB32 .t) sh0, stook0, _, rfl, issues rfl rfl (by decide +kernel), rfl, rfl, by decide +kernel, rfl, by decide +kernel,
     ⟨rfl, rfl, rfl, by decide +kernel⟩, fun _ => lanes64 (by decide +kernel), by decide +kernel, fun n => ?_⟩⟩
  have h : ∀ e ∈ ((devD true sh0).addFlight (kOf (.tkpassB32 .t) sh0) (.tkpassB32 .t) .waiting true []).2.sheavesOf stook0,
      e.2.replay = [] ∧ ∀ f ∈ e.2.flights, gatedWrite f.instr = false ∧ f.tokenWrite stook0 = false := by decide +kernel
  simp only [State.tokenBusy, Bool.or_eq_false_iff]
  refine ⟨⟨⟨⟨⟨by decide +kernel, ?_⟩, by decide +kernel⟩, by decide +kernel⟩, by decide +kernel⟩, by decide +kernel⟩
  refine Bool.eq_false_iff.mpr fun hn => ?_
  obtain ⟨e, he, h1⟩ := List.any_eq_true.mp hn
  rw [(h e he).1] at h1
  simp only [List.any_nil, Bool.or_false] at h1
  obtain ⟨f, hf, h2⟩ := List.any_eq_true.mp h1
  rw [((h e he).2 f hf).1, ((h e he).2 f hf).2] at h2
  simp at h2

/-- Queue 63 takes records from the device, its ring of two at 0x40006000. -/
def q63 (tail : Word) : LQueue := { LQueue.reset with base := 0x40006000, size := 2, ctl := 0x1800, tail := tail }
def shL : Sheaf := { sh0 with s := [(0, 0x40005000), (2, 63), (4, 0x40007000)] }
def devL (tail : Word) : State := { at_ shL with queues := [(63, q63 tail)], nextId := 4 }
def launchOk (s : State) (k : Ctx) (i : Instr) (qn : Nat) (rec : DWord) : Bool :=
  match s.launchXlate k.sh.core k.ctx qn rec with
  | (.ok _, s1) =>
    match (s1.addFlight k i .releasing false []).2.launchXlate k.sh.core k.ctx qn rec with
    | (.ok [x, y], s2) => !s2.unitWaits (x.2.2.1, 128, x.2.2.2.1, x.2.2.2.2.1, x.2.2.2.2.2) &&
        !s2.unitWaits (y.2.2.1, 128, y.2.2.2.1, y.2.2.2.2.1, y.2.2.2.2.2) && !isHost x.2.2.1 && !isHost y.2.2.1 &&
        (halvesOf y.2.2.1 128).all (fun h => !s2.hostHolds h) &&
        (List.range 2).all (fun j => marksB s2 (s2.queue qn).ctx y.2.2.2.1 y.2.2.1 (y.2.2.1 / 128 + j))
    | _ => false
  | _ => false
theorem launchHyps {s : State} {k : Ctx} {i : Instr} {qn : Nat} {rec : DWord} (h : launchOk s k i qn rec = true) :
    ∃ xs s1 x y s2, s.launchXlate k.sh.core k.ctx qn rec = (.ok xs, s1) ∧
      (s1.addFlight k i .releasing false []).2.launchXlate k.sh.core k.ctx qn rec = (.ok [x, y], s2) ∧
      s2.unitWaits (x.2.2.1, 128, x.2.2.2.1, x.2.2.2.2.1, x.2.2.2.2.2) = false ∧
      s2.unitWaits (y.2.2.1, 128, y.2.2.2.1, y.2.2.2.2.1, y.2.2.2.2.2) = false ∧
      (isHost y.2.2.1 = false → isPeer y.2.2.1 = false → ∀ h ∈ halvesOf y.2.2.1 128, s2.hostHolds h = false) ∧
      (isHost x.2.2.1 = true ∨ isHost y.2.2.1 = true → s2.hostLinkOf k.sid = true) ∧
      ∀ line, y.2.2.1 / 128 ≤ line → line ≤ (y.2.2.1 + 127) / 128 → Spec.MarksElsewhere s2 (s2.queue qn).ctx y.2.2.2.1 y.2.2.1 line := by
  unfold launchOk at h
  split at h
  · rename_i xs s1 h1
    split at h
    · rename_i x y s2 h2
      simp only [Bool.and_eq_true, Bool.not_eq_true', List.all_eq_true] at h
      obtain ⟨⟨⟨⟨⟨ha, hb⟩, hc⟩, hd⟩, he⟩, hm⟩ := h
      exact ⟨xs, s1, x, y, s2, h1, h2, ha, hb, fun _ _ => he, fun h => by simp [hc, hd] at h, fun line l1 l2 => by
        obtain ⟨j, rfl⟩ := Nat.exists_eq_add_of_le l1
        exact marks (hm j (List.mem_range.mpr (by omega)))⟩
    · simp at h
  · simp at h
/-- A counter at 0x40007000 of this value. -/
def devCc (v : Nat) : State := { at_ shL with mem := memWrite dev.mem 0x40007000 (bytesOf 8 v) }
theorem ccHyps (v : Nat) (i : Instr) (P : DWord → Bool) (h : (match (devCc v).xlateLanes (some 0) 0 .read [(64, (kOf i shL).pairA (SReg.s 4).reg 0)] with
      | (.ok [x], s1) => decide (localB s1 [x]) && (wordsOf x.2.2.1 8).all (fun wa => (s1.ownerOf wa).isNone) &&
          P (BitVec.ofNat 64 (natOfBytes (s1.cohRead x.2.2.1 8))) && s1.waits.isEmpty && !s1.hostMod x.2.2.1
      | _ => false) = true) :
    ∃ x s1, (devCc v).xlateLanes (some (kOf i shL).sh.core) (kOf i shL).ctx .read [(64, (kOf i shL).pairA (SReg.s 4).reg 0)] = (.ok [x], s1) ∧
      Spec.Local s1 [x] ∧ (∀ wa ∈ wordsOf x.2.2.1 8, s1.ownerOf wa = none) ∧
      P (BitVec.ofNat 64 (natOfBytes (s1.cohRead x.2.2.1 8))) = true ∧ s1.waits = [] ∧ s1.hostMod x.2.2.1 = false := by
  split at h
  · rename_i x s1 h1
    simp only [Bool.and_eq_true, List.all_eq_true, Option.isNone_iff_eq_none, decide_eq_true_eq, List.isEmpty_iff, Bool.not_eq_true'] at h
    exact ⟨x, s1, h1, h.1.1.1.1, h.1.1.1.2, h.1.1.2, h.1.2, h.2⟩
  · simp at h
theorem hyps_LaunchAndCounterWaits :
    (∃ g d a b s k st c xs s1 x y s2, (Instr.launch g d a b).wf = true ∧ Issues (.launch g d a b) s k ∧ Spec.Quiet s k ∧
      s.stookOf k.sh = some st ∧ s.cropOf st = some c ∧ (Spec.SB k b).toNat ≤ 63 ∧ k.sh.watch = [] ∧ c.part = (s.queue (Spec.SB k b).toNat).part ∧
      (s.queue (Spec.SB k b).toNat).devprod = true ∧ (s.queue (Spec.SB k b).toNat).enable = true ∧ (k.pairA (SReg.reg a) 0).toNat % 128 = 0 ∧
      s.launchXlate k.sh.core k.ctx (Spec.SB k b).toNat (k.pairA a.reg 0) = (.ok xs, s1) ∧
      (s1.addFlight k (.launch g d a b) .releasing false []).2.launchXlate k.sh.core k.ctx (Spec.SB k b).toNat (k.pairA a.reg 0) = (.ok [x, y], s2) ∧
      s2.unitWaits (x.2.2.1, 128, x.2.2.2.1, x.2.2.2.2.1, x.2.2.2.2.2) = false ∧
      s2.unitWaits (y.2.2.1, 128, y.2.2.2.1, y.2.2.2.2.1, y.2.2.2.2.2) = false ∧
      (isHost y.2.2.1 = false → isPeer y.2.2.1 = false → ∀ h ∈ halvesOf y.2.2.1 128, s2.hostHolds h = false) ∧
      (isHost x.2.2.1 = true ∨ isHost y.2.2.1 = true → s2.hostLinkOf k.sid = true) ∧
      ∀ line, y.2.2.1 / 128 ≤ line → line ≤ (y.2.2.1 + 127) / 128 →
        Spec.MarksElsewhere s2 (s2.queue (Spec.SB k b).toNat).ctx y.2.2.2.1 y.2.2.1 line) ∧
    (∃ i g d a s k x s1, (i = .ccwaitB32 g d a) ∧ i.wf = true ∧ Issues i s k ∧ (k.pairA (SReg.reg a) 0).toNat % 8 = 0 ∧ k.sh.watch = [] ∧
      s.xlateLanes (some k.sh.core) k.ctx .read [(64, k.pairA a.reg 0)] = (.ok [x], s1) ∧ Spec.Local s1 [x] ∧
      (∀ wa ∈ wordsOf x.2.2.1 8, s1.ownerOf wa = none) ∧ s1.hostMod x.2.2.1 = false ∧ k.sh.flights = [] ∧
      (BitVec.ofNat 64 (natOfBytes (s1.cohRead x.2.2.1 8)) : DWord).toInt ≤ 0 ∧ Spec.AtPc k) ∧
    ∃ i g d a s k x s1, (i = .ccwaitX64 g d a) ∧ i.wf = true ∧ Issues i s k ∧ (k.pairA (SReg.reg a) 0).toNat % 8 = 0 ∧ k.sh.watch = [] ∧
      s.xlateLanes (some k.sh.core) k.ctx .read [(64, k.pairA a.reg 0)] = (.ok [x], s1) ∧ Spec.Local s1 [x] ∧
      (∀ wa ∈ wordsOf x.2.2.1 8, s1.ownerOf wa = none) ∧ s1.hostMod x.2.2.1 = false ∧ k.sh.flights = [] ∧
      0 < (BitVec.ofNat 64 (natOfBytes (s1.cohRead x.2.2.1 8)) : DWord).toInt ∧ (∀ e ∈ s1.waits, e.sid ≠ k.sid) ∧
      (s1.waits.filter (fun e => e.hd == x.2.2.2.2.1 && sliceOf e.pa == sliceOf x.2.2.1)).length < 128 := by
  refine ⟨?_, ?_, ?_⟩
  · have ⟨xs, s1, x, y, s2, h⟩ := launchHyps (s := devL 2) (k := kOf (.launch .t (.s 6) (.s 0) (.s 2)) shL) (i := .launch .t (.s 6) (.s 0) (.s 2))
      (qn := (Spec.SB (kOf (.launch .t (.s 6) (.s 0) (.s 2)) shL) (.s 2)).toNat)
      (rec := (kOf (.launch .t (.s 6) (.s 0) (.s 2)) shL).pairA (SReg.s 0).reg 0) (by decide +kernel)
    exact ⟨.t, .s 6, .s 0, .s 2, devL 2, kOf (.launch .t (.s 6) (.s 0) (.s 2)) shL, stook0, _, xs, s1, x, y, s2, rfl, issues rfl rfl (by decide +kernel),
      ⟨rfl, rfl, rfl, by decide +kernel⟩, rfl, rfl, by decide +kernel, rfl, by decide +kernel, by decide +kernel, by decide +kernel, by decide +kernel, h⟩
  · have ⟨x, s1, h1, h2, h3, h4, _, h6⟩ := ccHyps (2 ^ 64 - 1) (.ccwaitB32 .t (.s 22) (.s 4)) (fun v => decide (v.toInt ≤ 0)) (by decide +kernel)
    exact ⟨_, .t, .s 22, .s 4, devCc (2 ^ 64 - 1), kOf (.ccwaitB32 .t (.s 22) (.s 4)) shL, x, s1, rfl, rfl, issues rfl rfl (by decide +kernel), by decide +kernel, rfl,
      h1, h2, h3, h6, rfl, of_decide_eq_true h4, fun _ => lanes64 (by decide +kernel)⟩
  · have ⟨x, s1, h1, h2, h3, h4, h5, h6⟩ := ccHyps 1 (.ccwaitX64 .t (.s 22) (.s 4)) (fun v => decide (0 < v.toInt)) (by decide +kernel)
    exact ⟨_, .t, .s 22, .s 4, devCc 1, kOf (.ccwaitX64 .t (.s 22) (.s 4)) shL, x, s1, rfl, rfl, issues rfl rfl (by decide +kernel), by decide +kernel, rfl,
      h1, h2, h3, h6, rfl, of_decide_eq_true h4, by rw [h5]; simp, by rw [h5]; simp⟩
/-! ### Witnesses: fitted regions -/

/-- A device with one region of 16 points: its descriptor at 0x40030000, parameters at 0x40040000, lists at 0x40050000,
all zero. The caches hold what names it. -/
def rg : Region :=
  { Region.fresh 0 0x40030000 0 with f := ⟨1, 0, [1], 4, 0, 7, [16], [0], [0], 0x40040000, 0x40050000⟩, valid := true }
def memQ : KV Byte :=
  [(0x40000, 1), (0x40002, 8), (0x40012, 3), (0x40013, 0x40), (0x40018, 1), (0x80000, 1), (0x80002, 9), (0x90008, 0x3F), (0x9000B, 0x40),
   (0x90010, 0x3F), (0x90016, 0xC)]
/-- The context's entry. -/
def ctxQ : List Byte := [1, 0, 8] ++ List.replicate 15 0 ++ [3, 0x40, 0, 0, 0, 0, 1] ++ List.replicate 39 0
def baseQ : State :=
  { State.reset with
    mem := memQ, rel := { RelPage.reset with ready := 0x1FFFFFFFF }
    trans := { TransPage.reset with ctxbase := 0x40000, ctxCache := [(0, ctxQ)] }
    fabric := { FabricPage.reset with hostUp := [true, true] }
    cores := [(0, { Core.fresh .usable with tlb := [(0x40000, ⟨0x4000003F, 0x90008, 2⟩)] })]
    stooks := [(1, stook0)], crops := [(2, crop0 0)], nextId := 4, cur := some cur0
    refitQ := [(0, [⟨0x40030000, 0, none, [], false, []⟩])] }
/-- The homes once the region's home has written its descriptor. -/
def homesQ : KV HomeLine := [(0x800600, { HomeLine.fresh with last := some (.die 0) })]
/-- What lies below 4 GiB does not differ outside the descriptor. -/
abbrev SameQ (M : KV Byte) : Prop := ∀ a < 2 ^ 32, a / 256 ≠ 0x400300 → memByte M a = memByte memQ a
/-- The same with these sheaves, this count of free values, these regions, this memory, these homes and requests. -/
abbrev frQ (X : KV Sheaf) (T : Nat) (R : KV Region) (M : KV Byte) (G : KV HomeLine × KV (List RefitReq)) : State :=
  { baseQ with sheaves := X, tick := T, regions := R, mem := M, homes := G.1, refitQ := G.2 }
abbrev g0 : KV HomeLine × KV (List RefitReq) := ([], baseQ.refitQ)
def devQ (r : Region) (sh : Sheaf) : State := frQ [(3, sh)] 0 [(0x40030000, r)] memQ g0
section
variable (X : KV Sheaf) (T : Nat) (R : KV Region) (M : KV Byte) (G : KV HomeLine × KV (List RefitReq)) (hM : SameQ M)
  (hG : G.1 = [] ∨ G.1 = homesQ)
include hG in
/-- No word of it has an owner, no half is the host's, nothing is poisoned. -/
theorem q_home (line : Nat) : ((frQ X T R M G).home line).owners = [] ∧ ((frQ X T R M G).home line).held = 0 ∧
    ((frQ X T R M G).home line).heldMod = 0 ∧ ((frQ X T R M G).home line).poison = 0 := by
  have e : (frQ X T R M G).home line = G.1.getD line .fresh := rfl
  rw [e]
  rcases hG with h | h <;> rw [h]
  · exact ⟨rfl, rfl, rfl, rfl⟩
  · simp only [homesQ, KV.getD, KV.find?]
    split <;> exact ⟨rfl, rfl, rfl, rfl⟩
include hM hG
theorem q_cohRead (pa n : Nat) (h : pa + n ≤ 2 ^ 32 ∧ (pa + n ≤ 0x40030000 ∨ 0x40030100 ≤ pa)) : (frQ X T R M G).cohRead pa n = baseQ.cohRead pa n := by
  induction n generalizing pa with
  | zero => rfl
  | succ n ih =>
    have e : ∀ x, (frQ X T R M G).homeWord x = (match memRead M (4 * x) 4 with | [a, b, c, d] => d ++ c ++ b ++ a | _ => 0) := fun _ => rfl
    have e' : ∀ x, baseQ.homeWord x = (match memRead memQ (4 * x) 4 with | [a, b, c, d] => d ++ c ++ b ++ a | _ => 0) := fun _ => rfl
    have hw : (frQ X T R M G).homeWord (pa / 4) = baseQ.homeWord (pa / 4) := by
      rw [e, e']
      simp only [memRead, hM (4 * (pa / 4)) (by omega) (by omega), hM (4 * (pa / 4) + 1) (by omega) (by omega),
        hM (4 * (pa / 4) + 1 + 1) (by omega) (by omega), hM (4 * (pa / 4) + 1 + 1 + 1) (by omega) (by omega)]
    have ho : (frQ X T R M G).ownerOf (pa / 4) = none := by rw [State.ownerOf, (q_home X T R M G hG _).1]; rfl
    have ho' : baseQ.ownerOf (pa / 4) = none := rfl
    show wordByte ((frQ X T R M G).cohWord (pa / 4)) (pa % 4) :: (frQ X T R M G).cohRead (pa + 1) n =
      wordByte (baseQ.cohWord (pa / 4)) (pa % 4) :: baseQ.cohRead (pa + 1) n
    rw [ih _ (by omega), State.cohWord, State.cohWord, ho, ho', hw]
theorem q_pte (a : Nat) (h : baseQ.place a = .loc a ∧ a + 8 ≤ 0x40030000) :
    (frQ X T R M G).pte a = BitVec.ofNat 64 (natOfBytes (baseQ.cohRead a 8)) := by
  have hp : (frQ X T R M G).place a = .loc a := h.1
  simp only [State.pte, State.physNat, State.physRead, hp]
  rw [show (Place.loc a).canon = a from rfl, q_cohRead X T R M G hM hG a 8 (by omega)]
theorem q_ctx : (frQ X T R M G).ctxEntry 0 = (ctxQ, frQ X T R M G) := by
  have h : (frQ X T R M G).ctxBytes 0 = ctxQ := by
    have h1 : (frQ X T R M G).ctxBytes 0 = (frQ X T R M G).cohRead (baseQ.place (baseQ.trans.ctxbase.toNat + 64 * 0)).canon 64 := rfl
    rw [h1, q_cohRead X T R M G hM hG _ _ (by decide +kernel)]; decide +kernel
  have h2 : (frQ X T R M G).trans.ctxCache.find? 0 = some (ctxQ) := rfl
  simp only [State.ctxEntry, h, h2, if_true]
theorem q_walk (va i : Nat) (e : DWord) (h : va / 2 ^ 30 = i) (hi : i < 512) (he : baseQ.place (0x90000 + 8 * i) = .loc (0x90000 + 8 * i))
    (e2 : BitVec.ofNat 64 (natOfBytes (baseQ.cohRead (0x90000 + 8 * i) 8)) = e)
    (c2 : pteBit e 5 = true ∧ 1 + 1 < 3 ∧ leafOk e (1 + 1) 0 = true) :
    (frQ X T R M G).walkAt va 3 0x80000 = .leaf ⟨e, 0x90000 + 8 * i, 2⟩ := by
  have h3 : walkIndex va (2 + 1) = 0 := by show va / 549755813888 % 8192 = 0; omega
  have h2 : walkIndex va (1 + 1) = i := by show va / 1073741824 % 512 = i; omega
  have e1 : (frQ X T R M G).pte 0x80000 = 0x90001 := by rw [q_pte X T R M G hM hG _ (by decide +kernel)]; decide +kernel
  have e2 : (frQ X T R M G).pte (0x90000 + 8 * i) = e := by rw [q_pte X T R M G hM hG _ ⟨he, by omega⟩]; exact e2
  have c1 : pteBit (0x90001 : DWord) 5 = false ∧ (pteBit 0x90001 0 && !pteReserved 0x90001) = true ∧ pteBase 0x90001 = 0x90000 := by decide +kernel
  show (if pteBit ((frQ X T R M G).pte (0x80000 + 8 * walkIndex va (2 + 1))) 5 then _ else _) = _
  rw [h3]
  show (if pteBit ((frQ X T R M G).pte 0x80000) 5 then _ else if pteBit ((frQ X T R M G).pte 0x80000) 0 && !pteReserved ((frQ X T R M G).pte 0x80000) then
    (frQ X T R M G).walkAt va 2 (pteBase ((frQ X T R M G).pte 0x80000)) else _) = _
  rw [e1, c1.1, c1.2.1, c1.2.2]
  simp only [Bool.false_eq_true, if_false, if_true]
  show (if pteBit ((frQ X T R M G).pte (0x90000 + 8 * walkIndex va (1 + 1))) 5 then
    (if 1 + 1 < 3 ∧ leafOk ((frQ X T R M G).pte (0x90000 + 8 * walkIndex va (1 + 1))) (1 + 1) 0 then
      Walk.leaf ⟨(frQ X T R M G).pte (0x90000 + 8 * walkIndex va (1 + 1)), 0x90000 + 8 * walkIndex va (1 + 1), 1 + 1⟩ else _) else _) = _
  rw [h2, e2, c2.1, if_pos rfl, if_pos c2.2]
theorem q_lookup (va : DWord) (i : Nat) (e : DWord) (h : va.toNat / 2 ^ 30 = i) (hi : i < 512)
    (he : baseQ.place (0x90000 + 8 * i) = .loc (0x90000 + 8 * i)) (e2 : BitVec.ofNat 64 (natOfBytes (baseQ.cohRead (0x90000 + 8 * i) 8)) = e)
    (c2 : pteBit e 5 = true ∧ 1 + 1 < 3 ∧ leafOk e (1 + 1) 0 = true) (c3 : pteBit e 3 = true) :
    (frQ X T R M G).lookup none 0 va = (some (.leaf ⟨e, 0x90000 + 8 * i, 2⟩), frQ X (T + 1) R M G) := by
  have hr : fieldNat (ctxQ) 0 8 = 0x80001 := by decide +kernel
  rw [State.lookup, if_neg (by omega)]
  simp only [q_ctx X T R M G hM hG, hr, q_walk X T R M G hM hG _ i e h hi he e2 c2, State.walked]
  rw [if_neg (by decide)]
  simp only [c3, if_true]
/-- Addresses from 1 GiB on are their own places. -/
theorem q_translate (va : DWord) (k : AKind) (h : va.toNat / 2 ^ 30 = 1) :
    (frQ X T R M G).translate none 0 va k true = (.ok va.toNat 0x90008 0 false, frQ X (T + 1) R M G) := by
  have hl := q_lookup X T R M G hM hG va 1 0x4000003F h (by omega) (by decide +kernel) (by decide +kernel) (by decide +kernel) (by decide +kernel)
  have hp : TlbEnt.pa ⟨0x4000003F, 0x90000 + 8 * 1, 2⟩ va = va.toNat := by
    have : pteBase 0x4000003F = 2 ^ 30 := by decide +kernel
    simp only [TlbEnt.pa, this, pageSize]; simp; omega
  have hq : (frQ X (T + 1) R M G).place va.toNat = .loc va.toNat := by
    show (if va.toNat / 2 ^ 50 % 4 = 3 then _ else if va.toNat / 2 ^ 50 % 4 = 2 then _ else
      if memBytes ≤ va.toNat % 2 ^ 51 then _ else Place.loc (va.toNat % 2 ^ 51)) = _
    rw [if_neg (by omega), if_neg (by omega), if_neg (by unfold memBytes; omega), Nat.mod_eq_of_lt (by omega)]
  have hw : permits 0x4000003F k = true := by cases k <;> decide +kernel
  have hc : (Place.loc va.toNat).canon = va.toNat := rfl
  have hs : (frQ X (T + 1) R M G).stackFailed (.loc va.toNat) 0x4000003F = false := by
    show baseQ.dieFailed _ = false
    decide +kernel
  have hb : (BitVec.extractLsb' 10 2 (0x4000003F : DWord)).toNat = 0 ∧ ((BitVec.extractLsb' 8 2 (0x4000003F : DWord)).toNat == 1) = false := by
    decide +kernel
  simp only [State.translate, hl, hw, hp, hq, hs, hc, hb, Bool.not_true, Bool.false_eq_true, if_false, or_false, reduceCtorEq]
/-- Addresses from 2 GiB on are the host's from its first. -/
theorem q_translateH (va : DWord) (k : AKind) (h : va.toNat / 2 ^ 30 = 2) :
    (frQ X T R M G).translate none 0 va k true = (.ok (3 * 2 ^ 50 + (va.toNat - 2 ^ 31)) 0x90010 0 false, frQ X (T + 1) R M G) := by
  have hl := q_lookup X T R M G hM hG va 2 0xC00000000003F h (by omega) (by decide +kernel) (by decide +kernel) (by decide +kernel) (by decide +kernel)
  have hp : TlbEnt.pa ⟨0xC00000000003F, 0x90000 + 8 * 2, 2⟩ va = 3 * 2 ^ 50 + (va.toNat - 2 ^ 31) := by
    have : pteBase 0xC00000000003F = 3 * 2 ^ 50 := by decide +kernel
    simp only [TlbEnt.pa, this, pageSize]; simp; omega
  have hq : (frQ X (T + 1) R M G).place (3 * 2 ^ 50 + (va.toNat - 2 ^ 31)) = .host (va.toNat - 2 ^ 31) := by
    show (if (3 * 2 ^ 50 + (va.toNat - 2 ^ 31)) / 2 ^ 50 % 4 = 3 then Place.host ((3 * 2 ^ 50 + (va.toNat - 2 ^ 31)) % 2 ^ 50) else _) = _
    rw [if_pos (by omega)]
    exact congrArg Place.host (by omega)
  have hw : permits 0xC00000000003F k = true := by cases k <;> decide +kernel
  have hc : (Place.host (va.toNat - 2 ^ 31)).canon = 3 * 2 ^ 50 + (va.toNat - 2 ^ 31) := rfl
  have hs : (frQ X (T + 1) R M G).stackFailed (.host (va.toNat - 2 ^ 31)) 0xC00000000003F = false := rfl
  have hb : (BitVec.extractLsb' 10 2 (0xC00000000003F : DWord)).toNat = 0 ∧ ((BitVec.extractLsb' 8 2 (0xC00000000003F : DWord)).toNat == 1) = false := by
    decide +kernel
  simp only [State.translate, hl, hw, hp, hq, hs, hc, hb, Bool.not_true, Bool.false_eq_true, if_false, or_false, reduceCtorEq]
omit hM hG in
/-- The host link of the context's function is up. -/
theorem q_link (l : List Piece) : (frQ X T R M G).homeLink 0 l = true := by
  have h : (frQ X T R M G).fnUp ((frQ X T R M G).fnOfCtx 0) = baseQ.fnUp (baseQ.fnOfCtx 0) := rfl
  rw [State.homeLink, h, (by decide +kernel : baseQ.fnUp (baseQ.fnOfCtx 0) = true)]
  rfl
omit hM hG in
theorem onePiece (va n : Nat) (hn : 0 < n ∧ va % 4096 + n ≤ 4096) : pieces va n = [(BitVec.ofNat 64 va, n)] := by
  have e : Nat.min n (4096 - va % 4096) = n := Nat.min_eq_left (by omega)
  have e2 : n / 4096 + 2 = (n / 4096 + 1) + 1 := rfl
  unfold pieces
  rw [e2, pagesOf, if_neg (by omega), e]
  show (BitVec.ofNat 64 va, n) :: pagesOf (n / 4096 + 1) (va + n) (n - n) = _
  rw [Nat.sub_self, pagesOf, if_pos rfl]
theorem q_read (va n : Nat) (h : va / 2 ^ 30 = 1 ∧ (va + n ≤ 0x40030000 ∨ 0x40030100 ≤ va)) (hn : 0 < n ∧ va % 4096 + n ≤ 4096)
    (hz : baseQ.cohRead va n = List.replicate n 0) : homeRead 0 va n (frQ X T R M G) = .ok (List.replicate n 0, frQ X (T + 1) R M G) := by
  have h2 : (BitVec.ofNat 64 va).toNat = va := by simp; omega
  have h3 : isPeer va = false ∧ isHost va = false := by
    simp only [isPeer, isHost, decide_eq_false_iff_not]; omega
  have hp' : (frQ X (T + 1) R M G).poisoned va n = false := by
    rw [State.poisoned]
    simp [(q_home X (T + 1) R M G hG _).2.2.2]
  have hw : (frQ X (T + 1) R M G).unitWaits (va, n, 0x90008, 0, false) = false := by
    have hd : (frQ X (T + 1) R M G).dieWaits 0 = false := (by decide +kernel : baseQ.dieWaits 0 = false)
    simp [State.unitWaits, State.pieceWaits, State.hostMod, (q_home X (T + 1) R M G hG _).2.2.1, hd]
  have hl : (frQ X (T + 1) R M G).homeLink 0 [(va, n, 0x90008, 0, false)] = true := q_link X (T + 1) R M G _
  simp [homeRead, onePiece va n hn, State.translateAll, q_translate X T R M G hM hG (BitVec.ofNat 64 va) .read (by rw [h2]; exact h.1), h2, homeReaches, h3,
    hp', hw, hl, q_cohRead X (T + 1) R M G hM hG va n (by omega), hz]
theorem q_writeH (va : Nat) (bs : List Byte) (h : va / 2 ^ 30 = 2) (hn : 0 < bs.length ∧ va % 4096 + bs.length ≤ 4096) :
    homeWriteVa 0 0 va bs (frQ X T R M G) = .ok ((), frQ X (T + 1) R (memWrite M (3 * 2 ^ 50 + (va - 2 ^ 31)) bs) G) := by
  have h2 : (BitVec.ofNat 64 va).toNat = va := by simp; omega
  have h3 : isPeer (3 * 2 ^ 50 + (va - 2 ^ 31)) = false ∧ isHost (3 * 2 ^ 50 + (va - 2 ^ 31)) = true := by
    simp only [isPeer, isHost, decide_eq_false_iff_not, decide_eq_true_eq]; omega
  have ht := q_translateH X T R M G hM hG (BitVec.ofNat 64 va) .write (by rw [h2]; exact h)
  have hl : ∀ l, (frQ X (T + 1) R M G).homeLink 0 l = true := q_link X (T + 1) R M G
  rw [h2] at ht
  simp only [homeWriteVa, onePiece va bs.length hn, State.translateAll, ht, homeReaches, List.all_cons, List.all_nil, h3, Bool.not_false, Bool.and_self,
    List.any_cons, List.any_nil, State.pieceWaits, Bool.not_true, Bool.false_and, Bool.and_false, Bool.or_self, hl, Bool.false_eq_true,
    if_false, if_true, State.homePut, State.memWrite, List.take_length]
omit hM hG in
theorem q_frame (M : KV Byte) (hM : SameQ M) (pa : Nat) (bs : List Byte) (h : 2 ^ 32 ≤ pa) : SameQ (memWrite M pa bs) := by
  intro a ha h'
  rw [Laws.memByte_memWrite, if_neg (by omega)]
  exact hM a ha h'
omit hM in
/-- Writes of the host's pages go on to the last. -/
theorem q_upTo (l : List (Home Unit)) (hl : ∀ f ∈ l, ∃ va bs, f = homeWriteVa 0 0 va bs ∧ va / 2 ^ 30 = 2 ∧ 0 < bs.length ∧ va % 4096 + bs.length ≤ 4096) :
    ∀ (n T : Nat) (M : KV Byte), SameQ M → ∃ s, Home.upTo l n (frQ X T R M G) = (s, n + l.length, none) := by
  induction l with
  | nil => exact fun n T M _ => ⟨_, rfl⟩
  | cons f l ih =>
    intro n T M hM
    obtain ⟨va, bs, rfl, h, hb⟩ := hl f (by simp)
    obtain ⟨s, h'⟩ := ih (fun j hj => hl j (by simp [hj])) (n + 1) (T + 1) _ (q_frame M hM (3 * 2 ^ 50 + (va - 2 ^ 31)) bs (by omega))
    refine ⟨s, ?_⟩
    rw [Home.upTo, q_writeH X T R M G hM hG va bs h hb]
    simp only [h', List.length_cons]
    congr 2
    omega
end

theorem q_readable (r : Region) (s : State) (g : Nat) (hr : r.f = rg.f) (hc : r.ctx = 0) (hg : g < 2)
    (hs : ∃ X T R, s = frQ X T R memQ g0) : Spec.Readable s r g (fun _ n => List.replicate n 0) := by
  obtain ⟨X, T, R, rfl⟩ := hs
  intro u hu
  have hu : u = frQ u.sheaves u.tick R memQ g0 := by
    obtain ⟨⟩ := u
    simp only [frQ, State.mk.injEq] at hu ⊢
    simp_all
  have key : ∀ a n, a / 2 ^ 30 = 1 → 0x40030100 ≤ a → (0 < n ∧ a % 4096 + n ≤ 4096) → baseQ.cohRead a n = List.replicate n 0 → ∃ u', homeRead r.ctx a n u = .ok (List.replicate n 0, u') ∧ { u' with tick := u.tick } = u := by
    intro a n h1 h0 h2 h3
    refine ⟨frQ u.sheaves (u.tick + 1) R memQ g0, ?_, ?_⟩
    · rw [hc, hu]; exact q_read _ _ _ _ _ (fun _ _ _ => rfl) (.inl rfl) a n ⟨h1, .inr h0⟩ h2 h3
    · rw [hu]
  have hk : ∀ g < 2, ∀ i < 16, (rg.area g + 16 * i) / 2 ^ 30 = 1 ∧ (rg.area g + 16 * i) % 4096 + 16 ≤ 4096 ∧
      baseQ.cohRead (rg.area g + 16 * i) 16 = List.replicate 16 0 ∧ 0x40030100 ≤ rg.area g + 16 * i := by decide +kernel
  have hk2 : ∀ g < 2, rg.slot g / 2 ^ 30 = 1 ∧ rg.slot g % 4096 + 8 ≤ 4096 ∧
      baseQ.cohRead (rg.slot g) 8 = List.replicate 8 0 ∧ 0x40030100 ≤ rg.slot g := by decide +kernel
  have ha : ∀ g, r.area g = rg.area g := fun g => by unfold Region.area; rw [hr]
  have hb : ∀ g, r.slot g = rg.slot g := fun g => by unfold Region.slot; rw [hr]
  constructor
  · rw [hb, hr]
    have h := hk2 g hg
    exact key _ 8 h.1 h.2.2.2 ⟨by omega, h.2.1⟩ h.2.2.1
  · intro i hi
    rw [hr] at hi
    rw [ha]
    have h := hk g hg i hi
    exact key _ 16 h.1 h.2.2.2 ⟨by omega, h.2.1⟩ h.2.2.1
/-- A region without room whose areas the host's memory holds, urgent or not. -/
def rgH (u : Bool) : Region := { rg with f := ⟨1, 0, [1], 4, 0, 7, [16], [0], [0], 0x80000000, 0x80001000⟩, urgent := u, count := 12 }
theorem q_begin (X : KV Sheaf) (u : Bool) (q : RefitReq) (hq : q.proposal = none) (s : State) (R : KV Region) (M : KV Byte) (Q : KV (List RefitReq))
    (hM : SameQ M) (hs : Spec.refitBegun s 0x40030000 (rgH u) q = frQ X 0 R M (homesQ, Q)) :
    ∃ bs s1 s2, refitProposal q (Spec.refitBegun s 0x40030000 (rgH u) q) = .ok (bs, s1) ∧
      Home.upTo (refitSteps (rgH u) bs) 0 s1 = (s2, 64 + (rgH u).f.cap, none) := by
  have hlen : ((Config.proposal 0 ++ List.replicate 1024 0).take 1024).length = 1024 := by
    rw [List.length_take, List.length_append, List.length_replicate]; omega
  have hc : (rgH u).f.cap = 16 ∧ (rgH u).hd = 0 ∧ (rgH u).ctx = 0 ∧ (rgH u).slot ((rgH u).gen + 1) = 0x80000400 ∧
      (rgH u).area ((rgH u).gen + 1) = 0x80001100 := by cases u <;> decide +kernel
  obtain ⟨s2, h⟩ := q_upTo X R (homesQ, Q) (.inr rfl) (refitSteps (rgH u) ((Config.proposal 0 ++ List.replicate 1024 0).take 1024))
    (by
      intro f hf
      simp only [refitSteps, clearArea, hc, List.mem_append, List.mem_map, List.mem_range] at hf
      rcases hf with ⟨i, hi, rfl⟩ | ⟨i, hi, rfl⟩
      · refine ⟨_, _, rfl, by omega, ?_, ?_⟩ <;> simp only [List.length_take, List.length_drop, hlen] <;> omega
      · refine ⟨_, _, rfl, by omega, ?_, ?_⟩ <;> simp only [List.length_replicate] <;> omega) 0 1 M hM
  have hl : ∀ bs, (refitSteps (rgH u) bs).length = 64 + (rgH u).f.cap := fun bs => by simp [refitSteps, clearArea]
  refine ⟨_, _, s2, ?_, by rw [← hl, ← Nat.zero_add (List.length _)]; exact h⟩
  rw [hs, refitProposal, hq]
theorem nameOk {s : State} {k : Ctx} {h : Word} {key : Nat} {r : Region} {s1 : State}
    (hh : (match nameRegion s k h with | (.region a b, c) => decide (a = key ∧ b = r ∧ c = s1) | _ => false) = true) :
    nameRegion s k h = (.region key r, s1) := by
  split at hh
  · rename_i a b c e
    obtain ⟨rfl, rfl, rfl⟩ := of_decide_eq_true hh
    exact e
  · simp at hh
/-- Lane 0 names point 15, lane 1 the point given; s0 is handle 0. -/
def shR (x : Nat) : Sheaf := { sh0 with regs := [(128, 15), (129, BitVec.ofNat 32 x)], s := [(2, 0x40008000), (4, 0x40009000), (6, 3)] }
def afterQ (r : Region) (sh : Sheaf) : State := frQ [(3, sh)] 1 [(0x40030000, r)] memQ g0
/-- Lane 0 alone. -/
def shR1 : Sheaf := { shR 15 with lanes := [(0, { Lane.fresh 0x40001000 with preds := 1 })] ++ (shR 15).lanes.tail }
theorem q_writes (X : KV Sheaf) (T : Nat) (R : KV Region) (M : KV Byte) (G : KV HomeLine × KV (List RefitReq)) (r : Region) (hM : SameQ M)
    (hG : G.1 = [] ∨ G.1 = homesQ) {va : Nat} (h : va / 2 ^ 30 = 1 ∧ va % 4096 + 16 ≤ 4096) (hr : r.ctx = 0) :
    Spec.WritesAt (frQ X T R M G) r va va 0x90008 0 false := by
  intro u hu
  have hu : u = frQ X u.tick R M G := by
    obtain ⟨⟩ := u
    simp only [frQ, State.mk.injEq] at hu ⊢
    simp_all
  have h2 : (BitVec.ofNat 64 va).toNat = va := by simp; omega
  refine ⟨frQ X (u.tick + 1) R M G, ?_, rfl⟩
  rw [hu, hr, onePiece va 16 (by omega)]
  simp only [State.translateAll, q_translate X _ R M G hM hG (BitVec.ofNat 64 va) .write (by rw [h2]; exact h.1), h2]
theorem latched : Spec.Latched rg.f := by unfold Spec.Latched; decide
def okWhere {α : Type} (r : Except HomeStop (α × State)) (p : α → State → Bool) : Bool :=
  match r with
  | .ok (a, s) => p a s
  | .error _ => false
theorem exOk {α : Type} {r : Except HomeStop (α × State)} {p : α → State → Bool} (h : okWhere r p = true) :
    ∃ a s, r = .ok (a, s) ∧ p a s = true := by
  cases r with
  | ok x => exact ⟨x.1, x.2, rfl, h⟩
  | error e => exact Bool.noConfusion h
theorem hyps_RegionLoadsAndStores :
    (∃ g d a hnd s k key r s1, (Instr.fld g d a hnd true).wf = true ∧ Issues (.fld g d a hnd true) s k ∧
      nameRegion s k (handleAt k hnd) = (.region key r, s1) ∧ r.valid = true ∧ s1.dieWaits r.hd = false ∧ s1.heldBefore key s1.nextId = false ∧
      laneSetOf 64 (fun l => k.e.getLsbD l && !(r.f.inDomain (coordsOf (k.pairA a l)))) ≠ 0) ∧
    (∃ g d a hnd trap s k key r s1 rd, (Instr.fld g d a hnd trap).wf = true ∧ Issues (.fld g d a hnd trap) s k ∧
      nameRegion s k (handleAt k hnd) = (.region key r, s1) ∧ r.valid = true ∧ s1.dieWaits r.hd = false ∧ s1.heldBefore key s1.nextId = false ∧
      laneSetOf 64 (fun l => k.e.getLsbD l && !(r.f.inDomain (coordsOf (k.pairA a l)))) = 0 ∧ Spec.Latched r.f ∧ Spec.Readable s1 r r.gen rd) ∧
    (∃ g d a hnd s k key r s1 rd, (Instr.fld g d a hnd false).wf = true ∧ Issues (.fld g d a hnd false) s k ∧
      nameRegion s k (handleAt k hnd) = (.region key r, s1) ∧ r.valid = true ∧ s1.dieWaits r.hd = false ∧ s1.heldBefore key s1.nextId = false ∧
      laneSetOf 64 (fun l => k.e.getLsbD l && !(r.f.inDomain (coordsOf (k.pairA a l)))) ≠ 0 ∧ s1.waits = [] ∧ Spec.Latched r.f ∧
      Spec.Readable s1 r r.gen rd) ∧
    (∃ g a b hnd s k key r s1, (Instr.fst g a b hnd).wf = true ∧ Issues (.fst g a b hnd) s k ∧
      nameRegion s k (handleAt k hnd) = (.region key r, s1) ∧ r.valid = true ∧ s1.dieWaits r.hd = false ∧ Spec.Latched r.f ∧ s1.heldBefore key s1.nextId = false ∧
      s1.waits = [] ∧ (∀ st c, s1.stookOf k.sh = some st → s1.cropOf st = some c → st.atomicRefused c = false) ∧
      laneSetOf 64 (fun l => k.e.getLsbD l && !(r.f.inDomain (coordsOf (k.pairA a l)))) ≠ 0) ∧
    (∃ g a b hnd s k key r s1 new s2, (Instr.fst g a b hnd).wf = true ∧ Issues (.fst g a b hnd) s k ∧
      nameRegion s k (handleAt k hnd) = (.region key r, s1) ∧ r.valid = true ∧ s1.dieWaits r.hd = false ∧ Spec.Latched r.f ∧ s1.heldBefore key s1.nextId = false ∧
      s1.waits = [] ∧ (∀ st c, s1.stookOf k.sh = some st → s1.cropOf st = some c → st.atomicRefused c = false) ∧
      laneSetOf 64 (fun l => k.e.getLsbD l && !(r.f.inDomain (coordsOf (k.pairA a l)))) = 0 ∧ r.refit = none ∧
      newKeys r (((Spec.stored k r a b).map (·.1)).eraseDups) s1 = .ok (new, s2) ∧ r.f.mark < r.count + new.length) ∧
    (∃ g a b hnd s k key r s1 new s2 ps s3, (Instr.fst g a b hnd).wf = true ∧ Issues (.fst g a b hnd) s k ∧
      nameRegion s k (handleAt k hnd) = (.region key r, s1) ∧ r.valid = true ∧ s1.dieWaits r.hd = false ∧ Spec.Latched r.f ∧ s1.heldBefore key s1.nextId = false ∧
      s1.waits = [] ∧ (∀ st c, s1.stookOf k.sh = some st → s1.cropOf st = some c → st.atomicRefused c = false) ∧
      laneSetOf 64 (fun l => k.e.getLsbD l && !(r.f.inDomain (coordsOf (k.pairA a l)))) = 0 ∧ r.refit = none ∧
      newKeys r (((Spec.stored k r a b).map (·.1)).eraseDups) s1 = .ok (new, s2) ∧ r.count + new.length ≤ r.f.mark ∧
      putAll r r.gen (Spec.stored k r a b) s2 = .ok (ps, s3)) ∧
    (∃ g a b hnd s k key r s1 new s2 ps s3 rd x v n pa pte hd ho, (Instr.fst g a b hnd).wf = true ∧ Issues (.fst g a b hnd) s k ∧
      nameRegion s k (handleAt k hnd) = (.region key r, s1) ∧ r.valid = true ∧ s1.dieWaits r.hd = false ∧ Spec.Latched r.f ∧
      s1.heldBefore key s1.nextId = false ∧
      s1.waits = [] ∧ (∀ st c, s1.stookOf k.sh = some st → s1.cropOf st = some c → st.atomicRefused c = false) ∧
      laneSetOf 64 (fun l => k.e.getLsbD l && !(r.f.inDomain (coordsOf (k.pairA a l)))) = 0 ∧ r.refit = none ∧
      newKeys r (((Spec.stored k r a b).map (·.1)).eraseDups) s1 = .ok (new, s2) ∧ r.count + new.length ≤ r.f.mark ∧
      putAll r r.gen (Spec.stored k r a b) s2 = .ok (ps, s3) ∧ Spec.Unowned s3 key 256 ∧ Spec.Readable s2 r r.gen rd ∧
      Spec.stored k r a b = [(x, v)] ∧ Spec.SlotOf rd r r.gen x n ∧ Spec.WritesAt s2 r (r.area r.gen + 16 * n) pa pte hd ho ∧
      (pa + 16 ≤ key ∨ key + 256 ≤ pa) ∧ pa % 16 = 0 ∧ (isHost pa = true ∨ Spec.MarksElsewhere s2 r.ctx pte pa (pa / 128))) ∧
    (∃ g d a hnd trap s k key r s1, Issues (.fld g d a hnd trap) s k ∧
      nameRegion s k (handleAt k hnd) = (.region key r, s1) ∧ r.valid = false ∧ r.building = false ∧ r.arrivals = []) ∧
    (∃ g a b hnd s k key r s1 m, Issues (.fst g a b hnd) s k ∧
      nameRegion s k (handleAt k hnd) = (.region key r, s1) ∧ r.valid = false ∧ r.building = true ∧ m ≠ (0 : LaneSet) ∧
      ∀ l, m.getLsbD l = true ↔ l < 64 ∧ k.e.getLsbD l = true ∧ ¬Spec.InDomain r.f (k.pairA a l)) ∧
    ∃ g a b hnd s k key r s1, Issues (.fst g a b hnd) s k ∧
      nameRegion s k (handleAt k hnd) = (.region key r, s1) ∧ r.valid = false ∧ r.building = true ∧
      (∀ l < 64, k.e.getLsbD l = true → Spec.InDomain r.f (k.pairA a l)) ∧
      ∀ st c, s1.stookOf k.sh = some st → s1.cropOf st = some c → st.atomicRefused c = false := by
  refine ⟨⟨.t, .v 95, .v 2, 0, devQ rg (shR 16), kOf (.fld .t (.v 95) (.v 2) 0 true) (shR 16), 0x40030000, rg, afterQ rg (shR 16), rfl,
      issues rfl rfl (by decide +kernel), nameOk (by decide +kernel), rfl, by decide +kernel, by decide +kernel, by decide +kernel⟩,
    ⟨.t, .v 95, .v 2, 0, true, devQ rg (shR 0), kOf (.fld .t (.v 95) (.v 2) 0 true) (shR 0), 0x40030000, rg, afterQ rg (shR 0), _, rfl,
      issues rfl rfl (by decide +kernel), nameOk (by decide +kernel), rfl, by decide +kernel, by decide +kernel, by decide +kernel, latched,
      q_readable rg _ 0 rfl rfl (by decide) ⟨_, _, _, rfl⟩⟩,
    ⟨.t, .v 95, .v 2, 0, devQ rg (shR 16), kOf (.fld .t (.v 95) (.v 2) 0 false) (shR 16), 0x40030000, rg, afterQ rg (shR 16), _, rfl,
      issues rfl rfl (by decide +kernel), nameOk (by decide +kernel), rfl, by decide +kernel, by decide +kernel, by decide +kernel, rfl, latched,
      q_readable rg _ 0 rfl rfl (by decide) ⟨_, _, _, rfl⟩⟩,
    ⟨.t, .v 2, .li, 0, devQ rg (shR 16), kOf (.fst .t (.v 2) .li 0) (shR 16), 0x40030000, rg, afterQ rg (shR 16), rfl,
      issues rfl rfl (by decide +kernel), nameOk (by decide +kernel), rfl, by decide +kernel, latched, by decide +kernel, rfl, notRefused _ _ (by decide +kernel),
      by decide +kernel⟩, ?_, ?_, ?_,
    ⟨.t, .v 95, .v 2, 0, true, devQ { rg with valid := false } (shR 0), kOf (.fld .t (.v 95) (.v 2) 0 true) (shR 0), 0x40030000,
      { rg with valid := false }, afterQ { rg with valid := false } (shR 0), issues rfl rfl (by decide +kernel), nameOk (by decide +kernel), rfl, rfl, rfl⟩,
    ⟨.t, .v 2, .li, 0, devQ { rg with valid := false, building := true } (shR 16), kOf (.fst .t (.v 2) .li 0) (shR 16), 0x40030000,
      { rg with valid := false, building := true }, afterQ { rg with valid := false, building := true } (shR 16), 2,
      issues rfl rfl (by decide +kernel), nameOk (by decide +kernel), rfl, rfl, by decide, fun l => ?_⟩,
    ⟨.t, .v 2, .li, 0, devQ { rg with valid := false, building := true } (shR 0), kOf (.fst .t (.v 2) .li 0) (shR 0), 0x40030000,
      { rg with valid := false, building := true }, afterQ { rg with valid := false, building := true } (shR 0),
      issues rfl rfl (by decide +kernel), nameOk (by decide +kernel), rfl, rfl, by unfold Spec.InDomain; decide +kernel, notRefused _ _ (by decide +kernel)⟩⟩
  · let r : Region := { rg with count := 11 }
    have ⟨new, s2, h, h2⟩ := exOk (r := newKeys r (((Spec.stored (kOf (.fst .t (.v 2) .li 0) (shR 0)) r (.v 2) .li).map (·.1)).eraseDups) (afterQ r (shR 0)))
      (p := fun new _ => decide (r.f.mark < r.count + new.length)) (by decide +kernel)
    exact ⟨.t, .v 2, .li, 0, devQ r (shR 0), kOf (.fst .t (.v 2) .li 0) (shR 0), 0x40030000, r, afterQ r (shR 0), new, s2, rfl,
      issues rfl rfl (by decide +kernel), nameOk (by decide +kernel), rfl, by decide +kernel, latched, by decide +kernel, rfl, notRefused _ _ (by decide +kernel),
      by decide +kernel, rfl, h, of_decide_eq_true h2⟩
  · let r : Region := { rg with count := 10 }
    let l := Spec.stored (kOf (.fst .t (.v 2) .li 0) (shR 0)) r (.v 2) .li
    have ⟨new, s2, h, h2⟩ := exOk (r := newKeys r ((l.map (·.1)).eraseDups) (afterQ r (shR 0)))
      (p := fun new s2 => decide (r.count + new.length ≤ r.f.mark) && okWhere (putAll r r.gen l s2) (fun _ _ => true)) (by decide +kernel)
    obtain ⟨h2, h3⟩ := (Bool.and_eq_true _ _).mp h2
    have ⟨ps, s3, h4, _⟩ := exOk h3
    exact ⟨.t, .v 2, .li, 0, devQ r (shR 0), kOf (.fst .t (.v 2) .li 0) (shR 0), 0x40030000, r, afterQ r (shR 0), new, s2, ps, s3, rfl,
      issues rfl rfl (by decide +kernel), nameOk (by decide +kernel), rfl, by decide +kernel, latched, by decide +kernel, rfl, notRefused _ _ (by decide +kernel),
      by decide +kernel, rfl, h, of_decide_eq_true h2, h4⟩
  · let r : Region := { rg with count := 10 }
    let l := Spec.stored (kOf (.fst (.p 0) (.v 2) .li 0) shR1) r (.v 2) .li
    have ⟨new, s2, h, h2⟩ := exOk (r := newKeys r ((l.map (·.1)).eraseDups) (afterQ r shR1))
      (p := fun new s2 => decide (r.count + new.length ≤ r.f.mark ∧ s2 = frQ [(3, shR1)] 2 [(0x40030000, r)] memQ g0) &&
        okWhere (putAll r r.gen l s2) (fun _ s3 => (wordsOf 0x40030000 256).all (fun wa => (s3.ownerOf wa).isNone))) (by decide +kernel)
    obtain ⟨h2, h3⟩ := (Bool.and_eq_true _ _).mp h2
    obtain ⟨hc, rfl⟩ := of_decide_eq_true h2
    have ⟨ps, s3, h4, h5⟩ := exOk h3
    exact ⟨.p 0, .v 2, .li, 0, devQ r shR1, kOf (.fst (.p 0) (.v 2) .li 0) shR1, 0x40030000, r, afterQ r shR1, new, _, ps, s3, fun _ n => List.replicate n 0,
      15, _, 4, 0x40050040, 0x90008, 0, false, rfl,
      issues rfl rfl (by decide +kernel), nameOk (by decide +kernel), rfl, by decide +kernel, latched, by decide +kernel, rfl, notRefused _ _ (by decide +kernel),
      by decide +kernel, rfl, h, hc, h4, fun wa hw => Option.isNone_iff_eq_none.mp (List.all_eq_true.mp h5 wa hw),
      q_readable _ _ 0 rfl rfl (by decide) ⟨_, _, _, rfl⟩, rfl, ⟨0, by decide, by decide +kernel, .inl (by decide +kernel), fun n h => absurd h (by omega)⟩,
      q_writes _ 2 _ _ _ _ (fun _ _ _ => rfl) (.inl rfl) (by decide +kernel) (by decide +kernel), .inr (by decide), by decide,
      .inr ⟨fun _ => by decide +kernel, _, rfl, fun _ _ h => absurd (by decide +kernel) h⟩⟩
  · have key : ∀ l < 64, (2 : LaneSet).getLsbD l = true ↔ (kOf (.fst .t (.v 2) .li 0) (shR 16)).e.getLsbD l = true ∧
        ¬∀ j < rg.f.dims, Spec.coord ((kOf (.fst .t (.v 2) .li 0) (shR 16)).pairA (.v 2) l) j < rg.f.extent.getD j 1 := by decide +kernel
    by_cases hl : l < 64
    · exact ⟨fun h => ⟨hl, (key l hl).mp h⟩, fun h => (key l hl).mpr h.2⟩
    · exact ⟨fun h => absurd h (by rw [BitVec.getLsbD_of_ge (2 : LaneSet) l (by omega)]; exact Bool.false_ne_true), fun h => absurd h.1 hl⟩

/-- A refit request for the region, and that refit running. -/
def req0 : RefitReq := ⟨0x40030000, 0, none, [], false, []⟩
def refit0 (n0 key l2 : Nat) : Refit := ⟨req0, n0, key, l2, [], [], some [], 80, []⟩
def devF (q : List RefitReq) (r : Region) : State := { devQ r (shR 0) with refitQ := [(0, q)] }
def afterF (q : List RefitReq) (r : Region) : State := { afterQ r (shR 0) with refitQ := [(0, q)] }
theorem lanesR : ∀ l < 64, ((shR 0).lane l).failed = [] := by decide +kernel
theorem quietF (s : State) (i : Instr) (hs : s.msgs = [] ∧ s.barns = []) : Spec.Quiet s (kOf i (shR 0)) :=
  ⟨rfl, by rw [State.owes, hs.1]; rfl, by show (s.barn _).gather = []; rw [State.barn, hs.2]; rfl, fun l hl => lanesR l hl⟩
theorem hyps_RegionRequests :
    (∃ g a b c pitch s k key r s1, (Instr.rgnb g a b c pitch).wf = true ∧ Issues (.rgnb g a b c pitch) s k ∧
      nameRegion s k (Spec.SA k a) = (.region key r, s1) ∧ r.valid = true) ∧
    (∃ g a b c pitch s k key r s1, (Instr.rgnb g a b c pitch).wf = true ∧ Issues (.rgnb g a b c pitch) s k ∧
      nameRegion s k (Spec.SA k a) = (.region key r, s1) ∧ r.valid = false ∧ r.building = false ∧
      (k.pairB b.reg 0).toNat % (RgnFields.ofBytes (s1.physRead key 256)).bytes = 0 ∧
      BitVec.toNat pitch % (RgnFields.ofBytes (s1.physRead key 256)).bytes = 0 ∧ c ≠ .z ∧ (k.pairC (SReg.reg c) 0).toNat % 8 = 0 ∧
      (∀ st cr, s1.stookOf k.sh = some st → s1.cropOf st = some cr → st.atomicRefused cr = false) ∧ Spec.Quiet s1 k) ∧
    (∃ g a b c s k key r s1, (Instr.rfit g a b c).wf = true ∧ Issues (.rfit g a b c) s k ∧
      nameRegion s k (Spec.SA k a) = (.region key r, s1) ∧ s1.regions.find? key = some r ∧ r.valid = false ∧ r.building = false ∧ r.arrivals = []) ∧
    (∃ g a b c s k key r s1 x, (Instr.rfit g a b c).wf = true ∧ Issues (.rfit g a b c) s k ∧
      nameRegion s k (Spec.SA k a) = (.region key r, s1) ∧ s1.regions.find? key = some r ∧ r.valid = true ∧ c ≠ .z ∧ b ≠ .z ∧
      (k.pairC (SReg.reg c) 0).toNat % 8 = 0 ∧ (k.pairB (SReg.reg b) 0).toNat % 8 = 0 ∧ Spec.Quiet s1 k ∧ r.refit = some x) ∧
    (∃ g a s k key r s1, (Instr.rfit g a .z .z).wf = true ∧ Issues (.rfit g a .z .z) s k ∧
      nameRegion s k (Spec.SA k a) = (.region key r, s1) ∧ s1.regions.find? key = some r ∧ r.valid = true ∧ Spec.Quiet s1 k ∧
      r.refit = none ∧ (s1.refitQ.getD r.hd []).any (fun x => x.region = key) = true) ∧
    (∃ g a s k key r s1, (Instr.rfit g a .z .z).wf = true ∧ Issues (.rfit g a .z .z) s k ∧
      nameRegion s k (Spec.SA k a) = (.region key r, s1) ∧ s1.regions.find? key = some r ∧ r.valid = true ∧ Spec.Quiet s1 k ∧
      r.refit = none ∧ (s1.refitQ.getD r.hd []).any (fun x => x.region = key) = false ∧ (s1.refitQ.getD r.hd []).length = 15) ∧
    (∃ g a s k key r s1, (Instr.rfit g a .z .z).wf = true ∧ Issues (.rfit g a .z .z) s k ∧
      nameRegion s k (Spec.SA k a) = (.region key r, s1) ∧ s1.regions.find? key = some r ∧ r.valid = true ∧ Spec.Quiet s1 k ∧
      r.refit = none ∧ (s1.refitQ.getD r.hd []).any (fun x => x.region = key) = false ∧ 16 ≤ (s1.refitQ.getD r.hd []).length) ∧
    ∃ g d a b s k key r s1, (Instr.rgnq g d a b).wf = true ∧ Issues (.rgnq g d a b) s k ∧
      nameRegion s k (Spec.SA k a) = (.region key r, s1) ∧ s1.regions.find? key = some r ∧ r.err < 256 ∧ r.rfres < 16 ∧ s1.waits = [] ∧
      (Spec.SB k b).getLsbD 0 = true ∧ (Spec.SB k b).getLsbD 1 = true ∧ r.refit.isSome := by
  let rv : Region := { rg with valid := false }
  let rr : Region := { rg with refit := some (refit0 1 0 0) }
  let q1 : RefitReq := { req0 with region := 0 }
  refine ⟨⟨.t, .s 0, .s 2, .s 4, 4, devQ rg (shR 0), kOf (.rgnb .t (.s 0) (.s 2) (.s 4) 4) (shR 0), 0x40030000, rg, afterQ rg (shR 0), rfl,
      issues rfl rfl (by decide +kernel), nameOk (by decide +kernel), rfl⟩,
    ⟨.t, .s 0, .s 2, .s 4, 4, devQ rv (shR 0), kOf (.rgnb .t (.s 0) (.s 2) (.s 4) 4) (shR 0), 0x40030000, rv, afterQ rv (shR 0), rfl,
      issues rfl rfl (by decide +kernel), nameOk (by decide +kernel), rfl, rfl, by decide +kernel, by decide +kernel, by decide, by decide +kernel,
      notRefused _ _ (by decide +kernel), quietF _ _ ⟨rfl, rfl⟩⟩,
    ⟨.t, .s 0, .s 2, .s 4, devQ rv (shR 0), kOf (.rfit .t (.s 0) (.s 2) (.s 4)) (shR 0), 0x40030000, rv, afterQ rv (shR 0), rfl,
      issues rfl rfl (by decide +kernel), nameOk (by decide +kernel), rfl, rfl, rfl, rfl⟩,
    ⟨.t, .s 0, .s 2, .s 4, devQ rr (shR 0), kOf (.rfit .t (.s 0) (.s 2) (.s 4)) (shR 0), 0x40030000, rr, afterQ rr (shR 0), _, rfl,
      issues rfl rfl (by decide +kernel), nameOk (by decide +kernel), rfl, rfl, by decide, by decide, by decide +kernel, by decide +kernel,
      quietF _ _ ⟨rfl, rfl⟩, rfl⟩,
    ⟨.t, .s 0, devF [q1, req0] rg, kOf (.rfit .t (.s 0) .z .z) (shR 0), 0x40030000, rg, afterF [q1, req0] rg, rfl,
      issues rfl rfl (by decide +kernel), nameOk (by decide +kernel), rfl, rfl, quietF _ _ ⟨rfl, rfl⟩, rfl, by decide +kernel⟩,
    ⟨.t, .s 0, devF (List.replicate 15 q1) rg, kOf (.rfit .t (.s 0) .z .z) (shR 0), 0x40030000, rg, afterF (List.replicate 15 q1) rg, rfl,
      issues rfl rfl (by decide +kernel), nameOk (by decide +kernel), rfl, rfl, quietF _ _ ⟨rfl, rfl⟩, rfl, by decide +kernel, by decide +kernel⟩,
    ⟨.t, .s 0, devF (List.replicate 16 q1) rg, kOf (.rfit .t (.s 0) .z .z) (shR 0), 0x40030000, rg, afterF (List.replicate 16 q1) rg, rfl,
      issues rfl rfl (by decide +kernel), nameOk (by decide +kernel), rfl, rfl, quietF _ _ ⟨rfl, rfl⟩, rfl, by decide +kernel, by decide +kernel⟩,
    ⟨.t, .s 22, .s 0, .s 6, devQ rr (shR 0), kOf (.rgnq .t (.s 22) (.s 0) (.s 6)) (shR 0), 0x40030000, rr, afterQ rr (shR 0), rfl,
      issues rfl rfl (by decide +kernel), nameOk (by decide +kernel), rfl, by decide, by decide, rfl, by decide +kernel, by decide +kernel, rfl⟩⟩

theorem sameQ (bs : List Byte) (h : bs.length ≤ 4) : SameQ (memWrite memQ 0x40030004 bs) := by
  intro a _ ha
  rw [Laws.memByte_memWrite, if_neg (by omega)]
def build0 (key : Nat) : Build := ⟨0, 0x40008000, 0, some 0x40009000, 1, key, [(0, 0x40009000)], [], [], 17, 3, 3⟩
/-- Where the reference of a build's key is. -/
def refAt (r : Region) (b : Build) : Nat :=
  b.refVa.toNat + b.key / r.f.extent.headD 1 * (if b.pitch = 0 then r.f.extent.headD 1 * r.f.bytes else b.pitch) +
    b.key % r.f.extent.headD 1 * r.f.bytes
/-- A region of that many records whose build is at key 0, its reference 1.0. -/
def rgB (c : Nat) : Region := { rg with build := some (build0 0), count := c }
def devB (c : Nat) : State := { devQ (rgB c) (shR 0) with mem := memWrite memQ 0x40008000 (bytesOf 4 0x3F800000) }
/-- The same memory with a descriptor whose areas the host's memory holds. -/
def memD : KV Byte :=
  [(0x40030000, bytesOf 4 0x00400010), (0x4003001C, bytesOf 4 7), (0x40030020, bytesOf 4 16), (0x40030050, bytesOf 8 0x80000000),
   (0x40030058, bytesOf 8 0x80001000)].foldl (fun m x => memWrite m x.1 x.2) memQ
def devE (r : Region) : State := frQ [(3, shR 0)] 0 [(0x40030000, r)] memD g0
theorem sameD (M : KV Byte) (hM : SameQ M) (pa : Nat) (bs : List Byte) (hb : pa / 256 = 0x400300 ∧ pa % 256 + bs.length ≤ 256) : SameQ (memWrite M pa bs) := by
  intro a ha h'
  rw [Laws.memByte_memWrite, if_neg (by omega)]
  exact hM a ha h'
theorem q_build (X : KV Sheaf) (s : State) (r1 : Region) (R : KV Region) (M : KV Byte) (hM : SameQ M)
    (hc : r1.f.cap = 16 ∧ r1.hd = 0 ∧ r1.ctx = 0 ∧ r1.slot 0 = 0x80000000 ∧ r1.area 0 = 0x80001000) (hs : s = frQ X 0 R M (homesQ, baseQ.refitQ)) :
    ∃ s2, Home.upTo (homeMark r1.ctx (r1.slot 0) 1024 :: clearArea r1 0) 0 s = (s2, 1 + r1.f.cap, none) := by
  obtain ⟨s2, h⟩ := q_upTo X R (homesQ, baseQ.refitQ) (.inr rfl) (clearArea r1 0)
    (by
      intro f hf
      simp only [clearArea, hc, List.mem_map, List.mem_range] at hf
      obtain ⟨i, hi, rfl⟩ := hf
      refine ⟨_, _, rfl, by omega, ?_, ?_⟩ <;> simp only [List.length_replicate] <;> omega) 1 1 M hM
  have ht := q_translateH X 0 R M (homesQ, baseQ.refitQ) hM (.inr rfl) (BitVec.ofNat 64 0x80000000) .read (by decide)
  have hp : (frQ X 1 R M (homesQ, baseQ.refitQ)).place (3 * 2 ^ 50) = .host 0 := rfl
  have hm : homeMark 0 0x80000000 1024 (frQ X 0 R M (homesQ, baseQ.refitQ)) = .ok ((), frQ X 1 R M (homesQ, baseQ.refitQ)) := by
    rw [homeMark, onePiece 0x80000000 1024 (by omega)]
    simp only [State.translateAll, ht, List.foldl_cons, List.foldl_nil, State.dirtyMark, State.dirtyMarkN,
      (by decide : 3 * 2 ^ 50 + (BitVec.toNat (BitVec.ofNat 64 0x80000000) - 2 ^ 31) = 3 * 2 ^ 50), hp]
  have hl : (clearArea r1 0).length = 16 := by rw [clearArea, List.length_map, List.length_range, hc.1]
  refine ⟨s2, ?_⟩
  rw [hs, hc.2.2.1, hc.2.2.2.1, Home.upTo, hm, hc.1]
  rw [hl] at h
  exact h
theorem hyps_RegionSteps :
    (∃ (s : State) (key : Nat) (r : Region) (b : Build) (rest : List Build) (x : Build), s.regions.find? key = some r ∧ s.dieWaits r.hd = false ∧
      s.ctxHeld r.ctx = false ∧ r.arrivals = b :: rest ∧ r.build = some x) ∧
    (∃ (s : State) (key : Nat) (r : Region) (b : Build) (rest : List Build), s.regions.find? key = some r ∧ s.dieWaits r.hd = false ∧
      s.ctxHeld r.ctx = false ∧ r.arrivals = b :: rest ∧ r.build = none ∧ r.valid = true) ∧
    (∃ (s : State) (key : Nat) (r : Region) (b : Build) (rest : List Build), s.regions.find? key = some r ∧ s.dieWaits r.hd = false ∧
      s.ctxHeld r.ctx = false ∧ r.arrivals = b :: rest ∧ r.build = none ∧ r.valid = false ∧
      rgnError (s.physRead key 256) (RgnFields.ofBytes (s.physRead key 256)) ≠ 0) ∧
    (∃ (s : State) (key : Nat) (r : Region) (b : Build) (rest : List Build) (s2 : State) (r0 r1 : Region), s.regions.find? key = some r ∧
      s.dieWaits r.hd = false ∧ s.ctxHeld r.ctx = false ∧ r.arrivals = b :: rest ∧ r.build = none ∧ r.valid = false ∧
      rgnError (s.physRead key 256) (RgnFields.ofBytes (s.physRead key 256)) = 0 ∧
      r0 = Spec.buildTaken r b rest (s.physRead key 256) ∧ r1 = { r0 with gen := 0, count := 0 } ∧
      Home.upTo (homeMark r1.ctx (r1.slot 0) 1024 :: clearArea r1 0) 0 (Spec.buildBegun s key r0) = (s2, 1 + r1.f.cap, none)) ∧
    (∃ (s : State) (key : Nat) (r : Region) (b : Build), s.regions.find? key = some r ∧ s.dieWaits r.hd = false ∧ s.ctxHeld r.ctx = false ∧
      r.arrivals = [] ∧ r.build = some b ∧ b.recs = [] ∧ 1 + r.f.cap ≤ b.set ∧ r.f.points ≤ b.key) ∧
    (∃ (s : State) (key : Nat) (r : Region) (b : Build) (ref : List Byte) (p : List Nat) (s1 s2 : State), s.regions.find? key = some r ∧ s.dieWaits r.hd = false ∧
      s.ctxHeld r.ctx = false ∧ r.arrivals = [] ∧ r.build = some b ∧ b.recs = [] ∧ 1 + r.f.cap ≤ b.set ∧ b.key < r.f.points ∧
      homeRead b.ctx (b.refVa.toNat + b.key / r.f.extent.headD 1 * (if b.pitch = 0 then r.f.extent.headD 1 * r.f.bytes else b.pitch) +
         b.key % r.f.extent.headD 1 * r.f.bytes) r.f.bytes s = .ok (ref, s1) ∧ paramsOf r 0 s1 = .ok (p, s2) ∧
      withinEps r.f (evalPoint r.f p (r.f.coords b.key)) (natOfBytes ref) = true) ∧
    (∀ c, c = 0 ∨ c = 12 → ∃ (s : State) (key : Nat) (r : Region) (b : Build) (ref : List Byte) (p : List Nat) (s1 s2 s3 : State), s.regions.find? key = some r ∧
      s.dieWaits r.hd = false ∧ s.ctxHeld r.ctx = false ∧ r.arrivals = [] ∧ r.build = some b ∧ b.recs = [] ∧ 1 + r.f.cap ≤ b.set ∧ b.key < r.f.points ∧
      homeRead b.ctx (b.refVa.toNat + b.key / r.f.extent.headD 1 * (if b.pitch = 0 then r.f.extent.headD 1 * r.f.bytes else b.pitch) +
         b.key % r.f.extent.headD 1 * r.f.bytes) r.f.bytes s = .ok (ref, s1) ∧ paramsOf r 0 s1 = .ok (p, s2) ∧
      withinEps r.f (evalPoint r.f p (r.f.coords b.key)) (natOfBytes ref) = false ∧
      putKey r 0 b.key (natOfBytes ref) false s2 = .ok (.new, s3) ∧ r.count = c ∧ r.f.mark = 12) ∧
    (∃ (s : State) (die : Nat) (q : RefitReq) (rest : List RefitReq) (key : Nat) (r : Region), s.refitQ.getD die [] = q :: rest ∧ q.region = key ∧
      s.regions.find? key = some r ∧ r.hd = die ∧ r.building = false ∧ r.arrivals = [] ∧ s.ctxHeld r.ctx = false ∧ s.refitting die = false ∧
      s.dieWaits die = false ∧ s.urgentDue die = false ∧ r.valid = false) ∧
    (∃ (s : State) (die : Nat) (q : RefitReq) (rest : List RefitReq) (key : Nat) (r : Region) (s1 s2 : State) (bs : List Byte), s.refitQ.getD die [] = q :: rest ∧ q.region = key ∧
      s.regions.find? key = some r ∧ r.hd = die ∧ r.building = false ∧ r.arrivals = [] ∧ s.ctxHeld r.ctx = false ∧ s.refitting die = false ∧
      s.dieWaits die = false ∧ s.urgentDue die = false ∧ r.valid = true ∧ refitProposal q (Spec.refitBegun s key r q) = .ok (bs, s1) ∧
      Home.upTo (refitSteps r bs) 0 s1 = (s2, 64 + r.f.cap, none)) ∧
    (∃ (s : State) (key : Nat) (r : Region) (s1 s2 : State) (bs : List Byte) (mine : List RefitReq) (q : RefitReq),
      s.regions.find? key = some r ∧ r.urgent = true ∧ r.valid = true ∧ r.refit = none ∧
      s.refitting r.hd = false ∧ s.dieWaits r.hd = false ∧ s.ctxHeld r.ctx = false ∧ mine = (s.refitQ.getD r.hd []).filter (fun x => x.region = key) ∧
      q = ⟨key, r.ctx, none, mine.flatMap (·.counters), true, mine.flatMap (·.uids)⟩ ∧
      refitProposal q (Spec.refitBegun s key r q) = .ok (bs, s1) ∧ Home.upTo (refitSteps r bs) 0 s1 = (s2, 64 + r.f.cap, none)) ∧
    (∀ n0, n0 = 0 ∨ n0 = 1 → ∃ (s : State) (key : Nat) (r : Region) (x : Refit) (rd : Nat → Nat → List Byte), s.regions.find? key = some r ∧ r.refit = some x ∧ x.recs = [] ∧
      64 + r.f.cap ≤ x.set ∧ x.key < r.f.points ∧ s.dieWaits r.hd = false ∧ Spec.Readable s r r.gen rd ∧ Spec.Readable s r (r.gen + 1) rd ∧
      Spec.listed rd r r.gen x.key = none ∧
      evalPoint r.f (Spec.params rd r (r.gen + 1)) (r.f.coords x.key) = evalPoint r.f (Spec.params rd r r.gen) (r.f.coords x.key) ∧
      x.n0 = n0 ∧ x.l2 = 0) ∧
    ∀ n0 u, n0 = 0 ∨ n0 = 1 → ∃ (s : State) (key : Nat) (r : Region) (x : Refit), s.regions.find? key = some r ∧ r.refit = some x ∧ r.f.points ≤ x.key ∧
      x.n0 = n0 ∧ x.l2 = 0 ∧ x.req.urgent = u ∧ s.waits = [] := by
  refine ⟨⟨devQ { rg with arrivals := [build0 0], build := some (build0 3) } (shR 0), 0x40030000, _, _, _, _, rfl, by decide +kernel, by decide +kernel, rfl, rfl⟩,
    ⟨devQ { rg with arrivals := [build0 0] } (shR 0), 0x40030000, _, _, _, rfl, by decide +kernel, by decide +kernel, rfl, rfl, rfl⟩,
    ⟨devQ { rg with arrivals := [build0 0], valid := false } (shR 0), 0x40030000, _, _, _, rfl, by decide +kernel, by decide +kernel, rfl, rfl, rfl, by decide +kernel⟩,
    ?_, ⟨devQ { rg with build := some (build0 16) } (shR 0), 0x40030000, _, _, rfl, by decide +kernel, by decide +kernel, rfl, rfl, rfl, by decide +kernel, by decide +kernel⟩,
    ?_, ?_,
    ⟨devF [req0] { rg with valid := false }, 0, req0, [], 0x40030000, _, rfl, rfl, rfl, rfl, rfl, rfl, by decide +kernel, by decide +kernel, by decide +kernel, rfl, rfl⟩,
    ?_, ?_, ?_, ?_⟩
  · let r : Region := { rgH false with arrivals := [build0 0], valid := false }
    let r0 := Spec.buildTaken r (build0 0) [] ((devE r).physRead 0x40030000 256)
    obtain ⟨s2, h⟩ := q_build [(3, shR 0)] (Spec.buildBegun (devE r) 0x40030000 r0) { r0 with gen := 0, count := 0 } [(0x40030000, { r0 with gen := 0, count := 0 })]
      (memWrite (memWrite (memWrite (memWrite memD 0x40030004 [2, 0, 0, 0]) 0x40030010 [0, 0, 0, 0]) 0x40030008 (bytesOf 8 0)) 0x40030010 (bytesOf 4 0)) (by
        unfold memD
        repeat' apply sameD
        all_goals first | exact fun _ _ _ => rfl | decide) (by decide +kernel) (by decide +kernel)
    exact ⟨devE r, 0x40030000, r, build0 0, [], s2, r0, _, rfl, by decide +kernel, by decide +kernel, rfl, rfl, rfl, by decide +kernel, rfl, rfl, h⟩
  · let r : Region := { rg with build := some (build0 15) }
    have ⟨ref, s1, h, h2⟩ := exOk (r := homeRead 0 (refAt r (build0 15)) r.f.bytes (devQ r (shR 0)))
      (p := fun ref s1 => okWhere (paramsOf r 0 s1) (fun p _ => withinEps r.f (evalPoint r.f p (r.f.coords 15)) (natOfBytes ref))) (by decide +kernel)
    have ⟨p, s2, h3, h4⟩ := exOk h2
    exact ⟨devQ r (shR 0), 0x40030000, r, build0 15, ref, p, s1, s2, rfl, by decide +kernel, by decide +kernel, rfl, rfl, rfl, (by decide : 17 ≤ 17), by decide +kernel, h, h3, h4⟩
  · have key : ∀ c, c = 0 ∨ c = 12 → okWhere (homeRead 0 (refAt (rgB c) (build0 0)) (rgB c).f.bytes (devB c)) (fun ref s1 =>
        okWhere (paramsOf (rgB c) 0 s1) (fun p s2 => !withinEps (rgB c).f (evalPoint (rgB c).f p ((rgB c).f.coords 0)) (natOfBytes ref) &&
          okWhere (putKey (rgB c) 0 0 (natOfBytes ref) false s2) (fun p _ => decide (p = .new)))) = true := by
      rintro c (rfl | rfl) <;> decide +kernel
    intro c hc
    have ⟨ref, s1, h1, h⟩ := exOk (key c hc)
    have ⟨p, s2, h2, h⟩ := exOk h
    obtain ⟨h3, h⟩ := (Bool.and_eq_true _ _).mp h
    have ⟨pn, s3, h5, h⟩ := exOk h
    cases of_decide_eq_true h
    exact ⟨devB c, 0x40030000, rgB c, build0 0, ref, p, s1, s2, s3, rfl, by obtain rfl | rfl := hc <;> decide +kernel,
      by obtain rfl | rfl := hc <;> decide +kernel, rfl, rfl, rfl, (by decide : 17 ≤ 17), (by decide : 0 < 16), h1, h2, (Bool.not_eq_true' _).mp h3, h5, rfl, (by decide : rg.f.mark = 12)⟩
  · obtain ⟨bs, s1, s2, h⟩ := q_begin [(3, shR 0)] false req0 rfl (devQ (rgH false) (shR 0))
      [(0x40030000, { rgH false with refit := some ⟨req0, 12, 0, 0, [], [], none, 0, []⟩ })] (memWrite memQ 0x40030004 [5]) [(0, [])] (sameQ _ (by decide))
      (by decide +kernel)
    exact ⟨devQ (rgH false) (shR 0), 0, req0, [], 0x40030000, rgH false, s1, s2, bs, rfl, rfl, rfl, rfl, rfl, rfl, by decide +kernel,
      by decide +kernel, by decide +kernel, by decide +kernel, rfl, h⟩
  · obtain ⟨bs, s1, s2, h⟩ := q_begin [(3, shR 0)] true ⟨0x40030000, 0, none, [], true, []⟩ rfl (devQ (rgH true) (shR 0))
      [(0x40030000, { rgH true with refit := some ⟨⟨0x40030000, 0, none, [], true, []⟩, 12, 0, 0, [], [], none, 0, []⟩ })]
      (memWrite memQ 0x40030004 [13]) [(0, [])] (sameQ _ (by decide)) (by decide +kernel)
    exact ⟨devQ (rgH true) (shR 0), 0x40030000, rgH true, s1, s2, bs, _, _, rfl, rfl, rfl, rfl, by decide +kernel, by decide +kernel, by decide +kernel,
      rfl, rfl, h⟩
  · rintro n0 h
    exact ⟨devQ { rg with refit := some (refit0 n0 15 0) } (shR 0), 0x40030000, _, _, _, rfl, rfl, rfl, (by decide : 80 ≤ 80), (by decide : 15 < 16), by obtain rfl | rfl := h <;> decide +kernel,
      q_readable _ _ 0 rfl rfl (by decide) ⟨_, _, _, rfl⟩, q_readable _ _ 1 rfl rfl (by decide) ⟨_, _, _, rfl⟩, by obtain rfl | rfl := h <;> decide +kernel, rfl, rfl, rfl⟩
  · rintro n0 u _
    exact ⟨devQ { rg with refit := some { refit0 n0 16 0 with req := { req0 with urgent := u } } } (shR 0), 0x40030000, _, _, rfl, rfl,
      (by decide : 16 ≤ 16), rfl, rfl, rfl, rfl⟩
/-! ### Witnesses: queues, placement, retirement -/

/-- The device with its host visible and one queue. -/
def devH (n : Nat) (q : LQueue) : State := { dev with fabric := { FabricPage.reset with hostUp := [true, true] }, queues := [(n, q)] }
/-- A queue of partition 0, enabled, with a ring of two at 0x40006000. -/
def qE : LQueue := { LQueue.reset with base := 0x40006000, size := 2, ctl := 0x1000 }
def taken0 (rec : List Byte) : Taken := ⟨rec, 7, 9, 0, [], []⟩
/-- Partition 0 with core 0. -/
def part0 : Part := { Part.reset with maskReg := 1, mask := 1, defined := true, ltp := [0] }
theorem xlFree {s : State} {ctx : Nat} {va : DWord} {P : Nat → State → Bool}
    (h : (match (s.translate none ctx va .read true).1 with
      | .ok pa pte hd ho => !(s.translate none ctx va .read true).2.unitWaits (pa, 128, pte, hd, ho) && P pa (s.translate none ctx va .read true).2
      | _ => false) = true) :
    ∃ pa pte hd ho s1, s.translate none ctx va .read true = (.ok pa pte hd ho, s1) ∧ s1.unitWaits (pa, 128, pte, hd, ho) = false ∧ P pa s1 = true := by
  split at h
  · rename_i pa pte hd ho e
    simp only [Bool.and_eq_true, Bool.not_eq_true'] at h
    exact ⟨pa, pte, hd, ho, (s.translate none ctx va .read true).2, Prod.ext e rfl, h⟩
  · simp at h
def devDep : State := { devH 63 { qE with tail := 2, bells := [(2, 5)] } with mem := memWrite mem0 0x40006050 [2] }
theorem hyps_LaunchQueueSteps :
    (∃ (s : State) (n : Nat) (value : Word), s.hostVis = true ∧ (s.queue n).devprod = false ∧ n < 64 ∧ (s.queue n).size < value - (s.queue n).head) ∧
    (∃ (s : State) (n : Nat) (value : Word), s.hostVis = true ∧ (s.queue n).devprod = false ∧ n < 64 ∧ ¬(s.queue n).size < value - (s.queue n).head) ∧
    (∃ (s : State) (n order pa pte hd : Nat) (ho : Bool) (s1 : State), (s.queue n).taken = none ∧ (s.queue n).order = some order ∧ (s.queue n).enable = true ∧
      (s.queue n).recs = [] ∧ s.partHeld (s.queue n).part = false ∧ n < 64 ∧
      s.translate none (s.queue n).ctx ((s.queue n).slotVa (s.queue n).head) .read true = (.ok pa pte hd ho, s1) ∧
      s1.unitWaits (pa, 128, pte, hd, ho) = false ∧ (isHost pa = true → s1.fnUp (s.queue n).fn = true) ∧ ∀ k < 4, recDep (s1.physRead pa 128) k = 0) ∧
    (∃ (s : State) (n order pa pte hd : Nat) (ho : Bool) (s1 : State), (s.queue n).taken = none ∧ (s.queue n).order = some order ∧ (s.queue n).enable = true ∧
      (s.queue n).recs = [] ∧ s.partHeld (s.queue n).part = false ∧ n < 64 ∧
      s.translate none (s.queue n).ctx ((s.queue n).slotVa (s.queue n).head) .read true = (.ok pa pte hd ho, s1) ∧
      s1.unitWaits (pa, 128, pte, hd, ho) = false ∧ (isHost pa = true → s1.fnUp (s.queue n).fn = true) ∧
      ∃ k < 4, recDep (s1.physRead pa 128) k / 2 % 4 ≠ 0) ∧
    (∃ (s : State) (n : Nat) (tk : Taken) (code : Nat), (s.queue n).taken = some tk ∧
      (∀ k < 4, recDep tk.record k = 0 ∨ tk.met.getLsbD k = true) ∧ Spec.violates s (s.part (s.queue n).part) tk.record code ∧
      ∀ c, Spec.violates s (s.part (s.queue n).part) tk.record c → code ≤ c) ∧
    ∃ (s : State) (n : Nat) (tk : Taken), (s.queue n).taken = some tk ∧ (∀ k < 4, recDep tk.record k = 0 ∨ tk.met.getLsbD k = true) ∧
      ∀ c, ¬Spec.violates s (s.part (s.queue n).part) tk.record c := by
  refine ⟨⟨devH 63 qE, 63, 3, by decide +kernel, by decide +kernel, by decide, by decide +kernel⟩,
    ⟨devH 63 qE, 63, 2, by decide +kernel, by decide +kernel, by decide, by decide +kernel⟩, ?_, ?_,
    ⟨{ devH 63 { qE with taken := some (taken0 (rec0 (2 ^ 15))) } with parts := [(0, part0)] }, 63, _, 1, rfl, by decide +kernel,
      by unfold Spec.violates; exact .inr (.inr (.inl (by decide +kernel))), fun c h => Nat.pos_of_ne_zero (fun hc => by rw [hc] at h; exact h)⟩,
    ⟨{ devH 63 { qE with taken := some (taken0 (rec0 0)) } with parts := [(0, part0)] }, 63, _, rfl, by decide +kernel,
      by intro c; unfold Spec.violates; split <;> first | exact id | (dsimp only; decide +kernel)⟩⟩
  · have ⟨pa, pte, hd, ho, s1, h, h2, h3⟩ := xlFree (s := devH 63 { qE with tail := 2, bells := [(2, 5)] }) (ctx := 0) (va := 0x40006000)
      (P := fun (pa : Nat) (s1 : State) => decide (s1.fnUp 0 = true ∧ ∀ k : Nat, k < 4 → recDep (s1.physRead pa 128) k = 0)) (by decide +kernel)
    have h3 := of_decide_eq_true h3
    exact ⟨devH 63 { qE with tail := 2, bells := [(2, 5)] }, 63, 5, pa, pte, hd, ho, s1, rfl, by decide +kernel, by decide +kernel, rfl, by decide +kernel,
      by decide, h, h2, fun _ => h3.1, h3.2⟩
  · have ⟨pa, pte, hd, ho, s1, h, h2, h3⟩ := xlFree (s := devDep) (ctx := 0) (va := 0x40006000)
      (P := fun (pa : Nat) (s1 : State) => decide (s1.fnUp (devDep.queue 63).fn = true ∧ ∃ k : Nat, k < 4 ∧ recDep (s1.physRead pa 128) k / 2 % 4 ≠ 0)) (by decide +kernel)
    have h3 := of_decide_eq_true h3
    exact ⟨devDep, 63, 5, pa, pte, hd, ho, s1, rfl, by decide +kernel, by decide +kernel, rfl, by decide +kernel,
      by decide, h, h2, fun _ => h3.1, h3.2⟩

/-- A crop of which no stook is placed, and no stook on the device. -/
def devP : State := { dev with stooks := [], parts := [(0, part0)], crops := [(2, { crop0 0 with next := 0 })] }
theorem someOf {α : Type} {x : Option α} (h : x.isSome = true) : ∃ y, x = some y := Option.isSome_iff_exists.mp h
theorem hyps_Placement :
    (∃ (s : State) (part key : Nat) (c : Crop) (seat : List Nat) (n : Nat) (t : State), s.partDue (s.part part) = false ∧ s.partHeld part = false ∧
      s.waiting part = [(key, c)] ∧ s.restoreFirst part c.prio = false ∧ s.eligible (s.part part) c.record = [seat] ∧ s.crop? key = some c ∧
      c.nextRick = some n ∧ s.seatFits c.record seat (rickStooks c.record n).length = true ∧ s.placeRick key c n seat = some t) ∧
    (∃ (s : State) (part : Nat), s.waiting part = []) ∧
    ∃ (s : State) (key : Nat) (c : Crop), s.crop? key = some c := by
  have ⟨t, h⟩ := someOf (x := devP.placeRick 2 { crop0 0 with next := 0 } 0 [0]) (by decide +kernel)
  exact ⟨⟨devP, 0, 2, _, [0], 0, t, by decide +kernel, by decide +kernel, by decide +kernel, by decide +kernel, by decide +kernel, rfl, by decide +kernel,
    by decide +kernel, h⟩, ⟨.reset, 15, rfl⟩, ⟨devP, 2, _, rfl⟩⟩
theorem hyps_RetirementAndPartitions :
    (∃ (s : State) (uid : Nat) (k : Stook), s.stook? uid = some k ∧ s.retirable uid k = true ∧ s.stooks.sorted = true ∧
      ∀ core ∈ k.cores, (s.barn (barnOf core)).gather = []) ∧
    (∃ (s : State) (seq key : Nat) (c : Crop), s.crops.find? key = some c ∧ s.crops.sorted = true ∧ c.seq = seq ∧ c.done = true ∧ c.cores = [] ∧
      ∀ e ∈ s.crops, e.2.seq = seq → e.1 = key) ∧
    (∃ (s : State) (part : Nat), part < 16 ∧ s.hostVis = true) ∧
    ∃ (s : State) (part : Nat), (s.part part).pending = true ∧ s.partBusy part = false ∧ s.partHeld part = false ∧
      ∀ h ∈ halvesOf (s.place (s.part part).pageDue.toNat).canon 4096, s.hostHolds h = false :=
  ⟨⟨{ dev with sheaves := [] }, 1, stook0, rfl, by decide +kernel, by decide +kernel, by decide +kernel⟩,
   ⟨{ dev with crops := [(2, { crop0 0 with done := true, cores := [] })] }, 0, 2, _, rfl, by decide +kernel, rfl, rfl, rfl, by decide +kernel⟩,
   ⟨devH 63 qE, 15, by decide, by decide +kernel⟩,
   ⟨{ devP with parts := [(15, { Part.reset with pending := true })] }, 15, by decide +kernel, by decide +kernel, by decide +kernel, by decide +kernel⟩⟩

/-! ### Witnesses: ownership, accesses from outside -/

/-- Context 0 with a dirty bitmap at 0x9F000, messages, homes and barns. -/
def devM (msgs : KV MsgEnt) (homes : KV HomeLine) (barns : KV Barn) (sh : Sheaf) : State :=
  { at_ sh with msgs := msgs, homes := homes, barns := barns, nextId := 100
                trans := { dev.trans with ctxCache := [(0, List.replicate 8 0 ++ bytesOf 8 0x9F000 ++ List.replicate 48 0)] } }
def l1 (owned : Bool) : L1Word := ⟨0x44332211, true, owned, [], 15, 0, .sy, 0, 0x90008, 3, []⟩
def ownedBy (b : Nat) : HomeLine := { HomeLine.fresh with owners := [(b, 0x80000000)] }
def msgRead (fid pa n : Nat) (fwd : Option Nat) (refused : Nat) (fixed : Option (List Byte)) : KV MsgEnt :=
  [(20, ⟨.read 0 3 fid 0 pa n 3 none fwd refused fixed, []⟩)]
def accL (lane n : Nat) (st : AccSt) : Acc := ⟨lane, 0x40001FF0, 0x40001FF0, n, 0x90008, 3, false, [], st⟩
def flL (i : Instr) (n : Nat) : Flight := ⟨30, 0, 1, i, [], 0x40001000, 128, 128, [], 0, false, .access, [accL 7 n (.sent 20)], 0, false⟩
/-- A word watched by a WAITA. -/
def waitAt (wa : Nat) : WaitEnt := ⟨3, 31, 0, 4 * wa, 4, 3, [0, 0, 0, 0], false⟩

theorem hyps_OwnershipSteps :
    (∀ wt : List WaitEnt, wt = [] ∨ wt = [waitAt 0x1000081F] → ∃ (s : State) (m b wa n hd ctx pte : Nat) (w : List (Nat × LaneSet)),
      s.msgs.find? m = some ⟨.reg b wa n hd ctx pte false, w⟩ ∧ s.hostHolds (4 * wa) = false ∧ s.dieWaits hd = false ∧ n = 1 ∧
      (∀ j < n, s.thirdRead (wa + j) = false ∧ Spec.OneOwner s (wa + j) ∧ s.thirdRead (Nat.xor (wa + j) 1) = false ∧ Spec.MarksElsewhere s ctx pte (4 * (wa + j)) (wa / 32)) ∧
      s.watched wa = !wt.isEmpty ∧ (s.watched wa = true → s.ownerOf wa = none)) ∧
    (∃ (s : State) (m b wa n hd ctx pte : Nat) (w : List (Nat × LaneSet)),
      s.msgs.find? m = some ⟨.reg b wa n hd ctx pte false, w⟩ ∧ s.hostHolds (4 * wa) = false ∧ s.dieWaits hd = false ∧ n = 2 ∧
      (wa + n - 1) / 32 = wa / 32 ∧ (∀ j < n, s.ownerOf (wa + j) = none ∨ s.ownerOf (wa + j) = some b) ∧
      ∀ j < n, s.thirdRead (wa + j) = false ∧ Spec.OneOwner s (wa + j) ∧ s.thirdRead (Nat.xor (wa + j) 1) = false ∧ Spec.MarksElsewhere s ctx pte (4 * (wa + j)) (wa / 32)) ∧
    (∃ (s : State) (m b wa n hd ctx pte : Nat) (w : List (Nat × LaneSet)), s.msgs.find? m = some ⟨.reg b wa n hd ctx pte true, w⟩) ∧
    (∃ (s : State) (b line : Nat) (words : Word), (∀ j < 32, Spec.OneOwner s (32 * line + j)) ∧ words.getLsbD 31 = true ∧ s.ownerOf (32 * line + 31) = some b) ∧
    (∀ own : Bool, ∃ (s : State) (m b sid f acc pa n hd : Nat) (acq : Option Scope) (o refused : Nat) (w : List (Nat × LaneSet)),
      s.msgs.find? m = some ⟨.read b sid f acc pa n hd acq (some o) refused none, w⟩ ∧ ((s.barn o).ownedWord (pa / 4)).isSome = own) ∧
    (∀ sx : Bool, ∃ (s : State) (m b sid fid pa : Nat) (size : Size) (hd : Nat) (fwd : Option Nat) (refused : Nat) (fixed : Option (List Byte))
      (w : List (Nat × LaneSet)) (sh : Sheaf) (f : Flight) (a : Acc) (g : Pred) (d ra : Reg) (scope : Scope) (off : BitVec 15),
      s.msgs.find? m = some ⟨.read b sid fid 0 pa (Size.bytes size) hd none fwd refused fixed, w⟩ ∧
      (fixed.isSome ∨ fwd = none ∨ 2 ≤ refused) ∧ s.dieWaits hd = false ∧ s.hostMod pa = false ∧
      (∀ wa ∈ wordsOf pa size.bytes, s.isLost wa = false) ∧ s.poisoned pa size.bytes = false ∧
      s.sheaf? sid = some sh ∧ sh.core < 352 ∧ sh.flight? fid = some f ∧ f.accs = [a] ∧ a.lane < 64 ∧ f.stage = .access ∧ f.instr.wf = true ∧
      (f.instr = .ldg g d ra size scope false off ∧ sx = false ∨ f.instr = .ldgSigned g d ra size scope false off ∧ sx = true) ∧
      (a.homeOnly = true ∨ (s.barn b).setFull (pa / 128) = false) ∧
      sh.watch = [] ∧ (∀ st, s.stookOf sh = some st → st.merge = []) ∧ (fixed.getD (s.cohRead pa size.bytes)).length = size.bytes) ∧
    (∃ (s : State) (m b sid fid pa n hd ctx pte : Nat) (o : AtomOp) (lanes : List AtLane) (w : List (Nat × LaneSet)) (sh : Sheaf) (f : Flight),
      s.msgs.find? m = some ⟨.atomic b sid fid pa n hd ctx pte (.op o) none lanes, w⟩ ∧ isPeer pa = false ∧ s.hostHolds pa = false ∧
      s.dieWaits hd = false ∧ s.sheaf? sid = some sh ∧ sh.flight? fid = some f ∧ sh.watch = [] ∧ s.poisoned pa n = false ∧
      (∀ wa ∈ wordsOf pa n, s.isLost wa = false ∧ s.unrecorded b wa = false ∧ Spec.MarksElsewhere s ctx pte pa (wa / 32)) ∧ Spec.Unowned s pa n) ∧
    (∃ (s : State) (m b line : Nat) (w : List (Nat × LaneSet)) (e : EvLine), s.msgs.find? m = some ⟨.wb b line, w⟩ ∧
      (s.barn b).evict.find? (fun e => e.msg == m) = some e) ∧
    (∀ own : Bool, ∃ (s : State) (b line : Nat), (s.barn b).gather = [] ∧
      (∀ e ∈ (s.barn b).words, e.1 / 32 = line → e.2.phase = [] ∧ s.pendingReg b e.1 = none) ∧
      (((s.barn b).words.filter (fun e => e.1 / 32 == line)).filter (fun e => e.2.owned) = []) = (own = false) ∧
      decide (16 ≤ ((s.barn b).evict.filter (fun e => e.line % 4 == line % 4)).length) = false) ∧
    (∃ (s : State) (b line : Nat), (s.barn b).gather = [] ∧
      (∀ e ∈ (s.barn b).words, e.1 / 32 = line → e.2.phase = [] ∧ s.pendingReg b e.1 = none) ∧
      decide (16 ≤ ((s.barn b).evict.filter (fun e => e.line % 4 == line % 4)).length) = true) ∧
    (∃ (s : State) (b addr : Nat) (g : Gather), (s.barn b).gather.find? addr = some g ∧ s.hostHolds addr = false ∧ Spec.Unowned s addr g.size.bytes ∧
      ∀ wa ∈ wordsOf addr g.size.bytes, s.unrecorded b wa = false ∧ Spec.MarksElsewhere s g.ctx g.pte addr (wa / 32)) ∧
    ∃ (s : State) (line : Nat), ∀ j < 32, Spec.OneOwner s (32 * line + j) := by
  refine ⟨?_, ?_, ⟨devM [(20, ⟨.reg 87 0x1000081F 1 3 0 0x90008 true, [(3, 1)]⟩)] [] [] (shL), 20, _, _, _, _, _, _, _, rfl⟩,
    ⟨devM [] [(0x800040, ownedBy 87)] [] shL, 87, 0x800040, 0x80000000, ?_, by decide, by decide +kernel⟩, ?_, ?_, ?_,
    ⟨devM [(20, ⟨.wb 87 0x800040, []⟩)] [] [(87, { Barn.empty with evict := [⟨0x800040, [(0x1000081F, l1 true)], 20⟩] })] shL, 20, _, _, _, _, rfl, rfl⟩,
    ?_,
    ⟨devM [] [] [(87, { Barn.empty with words := [(0x1000081F, l1 true)], evict := List.replicate 16 ⟨0x800044, [], 20⟩ })] shL, 87, 0x800040, rfl,
      by decide +kernel, by decide +kernel⟩, ?_, ⟨devM [] [(0x800040, ownedBy 87)] [] shL, 0x800040, ?_⟩⟩
  · rintro wt (rfl | rfl)
    · exact ⟨devM [(20, ⟨.reg 87 0x1000081F 1 3 0 0x90008 false, [(3, 1)]⟩)] [(0x800040, ownedBy 0)] [] shL, 20, 87, 0x1000081F, 1, 3, 0, 0x90008, _, rfl, by decide +kernel,
        by decide +kernel, rfl, fun j h => ⟨(by decide +kernel : ∀ j < 1, State.thirdRead _ (0x1000081F + j) = false) j h,
          (by unfold Spec.OneOwner; decide +kernel : ∀ j < 1, Spec.OneOwner _ (0x1000081F + j)) j h,
          (by decide +kernel : ∀ j < 1, State.thirdRead _ (Nat.xor (0x1000081F + j) 1) = false) j h,
          marks ((by decide +kernel : ∀ j < 1, marksB _ 0 0x90008 (4 * (0x1000081F + j)) (0x1000081F / 32) = true) j h)⟩, by decide +kernel, by decide +kernel⟩
    · exact ⟨{ devM [(20, ⟨.reg 87 0x1000081F 1 3 0 0x90008 false, [(3, 1)]⟩)] [] [] shL with waits := [waitAt 0x1000081F] }, 20, 87, 0x1000081F, 1, 3, 0, 0x90008, _, rfl,
        by decide +kernel, by decide +kernel, rfl, fun j h => ⟨(by decide +kernel : ∀ j < 1, State.thirdRead _ (0x1000081F + j) = false) j h,
          (by unfold Spec.OneOwner; decide +kernel : ∀ j < 1, Spec.OneOwner _ (0x1000081F + j)) j h,
          (by decide +kernel : ∀ j < 1, State.thirdRead _ (Nat.xor (0x1000081F + j) 1) = false) j h,
          marks ((by decide +kernel : ∀ j < 1, marksB _ 0 0x90008 (4 * (0x1000081F + j)) (0x1000081F / 32) = true) j h)⟩, by decide +kernel, by decide +kernel⟩
  · exact ⟨devM [(20, ⟨.reg 87 0x1000081E 2 3 0 0x90008 false, [(3, 1)]⟩)] [(0x800040, ownedBy 87)] [] shL, 20, 87, 0x1000081E, 2, 3, 0, 0x90008, _, rfl, by decide +kernel,
      by decide +kernel, rfl, by decide, by decide +kernel, fun j h => ⟨(by decide +kernel : ∀ j < 2, State.thirdRead _ (0x1000081E + j) = false) j h,
        (by unfold Spec.OneOwner; decide +kernel : ∀ j < 2, Spec.OneOwner _ (0x1000081E + j)) j h,
        (by decide +kernel : ∀ j < 2, State.thirdRead _ (Nat.xor (0x1000081E + j) 1) = false) j h,
        marks ((by decide +kernel : ∀ j < 2, marksB _ 0 0x90008 (4 * (0x1000081E + j)) (0x1000081E / 32) = true) j h)⟩⟩
  · unfold Spec.OneOwner; decide +kernel
  · rintro (_ | _)
    · exact ⟨devM (msgRead 30 0x4000207C 4 (some 87) 1 none) [(0x800040, ownedBy 87)] [(87, { Barn.empty with words := [(0x1000081F, l1 false)] })] shL, 20,
        _, _, _, _, _, _, _, _, _, _, _, rfl, by decide +kernel⟩
    · exact ⟨devM (msgRead 30 0x4000207C 4 (some 87) 1 none) [(0x800040, ownedBy 87)] [(87, { Barn.empty with words := [(0x1000081F, l1 true)] })] shL, 20,
        _, _, _, _, _, _, _, _, _, _, _, rfl, by decide +kernel⟩
  · rintro (_ | _)
    · exact ⟨devM (msgRead 30 0x40001FF0 16 none 0 none) [] [] { shL with flights := [flL (.ldg .t (.v 4) (.v 2) .b128 .sh false 0) 16] }, 20, 0, 3, 30, 0x40001FF0, .b128, 3,
        none, 0, none, [], _, _, _, .t, .v 4, .v 2, .sh, 0, rfl, Or.inr (Or.inl rfl), by decide +kernel, by decide +kernel, by decide +kernel, by decide +kernel, rfl, by decide, rfl, rfl,
        by decide, rfl, by decide +kernel, Or.inl ⟨rfl, rfl⟩, Or.inr (by decide +kernel), rfl, fun st h => by cases h; rfl, by decide +kernel⟩
    · exact ⟨devM (msgRead 30 0x40001FF0 1 (some 1) 2 none) [] [] { shL with flights := [flL (.ldgSigned .t (.v 95) (.v 2) .b8 .sh false 0) 1] }, 20, 0, 3, 30, 0x40001FF0, .b8, 3,
        some 1, 2, none, [], _, _, _, .t, .v 95, .v 2, .sh, 0, rfl, Or.inr (Or.inr (by decide)), by decide +kernel, by decide +kernel, by decide +kernel, by decide +kernel, rfl, by decide, rfl, rfl,
        by decide, rfl, by decide +kernel, Or.inr ⟨rfl, rfl⟩, Or.inr (by decide +kernel), rfl, fun st h => by cases h; rfl, by decide +kernel⟩
  · exact ⟨devM [(20, ⟨.atomic 0 3 30 0x40001FF0 8 3 0 0x90008 (.op .add) none [⟨0, bytesOf 8 1⟩, ⟨7, bytesOf 8 (2 ^ 64 - 1)⟩], []⟩)] [] []
      { shL with flights := [flL (.atom .t .add (.v 4) (.v 2) (.v 6) .b64 .sy .plain (.off 0)) 8] }, 20, 0, 3, 30, 0x40001FF0, 8, 3, 0, 0x90008, .add, _, [], _, _, rfl, by decide +kernel,
      by decide +kernel, by decide +kernel, rfl, rfl, rfl, by decide +kernel, fun wa hw => ⟨(by decide +kernel : ∀ wa ∈ wordsOf 0x40001FF0 8, State.isLost _ wa = false) wa hw,
        (by decide +kernel : ∀ wa ∈ wordsOf 0x40001FF0 8, State.unrecorded _ 0 wa = false) wa hw, marks ((by decide +kernel : ∀ wa ∈ wordsOf 0x40001FF0 8, marksB _ 0 0x90008 0x40001FF0 (wa / 32) = true) wa hw)⟩, by unfold Spec.Unowned; decide +kernel⟩
  · rintro (_ | _)
    · exact ⟨devM [] [] [(87, { Barn.empty with words := [(0x1000081F, l1 false)] })] shL, 87, 0x800040, rfl, by decide +kernel, by
        simp only [eq_iff_iff, iff_true]; decide +kernel, by decide +kernel⟩
    · exact ⟨devM [] [(0x800040, ownedBy 87)] [(87, { Barn.empty with words := [(0x1000081F, l1 true)], evict := List.replicate 15 ⟨0x800044, [], 20⟩ })] shL, 87, 0x800040, rfl,
        by decide +kernel, by simp only [eq_iff_iff, Bool.true_eq_false, iff_false]; decide +kernel, by decide +kernel⟩
  · exact ⟨devM [] [] [(87, { Barn.empty with gather := [(0x40001FFC, ⟨.add, .b32, 5, .sy, 0, 0x90008, 3⟩)] })] shL, 87, 0x40001FFC, _, rfl, by decide +kernel,
      by unfold Spec.Unowned; decide +kernel, fun wa hw => ⟨(by decide +kernel : ∀ wa ∈ wordsOf 0x40001FFC 4, State.unrecorded _ 87 wa = false) wa hw,
        marks ((by decide +kernel : ∀ wa ∈ wordsOf 0x40001FFC 4, marksB _ 0 0x90008 0x40001FFC (wa / 32) = true) wa hw)⟩⟩
  · unfold Spec.OneOwner; decide +kernel

/-- A device whose links stand as given and whose host holds half 1 of line 0x800040. -/
def devX (held mod : BitVec 2) : State :=
  { dev with fabric := { FabricPage.reset with hostUp := [false, true], links := [(17, ⟨true, 5, 3, 0⟩)], devnum := 511 }
             homes := [(0x800040, { HomeLine.fresh with held := held, heldMod := mod, owners := [] })], cur := none, slot := [] }
theorem stacksUp (s : State) (h : ∀ d < 4, s.dieWaits d = false ∧ s.dieFailed d = false) : Spec.StacksReady s := h
theorem hyps_OutsideAccesses :
    (∃ (s : State) (m b sid f acc pa n : Nat) (d : List Byte) (acq : Option Scope) (fresh : Bool) (w : List (Nat × LaneSet)) (x : Nat) (set : LaneSet) (sh : Sheaf),
      s.msgs.find? m = some ⟨.peer b sid f acc pa n (some d) acq fresh, w⟩ ∧ sid ≠ 0 ∧ w = [(x, set)] ∧ s.sheaf? x = some sh) ∧
    (∃ (s : State) (dv addr : Nat) (bs : List Byte), dv ≠ s.fabric.devnum ∧ dv < 512 ∧ (∃ j < 18, (s.link j).up = true) ∧ Spec.StacksReady s ∧ inMemory addr bs.length = true ∧
      (∀ h ∈ halvesOf addr bs.length, s.hostHolds h = false) ∧ Spec.Unowned s addr bs.length) ∧
    (∃ (s : State) (addr : Nat) (bs : List Byte), s.hostLinked = true ∧ Spec.StacksReady s ∧ inMemory addr bs.length = true ∧ (∀ h ∈ halvesOf addr bs.length, s.hostHolds h = false) ∧ Spec.Unowned s addr bs.length) ∧
    (∃ (s : State) (addr : Nat), s.hostLinked = true ∧ Spec.StacksReady s ∧ inMemory addr 8 = true ∧ addr % 8 = 0 ∧ s.hostHolds addr = false ∧ Spec.Unowned s addr 8 ∧
      ∀ wa ∈ wordsOf addr 8, s.isLost wa = false) ∧
    (∃ (s : State) (addr : Nat), s.hostLinked = true ∧ Spec.StacksReady s ∧ inMemory (addr / 64 * 64) 64 = true ∧ ∀ wa, wa / 16 = addr / 64 → Spec.OneOwner s wa) ∧
    ∃ (s : State) (half : Nat) (bs : List Byte), s.hostHolds (64 * half) = true ∧ bs.length = 64 ∧ s.hostMod (64 * half) = true ∧ Spec.Unowned s (64 * half) 64 :=
  ⟨⟨devM [(20, ⟨.peer 0 3 30 0 (2 ^ 51) 16 (some (List.replicate 16 0)) none true, [(3, 128)]⟩)] [] [] shL, 20, _, _, _, _, _, _, _, _, _, _, _, _, _, rfl, by decide, rfl, rfl⟩,
   ⟨devX 0 0, 510, memBytes - 1, [255], by decide +kernel, by decide, ⟨17, by decide, by decide +kernel⟩, stacksUp _ (by decide +kernel), by decide +kernel, by decide +kernel,
     by unfold Spec.Unowned; decide +kernel⟩,
   ⟨devX 0 0, 0, [255], by decide +kernel, stacksUp _ (by decide +kernel), by decide +kernel, by decide +kernel, by unfold Spec.Unowned; decide +kernel⟩,
   ⟨devX 0 0, memBytes - 8, by decide +kernel, stacksUp _ (by decide +kernel), by decide +kernel, by decide +kernel, by decide +kernel, by unfold Spec.Unowned; decide +kernel, by decide +kernel⟩,
   ⟨devX 0 0, 0x4000207F, by decide +kernel, stacksUp _ (by decide +kernel), by decide +kernel, fun wa h => by
      unfold Spec.OneOwner; rw [show wa / 32 = 0x800040 by omega]; exact Nat.zero_le 1⟩,
   ⟨devX 2 2, 0x1000081, List.replicate 64 1, by decide +kernel, rfl, by decide +kernel, by unfold Spec.Unowned; decide +kernel⟩⟩

/-! ### Witnesses: the fabric, parking, pre-emption -/

def pairWhere {ε α β : Type} (x : Except ε α × β) (p : α → β → Bool) : Bool := match x with | (.ok a, s) => p a s | _ => false
theorem pairOk {ε α β : Type} {x : Except ε α × β} {p : α → β → Bool} (h : pairWhere x p = true) : ∃ a s, x = (.ok a, s) ∧ p a s = true := by
  obtain ⟨a | a, s⟩ := x
  · simp [pairWhere] at h
  · exact ⟨a, s, rfl, h⟩
/-- A group of two in which this device has rank 1, and a collective step of four bytes. -/
def coll0 (fin : Option (Nat × Nat)) : CollOp_ :=
  ⟨40, 0, 1, 3, 0, 63, 0x40005000, 0x40004000, 4, .f32, .add, .red, 255, 0, 0, [], false, none, [], false, fin, [], none, 0⟩
def devN (fin : Option (Nat × Nat)) : State :=
  { at_ sh0 with colls := [coll0 fin], fabric := { FabricPage.reset with groups := [(255, { Group.reset with nmemb := 2, rank := 1, flags := 1 })] } }
/-- The device as rank `rank` of two, its page of context 0 cached; the step's result, where it is combined. -/
def collK (kind : CollKind) (out : Option (List Byte)) : CollOp_ := { coll0 none with kind := kind, out := out }
def devAr (kind : CollKind) (rank : Nat) (out : Option (List Byte)) : State :=
  { at_ sh0 with colls := [collK kind out], trans := { dev.trans with ctxCache := [(0, [1, 0, 8] ++ List.replicate 61 0)] }, fabric := { FabricPage.reset with groups := [(255, { Group.reset with nmemb := 2, rank := rank, fanout := 2, flags := 1 })] } }
def devUp (up : Bool) : State := { dev with fabric := { FabricPage.reset with hostUp := [up, up], links := [(17, ⟨up, 5, 3, 1023⟩)], msiPend := [(32, 63)], recompute := true } }

theorem xlDevice {s : State} {core : Nat} {va : DWord} {P : Nat → Nat → Nat → State → Bool}
    (h : (match s.translate (some core) 0 va .write true with | (.ok pa pte hd false, s1) => P pa pte hd s1 | _ => false) = true) :
    ∃ pa pte hd s1, s.translate (some core) 0 va .write true = (.ok pa pte hd false, s1) ∧ P pa pte hd s1 = true := by
  split at h
  · rename_i pa pte hd s1 e
    exact ⟨pa, pte, hd, s1, e, h⟩
  · simp at h
theorem hyps_FabricSteps :
    (∃ (s : State) (id : Nat) (o : CollOp_) (cc : Nat × Nat) (st : Stook) (sid : Nat), s.colls.find? (fun o => o.id == id) = some o ∧ o.recs = [] ∧ s.ctxHeld o.ctx = false ∧
      o.fin = some cc ∧ o.torn = false ∧ (∀ m ∈ o.written, s.msgs.find? m = none) ∧ s.stook? o.uid = some st ∧ st.parked = false ∧
      sid ∈ st.sheaves ∧ (s.sheaf? sid).isSome ∧ (∀ sh, s.sheaf? o.sid = some sh → sh.watch = [])) ∧
    (∀ cause, cause = 5 ∨ cause = 6 → ∃ (s : State) (id : Nat) (o : CollOp_) (st : Stook) (sid : Nat), s.colls.find? (fun o => o.id == id) = some o ∧ o.recs = [] ∧
      s.ctxHeld o.ctx = false ∧ o.fin = none ∧ o.written = [] ∧ (cause = 5 ∨ cause = 6 ∧ o.out = none) ∧ s.stook? o.uid = some st ∧ st.parked = false ∧
      sid ∈ st.sheaves ∧ (s.sheaf? sid).isSome ∧ (∀ sh, s.sheaf? o.sid = some sh → sh.watch = [])) ∧
    (∃ (s : State) (id : Nat) (o : CollOp_) (src : List (Nat × Nat × Nat × Nat × Bool)) (s1 : State)
      (st : Stook) (sid : Nat) (peers : List Byte), s.colls.find? (fun o => o.id == id) = some o ∧ o.recs = [] ∧ s.ctxHeld o.ctx = false ∧
      o.fin = none ∧ o.out = none ∧ o.written = [] ∧ o.kind = .red ∧ (s.group o.group).rank ≠ 0 ∧ o.given = [] ∧ src.any s1.noRoute = false ∧
      s.translateAll (some o.core) o.ctx .read true (pieces o.src.toNat o.count) = (.ok src, s1) ∧
      src.any (s1.readWaits o.core (s1.fnUp (s1.fnOf o.uid))) = false ∧ src.any (fun p => s1.poisoned p.1 p.2.1) = false ∧
      s.stook? o.uid = some st ∧ st.parked = false ∧ sid ∈ st.sheaves ∧ (s.sheaf? sid).isSome ∧
      (∀ sh, s.sheaf? o.sid = some sh → sh.watch = []) ∧ peers.length = (s.group o.group).nmemb * o.count) ∧
    (∀ kind, ∃ (s : State) (o : CollOp_) (src : List Piece) (s1 s2 : State) (own peers : List Byte), o.kind = kind ∧
      s.colls.find? (fun x => x.id == o.id) = some o ∧ (o.kind = .red → (s.group o.group).rank = 0) ∧ o.count % (o.ty.bits / 8) = 0 ∧
      peers.length = (s.group o.group).nmemb * o.count ∧
      s.translateAll (some o.core) o.ctx .read true (pieces o.src.toNat o.count) = (.ok src, s1) ∧
      src.any (s1.readWaits o.core (s1.fnUp (s1.fnOf o.uid))) = false ∧ src.any (fun p => s1.poisoned p.1 p.2.1) = false ∧
      src.any s1.noRoute = false ∧ o.torn = false ∧ (o.snap = none ∨ o.snap = s1.peek o.core o.ctx o.src.toNat o.count) ∧
      (o.dst.toNat + o.count ≤ o.src.toNat ∨ o.src.toNat + o.count ≤ o.dst.toNat) ∧
      s1.collSource o src ((peers.drop ((s.group o.group).rank * o.count)).take o.count) = (own, s2) ∧
      (∀ dst, (s2.translateAll (some o.core) o.ctx .write true (pieces o.dst.toNat o.count)).1 = .ok dst →
        ∀ d ∈ dst, ∀ p ∈ src, d.1 + d.2.1 ≤ p.1 ∨ p.1 + p.2.1 ≤ d.1) ∧ 0 < (s.group o.group).nmemb ∧ 0 < o.count) ∧
    (∃ (s : State) (id : Nat) (o : CollOp_) (bs : List Byte) (pa pte hd : Nat) (s1 : State), s.colls.find? (fun x => x.id == id) = some o ∧
      (∀ x ∈ s.colls, x.id = id → x.given = o.given) ∧ o.recs = [] ∧ s.ctxHeld o.ctx = false ∧ o.out = some bs ∧ o.fin = none ∧ o.torn = false ∧
      o.done < bs.length ∧ (o.dst.toNat + o.done) % 64 + (bs.length - o.done) ≤ 64 ∧
      s.translate (some o.core) o.ctx (BitVec.ofNat 64 (o.dst.toNat + o.done)) .write true = (.ok pa pte hd false, s1) ∧ pa < 2 ^ 51 ∧
      s1.writeWaits o.core (s1.fnUp (s1.fnOf o.uid)) (pa, bs.length - o.done, pte, hd, false) = false ∧
      (s1.barn (barnOf o.core)).gather = [] ∧ Spec.MarksElsewhere s1 o.ctx pte pa (pa / 128) ∧ pa % 64 = (o.dst.toNat + o.done) % 64 ∧
      (∀ sh, s.sheaf? o.sid = some sh → sh.watch = [])) ∧
    (∃ (s : State) (link : Nat), link < 18 ∧ (s.link link).up = true) ∧
    (∃ (s : State) (link peer peerLink : Nat), link < 18 ∧ (s.link link).up = false ∧ s.fabric.unusable = false ∧
      s.rel.ready.getLsbD (12 + link) = true ∧ peer < 512 ∧ peerLink < 32) ∧
    (∃ (s : State), s.fabric.recompute = true ∧ s.colls = []) ∧
    (∀ link < 2, ∃ (s : State), s.fabric.hostUp.getD link false = true) ∧
    (∀ link < 2, ∃ (s : State), s.fabric.hostUp.getD link false = false ∧ s.rel.ready.getLsbD (30 + link) = true ∧ s.trans.recs = []) ∧
    (∃ (s : State) (entry : Nat) (value : DWord), s.hostVis = true ∧ entry < 256 ∧ (s.group entry).flags % 2 = 0 ∧ value.getLsbD 0 = true) ∧
    (∃ (s : State) (entry : Nat) (value : DWord), s.hostVis = true ∧ entry < 256 ∧ (s.group entry).flags % 2 = 1 ∧ value.getLsbD 0 = false ∧ s.colls ≠ []) ∧
    ∃ (s : State) (fn vector : Nat), fn ≤ 32 ∧ s.fnVis fn = true ∧ vector < vectors fn ∧ (fn, vector) ∉ s.fabric.msiOpen ∧ (fn, vector) ∈ s.fabric.msiPend := by
  refine ⟨⟨devN (some (6, 4)), 40, _, (6, 4), stook0, 3, rfl, rfl, rfl, rfl, rfl, by decide, rfl, rfl, by decide, rfl, fun sh h => by cases h; rfl⟩,
    fun cause hc => ⟨devN none, 40, _, stook0, 3, rfl, rfl, rfl, rfl, rfl, hc.imp id (fun h => ⟨h, rfl⟩), rfl, rfl, by decide, rfl, fun sh h => by cases h; rfl⟩, ?_, ?_, ?_,
    ⟨devUp true, 17, by decide, rfl⟩, ⟨devUp false, 17, 511, 31, by decide, rfl, rfl, by decide +kernel, by decide, by decide⟩, ⟨devUp true, rfl, rfl⟩,
    ?_, ?_, ⟨devUp true, 255, 1, by decide +kernel, by decide, rfl, by decide⟩,
    ⟨{ devN none with fabric := { (devN none).fabric with hostUp := [true, true] } }, 255, 2, by decide +kernel, by decide, by decide +kernel, by decide, by decide⟩,
    ⟨devUp true, 32, 63, by decide, by decide +kernel, by decide, by decide +kernel, by decide +kernel⟩⟩
  · have ⟨src, s1, h1, h⟩ := pairOk (x := (devN none).translateAll (some 0) 0 .read true (pieces 0x40004000 4))
      (p := fun src s1 => !src.any (s1.readWaits 0 (s1.fnUp (s1.fnOf 1))) && !src.any (fun p => s1.poisoned p.1 p.2.1) && !src.any s1.noRoute) (by decide +kernel)
    simp only [Bool.and_eq_true, Bool.not_eq_true'] at h
    exact ⟨devN none, 40, coll0 none, src, s1, stook0, 3, List.replicate 8 1, rfl, rfl, rfl, rfl, rfl, rfl, rfl, by decide +kernel, rfl, h.2, h1, h.1.1, h.1.2, rfl, rfl, by decide, rfl,
      fun sh h => by cases h; rfl, by decide +kernel⟩
  · intro kind
    have ⟨src, s1, h1, h⟩ := pairOk (x := (devAr kind 0 none).translateAll (some 0) 0 .read true (pieces 0x40004000 4))
      (p := fun src s1 => !src.any (s1.readWaits 0 (s1.fnUp (s1.fnOf 1))) && !src.any (fun p => s1.poisoned p.1 p.2.1) && !src.any s1.noRoute &&
        match ((s1.collSource (collK kind none) src [1, 1, 1, 1]).2.translateAll (some 0) 0 .write true (pieces 0x40005000 4)).1 with
        | .ok dst => dst.all (fun d => src.all (fun p => decide (d.1 + d.2.1 ≤ p.1 ∨ p.1 + p.2.1 ≤ d.1)))
        | _ => false)
      (by cases kind <;> decide +kernel)
    obtain ⟨h, h2⟩ := (Bool.and_eq_true _ _).mp h
    simp only [Bool.and_eq_true, Bool.not_eq_true'] at h
    exact ⟨devAr kind 0 none, collK kind none, src, s1, _, _, List.replicate 8 1, rfl, rfl, fun _ => by cases kind <;> decide +kernel, by cases kind <;> decide +kernel,
      by cases kind <;> decide +kernel, h1, h.1.1, h.1.2, h.2, rfl, .inl rfl, .inr (by cases kind <;> decide +kernel), rfl,
      fun dst hd d h3 p h4 => by
        have e : (devAr kind 0 none).group (collK kind none).group = { Group.reset with nmemb := 2, rank := 0, fanout := 2, flags := 1 } := by cases kind <;> decide +kernel
        rw [e] at hd
        have hd : ((s1.collSource (collK kind none) src [1, 1, 1, 1]).2.translateAll (some 0) 0 .write true (pieces 0x40005000 4)).1 = .ok dst := hd
        rw [hd] at h2
        exact of_decide_eq_true (List.all_eq_true.mp (List.all_eq_true.mp h2 d h3) p h4),
      by cases kind <;> decide +kernel, by cases kind <;> decide +kernel⟩
  · let s := devAr .ar 1 (some [1, 2, 3, 4])
    have ⟨pa, pte, hd, s1, h1, h⟩ := xlDevice (s := s) (core := 0) (va := 0x40005000) (P := fun pa pte hd s1 =>
      decide (pa < 2 ^ 51 ∧ s1.writeWaits 0 (s1.fnUp (s1.fnOf 1)) (pa, 4, pte, hd, false) = false ∧ (s1.barn 0).gather = [] ∧ pa % 64 = 0) &&
        marksB s1 0 pte pa (pa / 128)) (by decide +kernel)
    obtain ⟨h, h2⟩ := (Bool.and_eq_true _ _).mp h
    have h := of_decide_eq_true h
    exact ⟨s, 40, collK .ar (some [1, 2, 3, 4]), [1, 2, 3, 4], pa, pte, hd, s1, rfl, by decide, rfl, rfl, rfl, rfl, rfl, by decide, by decide, h1, h.1, h.2.1,
      h.2.2.1, marks h2, h.2.2.2, fun sh h => by cases h; rfl⟩
  · intro link hl
    exact ⟨devUp true, by obtain rfl | rfl : link = 0 ∨ link = 1 := by omega
                          all_goals rfl⟩
  · intro link hl
    exact ⟨devUp false, by obtain rfl | rfl : link = 0 ∨ link = 1 := by omega
                           all_goals rfl, by obtain rfl | rfl : link = 0 ∨ link = 1 := by omega
                                             all_goals decide +kernel, rfl⟩

/-- A sheaf whose lanes all wait in TKWAIT. -/
noncomputable def shTk (core : Nat) : Sheaf :=
  { sh0 with core := core, flights := [⟨30, 0, 1, .tkwaitB32 .t, [], 0x40001000, 255, 255, [], 0, false, .waiting, [], 0, false⟩] }
/-- A crop that has not begun and needs all W bins of a core. -/
def cropW : Crop := { newCrop .reset 0 ⟨(rec0 0).set 0x30 255, 0, 0, 0, [], []⟩ with next := 0 }
def devK (k : Stook) (sh : KV Sheaf) : State :=
  { dev with stooks := [(1, k)], sheaves := sh, crops := [(2, { crop0 0 with seq := 1 }), (5, cropW)], parts := [(0, { part0 with parkSize := 0x100000 })], nextId := 9
             cur := none, slot := [] }
theorem spill {x : Bool × State} (h : x.1 = true) : ∃ s1, x = (true, s1) := ⟨x.2, Prod.ext h rfl⟩
theorem hyps_ParkingSteps :
    (∃ (s : State) (uid : Nat) (k : Stook) (c : Crop) (off : Nat) (s1 : State), s.stook? uid = some k ∧ s.cropOf k = some c ∧ k.trapStook = false ∧ s.partHeld c.part = false ∧
      s.rickParks (s.rickOf k) = true ∧ s.wantsRoom c.part c.prio = true ∧ s.betterVictim c.part c.prio (s.rickAge (s.rickOf k)) = false ∧
      parkFit (s.parkBlocks c.part) (s.part c.part).parkSize.toNat (s.rickLen (s.rickOf k)) = some off ∧
      s.spillAll (s.rickSheaves (s.rickOf k)) = (true, s1)) ∧
    (∃ (s : State) (uid : Nat) (k : Stook) (c : Crop) (seat : List Nat) (r : List (List Nat)) (s1 : State), s.stook? uid = some k ∧ s.cropOf k = some c ∧ k.parked = true ∧
      s.partHeld c.part = false ∧ k.trapStook = false ∧ s.partDue (s.part c.part) = false ∧ s.rickWoken k = true ∧ s.earlierWaits k c = false ∧ s.rickSeats k = seat :: r ∧
      s.fillRanges (s.rickOf k) = (true, s1) ∧ s.stooks.sorted = true) ∧
    ∃ (s : State) (uid : Nat) (k : Stook) (c : Crop) (core : Nat), s.stook? uid = some k ∧ s.cropOf k = some c ∧ k.parked = true ∧ s.partHeld c.part = false ∧
      k.trapStook = true ∧ s.partDue (s.part c.part) = false ∧ s.trapSeat k = some core := by
  have ⟨s1, h⟩ := spill (x := (devK stook0 [(3, shTk 0)]).spillAll ((devK stook0 [(3, shTk 0)]).rickSheaves ((devK stook0 [(3, shTk 0)]).rickOf stook0))) (by decide +kernel)
  have ⟨s2, h2⟩ := spill (x := (devK { stook0 with parked := true, wakes := [(1, 0, 3)], cores := [] } [(3, shTk parkedBase)]).fillRanges
    ((devK { stook0 with parked := true, wakes := [(1, 0, 3)], cores := [] } [(3, shTk parkedBase)]).rickOf
      { stook0 with parked := true, wakes := [(1, 0, 3)], cores := [] })) (by decide +kernel)
  exact ⟨⟨devK stook0 [(3, shTk 0)], 1, stook0, { crop0 0 with seq := 1 }, 0, s1, rfl, rfl, rfl, by decide +kernel, by decide +kernel, by decide +kernel, by decide +kernel, by decide +kernel, h⟩,
    ⟨devK { stook0 with parked := true, wakes := [(1, 0, 3)], cores := [] } [(3, shTk parkedBase)], 1, _, { crop0 0 with seq := 1 }, [0], [], s2, rfl, rfl, rfl, by decide +kernel, rfl, by decide +kernel,
      by decide +kernel, by decide +kernel, by decide +kernel, h2, by decide +kernel⟩,
    ⟨devK { stook0 with parked := true, trapStook := true, cores := [] } [(3, { shTk parkedBase with serves := some 7 }), (7, { shTk 0 with uid := 8 })], 1, _, { crop0 0 with seq := 1 }, 0,
      rfl, rfl, rfl, by decide +kernel, rfl, by decide +kernel, by decide +kernel⟩⟩

/-! ### Witnesses: pre-emption, reliability, bring-up, the host -/

def devA (f : TrapPage → TrapPage) (p : Part) (mem : KV Byte) : State :=
  { dev with trapPage := f TrapPage.reset, parts := [(15, p)], mem := mem, fabric := { FabricPage.reset with hostUp := [true, true] }, cur := none, slot := [] }
def op15 (o : Nat) (auto : Bool) : PreOp := ⟨o, 15, auto, 0x60000, []⟩
/-- An area that holds nothing: VERSION 1, SIZE 0x48. -/
def memA : KV Byte := [(0x60000, 1), (0x60008, 0x48)]
def due : Part := { Part.reset with armed := true, tslice := 1, sarea := 0x60000, slimit := 5, sareaValid := true }
theorem hyps_PreemptionSteps :
    (∃ (s : State) (part : Nat), s.hostVis = true ∧ part < 16 ∧ s.trapPage.op.isSome) ∧
    (∃ (s : State) (part : Nat), s.hostVis = true ∧ part < 16 ∧ s.trapPage.op = none ∧ s.trapPage.plimit.toNat < 0x4600 + 2359296 * (s.part part).ltp.length) ∧
    (∃ (s : State) (part : Nat), s.hostVis = true ∧ part < 16 ∧ s.trapPage.op = none ∧ 0x4600 + 2359296 * (s.part part).ltp.length ≤ s.trapPage.plimit.toNat) ∧
    (∃ (s : State) (part : Nat), s.hostVis = true ∧ part < 16 ∧ s.trapPage.op = none ∧ (s.part part).sarea ≠ 0 ∧ (s.part part).sareaValid = true) ∧
    (∃ (s : State) (part : Nat), s.hostVis = true ∧ part < 16 ∧ s.trapPage.op = none ∧ (s.part part).sareaValid = false) ∧
    (∀ run : Bool, ∃ (s : State) (part : Nat), part < 16 ∧ (s.part part).armed = true ∧ (s.part part).tslice ≠ 0 ∧
      (s.part part).sliceFrom + 2000 * (s.part part).tslice.toNat ≤ s.clock ∧ (if run then s.trapPage.op.isSome = true else
        s.trapPage.op = none ∧ (s.part part).sarea ≠ 0 ∧ 0x4600 + 2359296 * (s.part part).ltp.length ≤ 4096 * (s.part part).slimit.toNat)) ∧
    (∃ (s : State) (o : PreOp), s.trapPage.op = some o ∧ (∀ p < 16, (s.part p).sliceDue = false) ∧ o.op = 1 ∧ s.quiet o.part (s.partCtxs o.part) = true) ∧
    (∃ (s : State) (o : PreOp), s.trapPage.op = some o ∧ (∀ p < 16, (s.part p).sliceDue = false) ∧ o.op ≠ 1 ∧ (s.readArea o.area).malformed = true) ∧
    ∃ (s : State) (o : PreOp), s.trapPage.op = some o ∧ (∀ p < 16, (s.part p).sliceDue = false) ∧ o.op ≠ 1 ∧ (s.readArea o.area).malformed = false ∧
      (s.readArea o.area).noSeat s o.part = false := by
  refine ⟨⟨devA (fun t => { t with op := some (op15 2 false) }) .reset [], 15, by decide +kernel, by decide, rfl⟩,
    ⟨devA (fun t => { t with plimit := 0x45FF }) .reset [], 15, by decide +kernel, by decide, rfl, by decide +kernel⟩,
    ⟨devA (fun t => { t with plimit := 0x4600 }) .reset [], 15, by decide +kernel, by decide, rfl, by decide +kernel⟩,
    ⟨devA id due [], 15, by decide +kernel, by decide, rfl, by decide +kernel, rfl⟩,
    ⟨devA id { due with sareaValid := false } [], 15, by decide +kernel, by decide, rfl, rfl⟩, ?_,
    ⟨devA (fun t => { t with op := some (op15 1 true) }) .reset mem0, op15 1 true, rfl, by decide +kernel, rfl, by decide +kernel⟩,
    ⟨devA (fun t => { t with op := some (op15 3 false) }) .reset mem0, op15 3 false, rfl, by decide +kernel, by decide, by decide +kernel⟩,
    ⟨devA (fun t => { t with op := some (op15 2 false) }) .reset memA, op15 2 false, rfl, by decide +kernel, by decide, by decide +kernel, by decide +kernel⟩⟩
  rintro (_ | _)
  · exact ⟨{ devA id due [] with clock := 2000 }, 15, by decide, rfl, by decide +kernel, by decide +kernel, rfl, by decide +kernel, by decide +kernel⟩
  · exact ⟨{ devA (fun t => { t with op := some (op15 2 false) }) due [] with clock := 2000 }, 15, by decide, rfl, by decide +kernel, by decide +kernel, rfl⟩

/-- A scan visit of core 351, barn 87; stooks of a crop whose record asks for relaunch. -/
def devScan (b : Barn) (st : CoreSt) : State := { dev with barns := [(87, b)], cores := [(0, Core.fresh .usable), (351, Core.fresh st)], cur := none, slot := [] }
theorem hyps_ReliabilitySteps :
    (∃ (s : State) (barn slot : Nat), barn < 88 ∧ (s.barn barn).scanAt = none ∧ s.rel.ready.getLsbD (8 + barn / 22) = true ∧
      (slotsFrom (s.barn barn).scanSlot).find? (fun k => (s.core (4 * barn + k)).st == .usable || (s.core (4 * barn + k)).st == .spare) = some slot) ∧
    (∃ (s : State) (barn c : Nat), (s.barn barn).scanAt = some c ∧ (s.barn barn).scanMoved = false ∧ s.residentStooks c = []) ∧
    (∃ (s : State) (barn c : Nat), (s.barn barn).scanAt = some c ∧ (s.barn barn).scanMoved = true) ∧
    (∃ (s : State) (uid : Nat) (k : Stook) (c : Crop), s.stook? uid = some k ∧ k.trapStook = false ∧ s.cropOf k = some c ∧
      recRelaunch c.record = true ∧ c.relaunches.getD k.rick 0 < 3 ∧ s.trapPage.op = none) ∧
    (∃ (s : State) (uid : Nat) (k : Stook) (c : Crop), s.stook? uid = some k ∧ k.trapStook = false ∧ s.cropOf k = some c ∧ recRelaunch c.record = false) ∧
    (∃ (s : State) (uid : Nat) (k : Stook) (c : Crop), s.stook? uid = some k ∧ k.trapStook = false ∧ s.cropOf k = some c ∧ recRelaunch c.record = true ∧
      3 ≤ c.relaunches.getD k.rick 0) ∧
    ∃ (line : Nat), 128 * line < memBytes := by
  exact ⟨⟨devScan { Barn.empty with scanSlot := 3 } .usable, 87, 3, by decide, rfl, by decide +kernel, by decide +kernel⟩,
    ⟨devScan { Barn.empty with scanAt := some 351 } .usable, 87, 351, rfl, rfl, by decide +kernel⟩,
    ⟨devScan { Barn.empty with scanAt := some 351, scanMoved := true } .usable, 87, 351, rfl, rfl⟩,
    ⟨{ dev with crops := [(2, { crop0 0 with record := rec0 (2 ^ 21), relaunches := [(0, 2)] })] }, 1, stook0, _, rfl, rfl, rfl, by decide +kernel, by decide, rfl⟩,
    ⟨dev, 1, stook0, _, rfl, rfl, rfl, by decide +kernel⟩,
    ⟨{ dev with crops := [(2, { crop0 0 with record := rec0 (2 ^ 21), relaunches := [(0, 3)] })] }, 1, stook0, _, rfl, rfl, rfl, by decide +kernel, by decide⟩,
    ⟨3749999999, by decide⟩⟩

theorem hyps_ResetAndBringUp :
    (∃ s : State, (s.core 351).st = .retired ∧ s.cores.sorted = true ∧ s.mem.sorted = true) ∧
    (∀ bit < 32, ∃ s : State, s.rel.overtemp = false ∧ s.rel.ready.getLsbD bit = false ∧ s.rel.fail.getLsbD bit = false) ∧
    (∃ (s : State) (devnum : Nat), s.rel.overtemp = false ∧ s.rel.ready.getLsbD 32 = false ∧ s.rel.fwstat = 0 ∧ devnum < 512) ∧
    (∃ s : State, s.rel.overtemp = true ∧ s.inputs = []) ∧ (∃ (s : State) (r : List Instr), s.rel.overtemp = true ∧ s.inputs = .reset :: r) ∧
    (∃ s : State, s.relVis = true ∧ s.rel.overtemp = false ∧ s.rel.attctl ≠ 1) ∧
    ∃ s : State, s.rel.attctl = 1 ∧ s.rel.ready.getLsbD 32 = true ∧ s.fabric.hostUp.headD false = true ∧ s.rel.image.length = 32 := by
  refine ⟨⟨devScan .empty .retired, by decide +kernel, by decide +kernel, by decide +kernel⟩, fun bit hb => ⟨.reset, rfl, ?_, ?_⟩, ⟨.reset, 511, rfl, rfl, rfl, by decide⟩,
    ⟨{ State.reset with rel := { RelPage.reset with overtemp := true } }, rfl, rfl⟩,
    ⟨{ State.reset with rel := { RelPage.reset with overtemp := true }, inputs := [.reset] }, [], rfl, rfl⟩,
    ⟨{ devUp true with rel := { RelPage.reset with ready := 0x1FFFFFFFF, attctl := 2 } }, by decide +kernel, rfl, by decide⟩,
    ⟨{ devUp true with rel := { RelPage.reset with ready := 0x1FFFFFFFF, attctl := 1, image := List.replicate 32 7 } }, rfl, by decide +kernel, rfl, rfl⟩⟩
  · exact BitVec.getLsbD_zero
  · exact BitVec.getLsbD_zero

/-- A word at 0x40001000. -/
def devWd (w : Word) (sh : Sheaf) : State := { at_ sh with mem := memWrite mem0 0x40001000 (bytesOf 4 w.toNat), cur := none }
def seen (x : Seen × State) (p : Instr → Bool) : Bool := match x with | (.instr i, _) => p i | _ => false
theorem seenOk {x : Seen × State} {p : Instr → Bool} (h : seen x p = true) : ∃ i s1, x = (.instr i, s1) ∧ p i = true := by
  obtain ⟨_ | _ | _, s⟩ := x
  · exact ⟨_, s, rfl, h⟩
  · simp [seen] at h
  · simp [seen] at h
def recF (written : Bool) : FaultRec := ⟨0xFFFFFFFF, 0, 0x40000, 2, 1, written⟩
def devF2 (written : Bool) : State :=
  { at_ sh0 with trans := { dev.trans with recs := [recF written], fqsize := 64, fqhead := 0, fqtail := 62, nextId := 0 }
                 fabric := { FabricPage.reset with hostUp := [true, true] } }
noncomputable def shCc : Sheaf := { sh0 with flights := [⟨30, 0, 1, .ccwaitB32 .t (.s 22) (.s 4), [], 0x40001000, 255, 255, [], 0, false, .waiting, [⟨64, 0x40007000, 0x40007000, 8, 0x90008, 3, false, [], .queued⟩], 0, false⟩] }
noncomputable def devCcw (v : Nat) : State := { at_ shCc with mem := memWrite mem0 0x40007000 (bytesOf 8 v) }
theorem hyps_HostAndIssueSteps :
    (∃ (s : State) (value : DWord), s.trans.recs.find? (fun r => r.id == value.toNat % 2 ^ 32) = none) ∧
    (∃ (s : State) (value : DWord) (r : FaultRec), s.trans.recs.find? (fun r => r.id == value.toNat % 2 ^ 32) = some r ∧ s.hostVis = true ∧
      value.getLsbD 32 = false ∧ ∀ e ∈ s.queues, e.2.taken = none) ∧
    (∃ (s : State) (ctx : Nat), s.hostVis = true ∧ ctx < 4096 ∧ s.trans.invctx = []) ∧
    (∃ (s : State) (value : DWord), s.hostVis = true ∧ BitVec.ofNat 64 (value.toNat / 4096 * 4096) ≠ s.trans.fqbase) ∧
    (∀ en : Bool, ∃ (s : State) (q : Nat), s.hostVis = true ∧ q < 64 ∧ (s.queue q).enable = en) ∧
    (∃ (s : State) (r : FaultRec), s.trans.recs.find? (fun r => !r.written) = some r ∧ s.fqOpen = true) ∧
    (∃ (s : State) (sid : Nat) (sh : Sheaf), s.sheaf? sid = some sh ∧ sh.frozen = false) ∧
    (∀ uni : Bool, ∃ (s : State) (sid lane : Nat) (sh : Sheaf) (i : Instr) (s1 : State), s.sheaf? sid = some sh ∧ sh.frozen = false ∧ sh.live.getLsbD lane = true ∧
      s.look sh.core sh.ctx (sh.lane lane).pc = (.instr i, s1) ∧ (sh.lane lane).age = 15 ∧ (i.cls = .uniform ↔ uni = true)) ∧
    ∀ v : Nat, v = 0 ∨ v = 1 → ∃ (s : State) (sid : Nat) (sh : Sheaf) (f : Flight) (d : SReg) (a : Acc), s.sheaf? sid = some sh ∧ sh.frozen = false ∧ sh.resuming = false ∧ sh.watch = [] ∧ sh.core < parkedBase ∧ sh.flights = [f] ∧
      ccDst f.instr = some d ∧ f.stage = .waiting ∧ s.entered sid f.id = false ∧ f.accs = [a] ∧ a.st = .queued ∧ a.pa < 2 ^ 51 ∧ s.dieWaits a.hd = false ∧ s.hostMod a.pa = false ∧
      Spec.Unowned s a.pa 8 ∧ natOfBytes (s.cohRead a.pa 8) = v ∧ s.waits = [] := by
  refine ⟨⟨devF2 true, 0, by decide +kernel⟩, ⟨devF2 true, 0xFFFFFFFF, recF true, by decide +kernel, by decide +kernel, by decide, by decide +kernel⟩,
    ⟨devF2 true, 4095, by decide +kernel, by decide, rfl⟩, ⟨devF2 true, 0xFFFFFFFFFFFFFFFF, by decide +kernel, by decide +kernel⟩, ?_,
    ⟨devF2 false, recF false, by decide +kernel, by decide +kernel⟩, ⟨devF2 false, 3, sh0, rfl, rfl⟩, ?_, ?_⟩
  · rintro (_ | _)
    · exact ⟨devF2 true, 63, by decide +kernel, by decide, by decide +kernel⟩
    · exact ⟨devH 63 qE, 63, by decide +kernel, by decide, by decide +kernel⟩
  · have key : ∀ w : Word, (w = 0x0280C205 ∨ w = 0xEBC00000) → seen ((devWd w { sh0 with lanes := sh0.lanes.put 7 { Lane.fresh 0x40001000 with age := 15 } }).look 0 0 0x40001000)
        (fun i => decide (i.cls = .uniform ↔ w.msb = true)) = true := by
      rintro w (rfl | rfl) <;> decide +kernel
    have main : ∀ w : Word, (w = 0x0280C205 ∨ w = 0xEBC00000) → ∃ (s : State) (sid lane : Nat) (sh : Sheaf) (i : Instr) (s1 : State), s.sheaf? sid = some sh ∧ sh.frozen = false ∧
        sh.live.getLsbD lane = true ∧ s.look sh.core sh.ctx (sh.lane lane).pc = (.instr i, s1) ∧ (sh.lane lane).age = 15 ∧ (i.cls = .uniform ↔ w.msb = true) := by
      intro w hw
      have ⟨i, s1, h1, h2⟩ := seenOk (key w hw)
      exact ⟨devWd w { sh0 with lanes := sh0.lanes.put 7 { Lane.fresh 0x40001000 with age := 15 } }, 3, 7, _, i, s1, rfl, rfl, by decide +kernel, h1, by decide +kernel, of_decide_eq_true h2⟩
    rintro (_ | _)
    · exact main 0x0280C205 (.inl rfl)
    · exact main 0xEBC00000 (.inr rfl)
  · rintro v (rfl | rfl)
    · exact ⟨devCcw 0, 3, _, _, .s 22, _, rfl, rfl, rfl, rfl, by decide, rfl, rfl, rfl, rfl, rfl, rfl, by decide, by decide +kernel, by decide +kernel, by unfold Spec.Unowned; decide +kernel, by decide +kernel, rfl⟩
    · exact ⟨devCcw 1, 3, _, _, .s 22, _, rfl, rfl, rfl, rfl, by decide, rfl, rfl, rfl, rfl, rfl, rfl, by decide, by decide +kernel, by decide +kernel, by unfold Spec.Unowned; decide +kernel, by decide +kernel, rfl⟩

/-! ### Witnesses: the machine as a whole -/

def gotWords (x : Fetched × State) (p : List Word → State → Bool) : Bool := match x with | (.words w, s) => p w s | _ => false
theorem gotOk {x : Fetched × State} {p : List Word → State → Bool} (h : gotWords x p = true) : ∃ w s1, x = (.words w, s1) ∧ p w s1 = true := by
  obtain ⟨_ | _ | _ | _, s⟩ := x
  · exact ⟨_, s, rfl, h⟩
  all_goals simp [gotWords] at h
def xlWhere (x : Xl × State) (p : Nat → Nat → Nat → Bool → State → Bool) : Bool := match x with | (.ok a b c d, s) => p a b c d s | _ => false
theorem xlWhereOk {x : Xl × State} {p : Nat → Nat → Nat → Bool → State → Bool} (h : xlWhere x p = true) : ∃ a b c d s, x = (.ok a b c d, s) ∧ p a b c d s = true := by
  obtain ⟨x, s⟩ := x
  cases x <;> first | exact ⟨_, _, _, _, s, rfl, h⟩ | simp [xlWhere] at h
def path0 (rep : Bool) : Planned := ⟨3, 0x80, 0x40001000, false, rep, none⟩
/-- The unit of the instruction that the words are has room. -/
noncomputable def unitFree (s1 : State) (p : Planned) (sh : Sheaf) (ws : List Word) : Bool :=
  match decode ws with
  | .ok i => !s1.unitFull (s1.seen p.sid sh i (laneSetOf sh.width (fun l => p.lanes.getLsbD l && !(sh.lane l).exited && (sh.lane l).pc == p.pc)) p.pc ws none) i
  | .illegal _ => true
theorem hyps_StepRunsTheDecoded :
    (∀ good : Bool, ∃ (s : State) (p : Planned) (r : List Planned) (sh : Sheaf) (ws : List Word) (s1 : State), s.rel.overtemp = false ∧ s.slot = p :: r ∧ s.sheaf? p.sid = some sh ∧
      sh.frozen = false ∧ sh.unfinished < 8 ∧ p.rep = false ∧ ({ s with slot := r } : State).fetch sh.core sh.ctx p.pc = (.words ws, s1) ∧ unitFree s1 p sh ws = true ∧
      laneSetOf sh.width (fun l => p.lanes.getLsbD l && !(sh.lane l).exited && (sh.lane l).pc == p.pc) ≠ 0 ∧
      (match decode ws with | .ok _ => true | .illegal _ => false) = good) ∧
    (∃ (s : State) (p : Planned) (r : List Planned) (sh : Sheaf) (e : Replay) (rest : List Replay) (i : Instr), s.rel.overtemp = false ∧ s.slot = p :: r ∧ s.sheaf? p.sid = some sh ∧
      sh.frozen = false ∧ p.rep = true ∧ sh.replay = e :: rest ∧ e.dead sh = false ∧ decode (e.words.take e.len) = .ok i ∧
      ({ s with slot := r } : State).unitFull (({ s with slot := r } : State).seen p.sid sh i e.e e.pc (e.words.take e.len) (some e)) i = false) ∧
    ∃ (s : State) (core ctx : Nat) (a : DWord) (pa pte hd : Nat) (ho : Bool) (s1 : State), s.translate (some core) ctx a .fetch false = (.ok pa pte hd ho, s1) ∧
      s1.unitWaits (pa, 4, pte, hd, ho) = false ∧ s1.poisoned pa 4 = false ∧ (s1.core core).icache.find? (pa / 4) = none := by
  refine ⟨?_, ⟨{ at_ { sh0 with replay := [⟨[0x71C2048A, 0x10316840, 0], 2, true, 255, 0x40001000, [], 0, 0⟩] } with slot := [path0 true] }, path0 true, [], _, _, [], _, rfl, rfl, rfl, rfl, rfl, rfl, by decide +kernel,
    (by decide +kernel : decode [0x71C2048A#32, 0x10316840#32] = .ok (.ffma .t (.v 8) (.v 9) (.v 10) (.v 11) .f32 .rz)), by decide +kernel⟩, ?_⟩
  · have key : ∀ w : Word, (w = 0x0280C205 ∨ w = 0x029E4205) → gotWords ((devWd w sh0).fetch 0 0 0x40001000)
        (fun l s1 => (match decode l with | .ok _ => true | .illegal _ => false) == decide (w = 0x0280C205) && unitFree s1 (path0 false) sh0 l) = true := by
      rintro w (rfl | rfl) <;> decide +kernel
    have main : ∀ w : Word, (w = 0x0280C205 ∨ w = 0x029E4205) → ∃ (s : State) (p : Planned) (r : List Planned) (sh : Sheaf) (ws : List Word) (s1 : State), s.rel.overtemp = false ∧
        s.slot = p :: r ∧ s.sheaf? p.sid = some sh ∧ sh.frozen = false ∧ sh.unfinished < 8 ∧ p.rep = false ∧ ({ s with slot := r } : State).fetch sh.core sh.ctx p.pc = (.words ws, s1) ∧
        unitFree s1 p sh ws = true ∧
        laneSetOf sh.width (fun l => p.lanes.getLsbD l && !(sh.lane l).exited && (sh.lane l).pc == p.pc) ≠ 0 ∧
        (match decode ws with | .ok _ => true | .illegal _ => false) = decide (w = 0x0280C205) := by
      intro w hw
      have ⟨l, s1, h1, h2⟩ := gotOk (key w hw)
      exact ⟨{ devWd w sh0 with slot := [path0 false] }, path0 false, [], sh0, l, s1, rfl, rfl, rfl, rfl, by decide +kernel, rfl, h1, ((Bool.and_eq_true _ _).mp h2).2, by decide +kernel,
        eq_of_beq ((Bool.and_eq_true _ _).mp h2).1⟩
    rintro (_ | _)
    · exact main 0x029E4205 (.inr rfl)
    · exact main 0x0280C205 (.inl rfl)
  · have ⟨pa, pte, hd, ho, s1, h, h2⟩ := xlWhereOk (x := (devWd 0x0280C205 sh0).translate (some 0) 0 0x40001000 .fetch false)
      (p := fun pa pte hd ho s1 => !s1.unitWaits (pa, 4, pte, hd, ho) && !s1.poisoned pa 4 && ((s1.core 0).icache.find? (pa / 4)).isNone) (by decide +kernel)
    simp only [Bool.and_eq_true, Bool.not_eq_true', Option.isNone_iff_eq_none] at h2
    exact ⟨devWd 0x0280C205 sh0, 0, 0, 0x40001000, pa, pte, hd, ho, s1, h, h2.1.1, h2.1.2, h2.2⟩
theorem hyps_MemoryStaysCanonical : ∃ s t : State, Memory.wf s.mem = true ∧ s.mem ≠ [] ∧ step s = .next t :=
  ⟨{ State.reset with mem := mem0, rel := { RelPage.reset with overtemp := true }, inputs := [.reset] }, _, by decide +kernel, by decide, rfl⟩
theorem hyps_DecodeOfEncode : (∃ i : Instr, i.wf = true ∧ encode i ≠ []) ∧ ∃ ws i, decode ws = .ok i :=
  ⟨⟨.iaddB32 (.p 2) (.v 3) (.v 4) (.v 5), by decide +kernel, by decide +kernel⟩, [0x0280C205], .iaddB32 (.p 2) (.v 3) (.v 4) (.v 5), by decide +kernel⟩

/-! ### Decoding: the words that the spec works out, and words put together field by field -/

/-- 02 Table 2.17, 04's worked code, 05 (MOVI, IADD). -/
theorem test_words_lane :
    decode [0x0280C205] = .ok (.iaddB32 (.p 2) (.v 3) (.v 4) (.v 5)) ∧ decode [0x03E00082] = .ok (.iaddB32 .t .latch (.v 1) (.v 2)) ∧
    decode [0x51FFFFFC] = .ok (.braB32 .t 0x3FFFFC) ∧ decode [0x5BC00000] = .ok (.mkcurB32 .t 0) ∧ decode [0x50400004] = .ok (.braB32 (.p 1) 4) ∧
    decode [0x73C04000, 0x00000014] = .ok (.movi .t (.v 1) 20) ∧ decode [0x5DC00000] = .ok (.joinB32 .t 0) := by decide +kernel
/-- Table 2.17, 07 (worked words of FDP2, CVT, CVTSR, DQUANT). -/
theorem test_words_float :
    decode [0x71C2048A, 0x10316840] = .ok (.ffma .t (.v 8) (.v 9) (.v 10) (.v 11) .f32 .rz) ∧
    decode [0x71C3470F, 0x10C1AA00] = .ok (.fdp2 .t (.v 13) (.v 14) (.v 15) (.v 13) .bf16 .rn) ∧
    decode [0x71C18104, 0x10D00B44] = .ok (.cvt .t (.v 6) (.v 2) (.v 4) .e4m3 .f32 .ru) ∧
    decode [0x71C18104, 0x10E10B40] = .ok (.cvtsr .t (.v 6) (.v 2) (.v 4) (.v 8) .e4m3 .f32) ∧
    decode [0x71C28600, 0x10D00850] = .ok (.cvt .t (.v 10) (.v 12) (.v 0) .f32 .bf16 .rn) ∧
    decode [0x77C00864, 0x110CAD00, 0x00000002] = .ok (.dquant .t 16 (.s 4) (.s 5) false false true) := by decide +kernel
/-- 08 after Table 8.5, Table 9.4. -/
theorem test_words_chaff_bins :
    decode [0x71C10080, 0x30200A40] = .ok (.rcvt .t (.v 4) (.v 1) (.v 0) .bf16 .f32 .rn) ∧
    decode [0x71C04200, 0x30700A40] = .ok (.uncvt .t (.v 1) (.v 4) (.v 0) .bf16 .f32) ∧ decode [0x71C00280, 0x30A00000] = .ok (.chpush .t (.v 5)) ∧
    decode [0x75C0C200, 0x00A00010] = .ok (.lda .t (.v 3) (.v 4) .b32 0x10) ∧ decode [0x75C1F100, 0x05900006] = .ok (.ldcSigned .t (.v 7) (.s 2) .b16 6) ∧
    decode [0x75C00205, 0x09200040] = .ok (.stw .t (.v 4) (.v 5) .b32 0x40) ∧
    decode [0x75C18205, 0x20A00000] = .ok (.aatom .t .add (.v 6) (.v 4) (.v 5) .b32 .sh .plain 0) ∧ decode [0x71C03265, 0x40000000] = .ok (.fbinit .t (.s 4) (.s 5)) ∧
    decode [0x71DE3278, 0x40100000] = .ok (.fbarr .t .z (.s 4) .z) ∧ decode [0x71C03205, 0x40200000] = .ok (.fbwait .t (.s 4) (.v 5)) ∧
    decode [0x71C0B203, 0x40300000] = .ok (.fbtest .t 2 (.s 4) (.v 3)) := by decide +kernel
/-- Tables 12.5, 13.2, 14 (FENCE). -/
theorem test_words_memory :
    decode [0x75C18200, 0x00268040] = .ok (.ldg .t (.v 6) (.v 4) .b32 .di true 0x40) ∧ decode [0xF5C03065, 0x08200008] = .ok (.stgU .t (.s 0) (.s 5) .b32 .sh false 8) ∧
    decode [0x75C0040A, 0x0C080000] = .ok (.invr .t (.v 8) (.v 10) .pk 0) ∧ decode [0x75C00000, 0x100A0000] = .ok (.inva .t .sy) ∧
    decode [0x75C03266, 0x14000000] = .ok (.phbeg .t (.s 4) (.s 6) 0) ∧ decode [0x75C03266, 0x18000000] = .ok (.phend .t (.s 4) (.s 6) 0) ∧
    decode [0x75C0040A, 0x1C000080] = .ok (.pfl1 .t (.v 8) (.v 10) 0x80) ∧ decode [0x75C18205, 0x20200000] = .ok (.atom .t .add (.v 6) (.v 4) (.v 5) .b32 .sh .plain (.off 0)) ∧
    decode [0x75C20210, 0x54378010] = .ok (.cas .t (.v 8) (.v 4) (.v 16) .b64 .di .ar (.off 0x10)) ∧
    decode [0x75C00205, 0x60290000] = .ok (.red .t .add (.v 4) (.v 5) .b32 .pk true (.off 0)) ∧
    decode [0x75C1F003, 0x58268100] = .ok (.waita .t (.v 7) (.s 0) (.v 3) .b32 .di true (.off 0x100)) ∧
    decode [0x75C27008, 0x5C200100] = .ok (.wake .t (.v 9) (.s 0) (.v 8) (.off 0x100)) ∧ decode [0x75C00000, 0x94068000] = .ok (.fence .t .acq .di) ∧
    decode [0x75C00000, 0x94098000] = .ok (.fence .t .ar .pk) ∧ decode [0x74400000, 0x940B0000] = .ok (.fence (.p 1) .rel .sy) := by decide +kernel
/-- Tables 15.5, 17.11, 19.7; 18 (TKWAIT, TKPASS); 20 (COLL). -/
theorem test_words_uniform :
    decode [0x75C18200, 0x02206801] = .ok (.fld .t (.v 6) (.v 4) 8 true) ∧ decode [0x75C00207, 0x0A206800] = .ok (.fst .t (.v 4) (.v 7) 8) ∧
    decode [0xF7C0346A, 0x120D8000, 0] = .ok (.rgnb .t (.s 8) (.s 10) (.s 12) 0) ∧ decode [0xF1C03478, 0x121D8000] = .ok (.rfit .t (.s 8) .z (.s 12)) ∧
    decode [0xF1DBB478, 0x12200000] = .ok (.rgnq .t (.s 14) (.s 8) .z) ∧ decode [0xF1D9B165, 0x20800000] = .ok (.launch .t (.s 6) (.s 2) (.s 5)) ∧
    decode [0xE9C00000] = .ok (.barB32 .t) ∧ decode [0xEFD93100] = .ok (.ccwaitB32 .t (.s 4) (.s 2)) ∧ decode [0xEBC00000] = .ok (.tkwaitB32 .t) ∧
    decode [0xEDC00000] = .ok (.tkpassB32 .t) ∧ decode [0xE5C03180] = .ok (.trapB32 .t (.s 3)) ∧ decode [0xE7C03C00] = .ok (.brkB32 .t .z) ∧
    decode [0xF1D9B265, 0x20400000] = .ok (.twrd .t (.s 6) (.s 4) (.s 5)) ∧ decode [0xF1C03265, 0x205CC000] = .ok (.twwr .t (.s 4) (.s 5) (.s 6)) ∧
    decode [0xF1C00000, 0x20600000] = .ok (.tres .t) ∧ decode [0xF1C00000, 0x20700000] = .ok (.tkill .t) ∧
    decode [0xF7C0F266, 0x130D0000, 0x00020205] = .ok (.coll .t 3 (.s 4) (.s 6) (.s 8) .f32 .add .ar 5) := by decide +kernel
/-- Two words of fields: SET, OP, G, WS, D, A, B; XOP, C, and a modifier in the MA layout: TYPE, RM, flags. -/
def x64 (set : BitVec 1) (g : BitVec 3) (ws : BitVec 1) (d a b : BitVec 7) (xop : BitVec 12) (c : BitVec 7) (ty : BitVec 5) (rm : BitVec 2) (fl : BitVec 6) : List Word :=
  [set ++ 0x38#6 ++ g ++ ws ++ d ++ a ++ b, xop ++ c ++ ty ++ rm ++ fl]
/-- The same with OP 0x3B and a third word. -/
def x96 (set : BitVec 1) (g : BitVec 3) (ws : BitVec 1) (d a b : BitVec 7) (xop : BitVec 12) (c : BitVec 7) (ty : BitVec 5) (fl : BitVec 6) (w : Word) : List Word :=
  [set ++ 0x3B#6 ++ g ++ ws ++ d ++ a ++ b, xop ++ c ++ ty ++ 0#2 ++ fl, w]
/-- Tables 2.11, 4.1, 4.2, 5.1 to 5.3, 7.1: every kind of operand and flag of the lane set. -/
theorem test_fields_lane :
    decode (x64 0 7 0 8 0x60 7 0x007 0 5 0 2) = .ok (.leaX64 .t (.v 8) (.s 0) (.v 7) .z32 2) ∧
    decode (x64 0 6 1 0 0x78 0x79 0x00E 0x77 4 0 3) = .ok (.shf (.p 6) .latch .z .li (.s 23) .s32 true true) ∧
    decode (x96 0 7 0 1 2 3 0x014 4 4 0 0xCA) = .ok (.tern .t (.v 1) (.v 2) (.v 3) (.v 4) .s32 0xCA) ∧
    decode (x96 0 7 0 1 2 0 0x018 0 5 0 0x1803) = .ok (.bfx .t (.v 1) (.v 2) .z32 3 24) ∧
    decode (x96 0 7 0 1 2 3 0x019 0 5 0 0x2000) = .ok (.bfi .t (.v 1) (.v 2) (.v 3) .z32 0 32) ∧
    decode (x64 0 7 0 6 1 2 0x01A 7 4 0 0x12) = .ok (.icmp .t 6 (.v 1) (.v 2) .s32 .lt (.or .t)) ∧
    decode (x64 0 7 0 1 2 3 0x01B 5 5 0 1) = .ok (.sel .t (.v 1) (.v 2) (.v 3) (.p 5) .z32 true) ∧
    decode (x64 0 7 1 0 0 0 0x01C 0 0 0 6) = .ok (.plog .t (.pack .latch)) ∧ decode (x64 0 7 0 0 0x7F 0 0x01C 0 0 0 7) = .ok (.plog .t (.unpack (.b 3))) ∧
    decode (x64 0 7 0 1 2 3 0x01E 4 1 0 1) = .ok (.idp4 .t (.v 1) (.v 2) (.v 3) (.v 4) .z8 true) ∧
    decode (x64 0 7 0 2 4 3 0x01F 6 7 0 0xB) = .ok (.xch .t (.v 2) (.v 4) (.v 3) .z64 .dn (some 6)) ∧
    decode (x64 0 7 0 8 7 0 0x020 0 0 0 2) = .ok (.vote .t (.bal (.v 8)) .t false) ∧ decode (x64 0 7 0 8 5 0 0x021 0 4 0 1) = .ok (.match .t (.v 8) (.v 5) .s32 true) ∧
    decode (x64 0 7 0 1 2 0 0x022 0 4 0 5) = .ok (.redux .t (.v 1) (.v 2) .s32 .xor) ∧
    decode (x64 0 7 0 3 1 2 0x106 4 9 0 0x29) = .ok (.fcmp .t 3 (.v 1) (.v 2) .f16 .ne (.and (.p 4)) true) ∧
    decode (x64 0 7 0 0 0x62 0 0x200 0 0 0 0) = .ok (.brx .t (.s 2)) ∧ decode (x64 0 7 0 2 11 0 0x207 0 0 0 0) = .ok (.mktos .t (.v 2) 11) ∧
    decode (x64 0 7 0 11 1 2 0x20C 0 0 0 2) = .ok (.mklog .t 11 (.andn 1 2)) ∧
    decode (x64 0 7 0 0 32 3 0x500 0 13 0 1) = .ok (.mma .t 32 (.v 3) .mxf8 true false false) ∧
    decode [0#1 ++ 0x39#6 ++ 7#3 ++ 0#1 ++ 2#7 ++ 0#7 ++ 0x0D#7, 0xFFFFFFFE] = .ok (.call .t (.v 2) 0xFFFFFFFE) ∧
    decode [0#1 ++ 0x39#6 ++ 7#3 ++ 0#1 ++ 2#7 ++ 3#7 ++ 0x08#7, 31] = .ok (.shrI64 .t (.v 2) (.v 3) .s32 31) := by decide +kernel
/-- Tables 2.13 to 2.15, 6.1, 10.2, 10.3, 11.2: the uniform set, its copies and its thresher instructions. -/
theorem test_fields_uniform :
    decode (x64 1 7 0 0x66 0x60 0x62 0x005 0 4 0 7) = .ok (.sleaX64 .t (.s 6) (.s 0) (.s 2) .s32 7) ∧
    decode (x64 1 6 0 0x60 0x61 0x78 0x00E 7 5 0 1) = .ok (.ssel (.p 6) (.s 0) (.s 1) .z .t .z32 true) ∧
    decode (x64 1 7 0 0x60 5 0x61 0x011 0 4 0 0) = .ok (.lanerdX64 .t (.s 0) (.v 5) (.s 1) .s32) ∧
    decode [1#1 ++ 0x12#6 ++ 7#3 ++ 0#1 ++ 95#7 ++ 0x60#7 ++ 0x61#7] = .ok (.lanewrB32 .t (.v 95) (.s 0) (.s 1)) ∧
    decode [1#1 ++ 0x30#6 ++ 7#3 ++ 0#1 ++ 0x62#7 ++ 0x10#7 ++ 0#7] = .ok (.srdB32 .t (.s 2) .cycles) ∧
    decode (x64 1 7 0 0x21 0x62 0 0x201 0 0 0 0) = .ok (.swrX64 .t .prio (.s 2)) ∧
    decode (x96 1 7 0 63 0x60 0x62 0x100 0x64 0 0 0xD) = .ok (.cpy .t 63 (.s 0) (.s 2) (.s 4) .abin .cbin) ∧
    decode (x96 1 7 0 3 0x60 0x62 0x101 0x64 0 0 0x20) = .ok (.cpy2 .t 3 (.s 0) (.s 2) 4 .glob .glob .t4) ∧
    decode (x96 1 7 0 3 0x60 0x62 0x102 0x64 0 0 3) = .ok (.cpyh .t 3 (.s 0) (.s 2) (.s 4) true true) ∧
    decode (x96 1 7 0 0 0x60 0x62 0x103 0x64 0 0 1) = .ok (.pfl2 .t (.cc (.s 2)) (.s 0) (.s 4)) ∧
    decode (x64 1 7 0 0x62 0x60 0 0x104 0 0 0 1) = .ok (.pwaitX64 .t (.s 2) (.s 0) true) ∧ decode (x64 1 7 0 0x62 63 0 0x107 0 0 0 0) = .ok (.pstat .t (.s 2) 63) ∧
    decode (x64 1 7 0 0 0x60 0x61 0x113 0x62 13 0 7) = .ok (.stld .t (.s 0) (.s 1) (some (.s 2)) .mxf8 true true true false) ∧
    decode (x64 1 7 0 0 0x60 0x61 0x114 0 10 0 3) = .ok (.drain .t (.s 0) (.s 1) .bf16 true true) := by decide +kernel
/-- What R32 to R47 exclude: unassigned and reserved codes, fields outside their kinds, the wrong form, nonzero unused bits. -/
theorem test_illegal_words : ∀ ws ∈ ([[0], [0x029E4205], [0x79C00000], [0#1 ++ 0x27#6 ++ 7#3 ++ 0#22], [0#1 ++ 1#6 ++ 7#3 ++ 1#1 ++ 1#7 ++ 2#7 ++ 3#7],
    [1#1 ++ 1#6 ++ 7#3 ++ 1#1 ++ 0#7 ++ 0x60#7 ++ 0x60#7], [0#1 ++ 1#6 ++ 7#3 ++ 0#1 ++ 1#7 ++ 122#7 ++ 3#7], [1#1 ++ 1#6 ++ 7#3 ++ 0#1 ++ 0x60#7 ++ 3#7 ++ 0x60#7],
    [0#1 ++ 0x2D#6 ++ 7#3 ++ 0#1 ++ 12#7 ++ 0#14], [0#1 ++ 0x2C#6 ++ 7#3 ++ 0#1 ++ 1#7 ++ 0#14], [1#1 ++ 0x30#6 ++ 7#3 ++ 0#1 ++ 0x60#7 ++ 7#7 ++ 0#7],
    [1#1 ++ 0x31#6 ++ 7#3 ++ 0#1 ++ 0#7 ++ 0x60#7 ++ 0#7],
    x64 0 7 0 1 2 3 0x000 0 8 0 0, x64 0 7 0 1 2 3 0x000 0 4 1 0, x64 0 7 0 1 2 3 0x000 0 4 0 2, x64 0 7 0 1 2 3 0x000 1 4 0 0, x64 0 7 0 1 2 3 0x014 4 4 0 0,
    x96 0 7 0 1 2 3 0x000 0 4 0 0, x64 0 7 0 1 2 4 0x006 0 4 0 0, x64 0 7 0 2 2 95 0x006 0 4 0 0, x64 0 7 0 2 0x79 4 0x006 0 4 0 0, x64 0 7 0 7 1 2 0x01A 0 4 0 2,
    x64 0 7 0 6 1 2 0x01A 0 4 0 6, x96 0 7 0 1 2 0 0x018 0 5 0 0x2001, x96 0 7 0 1 2 3 0x014 4 4 0 0x1CA, x64 0 7 0 11 1 2 0x20C 0 0 0 7,
    x64 1 7 0 0x60 0x7C 0x61 0x011 0 4 0 0, x96 1 7 0 3 0x60 0x62 0x101 0x65 0 0 0, x96 1 7 0 3 0x60 0x62 0x101 0x64 0 0 0x30, x96 1 7 0 64 0x60 0x62 0x100 0x64 0 0 0,
    [0#1 ++ 0x39#6 ++ 7#3 ++ 0#1 ++ 2#7 ++ 3#7 ++ 0x08#7, 32], [0#1 ++ 0x39#6 ++ 7#3 ++ 0#1 ++ 2#7 ++ 3#7 ++ 0x0E#7, 0],
    [0x75C18200, 0x00258040], [0x75C18200, 0x01A68040], [0x75C18200, 0x00564040], [0x75C18200, 0x02206802], [0x75C18200, 0x0220C000], [0x75C00205, 0x84200000], [0x75C18206, 0x50300000], [0x75C00000, 0x94060000]] : List (List Word)),
    (match decode ws with | .illegal _ => true | .ok _ => false) = true := by decide +kernel

/-! ### WellFormed: for each kind of check a term that it refuses -/

/-- Groups that are not aligned, that run past the file, or that name li or a latch (02 R33). -/
theorem test_wf_groups : ∀ i ∈ ([.iadd64B32 .t (.v 1) (.v 2) (.v 4), .iadd64B32 .t (.v 2) (.v 3) (.v 4), .iadd64B32 .t (.v 2) (.v 2) .li, .iadd64X64 .t (.v 2) (.b 0) (.v 4) .s32,
    .imadw .t (.v 3) (.v 0) (.v 0) (.v 4) .s32, .imadw .t (.v 2) (.v 0) (.v 0) (.s 23) .s32, .leaX64 .t (.v 2) (.v 5) (.v 0) .s32 0, .leaI64 .t (.v 95) (.v 4) 0,
    .retB32 .t (.s 3), .retX64 .t .li, .brx .t (.v 1), .callx .t (.v 1) (.v 2), .callx .t (.v 2) (.v 1), .call .t (.v 7) 0, .mktos .t (.v 1) 0, .stomk .t 0 (.b 1),
    .xch .t (.v 1) (.v 2) (.v 0) .z64 .idx none, .xch .t .latch (.v 2) (.v 0) .s64 .idx none, .vote .t (.bal (.v 1)) .t false, .match .t (.v 1) (.v 2) .s32 false,
    .match .t (.v 2) (.v 3) .s64 false, .ldg .t (.v 2) (.v 4) .b128 .sh false 0, .ldg .t (.v 4) (.v 5) .b32 .sh false 0, .ldgU .t false (.s 22) (.s 0) .b128 .sh false 0,
    .stg .t (.v 4) (.v 6) .b128 .sh false 0, .stgU .t (.s 1) (.s 2) .b32 .sh false 0, .lda .t (.v 1) (.v 0) .b64 0, .sta .t (.v 0) (.v 1) .b64 0, .ldw .t (.v 94) (.v 0) .b128 0,
    .stw .t (.v 0) .li .b64 0, .ldc .t (.v 2) (.v 0) .b128 0, .stc .t (.v 0) (.b 0) .b128 0, .aatom .t .add (.v 1) (.v 0) (.v 2) .b64 .sh .plain 0, .invr .t (.v 1) (.v 0) .sh 0,
    .phbeg .t (.v 1) (.v 0) 0, .phend .t (.v 1) (.v 0) 0, .pfl1 .t (.v 1) (.v 0) 0, .atom .t .add (.v 2) (.v 4) (.v 7) .b64 .sh .plain (.off 0),
    .cas .t (.v 4) (.v 2) (.v 12) .b128 .sh .plain (.off 0), .red .t .add (.v 3) (.v 4) .b32 .sh false (.off 0), .waita .t (.v 1) (.v 2) (.v 3) .b64 .sh false (.off 0),
    .wake .t (.v 1) (.v 3) (.v 3) (.off 0), .fld .t (.v 1) (.v 3) 0 false, .fst .t (.v 3) (.v 4) 0, .sadd64B32 .t (.s 1) (.s 2) (.s 4), .sadd64X64 .t (.s 2) (.s 2) (.s 5) .s32,
    .sleaX64 .t (.s 2) (.s 3) (.s 0) .s32 0, .sleaI64 .t (.s 3) (.s 2) 0, .pwaitAnyB32 .t (.s 1) (.s 2), .pwaitAllB32 .t (.s 2) (.s 1), .pwaitX64 .t (.s 1) (.s 2) true,
    .pfindB32 .t (.s 1) (.s 3), .pfindX64 .t (.s 1) (.s 23), .pclrB32 .t (.s 1), .pclrX64 .t (.s 1), .pstat .t (.s 1) 0, .srdB32 .t (.s 1) .cycles, .srdX64 .t (.s 23) .pennants,
    .ccwaitB32 .t (.s 1) (.s 2), .ccwaitX64 .t (.s 2) (.s 1), .cpy .t 0 (.s 1) (.s 2) (.s 4) .glob .glob, .cpy2 .t 0 (.s 0) (.s 3) 4 .glob .glob .none,
    .cpyh .t 0 (.s 0) (.s 3) (.s 4) true true, .pfl2 .t (.tag 0) (.s 1) (.s 4), .pfl2 .t (.cc (.s 3)) (.s 0) (.s 4), .rgnb .t (.s 8) (.s 9) (.s 12) 0, .rgnb .t (.s 8) (.s 10) (.s 13) 0,
    .rfit .t (.s 8) (.s 9) .z, .rfit .t (.s 8) .z (.s 9), .rgnq .t (.s 9) (.s 8) .z, .launch .t (.s 6) (.s 3) (.s 5), .coll .t 0 (.s 1) (.s 2) (.s 4) .f32 .add .red 0,
    .coll .t 0 (.s 2) (.s 1) (.s 4) .f32 .add .red 0, .cvt .t (.v 7) (.v 2) (.v 0) .s64 .f32 .rn, .cvt .t (.v 6) (.v 1) (.v 4) .e4m3 .f32 .rn] : List Instr),
    i.wf = false := by decide +kernel
/-- Types and sizes that the encoding tables do not admit. -/
theorem test_wf_types : ∀ i ∈ ([.iaddX64 .t (.v 0) (.v 0) (.v 0) .f32 false, .isubX64 .t (.v 0) (.v 0) (.v 0) .s8 false, .imulX64 .t (.v 0) (.v 0) (.v 0) .s64, .imad .t (.v 0) (.v 0) (.v 0) (.v 0) .f16,
    .shlX64 .t (.v 0) (.v 0) (.v 0) .z64 false, .shf .t (.v 0) (.v 0) (.v 0) (.v 0) .s16 false false, .tern .t (.v 0) (.v 0) (.v 0) (.v 0) .z8 0, .popcX64 .t (.v 0) (.v 0) .s4,
    .icmp .t 0 (.v 0) (.v 0) .f32 .eq .none, .sel .t (.v 0) (.v 0) (.v 0) .t .z64 false, .movX64 .t (.v 0) (.v 0) .s64, .idp4 .t (.v 0) (.v 0) (.v 0) (.v 0) .s32 false,
    .xch .t (.v 0) (.v 0) (.v 0) .f32 .idx none, .match .t (.v 0) (.v 0) .s8 false, .redux .t (.v 0) (.v 0) .s64 .add, .shrI64 .t (.v 0) (.v 0) .s64 0,
    .faddX64 .t (.v 0) (.v 0) (.v 0) .s32 .rn, .ffma .t (.v 0) (.v 0) (.v 0) (.v 0) .e4m3 .rn, .fcmp .t 0 (.v 0) (.v 0) .s32 .eq .none false, .frcpX64 .t (.v 0) (.v 0) .e5m2,
    .fdp2 .t (.v 0) (.v 0) (.v 0) (.v 0) .f32 .rn, .fclassX64 .t (.v 0) (.v 0) .s8, .cvt .t (.v 0) (.v 0) (.v 0) .f32 .f32 .rn, .cvt .t (.v 0) (.v 0) (.v 0) .mxf8 .f32 .rn,
    .cvt .t (.v 0) (.v 0) (.v 8) .s4 .s64 .rn, .cvt .t (.v 0) (.v 0) (.v 0) .s64 .s4 .rn, .cvtsr .t (.v 0) (.v 0) (.v 4) (.v 0) .s8 .f32, .cvtsr .t (.v 0) (.v 0) (.v 0) (.v 0) .bf16 .f16,
    .rmulX64 .t (.v 0) (.v 0) (.v 0) .z32 .rn, .rcvt .t (.v 0) (.v 0) (.v 0) .f32 .f16 .rn, .rshr .t (.v 0) (.v 0) (.v 0) .f32, .unmulX64 .t (.v 0) (.v 0) (.v 0) .s64,
    .uncvt .t (.v 0) (.v 0) (.v 0) .bf16 .f16, .unshr .t (.v 0) (.v 0) (.v 0) .s8, .mma .t 0 .z .f32 false false false, .dmma .t 0 (.s 0) (.s 0) .s8 false,
    .ldgSigned .t (.v 0) (.v 0) .b32 .sh false 0, .ldgU .t true (.s 0) (.s 0) .b32 .sh false 0, .ldaSigned .t (.v 0) (.v 0) .b32 0, .ldwSigned .t (.v 0) (.v 0) .b64 0,
    .ldcSigned .t (.v 0) (.v 0) .b128 0, .aatom .t .add (.v 0) (.v 0) (.v 0) .b8 .sh .plain 0, .atom .t .addF32 (.v 0) (.v 0) (.v 0) .b64 .sh .plain (.off 0),
    .cas .t (.v 0) (.v 0) (.v 0) .b16 .sh .plain (.off 0), .red .t .or (.v 0) (.v 0) .b128 .sh false (.off 0), .waita .t (.v 0) (.v 0) (.v 0) .b128 .sh false (.off 0),
    .saddX64 .t (.s 0) (.s 0) (.s 0) .f32 false, .smad .t (.s 0) (.s 0) (.s 0) (.s 0) .s64, .scmp .t 0 (.s 0) (.s 0) .s8 .eq .none, .ssel .t (.s 0) (.s 0) (.s 0) .t .z64 false,
    .smovX64 .t (.s 0) (.s 0) .f32, .lanerdX64 .t (.s 0) (.v 0) (.s 0) .s64, .lanewrX64 .t (.v 0) (.s 0) (.s 0) .f32, .sshrI64 .t (.s 0) (.s 0) .z64 0,
    .stld .t (.s 0) (.s 0) none .f32 false false false false, .drain .t (.s 0) (.s 0) .f16 false false, .coll .t 0 (.s 0) (.s 0) (.s 0) .f16 .add .red 0] : List Instr),
    i.wf = false := by decide +kernel
/-- Destinations of the wrong kind, and fields that other fields exclude. -/
theorem test_wf_fields : ∀ i ∈ ([.iadd64B32 .t (.s 2) (.v 2) (.v 4), .call .t (.s 2) 0, .mktos .t (.s 0) 0, .ldg .t (.s 0) (.v 4) .b32 .sh false 0, .lanewrB32 .t (.s 0) (.s 1) (.s 2),
    .fbarr .t (.s 0) (.v 0) (.v 0), .lanerdB32 .t (.s 0) (.b 0) (.s 1), .bfx .t (.v 0) (.v 0) .s32 1 32, .bfi .t (.v 0) (.v 0) (.v 0) .s32 31 2, .fcmp .t 0 (.v 0) (.v 0) .f32 .eq .none true,
    .rmulX64 .t (.v 0) (.v 0) (.v 0) .s32 .ru, .rcvt .t (.v 0) (.v 0) (.v 1) .bf16 .f32 .rn, .cvt .t (.v 0) (.v 0) (.v 1) .f32 .bf16 .rn, .dquant .t 8 (.s 0) (.s 0) false false false,
    .dquant .t 16 .z (.s 0) false false false, .dquant .t 16 (.s 0) .z false false false, .mma .t 16 .z .bf16 false false false, .mma .t 0 .z .f16 false false true, .mma .t 0 (.v 1) .e4m3 false false false,
    .dmma .t 8 (.s 0) (.s 0) .e4m3 false, .ldg .t (.v 0) (.v 4) .b32 .di false 0, .stg .t (.v 4) (.v 0) .b32 .di false 0, .red .t .exch (.v 0) (.v 0) .b32 .sh false (.off 0),
    .fence .t .plain .sh, .swrB32 .t .sheaf (.s 0), .swrX64 .t .cycles (.s 0), .cpy2 .t 0 (.s 0) (.s 2) 5 .glob .glob .none, .stld .t (.s 0) (.s 0) none .mxf8 false false false false,
    .stld .t (.s 0) (.s 0) (some (.s 0)) .bf16 false false false false, .stld .t (.s 0) (.s 0) none .s8 false false true false, .stld .t (.s 0) (.s 0) none .f16 false false false true,
    .coll .t 0 (.s 0) (.s 0) (.s 0) .f32 .min .bc 0] : List Instr),
    i.wf = false := by decide +kernel

/-! ### Values that the spec works out, in one step -/

/-- The device's sheaf with these values in v0 to v7 of lane 0. -/
def shV (v : List Word) : Sheaf := { sh0 with regs := v.zipIdx.foldl (fun m e => m.put (64 * e.2) e.1) [] }
/-- Register n of lane 0 after one instruction. -/
noncomputable def after (i : Instr) (sh : Sheaf) (n : Nat) : Option Word :=
  match exec i (at_ sh) with
  | .next t => (t.sheaf? 3).map (fun u => u.vreg n 0)
  | _ => none
/-- 05 R92, R95, R100: the worked values. -/
theorem test_iadd_wraps : after (.iaddB32 .t (.v 4) (.v 0) (.v 1)) (shV [0x7FFFFFFF, 1]) 4 = some 0x80000000 ∧
    after (.iaddX64 .t (.v 4) (.v 0) (.v 1) .s32 true) (shV [0x7FFFFFFF, 1]) 4 = some 0x7FFFFFFF := by decide +kernel
theorem test_imulh : after (.imulhS32B32 .t (.v 4) (.v 0) (.v 1)) (shV [0xFFFFFFFF, 2]) 4 = some 0xFFFFFFFF ∧
    after (.imulhZ32B32 .t (.v 4) (.v 0) (.v 1)) (shV [0xFFFFFFFF, 2]) 4 = some 1 := by decide +kernel
theorem test_bit_fields : after (.bfx .t (.v 4) (.v 0) .s32 8 4) (shV [0xA00]) 4 = some 0xFFFFFFFA ∧
    after (.bfi .t (.v 4) (.v 0) (.v 1) .s32 28 4) (shV [0xF, 0x12345678]) 4 = some 0xF2345678 := by decide +kernel
theorem test_idp4 : after (.idp4 .t (.v 4) (.v 0) (.v 0) .z .s8 false) (shV [0x80808080]) 4 = some 0x10000 := by decide +kernel
theorem test_tern_majority : after (.tern .t (.v 4) (.v 0) (.v 1) (.v 2) .s32 0xE8) (shV [0xF0F0, 0xFF00, 0xCCCC]) 4 = some 0xFCC0 := by decide +kernel
/-- 07: the worked values of FDP2, FMIN, FCLASS and Table 7.5. -/
theorem test_fdp2 : after (.fdp2 .t (.v 4) (.v 0) (.v 0) (.v 1) .bf16 .rn) (shV [0x39803F80, 0x33800000]) 4 = some 0x3F800001 := by decide +kernel
theorem test_fmin_zeros : after (.fminF32B32 .t (.v 4) (.v 0) (.v 1)) (shV [0, 0x80000000]) 4 = some 0x80000000 := by decide +kernel
theorem test_fclass : after (.fclassX64 .t (.v 4) (.v 0) .bf16) (shV [0x7FC00001]) 4 = some 0x01000020 := by decide +kernel
theorem test_cvt_e4m3 : after (.cvt .t (.v 6) (.v 2) (.v 4) .e4m3 .f32 .rn) (shV [0, 0, 0x3F800000, 0x43960000, 0x447A0000, 0x7FC00000]) 6 = some 0x7F7E7938 ∧
    after (.cvt .t (.v 6) (.v 2) (.v 4) .e4m3 .f32 .ru) (shV [0, 0, 0x3F800000, 0x43960000, 0x447A0000, 0x7FC00000]) 6 = some 0x7F7E7A38 := by decide +kernel
theorem test_cvtsr : after (.cvtsr .t (.v 6) (.v 2) (.v 4) (.v 8) .e4m3 .f32) (shV [0, 0, 0x3F800000, 0x43960000, 0x447A0000, 0x7FC00000, 0, 0, 0x5FFF0000]) 6 = some 0x7F7E7A38 ∧
    after (.cvtsr .t (.v 6) (.v 2) (.v 4) (.v 8) .e4m3 .f32) (shV [0, 0, 0x3F800000, 0x43960000, 0x447A0000, 0x7FC00000, 0, 0, 0x60000000]) 6 = some 0x7F7E7938 := by decide +kernel
theorem test_cvt_s8 : after (.cvt .t (.v 6) (.v 2) (.v 4) .s8 .f32 .rn) (shV [0, 0, 0x40200000, 0xC3480000, 0xBECCCCCD, 0x7FC00000]) 6 = some 0x00008002 := by decide +kernel
/-- 08 R148: RSHR of −11 by 2 pushes what UNSHR takes back. -/
theorem test_rshr : (match exec (.rshr .t (.v 4) (.v 0) (.v 1) .s32) (at_ (shV [0xFFFFFFF5, 2])) with
    | .next t => match exec (.unshr .t (.v 5) (.v 4) (.v 1) .s32) { t with cur := some { cur0 with pc := 0x40001008, lanes := 1 } } with
      | .next u => (t.sheaf? 3).map (fun x => (x.vreg 4 0, (x.lane 0).chip.map (·.payload))) == some (0xFFFFFFFD, [1]) &&
          (u.sheaf? 3).map (fun x => (x.vreg 5 0, (x.lane 0).depth)) == some (0xFFFFFFF5, 0)
      | _ => false
    | _ => false) = true := by decide +kernel
end Sys2Proof.Tests
end

section
/-! ## The instructions' words (spec/02_encoding.md) -/

namespace Sys2Proof

/-! ### The fields of an instruction's words are within their widths -/

/-- Each field within the width that Tables 2.2, 2.5 and 2.6 give it, and no second or third word where the form that OP
names has none (Table 2.1). -/
structure Raw.Fits (r : Raw) : Prop where
  set : r.set < 2
  op : r.op < 0x3c
  g : r.g < 8
  ws : r.ws < 2
  d : r.d < 128
  a : r.a < 128
  b : r.b < 128
  w2 : r.w2 < 2 ^ 32
  w3 : r.w3 < 2 ^ 32
  one : r.op < 0x38 → r.w2 = 0
  two : r.op < 0x3b → r.w3 = 0

section
variable {set op g ws d a b : Nat} (hset : set < 2) (hg : g < 8) (hws : ws < 2) (hd : d < 128) (ha : a < 128) (hb : b < 128)
include hset hg

theorem Raw.b32Low_fits {low : Nat} (hop : op < 0x38) : (Raw.b32Low set op g low).Fits :=
  ⟨hset, Nat.lt_trans hop (by decide), hg, Nat.mod_lt _ (by decide), Nat.mod_lt _ (by decide), Nat.mod_lt _ (by decide),
    Nat.mod_lt _ (by decide), Nat.two_pow_pos 32, Nat.two_pow_pos 32, fun _ => rfl, fun _ => rfl⟩

include hd ha hb

theorem Raw.m64_fits {mop space size scope order off : Nat} (hmop : mop < 64) (hspace : space < 8) (hsize : size < 8)
    (hscope : scope < 8) (horder : order < 4) (hoff : off < 32768) :
    (Raw.m64 set g d a b mop space size scope order off).Fits :=
  ⟨hset, show 0x3a < 0x3c by decide, hg, Nat.two_pos, hd, ha, hb, by simp only [Raw.m64]; omega, Nat.two_pow_pos 32,
    fun h => absurd h (show ¬ 0x3a < 0x38 by decide), fun _ => rfl⟩

include hws

theorem Raw.b32_fits (hop : op < 0x38) : (Raw.b32 set op g ws d a b).Fits :=
  ⟨hset, Nat.lt_trans hop (by decide), hg, hws, hd, ha, hb, Nat.two_pow_pos 32, Nat.two_pow_pos 32, fun _ => rfl, fun _ => rfl⟩

theorem Raw.i64_fits {imm : Nat} (himm : imm < 2 ^ 32) : (Raw.i64 set g ws d a b imm).Fits :=
  ⟨hset, show 0x39 < 0x3c by decide, hg, hws, hd, ha, hb, himm, Nat.two_pow_pos 32,
    fun h => absurd h (show ¬ 0x39 < 0x38 by decide), fun _ => rfl⟩

theorem Raw.x_fits {xop c modv w3 : Nat} (hop : 0x38 ≤ op ∧ op < 0x3c) (hxop : xop < 4096) (hc : c < 128) (hmodv : modv < 8192)
    (hw3 : w3 < 2 ^ 32) (hlast : op < 0x3b → w3 = 0) : (Raw.x set op g ws d a b xop c modv w3).Fits :=
  ⟨hset, hop.2, hg, hws, hd, ha, hb, by simp only [Raw.x]; omega, hw3, fun h => absurd h (Nat.not_lt.mpr hop.1), hlast⟩

end

theorem b2n_le (b : Bool) (k : Nat) : b2n b k ≤ 2 ^ k := by cases b <;> simp [b2n]
theorem PlogArgs.dNum_lt (r : PlogArgs) : r.dNum < 128 := by cases r <;> grind [PlogArgs.dNum, Dst.code_lt]
theorem PlogArgs.aNum_lt (r : PlogArgs) : r.aNum < 128 := by cases r <;> grind [PlogArgs.aNum, Pred.code_lt, Reg.code_lt]
theorem PlogArgs.bNum_lt (r : PlogArgs) : r.bNum < 128 := by cases r <;> grind [PlogArgs.bNum, Pred.code_lt]
theorem PlogArgs.wsBit_lt (r : PlogArgs) : r.wsBit < 2 := by cases r <;> grind [PlogArgs.wsBit, Dst.wsBit_lt]
theorem MkLog.aNum_lt (r : MkLog) : r.aNum < 128 := by cases r <;> grind [MkLog.aNum]
theorem MkLog.bNum_lt (r : MkLog) : r.bNum < 128 := by cases r <;> grind [MkLog.bNum]
theorem VoteDst.dNum_lt (r : VoteDst) : r.dNum < 128 := by cases r <;> grind [VoteDst.dNum, Reg.code_lt]
theorem Pfl2Args.dNum_lt (r : Pfl2Args) : r.dNum < 128 := by cases r <;> grind [Pfl2Args.dNum]
theorem Pfl2Args.bNum_lt (r : Pfl2Args) : r.bNum < 128 := by cases r <;> grind [Pfl2Args.bNum, SReg.code_lt]
theorem byte_toNat_lt (x : BitVec 8) : x.toNat < 256 := x.isLt
theorem offset_toNat_lt (x : BitVec 15) : x.toNat < 32768 := x.isLt
theorem word_toNat_lt (x : Word) : x.toNat < 2 ^ 32 := x.isLt

/-! The fields that the encoding tables give an instruction fit, form by form: each is a code below its width, or flags and
codes side by side. -/

section
variable {i : Instr} {r : Raw} (h : i.raw = some r)
include h

theorem raw_fits_b32 (hf : i.form = .b32) : r.Fits := by
  cases i <;> cases hf <;> cases h <;>
  grind only [Raw.b32_fits, Raw.b32Low_fits, Pred.code_lt, Reg.code_lt, SReg.code_lt, Dst.code_lt, Dst.wsBit_lt, Spr.code_lt]

theorem raw_fits_i64 (hf : i.form = .i64) : r.Fits := by
  cases i <;> cases hf <;> cases h <;>
  grind only [Raw.i64_fits, Pred.code_lt, Reg.code_lt, SReg.code_lt, Dst.code_lt, Dst.wsBit_lt, word_toNat_lt]

theorem raw_fits_m64 (hf : i.form = .m64) : r.Fits := by
  cases i <;> cases hf <;> cases h <;>
  grind only [Raw.m64_fits, Pred.code_lt, Reg.code_lt, SReg.code_lt, Size.code_lt, Scope.code_lt, Order.code_lt, AtomOp.code_lt,
    GOff.code_lt, GOff.space_lt, offset_toNat_lt, b2n_le]

theorem raw_fits_x96 (hf : i.form = .x96) : r.Fits := by
  cases i <;> cases hf <;> cases h <;>
  grind only [Raw.x_fits, Pred.code_lt, Reg.code_lt, SReg.code_lt, Dst.code_lt, Dst.wsBit_lt, Ty.code_lt, byte_toNat_lt,
    word_toNat_lt, CpySpace.code_lt, CpyTr.code_lt, CollOp.code_lt, CollKind.code_lt, Pfl2Args.code_lt, Pfl2Args.dNum_lt,
    Pfl2Args.bNum_lt, b2n_le]

theorem raw_fits_x64_lane (hf : i.form = .x64) (hs : r.set = 0) : r.Fits := by
  cases i <;> cases hf <;> cases h <;> cases hs
  case icmp | fcmp =>
    grind only [Raw.x_fits, Pred.code_lt, Reg.code_lt, Ty.code_lt, Cond.code_lt, FCond.code_lt, Combine.code_lt,
      Combine.predNum_lt, b2n_le]
  case xch | redux =>
    grind only [Raw.x_fits, Pred.code_lt, Reg.code_lt, Dst.code_lt, Dst.wsBit_lt, Ty.code_lt, XMode.code_lt, RedOp.code_lt,
      optPNum_lt, b2n_le]
  case plog =>
    grind only [Raw.x_fits, Pred.code_lt, PlogArgs.code_lt, PlogArgs.dNum_lt, PlogArgs.aNum_lt, PlogArgs.bNum_lt,
      PlogArgs.wsBit_lt]
  case vote => grind only [Raw.x_fits, Pred.code_lt, VoteDst.code_lt, VoteDst.dNum_lt, b2n_le]
  case mklog => grind only [Raw.x_fits, Pred.code_lt, MkLog.code_lt, MkLog.aNum_lt, MkLog.bNum_lt]
  all_goals
    grind only [Raw.x_fits, Pred.code_lt, Reg.code_lt, SReg.code_lt, Dst.code_lt, Dst.wsBit_lt, Ty.code_lt, RM.code_lt, b2n_le]

theorem raw_fits_x64_uniform (hf : i.form = .x64) (hs : r.set = 1) : r.Fits := by
  cases i <;> cases hf <;> cases h <;> cases hs <;>
  grind only [Raw.x_fits, Pred.code_lt, Reg.code_lt, SReg.code_lt, Ty.code_lt, Cond.code_lt, Combine.code_lt,
    Combine.predNum_lt, SReg.codeOpt_lt, Spr.code_lt, b2n_le]

/-- An instruction of words is of the lane set or of the uniform set. -/
theorem raw_set : r.set = 0 ∨ r.set = 1 := by
  have hset : r.set ≤ 1 := by cases i <;> cases h <;> exact Nat.le_of_ble_eq_true rfl
  omega

theorem raw_fits : r.Fits := by
  cases hf : i.form with
  | b32 => exact raw_fits_b32 h hf
  | x64 => exact (raw_set h).elim (raw_fits_x64_lane h hf) (raw_fits_x64_uniform h hf)
  | i64 => exact raw_fits_i64 h hf
  | m64 => exact raw_fits_m64 h hf
  | x96 => exact raw_fits_x96 h hf
  | event => cases i <;> cases hf <;> cases h

end

/-! ### Words and fields -/

theorem opOf_eq (w : Word) : opOf w = w.toNat / 33554432 % 64 := by
  rw [opOf, BitVec.extractLsb'_toNat, Nat.shiftRight_eq_div_pow]

/-! `decode`, by the length that OP gives (02 R31). -/

section
variable {w1 w2 w3 : Word}

theorem decode_one (h : opLength (opOf w1) = some 4) : decode [w1] = decode.fin (Raw.ofWords w1.toNat 0 0) := by
  simp only [decode, h]

theorem decode_two (h : opLength (opOf w1) = some 8) : decode [w1, w2] = decode.fin (Raw.ofWords w1.toNat w2.toNat 0) := by
  simp only [decode, h]

theorem decode_three (h : opLength (opOf w1) = some 12) :
    decode [w1, w2, w3] = decode.fin (Raw.ofWords w1.toNat w2.toNat w3.toNat) := by
  simp only [decode, h]

end

section
variable {r : Raw} (h : r.Fits)
include h

theorem w1_lt : r.w1 < 4294967296 := by
  obtain ⟨hset, hop, hg, hws, hd, ha, hb, -⟩ := h
  rw [Raw.w1]
  omega

theorem opOf_w1 : opOf (BitVec.ofNat 32 r.w1) = r.op := by
  rw [opOf_eq, BitVec.toNat_ofNat, Nat.mod_eq_of_lt (w1_lt h), Raw.w1]
  obtain ⟨-, hop, hg, hws, hd, ha, hb, -⟩ := h
  omega

theorem ofWords_w1 : Raw.ofWords (BitVec.ofNat 32 r.w1).toNat r.w2 r.w3 = r := by
  rw [BitVec.toNat_ofNat, Nat.mod_eq_of_lt (w1_lt h)]
  obtain ⟨set, op, g, ws, d, a, b, w2, w3⟩ := r
  obtain ⟨hset, hop, hg, hws, hd, ha, hb, -⟩ := h
  simp only [Raw.ofWords, Raw.w1, Raw.mk.injEq, and_true] at *
  omega

/-- The words of fields that fit decode as those fields do. -/
theorem decode_words : decode r.words = decode.fin r := by
  have hop := opOf_w1 h
  have hback := ofWords_w1 h
  have h2 : (BitVec.ofNat 32 r.w2).toNat = r.w2 := (BitVec.toNat_ofNat ..).trans (Nat.mod_eq_of_lt h.w2)
  have h3 : (BitVec.ofNat 32 r.w3).toNat = r.w3 := (BitVec.toNat_ofNat ..).trans (Nat.mod_eq_of_lt h.w3)
  by_cases hop1 : r.op < 0x38
  · rw [h.one hop1, h.two (by omega)] at hback
    rw [Raw.words, if_pos hop1, decode_one (by rw [hop, opLength, if_pos hop1]), hback]
  by_cases hop2 : r.op < 0x3b
  · rw [h.two hop2] at hback
    rw [Raw.words, if_neg hop1, if_pos hop2, decode_two (by rw [hop, opLength, if_neg hop1, if_pos hop2]), h2, hback]
  · have hop3 : r.op = 0x3b := by have := h.op; omega
    rw [Raw.words, if_neg hop1, if_neg hop2,
      decode_three (by rw [hop, opLength, if_neg hop1, if_neg hop2, if_pos hop3]), h2, h3, hback]

end

namespace Laws

/-- Every instruction's fields are read back as it: the lemmas on the single instructions, in the order of the constructors. -/
theorem encoding_statement (i : Instr) : Encoding.Statement i :=
  Instr.casesOn (motive := Encoding.Statement) i
    Encoding.starved Encoding.forcedQueueEntry Encoding.thresherZeroingDone Encoding.thresherOpStart Encoding.thresherOpComplete
    Encoding.wainStart Encoding.wainComplete Encoding.cpyhCreditTimeout Encoding.pfl2Complete Encoding.collStepComplete
    Encoding.registration Encoding.registrationAck Encoding.ownerRecall Encoding.forwardedRead Encoding.readRefusal
    Encoding.writeBack Encoding.l1Eviction Encoding.redPublication Encoding.l2LineEviction Encoding.ccwaitPollTimer
    Encoding.peerAccess Encoding.hostAtomicSwap Encoding.faultRecordDeferred Encoding.answer Encoding.invctx
    Encoding.faultQueueReconfig Encoding.registerWrite Encoding.qtailDoorbell Encoding.recordTake Encoding.dependencesMet
    Encoding.dealRound Encoding.stookRetire Encoding.cropConfirm Encoding.partitionCommit Encoding.reconfiguration
    Encoding.parkEviction Encoding.parkRestore Encoding.trapStookStart Encoding.preempt Encoding.restoreParea
    Encoding.restoreSarea Encoding.prctlNone Encoding.sliceExpiry Encoding.preemptOperationEnd Encoding.buildStep
    Encoding.refitStart Encoding.refitStep Encoding.refitCommit Encoding.urgentRefitStart Encoding.bruvasLinkDown
    Encoding.bruvasLinkUp Encoding.routeRecompute Encoding.hostLinkDown Encoding.groupEntryWrite Encoding.msixUnmask
    Encoding.scanVisitStart Encoding.scanMove Encoding.scanResult Encoding.rickKill Encoding.patrolScrub Encoding.reset
    Encoding.functionReady Encoding.firmwareBoot Encoding.overtemp Encoding.attestationStart Encoding.attestationDone
    Encoding.illegalEncoding Encoding.instructionFetchFault Encoding.homeReply Encoding.atomicAtHome Encoding.peerHomeReply
    Encoding.hostMemoryAccess Encoding.hostSnoopResponse Encoding.hostLinkUp Encoding.iaddB32 Encoding.isubB32 Encoding.imulB32
    Encoding.imulhS32B32 Encoding.imulhZ32B32 Encoding.iminS32B32 Encoding.imaxS32B32 Encoding.iminZ32B32 Encoding.imaxZ32B32
    Encoding.shlB32 Encoding.shrZ32B32 Encoding.shrS32B32 Encoding.andB32 Encoding.orB32 Encoding.xorB32 Encoding.andnB32
    Encoding.movB32 Encoding.popcB32 Encoding.clzB32 Encoding.brevB32 Encoding.iadd64B32 Encoding.iabsB32 Encoding.inegB32
    Encoding.faddF32B32 Encoding.fsubF32B32 Encoding.fmulF32B32 Encoding.fminF32B32 Encoding.fmaxF32B32 Encoding.frcpF32B32
    Encoding.frsqF32B32 Encoding.fsqrtF32B32 Encoding.fexp2F32B32 Encoding.flog2F32B32 Encoding.faddBf16B32 Encoding.fmulBf16B32
    Encoding.faddF16B32 Encoding.fmulF16B32 Encoding.fclassF32B32 Encoding.braB32 Encoding.retB32 Encoding.exitB32
    Encoding.yieldB32 Encoding.nopB32 Encoding.mkcurB32 Encoding.joinB32 Encoding.leaveB32 Encoding.raddF32B32
    Encoding.unaddF32B32 Encoding.rmulF32B32 Encoding.unmulF32B32 Encoding.rreluF32B32 Encoding.unreluF32B32 Encoding.rmulS32B32
    Encoding.unmulS32B32 Encoding.iaddX64 Encoding.isubX64 Encoding.imulX64 Encoding.imulhX64 Encoding.imad Encoding.imadw
    Encoding.iadd64X64 Encoding.leaX64 Encoding.iabsX64 Encoding.inegX64 Encoding.iminX64 Encoding.imaxX64 Encoding.shlX64
    Encoding.shrX64 Encoding.shf Encoding.rot Encoding.andX64 Encoding.orX64 Encoding.xorX64 Encoding.andnX64 Encoding.tern
    Encoding.popcX64 Encoding.clzX64 Encoding.brevX64 Encoding.bfx Encoding.bfi Encoding.icmp Encoding.sel Encoding.plog
    Encoding.movX64 Encoding.idp4 Encoding.xch Encoding.vote Encoding.match Encoding.redux Encoding.movi Encoding.iaddI64
    Encoding.imulI64 Encoding.andI64 Encoding.orI64 Encoding.xorI64 Encoding.shlI64 Encoding.shrI64 Encoding.iminI64
    Encoding.imaxI64 Encoding.leaI64 Encoding.braI64 Encoding.call Encoding.faddX64 Encoding.fsubX64 Encoding.fmulX64
    Encoding.ffma Encoding.fminX64 Encoding.fmaxX64 Encoding.fcmp Encoding.frcpX64 Encoding.frsqX64 Encoding.fsqrtX64
    Encoding.fexp2X64 Encoding.flog2X64 Encoding.fdp2 Encoding.cvt Encoding.cvtsr Encoding.fclassX64 Encoding.dquant
    Encoding.brx Encoding.callx Encoding.retX64 Encoding.exitX64 Encoding.yieldX64 Encoding.nopX64 Encoding.mkcurX64
    Encoding.mktos Encoding.stomk Encoding.joinX64 Encoding.leaveX64 Encoding.waitm Encoding.mklog Encoding.raddX64
    Encoding.rmulX64 Encoding.rcvt Encoding.rreluX64 Encoding.rshr Encoding.unaddX64 Encoding.unmulX64 Encoding.uncvt
    Encoding.unreluX64 Encoding.unshr Encoding.chpush Encoding.chpop Encoding.chdrop Encoding.chdepth Encoding.fbinit
    Encoding.fbarr Encoding.fbwait Encoding.fbtest Encoding.mma Encoding.dmma Encoding.ldg Encoding.ldgSigned Encoding.ldgU
    Encoding.stg Encoding.stgU Encoding.lda Encoding.ldaSigned Encoding.sta Encoding.ldw Encoding.ldwSigned Encoding.stw
    Encoding.ldc Encoding.ldcSigned Encoding.stc Encoding.aatom Encoding.invr Encoding.inva Encoding.phbeg Encoding.phend
    Encoding.pfl1 Encoding.atom Encoding.cas Encoding.red Encoding.waita Encoding.wake Encoding.fence Encoding.fld Encoding.fst
    Encoding.saddB32 Encoding.ssubB32 Encoding.smulB32 Encoding.sadd64B32 Encoding.sshlB32 Encoding.sshrZ32B32
    Encoding.sshrS32B32 Encoding.sandB32 Encoding.sorB32 Encoding.sxorB32 Encoding.sminS32B32 Encoding.smaxS32B32
    Encoding.sminZ32B32 Encoding.smaxZ32B32 Encoding.smovB32 Encoding.spopcB32 Encoding.lanerdB32 Encoding.lanewrB32
    Encoding.pwaitAnyB32 Encoding.pwaitAllB32 Encoding.pfindB32 Encoding.pclrB32 Encoding.mxacqB32 Encoding.mxtryB32
    Encoding.mxrelB32 Encoding.mxwaitB32 Encoding.zaccSB32 Encoding.zaccEB32 Encoding.srdB32 Encoding.swrB32 Encoding.trapB32
    Encoding.brkB32 Encoding.barB32 Encoding.tkwaitB32 Encoding.tkpassB32 Encoding.ccwaitB32 Encoding.saddX64 Encoding.ssubX64
    Encoding.smulX64 Encoding.smad Encoding.sadd64X64 Encoding.sleaX64 Encoding.sshlX64 Encoding.sshrX64 Encoding.sandX64
    Encoding.sorX64 Encoding.sxorX64 Encoding.sminX64 Encoding.smaxX64 Encoding.scmp Encoding.ssel Encoding.smovX64
    Encoding.spopcX64 Encoding.lanerdX64 Encoding.lanewrX64 Encoding.smovi Encoding.saddI64 Encoding.smulI64 Encoding.sandI64
    Encoding.sorI64 Encoding.sxorI64 Encoding.sshlI64 Encoding.sshrI64 Encoding.sminI64 Encoding.smaxI64 Encoding.sleaI64
    Encoding.cpy Encoding.cpy2 Encoding.cpyh Encoding.pfl2 Encoding.pwaitX64 Encoding.pfindX64 Encoding.pclrX64 Encoding.pstat
    Encoding.mxacqX64 Encoding.mxtryX64 Encoding.mxrelX64 Encoding.stld Encoding.drain Encoding.zaccX64 Encoding.mxwaitX64
    Encoding.rgnb Encoding.rfit Encoding.rgnq Encoding.coll Encoding.srdX64 Encoding.swrX64 Encoding.trapX64 Encoding.brkX64
    Encoding.twrd Encoding.twwr Encoding.tres Encoding.tkill Encoding.launch Encoding.barX64 Encoding.ccwaitX64
    Encoding.tkwaitX64 Encoding.tkpassX64

/-- The words of a well-formed instruction that has any decode to it. -/
theorem decode_encode {i : Instr} (hw : i.wf = true) (hne : encode i ≠ []) : decode (encode i) = .ok i := by
  cases hr : i.raw with
  | none => exact absurd (by rw [encode, hr]) hne
  | some r =>
    have henc : encode i = r.words := by rw [encode, hr]
    rw [henc, decode_words (raw_fits hr), decode.fin, encoding_statement i r hr hw]

/-- Fields are read only as a well-formed instruction (02 R47). -/
theorem toInstr_wf {r : Raw} {i : Instr} (h : r.toInstr = some i) : i.wf = true := by
  obtain ⟨j, -, hj⟩ := Option.bind_eq_some_iff.mp h
  split at hj
  · next hw => exact Option.some.inj hj ▸ hw
  · cases hj

/-- What decodes is read from the fields of its words. -/
theorem toInstr_of_decode {ws : List Word} {i : Instr} (h : decode ws = .ok i) : ∃ r : Raw, r.toInstr = some i := by
  have hfin {r : Raw} (h : decode.fin r = .ok i) : r.toInstr = some i := by
    unfold decode.fin at h
    split at h
    · next j hj => cases h; exact hj
    · cases h
  unfold decode at h
  split at h
  · cases h
  · split at h
    · cases h
    · exact ⟨_, hfin h⟩
    · exact ⟨_, hfin h⟩
    · exact ⟨_, hfin h⟩
    · cases h

end Laws
end Sys2Proof

namespace Sys2Proof.Proofs
open Sys2Proof Sys2Proof.Laws

/-- Settles O60: the fields of every instruction fit their words, and are read back as it. -/
theorem decodeOfEncode : Obligations.DecodeOfEncode := by
  unfold Obligations.DecodeOfEncode
  refine ⟨fun i hw hne => decode_encode hw hne, fun ws i h => ?_⟩
  obtain ⟨r, hr⟩ := toInstr_of_decode h
  exact toInstr_wf hr

/-- Words that are those of a well-formed instruction decode to it. -/
theorem decode_of_encode_eq {ws : List Word} {i : Instr} (hw : i.wf = true) (h : encode i = ws) (hne : ws ≠ []) :
    decode ws = .ok i := by
  subst h; exact decode_encode hw hne

/-- Settles O59: the words are those of their instructions; the fields of the others are read as none. -/
theorem wordsDecodeRight : Obligations.WordsDecodeRight := by
  unfold Obligations.WordsDecodeRight
  refine ⟨?_, ?_, ?_, ?_, ?_, ⟨.encoding, ?_⟩, ⟨.encoding, ?_⟩, ⟨.reservedOp, ?_⟩⟩
  · exact decode_of_encode_eq rfl (by decide) nofun
  · exact decode_of_encode_eq rfl (by decide) nofun
  · exact decode_of_encode_eq rfl (by decide) nofun
  · exact decode_of_encode_eq rfl (by decide) nofun
  · exact decode_of_encode_eq rfl (by decide) nofun
  · rfl
  · rfl
  · rfl
end Sys2Proof.Proofs
end

section
/-! ## Branches, calls and returns (04 R76 to R78) -/

namespace Sys2Proof.Laws
open Sys2Proof Sys2Proof.Machine Sys2Proof.Safety

theorem getLsbD_laneBit (i l : Nat) (hl : l < 64) : (laneBit i).getLsbD l = decide (i = l) := by
  rw [laneBit, BitVec.getLsbD_ofNat, Nat.testBit_two_pow, decide_eq_true hl, Bool.true_and]

/-- The lanes of a set given by a test. -/
theorem getLsbD_laneSetOf (n : Nat) (f : Nat → Bool) (l : Nat) (hl : l < 64) :
    (laneSetOf n f).getLsbD l = (decide (l < n) && f l) := by
  induction n with
  | zero => simp [laneSetOf]
  | succ n ih =>
    have hstep : laneSetOf (n + 1) f = if f n then laneSetOf n f ||| laneBit n else laneSetOf n f := by
      rw [laneSetOf, List.range_succ, List.foldl_append]; rfl
    rw [hstep]
    by_cases hn : n = l
    · subst hn
      cases hf : f n <;> simp [ih, getLsbD_laneBit n n hl]
    · have hlt : decide (l < n + 1) = decide (l < n) := by grind
      rw [hlt, ← ih]
      split <;> simp [getLsbD_laneBit n l hl, hn]

theorem lt_of_getLsbD {m : LaneSet} {l : Nat} (h : m.getLsbD l = true) : l < 64 := BitVec.lt_of_getLsbD h

/-- A set of lanes is empty exactly where none of its 64 bits is set. -/
theorem laneSet_eq_zero_iff (m : LaneSet) : m = 0 ↔ ∀ l < 64, m.getLsbD l = false := by
  constructor
  · rintro rfl l _; exact BitVec.getLsbD_zero
  · intro h; exact BitVec.eq_of_getLsbD_eq fun l hl => by rw [h l hl]; exact BitVec.getLsbD_zero.symm

/-! ### Branches, calls and returns -/

/-- A branch: the lanes of E go to their targets with their latches invalid, the others of the path fall through. -/
theorem issued_jumped (i : Instr) (k : Ctx) (d : Done) (f : Nat → DWord) (l : Nat) (x : Lane) (hu : i.cls ≠ .uniform)
    (ht : d.target = some f) (hs : d.stay.getLsbD l = false) (hb : d.branch = true) (hr : d.refills = false) :
    x.issued i k d l = if k.e.getLsbD l then jumped (f l) x else shifted k none x := by
  cases he : k.e.getLsbD l <;> simp [Lane.issued, hu, ht, hs, hb, hr, he] <;> rfl

theorem getLsbD_badLanes (k : Ctx) (a : Reg) (l : Nat) (hl : l < 64) :
    (laneSetOf 64 (fun l => k.e.getLsbD l && (k.pairA a l).toNat % 4 != 0)).getLsbD l =
      (k.e.getLsbD l && decide ((k.pairA a l).toNat % 4 ≠ 0)) := by
  rw [getLsbD_laneSetOf 64 _ l hl, decide_eq_true hl, Bool.true_and]
  rw [bne, beq_eq_decide, decide_not]

theorem badTarget_none (k : Ctx) (a : Reg) (h : ∀ l, k.e.getLsbD l = true → (k.pairA a l).toNat % 4 = 0) :
    badTarget k a = none := by
  have h0 : laneSetOf 64 (fun l => k.e.getLsbD l && (k.pairA a l).toNat % 4 != 0) = 0 := by
    rw [laneSet_eq_zero_iff]
    intro l hl
    rw [getLsbD_badLanes k a l hl]
    cases he : k.e.getLsbD l with
    | false => rfl
    | true => simp [h l he]
  rw [badTarget, h0]
  rfl

/-- 02 R29: the trap of a misaligned target names the lanes of E whose target is misaligned. -/
theorem badTarget_some (k : Ctx) (a : Reg) (h : ∃ l, k.e.getLsbD l = true ∧ (k.pairA a l).toNat % 4 ≠ 0) :
    ∃ tr, badTarget k a = some tr ∧ tr.code = 4 ∧ tr.pc = k.pc ∧ tr.path = k.path ∧
      ∀ l < 64, tr.lanes.getLsbD l = (k.e.getLsbD l && decide ((k.pairA a l).toNat % 4 ≠ 0)) := by
  obtain ⟨l, he, hm⟩ := h
  have h0 : laneSetOf 64 (fun l => k.e.getLsbD l && (k.pairA a l).toNat % 4 != 0) ≠ 0 := by
    intro h0
    have hl := getLsbD_badLanes k a l (lt_of_getLsbD he)
    rw [h0, he, decide_eq_true hm] at hl
    exact Bool.false_ne_true (BitVec.getLsbD_zero.symm.trans hl)
  refine ⟨_, by rw [badTarget]; exact if_neg h0, rfl, rfl, rfl, fun l hl => ?_⟩
  exact getLsbD_badLanes k a l hl

/-- BRX and RET where every target is aligned (04 R76, R78). -/
theorem issue_goTo (i : Instr) (s : State) (k : Ctx) (a : Reg) (h : Issues i s k) (hu : i.cls ≠ .uniform)
    (ha : ∀ l, k.e.getLsbD l = true → (k.pairA a l).toNat % 4 = 0) :
    LanesOnly i s (issueState i s (fun k => goTo s k a)) k (fun _ x => x)
      (fun l x => if k.e.getLsbD l then jumped (k.pairA a l) x else shifted k none x) := by
  refine issue_none i s k _ (jumpDone s (fun l => k.pairA a l)) _ h ?_ rfl rfl rfl fun l _ x _ => ?_
  · rw [goTo, badTarget_none k a ha]
  · exact issued_jumped i k _ _ l x hu rfl BitVec.getLsbD_zero rfl rfl

/-- A call: the link is written in the lanes of E, which go to their targets (04 R77). -/
theorem exec_link {i : Instr} {s : State} {k : Ctx} {body : Ctx → Except TrapInfo Done} {d : Reg} {f : Nat → DWord}
    (hi : exec i s = issue i s body) (h : Issues i s k) (hu : i.cls ≠ .uniform) (hd : d.isLaneDst = true)
    (hb : body k = .ok (linkDone s k d f)) :
    ∃ t sh, exec i s = .next t ∧ t = withSheaf i s k sh ∧
      { sh with lanes := k.sh.lanes, regs := k.sh.regs, replay := k.sh.replay } = k.sh ∧
      RegsAfter k sh d (fun _ => Spec.pair (k.pc + 8)) ∧
      LanesAfter k sh (fun _ x => x) (fun l x => if k.e.getLsbD l then jumped (f l) x else shifted k none x) := by
  have hs := issues_sheaf h
  have hfr : { groupSheaf k d (fun _ => Spec.pair (k.pc + 8)) with regs := k.sh.regs } = k.sh := lanes_writeGroups d hd _ k.sh
  have hregs := groupSheaf_regs k d hd (fun _ => Spec.pair (k.pc + 8))
  have hst : (linkDone s k d f).st = s.setSheaf k.sid (groupSheaf k d (fun _ => Spec.pair (k.pc + 8))) :=
    groupDone_st s k d _ hs
  generalize groupSheaf k d (fun _ => Spec.pair (k.pc + 8)) = u at hfr hregs hst
  have hcore := congrArg Sheaf.core hfr
  have hfl := congrArg Sheaf.flights hfr
  have hrep := congrArg Sheaf.replay hfr
  have hlane (l : Nat) := congrArg (fun y : Sheaf => y.lane l) hfr
  have hrest :=
    congrArg (fun y : Sheaf => { y with lanes := k.sh.lanes, replay := k.sh.replay }) hfr
  rw [hi, issue, issueState_of i s k body h _ hb rfl rfl, retire_sheaf s i k _ u hs (.inr hst) hcore hfl]
  refine ⟨_, _, rfl, rfl, ?_, ?_, ?_⟩
  · split
    · exact hrest
    · rw [modLanes_eq]; exact hrest
  · split
    · exact hregs
    · intro r l hl; rw [vreg_modLanes]; exact hregs r l hl
  · refine lanesAfter_of i k _ u _ _ (fun l _ => hlane l) hrep fun _ l _ x _ => ?_
    exact issued_jumped i k _ f l x hu rfl BitVec.getLsbD_zero rfl rfl

/-- The offset of CALL and BRA in bytes: the field sign-extended, shifted by two, is 4 times its value. -/
theorem signExtend_shiftLeft_two {w : Nat} (x : BitVec w) : x.signExtend 64 <<< 2 = BitVec.ofInt 64 (4 * x.toInt) := by
  rw [BitVec.shiftLeft_eq_mul_twoPow, BitVec.ofInt_mul, BitVec.mul_comm]
  rfl
end Sys2Proof.Laws

namespace Sys2Proof.Proofs
open Sys2Proof Sys2Proof.Machine Sys2Proof.Safety Sys2Proof.Laws
/-- Settles O8: the lanes of E go to their targets, and a misaligned target is a trap before any effect. -/
theorem callsAndReturns : Obligations.CallsAndReturns := by
  unfold Obligations.CallsAndReturns
  refine ⟨⟨?_, ?_, ?_⟩, ?_⟩
  · rintro i g a s k (rfl | rfl | rfl) h ha
    all_goals exact ⟨_, rfl, issue_goTo _ s k a h nofun ha⟩
  · intro g d a s k hw h ha
    have hd : d.isLaneDst = true := by
      simp only [Instr.wf, Bool.and_eq_true] at hw; exact hw.1.1
    exact exec_link rfl h nofun hd (by simp only [badTarget_none k a ha])
  · intro g d imm s k hw h
    have hd : d.isLaneDst = true := by
      simp only [Instr.wf, Bool.and_eq_true] at hw; exact hw.1
    rw [← signExtend_shiftLeft_two]
    exact exec_link rfl h nofun hd rfl
  · intro i g d a s k hi h hm
    obtain ⟨tr, hb, hcode, hpc, hpath, hlanes⟩ := badTarget_some k a hm
    refine ⟨tr, ?_, hcode, hpc, hpath, hlanes⟩
    rcases hi with rfl | rfl | rfl | rfl
    all_goals exact congrArg Host.Outcome.next (issue_trap _ s k tr _ h (by simp only [goTo, hb]))
end Sys2Proof.Proofs
end

section
/-! ## What every instruction checks first -/

namespace Sys2Proof.Laws
open Sys2Proof Sys2Proof.Machine Sys2Proof.Safety

/-- Every instruction of words is an issue: the shared checks, then a body of its own. -/
theorem exec_eq_issue {i : Instr} (h : i.raw ≠ none) (s : State) : ∃ body, exec i s = issue i s body := by
  cases hf : i.form with
  | event => cases i <;> cases hf <;> exact absurd rfl h
  | _ => cases i <;> cases hf <;> exact ⟨_, rfl⟩

/-! ### The shared checks -/

section
variable {i : Instr} {s : State} {cur : Cursor} {sh : Sheaf}

theorem issueState_idle (body : Ctx → Except TrapInfo Done) (h : s.cur = none) : issueState i s body = s := by
  rw [issueState, h]

theorem issueState_frozen (body : Ctx → Except TrapInfo Done) (hc : s.cur = some cur) (hs : s.sheaf? cur.sid = some sh)
    (hf : sh.frozen = true) : issueState i s body = s := by
  simp only [issueState, hc, hs, hf, if_true]

theorem issueState_check (body : Ctx → Except TrapInfo Done) {tr : TrapInfo} (hc : s.cur = some cur)
    (hs : s.sheaf? cur.sid = some sh) (hf : sh.frozen = false) (hp : preCheck i (ctxOf i cur sh s.clock) = some tr) :
    issueState i s body = s.takeTrap cur.sid tr none := by
  simp only [issueState, hc, hs, hf, hp, Bool.false_eq_true, if_false]
  rfl

/-- Where E is empty only the path moves on (06 R108). -/
theorem issueState_empty (body : Ctx → Except TrapInfo Done) {k : Ctx} (hc : s.cur = some cur) (hs : s.sheaf? cur.sid = some sh)
    (hf : sh.frozen = false) (hk : k = ctxOf i cur sh s.clock) (hp : preCheck i k = none) (he : k.e = 0) :
    issueState i s body = s.retire i k { st := s } := by
  subst hk
  simp only [issueState, hc, hs, hf, hp, he, Bool.false_eq_true, if_false, if_true]

end

/-- A lane of the path of an instruction without a target, a result or a lane that stays. -/
theorem issued_goesOn (i : Instr) (k : Ctx) (s : State) (l : Nat) (x : Lane) : x.issued i k { st := s } l = goesOn i k x := by
  unfold goesOn
  split
  · next hu => exact issued_passed i k _ l x hu rfl BitVec.getLsbD_zero
  · next hu =>
    rw [issued_shifted i k _ l x hu rfl BitVec.getLsbD_zero rfl]
    simp

theorem retire_lanesOnly (i : Instr) (s : State) (k : Ctx) (h : s.sheaf? k.sid = some k.sh) :
    LanesOnly i s (s.retire i k { st := s }) k (fun _ x => x) (fun _ x => goesOn i k x) := by
  rw [retire_sheaf s i k _ k.sh h (.inl ⟨rfl, rfl⟩) rfl rfl]
  refine ⟨_, rfl, ?_, lanesAfter_of i k _ k.sh _ _ (fun _ _ => rfl) rfl fun _ l _ x _ => issued_goesOn i k s l x⟩
  split
  · rfl
  · rw [modLanes_eq]

/-! `preCheck`, by the checks in their order. -/

section
variable {i : Instr} {k : Ctx}

theorem preCheck_priv (hp : i.privileged = true) (hs : k.sh.serves = none) : preCheck i k = some (k.trap .priv k.path 0) := by
  simp [preCheck, hp, hs]

/-- Some operand group reaches beyond the budget (02 R32, R33). -/
theorem any_regOver_iff (us : List RegUse) (b : Nat) :
    us.any (fun u => regOver u b) = true ↔ ∃ u ∈ us, ∃ n, u.base = .v n ∧ b < n.val + u.count := by
  rw [List.any_eq_true]
  refine exists_congr fun u => and_congr_right fun _ => ?_
  cases hu : u.base <;> simp [regOver, hu]

theorem privCheck_false (h : i.privileged = true → k.sh.serves ≠ none) : (i.privileged && k.sh.serves.isNone) = false := by
  cases hp : i.privileged with
  | false => rfl
  | true => exact Option.isNone_eq_false_iff.mpr (Option.isSome_iff_ne_none.mpr (h hp))

theorem preCheck_regb (hp : i.privileged = true → k.sh.serves ≠ none)
    (hr : ∃ u ∈ i.srcs ++ i.dsts, ∃ n, u.base = .v n ∧ k.sh.budget < n.val + u.count) :
    preCheck i k = some (k.trap .regb k.path 0) := by
  rw [preCheck, privCheck_false hp, (any_regOver_iff _ _).mpr hr]
  rfl

/-- The lanes of E that name an invalid latch (05 R88). -/
theorem getLsbD_badLatch (l : Nat) (hl : l < 64) : (k.badLatch i).getLsbD l = true ↔
    l < k.sh.width ∧ k.e.getLsbD l = true ∧ ∃ u ∈ i.srcs, ∃ n, u.base = .b n ∧ (k.sh.lane l).latchValid n = false := by
  rw [Ctx.badLatch, getLsbD_laneSetOf _ _ l hl, Bool.and_eq_true, Bool.and_eq_true, decide_eq_true_iff, List.any_eq_true]
  refine and_congr_right fun _ => and_congr_right fun _ => exists_congr fun u => and_congr_right fun _ => ?_
  cases hu : u.base <;> simp

variable (hp : i.privileged = true → k.sh.serves ≠ none)
  (hr : ∀ u ∈ i.srcs ++ i.dsts, ∀ n, u.base = .v n → n.val + u.count ≤ k.sh.budget)
include hp hr

/-- Within the privilege and the budget only the latches are left to check. -/
theorem preCheck_latches : preCheck i k =
    if k.replay.isNone && k.badLatch i != 0 then some (k.trap .latch (k.badLatch i) 0) else none := by
  have hov : (i.srcs ++ i.dsts).any (fun u => regOver u k.sh.budget) = false := by
    rw [← Bool.not_eq_true, any_regOver_iff]
    rintro ⟨u, hu, n, hn, hb⟩
    exact Nat.not_lt.mpr (hr u hu n hn) hb
  rw [preCheck, privCheck_false hp, hov]
  rfl

theorem preCheck_latch {m : LaneSet} (hk : k.replay = none) (hm : m ≠ 0) (hb : m = k.badLatch i) :
    preCheck i k = some (k.trap .latch m 0) := by
  subst hb
  rw [preCheck_latches hp hr, hk]
  exact if_pos (bne_iff_ne.mpr hm)

theorem preCheck_none (hl : k.replay = none → k.badLatch i = 0) : preCheck i k = none := by
  rw [preCheck_latches hp hr]
  cases hk : k.replay with
  | none => simp [hl hk]
  | some e => rfl

end
end Sys2Proof.Laws

namespace Sys2Proof.Proofs
open Sys2Proof Sys2Proof.Machine Sys2Proof.Safety Sys2Proof.Laws

/-- Settles O32, check by check in the order of `preCheck`. -/
theorem sharedChecks : Obligations.SharedChecks := by
  unfold Obligations.SharedChecks
  intro i s hraw
  obtain ⟨body, hexec⟩ := exec_eq_issue (Option.isSome_iff_ne_none.mp hraw) s
  rw [hexec]
  refine ⟨fun hc => congrArg Host.Outcome.next (issueState_idle body hc), ?_⟩
  intro cur sh k hc hs hk
  have hsh : k.sh = sh := by rw [hk]; rfl
  have hsid : k.sid = cur.sid := by rw [hk]; rfl
  have traps (hf : sh.frozen = false) (c : Cause) (m : LaneSet) (hp : preCheck i k = some (k.trap c m 0)) : Traps i k s c m 0 := by
    rw [Traps, hexec, hsid]
    exact congrArg Host.Outcome.next (issueState_check body hc hs hf (hk ▸ hp))
  refine ⟨fun hf => congrArg Host.Outcome.next (issueState_frozen body hc hs hf), fun hf => ⟨?_, ?_⟩⟩
  · intro hpriv hserves
    exact traps hf .priv k.path (preCheck_priv hpriv (hsh ▸ hserves))
  subst hsh
  intro hpriv
  refine ⟨fun hover => traps hf .regb k.path (preCheck_regb hpriv hover), fun hbudget => ⟨?_, ?_⟩⟩
  · intro m hrep hm hbits
    have hbad : m = k.badLatch i := BitVec.eq_of_getLsbD_eq fun l hl =>
      Bool.eq_iff_iff.mpr ((hbits l hl).trans (getLsbD_badLatch l hl).symm)
    exact traps hf .latch m (preCheck_latch hpriv hbudget hrep hm hbad)
  · intro hvalid he
    have hbad (hrep : k.replay = none) : k.badLatch i = 0 := by
      rw [laneSet_eq_zero_iff]
      intro l hl
      rw [← Bool.not_eq_true, getLsbD_badLatch l hl]
      rintro ⟨hw, hle, u, hu, n, hn, hinv⟩
      rw [hvalid hrep l hl hw hle u hu n hn] at hinv
      exact Bool.noConfusion hinv
    refine ⟨_, rfl, ?_⟩
    rw [issueState_empty body hc hs hf hk (preCheck_none hpriv hbudget hbad) he]
    exact retire_lanesOnly i s k (hsid ▸ hs)
end Sys2Proof.Proofs
end

section
/-! ## What a step runs -/

namespace Sys2Proof.Laws
open Sys2Proof Sys2Proof.Machine Sys2Proof.Safety

/-! ### What a step issues -/

/-- Where a cycle still owes an issue, the step runs what its head issues. -/
theorem step_of_issueOf {s u : State} {p : Planned} {r : List Planned} {i : Instr} (ho : s.rel.overtemp = false)
    (hs : s.slot = p :: r) (hi : State.issueOf { s with slot := r } p = (some i, u)) : step s = exec i u := by
  simp only [step, State.nextMove, ho, hs, hi, Bool.false_eq_true, if_false]

section
variable {s s1 : State} {p : Planned} {sh : Sheaf} {ws : List Word} {lanes : LaneSet}
  (hs : s.sheaf? p.sid = some sh) (hf : sh.frozen = false) (hn : sh.unfinished < 8) (hp : p.rep = false)
  (hl : lanes = laneSetOf sh.width (fun l => p.lanes.getLsbD l && !(sh.lane l).exited && (sh.lane l).pc == p.pc)) (h0 : lanes ≠ 0)
  (hw : s.fetch sh.core sh.ctx p.pc = (.words ws, s1))
include hs hf hn hp hl h0 hw

/-- Words fetched that decode, where no unit is full: the instruction issues for the lanes that stand at the path. -/
theorem issueOf_decoded {i : Instr} (hd : decode ws = .ok i) (hu : s1.unitFull (s1.seen p.sid sh i lanes p.pc ws none) i = false) :
    s.issueOf p = (some i, { s1.markTurn p lanes with cur := some ⟨p.sid, lanes, p.pc, ws, none, none, []⟩ }) := by
  subst hl
  have hgo : ¬ (_ ∨ 8 ≤ sh.unfinished) := not_or.mpr ⟨h0, Nat.not_le.mpr hn⟩
  simp only [State.issueOf, hs, hf, hp, hw, hd, hu, if_neg hgo, Bool.false_eq_true, if_false]

/-- Words fetched that do not decode raise ILL. -/
theorem issueOf_illegal {why : Illegal} (hd : decode ws = .illegal why) :
    s.issueOf p = (some .illegalEncoding, { s1.markTurn p lanes with cur := some ⟨p.sid, lanes, p.pc, ws, none, none, []⟩ }) := by
  subst hl
  have hgo : ¬ (_ ∨ 8 ≤ sh.unfinished) := not_or.mpr ⟨h0, Nat.not_le.mpr hn⟩
  simp only [State.issueOf, hs, hf, hp, hw, hd, if_neg hgo, Bool.false_eq_true, if_false]

end

/-- The head of a replay queue issues from its captured words (19 R327). -/
theorem issueOf_replay {s : State} {p : Planned} {sh : Sheaf} {e : Replay} {rest : List Replay} {i : Instr}
    (hs : s.sheaf? p.sid = some sh) (hf : sh.frozen = false) (hp : p.rep = true) (hr : sh.replay = e :: rest)
    (he : e.dead sh = false) (hd : decode (e.words.take e.len) = .ok i)
    (hu : s.unitFull (s.seen p.sid sh i e.e e.pc (e.words.take e.len) (some e)) i = false) :
    s.issueOf p = (some i, { (s.markTurn p e.e).modSheaf p.sid (fun sh => sh.modLanes e.e (fun _ l => l.killLatches)) with
      cur := some ⟨p.sid, e.e, e.pc, e.words.take e.len, some e, none, []⟩ }) := by
  simp only [State.issueOf, hs, hf, hp, hr, he, hd, hu, Bool.false_eq_true, if_false, if_true]

/-- A word that translates, whose unit answers, that holds no error and that the instruction cache does not hold is fetched
from memory. -/
theorem fetchWord_uncached {s s1 : State} {core ctx : Nat} {a : DWord} {pa pte hd : Nat} {ho : Bool}
    (ht : s.translate (some core) ctx a .fetch false = (.ok pa pte hd ho, s1)) (hw : s1.unitWaits (pa, 4, pte, hd, ho) = false)
    (hp : s1.poisoned pa 4 = false) (hc : (s1.core core).icache.find? (pa / 4) = none) :
    (s.fetchWord core ctx a).1 = .ok (BitVec.ofNat 32 (natOfBytes (s1.physRead pa 4))) := by
  simp only [State.fetchWord, State.physNat, ht, hw, hp, hc, Bool.false_eq_true, if_false]
end Sys2Proof.Laws

namespace Sys2Proof.Proofs
open Sys2Proof Sys2Proof.Machine Sys2Proof.Safety Sys2Proof.Laws

/-- Settles O58: a step runs what `issueOf` gives for the head of its slot. -/
theorem stepRunsTheDecoded : Obligations.StepRunsTheDecoded := by
  unfold Obligations.StepRunsTheDecoded
  refine ⟨?_, ?_, ?_⟩
  · intro s p r sh ws s1 ho hslot hs hf hn hp hw lanes u h0
    have hs' : ({ s with slot := r } : State).sheaf? p.sid = some sh := hs
    refine ⟨fun i hd hu => ?_, fun why hd => ?_⟩
    · exact step_of_issueOf ho hslot (issueOf_decoded hs' hf hn hp rfl h0 hw hd hu)
    · exact step_of_issueOf ho hslot (issueOf_illegal hs' hf hn hp rfl h0 hw hd)
  · intro s p r sh e rest i ho hslot hs hf hp hr he hd v hu
    have hs' : v.sheaf? p.sid = some sh := hs
    exact step_of_issueOf ho hslot (issueOf_replay hs' hf hp hr he hd hu)
  · intro s core ctx a pa pte hd ho s1 ht hw hp hc
    exact fetchWord_uncached ht hw hp hc
end Sys2Proof.Proofs
end

section
/-! ## Branches, exits, masks and the holds on them (04 R68 to R81) -/

namespace Sys2Proof.Laws
open Sys2Proof Sys2Proof.Machine Sys2Proof.Safety

/-! ### Lanes of a set -/

/-- The lowest lane of a set that is not empty is in it, and no lane below it is. -/
theorem lowestLane_spec {m : LaneSet} (h : m ≠ 0) :
    m.getLsbD (lowestLane m) = true ∧ ∀ l < lowestLane m, m.getLsbD l = false := by
  cases hf : (List.range 64).find? (fun l => m.getLsbD l) with
  | none =>
    refine absurd ((laneSet_eq_zero_iff m).mpr fun l hl => ?_) h
    exact Bool.eq_false_of_not_eq_true (List.find?_eq_none.mp hf l (List.mem_range.mpr hl))
  | some j =>
    have hj : lowestLane m = j := by rw [lowestLane, lanesOf, List.headD_eq_head?_getD, List.head?_filter, hf]; rfl
    obtain ⟨hin, -, hbelow⟩ := List.find?_range_eq_some.mp hf
    rw [hj]
    exact ⟨hin, fun l hl => Bool.eq_false_of_not_eq_true' (hbelow l hl)⟩

/-- The full mask holds every lane of the sheaf. -/
theorem getLsbD_full {sh : Sheaf} {l : Nat} (hw : l < sh.width) (hl : l < 64) : sh.full.getLsbD l = true := by
  rw [Sheaf.full, fullSet, BitVec.getLsbD_ofNat, Nat.testBit_two_pow_sub_one, decide_eq_true hw, decide_eq_true hl]
  rfl

/-- What MKLOG makes of a lane (Table 4.2). -/
def mklogBit (k : Ctx) (l : Nat) : MkLog → Bool
  | .and a b => (k.sh.mask a).getLsbD l && (k.sh.mask b).getLsbD l
  | .or a b => (k.sh.mask a).getLsbD l || (k.sh.mask b).getLsbD l
  | .andn a b => (k.sh.mask a).getLsbD l && !(k.sh.mask b).getLsbD l
  | .xor a b => xor ((k.sh.mask a).getLsbD l) ((k.sh.mask b).getLsbD l)
  | .mov a => (k.sh.mask a).getLsbD l
  | .clr => false
  | .not a => !(k.sh.mask a).getLsbD l

theorem getLsbD_andNot (a b : LaneSet) {l : Nat} (hl : l < 64) : (a &&& ~~~b).getLsbD l = (a.getLsbD l && !b.getLsbD l) := by
  rw [BitVec.getLsbD_and, BitVec.getLsbD_not, decide_eq_true hl, Bool.true_and]

theorem getLsbD_mklogOf (k : Ctx) (x : MkLog) {l : Nat} (hw : l < k.sh.width) (hl : l < 64) :
    (mklogOf k x).getLsbD l = mklogBit k l x := by
  cases x with
  | and a b => exact BitVec.getLsbD_and
  | or a b => exact BitVec.getLsbD_or
  | andn a b => exact getLsbD_andNot _ _ hl
  | xor a b => exact BitVec.getLsbD_xor
  | mov a => rfl
  | clr => exact BitVec.getLsbD_zero
  | not a => rw [mklogOf, getLsbD_andNot _ _ hl, getLsbD_full hw hl, Bool.true_and, mklogBit]

/-! ### Where E is empty -/

/-- An instruction that is not privileged and names no register passes the shared checks. -/
theorem preCheck_none_of_noRegs {i : Instr} (k : Ctx) (hp : i.privileged = false) (hs : i.srcs = []) (hd : i.dsts = []) :
    preCheck i k = none := by
  refine preCheck_none (fun h => absurd h (by rw [hp]; exact Bool.false_ne_true)) ?_ fun _ => ?_
  · rw [hs, hd]; nofun
  · rw [laneSet_eq_zero_iff]
    intro l hl
    rw [← Bool.not_eq_true, getLsbD_badLatch l hl, hs]
    rintro ⟨-, -, u, hu, -⟩
    exact List.not_mem_nil hu

theorem exec_empty {i : Instr} {s : State} {cur : Cursor} {sh : Sheaf} {k : Ctx} {body : Ctx → Except TrapInfo Done}
    (hi : exec i s = issue i s body) (h : Spec.Stands i s cur sh k) (hc : preCheck i k = none) (he : k.e = 0) :
    ∃ t, exec i s = .next t ∧ LanesOnly i s t k (fun _ x => x) (fun _ x => goesOn i k x) := by
  obtain ⟨hcur, hsh, hk, hf⟩ := h
  refine ⟨_, hi, ?_⟩
  rw [issueState_empty body hcur hsh hf hk hc he]
  refine retire_lanesOnly i s k ?_
  subst hk
  exact hsh

/-! ### The shapes of the control instructions

`body` is what the instruction does once the shared checks have passed. -/

section
variable {i : Instr} {s : State} {k : Ctx} {body : Ctx → Except TrapInfo Done}

/-- A lane of the path where the instruction gives neither a target nor a result (04 R63). -/
theorem issued_fallsThrough (u : State) (l : Nat) (x : Lane) (hu : i.cls ≠ .uniform) :
    x.issued i k { st := u } l = shifted k none x :=
  (issued_goesOn i k u l x).trans (if_neg hu)

/-- The same, where the lanes of a set stay at the instruction. -/
theorem issued_staysOrFalls (u : State) (m : LaneSet) (l : Nat) (x : Lane) (hu : i.cls ≠ .uniform) :
    x.issued i k { st := u, stay := m } l = if m.getLsbD l then shiftedAt x.pc none x else shifted k none x := by
  split
  · next hm =>
    simp only [Lane.issued, if_pos hm, if_neg hu, Bool.false_and, Bool.false_eq_true, if_false, List.lookup_nil, ite_self]
    rfl
  · next hm =>
    rw [issued_shifted i k _ l x hu rfl (Bool.eq_false_of_not_eq_true hm) rfl, List.lookup_nil, ite_self]

variable (hi : exec i s = issue i s body) (h : Issues i s k) (hu : i.cls ≠ .uniform)
include hi h hu

/-- A branch of the lanes of E (04 R75). -/
theorem exec_jump {f : Nat → DWord} (hb : body k = .ok (jumpDone s f)) : ∃ t, exec i s = .next t ∧
    LanesOnly i s t k (fun _ x => x) (fun l x => if k.e.getLsbD l then jumped (f l) x else shifted k none x) :=
  ⟨_, hi, issue_none i s k body _ _ h hb rfl rfl rfl fun l _ x _ =>
    issued_jumped i k _ f l x hu rfl BitVec.getLsbD_zero rfl rfl⟩

/-- Only the path goes on (04 R81). -/
theorem exec_noEffect (hb : body k = .ok { st := s }) :
    ∃ t, exec i s = .next t ∧ LanesOnly i s t k (fun _ x => x) (fun _ x => shifted k none x) :=
  ⟨_, hi, issue_none i s k body _ _ h hb rfl rfl rfl fun l _ x _ => issued_fallsThrough s l x hu⟩

/-- The end of the lanes of E (04 R79). -/
theorem exec_exit (hb : body k = .ok (exitDone s k)) : ∃ t, exec i s = .next t ∧ LanesOnly i s t k
    (fun l x => if k.e.getLsbD l then { x with exited := true, hold := .none, depth := 0, chip := [] } else x)
    (fun _ x => shifted k none x) :=
  ⟨_, hi, issue_lanes i s k body _ k.e _ _ h hb rfl rfl rfl fun l _ x _ => issued_fallsThrough _ l x hu⟩

/-- The mark of a sheaf that yields (04 R80). -/
theorem exec_yield (hb : body k = .ok { st := s.modSheaf k.sid (fun sh => { sh with yielded := true }) }) :
    ∃ t sh, exec i s = .next t ∧ t = withSheaf i s k sh ∧ sh.yielded = true ∧
      { sh with lanes := k.sh.lanes, replay := k.sh.replay, yielded := k.sh.yielded } = k.sh ∧
      LanesAfter k sh (fun _ x => x) (fun _ x => shifted k none x) := by
  have hs := issues_sheaf h
  rw [hi, issue, issueState_of i s k body h _ hb rfl rfl,
    retire_sheaf s i k _ { k.sh with yielded := true } hs (.inr (modSheaf_some _ _ _ _ hs)) rfl rfl]
  refine ⟨_, _, rfl, rfl, ?_, ?_, ?_⟩
  · split
    · rfl
    · rw [modLanes_eq]
  · split
    · rfl
    · rw [modLanes_eq]
  · exact lanesAfter_of i k _ _ _ _ (fun _ _ => rfl) rfl fun _ l _ x _ => issued_fallsThrough _ l x hu

/-- A hold of the lanes of E that are in a mask (04 R71, R73). -/
theorem exec_hold {m : Fin 12} {w : Hold} (hb : body k = .ok (holdDone s k m w)) : ∃ t, exec i s = .next t ∧ LanesOnly i s t k
    (fun l x => if (k.e &&& k.sh.mask m).getLsbD l then x.holdAt w else x)
    (fun l x => if (k.e &&& k.sh.mask m).getLsbD l then shiftedAt x.pc none x else shifted k none x) :=
  ⟨_, hi, issue_lanes i s k body _ (k.e &&& k.sh.mask m) _ _ h hb rfl rfl rfl fun l _ x _ => issued_staysOrFalls _ _ l x hu⟩

end

/-- A write of one mask (04 R65, R66). -/
theorem exec_maskWrite {i : Instr} {s : State} {k : Ctx} {m : Fin 12} (v : Ctx → LaneSet)
    (hi : exec i s = issue i s (fun k => .ok (maskDone s k m (v k)))) (h : Issues i s k) (hu : i.cls ≠ .uniform) :
    ∃ t, exec i s = .next t ∧ MaskResult i s t k m (v k) (fun _ x => shifted k none x) :=
  ⟨_, hi, issue_mask i s k m v _ h fun l _ x => issued_fallsThrough _ l x hu⟩
end Sys2Proof.Laws

namespace Sys2Proof.Proofs
open Sys2Proof Sys2Proof.Machine Sys2Proof.Safety Sys2Proof.Laws

/-- Settles O7: both forms jump to the first byte plus 4 times the offset; where E is empty no check stops them. -/
theorem branchTargets : Obligations.BranchTargets := by
  unfold Obligations.BranchTargets
  refine ⟨?_, ?_, ?_⟩
  · intro g off s k h
    rw [← signExtend_shiftLeft_two]
    exact exec_jump rfl h nofun rfl
  · intro g imm s k h
    rw [← signExtend_shiftLeft_two]
    exact exec_jump rfl h nofun rfl
  · rintro i g off imm s cur sh k (rfl | rfl) h he
    all_goals exact exec_empty rfl h (preCheck_none_of_noRegs k rfl rfl rfl) he

/-- Settles O9: the body of NOP changes nothing. -/
theorem nopEffect : Obligations.NopEffect := by
  unfold Obligations.NopEffect
  rintro i g s k (rfl | rfl) h
  all_goals exact exec_noEffect rfl h nofun rfl

/-- Settles O10: the bodies of EXIT and YIELD raise nothing and never block. -/
theorem exitAndYield : Obligations.ExitAndYield := by
  unfold Obligations.ExitAndYield
  refine ⟨?_, ?_⟩
  · rintro i g s k (rfl | rfl) h
    all_goals exact exec_exit rfl h nofun rfl
  · rintro i g s k (rfl | rfl) h
    all_goals exact exec_yield rfl h nofun rfl

/-- Settles O11: the mask written is E itself; where E is empty no check stops MKCUR. -/
theorem maskOfCurrent : Obligations.MaskOfCurrent := by
  unfold Obligations.MaskOfCurrent
  refine ⟨?_, ?_⟩
  · rintro i g m s k (rfl | rfl) h
    all_goals exact exec_maskWrite (·.e) rfl h nofun
  · rintro i g m s cur sh k (rfl | rfl) h he
    all_goals exact exec_empty rfl h (preCheck_none_of_noRegs k rfl rfl rfl) he

/-- Settles O12: each writes one mask once, but MKTOS, which writes a pair in the lanes of E. -/
theorem maskOperations : Obligations.MaskOperations := by
  unfold Obligations.MaskOperations
  refine ⟨?_, ?_, ?_, ?_⟩
  · rintro i g m s k (rfl | rfl) h
    all_goals exact exec_maskWrite (fun k => k.sh.mask m &&& ~~~k.e) rfl h nofun
  · intro g d x s k h
    obtain ⟨t, ht, hm⟩ := exec_maskWrite (fun k => mklogOf k x) rfl h nofun
    refine ⟨t, _, ht, hm, fun l hw hl => ?_⟩
    rw [getLsbD_mklogOf k x hw hl]
    cases x <;> rfl
  · intro g m a s k h
    obtain ⟨hin, hbelow⟩ := lowestLane_spec h.some_
    obtain ⟨t, ht, hm⟩ := exec_maskWrite (fun k => k.pairA a (lowestLane k.e)) rfl h nofun
    exact ⟨t, _, ht, hin, hbelow, hm⟩
  · intro g d m s k hw h
    have hd : d.isLaneDst = true := by
      simp only [Instr.wf, Bool.and_eq_true] at hw; exact hw.1
    exact ⟨_, rfl, issue_group _ s k d (fun k _ => Spec.pair (k.sh.mask m)) h nofun hd⟩

/-- Settles O13: the lanes of E in the mask stay with their hold records, the others fall through. -/
theorem heldLanes : Obligations.HeldLanes := by
  unfold Obligations.HeldLanes
  refine ⟨?_, ?_⟩
  · rintro i g m s k (rfl | rfl) h
    all_goals exact exec_hold (w := .join m k.pc k.len) rfl h nofun rfl
  · intro g m s k h
    exact exec_hold (w := .waitm m) rfl h nofun rfl
end Sys2Proof.Proofs
end

section
/-! ## The integer instructions of the lane set (05 R92 to R100) -/

namespace Sys2Proof.Laws
open Sys2Proof Sys2Proof.Machine Sys2Proof.Safety

/-! ### The shapes of the results -/

theorem isLaneDst_reg (d : Dst) : d.reg.isLaneDst = true := by cases d <;> rfl

section
variable {i : Instr} {s : State} {k : Ctx}

theorem exec_lane1 {d : Dst} {f : Ctx → Nat → Word} (hi : exec i s = lane1 i s d f) (h : Issues i s k)
    (hu : i.cls ≠ .uniform) : ∃ t, exec i s = .next t ∧ LaneResult i s t k d.reg (fun l => [f k l]) :=
  ⟨_, hi, issue_group i s k d.reg (fun k l => [f k l]) h hu (isLaneDst_reg d)⟩

theorem exec_lane2 {d : Reg} {f : Ctx → Nat → DWord} (hi : exec i s = lane2 i s d f) (h : Issues i s k)
    (hu : i.cls ≠ .uniform) (hd : d.isLaneDst = true) :
    ∃ t, exec i s = .next t ∧ LaneResult i s t k d (fun l => Spec.pair (f k l)) :=
  ⟨_, hi, issue_group i s k d (fun k l => Spec.pair (f k l)) h hu hd⟩

theorem exec_laneP {p : Fin 7} {f : Ctx → Nat → Bool} (hi : exec i s = laneP i s p f) (h : Issues i s k)
    (hu : i.cls ≠ .uniform) : ∃ t, exec i s = .next t ∧ PredResult i s t k p.val (f k) :=
  ⟨_, hi, issue_pred i s k p.val f h hu⟩

end

/-! ### Types of 32 bits -/

theorem s32_or_z32 {t : Ty} (h : t.isOneOf [.s32, .z32] = true) : t = .s32 ∨ t = .z32 := by
  simp only [Ty.isOneOf, List.any_cons, List.any_nil, Bool.or_false, Bool.or_eq_true, decide_eq_true_iff] at h
  exact h.imp Eq.symm Eq.symm

theorem signed_eq_decide {t : Ty} (h : t.isOneOf [.s32, .z32] = true) : Ty.signed t = decide (t = .s32) := by
  obtain rfl | rfl := s32_or_z32 h <;> rfl

theorem ext_eq_spec {t : Ty} (h : t.isOneOf [.s32, .z32] = true) (x : Word) : ext t x = Spec.ext t x := by
  obtain rfl | rfl := s32_or_z32 h <;> rfl

/-- An operand is its own value modulo 2^32, under both types. -/
theorem ofInt_ext (t : Ty) (x : Word) : BitVec.ofInt 32 (ext t x) = x := by
  unfold ext
  split
  · exact BitVec.ofInt_toInt
  · rw [BitVec.ofInt_natCast, BitVec.ofNat_toNat, BitVec.setWidth_eq]

theorem ext64_eq_ofInt (t : Ty) (x : Word) : ext64 t x = BitVec.ofInt 64 (ext t x) := by
  unfold ext64 ext
  split
  · rfl
  · rw [BitVec.ofInt_natCast, BitVec.ofNat_toNat]

/-! ### Values of R92 and R93 -/

theorem clamp_eq_max_min {lo hi : Int} (h : lo ≤ hi) (x : Int) : Num.clamp lo hi x = max lo (min hi x) := by
  unfold Num.clamp; split
  · omega
  · split <;> omega

/-- .SAT clamps to the range of the type. -/
theorem satOr_eq_fit {t : Ty} (h : t.isOneOf [.s32, .z32] = true) (sat : Bool) (x : Int) :
    satOr t sat x = Spec.fit t sat x := by
  unfold satOr Spec.fit Spec.clampTo
  rw [signed_eq_decide h, clamp_eq_max_min (by decide), clamp_eq_max_min (by decide)]
  cases sat with
  | false => rfl
  | true => by_cases ht : t = .s32 <;> simp [ht]

theorem iadd_eq_fit {t : Ty} (h : t.isOneOf [.s32, .z32] = true) (sat : Bool) (a b : Word) :
    iadd t sat a b = Spec.fit t sat (Spec.ext t a + Spec.ext t b) := by
  rw [iadd, satOr_eq_fit h, ext_eq_spec h, ext_eq_spec h]

theorem isub_eq_fit {t : Ty} (h : t.isOneOf [.s32, .z32] = true) (sat : Bool) (a b : Word) :
    isub t sat a b = Spec.fit t sat (Spec.ext t a - Spec.ext t b) := by
  rw [isub, satOr_eq_fit h, ext_eq_spec h, ext_eq_spec h]

theorem hiWord_ofInt (x : Int) : hiWord (BitVec.ofInt 64 x) = BitVec.ofInt 32 (x / 2 ^ 32) := by
  apply BitVec.eq_of_toNat_eq
  rw [hiWord, BitVec.extractLsb'_toNat, BitVec.toNat_ofInt, BitVec.toNat_ofInt, Nat.shiftRight_eq_div_pow]
  omega

theorem imulh_eq_ofInt {t : Ty} (h : t.isOneOf [.s32, .z32] = true) (a b : Word) :
    imulh t a b = BitVec.ofInt 32 (Spec.ext t a * Spec.ext t b / 2 ^ 32) := by
  rw [imulh, hiWord_ofInt, ext_eq_spec h, ext_eq_spec h]

theorem imin_eq_ofInt_min {t : Ty} (h : t.isOneOf [.s32, .z32] = true) (a b : Word) :
    imin t a b = BitVec.ofInt 32 (min (Spec.ext t a) (Spec.ext t b)) := by
  rw [← ext_eq_spec h, ← ext_eq_spec h, imin]
  split
  · next hlt => rw [min_eq_right hlt.le, ofInt_ext]
  · next hge => rw [min_eq_left (not_lt.mp hge), ofInt_ext]

theorem imax_eq_ofInt_max {t : Ty} (h : t.isOneOf [.s32, .z32] = true) (a b : Word) :
    imax t a b = BitVec.ofInt 32 (max (Spec.ext t a) (Spec.ext t b)) := by
  rw [← ext_eq_spec h, ← ext_eq_spec h, imax]
  split
  · next hlt => rw [max_eq_right hlt.le, ofInt_ext]
  · next hge => rw [max_eq_left (not_lt.mp hge), ofInt_ext]

theorem mul_eq_ofNat (a b : Word) : a * b = BitVec.ofNat 32 (a.toNat * b.toNat) := by
  rw [BitVec.ofNat_mul, BitVec.ofNat_toNat, BitVec.ofNat_toNat, BitVec.setWidth_eq, BitVec.setWidth_eq]

theorem mul_add_eq_ofNat (a b c : Word) : a * b + c = BitVec.ofNat 32 (a.toNat * b.toNat + c.toNat) := by
  rw [BitVec.ofNat_add, ← mul_eq_ofNat, BitVec.ofNat_toNat, BitVec.setWidth_eq]

theorem ofInt_toNat64 (x : DWord) : BitVec.ofInt 64 (x.toNat : Int) = x := by
  rw [BitVec.ofInt_natCast, BitVec.ofNat_toNat, BitVec.setWidth_eq]

theorem imadw_eq_ofInt {t : Ty} (h : t.isOneOf [.s32, .z32] = true) (a b : Word) (c : DWord) :
    imadw t a b c = BitVec.ofInt 64 (Spec.ext t a * Spec.ext t b + c.toNat) := by
  rw [imadw, ext64_eq_ofInt, ext64_eq_ofInt, BitVec.ofInt_add, BitVec.ofInt_mul, ofInt_toNat64, ext_eq_spec h, ext_eq_spec h]

theorem ofInt_two_pow (n : Nat) : BitVec.ofInt 64 (2 ^ n) = BitVec.twoPow 64 n := by
  rw [show (2 : Int) ^ n = ((2 ^ n : Nat) : Int) from (Nat.cast_pow 2 n).symm, BitVec.ofInt_natCast]
  apply BitVec.eq_of_toNat_eq
  rw [BitVec.toNat_ofNat, BitVec.toNat_twoPow]

theorem lea_eq_ofInt {t : Ty} (h : t.isOneOf [.s32, .z32] = true) (a : DWord) (b : Word) (n : Nat) :
    lea t a b n = BitVec.ofInt 64 (a.toNat + Spec.ext t b * 2 ^ n) := by
  rw [lea, ext64_eq_ofInt, BitVec.ofInt_add, BitVec.ofInt_mul, ofInt_toNat64, ext_eq_spec h,
    BitVec.shiftLeft_eq_mul_twoPow, ofInt_two_pow]

theorem add_signExtend_eq_ofInt (a : DWord) (b : Word) : a + b.signExtend 64 = BitVec.ofInt 64 (a.toNat + b.toInt) := by
  rw [BitVec.ofInt_add, ofInt_toNat64]; rfl

/-! ### The tables as what the instructions do -/

theorem lane1_congr {i : Instr} {s : State} {d : Dst} {f g : Ctx → Nat → Word} (hi : exec i s = lane1 i s d f)
    (h : ∀ k l, f k l = g k l) : exec i s = lane1 i s d g := by
  rw [hi, funext₂ h]

theorem lane2_congr {i : Instr} {s : State} {d : Reg} {f g : Ctx → Nat → DWord} (hi : exec i s = lane2 i s d f)
    (h : ∀ k l, f k l = g k l) : exec i s = lane2 i s d g := by
  rw [hi, funext₂ h]

/-- Every instruction of R92 writes the value that its row gives. -/
theorem exec_of_arith {i : Instr} {d : Dst} {f : Ctx → Nat → Word} (h : Spec.arith i = some (d, f)) (hw : i.wf = true)
    (s : State) : exec i s = lane1 i s d f ∧ i.cls ≠ .uniform := by
  cases i <;> cases h
  case iaddX64 => exact ⟨lane1_congr rfl fun k l => iadd_eq_fit hw _ _ _, nofun⟩
  case iaddB32 | iaddI64 => exact ⟨lane1_congr rfl fun k l => iadd_eq_fit rfl _ _ _, nofun⟩
  case isubX64 => exact ⟨lane1_congr rfl fun k l => isub_eq_fit hw _ _ _, nofun⟩
  case isubB32 => exact ⟨lane1_congr rfl fun k l => isub_eq_fit rfl _ _ _, nofun⟩
  case iabsB32 | iabsX64 | inegB32 | inegX64 => exact ⟨lane1_congr rfl fun k l => satOr_eq_fit rfl _ _, nofun⟩
  case imulB32 | imulX64 | imulI64 => exact ⟨lane1_congr rfl fun k l => mul_eq_ofNat _ _, nofun⟩
  case imulhX64 => exact ⟨lane1_congr rfl fun k l => imulh_eq_ofInt hw _ _, nofun⟩
  case imulhS32B32 | imulhZ32B32 => exact ⟨lane1_congr rfl fun k l => imulh_eq_ofInt rfl _ _, nofun⟩
  case imad => exact ⟨lane1_congr rfl fun k l => mul_add_eq_ofNat _ _ _, nofun⟩
  case iminX64 => exact ⟨lane1_congr rfl fun k l => imin_eq_ofInt_min hw _ _, nofun⟩
  case iminS32B32 | iminZ32B32 | iminI64 => exact ⟨lane1_congr rfl fun k l => imin_eq_ofInt_min rfl _ _, nofun⟩
  case imaxX64 => exact ⟨lane1_congr rfl fun k l => imax_eq_ofInt_max hw _ _, nofun⟩
  case imaxS32B32 | imaxZ32B32 | imaxI64 => exact ⟨lane1_congr rfl fun k l => imax_eq_ofInt_max rfl _ _, nofun⟩

/-- Every instruction of R93 writes the pair that its row gives. -/
theorem exec_of_arith64 {i : Instr} {d : Reg} {f : Ctx → Nat → DWord} (h : Spec.arith64 i = some (d, f)) (hw : i.wf = true)
    (s : State) : exec i s = lane2 i s d f ∧ i.cls ≠ .uniform ∧ d.isLaneDst = true := by
  cases i <;> cases h <;> simp only [Instr.wf, Bool.and_eq_true] at hw
  case iadd64B32 =>
    obtain ⟨⟨⟨hd, -⟩, -⟩, -⟩ := hw
    exact ⟨rfl, nofun, hd⟩
  case iadd64X64 =>
    obtain ⟨⟨⟨⟨hd, -⟩, -⟩, -⟩, -⟩ := hw
    exact ⟨rfl, nofun, hd⟩
  case imadw =>
    obtain ⟨⟨⟨hd, ht⟩, -⟩, -⟩ := hw
    exact ⟨lane2_congr rfl fun k l => imadw_eq_ofInt ht _ _ _, nofun, hd⟩
  case leaX64 =>
    obtain ⟨⟨⟨hd, ht⟩, -⟩, -⟩ := hw
    exact ⟨lane2_congr rfl fun k l => lea_eq_ofInt ht _ _ _, nofun, hd⟩
  case leaI64 =>
    obtain ⟨⟨hd, -⟩, -⟩ := hw
    exact ⟨lane2_congr rfl fun k l => add_signExtend_eq_ofInt _ _, nofun, hd⟩
end Sys2Proof.Laws

namespace Sys2Proof.Proofs
open Sys2Proof Sys2Proof.Machine Sys2Proof.Safety Sys2Proof.Laws

/-- Settles O1: each meaning is the value of its row, written to one register or to a pair in the lanes of E. -/
theorem arithmeticResults : Obligations.ArithmeticResults := by
  unfold Obligations.ArithmeticResults
  refine ⟨?_, ?_⟩
  · intro i d f s k hi hw h
    obtain ⟨hexec, hu⟩ := exec_of_arith hi hw s
    exact exec_lane1 hexec h hu
  · intro i d f s k hi hw h
    obtain ⟨hexec, hu, hd⟩ := exec_of_arith64 hi hw s
    exact exec_lane2 hexec h hu hd
end Sys2Proof.Proofs
end

section
/-! ## Shifts, rotations, bits and bit fields (05 R94 to R96, R100) -/

namespace Sys2Proof.Laws
open Sys2Proof Sys2Proof.Machine Sys2Proof.Safety

/-! ### Shifts and rotations -/

theorem shiftLeft_eq_ofNat (a : Word) (n : Nat) : a <<< n = BitVec.ofNat 32 (a.toNat * 2 ^ n) := by
  apply BitVec.eq_of_toNat_eq
  rw [BitVec.toNat_shiftLeft, Nat.shiftLeft_eq, BitVec.toNat_ofNat]

theorem ushiftRight_eq_ofNat (a : Word) (n : Nat) : a >>> n = BitVec.ofNat 32 (a.toNat / 2 ^ n) := by
  apply BitVec.eq_of_toNat_eq
  rw [BitVec.toNat_ushiftRight, Nat.shiftRight_eq_div_pow, BitVec.toNat_ofNat,
    Nat.mod_eq_of_lt (Nat.lt_of_le_of_lt (Nat.div_le_self _ _) a.isLt)]

/-- A signed shift by the width or more leaves the sign. -/
theorem sshiftRight_of_width_le (a : Word) {n : Nat} (hn : 32 ≤ n) : a.sshiftRight n = if a.msb then 0xFFFFFFFF else 0 := by
  cases hm : a.msb with
  | true => rw [BitVec.sshiftRight_eq_of_msb_true hm, BitVec.ushiftRight_eq_zero hn]; rfl
  | false => rw [BitVec.sshiftRight_eq_of_msb_false hm, BitVec.ushiftRight_eq_zero hn]; rfl

theorem shl_eq_left (a : Word) (n : Nat) : shl a n = Spec.left a n := by
  rw [Spec.left, ← shiftLeft_eq_ofNat, shl]
  split
  · next hn => exact (BitVec.shiftLeft_eq_zero hn).symm
  · rfl

theorem shr_s32_eq_right (a : Word) (n : Nat) : shr .s32 a n = Spec.right .s32 a n := by
  have hshift : shr .s32 a n = a.sshiftRight n := by
    simp only [shr, Ty.signed, if_true]
    split
    · next hn => exact (sshiftRight_of_width_le a hn).symm
    · rfl
  rw [hshift, BitVec.sshiftRight, Int.shiftRight_eq_div_pow, Nat.cast_pow]
  rfl

theorem shr_z32_eq_right (a : Word) (n : Nat) : shr .z32 a n = Spec.right .z32 a n := by
  have hshift : shr .z32 a n = a >>> n := by
    simp only [shr, Ty.signed, Bool.false_eq_true, if_false]
    split
    · next hn => exact (BitVec.ushiftRight_eq_zero hn).symm
    · rfl
  rw [hshift, ushiftRight_eq_ofNat, ← BitVec.ofInt_natCast, Int.natCast_ediv, Nat.cast_pow]
  rfl

theorem shr_eq_right {t : Ty} (h : t.isOneOf [.s32, .z32] = true) (a : Word) (n : Nat) : shr t a n = Spec.right t a n := by
  obtain rfl | rfl := s32_or_z32 h
  · exact shr_s32_eq_right a n
  · exact shr_z32_eq_right a n

theorem toNat_pairOf (a b : Word) : (pairOf a b).toNat = b.toNat * 2 ^ 32 + a.toNat := by
  rw [pairOf, BitVec.toNat_append, ← Nat.shiftLeft_add_eq_or_of_lt a.isLt, Nat.shiftLeft_eq]

/-- SHF takes the high word of the pair shifted left, or the low word of the pair shifted right. -/
theorem shf_eq_funnel (a b c : Word) (lft wrap : Bool) : shf a b c lft wrap = Spec.funnel a b c lft wrap := by
  have hl (n : Nat) : (if 64 ≤ n then 0 else pairOf a b <<< n) = pairOf a b <<< n :=
    ite_eq_right_iff.mpr fun hn => (BitVec.shiftLeft_eq_zero hn).symm
  have hr (n : Nat) : (if 64 ≤ n then 0 else pairOf a b >>> n) = pairOf a b >>> n :=
    ite_eq_right_iff.mpr fun hn => (BitVec.ushiftRight_eq_zero hn).symm
  apply BitVec.eq_of_toNat_eq
  simp only [shf, Spec.funnel, hl, hr]
  cases lft with
  | true =>
    simp only [if_true, hiWord, BitVec.extractLsb'_toNat, BitVec.toNat_shiftLeft, BitVec.toNat_ofNat, toNat_pairOf,
      Nat.shiftLeft_eq, Nat.shiftRight_eq_div_pow]
  | false =>
    simp only [Bool.false_eq_true, if_false, loWord, BitVec.extractLsb'_toNat, BitVec.toNat_ushiftRight, BitVec.toNat_ofNat,
      toNat_pairOf, Nat.shiftRight_eq_div_pow, Nat.pow_zero, Nat.div_one]

/-- A rotation to the left: the bits that leave at the high end come in at the low end. -/
theorem rotateLeft_eq_rotated (a : Word) {n : Nat} (hn : n < 32) : a.rotateLeft n = Spec.rotated a n := by
  have hdisj : a <<< n &&& a >>> (32 - n) = 0#32 := by
    refine BitVec.eq_of_getLsbD_eq fun j hj => ?_
    rw [BitVec.getLsbD_and, BitVec.getLsbD_shiftLeft, BitVec.getLsbD_ushiftRight, BitVec.getLsbD_zero]
    by_cases hlt : j < n
    · simp [hlt]
    · rw [BitVec.getLsbD_of_ge a (32 - n + j) (by omega), Bool.and_false]
  rw [BitVec.rotateLeft_eq_rotateLeftAux_of_lt hn, BitVec.rotateLeftAux, ← BitVec.add_eq_or_of_and_eq_zero _ _ hdisj,
    shiftLeft_eq_ofNat, ushiftRight_eq_ofNat, Spec.rotated, BitVec.ofNat_add]

/-- A rotation to the right is one to the left by what is left of the width. -/
theorem rotateRight_eq_rotated (a : Word) {n : Nat} (hn : n < 32) : a.rotateRight n = Spec.rotated a ((32 - n) % 32) := by
  rw [← rotateLeft_eq_rotated a (Nat.mod_lt _ (by decide))]
  rcases Nat.eq_zero_or_pos n with rfl | hpos
  · rw [BitVec.rotateRight_eq_rotateRightAux_of_lt hn, BitVec.rotateLeft_eq_rotateLeftAux_of_lt hn]
    simp [BitVec.rotateRightAux, BitVec.rotateLeftAux, BitVec.ushiftRight_eq_zero (le_refl 32)]
  · have hlt : 32 - n < 32 := by omega
    rw [Nat.mod_eq_of_lt hlt, BitVec.rotateRight_eq_rotateRightAux_of_lt hn, BitVec.rotateLeft_eq_rotateLeftAux_of_lt hlt,
      BitVec.rotateRightAux, BitVec.rotateLeftAux, Nat.sub_sub_self hn.le, BitVec.or_comm]

theorem rot_eq_rotated (a b : Word) (rgt : Bool) : rot a b rgt =
    if rgt then Spec.rotated a ((32 - b.toNat % 32) % 32) else Spec.rotated a (b.toNat % 32) := by
  have hn : b.toNat % 32 < 32 := Nat.mod_lt _ (by decide)
  rw [rot, rotateRight_eq_rotated a hn, rotateLeft_eq_rotated a hn]

/-! ### The dot product of bytes -/

theorem elem8_signed {t : Ty} (h : t.isOneOf [.s8, .z8] = true) (w : Word) (j : Nat) :
    elem8 (Ty.signed t) w j = if t = .s8 then (wordByte w j).toInt else (wordByte w j).toNat := by
  simp only [Ty.isOneOf, List.any_cons, List.any_nil, Bool.or_false, Bool.or_eq_true, decide_eq_true_iff] at h
  obtain rfl | rfl := h <;> rfl

theorem elem8_not (bz : Bool) (w : Word) (j : Nat) :
    elem8 (!bz) w j = if bz then ((wordByte w j).toNat : Int) else (wordByte w j).toInt := by
  cases bz <;> rfl

/-- The four terms of the sum, in their order. -/
theorem idp4_eq_sum (t : Ty) (bz : Bool) (a b c : Word) : idp4 t bz a b c = BitVec.ofInt 32 (c.toNat +
    elem8 (Ty.signed t) a 0 * elem8 (!bz) b 0 + elem8 (Ty.signed t) a 1 * elem8 (!bz) b 1 +
    elem8 (Ty.signed t) a 2 * elem8 (!bz) b 2 + elem8 (Ty.signed t) a 3 * elem8 (!bz) b 3) := by
  have hsum (f : Nat → Int) : ((List.range 4).map f).foldl (· + ·) 0 = f 0 + f 1 + f 2 + f 3 := by
    rw [← zero_add (f 0)]; rfl
  rw [idp4, hsum, ← add_assoc, ← add_assoc, ← add_assoc]

/-- Every instruction of R94 and R100 writes the value that its row gives. -/
theorem exec_of_shifts {i : Instr} {d : Dst} {f : Ctx → Nat → Word} (h : Spec.shifts i = some (d, f)) (hw : i.wf = true)
    (s : State) : exec i s = lane1 i s d f ∧ i.cls ≠ .uniform := by
  cases i <;> cases h
  case shlB32 | shlX64 | shlI64 => exact ⟨lane1_congr rfl fun k l => shl_eq_left _ _, nofun⟩
  case shrX64 | shrI64 => exact ⟨lane1_congr rfl fun k l => shr_eq_right hw _ _, nofun⟩
  case shrZ32B32 | shrS32B32 => exact ⟨lane1_congr rfl fun k l => shr_eq_right rfl _ _, nofun⟩
  case shf => exact ⟨lane1_congr rfl fun k l => shf_eq_funnel _ _ _ _ _, nofun⟩
  case rot => exact ⟨lane1_congr rfl fun k l => rot_eq_rotated _ _ _, nofun⟩
  case idp4 =>
    refine ⟨lane1_congr rfl fun k l => ?_, nofun⟩
    simp only [idp4_eq_sum, elem8_signed hw, elem8_not]

/-! ### Words given by their bits -/

theorem getLsbD_twoPow32 (k : Nat) {j : Nat} (hj : j < 32) : (BitVec.ofNat 32 (2 ^ k)).getLsbD j = decide (k = j) := by
  rw [BitVec.getLsbD_ofNat, Nat.testBit_two_pow, decide_eq_true hj, Bool.true_and]

/-- The bits of a word built from a test of each bit. -/
theorem getLsbD_wordOfBits (f : Nat → Bool) {j : Nat} (hj : j < 32) : (wordOfBits f).getLsbD j = f j := by
  have hbits (n : Nat) : (List.foldl (fun w k => if f k then w ||| BitVec.ofNat 32 (2 ^ k) else w) (0 : Word)
      (List.range n)).getLsbD j = (decide (j < n) && f j) := by
    induction n with
    | zero => exact BitVec.getLsbD_zero
    | succ n ih =>
      have hstep (w : Word) : (if f n then w ||| BitVec.ofNat 32 (2 ^ n) else w).getLsbD j =
          (w.getLsbD j || (f n && decide (n = j))) := by
        cases f n with
        | true => rw [if_pos rfl, BitVec.getLsbD_or, getLsbD_twoPow32 n hj, Bool.true_and]
        | false => exact (Bool.or_false _).symm
      rw [List.range_succ, List.foldl_append, List.foldl_cons, List.foldl_nil, hstep, ih]
      grind
  rw [wordOfBits, hbits, decide_eq_true hj, Bool.true_and]

theorem getLsbD_tern (lut : BitVec 8) (a b c : Word) {j : Nat} (hj : j < 32) : (tern lut a b c).getLsbD j =
    lut.getLsbD (4 * (a.getLsbD j).toNat + 2 * (b.getLsbD j).toNat + (c.getLsbD j).toNat) := by
  rw [tern, getLsbD_wordOfBits _ hj]
  cases a.getLsbD j <;> cases b.getLsbD j <;> cases c.getLsbD j <;> rfl

theorem getLsbD_brev (a : Word) {j : Nat} (hj : j < 32) : (brev a).getLsbD j = a.getLsbD (31 - j) :=
  getLsbD_wordOfBits _ hj

theorem getLsbD_bfi (a b : Word) (pos len : Nat) {j : Nat} (hj : j < 32) : (bfi a b pos len).getLsbD j =
    if pos ≤ j ∧ j < pos + len then a.getLsbD (j - pos) else b.getLsbD j :=
  getLsbD_wordOfBits (fun k => if pos ≤ k ∧ k < pos + len then a.getLsbD (k - pos) else b.getLsbD k) hj

theorem getLsbD_andNot32 (a b : Word) {j : Nat} (hj : j < 32) : (a &&& ~~~b).getLsbD j = (a.getLsbD j && !b.getLsbD j) := by
  rw [BitVec.getLsbD_and, BitVec.getLsbD_not, decide_eq_true hj, Bool.true_and]

/-- The bits of a field that BFX takes out. -/
theorem testBit_field (a : Word) (pos len j : Nat) :
    (a.toNat / 2 ^ pos % 2 ^ len).testBit j = (decide (j < len) && a.getLsbD (pos + j)) := by
  rw [Nat.testBit_mod_two_pow, Nat.testBit_div_two_pow, Nat.add_comm, BitVec.testBit_toNat]

/-- The sign of a field is its highest bit. -/
theorem half_le_iff_testBit {f len : Nat} (hlen : 0 < len) (hf : f < 2 ^ len) :
    2 ^ (len - 1) ≤ f ↔ f.testBit (len - 1) = true := by
  obtain ⟨n, rfl⟩ : ∃ n, len = n + 1 := ⟨len - 1, by omega⟩
  rw [Nat.add_sub_cancel]
  refine ⟨fun h => ?_, Nat.ge_two_pow_of_testBit⟩
  exact Nat.testBit_of_two_pow_le_and_two_pow_add_one_gt h hf

/-- A field of a word with every bit above it set. -/
theorem ones_above_field (f : Nat) {len : Nat} (hlen : len ≤ 32) : f + 2 ^ 32 - 2 ^ len = 2 ^ len * (2 ^ (32 - len) - 1) + f := by
  have hpow : 2 ^ len * 2 ^ (32 - len) = 2 ^ 32 := by rw [← Nat.pow_add, Nat.add_sub_cancel' hlen]
  have hle : 2 ^ len ≤ 2 ^ 32 := Nat.pow_le_pow_right (by decide) hlen
  rw [Nat.mul_sub, hpow, Nat.mul_one]
  omega

/-- BFX extends its field by the field's highest bit under .S32, and by zeros under .Z32. -/
theorem getLsbD_bfx {t : Ty} {pos len : Nat} (h : t.isOneOf [.s32, .z32] = true) (hlen : pos + len ≤ 32) (a : Word)
    {j : Nat} (hj : j < 32) : (bfx t a pos len).getLsbD j = if j < len then a.getLsbD (pos + j)
      else decide (t = .s32) && decide (0 < len) && a.getLsbD (pos + len - 1) := by
  have hbit := testBit_field a pos len
  have hf : a.toNat / 2 ^ pos % 2 ^ len < 2 ^ len := Nat.mod_lt _ (Nat.two_pow_pos len)
  simp only [bfx, signed_eq_decide h, decide_eq_true_iff]
  generalize a.toNat / 2 ^ pos % 2 ^ len = f at hbit hf
  have htop (hpos : 0 < len) : f.testBit (len - 1) = a.getLsbD (pos + len - 1) := by
    rw [hbit, decide_eq_true (Nat.sub_lt hpos Nat.one_pos), Bool.true_and, Nat.add_sub_assoc hpos]
  split
  · next hneg =>
    obtain ⟨ht, hpos, hhalf⟩ := hneg
    rw [ones_above_field f (by omega), BitVec.getLsbD_ofNat, Nat.testBit_two_pow_mul_add _ hf, Nat.testBit_two_pow_sub_one, hbit,
      ← htop hpos, (half_le_iff_testBit hpos hf).mp hhalf]
    grind
  · next hnonneg =>
    rw [BitVec.getLsbD_ofNat, decide_eq_true hj, Bool.true_and, hbit]
    split
    · next hlt => rw [decide_eq_true hlt, Bool.true_and]
    · next hge =>
      rw [decide_eq_false hge, Bool.false_and, eq_comm, ← Bool.not_eq_true, Bool.and_eq_true, Bool.and_eq_true,
        decide_eq_true_iff, decide_eq_true_iff]
      rintro ⟨⟨ht, hpos⟩, hset⟩
      exact hnonneg ⟨ht, hpos, (half_le_iff_testBit hpos hf).mpr ((htop hpos).trans hset)⟩

theorem clz_eq_log2 (a : Word) : clz a = BitVec.ofNat 32 (if a = 0 then 32 else 31 - Nat.log2 a.toNat) := by
  rw [clz, Num.bitLen]
  by_cases ha : a = 0
  · subst ha; rfl
  · have hne : a.toNat ≠ 0 := fun h => ha (BitVec.eq_of_toNat_eq h)
    rw [if_neg ha, if_neg hne, Nat.add_comm, Nat.sub_add_eq]

/-- Every instruction of R95 and R96 that acts on bits writes a word whose bits its row gives. -/
theorem exec_of_bitsOf95 {i : Instr} {d : Dst} {f : Ctx → Nat → Nat → Bool} (h : Spec.bitsOf95 i = some (d, f))
    (hw : i.wf = true) (s : State) : i.cls ≠ .uniform ∧
      ∃ v, exec i s = lane1 i s d v ∧ ∀ k l, ∀ j < 32, (v k l).getLsbD j = f k l j := by
  cases i <;> cases h
  case andB32 | andX64 | andI64 => exact ⟨nofun, _, rfl, fun k l j _ => BitVec.getLsbD_and⟩
  case orB32 | orX64 | orI64 => exact ⟨nofun, _, rfl, fun k l j _ => BitVec.getLsbD_or⟩
  case xorB32 | xorX64 | xorI64 => exact ⟨nofun, _, rfl, fun k l j _ => BitVec.getLsbD_xor⟩
  case andnB32 | andnX64 => exact ⟨nofun, _, rfl, fun k l j hj => getLsbD_andNot32 _ _ hj⟩
  case tern => exact ⟨nofun, _, rfl, fun k l j hj => getLsbD_tern _ _ _ _ hj⟩
  case brevB32 | brevX64 => exact ⟨nofun, _, rfl, fun k l j hj => getLsbD_brev _ hj⟩
  case bfx =>
    simp only [Instr.wf, Bool.and_eq_true, decide_eq_true_iff] at hw
    obtain ⟨ht, hlen⟩ := hw
    exact ⟨nofun, _, rfl, fun k l j hj => getLsbD_bfx ht hlen _ hj⟩
  case bfi => exact ⟨nofun, _, rfl, fun k l j hj => getLsbD_bfi _ _ _ _ hj⟩

/-- POPC and CLZ write the counts of R95. -/
theorem exec_of_countsOf95 {i : Instr} {d : Dst} {f : Ctx → Nat → Nat} (h : Spec.countsOf95 i = some (d, f)) (s : State) :
    exec i s = lane1 i s d (fun k l => BitVec.ofNat 32 (f k l)) ∧ i.cls ≠ .uniform := by
  cases i <;> cases h
  case popcB32 | popcX64 => exact ⟨rfl, nofun⟩
  case clzB32 | clzX64 => exact ⟨lane1_congr rfl fun k l => clz_eq_log2 _, nofun⟩
end Sys2Proof.Laws

namespace Sys2Proof.Proofs
open Sys2Proof Sys2Proof.Machine Sys2Proof.Safety Sys2Proof.Laws

/-- Settles O2: each meaning is the value of its row, or a word with the bits that its row gives. -/
theorem shiftAndBitResults : Obligations.ShiftAndBitResults := by
  unfold Obligations.ShiftAndBitResults
  refine ⟨?_, ?_, ?_⟩
  · intro i d f s k hi hw h
    obtain ⟨hexec, hu⟩ := exec_of_shifts hi hw s
    exact exec_lane1 hexec h hu
  · intro i d f s k hi hw h
    obtain ⟨hu, v, hexec, hbits⟩ := exec_of_bitsOf95 hi hw s
    obtain ⟨t, ht, hres⟩ := exec_lane1 hexec h hu
    exact ⟨t, v k, ht, hres, hbits k⟩
  · intro i d f s k hi _ h
    obtain ⟨hexec, hu⟩ := exec_of_countsOf95 hi s
    exact exec_lane1 hexec h hu
end Sys2Proof.Proofs
end

section
/-! ## Compares, predicates, selects and moves (05 R97 to R99) -/

namespace Sys2Proof.Laws
open Sys2Proof Sys2Proof.Machine Sys2Proof.Safety

theorem laneP_congr {i : Instr} {s : State} {p : Fin 7} {f g : Ctx → Nat → Bool} (hi : exec i s = laneP i s p f)
    (h : ∀ k l, f k l = g k l) : exec i s = laneP i s p g := by
  rw [hi, funext₂ h]

/-- A source predicate as the specification reads it. -/
theorem lane_pred_eq (k : Ctx) (l : Nat) (p : Pred) : (k.sh.lane l).pred p = Spec.pred k l p := by cases p <;> rfl

theorem condHolds_iff (c : Cond) (a b : Int) : condHolds c a b = true ↔ Spec.cond c a b := by
  cases c <;> exact decide_eq_true_iff

theorem combineWith_eq_combined (x : Combine) (c : Bool) (p : Pred → Bool) : combineWith x c p = Spec.combined x c p := by
  cases x with
  | xor q => exact congrFun₂ Bool.bne_eq_xor _ _
  | _ => rfl

/-- Every instruction of R97 and R99 with one predicate as its result writes the value that its row gives. -/
theorem exec_of_preds {i : Instr} {p : Fin 7} {f : Ctx → Nat → Bool} (h : Spec.preds i = some (p, f)) (hw : i.wf = true)
    (s : State) : exec i s = laneP i s p f ∧ i.cls ≠ .uniform := by
  -- The row of PLOG depends on its operation.
  cases i <;> try cases h
  case icmp =>
    refine ⟨laneP_congr rfl fun k l => ?_, nofun⟩
    have hc {c : Cond} {a b : Int} {_ : Decidable (Spec.cond c a b)} : condHolds c a b = decide (Spec.cond c a b) :=
      Bool.eq_iff_iff.mpr ((condHolds_iff c a b).trans decide_eq_true_iff.symm)
    rw [combineWith_eq_combined, ext_eq_spec hw, ext_eq_spec hw, hc, funext (lane_pred_eq k l)]
  case plog x =>
    cases x <;> cases h
    all_goals exact ⟨laneP_congr rfl fun k l => by simp only [lane_pred_eq, Bool.bne_eq_xor], nofun⟩

/-- Every instruction of R98, PLOG.PACK and CHDEPTH write the value that their rows give. -/
theorem exec_of_moves {i : Instr} {d : Dst} {f : Ctx → Nat → Word} (h : Spec.moves i = some (d, f)) (s : State) :
    exec i s = lane1 i s d f ∧ i.cls ≠ .uniform := by
  -- The row of PLOG depends on its operation.
  cases i <;> try cases h
  case sel => exact ⟨lane1_congr rfl fun k l => by rw [lane_pred_eq, Bool.bne_eq_xor], nofun⟩
  case movB32 | movX64 | movi | chdepth => exact ⟨rfl, nofun⟩
  case plog x =>
    cases x <;> cases h
    exact ⟨lane1_congr rfl fun k l => (BitVec.ofNat_toNat _ _).symm, nofun⟩
end Sys2Proof.Laws

namespace Sys2Proof.Proofs
open Sys2Proof Sys2Proof.Machine Sys2Proof.Safety Sys2Proof.Laws

/-- Settles O3: compares and PLOG write one predicate, moves one register; UNPACK takes the low seven bits of its operand. -/
theorem predicateAndMoveResults : Obligations.PredicateAndMoveResults := by
  unfold Obligations.PredicateAndMoveResults
  refine ⟨?_, ?_, ?_⟩
  · intro i p f s k hi hw h
    obtain ⟨hexec, hu⟩ := exec_of_preds hi hw s
    exact exec_laneP hexec h hu
  · intro i d f s k hi _ h
    obtain ⟨hexec, hu⟩ := exec_of_moves hi s
    exact exec_lane1 hexec h hu
  · intro g a s k h
    have hlow (w : Word) : w.extractLsb' 0 7 = w.setWidth 7 := (BitVec.setWidth_eq_extractLsb' (by decide)).symm
    simp only [Spec.A, ← hlow]
    exact ⟨_, rfl, issue_lanes _ s k _ _ k.e _ _ h rfl rfl rfl rfl fun l _ x _ => issued_fallsThrough _ l x nofun⟩
end Sys2Proof.Proofs
end

section
/-! ## The instructions across lanes (05 R101 to R105) -/

namespace Sys2Proof.Laws
open Sys2Proof Sys2Proof.Machine Sys2Proof.Safety

/-! ### Exchange -/

theorem xchFrom_eq (m : XMode) (l : Nat) (b : Word) : xchFrom m l b = Spec.xchLane m l b := by cases m <;> rfl

/-- Only a lane below 64 is in E. -/
theorem xchOk_eq (k : Ctx) (m : XMode) (b : Reg) (l : Nat) : xchOk k m b l = Spec.xchOk k m l (Spec.B k b l) := by
  rw [Bool.eq_iff_iff]
  simp only [xchOk, Spec.xchOk, xchFrom_eq, Bool.and_eq_true, decide_eq_true_iff]
  refine and_congr_left fun he => and_iff_left_of_imp fun hpos => ?_
  have := lt_of_getLsbD he
  omega

/-- The lanes of E write a group each, then one predicate each. -/
def groupPredDone (s : State) (k : Ctx) (d : Reg) (f : Nat → List Word) (p : Nat) (q : Nat → Bool) : Done :=
  { groupDone s k d f with st := (predDone (groupDone s k d f).st k p q).st }
/-- The sheaf that this leaves. -/
def groupPredSheaf (k : Ctx) (d : Reg) (f : Nat → List Word) (p : Nat) (q : Nat → Bool) : Sheaf :=
  (groupSheaf k d f).modLanes k.e (fun l x => x.setPred p (q l))

/-- XCH gives each lane the words of its source lane, and a predicate that says whether that lane is in E. -/
theorem xchDone_eq (s : State) (k : Ctx) (d : Dst) (a b : Reg) (ty : Ty) (m : XMode) (ok : Option (Fin 7)) :
    xchDone s k d a b ty m ok =
      match ok with
      | none => groupDone s k d.reg (Spec.xchWords k a b ty m)
      | some p => groupPredDone s k d.reg (Spec.xchWords k a b ty m) p.val (fun l => Spec.xchOk k m l (Spec.B k b l)) := by
  cases ok <;> simp only [xchDone, xchOk_eq, xchFrom_eq, Bool.or_eq_true, beq_iff_eq] <;> rfl

/-- What a group result gives the latch of a lane. -/
theorem lookup_groupDone (s : State) (k : Ctx) (d : Reg) (f : Nat → List Word) (l : Nat) :
    (groupDone s k d f).val.lookup l = if k.e.getLsbD l then some ((f l).headD 0) else none := by
  have hval : (groupDone s k d f).val = (lanesOf k.e).map (fun l => (l, (f l).headD 0)) := by
    rw [groupDone, List.map_map]; rfl
  simp only [hval, lookup_map_lanes', mem_lanesOf]

section
variable {k : Ctx} {d : Reg} (f : Nat → List Word) (p : Nat) (q : Nat → Bool)

theorem groupPredDone_st {s : State} (h : s.sheaf? k.sid = some k.sh) :
    (groupPredDone s k d f p q).st = s.setSheaf k.sid (groupPredSheaf k d f p q) := by
  have hg : (s.setSheaf k.sid (groupSheaf k d f)).sheaf? k.sid = some (groupSheaf k d f) := by
      rw [sheaf_setSheaf, if_pos rfl]
  simp only [groupPredDone, predDone]
  rw [groupDone_st s k d f h, modSheaf_some _ _ _ _ hg]
  simp only [State.setSheaf, kv_put_put, groupPredSheaf]

variable (hd : d.isLaneDst = true)
include hd

theorem groupPredSheaf_frame : { groupPredSheaf k d f p q with lanes := k.sh.lanes, regs := k.sh.regs } = k.sh := by
  have hfr : { groupSheaf k d f with regs := k.sh.regs } = k.sh := lanes_writeGroups d hd _ k.sh
  rw [groupPredSheaf, modLanes_eq]
  exact congrArg (fun y : Sheaf => { y with lanes := k.sh.lanes }) hfr

theorem groupPredSheaf_regs : RegsAfter k (groupPredSheaf k d f p q) d f := by
  intro r l hl
  rw [groupPredSheaf, vreg_modLanes]
  exact groupSheaf_regs k d hd f r l hl

theorem lane_groupPredSheaf (l : Nat) : (groupPredSheaf k d f p q).lane l =
    if k.e.getLsbD l then (k.sh.lane l).setPred p (q l) else k.sh.lane l := by
  have hfr : { groupSheaf k d f with regs := k.sh.regs } = k.sh := lanes_writeGroups d hd _ k.sh
  have hlane := congrArg (fun y : Sheaf => y.lane l) hfr
  exact hlane ▸ lane_modLanes (groupSheaf k d f) k.e _ l

end

/-- Lanes of E that write a group of registers and one predicate each. -/
theorem exec_groupAndPred {i : Instr} {s : State} {k : Ctx} {body : Ctx → Except TrapInfo Done} {d : Reg} {p : Nat}
    {f : Nat → List Word} {q : Nat → Bool} (hi : exec i s = issue i s body) (h : Issues i s k) (hu : i.cls ≠ .uniform)
    (hd : d.isLaneDst = true) (hb : body k = .ok (groupPredDone s k d f p q)) :
    ∃ t sh, exec i s = .next t ∧ t = withSheaf i s k sh ∧
      { sh with lanes := k.sh.lanes, regs := k.sh.regs, replay := k.sh.replay } = k.sh ∧
      RegsAfter k sh d f ∧
      LanesAfter k sh (fun l x => if k.e.getLsbD l then { x with preds := setPredBit x.preds p (q l) } else x)
        (fun l x => shifted k (if k.e.getLsbD l then some ((f l).headD 0) else none) x) := by
  have hs := issues_sheaf h
  have hst := groupPredDone_st (d := d) f p q hs
  have hregs := groupPredSheaf_regs (k := k) f p q hd
  have hlane := lane_groupPredSheaf (k := k) f p q hd
  have hframe := groupPredSheaf_frame (k := k) f p q hd
  generalize groupPredSheaf k d f p q = v at hst hregs hlane hframe
  have hcore := congrArg Sheaf.core hframe
  have hfl := congrArg Sheaf.flights hframe
  have hrep := congrArg Sheaf.replay hframe
  have hrest := congrArg (fun y : Sheaf => { y with replay := k.sh.replay }) hframe
  rw [hi, issue, issueState_of i s k body h _ hb rfl rfl, retire_sheaf s i k _ v hs (.inr hst) hcore hfl]
  refine ⟨_, _, rfl, rfl, ?_, ?_, ?_⟩
  · split
    · exact hrest
    · rw [modLanes_eq]; exact hrest
  · split
    · exact hregs
    · intro r l hl; rw [vreg_modLanes]; exact hregs r l hl
  · refine lanesAfter_of i k _ v _ _ (fun l _ => hlane l) hrep fun _ l _ x _ => ?_
    have hval : (groupPredDone s k d f p q).val.lookup l = _ := lookup_groupDone s k d f l
    rw [issued_shifted i k _ l x hu rfl BitVec.getLsbD_zero rfl, hval]
    split <;> rfl

/-! ### Votes and matches -/

theorem laneSet_eq_iff (m n : LaneSet) : m = n ↔ ∀ l < 64, m.getLsbD l = n.getLsbD l :=
  ⟨fun h _ _ => by rw [h], fun h => BitVec.eq_of_getLsbD_eq fun l hl => h l hl⟩

/-- The part of a set that a test keeps is all of it where every lane passes. -/
theorem eq_set_iff_all {m e : LaneSet} {f : Nat → Bool} (h : ∀ l < 64, m.getLsbD l = (e.getLsbD l && f l)) :
    m = e ↔ (lanesOf e).all f = true := by
  rw [laneSet_eq_iff, List.all_eq_true]
  refine ⟨fun heq l hl => ?_, fun hall l hl => ?_⟩
  · have he := (mem_lanesOf e l).mp hl
    have hlt := lt_of_getLsbD he
    rw [← he, ← heq l hlt, h l hlt, he, Bool.true_and]
  · rw [h l hl]
    cases he : e.getLsbD l with
    | false => rfl
    | true => exact hall l ((mem_lanesOf e l).mpr he)

/-- It is not empty where some lane passes. -/
theorem ne_zero_iff_any {m e : LaneSet} {f : Nat → Bool} (h : ∀ l < 64, m.getLsbD l = (e.getLsbD l && f l)) :
    m ≠ 0 ↔ (lanesOf e).any f = true := by
  rw [Ne, laneSet_eq_zero_iff, List.any_eq_true]
  push Not
  constructor
  · rintro ⟨l, hl, hbit⟩
    rw [h l hl, Bool.ne_false_iff, Bool.and_eq_true] at hbit
    obtain ⟨he, hf⟩ := hbit
    exact ⟨l, (mem_lanesOf e l).mpr he, hf⟩
  · rintro ⟨l, hl, hf⟩
    have he := (mem_lanesOf e l).mp hl
    refine ⟨l, lt_of_getLsbD he, ?_⟩
    rw [h l (lt_of_getLsbD he), he, hf]
    exact Bool.noConfusion

theorem getLsbD_voteSet (k : Ctx) (a : Pred) (neg : Bool) (l : Nat) (hl : l < 64) :
    (voteSet k a neg).getLsbD l = (k.e.getLsbD l && xor (Spec.pred k l a) neg) := by
  rw [voteSet, getLsbD_laneSetOf 64 _ l hl, decide_eq_true hl, Bool.true_and, lane_pred_eq, Bool.bne_eq_xor]

theorem voteSet_ne_zero (k : Ctx) (a : Pred) (neg : Bool) :
    (voteSet k a neg != 0) = (lanesOf k.e).any (fun l => xor (Spec.pred k l a) neg) :=
  Bool.eq_iff_iff.mpr (bne_iff_ne.trans (ne_zero_iff_any (getLsbD_voteSet k a neg)))

theorem voteSet_eq_actors (k : Ctx) (a : Pred) (neg : Bool) :
    (voteSet k a neg == k.e) = (lanesOf k.e).all (fun l => xor (Spec.pred k l a) neg) :=
  Bool.eq_iff_iff.mpr (beq_iff_eq.trans (eq_set_iff_all (getLsbD_voteSet k a neg)))

theorem getLsbD_matchSet (k : Ctx) (a : Reg) (ty : Ty) (all : Bool) (l : Nat) {j : Nat} (hj : j < 64) :
    (matchSet k a ty all l).getLsbD j =
      if all then k.e.getLsbD j && (lanesOf k.e).all (fun x => Spec.matchVal k a ty x == Spec.matchVal k a ty l)
      else k.e.getLsbD j && (Spec.matchVal k a ty j == Spec.matchVal k a ty l) := by
  have hsame (x : Nat) (hx : x < 64) :
      (laneSetOf 64 (fun j => k.e.getLsbD j && matchKey k a ty j == matchKey k a ty l)).getLsbD x =
        (k.e.getLsbD x && (Spec.matchVal k a ty x == Spec.matchVal k a ty l)) := by
    rw [getLsbD_laneSetOf 64 _ x hx, decide_eq_true hx, Bool.true_and]
    rfl
  cases all with
  | false => exact hsame j hj
  | true =>
    simp only [matchSet, if_true, eq_set_iff_all hsame]
    split
    · next hall => rw [hall, Bool.and_true]
    · next hsome => rw [Bool.eq_false_of_not_eq_true hsome, Bool.and_false]; exact BitVec.getLsbD_zero

/-! ### Reductions

REDUX folds its operation over the values of the lanes of E, in their order. -/

/-- A fold of a choice between two values picks one of the values, and one that measures least where each choice does. -/
theorem foldl_choice {g : Word → Word → Word} {r : Word → Int}
    (hg : ∀ a b, (g a b = a ∨ g a b = b) ∧ r (g a b) ≤ r a ∧ r (g a b) ≤ r b) (xs : List Word) :
    ∀ x, xs.foldl g x ∈ x :: xs ∧ ∀ y ∈ x :: xs, r (xs.foldl g x) ≤ r y := by
  induction xs with
  | nil => intro x; simp
  | cons a xs ih =>
    intro x
    obtain ⟨hin, hleast⟩ := ih (g x a)
    obtain ⟨hpick, hx, ha⟩ := hg x a
    obtain ⟨hchoice, hrest⟩ := List.forall_mem_cons.mp hleast
    rw [List.foldl_cons]
    refine ⟨?_, List.forall_mem_cons.mpr ⟨hchoice.trans hx, List.forall_mem_cons.mpr ⟨hchoice.trans ha, hrest⟩⟩⟩
    rcases List.mem_cons.mp hin with heq | hmem
    · rw [heq]
      rcases hpick with hp | hp <;> simp [hp]
    · simp [hmem]

theorem imin_choice (t : Ty) (a b : Word) :
    (imin t a b = a ∨ imin t a b = b) ∧ ext t (imin t a b) ≤ ext t a ∧ ext t (imin t a b) ≤ ext t b := by
  unfold imin
  split
  · next hlt => exact ⟨.inr rfl, hlt.le, le_rfl⟩
  · next hge => exact ⟨.inl rfl, le_rfl, not_lt.mp hge⟩

theorem imax_choice (t : Ty) (a b : Word) :
    (imax t a b = a ∨ imax t a b = b) ∧ -ext t (imax t a b) ≤ -ext t a ∧ -ext t (imax t a b) ≤ -ext t b := by
  unfold imax
  split
  · next hlt => exact ⟨.inr rfl, neg_le_neg hlt.le, le_rfl⟩
  · next hge => exact ⟨.inl rfl, le_rfl, neg_le_neg (not_lt.mp hge)⟩

theorem getLsbD_foldl_and (j : Nat) (xs : List Word) : ∀ x,
    (xs.foldl (· &&& ·) x).getLsbD j = true ↔ ∀ y ∈ x :: xs, y.getLsbD j = true := by
  induction xs with
  | nil => intro x; simp
  | cons a xs ih => intro x; rw [List.foldl_cons, ih]; simp [and_assoc]

theorem getLsbD_foldl_or (j : Nat) (xs : List Word) : ∀ x,
    (xs.foldl (· ||| ·) x).getLsbD j = true ↔ ∃ y ∈ x :: xs, y.getLsbD j = true := by
  induction xs with
  | nil => intro x; simp
  | cons a xs ih => intro x; rw [List.foldl_cons, ih]; simp [or_assoc]

/-- Whether the values with bit j set are odd in number. -/
theorem odd_filter_cons (j : Nat) (x : Word) (xs : List Word) :
    decide (((x :: xs).filter (fun y => y.getLsbD j)).length % 2 = 1) =
      xor (x.getLsbD j) (decide ((xs.filter (fun y => y.getLsbD j)).length % 2 = 1)) := by
  cases hx : x.getLsbD j with
  | false => simp [hx]
  | true =>
    rw [List.filter_cons_of_pos (p := fun y : Word => y.getLsbD j) hx, List.length_cons, Bool.true_xor, ← decide_not]
    exact decide_eq_decide.mpr (by omega)

theorem getLsbD_foldl_xor (j : Nat) (xs : List Word) : ∀ x,
    (xs.foldl (· ^^^ ·) x).getLsbD j = decide (((x :: xs).filter (fun y => y.getLsbD j)).length % 2 = 1) := by
  induction xs with
  | nil => intro x; rw [odd_filter_cons]; simp
  | cons a xs ih =>
    intro x
    rw [List.foldl_cons, ih, odd_filter_cons, odd_filter_cons, odd_filter_cons, BitVec.getLsbD_xor, Bool.xor_assoc]

theorem foldl_add_eq_sum (xs : List Word) : ∀ x, xs.foldl (· + ·) x = (x :: xs).sum := by
  induction xs with
  | nil => intro x; simp
  | cons a xs ih => intro x; rw [List.foldl_cons, ih]; simp [BitVec.add_assoc]

/-- Where some lane is in E, REDUX answers the reduction of the values of its lanes. -/
theorem reduxOf_spec {t : Ty} (h : t.isOneOf [.s32, .z32] = true) {k : Ctx} (he : k.e ≠ 0) (a : Reg) (op : RedOp) :
    Spec.reduxIs op t ((lanesOf k.e).map (fun l => Spec.A k a l)) (reduxOf k a t op) := by
  obtain ⟨hin, -⟩ := lowestLane_spec he
  obtain ⟨l, ls, hlanes⟩ : ∃ l ls, lanesOf k.e = l :: ls :=
    List.exists_cons_of_ne_nil (List.ne_nil_of_mem ((mem_lanesOf _ _).mpr hin))
  simp only [reduxOf, hlanes, List.map_cons]
  generalize ls.map (fun l => k.opA a l 0) = xs
  cases op with
  | add => exact foldl_add_eq_sum xs _
  | min =>
    simp only [Spec.reduxIs, ← ext_eq_spec h]
    exact foldl_choice (imin_choice t) xs _
  | max =>
    simp only [Spec.reduxIs, ← ext_eq_spec h]
    obtain ⟨hin, hmax⟩ := foldl_choice (r := fun x => -ext t x) (imax_choice t) xs (k.opA a l 0)
    exact ⟨hin, fun y hy => neg_le_neg_iff.mp (hmax y hy)⟩
  | and => exact fun j _ => getLsbD_foldl_and j xs _
  | or => exact fun j _ => getLsbD_foldl_or j xs _
  | xor => exact fun j _ => getLsbD_foldl_xor j xs _
end Sys2Proof.Laws

namespace Sys2Proof.Proofs
open Sys2Proof Sys2Proof.Machine Sys2Proof.Safety Sys2Proof.Laws

/-- Settles O4: the words, sets and reductions of the model are those of the rules, lane by lane of E. -/
theorem crossLaneResults : Obligations.CrossLaneResults := by
  unfold Obligations.CrossLaneResults
  refine ⟨?_, ?_, ?_, ?_, ?_, ?_⟩
  · intro g d a b ty m ok s k _ h
    cases ok with
    | some p =>
      exact exec_groupAndPred rfl h nofun (isLaneDst_reg d) (congrArg Except.ok (xchDone_eq s k d a b ty m (some p)))
    | none =>
      have hexec : exec (.xch g d a b ty m none) s =
          issue (.xch g d a b ty m none) s (fun k => .ok (groupDone s k d.reg (Spec.xchWords k a b ty m))) :=
        congrArg (issue _ s) (funext fun k => congrArg Except.ok (xchDone_eq s k d a b ty m none))
      obtain ⟨sh, ht, hframe, hregs, hlanes⟩ :=
        issue_group _ s k d.reg (fun k => Spec.xchWords k a b ty m) h nofun (isLaneDst_reg d)
      exact ⟨_, sh, hexec, ht, hframe, hregs, hlanes⟩
  · intro g p a neg s k h
    exact exec_laneP (laneP_congr rfl fun k _ => voteSet_ne_zero k a neg) h nofun
  · intro g p a neg s k h
    exact exec_laneP (laneP_congr rfl fun k _ => voteSet_eq_actors k a neg) h nofun
  · intro g d a neg s k hw h
    simp only [Instr.wf, Bool.and_eq_true] at hw
    obtain ⟨hd, -⟩ := hw
    obtain ⟨t, ht, hres⟩ := exec_lane2 (f := fun k _ => voteSet k a neg) rfl h nofun hd
    exact ⟨t, _, ht, hres, fun l hl => getLsbD_voteSet k a neg l hl⟩
  · intro g d a ty all s k hw h
    simp only [Instr.wf, Bool.and_eq_true] at hw
    obtain ⟨⟨⟨hd, -⟩, -⟩, -⟩ := hw
    obtain ⟨t, ht, hres⟩ := exec_lane2 (f := fun k l => matchSet k a ty all l) rfl h nofun hd
    exact ⟨t, _, ht, hres, fun l _ j hj => getLsbD_matchSet k a ty all l hj⟩
  · intro g d a ty op s k hw h
    obtain ⟨t, ht, hres⟩ := exec_lane1 (f := fun k _ => reduxOf k a ty op) rfl h nofun
    exact ⟨t, _, ht, hres, reduxOf_spec hw h.some_ a op⟩
end Sys2Proof.Proofs
end

section
/-! ## The uniform set (06 R112 to R114) -/

namespace Sys2Proof.Laws
open Sys2Proof Sys2Proof.Machine Sys2Proof.Safety

/-! ### The shapes of the uniform results -/

theorem uni1_congr {i : Instr} {s : State} {d : SReg} {f g : Ctx → Word} (hi : exec i s = uni1 i s d f)
    (h : ∀ k, f k = g k) : exec i s = uni1 i s d g := by
  rw [hi, funext h]

theorem uni2_congr {i : Instr} {s : State} {d : SReg} {f g : Ctx → DWord} (hi : exec i s = uni2 i s d f)
    (h : ∀ k, f k = g k) : exec i s = uni2 i s d g := by
  rw [hi, funext h]

section
variable {i : Instr} {s : State} {k : Ctx} (h : Issues i s k) (hu : i.cls = .uniform)
include h hu

theorem exec_uni1 {d : SReg} {f : Ctx → Word} (hi : exec i s = uni1 i s d f) :
    ∃ t, exec i s = .next t ∧ UniResult i s t k d [f k] :=
  ⟨_, hi, issue_uni i s k d (fun k => [f k]) h hu⟩

theorem exec_uni2 {d : SReg} {f : Ctx → DWord} (hi : exec i s = uni2 i s d f) :
    ∃ t, exec i s = .next t ∧ UniResult i s t k d (Spec.pair (f k)) :=
  ⟨_, hi, issue_uni i s k d (fun k => Spec.pair (f k)) h hu⟩

/-- A uniform instruction that leaves its sheaf as `v`, with the lanes it had: of `v` only the place in the replay queue and
the program counters of the path change (06 R108). -/
theorem exec_uniformSheaf {body : Ctx → Except TrapInfo Done} {u : State} {v : Sheaf} (hi : exec i s = issue i s body)
    (hb : body k = .ok { st := u }) (hst : u = s ∧ v = k.sh ∨ u = s.setSheaf k.sid v) (hl : v.lanes = k.sh.lanes)
    (hr : v.replay = k.sh.replay) (hc : v.core = k.sh.core) (hf : v.flights = k.sh.flights) :
    ∃ t sh, exec i s = .next t ∧ t = withSheaf i s k sh ∧ { sh with lanes := v.lanes, replay := v.replay } = v ∧
      LanesAfter k sh (fun _ y => y) (fun _ y => passed k y) := by
  rw [hi, issue, issueState_of i s k body h _ hb rfl rfl, retire_sheaf s i k _ v (issues_sheaf h) hst hc hf]
  refine ⟨_, _, rfl, rfl, ?_, ?_⟩
  · split
    · rfl
    · rw [modLanes_eq]
  · have hlane (l : Nat) : v.lane l = k.sh.lane l := by rw [Sheaf.lane, hl]; rfl
    exact lanesAfter_of i k _ v _ _ (fun l _ => hlane l) hr fun _ l _ x _ => issued_passed i k _ l x hu rfl BitVec.getLsbD_zero

end

/-! ### The tables as what the instructions do -/

theorem qpred_eq (k : Ctx) (p : Pred) : k.sh.qpred p = Spec.qpred k p := by cases p <;> rfl

/-- LANERD writes one word for the path. -/
theorem lanerd_eq_uni1 {i : Instr} {s : State} {d : SReg} {a : Reg} {b : SReg}
    (hi : exec i s = issue i s (fun k => .ok (laneRead s k d a b))) : exec i s = uni1 i s d (fun k =>
      if (Spec.SB k b).toNat < k.sh.width then k.sh.readReg a (Spec.SB k b).toNat 0 else 0) := by
  simp only [hi, uni1, laneRead, ← not_lt, ite_not]

/-- Every instruction of R112 to R114 with a 32-bit result writes the value that its row gives. -/
theorem exec_of_uniform {i : Instr} {d : SReg} {f : Ctx → Word} (h : Spec.uniform i = some (d, f)) (hw : i.wf = true)
    (s : State) : exec i s = uni1 i s d f ∧ i.cls = .uniform := by
  cases i <;> cases h
  case saddX64 => exact ⟨uni1_congr rfl fun k => iadd_eq_fit hw _ _ _, rfl⟩
  case saddB32 | saddI64 => exact ⟨uni1_congr rfl fun k => iadd_eq_fit rfl _ _ _, rfl⟩
  case ssubX64 => exact ⟨uni1_congr rfl fun k => isub_eq_fit hw _ _ _, rfl⟩
  case ssubB32 => exact ⟨uni1_congr rfl fun k => isub_eq_fit rfl _ _ _, rfl⟩
  case smulB32 | smulX64 | smulI64 => exact ⟨uni1_congr rfl fun k => mul_eq_ofNat _ _, rfl⟩
  case smad => exact ⟨uni1_congr rfl fun k => mul_add_eq_ofNat _ _ _, rfl⟩
  case sshlB32 | sshlX64 | sshlI64 => exact ⟨uni1_congr rfl fun k => shl_eq_left _ _, rfl⟩
  case sshrX64 | sshrI64 => exact ⟨uni1_congr rfl fun k => shr_eq_right hw _ _, rfl⟩
  case sshrZ32B32 | sshrS32B32 => exact ⟨uni1_congr rfl fun k => shr_eq_right rfl _ _, rfl⟩
  case sminX64 => exact ⟨uni1_congr rfl fun k => imin_eq_ofInt_min hw _ _, rfl⟩
  case sminS32B32 | sminZ32B32 | sminI64 => exact ⟨uni1_congr rfl fun k => imin_eq_ofInt_min rfl _ _, rfl⟩
  case smaxX64 => exact ⟨uni1_congr rfl fun k => imax_eq_ofInt_max hw _ _, rfl⟩
  case smaxS32B32 | smaxZ32B32 | smaxI64 => exact ⟨uni1_congr rfl fun k => imax_eq_ofInt_max rfl _ _, rfl⟩
  case ssel =>
    refine ⟨uni1_congr rfl fun k => ?_, rfl⟩
    rw [qpred_eq, Bool.bne_eq_xor]
  case lanerdB32 | lanerdX64 => exact ⟨lanerd_eq_uni1 rfl, rfl⟩
  case sandB32 | sandX64 | sandI64 | sorB32 | sorX64 | sorI64 | sxorB32 | sxorX64 | sxorI64 | smovB32 | smovX64 | smovi |
      spopcB32 | spopcX64 => exact ⟨rfl, rfl⟩

/-- Every instruction of R112 with a pair writes the pair that its row gives. -/
theorem exec_of_uniform64 {i : Instr} {d : SReg} {f : Ctx → DWord} (h : Spec.uniform64 i = some (d, f)) (hw : i.wf = true)
    (s : State) : exec i s = uni2 i s d f ∧ i.cls = .uniform := by
  cases i <;> cases h
  case sadd64B32 | sadd64X64 => exact ⟨rfl, rfl⟩
  case sleaX64 =>
    simp only [Instr.wf, Bool.and_eq_true] at hw
    obtain ⟨⟨ht, -⟩, -⟩ := hw
    exact ⟨uni2_congr rfl fun k => lea_eq_ofInt ht _ _ _, rfl⟩
  case sleaI64 => exact ⟨uni2_congr rfl fun k => add_signExtend_eq_ofInt _ _, rfl⟩

/-! ### SCMP and LANEWR -/

open Classical in
/-- SCMP writes the combined result of its compare. -/
theorem scmp_value {t : Ty} (h : t.isOneOf [.s32, .z32] = true) (k : Ctx) (a b : Word) (c : Cond) (x : Combine) :
    combineWith x (condHolds c (ext t a) (ext t b)) k.sh.qpred =
      Spec.combined x (decide (Spec.cond c (Spec.ext t a) (Spec.ext t b))) (Spec.qpred k) := by
  rw [combineWith_eq_combined, funext (qpred_eq k), ← ext_eq_spec h, ← ext_eq_spec h,
    Bool.eq_iff_iff.mpr ((condHolds_iff c _ _).trans decide_eq_true_iff.symm)]

/-- A write of one uniform predicate. -/
theorem exec_qWrite {i : Instr} {s : State} {k : Ctx} {d : Fin 7} (v : Ctx → Bool)
    (hi : exec i s = issue i s (fun k => .ok (qDone s k d (v k)))) (h : Issues i s k) (hu : i.cls = .uniform) :
    ∃ t sh, exec i s = .next t ∧ t = withSheaf i s k sh ∧
      { sh with lanes := k.sh.lanes, replay := k.sh.replay, q := k.sh.q } = k.sh ∧ sh.q = setPredBit k.sh.q d.val (v k) ∧
      LanesAfter k sh (fun _ y => y) (fun _ y => passed k y) := by
  have hst : (qDone s k d (v k)).st = s.setSheaf k.sid { k.sh with q := setPredBit k.sh.q d.val (v k) } :=
    modSheaf_some _ _ _ _ (issues_sheaf h)
  obtain ⟨t, sh, hexec, ht, hsh, hlanes⟩ := exec_uniformSheaf h hu hi rfl (.inr hst) rfl rfl rfl rfl
  exact ⟨t, sh, hexec, ht, congrArg (fun y : Sheaf => { y with q := k.sh.q }) hsh, congrArg Sheaf.q hsh, hlanes⟩

/-- The lane registers after LANEWR. -/
def laneWriteRegs (k : Ctx) (d : Reg) (a b : SReg) : KV Word :=
  match d with
  | .v n => if (Spec.SB k b).toNat < k.sh.width ∧ k.path.getLsbD (Spec.SB k b).toNat = true then
      (k.sh.setVreg n.val (Spec.SB k b).toNat (Spec.SA k a)).regs else k.sh.regs
  | _ => k.sh.regs

/-- LANEWR changes nothing of the device but these. -/
theorem laneWrite_st {s : State} {k : Ctx} {d : Reg} (a b : SReg) (hd : d.isLaneDst = true) (hs : s.sheaf? k.sid = some k.sh) :
    (laneWrite s k d a b).st = s ∧ { k.sh with regs := laneWriteRegs k d a b } = k.sh ∨
      (laneWrite s k d a b).st = s.setSheaf k.sid { k.sh with regs := laneWriteRegs k d a b } := by
  simp only [laneWrite]
  split
  · next hin =>
    refine .inr ?_
    rw [modSheaf_some _ _ _ _ hs]
    cases d with
    | v n => rw [laneWriteRegs, if_pos hin]; rfl
    | z => rfl
    | s n | li | b n => cases hd
  · next hout =>
    refine .inl ⟨rfl, ?_⟩
    cases d with
    | v n => rw [laneWriteRegs, if_neg hout]
    | z | s n | li | b n => rfl

/-- The register of the lane that B numbers is written, where that lane is one of the path. -/
theorem vreg_laneWriteRegs (k : Ctx) (d : Reg) (a b : SReg) (r : Nat) {l : Nat} (hl : l < 64) :
    ({ k.sh with regs := laneWriteRegs k d a b } : Sheaf).vreg r l =
      match d with
      | .v n => if r = n.val ∧ l = (Spec.SB k b).toNat ∧ l < k.sh.width ∧ k.path.getLsbD l = true then Spec.SA k a
          else k.sh.vreg r l
      | _ => k.sh.vreg r l := by
  cases d with
  | v n =>
    simp only [laneWriteRegs]
    split
    · next hin =>
      obtain ⟨hw, hp⟩ := hin
      have hj := lt_of_getLsbD hp
      have hkey : 64 * n.val + (Spec.SB k b).toNat = 64 * r + l ↔
          r = n.val ∧ l = (Spec.SB k b).toNat ∧ l < k.sh.width ∧ k.path.getLsbD l = true := by
        refine ⟨fun heq => ?_, fun ⟨hr, hlane, _⟩ => by rw [hr, hlane]⟩
        obtain rfl : l = (Spec.SB k b).toNat := by omega
        exact ⟨by omega, rfl, hw, hp⟩
      exact (vreg_setVreg k.sh n.val _ r l _).trans (if_congr hkey rfl rfl)
    · next hout =>
      refine (if_neg fun ⟨_, hlane, hw, hp⟩ => hout ?_).symm
      exact hlane ▸ ⟨hw, hp⟩
  | z | s n | li | b n => rfl
end Sys2Proof.Laws

namespace Sys2Proof.Proofs
open Sys2Proof Sys2Proof.Machine Sys2Proof.Safety Sys2Proof.Laws

/-- Settles O14: each meaning is the value of its row, written once for the path; SCMP changes q alone, LANEWR lane registers
alone. -/
theorem uniformResults : Obligations.UniformResults := by
  unfold Obligations.UniformResults
  refine ⟨⟨?_, ?_⟩, ?_, ?_⟩
  · intro i d f s k hi hw h
    obtain ⟨hexec, hu⟩ := exec_of_uniform hi hw s
    exact exec_uni1 h hu hexec
  · intro i d f s k hi hw h
    obtain ⟨hexec, hu⟩ := exec_of_uniform64 hi hw s
    exact exec_uni2 h hu hexec
  · intro g d a b ty c x s k hw h
    simp only [← scmp_value hw]
    exact exec_qWrite (fun k => combineWith x (condHolds c (ext ty (Spec.SA k a)) (ext ty (Spec.SB k b))) k.sh.qpred) rfl h rfl
  · intro i g d a b ty s k hi hw h
    have hd : d.isLaneDst = true := by
      rcases hi with rfl | rfl
      · exact hw
      · exact (Bool.and_eq_true_iff.mp hw).1
    have hu : i.cls = .uniform := by rcases hi with rfl | rfl <;> rfl
    have hbody : exec i s = issue i s (fun k => .ok (laneWrite s k d a b)) := by rcases hi with rfl | rfl <;> rfl
    obtain ⟨t, sh, hexec, ht, hsh, hlanes⟩ :=
      exec_uniformSheaf h hu hbody rfl (laneWrite_st a b hd (issues_sheaf h)) rfl rfl rfl rfl
    refine ⟨t, sh, hexec, ht, ?_, ?_, hlanes⟩
    · exact congrArg (fun y : Sheaf => { y with regs := k.sh.regs }) hsh
    · intro r l hl
      exact (congrArg (fun y : Sheaf => y.vreg r l) hsh).trans (vreg_laneWriteRegs k d a b r hl)
end Sys2Proof.Proofs
end

section
/-! ## Special registers (06 R115 to R118) -/

namespace Sys2Proof.Laws
open Sys2Proof Sys2Proof.Machine Sys2Proof.Safety

/-! ### Values of Table 6.2 -/

/-- No element before the index that a search answers is the one searched for; that index holds it where the list does. -/
theorem findIdx_spec (xs : List Nat) (a : Nat) :
    (∀ n < xs.findIdx (· == a), xs[n]? ≠ some a) ∧ (a ∈ xs → xs[xs.findIdx (· == a)]? = some a) := by
  refine ⟨fun n hn heq => ?_, fun ha => ?_⟩
  · obtain ⟨hlt, hval⟩ := List.getElem?_eq_some_iff.mp heq
    have hnot := List.not_of_lt_findIdx hn
    rw [hval, beq_self_eq_true] at hnot
    cases hnot
  · have hlt : xs.findIdx (· == a) < xs.length := List.findIdx_lt_length_of_exists ⟨a, ha, beq_self_eq_true a⟩
    rw [List.getElem?_eq_getElem hlt]
    exact congrArg some (beq_iff_eq.mp (List.findIdx_getElem (w := hlt)))

/-- A fold of the greater bounds its start and every value, and is one of these. -/
theorem foldl_max_spec (f : Nat → Nat) (xs : List Nat) : ∀ m,
    (m ≤ xs.foldl (fun m x => Nat.max m (f x)) m ∧ ∀ x ∈ xs, f x ≤ xs.foldl (fun m x => Nat.max m (f x)) m) ∧
      (xs.foldl (fun m x => Nat.max m (f x)) m = m ∨ ∃ x ∈ xs, f x = xs.foldl (fun m x => Nat.max m (f x)) m) := by
  induction xs with
  | nil => intro m; simp
  | cons a xs ih =>
    intro m
    obtain ⟨⟨hstart, hall⟩, hpick⟩ := ih (Nat.max m (f a))
    rw [List.foldl_cons]
    refine ⟨⟨(Nat.le_max_left m (f a)).trans hstart,
      List.forall_mem_cons.mpr ⟨(Nat.le_max_right m (f a)).trans hstart, hall⟩⟩, ?_⟩
    rcases hpick with heq | ⟨x, hx, heq⟩
    · rw [heq]
      rcases Nat.le_total m (f a) with hle | hle
      · exact .inr ⟨a, List.mem_cons_self, (Nat.max_eq_right hle).symm⟩
      · exact .inl (Nat.max_eq_left hle)
    · exact .inr ⟨x, List.mem_cons_of_mem a hx, heq⟩

/-- A lane that has not exited. -/
theorem getLsbD_live (sh : Sheaf) {l : Nat} (hl : l < 64) :
    sh.live.getLsbD l = true ↔ l < sh.width ∧ (sh.lane l).exited = false := by
  rw [Sheaf.live, getLsbD_andNot _ _ hl, Sheaf.exitedSet, getLsbD_laneSetOf _ _ l hl, Sheaf.full, fullSet,
    BitVec.getLsbD_ofNat, Nat.testBit_two_pow_sub_one, decide_eq_true hl]
  by_cases hw : l < sh.width <;> simp [hw]

/-- sr.chdepth is the largest depth among the lanes that have not exited. -/
theorem chdepth_spec (sh : Sheaf) : let v := (lanesOf sh.live).foldl (fun m l => Nat.max m (sh.lane l).depth) 0
    (∀ l < 64, l < sh.width → (sh.lane l).exited = false → (sh.lane l).depth ≤ v) ∧
      (v = 0 ∨ ∃ l, l < sh.width ∧ l < 64 ∧ (sh.lane l).exited = false ∧ (sh.lane l).depth = v) := by
  obtain ⟨⟨-, hall⟩, hpick⟩ := foldl_max_spec (fun l => (sh.lane l).depth) (lanesOf sh.live) 0
  refine ⟨fun l hl hw hx => hall l ((mem_lanesOf _ _).mpr ((getLsbD_live sh hl).mpr ⟨hw, hx⟩)), hpick.imp_right ?_⟩
  rintro ⟨l, hin, heq⟩
  have hlive := (mem_lanesOf _ _).mp hin
  have hl := lt_of_getLsbD hlive
  obtain ⟨hw, hx⟩ := (getLsbD_live sh hl).mp hlive
  exact ⟨l, hw, hl, hx, heq⟩

/-- A tag is shown in a state, other than IDLE, to the stook that holds it there. -/
theorem testBit_tagsIn_ready (c : Core) (uid : Nat) {t : Nat} (ht : t < 64) :
    (c.tagsIn uid .ready).toNat.testBit t = true ↔ (c.tag t).holder = some uid ∧ (c.tag t).st = .ready := by
  rw [BitVec.testBit_toNat, Core.tagsIn, getLsbD_laneSetOf 64 _ t ht, decide_eq_true ht, Bool.true_and, beq_iff_eq, Core.tagSeen]
  split
  · next hh => exact (and_iff_right hh).symm
  · next hh => exact ⟨nofun, fun h => absurd h.1 hh⟩

/-- What SRD reads is the value of Table 6.2. -/
theorem sprReads_sprValue {s : State} {k : Ctx} {st : Stook} {c : Crop} (hst : s.stookOf k.sh = some st)
    (hc : s.cropOf st = some c) (r : Spr) : Spec.sprReads s k st c r (sprValue s k.sh r) := by
  cases r with
  | stookX | stookY | stookZ =>
    simp only [Spec.sprReads, sprValue, hst, Option.bind_some, hc]
    cases k.sh.serves <;> rfl
  | crop => intro _; simp only [sprValue, hst, Option.bind_some, hc, Option.map_some, Option.getD_some]
  | core =>
    simp only [Spec.sprReads, sprValue, hst, Option.bind_some, hc, Option.map_some, Option.getD_some]
    exact findIdx_spec _ _
  | ncore => simp only [Spec.sprReads, sprValue, hst, Option.bind_some, hc, Option.map_some, Option.getD_some]
  | pennants => exact fun t ht => testBit_tagsIn_ready _ _ ht
  | chdepth => exact chdepth_spec k.sh
  | binw | bina | binc => simp only [Spec.sprReads, sprValue, hst, Option.map_some, Option.getD_some]; rfl
  | sheaf | width | role | barn | die | cycles | ctx | prio => rfl

/-! ### SRD -/

theorem loWord_ofNat (v : Nat) : loWord (BitVec.ofNat 64 v) = BitVec.ofNat 32 v := by
  apply BitVec.eq_of_toNat_eq
  rw [loWord, BitVec.extractLsb'_toNat, BitVec.toNat_ofNat, BitVec.toNat_ofNat, Nat.shiftRight_zero]
  omega

theorem hiWord_ofNat (v : Nat) : hiWord (BitVec.ofNat 64 v) = BitVec.ofNat 32 (v / 2 ^ 32) := by
  apply BitVec.eq_of_toNat_eq
  rw [hiWord, BitVec.extractLsb'_toNat, BitVec.toNat_ofNat, BitVec.toNat_ofNat, Nat.shiftRight_eq_div_pow]
  omega

/-- The words that SRD writes. -/
theorem sprWords_eq (r : Spr) (v : Nat) :
    (if sprWide r then [loWord (BitVec.ofNat 64 v), hiWord (BitVec.ofNat 64 v)] else [loWord (BitVec.ofNat 64 v)]) =
      Spec.sprWords r v := by
  rw [loWord_ofNat, hiWord_ofNat]
  cases r <;> rfl

/-- A write of a group of uniform registers changes no other part of the sheaf. -/
theorem writeGroup_sreg_frame (sh : Sheaf) (d : SReg) (ws : List Word) : { sh.writeGroup d.reg 0 0 ws with s := sh.s } = sh := by
  cases d with
  | s n => exact writeGroup_s_frame n ws sh 0
  | z => rw [show SReg.z.reg = .z from rfl, writeGroup_z]

theorem lane_writeGroup_sreg (sh : Sheaf) (d : SReg) (ws : List Word) (l : Nat) :
    (sh.writeGroup d.reg 0 0 ws).lane l = sh.lane l := by
  have h := congrArg (fun y : Sheaf => y.lane l) (writeGroup_sreg_frame sh d ws)
  exact h

theorem writeGroup_sregsAfter (sh : Sheaf) (d : SReg) (ws : List Word) :
    Spec.SregsAfter sh (sh.writeGroup d.reg 0 0 ws) d ws := by
  intro j
  cases d with
  | s n => exact sreg_writeGroup n ws sh 0 j
  | z => rw [show SReg.z.reg = .z from rfl, writeGroup_z]

/-- An acquire by lanes of a resident sheaf clears their pending classes; memory and cores stay (14 R249). -/
theorem acquire_effect {s : State} {sid : Nat} {sh : Sheaf} (h : s.sheaf? sid = some sh) (m : LaneSet) (sc : Scope) :
    (s.acquire sid m sc).sheaf? sid = some (sh.modLanes m (fun _ l => { l with pend := .sh })) ∧
      (s.acquire sid m sc).mem = s.mem ∧ (s.acquire sid m sc).cores = s.cores := by
  simp only [State.acquire, h, sheaf_setSheaf, if_true, true_and]
  exact ⟨rfl, rfl⟩

/-- The sheaf with the value of a special register in D. -/
def srdSheaf (s : State) (k : Ctx) (d : SReg) (r : Spr) : Sheaf :=
  k.sh.writeGroup d.reg 0 0 (Spec.sprWords r (sprValue s k.sh r))
/-- The state in which SRD leaves the device: an acquire of the path follows where sr.pennants shows a tag (06 R117). -/
def srdState (s : State) (k : Ctx) (d : SReg) (r : Spr) : State :=
  if r = .pennants ∧ sprValue s k.sh r ≠ 0 then (s.setSheaf k.sid (srdSheaf s k d r)).acquire k.sid k.path .st
  else s.setSheaf k.sid (srdSheaf s k d r)

theorem srdBody_eq {s : State} {k : Ctx} (d : SReg) (r : Spr) (h : s.sheaf? k.sid = some k.sh) :
    srdBody s k d r = .ok { st := srdState s k d r } := by
  have hzero (b : BitVec 64) : BitVec.ofNat 64 b.toNat = 0 ↔ b.toNat = 0 := by
    rw [BitVec.ofNat_toNat, BitVec.setWidth_eq]; exact BitVec.toNat_eq.trans Iff.rfl
  simp only [srdBody, uniDone, sprWords_eq, modSheaf_some _ _ _ _ h]
  cases r with
  | pennants =>
    simp only [srdState, sprValue, hzero, true_and, ite_not]
    rfl
  | _ => rfl

/-- What SRD leaves: D written, and the lanes of the path acquired where it shows a tag. -/
theorem srdState_effect (s : State) (k : Ctx) (d : SReg) (r : Spr) :
    ∃ shu, (srdState s k d r).sheaf? k.sid = some shu ∧ (srdState s k d r).mem = s.mem ∧ (srdState s k d r).cores = s.cores ∧
      { shu with lanes := k.sh.lanes, s := k.sh.s } = k.sh ∧
      Spec.SregsAfter k.sh shu d (Spec.sprWords r (sprValue s k.sh r)) ∧
      ∀ l < 64, Spec.Acquired k.sh (if r = .pennants ∧ sprValue s k.sh r ≠ 0 then k.path else 0) l (shu.lane l) := by
  have hframe : { srdSheaf s k d r with s := k.sh.s } = k.sh := writeGroup_sreg_frame k.sh d _
  have hregs : Spec.SregsAfter k.sh (srdSheaf s k d r) d _ := writeGroup_sregsAfter k.sh d _
  have hlane (l : Nat) : (srdSheaf s k d r).lane l = k.sh.lane l := lane_writeGroup_sreg k.sh d _ l
  have hrest := congrArg (fun y : Sheaf => { y with lanes := k.sh.lanes }) hframe
  have hin : (s.setSheaf k.sid (srdSheaf s k d r)).sheaf? k.sid = some (srdSheaf s k d r) := by rw [sheaf_setSheaf, if_pos rfl]
  unfold srdState
  split
  · obtain ⟨hsh, hmem, hcores⟩ := acquire_effect hin k.path .st
    refine ⟨_, hsh, hmem, hcores, ?_, fun j => ?_, fun l _ => ?_⟩
    · rw [modLanes_eq]; exact hrest
    · rw [sreg_modLanes]; exact hregs j
    · rw [Spec.Acquired, lane_modLanes, hlane]
  · refine ⟨_, hin, rfl, rfl, hrest, hregs, fun l _ => ?_⟩
    exact (hlane l).trans (if_neg (ne_true_of_eq_false BitVec.getLsbD_zero)).symm

/-! ### The instructions -/

/-- An instruction whose body answers the state with another sheaf. -/
theorem leaves_modSheaf {i : Instr} {s : State} {k : Ctx} {body : Ctx → Except TrapInfo Done} {f : Sheaf → Sheaf}
    (hi : exec i s = issue i s body) (h : Issues i s k) (hb : body k = .ok { st := s.modSheaf k.sid f }) :
    ∃ u, Leaves i k s u ∧ { u with sheaves := s.sheaves } = s ∧ u.sheaf? k.sid = some (f k.sh) := by
  rw [modSheaf_some _ _ _ _ (issues_sheaf h)] at hb
  refine ⟨_, ⟨_, hi, issue_leaves i s _ k body h hb⟩, rfl, ?_⟩
  rw [sheaf_setSheaf, if_pos rfl]
end Sys2Proof.Laws

namespace Sys2Proof.Proofs
open Sys2Proof Sys2Proof.Machine Sys2Proof.Safety Sys2Proof.Laws

/-- Settles O36: SRD writes the value of Table 6.2, and SWR changes one field of its sheaf. -/
theorem specialRegisters : Obligations.SpecialRegisters := by
  unfold Obligations.SpecialRegisters
  refine ⟨?_, ?_, ?_⟩
  · intro i g d r s k st c hi _ h hst hc
    have hexec : exec i s = issue i s (fun k => srdBody s k d r) := by rcases hi with rfl | rfl <;> rfl
    obtain ⟨shu, hshu, hmem, hcores, hframe, hregs, hacq⟩ := srdState_effect s k d r
    exact ⟨_, shu, _, ⟨_, hexec, issue_leaves i s _ k _ h (srdBody_eq d r (issues_sheaf h))⟩, hshu, hmem, hcores,
      sprReads_sprValue hst hc r, hframe, hregs, hacq⟩
  · rintro i g a s k (rfl | rfl) h
    all_goals
      obtain ⟨u, hl, hrest, hshu⟩ := leaves_modSheaf rfl h rfl
      exact ⟨u, _, hl, hrest, hshu, rfl⟩
  · rintro i g a s k (rfl | rfl) h
    all_goals
      obtain ⟨u, hl, hrest, hshu⟩ := leaves_modSheaf rfl h rfl
      refine ⟨u, _, hl, hrest, hshu, ?_⟩
      simp only [Bool.or_eq_true]
      split <;> rfl
end Sys2Proof.Proofs
end

section
/-! ## Lane floating point (07 R120 to R126) -/

namespace Sys2Proof.Laws
open Sys2Proof Sys2Proof.Machine Sys2Proof.Safety

/-! ### Elements of a register -/

theorem half_zero (w : Word) : half w 0 = w.toNat % 65536 := by
  rw [half, Nat.mul_zero, Nat.pow_zero, Nat.div_one]

/-- A register has no bits above its second element. -/
theorem half_one (w : Word) : half w 1 = w.toNat / 65536 :=
  Nat.mod_eq_of_lt (Nat.div_lt_of_lt_mul w.isLt)

theorem perElem1_eq_each1 (t : Ty) (f : Num.Fmt → Nat → Nat) (a : Word) : perElem1 t (f (fmtOf t)) a = Spec.each1 t f a := by
  unfold perElem1 Spec.each1
  split
  · next ht => rw [ht]; rfl
  · rw [half_zero, half_one]

theorem perElem2_eq_each2 (t : Ty) (f : Num.Fmt → Nat → Nat → Nat) (a b : Word) :
    perElem2 t (f (fmtOf t)) a b = Spec.each2 t f a b := by
  unfold perElem2 Spec.each2
  split
  · next ht => rw [ht]; rfl
  · simp only [half_zero, half_one]

theorem perElem3_eq_each3 (t : Ty) (f : Num.Fmt → Nat → Nat → Nat → Nat) (a b c : Word) :
    perElem3 t (f (fmtOf t)) a b c = Spec.each3 t f a b c := by
  unfold perElem3 Spec.each3
  split
  · next ht => rw [ht]; rfl
  · simp only [half_zero, half_one]

/-! ### Minimum, maximum, class and two-term sums -/

/-- FMIN selects the first operand unless the second is below it (R123). -/
theorem minmax_eq_minE (t : Ty) (nan : Bool) (x y : Nat) :
    minmax t nan (fun a b => !Num.Val.below b a) x y = Spec.minE nan (fmtOf t) x y := by
  unfold minmax Spec.minE
  cases hx : ((fmtOf t).val x).isNan <;> cases hy : ((fmtOf t).val y).isNan
  case false.false => cases hb : Num.Val.below ((fmtOf t).val y) ((fmtOf t).val x) <;> simp [hx, hy, hb]
  all_goals simp [hx, hy]

theorem minmax_eq_maxE (t : Ty) (nan : Bool) (x y : Nat) :
    minmax t nan (fun a b => !Num.Val.below a b) x y = Spec.maxE nan (fmtOf t) x y := by
  unfold minmax Spec.maxE
  cases hx : ((fmtOf t).val x).isNan <;> cases hy : ((fmtOf t).val y).isNan
  case false.false => cases hb : Num.Val.below ((fmtOf t).val x) ((fmtOf t).val y) <;> simp [hx, hy, hb]
  all_goals simp [hx, hy]

theorem fmin_eq_each2 (t : Ty) (nan : Bool) (a b : Word) : fmin t nan a b = Spec.each2 t (Spec.minE nan) a b := by
  rw [fmin, funext₂ (minmax_eq_minE t nan), perElem2_eq_each2]

theorem fmax_eq_each2 (t : Ty) (nan : Bool) (a b : Word) : fmax t nan a b = Spec.each2 t (Spec.maxE nan) a b := by
  rw [fmax, funext₂ (minmax_eq_maxE t nan), perElem2_eq_each2]

/-! ### FCMP -/

theorem fcondHolds_eq_fcond (c : FCond) (a b : Num.Val) : fcondHolds c a b = Spec.fcond c (Num.Val.compare a b) := by
  unfold fcondHolds
  rcases Num.Val.compare a b with _ | _ | _ | _ <;> cases c <;> rfl

/-- The operand of FCMP, element 1 with .HI (R124). -/
theorem cmpVal_eq (t : Ty) (hi : Bool) (w : Word) : cmpVal t hi w =
    if t = .f32 then Num.f32.val w.toNat else (fmtOf t).val (if hi then w.toNat / 65536 else w.toNat % 65536) := by
  cases hi
  · rw [← half_zero]; rfl
  · rw [← half_one]; rfl

theorem exec_fcmp (g : Pred) (d : Fin 7) (a b : Reg) (ty : Ty) (c : FCond) (x : Combine) (hi : Bool) (s : State) :
    exec (.fcmp g d a b ty c x hi) s = laneP (.fcmp g d a b ty c x hi) s d (fun k l => Spec.combined x
      (Spec.fcond c (Num.Val.compare (cmpVal ty hi (Spec.A k a l)) (cmpVal ty hi (Spec.B k b l)))) (Spec.pred k l)) :=
  laneP_congr rfl fun k l => by rw [combineWith_eq_combined, fcondHolds_eq_fcond, funext (lane_pred_eq k l)]

/-! ### The table as what the instructions do -/

/-- Every instruction of R121 to R123, R125 and R126 writes the value that its row gives. -/
theorem exec_of_floats {i : Instr} {d : Dst} {f : Ctx → Nat → Word} (h : Spec.floats i = some (d, f)) (s : State) :
    exec i s = lane1 i s d f ∧ i.cls ≠ .uniform := by
  cases i <;> cases h
  case faddF32B32 | faddBf16B32 | faddF16B32 | faddX64 =>
    exact ⟨lane1_congr rfl fun k l => perElem2_eq_each2 _ (Spec.addE _) _ _, nofun⟩
  case fsubF32B32 | fsubX64 => exact ⟨lane1_congr rfl fun k l => perElem2_eq_each2 _ (Spec.subE _) _ _, nofun⟩
  case fmulF32B32 | fmulBf16B32 | fmulF16B32 | fmulX64 =>
    exact ⟨lane1_congr rfl fun k l => perElem2_eq_each2 _ (Spec.mulE _) _ _, nofun⟩
  case ffma => exact ⟨lane1_congr rfl fun k l => perElem3_eq_each3 _ (Spec.fmaE _) _ _ _, nofun⟩
  case fminF32B32 | fminX64 => exact ⟨lane1_congr rfl fun k l => fmin_eq_each2 _ _ _ _, nofun⟩
  case fmaxF32B32 | fmaxX64 => exact ⟨lane1_congr rfl fun k l => fmax_eq_each2 _ _ _ _, nofun⟩
  case frcpF32B32 | frcpX64 => exact ⟨lane1_congr rfl fun k l => perElem1_eq_each1 _ (fun f x => f.rcp (f.val x)) _, nofun⟩
  case frsqF32B32 | frsqX64 => exact ⟨lane1_congr rfl fun k l => perElem1_eq_each1 _ (fun f x => f.rsq (f.val x)) _, nofun⟩
  case fsqrtF32B32 | fsqrtX64 => exact ⟨lane1_congr rfl fun k l => perElem1_eq_each1 _ (fun f x => f.sqrt (f.val x)) _, nofun⟩
  case fexp2F32B32 | fexp2X64 => exact ⟨lane1_congr rfl fun k l => perElem1_eq_each1 _ (fun f x => f.exp2 (f.val x)) _, nofun⟩
  case flog2F32B32 | flog2X64 => exact ⟨lane1_congr rfl fun k l => perElem1_eq_each1 _ (fun f x => f.log2 (f.val x)) _, nofun⟩
  case fclassF32B32 | fclassX64 => exact ⟨lane1_congr rfl fun k l => perElem1_eq_each1 _ classBit _, nofun⟩
  case fdp2 => exact ⟨lane1_congr rfl fun k l => by simp only [fdp2, half_zero, half_one], nofun⟩
end Sys2Proof.Laws

namespace Sys2Proof.Proofs
open Sys2Proof Sys2Proof.Machine Sys2Proof.Safety Sys2Proof.Laws

/-- Settles O5: each meaning is the value of its row, element by element; FCMP writes one predicate. -/
theorem floatResults : Obligations.FloatResults := by
  unfold Obligations.FloatResults
  refine ⟨?_, ?_⟩
  · intro i d f s k hi _ h
    obtain ⟨hexec, hu⟩ := exec_of_floats hi s
    exact exec_lane1 hexec h hu
  · intro g d a b ty c x hi s k _ h
    simp only [← cmpVal_eq]
    exact exec_laneP (exec_fcmp g d a b ty c x hi s) h nofun
end Sys2Proof.Proofs
end

section
/-! ## Conversions (07 R127 to R129) -/

namespace Sys2Proof.Laws
open Sys2Proof Sys2Proof.Machine Sys2Proof.Safety

/-! ### Groups of words and their elements -/

theorem bytes_of_word (w : Word) :
    (w.extractLsb' 0 8).toNat + 256 * ((w.extractLsb' 8 8).toNat + 256 * ((w.extractLsb' 16 8).toNat +
      256 * (w.extractLsb' 24 8).toNat)) = w.toNat := by
  simp only [BitVec.extractLsb'_toNat, Nat.shiftRight_eq_div_pow]
  omega

theorem natOfBytes_bytesOfWords (ws : List Word) : natOfBytes (bytesOfWords ws) = groupNat ws := by
  induction ws with
  | nil => rfl
  | cons w ws ih =>
    have hw := bytes_of_word w
    simp only [bytesOfWords, natOfBytes, ih, groupNat, List.foldr_cons]
    omega

theorem element_eq_elemOf (ws : List Word) (bits j : Nat) : Spec.element ws bits j = elemOf (groupNat ws) bits j := by
  rw [Spec.element, natOfBytes_bytesOfWords, elemOf]

/-- The words cut from a number hold its low bits. -/
theorem groupNat_words (n : Nat) : ∀ g,
    groupNat ((List.range n).map (fun j => BitVec.ofNat 32 (g / 2 ^ (32 * j)))) = g % 2 ^ (32 * n) := by
  induction n with
  | zero => intro g; exact (Nat.mod_one g).symm
  | succ n ih =>
    intro g
    have htail : (fun j => BitVec.ofNat 32 (g / 2 ^ (32 * (j + 1)))) = fun j => BitVec.ofNat 32 (g / 2 ^ 32 / 2 ^ (32 * j)) := by
      funext j
      rw [Nat.div_div_eq_div_mul, ← Nat.pow_add, Nat.mul_succ, Nat.add_comm]
    rw [List.range_succ_eq_map, List.map_cons, List.map_map, groupNat, List.foldr_cons, ← groupNat]
    simp only [Function.comp_def, htail, ih, Nat.mul_zero, Nat.pow_zero, Nat.div_one, BitVec.toNat_ofNat]
    rw [Nat.mul_succ, Nat.add_comm (32 * n), Nat.pow_add, Nat.mod_mul]

/-- An element below bit m does not depend on the bits from m on. -/
theorem elemOf_mod (g : Nat) {bits j m : Nat} (h : bits * j + bits ≤ m) : elemOf (g % 2 ^ m) bits j = elemOf g bits j := by
  obtain ⟨x, rfl⟩ := Nat.exists_eq_add_of_le h
  rw [elemOf, elemOf, Nat.add_assoc, Nat.pow_add, Nat.mod_mul_right_div_self, Nat.pow_add, Nat.mod_mul_right_mod]

/-- One number for the elements of a list, the first lowest, where `f` gives each from its index and its value. -/
def packed (bits : Nat) (f : Nat → Nat → Nat) (i : Nat) (xs : List Nat) : Nat :=
  (xs.zipIdx i).foldr (fun e acc => f e.2 e.1 + 2 ^ bits * acc) 0

theorem elemOf_packed {bits : Nat} {f : Nat → Nat → Nat} (hf : ∀ i x, f i x < 2 ^ bits) (xs : List Nat) :
    ∀ {i j x}, xs[j]? = some x → elemOf (packed bits f i xs) bits j = f (i + j) x := by
  induction xs with
  | nil => nofun
  | cons y ys ih =>
    intro i j x hx
    rw [packed, List.zipIdx_cons, List.foldr_cons, ← packed]
    cases j with
    | zero =>
      obtain rfl : y = x := by simpa using hx
      rw [elemOf, Nat.mul_zero, Nat.pow_zero, Nat.div_one, Nat.add_mul_mod_self_left, Nat.mod_eq_of_lt (hf _ _), Nat.add_zero]
    | succ j =>
      have hlow : (f i y + 2 ^ bits * packed bits f (i + 1) ys) / 2 ^ bits = packed bits f (i + 1) ys := by
        rw [Nat.add_mul_div_left _ _ (Nat.two_pow_pos bits), Nat.div_eq_of_lt (hf _ _), Nat.zero_add]
      rw [elemOf, Nat.mul_succ, Nat.add_comm (bits * j), Nat.pow_add, ← Nat.div_div_eq_div_mul, hlow, ← elemOf,
        ih (by simpa using hx), Nat.add_right_comm, Nat.add_assoc]

/-! ### Sizes of a conversion (R127) -/

theorem bits_cases (t : Ty) : t.bits = 4 ∨ t.bits = 8 ∨ t.bits = 16 ∨ t.bits = 32 ∨ t.bits = 64 := by
  cases t <;> decide

/-- The converted elements fit the destination group. -/
theorem cvtN_mul_bits_le (dt st : Ty) : cvtN dt st * dt.bits ≤ 32 * cvtDstRegs dt st := by
  unfold cvtDstRegs
  split
  · next hlt =>
    have hd := bits_cases dt
    have hs := bits_cases st
    unfold cvtN
    split
    · omega
    · rw [Nat.min_eq_left (Nat.le_of_lt hlt)]
      exact Nat.div_mul_le_self _ _
  · omega

/-- Where B is used, it holds as many elements as A. -/
theorem cvtN_half_of_cvtBRegs (dt st : Ty) (h : cvtBRegs dt st ≠ 0) : cvtN dt st = cvtN dt st / 2 + cvtN dt st / 2 := by
  have hn : 2 ≤ cvtN dt st := by
    by_contra hn
    exact h (if_neg fun hc => hn hc.2)
  revert hn
  unfold cvtN
  split
  · omega
  · next hnarrow =>
    have hd := bits_cases dt
    have hs := bits_cases st
    have hmin : min dt.bits st.bits = 4 ∨ min dt.bits st.bits = 8 ∨ min dt.bits st.bits = 16 := by omega
    intro _
    rcases hmin with hmin | hmin | hmin <;> rw [hmin]

/-- The elements that the model converts are those of the A group, then of the B group. -/
theorem cvtSource_getElem? (k : Ctx) (a b : Reg) (dt st : Ty) (l : Nat) {j : Nat} (hj : j < cvtN dt st) :
    (cvtSource k a b dt st l)[j]? = some (Spec.source k a b dt st l j) := by
  simp only [cvtSource, Spec.source, element_eq_elemOf]
  by_cases hb : cvtBRegs dt st = 0
  · rw [if_pos hb, if_pos (.inl hb), List.getElem?_map, List.getElem?_range hj]; rfl
  · have hn := cvtN_half_of_cvtBRegs dt st hb
    rw [if_neg hb, List.getElem?_append, List.length_map, List.length_range]
    by_cases hlow : j < cvtN dt st / 2
    · rw [if_pos hlow, if_pos (.inr hlow), List.getElem?_map, List.getElem?_range hlow]; rfl
    · have hhigh : j - cvtN dt st / 2 < cvtN dt st / 2 := by omega
      rw [if_neg hlow, if_neg (by rintro (h0 | h1); exacts [hb h0, hlow h1]), List.getElem?_map, List.getElem?_range hhigh]; rfl

/-- Each converted element stands at its place in the group D. -/
theorem element_cvtWords {dt st : Ty} {f : Nat → Nat → Nat} (hf : ∀ i x, f i x < 2 ^ dt.bits) {xs : List Nat} {j x : Nat}
    (hj : j < cvtN dt st) (hx : xs[j]? = some x) : Spec.element (cvtWords dt st f xs) dt.bits j = f j x := by
  have hfit : dt.bits * j + dt.bits ≤ 32 * cvtDstRegs dt st := by
    rw [← Nat.mul_succ, Nat.mul_comm]
    exact (Nat.mul_le_mul_right _ hj).trans (cvtN_mul_bits_le dt st)
  rw [element_eq_elemOf, cvtWords, groupNat_words, elemOf_mod _ hfit, ← packed, elemOf_packed hf xs hx, Nat.zero_add]

theorem length_cvtWords (dt st : Ty) (f : Nat → Nat → Nat) (xs : List Nat) :
    (cvtWords dt st f xs).length = cvtDstRegs dt st := by
  rw [cvtWords, List.length_map, List.length_range]

/-! ### Codes are within the width of their format -/

/-- The special codes of a format leave its sign bit free. -/
structure CodesFit (f : Num.Fmt) : Prop where
  max : f.maxCode < f.signBit
  inf : f.infCode < f.signBit
  nan : f.nanCode < f.signBit

theorem codesFit_fmtOf (t : Ty) : CodesFit (fmtOf t) := by
  cases t <;> exact ⟨by decide, by decide, by decide⟩

section
variable {f : Num.Fmt}

theorem two_signBits (f : Num.Fmt) : f.signBit + f.signBit = 2 ^ f.width := by
  rw [Num.Fmt.signBit, Num.Fmt.width, Nat.add_assoc, Nat.add_comm 1, Nat.pow_succ, Nat.mul_two]

theorem withSign_lt (neg : Bool) {mag : Nat} (h : mag < f.signBit) : f.withSign neg mag < 2 ^ f.width := by
  rw [← two_signBits]
  cases neg
  · exact Nat.lt_add_left _ h
  · exact Nat.add_lt_add_left h _

variable (hf : CodesFit f)
include hf

theorem nanCode_lt : f.nanCode < 2 ^ f.width := withSign_lt false hf.nan

theorem infOf_lt (neg : Bool) : f.infOf neg < 2 ^ f.width := by
  unfold Num.Fmt.infOf
  split
  · exact withSign_lt neg hf.inf
  · exact withSign_lt neg hf.inf
  · exact withSign_lt neg hf.max
  · exact withSign_lt neg hf.max

theorem overflow_lt (rm : RM) (neg : Bool) : f.overflow rm neg < 2 ^ f.width := by
  unfold Num.Fmt.overflow
  split
  · exact withSign_lt neg (iteInduction (motive := (· < f.signBit)) (fun _ => hf.inf) fun _ => hf.max)
  · exact withSign_lt neg hf.max

theorem roundPos_lt (rm : RM) (neg : Bool) (m : Nat) (e : Int) (sticky : Bool) :
    f.roundPos rm neg m e sticky < 2 ^ f.width := by
  unfold Num.Fmt.roundPos
  dsimp only
  split
  · exact overflow_lt hf rm neg
  · next hle => exact withSign_lt neg ((Nat.not_lt.mp hle).trans_lt hf.max)

theorem roundVal_lt (rm : RM) (v : Num.Val) : f.roundVal rm v < 2 ^ f.width := by
  cases v with
  | nan => exact nanCode_lt hf
  | inf n => exact infOf_lt hf n
  | fin n m e => exact roundPos_lt hf rm n m e false

theorem roundDy_lt (rm : RM) (neg : Bool) (x : Num.Dy) : f.roundDy rm neg x < 2 ^ f.width := by
  unfold Num.Fmt.roundDy
  split
  · exact withSign_lt neg (Nat.two_pow_pos _)
  · exact roundPos_lt hf rm _ _ _ _

/-- The greater neighbour is taken only where the lesser one is below the largest code (01 R15). -/
theorem roundStoch_lt (g : Nat) (v : Num.Val) : f.roundStoch g v < 2 ^ f.width := by
  cases v with
  | nan => exact nanCode_lt hf
  | inf n => exact infOf_lt hf n
  | fin n m e =>
    unfold Num.Fmt.roundStoch
    dsimp only
    generalize hlo : f.roundMag .rz n m e false = lo
    split
    · exact withSign_lt n (Nat.two_pow_pos _)
    · split
      · exact roundPos_lt hf _ _ _ _ _
      · next hin =>
        have hle : lo ≤ f.maxCode := Nat.not_lt.mp fun h => hin (.inl h)
        have hlow : f.withSign n lo < 2 ^ f.width := withSign_lt n (hle.trans_lt hf.max)
        split
        · exact hlow
        · next hlt =>
          have hne : lo ≠ f.maxCode := fun h => hin (.inr ⟨h, by simpa using hlt⟩)
          have hhigh : f.withSign n (lo + 1) < 2 ^ f.width :=
            withSign_lt n (Nat.lt_of_le_of_lt (Nat.lt_of_le_of_ne hle hne) hf.max)
          split
          · split
            · exact hhigh
            · exact hlow
          · exact hlow
end

/-! ### Converted elements -/

theorem width_fmtOf {t : Ty} (h : isFloat t = true) : (fmtOf t).width = t.bits := by
  cases t <;> cases h <;> rfl

theorem intCode_lt (t : Ty) (x : Int) : intCode t x < 2 ^ t.bits := by
  have hpos : (0 : Int) < (2 ^ t.bits : Nat) := Int.natCast_pos.mpr (Nat.two_pow_pos _)
  have hlt := Int.emod_lt_of_pos x hpos
  have hnn := Int.emod_nonneg x hpos.ne'
  unfold intCode
  omega

/-- A converted element is a code of the target type (R128). -/
theorem cvtElem_lt (dt st : Ty) (rm : RM) (x : Nat) : cvtElem dt st rm x < 2 ^ dt.bits := by
  have hfit := codesFit_fmtOf dt
  unfold cvtElem
  cases hd : isFloat dt with
  | true =>
    rw [← width_fmtOf hd]
    simp only [if_true]
    split
    · exact roundVal_lt hfit rm _
    · exact roundDy_lt hfit rm _ _
  | false =>
    simp only [Bool.false_eq_true, if_false]
    split
    · split
      · exact Nat.two_pow_pos _
      · exact intCode_lt dt _
      · exact intCode_lt dt _
    · split <;> exact intCode_lt dt _

theorem stochElem_lt {dt : Ty} (h : isFloat dt = true) (st : Ty) (g x : Nat) : stochElem dt st g x < 2 ^ dt.bits := by
  rw [← width_fmtOf h]
  exact roundStoch_lt (codesFit_fmtOf dt) g _

theorem isFloat_of_isOneOf {t : Ty} (h : t.isOneOf [.f16, .bf16, .e4m3, .e5m2, .e2m1] = true) : isFloat t = true := by
  cases t <;> cases h <;> rfl

/-- The random operand of an element: 16 bits of the group C (R129). -/
theorem cvtRandom_eq (k : Ctx) (c : Reg) (dt st : Ty) (l j : Nat) : cvtRandom k c dt st l j =
    Spec.element ((List.range (cvtsrCRegs dt st)).map (fun x => k.opC c l x)) 16 j :=
  (element_eq_elemOf _ _ _).symm

/-- A conversion writes the words of its elements in the lanes of E. -/
theorem exec_cvtWords {i : Instr} {s : State} {k : Ctx} {d : Dst} {a b : Reg} {dt st : Ty}
    {f : Ctx → Nat → Nat → Nat → Nat}
    (hi : exec i s = issue i s (fun k => .ok (groupDone s k d.reg (fun l => cvtWords dt st (f k l) (cvtSource k a b dt st l)))))
    (h : Issues i s k) (hu : i.cls ≠ .uniform) (hf : ∀ l j x, f k l j x < 2 ^ dt.bits) :
    ∃ t ws, exec i s = .next t ∧ LaneResult i s t k d.reg ws ∧
      ∀ l, (ws l).length = cvtDstRegs dt st ∧
        ∀ j < cvtN dt st, Spec.element (ws l) dt.bits j = f k l j (Spec.source k a b dt st l j) :=
  ⟨_, _, hi, issue_group i s k d.reg (fun k l => cvtWords dt st (f k l) (cvtSource k a b dt st l)) h hu (isLaneDst_reg d),
    fun l => ⟨length_cvtWords _ _ _ _, fun _ hj => element_cvtWords (hf l) hj (cvtSource_getElem? k a b dt st l hj)⟩⟩
end Sys2Proof.Laws

namespace Sys2Proof.Proofs
open Sys2Proof Sys2Proof.Machine Sys2Proof.Safety Sys2Proof.Laws

/-- Settles O6: every element is a code of the target type, so the group D holds each at its place. -/
theorem conversionResults : Obligations.ConversionResults := by
  unfold Obligations.ConversionResults
  refine ⟨?_, ?_⟩
  · intro g d a b dt st rm s k _ h
    exact exec_cvtWords (f := fun _ _ _ x => cvtElem dt st rm x) rfl h nofun fun _ _ x => cvtElem_lt dt st rm x
  · intro g d a b c dt st s k hw h
    simp only [Instr.wf, cvtsrWf, Bool.and_eq_true] at hw
    obtain ⟨⟨⟨⟨⟨-, hdt⟩, -⟩, -⟩, -⟩, -⟩ := hw
    simp only [← cvtRandom_eq]
    exact exec_cvtWords (f := fun k l j x => stochElem dt st (cvtRandom k c dt st l j) x) rfl h nofun
      fun _ _ x => stochElem_lt (isFloat_of_isOneOf hdt) st _ x
end Sys2Proof.Proofs
end

section
/-! ## Quantisation into bins (07 R130 to R132) -/

namespace Sys2Proof.Laws
open Sys2Proof Sys2Proof.Machine Sys2Proof.Safety

/-! ### What only bins and the waits on them can differ in -/

theorem binsOnly_refl (s : State) : Spec.BinsOnly s s :=
  ⟨rfl, fun _ => rfl, fun _ h => h, fun _ st h => ⟨st, h, rfl⟩, fun _ sh h => ⟨sh, h, rfl, rfl⟩⟩

theorem binsOnly_trans {s u v : State} (h1 : Spec.BinsOnly s u) (h2 : Spec.BinsOnly u v) : Spec.BinsOnly s v where
  rest :=
    (congrArg (fun x : State => { x with stooks := s.stooks, sheaves := s.sheaves, cores := s.cores }) h2.rest).trans h1.rest
  cores c := (congrArg (fun x : Core => { x with ports := (s.core c).ports }) (h2.cores c)).trans (h1.cores c)
  none_ x h := h2.none_ x (h1.none_ x h)
  stooks x st h := by
    obtain ⟨st1, hst1, hrest1⟩ := h1.stooks x st h
    obtain ⟨st2, hst2, hrest2⟩ := h2.stooks x st1 hst1
    have hrest := congrArg (fun y : Stook => { y with binW := st.binW, binA := st.binA, binC := st.binC }) hrest2
    exact ⟨st2, hst2, hrest.trans hrest1⟩
  sheaves x sh h := by
    obtain ⟨sh1, hsh1, hrest1, hfl1⟩ := h1.sheaves x sh h
    obtain ⟨sh2, hsh2, hrest2, hfl2⟩ := h2.sheaves x sh1 hsh1
    exact ⟨sh2, hsh2, (congrArg (fun y : Sheaf => { y with flights := sh.flights }) hrest2).trans hrest1, hfl2.trans hfl1⟩

/-! ### Writes of a bin -/

theorem setBin_frame (st : Stook) (b : BinId) (v : KV Byte) :
    { st.setBin b v with binW := st.binW, binA := st.binA, binC := st.binC } = st := by cases b <;> rfl

theorem bin_setBin (st : Stook) (b b' : BinId) (v : KV Byte) : (st.setBin b v).bin b' = if b' = b then v else st.bin b' := by
  cases b <;> cases b' <;> rfl

theorem kv_find_map {α β : Type} (m : KV α) (f : α → β) (k : Nat) :
    KV.find? (m.map (fun e => (e.1, f e.2))) k = (m.find? k).map f := by
  induction m with
  | nil => rfl
  | cons e r ih =>
    simp only [List.map_cons, KV.find?, ih]
    split <;> rfl

/-- A sheaf with each of its flights changed, and the state with every sheaf so. -/
def sheafFlights (g : Flight → Flight) (sh : Sheaf) : Sheaf := { sh with flights := sh.flights.map g }
def mapFlights (g : Flight → Flight) (s : State) : State :=
  { s with sheaves := s.sheaves.map (fun e => (e.1, sheafFlights g e.2)) }

theorem sheaf_mapFlights (g : Flight → Flight) (s : State) (x : Nat) :
    (mapFlights g s).sheaf? x = (s.sheaf? x).map (sheafFlights g) :=
  kv_find_map s.sheaves _ x

/-- Changes of the readiness of flights. -/
theorem binsOnly_mapFlights {g : Flight → Flight} (hg : ∀ f, { g f with ready := 0 } = { f with ready := 0 }) (s : State) :
    Spec.BinsOnly s (mapFlights g s) where
  rest := rfl
  cores _ := rfl
  none_ _ h := h
  stooks _ st h := ⟨st, h, rfl⟩
  sheaves x sh h := by
    refine ⟨sheafFlights g sh, by rw [sheaf_mapFlights, h]; rfl, rfl, ?_⟩
    rw [sheafFlights, List.map_map]
    exact List.map_congr_left fun f _ => hg f

/-- A test of a barrier word changes only which lanes are ready (09 R167). -/
theorem fbTest_ready (f : Flight) (uid off phase : Nat) : { f.fbTest uid off phase with ready := 0 } = { f with ready := 0 } := by
  unfold Flight.fbTest
  split <;> rfl

/-- A sequence of changes of the readiness of flights. -/
theorem foldl_mapFlights {α : Type} {g : α → Flight → Flight} (hg : ∀ x f, { g x f with ready := 0 } = { f with ready := 0 })
    (xs : List α) : ∀ s : State, Spec.BinsOnly s (xs.foldl (fun s x => mapFlights (g x) s) s) ∧
      (xs.foldl (fun s x => mapFlights (g x) s) s).stooks = s.stooks := by
  induction xs with
  | nil => exact fun s => ⟨binsOnly_refl s, rfl⟩
  | cons x xs ih =>
    intro s
    obtain ⟨honly, hstooks⟩ := ih (mapFlights (g x) s)
    exact ⟨binsOnly_trans (binsOnly_mapFlights (hg x) s) honly, hstooks⟩

section
variable {s : State} {uid : Nat} {st : Stook} (h : s.stook? uid = some st)
include h

theorem binsOnly_setStook {st' : Stook} (hst : { st' with binW := st.binW, binA := st.binA, binC := st.binC } = st) :
    Spec.BinsOnly s (s.setStook uid st') where
  rest := rfl
  cores _ := rfl
  none_ x hx := by
    rw [stook_setStook, if_neg (fun heq => by subst heq; rw [h] at hx; cases hx), hx]
  stooks x y hx := by
    rw [stook_setStook]
    split
    · next heq =>
      subst heq
      obtain rfl : st = y := Option.some.inj (h.symm.trans hx)
      exact ⟨st', rfl, hst⟩
    · exact ⟨y, hx, rfl⟩
  sheaves _ sh hx := ⟨sh, hx, rfl, rfl⟩

/-- A write to a bin: the bytes of the stook's bin, and the waits on them. -/
theorem binWrite_effect (b : BinId) (off : Nat) (bs : List Byte) : Spec.BinsOnly s (s.binWrite uid b off bs) ∧
    (s.binWrite uid b off bs).stooks = (s.setStook uid (st.binWrite b off bs)).stooks := by
  have hset : Spec.BinsOnly s (s.setStook uid (st.binWrite b off bs)) := binsOnly_setStook h (setBin_frame st b _)
  unfold State.binWrite
  dsimp only
  rw [modStook_some s uid _ st h, stook_setStook, if_pos rfl]
  cases b with
  | w | c => exact ⟨hset, rfl⟩
  | a =>
    obtain ⟨honly, hstooks⟩ := foldl_mapFlights
      (g := fun i f => f.fbTest uid ((off / 8 + i) * 8)
        (natOfBytes ((st.binWrite .a off bs).binRead .a ((off / 8 + i) * 8 + 4) 1) % 2))
      (fun i f => fbTest_ready f _ _ _) (List.range ((off + bs.length + 7) / 8 - off / 8))
      (s.setStook uid (st.binWrite .a off bs))
    exact ⟨binsOnly_trans hset honly, hstooks⟩

theorem stook_binWrite (b : BinId) (off : Nat) (bs : List Byte) :
    (s.binWrite uid b off bs).stook? uid = some (st.binWrite b off bs) := by
  rw [State.stook?, (binWrite_effect h b off bs).2]
  exact (stook_setStook s uid uid _).trans (if_pos rfl)

/-- A byte of a bin after a write to one. -/
theorem binByte_binWrite (b : BinId) (off : Nat) (bs : List Byte) (b' : BinId) (y o : Nat) :
    Spec.binByte (s.binWrite uid b off bs) b' y o =
      if y = uid ∧ b' = b ∧ off ≤ o ∧ o < off + bs.length then bs.getD (o - off) 0 else Spec.binByte s b' y o := by
  by_cases hy : y = uid
  · subst hy
    simp only [Spec.binByte, stook_binWrite h, h, Stook.binWrite, bin_setBin, true_and]
    by_cases hb : b' = b
    · subst hb
      simp only [if_true, memByte_memWrite, true_and]
    · simp only [hb, if_false, false_and]
  · have hother : (s.binWrite uid b off bs).stook? y = s.stook? y := by
      rw [State.stook?, (binWrite_effect h b off bs).2]
      exact (stook_setStook s uid y _).trans (if_neg (Ne.symm hy))
    simp only [Spec.binByte, hother, hy, false_and, if_false]

end

/-! ### The bytes of a copy -/

/-- Byte o of a copy: element o mod 32 of block o / 32, then the scales (R131). -/
def mxByte (f : Nat → Nat → Num.Val) (o : Nat) : Nat :=
  if o < 1024 then (Num.mxQuantise Num.e4m3 8 ((List.range 32).map (f (o / 32)))).2.getD (o % 32) 0
  else (Num.mxQuantise Num.e4m3 8 ((List.range 32).map (f (o - 1024)))).1

theorem length_mxQuantise (f : Num.Fmt) (emax : Int) (xs : List Num.Val) : (Num.mxQuantise f emax xs).2.length = xs.length := by
  unfold Num.mxQuantise
  dsimp only
  split
  · exact List.length_map _
  · split <;> exact List.length_map _

section
variable {α : Type} {g : Nat → List α} {m : Nat} (hg : ∀ r, (g r).length = m)
include hg

theorem length_flatMap_blocks (n : Nat) : ((List.range n).flatMap g).length = n * m := by
  rw [List.length_flatMap, List.map_congr_left (fun r _ => hg r), List.map_const', List.sum_replicate, List.length_range,
    smul_eq_mul]

/-- Blocks of one length, one after another. -/
theorem getD_flatMap_blocks (d : α) (n : Nat) : ∀ {o}, o < n * m →
    ((List.range n).flatMap g).getD o d = (g (o / m)).getD (o % m) d := by
  induction n with
  | zero => intro o ho; omega
  | succ n ih =>
    intro o ho
    rw [List.range_succ, List.flatMap_append, List.flatMap_singleton]
    by_cases hlow : o < n * m
    · rw [List.getD_append _ _ _ _ (by rwa [length_flatMap_blocks hg]), ih hlow]
    · have hlen := length_flatMap_blocks hg n
      rw [List.getD_append_right _ _ _ _ (by omega), hlen]
      rw [Nat.succ_mul] at ho
      obtain ⟨x, rfl⟩ := Nat.exists_eq_add_of_le (Nat.not_lt.mp hlow)
      have hx : x < m := by omega
      rw [Nat.add_sub_cancel_left, Nat.mul_comm n m, Nat.mul_add_div (by omega), Nat.mul_add_mod, Nat.div_eq_of_lt hx,
        Nat.mod_eq_of_lt hx, Nat.add_zero]
end

theorem mxCopy_eq (f : Nat → Nat → Num.Val) : mxCopy f =
    (List.range 32).flatMap (fun r => (Num.mxQuantise Num.e4m3 8 ((List.range 32).map (f r))).2.map (BitVec.ofNat 8)) ++
      (List.range 32).map (fun r => BitVec.ofNat 8 (Num.mxQuantise Num.e4m3 8 ((List.range 32).map (f r))).1) := by
  simp only [mxCopy, List.flatMap_map, List.map_map]
  rfl

theorem length_mxBlock (f : Nat → Nat → Num.Val) (r : Nat) :
    ((Num.mxQuantise Num.e4m3 8 ((List.range 32).map (f r))).2.map (BitVec.ofNat 8)).length = 32 := by
  rw [List.length_map, length_mxQuantise, List.length_map, List.length_range]

theorem length_mxCopy (f : Nat → Nat → Num.Val) : (mxCopy f).length = 1056 := by
  rw [mxCopy_eq, List.length_append, length_flatMap_blocks (length_mxBlock f), List.length_map, List.length_range]

theorem getD_mxCopy (f : Nat → Nat → Num.Val) {o : Nat} (ho : o < 1056) :
    (mxCopy f).getD o 0 = BitVec.ofNat 8 (mxByte f o) := by
  have hlen := length_flatMap_blocks (length_mxBlock f) 32
  rw [mxCopy_eq, mxByte]
  split
  · next hlow =>
    rw [List.getD_append _ _ _ _ (by omega), getD_flatMap_blocks (length_mxBlock f) 0 32 hlow]
    exact List.getD_map _ 0 (BitVec.ofNat 8)
  · next hhigh =>
    rw [List.getD_append_right _ _ _ _ (by omega), hlen, List.getD_eq_getElem?_getD, List.getElem?_map,
      List.getElem?_range (by omega)]
    rfl

/-! ### DQUANT -/

/-- The row copy, then the column copy. -/
def dquantState (s : State) (k : Ctx) (a : Fin 96) (hi : Bool) (rowBin colBin : BinId) (ro co : Nat) : State :=
  (s.binWrite k.sh.uid rowBin ro (mxCopy (tileElem k a hi))).binWrite k.sh.uid colBin co (mxCopy (fun r c => tileElem k a hi c r))

/-- The checks of R132 pass where both addresses are aligned, name the sheaf's own stook and lie in its allotments. -/
theorem dquantBody_ok {s : State} {k : Ctx} {b c : SReg} {rowA colA : Bool} {st : Stook} {ub uc ro co : Nat}
    (a : Fin 96) (hi : Bool) (hst : s.stookOf k.sh = some st) (hb : (Spec.SB k b).toNat % 32 = 0) (hc : (Spec.SC k c).toNat % 32 = 0)
    (hbm : (Spec.SB k b).toNat < 2 ^ 24) (hcm : (Spec.SC k c).toNat < 2 ^ 24)
    (hrow : s.binPlace st k.sh.uid (if rowA then .a else .w) (Spec.SB k b).toNat 1056 = some (ub, ro))
    (hcol : s.binPlace st k.sh.uid (if colA then .a else .w) (Spec.SC k c).toNat 1056 = some (uc, co)) :
    dquantBody s k a b c hi rowA colA =
      .ok { st := dquantState s k a hi (if rowA then .a else .w) (if colA then .a else .w) ro co } := by
  have hst' : s.stook? k.sh.uid = some st := hst
  have hmem {x : Nat} (hx : x < 2 ^ 24) : binMember x = 0 := by rw [binMember, Nat.div_eq_of_lt hx]
  have hbm' := hmem hbm
  have hcm' := hmem hcm
  unfold dquantBody
  simp only [hst', hb, hc, hbm', hcm', hrow, hcol, ne_eq, not_true_eq_false, if_false]
  rfl

theorem dquantState_binsOnly {s : State} {k : Ctx} {st : Stook} (hst : s.stookOf k.sh = some st) (a : Fin 96) (hi : Bool)
    (rowBin colBin : BinId) (ro co : Nat) : Spec.BinsOnly s (dquantState s k a hi rowBin colBin ro co) :=
  binsOnly_trans (binWrite_effect hst _ _ _).1 (binWrite_effect (stook_binWrite hst _ _ _) _ _ _).1

/-- Where the copies overlap the column copy's bytes remain. -/
theorem binByte_dquantState {s : State} {k : Ctx} {st : Stook} (hst : s.stookOf k.sh = some st) (a : Fin 96) (hi : Bool)
    (rowBin colBin : BinId) (ro co : Nat) (bin : BinId) (y o : Nat) :
    Spec.binByte (dquantState s k a hi rowBin colBin ro co) bin y o =
      if y = k.sh.uid ∧ bin = colBin ∧ co ≤ o ∧ o < co + 1056 then
        BitVec.ofNat 8 (mxByte (fun r c => tileElem k a hi c r) (o - co))
      else if y = k.sh.uid ∧ bin = rowBin ∧ ro ≤ o ∧ o < ro + 1056 then BitVec.ofNat 8 (mxByte (tileElem k a hi) (o - ro))
      else Spec.binByte s bin y o := by
  rw [dquantState, binByte_binWrite (stook_binWrite hst _ _ _), binByte_binWrite hst, length_mxCopy, length_mxCopy]
  refine ite_congr rfl (fun hin => ?_) fun _ => ite_congr rfl (fun hin => ?_) fun _ => rfl
  all_goals
    obtain ⟨-, -, hlo, hhi⟩ := hin
    exact getD_mxCopy _ (by omega)
end Sys2Proof.Laws

namespace Sys2Proof.Proofs
open Sys2Proof Sys2Proof.Machine Sys2Proof.Safety Sys2Proof.Laws

/-- Settles O15: the checks pass, and the bytes are those of the second write, then of the first. -/
theorem blockQuantisation : Obligations.BlockQuantisation := by
  unfold Obligations.BlockQuantisation
  intro g a b c hi rowA colA s k st ro co _ h hst hb hc hbm hcm hrow hcol
  exact ⟨_, ⟨_, rfl, issue_leaves _ s _ k _ h (dquantBody_ok a hi hst hb hc hbm hcm hrow hcol)⟩,
    dquantState_binsOnly hst a hi _ _ ro co, binByte_dquantState hst a hi _ _ ro co⟩
end Sys2Proof.Proofs
end
section
/-! ## Exact recovery by the undo partners (08 R141 to R146) -/

namespace Sys2Proof.Laws
open Sys2Proof Sys2Proof.Machine Sys2Proof.Safety

/-! ### Dyadic numbers as rational numbers -/

/-- The rational number that a dyadic number stands for. -/
def ratOf (x : Num.Dy) : ℚ := x.m * 2 ^ x.e

theorem pow2_cast {k : Int} (h : 0 ≤ k) : ((Num.pow2 k : ℕ) : ℚ) = 2 ^ k := by
  rw [Num.pow2, Nat.cast_pow, Nat.cast_ofNat, ← zpow_natCast, Int.toNat_of_nonneg h]

/-- A coefficient brought to a lower exponent. -/
theorem pow2_mul_zpow {e f : Int} (h : f ≤ e) : ((Num.pow2 (e - f) : ℕ) : ℚ) * 2 ^ f = 2 ^ e := by
  rw [pow2_cast (Int.sub_nonneg_of_le h), ← zpow_add₀ two_ne_zero, Int.sub_add_cancel]

theorem ratOf_add (a b : Num.Dy) : ratOf (a.add b) = ratOf a + ratOf b := by
  simp only [ratOf, Num.Dy.add]
  push_cast
  rw [add_mul, mul_assoc, mul_assoc, pow2_mul_zpow (min_le_left _ _), pow2_mul_zpow (min_le_right _ _)]

theorem ratOf_neg (a : Num.Dy) : ratOf a.neg = -ratOf a := by
  simp only [ratOf, Num.Dy.neg, Int.cast_neg, neg_mul]

theorem ratOf_mul (a b : Num.Dy) : ratOf (a.mul b) = ratOf a * ratOf b := by
  simp only [ratOf, Num.Dy.mul, Int.cast_mul, zpow_add₀ (two_ne_zero (α := ℚ))]
  ring

theorem ratOf_eq_zero_iff (a : Num.Dy) : ratOf a = 0 ↔ a.m = 0 := by
  rw [ratOf, mul_eq_zero_iff_right (zpow_ne_zero _ two_ne_zero), Int.cast_eq_zero]

theorem ratOf_neg_iff (a : Num.Dy) : ratOf a < 0 ↔ a.m < 0 := by
  have hpos : (0 : ℚ) < 2 ^ a.e := zpow_pos two_pos _
  rw [ratOf, mul_neg_iff, ← Int.cast_lt_zero (R := ℚ)]
  simp [hpos, hpos.not_gt]

theorem lt_iff_ratOf (a b : Num.Dy) : a.lt b = true ↔ ratOf a < ratOf b := by
  have hpos : (0 : ℚ) < 2 ^ min a.e b.e := zpow_pos two_pos _
  rw [Num.Dy.lt, decide_eq_true_iff, ← Int.cast_lt (R := ℚ), ← mul_lt_mul_iff_left₀ hpos]
  push_cast
  rw [mul_assoc, mul_assoc, pow2_mul_zpow (min_le_left _ _), pow2_mul_zpow (min_le_right _ _)]
  rfl

theorem Dy_eq_iff_ratOf (a b : Num.Dy) : Dy_eq a b = true ↔ ratOf a = ratOf b := by
  have hab := lt_iff_ratOf a b
  have hba := lt_iff_ratOf b a
  rw [Dy_eq, Bool.and_eq_true, Bool.not_eq_true', Bool.not_eq_true', ← Bool.not_eq_true, ← Bool.not_eq_true, hab, hba, not_lt, not_lt]
  exact ⟨fun h => le_antisymm h.2 h.1, fun h => ⟨h.ge, h.le⟩⟩

/-- The magnitude of a number, without its sign. -/
theorem abs_ratOf (a : Num.Dy) : |ratOf a| = (a.m.natAbs : ℚ) * 2 ^ a.e := by
  rw [ratOf, abs_mul, abs_of_pos (zpow_pos (two_pos (α := ℚ)) _), Nat.cast_natAbs, Int.cast_abs]

/-- A finite value as a rational number. -/
theorem ratOf_fin (n : Bool) (m : Nat) (e : Int) :
    ratOf (Num.Val.fin n m e).dy = (if n then -1 else 1) * ((m : ℚ) * 2 ^ e) := by
  cases n <;> simp [ratOf, Num.Val.dy]

/-! ### Rounding a number that the format holds -/

/-- The number of bits of a magnitude brackets it. -/
theorem bitLen_bracket {m : Nat} (h : m ≠ 0) (e : Int) :
    (2 : ℚ) ^ ((Num.bitLen m : Int) - 1 + e) ≤ m * 2 ^ e ∧ (m : ℚ) * 2 ^ e < 2 ^ ((Num.bitLen m : Int) + e) := by
  have hpos : (0 : ℚ) < 2 ^ e := zpow_pos two_pos _
  have hlog : Num.bitLen m = Nat.log2 m + 1 := if_neg h
  have hlow : (2 : ℚ) ^ Nat.log2 m ≤ m := by exact_mod_cast Nat.log2_self_le h
  have hhigh : (m : ℚ) < 2 ^ (Nat.log2 m + 1) := by exact_mod_cast Nat.lt_log2_self
  rw [hlog, zpow_add₀ two_ne_zero, zpow_add₀ two_ne_zero, Nat.cast_succ, Int.add_sub_cancel, zpow_natCast]
  refine ⟨mul_le_mul_of_nonneg_right hlow hpos.le, mul_lt_mul_of_pos_right ?_ hpos⟩
  exact_mod_cast hhigh

/-- A multiple of the quantum is rounded to itself in every mode. -/
theorem roundQuantum_exact (rm : RM) (neg : Bool) {m n : Nat} {e q : Int} (h : (m : ℚ) * 2 ^ e = n * 2 ^ q) :
    Num.roundQuantum rm neg m e false q = n := by
  have hcancel {x y : Nat} {z : Int} (h : (x : ℚ) * 2 ^ z = y * 2 ^ z) : x = y :=
    Nat.cast_injective (mul_right_cancel₀ (zpow_ne_zero z two_ne_zero) h)
  rw [Num.roundQuantum]
  split
  · next hle =>
    rw [← pow2_mul_zpow hle, ← mul_assoc, ← Nat.cast_mul] at h
    rw [Bool.false_and, if_neg Bool.false_ne_true, Nat.add_zero, hcancel h]
  · next hgt =>
    rw [← pow2_mul_zpow (Int.le_of_not_le hgt), ← mul_assoc, ← Nat.cast_mul] at h
    have hm := hcancel h
    have hpos : 0 < Num.pow2 (q - e) := Nat.two_pow_pos _
    dsimp only
    rw [hm, Nat.mul_mod_left, Nat.mul_div_cancel _ hpos]
    cases rm <;> simp [Num.roundsUp, hpos]

/-- What a magnitude is rounded to where the format has it: m is its significand, e its exponent. -/
theorem roundMag_exact (f : Num.Fmt) (rm : RM) (neg : Bool) {M m : Nat} {E e : Int} (h : (M : ℚ) * 2 ^ E = m * 2 ^ e)
    (hm : m < 2 ^ (f.fbits + 1)) (he : 1 - (f.bias : Int) - f.fbits ≤ e)
    (hnorm : 2 ^ f.fbits ≤ m ∨ m ≠ 0 ∧ e = 1 - (f.bias : Int) - f.fbits) :
    f.roundMag rm neg M E false = (e - (1 - (f.bias : Int) - f.fbits)).toNat * 2 ^ f.fbits + m := by
  have hm0 : m ≠ 0 := hnorm.elim (fun h => (Nat.lt_of_lt_of_le (Nat.two_pow_pos _) h).ne') And.left
  have hM0 : M ≠ 0 := by
    rintro rfl
    rw [Nat.cast_zero, zero_mul, eq_comm, mul_eq_zero_iff_right (zpow_ne_zero _ two_ne_zero), Nat.cast_eq_zero] at h
    exact hm0 h
  obtain ⟨hlow, hhigh⟩ := bitLen_bracket hM0 E
  have hpos : (0 : ℚ) < 2 ^ e := zpow_pos two_pos _
  have hupper : (Num.bitLen M : Int) - 1 + E < f.fbits + 1 + e := by
    rw [← zpow_lt_zpow_iff_right₀ (one_lt_two (α := ℚ))]
    refine (hlow.trans_eq h).trans_lt ?_
    rw [zpow_add₀ two_ne_zero]
    refine mul_lt_mul_of_pos_right ?_ hpos
    exact_mod_cast hm
  have hlower (hn : 2 ^ f.fbits ≤ m) : (f.fbits : Int) + e < Num.bitLen M + E := by
    rw [← zpow_lt_zpow_iff_right₀ (one_lt_two (α := ℚ))]
    refine LE.le.trans_lt ?_ (h.symm.trans_lt hhigh)
    rw [zpow_add₀ two_ne_zero]
    refine mul_le_mul_of_nonneg_right ?_ hpos.le
    exact_mod_cast hn
  have hq : max ((Num.bitLen M : Int) - 1 + E) (1 - (f.bias : Int)) - f.fbits = e := by
    rcases hnorm with hn | ⟨-, hn⟩
    · have := hlower hn; omega
    · omega
  simp only [Num.Fmt.roundMag, hM0, if_false, hq, roundQuantum_exact rm neg h]

/-- The code of a finite value of a format with infinities: its parts are those of Table 1.1. -/
structure FiniteCode (f : Num.Fmt) (c : Nat) (n : Bool) (m : Nat) (e : Int) : Prop where
  small : m < 2 ^ (f.fbits + 1)
  emin : 1 - (f.bias : Int) - f.fbits ≤ e
  normal : 2 ^ f.fbits ≤ m ∨ e = 1 - (f.bias : Int) - f.fbits
  range : (e - (1 - (f.bias : Int) - f.fbits)).toNat * 2 ^ f.fbits + m ≤ f.maxCode
  code : f.withSign n ((e - (1 - (f.bias : Int) - f.fbits)).toNat * 2 ^ f.fbits + m) = c

/-- The magnitude of a code is its exponent field above its fraction. -/
theorem magnitude_eq_mod (f : Num.Fmt) (c : Nat) :
    c / 2 ^ f.fbits % 2 ^ f.ebits * 2 ^ f.fbits + c % 2 ^ f.fbits = c % f.signBit := by
  rw [Num.Fmt.signBit, Nat.add_comm f.ebits, Nat.pow_add, Nat.mod_mul, Nat.mul_comm (2 ^ f.fbits), Nat.add_comm]

/-- A code is its magnitude with its sign. -/
theorem withSign_of_lt (f : Num.Fmt) {c : Nat} (hc : c < 2 ^ f.width) :
    f.withSign (decide (c / f.signBit % 2 = 1)) (c % f.signBit) = c := by
  have hdiv : c / f.signBit < 2 := by
    refine Nat.div_lt_of_lt_mul ?_
    rw [Nat.mul_two, two_signBits]; exact hc
  have hsplit := Nat.div_add_mod c f.signBit
  rw [Num.Fmt.withSign]
  interval_cases hd : c / f.signBit
  · simpa using hsplit
  · simpa using hsplit

theorem finiteCode_of_val {f : Num.Fmt} (hf : f.edge = .ieee) {c : Nat} (hc : c < 2 ^ f.width) {n : Bool} {m : Nat} {e : Int}
    (h : f.val c = .fin n m e) : FiniteCode f c n m e := by
  have hmag := magnitude_eq_mod f c
  have hcode := withSign_of_lt f hc
  have hfr : c % 2 ^ f.fbits < 2 ^ f.fbits := Nat.mod_lt _ (Nat.two_pow_pos _)
  have hexp : c / 2 ^ f.fbits % 2 ^ f.ebits < 2 ^ f.ebits := Nat.mod_lt _ (Nat.two_pow_pos _)
  have hmax : f.maxCode = (2 ^ f.ebits - 1) * 2 ^ f.fbits - 1 := by rw [Num.Fmt.maxCode, hf]; rfl
  simp only [Num.Fmt.val, hf] at h
  rw [← hmag] at hcode
  generalize c / 2 ^ f.fbits % 2 ^ f.ebits = x at *
  generalize c % 2 ^ f.fbits = r at *
  have hrange (hx : x ≠ 2 ^ f.ebits - 1) : x * 2 ^ f.fbits + r ≤ f.maxCode := by
    have hle : (x + 1) * 2 ^ f.fbits ≤ (2 ^ f.ebits - 1) * 2 ^ f.fbits := Nat.mul_le_mul_right _ (by omega)
    rw [Nat.succ_mul] at hle
    omega
  split at h
  · split at h <;> cases h
  · next hx =>
    split at h
    · next h0 =>
      subst h0
      cases h
      have hz : ((1 - (f.bias : Int) - f.fbits) - (1 - (f.bias : Int) - f.fbits)).toNat = 0 := by omega
      refine ⟨by rw [Nat.pow_succ]; omega, le_refl _, .inr rfl, ?_, ?_⟩
      · rw [hz]; exact hrange hx
      · rw [hz]; exact hcode
    · next h0 =>
      cases h
      have hz : ((x : Int) - f.bias - f.fbits - (1 - (f.bias : Int) - f.fbits)).toNat = x - 1 := by omega
      have hsum : (x - 1) * 2 ^ f.fbits + (2 ^ f.fbits + r) = x * 2 ^ f.fbits + r := by
        rw [← Nat.add_assoc, ← Nat.succ_mul, Nat.succ_eq_add_one, Nat.sub_add_cancel (Nat.pos_of_ne_zero h0)]
      refine ⟨by rw [Nat.pow_succ]; omega, by omega, .inl (Nat.le_add_right _ _), ?_, ?_⟩
      · rw [hz, hsum]; exact hrange hx
      · rw [hz, hsum]; exact hcode

section
variable {f : Num.Fmt} (hf : f.edge = .ieee) {c : Nat} (hc : c < 2 ^ f.width)
include hf hc

/-- A magnitude that a finite code has, rounded with the code's sign, gives the code in every mode. -/
theorem roundPos_exact (rm : RM) {n : Bool} {m M : Nat} {e E : Int} (hv : f.val c = .fin n m e)
    (h : (M : ℚ) * 2 ^ E = m * 2 ^ e) : f.roundPos rm n M E false = c := by
  obtain ⟨hsmall, hemin, hnormal, hrange, hcode⟩ := finiteCode_of_val hf hc hv
  have hmag : f.roundMag rm n M E false = (e - (1 - (f.bias : Int) - f.fbits)).toNat * 2 ^ f.fbits + m := by
    by_cases hm : m = 0
    · have hM : M = 0 := by
        rw [hm, Nat.cast_zero, zero_mul, mul_eq_zero_iff_right (zpow_ne_zero _ two_ne_zero), Nat.cast_eq_zero] at h
        exact h
      have he : e = 1 - (f.bias : Int) - f.fbits :=
        hnormal.resolve_left (by rw [hm]; exact Nat.not_le.mpr (Nat.two_pow_pos _))
      rw [Num.Fmt.roundMag, if_pos hM, hm, he, Int.sub_self, Int.toNat_zero, Nat.zero_mul]
    · exact roundMag_exact f rm n h hsmall hemin (hnormal.imp_right fun he => ⟨hm, he⟩)
  simp only [Num.Fmt.roundPos]
  rw [hmag, if_neg (Nat.not_lt.mpr hrange), hcode]

/-- A zero's code is its sign. -/
theorem withSign_of_zero {n : Bool} {e : Int} (hv : f.val c = .fin n 0 e) : f.withSign n 0 = c := by
  rw [← roundPos_exact hf hc .rn (M := 0) (E := 0) hv (by simp)]
  simp [Num.Fmt.roundPos, Num.Fmt.roundMag]

/-- The exact number that a finite code stands for is rounded to the code in every mode; a zero takes the sign given. -/
theorem roundDy_exact (rm : RM) {zn : Bool} {x : Num.Dy} (hfin : (f.val c).isFin = true) (h : ratOf x = ratOf (f.val c).dy)
    (hz : x.m = 0 → zn = (f.val c).neg) : f.roundDy rm zn x = c := by
  cases hv : f.val c with
  | nan => rw [hv] at hfin; cases hfin
  | inf n => rw [hv] at hfin; cases hfin
  | fin n m e =>
    rw [hv] at h hz
    have hsign := ratOf_neg_iff x
    have hzero := ratOf_eq_zero_iff x
    have habs := abs_ratOf x
    rw [h, ratOf_fin] at hsign hzero habs
    have hme : 0 ≤ (m : ℚ) * 2 ^ e := by positivity
    rw [Num.Fmt.roundDy]
    split
    · next hx =>
      rw [hz hx]
      have hm : m = 0 := by
        have := hzero.mpr hx
        have hne : (if n then -1 else 1 : ℚ) ≠ 0 := by cases n <;> norm_num
        rw [mul_eq_zero_iff_left hne, mul_eq_zero_iff_right (zpow_ne_zero _ two_ne_zero), Nat.cast_eq_zero] at this
        exact this
      subst hm
      exact withSign_of_zero hf hc hv
    · next hx =>
      have hpos : 0 < (m : ℚ) * 2 ^ e := lt_of_le_of_ne hme (fun h0 => hx (hzero.mp (by rw [← h0, mul_zero])))
      have hneg : decide (x.m < 0) = n := by
        cases n
        · rw [decide_eq_false_iff_not, ← hsign]; simpa using hme
        · rw [decide_eq_true_iff, ← hsign]; simpa using hpos
      rw [hneg]
      refine roundPos_exact hf hc rm hv (habs.symm.trans ?_)
      cases n <;> simp [abs_of_nonneg hme]

end

/-! ### Residuals -/

/-- A signed zero of a format. -/
theorem val_signedZero (t : Ty) (n : Bool) : ∃ e, (fmtOf t).val ((fmtOf t).withSign n 0) = .fin n 0 e := by
  cases t <;> cases n <;> exact ⟨_, rfl⟩

/-- The formats of operands that a partner rebuilds: with infinities, codes of at most 32 bits. -/
structure Rebuilds (f : Num.Fmt) : Prop where
  edge : f.edge = .ieee
  fit : CodesFit f
  width : f.width ≤ 32
  zero : ∀ n, ∃ e, f.val (f.withSign n 0) = .fin n 0 e

theorem rebuilds_fmtOf {t : Ty} (he : (fmtOf t).edge = .ieee) (hw : (fmtOf t).width ≤ 32) : Rebuilds (fmtOf t) :=
  ⟨he, codesFit_fmtOf t, hw, val_signedZero t⟩

theorem rebuilds_f32 : Rebuilds Num.f32 := rebuilds_fmtOf (t := .f32) rfl (le_refl _)

/-- What the payload of a residual entry stands for: the residual, a zero with the operand's sign. -/
structure ResidualOf (neg : Bool) (r : Num.Dy) (v : Num.Val) : Prop where
  fin : v.isFin = true
  value : ratOf v.dy = ratOf r
  zero : r.m = 0 → v.neg = neg

section
variable {f : Num.Fmt} (hf : Rebuilds f)
include hf

/-- The value of a number that the format holds survives its rounding, in every mode and with either sign of zero. -/
theorem ratOf_val_roundDy {c : Nat} (hc : c < 2 ^ f.width)
    (hfin : (f.val c).isFin = true) (rm : RM) (zn : Bool) {x : Num.Dy} (h : ratOf x = ratOf (f.val c).dy) :
    ratOf (f.val (f.roundDy rm zn x)).dy = ratOf x := by
  by_cases hx : x.m = 0
  · obtain ⟨e, he⟩ := hf.zero zn
    rw [Num.Fmt.roundDy, if_pos hx, he, (ratOf_eq_zero_iff x).mpr hx, ratOf_eq_zero_iff]
    cases zn <;> rfl
  · rw [roundDy_exact hf.edge hc rm hfin h (fun h0 => absurd h0 hx), h]

/-- A code in a register. -/
theorem toNat_ofNat32 {c : Nat} (hc : c < 2 ^ f.width) : (BitVec.ofNat 32 c).toNat = c := by
  rw [BitVec.toNat_ofNat, Nat.mod_eq_of_lt (hc.trans_le (Nat.pow_le_pow_right Nat.two_pos hf.width))]

theorem toNat_residual_lt (neg : Bool) (r : Num.Dy) :
    (Machine.residual f neg r).toNat < 2 ^ f.width := by
  have hlt := roundDy_lt hf.fit .rz neg r
  rw [Machine.residual, toNat_ofNat32 hf hlt]
  exact hlt

theorem residualOf_residual (neg : Bool) {r : Num.Dy} (h : exactIn f r = true) :
    ResidualOf neg r (f.val (Machine.residual f neg r).toNat) := by
  rw [Machine.residual, toNat_ofNat32 hf (roundDy_lt hf.fit .rz neg r)]
  by_cases hr : r.m = 0
  · obtain ⟨e, he⟩ := hf.zero neg
    rw [Num.Fmt.roundDy, if_pos hr, he]
    refine ⟨rfl, ?_, fun _ => rfl⟩
    rw [(ratOf_eq_zero_iff r).mpr hr, ratOf_eq_zero_iff]
    cases neg <;> rfl
  · have hsame : f.roundDy .rz neg r = f.roundDy .rz false r := by
      rw [Num.Fmt.roundDy, Num.Fmt.roundDy, if_neg hr, if_neg hr]
    rw [exactIn, Bool.and_eq_true, Dy_eq_iff_ratOf, ← hsame] at h
    exact ⟨h.1, h.2, fun h0 => absurd h0 hr⟩

/-- R141: where the reconstruction is the operand and the entry holds a residual whose zero has the operand's sign, the operand
comes back bit for bit. -/
theorem rebuilt_eq {c p : Nat} (hc : c < 2 ^ f.width)
    (hfin : (f.val c).isFin = true) {r x : Num.Dy} (hp : ResidualOf (f.val c).neg r (f.val p))
    (h : ratOf x = ratOf (f.val c).dy) (hz : ratOf (f.val c).dy = 0 → ratOf r = 0) :
    rebuilt f p x = BitVec.ofNat 32 c := by
  rw [rebuilt, roundDy_exact hf.edge hc .rn hfin h]
  intro hx
  exact hp.zero ((ratOf_eq_zero_iff r).mp (hz (h.symm.trans ((ratOf_eq_zero_iff x).mpr hx))))

end

/-! ### RADD and UNADD, RMUL and UNMUL (08 R142, R143) -/

theorem addVal_lt (rm : RM) (a b : Num.Val) {f : Num.Fmt} (hf : CodesFit f) : f.addVal rm a b < 2 ^ f.width := by
  cases a <;> cases b
  all_goals dsimp only [Num.Fmt.addVal]
  case inf.inf =>
    split
    · exact infOf_lt hf _
    · exact nanCode_lt hf
  case inf.fin | fin.inf => exact infOf_lt hf _
  case fin.fin => exact roundDy_lt hf _ _ _
  all_goals exact nanCode_lt hf

/-- A zero less what rounding leaves of its sum with a finite value. -/
theorem ratOf_addVal_zero (rm : RM) {a b : Num.Val} {c : Nat} (hc : c < 2 ^ Num.f32.width) (ha : a.isFin = true)
    (hb : Num.f32.val c = b) (hfin : b.isFin = true) (h0 : ratOf a.dy = 0) :
    ratOf (Num.f32.val (Num.f32.addVal rm a b)).dy = ratOf b.dy := by
  cases a with
  | nan => cases ha
  | inf n => cases ha
  | fin na ma ea => cases b with
    | nan => cases hfin
    | inf n => cases hfin
    | fin nb mb eb =>
      have hsum : ratOf ((Num.Val.fin na ma ea).dy.add (Num.Val.fin nb mb eb).dy) = ratOf (Num.Val.fin nb mb eb).dy := by
        rw [ratOf_add, h0, zero_add]
      rw [Num.Fmt.addVal, ratOf_val_roundDy rebuilds_f32 hc (by rw [hb]; rfl) rm _ (by rw [hb]; exact hsum), hsum]

/-- Whether an entry is a SAVE entry stands in bit 4 of its tag (Table 8.1). -/
theorem save_mk (tag : Byte) (p : Word) : ChEntry.save ⟨tag, p⟩ = tag.getLsbD 4 := rfl

theorem unadd_residual {x : ChEntry} (hs : x.save = false) (a b : Word) : unadd x a b =
    if (Num.f32.val a.toNat).isFin && (Num.f32.val b.toNat).isFin && (Num.f32.val x.payload.toNat).isFin then
      rebuilt Num.f32 x.payload.toNat
        (((Num.f32.val a.toNat).dy.add (Num.f32.val x.payload.toNat).dy).add (Num.f32.val b.toNat).dy.neg)
    else BitVec.ofNat 32 Num.f32.nanCode := by
  rw [unadd, hs]; rfl

/-- R142: the sum and the residual less B are A exactly. -/
theorem unadd_radd (rm : RM) (a b : Word) : unadd (radd rm a b).2 (radd rm a b).1 b = a := by
  have hc : Num.f32.addVal rm (Num.f32.val a.toNat) (Num.f32.val b.toNat) < 2 ^ Num.f32.width :=
    addVal_lt rm _ _ rebuilds_f32.fit
  have hzero (ha : (Num.f32.val a.toNat).isFin = true) (hb : (Num.f32.val b.toNat).isFin = true) :=
    ratOf_addVal_zero rm b.isLt ha rfl hb
  rw [radd]
  dsimp only
  generalize Num.f32.addVal rm (Num.f32.val a.toNat) (Num.f32.val b.toNat) = c at *
  generalize hr : ((Num.f32.val a.toNat).dy.add (Num.f32.val b.toNat).dy).add (Num.f32.val c).dy.neg = r
  split
  · next h =>
    simp only [Bool.and_eq_true] at h
    obtain ⟨⟨⟨ha, hb⟩, hcfin⟩, hex⟩ := h
    have hp := residualOf_residual rebuilds_f32 (Num.f32.val a.toNat).neg hex
    have hrat : ratOf r = ratOf (Num.f32.val a.toNat).dy + ratOf (Num.f32.val b.toNat).dy - ratOf (Num.f32.val c).dy := by
      rw [← hr, ratOf_add, ratOf_add, ratOf_neg, sub_eq_add_neg]
    rw [unadd_residual ((save_mk _ _).trans (by decide)), toNat_ofNat32 rebuilds_f32 hc, hcfin, hb, hp.fin]
    refine (rebuilt_eq rebuilds_f32 a.isLt ha hp ?_ fun h0 => ?_).trans (BitVec.ofNat_toNat _ _)
    · rw [ratOf_add, ratOf_add, ratOf_neg]
      linear_combination hp.value + hrat
    · have h1 := hzero ha hb h0
      linear_combination hrat + h0 - h1
  · exact if_pos ((save_mk _ _).trans (by decide))

theorem isZero_iff_ratOf {v : Num.Val} (h : v.isFin = true) : v.isZero = true ↔ ratOf v.dy = 0 := by
  cases v with
  | nan => cases h
  | inf n => cases h
  | fin n m e =>
    rw [ratOf_eq_zero_iff]
    cases m with
    | zero => cases n <;> simp [Num.Val.isZero, Num.Val.dy]
    | succ m => cases n <;> simp [Num.Val.isZero, Num.Val.dy] <;> omega

/-- The rounded product of finite values is the product where that is zero. -/
theorem ratOf_mul_zero (rm : RM) {a b : Num.Val} (ha : a.isFin = true) (hb : b.isFin = true) (h0 : ratOf a.dy = 0) :
    ratOf (Num.f32.val (Num.f32.mul rm a b)).dy = 0 := by
  cases a with
  | nan => cases ha
  | inf n => cases ha
  | fin na ma ea => cases b with
    | nan => cases hb
    | inf n => cases hb
    | fin nb mb eb =>
      have hma : ma = 0 := by
        rw [ratOf_eq_zero_iff] at h0
        cases na <;> simpa [Num.Val.dy] using h0
      subst hma
      obtain ⟨e, he⟩ := rebuilds_f32.zero (na != nb)
      have hround : Num.f32.mul rm (.fin na 0 ea) (.fin nb mb eb) = Num.f32.withSign (na != nb) 0 := by
        simp [Num.Fmt.mul, Num.mulVal, Num.Fmt.roundVal, Num.Fmt.roundPos, Num.Fmt.roundMag]
      rw [hround, he, ratOf_eq_zero_iff]
      cases (na != nb) <;> rfl

/-- The significand of a finite code of F32 has 24 bits. -/
theorem natAbs_dy_lt {c : Nat} (hc : c < 2 ^ Num.f32.width) : ((Num.f32.val c).dy.m.natAbs) < 2 ^ 24 := by
  cases hv : Num.f32.val c with
  | nan => decide
  | inf n => exact Nat.two_pow_pos _
  | fin n m e =>
    have hm : m < 2 ^ 24 := (finiteCode_of_val rebuilds_f32.edge hc hv).small
    cases n <;> simpa [Num.Val.dy] using hm

/-- The sign of an exact quotient. -/
theorem sign_quotient {n d : Num.Dy} {s : Bool} {m : Nat} {e : Int} (h : ratOf n = ratOf (Num.Val.fin s m e).dy * ratOf d)
    (hn : n.m ≠ 0) : (decide (n.m < 0) != decide (d.m < 0)) = s := by
  have hn0 : ratOf n ≠ 0 := fun h0 => hn ((ratOf_eq_zero_iff n).mp h0)
  rw [h, ratOf_fin] at hn0
  have hmpos : 0 < (m : ℚ) * 2 ^ e :=
    lt_of_le_of_ne (by positivity) fun h0 => hn0 (by rw [← h0, mul_zero, zero_mul])
  simp only [← ratOf_neg_iff, h, ratOf_fin]
  rcases lt_or_gt_of_ne (right_ne_zero_of_mul hn0) with hneg | hpos
  · have hprod := mul_neg_of_pos_of_neg hmpos hneg
    cases s <;> simp [hneg, hprod, hprod.le]
  · have hprod := mul_pos hmpos hpos
    cases s <;> simp [hpos.not_gt, hprod, hprod.not_gt]

/-- A product of two significands of 24 bits, as a numerator at its own exponent: with 48 bits or more added it is divided by
one of them without a remainder. -/
theorem numerator_eq_mul {N m D k : Nat} {en e ed : Int} (hN : N ≠ 0) (hm : m < 2 ^ 24) (hD : D < 2 ^ 24) (hk : 48 ≤ k)
    (h : (N : ℚ) * 2 ^ en = m * 2 ^ e * (D * 2 ^ ed)) :
    ∃ u : Nat, (u : Int) = e + ed + k - en ∧ N * 2 ^ k = m * 2 ^ u * D := by
  have hN1 : (1 : ℚ) ≤ N := by exact_mod_cast Nat.one_le_iff_ne_zero.mpr hN
  have hbound : (2 : ℚ) ^ en < 2 ^ (48 + (e + ed)) := by
    calc (2 : ℚ) ^ en ≤ N * 2 ^ en := le_mul_of_one_le_left (zpow_pos two_pos _).le hN1
      _ = (m * D : ℕ) * 2 ^ (e + ed) := by rw [h, zpow_add₀ two_ne_zero]; push_cast; ring
      _ < 2 ^ 48 * 2 ^ (e + ed) := by
        refine mul_lt_mul_of_pos_right ?_ (zpow_pos two_pos _)
        exact_mod_cast (Nat.mul_lt_mul'' hm hD).trans_eq (by norm_num)
      _ = 2 ^ (48 + (e + ed)) := by rw [zpow_add₀ two_ne_zero (48 : Int)]; norm_num
  have hexp := (zpow_lt_zpow_iff_right₀ (one_lt_two (α := ℚ))).mp hbound
  obtain ⟨u, hu⟩ : ∃ u : Nat, (u : Int) = e + ed + k - en := ⟨(e + ed + k - en).toNat, by omega⟩
  refine ⟨u, hu, ?_⟩
  have hq : (N : ℚ) * 2 ^ k = m * 2 ^ u * D := by
    refine mul_right_cancel₀ (zpow_ne_zero en (two_ne_zero (α := ℚ))) ?_
    rw [mul_right_comm, h, ← zpow_natCast, ← zpow_natCast, hu, zpow_sub₀ two_ne_zero, zpow_add₀ two_ne_zero, zpow_add₀ two_ne_zero]
    field_simp
  exact_mod_cast hq

/-- R143: an exact quotient is rounded to itself. -/
theorem divRound_exact {c : Nat} (hc : c < 2 ^ Num.f32.width) (hfin : (Num.f32.val c).isFin = true) {n d : Num.Dy}
    {zn : Bool} (hd : d.m ≠ 0) (hd24 : d.m.natAbs < 2 ^ 24) (h : ratOf n = ratOf (Num.f32.val c).dy * ratOf d)
    (hz : n.m = 0 → zn = (Num.f32.val c).neg) : divRound Num.f32 zn n d = c := by
  have hm24 := natAbs_dy_lt hc
  cases hv : Num.f32.val c with
  | nan => rw [hv] at hfin; cases hfin
  | inf s => rw [hv] at hfin; cases hfin
  | fin s m e =>
    rw [hv] at h hz hm24
    rw [divRound]
    split
    · next h0 =>
      have hv0 : ratOf (Num.Val.fin s m e).dy = 0 := by
        rw [← mul_eq_zero_iff_right (fun h1 => hd ((ratOf_eq_zero_iff d).mp h1)), ← h, ratOf_eq_zero_iff]; exact h0
      have hm : m = 0 := by
        rw [ratOf_eq_zero_iff] at hv0
        cases s <;> simpa [Num.Val.dy] using hv0
      rw [hz h0]
      exact withSign_of_zero rebuilds_f32.edge hc (hm ▸ hv)
    · next h0 =>
      have hsmall : m < 2 ^ 24 := by cases s <;> simpa [Num.Val.dy] using hm24
      have habs : (n.m.natAbs : ℚ) * 2 ^ n.e = m * 2 ^ e * (d.m.natAbs * 2 ^ d.e) := by
        rw [← abs_ratOf, ← abs_ratOf, h, abs_mul, ratOf_fin, abs_mul]
        cases s <;> simp
      have hk : 48 ≤ Num.bitLen d.m.natAbs + 2 * Num.f32.fbits + 16 := by rw [show Num.f32.fbits = 23 from rfl]; omega
      dsimp only
      generalize Num.bitLen d.m.natAbs + 2 * Num.f32.fbits + 16 = k at hk ⊢
      obtain ⟨u, hu, hprod⟩ := numerator_eq_mul (Int.natAbs_ne_zero.mpr h0) hsmall hd24 hk habs
      rw [hprod, Nat.mul_div_cancel _ (Int.natAbs_pos.mpr hd), Nat.mul_mod_left, sign_quotient h h0]
      refine roundPos_exact rebuilds_f32.edge hc .rn hv ?_
      push_cast
      rw [← zpow_natCast, mul_assoc, ← zpow_add₀ two_ne_zero, hu]
      congr 2
      omega

theorem unmulF_residual {x : ChEntry} (hs : x.save = false) (a b : Word) : unmulF x a b =
    if (Num.f32.val a.toNat).isFin && (Num.f32.val b.toNat).isFin && (Num.f32.val x.payload.toNat).isFin && !(Num.f32.val b.toNat).isZero then
      BitVec.ofNat 32 (divRound Num.f32 (Num.f32.val x.payload.toNat).neg
        ((Num.f32.val a.toNat).dy.add (Num.f32.val x.payload.toNat).dy) (Num.f32.val b.toNat).dy)
    else BitVec.ofNat 32 Num.f32.nanCode := by
  rw [unmulF, hs]; rfl

/-- R143: the product and the residual, divided by B, are A exactly. -/
theorem unmulF_rmulF (rm : RM) (a b : Word) : unmulF (rmulF rm a b).2 (rmulF rm a b).1 b = a := by
  have hc : Num.f32.mul rm (Num.f32.val a.toNat) (Num.f32.val b.toNat) < 2 ^ Num.f32.width :=
    roundVal_lt rebuilds_f32.fit rm _
  have hzero (ha : (Num.f32.val a.toNat).isFin = true) (hb : (Num.f32.val b.toNat).isFin = true) := ratOf_mul_zero rm ha hb
  rw [rmulF]
  dsimp only
  generalize Num.f32.mul rm (Num.f32.val a.toNat) (Num.f32.val b.toNat) = c at *
  generalize hr : ((Num.f32.val a.toNat).dy.mul (Num.f32.val b.toNat).dy).add (Num.f32.val c).dy.neg = r
  split
  · next h =>
    simp only [Bool.and_eq_true, Bool.not_eq_true'] at h
    obtain ⟨⟨⟨⟨ha, hb⟩, hcfin⟩, hbz⟩, hex⟩ := h
    have hp := residualOf_residual rebuilds_f32 (Num.f32.val a.toNat).neg hex
    have hrat : ratOf r = ratOf (Num.f32.val a.toNat).dy * ratOf (Num.f32.val b.toNat).dy - ratOf (Num.f32.val c).dy := by
      rw [← hr, ratOf_add, ratOf_mul, ratOf_neg, sub_eq_add_neg]
    have hb0 : ratOf (Num.f32.val b.toNat).dy ≠ 0 := fun h0 => by rw [(isZero_iff_ratOf hb).mpr h0] at hbz; cases hbz
    rw [unmulF_residual ((save_mk _ _).trans (by decide)), toNat_ofNat32 rebuilds_f32 hc, hcfin, hb, hp.fin, hbz]
    refine (congrArg (BitVec.ofNat 32) (divRound_exact a.isLt ha (mt (ratOf_eq_zero_iff _).mpr hb0) (natAbs_dy_lt b.isLt) ?_ ?_)).trans
      (BitVec.ofNat_toNat _ _)
    · rw [ratOf_add]
      linear_combination hp.value + hrat
    · intro hn
      have hprod : ratOf (Num.f32.val a.toNat).dy * ratOf (Num.f32.val b.toNat).dy = 0 := by
        have h0 := (ratOf_eq_zero_iff _).mpr hn
        rw [ratOf_add] at h0
        linear_combination h0 - hp.value - hrat
      have hp0 := hzero ha hb ((mul_eq_zero_iff_right hb0).mp hprod)
      refine hp.zero ((ratOf_eq_zero_iff r).mp ?_)
      linear_combination hrat + hprod - hp0
  · exact if_pos ((save_mk _ _).trans (by decide))

/-- The high and the low word of an exact product of 64 bits (R143). -/
theorem split_product (a b : Word) : ((hiWord (BitVec.ofInt 64 (a.toInt * b.toInt))).toInt * 2 ^ 32 +
    (loWord (BitVec.ofInt 64 (a.toInt * b.toInt))).toNat : Int) = a.toInt * b.toInt := by
  have habs (x : Word) : |x.toInt| ≤ 2 ^ 31 := abs_le.mpr ⟨by have := x.le_toInt; simpa using this, by have := x.toInt_lt; simp at this; omega⟩
  have hx : |a.toInt * b.toInt| ≤ 2 ^ 31 * 2 ^ 31 := by
    rw [abs_mul]; exact mul_le_mul (habs a) (habs b) (abs_nonneg _) (by norm_num)
  rw [abs_le] at hx
  rw [hiWord_ofInt]
  generalize a.toInt * b.toInt = x at *
  have hlo : ((loWord (BitVec.ofInt 64 x)).toNat : Int) = x % 2 ^ 32 := by
    rw [loWord, BitVec.extractLsb'_toNat, BitVec.toNat_ofInt]
    omega
  rw [hlo, BitVec.toInt_ofInt, Int.bmod_eq_of_le (by omega) (by omega)]
  omega

/-- R143: the exact product of 64 bits, divided, gives the factor back. -/
theorem unmulS_rmulS (a b : Word) : unmulS (rmulS a b).2 (rmulS a b).1 b = a := by
  by_cases hb : b = 0
  · simp only [rmulS, hb, if_true, unmulS]
    exact if_pos ((save_mk _ _).trans (by decide))
  · have hprod : ((hiWord (BitVec.ofInt 64 (a.toInt * b.toInt))).toInt * 2 ^ 32 + (loWord (BitVec.ofInt 64 (a.toInt * b.toInt))).toNat : Int) =
        a.toInt * b.toInt := split_product a b
    have hb0 : b.toInt ≠ 0 := fun h => hb (BitVec.eq_of_toInt_eq h)
    simp only [rmulS, hb, if_false, unmulS]
    rw [if_neg (Bool.eq_false_iff.mp ((save_mk _ _).trans (by decide))), hprod, Int.mul_tdiv_cancel _ hb0, BitVec.ofInt_toInt]

/-! ### RCVT and UNCVT (08 R144) -/

/-- RCVT's numbers of pairs are below 16. -/
theorem rcvtPair_lt (dt st : Ty) : Machine.rcvtPair dt st < 16 := by
  unfold Machine.rcvtPair
  split <;> decide

theorem save_residualTag (x : Word) : ∀ p < 16, ChEntry.save ⟨BitVec.ofNat 8 (0x60 + p), x⟩ = false := by
  intro p hp; interval_cases p <;> exact (save_mk _ _).trans (by decide)
theorem save_saveTag (x : Word) : ∀ p < 16, ChEntry.save ⟨BitVec.ofNat 8 (0x70 + p), x⟩ = true := by
  intro p hp; interval_cases p <;> exact (save_mk _ _).trans (by decide)

/-- The formats that RCVT narrows from (Table 8.4) have infinities. -/
structure Narrows (dt st : Ty) : Prop where
  source : Rebuilds (fmtOf st)
  width : (fmtOf st).width = st.bits
  target : dt = .s8 ∨ dt ≠ .s8 ∧ (fmtOf dt).width = dt.bits ∧ dt.bits ≤ 32

theorem narrows_of_pair {dt st : Ty} (h : (Sys2Proof.rcvtPair dt st).isSome = true) : Narrows dt st := by
  unfold Sys2Proof.rcvtPair at h
  split at h
  case h_12 => cases h
  all_goals exact ⟨rebuilds_fmtOf rfl (by decide), rfl, by decide⟩

/-- The narrowed element that UNCVT reads, as an exact number; none where it is not finite (R141, R144). -/
def narrowed (dt : Ty) (y b : Word) : Option Num.Dy :=
  if dt = .s8 then (Num.e8m0 b.toNat).map (fun k => ⟨intVal .s8 (y.toNat % 256), k⟩)
  else if ((fmtOf dt).val (y.toNat % 2 ^ dt.bits)).isFin then some ((fmtOf dt).val (y.toNat % 2 ^ dt.bits)).dy else none

theorem uncvt_eq_narrowed (dt st : Ty) (x : ChEntry) (a b : Word) (hs : x.save = false)
    (hp : ((fmtOf st).val (x.payload.toNat % 2 ^ st.bits)).isFin = true) : uncvt dt st x a b =
    match narrowed dt a b with
    | some y => rebuilt (fmtOf st) (x.payload.toNat % 2 ^ st.bits) (y.add ((fmtOf st).val (x.payload.toNat % 2 ^ st.bits)).dy)
    | none => BitVec.ofNat 32 (fmtOf st).nanCode := by
  simp only [uncvt, narrowed, hs, hp, Bool.not_true, Bool.false_eq_true, if_false]
  split
  · cases Num.e8m0 b.toNat <;> rfl
  · split <;> rfl

section
variable {dt st : Ty} (hn : Narrows dt st) {code : Nat} (hc : code < 2 ^ st.bits)
include hn hc

theorem toNat_payload : (BitVec.ofNat 32 code).toNat % 2 ^ st.bits = code := by
  rw [toNat_ofNat32 hn.source (by rw [hn.width]; exact hc), Nat.mod_eq_of_lt hc]

/-- A SAVE entry gives its payload back. -/
theorem uncvt_saved (y b : Word) :
    uncvt dt st ⟨BitVec.ofNat 8 (0x70 + Machine.rcvtPair dt st), BitVec.ofNat 32 code⟩ y b = BitVec.ofNat 32 code := by
  rw [uncvt]
  dsimp only
  rw [if_pos (save_saveTag _ _ (rcvtPair_lt dt st)), toNat_payload hn hc]

/-- A residual entry gives the operand back where the narrowed element and the residual are its exact sum. -/
theorem uncvt_residual {y b : Word} {d r : Num.Dy} (hfin : ((fmtOf st).val code).isFin = true) (hex : exactIn (fmtOf st) r = true)
    (hy : narrowed dt y b = some d) (hsum : ratOf d + ratOf r = ratOf ((fmtOf st).val code).dy)
    (hz : ratOf ((fmtOf st).val code).dy = 0 → ratOf d = 0) :
    uncvt dt st ⟨BitVec.ofNat 8 (0x60 + Machine.rcvtPair dt st), Machine.residual (fmtOf st) ((fmtOf st).val code).neg r⟩ y b =
      BitVec.ofNat 32 code := by
  have hp := residualOf_residual hn.source ((fmtOf st).val code).neg hex
  have hpl : (Machine.residual (fmtOf st) ((fmtOf st).val code).neg r).toNat % 2 ^ st.bits =
      (Machine.residual (fmtOf st) ((fmtOf st).val code).neg r).toNat :=
    Nat.mod_eq_of_lt (by rw [← hn.width]; exact toNat_residual_lt hn.source _ _)
  rw [uncvt_eq_narrowed dt st _ y b (save_residualTag _ _ (rcvtPair_lt dt st)) (by rw [hpl]; exact hp.fin), hy]
  dsimp only
  rw [hpl]
  refine rebuilt_eq hn.source (by rw [hn.width]; exact hc) hfin hp ?_ fun h0 => ?_
  · rw [ratOf_add]
    linear_combination hp.value + hsum
  · have hd := hz h0
    linear_combination hsum + h0 - hd

end

theorem roundInt_zero (rm : RM) (e : Int) : Num.roundInt rm ⟨0, e⟩ = 0 := by
  have hq := roundQuantum_exact rm false (m := 0) (n := 0) (e := e) (q := 0) (by simp)
  simp [Num.roundInt, hq]

theorem clamp_mem {lo hi : Int} (h : lo ≤ hi) (x : Int) : lo ≤ Num.clamp lo hi x ∧ Num.clamp lo hi x ≤ hi := by
  rw [clamp_eq_max_min h]; omega

/-- The code of an integer of eight bits reads as the integer. -/
theorem intVal_intCode_s8 {y : Int} (hlo : -128 ≤ y) (hhi : y ≤ 127) :
    intVal .s8 ((BitVec.ofNat 32 (intCode .s8 y)).toNat % 256) = y := by
  have hcode : (BitVec.ofNat 32 (intCode .s8 y)).toNat % 256 = (y % 256).toNat := by
    rw [BitVec.toNat_ofNat, intCode, show (Ty.s8).bits = 8 from rfl]
    omega
  rw [hcode, intVal, show (Ty.s8).bits = 8 from rfl]
  split
  · next h => have := h.2; omega
  · next h => have : ¬ 2 ^ (8 - 1) ≤ (y % 256).toNat := fun h1 => h ⟨rfl, h1⟩; omega

/-- R144: narrowing to S8 with a scale, undone. -/
theorem uncvt_rcvt_s8 {st : Ty} (hn : Narrows .s8 st) (rm : RM) (a b : Word) :
    uncvt .s8 st (rcvt .s8 st rm a b).2 (rcvt .s8 st rm a b).1 b = BitVec.ofNat 32 (a.toNat % 2 ^ st.bits) := by
  have hc : a.toNat % 2 ^ st.bits < 2 ^ st.bits := Nat.mod_lt _ (Nat.two_pow_pos _)
  simp only [rcvt, if_true]
  generalize a.toNat % 2 ^ st.bits = code at hc
  cases hk : Num.e8m0 b.toNat with
  | none => exact uncvt_saved hn hc _ _
  | some k =>
    cases hx : (fmtOf st).val code with
    | nan => exact uncvt_saved hn hc _ _
    | inf n => exact uncvt_saved hn hc _ _
    | fin n m e =>
      have hzero (h0 : ratOf ((fmtOf st).val code).dy = 0) :
          Num.roundInt rm ⟨((fmtOf st).val code).dy.m, ((fmtOf st).val code).dy.e - k⟩ = 0 := by
        rw [(ratOf_eq_zero_iff _).mp h0, roundInt_zero]
      dsimp only
      rw [← hx]
      generalize Num.roundInt rm ⟨((fmtOf st).val code).dy.m, ((fmtOf st).val code).dy.e - k⟩ = y at *
      obtain ⟨hlo, hhi⟩ := clamp_mem (show (-128 : Int) ≤ 127 by decide) y
      split
      · next h =>
        simp only [Bool.and_eq_true, decide_eq_true_iff] at h
        obtain ⟨⟨hfin, hy⟩, hex⟩ := h
        rw [← hy] at hlo hhi hex ⊢
        refine uncvt_residual hn hc hfin hex (d := ⟨y, k⟩) ?_ ?_ fun h0 => ?_
        · rw [narrowed, if_pos rfl, hk, Option.map_some, intVal_intCode_s8 hlo hhi]
        · rw [ratOf_add, show (⟨-y, k⟩ : Num.Dy) = Num.Dy.neg ⟨y, k⟩ from rfl, ratOf_neg]; ring
        · rw [ratOf_eq_zero_iff]; exact hzero h0
      · exact uncvt_saved hn hc _ _

/-- R144: narrowing to a floating-point format, undone. -/
theorem uncvt_rcvt_float {dt st : Ty} (hn : Narrows dt st) (hs8 : dt ≠ .s8) (rm : RM) (a b : Word) :
    uncvt dt st (rcvt dt st rm a b).2 (rcvt dt st rm a b).1 b = BitVec.ofNat 32 (a.toNat % 2 ^ st.bits) := by
  have hc : a.toNat % 2 ^ st.bits < 2 ^ st.bits := Nat.mod_lt _ (Nat.two_pow_pos _)
  obtain ⟨-, hw, hbits⟩ := hn.target.resolve_left hs8
  simp only [rcvt, if_neg hs8]
  generalize a.toNat % 2 ^ st.bits = code at hc
  have hlt := roundVal_lt (codesFit_fmtOf dt) rm ((fmtOf st).val code)
  have hzero (hfin : ((fmtOf st).val code).isFin = true) (h0 : ratOf ((fmtOf st).val code).dy = 0) :
      ratOf ((fmtOf dt).val ((fmtOf dt).roundVal rm ((fmtOf st).val code))).dy = 0 := by
    cases hx : (fmtOf st).val code with
    | nan => rw [hx] at hfin; cases hfin
    | inf n => rw [hx] at hfin; cases hfin
    | fin n m e =>
      rw [hx, ratOf_eq_zero_iff] at h0
      have hm : m = 0 := by cases n <;> simpa [Num.Val.dy] using h0
      subst hm
      obtain ⟨e', he⟩ := val_signedZero dt n
      have hround : (fmtOf dt).roundVal rm (.fin n 0 e) = (fmtOf dt).withSign n 0 := by
        simp [Num.Fmt.roundVal, Num.Fmt.roundPos, Num.Fmt.roundMag]
      rw [hround, he, ratOf_eq_zero_iff]
      cases n <;> rfl
  generalize (fmtOf dt).roundVal rm ((fmtOf st).val code) = y at *
  split
  · next h =>
    simp only [Bool.and_eq_true] at h
    obtain ⟨⟨hfin, -, hyfin⟩, hex⟩ := h
    have hyn : (BitVec.ofNat 32 y).toNat % 2 ^ dt.bits = y := by
      have h32 : y < 2 ^ 32 := hlt.trans_le (Nat.pow_le_pow_right Nat.two_pos (hw.trans_le hbits))
      rw [BitVec.toNat_ofNat, Nat.mod_eq_of_lt h32, Nat.mod_eq_of_lt (by rw [← hw]; exact hlt)]
    have hy : narrowed dt (BitVec.ofNat 32 y) b = some ((fmtOf dt).val y).dy := by
      rw [narrowed, if_neg hs8, hyn, if_pos hyfin]
    refine uncvt_residual hn hc hfin hex hy ?_ (hzero hfin)
    rw [ratOf_add, ratOf_neg]; ring
  · exact uncvt_saved hn hc _ _

theorem uncvt_rcvt {dt st : Ty} (h : (Sys2Proof.rcvtPair dt st).isSome = true) (rm : RM) (a b : Word) :
    uncvt dt st (rcvt dt st rm a b).2 (rcvt dt st rm a b).1 b = BitVec.ofNat 32 (a.toNat % 2 ^ st.bits) := by
  have hn := narrows_of_pair h
  by_cases hs8 : dt = .s8
  · subst hs8; exact uncvt_rcvt_s8 hn rm a b
  · exact uncvt_rcvt_float hn hs8 rm a b

/-! ### RRELU and UNRELU, RSHR and UNSHR (08 R145, R146) -/

theorem unrelu_rrelu (a : Word) : unrelu (rrelu a).2 (rrelu a).1 = a := by
  rw [rrelu]
  split
  · exact if_pos ((save_mk _ _).trans (by decide))
  · split
    · exact if_pos ((save_mk _ _).trans (by decide))
    · exact if_neg (Bool.eq_false_iff.mp ((save_mk _ _).trans (by decide)))

/-- The bits that a right shift keeps, back in their places, and those that it discards. -/
theorem shr_shiftLeft_or (t : Ty) (a : Word) {n : Nat} (hn : n < 32) :
    (shr t a n) <<< n ||| BitVec.ofNat 32 ((BitVec.ofNat 32 (a.toNat % 2 ^ n)).toNat % 2 ^ n) = a := by
  refine BitVec.eq_of_getLsbD_eq fun j hj => ?_
  have hkept (hjn : n ≤ j) : (shr t a n).getLsbD (j - n) = a.getLsbD j := by
    have hidx : n + (j - n) = j := Nat.add_sub_cancel' hjn
    rw [shr]
    split
    · rw [if_neg (Nat.not_le.mpr hn), BitVec.getLsbD_sshiftRight, hidx]; simp [hj]; omega
    · rw [if_neg (Nat.not_le.mpr hn), BitVec.getLsbD_ushiftRight, hidx]
  rw [BitVec.getLsbD_or, BitVec.getLsbD_shiftLeft, BitVec.getLsbD_ofNat, Nat.testBit_mod_two_pow, BitVec.toNat_ofNat,
    Nat.testBit_mod_two_pow, Nat.testBit_mod_two_pow, ← BitVec.getLsbD]
  by_cases hjn : j < n
  · simp [hj, hjn]
  · simp [hj, hjn, hkept (Nat.not_lt.mp hjn)]

theorem unshr_rshr (t : Ty) (a b : Word) : unshr (rshr t a b).2 (rshr t a b).1 b = a := by
  rw [rshr]
  dsimp only
  by_cases hn : b.toNat < 32
  · have hsave : ChEntry.save ⟨if t = .s32 then 0xA1 else 0xA0, BitVec.ofNat 32 (a.toNat % 2 ^ b.toNat)⟩ = false := by
      split <;> exact (save_mk _ _).trans (by decide)
    rw [if_pos hn, unshr]
    dsimp only
    rw [hsave, if_neg Bool.false_ne_true, if_neg (Nat.not_le.mpr hn)]
    exact shr_shiftLeft_or t a hn
  · have hsave : ChEntry.save ⟨if t = .s32 then 0xB1 else 0xB0, a⟩ = true := by
      split <;> exact (save_mk _ _).trans (by decide)
    rw [if_neg hn, unshr]
    dsimp only
    rw [hsave, if_pos rfl]
end Sys2Proof.Laws

namespace Sys2Proof.Proofs
open Sys2Proof Sys2Proof.Machine Sys2Proof.Safety Sys2Proof.Laws

/-- Settles O17: each partner forms the exact operand, which the format holds, so that its one rounding changes nothing. -/
theorem exactRecovery : Obligations.ExactRecovery := by
  unfold Obligations.ExactRecovery
  exact ⟨unadd_radd, unmulF_rmulF, unmulS_rmulS, fun dt st rm a b h => uncvt_rcvt h rm a b, unrelu_rrelu, unshr_rshr⟩
end Sys2Proof.Proofs
end

section
/-! ## Pushes and pops that do not take place (08 R138, R147, R148) -/

namespace Sys2Proof.Laws
open Sys2Proof Sys2Proof.Machine Sys2Proof.Safety

/-! ### The chaff instructions as pushes and pops -/

/-- Every reversible instruction and CHPUSH is one push, of a result and an entry for each lane. -/
theorem exec_of_pushes {i : Instr} {d : Option Dst} {f : Ctx → Nat → Word × ChEntry} (h : Spec.pushes i = some (d, f)) (s : State) :
    ∃ v : Ctx → Nat → Word × ChEntry, exec i s = issue i s (fun k => pushBody i s k (d.map Dst.reg) (v k)) := by
  cases i <;> cases h <;> exact ⟨_, rfl⟩

/-- Every undo partner and CHPOP is one pop. -/
theorem exec_of_undo {i : Instr} {d : Dst} {f : Ctx → Nat → Word → Word} (h : Spec.undo i = some (d, f)) (s : State) :
    exec i s = issue i s (fun k => popBody i s k d.reg) := by
  cases i <;> cases h <;> rfl

/-- The tags that a pop accepts are those of Table 8.2. -/
theorem popTags_contains {i : Instr} {d : Dst} {f : Ctx → Nat → Word → Word} (h : Spec.undo i = some (d, f)) (t : Byte) :
    (popTags i).contains t = (decide (t = (Spec.pairOfTags i).1) || decide (t = (Spec.pairOfTags i).2)) := by
  have hpair (a b : Byte) : [a, b].contains t = (decide (t = a) || decide (t = b)) := by
    simp
  cases i <;> cases h
  case chpop => exact Eq.trans (by simp [popTags]) (hpair 0xC0 0xC0)
  case unmulX64 ty => by_cases ht : ty = .s32 <;> simp only [popTags, Spec.pairOfTags, ht, if_true, if_false, hpair]
  case unshr ty => by_cases ht : ty = .s32 <;> simp only [popTags, Spec.pairOfTags, ht, if_true, if_false, hpair]
  all_goals exact hpair _ _

/-! ### Traps before any effect -/

/-- A set of lanes that a test gives. -/
theorem laneSetOf_eq {m : LaneSet} {g : Nat → Bool} (h : ∀ l < 64, m.getLsbD l = g l) : laneSetOf 64 g = m := by
  refine (laneSet_eq_iff _ _).mpr fun l hl => ?_
  rw [getLsbD_laneSetOf 64 g l hl, decide_eq_true hl, Bool.true_and, h l hl]

theorem laneSetOf_eq_zero {e : LaneSet} {g : Nat → Bool} (h : ∀ l, e.getLsbD l = true → g l = false) :
    laneSetOf 64 (fun l => e.getLsbD l && g l) = 0 := by
  refine laneSetOf_eq fun l _ => ?_
  refine BitVec.getLsbD_zero.trans ?_
  cases he : e.getLsbD l with
  | false => rfl
  | true => rw [Bool.true_and, h l he]

/-- A body that raises a trap: its entry is the whole effect. -/
theorem traps_of_error {i : Instr} {s : State} {k : Ctx} {c : Cause} {m : LaneSet} {a : DWord} {body : Ctx → Except TrapInfo Done}
    (hi : exec i s = issue i s body) (h : Issues i s k) (hb : body k = .error (k.trap c m a)) : Traps i k s c m a := by
  rw [Traps, hi]
  exact congrArg Host.Outcome.next (issue_trap i s k _ body h hb)

section
variable {i : Instr} {s : State} {k : Ctx}

theorem pushBody_full {d : Option Reg} {f : Nat → Word × ChEntry} {m : LaneSet}
    (hm : ∀ l < 64, m.getLsbD l = (k.e.getLsbD l && decide (s.chCapacity k.sh l ≤ (k.sh.lane l).depth))) (h0 : m ≠ 0) :
    pushBody i s k d f = .error (k.trap .chfull m 0) := by
  rw [pushBody, laneSetOf_eq hm]
  exact if_pos (bne_iff_ne.mpr h0)

theorem popBody_empty {d : Reg} {m : LaneSet}
    (hm : ∀ l < 64, m.getLsbD l = (k.e.getLsbD l && decide ((k.sh.lane l).depth = 0))) (h0 : m ≠ 0) :
    popBody i s k d = .error (k.trap .chempty m 0) := by
  rw [popBody, laneSetOf_eq hm]
  exact if_pos (bne_iff_ne.mpr h0)

/-- Without a lane that is empty and without a refill, a pop is its tag check and its effect. -/
theorem popBody_onChip {d : Reg} (h : ∀ l, k.e.getLsbD l = true → (k.sh.lane l).chip ≠ [] ∧ (k.sh.lane l).depth ≠ 0) :
    popBody i s k d =
      let bad := laneSetOf 64 (fun l => k.e.getLsbD l && !(popTags i).contains ((k.sh.lane l).chip.headD ⟨0, 0⟩).tag)
      if bad != 0 then .error (k.trap .chord bad 0) else .ok (popDone s i k d) := by
  have hempty : laneSetOf 64 (fun l => k.e.getLsbD l && decide ((k.sh.lane l).depth = 0)) = 0 :=
    laneSetOf_eq_zero fun l hl => decide_eq_false (h l hl).2
  have hrefill : ((lanesOf k.e).flatMap (fun l => (refillOf (k.sh.lane l)).map (fun p => (l, s.chAddr k.sh l p)))) = [] := by
    refine List.flatMap_eq_nil_iff.mpr fun l hl => ?_
    have hchip := (h l ((mem_lanesOf _ _).mp hl)).1
    rw [refillOf, if_neg (by simpa using hchip), List.map_nil]
  rw [popBody, hempty, hrefill]
  rfl

theorem popBody_tag {d : Dst} {f : Ctx → Nat → Word → Word} {r : Reg} {m : LaneSet} (hi : Spec.undo i = some (d, f))
    (h : ∀ l, k.e.getLsbD l = true → (k.sh.lane l).chip ≠ [] ∧ (k.sh.lane l).depth ≠ 0)
    (hm : ∀ l < 64, m.getLsbD l = (k.e.getLsbD l &&
      decide (((k.sh.lane l).chip.map (·.tag)).head? ≠ some (Spec.pairOfTags i).1) &&
      decide (((k.sh.lane l).chip.map (·.tag)).head? ≠ some (Spec.pairOfTags i).2))) (h0 : m ≠ 0) :
    popBody i s k r = .error (k.trap .chord m 0) := by
  have hbad : laneSetOf 64 (fun l => k.e.getLsbD l && !(popTags i).contains ((k.sh.lane l).chip.headD ⟨0, 0⟩).tag) = m := by
    refine laneSetOf_eq fun l hl => (hm l hl).trans ?_
    cases he : k.e.getLsbD l with
    | false => rfl
    | true =>
      obtain ⟨x, r, hx⟩ := List.exists_cons_of_ne_nil (h l he).1
      rw [popTags_contains hi, hx]
      simp [Bool.not_or]
  rw [popBody_onChip h, hbad]
  exact if_pos (bne_iff_ne.mpr h0)

theorem dropBody_short {a : Reg} {m : LaneSet}
    (hm : ∀ l < 64, m.getLsbD l = (k.e.getLsbD l && decide ((k.sh.lane l).depth < (Spec.A k a l).toNat))) (h0 : m ≠ 0) :
    dropBody s k a = .error (k.trap .chempty m 0) := by
  rw [dropBody, laneSetOf_eq hm]
  exact if_pos (bne_iff_ne.mpr h0)

end
end Sys2Proof.Laws

namespace Sys2Proof.Proofs
open Sys2Proof Sys2Proof.Machine Sys2Proof.Safety Sys2Proof.Laws

/-- Settles O18: each check comes before the effects, and its set of lanes is the one that the trap names. -/
theorem chaffTraps : Obligations.ChaffTraps := by
  unfold Obligations.ChaffTraps
  refine ⟨?_, ?_, ?_, ?_⟩
  · intro i d f s k m hi h hm h0
    obtain ⟨v, hv⟩ := exec_of_pushes hi s
    exact traps_of_error hv h (pushBody_full hm h0)
  · intro i d f s k m hi h hm h0
    exact traps_of_error (exec_of_undo hi s) h (popBody_empty hm h0)
  · intro i d f s k m hi h hchip hm h0
    exact traps_of_error (exec_of_undo hi s) h (popBody_tag hi hchip hm h0)
  · intro g a s k m h hm h0
    exact traps_of_error (body := fun k => dropBody s k a) rfl h (dropBody_short hm h0)
end Sys2Proof.Proofs
end
section
/-! ## Pushes and pops (08 R137 to R148) -/

namespace Sys2Proof.Laws
open Sys2Proof Sys2Proof.Machine Sys2Proof.Safety

/-! ### What is pushed (08 R142 to R146) -/

theorem radd_eq_sumEntry (rm : RM) (a b : Word) :
    radd rm a b = (Spec.each2 .f32 (Spec.addE rm) a b, Spec.sumEntry a b (Spec.each2 .f32 (Spec.addE rm) a b)) := by
  have hc : (Spec.each2 .f32 (Spec.addE rm) a b).toNat = Num.f32.addVal rm (Num.f32.val a.toNat) (Num.f32.val b.toNat) :=
    toNat_ofNat32 rebuilds_f32 (addVal_lt rm _ _ rebuilds_f32.fit)
  refine Prod.ext rfl ?_
  simp only [radd, Spec.sumEntry, Spec.sumLess, Spec.entry, Spec.V, hc]

theorem rmulF_eq_productEntry (rm : RM) (a b : Word) :
    rmulF rm a b = (Spec.each2 .f32 (Spec.mulE rm) a b, Spec.productEntry a b (Spec.each2 .f32 (Spec.mulE rm) a b)) := by
  have hc : (Spec.each2 .f32 (Spec.mulE rm) a b).toNat = Num.f32.mul rm (Num.f32.val a.toNat) (Num.f32.val b.toNat) :=
    toNat_ofNat32 rebuilds_f32 (roundVal_lt rebuilds_f32.fit rm _)
  refine Prod.ext rfl ?_
  simp only [rmulF, Spec.productEntry, Spec.productLess, Spec.entry, Spec.V, hc]

theorem loWord_ofInt (x : Int) : loWord (BitVec.ofInt 64 x) = BitVec.ofInt 32 x := by
  apply BitVec.eq_of_toNat_eq
  rw [loWord, BitVec.extractLsb'_toNat, BitVec.toNat_ofInt, BitVec.toNat_ofInt]
  omega

theorem rmulS_eq_entry (a b : Word) : rmulS a b =
    (BitVec.ofInt 32 (Spec.wide a b), Spec.entry (b != 0) 0x41 0x51 (BitVec.ofInt 32 (Spec.wide a b / 2 ^ 32)) a) := by
  refine Prod.ext (loWord_ofInt _) ?_
  simp only [rmulS, Spec.entry, Spec.wide, hiWord_ofInt, bne_iff_ne, ne_eq, ite_not]

/-- A number is below zero where it is neither a zero nor positive. -/
theorem below_zero_eq_neg {v : Num.Val} (h : v.isNan = false) :
    (Num.Val.below v (Num.f32.val 0) && !v.isZero) = (v.neg && !v.isZero) := by
  cases v with
  | nan => cases h
  | inf n => cases n <;> rfl
  | fin n m e =>
    cases m with
    | zero => simp [Num.Val.isZero]
    | succ m =>
      have h0 : Num.f32.val 0 = .fin false 0 (-149) := rfl
      have hlt := lt_iff_ratOf (Num.Val.fin n (m + 1) e).dy (Num.Val.fin false 0 (-149)).dy
      rw [ratOf_fin, ratOf_fin] at hlt
      have hpos : (0 : ℚ) < (m + 1 : ℕ) * 2 ^ e := by positivity
      have hbelow : Num.Val.below (.fin n (m + 1) e) (.fin false 0 (-149)) = n := by
        rw [Num.Val.below, if_neg (by omega)]
        cases n
        · rw [← Bool.not_eq_true, hlt]; simpa using hpos.le
        · rw [hlt]; simpa using hpos
      rw [h0, hbelow]; rfl

theorem rrelu_eq_spec (a : Word) : rrelu a =
    if (Spec.V a).isNan then (0x7FC00000, ⟨0x90, a⟩)
    else if Num.Val.below (Spec.V a) (Spec.V 0) && !(Spec.V a).isZero then (0, ⟨0x90, a⟩)
    else (a, ⟨0x80, 0⟩) := by
  rw [rrelu]
  refine ite_congr rfl (fun _ => rfl) fun hnan => ?_
  rw [show Spec.V 0 = Num.f32.val 0 from rfl, below_zero_eq_neg (Bool.not_eq_true _ ▸ hnan)]

/-- Every reversible instruction and CHPUSH push what their rows give. -/
theorem exec_of_pushes_value {i : Instr} {d : Option Dst} {f : Ctx → Nat → Word × ChEntry} (h : Spec.pushes i = some (d, f))
    (hw : i.wf = true) (s : State) :
    exec i s = issue i s (fun k => pushBody i s k (d.map Dst.reg) (f k)) ∧ i.cls ≠ .uniform := by
  cases i <;> cases h <;> refine ⟨congrArg (issue _ s) (funext fun k => congrArg (pushBody _ s k _) (funext fun l => ?_)), nofun⟩
  case raddF32B32 | raddX64 => exact radd_eq_sumEntry _ _ _
  case rmulF32B32 => exact rmulF_eq_productEntry _ _ _
  case rmulS32B32 => exact rmulS_eq_entry _ _
  case rmulX64 ty rm =>
    exact ite_congr rfl (fun _ => rmulS_eq_entry _ _) fun _ => rmulF_eq_productEntry _ _ _
  case rreluF32B32 | rreluX64 => exact rrelu_eq_spec _
  case rshr => exact congrArg (·, _) (shr_eq_right hw _ _)
  case rcvt | chpush => rfl

/-! ### What a pop gives (08 R141 to R148) -/

/-- Word 0 of an operand group: a field that names no register reads zero. -/
def word0 (u : RegUse) (f : Reg → Nat → Nat → Word) (l : Nat) : Word := if 0 < u.count then f u.base l 0 else 0

theorem getD_map_lanes {β : Type} (e : LaneSet) (g : Nat → β) (z : β) {l : Nat} (hl : e.getLsbD l = true) :
    KV.getD ((lanesOf e).map (fun l => (l, g l))) l z = g l := by
  have hfind (ls : List Nat) (h : l ∈ ls) : KV.find? (ls.map (fun l => (l, g l))) l = some (g l) := by
    induction ls with
    | nil => cases h
    | cons j ls ih =>
      rw [List.map_cons, KV.find?]
      split
      · next hj => rw [hj]
      · next hj => exact ih ((List.mem_cons.mp h).resolve_left (Ne.symm hj))
  rw [KV.getD, hfind _ ((mem_lanesOf _ _).mpr hl), Option.getD_some]

/-- The operands that an instruction captures in a lane of E: A in word 0, B in word 4. -/
theorem capture_words {k : Ctx} {i : Instr} (hu : i.cls ≠ .uniform) {l : Nat} (hl : k.e.getLsbD l = true) :
    ((k.capture i).getD l []).getD 0 0 = word0 i.opA k.opA l ∧ ((k.capture i).getD l []).getD 4 0 = word0 i.opB k.opB l := by
  simp only [Ctx.capture, if_neg hu, getD_map_lanes k.e _ _ hl]
  exact ⟨rfl, rfl⟩

/-- An undo partner is a lane-set instruction with one destination register. -/
theorem undo_shape {i : Instr} {d : Dst} {f : Ctx → Nat → Word → Word} (h : Spec.undo i = some (d, f)) :
    i.cls ≠ .uniform ∧ i.dsts = [⟨d.reg, 1⟩] := by
  cases i <;> cases h <;> exact ⟨nofun, rfl⟩

/-- Bit 4 of an accepted tag says which of the two rules of R141 applies. -/
theorem pop_by_tag {x : ChEntry} {res save : Byte} {v r s : Word} (hres : res.getLsbD 4 = false) (hsave : save.getLsbD 4 = true)
    (hx : x.tag = res ∨ x.tag = save) (hr : x.save = false → v = r) (hs : x.save = true → v = s) :
    v = if x.tag = res then r else s := by
  by_cases ht : x.tag = res
  · rw [if_pos ht]; exact hr ((congrArg (BitVec.getLsbD · 4) ht).trans hres)
  · rw [if_neg ht]; exact hs ((congrArg (BitVec.getLsbD · 4) (hx.resolve_left ht)).trans hsave)

theorem unadd_eq_unsum {x : ChEntry} (hs : x.save = false) (a b : Word) : unadd x a b = Spec.undo.unsum a b x.payload := by
  rw [unadd_residual hs, Spec.undo.unsum]
  exact ite_congr rfl (fun _ => rfl) fun _ => rfl

theorem unmulS_eq_unproduct {x : ChEntry} (hs : x.save = false) (a b : Word) :
    unmulS x a b = Spec.undo.unproduct a b x.payload := by
  rw [unmulS, hs]; rfl

/-- Only the payload of a residual entry counts. -/
theorem unmulF_residual_tag {x : ChEntry} (hs : x.save = false) (a b : Word) : unmulF x a b = unmulF ⟨0x40, x.payload⟩ a b := by
  rw [unmulF_residual hs, unmulF_residual ((save_mk _ _).trans (by decide))]

theorem uncvt_residual_tag {dt st : Ty} {x : ChEntry} (hs : x.save = false) (a b : Word) :
    uncvt dt st x a b = uncvt dt st ⟨0x60, x.payload⟩ a b := by
  have h60 : ChEntry.save ⟨0x60, x.payload⟩ = false := (save_mk _ _).trans (by decide)
  rw [uncvt, uncvt, hs, h60]

/-- UNCVT reads B only as the scale of S8. -/
theorem uncvt_scale {dt : Ty} (st : Ty) (x : ChEntry) (a b : Word) (f : Reg → Nat → Nat → Word) (r : Reg) (l : Nat) (hb : f r l 0 = b) :
    uncvt dt st x a (word0 ⟨r, if dt = .s8 then 1 else 0⟩ f l) = uncvt dt st x a b := by
  by_cases hd : dt = .s8
  · rw [word0, if_pos hd, ← hb]; rfl
  · simp only [uncvt, if_neg hd]

theorem unshr_residual {x : ChEntry} (hs : x.save = false) (a b : Word) : unshr x a b =
    if 32 ≤ b.toNat then x.payload
    else BitVec.ofNat 32 (a.toNat * 2 ^ b.toNat % 2 ^ 32 ||| x.payload.toNat % 2 ^ b.toNat) := by
  rw [unshr, hs]
  refine (if_neg Bool.false_ne_true).trans (ite_congr rfl (fun _ => rfl) fun hn => ?_)
  apply BitVec.eq_of_toNat_eq
  have hlow : x.payload.toNat % 2 ^ b.toNat < 2 ^ 32 :=
    (Nat.mod_le _ _).trans_lt x.payload.isLt
  rw [BitVec.toNat_or, BitVec.toNat_shiftLeft, BitVec.toNat_ofNat, BitVec.toNat_ofNat, Nat.shiftLeft_eq, Nat.mod_eq_of_lt hlow,
    Nat.mod_eq_of_lt (Nat.or_lt_two_pow (Nat.mod_lt _ (Nat.two_pow_pos 32)) hlow)]

/-- What an undo partner gives for an entry that it accepts. -/
theorem popValue_of_undo {i : Instr} {d : Dst} {f : Ctx → Nat → Word → Word} (h : Spec.undo i = some (d, f))
    {k : Ctx} {l : Nat} (hl : k.e.getLsbD l = true) {x : ChEntry}
    (hx : x.tag = (Spec.pairOfTags i).1 ∨ x.tag = (Spec.pairOfTags i).2) :
    popValue i (((k.capture i).getD l []).getD 0 0) (((k.capture i).getD l []).getD 4 0) x =
      if x.tag = (Spec.pairOfTags i).1 then f k l x.payload else Spec.saved i x.payload := by
  obtain ⟨hA, hB⟩ := capture_words (undo_shape h).1 hl
  rw [hA, hB]
  cases i <;> cases h
  case unaddF32B32 | unaddX64 =>
    exact pop_by_tag (res := 0x20) (save := 0x30) (by decide) (by decide) hx (fun hs => unadd_eq_unsum hs _ _) fun hs => if_pos hs
  case unmulF32B32 =>
    exact pop_by_tag (res := 0x40) (save := 0x50) (by decide) (by decide) hx (fun hs => unmulF_residual_tag hs _ _) fun hs => if_pos hs
  case unmulS32B32 =>
    exact pop_by_tag (res := 0x41) (save := 0x51) (by decide) (by decide) hx (fun hs => unmulS_eq_unproduct hs _ _) fun hs => if_pos hs
  case unmulX64 ty =>
    by_cases ht : ty = .s32
    · simp only [Spec.pairOfTags, popValue, ht, if_true] at hx ⊢
      exact pop_by_tag (by decide) (by decide) hx (fun hs => unmulS_eq_unproduct hs _ _) fun hs => if_pos hs
    · simp only [Spec.pairOfTags, popValue, ht, if_false] at hx ⊢
      exact pop_by_tag (by decide) (by decide) hx (fun hs => unmulF_residual_tag hs _ _) fun hs => if_pos hs
  case uncvt dt st =>
    have hp := rcvtPair_lt dt st
    refine pop_by_tag (save_residualTag 0 _ hp) (save_saveTag 0 _ hp) hx (fun hs => ?_) fun hs => if_pos hs
    exact (uncvt_scale st x _ _ k.opB _ l rfl).trans (uncvt_residual_tag hs _ _)
  case unreluF32B32 | unreluX64 =>
    exact pop_by_tag (res := 0x80) (save := 0x90) (by decide) (by decide) hx (fun hs => if_neg (Bool.eq_false_iff.mp hs)) fun hs => if_pos hs
  case unshr ty =>
    by_cases ht : ty = .s32
    · simp only [Spec.pairOfTags, ht, if_true] at hx ⊢
      exact pop_by_tag (by decide) (by decide) hx (fun hs => unshr_residual hs _ _) fun hs => if_pos hs
    · simp only [Spec.pairOfTags, ht, if_false] at hx ⊢
      exact pop_by_tag (by decide) (by decide) hx (fun hs => unshr_residual hs _ _) fun hs => if_pos hs
  case chpop => exact (ite_self _).symm

end Sys2Proof.Laws
end
section
namespace Sys2Proof.Laws
open Sys2Proof Sys2Proof.Machine Sys2Proof.Safety

/-! ### Stacks and registers change together (08 R141) -/

/-- The sheaf after the lanes of E have changed their stacks and written a register each. -/
def stackSheaf (k : Ctx) (g : Nat → Lane → Lane) (d : Reg) (v : Nat → Word) : Sheaf :=
  groupSheaf { k with sh := k.sh.modLanes k.e g } d (fun l => [v l])

section
variable {k : Ctx} (g : Nat → Lane → Lane) {d : Reg} (v : Nat → Word) (hd : d.isLaneDst = true)
include hd

theorem stackSheaf_frame : { stackSheaf k g d v with lanes := k.sh.lanes, regs := k.sh.regs } = k.sh := by
  have hregs : { stackSheaf k g d v with regs := (k.sh.modLanes k.e g).regs } = k.sh.modLanes k.e g := lanes_writeGroups d hd _ _
  have hlanes : { k.sh.modLanes k.e g with lanes := k.sh.lanes } = k.sh := modLanes_frame _ _ _
  exact (congrArg (fun y : Sheaf => { y with lanes := k.sh.lanes, regs := k.sh.regs }) hregs).trans
    (congrArg (fun y : Sheaf => { y with regs := k.sh.regs }) hlanes)

theorem lane_stackSheaf (l : Nat) :
    (stackSheaf k g d v).lane l = if k.e.getLsbD l then g l (k.sh.lane l) else k.sh.lane l := by
  have hregs : { stackSheaf k g d v with regs := (k.sh.modLanes k.e g).regs } = k.sh.modLanes k.e g := lanes_writeGroups d hd _ _
  exact (congrArg (fun y : Sheaf => y.lane l) hregs).trans (lane_modLanes _ _ _ _)

theorem stackSheaf_regs : RegsAfter k (stackSheaf k g d v) d (fun l => [v l]) := by
  intro r l hl
  have h := groupSheaf_regs { k with sh := k.sh.modLanes k.e g } d hd (fun l => [v l]) r l hl
  simp only [vreg_modLanes] at h
  exact h

end

/-- The sheaf that the retirement of an instruction leaves (04 R63, 05 R86, 19 R327). -/
def retiredSheaf (i : Instr) (k : Ctx) (d : Done) (sh : Sheaf) : Sheaf :=
  match k.replay with
  | some _ => { sh with replay := sh.replay.tail }
  | none => sh.modLanes k.path (fun l x => x.issued i k d l)

/-- A body that completes and leaves the latches to the issue: no lane branches or stays at the instruction. -/
structure Done.Plain (d : Done) : Prop where
  target : d.target = none
  stay : d.stay = 0
  branch : d.branch = false
  refills : d.refills = false
  blocked : d.blocked = false
  after : d.after = none

/-- What the issue leaves of a sheaf whose stacks and registers have changed. -/
structure StackAfter (k : Ctx) (g : Nat → Lane → Lane) (d : Reg) (v : Nat → Word) (w : Nat → Option Word) (sh : Sheaf) : Prop where
  frame : { sh with lanes := k.sh.lanes, regs := k.sh.regs, replay := k.sh.replay } = k.sh
  regs : RegsAfter k sh d (fun l => [v l])
  lanes : LanesAfter k sh (fun l x => if k.e.getLsbD l then g l x else x) (fun l x => shifted k (w l) x)

theorem stackAfter_retired {i : Instr} {k : Ctx} {dn : Done} (g : Nat → Lane → Lane) {d : Reg} (v : Nat → Word) {w : Nat → Option Word}
    (hu : i.cls ≠ .uniform) (hd : d.isLaneDst = true) (hp : Done.Plain dn)
    (hw : ∀ l, (if k.e.getLsbD l then dn.val.lookup l else none) = w l) :
    StackAfter k g d v w (retiredSheaf i k dn (stackSheaf k g d v)) := by
  have hframe := stackSheaf_frame (k := k) g v hd
  have hregs := stackSheaf_regs (k := k) g v hd
  have hlane := lane_stackSheaf (k := k) g v hd
  generalize stackSheaf k g d v = u at hframe hregs hlane
  have hrest := congrArg (fun y : Sheaf => { y with replay := k.sh.replay }) hframe
  have hreplay := congrArg Sheaf.replay hframe
  refine ⟨?_, ?_, ?_⟩
  · rw [retiredSheaf]
    split
    · exact hrest
    · rw [modLanes_eq]; exact hrest
  · rw [retiredSheaf]
    split
    · exact hregs
    · intro r l hl; rw [vreg_modLanes]; exact hregs r l hl
  · refine lanesAfter_of i k dn u _ _ (fun l _ => hlane l) hreplay fun _ l _ x _ => ?_
    rw [issued_shifted i k dn l x hu hp.target (by rw [hp.stay]; exact BitVec.getLsbD_zero) hp.branch hp.refills, hw]

/-- An instruction whose own effect, from a state `u` that holds its sheaf, is on the stacks and one register of the lanes
of E. -/
theorem exec_stack {i : Instr} {s u : State} {k : Ctx} {body : Ctx → Except TrapInfo Done} {dn : Done} (g : Nat → Lane → Lane) {d : Reg}
    (v : Nat → Word) {w : Nat → Option Word} (hi : exec i s = issue i s body) (h : Issues i s k) (hu : i.cls ≠ .uniform)
    (hd : d.isLaneDst = true) (hb : body k = .ok dn) (hsh : u.sheaf? k.sid = some k.sh)
    (hst : dn.st = u.setSheaf k.sid (stackSheaf k g d v)) (hp : Done.Plain dn)
    (hw : ∀ l, (if k.e.getLsbD l then dn.val.lookup l else none) = w l) :
    ∃ t sh, exec i s = .next t ∧ t = withSheaf i u k sh ∧ StackAfter k g d v w sh := by
  have hframe := stackSheaf_frame (k := k) g v hd
  have hcore := congrArg Sheaf.core hframe
  have hfl := congrArg Sheaf.flights hframe
  refine ⟨_, retiredSheaf i k dn (stackSheaf k g d v), hi, ?_, stackAfter_retired g v hu hd hp hw⟩
  have hretire : s.retire i k dn = u.retire i k dn := rfl
  rw [issueState_of i s k body h dn hb hp.blocked hp.after, hretire, retire_sheaf u i k dn _ hsh (.inr hst) hcore hfl]
  rfl

/-! ### Pushes that do not spill, pops of entries on chip -/

/-- One push in a lane of E (R137, R141). -/
def pushed (f : Nat → Word × ChEntry) (l : Nat) (x : Lane) : Lane :=
  { x with depth := x.depth + 1, chip := (f l).2 :: (if x.chip.length < 16 then x.chip else x.chip.take (x.chip.length - 8)) }

/-- What a pop of the entry x gives in lane l (R141). -/
def popGives (i : Instr) (k : Ctx) (l : Nat) (x : ChEntry) : Word :=
  popValue i (((k.capture i).getD l []).getD 0 0) (((k.capture i).getD l []).getD 4 0) x

theorem modSheaf_modSheaf (s : State) (sid : Nat) (f g : Sheaf → Sheaf) :
    (s.modSheaf sid f).modSheaf sid g = s.modSheaf sid (fun sh => g (f sh)) := by
  cases h : s.sheaf? sid with
  | none => simp only [State.modSheaf, h]
  | some sh =>
    rw [modSheaf_some _ _ _ _ h, modSheaf_some _ _ _ _ h, modSheaf_some _ _ _ (f sh) (by rw [sheaf_setSheaf, if_pos rfl])]
    simp only [State.setSheaf, kv_put_put]

section
variable {s : State} {k : Ctx} (d : Option Dst) (f : Nat → Word × ChEntry)

theorem pushDone_st (hs : s.sheaf? k.sid = some k.sh) : (pushDone s k (d.map Dst.reg) f).st =
    s.setSheaf k.sid (stackSheaf k (pushed f) ((d.map Dst.reg).getD .z) (fun l => (f l).1)) := by
  cases d with
  | none =>
    have hz : stackSheaf k (pushed f) .z (fun l => (f l).1) = k.sh.modLanes k.e (pushed f) := foldl_writeGroup_z _ _
    simp only [Option.map_none, Option.getD_none, hz, ← modSheaf_some s k.sid (fun sh => sh.modLanes k.e (pushed f)) k.sh hs]
    rfl
  | some d =>
    simp only [Option.map_some, Option.getD_some, pushDone, groupDone, modSheaf_modSheaf]
    exact modSheaf_some _ _ _ _ hs

theorem pushDone_plain : Done.Plain (pushDone s k (d.map Dst.reg) f) := by
  cases d <;> exact ⟨rfl, rfl, rfl, rfl, rfl, rfl⟩

/-- b0 takes the result in the lanes of E; CHPUSH has none. -/
theorem pushDone_val (l : Nat) : (if k.e.getLsbD l then (pushDone s k (d.map Dst.reg) f).val.lookup l else none) =
    if k.e.getLsbD l && d.isSome then some (f l).1 else none := by
  cases d with
  | none => simp [pushDone]
  | some d =>
    have hval : (pushDone s k ((some d).map Dst.reg) f).val.lookup l = _ := lookup_groupDone _ k d.reg (fun l => [(f l).1]) l
    rw [hval]
    cases k.e.getLsbD l <;> rfl

theorem isLaneDst_pushed : ((d.map Dst.reg).getD .z).isLaneDst = true := by
  cases d with
  | none => rfl
  | some d => exact isLaneDst_reg d

end

/-- Where every lane of E has room no lane raises CHFULL. -/
theorem full_eq_zero {s : State} {k : Ctx} (h : ∀ l, k.e.getLsbD l = true → (k.sh.lane l).depth < s.chCapacity k.sh l) :
    laneSetOf 64 (fun l => k.e.getLsbD l && decide (s.chCapacity k.sh l ≤ (k.sh.lane l).depth)) = 0 :=
  laneSetOf_eq_zero fun l hl => decide_eq_false (Nat.not_le.mpr (h l hl))

theorem pushBody_onChip {i : Instr} {s : State} {k : Ctx} (d : Option Reg) (f : Nat → Word × ChEntry)
    (h : ∀ l, k.e.getLsbD l = true → (k.sh.lane l).depth < s.chCapacity k.sh l ∧ (k.sh.lane l).chip.length < 16) :
    pushBody i s k d f = .ok (pushDone s k d f) := by
  have hspills : spills k = [] :=
    List.flatMap_eq_nil_iff.mpr fun l hl => if_pos (h l ((mem_lanesOf _ _).mp hl)).2
  rw [pushBody, full_eq_zero fun l hl => (h l hl).1, hspills]
  rfl

/-- 08 R141 to R146, R148: a push in lanes with room on chip. -/
theorem exec_push {i : Instr} {d : Option Dst} {f : Ctx → Nat → Word × ChEntry} {s : State} {k : Ctx}
    (hi : Spec.pushes i = some (d, f)) (hw : i.wf = true) (h : Issues i s k)
    (hroom : ∀ l, k.e.getLsbD l = true → (k.sh.lane l).depth < s.chCapacity k.sh l ∧ (k.sh.lane l).chip.length < 16) :
    ∃ t sh, exec i s = .next t ∧ t = withSheaf i s k sh ∧
      StackAfter k (fun l x => { x with depth := x.depth + 1, chip := (f k l).2 :: x.chip }) ((d.map Dst.reg).getD .z)
        (fun l => (f k l).1) (fun l => if k.e.getLsbD l && d.isSome then some (f k l).1 else none) sh := by
  obtain ⟨hexec, hu⟩ := exec_of_pushes_value hi hw s
  obtain ⟨t, sh, ht, hsh, hframe, hregs, hlanes⟩ := exec_stack (pushed (f k)) (fun l => (f k l).1) hexec h hu (isLaneDst_pushed d)
    (pushBody_onChip _ _ hroom) (issues_sheaf h) (pushDone_st d (f k) (issues_sheaf h)) (pushDone_plain d (f k)) (pushDone_val d (f k))
  have hown (l : Nat) : (if k.e.getLsbD l then pushed (f k) l (k.sh.lane l) else k.sh.lane l) =
      if k.e.getLsbD l then { k.sh.lane l with depth := (k.sh.lane l).depth + 1, chip := (f k l).2 :: (k.sh.lane l).chip }
      else k.sh.lane l := by
    refine ite_congr rfl (fun he => ?_) fun _ => rfl
    rw [pushed, if_pos (hroom l he).2]
  refine ⟨t, sh, ht, hsh, hframe, hregs,
    ⟨fun hr => ⟨(hlanes.issued hr).1, fun l hl => ?_⟩, fun hr => ⟨(hlanes.replayed hr).1, fun l hl => ?_⟩⟩⟩
  · rw [(hlanes.issued hr).2 l hl]; simp only [hown]
  · rw [(hlanes.replayed hr).2 l hl]; simp only [hown]

/-- 08 R141 to R148: a pop of entries on chip. -/
theorem exec_pop {i : Instr} {d : Dst} {f : Ctx → Nat → Word → Word} {s : State} {k : Ctx}
    (hi : Spec.undo i = some (d, f)) (h : Issues i s k)
    (hchip : ∀ l, k.e.getLsbD l = true → ∃ x r, (k.sh.lane l).chip = x :: r ∧ 0 < (k.sh.lane l).depth ∧
      (x.tag = (Spec.pairOfTags i).1 ∨ x.tag = (Spec.pairOfTags i).2)) :
    ∃ t sh, ∃ v : Nat → Word, exec i s = .next t ∧ t = withSheaf i s k sh ∧
      (∀ l x r, k.e.getLsbD l = true → (k.sh.lane l).chip = x :: r →
         v l = if x.tag = (Spec.pairOfTags i).1 then f k l x.payload else Spec.saved i x.payload) ∧
      StackAfter k (fun _ x => { x with depth := x.depth - 1, chip := x.chip.tail }) d.reg v
        (fun l => if k.e.getLsbD l then some (v l) else none) sh := by
  have hne (l : Nat) (hl : k.e.getLsbD l = true) : (k.sh.lane l).chip ≠ [] ∧ (k.sh.lane l).depth ≠ 0 := by
    obtain ⟨x, r, hx, hdepth, -⟩ := hchip l hl
    exact ⟨by rw [hx]; exact List.cons_ne_nil _ _, hdepth.ne'⟩
  have hbad : laneSetOf 64 (fun l => k.e.getLsbD l && !(popTags i).contains ((k.sh.lane l).chip.headD ⟨0, 0⟩).tag) = 0 := by
    refine laneSetOf_eq_zero fun l hl => ?_
    obtain ⟨x, r, hx, -, htag⟩ := hchip l hl
    rw [hx, popTags_contains hi]
    rcases htag with h1 | h2
    · simp [h1]
    · simp [h2]
  have hbody : popBody i s k d.reg = .ok (popDone s i k d.reg) := by rw [popBody_onChip hne, hbad]; rfl
  have hst : (popDone s i k d.reg).st = s.setSheaf k.sid
      (stackSheaf k (fun _ x => { x with depth := x.depth - 1, chip := x.chip.tail }) d.reg
        fun l => popGives i k l ((k.sh.lane l).chip.headD ⟨0, 0⟩)) := by
    simp only [popDone, groupDone, modSheaf_modSheaf]
    exact modSheaf_some _ _ _ _ (issues_sheaf h)
  have hval (l : Nat) : (if k.e.getLsbD l then (popDone s i k d.reg).val.lookup l else none) =
      if k.e.getLsbD l then some (popGives i k l ((k.sh.lane l).chip.headD ⟨0, 0⟩)) else none :=
    ite_congr rfl (fun he => (lookup_groupDone _ k d.reg (fun l => [popGives i k l ((k.sh.lane l).chip.headD ⟨0, 0⟩)]) l).trans
      (if_pos he)) fun _ => rfl
  obtain ⟨t, sh, ht, hsh, hafter⟩ := exec_stack _ _ (exec_of_undo hi s) h (undo_shape hi).1 (isLaneDst_reg d) hbody (issues_sheaf h) hst
    ⟨rfl, rfl, rfl, rfl, rfl, rfl⟩ hval
  refine ⟨t, sh, _, ht, hsh, fun l x r hl hx => ?_, hafter⟩
  obtain ⟨y, r', hy, -, htag⟩ := hchip l hl
  rw [hx] at hy
  obtain ⟨rfl, -⟩ := List.cons.inj hy
  rw [hx]
  exact popValue_of_undo hi hl htag

/-- 08 R148: CHDROP discards entries on chip or not. -/
theorem exec_chdrop {g : Pred} {a : Reg} {s : State} {k : Ctx} (h : Issues (.chdrop g a) s k)
    (hn : ∀ l, k.e.getLsbD l = true → (Spec.A k a l).toNat ≤ (k.sh.lane l).depth) :
    LanesOnly (.chdrop g a) s (issueState (.chdrop g a) s (fun k => dropBody s k a)) k
      (fun l x => if k.e.getLsbD l then
        { x with depth := x.depth - (Spec.A k a l).toNat, chip := x.chip.drop (Spec.A k a l).toNat } else x)
      (fun _ x => shifted k none x) := by
  have hbad : laneSetOf 64 (fun l => k.e.getLsbD l && decide ((k.sh.lane l).depth < (k.opA a l 0).toNat)) = 0 :=
    laneSetOf_eq_zero fun l hl => decide_eq_false (Nat.not_lt.mpr (hn l hl))
  refine issue_lanes _ s k _ _ k.e _ _ h (by rw [dropBody, hbad]; rfl) rfl rfl rfl fun l _ x _ => ?_
  exact (issued_goesOn _ k _ l x).trans (if_neg nofun)

end Sys2Proof.Laws
end
section
/-! ## A sheaf with nothing in flight while addresses are translated (16 R278 to R285) -/

namespace Sys2Proof.Laws
open Sys2Proof Sys2Proof.Machine Sys2Proof.Safety

/-! ### The two marks of a written page (16 R285) -/

/-- The mark that taking a word back makes, with a budget of further marks. -/
def backMark (dm : State → Nat → Nat → Nat → Nat → State) (s : State) (y : L1Word) (wa : Nat) : State :=
  dm s y.ctx y.pte (4 * wa) y.hd
/-- The D bit of the leaf entry. -/
def leafMark (dm : State → Nat → Nat → Nat → Nat → State) (s : State) (pte hd : Nat) : State :=
  if pte = 0 then s else s.orByteM (backMark dm) pte 0x10 hd
/-- Where the dirty bitmap of a context starts; 0 is none. -/
def bitmapBase (s : State) (ctx : Nat) : Nat := fieldNat ((s.trans.ctxCache.find? ctx).getD (s.ctxBytes ctx)) 8 8 / 4096 * 4096
/-- The bit of the dirty bitmap of the context. -/
def bitmapMark (dm : State → Nat → Nat → Nat → Nat → State) (s : State) (ctx off hd : Nat) : State :=
  if bitmapBase s ctx = 0 then s
  else s.orByteM (backMark dm) (bitmapBase s ctx + off / 65536 / 8) (BitVec.ofNat 8 (2 ^ (off / 65536 % 8))) hd

theorem dirtyMarkN_loc (n : Nat) (s : State) (ctx pte hd : Nat) {pa off : Nat} (h : s.place pa = .loc off) :
    s.dirtyMarkN (n + 1) ctx pte pa hd = bitmapMark (State.dirtyMarkN n) (leafMark (State.dirtyMarkN n) s pte hd) ctx off hd := by
  rw [State.dirtyMarkN, h]
  rfl

theorem dirtyMarkN_other (n : Nat) (s : State) (ctx pte hd : Nat) {pa : Nat} (h : ∀ off, s.place pa ≠ .loc off) :
    s.dirtyMarkN (n + 1) ctx pte pa hd = s := by
  rw [State.dirtyMarkN]
  split
  · next off ho => exact absurd ho (h off)
  · rfl

/-! ### The sheaf rests -/

/-- The sheaf of an issue stands as the issue found it, at the same time. -/
structure Rests (k : Ctx) (s : State) : Prop where
  here : s.sheaf? k.sid = some k.sh
  clock : s.clock = k.clock

theorem rests_of_issues {i : Instr} {s : State} {k : Ctx} (h : Issues i s k) : Rests k s := by
  obtain ⟨cur, -, hsh, hk⟩ := h.here
  exact ⟨issues_sheaf h, by rw [hk]; rfl⟩

section
variable {k : Ctx}

theorem Rests.of_same {s t : State} (h : Rests k s) (hs : t.sheaves = s.sheaves) (hc : t.clock = s.clock) : Rests k t :=
  ⟨(congrArg (KV.find? · k.sid) hs).trans h.here, hc.trans h.clock⟩

theorem Rests.foldl {α : Type} {f : State → α → State} (hf : ∀ s a, Rests k s → Rests k (f s a)) (l : List α) {s : State}
    (h : Rests k s) : Rests k (l.foldl f s) :=
  List.foldlRecOn l f h fun s hs a _ => hf s a hs

/-- A change of sheaves that is none of this one. -/
theorem Rests.modSheaf {s : State} (h : Rests k s) (sid : Nat) {f : Sheaf → Sheaf} (hf : f k.sh = k.sh) :
    Rests k (s.modSheaf sid f) := by
  refine ⟨?_, ?_⟩
  · by_cases hx : sid = k.sid
    · subst hx
      rw [modSheaf_some _ _ _ _ h.here, hf, sheaf_setSheaf, if_pos rfl]
    · rw [sheaf_modSheaf, if_neg hx, h.here]
  · rw [State.modSheaf]
    split
    · exact h.clock
    · exact h.clock

variable (hfl : k.sh.flights = []) (hfr : k.sh.frozen = false)
include hfl

theorem Rests.raiseWait {s : State} (h : Rests k s) (sid fid lane pa : Nat) : Rests k (s.raiseWait sid fid lane pa) :=
  h.modSheaf sid (by rw [hfl]; rfl)

theorem Rests.reread {s : State} (h : Rests k s) (sid fid pa : Nat) : Rests k (s.reread sid fid pa) := by
  rw [State.reread]
  split
  · refine h.modSheaf sid ?_
    rw [hfl, List.map_nil, ← hfl]
  · exact h

include hfr

theorem releaseWaita_rests (fid lane status : Nat) : k.sh.releaseWaita fid lane status = k.sh := by
  rw [Sheaf.releaseWaita, if_neg (by rw [hfr, hfl]; simp), hfl]
  rw [List.map_nil]
  exact congrArg (fun l => { k.sh with flights := l }) hfl.symm

theorem Rests.releaseWaita {s : State} (h : Rests k s) (sid fid lane status : Nat) : Rests k (s.releaseWaita sid fid lane status) :=
  h.modSheaf sid (releaseWaita_rests hfl hfr fid lane status)

theorem Rests.notify {s : State} (h : Rests k s) (wa : Nat) : Rests k (s.notify wa) := by
  refine Rests.foldl (fun s e hs => ?_) _ (h.of_same rfl rfl)
  split
  · exact hs.reread hfl _ _ _
  · exact (hs.raiseWait hfl _ _ _ _).releaseWaita hfl hfr _ _ _ _

section
variable {mark : State → L1Word → Nat → State} (hmark : ∀ s y wa, Rests k s → Rests k (mark s y wa))
include hmark

theorem Rests.takeBack {s : State} (h : Rests k s) (wa : Nat) : Rests k (s.takeBack mark wa) := by
  rw [State.takeBack]
  split
  · exact h
  · refine Rests.notify hfl hfr ?_ wa
    split
    · exact hmark _ _ _ (h.of_same rfl rfl)
    · exact h.of_same rfl rfl

theorem Rests.orByteM {s : State} (h : Rests k s) (a : Nat) (b : Byte) (d : Nat) : Rests k (s.orByteM mark a b d) := by
  rw [State.orByteM]
  refine Rests.notify hfl hfr ?_ _
  exact Rests.of_same (h.takeBack hfl hfr hmark ((s.place a).canon / 4)) rfl rfl

end

theorem Rests.dirtyMarkN (n : Nat) {s : State} (h : Rests k s) (ctx pte pa hd : Nat) : Rests k (s.dirtyMarkN n ctx pte pa hd) := by
  induction n generalizing s ctx pte pa hd with
  | zero => exact h
  | succ n ih =>
    have hmark (s : State) (y : L1Word) (wa : Nat) (h : Rests k s) : Rests k (backMark (State.dirtyMarkN n) s y wa) := ih h _ _ _ _
    have hpte : Rests k (leafMark (State.dirtyMarkN n) s pte hd) := by
      rw [leafMark]
      split
      · exact h
      · exact h.orByteM hfl hfr hmark _ _ _
    cases hp : s.place pa with
    | loc off =>
      rw [dirtyMarkN_loc n s ctx pte hd hp, bitmapMark]
      split
      · exact hpte
      · exact hpte.orByteM hfl hfr hmark _ _ _
    | _ => rw [dirtyMarkN_other n s ctx pte hd (by rw [hp]; nofun)]; exact h

theorem Rests.dirtyMark {s : State} (h : Rests k s) (ctx pte pa hd : Nat) : Rests k (s.dirtyMark ctx pte pa hd) :=
  h.dirtyMarkN hfl hfr _ _ _ _ _

theorem Rests.orByte {s : State} (h : Rests k s) (a : Nat) (b : Byte) (d : Nat) : Rests k (s.orByte a b d) :=
  h.orByteM hfl hfr (fun _ _ _ hs => hs.dirtyMark hfl hfr _ _ _ _) _ _ _

theorem Rests.install {s : State} (h : Rests k s) (core ctx : Nat) (va : DWord) (e : TlbEnt) : Rests k (s.install core ctx va e) := by
  rw [State.install]
  refine Rests.orByte hfl hfr ?_ _ _ _
  exact h.of_same rfl rfl

theorem Rests.walked {s : State} (h : Rests k s) (w : Option Walk) : Rests k (s.walked w) := by
  have ht : Rests k { s with tick := s.tick + 1 } := h.of_same rfl rfl
  rw [State.walked.eq_def]
  rcases w with - | (e | l)
  · exact ht
  · dsimp only
    split
    · exact ht
    · exact ht.orByte hfl hfr _ _ _
  · exact ht

omit hfl hfr in
theorem Rests.ctxEntry {s : State} (h : Rests k s) (ctx : Nat) : Rests k (s.ctxEntry ctx).2 := by
  rw [State.ctxEntry]
  split
  · exact h.of_same rfl rfl
  · split
    · exact h
    · dsimp only
      split
      · exact h.of_same rfl rfl
      · exact h.of_same rfl rfl

omit hfl hfr in
theorem Rests.fillTlb {s : State} (h : Rests k s) (core ctx : Nat) (va : DWord) (e : TlbEnt) : Rests k (s.fillTlb core ctx va e) :=
  h.of_same rfl rfl

/-- What a core's own walk answers: a leaf that it finds is installed. -/
def leafTaken (f : Option Walk) (s : State) (core ctx : Nat) (va : DWord) : Option Walk × State :=
  match f with
  | some (.leaf e) => (f, s.install core ctx va e)
  | _ => (f, s)
/-- What a cached entry answers: it is used, or the walk's answer is. -/
def leafReused (f : Option Walk) (s : State) (core ctx : Nat) (va : DWord) (e : TlbEnt) : Option Walk × State :=
  if (match f with | some (.leaf e') => decide (e'.maps = e.maps) | _ => false) then (some (.leaf e), s)
  else if s.freeBit.1 then (some (.leaf e), s.freeBit.2)
  else leafTaken f s.freeBit.2 core ctx va

theorem Rests.leafTaken {s : State} (h : Rests k s) (f : Option Walk) (core ctx : Nat) (va : DWord) :
    Rests k (leafTaken f s core ctx va).2 := by
  rcases f with - | (e | l)
  · exact h
  · exact h.install hfl hfr core ctx va e
  · exact h

theorem Rests.leafReused {s : State} (h : Rests k s) (f : Option Walk) (core ctx : Nat) (va : DWord) (e : TlbEnt) :
    Rests k (leafReused f s core ctx va e).2 := by
  have hb : Rests k s.freeBit.2 := h.of_same rfl rfl
  rw [leafReused.eq_def]
  generalize (match f with | some (.leaf e') => decide (e'.maps = e.maps) | _ => false) = same
  split
  · exact h
  · split
    · exact hb
    · exact hb.leafTaken hfl hfr f core ctx va

theorem Rests.lookup {s : State} (h : Rests k s) (core : Option Nat) (ctx : Nat) (va : DWord) : Rests k (s.lookup core ctx va).2 := by
  have hc := h.ctxEntry ctx
  rw [State.lookup]
  split
  · exact h
  · dsimp only
    generalize s.ctxEntry ctx = c at hc
    have ht : Rests k { c.2 with tick := c.2.tick + 1 } := hc.of_same rfl rfl
    split
    · exact hc.walked hfl hfr _
    · split
      · exact ht.leafReused hfl hfr _ _ ctx va _
      · exact (ht.fillTlb _ ctx va _).leafReused hfl hfr _ _ ctx va _
      · exact ht.leafTaken hfl hfr _ _ ctx va

omit hfl hfr in
theorem Rests.raise {s : State} (h : Rests k s) (fn v : Nat) : Rests k (s.raise fn v) := by
  rw [State.raise]
  split
  · exact h
  · split
    · split
      · exact h
      · exact h.of_same rfl rfl
    · exact h.of_same rfl rfl

omit hfl hfr in
theorem Rests.writeRec {s : State} (h : Rests k s) (r : FaultRec) : Rests k (s.writeRec r) := by
  rw [State.writeRec]
  refine Rests.raise ?_ _ _
  exact h.of_same rfl rfl

omit hfl hfr in
theorem Rests.fault {s : State} (h : Rests k s) (ctx page kind level : Nat) : Rests k (s.fault ctx page kind level).2 := by
  rw [State.fault]
  split
  · split
    · exact h
    · exact h.of_same rfl rfl
  · dsimp only
    split
    · refine Rests.writeRec ?_ _
      exact h.of_same rfl rfl
    · exact h.of_same rfl rfl

theorem Rests.translate {s : State} (h : Rests k s) (core : Option Nat) (ctx : Nat) (va : DWord) (a : AKind) (engine : Bool) :
    Rests k (s.translate core ctx va a engine).2 := by
  have hl := h.lookup hfl hfr core ctx va
  rw [State.translate]
  split
  · next t ht => rw [ht] at hl; exact hl
  · next l t ht => rw [ht] at hl; exact hl.fault _ _ _ _
  · next e t ht =>
    rw [ht] at hl
    split
    · exact hl
    · dsimp only
      split
      · exact hl
      · exact hl

theorem Rests.xlateEach {s : State} (h : Rests k s) (core : Option Nat) (ctx : Nat) (a : AKind) (as : List (Nat × DWord)) :
    Rests k (s.xlateEach core ctx a as).2 := by
  induction as generalizing s with
  | nil => exact h
  | cons x as ih => exact ih (h.translate hfl hfr core ctx x.2 a false)

end

/-! ### What a translation that succeeds gives (02 R393) -/

theorem xlateEach_map (s : State) (core : Option Nat) (ctx : Nat) (a : AKind) (as : List (Nat × DWord)) :
    (s.xlateEach core ctx a as).1.map (fun e => (e.1, e.2.1)) = as := by
  induction as generalizing s with
  | nil => rfl
  | cons x as ih => exact congrArg (x :: ·) (ih _)

/-- The access that a translation gives. -/
def okOf (e : Nat × DWord × Xl) : Option (Nat × DWord × Nat × Nat × Nat × Bool) :=
  match e.2.2 with
  | .ok pa pte hd ho => some (e.1, e.2.1, pa, pte, hd, ho)
  | _ => none
/-- The record that a translation parks on. -/
def parkOf (e : Nat × DWord × Xl) : Option (Nat × DWord × Nat) :=
  match e.2.2 with
  | .park r => some (e.1, e.2.1, r)
  | _ => none

theorem okOf_lane_va {e : Nat × DWord × Xl} (hbad : (e.2.2 == .perm || e.2.2 == .xlat) = false) (hpark : parkOf e = none) :
    ∃ x, okOf e = some x ∧ (x.1, x.2.1) = (e.1, e.2.1) := by
  obtain ⟨l, va, x⟩ := e
  cases x with
  | ok pa pte hd ho => exact ⟨_, rfl, rfl⟩
  | perm => cases hbad
  | xlat => cases hbad
  | park r => cases hpark

theorem filterMap_okOf {l : List (Nat × DWord × Xl)}
    (h : ∀ e ∈ l, ∃ x, okOf e = some x ∧ (x.1, x.2.1) = (e.1, e.2.1)) :
    (l.filterMap okOf).map (fun x => (x.1, x.2.1)) = l.map (fun e => (e.1, e.2.1)) := by
  induction l with
  | nil => rfl
  | cons e l ih =>
    obtain ⟨x, hx, he⟩ := h e List.mem_cons_self
    rw [List.filterMap_cons_some hx, List.map_cons, List.map_cons, he, ih fun y hy => h y (List.mem_cons_of_mem _ hy)]

/-- Every access is translated, in order. -/
theorem xlateLanes_ok {s s1 : State} {core : Option Nat} {ctx : Nat} {a : AKind} {as : List (Nat × DWord)}
    {xs : List (Nat × DWord × Nat × Nat × Nat × Bool)} (h : s.xlateLanes core ctx a as = (.ok xs, s1)) :
    s1 = (s.xlateEach core ctx a as).2 ∧ xs.map (fun x => (x.1, x.2.1)) = as := by
  rw [State.xlateLanes] at h
  dsimp only at h
  have hmap := xlateEach_map s core ctx a as
  generalize s.xlateEach core ctx a as = r at h hmap
  split at h
  · cases h
  · next hbad =>
    split at h
    · next hpark =>
      obtain ⟨hxs, hs⟩ := Prod.mk.inj h
      have hpark := List.filterMap_eq_nil_iff.mp (List.isEmpty_iff.mp hpark)
      have hbad := List.filter_eq_nil_iff.mp hbad
      refine ⟨hs.symm, ((congrArg _ (Xres.ok.inj hxs).symm).trans ?_).trans hmap⟩
      exact filterMap_okOf fun e he => okOf_lane_va (Bool.not_eq_true _ ▸ hbad e he) (hpark e he)
    · cases h

/-- What a translation that succeeds leaves of an issue's sheaf. -/
theorem rests_of_xlate {k : Ctx} {s s1 : State} {core : Option Nat} {ctx : Nat} {a : AKind} {as : List (Nat × DWord)}
    {xs : List (Nat × DWord × Nat × Nat × Nat × Bool)} (hfl : k.sh.flights = []) (hfr : k.sh.frozen = false) (hr : Rests k s)
    (h : s.xlateLanes core ctx a as = (.ok xs, s1)) : Rests k s1 := by
  rw [(xlateLanes_ok h).1]
  exact hr.xlateEach hfl hfr core ctx a as

end Sys2Proof.Laws
end
section
/-! ## Refills (08 R137, R139, R147) -/

namespace Sys2Proof.Laws
open Sys2Proof Sys2Proof.Machine Sys2Proof.Safety

/-! ### The reads of a refill are performed in the L1 -/

/-- The read of a record, before it is performed and after. -/
def readOf (x : Spec.Xa) : Acc := ⟨x.1, x.2.1, x.2.2.1, 8, x.2.2.2.1, x.2.2.2.2.1, x.2.2.2.2.2, [], .queued⟩
def readDone (x : Spec.Xa) (bs : List Byte) : Acc := { readOf x with st := .done bs }

/-- A flight with its accesses as they stand. -/
def readFlight (fl : Flight) (accs : List Machine.Acc) (p : Bool) : Flight := { fl with accs := accs, performed := p }

/-- The sheaf of a refill under way: it differs in its one flight and in the classes that the lanes have read. -/
structure Reading (k : Ctx) (fl : Flight) (accs : List Acc) (sh : Sheaf) : Prop where
  frame : { sh with lanes := k.sh.lanes, flights := k.sh.flights } = k.sh
  flights : ∃ p, sh.flights = [readFlight fl accs p]
  lanes : ∀ l, { sh.lane l with pend := (k.sh.lane l).pend } = k.sh.lane l

/-- The sheaf after one read. -/
def readSheaf (fl : Flight) (n : Nat) (bs : List Byte) (m : LaneSet) (c : Scope) (sh : Sheaf) : Sheaf :=
  ((sh.modFlight fl.id (fun f =>
    { f with accs := f.accs.zipIdx.map (fun e => if e.2 = n then { e.1 with st := .done bs } else e.1) })).modFlight
    fl.id (fun f => { f with performed := true })).raisePend m c

/-- A change of the element in one place. -/
theorem map_zipIdx_replace {α : Type} (f : α → α) (pre : List α) (a : α) (post : List α) :
    (pre ++ a :: post).zipIdx.map (fun e => if e.2 = pre.length then f e.1 else e.1) = pre ++ f a :: post := by
  have hpre : pre.zipIdx.map (fun e => if e.2 = pre.length then f e.1 else e.1) = pre :=
    (List.map_congr_left fun e he => if_neg (List.snd_lt_of_mem_zipIdx he).ne).trans (List.zipIdx_map_fst 0 pre)
  have hpost : (post.zipIdx (pre.length + 1)).map (fun e => if e.2 = pre.length then f e.1 else e.1) = post :=
    (List.map_congr_left fun e he => if_neg (Nat.ne_of_gt (List.le_snd_of_mem_zipIdx he))).trans (List.zipIdx_map_fst _ post)
  rw [List.zipIdx_append, List.map_append, hpre, Nat.zero_add, List.zipIdx_cons, List.map_cons, hpost]
  exact congrArg (fun y => pre ++ y :: post) (if_pos rfl)

theorem flight_of_only {sh : Sheaf} {f : Flight} {id : Nat} (h : sh.flights = [f]) (hid : f.id = id) : sh.flight? id = some f := by
  rw [Sheaf.flight?, h, ← hid]
  exact List.find?_cons_of_pos (beq_self_eq_true _)

theorem flights_raisePend (sh : Sheaf) (m : LaneSet) (c : Scope) : (sh.raisePend m c).flights = sh.flights := by
  rw [Sheaf.raisePend, modLanes_eq]

theorem Reading.read {k : Ctx} {fl : Flight} {pre post : List Acc} {a : Acc} {sh : Sheaf} (h : Reading k fl (pre ++ a :: post) sh)
    (bs : List Byte) (m : LaneSet) (c : Scope) :
    Reading k fl (pre ++ { a with st := .done bs } :: post) (readSheaf fl pre.length bs m c sh) := by
  obtain ⟨hframe, ⟨p, hp⟩, hlanes⟩ := h
  have hrest : { readSheaf fl pre.length bs m c sh with lanes := sh.lanes, flights := sh.flights } = sh :=
    congrArg (fun y : Sheaf => { y with flights := sh.flights }) (modLanes_frame _ m _)
  refine ⟨?_, ⟨true, ?_⟩, fun l => ?_⟩
  · exact (congrArg (fun y : Sheaf => { y with lanes := k.sh.lanes, flights := k.sh.flights }) hrest).trans hframe
  · rw [readSheaf, flights_raisePend]
    simp only [Sheaf.modFlight, hp, readFlight, List.map_cons, List.map_nil, if_true]
    exact congrArg (fun l => [{ fl with accs := l, performed := true }])
      (map_zipIdx_replace (fun a : Machine.Acc => { a with st := .done bs }) pre a post)
  · rw [readSheaf, Sheaf.raisePend, lane_modLanes]
    split
    · exact hlanes l
    · exact hlanes l

theorem modSheaf_setSheaf (s : State) (sid : Nat) (sh : Sheaf) (f : Sheaf → Sheaf) :
    (s.setSheaf sid sh).modSheaf sid f = s.setSheaf sid (f sh) := by
  rw [modSheaf_some _ _ _ sh (by rw [sheaf_setSheaf, if_pos rfl])]
  simp only [State.setSheaf, kv_put_put]

/-- A load that its barn's L1 serves. -/
theorem performLoad_hit {s : State} {sid core n : Nat} {f : Flight} {a : Acc} {bs : List Byte} {c : Scope}
    (hg : (s.barn (barnOf core)).gather = []) (hh : isHost a.pa = false) (ho : a.homeOnly = false) (hacq : acqScope f.instr = none)
    (hhit : (s.barn (barnOf core)).hit a.pa a.n false = some (bs, c)) :
    s.performLoad sid core f n a =
      ((s.setAcc sid f.id n (.done bs)).markPerformed sid f.id).modSheaf sid (fun sh => sh.raisePend (accLanes f a) c) := by
  have hpub : s.publishAt (barnOf core) a.pa a.n = s := by rw [State.publishAt, hg]; rfl
  simp only [State.performLoad, hpub, hh, ho, hacq, Option.isSome_none, Bool.false_eq_true, if_false, hhit]

/-- Reads performed one after another. -/
theorem foldl_reads {α : Type} {F : State → Acc × Nat → State} {ra rd : α → Acc} {base : State} {sid : Nat}
    {P : List Acc → Sheaf → Prop} {zs : List α}
    (hstep : ∀ (pre : List α) (x : α) (post : List α) (sh : Sheaf), x ∈ zs → P (pre.map rd ++ ra x :: post.map ra) sh →
      ∃ sh', F (base.setSheaf sid sh) (ra x, pre.length) = base.setSheaf sid sh' ∧ P (pre.map rd ++ rd x :: post.map ra) sh')
    (post pre : List α) (sh : Sheaf) (hz : ∀ x ∈ post, x ∈ zs) (h : P (pre.map rd ++ post.map ra) sh) :
    ∃ sh', ((post.map ra).zipIdx pre.length).foldl F (base.setSheaf sid sh) = base.setSheaf sid sh' ∧
      P ((pre ++ post).map rd) sh' := by
  induction post generalizing pre sh with
  | nil => exact ⟨sh, rfl, by simpa using h⟩
  | cons x post ih =>
    obtain ⟨sh1, h1, hP⟩ := hstep pre x post sh (hz x List.mem_cons_self) h
    obtain ⟨sh2, h2, hP2⟩ := ih (pre ++ [x]) sh1 (fun y hy => hz y (List.mem_cons_of_mem _ hy)) (by simpa using hP)
    refine ⟨sh2, ?_, by simpa using hP2⟩
    rw [List.map_cons, List.zipIdx_cons, List.foldl_cons, h1, ← h2, List.length_append, List.length_singleton]

section
variable {k : Ctx} {i : Instr} {base : State} {fl : Flight} {z : List (Spec.Xa × Nat × Nat)} {rec : Nat → Nat → List Byte}

/-- A refill's flight performs its reads (R139). -/
theorem performFlight_reads (hpop : isPop fl.instr = true) (hacq : acqScope fl.instr = none) (hst : isStore fl.instr = false)
    (hacc : fl.accs = z.map (fun x => readOf x.1)) (hloc : ∀ x ∈ z, x.1.2.2.1 < 2 ^ 51 ∧ x.1.2.2.2.2.2 = false ∧
      base.dieWaits x.1.2.2.2.2.1 = false) (hg : (base.barn (barnOf k.sh.core)).gather = [])
    (hhit : ∀ x ∈ z, ((base.barn (barnOf k.sh.core)).hit x.1.2.2.1 8 false).map (·.1) = some (rec x.2.1 x.2.2))
    {sh : Sheaf} (hsh : Reading k fl fl.accs sh) :
    ∃ sh', (base.setSheaf k.sid sh).performFlight k.sid fl = base.setSheaf k.sid sh' ∧
      Reading k fl (z.map (fun x => readDone x.1 (rec x.2.1 x.2.2))) sh' := by
  have hpeer : ∀ x ∈ z, isPeer x.1.2.2.1 = false ∧ isHost x.1.2.2.1 = false := fun x hx =>
    ⟨decide_eq_false (by have := (hloc x hx).1; omega), decide_eq_false (by have := (hloc x hx).1; omega)⟩
  have hgone : (base.setSheaf k.sid sh).goneIn fl = [] := by
    refine List.filter_eq_nil_iff.mpr fun a ha => ?_
    rw [hacc] at ha
    obtain ⟨x, hx, rfl⟩ := List.mem_map.mp ha
    simp [State.peerGone, readOf, (hpeer x hx).1]
  rw [State.performFlight, hgone, hst]
  simp only [List.isEmpty_nil, Bool.not_true, Bool.and_false, Bool.false_and, Bool.false_eq_true, if_false]
  rw [hacc]
  refine foldl_reads (zs := z) (P := Reading k fl) (rd := fun x => readDone x.1 (rec x.2.1 x.2.2)) ?_ z [] sh
    (fun _ h => h) (by rw [List.map_nil, List.nil_append, ← hacc]; exact hsh)
  intro pre x post sh hx hP
  obtain ⟨hframe, ⟨p, hp⟩, -⟩ := id hP
  have hcore : sh.core = k.sh.core := by have h := congrArg Sheaf.core hframe; exact h
  have hhere : (base.setSheaf k.sid sh).sheaf? k.sid = some sh := by rw [sheaf_setSheaf, if_pos rfl]
  have hflight : sh.flight? fl.id = some _ := flight_of_only hp rfl
  have hplace : (readFlight fl (pre.map (fun x => readDone x.1 (rec x.2.1 x.2.2)) ++
      readOf x.1 :: post.map fun x => readOf x.1) p).accs[pre.length]? = some (readOf x.1) := by
    rw [readFlight, List.getElem?_append_right (by simp)]; simp
  have hbehind (m : LaneSet) (pa n : Nat) : (base.setSheaf k.sid sh).behind k.sid fl.id m pa n = false := by
    rw [State.behind, hhere]; simp [Sheaf.before, hp, readFlight]
  have hreach : (base.setSheaf k.sid sh).reachable (readOf x.1) = true := by
    have hd : (base.setSheaf k.sid sh).dieWaits (readOf x.1).hd = false := (hloc x hx).2.2
    rw [State.reachable, hd]; simp
  have hstuck (pa n : Nat) : (base.setSheaf k.sid sh).gatherStuck (barnOf sh.core) pa n = false := by
    have hb : (base.setSheaf k.sid sh).barn (barnOf sh.core) = base.barn (barnOf k.sh.core) := by rw [hcore]; rfl
    rw [State.gatherStuck, hb, hg]; rfl
  have hopen : (readOf x.1).st.open = true := rfl
  obtain ⟨⟨bs, c⟩, hbs, hrec⟩ := Option.map_eq_some_iff.mp (hhit x hx)
  have hread := hP.read bs (accLanes fl (readOf x.1)) c
  rw [List.length_map] at hread
  rw [← hrec]
  refine ⟨_, ?_, hread⟩
  simp only [hhere, Option.bind_some, hflight, Option.map_some, hplace, hbehind, hreach, hstuck, hopen, hpop,
    Bool.not_true, Bool.or_self, Bool.or_true, Bool.false_eq_true, if_false, if_true]
  refine (performLoad_hit (f := readFlight fl _ p) (a := readOf x.1) (bs := bs) (c := c) ?_ (hpeer x hx).2 (hloc x hx).2.1 hacq ?_).trans ?_
  · rw [hcore]; exact hg
  · rw [hcore]; exact hbs
  · simp only [State.setAcc, State.markPerformed, modSheaf_setSheaf]
    rfl

end

/-! ### The records that have come (08 R147) -/

/-- The records that a refill's flight has read in a lane, the entries on chip that they give, and the word popped. -/
def recordsOf (f : Flight) (l : Nat) : List (List Byte) :=
  f.accs.filterMap (fun a => match a.st with
    | .done bs => if a.lane = l then some bs else none
    | _ => none)
def chipOf (sh : Sheaf) (f : Flight) (l : Nat) : List ChEntry :=
  if (recordsOf f l).isEmpty then (sh.lane l).chip else (recordsOf f l).map ChEntry.ofBytes
def popOf (sh : Sheaf) (f : Flight) (l : Nat) : Word :=
  popValue f.instr ((f.ops.getD l []).getD 0 0) ((f.ops.getD l []).getD 4 0) ((chipOf sh f l).headD ⟨0, 0⟩)
/-- The sheaf after the pop of a refill, but for its latches. -/
def takenSheaf (d : Reg) (f : Flight) (sh y : Sheaf) : Sheaf :=
  (lanesOf f.e).foldl (fun (y : Sheaf) l => y.writeReg d l 0 (popOf sh f l))
    (y.modLanes f.e (fun l x => { x with depth := x.depth - 1, chip := (chipOf sh f l).tail }))
def latchedSheaf (f : Flight) (sh y : Sheaf) : Sheaf :=
  y.modLanes f.path (fun l x => x.shiftLatch (if f.e.getLsbD l then some (popOf sh f l) else none))
/-- The sheaf that the pop of a refill leaves to the issue. -/
def refilledSheaf (d : Reg) (f : Flight) (sh : Sheaf) : Sheaf := (latchedSheaf f sh (takenSheaf d f sh sh)).dropFlight f.id
/-- The lanes of E whose records are out of order or whose tag is not accepted. -/
def disordered (sh : Sheaf) (f : Flight) : LaneSet :=
  laneSetOf 64 (fun l => f.e.getLsbD l &&
    (!(recordsOf f l).zipIdx.all (fun e => seqOk e.1 ((sh.lane l).below - 1 - e.2)) ||
      !(popTags f.instr).contains ((chipOf sh f l).headD ⟨0, 0⟩).tag))
def refillEnd (s : State) (sid : Nat) (sh : Sheaf) (f : Flight) (d : Reg) : State :=
  (((s.modSheaf sid (fun y => if f.born = s.clock + 1 then latchedSheaf f sh (takenSheaf d f sh y) else takenSheaf d f sh y)).touchRegs
    sid f.instr.dsts).modSheaf sid (fun sh => sh.dropFlight f.id)).checkWatch sid f 0

theorem popRefilled_eq (s : State) (sid : Nat) (sh : Sheaf) (f : Flight) :
    s.popRefilled sid sh f = if disordered sh f != 0 then s.faultAt sid f .chord (disordered sh f) 0 []
      else refillEnd s sid sh f (match f.instr.dsts with | u :: _ => u.base | [] => .z) := rfl

/-- Where no watch descriptor is in use no access matches one. -/
theorem checkWatch_unused {s : State} {sid : Nat} {sh : Sheaf} (h : s.sheaf? sid = some sh) (hw : sh.watch = []) (f : Flight)
    (kind : Nat) : s.checkWatch sid f kind = s := by
  have hits : f.accs.filterMap (fun a => (watchHit sh.watch kind a.va.toNat a.n).map (fun w => (a, w))) = [] :=
    List.filterMap_eq_nil_iff.mpr fun a _ => by rw [hw]; rfl
  rw [State.checkWatch, State.watchAccs, h]
  simp only [hits]

/-- The collector's part of a write touches neither the sheaf nor memory. -/
theorem touchRegs_setSheaf_frame (s : State) (sid : Nat) (ds : List RegUse) (sh : Sheaf) :
    ((s.setSheaf sid sh).touchRegs sid ds).sheaf? sid = some sh ∧ ((s.setSheaf sid sh).touchRegs sid ds).mem = s.mem := by
  rw [touchRegs_frame]
  exact ⟨(sheaf_setSheaf _ _ _ _).trans (if_pos rfl), rfl⟩

/-- The end of a refill whose records are in order and whose tags are accepted. -/
theorem popRefilled_of {s : State} {sid : Nat} {sh : Sheaf} {f : Flight} {d : Reg} (hsh : s.sheaf? sid = some sh)
    (hd : f.instr.dsts = [⟨d, 1⟩]) (hborn : f.born = s.clock + 1)
    (hwatch : (refilledSheaf d f sh).watch = []) (hok : disordered sh f = 0) :
    (s.popRefilled sid sh f).sheaf? sid = some (refilledSheaf d f sh) ∧
      (s.popRefilled sid sh f).mem = s.mem := by
  have hend : s.popRefilled sid sh f = refillEnd s sid sh f d := by rw [popRefilled_eq, hok, hd]; rfl
  have hu := touchRegs_setSheaf_frame s sid f.instr.dsts (latchedSheaf f sh (takenSheaf d f sh sh))
  have hout : refillEnd s sid sh f d =
      ((s.setSheaf sid (latchedSheaf f sh (takenSheaf d f sh sh))).touchRegs sid f.instr.dsts).setSheaf sid (refilledSheaf d f sh) := by
    rw [refillEnd, modSheaf_some _ _ _ _ hsh, if_pos hborn, modSheaf_some _ _ _ _ hu.1]
    exact checkWatch_unused ((sheaf_setSheaf _ _ _ _).trans (if_pos rfl)) hwatch f 0
  rw [hend, hout]
  exact ⟨(sheaf_setSheaf _ _ _ _).trans (if_pos rfl), hu.2⟩

/-- Whether every access of a flight is performed. -/
def allDone (f : Flight) : Bool := f.accs.all (fun a => match a.st with | .done _ => true | _ => false)
/-- The pop, where every read has come. -/
def popWhenDone (s : State) (sid id : Nat) : State :=
  match (s.sheaf? sid).bind (fun sh => (sh.flight? id).map (fun f => (sh, f))) with
  | none => s
  | some (sh, f) => if allDone f then s.popRefilled sid sh f else s

/-- Where some reads of a refill are due and all of them can be performed, the pop follows. -/
theorem advanceRefill_of {s u : State} {sid id : Nat} {sh sh' : Sheaf} {f f' : Flight} (hsh : s.sheaf? sid = some sh)
    (hf : sh.flight? id = some f) (hdue : allDone f = false) (hu : s.performFlight sid f = u) (hsh' : u.sheaf? sid = some sh')
    (hf' : sh'.flight? id = some f') (hdone : allDone f' = true) : s.advanceRefill sid id = u.popRefilled sid sh' f' := by
  have hfirst : (if allDone f then s else s.performFlight sid f) = u := by rw [hdue, ← hu]; rfl
  rw [State.advanceRefill, hsh, Option.bind_some, hf]
  change popWhenDone (if allDone f then s else s.performFlight sid f) sid id = _
  rw [hfirst, popWhenDone, hsh', Option.bind_some, hf']
  exact if_pos hdone

/-! ### The records of a lane -/

theorem zip_of_map_eq {α β γ : Type} {f : α → γ} {g : β → γ} {xs : List α} {ys : List β} (h : xs.map f = ys.map g) :
    ∀ x ∈ xs.zip ys, f x.1 = g x.2 := by
  induction xs generalizing ys with
  | nil => nofun
  | cons a xs ih =>
    cases ys with
    | nil => nofun
    | cons b ys =>
      obtain ⟨hab, hrest⟩ := List.cons.inj h
      intro x hx
      rcases List.mem_cons.mp hx with rfl | hx
      · exact hab
      · exact ih hrest x hx

/-- Of the pairs of keys and elements, those of one key. -/
theorem filterMap_key {β γ : Type} (q : Nat → List β) (g : Nat → β → γ) (l : Nat) (ls : List Nat) (hn : ls.Nodup) :
    (ls.flatMap (fun j => (q j).map (fun p => (j, p)))).filterMap (fun p => if p.1 = l then some (g p.1 p.2) else none) =
      if l ∈ ls then (q l).map (g l) else [] := by
  induction ls with
  | nil => rfl
  | cons j ls ih =>
    obtain ⟨hj, hn⟩ := List.nodup_cons.mp hn
    have hone : ((q j).map (fun p => (j, p))).filterMap (fun p => if p.1 = l then some (g p.1 p.2) else none) =
        if j = l then (q j).map (g j) else [] := by
      rw [List.filterMap_map]
      split
      · next h => exact (List.filterMap_congr fun p _ => if_pos h).trans (congrFun (List.filterMap_eq_map (f := g j)) (q j))
      · next h => exact List.filterMap_eq_nil_iff.mpr fun p _ => if_neg h
    rw [List.flatMap_cons, List.filterMap_append, hone, ih hn]
    by_cases h : j = l
    · subst h; simp [hj]
    · simp [h, Ne.symm h]

section
variable {k : Ctx} {f : Flight} {xs : List Spec.Xa} {ps : List (Nat × Nat)} {rec : Nat → Nat → List Byte}

/-- The records that a lane of E has read are those of its refilled positions, in order. -/
theorem recordsOf_reads (hacc : f.accs = (xs.zip ps).map (fun x => readDone x.1 (rec x.2.1 x.2.2))) {va : Nat × Nat → DWord}
    (hxs : xs.map (fun x => (x.1, x.2.1)) = ps.map (fun p => (p.1, va p)))
    (hps : ps = (lanesOf k.e).flatMap (fun l => (Spec.refilled (k.sh.lane l)).map (fun p => (l, p)))) {l : Nat}
    (hl : k.e.getLsbD l = true) : recordsOf f l = (Spec.refilled (k.sh.lane l)).map (rec l) := by
  have hlen : ps.length ≤ xs.length := by
    have h := congrArg List.length hxs; rw [List.length_map, List.length_map] at h; exact h.ge
  have hlane : ∀ x ∈ xs.zip ps, x.1.1 = x.2.1 := fun x hx => congrArg Prod.fst (zip_of_map_eq hxs x hx)
  have hsnd : recordsOf f l = ps.filterMap (fun p => if p.1 = l then some (rec p.1 p.2) else none) := by
    rw [recordsOf, hacc, List.filterMap_map]
    conv_rhs => rw [← List.map_snd_zip hlen, List.filterMap_map]
    refine List.filterMap_congr fun x hx => ?_
    exact ite_congr (congrArg (· = l) (hlane x hx)) (fun _ => rfl) fun _ => rfl
  rw [hsnd, hps, filterMap_key _ rec l _ (nodup_lanesOf _), if_pos ((mem_lanesOf _ _).mpr hl)]

/-- A lane of E whose entries, if any, are on chip has its entries as the records give them. -/
theorem chipOf_reads {sh : Sheaf} {l : Nat} (hrec : recordsOf f l = (Spec.refilled (k.sh.lane l)).map (rec l))
    (hchip : (sh.lane l).chip = (k.sh.lane l).chip) (hdepth : 0 < (k.sh.lane l).depth) :
    chipOf sh f l = Spec.onChip (rec l) (k.sh.lane l) := by
  rw [chipOf, hrec, Spec.onChip, hchip]
  by_cases hc : (k.sh.lane l).chip = []
  · have hne : ((Spec.refilled (k.sh.lane l)).map (rec l)).isEmpty = false := by
      rw [List.isEmpty_map, Spec.refilled, if_pos hc, List.isEmpty_map]
      simp [hdepth.ne']
    rw [hne, if_pos hc, List.map_map]
    rfl
  · rw [Spec.refilled, if_neg hc, if_neg hc]; rfl

/-- The records of a lane are in order. -/
theorem seqOk_reads {sh : Sheaf} {l : Nat} (hrec : recordsOf f l = (Spec.refilled (k.sh.lane l)).map (rec l))
    (hchip : (sh.lane l).chip = (k.sh.lane l).chip) (hdepth : (sh.lane l).depth = (k.sh.lane l).depth)
    (hseq : ∀ p ∈ Spec.refilled (k.sh.lane l), natOfBytes ((rec l p).drop 5) = p % 2 ^ 24) :
    (recordsOf f l).zipIdx.all (fun e => seqOk e.1 ((sh.lane l).below - 1 - e.2)) = true := by
  rw [hrec, List.all_eq_true]
  rw [Spec.refilled] at hseq ⊢
  split at hseq
  · next hc =>
    rw [if_pos hc, List.map_map]
    have hbelow : (sh.lane l).below = (k.sh.lane l).depth := by rw [Lane.below, hdepth, hchip, hc]; rfl
    intro e he
    obtain ⟨-, hlt, hx⟩ := List.mem_zipIdx he
    rw [List.length_map, List.length_range] at hlt
    have hp := hseq _ (List.mem_map.mpr ⟨e.2, List.mem_range.mpr (by omega), rfl⟩)
    simp only [Nat.sub_zero, List.getElem_map, List.getElem_range, Function.comp_apply] at hx
    rw [seqOk, hx, hp, hbelow]
    simp
  · next hc => rw [if_neg hc]; nofun

end

end Sys2Proof.Laws
end
section
namespace Sys2Proof.Laws
open Sys2Proof Sys2Proof.Machine Sys2Proof.Safety

/-! ### The pop of a refill -/

/-- A lane after the pop of a refill. -/
def poppedLane (chip : List ChEntry) (x : Lane) : Lane := { x with depth := x.depth - 1, chip := chip.tail }

theorem takenSheaf_eq (k : Ctx) (d : Reg) {f : Flight} (he : f.e = k.e) (sh : Sheaf) :
    takenSheaf d f sh sh = stackSheaf { k with sh := sh } (fun l => poppedLane (chipOf sh f l)) d (popOf sh f) := by
  rw [takenSheaf, he, stackSheaf, groupSheaf, List.foldl_map]
  rfl

section
variable {k : Ctx} {fl f : Flight} {accs : List Machine.Acc} {sh : Sheaf} (hr : Reading k fl accs sh)
include hr

theorem Reading.regs : sh.regs = k.sh.regs := by
  have h := congrArg Sheaf.regs hr.frame; exact h

theorem Reading.lane (l : Nat) : sh.lane l = { k.sh.lane l with pend := (sh.lane l).pend } := by
  have h := congrArg (fun x : Lane => { x with pend := (sh.lane l).pend }) (hr.lanes l); exact h

variable {d : Reg} (hd : d.isLaneDst = true) (he : f.e = k.e)
include hd he

theorem refilledSheaf_frame (hfl : sh.flights = [f]) (hk : k.sh.flights = []) :
    { refilledSheaf d f sh with lanes := k.sh.lanes, regs := k.sh.regs } = k.sh := by
  have htaken : { takenSheaf d f sh sh with lanes := sh.lanes, regs := sh.regs } = sh := by
    rw [takenSheaf_eq k d he]; exact stackSheaf_frame (k := { k with sh := sh }) _ _ hd
  have hlatched : { latchedSheaf f sh (takenSheaf d f sh sh) with lanes := (takenSheaf d f sh sh).lanes } = takenSheaf d f sh sh :=
    modLanes_frame _ _ _
  have hflights : (latchedSheaf f sh (takenSheaf d f sh sh)).flights = [f] :=
    (congrArg Sheaf.flights hlatched).trans ((congrArg Sheaf.flights htaken).trans hfl)
  have hdrop : (refilledSheaf d f sh).flights = k.sh.flights := by
    rw [refilledSheaf, Sheaf.dropFlight, hflights, hk]; simp
  have hall (y : Sheaf) (h : y.flights = k.sh.flights) : { y with lanes := k.sh.lanes, regs := k.sh.regs } =
      { y with lanes := k.sh.lanes, regs := k.sh.regs, flights := k.sh.flights } := by rw [← h]
  calc { refilledSheaf d f sh with lanes := k.sh.lanes, regs := k.sh.regs }
      = { latchedSheaf f sh (takenSheaf d f sh sh) with lanes := k.sh.lanes, regs := k.sh.regs, flights := k.sh.flights } := hall _ hdrop
    _ = { takenSheaf d f sh sh with lanes := k.sh.lanes, regs := k.sh.regs, flights := k.sh.flights } :=
      congrArg (fun y : Sheaf => { y with lanes := k.sh.lanes, regs := k.sh.regs, flights := k.sh.flights }) hlatched
    _ = { sh with lanes := k.sh.lanes, regs := k.sh.regs, flights := k.sh.flights } :=
      congrArg (fun y : Sheaf => { y with lanes := k.sh.lanes, regs := k.sh.regs, flights := k.sh.flights }) htaken
    _ = k.sh := congrArg (fun y : Sheaf => { y with regs := k.sh.regs }) hr.frame

theorem refilledSheaf_regs : RegsAfter k (refilledSheaf d f sh) d (fun l => [popOf sh f l]) := by
  have hvreg (r l : Nat) : sh.vreg r l = k.sh.vreg r l := congrArg (fun x : KV Word => x.getD (64 * r + l) 0) hr.regs
  intro r l hl
  have h := stackSheaf_regs (k := { k with sh := sh }) (fun l => poppedLane (chipOf sh f l)) (popOf sh f) hd r l hl
  have hv : (refilledSheaf d f sh).vreg r l = (takenSheaf d f sh sh).vreg r l := vreg_modLanes _ _ _ _ _
  rw [hv, takenSheaf_eq k d he, h]
  simp only [hvreg]

omit hr in
theorem lane_refilledSheaf (hp : f.path = k.path) (l : Nat) : (refilledSheaf d f sh).lane l =
    if k.path.getLsbD l then (if k.e.getLsbD l then poppedLane (chipOf sh f l) (sh.lane l) else sh.lane l).shiftLatch
      (if k.e.getLsbD l then some (popOf sh f l) else none)
    else if k.e.getLsbD l then poppedLane (chipOf sh f l) (sh.lane l) else sh.lane l := by
  have h := lane_stackSheaf (k := { k with sh := sh }) (fun l => poppedLane (chipOf sh f l)) (popOf sh f) hd l
  have hlane : (refilledSheaf d f sh).lane l = (latchedSheaf f sh (takenSheaf d f sh sh)).lane l := rfl
  rw [hlane, latchedSheaf, lane_modLanes, takenSheaf_eq k d he, h, hp, he]

end

/-- A lane of the path at the issue of a refilled pop: the pop itself has shifted the latches. -/
theorem issued_refilled (i : Instr) (k : Ctx) (u : State) (l : Nat) (x : Lane) :
    x.issued i k { st := u, refills := true } l = { x with pc := after k, age := 0 } := by
  simp [Lane.issued, after, Lane.setPc]

/-- The model's refilled positions are those of R139. -/
theorem refillOf_eq (x : Lane) : refillOf x = Spec.refilled x := by
  rw [refillOf, Spec.refilled]
  by_cases hc : x.chip = []
  · rw [if_pos hc, if_pos (List.isEmpty_iff.mpr hc), Lane.below, hc]; rfl
  · rw [if_neg hc, if_neg (by simpa using hc)]

/-- The flight of a refill. -/
def refillFlight (i : Instr) (k : Ctx) (id : Nat) (xs : List Spec.Xa) : Flight := k.flight i id .waiting false (xs.map readOf)

/-- The state in which the refill's flight has been added. -/
def refillStart (i : Instr) (k : Ctx) (s1 : State) (xs : List Spec.Xa) : State :=
  ({ s1 with nextId := s1.nextId + 1 } : State).setSheaf k.sid { k.sh with flights := [refillFlight i k s1.nextId xs] }

/-- An undo partner is a pop: no load of the program, no store. -/
theorem undo_kind {i : Instr} {d : Dst} {f : Ctx → Nat → Word → Word} (h : Spec.undo i = some (d, f)) :
    isPop i = true ∧ acqScope i = none ∧ isStore i = false := by
  cases i <;> cases h
  case unmulX64 ty => by_cases ht : ty = .s32 <;> simp [isPop, popTags, ht, acqScope, isStore]
  case unshr ty => by_cases ht : ty = .s32 <;> simp [isPop, popTags, ht, acqScope, isStore]
  all_goals exact ⟨rfl, rfl, rfl⟩

section
variable {i : Instr} {s s1 : State} {k : Ctx} {xs : List Spec.Xa} {ps : List (Nat × Nat)}
  (hdepth : ∀ l, k.e.getLsbD l = true → 0 < (k.sh.lane l).depth)
  (hps : ps = (lanesOf k.e).flatMap (fun l => (Spec.refilled (k.sh.lane l)).map (fun p => (l, p)))) (hne : ps ≠ [])
  (hx : s.xlateLanes (some k.sh.core) k.ctx .read (ps.map (fun x => (x.1, s.chAddr k.sh x.1 x.2))) = (.ok xs, s1))
include hdepth hps hne hx

/-- A pop in lanes of which some have no entry on chip is one attempt at its refill. -/
theorem popBody_refill (d : Reg) (hs : s1.sheaf? k.sid = some k.sh) (hk : k.sh.flights = []) :
    popBody i s k d = .ok
      { st := (refillStart i k s1 xs).advanceRefill k.sid s1.nextId, refills := true } := by
  have hempty : laneSetOf 64 (fun l => k.e.getLsbD l && decide ((k.sh.lane l).depth = 0)) = 0 :=
    laneSetOf_eq_zero fun l hl => decide_eq_false (hdepth l hl).ne'
  have hrs : (lanesOf k.e).flatMap (fun l => (refillOf (k.sh.lane l)).map (fun p => (l, s.chAddr k.sh l p))) =
      ps.map (fun x => (x.1, s.chAddr k.sh x.1 x.2)) := by
    rw [hps, List.map_flatMap]
    simp only [refillOf_eq, List.map_map]
    rfl
  have hrne : (ps.map (fun x => (x.1, s.chAddr k.sh x.1 x.2))).isEmpty = false := by
    rw [List.isEmpty_map]; simpa using hne
  have hflight : s1.addFlight k i .waiting false (xs.map readOf) = (s1.nextId, refillStart i k s1 xs) := by
    have h := modSheaf_some { s1 with nextId := s1.nextId + 1 } k.sid
      (fun sh => { sh with flights := sh.flights ++ [refillFlight i k s1.nextId xs] }) k.sh hs
    rw [hk] at h
    exact congrArg (Prod.mk _) h
  rw [popBody, hempty, hrs]
  refine (if_neg (by decide)).trans ((if_neg (ne_true_of_eq_false hrne)).trans ?_)
  have hacc : xs.map (fun ((lane, va, pa, pte, hd, ho) : Spec.Xa) =>
      (⟨lane, va, pa, 8, pte, hd, ho, [], .queued⟩ : Machine.Acc)) = xs.map readOf := rfl
  rw [hx]
  simp only [hacc, hflight]

/-- The flight of a refill whose reads have all been performed. -/
def refillRead (i : Instr) (k : Ctx) (id : Nat) (xs : List Spec.Xa) (ps : List (Nat × Nat)) (rec : Nat → Nat → List Byte)
    (p : Bool) : Flight :=
  readFlight (refillFlight i k id xs) ((xs.zip ps).map (fun x => readDone x.1 (rec x.2.1 x.2.2))) p

variable {d : Dst} {fn : Ctx → Nat → Word → Word} {rec : Nat → Nat → List Byte} (hi : Spec.undo i = some (d, fn))

include hi in
omit hdepth hps in
/-- The refill's reads are all served, and the pop follows at once. -/
theorem advanceRefill_reads (hloc : Spec.Local s1 xs) (hidle : Spec.Idle s1 k false)
    (hhit : ∀ x ∈ xs.zip ps, ((s1.barn (barnOf k.sh.core)).hit x.1.2.2.1 8 false).map (·.1) = some (rec x.2.1 x.2.2)) :
    ∃ sh p, Reading k (refillFlight i k s1.nextId xs) ((xs.zip ps).map (fun x => readDone x.1 (rec x.2.1 x.2.2))) sh ∧
      sh.flights = [refillRead i k s1.nextId xs ps rec p] ∧
      (refillStart i k s1 xs).advanceRefill k.sid s1.nextId =
        (({ s1 with nextId := s1.nextId + 1 } : State).setSheaf k.sid sh).popRefilled k.sid sh (refillRead i k s1.nextId xs ps rec p) := by
  obtain ⟨hpop, hacq, hst⟩ := undo_kind hi
  have hlen : xs.length = ps.length := by simpa using congrArg List.length (xlateLanes_ok hx).2
  have hacc : (refillFlight i k s1.nextId xs).accs = (xs.zip ps).map (fun x => readOf x.1) := by
    conv_lhs => rw [← List.map_fst_zip hlen.le]
    exact List.map_map
  have hz (x : Spec.Xa × Nat × Nat) (hx : x ∈ xs.zip ps) := hloc x.1 (List.of_mem_zip hx).1
  obtain ⟨sh, hperf, hsh⟩ := performFlight_reads (base := { s1 with nextId := s1.nextId + 1 }) (rec := rec)
    (fl := refillFlight i k s1.nextId xs) (sh := { k.sh with flights := [refillFlight i k s1.nextId xs] }) hpop hacq hst hacc hz
    hidle.gather hhit ⟨rfl, ⟨false, rfl⟩, fun _ => rfl⟩
  obtain ⟨p, hp⟩ := hsh.flights
  have hhere (y : Sheaf) : (({ s1 with nextId := s1.nextId + 1 } : State).setSheaf k.sid y).sheaf? k.sid = some y :=
    (sheaf_setSheaf _ _ _ _).trans (if_pos rfl)
  have hdue : allDone (refillFlight i k s1.nextId xs) = false := by
    cases xs with
    | nil => exact absurd (List.length_eq_zero_iff.mp hlen.symm) hne
    | cons x xs => rfl
  have hdone : allDone (refillRead i k s1.nextId xs ps rec p) = true :=
    List.all_eq_true.mpr fun a ha => by
      obtain ⟨x, -, rfl⟩ := List.mem_map.mp ha
      rfl
  exact ⟨sh, p, hsh, hp, advanceRefill_of (hhere _) (flight_of_only rfl rfl) hdue hperf (hhere sh) (flight_of_only hp rfl) hdone⟩

section
variable {sh : Sheaf} {accs : List Machine.Acc} (hsh : Reading k (refillFlight i k s1.nextId xs) accs sh) (p : Bool)
include hsh

omit hdepth hps hne hx in
theorem Reading.stack (l : Nat) : (sh.lane l).chip = (k.sh.lane l).chip ∧ (sh.lane l).depth = (k.sh.lane l).depth := by
  rw [hsh.lane l]; exact ⟨rfl, rfl⟩

omit hne in
theorem chipOf_refillRead {l : Nat} (hl : k.e.getLsbD l = true) :
    chipOf sh (refillRead i k s1.nextId xs ps rec p) l = Spec.onChip (rec l) (k.sh.lane l) :=
  chipOf_reads (recordsOf_reads rfl (xlateLanes_ok hx).2 hps hl) (hsh.stack l).1 (hdepth l hl)

include hi in
omit hne in
/-- Records that are in order, with tags that the pop accepts. -/
theorem disordered_refillRead (hrec : ∀ x ∈ ps, (rec x.1 x.2).length = 8 ∧ natOfBytes ((rec x.1 x.2).drop 5) = x.2 % 2 ^ 24)
    (hchip : ∀ l, k.e.getLsbD l = true → ∃ x r, Spec.onChip (rec l) (k.sh.lane l) = x :: r ∧
      (x.tag = (Spec.pairOfTags i).1 ∨ x.tag = (Spec.pairOfTags i).2)) :
    disordered sh (refillRead i k s1.nextId xs ps rec p) = 0 := by
  refine laneSetOf_eq_zero fun l hl => ?_
  have hrecs : recordsOf (refillRead i k s1.nextId xs ps rec p) l = _ := recordsOf_reads rfl (xlateLanes_ok hx).2 hps hl
  have hseq := seqOk_reads hrecs (hsh.stack l).1 (hsh.stack l).2 fun q hq => (hrec (l, q) (by
    rw [hps]; exact List.mem_flatMap.mpr ⟨l, (mem_lanesOf _ _).mpr hl, List.mem_map.mpr ⟨q, hq, rfl⟩⟩)).2
  obtain ⟨x, r, hx1, htag⟩ := hchip l hl
  have htags : (popTags (refillRead i k s1.nextId xs ps rec p).instr).contains x.tag = true := by
    refine (popTags_contains hi x.tag).trans ?_
    rcases htag with h | h <;> simp [h]
  rw [hseq, chipOf_refillRead hdepth hps hx hsh p hl, hx1]
  exact congrArg (fun b => !true || !b) htags

end

end

theorem frame_of_replay {sh u : Sheaf} (h : { sh with lanes := u.lanes, replay := u.replay } = u) (hr : sh.replay = u.replay) :
    { sh with lanes := u.lanes } = u := by
  rw [← hr] at h; exact h

/-- 08 R137, R139, R147: a pop that reads its records in the L1 first. -/
theorem exec_refill {i : Instr} {d : Dst} {f : Ctx → Nat → Word → Word} {s s1 : State} {k : Ctx} {xs : List Spec.Xa}
    {ps : List (Nat × Nat)} {rec : Nat → Nat → List Byte} (hi : Spec.undo i = some (d, f)) (h : Issues i s k) (hrep : k.replay = none)
    (hdepth : ∀ l, k.e.getLsbD l = true → 0 < (k.sh.lane l).depth)
    (hps : ps = (lanesOf k.e).flatMap (fun l => (Spec.refilled (k.sh.lane l)).map (fun p => (l, p)))) (hne : ps ≠ [])
    (hx : s.xlateLanes (some k.sh.core) k.ctx .read (ps.map (fun x => (x.1, s.chAddr k.sh x.1 x.2))) = (.ok xs, s1))
    (hloc : Spec.Local s1 xs) (hidle : Spec.Idle s1 k false)
    (hhit : ∀ x ∈ xs.zip ps, ((s1.barn (barnOf k.sh.core)).hit x.1.2.2.1 8 false).map (·.1) = some (rec x.2.1 x.2.2))
    (hrec : ∀ x ∈ ps, (rec x.1 x.2).length = 8 ∧ natOfBytes ((rec x.1 x.2).drop 5) = x.2 % 2 ^ 24)
    (hchip : ∀ l, k.e.getLsbD l = true → ∃ x r, Spec.onChip (rec l) (k.sh.lane l) = x :: r ∧
      (x.tag = (Spec.pairOfTags i).1 ∨ x.tag = (Spec.pairOfTags i).2)) :
    ∃ t sh, ∃ v : Nat → Word, exec i s = .next t ∧ t.sheaf? k.sid = some sh ∧ t.mem = s1.mem ∧
      { sh with lanes := k.sh.lanes, regs := k.sh.regs } = k.sh ∧ RegsAfter k sh d.reg (fun l => [v l]) ∧
      (∀ l x r, k.e.getLsbD l = true → Spec.onChip (rec l) (k.sh.lane l) = x :: r →
        v l = if x.tag = (Spec.pairOfTags i).1 then f k l x.payload else Spec.saved i x.payload) ∧
      ∀ l < 64, { sh.lane l with pend := (k.sh.lane l).pend } =
        (if k.path.getLsbD l then shifted k (if k.e.getLsbD l then some (v l) else none)
          (if k.e.getLsbD l then poppedLane (Spec.onChip (rec l) (k.sh.lane l)) (k.sh.lane l) else k.sh.lane l)
        else if k.e.getLsbD l then poppedLane (Spec.onChip (rec l) (k.sh.lane l)) (k.sh.lane l) else k.sh.lane l) := by
  have hk := hidle.flights
  have hrest := rests_of_xlate hk h.runs (rests_of_issues h) hx
  obtain ⟨sh, p, hsh, hp, hadv⟩ := advanceRefill_reads hne hx hi hloc hidle hhit
  have hd := isLaneDst_reg d
  have hframe := refilledSheaf_frame hsh hd (f := refillRead i k s1.nextId xs ps rec p) rfl hp hk
  have hregs := refilledSheaf_regs hsh hd (f := refillRead i k s1.nextId xs ps rec p) rfl
  have hlane := lane_refilledSheaf (k := k) (sh := sh) hd (f := refillRead i k s1.nextId xs ps rec p) rfl rfl
  have hborn : (refillRead i k s1.nextId xs ps rec p).born = s1.clock + 1 := by
    refine (if_pos ?_).trans (congrArg (· + 1) hrest.clock.symm)
    rw [hrep]; rfl
  obtain ⟨hu, hmem⟩ := popRefilled_of (s := ({ s1 with nextId := s1.nextId + 1 } : State).setSheaf k.sid sh)
    ((sheaf_setSheaf _ _ _ _).trans (if_pos rfl)) (f := refillRead i k s1.nextId xs ps rec p) (d := d.reg) (undo_shape hi).2 hborn
    ((congrArg Sheaf.watch hframe).trans hidle.watch) (disordered_refillRead hdepth hps hx hi hsh p hrec hchip)
  rw [← hadv] at hu hmem
  obtain ⟨sh2, ht, hrest2, hnone, -⟩ := (retire_retired s i k
    { st := (refillStart i k s1 xs).advanceRefill k.sid s1.nextId, refills := true }).here _ hu
  have hexec : exec i s = .next (s.retire i k { st := (refillStart i k s1 xs).advanceRefill k.sid s1.nextId, refills := true }) := by
    rw [exec_of_undo hi s, issue, issueState_of i s k _ h _ (popBody_refill hdepth hps hne hx d.reg hrest.here hk) rfl rfl]
  refine ⟨_, sh2, popOf sh (refillRead i k s1.nextId xs ps rec p), hexec, ?_, ?_, ?_, ?_, ?_, ?_⟩
  · rw [ht]; exact (kv_find_put ..).trans (if_pos rfl)
  · rw [ht]; exact hmem
  · exact (congrArg (fun y : Sheaf => { y with lanes := k.sh.lanes, regs := k.sh.regs })
      (frame_of_replay hrest2 (hnone hrep).1)).trans hframe
  · have h2 := congrArg Sheaf.regs hrest2
    intro r l hl
    exact (congrArg (fun x : KV Word => x.getD (64 * r + l) 0) h2).trans (hregs r l hl)
  · intro l x r hl hon
    obtain ⟨y, r', hy, htag⟩ := hchip l hl
    rw [hon] at hy
    obtain ⟨rfl, -⟩ := List.cons.inj hy
    rw [popOf, chipOf_refillRead hdepth hps hx hsh p hl, hon]
    exact popValue_of_undo hi hl htag
  · intro l hl
    rw [(hnone hrep).2 l hl, hlane l, issued_refilled]
    by_cases he : k.e.getLsbD l = true
    · rw [if_pos he, if_pos he, if_pos he, chipOf_refillRead hdepth hps hx hsh p he, hsh.lane l]
      split <;> rfl
    · rw [if_neg he, if_neg he, if_neg he, hsh.lane l]
      split <;> rfl

end Sys2Proof.Laws
end
section
/-! ## Spills (08 R138, R139) -/

namespace Sys2Proof.Laws
open Sys2Proof Sys2Proof.Machine Sys2Proof.Safety

/-! ### Words and their bytes -/

theorem wordBytes (w : Word) : wordByte w 3 ++ wordByte w 2 ++ wordByte w 1 ++ wordByte w 0 = w := by
  simp only [wordByte, Nat.reduceMul]
  rw [BitVec.extractLsb'_append_extractLsb'_eq_extractLsb' (start₁ := 16) (start₂ := 24) (len₁ := 8) rfl,
    BitVec.extractLsb'_append_extractLsb'_eq_extractLsb' (start₁ := 8) (start₂ := 16) (len₁ := 8) rfl,
    BitVec.extractLsb'_append_extractLsb'_eq_extractLsb' (start₁ := 0) (start₂ := 8) (len₁ := 8) rfl]
  exact BitVec.extractLsb'_eq_self

/-- The word of four bytes. -/
def wordOf4 (f : Nat → Byte) : Word :=
  0 ||| ((f 0).zeroExtend 32) <<< 0 ||| ((f 1).zeroExtend 32) <<< 8 ||| ((f 2).zeroExtend 32) <<< 16 ||| ((f 3).zeroExtend 32) <<< 24

/-- Bit i of a byte put in place n is in no byte but that one. -/
theorem getLsbD_placed (x : Byte) (n j i : Nat) (hj : j < 4) (hi : i < 8) :
    ((x.zeroExtend 32) <<< (8 * n)).getLsbD (8 * j + i) = (decide (n = j) && x.getLsbD i) := by
  have hx : x.zeroExtend 32 = x.setWidth 32 := rfl
  rw [BitVec.getLsbD_shiftLeft, hx, BitVec.getLsbD_setWidth, decide_eq_true (by omega : 8 * j + i < 32),
    decide_eq_true (by omega : 8 * j + i - 8 * n < 32)]
  rcases lt_trichotomy n j with h | rfl | h
  · rw [BitVec.getLsbD_of_ge _ _ (by omega), decide_eq_false h.ne]; simp
  · rw [Nat.add_sub_cancel_left]; simp
  · rw [decide_eq_true (by omega : 8 * j + i < 8 * n), decide_eq_false h.ne']; rfl

theorem wordByte_wordOf4 (f : Nat → Byte) (j : Nat) (hj : j < 4) : wordByte (wordOf4 f) j = f j := by
  refine BitVec.eq_of_getLsbD_eq fun i hi => ?_
  have h (n : Nat) := getLsbD_placed (f n) n j i hj hi
  rw [wordByte, BitVec.getLsbD_extractLsb', decide_eq_true hi, wordOf4]
  simp only [BitVec.getLsbD_or, h 0, h 1, h 2, h 3]
  interval_cases j
  all_goals simp

/-- The bytes that a store of eight has for one of its two words. -/
theorem wordPart_full {pa : Nat} {bs : List Byte} {wa : Nat} (hlo : pa ≤ 4 * wa) (hhi : 4 * wa + 4 ≤ pa + bs.length) :
    wordPart pa bs wa = (15, wordOf4 (fun j => bs.getD (4 * wa + j - pa) 0)) := by
  have h (j : Nat) (hj : j < 4) : (pa ≤ 4 * wa + j ∧ 4 * wa + j < pa + bs.length) = True :=
    eq_true ⟨by omega, by omega⟩
  have hr : List.range 4 = [0, 1, 2, 3] := rfl
  rw [wordPart, hr]
  simp only [List.foldl_cons, List.foldl_nil, h 0 (by omega), h 1 (by omega), h 2 (by omega), h 3 (by omega), if_true]
  rfl

theorem wordsOf_pair {pa : Nat} (h : pa % 8 = 0) : wordsOf pa 8 = [pa / 4, pa / 4 + 1] := by
  have hn : (pa + 8 - 1) / 4 - pa / 4 + 1 = 2 := by omega
  rw [wordsOf, if_neg (by decide), hn]
  have hr : List.range 2 = [0, 1] := rfl
  rw [hr, List.map_cons, List.map_cons, List.map_nil, Nat.zero_add, Nat.add_comm]

theorem mergeWord_full (old new : Word) : mergeWord old new 15 = new := wordBytes new

/-! ### Marks where nobody waits and nobody owns the marked words (16 R285) -/

/-- Nothing that an L1 or a sheaf depends on has changed. -/
structure Marked (s t : State) : Prop where
  waits : t.waits = s.waits
  sheaves : t.sheaves = s.sheaves
  barns : t.barns = s.barns
  rel : t.rel = s.rel
  fabric : t.fabric = s.fabric
  trans : t.trans = s.trans
  held : ∀ line, (t.home line).held = (s.home line).held
  owners : ∀ line, (t.home line).owners = (s.home line).owners

theorem Marked.refl (s : State) : Marked s s := ⟨rfl, rfl, rfl, rfl, rfl, rfl, fun _ => rfl, fun _ => rfl⟩

theorem Marked.comp {s t u : State} (h : Marked s t) (h' : Marked t u) : Marked s u :=
  ⟨h'.waits.trans h.waits, h'.sheaves.trans h.sheaves, h'.barns.trans h.barns, h'.rel.trans h.rel, h'.fabric.trans h.fabric,
    h'.trans.trans h.trans, fun l => (h'.held l).trans (h.held l), fun l => (h'.owners l).trans (h.owners l)⟩

theorem Marked.ownerOf {s t : State} (h : Marked s t) (wa : Nat) : t.ownerOf wa = s.ownerOf wa := by
  rw [State.ownerOf, State.ownerOf, h.owners]

theorem Marked.place {s t : State} (h : Marked s t) (pa : Nat) : t.place pa = s.place pa := by
  rw [State.place, State.place, h.fabric]

theorem marked_notify {s : State} (h : s.waits = []) (wa : Nat) : Marked s (s.notify wa) := by
  have hn : s.notify wa = { s with queues := (s.notify wa).queues } := by
    rw [State.notify]
    simp only [h, List.filter_nil, List.foldl_nil]
  rw [hn]
  exact ⟨rfl, rfl, rfl, rfl, rfl, rfl, fun _ => rfl, fun _ => rfl⟩

/-- A home's line whose last writer and owner-lost marks change. -/
theorem marked_setHome (s : State) (line : Nat) {h : HomeLine} (hheld : h.held = (s.home line).held)
    (howners : h.owners = (s.home line).owners) : Marked s (s.setHome line h) := by
  refine ⟨rfl, rfl, rfl, rfl, rfl, rfl, fun l => ?_, fun l => ?_⟩
  all_goals rw [home_setHome]
  · split
    · next e => rw [← e]; exact hheld
    · rfl
  · split
    · next e => rw [← e]; exact howners
    · rfl

theorem marked_orByteM {s : State} (h : s.waits = []) (mark : State → L1Word → Nat → State) {a : Nat} (b : Byte) (d : Nat)
    (ho : s.ownerOf ((s.place a).canon / 4) = none) : Marked s (s.orByteM mark a b d) := by
  have hback : s.takeBack mark ((s.place a).canon / 4) = s := by rw [State.takeBack, ho]
  rw [State.orByteM, hback]
  have hword (w : Word) : Marked s (s.setHomeWord ((s.place a).canon / 4) w) :=
    ⟨rfl, rfl, rfl, rfl, rfl, rfl, fun _ => rfl, fun _ => rfl⟩
  have hhome (u : State) (hu : Marked s u) (line : Nat) (w : Option Writer) (lost : Word) :
      Marked s ((u.setHome line { u.home line with last := w, lost := lost }).notify ((s.place a).canon / 4)) := by
    have hset := hu.comp (marked_setHome u line (h := { u.home line with last := w, lost := lost }) rfl rfl)
    exact hset.comp (marked_notify (hset.waits.trans h) _)
  exact hhome _ (hword _) _ _ _

/-- The marks of a written page, where its words have no owner and the context's entry is cached. -/
theorem marked_dirtyMark {s : State} (h : s.waits = []) {ctx pte pa line : Nat} (hd : Nat)
    (he : Spec.MarksElsewhere s ctx pte pa line) : Marked s (s.dirtyMark ctx pte pa hd) := by
  obtain ⟨hpte, e, hcache, hmap⟩ := he
  rw [State.dirtyMark]
  cases hp : s.place pa with
  | loc off =>
    rw [dirtyMarkN_loc _ _ _ _ _ hp]
    have hleaf : Marked s (leafMark (State.dirtyMarkN s.heldWords) s pte hd) := by
      rw [leafMark]
      split
      · exact Marked.refl s
      · next h0 => exact marked_orByteM h _ _ _ (hpte h0).2
    generalize leafMark (State.dirtyMarkN s.heldWords) s pte hd = u at hleaf
    have hbase : bitmapBase u ctx = fieldNat e 8 8 / 4096 * 4096 := by
      rw [bitmapBase, hleaf.trans, hcache, Option.getD_some]
    rw [bitmapMark, hbase]
    split
    · exact hleaf
    · next h0 =>
      refine hleaf.comp (marked_orByteM (hleaf.waits.trans h) _ _ _ ?_)
      rw [hleaf.place, hleaf.ownerOf]
      exact (hmap off hp (by omega)).2
  | _ => rw [dirtyMarkN_other _ _ _ _ _ (by rw [hp]; nofun)]; exact Marked.refl s

theorem Marked.marksElsewhere {s t : State} (h : Marked s t) {ctx pte pa line : Nat} (he : Spec.MarksElsewhere s ctx pte pa line) :
    Spec.MarksElsewhere t ctx pte pa line := by
  simpa only [Spec.MarksElsewhere, h.place, h.ownerOf, h.trans] using he

end Sys2Proof.Laws
end
section
namespace Sys2Proof.Laws
open Sys2Proof Sys2Proof.Machine Sys2Proof.Safety

/-! ### The ways of a set (12 R219) -/

/-- A list of lines, each once. -/
def addLine (l : List Nat) (x : Nat) : List Nat := if l.contains x then l else l ++ [x]

theorem mem_addLine (l : List Nat) (x y : Nat) : y ∈ addLine l x ↔ y ∈ l ∨ y = x := by
  rw [addLine]
  split
  · next h =>
    have hx : x ∈ l := by simpa using h
    exact ⟨Or.inl, fun h => h.elim id fun e => e ▸ hx⟩
  · simp

theorem nodup_addLine {l : List Nat} (h : l.Nodup) (x : Nat) : (addLine l x).Nodup := by
  rw [addLine]
  split
  · exact h
  · next hx =>
    have hx : x ∉ l := by simpa using hx
    exact List.nodup_append.mpr ⟨h, List.nodup_singleton x, fun a ha b hb => by
      rw [List.mem_singleton.mp hb]; exact fun e => hx (e ▸ ha)⟩

theorem mem_foldl_addLine (ws : KV L1Word) (l : List Nat) (y : Nat) :
    y ∈ ws.foldl (fun l w => addLine l (w.1 / 32)) l ↔ y ∈ l ∨ ∃ w ∈ ws, w.1 / 32 = y := by
  induction ws generalizing l with
  | nil => simp
  | cons w ws ih => rw [List.foldl_cons, ih, mem_addLine]; simp [or_assoc, eq_comm]

theorem nodup_foldl_addLine (ws : KV L1Word) {l : List Nat} (h : l.Nodup) :
    (ws.foldl (fun l w => addLine l (w.1 / 32)) l).Nodup := by
  induction ws generalizing l with
  | nil => exact h
  | cons w ws ih => exact ih (nodup_addLine h _)

theorem linesOf_eq {b : Barn} (h : b.gather = []) : b.linesOf = b.words.foldl (fun l w => addLine l (w.1 / 32)) [] := by
  rw [Barn.linesOf, h]; rfl

theorem mem_linesOf {b : Barn} (h : b.gather = []) (y : Nat) : y ∈ b.linesOf ↔ ∃ w ∈ b.words, w.1 / 32 = y := by
  rw [linesOf_eq h, mem_foldl_addLine]; simp

/-- A line has a way where its set's lines and it are among at most eight. -/
theorem setFull_of_ways {b : Barn} (hg : b.gather = []) {ls : List Nat} {line : Nat}
    (hb : b.words.all (fun e => decide (e.1 / 32 ∈ ls)) = true) (hline : line ∈ ls)
    (hways : (ls.filter (fun l => Machine.setOf l == Machine.setOf line)).length ≤ 8) : b.setFull line = false := by
  rw [Barn.setFull]
  cases hh : b.holdsLine line with
  | true => rfl
  | false =>
    have hnot : line ∉ b.linesOf := by simpa [Barn.holdsLine] using hh
    have hnodup : (line :: b.linesOf.filter (fun l => Machine.setOf l == Machine.setOf line)).Nodup :=
      List.nodup_cons.mpr ⟨fun h => hnot (List.mem_filter.mp h).1, (linesOf_eq hg ▸ nodup_foldl_addLine _ List.nodup_nil).filter _⟩
    have hsub : line :: b.linesOf.filter (fun l => Machine.setOf l == Machine.setOf line) ⊆
        ls.filter (fun l => Machine.setOf l == Machine.setOf line) := by
      intro y hy
      rcases List.mem_cons.mp hy with rfl | hy
      · exact List.mem_filter.mpr ⟨hline, beq_self_eq_true _⟩
      · obtain ⟨hy, hset⟩ := List.mem_filter.mp hy
        obtain ⟨w, hw, rfl⟩ := (mem_linesOf hg y).mp hy
        exact List.mem_filter.mpr ⟨of_decide_eq_true (List.all_eq_true.mp hb w hw), hset⟩
    have hlen := (hnodup.subperm hsub).length_le
    rw [List.length_cons] at hlen
    rw [Bool.not_false, Bool.true_and]
    exact decide_eq_false (by omega)

/-! ### A store of eight aligned bytes into an L1 (12 R210, R226) -/

/-- A word that its barn owns and has written whole. -/
structure Whole (y : L1Word) (w : Word) : Prop where
  owned : y.owned = true
  written : y.written = 15
  bytes : y.bytes = w

/-- Nothing has changed but barns, messages and names. -/
structure StoreFrame (s t : State) : Prop where
  waits : t.waits = s.waits
  sheaves : t.sheaves = s.sheaves
  rel : t.rel = s.rel
  fabric : t.fabric = s.fabric
  trans : t.trans = s.trans
  homes : t.homes = s.homes

theorem StoreFrame.comp {s t u : State} (h : StoreFrame s t) (h' : StoreFrame t u) : StoreFrame s u :=
  ⟨h'.waits.trans h.waits, h'.sheaves.trans h.sheaves, h'.rel.trans h.rel, h'.fabric.trans h.fabric, h'.trans.trans h.trans,
    h'.homes.trans h.homes⟩

theorem or_full (v : BitVec 4) : v ||| 15 = 15 := BitVec.or_allOnes

/-- The lanes of a store to an owned word wait for its registration under way. -/
def joinReg (s : State) (b wa sid : Nat) (lanes : LaneSet) : State :=
  match s.pendingReg b wa with
  | some m =>
    match s.msgs.find? m with
    | some e => { s with msgs := s.msgs.put m { e with waiters := addWaiter e.waiters sid lanes } }
    | none => s
  | none => s

theorem joinReg_msgs (s : State) (b wa sid : Nat) (lanes : LaneSet) : ∃ ms, joinReg s b wa sid lanes = { s with msgs := ms } := by
  rw [joinReg]
  split
  · split
    · exact ⟨_, rfl⟩
    · exact ⟨_, rfl⟩
  · exact ⟨_, rfl⟩

/-- One word that is written whole. -/
theorem l1StoreWord_full (s : State) {core : Nat} (he : (s.barn (barnOf core)).evict = []) (wa n : Nat) (w : Word) (ctx pte hd sid : Nat)
    (lanes : LaneSet) : ∃ y, Whole y w ∧ StoreFrame s (s.l1StoreWord core wa n 15 w ctx pte hd [] sid lanes).1 ∧
      (s.l1StoreWord core wa n 15 w ctx pte hd [] sid lanes).1.barn (barnOf core) =
        { s.barn (barnOf core) with words := (s.barn (barnOf core)).words.put wa y } := by
  have hfirst : s.wbFirst (barnOf core) wa = s := by rw [State.wbFirst, he]; rfl
  have hput (t : State) (y : L1Word) (hm : ∃ ms, t = { s.setBarn (barnOf core) { s.barn (barnOf core) with
      words := (s.barn (barnOf core)).words.put wa y } with msgs := ms }) :
      StoreFrame s t ∧ t.barn (barnOf core) = { s.barn (barnOf core) with words := (s.barn (barnOf core)).words.put wa y } := by
    obtain ⟨ms, rfl⟩ := hm
    exact ⟨⟨rfl, rfl, rfl, rfl, rfl, rfl⟩, (barn_setBarn _ _ _ _).trans (if_pos rfl)⟩
  rw [State.l1StoreWord, hfirst]
  generalize ((s.barn (barnOf core)).words.find? wa).getD ⟨0, false, false, [], 0, slotOf core, .bn, ctx, pte, hd, []⟩ = x
  dsimp only
  split
  · next ho =>
    refine ⟨_, ?_, hput _ _ (joinReg_msgs _ (barnOf core) wa sid lanes)⟩
    exact ⟨ho, or_full _, mergeWord_full _ _⟩
  · refine ⟨_, ?_, hput _ _ ⟨_, rfl⟩⟩
    exact ⟨rfl, or_full _, mergeWord_full _ _⟩

/-- Registrations are messages. -/
theorem sendRegs_frame (s : State) (b : Nat) (ws : List Nat) (sid : Nat) (lanes : LaneSet) :
    StoreFrame s (s.sendRegs b ws sid lanes) ∧ (s.sendRegs b ws sid lanes).barns = s.barns := by
  refine List.foldlRecOn (motive := fun t => StoreFrame s t ∧ t.barns = s.barns) ws _ ⟨⟨rfl, rfl, rfl, rfl, rfl, rfl⟩, rfl⟩ ?_
  intro t ⟨ht, hb⟩ wa _
  split
  · exact ⟨ht, hb⟩
  · split
    · exact ⟨ht.comp ⟨rfl, rfl, rfl, rfl, rfl, rfl⟩, hb⟩
    · exact ⟨ht, hb⟩

/-- Whether a barn owns a word. -/
def ownsWord (b : Barn) (wa : Nat) : Bool :=
  match b.words.find? wa with
  | some x => x.owned
  | none => false

theorem ownsWord_eq (b : Barn) (wa : Nat) : ownsWord b wa = ((b.words.find? wa).map (·.owned)).getD false := by
  rw [ownsWord]
  cases b.words.find? wa <;> rfl

/-- The pairs of a store of which the barn owns just one word. -/
theorem halfOwned_eq (s : State) (b pa n : Nat) : s.halfOwned b pa n = (wordsOf pa n).filter (fun wa =>
    decide (pa ≤ 4 * wa ∧ 4 * wa + 4 ≤ pa + n) && decide (pa ≤ 4 * (Nat.xor wa 1) ∧ 4 * (Nat.xor wa 1) + 4 ≤ pa + n) &&
      ownsWord (s.barn b) wa && !ownsWord (s.barn b) (Nat.xor wa 1)) := rfl

theorem halfOwned_nil {s : State} {b pa : Nat} (ha : pa % 8 = 0)
    (h : ownsWord (s.barn b) (pa / 4) = ownsWord (s.barn b) (pa / 4 + 1)) : s.halfOwned b pa 8 = [] := by
  have heven : Even (pa / 4) := Nat.even_iff.mpr (by omega)
  have hx0 : Nat.xor (pa / 4) 1 = pa / 4 + 1 := Nat.xor_one_of_even heven
  have hx1 : Nat.xor (pa / 4 + 1) 1 = pa / 4 := Nat.xor_one_of_odd heven.add_one
  rw [halfOwned_eq, wordsOf_pair ha]
  refine List.filter_eq_nil_iff.mpr fun wa hwa => ?_
  rcases List.mem_cons.mp hwa with rfl | hwa
  · rw [hx0, h]; cases ownsWord (s.barn b) (pa / 4 + 1) <;> simp
  · rw [List.mem_singleton.mp hwa, hx1, h]; cases ownsWord (s.barn b) (pa / 4 + 1) <;> simp

/-- The word of a store at one of its word addresses. -/
def storedWord (pa : Nat) (bs : List Byte) (wa : Nat) : Word := wordOf4 (fun j => bs.getD (4 * wa + j - pa) 0)

/-- A store of eight aligned bytes, where its line has a way and the barn owns both words or neither. -/
theorem l1Store_pair {s : State} {core pa : Nat} {bs : List Byte} (ha : pa % 8 = 0) (hlen : bs.length = 8)
    (he : (s.barn (barnOf core)).evict = []) (hfull : (s.barn (barnOf core)).setFull (pa / 128) = false)
    (hown : ownsWord (s.barn (barnOf core)) (pa / 4) = ownsWord (s.barn (barnOf core)) (pa / 4 + 1))
    (ctx pte hd sid : Nat) (lanes : LaneSet) :
    ∃ y z, Whole y (storedWord pa bs (pa / 4)) ∧ Whole z (storedWord pa bs (pa / 4 + 1)) ∧
      StoreFrame s (s.l1Store core pa bs ctx pte hd [] sid lanes) ∧
      (s.l1Store core pa bs ctx pte hd [] sid lanes).barn (barnOf core) =
        { s.barn (barnOf core) with words := ((s.barn (barnOf core)).words.put (pa / 4) y).put (pa / 4 + 1) z } := by
  have hroom : s.makeRoom (barnOf core) (pa / 128) = s := by rw [State.makeRoom, hfull]; rfl
  have hpart (wa : Nat) (hlo : pa ≤ 4 * wa) (hhi : 4 * wa + 4 ≤ pa + 8) : wordPart pa bs wa = (15, storedWord pa bs wa) :=
    wordPart_full hlo (by rw [hlen]; exact hhi)
  rw [State.l1Store]
  simp only [hroom, hlen, halfOwned_nil ha hown, wordsOf_pair ha, List.foldl_cons, List.foldl_nil, hpart (pa / 4) (by omega) (by omega),
    hpart (pa / 4 + 1) (by omega) (by omega)]
  generalize s.writeNo (barnOf core) [pa / 4, pa / 4 + 1] = n
  obtain ⟨y, hy, hs1, hb1⟩ := l1StoreWord_full s he (pa / 4) n (storedWord pa bs (pa / 4)) ctx pte hd sid lanes
  generalize (s.l1StoreWord core (pa / 4) n 15 (storedWord pa bs (pa / 4)) ctx pte hd [] sid lanes) = r1 at hs1 hb1
  obtain ⟨z, hz, hs2, hb2⟩ := l1StoreWord_full r1.1 (by rw [hb1]; exact he) (pa / 4 + 1) n (storedWord pa bs (pa / 4 + 1)) ctx pte hd sid lanes
  generalize (r1.1.l1StoreWord core (pa / 4 + 1) n 15 (storedWord pa bs (pa / 4 + 1)) ctx pte hd [] sid lanes) = r2 at hs2 hb2
  refine ⟨y, z, hy, hz, ?_, ?_⟩
  · exact (hs1.comp hs2).comp (sendRegs_frame _ _ _ _ _).1
  · rw [State.barn, (sendRegs_frame _ _ _ _ _).2, ← State.barn, hb2, hb1]

end Sys2Proof.Laws
end
section
namespace Sys2Proof.Laws
open Sys2Proof Sys2Proof.Machine Sys2Proof.Safety

/-! ### The spills of a push (08 R138, R139) -/

/-- The store of a spilled entry. -/
def spillOf (x : Spec.Xa × Nat × Nat × ChEntry) : Machine.Acc :=
  ⟨x.1.1, x.1.2.1, x.1.2.2.1, 8, x.1.2.2.2.1, x.1.2.2.2.2.1, x.1.2.2.2.2.2, x.2.2.2.bytes x.2.2.1, .queued⟩

/-- The lines that the barn's L1 holds, or comes to hold by the spills. -/
def spillLines (s1 : State) (b : Nat) (xs : List Spec.Xa) : List Nat :=
  ((s1.barn b).linesOf ++ xs.map (fun (y : Spec.Xa) => y.2.2.1 / 128)).eraseDups

/-- What the spills keep, from the state `s1` in which their addresses have been translated. -/
structure Spilling (k : Ctx) (s1 : State) (xs : List Spec.Xa) (s : State) : Prop where
  waits : s.waits = []
  sheaves : ∀ sid, s.sheaf? sid = s1.sheaf? sid
  rel : s.rel = s1.rel
  fabric : s.fabric = s1.fabric
  trans : s.trans = s1.trans
  held : ∀ line, (s.home line).held = (s1.home line).held
  owners : ∀ line, (s.home line).owners = (s1.home line).owners
  gather : (s.barn (barnOf k.sh.core)).gather = []
  evict : (s.barn (barnOf k.sh.core)).evict = []
  lines : (s.barn (barnOf k.sh.core)).words.all (fun e => decide (e.1 / 32 ∈ spillLines s1 (barnOf k.sh.core) xs)) = true
  pairs : ∀ x ∈ xs, ownsWord (s.barn (barnOf k.sh.core)) (x.2.2.1 / 4) = ownsWord (s.barn (barnOf k.sh.core)) (x.2.2.1 / 4 + 1)

section
variable {k : Ctx} {s1 : State} {xs : List Spec.Xa}

theorem spilling_start (hw : s1.waits = []) (hidle : Spec.Idle s1 k false) (hroom : Spec.Roomy s1 (barnOf k.sh.core) xs 8)
    (ha : ∀ x ∈ xs, x.2.2.1 % 8 = 0) : Spilling k s1 xs s1 where
  waits := hw
  sheaves _ := rfl
  rel := rfl
  fabric := rfl
  trans := rfl
  held _ := rfl
  owners _ := rfl
  gather := hidle.gather
  evict := hidle.evict
  lines := List.all_eq_true.mpr fun e he => decide_eq_true
    (List.mem_eraseDups.mpr (List.mem_append_left _ ((mem_linesOf hidle.gather _).mpr ⟨e, he, rfl⟩)))
  pairs x hx := by
    have h8 := ha x hx
    rw [ownsWord_eq, ownsWord_eq]
    exact hroom.pairs (Nat.le_refl 8) x hx _ (Nat.le_refl _) (by omega) (by omega)

theorem Spilling.marked {s t : State} (h : Spilling k s1 xs s) (hm : Marked s t) : Spilling k s1 xs t := by
  have hb : t.barn (barnOf k.sh.core) = s.barn (barnOf k.sh.core) := by rw [State.barn, hm.barns]; rfl
  exact
    { waits := hm.waits.trans h.waits
      sheaves := fun sid => by rw [State.sheaf?, hm.sheaves]; exact h.sheaves sid
      rel := hm.rel.trans h.rel
      fabric := hm.fabric.trans h.fabric
      trans := hm.trans.trans h.trans
      held := fun l => (hm.held l).trans (h.held l)
      owners := fun l => (hm.owners l).trans (h.owners l)
      gather := by rw [hb]; exact h.gather
      evict := by rw [hb]; exact h.evict
      lines := by rw [hb]; exact h.lines
      pairs := fun x hx => by rw [hb]; exact h.pairs x hx }

theorem Spilling.marksElsewhere {s : State} (h : Spilling k s1 xs s) {ctx pte pa line : Nat}
    (he : Spec.MarksElsewhere s1 ctx pte pa line) : Spec.MarksElsewhere s ctx pte pa line := by
  have hp (pa : Nat) : s.place pa = s1.place pa := by rw [State.place, State.place, h.fabric]
  have ho (wa : Nat) : s.ownerOf wa = s1.ownerOf wa := by rw [State.ownerOf, State.ownerOf, h.owners]
  simpa only [Spec.MarksElsewhere, hp, ho, h.trans] using he

/-- The L1 after a store of eight bytes. -/
theorem Spilling.stored {s t : State} (h : Spilling k s1 xs s) (hf : StoreFrame s t) {x : Spec.Xa} (hx : x ∈ xs)
    (ha : ∀ x ∈ xs, x.2.2.1 % 8 = 0) {y z : L1Word} (hy : y.owned = true) (hz : z.owned = true)
    (hb : t.barn (barnOf k.sh.core) = { s.barn (barnOf k.sh.core) with
      words := ((s.barn (barnOf k.sh.core)).words.put (x.2.2.1 / 4) y).put (x.2.2.1 / 4 + 1) z }) : Spilling k s1 xs t := by
  have h8 := ha x hx
  have hline : x.2.2.1 / 128 ∈ spillLines s1 (barnOf k.sh.core) xs :=
    List.mem_eraseDups.mpr (List.mem_append_right _ (List.mem_map.mpr ⟨x, hx, rfl⟩))
  have hhome (l : Nat) : t.home l = s.home l := by rw [State.home, hf.homes]; rfl
  exact
    { waits := hf.waits.trans h.waits
      sheaves := fun sid => by rw [State.sheaf?, hf.sheaves]; exact h.sheaves sid
      rel := hf.rel.trans h.rel
      fabric := hf.fabric.trans h.fabric
      trans := hf.trans.trans h.trans
      held := fun l => by rw [hhome]; exact h.held l
      owners := fun l => by rw [hhome]; exact h.owners l
      gather := by rw [hb]; exact h.gather
      evict := by rw [hb]; exact h.evict
      lines := by
        rw [hb]
        refine kv_all_put _ _ _ _ (decide_eq_true ?_) (kv_all_put _ _ _ _ (decide_eq_true ?_) h.lines)
        · rw [show (x.2.2.1 / 4 + 1) / 32 = x.2.2.1 / 128 by omega]; exact hline
        · rw [show x.2.2.1 / 4 / 32 = x.2.2.1 / 128 by omega]; exact hline
      pairs := fun w hw => by
        have hw8 := ha w hw
        have hpair := h.pairs w hw
        simp only [ownsWord_eq] at hpair ⊢
        rw [hb]
        simp only [kv_find_put]
        by_cases he : w.2.2.1 = x.2.2.1
        · rw [he, if_neg (by omega), if_pos rfl, if_pos rfl]
          exact hy.trans hz.symm
        · rw [if_neg (by omega), if_neg (by omega), if_neg (by omega), if_neg (by omega)]
          exact hpair }

/-- Eight bytes at an address that the barn's L1 owns and has written. -/
def Holds (b : Barn) (pa : Nat) (bs : List Byte) : Prop := ∀ n < 8, Spec.l1Byte b (pa + n) (bs.getD n 0)

theorem holds_stored {b b' : Barn} {pa : Nat} (ha : pa % 8 = 0) {bs : List Byte} {y z : L1Word} (hy : Whole y (storedWord pa bs (pa / 4)))
    (hz : Whole z (storedWord pa bs (pa / 4 + 1))) (hb : b'.words = (b.words.put (pa / 4) y).put (pa / 4 + 1) z) : Holds b' pa bs := by
  have hfull (j : Nat) (hj : j < 4) : (15#4).getLsbD j = true := by interval_cases j <;> rfl
  have hbyte (wa n : Nat) (hw : 4 * wa + n % 4 - pa = n) : wordByte (storedWord pa bs wa) (n % 4) = bs.getD n 0 := by
    rw [storedWord, wordByte_wordOf4 _ _ (Nat.mod_lt _ (by decide)), hw]
  intro n hn
  have hmod : (pa + n) % 4 = n % 4 := by omega
  rw [Spec.l1Byte, hmod, hb]
  by_cases h4 : n < 4
  · rw [show (pa + n) / 4 = pa / 4 by omega, kv_find_put, kv_find_put, if_neg (by omega), if_pos rfl]
    exact ⟨y, rfl, hy.owned, by rw [hy.written]; exact hfull _ (Nat.mod_lt _ (by decide)), by rw [hy.bytes]; exact hbyte _ _ (by omega)⟩
  · rw [show (pa + n) / 4 = pa / 4 + 1 by omega, kv_find_put_self]
    exact ⟨z, rfl, hz.owned, by rw [hz.written]; exact hfull _ (Nat.mod_lt _ (by decide)), by rw [hz.bytes]; exact hbyte _ _ (by omega)⟩

theorem Holds.stored {b b' : Barn} {pa pa' : Nat} {bs : List Byte} (h : Holds b pa bs) (ha : pa % 8 = 0) (ha' : pa' % 8 = 0)
    (hne : pa ≠ pa') {y z : L1Word} (hb : b'.words = (b.words.put (pa' / 4) y).put (pa' / 4 + 1) z) : Holds b' pa bs := by
  intro n hn
  rw [Spec.l1Byte, hb, kv_find_put, kv_find_put, if_neg (by omega), if_neg (by omega)]
  exact h n hn

theorem modFlight_none {sh : Sheaf} (h : sh.flights = []) (id : Nat) (f : Flight → Flight) : sh.modFlight id f = sh := by
  rw [Sheaf.modFlight, h, List.map_nil]
  exact congrArg (fun l => { sh with flights := l }) h.symm

/-- A flight of no name is none of the issue's sheaf. -/
theorem Spilling.modFlight {s : State} (h : Spilling k s1 xs s) (hrest : Rests k s1) (hfl : k.sh.flights = []) (id : Nat)
    (f : Flight → Flight) : Spilling k s1 xs (s.modSheaf k.sid (fun sh => sh.modFlight id f)) ∧
      (s.modSheaf k.sid (fun sh => sh.modFlight id f)).barn (barnOf k.sh.core) = s.barn (barnOf k.sh.core) := by
  have hsh : s.sheaf? k.sid = some k.sh := (h.sheaves _).trans hrest.here
  have hall (x : Nat) : (s.setSheaf k.sid k.sh).sheaf? x = s.sheaf? x := by
    rw [sheaf_setSheaf]
    split
    · next e => rw [← e, hsh]
    · rfl
  rw [modSheaf_some _ _ _ _ hsh, modFlight_none hfl]
  exact ⟨⟨h.waits, fun x => (hall x).trans (h.sheaves x), h.rel, h.fabric, h.trans, h.held, h.owners, h.gather, h.evict, h.lines,
    h.pairs⟩, rfl⟩

section
variable {i : Instr} {s : State} (hs : Spilling k s1 xs s) (hidle : Spec.Idle s1 k false) (hrest : Rests k s1)
  {x : Spec.Xa} (hx : x ∈ xs) (hloc : Spec.Local s1 xs) (hroom : Spec.Roomy s1 (barnOf k.sh.core) xs 8)
  (ha : ∀ x ∈ xs, x.2.2.1 % 8 = 0)
include hs hidle hx hloc hroom ha

omit hidle in
/-- Nothing keeps a spill's store waiting. -/
theorem spill_clear : isHost x.2.2.1 = false ∧ isPeer x.2.2.1 = false ∧ x.2.2.2.2.2 = false ∧
    s.dieWaits x.2.2.2.2.1 = false ∧ (s.barn (barnOf k.sh.core)).setFull (x.2.2.1 / 128) = false ∧
    s.halfOwned (barnOf k.sh.core) x.2.2.1 8 = [] ∧ s.hostHolds x.2.2.1 = false := by
  obtain ⟨hpa, hhome, hdie⟩ := hloc x hx
  refine ⟨decide_eq_false (by omega), decide_eq_false (by omega), hhome, ?_, ?_, ?_, ?_⟩
  · rw [State.dieWaits, hs.rel]; exact hdie
  · exact setFull_of_ways hs.gather hs.lines
      (List.mem_eraseDups.mpr (List.mem_append_right _ (List.mem_map.mpr ⟨x, hx, rfl⟩))) (hroom.ways x hx)
  · exact halfOwned_nil (ha x hx) (hs.pairs x hx)
  · rw [State.hostHolds, hs.held]; exact hroom.host x hx

include hrest in
theorem storeNow_spill (y : Nat × Nat × ChEntry) : s.storeNow k.sid k.sh.core k.sh (spillOf (x, y)) = true := by
  obtain ⟨hhost, hpeer, hho, hdie, hfull, hhalf, hholds⟩ := spill_clear hs hx hloc hroom ha
  have hsh : s.sheaf? k.sid = some k.sh := (hs.sheaves _).trans hrest.here
  have hreach : s.reachable (spillOf (x, y)) = true := by
    have hd : s.dieWaits (spillOf (x, y)).hd = false := hdie
    rw [State.reachable, hd]; simp
  have hbehind (fid : Nat) (m : LaneSet) (pa n : Nat) : s.behind k.sid fid m pa n = false := by
    rw [State.behind, hsh]; simp [Sheaf.before, hidle.flights]
  have hstuck (pa n : Nat) : s.gatherStuck (barnOf k.sh.core) pa n = false := by
    rw [State.gatherStuck, hs.gather]; rfl
  have hwaits (reg : Bool) : s.storeWaits (barnOf k.sh.core) x.2.2.1 8 reg = false := by
    rw [State.storeWaits, hholds, hhalf, State.roomFor, hfull]; simp
  rw [State.storeNow]
  simp only [hreach, hbehind, hstuck]
  simp only [spillOf, hhost, hpeer, hho, hwaits]
  rfl

include hrest in
/-- A spill's store is performed at once; the bytes of other spills stay. -/
theorem performStore_spill (hi : isStore i = false) {y : Nat × Nat × ChEntry} (hlen : (y.2.2.bytes y.2.1).length = 8) :
    ∃ t, s.performStore k.sid k.sh.core k.sh (plainFlight k i) 0 (spillOf (x, y)) = t ∧ Spilling k s1 xs t ∧
      Holds (t.barn (barnOf k.sh.core)) x.2.2.1 (y.2.2.bytes y.2.1) ∧
      ∀ pa bs, pa % 8 = 0 → pa ≠ x.2.2.1 → Holds (s.barn (barnOf k.sh.core)) pa bs → Holds (t.barn (barnOf k.sh.core)) pa bs := by
  obtain ⟨hhost, hpeer, hho, hdie, hfull, hhalf, hholds⟩ := spill_clear hs hx hloc hroom ha
  have hpub : s.publishAt (barnOf k.sh.core) x.2.2.1 8 = s := by rw [State.publishAt, hs.gather]; rfl
  have hphase (va : Nat) : k.sh.phasesAt va = [] := by rw [Sheaf.phasesAt, hidle.phases]; rfl
  have hwaits (reg : Bool) : s.storeWaits (barnOf k.sh.core) x.2.2.1 8 reg = false := by
    rw [State.storeWaits, hholds, hhalf, State.roomFor, hfull]; simp
  obtain ⟨z0, z1, hz0, hz1, hf, hb⟩ := l1Store_pair (ha x hx) hlen hs.evict hfull (hs.pairs x hx) k.ctx x.2.2.2.1 x.2.2.2.2.1 k.sid
    (accLanes (plainFlight k i) (spillOf (x, y)))
  have hperf : s.performStore k.sid k.sh.core k.sh (plainFlight k i) 0 (spillOf (x, y)) =
      ((s.l1Store k.sh.core x.2.2.1 (y.2.2.bytes y.2.1) k.ctx x.2.2.2.1 x.2.2.2.2.1 [] k.sid
        (accLanes (plainFlight k i) (spillOf (x, y)))).setAcc k.sid 0 0 (.done [])).markPerformed k.sid 0 := by
    have hinstr : isStore (plainFlight k i).instr = false := hi
    rw [State.performStore]
    simp only [spillOf, hpub, hinstr, hhost, hpeer, hho, hphase, hwaits, List.isEmpty_nil, Bool.false_eq_true, if_false]
    rfl
  generalize s.l1Store k.sh.core x.2.2.1 (y.2.2.bytes y.2.1) k.ctx x.2.2.2.1 x.2.2.2.2.1 [] k.sid
    (accLanes (plainFlight k i) (spillOf (x, y))) = u at hf hb hperf
  have hu := hs.stored hf hx ha hz0.owned hz1.owned hb
  obtain ⟨hacc, hbacc⟩ := hu.modFlight hrest hidle.flights 0
    (fun f => { f with accs := f.accs.zipIdx.map (fun e => if e.2 = 0 then { e.1 with st := .done [] } else e.1) })
  obtain ⟨hmark, hbmark⟩ := hacc.modFlight hrest hidle.flights 0 (fun f => { f with performed := true })
  refine ⟨_, hperf, hmark, ?_, fun pa bs hpa hne hold => ?_⟩
  · exact holds_stored (ha x hx) hz0 hz1 (congrArg Barn.words ((hbmark.trans hbacc).trans hb))
  · exact hold.stored hpa (ha x hx) hne (congrArg Barn.words ((hbmark.trans hbacc).trans hb))

end

theorem spillNow_cons {s : State} {i : Instr} {a : Machine.Acc} (accs : List Machine.Acc) (h : s.storeNow k.sid k.sh.core k.sh a = true) :
    s.spillNow k i (a :: accs) =
      ((s.performStore k.sid k.sh.core k.sh (plainFlight k i) 0 a).dirtyMark k.ctx a.pte a.pa a.hd).spillNow k i accs := by
  rw [State.spillNow, List.foldl_cons, Option.bind_some, if_pos h]
  rfl

/-- Every spill of a push is stored; the bytes of each stay. -/
theorem spillNow_spills {i : Instr} (hi : isStore i = false) (hidle : Spec.Idle s1 k false) (hrest : Rests k s1) (hloc : Spec.Local s1 xs)
    (hroom : Spec.Roomy s1 (barnOf k.sh.core) xs 8)
    (ha : ∀ x ∈ xs, x.2.2.1 % 8 = 0 ∧ ∀ y ∈ xs, Spec.MarksElsewhere s1 k.ctx x.2.2.2.1 x.2.2.1 (y.2.2.1 / 128))
    (zs : List (Spec.Xa × Nat × Nat × ChEntry)) (hz : ∀ z ∈ zs, z.1 ∈ xs ∧ (z.2.2.2.bytes z.2.2.1).length = 8)
    (hd : zs.Pairwise (fun u v => u.1.2.2.1 ≠ v.1.2.2.1)) {s : State} (hs : Spilling k s1 xs s) :
    ∃ t, s.spillNow k i (zs.map spillOf) = some t ∧ Spilling k s1 xs t ∧
      (∀ z ∈ zs, Holds (t.barn (barnOf k.sh.core)) z.1.2.2.1 (z.2.2.2.bytes z.2.2.1)) ∧
      ∀ pa bs, pa % 8 = 0 → (∀ z ∈ zs, pa ≠ z.1.2.2.1) → Holds (s.barn (barnOf k.sh.core)) pa bs →
        Holds (t.barn (barnOf k.sh.core)) pa bs := by
  induction zs generalizing s with
  | nil => exact ⟨s, rfl, hs, nofun, fun _ _ _ _ h => h⟩
  | cons z zs ih =>
    obtain ⟨hzx, hlen⟩ := hz z List.mem_cons_self
    obtain ⟨hne, hd⟩ := List.pairwise_cons.mp hd
    have h8 : ∀ x ∈ xs, x.2.2.1 % 8 = 0 := fun x hx => (ha x hx).1
    obtain ⟨u, hperf, hu, hold, hkeep⟩ := performStore_spill hs hidle hrest hzx hloc hroom h8 hi hlen
    have hmark := marked_dirtyMark hu.waits z.1.2.2.2.2.1 (hu.marksElsewhere ((ha z.1 hzx).2 z.1 hzx))
    have hb : (u.dirtyMark k.ctx z.1.2.2.2.1 z.1.2.2.1 z.1.2.2.2.2.1).barn (barnOf k.sh.core) = u.barn (barnOf k.sh.core) := by
      rw [State.barn, hmark.barns]; rfl
    obtain ⟨t, ht, hst, hall, hrestk⟩ := ih (fun w hw => hz w (List.mem_cons_of_mem _ hw)) hd (hu.marked hmark)
    rw [hb] at hrestk
    refine ⟨t, ?_, hst, ?_, fun pa bs hpa hnot hh => ?_⟩
    · rw [List.map_cons, spillNow_cons _ (storeNow_spill hs hidle hrest hzx hloc hroom h8 z.2), hperf]
      exact ht
    · intro w hw
      rcases List.mem_cons.mp hw with rfl | hw
      · exact hrestk _ _ (h8 _ hzx) hne hold
      · exact hall w hw
    · refine hrestk pa bs hpa (fun w hw => hnot w (List.mem_cons_of_mem _ hw)) ?_
      exact hkeep pa bs hpa (hnot z List.mem_cons_self) hh

end

end Sys2Proof.Laws
end
section
namespace Sys2Proof.Laws
open Sys2Proof Sys2Proof.Machine Sys2Proof.Safety

theorem length_bytesOf (n x : Nat) : (bytesOf n x).length = n := by
  induction n generalizing x with
  | zero => rfl
  | succ n ih => exact congrArg (· + 1) (ih _)

theorem length_record (x : ChEntry) (pos : Nat) : (x.bytes pos).length = 8 := by
  rw [ChEntry.bytes, List.length_append, List.length_append, length_bytesOf, length_bytesOf]; rfl

/-- The j-th of the eight oldest entries of a full stack is spilled at its position. -/
theorem mem_spills {k : Ctx} {l j : Nat} (hl : k.e.getLsbD l = true) (h16 : 16 ≤ (k.sh.lane l).chip.length) (hj : j < 8) :
    (l, (k.sh.lane l).depth - (k.sh.lane l).chip.length + j,
      (k.sh.lane l).chip.getD ((k.sh.lane l).chip.length - 1 - j) ⟨0, 0⟩) ∈ spills k := by
  refine List.mem_flatMap.mpr ⟨l, (mem_lanesOf _ _).mpr hl, ?_⟩
  rw [if_neg (by omega)]
  refine List.mem_map.mpr ⟨((k.sh.lane l).chip.getD ((k.sh.lane l).chip.length - 1 - j) ⟨0, 0⟩, 7 - j), ?_, ?_⟩
  · refine List.mk_mem_zipIdx_iff_getElem?.mpr ?_
    rw [List.getElem?_drop, List.getD_eq_getElem?_getD, show (k.sh.lane l).chip.length - 8 + (7 - j) = (k.sh.lane l).chip.length - 1 - j by omega,
      List.getElem?_eq_getElem (by omega)]
    rfl
  · simp only [Lane.below]
    congr 2
    omega

section
variable {i : Instr} {d : Option Dst} {f : Nat → Word × ChEntry} {s s1 : State} {k : Ctx} {xs : List Spec.Xa}

theorem pushBody_spills {t : State} (hroom : ∀ l, k.e.getLsbD l = true → (k.sh.lane l).depth < s.chCapacity k.sh l)
    (hx : s.xlateLanes (some k.sh.core) k.ctx .write ((spills k).map (fun x => (x.1, s.chAddr k.sh x.1 x.2.1))) = (.ok xs, s1))
    (ht : s1.spillNow k i ((xs.zip (spills k)).map spillOf) = some t) (d : Option Reg) :
    pushBody i s k d f = .ok (pushDone t k d f) := by
  rw [pushBody, full_eq_zero hroom]
  refine (if_neg (by decide)).trans ?_
  have hacc : (xs.zip (spills k)).map (fun ((x, y) : Spec.Xa × Nat × Nat × ChEntry) =>
      (⟨x.1, x.2.1, x.2.2.1, 8, x.2.2.2.1, x.2.2.2.2.1, x.2.2.2.2.2, y.2.2.bytes y.2.1, .queued⟩ : Machine.Acc)) =
      (xs.zip (spills k)).map spillOf := rfl
  simp only [hx, hacc, ht]

end

/-- A reversible instruction stores nothing of the program. -/
theorem isStore_of_pushes {i : Instr} {d : Option Dst} {f : Ctx → Nat → Word × ChEntry} (h : Spec.pushes i = some (d, f)) :
    isStore i = false := by
  cases i <;> cases h <;> rfl

/-- 08 R137 to R139, R141: a push whose lanes of sixteen entries first spill their eight oldest. -/
theorem exec_spill {i : Instr} {d : Option Dst} {f : Ctx → Nat → Word × ChEntry} {s s1 : State} {k : Ctx} {xs : List Spec.Xa}
    (hi : Spec.pushes i = some (d, f)) (hwf : i.wf = true) (h : Issues i s k)
    (hcap : ∀ l, k.e.getLsbD l = true → (k.sh.lane l).depth < s.chCapacity k.sh l)
    (hx : s.xlateLanes (some k.sh.core) k.ctx .write ((spills k).map (fun x => (x.1, s.chAddr k.sh x.1 x.2.1))) = (.ok xs, s1))
    (hw : s1.waits = []) (hidle : Spec.Idle s1 k false) (hloc : Spec.Local s1 xs) (hroom : Spec.Roomy s1 (barnOf k.sh.core) xs 8)
    (hd : xs.Pairwise (fun x y => x.2.2.1 ≠ y.2.2.1))
    (ha : ∀ x ∈ xs, x.2.2.1 % 8 = 0 ∧ ∀ y ∈ xs, Spec.MarksElsewhere s1 k.ctx x.2.2.2.1 x.2.2.1 (y.2.2.1 / 128)) :
    ∃ t sh, exec i s = .next t ∧ t.sheaf? k.sid = some sh ∧ (∀ x, x ≠ k.sid → t.sheaf? x = s1.sheaf? x) ∧
      StackAfter k (pushed (f k)) ((d.map Dst.reg).getD .z) (fun l => (f k l).1)
        (fun l => if k.e.getLsbD l && d.isSome then some (f k l).1 else none) sh ∧
      ∀ z ∈ xs.zip (spills k), Holds (t.barn (barnOf k.sh.core)) z.1.2.2.1 (z.2.2.2.bytes z.2.2.1) := by
  obtain ⟨hexec, hu⟩ := exec_of_pushes_value hi hwf s
  have hrest := rests_of_xlate hidle.flights h.runs (rests_of_issues h) hx
  have hlen : xs.length = (spills k).length := by simpa using congrArg List.length (xlateLanes_ok hx).2
  have hzip : (xs.zip (spills k)).Pairwise (fun u v => u.1.2.2.1 ≠ v.1.2.2.1) := by
    rw [← List.map_fst_zip hlen.le, List.pairwise_map] at hd
    exact hd
  obtain ⟨t, ht, hst, hall, -⟩ := spillNow_spills (isStore_of_pushes hi) hidle hrest hloc hroom ha (xs.zip (spills k))
    (fun z hz => ⟨(List.of_mem_zip hz).1, length_record _ _⟩) hzip (spilling_start hw hidle hroom fun x hx => (ha x hx).1)
  have hsh : t.sheaf? k.sid = some k.sh := (hst.sheaves _).trans hrest.here
  obtain ⟨t', sh, ht', hwith, hafter⟩ := exec_stack (pushed (f k)) (fun l => (f k l).1) hexec h hu (isLaneDst_pushed d)
    (pushBody_spills hcap hx ht _) hsh (pushDone_st d (f k) hsh) (pushDone_plain d (f k)) (pushDone_val d (f k))
  subst hwith
  refine ⟨_, sh, ht', (kv_find_put ..).trans (if_pos rfl), fun x hne => ?_, hafter, hall⟩
  exact ((kv_find_put ..).trans (if_neg hne.symm)).trans (hst.sheaves x)

end Sys2Proof.Laws

namespace Sys2Proof.Proofs
open Sys2Proof Sys2Proof.Machine Sys2Proof.Safety Sys2Proof.Laws

/-- Settles O16: pushes and pops on chip and CHDROP change the stacks, the result's register and the latches of their lanes and
nothing else; the spills of a push are stores into the L1 that change no sheaf, and the reads of a refill are served by the L1 in
the cycle of the issue, so that the push or the pop follows at once. -/
theorem chaffPushesAndPops : Obligations.ChaffPushesAndPops := by
  unfold Obligations.ChaffPushesAndPops
  refine ⟨?_, ⟨?_, ?_⟩, ?_, ?_⟩
  · intro i d f s k hi hw h hroom
    obtain ⟨t, sh, ht, hsh, hframe, hregs, hlanes⟩ := exec_push hi hw h hroom
    exact ⟨t, sh, ht, hsh, hframe, hregs, hlanes⟩
  · intro i d f s k hi _ h hchip
    obtain ⟨t, sh, v, ht, hsh, hv, hframe, hregs, hlanes⟩ := exec_pop hi h hchip
    exact ⟨t, sh, v, ht, hsh, hframe, hregs, hv, hlanes⟩
  · intro g a s k h hn
    exact ⟨_, rfl, exec_chdrop h hn⟩
  · intro i d f s k xs s1 hi hwf h hcap hx hw hidle hloc hroom hd ha
    obtain ⟨t, sh, ht, hsh, hothers, ⟨hframe, hregs, hlanes⟩, hall⟩ := exec_spill hi hwf h hcap hx hw hidle hloc hroom hd ha
    refine ⟨t, sh, ht, hsh, hothers, hframe, hregs, hlanes, fun l hl h16 j hj => ?_⟩
    have hmap := (xlateLanes_ok hx).2
    have hlen : (spills k).length ≤ xs.length := by simpa using (congrArg List.length hmap).ge
    have hmem := mem_spills hl h16 hj
    rw [← List.map_snd_zip hlen] at hmem
    obtain ⟨z, hz, hzy⟩ := List.mem_map.mp hmem
    obtain ⟨hlane, hva⟩ := Prod.mk.inj (zip_of_map_eq hmap z hz)
    have hbytes := hall z hz
    rw [hzy] at hlane hva hbytes
    exact ⟨z.1, (List.of_mem_zip hz).1, hlane, hva, hbytes⟩
  · intro i d f s k xs s1 ps rec hi _ h hrep hdepth hps hne hx hloc hidle hhit hrec hchip
    exact exec_refill hi h hrep hdepth hps hne hx hloc hidle hhit hrec hchip
end Sys2Proof.Proofs
end
section
/-! ## Bin loads and stores (09 R152 to R160) -/

namespace Sys2Proof.Laws
open Sys2Proof Sys2Proof.Machine Sys2Proof.Safety

/-! ### Lane ports (09 R152) -/

theorem portsOnly_refl (s : State) : Spec.PortsOnly s s := ⟨rfl, fun _ => rfl⟩

theorem portsOnly_trans {s u v : State} (h : Spec.PortsOnly s u) (h' : Spec.PortsOnly u v) : Spec.PortsOnly s v :=
  ⟨(congrArg (fun x : State => { x with cores := s.cores }) h'.1).trans h.1,
   fun c => (congrArg (fun x : Core => { x with ports := (s.core c).ports }) (h'.2 c)).trans (h.2 c)⟩

theorem portsOnly_setCore (s : State) (c : Nat) (p : KV Nat) : Spec.PortsOnly s (s.setCore c { s.core c with ports := p }) := by
  refine ⟨rfl, fun d => ?_⟩
  rw [core_setCore]
  split
  · next hd => rw [hd]
  · rfl

/-- The use of lane ports changes nothing else. -/
theorem portsOnly_usePorts (s : State) (b : BinId) (ts : List (Nat × Nat)) (n : Nat) : Spec.PortsOnly s (s.usePorts b ts n) := by
  unfold State.usePorts
  generalize s.portCycles b ts n = l
  induction l generalizing s with
  | nil => exact portsOnly_refl s
  | cons x l ih => exact portsOnly_trans (portsOnly_setCore s x.1 _) (ih _)

section
variable {s v : State} (h : Spec.PortsOnly s v)
include h

theorem stooks_of_portsOnly : v.stooks = s.stooks := by
  have hfield := congrArg State.stooks h.1
  exact hfield

theorem sheaves_of_portsOnly : v.sheaves = s.sheaves := by
  have hfield := congrArg State.sheaves h.1
  exact hfield

theorem sheaf_of_portsOnly (x : Nat) : v.sheaf? x = s.sheaf? x := congrArg (KV.find? · x) (sheaves_of_portsOnly h)

theorem mem_of_portsOnly : v.mem = s.mem := by
  have hfield := congrArg State.mem h.1
  exact hfield

theorem binsOnly_of_portsOnly : Spec.BinsOnly s v where
  rest := by
    have hrest := h.1
    rw [← stooks_of_portsOnly h, ← sheaves_of_portsOnly h]
    exact hrest
  cores := h.2
  none_ x hx := (congrArg (KV.find? · x) (stooks_of_portsOnly h)).trans hx
  stooks x st hx := ⟨st, (congrArg (KV.find? · x) (stooks_of_portsOnly h)).trans hx, rfl⟩
  sheaves x sh hx := ⟨sh, (sheaf_of_portsOnly h x).trans hx, rfl, rfl⟩

end

/-! ### The places that the lanes of E name (09 R155, R160) -/

/-- The lanes of E, each with its stook and offset. -/
def placed (k : Ctx) (p : Nat → Nat × Nat) : List (Nat × Nat × Nat) := (lanesOf k.e).map (fun l => (l, p l))

section
variable {s : State} {k : Ctx} {b : BinId} {a : Reg} {off : BitVec 15} {n : Nat} {p : Nat → Nat × Nat}

theorem binTargets_of_binsAt (h : Spec.BinsAt s k b a off n p) : binTargets s k b (binAddrs k a off) n = .ok (placed k p) := by
  obtain ⟨st, hst, hl⟩ := h
  have haligned : (binAddrs k a off).filter (fun e => e.2.toNat % n != 0) = [] := by
    refine List.filter_eq_nil_iff.mpr fun e he => ?_
    obtain ⟨l, hmem, rfl⟩ := List.mem_map.mp he
    have h0 : (k.opA a l 0 + off.signExtend 32).toNat % n = 0 := (hl l ((mem_lanesOf _ _).mp hmem)).1
    exact fun hne => bne_iff_ne.mp hne h0
  have hplace (l : Nat) (hmem : l ∈ lanesOf k.e) :
      s.binPlace st k.sh.uid b (k.opA a l 0 + off.signExtend 32).toNat n = some (p l) :=
    (hl l ((mem_lanesOf _ _).mp hmem)).2.2
  have hinside : (binAddrs k a off).filter (fun e => (s.binPlace st k.sh.uid b e.2.toNat n).isNone) = [] := by
    refine List.filter_eq_nil_iff.mpr fun e he => ?_
    obtain ⟨l, hmem, rfl⟩ := List.mem_map.mp he
    rw [hplace l hmem]
    exact Bool.false_ne_true
  have hall : (binAddrs k a off).filterMap (fun e => (s.binPlace st k.sh.uid b e.2.toNat n).map (fun q => (e.1, q.1, q.2))) =
      placed k p := by
    rw [binAddrs, List.filterMap_map, placed, ← List.filterMap_eq_map]
    refine List.filterMap_congr fun l hmem => ?_
    simp only [Function.comp_apply, hplace l hmem, Option.map_some]
  simp only [binTargets, haligned, hst, Option.bind_some, hinside, hall]

theorem stook_of_binsAt (h : Spec.BinsAt s k b a off n p) {l : Nat} (hl : k.e.getLsbD l = true) : (s.stook? (p l).1).isSome := by
  obtain ⟨st, -, hall⟩ := h
  exact (hall l hl).2.1

theorem offset_of_binPlace {st : Stook} {uid addr : Nat} {x : Nat × Nat} (h : s.binPlace st uid b addr n = some x) :
    x.2 = addr % 2 ^ 24 := by
  unfold State.binPlace at h
  split at h
  · cases h
  · dsimp only at h
    split at h
    · split at h
      · cases h; rfl
      · cases h
    · cases h

/-- The offset in the bin has the alignment of the address. -/
theorem aligned_of_binsAt (h : Spec.BinsAt s k b a off n p) (hn : n ∣ 2 ^ 24) {l : Nat} (hl : k.e.getLsbD l = true) :
    (p l).2 % n = 0 := by
  obtain ⟨st, -, hall⟩ := h
  obtain ⟨halign, -, hplace⟩ := hall l hl
  rw [offset_of_binPlace hplace, Nat.mod_mod_of_dvd _ hn, halign]

end

/-! ### Bytes of a bin -/

theorem memRead_eq_map (m : KV Byte) (n : Nat) : ∀ o, memRead m o n = (List.range n).map (fun j => memByte m (o + j)) := by
  induction n with
  | zero => intro o; rfl
  | succ n ih =>
    intro o
    rw [memRead, ih, List.range_succ_eq_map, List.map_cons, List.map_map]
    refine congrArg (memByte m o :: ·) (List.map_congr_left fun j _ => congrArg (memByte m) ?_)
    omega

theorem binBytes_eq_map (s : State) (u : Nat) (b : BinId) (o n : Nat) :
    s.binBytes u b o n = (List.range n).map (fun j => Spec.binByte s b u (o + j)) := by
  unfold State.binBytes Spec.binByte
  cases s.stook? u with
  | some st => exact memRead_eq_map _ _ _
  | none => exact (List.map_const' ..).symm ▸ (congrArg (List.replicate · _) List.length_range).symm

theorem length_binBytes (s : State) (u : Nat) (b : BinId) (o n : Nat) : (s.binBytes u b o n).length = n := by
  rw [binBytes_eq_map, List.length_map, List.length_range]

theorem natOfBytes_replicate_zero (n : Nat) : natOfBytes (List.replicate n 0) = 0 := by
  induction n with
  | zero => rfl
  | succ n ih => rw [List.replicate_succ, natOfBytes, ih]; rfl

theorem natOfBytes_binBytes (s : State) (x : Nat × Nat) (b : BinId) (n : Nat) :
    natOfBytes (s.binBytes x.1 b x.2 n) = Spec.binNat s b x n := by
  unfold State.binBytes Spec.binNat
  cases s.stook? x.1 with
  | some st => rfl
  | none => exact natOfBytes_replicate_zero n

theorem binBytes_congr {s u : State} {b : BinId} {x o n : Nat}
    (h : ∀ j, o ≤ j → j < o + n → Spec.binByte u b x j = Spec.binByte s b x j) : u.binBytes x b o n = s.binBytes x b o n := by
  rw [binBytes_eq_map, binBytes_eq_map]
  exact List.map_congr_left fun j hj => h _ (Nat.le_add_right o j) (Nat.add_lt_add_left (List.mem_range.mp hj) o)

theorem binBytes_of_stooks {s u : State} (h : u.stooks = s.stooks) (x : Nat) (b : BinId) (o n : Nat) :
    u.binBytes x b o n = s.binBytes x b o n := by
  unfold State.binBytes State.stook?; rw [h]

theorem binByte_of_stooks {s u : State} (h : u.stooks = s.stooks) (b : BinId) (x o : Nat) :
    Spec.binByte u b x o = Spec.binByte s b x o := by
  unfold Spec.binByte State.stook?; rw [h]

/-! ### Words and numbers of bytes -/

theorem natOfBytes_lt (bs : List Byte) : natOfBytes bs < 2 ^ (8 * bs.length) := by
  induction bs with
  | nil => exact Nat.one_pos
  | cons b bs ih =>
    have hb : b.toNat < 256 := b.isLt
    rw [natOfBytes, List.length_cons, Nat.mul_succ, Nat.pow_add]
    omega

theorem natOfBytes_append (xs ys : List Byte) : natOfBytes (xs ++ ys) = natOfBytes xs + 2 ^ (8 * xs.length) * natOfBytes ys := by
  induction xs with
  | nil => simp [natOfBytes]
  | cons b xs ih =>
    rw [List.cons_append, natOfBytes, natOfBytes, ih, List.length_cons, Nat.mul_succ, Nat.pow_add, Nat.mul_add, Nat.add_assoc,
      ← Nat.mul_assoc, Nat.mul_comm (2 ^ (8 * xs.length)) (2 ^ 8)]

theorem natOfBytes_bytesOf (n : Nat) : ∀ {x}, x < 2 ^ (8 * n) → natOfBytes (bytesOf n x) = x := by
  induction n with
  | zero => intro x hx; exact (Nat.lt_one_iff.mp hx).symm
  | succ n ih =>
    intro x hx
    have hdiv : x / 256 < 2 ^ (8 * n) := by
      rw [Nat.mul_succ, Nat.pow_add] at hx
      exact Nat.div_lt_of_lt_mul (by omega)
    rw [bytesOf, natOfBytes, ih hdiv, BitVec.toNat_ofNat]
    exact Nat.mod_add_div x 256

/-- Whole words of a list of bytes, cut from its number. -/
theorem wordsOfBytes_eq (m : Nat) : ∀ bs : List Byte, bs.length = 4 * m →
    wordsOfBytes bs = (List.range m).map (fun j => BitVec.ofNat 32 (natOfBytes bs / 2 ^ (32 * j))) := by
  induction m with
  | zero => intro bs h; rw [List.length_eq_zero_iff.mp h]; rfl
  | succ m ih =>
    intro bs h
    match bs, h with
    | a :: b :: c :: d :: r, h =>
      have hr : r.length = 4 * m := by simp only [List.length_cons] at h; omega
      have hnat : natOfBytes (a :: b :: c :: d :: r) = (d ++ c ++ b ++ a : Word).toNat + 2 ^ 32 * natOfBytes r := by
        simp only [natOfBytes, BitVec.toNat_append]
        rw [← Nat.shiftLeft_add_eq_or_of_lt a.isLt, ← Nat.shiftLeft_add_eq_or_of_lt b.isLt, ← Nat.shiftLeft_add_eq_or_of_lt c.isLt]
        simp only [Nat.shiftLeft_eq]
        omega
      have hlow := (d ++ c ++ b ++ a : Word).isLt
      rw [wordsOfBytes, ih r hr, List.range_succ_eq_map, List.map_cons, List.map_map, hnat]
      refine congrArg₂ _ (BitVec.eq_of_toNat_eq ?_) (List.map_congr_left fun j _ => ?_)
      · rw [BitVec.toNat_ofNat, Nat.mul_zero, Nat.pow_zero, Nat.div_one, Nat.add_mul_mod_self_left, Nat.mod_eq_of_lt hlow]
      · rw [Function.comp_apply, Nat.mul_succ, Nat.add_comm (32 * j), Nat.pow_add, ← Nat.div_div_eq_div_mul,
          Nat.add_mul_div_left _ _ (Nat.two_pow_pos 32), Nat.div_eq_of_lt hlow, Nat.zero_add]

theorem wordsOfBytes_eq_loaded {n : Nat} (hn : n = 4 ∨ n = 8 ∨ n = 16) (sx : Bool) {bs : List Byte} (h : bs.length = n) :
    wordsOfBytes bs = Spec.loaded sx n (natOfBytes bs) := by
  rw [Spec.loaded, if_neg (by omega), wordsOfBytes_eq (n / 4) bs (by omega)]

theorem loadWords_eq_loaded (sx : Bool) (size : Size) {bs : List Byte} (h : bs.length = size.bytes) :
    loadWords sx size.bytes bs = Spec.loaded sx size.bytes (natOfBytes bs) := by
  by_cases hsize : size.bytes < 4
  · rw [loadWords, Spec.loaded, if_pos hsize, if_pos hsize]
    generalize natOfBytes bs = v
    have hsub : 2 ^ (8 * size.bytes) ≤ 2 ^ 32 := Nat.pow_le_pow_right (by omega) (by omega)
    split
    · have hint : ((v + 2 ^ 32 - 2 ^ (8 * size.bytes) : Nat) : Int) = (v : Int) - 2 ^ (8 * size.bytes) + 2 ^ 32 := by
        rw [Nat.cast_sub (hsub.trans (Nat.le_add_left _ v))]
        push_cast
        ring
      rw [← BitVec.ofInt_natCast, hint, BitVec.ofInt_add]
      exact congrArg (fun w => [w]) (BitVec.add_zero _)
    · exact congrArg (fun w => [w]) (BitVec.ofInt_natCast _ _).symm
  · rw [loadWords, if_neg hsize]
    exact wordsOfBytes_eq_loaded (by cases size <;> simp_all [Size.bytes]) sx h

/-! ### Loads (09 R159) -/

theorem exec_of_binLoads {i : Instr} {b : BinId} {d a : Reg} {size : Size} {off : BitVec 15} {sx : Bool}
    (h : Spec.binLoads i = some (b, d, a, size, off, sx)) (hw : i.wf = true) (s : State) :
    exec i s = issue i s (fun k => binLoad s k d b a size off sx) ∧ i.cls ≠ .uniform ∧ d.isLaneDst = true := by
  cases i <;> cases h
  all_goals
    have hd := (Bool.and_eq_true_iff.mp hw).1
    exact ⟨rfl, nofun, hd⟩

theorem exec_of_binStores {i : Instr} {b : BinId} {a dat : Reg} {size : Size} {off : BitVec 15}
    (h : Spec.binStores i = some (b, a, dat, size, off)) (s : State) :
    exec i s = issue i s (fun k => binStore s k b a dat size off) := by
  cases i <;> cases h <;> rfl

/-- The issue of an instruction whose own effect, from a state `u` that holds its sheaf, is a group written in each lane of E,
where the latch takes no value. -/
theorem issue_groupIn {i : Instr} {s u : State} {k : Ctx} {body : Ctx → Except TrapInfo Done} {d : Reg} {f : Nat → List Word}
    (h : Issues i s k) (hu : i.cls ≠ .uniform) (hd : d.isLaneDst = true) (hsh : u.sheaf? k.sid = some k.sh)
    (hb : body k = .ok { st := u.setSheaf k.sid (groupSheaf k d f) }) :
    ∃ sh, issueState i s body = withSheaf i u k sh ∧
      { sh with lanes := k.sh.lanes, regs := k.sh.regs, replay := k.sh.replay } = k.sh ∧
      RegsAfter k sh d f ∧ LanesAfter k sh (fun _ x => x) (fun _ x => shifted k none x) := by
  have hframe : { groupSheaf k d f with regs := k.sh.regs } = k.sh := lanes_writeGroups d hd _ k.sh
  have hcore := congrArg Sheaf.core hframe
  have hfl := congrArg Sheaf.flights hframe
  have hrest := congrArg (fun y : Sheaf => { y with lanes := k.sh.lanes, replay := k.sh.replay }) hframe
  have hreplay := congrArg Sheaf.replay hframe
  have hlane (l : Nat) := congrArg (fun y : Sheaf => y.lane l) hframe
  have hregs := groupSheaf_regs k d hd f
  refine ⟨_, (issueState_of i s k body h _ hb rfl rfl).trans (retire_sheaf u i k _ _ hsh (.inr rfl) hcore hfl), ?_, ?_,
    lanesAfter_of i k _ (groupSheaf k d f) _ _ (fun l _ => hlane l) hreplay fun _ l _ x _ => ?_⟩
  · split
    · exact hrest
    · rw [modLanes_eq]; exact hrest
  · split
    · exact hregs
    · intro r l hl; rw [vreg_modLanes]; exact hregs r l hl
  · rw [issued_goesOn, goesOn, if_neg hu]

/-- 09 R159: a bin load. -/
theorem exec_binLoad {i : Instr} {b : BinId} {d a : Reg} {size : Size} {off : BitVec 15} {sx : Bool} {s : State} {k : Ctx}
    {p : Nat → Nat × Nat} (hi : Spec.binLoads i = some (b, d, a, size, off, sx)) (hw : i.wf = true) (h : Issues i s k)
    (hp : Spec.BinsAt s k b a off size.bytes p) :
    ∃ t v sh, exec i s = .next t ∧ t = withSheaf i v k sh ∧ Spec.PortsOnly s v ∧
      { sh with lanes := k.sh.lanes, regs := k.sh.regs, replay := k.sh.replay } = k.sh ∧
      RegsAfter k sh d (fun l => Spec.loaded sx size.bytes (Spec.binNat s b (p l) size.bytes)) ∧
      LanesAfter k sh (fun _ x => x) (fun _ x => shifted k none x) := by
  obtain ⟨hexec, hu, hd⟩ := exec_of_binLoads hi hw s
  have hports := portsOnly_usePorts s b ((placed k p).map (·.2)) size.bytes
  generalize hv : s.usePorts b ((placed k p).map (·.2)) size.bytes = v at hports
  have hsheaf : v.sheaf? k.sid = some k.sh := (sheaf_of_portsOnly hports _).trans (issues_sheaf h)
  have hbody : binLoad s k d b a size off sx = .ok {
      st := v.setSheaf k.sid (groupSheaf k d fun l => Spec.loaded sx size.bytes (Spec.binNat s b (p l) size.bytes)) } := by
    simp only [binLoad, binTargets_of_binsAt hp, hv, modSheaf_some _ _ _ _ hsheaf, groupSheaf]
    simp only [placed, List.foldl_map, loadWords_eq_loaded sx size (length_binBytes ..), natOfBytes_binBytes]
  obtain ⟨sh, hsh, hafter⟩ := issue_groupIn (body := fun k => binLoad s k d b a size off sx) h hu hd hsheaf hbody
  exact ⟨_, v, sh, hexec.trans (congrArg Host.Outcome.next hsh), rfl, hports, hafter⟩

/-! ### Writes one after another -/

/-- A sequence of updates, each of which keeps `P` and leaves an observation as it is. -/
theorem foldl_keeps {σ α β : Type} {f : σ → α → σ} (P : σ → Prop) (obs : σ → β) (l : List α)
    (h : ∀ s, ∀ x ∈ l, P s → P (f s x) ∧ obs (f s x) = obs s) : ∀ s, P s → P (l.foldl f s) ∧ obs (l.foldl f s) = obs s := by
  induction l with
  | nil => exact fun s hs => ⟨hs, rfl⟩
  | cons x l ih =>
    intro s hs
    obtain ⟨hP, hobs⟩ := h s x List.mem_cons_self hs
    obtain ⟨hP', hobs'⟩ := ih (fun s y hy => h s y (List.mem_cons_of_mem _ hy)) _ hP
    exact ⟨hP', hobs'.trans hobs⟩

/-- A write of some bytes from an offset of a stook's bin on. -/
structure BinWr where
  uid : Nat
  off : Nat
  bytes : List Byte
/-- Whether a write reaches a byte. -/
def BinWr.At (w : BinWr) (x o : Nat) : Prop := w.uid = x ∧ w.off ≤ o ∧ o < w.off + w.bytes.length
/-- Writes to one bin, in their order. -/
def writeAll (b : BinId) (s : State) (ws : List BinWr) : State := ws.foldl (fun s w => s.binWrite w.uid b w.off w.bytes) s

theorem stook_of_binsOnly {s u : State} (h : Spec.BinsOnly s u) {x : Nat} (hx : (s.stook? x).isSome) : (u.stook? x).isSome := by
  obtain ⟨st, hst⟩ := Option.isSome_iff_exists.mp hx
  obtain ⟨st', hst', -⟩ := h.stooks x st hst
  exact Option.isSome_iff_exists.mpr ⟨st', hst'⟩

/-- One more write where only bins have changed so far. -/
theorem binsOnly_binWrite {s u : State} (hu : Spec.BinsOnly s u) {w : BinWr} (hw : (s.stook? w.uid).isSome) (b : BinId) :
    Spec.BinsOnly s (u.binWrite w.uid b w.off w.bytes) ∧
      (∀ x o, w.At x o → Spec.binByte (u.binWrite w.uid b w.off w.bytes) b x o = w.bytes.getD (o - w.off) 0) ∧
      ∀ bin x o, (bin = b → ¬ w.At x o) →
        Spec.binByte (u.binWrite w.uid b w.off w.bytes) bin x o = Spec.binByte u bin x o := by
  obtain ⟨st, hst⟩ := Option.isSome_iff_exists.mp (stook_of_binsOnly hu hw)
  refine ⟨binsOnly_trans hu (binWrite_effect hst b w.off w.bytes).1, fun x o hat => ?_, fun bin x o hfar => ?_⟩
  · exact (binByte_binWrite hst b w.off w.bytes b x o).trans (if_pos ⟨hat.1.symm, rfl, hat.2⟩)
  · refine (binByte_binWrite hst b w.off w.bytes bin x o).trans (if_neg ?_)
    rintro ⟨hx, hbin, hrange⟩
    exact hfar hbin ⟨hx.symm, hrange⟩

section
variable {s : State} {b : BinId} {ws : List BinWr} (hst : ∀ w ∈ ws, (s.stook? w.uid).isSome)
include hst

theorem writeAll_binsOnly : Spec.BinsOnly s (writeAll b s ws) :=
  List.foldlRecOn ws _ (binsOnly_refl s) fun _ hu w hw => (binsOnly_binWrite hu (hst w hw) b).1

/-- A byte that no write reaches stays. -/
theorem binByte_writeAll_far {bin : BinId} {x o : Nat} (hfar : bin = b → ∀ w ∈ ws, ¬ w.At x o) :
    Spec.binByte (writeAll b s ws) bin x o = Spec.binByte s bin x o := by
  refine (foldl_keeps (Spec.BinsOnly s) (Spec.binByte · bin x o) ws (fun u w hw hu => ?_) s (binsOnly_refl s)).2
  obtain ⟨honly, -, hkeep⟩ := binsOnly_binWrite hu (hst w hw) b
  exact ⟨honly, hkeep bin x o fun hbin => hfar hbin w hw⟩

end

/-- A byte holds what the last write that reaches it writes. -/
theorem binByte_writeAll_last {s : State} {b : BinId} {pre post : List BinWr} {w : BinWr}
    (hst : ∀ w' ∈ pre ++ w :: post, (s.stook? w'.uid).isSome) {x o : Nat} (hat : w.At x o) (hlast : ∀ w' ∈ post, ¬ w'.At x o) :
    Spec.binByte (writeAll b s (pre ++ w :: post)) b x o = w.bytes.getD (o - w.off) 0 := by
  have hpre : Spec.BinsOnly s (writeAll b s pre) := writeAll_binsOnly fun w' hw' => hst w' (List.mem_append_left _ hw')
  obtain ⟨honly, hwritten, -⟩ := binsOnly_binWrite hpre (hst w (List.mem_append_right _ List.mem_cons_self)) b
  rw [writeAll, List.foldl_append, List.foldl_cons, ← writeAll, ← writeAll, binByte_writeAll_far _ fun _ => hlast, hwritten x o hat]
  exact fun w' hw' => stook_of_binsOnly honly (hst w' (List.mem_append_right _ (List.mem_cons_of_mem _ hw')))

/-- A W-bin or a C-bin holds no barrier words. -/
theorem writeAll_sheaves (b : BinId) (hb : b ≠ .a) (ws : List BinWr) (s : State) : (writeAll b s ws).sheaves = s.sheaves := by
  refine (foldl_keeps (fun _ => True) State.sheaves ws (fun u w _ _ => ⟨trivial, ?_⟩) s trivial).2
  cases b with
  | a => exact absurd rfl hb
  | w | c => exact modStook_sheaves _ _ _

/-! ### Stores (09 R159) -/

theorem length_bytesOfWords (ws : List Word) : (bytesOfWords ws).length = 4 * ws.length := by
  induction ws with
  | nil => rfl
  | cons w ws ih => simp only [bytesOfWords, List.length_cons, ih]; omega

theorem getD_bytesOfWords (ws : List Word) : ∀ j, (bytesOfWords ws).getD j 0 = (ws.getD (j / 4) 0).extractLsb' (8 * (j % 4)) 8 := by
  induction ws with
  | nil => intro j; exact BitVec.extractLsb'_zero.symm
  | cons w ws ih =>
    intro j
    match j with
    | 0 | 1 | 2 | 3 => rfl
    | j + 4 =>
      rw [Nat.add_div_right j (by decide), Nat.add_mod_right, List.getD_cons_succ, ← ih]
      rfl

/-- The write of a lane of a store. -/
def storeOf (k : Ctx) (dat : Reg) (size : Size) (p : Nat → Nat × Nat) (l : Nat) : BinWr :=
  ⟨(p l).1, (p l).2, (bytesOfWords ((List.range size.regs).map (fun j => k.opB dat l j))).take size.bytes⟩

section
variable (k : Ctx) (dat : Reg) (size : Size) (p : Nat → Nat × Nat) (l : Nat)

theorem length_storeOf : (storeOf k dat size p l).bytes.length = size.bytes := by
  rw [storeOf, List.length_take, length_bytesOfWords, List.length_map, List.length_range]
  cases size <;> rfl

theorem getD_storeOf {j : Nat} (hj : j < size.bytes) : (storeOf k dat size p l).bytes.getD j 0 = Spec.groupByte k dat l j := by
  have hreg : j / 4 < size.regs := by cases size <;> simp only [Size.bytes, Size.regs] at hj ⊢ <;> omega
  rw [storeOf, List.getD_eq_getElem?_getD, List.getElem?_take_of_lt hj, ← List.getD_eq_getElem?_getD, getD_bytesOfWords,
    List.getD_eq_getElem?_getD, List.getElem?_map, List.getElem?_range hreg]
  rfl

end

/-- The stores of the lanes of E, in their order. -/
def storesOf (k : Ctx) (dat : Reg) (size : Size) (p : Nat → Nat × Nat) : List BinWr := (lanesOf k.e).map (storeOf k dat size p)

theorem binStore_eq {s : State} {k : Ctx} {b : BinId} {a : Reg} (dat : Reg) {size : Size} {off : BitVec 15} {p : Nat → Nat × Nat}
    (hp : Spec.BinsAt s k b a off size.bytes p) : binStore s k b a dat size off =
      .ok { st := writeAll b (s.usePorts b ((placed k p).map (·.2)) size.bytes) (storesOf k dat size p) } := by
  simp only [binStore, binTargets_of_binsAt hp, writeAll, storesOf, List.foldl_map]
  simp only [placed, List.foldl_map, storeOf]

/-- The lanes of a set before and after one of them. -/
theorem lanesOf_split {m : LaneSet} {l : Nat} (h : m.getLsbD l = true) :
    ∃ pre post, lanesOf m = pre ++ l :: post ∧ (∀ j ∈ pre, j < l) ∧ ∀ j ∈ post, l < j ∧ m.getLsbD j = true := by
  obtain ⟨pre, post, hsplit⟩ := List.append_of_mem ((mem_lanesOf m l).mpr h)
  have hsorted : (lanesOf m).Pairwise (· < ·) := List.Pairwise.filter _ List.pairwise_lt_range
  rw [hsplit, List.pairwise_append, List.pairwise_cons] at hsorted
  obtain ⟨-, ⟨hpost, -⟩, hpre⟩ := hsorted
  refine ⟨pre, post, hsplit, fun j hj => hpre j hj l List.mem_cons_self, fun j hj => ⟨hpost j hj, (mem_lanesOf m j).mp ?_⟩⟩
  rw [hsplit]
  exact List.mem_append_right _ (List.mem_cons_of_mem _ hj)

/-- 09 R159: the bytes that a bin store leaves. -/
theorem binStore_effect {s : State} {k : Ctx} {b : BinId} {a dat : Reg} {size : Size} {off : BitVec 15} {p : Nat → Nat × Nat}
    (hp : Spec.BinsAt s k b a off size.bytes p) :
    ∃ u, binStore s k b a dat size off = .ok { st := u } ∧ Spec.BinsOnly s u ∧ (b ≠ .a → u.sheaves = s.sheaves) ∧
      (∀ l o, k.e.getLsbD l = true → (p l).2 ≤ o → o < (p l).2 + size.bytes →
        (∀ j, l < j → k.e.getLsbD j = true → (p j).1 = (p l).1 → ¬((p j).2 ≤ o ∧ o < (p j).2 + size.bytes)) →
        Spec.binByte u b (p l).1 o = Spec.groupByte k dat l (o - (p l).2)) ∧
      (∀ bin x o, (bin = b → ∀ l, k.e.getLsbD l = true → (p l).1 = x → ¬((p l).2 ≤ o ∧ o < (p l).2 + size.bytes)) →
        Spec.binByte u bin x o = Spec.binByte s bin x o) := by
  have hports := portsOnly_usePorts s b ((placed k p).map (·.2)) size.bytes
  have hbody := binStore_eq dat hp
  generalize s.usePorts b ((placed k p).map (·.2)) size.bytes = v at hports hbody
  have hst {l : Nat} (hl : k.e.getLsbD l = true) : (v.stook? (storeOf k dat size p l).uid).isSome :=
    stook_of_binsOnly (binsOnly_of_portsOnly hports) (stook_of_binsAt hp hl)
  have hall : ∀ w ∈ storesOf k dat size p, (v.stook? w.uid).isSome := by
    intro w hw
    obtain ⟨l, hl, rfl⟩ := List.mem_map.mp hw
    exact hst ((mem_lanesOf _ _).mp hl)
  have hat (l x o : Nat) : (storeOf k dat size p l).At x o ↔ (p l).1 = x ∧ (p l).2 ≤ o ∧ o < (p l).2 + size.bytes := by
    rw [BinWr.At, length_storeOf]; rfl
  refine ⟨_, hbody, binsOnly_trans (binsOnly_of_portsOnly hports) (writeAll_binsOnly hall),
    fun hb => (writeAll_sheaves b hb _ v).trans (sheaves_of_portsOnly hports), ?_, ?_⟩
  · intro l o hl hlo hhi hlast
    obtain ⟨pre, post, hsplit, -, hpost⟩ := lanesOf_split hl
    rw [storesOf, hsplit, List.map_append, List.map_cons] at hall ⊢
    rw [binByte_writeAll_last hall ((hat l _ o).mpr ⟨rfl, hlo, hhi⟩), getD_storeOf]
    · rfl
    · exact Nat.sub_lt_left_of_lt_add hlo hhi
    · intro w hw hreach
      obtain ⟨j, hj, rfl⟩ := List.mem_map.mp hw
      obtain ⟨hlt, he⟩ := hpost j hj
      obtain ⟨hplace, hrange⟩ := (hat j _ o).mp hreach
      exact hlast j hlt he hplace hrange
  · intro bin x o hfar
    rw [binByte_writeAll_far hall fun hbin w hw hreach => ?_, binByte_of_stooks (stooks_of_portsOnly hports)]
    obtain ⟨j, hj, rfl⟩ := List.mem_map.mp hw
    obtain ⟨hplace, hrange⟩ := (hat j x o).mp hreach
    exact hfar hbin j ((mem_lanesOf _ _).mp hj) hplace hrange

end Sys2Proof.Laws

namespace Sys2Proof.Proofs
open Sys2Proof Sys2Proof.Machine Sys2Proof.Safety Sys2Proof.Laws

/-- Settles O19: a load writes the bytes of each lane's range, and of the stores the last that reaches a byte, that of the
highest lane, decides it. -/
theorem binLoadsAndStores : Obligations.BinLoadsAndStores := by
  unfold Obligations.BinLoadsAndStores
  refine ⟨fun i b d a size off sx s k p hi hw h hp => exec_binLoad hi hw h hp, ?_⟩
  intro i b a dat size off s k p hi _ h hp
  obtain ⟨u, hbody, heffect⟩ := binStore_effect (dat := dat) hp
  exact ⟨u, ⟨_, exec_of_binStores hi s, issue_leaves i s u k (fun k => binStore s k b a dat size off) h hbody⟩, heffect⟩
end Sys2Proof.Proofs
end
section
/-! ## Updates of the words of an A-bin, one word after another (09 R161, R166) -/

namespace Sys2Proof.Laws
open Sys2Proof Sys2Proof.Machine Sys2Proof.Safety

/-! ### The lanes at each word -/

/-- The word of a group of lanes: its stook and its offset. -/
def place (g : Nat × Nat × List Nat) : Nat × Nat := (g.1, g.2.1)
/-- The lanes of a list that name a word. -/
def lanesIn (ts : List (Nat × Nat × Nat)) (x : Nat × Nat) : List Nat := (ts.filter (fun t => t.2 == x)).map (·.1)

/-- A list of groups is that of the lanes of a list by their words. -/
structure Grouped (ts : List (Nat × Nat × Nat)) (gs : List (Nat × Nat × List Nat)) : Prop where
  distinct : gs.Pairwise (fun g h => place g ≠ place h)
  lanes : ∀ g, g ∈ gs ↔ g.2.2 = lanesIn ts (place g) ∧ g.2.2 ≠ []

theorem lanesIn_cons (t : Nat × Nat × Nat) (ts : List (Nat × Nat × Nat)) (x : Nat × Nat) :
    lanesIn (t :: ts) x = if t.2 = x then t.1 :: lanesIn ts x else lanesIn ts x := by
  rw [lanesIn, List.filter_cons]
  by_cases h : t.2 = x
  · rw [if_pos h, if_pos (beq_iff_eq.mpr h)]; rfl
  · rw [if_neg h, if_neg (fun hb => h (beq_iff_eq.mp hb))]; rfl

/-- The group of the first lane comes first, and takes the lanes of the same word with it. -/
theorem groupsOf_cons {ts : List (Nat × Nat × Nat)} (h : Grouped ts (groupsOf ts)) (l : Nat) (x : Nat × Nat) :
    groupsOf ((l, x) :: ts) = (x.1, x.2, l :: lanesIn ts x) :: (groupsOf ts).filter (fun g => decide (place g ≠ x)) := by
  have hplace (g : Nat × Nat × List Nat) : (g.1 = x.1 ∧ g.2.1 = x.2) ↔ place g = x := (Prod.ext_iff (x := place g) (y := x)).symm
  have hfilter : (fun g : Nat × Nat × List Nat => !decide (g.1 = x.1 ∧ g.2.1 = x.2)) = fun g => decide (place g ≠ x) := by
    funext g
    rw [decide_eq_decide.mpr (hplace g), decide_not]
  obtain ⟨u, o⟩ := x
  rw [groupsOf]
  dsimp only
  split
  · next g hg =>
    have hkey := List.find?_some hg
    have hx : place g = (u, o) := (hplace g).mp (of_decide_eq_true hkey)
    have hlanes := ((h.lanes g).mp (List.mem_of_find?_eq_some hg)).1
    rw [hx] at hlanes
    rw [hlanes, ← hfilter]
  · next hnone =>
    have hout (g) (hg : g ∈ groupsOf ts) : place g ≠ (u, o) := fun hx =>
      List.find?_eq_none.mp hnone g hg (decide_eq_true ((hplace g).mpr hx))
    have hempty : lanesIn ts (u, o) = [] := by
      by_contra hne
      exact hout _ ((h.lanes (u, o, lanesIn ts (u, o))).mpr ⟨rfl, hne⟩) rfl
    rw [hempty, List.filter_eq_self.mpr fun g hg => decide_eq_true (hout g hg)]

theorem groupsOf_grouped (ts : List (Nat × Nat × Nat)) : Grouped ts (groupsOf ts) := by
  induction ts with
  | nil => exact ⟨List.Pairwise.nil, fun g => ⟨nofun, fun hg => absurd hg.1 hg.2⟩⟩
  | cons t ts ih =>
    obtain ⟨l, x⟩ := t
    rw [groupsOf_cons ih]
    refine ⟨List.pairwise_cons.mpr ⟨fun g hg => ?_, ih.distinct.filter _⟩, fun g => ?_⟩
    · exact (of_decide_eq_true (List.mem_filter.mp hg).2).symm
    · rw [List.mem_cons, List.mem_filter, ih.lanes, decide_eq_true_iff, lanesIn_cons]
      by_cases hx : x = place g
      · subst hx
        rw [if_pos rfl]
        refine ⟨?_, fun hg => .inl (congrArg (fun ls => (g.1, g.2.1, ls)) hg.1)⟩
        rintro (hg | hg)
        · exact ⟨congrArg (·.2.2) hg, by rw [hg]; exact List.cons_ne_nil _ _⟩
        · exact absurd rfl hg.2
      · rw [if_neg hx]
        refine ⟨?_, fun hg => .inr ⟨hg, Ne.symm hx⟩⟩
        rintro (hg | hg)
        · exact absurd (congrArg place hg).symm hx
        · exact hg.1

theorem lanesIn_placed (k : Ctx) (p : Nat → Nat × Nat) (x : Nat × Nat) : lanesIn (placed k p) x = Spec.lanesAt k p x := by
  rw [lanesIn, placed, List.filter_map, List.map_map]
  exact List.map_id _

theorem mem_lanesAt {k : Ctx} {p : Nat → Nat × Nat} {x : Nat × Nat} {l : Nat} :
    l ∈ Spec.lanesAt k p x ↔ k.e.getLsbD l = true ∧ p l = x := by
  rw [Spec.lanesAt, List.mem_filter, mem_lanesOf, beq_iff_eq]

theorem sorted_lanesAt (k : Ctx) (p : Nat → Nat × Nat) (x : Nat × Nat) : (Spec.lanesAt k p x).Pairwise (· < ·) :=
  (List.Pairwise.filter _ List.pairwise_lt_range).filter _

/-- A group of the lanes of E. -/
theorem mem_groups_placed {k : Ctx} {p : Nat → Nat × Nat} {g : Nat × Nat × List Nat} :
    g ∈ groupsOf (placed k p) ↔ g.2.2 = Spec.lanesAt k p (place g) ∧ g.2.2 ≠ [] := by
  rw [(groupsOf_grouped _).lanes, lanesIn_placed]

theorem group_mem {k : Ctx} (p : Nat → Nat × Nat) {l : Nat} (hl : k.e.getLsbD l = true) :
    ((p l).1, (p l).2, Spec.lanesAt k p (p l)) ∈ groupsOf (placed k p) :=
  mem_groups_placed.mpr ⟨rfl, List.ne_nil_of_mem (mem_lanesAt.mpr ⟨hl, rfl⟩)⟩

/-- The group of a lane of E, and the groups of other words before and after it. -/
theorem groups_split {k : Ctx} (p : Nat → Nat × Nat) {l : Nat} (hl : k.e.getLsbD l = true) :
    ∃ pre post, groupsOf (placed k p) = pre ++ ((p l).1, (p l).2, Spec.lanesAt k p (p l)) :: post ∧
      (∀ g ∈ pre, g ∈ groupsOf (placed k p) ∧ place g ≠ p l) ∧ ∀ g ∈ post, g ∈ groupsOf (placed k p) ∧ place g ≠ p l := by
  obtain ⟨pre, post, hsplit⟩ := List.append_of_mem (group_mem p hl)
  have hdistinct := (groupsOf_grouped (placed k p)).distinct
  rw [hsplit, List.pairwise_append, List.pairwise_cons] at hdistinct
  obtain ⟨-, ⟨hpost, -⟩, hpre⟩ := hdistinct
  refine ⟨pre, post, hsplit, fun g hg => ⟨?_, hpre g hg _ List.mem_cons_self⟩, fun g hg => ⟨?_, (hpost g hg).symm⟩⟩
  · exact hsplit ▸ List.mem_append_left _ hg
  · exact hsplit ▸ List.mem_append_right _ (List.mem_cons_of_mem _ hg)

/-- A group of lanes of E holds a lane, whose place is its word. -/
theorem lane_of_group {k : Ctx} {p : Nat → Nat × Nat} {g : Nat × Nat × List Nat} (hg : g ∈ groupsOf (placed k p)) :
    ∃ l, k.e.getLsbD l = true ∧ (p l).1 = g.1 ∧ (p l).2 = g.2.1 := by
  obtain ⟨hls, hne⟩ := mem_groups_placed.mp hg
  obtain ⟨l, hl⟩ := List.exists_mem_of_ne_nil _ hne
  obtain ⟨he, hp⟩ := mem_lanesAt.mp (hls ▸ hl)
  exact ⟨l, he, congrArg Prod.fst hp, congrArg Prod.snd hp⟩

theorem not_mem_other_group {k : Ctx} {p : Nat → Nat × Nat} {g : Nat × Nat × List Nat} (hg : g ∈ groupsOf (placed k p)) {l : Nat}
    (hne : place g ≠ p l) : l ∉ g.2.2 := by
  rw [(mem_groups_placed.mp hg).1]
  exact fun hmem => hne (mem_lanesAt.mp hmem).2.symm

/-- Two words of n bytes at multiples of n share no byte unless they are one. -/
theorem eq_of_mem_words {n x y o : Nat} (hx : x % n = 0) (hy : y % n = 0) (hxo : x ≤ o ∧ o < x + n) (hyo : y ≤ o ∧ o < y + n) :
    x = y := by
  have hbase {z : Nat} (hz : z % n = 0) (hzo : z ≤ o ∧ o < z + n) : o - o % n = z := by
    obtain ⟨r, rfl⟩ := Nat.exists_eq_add_of_le hzo.1
    rw [Nat.add_mod, hz, Nat.zero_add, Nat.mod_mod, Nat.mod_eq_of_lt (by omega), Nat.add_sub_cancel]
  exact (hbase hx hxo).symm.trans (hbase hy hyo)

/-- The groups of other words reach no byte of a lane's word. -/
theorem other_group_far {k : Ctx} {p : Nat → Nat × Nat} {n : Nat} (haligned : ∀ l, k.e.getLsbD l = true → (p l).2 % n = 0)
    {g : Nat × Nat × List Nat} (hg : g ∈ groupsOf (placed k p)) {l : Nat} (hl : k.e.getLsbD l = true) (hne : place g ≠ p l) {o : Nat}
    (ho : (p l).2 ≤ o ∧ o < (p l).2 + n) {bin : BinId} : ¬((p l).1 = g.1 ∧ bin = .a ∧ g.2.1 ≤ o ∧ o < g.2.1 + n) := by
  rintro ⟨hx, -, hrange⟩
  obtain ⟨j, hj, -, hoff⟩ := lane_of_group hg
  have hg2 : g.2.1 % n = 0 := hoff ▸ haligned j hj
  exact hne (Prod.ext hx.symm (eq_of_mem_words hg2 (haligned l hl) hrange ho))

/-! ### One register of one lane -/

/-- Register r of a lane to which a group of words is written, or none. -/
def regOf (d : Reg) (ws : Option (List Word)) (r : Nat) (old : Word) : Word :=
  match d, ws with
  | .v n, some ws => if n.val ≤ r ∧ r < n.val + ws.length then ws.getD (r - n.val) 0 else old
  | _, _ => old

theorem regOf_none (d : Reg) (r : Nat) (old : Word) : regOf d none r old = old := by cases d <;> rfl

theorem regsAfter_of_regOf {k : Ctx} {sh : Sheaf} {d : Reg} {f : Nat → List Word}
    (h : ∀ r l, l < 64 → sh.vreg r l = regOf d (if k.e.getLsbD l then some (f l) else none) r (k.sh.vreg r l)) :
    RegsAfter k sh d f := by
  intro r l hl
  rw [h r l hl]
  cases d with
  | v n => cases k.e.getLsbD l <;> simp [regOf]
  | s n | z | li | b n => rfl

/-- Each lane of a list writes a group. -/
def writeVals (d : Reg) (vals : List (Nat × List Word)) (sh : Sheaf) : Sheaf :=
  vals.foldl (fun sh v => sh.writeGroup d v.1 0 v.2) sh

theorem vreg_writeVals {d : Reg} (hd : d.isLaneDst = true) {vals : List (Nat × List Word)} (hb : ∀ v ∈ vals, v.1 < 64)
    (hn : (vals.map (·.1)).Nodup) (sh : Sheaf) (r : Nat) {l : Nat} (hl : l < 64) :
    (writeVals d vals sh).vreg r l = regOf d (vals.lookup l) r (sh.vreg r l) := by
  cases d with
  | v n =>
    rw [writeVals, vreg_writeGroups n vals hb hn sh r l hl]
    cases vals.lookup l <;> rfl
  | z => rw [writeVals, foldl_writeGroup_z]; rfl
  | s n | li | b n => cases hd

theorem lanes_writeVals {d : Reg} (hd : d.isLaneDst = true) (vals : List (Nat × List Word)) (sh : Sheaf) :
    (writeVals d vals sh).lanes = sh.lanes := by
  have h := congrArg Sheaf.lanes (lanes_writeGroups d hd vals sh)
  exact h

/-! ### One word -/

/-- An update of a word of n bytes by the lanes at it: the word that it leaves, and what it gives to each of them, from the
bytes before and the lanes in ascending order. -/
structure WordOp where
  n : Nat
  word : List Byte → List Nat → List Byte
  gives : List Byte → List Nat → List (Nat × List Word)
  length_word : ∀ old ls, (word old ls).length = n
  lanes_gives : ∀ old ls, (gives old ls).map (·.1) = ls

/-- The update of the word of a group of lanes. -/
def WordOp.step (w : WordOp) (sid : Nat) (d : Reg) (s : State) (g : Nat × Nat × List Nat) : State :=
  (s.binWrite g.1 .a g.2.1 (w.word (s.binBytes g.1 .a g.2.1 w.n) g.2.2)).modSheaf sid
    (writeVals d (w.gives (s.binBytes g.1 .a g.2.1 w.n) g.2.2))
/-- The updates of the words that the lanes of a list name. -/
def WordOp.run (w : WordOp) (sid : Nat) (d : Reg) (s : State) (ts : List (Nat × Nat × Nat)) : State :=
  (groupsOf ts).foldl (w.step sid d) s

/-- Memory, the stooks that exist and the lanes of a sheaf stay. -/
structure Around (sid : Nat) (s u : State) : Prop where
  mem : u.mem = s.mem
  stooks : ∀ x, (s.stook? x).isSome → (u.stook? x).isSome
  lanes : (u.sheaf? sid).map (·.lanes) = (s.sheaf? sid).map (·.lanes)

theorem around_refl (sid : Nat) (s : State) : Around sid s s := ⟨rfl, fun _ h => h, rfl⟩
theorem around_trans {sid : Nat} {s u v : State} (h : Around sid s u) (h' : Around sid u v) : Around sid s v :=
  ⟨h'.mem.trans h.mem, fun x hx => h'.stooks x (h.stooks x hx), h'.lanes.trans h.lanes⟩

/-- A register of a lane of a sheaf. -/
def regIn (sid r l : Nat) (s : State) : Option Word := (s.sheaf? sid).map (fun sh => sh.vreg r l)

theorem mem_of_binsOnly {s u : State} (h : Spec.BinsOnly s u) : u.mem = s.mem := by
  have hfield := congrArg State.mem h.rest
  exact hfield

section
variable (w : WordOp) (sid : Nat) {d : Reg} (hd : d.isLaneDst = true) {s : State} {sh : Sheaf} (hsh : s.sheaf? sid = some sh)
  {g : Nat × Nat × List Nat} (hst : (s.stook? g.1).isSome) (hlt : ∀ l ∈ g.2.2, l < 64) (hnodup : g.2.2.Nodup)
include hst

theorem WordOp.binByte_step (bin : BinId) (x o : Nat) : Spec.binByte (w.step sid d s g) bin x o =
    if x = g.1 ∧ bin = .a ∧ g.2.1 ≤ o ∧ o < g.2.1 + w.n then (w.word (s.binBytes g.1 .a g.2.1 w.n) g.2.2).getD (o - g.2.1) 0
    else Spec.binByte s bin x o := by
  obtain ⟨st, hst⟩ := Option.isSome_iff_exists.mp hst
  rw [WordOp.step, binByte_of_stooks (modSheaf_stooks _ _ _), binByte_binWrite hst, w.length_word]

include hd hsh

theorem WordOp.step_around : Around sid s (w.step sid d s g) := by
  obtain ⟨st, hst⟩ := Option.isSome_iff_exists.mp hst
  have honly := (binWrite_effect hst .a g.2.1 (w.word (s.binBytes g.1 .a g.2.1 w.n) g.2.2)).1
  obtain ⟨sh', hsh', hframe, -⟩ := honly.sheaves sid sh hsh
  refine ⟨(modSheaf_mem _ _ _).trans (mem_of_binsOnly honly), fun x hx => ?_, ?_⟩
  · rw [WordOp.step, State.stook?, modSheaf_stooks]
    exact stook_of_binsOnly honly hx
  · have hlanes := congrArg Sheaf.lanes hframe
    rw [WordOp.step, sheaf_modSheaf, if_pos rfl, hsh', hsh, Option.map_map]
    exact congrArg some ((lanes_writeVals hd _ sh').trans hlanes)

include hlt hnodup

theorem WordOp.regIn_step (r : Nat) {l : Nat} (hl : l < 64) : regIn sid r l (w.step sid d s g) =
    some (regOf d ((w.gives (s.binBytes g.1 .a g.2.1 w.n) g.2.2).lookup l) r (sh.vreg r l)) := by
  obtain ⟨st, hst⟩ := Option.isSome_iff_exists.mp hst
  obtain ⟨sh', hsh', hframe, -⟩ := (binWrite_effect hst .a g.2.1 (w.word (s.binBytes g.1 .a g.2.1 w.n) g.2.2)).1.sheaves sid sh hsh
  have hregs := congrArg (fun y : Sheaf => y.vreg r l) hframe
  have hlanes := w.lanes_gives (s.binBytes g.1 .a g.2.1 w.n) g.2.2
  rw [regIn, WordOp.step, sheaf_modSheaf, if_pos rfl, hsh', Option.map_map]
  refine congrArg some ((vreg_writeVals hd (fun v hv => hlt _ ?_) (by rw [hlanes]; exact hnodup) sh' r hl).trans (congrArg _ hregs))
  rw [← hlanes]
  exact List.mem_map_of_mem hv

end

/-! ### All the words that the lanes of E name -/

theorem sheaf_of_around {sid : Nat} {s u : State} {sh : Sheaf} (h : Around sid s u) (hsh : s.sheaf? sid = some sh) :
    ∃ shu, u.sheaf? sid = some shu ∧ shu.lanes = sh.lanes := by
  have hlanes := h.lanes
  rw [hsh] at hlanes
  exact Option.map_eq_some_iff.mp hlanes

/-- The bytes of a word that has just been written. -/
theorem binBytes_eq {u : State} {x : Nat} {b : BinId} {o n : Nat} {bs : List Byte} (hlen : bs.length = n)
    (h : ∀ j, o ≤ j → j < o + n → Spec.binByte u b x j = bs.getD (j - o) 0) : u.binBytes x b o n = bs := by
  subst hlen
  rw [binBytes_eq_map]
  refine List.ext_getElem (by rw [List.length_map, List.length_range]) fun j hj hj' => ?_
  rw [List.getElem_map, List.getElem_range, h _ (Nat.le_add_right o j) (Nat.add_lt_add_left hj' o), Nat.add_sub_cancel_left]
  exact List.getD_eq_getElem _ _ hj'

section
variable (w : WordOp) {sid : Nat} {d : Reg} (hd : d.isLaneDst = true) {s : State} {sh : Sheaf} (hsh : s.sheaf? sid = some sh)
  {k : Ctx} {p : Nat → Nat × Nat} (hst : ∀ l, k.e.getLsbD l = true → (s.stook? (p l).1).isSome)
  {gs : List (Nat × Nat × List Nat)} (hgs : ∀ g ∈ gs, g ∈ groupsOf (placed k p))
include hd hsh hst hgs

theorem WordOp.steps_around {u : State} (hu : Around sid s u) {g : Nat × Nat × List Nat} (hg : g ∈ gs) :
    Around sid s (w.step sid d u g) ∧
      (∀ bin x o, Spec.binByte (w.step sid d u g) bin x o =
        if x = g.1 ∧ bin = .a ∧ g.2.1 ≤ o ∧ o < g.2.1 + w.n then (w.word (u.binBytes g.1 .a g.2.1 w.n) g.2.2).getD (o - g.2.1) 0
        else Spec.binByte u bin x o) ∧
      ∀ r l, l < 64 → regIn sid r l (w.step sid d u g) =
        (regIn sid r l u).map (regOf d ((w.gives (u.binBytes g.1 .a g.2.1 w.n) g.2.2).lookup l) r) := by
  obtain ⟨hls, -⟩ := mem_groups_placed.mp (hgs g hg)
  obtain ⟨shu, hshu, -⟩ := sheaf_of_around hu hsh
  obtain ⟨j, hj, hg1, -⟩ := lane_of_group (hgs g hg)
  have hstook : (u.stook? g.1).isSome := hg1 ▸ hu.stooks _ (hst j hj)
  refine ⟨around_trans hu (w.step_around sid hd hshu hstook), w.binByte_step sid hstook, fun r l hl => ?_⟩
  have hlt : ∀ j ∈ g.2.2, j < 64 := fun j hj => lt_of_getLsbD (mem_lanesAt.mp (hls ▸ hj)).1
  have hnodup : g.2.2.Nodup := hls ▸ (sorted_lanesAt k p _).imp Nat.ne_of_lt
  rw [w.regIn_step sid hd hshu hstook hlt hnodup r hl, regIn, hshu]
  rfl

/-- Groups of other words leave a byte. -/
theorem WordOp.foldl_byte {bin : BinId} {x o : Nat} (hfar : ∀ g ∈ gs, ¬(x = g.1 ∧ bin = .a ∧ g.2.1 ≤ o ∧ o < g.2.1 + w.n))
    {u : State} (hu : Around sid s u) :
    Around sid s (gs.foldl (w.step sid d) u) ∧ Spec.binByte (gs.foldl (w.step sid d) u) bin x o = Spec.binByte u bin x o := by
  refine foldl_keeps (Around sid s) (Spec.binByte · bin x o) gs (fun v g hg hv => ?_) u hu
  obtain ⟨haround, hbyte, -⟩ := w.steps_around hd hsh hst hgs hv hg
  exact ⟨haround, (hbyte bin x o).trans (if_neg (hfar g hg))⟩

/-- Groups without a lane leave its registers. -/
theorem WordOp.foldl_reg (r : Nat) {l : Nat} (hl : l < 64) (hfar : ∀ g ∈ gs, l ∉ g.2.2) {u : State} (hu : Around sid s u) :
    Around sid s (gs.foldl (w.step sid d) u) ∧ regIn sid r l (gs.foldl (w.step sid d) u) = regIn sid r l u := by
  refine foldl_keeps (Around sid s) (regIn sid r l) gs (fun v g hg hv => ?_) u hu
  obtain ⟨haround, -, hreg⟩ := w.steps_around hd hsh hst hgs hv hg
  refine ⟨haround, (hreg r l hl).trans ?_⟩
  have hnone : (w.gives (v.binBytes g.1 .a g.2.1 w.n) g.2.2).lookup l = none := by
    refine List.lookup_eq_none_iff.mpr fun q hq => bne_iff_ne.mpr fun heq => hfar g hg ?_
    rw [heq, ← w.lanes_gives (v.binBytes g.1 .a g.2.1 w.n) g.2.2]
    exact List.mem_map_of_mem hq
  rw [hnone]
  cases regIn sid r l v with
  | none => rfl
  | some x => exact congrArg some (regOf_none d r x)

end

section
variable (w : WordOp) {sid : Nat} {d : Reg} (hd : d.isLaneDst = true) {s : State} {sh : Sheaf} (hsh : s.sheaf? sid = some sh)
  {k : Ctx} {p : Nat → Nat × Nat} (hst : ∀ l, k.e.getLsbD l = true → (s.stook? (p l).1).isSome)
include hd hsh hst

theorem WordOp.run_around : Around sid s (w.run sid d s (placed k p)) :=
  List.foldlRecOn _ _ (around_refl sid s) fun _ hu _ hg => (w.steps_around hd hsh hst (fun _ h => h) hu hg).1

/-- A byte of no lane's word stays. -/
theorem WordOp.run_far {bin : BinId} {x o : Nat}
    (hfar : bin = .a → ∀ l, k.e.getLsbD l = true → (p l).1 = x → ¬((p l).2 ≤ o ∧ o < (p l).2 + w.n)) :
    Spec.binByte (w.run sid d s (placed k p)) bin x o = Spec.binByte s bin x o := by
  refine (w.foldl_byte hd hsh hst (fun _ h => h) (fun g hg => ?_) (around_refl sid s)).2
  rintro ⟨hx, hbin, hrange⟩
  obtain ⟨l, hl, hg1, hg2⟩ := lane_of_group hg
  exact hfar hbin l hl (hg1.trans hx.symm) (hg2 ▸ hrange)

variable (haligned : ∀ l, k.e.getLsbD l = true → (p l).2 % w.n = 0)
include haligned

/-- The update of a lane's word stands between updates of other words, and sees the bytes that stood there at first. -/
theorem WordOp.run_split {l : Nat} (hl : k.e.getLsbD l = true) :
    ∃ u, ∃ post : List (Nat × Nat × List Nat), w.run sid d s (placed k p) =
        post.foldl (w.step sid d) (w.step sid d u ((p l).1, (p l).2, Spec.lanesAt k p (p l))) ∧
      (∀ g ∈ post, g ∈ groupsOf (placed k p) ∧ place g ≠ p l) ∧ Around sid s u ∧
      u.binBytes (p l).1 .a (p l).2 w.n = s.binBytes (p l).1 .a (p l).2 w.n ∧
      ∀ r, l < 64 → regIn sid r l u = some (sh.vreg r l) := by
  obtain ⟨pre, post, hsplit, hpre, hpost⟩ := groups_split p hl
  have hin : ∀ g ∈ pre, g ∈ groupsOf (placed k p) := fun g hg => (hpre g hg).1
  refine ⟨pre.foldl (w.step sid d) s, post, ?_, hpost, ?_, binBytes_congr fun o hlo hhi => ?_, fun r hl' => ?_⟩
  · rw [WordOp.run, hsplit, List.foldl_append, List.foldl_cons]
  · exact List.foldlRecOn _ _ (around_refl sid s) fun _ hu _ hg => (w.steps_around hd hsh hst hin hu hg).1
  · exact (w.foldl_byte hd hsh hst hin (fun g hg => other_group_far haligned (hin g hg) hl (hpre g hg).2 ⟨hlo, hhi⟩)
      (around_refl sid s)).2
  · refine (w.foldl_reg hd hsh hst hin r hl' (fun g hg => not_mem_other_group (hin g hg) (hpre g hg).2) (around_refl sid s)).2.trans ?_
    rw [regIn, hsh]; rfl

/-- Each word is left as its own update leaves it, from the bytes before. -/
theorem WordOp.run_word {l : Nat} (hl : k.e.getLsbD l = true) :
    (w.run sid d s (placed k p)).binBytes (p l).1 .a (p l).2 w.n =
      w.word (s.binBytes (p l).1 .a (p l).2 w.n) (Spec.lanesAt k p (p l)) := by
  obtain ⟨u, post, hrun, hpost, hu, hold, -⟩ := w.run_split hd hsh hst haligned hl
  obtain ⟨haround, hbyte, -⟩ := w.steps_around hd hsh hst (fun _ h => h) hu (group_mem p hl)
  refine binBytes_eq (w.length_word _ _) fun o hlo hhi => ?_
  rw [hrun, (w.foldl_byte hd hsh hst (fun g hg => (hpost g hg).1)
    (fun g hg => other_group_far haligned (hpost g hg).1 hl (hpost g hg).2 ⟨hlo, hhi⟩) haround).2, hbyte,
    if_pos ⟨rfl, rfl, hlo, hhi⟩, hold]

/-- Each lane of E receives what the update of its word gives it; other lanes keep their registers. -/
theorem WordOp.run_reg (r : Nat) {l : Nat} (hl : l < 64) : regIn sid r l (w.run sid d s (placed k p)) =
    some (regOf d (if k.e.getLsbD l then
      (w.gives (s.binBytes (p l).1 .a (p l).2 w.n) (Spec.lanesAt k p (p l))).lookup l else none) r (sh.vreg r l)) := by
  cases he : k.e.getLsbD l with
  | false =>
    rw [if_neg Bool.false_ne_true, regOf_none]
    refine (w.foldl_reg hd hsh hst (fun _ h => h) r hl (fun g hg hmem => ?_) (around_refl sid s)).2.trans (by rw [regIn, hsh]; rfl)
    rw [(mem_groups_placed.mp hg).1] at hmem
    exact Bool.false_ne_true (he.symm.trans (mem_lanesAt.mp hmem).1)
  | true =>
    obtain ⟨u, post, hrun, hpost, hu, hold, hregs⟩ := w.run_split hd hsh hst haligned he
    obtain ⟨haround, -, hreg⟩ := w.steps_around hd hsh hst (fun _ h => h) hu (group_mem p he)
    rw [hrun, (w.foldl_reg hd hsh hst (fun g hg => (hpost g hg).1) r hl
      (fun g hg => not_mem_other_group (hpost g hg).1 (hpost g hg).2) haround).2, hreg r l hl, hregs r hl, hold]
    rfl

end

end Sys2Proof.Laws
end
section
/-! ## Updates of bin words in order (09 R162, R168, 12 R218) -/

namespace Sys2Proof.Laws
open Sys2Proof Sys2Proof.Machine Sys2Proof.Safety

/-! ### What the updates leave -/

/-- A state with the memory and the bins of another, in which the issuing sheaf has its lanes and registers. -/
structure Same (s : State) (k : Ctx) (v : State) : Prop where
  mem : v.mem = s.mem
  stooks : v.stooks = s.stooks
  sheaf : ∃ sh, v.sheaf? k.sid = some sh ∧ sh.lanes = k.sh.lanes ∧ sh.regs = k.sh.regs

theorem same_of_portsOnly {s u v : State} {k : Ctx} (h : Same s k u) (hp : Spec.PortsOnly u v) : Same s k v where
  mem := (mem_of_portsOnly hp).trans h.mem
  stooks := (stooks_of_portsOnly hp).trans h.stooks
  sheaf := by rw [sheaf_of_portsOnly hp]; exact h.sheaf

theorem same_of_issues {i : Instr} {s : State} {k : Ctx} (h : Issues i s k) : Same s k s := ⟨rfl, rfl, k.sh, issues_sheaf h, rfl, rfl⟩

/-- Each word that the lanes of E name is left as its update leaves it, and they have what it gives; other bytes, other
registers and memory stay. -/
structure Updated (w : WordOp) (d : Reg) (k : Ctx) (p : Nat → Nat × Nat) (s u : State) (sh : Sheaf) : Prop where
  mem : u.mem = s.mem
  word : ∀ l, k.e.getLsbD l = true → u.binBytes (p l).1 .a (p l).2 w.n =
    w.word (s.binBytes (p l).1 .a (p l).2 w.n) (Spec.lanesAt k p (p l))
  far : ∀ bin x o, (bin = .a → ∀ l, k.e.getLsbD l = true → (p l).1 = x → ¬((p l).2 ≤ o ∧ o < (p l).2 + w.n)) →
    Spec.binByte u bin x o = Spec.binByte s bin x o
  here : u.sheaf? k.sid = some sh
  regs : ∀ r l, l < 64 → sh.vreg r l = regOf d (if k.e.getLsbD l then
    (w.gives (s.binBytes (p l).1 .a (p l).2 w.n) (Spec.lanesAt k p (p l))).lookup l else none) r (k.sh.vreg r l)

theorem WordOp.run_updated (w : WordOp) {d : Reg} (hd : d.isLaneDst = true) {s v : State} {k : Ctx} {p : Nat → Nat × Nat}
    (hv : Same s k v) {a : Reg} {off : BitVec 15} (hp : Spec.BinsAt s k .a a off w.n p) (hn : w.n ∣ 2 ^ 24) :
    ∃ sh, Updated w d k p s (w.run k.sid d v (placed k p)) sh ∧ sh.lanes = k.sh.lanes := by
  obtain ⟨shv, hshv, hlanes, hregs⟩ := hv.sheaf
  have hst (l) (hl : k.e.getLsbD l = true) : (v.stook? (p l).1).isSome := by
    rw [State.stook?, hv.stooks]; exact stook_of_binsAt hp hl
  have haligned (l) (hl : k.e.getLsbD l = true) : (p l).2 % w.n = 0 := aligned_of_binsAt hp hn hl
  have hbytes (x o n : Nat) : v.binBytes x .a o n = s.binBytes x .a o n := binBytes_of_stooks hv.stooks _ _ _ _
  have haround := w.run_around hd hshv hst
  obtain ⟨sh, hsh, hkept⟩ := sheaf_of_around haround hshv
  refine ⟨sh, ⟨haround.mem.trans hv.mem, fun l hl => ?_, fun bin x o hfar => ?_, hsh, fun r l hl => ?_⟩, hkept.trans hlanes⟩
  · rw [w.run_word hd hshv hst haligned hl, hbytes]
  · rw [w.run_far hd hshv hst hfar, binByte_of_stooks hv.stooks]
  · have hreg := w.run_reg hd hshv hst haligned r hl
    rw [regIn, hsh, hbytes] at hreg
    have hvreg : shv.vreg r l = k.sh.vreg r l := by rw [Sheaf.vreg, hregs]; rfl
    rw [← hvreg]
    exact Option.some.inj hreg

/-! ### The order of an update and its end -/

theorem acquire_stooks (s : State) (sid : Nat) (m : LaneSet) (sc : Scope) : (s.acquire sid m sc).stooks = s.stooks := by
  unfold State.acquire
  split <;> rfl

/-- An acquire by no lane leaves a lane as it was. -/
theorem acquired_none {sh : Sheaf} {l : Nat} {y : Lane} (h : y = sh.lane l) : Spec.Acquired sh 0 l y :=
  h.trans (if_neg (ne_true_of_eq_false BitVec.getLsbD_zero)).symm

/-- The end of an update: the collector, the acquire of its order, its flight. -/
def binEnd (sid : Nat) (f : Flight) (s : State) : State :=
  (match acqScope f.instr with
    | some sc => (s.touchRegs sid f.instr.dsts).acquire sid f.e sc
    | none => s.touchRegs sid f.instr.dsts).modSheaf sid (fun sh => sh.dropFlight f.id)

/-- The end leaves memory, the bins and the registers; an acquire clears the pending classes of its lanes (14 R249). -/
theorem binEnd_effect {sid : Nat} (f : Flight) {s : State} {sh : Sheaf} (h : s.sheaf? sid = some sh) :
    (binEnd sid f s).mem = s.mem ∧ (binEnd sid f s).stooks = s.stooks ∧
      ∃ shu, (binEnd sid f s).sheaf? sid = some shu ∧ shu.regs = sh.regs ∧
        ∀ l, Spec.Acquired sh (if (acqScope f.instr).isSome then f.e else 0) l (shu.lane l) := by
  have htouch := touchRegs_frame s sid f.instr.dsts
  have hsh : (s.touchRegs sid f.instr.dsts).sheaf? sid = some sh := by rw [htouch]; exact h
  unfold binEnd
  cases acqScope f.instr with
  | none =>
    refine ⟨?_, ?_, sh.dropFlight f.id, by rw [sheaf_modSheaf, if_pos rfl, hsh]; rfl, rfl, fun l => ?_⟩
    · rw [modSheaf_mem, htouch]
    · rw [modSheaf_stooks, htouch]
    · exact acquired_none rfl
  | some sc =>
    obtain ⟨hacq, hmem, -⟩ := acquire_effect hsh f.e sc
    refine ⟨?_, ?_, (sh.modLanes f.e fun _ l => { l with pend := .sh }).dropFlight f.id,
      by rw [sheaf_modSheaf, if_pos rfl, hacq]; rfl, ?_, fun l => ?_⟩
    · rw [modSheaf_mem, hmem, htouch]
    · rw [modSheaf_stooks, acquire_stooks, htouch]
    · have hregs := congrArg Sheaf.regs (modLanes_frame sh f.e fun _ l => { l with pend := .sh })
      exact hregs
    · exact lane_modLanes sh f.e _ l

/-- Fewer lanes owe no more. -/
theorem owes_false_of_or {s : State} {sid : Nat} {m m' : LaneSet} (h : s.owes sid (m ||| m') = false) : s.owes sid m = false := by
  rw [State.owes, List.any_eq_false] at h ⊢
  intro e he howes
  obtain ⟨hkind, hwaits⟩ := Bool.and_eq_true_iff.mp howes
  obtain ⟨x, hx, hlanes⟩ := List.any_eq_true.mp hwaits
  obtain ⟨hsid, hne⟩ := Bool.and_eq_true_iff.mp hlanes
  refine h e he (Bool.and_eq_true_iff.mpr ⟨hkind, List.any_eq_true.mpr ⟨x, hx, Bool.and_eq_true_iff.mpr ⟨hsid, ?_⟩⟩⟩)
  refine bne_iff_ne.mpr fun hzero => bne_iff_ne.mp hne ((laneSet_eq_zero_iff _).mpr fun l hl => ?_)
  have hbit := (laneSet_eq_zero_iff _).mp hzero l hl
  rw [BitVec.getLsbD_and, BitVec.getLsbD_or] at hbit
  rw [BitVec.getLsbD_and]
  revert hbit
  cases x.2.getLsbD l <;> cases m.getLsbD l <;> simp

/-- What an update's order waits for is met where nothing is in flight, owed or held back (12 R218, 14 R251). -/
theorem orderState_clear {s v : State} {k : Ctx} {i : Instr} {fid : Nat} {sh : Sheaf} (hwake : ∀ g d a b off, i ≠ .wake g d a b off)
    (hsh : v.sheaf? k.sid = some sh) (hcore : sh.core = k.sh.core) (hlanes : sh.lanes = k.sh.lanes) (hbefore : sh.before fid = [])
    (hbarns : v.barns = s.barns) (hmsgs : v.msgs = s.msgs) (hrel : relScope i ≠ none → Spec.Quiet s k) :
    v.orderState k.sid fid i k.e = .clear := by
  unfold State.orderState
  split
  · exact absurd rfl (hwake _ _ _ _ _)
  · next sc _ hsc =>
    have hquiet := hrel (by rw [hsc]; exact Option.some_ne_none sc)
    have hfailed : sh.failedLines k.e = [] := by
      have hnone : (lanesOf k.e).flatMap (fun l => (sh.lane l).failed) = [] :=
        List.flatMap_eq_nil_iff.mpr fun l hl => by
          rw [Sheaf.lane, hlanes]; exact hquiet.failed l (lt_of_mem_lanesOf _ _ hl)
      rw [Sheaf.failedLines, hnone]; rfl
    have hgather : v.gatherHeld (barnOf sh.core) sc = false := by
      have hbarn := hquiet.gather
      rw [State.gatherHeld, State.barn, hbarns, hcore]
      rw [State.barn] at hbarn
      rw [hbarn]; rfl
    have howes : v.owes k.sid k.e = false := by
      rw [State.owes, hmsgs]; exact owes_false_of_or hquiet.owes
    rw [State.releaseState, hsh]
    simp only [hfailed, State.releaseOpen, hsh, hgather, howes, hbefore]
    rfl
  · rw [hsh, Option.map_some, hbefore]; rfl

theorem portsBusy_free {s v : State} (h : Spec.PortsFree s) (hcores : v.cores = s.cores) (hclock : v.clock = s.clock)
    (ts : List (Nat × Nat)) (n : Nat) : v.portsBusy .a ts n = false := by
  refine List.any_eq_false.mpr fun q _ => ?_
  rw [State.core, hcores, hclock]
  exact fun hlt => Nat.not_lt.mpr (h q.1) (of_decide_eq_true hlt)

/-- One attempt at an update whose order is met and whose lane ports are free. -/
theorem advanceBin_clear {v : State} {sid : Nat} {sh : Sheaf} {f : Flight} {act : State → Flight → State}
    (hsh : v.sheaf? sid = some sh) (hf : sh.flight? f.id = some f) (hord : v.orderState sid f.id f.instr f.e = .clear)
    (hports : ∀ ts n, v.portsBusy .a ts n = false) (hgather : relScope f.instr ≠ none → (v.barn (barnOf sh.core)).gather = []) :
    v.advanceBin sid f.id act =
      binEnd sid f (act (v.usePorts .a ((binTargetsOf f).map (·.2)) ((f.accs.head?.map (·.n)).getD 1)) f) := by
  have hboth : (v.sheaf? sid).bind (fun sh => (sh.flight? f.id).map (fun f => (sh, f))) = some (sh, f) := by
    rw [hsh, Option.bind_some, hf]; rfl
  rw [State.advanceBin, hboth]
  simp only [hord, hports, Bool.false_eq_true, if_false]
  cases hsc : relScope f.instr with
  | none => rfl
  | some sc =>
    have hpublish : v.publishUpTo (barnOf sh.core) sc = v := by
      rw [State.publishUpTo, hgather (by rw [hsc]; exact Option.some_ne_none sc)]; rfl
    dsimp only
    rw [hpublish]
    rfl

/-- The flight of an update, the only one of its sheaf. -/
def binFlight (i : Instr) (k : Ctx) (s : State) (accs : List Machine.Acc) : Flight := k.flight i s.nextId .releasing false accs
/-- The state in which the update is tried. -/
def withBinFlight (i : Instr) (k : Ctx) (s : State) (accs : List Machine.Acc) : State :=
  { s with nextId := s.nextId + 1, sheaves := s.sheaves.put k.sid { k.sh with flights := [binFlight i k s accs] } }

theorem addFlight_eq {i : Instr} {s : State} {k : Ctx} (h : Issues i s k) (hfl : k.sh.flights = []) (accs : List Machine.Acc) :
    s.addFlight k i .releasing false accs = (s.nextId, withBinFlight i k s accs) := by
  have hissuing := issues_sheaf h
  have hsh : ({ s with nextId := s.nextId + 1 } : State).sheaf? k.sid = some k.sh := hissuing
  rw [State.addFlight]
  simp only [State.fresh]
  rw [modSheaf_some _ _ _ _ hsh, hfl]
  rfl

/-- The accesses of the lanes of E on bin words. -/
theorem binAccs_placed (k : Ctx) (a : Reg) (off : BitVec 15) (p : Nat → Nat × Nat) (n : Nat) (data : Nat → List Byte) :
    binAccs (binAddrs k a off) (placed k p) n data = (lanesOf k.e).map (fun l =>
      ⟨l, (k.opA a l 0 + off.signExtend 32).zeroExtend 64, (p l).2, n, (p l).1, 0, false, data l, .queued⟩) := by
  rw [binAccs, binAddrs, placed, List.zip_map', List.map_map]
  rfl

theorem binTargetsOf_binFlight (i : Instr) (k : Ctx) (s : State) (a : Reg) (off : BitVec 15) (p : Nat → Nat × Nat) (n : Nat)
    (data : Nat → List Byte) : binTargetsOf (binFlight i k s (binAccs (binAddrs k a off) (placed k p) n data)) = placed k p := by
  rw [binTargetsOf, binFlight, Ctx.flight, binAccs_placed, List.map_map]
  rfl

/-- The operand bytes that a flight keeps for a lane of E. -/
theorem data_binAccs {k : Ctx} {a : Reg} {off : BitVec 15} {p : Nat → Nat × Nat} {n : Nat} {data : Nat → List Byte} {l : Nat}
    (hl : k.e.getLsbD l = true) :
    ((binAccs (binAddrs k a off) (placed k p) n data).filter (fun x => x.lane = l)).flatMap (·.data) = data l := by
  have hone : (lanesOf k.e).filter (fun j => decide (j = l)) = [l] := by
    rw [List.filter_eq, List.count_eq_one_of_mem (nodup_lanesOf k.e) ((mem_lanesOf _ _).mpr hl)]; rfl
  rw [binAccs_placed, List.filter_map]
  exact (congrArg (fun ls => (List.map _ ls).flatMap _) hone).trans (List.append_nil _)

/-- An update in order, of an instruction that issues with nothing in flight. -/
theorem orderedUpdate {i : Instr} {s : State} {k : Ctx} {p : Nat → Nat × Nat} {accs : List Machine.Acc} (w : WordOp) {d a : Reg}
    {off : BitVec 15} {act : State → Flight → State} (hd : d.isLaneDst = true) (hp : Spec.BinsAt s k .a a off w.n p)
    (hn : w.n ∣ 2 ^ 24) (hwake : ∀ g d a b off, i ≠ .wake g d a b off)
    (hrel : relScope i ≠ none → Spec.Quiet s k) (hports : Spec.PortsFree s)
    (hact : ∀ v, act v (binFlight i k s accs) = w.run k.sid d v (placed k p)) :
    ∃ sh, Updated w d k p s ((withBinFlight i k s accs).advanceBin k.sid s.nextId act) sh ∧
      ∀ l < 64, Spec.Acquired k.sh (if (acqScope i).isSome then k.e else 0) l (sh.lane l) := by
  have hsheaf : (withBinFlight i k s accs).sheaf? k.sid = some { k.sh with flights := [binFlight i k s accs] } :=
    (kv_find_put ..).trans (if_pos rfl)
  have hbefore : Sheaf.before { k.sh with flights := [binFlight i k s accs] } s.nextId = [] :=
    List.filter_eq_nil_iff.mpr fun f hf => by
      rw [List.mem_singleton.mp hf]
      exact fun hlt => Nat.lt_irrefl _ (of_decide_eq_true hlt)
  have hord : (withBinFlight i k s accs).orderState k.sid s.nextId i k.e = .clear :=
    orderState_clear (s := s) hwake hsheaf rfl rfl hbefore rfl rfl hrel
  have hadv := advanceBin_clear (f := binFlight i k s accs) (act := act) hsheaf (flight_of_only rfl rfl) hord
    (portsBusy_free hports rfl rfl) fun hsc => (hrel hsc).gather
  have hsame : Same s k (withBinFlight i k s accs) := ⟨rfl, rfl, _, hsheaf, rfl, rfl⟩
  have hid : (binFlight i k s accs).id = s.nextId := rfl
  rw [hid, hact] at hadv
  rw [hadv]
  obtain ⟨sh, hupd, hlanes⟩ := w.run_updated hd (same_of_portsOnly hsame (portsOnly_usePorts _ .a _ _)) hp hn
  obtain ⟨hmem, hstooks, shu, hshu, hregs, hacq⟩ := binEnd_effect (binFlight i k s accs) hupd.here
  refine ⟨shu, ⟨hmem.trans hupd.mem, fun l hl => ?_, fun bin x o hfar => ?_, hshu, fun r l hl => ?_⟩, fun l hl => ?_⟩
  · rw [binBytes_of_stooks hstooks]; exact hupd.word l hl
  · rw [binByte_of_stooks hstooks]; exact hupd.far bin x o hfar
  · rw [Sheaf.vreg, hregs]; exact hupd.regs r l hl
  · have hlane : sh.lane l = k.sh.lane l := by rw [Sheaf.lane, hlanes]; rfl
    rw [Spec.Acquired, ← hlane]
    exact hacq l

end Sys2Proof.Laws
end
section
/-! ## AATOM (09 R161, R162) -/

namespace Sys2Proof.Laws
open Sys2Proof Sys2Proof.Machine Sys2Proof.Safety

/-! ### Values of Table 9.5 -/

/-- An operation on two values of a width gives one. -/
theorem apply_lt (op : AtomOp) {bits x v : Nat} (hf : op = .addF32 → bits = 32) (hx : x < 2 ^ bits)
    (hv : v < 2 ^ bits) : op.apply bits x v < 2 ^ bits := by
  cases op with
  | add | sub => exact Nat.mod_lt _ (Nat.two_pow_pos bits)
  | minS | maxS => exact iteInduction (motive := (· < 2 ^ bits)) (fun _ => hv) fun _ => hx
  | minZ => exact (Nat.min_le_left x v).trans_lt hx
  | maxZ => exact Nat.max_lt.mpr ⟨hx, hv⟩
  | and => exact Nat.and_lt_two_pow x hv
  | or => exact Nat.or_lt_two_pow hx hv
  | xor => exact Nat.xor_lt_two_pow hx hv
  | exch => exact hv
  | incw => exact iteInduction (motive := (· < 2 ^ bits)) (fun _ => Nat.two_pow_pos bits) fun hlt => by omega
  | decw => exact iteInduction (motive := (· < 2 ^ bits)) (fun _ => hv) fun _ => by omega
  | addF32 =>
    rw [hf rfl]
    exact addVal_lt .rn _ _ (codesFit_fmtOf .f32)

/-! ### The lanes at one word (09 R161) -/

/-- A word after the lanes of a list have applied their operations one at a time. -/
def applied (op : AtomOp) (n : Nat) (v : Nat → Nat) (x : Nat) (ls : List Nat) : Nat :=
  ls.foldl (fun w j => op.apply (8 * n) w (v j)) x
/-- What each lane of a list finds in the word. -/
def found (op : AtomOp) (n : Nat) (v : Nat → Nat) : Nat → List Nat → List (Nat × Nat)
  | _, [] => []
  | x, l :: ls => (l, x) :: found op n v (op.apply (8 * n) x (v l)) ls

section
variable (op : AtomOp) (n : Nat) (v : Nat → Nat)

theorem lanes_found (ls : List Nat) : ∀ x, (found op n v x ls).map (·.1) = ls := by
  induction ls with
  | nil => exact fun _ => rfl
  | cons l ls ih => exact fun x => congrArg (l :: ·) (ih _)

/-- The model's pass over the lanes at a word gathers what they find and the word after the last. -/
theorem foldl_eq_found (ls : List Nat) : ∀ (acc : List (Nat × Nat)) (x : Nat),
    ls.foldl (fun (acc : List (Nat × Nat) × Nat) l => (acc.1 ++ [(l, acc.2)], op.apply (8 * n) acc.2 (v l))) (acc, x) =
      (acc ++ found op n v x ls, applied op n v x ls) := by
  induction ls with
  | nil => exact fun acc x => congrArg (·, x) (List.append_nil acc).symm
  | cons l ls ih =>
    intro acc x
    rw [List.foldl_cons, ih, List.append_assoc]
    rfl

/-- A lane finds the word as the lanes below it have left it. -/
theorem lookup_found {l : Nat} : ∀ {ls : List Nat}, ls.Pairwise (· < ·) → l ∈ ls → ∀ x,
    (found op n v x ls).lookup l = some (applied op n v x (ls.filter (· < l))) := by
  intro ls
  induction ls with
  | nil => nofun
  | cons a ls ih =>
    intro hsorted hl x
    obtain ⟨habove, hsorted⟩ := List.pairwise_cons.mp hsorted
    rw [found, List.lookup_cons]
    by_cases hla : l = a
    · subst hla
      have hnone : (l :: ls).filter (· < l) = [] := List.filter_eq_nil_iff.mpr fun j hj => by
        rcases List.mem_cons.mp hj with rfl | hj
        · simp
        · simpa using (habove j hj).le
      rw [hnone, beq_self_eq_true]
      rfl
    · have hmem := (List.mem_cons.mp hl).resolve_left hla
      rw [beq_eq_false_iff_ne.mpr hla, List.filter_cons_of_pos (p := fun j => decide (j < l)) (decide_eq_true (habove l hmem))]
      exact ih hsorted hmem _

theorem applied_congr {v' : Nat → Nat} (x : Nat) {ls : List Nat} (h : ∀ l ∈ ls, v l = v' l) : applied op n v x ls = applied op n v' x ls :=
  List.foldl_ext _ _ x fun w l hl => by rw [h l hl]

theorem applied_lt (hf : op = .addF32 → n = 4) {x : Nat} (hx : x < 2 ^ (8 * n)) {ls : List Nat}
    (hv : ∀ l ∈ ls, v l < 2 ^ (8 * n)) : applied op n v x ls < 2 ^ (8 * n) :=
  List.foldlRecOn (motive := (· < 2 ^ (8 * n))) ls _ hx fun w hw l hl =>
    apply_lt op (fun h => by rw [hf h]) hw (hv l hl)

theorem lookup_mapped {α β : Type} (f : α → β) (xs : List (Nat × α)) (l : Nat) :
    (xs.map (fun x => (x.1, f x.2))).lookup l = (xs.lookup l).map f := by
  induction xs with
  | nil => rfl
  | cons x xs ih =>
    rw [List.map_cons, List.lookup_cons, List.lookup_cons, ih]
    split <;> rfl

/-- The update of a word of an A-bin by AATOM. -/
def aatomOp : WordOp where
  n := n
  word old ls := bytesOf n (applied op n v (natOfBytes old) ls)
  gives old ls := (found op n v (natOfBytes old) ls).map (fun x => (x.1, wordsOfBytes (bytesOf n x.2)))
  length_word _ _ := length_bytesOf n _
  lanes_gives old ls := by rw [List.map_map]; exact lanes_found op n v ls _

/-- What a lane receives. -/
theorem lookup_gives_aatomOp (old : List Byte) {ls : List Nat} (hsorted : ls.Pairwise (· < ·)) {l : Nat} (hl : l ∈ ls) :
    ((aatomOp op n v).gives old ls).lookup l =
      some (wordsOfBytes (bytesOf n (applied op n v (natOfBytes old) (ls.filter (· < l))))) := by
  have hmapped := lookup_mapped (fun x => wordsOfBytes (bytesOf n x)) (found op n v (natOfBytes old) ls) l
  rw [lookup_found op n v hsorted hl] at hmapped
  exact hmapped

theorem aatomPerform_eq (s : State) (sid : Nat) (d : Reg) (ts : List (Nat × Nat × Nat)) :
    s.aatomPerform sid op d n ts v = (aatomOp op n v).run sid d s ts := by
  rw [State.aatomPerform, WordOp.run]
  refine congrArg (List.foldl · s _) (funext fun u => funext fun g => ?_)
  simp only [foldl_eq_found, List.nil_append, WordOp.step, aatomOp]
  refine congrArg _ (funext fun sh => ?_)
  rw [writeVals, List.foldl_map]

end

/-- The operand of a lane as a number (R161). -/
def operandNat (k : Ctx) (b : Reg) (size : Size) (l : Nat) : Nat :=
  natOfBytes (bytesOfWords ((List.range size.regs).map (fun j => k.opB b l j)))

theorem operandNat_eq (k : Ctx) (b : Reg) {size : Size} (hsize : size = .b32 ∨ size = .b64) (l : Nat) :
    operandNat k b size l = (Spec.B k b l).toNat + (if size = .b64 then (k.opB b l 1).toNat * 2 ^ 32 else 0) := by
  rw [operandNat, natOfBytes_bytesOfWords]
  rcases hsize with rfl | rfl
  · rfl
  · rw [if_pos rfl, Nat.mul_comm]
    rfl

theorem operandNat_lt (k : Ctx) (b : Reg) {size : Size} (hsize : size = .b32 ∨ size = .b64) (l : Nat) :
    operandNat k b size l < 2 ^ (8 * size.bytes) := by
  have hlt := natOfBytes_lt (bytesOfWords ((List.range size.regs).map (fun j => k.opB b l j)))
  rw [length_bytesOfWords, List.length_map, List.length_range] at hlt
  rcases hsize with rfl | rfl <;> exact hlt

/-- What a form of AATOM may be (R158). -/
theorem aatom_wf {g : Pred} {op : AtomOp} {d a b : Reg} {size : Size} {scope : Scope} {order : Order} {off : BitVec 15}
    (h : (Instr.aatom g op d a b size scope order off).wf = true) :
    d.isLaneDst = true ∧ (size = .b32 ∨ size = .b64) ∧ (op = .addF32 → size = .b32) := by
  simp only [Instr.wf, Bool.and_eq_true, Bool.or_eq_true, decide_eq_true_iff, Bool.not_eq_true', decide_eq_false_iff_not] at h
  obtain ⟨⟨⟨hd, hsize⟩, -⟩, -⟩ := h
  refine ⟨hd, hsize.imp_right And.left, fun hop => ?_⟩
  rcases hsize with hsize | ⟨-, hne⟩
  · exact hsize
  · exact absurd hop hne

/-! ### What AATOM leaves -/

/-- What each lane receives and what each word holds, in the words of R161; `v` gives the operands of the lanes of E. -/
theorem aatom_updated {s u : State} {k : Ctx} {p : Nat → Nat × Nat} {sh : Sheaf} {op : AtomOp} {d b : Reg} {size : Size} {v : Nat → Nat}
    (h : Updated (aatomOp op size.bytes v) d k p s u sh) (hsize : size = .b32 ∨ size = .b64) (hf : op = .addF32 → size = .b32)
    (hv : ∀ l, k.e.getLsbD l = true → v l = operandNat k b size l) :
    RegsAfter k sh d (fun l => Spec.loaded false size.bytes (applied op size.bytes (operandNat k b size)
      (Spec.binNat s .a (p l) size.bytes) ((Spec.lanesAt k p (p l)).filter (· < l)))) ∧
    ∀ l, k.e.getLsbD l = true → Spec.binNat u .a (p l) size.bytes =
      applied op size.bytes (operandNat k b size) (Spec.binNat s .a (p l) size.bytes) (Spec.lanesAt k p (p l)) := by
  have hbytes : size.bytes = 4 ∨ size.bytes = 8 ∨ size.bytes = 16 := by rcases hsize with rfl | rfl <;> decide
  have hold (l : Nat) : Spec.binNat s .a (p l) size.bytes < 2 ^ (8 * size.bytes) := by
    have hlt := natOfBytes_lt (s.binBytes (p l).1 .a (p l).2 size.bytes)
    rwa [natOfBytes_binBytes, length_binBytes] at hlt
  have hlt (l : Nat) (ls : List Nat) :
      applied op size.bytes (operandNat k b size) (Spec.binNat s .a (p l) size.bytes) ls < 2 ^ (8 * size.bytes) :=
    applied_lt op _ _ (fun hop => by rw [hf hop]; rfl) (hold l) fun j _ => operandNat_lt k b hsize j
  have hcongr {ls : List Nat} (x : Nat) (hls : ∀ l ∈ ls, k.e.getLsbD l = true) :
      applied op size.bytes v x ls = applied op size.bytes (operandNat k b size) x ls :=
    applied_congr op _ _ x fun l hl => hv l (hls l hl)
  refine ⟨regsAfter_of_regOf fun r l hl => ?_, fun l hl => ?_⟩
  · rw [h.regs r l hl]
    refine congrArg (regOf d · r _) (ite_congr rfl (fun he => ?_) fun _ => rfl)
    have hmem : l ∈ Spec.lanesAt k p (p l) := mem_lanesAt.mpr ⟨he, rfl⟩
    have hbelow : ∀ j ∈ (Spec.lanesAt k p (p l)).filter (· < l), k.e.getLsbD j = true :=
      fun j hj => (mem_lanesAt.mp (List.mem_filter.mp hj).1).1
    refine (lookup_gives_aatomOp op size.bytes v (s.binBytes (p l).1 .a (p l).2 size.bytes) (sorted_lanesAt k p (p l)) hmem).trans (congrArg some ?_)
    rw [natOfBytes_binBytes, hcongr _ hbelow, wordsOfBytes_eq_loaded hbytes false (length_bytesOf _ _),
      natOfBytes_bytesOf _ (hlt l _)]
  · have hinside : ∀ j ∈ Spec.lanesAt k p (p l), k.e.getLsbD j = true := fun j hj => (mem_lanesAt.mp hj).1
    have hword : u.binBytes (p l).1 .a (p l).2 size.bytes = bytesOf size.bytes (applied op size.bytes v
      (natOfBytes (s.binBytes (p l).1 .a (p l).2 size.bytes)) (Spec.lanesAt k p (p l))) := h.word l hl
    rw [← natOfBytes_binBytes, hword, natOfBytes_binBytes, hcongr _ hinside, natOfBytes_bytesOf _ (hlt l _)]

/-- The accesses of an ordered AATOM. -/
def aatomAccs (k : Ctx) (a b : Reg) (size : Size) (off : BitVec 15) (p : Nat → Nat × Nat) : List Machine.Acc :=
  binAccs (binAddrs k a off) (placed k p) size.bytes (fun l => bytesOfWords ((List.range size.regs).map (fun j => k.opB b l j)))
/-- The operands that the accesses keep. -/
def keptNat (accs : List Machine.Acc) (l : Nat) : Nat := natOfBytes ((accs.filter (fun x => x.lane = l)).flatMap (·.data))

theorem aatomAct_eq (i : Instr) (s : State) (k : Ctx) (op : AtomOp) (d a b : Reg) (size : Size) (off : BitVec 15)
    (p : Nat → Nat × Nat) (v : State) : aatomAct op d size.bytes k.sid v (binFlight i k s (aatomAccs k a b size off p)) =
      (aatomOp op size.bytes (keptNat (aatomAccs k a b size off p))).run k.sid d v (placed k p) := by
  rw [aatomAct, aatomPerform_eq, aatomAccs, binTargetsOf_binFlight]
  rfl

section
variable {i : Instr} {s : State} {k : Ctx} (op : AtomOp) (d : Reg) {a : Reg} (b : Reg) {size : Size} {order : Order} {off : BitVec 15}
  {p : Nat → Nat × Nat} (hp : Spec.BinsAt s k .a a off size.bytes p)
include hp

/-- Ordered, the updates are tried in a flight. -/
theorem aatomBody_ordered (h : Issues i s k) (hfl : k.sh.flights = []) (hord : (releases order || acquires order) = true) :
    aatomBody i s k op d a b size order off = .ok {
      st := (withBinFlight i k s (aatomAccs k a b size off p)).advanceBin k.sid s.nextId (aatomAct op d size.bytes k.sid) } := by
  simp only [aatomBody, binTargets_of_binsAt hp, hord, if_true, addFlight_eq h hfl]
  rfl

/-- Unordered, they are made at once. -/
theorem aatomBody_unordered (hord : (releases order || acquires order) = false) :
    aatomBody i s k op d a b size order off = .ok {
      st := (aatomOp op size.bytes (operandNat k b size)).run k.sid d (s.usePorts .a ((placed k p).map (·.2)) size.bytes)
        (placed k p) } := by
  simp only [aatomBody, binTargets_of_binsAt hp, hord, Bool.false_eq_true, if_false, aatomPerform_eq]
  rfl

end

/-- What an AATOM leaves, whatever its order. -/
theorem aatom_effect {g : Pred} {op : AtomOp} {d a b : Reg} {size : Size} {scope : Scope} {order : Order} {off : BitVec 15}
    {s : State} {k : Ctx} {p : Nat → Nat × Nat} (hw : (Instr.aatom g op d a b size scope order off).wf = true)
    (h : Issues (.aatom g op d a b size scope order off) s k) (hp : Spec.BinsAt s k .a a off size.bytes p)
    (hrel : releases order = true → Spec.Quiet s k) (hacq : acquires order = true → k.sh.flights = [])
    (hports : releases order = true ∨ acquires order = true → Spec.PortsFree s) :
    ∃ u sh v, aatomBody (.aatom g op d a b size scope order off) s k op d a b size order off = .ok { st := u } ∧
      Updated (aatomOp op size.bytes v) d k p s u sh ∧ (∀ l, k.e.getLsbD l = true → v l = operandNat k b size l) ∧
      ∀ l < 64, Spec.Acquired k.sh (if acquires order then k.e else 0) l (sh.lane l) := by
  obtain ⟨hd, hsize, -⟩ := aatom_wf hw
  have hn : size.bytes ∣ 2 ^ 24 := by rcases hsize with rfl | rfl <;> decide
  cases hord : releases order || acquires order with
  | true =>
    have heither := Bool.or_eq_true_iff.mp hord
    have hscope : (acqScope (.aatom g op d a b size scope order off)).isSome = acquires order := by
      rw [acqScope]
      cases acquires order <;> rfl
    have hquiet (hsc : relScope (.aatom g op d a b size scope order off) ≠ none) : Spec.Quiet s k :=
      hrel (by by_contra hno; exact hsc (if_neg hno))
    obtain ⟨sh, hupd, hlanes⟩ := orderedUpdate (i := .aatom g op d a b size scope order off)
      (aatomOp op size.bytes (keptNat (aatomAccs k a b size off p))) hd hp hn
      (fun _ _ _ _ _ => nofun) hquiet (hports heither) (aatomAct_eq (.aatom g op d a b size scope order off) s k op d a b size off p)
    rw [hscope] at hlanes
    exact ⟨_, sh, _, aatomBody_ordered op d b hp h (heither.elim (fun hr => (hrel hr).flights) hacq) hord, hupd,
      fun l hl => congrArg natOfBytes (data_binAccs hl), hlanes⟩
  | false =>
    obtain ⟨sh, hupd, hlanes⟩ := (aatomOp op size.bytes (operandNat k b size)).run_updated hd
      (same_of_portsOnly (same_of_issues h) (portsOnly_usePorts s .a ((placed k p).map (·.2)) size.bytes)) hp hn
    refine ⟨_, sh, _, aatomBody_unordered op d b hp hord, hupd, fun _ _ => rfl, fun l _ => ?_⟩
    rw [(Bool.or_eq_false_iff.mp hord).2]
    exact acquired_none (congrArg (KV.getD · l (Lane.fresh 0)) hlanes)

end Sys2Proof.Laws

namespace Sys2Proof.Proofs
open Sys2Proof Sys2Proof.Machine Sys2Proof.Safety Sys2Proof.Laws

/-- Settles O20: one update of each word, in which a lane finds what the lanes below it have left. -/
theorem binAtomics : Obligations.BinAtomics := by
  unfold Obligations.BinAtomics
  intro g op d a b size scope order off s k p hw h hp hrel hacq hports
  obtain ⟨-, hsize, hf⟩ := aatom_wf hw
  obtain ⟨u, sh, v, hbody, hupd, hv, hlanes⟩ := aatom_effect hw h hp hrel hacq hports
  obtain ⟨hregs, hwords⟩ := aatom_updated hupd hsize hf hv
  have hoperand : operandNat k b size = _ := funext (operandNat_eq k b hsize)
  rw [hoperand] at hregs hwords
  exact ⟨u, sh, ⟨_, rfl, issue_leaves _ s u k
    (fun k => aatomBody (.aatom g op d a b size scope order off) s k op d a b size order off) h hbody⟩, hupd.here, hupd.mem,
    ⟨hregs, hwords⟩, hupd.far, hlanes⟩
end Sys2Proof.Proofs
end
section
/-! ## Flag barriers (09 R165 to R168) -/

namespace Sys2Proof.Laws
open Sys2Proof Sys2Proof.Machine Sys2Proof.Safety

/-! ### Barrier words (09 R165) -/

/-- The fields of a barrier word, from its eight bytes. -/
theorem barrier_fields (s : State) (x : Nat × Nat) : fieldNat (s.binBytes x.1 .a x.2 8) 0 2 = (Spec.barrierAt s x).expect ∧
    fieldNat (s.binBytes x.1 .a x.2 8) 2 2 = (Spec.barrierAt s x).arrived ∧
    fieldNat (s.binBytes x.1 .a x.2 8) 4 1 % 2 = (Spec.barrierAt s x).phase := by
  unfold State.binBytes Spec.barrierAt Spec.binNat
  cases s.stook? x.1 <;> exact ⟨rfl, rfl, rfl⟩

theorem phase_lt (s : State) (x : Nat × Nat) : (Spec.barrierAt s x).phase < 2 := Nat.mod_lt _ (by decide)

theorem expect_lt (s : State) (x : Nat × Nat) : (Spec.barrierAt s x).expect < 2 ^ 16 := by
  have hlt := natOfBytes_lt (s.binBytes x.1 .a x.2 2)
  rwa [natOfBytes_binBytes, length_binBytes] at hlt

theorem length_fbWord (phase arrived expect : Nat) : (fbWord phase arrived expect).length = 8 := by
  simp only [fbWord, List.length_append, length_bytesOf]

theorem natOfBytes_fbWord {phase arrived expect : Nat} (hphase : phase < 2 ^ 32) (harrived : arrived < 2 ^ 16)
    (hexpect : expect < 2 ^ 16) : natOfBytes (fbWord phase arrived expect) = (Spec.Barrier.mk phase arrived expect).nat := by
  rw [fbWord, natOfBytes_append, natOfBytes_append, List.length_append, length_bytesOf, length_bytesOf,
    natOfBytes_bytesOf 2 hexpect, natOfBytes_bytesOf 2 harrived, natOfBytes_bytesOf 4 hphase, Spec.Barrier.nat]

/-! ### FBINIT (09 R166) -/

/-- The write of a group of lanes: expected is the lowest lane's operand. -/
def initOf (k : Ctx) (b : Reg) (g : Nat × Nat × List Nat) : BinWr :=
  ⟨g.1, g.2.1, fbWord 0 0 (Nat.min (k.opB b (g.2.2.headD 0) 0).toNat 65535)⟩

theorem at_initOf {k : Ctx} {b : Reg} {g : Nat × Nat × List Nat} {x o : Nat} :
    (initOf k b g).At x o ↔ g.1 = x ∧ g.2.1 ≤ o ∧ o < g.2.1 + 8 := by
  rw [BinWr.At, initOf, length_fbWord]

theorem fbinitBody_eq {s : State} {k : Ctx} {a : Reg} (b : Reg) {p : Nat → Nat × Nat} (hp : Spec.BinsAt s k .a a 0 8 p) :
    fbinitBody s k a b = .ok {
      st := writeAll .a (s.usePorts .a ((placed k p).map (·.2)) 8) ((groupsOf (placed k p)).map (initOf k b)) } := by
  simp only [fbinitBody, binTargets_of_binsAt hp, writeAll, List.foldl_map]
  rfl

theorem fbinitBody_effect {s : State} {k : Ctx} {a b : Reg} {p : Nat → Nat × Nat} (hp : Spec.BinsAt s k .a a 0 8 p) :
    ∃ u, fbinitBody s k a b = .ok { st := u } ∧ Spec.BinsOnly s u ∧
      (∀ l, k.e.getLsbD l = true → u.binBytes (p l).1 .a (p l).2 8 =
        fbWord 0 0 (Nat.min (k.opB b ((Spec.lanesAt k p (p l)).headD 0) 0).toNat 65535)) ∧
      ∀ bin x o, (bin = .a → ∀ l, k.e.getLsbD l = true → (p l).1 = x → ¬((p l).2 ≤ o ∧ o < (p l).2 + 8)) →
        Spec.binByte u bin x o = Spec.binByte s bin x o := by
  have hports := portsOnly_usePorts s .a ((placed k p).map (·.2)) 8
  have hbody := fbinitBody_eq b hp
  generalize s.usePorts .a ((placed k p).map (·.2)) 8 = v at hports hbody
  have hall : ∀ w ∈ (groupsOf (placed k p)).map (initOf k b), (v.stook? w.uid).isSome := by
    intro w hw
    obtain ⟨g, hg, rfl⟩ := List.mem_map.mp hw
    obtain ⟨l, hl, huid, -⟩ := lane_of_group hg
    have hst : (v.stook? g.1).isSome :=
      huid ▸ stook_of_binsOnly (binsOnly_of_portsOnly hports) (stook_of_binsAt hp hl)
    exact hst
  refine ⟨_, hbody, binsOnly_trans (binsOnly_of_portsOnly hports) (writeAll_binsOnly hall), fun l hl => ?_, fun bin x o hfar => ?_⟩
  · obtain ⟨pre, post, hsplit, -, hpost⟩ := groups_split p hl
    rw [hsplit, List.map_append, List.map_cons] at hall ⊢
    refine binBytes_eq (length_fbWord _ _ _) fun o hlo hhi => ?_
    rw [binByte_writeAll_last hall (at_initOf.mpr ⟨rfl, hlo, hhi⟩)]
    · rfl
    · intro w hw hreach
      obtain ⟨g, hg, rfl⟩ := List.mem_map.mp hw
      obtain ⟨hin, hne⟩ := hpost g hg
      obtain ⟨huid, hrange⟩ := at_initOf.mp hreach
      exact other_group_far (fun j hj => aligned_of_binsAt hp (by decide) hj) hin hl hne ⟨hlo, hhi⟩ (bin := .a)
        ⟨huid.symm, rfl, hrange⟩
  · rw [binByte_writeAll_far hall fun hbin w hw hreach => ?_, binByte_of_stooks (stooks_of_portsOnly hports)]
    obtain ⟨g, hg, rfl⟩ := List.mem_map.mp hw
    obtain ⟨l, hl, huid, hoff⟩ := lane_of_group hg
    obtain ⟨hx, hrange⟩ := at_initOf.mp hreach
    exact hfar hbin l hl (huid.trans hx) (hoff ▸ hrange)

/-- 09 R166: FBINIT. -/
theorem exec_fbinit {g : Pred} {a b : Reg} {s : State} {k : Ctx} {p : Nat → Nat × Nat} (h : Issues (.fbinit g a b) s k)
    (hp : Spec.BinsAt s k .a a 0 8 p) :
    ∃ u, Leaves (.fbinit g a b) k s u ∧ Spec.BinsOnly s u ∧
      (∀ l, k.e.getLsbD l = true → ∀ j, (Spec.lanesAt k p (p l)).head? = some j →
        Spec.binNat u .a (p l) 8 = (Spec.Barrier.mk 0 0 (min (Spec.B k b j).toNat 65535)).nat) ∧
      (∀ bin x o, (bin = .a → ∀ l, k.e.getLsbD l = true → (p l).1 = x → ¬((p l).2 ≤ o ∧ o < (p l).2 + 8)) →
        Spec.binByte u bin x o = Spec.binByte s bin x o) := by
  obtain ⟨u, hbody, honly, hword, hfar⟩ := fbinitBody_effect (b := b) hp
  refine ⟨u, ⟨_, rfl, issue_leaves _ s u k (fun k => fbinitBody s k a b) h hbody⟩, honly, fun l hl j hj => ?_, hfar⟩
  have hexpect : min (Spec.B k b j).toNat 65535 < 2 ^ 16 := (Nat.min_le_right _ _).trans_lt (by decide)
  rw [← natOfBytes_binBytes, hword l hl, List.headD_eq_head?_getD, hj,
    ← natOfBytes_fbWord (Nat.two_pow_pos 32) (Nat.two_pow_pos 16) hexpect]
  rfl

/-! ### The lanes whose barrier is in the awaited phase (09 R166) -/

theorem getLsbD_lanesSet (ls : List Nat) {l : Nat} (hl : l < 64) : (lanesSet ls).getLsbD l = decide (l ∈ ls) := by
  induction ls using List.reverseRecOn with
  | nil => exact BitVec.getLsbD_zero
  | append_singleton ls j ih =>
    have hstep : lanesSet (ls ++ [j]) = if j < 64 then lanesSet ls ||| laneBit j else lanesSet ls := by
      rw [lanesSet, List.foldl_append]; rfl
    have hmem : (l ∈ ls ++ [j]) ↔ (l ∈ ls ∨ j = l) := by rw [List.mem_append, List.mem_singleton, eq_comm (a := l)]
    rw [hstep, decide_eq_decide.mpr hmem, Bool.decide_or]
    split
    · rw [BitVec.getLsbD_or, ih, getLsbD_laneBit j l hl]
    · next hj =>
      rw [ih, decide_eq_false (p := j = l) (by omega), Bool.or_false]

/-- Whether the barrier of a lane is in the phase that its operand names. -/
def inPhase (s : State) (k : Ctx) (b : Reg) (p : Nat → Nat × Nat) (l : Nat) : Bool :=
  decide ((Spec.barrierAt s (p l)).phase = (Spec.B k b l).toNat % 2)

theorem getLsbD_fbMatch {s v : State} (hv : v.stooks = s.stooks) (k : Ctx) (b : Reg) (p : Nat → Nat × Nat) {l : Nat} (hl : l < 64) :
    (fbMatch v k b (placed k p)).getLsbD l = (k.e.getLsbD l && inPhase s k b p l) := by
  have hphase (l : Nat) : v.fbPhase (l, p l) = (Spec.barrierAt s (p l)).phase := by
    rw [State.fbPhase, binBytes_of_stooks hv]
    exact (barrier_fields s (p l)).2.2
  have hlist : ((placed k p).filter (fun t => v.fbPhase t == (k.opB b t.1 0).toNat % 2)).map (·.1) =
      (lanesOf k.e).filter (inPhase s k b p) := by
    rw [placed, List.filter_map, List.map_map]
    refine (List.map_id _).trans (List.filter_congr fun j _ => ?_)
    rw [Function.comp_apply, hphase, beq_eq_decide]
    rfl
  rw [fbMatch, hlist, getLsbD_lanesSet _ hl, Bool.eq_iff_iff, decide_eq_true_iff, List.mem_filter, mem_lanesOf, Bool.and_eq_true]

/-! ### FBTEST and FBWAIT (09 R166 to R168) -/

/-- An acquire at .ST by the lanes of a set, if there are any. -/
def acquireIf (s : State) (sid : Nat) (m : LaneSet) : State := if m = 0 then s else s.acquire sid m .st

theorem acquireIf_effect {s : State} {sid : Nat} {sh : Sheaf} (h : s.sheaf? sid = some sh) (m : LaneSet) :
    (acquireIf s sid m).mem = s.mem ∧ (acquireIf s sid m).stooks = s.stooks ∧
      ∃ shu, (acquireIf s sid m).sheaf? sid = some shu ∧ { shu with lanes := sh.lanes } = sh ∧
        ∀ l, Spec.Acquired sh m l (shu.lane l) := by
  unfold acquireIf
  split
  · next hm => exact ⟨rfl, rfl, sh, h, rfl, fun l => hm ▸ acquired_none rfl⟩
  · obtain ⟨hsh, hmem, -⟩ := acquire_effect h m .st
    exact ⟨hmem, acquire_stooks s sid m .st, _, hsh, modLanes_frame _ _ _, fun l => lane_modLanes _ _ _ l⟩

/-- 09 R166, R168: FBTEST. -/
theorem exec_fbtest {g : Pred} {d : Fin 7} {a b : Reg} {s : State} {k : Ctx} {p : Nat → Nat × Nat}
    (h : Issues (.fbtest g d a b) s k) (hp : Spec.BinsAt s k .a a 0 8 p) :
    ∃ u shu, Leaves (.fbtest g d a b) k s u ∧ u.sheaf? k.sid = some shu ∧ u.mem = s.mem ∧ u.stooks = s.stooks ∧
      { shu with lanes := k.sh.lanes } = k.sh ∧
      ∀ l < 64, shu.lane l = if k.e.getLsbD l then
          { k.sh.lane l with preds := setPredBit (k.sh.lane l).preds d.val (inPhase s k b p l)
                             pend := if inPhase s k b p l then .sh else (k.sh.lane l).pend }
        else k.sh.lane l := by
  have hports := portsOnly_usePorts s .a ((placed k p).map (·.2)) 8
  generalize hv : s.usePorts .a ((placed k p).map (·.2)) 8 = v at hports
  have hvsh : v.sheaf? k.sid = some k.sh := (sheaf_of_portsOnly hports _).trans (issues_sheaf h)
  have hhit {l : Nat} (hl : l < 64) := getLsbD_fbMatch (stooks_of_portsOnly hports) k b p hl
  have hbody : fbtestBody s k d a b = .ok {
      st := acquireIf (v.setSheaf k.sid (k.sh.modLanes k.e fun l x => x.setPred d.val ((fbMatch v k b (placed k p)).getLsbD l)))
        k.sid (fbMatch v k b (placed k p)) } := by
    simp only [fbtestBody, binTargets_of_binsAt hp, hv, predDone, modSheaf_some _ _ _ _ hvsh]
    rfl
  generalize fbMatch v k b (placed k p) = hit at hhit hbody
  obtain ⟨hmem, hstooks, shu, hshu, hframe, hacq⟩ := acquireIf_effect (s := v.setSheaf k.sid
    (k.sh.modLanes k.e fun l x => x.setPred d.val (hit.getLsbD l))) ((sheaf_setSheaf ..).trans (if_pos rfl)) hit
  refine ⟨_, shu, ⟨_, rfl, issue_leaves _ s _ k (fun k => fbtestBody s k d a b) h hbody⟩, hshu,
    ?_, ?_, ?_, fun l hl => ?_⟩
  · exact hmem.trans ((setSheaf_mem _ _ _).trans (mem_of_portsOnly hports))
  · exact hstooks.trans ((setSheaf_stooks _ _ _).trans (stooks_of_portsOnly hports))
  · have hlanes := congrArg (fun y : Sheaf => { y with lanes := k.sh.lanes }) hframe
    exact hlanes.trans (modLanes_frame _ _ _)
  · rw [hacq l, hhit hl, lane_modLanes]
    cases he : k.e.getLsbD l with
    | false => rfl
    | true => cases hin : inPhase s k b p l <;> simp [Lane.setPred, hhit hl, he, hin]

theorem addFlight_effect {s : State} {c : Ctx} {sh : Sheaf} (h : s.sheaf? c.sid = some sh) (i : Instr) (stage : Stage) (stay : Bool)
    (accs : List Machine.Acc) : (s.addFlight c i stage stay accs).2.mem = s.mem ∧ (s.addFlight c i stage stay accs).2.stooks = s.stooks ∧
      (s.addFlight c i stage stay accs).2.sheaf? c.sid =
        some { sh with flights := sh.flights ++ [c.flight i s.nextId stage stay accs] } := by
  have hsh : ({ s with nextId := s.nextId + 1 } : State).sheaf? c.sid = some sh := h
  refine ⟨modSheaf_mem _ _ _, modSheaf_stooks _ _ _, ?_⟩
  rw [State.addFlight]
  simp only [State.fresh]
  rw [sheaf_modSheaf, if_pos rfl, hsh]
  rfl

section
variable {s : State} {k : Ctx} {b : Reg} {p : Nat → Nat × Nat} {m : LaneSet}
  (hm : ∀ l < 64, m.getLsbD l = (k.e.getLsbD l && decide ((Spec.barrierAt s (p l)).phase ≠ (Spec.B k b l).toNat % 2)))
include hm

/-- The lanes that go on are those of E that need not wait. -/
theorem fbMatch_eq {v : State} (hv : v.stooks = s.stooks) : fbMatch v k b (placed k p) = k.e &&& ~~~m := by
  refine (laneSet_eq_iff _ _).mpr fun l hl => ?_
  rw [getLsbD_fbMatch hv k b p hl, getLsbD_andNot _ _ hl, hm l hl, inPhase, decide_not]
  cases k.e.getLsbD l <;> simp

theorem andNot_andNot : k.e &&& ~~~(k.e &&& ~~~m) = m := by
  refine (laneSet_eq_iff _ _).mpr fun l hl => ?_
  rw [getLsbD_andNot _ _ hl, getLsbD_andNot _ _ hl, hm l hl]
  cases k.e.getLsbD l <;> simp

end

/-- The accesses of the lanes that wait. -/
def waitAccs (k : Ctx) (a b : Reg) (p : Nat → Nat × Nat) (m : LaneSet) : List Machine.Acc :=
  (binAccs (binAddrs k a 0) (placed k p) 8 (fun l => bytesOf 4 (k.opB b l 0).toNat)).filter (fun x => m.getLsbD x.lane)
/-- FBWAIT: the lanes of E outside a set acquire, those of the set wait in a flight. -/
def waitState (i : Instr) (k : Ctx) (a b : Reg) (p : Nat → Nat × Nat) (m : LaneSet) (v : State) : State :=
  if m = 0 then acquireIf v k.sid (k.e &&& ~~~m)
  else ((acquireIf v k.sid (k.e &&& ~~~m)).addFlight { k with path := m, e := m } i .waiting true (waitAccs k a b p m)).2

theorem fbwaitBody_eq {i : Instr} {s : State} {k : Ctx} {a b : Reg} {p : Nat → Nat × Nat} {m : LaneSet}
    (hp : Spec.BinsAt s k .a a 0 8 p)
    (hm : ∀ l < 64, m.getLsbD l = (k.e.getLsbD l && decide ((Spec.barrierAt s (p l)).phase ≠ (Spec.B k b l).toNat % 2))) :
    fbwaitBody i s k a b = .ok {
      st := waitState i k a b p m (s.usePorts .a ((placed k p).map (·.2)) 8), stay := if k.replay.isNone then m else 0 } := by
  simp only [fbwaitBody, binTargets_of_binsAt hp, fbMatch_eq hm (stooks_of_portsOnly (portsOnly_usePorts _ _ _ _)),
    andNot_andNot hm, waitState, acquireIf]
  split
  · next hzero => rw [hzero, ite_self]
  · rfl

theorem waitState_effect {v : State} {k : Ctx} (i : Instr) (a b : Reg) (p : Nat → Nat × Nat) (m : LaneSet)
    (hv : v.sheaf? k.sid = some k.sh) :
    ∃ shu, (waitState i k a b p m v).sheaf? k.sid = some shu ∧ (waitState i k a b p m v).mem = v.mem ∧
      (waitState i k a b p m v).stooks = v.stooks ∧ shu.regs = k.sh.regs ∧
      (if m = 0 then shu.flights = k.sh.flights
       else ∃ f, shu.flights = k.sh.flights ++ [f] ∧ f.path = m ∧ f.e = m ∧ f.stage = .waiting) ∧
      ∀ l, Spec.Acquired k.sh (k.e &&& ~~~m) l (shu.lane l) := by
  obtain ⟨hmem, hstooks, sh, hsh, hframe, hacq⟩ := acquireIf_effect hv (k.e &&& ~~~m)
  have hregs := congrArg Sheaf.regs hframe
  have hflights := congrArg Sheaf.flights hframe
  unfold waitState
  by_cases hzero : m = 0
  · rw [if_pos hzero]
    exact ⟨sh, hsh, hmem, hstooks, hregs, by rw [if_pos hzero]; exact hflights, hacq⟩
  · rw [if_neg hzero]
    obtain ⟨hmem', hstooks', hsh'⟩ := addFlight_effect (c := { k with path := m, e := m }) hsh i .waiting true (waitAccs k a b p m)
    refine ⟨_, hsh', hmem'.trans hmem, hstooks'.trans hstooks, hregs, ?_, hacq⟩
    rw [if_neg hzero]
    exact ⟨_, congrArg (· ++ _) hflights, rfl, rfl, rfl⟩

/-- 09 R166 to R168: FBWAIT. -/
theorem exec_fbwait {g : Pred} {a b : Reg} {s : State} {k : Ctx} {p : Nat → Nat × Nat} {m : LaneSet}
    (h : Issues (.fbwait g a b) s k) (hp : Spec.BinsAt s k .a a 0 8 p)
    (hm : ∀ l < 64, m.getLsbD l = (k.e.getLsbD l && decide ((Spec.barrierAt s (p l)).phase ≠ (Spec.B k b l).toNat % 2))) :
    ∃ u shu, LeavesBut (.fbwait g a b) k s u (if k.replay.isNone then m else 0) ∧ u.sheaf? k.sid = some shu ∧
      u.mem = s.mem ∧ u.stooks = s.stooks ∧ shu.regs = k.sh.regs ∧
      (if m = 0 then shu.flights = k.sh.flights
       else ∃ f, shu.flights = k.sh.flights ++ [f] ∧ f.path = m ∧ f.e = m ∧ f.stage = .waiting) ∧
      ∀ l < 64, Spec.Acquired k.sh (k.e &&& ~~~m) l (shu.lane l) := by
  have hports := portsOnly_usePorts s .a ((placed k p).map (·.2)) 8
  obtain ⟨shu, hshu, hmem, hstooks, hregs, hflights, hacq⟩ := waitState_effect (.fbwait g a b) a b p m
    ((sheaf_of_portsOnly hports k.sid).trans (issues_sheaf h))
  exact ⟨_, shu, ⟨_, rfl, issue_leavesBut _ s _ k _ (fun k => fbwaitBody (.fbwait g a b) s k a b) h (fbwaitBody_eq hp hm)⟩, hshu,
    hmem.trans (mem_of_portsOnly hports), hstooks.trans (stooks_of_portsOnly hports), hregs, hflights, fun l _ => hacq l⟩

/-! ### FBARR (09 R166, R168) -/

/-- The arrivals that a group of lanes counts: the lowest lane's operand, or its lanes. -/
def arrivals (counted : Bool) (v : Nat → Nat) (ls : List Nat) : Nat := if counted then v (ls.headD 0) else ls.length

/-- The update of a barrier word by arrivals. -/
def fbarrOp (counted : Bool) (v : Nat → Nat) : WordOp where
  n := 8
  word old ls :=
    if fieldNat old 0 2 ≤ fieldNat old 2 2 + arrivals counted v ls then fbWord (1 - fieldNat old 4 1 % 2) 0 (fieldNat old 0 2)
    else fbWord (fieldNat old 4 1 % 2) (fieldNat old 2 2 + arrivals counted v ls) (fieldNat old 0 2)
  gives old ls := ls.map (fun l => (l, [BitVec.ofNat 32 (1 - fieldNat old 4 1 % 2)]))
  length_word old ls := by split <;> exact length_fbWord _ _ _
  lanes_gives old ls := by rw [List.map_map]; exact List.map_id _

/-- The accesses of FBARR. -/
def fbarrAccs (k : Ctx) (a b : Reg) (p : Nat → Nat × Nat) : List Machine.Acc :=
  binAccs (binAddrs k a 0) (placed k p) 8 (fun l => bytesOf 4 (k.opB b l 0).toNat)

theorem keptNat_fbarrAccs {k : Ctx} {a b : Reg} {p : Nat → Nat × Nat} {l : Nat} (hl : k.e.getLsbD l = true) :
    keptNat (fbarrAccs k a b p) l = (Spec.B k b l).toNat :=
  (congrArg natOfBytes (data_binAccs hl)).trans (natOfBytes_bytesOf 4 (k.opB b l 0).isLt)

theorem fbarrAct_eq (i : Instr) (s : State) (k : Ctx) (d a b : Reg) (counted : Bool) (p : Nat → Nat × Nat) (v : State) :
    fbarrAct d counted k.sid v (binFlight i k s (fbarrAccs k a b p)) =
      (fbarrOp counted (keptNat (fbarrAccs k a b p))).run k.sid d v (placed k p) := by
  rw [fbarrAct, WordOp.run, fbarrAccs, binTargetsOf_binFlight]
  refine congrArg (List.foldl · v _) (funext fun u => funext fun g => ?_)
  simp only [WordOp.step, fbarrOp]
  refine congrArg _ (funext fun sh => ?_)
  rw [writeVals, List.foldl_map]
  rfl

theorem fbarrBody_eq {g : Pred} {d a b : Reg} {s : State} {k : Ctx} {p : Nat → Nat × Nat} (h : Issues (.fbarr g d a b) s k)
    (hfl : k.sh.flights = []) (hp : Spec.BinsAt s k .a a 0 8 p) : fbarrBody (.fbarr g d a b) s k a b = .ok {
      st := (withBinFlight (.fbarr g d a b) k s (fbarrAccs k a b p)).advanceBin k.sid s.nextId (fbarrAct d (fbCounted b) k.sid) } := by
  simp only [fbarrBody, binTargets_of_binsAt hp, addFlight_eq h hfl]
  rfl

/-- What FBARR leaves of each barrier word and of the registers of its lanes. -/
theorem fbarr_updated {s u : State} {k : Ctx} {p : Nat → Nat × Nat} {sh : Sheaf} {counted : Bool} {d : Reg} {v : Nat → Nat}
    (h : Updated (fbarrOp counted v) d k p s u sh) :
    RegsAfter k sh d (fun l => [BitVec.ofNat 32 (1 - (Spec.barrierAt s (p l)).phase)]) ∧
    ∀ l, k.e.getLsbD l = true →
      let w := Spec.barrierAt s (p l)
      let n := w.arrived + arrivals counted v (Spec.lanesAt k p (p l))
      Spec.binNat u .a (p l) 8 =
        (if w.expect ≤ n then Spec.Barrier.mk (1 - w.phase) 0 w.expect else Spec.Barrier.mk w.phase n w.expect).nat := by
  refine ⟨regsAfter_of_regOf fun r l hl => ?_, fun l hl => ?_⟩
  · rw [h.regs r l hl]
    refine congrArg (regOf d · r _) (ite_congr rfl (fun he => ?_) fun _ => rfl)
    rw [← (barrier_fields s (p l)).2.2]
    exact (lookup_map_lanes' _ _ l).trans (if_pos (mem_lanesAt.mpr ⟨he, rfl⟩))
  · obtain ⟨hexpect, harrived, hphase⟩ := barrier_fields s (p l)
    have hword : u.binBytes (p l).1 .a (p l).2 8 = (fbarrOp counted v).word (s.binBytes (p l).1 .a (p l).2 8) _ := h.word l hl
    simp only [fbarrOp, hexpect, harrived, hphase] at hword
    have hph := phase_lt s (p l)
    have hex := expect_lt s (p l)
    rw [← natOfBytes_binBytes, hword]
    generalize Spec.barrierAt s (p l) = w at hph hex ⊢
    dsimp only
    split
    · exact natOfBytes_fbWord ((Nat.sub_le 1 _).trans_lt (by norm_num)) (Nat.two_pow_pos 16) hex
    · next hless =>
      have hlow : w.arrived + arrivals counted v (Spec.lanesAt k p (p l)) < 2 ^ 16 := (Nat.not_le.mp hless).trans hex
      exact natOfBytes_fbWord (hph.trans (by norm_num)) hlow hex

/-- 09 R166, R168: FBARR, released at once. -/
theorem exec_fbarr {g : Pred} {d a b : Reg} {s : State} {k : Ctx} {p : Nat → Nat × Nat} (hd : d.isLaneDst = true)
    (h : Issues (.fbarr g d a b) s k) (hp : Spec.BinsAt s k .a a 0 8 p) (hquiet : Spec.Quiet s k) (hports : Spec.PortsFree s) :
    ∃ u shu, Leaves (.fbarr g d a b) k s u ∧
      Updated (fbarrOp (fbCounted b) (keptNat (fbarrAccs k a b p))) d k p s u shu := by
  obtain ⟨sh, hupd, -⟩ := orderedUpdate (i := .fbarr g d a b) (fbarrOp (fbCounted b) (keptNat (fbarrAccs k a b p))) hd hp
    (Nat.pow_dvd_pow 2 (by decide : 3 ≤ 24)) (fun _ _ _ _ _ => nofun) (fun _ => hquiet) hports (fbarrAct_eq (.fbarr g d a b) s k d a b (fbCounted b) p)
  exact ⟨_, sh, ⟨_, rfl, issue_leaves _ s _ k (fun k => fbarrBody (.fbarr g d a b) s k a b) h (fbarrBody_eq h hquiet.flights hp)⟩, hupd⟩

end Sys2Proof.Laws

namespace Sys2Proof.Proofs
open Sys2Proof Sys2Proof.Machine Sys2Proof.Safety Sys2Proof.Laws

/-- Settles O21: each barrier word is written once for the lanes at it; a test and a wait read the phases at their issue. -/
theorem binBarriers : Obligations.BinBarriers := by
  unfold Obligations.BinBarriers
  refine ⟨⟨fun g a b s k p h hp => exec_fbinit h hp, fun g d a b s k p h hp => exec_fbtest h hp⟩, ?_,
    fun g a b s k p m h hp hm => exec_fbwait h hp hm⟩
  intro g d a b s k p hw h hp hquiet hports
  obtain ⟨u, shu, hleaves, hupd⟩ := exec_fbarr hw h hp hquiet hports
  obtain ⟨hregs, hwords⟩ := fbarr_updated hupd
  refine ⟨u, shu, hleaves, hupd.here, hupd.mem, hregs, fun l hl j hj => ?_, hupd.far⟩
  have hlane : k.e.getLsbD j = true := (mem_lanesAt.mp (List.mem_of_head? hj)).1
  have hcount : arrivals (fbCounted b) (keptNat (fbarrAccs k a b p)) (Spec.lanesAt k p (p l)) =
      if b = .z then (Spec.lanesAt k p (p l)).length else (Spec.B k b j).toNat := by
    rw [arrivals, List.headD_eq_head?_getD, hj, Option.getD_some, keptNat_fbarrAccs hlane, fbCounted]
    by_cases hz : b = .z <;> simp [hz]
  rw [← hcount]
  exact hwords l hl
end Sys2Proof.Proofs
end
section
/-! ## Copies, prefetches and collectives (10 R176 to R179, 20 R347, R348) -/

namespace Sys2Proof.Laws
open Sys2Proof Sys2Proof.Machine Sys2Proof.Safety

/-! ### Tags (10 R169 to R171) -/

theorem tag_setTag (c : Core) (t j : Nat) (v : Tag) : (c.setTag t v).tag j = if t = j then v else c.tag j :=
  kv_getD_put ..
theorem setTag_setTag (c : Core) (t : Nat) (v w : Tag) : (c.setTag t v).setTag t w = c.setTag t w := by
  rw [Core.setTag, Core.setTag, Core.setTag, kv_put_put]

theorem tagFree_of_spec {s : State} {k : Ctx} {t : Nat} (h : Spec.TagFree s k t) : (s.core k.sh.core).tagFree k.sh.uid t = true := by
  obtain ⟨hbusy, hheld⟩ := h
  rw [Core.tagFree, bne_iff_ne.mpr hbusy, Bool.true_and, Bool.or_eq_true, decide_eq_true_iff, beq_iff_eq]
  exact hheld.symm

theorem setCore_setCore (s : State) (c : Nat) (v w : Core) : (s.setCore c v).setCore c w = s.setCore c w := by
  rw [State.setCore, State.setCore, State.setCore, kv_put_put]

theorem core_tagBusy (s : State) (core uid t kind : Nat) :
    (s.tagBusy core uid t kind).core core = (s.core core).setTag t ⟨.busy, some uid, kind, 0, 0⟩ := by
  rw [State.tagBusy, core_setCore, if_pos rfl]

theorem coreOnly_setCore (s : State) (c : Nat) (v : Core) : Spec.CoreOnly s (s.setCore c v) c v :=
  ⟨rfl, fun x hx => by rw [core_setCore, if_neg hx.symm], by rw [core_setCore, if_pos rfl]⟩

/-- A tag of a stook that is not parked and has a sheaf left is READY at the completion (10 R171). -/
theorem tagReady_of_housed {s : State} {k : Ctx} (hh : Spec.Housed s k) (hsh : s.sheaf? k.sid = some k.sh)
    (core t kind cause count : Nat) : s.tagReady core k.sh.uid t kind cause count =
      s.setCore core ((s.core core).setTag t ⟨.ready, some k.sh.uid, kind, cause, count⟩) := by
  obtain ⟨st, hst, hparked, hmem⟩ := hh
  rw [State.stookOf] at hst
  have hleft : (s.sheavesOf st).isEmpty = false := by
    refine List.isEmpty_eq_false_iff_exists_mem.mpr ⟨(k.sid, k.sh), List.mem_filterMap.mpr ⟨k.sid, hmem, ?_⟩⟩
    rw [hsh]; rfl
  rw [State.tagReady]
  simp only [hst, Option.map_some, hparked, Option.getD_some, hleft, Bool.false_eq_true, if_false]

/-- An operation that ends as it starts: its tag goes from BUSY to READY (10 R176). -/
theorem tagReady_tagBusy {s : State} {k : Ctx} (hh : Spec.Housed s k) (hsh : s.sheaf? k.sid = some k.sh) (t kind cause : Nat) :
    (s.tagBusy k.sh.core k.sh.uid t kind).tagReady k.sh.core k.sh.uid t kind cause 0 =
      s.setCore k.sh.core ((s.core k.sh.core).setTag t ⟨.ready, some k.sh.uid, kind, cause, 0⟩) := by
  rw [tagReady_of_housed (s := s.tagBusy k.sh.core k.sh.uid t kind) hh hsh, core_tagBusy, setTag_setTag, State.tagBusy,
    setCore_setCore]

/-! ### The fork (10 R172, 12 R218) -/

/-- The lanes of the path have nothing to release: a FENCE by them would go on at once. -/
theorem releaseState_clear {i : Instr} {s : State} {k : Ctx} (h : Issues i s k) (hq : Spec.Quiet s k) (sc : Scope) :
    s.releaseState k.sid s.nextId k.path sc = .clear := by
  have howes : s.owes k.sid (k.path ||| k.path) = false := by
    have hboth := hq.owes
    rw [BitVec.or_comm] at hboth
    rw [BitVec.or_self]
    exact owes_false_of_or hboth
  have hsh : s.sheaf? k.sid = some k.sh := issues_sheaf h
  exact orderState_clear (i := .fence .t .rel sc) (k := { k with e := k.path }) nofun hsh rfl rfl
    (by rw [Sheaf.before, hq.flights]; rfl) rfl rfl (fun _ => ⟨hq.flights, howes, hq.gather, hq.failed⟩)

theorem publishUpTo_of_gather_nil {s : State} {b : Nat} (h : (s.barn b).gather = []) (sc : Scope) : s.publishUpTo b sc = s := by
  rw [State.publishUpTo, h]; rfl

theorem forkRelease_quiet {i : Instr} {s : State} {k : Ctx} (h : Issues i s k) (hq : Spec.Quiet s k)
    (go : State → Except TrapInfo Done) : forkRelease s k go = go s := by
  rw [forkRelease, releaseState_clear h hq, publishUpTo_of_gather_nil hq.gather]

/-! ### The checks of a copy (10 R176, 18 R308) -/

theorem toNat_loWord (x : DWord) : (loWord x).toNat = x.toNat % 2 ^ 32 := by
  rw [loWord, BitVec.extractLsb'_toNat, Nat.shiftRight_zero]

theorem elem_dvd (o : WainOp) : o.elem ∣ 2 ^ 32 := by
  unfold WainOp.elem; split <;> decide

/-- A bin address is aligned as the register pair that gives it. -/
theorem sideAddr_mod_elem (o : WainOp) (sp : Nat) (x : DWord) :
    (if isBinSpace sp then binAddrOf x else x.toNat) % o.elem = x.toNat % o.elem := by
  split
  · rw [binAddrOf, toNat_loWord, Nat.mod_mod_of_dvd _ (elem_dvd o)]
  · rfl

theorem binFits_of_le {st : Stook} {b : BinId} {addr n : Nat} (hlow : addr < 2 ^ 24) (hn : addr + n ≤ st.binLen b) :
    st.binFits b addr n = true := by
  rw [Stook.binFits, binZero, binOffset, Nat.mod_eq_of_lt hlow, Bool.and_eq_true, decide_eq_true_iff, decide_eq_true_iff]
  exact ⟨by omega, hn⟩

section
variable {s : State} {k : Ctx} {o : WainOp} (h : Spec.CopyAllowed s k o)
include h

theorem spacesOk_of_allowed : o.spacesOk = true := by
  rw [WainOp.spacesOk, Bool.and_eq_true, bne_iff_ne, bne_iff_ne]
  exact h.spaces

theorem no_member_of_allowed {sp : Nat} {x : DWord} (hp : (sp, x) ∈ [(o.dstSpace, o.dst), (o.srcSpace, o.src)]) :
    (isBinSpace sp && decide (binMember (binAddrOf x) ≠ 0)) = false := by
  cases hsp : isBinSpace sp with
  | false => rfl
  | true =>
    obtain ⟨hlo, hhi⟩ := of_decide_eq_true hsp
    exact decide_eq_false (not_not.mpr (h.member _ hp hlo hhi))

theorem aligned_of_allowed : ([if isBinSpace o.dstSpace then binAddrOf o.dst else o.dst.toNat,
    if isBinSpace o.srcSpace then binAddrOf o.src else o.src.toNat, o.count, o.ss, o.ds].any fun x => x % o.elem != 0) = false := by
  have haligned := h.aligned
  simp only [List.mem_cons, List.not_mem_nil, or_false, forall_eq_or_imp, forall_eq] at haligned
  simp only [List.any_cons, List.any_nil, sideAddr_mod_elem, haligned]
  rfl

theorem inside_of_allowed (htotal : o.total ≠ 0) {sp n : Nat} {x : DWord}
    (hp : (sp, x, n) ∈ [(o.dstSpace, o.dst, o.dstExtent), (o.srcSpace, o.src, o.srcExtent)]) {st : Stook}
    (hst : s.stookOf k.sh = some st) : (isBinSpace sp && !st.binFits (spaceBin sp) (binAddrOf x) n) = false := by
  cases hsp : isBinSpace sp with
  | false => rfl
  | true =>
    obtain ⟨hlo, hhi⟩ := of_decide_eq_true hsp
    obtain ⟨hlow, st', hst', hn⟩ := h.bins htotal _ hp hlo hhi
    obtain rfl := Option.some.inj (hst'.symm.trans hst)
    rw [Bool.true_and, Bool.not_eq_false']
    exact binFits_of_le hlow hn

theorem copyCheck_of_allowed : copyCheck s k o = none := by
  unfold copyCheck
  simp only [tagFree_of_spec h.tag, spacesOk_of_allowed h, no_member_of_allowed h (sp := o.srcSpace) (x := o.src) (by simp),
    no_member_of_allowed h (sp := o.dstSpace) (x := o.dst) (by simp), aligned_of_allowed h, Bool.not_true, Bool.or_self,
    Bool.false_eq_true, if_false]
  by_cases htotal : o.total = 0
  · rw [if_pos htotal]
  rw [if_neg htotal]
  cases hst : s.stookOf k.sh with
  | none => simp only [Bool.not_true, Bool.and_false, Bool.false_eq_true, if_false, ite_self]
  | some st =>
    simp only [inside_of_allowed h htotal (sp := o.dstSpace) (x := o.dst) (n := o.dstExtent) (by simp) hst,
      inside_of_allowed h htotal (sp := o.srcSpace) (x := o.src) (n := o.srcExtent) (by simp) hst, Bool.false_eq_true, if_false,
      Option.bind_some]
    by_cases hglobal : o.dstSpace = 0
    · rw [if_neg (not_not.mpr hglobal)]
      cases hc : s.cropOf st with
      | none => rfl
      | some c =>
        refine if_neg fun hany => ?_
        obtain ⟨r, hr, hrefused⟩ := List.any_eq_true.mp hany
        have hadmitted := h.admitted htotal hglobal st c hst hc r (List.mem_range.mp hr)
        rw [← apply_ite (st.storeRefused c _)] at hrefused
        exact Bool.noConfusion (hadmitted.symm.trans hrefused)
    · rw [if_pos hglobal]

end

/-! ### Copies (10 R176, R177) -/

/-- What a copy leaves that R176 allows: its tag READY where it reaches no byte or is beyond a limit of R177, with CAUSE 7
in the second case, else its tag BUSY and the copy, with a name of its own, in the queue. -/
def afterCopy (s : State) (k : Ctx) (o : WainOp) : State :=
  let x := s.core k.sh.core
  if o.total = 0 then s.setCore k.sh.core (x.setTag o.tag ⟨.ready, some k.sh.uid, o.kind, 0, 0⟩)
  else if o.shapeBad then s.setCore k.sh.core (x.setTag o.tag ⟨.ready, some k.sh.uid, o.kind, 7, 0⟩)
  else ({ s with nextId := s.nextId + 1 } : State).setCore k.sh.core
    { x.setTag o.tag ⟨.busy, some k.sh.uid, o.kind, 0, 0⟩ with wainQ := x.wainQ ++ [{ o with id := s.nextId }] }

/-- The start of a copy once its checks and its fork have passed. -/
def copyStart (s : State) (k : Ctx) (o : WainOp) : Except TrapInfo Done :=
  let s := s.tagBusy k.sh.core k.sh.uid o.tag o.kind
  if o.total = 0 then .ok { st := s.tagReady k.sh.core k.sh.uid o.tag o.kind 0 0 }
  else if o.shapeBad then .ok { st := s.tagReady k.sh.core k.sh.uid o.tag o.kind 7 0 }
  else
    let (id, s) := s.fresh
    .ok { st := s.setCore k.sh.core { s.core k.sh.core with wainQ := (s.core k.sh.core).wainQ ++ [{ o with id := id }] } }

theorem copyBody_of_allowed {s : State} {k : Ctx} {t : Fin 64} {kind : Nat} {a b : SReg} {c : List Word} {w3 : Nat}
    (hroom : (s.core k.sh.core).wainQ.length + (s.core k.sh.core).wainRun.length < 16)
    (ha : Spec.CopyAllowed s k (Spec.copyOp s k t kind a b c w3)) :
    copyBody s k t.val kind (k.pairA a.reg 0) (k.pairB b.reg 0) c w3 =
      forkRelease s k (copyStart · k (Spec.copyOp s k t kind a b c w3)) := by
  have hcheck := copyCheck_of_allowed ha
  rw [Spec.copyOp] at hcheck
  simp only [copyBody, if_neg (Nat.not_le.mpr hroom), hcheck]
  rfl

theorem copyStart_eq {s : State} {k : Ctx} (hh : Spec.Housed s k) (hsh : s.sheaf? k.sid = some k.sh) (o : WainOp) :
    copyStart s k o = .ok { st := afterCopy s k o } := by
  unfold copyStart afterCopy
  simp only [tagReady_tagBusy hh hsh]
  by_cases htotal : o.total = 0
  · rw [if_pos htotal, if_pos htotal]
  · rw [if_neg htotal, if_neg htotal]
    cases hshape : o.shapeBad with
    | true => rfl
    | false =>
      have hcore : (s.tagBusy k.sh.core k.sh.uid o.tag o.kind).fresh.2.core k.sh.core = _ := core_tagBusy ..
      simp only [hcore]
      exact congrArg (fun u => Except.ok ({ st := u } : Done))
        (setCore_setCore ({ s with nextId := s.nextId + 1 } : State) k.sh.core _ _)

theorem exec_of_copies {i : Instr} {t : Fin 64} {kind : Nat} {a b : SReg} {c : Ctx → List Word} {w3 : Nat}
    (hi : Spec.copies i = some (t, kind, a, b, c, w3)) (s : State) :
    exec i s = issue i s (fun k => copyBody s k t.val kind (k.pairA a.reg 0) (k.pairB b.reg 0) (c k) w3) := by
  cases i <;> cases hi <;> rfl

/-- The core of a copy afterwards. -/
theorem afterCopy_core (s : State) (k : Ctx) (o : WainOp) :
    let x := s.core k.sh.core
    ∃ y, Spec.CoreOnly s { afterCopy s k o with nextId := s.nextId } k.sh.core y ∧
      (∀ j, j ≠ o.tag → y.tag j = x.tag j) ∧ { y with tags := x.tags, wainQ := x.wainQ } = x ∧
      (if o.total = 0 then y.tag o.tag = ⟨.ready, some k.sh.uid, o.kind, 0, 0⟩ ∧ y.wainQ = x.wainQ
       else if o.shapeBad then y.tag o.tag = ⟨.ready, some k.sh.uid, o.kind, 7, 0⟩ ∧ y.wainQ = x.wainQ
       else y.tag o.tag = ⟨.busy, some k.sh.uid, o.kind, 0, 0⟩ ∧ y.wainQ = x.wainQ ++ [{ o with id := s.nextId }]) := by
  intro x
  have hother (v : Tag) (j : Nat) (hj : j ≠ o.tag) : (x.setTag o.tag v).tag j = x.tag j := by
    rw [tag_setTag, if_neg hj.symm]
  have hself (v : Tag) : (x.setTag o.tag v).tag o.tag = v := by rw [tag_setTag, if_pos rfl]
  unfold afterCopy
  split_ifs <;> exact ⟨_, coreOnly_setCore s _ _, hother _, rfl, hself _, rfl⟩

/-! ### PFL2 (10 R179) -/

/-- The state with one prefetch more, which completes on a tag or on a counter. -/
def withPrefetch (s : State) (k : Ctx) (tag : Option Nat) (counter : Option DWord) (start : DWord) (len : Word) : State :=
  { s with
    pfl2 := s.pfl2 ++ [⟨s.nextId, dieOf k.sh.core, k.sh.core, k.sh.uid, k.sid, k.ctx, tag, counter, 0, start,
      min len.toNat 67108864, []⟩]
    nextId := s.nextId + 1 }

section
variable {i : Instr} {s : State} {k : Ctx} (h : Issues i s k) (hq : Spec.Quiet s k)
  (hroom : (s.pfl2.filter (fun o => o.die == dieOf k.sh.core)).length < 64)
include h hq hroom

theorem pfl2Body_tag {t : Fin 64} (ht : Spec.TagFree s k t.val) (start : DWord) (len : Word) :
    pfl2Body s k (.tag t) start len =
      .ok { st := withPrefetch (s.tagBusy k.sh.core k.sh.uid t.val 4) k (some t.val) none start len } := by
  simp only [pfl2Body, if_neg (Nat.not_le.mpr hroom), tagFree_of_spec ht, Bool.not_true, Bool.false_eq_true, if_false,
    forkRelease_quiet h hq]
  rfl

theorem pfl2Body_cc {b : SReg} (hb : (k.pairB b.reg 0).toNat % 8 = 0) (start : DWord) (len : Word) :
    pfl2Body s k (.cc b) start len = .ok { st := withPrefetch s k none (some (k.pairB b.reg 0)) start len } := by
  simp only [pfl2Body, if_neg (Nat.not_le.mpr hroom), hb, bne_self_eq_false, Bool.false_eq_true, if_false,
    forkRelease_quiet h hq]
  rfl

end

/-! ### COLL (20 R347, R348) -/

/-- The state in which a group has taken its next step number. -/
def nextStep (s : State) (grp : Nat) : State :=
  ({ s with nextId := s.nextId + 1 } : State).setGroup grp { s.group grp with seq := (s.group grp).seq + 1 }

/-- The operation that COLL asks for: nothing of it is done, and its source is as it stands. -/
def collOp (s : State) (k : Ctx) (tag : Nat) (dst src : DWord) (count : Nat) (ty : Ty) (op : CollOp) (kind : CollKind)
    (grp : Nat) : CollOp_ where
  id := s.nextId
  core := k.sh.core
  uid := k.sh.uid
  sid := k.sid
  ctx := k.ctx
  tag := tag
  dst := dst
  src := src
  count := count
  ty := ty
  op := op
  kind := kind
  group := grp
  seq := (s.group grp).seq.toNat
  rebuilds := 0
  recs := []
  token := s.tokenOf k.sh
  snap := ({ s with nextId := s.nextId + 1 } : State).peek k.sh.core k.ctx src.toNat count
  given := []
  torn := false
  fin := none
  written := []
  out := none
  done := 0

/-- What COLL leaves: the tag READY where the step reaches no byte, else BUSY and the step under way. -/
def afterColl (s : State) (k : Ctx) (o : CollOp_) : State :=
  if o.count = 0 then (nextStep s o.group).setCore k.sh.core ((s.core k.sh.core).setTag o.tag ⟨.ready, some k.sh.uid, 5, 0, 0⟩)
  else { (nextStep s o.group).tagBusy k.sh.core k.sh.uid o.tag 5 with colls := s.colls ++ [o] }

/-- The group of a step is valid for the crop's partition and for the context (20 R348). -/
theorem group_admits {g : Group} {cr : Crop} {ctx : Nat} (hvalid : g.flags % 2 = 1) (hpart : cr.part = g.flags / 2 % 16)
    (hctx : g.ctx = ctx) : ¬(g.flags % 2 = 0 ∨ some cr.part ≠ some (bitsOf g.flags 1 4) ∨ g.ctx ≠ ctx) := by
  rintro (hinvalid | hother | hother)
  · omega
  · exact hother (congrArg some hpart)
  · exact hother hctx

theorem collBody_of_allowed {i : Instr} {s : State} {k : Ctx} {t : Nat} {dst src : DWord} {count grp : Nat} {ty : Ty}
    {st : Stook} {cr : Crop} (op : CollOp) (kind : CollKind) (h : Issues i s k) (hq : Spec.Quiet s k) (hh : Spec.Housed s k)
    (ht : Spec.TagFree s k t) (hst : s.stookOf k.sh = some st) (hcr : s.cropOf st = some cr)
    (hgroup : ¬((s.group grp).flags % 2 = 0 ∨ some cr.part ≠ some (bitsOf (s.group grp).flags 1 4) ∨ (s.group grp).ctx ≠ k.ctx))
    (hcount : count ≤ 1048576) (hdst : dst.toNat % (ty.bits / 8) = 0) (hsrc : src.toNat % (ty.bits / 8) = 0)
    (hwhole : count % (ty.bits / 8) = 0) (hranges : 0 < count → st.storeRefused cr dst.toNat count = false) :
    collBody s k t dst src count ty op kind grp = .ok { st := afterColl s k (collOp s k t dst src count ty op kind grp) } := by
  have hrefused : (decide (0 < count) && st.storeRefused cr dst.toNat count) = false := by
    by_cases hpos : 0 < count
    · rw [hranges hpos, Bool.and_false]
    · rw [decide_eq_false hpos, Bool.false_and]
  have hsh := issues_sheaf h
  have hready := tagReady_tagBusy (s := nextStep s grp) hh hsh t 5 0
  simp only [collBody, tagFree_of_spec ht, hst, Option.bind_some, Option.map_some, hcr, if_neg hgroup, if_neg (Nat.not_lt.mpr hcount),
    hdst, hsrc, hwhole, hrefused, ne_eq, not_true_eq_false, or_self, Bool.not_true, Bool.false_eq_true, if_false,
    forkRelease_quiet h hq]
  unfold afterColl
  by_cases hzero : count = 0
  · rw [if_pos hzero, if_pos (show (collOp s k t dst src count ty op kind grp).count = 0 from hzero)]
    exact congrArg (fun u => Except.ok ({ st := u } : Done)) hready
  · rw [if_neg hzero, if_neg (show (collOp s k t dst src count ty op kind grp).count ≠ 0 from hzero)]
    rfl

/-- Only the group's step number, the tag and the list of steps differ. -/
theorem afterColl_effect (s : State) (k : Ctx) (o : CollOp_) :
    (afterColl s k o).group o.group = { s.group o.group with seq := (s.group o.group).seq + 1 } ∧
    (∀ x, x ≠ o.group → (afterColl s k o).group x = s.group x) ∧
    { afterColl s k o with cores := s.cores, colls := s.colls, nextId := s.nextId, fabric := s.fabric } = s ∧
    (o.count = 0 → ((afterColl s k o).core k.sh.core).tag o.tag = ⟨.ready, some k.sh.uid, 5, 0, 0⟩ ∧
      (afterColl s k o).colls = s.colls) ∧
    (o.count ≠ 0 → ((afterColl s k o).core k.sh.core).tag o.tag = ⟨.busy, some k.sh.uid, 5, 0, 0⟩ ∧
      (afterColl s k o).colls = s.colls ++ [o]) := by
  have hsame : (nextStep s o.group).group o.group = { s.group o.group with seq := (s.group o.group).seq + 1 } := by
    rw [nextStep, group_setGroup, if_pos rfl]
  have hother (x : Nat) (hx : x ≠ o.group) : (nextStep s o.group).group x = s.group x := by
    rw [nextStep, group_setGroup, if_neg hx.symm]; rfl
  have htag (v : State) (c : Core) (tag : Tag) : ((v.setCore k.sh.core (c.setTag o.tag tag)).core k.sh.core).tag o.tag = tag := by
    rw [core_setCore, if_pos rfl, tag_setTag, if_pos rfl]
  unfold afterColl
  split
  · next hzero => exact ⟨hsame, hother, rfl, fun _ => ⟨htag _ _ _, rfl⟩, fun hne => absurd hzero hne⟩
  · next hne => exact ⟨hsame, hother, rfl, fun hzero => absurd hzero hne, fun _ => ⟨htag _ _ _, rfl⟩⟩

end Sys2Proof.Laws

namespace Sys2Proof.Proofs
open Sys2Proof Sys2Proof.Machine Sys2Proof.Safety Sys2Proof.Laws

/-- Settles O28: where the checks pass and the fork has nothing to wait for, each starts its operation and its tag. -/
theorem copiesAndCollectives : Obligations.CopiesAndCollectives := by
  unfold Obligations.CopiesAndCollectives
  refine ⟨?_, ?_, ?_⟩
  · intro i t kind a b c w3 s k hi _ h hroom hh hq ha
    exact ⟨_, ⟨_, exec_of_copies hi s, issue_leaves i s _ k _ h ((copyBody_of_allowed hroom ha).trans
      ((forkRelease_quiet h hq _).trans (copyStart_eq hh (issues_sheaf h) _)))⟩, afterCopy_core s k _⟩
  · intro g x a c s k h hq hroom hx
    cases x with
    | tag t =>
      obtain ⟨-, hothers, hcore⟩ := coreOnly_setCore s k.sh.core ((s.core k.sh.core).setTag t.val ⟨.busy, some k.sh.uid, 4, 0, 0⟩)
      exact ⟨_, ⟨_, rfl, issue_leaves _ s _ k _ h (pfl2Body_tag h hq hroom hx _ _)⟩, rfl, hothers, hcore,
        _, rfl, rfl, rfl, rfl, rfl, rfl, rfl⟩
    | cc b =>
      exact ⟨_, ⟨_, rfl, issue_leaves _ s _ k _ h (pfl2Body_cc h hq hroom hx _ _)⟩, rfl, fun _ _ => rfl, rfl,
        _, rfl, rfl, rfl, rfl, rfl, rfl, rfl⟩
  · intro g t a b c ty op kind grp s k st cr _ h hq hh ht hst hcr hvalid hpart hctx hcount hdst hsrc hwhole hranges
    obtain ⟨hgroup, hothers, hframe, hnone, hsome⟩ := afterColl_effect s k
      (collOp s k t.val (k.pairA a.reg 0) (k.pairB b.reg 0) (Spec.SC k c).toNat ty op kind grp.val)
    refine ⟨_, ⟨_, rfl, issue_leaves _ s _ k _ h (collBody_of_allowed op kind h hq hh ht hst hcr
      (group_admits hvalid hpart hctx) hcount hdst hsrc hwhole hranges)⟩, hgroup, hothers, hframe, ?_⟩
    by_cases hzero : (Spec.SC k c).toNat = 0
    · rw [if_pos hzero]
      exact hnone hzero
    · rw [if_neg hzero]
      obtain ⟨htag, hcolls⟩ := hsome hzero
      exact ⟨htag, _, hcolls, rfl, rfl, rfl, rfl, rfl, rfl, rfl, rfl, rfl⟩
end Sys2Proof.Proofs
end
section
/-! ## The thresher: its ownership and its queue (11 R183 to R200) -/

namespace Sys2Proof.Laws
open Sys2Proof Sys2Proof.Machine Sys2Proof.Safety

/-! ### The thresher of a core -/

theorem core_modMx (s : State) (c : Nat) (f : Thresher → Thresher) :
    (s.modMx c f).core c = { s.core c with mx := f (s.core c).mx } := by
  rw [State.modMx, core_setCore, if_pos rfl]

theorem coreOnly_modMx (s : State) (c : Nat) (f : Thresher → Thresher) :
    Spec.CoreOnly s (s.modMx c f) c { s.core c with mx := f (s.core c).mx } :=
  coreOnly_setCore s c _

theorem modMx_modMx (s : State) (c : Nat) (f g : Thresher → Thresher) :
    (s.modMx c f).modMx c g = s.modMx c (fun t => g (f t)) := by
  unfold State.modMx
  rw [core_setCore, if_pos rfl, setCore_setCore]

theorem core_of_cores {s u : State} (h : u.cores = s.cores) (c : Nat) : u.core c = s.core c := by
  rw [State.core, State.core, h]

/-! ### Acquires of a path -/

/-- What an acquire at .ST by the path leaves of its sheaf (14 R249). -/
theorem acquire_path {s : State} {sid : Nat} {sh : Sheaf} (h : s.sheaf? sid = some sh) (m : LaneSet) (sc : Scope) :
    ∃ shu, (s.acquire sid m sc).sheaf? sid = some shu ∧ (s.acquire sid m sc).mem = s.mem ∧
      (s.acquire sid m sc).cores = s.cores ∧ { shu with lanes := sh.lanes } = sh ∧
      ∀ l < 64, Spec.Acquired sh m l (shu.lane l) := by
  obtain ⟨hsh, hmem, hcores⟩ := acquire_effect h m sc
  exact ⟨_, hsh, hmem, hcores, modLanes_frame sh m _, fun l _ => lane_modLanes sh m _ l⟩

/-! ### Waits that keep their path (03 R52) -/

/-- The issuing sheaf with one flight more. -/
def flightSheaf (k : Ctx) (f : Flight) : Sheaf := { k.sh with flights := k.sh.flights ++ [f] }
/-- The state in which a wait of the issuing path stands in its sheaf's list. -/
def withFlight (s : State) (k : Ctx) (f : Flight) : State :=
  ({ s with nextId := s.nextId + 1 } : State).setSheaf k.sid (flightSheaf k f)

theorem sheaf_withFlight (s : State) (k : Ctx) (f : Flight) :
    (withFlight s k f).sheaf? k.sid = some (flightSheaf k f) := by
  rw [withFlight, sheaf_setSheaf, if_pos rfl]

theorem dropFlight_flightSheaf {k : Ctx} (h : k.sh.flights = []) (f : Flight) : (flightSheaf k f).dropFlight f.id = k.sh := by
  have honly : List.filter (fun x : Flight => x.id != f.id) [f] = [] :=
    List.filter_cons_of_neg (by rw [bne_self_eq_false]; exact Bool.false_ne_true)
  rw [Sheaf.dropFlight, flightSheaf, h, List.nil_append, honly, ← h]

theorem addFlight_eq_withFlight {s : State} {k : Ctx} (h : s.sheaf? k.sid = some k.sh) (i : Instr) (stage : Stage) (stay : Bool)
    (accs : List Machine.Acc) :
    s.addFlight k i stage stay accs = (s.nextId, withFlight s k (k.flight i s.nextId stage stay accs)) := by
  have hsh : ({ s with nextId := s.nextId + 1 } : State).sheaf? k.sid = some k.sh := h
  rw [State.addFlight]
  simp only [State.fresh]
  rw [modSheaf_some _ _ _ _ hsh]
  rfl

/-- An instruction that waits stands with its path, and its flight with its sheaf's. -/
theorem waits_leavesBut {i : Instr} {s u : State} {k : Ctx} {body : Ctx → Except TrapInfo Done} (hi : exec i s = issue i s body)
    (h : Issues i s k) (hu : u.sheaf? k.sid = some k.sh) (hb : body k = .ok (waitDone u k i [])) :
    ∃ shu f, LeavesBut i k s (withFlight u k f) (if k.replay.isNone then k.path else 0) ∧
      (withFlight u k f).sheaf? k.sid = some shu ∧ { shu with flights := k.sh.flights } = k.sh ∧
      shu.flights = k.sh.flights ++ [f] ∧ f.instr = i ∧ f.path = k.path := by
  rw [waitDone, State.waitAt, addFlight_eq_withFlight hu] at hb
  exact ⟨_, k.flight i u.nextId .waiting true [], ⟨_, hi, issue_leavesBut i s _ k _ body h hb⟩, sheaf_withFlight u k _, rfl, rfl,
    rfl, rfl⟩

/-! ### Ownership (11 R183, R184, R186, R200) -/

theorem owner_of_owns {s : State} {k : Ctx} (hserves : k.sh.serves = none) (howner : (s.core k.sh.core).mx.owner = some k.sid) :
    k.owner s = true := by
  rw [Ctx.owner, hserves, decide_eq_true howner]; rfl

theorem uses_eq_false {t : Thresher} {sid : Nat} (h : ∀ e ∈ t.queue, e.sid ≠ sid) : t.uses sid = false :=
  List.any_eq_false.mpr fun e he => by rw [beq_iff_eq]; exact h e he

/-- The thresher with a sheaf in its queue of waiting sheaves. -/
def waitsIn (sid : Nat) (t : Thresher) : Thresher :=
  { t with waitq := if t.waitq.contains sid then t.waitq else t.waitq ++ [sid] }

/-- What MXTRY leaves: the thresher granted where it is free, the predicate whether the sheaf owns it (11 R183). -/
def tried (s : State) (k : Ctx) (d : Fin 7) : State :=
  let t := (s.core k.sh.core).mx
  let v := if t.owner = none ∧ t.waitq = [] then (s.mxGrant k.sh.core k.sid).acquire k.sid k.path .st else s
  v.modSheaf k.sid (Spec.uniPred · d (decide (t.owner = some k.sid ∨ t.owner = none ∧ t.waitq = [])))

section
variable {s : State} {k : Ctx} (hserves : k.sh.serves = none)
include hserves

theorem mxacqBody_owner (i : Instr) (howner : (s.core k.sh.core).mx.owner = some k.sid) : mxacqBody i s k = .ok { st := s } := by
  simp only [mxacqBody, hserves, Option.isSome_none, Bool.false_eq_true, if_false, if_pos howner]

theorem mxacqBody_free (i : Instr) (howner : (s.core k.sh.core).mx.owner = none) (hq : (s.core k.sh.core).mx.waitq = []) :
    mxacqBody i s k = .ok { st := (s.mxGrant k.sh.core k.sid).acquire k.sid k.path .st } := by
  simp only [mxacqBody, hserves, Option.isSome_none, Bool.false_eq_true, if_false, howner, hq, and_self, if_true, reduceCtorEq]

theorem mxacqBody_waits (i : Instr) (howner : (s.core k.sh.core).mx.owner ≠ some k.sid)
    (hbusy : (s.core k.sh.core).mx.owner ≠ none ∨ (s.core k.sh.core).mx.waitq ≠ []) :
    mxacqBody i s k = .ok (waitDone (s.modMx k.sh.core (waitsIn k.sid)) k i []) := by
  have hnot : ¬((s.core k.sh.core).mx.owner = none ∧ (s.core k.sh.core).mx.waitq = []) := fun hfree =>
    hbusy.elim (fun h => h hfree.1) (fun h => h hfree.2)
  simp only [mxacqBody, hserves, Option.isSome_none, Bool.false_eq_true, if_false, if_neg howner, if_neg hnot]
  rfl

theorem mxtryBody_eq (d : Fin 7) : mxtryBody s k d = .ok { st := tried s k d } := by
  unfold tried
  simp only [mxtryBody, hserves, Option.isSome_none, Bool.false_eq_true, if_false]
  by_cases howner : (s.core k.sh.core).mx.owner = some k.sid
  · simp only [howner, if_true, true_or, decide_true, reduceCtorEq, false_and, if_false]
    rfl
  by_cases hfree : (s.core k.sh.core).mx.owner = none ∧ (s.core k.sh.core).mx.waitq = []
  · rw [if_neg howner, if_pos hfree, if_pos hfree, decide_eq_true (Or.inr hfree)]
    rfl
  · rw [if_neg howner, if_neg hfree, if_neg hfree, decide_eq_false (not_or.mpr ⟨howner, hfree⟩)]
    rfl

end

theorem mem_waitsIn (sid : Nat) (t : Thresher) : sid ∈ (waitsIn sid t).waitq := by
  unfold waitsIn
  dsimp only
  split
  · next h => exact List.contains_iff_mem.mp h
  · exact List.mem_append_right _ (List.mem_singleton_self sid)

/-- A grant with its acquire: the thresher is owned, its collector empty, and the lanes of the path acquired. -/
theorem granted_effect {s : State} {k : Ctx} (h : s.sheaf? k.sid = some k.sh) :
    ∃ shu, ((s.mxGrant k.sh.core k.sid).acquire k.sid k.path .st).sheaf? k.sid = some shu ∧
      ((s.mxGrant k.sh.core k.sid).acquire k.sid k.path .st).mem = s.mem ∧
      (((s.mxGrant k.sh.core k.sid).acquire k.sid k.path .st).core k.sh.core).mx.owner = some k.sid ∧
      (((s.mxGrant k.sh.core k.sid).acquire k.sid k.path .st).core k.sh.core).mx.coll = none ∧
      { shu with lanes := k.sh.lanes } = k.sh ∧ ∀ l < 64, Spec.Acquired k.sh k.path l (shu.lane l) := by
  obtain ⟨shu, hsh, hmem, hcores, hframe, hlanes⟩ := acquire_path (s := s.mxGrant k.sh.core k.sid) h k.path .st
  have hmx : ((s.mxGrant k.sh.core k.sid).acquire k.sid k.path .st).core k.sh.core = _ :=
    (core_of_cores hcores _).trans (core_modMx s k.sh.core _)
  rw [hmx]
  exact ⟨shu, hsh, hmem, rfl, rfl, hframe, hlanes⟩

theorem mxwaitBody_idle (i : Instr) {s : State} {k : Ctx} (hserves : k.sh.serves = none)
    (howner : (s.core k.sh.core).mx.owner = some k.sid) (huses : ∀ e ∈ (s.core k.sh.core).mx.queue, e.sid ≠ k.sid) :
    mxwaitBody i s k = .ok { st := s.acquire k.sid k.path .st } := by
  simp only [mxwaitBody, owner_of_owns hserves howner, uses_eq_false huses, Bool.not_true, Bool.false_eq_true, if_false]

theorem tried_effect {s : State} {k : Ctx} (h : s.sheaf? k.sid = some k.sh) (d : Fin 7) :
    ∃ shu, (tried s k d).sheaf? k.sid = some shu ∧ (tried s k d).mem = s.mem ∧
      (let t := (s.core k.sh.core).mx
       { shu with lanes := k.sh.lanes } =
          Spec.uniPred k.sh d (decide (t.owner = some k.sid ∨ t.owner = none ∧ t.waitq = [])) ∧
       (t.owner = none ∧ t.waitq = [] → ((tried s k d).core k.sh.core).mx.owner = some k.sid) ∧
       (¬(t.owner = none ∧ t.waitq = []) → (tried s k d).cores = s.cores)) := by
  unfold tried
  by_cases hfree : (s.core k.sh.core).mx.owner = none ∧ (s.core k.sh.core).mx.waitq = []
  · obtain ⟨shu, hsh, hmem, howner, -, hframe, -⟩ := granted_effect h
    simp only [if_pos hfree]
    refine ⟨_, by rw [modSheaf_some _ _ _ _ hsh, sheaf_setSheaf, if_pos rfl], by rw [modSheaf_mem, hmem], ?_, fun _ => ?_,
      fun hnot => absurd hfree hnot⟩
    · exact congrArg (Spec.uniPred · d _) hframe
    · rw [core_of_cores (modSheaf_cores ..)]; exact howner
  · simp only [if_neg hfree]
    exact ⟨_, by rw [modSheaf_some _ _ _ _ h, sheaf_setSheaf, if_pos rfl], modSheaf_mem .., rfl, fun hf => absurd hf hfree,
      fun _ => modSheaf_cores ..⟩

/-! ### MXREL (11 R186) -/

/-- A wait that ends for all its lanes. -/
def endedWait (f : Flight) (sh : Sheaf) : Sheaf :=
  (if f.stay then sh.modLanes f.path (fun _ l =>
    if l.pc = f.pc then l.setPc (f.pc + BitVec.ofNat 64 f.instr.form.bytes) else l) else sh).dropFlight f.id

theorem endedWait_frame (f : Flight) (sh : Sheaf) : { endedWait f sh with lanes := sh.lanes } = sh.dropFlight f.id := by
  unfold endedWait
  split
  · exact congrArg (Sheaf.dropFlight · f.id) (modLanes_frame sh f.path _)
  · rfl

/-- A lane that stood at the instruction is at the next one. -/
theorem pc_endedWait {f : Flight} {sh : Sheaf} {l : Nat} (hstay : f.stay = true) (hl : f.path.getLsbD l = true)
    (hpc : (sh.lane l).pc = f.pc) : ((endedWait f sh).lane l).pc = f.pc + BitVec.ofNat 64 f.instr.form.bytes := by
  have hlane : (endedWait f sh).lane l = _ :=
    (congrArg (fun y : Sheaf => (y.dropFlight f.id).lane l) (if_pos hstay)).trans (lane_modLanes sh f.path _ l)
  rw [hlane, if_pos hl, if_pos hpc]
  rfl

theorem moveOn_all (s : State) (sid : Nat) (f : Flight) : s.moveOn sid f f.path = s.modSheaf sid (endedWait f) := by
  unfold State.moveOn endedWait
  simp only [BitVec.and_self, BitVec.and_not_self, if_true]

/-- Ownership given up where no sheaf waits (11 R184). -/
theorem mxRelease_alone {s : State} {core : Nat} (h : (s.core core).mx.waitq = []) :
    s.mxRelease core = s.modMx core (fun t => { t with owner := none }) := by
  have hhead : (s.modMx core (fun t => { t with owner := none })).mxHead core = none := by
    rw [State.mxHead, core_modMx]
    dsimp only
    rw [h]
    rfl
  rw [State.mxRelease]
  simp only [hhead]

/-- The flight of a wait of the issuing path. -/
def waitFlight (i : Instr) (s : State) (k : Ctx) : Flight := k.flight i s.nextId .waiting true []
/-- The state in which the issuing sheaf has given up its thresher and gone on. -/
def relinquished (i : Instr) (s : State) (k : Ctx) : State :=
  ((withFlight s k (waitFlight i s k)).modMx k.sh.core (fun t => { t with owner := none, coll := none })).modSheaf k.sid
    (endedWait (waitFlight i s k))

section
variable {i : Instr} {s : State} {k : Ctx} (hq : Spec.Quiet s k)
include hq

/-- The whole sheaf has nothing to release but what it waits for now (11 R186). -/
theorem releaseState_sheaf (howes : s.owes k.sid k.sh.full = false) :
    (withFlight s k (waitFlight i s k)).releaseState k.sid s.nextId k.sh.full .st = .clear := by
  have hbefore : Sheaf.before (flightSheaf k (waitFlight i s k)) s.nextId = [] := by
    rw [Sheaf.before, flightSheaf, hq.flights]
    refine List.filter_eq_nil_iff.mpr fun f hf => ?_
    rw [List.mem_singleton.mp hf]
    exact fun hlt => Nat.lt_irrefl _ (of_decide_eq_true hlt)
  have hboth : s.owes k.sid (k.sh.full ||| k.sh.full) = false := by rw [BitVec.or_self]; exact howes
  exact orderState_clear (s := s) (i := .fence .t .rel .st) (k := { k with e := k.sh.full, path := k.sh.full }) nofun
    (sheaf_withFlight s k _) rfl rfl hbefore rfl rfl (fun _ => ⟨hq.flights, hboth, hq.gather, hq.failed⟩)

variable (hi : (∃ g, i = .mxrelB32 g) ∨ ∃ g, i = .mxrelX64 g) (howes : s.owes k.sid k.sh.full = false)
  (howner : (s.core k.sh.core).mx.owner = some k.sid) (huses : ∀ e ∈ (s.core k.sh.core).mx.queue, e.sid ≠ k.sid)
  (halone : (s.core k.sh.core).mx.waitq = [])
include hi howes howner huses halone

theorem advanceMx_mxrel :
    (withFlight s k (waitFlight i s k)).advanceMx k.sid (flightSheaf k (waitFlight i s k))
      (waitFlight i s k) = relinquished i s k := by
  have hgather : ((withFlight s k (waitFlight i s k)).barn (barnOf k.sh.core)).gather = [] := hq.gather
  have hown : ((withFlight s k (waitFlight i s k)).core k.sh.core).mx.owner = some k.sid := howner
  have huse : ((withFlight s k (waitFlight i s k)).core k.sh.core).mx.uses k.sid = false := uses_eq_false huses
  have hrel : ((withFlight s k (waitFlight i s k)).modMx k.sh.core (fun t => { t with coll := none })).mxRelease k.sh.core =
      (withFlight s k (waitFlight i s k)).modMx k.sh.core (fun t => { t with owner := none, coll := none }) := by
    rw [mxRelease_alone (by rw [core_modMx]; exact halone), modMx_modMx]
  have hclear := releaseState_sheaf (i := i) hq howes
  have hinstr : (waitFlight i s k).instr = i := rfl
  have hid : (waitFlight i s k).id = s.nextId := rfl
  have hfull : (flightSheaf k (waitFlight i s k)).full = k.sh.full := rfl
  have hcore : (flightSheaf k (waitFlight i s k)).core = k.sh.core := rfl
  rw [relinquished, ← moveOn_all, State.advanceMx, hinstr]
  rcases hi with ⟨g, rfl⟩ | ⟨g, rfl⟩ <;>
    simp only [hcore, hfull, huse, hid, hclear, publishUpTo_of_gather_nil hgather, hown, hrel, Bool.false_eq_true, if_false, if_true]

theorem mxrelBody_idle (hsh : s.sheaf? k.sid = some k.sh) (hserves : k.sh.serves = none) :
    mxrelBody i s k = .ok { st := relinquished i s k, stay := if k.replay.isNone then k.path else 0 } := by
  have hflight : Sheaf.flight? (flightSheaf k (waitFlight i s k)) s.nextId = some (waitFlight i s k) :=
    flight_of_only (by rw [flightSheaf, hq.flights]; rfl) rfl
  have htry : (withFlight s k (waitFlight i s k)).tryFlight k.sid s.nextId State.advanceMx = relinquished i s k := by
    rw [State.tryFlight, sheaf_withFlight, Option.bind_some, hflight]
    exact advanceMx_mxrel hq hi howes howner huses halone
  rw [mxrelBody, owner_of_owns hserves howner, addFlight_eq_withFlight hsh]
  exact congrArg (fun u => Except.ok ({ st := u, stay := _ } : Done)) htry

end

/-- The sheaf that has given up its thresher: its lanes alone differ, those that stayed being at the next instruction. -/
theorem relinquished_effect {i : Instr} {s : State} {k : Ctx} (hfl : k.sh.flights = []) (hpc : Spec.AtPc k)
    (hlen : k.len = i.form.bytes) :
    ∃ shu, (relinquished i s k).sheaf? k.sid = some shu ∧ (relinquished i s k).mem = s.mem ∧
      { shu with lanes := k.sh.lanes } = k.sh ∧
      (relinquished i s k).core k.sh.core =
        { s.core k.sh.core with mx := { (s.core k.sh.core).mx with owner := none, coll := none } } ∧
      (k.replay = none → ∀ l, k.path.getLsbD l = true → (shu.lane l).pc = after k) := by
  have hsheaf : (relinquished i s k).sheaf? k.sid = some (endedWait (waitFlight i s k) (flightSheaf k (waitFlight i s k))) := by
    rw [relinquished, sheaf_modSheaf, if_pos rfl]
    exact congrArg (Option.map _) (sheaf_withFlight s k _)
  refine ⟨_, hsheaf, modSheaf_mem .., ?_, (core_of_cores (modSheaf_cores ..) _).trans (core_modMx ..), fun hr l hl => ?_⟩
  · exact (endedWait_frame _ _).trans (dropFlight_flightSheaf hfl _)
  · have hstay : (waitFlight i s k).stay = true := by rw [waitFlight, Ctx.flight, hr]; rfl
    have hlane : ((flightSheaf k (waitFlight i s k)).lane l).pc = k.pc := hpc hr l hl
    rw [pc_endedWait hstay hl hlane, after, hlen]
    rfl

/-- Lanes that stay at an instruction they have left already go on. -/
theorem leaves_of_moved {i : Instr} {s u : State} {k : Ctx} {shu : Sheaf} (hcls : i.cls = .uniform)
    (h : LeavesBut i k s u (if k.replay.isNone then k.path else 0)) (hu : u.sheaf? k.sid = some shu)
    (hpc : k.replay = none → ∀ l, k.path.getLsbD l = true → (shu.lane l).pc = after k) : Leaves i k s u := by
  obtain ⟨t, ht, hret⟩ := h
  refine ⟨t, ht, fun shu' hu' => ?_, hret.gone⟩
  obtain rfl := Option.some.inj (hu.symm.trans hu')
  obtain ⟨sh, heq, hframe, hissued, hreplayed⟩ := hret.here shu hu
  refine ⟨sh, heq, hframe, fun hr => ⟨(hissued hr).1, fun l hl => ?_⟩, hreplayed⟩
  rw [(hissued hr).2 l hl]
  by_cases hpath : k.path.getLsbD l = true
  · have hmoved := hpc hr l hpath
    simp only [hpath, hr, Option.isNone_none, if_true, stands, goesOn, hcls, stayed, passed, ← hmoved]
  · rw [if_neg hpath, if_neg hpath]

/-! ### Operations that join the queue (11 R185) -/

theorem asOwner_of_owns {s : State} {k : Ctx} (h : Spec.Owns s k) (body : Except TrapInfo Done) : asOwner s k body = body := by
  obtain ⟨hserves, howner, hroom⟩ := h
  have hfull : mxFull s k = false := decide_eq_false (Nat.not_le.mpr hroom)
  rw [asOwner, owner_of_owns hserves howner, hfull]
  rfl

theorem mxPush_coreOnly (s : State) (k : Ctx) (op : MxOp) :
    Spec.CoreOnly s (mxPush s k op) k.sh.core (Spec.mxAfter s k op (s.core k.sh.core).mx.coll) :=
  coreOnly_modMx s k.sh.core _

theorem collHit_eq_fromCollector (s : State) (k : Ctx) (op : MxOp) (a : Fin 96) (ty : Ty) (af : Bool) (breg : Nat) :
    collHit (Spec.mxAfter s k op (s.core k.sh.core).mx.coll).mx k a ty af breg = Spec.fromCollector s k a ty af breg := by
  unfold collHit Spec.fromCollector Spec.mxAfter
  cases (s.core k.sh.core).mx.coll <;> rfl

/-- A pass joins the queue, and the collector is filled, emptied or left (11 R194, log 36). -/
theorem keepGroup_coreOnly (s : State) (k : Ctx) (op : MxOp) (a : Fin 96) (ty : Ty) (af keep : Bool) (breg : Nat)
    (grp : KV (List Word)) (bw : KV Word) :
    ∃ coll, Spec.CoreOnly s (keepGroup (mxPush s k op) k a ty af keep breg grp bw) k.sh.core (Spec.mxAfter s k op coll) ∧
      if keep then ∃ c, coll = some c ∧ c.base = a.val ∧ c.ty = ty ∧ c.lanes = k.e
      else coll = if Spec.fromCollector s k a ty af breg then none else (s.core k.sh.core).mx.coll := by
  have hcore := coreOnly_modMx s k.sh.core
  rw [keepGroup, mxPush, modMx_modMx]
  cases keep with
  | true => exact ⟨_, hcore _, _, rfl, rfl, rfl, rfl⟩
  | false =>
    have hhit := collHit_eq_fromCollector s k op a ty af breg
    refine ⟨_, Eq.mp (congrArg (Spec.CoreOnly s _ k.sh.core) ?_) (hcore _), rfl⟩
    cases hfrom : Spec.fromCollector s k a ty af breg with
    | true => exact congrArg (fun t => { s.core k.sh.core with mx := t }) (if_pos (hhit.trans hfrom))
    | false =>
      exact congrArg (fun t => { s.core k.sh.core with mx := t }) (if_neg (ne_true_of_eq_false (hhit.trans hfrom)))

/-! ### Ranges of bins (09 R155) -/

theorem memberIn_eq_false {addr n : Nat} (h : addr < 2 ^ 24) (hn : addr + n ≤ 2 ^ 24) : memberIn addr n = false := by
  have hfirst : binMember addr = 0 := by unfold binMember; omega
  have hlast : binMember (addr + n - 1) = 0 := by unfold binMember; omega
  rw [memberIn, hfirst, hlast]
  rfl

theorem rowMember_none {a pitch n : Nat} (hn : 0 < n) (h : a + (63 * pitch + n) ≤ 2 ^ 24) : rowMember a pitch n = none := by
  refine List.find?_eq_none.mpr fun x hx => ?_
  obtain ⟨r, hr, rfl⟩ := List.mem_map.mp hx
  have hrow : r * pitch ≤ 63 * pitch := Nat.mul_le_mul_right _ (by have := List.mem_range.mp hr; omega)
  rw [memberIn_eq_false (by omega) (by omega)]
  exact Bool.false_ne_true

theorem binZero_of_lt {addr : Nat} (h : addr < 2 ^ 24) : binZero addr = true := decide_eq_true (by omega)

theorem stookLen_of_inBin {s : State} {k : Ctx} {b : BinId} {addr n : Nat} (h : Spec.InBin s k b addr n) :
    addr + n ≤ stookLen s k b := by
  obtain ⟨-, -, st, hst, hlen⟩ := h
  rw [stookLen, hst]
  exact hlen

theorem bits_pos (ty : Ty) : 0 < ty.bits := by cases ty <;> decide

/-- A range inside a bin raises no BINB. -/
theorem not_binb_of_inBin {s : State} {k : Ctx} {b : BinId} {addr n : Nat} (h : Spec.InBin s k b addr n) :
    ¬(binZero addr = false ∨ stookLen s k b < binOffset addr + n) := by
  have hlt := h.1
  have hlen := stookLen_of_inBin h
  rw [binZero_of_lt hlt, binOffset, Nat.mod_eq_of_lt hlt]
  rintro (hz | hn)
  · exact Bool.noConfusion hz
  · omega

section
variable {s : State} {k : Ctx} (ho : Spec.Owns s k)
include ho

theorem drainBody_of_inBin {a p : Word} {ty : Ty} (east z : Bool) (ha : a.toNat % 4 = 0) (hp : p.toNat % 4 = 0)
    (hin : Spec.InBin s k .c a.toNat (63 * p.toNat + 64 * (if ty = .f32 then 4 else 2))) :
    drainBody s k a p ty east z = .ok { st := mxPush s k (.drain a.toNat p.toNat ty east z) } := by
  have hrows : rowMember a.toNat p.toNat (64 * (if ty = .f32 then 4 else 2)) = none := rowMember_none (by split <;> decide) hin.2.1
  have hbinb := not_binb_of_inBin hin
  rw [← Nat.add_assoc] at hbinb
  have hoff : binOffset a.toNat = a.toNat := Nat.mod_eq_of_lt hin.1
  simp only [drainBody, asOwner_of_owns ho, hrows, ha, hp, ne_eq, not_true_eq_false, or_self, if_false, if_neg hbinb]
  rw [hoff]

theorem stldBody_of_inBin {a p : Word} {c : Nat} {ty : Ty} (w : Bool) {ab : Bool} (kc : Bool) {af : Bool}
    (ha : a.toNat % 4 = 0) (hp : p.toNat % 4 = 0)
    (hin : Spec.InBin s k (if ab then .a else .w) a.toNat (63 * p.toNat + 8 * ty.bits))
    (hside : Machine.blockScaled ty af = true → c % 4 = 0 ∧ Spec.InBin s k (if ab then .a else .w) c (if af then 256 else 128)) :
    stldBody s k a p c ty w ab kc af =
      .ok { st := mxPush s k (.stld (if ab then 1 else 0) a.toNat p.toNat (c % 2 ^ 24) ty w kc af) } := by
  have hrows : rowMember a.toNat p.toNat (8 * ty.bits) = none :=
    rowMember_none (Nat.mul_pos (by decide) (bits_pos ty)) hin.2.1
  have hbinb := not_binb_of_inBin hin
  rw [← Nat.add_assoc] at hbinb
  have hmember : ¬(Machine.blockScaled ty af = true ∧ memberIn c (if af then 256 else 128) = true) := fun h => by
    rw [memberIn_eq_false (hside h.1).2.1 (hside h.1).2.2.1] at h
    exact Bool.noConfusion h.2
  have halign : ¬(Machine.blockScaled ty af = true ∧ c % 4 ≠ 0) := fun h => h.2 (hside h.1).1
  have hsideb : ¬(Machine.blockScaled ty af = true ∧ (binZero c = false ∨
      stookLen s k (if ab then .a else .w) < binOffset c + (if af then 256 else 128))) := fun h =>
    not_binb_of_inBin (hside h.1).2 h.2
  have hoff : binOffset a.toNat = a.toNat := Nat.mod_eq_of_lt hin.1
  simp only [stldBody, asOwner_of_owns ho, hrows, if_neg hmember, ha, hp, ne_eq, not_true_eq_false, or_self, if_false,
    if_neg halign, if_neg hbinb, if_neg hsideb]
  rw [hoff, binOffset]

/-- The words of B that a pass reads: those of a block-scaled lane operand (11 R190). -/
def passWords (k : Ctx) (b : Reg) (ty : Ty) (af : Bool) : KV Word :=
  if mmaScaled ty af then (lanesOf k.e).map (fun l => (l, k.sh.readReg b l 0)) else []

theorem mmaBody_of_good {a : Fin 96} {b : Reg} {ty : Ty} {east : Bool} (keep : Bool) {af : Bool}
    (hgood : passBad (s.mxAhead k.sh.core) ty false east af k.e (fun i => (passWords k b ty af).getD i 0) = false) :
    mmaBody s k a b ty east keep af = .ok {
      st := keepGroup (mxPush s k (.mma ty east af k.e (mxGroup k a ty) (passWords k b ty af))) k a ty af keep b.code
        (mxGroup k a ty) (passWords k b ty af) } := by
  rw [passWords] at hgood
  simp only [mmaBody, asOwner_of_owns ho, hgood, Bool.false_eq_true, if_false]
  rfl

theorem dmmaBody_of_inBin {a : Fin 96} {b c : SReg} {ty : Ty} (keep : Bool) (he : k.e ≠ 0)
    (hgood : passBad (s.mxAhead k.sh.core) ty true false false k.e (fun _ => 0) = false)
    (hb : (Spec.SB k b).toNat % 4 = 0) (hc : (Spec.SC k c).toNat % 4 = 0)
    (hin : ∀ l, k.e.getLsbD l = true → Spec.InBin s k .w (Spec.SB k b).toNat (l * (Spec.SC k c).toNat + 8 * ty.bits)) :
    dmmaBody s k a b c ty keep = .ok {
      st := keepGroup (mxPush s k (.dmma ty (Spec.SB k b).toNat (Spec.SC k c).toNat k.e (mxGroup k a ty))) k a ty false keep
        b.reg.code (mxGroup k a ty) [] } := by
  have hlt : (Spec.SB k b).toNat < 2 ^ 24 := (hin _ (lowestLane_spec he).1).1
  have hpos := bits_pos ty
  have hfirst : binMember (Spec.SB k b).toNat = 0 := by unfold binMember; omega
  have hoff : binOffset (Spec.SB k b).toNat = (Spec.SB k b).toNat := Nat.mod_eq_of_lt hlt
  have hrow {l : Nat} (hl : l ∈ lanesOf k.e) :
      (Spec.SB k b).toNat + l * (Spec.SC k c).toNat + 8 * ty.bits ≤ 2 ^ 24 ∧
        (Spec.SB k b).toNat + l * (Spec.SC k c).toNat + 8 * ty.bits ≤ stookLen s k .w := by
    have hl := hin l ((mem_lanesOf _ _).mp hl)
    have hlen := stookLen_of_inBin hl
    have htop := hl.2.1
    omega
  have hmembers : (lanesOf k.e).filter (fun l => memberIn ((Spec.SB k b).toNat + l * (Spec.SC k c).toNat) (8 * ty.bits)) = [] :=
    List.filter_eq_nil_iff.mpr fun l hl => by
      obtain ⟨htop, -⟩ := hrow hl
      rw [memberIn_eq_false (by omega) htop]
      exact Bool.false_ne_true
  have hbad : (lanesOf k.e).filter (fun l => !binZero ((Spec.SB k b).toNat + l * (Spec.SC k c).toNat) ||
      decide (stookLen s k .w < (Spec.SB k b).toNat + l * (Spec.SC k c).toNat + 8 * ty.bits)) = [] :=
    List.filter_eq_nil_iff.mpr fun l hl => by
      obtain ⟨htop, hlen⟩ := hrow hl
      rw [binZero_of_lt (by omega), decide_eq_false (Nat.not_lt.mpr hlen)]
      exact Bool.false_ne_true
  simp only [dmmaBody, asOwner_of_owns ho, hgood, hfirst, hmembers, hb, hc, hoff, hbad, ne_eq, not_true_eq_false, or_self,
    Bool.false_eq_true, if_false]

end

end Sys2Proof.Laws

namespace Sys2Proof.Proofs
open Sys2Proof Sys2Proof.Machine Sys2Proof.Safety Sys2Proof.Laws

/-- Settles O30: a free thresher is granted and one that is not is waited for; an operation of the owner whose ranges lie in
its bins joins the queue. -/
theorem thresherInstructions : Obligations.ThresherInstructions := by
  unfold Obligations.ThresherInstructions
  refine ⟨⟨?_, ?_, ?_, ?_⟩, ?_, ?_, ?_, ?_, ?_⟩
  · intro i g s k hi h hserves
    have hsh := issues_sheaf h
    have hexec : exec i s = issue i s (fun k => mxacqBody i s k) := by rcases hi with rfl | rfl <;> rfl
    refine ⟨fun howner => ?_, fun howner hq => ?_, fun howner hbusy => ?_⟩
    · exact ⟨_, hexec, issue_leaves i s s k _ h (mxacqBody_owner hserves i howner)⟩
    · obtain ⟨shu, heffect⟩ := granted_effect hsh
      exact ⟨_, shu, ⟨_, hexec, issue_leaves i s _ k _ h (mxacqBody_free hserves i howner hq)⟩, heffect⟩
    · obtain ⟨shu, f, hleaves, hshu, hframe, hflights, hinstr, hpath⟩ :=
        waits_leavesBut hexec h (u := s.modMx k.sh.core (waitsIn k.sid)) hsh (mxacqBody_waits hserves i howner hbusy)
      have hmx : (withFlight (s.modMx k.sh.core (waitsIn k.sid)) k f).core k.sh.core = _ := core_modMx s k.sh.core _
      refine ⟨_, shu, f, hleaves, ?_, ?_, hshu, hframe, hflights, hinstr, hpath⟩
      · rw [hmx]; exact mem_waitsIn k.sid _
      · rw [hmx]; rfl
  · intro i g d s k hi h hserves
    have hexec : exec i s = issue i s (fun k => mxtryBody s k d) := by rcases hi with rfl | rfl <;> rfl
    obtain ⟨shu, heffect⟩ := tried_effect (issues_sheaf h) d
    exact ⟨_, shu, ⟨_, hexec, issue_leaves i s _ k _ h (mxtryBody_eq hserves d)⟩, heffect⟩
  · intro i g s k hi h hserves howner huses
    have hexec : exec i s = issue i s (fun k => mxwaitBody i s k) := by rcases hi with rfl | rfl <;> rfl
    obtain ⟨shu, heffect⟩ := acquire_path (issues_sheaf h) k.path .st
    exact ⟨_, shu, ⟨_, hexec, issue_leaves i s _ k _ h (mxwaitBody_idle i hserves howner huses)⟩, heffect⟩
  · intro i g s k hi h hserves howner huses halone hq howes hpc
    have hexec : exec i s = issue i s (fun k => mxrelBody i s k) := by rcases hi with rfl | rfl <;> rfl
    have hcls : i.cls = .uniform := by rcases hi with rfl | rfl <;> rfl
    have hrel : (∃ g, i = .mxrelB32 g) ∨ ∃ g, i = .mxrelX64 g := hi.imp (fun e => ⟨g, e⟩) (fun e => ⟨g, e⟩)
    obtain ⟨cur, -, -, hk⟩ := h.here
    obtain ⟨shu, hshu, hmem, hframe, hcore, hmoved⟩ := relinquished_effect (i := i) (s := s) hq.flights hpc (by rw [hk]; rfl)
    have hbody := mxrelBody_idle hq hrel howes howner huses halone (issues_sheaf h) hserves
    exact ⟨_, shu, leaves_of_moved hcls ⟨_, hexec, issue_leavesBut i s _ k _ _ h hbody⟩ hshu hmoved, hshu, hmem, hframe, hcore⟩
  · intro i g east s k hi h ho
    have hexec : exec i s = issue i s (fun k => zaccBody s k east) := by
      rcases hi with ⟨rfl, rfl⟩ | ⟨rfl, rfl⟩ | rfl <;> rfl
    exact ⟨_, ⟨_, hexec, issue_leaves i s _ k _ h (asOwner_of_owns ho _)⟩, mxPush_coreOnly s k _⟩
  · intro g a b c ty w ab kc af s k _ h ho bin cw ha hb hin hside
    exact ⟨_, ⟨_, rfl, issue_leaves _ s _ k _ h (stldBody_of_inBin ho w kc ha hb hin hside)⟩, mxPush_coreOnly s k _⟩
  · intro g a b ty east z s k _ h ho ha hb hin
    exact ⟨_, ⟨_, rfl, issue_leaves _ s _ k _ h (drainBody_of_inBin ho east z ha hb hin)⟩, mxPush_coreOnly s k _⟩
  · intro g a b ty east keep af s k _ h ho bw hgood
    obtain ⟨coll, hcore, hcoll⟩ := keepGroup_coreOnly s k (.mma ty east af k.e (mxGroup k a ty) bw) a ty af keep b.code
      (mxGroup k a ty) bw
    exact ⟨_, _, coll, ⟨_, rfl, issue_leaves _ s _ k _ h (mmaBody_of_good ho keep hgood)⟩, hcore, rfl, hcoll⟩
  · intro g a b c ty keep s k _ h ho hgood hb hc hin
    obtain ⟨coll, hcore, hcoll⟩ := keepGroup_coreOnly s k
      (.dmma ty (Spec.SB k b).toNat (Spec.SC k c).toNat k.e (mxGroup k a ty)) a ty false keep b.reg.code (mxGroup k a ty) []
    exact ⟨_, _, coll, ⟨_, rfl, issue_leaves _ s _ k _ h (dmmaBody_of_inBin ho keep h.some_ hgood hb hc hin)⟩, hcore, rfl, hcoll⟩
end Sys2Proof.Proofs
end
section
/-! ## The tile that a STLD leaves (11 R189) -/

namespace Sys2Proof.Laws
open Sys2Proof Sys2Proof.Machine Sys2Proof.Safety

/-! ### Values put under keys of their own -/

/-- A value put where it is not 0. -/
def putNonzero {α : Type} (key q : α → Nat) (v : KV Word) (x : α) : KV Word :=
  if q x = 0 then v else v.put (key x) (BitVec.ofNat 32 (q x))

section
variable {α : Type} (key q : α → Nat)

theorem getD_putNonzero_self {v : KV Word} {x : α} (h : v.getD (key x) 0 = 0) :
    (putNonzero key q v x).getD (key x) 0 = BitVec.ofNat 32 (q x) := by
  unfold putNonzero
  split
  · next hq => rw [h, hq]; rfl
  · rw [kv_getD_put, if_pos rfl]

theorem getD_putNonzero_other (v : KV Word) {x : α} {k : Nat} (h : key x ≠ k) :
    (putNonzero key q v x).getD k 0 = v.getD k 0 := by
  unfold putNonzero
  split
  · rfl
  · rw [kv_getD_put, if_neg h]

theorem getD_foldl_putNonzero_other {l : List α} {k : Nat} (h : ∀ x ∈ l, key x ≠ k) (v : KV Word) :
    (l.foldl (putNonzero key q) v).getD k 0 = v.getD k 0 :=
  (foldl_keeps (fun _ => True) (fun v : KV Word => v.getD k 0) l
    (fun v x hx _ => ⟨trivial, getD_putNonzero_other key q v (h x hx)⟩) v trivial).2

/-- Values put under keys of their own, into a map that holds nothing under these. -/
theorem getD_foldl_putNonzero {l : List α} (hkeys : l.Pairwise (fun x y => key x ≠ key y)) :
    ∀ v : KV Word, (∀ x ∈ l, v.getD (key x) 0 = 0) →
      ∀ x ∈ l, (l.foldl (putNonzero key q) v).getD (key x) 0 = BitVec.ofNat 32 (q x) := by
  induction hkeys with
  | nil => exact fun v _ x hx => absurd hx List.not_mem_nil
  | @cons y l hy _ ih =>
    intro v hv x hx
    rw [List.foldl_cons]
    rcases List.mem_cons.mp hx with rfl | hx
    · rw [getD_foldl_putNonzero_other key q (fun z hz => (hy z hz).symm)]
      exact getD_putNonzero_self key q (hv x List.mem_cons_self)
    · refine ih _ (fun z hz => ?_) x hx
      rw [getD_putNonzero_other key q v (hy z hz)]
      exact hv z (List.mem_cons_of_mem y hz)

end

/-! ### The tile -/

/-- An operation that has read no word yet sees the bins as they are. -/
theorem sees_of_cap_nil {e : MxEntry} (h : e.cap = []) (st : Stook) : e.sees st = st := by
  have hsame (b : BinId) : st.setBin b (st.bin b) = st := by cases b <;> rfl
  unfold MxEntry.sees
  rw [h]
  split
  · rfl
  · exact hsame _

/-- The places of the 64 rows of 64 elements that a STLD reads: its row, its element. -/
def tilePlaces : List (Nat × Nat) := List.range 64 ×ˢ List.range 64
/-- Where an element of a row goes, as the rows stand or transposed. -/
def tileKey (w : Bool) (x : Nat × Nat) : Nat := if w then 64 * x.2 + x.1 else 64 * x.1 + x.2

theorem mem_tilePlaces {x : Nat × Nat} : x ∈ tilePlaces ↔ x.1 < 64 ∧ x.2 < 64 :=
  List.mem_product.trans (and_congr List.mem_range List.mem_range)

theorem tileKey_inj (w : Bool) {x y : Nat × Nat} (hx : x ∈ tilePlaces) (hy : y ∈ tilePlaces) (h : tileKey w x = tileKey w y) :
    x = y := by
  obtain ⟨hx1, hx2⟩ := mem_tilePlaces.mp hx
  obtain ⟨hy1, hy2⟩ := mem_tilePlaces.mp hy
  unfold tileKey at h
  cases w <;> exact Prod.ext (by simp only [if_true, Bool.false_eq_true, if_false] at h; omega)
    (by simp only [if_true, Bool.false_eq_true, if_false] at h; omega)

theorem tileKeys_distinct (w : Bool) : tilePlaces.Pairwise (fun x y => tileKey w x ≠ tileKey w y) :=
  (List.nodup_range.product List.nodup_range).imp_of_mem fun hx hy hne h => hne (tileKey_inj w hx hy h)

theorem tileOf_eq_foldl (bin : KV Byte) (addr pitch : Nat) (ty : Ty) (w : Bool) :
    tileOf bin addr pitch ty w =
      tilePlaces.foldl (putNonzero (tileKey w) (fun x => elemOf (binRow bin addr pitch x.1 ty.bits) ty.bits x.2)) [] := by
  have hrows : tilePlaces = (List.range 64).flatMap (fun r => (List.range 64).map (Prod.mk r)) := rfl
  rw [hrows, List.foldl_flatMap]
  simp only [List.foldl_map]
  rfl

theorem elemOf_binRow (bin : KV Byte) (addr pitch row bits k : Nat) : elemOf (binRow bin addr pitch row bits) bits k =
    natOfBytes (memRead bin (addr + row * pitch) (8 * bits)) / 2 ^ (bits * k) % 2 ^ bits := rfl

/-- The tile keeps 32 bits of each element. -/
theorem code_tileOf (bin : KV Byte) (addr pitch : Nat) (ty : Ty) (w : Bool) {row col : Nat} (hrow : row < 64) (hcol : col < 64) :
    ((tileOf bin addr pitch ty w).getD (64 * row + col) 0).toNat =
      elemOf (binRow bin addr pitch (if w then col else row) ty.bits) ty.bits (if w then row else col) % 2 ^ 32 := by
  have hmem : (if w then (col, row) else (row, col)) ∈ tilePlaces := mem_tilePlaces.mpr (by cases w <;> exact ⟨‹_›, ‹_›⟩)
  have hput := getD_foldl_putNonzero (tileKey w) (fun x => elemOf (binRow bin addr pitch x.1 ty.bits) ty.bits x.2)
    (tileKeys_distinct w) [] (fun _ _ => rfl) _ hmem
  rw [tileOf_eq_foldl]
  cases w <;> exact (congrArg BitVec.toNat hput).trans (BitVec.toNat_ofNat ..)

/-- The state in which the head of the queue has had its effect and has left (11 R185). -/
def completed (s : State) (core : Nat) (e : MxEntry) : State :=
  (s.mxExec core e).modMx core (fun t => { t with queue := t.queue.tail })

theorem exec_thresherOpComplete {s : State} {core : Nat} {e : MxEntry} {r : List MxEntry}
    (hq : (s.core core).mx.queue = e :: r) (hrun : e.running = true) :
    exec (.thresherOpComplete core) s = .next (completed s core e) := by
  show execThresherOpComplete core s = _
  rw [execThresherOpComplete, hq]
  exact if_pos hrun

/-- The tile of a STLD at its end. -/
theorem code_completed {s : State} {core : Nat} {e : MxEntry} {b addr pitch side : Nat} {ty : Ty} {w kc af : Bool} {st : Stook}
    (hop : e.op = .stld b addr pitch side ty w kc af) (hcap : e.cap = []) (hst : s.stook? e.uid = some st) {row col : Nat}
    (hrow : row < 64) (hcol : col < 64) :
    ((completed s core e).core core).mx.code row col =
      elemOf (binRow (if b = 1 then st.binA else st.binW) addr pitch (if w then col else row) ty.bits) ty.bits
        (if w then row else col) % 2 ^ 32 := by
  have hsees : (s.stook? e.uid).map e.sees = some st := by rw [hst, Option.map_some, sees_of_cap_nil hcap]
  rw [completed, State.mxExec, hop]
  simp only [hsees, core_modMx, modMx_modMx]
  rw [Thresher.code]
  simp only [code_tileOf _ _ _ _ _ hrow hcol, beq_iff_eq]

/-! ### A STLD of a 64-bit type -/

/-- A stook whose W-bin holds 1 at offset 4 and nothing else: the first 64-bit element there is 2^32. -/
def wideStook : Stook where
  crop := 0
  linear := 0
  pos := 0
  rank := 0
  rick := 0
  rickSize := 1
  redo := 0
  cores := [0]
  wUnits := 8
  aUnits := 0
  cUnits := 0
  binW := [(4, 1)]
  binA := []
  binC := []
  sheaves := []
  round := 0
  ranges := []
  merge := []
  parked := false
  wakes := []
  trapStook := false
  killed := false
  saved := []
  savedOps := []
  savedMx := []
  park := (0, 0)

/-- A running STLD of 64 rows of 64-bit elements. -/
def wideLoad : MxEntry where
  sid := 0
  uid := 0
  issued := 0
  running := true
  op := .stld 0 0 512 0 .s64 false false false
  cap := []

/-- The device with that operation at the head of the queue of core 0. -/
def wideState : State :=
  { State.reset with
    cores := [(0, { Core.fresh .usable with mx := { Thresher.reset with queue := [wideLoad] } })]
    stooks := [(0, wideStook)] }

theorem element_wideStook : elemOf (binRow wideStook.binW 0 512 0 (Ty.bits .s64)) (Ty.bits .s64) 0 = 2 ^ 32 := by
  decide +kernel

end Sys2Proof.Laws

namespace Sys2Proof.Proofs
open Sys2Proof Sys2Proof.Machine Sys2Proof.Safety Sys2Proof.Laws

/-- Refutes O31: the clause about STLD gives the tile the elements of every type whole, but the model keeps 32 bits of each,
so that of the 64-bit element 2^32 it leaves 0. No STLD that decodes has a 64-bit type (11 R189); a queue entry may. -/
theorem not_engineSteps : ¬ Obligations.EngineSteps := by
  unfold Obligations.EngineSteps
  rintro ⟨⟨-, -, -, hload, -⟩, -⟩
  obtain ⟨t, hexec, -, -, -, -, -, -, -, hcode, -⟩ :=
    hload 0 wideState wideLoad [] 0 0 512 0 .s64 false false false wideStook rfl rfl rfl rfl rfl
  obtain rfl := Host.Outcome.next.inj ((exec_thresherOpComplete (e := wideLoad) (r := []) rfl rfl).symm.trans hexec)
  have hkept : ((completed wideState 0 wideLoad).core 0).mx.code 0 0 = _ :=
    code_completed (st := wideStook) rfl rfl rfl (by decide) (by decide)
  have hstated := hcode 0 0 (by decide) (by decide)
  rw [hkept] at hstated
  simp only [← elemOf_binRow, zero_ne_one, Bool.false_eq_true, if_false, element_wideStook, Nat.mod_self] at hstated
  exact absurd hstated (by decide)
end Sys2Proof.Proofs
end

section
/-! ## The work of the homes and the L1s (12 R207 to R224, 16 R285) -/

namespace Sys2Proof.Laws
open Sys2Proof Sys2Proof.Machine Sys2Proof.Safety

/-! ### Owners of a word (12 R208) -/

/-- The barns that a line's owner records name for a word's bit. -/
def namedFor (o : List (Nat × Word)) (bit : Word) : List Nat := (o.filter (fun x => x.2 &&& bit != 0)).map (·.1)
/-- The barns that the home's record names for a word. -/
def ownersAt (s : State) (wa : Nat) : List Nat := namedFor (s.home (lineOf wa)).owners (wordBit wa)

theorem ownerOf_eq_head (s : State) (wa : Nat) : s.ownerOf wa = (ownersAt s wa).head? := by
  rw [State.ownerOf, ownersAt, namedFor, List.head?_map, List.head?_filter]

theorem ownerOf_eq_none {s : State} {wa : Nat} : s.ownerOf wa = none ↔ ownersAt s wa = [] := by
  rw [ownerOf_eq_head, List.head?_eq_none_iff]

theorem oneOwner_iff (s : State) (wa : Nat) : Spec.OneOwner s wa ↔ (ownersAt s wa).length ≤ 1 := by
  rw [ownersAt, namedFor, List.length_map]; exact Iff.rfl

theorem ownersAt_setHome (s : State) (line wa : Nat) (h : HomeLine) :
    ownersAt (s.setHome line h) wa = if line = lineOf wa then namedFor h.owners (wordBit wa) else ownersAt s wa := by
  rw [ownersAt, home_setHome]
  split <;> rfl

theorem namedFor_cons (x : Nat × Word) (o : List (Nat × Word)) (bit : Word) :
    namedFor (x :: o) bit = if x.2 &&& bit = 0 then namedFor o bit else x.1 :: namedFor o bit := by
  rw [namedFor, List.filter_cons]
  by_cases h : x.2 &&& bit = 0
  · rw [if_neg (by simp [h]), if_pos h]; rfl
  · rw [if_pos (by simpa using h), if_neg h]; rfl

theorem dropOwner_cons (x : Nat × Word) (o : List (Nat × Word)) (b : Nat) (m : Word) :
    dropOwner (x :: o) b m = if (if x.1 = b then x.2 &&& ~~~m else x.2) = 0 then dropOwner o b m
      else (x.1, if x.1 = b then x.2 &&& ~~~m else x.2) :: dropOwner o b m := by
  have hx : (if x.1 = b then (x.1, x.2 &&& ~~~m) else x) = (x.1, if x.1 = b then x.2 &&& ~~~m else x.2) := by split <;> rfl
  rw [dropOwner, List.map_cons, hx, List.filter_cons]
  by_cases h : (if x.1 = b then x.2 &&& ~~~m else x.2) = 0
  · rw [if_neg (by simp [h]), if_pos h]; rfl
  · rw [if_pos (by simpa using h), if_neg h]; rfl

/-- Owner records that lose some words of a barn name no further barn for any word. -/
theorem namedFor_dropOwner (o : List (Nat × Word)) (b : Nat) (m bit : Word) :
    (namedFor (dropOwner o b m) bit).Sublist (namedFor o bit) := by
  induction o with
  | nil => exact List.Sublist.refl _
  | cons x o ih =>
    have hbit (h : x.2 &&& bit = 0) : (if x.1 = b then x.2 &&& ~~~m else x.2) &&& bit = 0 := by
      split
      · rw [BitVec.and_assoc, BitVec.and_comm (~~~m), ← BitVec.and_assoc, h]; exact BitVec.zero_and
      · exact h
    have hdrop : (namedFor (dropOwner (x :: o) b m) bit).Sublist (if x.2 &&& bit = 0 then namedFor (dropOwner o b m) bit
        else x.1 :: namedFor (dropOwner o b m) bit) := by
      rw [dropOwner_cons]
      generalize (if x.1 = b then x.2 &&& ~~~m else x.2) = y at hbit ⊢
      by_cases h : x.2 &&& bit = 0
      · rw [if_pos h]
        split
        · exact List.Sublist.refl _
        · rw [namedFor_cons, if_pos (hbit h)]
      · rw [if_neg h]
        split
        · exact List.sublist_cons_self _ _
        · rw [namedFor_cons]
          split
          · exact List.sublist_cons_self _ _
          · exact List.Sublist.refl _
    refine hdrop.trans ?_
    rw [namedFor_cons]
    split
    · exact ih
    · exact ih.cons_cons _

/-- The barn that loses a word is no longer named for it. -/
theorem not_mem_namedFor_dropOwner (o : List (Nat × Word)) (b : Nat) (m : Word) : b ∉ namedFor (dropOwner o b m) m := by
  induction o with
  | nil => exact List.not_mem_nil
  | cons x o ih =>
    have hx (h : x.1 = b) : (if x.1 = b then x.2 &&& ~~~m else x.2) &&& m = 0 := by
      rw [if_pos h, BitVec.and_assoc, BitVec.and_comm (~~~m), BitVec.and_not_self]; exact BitVec.and_zero
    rw [dropOwner_cons]
    generalize (if x.1 = b then x.2 &&& ~~~m else x.2) = y at hx ⊢
    split
    · exact ih
    · rw [namedFor_cons]
      split
      · exact ih
      · next h =>
        intro hb
        rcases List.mem_cons.mp hb with rfl | hb
        · exact h (hx rfl)
        · exact ih hb

/-! ### What no step of the homes and the L1s changes -/

/-- Nothing but memory, homes, L1s and watchers differs; no owner is added to a word; where nobody waits no sheaf changes;
gather copies and watch descriptors stay, and no message appears. -/
structure HomeWork (s t : State) : Prop where
  frame : { t with mem := s.mem, homes := s.homes, barns := s.barns, sheaves := s.sheaves, waits := s.waits,
                   queues := s.queues, msgs := s.msgs } = s
  owners : ∀ wa, (ownersAt t wa).Sublist (ownersAt s wa)
  quiet : s.waits = [] → t.waits = [] ∧ t.sheaves = s.sheaves
  gather : ∀ b, (t.barn b).gather = (s.barn b).gather
  watch : ∀ sid sh, t.sheaf? sid = some sh → ∃ sh0, s.sheaf? sid = some sh0 ∧ sh.watch = sh0.watch
  gone : ∀ m, s.msgs.find? m = none → t.msgs.find? m = none

theorem HomeWork.refl (s : State) : HomeWork s s :=
  ⟨rfl, fun _ => List.Sublist.refl _, fun h => ⟨h, rfl⟩, fun _ => rfl, fun _ sh h => ⟨sh, h, rfl⟩, fun _ h => h⟩

theorem HomeWork.trans {s t u : State} (h : HomeWork s t) (h' : HomeWork t u) : HomeWork s u where
  frame := (congrArg (fun x : State =>
    { x with mem := s.mem, homes := s.homes, barns := s.barns, sheaves := s.sheaves, waits := s.waits, queues := s.queues,
             msgs := s.msgs }) h'.frame).trans h.frame
  owners wa := (h'.owners wa).trans (h.owners wa)
  quiet hw := ⟨(h'.quiet (h.quiet hw).1).1, (h'.quiet (h.quiet hw).1).2.trans (h.quiet hw).2⟩
  gather b := (h'.gather b).trans (h.gather b)
  watch sid sh hsh := by
    obtain ⟨sh1, h1, hw1⟩ := h'.watch sid sh hsh
    obtain ⟨sh0, h0, hw0⟩ := h.watch sid sh1 h1
    exact ⟨sh0, h0, hw1.trans hw0⟩
  gone m hm := h'.gone m (h.gone m hm)

theorem HomeWork.foldl {α : Type} {f : State → α → State} (hf : ∀ s a, HomeWork s (f s a)) (l : List α) (s : State) :
    HomeWork s (l.foldl f s) :=
  List.foldlRecOn l f (HomeWork.refl s) fun t ht a _ => ht.trans (hf t a)

section
variable {s t : State} (h : HomeWork s t)
include h

theorem HomeWork.trans_eq : t.trans = s.trans := by have e := congrArg State.trans h.frame; exact e
theorem HomeWork.fabric_eq : t.fabric = s.fabric := by have e := congrArg State.fabric h.frame; exact e
theorem HomeWork.place_eq (pa : Nat) : t.place pa = s.place pa := by rw [State.place, State.place, h.fabric_eq]
theorem HomeWork.unowned {wa : Nat} (ho : s.ownerOf wa = none) : t.ownerOf wa = none := by
  rw [ownerOf_eq_none] at ho ⊢
  exact List.sublist_nil.mp (ho ▸ h.owners wa)
theorem HomeWork.oneOwner {wa : Nat} (ho : Spec.OneOwner s wa) : Spec.OneOwner t wa := by
  rw [oneOwner_iff] at ho ⊢
  exact (h.owners wa).length_le.trans ho

end

/-! ### The elementary steps -/

/-- The L1 words and the eviction buffer of a barn. -/
theorem homeWork_setBarn (s : State) (b : Nat) {v : Barn} (hg : v.gather = (s.barn b).gather) : HomeWork s (s.setBarn b v) where
  frame := rfl
  owners _ := List.Sublist.refl _
  quiet hw := ⟨hw, rfl⟩
  gather c := by
    rw [barn_setBarn]
    split
    · next e => rw [hg, e]
    · rfl
  watch _ sh hsh := ⟨sh, hsh, rfl⟩
  gone _ hm := hm

/-- What a home keeps of a line, with no further owner. -/
theorem homeWork_setHome (s : State) (line : Nat) {h : HomeLine}
    (ho : ∀ bit, (namedFor h.owners bit).Sublist (namedFor (s.home line).owners bit)) : HomeWork s (s.setHome line h) where
  frame := rfl
  owners wa := by
    rw [ownersAt_setHome]
    split
    · next e => rw [ownersAt, ← e]; exact ho _
    · exact List.Sublist.refl _
  quiet hw := ⟨hw, rfl⟩
  gather _ := rfl
  watch _ sh hsh := ⟨sh, hsh, rfl⟩
  gone _ hm := hm

theorem homeWork_setHome_owners (s : State) (line : Nat) {h : HomeLine} (ho : h.owners = (s.home line).owners) :
    HomeWork s (s.setHome line h) := homeWork_setHome s line fun _ => by rw [ho]

theorem homeWork_memWrite (s : State) (a : Nat) (bs : List Byte) : HomeWork s (s.memWrite a bs) :=
  ⟨rfl, fun _ => List.Sublist.refl _, fun h => ⟨h, rfl⟩, fun _ => rfl, fun _ sh h => ⟨sh, h, rfl⟩, fun _ h => h⟩

theorem homeWork_setHomeWord (s : State) (wa : Nat) (w : Word) : HomeWork s (s.setHomeWord wa w) := homeWork_memWrite s _ _

theorem homeWork_dropMsg (s : State) (m : Nat) : HomeWork s (s.dropMsg m) where
  frame := rfl
  owners _ := List.Sublist.refl _
  quiet hw := ⟨hw, rfl⟩
  gather _ := rfl
  watch _ sh hsh := ⟨sh, hsh, rfl⟩
  gone i hi := by
    refine (kv_find_erase s.msgs m i).trans ?_
    split
    · rfl
    · exact hi

/-! ### Watchers (13 R242) -/

/-- A change of one sheaf in its flights, its lanes or the releases that it holds. -/
structure WatcherWork (s t : State) : Prop where
  rest : { t with sheaves := s.sheaves } = s
  watch : ∀ sid sh, t.sheaf? sid = some sh → ∃ sh0, s.sheaf? sid = some sh0 ∧ sh.watch = sh0.watch

theorem WatcherWork.refl (s : State) : WatcherWork s s := ⟨rfl, fun _ sh h => ⟨sh, h, rfl⟩⟩

theorem WatcherWork.trans {s t u : State} (h : WatcherWork s t) (h' : WatcherWork t u) : WatcherWork s u where
  rest := (congrArg (fun x : State => { x with sheaves := s.sheaves }) h'.rest).trans h.rest
  watch sid sh hsh := by
    obtain ⟨sh1, h1, hw1⟩ := h'.watch sid sh hsh
    obtain ⟨sh0, h0, hw0⟩ := h.watch sid sh1 h1
    exact ⟨sh0, h0, hw1.trans hw0⟩

theorem modSheaf_frame (s : State) (sid : Nat) (f : Sheaf → Sheaf) : { s.modSheaf sid f with sheaves := s.sheaves } = s := by
  rw [State.modSheaf]
  split <;> rfl

theorem watcherWork_modSheaf (s : State) (sid : Nat) {f : Sheaf → Sheaf} (hf : ∀ sh, (f sh).watch = sh.watch) :
    WatcherWork s (s.modSheaf sid f) := by
  refine ⟨modSheaf_frame s sid f, fun x sh hsh => ?_⟩
  rw [sheaf_modSheaf] at hsh
  split at hsh
  · next e =>
    obtain ⟨sh0, h0, rfl⟩ := Option.map_eq_some_iff.mp hsh
    exact ⟨sh0, h0, hf sh0⟩
  · exact ⟨sh, hsh, rfl⟩

theorem watch_modLanes (sh : Sheaf) (m : LaneSet) (f : Nat → Lane → Lane) : (sh.modLanes m f).watch = sh.watch := by
  rw [modLanes_eq]

theorem watcherWork_reread (s : State) (sid fid pa : Nat) : WatcherWork s (s.reread sid fid pa) := by
  rw [State.reread]
  split
  · exact watcherWork_modSheaf s sid fun _ => rfl
  · exact WatcherWork.refl s

theorem watcherWork_raiseWait (s : State) (sid fid lane pa : Nat) : WatcherWork s (s.raiseWait sid fid lane pa) :=
  watcherWork_modSheaf s sid fun sh => by
    split
    · split
      · exact watch_modLanes sh _ _
      · rfl
    · rfl

theorem watcherWork_releaseWaita (s : State) (sid fid lane status : Nat) : WatcherWork s (s.releaseWaita sid fid lane status) :=
  watcherWork_modSheaf s sid fun sh => by
    rw [Sheaf.releaseWaita]
    split <;> rfl

theorem watcherWork_release (s : State) (e : WaitEnt) (status : Nat) :
    WatcherWork s (if e.counter then s.reread e.sid e.flight e.pa
      else (s.raiseWait e.sid e.flight e.lane e.pa).releaseWaita e.sid e.flight e.lane status) := by
  split
  · exact watcherWork_reread s _ _ _
  · exact (watcherWork_raiseWait s _ _ _ _).trans (watcherWork_releaseWaita _ _ _ _ _)

theorem watcherWork_releases (l : List WaitEnt) (s : State) (status : Nat) :
    WatcherWork s (l.foldl (fun (s : State) e => if e.counter then s.reread e.sid e.flight e.pa
      else (s.raiseWait e.sid e.flight e.lane e.pa).releaseWaita e.sid e.flight e.lane status) s) :=
  List.foldlRecOn l _ (WatcherWork.refl s) fun t ht e _ => ht.trans (watcherWork_release t e status)

/-- A notice changes watchers only. -/
theorem notify_frame (s : State) (wa : Nat) :
    { s.notify wa with sheaves := s.sheaves, waits := s.waits, queues := s.queues } = s := by
  rw [State.notify]
  exact congrArg (fun x : State => { x with waits := s.waits, queues := s.queues }) (watcherWork_releases _ _ 1).rest

theorem notify_mem (s : State) (wa : Nat) : (s.notify wa).mem = s.mem := by have h := congrArg State.mem (notify_frame s wa); exact h
theorem notify_homes (s : State) (wa : Nat) : (s.notify wa).homes = s.homes := by
  have h := congrArg State.homes (notify_frame s wa); exact h
theorem notify_barns (s : State) (wa : Nat) : (s.notify wa).barns = s.barns := by
  have h := congrArg State.barns (notify_frame s wa); exact h
theorem notify_home (s : State) (wa line : Nat) : (s.notify wa).home line = s.home line := by
  rw [State.home, notify_homes]; rfl
theorem notify_barn (s : State) (wa b : Nat) : (s.notify wa).barn b = s.barn b := by
  rw [State.barn, notify_barns]; rfl

theorem homeWork_notify (s : State) (wa : Nat) : HomeWork s (s.notify wa) where
  frame := congrArg (fun x : State => { x with mem := s.mem, homes := s.homes, barns := s.barns, msgs := s.msgs }) (notify_frame s wa)
  owners x := by rw [ownersAt, notify_home]; exact List.Sublist.refl _
  quiet hw := ⟨(marked_notify hw wa).waits.trans hw, (marked_notify hw wa).sheaves⟩
  gather b := by rw [notify_barn]
  watch sid sh hsh := by
    rw [State.notify] at hsh
    have h := (watcherWork_releases _ _ 1).watch sid sh hsh
    exact h
  gone m hm := by
    have h := congrArg State.msgs (notify_frame s wa)
    exact (congrArg (KV.find? · m) h).trans hm

/-! ### Words taken back, and marks (12 R211, 16 R285) -/

section
variable {mark : State → L1Word → Nat → State} (hmark : ∀ s y wa, HomeWork s (mark s y wa))
include hmark

/-- The mark of a word taken back, and its notice. -/
theorem homeWork_markNotify (s : State) (x : Option L1Word) (wa : Nat) :
    HomeWork s ((match x with | some y => mark s y wa | none => s).notify wa) := by
  cases x with
  | none => exact homeWork_notify s wa
  | some y => exact (hmark s y wa).trans (homeWork_notify _ wa)

theorem homeWork_takeBack (s : State) (wa : Nat) : HomeWork s (s.takeBack mark wa) := by
  rw [State.takeBack]
  split
  · exact HomeWork.refl s
  · refine HomeWork.trans ?_ (homeWork_markNotify hmark _ _ wa)
    refine HomeWork.trans ?_ (homeWork_setHomeWord _ _ _)
    refine HomeWork.trans ?_ (homeWork_setHome _ _ fun bit => namedFor_dropOwner _ _ _ bit)
    exact homeWork_setBarn s _ rfl

/-- A barn that a word is taken back from is named for it no more. -/
theorem not_owner_takeBack {s : State} {wa b : Nat} (h : s.ownerOf wa = some b) : b ∉ ownersAt (s.takeBack mark wa) wa := by
  rw [State.takeBack, h]
  intro hb
  have hb := (homeWork_markNotify hmark _ _ wa).owners wa |>.subset hb
  have hb := (homeWork_setHomeWord _ _ _).owners wa |>.subset hb
  rw [ownersAt_setHome, if_pos rfl] at hb
  exact not_mem_namedFor_dropOwner _ _ _ hb

theorem homeWork_orByteM (s : State) (a : Nat) (b : Byte) (d : Nat) : HomeWork s (s.orByteM mark a b d) := by
  rw [State.orByteM]
  refine HomeWork.trans ?_ (homeWork_notify _ _)
  refine HomeWork.trans ?_ (homeWork_setHome_owners _ _ rfl)
  exact (homeWork_takeBack hmark s _).trans (homeWork_setHomeWord _ _ _)

end

theorem homeWork_dirtyMarkN (n : Nat) (s : State) (ctx pte pa hd : Nat) : HomeWork s (s.dirtyMarkN n ctx pte pa hd) := by
  induction n generalizing s ctx pte pa hd with
  | zero => exact HomeWork.refl s
  | succ n ih =>
    have hmark (s : State) (y : L1Word) (wa : Nat) : HomeWork s (backMark (State.dirtyMarkN n) s y wa) := ih s _ _ _ _
    have hleaf : HomeWork s (leafMark (State.dirtyMarkN n) s pte hd) := by
      rw [leafMark]
      split
      · exact HomeWork.refl s
      · exact homeWork_orByteM hmark s _ _ _
    cases hp : s.place pa with
    | loc off =>
      rw [dirtyMarkN_loc n s ctx pte hd hp, bitmapMark]
      split
      · exact hleaf
      · exact hleaf.trans (homeWork_orByteM hmark _ _ _ _)
    | _ => rw [dirtyMarkN_other n s ctx pte hd (by rw [hp]; nofun)]; exact HomeWork.refl s

theorem homeWork_dirtyMark (s : State) (ctx pte pa hd : Nat) : HomeWork s (s.dirtyMark ctx pte pa hd) :=
  homeWork_dirtyMarkN _ s ctx pte pa hd

theorem homeWork_orByte (s : State) (a : Nat) (b : Byte) (d : Nat) : HomeWork s (s.orByte a b d) :=
  homeWork_orByteM (fun s y wa => homeWork_dirtyMark s y.ctx y.pte (4 * wa) y.hd) s a b d

theorem homeWork_recallWord (s : State) (wa : Nat) : HomeWork s (s.recallWord wa) :=
  homeWork_takeBack (fun s y wa => homeWork_dirtyMark s y.ctx y.pte (4 * wa) y.hd) s wa

theorem not_owner_recallWord {s : State} {wa b : Nat} (h : s.ownerOf wa = some b) : b ∉ ownersAt (s.recallWord wa) wa :=
  not_owner_takeBack (fun s y wa => homeWork_dirtyMark s y.ctx y.pte (4 * wa) y.hd) h

theorem recallWord_unowned {s : State} {wa : Nat} (h : s.ownerOf wa = none) : s.recallWord wa = s := by
  rw [State.recallWord, State.takeBack, h]

theorem foldl_recallWord_unowned {s : State} {ws : List Nat} (h : ∀ wa ∈ ws, s.ownerOf wa = none) :
    ws.foldl (fun s wa => s.recallWord wa) s = s := by
  induction ws with
  | nil => rfl
  | cons wa ws ih =>
    rw [List.foldl_cons, recallWord_unowned (h wa List.mem_cons_self), ih fun x hx => h x (List.mem_cons_of_mem _ hx)]

/-- A word that one barn at most owns has no owner once it has been recalled. -/
theorem recallWord_clears {s : State} {wa : Nat} (h : Spec.OneOwner s wa) : (s.recallWord wa).ownerOf wa = none := by
  have hsub := (homeWork_recallWord s wa).owners wa
  rw [oneOwner_iff] at h
  cases ho : s.ownerOf wa with
  | none => rw [recallWord_unowned ho]; exact ho
  | some b =>
    have hb := not_owner_recallWord ho
    rw [ownerOf_eq_head] at ho
    obtain ⟨r, hr⟩ := List.head?_eq_some_iff.mp ho
    rw [hr] at h hsub
    have hnil : r = [] := List.length_eq_zero_iff.mp (by rw [List.length_cons] at h; omega)
    subst hnil
    rw [ownerOf_eq_none]
    rcases List.sublist_singleton.mp hsub with e | e
    · exact e
    · rw [e] at hb; exact absurd (List.mem_singleton.mpr rfl) hb

/-- Words recalled one after another: none of them has an owner afterwards. -/
theorem foldl_recallWord_clears {s : State} {ws : List Nat} (h : ∀ wa ∈ ws, Spec.OneOwner s wa) {wa : Nat} (hwa : wa ∈ ws) :
    (ws.foldl (fun s wa => s.recallWord wa) s).ownerOf wa = none := by
  induction ws generalizing s with
  | nil => exact absurd hwa List.not_mem_nil
  | cons x ws ih =>
    have hx := homeWork_recallWord s x
    rw [List.foldl_cons]
    by_cases hin : wa ∈ ws
    · exact ih (fun y hy => hx.oneOwner (h y (List.mem_cons_of_mem _ hy))) hin
    · obtain rfl : wa = x := (List.mem_cons.mp hwa).resolve_right hin
      exact (HomeWork.foldl homeWork_recallWord ws _).unowned (recallWord_clears (h wa List.mem_cons_self))

/-! ### Writes at a home (12 R212, 13 R232) -/

theorem homeWork_clearLost (s : State) (wa : Nat) : HomeWork s (s.clearLost wa) := homeWork_setHome_owners s _ rfl

theorem homeWork_cleanUnits (s : State) (pa n : Nat) : HomeWork s (s.cleanUnits pa n) := by
  refine HomeWork.foldl (fun s i => ?_) _ s
  dsimp only
  split
  · split
    · exact HomeWork.refl s
    · exact homeWork_setHome_owners s _ rfl
  · exact HomeWork.refl s

theorem homeWork_homeWrite (s : State) (pa : Nat) (bs : List Byte) (w : Writer) : HomeWork s (s.homeWrite pa bs w) := by
  rw [State.homeWrite]
  refine HomeWork.trans ?_ (HomeWork.foldl homeWork_notify _ _)
  refine HomeWork.trans ?_ (HomeWork.foldl
    (fun s wa => homeWork_setHome_owners s (lineOf wa) (h := { s.home (lineOf wa) with last := some w }) rfl) _ _)
  refine HomeWork.trans ?_ (homeWork_cleanUnits _ _ _)
  refine HomeWork.trans ?_ (homeWork_memWrite _ _ _)
  exact HomeWork.foldl (fun s wa => (homeWork_recallWord s wa).trans (homeWork_clearLost _ wa)) _ s

theorem homeWork_freshenCopy (s : State) (b wa : Nat) (cls : Scope) : HomeWork s (s.freshenCopy b wa cls) := by
  rw [State.freshenCopy]
  split
  · split
    · exact homeWork_setBarn s b rfl
    · exact HomeWork.refl s
  · exact HomeWork.refl s

/-- The copies of the issuing barn that a write at the home brings up to date. -/
def freshened (s : State) (b : Nat) (prev : Option Writer) (ws : List Nat) : State :=
  ws.foldl (fun (s : State) wa => s.freshenCopy b wa ((writerClass prev b).getD .bn)) s

theorem homeWork_freshened (s : State) (b : Nat) (prev : Option Writer) (ws : List Nat) : HomeWork s (freshened s b prev ws) :=
  HomeWork.foldl (fun s wa => homeWork_freshenCopy s b wa _) ws s

theorem homeStore_barn (s : State) (pa : Nat) (bs : List Byte) (b ctx pte hd : Nat) : s.homeStore pa bs (.barn b) ctx pte hd =
    (freshened (s.homeWrite pa bs (.barn b)) b (s.home (pa / 128)).last (wordsOf pa bs.length)).dirtyMark ctx pte pa hd := rfl

/-- The owner-lost marks that an update leaves. -/
def markedLost (s : State) (ws : List Nat) : State :=
  ws.foldl (fun s wa => s.setHome (lineOf wa) { s.home (lineOf wa) with lost := (s.home (lineOf wa)).lost ||| wordBit wa }) s

theorem homeWork_markedLost (s : State) (ws : List Nat) : HomeWork s (markedLost s ws) :=
  HomeWork.foldl (fun s wa => homeWork_setHome_owners s (lineOf wa)
    (h := { s.home (lineOf wa) with lost := (s.home (lineOf wa)).lost ||| wordBit wa }) rfl) ws s

theorem homeUpdate_barn (s : State) (pa : Nat) (bs : List Byte) (b ctx pte hd : Nat) : s.homeUpdate pa bs (.barn b) ctx pte hd =
    markedLost (s.homeStore pa bs (.barn b) ctx pte hd) ((wordsOf pa bs.length).filter (fun wa => s.isLost wa)) := rfl

theorem homeWork_homeUpdate (s : State) (pa : Nat) (bs : List Byte) (b ctx pte hd : Nat) :
    HomeWork s (s.homeUpdate pa bs (.barn b) ctx pte hd) := by
  rw [homeUpdate_barn, homeStore_barn]
  refine HomeWork.trans ?_ (homeWork_markedLost _ _)
  refine HomeWork.trans ?_ (homeWork_dirtyMark _ _ _ _ _)
  exact (homeWork_homeWrite s pa bs _).trans (homeWork_freshened _ _ _ _)

/-- The write-back of a line (12 R219). -/
theorem homeWork_recordWb (s : State) (b m : Nat) : HomeWork s (s.recordWb b m) := by
  rw [State.recordWb]
  split
  · exact homeWork_dropMsg s m
  · refine HomeWork.trans ?_ (HomeWork.foldl (fun t u => ?_) _ _)
    · refine HomeWork.trans ?_ (homeWork_dropMsg _ m)
      refine HomeWork.trans ?_ (homeWork_setBarn _ _ rfl)
      refine HomeWork.foldl (fun t w => ?_) _ s
      split
      · exact homeWork_recallWord t w.1
      · exact HomeWork.refl t
    · split
      · exact homeWork_cleanUnits t _ _
      · exact HomeWork.refl t

theorem homeWork_wbFirst (s : State) (b wa : Nat) : HomeWork s (s.wbFirst b wa) := by
  rw [State.wbFirst]
  split
  · exact homeWork_recordWb s b _
  · exact HomeWork.refl s

end Sys2Proof.Laws
end

section
/-! ## Accesses from outside (12 R222 to R224, 13 R232, 20 R341) -/

namespace Sys2Proof.Laws
open Sys2Proof Sys2Proof.Machine Sys2Proof.Safety

/-! ### A write at the home of words without owners -/

theorem cleanUnits_mem (s : State) (pa n : Nat) : (s.cleanUnits pa n).mem = s.mem := by
  refine List.foldlRecOn (motive := fun t : State => t.mem = s.mem) _ _ rfl fun t ht i _ => ?_
  dsimp only
  split
  · split
    · exact ht
    · exact ht
  · exact ht

theorem foldl_notify_mem (ws : List Nat) (s : State) : (ws.foldl (fun s wa => s.notify wa) s).mem = s.mem :=
  List.foldlRecOn (motive := fun t : State => t.mem = s.mem) ws _ rfl fun t ht wa _ => (notify_mem t wa).trans ht

/-- Nothing is taken back from words without owners. -/
theorem foldl_recallClear_mem {s : State} {ws : List Nat} (h : ∀ wa ∈ ws, s.ownerOf wa = none) :
    (ws.foldl (fun s wa => (s.recallWord wa).clearLost wa) s).mem = s.mem := by
  refine (List.foldlRecOn (motive := fun t : State => HomeWork s t ∧ t.mem = s.mem) ws _ ⟨HomeWork.refl s, rfl⟩
    fun t ⟨ht, hm⟩ wa hwa => ?_).2
  rw [recallWord_unowned (ht.unowned (h wa hwa))]
  exact ⟨ht.trans (homeWork_clearLost t wa), hm⟩

theorem homeWrite_mem {s : State} {pa : Nat} {bs : List Byte} (w : Writer) (h : Spec.Unowned s pa bs.length) :
    (s.homeWrite pa bs w).mem = memWrite s.mem pa bs := by
  rw [State.homeWrite, foldl_notify_mem]
  refine (List.foldlRecOn (motive := fun t : State => t.mem = memWrite s.mem pa bs) _ _ ?_ fun t ht wa _ => ht)
  rw [cleanUnits_mem, State.memWrite, foldl_recallClear_mem h]

/-- A state whose memory holds some bytes written, and that has no further owners, has stored them. -/
theorem stored_of_mem {s t : State} {pa : Nat} {bs : List Byte} (hm : t.mem = memWrite s.mem pa bs) (h : HomeWork s t)
    (ho : Spec.Unowned s pa bs.length) : Spec.Stored s t pa bs := by
  refine ⟨fun j hj => ?_, fun a ha => ?_, fun wa hwa => h.unowned (ho wa hwa)⟩
  · rw [hm, memByte_memWrite, if_pos (by omega), Nat.add_sub_cancel_left]
  · rw [hm, memByte_memWrite, if_neg ha]

theorem stored_homeWrite {s : State} {pa : Nat} {bs : List Byte} (w : Writer) (h : Spec.Unowned s pa bs.length) :
    Spec.Stored s (s.homeWrite pa bs w) pa bs := stored_of_mem (homeWrite_mem w h) (homeWork_homeWrite s pa bs w) h

/-! ### Halves that the host holds (12 R224) -/

theorem getLsbD_halfBit (addr : Nat) : (halfBit addr).getLsbD (halfOf addr) = true := by
  rw [halfBit]
  rcases Nat.mod_two_eq_zero_or_one (addr / 64) with h | h
  · rw [halfOf, h]; rfl
  · rw [halfOf, h]; rfl

theorem getLsbD_or_halfBit (x : BitVec 2) (addr : Nat) : (x ||| halfBit addr).getLsbD (halfOf addr) = true := by
  rw [BitVec.getLsbD_or, getLsbD_halfBit, Bool.or_true]

theorem getLsbD_clear_halfBit (x : BitVec 2) (addr : Nat) : (x &&& ~~~halfBit addr).getLsbD (halfOf addr) = false := by
  rw [BitVec.getLsbD_and, BitVec.getLsbD_not, getLsbD_halfBit, Bool.not_true, Bool.and_false, Bool.and_false]

/-- The words of a half. -/
theorem mem_halfWords {addr wa : Nat} (h : wa / 16 = addr / 64) : wa ∈ (List.range 16).map (· + addr / 64 * 64 / 4) :=
  List.mem_map.mpr ⟨wa % 16, List.mem_range.mpr (by omega), by omega⟩

/-- What the homes hold before the host takes a half: write-backs under way first, then the recalls. -/
def halfRecalled (s : State) (addr : Nat) : State :=
  let base := addr / 64 * 64
  ((List.range 16).map (· + base / 4)).foldl (fun s wa => s.recallWord wa)
    ((s.barns.map (·.1)).foldl (fun s b => ((List.range 16).map (· + base / 4)).foldl (fun s wa => s.wbFirst b wa) s) s)

theorem hostTake_eq (s : State) (addr : Nat) (modified : Bool) : s.hostTake addr modified =
    let t := halfRecalled s addr
    let h := t.home (addr / 128)
    t.setHome (addr / 128) { h with held := h.held ||| halfBit addr
                                    heldMod := if modified then h.heldMod ||| halfBit addr else h.heldMod } := rfl

theorem halfRecalled_unowned {s : State} {addr : Nat} (h : ∀ wa, wa / 16 = addr / 64 → Spec.OneOwner s wa) {wa : Nat}
    (hwa : wa / 16 = addr / 64) : (halfRecalled s addr).ownerOf wa = none := by
  have hwb : HomeWork s ((s.barns.map (·.1)).foldl
      (fun s b => ((List.range 16).map (· + addr / 64 * 64 / 4)).foldl (fun s wa => s.wbFirst b wa) s) s) :=
    HomeWork.foldl (fun s b => HomeWork.foldl (fun s wa => homeWork_wbFirst s b wa) _ s) _ s
  refine foldl_recallWord_clears (fun x hx => hwb.oneOwner (h x ?_)) (mem_halfWords hwa)
  obtain ⟨j, hj, rfl⟩ := List.mem_map.mp hx
  have := List.mem_range.mp hj
  omega

theorem hostTake_holds (s : State) (addr : Nat) (modified : Bool) : (s.hostTake addr modified).hostHolds addr = true := by
  rw [hostTake_eq, State.hostHolds, home_setHome, if_pos rfl]
  exact getLsbD_or_halfBit _ addr

theorem hostTake_mod (s : State) (addr : Nat) : (s.hostTake addr true).hostMod addr = true := by
  rw [hostTake_eq, State.hostMod, home_setHome, if_pos rfl]
  exact getLsbD_or_halfBit _ addr

theorem hostTake_unowned {s : State} {addr : Nat} (modified : Bool) (h : ∀ wa, wa / 16 = addr / 64 → Spec.OneOwner s wa) {wa : Nat}
    (hwa : wa / 16 = addr / 64) : (s.hostTake addr modified).ownerOf wa = none := by
  have hw := halfRecalled_unowned h hwa
  rw [hostTake_eq]
  generalize halfRecalled s addr = t at hw ⊢
  refine HomeWork.unowned (homeWork_setHome_owners t (addr / 128) ?_) hw
  rfl

/-- The state in which the host gives a half back, before the half is marked free. -/
def halfWritten (s : State) (addr : Nat) (bs : Option (List Byte)) : State :=
  match bs with
  | some bs => if s.hostMod addr && decide (bs.length = 64) then s.homeWrite (addr / 64 * 64) bs .host else s
  | none => s

theorem hostGive_eq (s : State) (addr : Nat) (bs : Option (List Byte)) : s.hostGive addr bs =
    let t := halfWritten s addr bs
    let h := t.home (addr / 128)
    t.setHome (addr / 128) { h with held := h.held &&& ~~~(halfBit addr), heldMod := h.heldMod &&& ~~~(halfBit addr) } := rfl

theorem hostGive_free (s : State) (addr : Nat) (bs : Option (List Byte)) : (s.hostGive addr bs).hostHolds addr = false := by
  rw [hostGive_eq, State.hostHolds, home_setHome, if_pos rfl]
  exact getLsbD_clear_halfBit _ addr

theorem halfWritten_some {s : State} {half : Nat} {bs : List Byte} (hmod : s.hostMod (64 * half) = true) (hn : bs.length = 64) :
    halfWritten s (64 * half) (some bs) = s.homeWrite (64 * half) bs .host := by
  have ha : 64 * half / 64 * 64 = 64 * half := by omega
  rw [halfWritten, hmod, decide_eq_true hn, Bool.and_self, if_pos rfl, ha]

theorem stored_hostGive {s : State} {half : Nat} {bs : List Byte} (hmod : s.hostMod (64 * half) = true) (hn : bs.length = 64)
    (ho : Spec.Unowned s (64 * half) 64) : Spec.Stored s (s.hostGive (64 * half) (some bs)) (64 * half) bs := by
  have ho : Spec.Unowned s (64 * half) bs.length := by rw [hn]; exact ho
  rw [hostGive_eq, halfWritten_some hmod hn]
  refine stored_of_mem (homeWrite_mem .host ho) ?_ ho
  exact (homeWork_homeWrite s _ bs .host).trans (homeWork_setHome_owners _ _ rfl)

/-! ### Who may reach memory from outside (21 R361) -/

theorem outsideWaits_ready {s : State} (h : Spec.StacksReady s) (addr : Nat) : s.outsideWaits addr = false := by
  have hd : Config.lineDie (addr / 128) % 4 < 4 := Nat.mod_lt _ (by decide)
  obtain ⟨hw, hf⟩ := h _ hd
  have hdown : (s.dieWaits (Config.lineDie (addr / 128) % 4) || s.dieFailed (Config.lineDie (addr / 128) % 4)) = false := by
    rw [hw, hf, Bool.or_self]
  rw [State.outsideWaits]
  exact (congrArg (_ && ·) hdown).trans (Bool.and_false _)

theorem halves_free {s : State} {addr n : Nat} (h : ∀ x ∈ halvesOf addr n, s.hostHolds x = false) :
    (halvesOf addr n).any s.hostHolds = false := List.any_eq_false.mpr fun x hx => by rw [h x hx]; exact Bool.false_ne_true

theorem peerAccess_write {s : State} {dev addr : Nat} {bs : List Byte} (hne : dev ≠ s.fabric.devnum) (hdev : dev < 512)
    (hup : ∃ j < 18, (s.link j).up = true) (hr : Spec.StacksReady s) (hm : inMemory addr bs.length = true)
    (hh : ∀ x ∈ halvesOf addr bs.length, s.hostHolds x = false) :
    execPeerAccess dev (.write addr bs) s = .next ((s.homeWrite addr bs .peer).peerMark addr bs.length) := by
  have hall : ¬ (List.range 18).all (fun k => !(s.link k).up) = true := by
    obtain ⟨j, hj, hu⟩ := hup
    intro ha
    have hj := List.all_eq_true.mp ha j (List.mem_range.mpr hj)
    rw [hu] at hj
    exact Bool.false_ne_true hj
  have hgo : ¬ (dev = s.fabric.devnum ∨ 512 ≤ dev ∨ (List.range 18).all (fun k => !(s.link k).up) ∨
      s.outsideWaits (addrOf (.write addr bs)) = true) := by
    rintro (h | h | h | h)
    · exact hne h
    · omega
    · exact hall h
    · rw [outsideWaits_ready hr] at h; exact Bool.false_ne_true h
  rw [execPeerAccess, if_neg hgo]
  exact if_pos (by rw [hm, halves_free hh]; rfl)

section
variable {s : State} (hl : s.hostLinked = true) (hr : Spec.StacksReady s)
include hl hr

theorem hostMemoryAccess_write {addr : Nat} {bs : List Byte} (hm : inMemory addr bs.length = true)
    (hh : ∀ x ∈ halvesOf addr bs.length, s.hostHolds x = false) :
    execHostMemoryAccess (.write addr bs) s = .next (s.homeWrite addr bs .host) := by
  rw [execHostMemoryAccess, hl, outsideWaits_ready hr, if_neg (by decide)]
  exact if_pos (by rw [hm, halves_free hh]; rfl)

theorem hostMemoryAccess_hold {addr : Nat} (modified : Bool) (hm : inMemory (addr / 64 * 64) 64 = true) :
    execHostMemoryAccess (.hold addr modified) s = .next (s.hostTake addr modified) := by
  rw [execHostMemoryAccess, hl, outsideWaits_ready hr, if_neg (by decide)]
  exact if_pos hm

theorem hostAtomicSwap_writes {addr : Nat} (value : DWord) (hm : inMemory addr 8 = true) (ha : addr % 8 = 0)
    (hh : s.hostHolds addr = false) (hlost : ∀ wa ∈ wordsOf addr 8, s.isLost wa = false) :
    execHostAtomicSwap addr value s = .next (s.homeWrite addr (bytesOf 8 value.toNat) .host) := by
  have hnone : ¬ (wordsOf addr 8).any (fun wa => s.isLost wa) = true := by
    rw [Bool.not_eq_true, List.any_eq_false]
    exact fun wa hwa => by rw [hlost wa hwa]; exact Bool.false_ne_true
  rw [execHostAtomicSwap, hl, outsideWaits_ready hr, hm, decide_eq_true ha, hh, if_pos (by decide), State.outsideAtomic, if_neg hnone]

end

theorem hostSnoopResponse_held {s : State} {half : Nat} (h : s.hostHolds (64 * half) = true) (bs : Option (List Byte)) :
    execHostSnoopResponse half bs s = .next (s.hostGive (64 * half) bs) := if_pos h

/-! ### Peers' acknowledgements of writes (12 R223) -/

theorem peerHomeReply_write {s : State} {m b sid f acc pa n : Nat} {d : List Byte} {acq : Option Scope} {fresh : Bool}
    {w : List (Nat × LaneSet)} (h : s.msgs.find? m = some ⟨.peer b sid f acc pa n (some d) acq fresh, w⟩) (hs : sid ≠ 0)
    (reply : List Byte) (ok : Bool) :
    execPeerHomeReply m reply ok s = .next (if ok then s.dropMsg m else (s.dropMsg m).peerWriteFailed pa w) := by
  rw [execPeerHomeReply, h]
  dsimp only
  rw [Option.isNone_some, Bool.and_false, Bool.false_and, if_neg Bool.false_ne_true, if_neg hs]
  cases ok <;> rfl

/-- A failed write of one sheaf's lanes: the line is kept for their next release. -/
theorem peerHomeReply_failed {s : State} {m b sid f acc pa n : Nat} {d : List Byte} {acq : Option Scope} {fresh : Bool} {x : Nat}
    {set : LaneSet} {sh : Sheaf} (h : s.msgs.find? m = some ⟨.peer b sid f acc pa n (some d) acq fresh, [(x, set)]⟩) (hs : sid ≠ 0)
    (hx : s.sheaf? x = some sh) (reply : List Byte) : execPeerHomeReply m reply false s = .next ((s.dropMsg m).setSheaf x
      (sh.modLanes (set &&& sh.full) fun _ l => { l with failed := l.failed ++ [pa / 128 * 128] })) := by
  rw [peerHomeReply_write h hs]
  exact congrArg Host.Outcome.next (modSheaf_some (s.dropMsg m) x _ sh hx)

end Sys2Proof.Laws

namespace Sys2Proof.Proofs
open Sys2Proof Sys2Proof.Machine Sys2Proof.Safety Sys2Proof.Laws

/-- Settles O48: a write from outside is the home's write of words that nobody owns. -/
theorem outsideAccesses : Obligations.OutsideAccesses := by
  unfold Obligations.OutsideAccesses
  refine ⟨fun s m b sid f acc pa n d acq fresh w reply hm hs => ⟨?_, fun x set sh hw hx => ?_⟩,
    fun s dev addr bs hne hdev hup hr hm hh ho => ?_, fun s addr bs hl hr hm hh ho => ?_,
    fun s addr value hl hr hm ha hh ho hlost => ?_, fun s addr modified hl hr hm ho => ?_, fun s half hh => ⟨?_, fun bs hn hmod ho => ?_⟩⟩
  · exact ⟨_, peerHomeReply_write hm hs reply true, rfl, rfl⟩
  · subst hw
    refine ⟨_, _, peerHomeReply_failed hm hs hx reply, ?_, rfl,
      (sheaf_setSheaf (s.dropMsg m) x x _).trans (if_pos rfl), modLanes_frame sh _ _, fun l _ => lane_modLanes sh _ _ l⟩
    exact (kv_find_erase s.msgs m m).trans (if_pos rfl)
  · exact ⟨_, _, peerAccess_write hne hdev hup hr hm hh, stored_homeWrite .peer ho, rfl⟩
  · exact ⟨_, hostMemoryAccess_write hl hr hm hh, stored_homeWrite .host ho⟩
  · exact ⟨_, hostAtomicSwap_writes hl hr value hm ha hh hlost,
      stored_homeWrite .host (by rw [length_bytesOf]; exact ho)⟩
  · exact ⟨_, hostMemoryAccess_hold hl hr modified hm, hostTake_holds s addr modified, fun h => by rw [h]; exact hostTake_mod s addr,
      fun wa hwa => hostTake_unowned modified ho hwa⟩
  · exact ⟨_, hostSnoopResponse_held hh none, hostGive_free s _ none, rfl⟩
  · exact ⟨_, hostSnoopResponse_held hh (some bs), hostGive_free s _ _, stored_hostGive hmod hn ho⟩

end Sys2Proof.Proofs
end

section
/-! ## Invalidations and prefetches (12 R228, R231) -/

namespace Sys2Proof.Laws
open Sys2Proof Sys2Proof.Machine Sys2Proof.Safety

/-! ### Maps with rising keys -/

/-- No two entries have one key. -/
def DistinctKeys {α : Type} (m : KV α) : Prop := m.Pairwise (fun x y => x.1 ≠ y.1)

theorem kv_sortedFrom_above {α : Type} {m : KV α} : ∀ {lo : Option Nat}, KV.sortedFrom lo m = true → ∀ e ∈ m, below lo e.1 := by
  induction m with
  | nil => exact fun _ e he => absurd he List.not_mem_nil
  | cons x r ih =>
    intro lo h e he
    obtain ⟨hx, hr⟩ := (kv_sortedFrom_cons lo x.1 x.2 r).mp h
    rcases List.mem_cons.mp he with rfl | he
    · exact hx
    · exact fun l hl => (hx l hl).trans (ih hr e he x.1 rfl)

theorem distinctKeys_of_sortedFrom {α : Type} {m : KV α} : ∀ {lo : Option Nat}, KV.sortedFrom lo m = true → DistinctKeys m := by
  induction m with
  | nil => exact fun _ => List.Pairwise.nil
  | cons x r ih =>
    intro lo h
    obtain ⟨-, hr⟩ := (kv_sortedFrom_cons lo x.1 x.2 r).mp h
    exact List.Pairwise.cons (fun y hy => ne_of_lt (kv_sortedFrom_above hr y hy x.1 rfl)) (ih hr)

theorem distinctKeys_of_sorted {α : Type} {m : KV α} (h : m.sorted = true) : DistinctKeys m := distinctKeys_of_sortedFrom h

theorem DistinctKeys.filter {α : Type} {m : KV α} (h : DistinctKeys m) (p : Nat × α → Bool) : DistinctKeys (m.filter p) :=
  List.Pairwise.filter p h

theorem kv_mem_of_find {α : Type} {m : KV α} {k : Nat} {v : α} (h : m.find? k = some v) : (k, v) ∈ m := by
  induction m with
  | nil => cases h
  | cons x r ih =>
    obtain ⟨a, w⟩ := x
    rw [KV.find?] at h
    split at h
    · next e => rw [← e, Option.some.inj h]; exact List.mem_cons_self
    · exact List.mem_cons_of_mem _ (ih h)

theorem DistinctKeys.find_of_mem {α : Type} {m : KV α} (hd : DistinctKeys m) {e : Nat × α} (h : e ∈ m) : m.find? e.1 = some e.2 := by
  induction m with
  | nil => cases h
  | cons x r ih =>
    obtain ⟨hx, hr⟩ := List.pairwise_cons.mp hd
    rcases List.mem_cons.mp h with rfl | he
    · exact if_pos rfl
    · rw [KV.find?, if_neg (hx e he)]
      exact ih hr he

/-- Among entries of distinct keys, those that a filter keeps are found by their keys. -/
theorem DistinctKeys.isSome_find_filter {α : Type} {m : KV α} (hd : DistinctKeys m) (p : Nat × α → Bool) {e : Nat × α} (h : e ∈ m) :
    (KV.find? (m.filter p) e.1).isSome = p e := by
  cases hp : p e with
  | true => rw [(hd.filter p).find_of_mem (List.mem_filter.mpr ⟨h, hp⟩)]; rfl
  | false =>
    cases hf : KV.find? (m.filter p) e.1 with
    | none => rfl
    | some v =>
      obtain ⟨hm, hv⟩ := List.mem_filter.mp (kv_mem_of_find hf)
      have he := hd.find_of_mem hm
      rw [hd.find_of_mem h] at he
      obtain rfl := Option.some.inj he
      exact absurd hv (by rw [hp]; exact Bool.false_ne_true)

/-! ### Words that an invalidation drops (12 R228) -/

/-- INVA keeps the words that the rule names. -/
theorem inva_eq (b : Barn) (sc : Scope) : b.inva sc = { b with words := b.words.filter (Spec.kept sc) } := by
  have hall (c : Scope) (h : ∀ e, Spec.kept c e = true) : b = { b with words := b.words.filter (Spec.kept c) } := by
    rw [List.filter_eq_self.mpr fun e _ => h e]
  cases sc with
  | sh | st | bn => exact hall _ fun e => by rw [Spec.kept]; exact Bool.or_true _
  | di | pk => rfl
  | sy => exact congrArg (fun l => { b with words := l }) (List.filter_congr fun e _ => (Bool.or_false _).symm)

theorem wordsOnly_refl (b : Nat) (s : State) : Spec.WordsOnly b s s := ⟨rfl, fun _ _ => rfl, rfl⟩

theorem wordsOnly_setBarn (s : State) (b : Nat) (l : KV L1Word) : Spec.WordsOnly b s (s.setBarn b { s.barn b with words := l }) := by
  refine ⟨rfl, fun x hx => ?_, ?_⟩
  · rw [barn_setBarn, if_neg hx.symm]
  · rw [barn_setBarn, if_pos rfl]

theorem wordsOnly_trans {b : Nat} {s t u : State} (h : Spec.WordsOnly b s t) (h' : Spec.WordsOnly b t u) : Spec.WordsOnly b s u := by
  obtain ⟨ht, hto, htb⟩ := h
  obtain ⟨hu, huo, hub⟩ := h'
  refine ⟨(congrArg (fun x : State => { x with barns := s.barns }) hu).trans ht, fun x hx => (huo x hx).trans (hto x hx), ?_⟩
  exact (congrArg (fun x : Barn => { x with words := (s.barn b).words }) hub).trans htb

/-- Whether a word's line overlaps some bytes. -/
def inLines (pa n : Nat) (e : Nat × L1Word) : Prop := pa / 128 ≤ e.1 / 32 ∧ e.1 / 32 ≤ (pa + n - 1) / 128

/-- One range of an INVR. -/
theorem mem_invLines {s : State} {b : Nat} (hd : DistinctKeys (s.barn b).words) (pa n : Nat) (sc : Scope) (e : Nat × L1Word) :
    e ∈ ((s.invLines b pa n sc).barn b).words ↔ e ∈ (s.barn b).words ∧ (Spec.kept sc e = true ∨ ¬ inLines pa n e) := by
  rw [State.invLines, barn_setBarn, if_pos rfl]
  refine List.mem_filter.trans (and_congr_right fun he => ?_)
  rw [inva_eq, hd.isSome_find_filter _ he, Bool.or_eq_true, Bool.not_eq_true', decide_eq_false_iff_not]
  exact or_comm

theorem wordsOnly_invLines (s : State) (b pa n : Nat) (sc : Scope) : Spec.WordsOnly b s (s.invLines b pa n sc) := wordsOnly_setBarn s b _

theorem distinctKeys_invLines {s : State} {b : Nat} (hd : DistinctKeys (s.barn b).words) (pa n : Nat) (sc : Scope) :
    DistinctKeys ((s.invLines b pa n sc).barn b).words := by
  rw [State.invLines, barn_setBarn, if_pos rfl]
  exact hd.filter _

/-- The ranges of an INVR, one after another. -/
def invRanges (b : Nat) (sc : Scope) (l : List (Spec.Xa × Nat)) (s : State) : State :=
  l.foldl (fun s e => s.invLines b e.1.2.2.1 e.2 sc) s

theorem wordsOnly_invRanges (b : Nat) (sc : Scope) (l : List (Spec.Xa × Nat)) (s : State) : Spec.WordsOnly b s (invRanges b sc l s) :=
  List.foldlRecOn (motive := fun t => Spec.WordsOnly b s t) l _ (wordsOnly_refl b s) fun t ht _ _ =>
    wordsOnly_trans ht (wordsOnly_invLines t b _ _ sc)

theorem mem_invRanges {b : Nat} (sc : Scope) (l : List (Spec.Xa × Nat)) {s : State} (hd : DistinctKeys (s.barn b).words)
    (e : Nat × L1Word) : e ∈ ((invRanges b sc l s).barn b).words ↔
      e ∈ (s.barn b).words ∧ (Spec.kept sc e = true ∨ ∀ x ∈ l, ¬ inLines x.1.2.2.1 x.2 e) := by
  induction l generalizing s with
  | nil => exact ⟨fun h => ⟨h, .inr fun x hx => absurd hx List.not_mem_nil⟩, fun h => h.1⟩
  | cons x l ih =>
    rw [invRanges, List.foldl_cons]
    refine (ih (distinctKeys_invLines hd _ _ _)).trans ?_
    rw [mem_invLines hd, List.forall_mem_cons]
    tauto

theorem invrBody_ok {i : Instr} {s s1 : State} {k : Ctx} {a b : Reg} {sc : Scope} {off : BitVec 15} {xs : List Spec.Xa}
    (h : s.xlateLanes (some k.sh.core) k.ctx .read ((laneRanges k a b off).flatMap (fun e =>
      (pieces e.2.1.toNat e.2.2).map (fun p => (e.1, p.1)))) = (.ok xs, s1)) :
    let l := xs.zip ((laneRanges k a b off).flatMap (fun r => (pieces r.2.1.toNat r.2.2).map (·.2)))
    invrBody i s k a b sc off = .ok { st := invRanges (barnOf k.sh.core) sc l s1 } := by
  have hva : ((laneRanges k a b off).flatMap (fun e => (pieces e.2.1.toNat e.2.2).map (fun p => (e.1, p.1, p.2)))).map
      (fun p => (p.1, p.2.1)) = (laneRanges k a b off).flatMap (fun e => (pieces e.2.1.toNat e.2.2).map (fun p => (e.1, p.1))) := by
    rw [List.map_flatMap]
    exact List.flatMap_congr fun e _ => by rw [List.map_map]; rfl
  have hn : ((laneRanges k a b off).flatMap (fun e => (pieces e.2.1.toNat e.2.2).map (fun p => (e.1, p.1, p.2)))).map
      (fun p => p.2.2) = (laneRanges k a b off).flatMap (fun e => (pieces e.2.1.toNat e.2.2).map (·.2)) := by
    rw [List.map_flatMap]
    exact List.flatMap_congr fun e _ => by rw [List.map_map]; rfl
  rw [invrBody]
  dsimp only
  rw [hva, h, hn]
  rfl

/-! ### Prefetches (12 R231) -/

/-- What translation and the L1s do: stooks, crops and regions stay, and where nobody waits on a word every sheaf does. -/
structure Beside (s t : State) : Prop where
  stooks : t.stooks = s.stooks
  crops : t.crops = s.crops
  regions : t.regions = s.regions
  quiet : s.waits = [] → t.waits = [] ∧ t.sheaves = s.sheaves

theorem Beside.refl (s : State) : Beside s s := ⟨rfl, rfl, rfl, fun h => ⟨h, rfl⟩⟩

theorem Beside.trans {s t u : State} (h : Beside s t) (h' : Beside t u) : Beside s u where
  stooks := h'.stooks.trans h.stooks
  crops := h'.crops.trans h.crops
  regions := h'.regions.trans h.regions
  quiet hw := ⟨(h'.quiet (h.quiet hw).1).1, (h'.quiet (h.quiet hw).1).2.trans (h.quiet hw).2⟩

theorem Beside.foldl {α : Type} {f : State → α → State} (hf : ∀ s a, Beside s (f s a)) (l : List α) (s : State) :
    Beside s (l.foldl f s) :=
  List.foldlRecOn l f (Beside.refl s) fun t ht a _ => ht.trans (hf t a)

theorem HomeWork.beside {s t : State} (h : HomeWork s t) : Beside s t where
  stooks := by have e := congrArg State.stooks h.frame; exact e
  crops := by have e := congrArg State.crops h.frame; exact e
  regions := by have e := congrArg State.regions h.frame; exact e
  quiet := h.quiet

/-- A change of other parts of the state. -/
theorem beside_of_frame {s t : State} (h : { t with barns := s.barns, cores := s.cores, msgs := s.msgs, trans := s.trans, tick := s.tick,
                                                    nextId := s.nextId } = s) : Beside s t where
  stooks := by have e := congrArg State.stooks h; exact e
  crops := by have e := congrArg State.crops h; exact e
  regions := by have e := congrArg State.regions h; exact e
  quiet hw := ⟨by have e := congrArg State.waits h; exact (Eq.trans e hw), by have e := congrArg State.sheaves h; exact e⟩

theorem beside_orByte (s : State) (a : Nat) (b : Byte) (d : Nat) : Beside s (s.orByte a b d) := (homeWork_orByte s a b d).beside

theorem beside_fillTlb (s : State) (core ctx : Nat) (va : DWord) (e : TlbEnt) : Beside s (s.fillTlb core ctx va e) := beside_of_frame rfl

theorem beside_install (s : State) (core ctx : Nat) (va : DWord) (e : TlbEnt) : Beside s (s.install core ctx va e) := by
  rw [State.install]
  refine Beside.trans ?_ (beside_orByte _ _ _ _)
  exact beside_of_frame rfl

theorem beside_walked (s : State) (w : Option Walk) : Beside s (s.walked w) := by
  have ht : Beside s { s with tick := s.tick + 1 } := beside_of_frame rfl
  rw [State.walked.eq_def]
  rcases w with - | (e | l)
  · exact ht
  · dsimp only
    split
    · exact ht
    · exact ht.trans (beside_orByte _ _ _ _)
  · exact ht

theorem beside_ctxEntry (s : State) (ctx : Nat) : Beside s (s.ctxEntry ctx).2 := by
  rw [State.ctxEntry]
  split
  · exact beside_of_frame rfl
  · split
    · exact Beside.refl s
    · dsimp only
      split
      · exact beside_of_frame rfl
      · exact beside_of_frame rfl

theorem beside_leafTaken (f : Option Walk) (s : State) (core ctx : Nat) (va : DWord) : Beside s (leafTaken f s core ctx va).2 := by
  rcases f with - | (e | l)
  · exact Beside.refl s
  · exact beside_install s core ctx va e
  · exact Beside.refl s

theorem beside_leafReused (f : Option Walk) (s : State) (core ctx : Nat) (va : DWord) (e : TlbEnt) :
    Beside s (leafReused f s core ctx va e).2 := by
  have hb : Beside s s.freeBit.2 := beside_of_frame rfl
  rw [leafReused.eq_def]
  refine iteInduction (motive := fun r : Option Walk × State => Beside s r.2) (fun _ => Beside.refl s) fun _ => ?_
  refine iteInduction (motive := fun r : Option Walk × State => Beside s r.2) (fun _ => hb) fun _ => ?_
  exact hb.trans (beside_leafTaken f _ core ctx va)

theorem beside_lookup (s : State) (core : Option Nat) (ctx : Nat) (va : DWord) : Beside s (s.lookup core ctx va).2 := by
  have hc := beside_ctxEntry s ctx
  rw [State.lookup]
  split
  · exact Beside.refl s
  · dsimp only
    generalize s.ctxEntry ctx = c at hc
    have ht : Beside s { c.2 with tick := c.2.tick + 1 } := hc.trans (beside_of_frame rfl)
    split
    · exact hc.trans (beside_walked _ _)
    · split
      · exact ht.trans (beside_leafReused _ _ _ ctx va _)
      · exact (ht.trans (beside_fillTlb _ _ ctx va _)).trans (beside_leafReused _ _ _ ctx va _)
      · exact ht.trans (beside_leafTaken _ _ _ ctx va)

theorem beside_probe (s : State) (core : Option Nat) (ctx : Nat) (va : DWord) : Beside s (s.probe core ctx va).2 := by
  have hl := beside_lookup s core ctx va
  rw [State.probe]
  split
  · next e t ht =>
    rw [ht] at hl
    dsimp only
    split
    · exact hl
    · exact hl
  · next t h ht => rw [ht] at hl; exact hl

/-- A word that leaves its phase for the home. -/
theorem homeWork_writePhase (s : State) (b wa : Nat) (x : L1Word) : HomeWork s (s.writePhase b wa x) := by
  rw [State.writePhase]
  refine HomeWork.trans ?_ (homeWork_notify _ _)
  refine HomeWork.trans ?_ (homeWork_dirtyMark _ _ _ _ _)
  refine HomeWork.trans ?_ (homeWork_setHome_owners _ (lineOf wa) ?_)
  · refine HomeWork.trans ?_ (homeWork_setHomeWord _ _ _)
    exact (homeWork_recallWord s wa).trans (homeWork_clearLost _ wa)
  · rfl

theorem beside_publish (s : State) (b addr : Nat) : Beside s (s.publish b addr) := by
  rw [State.publish]
  split
  · exact Beside.refl s
  · split
    · exact Beside.refl s
    · dsimp only
      refine Beside.trans ?_ (homeWork_homeUpdate _ _ _ _ _ _ _).beside
      exact beside_of_frame rfl

theorem beside_evictLine (s : State) (b line : Nat) : Beside s (s.evictLine b line) := by
  rw [State.evictLine]
  dsimp only
  generalize hs : ((s.barn b).words.filter (fun e => lineOf e.1 == line)).filter (fun e => e.2.phase != []) = phases
  have hp : Beside s (((s.barn b).gather.filter (fun e => e.1 / 128 == line)).foldl (fun s e => s.publish b e.1) s) :=
    Beside.foldl (fun (s : State) (e : Nat × Gather) => beside_publish s b e.1) _ s
  have hw := hp.trans (HomeWork.foldl (fun (s : State) (e : Nat × L1Word) => homeWork_writePhase s b e.1 e.2) phases _).beside
  split
  · exact hw.trans (beside_of_frame rfl)
  · exact hw.trans (beside_of_frame rfl)

theorem beside_makeRoom (s : State) (b line : Nat) : Beside s (s.makeRoom b line) := by
  have ht : Beside s { s with tick := s.tick + 1 } := beside_of_frame rfl
  rw [State.makeRoom]
  split
  · dsimp only
    split
    · exact ht.trans (beside_evictLine _ b _)
    · exact ht
  · exact Beside.refl s

theorem beside_installWords (s : State) (b pa n : Nat) (cls : Scope) (ctx pte hd : Nat) : Beside s (s.installWords b pa n cls ctx pte hd) := by
  refine Beside.foldl (fun s wa => ?_) _ s
  refine (beside_makeRoom s b (lineOf wa)).trans ?_
  dsimp only
  generalize s.makeRoom b (lineOf wa) = t
  split
  · exact Beside.refl t
  · split
    · split
      · split
        · exact beside_of_frame rfl
        · exact Beside.refl t
      · split
        · exact Beside.refl t
        · exact beside_of_frame rfl
    · exact beside_of_frame rfl

theorem beside_prefetch (s : State) (core ctx va n : Nat) : Beside s (s.prefetch core ctx va n) := by
  refine Beside.foldl (fun s p => ?_) _ s
  have hp := beside_probe s (some core) ctx p.1
  split
  · next pa pte hd ho t ht =>
    rw [ht] at hp
    refine hp.trans ?_
    dsimp only
    split
    · exact Beside.refl t
    · refine Beside.foldl (fun u j => ?_) _ t
      split
      · exact beside_of_frame rfl
      · split
        · exact Beside.refl u
        · exact beside_installWords u _ _ _ _ _ _ _
  · next h => rw [h] at hp; exact hp

theorem beside_pfl1All (s : State) (k : Ctx) (a b : Reg) (off : BitVec 15) : Beside s (pfl1All s k a b off) :=
  Beside.foldl (fun s _ => beside_prefetch s _ _ _ _) _ s

end Sys2Proof.Laws

namespace Sys2Proof.Proofs
open Sys2Proof Sys2Proof.Machine Sys2Proof.Safety Sys2Proof.Laws

/-- Settles O26: an invalidation filters the words of one L1; a prefetch is translation and the work of L1s and homes. -/
theorem invalidations : Obligations.Invalidations := by
  unfold Obligations.Invalidations
  refine ⟨fun g sc s k h => ?_, fun g a b sc off s k xs s1 h hx hsorted => ?_, fun g a b off s k h => ?_⟩
  · refine ⟨_, ⟨_, rfl, issue_leaves _ s _ k (fun k => .ok { st := s.inva (barnOf k.sh.core) sc }) h rfl⟩, ?_, fun e => ?_⟩
    · rw [State.inva, inva_eq]; exact wordsOnly_setBarn s _ _
    · rw [State.inva, inva_eq, barn_setBarn, if_pos rfl]; exact List.mem_filter
  · exact ⟨_, ⟨_, rfl, issue_leaves _ s _ k (fun k => invrBody (.invr g a b sc off) s k a b sc off) h (invrBody_ok hx)⟩,
      wordsOnly_invRanges _ sc _ s1, mem_invRanges sc _ (distinctKeys_of_sorted hsorted)⟩
  · have hb := beside_pfl1All s k a b off
    exact ⟨_, ⟨_, rfl, issue_leaves _ s _ k (fun k => .ok { st := pfl1All s k a b off }) h rfl⟩, hb.stooks, hb.crops, hb.regions, hb.quiet⟩

end Sys2Proof.Proofs
end

section
/-! ## Phases and fences (12 R229, R230, 14 R251) -/

namespace Sys2Proof.Laws
open Sys2Proof Sys2Proof.Machine Sys2Proof.Safety

/-! ### The ranges of a phase instruction -/

theorem head_laneRanges {k : Ctx} {l : Nat} (h : (lanesOf k.e).head? = some l) (a b : Reg) (off : BitVec 15) :
    (laneRanges k a b off).head? = some (l, k.addr a off l, (Spec.B k b l).toNat) := by
  rw [laneRanges, List.head?_map, h]; rfl

theorem phaseAlign_none {k : Ctx} {a b : Reg} {off : BitVec 15}
    (h : ∀ j, k.e.getLsbD j = true → (k.addr a off j).toNat % 128 = 0 ∧ (Spec.B k b j).toNat % 128 = 0) :
    phaseAlign k a b off = none := by
  have hnone : (laneRanges k a b off).filter (fun e => e.2.1.toNat % 128 != 0 || e.2.2 % 128 != 0) = [] := by
    refine List.filter_eq_nil_iff.mpr fun e he => ?_
    obtain ⟨j, hj, rfl⟩ := List.mem_map.mp he
    obtain ⟨ha, hb⟩ := h j ((mem_lanesOf _ _).mp hj)
    have hb : (k.opB b j 0).toNat % 128 = 0 := hb
    simp [ha, hb]
  rw [phaseAlign, hnone]

/-- The sheaf with one phase more. -/
def openedSheaf (k : Ctx) (id : Nat) (va : DWord) (len : Nat) : Sheaf := { k.sh with phases := k.sh.phases ++ [⟨id, va, len⟩] }

theorem phbegBody_of {s : State} {k : Ctx} {a b : Reg} {off : BitVec 15} {l : Nat} (hs : s.sheaf? k.sid = some k.sh)
    (hl : (lanesOf k.e).head? = some l) (ha : phaseAlign k a b off = none) : phbegBody s k a b off = .ok
      { st := if (Spec.B k b l).toNat = 0 ∨ 2 ≤ k.sh.phases.length then s
          else ({ s with nextId := s.nextId + 1 } : State).setSheaf k.sid (openedSheaf k s.nextId (k.addr a off l) (Spec.B k b l).toNat) } := by
  rw [phbegBody, ha, head_laneRanges hl]
  dsimp only
  split
  · rfl
  · exact congrArg (fun t => Except.ok ({ st := t } : Done)) (modSheaf_some { s with nextId := s.nextId + 1 } k.sid _ k.sh hs)

/-! ### Messages sent -/

/-- Messages with fresh names have been added, and nothing else. -/
structure Sends (s t : State) : Prop where
  frame : { t with msgs := s.msgs, nextId := s.nextId } = s
  later : s.nextId ≤ t.nextId
  kept : ∀ m < s.nextId, t.msgs.find? m = s.msgs.find? m

theorem Sends.refl (s : State) : Sends s s := ⟨rfl, Nat.le_refl _, fun _ _ => rfl⟩

theorem Sends.trans {s t u : State} (h : Sends s t) (h' : Sends t u) : Sends s u where
  frame := (congrArg (fun x : State => { x with msgs := s.msgs, nextId := s.nextId }) h'.frame).trans h.frame
  later := h.later.trans h'.later
  kept m hm := (h'.kept m (hm.trans_le h.later)).trans (h.kept m hm)

theorem Sends.barns {s t : State} (h : Sends s t) : t.barns = s.barns := by have e := congrArg State.barns h.frame; exact e

theorem sends_addMsg (s : State) (m : Msg) (w : List (Nat × LaneSet)) : Sends s (s.addMsg m w).2 where
  frame := rfl
  later := Nat.le_succ _
  kept i hi := kv_find_put_other s.msgs s.nextId i _ (ne_of_gt hi)

theorem addMsg_sent (s : State) (m : Msg) (w : List (Nat × LaneSet)) : (s.addMsg m w).2.msgs.find? s.nextId = some ⟨m, w⟩ :=
  kv_find_put_self _ _ _

/-- The registration of a word of a set and, of an even word, of the other word of its pair where the set has it. -/
def regOfPair (ws : List Nat) (wa : Nat) : Nat := if wa % 2 = 0 ∧ ws.contains (wa + 1) then 2 else 1
/-- One message for a word, unless its pair's even word stands for it. -/
def sendReg (b : Nat) (ws : List Nat) (sid : Nat) (lanes : LaneSet) (s : State) (wa : Nat) : State :=
  if wa % 2 = 1 ∧ ws.contains (wa - 1) then s
  else match (s.barn b).words.find? wa with
    | some x => (s.addMsg (.reg b wa (regOfPair ws wa) x.hd x.ctx x.pte false) [(sid, lanes)]).2
    | none => s

/-- A registration of some words is under way for some lanes. -/
def RegSent (t : State) (b base n sid : Nat) (lanes : LaneSet) : Prop :=
  ∃ m hd ctx pte, m < t.nextId ∧ t.msgs.find? m = some ⟨.reg b base n hd ctx pte false, [(sid, lanes)]⟩

theorem RegSent.sends {s t : State} {b base n sid : Nat} {lanes : LaneSet} (h : RegSent s b base n sid lanes) (ht : Sends s t) :
    RegSent t b base n sid lanes := by
  obtain ⟨m, hd, ctx, pte, hm, hfind⟩ := h
  exact ⟨m, hd, ctx, pte, hm.trans_le ht.later, (ht.kept m hm).trans hfind⟩

section
variable {b sid : Nat} {ws : List Nat} {lanes : LaneSet}

theorem sends_sendReg (s : State) (wa : Nat) : Sends s (sendReg b ws sid lanes s wa) := by
  rw [sendReg]
  split
  · exact Sends.refl s
  · split
    · exact sends_addMsg s _ _
    · exact Sends.refl s

theorem sends_foldl_sendReg (l : List Nat) (s : State) : Sends s (l.foldl (sendReg b ws sid lanes) s) :=
  List.foldlRecOn l _ (Sends.refl s) fun t ht wa _ => ht.trans (sends_sendReg t wa)

theorem regSent_sendReg {s : State} {wa : Nat} (hw : ((s.barn b).words.find? wa).isSome) (hne : ¬(wa % 2 = 1 ∧ ws.contains (wa - 1))) :
    RegSent (sendReg b ws sid lanes s wa) b wa (regOfPair ws wa) sid lanes := by
  obtain ⟨x, hx⟩ := Option.isSome_iff_exists.mp hw
  rw [sendReg, if_neg hne, hx]
  exact ⟨s.nextId, x.hd, x.ctx, x.pte, Nat.lt_succ_self _, addMsg_sent s _ _⟩

theorem regSent_foldl {l : List Nat} {s : State} (hw : ∀ wa ∈ l, ((s.barn b).words.find? wa).isSome) {wa : Nat} (hwa : wa ∈ l)
    (hne : ¬(wa % 2 = 1 ∧ ws.contains (wa - 1))) :
    RegSent (l.foldl (sendReg b ws sid lanes) s) b wa (regOfPair ws wa) sid lanes := by
  induction l generalizing s with
  | nil => exact absurd hwa List.not_mem_nil
  | cons x l ih =>
    rw [List.foldl_cons]
    have hb : (sendReg b ws sid lanes s x).barn b = s.barn b := by rw [State.barn, (sends_sendReg s x).barns]; rfl
    rcases List.mem_cons.mp hwa with rfl | hwa
    · exact (regSent_sendReg (hw wa List.mem_cons_self) hne).sends (sends_foldl_sendReg l _)
    · exact ih (fun y hy => by rw [hb]; exact hw y (List.mem_cons_of_mem _ hy)) hwa

theorem sends_sendRegs (s : State) : Sends s (s.sendRegs b ws sid lanes) := sends_foldl_sendReg ws s

/-- Each word that becomes owned is in a registration. -/
theorem regSent_sendRegs {s : State} (hw : ∀ wa ∈ ws, ((s.barn b).words.find? wa).isSome) {wa : Nat} (hwa : wa ∈ ws) :
    ∃ base n, RegSent (s.sendRegs b ws sid lanes) b base n sid lanes ∧ base ≤ wa ∧ wa < base + n := by
  by_cases hne : wa % 2 = 1 ∧ ws.contains (wa - 1)
  · obtain ⟨hodd, hin⟩ := hne
    have hsent := regSent_foldl (ws := ws) (sid := sid) (lanes := lanes) hw (List.contains_iff_mem.mp hin) (by omega)
    have hmate : wa - 1 + 1 = wa := by omega
    have htwo : regOfPair ws (wa - 1) = 2 := if_pos ⟨by omega, by rw [hmate]; exact List.contains_iff_mem.mpr hwa⟩
    rw [htwo] at hsent
    exact ⟨wa - 1, 2, hsent, by omega, by omega⟩
  · refine ⟨wa, _, regSent_foldl hw hwa hne, Nat.le_refl _, ?_⟩
    rw [regOfPair]
    split <;> omega

end

/-! ### A phase's words registered (12 R230) -/

/-- A word that leaves its phase for its barn. -/
def phaseOwned (w : L1Word) : L1Word := { w with phase := [], owned := true, valid := w.written == 15, log := w.phaseLog }

theorem kv_find_foldl_put {α : Type} (g : α → α) {l : KV α} (hd : DistinctKeys l) (m : KV α) (k : Nat) :
    KV.find? (l.foldl (fun m e => m.put e.1 (g e.2)) m) k = ((l.find? k).map g).or (m.find? k) := by
  induction l generalizing m with
  | nil => rfl
  | cons x l ih =>
    obtain ⟨hx, hl⟩ := List.pairwise_cons.mp hd
    rw [List.foldl_cons, ih hl, kv_find_put, KV.find?]
    by_cases hk : x.1 = k
    · have hnone : KV.find? l k = none := by
        cases hf : KV.find? l k with
        | none => rfl
        | some v => exact absurd hk (hx _ (kv_mem_of_find hf))
      rw [if_pos hk, if_pos hk, hnone]; rfl
    · rw [if_neg hk, if_neg hk]

theorem kv_find_filter {α : Type} {m : KV α} (hd : DistinctKeys m) (p : α → Bool) (k : Nat) :
    KV.find? (m.filter (fun e => p e.2)) k = (m.find? k).filter p := by
  induction m with
  | nil => rfl
  | cons x m ih =>
    obtain ⟨hx, hm⟩ := List.pairwise_cons.mp hd
    rw [List.filter_cons, KV.find?]
    by_cases hk : x.1 = k
    · rw [if_pos hk]
      cases hp : p x.2 with
      | true => rw [if_pos rfl, KV.find?, if_pos hk]; exact (if_pos hp).symm
      | false =>
        have hnone : KV.find? m k = none := by
          cases hf : KV.find? m k with
          | none => rfl
          | some v => exact absurd hk (hx _ (kv_mem_of_find hf))
        rw [if_neg Bool.false_ne_true, ih hm, hnone, Option.filter_some, hp]; rfl
    · rw [if_neg hk, ← ih hm]
      split
      · rw [KV.find?, if_neg hk]
      · rfl

/-- Words of a barn changed one after another: the barn's words alone. -/
theorem foldl_putWords (b : Nat) (g : L1Word → L1Word) (l : KV L1Word) (s : State) :
    let t := l.foldl (fun (s : State) e => s.setBarn b { s.barn b with words := (s.barn b).words.put e.1 (g e.2) }) s
    { t with barns := s.barns } = s ∧
      t.barn b = { s.barn b with words := l.foldl (fun m e => m.put e.1 (g e.2)) (s.barn b).words } := by
  induction l generalizing s with
  | nil => exact ⟨rfl, rfl⟩
  | cons x l ih =>
    obtain ⟨hf, hb⟩ := ih (s.setBarn b { s.barn b with words := (s.barn b).words.put x.1 (g x.2) })
    refine ⟨congrArg (fun y : State => { y with barns := s.barns }) hf, hb.trans ?_⟩
    rw [barn_setBarn, if_pos rfl]
    rfl

/-- The state in which the words of some phases are their barn's, before their registrations are sent. -/
def phaseTaken (s : State) (b : Nat) (ids : Nat → Bool) : State :=
  ((s.barn b).words.filter (fun e => e.2.phase.any ids)).foldl
    (fun (s : State) e => s.setBarn b { s.barn b with words := (s.barn b).words.put e.1 (phaseOwned e.2) }) s

theorem registerPhases_eq (s : State) (core : Nat) (ids : Nat → Bool) (sid : Nat) (lanes : LaneSet) :
    s.registerPhases core ids sid lanes = (phaseTaken s (barnOf core) ids).sendRegs (barnOf core)
      (((s.barn (barnOf core)).words.filter (fun e => e.2.phase.any ids)).map (·.1)) sid lanes := rfl

theorem phaseTaken_frame (s : State) (b : Nat) (ids : Nat → Bool) : { phaseTaken s b ids with barns := s.barns } = s :=
  (foldl_putWords b phaseOwned _ s).1

theorem phaseTaken_barn (s : State) (b : Nat) (ids : Nat → Bool) : (phaseTaken s b ids).barn b = { s.barn b with
    words := ((s.barn b).words.filter (fun e => e.2.phase.any ids)).foldl (fun m e => m.put e.1 (phaseOwned e.2)) (s.barn b).words } :=
  (foldl_putWords b phaseOwned _ s).2

theorem phaseTaken_gather (s : State) (b : Nat) (ids : Nat → Bool) : ((phaseTaken s b ids).barn b).gather = (s.barn b).gather := by
  rw [phaseTaken_barn]

theorem phaseTaken_find {s : State} {b : Nat} (hd : DistinctKeys (s.barn b).words) (ids : Nat → Bool) (wa : Nat) :
    ((phaseTaken s b ids).barn b).words.find? wa =
      ((s.barn b).words.find? wa).map (fun w => if w.phase.any ids then phaseOwned w else w) := by
  rw [phaseTaken_barn]
  refine (kv_find_foldl_put phaseOwned (hd.filter _) _ wa).trans ?_
  rw [kv_find_filter hd (fun w => w.phase.any ids)]
  cases (s.barn b).words.find? wa with
  | none => rfl
  | some w =>
    rw [Option.filter_some, Option.map_some]
    cases w.phase.any ids <;> rfl

/-! ### A flight without accesses (12 R230) -/

theorem failedLines_nil {sh : Sheaf} (h : ∀ l < 64, (sh.lane l).failed = []) (m : LaneSet) : sh.failedLines m = [] := by
  have hnone : (lanesOf m).flatMap (fun l => (sh.lane l).failed) = [] :=
    List.flatMap_eq_nil_iff.mpr fun l hl => h l (lt_of_mem_lanesOf _ _ hl)
  rw [Sheaf.failedLines, hnone]; rfl

/-- A release with no failed line to report is open or has to wait. -/
theorem releaseState_unfailed {s : State} {sid fid : Nat} {m : LaneSet} (sc : Scope) {sh : Sheaf} (hs : s.sheaf? sid = some sh)
    (h : ∀ l < 64, (sh.lane l).failed = []) : s.releaseState sid fid m sc = .clear ∨ s.releaseState sid fid m sc = .waits := by
  rw [State.releaseState, hs]
  dsimp only
  rw [if_neg (fun hne => hne (failedLines_nil h m))]
  split
  · exact .inl rfl
  · exact .inr rfl

theorem performFlight_none {s : State} (sid : Nat) {f : Flight} (h : f.accs = []) : s.performFlight sid f = s := by
  have hgone : s.goneIn f = [] := by rw [State.goneIn, h]; rfl
  have hopen : s.pathsOpen f = true := by rw [State.pathsOpen, h]; rfl
  rw [State.performFlight, hgone, hopen, h]
  simp

theorem checkWatch_none {s : State} (sid : Nat) {f : Flight} (h : f.accs = []) (kind : Nat) : s.checkWatch sid f kind = s := by
  rw [State.checkWatch, State.watchAccs, h]
  split <;> rfl

theorem completeFlight_none {s : State} {sid : Nat} {sh : Sheaf} (hs : s.sheaf? sid = some sh) {f : Flight} (h : f.accs = [])
    (hres : resultOf f.instr = none) (hacq : acqScope f.instr = none) :
    s.completeFlight sid f = s.setSheaf sid (sh.dropFlight f.id) := by
  rw [State.completeFlight, hres, hacq]
  dsimp only
  rw [modSheaf_some _ _ _ _ hs, checkWatch_none sid h]

/-- The last step of a flight without accesses: it ends. -/
theorem finishFlight_none {s : State} {sid : Nat} {sh : Sheaf} (hs : s.sheaf? sid = some sh) {f : Flight} (hf : sh.flight? f.id = some f)
    (h : f.accs = []) (hstage : f.stage = .access) (hres : resultOf f.instr = none) (hacq : acqScope f.instr = none) :
    s.finishFlight sid f.id = s.setSheaf sid (sh.dropFlight f.id) := by
  rw [State.finishFlight, hs, Option.bind_some, hf]
  dsimp only
  rw [if_pos ⟨hstage, by rw [h]; rfl⟩, completeFlight_none hs h hres hacq]

theorem setSheaf_setSheaf (s : State) (sid : Nat) (sh sh' : Sheaf) : (s.setSheaf sid sh).setSheaf sid sh' = s.setSheaf sid sh' := by
  simp only [State.setSheaf, kv_put_put]

/-- A flight whose release is done. -/
def released (f : Flight) : Flight := { f with stage := .access }

/-- Flights alone differ of the sheaf, and nothing else of the state. -/
def FlightsOnly (s t : State) (sid : Nat) (sh : Sheaf) : Prop := ∃ fs, t = s.setSheaf sid { sh with flights := fs }

/-- The flight of a PHEND waits for the registrations of its phase's words, or ends where nothing is owed. -/
theorem advanceMem_phend {s : State} {sid : Nat} {sh : Sheaf} {f : Flight} {g : Pred} {a b : Reg} {off : BitVec 15}
    (hi : f.instr = .phend g a b off) (hstage : f.stage = .releasing) (h : f.accs = []) (hfl : sh.flights = [f])
    (hg : (s.barn (barnOf sh.core)).gather = []) (hfail : ∀ l < 64, (sh.lane l).failed = []) :
    FlightsOnly s ((s.setSheaf sid sh).advanceMem sid f.id) sid sh := by
  have hs : (s.setSheaf sid sh).sheaf? sid = some sh := (sheaf_setSheaf _ _ _ _).trans (if_pos rfl)
  have horder : (s.setSheaf sid sh).orderState sid f.id f.instr f.actors = (s.setSheaf sid sh).releaseState sid f.id f.actors .sy := by
    rw [hi]; rfl
  have hres : resultOf f.instr = none ∧ acqScope f.instr = none ∧ relScope f.instr = some .sy ∧ publishes f.instr = true := by
    rw [hi]; exact ⟨rfl, rfl, rfl, rfl⟩
  obtain ⟨hres, hacq, hrel, hpub⟩ := hres
  have hbarn : (s.setSheaf sid sh).publishUpTo (barnOf sh.core) .sy = s.setSheaf sid sh :=
    publishUpTo_of_gather_nil (s := s.setSheaf sid sh) hg _
  rw [State.advanceMem, hs, Option.bind_some, flight_of_only hfl rfl]
  dsimp only [Option.map_some]
  rw [hstage, horder]
  rcases releaseState_unfailed .sy hs hfail with hr | hr
  · have hflight : (sh.modFlight f.id (fun _ => released f)).flight? f.id = some (released f) := by
      have honly : (sh.modFlight f.id (fun _ => released f)).flights = [released f] := by
        rw [Sheaf.modFlight, hfl, List.map_cons, List.map_nil, if_pos rfl]
      exact flight_of_only honly rfl
    rw [hr]
    dsimp only
    rw [hrel]
    dsimp only
    rw [hpub, if_pos rfl, hbarn, modSheaf_setSheaf]
    have hend := finishFlight_none (s := s.setSheaf sid (sh.modFlight f.id (fun _ => released f))) (f := released f)
      ((sheaf_setSheaf _ _ _ _).trans (if_pos rfl)) hflight h rfl hres hacq
    have hperf := performFlight_none (s := s.setSheaf sid (sh.modFlight f.id (fun _ => released f))) (f := released f) sid h
    exact ⟨_, ((congrArg (State.finishFlight · sid f.id) hperf).trans hend).trans (setSheaf_setSheaf _ _ _ _)⟩
  · rw [hr]; exact ⟨sh.flights, rfl⟩

end Sys2Proof.Laws
end

section
namespace Sys2Proof.Laws
open Sys2Proof Sys2Proof.Machine Sys2Proof.Safety

/-! ### PHEND (12 R230) -/

/-- The state in which the words of a phase are the barn's and their registrations under way. -/
def phaseClosed (s : State) (k : Ctx) (p : Phase) : State := s.registerPhases k.sh.core (fun id => id == p.id) k.sid k.path
/-- The issuing sheaf without a phase. -/
def closedSheaf (k : Ctx) (p : Phase) : Sheaf := { k.sh with phases := k.sh.phases.filter (fun q => q.id != p.id) }

theorem any_id (l : List Nat) (id : Nat) : l.any (fun x => x == id) = true ↔ id ∈ l := by
  rw [List.any_eq_true]
  exact ⟨fun ⟨x, hx, he⟩ => beq_iff_eq.mp he ▸ hx, fun h => ⟨id, h, beq_self_eq_true id⟩⟩

theorem phaseOwned_eq {w : L1Word} {id : Nat} (h : id ∈ w.phase) :
    phaseOwned w = { w with phase := [], owned := true, valid := w.written == 15, log := [(0, w.written, w.bytes)] } := by
  have hlog : w.phaseLog = [(0, w.written, w.bytes)] := if_neg (List.ne_nil_of_mem h)
  rw [phaseOwned, hlog]

theorem startMem_release {i : Instr} {s t : State} {k : Ctx} {id : Nat} (hrel : (relScope i).isSome = true)
    (h : s.addFlight k i .releasing false [] = (id, t)) : startMem i s k [] = { st := t.advanceMem k.sid id } := by
  rw [startMem, if_pos hrel, h]

section
variable {s : State} {k : Ctx} (p : Phase)

theorem phaseClosed_sends : Sends (phaseTaken s (barnOf k.sh.core) (fun id => id == p.id)) (phaseClosed s k p) := by
  rw [phaseClosed, registerPhases_eq]; exact sends_sendRegs _

/-- Only barns, messages and names differ. -/
theorem phaseClosed_frame : { phaseClosed s k p with barns := s.barns, msgs := s.msgs, nextId := s.nextId } = s :=
  (congrArg (fun x : State => { x with barns := s.barns, msgs := s.msgs, nextId := s.nextId }) (phaseClosed_sends p).frame).trans
    (congrArg (fun x : State => { x with msgs := s.msgs, nextId := s.nextId }) (phaseTaken_frame s _ _))

theorem phaseClosed_barn (b : Nat) :
    (phaseClosed s k p).barn b = (phaseTaken s (barnOf k.sh.core) (fun id => id == p.id)).barn b := by
  rw [State.barn, (phaseClosed_sends p).barns]; rfl

theorem phaseClosed_find (hd : DistinctKeys (s.barn (barnOf k.sh.core)).words) (wa : Nat) :
    ((phaseClosed s k p).barn (barnOf k.sh.core)).words.find? wa = ((s.barn (barnOf k.sh.core)).words.find? wa).map (fun w =>
      if p.id ∈ w.phase then { w with phase := [], owned := true, valid := w.written == 15, log := [(0, w.written, w.bytes)] }
      else w) := by
  rw [phaseClosed_barn, phaseTaken_find hd]
  refine congrArg (Option.map · _) (funext fun w => ?_)
  by_cases hw : p.id ∈ w.phase
  · rw [if_pos hw, if_pos ((any_id _ _).mpr hw), phaseOwned_eq hw]
  · rw [if_neg hw, if_neg (fun h => hw ((any_id _ _).mp h))]

theorem phaseClosed_registers (hd : DistinctKeys (s.barn (barnOf k.sh.core)).words) {wa : Nat} {w : L1Word}
    (hw : (s.barn (barnOf k.sh.core)).words.find? wa = some w) (hp : p.id ∈ w.phase) :
    ∃ base n, RegSent (phaseClosed s k p) (barnOf k.sh.core) base n k.sid k.path ∧ base ≤ wa ∧ wa < base + n := by
  rw [phaseClosed, registerPhases_eq]
  refine regSent_sendRegs (fun x hx => ?_) (List.mem_map.mpr ⟨(wa, w), List.mem_filter.mpr ⟨kv_mem_of_find hw, (any_id _ _).mpr hp⟩, rfl⟩)
  obtain ⟨e, he, rfl⟩ := List.mem_map.mp hx
  rw [phaseTaken_find hd, hd.find_of_mem (List.mem_filter.mp he).1]
  rfl

/-- The flight of a PHEND, and the state that its attempt finds. -/
def phendFlight (i : Instr) (s : State) (k : Ctx) (p : Phase) : Flight := k.flight i (phaseClosed s k p).nextId .releasing false []
def phendStart (s : State) (k : Ctx) (p : Phase) : State := { phaseClosed s k p with nextId := (phaseClosed s k p).nextId + 1 }
/-- The sheaf that has closed the phase, with its PHEND under way. -/
def phendSheaf (i : Instr) (s : State) (k : Ctx) (p : Phase) : Sheaf := { closedSheaf k p with flights := [phendFlight i s k p] }

theorem phendBody_of {g : Pred} {a b : Reg} {off : BitVec 15} {l : Nat} (hs : s.sheaf? k.sid = some k.sh) (hfl : k.sh.flights = [])
    (hl : (lanesOf k.e).head? = some l) (ha : phaseAlign k a b off = none) {p : Phase}
    (hp : k.sh.phases.find? (fun q => q.va == k.addr a off l && q.len == (Spec.B k b l).toNat) = some p) :
    let i : Instr := .phend g a b off
    phendBody i s k a b off =
      .ok { st := ((phendStart s k p).setSheaf k.sid (phendSheaf i s k p)).advanceMem k.sid (phendFlight i s k p).id } := by
  have hsheaf : (phaseClosed s k p).sheaf? k.sid = some k.sh := by
    have h := congrArg State.sheaves (phaseClosed_frame (s := s) (k := k) p)
    exact (congrArg (KV.find? · k.sid) h).trans hs
  have hclosed : (phaseClosed s k p).modSheaf k.sid (fun sh => { sh with phases := sh.phases.filter (fun q => q.id != p.id) }) =
      (phaseClosed s k p).setSheaf k.sid (closedSheaf k p) := modSheaf_some _ _ _ _ hsheaf
  have hadd : ((phaseClosed s k p).setSheaf k.sid (closedSheaf k p)).addFlight k (.phend g a b off) .releasing false [] =
      ((phaseClosed s k p).nextId, (phendStart s k p).setSheaf k.sid (phendSheaf (.phend g a b off) s k p)) := by
    have hnone : closedSheaf k p = { closedSheaf k p with flights := [] } := congrArg (fun l => { closedSheaf k p with flights := l }) hfl
    rw [hnone, State.addFlight]
    exact congrArg (Prod.mk _) (modSheaf_setSheaf (phendStart s k p) k.sid _ _)
  change phendBody (.phend g a b off) s k a b off = _
  rw [phendBody, ha, head_laneRanges hl]
  dsimp only
  rw [hp]
  exact congrArg Except.ok ((congrArg (startMem (.phend g a b off) · k []) hclosed).trans (startMem_release rfl hadd))

end

/-! ### FENCE (14 R251) -/

/-- The invalidation of a FENCE that acquires. -/
def fenceAcquired (i : Instr) (s : State) (sid : Nat) (m : LaneSet) : State :=
  match acqScope i with
  | some sc => s.acquire sid m sc
  | none => s

/-- A FENCE stands for the lanes of E. -/
def fencePath (k : Ctx) : Ctx := { k with path := k.e }
/-- The flight of a FENCE. -/
def fenceFlight (i : Instr) (s : State) (k : Ctx) : Flight := (fencePath k).flight i s.nextId .waiting true []
/-- The state in which a FENCE's flight stands in its sheaf's list. -/
def fenceStart (i : Instr) (s : State) (k : Ctx) : State := withFlight s (fencePath k) (fenceFlight i s k)
/-- The state in which nothing keeps a FENCE. -/
def fenced (i : Instr) (s : State) (k : Ctx) : State :=
  (fenceAcquired i (fenceStart i s k) k.sid k.e).modSheaf k.sid (endedWait (fenceFlight i s k))

theorem scope_max_sy (c : Scope) : Scope.sy.max c = .sy := by cases c <;> rfl

theorem foldl_max_sy (sh : Sheaf) (l : List Nat) : l.foldl (fun (k : Scope) i => k.max (sh.lane i).pend) .sy = .sy := by
  induction l with
  | nil => rfl
  | cons i l ih => rw [List.foldl_cons, scope_max_sy, ih]

/-- An acquire changes lanes and the words of one L1. -/
theorem acquire_eq {s : State} {sid : Nat} {sh : Sheaf} (h : s.sheaf? sid = some sh) (m : LaneSet) (sc : Scope) :
    s.acquire sid m sc = (s.inva (barnOf sh.core) ((lanesOf m).foldl (fun k i => k.max (sh.lane i).pend) sc)).setSheaf sid
      (sh.modLanes m (fun _ l => { l with pend := .sh })) := by
  rw [State.acquire, h]

section
variable {s : State} {k : Ctx} {g : Pred} {order : Order} {scope : Scope}

theorem fenceStart_sheaf (i : Instr) : (fenceStart i s k).sheaf? k.sid = some (flightSheaf (fencePath k) (fenceFlight i s k)) :=
  sheaf_withFlight s (fencePath k) _

theorem fenceStart_flight (i : Instr) (hq : Spec.Quiet s k) :
    (flightSheaf (fencePath k) (fenceFlight i s k)).flight? s.nextId = some (fenceFlight i s k) :=
  flight_of_only (congrArg (· ++ [fenceFlight i s k]) hq.flights) rfl

theorem fenceStart_before (i : Instr) (hq : Spec.Quiet s k) :
    (flightSheaf (fencePath k) (fenceFlight i s k)).before s.nextId = [] := by
  have hfl : (flightSheaf (fencePath k) (fenceFlight i s k)).flights = [fenceFlight i s k] :=
    congrArg (· ++ [fenceFlight i s k]) hq.flights
  rw [Sheaf.before, hfl]
  exact List.filter_cons_of_neg (by rw [decide_eq_true_eq]; exact lt_irrefl s.nextId)

/-- With nothing open a FENCE completes at once. -/
theorem advanceFence_clear (i : Instr) (hq : Spec.Quiet s k) :
    (fenceStart i s k).advanceFence k.sid s.nextId = fenced i s k := by
  have hbefore := fenceStart_before i hq
  have howes : s.owes k.sid (k.e ||| k.e) = false := by rw [BitVec.or_self]; exact owes_false_of_or hq.owes
  have hrel (sc : Scope) : (fenceStart i s k).releaseState k.sid s.nextId (fenceFlight i s k).e sc = .clear :=
    orderState_clear (i := .fence .t .rel sc) (k := fencePath k) (s := s) nofun (fenceStart_sheaf i) rfl rfl hbefore
      rfl rfl (fun _ => ⟨hq.flights, howes, hq.gather, hq.failed⟩)
  have hpub (sc : Scope) : (fenceStart i s k).publishUpTo (barnOf (flightSheaf (fencePath k) (fenceFlight i s k)).core) sc =
      fenceStart i s k := publishUpTo_of_gather_nil (s := fenceStart i s k) hq.gather sc
  have hgo (t : State) : t.moveOn k.sid (fenceFlight i s k) (fenceFlight i s k).path =
      t.modSheaf k.sid (endedWait (fenceFlight i s k)) := moveOn_all _ _ _
  rw [State.advanceFence, fenceStart_sheaf, Option.bind_some, fenceStart_flight _ hq]
  dsimp only [Option.map_some]
  rw [hbefore, hrel]
  dsimp only
  rw [hpub, hgo]
  split
  · rfl
  · rfl

/-- The sheaf of a FENCE once its acquire is done. -/
def acquiredSheaf (i : Instr) (s : State) (k : Ctx) : Sheaf :=
  match acqScope i with
  | some _ => (flightSheaf (fencePath k) (fenceFlight i s k)).modLanes k.e (fun _ l => { l with pend := .sh })
  | none => flightSheaf (fencePath k) (fenceFlight i s k)

theorem acquiredSheaf_frame (i : Instr) (s : State) (k : Ctx) : { acquiredSheaf i s k with lanes := k.sh.lanes } =
    flightSheaf (fencePath k) (fenceFlight i s k) := by
  rw [acquiredSheaf]
  split
  · exact modLanes_frame _ _ _
  · rfl

theorem lane_acquiredSheaf (i : Instr) (s : State) (k : Ctx) (l : Nat) : (acquiredSheaf i s k).lane l =
    if (acqScope i).isSome = true ∧ k.e.getLsbD l = true then { k.sh.lane l with pend := .sh } else k.sh.lane l := by
  rw [acquiredSheaf]
  split
  · next sc hsc =>
    rw [lane_modLanes, hsc]
    by_cases hl : k.e.getLsbD l = true
    · rw [if_pos hl, if_pos ⟨rfl, hl⟩]; rfl
    · rw [if_neg hl, if_neg fun h => hl h.2]; rfl
  · next hsc => rw [hsc, if_neg fun h => Bool.false_ne_true h.1]; rfl

theorem fenceAcquired_sheaf (i : Instr) : (fenceAcquired i (fenceStart i s k) k.sid k.e).sheaf? k.sid = some (acquiredSheaf i s k) := by
  rw [fenceAcquired, acquiredSheaf]
  split
  · exact (acquire_effect (fenceStart_sheaf i) _ _).1
  · exact fenceStart_sheaf i

/-- The state that a FENCE leaves: memory and messages stay. -/
theorem fenced_effect (i : Instr) : (fenced i s k).sheaf? k.sid = some (endedWait (fenceFlight i s k) (acquiredSheaf i s k)) ∧
    (fenced i s k).mem = s.mem ∧ (fenced i s k).msgs = s.msgs ∧ (fenced i s k).barns = (fenceAcquired i (fenceStart i s k) k.sid k.e).barns := by
  have hkeep : (fenceAcquired i (fenceStart i s k) k.sid k.e).mem = s.mem ∧ (fenceAcquired i (fenceStart i s k) k.sid k.e).msgs = s.msgs := by
    rw [fenceAcquired]
    split
    · rw [acquire_eq (fenceStart_sheaf i)]; exact ⟨rfl, rfl⟩
    · exact ⟨rfl, rfl⟩
  rw [fenced, modSheaf_some _ _ _ _ (fenceAcquired_sheaf i)]
  exact ⟨(sheaf_setSheaf _ _ _ _).trans (if_pos rfl), hkeep.1, hkeep.2, rfl⟩

theorem endedWait_acquired_frame (i : Instr) (hq : Spec.Quiet s k) :
    { endedWait (fenceFlight i s k) (acquiredSheaf i s k) with lanes := k.sh.lanes } = k.sh := by
  have hend := congrArg (fun y : Sheaf => { y with lanes := k.sh.lanes }) (endedWait_frame (fenceFlight i s k) (acquiredSheaf i s k))
  have hdrop := congrArg (Sheaf.dropFlight · (fenceFlight i s k).id) (acquiredSheaf_frame i s k)
  exact (hend.trans hdrop).trans (dropFlight_flightSheaf (k := fencePath k) hq.flights _)

theorem lane_endedWait (f : Flight) (sh : Sheaf) (l : Nat) (pc : DWord) :
    { (endedWait f sh).lane l with pc := pc } = { sh.lane l with pc := pc } := by
  have hlane (y : Sheaf) : (y.dropFlight f.id).lane l = y.lane l := rfl
  rw [endedWait, hlane]
  split
  · rw [lane_modLanes]
    split
    · split
      · rfl
      · rfl
    · rfl
  · rfl

/-- A FENCE with nothing open keeps no lane. -/
theorem fenceBody_of (h : s.sheaf? k.sid = some k.sh) (hq : Spec.Quiet s k) (hrun : k.sh.frozen = false) (i : Instr) :
    fenceBody i s k = .ok { st := fenced i s k } := by
  have hframe := endedWait_acquired_frame (s := s) i hq
  have hflight : (endedWait (fenceFlight i s k) (acquiredSheaf i s k)).flight? s.nextId = none := by
    have hfl := (congrArg Sheaf.flights hframe).trans hq.flights
    rw [Sheaf.flight?]
    exact congrArg (List.find? _) hfl
  have hfrozen : (endedWait (fenceFlight i s k) (acquiredSheaf i s k)).frozen = false := (congrArg Sheaf.frozen hframe).trans hrun
  have hadd : s.addFlight (fencePath k) i .waiting true [] = (s.nextId, fenceStart i s k) := 
    addFlight_eq_withFlight (k := fencePath k) h i .waiting true []
  rw [fenceBody, ← fencePath, hadd]
  dsimp only
  rw [advanceFence_clear i hq, (fenced_effect i).1, Option.bind_some, hflight]
  simp only [hfrozen, Bool.or_self, Bool.false_and, Bool.false_eq_true, if_false]

/-- An acquire for the whole system keeps owned and phase words only. -/
theorem fenced_words {i : Instr} (hacq : acqScope i = some .sy) {e : Nat × L1Word}
    (he : e ∈ ((fenced i s k).barn (barnOf k.sh.core)).words) : e.2.owned = true ∨ e.2.phase ≠ [] := by
  have hb : (fenced i s k).barn (barnOf k.sh.core) = ((fenceStart i s k).barn (barnOf k.sh.core)).inva .sy := by
    rw [State.barn, (fenced_effect i).2.2.2, fenceAcquired, hacq]
    dsimp only
    rw [acquire_eq (fenceStart_sheaf i), foldl_max_sy]
    exact (barn_setBarn _ _ _ _).trans (if_pos rfl)
  rw [hb, inva_eq] at he
  simpa [Spec.kept] using (List.mem_filter.mp he).2

end

end Sys2Proof.Laws

namespace Sys2Proof.Proofs
open Sys2Proof Sys2Proof.Machine Sys2Proof.Safety Sys2Proof.Laws

/-- Settles O27: PHBEG and PHEND change the sheaf's list of phases, the second after the batch of registrations; a FENCE with nothing
open is an acquire of its lanes. -/
theorem phasesAndFences : Obligations.PhasesAndFences := by
  unfold Obligations.PhasesAndFences
  refine ⟨⟨fun g a b off s k l h hl ha => ?_, fun g a b off s k l p h hl ha hp hq hsorted => ?_⟩, fun g order scope s k h hq => ?_⟩
  · have hsh := issues_sheaf h
    have hbody := phbegBody_of hsh hl (phaseAlign_none ha)
    have hzero : (Spec.B k b l).toNat = 0 ↔ Spec.B k b l = 0 := BitVec.toNat_inj (y := 0)
    have hleaves := issue_leaves (.phbeg g a b off) s _ k (fun k => phbegBody s k a b off) h hbody
    by_cases hc : Spec.B k b l = 0 ∨ 2 ≤ k.sh.phases.length
    · rw [if_pos (hc.imp_left hzero.mpr)] at hleaves
      exact ⟨s, k.sh, ⟨_, rfl, hleaves⟩, hsh, rfl, rfl, (if_pos hc).symm⟩
    · rw [if_neg fun h => hc (h.imp_left hzero.mp)] at hleaves
      exact ⟨_, _, ⟨_, rfl, hleaves⟩, (sheaf_setSheaf _ _ _ _).trans (if_pos rfl), rfl, rfl, (if_neg hc).symm⟩
  · have hd := distinctKeys_of_sorted hsorted
    have hbody := phendBody_of (g := g) (issues_sheaf h) hq.flights hl (phaseAlign_none ha) hp
    obtain ⟨fs, hu⟩ := advanceMem_phend (s := phendStart s k p) (sh := phendSheaf (.phend g a b off) s k p)
      (f := phendFlight (.phend g a b off) s k p) (sid := k.sid) rfl rfl rfl rfl
      ((congrArg Barn.gather (phaseClosed_barn p _)).trans ((phaseTaken_gather s _ _).trans hq.gather)) hq.failed
    dsimp only at hbody
    rw [hu] at hbody
    refine ⟨_, _, ⟨_, rfl, issue_leaves (.phend g a b off) s _ k (fun k => phendBody (.phend g a b off) s k a b off) h hbody⟩,
      (sheaf_setSheaf _ _ _ _).trans (if_pos rfl), ?_, rfl, phaseClosed_find p hd, fun wa w hw hwp => ?_⟩
    · have hm := congrArg State.mem (phaseClosed_frame (s := s) (k := k) p)
      exact hm
    · obtain ⟨base, n, ⟨m, hd', ctx, pte, -, hm⟩, hlo, hhi⟩ := phaseClosed_registers p hd hw hwp
      exact ⟨m, base, n, hd', ctx, pte, hm, hlo, hhi⟩
  · obtain ⟨hsheaf, hmem, hmsgs, -⟩ := fenced_effect (s := s) (k := k) (.fence g order scope)
    have hacq : (acqScope (.fence g order scope)).isSome = acquires order := by
      rw [acqScope]
      cases acquires order <;> rfl
    refine ⟨_, _, ⟨_, rfl, issue_leaves _ s _ k (fun k => fenceBody (.fence g order scope) s k) h
      (fenceBody_of (issues_sheaf h) hq h.runs _)⟩, hsheaf, hmem, hmsgs, endedWait_acquired_frame _ hq, fun l _ => ?_, fun ha hs e he => ?_⟩
    · simp only [lane_endedWait, lane_acquiredSheaf, hacq]
      split
      · rfl
      · rfl
    · subst hs
      exact fenced_words (i := .fence g order .sy) (if_pos ha) he

end Sys2Proof.Proofs
end

section
/-! ## Loads that the L1 serves (12 R213, R226) -/

namespace Sys2Proof.Laws
open Sys2Proof Sys2Proof.Machine Sys2Proof.Safety

/-! ### Registers written by a load -/

theorem writeGroup_frame (d : Reg) (i : Nat) (ws : List Word) : ∀ (sh : Sheaf) (n : Nat),
    { sh.writeGroup d i n ws with regs := sh.regs, s := sh.s } = sh := by
  induction ws with
  | nil => exact fun sh n => rfl
  | cons w ws ih =>
    intro sh n
    have h := congrArg (fun y : Sheaf => { y with regs := sh.regs, s := sh.s }) (ih (sh.writeReg d i n w) (n + 1))
    refine Eq.trans h ?_
    cases d <;> rfl

theorem writeVals_frame (d : Reg) (vals : List (Nat × List Word)) (sh : Sheaf) :
    { writeVals d vals sh with regs := sh.regs, s := sh.s } = sh := by
  induction vals generalizing sh with
  | nil => rfl
  | cons v vals ih =>
    exact (congrArg (fun y : Sheaf => { y with regs := sh.regs, s := sh.s }) (ih (sh.writeGroup d v.1 0 v.2))).trans
      (writeGroup_frame d v.1 v.2 sh 0)

/-! ### The bytes of a hit -/

theorem length_hit {b : Barn} {pa n : Nat} {acq : Bool} {bs : List Byte} {c : Scope} (h : b.hit pa n acq = some (bs, c)) :
    bs.length = n := by
  induction n generalizing bs c with
  | zero => rw [← (Prod.mk.inj (Option.some.inj h)).1]; rfl
  | succ n ih =>
    have hsucc : b.hit pa (n + 1) acq = match b.hit pa n acq, b.words.find? ((pa + n) / 4) with
      | some (l, c), some w =>
        if (w.valid || w.written.getLsbD ((pa + n) % 4)) && (!acq || w.owned || w.phase != []) then
          some (l ++ [wordByte w.bytes ((pa + n) % 4)], c.max w.cls)
        else none
      | _, _ => none := by
      rw [Barn.hit, List.range_succ, List.foldl_append]
      rfl
    rw [hsucc] at h
    split at h
    · next l c' w hl _ =>
      split at h
      · rw [← (Prod.mk.inj (Option.some.inj h)).1, List.length_append, ih hl]; rfl
      · cases h
    · cases h

/-- The bytes that an access finds in a barn's L1. -/
def servedBytes (b : Barn) (n : Nat) (acq : Bool) (x : Spec.Xa) : List Byte := ((b.hit x.2.2.1 n acq).map (·.1)).getD []

theorem servedBytes_eq {b : Barn} {n : Nat} {acq : Bool} {x : Spec.Xa} (h : (b.hit x.2.2.1 n acq).isSome) :
    (b.hit x.2.2.1 n acq).map (·.1) = some (servedBytes b n acq x) ∧ (servedBytes b n acq x).length = n := by
  obtain ⟨⟨bs, c⟩, hbs⟩ := Option.isSome_iff_exists.mp h
  rw [servedBytes, hbs]
  exact ⟨rfl, length_hit hbs⟩

/-! ### A load's accesses are performed -/

/-- The access of a load, before it is performed and after. -/
def loadAcc (n : Nat) (x : Spec.Xa) : Machine.Acc := ⟨x.1, x.2.1, x.2.2.1, n, x.2.2.2.1, x.2.2.2.2.1, x.2.2.2.2.2, [], .queued⟩
def loadDone (n : Nat) (x : Spec.Xa) (bs : List Byte) : Machine.Acc := { loadAcc n x with st := .done bs }

theorem performLoad_served {s : State} {sid core n : Nat} {f : Flight} {a : Machine.Acc} {bs : List Byte} {c : Scope}
    (hg : (s.barn (barnOf core)).gather = []) (hh : isHost a.pa = false) (ho : a.homeOnly = false)
    (hhit : (s.barn (barnOf core)).hit a.pa a.n (acqScope f.instr).isSome = some (bs, c)) :
    s.performLoad sid core f n a =
      ((s.setAcc sid f.id n (.done bs)).markPerformed sid f.id).modSheaf sid (fun sh => sh.raisePend (accLanes f a) c) := by
  have hpub : s.publishAt (barnOf core) a.pa a.n = s := by rw [State.publishAt, hg]; rfl
  simp only [State.performLoad, hpub, hh, ho, Bool.false_eq_true, if_false, hhit]

section
variable {k : Ctx} {base : State} {fl : Flight} {xs : List Spec.Xa} {n : Nat} {v : Spec.Xa → List Byte}

/-- A load's flight performs its accesses, where its L1 serves each of them. -/
theorem performFlight_loads (hload : isLoad fl.instr = true) (hst : isStore fl.instr = false) (hacc : fl.accs = xs.map (loadAcc n))
    (hloc : Spec.Local base xs) (hg : (base.barn (barnOf k.sh.core)).gather = [])
    (hhit : ∀ x ∈ xs, ((base.barn (barnOf k.sh.core)).hit x.2.2.1 n (acqScope fl.instr).isSome).map (·.1) = some (v x))
    {sh : Sheaf} (hsh : Reading k fl fl.accs sh) :
    ∃ sh', (base.setSheaf k.sid sh).performFlight k.sid fl = base.setSheaf k.sid sh' ∧
      Reading k fl (xs.map (fun x => loadDone n x (v x))) sh' := by
  have hhost (x : Spec.Xa) (hx : x ∈ xs) : isHost x.2.2.1 = false := decide_eq_false (by have := (hloc x hx).1; omega)
  have hpeer (x : Spec.Xa) (hx : x ∈ xs) : isPeer x.2.2.1 = false := decide_eq_false (by have := (hloc x hx).1; omega)
  have hgone : (base.setSheaf k.sid sh).goneIn fl = [] := by
    refine List.filter_eq_nil_iff.mpr fun a ha => ?_
    rw [hacc] at ha
    obtain ⟨x, hx, rfl⟩ := List.mem_map.mp ha
    simp [State.peerGone, loadAcc, hpeer x hx]
  rw [State.performFlight, hgone, hst]
  simp only [List.isEmpty_nil, Bool.not_true, Bool.and_false, Bool.false_and, Bool.false_eq_true, if_false]
  rw [hacc]
  refine foldl_reads (zs := xs) (P := Reading k fl) (rd := fun x => loadDone n x (v x)) ?_ xs [] sh
    (fun _ h => h) (by rw [List.map_nil, List.nil_append, ← hacc]; exact hsh)
  intro pre x post sh hx hP
  obtain ⟨hframe, ⟨p, hp⟩, -⟩ := id hP
  have hcore : sh.core = k.sh.core := by have h := congrArg Sheaf.core hframe; exact h
  have hhere : (base.setSheaf k.sid sh).sheaf? k.sid = some sh := by rw [sheaf_setSheaf, if_pos rfl]
  have hflight : sh.flight? fl.id = some _ := flight_of_only hp rfl
  have hplace : (readFlight fl (pre.map (fun x => loadDone n x (v x)) ++ loadAcc n x :: post.map (loadAcc n)) p).accs[pre.length]? =
      some (loadAcc n x) := by
    rw [readFlight, List.getElem?_append_right (by simp)]; simp
  have hbehind (m : LaneSet) (pa n : Nat) : (base.setSheaf k.sid sh).behind k.sid fl.id m pa n = false := by
    rw [State.behind, hhere]; simp [Sheaf.before, hp, readFlight]
  have hreach : (base.setSheaf k.sid sh).reachable (loadAcc n x) = true := by
    have hd : (base.setSheaf k.sid sh).dieWaits (loadAcc n x).hd = false := (hloc x hx).2.2
    rw [State.reachable, hd]; simp
  have hstuck (pa n : Nat) : (base.setSheaf k.sid sh).gatherStuck (barnOf sh.core) pa n = false := by
    have hb : (base.setSheaf k.sid sh).barn (barnOf sh.core) = base.barn (barnOf k.sh.core) := by rw [hcore]; rfl
    rw [State.gatherStuck, hb, hg]; rfl
  have hopen : (loadAcc n x).st.open = true := rfl
  obtain ⟨⟨bs, c⟩, hbs, hv⟩ := Option.map_eq_some_iff.mp (hhit x hx)
  have hread := hP.read bs (accLanes fl (loadAcc n x)) c
  rw [List.length_map] at hread
  rw [← hv]
  refine ⟨_, ?_, hread⟩
  simp only [hhere, Option.bind_some, hflight, Option.map_some, hplace, hbehind, hreach, hstuck, hopen, hload,
    Bool.not_true, Bool.or_self, Bool.true_or, Bool.false_eq_true, if_false, if_true]
  refine (performLoad_served (f := readFlight fl _ p) (a := loadAcc n x) (bs := bs) (c := c) ?_ (hhost x hx) (hloc x hx).2.1 ?_).trans ?_
  · rw [hcore]; exact hg
  · rw [hcore]; exact hbs
  · simp only [State.setAcc, State.markPerformed, modSheaf_setSheaf]
    rfl

end

/-! ### The end of a load -/

/-- A sheaf's own buffered bytes: none outside merge mode. -/
theorem mergeOverlay_none {s : State} {sh : Sheaf} (h : ∀ st, s.stookOf sh = some st → st.merge = []) (a : Machine.Acc) (bs : List Byte) :
    s.mergeOverlay sh a bs = bs := by
  rw [State.mergeOverlay]
  split
  · rfl
  · next st hst => rw [h st hst]; rfl

/-- The bytes that an access has come to, and the results that a load's accesses write: a uniform access writes for lane 0. -/
def doneBytes (a : Machine.Acc) : List Byte :=
  match a.st with
  | .done bs => bs
  | _ => []
def accVals (sx : Bool) (accs : List Machine.Acc) : List (Nat × List Word) :=
  accs.map (fun a => (if a.lane = 64 then 0 else a.lane, loadWords sx (doneBytes a).length (doneBytes a)))

/-- The result of one access, written to the sheaf. -/
def writeResult (s : State) (d : Reg) (sx : Bool) (sh : Sheaf) (a : Machine.Acc) : Sheaf :=
  match a.st with
  | .done bs => sh.writeGroup d (if a.lane = 64 then 0 else a.lane) 0 (loadWords sx bs.length (s.mergeOverlay sh a bs))
  | _ => sh

theorem foldl_results {s : State} {d : Reg} {sx : Bool} {uid : Nat} (hm : ∀ st, s.stook? uid = some st → st.merge = [])
    (accs : List Machine.Acc) (hdone : ∀ a ∈ accs, ∃ bs, a.st = .done bs) {sh : Sheaf} (hu : sh.uid = uid) :
    accs.foldl (writeResult s d sx) sh = writeVals d (accVals sx accs) sh := by
  induction accs generalizing sh with
  | nil => rfl
  | cons a accs ih =>
    obtain ⟨bs, hbs⟩ := hdone a List.mem_cons_self
    have hone : writeResult s d sx sh a = sh.writeGroup d (if a.lane = 64 then 0 else a.lane) 0 (loadWords sx (doneBytes a).length (doneBytes a)) := by
      have hover : s.mergeOverlay sh a bs = bs := mergeOverlay_none (fun st hst => hm st (hu ▸ hst)) _ _
      rw [writeResult, doneBytes, hbs]
      dsimp only
      rw [hover]
    have huid : (writeResult s d sx sh a).uid = uid := by
      have h := congrArg Sheaf.uid (writeGroup_frame d (if a.lane = 64 then 0 else a.lane) (loadWords sx (doneBytes a).length (doneBytes a)) sh 0)
      rw [hone]
      exact Eq.trans h hu
    rw [List.foldl_cons, ih (fun y hy => hdone y (List.mem_cons_of_mem _ hy)) huid, hone]
    rfl

/-- An acquire, if any. -/
def acquiredBy (o : Option Scope) (s : State) (sid : Nat) (m : LaneSet) : State :=
  match o with
  | some sc => s.acquire sid m sc
  | none => s

theorem acquiredBy_effect (o : Option Scope) {s : State} {sid : Nat} {sh : Sheaf} (h : s.sheaf? sid = some sh) (m : LaneSet) :
    ∃ y, (acquiredBy o s sid m).sheaf? sid = some y ∧ { y with lanes := sh.lanes } = sh ∧ (acquiredBy o s sid m).mem = s.mem ∧
      (o = none → y = sh) := by
  cases o with
  | none => exact ⟨sh, h, rfl, rfl, fun _ => rfl⟩
  | some sc =>
    obtain ⟨hsheaf, hmem, -⟩ := acquire_effect h m sc
    exact ⟨_, hsheaf, modLanes_frame _ _ _, hmem, nofun⟩

theorem completeFlight_eq {s : State} {sid : Nat} {f : Flight} {d : Reg} {sx : Bool} (hres : resultOf f.instr = some (d, sx)) :
    s.completeFlight sid f = ((acquiredBy (acqScope f.instr) ((s.modSheaf sid (fun sh => f.accs.foldl (writeResult s d sx) sh)).touchRegs
      sid f.instr.dsts) sid f.actors).modSheaf sid (fun sh => sh.dropFlight f.id)).checkWatch sid f (watchKind f.instr) := by
  rw [State.completeFlight, hres]
  rfl

/-- A load whose accesses have all been performed writes its results and ends. -/
theorem completeFlight_loads {s : State} {sid : Nat} {sh : Sheaf} {f : Flight} {d : Reg} {sx : Bool} (hs : s.sheaf? sid = some sh)
    (hres : resultOf f.instr = some (d, sx)) (hdone : ∀ a ∈ f.accs, ∃ bs, a.st = .done bs)
    (hm : ∀ st, s.stookOf sh = some st → st.merge = []) (hw : sh.watch = []) :
    ∃ shu, (s.completeFlight sid f).sheaf? sid = some shu ∧ (s.completeFlight sid f).mem = s.mem ∧
      { shu with lanes := sh.lanes } = { (writeVals d (accVals sx f.accs) sh).dropFlight f.id with lanes := sh.lanes } ∧
      (acqScope f.instr = none → shu = (writeVals d (accVals sx f.accs) sh).dropFlight f.id) ∧
      (acqScope f.instr = none → (s.completeFlight sid f).msgs = s.msgs) := by
  have hwrite : s.modSheaf sid (fun sh => f.accs.foldl (writeResult s d sx) sh) = s.setSheaf sid (writeVals d (accVals sx f.accs) sh) := by
    rw [modSheaf_some _ _ _ _ hs, foldl_results hm f.accs hdone rfl]
  have hframe := writeVals_frame d (accVals sx f.accs) sh
  generalize writeVals d (accVals sx f.accs) sh = out at hwrite hframe ⊢
  obtain ⟨hsheaf, hmem⟩ := touchRegs_setSheaf_frame s sid f.instr.dsts out
  have hmsgs : ((s.setSheaf sid out).touchRegs sid f.instr.dsts).msgs = s.msgs := by rw [touchRegs_frame]; rfl
  rw [completeFlight_eq hres, hwrite]
  generalize (s.setSheaf sid out).touchRegs sid f.instr.dsts = t at hsheaf hmem hmsgs ⊢
  obtain ⟨y, hy, hyf, hymem, hnone⟩ := acquiredBy_effect (acqScope f.instr) hsheaf f.actors
  have hmsgs' : acqScope f.instr = none → (acquiredBy (acqScope f.instr) t sid f.actors).msgs = s.msgs := fun h => by
    rw [h]; exact hmsgs
  generalize acquiredBy (acqScope f.instr) t sid f.actors = u at hy hymem hmsgs' ⊢
  have hwatch : (y.dropFlight f.id).watch = [] := by
    have h1 := congrArg Sheaf.watch hyf
    have h2 := congrArg Sheaf.watch hframe
    exact (Eq.trans h1 h2).trans hw
  have hlanes : out.lanes = sh.lanes := by have h := congrArg Sheaf.lanes hframe; exact h
  have hend : (u.setSheaf sid (y.dropFlight f.id)).sheaf? sid = some (y.dropFlight f.id) := (sheaf_setSheaf _ _ _ _).trans (if_pos rfl)
  rw [modSheaf_some _ _ _ _ hy, checkWatch_unused hend hwatch]
  refine ⟨_, hend, hymem.trans hmem, ?_, fun h => by rw [hnone h], hmsgs'⟩
  rw [← hlanes]
  exact congrArg (Sheaf.dropFlight · f.id) hyf

end Sys2Proof.Laws
end

section
namespace Sys2Proof.Laws
open Sys2Proof Sys2Proof.Machine Sys2Proof.Safety

/-! ### LDG (12 R226) -/

theorem misaligned_none {k : Ctx} {as : List (Nat × DWord)} {n : Nat} (h : Spec.Aligned as n) : misaligned k as n = none := by
  have hnone : as.filter (fun e => e.2.toNat % n != 0) = [] :=
    List.filter_eq_nil_iff.mpr fun e he => by rw [h e he]; exact Bool.false_ne_true
  rw [misaligned, hnone]

theorem loadBody_ok {i : Instr} {s s1 : State} {k : Ctx} {as : List (Nat × DWord)} {size : Size} {xs : List Spec.Xa}
    (ha : Spec.Aligned as size.bytes) (hx : s.xlateLanes (some k.sh.core) k.ctx .read as = (.ok xs, s1)) :
    loadBody i s k as size = .ok (startMem i s1 k (xs.map (loadAcc size.bytes))) := by
  rw [loadBody, misaligned_none ha]
  dsimp only
  rw [hx]
  rfl

theorem finishFlight_done {s : State} {sid id : Nat} {sh : Sheaf} {f : Flight} (hs : s.sheaf? sid = some sh)
    (hf : sh.flight? id = some f) (hstage : f.stage = .access) (hdone : allDone f = true) :
    s.finishFlight sid id = s.completeFlight sid f := by
  rw [State.finishFlight, hs, Option.bind_some, hf]
  exact if_pos ⟨hstage, hdone⟩

/-- The flight that starts an instruction that releases nothing. -/
def accessFlight (i : Instr) (s : State) (k : Ctx) (accs : List Machine.Acc) : Flight := k.flight i s.nextId .access false accs

/-- An instruction that releases nothing performs what it can, and ends if that was all. -/
theorem startMem_access {i : Instr} {s1 : State} {k : Ctx} (hs : s1.sheaf? k.sid = some k.sh) (hrel : relScope i = none)
    (hfl : k.sh.flights = []) (accs : List Machine.Acc) : startMem i s1 k accs =
      { st := ((withFlight s1 k (accessFlight i s1 k accs)).performFlight k.sid (accessFlight i s1 k accs)).finishFlight k.sid s1.nextId } := by
  have hfind : (flightSheaf k (accessFlight i s1 k accs)).flight? s1.nextId = some (accessFlight i s1 k accs) :=
    flight_of_only (congrArg (· ++ [accessFlight i s1 k accs]) hfl) rfl
  rw [startMem, hrel, Option.isSome_none, if_neg Bool.false_ne_true, addFlight_eq_withFlight hs, ← accessFlight]
  refine congrArg (fun t => ({ st := t } : Done)) ?_
  rw [State.advanceMem, sheaf_withFlight, Option.bind_some, hfind]
  rfl

section
variable {i : Instr} {s1 : State} {k : Ctx} {xs : List Spec.Xa} {n : Nat} {d : Reg} {sx : Bool}

/-- The values that a load's accesses find in the L1. -/
def l1Values (i : Instr) (s1 : State) (k : Ctx) (n : Nat) : Spec.Xa → List Byte :=
  servedBytes (s1.barn (barnOf k.sh.core)) n (acqScope i).isSome
/-- A load's flight with all its accesses performed. -/
def loadedFlight (i : Instr) (s1 : State) (k : Ctx) (n : Nat) (xs : List Spec.Xa) (p : Bool) : Flight :=
  readFlight (accessFlight i s1 k (xs.map (loadAcc n))) (xs.map (fun x => loadDone n x (l1Values i s1 k n x))) p

/-- The sheaf of a load whose accesses have been performed: one flight and the classes that its lanes have read differ. -/
structure LoadedSheaf (i : Instr) (s1 : State) (k : Ctx) (n : Nat) (xs : List Spec.Xa) (sh : Sheaf) : Prop where
  frame : { sh with lanes := k.sh.lanes, flights := k.sh.flights } = k.sh
  flights : ∃ p, sh.flights = [loadedFlight i s1 k n xs p]

theorem LoadedSheaf.uid {sh : Sheaf} (h : LoadedSheaf i s1 k n xs sh) : sh.uid = k.sh.uid := by
  have e := congrArg Sheaf.uid h.frame; exact e
theorem LoadedSheaf.watch {sh : Sheaf} (h : LoadedSheaf i s1 k n xs sh) : sh.watch = k.sh.watch := by
  have e := congrArg Sheaf.watch h.frame; exact e
theorem LoadedSheaf.regs {sh : Sheaf} (h : LoadedSheaf i s1 k n xs sh) : sh.regs = k.sh.regs := by
  have e := congrArg Sheaf.regs h.frame; exact e
theorem LoadedSheaf.sregs {sh : Sheaf} (h : LoadedSheaf i s1 k n xs sh) : sh.s = k.sh.s := by
  have e := congrArg Sheaf.s h.frame; exact e

/-- The results of the accesses of a load. -/
def loadVals (sx : Bool) (n : Nat) (v : Spec.Xa → List Byte) (xs : List Spec.Xa) : List (Nat × List Word) :=
  xs.map (fun x => (if x.1 = 64 then 0 else x.1, loadWords sx n (v x)))

theorem accVals_loads (sx : Bool) {n : Nat} {v : Spec.Xa → List Byte} {xs : List Spec.Xa} (hv : ∀ x ∈ xs, (v x).length = n) :
    accVals sx (xs.map (fun x => loadDone n x (v x))) = loadVals sx n v xs := by
  rw [accVals, List.map_map, loadVals]
  refine List.map_congr_left fun x hx => ?_
  have hone : loadWords sx (v x).length (v x) = loadWords sx n (v x) := by rw [hv x hx]
  exact congrArg (Prod.mk _) hone

/-- What a load's end leaves of its sheaf but for the lanes. -/
def loadEnd (d : Reg) (sx : Bool) (i : Instr) (s1 : State) (k : Ctx) (n : Nat) (xs : List Spec.Xa) (sh : Sheaf) : Sheaf :=
  (writeVals d (loadVals sx n (l1Values i s1 k n) xs) sh).dropFlight s1.nextId

theorem loadEnd_frame {sh : Sheaf} (h : LoadedSheaf i s1 k n xs sh) (hfl : k.sh.flights = []) :
    { loadEnd d sx i s1 k n xs sh with lanes := k.sh.lanes, regs := k.sh.regs, s := k.sh.s } = k.sh := by
  obtain ⟨hframe, p, hp⟩ := id h
  have hout := writeVals_frame d (loadVals sx n (l1Values i s1 k n) xs) sh
  have hflights : (loadEnd d sx i s1 k n xs sh).flights = k.sh.flights := by
    have h1 := congrArg Sheaf.flights hout
    have h1 : (writeVals d (loadVals sx n (l1Values i s1 k n) xs) sh).flights = [loadedFlight i s1 k n xs p] := Eq.trans h1 hp
    have hnone : [loadedFlight i s1 k n xs p].filter (fun x => x.id != s1.nextId) = [] :=
      List.filter_cons_of_neg fun h => bne_iff_ne.mp h rfl
    rw [loadEnd, Sheaf.dropFlight, h1, hfl]
    exact hnone
  have hall : { loadEnd d sx i s1 k n xs sh with lanes := k.sh.lanes, regs := k.sh.regs, s := k.sh.s } =
      { loadEnd d sx i s1 k n xs sh with lanes := k.sh.lanes, regs := k.sh.regs, s := k.sh.s, flights := k.sh.flights } := by
    rw [← hflights]
  have h2 := congrArg (fun y : Sheaf => { y with lanes := k.sh.lanes, regs := k.sh.regs, s := k.sh.s, flights := k.sh.flights }) hout
  have h3 := congrArg (fun y : Sheaf => { y with regs := k.sh.regs, s := k.sh.s }) hframe
  exact (hall.trans h2).trans h3

/-- A load that the L1 serves whole is performed and ends at once. -/
theorem startMem_load (hload : isLoad i = true) (hst : isStore i = false) (hrel : relScope i = none) (hres : resultOf i = some (d, sx))
    (hs : s1.sheaf? k.sid = some k.sh) (hloc : Spec.Local s1 xs) (hidle : Spec.Idle s1 k false)
    (hhit : ∀ x ∈ xs, ((s1.barn (barnOf k.sh.core)).hit x.2.2.1 n (acqScope i).isSome).isSome) :
    ∃ u shu sh, startMem i s1 k (xs.map (loadAcc n)) = { st := u } ∧ u.sheaf? k.sid = some shu ∧ u.mem = s1.mem ∧
      LoadedSheaf i s1 k n xs sh ∧ { shu with lanes := sh.lanes } = { loadEnd d sx i s1 k n xs sh with lanes := sh.lanes } := by
  obtain ⟨sh, hperf, hsh⟩ := performFlight_loads (k := k) (base := { s1 with nextId := s1.nextId + 1 }) (n := n) (v := l1Values i s1 k n)
    (fl := accessFlight i s1 k (xs.map (loadAcc n))) (sh := flightSheaf k (accessFlight i s1 k (xs.map (loadAcc n)))) hload hst rfl hloc
    hidle.gather (fun x hx => (servedBytes_eq (hhit x hx)).1)
    ⟨rfl, ⟨false, congrArg (· ++ [accessFlight i s1 k (xs.map (loadAcc n))]) hidle.flights⟩, fun _ => rfl⟩
  obtain ⟨p, hp⟩ := hsh.flights
  have hl : LoadedSheaf i s1 k n xs sh := ⟨hsh.frame, p, hp⟩
  have hhere : (({ s1 with nextId := s1.nextId + 1 } : State).setSheaf k.sid sh).sheaf? k.sid = some sh :=
    (sheaf_setSheaf _ _ _ _).trans (if_pos rfl)
  have hdone : allDone (loadedFlight i s1 k n xs p) = true := List.all_eq_true.mpr fun a ha => by
    obtain ⟨x, -, rfl⟩ := List.mem_map.mp ha
    rfl
  have hmerge (st : Stook) (h : (({ s1 with nextId := s1.nextId + 1 } : State).setSheaf k.sid sh).stookOf sh = some st) : st.merge = [] :=
    hidle.merge st (by rw [State.stookOf, ← hl.uid]; exact h)
  have hall (a : Machine.Acc) (ha : a ∈ (loadedFlight i s1 k n xs p).accs) : ∃ bs, a.st = .done bs := by
    obtain ⟨x, -, rfl⟩ := List.mem_map.mp ha
    exact ⟨_, rfl⟩
  have hvals : accVals sx (loadedFlight i s1 k n xs p).accs = loadVals sx n (l1Values i s1 k n) xs :=
    accVals_loads sx fun x hx => (servedBytes_eq (hhit x hx)).2
  obtain ⟨shu, hshu, hmem, hout, -⟩ := completeFlight_loads (d := d) (sx := sx) hhere
    (f := loadedFlight i s1 k n xs p) hres hall hmerge (hl.watch.trans hidle.watch)
  rw [hvals] at hout
  refine ⟨_, shu, sh, (startMem_access hs hrel hidle.flights _).trans ?_, hshu, hmem, hl, hout⟩
  have hfinish := finishFlight_done hhere (flight_of_only hp rfl) rfl hdone
  exact congrArg (fun t => ({ st := t } : Done)) ((congrArg (State.finishFlight · k.sid s1.nextId) hperf).trans hfinish)

end

/-! ### The results of a load -/

/-- What the accesses give, by lane. -/
def bytesByLane (xs : List Spec.Xa) (v : Spec.Xa → List Byte) (l : Nat) : List Byte := ((xs.find? (fun x => x.1 == l)).map v).getD []

theorem bytesByLane_eq {xs : List Spec.Xa} (hn : (xs.map (·.1)).Nodup) (v : Spec.Xa → List Byte) {x : Spec.Xa} (hx : x ∈ xs) :
    bytesByLane xs v x.1 = v x := by
  induction xs with
  | nil => cases hx
  | cons y xs ih =>
    obtain ⟨hy, hn⟩ := List.nodup_cons.mp hn
    rw [bytesByLane, List.find?_cons]
    rcases List.mem_cons.mp hx with rfl | hx
    · rw [beq_self_eq_true]; rfl
    · have hne : (y.1 == x.1) = false := beq_eq_false_iff_ne.mpr fun h => hy (List.mem_map.mpr ⟨x, hx, h.symm⟩)
      rw [hne]
      exact ih hn hx

/-- The lanes of E write what their accesses gave. -/
theorem loadVals_lanes {xs : List Spec.Xa} {m : LaneSet} (h : xs.map (·.1) = lanesOf m) (sx : Bool) (n : Nat) (v : Spec.Xa → List Byte) :
    loadVals sx n v xs = (lanesOf m).map (fun l => (l, loadWords sx n (bytesByLane xs v l))) := by
  have hn : (xs.map (·.1)).Nodup := h ▸ nodup_lanesOf m
  rw [← h, List.map_map, loadVals]
  refine List.map_congr_left fun x hx => ?_
  have hlt : x.1 < 64 := lt_of_mem_lanesOf m _ (h ▸ List.mem_map.mpr ⟨x, hx, rfl⟩)
  rw [if_neg (by omega), Function.comp_apply, bytesByLane_eq hn v hx]

/-- A load of the lanes of E: an instruction, its register, and whether it extends signed. -/
theorem laneLoad_kind {i : Instr} {g : Pred} {d a : Reg} {size : Size} {scope : Scope} {acq : Bool} {off : BitVec 15} {sx : Bool}
    (hi : i = .ldg g d a size scope acq off ∧ sx = false ∨ i = .ldgSigned g d a size scope acq off ∧ sx = true) (hw : i.wf = true) :
    isLoad i = true ∧ isStore i = false ∧ relScope i = none ∧ resultOf i = some (d, sx) ∧ (acqScope i).isSome = acq ∧
      d.isLaneDst = true ∧ ∀ s, exec i s = issue i s (fun k => loadBody i s k (laneAddrs k a off) size) := by
  have hd : d.isLaneDst = true := by
    rcases hi with ⟨rfl, -⟩ | ⟨rfl, -⟩
    · obtain ⟨h, -⟩ := Bool.and_eq_true_iff.mp hw
      obtain ⟨h, -⟩ := Bool.and_eq_true_iff.mp h
      exact (Bool.and_eq_true_iff.mp h).1
    · obtain ⟨h, -⟩ := Bool.and_eq_true_iff.mp hw
      obtain ⟨h, -⟩ := Bool.and_eq_true_iff.mp h
      exact (Bool.and_eq_true_iff.mp h).1
  rcases hi with ⟨rfl, rfl⟩ | ⟨rfl, rfl⟩
  · exact ⟨rfl, rfl, rfl, rfl, by cases acq <;> rfl, hd, fun s => rfl⟩
  · exact ⟨rfl, rfl, rfl, rfl, by cases acq <;> rfl, hd, fun s => rfl⟩

section
variable {i : Instr} {s1 : State} {k : Ctx} {xs : List Spec.Xa} {d : Reg} {sx : Bool} {size : Size} {sh : Sheaf}

/-- The registers after a load of the lanes of E. -/
theorem loadEnd_regs (hd : d.isLaneDst = true) (h : LoadedSheaf i s1 k size.bytes xs sh) (hl : xs.map (·.1) = lanesOf k.e)
    (hhit : ∀ x ∈ xs, ((s1.barn (barnOf k.sh.core)).hit x.2.2.1 size.bytes (acqScope i).isSome).isSome) :
    RegsAfter k (loadEnd d sx i s1 k size.bytes xs sh) d
      (fun l => Spec.loaded sx size.bytes (natOfBytes (bytesByLane xs (l1Values i s1 k size.bytes) l))) := by
  refine regsAfter_of_regOf fun r l hlt => ?_
  have hvals := loadVals_lanes hl sx size.bytes (l1Values i s1 k size.bytes)
  have hreg : (loadEnd d sx i s1 k size.bytes xs sh).vreg r l =
      (writeVals d (loadVals sx size.bytes (l1Values i s1 k size.bytes) xs) sh).vreg r l := rfl
  have hold : sh.vreg r l = k.sh.vreg r l := congrArg (fun x : KV Word => x.getD (64 * r + l) 0) h.regs
  have hfst : (loadVals sx size.bytes (l1Values i s1 k size.bytes) xs).map (·.1) = lanesOf k.e := by
    rw [hvals, List.map_map]; exact List.map_id _
  rw [hreg, vreg_writeVals hd (fun v hv => lt_of_mem_lanesOf k.e _ (hfst ▸ List.mem_map.mpr ⟨v, hv, rfl⟩)) (hfst ▸ nodup_lanesOf _) sh r hlt,
    hvals, lookup_map_lanes, hold]
  by_cases he : k.e.getLsbD l = true
  · have hin : l ∈ lanesOf k.e := (mem_lanesOf _ _).mpr he
    obtain ⟨x, hx, rfl⟩ := List.mem_map.mp (hl ▸ hin)
    have hbytes : bytesByLane xs (l1Values i s1 k size.bytes) x.1 = l1Values i s1 k size.bytes x :=
      bytesByLane_eq (hl ▸ nodup_lanesOf _) _ hx
    rw [if_pos hin, if_pos he, loadWords_eq_loaded sx size (by rw [hbytes]; exact (servedBytes_eq (hhit x hx)).2)]
  · rw [if_neg (fun h => he ((mem_lanesOf _ _).mp h)), if_neg he]

/-- A load of the lanes of E leaves the uniform registers. -/
theorem loadEnd_lanes_frame (hd : d.isLaneDst = true) (h : LoadedSheaf i s1 k size.bytes xs sh) (hfl : k.sh.flights = []) :
    { loadEnd d sx i s1 k size.bytes xs sh with lanes := k.sh.lanes, regs := k.sh.regs } = k.sh := by
  have hs : (loadEnd d sx i s1 k size.bytes xs sh).s = k.sh.s := by
    have h1 := congrArg Sheaf.s (lanes_writeGroups d hd (loadVals sx size.bytes (l1Values i s1 k size.bytes) xs) sh)
    exact Eq.trans h1 h.sregs
  have hf := loadEnd_frame (d := d) (sx := sx) h hfl
  rw [← hs] at hf
  exact hf

end

/-- The one access of a uniform load. -/
theorem loadVals_uniform (sx : Bool) (n : Nat) (v : Spec.Xa → List Byte) {x : Spec.Xa} (h : x.1 = 64) :
    loadVals sx n v [x] = [(0, loadWords sx n (v x))] := by
  rw [loadVals, List.map_cons, if_pos h]; rfl

theorem regs_writeGroup_sreg (sh : Sheaf) (d : SReg) (ws : List Word) : (sh.writeGroup d.reg 0 0 ws).regs = sh.regs := by
  have e := congrArg Sheaf.regs (writeGroup_sreg_frame sh d ws); exact e

theorem length_loaded (sx : Bool) (size : Size) (v : Nat) : (Spec.loaded sx size.bytes v).length = size.regs := by
  cases size <;> rfl

/-- The end of a uniform load: one group written. -/
theorem loadEnd_uniform {i : Instr} {s1 : State} {k : Ctx} {size : Size} {x : Spec.Xa} (hx : x.1 = 64) (d : Reg) (sx : Bool) (sh : Sheaf)
    (hhit : ((s1.barn (barnOf k.sh.core)).hit x.2.2.1 size.bytes (acqScope i).isSome).isSome) :
    loadEnd d sx i s1 k size.bytes [x] sh =
      (sh.writeGroup d 0 0 (Spec.loaded sx size.bytes (natOfBytes (l1Values i s1 k size.bytes x)))).dropFlight s1.nextId := by
  have hwords : loadWords sx size.bytes (l1Values i s1 k size.bytes x) = _ := loadWords_eq_loaded sx size (servedBytes_eq hhit).2
  rw [loadEnd, loadVals_uniform sx _ _ hx, hwords]
  rfl

section
variable {i : Instr} {s1 : State} {k : Ctx} {size : Size} {x : Spec.Xa} (hx : x.1 = 64) (d : SReg) (sx : Bool) {sh : Sheaf}
  (h : LoadedSheaf i s1 k size.bytes [x] sh) (hhit : ((s1.barn (barnOf k.sh.core)).hit x.2.2.1 size.bytes (acqScope i).isSome).isSome)
include hx h hhit

/-- A uniform load leaves the lanes' registers. -/
theorem loadEnd_uniform_frame (hfl : k.sh.flights = []) :
    { loadEnd d.reg sx i s1 k size.bytes [x] sh with lanes := k.sh.lanes, s := k.sh.s } = k.sh := by
  have hf := loadEnd_frame (d := d.reg) (sx := sx) h hfl
  have hregs : (loadEnd d.reg sx i s1 k size.bytes [x] sh).regs = k.sh.regs := by
    rw [loadEnd_uniform hx d.reg sx sh hhit]
    refine Eq.trans ?_ h.regs
    exact regs_writeGroup_sreg sh d _
  rw [← hregs] at hf
  exact hf

/-- A uniform load writes one group of uniform registers. -/
theorem loadEnd_uniform_sregs (r : Nat) : (loadEnd d.reg sx i s1 k size.bytes [x] sh).sreg r = match d with
    | .s n => if n.val ≤ r ∧ r < n.val + size.regs then
        (Spec.loaded sx size.bytes (natOfBytes (l1Values i s1 k size.bytes x))).getD (r - n.val) 0 else k.sh.sreg r
    | .z => k.sh.sreg r := by
  have hold : sh.sreg r = k.sh.sreg r := congrArg (fun y : KV Word => y.getD r 0) h.sregs
  have hafter := writeGroup_sregsAfter sh d (Spec.loaded sx size.bytes (natOfBytes (l1Values i s1 k size.bytes x))) r
  rw [length_loaded, hold] at hafter
  rw [loadEnd_uniform hx d.reg sx sh hhit]
  refine Eq.trans hafter ?_
  cases d <;> rfl

end

end Sys2Proof.Laws

namespace Sys2Proof.Proofs
open Sys2Proof Sys2Proof.Machine Sys2Proof.Safety Sys2Proof.Laws

/-- Settles O22: each access of the load is performed in the L1, then the flight writes its results and ends. -/
theorem loadsThatHit : Obligations.LoadsThatHit := by
  unfold Obligations.LoadsThatHit
  refine ⟨fun i g d a size scope acq off sx s k xs s1 hi hw h ha hx hloc hidle hhit => ?_,
    fun g d a size scope acq off sx s k xs s1 hw h ha hx hloc hidle hhit => ?_⟩
  · obtain ⟨hload, hst, hrel, hres, hacq, hd, hexec⟩ := laneLoad_kind hi hw
    have hrest := rests_of_xlate hidle.flights h.runs (rests_of_issues h) hx
    have hl : xs.map (·.1) = lanesOf k.e := by
      have hl := congrArg (List.map Prod.fst) (xlateLanes_ok hx).2
      rw [laneAddrs, List.map_map, List.map_map] at hl
      exact hl.trans (List.map_id _)
    rw [← hacq] at hhit ⊢
    obtain ⟨u, shu, sh, hstart, hshu, hmem, hsh, hout⟩ := startMem_load hload hst hrel hres hrest.here hloc hidle hhit
    have hbody := (loadBody_ok ha hx).trans (congrArg Except.ok hstart)
    have hregs : shu.regs = (loadEnd d sx i s1 k size.bytes xs sh).regs := by have e := congrArg Sheaf.regs hout; exact e
    refine ⟨u, shu, bytesByLane xs (l1Values i s1 k size.bytes),
      ⟨_, hexec s, issue_leaves i s u k (fun k => loadBody i s k (laneAddrs k a off) size) h hbody⟩, hshu, hmem, ?_,
      fun r l hlt => ?_, fun x hxs => ?_⟩
    · exact (congrArg (fun y : Sheaf => { y with lanes := k.sh.lanes, regs := k.sh.regs }) hout).trans
        (loadEnd_lanes_frame hd hsh hidle.flights)
    · exact (congrArg (fun y : KV Word => y.getD (64 * r + l) 0) hregs).trans (loadEnd_regs hd hsh hl hhit r l hlt)
    · rw [bytesByLane_eq (hl ▸ nodup_lanesOf _) _ hxs]
      exact (servedBytes_eq (hhit x hxs)).1
  · have hrest := rests_of_xlate hidle.flights h.runs (rests_of_issues h) hx
    have hacq : (acqScope (.ldgU g sx d a size scope acq off)).isSome = acq := by cases acq <;> rfl
    obtain ⟨x, rfl⟩ : ∃ x, xs = [x] := List.length_eq_one_iff.mp (by
      have hlen := congrArg List.length (xlateLanes_ok hx).2
      rw [List.length_map] at hlen; exact hlen)
    have hlane : x.1 = 64 := (congrArg Prod.fst (List.cons.inj (xlateLanes_ok hx).2).1)
    have hhit : ∀ y ∈ [x], ((s1.barn (barnOf k.sh.core)).hit y.2.2.1 size.bytes
        (acqScope (.ldgU g sx d a size scope acq off)).isSome).isSome := by rw [hacq]; exact hhit
    obtain ⟨u, shu, sh, hstart, hshu, hmem, hsh, hout⟩ := startMem_load (i := .ldgU g sx d a size scope acq off) rfl rfl rfl rfl hrest.here
      hloc hidle hhit
    have hbody := (loadBody_ok (i := .ldgU g sx d a size scope acq off) ha hx).trans (congrArg Except.ok hstart)
    have hhitx := hhit x List.mem_cons_self
    refine ⟨u, shu, l1Values (.ldgU g sx d a size scope acq off) s1 k size.bytes x,
      ⟨_, rfl, issue_leaves _ s u k (fun k => loadBody (.ldgU g sx d a size scope acq off) s k (uniAddr k a off) size) h hbody⟩, hshu, hmem, ?_,
      fun r => ?_, fun y hy => ?_⟩
    · exact (congrArg (fun y : Sheaf => { y with lanes := k.sh.lanes, s := k.sh.s }) hout).trans
        (loadEnd_uniform_frame hlane d sx hsh hhitx hidle.flights)
    · have hs : shu.sreg r = (loadEnd d.reg sx (.ldgU g sx d a size scope acq off) s1 k size.bytes [x] sh).sreg r := by
        have e := congrArg (fun y : Sheaf => y.sreg r) hout; exact e
      refine (hs.trans (loadEnd_uniform_sregs hlane d sx hsh hhitx r)).trans ?_
      cases d <;> rfl
    · have hserved := (servedBytes_eq hhitx).1
      rw [List.mem_singleton.mp hy, l1Values]
      rw [hacq] at hserved ⊢
      exact hserved

end Sys2Proof.Proofs
end

section
/-! ## Updates at the home (12 R212, 13 R232, R239) -/

namespace Sys2Proof.Laws
open Sys2Proof Sys2Proof.Machine Sys2Proof.Safety

/-! ### Words without owners, as the home holds them -/

theorem wordByte_append4 (a b c d : Byte) : wordByte (d ++ c ++ b ++ a) 0 = a ∧ wordByte (d ++ c ++ b ++ a) 1 = b ∧
    wordByte (d ++ c ++ b ++ a) 2 = c ∧ wordByte (d ++ c ++ b ++ a) 3 = d := by
  have hbyte (w : Word) (x : Byte) (j : Nat) (h : ∀ i < 8, w.getLsbD (8 * j + i) = x.getLsbD i) : wordByte w j = x :=
    BitVec.eq_of_getLsbD_eq fun i hi => by rw [wordByte, BitVec.getLsbD_extractLsb', decide_eq_true hi, Bool.true_and, h i hi]
  refine ⟨hbyte _ _ _ fun i hi => ?_, hbyte _ _ _ fun i hi => ?_, hbyte _ _ _ fun i hi => ?_, hbyte _ _ _ fun i hi => ?_⟩
  all_goals
    simp only [BitVec.getLsbD_append, Nat.mul_zero, Nat.zero_add, Nat.mul_one, Nat.reduceMul]
    grind

theorem wordByte_homeWord (s : State) (wa : Nat) {j : Nat} (hj : j < 4) : wordByte (s.homeWord wa) j = memByte s.mem (4 * wa + j) := by
  have hword : s.homeWord wa = memByte s.mem (4 * wa + 3) ++ memByte s.mem (4 * wa + 2) ++ memByte s.mem (4 * wa + 1) ++ memByte s.mem (4 * wa) := rfl
  obtain ⟨h0, h1, h2, h3⟩ := wordByte_append4 (memByte s.mem (4 * wa)) (memByte s.mem (4 * wa + 1)) (memByte s.mem (4 * wa + 2))
    (memByte s.mem (4 * wa + 3))
  rw [hword]
  interval_cases j
  · exact h0
  · exact h1
  · exact h2
  · exact h3

theorem mem_wordsOf {pa n wa : Nat} : wa ∈ wordsOf pa n ↔ n ≠ 0 ∧ pa / 4 ≤ wa ∧ wa ≤ (pa + n - 1) / 4 := by
  rw [wordsOf]
  split
  · next h => simp [h]
  · next h =>
    rw [List.mem_map]
    constructor
    · rintro ⟨j, hj, rfl⟩
      have := List.mem_range.mp hj
      omega
    · rintro ⟨-, hlo, hhi⟩
      exact ⟨wa - pa / 4, List.mem_range.mpr (by omega), by omega⟩

theorem cohRead_eq_map (s : State) (n : Nat) : ∀ a, s.cohRead a n = (List.range n).map (fun j => wordByte (s.cohWord ((a + j) / 4)) ((a + j) % 4)) := by
  induction n with
  | zero => exact fun a => rfl
  | succ n ih =>
    intro a
    rw [State.cohRead, ih, List.range_succ_eq_map, List.map_cons, List.map_map]
    refine congrArg (_ :: ·) (List.map_congr_left fun j _ => ?_)
    rw [Function.comp_apply, Nat.succ_eq_add_one, Nat.add_assoc, Nat.add_comm 1 j]

/-- The coherent bytes of words without owners are the home's. -/
theorem cohRead_unowned {s : State} {pa n : Nat} (h : Spec.Unowned s pa n) :
    s.cohRead pa n = (List.range n).map (fun j => memByte s.mem (pa + j)) := by
  rw [cohRead_eq_map]
  refine List.map_congr_left fun j hj => ?_
  have hj := List.mem_range.mp hj
  have hword : s.cohWord ((pa + j) / 4) = s.homeWord ((pa + j) / 4) := by
    rw [State.cohWord, h _ (mem_wordsOf.mpr ⟨by omega, by omega, by omega⟩)]
  rw [hword, wordByte_homeWord s _ (Nat.mod_lt _ (by decide))]
  exact congrArg (memByte s.mem) (by omega)

/-! ### Marks that lie elsewhere (16 R285) -/

/-- A line stays as it is, its bytes, what its home keeps of it and all owners among it, and L1s do. -/
structure Elsewhere (line : Nat) (s t : State) : Prop where
  work : HomeWork s t
  barns : t.barns = s.barns
  home : t.home line = s.home line
  owners : ∀ l, (t.home l).owners = (s.home l).owners
  bytes : ∀ a, a / 128 = line → memByte t.mem a = memByte s.mem a

theorem Elsewhere.refl (line : Nat) (s : State) : Elsewhere line s s := ⟨HomeWork.refl s, rfl, rfl, fun _ => rfl, fun _ _ => rfl⟩

theorem Elsewhere.trans {line : Nat} {s t u : State} (h : Elsewhere line s t) (h' : Elsewhere line t u) : Elsewhere line s u :=
  ⟨h.work.trans h'.work, h'.barns.trans h.barns, h'.home.trans h.home, fun l => (h'.owners l).trans (h.owners l),
    fun a ha => (h'.bytes a ha).trans (h.bytes a ha)⟩

theorem Elsewhere.ownerOf {line : Nat} {s t : State} (h : Elsewhere line s t) (wa : Nat) : t.ownerOf wa = s.ownerOf wa := by
  rw [State.ownerOf, State.ownerOf, h.owners]

/-- A change at the home that adds no owner keeps the marks of a write elsewhere. -/
theorem HomeWork.marksElsewhere {s t : State} (h : HomeWork s t) {ctx pte pa line : Nat} (he : Spec.MarksElsewhere s ctx pte pa line) :
    Spec.MarksElsewhere t ctx pte pa line := by
  obtain ⟨hpte, e, hcache, hmap⟩ := he
  refine ⟨fun h0 => ?_, e, by rw [h.trans_eq]; exact hcache, fun off hoff h0 => ?_⟩
  · obtain ⟨hne, ho⟩ := hpte h0
    rw [h.place_eq]
    exact ⟨hne, h.unowned ho⟩
  · rw [h.place_eq] at hoff
    obtain ⟨hne, ho⟩ := hmap off hoff h0
    dsimp only
    rw [h.place_eq]
    exact ⟨hne, h.unowned ho⟩

theorem elsewhere_notify (line : Nat) (s : State) (wa : Nat) : Elsewhere line s (s.notify wa) :=
  ⟨homeWork_notify s wa, notify_barns s wa, notify_home s wa line, fun l => by rw [notify_home],
    fun a _ => by rw [notify_mem]⟩

theorem elsewhere_setHome {line : Nat} (s : State) {l : Nat} (hl : l ≠ line) {h : HomeLine} (ho : h.owners = (s.home l).owners) :
    Elsewhere line s (s.setHome l h) := by
  refine ⟨homeWork_setHome_owners s l ho, rfl, ?_, fun x => ?_, fun _ _ => rfl⟩
  · rw [home_setHome, if_neg hl]
  · rw [home_setHome]
    split
    · next e => rw [← e]; exact ho
    · rfl

theorem elsewhere_setHomeWord {line : Nat} (s : State) {wa : Nat} (hl : wa / 32 ≠ line) (w : Word) : Elsewhere line s (s.setHomeWord wa w) := by
  refine ⟨homeWork_setHomeWord s wa w, rfl, rfl, fun _ => rfl, fun a ha => ?_⟩
  refine (memByte_memWrite _ _ _ _).trans (if_neg ?_)
  rw [List.length_cons, List.length_cons, List.length_cons, List.length_singleton]
  omega

/-- One bit marked in a word of another line that nobody owns. -/
theorem elsewhere_orByteM {line : Nat} {s : State} (mark : State → L1Word → Nat → State) {a : Nat} (b : Byte) (d : Nat)
    (hne : (s.place a).canon / 128 ≠ line) (ho : s.ownerOf ((s.place a).canon / 4) = none) : Elsewhere line s (s.orByteM mark a b d) := by
  have hback : s.takeBack mark ((s.place a).canon / 4) = s := by rw [State.takeBack, ho]
  have hl : (s.place a).canon / 4 / 32 ≠ line := by omega
  rw [State.orByteM, hback]
  refine Elsewhere.trans ?_ (elsewhere_notify line _ _)
  refine Elsewhere.trans (t := s.setHomeWord ((s.place a).canon / 4) _) ?_ (elsewhere_setHome _ hl rfl)
  exact elsewhere_setHomeWord s hl _

theorem elsewhere_dirtyMark {s : State} {ctx pte pa line : Nat} (hd : Nat) (he : Spec.MarksElsewhere s ctx pte pa line) :
    Elsewhere line s (s.dirtyMark ctx pte pa hd) := by
  obtain ⟨hpte, e, hcache, hmap⟩ := he
  rw [State.dirtyMark]
  cases hp : s.place pa with
  | loc off =>
    rw [dirtyMarkN_loc _ _ _ _ _ hp]
    have hleaf : Elsewhere line s (leafMark (State.dirtyMarkN s.heldWords) s pte hd) := by
      rw [leafMark]
      split
      · exact Elsewhere.refl line s
      · next h0 => exact elsewhere_orByteM _ _ _ (hpte h0).1 (hpte h0).2
    generalize leafMark (State.dirtyMarkN s.heldWords) s pte hd = u at hleaf
    have hbase : bitmapBase u ctx = fieldNat e 8 8 / 4096 * 4096 := by
      rw [bitmapBase, hleaf.work.trans_eq, hcache, Option.getD_some]
    rw [bitmapMark, hbase]
    split
    · exact hleaf
    · next h0 =>
      obtain ⟨hne, ho⟩ := hmap off hp (by omega)
      refine hleaf.trans (elsewhere_orByteM _ _ _ ?_ ?_)
      · rw [hleaf.work.place_eq]; exact hne
      · rw [hleaf.work.place_eq]; exact hleaf.work.unowned ho
  | _ => rw [dirtyMarkN_other _ _ _ _ _ (by rw [hp]; nofun)]; exact Elsewhere.refl line s

/-! ### An update of words without owners -/

theorem freshened_mem (s : State) (b : Nat) (prev : Option Writer) (ws : List Nat) : (freshened s b prev ws).mem = s.mem := by
  refine List.foldlRecOn (motive := fun t : State => t.mem = s.mem) ws _ rfl fun t ht wa _ => ?_
  rw [State.freshenCopy]
  split
  · split
    · exact ht
    · exact ht
  · exact ht

theorem markedLost_mem (s : State) (ws : List Nat) : (markedLost s ws).mem = s.mem :=
  List.foldlRecOn (motive := fun t : State => t.mem = s.mem) ws _ rfl fun _ ht _ _ => ht

/-- After an update of words that nobody owns, with its marks elsewhere, the words are as the update wrote them. -/
theorem cohRead_homeUpdate {s : State} {pa : Nat} {bs : List Byte} {b ctx pte hd : Nat} (ho : Spec.Unowned s pa bs.length)
    (he : ∀ wa ∈ wordsOf pa bs.length, Spec.MarksElsewhere s ctx pte pa (wa / 32)) :
    Spec.Unowned (s.homeUpdate pa bs (.barn b) ctx pte hd) pa bs.length ∧
      (s.homeUpdate pa bs (.barn b) ctx pte hd).cohRead pa bs.length = bs := by
  have hun : Spec.Unowned (s.homeUpdate pa bs (.barn b) ctx pte hd) pa bs.length :=
    fun wa hwa => (homeWork_homeUpdate s pa bs b ctx pte hd).unowned (ho wa hwa)
  refine ⟨hun, ?_⟩
  rw [cohRead_unowned hun, homeUpdate_barn, markedLost_mem, homeStore_barn]
  have hw := (homeWork_homeWrite s pa bs (.barn b)).trans (homeWork_freshened _ b (s.home (pa / 128)).last (wordsOf pa bs.length))
  have hm := (freshened_mem (s.homeWrite pa bs (.barn b)) b (s.home (pa / 128)).last (wordsOf pa bs.length)).trans (homeWrite_mem (.barn b) ho)
  generalize freshened (s.homeWrite pa bs (.barn b)) b (s.home (pa / 128)).last (wordsOf pa bs.length) = t at hw hm
  refine List.ext_getElem (by simp) fun j hj hjb => ?_
  have hwa : (pa + j) / 4 ∈ wordsOf pa bs.length := mem_wordsOf.mpr ⟨by omega, by omega, by omega⟩
  have hbyte := (elsewhere_dirtyMark hd (hw.marksElsewhere (he _ hwa))).bytes (pa + j) (by omega)
  rw [List.getElem_map, List.getElem_range, hbyte, hm, memByte_memWrite, if_pos (by omega), Nat.add_sub_cancel_left,
    List.getD_eq_getElem _ _ hjb]

theorem natOfBytes_bytesOf_mod (n x : Nat) : natOfBytes (bytesOf n x) = x % 2 ^ (8 * n) := by
  induction n generalizing x with
  | zero => rw [Nat.mul_zero, Nat.pow_zero, Nat.mod_one]; rfl
  | succ n ih =>
    have hpow : 2 ^ (8 * (n + 1)) = 256 * 2 ^ (8 * n) := by rw [Nat.mul_succ, Nat.pow_add, Nat.mul_comm]
    rw [bytesOf, natOfBytes, ih, BitVec.toNat_ofNat, hpow, Nat.mod_mul]

end Sys2Proof.Laws
end

section
/-! ## Steps of the homes and the L1s (12 R210 to R220, 13 R232 to R242) -/

namespace Sys2Proof.Laws
open Sys2Proof Sys2Proof.Machine Sys2Proof.Safety

/-! ### The end of a flight at a reply -/

/-- The sheaf, where it is resident, uses no watch descriptor. -/
def Watchless (s : State) (sid : Nat) : Prop := ∀ sh, s.sheaf? sid = some sh → sh.watch = []

/-- Memory, homes and messages stay, and a sheaf that uses no watch descriptor uses none. -/
structure FlightWork (sid : Nat) (s t : State) : Prop where
  mem : t.mem = s.mem
  homes : t.homes = s.homes
  msgs : t.msgs = s.msgs
  watch : Watchless s sid → Watchless t sid

theorem FlightWork.refl (sid : Nat) (s : State) : FlightWork sid s s := ⟨rfl, rfl, rfl, id⟩

theorem FlightWork.trans {sid : Nat} {s t u : State} (h : FlightWork sid s t) (h' : FlightWork sid t u) : FlightWork sid s u :=
  ⟨h'.mem.trans h.mem, h'.homes.trans h.homes, h'.msgs.trans h.msgs, fun hw => h'.watch (h.watch hw)⟩

section
variable {sid : Nat}

theorem flightWork_modSheaf (s : State) {f : Sheaf → Sheaf} (hf : ∀ sh, (f sh).watch = sh.watch) : FlightWork sid s (s.modSheaf sid f) := by
  have hframe := modSheaf_frame s sid f
  refine ⟨by have e := congrArg State.mem hframe; exact e, by have e := congrArg State.homes hframe; exact e,
    by have e := congrArg State.msgs hframe; exact e, fun hw sh hsh => ?_⟩
  rw [sheaf_modSheaf, if_pos rfl] at hsh
  obtain ⟨y, hy, rfl⟩ := Option.map_eq_some_iff.mp hsh
  exact (hf y).trans (hw y hy)

theorem flightWork_touchRegs (s : State) (ds : List RegUse) : FlightWork sid s (s.touchRegs sid ds) := by
  rw [touchRegs_frame]
  exact ⟨rfl, rfl, rfl, id⟩

theorem flightWork_acquiredBy (o : Option Scope) (s : State) (m : LaneSet) : FlightWork sid s (acquiredBy o s sid m) := by
  cases o with
  | none => exact FlightWork.refl sid s
  | some sc =>
    rw [acquiredBy]
    cases hs : s.sheaf? sid with
    | none => rw [State.acquire, hs]; exact FlightWork.refl sid s
    | some sh =>
      rw [acquire_eq hs]
      refine ⟨rfl, rfl, rfl, fun hw y hy => ?_⟩
      rw [sheaf_setSheaf, if_pos rfl] at hy
      rw [← Option.some.inj hy, watch_modLanes]
      exact hw sh hs

theorem checkWatch_watchless {s : State} (hw : Watchless s sid) (f : Flight) (kind : Nat) : s.checkWatch sid f kind = s := by
  cases hs : s.sheaf? sid with
  | none => rw [State.checkWatch, State.watchAccs, hs]
  | some sh => exact checkWatch_unused hs (hw sh hs) f kind

theorem watch_foldl_writeResult (s : State) (d : Reg) (sx : Bool) (accs : List Machine.Acc) (sh : Sheaf) :
    (accs.foldl (writeResult s d sx) sh).watch = sh.watch := by
  refine List.foldlRecOn (motive := fun y : Sheaf => y.watch = sh.watch) accs _ rfl fun y hy a _ => ?_
  rw [writeResult]
  split
  · next bs _ =>
    have h := congrArg Sheaf.watch (writeGroup_frame d (if a.lane = 64 then 0 else a.lane)
      (loadWords sx bs.length (s.mergeOverlay y a bs)) y 0)
    exact Eq.trans h hy
  · exact hy

theorem flightWork_completeFlight {s : State} (hw : Watchless s sid) (f : Flight) : FlightWork sid s (s.completeFlight sid f) := by
  have hend (t : State) (ht : FlightWork sid s t) : FlightWork sid s
      (((acquiredBy (acqScope f.instr) t sid f.actors).modSheaf sid (fun sh => sh.dropFlight f.id)).checkWatch sid f (watchKind f.instr)) := by
    have h := (ht.trans (flightWork_acquiredBy (acqScope f.instr) t f.actors)).trans
      (flightWork_modSheaf _ (f := fun sh => sh.dropFlight f.id) fun _ => rfl)
    rw [checkWatch_watchless (h.watch hw)]
    exact h
  cases hres : resultOf f.instr with
  | none => rw [State.completeFlight, hres]; exact hend s (FlightWork.refl sid s)
  | some r =>
    rw [completeFlight_eq (d := r.1) (sx := r.2) hres]
    exact hend _ ((flightWork_modSheaf s fun sh => watch_foldl_writeResult s r.1 r.2 f.accs sh).trans (flightWork_touchRegs _ _))

theorem flightWork_finishReply {s : State} (hw : Watchless s sid) (fid : Nat) : FlightWork sid s (s.finishReply sid fid) := by
  rw [State.finishReply]
  split
  · exact FlightWork.refl sid s
  · rw [State.finishFlight]
    split
    · exact FlightWork.refl sid s
    · split
      · exact flightWork_completeFlight hw _
      · exact FlightWork.refl sid s

theorem flightWork_giveOld (s : State) (fid pa n : Nat) (r : List (Nat × Nat)) : FlightWork sid s (s.giveOld sid fid pa n r) :=
  flightWork_modSheaf s fun _ => rfl

theorem FlightWork.unowned {s t : State} (h : FlightWork sid s t) {pa n : Nat} (ho : Spec.Unowned s pa n) : Spec.Unowned t pa n := by
  intro wa hwa
  have hown : t.ownerOf wa = s.ownerOf wa := by rw [State.ownerOf, State.home, h.homes]; rfl
  rw [hown]
  exact ho wa hwa

/-- Words without owners read as before. -/
theorem FlightWork.cohRead {s t : State} (h : FlightWork sid s t) {pa n : Nat} (ho : Spec.Unowned s pa n) :
    t.cohRead pa n = s.cohRead pa n := by
  rw [cohRead_unowned (h.unowned ho), cohRead_unowned ho, h.mem]

end

theorem HomeWork.watchless {s t : State} (h : HomeWork s t) {sid : Nat} (hw : Watchless s sid) : Watchless t sid := by
  intro sh hsh
  obtain ⟨sh0, h0, he⟩ := h.watch sid sh hsh
  rw [he]
  exact hw sh0 h0

/-! ### An atomic at its home (13 R232) -/

theorem applyLanes_snd (f : Nat → List Byte → Nat) (v : Nat) (ls : List AtLane) :
    (applyLanes f v ls).2 = ls.foldl (fun v l => f v l.data) v := by
  induction ls generalizing v with
  | nil => rfl
  | cons l ls ih => exact ih (f v l.data)

/-- What an operation by some lanes leaves of a word, and their old values. -/
def appliedAt (o : AtomOp) (n : Nat) (s : State) (pa : Nat) (lanes : List AtLane) : List (Nat × Nat) × Nat :=
  applyLanes ((AtWork.op o).step n) (natOfBytes (s.cohRead pa n)) lanes

section
variable {s : State} {m b sid fid pa n hd ctx pte : Nat} {o : AtomOp} {lanes : List AtLane} {w : List (Nat × LaneSet)} {sh : Sheaf} {f : Flight}

theorem any_eq_false_of {α : Type} {l : List α} {p : α → Bool} (h : ∀ x ∈ l, p x = false) : l.any p = false :=
  List.any_eq_false.mpr fun x hx => by rw [h x hx]; exact Bool.false_ne_true

theorem atomicAtHome_op (hm : s.msgs.find? m = some ⟨.atomic b sid fid pa n hd ctx pte (.op o) none lanes, w⟩) (hpeer : isPeer pa = false)
    (hhost : s.hostHolds pa = false) (hdie : s.dieWaits hd = false) (hs : s.sheaf? sid = some sh) (hf : sh.flight? fid = some f)
    (hpoison : s.poisoned pa n = false) (hlost : ∀ wa ∈ wordsOf pa n, s.isLost wa = false)
    (hrec : ∀ wa ∈ wordsOf pa n, s.unrecorded b wa = false) (ho : Spec.Unowned s pa n) :
    s.atomicAtHome m = (((s.dropMsg m).homeUpdate pa (bytesOf n (appliedAt o n s pa lanes).2) (.barn b) ctx pte hd).giveOld sid fid pa n
      (appliedAt o n s pa lanes).1).finishReply sid fid := by
  have hcall : (wordsOf pa n).foldl (fun s wa => s.recallWord wa) (s.dropMsg m) = s.dropMsg m :=
    foldl_recallWord_unowned (s := s.dropMsg m) ho
  have hlost' : (wordsOf pa n).any (fun wa => (s.dropMsg m).isLost wa) = false := any_eq_false_of hlost
  have hpoison' : (s.dropMsg m).poisoned pa n = false := hpoison
  have hcoh : (s.dropMsg m).cohRead pa n = s.cohRead pa n := by rw [cohRead_eq_map, cohRead_eq_map]; rfl
  rw [State.atomicAtHome, hm]
  dsimp only
  rw [hpeer, hhost, hdie, any_eq_false_of hrec, if_neg (by decide), hs, Option.bind_some, hf]
  dsimp only
  rw [hcall, hlost', hpoison', Bool.false_and, if_neg Bool.false_ne_true, if_neg Bool.false_ne_true, Option.isSome_none,
    if_neg Bool.false_ne_true, hcoh]
  rfl

end

/-! ### Recalls and write-backs (12 R211, R219) -/

/-- The words of a line taken back from one barn. -/
def recallFrom (b line : Nat) (s : State) (j : Nat) : State :=
  if s.ownerOf (32 * line + j) = some b then s.recallWord (32 * line + j) else s

theorem homeWork_recallFrom (b line : Nat) (s : State) (j : Nat) : HomeWork s (recallFrom b line s j) := by
  rw [recallFrom]
  split
  · exact homeWork_recallWord s _
  · exact HomeWork.refl s

/-- A word of one owner at most that is not this barn's does not become so. -/
theorem HomeWork.not_owner {s t : State} (h : HomeWork s t) {wa b : Nat} (h1 : Spec.OneOwner s wa) (hb : s.ownerOf wa ≠ some b) :
    t.ownerOf wa ≠ some b := by
  have hsub := h.owners wa
  rw [oneOwner_iff] at h1
  rw [ownerOf_eq_head] at hb ⊢
  intro ht
  obtain ⟨r, hr⟩ := List.head?_eq_some_iff.mp ht
  have hmem : b ∈ ownersAt s wa := hsub.subset (by rw [hr]; exact List.mem_cons_self)
  match hl : ownersAt s wa, h1 with
  | [], _ => rw [hl] at hmem; exact List.not_mem_nil hmem
  | [c], _ =>
    rw [hl] at hmem hb
    exact hb (congrArg some (List.mem_singleton.mp hmem).symm)
  | _ :: _ :: _, h => simp at h

theorem foldl_recallFrom {b line : Nat} {l : List Nat} {s : State} (h1 : ∀ j ∈ l, Spec.OneOwner s (32 * line + j)) {j : Nat} (hj : j ∈ l) :
    (l.foldl (recallFrom b line) s).ownerOf (32 * line + j) ≠ some b := by
  induction l generalizing s with
  | nil => exact absurd hj List.not_mem_nil
  | cons x l ih =>
    have hx := homeWork_recallFrom b line s x
    rw [List.foldl_cons]
    by_cases hin : j ∈ l
    · exact ih (fun y hy => hx.oneOwner (h1 y (List.mem_cons_of_mem _ hy))) hin
    · obtain rfl : j = x := (List.mem_cons.mp hj).resolve_right hin
      have hone := h1 j List.mem_cons_self
      refine (HomeWork.foldl (homeWork_recallFrom b line) l _).not_owner (hx.oneOwner hone) ?_
      rw [recallFrom]
      split
      · rw [recallWord_clears hone]; exact nofun
      · next h => exact h

theorem cleanUnits_barns (s : State) (pa n : Nat) : (s.cleanUnits pa n).barns = s.barns := by
  refine List.foldlRecOn (motive := fun t : State => t.barns = s.barns) _ _ rfl fun t ht i _ => ?_
  dsimp only
  split
  · split
    · exact ht
    · exact ht
  · exact ht

/-- The write-back of a line leaves the eviction buffer, and its message ends. -/
theorem recordWb_effect {s : State} {b m : Nat} {e : EvLine} (he : (s.barn b).evict.find? (fun e => e.msg == m) = some e) :
    (s.recordWb b m).msgs.find? m = none ∧ ∀ x ∈ ((s.recordWb b m).barn b).evict, x.msg ≠ m := by
  rw [State.recordWb, he]
  dsimp only
  generalize e.words.foldl (fun s w => if s.ownerOf w.1 = some b then s.recallWord w.1 else s) s = t
  refine List.foldlRecOn (motive := fun u : State => u.msgs.find? m = none ∧ ∀ x ∈ (u.barn b).evict, x.msg ≠ m) _ _
    ⟨(kv_find_erase _ m m).trans (if_pos rfl), fun x hx => ?_⟩ fun u ⟨hu, hx⟩ j _ => ?_
  · have hb : (((t.setBarn b { t.barn b with evict := (t.barn b).evict.filter (fun x => x.msg != m) }).dropMsg m).barn b).evict =
        (t.barn b).evict.filter (fun x => x.msg != m) := congrArg Barn.evict ((barn_setBarn t b b _).trans (if_pos rfl))
    rw [hb] at hx
    exact bne_iff_ne.mp (List.mem_filter.mp hx).2
  · split
    · refine ⟨(homeWork_cleanUnits u _ _).gone m hu, ?_⟩
      rw [State.barn, cleanUnits_barns]
      exact hx
    · exact ⟨hu, hx⟩

/-! ### Lines that an L1 gives up (12 R219) -/

section
variable {s : State} {b line : Nat} (hg : (s.barn b).gather = [])
  (hw : ∀ e ∈ (s.barn b).words, e.1 / 32 = line → e.2.phase = [] ∧ s.pendingReg b e.1 = none)
include hg hw

/-- The words of a line. -/
def lineWords (s : State) (b line : Nat) : KV L1Word := (s.barn b).words.filter (fun e => lineOf e.1 == line)

omit hg in
theorem lineWords_idle {e : Nat × L1Word} (he : e ∈ lineWords s b line) : e.2.phase = [] ∧ s.pendingReg b e.1 = none := by
  obtain ⟨hin, hl⟩ := List.mem_filter.mp he
  exact hw e hin (beq_iff_eq.mp hl)

/-- Without phase words, gather copies and registrations under way, only a full buffer keeps a line. -/
theorem canEvict_idle : s.canEvict b line = !(s.barn b).bufferFull line := by
  have hphase : (lineWords s b line).any (fun e => e.2.phase != []) = false :=
    any_eq_false_of fun e he => by rw [(lineWords_idle hw he).1]; rfl
  have hreg : (lineWords s b line).any (fun e => (s.pendingReg b e.1).isSome) = false :=
    any_eq_false_of fun e he => by rw [(lineWords_idle hw he).2]; rfl
  rw [State.canEvict, hg]
  change (!((s.home line).held != 0 && ((lineWords s b line).any (fun e => e.2.phase != []) || false)) && _ &&
    !(lineWords s b line).any (fun e => (s.pendingReg b e.1).isSome)) = _
  rw [hphase, hreg]
  simp

/-- The barn without the words of a line. -/
def lineDropped (s : State) (b line : Nat) : State :=
  s.setBarn b { s.barn b with words := (s.barn b).words.filter (fun e => lineOf e.1 != line) }

/-- A line without phase words and gather copies leaves the L1, its owned words for the eviction buffer. -/
theorem evictLine_idle : s.evictLine b line =
    if ((lineWords s b line).filter (fun e => e.2.owned)).isEmpty then lineDropped s b line
    else ((lineDropped s b line).addMsg (.wb b line) []).2.setBarn b { (lineDropped s b line).barn b with
      evict := ((lineDropped s b line).barn b).evict ++ [⟨line, (lineWords s b line).filter (fun e => e.2.owned), s.nextId⟩] } := by
  have hphase : (lineWords s b line).filter (fun e => e.2.phase != []) = [] :=
    List.filter_eq_nil_iff.mpr fun e he => by rw [(lineWords_idle hw he).1]; exact Bool.false_ne_true
  rw [State.evictLine, hg, ← lineWords, hphase]
  rfl

end

theorem lineDropped_barn (s : State) (b line : Nat) : (lineDropped s b line).barn b =
    { s.barn b with words := (s.barn b).words.filter (fun e => lineOf e.1 != line) } := (barn_setBarn s b b _).trans (if_pos rfl)

/-- A line whose owned words wait in the eviction buffer. -/
def lineBuffered (s : State) (b line : Nat) (owned : KV L1Word) : State :=
  ((lineDropped s b line).addMsg (.wb b line) []).2.setBarn b { (lineDropped s b line).barn b with
    evict := ((lineDropped s b line).barn b).evict ++ [⟨line, owned, s.nextId⟩] }

theorem lineBuffered_barn (s : State) (b line : Nat) (owned : KV L1Word) : (lineBuffered s b line owned).barn b = { s.barn b with
    words := (s.barn b).words.filter (fun e => lineOf e.1 != line), evict := (s.barn b).evict ++ [⟨line, owned, s.nextId⟩] } := by
  refine (barn_setBarn _ b b _).trans ((if_pos rfl).trans ?_)
  rw [lineDropped_barn]

/-! ### A line that its home gives up (12 R220, 13 R242) -/

/-- The owners of a line's words recalled. -/
def lineRecalled (s : State) (line : Nat) : State := ((List.range 32).map (· + 32 * line)).foldl (fun s wa => s.recallWord wa) s
/-- The waiters of a line gone from its home's list. -/
def lineUnwatched (s : State) (line : Nat) : State := { s with waits := s.waits.filter (fun e => e.pa / 128 != line) }

theorem mem_line {line j : Nat} (hj : j < 32) : 32 * line + j ∈ (List.range 32).map (· + 32 * line) :=
  List.mem_map.mpr ⟨j, List.mem_range.mpr hj, by omega⟩

theorem exists_of_mem_line {line wa : Nat} (h : wa ∈ (List.range 32).map (· + 32 * line)) : ∃ j < 32, wa = 32 * line + j := by
  obtain ⟨j, hj, rfl⟩ := List.mem_map.mp h
  exact ⟨j, List.mem_range.mp hj, Nat.add_comm _ _⟩

theorem lineEviction_work (s : State) (line : Nat) : ∃ t, execL2LineEviction line s = .next t ∧
    WatcherWork (lineUnwatched (lineRecalled s line) line) t :=
  ⟨_, rfl, watcherWork_releases _ (lineUnwatched (lineRecalled s line) line) 2⟩

theorem WatcherWork.waits {s t : State} (h : WatcherWork s t) : t.waits = s.waits := by have e := congrArg State.waits h.rest; exact e
theorem WatcherWork.homes {s t : State} (h : WatcherWork s t) : t.homes = s.homes := by have e := congrArg State.homes h.rest; exact e

end Sys2Proof.Laws
end

section
namespace Sys2Proof.Laws
open Sys2Proof Sys2Proof.Machine Sys2Proof.Safety

/-! ### Messages of registrations and reads (12 R210, R213, R220) -/

theorem registrationAck_gone {s : State} {m b wa n hd ctx pte : Nat} {w : List (Nat × LaneSet)}
    (h : s.msgs.find? m = some ⟨.reg b wa n hd ctx pte true, w⟩) : execRegistrationAck m s = .next (s.dropMsg m) := by
  rw [execRegistrationAck, h]

section
variable {s : State} {m b sid f acc pa n hd o refused : Nat} {acq : Option Scope} {w : List (Nat × LaneSet)}
  (h : s.msgs.find? m = some ⟨.read b sid f acc pa n hd acq (some o) refused none, w⟩)
include h

/-- An owner that holds the word fixes the read's value. -/
theorem forwardedRead_owned (ho : ((s.barn o).ownedWord (pa / 4)).isSome) : execForwardedRead m s =
    .next { s with msgs := s.msgs.put m ⟨.read b sid f acc pa n hd acq (some o) refused (some (s.cohRead pa n)), w⟩ } := by
  obtain ⟨x, hx⟩ := Option.isSome_iff_exists.mp ho
  rw [execForwardedRead, h]
  dsimp only
  rw [hx]

theorem readRefusal_unowned (ho : (s.barn o).ownedWord (pa / 4) = none) : execReadRefusal m s =
    .next { s with
      msgs := s.msgs.put m ⟨.read b sid f acc pa n hd acq (if 1 ≤ refused then none else s.ownerOf (pa / 4)) (refused + 1) none, w⟩ } := by
  rw [execReadRefusal, h]
  dsimp only
  rw [ho]

end

theorem writeBack_recorded {s : State} {m b line : Nat} {w : List (Nat × LaneSet)} (h : s.msgs.find? m = some ⟨.wb b line, w⟩) :
    execWriteBack m s = .next (s.recordWb b m) := by
  rw [execWriteBack, h]

theorem ownerRecall_eq (b line : Nat) (words : Word) (s : State) : execOwnerRecall b line words s =
    .next (((List.range 32).filter (fun j => words.getLsbD j)).foldl (recallFrom b line) s) := rfl

/-! ### Gather copies (13 R239) -/

/-- A barn without its gather copy of a word. -/
def ungathered (s : State) (b addr : Nat) : State := s.setBarn b { s.barn b with gather := (s.barn b).gather.erase addr }
/-- The value that a gather copy makes of its word. -/
def gathered (s : State) (addr : Nat) (g : Gather) : Nat :=
  g.op.gatherOp.apply (8 * g.size.bytes) (natOfBytes (s.cohRead addr g.size.bytes)) g.value.toNat

section
variable {s : State} {b addr : Nat} {g : Gather} (hg : (s.barn b).gather.find? addr = some g)
include hg

theorem publish_eq (hh : s.hostHolds addr = false) (hrec : ∀ wa ∈ wordsOf addr g.size.bytes, s.unrecorded b wa = false) :
    s.publish b addr = (ungathered s b addr).homeUpdate addr (bytesOf g.size.bytes (gathered s addr g)) (.barn b) g.ctx g.pte g.hd := by
  have hwait : s.copyWaits b addr g.size.bytes = false := by rw [State.copyWaits, hh, any_eq_false_of hrec]; rfl
  rw [State.publish, hg]
  dsimp only
  rw [hwait, if_neg Bool.false_ne_true]
  rfl

/-- A gather copy of a word without owner is combined into it and leaves the L1. -/
theorem publish_effect (hh : s.hostHolds addr = false) (hrec : ∀ wa ∈ wordsOf addr g.size.bytes, s.unrecorded b wa = false)
    (ho : Spec.Unowned s addr g.size.bytes)
    (he : ∀ wa ∈ wordsOf addr g.size.bytes, Spec.MarksElsewhere s g.ctx g.pte addr (wa / 32)) :
    ((s.publish b addr).barn b).gather.find? addr = none ∧
      natOfBytes ((s.publish b addr).cohRead addr g.size.bytes) = gathered s addr g % 2 ^ (8 * g.size.bytes) := by
  have hlen : (bytesOf g.size.bytes (gathered s addr g)).length = g.size.bytes := length_bytesOf _ _
  have hcoh := (cohRead_homeUpdate (s := ungathered s b addr) (pa := addr) (bs := bytesOf g.size.bytes (gathered s addr g)) (b := b)
    (ctx := g.ctx) (pte := g.pte) (hd := g.hd) (by rw [hlen]; exact ho) (by rw [hlen]; exact he)).2
  rw [hlen] at hcoh
  rw [publish_eq hg hh hrec, hcoh, natOfBytes_bytesOf_mod, (homeWork_homeUpdate _ _ _ _ _ _ _).gather]
  have hb : (ungathered s b addr).barn b = { s.barn b with gather := (s.barn b).gather.erase addr } := (barn_setBarn s b b _).trans (if_pos rfl)
  rw [hb]
  exact ⟨(kv_find_erase _ addr addr).trans (if_pos rfl), rfl⟩

end

/-! ### An atomic at its home leaves its lanes' operations -/

section
variable {s : State} {m b sid fid pa n hd ctx pte : Nat} {o : AtomOp} {lanes : List AtLane} {w : List (Nat × LaneSet)} {sh : Sheaf} {f : Flight}

theorem atomicAtHome_effect (hm : s.msgs.find? m = some ⟨.atomic b sid fid pa n hd ctx pte (.op o) none lanes, w⟩) (hpeer : isPeer pa = false)
    (hhost : s.hostHolds pa = false) (hdie : s.dieWaits hd = false) (hs : s.sheaf? sid = some sh) (hf : sh.flight? fid = some f)
    (hw : sh.watch = []) (hpoison : s.poisoned pa n = false)
    (hwords : ∀ wa ∈ wordsOf pa n, s.isLost wa = false ∧ s.unrecorded b wa = false ∧ Spec.MarksElsewhere s ctx pte pa (wa / 32))
    (ho : Spec.Unowned s pa n) :
    (s.atomicAtHome m).msgs.find? m = none ∧ natOfBytes ((s.atomicAtHome m).cohRead pa n) =
      lanes.foldl (fun v l => o.apply (8 * n) v (natOfBytes l.data)) (natOfBytes (s.cohRead pa n)) % 2 ^ (8 * n) := by
  have hlen : (bytesOf n (appliedAt o n s pa lanes).2).length = n := length_bytesOf _ _
  obtain ⟨hun, hcoh⟩ := cohRead_homeUpdate (s := s.dropMsg m) (pa := pa) (bs := bytesOf n (appliedAt o n s pa lanes).2) (b := b)
    (ctx := ctx) (pte := pte) (hd := hd) (by rw [hlen]; exact ho) (by rw [hlen]; exact fun wa hwa => (hwords wa hwa).2.2)
  have hwork := (homeWork_dropMsg s m).trans (homeWork_homeUpdate (s.dropMsg m) pa (bytesOf n (appliedAt o n s pa lanes).2) b ctx pte hd)
  have hgone := (homeWork_homeUpdate (s.dropMsg m) pa (bytesOf n (appliedAt o n s pa lanes).2) b ctx pte hd).gone m
    ((kv_find_erase s.msgs m m).trans (if_pos rfl))
  rw [hlen] at hun hcoh
  rw [atomicAtHome_op hm hpeer hhost hdie hs hf hpoison (fun wa hwa => (hwords wa hwa).1) (fun wa hwa => (hwords wa hwa).2.1) ho]
  generalize (s.dropMsg m).homeUpdate pa (bytesOf n (appliedAt o n s pa lanes).2) (.barn b) ctx pte hd = t at hun hcoh hwork hgone ⊢
  have hwatch : Watchless t sid := hwork.watchless fun y hy => by
    rw [hs] at hy
    rw [← Option.some.inj hy]
    exact hw
  have hold := flightWork_giveOld (sid := sid) t fid pa n (appliedAt o n s pa lanes).1
  have hend := hold.trans (flightWork_finishReply (hold.watch hwatch) fid)
  rw [hend.msgs, hend.cohRead hun, hcoh, natOfBytes_bytesOf_mod, appliedAt, applyLanes_snd]
  exact ⟨hgone, rfl⟩

end

/-! ### Evictions -/

section
variable {s : State} {b line : Nat} (hg : (s.barn b).gather = [])
  (hw : ∀ e ∈ (s.barn b).words, e.1 / 32 = line → e.2.phase = [] ∧ s.pendingReg b e.1 = none)
include hg hw

theorem l1Eviction_full (hf : (s.barn b).bufferFull line = true) : execL1Eviction b line s = .next s := by
  rw [execL1Eviction, canEvict_idle hg hw, hf]; rfl

theorem l1Eviction_dropped (hf : (s.barn b).bufferFull line = false) (ho : (lineWords s b line).filter (fun e => e.2.owned) = []) :
    execL1Eviction b line s = .next (lineDropped s b line) := by
  rw [execL1Eviction, canEvict_idle hg hw, hf, evictLine_idle hg hw, ho]; rfl

theorem l1Eviction_buffered (hf : (s.barn b).bufferFull line = false) (ho : (lineWords s b line).filter (fun e => e.2.owned) ≠ []) :
    execL1Eviction b line s = .next (lineBuffered s b line ((lineWords s b line).filter (fun e => e.2.owned))) := by
  have hne : ((lineWords s b line).filter (fun e => e.2.owned)).isEmpty = false := by
    rw [List.isEmpty_eq_false_iff]; exact ho
  rw [execL1Eviction, canEvict_idle hg hw, hf, evictLine_idle hg hw, hne]; rfl

end

theorem lineUnwatched_homes (s : State) (line : Nat) : (lineUnwatched s line).homes = s.homes := rfl

/-- After the eviction of a line at its home no word of the line has an owner; its waiters are gone where nothing had to be
recalled. -/
theorem l2LineEviction_effect {s : State} {line : Nat} (h1 : ∀ j < 32, Spec.OneOwner s (32 * line + j)) :
    ∃ t, execL2LineEviction line s = .next t ∧
      ((∀ j < 32, s.ownerOf (32 * line + j) = none) → t.waits = s.waits.filter (fun e => e.pa / 128 != line)) ∧
      ∀ j < 32, t.ownerOf (32 * line + j) = none := by
  obtain ⟨t, ht, hwork⟩ := lineEviction_work s line
  refine ⟨t, ht, fun hnone => ?_, fun j hj => ?_⟩
  · have hcall : lineRecalled s line = s := foldl_recallWord_unowned fun wa hwa => by
      obtain ⟨j, hj, rfl⟩ := exists_of_mem_line hwa
      exact hnone j hj
    rw [hwork.waits, hcall]
    rfl
  · have hone (wa : Nat) (hwa : wa ∈ (List.range 32).map (· + 32 * line)) : Spec.OneOwner s wa := by
      obtain ⟨i, hi, rfl⟩ := exists_of_mem_line hwa
      exact h1 i hi
    have hhome : t.homes = (lineRecalled s line).homes := hwork.homes.trans (lineUnwatched_homes _ line)
    have hown : t.ownerOf (32 * line + j) = (lineRecalled s line).ownerOf (32 * line + j) := by
      rw [State.ownerOf, State.ownerOf, State.home, State.home, hhome]
    exact hown.trans (foldl_recallWord_clears hone (mem_line hj))

end Sys2Proof.Laws
end

section
/-! ## Replies to loads (12 R213) -/

namespace Sys2Proof.Laws
open Sys2Proof Sys2Proof.Machine Sys2Proof.Safety

/-! ### The words that a reply installs -/

theorem mem_foldl_addLine_gather (gs : KV Gather) {l : List Nat} {y : Nat} (h : y ∈ l) :
    y ∈ gs.foldl (fun l g => addLine l (g.1 / 128)) l :=
  List.foldlRecOn (motive := fun l => y ∈ l) gs _ h fun l hl _ _ => (mem_addLine l _ y).mpr (Or.inl hl)

/-- A line of which a word is in the L1 has a way. -/
theorem setFull_of_word {b : Barn} {wa : Nat} (h : (b.words.find? wa).isSome) : b.setFull (wa / 32) = false := by
  obtain ⟨x, hx⟩ := Option.isSome_iff_exists.mp h
  have hline : wa / 32 ∈ b.words.foldl (fun l w => addLine l (w.1 / 32)) [] :=
    (mem_foldl_addLine b.words [] _).mpr (Or.inr ⟨_, kv_mem_of_find hx, rfl⟩)
  have hmem : wa / 32 ∈ b.linesOf := mem_foldl_addLine_gather b.gather hline
  have hheld : b.holdsLine (wa / 32) = true := List.contains_iff_mem.mpr hmem
  rw [Barn.setFull, hheld]
  rfl

/-- Nothing but L1s differs, and a line of one of them has a way. -/
structure Installed (b line : Nat) (s t : State) : Prop where
  rest : { t with barns := s.barns } = s
  room : (t.barn b).setFull line = false

/-- A word put into the line. -/
theorem Installed.put {b line : Nat} {s t : State} (h : Installed b line s t) {wa : Nat} (hwa : wa / 32 = line) (x : L1Word) :
    Installed b line s (t.setBarn b { t.barn b with words := (t.barn b).words.put wa x }) := by
  refine ⟨h.rest, ?_⟩
  have hb : ((t.setBarn b { t.barn b with words := (t.barn b).words.put wa x }).barn b).words.find? wa = some x := by
    rw [barn_setBarn, if_pos rfl]
    exact kv_find_put_self _ wa x
  rw [← hwa]
  exact setFull_of_word (by rw [hb]; rfl)

theorem wordsOf_one (wa : Nat) : wordsOf (4 * wa) 4 = [wa] := by
  have h1 : 4 * wa / 4 = wa := by omega
  have h2 : (4 * wa + 4 - 1) / 4 = wa := by omega
  rw [wordsOf, if_neg (by decide), h1, h2, Nat.sub_self]
  exact congrArg (fun x => [x]) (Nat.zero_add wa)

/-- One word installed: no line has to make way for it. -/
theorem Installed.install {b line : Nat} {s t : State} (h : Installed b line s t) {wa : Nat} (hwa : wa / 32 = line) (cls : Scope)
    (ctx pte hd : Nat) : Installed b line s (t.installWords b (4 * wa) 4 cls ctx pte hd) := by
  have hroom : t.makeRoom b (lineOf wa) = t := by
    have hfull : (t.barn b).setFull (lineOf wa) = false := by rw [lineOf, hwa]; exact h.room
    rw [State.makeRoom, hfull]; rfl
  rw [State.installWords, wordsOf_one, List.foldl_cons, List.foldl_nil, hroom]
  dsimp only
  split
  · exact h
  · split
    · split
      · split
        · exact h.put hwa _
        · exact h
      · split
        · exact h
        · exact h.put hwa _
    · exact h.put hwa _

theorem installed_line {b pa : Nat} {s : State} (hroom : (s.barn b).setFull (pa / 128) = false) (n : Nat) (cls : Scope) (ctx pte hd : Nat) :
    Installed b (pa / 128) s (s.installLine b pa n cls ctx pte hd) := by
  refine List.foldlRecOn (motive := Installed b (pa / 128) s) _ _ ⟨rfl, hroom⟩ fun t ht wa hwa => ?_
  split
  · obtain ⟨j, hj, rfl⟩ := exists_of_mem_line hwa
    exact ht.install (by omega) cls ctx pte hd
  · exact ht

/-! ### The sheaf that a reply reaches -/

/-- One access of a flight has come to its bytes. -/
def repliedFlight (bs : List Byte) (f : Flight) : Flight :=
  { f with accs := f.accs.zipIdx.map (fun e => if e.2 = 0 then { e.1 with st := .done bs } else e.1), performed := true }

theorem repliedFlight_one {f : Flight} {a : Machine.Acc} (h : f.accs = [a]) (bs : List Byte) :
    (repliedFlight bs f).accs = [{ a with st := .done bs }] := by
  rw [repliedFlight, h]; rfl

/-- The sheaf with that access performed. -/
def repliedSheaf (fid : Nat) (bs : List Byte) (m : LaneSet) (c : Scope) (sh : Sheaf) : Sheaf :=
  (sh.raisePend m c).modFlight fid (repliedFlight bs)

theorem repliedSheaf_frame (fid : Nat) (bs : List Byte) (m : LaneSet) (c : Scope) (sh : Sheaf) :
    { repliedSheaf fid bs m c sh with lanes := sh.lanes, flights := sh.flights } = sh :=
  congrArg (fun y : Sheaf => { y with flights := sh.flights }) (modLanes_frame sh m _)

theorem repliedSheaf_flights (fid : Nat) (bs : List Byte) (m : LaneSet) (c : Scope) (sh : Sheaf) :
    (repliedSheaf fid bs m c sh).flights = sh.flights.map (fun x => if x.id = fid then repliedFlight bs x else x) :=
  congrArg (List.map _) (flights_raisePend sh m c)

theorem id_of_find {fid : Nat} {l : List Flight} {f : Flight} (h : l.find? (fun x => x.id == fid) = some f) : f.id = fid := by
  have hid := List.find?_some h
  exact beq_iff_eq.mp hid

theorem find_map_replied {fid : Nat} {bs : List Byte} {l : List Flight} {f : Flight} (h : l.find? (fun x => x.id == fid) = some f) :
    (l.map (fun x => if x.id = fid then repliedFlight bs x else x)).find? (fun x => x.id == fid) = some (repliedFlight bs f) := by
  have hid : f.id = fid := id_of_find h
  have hpred : ((fun x : Flight => x.id == fid) ∘ fun x => if x.id = fid then repliedFlight bs x else x) = fun x => x.id == fid := by
    funext x
    rw [Function.comp_apply]
    split <;> rfl
  rw [List.find?_map, hpred, h, Option.map_some, if_pos hid]

theorem filter_map_replied (fid : Nat) (bs : List Byte) (l : List Flight) :
    (l.map (fun x => if x.id = fid then repliedFlight bs x else x)).filter (fun x => x.id != fid) = l.filter (fun x => x.id != fid) := by
  induction l with
  | nil => rfl
  | cons x l ih =>
    rw [List.map_cons]
    by_cases hx : x.id = fid
    · have h1 : ((repliedFlight bs x).id != fid) = false := bne_eq_false_iff_eq.mpr hx
      have h2 : (x.id != fid) = false := bne_eq_false_iff_eq.mpr hx
      rw [if_pos hx, List.filter_cons, List.filter_cons, h1, h2, if_neg Bool.false_ne_true, if_neg Bool.false_ne_true, ih]
    · rw [if_neg hx, List.filter_cons, List.filter_cons, ih]

theorem setAcc_markPerformed {t : State} {sid fid : Nat} {sh : Sheaf} (h : t.sheaf? sid = some sh) (bs : List Byte) (m : LaneSet) (c : Scope) :
    ((t.modSheaf sid (fun sh => sh.raisePend m c)).setAcc sid fid 0 (.done bs)).markPerformed sid fid =
      t.setSheaf sid (repliedSheaf fid bs m c sh) := by
  rw [modSheaf_some _ _ _ _ h, State.setAcc, modSheaf_setSheaf, State.markPerformed, modSheaf_setSheaf]
  refine congrArg (t.setSheaf sid) ?_
  rw [repliedSheaf, Sheaf.modFlight, Sheaf.modFlight, Sheaf.modFlight]
  refine congrArg (fun l => { sh.raisePend m c with flights := l }) ?_
  rw [List.map_map]
  refine List.map_congr_left fun x _ => ?_
  rw [Function.comp_apply]
  by_cases hx : x.id = fid
  · rw [if_pos hx, if_pos hx, if_pos hx]
    rfl
  · rw [if_neg hx, if_neg hx, if_neg hx]

/-! ### The reply -/

/-- What an L1 holds after a reply: nothing new where the access passes it. -/
def repliedL1 (s : State) (b pa n : Nat) (cls : Scope) (ctx : Nat) (a : Machine.Acc) (hd : Nat) : State :=
  if a.homeOnly then s else s.installLine b pa n cls ctx a.pte hd

theorem repliedL1_rest {s : State} {b pa : Nat} {a : Machine.Acc} (h : a.homeOnly = true ∨ (s.barn b).setFull (pa / 128) = false)
    (n : Nat) (cls : Scope) (ctx hd : Nat) : { repliedL1 s b pa n cls ctx a hd with barns := s.barns } = s := by
  rw [repliedL1]
  by_cases ho : a.homeOnly = true
  · rw [if_pos ho]
  · rw [if_neg ho]
    exact (installed_line (h.resolve_left ho) n cls ctx a.pte hd).rest

section
variable {s : State} {m b sid fid pa n hd refused : Nat} {fwd : Option Nat} {fixed : Option (List Byte)} {w : List (Nat × LaneSet)}
  {sh : Sheaf} {f : Flight} {a : Machine.Acc}

/-- The class that a reply gives the words of its line. -/
def replyClass (s : State) (b pa : Nat) : Scope := (writerClass (s.home (pa / 128)).last b).getD .sh

/-- The reply to a read of one access: the home answers now, with no word lost or poisoned, and the access's line has a way. -/
structure Replies (s : State) (b sid fid pa n hd refused : Nat) (fwd : Option Nat) (fixed : Option (List Byte)) (sh : Sheaf) (f : Flight)
    (a : Machine.Acc) : Prop where
  ready : fixed.isSome ∨ fwd = none ∨ 2 ≤ refused
  die : s.dieWaits hd = false
  unmodified : s.hostMod pa = false
  kept : ∀ wa ∈ wordsOf pa n, s.isLost wa = false
  clean : s.poisoned pa n = false
  sheaf : s.sheaf? sid = some sh
  flight : sh.flight? fid = some f
  access : f.accs = [a]
  room : a.homeOnly = true ∨ (s.barn b).setFull (pa / 128) = false

theorem homeReply_eq (hm : s.msgs.find? m = some ⟨.read b sid fid 0 pa n hd none fwd refused fixed, w⟩)
    (h : Replies s b sid fid pa n hd refused fwd fixed sh f a) :
    execHomeReply m s = .next (((((repliedL1 (s.dropMsg m) b pa n (replyClass s b pa) f.ctx a hd).modSheaf sid
      (fun sh => sh.raisePend (accLanes f a) (replyClass s b pa))).setAcc sid fid 0
        (.done ((s.barn b).overlay pa (fixed.getD (s.cohRead pa n))))).markPerformed sid fid).finishReply sid fid) := by
  have hgo : (fixed.isSome || fwd.isNone || decide (2 ≤ refused)) = true := by
    rcases h.ready with hr | rfl | hr
    · rw [hr]; rfl
    · rw [Option.isNone_none, Bool.or_true, Bool.true_or]
    · rw [decide_eq_true hr, Bool.or_true]
  have hwait : (!a.homeOnly && !s.roomFor b (pa / 128)) = false := by
    rcases h.room with hr | hr
    · rw [hr]; rfl
    · rw [State.roomFor, hr]; exact Bool.and_false _
  have hlost : (wordsOf pa n).any (fun wa => (s.dropMsg m).isLost wa) = false := any_eq_false_of h.kept
  have hpoison : (s.dropMsg m).poisoned pa n = false := h.clean
  rw [execHomeReply, hm]
  dsimp only
  rw [hgo, h.die, h.unmodified, if_neg (by decide), if_neg Bool.false_ne_true, h.sheaf, Option.bind_some, h.flight]
  dsimp only [Option.map_some]
  rw [h.access, List.getD_cons_zero, hwait, hlost, hpoison, if_neg Bool.false_ne_true, if_neg Bool.false_ne_true,
    if_neg Bool.false_ne_true]
  rfl

theorem length_overlay (x : Barn) (pa : Nat) (bs : List Byte) : (x.overlay pa bs).length = bs.length := by
  rw [Barn.overlay, List.length_map, List.length_zipIdx]

/-- A load of one lane under way in a sheaf on a core that uses no watch descriptor. -/
structure LoadWaits (s : State) (sh : Sheaf) (f : Flight) (a : Machine.Acc) (d : Reg) (sx : Bool) : Prop where
  core : sh.core < 352
  lane : a.lane < 64
  stage : f.stage = .access
  result : resultOf f.instr = some (d, sx)
  acquire : acqScope f.instr = none
  dst : d.isLaneDst = true
  watch : sh.watch = []
  merge : ∀ st, s.stookOf sh = some st → st.merge = []

section
variable {d : Reg} {sx : Bool} {size : Size} {bs : List Byte}

/-- The registers after a group is written for one lane. -/
theorem writeVals_one (hd : d.isLaneDst = true) {l : Nat} (hl : l < 64) (ws : List Word) (sh : Sheaf) :
    { writeVals d [(l, ws)] sh with regs := sh.regs } = sh ∧ Spec.LaneLoaded sh (writeVals d [(l, ws)] sh) d l ws := by
  refine ⟨lanes_writeGroups d hd [(l, ws)] sh, fun r j hj => ?_⟩
  rw [vreg_writeVals (vals := [(l, ws)]) hd (fun v hv => by rw [List.mem_singleton.mp hv]; exact hl) (List.nodup_singleton _) sh r hj]
  cases d with
  | v n =>
    by_cases he : j = l
    · subst he
      rw [List.lookup_cons_self]
      simp [regOf]
    · have hne : (j == l) = false := beq_eq_false_iff_ne.mpr he
      rw [List.lookup_cons, hne]
      simp [regOf, he]
  | _ => rfl

theorem accVals_replied (ha : f.accs = [a]) (hlane : a.lane < 64) (hlen : bs.length = size.bytes) :
    accVals sx (repliedFlight bs f).accs = [(a.lane, Spec.loaded sx size.bytes (natOfBytes bs))] := by
  have hwords : loadWords sx bs.length bs = Spec.loaded sx size.bytes (natOfBytes bs) := by
    rw [hlen]; exact loadWords_eq_loaded sx size hlen
  rw [repliedFlight_one ha, accVals, List.map_cons, List.map_nil, doneBytes]
  dsimp only
  rw [hwords, if_neg (by omega)]

/-- The end of the load, once its one access has its bytes. -/
theorem finishReply_load {t : State} (hf : sh.flight? fid = some f) (ha : f.accs = [a])
    (h : LoadWaits t sh f a d sx) (hlen : bs.length = size.bytes) (m : LaneSet) (c : Scope) :
    let u := (t.setSheaf sid (repliedSheaf fid bs m c sh)).finishReply sid fid
    ∃ shu, u.msgs = t.msgs ∧ u.mem = t.mem ∧ u.sheaf? sid = some shu ∧
      { shu with lanes := sh.lanes, regs := sh.regs, flights := sh.flights } = sh ∧
      shu.flights = sh.flights.filter (fun x => x.id != fid) ∧
      Spec.LaneLoaded sh shu d a.lane (Spec.loaded sx size.bytes (natOfBytes bs)) := by
  have hframe := repliedSheaf_frame fid bs m c sh
  have hflights := repliedSheaf_flights fid bs m c sh
  generalize repliedSheaf fid bs m c sh = shr at hframe hflights ⊢
  have hfind : shr.flight? fid = some (repliedFlight bs f) := by rw [Sheaf.flight?, hflights]; exact find_map_replied hf
  have hid : (repliedFlight bs f).id = fid := (id_of_find hf : f.id = fid)
  have hhere : (t.setSheaf sid shr).sheaf? sid = some shr := (sheaf_setSheaf _ _ _ _).trans (if_pos rfl)
  have hcore : shr.core = sh.core := by have e := congrArg Sheaf.core hframe; exact e
  have huid : shr.uid = sh.uid := by have e := congrArg Sheaf.uid hframe; exact e
  have hwatch : shr.watch = [] := by have e := congrArg Sheaf.watch hframe; exact Eq.trans e h.watch
  have hregs : shr.regs = sh.regs := by have e := congrArg Sheaf.regs hframe; exact e
  have hall : ∀ x ∈ (repliedFlight bs f).accs, ∃ bs, x.st = .done bs := by
    rw [repliedFlight_one ha]
    exact fun x hx => ⟨bs, by rw [List.mem_singleton.mp hx]⟩
  have hfinish : (t.setSheaf sid shr).finishReply sid fid = (t.setSheaf sid shr).completeFlight sid (repliedFlight bs f) := by
    have hcode : decide (352 ≤ shr.core) = false := decide_eq_false (by have := h.core; omega)
    rw [State.finishReply, hhere, Option.map_some, hcode, Option.getD_some, if_neg Bool.false_ne_true]
    exact finishFlight_done hhere hfind h.stage (by rw [allDone, repliedFlight_one ha]; rfl)
  obtain ⟨shu, hshu, hmem, -, hout, hmsgs⟩ := completeFlight_loads (f := repliedFlight bs f) hhere h.result hall
    (fun st hst => h.merge st (by rw [State.stookOf, ← huid]; exact hst)) hwatch
  have hout := hout h.acquire
  obtain ⟨hwf, hloaded⟩ := writeVals_one h.dst h.lane (Spec.loaded sx size.bytes (natOfBytes bs)) shr
  rw [accVals_replied ha h.lane hlen, hid] at hout
  generalize writeVals d [(a.lane, Spec.loaded sx size.bytes (natOfBytes bs))] shr = wr at hout hwf hloaded
  have hwfl : wr.flights = shr.flights := by have e := congrArg Sheaf.flights hwf; exact e
  have hrest : { shr with lanes := sh.lanes, regs := sh.regs, flights := sh.flights } = sh := by rw [← hregs]; exact hframe
  dsimp only
  rw [hfinish]
  refine ⟨shu, hmsgs h.acquire, hmem, hshu, ?_, ?_, fun r l hl => ?_⟩
  · rw [hout]
    have e := congrArg (fun y : Sheaf => { y with lanes := sh.lanes, regs := sh.regs, flights := sh.flights }) hwf
    exact Eq.trans e hrest
  · rw [hout, Sheaf.dropFlight, hwfl, hflights]
    exact filter_map_replied fid bs sh.flights
  · have hold (r l : Nat) : shr.vreg r l = sh.vreg r l := congrArg (fun y : KV Word => y.getD (64 * r + l) 0) hregs
    have hnew : shu.vreg r l = wr.vreg r l := by rw [hout]; rfl
    rw [hnew, hloaded r l hl, hold]

/-- A reply performs the one access of a load, which writes its result and ends. -/
theorem homeReply_load (hm : s.msgs.find? m = some ⟨.read b sid fid 0 pa size.bytes hd none fwd refused fixed, w⟩)
    (h : Replies s b sid fid pa size.bytes hd refused fwd fixed sh f a) (hl : LoadWaits s sh f a d sx)
    (hlen : (fixed.getD (s.cohRead pa size.bytes)).length = size.bytes) :
    ∃ t shu, execHomeReply m s = .next t ∧ t.msgs.find? m = none ∧ t.mem = s.mem ∧ t.sheaf? sid = some shu ∧
      { shu with lanes := sh.lanes, regs := sh.regs, flights := sh.flights } = sh ∧
      shu.flights = sh.flights.filter (fun x => x.id != fid) ∧
      Spec.LaneLoaded sh shu d a.lane (Spec.loaded sx size.bytes
        (natOfBytes ((s.barn b).overlay pa (fixed.getD (s.cohRead pa size.bytes))))) := by
  have hbs : ((s.barn b).overlay pa (fixed.getD (s.cohRead pa size.bytes))).length = size.bytes := (length_overlay _ _ _).trans hlen
  have hrest := repliedL1_rest (s := s.dropMsg m) (b := b) (pa := pa) h.room size.bytes (replyClass s b pa) f.ctx hd
  rw [homeReply_eq hm h]
  generalize repliedL1 (s.dropMsg m) b pa size.bytes (replyClass s b pa) f.ctx a hd = t at hrest ⊢
  have hts : t.sheaf? sid = some sh := by have e := congrArg (fun x : State => x.sheaf? sid) hrest; exact Eq.trans e h.sheaf
  have htmem : t.mem = s.mem := by have e := congrArg State.mem hrest; exact e
  have htmsgs : t.msgs.find? m = none := by
    have e := congrArg State.msgs hrest
    exact (congrArg (KV.find? · m) e).trans ((kv_find_erase s.msgs m m).trans (if_pos rfl))
  have htl : LoadWaits t sh f a d sx := ⟨hl.core, hl.lane, hl.stage, hl.result, hl.acquire, hl.dst, hl.watch, fun st hst =>
    hl.merge st (by have e := congrArg (fun x : State => x.stookOf sh) hrest; exact Eq.trans e.symm hst)⟩
  rw [setAcc_markPerformed hts]
  obtain ⟨shu, hmsgs, hmem, hshu, heffect⟩ := finishReply_load h.flight h.access htl hbs (accLanes f a) (replyClass s b pa)
  exact ⟨_, shu, rfl, by rw [hmsgs]; exact htmsgs, hmem.trans htmem, hshu, heffect⟩

end

end

end Sys2Proof.Laws
end

section
/-! ## Registrations at the home (12 R210 to R212) -/

namespace Sys2Proof.Laws
open Sys2Proof Sys2Proof.Machine Sys2Proof.Safety

/-! ### The bits of a line's words -/

theorem getLsbD_wordBit (wa i : Nat) : (wordBit wa).getLsbD i = decide (wa % 32 = i) := by
  rw [wordBit, BitVec.getLsbD_ofNat, Nat.testBit_two_pow]
  by_cases h : wa % 32 = i
  · have hi : i < 32 := h ▸ Nat.mod_lt _ (by decide)
    rw [decide_eq_true hi, Bool.true_and]
  · rw [decide_eq_false h, Bool.and_false]

theorem wordBit_ne_zero (wa : Nat) : wordBit wa ≠ 0 := by
  intro h
  have hbit := getLsbD_wordBit wa (wa % 32)
  rw [h, decide_eq_true rfl] at hbit
  exact Bool.false_ne_true ((BitVec.getLsbD_zero).symm.trans hbit)

theorem wordBit_and_wordBit {x y : Nat} (hl : x / 32 = y / 32) (h : x ≠ y) : wordBit x &&& wordBit y = 0 := by
  refine BitVec.eq_of_getLsbD_eq fun i _ => ?_
  have hne : x % 32 ≠ y % 32 := fun e => h (by omega)
  rw [BitVec.getLsbD_and, getLsbD_wordBit, getLsbD_wordBit]
  refine Eq.trans ?_ BitVec.getLsbD_zero.symm
  by_cases hx : x % 32 = i
  · have hy : ¬ y % 32 = i := fun e => hne (hx.trans e.symm)
    rw [decide_eq_false hy, Bool.and_false]
  · rw [decide_eq_false hx, Bool.false_and]

theorem mem_namedFor {o : List (Nat × Word)} {bit : Word} {c : Nat} : c ∈ namedFor o bit ↔ ∃ w, (c, w) ∈ o ∧ w &&& bit ≠ 0 := by
  rw [namedFor, List.mem_map]
  constructor
  · rintro ⟨⟨x, w⟩, hx, rfl⟩
    obtain ⟨hin, hbit⟩ := List.mem_filter.mp hx
    exact ⟨w, hin, bne_iff_ne.mp hbit⟩
  · rintro ⟨w, hin, hbit⟩
    exact ⟨(c, w), List.mem_filter.mpr ⟨hin, bne_iff_ne.mpr hbit⟩, rfl⟩

/-! ### A barn recorded for a word -/

/-- Whether owner records have one of a barn. -/
def named (o : List (Nat × Word)) (b : Nat) : Bool := o.any (fun x => x.1 = b)
/-- Owner records with a word's bit for a barn. -/
def withOwner (o : List (Nat × Word)) (b : Nat) (bit : Word) : List (Nat × Word) :=
  if named o b then o.map (fun x => if x.1 = b then (b, x.2 ||| bit) else x) else o ++ [(b, bit)]

theorem namedFor_append (o p : List (Nat × Word)) (bit : Word) : namedFor (o ++ p) bit = namedFor o bit ++ namedFor p bit := by
  rw [namedFor, List.filter_append, List.map_append]; rfl

theorem namedFor_withOwner_other (o : List (Nat × Word)) (b : Nat) {bit other : Word} (h : bit &&& other = 0) :
    namedFor (withOwner o b bit) other = namedFor o other := by
  have hmap (o : List (Nat × Word)) : namedFor (o.map (fun x => if x.1 = b then (b, x.2 ||| bit) else x)) other = namedFor o other := by
    induction o with
    | nil => rfl
    | cons x o ih =>
      rw [List.map_cons, namedFor_cons, namedFor_cons, ih]
      by_cases hx : x.1 = b
      · have hand : (x.2 ||| bit) &&& other = x.2 &&& other := by
          rw [BitVec.and_comm, BitVec.and_or_distrib_left, BitVec.and_comm other bit, h, BitVec.and_comm]
          exact BitVec.or_zero
        rw [if_pos hx, hand, hx]
      · rw [if_neg hx]
  rw [withOwner]
  split
  · exact hmap o
  · rw [namedFor_append, namedFor_cons, if_pos h]
    exact List.append_nil _

/-- A word that at most this barn was named for has its record after. -/
theorem namedFor_withOwner_same {o : List (Nat × Word)} {b : Nat} {bit : Word} (hbit : bit ≠ 0) (h : ∀ c ∈ namedFor o bit, c = b) :
    b ∈ namedFor (withOwner o b bit) bit ∧ ∀ c ∈ namedFor (withOwner o b bit) bit, c = b := by
  rw [withOwner]
  split
  · next hn =>
    obtain ⟨x, hx, hxb⟩ := List.any_eq_true.mp hn
    have hxb : x.1 = b := of_decide_eq_true hxb
    refine ⟨mem_namedFor.mpr ⟨x.2 ||| bit, List.mem_map.mpr ⟨x, hx, if_pos hxb⟩, ?_⟩, fun c hc => ?_⟩
    · rw [BitVec.and_comm, BitVec.and_or_distrib_left, BitVec.and_self]
      intro h0
      exact hbit (BitVec.or_eq_zero_iff.mp h0).2
    · obtain ⟨w, hin, hw⟩ := mem_namedFor.mp hc
      obtain ⟨y, hy, he⟩ := List.mem_map.mp hin
      by_cases hyb : y.1 = b
      · rw [if_pos hyb] at he
        exact (Prod.mk.inj he).1.symm
      · rw [if_neg hyb] at he
        exact h c (mem_namedFor.mpr ⟨w, he ▸ hy, hw⟩)
  · rw [namedFor_append, namedFor_cons, if_neg (by rw [BitVec.and_self]; exact hbit)]
    refine ⟨List.mem_append_right _ List.mem_cons_self, fun c hc => ?_⟩
    rcases List.mem_append.mp hc with hc | hc
    · exact h c hc
    · exact List.mem_singleton.mp hc

theorem named_withOwner (o : List (Nat × Word)) (b : Nat) (bit : Word) : named (withOwner o b bit) b = true := by
  rw [withOwner]
  split
  · next hn =>
    obtain ⟨x, hx, hxb⟩ := List.any_eq_true.mp hn
    have hxb : x.1 = b := of_decide_eq_true hxb
    exact List.any_eq_true.mpr ⟨(b, x.2 ||| bit), List.mem_map.mpr ⟨x, hx, if_pos hxb⟩, decide_eq_true rfl⟩
  · exact List.any_eq_true.mpr ⟨(b, bit), List.mem_append_right _ List.mem_cons_self, decide_eq_true rfl⟩

/-- The state before a barn is recorded: a third barn has displaced the older of two (12 R211). -/
def displaced (s : State) (b wa : Nat) : State :=
  match (s.home (lineOf wa)).owners with
  | [o1, o2] => if o1.1 = b ∨ o2.1 = b then s else s.recallBarn (lineOf wa) o1.1
  | _ => s

/-- A barn recorded for a word at its home. -/
def withOwnerAt (s : State) (b wa : Nat) : State :=
  s.setHome (lineOf wa) { s.home (lineOf wa) with owners := withOwner (s.home (lineOf wa)).owners b (wordBit wa) }

theorem ownersAt_withOwnerAt_other (s : State) (b : Nat) {wa y : Nat} (h : y ≠ wa) : ownersAt (withOwnerAt s b wa) y = ownersAt s y := by
  rw [withOwnerAt, ownersAt_setHome]
  split
  · next hl =>
    rw [ownersAt, ← hl]
    exact namedFor_withOwner_other _ b (wordBit_and_wordBit hl h.symm)
  · rfl

theorem recordOwner_eq (s : State) (b wa : Nat) : s.recordOwner b wa = withOwnerAt (displaced s b wa) b wa := rfl

theorem homeWork_recallBarn (s : State) (line b : Nat) : HomeWork s (s.recallBarn line b) := by
  refine HomeWork.foldl (fun s wa => ?_) _ s
  split
  · exact homeWork_recallWord s wa
  · exact HomeWork.refl s

theorem homeWork_displaced (s : State) (b wa : Nat) : HomeWork s (displaced s b wa) := by
  rw [displaced]
  split
  · split
    · exact HomeWork.refl s
    · exact homeWork_recallBarn s _ _
  · exact HomeWork.refl s

/-- A barn that the line's records name displaces none. -/
theorem displaced_named {s : State} {b wa : Nat} (h : named (s.home (lineOf wa)).owners b = true) : displaced s b wa = s := by
  rw [displaced]
  split
  · next o1 o2 ho =>
    rw [ho] at h
    have h : o1.1 = b ∨ o2.1 = b := by simpa [named] using h
    rw [if_pos h]
  · rfl

/-! ### The owners of a line as a registration records its words -/

/-- Every record of a word names one barn. -/
def OwnedOnly (b : Nat) (s : State) (wa : Nat) : Prop := ∀ c ∈ ownersAt s wa, c = b

theorem HomeWork.ownedOnly {s t : State} (h : HomeWork s t) {b wa : Nat} (ho : OwnedOnly b s wa) : OwnedOnly b t wa :=
  fun c hc => ho c ((h.owners wa).subset hc)

theorem OwnedOnly.ownerOf {s : State} {b wa : Nat} (h : OwnedOnly b s wa) (hne : ownersAt s wa ≠ []) : s.ownerOf wa = some b := by
  obtain ⟨c, r, hr⟩ := List.exists_cons_of_ne_nil hne
  rw [ownerOf_eq_head, hr, List.head?_cons, h c (by rw [hr]; exact List.mem_cons_self)]

theorem ownersAt_withOwnerAt_same {s : State} {b wa : Nat} (h : OwnedOnly b s wa) :
    b ∈ ownersAt (withOwnerAt s b wa) wa ∧ OwnedOnly b (withOwnerAt s b wa) wa := by
  have hown : ownersAt (withOwnerAt s b wa) wa = namedFor (withOwner (s.home (lineOf wa)).owners b (wordBit wa)) (wordBit wa) := by
    rw [withOwnerAt, ownersAt_setHome, if_pos rfl]
  rw [OwnedOnly, hown]
  exact namedFor_withOwner_same (wordBit_ne_zero wa) h

/-- A word taken back unless a barn owns it. -/
def recallOthers (b : Nat) (s : State) (wa : Nat) : State := if s.ownerOf wa = some b then s else s.recallWord wa

theorem homeWork_recallOthers (b : Nat) (s : State) (wa : Nat) : HomeWork s (recallOthers b s wa) := by
  rw [recallOthers]
  split
  · exact HomeWork.refl s
  · exact homeWork_recallWord s wa

theorem recallOthers_only {b wa : Nat} {s : State} (h : Spec.OneOwner s wa) : OwnedOnly b (recallOthers b s wa) wa := by
  rw [recallOthers]
  split
  · next ho =>
    rw [ownerOf_eq_head] at ho
    rw [oneOwner_iff] at h
    obtain ⟨r, hr⟩ := List.head?_eq_some_iff.mp ho
    rw [hr, List.length_cons] at h
    have hnil : r = [] := List.length_eq_zero_iff.mp (by omega)
    rw [OwnedOnly, hr, hnil]
    exact fun c hc => List.mem_singleton.mp hc
  · rw [OwnedOnly, ownerOf_eq_none.mp (recallWord_clears h)]
    exact fun c hc => absurd hc List.not_mem_nil

theorem foldl_recallOthers {b wa : Nat} {l : List Nat} {s : State} (h : Spec.OneOwner s wa) (hwa : wa ∈ l) :
    OwnedOnly b (l.foldl (recallOthers b) s) wa := by
  induction l generalizing s with
  | nil => exact absurd hwa List.not_mem_nil
  | cons x l ih =>
    rw [List.foldl_cons]
    by_cases hin : wa ∈ l
    · exact ih ((homeWork_recallOthers b s x).oneOwner h) hin
    · obtain rfl : wa = x := (List.mem_cons.mp hwa).resolve_right hin
      exact (HomeWork.foldl (homeWork_recallOthers b) l _).ownedOnly (recallOthers_only h)

/-- A registration under way, some words of the line recorded: those that nobody watches have the barn as their owner, and
other words no further owner. -/
structure Recorded (b line : Nat) (ws through : List Nat) (s t : State) (done : List Nat) : Prop where
  trans : t.trans = s.trans
  fabric : t.fabric = s.fabric
  beside : ∀ y, y / 32 ≠ line → (ownersAt t y).Sublist (ownersAt s y)
  only : ∀ y ∈ ws, OwnedOnly b t y
  named : ∀ x ∈ done, x ∉ through → named (t.home line).owners b = true
  owned : ∀ y ∈ ws, y ∈ done → y ∉ through → ownersAt t y ≠ []
  watched : ∀ y ∈ through, (ownersAt t y).Sublist (ownersAt s y)

/-- One word recorded. -/
def recordWord (b : Nat) (through : List Nat) (s : State) (wa : Nat) : State :=
  let s := s.clearLost wa
  let s := if through.contains wa then s else s.recordOwner b wa
  s.setHome (lineOf wa) { s.home (lineOf wa) with last := some (.barn b) }

theorem recordWord_last (b : Nat) (through : List Nat) (s : State) (wa : Nat) :
    ((recordWord b through s wa).home (lineOf wa)).last = some (.barn b) := by
  rw [recordWord, home_setHome, if_pos rfl]

section
variable {b line : Nat} {ws through : List Nat} {s t u : State} {done : List Nat} (h : Recorded b line ws through s t done)
include h

/-- Nothing that a registration is about but the owners. -/
theorem Recorded.congr (htrans : u.trans = t.trans) (hfabric : u.fabric = t.fabric) (ho : ∀ l, (u.home l).owners = (t.home l).owners) :
    Recorded b line ws through s u done := by
  have hown (y : Nat) : ownersAt u y = ownersAt t y := by rw [ownersAt, ho]; rfl
  refine ⟨htrans.trans h.trans, hfabric.trans h.fabric, fun y hy => ?_, fun y hy => ?_, fun x hx hn => ?_, fun y hy hd hn => ?_,
    fun y hy => ?_⟩
  · rw [hown]; exact h.beside y hy
  · rw [OwnedOnly, hown]; exact h.only y hy
  · rw [ho]; exact h.named x hx hn
  · rw [hown]; exact h.owned y hy hd hn
  · rw [hown]; exact h.watched y hy

theorem Recorded.setHome {l : Nat} {v : HomeLine} (ho : v.owners = (t.home l).owners) : Recorded b line ws through s (t.setHome l v) done := by
  refine h.congr rfl rfl fun x => ?_
  rw [home_setHome]
  split
  · next e => rw [← e]; exact ho
  · rfl

/-- Words taken back before the barn is named for any of the line. -/
theorem Recorded.work (hw : HomeWork t u) (hn : ∀ x ∈ done, x ∈ through) : Recorded b line ws through s u done :=
  ⟨hw.trans_eq.trans h.trans, hw.fabric_eq.trans h.fabric, fun y hy => (hw.owners y).trans (h.beside y hy),
    fun y hy => hw.ownedOnly (h.only y hy), fun x hx hx' => absurd (hn x hx) hx', fun _ _ hd hx' => absurd (hn _ hd) hx',
    fun y hy => (hw.owners y).trans (h.watched y hy)⟩

/-- The record itself. -/
theorem Recorded.withOwner {wa : Nat} (hl : wa / 32 = line) (hwa : wa ∉ through) :
    Recorded b line ws through s (withOwnerAt t b wa) (wa :: done) := by
  have hself (hin : wa ∈ ws) := ownersAt_withOwnerAt_same (h.only wa hin)
  refine ⟨h.trans, h.fabric, fun y hy => ?_, fun y hy => ?_, fun x hx hn => ?_, fun y hy hd hn => ?_, fun y hy => ?_⟩
  · rw [ownersAt_withOwnerAt_other t b (fun e => hy (by rw [e]; exact hl))]; exact h.beside y hy
  · by_cases hyw : y = wa
    · rw [hyw] at hy ⊢
      exact (hself hy).2
    · rw [OwnedOnly, ownersAt_withOwnerAt_other t b hyw]; exact h.only y hy
  · rw [withOwnerAt, lineOf, hl, home_setHome, if_pos rfl]
    exact named_withOwner _ b _
  · by_cases hyw : y = wa
    · rw [hyw] at hy ⊢
      exact List.ne_nil_of_mem (hself hy).1
    · rw [ownersAt_withOwnerAt_other t b hyw]
      exact h.owned y hy ((List.mem_cons.mp hd).resolve_left hyw) hn
  · rw [ownersAt_withOwnerAt_other t b (fun e => hwa (by rw [← e]; exact hy))]
    exact h.watched y hy

/-- A word that somebody watches gets no owner. -/
theorem Recorded.watchedWord {wa : Nat} (hwa : wa ∈ through) : Recorded b line ws through s t (wa :: done) :=
  ⟨h.trans, h.fabric, h.beside, h.only, fun x hx hn => h.named x ((List.mem_cons.mp hx).resolve_left fun e => hn (e ▸ hwa)) hn,
    fun y hy hd hn => h.owned y hy ((List.mem_cons.mp hd).resolve_left fun e => hn (e ▸ hwa)) hn, h.watched⟩

theorem Recorded.recordOwner {wa : Nat} (hl : wa / 32 = line) (hwa : wa ∉ through) :
    Recorded b line ws through s (t.recordOwner b wa) (wa :: done) := by
  have hdis : Recorded b line ws through s (displaced t b wa) done := by
    cases hn : Laws.named (t.home line).owners b with
    | true => rw [displaced_named (by rw [lineOf, hl]; exact hn)]; exact h
    | false =>
      refine h.work (homeWork_displaced t b wa) fun x hx => ?_
      by_contra hx'
      rw [h.named x hx hx'] at hn
      exact Bool.noConfusion hn
  rw [recordOwner_eq]
  exact hdis.withOwner hl hwa

theorem Recorded.recordWord {wa : Nat} (hl : wa / 32 = line) :
    Recorded b line ws through s (recordWord b through t wa) (wa :: done) := by
  have hclear : Recorded b line ws through s (t.clearLost wa) done := h.setHome rfl
  rw [Laws.recordWord]
  refine Recorded.setHome ?_ rfl
  by_cases hwa : wa ∈ through
  · rw [if_pos (List.contains_iff_mem.mpr hwa)]
    exact hclear.watchedWord hwa
  · rw [if_neg fun e => hwa (List.contains_iff_mem.mp e)]
    exact hclear.recordOwner hl hwa

end

theorem Recorded.foldl {b line : Nat} {ws through : List Nat} {s : State} (l : List Nat)
    (hl : ∀ x ∈ l, x / 32 = line) : ∀ {t : State} {done : List Nat}, Recorded b line ws through s t done →
      Recorded b line ws through s (l.foldl (Laws.recordWord b through) t) (l.reverse ++ done) := by
  induction l with
  | nil => exact fun h => h
  | cons x l ih =>
    intro t done h
    rw [List.foldl_cons, List.reverse_cons, List.append_assoc]
    exact ih (fun y hy => hl y (List.mem_cons_of_mem _ hy)) (h.recordWord (hl x List.mem_cons_self))

theorem foldl_recordWord_last {b line : Nat} (through : List Nat) {l : List Nat} (hne : l ≠ []) (hl : ∀ x ∈ l, x / 32 = line) (s : State) :
    ((l.foldl (recordWord b through) s).home line).last = some (.barn b) := by
  obtain ⟨l, x, rfl⟩ := (List.eq_nil_or_concat l).resolve_left hne
  have hx : lineOf x = line := hl x (by simp)
  rw [List.concat_eq_append, List.foldl_append, List.foldl_cons, List.foldl_nil, ← hx]
  exact recordWord_last b through _ x

/-! ### What follows the owners -/

/-- What the homes keep of their lines, the translation and the fabric stay. -/
structure HomesKept (s t : State) : Prop where
  homes : t.homes = s.homes
  trans : t.trans = s.trans
  fabric : t.fabric = s.fabric

theorem HomesKept.refl (s : State) : HomesKept s s := ⟨rfl, rfl, rfl⟩

theorem HomesKept.comp {s t u : State} (h : HomesKept s t) (h' : HomesKept t u) : HomesKept s u :=
  ⟨h'.homes.trans h.homes, h'.trans.trans h.trans, h'.fabric.trans h.fabric⟩

theorem HomesKept.foldl {α : Type} {f : State → α → State} (hf : ∀ s a, HomesKept s (f s a)) (l : List α) (s : State) :
    HomesKept s (l.foldl f s) :=
  List.foldlRecOn l f (HomesKept.refl s) fun t ht a _ => ht.comp (hf t a)

theorem homesKept_notify (s : State) (wa : Nat) : HomesKept s (s.notify wa) :=
  ⟨notify_homes s wa, (homeWork_notify s wa).trans_eq, (homeWork_notify s wa).fabric_eq⟩

theorem homesKept_recordWrite (s : State) (b : Nat) (ws : List Nat) (n : Nat) : HomesKept s (s.recordWrite b ws n) := by
  refine HomesKept.comp ?_ (HomesKept.foldl homesKept_notify ws _)
  refine HomesKept.foldl (fun s wa => ?_) ws s
  split
  · exact ⟨rfl, rfl, rfl⟩
  · exact HomesKept.refl s

theorem homesKept_wroteThrough (s : State) (b wa : Nat) : HomesKept s (s.wroteThrough b wa) := by
  rw [State.wroteThrough]
  split
  · exact ⟨rfl, rfl, rfl⟩
  · exact HomesKept.refl s

theorem homesKept_dropLog (s : State) (b wa : Nat) : HomesKept s (s.dropLog b wa) := by
  rw [State.dropLog]
  split
  · split
    · exact HomesKept.refl s
    · exact ⟨rfl, rfl, rfl⟩
  · exact HomesKept.refl s

/-- The owners of a registration's words, as its home records them. -/
def ownersRecorded (s : State) (b : Nat) (ws : List Nat) : State :=
  ws.foldl (recordWord b (ws.filter (fun wa => s.watched wa))) (ws.foldl (recallOthers b) s)

theorem recordWords_kept (s : State) (b : Nat) (ws : List Nat) : HomesKept (ownersRecorded s b ws) (s.recordWords b ws) := by
  refine HomesKept.comp ?_ (HomesKept.foldl (fun s wa => (homesKept_dropLog s b wa).comp (homesKept_notify _ wa)) ws _)
  refine HomesKept.comp ?_ (HomesKept.foldl (fun s wa => homesKept_wroteThrough s b wa) _ _)
  exact HomesKept.foldl (fun s n => homesKept_recordWrite s b _ n) _ _

/-! ### The marks of the pages written -/

theorem foldl_dirtyMark {ctx pte hd line : Nat} {l : List Nat} {s : State}
    (he : ∀ x ∈ l, Spec.MarksElsewhere s ctx pte (4 * x) line) :
    Elsewhere line s (l.foldl (fun (s : State) x => s.dirtyMark ctx pte (4 * x) hd) s) := by
  refine List.foldlRecOn (motive := Elsewhere line s) l _ (Elsewhere.refl line s) fun t ht x hx => ?_
  exact ht.trans (elsewhere_dirtyMark hd (ht.work.marksElsewhere (he x hx)))

/-- Marks lie elsewhere also where only the line's own words have got owners. -/
theorem marksElsewhere_beside {s t : State} {ctx pte pa line : Nat} (htrans : t.trans = s.trans) (hfabric : t.fabric = s.fabric)
    (ho : ∀ y, y / 32 ≠ line → s.ownerOf y = none → t.ownerOf y = none) (he : Spec.MarksElsewhere s ctx pte pa line) :
    Spec.MarksElsewhere t ctx pte pa line := by
  have hplace (a : Nat) : t.place a = s.place a := by rw [State.place, State.place, hfabric]
  obtain ⟨hpte, e, hcache, hmap⟩ := he
  refine ⟨fun h0 => ?_, e, by rw [htrans]; exact hcache, fun off hoff h0 => ?_⟩
  · obtain ⟨hne, hn⟩ := hpte h0
    rw [hplace]
    exact ⟨hne, ho _ (by omega) hn⟩
  · rw [hplace] at hoff
    obtain ⟨hne, hn⟩ := hmap off hoff h0
    dsimp only
    rw [hplace]
    exact ⟨hne, ho _ (by omega) hn⟩

end Sys2Proof.Laws
end

section
namespace Sys2Proof.Laws
open Sys2Proof Sys2Proof.Machine Sys2Proof.Safety

/-! ### A registration recorded -/

theorem xor_one_line (x : Nat) : Nat.xor x 1 / 32 = x / 32 := by
  have h : (x ^^^ 1) >>> 5 = x >>> 5 ^^^ 1 >>> 5 := Nat.shiftRight_xor_distrib
  have h1 : x >>> 5 ^^^ 1 >>> 5 = x >>> 5 := Nat.xor_zero _
  rw [h1, Nat.shiftRight_eq_div_pow, Nat.shiftRight_eq_div_pow] at h
  exact h

theorem mem_withPair {s : State} {b : Nat} {ws : List Nat} {x : Nat} (h : x ∈ s.withPair b ws) : x ∈ ws ∨ ∃ y ∈ ws, x = Nat.xor y 1 := by
  rcases List.mem_append.mp h with h | h
  · exact Or.inl h
  · obtain ⟨y, hy, rfl⟩ := List.mem_map.mp (List.mem_filter.mp h).1
    exact Or.inr ⟨y, hy, rfl⟩

theorem withPair_line {s : State} {b line : Nat} {ws : List Nat} (h : ∀ y ∈ ws, y / 32 = line) {x : Nat} (hx : x ∈ s.withPair b ws) :
    x / 32 = line := by
  rcases mem_withPair hx with hx | ⟨y, hy, rfl⟩
  · exact h x hx
  · exact (xor_one_line y).trans (h y hy)

section
variable {s : State} {b line : Nat} {ws : List Nat}

/-- The owners of a line once a registration of some of its words, and their pairs, has been recorded. -/
theorem ownersRecorded_owners (hl : ∀ y ∈ ws, y / 32 = line) (h1 : ∀ y ∈ ws, Spec.OneOwner s y) :
    Recorded b line ws ((s.withPair b ws).filter (fun wa => s.watched wa)) s (ownersRecorded s b (s.withPair b ws))
      ((s.withPair b ws).reverse ++ []) := by
  have hcalls : HomeWork s ((s.withPair b ws).foldl (recallOthers b) s) := HomeWork.foldl (homeWork_recallOthers b) _ s
  refine Recorded.foldl _ (fun x hx => withPair_line hl hx) ⟨hcalls.trans_eq, hcalls.fabric_eq, fun y _ => hcalls.owners y, fun y hy => ?_,
    fun x hx => absurd hx List.not_mem_nil, fun y _ hd => absurd hd List.not_mem_nil, fun y _ => hcalls.owners y⟩
  exact foldl_recallOthers (h1 y hy) (List.mem_append_left _ hy)

/-- A registration recorded: each word that nobody watches has its barn as owner, a watched word without owner keeps none. -/
theorem recordRegs_owners {hd ctx pte : Nat} (hne : ws ≠ []) (hl : ∀ y ∈ ws, y / 32 = line) (h1 : ∀ y ∈ ws, Spec.OneOwner s y)
    (he : ∀ y ∈ ws, Spec.MarksElsewhere s ctx pte (4 * y) line) :
    ((s.recordRegs b ws hd ctx pte).home line).last = some (.barn b) ∧
      (∀ y ∈ ws, s.watched y = false → (s.recordRegs b ws hd ctx pte).ownerOf y = some b) ∧
      ∀ y ∈ ws, s.watched y = true → s.ownerOf y = none → (s.recordRegs b ws hd ctx pte).ownerOf y = none := by
  have hrec := ownersRecorded_owners (b := b) hl h1
  have hmem (y : Nat) (hy : y ∈ ws) : y ∈ s.withPair b ws := List.mem_append_left _ hy
  have hlast : ((ownersRecorded s b (s.withPair b ws)).home line).last = some (.barn b) :=
    foldl_recordWord_last _ (fun e => hne (List.append_eq_nil_iff.mp e).1) (fun x hx => withPair_line hl hx) _
  have hkept := recordWords_kept s b (s.withPair b ws)
  rw [State.recordRegs]
  generalize ownersRecorded s b (s.withPair b ws) = t at hrec hlast hkept
  generalize s.recordWords b (s.withPair b ws) = u at hkept ⊢
  have hhome (l : Nat) : u.home l = t.home l := by rw [State.home, State.home, hkept.homes]
  have hrec := hrec.congr hkept.trans hkept.fabric fun l => by rw [hhome]
  have hlast : (u.home line).last = some (.barn b) := by rw [hhome]; exact hlast
  have hunowned (y : Nat) (hy : y / 32 ≠ line) (ho : s.ownerOf y = none) : u.ownerOf y = none := by
    rw [ownerOf_eq_none] at ho ⊢
    exact List.sublist_nil.mp (ho ▸ hrec.beside y hy)
  have hmarks := foldl_dirtyMark (s := u) (hd := hd) (l := ws) fun y hy => marksElsewhere_beside hrec.trans hrec.fabric hunowned (he y hy)
  refine ⟨by rw [hmarks.home]; exact hlast, fun y hy hw => ?_, fun y hy hw ho => ?_⟩
  · rw [hmarks.ownerOf]
    refine (hrec.only y hy).ownerOf (hrec.owned y hy ?_ fun e => ?_)
    · rw [List.append_nil, List.mem_reverse]; exact hmem y hy
    · rw [(List.mem_filter.mp e).2] at hw; exact Bool.noConfusion hw
  · rw [hmarks.ownerOf]
    rw [ownerOf_eq_none] at ho ⊢
    exact List.sublist_nil.mp (ho ▸ hrec.watched y (List.mem_filter.mpr ⟨hmem y hy, hw⟩))

/-- A registration that nothing holds back is recorded. -/
theorem registration_recorded {m wa n hd ctx pte : Nat} {w : List (Nat × LaneSet)}
    (hm : s.msgs.find? m = some ⟨.reg b wa n hd ctx pte false, w⟩) (hh : s.hostHolds (4 * wa) = false) (hd' : s.dieWaits hd = false)
    (ht : ∀ j < n, s.thirdRead (wa + j) = false ∧ s.thirdRead (Nat.xor (wa + j) 1) = false) :
    execRegistration m s = .next { s.recordRegs b ((List.range n).map (· + wa)) hd ctx pte with
      msgs := (s.recordRegs b ((List.range n).map (· + wa)) hd ctx pte).msgs.put m ⟨.reg b wa n hd ctx pte true, w⟩ } := by
  have hthird : (s.withPair b ((List.range n).map (· + wa))).any (fun x => s.thirdRead x) = false := any_eq_false_of fun x hx => by
    have hword (y : Nat) (hy : y ∈ (List.range n).map (· + wa)) : s.thirdRead y = false ∧ s.thirdRead (Nat.xor y 1) = false := by
      obtain ⟨j, hj, rfl⟩ := List.mem_map.mp hy
      rw [Nat.add_comm]
      exact ht j (List.mem_range.mp hj)
    rcases mem_withPair hx with hx | ⟨y, hy, rfl⟩
    · exact (hword x hx).1
    · exact (hword y hy).2
  rw [execRegistration, hm]
  dsimp only
  rw [hh, hd', hthird, if_neg (by decide)]

end

end Sys2Proof.Laws

namespace Sys2Proof.Proofs
open Sys2Proof Sys2Proof.Machine Sys2Proof.Safety Sys2Proof.Laws

/-- Settles O47: what the home records names its owners; other steps take owners away and leave the values. -/
theorem ownershipSteps : Obligations.OwnershipSteps := by
  unfold Obligations.OwnershipSteps
  refine ⟨fun s m b wa n hd ctx pte w hm hh hd' hn hline _ hwords => ?_, fun s m b wa n hd ctx pte w hm => ?_,
    fun s b line words h1 => ?_, fun s m b sid f acc pa n hd acq o refused w hm => ⟨fun ho => ?_, fun ho => ?_⟩,
    fun s m b sid fid pa hd fwd refused fixed w sh f a sx g d ra size scope off hm hready hdie hmod hlost hpoison hs hcore hf ha hlane hstage hwf
      hi hroom hw hmerge hlen => ?_,
    fun s m b sid fid pa n hd ctx pte o lanes w sh f hm hpeer hhost hdie hs hf hw hpoison hwords ho => ?_,
    fun s m b line w e hm he => ?_, fun s b line hg hw => ⟨fun hfull => ?_, fun ho hfull => ?_, fun ho hfull => ?_⟩,
    fun s b addr g hg hh ho hwords => ?_, fun s line h1 => l2LineEviction_effect h1⟩
  · have hmem {y : Nat} (hy : y ∈ (List.range n).map (· + wa)) : ∃ j < n, y = wa + j := by
      obtain ⟨j, hj, rfl⟩ := List.mem_map.mp hy
      exact ⟨j, List.mem_range.mp hj, Nat.add_comm _ _⟩
    have hin (j : Nat) (hj : j < n) : wa + j ∈ (List.range n).map (· + wa) :=
      List.mem_map.mpr ⟨j, List.mem_range.mpr hj, Nat.add_comm _ _⟩
    obtain ⟨hlast, hown, hnone⟩ := recordRegs_owners (s := s) (b := b) (line := wa / 32) (ws := (List.range n).map (· + wa)) (hd := hd)
      (ctx := ctx) (pte := pte) (List.ne_nil_of_mem (hin 0 (by omega)))
      (fun y hy => by obtain ⟨j, hj, rfl⟩ := hmem hy; omega)
      (fun y hy => by obtain ⟨j, hj, rfl⟩ := hmem hy; exact (hwords j hj).2.1)
      (fun y hy => by obtain ⟨j, hj, rfl⟩ := hmem hy; exact (hwords j hj).2.2.2)
    exact ⟨_, registration_recorded hm hh hd' fun j hj => ⟨(hwords j hj).1, (hwords j hj).2.2.1⟩, kv_find_put_self _ m _, hlast,
      fun j hj => hown _ (hin j hj), fun h0 => hnone _ (hin 0 (by omega)) h0⟩
  · exact ⟨_, registrationAck_gone hm, rfl, rfl⟩
  · refine ⟨_, ownerRecall_eq b line words s, fun hw => ((HomeWork.foldl (homeWork_recallFrom b line) _ s).quiet hw).2,
      fun j hj hbit => ?_⟩
    exact foldl_recallFrom (fun i hi => h1 i (List.mem_range.mp (List.mem_filter.mp hi).1))
      (List.mem_filter.mpr ⟨List.mem_range.mpr hj, hbit⟩)
  · exact ⟨_, forwardedRead_owned hm ho, rfl, kv_find_put_self _ m _⟩
  · exact ⟨_, readRefusal_unowned hm ho, rfl, kv_find_put_self _ m _⟩
  · obtain ⟨-, -, -, hres, hacq, hd, -⟩ := laneLoad_kind hi hwf
    have hacq : acqScope f.instr = none := Option.not_isSome_iff_eq_none.mp (by rw [hacq]; exact Bool.false_ne_true)
    exact homeReply_load hm ⟨hready, hdie, hmod, hlost, hpoison, hs, hf, ha, hroom⟩ ⟨hcore, hlane, hstage, hres, hacq, hd, hw, hmerge⟩ hlen
  · exact ⟨_, rfl, atomicAtHome_effect hm hpeer hhost hdie hs hf hw hpoison hwords ho⟩
  · obtain ⟨hgone, hevict⟩ := recordWb_effect he
    exact ⟨_, writeBack_recorded hm, hgone, hevict, fun hw => ((homeWork_recordWb s b m).quiet hw).2⟩
  · exact l1Eviction_full hg hw hfull
  · exact ⟨_, l1Eviction_dropped hg hw hfull ho, wordsOnly_setBarn s b _, congrArg Barn.words (lineDropped_barn s b line)⟩
  · have hb := lineBuffered_barn s b line ((lineWords s b line).filter (fun e => e.2.owned))
    exact ⟨_, l1Eviction_buffered hg hw hfull ho, rfl, rfl, congrArg Barn.words hb, congrArg Barn.evict hb, kv_find_put_self _ s.nextId _⟩
  · exact ⟨_, rfl, publish_effect hg hh (fun wa hwa => (hwords wa hwa).1) ho fun wa hwa => (hwords wa hwa).2⟩

end Sys2Proof.Proofs
end

section
/-! ## Stores into an L1 (12 R210, R226) -/

namespace Sys2Proof.Laws
open Sys2Proof Sys2Proof.Machine Sys2Proof.Safety

/-! ### The part of an access that falls in one word -/

/-- Bits or-ed together where a condition holds. -/
theorem foldl_or_pair {m n : Nat} (c : Nat → Bool) (f : Nat → BitVec m) (g : Nat → BitVec n) (l : List Nat) (x : BitVec m) (y : BitVec n) :
    let r := l.foldl (fun (acc : BitVec m × BitVec n) i => if c i then (acc.1 ||| f i, acc.2 ||| g i) else acc) (x, y)
    (∀ i, r.1.getLsbD i = (x.getLsbD i || l.any (fun j => c j && (f j).getLsbD i))) ∧
      ∀ i, r.2.getLsbD i = (y.getLsbD i || l.any (fun j => c j && (g j).getLsbD i)) := by
  induction l generalizing x y with
  | nil => exact ⟨fun i => (Bool.or_false _).symm, fun i => (Bool.or_false _).symm⟩
  | cons j l ih =>
    rw [List.foldl_cons]
    by_cases hc : c j = true
    · rw [if_pos hc]
      obtain ⟨h1, h2⟩ := ih (x ||| f j) (y ||| g j)
      refine ⟨fun i => (h1 i).trans ?_, fun i => (h2 i).trans ?_⟩
      · rw [BitVec.getLsbD_or, List.any_cons, hc, Bool.true_and, Bool.or_assoc]
      · rw [BitVec.getLsbD_or, List.any_cons, hc, Bool.true_and, Bool.or_assoc]
    · rw [if_neg hc]
      obtain ⟨h1, h2⟩ := ih x y
      refine ⟨fun i => (h1 i).trans ?_, fun i => (h2 i).trans ?_⟩
      · rw [List.any_cons, Bool.eq_false_of_not_eq_true hc, Bool.false_and, Bool.false_or]
      · rw [List.any_cons, Bool.eq_false_of_not_eq_true hc, Bool.false_and, Bool.false_or]

/-- Whether byte j of a word is one of an access's bytes. -/
def inPart (pa n wa j : Nat) : Bool := decide (pa ≤ 4 * wa + j ∧ 4 * wa + j < pa + n)

theorem any_place {c d : Nat → Bool} {i : Nat} (hi : i < 4) : (List.range 4).any (fun j => c j && (decide (j = i) && d j)) = (c i && d i) := by
  cases h : c i && d i with
  | true => exact List.any_eq_true.mpr ⟨i, List.mem_range.mpr hi, by rw [decide_eq_true rfl, Bool.true_and]; exact h⟩
  | false =>
    refine List.any_eq_false.mpr fun j _ => ?_
    by_cases hj : j = i
    · rw [hj, decide_eq_true rfl, Bool.true_and, h]; exact Bool.false_ne_true
    · rw [decide_eq_false hj, Bool.false_and, Bool.and_false]; exact Bool.false_ne_true

theorem wordPart_spec (pa : Nat) (bs : List Byte) (wa : Nat) {j : Nat} (hj : j < 4) :
    (wordPart pa bs wa).1.getLsbD j = inPart pa bs.length wa j ∧
      (inPart pa bs.length wa j = true → wordByte (wordPart pa bs wa).2 j = bs.getD (4 * wa + j - pa) 0) := by
  have hfold : wordPart pa bs wa = (List.range 4).foldl (fun (acc : BitVec 4 × Word) i => if inPart pa bs.length wa i then
      (acc.1 ||| BitVec.ofNat 4 (2 ^ i), acc.2 ||| ((bs.getD (4 * wa + i - pa) 0).zeroExtend 32) <<< (8 * i)) else acc) (0, 0) := by
    rw [wordPart]
    refine List.foldl_ext _ _ _ fun acc i _ => ?_
    by_cases hc : pa ≤ 4 * wa + i ∧ 4 * wa + i < pa + bs.length
    · rw [inPart, decide_eq_true hc]; exact if_pos hc
    · rw [inPart, decide_eq_false hc]; exact if_neg hc
  obtain ⟨h1, h2⟩ := foldl_or_pair (inPart pa bs.length wa) (fun i => BitVec.ofNat 4 (2 ^ i))
    (fun i => ((bs.getD (4 * wa + i - pa) 0).zeroExtend 32) <<< (8 * i)) (List.range 4) (0 : BitVec 4) (0 : Word)
  rw [hfold]
  constructor
  · have hbit (i : Nat) : (BitVec.ofNat 4 (2 ^ i)).getLsbD j = (decide (i = j) && true) := by
      rw [BitVec.getLsbD_ofNat, Nat.testBit_two_pow, decide_eq_true hj, Bool.true_and, Bool.and_true]
    refine (h1 j).trans ?_
    simp only [hbit]
    rw [any_place (d := fun _ => true) hj, Bool.and_true]
    exact congrArg (· || _) BitVec.getLsbD_zero
  · intro hin
    refine BitVec.eq_of_getLsbD_eq fun i hi => ?_
    rw [wordByte, BitVec.getLsbD_extractLsb', decide_eq_true hi, Bool.true_and]
    refine (h2 _).trans ?_
    have hbit (x : Nat) := getLsbD_placed (bs.getD (4 * wa + x - pa) 0) x j i hj hi
    simp only [hbit]
    rw [any_place (d := fun x => (bs.getD (4 * wa + x - pa) 0).getLsbD i) hj, hin, Bool.true_and]
    exact congrArg (· || _) BitVec.getLsbD_zero

theorem wordByte_mergeWord (old new : Word) (mask : BitVec 4) {j : Nat} (hj : j < 4) :
    wordByte (mergeWord old new mask) j = if mask.getLsbD j then wordByte new j else wordByte old j := by
  obtain ⟨h0, h1, h2, h3⟩ := wordByte_append4 (if mask.getLsbD 0 then wordByte new 0 else wordByte old 0)
    (if mask.getLsbD 1 then wordByte new 1 else wordByte old 1) (if mask.getLsbD 2 then wordByte new 2 else wordByte old 2)
    (if mask.getLsbD 3 then wordByte new 3 else wordByte old 3)
  rw [mergeWord]
  interval_cases j
  · exact h0
  · exact h1
  · exact h2
  · exact h3

/-! ### One word stored -/

/-- A word of the L1 after the write of some of its bytes: owned, those bytes there, others kept where it was owned before. -/
structure WordStored (x : Option L1Word) (mask : BitVec 4) (w : Word) (y : L1Word) : Prop where
  owned : y.owned = true
  bytes : ∀ j < 4, mask.getLsbD j = true → y.written.getLsbD j = true ∧ wordByte y.bytes j = wordByte w j
  kept : ∀ z, x = some z → z.owned = true → ∀ j < 4, mask.getLsbD j = false → z.written.getLsbD j = true →
    y.written.getLsbD j = true ∧ wordByte y.bytes j = wordByte z.bytes j

/-- Nothing but L1s, messages and their names differs, and a message under way stays what it is, for whoever waits for it. -/
structure StoreWork (s t : State) : Prop where
  frame : { t with barns := s.barns, msgs := s.msgs, nextId := s.nextId } = s
  later : s.nextId ≤ t.nextId
  kept : ∀ m < s.nextId, ∀ e, s.msgs.find? m = some e → ∃ e', t.msgs.find? m = some e' ∧ e'.msg = e.msg

theorem StoreWork.refl (s : State) : StoreWork s s := ⟨rfl, Nat.le_refl _, fun _ _ e h => ⟨e, h, rfl⟩⟩

theorem StoreWork.trans {s t u : State} (h : StoreWork s t) (h' : StoreWork t u) : StoreWork s u where
  frame := (congrArg (fun x : State => { x with barns := s.barns, msgs := s.msgs, nextId := s.nextId }) h'.frame).trans h.frame
  later := h.later.trans h'.later
  kept m hm e he := by
    obtain ⟨e1, h1, hmsg1⟩ := h.kept m hm e he
    obtain ⟨e2, h2, hmsg2⟩ := h'.kept m (hm.trans_le h.later) e1 h1
    exact ⟨e2, h2, hmsg2.trans hmsg1⟩

theorem storeWork_setBarn (s : State) (b : Nat) (v : Barn) : StoreWork s (s.setBarn b v) := ⟨rfl, Nat.le_refl _, fun _ _ e h => ⟨e, h, rfl⟩⟩

theorem storeWork_joinReg (s : State) (b wa sid : Nat) (lanes : LaneSet) : StoreWork s (joinReg s b wa sid lanes) := by
  rw [joinReg]
  split
  · next n hn =>
    split
    · next e he =>
      refine ⟨rfl, Nat.le_refl _, fun m _ e' he' => ?_⟩
      rw [kv_find_put]
      by_cases hm : n = m
      · subst hm
        rw [he] at he'
        rw [if_pos rfl]
        exact ⟨_, rfl, by rw [← Option.some.inj he']⟩
      · rw [if_neg hm]
        exact ⟨e', he', rfl⟩
    · exact StoreWork.refl s
  · exact StoreWork.refl s

theorem Sends.storeWork {s t : State} (h : Sends s t) : StoreWork s t where
  frame := (congrArg (fun x : State => { x with barns := s.barns }) h.frame)
  later := h.later
  kept m hm e he := ⟨e, (h.kept m hm).trans he, rfl⟩

theorem joinReg_barn (s : State) (b wa sid : Nat) (lanes : LaneSet) (c : Nat) : (joinReg s b wa sid lanes).barn c = s.barn c := by
  obtain ⟨ms, hms⟩ := joinReg_msgs s b wa sid lanes
  rw [hms]; rfl

/-- What one word's write does to a barn. -/
structure StoredIn (b wa : Nat) (mask : BitVec 4) (w : Word) (s t : State) : Prop where
  work : StoreWork s t
  word : ∃ y, WordStored ((s.barn b).words.find? wa) mask w y ∧ t.barn b = { s.barn b with words := (s.barn b).words.put wa y }

theorem l1StoreWord_stored (s : State) {core : Nat} (he : (s.barn (barnOf core)).evict = []) (wa n : Nat) (mask : BitVec 4) (w : Word)
    (ctx pte hd sid : Nat) (lanes : LaneSet) : StoredIn (barnOf core) wa mask w s (s.l1StoreWord core wa n mask w ctx pte hd [] sid lanes).1 ∧
      (s.l1StoreWord core wa n mask w ctx pte hd [] sid lanes).2 = !ownsWord (s.barn (barnOf core)) wa := by
  have hfirst : s.wbFirst (barnOf core) wa = s := by rw [State.wbFirst, he]; rfl
  have hbytes (v : BitVec 4) (old : Word) (j : Nat) (hj : j < 4) (hm : mask.getLsbD j = true) :
      (v ||| mask).getLsbD j = true ∧ wordByte (mergeWord old w mask) j = wordByte w j := by
    rw [BitVec.getLsbD_or, hm, Bool.or_true, wordByte_mergeWord old w mask hj, if_pos hm]
    exact ⟨rfl, rfl⟩
  rw [State.l1StoreWord, hfirst, ownsWord]
  cases hx : (s.barn (barnOf core)).words.find? wa with
  | none =>
    rw [Option.getD_none]
    dsimp only
    rw [if_neg Bool.false_ne_true, if_neg (fun h => h rfl)]
    refine ⟨⟨storeWork_setBarn s _ _, _, ⟨rfl, fun j hj hm => hbytes _ _ j hj hm, fun z hz => absurd hz (by rw [hx]; nofun)⟩,
      (barn_setBarn _ _ _ _).trans (if_pos rfl)⟩, rfl⟩
  | some x =>
    rw [Option.getD_some]
    dsimp only
    by_cases ho : x.owned = true
    · rw [if_pos ho, ho]
      refine ⟨⟨(storeWork_setBarn s _ _).trans (storeWork_joinReg _ (barnOf core) wa sid lanes), _, ?_,
        (joinReg_barn _ (barnOf core) wa sid lanes _).trans ((barn_setBarn _ _ _ _).trans (if_pos rfl))⟩, rfl⟩
      refine ⟨rfl, fun j hj hm => hbytes _ _ j hj hm, fun z hz _ j hj hm hw => ?_⟩
      rw [hx] at hz
      rw [← Option.some.inj hz] at hw ⊢
      refine ⟨?_, ?_⟩
      · rw [BitVec.getLsbD_or, hw, Bool.true_or]
      · rw [wordByte_mergeWord _ _ _ hj, if_neg (by rw [hm]; exact Bool.false_ne_true)]
    · rw [if_neg ho, if_neg (fun h => h rfl), Bool.eq_false_of_not_eq_true ho]
      refine ⟨⟨storeWork_setBarn s _ _, _, ⟨rfl, fun j hj hm => hbytes _ _ j hj hm, fun z hz hzo => ?_⟩,
        (barn_setBarn _ _ _ _).trans (if_pos rfl)⟩, rfl⟩
      rw [hx] at hz
      exact absurd (Option.some.inj hz ▸ hzo) ho

end Sys2Proof.Laws
end

section
namespace Sys2Proof.Laws
open Sys2Proof Sys2Proof.Machine Sys2Proof.Safety

/-! ### The words of one access -/

/-- The words of an access stored so far. -/
structure PartStored (b pa : Nat) (bs : List Byte) (ws : List Nat) (s t : State) : Prop where
  work : StoreWork s t
  barn : { t.barn b with words := (s.barn b).words } = s.barn b
  other : ∀ wa, wa ∉ ws → (t.barn b).words.find? wa = (s.barn b).words.find? wa
  word : ∀ wa ∈ ws, ∃ y, (t.barn b).words.find? wa = some y ∧
    WordStored ((s.barn b).words.find? wa) (wordPart pa bs wa).1 (wordPart pa bs wa).2 y
  lines : ∀ p : Nat → Bool, (∀ wa ∈ ws, p (wa / 32) = true) → (s.barn b).words.all (fun e => p (e.1 / 32)) = true →
    (t.barn b).words.all (fun e => p (e.1 / 32)) = true

section
variable {b pa : Nat} {bs : List Byte} {ws : List Nat} {s t u : State} (h : PartStored b pa bs ws s t)
include h

theorem PartStored.evict : (t.barn b).evict = (s.barn b).evict := by have e := congrArg Barn.evict h.barn; exact e
theorem PartStored.gather : (t.barn b).gather = (s.barn b).gather := by have e := congrArg Barn.gather h.barn; exact e

theorem PartStored.ownsWord_other {wa : Nat} (hwa : wa ∉ ws) : ownsWord (t.barn b) wa = ownsWord (s.barn b) wa := by
  rw [ownsWord_eq, ownsWord_eq, h.other wa hwa]

theorem PartStored.ownsWord {wa : Nat} (hwa : wa ∈ ws) : ownsWord (t.barn b) wa = true := by
  obtain ⟨y, hy, hst⟩ := h.word wa hwa
  rw [ownsWord_eq, hy, Option.map_some, Option.getD_some, hst.owned]

/-- One word more. -/
theorem PartStored.store {wa : Nat} (hwa : wa ∉ ws) (hu : StoredIn b wa (wordPart pa bs wa).1 (wordPart pa bs wa).2 t u) :
    PartStored b pa bs (wa :: ws) s u := by
  obtain ⟨y, hy, hb⟩ := hu.word
  have hfind (x : Nat) : (u.barn b).words.find? x = if wa = x then some y else (t.barn b).words.find? x := by
    rw [hb]; exact kv_find_put _ wa x y
  refine ⟨h.work.trans hu.work, ?_, fun x hx => ?_, fun x hx => ?_, fun p hp hall => ?_⟩
  · rw [hb]; exact h.barn
  · rw [hfind, if_neg (fun e => hx (by rw [e]; exact List.mem_cons_self)), h.other x fun e => hx (List.mem_cons_of_mem _ e)]
  · rw [hfind]
    by_cases hx' : wa = x
    · subst hx'
      rw [h.other wa hwa] at hy
      exact ⟨y, if_pos rfl, hy⟩
    · rw [if_neg hx']
      exact h.word x ((List.mem_cons.mp hx).resolve_left fun e => hx' e.symm)
  · rw [hb]
    exact kv_all_put (fun e => p (e.1 / 32)) wa y _ (hp wa List.mem_cons_self)
      (h.lines p (fun x hx => hp x (List.mem_cons_of_mem _ hx)) hall)

/-- The registrations of the access sent. -/
theorem PartStored.sends (hu : Sends t u) : PartStored b pa bs ws s u := by
  have hb : u.barn b = t.barn b := by rw [State.barn, hu.barns]; rfl
  exact ⟨h.work.trans hu.storeWork, by rw [hb]; exact h.barn, fun wa hwa => by rw [hb]; exact h.other wa hwa,
    fun wa hwa => by rw [hb]; exact h.word wa hwa, fun p hp hall => by rw [hb]; exact h.lines p hp hall⟩

end

/-- The words of an access written one after another, and those that have become owned. -/
def storeWord (core pa : Nat) (bs : List Byte) (n ctx pte hd sid : Nat) (lanes : LaneSet) (acc : State × List Nat) (wa : Nat) : State × List Nat :=
  ((acc.1.l1StoreWord core wa n (wordPart pa bs wa).1 (wordPart pa bs wa).2 ctx pte hd [] sid lanes).1,
    if (acc.1.l1StoreWord core wa n (wordPart pa bs wa).1 (wordPart pa bs wa).2 ctx pte hd [] sid lanes).2 then acc.2 ++ [wa] else acc.2)

section
variable {core pa : Nat} {bs : List Byte} {s : State} (n ctx pte hd sid : Nat) (lanes : LaneSet)

theorem foldl_storeWord (he : (s.barn (barnOf core)).evict = []) (l : List Nat) : ∀ {t : State} {due done : List Nat},
    PartStored (barnOf core) pa bs done s t → (l ++ done).Nodup →
      PartStored (barnOf core) pa bs (l.reverse ++ done) s (l.foldl (storeWord core pa bs n ctx pte hd sid lanes) (t, due)).1 ∧
      (l.foldl (storeWord core pa bs n ctx pte hd sid lanes) (t, due)).2 = due ++ l.filter (fun wa => !ownsWord (s.barn (barnOf core)) wa) := by
  induction l with
  | nil => exact fun h _ => ⟨h, (List.append_nil _).symm⟩
  | cons wa l ih =>
    intro t due done h hn
    obtain ⟨hwa, hn⟩ := List.nodup_cons.mp hn
    have hdone : wa ∉ done := fun e => hwa (List.mem_append_right _ e)
    obtain ⟨hst, hreg⟩ := l1StoreWord_stored t (h.evict.trans he) wa n (wordPart pa bs wa).1 (wordPart pa bs wa).2 ctx pte hd sid lanes
    have hn : (l ++ wa :: done).Nodup := List.nodup_middle.mpr (List.nodup_cons.mpr ⟨hwa, hn⟩)
    obtain ⟨h1, h2⟩ := ih (due := if !ownsWord (s.barn (barnOf core)) wa then due ++ [wa] else due) (h.store hdone hst) hn
    have hstep : storeWord core pa bs n ctx pte hd sid lanes (t, due) wa =
        ((t.l1StoreWord core wa n (wordPart pa bs wa).1 (wordPart pa bs wa).2 ctx pte hd [] sid lanes).1,
          if !ownsWord (s.barn (barnOf core)) wa then due ++ [wa] else due) := by
      rw [storeWord, hreg, h.ownsWord_other hdone]
    rw [List.foldl_cons, hstep, List.reverse_cons, List.append_assoc]
    refine ⟨h1, h2.trans ?_⟩
    rw [List.filter_cons]
    split
    · rw [List.append_assoc]; rfl
    · rfl

theorem nodup_wordsOf (pa n : Nat) : (wordsOf pa n).Nodup := by
  rw [wordsOf]
  split
  · exact List.nodup_nil
  · exact List.Nodup.map (fun x y e => Nat.add_right_cancel e) List.nodup_range

/-- The words that an access makes owned. -/
def dueWords (s : State) (b pa n : Nat) : List Nat := (wordsOf pa n).filter (fun wa => !ownsWord (s.barn b) wa)

/-- A store of one access, where its line has a way and it covers no half-owned pair. -/
theorem l1Store_stored (he : (s.barn (barnOf core)).evict = []) (hfull : (s.barn (barnOf core)).setFull (pa / 128) = false)
    (hhalf : s.halfOwned (barnOf core) pa bs.length = []) :
    ∃ t, s.l1Store core pa bs ctx pte hd [] sid lanes = t.sendRegs (barnOf core) (dueWords s (barnOf core) pa bs.length) sid lanes ∧
      PartStored (barnOf core) pa bs (wordsOf pa bs.length) s t := by
  have hroom : s.makeRoom (barnOf core) (pa / 128) = s := by rw [State.makeRoom, hfull]; rfl
  have hcalls : (s.halfOwned (barnOf core) pa bs.length).foldl (fun s wa => s.recallWord wa) s = s := by rw [hhalf]; rfl
  obtain ⟨h1, h2⟩ := foldl_storeWord (s := s) (pa := pa) (bs := bs) (s.writeNo (barnOf core) (wordsOf pa bs.length)) ctx pte hd sid lanes he
    (wordsOf pa bs.length) (t := s) (due := []) (done := [])
    ⟨StoreWork.refl s, rfl, fun _ _ => rfl, fun _ h => absurd h List.not_mem_nil, fun _ _ h => h⟩
    (by rw [List.append_nil]; exact nodup_wordsOf pa bs.length)
  refine ⟨((wordsOf pa bs.length).foldl
    (storeWord core pa bs (s.writeNo (barnOf core) (wordsOf pa bs.length)) ctx pte hd sid lanes) (s, [])).1, ?_, ?_⟩
  · rw [dueWords, ← List.nil_append (List.filter _ _), ← h2, State.l1Store]
    dsimp only
    rw [hroom, hcalls]
    rfl
  · refine ⟨h1.work, h1.barn, fun wa hwa => h1.other wa ?_, fun wa hwa => h1.word wa ?_, fun p hp hall => h1.lines p (fun wa hwa => hp wa ?_) hall⟩
    · rw [List.append_nil, List.mem_reverse]; exact hwa
    · rw [List.append_nil, List.mem_reverse]; exact hwa
    · rw [List.append_nil, List.mem_reverse] at hwa; exact hwa

end

/-! ### Registrations under way -/

/-- A registration of some words is under way. -/
def RegUnderWay (t : State) (b base n : Nat) : Prop :=
  ∃ m e, ∃ hd ctx pte : Nat, m < t.nextId ∧ t.msgs.find? m = some e ∧ e.msg = .reg b base n hd ctx pte false

theorem RegUnderWay.storeWork {s t : State} {b base n : Nat} (h : RegUnderWay s b base n) (ht : StoreWork s t) : RegUnderWay t b base n := by
  obtain ⟨m, e, hd, ctx, pte, hm, he, hmsg⟩ := h
  obtain ⟨e', he', hmsg'⟩ := ht.kept m hm e he
  exact ⟨m, e', hd, ctx, pte, hm.trans_le ht.later, he', hmsg'.trans hmsg⟩

theorem RegSent.underWay {t : State} {b base n sid : Nat} {lanes : LaneSet} (h : RegSent t b base n sid lanes) : RegUnderWay t b base n := by
  obtain ⟨m, hd, ctx, pte, hm, hfind⟩ := h
  exact ⟨m, _, hd, ctx, pte, hm, hfind, rfl⟩

/-- An address is a multiple of an access size. -/
structure Access (pa n : Nat) : Prop where
  size : n = 1 ∨ n = 2 ∨ n = 4 ∨ n = 8 ∨ n = 16
  aligned : pa % n = 0

/-- The words of an access are owned pair by pair, where it covers pairs. -/
def PairsAlike (b : Barn) (pa n : Nat) : Prop :=
  8 ≤ n → ∀ wa, pa / 4 ≤ wa → wa < (pa + n) / 4 → wa % 2 = 0 → ownsWord b wa = ownsWord b (wa + 1)

theorem xor_one (wa : Nat) : Nat.xor wa 1 = if wa % 2 = 0 then wa + 1 else wa - 1 := by
  split
  · next h => exact Nat.xor_one_of_even (Nat.even_iff.mpr h)
  · next h => exact Nat.xor_one_of_odd (Nat.odd_iff.mpr (by omega))

section
variable {s : State} {b pa n : Nat} (ha : Access pa n) (hp : PairsAlike (s.barn b) pa n)
include ha hp

theorem halfOwned_none : s.halfOwned b pa n = [] := by
  rw [halfOwned_eq]
  refine List.filter_eq_nil_iff.mpr fun wa _ hall => ?_
  simp only [Bool.and_eq_true, decide_eq_true_eq, Bool.not_eq_true'] at hall
  obtain ⟨⟨⟨hfull, hmate⟩, hown⟩, hnot⟩ := hall
  rw [xor_one] at hmate hnot
  have h8 : 8 ≤ n ∧ pa % 8 = 0 := by
    obtain ⟨hsize, hal⟩ := ha
    rcases hsize with rfl | rfl | rfl | rfl | rfl
    all_goals
      split at hmate
      · omega
      · omega
  by_cases heven : wa % 2 = 0
  · rw [if_pos heven] at hmate hnot
    rw [hp h8.1 wa (by omega) (by omega) heven, hnot] at hown
    exact Bool.noConfusion hown
  · rw [if_neg heven] at hmate hnot
    have hpair := hp h8.1 (wa - 1) (by omega) (by omega) (by omega)
    rw [hnot, show wa - 1 + 1 = wa by omega, hown] at hpair
    exact Bool.noConfusion hpair

/-- Where the first word of an access has become owned, its registration, and its pair's, is sent. -/
theorem regUnderWay_sent {t : State} (hown : ownsWord (s.barn b) (pa / 4) = false)
    (hw : ∀ wa ∈ wordsOf pa n, ownsWord (t.barn b) wa = true) (sid : Nat) (lanes : LaneSet) :
    RegUnderWay (t.sendRegs b (dueWords s b pa n) sid lanes) b (pa / 4) (if 8 ≤ n then 2 else 1) := by
  have hpos : n ≠ 0 := by rcases ha.size with rfl | rfl | rfl | rfl | rfl <;> decide
  have hdue {wa : Nat} : wa ∈ dueWords s b pa n ↔ (n ≠ 0 ∧ pa / 4 ≤ wa ∧ wa ≤ (pa + n - 1) / 4) ∧ ownsWord (s.barn b) wa = false := by
    rw [dueWords, List.mem_filter, mem_wordsOf, Bool.not_eq_true']
  have hmem : pa / 4 ∈ dueWords s b pa n := hdue.mpr ⟨⟨hpos, Nat.le_refl _, by omega⟩, hown⟩
  have hfound (wa : Nat) (hwa : wa ∈ dueWords s b pa n) : ((t.barn b).words.find? wa).isSome := by
    have ho := hw wa (List.mem_filter.mp hwa).1
    cases hf : (t.barn b).words.find? wa with
    | none => rw [ownsWord, hf] at ho; exact Bool.noConfusion ho
    | some x => rfl
  have hfirst : ¬(pa / 4 % 2 = 1 ∧ (dueWords s b pa n).contains (pa / 4 - 1) = true) := by
    rintro ⟨hodd, hin⟩
    have := (hdue.mp (List.contains_iff_mem.mp hin)).1.2.1
    omega
  have hpair : regOfPair (dueWords s b pa n) (pa / 4) = if 8 ≤ n then 2 else 1 := by
    rw [regOfPair]
    by_cases h8 : 8 ≤ n
    · have heven : pa / 4 % 2 = 0 := by
        obtain ⟨hsize, hal⟩ := ha
        rcases hsize with rfl | rfl | rfl | rfl | rfl <;> omega
      have hmate : pa / 4 + 1 ∈ dueWords s b pa n := hdue.mpr ⟨⟨hpos, by omega, by omega⟩, by
        rw [← hp h8 (pa / 4) (Nat.le_refl _) (by omega) heven]; exact hown⟩
      rw [if_pos h8, if_pos ⟨heven, List.contains_iff_mem.mpr hmate⟩]
    · have hone : (pa + n - 1) / 4 = pa / 4 := by
        obtain ⟨hsize, hal⟩ := ha
        rcases hsize with rfl | rfl | rfl | rfl | rfl <;> omega
      rw [if_neg h8, if_neg]
      rintro ⟨-, hin⟩
      have := (hdue.mp (List.contains_iff_mem.mp hin)).1.2.2
      omega
  have hsent := regSent_foldl (ws := dueWords s b pa n) (sid := sid) (lanes := lanes) hfound hmem hfirst
  rw [hpair] at hsent
  exact hsent.underWay

end

end Sys2Proof.Laws
end

section
namespace Sys2Proof.Laws
open Sys2Proof Sys2Proof.Machine Sys2Proof.Safety

/-! ### The accesses of one store (12 R226) -/

/-- The access of a store, before it is performed and after. -/
def storeAcc (n : Nat) (data : Nat → List Byte) (x : Spec.Xa) : Machine.Acc :=
  ⟨x.1, x.2.1, x.2.2.1, n, x.2.2.2.1, x.2.2.2.2.1, x.2.2.2.2.2, data x.1, .queued⟩
def storedAcc (n : Nat) (data : Nat → List Byte) (x : Spec.Xa) : Machine.Acc := { storeAcc n data x with st := .done [] }

/-- Whether byte a is one of an access's. -/
def Covers (n : Nat) (x : Spec.Xa) (a : Nat) : Prop := x.2.2.1 ≤ a ∧ a < x.2.2.1 + n

/-- What the accesses of a store keep, from the state `s1` in which their addresses have been translated. -/
structure Storing (k : Ctx) (s1 : State) (xs : List Spec.Xa) (n : Nat) (t : State) : Prop where
  frame : { t with barns := s1.barns, msgs := s1.msgs, nextId := s1.nextId, sheaves := s1.sheaves } = s1
  gather : (t.barn (barnOf k.sh.core)).gather = []
  evict : (t.barn (barnOf k.sh.core)).evict = []
  lines : (t.barn (barnOf k.sh.core)).words.all (fun e => decide (e.1 / 32 ∈ spillLines s1 (barnOf k.sh.core) xs)) = true
  pairs : ∀ x ∈ xs, PairsAlike (t.barn (barnOf k.sh.core)) x.2.2.1 n
  beside : ∀ wa, (∀ x ∈ xs, wa ∉ wordsOf x.2.2.1 n) →
    (t.barn (barnOf k.sh.core)).words.find? wa = (s1.barn (barnOf k.sh.core)).words.find? wa
  sent : ∀ x ∈ xs, ownsWord (s1.barn (barnOf k.sh.core)) (x.2.2.1 / 4) = false →
    ownsWord (t.barn (barnOf k.sh.core)) (x.2.2.1 / 4) = true →
      RegUnderWay t (barnOf k.sh.core) (x.2.2.1 / 4) (if 8 ≤ n then 2 else 1)

/-- The issuing sheaf with its one flight. -/
def HasFlight (k : Ctx) (fl : Flight) (accs : List Machine.Acc) (t : State) : Prop :=
  ∃ p, t.sheaf? k.sid = some { k.sh with flights := [readFlight fl accs p] }

section
variable {k : Ctx} {s1 : State} {xs : List Spec.Xa} {n : Nat}

theorem storing_start {t : State} (ht : { t with nextId := s1.nextId, sheaves := s1.sheaves } = s1)
    (hg : (s1.barn (barnOf k.sh.core)).gather = []) (he : (s1.barn (barnOf k.sh.core)).evict = [])
    (hroom : Spec.Roomy s1 (barnOf k.sh.core) xs n) : Storing k s1 xs n t := by
  have hb : t.barn (barnOf k.sh.core) = s1.barn (barnOf k.sh.core) := by
    have e := congrArg (fun x : State => x.barn (barnOf k.sh.core)) ht; exact e
  have hfr := congrArg (fun x : State => { x with barns := s1.barns, msgs := s1.msgs }) ht
  refine ⟨hfr, by rw [hb]; exact hg, by rw [hb]; exact he, ?_, fun x hx h8 wa hlo hhi heven => ?_, fun _ _ => by rw [hb],
    fun x _ h0 h1 => by rw [hb, h0] at h1; exact Bool.noConfusion h1⟩
  · rw [hb]
    exact List.all_eq_true.mpr fun e he => decide_eq_true
      (List.mem_eraseDups.mpr (List.mem_append_left _ ((mem_linesOf hg _).mpr ⟨e, he, rfl⟩)))
  · rw [hb, ownsWord_eq, ownsWord_eq]
    exact hroom.pairs h8 x hx wa hlo hhi heven

/-- The sheaves alone differ. -/
theorem Storing.sheaves {t u : State} (h : Storing k s1 xs n t) (hf : { u with sheaves := t.sheaves } = t) : Storing k s1 xs n u := by
  have hb : u.barn (barnOf k.sh.core) = t.barn (barnOf k.sh.core) := by
    have e := congrArg (fun x : State => x.barn (barnOf k.sh.core)) hf; exact e
  have hm : u.msgs = t.msgs := by have e := congrArg State.msgs hf; exact e
  have hn : u.nextId = t.nextId := by have e := congrArg State.nextId hf; exact e
  have hfr := congrArg (fun x : State => { x with barns := s1.barns, msgs := s1.msgs, nextId := s1.nextId, sheaves := s1.sheaves }) hf
  refine ⟨Eq.trans hfr h.frame, by rw [hb]; exact h.gather, by rw [hb]; exact h.evict, by rw [hb]; exact h.lines,
    by rw [hb]; exact h.pairs, by rw [hb]; exact h.beside, fun x hx h0 h1 => ?_⟩
  rw [hb] at h1
  rw [RegUnderWay, hm, hn]
  exact h.sent x hx h0 h1

/-- Accesses of one size meet in all their words or in none, where they are words or larger. -/
theorem Access.words_eq {pa pa' : Nat} (h : Access pa n) (h' : Access pa' n) {wa : Nat} (hw : wa ∈ wordsOf pa n) (hw' : wa ∈ wordsOf pa' n) :
    pa / 4 = pa' / 4 ∧ (8 ≤ n → pa = pa') := by
  obtain ⟨-, hlo, hhi⟩ := mem_wordsOf.mp hw
  obtain ⟨-, hlo', hhi'⟩ := mem_wordsOf.mp hw'
  obtain ⟨hsize, ha⟩ := h
  obtain ⟨-, ha'⟩ := h'
  rcases hsize with rfl | rfl | rfl | rfl | rfl
  all_goals exact ⟨by omega, fun _ => by omega⟩

/-- One access more, with its registrations. -/
theorem Storing.stored {t u v : State} {bs : List Byte} {x : Spec.Xa} {sid : Nat} {lanes : LaneSet} (h : Storing k s1 xs n t) (hx : x ∈ xs)
    (ha : ∀ x ∈ xs, Access x.2.2.1 n) (hlen : bs.length = n)
    (hu : PartStored (barnOf k.sh.core) x.2.2.1 bs (wordsOf x.2.2.1 n) t u)
    (hv : v = u.sendRegs (barnOf k.sh.core) (dueWords t (barnOf k.sh.core) x.2.2.1 n) sid lanes) :
    Storing k s1 xs n v ∧ PartStored (barnOf k.sh.core) x.2.2.1 bs (wordsOf x.2.2.1 n) t v := by
  have hsends : Sends u v := hv ▸ sends_sendRegs u
  have hp := hu.sends hsends
  have hmeet {y : Spec.Xa} (hy : y ∈ xs) {wa : Nat} (hwa : wa ∈ wordsOf y.2.2.1 n) (hin : wa ∈ wordsOf x.2.2.1 n) :=
    (ha y hy).words_eq (ha x hx) hwa hin
  have hpos {y : Spec.Xa} (hy : y ∈ xs) : y.2.2.1 / 4 ∈ wordsOf y.2.2.1 n := by
    have hn : n ≠ 0 := by rcases (ha y hy).size with h | h | h | h | h <;> omega
    exact mem_wordsOf.mpr ⟨hn, Nat.le_refl _, by omega⟩
  have hfr := congrArg (fun y : State => { y with barns := s1.barns, msgs := s1.msgs, nextId := s1.nextId, sheaves := s1.sheaves }) hp.work.frame
  refine ⟨⟨Eq.trans hfr h.frame, hp.gather.trans h.gather, hp.evict.trans h.evict, ?_, fun y hy h8 wa hlo hhi heven => ?_, fun wa hwa => ?_,
    fun y hy h0 h1 => ?_⟩, hp⟩
  · refine hp.lines (fun l => decide (l ∈ spillLines s1 (barnOf k.sh.core) xs)) (fun wa hwa => decide_eq_true ?_) h.lines
    have hline : wa / 32 = x.2.2.1 / 128 := by
      obtain ⟨-, hlo, hhi⟩ := mem_wordsOf.mp hwa
      obtain ⟨hsize, hal⟩ := ha x hx
      rcases hsize with rfl | rfl | rfl | rfl | rfl
      all_goals omega
    rw [hline]
    exact List.mem_eraseDups.mpr (List.mem_append_right _ (List.mem_map.mpr ⟨x, hx, rfl⟩))
  · have hn : n ≠ 0 := by omega
    have hwords : wa ∈ wordsOf y.2.2.1 n ∧ wa + 1 ∈ wordsOf y.2.2.1 n := by
      obtain ⟨hsize, hal⟩ := ha y hy
      refine ⟨mem_wordsOf.mpr ⟨hn, hlo, by omega⟩, mem_wordsOf.mpr ⟨hn, by omega, ?_⟩⟩
      rcases hsize with rfl | rfl | rfl | rfl | rfl
      all_goals omega
    by_cases hxy : y.2.2.1 = x.2.2.1
    · rw [hxy] at hwords
      rw [hp.ownsWord hwords.1, hp.ownsWord hwords.2]
    · rw [hp.ownsWord_other fun e => hxy ((hmeet hy hwords.1 e).2 h8), hp.ownsWord_other fun e => hxy ((hmeet hy hwords.2 e).2 h8)]
      exact h.pairs y hy h8 wa hlo hhi heven
  · rw [hp.other wa (hwa x hx)]
    exact h.beside wa hwa
  · cases ht : ownsWord (t.barn (barnOf k.sh.core)) (y.2.2.1 / 4) with
    | true => exact (h.sent y hy h0 ht).storeWork hp.work
    | false =>
      have hin : y.2.2.1 / 4 ∈ wordsOf x.2.2.1 n := by
        by_contra hout
        rw [hp.ownsWord_other hout, ht] at h1
        exact Bool.noConfusion h1
      have hsame := (hmeet hy (hpos hy) hin).1
      rw [hsame] at ht ⊢
      rw [hv]
      exact regUnderWay_sent (ha x hx) (h.pairs x hx) ht (fun wa hwa => hu.ownsWord hwa) sid lanes

end

/-! ### Bytes of the L1 -/

section
variable {b pa n : Nat} {bs : List Byte} {s t : State} (h : PartStored b pa bs (wordsOf pa n) s t) (hlen : bs.length = n)
include h hlen

/-- The bytes of an access are there. -/
theorem PartStored.byte {j : Nat} (hj : j < n) : Spec.l1Byte (t.barn b) (pa + j) (bs.getD j 0) := by
  have hlt : (pa + j) % 4 < 4 := Nat.mod_lt _ (by decide)
  obtain ⟨y, hy, hst⟩ := h.word ((pa + j) / 4) (mem_wordsOf.mpr ⟨by omega, by omega, by omega⟩)
  obtain ⟨hmask, hbyte⟩ := wordPart_spec pa bs ((pa + j) / 4) hlt
  have hin : inPart pa bs.length ((pa + j) / 4) ((pa + j) % 4) = true := decide_eq_true (by omega)
  obtain ⟨hwritten, hval⟩ := hst.bytes _ hlt (hmask.trans hin)
  refine ⟨y, hy, hst.owned, hwritten, (hval.trans (hbyte hin)).trans (congrArg (bs.getD · 0) ?_)⟩
  omega

/-- Bytes outside the access stay. -/
theorem PartStored.byte_kept {a : Nat} {v : Byte} (ha : ¬(pa ≤ a ∧ a < pa + n)) (hv : Spec.l1Byte (s.barn b) a v) :
    Spec.l1Byte (t.barn b) a v := by
  obtain ⟨z, hz, hown, hwritten, hval⟩ := hv
  by_cases hwa : a / 4 ∈ wordsOf pa n
  · have hlt : a % 4 < 4 := Nat.mod_lt _ (by decide)
    obtain ⟨y, hy, hst⟩ := h.word _ hwa
    have hout : inPart pa bs.length (a / 4) (a % 4) = false := decide_eq_false (by omega)
    obtain ⟨hw, hb⟩ := hst.kept z hz hown _ hlt ((wordPart_spec pa bs (a / 4) hlt).1.trans hout) hwritten
    exact ⟨y, hy, hst.owned, hw, hb.trans hval⟩
  · exact ⟨z, (h.other _ hwa).trans hz, hown, hwritten, hval⟩

end

end Sys2Proof.Laws
end

section
namespace Sys2Proof.Laws
open Sys2Proof Sys2Proof.Machine Sys2Proof.Safety

/-! ### A store's flight (12 R226) -/

/-- What a store of the issuing sheaf meets: device memory that answers, room in the L1, no merge buffer and no phase. -/
structure StoreFree (k : Ctx) (s1 : State) (xs : List Spec.Xa) (n : Nat) : Prop where
  here : Spec.Local s1 xs
  room : Spec.Roomy s1 (barnOf k.sh.core) xs n
  access : ∀ x ∈ xs, Access x.2.2.1 n
  unmerged : s1.mergeKey k.sh = none
  phases : k.sh.phases = []
  gather : (s1.barn (barnOf k.sh.core)).gather = []
  evict : (s1.barn (barnOf k.sh.core)).evict = []

section
variable {k : Ctx} {s1 : State} {xs : List Spec.Xa} {n : Nat} {t : State} {x : Spec.Xa}

/-- Nothing keeps an access waiting. -/
theorem Storing.clear (h : Storing k s1 xs n t) (hfree : StoreFree k s1 xs n) (hx : x ∈ xs) :
    isHost x.2.2.1 = false ∧ isPeer x.2.2.1 = false ∧ x.2.2.2.2.2 = false ∧ t.dieWaits x.2.2.2.2.1 = false ∧
      (t.barn (barnOf k.sh.core)).setFull (x.2.2.1 / 128) = false ∧ t.halfOwned (barnOf k.sh.core) x.2.2.1 n = [] ∧
      t.hostHolds x.2.2.1 = false := by
  obtain ⟨hpa, hhome, hdie⟩ := hfree.here x hx
  refine ⟨decide_eq_false (by omega), decide_eq_false (by omega), hhome, ?_, ?_, ?_, ?_⟩
  · have e := congrArg (fun y : State => y.dieWaits x.2.2.2.2.1) h.frame
    exact Eq.trans e hdie
  · exact setFull_of_ways h.gather h.lines
      (List.mem_eraseDups.mpr (List.mem_append_right _ (List.mem_map.mpr ⟨x, hx, rfl⟩))) (hfree.room.ways x hx)
  · exact halfOwned_none (hfree.access x hx) (h.pairs x hx)
  · have e := congrArg (fun y : State => y.hostHolds x.2.2.1) h.frame
    exact Eq.trans e (hfree.room.host x hx)

/-- The flight with one access performed. -/
theorem HasFlight.performed {fl : Flight} {pre post : List Machine.Acc} {a : Machine.Acc} (h : HasFlight k fl (pre ++ a :: post) t) :
    HasFlight k fl (pre ++ { a with st := .done [] } :: post) ((t.setAcc k.sid fl.id pre.length (.done [])).markPerformed k.sid fl.id) ∧
      { (t.setAcc k.sid fl.id pre.length (.done [])).markPerformed k.sid fl.id with sheaves := t.sheaves } = t := by
  obtain ⟨p, hp⟩ := h
  refine ⟨⟨true, ?_⟩, ?_⟩
  · rw [State.markPerformed, State.setAcc, sheaf_modSheaf, if_pos rfl, sheaf_modSheaf, if_pos rfl, hp]
    refine congrArg some ?_
    simp only [Sheaf.modFlight, readFlight, List.map_cons, List.map_nil, if_true]
    exact congrArg (fun l => { k.sh with flights := [{ fl with accs := l, performed := true }] })
      (map_zipIdx_replace (fun a : Machine.Acc => { a with st := .done [] }) pre a post)
  · exact (congrArg (fun y : State => { y with sheaves := t.sheaves }) (modSheaf_frame (t.setAcc k.sid fl.id pre.length (.done [])) k.sid _)).trans
      (modSheaf_frame t k.sid _)

/-- One attempt at an access of a flight, as performFlight makes it. -/
def performAcc (sid : Nat) (f : Flight) (s : State) (e : Machine.Acc × Nat) : State :=
  match (s.sheaf? sid).bind (fun sh => (sh.flight? f.id).map (fun g => (sh, g))) with
  | none => s
  | some (sh, g) =>
    match g.accs[e.2]? with
    | none => s
    | some a =>
      if !a.st.open || s.behind sid f.id (accLanes f a) a.pa a.n || !s.reachable a || s.gatherStuck (barnOf sh.core) a.pa a.n then s
      else if isStore f.instr then (if g.lowerWaits e.2 a then s else s.performStore sid sh.core sh g e.2 a)
      else if isLoad f.instr || isPop f.instr then s.performLoad sid sh.core g e.2 a
      else s

theorem performFlight_eq (s : State) (sid : Nat) (f : Flight) (hgone : s.goneIn f = []) (hopen : s.pathsOpen f = true) :
    s.performFlight sid f = f.accs.zipIdx.foldl (performAcc sid f) s := by
  rw [State.performFlight, hgone, hopen, List.isEmpty_nil, Bool.not_true, Bool.and_false, Bool.and_false, if_neg Bool.false_ne_true,
    if_neg Bool.false_ne_true]
  rfl

/-- An access of a sheaf's one flight that nothing keeps waiting is performed. -/
theorem performAcc_open {sid i : Nat} {sh : Sheaf} {fl g : Flight} {a : Machine.Acc} (hs : t.sheaf? sid = some sh) (hfl : sh.flights = [g])
    (hid : g.id = fl.id) (ha : g.accs[i]? = some a) (hopen : a.st.open = true) (hdie : t.dieWaits a.hd = false)
    (hg : (t.barn (barnOf sh.core)).gather = []) (hst : isStore fl.instr = true) (hlower : g.lowerWaits i a = false) (a' : Machine.Acc) :
    performAcc sid fl t (a', i) = t.performStore sid sh.core sh g i a := by
  have hflight : sh.flight? fl.id = some g := flight_of_only hfl hid
  have hbehind (m : LaneSet) (pa n : Nat) : t.behind sid fl.id m pa n = false := by
    rw [State.behind, hs]; simp [Sheaf.before, hfl, hid]
  have hreach : t.reachable a = true := by rw [State.reachable, hdie, Bool.not_false, Bool.or_true]
  have hstuck (pa n : Nat) : t.gatherStuck (barnOf sh.core) pa n = false := by rw [State.gatherStuck, hg]; rfl
  rw [performAcc, hs, Option.bind_some, hflight]
  dsimp only [Option.map_some]
  rw [ha]
  dsimp only
  rw [hopen, hbehind, hreach, hstuck, if_neg (by decide), if_pos hst]
  exact if_neg (by rw [hlower]; exact Bool.false_ne_true)

/-- Accesses of which the lower ones are performed. -/
theorem lowerWaits_done {fl : Flight} {data : Nat → List Byte} (pre : List Spec.Xa) (a : Machine.Acc) (post : List Machine.Acc) (p : Bool) :
    Flight.lowerWaits (readFlight fl (pre.map (storedAcc n data) ++ post) p) pre.length a = false := by
  have htake : List.take pre.length (pre.map (storedAcc n data) ++ post) = pre.map (storedAcc n data) := List.take_left' (List.length_map _)
  rw [Flight.lowerWaits, readFlight]
  dsimp only
  rw [htake]
  exact any_eq_false_of fun a ha => by obtain ⟨y, -, rfl⟩ := List.mem_map.mp ha; rfl

section
variable {fl : Flight} {data : Nat → List Byte} {pre post : List Spec.Xa} (h : Storing k s1 xs n t) (hfree : StoreFree k s1 xs n)
  (hx : x ∈ xs) (hst : isStore fl.instr = true)
include h hfree hx hst

/-- An access is performed in the L1. -/
theorem performStore_l1 {sh : Sheaf} (hsh : sh = { k.sh with flights := sh.flights }) {p : Bool} {accs : List Machine.Acc} (i : Nat) :
    t.performStore k.sid sh.core sh (readFlight fl accs p) i (storeAcc n data x) =
      ((t.l1Store k.sh.core x.2.2.1 (data x.1) fl.ctx x.2.2.2.1 x.2.2.2.2.1 [] k.sid (accLanes fl (storeAcc n data x))).setAcc k.sid fl.id i
        (.done [])).markPerformed k.sid fl.id := by
  obtain ⟨hhost, hpeer, hho, -, hfull, hhalf, hholds⟩ := h.clear hfree hx
  have hpub : t.publishAt (barnOf k.sh.core) x.2.2.1 n = t := by rw [State.publishAt, h.gather]; rfl
  have hkey : t.mergeKey k.sh = none := by
    have e := congrArg (fun y : State => y.mergeKey k.sh) h.frame
    exact Eq.trans e hfree.unmerged
  have hphase (va : Nat) : k.sh.phasesAt va = [] := by rw [Sheaf.phasesAt, hfree.phases]; rfl
  have hwaits (reg : Bool) : t.storeWaits (barnOf k.sh.core) x.2.2.1 n reg = false := by
    rw [State.storeWaits, hholds, hhalf, State.roomFor, hfull, Bool.and_false]; rfl
  have hkey : t.mergeKey sh = none := by rw [hsh]; exact hkey
  have hphase (va : Nat) : sh.phasesAt va = [] := by rw [hsh]; exact hphase va
  have hcore : sh.core = k.sh.core := by rw [hsh]
  have hinstr : isStore (readFlight fl accs p).instr = true := hst
  rw [State.performStore]
  simp only [hcore, storeAcc, hpub, hinstr, hkey, hhost, hpeer, hho, hphase, hwaits, List.isEmpty_nil, Bool.false_eq_true, if_false]
  rfl

/-- The step of the flight at an access: its bytes are stored, the others stay. -/
theorem performAcc_store (hlen : (data x.1).length = n)
    (hf : HasFlight k fl (pre.map (storedAcc n data) ++ storeAcc n data x :: post.map (storeAcc n data)) t) :
    ∃ u, performAcc k.sid fl t (storeAcc n data x, pre.length) = u ∧ Storing k s1 xs n u ∧
      HasFlight k fl (pre.map (storedAcc n data) ++ storedAcc n data x :: post.map (storeAcc n data)) u ∧
      (∀ j < n, Spec.l1Byte (u.barn (barnOf k.sh.core)) (x.2.2.1 + j) ((data x.1).getD j 0)) ∧
      (∀ a v, ¬Covers n x a → Spec.l1Byte (t.barn (barnOf k.sh.core)) a v → Spec.l1Byte (u.barn (barnOf k.sh.core)) a v) ∧
      ∀ wa, wa ∈ wordsOf x.2.2.1 n ∨ ownsWord (t.barn (barnOf k.sh.core)) wa = true → ownsWord (u.barn (barnOf k.sh.core)) wa = true := by
  obtain ⟨-, -, -, hdie, hfull, hhalf, -⟩ := h.clear hfree hx
  obtain ⟨u, hu, hpart⟩ := l1Store_stored (s := t) (pa := x.2.2.1) (bs := data x.1) fl.ctx x.2.2.2.1 x.2.2.2.2.1 k.sid
    (accLanes fl (storeAcc n data x)) h.evict hfull (by rw [hlen]; exact hhalf)
  rw [hlen] at hu hpart
  obtain ⟨hstored, hall⟩ := h.stored hx hfree.access hlen hpart rfl (sid := k.sid) (lanes := accLanes fl (storeAcc n data x))
  rw [← hu] at hstored hall
  have hperf (sh : Sheaf) (hsh : sh = { k.sh with flights := sh.flights }) (p : Bool) (accs : List Machine.Acc) :=
    performStore_l1 h hfree hx hst (data := data) hsh (p := p) (accs := accs) pre.length
  generalize t.l1Store k.sh.core x.2.2.1 (data x.1) fl.ctx x.2.2.2.1 x.2.2.2.2.1 [] k.sid (accLanes fl (storeAcc n data x)) = v
    at hstored hall hperf
  obtain ⟨p, hp⟩ := hf
  have hsheaves : v.sheaves = t.sheaves := by have e := congrArg State.sheaves hall.work.frame; exact e
  have hv : HasFlight k fl (pre.map (storedAcc n data) ++ storeAcc n data x :: post.map (storeAcc n data)) v :=
    ⟨p, by rw [State.sheaf?, hsheaves]; exact hp⟩
  obtain ⟨hdone, hsame⟩ := hv.performed
  rw [List.length_map] at hdone hsame
  refine ⟨(v.setAcc k.sid fl.id pre.length (.done [])).markPerformed k.sid fl.id, ?_, hstored.sheaves hsame, hdone, ?_, ?_, ?_⟩
  · have hplace : (pre.map (storedAcc n data) ++ storeAcc n data x :: post.map (storeAcc n data))[pre.length]? = some (storeAcc n data x) := by
      rw [List.getElem?_append_right (by rw [List.length_map]), List.length_map, Nat.sub_self]; rfl
    refine (performAcc_open hp rfl rfl hplace rfl hdie h.gather hst (lowerWaits_done pre _ _ p) _).trans ?_
    exact hperf _ rfl p _
  all_goals
    have hb : ((v.setAcc k.sid fl.id pre.length (.done [])).markPerformed k.sid fl.id).barn (barnOf k.sh.core) = v.barn (barnOf k.sh.core) := by
      have e := congrArg (fun y : State => y.barn (barnOf k.sh.core)) hsame; exact e
    rw [hb]
  · exact fun j hj => hall.byte hlen hj
  · exact fun a v ha hv => hall.byte_kept hlen ha hv
  · intro wa hwa
    by_cases hin : wa ∈ wordsOf x.2.2.1 n
    · exact hall.ownsWord hin
    · rw [hall.ownsWord_other hin]
      exact hwa.resolve_left hin

end

/-- Accesses performed in the order of their lanes: where two reach one byte the higher lane's stays. -/
theorem foldl_stores {fl : Flight} {data : Nat → List Byte} (hfree : StoreFree k s1 xs n) (hst : isStore fl.instr = true)
    (hlen : ∀ x ∈ xs, (data x.1).length = n) (post : List Spec.Xa) : ∀ (pre : List Spec.Xa) (t : State), (∀ x ∈ post, x ∈ xs) →
    post.Pairwise (fun x y => x.1 < y.1) → Storing k s1 xs n t →
    HasFlight k fl (pre.map (storedAcc n data) ++ post.map (storeAcc n data)) t →
    ∃ u, ((post.map (storeAcc n data)).zipIdx pre.length).foldl (performAcc k.sid fl) t = u ∧ Storing k s1 xs n u ∧
      HasFlight k fl ((pre ++ post).map (storedAcc n data)) u ∧
      (∀ x ∈ post, ∀ j < n, (∀ y ∈ post, x.1 < y.1 → ¬Covers n y (x.2.2.1 + j)) →
        Spec.l1Byte (u.barn (barnOf k.sh.core)) (x.2.2.1 + j) ((data x.1).getD j 0)) ∧
      (∀ a v, (∀ y ∈ post, ¬Covers n y a) → Spec.l1Byte (t.barn (barnOf k.sh.core)) a v → Spec.l1Byte (u.barn (barnOf k.sh.core)) a v) ∧
      ∀ wa, (∃ x ∈ post, wa ∈ wordsOf x.2.2.1 n) ∨ ownsWord (t.barn (barnOf k.sh.core)) wa = true →
        ownsWord (u.barn (barnOf k.sh.core)) wa = true := by
  induction post with
  | nil =>
    intro pre t _ _ h hf
    exact ⟨t, rfl, h, by rw [List.append_nil]; rw [List.map_nil, List.append_nil] at hf; exact hf, nofun, fun _ _ _ hv => hv,
      fun _ ho => ho.resolve_left fun ⟨_, hx, _⟩ => List.not_mem_nil hx⟩
  | cons x post ih =>
    intro pre t hxs hord h hf
    obtain ⟨hlt, hord⟩ := List.pairwise_cons.mp hord
    have hx := hxs x List.mem_cons_self
    obtain ⟨t1, ht1, h1, hf1, hbytes, hkept, howns⟩ := performAcc_store h hfree hx hst (hlen x hx) hf
    obtain ⟨u, hu, h2, hf2, hall, hrest, hown⟩ := ih (pre ++ [x]) t1 (fun y hy => hxs y (List.mem_cons_of_mem _ hy)) hord h1
      (by rw [List.map_append, List.map_cons, List.map_nil, List.append_assoc]; exact hf1)
    refine ⟨u, ?_, h2, by rw [List.append_assoc] at hf2; exact hf2, fun y hy j hj hno => ?_, fun a v hno hv => ?_,
      fun wa ho => hown wa ?_⟩
    · rw [List.map_cons, List.zipIdx_cons, List.foldl_cons, ht1, ← hu, List.length_append, List.length_singleton]
    · rcases List.mem_cons.mp hy with rfl | hy
      · exact hrest _ _ (fun z hz => hno z (List.mem_cons_of_mem _ hz) (hlt z hz)) (hbytes j hj)
      · exact hall y hy j hj fun z hz hyz => hno z (List.mem_cons_of_mem _ hz) hyz
    · exact hrest a v (fun y hy => hno y (List.mem_cons_of_mem _ hy)) (hkept a v (hno x List.mem_cons_self) hv)
    · rcases ho with ⟨y, hy, hin⟩ | ho
      · rcases List.mem_cons.mp hy with rfl | hy
        · exact .inr (howns wa (.inl hin))
        · exact .inl ⟨y, hy, hin⟩
      · exact .inr (howns wa (.inr ho))

end

end Sys2Proof.Laws
end

section
namespace Sys2Proof.Laws
open Sys2Proof Sys2Proof.Machine Sys2Proof.Safety

/-! ### A translation keeps an address's place in its page (16 R278, R280) -/

theorem pa_page (e : TlbEnt) (va : DWord) : e.pa va % 4096 = va.toNat % 4096 := by
  have hsize : va.toNat % pageSize e.level % 4096 = va.toNat % 4096 := Nat.mod_mod_of_dvd _ (by
    rw [pageSize, Nat.pow_add]
    exact Dvd.intro _ rfl)
  rw [TlbEnt.pa, pteBase]
  split
  · split
    · omega
    · omega
  · omega

theorem canon_page {s : State} {pa : Nat} (h : s.place pa ≠ .absent) : (s.place pa).canon % 4096 = pa % 4096 := by
  rw [State.place] at h ⊢
  dsimp only at h ⊢
  by_cases h3 : pa / 2 ^ 50 % 4 = 3
  · rw [if_pos h3, Place.canon]
    omega
  · rw [if_neg h3] at h ⊢
    by_cases h2 : pa / 2 ^ 50 % 4 = 2
    · rw [if_pos h2] at h ⊢
      by_cases hm : memBytes ≤ pa % 2 ^ 41
      · rw [if_pos hm] at h; exact absurd rfl h
      · rw [if_neg hm]
        split
        · rw [Place.canon]; omega
        · rw [Place.canon]; omega
    · rw [if_neg h2] at h ⊢
      by_cases hm : memBytes ≤ pa % 2 ^ 51
      · rw [if_pos hm] at h; exact absurd rfl h
      · rw [if_neg hm, Place.canon]; omega

theorem translate_page {s : State} {core : Option Nat} {ctx : Nat} {va : DWord} {a : AKind} {engine : Bool} {pa pte hd : Nat} {ho : Bool}
    (h : (s.translate core ctx va a engine).1 = .ok pa pte hd ho) : pa % 4096 = va.toNat % 4096 := by
  rw [State.translate] at h
  split at h
  · cases h
  · cases h
  · next e t _ =>
    split at h
    · cases h
    · dsimp only at h
      split at h
      · cases h
      · next hp =>
        have hpa := (Xl.ok.inj h).1
        rw [← hpa, canon_page fun e => hp (.inl e), pa_page]

theorem xlateEach_page {core : Option Nat} {ctx : Nat} {a : AKind} (as : List (Nat × DWord)) : ∀ (s : State), ∀ e ∈ (s.xlateEach core ctx a as).1,
    ∀ x, okOf e = some x → x.2.2.1 % 4096 = x.2.1.toNat % 4096 := by
  induction as with
  | nil => exact fun _ _ h => absurd h List.not_mem_nil
  | cons y as ih =>
    intro s e he x hx
    rcases List.mem_cons.mp he with rfl | he
    · rw [okOf] at hx
      split at hx
      · next pa pte hd ho hok =>
        rw [← Option.some.inj hx]
        exact translate_page hok
      · cases hx
    · exact ih _ e he x hx

theorem xlateLanes_page {s s1 : State} {core : Option Nat} {ctx : Nat} {a : AKind} {as : List (Nat × DWord)} {xs : List Spec.Xa}
    (h : s.xlateLanes core ctx a as = (.ok xs, s1)) {x : Spec.Xa} (hx : x ∈ xs) : x.2.2.1 % 4096 = x.2.1.toNat % 4096 := by
  have hxs : xs = (s.xlateEach core ctx a as).1.filterMap okOf := by
    rw [State.xlateLanes] at h
    dsimp only at h
    split at h
    · cases h
    · split at h
      · exact (Xres.ok.inj (Prod.mk.inj h).1).symm
      · cases h
  rw [hxs] at hx
  obtain ⟨e, he, hok⟩ := List.mem_filterMap.mp hx
  exact xlateEach_page as s e he x hok

theorem access_of_xlate {s s1 : State} {core : Option Nat} {ctx : Nat} {a : AKind} {as : List (Nat × DWord)} {xs : List Spec.Xa} {size : Size}
    (h : s.xlateLanes core ctx a as = (.ok xs, s1)) (ha : Spec.Aligned as size.bytes) {x : Spec.Xa} (hx : x ∈ xs) :
    Access x.2.2.1 size.bytes := by
  have hin : (x.1, x.2.1) ∈ as := by
    rw [← (xlateLanes_ok h).2]
    exact List.mem_map.mpr ⟨x, hx, rfl⟩
  have hal : x.2.1.toNat % size.bytes = 0 := ha _ hin
  have hpage := xlateLanes_page h hx
  refine ⟨by cases size <;> simp [Size.bytes], ?_⟩
  cases size
  all_goals
    rw [Size.bytes] at hal ⊢
    omega

/-! ### The start and the end of a store -/

section
variable {i : Instr} {s1 : State} {k : Ctx}

theorem modFlight_flightSheaf (hfl : k.sh.flights = []) (f g : Flight) :
    (flightSheaf k f).modFlight f.id (fun _ => g) = flightSheaf k g := by
  rw [Sheaf.modFlight, flightSheaf, flightSheaf, hfl, List.nil_append, List.nil_append, List.map_cons, List.map_nil, if_pos rfl]

/-- An instruction whose release is done at once performs what it can, and ends if that was all. -/
theorem startMem_released {sc : Scope} (hs : s1.sheaf? k.sid = some k.sh) (hrel : relScope i = some sc) (hpub : publishes i = true)
    (hwake : ∀ g d a b off, i ≠ .wake g d a b off) (hq : Spec.Quiet s1 k) (accs : List Machine.Acc) : startMem i s1 k accs =
      { st := ((withFlight s1 k (accessFlight i s1 k accs)).performFlight k.sid (accessFlight i s1 k accs)).finishFlight k.sid s1.nextId } := by
  have hactors : ∃ m, (k.flight i s1.nextId .releasing false accs).actors = m ∧ Spec.Quiet s1 { k with e := m } := by
    rw [Flight.actors]
    split
    · have howes := hq.owes
      rw [BitVec.or_comm] at howes
      refine ⟨_, rfl, hq.flights, ?_, hq.gather, hq.failed⟩
      have hpath : s1.owes k.sid (k.path ||| k.path) = false := by rw [BitVec.or_self]; exact owes_false_of_or howes
      exact hpath
    · exact ⟨_, rfl, hq⟩
  obtain ⟨m, hm, hquiet⟩ := hactors
  have honly : (flightSheaf k (k.flight i s1.nextId .releasing false accs)).flights = [k.flight i s1.nextId .releasing false accs] :=
    congrArg (· ++ [k.flight i s1.nextId .releasing false accs]) hq.flights
  have hbefore : (flightSheaf k (k.flight i s1.nextId .releasing false accs)).before s1.nextId = [] := by
    rw [Sheaf.before, honly]
    exact List.filter_cons_of_neg fun h => Nat.lt_irrefl _ (of_decide_eq_true h)
  have hfind : (flightSheaf k (k.flight i s1.nextId .releasing false accs)).flight? s1.nextId = some _ := flight_of_only honly rfl
  have horder := orderState_clear (s := s1) (k := { k with e := m })
    (v := withFlight s1 k (k.flight i s1.nextId .releasing false accs)) (fid := s1.nextId) hwake
    (sheaf_withFlight s1 k _) rfl rfl hbefore rfl rfl fun _ => hquiet
  have hpublish : (withFlight s1 k (k.flight i s1.nextId .releasing false accs)).publishUpTo (barnOf k.sh.core) sc = _ :=
    publishUpTo_of_gather_nil (s := withFlight s1 k (k.flight i s1.nextId .releasing false accs)) hq.gather sc
  have hmod : (withFlight s1 k (k.flight i s1.nextId .releasing false accs)).modSheaf k.sid
      (fun sh => sh.modFlight s1.nextId (fun _ => accessFlight i s1 k accs)) = withFlight s1 k (accessFlight i s1 k accs) := by
    rw [withFlight, modSheaf_setSheaf]
    exact congrArg (State.setSheaf _ k.sid) (modFlight_flightSheaf hq.flights _ _)
  rw [startMem, hrel, Option.isSome_some, if_pos rfl, addFlight_eq_withFlight hs]
  refine congrArg (fun t => ({ st := t } : Done)) ?_
  rw [State.advanceMem, sheaf_withFlight, Option.bind_some, hfind]
  dsimp only [Option.map_some]
  have horder : (withFlight s1 k (k.flight i s1.nextId .releasing false accs)).orderState k.sid s1.nextId
      (k.flight i s1.nextId .releasing false accs).instr (k.flight i s1.nextId .releasing false accs).actors = .clear := by
    rw [hm]; exact horder
  have hrel' : relScope (k.flight i s1.nextId .releasing false accs).instr = some sc := hrel
  have hpub' : publishes (k.flight i s1.nextId .releasing false accs).instr = true := hpub
  have hcore : (flightSheaf k (k.flight i s1.nextId .releasing false accs)).core = k.sh.core := rfl
  rw [horder, hrel', hpub', hcore]
  dsimp only
  rw [if_pos rfl, hpublish]
  exact congrArg (fun t : State => (t.performFlight k.sid (accessFlight i s1 k accs)).finishFlight k.sid s1.nextId) hmod

/-- The end of a store whose accesses have all been performed. -/
theorem finishFlight_stored {t : State} {fl : Flight} {data : Nat → List Byte} {xs : List Spec.Xa} {n : Nat}
    (hf : HasFlight k fl (xs.map (storedAcc n data)) t) (hstage : fl.stage = .access) (hres : resultOf fl.instr = none)
    (hacq : acqScope fl.instr = none) (hw : k.sh.watch = []) : { t.finishFlight k.sid fl.id with sheaves := t.sheaves } = t := by
  obtain ⟨p, hp⟩ := hf
  have hdone : allDone (readFlight fl (xs.map (storedAcc n data)) p) = true := List.all_eq_true.mpr fun a ha => by
    obtain ⟨x, -, rfl⟩ := List.mem_map.mp ha
    rfl
  have hres' : resultOf (readFlight fl (xs.map (storedAcc n data)) p).instr = none := hres
  have hacq' : acqScope (readFlight fl (xs.map (storedAcc n data)) p).instr = none := hacq
  have hend : t.finishFlight k.sid fl.id = t.completeFlight k.sid (readFlight fl (xs.map (storedAcc n data)) p) :=
    finishFlight_done hp (flight_of_only rfl rfl) hstage hdone
  rw [hend, State.completeFlight, hres', hacq']
  dsimp only
  rw [modSheaf_some _ _ _ _ hp, checkWatch_unused ((sheaf_setSheaf _ _ _ _).trans (if_pos rfl)) (by exact hw)]
  rfl

end

/-- The bytes of a store's data, by lane. -/
def storeData (k : Ctx) (r : Reg) (size : Size) (l : Nat) : List Byte :=
  (bytesOfWords ((List.range size.regs).map (fun j => k.opB r l j))).take size.bytes

theorem length_storeData (k : Ctx) (r : Reg) (size : Size) (l : Nat) : (storeData k r size l).length = size.bytes :=
  length_storeOf k r size (fun _ => (0, 0)) l

theorem getD_storeData (k : Ctx) (r : Reg) (size : Size) (l : Nat) {j : Nat} (hj : j < size.bytes) :
    (storeData k r size l).getD j 0 = Spec.groupByte k r l j := getD_storeOf k r size (fun _ => (0, 0)) l hj

section
variable {i : Instr} {s s1 : State} {k : Ctx} {as : List (Nat × DWord)} {xs : List Spec.Xa} {size : Size} {rel : Bool}

/-- No buffer takes a store of a stook outside merge mode, and no write range refuses it. -/
theorem storeBody_ok {n : Nat} (hn : size.bytes = n) (ha : Spec.Aligned as n) (hx : s.xlateLanes (some k.sh.core) k.ctx .write as = (.ok xs, s1))
    (hadm : Spec.Admitted s1 k xs n) (words : Nat → List Word) : s1.mergeKey k.sh = none ∧
      storeBody i s k as words size rel = .ok (startMem i s1 k (xs.map (storeAcc n (fun l => (bytesOfWords (words l)).take n)))) := by
  subst hn
  have haccs : queuedAccs xs size.bytes (fun l => (bytesOfWords (words l)).take size.bytes) =
      xs.map (storeAcc size.bytes (fun l => (bytesOfWords (words l)).take size.bytes)) := rfl
  rw [storeBody, misaligned_none ha]
  dsimp only
  rw [hx]
  dsimp only
  rw [haccs]
  cases hst : s1.stookOf k.sh with
  | none => exact ⟨by rw [State.mergeKey, hst], rfl⟩
  | some st =>
    cases hc : s1.cropOf st with
    | none =>
      refine ⟨?_, ?_⟩
      · rw [State.mergeKey, hst]
        dsimp only
        rw [hc]
      · rw [Option.bind_some, hc]
    | some c =>
      obtain ⟨hrefused, hmerge⟩ := hadm st c hst hc
      have hkey : s1.mergeKey k.sh = none := by
        rw [State.mergeKey, hst]
        dsimp only
        rw [hc]
        dsimp only
        rw [hmerge, if_neg Bool.false_ne_true]
      have hnone : (xs.map (storeAcc size.bytes (fun l => (bytesOfWords (words l)).take size.bytes))).filter
          (fun a => st.storeRefused c a.va.toNat a.n) = [] := by
        refine List.filter_eq_nil_iff.mpr fun a ha => ?_
        obtain ⟨x, hx, rfl⟩ := List.mem_map.mp ha
        have hr : st.storeRefused c x.2.1.toNat size.bytes = false := hrefused x hx
        exact fun h => Bool.false_ne_true (hr.symm.trans h)
      refine ⟨hkey, ?_⟩
      rw [Option.bind_some, hc]
      dsimp only
      rw [hnone]
      dsimp only
      rw [hkey, Option.isSome_none, Bool.false_and, Bool.false_and, if_neg Bool.false_ne_true]

end

section
variable {i : Instr} {s1 : State} {k : Ctx} {xs : List Spec.Xa} {n : Nat} {data : Nat → List Byte}

/-- The effect of a store on the L1, once its addresses are translated. -/
theorem startMem_store (hst : isStore i = true) (hres : resultOf i = none) (hacq : acqScope i = none) (hpub : publishes i = true)
    (hwake : ∀ g d a b off, i ≠ .wake g d a b off) (hs : s1.sheaf? k.sid = some k.sh) (hidle : Spec.Idle s1 k (relScope i).isSome)
    (hfree : StoreFree k s1 xs n) (hlen : ∀ x ∈ xs, (data x.1).length = n) (hord : xs.Pairwise (fun x y => x.1 < y.1)) :
    ∃ u, startMem i s1 k (xs.map (storeAcc n data)) = { st := u } ∧ Storing k s1 xs n u ∧
      (∀ x ∈ xs, ∀ j < n, (∀ y ∈ xs, x.1 < y.1 → ¬Covers n y (x.2.2.1 + j)) →
        Spec.l1Byte (u.barn (barnOf k.sh.core)) (x.2.2.1 + j) ((data x.1).getD j 0)) ∧
      ∀ x ∈ xs, ownsWord (u.barn (barnOf k.sh.core)) (x.2.2.1 / 4) = true := by
  have hstart : startMem i s1 k (xs.map (storeAcc n data)) = { st := ((withFlight s1 k (accessFlight i s1 k (xs.map (storeAcc n data)))).performFlight
      k.sid (accessFlight i s1 k (xs.map (storeAcc n data)))).finishFlight k.sid s1.nextId } := by
    cases hrel : relScope i with
    | none => exact startMem_access hs hrel hidle.flights _
    | some sc =>
      have hsome : (relScope i).isSome = true := by rw [hrel]; rfl
      exact startMem_released hs hrel hpub hwake ⟨hidle.flights, hidle.owes hsome, hidle.gather, hidle.failed hsome⟩ _
  have hflights : (flightSheaf k (accessFlight i s1 k (xs.map (storeAcc n data)))).flights = [accessFlight i s1 k (xs.map (storeAcc n data))] :=
    congrArg (· ++ [accessFlight i s1 k (xs.map (storeAcc n data))]) hidle.flights
  have hbegin : HasFlight k (accessFlight i s1 k (xs.map (storeAcc n data))) (([] : List Spec.Xa).map (storedAcc n data) ++ xs.map (storeAcc n data))
      (withFlight s1 k (accessFlight i s1 k (xs.map (storeAcc n data)))) :=
    ⟨false, (sheaf_withFlight s1 k _).trans (congrArg (fun l => some { k.sh with flights := l }) hflights)⟩
  have hlocal (x : Spec.Xa) (hx : x ∈ xs) : isPeer x.2.2.1 = false := decide_eq_false (by have := (hfree.here x hx).1; omega)
  have hgone : (withFlight s1 k (accessFlight i s1 k (xs.map (storeAcc n data)))).goneIn (accessFlight i s1 k (xs.map (storeAcc n data))) = [] := by
    refine List.filter_eq_nil_iff.mpr fun a ha => ?_
    obtain ⟨x, hx, rfl⟩ := List.mem_map.mp ha
    simp [State.peerGone, storeAcc, hlocal x hx]
  have hopen : (withFlight s1 k (accessFlight i s1 k (xs.map (storeAcc n data)))).pathsOpen (accessFlight i s1 k (xs.map (storeAcc n data))) = true := by
    refine List.all_eq_true.mpr fun a ha => ?_
    obtain ⟨x, hx, rfl⟩ := List.mem_map.mp ha
    simp [storeAcc, hlocal x hx]
  obtain ⟨u, hu, hstored, hf, hbytes, -, howns⟩ := foldl_stores (fl := accessFlight i s1 k (xs.map (storeAcc n data))) hfree hst hlen xs []
    (withFlight s1 k (accessFlight i s1 k (xs.map (storeAcc n data))))
    (fun _ hx => hx) hord (storing_start rfl hfree.gather hfree.evict hfree.room) hbegin
  have hend := finishFlight_stored hf rfl hres hacq hidle.watch
  have hb : (u.finishFlight k.sid s1.nextId).barn (barnOf k.sh.core) = u.barn (barnOf k.sh.core) := by
    have e := congrArg (fun y : State => y.barn (barnOf k.sh.core)) hend; exact e
  refine ⟨u.finishFlight k.sid s1.nextId, ?_, hstored.sheaves hend, ?_⟩
  · rw [hstart, performFlight_eq _ _ _ hgone hopen]
    exact congrArg (fun t : State => ({ st := t.finishFlight k.sid s1.nextId } : Done)) hu
  · rw [hb]
    refine ⟨hbytes, fun x hx => howns _ (.inl ⟨x, hx, ?_⟩)⟩
    have hn : n ≠ 0 := by rcases (hfree.access x hx).size with h | h | h | h | h <;> omega
    exact mem_wordsOf.mpr ⟨hn, Nat.le_refl _, by omega⟩

end

end Sys2Proof.Laws
end

section
namespace Sys2Proof.Laws
open Sys2Proof Sys2Proof.Machine Sys2Proof.Safety

/-! ### STG (12 R210, R226) -/

theorem lanesOf_ascending (m : LaneSet) : (lanesOf m).Pairwise (· < ·) := List.pairwise_lt_range.filter _

/-- A store of the issuing sheaf: its instruction, its addresses in the order of their lanes, and the register and the lanes
that give its data. -/
structure StoreOf (i : Instr) (k : Ctx) (as : List (Nat × DWord)) (size : Size) (rel : Bool) (r : Reg) (lane : Nat → Nat) : Prop where
  store : isStore i = true
  result : resultOf i = none
  acquire : acqScope i = none
  publishes : publishes i = true
  wake : ∀ g d a b off, i ≠ .wake g d a b off
  release : (relScope i).isSome = rel
  ascending : (as.map (·.1)).Pairwise (· < ·)
  body : ∃ addrs : Ctx → List (Nat × DWord), addrs k = as ∧ ∀ s, exec i s = issue i s (fun k => storeBody i s k (addrs k)
    (fun l => (List.range size.regs).map (fun j => k.opB r (lane l) j)) size rel)

section
variable {g : Pred} {size : Size} {scope : Scope} {rel : Bool} {off : BitVec 15} (k : Ctx)

theorem storeOf_stg (a b : Reg) : StoreOf (.stg g a b size scope rel off) k (laneAddrs k a off) size rel b id where
  store := rfl
  result := rfl
  acquire := rfl
  publishes := rfl
  wake := nofun
  release := by cases rel <;> rfl
  ascending := by
    have hlanes : (laneAddrs k a off).map (·.1) = lanesOf k.e := by rw [laneAddrs, List.map_map]; exact List.map_id _
    rw [hlanes]
    exact lanesOf_ascending k.e
  body := ⟨fun k => laneAddrs k a off, rfl, fun _ => rfl⟩

theorem storeOf_stgU (a b : SReg) : StoreOf (.stgU g a b size scope rel off) k (uniAddr k a off) size rel b.reg (fun _ => 0) where
  store := rfl
  result := rfl
  acquire := rfl
  publishes := rfl
  wake := nofun
  release := by cases rel <;> rfl
  ascending := List.pairwise_singleton _ _
  body := ⟨fun k => uniAddr k a off, rfl, fun _ => rfl⟩

end

/-- A store that is admitted and finds room is performed in the L1 as it issues. -/
theorem StoreOf.leaves {i : Instr} {k : Ctx} {as : List (Nat × DWord)} {size : Size} {rel : Bool} {r : Reg} {lane : Nat → Nat}
    (hi : StoreOf i k as size rel r lane) {s s1 : State} {xs : List Spec.Xa} (h : Issues i s k) (ha : Spec.Aligned as size.bytes)
    (hx : s.xlateLanes (some k.sh.core) k.ctx .write as = (.ok xs, s1)) (hloc : Spec.Local s1 xs) (hidle : Spec.Idle s1 k rel)
    (hadm : Spec.Admitted s1 k xs size.bytes) (hroom : Spec.Roomy s1 (barnOf k.sh.core) xs size.bytes) :
    ∃ u, Leaves i k s u ∧ Storing k s1 xs size.bytes u ∧
      (∀ x ∈ xs, ∀ j < size.bytes, (∀ y ∈ xs, x.1 < y.1 → ¬Covers size.bytes y (x.2.2.1 + j)) →
        Spec.l1Byte (u.barn (barnOf k.sh.core)) (x.2.2.1 + j) ((storeData k r size (lane x.1)).getD j 0)) ∧
      ∀ x ∈ xs, ownsWord (u.barn (barnOf k.sh.core)) (x.2.2.1 / 4) = true := by
  have hrest := rests_of_xlate hidle.flights h.runs (rests_of_issues h) hx
  obtain ⟨hkey, hbody⟩ := storeBody_ok (i := i) (size := size) (rel := rel) rfl ha hx hadm
    (fun l => (List.range size.regs).map (fun j => k.opB r (lane l) j))
  have hord : xs.Pairwise (fun x y => x.1 < y.1) := by
    have hasc := hi.ascending
    rw [← (xlateLanes_ok hx).2, List.map_map] at hasc
    exact List.pairwise_map.mp hasc
  have hidle' : Spec.Idle s1 k (relScope i).isSome := by rw [hi.release]; exact hidle
  have hfree : StoreFree k s1 xs size.bytes :=
    ⟨hloc, hroom, fun x hxs => access_of_xlate hx ha hxs, hkey, hidle.phases, hidle.gather, hidle.evict⟩
  obtain ⟨u, hu, heffect⟩ := startMem_store (data := fun l => storeData k r size (lane l)) hi.store hi.result hi.acquire hi.publishes hi.wake
    hrest.here hidle' hfree (fun x _ => length_storeData k r size (lane x.1)) hord
  obtain ⟨addrs, haddrs, hexec⟩ := hi.body
  subst haddrs
  exact ⟨u, ⟨_, hexec s, issue_leaves i s u k _ h (hbody.trans (congrArg Except.ok hu))⟩, heffect⟩

end Sys2Proof.Laws

namespace Sys2Proof.Proofs
open Sys2Proof Sys2Proof.Machine Sys2Proof.Safety Sys2Proof.Laws

/-- Settles O23: the store's accesses are performed one after another, in the order of their lanes. -/
theorem storesIntoL1 : Obligations.StoresIntoL1 := by
  unfold Obligations.StoresIntoL1
  intro i as dat size rel s k xs s1 hi _ h ha hx hloc hidle hadm hroom
  obtain ⟨r, lane, hstore, hdat⟩ : ∃ r lane, StoreOf i k as size rel r lane ∧ ∀ l j, dat l j = Spec.groupByte k r (lane l) j := by
    rcases hi with ⟨g, a, b, scope, off, rfl, rfl, rfl⟩ | ⟨g, a, b, scope, off, rfl, rfl, rfl⟩
    · exact ⟨b, id, storeOf_stg k a b, fun _ _ => rfl⟩
    · exact ⟨b.reg, fun _ => 0, storeOf_stgU k a b, fun _ _ => rfl⟩
  obtain ⟨u, hleaves, hu, hbytes, howns⟩ := hstore.leaves h ha hx hloc hidle hadm hroom
  refine ⟨u, hleaves, by have e := congrArg State.mem hu.frame; exact e, fun x hxs j hj hlast => ?_, fun wa hwa => ?_, fun x hxs hfree => ?_⟩
  · rw [hdat, ← getD_storeData k r size (lane x.1) hj]
    exact hbytes x hxs j hj hlast
  · refine hu.beside wa fun x hxs hin => hwa x hxs ?_
    obtain ⟨-, hlo, hhi⟩ := mem_wordsOf.mp hin
    exact ⟨hlo, hhi⟩
  · have hbefore : ownsWord (s1.barn (barnOf k.sh.core)) (x.2.2.1 / 4) = false := by
      rw [ownsWord]
      split
      · next w hw => exact hfree w hw
      · rfl
    obtain ⟨m, e, hd, ctx, pte, -, he, hmsg⟩ := hu.sent x hxs hbefore (howns x hxs)
    exact ⟨m, e, hd, ctx, pte, he, hmsg⟩

end Sys2Proof.Proofs
end
